-- ==== Sys2Proof/Word.lean ====
section
/-!
DEFINITION. Sys2Proof/Word.lean: the bit-vector types of the node and their plainest arithmetic.

R16 to R18 of spec/00_scope.md: capacities are binary, rates decimal, and every multi-byte value is little-endian.
-/

namespace Sys2Proof

/-- One byte of memory or of a message. -/
abbrev Byte := BitVec 8

/-- One 32-bit register word, page handle or session handle. -/
abbrev Word := BitVec 32

/-- One 64-bit value: a CID, a block ID, a key unit. -/
abbrev DWord := BitVec 64

/-- A tick number (R28): 48 bits, compared modulo 2^48. -/
abbrev Tick := BitVec 48

/-- A string of bytes. -/
abbrev Bytes := List Byte

/-- The value of a little-endian byte string (R18). -/
def leVal : Bytes → Nat
  | [] => 0
  | b :: bs => b.toNat + 256 * leVal bs

/-- The `n` little-endian bytes of a value (R18). -/
def leBytes : Nat → Nat → Bytes
  | 0, _ => []
  | n + 1, v => BitVec.ofNat 8 v :: leBytes n (v / 256)

/-- Tick `a` is earlier than tick `b` when `(b - a) mod 2^48` lies between 1 and 2^47 - 1 (R28). -/
def Tick.earlier (a b : Tick) : Bool :=
  1 ≤ (b - a).toNat && (b - a).toNat < 2 ^ 47

/-- Bit `i` of a natural number. -/
def bitOf (v i : Nat) : Bool := v / 2 ^ i % 2 = 1

/-- Bits `[lo + w - 1 : lo]` of a natural number. -/
def bitsOf (v lo w : Nat) : Nat := v / 2 ^ lo % 2 ^ w

/-- Division rounded up. -/
def ceilDiv (a b : Nat) : Nat := (a + b - 1) / b

end Sys2Proof
end

