-- ==== Sys2Proof/Syntax.lean ====
section
/-!
DEFINITION. Sys2Proof/Syntax.lean: the commands of the node, one constructor per row of spec/opcode_table.json, with
the operands that each one carries (what came over the link, the bus or a pin, or what a unit reported).
-/

namespace Sys2Proof

/-- Where a request came from: an Askius connection (its ID and the message's MSN) or a host queue (its ID and the
entry's index). -/
inductive Src where
  | conn (id : Nat) (msn : Nat)
  | queue (q : Nat) (entry : Nat)
  deriving DecidableEq, Repr

/-- The PCI function that makes an access: the physical function or VF `p` (1 to 63). -/
inductive Fn where
  | pf
  | vf (p : Nat)
  deriving DecidableEq, Repr

/-- One 32-bit write to BAR0 (R484): the function, the byte offset, the byte enables and the data. -/
structure RegWr where
  fn : Fn
  off : Nat
  be : BitVec 4
  data : Word
  deriving DecidableEq, Repr

/-- A slot of a codeword (R242): its 2-bit tag (0 idle, 1 first flit of a unit, 2 next flit, 3 control flit) and its flit. -/
structure Slot where
  tag : Nat
  flit : Bytes
  deriving DecidableEq, Repr

/-- The symbols of one codeword as lanes carry them: a list of 10-bit symbols for each lane (R242). -/
abbrev LaneWord := List (List Nat)

/-- An alignment block (R245): the pattern, the logical lane that is carried (none on a free spare), the physical lane, the port and
half, and the round counter. -/
structure AlignBlock where
  pattern : Nat
  logical : Option Nat
  physical : Nat
  port : Nat
  half : Nat
  round : Nat
  deriving DecidableEq, Repr

/-- How the copy of a move ended (R62, R63): checked, or stopped by an uncorrectable error on one side. -/
inductive CopyResult where
  | checked
  | sourceError
  | destError
  deriving DecidableEq, Repr

/-- Where a DDR5 uncorrectable error falls (R85): one stripe of a die's tier-1 space, or a whole channel. -/
inductive DdrLoss where
  | stripe (die : Nat) (addr : Nat)
  | channel (ch : Nat)
  deriving DecidableEq, Repr

/-- Where a corrected error was found by the scrub (R82): a central-store address or a tier-1 address of a die. -/
inductive ScrubAt where
  | hbm (addr : Nat)
  | ddr (die : Nat) (addr : Nat)
  deriving DecidableEq, Repr

/-- What an uncorrectable cluster-buffer error hit: a staged tile of the sheet, which can or cannot be staged again
before the cutoff, or the saved state of one query's row block. -/
inductive BufHit where
  | tile (tile : Nat) (restageInTime : Bool)
  | rowState (query : Nat)
  deriving DecidableEq, Repr

/-- One row block of a pass (R169): the query, the row-block state it continues, the block of 32 heads (the head, for an
expanded layer) and the tile of the sheet. -/
structure PassItem where
  query : Nat
  rb : Nat
  headBlock : Nat
  tile : Nat
  deriving DecidableEq, Repr

/-- The alignment blocks that the physical lanes of a half have shown, each with its arrival in ps (R245). -/
structure SeenBlocks where
  half : Nat
  lanes : List (Option (AlignBlock × Int))
  deriving DecidableEq, Repr

/-- What a droop sensor of a die has sensed (R428): the local core voltage in mV. -/
structure DroopSense where
  die : Nat
  sensor : Nat
  mv : Nat
  deriving DecidableEq, Repr

/-- A codeword that cannot be corrected, as the physical lanes bring it, with the logical lane that seems worst (R247). -/
structure BadWord where
  lanes : LaneWord
  worst : Nat
  deriving DecidableEq, Repr

/-- The read of a spilled tail page for its copy (R64): the copy, and the check that a fault of the expander made fail, if any (R226). -/
structure TailRead where
  copy : Nat
  upset : Option Nat
  deriving DecidableEq, Repr

/-- A complete message: its connection and its number (R279). -/
structure MsgRef where
  conn : Nat
  msn : Nat
  deriving DecidableEq, Repr

/-- What a read names: an offset in BAR0, or one in the doorbell pages of BAR2 (R308, R309). -/
inductive ReadAt where
  | reg (off : Nat)
  | doorbell (off : Nat)
  deriving DecidableEq, Repr

/-- What a compressor works on (R210, R222): a course on its way to tier 1, an understudy's copy course bound for tier 1, by source node,
partition and index (R383), or a copy course in HBM that a RESTORE batch carries, by the reply's number (R386). -/
inductive CmpJob where
  | spill (mv : Nat)
  | copy (src part course : Nat)
  | reply (n : Nat)
  deriving DecidableEq, Repr

/-- What an expander was asked to expand (R226): a block of a promotion or lift, a block read through for a sheet, or a streamed
segment of an expanded layer for the clusters of a die (R180). -/
inductive DecodeJob where
  | move (mv : Nat) (blk : Nat)
  | readThrough (course : Nat) (blk : Nat)
  | weights (die : Nat) (layer : Nat) (blk : Nat)
  deriving DecidableEq, Repr

/-- Why a tick source is lost (R263). -/
inductive SourceLoss where
  | missing
  | portDown
  | discontinuous
  deriving DecidableEq, Repr

/-- One authenticated packet of a message as the receive checks leave it (R289, R278): the connection, the MSN, the
packet's INDEX, whether it carries LAST, the TARGET field and the payload bytes. -/
structure MsgPart where
  conn : Nat
  msn : Nat
  index : Nat
  last : Bool
  target : Nat
  payload : Bytes
  deriving DecidableEq, Repr


/-- A management frame as a port received it (R466): the port (0 A, 1 B), the requester's MAC address and the payload
(header, body and, but for a clear frame, tag). -/
structure Frame where
  port : Nat
  mac : Nat
  payload : Bytes
  deriving DecidableEq, Repr

/-- What DDR5 training found on one channel (R67, R86, R451): modules fitted, their capacity in GiB each, and whether
the channel trained. -/
structure DdrChan where
  modules : Nat
  gib : Nat
  trained : Bool
  deriving DecidableEq, Repr

/-- A unit that self-test found failed (R453). -/
inductive BadUnit where
  | cluster (phys : Nat)
  | bank (phys : Nat)
  deriving DecidableEq, Repr

/-- The part of self-test that ended (R453). -/
inductive TestPart where
  | rehearsal | full
  deriving DecidableEq, Repr

/-- What the two PMBus transactions of a listed regulator brought (R419, R476): its input power in 1/4 W, and its output voltage in mV
(last and lowest of the millisecond); none where the transaction failed. -/
structure PmbReading where
  entry : Nat
  power : Option Nat
  volts : Option (Nat × Nat)
  deriving DecidableEq, Repr

/-- The commands of the node (spec/opcode_table.json). Times `at_` are picoseconds since the start of the running tick. -/
inductive Instr where
  /-- `TICK_BOUNDARY`, R28. -/
  | tickBoundary
  /-- `COMPUTE_CUTOFF`, R42. -/
  | computeCutoff
  /-- `EGRESS_PHASE`, R198. -/
  | egressPhase
  /-- `RETRY_PASS`, R114. -/
  | retryPass
  /-- `LEND_POINT`, R192. -/
  | lendPoint
  /-- `SPL_TICK_DECISION`, R74. -/
  | splTickDecision
  /-- `HEAT_DECAY`, R70. -/
  | heatDecay
  /-- `MOVE_COPY_DONE`, R62. -/
  | moveCopyDone (mv : Nat) (res : CopyResult)
  /-- `MOVE_COMMIT`, R62. -/
  | moveCommit (mv : Nat)
  /-- `TAIL_PAGE_COPY_DONE`, R64. -/
  | tailPageCopyDone (read : TailRead)
  /-- `HBM_UNCORRECTABLE_ERROR`, R85. -/
  | hbmUncorrectableError (addr : Nat)
  /-- `DDR_UNCORRECTABLE_ERROR`, R85. -/
  | ddrUncorrectableError (loss : DdrLoss)
  /-- `SYSTEM_AREA_ERROR`, R85. -/
  | systemAreaError (stack off : Nat)
  /-- `SCRUB_CORRECTED`, R82. -/
  | scrubCorrected (loc : ScrubAt)
  /-- `TAKE_OFFLINE`, R85. -/
  | takeOffline (w : RegWr)
  /-- `PGM_FMT_VALID`, R88. -/
  | pgmFmtValid (w : RegWr)
  /-- `OPEN`, R103. -/
  | openSession (src : Src) (desc : Bytes)
  /-- `FORK`, R117. -/
  | forkSession (src : Src) (desc : Bytes)
  /-- `FORK_COPIES_LANDED`, R105. -/
  | forkCopiesLanded (child : Nat)
  /-- `CLOSE`, R120. -/
  | closeSession (src : Src) (desc : Bytes)
  /-- `SESSION_CLOSE_COMPLETE`, R105. -/
  | sessionCloseComplete (idx : Nat)
  /-- `APPEND`, R109. -/
  | appendRows (src : Src) (payload : Bytes) (at_ : Nat)
  /-- `ROW_LANDED`, R94. -/
  | rowLanded (die : Nat)
  /-- `MATCH`, R146. -/
  | matchPrefix (src : Src) (payload : Bytes)
  /-- `PUBLISH`, R149. -/
  | publishBlocks (src : Src) (payload : Bytes)
  /-- `RETRACT`, R152. -/
  | retractBlocks (src : Src) (payload : Bytes)
  /-- `PIN`, R152. -/
  | pinBlocks (src : Src) (payload : Bytes)
  /-- `UNPIN`, R152. -/
  | unpinBlocks (src : Src) (payload : Bytes)
  /-- `PREFIX_OP_START`, R144. -/
  | prefixOpStart
  /-- `PREFIX_OP_COMPLETE`, R147. -/
  | prefixOpComplete
  /-- `PARITY_SCAN`, R138. -/
  | parityScan
  /-- `KEYSTONE_BANK_REBUILT`, R48. -/
  | keystoneBankRebuilt (bank : Nat)
  /-- `SPARE_MAP_WRITE`, R49. -/
  | spareMapWrite (w : RegWr)
  /-- `CLUSTER_SWAP_EFFECT`, R50. -/
  | clusterSwapEffect
  /-- `CLUSTER_FAULT`, R50. -/
  | clusterFault (cluster cause bufOff : Nat)
  /-- `CLUSTER_BUFFER_UE`, R175. -/
  | clusterBufferUe (cluster bufOff : Nat) (hit : BufHit)
  /-- `CONTROL_CORE_FAULT`, R494. -/
  | controlCoreFault (core : Nat)
  /-- `CLUSTER_PASS`, R176. -/
  | clusterPass (slot : Nat) (work : List PassItem)
  /-- `RESULT_PORT_TRANSFER`, R195. -/
  | resultPortTransfer (slot : Nat)
  /-- `CODEBOOK_VALID`, R163. -/
  | codebookValid (w : RegWr)
  /-- `WEIGHT_LOAD`, R179. -/
  | weightLoad (w : RegWr)
  /-- `WEIGHT_LOAD_DONE`, R179. -/
  | weightLoadDone
  /-- `ATTEND`, R185. -/
  | attend (src : Src) (payload : Bytes) (at_ : Nat)
  /-- `PARTIAL`, R206. -/
  | partialRecord (msg : MsgRef) (record : Bytes)
  /-- `CREDIT_RECORD`, R205. -/
  | creditRecord (msg : MsgRef) (record : Bytes)
  /-- `CANCEL_RECORD`, R204. -/
  | cancelRecord (msg : MsgRef) (record : Bytes)
  /-- `COLLECTOR_DEADLINE`, R207. -/
  | collectorDeadline (part group : Nat)
  /-- `CREDIT_WAIT_EXPIRED`, R205. -/
  | creditWaitExpired (held : Nat)
  /-- `EARLY_WAIT_EXPIRED`, R206. -/
  | earlyWaitExpired (early : Nat)
  /-- `COMPRESSOR_BLOCK_EMITTED`, R221. -/
  | compressorBlockEmitted (die : Nat) (job : CmpJob) (blk : Nat) (bytes : Bytes) (corrupt : Bool)
  /-- `BLOCK_DECODE_DONE`, R224. -/
  | blockDecodeDone (inst : Nat) (job : DecodeJob) (upset : Option Nat)
  /-- `XPD_RETIRE`, R225. -/
  | xpdRetire (w : RegWr)
  /-- `LP_ENABLE`, R252. -/
  | lpEnable (w : RegWr)
  /-- `LP_RETRAIN`, R251. -/
  | lpRetrain (w : RegWr)
  /-- `FORCE_SWAP`, R248. -/
  | forceSwap (w : RegWr)
  /-- `LANE_SIGNAL_DETECT`, R252. -/
  | laneSignalDetect (port : Nat) (half : Nat) (lanes : Nat)
  /-- `LANES_CONVERGED`, R252. -/
  | lanesConverged (port : Nat) (half : Nat) (failed : Option Nat)
  /-- `TRAIN_TIMEOUT`, R252. -/
  | trainTimeout (port : Nat) (half : Nat)
  /-- `LANES_DESKEWED`, R252. -/
  | lanesDeskewed (port : Nat) (seen : SeenBlocks)
  /-- `HELLO`, R252. -/
  | helloFlit (port : Nat) (half : Nat) (flit : Bytes)
  /-- `HELLO_TIMER`, R255. -/
  | helloTimer (port : Nat) (half : Nat)
  /-- `HELLO_TIMEOUT`, R252. -/
  | helloTimeout (port : Nat) (half : Nat)
  /-- `HARD_LANE_FAILURE`, R250. -/
  | hardLaneFailure (port : Nat) (lane : Nat)
  /-- `ALIGNMENT_ROUND`, R245: the blocks received, the symbols corrected on each logical lane since the last round, and whether
  the spare has converged. -/
  | alignmentRound (port : Nat) (half : Nat) (blocks : List AlignBlock) (corrected : List Nat) (spareOk : Bool)
  /-- `SWAP_REQ`, R249. -/
  | swapReq (port : Nat) (half : Nat) (flit : Bytes)
  /-- `SWAP_ACK`, R249. -/
  | swapAck (port : Nat) (half : Nat) (flit : Bytes)
  /-- `LINK_UNIT_RECEIVED`, R243: the codewords that hold the unit, each as the nine physical lanes bring it, and the slot at
  which the unit begins. -/
  | linkUnitReceived (port : Nat) (half : Nat) (words : List LaneWord) (first : Nat)
  /-- `CODEWORD_UNCORRECTABLE`, R247; `units` have a flit in it. -/
  | codewordUncorrectable (port : Nat) (half : Nat) (word : BadWord) (units : Nat)
  /-- `CREDIT`, R258. -/
  | creditFlit (port : Nat) (half : Nat) (flit : Bytes)
  /-- `TICK_MARK`, R261. -/
  | tickMark (port : Nat) (half : Nat) (flit : Bytes) (arrive : Int)
  /-- `TICK_SOURCE_LOST`, R263. -/
  | tickSourceLost (why : SourceLoss)
  /-- `TICK_SWITCH_WRITE`, R265. -/
  | tickSwitchWrite (w : RegWr)
  /-- `PERIOD_SWITCH`, R265. -/
  | periodSwitch
  /-- `TICK_LOAD`, R266. -/
  | tickLoad (w : RegWr)
  /-- `TICK_IN_EDGE`, R266. -/
  | tickInEdge (dev : Int)
  /-- `TICK_IN_LOST`, R266. -/
  | tickInLost
  /-- `INSTALL`, R271. -/
  | installConn (src : Src) (desc : Bytes)
  /-- `REKEY`, R272. -/
  | rekeyConn (src : Src) (desc : Bytes)
  /-- `REMOVE`, R272. -/
  | removeConn (src : Src) (desc : Bytes)
  /-- `REKEY_OVERLAP_EXPIRED`, R272. -/
  | rekeyOverlapExpired (conn : Nat)
  /-- `CONNECTION_FREED`, R272. -/
  | connectionFreed (conn : Nat)
  /-- `CONTEXT_FETCH_DONE`, R277. -/
  | contextFetchDone (conn : Nat) (entry : Bytes)
  /-- `PACKET_RECEIVED`, R289. -/
  | packetReceived (port : Nat) (half : Nat) (packet : Bytes)
  /-- `WRITE`, R297. -/
  | writeOp (pkt : MsgPart)
  /-- `READ`, R299. -/
  | readOp (pkt : MsgPart)
  /-- `CAS`, R299. -/
  | casOp (pkt : MsgPart)
  /-- `SEND_HOST_QUEUE`, R322. -/
  | sendHostQueue (conn : Nat) (msn : Nat) (queue : Nat) (bytes : Bytes)
  /-- `STRIKE_NOTICE`, R362. -/
  | strikeNotice (conn : Nat) (msn : Nat) (bytes : Bytes)
  /-- `FENCE`, R300. -/
  | fenceOp (conn : Nat) (msn : Nat) (bytes : Bytes)
  /-- `NOTICE`, R280. -/
  | noticeOp (conn : Nat) (msn : Nat) (bytes : Bytes)
  /-- `RESPONSE`, R285. -/
  | responseOp (pkt : MsgPart)
  /-- `ACK`, R283. -/
  | ackOp (conn : Nat) (bytes : Bytes)
  /-- `ACK_DELAY_EXPIRED`, R283. -/
  | ackDelayExpired (conn : Nat)
  /-- `REORDER_EXPIRED`, R284. -/
  | reorderExpired (conn : Nat) (psn : Nat)
  /-- `RTO_EXPIRED`, R284. -/
  | rtoExpired (conn : Nat) (psn : Nat)
  /-- `PROBE_EXPIRED`, R285. -/
  | probeExpired (conn : Nat) (msn : Nat)
  /-- `REGION_CREATE`, R296. -/
  | regionCreate (src : Src) (desc : Bytes)
  /-- `ADVANCE`, R296. -/
  | regionAdvance (src : Src) (desc : Bytes)
  /-- `DESTROY`, R296. -/
  | regionDestroy (src : Src) (desc : Bytes)
  /-- `REGION_DRAIN_DONE`, R296. -/
  | regionDrainDone (part : Nat) (index : Nat)
  /-- `SCHEDULER_DECISION`, R338. -/
  | schedulerDecision
  /-- `PORT_UNIT_START`, R340. -/
  | portUnitStart (port : Nat) (half : Nat)
  /-- `SHAPER_RECONFIGURE`, R344. -/
  | shaperReconfigure (w : RegWr)
  /-- `METER_RECONFIGURE`, R346. -/
  | meterReconfigure (w : RegWr)
  /-- `ENABLE`, R312. -/
  | queueEnable (w : RegWr)
  /-- `DISABLE`, R312. -/
  | queueDisable (w : RegWr)
  /-- `RESET`, R312. -/
  | queueReset (w : RegWr)
  /-- `QUEUE_DRAINED`, R312. -/
  | queueDrained (q : Nat)
  /-- `SQ_TAIL`, R314. -/
  | sqTail (fn : Fn) (q : Nat) (value : Nat)
  /-- `CQ_HEAD`, R315. -/
  | cqHead (fn : Fn) (q : Nat) (value : Nat)
  /-- `SQ_ENTRY_FETCHED`, R312. -/
  | sqEntryFetched (q : Nat) (entry : Option Bytes)
  /-- `HOST_SESSION`, R319. -/
  | hostSession (q : Nat) (entry : Nat) (payload : Option Bytes)
  /-- `HOST_ATTEND`, R319. -/
  | hostAttend (q : Nat) (entry : Nat) (payload : Option Bytes) (at_ : Nat)
  /-- `HOST_APPEND`, R319. -/
  | hostAppend (q : Nat) (entry : Nat) (payload : Option Bytes) (at_ : Nat)
  /-- `HOST_CONN`, R270. -/
  | hostConn (q : Nat) (entry : Nat) (payload : Option Bytes)
  /-- `HOST_REGION`, R295. -/
  | hostRegion (q : Nat) (entry : Nat) (payload : Option Bytes)
  /-- `MSG`, R320. -/
  | hostMsg (q : Nat) (entry : Nat) (payload : Option Bytes)
  /-- `COPY`, R321. -/
  | hostCopy (q : Nat) (entry : Nat) (payload : Option Bytes)
  /-- `RECV`, R322. -/
  | hostRecv (q : Nat) (entry : Nat)
  /-- `NOP`, R318. -/
  | hostNop (q : Nat) (entry : Nat)
  /-- `WAIT_TICKS_EXPIRED`, R327. -/
  | waitTicksExpired (q : Nat) (entry : Nat)
  /-- `COAL_NS_EXPIRED`, R331. -/
  | coalNsExpired (q : Nat)
  /-- `FLR`, R332. -/
  | functionReset (fn : Fn)
  /-- `PERST`, R446. -/
  | perstAssert
  /-- `BUS_MASTER_ENABLE_CHANGE`, R333. -/
  | busMasterEnableChange (on : Bool)
  /-- `BAR4_READ`, R310. -/
  | bar4Read (fn : Fn) (off : Nat) (len : Nat) (uncorrectable : Bool)
  /-- `BAR4_WRITE`, R310. -/
  | bar4Write (fn : Fn) (off : Nat) (bytes : Bytes)
  /-- `CREATE`, R358. -/
  | partCreate (w : RegWr)
  /-- `STRIKE`, R360. -/
  | partStrike (w : RegWr)
  /-- `INSTALL_KEY`, R359. -/
  | installKey (w : RegWr)
  /-- `STRIKE_DRAIN_END`, R360. -/
  | strikeDrainEnd (part : Nat)
  /-- `SCRUB_COMPLETE`, R363. -/
  | scrubComplete (part : Nat)
  /-- `STRIKE_PUBLISH`, R360. -/
  | strikePublish (part : Nat)
  /-- `FKEK_WRITE`, R359. -/
  | fkekWrite (w : RegWr)
  /-- `FKEK_LOCK`, R359. -/
  | fkekLock (w : RegWr)
  /-- `SVN_COMMIT`, R367. -/
  | svnCommit (w : RegWr)
  /-- `EXT_GO`, R368. -/
  | extGo (w : RegWr)
  /-- `ATT_GO`, R370. -/
  | attGo (w : RegWr)
  /-- `ATTEST_REPORT_WRITTEN`, R370. -/
  | attestReportWritten
  /-- `MIRROR_ENABLE`, R384. -/
  | mirrorEnable (w : RegWr)
  /-- `MIRROR_BATCH_SEND`, R377; `blocks` are what the compressor emitted for the batch, each with the number of row runs it covers. -/
  | mirrorBatchSend (part : Nat) (blocks : List (Nat × Bytes))
  /-- `MIRROR`, R381. -/
  | mirrorOp (conn : Nat) (msn : Nat) (head body : Bytes)
  /-- `SLICE_SEEDED`, R385. -/
  | sliceSeeded (part : Nat) (cid : DWord)
  /-- `MIRROR_ACK_LATE`, R384. -/
  | mirrorAckLate (part : Nat)
  /-- `MIRROR_STREAM_LOST`, R384. -/
  | mirrorStreamLost (part : Nat)
  /-- `MIRROR_RESEED_TIMER`, R384. -/
  | mirrorReseedTimer (part : Nat)
  /-- `RESTORE_FETCH_SEND`, R386. -/
  | restoreFetchSend (course : Nat)
  /-- `COMMIT`, R388. -/
  | commitOp (src : Src) (desc : Bytes)
  /-- `COMMIT_WAIT_EXPIRED`, R388. -/
  | commitWaitExpired (src : Src)
  /-- `HOME_WAIT_EXPIRED`, R392. -/
  | homeWaitExpired (session : Nat)
  /-- `LEASE_EXPIRED`, R397. -/
  | leaseExpired
  /-- `ORPHAN_TIMEOUT`, R405. -/
  | orphanTimeout (session : Nat)
  /-- `POWER_ESTIMATE`, R421. -/
  | powerEstimate (counts0 counts1 : List Nat) (temps : List Int)
  /-- `TELEMETRY_TRIM`, R419. -/
  | telemetryTrim (readings : List PmbReading)
  /-- `HBM_TEMP_READ`, R429. -/
  | hbmTempRead (temps : List Int)
  /-- `DROOP_TRIP`, R428. -/
  | droopTrip (sense : DroopSense)
  /-- `THERMTRIP`, R431. -/
  | thermtrip
  /-- `LANE_SCAN`, R432. -/
  | laneScan (port lane v h berCl : Nat)
  /-- `OPTICAL_READ`, R435. -/
  | opticalRead (port half : Nat) (reading : Option (Int × Int))
  /-- `CAL_WRITE`, R439. -/
  | calWrite (w : RegWr)
  /-- `CAL_WRITE_DONE`, R439. -/
  | calWriteDone (programmed : Bool)
  /-- `BUDGET`, R415. -/
  | budgetOrder (f : Frame)
  /-- `BUDGET_EXPIRED`, R416. -/
  | budgetExpired
  /-- `PWRGOOD_RISE`, R442. -/
  | pwrgoodRise (bootSel : Nat) (mgtSel testMode : Bool)
  /-- `PWRGOOD_FALL`, R441. -/
  | pwrgoodFall (ns : Nat)
  /-- `BOOT_IMAGE_VERIFIED`, R447. -/
  | bootImageVerified (image : Nat)
  /-- `D2D_TRAINED`, R450. -/
  | d2dTrained (ok : Bool)
  /-- `DDR_TRAINING_DONE`, R451. -/
  | ddrTrainingDone (chans : List DdrChan)
  /-- `HBM_ROUND_DONE`, R451. -/
  | hbmRoundDone (failed : List Nat)
  /-- `SELFTEST_DONE`, R453. -/
  | selftestDone (part : TestPart) (bad : List BadUnit)
  /-- `READY_REACHED`, R456. -/
  | readyReached
  /-- `PROMOTION_BOUNDARY`, R462. -/
  | promotionBoundary
  /-- `GLB_ID_LOCK`, R452. -/
  | glbIdLock (w : RegWr)
  /-- `WARM_RESET`, R464. -/
  | warmReset (w : RegWr)
  /-- `WATCHDOG_EXPIRED`, R445. -/
  | watchdogExpired (core : Nat)
  /-- `SERDESCLK_LOST`, R508. -/
  | serdesclkLost (clk : Nat)
  /-- `PCIE_REFCLK_LOST`, R508. -/
  | pcieRefclkLost
  /-- `SYSCLK_LOST`, R508. -/
  | sysclkLost
  /-- `D2D_DEGRADED`, R427. -/
  | d2dDegraded (lost : Bool)
  /-- `STATUS`, R471. -/
  | statusOrder (f : Frame)
  /-- `SET_MK`, R468. -/
  | setMk (f : Frame)
  /-- `SET_IDS`, R452. -/
  | setIds (f : Frame)
  /-- `LEASE_ORDER`, R397. -/
  | leaseOrder (f : Frame)
  /-- `FENCE_ORDER`, R399. -/
  | fenceOrder (f : Frame)
  /-- `FENCE_MIN`, R399. -/
  | fenceMinOrder (f : Frame)
  /-- `TAKEOVER`, R401. -/
  | takeoverOrder (f : Frame)
  /-- `RECONCILE`, R400. -/
  | reconcileOrder (f : Frame)
  /-- `ADOPT`, R405. -/
  | adoptOrder (f : Frame)
  /-- `DISCARD`, R399. -/
  | discardOrder (f : Frame)
  /-- `RESET_ORDER`, R470. -/
  | resetOrder (f : Frame)
  /-- `READ_REG`, R472. -/
  | readReg (f : Frame)
  /-- `ATTEST`, R473. -/
  | attestOrder (f : Frame)
  /-- `CAL_READ`, R473. -/
  | calRead (f : Frame)
  /-- `LOG_READ`, R473. -/
  | logRead (f : Frame)
  /-- `USAGE`, R481. -/
  | usageOrder (f : Frame)
  /-- `TAKEN_LIST`, R401. -/
  | takenListOrder (f : Frame)
  /-- `IMAGE_WRITE`, R474. -/
  | imageWrite (f : Frame)
  /-- `IMAGE_STREAM_IDLE`, R474. -/
  | imageStreamIdle
  /-- `DEBUG_TOKEN`, R475. -/
  | debugToken (f : Frame)
  /-- `DEBUG_CLEAR`, R475. -/
  | debugClear (f : Frame)
  /-- `MK_WRITE`, R468. -/
  | mkWrite (w : RegWr)
  /-- `USAGE_SAMPLE`, R479. -/
  | usageSample
  /-- `USAGE_STATEMENT_CLOSE`, R480. -/
  | usageStatementClose
  /-- `SOFT_RESET`, R489. -/
  | softReset (w : RegWr)
  /-- `FREEZE`, R489. -/
  | freezeWrite (w : RegWr)
  /-- `BLK_ISR_CLEAR`, R490. -/
  | blkIsrClear (w : RegWr)
  /-- `BLK_ISET`, R492. -/
  | blkIset (w : RegWr)
  /-- `BLK_IER_WRITE`, R492. -/
  | blkIerWrite (w : RegWr)
  /-- `HOLDOFF_EXPIRED`, R492. -/
  | holdoffExpired (fn : Fn) (vector : Nat)
  /-- `REGISTER_WRITE`, R516. -/
  | registerWrite (w : RegWr)
  /-- `MANAGEMENT_LINK_CHANGE`, R465. -/
  | managementLinkChange (port : Nat) (up : Bool)
  /-- `PERST_RELEASE`, R446. -/
  | perstRelease
  /-- `PCIE_LINK_TRAINED`, R446. -/
  | pcieLinkTrained (speed width : Nat)
  /-- `SERDESCLK_RETURN`, R508. -/
  | serdesclkReturn (clk : Nat)
  /-- `PCIE_REFCLK_RETURN`, R508. -/
  | pcieRefclkReturn
  /-- `DROOP_RELEASE`, R428. -/
  | droopRelease (die cycles : Nat)
  /-- `WATCHDOG_WARNING`, R491. -/
  | watchdogWarning
  /-- `WATCHDOG_WARM_RESET`, R445. -/
  | watchdogWarmReset
  /-- `LATCHING_REGISTER_READ`, R484. -/
  | latchingRegisterRead (fn : Fn) (place : ReadAt) (len : Nat)
  /-- `MSIX_UNMASK`, R492. -/
  | msixUnmask (fn : Fn) (vector : Nat)
  /-- `SRIOV_VF_ENABLE`, R306. -/
  | sriovVfEnable (num : Nat)
  deriving DecidableEq, Repr

end Sys2Proof
end

