-- ==== Sys2Proof/Decode.lean ====
section
/-!
DEFINITION. Sys2Proof/Decode.lean: the command that a word of spec/opcode_table.json spells. The table gives no row of this
block any bits, so no word spells a command; what a message or frame carries is taken apart by the command's meaning.
-/

namespace Sys2Proof

/-- The table gives bits to no row: no word spells a command. -/
def decodeTableWord (_nbits _w : Nat) : Option Instr := none

end Sys2Proof
end

