-- ==== Sys2Proof/Config.lean ====
section
/-!
DEFINITION. Sys2Proof/Config.lean: what one part fixes (fuses, built-in tables) and the free values: opaque constants,
without a body, of which no proof can see a value. Each is named in a row of notes/assumptions.
-/

namespace Sys2Proof.Config

/-- The fused DEVICE_ID (16 bytes). -/
opaque deviceId : BitVec 128

/-- The fused MAC address of management port A (0) or B (1). -/
opaque mac : Nat → BitVec 48

/-- SHA3-256 of the vendor public key of an index, as fused (R366). -/
opaque vendorKeyDigest : Nat → BitVec 256

/-- The boot ROM's identity string and the 64-byte fuse summary (R368). -/
opaque romIdentity : Bytes
opaque fuseSummary : Bytes

/-- The ML-DSA-44 public key of the DIK, and of the device certificate the issuer key index and the device-CA's signature (R370). -/
opaque dikPublic : Bytes
opaque issuerKey : Byte
opaque caSignature : Bytes

/-- ML-DSA-44 signature under the DIK over a message with a context string (FIPS 204; hedged signing makes the bytes
free). -/
opaque dikSign : Nat → Bytes → Bytes → Bytes

/-- ML-DSA-44 verification: public key, message, context, signature (FIPS 204). -/
opaque mldsaVerify : Bytes → Bytes → Bytes → Bytes → Bool

/-- Fresh random bits: the n-th draw of the node's random source. -/
opaque random : Nat → Nat

/-- A free choice the spec leaves to the node: the n-th choice among `count` candidates. -/
opaque choose : Nat → Nat

/-- A free value the spec does not state, the n-th drawn. -/
opaque freeValue : Nat → Nat

/-- The built-in calibration values (R438): weights by die and counter in 1/16 pJ, static power S25 and S85 by die in
1/16 W, lane power in mW. -/
opaque builtinWeight : Nat → Nat → Nat
opaque builtinStatic : Nat → Nat × Nat
opaque builtinLane : Nat

/-- The silicon stepping of BLK_REV: major and minor, four bits each. -/
opaque silicon : BitVec 8

/-- The fixed 64-bit pattern that begins an alignment block (R245; the spec gives no value). -/
opaque alignPattern : Nat

/-- The soft errors of Keystone bits that stand when the n-th scan has passed: bank, unit and bit, 0 to 63 of the key, 64 to 79 of the
metadata word. -/
opaque keyUpsets : Nat → List (Nat × Nat × Nat)

/-- The result of an FP32 operation (0 add, 1 multiply, 2 exponential) on an operand that is an infinity or a NaN: the spec
forms none, and a received one has no stated result. -/
opaque fpSpecial : Nat → Word → Word → Word

end Sys2Proof.Config
end

