-- ==== Sys2Proof/Machine/State.lean ====
section
/-!
DEFINITION. Sys2Proof/Machine/State.lean: everything the spec gives the node to hold, as plain data. Register fields
that are plain values live in `State.regs`; the structures below hold what no register can.
-/

namespace Sys2Proof.Machine

/-! ## Central store and tiers (spec/02) -/

/-- A compressed block at rest (R66, R213, R231): its first byte in 256 B units of its space, the die whose expander
reads it, its stored length and the MODE byte of its header (the block summary of R231). -/
structure Blk where
  die : Nat
  unit : Nat
  len : Nat
  mode : Nat
  deriving DecidableEq, Repr

/-- Where a course lies (R60): tier 0 at a node frame, tier 1 or tier 2 as one or two compressed blocks. A copy held as understudy may
also lie in HBM as the compressed blocks that were received (R211, R376), each from the frame `unit / 16` on. -/
inductive Loc where
  | hbm (frame : Nat)
  | packed (blks : List Blk)
  | ddr (blks : List Blk)
  | host (blks : List Blk)
  deriving DecidableEq, Repr

/-- The classes of bulk movement, in the order of R71. -/
inductive MoveClass where
  | reserveDefence | watermarkDefence | prefetch | heat | lowerSpill | rebalance
  deriving DecidableEq, Repr

/-- A move in flight (R62): the course, its class, the destination space it holds, the tick in which the destination
was written and checked, how many successive sheets have pinned its source, and the blocks already emitted or expanded. -/
structure Move where
  course : Nat
  cls : MoveClass
  dst : Loc
  checked : Option Tick
  pinnedSheets : Nat
  blksDone : List Nat
  started : Tick
  tries : Nat
  deriving DecidableEq, Repr

/-- One page of a course: what its 64-byte header says (R93) and the rows counted for it (R38, R109). -/
structure Page where
  layer : Nat
  firstPos : Nat
  counted : Nat
  landed : Nat
  flags : Nat
  fmt : Nat
  rowBytes : Nat
  creator : Word
  cid : DWord
  handle : Word
  installTick : Word
  blockId : DWord
  lost : Bool
  deriving DecidableEq, Repr

/-- A course record (R60, R99) with its block summary and reference count. -/
structure Course where
  part : Nat
  k : Nat
  slot : Nat
  tail : Bool
  heat : Nat
  lastTouch : Word
  loc : Loc
  session : Option Nat
  creator : Nat
  layer : Nat
  refs : Nat
  fromReserve : Bool
  base : Nat
  pages : List Page
  heatTick : Option Tick
  /-- a copy that this node holds as understudy (R376) -/
  copy : Bool := false
  deriving DecidableEq, Repr

/-- A prefetch request (R77): the course and its deadline tick. -/
structure PfReq where
  course : Nat
  deadline : Tick
  deriving DecidableEq, Repr

/-- The copy of a part-filled last page out of a spilled tail course (R64). -/
structure TailCopy where
  session : Nat
  layer : Nat
  srcCourse : Nat
  srcPage : Nat
  dst : Nat
  fromReserve : Bool
  deriving DecidableEq, Repr

/-- The central store and its tiers. -/
structure Store where
  courses : List (Nat × Course)
  moves : List (Nat × Move)
  tailCopies : List (Nat × TailCopy)
  prefetch : List PfReq
  /-- grants of the six classes for the next tick, in bytes (R74) -/
  grants : List Nat
  /-- frames drawn from the device reserve and not yet returned, by partition (R79) -/
  reserveDrawn : List (Nat × Nat)
  lastDrew : Nat
  /-- frames retired since reset (R83), and the 4 KiB grains of each die's tier-1 space -/
  retiredFrames : List Nat
  retiredGrains : List (Nat × Nat)
  /-- corrected errors of a frame (key `frame`) or grain (key `2^40 + die * 2^36 + grain`), with the ms of each (R83) -/
  ceLog : List (Nat × List Nat)
  /-- bytes lent, moved and read in the running tick, for the status registers of CST, SPL and HBM -/
  mirrorReserved : Nat
  movedSpill : Nat
  movedPromote : Nat
  rdBytes : List (Nat × Nat)
  /-- courses freed once no open sheet pins them (R99, R40) -/
  dying : List Nat
  /-- next in-service channel on which a new tier-1 block starts, by die (R229) -/
  nextChan : List Nat
  boundHeldBefore : Bool
  /-- (partition, tier) whose watermark is being defended: its free space has been below LOW and is not yet at TARGET -/
  defending : List (Nat × Nat)
  /-- frames and grains (keys as in `ceLog`) that are retired as soon as the course on them has moved (R83) -/
  retiring : List Nat
  /-- retired frames and grains (keys as in `ceLog`) whose row has been repaired (R86) -/
  repaired : List Nat
  /-- the tick of the last halving of the heats (R70) -/
  lastDecay : Tick
  /-- the leaves of the handle map in the order of their allocation: partition, handle bits [31:16] (R60) -/
  leaves : List (Nat × Nat)
  deriving DecidableEq, Repr

/-! ## Pages and sessions (spec/03) -/

/-- A run of pages of one course in a layer's page table (R98). -/
structure Run where
  course : Nat
  first : Nat
  count : Nat
  deriving DecidableEq, Repr

/-- One layer of a session (R95, R98, R104): its runs in ascending FIRST_POS, the aim of its last course, the rows
counted, and the next position left by a MATCH with JUMP that attached nothing (R147). -/
structure Layer where
  runs : List Run
  aim : Option Nat
  rows : Nat
  jumpTo : Option Nat
  lastAppend : Tick
  deriving DecidableEq, Repr

/-- Session states (R105). -/
inductive SessState where
  | open | closing | lost | struck | forming
  deriving DecidableEq, Repr

/-- Ownership of a slice as this node knows it (R390 to R407). -/
inductive OwnState where
  | own          -- no home record is needed, or the record names this node
  | claiming     -- the claim of a new record is in flight (R392)
  | unconfirmed  -- awaiting reconciliation (R400)
  | foreign (owner : Nat)
  deriving DecidableEq, Repr

/-- A session record (R104), with what R77, R105 and R120 need beside it. -/
structure Session where
  gen : Nat
  state : SessState
  part : Nat
  fmt : Nat
  layers : List Layer
  cid : DWord
  parentCid : DWord
  forkPos : Nat
  openTick : Word
  slots : Nat
  ownEpoch : Nat
  /-- the node that first opened the slice (R390) -/
  origin : Nat
  hint : Nat
  ksBank : Option Nat
  ksIdx : Nat
  own : OwnState
  orphan : Bool
  /-- last query on this node: layer, arrival tick; last interval measured (R77) -/
  lastQuery : Option (Nat × Tick)
  interval : Option Nat
  /-- the FORK, OPEN or CLOSE that awaits its completion: source and tag -/
  waiting : Option (Src × Nat)
  waitTick : Tick
  /-- the COMMIT record of its last COMMIT that completed OK, which a later seed carries again (R385, R388) -/
  commit : Bytes := []
  deriving DecidableEq, Repr

/-- Why an APPEND is staged (R113). -/
inductive StageWhy where
  | noSlot | gap | behind | tailCopy
  deriving DecidableEq, Repr

/-- A staged APPEND (R113, R114). -/
structure Staged where
  src : Src
  session : Nat
  part : Nat
  layer : Nat
  jump : Bool
  raw : Bool
  count : Nat
  firstPos : Nat
  rows : List Bytes
  tag : Nat
  retries : Nat
  arrival : Tick
  why : StageWhy
  deriving DecidableEq, Repr

/-- A row on a die's install engine (R110): where it goes, its packed bytes, and the completion that its landing queues
when it is the last row of its APPEND. -/
structure InstallRow where
  course : Nat
  page : Nat
  row : Nat
  bytes : Bytes
  done : Option (Src × Nat × Nat × Nat × Word)
  deriving DecidableEq, Repr

/-- A page copied for a FORK (R117). -/
structure ForkCopy where
  child : Nat
  srcCourse : Nat
  srcPage : Nat
  rows : Nat
  dst : Nat
  deriving DecidableEq, Repr

/-- A freed handle run that may not be given out again yet (R97): partition, base, k, tick from which it may. -/
structure QuietRun where
  part : Nat
  base : Nat
  k : Nat
  until_ : Tick
  deriving DecidableEq, Repr

/-- The page manager. -/
structure Pager where
  sessions : List (Nat × Session)
  /-- generations of the session indexes that have been freed (R100) -/
  gens : List (Nat × Nat)
  staged : List Staged
  install : List (List InstallRow)
  forkCopies : List ForkCopy
  quiet : List QuietRun
  /-- page-table blocks of each layer that has one, by session index × 128 + layer, in chain order (R98) -/
  chains : List (Nat × List Nat)
  deriving DecidableEq, Repr

/-! ## Keystone and the prefix tree (spec/04) -/

/-- An entry of a Keystone bank (R126, R127): its units, each with 64 key bits and 16 metadata bits, and the result word at its index. -/
structure KsEntry where
  units : List (Nat × Nat)
  result : Nat
  deriving DecidableEq, Repr

/-- The entries of a physical Keystone bank by index (R127); its table, width, owner and condition are KEY registers. -/
structure KsBank where
  entries : List (Nat × KsEntry)
  deriving DecidableEq, Repr

/-- A tree record (R139). -/
structure TreeRec where
  blockId : Nat
  parentId : Nat
  tokens : List Nat
  firstPos : Nat
  fmt : Nat
  layers : Nat
  part : Nat
  pinned : Bool
  dying : Bool
  lost : Bool
  children : Nat
  matches_ : Nat
  lastMatch : Word
  bank : Nat
  idx : Nat
  parentRec : Option Nat
  handles : List Word
  deriving DecidableEq, Repr

/-- The five prefix operations (R142). -/
inductive PfxKind where
  | match_ | publish | retract | pin | unpin
  deriving DecidableEq, Repr

/-- A prefix operation, waiting or running (R142 to R144). -/
structure PfxOp where
  kind : PfxKind
  src : Src
  part : Nat
  session : Nat
  handle : Nat
  fmt : Nat
  layers : Nat
  firstPos : Nat
  jump : Bool
  parentId : Nat
  tag : Nat
  entries : List (Nat × List Nat)
  arrival : Tick
  deriving DecidableEq, Repr

/-- Keystone. -/
structure Keystone where
  banks : List KsBank
  tree : List (Nat × TreeRec)
  running : Option PfxOp
  waiting : List PfxOp
  /-- floor bytes of the running tick that no reservation took and no prefix operation has used (R144) -/
  lendable : Nat
  /-- bytes of record reads and header writes made by the running operation, and how many of them are charged (R144) -/
  moved : Nat
  paid : Nat
  deriving DecidableEq, Repr

/-! ## Clusters, weights (spec/05, spec/07) -/

/-- The running state of one head (R158, R171): m, l and O, all FP32; `started` is false while m is −∞. -/
structure RowState where
  started : Bool
  m : Word
  l : Word
  o : List Word
  deriving DecidableEq, Repr

/-- One expanded layer of the weight set in force or pending (R178, R233): where its image lies. -/
structure WLayer where
  layer : Nat
  elem : Nat
  d : Nat
  h : Nat
  c : Nat
  packedLen : Nat
  /-- offset of the image in each die's weight store, or none when the layer is streamed on that die -/
  at0 : Option Nat
  at1 : Option Nat
  /-- central-store address of the package's first block of the layer -/
  addr : Nat
  /-- the layer's blocks as the package gave them; a resident layer's image is what they expand to -/
  packed : List Bytes
  /-- where a streamed layer's blocks are kept, as an offset in the streamed-weight part of the system area (R58, R179) -/
  kept : Option Nat := none
  deriving DecidableEq, Repr

/-- A cluster swap written and not yet in effect (R50): the slot, the unit retired, the spare activated, the spare field
written (0 A, 1 B), and the sheet at whose freeze it takes effect. -/
structure PendSwap where
  field : Nat
  retire : Nat
  activate : Nat
  effect : Tick
  deriving DecidableEq, Repr

/-- The state of one row block of a query on a cluster slot (R169, R172). -/
structure RbState where
  slot : Nat
  rb : Nat
  headBlock : Nat
  done : List Nat
  st : List RowState
  deriving DecidableEq, Repr

/-- A pass that a cluster runs (R425): its slot, the full-rate cycles of the compute window at its start, and the row-block states that it
continues, with their queries. -/
structure RunPass where
  slot : Nat
  start : Rat
  old : List (Nat × RbState)
  deriving DecidableEq, Repr

/-- The clusters beyond their registers. -/
structure Clusters where
  ueInSheet : List (Nat × Nat)
  /-- array cycles of each cluster in the running sheet, and PV_BF16 as the last freeze found it (R181) -/
  busy : List (Nat × Nat)
  /-- full-rate cycles of the compute window that the passes so far have taken at the rates that the allowance permitted (R175) -/
  spent : List (Nat × Rat)
  pvBf16 : Bool
  /-- the codebook tables of each cluster, as the last freeze loaded them: codebook, entries (R165) -/
  books : List (Nat × List (Nat × List Nat))
  /-- row blocks of the last pass of each slot in the running sheet: query, row block, head block (R172) -/
  inArrays : List (Nat × List (Nat × Nat × Nat))
  /-- the last pass of each cluster in the running sheet (R425) -/
  lastPass : List (Nat × RunPass) := []
  swaps : List PendSwap
  /-- a spare that takes a faulted cluster's slot at the next freeze (R50): faulted unit, spare unit -/
  faultSwaps : List (Nat × Nat)
  weights : List WLayer
  pendingWeights : Option (List WLayer)
  /-- (die, layer) of streamed layers made unavailable (R226, R236) -/
  unavailable : List (Nat × Nat)
  /-- segments of streamed layers that the weight path has decoded for the running sheet and for the one being built: die, layer, block
  (R180, R236) -/
  decoded : List (Nat × Nat × Nat)
  decodedNext : List (Nat × Nat × Nat)
  deriving DecidableEq, Repr

/-! ## Queries, merging (spec/06) -/

/-- A tile placed on a sheet (R188, R189): its course, index, pages, format, codebook, the logical slot that attends it,
the query rows it carries and whether it is read through, expanded, staged whole and charged. -/
structure Tile where
  course : Nat
  j : Nat
  pages : List Nat
  fmt : Nat
  slot : Nat
  rows : Nat
  tier1 : Bool
  fromDst : Bool
  lostPages : List Nat
  expanded : List Nat
  deriving DecidableEq, Repr

/-- One tile of a query: the tile, and per page the rows visible to the query. -/
structure QTile where
  tile : Nat
  vis : List (Nat × Nat)
  deriving DecidableEq, Repr

/-- The fields of a query descriptor (R182). -/
structure QDesc where
  qbf16 : Bool
  fp8 : Bool
  collect : Bool
  noLocal : Bool
  layer : Nat
  heads : Nat
  session : Nat
  cid : Nat
  sigma : Word
  queryId : Nat
  group : Nat
  dest : Nat
  expect : Nat
  reply : Nat
  level : Nat
  payLen : Nat
  tag : Nat
  deriving DecidableEq, Repr

/-- A head of a partial record (R199, R200). -/
structure HeadRec where
  m : Word
  l : Word
  vscale : Word
  empty : Bool
  elems : List Nat
  deriving DecidableEq, Repr

/-- A partial, credit or cancel record (R199). -/
structure PartialRec where
  kind : Nat
  status : Nat
  fp8 : Bool
  headerOnly : Bool
  level : Nat
  heads : Nat
  group : Nat
  queryId : Nat
  srcNode : Nat
  channels : Nat
  pagesDone : Nat
  pagesNamed : Nat
  tick : Nat
  merged : Nat
  missing : Nat
  vec : List HeadRec
  deriving DecidableEq, Repr

/-- Where an admitted query stands after its passes. -/
inductive QPhase where
  | running | stopped | formed | left
  deriving DecidableEq, Repr

/-- An admitted query (R186 to R200). -/
structure Query where
  src : Src
  part : Nat
  desc : QDesc
  arrival : Tick
  sheet : Tick
  session : Nat
  fmt : Nat
  channels : Nat
  expanded : Bool
  payload : Bytes
  senders : List Nat
  tiles : List QTile
  pagesNamed : Nat
  rbs : List RbState
  /-- results in the merge unit that wait for a lower slot (R197), the slots already folded, and the folded state -/
  results : List (Nat × List RowState)
  folded : List Nat
  acc : List RowState
  dropped : List Nat
  /-- set when the query must leave INCOMPLETE whatever its page count -/
  spoiled : Bool
  /-- a MATCH has completed since the query arrived: its visible rows end where they ended then (R147) -/
  fixedVis : Bool
  status : Nat
  phase : QPhase
  record : Option PartialRec
  deriving DecidableEq, Repr

/-- The life of a cue sheet (R40). -/
inductive SheetState where
  | open | running | draining | closed
  deriving DecidableEq, Repr

/-- A cue sheet: its tick, state, tiles and the queries on it. -/
structure Sheet where
  tick : Tick
  state : SheetState
  queries : List (Nat × Query)
  tiles : List (Nat × Tile)
  /-- its compute cutoff has come (R42): no query joins it any more -/
  cutoff : Bool := false
  deriving DecidableEq, Repr

/-- Row blocks of one class placed on a cluster slot: format, query precision, expanded (and its layer), count (R190). -/
structure ClassLoad where
  fmt : Nat
  qbf16 : Bool
  exp : Bool
  layer : Nat
  n : Nat
  deriving DecidableEq, Repr

/-- The budget of the sheet being built (R190 to R192); horizons in ns from the start of the running tick. -/
structure Budget where
  hHbm : List Rat
  hDdr : List Rat
  hXpd : List Rat
  load : List (Nat × List ClassLoad)
  extra : List (Nat × Nat)
  states : List (Nat × Nat)
  partCost : List (Nat × Nat)
  poolUsed : Nat
  poolExtra : Nat
  incast : Nat
  blocksRead : List (Nat × Nat)
  streamed : List (Nat × Nat)
  lent : Bool
  deriving DecidableEq, Repr

/-- An open group at a collector (R204 to R207). -/
structure Group where
  part : Nat
  group : Nat
  desc : QDesc
  src : Src
  arrival : Tick
  /-- the sheet its query is on -/
  sheet : Tick
  fmtC : Nat
  senders : List Nat
  inputs : List (Nat × PartialRec)
  own : Option PartialRec
  needOwn : Bool
  closed : Bool
  /-- it closed by sending its result (R207) -/
  sent : Bool := false
  deriving DecidableEq, Repr

/-- A partial held for a credit (R205). -/
structure Held where
  part : Nat
  prec : PartialRec
  dest : Nat
  sheet : Tick
  src : Src
  desc : QDesc
  deriving DecidableEq, Repr

/-- A header-only record that came before its group (R206). -/
structure Early where
  part : Nat
  conn : Nat
  prec : PartialRec
  arrived : Tick
  deriving DecidableEq, Repr

/-- Query admission and the merge unit. -/
structure Admission where
  /-- the sheet of the running tick and the sheet being built -/
  cur : Sheet
  next : Sheet
  budget : Budget
  /-- the budget of the running sheet as its freeze left it: late requests are charged to it (R36, R109) -/
  lastBudget : Budget
  nextQuery : Nat
  groups : List Group
  held : List (Nat × Held)
  early : List (Nat × Early)
  /-- credits received and not used: partition, group -/
  credits : List (Nat × Nat)
  /-- the two buffers of each slot's result port: each holds a segment of a query's result, with the segments of that result
  that come after it (R195) -/
  ports : List (Nat × List (Nat × Nat))
  /-- results that a slot's cluster holds until a buffer frees, oldest first: query, segments not yet in a buffer (R195) -/
  resultsHeld : List (Nat × List (Nat × Nat))
  deriving DecidableEq, Repr

/-- A course under compression (R219 to R222): what it is for, its partition, k and symbol width, the images in the buffer, what the first
pass decided, the code table of the blocks emitted so far, and those blocks. -/
structure CmpRun where
  job : CmpJob
  part : Nat
  k : Nat
  w8 : Bool
  imgs : List Bytes
  ratio : Nat
  coded : Bool
  /-- FAULT_LIMIT as the first pass found it (R237) -/
  limit : Nat
  table : Bytes
  emitted : List Bytes
  deriving DecidableEq, Repr

/-- Compressors and expanders beyond their registers (spec/07). -/
structure Compress where
  /-- successive verify failures of each die's compressor (R221) -/
  fails : List Nat
  /-- expander instances that are retired, and (instance, spare that stands in) -/
  standIn : List (Nat × Nat)
  /-- mismatches counted toward FAULT_LIMIT -/
  mismatches : List (Nat × Nat)
  /-- the course that each die's compressor holds (R219, R222) -/
  runs : List (Option CmpRun)
  deriving DecidableEq, Repr

/-! ## Askius link and tick (spec/08) -/

/-- A lane swap requested on a half (R248, R249): the logical lane, whether it is hard, and the round from which the
spare carries it once acknowledged. -/
structure LaneSwap where
  lane : Nat
  hard : Bool
  atRound : Option Nat
  /-- true when this end is the transmitter that takes the lane to the spare -/
  tx : Bool
  deriving DecidableEq, Repr

/-- A marker as it arrived (R260, R261): TICK, DEPART and the arrival in SCLK cycles from this node's boundary. -/
structure Mark where
  tick : Nat
  depart : Nat
  arrive : Int
  deriving DecidableEq, Repr

/-- One half of a link port beyond its registers: lane swap, error counts of the running alignment period, credit
counts of the four classes (R257, R258), marks, and the peer's HELLO. -/
structure Half where
  port : Nat
  half : Nat
  swap : Option LaneSwap
  /-- the round counters of the alignment blocks received and sent (R245) -/
  round : Nat
  txRound : Nat
  /-- the physical lane on which each of the eight logical lanes arrives, and the logical lane sent on the spare (R239, R249) -/
  order : List Nat
  txSpare : Option Nat
  /-- the last training ended without convergence (R252, R254) -/
  failed : Bool
  uncorr : Nat
  uncorrLane : List Nat
  avail : List Nat
  sent : List Nat
  freedSeen : List Nat
  freed : List Nat
  rxCount : List Nat
  /-- packets received and not yet taken in, with their class (R256) -/
  rxQ : List (Nat × Bytes)
  /-- the last HELLO sent, without its TICK_NOW (R255) -/
  helloSent : Bytes
  mark : Option Mark
  prevMark : Option Mark
  markSeen : Bool
  missed : Nat
  peerNode : Nat
  peerTick : Nat
  /-- the tick period in the peer's last HELLO (R255, R264) -/
  peerPeriod : Nat
  /-- the alignment periods of the last 10 s: when each ended, the codewords corrected or whole in it, and the symbols corrected on each
  logical lane (R432) -/
  periods : List (Nat × Nat × List Nat) := []
  /-- physical lanes that are not trained, of a half that has trained (R239, R418) -/
  dark : List Nat := []
  deriving DecidableEq, Repr

/-- The link ports. -/
structure Links where
  halves : List Half
  /-- the presets of the 288 lanes, port-major, as the calibration set gives them; none before a set is loaded (R437) -/
  presets : List Bytes := []
  deriving DecidableEq, Repr

/-- The cue tick beyond its registers: the time since reset at the start of the running tick in ps, whether the node
has ever locked or been loaded, the TICK_IN edge counts (R266) and the slew of the running tick in 1/16 ns (R31). -/
structure TickBox where
  now : Tick
  upPs : Nat
  slew : Int
  /-- the slew of the tick before, and the offset still to be slewed, in 1/16 ns -/
  prevSlew : Int
  due : Int
  lockedOnce : Bool
  inGood : Nat
  inBad : Nat
  inValid : Bool
  /-- the last TICK_IN edge taken, in ps from the start of the running tick, and the periods since whose edge was ignored or missing
  (R266) -/
  inLast : Option Int
  inGap : Nat := 0
  nextPeriod : Nat
  switchAt : Tick
  pending : Bool
  latchHi : Nat
  thetaMax : List Nat
  deriving DecidableEq, Repr

/-! ## Askius transport (spec/09) -/

/-- Connection states (R272). -/
inductive ConnState where
  | active | broken | removing
  deriving DecidableEq, Repr

/-- A packet sent and awaited (R284): its extended PSN, the message, its INDEX, how often that packet has been sent,
the port it went on, and whether a packet sent after it has been acknowledged. -/
structure Sent where
  psn : Nat
  msn : Nat
  index : Nat
  last : Bool
  resp : Bool
  sends : Nat
  port : Nat
  overtaken : Bool
  deriving DecidableEq, Repr

/-- A completion record (spec/09, 16 bytes). -/
structure CmplRec where
  msn : Nat
  status : Nat
  tag : Nat
  aux0 : Nat
  aux1 : Nat
  deriving DecidableEq, Repr

/-- An installed connection (R269 to R277, R281 to R293). -/
structure Conn where
  part : Nat
  peerNode : Nat
  peerConn : Nat
  subscriber : Nat
  portMask : Nat
  rkeyOk : Bool
  state : ConnState
  epoch : Nat
  key : BitVec 256
  prevKey : Option (BitVec 256)
  hot : Bool
  slot : Nat
  lastUsed : Nat
  removeTick : Tick
  rekeyTick : Tick
  txPsn : Nat
  txMsn : Nat
  txAckSeq : Nat
  unacked : List Sent
  rxBase : Nat
  rxSeen : List Nat
  rxAckSeq : Nat
  /-- an ACK is to be sent at once; packets have been received since the last ACK (R283) -/
  ackDue : Bool
  ackWanted : Bool
  records : List CmplRec
  msnLow : Nat
  msnDone : List Nat
  fetching : Bool
  heldPkts : List (Nat × Nat × Bytes)
  /-- the tick in which the last violation notice was posted (R298) -/
  noticeTick : Option Tick
  /-- bank and index of the connection-table entry of a hot context (R138) -/
  ksAt : Option (Nat × Nat) := none
  deriving DecidableEq, Repr

/-- A RESTORE batch that is owed (R386): the connection, the stream's source and partition, the header's TICK, STREAM_GEN and BATCH_SEQ, and
the course. -/
structure RestoreReply where
  conn : Nat
  src : Nat
  part : Nat
  tick : Nat
  gen : Nat
  seq : Nat
  course : Nat
  /-- it has been sent and was found damaged: this is the second time (R226) -/
  resent : Bool := false
  deriving DecidableEq, Repr

/-- What an outbound message is for, so that its completion can be acted on. -/
inductive Purpose where
  | hostMsg (q : Nat) (entry : Nat)
  | response
  /-- the RESPONSE to a READ: each packet's bytes are read from the region when it is formed (R299) -/
  | readResponse (addr : Nat) (len : Nat)
  | partialSend
  /-- the partial of an admitted query, which has not left (R35): partition, sheet, status -/
  | partialDue (part : Nat) (sheet : Tick) (status : Nat)
  | notice
  /-- the metadata message, or a data message, of a batch (R379) -/
  | mirrorBatch (part : Nat) (gen : Nat) (seq : Nat)
  | mirrorData (part : Nat) (gen : Nat) (seq : Nat)
  /-- the metadata message of a RESTORE batch -/
  | restoreReply (q : RestoreReply)
  | homeCas (session : Nat)
  | homeRead (session : Nat)
  | strike (part : Nat)
  | restoreFetch (course : Nat)
  | fencePresent
  deriving DecidableEq, Repr

/-- An outbound message (R303): it holds an operation record from its first transmission until it completes. -/
structure OutMsg where
  conn : Nat
  op : Nat
  resp : Bool
  msn : Nat
  service : Nat
  cls : Nat
  target : Nat
  payload : Bytes
  cmpr : Bool
  next : Nat
  /-- packets to send again: INDEX, the port half it was lost on (64 for a probe), and how often it has been sent -/
  resend : List (Nat × Nat × Nat)
  acked : List Nat
  started : Bool
  purpose : Purpose
  /-- bytes of receive extents that hold a payload copied from host memory (R320) -/
  extent : Nat
  /-- READ and CAS: RESPONSE packets placed so far (INDEX, bytes) and their count once known -/
  got : List (Nat × Bytes)
  gotCount : Option Nat
  /-- the subscriber whose queue the message joined, and whether it is misfiled there (R336, R352); none: the one its connection has now -/
  sub : Option (Nat × Bool) := none
  deriving DecidableEq, Repr

/-- An inbound message (R292, R293): the packets placed, the packet count once LAST has come, and whether it is
complete (pending) or waits behind a FENCE (R300). Those complete stand in the order in which they may act. -/
structure InMsg where
  conn : Nat
  msn : Nat
  op : Nat
  parts : List (Nat × Bytes)
  count : Option Nat
  target : Nat
  /-- the packets bear CMPR (R279) -/
  cmpr : Bool
  complete : Bool
  behindFence : Bool
  /-- the tick in which it became complete, which is when its request arrives (R33, R109, R292) -/
  tick : Tick
  /-- its operation has acted and its completion record is still to come -/
  acted : Bool
  deriving DecidableEq, Repr

/-- A region named by a remote key (R295, R296). -/
structure Region where
  part : Nat
  base : Nat
  len : Nat
  perm : Nat
  gen : Nat
  ksBank : Nat
  ksIdx : Nat
  /-- a pending ADVANCE (false) or DESTROY (true): who asked, the tag -/
  draining : Option (Bool × Src × Nat)
  deriving DecidableEq, Repr

/-- The transport. -/
structure Transport where
  /-- the key under which contexts are kept in host memory (R274), drawn at every boot -/
  ctxKey : BitVec 256
  conns : List (Nat × Conn)
  outMsgs : List (Nat × OutMsg)
  inMsgs : List InMsg
  regions : List (Nat × Region)
  nextOut : Nat
  /-- NOTICE records gathered for a connection in this tick (R280) -/
  notices : List (Nat × List Bytes)
  /-- uses of contexts so far, by which the least recently used one is found (R276) -/
  useSeq : Nat
  deriving DecidableEq, Repr

/-! ## Host interface (spec/10) -/

/-- Queue states (R312). -/
inductive QState where
  | disabled | enabled | draining | error
  deriving DecidableEq, Repr

/-- A submission entry held by the node: its fields, whether it is started, and the handle written in by R329. -/
structure HEntry where
  idx : Nat
  sqIndex : Nat
  seq : Nat
  opcode : Nat
  sflags : Nat
  waitEn : Bool
  waitQ : Nat
  waitCount : Nat
  waitTicks : Nat
  tag : Nat
  payAddr : Nat
  payLen : Nat
  conn : Nat
  resAddr : Nat
  resLen : Nat
  msgOp : Nat
  target : Nat
  started : Bool
  arrived : Bool
  suppressed : Bool
  fetchTick : Tick
  /-- detail code of the check it failed at fetch (R323), 0 for none -/
  fail : Nat
  /-- the handle that SUBST_HANDLE took when it started (R329) -/
  handle : Option Nat
  deriving DecidableEq, Repr

/-- A queue pair beyond its configuration block (R311 to R331). -/
structure Queue where
  state : QState
  tail : Nat
  fetch : Nat
  cqHead : Nat
  cqProd : Nat
  unconsumed : Nat
  phase : Bool
  count : Nat
  failCount : Nat
  lastHandle : Nat
  seq : Nat
  entries : List HEntry
  recvs : List HEntry
  unsignalled : Nat
  /-- the mailbox command that waits for the queue to drain: 2 DISABLE, 3 RESET, and its SEQ -/
  ending : Option (Nat × Nat)
  deriving DecidableEq, Repr

/-- A function's MSI-X table (R330, R492): its dwords that differ from their reset values (vector control 1, masked; the
rest 0), by dword index, and the vectors whose pending bit is set. -/
structure Msix where
  table : List (Nat × Nat)
  pending : List Nat
  deriving DecidableEq, Repr

/-- A PCIe request that the node holds back while Bus Master Enable is 0 (R333): a write to host memory, or an MSI-X message. -/
inductive HostOut where
  | write (fn : Nat) (relaxed : Bool) (addr : Nat) (bytes : Bytes)
  | msix (fn vec : Nat)
  deriving DecidableEq, Repr

/-- The host interface. -/
structure HostIf where
  queues : List (Nat × Queue)
  msix : List (Nat × Msix)
  /-- notices and BAR4 refusal events already written in this tick, by function -/
  bar4Logged : List Nat
  /-- bytes read from and written to host memory that make up no whole KiB yet -/
  rdFrac : Nat
  wrFrac : Nat
  /-- requests held back while Bus Master Enable is 0, oldest first -/
  heldOut : List HostOut
  deriving DecidableEq, Repr

/-! ## Scheduling and policing (spec/11) -/

/-- Tokens of a shaper (R342): whole bytes and the time in ps since reset to which they have been refilled. -/
structure Bucket where
  tokens : Int
  frac : Nat
  asOf : Nat
  deriving DecidableEq, Repr

/-- A meter's two buckets (R346). -/
structure MeterState where
  tc : Bucket
  tp : Bucket
  /-- bytes coloured green and yellow that make up no whole KiB yet -/
  greenFrac : Nat
  yellowFrac : Nat
  deriving DecidableEq, Repr

/-- A unit in a port's transmit queue: the packet, its class, and for a transit packet the port it arrived on (R287). -/
structure TxUnit where
  cls : Nat
  bytes : Bytes
  arrived : Option Nat
  deriving DecidableEq, Repr

/-- The scheduler and the policer beyond their registers: shaper tokens by (level, index) code, meters by index,
round-robin deficits and turns, the packets waiting to be formed that are no part of a message (ACKs), and the four
transmit queues of each port half. -/
structure Sched where
  shapers : List (Nat × Bucket)
  meters : List (Nat × MeterState)
  subDeficit : List (Nat × Nat)
  svcDeficit : List (Nat × Nat)
  subTurn : Nat
  svcTurn : List (Nat × Nat)
  portQ : List (Nat × List TxUnit)
  portDeficit : List (Nat × Nat)
  portTurn : List (Nat × Nat)
  deriving DecidableEq, Repr

/-! ## Partitions, security, attestation (spec/12) -/

/-- Partition states (R357). -/
inductive PState where
  | free | live | striking | scrubbing
  deriving DecidableEq, Repr

/-- The progress of a strike (R360): its fence tick, the tick of key destruction, whether the drain was cut, the counts
of the record, the notices outstanding, and the tick by which they time out. -/
structure StrikeRun where
  strikeId : Nat
  fence : Tick
  keysAt : Option Tick
  cut : Bool
  suppressed : Nat
  authDrops : Nat
  noticesSent : Nat
  noticesOpen : List Nat
  noticesLost : Nat
  scrubEnd : Option Tick
  /-- KiB of scrub bandwidth granted and not yet used (R363) -/
  scrubKib : Nat
  /-- the on-chip and system-area state has been scrubbed, which comes before storage (R363) -/
  chipDone : Bool := false
  /-- bytes of SPL_RATE_HOST granted to the zeroing of tier 2 and not yet used (R363) -/
  hostCredit : Nat := 0
  frames : Nat
  ddrKib : Nat
  hostKib : Nat
  sessions : Nat
  conns : Nat
  deriving DecidableEq, Repr

/-- A partition beyond its page's registers. -/
structure Part where
  id : Nat
  state : PState
  created : Bool
  createTick : Word
  key : Option (BitVec 256)
  allotTop : Option Nat
  allotLen : Nat
  strikes : Nat
  strike : Option StrikeRun
  record : Bytes
  deriving DecidableEq, Repr

/-- A report or certificate being written (R370): function, scope, partition, certificate, address. -/
structure AttReq where
  fn : Fn
  scope1 : Bool
  part : Nat
  cert : Bool
  addr : Nat
  nonce : Bytes
  deriving DecidableEq, Repr

/-- Partition table, key store and measurements. -/
structure Security where
  parts : List Part
  strikeCount : Nat
  fkek : Option (BitVec 256)
  meas : List (BitVec 256)
  attBusy : Option AttReq
  imgDigestA : BitVec 256
  imgDigestB : BitVec 256
  deriving DecidableEq, Repr

/-! ## Mirroring, ownership, fencing (spec/13) -/

/-- Mirror stream states (R384). -/
inductive StreamState where
  | off | seeding | streaming | behind | unavailable
  deriving DecidableEq, Repr

/-- One change that travels in a batch (R377, R379), as its metadata record and, for rows, the row run (R380). -/
structure Change where
  meta_ : Bytes
  run : Option Bytes
  deriving DecidableEq, Repr

/-- A batch that is open, held or sent and not acknowledged (R377, R384). -/
structure Batch where
  tick : Tick
  seq : Nat
  changes : List Change
  sent : Bool
  /-- FLAGS of the header (R379), the courses a seed batch carries, the course a FETCH names -/
  flags : Nat
  courses : List Nat
  fetch : Option Nat
  /-- payloads of the data messages, the metadata records, their number, and the rows, as first sent -/
  data : List Bytes
  recs : Bytes
  rows : Nat
  firstMsn : Nat
  resent : Bool
  deriving DecidableEq, Repr

/-- A COMMIT that waits (R388): source, tag, session, the tick whose batch confirms it. -/
structure CommitWait where
  src : Src
  tag : Nat
  session : Nat
  arrival : Tick
  /-- its COMMIT record, and the tick of the batch that carries it: none while the stream is Unavailable -/
  record : Bytes := []
  batch : Option Tick := none
  deriving DecidableEq, Repr

/-- The stream of one mirrored partition, on its owner (R384). -/
structure Stream where
  part : Nat
  state : StreamState
  before : StreamState
  gen : Nat
  seq : Nat
  open_ : List Change
  batches : List Batch
  acked : Option Tick
  /-- slices not yet seeded, courses not yet sent as seed (hottest slice first), and courses sent and not acknowledged -/
  unseeded : List DWord
  toSeed : List Nat
  seeding : List Nat
  waits : List CommitWait
  /-- time since reset in ps of the entry into the state, and of the last acknowledgement -/
  since : Nat
  lastAck : Nat
  deriving DecidableEq, Repr

/-- A copy held by the understudy (R376, R383), under the owner's index. -/
structure CopyCourse where
  index : Nat
  k : Nat
  layer : Nat
  shared : Bool
  /-- its seed block has come, or it was allocated in an ordinary batch (R385) -/
  seeded : Bool
  /-- this node's course record of the copy, made with its COURSE record -/
  course : Option Nat
  /-- the course is one of a session of this node, since a takeover (R401) -/
  taken : Bool
  /-- a COURSE record has freed it at the owner (R383) -/
  freed : Bool
  /-- row runs that came before its seed block (R385) -/
  early : List Bytes
  deriving DecidableEq, Repr

/-- A slice known from SESSION records (R379, R385). -/
structure CopySlice where
  cid : DWord
  fmt : Nat
  layers : Nat
  parentCid : DWord
  forkPos : Nat
  ownEpoch : Nat
  openTick : Nat
  state : Nat
  runs : List (Nat × Run)
  committed : Option (List Nat)
  deriving DecidableEq, Repr

/-- A stream received as understudy (R381, R382). -/
structure InStream where
  src : Nat
  part : Nat
  gen : Nat
  nextSeq : Nat
  /-- metadata messages that wait for their turn, their data messages at hand: connection, MSN, payload -/
  pendingMeta : List (Nat × Nat × Bytes)
  outcomes : List (Nat × Nat)
  courses : List CopyCourse
  slices : List CopySlice
  /-- what is kept of the previous generation until it is seeded again (R385) -/
  oldCourses : List CopyCourse
  oldSlices : List CopySlice
  trees : List Bytes
  oldTrees : List Bytes := []
  stopped : Bool
  deriving DecidableEq, Repr

/-- A data message that is complete and waits for its batch (R381). -/
structure DataIn where
  conn : Nat
  msn : Nat
  bytes : Bytes
  deriving DecidableEq, Repr

/-- What a record operation on a home node is for (R392, R393, R400, R401). -/
inductive HomeOp where
  | claim | release | setUnderstudy | reconcile | takeover (former : Nat) | declareLost (former : Nat)
  deriving DecidableEq, Repr

/-- A record operation in flight (R393): its kind, slice, attempt, and the entries found so far. -/
structure HomeRun where
  op : HomeOp
  session : Nat
  part : Nat
  cid : DWord
  origin : Nat
  attempt : Nat
  found : List Bytes
  casAt : Option (Nat × Bytes)
  started : Tick
  /-- time since reset in ps at which it began, or at which the record was last read (R405) -/
  startedPs : Nat
  /-- OWN_EPOCH of the session at a release, which goes on when the session has been freed (R392) -/
  epoch : Nat := 0
  deriving DecidableEq, Repr

/-- The mirror engine, home records, fence and lease. -/
structure Mirror where
  streams : List Stream
  inStreams : List InStream
  homeOps : List HomeRun
  rowsThisTick : Nat
  restores : List (Nat × Tick)
  leaseEndPs : Option Nat
  fenceOrdered : Bool
  /-- fenced, and no LEASE of a higher epoch since (R456) -/
  fenced : Bool
  recon : List Nat
  takenList : Bytes
  dataIn : List DataIn
  /-- metadata messages that wait for their data messages: connection, MSN, payload -/
  metaIn : List (Nat × Nat × Bytes)
  /-- RESTORE replies that wait to be sent, or for their copy course to go through a compressor (R386), by number -/
  replies : List (Nat × RestoreReply)
  /-- region key of the own home table (R391), if it was made -/
  homeTable : Option Nat
  deriving DecidableEq, Repr

/-! ## Power, thermal control, calibration (spec/14) -/

/-- A descending cap (R417): P₀ and ΔW in watts, the estimates made since the change, and the new cap. -/
structure Descent where
  p0 : Rat
  dW : Rat
  k : Nat
  cap : Rat
  deriving DecidableEq, Repr

/-- Power and thermal control beyond the PWR, THM, MAR and CAL registers. -/
structure Power where
  /-- a budget has been accepted since reset (R415), the RAMP of the last one, and whether the last one has expired -/
  anyBudget : Bool
  ramp : Nat
  expired : Bool
  descent : Option Descent
  /-- the effective cap at the last change, so that a change is seen -/
  capNow : Rat
  gain : Rat
  est : Rat
  dyn : Rat
  stat : Rat
  /-- estimates of the running millisecond (R419) -/
  window : List Rat
  trimFails : Nat
  /-- time since reset, in ps, at which the next estimate falls (R418) -/
  nextEst : Nat
  ctNext : Nat
  chNext : Nat
  /-- die sensors 0 to 31 and stacks 32 to 39, 1/8 °C -/
  temps : List Int
  /-- per die: a sensor is tripped and the clocks are stretched; stretched ACLK cycles of the running tick (R428) -/
  tripped : List Bool
  stretched : List Nat
  /-- per die: the stretch began in the running tick; ACLK cycles stretched in the ticks before, since it began (R428) -/
  tripNew : List Bool := [false, false]
  tripSpent : List Nat := [0, 0]
  /-- S is halved until this time in ps since reset (R428) -/
  halfUntil : Nat
  /-- last time, in ps since reset, at which a condition of R427 held: the end of the tick where it held within one -/
  cappedAt : Option Nat
  /-- the calibration set in use; none means the built-in values (R438) -/
  cal : Option Bytes
  /-- the set that a CAL_WRITE is programming -/
  calNew : Option Bytes
  /-- the reverse walk position of each stack (R433): the next pseudo-channel -/
  walkPc : List Nat
  /-- the stack whose walk the running tick holds, and the test rows, by address, that errors have retired (R433) -/
  walking : Option Nat := none
  testRows : List Nat := []
  /-- the trims of each pseudo-channel that the HBM controllers hold, 64 to a stack; none before a set is loaded (R437) -/
  hbmTrims : List Bytes := []
  deriving DecidableEq, Repr

/-! ## Bring-up (spec/15, spec/18) -/

/-- Bring-up beyond the GLB registers. -/
structure BringUp where
  on : Bool
  /-- THERMTRIP or loss of SYSCLK has stopped every clock (R431, R508) -/
  stopped : Bool
  /-- GLB_FABRIC.FABRIC_ID has been written since reset (R452), and the management port that MGT_SEL names has come up (R449) -/
  fabricSet : Bool := false
  mgtFirst : Bool := false
  thermtrip : Bool
  romDone : Bool
  recovery : Bool
  /-- images A and B that failed verification at this boot (R474) -/
  imgFailed : List Nat
  running : Option Nat
  /-- PERST# asserted at the ball, held internally, and the PCIe reference clock present (R446, R508) -/
  perst : Bool
  perstHeld : Bool
  pcieClk : Bool
  serdesClk : List Bool
  busMaster : Bool
  vfEnabled : Nat
  /-- time since reset, in ps, at which the watchdog expires, and at which its warm reset is due (R445) -/
  wdogAt : Nat
  warmAt : Option Nat
  wdogWarned : Bool
  /-- promotion boundary (R462) -/
  promoteAt : Option Tick
  hbmFailed : List Nat
  /-- clusters that passed the full part of self-test and wait for the promotion (R453, R462) -/
  passed : List Nat
  deriving DecidableEq, Repr

/-! ## Management ports and the box office (spec/16) -/

/-- What a port keeps of one requester (R469): highest SEQ accepted and the response to it. -/
structure Requester where
  port : Nat
  mac : Nat
  seq : Nat
  resp : Bytes
  deriving DecidableEq, Repr

/-- An open chunked write (R474, R475): port and MAC of its requester, the image (2 for a debug token), the next offset,
and the time in ps since reset of its last chunk. -/
structure ChunkStream where
  port : Nat
  mac : Nat
  image : Nat
  next : Nat
  last : Nat
  token : Bytes
  deriving DecidableEq, Repr

/-- A request whose response waits (R470): MAC, SEQ, and the key and epoch under which it is answered. -/
structure MgAsk where
  mac : Nat
  seq : Nat
  key : BitVec 256
  epoch : Nat
  deriving DecidableEq, Repr

/-- A report or certificate kept for a management port (R473), or one being written, with the request it answers. -/
structure KeptReport where
  port : Nat
  nonce : Bytes
  scope1 : Bool
  part : Nat
  cert : Bool
  ask : Option MgAsk
  bytes : Option Bytes
  deriving DecidableEq, Repr

/-- The box office of one partition (R478 to R482): its sixteen counters, their values at the last close, the number of
the next statement, the boundary of the last close, the digest of the last statement, and the kept statements by slot. -/
structure Meter16 where
  part : Nat
  cnt : List Nat
  prev : List Nat
  number : Nat
  from_ : Tick
  digest : BitVec 256
  kept : List (Nat × Bytes)
  final : Option (Nat × Bytes)
  /-- the periodic statements have stopped: the partition's strike fence has passed (R482) -/
  fenced : Bool
  /-- byte-ticks of tier 1 and of tier 2 that do not yet make a KiB-tick (R479) -/
  ddrRest : Nat := 0
  hostRest : Nat := 0
  deriving DecidableEq, Repr

/-- The management ports and the box office. -/
structure Mgmt where
  key : Option (BitVec 256)
  requesters : List Requester
  stream : Option ChunkStream
  reports : List KeptReport
  meters : List Meter16
  period : Nat
  lastSample : Option Tick
  lastClose : Option Tick
  /-- the 64 bytes that the board management controller may read on the second I3C bus, and when they are next refreshed, in ps since reset
  (R477) -/
  bmcBlock : Bytes := []
  bmcAt : Nat := 0
  deriving DecidableEq, Repr

/-! ## Common part (spec/17) -/

/-- A vector's hold-off (R492): function and vector, the time in ps since reset of its last message, and whether gains
wait to be merged. -/
structure Holdoff where
  fn : Nat
  vec : Nat
  last : Nat
  waiting : Bool
  deriving DecidableEq, Repr

/-- One prompt-book entry (R410), 32 bytes, with its SEQ. -/
structure LogEntry where
  seq : Nat
  bytes : Bytes
  deriving DecidableEq, Repr

/-- What the node sends out of itself, oldest first. -/
inductive Out where
  /-- the slots of a unit or a control flit, sent on a port half (R242, R243) -/
  | linkSlots (port half : Nat) (slots : List Slot) (words : List LaneWord)
  /-- the alignment blocks of a round (R245) -/
  | alignBlocks (port half : Nat) (blocks : List AlignBlock)
  /-- a management frame's payload sent on a port to a MAC address -/
  | mgmt (port mac : Nat) (payload : Bytes)
  /-- a PCIe memory request that the node initiates: a write (true) or a read, the function that is its requester ID, its
  relaxed-ordering attribute, and its span (R306, R307) -/
  | request (write : Bool) (fn : Nat) (relaxed : Bool) (addr len : Nat)
  /-- an MSI-X message: function (0 is the physical function) and vector -/
  | msix (fn vec : Nat)
  /-- a configuration request answered with Configuration Request Retry Status (R446) -/
  | configRetry
  /-- a completion with data, answering a BAR read -/
  | barData (fn : Nat) (bytes : Option Bytes)
  /-- the THERMTRIP_N ball driven low -/
  | thermtrip
  /-- a rising edge on TICK_OUT, with its adjustment in ps from the boundary -/
  | tickOut (adj : Int)
  /-- clocks of a die stretched (true) or released -/
  | stretch (die : Nat) (on : Bool)
  deriving DecidableEq, Repr

/-! ## The whole node -/

/-- A register field whose last write acts only later (R156, R209, R268, R304, R353, R440): its key, what still sees the
old value (0 everything; else a packet, see `Work.keepOld`), and that value. -/
structure Acting where
  key : Nat
  unit : Nat
  value : Nat
  deriving DecidableEq, Repr

/-- The node's structured state. Register fields stand beside it in `State.regs`, memory in `State.mem`. -/
structure Node where
  tk : TickBox
  st : Store
  pg : Pager
  ks : Keystone
  cl : Clusters
  qa : Admission
  cp : Compress
  lk : Links
  tp : Transport
  hq : HostIf
  sc : Sched
  se : Security
  mi : Mirror
  pw : Power
  bo : BringUp
  mt : Mgmt
  holdoffs : List Holdoff
  /-- pages whose RS counters are frozen, with the readings held (R489) -/
  frozen : List (Nat × List (Nat × Nat))
  /-- the prompt book's SRAM entries, newest first (R410), and the next SEQ -/
  log : List LogEntry
  logSeq : Nat
  out : List Out
  /-- old values that still act -/
  acting : List Acting
  /-- the MODEL's own field: how many free values have been drawn (DESIGN CHOICE, log 3) -/
  fresh : Nat
  deriving DecidableEq, Repr

/-- A register file: pairs of field key and value, keys strictly rising, no entry equal to its reset value. -/
abbrev RegFile := List (Nat × Nat)

/-- Memory: pairs of address and byte, addresses strictly rising, no entry zero (what an unlisted address reads as). -/
abbrev Mem := List Host.Cell

/-- The machine: the node, its register fields, the bytes it can address (central store, tier 1, host memory, flash),
the fused SVN, and the commands that wait. -/
structure State where
  node : Node
  regs : RegFile
  mem : Mem
  /-- the fused security version number (R367): no reset lowers it -/
  svnFuse : Nat
  /-- rows of each DDR5 channel that are listed for hard repair at its next training (R86): no reset clears the list -/
  pprRows : List (Nat × Nat)
  pending : List Instr
  deriving DecidableEq, Repr

/-- Why the machine stops with a fault. -/
inductive Fault where
  /-- Raised by no command of this model: the node is total, and an access to a reserved central-store address is
  captured (R55), not a stop. Safe. -/
  | absentAddress (addr : Nat)
  deriving DecidableEq, Repr

/-- Why a command has no meaning. -/
inductive Refusal where
  /-- Raised by `exec` for a command that is not modelled yet, by name. Safe: nothing is claimed of it. -/
  | notModelled (mnemonic : String)
  deriving DecidableEq, Repr

/-! ## Reset -/

/-- The cue tick at reset: tick 0, period from TICK_PERIOD (R265). -/
def TickBox.reset : TickBox where
  now := 0
  upPs := 0
  slew := 0
  prevSlew := 0
  due := 0
  lockedOnce := false
  inGood := 0
  inBad := 0
  inValid := false
  inLast := none
  nextPeriod := 8
  switchAt := 0
  pending := false
  latchHi := 0
  thetaMax := []

/-- The store at reset: nothing placed, nothing in flight. -/
def Store.reset : Store where
  courses := []
  moves := []
  tailCopies := []
  prefetch := []
  grants := [0, 0, 0, 0, 0, 0]
  reserveDrawn := []
  lastDrew := 0
  retiredFrames := []
  retiredGrains := []
  ceLog := []
  mirrorReserved := 0
  movedSpill := 0
  movedPromote := 0
  rdBytes := []
  dying := []
  nextChan := [0, 0]
  boundHeldBefore := false
  defending := []
  retiring := []
  repaired := []
  lastDecay := 0
  leaves := []

/-- The page manager at reset. -/
def Pager.reset : Pager where
  sessions := []
  gens := []
  staged := []
  install := [[], []]
  forkCopies := []
  quiet := []
  chains := []

/-- Keystone at reset. -/
def Keystone.reset : Keystone where
  banks := List.replicate 66 { entries := [] }
  tree := []
  running := none
  waiting := []
  lendable := 0
  moved := 0
  paid := 0

/-- The clusters at reset. -/
def Clusters.reset : Clusters where
  ueInSheet := []
  busy := []
  spent := []
  pvBf16 := false
  books := []
  inArrays := []
  swaps := []
  faultSwaps := []
  weights := []
  pendingWeights := none
  unavailable := []
  decoded := []
  decodedNext := []

/-- An empty cue sheet of a tick. -/
def Sheet.empty (t : Tick) (st : SheetState) : Sheet :=
  { tick := t, state := st, queries := [], tiles := [] }

/-- An empty budget. -/
def Budget.empty : Budget where
  hHbm := List.replicate 8 0
  hDdr := List.replicate 2 0
  hXpd := List.replicate 25 0
  load := []
  extra := []
  states := []
  partCost := []
  poolUsed := 0
  poolExtra := 0
  incast := 0
  blocksRead := []
  streamed := []
  lent := false

/-- Admission at reset. -/
def Admission.reset : Admission where
  cur := Sheet.empty 0 .running
  next := Sheet.empty 1 .open
  budget := Budget.empty
  lastBudget := Budget.empty
  nextQuery := 0
  groups := []
  held := []
  early := []
  credits := []
  ports := []
  resultsHeld := []

/-- Compressors and expanders at reset. -/
def Compress.reset : Compress where
  fails := [0, 0]
  standIn := []
  mismatches := []
  runs := [none, none]

/-- Half `h` of port `p` at reset. -/
def Half.reset (p h : Nat) : Half where
  port := p
  half := h
  swap := none
  round := 0
  txRound := 0
  order := List.range 8
  txSpare := none
  failed := false
  uncorr := 0
  uncorrLane := List.replicate 9 0
  avail := [0, 0, 0, 0]
  sent := [0, 0, 0, 0]
  freedSeen := [0, 0, 0, 0]
  freed := [0, 0, 0, 0]
  rxCount := [0, 0, 0, 0]
  rxQ := []
  helloSent := []
  mark := none
  prevMark := none
  markSeen := false
  missed := 0
  peerNode := 0
  peerTick := 0
  peerPeriod := 0

/-- The links at reset: two halves for each of 32 ports. -/
def Links.reset : Links where
  halves := (List.range 64).map fun i => Half.reset (i / 2) (i % 2)

/-- The transport at reset. -/
def Transport.reset : Transport where
  ctxKey := 0
  conns := []
  outMsgs := []
  inMsgs := []
  regions := []
  nextOut := 0
  notices := []
  useSeq := 0

/-- The host interface at reset: queues are kept only once touched. -/
def HostIf.reset : HostIf where
  queues := []
  msix := []
  bar4Logged := []
  rdFrac := 0
  wrFrac := 0
  heldOut := []

/-- The scheduler at reset. -/
def Sched.reset : Sched where
  shapers := []
  meters := []
  subDeficit := []
  svcDeficit := []
  subTurn := 0
  svcTurn := []
  portQ := []
  portDeficit := []
  portTurn := []

/-- Security at reset: partition 0 is Live (R353), measurement slots zero (R368). -/
def Security.reset : Security where
  parts := []
  strikeCount := 0
  fkek := none
  meas := List.replicate 8 0
  attBusy := none
  imgDigestA := 0
  imgDigestB := 0

/-- The mirror engine at reset. -/
def Mirror.reset : Mirror where
  streams := []
  inStreams := []
  homeOps := []
  rowsThisTick := 0
  restores := []
  leaseEndPs := none
  fenceOrdered := false
  fenced := false
  recon := []
  takenList := []
  dataIn := []
  metaIn := []
  replies := []
  homeTable := none

/-- Power at reset: fallback cap, A_P 0, clamps 1,024 (R414, R424). -/
def Power.reset : Power where
  anyBudget := false
  ramp := 256
  expired := false
  descent := none
  capNow := 600
  gain := 1
  est := 0
  dyn := 0
  stat := 0
  window := []
  trimFails := 0
  nextEst := 2000000
  ctNext := 1024
  chNext := 1024
  temps := List.replicate 40 0
  tripped := [false, false]
  stretched := [0, 0]
  halfUntil := 0
  cappedAt := none
  cal := none
  calNew := none
  walkPc := List.replicate 8 0

/-- Bring-up at reset: powered, in the boot ROM stage, PERST# asserted (R442, R446). -/
def BringUp.reset : BringUp where
  on := true
  stopped := false
  thermtrip := false
  romDone := false
  recovery := false
  imgFailed := []
  running := none
  perst := true
  perstHeld := false
  pcieClk := true
  serdesClk := [true, true, true, true]
  busMaster := false
  vfEnabled := 0
  wdogAt := 100000000000
  warmAt := none
  wdogWarned := false
  promoteAt := none
  hbmFailed := []
  passed := []

/-- The management ports and the box office at reset: no key (R468). -/
def Mgmt.reset : Mgmt where
  key := none
  requesters := []
  stream := none
  reports := []
  meters := []
  period := 1048576
  lastSample := none
  lastClose := none

/-- The node right after reset. -/
def Node.reset : Node where
  tk := TickBox.reset
  st := Store.reset
  pg := Pager.reset
  ks := Keystone.reset
  cl := Clusters.reset
  qa := Admission.reset
  cp := Compress.reset
  lk := Links.reset
  tp := Transport.reset
  hq := HostIf.reset
  sc := Sched.reset
  se := Security.reset
  mi := Mirror.reset
  pw := Power.reset
  bo := BringUp.reset
  mt := Mgmt.reset
  holdoffs := []
  frozen := []
  log := []
  logSeq := 0
  out := []
  acting := []
  fresh := 0

/-- The machine right after a power-on reset (R441, R442): every register at its reset value, memory with nothing
listed, no command waiting. -/
def State.reset : State where
  node := Node.reset
  regs := []
  mem := []
  svnFuse := 0
  pprRows := []
  pending := []

end Sys2Proof.Machine
end

