-- ==== Sys2Proof/Machine/Table.lean ====
section
/-!
DEFINITION. Sys2Proof/Machine/Table.lean: the register fields of the node, one definition per field, as the register
tables of spec/01 to spec/18 give them: block, offset, lowest bit, width, access code (R516), reset value and range.
A field with a `rule` other than `const` takes its reset value from `Fld.resetAt` (Machine/Regs.lean).
-/

namespace Sys2Proof.Machine

/-- The access codes of R516. -/
inductive Acc where
  | ro | rw | w1c | w1s | wo | rwl | rs
  deriving DecidableEq, Repr

/-- The register blocks of R488; `QCFG` and `DB` are the queue regions of R308, `BLK` the common part of a page (its
instance is the page index). -/
inductive Block where
  | GLB | TICK | PWR | THM | MAR | CAL | MG | SEC | ATT | MTR | LOG | HBM | DDR | CST | PGM | SPL | KEY | CMP | XPD | CL | MRG | QAD | LP | FAB | CNX | SCH | POL | MIR | PART | PCI | QUE | PP | QCFG | DB | BLK
  deriving DecidableEq, Repr

/-- How a field's reset value depends on its instance or selection. -/
inductive ResetRule where
  | const | clPhys | clSlot | clSpare | devId | keySpare | keyTable | keyWidth | lpReh | macHi | macLo | qcfgVector | schWeight | xpdSpare | xpdWeight
  deriving DecidableEq, Repr

/-- A register field. -/
structure Fld where
  blk : Block
  off : Nat
  lo : Nat
  width : Nat
  acc : Acc
  reset : Nat
  vmin : Nat
  vmax : Nat
  rule : ResetRule
  deriving DecidableEq, Repr

/-- The first page index of a block (R488). -/
def Block.page : Block → Nat
  | .GLB => 0x0
  | .TICK => 0x1
  | .PWR => 0x2
  | .THM => 0x3
  | .MAR => 0x4
  | .CAL => 0x5
  | .MG => 0x6
  | .SEC => 0x8
  | .ATT => 0x9
  | .MTR => 0xA
  | .LOG => 0xB
  | .HBM => 0x10
  | .DDR => 0x18
  | .CST => 0x24
  | .PGM => 0x25
  | .SPL => 0x26
  | .KEY => 0x27
  | .CMP => 0x28
  | .XPD => 0x29
  | .CL => 0x30
  | .MRG => 0x4A
  | .QAD => 0x4B
  | .LP => 0x50
  | .FAB => 0x70
  | .CNX => 0x71
  | .SCH => 0x72
  | .POL => 0x73
  | .MIR => 0x74
  | .PART => 0x75
  | .PCI => 0x76
  | .QUE => 0x77
  | .PP => 0x100
  | .QCFG => 0x1000
  | .DB => 0x2000
  | .BLK => 0x0

/-- The number of pages (or queues) of a block (R488). -/
def Block.count : Block → Nat
  | .GLB => 1
  | .TICK => 1
  | .PWR => 1
  | .THM => 1
  | .MAR => 1
  | .CAL => 1
  | .MG => 2
  | .SEC => 1
  | .ATT => 1
  | .MTR => 1
  | .LOG => 1
  | .HBM => 8
  | .DDR => 12
  | .CST => 1
  | .PGM => 1
  | .SPL => 1
  | .KEY => 1
  | .CMP => 1
  | .XPD => 1
  | .CL => 26
  | .MRG => 1
  | .QAD => 1
  | .LP => 32
  | .FAB => 1
  | .CNX => 1
  | .SCH => 1
  | .POL => 1
  | .MIR => 1
  | .PART => 1
  | .PCI => 1
  | .QUE => 1
  | .PP => 64
  | .QCFG => 4096
  | .DB => 4096
  | .BLK => 320

namespace Reg

def GLB_CL_SPARE_A : Fld := ⟨.GLB, 0x140, 0, 5, .rw, 12, 0, 25, .const⟩
def GLB_CL_SPARE_B : Fld := ⟨.GLB, 0x140, 5, 5, .rw, 25, 0, 25, .const⟩
def GLB_KEY_SPARE_A : Fld := ⟨.GLB, 0x140, 10, 7, .rw, 32, 0, 65, .const⟩
def GLB_KEY_SPARE_B : Fld := ⟨.GLB, 0x140, 17, 7, .rw, 65, 0, 65, .const⟩
def GLB_CORE_SPARE_A : Fld := ⟨.GLB, 0x140, 24, 3, .ro, 2, 0, 7, .const⟩
def GLB_CORE_SPARE_B : Fld := ⟨.GLB, 0x140, 27, 3, .ro, 5, 0, 7, .const⟩
def GLB_XPD_SPARE0 : Fld := ⟨.GLB, 0x140, 30, 1, .ro, 0, 0, 1, .const⟩
def GLB_XPD_SPARE1 : Fld := ⟨.GLB, 0x140, 31, 1, .ro, 0, 0, 1, .const⟩
def GLB_LANE_SPARE_EN : Fld := ⟨.GLB, 0x144, 0, 1, .rw, 1, 0, 1, .const⟩
def GLB_LANE_SPARE_ANY : Fld := ⟨.GLB, 0x144, 1, 1, .ro, 0, 0, 1, .const⟩
def GLB_PAGE_RESERVE_EN : Fld := ⟨.GLB, 0x144, 2, 1, .rw, 1, 0, 1, .const⟩
def GLB_MEM_REPAIR_EN : Fld := ⟨.GLB, 0x144, 3, 1, .rw, 1, 0, 1, .const⟩
def GLB_QUEUE_FW : Fld := ⟨.GLB, 0x144, 4, 1, .ro, 1, 0, 1, .const⟩
def GLB_MGT_BOTH : Fld := ⟨.GLB, 0x144, 5, 1, .ro, 0, 0, 1, .const⟩
def GLB_FW_IMAGE : Fld := ⟨.GLB, 0x144, 6, 1, .ro, 0, 0, 1, .const⟩
def GLB_FW_FALLBACK : Fld := ⟨.GLB, 0x144, 7, 1, .ro, 0, 0, 1, .const⟩
def GLB_TICK_SRC : Fld := ⟨.GLB, 0x144, 8, 1, .ro, 0, 0, 1, .const⟩
def GLB_TICK_FALLBACK_EN : Fld := ⟨.GLB, 0x144, 9, 1, .rw, 1, 0, 1, .const⟩
def CST_PRESENT : Fld := ⟨.CST, 0x100, 0, 8, .ro, 255, 0, 255, .const⟩
def CST_READY : Fld := ⟨.CST, 0x100, 8, 8, .ro, 0, 0, 255, .const⟩
def CST_OFFLINE : Fld := ⟨.CST, 0x100, 16, 8, .ro, 0, 0, 255, .const⟩
def CST_SYS_MIB : Fld := ⟨.CST, 0x104, 0, 16, .ro, 4864, 0, 65535, .const⟩
def CST_FRAMES : Fld := ⟨.CST, 0x108, 0, 32, .ro, 0, 0, 4294967295, .const⟩
def CST_RESERVE : Fld := ⟨.CST, 0x10C, 0, 32, .ro, 0, 0, 4294967295, .const⟩
def CST_BULK_FLOOR : Fld := ⟨.CST, 0x110, 0, 8, .rw, 5, 5, 20, .const⟩
def CST_MIRROR_FLOOR : Fld := ⟨.CST, 0x110, 8, 8, .ro, 2, 0, 255, .const⟩
def CST_SESSION_FLOOR : Fld := ⟨.CST, 0x110, 16, 8, .ro, 1, 0, 255, .const⟩
def CST_FIXED : Fld := ⟨.CST, 0x110, 24, 8, .ro, 3, 0, 255, .const⟩
def CST_LENT : Fld := ⟨.CST, 0x114, 0, 32, .ro, 0, 0, 4294967295, .const⟩
def CST_UP : Fld := ⟨.CST, 0x120, 0, 1, .ro, 0, 0, 1, .const⟩
def CST_DEGRADED : Fld := ⟨.CST, 0x120, 1, 1, .ro, 0, 0, 1, .const⟩
def CST_CRC_CNT : Fld := ⟨.CST, 0x120, 16, 16, .rs, 0, 0, 65535, .const⟩
def CST_LOAD_01 : Fld := ⟨.CST, 0x124, 0, 16, .ro, 0, 0, 65535, .const⟩
def CST_LOAD_10 : Fld := ⟨.CST, 0x124, 16, 16, .ro, 0, 0, 65535, .const⟩
def HBM_TRAINED : Fld := ⟨.HBM, 0x100, 0, 1, .ro, 0, 0, 1, .const⟩
def HBM_IN_SERVICE : Fld := ⟨.HBM, 0x100, 1, 1, .ro, 0, 0, 1, .const⟩
def HBM_WALK : Fld := ⟨.HBM, 0x100, 2, 1, .ro, 0, 0, 1, .const⟩
def HBM_REPAIRING : Fld := ⟨.HBM, 0x100, 3, 1, .ro, 0, 0, 1, .const⟩
def HBM_OFFLINE : Fld := ⟨.HBM, 0x100, 4, 1, .ro, 0, 0, 1, .const⟩
def HBM_SCRUB_EN : Fld := ⟨.HBM, 0x104, 0, 1, .rw, 1, 0, 1, .const⟩
def HBM_HARD_REPAIR_EN : Fld := ⟨.HBM, 0x104, 1, 1, .rw, 1, 0, 1, .const⟩
def HBM_TAKE_OFFLINE : Fld := ⟨.HBM, 0x104, 2, 1, .w1s, 0, 0, 1, .const⟩
def HBM_PERIOD_H : Fld := ⟨.HBM, 0x108, 0, 16, .rw, 24, 1, 720, .const⟩
def HBM_CE_LIMIT : Fld := ⟨.HBM, 0x10C, 0, 8, .rw, 8, 0, 255, .const⟩
def HBM_WINDOW_H : Fld := ⟨.HBM, 0x10C, 8, 8, .rw, 24, 0, 255, .const⟩
def HBM_CE_CNT : Fld := ⟨.HBM, 0x110, 0, 32, .rs, 0, 0, 4294967295, .const⟩
def HBM_UE_CNT : Fld := ⟨.HBM, 0x114, 0, 32, .rs, 0, 0, 4294967295, .const⟩
def HBM_RETIRED : Fld := ⟨.HBM, 0x118, 0, 32, .ro, 0, 0, 4294967295, .const⟩
def HBM_REPAIR_USED : Fld := ⟨.HBM, 0x11C, 0, 8, .ro, 0, 0, 255, .const⟩
def HBM_REPAIR_FREE : Fld := ⟨.HBM, 0x11C, 8, 8, .ro, 0, 0, 255, .const⟩
def HBM_RD_BYTES : Fld := ⟨.HBM, 0x120, 0, 32, .ro, 0, 0, 4294967295, .const⟩
def DDR_TRAINED : Fld := ⟨.DDR, 0x100, 0, 1, .ro, 0, 0, 1, .const⟩
def DDR_IN_STRIPE : Fld := ⟨.DDR, 0x100, 1, 1, .ro, 0, 0, 1, .const⟩
def DDR_MODULES : Fld := ⟨.DDR, 0x100, 2, 2, .ro, 0, 0, 3, .const⟩
def DDR_MOD_GIB : Fld := ⟨.DDR, 0x100, 8, 8, .ro, 0, 0, 255, .const⟩
def DDR_SPEED : Fld := ⟨.DDR, 0x100, 16, 8, .ro, 0, 0, 255, .const⟩
def DDR_SCRUB_EN : Fld := ⟨.DDR, 0x104, 0, 1, .rw, 1, 0, 1, .const⟩
def DDR_SPPR_EN : Fld := ⟨.DDR, 0x104, 1, 1, .rw, 1, 0, 1, .const⟩
def DDR_HPPR_AT_BOOT : Fld := ⟨.DDR, 0x104, 2, 1, .rw, 1, 0, 1, .const⟩
def DDR_PERIOD_H : Fld := ⟨.DDR, 0x108, 0, 16, .rw, 24, 1, 720, .const⟩
def DDR_CE_LIMIT : Fld := ⟨.DDR, 0x10C, 0, 8, .rw, 8, 0, 255, .const⟩
def DDR_WINDOW_H : Fld := ⟨.DDR, 0x10C, 8, 8, .rw, 24, 0, 255, .const⟩
def DDR_CE_CNT : Fld := ⟨.DDR, 0x110, 0, 32, .rs, 0, 0, 4294967295, .const⟩
def DDR_UE_CNT : Fld := ⟨.DDR, 0x114, 0, 32, .rs, 0, 0, 4294967295, .const⟩
def DDR_RETIRED : Fld := ⟨.DDR, 0x118, 0, 32, .ro, 0, 0, 4294967295, .const⟩
def DDR_PPR_PENDING : Fld := ⟨.DDR, 0x11C, 0, 8, .ro, 0, 0, 255, .const⟩
def SPL_SPILL_EN : Fld := ⟨.SPL, 0x100, 0, 1, .rw, 1, 0, 1, .const⟩
def SPL_PROMOTE_EN : Fld := ⟨.SPL, 0x100, 1, 1, .rw, 1, 0, 1, .const⟩
def SPL_PREFETCH_EN : Fld := ⟨.SPL, 0x100, 2, 1, .rw, 1, 0, 1, .const⟩
def SPL_HOST_TIER_EN : Fld := ⟨.SPL, 0x100, 3, 1, .rw, 0, 0, 1, .const⟩
def SPL_REBAL_EN : Fld := ⟨.SPL, 0x100, 4, 1, .rw, 1, 0, 1, .const⟩
def SPL_PF_LEAD : Fld := ⟨.SPL, 0x100, 5, 2, .rw, 2, 1, 3, .const⟩
def SPL_PF_INTERVAL : Fld := ⟨.SPL, 0x100, 8, 4, .rw, 4, 1, 15, .const⟩
def SPL_LOCK : Fld := ⟨.SPL, 0x100, 31, 1, .w1s, 0, 0, 1, .const⟩
def SPL_ATTEND_INC : Fld := ⟨.SPL, 0x104, 0, 8, .rw, 16, 0, 255, .const⟩
def SPL_APPEND_INC : Fld := ⟨.SPL, 0x104, 8, 8, .rw, 4, 0, 255, .const⟩
def SPL_DECAY_SHIFT : Fld := ⟨.SPL, 0x104, 16, 5, .rw, 14, 10, 24, .const⟩
def SPL_COLD : Fld := ⟨.SPL, 0x108, 0, 16, .rw, 64, 0, 65535, .const⟩
def SPL_PROMOTE : Fld := ⟨.SPL, 0x108, 16, 16, .rw, 512, 0, 65535, .const⟩
def SPL_MAX_110 : Fld := ⟨.SPL, 0x110, 0, 16, .rw, 512, 0, 65535, .const⟩
def SPL_MAX_114 : Fld := ⟨.SPL, 0x114, 0, 16, .rw, 768, 0, 65535, .const⟩
def SPL_MAX_118 : Fld := ⟨.SPL, 0x118, 0, 16, .rw, 256, 0, 65535, .const⟩
def SPL_MAX_11C : Fld := ⟨.SPL, 0x11C, 0, 16, .rw, 48, 0, 65535, .const⟩
def SPL_MIN_110 : Fld := ⟨.SPL, 0x110, 16, 16, .rw, 64, 0, 65535, .const⟩
def SPL_MIN_114 : Fld := ⟨.SPL, 0x114, 16, 16, .rw, 0, 0, 65535, .const⟩
def SPL_MIN_118 : Fld := ⟨.SPL, 0x118, 16, 16, .rw, 0, 0, 65535, .const⟩
def SPL_MIN_11C : Fld := ⟨.SPL, 0x11C, 16, 16, .rw, 0, 0, 65535, .const⟩
def SPL_STEP_UP : Fld := ⟨.SPL, 0x120, 0, 8, .rw, 32, 0, 255, .const⟩
def SPL_STEP_DOWN : Fld := ⟨.SPL, 0x120, 8, 8, .rw, 64, 0, 255, .const⟩
def SPL_TAIL_IDLE : Fld := ⟨.SPL, 0x124, 0, 32, .rw, 1000000, 0, 4294967295, .const⟩
def SPL_BASE_LO : Fld := ⟨.SPL, 0x130, 30, 2, .rwl, 0, 0, 3, .const⟩
def SPL_BASE_HI : Fld := ⟨.SPL, 0x134, 0, 32, .rwl, 0, 0, 4294967295, .const⟩
def SPL_SIZE_GIB : Fld := ⟨.SPL, 0x138, 0, 13, .rwl, 0, 0, 4096, .const⟩
def SPL_RESERVE_LOW : Fld := ⟨.SPL, 0x140, 0, 1, .ro, 0, 0, 1, .const⟩
def SPL_DDR_SHORT : Fld := ⟨.SPL, 0x140, 1, 1, .ro, 0, 0, 1, .const⟩
def SPL_HOST_FULL : Fld := ⟨.SPL, 0x140, 2, 1, .ro, 0, 0, 1, .const⟩
def SPL_BOUND_HELD : Fld := ⟨.SPL, 0x140, 3, 1, .ro, 0, 0, 1, .const⟩
def SPL_RESERVE_EMPTY : Fld := ⟨.SPL, 0x140, 4, 1, .ro, 0, 0, 1, .const⟩
def SPL_RESERVE_FREE : Fld := ⟨.SPL, 0x144, 0, 32, .ro, 0, 0, 4294967295, .const⟩
def SPL_RESERVE_EVT : Fld := ⟨.SPL, 0x148, 0, 8, .rw, 50, 0, 100, .const⟩
def SPL_WM_PART : Fld := ⟨.SPL, 0x150, 0, 6, .rw, 0, 0, 63, .const⟩
def SPL_WM_TIER : Fld := ⟨.SPL, 0x150, 8, 2, .rw, 0, 0, 2, .const⟩
def SPL_LOW : Fld := ⟨.SPL, 0x154, 0, 16, .rw, 0, 0, 65535, .const⟩
def SPL_TARGET : Fld := ⟨.SPL, 0x154, 16, 16, .rw, 0, 0, 65535, .const⟩
def SPL_WM_FREE : Fld := ⟨.SPL, 0x158, 0, 32, .ro, 0, 0, 4294967295, .const⟩
def SPL_MOVED_SPILL : Fld := ⟨.SPL, 0x160, 0, 16, .ro, 0, 0, 65535, .const⟩
def SPL_MOVED_PROMOTE : Fld := ⟨.SPL, 0x160, 16, 16, .ro, 0, 0, 65535, .const⟩
def PGM_APPEND_EN : Fld := ⟨.PGM, 0x100, 0, 1, .rw, 1, 0, 1, .const⟩
def PGM_STAGE_EN : Fld := ⟨.PGM, 0x100, 1, 1, .rw, 1, 0, 1, .const⟩
def PGM_FORK_EN : Fld := ⟨.PGM, 0x100, 2, 1, .rw, 1, 0, 1, .const⟩
def PGM_K_FIRST : Fld := ⟨.PGM, 0x104, 0, 4, .rw, 0, 0, 8, .const⟩
def PGM_K_MAX : Fld := ⟨.PGM, 0x104, 4, 4, .rw, 6, 0, 8, .const⟩
def PGM_FMT : Fld := ⟨.PGM, 0x110, 0, 6, .rw, 0, 0, 63, .const⟩
def PGM_LATENT : Fld := ⟨.PGM, 0x114, 0, 11, .rw, 0, 32, 1024, .const⟩
def PGM_CODE8 : Fld := ⟨.PGM, 0x114, 11, 1, .rw, 0, 0, 1, .const⟩
def PGM_GROUP : Fld := ⟨.PGM, 0x114, 12, 2, .rw, 1, 0, 3, .const⟩
def PGM_OUTLIERS : Fld := ⟨.PGM, 0x114, 14, 4, .rw, 0, 0, 8, .const⟩
def PGM_POS_CH : Fld := ⟨.PGM, 0x114, 18, 7, .rw, 0, 0, 64, .const⟩
def PGM_POS_FORM : Fld := ⟨.PGM, 0x114, 25, 2, .rw, 0, 0, 3, .const⟩
def PGM_VALID : Fld := ⟨.PGM, 0x114, 31, 1, .rw, 0, 0, 1, .const⟩
def PGM_CODEBOOK : Fld := ⟨.PGM, 0x118, 0, 6, .rw, 0, 0, 63, .const⟩
def PGM_ZERO_CODE : Fld := ⟨.PGM, 0x118, 8, 8, .rw, 0, 0, 255, .const⟩
def PGM_ROW_BYTES : Fld := ⟨.PGM, 0x118, 16, 11, .ro, 0, 0, 2047, .const⟩
def PGM_IN_USE : Fld := ⟨.PGM, 0x118, 27, 1, .ro, 0, 0, 1, .const⟩
def PGM_PART : Fld := ⟨.PGM, 0x120, 0, 6, .rw, 0, 0, 63, .const⟩
def PGM_SLOT_SIZE : Fld := ⟨.PGM, 0x124, 0, 2, .rw, 0, 0, 3, .const⟩
def PGM_STAGE_MAX : Fld := ⟨.PGM, 0x124, 2, 10, .rw, 1023, 0, 1023, .const⟩
def PGM_SESS_MAX : Fld := ⟨.PGM, 0x124, 12, 19, .rw, 262143, 0, 524287, .const⟩
def PGM_SESS_OPEN : Fld := ⟨.PGM, 0x128, 0, 19, .ro, 0, 0, 524287, .const⟩
def PGM_STAGED_64 : Fld := ⟨.PGM, 0x128, 19, 13, .ro, 0, 0, 8191, .const⟩
def PGM_CAP : Fld := ⟨.PGM, 0x108, 0, 19, .rw, 65536, 0, 524287, .const⟩
def PGM_RETRIES : Fld := ⟨.PGM, 0x108, 24, 4, .ro, 8, 0, 15, .const⟩
def PGM_HANDLE_QUIET : Fld := ⟨.PGM, 0x10C, 0, 16, .rw, 1024, 64, 65535, .const⟩
def PGM_SESSIONS : Fld := ⟨.PGM, 0x130, 0, 19, .ro, 0, 0, 524287, .const⟩
def PGM_STAGED : Fld := ⟨.PGM, 0x134, 0, 19, .ro, 0, 0, 524287, .const⟩
def PGM_ROWS_IN : Fld := ⟨.PGM, 0x140, 0, 32, .rs, 0, 0, 4294967295, .const⟩
def PGM_ROWS_SKIPPED : Fld := ⟨.PGM, 0x144, 0, 32, .rs, 0, 0, 4294967295, .const⟩
def PGM_RESERVE_TAKEN : Fld := ⟨.PGM, 0x148, 0, 32, .rs, 0, 0, 4294967295, .const⟩
def PGM_STAGED_CNT : Fld := ⟨.PGM, 0x14C, 0, 32, .rs, 0, 0, 4294967295, .const⟩
def PGM_EXHAUSTED : Fld := ⟨.PGM, 0x150, 0, 32, .rs, 0, 0, 4294967295, .const⟩
def PGM_GAP_FAIL : Fld := ⟨.PGM, 0x154, 0, 32, .rs, 0, 0, 4294967295, .const⟩
def PGM_FORKS : Fld := ⟨.PGM, 0x158, 0, 32, .rs, 0, 0, 4294967295, .const⟩
def KEY_PFX_EN : Fld := ⟨.KEY, 0x100, 0, 1, .rw, 1, 0, 1, .const⟩
def KEY_SCAN_EN : Fld := ⟨.KEY, 0x100, 1, 1, .rw, 1, 0, 1, .const⟩
def KEY_RECLAIM_EN : Fld := ⟨.KEY, 0x100, 2, 1, .rw, 1, 0, 1, .const⟩
def KEY_CHAIN_MAX : Fld := ⟨.KEY, 0x100, 4, 3, .rw, 4, 1, 4, .const⟩
def KEY_NORMAL : Fld := ⟨.KEY, 0x104, 0, 8, .rw, 128, 4, 255, .const⟩
def KEY_BANK : Fld := ⟨.KEY, 0x110, 0, 7, .rw, 0, 0, 65, .const⟩
def KEY_TABLE : Fld := ⟨.KEY, 0x114, 0, 3, .rw, 0, 0, 4, .keyTable⟩
def KEY_WIDTH : Fld := ⟨.KEY, 0x114, 4, 2, .rw, 0, 0, 2, .keyWidth⟩
def KEY_OWNER : Fld := ⟨.KEY, 0x114, 8, 6, .rw, 0, 0, 63, .const⟩
def KEY_ENTRIES : Fld := ⟨.KEY, 0x118, 0, 15, .ro, 0, 0, 32767, .const⟩
def KEY_SPARE : Fld := ⟨.KEY, 0x118, 16, 1, .ro, 0, 0, 1, .keySpare⟩
def KEY_BAD : Fld := ⟨.KEY, 0x118, 17, 1, .ro, 0, 0, 1, .const⟩
def KEY_REBUILDING : Fld := ⟨.KEY, 0x118, 18, 1, .ro, 0, 0, 1, .const⟩
def KEY_PAR_ERR : Fld := ⟨.KEY, 0x118, 24, 8, .rs, 0, 0, 255, .const⟩
def KEY_IDLE : Fld := ⟨.KEY, 0x120, 0, 32, .rw, 10000000, 0, 4294967295, .const⟩
def KEY_PERIOD_MS : Fld := ⟨.KEY, 0x124, 0, 16, .rw, 100, 10, 60000, .const⟩
def KEY_INFLIGHT : Fld := ⟨.KEY, 0x128, 0, 8, .ro, 96, 0, 255, .const⟩
def KEY_RATE : Fld := ⟨.KEY, 0x128, 16, 10, .ro, 512, 0, 1023, .const⟩
def KEY_PFX_FREE : Fld := ⟨.KEY, 0x130, 0, 20, .ro, 0, 0, 1048575, .const⟩
def KEY_SESS_FREE : Fld := ⟨.KEY, 0x134, 0, 20, .ro, 0, 0, 1048575, .const⟩
def KEY_CONN_FREE : Fld := ⟨.KEY, 0x138, 0, 20, .ro, 0, 0, 1048575, .const⟩
def KEY_RKEY_FREE : Fld := ⟨.KEY, 0x13C, 0, 20, .ro, 0, 0, 1048575, .const⟩
def KEY_SEARCHES : Fld := ⟨.KEY, 0x140, 0, 32, .rs, 0, 0, 4294967295, .const⟩
def KEY_HITS : Fld := ⟨.KEY, 0x144, 0, 32, .rs, 0, 0, 4294967295, .const⟩
def KEY_FALSE_COLLIDE : Fld := ⟨.KEY, 0x148, 0, 32, .rs, 0, 0, 4294967295, .const⟩
def KEY_FALSE_SOFT : Fld := ⟨.KEY, 0x14C, 0, 32, .rs, 0, 0, 4294967295, .const⟩
def KEY_MATCHED : Fld := ⟨.KEY, 0x150, 0, 32, .rs, 0, 0, 4294967295, .const⟩
def KEY_PUBLISHED : Fld := ⟨.KEY, 0x154, 0, 32, .rs, 0, 0, 4294967295, .const⟩
def KEY_NOT_INDEXED : Fld := ⟨.KEY, 0x158, 0, 32, .rs, 0, 0, 4294967295, .const⟩
def KEY_RECLAIMED : Fld := ⟨.KEY, 0x15C, 0, 32, .rs, 0, 0, 4294967295, .const⟩
def KEY_PFX_WAITING : Fld := ⟨.KEY, 0x160, 0, 9, .ro, 0, 0, 511, .const⟩
def CL_FAULT_LIMIT : Fld := ⟨.CL, 0x100, 0, 4, .rw, 4, 1, 15, .const⟩
def CL_PHYS : Fld := ⟨.CL, 0x104, 0, 5, .ro, 0, 0, 31, .clPhys⟩
def CL_SLOT : Fld := ⟨.CL, 0x104, 5, 5, .ro, 0, 0, 31, .clSlot⟩
def CL_ACTIVE : Fld := ⟨.CL, 0x104, 10, 1, .ro, 0, 0, 1, .const⟩
def CL_SPARE : Fld := ⟨.CL, 0x104, 11, 1, .ro, 0, 0, 1, .clSpare⟩
def CL_FAULTED : Fld := ⟨.CL, 0x104, 12, 1, .ro, 0, 0, 1, .const⟩
def CL_BAD : Fld := ⟨.CL, 0x104, 13, 1, .ro, 0, 0, 1, .const⟩
def CL_HALF_CLOCK : Fld := ⟨.CL, 0x104, 14, 1, .ro, 0, 0, 1, .const⟩
def CL_PASSES : Fld := ⟨.CL, 0x110, 0, 32, .rs, 0, 0, 4294967295, .const⟩
def CL_BUSY_CYC : Fld := ⟨.CL, 0x114, 0, 16, .ro, 0, 0, 65535, .const⟩
def CL_CUTOFF : Fld := ⟨.CL, 0x118, 0, 32, .rs, 0, 0, 4294967295, .const⟩
def CL_SAT_CNT : Fld := ⟨.CL, 0x11C, 0, 32, .rs, 0, 0, 4294967295, .const⟩
def CL_BUF_CE : Fld := ⟨.CL, 0x120, 0, 32, .rs, 0, 0, 4294967295, .const⟩
def CL_BUF_UE : Fld := ⟨.CL, 0x124, 0, 32, .rs, 0, 0, 4294967295, .const⟩
def CL_RESTAGED : Fld := ⟨.CL, 0x128, 0, 32, .rs, 0, 0, 4294967295, .const⟩
def CL_PV_BF16 : Fld := ⟨.CL, 0x180, 0, 1, .rw, 0, 0, 1, .const⟩
def CL_DERATE : Fld := ⟨.CL, 0x180, 8, 8, .ro, 97, 0, 255, .const⟩
def CL_N_CYC : Fld := ⟨.CL, 0x1A4, 0, 20, .ro, 1652, 0, 1048575, .const⟩
def CL_CB : Fld := ⟨.CL, 0x184, 0, 6, .rw, 0, 0, 63, .const⟩
def CL_WORD : Fld := ⟨.CL, 0x184, 6, 6, .rw, 0, 0, 63, .const⟩
def CL_ENTRIES : Fld := ⟨.CL, 0x188, 0, 32, .rw, 0, 0, 4294967295, .const⟩
def CL_VALID : Fld := ⟨.CL, 0x18C, 0, 1, .rw, 0, 0, 1, .const⟩
def CL_SIZE256 : Fld := ⟨.CL, 0x18C, 1, 1, .rw, 0, 0, 1, .const⟩
def CL_M : Fld := ⟨.CL, 0x18C, 8, 8, .ro, 0, 0, 255, .const⟩
def CL_DELTA : Fld := ⟨.CL, 0x18C, 16, 8, .ro, 0, 0, 255, .const⟩
def CL_IN_USE : Fld := ⟨.CL, 0x18C, 24, 1, .ro, 0, 0, 1, .const⟩
def CL_LOAD : Fld := ⟨.CL, 0x190, 0, 1, .w1s, 0, 0, 1, .const⟩
def CL_BUSY : Fld := ⟨.CL, 0x190, 1, 1, .ro, 0, 0, 1, .const⟩
def CL_DONE : Fld := ⟨.CL, 0x190, 2, 1, .ro, 0, 0, 1, .const⟩
def CL_FAIL : Fld := ⟨.CL, 0x190, 3, 1, .ro, 0, 0, 1, .const⟩
def CL_ADDR_LO : Fld := ⟨.CL, 0x194, 0, 32, .rw, 0, 0, 4294967295, .const⟩
def CL_ADDR_HI : Fld := ⟨.CL, 0x198, 0, 8, .rw, 0, 0, 255, .const⟩
def CL_RES0 : Fld := ⟨.CL, 0x19C, 0, 7, .ro, 0, 0, 127, .const⟩
def CL_RES1 : Fld := ⟨.CL, 0x19C, 8, 7, .ro, 0, 0, 127, .const⟩
def CL_STREAMED : Fld := ⟨.CL, 0x19C, 16, 7, .ro, 0, 0, 127, .const⟩
def CL_FREE_KIB : Fld := ⟨.CL, 0x1A0, 0, 32, .ro, 65536, 0, 4294967295, .const⟩
def CL_FMT : Fld := ⟨.CL, 0x1B0, 0, 6, .rw, 0, 0, 63, .const⟩
def CL_QBF16 : Fld := ⟨.CL, 0x1B0, 8, 1, .rw, 0, 0, 1, .const⟩
def CL_PASS_CYC : Fld := ⟨.CL, 0x1B4, 0, 16, .ro, 0, 0, 65535, .const⟩
def CL_SWAP_CYC : Fld := ⟨.CL, 0x1B4, 16, 16, .ro, 0, 0, 65535, .const⟩
def QAD_ADMIT_EN : Fld := ⟨.QAD, 0x100, 0, 1, .rw, 1, 0, 1, .const⟩
def QAD_BATCH_EN : Fld := ⟨.QAD, 0x100, 1, 1, .rw, 1, 0, 1, .const⟩
def QAD_LEND_EN : Fld := ⟨.QAD, 0x100, 2, 1, .rw, 1, 0, 1, .const⟩
def QAD_NS : Fld := ⟨.QAD, 0x104, 0, 10, .rw, 100, 40, 500, .const⟩
def QAD_POINT : Fld := ⟨.QAD, 0x108, 0, 16, .rw, 500, 0, 65535, .const⟩
def QAD_SESSION_PCT : Fld := ⟨.QAD, 0x108, 16, 7, .rw, 50, 0, 100, .const⟩
def QAD_MAX : Fld := ⟨.QAD, 0x10C, 0, 13, .rw, 4096, 1, 4096, .const⟩
def QAD_A_ARRAY : Fld := ⟨.QAD, 0x110, 0, 9, .ro, 256, 0, 511, .const⟩
def QAD_A_STORE : Fld := ⟨.QAD, 0x110, 16, 9, .ro, 256, 0, 511, .const⟩
def QAD_BYTES_114 : Fld := ⟨.QAD, 0x114, 0, 32, .ro, 1804492, 0, 4294967295, .const⟩
def QAD_BYTES_118 : Fld := ⟨.QAD, 0x118, 0, 32, .ro, 288000, 0, 4294967295, .const⟩
def QAD_ADMITTED : Fld := ⟨.QAD, 0x140, 0, 32, .rs, 0, 0, 4294967295, .const⟩
def QAD_ON_TIME : Fld := ⟨.QAD, 0x144, 0, 32, .rs, 0, 0, 4294967295, .const⟩
def QAD_INCOMPLETE : Fld := ⟨.QAD, 0x148, 0, 32, .rs, 0, 0, 4294967295, .const⟩
def QAD_HELD : Fld := ⟨.QAD, 0x14C, 0, 32, .rs, 0, 0, 4294967295, .const⟩
def QAD_OVER_BUDGET : Fld := ⟨.QAD, 0x150, 0, 32, .rs, 0, 0, 4294967295, .const⟩
def QAD_REFUSED_OTHER : Fld := ⟨.QAD, 0x154, 0, 32, .rs, 0, 0, 4294967295, .const⟩
def QAD_BATCHED : Fld := ⟨.QAD, 0x158, 0, 32, .rs, 0, 0, 4294967295, .const⟩
def QAD_LAST_QUERIES : Fld := ⟨.QAD, 0x15C, 0, 13, .ro, 0, 0, 8191, .const⟩
def QAD_LAST_TILES : Fld := ⟨.QAD, 0x15C, 16, 16, .ro, 0, 0, 65535, .const⟩
def QAD_LAST_CAUSE : Fld := ⟨.QAD, 0x160, 0, 4, .ro, 0, 0, 15, .const⟩
def QAD_LAST_STACK : Fld := ⟨.QAD, 0x160, 8, 8, .ro, 0, 0, 255, .const⟩
def QAD_SESSION_POOL : Fld := ⟨.QAD, 0x164, 0, 32, .ro, 163840, 0, 4294967295, .const⟩
def MRG_COLLECT_EN : Fld := ⟨.MRG, 0x100, 0, 1, .rw, 1, 0, 1, .const⟩
def MRG_FP8_EN : Fld := ⟨.MRG, 0x100, 1, 1, .rw, 1, 0, 1, .const⟩
def MRG_CREDIT_WAIT : Fld := ⟨.MRG, 0x100, 4, 4, .rw, 2, 1, 8, .const⟩
def MRG_EARLY_WAIT : Fld := ⟨.MRG, 0x100, 8, 4, .rw, 2, 1, 8, .const⟩
def MRG_BYTES : Fld := ⟨.MRG, 0x104, 0, 24, .rw, 900000, 0, 16777215, .const⟩
def MRG_OPEN : Fld := ⟨.MRG, 0x108, 0, 14, .ro, 0, 0, 16383, .const⟩
def MRG_BUSY : Fld := ⟨.MRG, 0x10C, 0, 24, .ro, 0, 0, 16777215, .const⟩
def MRG_RESULTS : Fld := ⟨.MRG, 0x140, 0, 32, .rs, 0, 0, 4294967295, .const⟩
def MRG_DRAIN_MAX : Fld := ⟨.MRG, 0x144, 0, 16, .ro, 0, 0, 65535, .const⟩
def MRG_PARTIALS_IN : Fld := ⟨.MRG, 0x148, 0, 32, .rs, 0, 0, 4294967295, .const⟩
def MRG_CREDITS : Fld := ⟨.MRG, 0x14C, 0, 32, .rs, 0, 0, 4294967295, .const⟩
def MRG_LATE : Fld := ⟨.MRG, 0x150, 0, 32, .rs, 0, 0, 4294967295, .const⟩
def MRG_MISSING : Fld := ⟨.MRG, 0x154, 0, 32, .rs, 0, 0, 4294967295, .const⟩
def MRG_DISCARDED : Fld := ⟨.MRG, 0x158, 0, 32, .rs, 0, 0, 4294967295, .const⟩
def MRG_REJECTED : Fld := ⟨.MRG, 0x15C, 0, 32, .rs, 0, 0, 4294967295, .const⟩
def CMP_CODE_EN : Fld := ⟨.CMP, 0x100, 0, 1, .rw, 1, 0, 1, .const⟩
def CMP_PT_RATIO : Fld := ⟨.CMP, 0x100, 8, 8, .rw, 108, 100, 255, .const⟩
def CMP_FAULT_LIMIT : Fld := ⟨.CMP, 0x100, 16, 4, .rw, 3, 1, 15, .const⟩
def CMP_FAULTED0 : Fld := ⟨.CMP, 0x104, 0, 1, .ro, 0, 0, 1, .const⟩
def CMP_FAULTED1 : Fld := ⟨.CMP, 0x104, 1, 1, .ro, 0, 0, 1, .const⟩
def CMP_BUSY0 : Fld := ⟨.CMP, 0x104, 2, 1, .ro, 0, 0, 1, .const⟩
def CMP_BUSY1 : Fld := ⟨.CMP, 0x104, 3, 1, .ro, 0, 0, 1, .const⟩
def CMP_LAST_RATIO : Fld := ⟨.CMP, 0x104, 8, 8, .ro, 0, 0, 255, .const⟩
def CMP_COURSES : Fld := ⟨.CMP, 0x110, 0, 32, .rs, 0, 0, 4294967295, .const⟩
def CMP_BLOCKS_CODED : Fld := ⟨.CMP, 0x114, 0, 32, .rs, 0, 0, 4294967295, .const⟩
def CMP_BLOCKS_PT : Fld := ⟨.CMP, 0x118, 0, 32, .rs, 0, 0, 4294967295, .const⟩
def CMP_IN_KIB : Fld := ⟨.CMP, 0x11C, 0, 32, .rs, 0, 0, 4294967295, .const⟩
def CMP_OUT_KIB : Fld := ⟨.CMP, 0x120, 0, 32, .rs, 0, 0, 4294967295, .const⟩
def CMP_VERIFY_FAIL : Fld := ⟨.CMP, 0x124, 0, 32, .rs, 0, 0, 4294967295, .const⟩
def CMP_ABANDONED : Fld := ⟨.CMP, 0x128, 0, 32, .rs, 0, 0, 4294967295, .const⟩
def XPD_RETRY_EN : Fld := ⟨.XPD, 0x100, 0, 1, .rw, 1, 0, 1, .const⟩
def XPD_FAULT_LIMIT : Fld := ⟨.XPD, 0x100, 4, 4, .rw, 2, 1, 15, .const⟩
def XPD_INST : Fld := ⟨.XPD, 0x104, 0, 5, .rw, 0, 0, 24, .const⟩
def XPD_ACTIVE : Fld := ⟨.XPD, 0x108, 0, 1, .ro, 1, 0, 1, .const⟩
def XPD_FAULTED : Fld := ⟨.XPD, 0x108, 1, 1, .ro, 0, 0, 1, .const⟩
def XPD_SPARE : Fld := ⟨.XPD, 0x108, 2, 1, .ro, 0, 0, 1, .xpdSpare⟩
def XPD_STANDS_FOR : Fld := ⟨.XPD, 0x108, 3, 5, .ro, 31, 0, 31, .const⟩
def XPD_WEIGHT_PATH : Fld := ⟨.XPD, 0x108, 8, 1, .ro, 0, 0, 1, .xpdWeight⟩
def XPD_BUSY : Fld := ⟨.XPD, 0x108, 9, 1, .ro, 0, 0, 1, .const⟩
def XPD_RETIRE : Fld := ⟨.XPD, 0x108, 10, 1, .w1s, 0, 0, 1, .const⟩
def XPD_BLOCKS : Fld := ⟨.XPD, 0x110, 0, 32, .rs, 0, 0, 4294967295, .const⟩
def XPD_FAIL_HDR : Fld := ⟨.XPD, 0x114, 0, 32, .rs, 0, 0, 4294967295, .const⟩
def XPD_FAIL_TABLE : Fld := ⟨.XPD, 0x118, 0, 32, .rs, 0, 0, 4294967295, .const⟩
def XPD_FAIL_PREFIX : Fld := ⟨.XPD, 0x11C, 0, 32, .rs, 0, 0, 4294967295, .const⟩
def XPD_FAIL_UNDERRUN : Fld := ⟨.XPD, 0x120, 0, 32, .rs, 0, 0, 4294967295, .const⟩
def XPD_FAIL_OVERRUN : Fld := ⟨.XPD, 0x124, 0, 32, .rs, 0, 0, 4294967295, .const⟩
def XPD_FAIL_CRC : Fld := ⟨.XPD, 0x128, 0, 32, .rs, 0, 0, 4294967295, .const⟩
def XPD_MISMATCH : Fld := ⟨.XPD, 0x12C, 0, 32, .rs, 0, 0, 4294967295, .const⟩
def XPD_STALL_CYC : Fld := ⟨.XPD, 0x130, 0, 32, .rs, 0, 0, 4294967295, .const⟩
def XPD_SPARE0_FOR : Fld := ⟨.XPD, 0x140, 0, 5, .ro, 31, 0, 31, .const⟩
def XPD_SPARE1_FOR : Fld := ⟨.XPD, 0x140, 8, 5, .ro, 31, 0, 31, .const⟩
def XPD_DAMAGED : Fld := ⟨.XPD, 0x144, 0, 32, .rs, 0, 0, 4294967295, .const⟩
def LP_EN : Fld := ⟨.LP, 0x100, 0, 1, .rw, 1, 0, 1, .const⟩
def LP_SPLIT : Fld := ⟨.LP, 0x100, 1, 1, .rw, 0, 0, 1, .const⟩
def LP_REH : Fld := ⟨.LP, 0x100, 2, 1, .rw, 0, 0, 1, .lpReh⟩
def LP_TICK_ELIG : Fld := ⟨.LP, 0x100, 3, 1, .rw, 1, 0, 1, .const⟩
def LP_RETRAIN : Fld := ⟨.LP, 0x100, 4, 1, .w1s, 0, 0, 1, .const⟩
def LP_FORCE_SWAP : Fld := ⟨.LP, 0x100, 5, 1, .w1s, 0, 0, 1, .const⟩
def LP_SWAP_LANE : Fld := ⟨.LP, 0x100, 6, 3, .rw, 0, 0, 7, .const⟩
def LP_STATE_A : Fld := ⟨.LP, 0x104, 0, 3, .ro, 0, 0, 7, .const⟩
def LP_STATE_B : Fld := ⟨.LP, 0x104, 4, 3, .ro, 0, 0, 7, .const⟩
def LP_RATE64 : Fld := ⟨.LP, 0x104, 7, 1, .ro, 0, 0, 1, .const⟩
def LP_SPARE_FOR : Fld := ⟨.LP, 0x104, 8, 4, .ro, 15, 0, 15, .const⟩
def LP_SPARE_HALF : Fld := ⟨.LP, 0x104, 12, 1, .ro, 0, 0, 1, .const⟩
def LP_TICK_SRC : Fld := ⟨.LP, 0x104, 13, 1, .ro, 0, 0, 1, .const⟩
def LP_MARK_BAD : Fld := ⟨.LP, 0x104, 14, 1, .ro, 0, 0, 1, .const⟩
def LP_NODE : Fld := ⟨.LP, 0x108, 0, 16, .ro, 0, 0, 65535, .const⟩
def LP_PORT : Fld := ⟨.LP, 0x108, 16, 8, .ro, 0, 0, 255, .const⟩
def LP_STATE : Fld := ⟨.LP, 0x108, 24, 3, .ro, 0, 0, 7, .const⟩
def LP_TICK : Fld := ⟨.LP, 0x108, 27, 5, .ro, 0, 0, 31, .const⟩
def LP_SER_LIMIT : Fld := ⟨.LP, 0x10C, 0, 16, .rw, 4096, 0, 65535, .const⟩
def LP_UC_LIMIT : Fld := ⟨.LP, 0x10C, 16, 8, .rw, 4, 0, 255, .const⟩
def LP_ASYM : Fld := ⟨.LP, 0x110, 0, 16, .rw, 0, 0, 65535, .const⟩
def LP_DELAY : Fld := ⟨.LP, 0x114, 0, 24, .ro, 0, 0, 16777215, .const⟩
def LP_CW_RX : Fld := ⟨.LP, 0x140, 0, 32, .rs, 0, 0, 4294967295, .const⟩
def LP_CW_CORRECTED : Fld := ⟨.LP, 0x144, 0, 32, .rs, 0, 0, 4294967295, .const⟩
def LP_SYM_CORRECTED : Fld := ⟨.LP, 0x148, 0, 32, .rs, 0, 0, 4294967295, .const⟩
def LP_CW_UNCORR : Fld := ⟨.LP, 0x14C, 0, 32, .rs, 0, 0, 4294967295, .const⟩
def LP_UNITS_DROPPED : Fld := ⟨.LP, 0x150, 0, 32, .rs, 0, 0, 4294967295, .const⟩
def LP_SWAPS : Fld := ⟨.LP, 0x154, 0, 16, .rs, 0, 0, 65535, .const⟩
def LP_RETRAINS : Fld := ⟨.LP, 0x154, 16, 16, .rs, 0, 0, 65535, .const⟩
def LP_MARKS_MISSED : Fld := ⟨.LP, 0x158, 0, 32, .rs, 0, 0, 4294967295, .const⟩
def LP_CTRL_BAD : Fld := ⟨.LP, 0x15C, 0, 32, .rs, 0, 0, 4294967295, .const⟩
def TICK_MASTER : Fld := ⟨.TICK, 0x100, 0, 1, .rw, 0, 0, 1, .const⟩
def TICK_SRC_PREF : Fld := ⟨.TICK, 0x100, 1, 1, .rw, 0, 0, 1, .const⟩
def TICK_OUT_EN : Fld := ⟨.TICK, 0x100, 2, 1, .rw, 1, 0, 1, .const⟩
def TICK_PERIOD : Fld := ⟨.TICK, 0x104, 0, 10, .ro, 8, 0, 1023, .const⟩
def TICK_NEXT : Fld := ⟨.TICK, 0x108, 0, 10, .rw, 8, 4, 512, .const⟩
def TICK_PENDING : Fld := ⟨.TICK, 0x108, 31, 1, .ro, 0, 0, 1, .const⟩
def TICK_SWITCH_LO : Fld := ⟨.TICK, 0x10C, 0, 32, .rw, 0, 0, 4294967295, .const⟩
def TICK_SWITCH_HI : Fld := ⟨.TICK, 0x110, 0, 16, .rw, 0, 0, 65535, .const⟩
def TICK_NOW_LO : Fld := ⟨.TICK, 0x118, 0, 32, .ro, 0, 0, 4294967295, .const⟩
def TICK_NOW_HI : Fld := ⟨.TICK, 0x11C, 0, 16, .ro, 0, 0, 65535, .const⟩
def TICK_LOCK : Fld := ⟨.TICK, 0x120, 0, 2, .ro, 0, 0, 3, .const⟩
def TICK_OUT_OF_BUDGET : Fld := ⟨.TICK, 0x120, 2, 1, .ro, 0, 0, 1, .const⟩
def TICK_HOPS : Fld := ⟨.TICK, 0x120, 3, 3, .ro, 7, 0, 7, .const⟩
def TICK_SRC_IN : Fld := ⟨.TICK, 0x120, 6, 1, .ro, 0, 0, 1, .const⟩
def TICK_SRC_PORT : Fld := ⟨.TICK, 0x120, 8, 5, .ro, 0, 0, 31, .const⟩
def TICK_SRC_HALF : Fld := ⟨.TICK, 0x120, 13, 1, .ro, 0, 0, 1, .const⟩
def TICK_OFFSET : Fld := ⟨.TICK, 0x124, 0, 16, .ro, 0, 0, 65535, .const⟩
def TICK_OFFSET_MAX : Fld := ⟨.TICK, 0x124, 16, 16, .ro, 0, 0, 65535, .const⟩
def TICK_IN_ADJ : Fld := ⟨.TICK, 0x128, 0, 16, .rw, 0, 0, 65535, .const⟩
def TICK_OUT_ADJ : Fld := ⟨.TICK, 0x128, 16, 16, .rw, 0, 0, 65535, .const⟩
def TICK_LOAD_LO : Fld := ⟨.TICK, 0x130, 0, 32, .wo, 0, 0, 4294967295, .const⟩
def TICK_LOAD_HI : Fld := ⟨.TICK, 0x134, 0, 16, .wo, 0, 0, 65535, .const⟩
def TICK_SRC_CHANGES : Fld := ⟨.TICK, 0x140, 0, 32, .rs, 0, 0, 4294967295, .const⟩
def TICK_BUDGET_EVENTS : Fld := ⟨.TICK, 0x144, 0, 32, .rs, 0, 0, 4294967295, .const⟩
def TICK_IN_IGNORED : Fld := ⟨.TICK, 0x148, 0, 32, .rs, 0, 0, 4294967295, .const⟩
def FAB_EN : Fld := ⟨.FAB, 0x100, 0, 1, .rw, 1, 0, 1, .const⟩
def FAB_ACK_TWICE : Fld := ⟨.FAB, 0x100, 1, 1, .rw, 1, 0, 1, .const⟩
def FAB_HOP_LIMIT : Fld := ⟨.FAB, 0x100, 4, 4, .rw, 8, 1, 15, .const⟩
def FAB_DELAY : Fld := ⟨.FAB, 0x104, 0, 10, .rw, 200, 50, 1000, .const⟩
def FAB_REORDER : Fld := ⟨.FAB, 0x108, 0, 12, .rw, 500, 100, 4000, .const⟩
def FAB_RTO : Fld := ⟨.FAB, 0x108, 16, 8, .rw, 16, 2, 255, .const⟩
def FAB_LIMIT : Fld := ⟨.FAB, 0x108, 24, 8, .rw, 16, 2, 255, .const⟩
def FAB_CMP_US : Fld := ⟨.FAB, 0x10C, 0, 16, .rw, 64, 8, 65535, .const⟩
def FAB_OVERLAP : Fld := ⟨.FAB, 0x110, 0, 24, .rw, 10000, 1000, 16777215, .const⟩
def FAB_IN_USE : Fld := ⟨.FAB, 0x114, 0, 15, .ro, 0, 0, 32767, .const⟩
def FAB_IN_RESERVE : Fld := ⟨.FAB, 0x114, 16, 14, .rw, 4096, 0, 8192, .const⟩
def FAB_NODE : Fld := ⟨.FAB, 0x120, 0, 16, .rw, 0, 0, 65535, .const⟩
def FAB_PORTS : Fld := ⟨.FAB, 0x124, 0, 32, .rw, 0, 0, 4294967295, .const⟩
def FAB_TX_PKTS : Fld := ⟨.FAB, 0x140, 0, 32, .rs, 0, 0, 4294967295, .const⟩
def FAB_RX_PKTS : Fld := ⟨.FAB, 0x144, 0, 32, .rs, 0, 0, 4294967295, .const⟩
def FAB_RETX : Fld := ⟨.FAB, 0x148, 0, 32, .rs, 0, 0, 4294967295, .const⟩
def FAB_PROBES : Fld := ⟨.FAB, 0x14C, 0, 32, .rs, 0, 0, 4294967295, .const⟩
def FAB_HDR_BAD : Fld := ⟨.FAB, 0x150, 0, 32, .rs, 0, 0, 4294967295, .const⟩
def FAB_NO_CONN : Fld := ⟨.FAB, 0x154, 0, 32, .rs, 0, 0, 4294967295, .const⟩
def FAB_DUP_PKT : Fld := ⟨.FAB, 0x158, 0, 32, .rs, 0, 0, 4294967295, .const⟩
def FAB_OUT_OF_WINDOW : Fld := ⟨.FAB, 0x15C, 0, 32, .rs, 0, 0, 4294967295, .const⟩
def FAB_EPOCH_UNKNOWN : Fld := ⟨.FAB, 0x160, 0, 32, .rs, 0, 0, 4294967295, .const⟩
def FAB_AUTH_FAIL : Fld := ⟨.FAB, 0x164, 0, 32, .rs, 0, 0, 4294967295, .const⟩
def FAB_DUPLICATE : Fld := ⟨.FAB, 0x168, 0, 32, .rs, 0, 0, 4294967295, .const⟩
def FAB_VIOL_KEY : Fld := ⟨.FAB, 0x16C, 0, 32, .rs, 0, 0, 4294967295, .const⟩
def FAB_VIOL_GEN : Fld := ⟨.FAB, 0x170, 0, 32, .rs, 0, 0, 4294967295, .const⟩
def FAB_OPS_FULL : Fld := ⟨.FAB, 0x174, 0, 32, .rs, 0, 0, 4294967295, .const⟩
def FAB_NO_EXTENT : Fld := ⟨.FAB, 0x178, 0, 32, .rs, 0, 0, 4294967295, .const⟩
def FAB_TRANSIT : Fld := ⟨.FAB, 0x17C, 0, 32, .rs, 0, 0, 4294967295, .const⟩
def FAB_HOP_EXPIRED : Fld := ⟨.FAB, 0x180, 0, 32, .rs, 0, 0, 4294967295, .const⟩
def FAB_LATE_RECORD : Fld := ⟨.FAB, 0x184, 0, 32, .rs, 0, 0, 4294967295, .const⟩
def FAB_NOTICES_SUPPRESSED : Fld := ⟨.FAB, 0x188, 0, 32, .rs, 0, 0, 4294967295, .const⟩
def FAB_BROKEN : Fld := ⟨.FAB, 0x18C, 0, 32, .rs, 0, 0, 4294967295, .const⟩
def CNX_SPILL_EN : Fld := ⟨.CNX, 0x100, 0, 1, .rw, 0, 0, 1, .const⟩
def CNX_LOCK : Fld := ⟨.CNX, 0x100, 31, 1, .w1s, 0, 0, 1, .const⟩
def CNX_BASE_LO : Fld := ⟨.CNX, 0x104, 21, 11, .rwl, 0, 0, 2047, .const⟩
def CNX_BASE_HI : Fld := ⟨.CNX, 0x108, 0, 32, .rwl, 0, 0, 4294967295, .const⟩
def CNX_ENTRIES : Fld := ⟨.CNX, 0x10C, 0, 21, .rwl, 0, 0, 1048576, .const⟩
def CNX_PART_110 : Fld := ⟨.CNX, 0x110, 0, 6, .rw, 0, 0, 63, .const⟩
def CNX_BASE : Fld := ⟨.CNX, 0x114, 0, 20, .rw, 0, 0, 1048575, .const⟩
def CNX_COUNT : Fld := ⟨.CNX, 0x118, 0, 21, .rw, 0, 0, 1048576, .const⟩
def CNX_PER_CONN : Fld := ⟨.CNX, 0x11C, 0, 8, .rw, 64, 1, 255, .const⟩
def CNX_TOTAL : Fld := ⟨.CNX, 0x11C, 16, 14, .rw, 8192, 256, 16383, .const⟩
def CNX_HOT : Fld := ⟨.CNX, 0x120, 0, 15, .ro, 0, 0, 32767, .const⟩
def CNX_PINNED : Fld := ⟨.CNX, 0x124, 0, 15, .ro, 0, 0, 32767, .const⟩
def CNX_INSTALLED : Fld := ⟨.CNX, 0x128, 0, 21, .ro, 0, 0, 2097151, .const⟩
def CNX_CONN : Fld := ⟨.CNX, 0x130, 0, 20, .rw, 0, 0, 1048575, .const⟩
def CNX_STATE : Fld := ⟨.CNX, 0x134, 0, 2, .ro, 0, 0, 3, .const⟩
def CNX_IS_HOT : Fld := ⟨.CNX, 0x134, 2, 1, .ro, 0, 0, 1, .const⟩
def CNX_IS_PINNED : Fld := ⟨.CNX, 0x134, 3, 1, .ro, 0, 0, 1, .const⟩
def CNX_OVERLAP : Fld := ⟨.CNX, 0x134, 4, 1, .ro, 0, 0, 1, .const⟩
def CNX_PART_134 : Fld := ⟨.CNX, 0x134, 5, 6, .ro, 0, 0, 63, .const⟩
def CNX_PEER : Fld := ⟨.CNX, 0x134, 16, 16, .ro, 0, 0, 65535, .const⟩
def CNX_EPOCH : Fld := ⟨.CNX, 0x138, 0, 16, .ro, 0, 0, 65535, .const⟩
def CNX_OPEN_MSGS : Fld := ⟨.CNX, 0x138, 16, 13, .ro, 0, 0, 8191, .const⟩
def CNX_FETCHES : Fld := ⟨.CNX, 0x150, 0, 32, .rs, 0, 0, 4294967295, .const⟩
def CNX_EVICTIONS : Fld := ⟨.CNX, 0x154, 0, 32, .rs, 0, 0, 4294967295, .const⟩
def CNX_HOLD_DROPS : Fld := ⟨.CNX, 0x158, 0, 32, .rs, 0, 0, 4294967295, .const⟩
def CNX_CTX_FAIL : Fld := ⟨.CNX, 0x15C, 0, 32, .rs, 0, 0, 4294967295, .const⟩
def DB_SQ_TAIL : Fld := ⟨.DB, 0x0, 0, 16, .rw, 0, 0, 65535, .const⟩
def DB_CQ_HEAD : Fld := ⟨.DB, 0x4, 0, 16, .rw, 0, 0, 65535, .const⟩
def DB_COUNT : Fld := ⟨.DB, 0x8, 0, 32, .ro, 0, 0, 4294967295, .const⟩
def DB_FAIL_COUNT : Fld := ⟨.DB, 0xC, 0, 32, .ro, 0, 0, 4294967295, .const⟩
def QCFG_SQ_BASE_LO : Fld := ⟨.QCFG, 0x0, 12, 20, .rw, 0, 0, 1048575, .const⟩
def QCFG_SQ_BASE_HI : Fld := ⟨.QCFG, 0x4, 0, 32, .rw, 0, 0, 4294967295, .const⟩
def QCFG_CQ_BASE_LO : Fld := ⟨.QCFG, 0x8, 12, 20, .rw, 0, 0, 1048575, .const⟩
def QCFG_CQ_BASE_HI : Fld := ⟨.QCFG, 0xC, 0, 32, .rw, 0, 0, 4294967295, .const⟩
def QCFG_SQ_LOG2 : Fld := ⟨.QCFG, 0x10, 0, 5, .rw, 4, 4, 16, .const⟩
def QCFG_CQ_LOG2 : Fld := ⟨.QCFG, 0x10, 8, 5, .rw, 4, 4, 16, .const⟩
def QCFG_EN : Fld := ⟨.QCFG, 0x14, 0, 1, .ro, 0, 0, 1, .const⟩
def QCFG_IRQ_EN : Fld := ⟨.QCFG, 0x14, 1, 1, .rw, 0, 0, 1, .const⟩
def QCFG_VECTOR : Fld := ⟨.QCFG, 0x14, 16, 11, .rw, 0, 64, 2047, .qcfgVector⟩
def QCFG_COAL_COUNT : Fld := ⟨.QCFG, 0x18, 0, 8, .rw, 1, 1, 255, .const⟩
def QCFG_COAL_NS : Fld := ⟨.QCFG, 0x18, 16, 16, .rw, 0, 0, 65535, .const⟩
def QCFG_STATE : Fld := ⟨.QCFG, 0x1C, 0, 3, .ro, 0, 0, 7, .const⟩
def QCFG_PARTITION : Fld := ⟨.QCFG, 0x1C, 8, 8, .ro, 0, 0, 255, .const⟩
def QCFG_COUNT : Fld := ⟨.QCFG, 0x20, 0, 32, .ro, 0, 0, 4294967295, .const⟩
def QCFG_FAIL_COUNT : Fld := ⟨.QCFG, 0x24, 0, 32, .ro, 0, 0, 4294967295, .const⟩
def QCFG_LAST_HANDLE : Fld := ⟨.QCFG, 0x28, 0, 32, .ro, 4294967295, 0, 4294967295, .const⟩
def QCFG_SEQ : Fld := ⟨.QCFG, 0x2C, 0, 32, .ro, 0, 0, 4294967295, .const⟩
def QCFG_FETCH : Fld := ⟨.QCFG, 0x30, 0, 16, .ro, 0, 0, 65535, .const⟩
def QCFG_RECV_POSTED : Fld := ⟨.QCFG, 0x30, 16, 9, .ro, 0, 0, 511, .const⟩
def QUE_OP : Fld := ⟨.QUE, 0x104, 0, 3, .wo, 0, 0, 7, .const⟩
def QUE_QUEUE_104 : Fld := ⟨.QUE, 0x104, 8, 12, .wo, 0, 0, 4095, .const⟩
def QUE_SEQ_104 : Fld := ⟨.QUE, 0x104, 20, 8, .wo, 0, 0, 255, .const⟩
def QUE_STATUS : Fld := ⟨.QUE, 0x108, 0, 8, .ro, 0, 0, 255, .const⟩
def QUE_DETAIL : Fld := ⟨.QUE, 0x108, 8, 8, .ro, 0, 0, 255, .const⟩
def QUE_SEQ_108 : Fld := ⟨.QUE, 0x108, 16, 8, .ro, 0, 0, 255, .const⟩
def QUE_READY : Fld := ⟨.QUE, 0x108, 31, 1, .ro, 1, 0, 1, .const⟩
def QUE_QUEUE_10C : Fld := ⟨.QUE, 0x10C, 0, 12, .rw, 0, 0, 4095, .const⟩
def QUE_EN : Fld := ⟨.QUE, 0x10C, 31, 1, .rw, 0, 0, 1, .const⟩
def QUE_MAX_STARTED : Fld := ⟨.QUE, 0x100, 0, 14, .rw, 8192, 256, 16383, .const⟩
def QUE_PART : Fld := ⟨.QUE, 0x110, 0, 6, .rw, 0, 0, 63, .const⟩
def QUE_BASE : Fld := ⟨.QUE, 0x114, 0, 12, .rw, 0, 0, 4095, .const⟩
def QUE_COUNT : Fld := ⟨.QUE, 0x114, 16, 13, .rw, 0, 0, 4096, .const⟩
def QUE_FETCHED : Fld := ⟨.QUE, 0x140, 0, 32, .rs, 0, 0, 4294967295, .const⟩
def QUE_DB_NOP : Fld := ⟨.QUE, 0x144, 0, 32, .rs, 0, 0, 4294967295, .const⟩
def QUE_DB_BAD : Fld := ⟨.QUE, 0x148, 0, 32, .rs, 0, 0, 4294967295, .const⟩
def QUE_HEAD_NOP : Fld := ⟨.QUE, 0x14C, 0, 32, .rs, 0, 0, 4294967295, .const⟩
def QUE_HEAD_BAD : Fld := ⟨.QUE, 0x150, 0, 32, .rs, 0, 0, 4294967295, .const⟩
def QUE_FOREIGN : Fld := ⟨.QUE, 0x154, 0, 32, .rs, 0, 0, 4294967295, .const⟩
def QUE_SUPPRESSED : Fld := ⟨.QUE, 0x158, 0, 32, .rs, 0, 0, 4294967295, .const⟩
def QUE_NOTICE_LOST : Fld := ⟨.QUE, 0x15C, 0, 32, .rs, 0, 0, 4294967295, .const⟩
def QUE_WAIT_EXPIRED : Fld := ⟨.QUE, 0x160, 0, 32, .rs, 0, 0, 4294967295, .const⟩
def QUE_CMD_BUSY : Fld := ⟨.QUE, 0x164, 0, 32, .rs, 0, 0, 4294967295, .const⟩
def PCI_UP : Fld := ⟨.PCI, 0x100, 0, 1, .ro, 0, 0, 1, .const⟩
def PCI_SPEED : Fld := ⟨.PCI, 0x100, 1, 3, .ro, 0, 0, 7, .const⟩
def PCI_WIDTH : Fld := ⟨.PCI, 0x100, 4, 5, .ro, 0, 0, 31, .const⟩
def PCI_DEGRADED : Fld := ⟨.PCI, 0x100, 9, 1, .ro, 0, 0, 1, .const⟩
def PCI_VFS : Fld := ⟨.PCI, 0x100, 10, 6, .ro, 0, 0, 63, .const⟩
def PCI_BME : Fld := ⟨.PCI, 0x100, 16, 1, .ro, 0, 0, 1, .const⟩
def PCI_FN : Fld := ⟨.PCI, 0x104, 0, 6, .rw, 0, 0, 63, .const⟩
def PCI_BASE_LO : Fld := ⟨.PCI, 0x108, 30, 2, .rw, 0, 0, 3, .const⟩
def PCI_BASE_HI : Fld := ⟨.PCI, 0x10C, 0, 8, .rw, 0, 0, 255, .const⟩
def PCI_CE_CNT : Fld := ⟨.PCI, 0x140, 0, 32, .rs, 0, 0, 4294967295, .const⟩
def PCI_UE_CNT : Fld := ⟨.PCI, 0x144, 0, 32, .rs, 0, 0, 4294967295, .const⟩
def PCI_CTO_CNT : Fld := ⟨.PCI, 0x148, 0, 32, .rs, 0, 0, 4294967295, .const⟩
def PCI_BAR4_REFUSED : Fld := ⟨.PCI, 0x14C, 0, 32, .rs, 0, 0, 4294967295, .const⟩
def PCI_RD_KIB : Fld := ⟨.PCI, 0x150, 0, 32, .rs, 0, 0, 4294967295, .const⟩
def PCI_WR_KIB : Fld := ⟨.PCI, 0x154, 0, 32, .rs, 0, 0, 4294967295, .const⟩
def SCH_EN_100 : Fld := ⟨.SCH, 0x100, 0, 1, .rw, 1, 0, 1, .const⟩
def SCH_QUANTUM : Fld := ⟨.SCH, 0x100, 8, 8, .rw, 4, 1, 255, .const⟩
def SCH_LEVEL : Fld := ⟨.SCH, 0x110, 0, 2, .rw, 0, 0, 2, .const⟩
def SCH_INDEX : Fld := ⟨.SCH, 0x110, 2, 16, .rw, 0, 0, 65535, .const⟩
def SCH_WEIGHT : Fld := ⟨.SCH, 0x114, 0, 8, .rw, 0, 0, 255, .schWeight⟩
def SCH_PART_114 : Fld := ⟨.SCH, 0x114, 8, 6, .rw, 0, 0, 63, .const⟩
def SCH_EN_114 : Fld := ⟨.SCH, 0x114, 16, 1, .rw, 0, 0, 1, .const⟩
def SCH_SHAPE_EN : Fld := ⟨.SCH, 0x118, 0, 1, .rw, 0, 0, 1, .const⟩
def SCH_RESET_FULL : Fld := ⟨.SCH, 0x118, 1, 1, .rw, 0, 0, 1, .const⟩
def SCH_RATE : Fld := ⟨.SCH, 0x11C, 0, 20, .rw, 0, 0, 1048575, .const⟩
def SCH_BURST : Fld := ⟨.SCH, 0x120, 0, 24, .rw, 17, 17, 16777215, .const⟩
def SCH_TOKENS : Fld := ⟨.SCH, 0x124, 0, 32, .ro, 0, 0, 4294967295, .const⟩
def SCH_W1 : Fld := ⟨.SCH, 0x128, 0, 8, .rw, 8, 0, 255, .const⟩
def SCH_W2 : Fld := ⟨.SCH, 0x128, 8, 8, .rw, 4, 0, 255, .const⟩
def SCH_W3 : Fld := ⟨.SCH, 0x128, 16, 8, .rw, 4, 0, 255, .const⟩
def SCH_BORROW_NS : Fld := ⟨.SCH, 0x130, 0, 16, .rw, 500, 0, 65535, .const⟩
def SCH_PART_134 : Fld := ⟨.SCH, 0x134, 0, 6, .rw, 0, 0, 63, .const⟩
def SCH_MIN : Fld := ⟨.SCH, 0x138, 0, 11, .rw, 0, 0, 1024, .const⟩
def SCH_MAX : Fld := ⟨.SCH, 0x138, 16, 11, .rw, 1024, 0, 1024, .const⟩
def SCH_USED : Fld := ⟨.SCH, 0x13C, 0, 32, .ro, 0, 0, 4294967295, .const⟩
def SCH_DEF_SUB : Fld := ⟨.SCH, 0x140, 0, 12, .rw, 0, 0, 4095, .const⟩
def SCH_DECISIONS : Fld := ⟨.SCH, 0x150, 0, 32, .rs, 0, 0, 4294967295, .const⟩
def SCH_STRICT : Fld := ⟨.SCH, 0x154, 0, 32, .rs, 0, 0, 4294967295, .const⟩
def SCH_MISFILED : Fld := ⟨.SCH, 0x158, 0, 32, .rs, 0, 0, 4294967295, .const⟩
def SCH_SHAPED_WAIT : Fld := ⟨.SCH, 0x15C, 0, 32, .rs, 0, 0, 4294967295, .const⟩
def SCH_NEG_TOKENS : Fld := ⟨.SCH, 0x160, 0, 32, .rs, 0, 0, 4294967295, .const⟩
def POL_EN : Fld := ⟨.POL, 0x100, 0, 1, .rw, 1, 0, 1, .const⟩
def POL_YELLOW_PCT : Fld := ⟨.POL, 0x100, 8, 8, .rw, 25, 1, 99, .const⟩
def POL_METER : Fld := ⟨.POL, 0x104, 0, 15, .rw, 0, 0, 32767, .const⟩
def POL_CIR : Fld := ⟨.POL, 0x108, 0, 20, .rw, 0, 0, 1048575, .const⟩
def POL_PIR : Fld := ⟨.POL, 0x10C, 0, 20, .rw, 0, 0, 1048575, .const⟩
def POL_CBS : Fld := ⟨.POL, 0x110, 0, 24, .rw, 17, 17, 16777215, .const⟩
def POL_PBS : Fld := ⟨.POL, 0x114, 0, 24, .rw, 17, 17, 16777215, .const⟩
def POL_M_EN : Fld := ⟨.POL, 0x118, 0, 1, .rw, 0, 0, 1, .const⟩
def POL_GREEN_KIB : Fld := ⟨.POL, 0x140, 0, 32, .rs, 0, 0, 4294967295, .const⟩
def POL_YELLOW_KIB : Fld := ⟨.POL, 0x144, 0, 32, .rs, 0, 0, 4294967295, .const⟩
def POL_YELLOW_DROP : Fld := ⟨.POL, 0x148, 0, 32, .rs, 0, 0, 4294967295, .const⟩
def POL_RED_DROP : Fld := ⟨.POL, 0x14C, 0, 32, .rs, 0, 0, 4294967295, .const⟩
def POL_POLICED_MSGS : Fld := ⟨.POL, 0x150, 0, 32, .rs, 0, 0, 4294967295, .const⟩
def PP_STATE : Fld := ⟨.PP, 0x100, 0, 2, .ro, 0, 0, 3, .const⟩
def PP_KEY_SET : Fld := ⟨.PP, 0x100, 2, 1, .ro, 0, 0, 1, .const⟩
def PP_STRIKES : Fld := ⟨.PP, 0x100, 8, 24, .ro, 0, 0, 16777215, .const⟩
def PP_HBM_QUOTA : Fld := ⟨.PP, 0x108, 0, 24, .rw, 0, 0, 16777215, .const⟩
def PP_DDR_QUOTA : Fld := ⟨.PP, 0x10C, 0, 24, .rw, 0, 0, 16777215, .const⟩
def PP_HOST_QUOTA : Fld := ⟨.PP, 0x110, 0, 24, .rw, 0, 0, 16777215, .const⟩
def PP_ALLOT_MIB : Fld := ⟨.PP, 0x114, 0, 11, .rw, 0, 0, 1024, .const⟩
def PP_ALLOT_STACK : Fld := ⟨.PP, 0x114, 16, 3, .rw, 0, 0, 7, .const⟩
def PP_ALLOT_BASE_LO : Fld := ⟨.PP, 0x118, 0, 32, .ro, 0, 0, 4294967295, .const⟩
def PP_ALLOT_BASE_HI : Fld := ⟨.PP, 0x11C, 0, 8, .ro, 0, 0, 255, .const⟩
def PP_HBM_USED : Fld := ⟨.PP, 0x120, 0, 24, .ro, 0, 0, 16777215, .const⟩
def PP_DDR_USED : Fld := ⟨.PP, 0x124, 0, 24, .ro, 0, 0, 16777215, .const⟩
def PP_HOST_USED : Fld := ⟨.PP, 0x128, 0, 24, .ro, 0, 0, 16777215, .const⟩
def PP_PK_KCV_LO : Fld := ⟨.PP, 0x130, 0, 32, .ro, 0, 0, 4294967295, .const⟩
def PP_PK_KCV_HI : Fld := ⟨.PP, 0x134, 0, 32, .ro, 0, 0, 4294967295, .const⟩
def PP_PK_WRAP0 : Fld := ⟨.PP, 0x140, 0, 32, .wo, 0, 0, 4294967295, .const⟩
def PP_PK_WRAP1 : Fld := ⟨.PP, 0x144, 0, 32, .wo, 0, 0, 4294967295, .const⟩
def PP_PK_WRAP2 : Fld := ⟨.PP, 0x148, 0, 32, .wo, 0, 0, 4294967295, .const⟩
def PP_PK_WRAP3 : Fld := ⟨.PP, 0x14C, 0, 32, .wo, 0, 0, 4294967295, .const⟩
def PP_PK_WRAP4 : Fld := ⟨.PP, 0x150, 0, 32, .wo, 0, 0, 4294967295, .const⟩
def PP_PK_WRAP5 : Fld := ⟨.PP, 0x154, 0, 32, .wo, 0, 0, 4294967295, .const⟩
def PP_PK_WRAP6 : Fld := ⟨.PP, 0x158, 0, 32, .wo, 0, 0, 4294967295, .const⟩
def PP_PK_WRAP7 : Fld := ⟨.PP, 0x15C, 0, 32, .wo, 0, 0, 4294967295, .const⟩
def PP_PK_WRAP8 : Fld := ⟨.PP, 0x160, 0, 32, .wo, 0, 0, 4294967295, .const⟩
def PP_PK_WRAP9 : Fld := ⟨.PP, 0x164, 0, 32, .wo, 0, 0, 4294967295, .const⟩
def PP_ATT_NONCE0 : Fld := ⟨.PP, 0x170, 0, 32, .rw, 0, 0, 4294967295, .const⟩
def PP_ATT_NONCE1 : Fld := ⟨.PP, 0x174, 0, 32, .rw, 0, 0, 4294967295, .const⟩
def PP_ATT_NONCE2 : Fld := ⟨.PP, 0x178, 0, 32, .rw, 0, 0, 4294967295, .const⟩
def PP_ATT_NONCE3 : Fld := ⟨.PP, 0x17C, 0, 32, .rw, 0, 0, 4294967295, .const⟩
def PP_ATT_NONCE4 : Fld := ⟨.PP, 0x180, 0, 32, .rw, 0, 0, 4294967295, .const⟩
def PP_ATT_NONCE5 : Fld := ⟨.PP, 0x184, 0, 32, .rw, 0, 0, 4294967295, .const⟩
def PP_ATT_NONCE6 : Fld := ⟨.PP, 0x188, 0, 32, .rw, 0, 0, 4294967295, .const⟩
def PP_ATT_NONCE7 : Fld := ⟨.PP, 0x18C, 0, 32, .rw, 0, 0, 4294967295, .const⟩
def PP_ATT_ADDR_LO : Fld := ⟨.PP, 0x190, 0, 32, .rw, 0, 0, 4294967295, .const⟩
def PP_ATT_ADDR_HI : Fld := ⟨.PP, 0x194, 0, 8, .rw, 0, 0, 255, .const⟩
def PP_ATT_GO : Fld := ⟨.PP, 0x198, 0, 1, .w1s, 0, 0, 1, .const⟩
def PP_ATT_READY : Fld := ⟨.PP, 0x198, 1, 1, .ro, 0, 0, 1, .const⟩
def PP_ATT_FAIL : Fld := ⟨.PP, 0x198, 2, 1, .ro, 0, 0, 1, .const⟩
def PP_CERT : Fld := ⟨.PP, 0x198, 4, 1, .rw, 0, 0, 1, .const⟩
def PP_ATT_GEN : Fld := ⟨.PP, 0x198, 8, 8, .ro, 0, 0, 255, .const⟩
def PP_LAST_STRIKE : Fld := ⟨.PP, 0x1A0, 0, 32, .ro, 0, 0, 4294967295, .const⟩
def PART_OP : Fld := ⟨.PART, 0x104, 0, 3, .wo, 0, 0, 7, .const⟩
def PART_PART : Fld := ⟨.PART, 0x104, 8, 6, .wo, 0, 0, 63, .const⟩
def PART_SEQ_104 : Fld := ⟨.PART, 0x104, 16, 8, .wo, 0, 0, 255, .const⟩
def PART_STATUS : Fld := ⟨.PART, 0x108, 0, 8, .ro, 0, 0, 255, .const⟩
def PART_DETAIL : Fld := ⟨.PART, 0x108, 8, 8, .ro, 0, 0, 255, .const⟩
def PART_SEQ_108 : Fld := ⟨.PART, 0x108, 16, 8, .ro, 0, 0, 255, .const⟩
def PART_READY : Fld := ⟨.PART, 0x108, 31, 1, .ro, 1, 0, 1, .const⟩
def PART_LIVE_LO : Fld := ⟨.PART, 0x110, 0, 32, .ro, 1, 0, 4294967295, .const⟩
def PART_LIVE_HI : Fld := ⟨.PART, 0x114, 0, 32, .ro, 0, 0, 4294967295, .const⟩
def PART_STRUCK_LO : Fld := ⟨.PART, 0x118, 0, 32, .ro, 0, 0, 4294967295, .const⟩
def PART_STRUCK_HI : Fld := ⟨.PART, 0x11C, 0, 32, .ro, 0, 0, 4294967295, .const⟩
def PART_SCRUB_RATE : Fld := ⟨.PART, 0x124, 0, 16, .rw, 512, 64, 65535, .const⟩
def PART_REC_SEL : Fld := ⟨.PART, 0x130, 0, 6, .rw, 0, 0, 63, .const⟩
def PART_REC0 : Fld := ⟨.PART, 0x140, 0, 32, .ro, 0, 0, 4294967295, .const⟩
def PART_REC1 : Fld := ⟨.PART, 0x144, 0, 32, .ro, 0, 0, 4294967295, .const⟩
def PART_REC2 : Fld := ⟨.PART, 0x148, 0, 32, .ro, 0, 0, 4294967295, .const⟩
def PART_REC3 : Fld := ⟨.PART, 0x14C, 0, 32, .ro, 0, 0, 4294967295, .const⟩
def PART_REC4 : Fld := ⟨.PART, 0x150, 0, 32, .ro, 0, 0, 4294967295, .const⟩
def PART_REC5 : Fld := ⟨.PART, 0x154, 0, 32, .ro, 0, 0, 4294967295, .const⟩
def PART_REC6 : Fld := ⟨.PART, 0x158, 0, 32, .ro, 0, 0, 4294967295, .const⟩
def PART_REC7 : Fld := ⟨.PART, 0x15C, 0, 32, .ro, 0, 0, 4294967295, .const⟩
def PART_REC8 : Fld := ⟨.PART, 0x160, 0, 32, .ro, 0, 0, 4294967295, .const⟩
def PART_REC9 : Fld := ⟨.PART, 0x164, 0, 32, .ro, 0, 0, 4294967295, .const⟩
def PART_REC10 : Fld := ⟨.PART, 0x168, 0, 32, .ro, 0, 0, 4294967295, .const⟩
def PART_REC11 : Fld := ⟨.PART, 0x16C, 0, 32, .ro, 0, 0, 4294967295, .const⟩
def PART_REC12 : Fld := ⟨.PART, 0x170, 0, 32, .ro, 0, 0, 4294967295, .const⟩
def PART_REC13 : Fld := ⟨.PART, 0x174, 0, 32, .ro, 0, 0, 4294967295, .const⟩
def PART_REC14 : Fld := ⟨.PART, 0x178, 0, 32, .ro, 0, 0, 4294967295, .const⟩
def PART_REC15 : Fld := ⟨.PART, 0x17C, 0, 32, .ro, 0, 0, 4294967295, .const⟩
def PART_SUPPRESSED : Fld := ⟨.PART, 0x180, 0, 32, .rs, 0, 0, 4294967295, .const⟩
def PART_AUTH_DROPS : Fld := ⟨.PART, 0x184, 0, 32, .rs, 0, 0, 4294967295, .const⟩
def PART_NOTICES_SENT : Fld := ⟨.PART, 0x188, 0, 32, .rs, 0, 0, 4294967295, .const⟩
def PART_NOTICES_UNDELIVERED : Fld := ⟨.PART, 0x18C, 0, 32, .rs, 0, 0, 4294967295, .const⟩
def PART_NOTICES_RECEIVED : Fld := ⟨.PART, 0x190, 0, 32, .rs, 0, 0, 4294967295, .const⟩
def PART_NOTICES_IGNORED : Fld := ⟨.PART, 0x194, 0, 32, .rs, 0, 0, 4294967295, .const⟩
def SEC_DEBUG : Fld := ⟨.SEC, 0x100, 0, 2, .ro, 0, 0, 3, .const⟩
def SEC_PROD : Fld := ⟨.SEC, 0x100, 2, 1, .ro, 1, 0, 1, .const⟩
def SEC_FKEK_SET : Fld := ⟨.SEC, 0x100, 3, 1, .ro, 0, 0, 1, .const⟩
def SEC_REVOKED : Fld := ⟨.SEC, 0x100, 4, 4, .ro, 0, 0, 15, .const⟩
def SEC_KEY_INDEX : Fld := ⟨.SEC, 0x100, 8, 2, .ro, 0, 0, 3, .const⟩
def SEC_SVN_FUSE : Fld := ⟨.SEC, 0x100, 16, 8, .ro, 0, 0, 255, .const⟩
def SEC_SVN_IMAGE : Fld := ⟨.SEC, 0x100, 24, 8, .ro, 0, 0, 255, .const⟩
def SEC_FKEK_LOCK : Fld := ⟨.SEC, 0x104, 0, 1, .w1s, 0, 0, 1, .const⟩
def SEC_SVN_COMMIT : Fld := ⟨.SEC, 0x104, 1, 1, .w1s, 0, 0, 1, .const⟩
def SEC_FKEK0 : Fld := ⟨.SEC, 0x110, 0, 32, .wo, 0, 0, 4294967295, .const⟩
def SEC_FKEK1 : Fld := ⟨.SEC, 0x114, 0, 32, .wo, 0, 0, 4294967295, .const⟩
def SEC_FKEK2 : Fld := ⟨.SEC, 0x118, 0, 32, .wo, 0, 0, 4294967295, .const⟩
def SEC_FKEK3 : Fld := ⟨.SEC, 0x11C, 0, 32, .wo, 0, 0, 4294967295, .const⟩
def SEC_FKEK4 : Fld := ⟨.SEC, 0x120, 0, 32, .wo, 0, 0, 4294967295, .const⟩
def SEC_FKEK5 : Fld := ⟨.SEC, 0x124, 0, 32, .wo, 0, 0, 4294967295, .const⟩
def SEC_FKEK6 : Fld := ⟨.SEC, 0x128, 0, 32, .wo, 0, 0, 4294967295, .const⟩
def SEC_FKEK7 : Fld := ⟨.SEC, 0x12C, 0, 32, .wo, 0, 0, 4294967295, .const⟩
def SEC_FKEK_KCV_LO : Fld := ⟨.SEC, 0x130, 0, 32, .ro, 0, 0, 4294967295, .const⟩
def SEC_FKEK_KCV_HI : Fld := ⟨.SEC, 0x134, 0, 32, .ro, 0, 0, 4294967295, .const⟩
def SEC_DEV_ID0 : Fld := ⟨.SEC, 0x140, 0, 32, .ro, 0, 0, 4294967295, .devId⟩
def SEC_DEV_ID1 : Fld := ⟨.SEC, 0x144, 0, 32, .ro, 0, 0, 4294967295, .devId⟩
def SEC_DEV_ID2 : Fld := ⟨.SEC, 0x148, 0, 32, .ro, 0, 0, 4294967295, .devId⟩
def SEC_DEV_ID3 : Fld := ⟨.SEC, 0x14C, 0, 32, .ro, 0, 0, 4294967295, .devId⟩
def SEC_UNWRAP_FAIL : Fld := ⟨.SEC, 0x180, 0, 32, .rs, 0, 0, 4294967295, .const⟩
def SEC_BOOT_FAIL_A : Fld := ⟨.SEC, 0x184, 0, 16, .rs, 0, 0, 65535, .const⟩
def SEC_BOOT_FAIL_B : Fld := ⟨.SEC, 0x184, 16, 16, .rs, 0, 0, 65535, .const⟩
def ATT_MEAS_SEL : Fld := ⟨.ATT, 0x100, 0, 3, .rw, 0, 0, 7, .const⟩
def ATT_EXT_GO : Fld := ⟨.ATT, 0x108, 0, 1, .w1s, 0, 0, 1, .const⟩
def ATT_EXT_SLOT : Fld := ⟨.ATT, 0x108, 1, 1, .rw, 0, 0, 1, .const⟩
def ATT_EXT_DATA0 : Fld := ⟨.ATT, 0x120, 0, 32, .wo, 0, 0, 4294967295, .const⟩
def ATT_EXT_DATA1 : Fld := ⟨.ATT, 0x124, 0, 32, .wo, 0, 0, 4294967295, .const⟩
def ATT_EXT_DATA2 : Fld := ⟨.ATT, 0x128, 0, 32, .wo, 0, 0, 4294967295, .const⟩
def ATT_EXT_DATA3 : Fld := ⟨.ATT, 0x12C, 0, 32, .wo, 0, 0, 4294967295, .const⟩
def ATT_EXT_DATA4 : Fld := ⟨.ATT, 0x130, 0, 32, .wo, 0, 0, 4294967295, .const⟩
def ATT_EXT_DATA5 : Fld := ⟨.ATT, 0x134, 0, 32, .wo, 0, 0, 4294967295, .const⟩
def ATT_EXT_DATA6 : Fld := ⟨.ATT, 0x138, 0, 32, .wo, 0, 0, 4294967295, .const⟩
def ATT_EXT_DATA7 : Fld := ⟨.ATT, 0x13C, 0, 32, .wo, 0, 0, 4294967295, .const⟩
def ATT_MEAS0 : Fld := ⟨.ATT, 0x140, 0, 32, .ro, 0, 0, 4294967295, .const⟩
def ATT_MEAS1 : Fld := ⟨.ATT, 0x144, 0, 32, .ro, 0, 0, 4294967295, .const⟩
def ATT_MEAS2 : Fld := ⟨.ATT, 0x148, 0, 32, .ro, 0, 0, 4294967295, .const⟩
def ATT_MEAS3 : Fld := ⟨.ATT, 0x14C, 0, 32, .ro, 0, 0, 4294967295, .const⟩
def ATT_MEAS4 : Fld := ⟨.ATT, 0x150, 0, 32, .ro, 0, 0, 4294967295, .const⟩
def ATT_MEAS5 : Fld := ⟨.ATT, 0x154, 0, 32, .ro, 0, 0, 4294967295, .const⟩
def ATT_MEAS6 : Fld := ⟨.ATT, 0x158, 0, 32, .ro, 0, 0, 4294967295, .const⟩
def ATT_MEAS7 : Fld := ⟨.ATT, 0x15C, 0, 32, .ro, 0, 0, 4294967295, .const⟩
def ATT_NONCE0 : Fld := ⟨.ATT, 0x160, 0, 32, .rw, 0, 0, 4294967295, .const⟩
def ATT_NONCE1 : Fld := ⟨.ATT, 0x164, 0, 32, .rw, 0, 0, 4294967295, .const⟩
def ATT_NONCE2 : Fld := ⟨.ATT, 0x168, 0, 32, .rw, 0, 0, 4294967295, .const⟩
def ATT_NONCE3 : Fld := ⟨.ATT, 0x16C, 0, 32, .rw, 0, 0, 4294967295, .const⟩
def ATT_NONCE4 : Fld := ⟨.ATT, 0x170, 0, 32, .rw, 0, 0, 4294967295, .const⟩
def ATT_NONCE5 : Fld := ⟨.ATT, 0x174, 0, 32, .rw, 0, 0, 4294967295, .const⟩
def ATT_NONCE6 : Fld := ⟨.ATT, 0x178, 0, 32, .rw, 0, 0, 4294967295, .const⟩
def ATT_NONCE7 : Fld := ⟨.ATT, 0x17C, 0, 32, .rw, 0, 0, 4294967295, .const⟩
def ATT_ADDR_LO : Fld := ⟨.ATT, 0x180, 0, 32, .rw, 0, 0, 4294967295, .const⟩
def ATT_ADDR_HI : Fld := ⟨.ATT, 0x184, 0, 8, .rw, 0, 0, 255, .const⟩
def ATT_GO : Fld := ⟨.ATT, 0x188, 0, 1, .w1s, 0, 0, 1, .const⟩
def ATT_READY : Fld := ⟨.ATT, 0x188, 1, 1, .ro, 0, 0, 1, .const⟩
def ATT_FAIL : Fld := ⟨.ATT, 0x188, 2, 1, .ro, 0, 0, 1, .const⟩
def ATT_SCOPE : Fld := ⟨.ATT, 0x188, 3, 1, .rw, 0, 0, 1, .const⟩
def ATT_PART : Fld := ⟨.ATT, 0x188, 4, 6, .rw, 0, 0, 63, .const⟩
def ATT_CERT : Fld := ⟨.ATT, 0x188, 10, 1, .rw, 0, 0, 1, .const⟩
def ATT_GEN : Fld := ⟨.ATT, 0x188, 16, 8, .ro, 0, 0, 255, .const⟩
def ATT_REPORTS : Fld := ⟨.ATT, 0x1A0, 0, 32, .rs, 0, 0, 4294967295, .const⟩
def ATT_BUSY_REFUSED : Fld := ⟨.ATT, 0x1A4, 0, 32, .rs, 0, 0, 4294967295, .const⟩
def MIR_EN : Fld := ⟨.MIR, 0x100, 0, 1, .rw, 1, 0, 1, .const⟩
def MIR_HOME_EN : Fld := ⟨.MIR, 0x100, 1, 1, .rw, 0, 0, 1, .const⟩
def MIR_ACK_GRACE : Fld := ⟨.MIR, 0x100, 4, 4, .rw, 2, 1, 15, .const⟩
def MIR_UNDERSTUDY : Fld := ⟨.MIR, 0x104, 0, 16, .rw, 65535, 0, 65535, .const⟩
def MIR_SRC_A_108 : Fld := ⟨.MIR, 0x108, 0, 16, .rw, 65535, 0, 65535, .const⟩
def MIR_SRC_A_10C : Fld := ⟨.MIR, 0x10C, 0, 16, .rw, 65535, 0, 65535, .const⟩
def MIR_SRC_B_108 : Fld := ⟨.MIR, 0x108, 16, 16, .rw, 65535, 0, 65535, .const⟩
def MIR_SRC_B_10C : Fld := ⟨.MIR, 0x10C, 16, 16, .rw, 65535, 0, 65535, .const⟩
def MIR_KIB : Fld := ⟨.MIR, 0x110, 0, 16, .rw, 256, 0, 65535, .const⟩
def MIR_MIB : Fld := ⟨.MIR, 0x114, 0, 16, .rw, 256, 0, 65535, .const⟩
def MIR_COMMIT_WAIT : Fld := ⟨.MIR, 0x118, 0, 16, .rw, 4096, 0, 65535, .const⟩
def MIR_HOME_WAIT : Fld := ⟨.MIR, 0x118, 16, 8, .rw, 8, 0, 255, .const⟩
def MIR_LOST_MS : Fld := ⟨.MIR, 0x118, 24, 8, .rw, 100, 0, 255, .const⟩
def MIR_PART : Fld := ⟨.MIR, 0x120, 0, 6, .rw, 0, 0, 63, .const⟩
def MIR_MIRROR : Fld := ⟨.MIR, 0x124, 0, 1, .rw, 0, 0, 1, .const⟩
def MIR_HBM_COPY : Fld := ⟨.MIR, 0x124, 1, 1, .rw, 0, 0, 1, .const⟩
def MIR_STREAM : Fld := ⟨.MIR, 0x128, 0, 3, .ro, 0, 0, 7, .const⟩
def MIR_UNSEEDED : Fld := ⟨.MIR, 0x128, 8, 24, .ro, 0, 0, 16777215, .const⟩
def MIR_TICK : Fld := ⟨.MIR, 0x12C, 0, 32, .ro, 0, 0, 4294967295, .const⟩
def MIR_FE : Fld := ⟨.MIR, 0x130, 0, 32, .ro, 0, 0, 4294967295, .const⟩
def MIR_LEFT_MS : Fld := ⟨.MIR, 0x134, 0, 16, .ro, 0, 0, 65535, .const⟩
def MIR_VALID : Fld := ⟨.MIR, 0x134, 16, 1, .ro, 0, 0, 1, .const⟩
def MIR_LEN_MS : Fld := ⟨.MIR, 0x138, 0, 13, .ro, 500, 0, 8191, .const⟩
def MIR_NODE : Fld := ⟨.MIR, 0x140, 0, 16, .rw, 0, 0, 65535, .const⟩
def MIR_FENCE_MIN : Fld := ⟨.MIR, 0x144, 0, 32, .rw, 0, 0, 4294967295, .const⟩
def MIR_PRESENTED : Fld := ⟨.MIR, 0x148, 0, 32, .ro, 0, 0, 4294967295, .const⟩
def MIR_HOME_LOG2 : Fld := ⟨.MIR, 0x150, 0, 5, .rw, 16, 10, 20, .const⟩
def MIR_HOME_COUNT : Fld := ⟨.MIR, 0x150, 8, 9, .rw, 0, 0, 256, .const⟩
def MIR_HOME_RKEY : Fld := ⟨.MIR, 0x154, 0, 32, .ro, 0, 0, 4294967295, .const⟩
def MIR_HOME_SEL : Fld := ⟨.MIR, 0x158, 0, 8, .rw, 0, 0, 255, .const⟩
def MIR_HOME_NODE : Fld := ⟨.MIR, 0x15C, 0, 16, .rw, 65535, 0, 65535, .const⟩
def MIR_HOME_KEY : Fld := ⟨.MIR, 0x160, 0, 32, .rw, 0, 0, 4294967295, .const⟩
def MIR_RATE : Fld := ⟨.MIR, 0x168, 0, 8, .rw, 16, 1, 255, .const⟩
def MIR_MS : Fld := ⟨.MIR, 0x16C, 0, 16, .rw, 500, 100, 60000, .const⟩
def MIR_BATCHES_SENT : Fld := ⟨.MIR, 0x180, 0, 32, .rs, 0, 0, 4294967295, .const⟩
def MIR_BATCHES_APPLIED : Fld := ⟨.MIR, 0x184, 0, 32, .rs, 0, 0, 4294967295, .const⟩
def MIR_BEHIND : Fld := ⟨.MIR, 0x188, 0, 32, .rs, 0, 0, 4294967295, .const⟩
def MIR_UNAVAILABLE : Fld := ⟨.MIR, 0x18C, 0, 32, .rs, 0, 0, 4294967295, .const⟩
def MIR_COMMITS_OK : Fld := ⟨.MIR, 0x190, 0, 32, .rs, 0, 0, 4294967295, .const⟩
def MIR_COMMITS_FAILED : Fld := ⟨.MIR, 0x194, 0, 32, .rs, 0, 0, 4294967295, .const⟩
def MIR_RESTORES : Fld := ⟨.MIR, 0x198, 0, 32, .rs, 0, 0, 4294967295, .const⟩
def MIR_CAS_LOST : Fld := ⟨.MIR, 0x19C, 0, 32, .rs, 0, 0, 4294967295, .const⟩
def MIR_TAKEN : Fld := ⟨.MIR, 0x1A0, 0, 32, .rs, 0, 0, 4294967295, .const⟩
def MIR_DECLARED_LOST : Fld := ⟨.MIR, 0x1A4, 0, 32, .rs, 0, 0, 4294967295, .const⟩
def MIR_STALE_REFUSED : Fld := ⟨.MIR, 0x1A8, 0, 32, .rs, 0, 0, 4294967295, .const⟩
def MIR_LEASE_IGNORED : Fld := ⟨.MIR, 0x1AC, 0, 32, .rs, 0, 0, 4294967295, .const⟩
def MIR_ORPHANED : Fld := ⟨.MIR, 0x1B0, 0, 20, .ro, 0, 0, 1048575, .const⟩
def MIR_UNCONFIRMED : Fld := ⟨.MIR, 0x1B4, 0, 20, .ro, 0, 0, 1048575, .const⟩
def LOG_IRQ_SEV : Fld := ⟨.LOG, 0x100, 0, 2, .rw, 2, 0, 3, .const⟩
def LOG_NEWEST : Fld := ⟨.LOG, 0x104, 0, 32, .ro, 0, 0, 4294967295, .const⟩
def LOG_OLDEST_SRAM : Fld := ⟨.LOG, 0x108, 0, 32, .ro, 0, 0, 4294967295, .const⟩
def LOG_OLDEST_RING : Fld := ⟨.LOG, 0x10C, 0, 32, .ro, 0, 0, 4294967295, .const⟩
def LOG_RING_BASE_LO : Fld := ⟨.LOG, 0x110, 0, 32, .ro, 0, 0, 4294967295, .const⟩
def LOG_RING_BASE_HI : Fld := ⟨.LOG, 0x114, 0, 8, .ro, 0, 0, 255, .const⟩
def LOG_RING_NEXT : Fld := ⟨.LOG, 0x118, 0, 21, .ro, 0, 0, 2097151, .const⟩
def LOG_READ_SEQ : Fld := ⟨.LOG, 0x120, 0, 32, .rw, 0, 0, 4294967295, .const⟩
def LOG_READ_VALID : Fld := ⟨.LOG, 0x124, 0, 1, .ro, 0, 0, 1, .const⟩
def LOG_DATA0 : Fld := ⟨.LOG, 0x140, 0, 32, .ro, 0, 0, 4294967295, .const⟩
def LOG_DATA1 : Fld := ⟨.LOG, 0x144, 0, 32, .ro, 0, 0, 4294967295, .const⟩
def LOG_DATA2 : Fld := ⟨.LOG, 0x148, 0, 32, .ro, 0, 0, 4294967295, .const⟩
def LOG_DATA3 : Fld := ⟨.LOG, 0x14C, 0, 32, .ro, 0, 0, 4294967295, .const⟩
def LOG_DATA4 : Fld := ⟨.LOG, 0x150, 0, 32, .ro, 0, 0, 4294967295, .const⟩
def LOG_DATA5 : Fld := ⟨.LOG, 0x154, 0, 32, .ro, 0, 0, 4294967295, .const⟩
def LOG_DATA6 : Fld := ⟨.LOG, 0x158, 0, 32, .ro, 0, 0, 4294967295, .const⟩
def LOG_DATA7 : Fld := ⟨.LOG, 0x15C, 0, 32, .ro, 0, 0, 4294967295, .const⟩
def LOG_WRITTEN : Fld := ⟨.LOG, 0x180, 0, 32, .rs, 0, 0, 4294967295, .const⟩
def LOG_RING_WRAPS : Fld := ⟨.LOG, 0x184, 0, 32, .rs, 0, 0, 4294967295, .const⟩
def PWR_TRIM_EN : Fld := ⟨.PWR, 0x100, 0, 1, .rw, 1, 0, 1, .const⟩
def PWR_EMERG_EN : Fld := ⟨.PWR, 0x100, 1, 1, .rw, 1, 0, 1, .const⟩
def PWR_LOCK : Fld := ⟨.PWR, 0x100, 31, 1, .w1s, 0, 0, 1, .const⟩
def PWR_LIMIT_W : Fld := ⟨.PWR, 0x104, 0, 11, .rwl, 1200, 400, 1200, .const⟩
def PWR_FALLBACK_W : Fld := ⟨.PWR, 0x108, 0, 11, .rw, 600, 0, 2047, .const⟩
def PWR_SLOPE : Fld := ⟨.PWR, 0x10C, 0, 9, .rw, 41, 16, 256, .const⟩
def PWR_GUARD : Fld := ⟨.PWR, 0x10C, 9, 7, .rw, 20, 0, 100, .const⟩
def PWR_OVER : Fld := ⟨.PWR, 0x10C, 16, 8, .rw, 50, 10, 200, .const⟩
def PWR_CAP_W : Fld := ⟨.PWR, 0x110, 0, 11, .ro, 0, 0, 2047, .const⟩
def PWR_EFF_W : Fld := ⟨.PWR, 0x110, 16, 11, .ro, 600, 0, 2047, .const⟩
def PWR_VALID : Fld := ⟨.PWR, 0x110, 27, 1, .ro, 0, 0, 1, .const⟩
def PWR_HALF : Fld := ⟨.PWR, 0x110, 28, 1, .ro, 0, 0, 1, .const⟩
def PWR_CLAMPED : Fld := ⟨.PWR, 0x110, 29, 1, .ro, 0, 0, 1, .const⟩
def PWR_VALID_LO : Fld := ⟨.PWR, 0x114, 0, 32, .ro, 0, 0, 4294967295, .const⟩
def PWR_VALID_HI : Fld := ⟨.PWR, 0x118, 0, 16, .ro, 0, 0, 65535, .const⟩
def PWR_SEQ : Fld := ⟨.PWR, 0x11C, 0, 32, .ro, 0, 0, 4294967295, .const⟩
def PWR_EST : Fld := ⟨.PWR, 0x120, 0, 13, .ro, 0, 0, 8191, .const⟩
def PWR_TEL : Fld := ⟨.PWR, 0x120, 16, 13, .ro, 0, 0, 8191, .const⟩
def PWR_GAIN : Fld := ⟨.PWR, 0x124, 0, 16, .ro, 16384, 0, 65535, .const⟩
def PWR_A_P : Fld := ⟨.PWR, 0x128, 0, 11, .ro, 0, 0, 2047, .const⟩
def PWR_A_NEXT : Fld := ⟨.PWR, 0x128, 16, 11, .ro, 0, 0, 2047, .const⟩
def PWR_DECIDED : Fld := ⟨.PWR, 0x128, 27, 1, .ro, 0, 0, 1, .const⟩
def PWR_DIE : Fld := ⟨.PWR, 0x130, 0, 1, .rw, 0, 0, 1, .const⟩
def PWR_CNT : Fld := ⟨.PWR, 0x130, 8, 6, .rw, 0, 0, 47, .const⟩
def PWR_WEIGHT : Fld := ⟨.PWR, 0x134, 0, 16, .ro, 0, 0, 65535, .const⟩
def PWR_COUNT : Fld := ⟨.PWR, 0x134, 16, 16, .ro, 0, 0, 65535, .const⟩
def PWR_THR_MV : Fld := ⟨.PWR, 0x138, 0, 8, .rw, 30, 10, 100, .const⟩
def PWR_EMERG : Fld := ⟨.PWR, 0x140, 0, 32, .rs, 0, 0, 4294967295, .const⟩
def PWR_BUDGETS : Fld := ⟨.PWR, 0x144, 0, 32, .rs, 0, 0, 4294967295, .const⟩
def PWR_REFUSED : Fld := ⟨.PWR, 0x148, 0, 32, .rs, 0, 0, 4294967295, .const⟩
def PWR_EXPIRED : Fld := ⟨.PWR, 0x14C, 0, 32, .rs, 0, 0, 4294967295, .const⟩
def PWR_TEL_FAIL : Fld := ⟨.PWR, 0x150, 0, 32, .rs, 0, 0, 4294967295, .const⟩
def PWR_STRETCH0 : Fld := ⟨.PWR, 0x154, 0, 32, .rs, 0, 0, 4294967295, .const⟩
def PWR_STRETCH1 : Fld := ⟨.PWR, 0x158, 0, 32, .rs, 0, 0, 4294967295, .const⟩
def PWR_DROOP_OVER : Fld := ⟨.PWR, 0x15C, 0, 32, .rs, 0, 0, 4294967295, .const⟩
def THM_THROTTLE_C : Fld := ⟨.THM, 0x100, 0, 8, .rw, 95, 85, 100, .const⟩
def THM_HBM_C : Fld := ⟨.THM, 0x100, 8, 8, .rw, 90, 80, 95, .const⟩
def THM_HYST_C : Fld := ⟨.THM, 0x100, 16, 4, .rw, 2, 1, 10, .const⟩
def THM_STEP : Fld := ⟨.THM, 0x104, 0, 9, .rw, 64, 16, 256, .const⟩
def THM_C_T : Fld := ⟨.THM, 0x108, 0, 11, .ro, 1024, 0, 2047, .const⟩
def THM_C_H : Fld := ⟨.THM, 0x108, 16, 11, .ro, 1024, 0, 2047, .const⟩
def THM_THROTTLING : Fld := ⟨.THM, 0x108, 27, 1, .ro, 0, 0, 1, .const⟩
def THM_CRITICAL : Fld := ⟨.THM, 0x108, 28, 1, .ro, 0, 0, 1, .const⟩
def THM_TRIMMED : Fld := ⟨.THM, 0x108, 29, 1, .ro, 0, 0, 1, .const⟩
def THM_MAX0 : Fld := ⟨.THM, 0x10C, 0, 8, .ro, 0, 0, 255, .const⟩
def THM_MAX1 : Fld := ⟨.THM, 0x10C, 8, 8, .ro, 0, 0, 255, .const⟩
def THM_MAX_HBM : Fld := ⟨.THM, 0x10C, 16, 8, .ro, 0, 0, 255, .const⟩
def THM_SENSOR : Fld := ⟨.THM, 0x110, 0, 6, .rw, 0, 0, 39, .const⟩
def THM_TEMP : Fld := ⟨.THM, 0x114, 0, 12, .ro, 0, 0, 4095, .const⟩
def THM_THROTTLES : Fld := ⟨.THM, 0x140, 0, 32, .rs, 0, 0, 4294967295, .const⟩
def THM_CRITICALS : Fld := ⟨.THM, 0x144, 0, 32, .rs, 0, 0, 4294967295, .const⟩
def MAR_LANE_EN : Fld := ⟨.MAR, 0x100, 0, 1, .rw, 1, 0, 1, .const⟩
def MAR_HBM_EN : Fld := ⟨.MAR, 0x100, 1, 1, .rw, 1, 0, 1, .const⟩
def MAR_RECENTRE_EN : Fld := ⟨.MAR, 0x100, 2, 1, .rw, 1, 0, 1, .const⟩
def MAR_OPT_EN : Fld := ⟨.MAR, 0x100, 3, 1, .rw, 1, 0, 1, .const⟩
def MAR_V_MV_104 : Fld := ⟨.MAR, 0x104, 0, 8, .rw, 12, 0, 255, .const⟩
def MAR_H_UI : Fld := ⟨.MAR, 0x104, 8, 8, .rw, 48, 0, 255, .const⟩
def MAR_PORT : Fld := ⟨.MAR, 0x108, 0, 5, .rw, 0, 0, 31, .const⟩
def MAR_LANE : Fld := ⟨.MAR, 0x108, 8, 4, .rw, 0, 0, 8, .const⟩
def MAR_V : Fld := ⟨.MAR, 0x10C, 0, 8, .ro, 0, 0, 255, .const⟩
def MAR_H : Fld := ⟨.MAR, 0x10C, 8, 8, .ro, 0, 0, 255, .const⟩
def MAR_SPARE_WEAK : Fld := ⟨.MAR, 0x10C, 16, 1, .ro, 0, 0, 1, .const⟩
def MAR_BER_CL : Fld := ⟨.MAR, 0x110, 0, 16, .ro, 0, 0, 65535, .const⟩
def MAR_STACK : Fld := ⟨.MAR, 0x120, 0, 3, .rw, 0, 0, 7, .const⟩
def MAR_PC : Fld := ⟨.MAR, 0x120, 8, 6, .rw, 0, 0, 63, .const⟩
def MAR_T_LEFT : Fld := ⟨.MAR, 0x124, 0, 8, .ro, 0, 0, 255, .const⟩
def MAR_T_RIGHT : Fld := ⟨.MAR, 0x124, 8, 8, .ro, 0, 0, 255, .const⟩
def MAR_V_MV_124 : Fld := ⟨.MAR, 0x124, 16, 8, .ro, 0, 0, 255, .const⟩
def MAR_T_MIN : Fld := ⟨.MAR, 0x128, 0, 8, .rw, 40, 0, 255, .const⟩
def MAR_V_MIN : Fld := ⟨.MAR, 0x128, 8, 8, .rw, 30, 0, 255, .const⟩
def MAR_RAIL : Fld := ⟨.MAR, 0x130, 0, 4, .rw, 0, 0, 15, .const⟩
def MAR_MV : Fld := ⟨.MAR, 0x134, 0, 16, .ro, 0, 0, 65535, .const⟩
def MAR_MIN_MV : Fld := ⟨.MAR, 0x134, 16, 16, .ro, 0, 0, 65535, .const⟩
def MAR_SUP_MV : Fld := ⟨.MAR, 0x138, 0, 8, .rw, 20, 0, 255, .const⟩
def MAR_OPT_PORT : Fld := ⟨.MAR, 0x140, 0, 6, .rw, 0, 0, 63, .const⟩
def MAR_TX : Fld := ⟨.MAR, 0x144, 0, 16, .ro, 32768, 0, 65535, .const⟩
def MAR_RX : Fld := ⟨.MAR, 0x144, 16, 16, .ro, 32768, 0, 65535, .const⟩
def MAR_LANE_EVENTS : Fld := ⟨.MAR, 0x150, 0, 32, .rs, 0, 0, 4294967295, .const⟩
def MAR_HBM_EVENTS : Fld := ⟨.MAR, 0x154, 0, 32, .rs, 0, 0, 4294967295, .const⟩
def MAR_RECENTRES : Fld := ⟨.MAR, 0x158, 0, 32, .rs, 0, 0, 4294967295, .const⟩
def MAR_SUP_EVENTS : Fld := ⟨.MAR, 0x15C, 0, 32, .rs, 0, 0, 4294967295, .const⟩
def MAR_OPT_FAIL : Fld := ⟨.MAR, 0x160, 0, 32, .rs, 0, 0, 4294967295, .const⟩
def CAL_LOADED : Fld := ⟨.CAL, 0x100, 0, 1, .ro, 0, 0, 1, .const⟩
def CAL_BUILTIN : Fld := ⟨.CAL, 0x100, 1, 1, .ro, 0, 0, 1, .const⟩
def CAL_MISSING : Fld := ⟨.CAL, 0x100, 2, 1, .ro, 0, 0, 1, .const⟩
def CAL_FOREIGN : Fld := ⟨.CAL, 0x100, 3, 1, .ro, 0, 0, 1, .const⟩
def CAL_DIGEST_BAD : Fld := ⟨.CAL, 0x100, 4, 1, .ro, 0, 0, 1, .const⟩
def CAL_FACTORY : Fld := ⟨.CAL, 0x100, 5, 1, .ro, 0, 0, 1, .const⟩
def CAL_WRITING : Fld := ⟨.CAL, 0x100, 6, 1, .ro, 0, 0, 1, .const⟩
def CAL_WRITE_FAIL : Fld := ⟨.CAL, 0x100, 7, 1, .ro, 0, 0, 1, .const⟩
def CAL_PENDING : Fld := ⟨.CAL, 0x100, 8, 1, .ro, 0, 0, 1, .const⟩
def CAL_VERSION : Fld := ⟨.CAL, 0x104, 0, 16, .ro, 0, 0, 65535, .const⟩
def CAL_SRC_LO : Fld := ⟨.CAL, 0x108, 0, 32, .rw, 0, 0, 4294967295, .const⟩
def CAL_SRC_HI : Fld := ⟨.CAL, 0x10C, 0, 8, .rw, 0, 0, 255, .const⟩
def CAL_WRITE : Fld := ⟨.CAL, 0x110, 0, 1, .w1s, 0, 0, 1, .const⟩
def CAL_CONFIRM : Fld := ⟨.CAL, 0x110, 16, 16, .wo, 0, 0, 65535, .const⟩
def CAL_FLASH_OFFSET : Fld := ⟨.CAL, 0x114, 0, 32, .ro, 69206016, 0, 4294967295, .const⟩
def CAL_DIGEST0 : Fld := ⟨.CAL, 0x120, 0, 32, .ro, 0, 0, 4294967295, .const⟩
def CAL_DIGEST1 : Fld := ⟨.CAL, 0x124, 0, 32, .ro, 0, 0, 4294967295, .const⟩
def CAL_DIGEST2 : Fld := ⟨.CAL, 0x128, 0, 32, .ro, 0, 0, 4294967295, .const⟩
def CAL_DIGEST3 : Fld := ⟨.CAL, 0x12C, 0, 32, .ro, 0, 0, 4294967295, .const⟩
def CAL_DIGEST4 : Fld := ⟨.CAL, 0x130, 0, 32, .ro, 0, 0, 4294967295, .const⟩
def CAL_DIGEST5 : Fld := ⟨.CAL, 0x134, 0, 32, .ro, 0, 0, 4294967295, .const⟩
def CAL_DIGEST6 : Fld := ⟨.CAL, 0x138, 0, 32, .ro, 0, 0, 4294967295, .const⟩
def CAL_DIGEST7 : Fld := ⟨.CAL, 0x13C, 0, 32, .ro, 0, 0, 4294967295, .const⟩
def CAL_WRITES : Fld := ⟨.CAL, 0x140, 0, 32, .rs, 0, 0, 4294967295, .const⟩
def GLB_NODE_STATE : Fld := ⟨.GLB, 0x100, 0, 3, .ro, 0, 0, 7, .const⟩
def GLB_EVER_FULL : Fld := ⟨.GLB, 0x100, 3, 1, .ro, 0, 0, 1, .const⟩
def GLB_LEASE : Fld := ⟨.GLB, 0x100, 4, 1, .ro, 0, 0, 1, .const⟩
def GLB_FENCE_ORDER : Fld := ⟨.GLB, 0x100, 5, 1, .ro, 0, 0, 1, .const⟩
def GLB_PROMOTING : Fld := ⟨.GLB, 0x100, 6, 1, .ro, 0, 0, 1, .const⟩
def GLB_FW_RUNNING : Fld := ⟨.GLB, 0x104, 0, 1, .ro, 0, 0, 1, .const⟩
def GLB_D2D_UP : Fld := ⟨.GLB, 0x104, 1, 1, .ro, 0, 0, 1, .const⟩
def GLB_D2D_FAIL : Fld := ⟨.GLB, 0x104, 2, 1, .ro, 0, 0, 1, .const⟩
def GLB_MGA_UP : Fld := ⟨.GLB, 0x104, 3, 1, .ro, 0, 0, 1, .const⟩
def GLB_MGB_UP : Fld := ⟨.GLB, 0x104, 4, 1, .ro, 0, 0, 1, .const⟩
def GLB_PCIE_UP : Fld := ⟨.GLB, 0x104, 5, 1, .ro, 0, 0, 1, .const⟩
def GLB_DDR_DONE : Fld := ⟨.GLB, 0x104, 6, 1, .ro, 0, 0, 1, .const⟩
def GLB_IDS_LOCKED : Fld := ⟨.GLB, 0x104, 7, 1, .ro, 0, 0, 1, .const⟩
def GLB_HBM_DONE : Fld := ⟨.GLB, 0x104, 8, 8, .ro, 0, 0, 255, .const⟩
def GLB_HBM_ROUND : Fld := ⟨.GLB, 0x104, 16, 2, .ro, 0, 0, 3, .const⟩
def GLB_SELFTEST_REH : Fld := ⟨.GLB, 0x104, 18, 1, .ro, 0, 0, 1, .const⟩
def GLB_SELFTEST_FULL : Fld := ⟨.GLB, 0x104, 19, 1, .ro, 0, 0, 1, .const⟩
def GLB_REH_READY : Fld := ⟨.GLB, 0x104, 20, 1, .ro, 0, 0, 1, .const⟩
def GLB_FULL_READY : Fld := ⟨.GLB, 0x104, 21, 1, .ro, 0, 0, 1, .const⟩
def GLB_REH_EN : Fld := ⟨.GLB, 0x108, 0, 1, .rw, 1, 0, 1, .const⟩
def GLB_NO_HOST : Fld := ⟨.GLB, 0x108, 1, 1, .rw, 0, 0, 1, .const⟩
def GLB_NODE_ID : Fld := ⟨.GLB, 0x10C, 0, 16, .rwl, 65535, 0, 65535, .const⟩
def GLB_LOCK : Fld := ⟨.GLB, 0x10C, 31, 1, .w1s, 0, 0, 1, .const⟩
def GLB_FABRIC_ID : Fld := ⟨.GLB, 0x110, 0, 32, .rwl, 0, 0, 4294967295, .const⟩
def GLB_WARM : Fld := ⟨.GLB, 0x114, 0, 1, .w1s, 0, 0, 1, .const⟩
def GLB_CONFIRM : Fld := ⟨.GLB, 0x114, 16, 16, .wo, 0, 0, 65535, .const⟩
def GLB_POWER_ON : Fld := ⟨.GLB, 0x118, 0, 1, .ro, 1, 0, 1, .const⟩
def GLB_WARM_REG : Fld := ⟨.GLB, 0x118, 1, 1, .ro, 0, 0, 1, .const⟩
def GLB_WARM_MGMT : Fld := ⟨.GLB, 0x118, 2, 1, .ro, 0, 0, 1, .const⟩
def GLB_WATCHDOG : Fld := ⟨.GLB, 0x118, 3, 1, .ro, 0, 0, 1, .const⟩
def GLB_RECOVERY : Fld := ⟨.GLB, 0x118, 4, 1, .ro, 0, 0, 1, .const⟩
def GLB_WARM_COUNT : Fld := ⟨.GLB, 0x118, 8, 8, .rs, 0, 0, 255, .const⟩
def GLB_BOOT_SEL : Fld := ⟨.GLB, 0x11C, 0, 2, .ro, 0, 0, 3, .const⟩
def GLB_MGT_SEL : Fld := ⟨.GLB, 0x11C, 2, 1, .ro, 0, 0, 1, .const⟩
def GLB_TEST_MODE : Fld := ⟨.GLB, 0x11C, 3, 1, .ro, 0, 0, 1, .const⟩
def GLB_MS : Fld := ⟨.GLB, 0x120, 0, 32, .ro, 0, 0, 4294967295, .const⟩
def MG_EN : Fld := ⟨.MG, 0x100, 0, 1, .rw, 1, 0, 1, .const⟩
def MG_LINK_UP : Fld := ⟨.MG, 0x104, 0, 1, .ro, 0, 0, 1, .const⟩
def MG_MK_SET : Fld := ⟨.MG, 0x104, 1, 1, .ro, 0, 0, 1, .const⟩
def MG_RECOVERY : Fld := ⟨.MG, 0x104, 2, 1, .ro, 0, 0, 1, .const⟩
def MG_SOURCES : Fld := ⟨.MG, 0x104, 8, 8, .ro, 0, 0, 255, .const⟩
def MG_MK_EPOCH : Fld := ⟨.MG, 0x104, 16, 16, .ro, 0, 0, 65535, .const⟩
def MG_MAC_LO : Fld := ⟨.MG, 0x108, 0, 32, .ro, 0, 0, 4294967295, .macLo⟩
def MG_MAC_HI : Fld := ⟨.MG, 0x10C, 0, 16, .ro, 0, 0, 65535, .macHi⟩
def MG_C : Fld := ⟨.MG, 0x110, 0, 1, .rw, 1, 0, 1, .const⟩
def MG_B : Fld := ⟨.MG, 0x110, 1, 1, .rw, 1, 0, 1, .const⟩
def MG_R : Fld := ⟨.MG, 0x110, 2, 1, .rw, 1, 0, 1, .const⟩
def MG_W : Fld := ⟨.MG, 0x110, 3, 1, .rw, 1, 0, 1, .const⟩
def MG_RX_FRAMES : Fld := ⟨.MG, 0x140, 0, 32, .rs, 0, 0, 4294967295, .const⟩
def MG_TX_FRAMES : Fld := ⟨.MG, 0x144, 0, 32, .rs, 0, 0, 4294967295, .const⟩
def MG_AUTH_FAIL : Fld := ⟨.MG, 0x148, 0, 32, .rs, 0, 0, 4294967295, .const⟩
def MG_REPLAYS : Fld := ⟨.MG, 0x14C, 0, 32, .rs, 0, 0, 4294967295, .const⟩
def MG_REFUSED : Fld := ⟨.MG, 0x150, 0, 32, .rs, 0, 0, 4294967295, .const⟩
def MG_BAD_FRAMES : Fld := ⟨.MG, 0x154, 0, 32, .rs, 0, 0, 4294967295, .const⟩
def MG_MK0 : Fld := ⟨.MG, 0x180, 0, 32, .wo, 0, 0, 4294967295, .const⟩
def MG_MK1 : Fld := ⟨.MG, 0x184, 0, 32, .wo, 0, 0, 4294967295, .const⟩
def MG_MK2 : Fld := ⟨.MG, 0x188, 0, 32, .wo, 0, 0, 4294967295, .const⟩
def MG_MK3 : Fld := ⟨.MG, 0x18C, 0, 32, .wo, 0, 0, 4294967295, .const⟩
def MG_MK4 : Fld := ⟨.MG, 0x190, 0, 32, .wo, 0, 0, 4294967295, .const⟩
def MG_MK5 : Fld := ⟨.MG, 0x194, 0, 32, .wo, 0, 0, 4294967295, .const⟩
def MG_MK6 : Fld := ⟨.MG, 0x198, 0, 32, .wo, 0, 0, 4294967295, .const⟩
def MG_MK7 : Fld := ⟨.MG, 0x19C, 0, 32, .wo, 0, 0, 4294967295, .const⟩
def MG_MK_KCV_LO : Fld := ⟨.MG, 0x1A0, 0, 32, .ro, 0, 0, 4294967295, .const⟩
def MG_MK_KCV_HI : Fld := ⟨.MG, 0x1A4, 0, 32, .ro, 0, 0, 4294967295, .const⟩
def MG_PMB_SEL : Fld := ⟨.MG, 0x1B0, 0, 4, .rw, 0, 0, 15, .const⟩
def MG_PMB_ADDR : Fld := ⟨.MG, 0x1B4, 0, 7, .rw, 0, 0, 127, .const⟩
def MG_PMB_PRESENT : Fld := ⟨.MG, 0x1B4, 8, 1, .rw, 0, 0, 1, .const⟩
def MG_PMB_RAIL : Fld := ⟨.MG, 0x1B4, 12, 4, .rw, 0, 0, 15, .const⟩
def MG_PMB_FAIL : Fld := ⟨.MG, 0x1B8, 0, 32, .rs, 0, 0, 4294967295, .const⟩
def MG_OPT_SEL : Fld := ⟨.MG, 0x1C0, 0, 6, .rw, 0, 0, 63, .const⟩
def MG_OPT_ADDR : Fld := ⟨.MG, 0x1C4, 0, 7, .rw, 0, 0, 127, .const⟩
def MG_OPT_PRESENT : Fld := ⟨.MG, 0x1C4, 8, 1, .rw, 0, 0, 1, .const⟩
def MG_BMC_ADDR : Fld := ⟨.MG, 0x1C8, 0, 7, .rw, 42, 0, 127, .const⟩
def MTR_EN : Fld := ⟨.MTR, 0x100, 0, 1, .rw, 1, 0, 1, .const⟩
def MTR_PERIOD : Fld := ⟨.MTR, 0x104, 0, 32, .rw, 1048576, 65536, 4294966272, .const⟩
def MTR_SAMPLE : Fld := ⟨.MTR, 0x108, 0, 16, .rw, 1024, 64, 65535, .const⟩
def MTR_KEEP : Fld := ⟨.MTR, 0x10C, 0, 5, .rw, 16, 1, 16, .const⟩
def MTR_PSEL : Fld := ⟨.MTR, 0x110, 0, 6, .rw, 0, 0, 63, .const⟩
def MTR_CNT_SEL : Fld := ⟨.MTR, 0x114, 0, 4, .rw, 0, 0, 15, .const⟩
def MTR_VALUE_LO : Fld := ⟨.MTR, 0x118, 0, 32, .ro, 0, 0, 4294967295, .const⟩
def MTR_VALUE_HI : Fld := ⟨.MTR, 0x11C, 0, 32, .ro, 0, 0, 4294967295, .const⟩
def MTR_STMT_NUMBER : Fld := ⟨.MTR, 0x120, 0, 32, .ro, 0, 0, 4294967295, .const⟩
def MTR_STMT_BASE_LO : Fld := ⟨.MTR, 0x130, 0, 32, .ro, 0, 0, 4294967295, .const⟩
def MTR_STMT_BASE_HI : Fld := ⟨.MTR, 0x134, 0, 8, .ro, 0, 0, 255, .const⟩
def MTR_CLOSED : Fld := ⟨.MTR, 0x140, 0, 32, .rs, 0, 0, 4294967295, .const⟩
def MTR_SIGN_LATE : Fld := ⟨.MTR, 0x144, 0, 32, .rs, 0, 0, 4294967295, .const⟩
def BLK_ENABLE : Fld := ⟨.BLK, 0xC, 0, 1, .ro, 1, 0, 1, .const⟩
def BLK_SOFT_RESET : Fld := ⟨.BLK, 0xC, 1, 1, .w1s, 0, 0, 1, .const⟩
def BLK_FREEZE : Fld := ⟨.BLK, 0xC, 2, 1, .rw, 0, 0, 1, .const⟩
def BLK_READY : Fld := ⟨.BLK, 0x10, 0, 1, .ro, 0, 0, 1, .const⟩
def BLK_BUSY : Fld := ⟨.BLK, 0x10, 1, 1, .ro, 0, 0, 1, .const⟩
def BLK_ERROR : Fld := ⟨.BLK, 0x10, 2, 1, .ro, 0, 0, 1, .const⟩
def BLK_SPARE_IN_USE : Fld := ⟨.BLK, 0x10, 3, 1, .ro, 0, 0, 1, .const⟩
def GLB_INT_PEND0 : Fld := ⟨.GLB, 0x180, 0, 32, .ro, 0, 0, 4294967295, .const⟩
def GLB_INT_PEND1 : Fld := ⟨.GLB, 0x184, 0, 32, .ro, 0, 0, 4294967295, .const⟩
def GLB_INT_PEND2 : Fld := ⟨.GLB, 0x188, 0, 32, .ro, 0, 0, 4294967295, .const⟩
def GLB_INT_PEND3 : Fld := ⟨.GLB, 0x18C, 0, 32, .ro, 0, 0, 4294967295, .const⟩
def GLB_ERR_PEND0 : Fld := ⟨.GLB, 0x190, 0, 32, .ro, 0, 0, 4294967295, .const⟩
def GLB_ERR_PEND1 : Fld := ⟨.GLB, 0x194, 0, 32, .ro, 0, 0, 4294967295, .const⟩
def GLB_ERR_PEND2 : Fld := ⟨.GLB, 0x198, 0, 32, .ro, 0, 0, 4294967295, .const⟩
def GLB_ERR_PEND3 : Fld := ⟨.GLB, 0x19C, 0, 32, .ro, 0, 0, 4294967295, .const⟩
def GLB_PART_PEND_LO : Fld := ⟨.GLB, 0x1A0, 0, 32, .ro, 0, 0, 4294967295, .const⟩
def GLB_PART_PEND_HI : Fld := ⟨.GLB, 0x1A4, 0, 32, .ro, 0, 0, 4294967295, .const⟩
def GLB_VEC_PEND_LO : Fld := ⟨.GLB, 0x1A8, 0, 32, .ro, 0, 0, 4294967295, .const⟩
def GLB_VEC_PEND_HI : Fld := ⟨.GLB, 0x1AC, 0, 32, .ro, 0, 0, 4294967295, .const⟩
def GLB_HOLDOFF_NS : Fld := ⟨.GLB, 0x1B0, 0, 16, .rw, 1000, 0, 65535, .const⟩
def GLB_BAD_ACCESS : Fld := ⟨.GLB, 0x1C0, 0, 32, .rs, 0, 0, 4294967295, .const⟩
def GLB_RUNNING : Fld := ⟨.GLB, 0x148, 0, 6, .ro, 0, 0, 63, .const⟩
def GLB_FAULTED : Fld := ⟨.GLB, 0x148, 6, 6, .ro, 0, 0, 63, .const⟩
def GLB_WDOG_ARMED : Fld := ⟨.GLB, 0x148, 12, 1, .ro, 0, 0, 1, .const⟩
def GLB_WDOG_LEFT_MS : Fld := ⟨.GLB, 0x148, 16, 16, .ro, 100, 0, 65535, .const⟩
def BLK_ISR : Fld := ⟨.BLK, 0x14, 0, 32, .w1c, 0, 0, 4294967295, .const⟩
def BLK_IER : Fld := ⟨.BLK, 0x18, 0, 32, .rw, 0, 0, 4294967295, .const⟩
def BLK_ISET : Fld := ⟨.BLK, 0x1C, 0, 32, .w1s, 0, 0, 4294967295, .const⟩
def BLK_ERR_CAP0 : Fld := ⟨.BLK, 0x20, 0, 32, .ro, 0, 0, 4294967295, .const⟩
def BLK_ERR_CAP1 : Fld := ⟨.BLK, 0x24, 0, 32, .ro, 0, 0, 4294967295, .const⟩
def BLK_ERR_CAP2 : Fld := ⟨.BLK, 0x28, 0, 32, .ro, 0, 0, 4294967295, .const⟩
def BLK_ERR_CAP3 : Fld := ⟨.BLK, 0x2C, 0, 32, .ro, 0, 0, 4294967295, .const⟩
def BLK_ERR_CNT : Fld := ⟨.BLK, 0x30, 0, 32, .rs, 0, 0, 4294967295, .const⟩
def BLK_TICK : Fld := ⟨.BLK, 0x38, 0, 32, .ro, 0, 0, 4294967295, .const⟩

end Reg

/-- The fields of GLB. -/
def fldsGLB : List Fld :=
  [Reg.GLB_CL_SPARE_A, Reg.GLB_CL_SPARE_B, Reg.GLB_KEY_SPARE_A, Reg.GLB_KEY_SPARE_B, Reg.GLB_CORE_SPARE_A, Reg.GLB_CORE_SPARE_B, Reg.GLB_XPD_SPARE0, Reg.GLB_XPD_SPARE1, Reg.GLB_LANE_SPARE_EN, Reg.GLB_LANE_SPARE_ANY, Reg.GLB_PAGE_RESERVE_EN, Reg.GLB_MEM_REPAIR_EN] ++
  [Reg.GLB_QUEUE_FW, Reg.GLB_MGT_BOTH, Reg.GLB_FW_IMAGE, Reg.GLB_FW_FALLBACK, Reg.GLB_TICK_SRC, Reg.GLB_TICK_FALLBACK_EN, Reg.GLB_NODE_STATE, Reg.GLB_EVER_FULL, Reg.GLB_LEASE, Reg.GLB_FENCE_ORDER, Reg.GLB_PROMOTING, Reg.GLB_FW_RUNNING] ++
  [Reg.GLB_D2D_UP, Reg.GLB_D2D_FAIL, Reg.GLB_MGA_UP, Reg.GLB_MGB_UP, Reg.GLB_PCIE_UP, Reg.GLB_DDR_DONE, Reg.GLB_IDS_LOCKED, Reg.GLB_HBM_DONE, Reg.GLB_HBM_ROUND, Reg.GLB_SELFTEST_REH, Reg.GLB_SELFTEST_FULL, Reg.GLB_REH_READY] ++
  [Reg.GLB_FULL_READY, Reg.GLB_REH_EN, Reg.GLB_NO_HOST, Reg.GLB_NODE_ID, Reg.GLB_LOCK, Reg.GLB_FABRIC_ID, Reg.GLB_WARM, Reg.GLB_CONFIRM, Reg.GLB_POWER_ON, Reg.GLB_WARM_REG, Reg.GLB_WARM_MGMT, Reg.GLB_WATCHDOG] ++
  [Reg.GLB_RECOVERY, Reg.GLB_WARM_COUNT, Reg.GLB_BOOT_SEL, Reg.GLB_MGT_SEL, Reg.GLB_TEST_MODE, Reg.GLB_MS, Reg.GLB_INT_PEND0, Reg.GLB_INT_PEND1, Reg.GLB_INT_PEND2, Reg.GLB_INT_PEND3, Reg.GLB_ERR_PEND0, Reg.GLB_ERR_PEND1] ++
  [Reg.GLB_ERR_PEND2, Reg.GLB_ERR_PEND3, Reg.GLB_PART_PEND_LO, Reg.GLB_PART_PEND_HI, Reg.GLB_VEC_PEND_LO, Reg.GLB_VEC_PEND_HI, Reg.GLB_HOLDOFF_NS, Reg.GLB_BAD_ACCESS, Reg.GLB_RUNNING, Reg.GLB_FAULTED, Reg.GLB_WDOG_ARMED, Reg.GLB_WDOG_LEFT_MS]

/-- The fields of TICK. -/
def fldsTICK : List Fld :=
  [Reg.TICK_MASTER, Reg.TICK_SRC_PREF, Reg.TICK_OUT_EN, Reg.TICK_PERIOD, Reg.TICK_NEXT, Reg.TICK_PENDING, Reg.TICK_SWITCH_LO, Reg.TICK_SWITCH_HI, Reg.TICK_NOW_LO, Reg.TICK_NOW_HI, Reg.TICK_LOCK, Reg.TICK_OUT_OF_BUDGET] ++
  [Reg.TICK_HOPS, Reg.TICK_SRC_IN, Reg.TICK_SRC_PORT, Reg.TICK_SRC_HALF, Reg.TICK_OFFSET, Reg.TICK_OFFSET_MAX, Reg.TICK_IN_ADJ, Reg.TICK_OUT_ADJ, Reg.TICK_LOAD_LO, Reg.TICK_LOAD_HI, Reg.TICK_SRC_CHANGES, Reg.TICK_BUDGET_EVENTS] ++
  [Reg.TICK_IN_IGNORED]

/-- The fields of PWR. -/
def fldsPWR : List Fld :=
  [Reg.PWR_TRIM_EN, Reg.PWR_EMERG_EN, Reg.PWR_LOCK, Reg.PWR_LIMIT_W, Reg.PWR_FALLBACK_W, Reg.PWR_SLOPE, Reg.PWR_GUARD, Reg.PWR_OVER, Reg.PWR_CAP_W, Reg.PWR_EFF_W, Reg.PWR_VALID, Reg.PWR_HALF] ++
  [Reg.PWR_CLAMPED, Reg.PWR_VALID_LO, Reg.PWR_VALID_HI, Reg.PWR_SEQ, Reg.PWR_EST, Reg.PWR_TEL, Reg.PWR_GAIN, Reg.PWR_A_P, Reg.PWR_A_NEXT, Reg.PWR_DECIDED, Reg.PWR_DIE, Reg.PWR_CNT] ++
  [Reg.PWR_WEIGHT, Reg.PWR_COUNT, Reg.PWR_THR_MV, Reg.PWR_EMERG, Reg.PWR_BUDGETS, Reg.PWR_REFUSED, Reg.PWR_EXPIRED, Reg.PWR_TEL_FAIL, Reg.PWR_STRETCH0, Reg.PWR_STRETCH1, Reg.PWR_DROOP_OVER]

/-- The fields of THM. -/
def fldsTHM : List Fld :=
  [Reg.THM_THROTTLE_C, Reg.THM_HBM_C, Reg.THM_HYST_C, Reg.THM_STEP, Reg.THM_C_T, Reg.THM_C_H, Reg.THM_THROTTLING, Reg.THM_CRITICAL, Reg.THM_TRIMMED, Reg.THM_MAX0, Reg.THM_MAX1, Reg.THM_MAX_HBM] ++
  [Reg.THM_SENSOR, Reg.THM_TEMP, Reg.THM_THROTTLES, Reg.THM_CRITICALS]

/-- The fields of MAR. -/
def fldsMAR : List Fld :=
  [Reg.MAR_LANE_EN, Reg.MAR_HBM_EN, Reg.MAR_RECENTRE_EN, Reg.MAR_OPT_EN, Reg.MAR_V_MV_104, Reg.MAR_H_UI, Reg.MAR_PORT, Reg.MAR_LANE, Reg.MAR_V, Reg.MAR_H, Reg.MAR_SPARE_WEAK, Reg.MAR_BER_CL] ++
  [Reg.MAR_STACK, Reg.MAR_PC, Reg.MAR_T_LEFT, Reg.MAR_T_RIGHT, Reg.MAR_V_MV_124, Reg.MAR_T_MIN, Reg.MAR_V_MIN, Reg.MAR_RAIL, Reg.MAR_MV, Reg.MAR_MIN_MV, Reg.MAR_SUP_MV, Reg.MAR_OPT_PORT] ++
  [Reg.MAR_TX, Reg.MAR_RX, Reg.MAR_LANE_EVENTS, Reg.MAR_HBM_EVENTS, Reg.MAR_RECENTRES, Reg.MAR_SUP_EVENTS, Reg.MAR_OPT_FAIL]

/-- The fields of CAL. -/
def fldsCAL : List Fld :=
  [Reg.CAL_LOADED, Reg.CAL_BUILTIN, Reg.CAL_MISSING, Reg.CAL_FOREIGN, Reg.CAL_DIGEST_BAD, Reg.CAL_FACTORY, Reg.CAL_WRITING, Reg.CAL_WRITE_FAIL, Reg.CAL_PENDING, Reg.CAL_VERSION, Reg.CAL_SRC_LO, Reg.CAL_SRC_HI] ++
  [Reg.CAL_WRITE, Reg.CAL_CONFIRM, Reg.CAL_FLASH_OFFSET, Reg.CAL_DIGEST0, Reg.CAL_DIGEST1, Reg.CAL_DIGEST2, Reg.CAL_DIGEST3, Reg.CAL_DIGEST4, Reg.CAL_DIGEST5, Reg.CAL_DIGEST6, Reg.CAL_DIGEST7, Reg.CAL_WRITES]

/-- The fields of MG. -/
def fldsMG : List Fld :=
  [Reg.MG_EN, Reg.MG_LINK_UP, Reg.MG_MK_SET, Reg.MG_RECOVERY, Reg.MG_SOURCES, Reg.MG_MK_EPOCH, Reg.MG_MAC_LO, Reg.MG_MAC_HI, Reg.MG_C, Reg.MG_B, Reg.MG_R, Reg.MG_W] ++
  [Reg.MG_RX_FRAMES, Reg.MG_TX_FRAMES, Reg.MG_AUTH_FAIL, Reg.MG_REPLAYS, Reg.MG_REFUSED, Reg.MG_BAD_FRAMES, Reg.MG_MK0, Reg.MG_MK1, Reg.MG_MK2, Reg.MG_MK3, Reg.MG_MK4, Reg.MG_MK5] ++
  [Reg.MG_MK6, Reg.MG_MK7, Reg.MG_MK_KCV_LO, Reg.MG_MK_KCV_HI, Reg.MG_PMB_SEL, Reg.MG_PMB_ADDR, Reg.MG_PMB_PRESENT, Reg.MG_PMB_RAIL, Reg.MG_PMB_FAIL, Reg.MG_OPT_SEL, Reg.MG_OPT_ADDR, Reg.MG_OPT_PRESENT] ++
  [Reg.MG_BMC_ADDR]

/-- The fields of SEC. -/
def fldsSEC : List Fld :=
  [Reg.SEC_DEBUG, Reg.SEC_PROD, Reg.SEC_FKEK_SET, Reg.SEC_REVOKED, Reg.SEC_KEY_INDEX, Reg.SEC_SVN_FUSE, Reg.SEC_SVN_IMAGE, Reg.SEC_FKEK_LOCK, Reg.SEC_SVN_COMMIT, Reg.SEC_FKEK0, Reg.SEC_FKEK1, Reg.SEC_FKEK2] ++
  [Reg.SEC_FKEK3, Reg.SEC_FKEK4, Reg.SEC_FKEK5, Reg.SEC_FKEK6, Reg.SEC_FKEK7, Reg.SEC_FKEK_KCV_LO, Reg.SEC_FKEK_KCV_HI, Reg.SEC_DEV_ID0, Reg.SEC_DEV_ID1, Reg.SEC_DEV_ID2, Reg.SEC_DEV_ID3, Reg.SEC_UNWRAP_FAIL] ++
  [Reg.SEC_BOOT_FAIL_A, Reg.SEC_BOOT_FAIL_B]

/-- The fields of ATT. -/
def fldsATT : List Fld :=
  [Reg.ATT_MEAS_SEL, Reg.ATT_EXT_GO, Reg.ATT_EXT_SLOT, Reg.ATT_EXT_DATA0, Reg.ATT_EXT_DATA1, Reg.ATT_EXT_DATA2, Reg.ATT_EXT_DATA3, Reg.ATT_EXT_DATA4, Reg.ATT_EXT_DATA5, Reg.ATT_EXT_DATA6, Reg.ATT_EXT_DATA7, Reg.ATT_MEAS0] ++
  [Reg.ATT_MEAS1, Reg.ATT_MEAS2, Reg.ATT_MEAS3, Reg.ATT_MEAS4, Reg.ATT_MEAS5, Reg.ATT_MEAS6, Reg.ATT_MEAS7, Reg.ATT_NONCE0, Reg.ATT_NONCE1, Reg.ATT_NONCE2, Reg.ATT_NONCE3, Reg.ATT_NONCE4] ++
  [Reg.ATT_NONCE5, Reg.ATT_NONCE6, Reg.ATT_NONCE7, Reg.ATT_ADDR_LO, Reg.ATT_ADDR_HI, Reg.ATT_GO, Reg.ATT_READY, Reg.ATT_FAIL, Reg.ATT_SCOPE, Reg.ATT_PART, Reg.ATT_CERT, Reg.ATT_GEN] ++
  [Reg.ATT_REPORTS, Reg.ATT_BUSY_REFUSED]

/-- The fields of MTR. -/
def fldsMTR : List Fld :=
  [Reg.MTR_EN, Reg.MTR_PERIOD, Reg.MTR_SAMPLE, Reg.MTR_KEEP, Reg.MTR_PSEL, Reg.MTR_CNT_SEL, Reg.MTR_VALUE_LO, Reg.MTR_VALUE_HI, Reg.MTR_STMT_NUMBER, Reg.MTR_STMT_BASE_LO, Reg.MTR_STMT_BASE_HI, Reg.MTR_CLOSED] ++
  [Reg.MTR_SIGN_LATE]

/-- The fields of LOG. -/
def fldsLOG : List Fld :=
  [Reg.LOG_IRQ_SEV, Reg.LOG_NEWEST, Reg.LOG_OLDEST_SRAM, Reg.LOG_OLDEST_RING, Reg.LOG_RING_BASE_LO, Reg.LOG_RING_BASE_HI, Reg.LOG_RING_NEXT, Reg.LOG_READ_SEQ, Reg.LOG_READ_VALID, Reg.LOG_DATA0, Reg.LOG_DATA1, Reg.LOG_DATA2] ++
  [Reg.LOG_DATA3, Reg.LOG_DATA4, Reg.LOG_DATA5, Reg.LOG_DATA6, Reg.LOG_DATA7, Reg.LOG_WRITTEN, Reg.LOG_RING_WRAPS]

/-- The fields of HBM. -/
def fldsHBM : List Fld :=
  [Reg.HBM_TRAINED, Reg.HBM_IN_SERVICE, Reg.HBM_WALK, Reg.HBM_REPAIRING, Reg.HBM_OFFLINE, Reg.HBM_SCRUB_EN, Reg.HBM_HARD_REPAIR_EN, Reg.HBM_TAKE_OFFLINE, Reg.HBM_PERIOD_H, Reg.HBM_CE_LIMIT, Reg.HBM_WINDOW_H, Reg.HBM_CE_CNT] ++
  [Reg.HBM_UE_CNT, Reg.HBM_RETIRED, Reg.HBM_REPAIR_USED, Reg.HBM_REPAIR_FREE, Reg.HBM_RD_BYTES]

/-- The fields of DDR. -/
def fldsDDR : List Fld :=
  [Reg.DDR_TRAINED, Reg.DDR_IN_STRIPE, Reg.DDR_MODULES, Reg.DDR_MOD_GIB, Reg.DDR_SPEED, Reg.DDR_SCRUB_EN, Reg.DDR_SPPR_EN, Reg.DDR_HPPR_AT_BOOT, Reg.DDR_PERIOD_H, Reg.DDR_CE_LIMIT, Reg.DDR_WINDOW_H, Reg.DDR_CE_CNT] ++
  [Reg.DDR_UE_CNT, Reg.DDR_RETIRED, Reg.DDR_PPR_PENDING]

/-- The fields of CST. -/
def fldsCST : List Fld :=
  [Reg.CST_PRESENT, Reg.CST_READY, Reg.CST_OFFLINE, Reg.CST_SYS_MIB, Reg.CST_FRAMES, Reg.CST_RESERVE, Reg.CST_BULK_FLOOR, Reg.CST_MIRROR_FLOOR, Reg.CST_SESSION_FLOOR, Reg.CST_FIXED, Reg.CST_LENT, Reg.CST_UP] ++
  [Reg.CST_DEGRADED, Reg.CST_CRC_CNT, Reg.CST_LOAD_01, Reg.CST_LOAD_10]

/-- The fields of PGM. -/
def fldsPGM : List Fld :=
  [Reg.PGM_APPEND_EN, Reg.PGM_STAGE_EN, Reg.PGM_FORK_EN, Reg.PGM_K_FIRST, Reg.PGM_K_MAX, Reg.PGM_FMT, Reg.PGM_LATENT, Reg.PGM_CODE8, Reg.PGM_GROUP, Reg.PGM_OUTLIERS, Reg.PGM_POS_CH, Reg.PGM_POS_FORM] ++
  [Reg.PGM_VALID, Reg.PGM_CODEBOOK, Reg.PGM_ZERO_CODE, Reg.PGM_ROW_BYTES, Reg.PGM_IN_USE, Reg.PGM_PART, Reg.PGM_SLOT_SIZE, Reg.PGM_STAGE_MAX, Reg.PGM_SESS_MAX, Reg.PGM_SESS_OPEN, Reg.PGM_STAGED_64, Reg.PGM_CAP] ++
  [Reg.PGM_RETRIES, Reg.PGM_HANDLE_QUIET, Reg.PGM_SESSIONS, Reg.PGM_STAGED, Reg.PGM_ROWS_IN, Reg.PGM_ROWS_SKIPPED, Reg.PGM_RESERVE_TAKEN, Reg.PGM_STAGED_CNT, Reg.PGM_EXHAUSTED, Reg.PGM_GAP_FAIL, Reg.PGM_FORKS]

/-- The fields of SPL. -/
def fldsSPL : List Fld :=
  [Reg.SPL_SPILL_EN, Reg.SPL_PROMOTE_EN, Reg.SPL_PREFETCH_EN, Reg.SPL_HOST_TIER_EN, Reg.SPL_REBAL_EN, Reg.SPL_PF_LEAD, Reg.SPL_PF_INTERVAL, Reg.SPL_LOCK, Reg.SPL_ATTEND_INC, Reg.SPL_APPEND_INC, Reg.SPL_DECAY_SHIFT, Reg.SPL_COLD] ++
  [Reg.SPL_PROMOTE, Reg.SPL_MAX_110, Reg.SPL_MAX_114, Reg.SPL_MAX_118, Reg.SPL_MAX_11C, Reg.SPL_MIN_110, Reg.SPL_MIN_114, Reg.SPL_MIN_118, Reg.SPL_MIN_11C, Reg.SPL_STEP_UP, Reg.SPL_STEP_DOWN, Reg.SPL_TAIL_IDLE] ++
  [Reg.SPL_BASE_LO, Reg.SPL_BASE_HI, Reg.SPL_SIZE_GIB, Reg.SPL_RESERVE_LOW, Reg.SPL_DDR_SHORT, Reg.SPL_HOST_FULL, Reg.SPL_BOUND_HELD, Reg.SPL_RESERVE_EMPTY, Reg.SPL_RESERVE_FREE, Reg.SPL_RESERVE_EVT, Reg.SPL_WM_PART, Reg.SPL_WM_TIER] ++
  [Reg.SPL_LOW, Reg.SPL_TARGET, Reg.SPL_WM_FREE, Reg.SPL_MOVED_SPILL, Reg.SPL_MOVED_PROMOTE]

/-- The fields of KEY. -/
def fldsKEY : List Fld :=
  [Reg.KEY_PFX_EN, Reg.KEY_SCAN_EN, Reg.KEY_RECLAIM_EN, Reg.KEY_CHAIN_MAX, Reg.KEY_NORMAL, Reg.KEY_BANK, Reg.KEY_TABLE, Reg.KEY_WIDTH, Reg.KEY_OWNER, Reg.KEY_ENTRIES, Reg.KEY_SPARE, Reg.KEY_BAD] ++
  [Reg.KEY_REBUILDING, Reg.KEY_PAR_ERR, Reg.KEY_IDLE, Reg.KEY_PERIOD_MS, Reg.KEY_INFLIGHT, Reg.KEY_RATE, Reg.KEY_PFX_FREE, Reg.KEY_SESS_FREE, Reg.KEY_CONN_FREE, Reg.KEY_RKEY_FREE, Reg.KEY_SEARCHES, Reg.KEY_HITS] ++
  [Reg.KEY_FALSE_COLLIDE, Reg.KEY_FALSE_SOFT, Reg.KEY_MATCHED, Reg.KEY_PUBLISHED, Reg.KEY_NOT_INDEXED, Reg.KEY_RECLAIMED, Reg.KEY_PFX_WAITING]

/-- The fields of CMP. -/
def fldsCMP : List Fld :=
  [Reg.CMP_CODE_EN, Reg.CMP_PT_RATIO, Reg.CMP_FAULT_LIMIT, Reg.CMP_FAULTED0, Reg.CMP_FAULTED1, Reg.CMP_BUSY0, Reg.CMP_BUSY1, Reg.CMP_LAST_RATIO, Reg.CMP_COURSES, Reg.CMP_BLOCKS_CODED, Reg.CMP_BLOCKS_PT, Reg.CMP_IN_KIB] ++
  [Reg.CMP_OUT_KIB, Reg.CMP_VERIFY_FAIL, Reg.CMP_ABANDONED]

/-- The fields of XPD. -/
def fldsXPD : List Fld :=
  [Reg.XPD_RETRY_EN, Reg.XPD_FAULT_LIMIT, Reg.XPD_INST, Reg.XPD_ACTIVE, Reg.XPD_FAULTED, Reg.XPD_SPARE, Reg.XPD_STANDS_FOR, Reg.XPD_WEIGHT_PATH, Reg.XPD_BUSY, Reg.XPD_RETIRE, Reg.XPD_BLOCKS, Reg.XPD_FAIL_HDR] ++
  [Reg.XPD_FAIL_TABLE, Reg.XPD_FAIL_PREFIX, Reg.XPD_FAIL_UNDERRUN, Reg.XPD_FAIL_OVERRUN, Reg.XPD_FAIL_CRC, Reg.XPD_MISMATCH, Reg.XPD_STALL_CYC, Reg.XPD_SPARE0_FOR, Reg.XPD_SPARE1_FOR, Reg.XPD_DAMAGED]

/-- The fields of CL. -/
def fldsCL : List Fld :=
  [Reg.CL_FAULT_LIMIT, Reg.CL_PHYS, Reg.CL_SLOT, Reg.CL_ACTIVE, Reg.CL_SPARE, Reg.CL_FAULTED, Reg.CL_BAD, Reg.CL_HALF_CLOCK, Reg.CL_PASSES, Reg.CL_BUSY_CYC, Reg.CL_CUTOFF, Reg.CL_SAT_CNT] ++
  [Reg.CL_BUF_CE, Reg.CL_BUF_UE, Reg.CL_RESTAGED, Reg.CL_PV_BF16, Reg.CL_DERATE, Reg.CL_N_CYC, Reg.CL_CB, Reg.CL_WORD, Reg.CL_ENTRIES, Reg.CL_VALID, Reg.CL_SIZE256, Reg.CL_M] ++
  [Reg.CL_DELTA, Reg.CL_IN_USE, Reg.CL_LOAD, Reg.CL_BUSY, Reg.CL_DONE, Reg.CL_FAIL, Reg.CL_ADDR_LO, Reg.CL_ADDR_HI, Reg.CL_RES0, Reg.CL_RES1, Reg.CL_STREAMED, Reg.CL_FREE_KIB] ++
  [Reg.CL_FMT, Reg.CL_QBF16, Reg.CL_PASS_CYC, Reg.CL_SWAP_CYC]

/-- The fields of MRG. -/
def fldsMRG : List Fld :=
  [Reg.MRG_COLLECT_EN, Reg.MRG_FP8_EN, Reg.MRG_CREDIT_WAIT, Reg.MRG_EARLY_WAIT, Reg.MRG_BYTES, Reg.MRG_OPEN, Reg.MRG_BUSY, Reg.MRG_RESULTS, Reg.MRG_DRAIN_MAX, Reg.MRG_PARTIALS_IN, Reg.MRG_CREDITS, Reg.MRG_LATE] ++
  [Reg.MRG_MISSING, Reg.MRG_DISCARDED, Reg.MRG_REJECTED]

/-- The fields of QAD. -/
def fldsQAD : List Fld :=
  [Reg.QAD_ADMIT_EN, Reg.QAD_BATCH_EN, Reg.QAD_LEND_EN, Reg.QAD_NS, Reg.QAD_POINT, Reg.QAD_SESSION_PCT, Reg.QAD_MAX, Reg.QAD_A_ARRAY, Reg.QAD_A_STORE, Reg.QAD_BYTES_114, Reg.QAD_BYTES_118, Reg.QAD_ADMITTED] ++
  [Reg.QAD_ON_TIME, Reg.QAD_INCOMPLETE, Reg.QAD_HELD, Reg.QAD_OVER_BUDGET, Reg.QAD_REFUSED_OTHER, Reg.QAD_BATCHED, Reg.QAD_LAST_QUERIES, Reg.QAD_LAST_TILES, Reg.QAD_LAST_CAUSE, Reg.QAD_LAST_STACK, Reg.QAD_SESSION_POOL]

/-- The fields of LP. -/
def fldsLP : List Fld :=
  [Reg.LP_EN, Reg.LP_SPLIT, Reg.LP_REH, Reg.LP_TICK_ELIG, Reg.LP_RETRAIN, Reg.LP_FORCE_SWAP, Reg.LP_SWAP_LANE, Reg.LP_STATE_A, Reg.LP_STATE_B, Reg.LP_RATE64, Reg.LP_SPARE_FOR, Reg.LP_SPARE_HALF] ++
  [Reg.LP_TICK_SRC, Reg.LP_MARK_BAD, Reg.LP_NODE, Reg.LP_PORT, Reg.LP_STATE, Reg.LP_TICK, Reg.LP_SER_LIMIT, Reg.LP_UC_LIMIT, Reg.LP_ASYM, Reg.LP_DELAY, Reg.LP_CW_RX, Reg.LP_CW_CORRECTED] ++
  [Reg.LP_SYM_CORRECTED, Reg.LP_CW_UNCORR, Reg.LP_UNITS_DROPPED, Reg.LP_SWAPS, Reg.LP_RETRAINS, Reg.LP_MARKS_MISSED, Reg.LP_CTRL_BAD]

/-- The fields of FAB. -/
def fldsFAB : List Fld :=
  [Reg.FAB_EN, Reg.FAB_ACK_TWICE, Reg.FAB_HOP_LIMIT, Reg.FAB_DELAY, Reg.FAB_REORDER, Reg.FAB_RTO, Reg.FAB_LIMIT, Reg.FAB_CMP_US, Reg.FAB_OVERLAP, Reg.FAB_IN_USE, Reg.FAB_IN_RESERVE, Reg.FAB_NODE] ++
  [Reg.FAB_PORTS, Reg.FAB_TX_PKTS, Reg.FAB_RX_PKTS, Reg.FAB_RETX, Reg.FAB_PROBES, Reg.FAB_HDR_BAD, Reg.FAB_NO_CONN, Reg.FAB_DUP_PKT, Reg.FAB_OUT_OF_WINDOW, Reg.FAB_EPOCH_UNKNOWN, Reg.FAB_AUTH_FAIL, Reg.FAB_DUPLICATE] ++
  [Reg.FAB_VIOL_KEY, Reg.FAB_VIOL_GEN, Reg.FAB_OPS_FULL, Reg.FAB_NO_EXTENT, Reg.FAB_TRANSIT, Reg.FAB_HOP_EXPIRED, Reg.FAB_LATE_RECORD, Reg.FAB_NOTICES_SUPPRESSED, Reg.FAB_BROKEN]

/-- The fields of CNX. -/
def fldsCNX : List Fld :=
  [Reg.CNX_SPILL_EN, Reg.CNX_LOCK, Reg.CNX_BASE_LO, Reg.CNX_BASE_HI, Reg.CNX_ENTRIES, Reg.CNX_PART_110, Reg.CNX_BASE, Reg.CNX_COUNT, Reg.CNX_PER_CONN, Reg.CNX_TOTAL, Reg.CNX_HOT, Reg.CNX_PINNED] ++
  [Reg.CNX_INSTALLED, Reg.CNX_CONN, Reg.CNX_STATE, Reg.CNX_IS_HOT, Reg.CNX_IS_PINNED, Reg.CNX_OVERLAP, Reg.CNX_PART_134, Reg.CNX_PEER, Reg.CNX_EPOCH, Reg.CNX_OPEN_MSGS, Reg.CNX_FETCHES, Reg.CNX_EVICTIONS] ++
  [Reg.CNX_HOLD_DROPS, Reg.CNX_CTX_FAIL]

/-- The fields of SCH. -/
def fldsSCH : List Fld :=
  [Reg.SCH_EN_100, Reg.SCH_QUANTUM, Reg.SCH_LEVEL, Reg.SCH_INDEX, Reg.SCH_WEIGHT, Reg.SCH_PART_114, Reg.SCH_EN_114, Reg.SCH_SHAPE_EN, Reg.SCH_RESET_FULL, Reg.SCH_RATE, Reg.SCH_BURST, Reg.SCH_TOKENS] ++
  [Reg.SCH_W1, Reg.SCH_W2, Reg.SCH_W3, Reg.SCH_BORROW_NS, Reg.SCH_PART_134, Reg.SCH_MIN, Reg.SCH_MAX, Reg.SCH_USED, Reg.SCH_DEF_SUB, Reg.SCH_DECISIONS, Reg.SCH_STRICT, Reg.SCH_MISFILED] ++
  [Reg.SCH_SHAPED_WAIT, Reg.SCH_NEG_TOKENS]

/-- The fields of POL. -/
def fldsPOL : List Fld :=
  [Reg.POL_EN, Reg.POL_YELLOW_PCT, Reg.POL_METER, Reg.POL_CIR, Reg.POL_PIR, Reg.POL_CBS, Reg.POL_PBS, Reg.POL_M_EN, Reg.POL_GREEN_KIB, Reg.POL_YELLOW_KIB, Reg.POL_YELLOW_DROP, Reg.POL_RED_DROP] ++
  [Reg.POL_POLICED_MSGS]

/-- The fields of MIR. -/
def fldsMIR : List Fld :=
  [Reg.MIR_EN, Reg.MIR_HOME_EN, Reg.MIR_ACK_GRACE, Reg.MIR_UNDERSTUDY, Reg.MIR_SRC_A_108, Reg.MIR_SRC_A_10C, Reg.MIR_SRC_B_108, Reg.MIR_SRC_B_10C, Reg.MIR_KIB, Reg.MIR_MIB, Reg.MIR_COMMIT_WAIT, Reg.MIR_HOME_WAIT] ++
  [Reg.MIR_LOST_MS, Reg.MIR_PART, Reg.MIR_MIRROR, Reg.MIR_HBM_COPY, Reg.MIR_STREAM, Reg.MIR_UNSEEDED, Reg.MIR_TICK, Reg.MIR_FE, Reg.MIR_LEFT_MS, Reg.MIR_VALID, Reg.MIR_LEN_MS, Reg.MIR_NODE] ++
  [Reg.MIR_FENCE_MIN, Reg.MIR_PRESENTED, Reg.MIR_HOME_LOG2, Reg.MIR_HOME_COUNT, Reg.MIR_HOME_RKEY, Reg.MIR_HOME_SEL, Reg.MIR_HOME_NODE, Reg.MIR_HOME_KEY, Reg.MIR_RATE, Reg.MIR_MS, Reg.MIR_BATCHES_SENT, Reg.MIR_BATCHES_APPLIED] ++
  [Reg.MIR_BEHIND, Reg.MIR_UNAVAILABLE, Reg.MIR_COMMITS_OK, Reg.MIR_COMMITS_FAILED, Reg.MIR_RESTORES, Reg.MIR_CAS_LOST, Reg.MIR_TAKEN, Reg.MIR_DECLARED_LOST, Reg.MIR_STALE_REFUSED, Reg.MIR_LEASE_IGNORED, Reg.MIR_ORPHANED, Reg.MIR_UNCONFIRMED]

/-- The fields of PART. -/
def fldsPART : List Fld :=
  [Reg.PART_OP, Reg.PART_PART, Reg.PART_SEQ_104, Reg.PART_STATUS, Reg.PART_DETAIL, Reg.PART_SEQ_108, Reg.PART_READY, Reg.PART_LIVE_LO, Reg.PART_LIVE_HI, Reg.PART_STRUCK_LO, Reg.PART_STRUCK_HI, Reg.PART_SCRUB_RATE] ++
  [Reg.PART_REC_SEL, Reg.PART_REC0, Reg.PART_REC1, Reg.PART_REC2, Reg.PART_REC3, Reg.PART_REC4, Reg.PART_REC5, Reg.PART_REC6, Reg.PART_REC7, Reg.PART_REC8, Reg.PART_REC9, Reg.PART_REC10] ++
  [Reg.PART_REC11, Reg.PART_REC12, Reg.PART_REC13, Reg.PART_REC14, Reg.PART_REC15, Reg.PART_SUPPRESSED, Reg.PART_AUTH_DROPS, Reg.PART_NOTICES_SENT, Reg.PART_NOTICES_UNDELIVERED, Reg.PART_NOTICES_RECEIVED, Reg.PART_NOTICES_IGNORED]

/-- The fields of PCI. -/
def fldsPCI : List Fld :=
  [Reg.PCI_UP, Reg.PCI_SPEED, Reg.PCI_WIDTH, Reg.PCI_DEGRADED, Reg.PCI_VFS, Reg.PCI_BME, Reg.PCI_FN, Reg.PCI_BASE_LO, Reg.PCI_BASE_HI, Reg.PCI_CE_CNT, Reg.PCI_UE_CNT, Reg.PCI_CTO_CNT] ++
  [Reg.PCI_BAR4_REFUSED, Reg.PCI_RD_KIB, Reg.PCI_WR_KIB]

/-- The fields of QUE. -/
def fldsQUE : List Fld :=
  [Reg.QUE_OP, Reg.QUE_QUEUE_104, Reg.QUE_SEQ_104, Reg.QUE_STATUS, Reg.QUE_DETAIL, Reg.QUE_SEQ_108, Reg.QUE_READY, Reg.QUE_QUEUE_10C, Reg.QUE_EN, Reg.QUE_MAX_STARTED, Reg.QUE_PART, Reg.QUE_BASE] ++
  [Reg.QUE_COUNT, Reg.QUE_FETCHED, Reg.QUE_DB_NOP, Reg.QUE_DB_BAD, Reg.QUE_HEAD_NOP, Reg.QUE_HEAD_BAD, Reg.QUE_FOREIGN, Reg.QUE_SUPPRESSED, Reg.QUE_NOTICE_LOST, Reg.QUE_WAIT_EXPIRED, Reg.QUE_CMD_BUSY]

/-- The fields of PP. -/
def fldsPP : List Fld :=
  [Reg.PP_STATE, Reg.PP_KEY_SET, Reg.PP_STRIKES, Reg.PP_HBM_QUOTA, Reg.PP_DDR_QUOTA, Reg.PP_HOST_QUOTA, Reg.PP_ALLOT_MIB, Reg.PP_ALLOT_STACK, Reg.PP_ALLOT_BASE_LO, Reg.PP_ALLOT_BASE_HI, Reg.PP_HBM_USED, Reg.PP_DDR_USED] ++
  [Reg.PP_HOST_USED, Reg.PP_PK_KCV_LO, Reg.PP_PK_KCV_HI, Reg.PP_PK_WRAP0, Reg.PP_PK_WRAP1, Reg.PP_PK_WRAP2, Reg.PP_PK_WRAP3, Reg.PP_PK_WRAP4, Reg.PP_PK_WRAP5, Reg.PP_PK_WRAP6, Reg.PP_PK_WRAP7, Reg.PP_PK_WRAP8] ++
  [Reg.PP_PK_WRAP9, Reg.PP_ATT_NONCE0, Reg.PP_ATT_NONCE1, Reg.PP_ATT_NONCE2, Reg.PP_ATT_NONCE3, Reg.PP_ATT_NONCE4, Reg.PP_ATT_NONCE5, Reg.PP_ATT_NONCE6, Reg.PP_ATT_NONCE7, Reg.PP_ATT_ADDR_LO, Reg.PP_ATT_ADDR_HI, Reg.PP_ATT_GO] ++
  [Reg.PP_ATT_READY, Reg.PP_ATT_FAIL, Reg.PP_CERT, Reg.PP_ATT_GEN, Reg.PP_LAST_STRIKE]

/-- The fields of QCFG. -/
def fldsQCFG : List Fld :=
  [Reg.QCFG_SQ_BASE_LO, Reg.QCFG_SQ_BASE_HI, Reg.QCFG_CQ_BASE_LO, Reg.QCFG_CQ_BASE_HI, Reg.QCFG_SQ_LOG2, Reg.QCFG_CQ_LOG2, Reg.QCFG_EN, Reg.QCFG_IRQ_EN, Reg.QCFG_VECTOR, Reg.QCFG_COAL_COUNT, Reg.QCFG_COAL_NS, Reg.QCFG_STATE] ++
  [Reg.QCFG_PARTITION, Reg.QCFG_COUNT, Reg.QCFG_FAIL_COUNT, Reg.QCFG_LAST_HANDLE, Reg.QCFG_SEQ, Reg.QCFG_FETCH, Reg.QCFG_RECV_POSTED]

/-- The fields of DB. -/
def fldsDB : List Fld :=
  [Reg.DB_SQ_TAIL, Reg.DB_CQ_HEAD, Reg.DB_COUNT, Reg.DB_FAIL_COUNT]

/-- The fields of BLK. -/
def fldsBLK : List Fld :=
  [Reg.BLK_ENABLE, Reg.BLK_SOFT_RESET, Reg.BLK_FREEZE, Reg.BLK_READY, Reg.BLK_BUSY, Reg.BLK_ERROR, Reg.BLK_SPARE_IN_USE, Reg.BLK_ISR, Reg.BLK_IER, Reg.BLK_ISET, Reg.BLK_ERR_CAP0, Reg.BLK_ERR_CAP1] ++
  [Reg.BLK_ERR_CAP2, Reg.BLK_ERR_CAP3, Reg.BLK_ERR_CNT, Reg.BLK_TICK]

/-- The fields of a block. -/
def Block.flds : Block → List Fld
  | .GLB => fldsGLB
  | .TICK => fldsTICK
  | .PWR => fldsPWR
  | .THM => fldsTHM
  | .MAR => fldsMAR
  | .CAL => fldsCAL
  | .MG => fldsMG
  | .SEC => fldsSEC
  | .ATT => fldsATT
  | .MTR => fldsMTR
  | .LOG => fldsLOG
  | .HBM => fldsHBM
  | .DDR => fldsDDR
  | .CST => fldsCST
  | .PGM => fldsPGM
  | .SPL => fldsSPL
  | .KEY => fldsKEY
  | .CMP => fldsCMP
  | .XPD => fldsXPD
  | .CL => fldsCL
  | .MRG => fldsMRG
  | .QAD => fldsQAD
  | .LP => fldsLP
  | .FAB => fldsFAB
  | .CNX => fldsCNX
  | .SCH => fldsSCH
  | .POL => fldsPOL
  | .MIR => fldsMIR
  | .PART => fldsPART
  | .PCI => fldsPCI
  | .QUE => fldsQUE
  | .PP => fldsPP
  | .QCFG => fldsQCFG
  | .DB => fldsDB
  | .BLK => fldsBLK

end Sys2Proof.Machine
end

