-- ==== Sys2Proof/Machine/Work.lean ====
section
/-!
DEFINITION. Sys2Proof/Machine/Work.lean: one command at work. A meaning runs over a `Work`: the node, the registers and
memory as the command found them, and what it has written to them, newest first. `Work.close` lands those writes, in
order, in the canonical register file and memory. So the canonical forms rest on `RegFile.put`, `Mem.put` and
`Mem.clear` alone, whatever a command does.
-/

namespace Sys2Proof.Machine

/-! ## Canonical register file and memory -/

/-- The value listed for a key, if any. -/
def RegFile.find : RegFile → Nat → Option Nat
  | [], _ => none
  | (k, v) :: r, x => if k = x then some v else if x < k then none else RegFile.find r x

/-- Put a value at a key: a value equal to the reset value removes the entry. -/
def RegFile.put : RegFile → Nat → Nat → Nat → RegFile
  | [], x, v, d => if v = d then [] else [(x, v)]
  | (k, u) :: r, x, v, d =>
    if k = x then (if v = d then r else (x, v) :: r)
    else if x < k then (if v = d then (k, u) :: r else (x, v) :: (k, u) :: r)
    else (k, u) :: RegFile.put r x v d

/-- Keys strictly rise. -/
def RegFile.wf : RegFile → Bool
  | [] => true
  | [_] => true
  | (a, _) :: (b, v) :: r => a < b && RegFile.wf ((b, v) :: r)

/-- The byte at an address; an unlisted address reads zero (DESIGN CHOICE, log 2). -/
def Mem.get : Mem → Nat → Byte
  | [], _ => 0
  | (k, v) :: r, x => if k = x then v else if x < k then 0 else Mem.get r x

/-- Write one byte; writing zero removes the entry. -/
def Mem.put : Mem → Nat → Byte → Mem
  | [], x, v => if v = 0 then [] else [(x, v)]
  | (k, u) :: r, x, v =>
    if k = x then (if v = 0 then r else (x, v) :: r)
    else if x < k then (if v = 0 then (k, u) :: r else (x, v) :: (k, u) :: r)
    else (k, u) :: Mem.put r x v

/-- Write bytes from an address upward. -/
def Mem.putAll : Mem → Nat → Bytes → Mem
  | m, _, [] => m
  | m, a, b :: bs => Mem.putAll (Mem.put m a b) (a + 1) bs

/-- Zero `len` bytes from `lo`. -/
def Mem.clear (m : Mem) (lo len : Nat) : Mem :=
  m.filter fun c => c.1 < lo || lo + len ≤ c.1

/-- The canonical form: addresses strictly rising, no byte zero. -/
def Mem.wf : Mem → Bool
  | [] => true
  | [c] => c.2 != 0
  | c :: d :: r => c.1 < d.1 && c.2 != 0 && Mem.wf (d :: r)

/-! ## Address spaces of memory

Keys of `State.mem`: the 40-bit central store (R55) at 0; tier-1 space of die d at 2^64 * (1 + d); host memory, as PCIe
addresses, at 2^64 * 3; the SPI flash (R447) at 2^64 * 4. -/

/-- Key of a tier-1 address of a die. -/
def ddrKey (die addr : Nat) : Nat := 2 ^ 64 * (1 + die) + addr

/-- Key of a host memory address. -/
def hostKey (addr : Nat) : Nat := 2 ^ 64 * 3 + addr % 2 ^ 64

/-- Key of a flash offset. -/
def flashKey (off : Nat) : Nat := 2 ^ 64 * 4 + off

/-- What a reset of the node leaves of memory: the host's and the flash's bytes, which are not the node's (R444). -/
def Mem.afterReset (m : Mem) : Mem := m.filter fun c => 2 ^ 64 * 3 ≤ c.1

/-! ## The working view -/

/-- One write to memory: bytes at an address, or a range zeroed. -/
inductive MemOp where
  | put (a : Nat) (bs : Bytes)
  | clear (lo len : Nat)
  deriving DecidableEq, Repr

/-- One command at work: `rw` holds register writes (key, value, reset value) and `wr` memory writes, newest first; `wiped`
says that the node was reset (everything of the machine's own at its reset value, R444); `svn` is the fused SVN and `ppr` the list of DDR5 rows to repair (R86),
both of which a reset keeps. -/
structure Work where
  n : Node
  regs : RegFile
  rw : List (Nat × Nat × Nat)
  mem : Mem
  wr : List MemOp
  wiped : Bool
  svn : Nat
  ppr : List (Nat × Nat)
  deriving DecidableEq, Repr

/-- Begin a command. -/
def State.view (s : State) : Work :=
  { n := s.node, regs := s.regs, rw := [], mem := s.mem, wr := [], wiped := false, svn := s.svnFuse, ppr := s.pprRows }

/-- Land one memory write. -/
def Mem.apply (m : Mem) : MemOp → Mem
  | .put a bs => m.putAll a bs
  | .clear lo len => m.clear lo len

/-- End a command: its writes land in order on what it found (on what a reset leaves, if it reset the node); the fused
SVN never falls (R367). -/
def State.close (s : State) (w : Work) : State :=
  { s with
    node := w.n
    regs := w.rw.reverse.foldl (fun r e => RegFile.put r e.1 e.2.1 e.2.2) (if w.wiped then [] else s.regs)
    mem := w.wr.reverse.foldl Mem.apply (if w.wiped then s.mem.afterReset else s.mem)
    svnFuse := max s.svnFuse w.svn
    pprRows := w.ppr }

/-- Register value at a key, as the command sees it. -/
def Work.raw (w : Work) (key : Nat) (dflt : Nat) : Nat :=
  match w.rw.find? (fun e => e.1 = key) with
  | some e => e.2.1
  | none => ((w.regs.find key).getD dflt)

/-- The byte at an address, as the command sees it. -/
def MemOp.seen (a : Nat) : MemOp → Option Byte
  | .put x bs => if x ≤ a then bs[a - x]? else none
  | .clear lo len => if lo ≤ a ∧ a < lo + len then some 0 else none

/-- The byte at an address, as the command sees it. -/
def Work.byte (w : Work) (a : Nat) : Byte :=
  match w.wr.findSome? (MemOp.seen a) with
  | some b => b
  | none => w.mem.get a

/-- `len` bytes from an address. -/
def Work.bytes (w : Work) (a len : Nat) : Bytes := (List.range len).map fun i => w.byte (a + i)

/-- Store bytes. -/
def Work.store (w : Work) (a : Nat) (bs : Bytes) : Work := { w with wr := .put a bs :: w.wr }

/-- Zero a range. -/
def Work.zero (w : Work) (lo len : Nat) : Work := { w with wr := .clear lo len :: w.wr }

/-- The next free value of the node (log 3), and the view after the draw. -/
def Work.draw (w : Work) : Nat × Work := (Config.freeValue w.n.fresh, { w with n.fresh := w.n.fresh + 1 })

/-- A free choice among `count` candidates; a choice outside the range counts as the first (log 3). -/
def Work.pick (w : Work) (count : Nat) : Nat × Work :=
  let c := Config.choose w.n.fresh
  (if c < count then c else 0, { w with n.fresh := w.n.fresh + 1 })

/-- `len` fresh random bytes. -/
def Work.randomBytes (w : Work) (len : Nat) : Bytes × Work :=
  (leBytes len (Config.random w.n.fresh), { w with n.fresh := w.n.fresh + 1 })

/-- Send something out of the node. -/
def Work.emit (w : Work) (o : Out) : Work := { w with n.out := w.n.out ++ [o] }

/-- TICK_NOW (R28). -/
abbrev Work.now (w : Work) : Tick := w.n.tk.now

end Sys2Proof.Machine
end

