-- ==== Sys2Proof/Machine/Regs.lean ====
section
/-!
DEFINITION. Sys2Proof/Machine/Regs.lean: reading and writing register fields, the index selections of indexed groups,
and the BAR0 address map (R308, R488).
-/

namespace Sys2Proof.Machine

/-- The key of a field of an instance and selection: page index, selection, offset, lowest bit. -/
def Fld.key (f : Fld) (inst idx : Nat) : Nat :=
  (((f.blk.page + inst) * 2 ^ 20 + idx) * 2 ^ 12 + f.off) * 32 + f.lo

/-- The table, width code of Keystone bank `b` at boot (R131) on a part with no bad bank: each die has 33 banks, of
which 32 and 65 are held spare; the others take the tables in ascending order. -/
def bootTable (b : Nat) : Nat × Nat :=
  let r := b % 33
  if r = 32 then (0, 0) else if r < 16 then (2, 1) else if r < 17 then (3, 0) else if r < 19 then (4, 0) else (1, 0)

/-- The logical slot of physical cluster `c` on a part with no bad cluster: twelve of each die's thirteen are active in
physical order, clusters 12 and 25 are spare and read 31 (R48, R156; DESIGN CHOICE, log 5). -/
def bootSlot (c : Nat) : Nat := if c % 13 = 12 then 31 else c / 13 * 12 + c % 13

/-- The reset value of a field of an instance and selection. -/
def Fld.resetAt (f : Fld) (inst idx : Nat) : Nat :=
  match f.rule with
  | .const => f.reset
  | .lpReh => if inst < 4 ∨ (16 ≤ inst ∧ inst < 20) then 1 else 0
  | .schWeight =>
    if idx < 2 ^ 16 then 16
    else if idx < 2 ^ 17 then ([0, 0, 64, 32, 32, 16, 8, 8][idx % 8]?).getD 0
    else 0
  | .qcfgVector => 64 + inst % 1984
  | .keyTable => (bootTable idx).1
  | .keyWidth => (bootTable idx).2
  | .keySpare => if idx = 32 ∨ idx = 65 then 1 else 0
  | .clPhys => inst
  | .clSlot => bootSlot inst
  | .clSpare => if inst = 12 ∨ inst = 25 then 1 else 0
  | .xpdSpare => if idx = 23 ∨ idx = 24 then 1 else 0
  | .xpdWeight => if idx = 0 ∨ idx = 4 ∨ idx = 23 ∨ idx = 24 then 1 else 0
  | .devId => bitsOf Config.deviceId.toNat ((f.off - 0x140) * 8) 32
  | .macLo => bitsOf (Config.mac inst).toNat 0 32
  | .macHi => bitsOf (Config.mac inst).toNat 32 16

/-- The value of a field. -/
def Work.get (w : Work) (f : Fld) (inst : Nat := 0) (idx : Nat := 0) : Nat :=
  w.raw (f.key inst idx) (f.resetAt inst idx)

/-- The value of a one-bit field. -/
def Work.flag (w : Work) (f : Fld) (inst : Nat := 0) (idx : Nat := 0) : Bool := w.get f inst idx != 0

/-- Set a field, whoever may write it, cut to its width. -/
def Work.set (w : Work) (f : Fld) (v : Nat) (inst : Nat := 0) (idx : Nat := 0) : Work :=
  { w with rw := (f.key inst idx, v % 2 ^ f.width, f.resetAt inst idx) :: w.rw }

/-- Set a one-bit field. -/
def Work.setFlag (w : Work) (f : Fld) (b : Bool) (inst : Nat := 0) (idx : Nat := 0) : Work :=
  w.set f (if b then 1 else 0) inst idx

/-- Count in an RS field, which holds at all ones (R516). -/
def Work.count (w : Work) (f : Fld) (by_ : Nat := 1) (inst : Nat := 0) (idx : Nat := 0) : Work :=
  w.set f (min (w.get f inst idx + by_) (2 ^ f.width - 1)) inst idx

/-! ## Writes that act later -/

/-- Writes that act from the next boundary (R268) or tick (R209). -/
def tickFields : List Fld :=
  [Reg.TICK_MASTER, Reg.TICK_SRC_PREF, Reg.TICK_OUT_EN, Reg.TICK_IN_ADJ, Reg.TICK_OUT_ADJ, Reg.MRG_COLLECT_EN, Reg.MRG_FP8_EN,
   Reg.MRG_CREDIT_WAIT, Reg.MRG_EARLY_WAIT]

/-- Writes that act on sheets whose admission begins after them (R209, R353). -/
def sheetFields : List Fld :=
  [Reg.QAD_NS, Reg.QAD_POINT, Reg.QAD_SESSION_PCT, Reg.QAD_MAX, Reg.SCH_MIN, Reg.SCH_MAX, Reg.SCH_BORROW_NS]

/-- Writes that act on prefix operations that start after them (R156). -/
def opFields : List Fld := [Reg.KEY_PFX_EN, Reg.KEY_RECLAIM_EN, Reg.KEY_CHAIN_MAX, Reg.KEY_NORMAL, Reg.KEY_IDLE]

/-- Writes that act from the next estimate (R440); THM_CTRL and THM_STEP are read by estimates alone. -/
def estimateFields : List Fld := [Reg.PWR_SLOPE, Reg.PWR_GUARD]

/-- The value of a field that a unit sees. -/
def Work.actingFor (w : Work) (f : Fld) (unit : Nat) (inst : Nat := 0) (idx : Nat := 0) : Nat :=
  match w.n.acting.find? fun a => a.key = f.key inst idx && a.unit = unit with
  | some a => a.value
  | none => w.get f inst idx

/-- The value of a field that acts. -/
def Work.acting (w : Work) (f : Fld) (inst : Nat := 0) (idx : Nat := 0) : Nat := w.actingFor f 0 inst idx

/-- The value of a one-bit field that acts. -/
def Work.actFlag (w : Work) (f : Fld) (inst : Nat := 0) (idx : Nat := 0) : Bool := w.acting f inst idx != 0

/-- The unit of a packet sent on a connection. -/
def packetUnit (id psn : Nat) : Nat := id * 2 ^ 32 + psn + 1

/-- A unit goes on seeing a field's old value. -/
def Work.keep (w : Work) (f : Fld) (unit inst idx old : Nat) : Work :=
  if w.n.acting.any fun a => a.key = f.key inst idx && a.unit = unit then w
  else { w with n.acting := w.n.acting ++ [{ key := f.key inst idx, unit := unit, value := old }] }

/-- The last writes of some fields act now. -/
def Work.settle (w : Work) (fs : List Fld) : Work :=
  { w with n.acting := w.n.acting.filter fun a =>
      !(fs.any fun f => f.blk.page = a.key / 2 ^ 37 && f.off * 32 + f.lo = a.key % 2 ^ 17) }

/-- An entry is of a field in a list. -/
def Acting.isOf (a : Acting) (fs : List Fld) : Bool := fs.any fun f => f.blk.page = a.key / 2 ^ 37 && f.off * 32 + f.lo = a.key % 2 ^ 17

/-- The unit under which the running sheet goes on seeing the values that its admission was under (R209): a late request joins it so. -/
def runningUnit : Nat := 1

/-- A sheet freezes: the last writes act on the next one, and the values that the frozen sheet was admitted under go with it (R209, R353). -/
def Work.settleSheet (w : Work) : Work :=
  { w with n.acting := w.n.acting.filterMap fun a =>
      if !a.isOf sheetFields then some a else if a.unit = 0 then some { a with unit := runningUnit } else none }

/-- The values that the running sheet was admitted under act. -/
def Work.actRunning (w : Work) : Work :=
  { w with n.acting := w.n.acting.filterMap fun a =>
      if !a.isOf sheetFields then some a else if a.unit = runningUnit then some { a with unit := 0 } else none }

/-- A signed value as a field of `n` bits, two's complement. -/
def toField (n : Nat) (v : Int) : Nat := (v % (2 ^ n : Int)).toNat

/-- A field of `n` bits as a signed value. -/
def ofField (n v : Nat) : Int := if v < 2 ^ (n - 1) then v else (v : Int) - 2 ^ n

/-! ## Index selections -/

/-- The function whose own copy of a field is meant: 0 for the physical function, p for VF p. -/
def fnNum : Fn → Nat
  | .pf => 0
  | .vf p => p

/-- The selection that names the copy of an indexed register, for an access through a function. -/
def Work.sel (w : Work) (fn : Fn) (b : Block) (off : Nat) : Nat :=
  match b with
  | .SPL => if off = 0x154 ∨ off = 0x158 then w.get Reg.SPL_WM_PART + 64 * w.get Reg.SPL_WM_TIER else 0
  | .PGM => if off = 0x114 ∨ off = 0x118 then w.get Reg.PGM_FMT
            else if off = 0x124 ∨ off = 0x128 then w.get Reg.PGM_PART else 0
  | .KEY => if off = 0x114 ∨ off = 0x118 then w.get Reg.KEY_BANK else 0
  | .CL => if off = 0x188 then w.get Reg.CL_CB * 64 + w.get Reg.CL_WORD
           else if off = 0x18C then w.get Reg.CL_CB
           else if off = 0x1B4 then w.get Reg.CL_FMT * 2 + w.get Reg.CL_QBF16 else 0
  | .XPD => if 0x108 ≤ off ∧ off ≤ 0x130 then w.get Reg.XPD_INST else 0
  | .FAB => if off = 0x124 then w.get Reg.FAB_NODE else 0
  | .CNX => if off = 0x114 ∨ off = 0x118 then w.get Reg.CNX_PART_110
            else if off = 0x134 ∨ off = 0x138 then w.get Reg.CNX_CONN else 0
  | .QUE => if off = 0x104 ∨ off = 0x108 ∨ off = 0x10C then fnNum fn
            else if off = 0x114 then w.get Reg.QUE_PART else 0
  | .PCI => if off = 0x108 ∨ off = 0x10C then (match fn with | .pf => w.get Reg.PCI_FN | .vf p => p) else 0
  | .SCH => if 0x114 ≤ off ∧ off ≤ 0x128 then w.get Reg.SCH_LEVEL * 2 ^ 16 + w.get Reg.SCH_INDEX
            else if 0x138 ≤ off ∧ off ≤ 0x140 then w.get Reg.SCH_PART_134 else 0
  | .POL => if (0x108 ≤ off ∧ off ≤ 0x118) ∨ (0x140 ≤ off ∧ off ≤ 0x14C) then w.get Reg.POL_METER else 0
  | .MIR => if 0x124 ≤ off ∧ off ≤ 0x12C then w.get Reg.MIR_PART
            else if off = 0x144 ∨ off = 0x148 then w.get Reg.MIR_NODE
            else if off = 0x15C ∨ off = 0x160 then w.get Reg.MIR_HOME_SEL else 0
  | .PART => if 0x140 ≤ off ∧ off ≤ 0x17C then w.get Reg.PART_REC_SEL else 0
  | .ATT => if 0x140 ≤ off ∧ off ≤ 0x15C then w.get Reg.ATT_MEAS_SEL else 0
  | .PWR => if off = 0x134 then w.get Reg.PWR_DIE * 64 + w.get Reg.PWR_CNT else 0
  | .THM => if off = 0x114 then w.get Reg.THM_SENSOR else 0
  | .MAR => if off = 0x10C ∨ off = 0x110 then w.get Reg.MAR_PORT * 16 + w.get Reg.MAR_LANE
            else if off = 0x124 then w.get Reg.MAR_STACK * 64 + w.get Reg.MAR_PC
            else if off = 0x134 then w.get Reg.MAR_RAIL
            else if off = 0x144 then w.get Reg.MAR_OPT_PORT else 0
  | .MG => if off = 0x1B4 then w.get Reg.MG_PMB_SEL else if off = 0x1C4 then w.get Reg.MG_OPT_SEL else 0
  | .MTR => if off = 0x118 then w.get Reg.MTR_PSEL * 16 + w.get Reg.MTR_CNT_SEL
            else if off = 0x120 then w.get Reg.MTR_PSEL else 0
  | _ => 0

/-! ## BAR0 -/

/-- The block index table of R488: the block and instance of a page index. -/
def pageBlock (p : Nat) : Option (Block × Nat) :=
  if p = 0 then some (.GLB, 0) else if p = 1 then some (.TICK, 0) else if p = 2 then some (.PWR, 0)
  else if p = 3 then some (.THM, 0) else if p = 4 then some (.MAR, 0) else if p = 5 then some (.CAL, 0)
  else if p = 6 then some (.MG, 0) else if p = 7 then some (.MG, 1) else if p = 8 then some (.SEC, 0)
  else if p = 9 then some (.ATT, 0) else if p = 10 then some (.MTR, 0) else if p = 11 then some (.LOG, 0)
  else if 0x10 ≤ p ∧ p ≤ 0x17 then some (.HBM, p - 0x10) else if 0x18 ≤ p ∧ p ≤ 0x23 then some (.DDR, p - 0x18)
  else if p = 0x24 then some (.CST, 0) else if p = 0x25 then some (.PGM, 0) else if p = 0x26 then some (.SPL, 0)
  else if p = 0x27 then some (.KEY, 0) else if p = 0x28 then some (.CMP, 0) else if p = 0x29 then some (.XPD, 0)
  else if 0x30 ≤ p ∧ p ≤ 0x49 then some (.CL, p - 0x30) else if p = 0x4A then some (.MRG, 0)
  else if p = 0x4B then some (.QAD, 0) else if 0x50 ≤ p ∧ p ≤ 0x6F then some (.LP, p - 0x50)
  else if p = 0x70 then some (.FAB, 0) else if p = 0x71 then some (.CNX, 0) else if p = 0x72 then some (.SCH, 0)
  else if p = 0x73 then some (.POL, 0) else if p = 0x74 then some (.MIR, 0) else if p = 0x75 then some (.PART, 0)
  else if p = 0x76 then some (.PCI, 0) else if p = 0x77 then some (.QUE, 0)
  else if 0x100 ≤ p ∧ p ≤ 0x13F then some (.PP, p - 0x100) else none

/-- The type code of a block (R488). -/
def Block.type : Block → Nat
  | .GLB => 1 | .TICK => 2 | .PWR => 3 | .THM => 4 | .MAR => 5 | .CAL => 6 | .MG => 7 | .SEC => 8 | .ATT => 9
  | .MTR => 0xA | .LOG => 0xB | .HBM => 0x10 | .DDR => 0x11 | .CST => 0x12 | .PGM => 0x13 | .SPL => 0x14 | .KEY => 0x15
  | .CMP => 0x16 | .XPD => 0x17 | .CL => 0x18 | .MRG => 0x19 | .QAD => 0x1A | .LP => 0x1B | .FAB => 0x1C | .CNX => 0x1D
  | .SCH => 0x1E | .POL => 0x1F | .MIR => 0x20 | .PART => 0x21 | .PCI => 0x22 | .QUE => 0x23 | .PP => 0x30
  | .QCFG => 0 | .DB => 0 | .BLK => 0

/-- The function and MSI-X vector on which a page signals (R488). -/
def pageVector (p : Nat) : Nat × Nat :=
  if p < 12 then (0, p)
  else if 0x10 ≤ p ∧ p ≤ 0x29 then (0, p - 4)
  else if 0x30 ≤ p ∧ p ≤ 0x3C then (0, 38) else if 0x3D ≤ p ∧ p ≤ 0x49 then (0, 39)
  else if p = 0x4A then (0, 40) else if p = 0x4B then (0, 41)
  else if 0x50 ≤ p ∧ p ≤ 0x5F then (0, 42) else if 0x60 ≤ p ∧ p ≤ 0x6F then (0, 43)
  else if 0x70 ≤ p ∧ p ≤ 0x77 then (0, p - 0x70 + 44)
  else if p = 0x100 then (0, 52) else if 0x101 ≤ p ∧ p ≤ 0x13F then (p - 0x100, 0) else (0, 0)

/-- The partition whose range (QUE_RANGE) holds queue `q` (R309). -/
def Work.queuePart (w : Work) (q : Nat) : Option Nat :=
  (List.range 64).find? fun p =>
    let b := w.get Reg.QUE_BASE 0 p
    b ≤ q && q < b + w.get Reg.QUE_COUNT 0 p

/-- Where a BAR0 offset of a function lands. -/
inductive Place where
  /-- a register: block, instance, offset in the page (or queue block) -/
  | reg (b : Block) (inst off : Nat)
  /-- an MSI-X table dword, or a pending-array dword, of the function -/
  | msixTable (dword : Nat)
  | msixPba (dword : Nat)
  /-- a queue of another partition, through a VF -/
  | foreign
  /-- a page that is not mapped, or reserved space -/
  | unmapped
  | reserved
  deriving DecidableEq, Repr

/-- A function exists: the physical function, and VF p while VF Enable is set and NumVFs is at least p (R306). -/
def Work.fnExists (w : Work) (fn : Fn) : Bool :=
  match fn with
  | .pf => true
  | .vf p => decide (1 ≤ p) && decide (p ≤ w.n.bo.vfEnabled)

/-- The BAR0 map of R308, R309, R488, R496; a request through a function that does not exist reaches nothing (R306). A page that no
region of R308 holds is not mapped (R486); the registers that only the page of MGA has are reserved in that of MGB (R483). -/
def Work.locate (w : Work) (fn : Fn) (off : Nat) : Place :=
  if !w.fnExists fn then .reserved
  else if 0x400000 ≤ off ∧ off < 0x408000 then .msixTable ((off - 0x400000) / 4)
  else if 0x410000 ≤ off ∧ off < 0x410100 then .msixPba ((off - 0x410000) / 4)
  else if 0x410100 ≤ off ∧ off < 0x411000 then .reserved
  else if 0x200000 ≤ off ∧ off < 0x240000 then
    let q := (off - 0x200000) / 0x40
    match fn with
    | .pf => .reg .QCFG q (off % 0x40)
    | .vf p => if w.queuePart q = some p then .reg .QCFG q (off % 0x40) else .foreign
  else
    match fn with
    | .pf =>
      if off < 0x78000 ∨ (0x100000 ≤ off ∧ off < 0x140000) then
        match pageBlock (off / 0x1000) with
        | some (b, i) => if b = .MG ∧ i = 1 ∧ 0x180 ≤ off % 0x1000 then .reserved else .reg b i (off % 0x1000)
        | none => .unmapped
      else .unmapped
    | .vf p =>
      if off < 0x1000 then .reg .PP p off
      else if off < 0x2000 then
        if off < 0x1008 ∨ (0x1104 ≤ off ∧ off < 0x1110) then .reg .QUE 0 (off - 0x1000) else .reserved
      else if off < 0x3000 then
        if off < 0x2008 ∨ off = 0x2100 ∨ off = 0x2108 ∨ off = 0x210C then .reg .PCI 0 (off - 0x2000) else .reserved
      else .unmapped

/-- The page index of a register's block and instance: what a capture names. -/
def Block.pageOf (b : Block) (inst : Nat) : Nat :=
  match b with
  | .QCFG | .DB => 0x77
  | .BLK => inst
  | b => b.page + inst

/-- The instance that stores a field: the cluster pages' node-wide registers are stored once (R499). -/
def storeInst (b : Block) (inst off : Nat) : Nat :=
  match b with
  | .CL => if 0x180 ≤ off then 0 else inst
  | .MG => if 0x180 ≤ off then 0 else inst
  | _ => inst

/-- The fields of a register. -/
def regFields (b : Block) (off : Nat) : List Fld := b.flds.filter fun f => f.off = off

end Sys2Proof.Machine
end

