-- ==== Sys2Proof/Machine/Ops.lean ====
section
/-!
DEFINITION. Sys2Proof/Machine/Ops.lean: the operations that every block shares: interrupts (R490 to R493), the prompt
book (R410 to R412), error captures (R490, R497), the clock in picoseconds, and small list operations.
-/

namespace Sys2Proof.Machine

/-! ## Lists keyed by number -/

/-- The value at a key of an association list. -/
def lookupN {α : Type} (k : Nat) (l : List (Nat × α)) : Option α := (l.find? fun e => e.1 = k).map (·.2)

/-- Replace or add the value at a key, keys rising. -/
def insertN {α : Type} (k : Nat) (v : α) : List (Nat × α) → List (Nat × α)
  | [] => [(k, v)]
  | e :: r => if e.1 = k then (k, v) :: r else if k < e.1 then (k, v) :: e :: r else e :: insertN k v r

/-- Remove a key. -/
def eraseN {α : Type} (k : Nat) (l : List (Nat × α)) : List (Nat × α) := l.filter fun e => e.1 != k

/-- Change the value at a key, if it is there. -/
def modifyN {α : Type} (k : Nat) (f : α → α) (l : List (Nat × α)) : List (Nat × α) :=
  l.map fun e => if e.1 = k then (e.1, f e.2) else e

/-- The number at a key, 0 if absent. -/
def numN (k : Nat) (l : List (Nat × Nat)) : Nat := (lookupN k l).getD 0

/-- Add to the number at a key. -/
def bumpN (k by_ : Nat) (l : List (Nat × Nat)) : List (Nat × Nat) := insertN k (numN k l + by_) l

/-- The lowest number not among the keys, counting from `lo`. -/
def freshKey {α : Type} (lo : Nat) (l : List (Nat × α)) : Nat :=
  ((List.range (l.length + 1)).map (lo + ·)).find? (fun k => (l.find? fun e => e.1 = k).isNone) |>.getD lo

/-- Set the element at an index. -/
def setAt {α : Type} (i : Nat) (v : α) (l : List α) : List α := l.set i v

/-- The element at an index, or a default. -/
def atD {α : Type} (l : List α) (i : Nat) (d : α) : α := (l[i]?).getD d

/-! ## Time -/

/-- The period of tick `t` in 0.125 µs units (R27, R265): from the boundary of a pending switch on, the new one. -/
def Work.periodAt (w : Work) (t : Tick) : Nat :=
  if w.n.tk.pending && (w.n.tk.switchAt = t || Tick.earlier w.n.tk.switchAt t) then w.n.tk.nextPeriod else w.get Reg.TICK_PERIOD

/-- The period of the running tick in ps. -/
def Work.periodPs (w : Work) : Nat := w.periodAt w.n.tk.now * 125000

/-- The period of the running tick in ns. -/
def Work.periodNs (w : Work) : Nat := w.periodAt w.n.tk.now * 125

/-- Time since reset in ps at the start of the running tick. -/
abbrev Work.ps (w : Work) : Nat := w.n.tk.upPs

/-- Length of the running tick in ps: its period, less what is slewed (R31). -/
def Work.tickPs (w : Work) : Nat := (((w.periodPs : Int) * 2 - w.n.tk.slew * 125) / 2).toNat

/-- The low 32 bits of TICK_NOW. -/
def Work.now32 (w : Work) : Nat := w.now.toNat % 2 ^ 32

/-- Age in ticks of a 32-bit tick stamp (R61): at most 2^31. -/
def Work.age (w : Work) (stamp : Word) : Nat :=
  let a := (w.now32 + 2 ^ 32 - stamp.toNat) % 2 ^ 32
  min a (2 ^ 31)

/-- Ticks from `a` forward to `b` (mod 2^48). -/
def ticksTo (a b : Tick) : Nat := (b - a).toNat

/-- Tick `t` has been reached: it is TICK_NOW or earlier (R28). -/
def Work.reached (w : Work) (t : Tick) : Bool := t = w.now || Tick.earlier t w.now

/-! ## Interrupts -/

/-- Dword `i` of a function's MSI-X table: the vector control of a new entry reads 1, masked (PRESUMED, log 6). -/
def Work.msixDword (w : Work) (fn i : Nat) : Nat :=
  match lookupN fn w.n.hq.msix with
  | some m => (lookupN i m.table).getD (if i % 4 = 3 then 1 else 0)
  | none => if i % 4 = 3 then 1 else 0

/-- The MSI-X entry of a function is masked. -/
def Work.msixMasked (w : Work) (fn vec : Nat) : Bool := w.msixDword fn (vec * 4 + 3) % 2 = 1

/-- The MSI-X state of a function. -/
def Work.msixOf (w : Work) (fn : Nat) : Msix := (lookupN fn w.n.hq.msix).getD { table := [], pending := [] }

/-- Send an MSI-X message, or set its pending bit while the entry is masked (R492); it waits while Bus Master Enable is 0
(R333). -/
def Work.msixSend (w : Work) (fn vec : Nat) : Work :=
  if w.msixMasked fn vec then
    let m := w.msixOf fn
    let p := if vec ∈ m.pending then m.pending else vec :: m.pending
    { w with n.hq.msix := insertN fn { m with pending := p } w.n.hq.msix }
  else if w.n.bo.busMaster then w.emit (.msix fn vec)
  else { w with n.hq.heldOut := w.n.hq.heldOut ++ [.msix fn vec] }

/-- Signal a block vector (R492): a gain within GLB_INT_HOLDOFF of the vector's last message waits to be merged. -/
def Work.signal (w : Work) (fn vec : Nat) : Work :=
  match w.n.holdoffs.find? (fun h => h.fn = fn ∧ h.vec = vec) with
  | some _ => { w with n.holdoffs := w.n.holdoffs.map fun h =>
      if h.fn = fn ∧ h.vec = vec then { h with waiting := true } else h }
  | none =>
    let w := w.msixSend fn vec
    if w.get Reg.GLB_HOLDOFF_NS = 0 then w
    else { w with n.holdoffs := w.n.holdoffs ++ [{ fn := fn, vec := vec, last := w.ps, waiting := false }] }

/-- Set a bit of a page's BLK_ISR (R491, R493): only a bit that was clear is a gain; an enabled gain signals (R492). -/
def Work.isr (w : Work) (page bit : Nat) : Work :=
  let v := w.get Reg.BLK_ISR page
  if bitOf v bit then w
  else
    let w := w.set Reg.BLK_ISR (v + 2 ^ bit) page
    let w := w.set Reg.BLK_TICK w.now32 page
    if bitOf (w.get Reg.BLK_IER page) bit then
      let pv := pageVector page
      w.signal pv.1 pv.2
    else w

/-- BLK_STAT.READY of a page changes (STATE gains, R491). -/
def Work.setReady (w : Work) (page : Nat) (b : Bool) : Work :=
  if w.flag Reg.BLK_READY page = b then w else (w.setFlag Reg.BLK_READY b page).isr page 3

/-- BLK_CTRL.ENABLE of a page changes (STATE gains, R491). -/
def Work.setEnable (w : Work) (page : Nat) (b : Bool) : Work :=
  if w.flag Reg.BLK_ENABLE page = b then w else (w.setFlag Reg.BLK_ENABLE b page).isr page 3

/-- BLK_STAT.SPARE_IN_USE of a page changes (SPARE gains, R491). -/
def Work.setSpareInUse (w : Work) (page : Nat) (b : Bool) : Work :=
  if w.flag Reg.BLK_SPARE_IN_USE page = b then w else (w.setFlag Reg.BLK_SPARE_IN_USE b page).isr page 2

/-! ## The prompt book -/

/-- Severity of an event code (R497's table; an unnamed code is an error, R498). -/
def severity (code : Nat) : Nat :=
  if code ∈ [0x4101, 0x4401, 0x4402, 0x4607, 0x4904, 0x4A02, 0x4B04, 0x4C02, 0x4C06, 0x4E02, 0x4E05, 0x4F01, 0x4F02,
    0x4F04, 0x5000, 0x5001, 0x5002] then 0
  else if code ∈ [0x4001, 0x4002, 0x4003, 0x4103, 0x4104, 0x4105, 0x4107, 0x4108, 0x4109, 0x4201, 0x4202, 0x4203, 0x4204,
    0x4301, 0x4303, 0x4305, 0x4306, 0x4403, 0x4502, 0x4503, 0x4601, 0x4602, 0x4703, 0x4704, 0x4802, 0x4901, 0x4A05,
    0x4B02, 0x4B03, 0x4C01, 0x4C03, 0x4C04, 0x4C05, 0x4D01, 0x4E04, 0x4E06, 0x4E07, 0x4F03] then 1
  else if code ∈ [0x4008, 0x400B, 0x400C] then 3
  else 2

/-- Codes whose identifier is an address; CAP2 holds it in 256 B units (R490). -/
def addressCode (code : Nat) : Bool :=
  code ∈ [0x4004, 0x4005, 0x4006, 0x4007, 0x4008, 0x4102, 0x4306, 0x4501, 0x4502, 0x4505, 0x4E06]

/-- One event of the code table: code, reporting page (0x80 + p for partition page p, 0xFF for firmware), partition,
completion status, ARG1 or CAP2, and detail. -/
structure Ev where
  code : Nat
  page : Nat
  part : Option Nat := none
  status : Nat := 0
  arg : Nat := 0
  detail : Nat := 0
  deriving DecidableEq, Repr

/-- First byte of the prompt-book ring: the 64 MiB after the 4,640 MiB of the other parts in stack 0's system area (R58;
DESIGN CHOICE, log 7). -/
def ringBase : Nat := 0x13F2000000

/-- First byte of the usage statements, in stack 0's firmware data part (R480; DESIGN CHOICE, log 7). -/
def statementBase : Nat := 0x13F6000000

/-- The 32 bytes of a prompt-book entry (R410). -/
def logBytes (e : Ev) (tick : Tick) (seq : Nat) : Bytes :=
  leBytes 1 (e.code / 256) ++ leBytes 1 (severity e.code + (if e.part.isSome then 4 else 0)) ++ leBytes 1 e.page ++
  leBytes 1 ((e.part.getD 0) % 64) ++ leBytes 2 (e.code % 256) ++ leBytes 1 e.status ++ [0] ++ leBytes 8 tick.toNat ++
  leBytes 4 seq ++ leBytes 4 e.detail ++ leBytes 8 e.arg

/-- Append 32 bytes to the prompt book: SRAM, ring and registers (R410). -/
def Work.logRaw (w : Work) (bs : Bytes) : Work :=
  let seq := w.n.logSeq
  let w := { w with n.log := (({ seq := seq, bytes := bs } : LogEntry) :: w.n.log).take 4096, n.logSeq := seq + 1 }
  let w := w.set Reg.LOG_NEWEST seq
  let w := w.set Reg.LOG_OLDEST_SRAM (seq + 1 - 4096)
  let w := w.set Reg.LOG_OLDEST_RING (seq + 1 - 2097152)
  let i := seq % 2097152
  let w := if w.flag Reg.HBM_IN_SERVICE 0 then w.store (ringBase + i * 32) bs else w
  let w := w.set Reg.LOG_RING_NEXT ((i + 1) % 2097152)
  let w := w.count Reg.LOG_WRITTEN
  if i + 1 = 2097152 then w.count Reg.LOG_RING_WRAPS else w

/-- Log an event (R410, R412): its page as the entry names it. -/
def Work.log (w : Work) (e : Ev) : Work :=
  let w := w.logRaw (logBytes e w.now (w.n.logSeq % 2 ^ 32))
  if w.get Reg.LOG_IRQ_SEV ≤ severity e.code then w.isr 0x0B 16 else w

/-- An error of a block (R490, R497): the first that finds the capture armed fills it; others set ERR_LOST and are logged
only when their class is ERROR or SPARE or their code 0x4305 to 0x4307. `page` is the block page's index; a partition
page is logged as 0x80 + p. -/
def Work.capture (w : Work) (e : Ev) : Work :=
  let w := w.count Reg.BLK_ERR_CNT 1 e.page
  let entry := { e with page := if 0x100 ≤ e.page then e.page - 0x80 else e.page }
  if bitOf (w.get Reg.BLK_ISR e.page) 0 then
    let w := w.isr e.page 1
    if e.code / 256 = 0x40 ∨ e.code / 256 = 0x41 ∨ (0x4305 ≤ e.code ∧ e.code ≤ 0x4307) then w.log entry else w
  else
    let cap0 := e.code + e.status % 256 * 2 ^ 16 +
      (match e.part with | some p => p % 64 * 2 ^ 24 + 2 ^ 30 | none => 0)
    let w := w.set Reg.BLK_ERR_CAP0 cap0 e.page
    let w := w.set Reg.BLK_ERR_CAP1 w.now32 e.page
    let w := w.set Reg.BLK_ERR_CAP2 (if addressCode e.code then e.arg / 256 else e.arg) e.page
    let w := w.set Reg.BLK_ERR_CAP3 e.detail e.page
    let w := w.set Reg.BLK_ERROR 1 e.page
    (w.isr e.page 0).log entry

/-- Report an event: an error (severity 2 or 3, or a refused write, a refused BAR4 access, a swap dropped, a bound held
or a frame retired) is captured; anything else, and an error of which its own rule says that it is logged (R114, R405, R407,
R430, R508), is logged alone (DEDUCED, log 8). -/
def Work.report (w : Work) (e : Ev) : Work :=
  if e.page < 0x140 ∧ e.code ∉ [0x4304, 0x4702, 0x4A01, 0x4A03, 0x4D02] ∧ (2 ≤ severity e.code ∨
      e.code ∈ [0x4001, 0x4002, 0x4003, 0x4104, 0x4305, 0x4306, 0x4E06]) then w.capture e
  else w.log { e with page := if 0x100 ≤ e.page ∧ e.page < 0x140 then e.page - 0x80 else e.page }

/-! ## The central-store address map (R55 to R58) -/

/-- Bytes of one HBM stack, frames of its slot area (R56, R57). -/
def stackBytes : Nat := 0x1400000000
def slotFrames : Nat := 19726336

/-- The central-store address of node frame `f` (R57). -/
def frameAddr (f : Nat) : Nat := f / slotFrames * stackBytes + f % slotFrames * 4096

/-- The node frame of an HBM address, if it lies in a slot area (R57). -/
def addrFrame (a : Nat) : Option Nat :=
  let s := a / stackBytes
  let o := a % stackBytes
  if s < 8 ∧ o / 4096 < slotFrames then some (s * slotFrames + o / 4096) else none

/-- The address lies in the HBM range (R55). -/
def inHbm (a : Nat) : Bool := a < 8 * stackBytes

/-- The address is reserved (R55). -/
def reservedAddr (a : Nat) : Bool :=
  (0xA000000000 ≤ a && a < 0xF000000000) || (0xF00D000000 ≤ a && a < 0xF100000000) || 0xF108000000 ≤ a

/-- MiB that each of the first seven parts of the system area takes in every stack, in the order of R58's table: page tables, handle
maps, course records and free lists; session records; Keystone; sheet buffers; receive buffers; bulk buffers; streamed weights. -/
def sysParts : List Nat := [512, 32, 256, 512, 1024, 2048, 256]

/-- First byte of part `i`, one of those seven, within a stack's system area; the parts follow one another in the order of R58's
table (DESIGN CHOICE, log 7). -/
def sysPartBase (i : Nat) : Nat := slotFrames * 4096 + (sysParts.take i).foldl (· + ·) 0 * 2 ^ 20

/-- The part of the system area in which an HBM address lies, by its place in R58's table, 0 first: the prompt-book ring is 7 and lies in
stack 0, firmware data is 8 (R58). -/
def sysPartOf (a : Nat) : Option Nat :=
  let o := a % stackBytes
  if !inHbm a || decide (o < slotFrames * 4096) then none
  else match (List.range 7).find? fun i => decide (o < sysPartBase (i + 1)) with
    | some i => some i
    | none => if a / stackBytes = 0 ∧ o < sysPartBase 7 + 64 * 2 ^ 20 then some 7 else some 8

/-- The offset of an address in one of the seven parts that are spread evenly over the stacks: stack 0 holds a part's first eighth
(DESIGN CHOICE, log 7). -/
def sysOffset (i a : Nat) : Nat :=
  a / stackBytes * (atD sysParts i 0 * 2 ^ 20) + (a % stackBytes - sysPartBase i)

/-- The address of an offset in one of those parts. -/
def sysAddr (i o : Nat) : Nat :=
  let share := atD sysParts i 0 * 2 ^ 20
  o / share * stackBytes + sysPartBase i + o % share

/-- A span names a reserved address (R55). -/
def spanReserved (a len : Nat) : Bool := len != 0 && (reservedAddr a || reservedAddr (a + len - 1))

/-- An access by a block that names a reserved address is captured in CST_BLK_ERR_CAP0 (R55, event 0x4004); its refusal with INTERNAL is the
caller's. -/
def Work.nameSpan (w : Work) (page a len : Nat) : Work :=
  if spanReserved a len then w.capture { code := 0x4004, page := 0x24, status := 0x7F, arg := a, detail := page } else w

/-! ## Measurements and node state -/

/-- The partition states of R357 as PART STATE reads them. -/
def Work.partState (w : Work) (p : Nat) : Nat := if p = 0 then 1 else w.get Reg.PP_STATE p

/-- The node state (R456): 0 Dark, 1 Rehearsal, 2 Full, 3 Capped. -/
def Work.nodeState (w : Work) : Nat := w.get Reg.GLB_NODE_STATE

/-- Set the node state (NODE_STATE gains on a change, R491). -/
def Work.setNodeState (w : Work) (v : Nat) : Work :=
  if w.nodeState = v then w
  else
    let w := (w.set Reg.GLB_NODE_STATE v).isr 0 16
    if v = 2 ∨ v = 3 then w.set Reg.GLB_EVER_FULL 1 else w

/-- The node is in Full or Capped. -/
def Work.isFull (w : Work) : Bool := w.nodeState = 2 || w.nodeState = 3

/-- The promotion boundary has been named and reached (R462). -/
def Work.pastPromotion (w : Work) : Bool := (w.n.bo.promoteAt.map w.reached).getD false

/-- Fabric ticks of a sheet: a rehearsal tick is at least 4 µs (R458), up to the promotion boundary (R462). -/
def Work.repTicks (w : Work) : Nat :=
  if w.nodeState = 1 && !w.pastPromotion then max 1 (ceilDiv 4000000 w.periodPs) else 1

/-- The last rehearsal tick before the promotion boundary: its queries join a sheet of full service (R462). -/
def Work.lastReh (w : Work) : Bool :=
  w.nodeState = 1 && (match w.n.bo.promoteAt with
    | some p => decide (ticksTo w.now p ≤ w.repTicks)
    | none => false)

/-- The period, in ns, of the tick in which the sheet being built runs (R27). -/
def Work.nextPeriodNs (w : Work) : Nat := w.periodAt w.n.qa.next.tick * 125

/-- Fabric ticks of the sheet being built (R458, R462). -/
def Work.nextTicks (w : Work) : Nat :=
  if w.lastReh || w.nodeState != 1 || w.pastPromotion then 1 else max 1 (ceilDiv 4000 w.nextPeriodNs)

/-- Length in ns of the running sheet, of the sheet being built, and of what has passed of the running one at the start of the
running tick. -/
def Work.sheetNs (w : Work) : Nat := w.periodNs * w.repTicks
def Work.nextSheetNs (w : Work) : Nat := w.nextPeriodNs * w.nextTicks
def Work.sheetOffNs (w : Work) : Nat := w.now.toNat % w.repTicks * w.periodNs

/-- The node is Dark. -/
def Work.isDark (w : Work) : Bool := w.nodeState = 0

/-! ## Running a command -/

/-- The node answers (R431, R442, R456, R508): powered, its clocks running, TEST_MODE sampled low. -/
def State.alive (s : State) : Bool :=
  s.node.bo.on && !s.node.bo.stopped && !(s.view.flag Reg.GLB_TEST_MODE)

/-- Run a meaning on a node that answers; a node that does not answer leaves the command without effect. -/
def run (s : State) (f : Work → Work) : Host.Outcome State Fault Refusal :=
  if s.alive then .next (s.close (f s.view)) else .next s

/-- Run a meaning whatever the power state (PWRGOOD, THERMTRIP_N). -/
def runAlways (s : State) (f : Work → Work) : Host.Outcome State Fault Refusal := .next (s.close (f s.view))

end Sys2Proof.Machine
end

