-- ==== Sys2Proof/Machine/Changes.lean ====
section
/-!
DEFINITION. Sys2Proof/Machine/Changes.lean: the changes that travel in a mirror stream (R377 to R380): metadata records and
row runs, and the open batch of a partition's stream.
-/

namespace Sys2Proof.Machine

/-- Round up to a multiple. -/
def alignUp (a m : Nat) : Nat := (a + m - 1) / m * m

/-- Partition `p` is mirrored (R374). -/
def Work.mirrored (w : Work) (p : Nat) : Bool := w.flag Reg.MIR_MIRROR 0 p && w.get Reg.MIR_UNDERSTUDY != 0xFFFF

/-- The stream of a partition. -/
def Work.streamOf (w : Work) (p : Nat) : Option Stream := w.n.mi.streams.find? fun s => s.part = p

/-- Replace a partition's stream. -/
def Work.setStream (w : Work) (s : Stream) : Work :=
  { w with n.mi.streams := w.n.mi.streams.map fun t => if t.part = s.part then s else t }

/-- Add a change to the open batch of a partition's stream (R377); a stream that is Off or Unavailable keeps none. -/
def Work.change (w : Work) (p : Nat) (c : Change) : Work :=
  match w.streamOf p with
  | some s =>
    if s.state = .off ∨ s.state = .unavailable then w else w.setStream { s with open_ := s.open_ ++ [c] }
  | none => w

/-- Zero padding to a multiple of `n`. -/
def padTo (n : Nat) (b : Bytes) : Bytes := b ++ List.replicate ((n - b.length % n) % n) 0

/-- A metadata record (R379): type, reserved byte, length, body; padded to a multiple of 16. -/
def metaRec (type : Nat) (body : Bytes) : Bytes :=
  let len := alignUp (4 + body.length) 16
  padTo 16 (leBytes 1 type ++ [0] ++ leBytes 2 len ++ body)

/-- A SESSION record (R379): STATE 1 Open, 2 Closed, 3 Lost. -/
def sessionRec (s : Session) (state : Nat) : Bytes :=
  metaRec 1 (leBytes 1 state ++ leBytes 1 s.fmt ++ leBytes 1 s.layers.length ++ [0] ++ leBytes 8 s.cid.toNat ++
    leBytes 8 s.parentCid.toNat ++ leBytes 4 s.forkPos ++ leBytes 4 s.ownEpoch ++ leBytes 4 s.openTick.toNat ++
    List.replicate 12 0)

/-- A COURSE record: ACTION 1 allocated, 2 freed. -/
def courseRec (ci k action layer : Nat) (shared : Bool) : Bytes :=
  metaRec 2 (leBytes 4 ci ++ leBytes 1 k ++ leBytes 1 action ++ leBytes 1 layer ++ leBytes 1 (if shared then 1 else 0) ++
    leBytes 4 0)

/-- A PAGE record. -/
def pageRec (ci pi : Nat) (p : Page) : Bytes :=
  metaRec 3 (leBytes 4 ci ++ leBytes 1 pi ++ leBytes 1 p.layer ++ leBytes 1 p.flags ++ [0] ++ leBytes 4 p.firstPos ++
    leBytes 8 p.cid.toNat ++ leBytes 8 p.blockId.toNat)

/-- A RUN record. -/
def runRec (layer : Nat) (r : Run) (cid : DWord) : Bytes :=
  metaRec 4 (leBytes 1 layer ++ leBytes 1 r.first ++ leBytes 2 r.count ++ leBytes 8 cid.toNat ++ leBytes 4 r.course ++
    List.replicate 12 0)

/-- A row-run entry of a KIND 1 block (R380). -/
def rowRun (ci pi row fmt firstPos rowBytes : Nat) (rows : List Bytes) : Bytes :=
  padTo 16 (leBytes 4 ci ++ leBytes 1 pi ++ leBytes 1 row ++ leBytes 1 rows.length ++ leBytes 1 fmt ++ leBytes 4 firstPos ++
    leBytes 2 rowBytes ++ leBytes 2 0 ++ rows.flatten)

/-- Record a metadata change. -/
def Work.metaChange (w : Work) (p : Nat) (b : Bytes) : Work := w.change p { meta_ := b, run := none }

/-- Record every run of layer `li` that pages added after `old` made new or longer (R379). -/
def Work.noteRuns (w : Work) (p li : Nat) (old runs : List Run) (cid : DWord) : Work :=
  (runs.drop (old.length - 1)).foldl (fun w r => if r ∈ old then w else w.metaChange p (runRec li r cid)) w

end Sys2Proof.Machine
end

