-- ==== Sys2Proof/Machine/RegRules.lean ====
section
/-!
DEFINITION. Sys2Proof/Machine/RegRules.lean: what each block's chapter adds to the shared register write and read: the
locks (R487), the writes its rules forbid (R516), and the read-only fields that mirror structured state.
-/

namespace Sys2Proof.Machine

/-- A row format (R88). -/
structure RowFmt where
  c : Nat
  w8 : Bool
  g : Nat
  o : Nat
  p : Nat
  form : Nat
  cb : Nat
  zero : Nat
  deriving DecidableEq, Repr

/-- Bytes of the position part (R89). -/
def posBytes (form p : Nat) : Nat :=
  if form = 1 then ceilDiv (3 * p) 8 + 2 else if form = 2 then ceilDiv p 2 + 2 else if form = 3 then 2 * p else 0

/-- Bytes of the code part. -/
def RowFmt.codeBytes (f : RowFmt) : Nat := if f.w8 then f.c else f.c / 2

/-- ROW_BYTES (R90). -/
def RowFmt.rowBytes (f : RowFmt) : Nat := f.codeBytes + 2 * (f.c / f.g) + 4 * f.o + posBytes f.form f.p

/-- Row format `i` as its registers give it. -/
def Work.rowFmt (w : Work) (i : Nat) : RowFmt where
  c := w.get Reg.PGM_LATENT 0 i
  w8 := w.flag Reg.PGM_CODE8 0 i
  g := 32 * 2 ^ w.get Reg.PGM_GROUP 0 i
  o := w.get Reg.PGM_OUTLIERS 0 i
  p := w.get Reg.PGM_POS_CH 0 i
  form := w.get Reg.PGM_POS_FORM 0 i
  cb := w.get Reg.PGM_CODEBOOK 0 i
  zero := w.get Reg.PGM_ZERO_CODE 0 i

/-- ACLK in tenths of GHz: 24, or 12 in Rehearsal (R177, R460). -/
def Work.aclk (w : Work) : Nat := if w.nodeState = 1 then 12 else 24

/-- N_cyc (R177): ⌊(T − 290 ns) × f_ACLK × 0.97⌋. -/
def Work.nCyc (w : Work) : Nat := (w.sheetNs - 290) * w.aclk * w.get Reg.CL_DERATE / 1000

/-- N_cyc of the sheet being built (R462: the sheet of the promotion boundary is budgeted at full clock). -/
def Work.nCycNext (w : Work) : Nat :=
  (w.nextSheetNs - 290) * (if w.lastReh then 24 else w.aclk) * w.get Reg.CL_DERATE / 1000

/-- Cycles of a pass (R176, R178) for a value of PV_BF16. -/
def RowFmt.passCycles (f : RowFmt) (pvBf16 qbf16 : Bool) (exp : Option WLayer) : Nat :=
  let pa := if f.form = 1 ∨ f.form = 2 then f.p else 0
  let half := fun n => if qbf16 then n else ceilDiv n 2
  let tA := match exp with
    | some l => 2 * l.d + half pa
    | none => (if f.w8 then (if qbf16 then 2 * f.c else f.c) else half f.c) + half pa
  let rv2 := (if f.w8 then 2 else 4) / (if pvBf16 then 2 else 1)
  let tB := ceilDiv f.c 128 * 128 * 2 / rv2
  let tO := 8 * f.o + (if f.form = 3 then 4 * f.p else 0)
  max (max tA tB) (max 128 tO) + 16

/-- Cycles of a pass under the PV_BF16 that the next freeze will find (R181). -/
def Work.passCycles (w : Work) (f : RowFmt) (qbf16 : Bool) (exp : Option WLayer) : Nat :=
  f.passCycles (w.flag Reg.CL_PV_BF16) qbf16 exp

/-- Cycles of a state swap (R172). -/
def RowFmt.swapCycles (f : RowFmt) : Nat := if 512 < f.c then f.c / 4 else 0

/-- Entry `k` of a codebook: an E4M3 code (R163). -/
def Work.cbEntry (w : Work) (cb k : Nat) : Nat := bitsOf (w.get Reg.CL_ENTRIES 0 (cb * 64 + k / 4)) (k % 4 * 8) 8

/-- E4M3 codes in order of value: negative magnitudes fall. -/
def e4m3Key (c : Nat) : Int := if c < 128 then c else -((c : Int) - 128)

/-- A codebook of `n` entries may be made usable (R163): no NaN, strictly ascending, with a zero. -/
def Work.codebookOk (w : Work) (cb n : Nat) : Bool :=
  let es := (List.range n).map (w.cbEntry cb)
  es.all (fun e => e % 128 != 127) && es.any (fun e => e % 128 = 0) &&
    (List.range (n - 1)).all fun i => e4m3Key (atD es i 0) < e4m3Key (atD es (i + 1) 0)

/-- The lock bit that governs a block's RWL fields (R487). -/
def Work.locked (w : Work) (b : Block) : Bool :=
  match b with
  | .GLB => w.flag Reg.GLB_LOCK
  | .SPL => w.flag Reg.SPL_LOCK
  | .CNX => w.flag Reg.CNX_LOCK
  | .PWR => w.flag Reg.PWR_LOCK
  | _ => false

/-- A write as the rules of a block see it: the fields it writes and the value each would hold. -/
def wouldBe (fs : List Fld) (new : Fld → Nat) (old : Fld → Nat) (f : Fld) : Nat := if f ∈ fs then new f else old f

/-- A session that is not Free uses a row format (PGM_FMT_B.IN_USE). -/
def Work.fmtInUse (w : Work) (i : Nat) : Bool := w.n.pg.sessions.any fun e => e.2.fmt = i

/-- A format in use names a codebook (CL_CB_CTRL.IN_USE). -/
def Work.cbInUse (w : Work) (cb : Nat) : Bool :=
  (List.range 64).any fun i => w.flag Reg.PGM_VALID 0 i && w.get Reg.PGM_CODEBOOK 0 i = cb && w.fmtInUse i

/-- Rows in staging, of one partition or of the node. -/
def Work.stagedRows (w : Work) (part : Option Nat) : Nat :=
  (w.n.pg.staged.filter fun g => match part with | some p => decide (g.part = p) | none => true).foldl (fun n g => n + g.count) 0

/-- DDR5 channels of a die that are in its stripe, ascending (R65). -/
def Work.stripeChannels (w : Work) (die : Nat) : List Nat :=
  ((List.range 6).map (6 * die + ·)).filter fun c => w.flag Reg.DDR_IN_STRIPE c

/-- Usable bytes of one channel: those of the smallest channel in service (R67). -/
def Work.channelBytes (w : Work) : Nat :=
  let caps := ((List.range 12).filter fun c => w.flag Reg.DDR_IN_STRIPE c).map fun c =>
    w.get Reg.DDR_MODULES c * w.get Reg.DDR_MOD_GIB c * 2 ^ 30
  caps.foldl min (caps.headD 0)

/-- The quotas that a partition would hold beside those of every other partition that is not Free fit the tiers (R355). -/
def Work.quotasFit (w : Work) (p hbm ddr host : Nat) : Bool :=
  let others := (List.range 64).filter fun q => q != p && w.partState q != 0
  let sum := fun (f : Fld) own => others.foldl (fun n q => n + w.get f q) own
  let tier1 := ((w.stripeChannels 0).length + (w.stripeChannels 1).length) * w.channelBytes
  decide (sum Reg.PP_HBM_QUOTA hbm * 4096 + w.get Reg.CST_RESERVE ≤ w.get Reg.CST_FRAMES) &&
    decide (sum Reg.PP_DDR_QUOTA ddr * 2 ^ 24 ≤ tier1) && decide (sum Reg.PP_HOST_QUOTA host * 2 ^ 24 ≤ w.get Reg.SPL_SIZE_GIB * 2 ^ 30)

/-- A range of IDs of a partition would overlap that of another (R304, R334). -/
def Work.rangeClash (w : Work) (p base count : Nat) (fb fc : Fld) : Bool :=
  count != 0 && (List.range 64).any fun q => q != p && w.get fc 0 q != 0 &&
    decide (base < w.get fb 0 q + w.get fc 0 q) && decide (w.get fb 0 q < base + count)

/-- Queue `q` is Disabled. -/
def Work.queueIdle (w : Work) (q : Nat) : Bool :=
  match lookupN q w.n.hq.queues with
  | some x => x.state = .disabled
  | none => true

/-- Why a block's own rules refuse a write (R516): code 0x4001 or 0x4003; none when they do not. -/
def Work.forbidden (w : Work) (fn : Fn) (b : Block) (inst idx off : Nat) (fs : List Fld) (new : Fld → Nat) :
    Option Nat :=
  let v := wouldBe fs new fun f => w.get f inst idx
  let changes := fun f : Fld => decide (f ∈ fs) && new f != w.get f inst idx
  let range := fun bad : Bool => if bad then some 0x4001 else none
  let state := fun bad : Bool => if bad then some 0x4003 else none
  match b with
  | .GLB =>
    if off = 0x10C then range (Reg.GLB_NODE_ID ∈ fs && new Reg.GLB_NODE_ID = 0xFFFF)
    else if off = 0x114 then
      range (Reg.GLB_WARM ∈ fs && new Reg.GLB_WARM = 1 && !(Reg.GLB_CONFIRM ∈ fs && new Reg.GLB_CONFIRM = 0xB007))
    else none
  | .SPL => if off = 0x154 then range (v Reg.SPL_TARGET < v Reg.SPL_LOW) else none
  | .QAD => if off = 0x108 then range (Reg.QAD_POINT ∈ fs && (v Reg.QAD_POINT < 100 || w.periodNs - 100 < v Reg.QAD_POINT)) else none
  | .SCH =>
    if off = 0x110 then range ((if v Reg.SCH_LEVEL = 0 then 4095 else if v Reg.SCH_LEVEL = 1 then 32767 else 63) < v Reg.SCH_INDEX)
    else if off = 0x114 then state (decide (idx < 2 ^ 16) && changes Reg.SCH_PART_114 && w.n.tp.conns.any fun c => c.2.subscriber = idx)
    else if off = 0x130 then
      range (Reg.SCH_BORROW_NS ∈ fs && (v Reg.SCH_BORROW_NS < 100 || w.periodNs - 100 < v Reg.SCH_BORROW_NS))
    else if off = 0x138 then
      let others := ((List.range 64).filter (· != idx)).foldl (fun n q => n + w.get Reg.SCH_MIN 0 q) 0
      range (v Reg.SCH_MAX < v Reg.SCH_MIN || 1024 < others + v Reg.SCH_MIN)
    else none
  | .POL => if off = 0x108 ∨ off = 0x10C then range (v Reg.POL_PIR < v Reg.POL_CIR) else none
  | .QCFG =>
    if !w.queueIdle inst ∧ off ≠ 0x14 ∧ off ≠ 0x18 then some 0x4003
    else if off = 0x10 then range (v Reg.QCFG_CQ_LOG2 < v Reg.QCFG_SQ_LOG2) else none
  | .QUE =>
    if off = 0x104 then range (new Reg.QUE_OP < 1 || 3 < new Reg.QUE_OP)
    else if off = 0x114 then
      let old := (List.range (w.get Reg.QUE_COUNT 0 idx)).map (w.get Reg.QUE_BASE 0 idx + ·)
      if (changes Reg.QUE_BASE || changes Reg.QUE_COUNT) && old.any fun q => !w.queueIdle q then some 0x4003
      else range (4096 < v Reg.QUE_BASE + v Reg.QUE_COUNT || w.rangeClash idx (v Reg.QUE_BASE) (v Reg.QUE_COUNT) Reg.QUE_BASE Reg.QUE_COUNT)
    else none
  | .CNX =>
    if off = 0x114 ∨ off = 0x118 then
      if (changes Reg.CNX_BASE || changes Reg.CNX_COUNT) && w.n.tp.conns.any fun c => c.2.part = idx then some 0x4003
      else range (2 ^ 20 < v Reg.CNX_BASE + v Reg.CNX_COUNT || w.rangeClash idx (v Reg.CNX_BASE) (v Reg.CNX_COUNT) Reg.CNX_BASE Reg.CNX_COUNT)
    else none
  | .MIR =>
    if off = 0x104 then range (v Reg.MIR_UNDERSTUDY != 0xFFFF && v Reg.MIR_UNDERSTUDY = w.get Reg.GLB_NODE_ID)
    else if off = 0x124 then state (changes Reg.MIR_MIRROR && w.partState idx = 2)
    else if off = 0x144 then range (v Reg.MIR_FENCE_MIN < w.get Reg.MIR_FENCE_MIN 0 idx)
    else if off = 0x150 then state (changes Reg.MIR_HOME_LOG2 && w.flag Reg.MIR_HOME_EN)
    else none
  | .ATT => if off = 0x180 then range (v Reg.ATT_ADDR_LO % 256 != 0) else none
  | .PP =>
    if 2 ≤ w.partState inst then some 0x4003
    else if off = 0x190 then range (v Reg.PP_ATT_ADDR_LO % 256 != 0)
    else if off = 0x108 ∨ off = 0x10C ∨ off = 0x110 then
      range (w.partState inst != 0 && !w.quotasFit inst (v Reg.PP_HBM_QUOTA) (v Reg.PP_DDR_QUOTA) (v Reg.PP_HOST_QUOTA))
    else none
  | .PCI =>
    if off = 0x108 ∨ off = 0x10C then range (0xA000000000 ≤ v Reg.PCI_BASE_LO * 2 ^ 30 + v Reg.PCI_BASE_HI * 2 ^ 32) else none
  | .SEC =>
    if 0x110 ≤ off ∧ off ≤ 0x12C then
      if w.flag Reg.SEC_FKEK_LOCK then some 0x4002 else state (w.get Reg.SEC_DEBUG != 0)
    else none
  | .PART => if off = 0x104 then range (new Reg.PART_OP < 1 || 3 < new Reg.PART_OP) else none
  | .PWR => if off = 0x108 then range (v Reg.PWR_FALLBACK_W < 400 || w.get Reg.PWR_LIMIT_W < v Reg.PWR_FALLBACK_W) else none
  | .CAL => if off = 0x108 then range (v Reg.CAL_SRC_LO % 256 != 0) else none
  | .PGM =>
    if off = 0x104 then range (v Reg.PGM_K_MAX < v Reg.PGM_K_FIRST)
    else if off = 0x108 then range (262144 < v Reg.PGM_CAP)
    else if off = 0x114 ∨ off = 0x118 then
      if w.fmtInUse idx then some 0x4003
      else if off = 0x114 then
        let cb := w.get Reg.PGM_CODEBOOK 0 idx
        let g := 32 * 2 ^ v Reg.PGM_GROUP
        range ((Reg.PGM_GROUP ∈ fs && v Reg.PGM_GROUP = 3) || v Reg.PGM_VALID = 1 && (v Reg.PGM_GROUP = 3 ||
          v Reg.PGM_LATENT < 32 || 1024 < v Reg.PGM_LATENT || v Reg.PGM_LATENT % g != 0 || 8 < v Reg.PGM_OUTLIERS ||
          64 < v Reg.PGM_POS_CH || (v Reg.PGM_POS_FORM = 0 && v Reg.PGM_POS_CH != 0) || !w.flag Reg.CL_VALID 0 cb ||
          w.get Reg.CL_SIZE256 0 cb != v Reg.PGM_CODE8 || (v Reg.PGM_CODE8 = 0 && 16 ≤ w.get Reg.PGM_ZERO_CODE 0 idx)))
      else range (w.get Reg.PGM_CODE8 0 idx = 0 && 16 ≤ v Reg.PGM_ZERO_CODE)
    else if off = 0x124 then
      if Reg.PGM_SLOT_SIZE ∈ fs ∧ v Reg.PGM_SLOT_SIZE = 3 then some 0x4001
      else state (changes Reg.PGM_SLOT_SIZE && w.n.st.courses.any fun e => e.2.part = idx)
    else none
  | .CL =>
    if off = 0x188 then state (w.cbInUse (idx / 64))
    else if off = 0x18C then
      if changes Reg.CL_SIZE256 && w.flag Reg.CL_VALID 0 idx then some 0x4003
      else if w.cbInUse idx && Reg.CL_VALID ∈ fs && v Reg.CL_VALID = 0 then some 0x4003
      else range (Reg.CL_VALID ∈ fs && v Reg.CL_VALID = 1 && !w.codebookOk idx (if v Reg.CL_SIZE256 = 1 then 256 else 16))
    else if off = 0x190 then state (Reg.CL_LOAD ∈ fs && new Reg.CL_LOAD = 1 && w.flag Reg.CL_BUSY)
    else if off = 0x194 then range (v Reg.CL_ADDR_LO % 256 != 0)
    else none
  | .KEY =>
    if off = 0x114 then
      if !(atD w.n.ks.banks idx { entries := [] }).entries.isEmpty then some 0x4003
      else
        let t := v Reg.KEY_TABLE
        let wd := v Reg.KEY_WIDTH
        range (4 < t || 2 < wd || (t = 2 && wd != 1) || ((t = 3 || t = 4) && wd != 0))
    else none
  | .LP =>
    if off = 0x100 then
      let reh := ((List.range 32).filter fun p => p != inst && w.flag Reg.LP_REH p).length
      state ((changes Reg.LP_SPLIT && w.flag Reg.LP_EN inst) || (changes Reg.LP_REH && v Reg.LP_REH = 1 && 8 ≤ reh))
    else none
  | .TICK =>
    if off = 0x110 then
      let at_ := w.get Reg.TICK_SWITCH_LO + v Reg.TICK_SWITCH_HI * 2 ^ 32
      if !w.actFlag Reg.TICK_MASTER then some 0x4003
      else
        let ahead := (BitVec.ofNat 48 at_ - w.now).toNat
        range (ahead < 1024 || 2 ^ 47 ≤ ahead)
    else if off = 0x134 then state (w.n.tk.lockedOnce || w.isFull)
    else none
  | .MTR =>
    if off = 0x104 then range (v Reg.MTR_PERIOD % w.get Reg.MTR_SAMPLE != 0)
    else if off = 0x108 then range (w.get Reg.MTR_PERIOD % v Reg.MTR_SAMPLE != 0)
    else none
  | _ => none

end Sys2Proof.Machine
end

