-- ==== Sys2Proof/Machine/Bus.lean ====
section
/-!
DEFINITION. Sys2Proof/Machine/Bus.lean: BAR0 accesses (R484 to R486, R516, R489 to R496): the shared write, accepted whole
or ignored, and the shared read.
-/

namespace Sys2Proof.Machine

/-- The 32-bit mask of the enabled bytes (R484). -/
def beMask (be : BitVec 4) : Nat :=
  (List.range 4).foldl (fun m i => if be.getLsbD i then m + 255 * 2 ^ (8 * i) else m) 0

/-- Bitwise and of two numbers, and the merge of a write into a register word. -/
def mergeBits (old new mask : Nat) : Nat := (old &&& (2 ^ 32 - 1 - mask)) ||| (new &&& mask)

/-- The value a field would hold after a write: its enabled bits are written (R484). -/
def Work.merged (w : Work) (wr : RegWr) (inst idx : Nat) (f : Fld) : Nat :=
  let old := w.get f (storeInst f.blk inst f.off) idx
  bitsOf (mergeBits (old * 2 ^ f.lo) wr.data.toNat (beMask wr.be)) f.lo f.width

/-- The write enables a byte of the field. -/
def fieldEnabled (wr : RegWr) (f : Fld) : Bool := bitsOf (beMask wr.be) f.lo f.width != 0

/-- A one-bit field is written with 1. -/
def wrote1 (wr : RegWr) (f : Fld) : Bool := bitOf (wr.data.toNat &&& beMask wr.be) f.lo

/-- The page in whose capture a refused write lands (R495, R496): the partition page for a VF. -/
def capturePage (fn : Fn) (b : Block) (inst off : Nat) : Nat :=
  match fn with
  | .pf => if b = .CL ∧ 0x180 ≤ off then 0x30 else b.pageOf inst
  | .vf p => 0x100 + p

/-- Through a function, the field may be written at all (R353, R372, R440, R483, R499): a VF writes the ATT fields of its
page, its QUE_CMD and QUE_NOTICE, its window base, and its queues' configuration. -/
def fnMayWrite (fn : Fn) (b : Block) (inst off : Nat) : Bool :=
  match fn with
  | .pf => !(b = .PP && 0x170 ≤ off && off ≤ 0x198 && inst != 0)
  | .vf _ =>
    match b with
    | .PP => 0x170 ≤ off && off ≤ 0x198
    | .QUE => off = 0x104 || off = 0x10C
    | .PCI => off = 0x108 || off = 0x10C
    | .QCFG => true
    | _ => false

/-- A register of a partition page that reads as RO to its virtual function (R372): every one from 0x100 up but those of the ATT fields. -/
def roToVf (wr : RegWr) (b : Block) (inst off : Nat) : Bool :=
  match wr.fn with
  | .vf _ => b = .PP && !fnMayWrite wr.fn b inst off && (regFields b off).any (fieldEnabled wr)
  | .pf => false

/-- Why a write to a register from 0x100 up is refused, if it is (R516). -/
def Work.refuse (w : Work) (wr : RegWr) (b : Block) (inst idx off : Nat) : Option Nat :=
  let fs := (regFields b off).filter fun f => fieldEnabled wr f && (f.acc != .ro && f.acc != .rs)
  let new := w.merged wr inst idx
  let old := fun f : Fld => w.get f (storeInst b inst off) idx
  if roToVf wr b inst off then some 0x4003
  else if fs.isEmpty then none
  else if !fnMayWrite wr.fn b inst off then some 0x4003
  else if fs.any fun f => (f.acc = .rw || f.acc = .rwl) && (new f < f.vmin || f.vmax < new f) then some 0x4001
  else if fs.any fun f => f.acc = .rwl && w.locked b && new f != old f then some 0x4002
  else w.forbidden wr.fn b inst idx off fs new

/-- Carry out a write on a register from 0x100 up whose fields are `fs`. -/
def Work.writeFields (w : Work) (wr : RegWr) (b : Block) (inst idx off : Nat) : Work :=
  (regFields b off).foldl (fun w f =>
    let i := storeInst b inst off
    match f.acc with
    | .rw | .rwl => if fieldEnabled wr f then w.set f (w.merged wr inst idx f) i idx else w
    | .wo => if fieldEnabled wr f then w.set f (w.merged wr inst idx f) i idx else w
    | _ => w) w

/-- What the shared write found: the view after it, and where it landed if it was accepted. -/
structure Wrote where
  w : Work
  at_ : Option (Block × Nat × Nat × Nat)

/-- A BAR0 write of a register from 0x100 up (R484 to R486, R516): accepted whole, or ignored, counted or captured. -/
def Work.busWrite (w : Work) (wr : RegWr) : Wrote :=
  if wr.off % 4 ≠ 0 then ⟨w.count Reg.GLB_BAD_ACCESS, none⟩
  else
    match w.locate wr.fn wr.off with
    | .reg b inst off =>
      if off < 0x100 ∧ b ≠ .QCFG then ⟨w, none⟩
      else
        let idx := w.sel wr.fn b off
        match w.refuse wr b inst idx off with
        | some code =>
          ⟨w.capture { code := code, page := capturePage wr.fn b inst off, arg := wr.off, detail := wr.data.toNat,
                       part := match wr.fn with | .pf => (if b = .PP then some inst else none) | .vf p => some p }, none⟩
        | none => ⟨w.writeFields wr b inst idx off, some (b, inst, off, idx)⟩
    | .foreign => ⟨w.count Reg.QUE_FOREIGN, none⟩
    | .unmapped => ⟨w.count Reg.GLB_BAD_ACCESS, none⟩
    | _ => ⟨w, none⟩

/-- The write addresses a register of a block at one of some offsets. -/
def Work.addresses (w : Work) (wr : RegWr) (b : Block) (offs : List Nat) : Bool :=
  match w.locate wr.fn wr.off with
  | .reg c _ off => wr.off % 4 = 0 && c = b && off ∈ offs
  | _ => false

/-- The instance that a write addresses. -/
def Work.instOf (w : Work) (wr : RegWr) : Nat :=
  match w.locate wr.fn wr.off with
  | .reg _ inst _ => inst
  | _ => 0

/-- Run a register write of a block: the shared write, then, if it was accepted, its action. -/
def Work.regAction (w : Work) (wr : RegWr) (b : Block) (offs : List Nat) (act : Work → Nat → Nat → Work) : Work :=
  if w.addresses wr b offs then
    let r := w.busWrite wr
    match r.at_ with
    | some (_, inst, _, idx) => act r.w inst idx
    | none => r.w
  else w

/-! ## The common part -/

/-- The page whose common register (below 0x100) an access addresses, with the register's offset. -/
def Work.commonAt (w : Work) (fn : Fn) (off : Nat) : Option (Nat × Nat) :=
  if off % 4 ≠ 0 then none
  else
    match w.locate fn off with
    | .reg b inst o => if o < 0x100 ∧ b ≠ .QCFG then some (b.pageOf inst, o) else none
    | _ => none

/-- A function owns a page's common part (R495): the physical function every block page and partition page 0, VF p its
own partition page. -/
def ownsCommon (fn : Fn) (page : Nat) : Bool :=
  match fn with
  | .pf => page ≤ 0x100
  | .vf p => page = 0x100 + p

/-- The RS fields of a page: those of its block, on its instance (R499). -/
def pageCounters (page : Nat) : List (Fld × Nat) :=
  (Reg.BLK_ERR_CNT, page) ::
  (match pageBlock page with
   | some (b, inst) => (b.flds.filter fun f => f.acc = .rs && !(b = .CL && 0x180 ≤ f.off)).map fun f => (f, inst)
   | none => [])

/-- Selections of a block's indexed counters that hold a value (keys written in the register file). -/
def Work.counterKeys (w : Work) (f : Fld) (inst : Nat) : List (Nat × Nat) :=
  let base := fun k => (k / 32 / 2 ^ 12 / 2 ^ 20 = f.blk.page + inst) && (k / 32 % 2 ^ 12 = f.off) && (k % 32 = f.lo)
  ((w.rw.map fun e => (e.1, e.2.1)) ++ w.regs.filter fun e => base e.1).filter (fun e => base e.1) |>.map
    fun e => (e.1, w.raw e.1 0)

/-- Clear every selection of an RS field on an instance. -/
def Work.clearCounter (w : Work) (f : Fld) (inst : Nat) : Work :=
  { w with rw := ((w.counterKeys f inst).map fun e => (e.1, 0, 0)) ++ w.rw }

/-- BLK_CTRL.SOFT_RESET of a page (R489, R499). -/
def Work.softResetPage (w : Work) (page : Nat) : Work :=
  let w := w.set Reg.BLK_ISR 0 page
  let w := w.set Reg.BLK_ERR_CAP0 0 page
  let w := w.set Reg.BLK_ERR_CAP1 0 page
  let w := w.set Reg.BLK_ERR_CAP2 0 page
  let w := w.set Reg.BLK_ERR_CAP3 0 page
  let w := w.set Reg.BLK_ERROR 0 page
  (pageCounters page).foldl (fun w c => w.clearCounter c.1 c.2) w

/-- BLK_CTRL.FREEZE of a page (R489): hold the counters' readings, or let the current values be seen. -/
def Work.freezePage (w : Work) (page : Nat) (on : Bool) : Work :=
  if w.flag Reg.BLK_FREEZE page = on then w
  else
    let w := w.setFlag Reg.BLK_FREEZE on page
    if on then
      let held := ((pageCounters page).map fun c => w.counterKeys c.1 c.2).flatten
      { w with n.frozen := insertN page held w.n.frozen }
    else { w with n.frozen := eraseN page w.n.frozen }

end Sys2Proof.Machine
end

