-- ==== Sys2Proof/Machine/Operands.lean ====
section
/-!
DEFINITION. Sys2Proof/Machine/Operands.lean: fields of byte strings, the big-endian wire form of the message formats
(R18, R19), the completion status codes (R21), and page and session handles (R97, R100).
-/

namespace Sys2Proof.Machine

/-- The little-endian field of `len` bytes at `off`; absent bytes read zero. -/
def fieldAt (b : Bytes) (off len : Nat) : Nat := leVal ((b.drop off).take len)

/-- `len` bytes at `off`. -/
def sliceAt (b : Bytes) (off len : Nat) : Bytes := (b.drop off).take len

/-- Bytes `off` to `off + len - 1` are zero. -/
def zeroAt (b : Bytes) (off len : Nat) : Bool := (sliceAt b off len).all (· = 0)

/-- Reverse each field of a record, given their widths in order: memory form to wire form and back (R19). Bytes beyond the
fields named are kept. -/
def swapFields : List Nat → Bytes → Bytes
  | [], b => b
  | n :: ns, b => (b.take n).reverse ++ swapFields ns (b.drop n)

/-- Reverse every field of `n` bytes. -/
def swapAll (n : Nat) (b : Bytes) : Bytes := swapFields (List.replicate (b.length / max n 1) n) b

/-- Field widths of the session control descriptor (R102). -/
def sessionFields : List Nat := [1, 1, 1, 1, 4, 8, 4, 4, 4]

/-- Field widths of a strike notice's header and of an entry (R361). -/
def noticeFields : List Nat := [1, 1, 2, 1, 1, 2, 4, 4, 8, 2] ++ List.replicate 38 1
def entryFields : List Nat := [8, 1] ++ List.replicate 7 1

/-- Field widths of the append descriptor (R106). -/
def appendFields : List Nat := [4, 1, 1, 2, 4, 4, 8, 4, 4]

/-! ## Completion status codes (R21) -/

abbrev stOK : Nat := 0x00
abbrev stReserve : Nat := 0x01
abbrev stIncomplete : Nat := 0x02
abbrev stExhausted : Nat := 0x10
abbrev stNoSession : Nat := 0x11
abbrev stFenced : Nat := 0x12
abbrev stStale : Nat := 0x13
abbrev stNotOwner : Nat := 0x14
abbrev stViolKey : Nat := 0x20
abbrev stViolGen : Nat := 0x21
abbrev stDuplicate : Nat := 0x22
abbrev stAuthFail : Nat := 0x23
abbrev stDataLost : Nat := 0x30
abbrev stCorrupt : Nat := 0x31
abbrev stMirror : Nat := 0x32
abbrev stOverBudget : Nat := 0x40
abbrev stPoliced : Nat := 0x41
abbrev stStruck : Nat := 0x50
abbrev stInternal : Nat := 0x7F

/-- A session handle: index in [17:0], generation in [31:18] (R100). -/
def handleOf (idx gen : Nat) : Nat := idx % 2 ^ 18 + gen % 2 ^ 14 * 2 ^ 18

/-- The source names a connection. -/
def Work.connOf (w : Work) (id : Nat) : Option Conn := lookupN id w.n.tp.conns

/-- The subscriber under which a connection's traffic is scheduled (R336), and whether it is the partition's default one. -/
def Work.subscriber (w : Work) (c : Conn) : Nat × Bool :=
  if w.get Reg.SCH_PART_114 0 c.subscriber = c.part ∧ w.flag Reg.SCH_EN_114 0 c.subscriber then (c.subscriber, false)
  else (w.get Reg.SCH_DEF_SUB 0 c.part, true)

/-- A queue's state; a queue never touched is Disabled. -/
def Work.queueOf (w : Work) (q : Nat) : Queue :=
  (lookupN q w.n.hq.queues).getD
    { state := .disabled, tail := 0, fetch := 0, cqHead := 0, cqProd := 0, unconsumed := 0, phase := true, count := 0,
      failCount := 0, lastHandle := 0xFFFFFFFF, seq := 0, entries := [], recvs := [], unsignalled := 0, ending := none }

/-- Store a queue's state. -/
def Work.setQueue (w : Work) (q : Nat) (x : Queue) : Work := { w with n.hq.queues := insertN q x w.n.hq.queues }

/-- The started (or fetched) entry of a queue by its index. -/
def Queue.entryOf (x : Queue) (e : Nat) : Option HEntry := x.entries.find? fun h => h.idx = e

/-- The partition a request belongs to: its connection's, or its queue's (R100, R309). -/
def Work.partOf (w : Work) (src : Src) : Option Nat :=
  match src with
  | .conn id _ => (w.connOf id).map (·.part)
  | .queue q _ => w.queuePart q

/-- An MSN of a connection is done at this receiver (R293): behind MSN_LOW by at most 2^23, or marked. -/
def Conn.msnIsDone (c : Conn) (msn : Nat) : Bool :=
  let behind := (c.msnLow + 2 ^ 24 - msn % 2 ^ 24) % 2 ^ 24
  (0 < behind && behind ≤ 2 ^ 23) || c.msnDone.contains (msn % 2 ^ 24)

/-- The message of a connection by its MSN, while it is neither done nor unknown. -/
def Work.inMsg (w : Work) (id msn : Nat) : Option InMsg := w.n.tp.inMsgs.find? fun m => m.conn = id && m.msn = msn

/-- A message that may act: it is complete, waits behind no FENCE, and has not acted (R292, R300). -/
def InMsg.mayAct (m : InMsg) : Bool := m.complete && !m.behindFence && !m.acted

/-- The message may act now, if it is known: messages act in the order in which they complete (R300). -/
def Work.msgTurn (w : Work) (id msn : Nat) : Bool :=
  match w.inMsg id msn with
  | none => true
  | some m => m.mayAct && (w.n.tp.inMsgs.find? InMsg.mayAct).any fun x => x.conn = id && x.msn = msn

/-- The source can carry a request: its connection is installed, its message is not done and, if it is known, is the next to act (R292,
R294, R300); or its entry has started (DEDUCED, log 15). -/
def Work.srcOk (w : Work) (src : Src) : Bool :=
  match src with
  | .conn id msn => (match w.connOf id with | some c => !c.msnIsDone msn | none => false) && w.msgTurn id msn
  | .queue q e => match (w.queueOf q).entryOf e with
    | some h => h.started && !h.arrived
    | none => false

/-- The sender of a connection is fenced: its presented epoch is below FENCE_MIN (R396). -/
def Work.staleSender (w : Work) (c : Conn) : Bool :=
  decide (w.get Reg.MIR_PRESENTED 0 c.peerNode < w.get Reg.MIR_FENCE_MIN 0 c.peerNode)

/-- The source of a request is a fenced sender (R396). -/
def Work.staleSrc (w : Work) (src : Src) : Bool :=
  match src with
  | .conn id _ => (w.connOf id).any w.staleSender
  | .queue _ _ => false

/-- The tick in which a request arrived (R33, R109, R292): when its message became complete; a host entry arrives now. -/
def Work.arrivalTick (w : Work) (src : Src) : Tick :=
  match src with
  | .conn id msn => ((w.inMsg id msn).map (·.tick)).getD w.now
  | .queue _ _ => w.now

/-- Message bytes of a source, in memory form: those of a connection are converted from the wire (R19). -/
def srcBytes (src : Src) (widths : List Nat) (b : Bytes) : Bytes :=
  match src with
  | .conn _ _ => swapFields widths b
  | .queue _ _ => b

end Sys2Proof.Machine
end

