-- ==== Sys2Proof/Machine/Complete.lean ====
section
/-!
DEFINITION. Sys2Proof/Machine/Complete.lean: completing a request at its source: a completion record on its connection
(R283, R285), or a completion entry of its queue (R315 to R317, R323 to R331), with the queue's counts and signals.
-/

namespace Sys2Proof.Machine

/-- The function of a partition, for MSI-X (R306). -/
def partFn (p : Nat) : Nat := p

/-- The meters of a partition in the box office (R478): add to one counter while the box office counts. -/
def Work.meter (w : Work) (p counter by_ : Nat) : Work :=
  if w.flag Reg.MTR_EN then
    { w with n.mt.meters := w.n.mt.meters.map fun m =>
        if m.part = p then { m with cnt := m.cnt.set counter ((atD m.cnt counter 0 + by_) % 2 ^ 64) } else m }
  else w

/-- Count `by_` bytes in a KiB counter, keeping the bytes that make up no whole KiB. -/
def kibCount (frac by_ : Nat) : Nat × Nat := ((frac + by_) / 1024, (frac + by_) % 1024)

/-- Bytes written to host memory over PCIe, for a partition where one is named (PCI_WR_KIB, R478). -/
def Work.pcieOut (w : Work) (p : Option Nat) (len : Nat) : Work :=
  let k := kibCount w.n.hq.wrFrac len
  let w := { w.count Reg.PCI_WR_KIB k.1 with n.hq.wrFrac := k.2 }
  match p with
  | some q => w.meter q 14 len
  | none => w

/-- Bytes read from host memory over PCIe (PCI_RD_KIB, R478). -/
def Work.pcieIn (w : Work) (p : Option Nat) (len : Nat) : Work :=
  let k := kibCount w.n.hq.rdFrac len
  let w := { w.count Reg.PCI_RD_KIB k.1 with n.hq.rdFrac := k.2 }
  match p with
  | some q => w.meter q 14 len
  | none => w

/-- Reads of host memory that failed, `n` of them: how many were completion timeouts, and the completion status, are free (log 121). -/
def Work.readsFailed (w : Work) (n : Nat) : Nat × Work :=
  let a := w.draw
  let b := a.2.draw
  (a.1 % 8, b.2.count Reg.PCI_CTO_CNT (b.1 % (n + 1)))

/-- Write host memory as a function (R306): the bytes land in the host's memory, or wait while Bus Master Enable is 0 (R333). Only the
host-memory tier and the connection table are written with relaxed ordering (R307). -/
def Work.hostStore (w : Work) (fn : Nat) (addr : Nat) (bs : Bytes) (relaxed : Bool := false) : Work :=
  if w.n.bo.busMaster then (w.emit (.request true fn relaxed addr bs.length)).store (hostKey addr) bs
  else { w with n.hq.heldOut := w.n.hq.heldOut ++ [.write fn relaxed addr bs] }

/-- Read host memory as a function (R306), for a partition where one is named; what comes back is the command's. -/
def Work.hostFetch (w : Work) (fn : Nat) (p : Option Nat) (addr len : Nat) (relaxed : Bool := false) : Work :=
  (w.emit (.request false fn relaxed addr len)).pcieIn p len

/-- The function that serves a queue's partition, which is the requester ID of what is done for it (R306). -/
def Work.queueFn (w : Work) (q : Nat) : Nat := partFn ((w.queuePart q).getD 0)

/-- Write a result, or a part of one at an offset, to an entry's result buffer (R318, R319, R325): the central store where RES_CS is
set, else the host; the result of an entry whose queue was reset is not written, and counted once, with its first byte (R312). -/
def Work.resultStore (w : Work) (q : Nat) (h : HEntry) (bs : Bytes) (off : Nat := 0) : Work :=
  if h.suppressed then (if off = 0 then w.count Reg.QUE_SUPPRESSED else w)
  else if bitOf h.sflags 3 then w.store (h.resAddr + off) bs
  else (w.hostStore (w.queueFn q) (h.resAddr + off) bs).pcieOut (w.queuePart q) bs.length

/-- The host end of a queue's address field. -/
def Work.qcfg64 (w : Work) (q : Nat) (lo hi : Fld) : Nat := w.get lo q * 2 ^ lo.lo + w.get hi q * 2 ^ 32

/-- Signal a queue's vector (R331): the count of unsignalled entries restarts. -/
def Work.queueSignal (w : Work) (q : Nat) : Work :=
  let x := w.queueOf q
  let w := w.setQueue q { x with unsignalled := 0 }
  match w.queuePart q with
  | some p => w.msixSend (partFn p) (w.get Reg.QCFG_VECTOR q)
  | none => w

/-- Produce one completion entry (R315, R316): 16 bytes at the produce index, PHASE last; then signal as R331 says. -/
def Work.cqProduce (w : Work) (q : Nat) (tag aux0 aux1 sqIndex status flags : Nat) (irq : Bool) : Work :=
  let x := w.queueOf q
  let size := 2 ^ w.get Reg.QCFG_CQ_LOG2 q
  let bs := leBytes 4 tag ++ leBytes 4 aux0 ++ leBytes 4 aux1 ++ leBytes 2 sqIndex ++ leBytes 1 status ++
    leBytes 1 (flags / 2 * 2 + if x.phase then 1 else 0)
  let w := (w.hostStore (w.queueFn q) (w.qcfg64 q Reg.QCFG_CQ_BASE_LO Reg.QCFG_CQ_BASE_HI + x.cqProd * 16) bs).pcieOut (w.queuePart q) 16
  let wrap := decide (x.cqProd + 1 = size)
  let w := w.setQueue q { x with cqProd := (x.cqProd + 1) % size, phase := xor x.phase wrap,
                                 unconsumed := x.unconsumed + 1, unsignalled := x.unsignalled + 1 }
  if irq then w.queueSignal q
  else if w.flag Reg.QCFG_IRQ_EN q ∧ w.get Reg.QCFG_COAL_COUNT q ≤ x.unsignalled + 1 then w.queueSignal q
  else w

/-- Completions, started entries and posted RECVs that a CQ still has to hold (R317). -/
def Queue.reserved (x : Queue) : Nat := x.unconsumed + (x.entries.filter (·.started)).length + x.recvs.length

/-- A notice for a queue (R317, R326): dropped and counted when no slot is free. -/
def Work.cqNotice (w : Work) (q aux0 aux1 status : Nat) : Work :=
  let x := w.queueOf q
  if x.state ≠ .enabled ∨ 2 ^ w.get Reg.QCFG_CQ_LOG2 q ≤ x.reserved then w.count Reg.QUE_NOTICE_LOST
  else w.cqProduce q w.now32 aux0 aux1 0xFFFF status 2 false

/-- Deliver a VIOLATION notice to the partition's notice queue, or count it lost (R326). -/
def Work.partNotice (w : Work) (p aux0 aux1 status : Nat) : Work :=
  if w.flag Reg.QUE_EN 0 p then w.cqNotice (w.get Reg.QUE_QUEUE_10C 0 p) aux0 aux1 status
  else w.count Reg.QUE_NOTICE_LOST

/-- A host entry ends (R312, R324, R328, R329): its result is counted, LAST_HANDLE follows an OPEN or FORK that ends OK, and the
entry is written unless its queue was reset meanwhile. -/
def Work.endEntry (w : Work) (q e status aux0 aux1 flags : Nat) (handle : Option Nat) : Work :=
  let x := w.queueOf q
  match (x.entries ++ x.recvs).find? fun h => h.idx = e with
  | none => w
  | some h =>
    let x := { x with entries := x.entries.filter (·.idx != e), recvs := x.recvs.filter (·.idx != e) }
    if h.suppressed then (w.setQueue q x).count Reg.QUE_SUPPRESSED
    else
      let x := if status < 0x10 then { x with count := (x.count + 1) % 2 ^ 32 } else { x with failCount := (x.failCount + 1) % 2 ^ 32 }
      let x := match handle with
        | some v => if status = 0 then { x with lastHandle := v } else x
        | none => x
      (w.setQueue q x).cqProduce q h.tag aux0 aux1 h.sqIndex status flags (bitOf h.sflags 4)

/-! ## Starting entries (R317, R324, R327, R329) -/

/-- Entries started and not complete, over all queues, posted RECVs aside (R324). -/
def Work.startedEntries (w : Work) : Nat :=
  w.n.hq.queues.foldl (fun n e => n + (e.2.entries.filter (·.started)).length) 0

/-- The first entry of a queue that has not started may start now. -/
def Work.entryMayStart (w : Work) (q : Nat) (x : Queue) (h : HEntry) : Bool :=
  let wait := !h.waitEn || (let y := w.queueOf h.waitQ
    y.state != .disabled && decide ((y.count + 2 ^ 32 - h.waitCount) % 2 ^ 32 < 2 ^ 31))
  x.state = .enabled && decide (x.reserved < 2 ^ w.get Reg.QCFG_CQ_LOG2 q) && (h.fail != 0 ||
    (wait && (!bitOf h.sflags 0 || x.entries.all fun y => !y.started) && decide (w.startedEntries < w.get Reg.QUE_MAX_STARTED)))

/-- The first queue whose next entry may start, and that entry: entries of a queue start in order. -/
def Work.nextStart (w : Work) : Option (Nat × HEntry) :=
  w.n.hq.queues.findSome? fun e => match e.2.entries.find? fun h => !h.started with
    | some h => if w.entryMayStart e.1 e.2 h then some (e.1, h) else none
    | none => none

/-- Entries start as far as they may (R324); one that failed a check at fetch completes with INTERNAL and never starts (R323).
With SUBST_HANDLE an entry takes the LAST_HANDLE of the queue it waits on, or of its own. -/
def Work.startEntries : Nat → Work → Work
  | 0, w => w
  | fuel + 1, w =>
    match w.nextStart with
    | none => w
    | some (q, h) =>
      if h.fail ≠ 0 then startEntries fuel (w.endEntry q h.idx stInternal 0 h.fail 0 none)
      else
        let handle := if bitOf h.sflags 1 then some (w.queueOf (if h.waitEn then h.waitQ else q)).lastHandle else none
        let x := w.queueOf q
        startEntries fuel (w.setQueue q { x with entries := x.entries.map fun y =>
          if y.idx = h.idx then { y with started := true, handle := handle } else y })

/-- Entries that have not started. -/
def Work.unstarted (w : Work) : Nat :=
  w.n.hq.queues.foldl (fun n e => n + (e.2.entries.filter fun h => !h.started).length) 0

/-- Complete a host entry; entries that waited for it may start. -/
def Work.completeEntry (w : Work) (q e status aux0 aux1 : Nat) (flags : Nat := 0) (handle : Option Nat := none) : Work :=
  let w := w.endEntry q e status aux0 aux1 flags handle
  Work.startEntries (w.unstarted + 1) w

/-! ## Messages at their receiver -/

/-- The scheduler service of an operation (R337): a SEND of service 2 is control, of service 1 a host message. -/
def opService (op target : Nat) : Nat :=
  if op = 9 ∨ op = 0xA then 0
  else if op = 8 then 1
  else if op = 5 then 2
  else if op = 0xF ∨ op = 0xD then 3
  else if op = 7 then 5
  else if op = 1 ∨ op = 2 then 6
  else if op = 3 then (if target % 256 = 2 then 0 else if target % 256 = 1 then 7 else 4)
  else 4

/-- The link class of an operation (R279, R337). -/
def opClass (op target : Nat) : Nat :=
  if op = 9 ∨ op = 0xA ∨ op = 8 then 0
  else if op = 5 ∨ op = 0xD ∨ op = 0xF then 1
  else if op = 1 ∨ op = 7 then 3
  else if op = 3 ∧ target % 256 = 2 then 0
  else 2

/-- Queue a RESPONSE to a request of the peer (R299): it bears the request's MSN, service and class. -/
def Work.sendResponse (w : Work) (conn msn op : Nat) (payload : Bytes) (purpose : Purpose) : Work :=
  let m : OutMsg := { conn := conn, op := 0xE, resp := true, msn := msn, service := opService op 0, cls := opClass op 0
                      target := 0, payload := payload, cmpr := false, next := 0, resend := [], acked := []
                      started := false, purpose := purpose, extent := 0, got := [], gotCount := none
                      sub := (w.connOf conn).map w.subscriber }
  { w with n.tp.outMsgs := w.n.tp.outMsgs ++ [(w.n.tp.nextOut, m)], n.tp.nextOut := w.n.tp.nextOut + 1 }

/-- How far an MSN lies ahead of MSN_LOW. -/
def Conn.msnAhead (c : Conn) (msn : Nat) : Nat := (msn + 2 ^ 24 - c.msnLow) % 2 ^ 24

/-- MSN_LOW advances past every MSN that is done (R293). -/
def Conn.advance : Nat → Conn → Conn
  | 0, c => c
  | n + 1, c =>
    if c.msnDone.contains c.msnLow then
      Conn.advance n { c with msnDone := c.msnDone.filter (· != c.msnLow), msnLow := (c.msnLow + 1) % 2 ^ 24 }
    else c

/-- A message becomes done (R293). -/
def Conn.markDone (c : Conn) (msn : Nat) : Conn :=
  if c.msnIsDone msn then c
  else Conn.advance (c.msnDone.length + 1) { c with msnDone := c.msnDone ++ [msn % 2 ^ 24] }

/-- A message is done at this receiver, its operation record freed (R293, R303); with a completion record (R283, R285),
which waits for the next ACK, due at once. -/
def Work.recordDone (w : Work) (id msn : Nat) (r : Option CmplRec) : Work :=
  match w.connOf id with
  | none => w
  | some c =>
    let c := c.markDone msn
    let c := match r with
      | some x => { c with records := c.records ++ [x], ackDue := true }
      | none => c
    { w with n.tp.conns := insertN id c w.n.tp.conns
             n.tp.inMsgs := w.n.tp.inMsgs.filter fun m => !(m.conn = id && m.msn = msn) }

/-- Checks 2 to 4 of R297 for an access of an OP and length at a TARGET, against the region that its index names: the region, or the status
of the first check that fails. -/
def regionCheck (c : Conn) (op target from_ len : Nat) : Option Region → Except Nat Region
  | none => .error stViolKey
  | some g =>
    let off := target % 2 ^ 32
    if g.gen ≠ target / 2 ^ 32 % 256 then .error stViolGen
    else if !bitOf g.perm (if op = 1 then 1 else if op = 2 then 0 else 2) ∨ !c.rkeyOk then .error stViolKey
    else if g.len < off + from_ + len ∨ (op = 0xA ∧ off % 32 ≠ 0) then .error stViolKey
    else .ok g

/-- What an access that fails R297 brings with it (R298): its count, a notice, at most one per connection and tick, and an event. -/
def Work.violated (w : Work) (id target st : Nat) : Work :=
  match w.connOf id with
  | none => w
  | some c =>
    let key := target / 2 ^ 40 % 2 ^ 24 + target / 2 ^ 32 % 256 * 2 ^ 24
    let w := w.count (if st = stViolGen then Reg.FAB_VIOL_GEN else Reg.FAB_VIOL_KEY)
    let w := w.report { code := 0x4802, page := 0x70, part := some c.part, status := st, arg := key, detail := id + st * 2 ^ 24 }
    if c.noticeTick = some w.now then w.count Reg.FAB_NOTICES_SUPPRESSED
    else
      let w := { w with n.tp.conns := modifyN id (fun c : Conn => { c with noticeTick := some w.now }) w.n.tp.conns }
      w.partNotice c.part key id st

/-- The bytes of a message in INDEX order. -/
def InMsg.bytes (m : InMsg) : Bytes :=
  ((List.range ((m.count.getD 0))).map fun i => (lookupN i m.parts).getD []).flatten

/-- A WRITE, READ or CAS acts by itself: it needs no command but that of its packets. -/
def remoteOp (op : Nat) : Bool := op = 1 || op = 2 || op = 0xA

/-- A partition is Live (R357). -/
def Work.live (w : Work) (p : Nat) : Bool := w.partState p = 1

/-- A complete WRITE, READ or CAS whose turn has come acts (R299, R300), unless its sender is fenced (R396), the node is Dark (R288), the
partition is struck (R360), or the key of a READ or CAS no longer holds (R297, R298). A READ's and a CAS's RESPONSE is queued. -/
def Work.remoteAct (w : Work) (c : Conn) (m : InMsg) : Work :=
  let done := fun (w : Work) st => w.recordDone m.conn m.msn (some { msn := m.msn, status := st, tag := 0, aux0 := 0, aux1 := 0 })
  let b := m.bytes
  let len := if m.op = 2 then fieldAt b 0 4 else 32
  if w.staleSender c then done (w.count Reg.MIR_STALE_REFUSED) stStale
  else if w.isDark ∧ m.op ≠ 0xA then done w stFenced
  else if !w.live c.part then done w stStruck
  else if m.op = 1 then done w stOK
  else match regionCheck c m.op m.target 0 len (lookupN (c.part * 2 ^ 24 + m.target / 2 ^ 40 % 2 ^ 24) w.n.tp.regions) with
    | .error st => done (w.violated m.conn m.target st) st
    | .ok g =>
      let a := g.base + m.target % 2 ^ 32
      let w :=
        -- the payload is a byte string: its length is a number as memory holds it (R19, R279)
        if m.op = 2 then w.sendResponse m.conn m.msn 2 [] (.readResponse a len)
        else
          let found := w.bytes a 32
          let w := if found = sliceAt b 0 32 then w.store a (sliceAt b 32 32) else w
          w.sendResponse m.conn m.msn 0xA found .response
      w.recordDone m.conn m.msn none

/-- A FENCE presentation (R395): the sender's node and fence epoch, in wire form. -/
def Work.presentFence (w : Work) (b : Bytes) : Work :=
  if b.length = 16 then
    let node := leVal (sliceAt b 2 2).reverse
    w.set Reg.MIR_PRESENTED (max (w.get Reg.MIR_PRESENTED 0 node) (leVal (sliceAt b 4 4).reverse)) 0 node
  else w

/-- An ordering FENCE, one with an empty payload (R395), waits to act below an MSN of a connection (R300). -/
def Work.fencedBelow (w : Work) (id : Nat) (c : Conn) (msn : Nat) : Bool :=
  w.n.tp.inMsgs.any fun m => m.conn = id && m.op = 9 && m.complete && m.bytes.isEmpty && m.msn != msn && c.msnAhead m.msn < c.msnAhead msn

/-- Messages that waited behind a FENCE and have none below them any more may act, in MSN order (R300). -/
def Work.releaseFenced (w : Work) (id : Nat) : Work :=
  match w.connOf id with
  | none => w
  | some c =>
    let ready := w.n.tp.inMsgs.filter fun m => m.conn = id && m.behindFence && m.op != 9 && !w.fencedBelow id c m.msn
    let ordered := (ready.foldl (fun l (m : InMsg) => insertN (c.msnAhead m.msn) m l) []).map (·.2)
    ordered.foldl (fun w (m : InMsg) =>
      { w with n.tp.inMsgs := (w.n.tp.inMsgs.filter fun x => !(x.conn = id && x.msn = m.msn)) ++ [{ m with behindFence := false }] }) w

/-- A FENCE that has every message of its connection below it done (R300). -/
def Work.fenceReady (w : Work) : Option InMsg :=
  w.n.tp.inMsgs.find? fun m => m.op = 9 && m.behindFence && (w.connOf m.conn).any fun c => c.msnLow = m.msn

/-- The remote access whose turn to act has come: the first of the messages that may act, in the order in which they completed (R300). -/
def Work.remoteReady (w : Work) : Option (Conn × InMsg) :=
  match w.n.tp.inMsgs.find? InMsg.mayAct with
  | some m => if remoteOp m.op then (w.connOf m.conn).map fun c => (c, m) else none
  | none => none

/-- What can act without a command of its own acts (R300): FENCEs that have every message below them done, after which those that waited
behind them go on, and the remote accesses whose turn has come. -/
def Work.settleMsgs : Nat → Work → Work
  | 0, w => w
  | n + 1, w =>
    match w.fenceReady with
    | some f => settleMsgs n ((w.recordDone f.conn f.msn (some { msn := f.msn, status := stOK, tag := 0, aux0 := 0, aux1 := 0 })).releaseFenced f.conn)
    | none => match w.remoteReady with
      | some (c, m) => settleMsgs n (w.remoteAct c m)
      | none => w

/-- Messages go on as far as they can: every step of it ends one. -/
def Work.msgsGoOn (w : Work) : Work := Work.settleMsgs (w.n.tp.inMsgs.length + 1) w

/-- Complete a message at its receiver (R283, R285). -/
def Work.completeMsg (w : Work) (id msn tag status aux0 aux1 : Nat) : Work :=
  (w.recordDone id msn (some { msn := msn, status := status, tag := tag, aux0 := aux0, aux1 := aux1 })).msgsGoOn

/-- Complete a request at its source, with an OPEN's or FORK's handle where it has one. -/
def Work.complete (w : Work) (src : Src) (tag status aux0 aux1 : Nat) (handle : Option Nat := none) : Work :=
  match src with
  | .conn id msn => w.completeMsg id msn tag status aux0 aux1
  | .queue q e => w.completeEntry q e status aux0 aux1 0 handle

/-- The TAG of a message's descriptor, from its first packet in wire form (R280's table of completion records). -/
def wireTag (op target : Nat) (first : Bytes) : Nat :=
  let at_ := fun off => leVal (sliceAt first off 4).reverse
  if op = 4 then at_ 0x2C else if op = 6 then at_ 0x18 else if op = 8 then at_ 0x10
  else if op = 3 ∧ target % 256 = 0 then at_ 0x18 else 0

/-- A request whose turn has come acts (R300, R324), unless its sender has been fenced meanwhile (R396). -/
def Work.srcActs (w : Work) (src : Src) (op : Nat) (bytes : Bytes) (act : Work → Work) : Work :=
  if !w.srcOk src then w
  else if w.staleSrc src then (w.count Reg.MIR_STALE_REFUSED).complete src (wireTag op 0 bytes) stStale 0 0
  else act w

/-- A request leaves its source's waiting set: a host entry has arrived, or a message has acted, and is answered later. -/
def Work.arrive (w : Work) (src : Src) : Work :=
  match src with
  | .conn id msn =>
    ({ w with n.tp.inMsgs := w.n.tp.inMsgs.map fun m : InMsg => if m.conn = id && m.msn = msn then { m with acted := true } else m } : Work).msgsGoOn
  | .queue q e =>
    let x := w.queueOf q
    w.setQueue q { x with entries := x.entries.map fun h => if h.idx = e then { h with arrived := true } else h }

end Sys2Proof.Machine
end

