-- ==== Sys2Proof/Machine/Crypto.lean ====
section
/-!
DEFINITION. Sys2Proof/Machine/Crypto.lean: the standard functions the rules name: CRC-32C, SHA3-256 (FIPS 202), AES-256
(FIPS 197), AES-256-GCM (SP 800-38D) and the AES key wrap of RFC 3394. Written from those standards (PRESUMED, log 9).
-/

namespace Sys2Proof.Crypto

/-! ## CRC-32C -/

/-- One bit step of CRC-32C, reflected polynomial 0x82F63B78. -/
def crcBit (c : BitVec 32) : BitVec 32 := if c.getLsbD 0 then (c >>> 1) ^^^ 0x82F63B78#32 else c >>> 1

/-- One byte step. -/
def crcByte (c : BitVec 32) (b : Byte) : BitVec 32 :=
  crcBit (crcBit (crcBit (crcBit (crcBit (crcBit (crcBit (crcBit (c ^^^ b.zeroExtend 32))))))))

/-- CRC-32C of a byte string: initial value and final XOR all ones. -/
def crc32c (bs : Bytes) : BitVec 32 := ~~~ (bs.foldl crcByte 0xFFFFFFFF#32)

/-! ## SHA3-256

A Keccak state is held sheet by sheet: five sheets (x), each of five lanes (y) of 64 bits (FIPS 202, 3.1). -/

/-- The sheets of a state from its lane (x, y). -/
def sheets (lane : Nat → Nat → BitVec 64) : List (List (BitVec 64)) :=
  [0, 1, 2, 3, 4].map fun x => [0, 1, 2, 3, 4].map (lane x)

/-- The lane (x, y), with x and y modulo 5. -/
def laneAt (a : List (List (BitVec 64))) (x y : Nat) : BitVec 64 := ((((a[x % 5]?).getD [])[y % 5]?).getD 0)

/-- Step θ: each sheet gains the parity of the sheet before it and the rotated parity of the sheet after it. -/
def stepTheta (a : List (List (BitVec 64))) : List (List (BitVec 64)) :=
  let par := a.map fun sh => sh.foldl (· ^^^ ·) 0
  let before := par.drop 4 ++ par.take 4
  let after := (par.drop 1 ++ par.take 1).map fun p => p.rotateLeft 1
  (a.zip (before.zip after)).map fun e => e.1.map fun l => l ^^^ (e.2.1 ^^^ e.2.2)

/-- The walk of step ρ: from (1, 0), the lane met at step t turns by (t + 1)(t + 2)/2 bits, and (x, y) is followed by (y, 2x + 3y). -/
def rhoWalk : Nat → Nat → Nat × Nat → List ((Nat × Nat) × Nat)
  | 0, _, _ => []
  | n + 1, t, (x, y) => ((x, y), (t + 1) * (t + 2) / 2 % 64) :: rhoWalk n (t + 1) (y, (2 * x + 3 * y) % 5)

/-- How far each lane turns; lane (0, 0) stays. -/
def rhoTurns : List ((Nat × Nat) × Nat) := rhoWalk 24 0 (1, 0)

/-- Steps ρ and π: the lane (x, y) turns and goes to (y, 2x + 3y). -/
def stepRhoPi (a : List (List (BitVec 64))) : List (List (BitVec 64)) :=
  let moved := rhoTurns.map fun e => ((e.1.2, (2 * e.1.1 + 3 * e.1.2) % 5), (laneAt a e.1.1 e.1.2).rotateLeft e.2)
  sheets fun x y => ((moved.find? fun m => m.1 = (x, y)).map (·.2)).getD (laneAt a x y)

/-- Step χ: each sheet meets the two that follow it, lane by lane. -/
def stepChi (a : List (List (BitVec 64))) : List (List (BitVec 64)) :=
  sheets fun x y => laneAt a x y ^^^ (laneAt a (x + 2) y &&& ~~~(laneAt a (x + 1) y))

/-- One step of the shift register that forms the round constants: x^8 + x^6 + x^5 + x^4 + 1 (FIPS 202, algorithm 5). -/
def rcShift (r : Byte) : Byte := (r <<< 1) ^^^ (if r.getLsbD 7 then 0x71#8 else 0#8)

/-- A round constant from the register: bit 2^j − 1 is the register's output at step j of the round; and the register after its seven
steps. -/
def roundConst (r : Byte) : BitVec 64 × Byte :=
  (List.range 7).foldl (fun e j => (if e.2.getLsbD 0 then e.1 ||| (1#64 <<< (2 ^ j - 1)) else e.1, rcShift e.2)) (0#64, r)

/-- `n` rounds from the register's state on; step ι gives lane (0, 0) the round constant. -/
def keccakRounds : Nat → Byte → List (List (BitVec 64)) → List (List (BitVec 64))
  | 0, _, a => a
  | n + 1, r, a =>
    let k := roundConst r
    keccakRounds n k.2 ((stepChi (stepRhoPi (stepTheta a))).modify 0 fun sh => sh.modify 0 (· ^^^ k.1))

/-- A block of 136 bytes from what is left of the message: the last block, which the message does not fill, ends with the suffix 01, a
1 bit, zeros, and a 1 bit. -/
def sha3Block (part : Bytes) : Bytes :=
  if part.length < 136 then ((part ++ 0x06#8 :: List.replicate 135 0#8).take 136).modify 135 (· ^^^ 0x80#8) else part

/-- Absorb a block into the first 17 lanes. -/
def absorb (a : List (List (BitVec 64))) (blk : Bytes) : List (List (BitVec 64)) :=
  keccakRounds 24 1#8 (sheets fun x y =>
    if x + 5 * y < 17 then laneAt a x y ^^^ BitVec.ofNat 64 (leVal ((blk.drop (8 * (x + 5 * y))).take 8)) else laneAt a x y)

/-- SHA3-256, as its 32 bytes: the first four lanes once every block is absorbed. -/
def sha3 (bs : Bytes) : Bytes :=
  let blocks := (List.range (bs.length / 136 + 1)).map fun k => sha3Block ((bs.drop (136 * k)).take 136)
  (((blocks.foldl absorb (sheets fun _ _ => 0)).take 4).map fun sh => leBytes 8 (sh.headD 0).toNat).flatten

/-- SHA3-256 as a 256-bit value, byte 0 lowest. -/
def sha3v (bs : Bytes) : BitVec 256 := BitVec.ofNat 256 (leVal (sha3 bs))

/-- The 32 bytes of a 256-bit value, byte 0 lowest. -/
def bytes32 (v : BitVec 256) : Bytes := leBytes 32 v.toNat

/-! ## AES-256 -/

/-- Multiplication by x in GF(2^8). -/
def xtime (b : Byte) : Byte := (b <<< 1) ^^^ (if b.getLsbD 7 then 0x1B#8 else 0#8)

/-- Multiplication in GF(2^8). -/
def gmul (a b : Byte) : Byte :=
  ((List.range 8).foldl (fun (p : Byte × Byte) i =>
    (if b.getLsbD i then p.1 ^^^ p.2 else p.1, xtime p.2)) (0#8, a)).1

/-- Inverse in GF(2^8), a^254. -/
def ginv (a : Byte) : Byte :=
  let a2 := gmul a a
  let a4 := gmul a2 a2
  let a8 := gmul a4 a4
  let a16 := gmul a8 a8
  let a32 := gmul a16 a16
  let a64 := gmul a32 a32
  let a128 := gmul a64 a64
  gmul a128 (gmul a64 (gmul a32 (gmul a16 (gmul a8 (gmul a4 a2)))))

/-- The S-box: inverse, then the affine map. -/
def sbox (a : Byte) : Byte :=
  let i := ginv a
  i ^^^ i.rotateLeft 1 ^^^ i.rotateLeft 2 ^^^ i.rotateLeft 3 ^^^ i.rotateLeft 4 ^^^ 0x63#8

/-- The inverse S-box. -/
def sboxInv (a : Byte) : Byte :=
  let b := a ^^^ 0x63#8
  ginv (b.rotateLeft 1 ^^^ b.rotateLeft 3 ^^^ b.rotateLeft 6)

/-- XOR of byte strings, as long as the first. -/
def xorB (a b : Bytes) : Bytes := (a.zip (b ++ List.replicate a.length 0#8)).map fun p => p.1 ^^^ p.2

/-- Byte `i`. -/
def at0 (l : Bytes) (i : Nat) : Byte := (l[i]?).getD 0

/-- Next key word of AES-256 from the words so far, newest first. -/
def nextWord (ws : List Bytes) (i : Nat) : Bytes :=
  let t := (ws[0]?).getD []
  let t :=
    if i % 8 = 0 then
      let r := [at0 t 1, at0 t 2, at0 t 3, at0 t 0].map sbox
      let rc := (List.range (i / 8 - 1)).foldl (fun b _ => xtime b) 1#8
      xorB r [rc, 0, 0, 0]
    else if i % 8 = 4 then t.map sbox else t
  xorB ((ws[7]?).getD []) t

/-- Round keys of AES-256 (15 of 16 bytes). -/
def expandKey (key : Bytes) : List Bytes :=
  let w0 := ((List.range 8).map fun i => (key.drop (4 * i)).take 4).reverse
  let ws := ((List.range 52).foldl (fun ws i => nextWord ws (i + 8) :: ws) w0).reverse
  (List.range 15).map fun r => ((ws.drop (4 * r)).take 4).flatten

/-- ShiftRows and its inverse on a column-major state. -/
def shiftRows (s : Bytes) : Bytes := (List.range 16).map fun i => at0 s ((i + 4 * (i % 4)) % 16)
def unshiftRows (s : Bytes) : Bytes := (List.range 16).map fun i => at0 s ((i + 16 - 4 * (i % 4)) % 16)

/-- MixColumns with the coefficients of one row. -/
def mixWith (m : List Byte) (s : Bytes) : Bytes :=
  (List.range 16).map fun i =>
    let c := i / 4 * 4
    (List.range 4).foldl (fun acc k => acc ^^^ gmul (at0 s (c + k)) (at0 m ((k + 4 - i % 4) % 4))) 0#8

/-- AES-256 encryption of one block. -/
def aesEnc (rks : List Bytes) (blk : Bytes) : Bytes :=
  let s := xorB blk ((rks[0]?).getD [])
  let s := (List.range 13).foldl (fun s r =>
    xorB (mixWith [2, 3, 1, 1] (shiftRows (s.map sbox))) ((rks[r + 1]?).getD [])) s
  xorB (shiftRows (s.map sbox)) ((rks[14]?).getD [])

/-- AES-256 decryption of one block. -/
def aesDec (rks : List Bytes) (blk : Bytes) : Bytes :=
  let s := xorB blk ((rks[14]?).getD [])
  let s := (List.range 13).foldl (fun s r =>
    mixWith [14, 11, 13, 9] (xorB ((unshiftRows s).map sboxInv) ((rks[13 - r]?).getD []))) s
  xorB ((unshiftRows s).map sboxInv) ((rks[0]?).getD [])

/-! ## GCM -/

/-- A big-endian value. -/
def beVal (bs : Bytes) : Nat := bs.foldl (fun v b => v * 256 + b.toNat) 0

/-- The `n` big-endian bytes of a value. -/
def beBytes (n v : Nat) : Bytes := (leBytes n v).reverse

/-- Multiplication in GF(2^128), bit 0 the most significant (SP 800-38D). -/
def gfMul (x y : BitVec 128) : BitVec 128 :=
  ((List.range 128).foldl (fun (p : BitVec 128 × BitVec 128) i =>
    (if x.getMsbD i then p.1 ^^^ p.2 else p.1,
     if p.2.getLsbD 0 then (p.2 >>> 1) ^^^ (0xE1#128 <<< 120) else p.2 >>> 1)) (0#128, y)).1

/-- GHASH over whole 16-byte blocks. -/
def ghash (h : BitVec 128) : Nat → BitVec 128 → Bytes → BitVec 128
  | 0, y, _ => y
  | k + 1, y, bs => ghash h k (gfMul (y ^^^ BitVec.ofNat 128 (beVal (bs.take 16))) h) (bs.drop 16)

/-- Pad with zeros to whole blocks. -/
def pad16 (bs : Bytes) : Bytes := bs ++ List.replicate ((16 - bs.length % 16) % 16) 0#8

/-- Counter-mode keystream applied from counter `c` on. -/
def ctr (rks : List Bytes) (iv : Bytes) : Nat → Nat → Bytes → Bytes
  | 0, _, _ => []
  | k + 1, c, bs =>
    xorB (bs.take 16) (aesEnc rks (iv ++ beBytes 4 c)) ++ ctr rks iv k (c + 1) (bs.drop 16)

/-- The tag of AES-256-GCM over additional data and ciphertext, for a 96-bit nonce. -/
def gcmTag (rks : List Bytes) (nonce aad ct : Bytes) : Bytes :=
  let h := BitVec.ofNat 128 (beVal (aesEnc rks (List.replicate 16 0#8)))
  let d := pad16 aad ++ pad16 ct ++ beBytes 8 (aad.length * 8) ++ beBytes 8 (ct.length * 8)
  let s := ghash h (d.length / 16) 0#128 d
  xorB (beBytes 16 s.toNat) (aesEnc rks (nonce ++ beBytes 4 1))

/-- AES-256-GCM encryption: ciphertext and tag. -/
def gcmSeal (key : BitVec 256) (nonce aad pt : Bytes) : Bytes × Bytes :=
  let rks := expandKey (bytes32 key)
  let ct := ctr rks nonce (ceilDiv pt.length 16) 2 pt
  (ct, gcmTag rks nonce aad ct)

/-- AES-256-GCM decryption: the plaintext if the tag is right. -/
def gcmOpen (key : BitVec 256) (nonce aad ct tag : Bytes) : Option Bytes :=
  let rks := expandKey (bytes32 key)
  if gcmTag rks nonce aad ct = tag then some (ctr rks nonce (ceilDiv ct.length 16) 2 ct) else none

/-! ## Key wrap (RFC 3394) -/

/-- One unwrap step: A and the list of 8-byte registers, for counter `t` and register `i`. -/
def unwrapStep (rks : List Bytes) (st : Bytes × List Bytes) (t i : Nat) : Bytes × List Bytes :=
  let b := aesDec rks (xorB st.1 (beBytes 8 t) ++ (st.2[i]?).getD [])
  (b.take 8, st.2.set i (b.drop 8))

/-- Unwrap 40 bytes into a 256-bit key; none when the integrity value is wrong. -/
def keyUnwrap (kek : BitVec 256) (bs : Bytes) : Option (BitVec 256) :=
  let rks := expandKey (bytes32 kek)
  let r := (List.range 4).map fun i => (bs.drop (8 + 8 * i)).take 8
  let st := (List.range 24).foldl (fun st k =>
    let t := 24 - k
    unwrapStep rks st t ((t - 1) % 4)) (bs.take 8, r)
  if bs.length = 40 ∧ st.1 = List.replicate 8 0xA6#8 then some (BitVec.ofNat 256 (leVal st.2.flatten)) else none

/-- The bytes of an ASCII text. -/
def ascii (t : String) : Bytes := t.toList.map fun c => BitVec.ofNat 8 c.toNat

/-- The key check value of a key (R359): bytes 0 to 7 of SHA3-256 of "KZ8640 KCV" and the key. -/
def kcv (key : BitVec 256) : Bytes := (sha3 (ascii "KZ8640 KCV" ++ bytes32 key)).take 8

end Sys2Proof.Crypto
end

