-- ==== Sys2Proof/Machine/Power.lean ====
section
/-!
DEFINITION. Sys2Proof/Machine/Power.lean: power cap, estimation, allowances, droop, thermal control, margins and
calibration (spec/14).
-/

namespace Sys2Proof.Machine

open Sys2Proof.Crypto (sha3 bytes32)

/-! ## The cap -/

/-- The effective cap in watts (R414). -/
def Work.capEff (w : Work) : Rat :=
  let lim : Rat := w.get Reg.PWR_LIMIT_W
  let base : Rat := if w.flag Reg.PWR_VALID then w.get Reg.PWR_CAP_W else w.get Reg.PWR_FALLBACK_W
  let c := min base lim
  if w.flag Reg.CAL_BUILTIN then min c (lim / 2) else c

/-- The cap in use (R414, R417): the descending cap while it lasts. -/
def Work.capInUse (w : Work) : Rat :=
  match w.n.pw.descent with
  | some d => max d.cap (d.p0 - d.dW * d.k)
  | none => w.capEff

/-- The slope S of R421: PWR_RAMP.SLOPE and the accepted budget's RAMP, halved for 1 ms after a droop excess (R428). -/
def Work.slopeNow (w : Work) : Nat :=
  let s := w.acting Reg.PWR_SLOPE
  let s := if w.flag Reg.PWR_VALID then min s w.n.pw.ramp else s
  if w.ps < w.n.pw.halfUntil then s / 2 else s

/-- A non-negative rational rounded down. -/
def floorNat (r : Rat) : Nat := r.floor.toNat

/-- The causes of R427 now in force, as event 0x4C06 names them. -/
def Work.cappedCauses (w : Work) : Nat :=
  (if w.capEff < 1100 then 1 else 0) + (if w.flag Reg.CAL_BUILTIN then 2 else 0) +
  (if w.get Reg.THM_C_T < 1024 ∨ w.get Reg.THM_C_H < 1024 then 4 else 0) + (if w.flag Reg.CST_DEGRADED then 8 else 0)

/-- A cause of R427 that holds within a tick is remembered to the end of the tick: the boundary after it finds the node Capped. -/
def Work.noteCapped (w : Work) : Work :=
  if w.cappedCauses = 0 then w else { w with n.pw.cappedAt := some (w.ps + w.tickPs) }

/-- Show the cap in use in PWR_CAP.EFF_W. -/
def Work.showCap (w : Work) : Work := w.set Reg.PWR_EFF_W (floorNat w.capInUse)

/-- The effective cap may have changed (R417): a lower one comes in as a descending cap from the latest estimate, a higher
one is in force at once. A cap below 1,100 W that it replaces has held until now (R427). -/
def Work.capChange (w : Work) : Work :=
  let c := w.capEff
  let w := if w.n.pw.capNow < 1100 then { w with n.pw.cappedAt := some (w.ps + w.tickPs) } else w
  let w :=
    if c < w.n.pw.capNow then
      let d : Descent := { p0 := w.n.pw.est, dW := w.n.pw.dyn * w.slopeNow / 1024, k := 0, cap := c }
      { w with n.pw.descent := if d.p0 ≤ c then none else some d, n.pw.capNow := c }
    else if w.n.pw.capNow < c then { w with n.pw.descent := none, n.pw.capNow := c }
    else w
  w.showCap.noteCapped

/-- The 32-byte power budget record (R415): SEQ, CAP_W, RAMP, VALID_TICK. -/
structure PowerBudget where
  seq : Nat
  capW : Nat
  ramp : Nat
  valid : Nat
  ok : Bool
  deriving DecidableEq, Repr

/-- Read a budget record; `ok` is test 1 of R415: every field in range, every reserved byte zero. -/
def PowerBudget.read (b : Bytes) : PowerBudget :=
  let capW := leVal ((b.drop 4).take 2)
  let ramp := leVal ((b.drop 6).take 2)
  let valid := leVal ((b.drop 8).take 8)
  { seq := leVal (b.take 4), capW := capW, ramp := ramp, valid := valid
    ok := b.length = 32 && 400 ≤ capW && capW ≤ 1200 && 16 ≤ ramp && ramp ≤ 256 && valid < 2 ^ 48 &&
      (b.drop 16).all (· = 0) }

/-- The outcome of a budget (R415, R471): 0 accepted, 1 refused for tests 1 or 2, 2 refused for its SEQ only. -/
def Work.budgetVerdict (w : Work) (b : PowerBudget) : Nat :=
  let ahead := ticksTo w.now (BitVec.ofNat 48 b.valid)
  if !b.ok then 1
  else if ahead = 0 ∨ 2 ^ 32 < ahead then 1
  else
    let d := (b.seq + 2 ^ 32 - w.get Reg.PWR_SEQ) % 2 ^ 32
    if w.n.pw.anyBudget ∧ ¬ (1 ≤ d ∧ d < 2 ^ 31) then 2 else 0

/-! ## Estimation -/

/-- Little-endian field of the calibration set in use. -/
def calField (c : Bytes) (off len : Nat) : Nat := leVal ((c.drop off).take len)

/-- Static power of a die at 25 °C and 85 °C in watts, and the power of one lane in watts (R418, R436, R438). -/
def Work.staticOf (w : Work) (die : Nat) : Rat × Rat × Rat :=
  match w.n.pw.cal with
  | some c => ((calField c (0x100 + die * 4) 2 : Rat) / 16, (calField c (0x102 + die * 4) 2 : Rat) / 16,
      (calField c 0x108 2 : Rat) / 1000)
  | none =>
    let s := Config.builtinStatic die
    ((s.1 : Rat) / 16, (s.2 : Rat) / 16, (Config.builtinLane : Rat) / 1000)

/-- The weight of counter `i` of a die, 1/16 pJ (R418). -/
def Work.weightOf (w : Work) (die i : Nat) : Nat :=
  match w.n.pw.cal with
  | some c => calField c (0x40 + (die * 48 + i) * 2) 2
  | none => Config.builtinWeight die i % 2 ^ 16

/-- Trained lanes of a die (R418): of a port whose halves have trained, eight or four for each, and the spare, which is kept trained
(R239), less the lanes that did not converge or have failed. -/
def Work.trainedLanes (w : Work) (die : Nat) : Nat :=
  (List.range 16).foldl (fun n i =>
    let p := die * 16 + i
    let split := w.flag Reg.LP_SPLIT p
    let up := ((if split then [(0, Reg.LP_STATE_A), (1, Reg.LP_STATE_B)] else [(0, Reg.LP_STATE_A)]).filter fun e =>
      decide (3 ≤ w.get e.2 p)).map (·.1)
    let dark := (up.flatMap fun h => (atD w.n.lk.halves (2 * p + h) (Half.reset p h)).dark).dedup
    n + (if up.isEmpty then 0 else up.length * (if split then 4 else 8) + 1 - dark.length)) 0

/-- The hottest of a list of readings, 1/8 °C. -/
def hottest (l : List Int) : Int := l.foldl max (l.headD 0)

/-- Static power of the node (R418). -/
def Work.staticPower (w : Work) : Rat :=
  (List.range 2).foldl (fun p d =>
    let s := w.staticOf d
    let t : Rat := ((hottest ((w.n.pw.temps.drop (16 * d)).take 16) : Int) : Rat) / 8
    p + s.1 + (s.2.1 - s.1) * (t - 25) / 60 + w.trainedLanes d * s.2.2) 0

/-- Σ w c / (16 × 2.0 µs) in watts (R418). -/
def Work.dynamicPower (w : Work) (counts : Nat → Nat → Nat) : Rat :=
  ((List.range 2).foldl (fun p d =>
    (List.range 48).foldl (fun p i => p + w.weightOf d i * counts d i) p) 0 : Nat) / (32000000 : Rat)

/-- Does an estimate still fall in the running tick (R422)? -/
def Work.estimateDue (w : Work) : Bool := w.n.pw.nextEst < w.ps + w.tickPs

/-- The time of an estimate made now (R418): when it was due, if that lies in the running tick, or the start of the tick (DEDUCED,
log 149). -/
def Work.estAt (w : Work) : Nat := if w.ps ≤ w.n.pw.nextEst ∧ w.estimateDue then w.n.pw.nextEst else w.ps

/-- One clamp's value after an estimate (R429): it falls by STEP, down to 64, at the threshold; it rises by S below it less
the hysteresis. Temperatures in 1/8 °C. -/
def clampNext (cur : Nat) (hot thr : Int) (hyst step s : Nat) : Nat :=
  if thr * 8 ≤ hot then min cur (max 64 (cur - step))
  else if hot < (thr - hyst) * 8 then min 1024 (cur + s) else cur

/-- Both clamps after an estimate on the latest readings (R429, R438: 5 °C lower on the built-in values). -/
def Work.clampsNext (w : Work) : Nat × Nat :=
  let low : Int := if w.flag Reg.CAL_BUILTIN then 5 else 0
  let hyst := w.get Reg.THM_HYST_C
  let step := w.get Reg.THM_STEP
  (clampNext (w.get Reg.THM_C_T) (hottest (w.n.pw.temps.take 32)) ((w.get Reg.THM_THROTTLE_C : Int) - low) hyst step w.slopeNow,
   clampNext (w.get Reg.THM_C_H) (hottest (w.n.pw.temps.drop 32)) ((w.get Reg.THM_HBM_C : Int) - low) hyst step w.slopeNow)

/-- The allowances expected at the next freeze, in 1/1024: A_P, C_T, C_H (R423). -/
def Work.expected (w : Work) : Nat × Nat × Nat :=
  if w.flag Reg.PWR_DECIDED then (w.get Reg.PWR_A_NEXT, w.n.pw.ctNext, w.n.pw.chNext)
  else if w.estimateDue then
    let c := w.clampsNext
    (w.get Reg.PWR_A_P - w.slopeNow, min c.1 (w.get Reg.THM_C_T), min c.2 (w.get Reg.THM_C_H))
  else (w.get Reg.PWR_A_P, w.get Reg.THM_C_T, w.get Reg.THM_C_H)

/-- Form QAD_ALLOW from the expected values (R423). -/
def Work.showAllow (w : Work) : Work :=
  let e := w.expected
  let w := w.set Reg.QAD_A_ARRAY (min e.1 e.2.1 / 4)
  w.set Reg.QAD_A_STORE (min e.1 e.2.2 / 4)

/-- Take a budget (R415 to R417): accepted, or refused and counted. -/
def Work.takeBudget (w : Work) (b : PowerBudget) : Work :=
  if w.budgetVerdict b ≠ 0 then w.count Reg.PWR_REFUSED
  else
    let w := w.count Reg.PWR_BUDGETS
    let w := w.set Reg.PWR_SEQ b.seq
    let w := w.set Reg.PWR_CAP_W b.capW
    let w := w.setFlag Reg.PWR_CLAMPED (w.get Reg.PWR_LIMIT_W < b.capW)
    let w := w.set Reg.PWR_VALID_LO (b.valid % 2 ^ 32)
    let w := w.set Reg.PWR_VALID_HI (b.valid / 2 ^ 32)
    let w := w.set Reg.PWR_VALID 1
    let w := if w.n.pw.expired then w.log { code := 0x4C02, page := 2, detail := b.seq } else w
    let w := { w with n.pw.anyBudget := true, n.pw.ramp := b.ramp, n.pw.expired := false }
    w.capChange.showAllow

/-- The last tick in which the accepted budget holds. -/
def Work.validTick (w : Work) : Tick := BitVec.ofNat 48 (w.get Reg.PWR_VALID_HI * 2 ^ 32 + w.get Reg.PWR_VALID_LO)

/-- `BUDGET_EXPIRED` (R416): at the end of VALID_TICK the budget expires and the fallback cap descends. -/
def execBudgetExpired (s : State) : Host.Outcome State Fault Refusal :=
  run s fun w =>
    if w.flag Reg.PWR_VALID ∧ Tick.earlier w.validTick w.now then
      let w := w.set Reg.PWR_VALID 0
      let w := w.count Reg.PWR_EXPIRED
      let w := w.log { code := 0x4C01, page := 2, detail := w.get Reg.PWR_SEQ }
      let w := w.isr 2 16
      ({ w with n.pw.expired := true }).capChange.showAllow
    else w

/-- Set the clamps in force; THROTTLING follows (R429, R491). -/
def Work.setClamps (w : Work) (ct ch : Nat) : Work :=
  let was := w.flag Reg.THM_THROTTLING
  let w := if w.get Reg.THM_C_T < 1024 ∨ w.get Reg.THM_C_H < 1024 then w.noteCapped else w
  let w := w.set Reg.THM_C_T ct
  let w := w.set Reg.THM_C_H ch
  let now := decide (ct < 1024 ∨ ch < 1024)
  let w := (w.setFlag Reg.THM_THROTTLING now).noteCapped
  if now ∧ ¬ was then
    let dieHot := hottest (w.n.pw.temps.take 32)
    let list := if ct < 1024 then w.n.pw.temps.take 32 else w.n.pw.temps.drop 32
    let hot := if ct < 1024 then dieHot else hottest list
    let i := (list.findIdx (· = hot)) + (if ct < 1024 then 0 else 32)
    let w := w.count Reg.THM_THROTTLES
    (w.log { code := 0x4D01, page := 3, detail := i }).isr 3 16
  else w

/-- A junction at 105 °C (R430): both clamps fall by four steps in the middle of the tick. -/
def Work.critical (w : Work) : Work :=
  let dies := w.n.pw.temps.take 32
  if dies.any (840 ≤ ·) then
    let w :=
      if w.flag Reg.THM_CRITICAL then w
      else
        let w := w.set Reg.THM_CRITICAL 1
        let w := w.count Reg.THM_CRITICALS
        (w.report { code := 0x4D02, page := 3, detail := dies.findIdx (840 ≤ ·) }).isr 3 17
    let fall := 4 * w.get Reg.THM_STEP
    let w := w.setClamps (w.get Reg.THM_C_T - fall) (w.get Reg.THM_C_H - fall)
    { w with n.pw.ctNext := min w.n.pw.ctNext (w.get Reg.THM_C_T), n.pw.chNext := min w.n.pw.chNext (w.get Reg.THM_C_H) }
  else w.set Reg.THM_CRITICAL 0

/-- The emergency clamp (R425): an estimate over the cap in use by more than OVER lowers A_P by 4S at once. -/
def Work.emergency (w : Work) (cap : Rat) : Work :=
  if w.flag Reg.PWR_EMERG_EN ∧ cap * (1000 + w.get Reg.PWR_OVER) / 1000 < w.n.pw.est then
    let a := w.get Reg.PWR_A_P - 4 * w.slopeNow
    let w := w.set Reg.PWR_A_P a
    let w := w.set Reg.PWR_A_NEXT (min (w.get Reg.PWR_A_NEXT) a)
    let w := w.count Reg.PWR_EMERG
    (w.log { code := 0x4C03, page := 2, detail := floorNat (w.n.pw.est * 4) }).isr 2 17
  else w

/-- The target allowance of R421. -/
def Work.targetAllow (w : Work) : Nat :=
  if w.n.pw.dyn ≤ 0 then 1024
  else
    let g : Rat := (w.acting Reg.PWR_GUARD : Rat) / 1000
    min 1024 (floorNat ((w.capEff * (1 - g) - w.n.pw.stat) * w.get Reg.PWR_A_P / w.n.pw.dyn))

/-- The array rate that the activity allowance in force permits, in 1/256 (R175, R423). -/
def Work.arrayRate (w : Work) : Nat := min (w.get Reg.PWR_A_P) (w.get Reg.THM_C_T) / 4

/-- A die's stretch over the ticks of which it fills the rest (R428): the boundary finds every ACLK cycle of the tick stretched, or, in the
tick in which the stretch began, a free number of them, since DROOP_TRIP gives no time within the tick (log 149). -/
def Work.stretchTick (w : Work) (die cycles : Nat) : Work :=
  if !atD w.n.pw.tripped die false then w
  else
    let full := cycles * 4 / 5
    let d := w.draw
    let (n, w) := if atD w.n.pw.tripNew die false then (d.1 % (full + 1), d.2) else (full, w)
    { w with n.pw.stretched := w.n.pw.stretched.modify die (· + n), n.pw.tripSpent := w.n.pw.tripSpent.modify die (· + n)
             n.pw.tripNew := w.n.pw.tripNew.set die false }

/-- What the boundary does to the allowances (R422, R428): the decided values take effect; a tick whose die stretched more
than 15 % of its cycles is counted and halves S for 1 ms. -/
def Work.powerBoundary (w : Work) (tickPs : Nat) : Work :=
  let w :=
    if w.flag Reg.PWR_DECIDED then
      let w := w.set Reg.PWR_A_P (w.get Reg.PWR_A_NEXT)
      let w := w.setClamps w.n.pw.ctNext w.n.pw.chNext
      w.set Reg.PWR_DECIDED 0
    else w
  let mhz := if w.flag Reg.CL_HALF_CLOCK 0 then 1200 else 2400
  let cycles := tickPs * mhz / 1000000
  let w := (List.range 2).foldl (fun w d => w.stretchTick d cycles) w
  let w := (List.range 2).foldl (fun w d =>
    if cycles * 15 < atD w.n.pw.stretched d 0 * 100 then
      let w := w.count Reg.PWR_DROOP_OVER
      let w := w.log { code := 0x4C05, page := 2, detail := d }
      { w with n.pw.halfUntil := w.ps + 1000000000 }
    else w) w
  ({ w with n.pw.stretched := [0, 0] }).showAllow

/-- Full and Capped at a boundary (R427): Capped while a cause has held within the last millisecond. -/
def Work.cappedBoundary (w : Work) : Work :=
  let c := w.cappedCauses
  let w := if c ≠ 0 then { w with n.pw.cappedAt := some w.ps } else w
  let held : Bool := match w.n.pw.cappedAt with
    | some t => decide (w.ps < t + 1000000000) || c != 0
    | none => false
  if w.nodeState = 2 ∧ held then (w.setNodeState 3).log { code := 0x4C06, page := 2, detail := c }
  else if w.nodeState = 3 ∧ ¬ held then (w.setNodeState 2).log { code := 0x4C06, page := 2, detail := c }
  else w

/-! ## Telemetry, temperature, droop -/

/-- Nominal voltage of MAR rail index `r` in mV, in the order of R503 (DESIGN CHOICE, log 10). -/
def railNominal (r : Nat) : Nat := atD [750, 750, 800, 1050, 900, 1200, 1100, 1800] r 0

/-- The correction of a regulator's reported input power (R436, R437). -/
def Work.telCorr (w : Work) (e : Nat) : Rat :=
  match w.n.pw.cal with
  | some c => (calField c (0x1E0 + 4 * e) 4 : Rat) / 32768
  | none => 1

/-- The last reading of a rail and its lowest of the millisecond, and whether it is too low (R434). An entry of the prompt book has no code
(R498), so the register alone counts it (log 49). -/
def Work.railRead (w : Work) (e mv low : Nat) : Work :=
  let r := w.get Reg.MG_PMB_RAIL 0 e
  let w := w.set Reg.MAR_MV mv 0 r
  let w := w.set Reg.MAR_MIN_MV low 0 r
  if low + w.get Reg.MAR_SUP_MV < railNominal r then w.count Reg.MAR_SUP_EVENTS else w

/-- `TELEMETRY_TRIM` (R419, R434, R476): the two transactions of each listed regulator; the gain is trimmed on the input powers, and the
rails are recorded. -/
def execTelemetryTrim (readings : List PmbReading) (s : State) : Host.Outcome State Fault Refusal :=
  run s fun w =>
    if !w.flag Reg.GLB_FW_RUNNING then w
    else
      let listed := (List.range 16).filter fun e => w.flag Reg.MG_PMB_PRESENT 0 e
      let powerOf := fun e => (readings.find? fun r => r.entry = e).bind (·.power)
      let voltsOf := fun e => (readings.find? fun r => r.entry = e).bind (·.volts)
      let failed := listed.filter fun e => (powerOf e).isNone
      let w := w.count Reg.MG_PMB_FAIL (failed.length + (listed.filter fun e => (voltsOf e).isNone).length)
      let w := listed.foldl (fun w e =>
        match voltsOf e with
        | some (mv, low) => w.railRead e mv low
        | none => w) w
      let window : List Rat := w.n.pw.window
      let w := { w with n.pw.window := [] }
      match failed with
      | e :: _ =>
        let k : Nat := w.n.pw.trimFails + 1
        let w := { w with n.pw.trimFails := k }
        let w := w.count Reg.PWR_TEL_FAIL
        if k = 3 then w.log { code := 0x4C04, page := 2, detail := e / 8 * 256 + e } else w
      | [] =>
        let total : Rat := listed.foldl (fun t e => t + ((powerOf e).getD 0 : Rat) * w.telCorr e) 0
        let w := { w with n.pw.trimFails := 0 }
        let w := w.set Reg.PWR_TEL (min (floorNat total) 8191)
        let sum : Rat := window.foldl (fun a b => a + b) 0
        let mean : Rat := sum / (window.length : Rat)
        if w.flag Reg.PWR_TRIM_EN && decide ((0 : Rat) < mean) && !listed.isEmpty then
          let tel : Rat := total / 4
          let g := w.n.pw.gain * (1 + (tel / mean - 1) / 4)
          let g := min (5 / 4) (max (3 / 4) g)
          ({ w with n.pw.gain := g }).set Reg.PWR_GAIN (floorNat (g * 16384))
        else w

/-- Each die sensor's reading with its gain and its offset (R436, R437), in 1/8 °C; as it is while no set is loaded. -/
def Work.trimTemps (w : Work) (temps : List Int) : List Int :=
  match w.n.pw.cal with
  | none => temps
  | some c => temps.mapIdx fun i t =>
    let offset := ofField 16 (calField c (0x140 + 4 * i) 2)
    ((t : Rat) * (calField c (0x142 + 4 * i) 2 : Nat) / 32768 + (offset : Rat) / 2).floor

/-- `HBM_TEMP_READ` (R429): the eight stacks' temperatures, 1/8 °C. -/
def execHbmTempRead (temps : List Int) (s : State) : Host.Outcome State Fault Refusal :=
  run s fun w =>
    let t := (temps.take 8) ++ List.replicate (8 - temps.length) 0
    let w := { w with n.pw.temps := w.n.pw.temps.take 32 ++ t }
    let w := (List.range 8).foldl (fun w i => w.set Reg.THM_TEMP (toField 12 (atD t i 0)) 0 (32 + i)) w
    (w.set Reg.THM_MAX_HBM (toField 8 (hottest t / 8))).showAllow

/-- A signed byte of the calibration set. -/
def calSigned (c : Bytes) (off len : Nat) : Int := ofField (8 * len) (calField c off len)

/-- The voltage below which a sensor of a die trips, in mV, with the trim of its reading (R428, R436). -/
def Work.droopAt (w : Work) (die sensor : Nat) : Int :=
  let trim : Int := match w.n.pw.cal with
    | some c => calSigned c (0x1C0 + die * 16 + sensor) 1
    | none => 0
  (railNominal die : Int) - w.get Reg.PWR_THR_MV - trim

/-- `DROOP_TRIP` (R428): a sensor whose local core voltage is below its threshold trips: within 5 ns the die lengthens its core clocks by
25 %. -/
def execDroopTrip (sense : DroopSense) (s : State) : Host.Outcome State Fault Refusal :=
  run s fun w =>
    let die := sense.die
    if die < 2 ∧ sense.sensor < 16 ∧ (sense.mv : Int) < w.droopAt die sense.sensor ∧ ¬ atD w.n.pw.tripped die false then
      ({ w with n.pw.tripped := w.n.pw.tripped.set die true, n.pw.tripNew := w.n.pw.tripNew.set die true
                n.pw.tripSpent := w.n.pw.tripSpent.set die 0 }).emit (.stretch die true)
    else w

/-- `DROOP_RELEASE` (R428): at least 64 cycles after the trip, with no sensor of the die tripped, stretching ends; the stretched ACLK
cycles are counted, and those that the boundaries since have not seen belong to the running tick. -/
def execDroopRelease (die cycles : Nat) (s : State) : Host.Outcome State Fault Refusal :=
  run s fun w =>
    if die < 2 ∧ atD w.n.pw.tripped die false ∧ 64 ≤ cycles then
      let w := w.count (if die = 0 then Reg.PWR_STRETCH0 else Reg.PWR_STRETCH1) cycles
      let rest := cycles - atD w.n.pw.tripSpent die 0
      ({ w with n.pw.tripped := w.n.pw.tripped.set die false, n.pw.tripNew := w.n.pw.tripNew.set die false
                n.pw.stretched := w.n.pw.stretched.set die (atD w.n.pw.stretched die 0 + rest) }).emit (.stretch die false)
    else w

/-- `D2D_DEGRADED` (R427, event 0x400B): the die-to-die connection runs degraded, or is lost. -/
def execD2dDegraded (lost : Bool) (s : State) : Host.Outcome State Fault Refusal :=
  run s fun w =>
    let w := w.set Reg.CST_DEGRADED 1
    let w := if lost then (w.set Reg.CST_UP 0).set Reg.GLB_D2D_UP 0 else w
    w.noteCapped.capture { code := 0x400B, page := 0x24, detail := w.get Reg.CST_CRC_CNT }

/-! ## Margins -/

/-- `OPTICAL_READ` (R435): transmit and receive power of a port half's engine in 0.01 dBm, or no answer. -/
def execOpticalRead (port half : Nat) (reading : Option (Int × Int)) (s : State) : Host.Outcome State Fault Refusal :=
  run s fun w =>
    let i := port * 2 + half
    if port < 32 ∧ half < 2 ∧ w.flag Reg.MAR_OPT_EN ∧ w.flag Reg.MG_OPT_PRESENT 0 i then
      match reading with
      | some (tx, rx) => (w.set Reg.MAR_TX (toField 16 tx) 0 i).set Reg.MAR_RX (toField 16 rx) 0 i
      | none => ((w.set Reg.MAR_TX 0x8000 0 i).set Reg.MAR_RX 0x8000 0 i).count Reg.MAR_OPT_FAIL
    else w

/-! ## Calibration -/

/-- The checks of R437 in order: 0 for MAGIC, VERSION or LENGTH, 1 for DEVICE_ID, 2 for the digest. -/
def calCheck (c : Bytes) : Option Nat :=
  if c.length ≠ 65536 ∨ calField c 0 4 ≠ 0x4C41435A ∨ calField c 4 2 ≠ 1 ∨ calField c 8 4 ≠ 65536 then some 0
  else if calField c 0x10 16 ≠ Config.deviceId.toNat then some 1
  else if (c.drop 0x20).take 32 ≠ sha3 (c.drop 0x40) then some 2 else none

/-- Flash offset of the calibration set (R436). -/
def calFlash : Nat := 0x04200000

/-- Load the calibration set at boot: weights, sensor trims, lane presets and HBM trims; or fall to the built-in values (R437, R438), with
generic presets and HBM training from the standard's defaults. Measurement slot 2 is extended by the
caller. -/
def Work.loadCal (w : Work) : Work :=
  let c := w.bytes (flashKey calFlash) 65536
  match calCheck c with
  | none =>
    let w := { w with n.pw.cal := some c
                      n.lk.presets := (List.range 288).map fun i => (c.drop (0x340 + 32 * i)).take 32
                      n.pw.hbmTrims := (List.range 512).map fun i => (c.drop (0x2740 + 64 * i)).take 64 }
    let w := w.set Reg.CAL_LOADED 1
    let w := w.setFlag Reg.CAL_FACTORY (calField c 6 2 % 2 = 1)
    let w := w.set Reg.CAL_VERSION (calField c 4 2)
    let w := w.set Reg.THM_TRIMMED 1
    let w := (List.range 8).foldl (fun w i =>
      w.set (atD [Reg.CAL_DIGEST0, Reg.CAL_DIGEST1, Reg.CAL_DIGEST2, Reg.CAL_DIGEST3, Reg.CAL_DIGEST4, Reg.CAL_DIGEST5,
        Reg.CAL_DIGEST6, Reg.CAL_DIGEST7] i Reg.CAL_DIGEST0) (calField c (0x20 + 4 * i) 4)) w
    (List.range 96).foldl (fun w i => w.set Reg.PWR_WEIGHT (w.weightOf (i / 48) (i % 48)) 0 (i / 48 * 64 + i % 48)) w
  | some k =>
    let w := { w with n.pw.cal := none }
    let w := w.set Reg.CAL_BUILTIN 1
    let w := w.set (if k = 0 then Reg.CAL_MISSING else if k = 1 then Reg.CAL_FOREIGN else Reg.CAL_DIGEST_BAD) 1
    let w := w.set Reg.PWR_HALF 1
    let w := (List.range 96).foldl (fun w i => w.set Reg.PWR_WEIGHT (w.weightOf (i / 48) (i % 48)) 0 (i / 48 * 64 + i % 48)) w
    (w.log { code := 0x4F03, page := 5, detail := 2 ^ k }).capChange

/-- A flash write of the calibration set ends (R439): WRITE_DONE, event 0x4F04. -/
def Work.calWriteEnd (w : Work) (fail : Bool) : Work :=
  let w := w.setFlag Reg.CAL_WRITE_FAIL fail
  (w.log { code := 0x4F04, page := 5, detail := if fail then 1 else 0 }).isr 5 16

/-- The 65,536 bytes at an address lie in partition 0's buffer allotment. -/
def Work.inAllotment (w : Work) (p addr len : Nat) : Bool :=
  let base := w.get Reg.PP_ALLOT_BASE_LO p + w.get Reg.PP_ALLOT_BASE_HI p * 2 ^ 32
  match w.n.se.parts.find? fun q => q.id = p with
  | some q => q.allotTop.isSome && base ≤ addr && addr + len ≤ base + q.allotLen
  | none => false

/-- `CAL_WRITE` (R439): CAL_CMD.WRITE with its confirm value checks the new set and starts programming. -/
def execCalWrite (wr : RegWr) (s : State) : Host.Outcome State Fault Refusal :=
  run s fun w =>
    if !(w.addresses wr .CAL [0x110]) then w
    else
      let refuse := fun (w : Work) (code : Nat) =>
        w.capture { code := code, page := 5, arg := wr.off, detail := wr.data.toNat }
      let conf := bitsOf (wr.data.toNat &&& beMask wr.be) 16 16
      if wr.fn ≠ .pf then w
      else if !wrote1 wr Reg.CAL_WRITE then w
      else if conf ≠ 0xCA1B then refuse w 0x4001
      else if w.flag Reg.CAL_WRITING then refuse w 0x4003
      else
        let src := w.get Reg.CAL_SRC_LO + w.get Reg.CAL_SRC_HI * 2 ^ 32
        let c := w.bytes src 65536
        let w := w.count Reg.CAL_WRITES
        if !w.inAllotment 0 src 65536 ∨ (calCheck c).isSome then (w.nameSpan 5 src 65536).calWriteEnd true
        else
          let w := w.set Reg.CAL_WRITING 1
          let w := w.set Reg.CAL_WRITE_FAIL 0
          { (w.zero (flashKey calFlash) 65536) with n.pw.calNew := some c }

/-- `CAL_WRITE_DONE` (R439): the set is read back and awaits reset, or WRITE_FAIL is set. -/
def execCalWriteDone (programmed : Bool) (s : State) : Host.Outcome State Fault Refusal :=
  run s fun w =>
    match w.n.pw.calNew with
    | none => w
    | some c =>
      let w := { w.set Reg.CAL_WRITING 0 with n.pw.calNew := none }
      if programmed then ((w.store (flashKey calFlash) c).set Reg.CAL_PENDING 1).calWriteEnd false
      else w.calWriteEnd true

end Sys2Proof.Machine
end

