-- ==== Sys2Proof/Machine/Store.lean ====
section
/-!
DEFINITION. Sys2Proof/Machine/Store.lean: the central store's address map (R55 to R58), frames and the buddy allocator
(R96), the device reserve (R79), tier-1 and tier-2 space (R65 to R68), page slots in memory (R92 to R94), handles (R97),
and what a course, a page and a move are to the rest of the node.
-/

namespace Sys2Proof.Machine

open Sys2Proof.Crypto (crc32c)

/-! ## Addresses -/

/-- Stack `s` is READY. -/
def Work.stackReady (w : Work) (s : Nat) : Bool := bitOf (w.get Reg.CST_READY) s

/-- READY stacks. -/
def Work.readyStacks (w : Work) : List Nat := (List.range 8).filter w.stackReady

/-- In Rehearsal only stacks 0 and 1 serve (R459). -/
def Work.servingStacks (w : Work) : List Nat :=
  if w.nodeState = 1 then (w.readyStacks.filter (· < 2)) else w.readyStacks

/-- Stacks that the sheet being built may read (R462). -/
def Work.sheetStacks (w : Work) : List Nat := if w.lastReh then w.readyStacks else w.servingStacks

/-- Slot size code z of a partition: slots of 2^z frames (R93, PGM_PART). -/
def Work.slotZ (w : Work) (p : Nat) : Nat := w.get Reg.PGM_SLOT_SIZE 0 p

/-- Bytes of a page slot of a partition. -/
def Work.slotBytes (w : Work) (p : Nat) : Nat := 4096 * 2 ^ w.slotZ p

/-! ## Courses and pages -/

/-- The course of a record index. -/
def Work.course (w : Work) (i : Nat) : Option Course := lookupN i w.n.st.courses

/-- Store a course record. -/
def Work.setCourse (w : Work) (i : Nat) (c : Course) : Work := { w with n.st.courses := insertN i c w.n.st.courses }

/-- Change a course record, if it is there. -/
def Work.modCourse (w : Work) (i : Nat) (f : Course → Course) : Work := { w with n.st.courses := modifyN i f w.n.st.courses }

/-- Frames of a course's HBM block. -/
def Work.courseFrames (w : Work) (c : Course) : Nat := 2 ^ (c.k + w.slotZ c.part)

/-- The address of page `i` of an HBM block of a partition. -/
def Work.pageAddrAt (w : Work) (part frame i : Nat) : Nat := frameAddr frame + i * w.slotBytes part

/-- The address of page `i` of a course in HBM. -/
def Work.pageAddr (w : Work) (c : Course) (i : Nat) : Option Nat :=
  match c.loc with
  | .hbm f => some (w.pageAddrAt c.part f i)
  | _ => none

/-- Header of a page slot (R93), but for its CRCs: bytes 0x00 to 0x27. -/
def pageHead (part z : Nat) (p : Page) : Bytes :=
  [1] ++ leBytes 1 (z + part * 4) ++ leBytes 1 p.fmt ++ leBytes 1 p.layer ++ leBytes 1 p.landed ++ leBytes 1 p.flags ++
  leBytes 2 p.rowBytes ++ leBytes 4 p.creator.toNat ++ leBytes 4 p.handle.toNat ++ leBytes 8 p.cid.toNat ++
  leBytes 4 p.firstPos ++ leBytes 4 p.installTick.toNat ++ leBytes 8 p.blockId.toNat

/-- The 64-byte header over given row bytes (R93). -/
def pageHeader (part z : Nat) (p : Page) (rows : Bytes) : Bytes :=
  let h := pageHead part z p ++ leBytes 4 (crc32c rows).toNat
  h ++ leBytes 4 (crc32c h).toNat ++ List.replicate 16 0

/-- Rewrite a page's header from its record and the rows in memory (R94). A page that lies compressed in tier 1 or 2 keeps its stored bytes:
the header is formed from the record again when the course next lies in HBM (DESIGN CHOICE, log 146). -/
def Work.writeHeader (w : Work) (ci pi : Nat) : Work :=
  match w.course ci with
  | none => w
  | some c =>
    match w.pageAddr c pi, c.pages[pi]? with
    | some a, some p => w.store a (pageHeader c.part (w.slotZ c.part) p (w.bytes (a + 64) (p.landed * p.rowBytes)))
    | _, _ => w

/-- Change page `pi` of a course's record. -/
def Work.modPage (w : Work) (ci pi : Nat) (f : Page → Page) : Work :=
  w.modCourse ci fun c => { c with pages := c.pages.modify pi f }

/-- The CRCs of a page copy, as a move, mirror or fork copy checks them (R94). -/
def pageCrcOk (b : Bytes) : Bool :=
  let rows := fieldAt b 4 1
  let rb := fieldAt b 6 2
  decide (fieldAt b 0x2C 4 = (crc32c (b.take 0x2C)).toNat) &&
    (decide (fieldAt b 0x28 4 = (crc32c (sliceAt b 64 (rows * rb))).toNat) &&
      decide ((sliceAt b 64 (rows * rb)).length = rows * rb))

/-- Which CRCs of a page copy fail, as event 0x4007 gives them (R497): 1 the header's, 2 the rows'. -/
def crcFails (b : Bytes) : Nat :=
  let n := fieldAt b 4 1 * fieldAt b 6 2
  (if fieldAt b 0x2C 4 = (crc32c (b.take 0x2C)).toNat then 0 else 1) +
    (if fieldAt b 0x28 4 = (crc32c (sliceAt b 64 n)).toNat ∧ (sliceAt b 64 n).length = n then 0 else 2)

/-- The bytes of a page's slot in HBM. -/
def Work.pageBytes (w : Work) (c : Course) (i : Nat) : Bytes :=
  match w.pageAddr c i with
  | some a => w.bytes a (w.slotBytes c.part)
  | none => []

/-! ## Pins and sheets -/

/-- Sheets that are not closed. -/
def Work.openSheets (w : Work) : List Sheet := [w.n.qa.cur, w.n.qa.next].filter fun s => s.state != .closed

/-- A sheet pins a course: one of its tiles lies in it (R39). -/
def Sheet.pins (s : Sheet) (ci : Nat) : Bool := s.tiles.any fun t => t.2.course = ci

/-- A course is held by what still reads it: an open sheet pins it, or a fork or tail-page copy has one of its pages as its source
(R40, R64, R119). -/
def Work.pinned (w : Work) (ci : Nat) : Bool :=
  (w.openSheets.any fun s => s.pins ci) || w.n.pg.forkCopies.any (·.srcCourse = ci) || w.n.st.tailCopies.any (·.2.srcCourse = ci)

/-- The move of a course in flight. -/
def Work.moveOf (w : Work) (ci : Nat) : Option (Nat × Move) := w.n.st.moves.find? fun m => m.2.course = ci

/-! ## Frames -/

/-- Stored bytes of a compressed block, in 256 B units, and in whole frames. -/
def Blk.units (b : Blk) : Nat := ceilDiv b.len 256
def Blk.frames (b : Blk) : Nat := ceilDiv b.len 4096

/-- The frame spans that a place of a course takes. -/
def Work.frameSpans (w : Work) (c : Course) (l : Loc) : List (Nat × Nat) :=
  match l with
  | .hbm f => [(f, w.courseFrames c)]
  | .packed bs => bs.map fun b => (b.unit / 16, b.frames)
  | _ => []

/-- Frames of a place of a course. -/
def Work.locFrames (w : Work) (c : Course) (l : Loc) : Nat := (w.frameSpans c l).foldl (fun n u => n + u.2) 0

/-- Frame spans that are held: courses, destinations of moves and allotments. -/
def Work.heldSpans (w : Work) : List (Nat × Nat) :=
  (w.n.st.courses.map fun e => w.frameSpans e.2 e.2.loc).flatten ++
  (w.n.st.moves.map fun m => match w.course m.2.course with
    | some c => w.frameSpans c m.2.dst | none => []).flatten ++
  (w.n.se.parts.filterMap fun p => p.allotTop.map fun f => (f, p.allotLen / 4096))

/-- Frame spans in use: those held, and retired frames. -/
def Work.usedSpans (w : Work) : List (Nat × Nat) := w.heldSpans ++ w.n.st.retiredFrames.map fun f => (f, 1)

/-- A span of frames is free. -/
def spanFree (used : List (Nat × Nat)) (f len : Nat) : Bool :=
  used.all fun u => u.1 + u.2 ≤ f || f + len ≤ u.1


/-- A free aligned block of `len` frames in a stack: a free choice among those that are free (log 4). Blocks do not cross
the top blocks of 1,024 frames, since `len` divides 1,024 (R96). -/
def Work.blockIn (w : Work) (stack len : Nat) : Option Nat × Work :=
  let used := w.usedSpans
  let lo := stack * slotFrames
  let ok := fun f => lo ≤ f && f + len ≤ lo + slotFrames && (f - lo) % len = 0 && spanFree used f len
  let c := lo + Config.choose w.n.fresh * len
  if ok c then (some c, { w with n.fresh := w.n.fresh + 1 })
  else
    let starts := lo :: (used.map fun u => lo + alignUp (u.1 + u.2 - lo) len)
    let free := starts.filter ok
    (if free.isEmpty then none else some (free.foldl min (free.headD lo)), w)

/-- Frames of HBM that a partition's courses hold (R96, R374, R479), the copies it holds as understudy and moves into HBM among them. -/
def Work.hbmHeld (w : Work) (p : Nat) : Nat :=
  (w.n.st.courses.foldl (fun n e => if e.2.part = p then n + w.locFrames e.2 e.2.loc else n) 0) +
  (w.n.st.moves.foldl (fun n m => match w.course m.2.course with
    | some c => if c.part = p then n + w.locFrames c m.2.dst else n | none => n) 0)

/-- Frames of HBM charged to a partition (R96, R355, R356): what its courses hold, and its allotment. -/
def Work.hbmUsed (w : Work) (p : Nat) : Nat :=
  w.hbmHeld p + (match w.n.se.parts.find? (fun q => q.id = p) with
    | some q => if q.allotTop.isSome then q.allotLen / 4096 else 0 | none => 0)

/-- Frames a partition's quota still allows. -/
def Work.hbmFree (w : Work) (p : Nat) : Nat := w.get Reg.PP_HBM_QUOTA p * 4096 - w.hbmUsed p

/-- Bytes of tier 1 (R355, R479) charged to a partition, with the destinations of its moves. -/
def Loc.ddrBytes : Loc → Nat
  | .ddr bs => bs.foldl (fun n b => n + b.units * 256) 0
  | _ => 0

/-- Bytes of tier 2. -/
def Loc.hostBytes : Loc → Nat
  | .host bs => bs.foldl (fun n b => n + b.units * 256) 0
  | _ => 0

/-- Sum of a measure over the courses of a partition and the destinations of its moves. -/
def Work.tierUsed (w : Work) (p : Nat) (m : Loc → Nat) : Nat :=
  (w.n.st.courses.foldl (fun n e => if e.2.part = p then n + m e.2.loc else n) 0) +
  (w.n.st.moves.foldl (fun n v => match w.course v.2.course with
    | some c => if c.part = p then n + m v.2.dst else n | none => n) 0)

/-- Bytes of a tier that a partition's quota still allows: 1 DDR5, 2 host. -/
def Work.tierFree (w : Work) (p tier : Nat) : Nat :=
  if tier = 0 then w.hbmFree p * 4096
  else if tier = 1 then w.get Reg.PP_DDR_QUOTA p * 2 ^ 24 - w.tierUsed p Loc.ddrBytes
  else w.get Reg.PP_HOST_QUOTA p * 2 ^ 24 - w.tierUsed p Loc.hostBytes

/-- Frames drawn from the device reserve and not returned. -/
def Work.reserveOut (w : Work) : Nat := w.n.st.reserveDrawn.foldl (fun n e => n + e.2) 0

/-- Free frames of the device reserve (R79). -/
def Work.reserveFree (w : Work) : Nat := w.get Reg.CST_RESERVE - w.reserveOut

/-- A place lies in one of some spans. -/
def inSpans (spans : List (Nat × Nat)) (f : Nat) : Bool := spans.any fun u => u.1 ≤ f && f < u.1 + u.2

/-- Frames of the general pool that are free (R79): those of the serving stacks less the reserve, what is held there and what is retired
there outside what is held. -/
def Work.generalFree (w : Work) : Nat :=
  let serving := fun f : Nat => w.servingStacks.contains (f / slotFrames)
  let spans := w.heldSpans.filter fun u => serving u.1
  let retired := w.n.st.retiredFrames.filter fun f => serving f && !inSpans spans f
  let used := spans.foldl (fun n u => n + u.2) 0 + retired.length
  w.get Reg.CST_FRAMES - w.get Reg.CST_RESERVE - (used - w.reserveOut)

/-- The reserve's threshold events (R79): RESERVE_LOW and RESERVE_EMPTY follow its free frames. -/
def Work.reserveCheck (w : Work) : Work :=
  let free := w.reserveFree
  let size := w.get Reg.CST_RESERVE
  let low := decide (free * 100 < size * w.get Reg.SPL_RESERVE_EVT)
  let empty := decide (size ≠ 0 ∧ free = 0)
  let wasLow := w.flag Reg.SPL_RESERVE_LOW
  let wasEmpty := w.flag Reg.SPL_RESERVE_EMPTY
  let w := w.setFlag Reg.SPL_RESERVE_LOW low
  let w := w.setFlag Reg.SPL_RESERVE_EMPTY empty
  let w := w.set Reg.SPL_RESERVE_FREE free
  let w := if low ∧ ¬ wasLow then (w.report { code := 0x4301, page := 0x26, detail := free }).isr 0x26 16 else w
  if empty ∧ ¬ wasEmpty then
    (w.report { code := 0x4302, page := 0x26, detail := w.n.st.lastDrew }).isr 0x26 16 else w

/-- Frames of a partition were freed: they refill the reserve as far as the partition drew on it (R79). -/
def Work.framesFreed (w : Work) (p n : Nat) : Work :=
  let d := numN p w.n.st.reserveDrawn
  let d' := d - n
  let r := if d' = 0 then eraseN p w.n.st.reserveDrawn else insertN p d' w.n.st.reserveDrawn
  ({ w with n.st.reserveDrawn := r }).reserveCheck

/-! ## Handles and course records -/

/-- A run of 2^k handles of a partition may be given out: no course and no quiet run holds any of it (R97). -/
def Work.handlesFree (w : Work) (p base k : Nat) : Bool :=
  base + 2 ^ k ≤ 2 ^ 32 &&
  (w.n.st.courses.all fun e => e.2.part != p || e.2.base + 2 ^ e.2.k ≤ base || base + 2 ^ k ≤ e.2.base) &&
  (w.n.pg.quiet.all fun q => q.part != p || w.reached q.until_ || q.base + 2 ^ q.k ≤ base || base + 2 ^ k ≤ q.base)

/-- A run of 2^k handles, aligned to 2^k (R97): a free choice among the free runs (log 4). -/
def Work.takeHandles (w : Work) (p k : Nat) : Nat × Work :=
  let ok := fun b => b % 2 ^ k = 0 && w.handlesFree p b k
  let c := Config.choose w.n.fresh * 2 ^ k
  if ok c then (c, { w with n.fresh := w.n.fresh + 1 })
  else
    let ends := (w.n.st.courses.filter fun e => e.2.part = p).map (fun e => alignUp (e.2.base + 2 ^ e.2.k) (2 ^ k))
    let ends2 := (w.n.pg.quiet.filter fun q => q.part = p).map (fun q => alignUp (q.base + 2 ^ q.k) (2 ^ k))
    let free := (0 :: (ends ++ ends2)).filter ok
    (free.foldl min (free.headD 0), w)

/-- An unused page record of a new course. -/
def blankPage (handle : Nat) : Page :=
  { layer := 0, firstPos := 0, counted := 0, landed := 0, flags := 0, fmt := 0, rowBytes := 0, creator := 0, cid := 0,
    handle := BitVec.ofNat 32 handle, installTick := 0, blockId := 0, lost := false }

/-- A new course record in HBM: zeroed slots (R92), handles given, no page yet started. -/
def Work.newCourse (w : Work) (part k frame sess sessHandle layer slot : Nat) (fromReserve : Bool) : Nat × Work :=
  let h := w.takeHandles part k
  let w := h.2
  let i := freshKey 0 w.n.st.courses
  let c : Course := { part := part, k := k, slot := slot, tail := true, heat := 0, lastTouch := BitVec.ofNat 32 w.now32,
                      loc := .hbm frame, session := some sess, creator := sessHandle, layer := layer, refs := 1,
                      fromReserve := fromReserve, base := h.1, pages := [], heatTick := none }
  let w := w.setCourse i c
  -- a leaf of the handle map comes with its first handle (R60)
  let leaf := (part, h.1 / 2 ^ 16)
  let w := if w.n.st.leaves.contains leaf then w else { w with n.st.leaves := w.n.st.leaves ++ [leaf] }
  (i, w.zero (frameAddr frame) (2 ^ (k + w.slotZ part) * 4096))

/-- Try the stacks in the order of R96 for a block of `len` frames. -/
def Work.tryStacks (w : Work) (start len : Nat) : Nat → Option Nat × Work
  | 0 => (none, w)
  | j + 1 =>
    let s := (start + (7 - j)) % 8
    if w.servingStacks.contains s then
      let r := w.blockIn s len
      if r.1.isSome then r else w.tryStacks start len j
    else w.tryStacks start len j

/-- Allocate a course of at most 2^aim slots from the partition's pool (R96): smaller sizes are tried down to one slot.
Answers the frame and the size taken. -/
def Work.allocPool (w : Work) (part start : Nat) : Nat → Option (Nat × Nat) × Work
  | 0 => if 2 ^ w.slotZ part ≤ min (w.hbmFree part) w.generalFree then
           let r := w.tryStacks start (2 ^ w.slotZ part) 8
           (r.1.map fun f => (f, 0), r.2)
         else (none, w)
  | k + 1 =>
    let len := 2 ^ (k + 1 + w.slotZ part)
    if len ≤ min (w.hbmFree part) w.generalFree then
      let r := w.tryStacks start len 8
      match r.1 with
      | some f => (some (f, k + 1), r.2)
      | none => w.allocPool part start k
    else w.allocPool part start k

/-- Take one slot from the device reserve (R79, R112 step 1), counted in PGM_RESERVE_TAKEN. -/
def Work.allocReserve (w : Work) (part start : Nat) : Option Nat × Work :=
  let len := 2 ^ w.slotZ part
  if w.flag Reg.GLB_PAGE_RESERVE_EN ∧ len ≤ w.reserveFree then
    let r := w.tryStacks start len 8
    match r.1 with
    | some f =>
      let w := { r.2 with n.st.reserveDrawn := bumpN part len r.2.n.st.reserveDrawn, n.st.lastDrew := part }
      let w := w.count Reg.PGM_RESERVE_TAKEN
      (some f, w.reserveCheck)
    | none => (none, w)
  else (none, w)

/-- A slot for a new page: a course of the pool under R96, or one slot of the reserve under R112. Answers the course record
and whether it came from the reserve. -/
def Work.allocCourse (w : Work) (part sessIdx sessHandle layer aim : Nat) (pool reserve : Bool) : Option (Nat × Bool) × Work :=
  let start := sessIdx + layer
  let a := if pool then w.allocPool part start aim else (none, w)
  match a.1 with
  | some (f, k) =>
    let r := a.2.newCourse part k f sessIdx sessHandle layer start false
    (some (r.1, false), r.2)
  | none =>
    if !reserve then (none, w)
    else
      let b := a.2.allocReserve part start
      match b.1 with
      | some f =>
        let r := b.2.newCourse part 0 f sessIdx sessHandle layer start true
        (some (r.1, true), r.2)
      | none => (none, w)

/-! ## Tier-1 and tier-2 space -/

/-- Tier-1 bytes of a die. -/
def Work.ddrBytes (w : Work) (die : Nat) : Nat := (w.stripeChannels die).length * w.channelBytes

/-- The channel that holds the stripe of a die address (R65). -/
def Work.stripeChannel (w : Work) (die addr : Nat) : Option Nat :=
  let cs := w.stripeChannels die
  cs[(addr / 256) % max cs.length 1]?

/-- Spans held of a die's tier-1 space, in 256 B units: blocks of courses and of moves. -/
def Work.ddrHeld (w : Work) (die : Nat) : List (Nat × Nat) :=
  let of := fun l : Loc => match l with
    | .ddr bs => (bs.filter fun b => b.die = die).map fun b => (b.unit, b.units)
    | _ => []
  ((w.n.st.courses.map fun e => of e.2.loc).flatten) ++ ((w.n.st.moves.map fun m => of m.2.dst).flatten)

/-- Spans in use of a die's tier-1 space: those held, and retired 4 KiB grains. -/
def Work.ddrSpans (w : Work) (die : Nat) : List (Nat × Nat) :=
  w.ddrHeld die ++ (w.n.st.retiredGrains.filter fun g => g.1 = die).map fun g => (g.2 * 16, 16)

/-- A free span of `n` units in a space of `size` units that starts where `ok` allows: a free choice (log 4). -/
def Work.spanIn (w : Work) (used : List (Nat × Nat)) (size n : Nat) (fit : Nat → Bool) : Option Nat × Work :=
  let ok := fun u => u + n ≤ size && spanFree used u n && fit u
  let c := Config.choose w.n.fresh
  if ok c then (some c, { w with n.fresh := w.n.fresh + 1 })
  else
    let near := fun a => (List.range 8).map (a + ·)
    let free := ((near 0 ++ (used.map fun u => near (u.1 + u.2)).flatten)).filter ok
    (if free.isEmpty then none else some (free.foldl min (free.headD 0)), w)

/-- Free bytes of a die's tier-1 space over all partitions (R66): what is neither held nor, outside what is held, retired. -/
def Work.ddrFreeBytes (w : Work) (die : Nat) : Nat :=
  let held := w.ddrHeld die
  let retired := ((w.n.st.retiredGrains.filter fun g => g.1 = die).map fun g =>
    ((List.range 16).map (g.2 * 16 + ·)).filter fun u => !inSpans held u).flatten
  w.ddrBytes die - (held.foldl (fun n u => n + u.2) 0 + retired.length) * 256

/-- Place a compressed block in tier 1 of a die: it starts on the die's next in-service channel in turn (R229), and no stripe
of it falls on a channel that has failed in service (DEDUCED from R67, log 17). -/
def Work.placeDdr (w : Work) (die len mode : Nat) : Option Blk × Work :=
  let chans := w.stripeChannels die
  let cs := max chans.length 1
  let good := fun u => w.flag Reg.DDR_TRAINED (atD chans (u % cs) 0)
  let start := atD w.n.st.nextChan die 0
  let turn := (((List.range cs).map fun j => (start + j) % cs).find? good).getD 0
  let n := ceilDiv len 256
  let r := w.spanIn (w.ddrSpans die) (w.ddrBytes die / 256) n fun u =>
    u % cs = turn && (List.range (min n cs)).all fun j => good (u + j)
  match r.1 with
  | some u => (some { die := die, unit := u, len := len, mode := mode },
      { r.2 with n.st.nextChan := r.2.n.st.nextChan.set die ((turn + 1) % cs) })
  | none => (none, r.2)

/-- The die with more free tier-1 bytes over all partitions, die 0 when they are equal (R66). -/
def Work.emptierDie (w : Work) : Nat := if w.ddrFreeBytes 0 < w.ddrFreeBytes 1 then 1 else 0

/-- Spans in use of the host window, in 256 B units. -/
def Work.hostSpans (w : Work) : List (Nat × Nat) :=
  let of := fun l : Loc => match l with
    | .host bs => bs.map fun b => (b.unit, b.units)
    | _ => []
  ((w.n.st.courses.map fun e => of e.2.loc).flatten) ++ ((w.n.st.moves.map fun m => of m.2.dst).flatten)

/-- Place a stored block in the host window (R68), beside blocks just placed. -/
def Work.placeHost (w : Work) (held : List Blk) (b : Blk) : Option Blk × Work :=
  let r := w.spanIn (w.hostSpans ++ held.map fun x => (x.unit, x.units)) (w.get Reg.SPL_SIZE_GIB * 2 ^ 22) b.units fun _ => true
  (r.1.map fun u => { b with unit := u }, r.2)

/-- The host window cannot be used now: it is not enabled (R68), or the bus is not mastered (R333). -/
def Work.windowOff (w : Work) : Bool := !w.flag Reg.SPL_HOST_TIER_EN || !w.n.bo.busMaster

/-- Place stored blocks one by one in another tier; each is placed beside those before it. -/
def Work.placeAll (w : Work) (place : Work → List Blk → Blk → Option Blk × Work) (bs : List Blk) : Option (List Blk) × Work :=
  bs.foldl (fun acc b => match acc.1 with
    | none => acc
    | some l =>
      let r := place acc.2 l b
      match r.1 with
      | some x => (some (l ++ [x]), r.2)
      | none => (none, acc.2)) (some [], w)

/-- Place the stored blocks of a course of 2^k pages in tier 1: its two blocks each on their own die, the one block of a one-page
course on the die with more free bytes (R66). -/
def Work.placeStored (w : Work) (k : Nat) (bs : List Blk) : Option (List Blk) × Work :=
  w.placeAll (fun w before x => w.placeDdr (if k = 0 then w.emptierDie else before.length) x.len x.mode) bs

/-- The memory key of a block's first byte. -/
def Work.blkKey (w : Work) (l : Loc) (b : Blk) : Nat :=
  match l with
  | .host _ => hostKey (w.get Reg.SPL_BASE_LO * 2 ^ 30 + w.get Reg.SPL_BASE_HI * 2 ^ 32 + b.unit * 256)
  | .packed _ => frameAddr (b.unit / 16)
  | _ => ddrKey b.die (b.unit * 256)

/-- The stored bytes of a block. -/
def Work.blkBytes (w : Work) (l : Loc) (b : Blk) : Bytes := w.bytes (w.blkKey l b) b.len

/-- The pages that block `i` of a course holds (R66): the first and the second half, or all of a one-page course. -/
def blockPagesOf (k i : Nat) : List Nat :=
  if k = 0 then [0] else (List.range (2 ^ (k - 1))).map (i * 2 ^ (k - 1) + ·)

/-! ## Freeing -/

/-- A compressor that holds a course drops it before its last block (R221, R237). -/
def Work.dropRun (w : Work) (job : CmpJob) : Work :=
  let holds := fun r : Option CmpRun => decide ((r.map (·.job)) = some job)
  if w.n.cp.runs.any holds then
    ({ w with n.cp.runs := w.n.cp.runs.map fun r => if holds r then none else r } : Work).count Reg.CMP_ABANDONED
  else w

/-- A partition gives the space of a location back for good (R62, R79): its frames refill the reserve as far as it drew on it. Frames that a
course leaves for others in HBM, or that a move gives up uncommitted, are none. -/
def Work.freeLoc (w : Work) (c : Course) (l : Loc) : Work :=
  let n := w.locFrames c l
  if n = 0 then w else w.framesFreed c.part n

/-- Free a course record now: its space, its handles (quiet for PGM_HANDLE_QUIET ticks, R97), its move. -/
def Work.freeCourse (w : Work) (ci : Nat) : Work :=
  match w.course ci with
  | none => w
  | some c =>
    let w := match w.moveOf ci with
      | some (mi, _) => w.dropRun (.spill mi)
      | none => w
    let run : QuietRun := { part := c.part, base := c.base, k := c.k,
                            until_ := w.now + BitVec.ofNat 48 (w.get Reg.PGM_HANDLE_QUIET) }
    let quiet := run :: w.n.pg.quiet.filter fun q => !w.reached q.until_
    let w := { w with n.st.courses := eraseN ci w.n.st.courses,
                      n.st.moves := w.n.st.moves.filter fun m => m.2.course != ci,
                      n.st.dying := w.n.st.dying.filter (· != ci),
                      n.pg.quiet := quiet }
    let w := if c.copy then w else w.metaChange c.part (courseRec ci c.k 2 c.layer false)
    w.freeLoc c c.loc

/-- A reference to a course goes (R99): at zero it is freed, once no open sheet pins it. -/
def Work.dropRef (w : Work) (ci : Nat) : Work :=
  match w.course ci with
  | none => w
  | some c =>
    let w := w.setCourse ci { c with refs := c.refs - 1 }
    if c.refs ≤ 1 then
      if w.pinned ci then { w with n.st.dying := ci :: w.n.st.dying.filter (· != ci) } else w.freeCourse ci
    else w

/-- Abandon a move (R62, R63): its destination space is freed, its source stays. -/
def Work.abandonMove (w : Work) (mi : Nat) : Work := ({ w with n.st.moves := eraseN mi w.n.st.moves } : Work).dropRun (.spill mi)

/-- Heat a course (R70), saturating at 16 bits. -/
def Course.heated (c : Course) (by_ : Nat) (stamp : Word) : Course :=
  { c with heat := min 65535 (c.heat + by_), lastTouch := stamp }

/-- Heat a course for an append, once a tick (R70). -/
def Work.heatAppend (w : Work) (ci : Nat) : Work :=
  w.modCourse ci fun c =>
    if c.heatTick = some w.now then { c with lastTouch := BitVec.ofNat 32 w.now32 }
    else { c.heated (w.get Reg.SPL_APPEND_INC) (BitVec.ofNat 32 w.now32) with heatTick := some w.now }

end Sys2Proof.Machine
end

