-- ==== Sys2Proof/Machine/Messages.lean ====
section
/-!
DEFINITION. Sys2Proof/Machine/Messages.lean: outbound messages (R279, R303), NOTICE records (R280), service connections
(R375), the changes that travel in the mirror stream (R377 to R380), and the loss of pages (R85, R105).
-/

namespace Sys2Proof.Machine

/-! ## Outbound messages -/

/-- The most bytes of one packet's payload (R279). -/
abbrev pktMax : Nat := 4160

/-- Packets of a message of `len` bytes (R279): at least one. -/
def packetCount (len : Nat) : Nat := max 1 (ceilDiv len pktMax)

/-- This node's ID. -/
def Work.nodeId (w : Work) : Nat := w.get Reg.GLB_NODE_ID

/-- The route mask to a node (R286). -/
def Work.route (w : Work) (node : Nat) : Nat := w.get Reg.FAB_PORTS 0 node

/-- Queue an outbound message on an Active connection (R303). None when the connection is not Active or the route mask to
its peer is 0: the message completes with INTERNAL at once (R272, R286). A submission on a cold connection waits for its fetch
(R277). -/
def Work.sendMsg (w : Work) (conn op target : Nat) (payload : Bytes) (purpose : Purpose) (cmpr : Bool := false) :
    Option Nat × Work :=
  match w.connOf conn with
  | none => (none, w)
  | some c =>
    if c.state ≠ .active ∨ w.route c.peerNode = 0 then (none, w)
    else
      let m : OutMsg := { conn := conn, op := op, resp := false, msn := c.txMsn % 2 ^ 24, service := opService op target,
                          cls := opClass op target, target := target, payload := payload, cmpr := cmpr, next := 0,
                          resend := [], acked := [], started := false, purpose := purpose, extent := 0, got := []
                          gotCount := none, sub := some (w.subscriber c) }
      let k := w.n.tp.nextOut
      (some k, { w with n.tp.outMsgs := w.n.tp.outMsgs ++ [(k, m)], n.tp.nextOut := k + 1,
                        n.tp.conns := insertN conn { c with txMsn := c.txMsn + 1, fetching := c.fetching || !c.hot } w.n.tp.conns })

/-- An outbound message completes: its record is freed (R303). -/
def Work.dropMsg (w : Work) (k : Nat) : Work := { w with n.tp.outMsgs := w.n.tp.outMsgs.filter fun m => m.1 != k }

/-- Active or not, the connections of a partition by ID. -/
def Work.connsOf (w : Work) (p : Nat) : List (Nat × Conn) := w.n.tp.conns.filter fun c => c.2.part = p

/-- The service connection to a node (R375): the lowest Active connection of partition 0 to it with RKEY_OK. -/
def Work.serviceConn (w : Work) (node : Nat) : Option Nat :=
  (w.n.tp.conns.find? fun c => c.2.part = 0 && c.2.peerNode = node && c.2.rkeyOk && c.2.state = .active).map (·.1)

/-- A NOTICE record (16 bytes, in wire form). -/
def noticeRec (status node queryId tag tick : Nat) : Bytes :=
  let be := fun n v => (leBytes n v).reverse
  be 1 status ++ [0] ++ be 2 node ++ be 4 queryId ++ be 4 tag ++ be 4 tick

/-- Send the NOTICE records gathered for a connection as one message. -/
def Work.flushNotice (w : Work) (conn : Nat) : Work :=
  match lookupN conn w.n.tp.notices with
  | none => w
  | some rs =>
    let w := { w with n.tp.notices := eraseN conn w.n.tp.notices }
    (w.sendMsg conn 0xD 0 ((leBytes 4 rs.length).reverse ++ rs.flatten) .notice).2

/-- Add a NOTICE record for a connection (R280): those of one tick share a message, up to 64. -/
def Work.addNotice (w : Work) (conn : Nat) (rec : Bytes) : Work :=
  let rs := (lookupN conn w.n.tp.notices).getD []
  let w := { w with n.tp.notices := insertN conn (rs ++ [rec]) w.n.tp.notices }
  if 64 ≤ rs.length + 1 then w.flushNotice conn else w

/-- At the end of a tick the NOTICE messages gathered in it are sent (R280). -/
def Work.flushNotices (w : Work) : Work := w.n.tp.notices.foldl (fun w e => w.flushNotice e.1) w

/-! ## Sessions -/

/-- The session at an index. -/
def Work.session (w : Work) (i : Nat) : Option Session := lookupN i w.n.pg.sessions

/-- Page-table blocks that a layer of `runs` runs needs (R98): 32 entries in the last block, 31 and a link in each before it. -/
def chainLen (runs : Nat) : Nat := if runs = 0 then 0 else 1 + ceilDiv (runs - 32) 31

/-- The blocks of one layer follow its runs: blocks no longer needed go, and new ones are the lowest that no chain holds (DESIGN CHOICE,
log 128). -/
def fitChain (cs : List (Nat × List Nat)) (key runs : Nat) : List (Nat × List Nat) :=
  let old := (lookupN key cs).getD []
  let n := chainLen runs
  if old.length = n then cs
  else if n = 0 then eraseN key cs
  else
    let used := (cs.map (·.2)).flatten
    let more := ((List.range (used.length + n)).filter fun b => !used.contains b).take (n - old.length)
    insertN key (old.take n ++ more) cs

/-- The page-table blocks of a session's layers follow their runs (R98). -/
def Work.fitChains (w : Work) (i : Nat) (s : Session) : Work :=
  { w with n.pg.chains := s.layers.zipIdx.foldl (fun cs l => fitChain cs (i * 128 + l.2) l.1.runs.length) w.n.pg.chains }

/-- Store a session. -/
def Work.setSession (w : Work) (i : Nat) (s : Session) : Work :=
  ({ w with n.pg.sessions := insertN i s w.n.pg.sessions } : Work).fitChains i s

/-- Change a session, if it is there. -/
def Work.modSession (w : Work) (i : Nat) (f : Session → Session) : Work :=
  { w with n.pg.sessions := modifyN i f w.n.pg.sessions }

/-- Session and layer runs that name a page of a course. -/
def Session.names (s : Session) (ci : Nat) (pages : List Nat) : Bool :=
  s.layers.any fun l => l.runs.any fun r => r.course = ci && pages.any fun p => r.first ≤ p && p < r.first + r.count

/-- The Open sessions that a page loss makes Lost receive DATA_LOST from then on (R105); their understudy learns it (R377, R379). A Forming
child goes on forming, and is Lost once it has opened (DESIGN CHOICE, log 129: R105's table has no row for it). -/
def Work.loseSessions (w : Work) (ci : Nat) (pages : List Nat) : Work :=
  let mine := w.n.pg.sessions.filter fun e => e.2.state = .open && e.2.names ci pages
  let w := { w with n.pg.sessions := w.n.pg.sessions.map fun e =>
      if e.2.state = .open && e.2.names ci pages then (e.1, { e.2 with state := .lost }) else e }
  mine.foldl (fun w e => w.metaChange e.2.part (sessionRec e.2 3)) w

/-! ## Handles and tree records -/

/-- The course and page of a handle of a partition (R97); copies held as understudy are named by none (R376). -/
def Work.pageOfHandle (w : Work) (part handle : Nat) : Option (Nat × Nat) :=
  (w.n.st.courses.find? fun e => e.2.part = part && !e.2.copy && e.2.base ≤ handle && handle < e.2.base + 2 ^ e.2.k).map fun e =>
    (e.1, handle - e.2.base)

/-- A tree record. -/
def Work.treeRec (w : Work) (i : Nat) : Option TreeRec := lookupN i w.n.ks.tree

/-- The first 128 bytes of a tree record (R139). -/
def treeBytes (r : TreeRec) : Bytes :=
  leBytes 8 r.blockId ++ leBytes 8 r.parentId ++ (r.tokens.map (leBytes 4)).flatten ++ leBytes 4 r.firstPos ++
  leBytes 1 r.fmt ++ leBytes 1 r.layers ++
  leBytes 2 (r.part + (if r.pinned then 64 else 0) + (if r.dying then 128 else 0) + (if r.lost then 256 else 0)) ++
  leBytes 4 r.children ++ leBytes 4 r.matches_ ++ leBytes 4 r.lastMatch.toNat ++ leBytes 4 (r.bank + r.idx * 2 ^ 16) ++
  leBytes 4 (r.parentRec.getD 0xFFFFFFFF) ++ List.replicate 20 0

/-- Note a tree change for the understudy (R379): 1 indexed, 2 retracted, 3 pinned, 4 unpinned. -/
def Work.noteTree (w : Work) (i action : Nat) : Work :=
  match w.treeRec i with
  | none => w
  | some r =>
    let pages := (r.handles.map fun h => match w.pageOfHandle r.part h.toNat with
      | some (ci, p) => leBytes 4 ci ++ leBytes 1 p ++ leBytes 3 0
      | none => leBytes 4 0xFFFFFFFF ++ leBytes 4 0).flatten
    w.metaChange r.part (metaRec 5 (leBytes 1 action ++ List.replicate 11 0 ++ treeBytes r ++ pages))

/-! ## Loss -/

/-- Mark tree records whose block's pages lie in a lost course (R141): LOST, logged, its entry removed; to the understudy the block is
retracted (R377). -/
def Work.loseTree (w : Work) (part : Nat) (handles : List Nat) : Work :=
  w.n.ks.tree.foldl (fun w e =>
    if e.2.part = part && !e.2.lost && e.2.handles.any fun h => h.toNat ∈ handles then
      let w := w.noteTree e.1 2
      let w := { w with n.ks.tree := modifyN e.1 (fun r => { r with lost := true }) w.n.ks.tree
                        n.ks.banks := w.n.ks.banks.modify e.2.bank fun b => { b with entries := eraseN e.2.idx b.entries } }
      w.report { code := 0x4404, page := 0x27, part := some part, arg := e.2.blockId, detail := part }
    else w) w

/-- A copy that has lost a page is no longer one that this node holds whole (R386, R401). -/
def Work.copyLost (w : Work) (ci : Nat) : Work :=
  let un := fun l : List CopyCourse => l.map fun c => if c.course = some ci then { c with seeded := false } else c
  { w with n.mi.inStreams := w.n.mi.inStreams.map fun s => { s with courses := un s.courses, oldCourses := un s.oldCourses } }

/-- Pages of a course are lost (R85): their queries leave INCOMPLETE, the shared ones leave the tree (R141), and the course is restored from
the understudy where the partition's stream is Streaming (R386); otherwise the sessions that name them are Lost. -/
def Work.losePages (w : Work) (ci : Nat) (pages : List Nat) : Work :=
  match w.course ci with
  | none => w
  | some c =>
    let w := w.setCourse ci { c with pages := c.pages.mapIdx fun i p => if i ∈ pages then { p with lost := true } else p }
    -- sheets: a tile that reads the page leaves it out (R41)
    let lose := fun s : Sheet => { s with tiles := s.tiles.map fun t =>
      if t.2.course = ci then (t.1, { t.2 with lostPages := t.2.lostPages ++ pages.filter fun p => !(t.2.lostPages.contains p) }) else t }
    let w := { w with n.qa.cur := lose w.n.qa.cur, n.qa.next := lose w.n.qa.next }
    -- a move whose source is lost is abandoned (R63)
    let w := match w.moveOf ci with
      | some m => w.abandonMove m.1
      | none => w
    if c.copy then w.copyLost ci
    else
      let w := w.loseTree c.part (pages.map fun p => c.base + p)
      let streaming := match w.streamOf c.part with
        | some s => decide (s.state = .streaming)
        | none => false
      if w.mirrored c.part && streaming then
        if w.n.mi.restores.any fun r => r.1 = ci then w
        else { w with n.mi.restores := w.n.mi.restores ++ [(ci, w.now)] }
      else
        let w := if w.mirrored c.part then
            (w.report { code := 0x4903, page := 0x74, part := some c.part, arg := ci, detail := c.part }) else w
        w.loseSessions ci pages

end Sys2Proof.Machine
end

