-- ==== Sys2Proof/Machine/Float.lean ====
section
/-!
DEFINITION. Sys2Proof/Machine/Float.lean: the number formats of spec/05 and FP32 arithmetic as R161, R518 and R201 state it,
computed exactly on rationals and rounded once.
-/

namespace Sys2Proof.Machine

/-! ## Rounding -/

/-- 2 to an integer power. -/
def pow2 (k : Int) : Rat := if 0 ≤ k then (2 ^ k.toNat : Nat) else 1 / (2 ^ (-k).toNat : Nat)

/-- ⌊log₂ r⌋ of a positive rational. -/
def log2Floor (r : Rat) : Int :=
  let e : Int := (Nat.log2 r.num.natAbs : Int) - (Nat.log2 r.den : Int)
  if pow2 e ≤ r then (if pow2 (e + 1) ≤ r then e + 1 else e) else e - 1

/-- A non-negative rational rounded to the nearest whole number, ties to even. -/
def rne (r : Rat) : Nat :=
  let n := r.floor.toNat
  let f := r - n
  if f < 1 / 2 then n else if 1 / 2 < f then n + 1 else if n % 2 = 0 then n else n + 1

/-- A floating-point format: exponent bits, fraction bits, bias and the code of the largest finite magnitude. -/
structure Fmt where
  eb : Nat
  mb : Nat
  bias : Int
  top : Nat

abbrev binary16 : Fmt := ⟨5, 10, 15, 0x7BFF⟩
abbrev bf16 : Fmt := ⟨8, 7, 127, 0x7F7F⟩
abbrev e4m3 : Fmt := ⟨4, 3, 7, 0x7E⟩
abbrev e5m2 : Fmt := ⟨5, 2, 15, 0x7B⟩

/-- Bits of the magnitude of a code. -/
def Fmt.magBits (f : Fmt) : Nat := f.eb + f.mb

/-- The code's sign bit. -/
def Fmt.neg (f : Fmt) (c : Nat) : Bool := bitOf c f.magBits

/-- The value of a code that is finite (R161's table; subnormals included). -/
def Fmt.val (f : Fmt) (c : Nat) : Rat :=
  let e := bitsOf c f.mb f.eb
  let m := c % 2 ^ f.mb
  let r := if e = 0 then (m : Rat) * pow2 (1 - f.bias - f.mb) else ((m + 2 ^ f.mb : Nat) : Rat) * pow2 (e - f.bias - f.mb)
  if f.neg c then -r else r

/-- The code is an infinity or a NaN. -/
def Fmt.special (f : Fmt) (c : Nat) : Bool := f.top < c % 2 ^ f.magBits

/-- The magnitude of a rational rounded into a format: nearest, ties to even, saturating (R161); whether it saturated. -/
def Fmt.roundMag (f : Fmt) (r : Rat) : Nat × Bool :=
  if r = 0 then (0, false)
  else
    let e := max (log2Floor r) (1 - f.bias)
    let n := rne (r / pow2 (e - f.mb))
    let c := ((e + f.bias - 1) * (2 ^ f.mb : Nat) + n).toNat
    if f.top < c then (f.top, true) else (c, false)

/-- A rational in a format. -/
def Fmt.round (f : Fmt) (r : Rat) : Nat × Bool :=
  let x := f.roundMag (if r < 0 then -r else r)
  (x.1 + (if r < 0 then 2 ^ f.magBits else 0), x.2)

/-! ## FP32 -/

/-- The value of an FP32 word that is finite. -/
def f32val (w : Word) : Rat := Fmt.val ⟨8, 23, 127, 0x7F7FFFFF⟩ w.toNat

/-- An infinity or a NaN. -/
def f32special (w : Word) : Bool := bitsOf w.toNat 23 8 = 255

/-- A non-zero exact result in FP32 (R161): below 2^-126 it is flushed before rounding; above the largest finite value it
saturates. The count of saturations is carried along. -/
def f32round (r : Rat) : StateM Nat Word := do
  let a := if r < 0 then -r else r
  let sign := if r < 0 then 2 ^ 31 else 0
  if a < pow2 (-126) then pure (BitVec.ofNat 32 sign)
  else
    let x := Fmt.roundMag ⟨8, 23, 127, 0x7F7FFFFF⟩ a
    if x.2 then modify (· + 1)
    pure (BitVec.ofNat 32 (x.1 + sign))

/-- FP32 addition. A sum of two zeros is −0 only when both are; an exact zero of non-zeros is +0. -/
def fadd (a b : Word) : StateM Nat Word :=
  if f32special a || f32special b then pure (Config.fpSpecial 0 a b)
  else
    let r := f32val a + f32val b
    if r = 0 then pure (if a.getLsbD 31 && b.getLsbD 31 then 0x80000000#32 else 0)
    else f32round r

/-- Negation. -/
def fneg (a : Word) : Word := a ^^^ 0x80000000#32

/-- FP32 multiplication. -/
def fmul (a b : Word) : StateM Nat Word :=
  if f32special a || f32special b then pure (Config.fpSpecial 1 a b)
  else
    let r := f32val a * f32val b
    if r = 0 then pure (if xor (a.getLsbD 31) (b.getLsbD 31) then 0x80000000#32 else 0)
    else f32round r

/-- A rational, taken exactly, in FP32. -/
def f32of (r : Rat) : StateM Nat Word := if r = 0 then pure 0 else f32round r

/-- Two FP32 words compare by value. -/
def fle (a b : Word) : Bool := f32val a ≤ f32val b

/-- The larger of two. -/
def fmax (a b : Word) : Word := if fle a b then b else a

/-- Fixed point of `exp`: 320 fraction bits. -/
def expBits : Nat := 320

/-- Taylor terms of exp at a fixed-point argument. -/
def expSeries (t : Int) : Nat → Int → Int → Nat → Int
  | 0, _, acc, _ => acc
  | fuel + 1, term, acc, k =>
    let term := term * t / (2 ^ expBits : Nat) / (k : Int)
    expSeries t fuel term (acc + term) (k + 1)

/-- Square `n` times in fixed point. -/
def squareN : Nat → Nat → Nat
  | 0, v => v
  | n + 1, v => squareN n (v * v / 2 ^ expBits)

/-- exp of a rational of magnitude below 256 to far more bits than FP32 rounding can need. -/
def expRat (r : Rat) : Rat :=
  let t : Int := (r * (2 ^ expBits : Nat) / 256).floor
  let s := expSeries t 64 (2 ^ expBits : Nat) (2 ^ expBits : Nat) 1
  (squareN 8 s.toNat : Rat) / (2 ^ expBits : Nat)

/-- exp, correctly rounded to FP32 with the flush and saturation of R161 (R518). -/
def fexp (a : Word) : StateM Nat Word :=
  if f32special a then pure (Config.fpSpecial 2 a 0)
  else
    let r := f32val a
    if r < -104 then pure 0
    else if 100 < r then do modify (· + 1); pure 0x7F7FFFFF#32
    else if r = 0 then pure 0x3F800000#32
    else f32round (expRat r)

/-! ## The fold (R173, R201) -/

/-- An empty running state of `c` channels. -/
def RowState.empty (c : Nat) : RowState := { started := false, m := 0, l := 0, o := List.replicate c 0 }

/-- Fold one state into another (R201); an empty one contributes nothing. -/
def foldState (s x : RowState) : StateM Nat RowState := do
  if !x.started then pure s
  else if !s.started then pure x
  else
    let mn := fmax s.m x.m
    let a ← fexp (← fadd s.m (fneg mn))
    let b ← fexp (← fadd x.m (fneg mn))
    let l ← fadd (← fmul a s.l) (← fmul b x.l)
    let o ← (s.o.zip x.o).mapM fun p => do fadd (← fmul a p.1) (← fmul b p.2)
    pure { started := true, m := mn, l := l, o := o }

/-- Fold the heads of two results. -/
def foldHeads (s x : List RowState) : StateM Nat (List RowState) := (s.zip x).mapM fun p => foldState p.1 p.2

/-! ## Vectors of a partial (R200) -/

/-- The head record of a running state: BF16 elements with VSCALE 1, or scaled E4M3. -/
def headOf (fp8 : Bool) (s : RowState) : HeadRec :=
  if !s.started then { m := 0, l := 0, vscale := 0, empty := true, elems := s.o.map fun _ => 0 }
  else if !fp8 then
    { m := s.m, l := s.l, vscale := 0x3F800000#32, empty := false, elems := s.o.map fun x => (bf16.round (f32val x)).1 +
        (if f32val x = 0 ∧ x.getLsbD 31 then 0x8000 else 0) }
  else
    let mags := s.o.map fun x => (if f32val x < 0 then -f32val x else f32val x)
    let top := mags.foldl max 0
    if top = 0 then
      { m := s.m, l := s.l, vscale := 0x3F800000#32, empty := false, elems := s.o.map fun x => if x.getLsbD 31 then 0x80 else 0 }
    else
      let e := log2Floor top - 7
      let vs := ((f32of (pow2 e)).run 0).1
      { m := s.m, l := s.l, vscale := vs, empty := false, elems := s.o.map fun x =>
          let c := (e4m3.round (f32val x / pow2 e)).1
          if x.getLsbD 31 ∧ c < 128 then c + 128 else c }

/-- The running state that a received head stands for: O is VSCALE × element (R201). -/
def stateOf (fp8 : Bool) (h : HeadRec) : StateM Nat RowState := do
  let o ← h.elems.mapM fun x => do
    let r := if fp8 then e4m3.val x else bf16.val x
    let neg := if fp8 then e4m3.neg x else bf16.neg x
    let v ← f32of r
    fmul h.vscale (if r = 0 ∧ neg then 0x80000000#32 else v)
  pure { started := !h.empty, m := h.m, l := h.l, o := o }

end Sys2Proof.Machine
end

