-- ==== Sys2Proof/Machine/Rows.lean ====
section
/-!
DEFINITION. Sys2Proof/Machine/Rows.lean: row formats (R88 to R91), codebooks (R163), the checks of values that land (R162),
quantisation of raw rows (R166, R167), and reading a packed row back.
-/

namespace Sys2Proof.Machine

/-- Entries of a codebook. -/
def Work.cbSize (w : Work) (cb : Nat) : Nat := if w.flag Reg.CL_SIZE256 0 cb then 256 else 16

/-- The values of a codebook, in order. -/
def Work.cbVals (w : Work) (cb : Nat) : List Rat := (List.range (w.cbSize cb)).map fun k => e4m3.val (w.cbEntry cb k)

/-! ## A packed row -/

/-- A row taken apart: codes, group scales (binary16), valid outlier entries (channel, BF16), position codes (signed) or
BF16 values, position scale. -/
structure RowParts where
  codes : List Nat
  scales : List Nat
  outs : List (Nat × Nat)
  pos : List Int
  posBf : List Nat
  posScale : Nat
  deriving DecidableEq, Repr

/-- Codes packed 4 or 8 bits wide. -/
def unpackCodes (w8 : Bool) (n : Nat) (b : Bytes) : List Nat :=
  (List.range n).map fun c => if w8 then fieldAt b c 1 else bitsOf (fieldAt b (c / 2) 1) (c % 2 * 4) 4

/-- Offsets of the parts of a row. -/
def RowFmt.scaleOff (f : RowFmt) : Nat := f.codeBytes
def RowFmt.outOff (f : RowFmt) : Nat := f.codeBytes + 2 * (f.c / f.g)
def RowFmt.posOff (f : RowFmt) : Nat := f.outOff + 4 * f.o

/-- Read a packed row (R89). -/
def RowFmt.read (f : RowFmt) (b : Bytes) : RowParts where
  codes := unpackCodes f.w8 f.c b
  scales := (List.range (f.c / f.g)).map fun g => fieldAt b (f.scaleOff + 2 * g) 2
  outs := ((List.range f.o).filterMap fun i =>
    let x := fieldAt b (f.outOff + 4 * i + 2) 2
    if bitOf x 15 then some (x % 1024, fieldAt b (f.outOff + 4 * i) 2) else none)
  pos :=
    let v := leVal (b.drop f.posOff)
    if f.form = 1 then (List.range f.p).map fun j => ofField 3 (bitsOf v (3 * j) 3)
    else if f.form = 2 then (List.range f.p).map fun j => ofField 4 (bitsOf v (4 * j) 4)
    else []
  posBf := if f.form = 3 then (List.range f.p).map fun j => fieldAt b (f.posOff + 2 * j) 2 else []
  posScale := if f.form = 1 ∨ f.form = 2 then fieldAt b (f.posOff + posBytes f.form f.p - 2) 2 else 0

/-- A scale that R162 refuses: below zero, infinite or NaN. −0 is accepted. -/
def badScale (c : Nat) : Bool := binary16.special c || (binary16.neg c && binary16.val c != 0)

/-- Channels strictly ascend. -/
def ascending : List Nat → Bool
  | [] => true
  | [_] => true
  | a :: b :: r => a < b && ascending (b :: r)

/-- A packed row passes R162 (and the outlier order of R91). -/
def RowFmt.packedOk (f : RowFmt) (b : Bytes) : Bool :=
  let r := f.read b
  let valid := (List.range f.o).map fun i => bitOf (fieldAt b (f.outOff + 4 * i + 2) 2) 15
  r.scales.all (fun s => !badScale s) &&
  (f.form != 1 && f.form != 2 || !badScale r.posScale) &&
  r.outs.all (fun o => !bf16.special o.2 && o.1 < f.c) && ascending (r.outs.map (·.1)) &&
  -- valid entries come first
  (valid.dropWhile id).all (fun v => !v) &&
  r.posBf.all fun x => !bf16.special x

/-! ## Quantisation -/

/-- Largest of a list of non-negative rationals. -/
def maxRat (l : List Rat) : Rat := l.foldl max 0

/-- Absolute value. -/
def absRat (r : Rat) : Rat := if r < 0 then -r else r

/-- The index that minimises |x − s·cb[k]|, ties to the lower index. -/
def nearest (x s : Rat) (cb : List Rat) : Nat :=
  (cb.zipIdx.foldl (fun (best : Nat × Rat) e =>
    let d := absRat (x - s * e.1)
    if d < best.2 then (e.2, d) else best) (0, absRat (x - s * cb.headD 0))).1

/-- Pack codes of 4 bits, lower index in the lower bits. -/
def packNibbles : List Nat → Bytes
  | a :: b :: r => BitVec.ofNat 8 (a % 16 + b % 16 * 16) :: packNibbles r
  | [a] => [BitVec.ofNat 8 (a % 16)]
  | [] => []

/-- The bit string of 3-bit codes. -/
def packTriples (l : List Nat) : Nat := (l.zipIdx.map fun e => e.1 % 8 * 2 ^ (3 * e.2)).foldl (· + ·) 0

/-- The nearest integer to a quotient, ties to even, clamped. -/
def clampCode (r : Rat) (lo hi : Int) : Int :=
  let n : Int := if r < 0 then -(rne (-r) : Int) else rne r
  max lo (min hi n)

/-- The channel, not yet taken, of the largest non-zero magnitude; ties to the lower channel. -/
def topChannel (x : List Rat) (taken : List Nat) : Option Nat :=
  let open_ := x.zipIdx.filter fun e => absRat e.1 != 0 && !(taken.contains e.2)
  let top := maxRat (open_.map fun e => absRat e.1)
  (open_.find? fun e => absRat e.1 == top).map (·.2)

/-- Take up to `n` outlier channels. -/
def takeChannels (x : List Rat) : Nat → List Nat → List Nat
  | 0, acc => acc
  | n + 1, acc =>
    match topChannel x acc with
    | some c => takeChannels x n (c :: acc)
    | none => acc

/-- The outlier channels of a raw row (R166): the `o` largest non-zero magnitudes, ties to the lower channel, ascending. -/
def outlierChannels (o : Nat) (x : List Rat) : List Nat :=
  let t := takeChannels x o []
  (List.range x.length).filter fun c => t.contains c

/-- Pack the position channels of a raw row (R167). -/
def packPos (form p : Nat) (codes : List Nat) : Bytes :=
  let x := codes.map bf16.val
  if form = 3 then (codes.map fun c => leBytes 2 c).flatten
  else if form = 1 ∨ form = 2 then
    let top := maxRat (x.map absRat)
    let sc := (binary16.round (top / (if form = 1 then 3 else 7))).1
    let s := binary16.val sc
    let q := fun r : Rat => if s = 0 then 0 else clampCode (r / s) (if form = 1 then -4 else -8) (if form = 1 then 3 else 7)
    let body := if form = 1 then leBytes (ceilDiv (3 * p) 8) (packTriples (x.map fun r => toField 3 (q r)))
      else packNibbles (x.map fun r => toField 4 (q r))
    body ++ leBytes 2 sc
  else []

/-- Quantise a raw row of C + P BF16 codes (R166, R167); none when R162 refuses it. -/
def Work.quantise (w : Work) (f : RowFmt) (raw : List Nat) : Option Bytes :=
  if raw.any bf16.special then none
  else
    let lat := raw.take f.c
    let x := lat.map bf16.val
    let cb := w.cbVals f.cb
    let m := maxRat (cb.map absRat)
    let outs := outlierChannels f.o x
    let groups := (List.range (f.c / f.g)).map fun g =>
      maxRat (((x.drop (g * f.g)).take f.g).zipIdx.map fun e => if g * f.g + e.2 ∈ outs then 0 else absRat e.1)
    if groups.any fun a => m = 0 || 65504 < a / m then none
    else
      let scales := groups.map fun a => (binary16.round (a / m)).1
      let codes := x.zipIdx.map fun e =>
        let s := binary16.val (atD scales (e.2 / f.g) 0)
        if e.2 ∈ outs ∨ s = 0 then f.zero else nearest e.1 s cb
      let code := if f.w8 then codes.map (BitVec.ofNat 8) else packNibbles codes
      let outB := (List.range f.o).map fun i =>
        match outs[i]? with
        | some c => leBytes 2 (atD lat c 0) ++ leBytes 2 (c + 2 ^ 15)
        | none => leBytes 4 0
      some (code ++ (scales.map fun s => leBytes 2 s).flatten ++ outB.flatten ++ packPos f.form f.p (raw.drop f.c))

end Sys2Proof.Machine
end

