-- ==== Sys2Proof/Machine/Budget.lean ====
section
/-!
DEFINITION. Sys2Proof/Machine/Budget.lean: query and partial-record formats (R182, R199), pass costs (R176 to R180), tiles and
their placement (R188, R189), and the budget of a cue sheet (R190 to R192, R349, R350).
-/

namespace Sys2Proof.Machine

/-! ## Formats -/

/-- Field widths of the query descriptor (R182). -/
def queryFields : List Nat := [1, 1, 1, 1, 4, 8, 4, 4, 4, 2, 2, 4, 1, 1, 1, 1, 4, 4]

/-- Read a query descriptor. -/
def QDesc.read (b : Bytes) : QDesc where
  qbf16 := bitOf (fieldAt b 1 1) 0
  fp8 := bitOf (fieldAt b 1 1) 1
  collect := bitOf (fieldAt b 1 1) 2
  noLocal := bitOf (fieldAt b 1 1) 3
  layer := fieldAt b 2 1
  heads := fieldAt b 3 1
  session := fieldAt b 4 4
  cid := fieldAt b 8 8
  sigma := BitVec.ofNat 32 (fieldAt b 0x10 4)
  queryId := fieldAt b 0x14 4
  group := fieldAt b 0x18 4
  dest := fieldAt b 0x1C 2
  expect := fieldAt b 0x1E 2
  reply := fieldAt b 0x20 4 % 2 ^ 20
  level := fieldAt b 0x24 1 % 4
  payLen := fieldAt b 0x28 4
  tag := fieldAt b 0x2C 4

/-- A field in memory order or wire order (R18, R19). -/
def fieldBytes (wire : Bool) (n v : Nat) : Bytes := if wire then (leBytes n v).reverse else leBytes n v

/-- Bytes of a partial record (R199). -/
def partialLen (heads channels : Nat) (fp8 : Bool) : Nat := 32 + heads * (16 + channels * (if fp8 then 1 else 2))

/-- A partial record as bytes: memory form, or wire form (R199). -/
def PartialRec.bytes (r : PartialRec) (wire : Bool) : Bytes :=
  let f := fieldBytes wire
  f 1 (r.kind + 16) ++ f 1 r.status ++
  f 1 ((if r.fp8 then 1 else 0) + (if r.headerOnly then 2 else 0) + r.level * 4) ++ f 1 r.heads ++ f 4 r.group ++
  f 4 r.queryId ++ f 2 r.srcNode ++ f 2 r.channels ++ f 4 r.pagesDone ++ f 4 r.pagesNamed ++ f 4 r.tick ++ f 2 r.merged ++
  f 2 r.missing ++
  (if r.headerOnly then []
   else (r.vec.mapIdx fun i h =>
     f 4 h.m.toNat ++ f 4 h.l.toNat ++ f 4 h.vscale.toNat ++ f 2 i ++ f 2 (if h.empty then 1 else 0) ++
     (h.elems.map fun e => f (if r.fp8 then 1 else 2) e).flatten).flatten)

/-- Read a partial record in wire form (R199); none when it is not one. -/
def PartialRec.read (b : Bytes) : Option PartialRec :=
  let g := fun off n => leVal (sliceAt b off n).reverse
  let kind := g 0 1 % 16
  let flags := g 2 1
  let fp8 := bitOf flags 0
  let ho := bitOf flags 1
  let heads := g 3 1
  let ch := g 0xE 2
  let v := if fp8 then 1 else 2
  let size := 16 + ch * v
  if b.length < 32 ∨ g 0 1 / 16 ≠ 1 ∨ 2 < kind ∨ (flags / 16 ≠ 0) ∨ (b.length ≠ if ho then 32 else 32 + heads * size) then none
  else
    some { kind := kind, status := g 1 1, fp8 := fp8, headerOnly := ho, level := flags / 4 % 4, heads := heads, group := g 4 4,
           queryId := g 8 4, srcNode := g 0xC 2, channels := ch, pagesDone := g 0x10 4, pagesNamed := g 0x14 4,
           tick := g 0x18 4, merged := g 0x1C 2, missing := g 0x1E 2
           vec := if ho then [] else (List.range heads).map fun i =>
             let o := 32 + i * size
             { m := BitVec.ofNat 32 (g o 4), l := BitVec.ofNat 32 (g (o + 4) 4), vscale := BitVec.ofNat 32 (g (o + 8) 4)
               empty := bitOf (g (o + 14) 2) 0, elems := (List.range ch).map fun c => g (o + 16 + c * v) v } }

/-! ## Clusters and their costs -/

/-- The cluster is in service, or will be for the sheet being built (R462). -/
def Work.inService (w : Work) (c : Nat) : Bool := w.flag Reg.CL_ACTIVE c || (w.lastReh && w.n.bo.passed.contains c)

/-- The physical cluster that holds a logical slot and is in service. -/
def Work.physOf (w : Work) (slot : Nat) : Option Nat :=
  (List.range 26).find? fun c => w.inService c && w.get Reg.CL_SLOT c = slot

/-- The physical cluster that will hold a logical slot in the sheet being built: the spare, where a swap takes effect by its freeze
(R50). -/
def Work.physNext (w : Work) (slot : Nat) : Option Nat :=
  (w.physOf slot).map fun c =>
    match w.n.cl.swaps.find? fun p => p.retire = c && (p.effect = w.n.qa.next.tick || Tick.earlier p.effect w.n.qa.next.tick) with
    | some p => p.activate
    | none => ((w.n.cl.faultSwaps.find? fun f => f.1 = c).map (·.2)).getD c

/-- Logical slots in service on a die for the sheet being built (R24, R189). -/
def Work.slotsOf (w : Work) (die : Nat) : List Nat :=
  (List.range 24).filter fun s => match w.physNext s with | some c => c / 13 = die | none => false

/-- The weight set that queries admitted now will meet (R179). -/
def Work.weightSet (w : Work) : List WLayer := (w.n.cl.pendingWeights).getD w.n.cl.weights

/-- The expanded layer, if the layer is one. -/
def Work.expanded (w : Work) (layer : Nat) : Option WLayer := w.weightSet.find? fun l => l.layer = layer

/-- Cycles of a tile's key expansion (R180). -/
def RowFmt.expandCycles (f : RowFmt) (l : WLayer) : Nat := ceilDiv (l.h * l.d) 128 * f.c / (if f.w8 then 1 else 2)

/-- Cost of a cluster slot in a budget (R190). -/
def Work.slotCost (w : Work) (b : Budget) (slot : Nat) : Nat :=
  ((lookupN slot b.load).getD []).foldl (fun n k =>
    let e := if k.exp then (w.weightSet.find? fun l => l.layer = k.layer) else none
    n + ceilDiv k.n 4 * w.passCycles (w.rowFmt k.fmt) k.qbf16 e) 0 + numN slot b.extra

/-- Add row blocks of a class to a slot. -/
def Budget.addLoad (b : Budget) (slot fmt : Nat) (qbf16 exp : Bool) (layer n : Nat) : Budget :=
  let l := (lookupN slot b.load).getD []
  let same := fun k : ClassLoad => k.fmt = fmt && k.qbf16 = qbf16 && k.exp = exp && (k.layer = layer || !exp)
  let l := if l.any same then l.map fun k => if same k then { k with n := k.n + n } else k
    else l ++ [{ fmt := fmt, qbf16 := qbf16, exp := exp, layer := if exp then layer else 0, n := n }]
  { b with load := insertN slot l b.load }

/-- The cluster limit ⌊N_cyc × A_ARRAY / 256⌋ (R190). -/
def Work.slotLimit (w : Work) : Nat := w.nCycNext * w.get Reg.QAD_A_ARRAY / 256

/-! ## Tiles -/

/-- A tile that a query names: course, index, die, pages with the rows visible on each, whether it is read through, and
whether it is read from a checked move's destination (R40, R188). -/
structure WantTile where
  course : Nat
  j : Nat
  die : Nat
  pages : List (Nat × Nat)
  tier1 : Bool
  fromDst : Bool
  tier2 : Bool
  deriving DecidableEq, Repr

/-- The tier of a location. -/
def Loc.tier : Loc → Nat
  | .hbm _ | .packed _ => 0
  | .ddr _ => 1
  | .host _ => 2

/-- The frame at which a query reads a course: the checked destination of a promotion or rebalance, once a sheet's admission
has begun after the check (R40), else the course's own. -/
def Work.readLoc (w : Work) (ci : Nat) (c : Course) : Loc × Bool :=
  match w.moveOf ci with
  | some (_, m) =>
    match m.dst, m.checked with
    | .hbm f, some t => if Tick.earlier t w.now then (.hbm f, true) else (c.loc, false)
    | _, _ => (c.loc, false)
  | none => (c.loc, false)

/-- The die of block `i` of a course's location. -/
def blkDie (bs : List Blk) (i : Nat) : Nat := ((bs[i]?).map (·.die)).getD 0

/-- The die that holds a course in HBM. -/
def Loc.die : Loc → Nat
  | .hbm f => f / slotFrames / 4
  | _ => 0

/-- Where a tier-2 course will be read: the destination of its promotion or lift (R37, R73); with none in flight the query is refused,
and die 0 stands for it. -/
def Work.promotedLoc (w : Work) (ci : Nat) : Loc := ((w.moveOf ci).map fun m => m.2.dst).getD (.hbm 0)

/-- Tiles of one page run (R188). A tier-1 tile that falls in both blocks is placed as two, one on each block's die (R66;
DEDUCED, log 12). -/
def Work.runTiles (w : Work) (r : Run) : List WantTile :=
  match w.course r.course with
  | none => []
  | some c =>
    let rl := w.readLoc r.course c
    let pages := ((List.range r.count).map (r.first + ·)).filterMap fun p =>
      match c.pages[p]? with
      | some q => if q.counted = 0 then none else some (p, q.counted)
      | none => none
    let js := (pages.map fun p => p.1 / 8).dedup
    let tier2 := decide (rl.1.tier = 2)
    let loc := if tier2 then w.promotedLoc r.course else rl.1
    (js.map fun j =>
      let ps := pages.filter fun p => p.1 / 8 = j
      match loc with
      | .ddr bs =>
        ([0, 1].map fun i =>
          { course := r.course, j := j, die := blkDie bs i, tier1 := true, fromDst := false, tier2 := tier2
            pages := ps.filter fun p => (blockPagesOf c.k i).contains p.1 && (c.k != 0 || i = 0) : WantTile }).filter
          fun t => !t.pages.isEmpty
      | _ => [{ course := r.course, j := j, die := loc.die, pages := ps, tier1 := false, fromDst := rl.2, tier2 := tier2 }]).flatten

/-- The tiles of a session's layer, in page-table order. -/
def Work.layerTiles (w : Work) (s : Session) (layer : Nat) : List WantTile :=
  ((atD (s.layers.map (·.runs)) layer []).map w.runTiles).flatten

/-- Bytes read for one page in HBM with `v` visible rows. -/
def pageRead (f : RowFmt) (v : Nat) : Nat := 64 + v * f.rowBytes

/-- Codebooks on a slot of the sheet. -/
def Work.slotBooks (w : Work) (tiles : List (Nat × Tile)) (slot : Nat) : List Nat :=
  ((tiles.filter fun t => t.2.slot = slot).map fun t => (w.rowFmt t.2.fmt).cb).dedup

/-- What placing a query's tiles has come to: the budget, the sheet's tiles, the query's tiles, the tiles newly placed, and
how many were joined. -/
structure Placing where
  b : Budget
  tiles : List (Nat × Tile)
  mine : List QTile
  fresh : List (Nat × WantTile)
  joined : Nat

/-- Query rows that a slot holds in a sheet (R157): each query that has a tile there counts once. -/
def rowsOn (queries : List (Nat × Query)) (tiles : List (Nat × Tile)) (slot : Nat) : Nat :=
  queries.foldl (fun n q =>
    if q.2.tiles.any fun m => ((lookupN m.tile tiles).map (·.slot)) = some slot then n + q.2.desc.heads else n) 0

/-- Query rows that a slot holds in the sheet being built. -/
def Work.slotRows (w : Work) (tiles : List (Nat × Tile)) (slot : Nat) : Nat := rowsOn w.n.qa.next.queries tiles slot

/-- A query's rows fit on a slot beside those it holds, 1,024 in all (R157); `first`: the query has no tile there yet. -/
def Work.rowsFit (w : Work) (tiles : List (Nat × Tile)) (heads slot : Nat) (first : Bool) : Bool :=
  decide (w.slotRows tiles slot + (if first then heads else 0) ≤ 1024)

/-- Put the row blocks of a query for one tile on a slot: load, key expansion for a new expanded tile, and the state-swap
cost of a row-block state beyond four (R190). The states of a query on a slot are counted once. -/
def Work.loadSlot (w : Work) (b : Budget) (f : RowFmt) (fi : Nat) (d : QDesc) (exp : Option WLayer) (slot : Nat)
    (newTile first : Bool) : Budget :=
  let rb := if exp.isSome then d.heads else ceilDiv d.heads 32
  let b := b.addLoad slot fi d.qbf16 exp.isSome d.layer rb
  let b := match exp with
    | some l => if newTile then { b with extra := bumpN slot (f.expandCycles l) b.extra } else b
    | none => b
  if first then
    let s := numN slot b.states
    let beyond := (s + rb - 4) - (s - 4)
    { b with states := insertN slot (s + rb) b.states, extra := bumpN slot (beyond * f.swapCycles) b.extra }
  else b

/-- Place one tile (R189): join the same tile where its rows and cost still fit, else the die's slot of lowest cost. Where that fails: the
cluster of that slot, and of the slot of lowest cost of all when none may take the tile (DESIGN CHOICE, log 144: QAD_STAT names a cluster
and no rule says which). -/
def Work.placeTile (w : Work) (fi : Nat) (d : QDesc) (exp : Option WLayer) (p : Placing) (t : WantTile) : Except Nat Placing :=
  let f := w.rowFmt fi
  let limit := w.slotLimit
  let first := fun (s : Nat) => !(p.mine.any fun m => match lookupN m.tile p.tiles with | some x => x.slot = s | none => false)
  let names := t.pages.map (·.1)
  let join := if w.flag Reg.QAD_BATCH_EN then
      p.tiles.find? fun x => x.2.course = t.course && x.2.j = t.j && x.2.pages = names && x.2.tier1 = t.tier1 &&
        x.2.rows + d.heads ≤ 1024 && w.rowsFit p.tiles d.heads x.2.slot (first x.2.slot) && w.slotCost (w.loadSlot p.b f fi d exp x.2.slot false (first x.2.slot)) x.2.slot ≤ limit
    else none
  match join with
  | some (k, x) =>
    .ok { p with b := w.loadSlot p.b f fi d exp x.slot false (first x.slot)
                 tiles := modifyN k (fun y => { y with rows := y.rows + d.heads }) p.tiles
                 mine := p.mine ++ [{ tile := k, vis := t.pages }], joined := p.joined + 1 }
  | none =>
    let holds := fun s =>
      let books := w.slotBooks p.tiles s
      (books.contains f.cb || books.length < 4) && w.rowsFit p.tiles d.heads s (first s)
    let best := fun l => (l.map fun s => (s, w.slotCost (w.loadSlot p.b f fi d exp s true (first s)) s)).foldl
      (fun (m : Option (Nat × Nat)) c => match m with
        | none => some c
        | some x => if c.2 < x.2 then some c else some x) none
    let unit := fun s => (w.physNext s).getD 0
    match best ((w.slotsOf t.die).filter holds) with
    | none => .error (((best (w.slotsOf t.die)).map fun x => unit x.1).getD 0)
    | some (s, cost) =>
      if limit < cost then .error (unit s)
      else
        let k := freshKey 0 p.tiles
        let tile : Tile := { course := t.course, j := t.j, pages := names, fmt := fi, slot := s, rows := d.heads, tier1 := t.tier1
                             fromDst := t.fromDst, expanded := []
                             lostPages := match w.course t.course with
                               | some c => names.filter fun i => ((c.pages[i]?).map (·.lost)).getD false
                               | none => names }
        .ok { b := w.loadSlot p.b f fi d exp s true (first s), tiles := insertN k tile p.tiles
              mine := p.mine ++ [{ tile := k, vis := t.pages }], fresh := p.fresh ++ [(k, t)], joined := p.joined }

/-! ## Tiles that change their place after admission

A page that an APPEND opens after its query, and a tile whose course is read elsewhere than at its admission, need a slot of the die that
holds the page (R24): the slot with the fewest tiles that keeps within 1,024 query rows and four codebooks (R157, R165; which of them:
DESIGN CHOICE, log 52). -/

/-- A slot with the tiles it has keeps within its rows and codebooks (R157, R165). -/
def Work.slotHolds (w : Work) (queries : List (Nat × Query)) (tiles : List (Nat × Tile)) (slot : Nat) : Bool :=
  decide (rowsOn queries tiles slot ≤ 1024) && decide ((w.slotBooks tiles slot).length ≤ 4)

/-- The slot that takes tile `k` on a die, among those that `ok` allows. -/
def Work.slotFor (w : Work) (queries : List (Nat × Query)) (tiles : List (Nat × Tile)) (k die : Nat) (ok : Nat → Bool) : Option Nat :=
  let count := fun s => (tiles.filter fun x => x.1 != k && x.2.slot = s).length
  let put := fun s => modifyN k (fun x : Tile => { x with slot := s }) tiles
  ((w.slotsOf die).filter fun s => ok s && w.slotHolds queries (put s) s).foldl (fun (b : Option Nat) s => match b with
    | some x => if count s < count x then some s else b
    | none => some s) none

/-- Tile `k` of a sheet cut in two, by the pages that stay in it; who has attended it has attended both parts. -/
def Sheet.cutTile (s : Sheet) (k : Nat) (stay : Nat → Bool) : Sheet × Nat :=
  let k' := freshKey 0 s.tiles
  let part := fun keep (t : Tile) => { t with pages := t.pages.filter fun p => stay p = keep }
  let vis := fun keep (m : QTile) => m.vis.filter fun v => stay v.1 = keep
  let split := fun q : Query =>
    { q with tiles := q.tiles.flatMap fun m => if m.tile != k then [m] else
               [({ m with vis := vis true m } : QTile), { tile := k', vis := vis false m }].filter fun x => !x.vis.isEmpty
             rbs := q.rbs.map fun r => if r.done.contains k then { r with done := r.done ++ [k'] } else r }
  match lookupN k s.tiles with
  | none => (s, k)
  | some t =>
    ({ s with tiles := insertN k' (part false t) (modifyN k (part true) s.tiles)
              queries := s.queries.map fun q => (q.1, split q.2) }, k')

/-- Tile `k` of a sheet is read as `f` says, on die `die`: on its slot if that lies there, else on another slot of that die on which no query
of the tile has given its result yet; where none may take it, its pages are left out. On a frozen sheet the slot's cluster must hold the
tile's codebook (R165). -/
def Work.seat (w : Work) (s : Sheet) (k die : Nat) (f : Tile → Tile) : Sheet :=
  match lookupN k s.tiles with
  | none => s
  | some t =>
    let s := { s with tiles := modifyN k f s.tiles }
    if (w.slotsOf die).contains t.slot then s
    else
      let mine := s.queries.filter fun q => q.2.tiles.any fun m => m.tile = k
      let given := fun (q : Query) sl => q.folded.contains sl || q.dropped.contains sl || (lookupN sl q.results).isSome
      let loaded := fun sl => decide (s.state = .open) ||
        ((w.physOf sl).any fun c => ((lookupN c w.n.cl.books).getD []).any fun b => b.1 = (w.rowFmt t.fmt).cb)
      match w.slotFor s.queries s.tiles k die (fun sl => loaded sl && mine.all fun q => !given q.2 sl) with
      | some sl => { s with tiles := modifyN k (fun x => { x with slot := sl }) s.tiles }
      | none => { s with tiles := modifyN k (fun x => { x with lostPages := (x.lostPages ++ x.pages).dedup }) s.tiles }

/-- The tiles of a course on a sheet that `pick` chooses are read at a place from now on (R24, R63): in HBM on the die that holds the course,
a tier-1 block read through on its own die; a tier-2 page cannot be attended and is left out (R37). A tile that every query has attended
stays as it is. -/
def Work.readTiles (w : Work) (s : Sheet) (ci k : Nat) (loc : Loc) (pick : Tile → Bool) : Sheet :=
  let ended := fun t => (s.queries.filter fun q => q.2.tiles.any fun m => m.tile = t).all fun q =>
    !q.2.rbs.isEmpty && q.2.rbs.all fun r => r.done.contains t
  let mine := (s.tiles.filter fun t => t.2.course = ci && pick t.2 && !(s.state != .open && ended t.1)).map (·.1)
  match loc with
  | .hbm _ => mine.foldl (fun s t => w.seat s t loc.die fun x => { x with fromDst := false, tier1 := false, expanded := [] }) s
  | .ddr bs => mine.foldl (fun s t =>
      let through := fun x : Tile => { x with fromDst := false, tier1 := true, expanded := [] }
      let first := fun p => k = 0 || (blockPagesOf k 0).contains p
      match lookupN t s.tiles with
      | none => s
      | some x =>
        if x.pages.all first then w.seat s t (blkDie bs 0) through
        else if x.pages.all fun p => !first p then w.seat s t (blkDie bs 1) through
        else
          let c := s.cutTile t first
          w.seat (w.seat c.1 t (blkDie bs 0) through) c.2 (blkDie bs 1) through) s
  | .packed _ => s
  | .host _ => { s with tiles := s.tiles.map fun t => if mine.contains t.1 then
      (t.1, { t.2 with fromDst := false, lostPages := t.2.pages }) else t }

/-! ## Horizons -/

/-- The stack whose margin walk runs in a tick (R45): walk ticks rotate through the stacks in order. -/
def walkStack (t : Tick) : Option Nat := if t.toNat % 100 = 0 then some (t.toNat / 100 % 8) else none

/-- The stack is walked during the sheet being built (R45, R433: no walk while MAR_CTRL.HBM_EN is 0). -/
def Work.walked (w : Work) (s : Nat) : Bool :=
  w.flag Reg.MAR_HBM_EN && (List.range w.nextTicks).any fun i => walkStack (w.n.qa.next.tick + BitVec.ofNat 48 i) = some s

/-- r_s in bytes per ns (R191). -/
def Work.stackRate (w : Work) : Rat :=
  let pct := 100 - w.get Reg.CST_FIXED - w.get Reg.CST_SESSION_FLOOR - w.get Reg.CST_BULK_FLOOR - w.get Reg.CST_MIRROR_FLOOR
  2048 * (pct : Rat) / 100 * (99 : Rat) / 100 * (w.get Reg.QAD_A_STORE : Rat) / 256

/-- Read-through rate of a die in bytes per ns (R191). -/
def Work.rtRate (w : Work) : Rat := 288 * (w.get Reg.QAD_A_STORE : Rat) / 256

/-- The last moment, in ns from the start of tick n, by which reads for sheet n+1 must land: cut − tail (R190). -/
def Work.horizonEnd (w : Work) : Rat := w.sheetNs + w.nextSheetNs - 240 - w.acting Reg.QAD_NS

/-- Charge a horizon; none when it would pass the limit (R190). -/
def charge (limit a rate bytes : Rat) (h : Rat) : Option Rat :=
  if bytes = 0 then some h
  else if rate = 0 then none
  else
    let n := max h a + bytes / rate
    if limit < n then none else some n

/-- Charge several members of a list of horizons: bytes by index. Answers the index that fails. -/
def chargeAll (limit a : Rat) (rate : Nat → Rat) (hs : List Rat) (bytes : Nat → Rat) : Except Nat (List Rat) :=
  (List.range hs.length).foldlM (fun acc i =>
    match charge limit a (rate i) (bytes i) (atD hs i 0) with
    | some h => .ok (acc ++ [h])
    | none => .error i) []

/-- The expander instance that works for instance `i` (R225, R236). -/
def Work.expanderOf (w : Work) (i : Nat) : Nat := (lookupN i w.n.cp.standIn).getD i

/-- Cycles in which a weight path expands a streamed layer (R236): block by block, 1,024 B of image in a cycle for a coded block, 2,048 B
for a passthrough one. -/
def WLayer.streamCycles (l : WLayer) : Nat :=
  l.packed.foldl (fun n b => n + ceilDiv (fieldAt b 0x08 4) (if bitOf (fieldAt b 1 1) 0 then 2048 else 1024)) 0

/-- The weight-path expander of a die (R180): its spare, else its first HBM expander while the spare is in service. -/
def Work.weightExpander (w : Work) (die : Nat) : Option Nat :=
  let ok := fun i => !(w.flag Reg.XPD_FAULTED 0 i)
  let spare := 23 + die
  if ok spare ∧ ¬ (w.n.cp.standIn.any fun s => s.2 = spare) then some spare
  else if ok (4 * die) then some (4 * die) else none

/-- The compressed blocks that hold attended tier-1 pages of a placed tile: (course × 2 + block, block). -/
def Work.tileBlocks (w : Work) (t : WantTile) : List (Nat × Blk × Nat) :=
  if !t.tier1 then []
  else match w.course t.course with
    | none => []
    | some c =>
      match c.loc with
      | .ddr bs => (bs.zipIdx.filter fun b => t.pages.any fun p => (blockPagesOf c.k b.2).contains p.1).map fun b =>
          (t.course * 2 + b.2, b.1, (blockPagesOf c.k b.2).length)
      | _ => []

/-- Session pool of the sheet being built, in bytes, without what the lend point gives (R192). -/
def Work.poolBase (w : Work) : Nat := 2048 * w.nextSheetNs * w.get Reg.CST_SESSION_FLOOR / 100 * w.sheetStacks.length

/-- Show the session pool of the sheet being admitted (R192). -/
def Work.showPool (w : Work) : Work := w.set Reg.QAD_SESSION_POOL (w.poolBase + w.n.qa.budget.poolExtra)

/-- Show the session pool of the sheet being admitted, and a partition's charge to it (QAD, SCH registers; R192, R353). -/
def Work.showBudget (w : Work) (part : Nat) : Work := w.showPool.set Reg.SCH_USED (numN part w.n.qa.budget.partCost) 0 part

/-- Point of R515: the value written, or T − 100 ns when that is smaller (T the rehearsal tick in Rehearsal, R458). -/
def Work.clampPoint (w : Work) (v : Nat) : Nat := min v (w.sheetNs - 100)

/-- Cluster cycles of the node for a sheet (R349): over the clusters in service. -/
def Work.nAll (w : Work) : Nat := ((List.range 26).filter w.inService).length * w.slotLimit

/-- A partition's shares count (R351): from its CREATE until a strike, and then still for the sheet whose admission had begun
before the strike's fence (DEDUCED, log 118). -/
def Work.shareCounts (w : Work) (p : Nat) : Bool :=
  w.partState p = 1 ||
    match (w.n.se.parts.find? fun q => q.id = p).bind (·.strike) with
    | some r => decide (ticksTo r.fence w.now ≤ w.now.toNat % w.repTicks)
    | none => false

/-- A partition's guaranteed and most cycles (R349, R351). -/
def Work.partShare (w : Work) (p : Nat) : Nat × Nat :=
  if w.shareCounts p then (w.nAll * w.acting Reg.SCH_MIN 0 p / 1024, w.nAll * w.acting Reg.SCH_MAX 0 p / 1024) else (0, 0)

/-- The partition test of R350, at `a` ns into the tick. -/
def Work.shareOk (w : Work) (b : Budget) (p c : Nat) (a : Rat) : Bool :=
  let u := numN p b.partCost
  let g := (w.partShare p).1
  let sum := b.partCost.foldl (fun n e => n + e.2) 0
  let others := (List.range 64).foldl (fun n q => if q = p then n else n + ((w.partShare q).1 - numN q b.partCost)) 0
  u + c ≤ (w.partShare p).2 &&
  (u + c ≤ g ||
    (if a < w.clampPoint (w.acting Reg.SCH_BORROW_NS) then sum + c + others ≤ w.nAll else sum + c ≤ w.nAll))

/-- Why a query does not fit (QAD_STAT): the resource and its unit. -/
structure Cause where
  res : Nat
  unit : Nat

/-- The stack that holds a tile in tier 0. -/
def Work.tileStack (w : Work) (t : WantTile) : Nat :=
  match w.course t.course with
  | none => 0
  | some c => match (w.readLoc t.course c).1 with
    | .hbm f => f / slotFrames
    | _ => 0

/-- The sheet has no entry for one more query, or the node no group for it (R190). -/
def Work.sheetFull (w : Work) (d : QDesc) (queries groups : Nat) : Bool :=
  decide (w.acting Reg.QAD_MAX < queries + 1) || (d.collect && decide (8192 < groups + 1))

/-- Every term of R190 after placement. `a` is the arrival in ns from the start of the tick, `bytes` the query message's
length, `rec` the partial record's. -/
def Work.budgetTests (w : Work) (b0 : Budget) (p : Placing) (part fi : Nat) (d : QDesc) (exp : Option WLayer) (a : Rat)
    (bytes rec : Nat) (sheetQueries openGroups : Nat) : Except Cause Budget := do
  let f := w.rowFmt fi
  let limit := w.horizonEnd
  -- HBM
  let newTiles := p.fresh.map (·.2)
  let dies := (newTiles.map (·.die)).dedup
  let streamDies : List Nat := match exp with
    | some l => dies.filter fun e => (if e = 0 then l.at0 else l.at1).isNone && !(b0.streamed.contains (e, d.layer))
    | none => []
  let packed := match exp with | some l => l.packedLen | none => 0
  let onStack := fun s =>
    ((newTiles.filter fun t => !t.tier1 && !t.tier2 && w.tileStack t = s).foldl (fun n t =>
      n + t.pages.foldl (fun m pg => m + pageRead f pg.2) 0) 0 : Nat)
  let hbm := fun s =>
    let r : Rat := (onStack s : Rat) + ((bytes + rec : Nat) : Rat) / 8 +
      (if s / 4 ∈ streamDies then (packed : Rat) / 4 else 0)
    if !w.sheetStacks.contains s then 0 else if w.walked s then 2 * r else r
  let hHbm ← match chargeAll limit a (fun _ => w.stackRate) p.b.hHbm hbm with
    | .ok h => .ok h
    | .error s => .error (Cause.mk 1 s)
  -- DDR5 read-through and expanders
  let blks := ((newTiles.map w.tileBlocks).flatten.filter fun x => !(b0.blocksRead.any fun y => y.1 = x.1)).foldl
    (fun (acc : List (Nat × Blk × Nat)) x => if acc.any fun y => y.1 = x.1 then acc else acc ++ [x]) []
  let ddr := fun e => ((blks.filter fun x => x.2.1.die = e).foldl (fun n x => n + x.2.1.len) 0 : Nat)
  let hDdr ← match chargeAll limit a (fun _ => w.rtRate) p.b.hDdr (fun e => (ddr e : Rat)) with
    | .ok h => .ok h
    | .error e => .error (Cause.mk 2 e)
  let instOf := fun (x : Nat × Blk × Nat) => w.expanderOf (8 + ((w.stripeChannel x.2.1.die (x.2.1.unit * 256)).getD 0))
  let cycles := fun (x : Nat × Blk × Nat) =>
    let img := x.2.2 * (64 + 16 * f.rowBytes)
    if bitOf x.2.1.mode 0 then ceilDiv img 256 else ceilDiv img (16 * (if bitOf x.2.1.mode 1 then 8 else 4))
  let streamCycles := fun e => match exp with
    | some l => if e ∈ streamDies then l.streamCycles else 0
    | none => 0
  let xpd := fun i => ((blks.filter fun x => instOf x = i).foldl (fun n x => n + cycles x) 0) +
    (if w.weightExpander 0 = some i then streamCycles 0 else 0) + (if w.weightExpander 1 = some i then streamCycles 1 else 0)
  let hXpd ← match chargeAll limit a (fun _ => (16 : Rat) / 10) p.b.hXpd (fun i => (xpd i : Rat)) with
    | .ok h => .ok h
    | .error i => .error (Cause.mk 3 i)
  -- the partition's share
  let cost := (List.range 24).foldl (fun n s => n + (w.slotCost p.b s - w.slotCost b0 s)) 0
  if !w.shareOk b0 part cost a then throw (Cause.mk 5 0)
  -- session pool
  if w.poolBase + b0.poolExtra < b0.poolUsed + bytes + rec then throw (Cause.mk 6 0)
  -- incast
  let incast := if d.collect then d.expect * rec else 0
  if d.collect ∧ w.get Reg.MRG_BYTES * w.nextSheetNs / 1000 < b0.incast + incast then throw (Cause.mk 7 0)
  -- sheet
  if w.sheetFull d sheetQueries openGroups then throw (Cause.mk 8 0)
  pure { p.b with hHbm := hHbm, hDdr := hDdr, hXpd := hXpd, partCost := bumpN part cost p.b.partCost
                  poolUsed := b0.poolUsed + bytes + rec, incast := b0.incast + incast
                  blocksRead := b0.blocksRead ++ blks.map fun x => (x.1, x.2.1.len)
                  streamed := b0.streamed ++ streamDies.map fun e => (e, d.layer) }

end Sys2Proof.Machine
end

