-- ==== Sys2Proof/Machine/Blocks.lean ====
section
/-!
DEFINITION. Sys2Proof/Machine/Blocks.lean: the compressed block (R212 to R218), the code table a compressor builds (R219,
R220), the checks on expansion (R224), and the bytes of pages wherever their course lies.
-/

namespace Sys2Proof.Machine

open Sys2Proof.Crypto (crc32c)

/-! ## Sorting by keys -/

/-- Lexicographic order of keys. -/
def lexLe : List Nat → List Nat → Bool
  | [], _ => true
  | _ :: _, [] => false
  | a :: x, b :: y => a < b || (a = b && lexLe x y)

/-- Insert before the first element whose key is greater. -/
def insertKey {α : Type} (key : α → List Nat) (a : α) : List α → List α
  | [] => [a]
  | b :: r => if lexLe (key a) (key b) then a :: b :: r else b :: insertKey key a r

/-- Stable insertion sort by key. -/
def sortKey {α : Type} (key : α → List Nat) : List α → List α
  | [] => []
  | a :: r => insertKey key a (sortKey key r)

/-! ## The block header -/

/-- The header of a compressed block (R213). -/
structure BlkHead where
  version : Nat
  mode : Nat
  items : Nat
  stored : Nat
  exp : Nat
  codeBits : Nat
  expCrc : Nat
  tableLen : Nat
  first : Nat
  origin : Nat
  crc : Nat
  deriving DecidableEq, Repr

/-- Read a header. -/
def BlkHead.read (b : Bytes) : BlkHead where
  version := fieldAt b 0 1
  mode := fieldAt b 1 1
  items := fieldAt b 2 2
  stored := fieldAt b 4 4
  exp := fieldAt b 8 4
  codeBits := fieldAt b 0xC 4
  expCrc := fieldAt b 0x10 4
  tableLen := fieldAt b 0x14 2
  first := fieldAt b 0x16 2
  origin := fieldAt b 0x18 4
  crc := fieldAt b 0x1C 4

/-- The header's flags: passthrough, symbol width 8, KIND, lane table. -/
def BlkHead.pt (h : BlkHead) : Bool := bitOf h.mode 0
def BlkHead.w8 (h : BlkHead) : Bool := bitOf h.mode 1
def BlkHead.kind (h : BlkHead) : Nat := h.mode / 4 % 8
def BlkHead.lanes (h : BlkHead) : Bool := bitOf h.mode 5

/-- Check 1 of R224. -/
def BlkHead.formOk (h : BlkHead) (b : Bytes) : Bool :=
  decide (32 ≤ b.length) && decide (h.version = 1) && decide (h.mode / 64 = 0) && decide (h.kind ≤ 2) &&
  decide (h.origin / 64 = 0) && (h.kind != 2 || decide (h.origin = 0)) && (h.kind = 0 || decide (h.first = 0)) &&
  (if h.pt then decide (h.tableLen = 0 ∧ h.codeBits = 0) && !h.lanes
   else decide (h.tableLen = if h.w8 then 128 else 8) && (h.lanes == decide (h.kind = 2))) &&
  decide (h.crc = (crc32c (b.take 0x1C)).toNat)

/-- A coded block's lanes: CODE_BITS, byte offset, and image bytes of each (one lane unless LANES is set; R215, R233). -/
def BlkHead.laneTable (h : BlkHead) (b : Bytes) : List (Nat × Nat × Nat) :=
  if h.lanes then (List.range 8).map fun i =>
    (fieldAt b (32 + 8 * i) 4, fieldAt b (36 + 8 * i) 4, (i + 1) * h.exp / 8 - i * h.exp / 8)
  else [(h.codeBits, 32 + h.tableLen, h.exp)]

/-- First byte after the tables. -/
def BlkHead.body (h : BlkHead) : Nat := 32 + (if h.lanes then 64 else 0) + h.tableLen

/-- STORED_LEN as R215 forms it. A lane that reaches beyond it leaves the block, and is for check 3 (R233). -/
def BlkHead.storedOk (h : BlkHead) (b : Bytes) : Bool :=
  let last := if h.pt then 32 + h.exp
    else ((h.laneTable b).map fun l => l.2.1 + ceilDiv l.1 8).foldl max h.body
  let len := alignUp last 16
  (decide (h.stored = len) || (h.lanes && decide (h.stored % 16 = 0 ∧ h.body ≤ h.stored ∧ h.stored < len))) && decide (b.length = h.stored)

/-- The lane table of a KIND 2 block is consistent (R233). -/
def BlkHead.lanesOk (h : BlkHead) (b : Bytes) : Bool :=
  let l := h.laneTable b
  !h.lanes ||
  (l.all (fun x => x.2.1 % 16 = 0 && h.body ≤ x.2.1 && x.2.1 + ceilDiv x.1 8 ≤ h.stored) &&
   (l.zipIdx.all fun x => l.zipIdx.all fun y =>
     x.2 = y.2 || x.1.2.1 + ceilDiv x.1.1 8 ≤ y.1.2.1 || y.1.2.1 + ceilDiv y.1.1 8 ≤ x.1.2.1) &&
   decide ((l.map (·.1)).foldl (· + ·) 0 = h.codeBits))

/-! ## The code -/

/-- Code lengths of the table, by symbol (R217). -/
def codeLens (w8 : Bool) (t : Bytes) : List Nat :=
  (List.range (if w8 then 256 else 16)).map fun s => bitsOf (fieldAt t (s / 2) 1) (s % 2 * 4) 4

/-- The table is valid (R217). -/
def lensOk (ls : List Nat) : Bool :=
  ls.all (· ≤ 12) && ls.any (0 < ·) &&
  decide ((ls.map fun l => if l = 0 then 0 else 2 ^ (12 - l)).foldl (· + ·) 0 ≤ 4096)

/-- Canonical codes (R218): length, code, symbol. -/
def codesOf (ls : List Nat) : List (Nat × Nat × Nat) :=
  let count := fun n => (ls.filter (· = n)).length
  let first := (List.range 12).foldl (fun (acc : List Nat) i =>
    -- the first code of length i + 1
    acc ++ [if i = 0 then 0 else (atD acc (i - 1) 0 + count i) * 2]) []
  ((List.range 12).map fun i =>
    let syms := (ls.zipIdx.filter fun e => e.1 = i + 1).map (·.2)
    syms.zipIdx.map fun e => (i + 1, atD first i 0 + e.2, e.1)).flatten

/-- The bits of a byte string, bit 0 of the first byte first. -/
def bitList (bs : Bytes) : List Bool := (bs.map fun b => (List.range 8).map fun i => b.getLsbD i).flatten

/-- Decode `n` symbols (R216): the reason code of R224 that fails, or the symbols. -/
def decodeSyms (tab : List (Nat × Nat × Nat)) : List Bool → Nat → Nat → Nat → List Nat → Except Nat (List Nat)
  | [], n, _, _, acc => if n = 0 then .ok acc.reverse else .error 5
  | b :: bs, n, code, len, acc =>
    if n = 0 then .error 6
    else
      let c := code * 2 + (if b then 1 else 0)
      let l := len + 1
      match tab.find? fun e => e.1 = l && e.2.1 = c with
      | some e => decodeSyms tab bs (n - 1) 0 0 (e.2.2 :: acc)
      | none => if tab.any fun e => l < e.1 && e.2.1 / 2 ^ (e.1 - l) = c then decodeSyms tab bs n c l acc else .error 4

/-- Symbols back to bytes (R216). -/
def symBytes (w8 : Bool) : List Nat → Bytes
  | [] => []
  | a :: r =>
    if w8 then BitVec.ofNat 8 a :: symBytes w8 r
    else match r with
      | [] => []
      | b :: r => BitVec.ofNat 8 (a + b * 16) :: symBytes w8 r

/-- Padding after the last meaningful bit of each lane is zero (R215). -/
def padOk (h : BlkHead) (b : Bytes) (ls : List (Nat × Nat × Nat)) : Bool :=
  if h.pt then (b.drop (32 + h.exp)).all (· = 0)
  else
    let used := fun i => ls.any fun l => l.2.1 * 8 ≤ i && i < l.2.1 * 8 + l.1
    (bitList (b.drop h.body)).zipIdx.all fun e => !e.1 || used (h.body * 8 + e.2)

/-- The symbols of every lane, or the first check in the order of R224 that some lane fails (R233). -/
def lanesDecoded (ls : List (Except Nat (List Nat))) : Except Nat (List (List Nat)) :=
  let bad := ls.filterMap fun x => match x with | .error k => some k | .ok _ => none
  if bad.isEmpty then .ok (ls.filterMap Except.toOption) else .error (bad.foldl min 8)

/-- The expanded image of a block, or the reason code of the check that fails (R223, R224): the window is the size the
asking agent gives, the partition the destination's. -/
def expandBlock (b : Bytes) (window part : Nat) : Except Nat Bytes := do
  let h := BlkHead.read b
  if !h.formOk b then throw 1
  if h.exp ≠ window ∨ !h.storedOk b ∨ (h.kind ≠ 2 ∧ h.origin % 64 ≠ part) then throw 2
  if h.pt then
    let img := sliceAt b 32 h.exp
    if !padOk h b [] then throw 7
    if h.expCrc ≠ (crc32c img).toNat then throw 8
    pure img
  else
    let lens := codeLens h.w8 (sliceAt b (h.body - h.tableLen) h.tableLen)
    if !lensOk lens ∨ !h.lanesOk b then throw 3
    let tab := codesOf lens
    let ls := h.laneTable b
    let parts ← lanesDecoded (ls.map fun l =>
      decodeSyms tab ((bitList (b.drop l.2.1)).take l.1) (l.2.2 * (if h.w8 then 1 else 2)) 0 0 [])
    if !padOk h b ls then throw 7
    let img := (parts.map (symBytes h.w8)).flatten
    if h.expCrc ≠ (crc32c img).toNat then throw 8
    pure img

/-! ## What a compressor emits -/

/-- A passthrough block over an image (R213, R215). -/
def passBlock (w8 : Bool) (kind items first part : Nat) (img : Bytes) : Bytes :=
  let h := [1#8] ++ leBytes 1 (1 + (if w8 then 2 else 0) + kind * 4) ++ leBytes 2 items ++
    leBytes 4 (alignUp (32 + img.length) 16) ++ leBytes 4 img.length ++ leBytes 4 0 ++ leBytes 4 (crc32c img).toNat ++
    leBytes 2 0 ++ leBytes 2 first ++ leBytes 4 part
  padTo 16 (h ++ leBytes 4 (crc32c h).toNat ++ img)

/-- Symbols of an image (R216). -/
def imageSyms (w8 : Bool) (img : Bytes) : List Nat :=
  if w8 then img.map (·.toNat) else (img.map fun b => [b.toNat % 16, b.toNat / 16]).flatten

/-- How often each symbol occurs. -/
def symCounts (w8 : Bool) (syms : List Nat) : List Nat :=
  (List.range (if w8 then 256 else 16)).map fun s => syms.count s

/-- Pair up neighbours, adding their weights and joining their symbols. -/
def pairUp : List (Nat × List Nat) → List (Nat × List Nat)
  | a :: b :: r => (a.1 + b.1, a.2 ++ b.2) :: pairUp r
  | _ => []

/-- Code lengths, at most 12, of the fewest total bits (R219), by the package-merge method. -/
def bestLens (counts : List Nat) : List Nat :=
  let leaves := (counts.zipIdx.filter fun e => 0 < e.1).map fun e => (e.1, [e.2])
  let n := leaves.length
  if n ≤ 1 then counts.map fun c => if 0 < c then 1 else 0
  else
    let top := (List.range 11).foldl (fun l _ => sortKey (fun x => [x.1]) (leaves ++ pairUp l))
      (sortKey (fun x => [x.1]) leaves)
    let picked := ((top.take (2 * n - 2)).map (·.2)).flatten
    (List.range counts.length).map fun s => picked.count s

/-- Bits of an image under code lengths. -/
def codedBits (lens counts : List Nat) : Nat := ((lens.zip counts).map fun e => e.1 * e.2).foldl (· + ·) 0

/-- Stored length of a coded block of KIND 0 or 1 (R215). -/
def codedLen (w8 : Bool) (bits : Nat) : Nat := alignUp (32 + (if w8 then 128 else 8) + ceilDiv bits 8) 16

/-- First-pass ratio of a course in hundredths, rounded down (R220): images of its blocks, under one table over all. -/
def firstPass (w8 : Bool) (imgs : List Bytes) : Nat :=
  let counts := imgs.map fun i => symCounts w8 (imageSyms w8 i)
  let total := counts.foldl (fun a c => (a.zip c).map fun e => e.1 + e.2) (List.replicate (if w8 then 256 else 16) 0)
  let lens := bestLens total
  let stored := (counts.map fun c => codedLen w8 (codedBits lens c)).foldl (· + ·) 0
  (imgs.map (·.length)).foldl (· + ·) 0 * 100 / max stored 1

/-! ## The bytes of a course -/

/-- ROW_BYTES of the pages of a course. -/
def Course.rowBytes (c : Course) : Nat := ((c.pages.head?).map (·.rowBytes)).getD 0

/-- Row format of a course. -/
def Course.fmt (c : Course) : Nat := ((c.pages.head?).map (·.fmt)).getD 0

/-- Bytes of a page's extent (R212). -/
def Course.extent (c : Course) : Nat := 64 + 16 * c.rowBytes

/-- Number of blocks of a course at rest (R66). -/
def Course.blocks (c : Course) : Nat := if c.k = 0 then 1 else 2

/-- Bytes of the image of block `i`. -/
def Course.imageLen (c : Course) (i : Nat) : Nat := (blockPagesOf c.k i).length * c.extent

/-- The image of block `i` of a course in HBM (R212). -/
def Work.courseImage (w : Work) (c : Course) (i : Nat) : Bytes :=
  ((blockPagesOf c.k i).map fun p => match w.pageAddr c p with
    | some a => w.bytes a c.extent
    | none => []).flatten

/-- The block of a course that holds a page. -/
def Course.blockOf (c : Course) (p : Nat) : Nat := if c.k = 0 then 0 else p / 2 ^ (c.k - 1)

/-- The stored blocks of a course. -/
def Loc.blks : Loc → List Blk
  | .hbm _ => []
  | .packed bs => bs
  | .ddr bs => bs
  | .host bs => bs

/-- The extent of a page wherever its course lies: in HBM its bytes, in tier 1 or 2 those of its expanded block, or the
reason code of a damaged block. -/
def Work.pageExtent (w : Work) (c : Course) (p : Nat) : Except Nat Bytes :=
  match c.loc with
  | .hbm f => .ok (w.bytes (w.pageAddrAt c.part f p) c.extent)
  | l =>
    let i := c.blockOf p
    match l.blks[i]? with
    | none => .error 1
    | some b => (expandBlock (w.blkBytes l b) (c.imageLen i) c.part).map fun img =>
        sliceAt img ((p - (blockPagesOf c.k i).headD 0) * c.extent) c.extent

/-- Address of a block as captures name it: its tier address, or in HBM that of its first byte (R237's note on CAP2). -/
def Loc.addrOf (l : Loc) (b : Blk) : Nat :=
  match l with
  | .packed _ => frameAddr (b.unit / 16)
  | _ => b.unit * 256

/-- Address of a page as captures name it: its slot in HBM, or the block that holds it. -/
def Work.pageWhere (w : Work) (c : Course) (p : Nat) : Nat :=
  match c.loc with
  | .hbm _ => (w.pageAddr c p).getD 0
  | l => ((l.blks[c.blockOf p]?).map l.addrOf).getD 0

end Sys2Proof.Machine
end

