-- ==== Sys2Proof/Machine/Groups.lean ====
section
/-!
DEFINITION. Sys2Proof/Machine/Groups.lean: partial records on their way out of the node (R35, R187, R205, R325), and the groups of a
collector, from the record that enters one to its merged result (R201, R203, R206, R207).
-/

namespace Sys2Proof.Machine

/-! ## Records that leave -/

/-- The lowest Active connection of a partition to a node. -/
def Work.connTo (w : Work) (part node : Nat) : Option Nat :=
  ((w.connsOf part).find? fun c => c.2.peerNode = node && c.2.state = .active).map (·.1)

/-- Send a record to a node on a connection of the partition (R199, R279); whether it was sent. -/
def Work.recordTo (w : Work) (part node : Nat) (r : PartialRec) (purpose : Purpose) : Bool × Work :=
  match w.connTo part node with
  | some c =>
    let s := w.sendMsg c 5 0 (r.bytes true) purpose
    (s.1.isSome, s.2)
  | none => (false, w)

/-- A record without heads for a query: a refusal, a credit or a cancel (R199). -/
def Work.bareRec (w : Work) (kind status : Nat) (d : QDesc) (tick channels : Nat) : PartialRec :=
  { kind := kind, status := status, fp8 := d.fp8, headerOnly := true, level := d.level, heads := d.heads, group := d.group
    queryId := d.queryId, srcNode := w.nodeId, channels := channels, pagesDone := 0, pagesNamed := 0, tick := tick
    merged := if kind = 0 then 1 else 0, missing := 0, vec := [] }

/-- Write a result record with its trailer, then GEN by itself, to a host entry's result buffer, and only then complete the entry (R325). A
suppressed result is counted with its completion (R312). -/
def Work.hostResult (w : Work) (q e : Nat) (r : PartialRec) : Work :=
  let x := w.queueOf q
  match x.entryOf e with
  | none => w
  | some h =>
    if h.suppressed then (w.count Reg.QUE_SUPPRESSED).completeEntry q e r.status r.queryId r.pagesDone
    else
      let body := r.bytes false
      let trailer := leBytes 4 body.length ++ leBytes 4 h.tag ++ leBytes 4 0
      let w := (w.resultStore q h (body ++ trailer)).resultStore q h (leBytes 4 (h.seq + 1)) (body.length + 12)
      w.completeEntry q e r.status r.queryId r.pagesDone 4

/-- Give the requester its result: a PARTIAL on REPLY, or a result record on the host queue (R34, R35, R319). -/
def Work.deliver (w : Work) (src : Src) (d : QDesc) (r : PartialRec) (purpose : Purpose) : Work :=
  match src with
  | .conn _ _ => (w.sendMsg d.reply 5 0 (r.bytes true) purpose).2
  | .queue q e => w.hostResult q e r

/-! ## Groups -/

/-- A partial is rejected (R206): dropped, counted, logged. -/
def Work.rejectPartial (w : Work) (part : Nat) (r : PartialRec) : Work :=
  (w.count Reg.MRG_REJECTED).log { code := 0x4203, page := 0x4A, part := some part, arg := r.group, detail := r.srcNode }

/-- A group takes a record as an input (R206): from a listed sender, once from each, of a lower level, of its query's shape. -/
def Group.takes (g : Group) (r : PartialRec) : Bool :=
  g.senders.contains r.srcNode && !(g.inputs.any fun i => i.1 = r.srcNode) && decide (r.level < g.desc.level) &&
    (r.headerOnly || (decide (r.heads = g.desc.heads) && decide (r.channels = g.fmtC)))

/-- A record meets its open group (R206): it joins the inputs, or is rejected. -/
def Work.joinGroup (w : Work) (part : Nat) (r : PartialRec) : Work :=
  match w.n.qa.groups.find? fun g : Group => g.part = part && g.group = r.group && !g.closed with
  | some g =>
    if g.takes r then
      let w := { w with n.qa.groups := w.n.qa.groups.map fun x : Group =>
          if x.part = part && x.group = r.group && !x.closed then { x with inputs := insertN r.srcNode r x.inputs } else x }
      w.count Reg.MRG_PARTIALS_IN
    else w.rejectPartial part r
  | none => w

/-- Show how many groups are open. -/
def Work.showOpen (w : Work) : Work := w.set Reg.MRG_OPEN (w.n.qa.groups.filter fun x : Group => !x.closed).length

/-- Send a partial to the node that DEST_NODE names (R205): a record with heads needs the group's credit, else it is held. -/
def Work.sendToDest (w : Work) (src : Src) (part : Nat) (d : QDesc) (r : PartialRec) (sheet : Tick) (purpose : Purpose) : Work :=
  if r.headerOnly then (w.recordTo part d.dest r purpose).2
  else if w.n.qa.credits.any fun c => c = (part, d.group) then
    let w := { w with n.qa.credits := w.n.qa.credits.erase (part, d.group) }
    (w.recordTo part d.dest r purpose).2
  else
    let k := freshKey 0 w.n.qa.held
    let h : Held := { part := part, prec := r, dest := d.dest, sheet := sheet, src := src, desc := d }
    let w := { w with n.qa.held := insertN k h w.n.qa.held }
    (w.count Reg.QAD_HELD).log { code := 0x4202, page := 0x4B, part := some part, arg := d.queryId, detail := d.dest }

/-- Send a result where its descriptor says: to the next node, or to the requester (R34, R35). -/
def Work.sendPartial (w : Work) (src : Src) (part : Nat) (d : QDesc) (r : PartialRec) (sheet : Tick) (purpose : Purpose) : Work :=
  if d.dest ≠ 0xFFFF then w.sendToDest src part d r sheet purpose else w.deliver src d r purpose

/-- The merged record of a group (R201, R203): inputs and the own partial in ascending order of SRC_NODE. -/
def Work.mergeGroup (w : Work) (g : Group) : PartialRec :=
  let ins := match g.own with
    | some r => insertN w.nodeId r g.inputs
    | none => g.inputs
  let recs := ins.map (·.2)
  let absent := g.desc.expect - g.inputs.length
  let missing := absent + (recs.map (·.missing)).foldl (· + ·) 0
  let top := (recs.map (·.status)).foldl max 0
  let st := if top = 0 ∧ 0 < missing then stIncomplete else top
  let heads := g.desc.heads
  let start := List.replicate heads (RowState.empty g.fmtC)
  let acc := ((recs.foldlM (fun s r =>
    if r.headerOnly then pure s else do foldHeads s (← r.vec.mapM (stateOf r.fp8))) start : StateM Nat (List RowState)).run 0).1
  let fp8 := g.desc.fp8 && w.actFlag Reg.MRG_FP8_EN
  let ho := decide (0x10 ≤ st)
  { kind := 0, status := st, fp8 := fp8, headerOnly := ho, level := g.desc.level, heads := heads, group := g.group
    queryId := g.desc.queryId, srcNode := w.nodeId, channels := g.fmtC
    pagesDone := (recs.map (·.pagesDone)).foldl (· + ·) 0, pagesNamed := (recs.map (·.pagesNamed)).foldl (· + ·) 0
    tick := g.sheet.toNat % 2 ^ 32, merged := (recs.map (·.merged)).foldl (· + ·) 0, missing := missing
    vec := if ho then [] else acc.map (headOf fp8) }

/-- Close a group and send a record for it. It keeps which inputs came, since one that was missing may still come late (R207). -/
def Work.closeGroup (w : Work) (g : Group) (r : PartialRec) : Work :=
  let w := { w with n.qa.groups := w.n.qa.groups.map fun x : Group =>
      if x.part = g.part && x.group = g.group && !x.closed then { x with closed := true, sent := true, own := none } else x }
  w.showOpen.sendPartial g.src g.part g.desc r g.sheet .partialSend

/-- A group whose every input has come sends its merged result (R207). -/
def Work.groupCheck (w : Work) (part group : Nat) : Work :=
  match w.n.qa.groups.find? fun g : Group => g.part = part && g.group = group && !g.closed with
  | some g =>
    if g.desc.expect ≤ g.inputs.length ∧ (!g.needOwn || g.own.isSome) then w.closeGroup g (w.mergeGroup g) else w
  | none => w

end Sys2Proof.Machine
end

