-- ==== Sys2Proof/Machine/Sight.lean ====
section
/-!
DEFINITION. Sys2Proof/Machine/Sight.lean: what a frozen sheet reads (R37, R38, R147, R165), its collectors' credits (R204), and the
requests that arrived before a freeze and are decided after it (R36, R109, R292).
-/

namespace Sys2Proof.Machine

/-! ## What a sheet reads -/

/-- Pages that a query's layer has gained since its arrival (R38), each tile with what its pages hold now. They lie in its session's
tail courses, in tier 0. -/
def Work.newTiles (w : Work) (tiles : List (Nat × Tile)) (q : Query) : List WantTile :=
  match w.session q.session with
  | none => []
  | some s =>
    let has := fun (t : WantTile) (p : Nat) => q.tiles.any fun m => match lookupN m.tile tiles with
      | some x => x.course = t.course && x.pages.contains p
      | none => false
    ((w.layerTiles s q.desc.layer).map fun t => { t with pages := t.pages.filter fun p => !has t p.1 }).filter fun t =>
      !t.pages.isEmpty && !t.tier2

/-- A query takes the new pages of a tile: into its own tile of that course and index, else as a tile of its own on a slot of the die that
can hold it (log 52); with none, its pages are named and not attended. -/
def Work.growTile (w : Work) (others : List (Nat × Query)) (a : List (Nat × Tile) × Query) (t : WantTile) : List (Nat × Tile) × Query :=
  let names := t.pages.map (·.1)
  let q := { a.2 with pagesNamed := a.2.pagesNamed + names.length }
  match q.tiles.find? fun m => match lookupN m.tile a.1 with
      | some x => x.course = t.course && x.j = t.j && x.tier1 = t.tier1
      | none => false with
  | some m =>
    (modifyN m.tile (fun x => { x with pages := x.pages ++ names.filter fun p => !x.pages.contains p }) a.1,
     { q with tiles := q.tiles.map fun x => if x.tile = m.tile then { x with vis := x.vis ++ t.pages } else x })
  | none =>
    let k := freshKey 0 a.1
    let tile := fun s : Nat => ({ course := t.course, j := t.j, pages := names, fmt := q.fmt, slot := s, rows := q.desc.heads
                                  tier1 := t.tier1, fromDst := t.fromDst, lostPages := [], expanded := [] } : Tile)
    let q' := { q with tiles := q.tiles ++ [{ tile := k, vis := t.pages }] }
    match w.slotFor ((0, q') :: others) (insertN k (tile 24) a.1) k t.die fun _ => true with
    | none => (a.1, q)
    | some s => (insertN k (tile s) a.1, q')

/-- The rows that a query sees at the freeze (R38, R159): every row of its session's layer counted by now, also on pages that its
arrival tick's later APPENDs opened, unless a MATCH has fixed its rows (R147). -/
def Work.seenRows (w : Work) (others : List (Nat × Query)) (tiles : List (Nat × Tile)) (q : Query) : List (Nat × Tile) × Query :=
  if q.fixedVis || q.desc.noLocal then (tiles, q)
  else
    let raise_ := fun m : QTile => match (lookupN m.tile tiles).bind fun t : Tile => w.course t.course with
      | some c => { m with vis := m.vis.map fun v : Nat × Nat => (v.1, ((c.pages[v.1]?).map (·.counted)).getD v.2) }
      | none => m
    (w.newTiles tiles q).foldl (w.growTile others) (tiles, { q with tiles := q.tiles.map raise_ })

/-- The codebooks that the tiles of each cluster need, loaded into its tables (R165). -/
def Work.loadBooks (w : Work) : Work :=
  let tiles := w.n.qa.cur.tiles
  let books := ((List.range 24).filterMap fun s => (w.physOf s).map fun c =>
    (c, ((w.slotBooks tiles s).take 4).map fun cb => (cb, (List.range (w.cbSize cb)).map (w.cbEntry cb))))
  { w with n.cl.books := books }

/-- A tile whose course is still in the host tier is left out (R37, R41). -/
def Work.tileAtFreeze (w : Work) (t : Tile) : Tile :=
  match w.course t.course with
  | some c => if c.loc.tier = 2 && !t.fromDst then { t with lostPages := t.pages } else t
  | none => { t with lostPages := t.pages }

/-- A collector sends a credit to every listed sender of a query (R204). -/
def Work.sendCredits (w : Work) (q : Query) : Work :=
  if !q.desc.collect then w
  else q.senders.foldl (fun w n =>
    (w.count Reg.MRG_CREDITS).recordTo q.part n (w.bareRec 1 0 q.desc (q.sheet.toNat % 2 ^ 32) 0) .partialSend |>.2) w

/-! ## Requests decided after the freeze of their sheet -/

/-- A request is late: the sheet that admission was building in the tick of its arrival is frozen and has not met its cutoff, though its
queries may all have finished already (R36, R40, R109, R292). An entry of a host queue arrives as it is taken. -/
def Work.late (w : Work) (src : Src) : Bool :=
  match src with
  | .conn _ _ => Tick.earlier (w.arrivalTick src) w.n.qa.cur.tick && w.n.qa.cur.state != .closed && !w.n.qa.cur.cutoff
  | .queue _ _ => false

/-- The node as admission saw it in the tick of a late arrival: its sheet open, with the settings that its admission was under (R209) and
the budget that the freeze left. -/
def Work.asOf (w : Work) (arr : Tick) : Work :=
  { w.actRunning with n.tk.now := arr, n.qa.next := w.n.qa.cur, n.qa.budget := w.n.qa.lastBudget }

/-- The horizons that a sheet of `ns` leaves to the next (R190). -/
def Budget.carried (b : Budget) (ns : Nat) : Budget :=
  let shift := fun h : Rat => max 0 (h - ns)
  { Budget.empty with hHbm := b.hHbm.map shift, hDdr := b.hDdr.map shift, hXpd := b.hXpd.map shift }

/-- What a charge to the sheet before adds to the horizons of a budget. -/
def Budget.pushed (b old new : Budget) : Budget :=
  let add := fun (h o n : List Rat) => (h.zip (o.zip n)).map fun e => e.1 + (e.2.2 - e.2.1)
  { b with hHbm := add b.hHbm old.hHbm new.hHbm, hDdr := add b.hDdr old.hDdr new.hDdr, hXpd := add b.hXpd old.hXpd new.hXpd }

/-- The rows of a query's layer have changed between two states. -/
def Work.rowsChanged (v w : Work) (q : Query) : Bool :=
  let rows := fun x : Work => (x.session q.session).map fun s => (s.layers[q.desc.layer]?).map (·.rows)
  rows v != rows w

/-- A sheet whose queries had all finished before its cutoff runs again, as something has joined it (R36, R40). -/
def Sheet.reopen (s : Sheet) : Sheet :=
  { s with state := .running
           queries := s.queries.map fun e : Nat × Query => if e.2.phase = .stopped then (e.1, { e.2 with phase := .running }) else e }

/-- The running sheet with what a late request has brought: new queries with their tiles as the freeze would have left them, and rows that
arrived in time for it (R38, R109). -/
def Work.rejoin (v w : Work) : Work :=
  let s := v.n.qa.next
  let old := w.n.qa.cur
  let tiles := s.tiles.map fun t : Nat × Tile => if (lookupN t.1 old.tiles).isSome then t else (t.1, v.tileAtFreeze t.2)
  let seen := s.queries.foldl (fun (a : List (Nat × Tile) × List (Nat × Query)) q =>
    if v.rowsChanged w q.2 then
      let r := v.seenRows (a.2 ++ s.queries.filter fun x => x.1 != q.1 && (lookupN x.1 a.2).isNone) a.1 q.2
      (r.1, a.2 ++ [(q.1, r.2)])
    else (a.1, a.2 ++ [q])) (tiles, [])
  let ns := (w.asOf (old.tick - 1)).sheetNs
  let budget := w.n.qa.budget.pushed (w.n.qa.lastBudget.carried ns) (v.n.qa.budget.carried ns)
  let sheet := { s with tiles := seen.1, queries := seen.2 }
  let part := fun q : Nat × Query => q.2.part
  let x := ({ v with n.tk.now := w.n.tk.now, n.acting := w.n.acting, n.qa.next := w.n.qa.next, n.qa.budget := budget
                     n.qa.lastBudget := v.n.qa.budget
                     n.qa.cur := if sheet.queries = old.queries ∧ sheet.tiles = old.tiles then sheet else sheet.reopen }).loadBooks
  let x := (seen.2.map part ++ v.n.qa.budget.partCost.map (·.1)).dedup.foldl (fun x p => x.showBudget p) x
  let x := (x.set Reg.QAD_LAST_QUERIES (min 8191 seen.2.length)).set Reg.QAD_LAST_TILES (min 65535 seen.1.length)
  (seen.2.filter fun q => (lookupN q.1 old.queries).isNone).foldl (fun x q => x.sendCredits q.2) x

/-- Decide a request as of its arrival: one that arrived before the running sheet froze joins it as if it had been decided before the
freeze (R36, R109, R292). -/
def Work.asArrived (w : Work) (src : Src) (act : Work → Work) : Work :=
  if w.late src then (act (w.asOf (w.arrivalTick src))).rejoin w else act w

end Sys2Proof.Machine
end

