-- ==== Sys2Proof/Machine/Query.lean ====
section
/-!
DEFINITION. Sys2Proof/Machine/Query.lean: admission of queries (R182 to R194): checks, answers, groups, prefetch (R77), and
the lend point (R192). Commands ATTEND and LEND_POINT.
-/

namespace Sys2Proof.Machine

/-! ## Sessions as requests name them -/

/-- The session that a request names (R100), or the status of its refusal; `cid` none for a FORK's parent. -/
def Work.findSession (w : Work) (part handle : Nat) (cid : Option Nat) : Except Nat (Nat × Session) :=
  let i := handle % 2 ^ 18
  match w.session i with
  | none => .error stNoSession
  | some s =>
    if s.state = .forming ∨ s.gen ≠ handle / 2 ^ 18 ∨ s.part ≠ part ∨ handle = 0xFFFFFFFF then .error stNoSession
    else match cid with
      | some c => if s.cid.toNat = c then .ok (i, s) else .error stNoSession
      | none => .ok (i, s)

/-- What the session state table answers a request (R105); none when the session is Open. -/
def SessState.refusal : SessState → Option Nat
  | .open => none
  | .lost => some stDataLost
  | .struck => some stStruck
  | .closing | .forming => some stNoSession

/-- The ownership check of R394: none when it passes. -/
def Work.ownCheck (w : Work) (s : Session) : Option Nat :=
  if !w.mirrored s.part then none
  else if s.orphan then some stStale
  else match s.own with
    | .foreign _ => some stNotOwner
    | .unconfirmed => some stStale
    | _ => none

/-- A MATCH or PUBLISH of a session waits or runs (R147). -/
def Work.prefixPending (w : Work) (idx : Nat) : Bool :=
  (w.n.ks.running.toList ++ w.n.ks.waiting).any fun o => (o.kind = .match_ || o.kind = .publish) && o.session = idx

/-- The next position E of a session's layer without its staged rows (R107, R147). -/
def Work.baseE (w : Work) (l : Layer) : Nat :=
  let pages := (l.runs.map fun r => match w.course r.course with
    | some c => (c.pages.drop r.first).take r.count
    | none => []).flatten
  let e := match pages.getLast? with
    | some p => p.firstPos + p.counted
    | none => 0
  max e ((l.jumpTo).getD 0)

/-- Advance E over staged APPENDs, the earliest that may advance it first. -/
def advanceE : Nat → Nat → List Staged → Nat
  | 0, e, _ => e
  | n + 1, e, todo =>
    match todo.find? fun g => g.firstPos ≤ e || g.jump with
    | some g => advanceE n (max e (g.firstPos + g.count)) (todo.erase g)
    | none => e

/-- The staged APPENDs of a layer, in order of arrival. -/
def Work.stagedOf (w : Work) (si li : Nat) : List Staged := w.n.pg.staged.filter fun g => g.session = si && g.layer = li

/-- The next position E of a layer (R107). -/
def Work.nextPos (w : Work) (si li : Nat) (l : Layer) : Nat :=
  let t := w.stagedOf si li
  advanceE t.length (w.baseE l) t

/-! ## Answers -/

/-- Answer a refused query (R187, R280): its completion, a NOTICE on REPLY when that is another connection, a header-only
record to the node that DEST_NODE names, and a cancel to each listed sender of a collector (R204). -/
def Work.refuseQuery (w : Work) (src : Src) (part : Nat) (d : QDesc) (senders : List Nat) (status : Nat) : Work :=
  let w := w.complete src d.tag status d.queryId 0
  let w := match src with
    | .conn id _ =>
      if d.reply ≠ id ∧ ((w.connOf d.reply).map fun c : Conn => c.part) = some part then
        w.addNotice d.reply (noticeRec status w.nodeId d.queryId d.tag w.now32)
      else w
    | .queue _ _ => w
  let w := w.meter part 2 1
  let w := if d.dest ≠ 0xFFFF then (w.recordTo part d.dest (w.bareRec 0 status d (w.n.qa.next.tick.toNat % 2 ^ 32) 0) .notice).2 else w
  if d.collect then
    senders.foldl (fun w n => (w.recordTo part n (w.bareRec 2 status d (w.n.qa.next.tick.toNat % 2 ^ 32) 0) .notice).2) w
  else w

/-! ## Admission -/

/-- The payload of a query in memory form: head values, then the sender list (R183, R199). -/
def queryPayload (src : Src) (d : QDesc) (b : Bytes) : Bytes × List Nat :=
  let list := if d.collect then alignUp (2 * d.expect) 4 else 0
  let pay := b.drop 64
  let heads := pay.take (pay.length - list)
  let lst := pay.drop (pay.length - list)
  let heads := match src with
    | .conn _ _ => if d.qbf16 then swapAll 2 heads else heads
    | .queue _ _ => heads
  let lst := match src with
    | .conn _ _ => swapAll 2 lst
    | .queue _ _ => lst
  (heads, if d.collect then (List.range d.expect).map fun i => fieldAt lst (2 * i) 2 else [])

/-- Head values that R162 refuses. -/
def badValue (d : QDesc) (heads : Bytes) : Bool :=
  if d.qbf16 then (List.range (heads.length / 2)).any fun i => bf16.special (fieldAt heads (2 * i) 2)
  else heads.any fun x => x.toNat % 128 = 127

/-- The shape of a query: its row format, expanded layer, latent channels of its partial, and values per head (R183). -/
structure Shape where
  fmt : Nat
  exp : Option WLayer
  channels : Nat
  values : Nat

/-- The shape that a query's payload has to have; none while its session is unknown, when only check 4 can answer it
(DEDUCED, log 13). -/
def Work.queryShape (w : Work) (part : Nat) (d : QDesc) : Option Shape :=
  let ofFmt := fun (i : Nat) =>
    let f := w.rowFmt i
    let e := w.expanded d.layer
    { fmt := i, exp := e, channels := f.c, values := (match e with | some l => l.d | none => f.c) + f.p : Shape }
  if d.noLocal then some { (ofFmt (w.get Reg.CL_FMT)) with exp := none }
  else match w.findSession part d.session (some d.cid) with
    | .ok (_, s) => some (ofFmt s.fmt)
    | .error _ => none

/-- Check 1 of R185. -/
def Work.descOk (w : Work) (part : Nat) (d : QDesc) (b : Bytes) (sh : Option Shape) (heads : Bytes) (senders : List Nat) : Bool :=
  let list := if d.collect then alignUp (2 * d.expect) 4 else 0
  decide (fieldAt b 0 1 = 1) && decide (fieldAt b 1 1 < 16) && decide (64 ≤ b.length) &&
  decide (fieldAt b 0x20 4 < 2 ^ 20) && decide (fieldAt b 0x24 1 < 4) && zeroAt b 0x25 3 && zeroAt b 0x30 16 &&
  decide (1 ≤ d.heads ∧ d.heads ≤ 128) && decide (b.length = 64 + d.payLen) &&
  (if d.noLocal then d.collect && decide (d.session = 0 ∧ d.cid = 0) && decide (d.payLen = list)
   else match sh with
     | some s => decide (d.payLen = d.heads * s.values * (if d.qbf16 then 2 else 1) + list)
     | none => decide (list ≤ d.payLen)) &&
  (if d.collect then decide (1 ≤ d.level ∧ 1 ≤ d.expect ∧ d.expect ≤ 1023) else decide (d.level = 0 ∧ d.expect = 0)) &&
  !(senders.contains w.nodeId) && decide senders.Nodup && !badValue d heads &&
  (decide (d.dest = 0xFFFF) || (w.connTo part d.dest).isSome)

/-- Queue the promotion of a course with its deadline (R37, R77); one that is queued already keeps the earlier of its deadlines. -/
def Work.wantPromotion (w : Work) (ci : Nat) (deadline : Tick) : Work :=
  if w.n.st.prefetch.any fun r => r.course = ci then
    { w with n.st.prefetch := w.n.st.prefetch.map fun r =>
        if r.course = ci && Tick.earlier deadline r.deadline then { r with deadline := deadline } else r }
  else { w with n.st.prefetch := w.n.st.prefetch ++ [{ course := ci, deadline := deadline }] }

/-- Queue the next layer's courses that are not in tier 0, with their deadline (R77). -/
def Work.prefetchNext (w : Work) (si : Nat) (layer : Nat) : Work :=
  match w.session si with
  | none => w
  | some s =>
    let n := s.layers.length
    let before := if layer = 0 then n - 1 else layer - 1
    let measured := match s.lastQuery with
      | some (l, t) => if l = before then some (ticksTo t w.now) else s.interval
      | none => s.interval
    let i := measured.getD (w.get Reg.SPL_PF_INTERVAL)
    let w := w.setSession si { s with lastQuery := some (layer, w.now), interval := measured }
    if !w.flag Reg.SPL_PREFETCH_EN then w
    else
      let next := if layer + 1 = n then 0 else layer + 1
      let dl := w.now + BitVec.ofNat 48 i - BitVec.ofNat 48 (w.get Reg.SPL_PF_LEAD)
      let cs := (atD (s.layers.map (·.runs)) next []).map (·.course)
      cs.foldl (fun w ci =>
        match w.course ci with
        | some c => (match c.loc with
          | .hbm _ => w
          | _ => w.wantPromotion ci dl)
        | none => w) w

/-- The checks 2 to 9 of R185; the session where the query names one. -/
def Work.queryChecks (w : Work) (part : Nat) (d : QDesc) : Except Nat (Option (Nat × Session)) := do
  if !w.live part then throw stStruck
  if w.isDark then throw stFenced
  let s ← if d.noLocal then pure none else do
    let (i, s) ← w.findSession part d.session (some d.cid)
    match s.state.refusal with
    | some st => throw st
    | none => pure ()
    match w.ownCheck s with
    | some st => throw st
    | none => pure ()
    if w.n.pg.staged.any fun g => g.session = i && g.layer = d.layer then throw stExhausted
    if s.layers.length ≤ d.layer ∨ ¬ w.flag Reg.PGM_VALID 0 s.fmt then throw stInternal
    if w.n.cl.unavailable.any fun u => u.2 = d.layer then throw stInternal
    pure (some (i, s))
  if d.collect ∧ (¬ w.actFlag Reg.MRG_COLLECT_EN ∨ w.n.qa.groups.any fun g => g.part = part && g.group = d.group && !g.closed) then
    throw stInternal
  pure s

/-- Record why a query was over budget (QAD_STAT). -/
def Work.overBudget (w : Work) (c : Cause) : Work :=
  ((w.count Reg.QAD_OVER_BUDGET).set Reg.QAD_LAST_CAUSE c.res).set Reg.QAD_LAST_STACK c.unit

/-- Free running state of a query on a slot. -/
def Query.slots (q : Query) (tiles : List (Nat × Tile)) : List Nat :=
  (q.tiles.filterMap fun m => (lookupN m.tile tiles).map (·.slot)).dedup

/-- Tiles staged again because the cluster that holds the tile has no room for the query's rows (R157 and the table of events during
cluster work); `w` is the view before the query joined the sheet. -/
def Work.countRestaged (w : Work) (heads : Nat) (tiles : List (Nat × Tile)) (fresh : List Nat) : Work :=
  fresh.foldl (fun w k => match lookupN k tiles with
    | none => w
    | some x =>
      let full := tiles.any fun y => y.1 != k && y.2.course = x.course && y.2.j = x.j && y.2.pages = x.pages &&
        (decide (1024 < y.2.rows + heads) || !w.rowsFit tiles heads y.2.slot true)
      match w.physOf x.slot with
      | some c => if full then w.count Reg.CL_RESTAGED 1 c else w
      | none => w) w

/-- Admit a query into the sheet being built (R186, R188 to R194), or say why it does not fit, with the tier-2 courses whose promotion
starts all the same (R37). -/
def Work.enlist (w : Work) (src : Src) (part : Nat) (d : QDesc) (s : Option (Nat × Session)) (sh : Shape) (heads : Bytes)
    (senders : List Nat) (bytes : Nat) (a : Rat) : Except (Cause × List Nat) Work :=
  let sheet := w.n.qa.next
  let b0 := w.n.qa.budget
  let fp8 := d.fp8 && w.actFlag Reg.MRG_FP8_EN
  let recLen := partialLen d.heads sh.channels fp8
  let want := match s with
    | some (_, s) => w.layerTiles s d.layer
    | none => []
  let named := want.foldl (fun n t => n + t.pages.length) 0
  let tier2 := want.filter (·.tier2)
  -- a tier-2 page fits only when its promotion runs before the sheet freezes (R37; DEDUCED, log 14); in Rehearsal a tier-1 page of die 1
  -- fits nowhere, and its promotion starts too (R460)
  let due := fun ci => match w.moveOf ci with
    | some (_, m) => Tick.earlier m.started sheet.tick
    | none => false
  let stuck := want.filter fun t => (t.tier2 && !due t.course) || (t.tier1 && !t.tier2 && decide (w.nodeState = 1) && !w.lastReh && decide (t.die = 1))
  let place0 : Placing := { b := b0, tiles := sheet.tiles, mine := [], fresh := [], joined := 0 }
  let placed := want.foldlM (fun p t => w.placeTile sh.fmt d sh.exp p t) place0
  let groups := (w.n.qa.groups.filter fun g => !g.closed).length
  let res : Except Cause (Placing × Budget) :=
    if !w.flag Reg.QAD_ADMIT_EN then .error (Cause.mk 8 0)
    else match placed with
      | .error c => .error (Cause.mk 4 c)
      | .ok p =>
        -- no visible row (R194): the session pool alone is charged; the sheet still has to have an entry for it (R190)
        if named = 0 ∧ !d.noLocal then
          if w.poolBase + b0.poolExtra < b0.poolUsed + bytes + recLen then .error (Cause.mk 6 0)
          else if w.sheetFull d sheet.queries.length groups then .error (Cause.mk 8 0)
          else .ok (p, { b0 with poolUsed := b0.poolUsed + bytes + recLen })
        else (w.budgetTests b0 p part sh.fmt d sh.exp a bytes recLen sheet.queries.length groups).map fun b => (p, b)
  let promote := (stuck.map (·.course)).dedup
  match res with
  | .error c => .error (c, promote)
  | .ok (p, b) =>
    if !promote.isEmpty then .error (Cause.mk 9 0, promote)
    else
      let q : Query :=
        { src := src, part := part, desc := { d with fp8 := fp8 }, arrival := w.now, sheet := sheet.tick
          session := (s.map (·.1)).getD 0, fmt := sh.fmt, channels := sh.channels, expanded := sh.exp.isSome
          payload := heads, senders := senders, tiles := p.mine, pagesNamed := named, rbs := [], results := [], folded := []
          acc := List.replicate d.heads (RowState.empty sh.channels), dropped := [], spoiled := false, fixedVis := false
          status := 0, phase := .running, record := none }
      let k := w.n.qa.nextQuery
      let f := w.rowFmt sh.fmt
      let attended := want.foldl (fun n t => n + t.pages.foldl (fun m pg => m + pageRead f pg.2) 0) 0
      let read := p.fresh.foldl (fun n t => n + t.2.pages.foldl (fun m pg => m + pageRead f pg.2) 0) 0
      let cost := (List.range 24).foldl (fun n i => n + (w.slotCost p.b i - w.slotCost b0 i)) 0
      let w := w.countRestaged d.heads p.tiles (p.fresh.map (·.1))
      let w := { w with n.qa.next := { sheet with queries := insertN k q sheet.queries, tiles := p.tiles },
                        n.qa.budget := b, n.qa.nextQuery := k + 1 }
      let w := (w.count Reg.QAD_ADMITTED).count Reg.QAD_BATCHED p.joined
      .ok (((w.meter part 3 cost).meter part 4 attended).meter part 5 read)

/-- Open the collector's group (R204). -/
def Work.openGroup (w : Work) (src : Src) (part : Nat) (d : QDesc) (sh : Shape) (senders : List Nat) : Work :=
  let g : Group := { part := part, group := d.group, desc := d, src := src, arrival := w.now, sheet := w.n.qa.next.tick, fmtC := sh.channels
                     senders := senders, inputs := [], own := none, needOwn := !d.noLocal, closed := false }
  let rest := w.n.qa.groups.filter fun x : Group => !(x.closed && x.part = part && x.group = d.group)
  -- header-only records that came early meet the group they were kept for (R206); a group with every input sends at once (R207)
  let mine := w.n.qa.early.filter fun e => e.2.part = part && e.2.prec.group = d.group
  let w : Work := { w with n.qa.groups := rest ++ [g]
                           n.qa.early := w.n.qa.early.filter fun e => !(e.2.part = part && e.2.prec.group = d.group) }
  (mine.foldl (fun w e => w.joinGroup part e.2.prec) w.showOpen).groupCheck part d.group

/-- A query arrives (R185 to R187): it is admitted, or refused at once and leaves nothing behind. A Dark node answers every one with FENCED
(R288, R457). -/
def Work.attend (w : Work) (src : Src) (part : Nat) (b : Bytes) (a : Rat) : Work :=
  let m := (match src with | .conn _ _ => swapFields queryFields (b.take 64) | .queue _ _ => b.take 64) ++ b.drop 64
  let d := QDesc.read m
  let sh := w.queryShape part d
  let (heads, senders) := queryPayload src d m
  let refuse := fun st => (w.count Reg.QAD_REFUSED_OTHER).refuseQuery src part d senders st
  if w.isDark then refuse stFenced
  else if !w.descOk part d m sh heads senders then refuse stInternal
  else match w.queryChecks part d with
    | .error st => refuse st
    | .ok s =>
      match sh with
      | none => refuse stNoSession
      | some sh =>
        match w.enlist src part d s sh heads senders b.length a with
        | .error (c, stuck) =>
          let w := stuck.foldl (fun w ci => w.wantPromotion ci w.now) w
          (w.overBudget c).refuseQuery src part d senders stOverBudget
        | .ok w =>
          let w := if d.collect then w.openGroup src part d sh senders else w
          let w := match s with
            | some (i, _) => w.prefetchNext i d.layer
            | none => w
          let w := w.showBudget part
          match src with
          | .conn _ _ => w.complete src d.tag stOK d.queryId 0
          | .queue _ _ => if d.dest = 0xFFFF then w.arrive src else w.complete src d.tag stOK d.queryId 0

/-- `ATTEND` (R185): a query that arrived is admitted to sheet n+1 or refused at once; `at_` is the moment of its arrival in its arrival
tick, in ps. -/
def execAttend (src : Src) (payload : Bytes) (at_ : Nat) (s : State) : Host.Outcome State Fault Refusal :=
  run s fun w =>
    match w.partOf src with
    | some part =>
      w.srcActs src 4 payload fun w => w.asArrived src fun w => w.attend src part payload (w.sheetOffNs + (at_ : Rat) / 1000)
    | none => w

/-- What a stack's reservations may come to, between the bounds that the other `rest` stacks and the stack's own floor leave of `left`
bytes: the spec does not say on which stacks the reservations of R74 and the mirror engine fall, so each share is a free value
(log 124). -/
def Work.reserveOn (w : Work) (floor left rest : Nat) : Nat × Work :=
  let d := w.draw
  let lo := left - rest * floor
  let hi := min floor left
  (lo + d.1 % (hi - lo + 1), d.2)

/-- U_s of each stack (R192): the floor bytes that the reservations, `left` in all, leave unused on it. -/
def Work.unusedOn (w : Work) (floor : Nat) : Nat → Nat → List Nat × Work
  | 0, _ => ([], w)
  | n + 1, left =>
    let x := w.reserveOn floor left n
    let r := x.2.unusedOn floor n (left - x.1)
    ((floor - x.1) :: r.1, r.2)

/-- Bulk and mirror floor bytes of one stack in the sheet being built (R43, R192). -/
def Work.floorBytes (w : Work) : Nat :=
  2048 * w.nextSheetNs * (w.get Reg.CST_BULK_FLOOR + w.get Reg.CST_MIRROR_FLOOR) / 100

/-- Bytes that the engines have reserved of the floors (R74, R192). -/
def Work.reservedBytes (w : Work) : Nat := w.n.st.grants.foldl (· + ·) 0 + w.n.st.mirrorReserved

/-- `LEND_POINT` (R192): the floor bytes that the engines' reservations leave unused go to the session pool, taken equally from every
stack, and advance the stacks' horizons, once per tick. -/
def execLendPoint (s : State) : Host.Outcome State Fault Refusal :=
  run s fun w =>
    let b := w.n.qa.budget
    if b.lent ∨ ¬ w.flag Reg.QAD_LEND_EN then w
    else
      let serving := w.sheetStacks
      let u := w.unusedOn w.floorBytes serving.length w.reservedBytes
      let w := u.2
      let unused := u.1.foldl (· + ·) 0
      let toPool := unused * w.acting Reg.QAD_SESSION_PCT / 100
      let paid : Rat := (toPool : Rat) / (max serving.length 1 : Nat)
      let a : Rat := w.clampPoint (w.acting Reg.QAD_POINT)
      let r := w.stackRate
      let h := b.hHbm.mapIdx fun i h =>
        match (serving.zip u.1).find? fun e => e.1 = i with
        | some e => if r = 0 then h else max a (h - max 0 ((e.2 : Rat) - paid) / r)
        | none => h
      let w := { w with n.qa.budget := { b with hHbm := h, poolExtra := b.poolExtra + toPool, lent := true } }
      (w.set Reg.CST_LENT (unused / 1024)).showPool

end Sys2Proof.Machine
end

