-- ==== Sys2Proof/Machine/Merge.lean ====
section
/-!
DEFINITION. Sys2Proof/Machine/Merge.lean: partials and merging (R193 to R208): results of clusters, partial records, their
way out, and the groups of a collector. Commands COMPUTE_CUTOFF, EGRESS_PHASE, PARTIAL, CREDIT_RECORD, CANCEL_RECORD,
COLLECTOR_DEADLINE, CREDIT_WAIT_EXPIRED, EARLY_WAIT_EXPIRED, RESULT_PORT_TRANSFER.
-/

namespace Sys2Proof.Machine

/-! ## What a query has come to -/

/-- Head blocks of a query: blocks of 32 heads, or heads in expand mode (R169, R178). -/
def Query.headBlocks (q : Query) : Nat := if q.expanded then q.desc.heads else ceilDiv q.desc.heads 32

/-- Every row block of the query has finished the tile (R175), and its slot's result was not dropped. -/
def Query.tileDone (q : Query) (tiles : List (Nat × Tile)) (t : Nat) : Bool :=
  (List.range q.headBlocks).all (fun hb => q.rbs.any fun r => r.headBlock = hb && r.done.contains t) &&
  (match lookupN t tiles with
   | some x => !(q.dropped.contains x.slot)
   | none => false)

/-- PAGES_DONE (R193): the named pages of finished tiles, less the pages left out (R41). -/
def Query.pagesDone (q : Query) (tiles : List (Nat × Tile)) : Nat :=
  q.tiles.foldl (fun n m => if q.tileDone tiles m.tile then
      n + (m.vis.filter fun v => match lookupN m.tile tiles with
        | some x => !(x.lostPages.contains v.1)
        | none => false).length
    else n) 0

/-- The result of a slot (R173): for each head, the states of its row blocks folded in ascending order. -/
def Query.slotResult (q : Query) (slot : Nat) : StateM Nat (List RowState) :=
  (List.range q.desc.heads).mapM fun h =>
    let hb := if q.expanded then h else h / 32
    let i := if q.expanded then 0 else h % 32
    let mine := sortKeyRb (q.rbs.filter fun r => r.slot = slot && r.headBlock = hb)
    mine.foldlM (fun s r => foldState s (atD r.st i (RowState.empty q.channels))) (RowState.empty q.channels)
where
  /-- Row blocks in ascending order. -/
  sortKeyRb (l : List RbState) : List RbState :=
    let top := (l.map (·.rb)).foldl max 0
    ((List.range (top + 1)).map fun k => l.filter fun r => r.rb = k).flatten

/-- Fold the results that have arrived, in ascending slot order (R197): a result waits for every lower slot of the query
that has work. -/
def Query.foldReady (q : Query) (slots : List Nat) : Query :=
  (List.range 24).foldl (fun q s =>
    if slots.contains s && !(q.folded.contains s) && !(q.dropped.contains s) &&
        (slots.all fun t => s ≤ t || q.folded.contains t || q.dropped.contains t) then
      match lookupN s q.results with
      | some r => { q with acc := ((foldHeads q.acc r).run 0).1, folded := q.folded ++ [s], results := eraseN s q.results }
      | none => q
    else q) q

/-- Change a query on the running sheet. -/
def Work.modQuery (w : Work) (k : Nat) (f : Query → Query) : Work :=
  { w with n.qa.cur := { w.n.qa.cur with queries := modifyN k f w.n.qa.cur.queries } }

/-- Give the merge unit a slot's whole result for a query; saturations of the cluster's own merge of the row blocks' states (R173) are
the cluster's (R161). -/
def Work.takeResult (w : Work) (k slot : Nat) : Work :=
  match lookupN k w.n.qa.cur.queries with
  | none => w
  | some q =>
    if q.dropped.contains slot ∨ q.folded.contains slot then w
    else
      let r := (q.slotResult slot).run 0
      let q := { q with results := insertN slot r.1 q.results }
      let w := (w.modQuery k fun _ => q.foldReady (q.slots w.n.qa.cur.tiles)).count Reg.MRG_RESULTS
      match w.physOf slot with
      | some c => w.count Reg.CL_SAT_CNT r.2 c
      | none => w

/-- Segments of a query's result (R195). -/
def Query.segments (q : Query) : Nat := max 1 (ceilDiv (q.desc.heads * (8 + 4 * q.channels)) 65536)

/-- Buffers of a port that are free take the next segments of the results that the cluster holds (R195): two buffers, a segment
each. -/
def fillPort : Nat → List (Nat × Nat) × List (Nat × Nat) → List (Nat × Nat) × List (Nat × Nat)
  | 0, p => p
  | fuel + 1, (bufs, held) =>
    if 2 ≤ bufs.length then (bufs, held)
    else match held with
      | [] => (bufs, [])
      | (k, left) :: rest => fillPort fuel (bufs ++ [(k, left - 1)], if left ≤ 1 then rest else (k, left - 1) :: rest)

/-- The port of a slot with what its cluster holds, once its free buffers are filled. -/
def Work.setResultPort (w : Work) (slot : Nat) (bufs held : List (Nat × Nat)) : Work :=
  let p := fillPort 2 (bufs, held)
  { w with n.qa.ports := insertN slot p.1 w.n.qa.ports, n.qa.resultsHeld := insertN slot p.2 w.n.qa.resultsHeld }

/-- The buffers of a slot's port, and the results its cluster holds. -/
def Work.portOf (w : Work) (slot : Nat) : List (Nat × Nat) := (lookupN slot w.n.qa.ports).getD []
def Work.heldResults (w : Work) (slot : Nat) : List (Nat × Nat) := (lookupN slot w.n.qa.resultsHeld).getD []

/-- `RESULT_PORT_TRANSFER` (R195 to R197): the merge unit takes the segment of up to 64 KiB in the first buffer of a slot's port; the
last segment of a result completes it, and the buffer that frees takes the next segment that the cluster holds. -/
def execResultPortTransfer (slot : Nat) (s : State) : Host.Outcome State Fault Refusal :=
  run s fun w =>
    match w.portOf slot with
    | [] => w
    | (k, left) :: rest =>
      let w := w.setResultPort slot rest (w.heldResults slot)
      if left = 0 then w.takeResult k slot else w

/-- A slot's result of a query goes to its port, once; while both buffers are full the cluster holds it (R195). -/
def Work.offerResult (w : Work) (k slot : Nat) : Work :=
  match lookupN k w.n.qa.cur.queries with
  | none => w
  | some q =>
    let bufs := w.portOf slot
    let held := w.heldResults slot
    if q.folded.contains slot ∨ q.dropped.contains slot ∨ (lookupN slot q.results).isSome ∨ (bufs ++ held).any (fun e => e.1 = k) then w
    else w.setResultPort slot bufs (held ++ [(k, q.segments)])

/-- Every row block of the query has finished its tiles on a slot. -/
def Query.slotDone (q : Query) (tiles : List (Nat × Tile)) (slot : Nat) : Bool :=
  q.tiles.all fun m => match lookupN m.tile tiles with
    | some x => x.slot != slot || (List.range q.headBlocks).all (fun hb => q.rbs.any fun r => r.headBlock = hb && r.done.contains m.tile)
    | none => true

/-! ## Records -/

/-- Form the partial record of a query whose results are folded (R193, R199, R200). -/
def Work.formRecord (w : Work) (q : Query) (tiles : List (Nat × Tile)) : PartialRec :=
  let done := q.pagesDone tiles
  let st := if q.status ≠ 0 then q.status else if q.spoiled ∨ done < q.pagesNamed then stIncomplete else stOK
  let ho := decide (0x10 ≤ st)
  { kind := 0, status := st, fp8 := q.desc.fp8, headerOnly := ho, level := 0, heads := q.desc.heads, group := q.desc.group
    queryId := q.desc.queryId, srcNode := w.nodeId, channels := q.channels, pagesDone := done, pagesNamed := q.pagesNamed
    tick := q.sheet.toNat % 2 ^ 32, merged := 1, missing := 0, vec := if ho then [] else q.acc.map (headOf q.desc.fp8) }

/-- The node's partial for an admitted query has left (R35): the box office counts it (R478), and it is on time while its sheet's
tick still runs (R11). -/
def Work.partialLeft (w : Work) (part : Nat) (sheet : Tick) (status : Nat) : Work :=
  if status = stIncomplete then w.meter part 1 1
  else if status = stOK then
    (if w.n.qa.cur.tick = sheet then w.count Reg.QAD_ON_TIME else w).meter part 0 1
  else w

/-- An admitted query is sent INCOMPLETE (R193): counted and logged. -/
def Work.noteIncomplete (w : Work) (part : Nat) (r : PartialRec) : Work :=
  if r.status = stIncomplete then
    (w.count Reg.QAD_INCOMPLETE).log { code := 0x4201, page := 0x4B, part := some part, arg := r.queryId, status := r.status
                                       detail := min r.pagesDone 65535 + min r.pagesNamed 65535 * 65536 }
  else w

/-- A query's partial is sent (R198): into its own group at a collector, where it leaves at once (R207); to a host queue, where it
leaves with its completion entry (R35); over a link, where it leaves with its last packet. -/
def Work.egress (w : Work) (q : Query) (r : PartialRec) : Work :=
  let w := w.noteIncomplete q.part r
  if q.desc.collect then
    let w := { w with n.qa.groups := w.n.qa.groups.map fun x : Group =>
        if x.part = q.part && x.group = q.desc.group && x.needOwn && !x.closed then { x with own := some r } else x }
    (w.partialLeft q.part q.sheet r.status).groupCheck q.part q.desc.group
  else
    let w := w.sendPartial q.src q.part q.desc r q.sheet (.partialDue q.part q.sheet r.status)
    match q.src, decide (q.desc.dest = 0xFFFF) with
    | .queue _ _, true => w.partialLeft q.part q.sheet r.status
    | _, _ => w

/-! ## The phases -/

/-- The sheet drains (R40): no query of it computes any more. -/
def Sheet.drain (s : Sheet) : Sheet :=
  { s with state := .draining
           queries := s.queries.map fun e : Nat × Query => if e.2.phase = .running then (e.1, { e.2 with phase := .stopped }) else e }

/-- A running sheet whose every query is finished drains before the cutoff (R40). -/
def Work.drainEarly (w : Work) : Work :=
  let c := w.n.qa.cur
  if c.state = .running ∧ c.queries.all fun e => (e.2.slots c.tiles).all fun sl => e.2.slotDone c.tiles sl then
    { w with n.qa.cur := c.drain }
  else w

/-- `COMPUTE_CUTOFF` (R42, R193, R198): at T − 240 ns the queries not finished stop, and each cluster counts the ones it left;
every slot's result goes to its port, and the merge unit forms the records. -/
def execComputeCutoff (s : State) : Host.Outcome State Fault Refusal :=
  run s fun w =>
    let sheet := w.n.qa.cur
    if sheet.state ≠ .running then { w with n.qa.cur := { sheet with cutoff := true } }
    else
      let w := sheet.queries.foldl (fun w e => (e.2.slots sheet.tiles).foldl (fun w sl =>
        let w := if e.2.slotDone sheet.tiles sl then w
          else match w.physOf sl with
            | some c => w.count Reg.CL_CUTOFF 1 c
            | none => w
        w.offerResult e.1 sl) w) w
      { w with n.qa.cur := { w.n.qa.cur.drain with cutoff := true } }

/-- Everything still on the result ports is absorbed before egress (R196). -/
def Work.drainPorts (w : Work) : Work :=
  let w := (List.range 24).foldl (fun w sl =>
    ((w.portOf sl ++ w.heldResults sl).map (·.1)).dedup.foldl (fun w k => w.takeResult k sl) w) w
  { w with n.qa.ports := [], n.qa.resultsHeld := [] }

/-- Held partials whose credit has come are enqueued (R205). -/
def Work.sendHeld (w : Work) : Work :=
  w.n.qa.held.foldl (fun w e =>
    if w.n.qa.credits.any fun c => c = (e.2.part, e.2.prec.group) then
      let w := { w with n.qa.credits := w.n.qa.credits.erase (e.2.part, e.2.prec.group), n.qa.held := eraseN e.1 w.n.qa.held }
      (w.recordTo e.2.part e.2.dest e.2.prec (.partialDue e.2.part e.2.sheet e.2.prec.status)).2
    else w) w

/-- A partial of the sheet has not left: a query's, one held for a credit, or one whose last packet is not on a port (R35). -/
def Work.partialWaits (w : Work) (sheet : Sheet) : Bool :=
  (sheet.queries.any fun e => e.2.phase != .left) || (w.n.qa.held.any fun h => h.2.sheet = sheet.tick) ||
    w.n.tp.outMsgs.any fun m => match m.2.purpose with
      | .partialDue _ t _ => decide (t = sheet.tick)
      | _ => false

/-- Courses whose last reference has gone and that no open sheet pins any more are freed (R99, R40). -/
def Work.freeDying (w : Work) : Work :=
  w.n.st.dying.foldl (fun w ci => if w.pinned ci then w else w.freeCourse ci) w

/-- A draining sheet whose partials have all left closes (R40): it pins nothing more. Its tick's counts are taken at the boundary. -/
def Work.closeLeft (w : Work) : Work :=
  let c := w.n.qa.cur
  if c.state = .draining ∧ !w.partialWaits c then ({ w with n.qa.cur := { c with state := .closed } }).freeDying else w

/-- The last packet of an outbound message is on a port's transmit queue: a partial has left (R35). -/
def Work.msgLeft (w : Work) (k : Nat) : Work :=
  match (lookupN k w.n.tp.outMsgs).map fun m : OutMsg => m.purpose with
  | some (.partialDue part sheet status) =>
    let w := { w with n.tp.outMsgs := modifyN k (fun m : OutMsg => { m with purpose := .partialSend }) w.n.tp.outMsgs }
    (w.partialLeft part sheet status).closeLeft
  | _ => w

/-- `EGRESS_PHASE` (R198, R35, R205): from T − 60 ns the records of the sheet leave, those that need a credit and hold none
are kept, and records kept from earlier sheets whose credit has come leave. -/
def execEgressPhase (s : State) : Host.Outcome State Fault Refusal :=
  run s fun w =>
    -- a sheet whose own partials have left has nothing more to send, but records held from earlier sheets go
    if w.n.qa.cur.state = .closed ∧ !w.isDark then w.sendHeld
    else if w.n.qa.cur.state ≠ .draining then w
    else
      let w := ({ w with n.qa.cur := { w.n.qa.cur with cutoff := true } }).drainPorts.sendHeld
      let tiles := w.n.qa.cur.tiles
      let w := w.n.qa.cur.queries.foldl (fun w e =>
        if e.2.phase = .left then w
        else
          let r := w.formRecord e.2 tiles
          let w := w.modQuery e.1 fun q => { q with phase := .left, record := some r }
          w.egress e.2 r) w
      w.closeLeft

/-- A complete message of a connection acts: refused when its sender is fenced and it is no fence presentation (R396), when its partition was
struck (R360), or, in classes 1 to 3, on a Dark node (R288). -/
def Work.msgActs (w : Work) (conn msn : Nat) (class0 : Bool) (act : Work → Conn → Work) (presents : Bool := false) : Work :=
  match w.connOf conn with
  | none => w
  | some c =>
    if !w.srcOk (.conn conn msn) then w
    else if w.staleSender c && !presents then (w.count Reg.MIR_STALE_REFUSED).completeMsg conn msn 0 stStale 0 0
    else if w.isDark && !class0 then w.completeMsg conn msn 0 stFenced 0 0
    else if !w.live c.part then w.completeMsg conn msn 0 stStruck 0 0
    else act w c

/-! ## Records that arrive -/

/-- A partial whose group has not opened (R206): a header-only record is kept, any other rejected. -/
def Work.beforeGroup (w : Work) (conn part : Nat) (r : PartialRec) : Work :=
  if r.headerOnly then
    { w with n.qa.early := insertN (freshKey 0 w.n.qa.early) { part := part, conn := conn, prec := r, arrived := w.now } w.n.qa.early }
  else w.rejectPartial part r

/-- A partial arrives at a collector (R206, R207). -/
def Work.takePartial (w : Work) (conn part : Nat) (r : PartialRec) : Work :=
  match w.n.qa.groups.find? fun g : Group => g.part = part && g.group = r.group with
  | some g =>
    if !g.closed then (w.joinGroup part r).groupCheck part r.group
    -- an input of a group that has sent its result is late; any other record is for a group that has not opened
    else if g.sent && g.takes r then w.count Reg.MRG_LATE
    else w.beforeGroup conn part r
  | none => w.beforeGroup conn part r

/-- A message of OP PARTIAL that carries a record of a kind acts, and completes with OK (R285); one that is no record completes with
INTERNAL (DESIGN CHOICE, log 135). A Dark node answers FENCED (R288). -/
def Work.recordActs (w : Work) (conn msn kind : Nat) (record : Bytes) (act : Work → Nat → PartialRec → Work) : Work :=
  w.msgActs conn msn false fun w c => match PartialRec.read record with
    | some r => if r.kind = kind then (act w c.part r).completeMsg conn msn 0 stOK 0 0 else w
    | none => w.completeMsg conn msn 0 stInternal 0 0

/-- `PARTIAL` (R201, R203, R206, R207). -/
def execPartialRecord (msg : MsgRef) (record : Bytes) (s : State) : Host.Outcome State Fault Refusal :=
  run s fun w => w.recordActs msg.conn msg.msn 0 record fun w part r => w.takePartial msg.conn part r

/-- `CREDIT_RECORD` (R204, R205): a credit for a group; it admits one partial in an egress phase. -/
def execCreditRecord (msg : MsgRef) (record : Bytes) (s : State) : Host.Outcome State Fault Refusal :=
  run s fun w => w.recordActs msg.conn msg.msn 1 record fun w part r => { w with n.qa.credits := w.n.qa.credits ++ [(part, r.group)] }

/-- A partial for a group will not be sent (R204): its query's record is dropped at the sheet, or the held record goes; a collector that
is itself a sender closes its group, with what it has merged. -/
def Work.discardGroup (w : Work) (part group : Nat) : Work :=
  let open_ := fun g : Group => g.part = part && g.group = group && !g.closed && g.desc.dest != 0xFFFF
  let held := w.n.qa.held.filter fun e => e.2.part = part && e.2.prec.group = group
  let mine := fun e : Nat × Query => e.2.part = part && e.2.desc.group = group && e.2.desc.dest != 0xFFFF &&
    e.2.phase != .left
  let sends := fun e : Nat × Query => mine e && !e.2.desc.collect
  let n := held.length + (w.n.qa.groups.filter open_).length + (w.n.qa.cur.queries.filter sends).length + (w.n.qa.next.queries.filter sends).length
  let leave := fun e : Nat × Query => if mine e then (e.1, { e.2 with phase := .left }) else e
  let drop := fun s : Sheet => { s with queries := s.queries.map leave }
  let w := { w with n.qa.held := w.n.qa.held.filter fun e => !(e.2.part = part && e.2.prec.group = group)
                    n.qa.credits := w.n.qa.credits.filter fun c => c != (part, group)
                    n.qa.groups := w.n.qa.groups.map fun g : Group => if open_ g then { g with closed := true, inputs := [], own := none } else g
                    n.qa.cur := drop w.n.qa.cur, n.qa.next := drop w.n.qa.next }
  w.showOpen.count Reg.MRG_DISCARDED n

/-- `CANCEL_RECORD` (R204). -/
def execCancelRecord (msg : MsgRef) (record : Bytes) (s : State) : Host.Outcome State Fault Refusal :=
  run s fun w => w.recordActs msg.conn msg.msn 2 record fun w part r => w.discardGroup part r.group

/-- `COLLECTOR_DEADLINE` (R207): at the end of tick n + 1 + L the collector sends what it has. -/
def execCollectorDeadline (part group : Nat) (s : State) : Host.Outcome State Fault Refusal :=
  run s fun w =>
    match w.n.qa.groups.find? fun g : Group => g.part = part && g.group = group && !g.closed with
    | some g =>
      if ticksTo g.sheet w.now + 1 < (1 + g.desc.level) * w.repTicks ∨ 2 ^ 47 ≤ ticksTo g.sheet w.now then w
      else
        let absent := g.desc.expect - g.inputs.length
        let w := w.count Reg.MRG_MISSING absent
        let w := if absent = 0 then w
          else w.log { code := 0x4204, page := 0x4A, part := some part, arg := group, detail := absent }
        w.closeGroup g (w.mergeGroup g)
    | none => w

/-- `CREDIT_WAIT_EXPIRED` (R205): no credit by the end of CREDIT_WAIT ticks after the record's sheet: it is discarded; a
record whose credit has come waits for the next egress phase. -/
def execCreditWaitExpired (held : Nat) (s : State) : Host.Outcome State Fault Refusal :=
  run s fun w =>
    match lookupN held w.n.qa.held with
    | some h =>
      if w.reached (h.sheet + BitVec.ofNat 48 (w.acting Reg.MRG_CREDIT_WAIT * w.repTicks)) &&
          !(w.n.qa.credits.any fun c => c = (h.part, h.prec.group)) then
        ({ w with n.qa.held := eraseN held w.n.qa.held }).count Reg.MRG_DISCARDED
      else w
    | none => w

/-- `EARLY_WAIT_EXPIRED` (R206): a header-only record whose group has not opened is dropped and counted. -/
def execEarlyWaitExpired (early : Nat) (s : State) : Host.Outcome State Fault Refusal :=
  run s fun w =>
    match lookupN early w.n.qa.early with
    | some e =>
      if w.reached (e.arrived + BitVec.ofNat 48 (w.acting Reg.MRG_EARLY_WAIT * w.repTicks)) then
        ({ w with n.qa.early := eraseN early w.n.qa.early }).rejectPartial e.part e.prec
      else w
    | none => w

/-! ## Queries that end before their record -/

/-- Answer an admitted query with a status and nothing else (R40): a header-only record where its result would go. -/
def Work.answerQuery (w : Work) (q : Query) (status : Nat) : Work :=
  let r := { w.bareRec 0 status q.desc (q.sheet.toNat % 2 ^ 32) q.channels with pagesNamed := q.pagesNamed }
  if q.desc.collect then
    { w with n.qa.groups := w.n.qa.groups.map fun x : Group =>
        if x.part = q.part && x.group = q.desc.group && !x.closed then { x with own := some r } else x }
  else w.sendPartial q.src q.part q.desc r q.sheet .partialSend

/-- Answer the queries of a sheet that some test picks, and take them off their work. -/
def Work.answerSheet (w : Work) (sheet : Sheet) (pick : Query → Bool) (status : Nat) : Work :=
  sheet.queries.foldl (fun w e => if pick e.2 && e.2.phase != .left then w.answerQuery e.2 status else w) w

end Sys2Proof.Machine
end

