-- ==== Sys2Proof/Machine/Fence.lean ====
section
/-!
DEFINITION. Sys2Proof/Machine/Fence.lean: entering Dark (R40's Closed rows, R397, R456, R463), the release of what waits for
pins, and the refusal of a Dark node (R288).
-/

namespace Sys2Proof.Machine

/-- A sheet that is closed: nothing on it, nothing pinned. -/
def Sheet.shut (s : Sheet) : Sheet := { tick := s.tick, state := .closed, queries := [], tiles := [] }

/-- The node enters Dark (R397, R456): the sheet being built and a running sheet answer their queries with FENCED and close
(a query whose partial has not left counts as unfinished: DEDUCED, log 16); open groups close and send nothing (R208's
table); a named promotion is cancelled (R463). A draining sheet still drains. -/
def Work.enterDark (w : Work) : Work :=
  if w.isDark then w
  else
    let w := { w with n.bo.promoteAt := none
                      n.qa.groups := w.n.qa.groups.map fun g : Group => { g with closed := true, inputs := [], own := none } }
    let w := (w.set Reg.GLB_PROMOTING 0).showOpen
    let w := w.answerSheet w.n.qa.next (fun _ => true) stFenced
    let w := if w.n.qa.cur.state = .running then w.answerSheet w.n.qa.cur (fun _ => true) stFenced else w
    let cur := w.n.qa.cur
    let running := decide (cur.state = .running)
    let w := { w with n.qa.next := w.n.qa.next.shut, n.qa.cur := if running then cur.shut else cur
                      n.qa.budget := Budget.empty, n.qa.ports := if running then [] else w.n.qa.ports }
    (w.setNodeState 0).freeDying

/-- The node fences itself (R85, R397, R399, R445): Dark, and until a LEASE of a higher epoch (R397, R456; DEDUCED, log 99). -/
def Work.fenceSelf (w : Work) : Work := { w.enterDark with n.mi.fenced := true }

/-- A message of classes 1 to 3 that reaches a Dark node completes with FENCED and does not act (R288). -/
def Work.unlessDark (w : Work) (conn msn tag : Nat) (act : Work → Work) : Work :=
  if w.isDark then w.completeMsg conn msn tag stFenced 0 0 else act w

/-- A request that a Dark node refuses (R288 for a message, R457 for a host entry). -/
def Work.servedUnlessDark (w : Work) (src : Src) (tag : Nat) (act : Work → Work) : Work :=
  if w.isDark then w.complete src tag stFenced 0 0 else act w

end Sys2Proof.Machine
end

