-- ==== Sys2Proof/Machine/Expand.lean ====
section
/-!
DEFINITION. Sys2Proof/Machine/Expand.lean: the expander instances (R211, R223 to R226, R236): what one of them does with a block, its
retry on the spare, and the instance that decodes a stored block.
-/

namespace Sys2Proof.Machine

open Sys2Proof.Crypto (sha3v bytes32)

/-! ## Measurements (R368) -/

/-- Extend a measurement slot with a digest. -/
def Work.extendMeas (w : Work) (slot : Nat) (d : BitVec 256) : Work :=
  { w with n.se.meas := w.n.se.meas.modify slot fun m => sha3v (bytes32 m ++ bytes32 d) }

/-- Extend a measurement slot with a digest of a record whose layout the spec does not state: a free value (log 26). -/
def Work.extendFree (w : Work) (slot : Nat) : Work :=
  let d := w.draw
  d.2.extendMeas slot (BitVec.ofNat 256 d.1)

/-! ## Instances -/

/-- The spare expander of an instance's die. -/
def spareOf (inst : Nat) : Nat := if (4 ≤ inst ∧ inst < 8) ∨ (14 ≤ inst ∧ inst < 20) ∨ inst = 21 ∨ inst = 24 then 24 else 23

/-- The instance's spare is in service and stands in for no other (R225). -/
def Work.spareFree (w : Work) (inst : Nat) : Bool :=
  let sp := spareOf inst
  inst != sp && w.flag Reg.XPD_ACTIVE 0 sp && !(w.n.cp.standIn.any fun e => e.2 = sp)

/-- The counter of a reason code (R224, XPD counters). -/
def failCounter (reason : Nat) : Fld :=
  if reason ≤ 2 then Reg.XPD_FAIL_HDR else if reason = 3 then Reg.XPD_FAIL_TABLE else if reason = 4 then Reg.XPD_FAIL_PREFIX
  else if reason = 5 then Reg.XPD_FAIL_UNDERRUN else if reason = 6 then Reg.XPD_FAIL_OVERRUN else Reg.XPD_FAIL_CRC

/-- A streamed layer becomes unavailable on a die (R226): its tiles there that no row block has attended are left out. -/
def Work.layerLost (w : Work) (die layer : Nat) : Work :=
  if w.n.cl.unavailable.contains (die, layer) then w
  else
    let leave := fun s : Sheet => { s with tiles := s.tiles.map fun (t : Nat × Tile) =>
      let users := s.queries.filter fun q => q.2.expanded && q.2.tiles.any fun m => m.tile = t.1
      let seen := users.any fun q => q.2.rbs.any fun r => r.done.contains t.1
      let here := (match w.physOf t.2.slot with | some c => decide (c / 13 = die) | none => false) &&
        ((w.course t.2.course).map fun c => decide (c.layer = layer)).getD false
      if here && !users.isEmpty && !seen then (t.1, { t.2 with lostPages := t.2.pages }) else t }
    { w with n.cl.unavailable := w.n.cl.unavailable ++ [(die, layer)], n.qa.cur := leave w.n.qa.cur, n.qa.next := leave w.n.qa.next }.report
      { code := 0x4504, page := 0x29, detail := layer + die * 256 }

/-- A layer is streamed on a die (R179): it has no place in that die's store. -/
def WLayer.streamed (l : WLayer) (die : Nat) : Bool := if die = 0 then l.at0.isNone else l.at1.isNone

/-- A streamed layer of a die that has no weight-path expander left is unavailable (R226, R236). -/
def Work.streamCheck (w : Work) (die : Nat) : Work :=
  if (w.weightExpander die).isSome then w
  else w.n.cl.weights.foldl (fun w l => if l.streamed die then w.layerLost die l.layer else w) w

/-- Retire an expander (R225): its die's spare stands in, if it is free. -/
def Work.retireExpander (w : Work) (inst : Nat) : Work :=
  if !w.flag Reg.XPD_ACTIVE 0 inst then w
  else
    let free := w.spareFree inst
    let sp := spareOf inst
    let w := (w.set Reg.XPD_ACTIVE 0 0 inst).set Reg.XPD_FAULTED 1 0 inst
    let w :=
      if free then
        let w := { w with n.cp.standIn := insertN inst sp w.n.cp.standIn }
        let w := w.set Reg.XPD_STANDS_FOR inst 0 sp
        let w := w.set (if sp = 23 then Reg.XPD_SPARE0_FOR else Reg.XPD_SPARE1_FOR) inst
        ((w.report { code := 0x4105, page := 0x29, detail := inst + sp * 256 }).setSpareInUse 0x29 true).extendFree 5
      else w
    w.streamCheck (if spareOf inst = 24 then 1 else 0)

/-- One block decoded on an instance, and again on the spare where R225 allows it (R224, R225): `upset` is a fault of that
instance on this decode. The image, or the reason of its first check that failed. -/
def Work.decodeTry (w : Work) (inst : Nat) (b : Bytes) (window : Nat) (part : Option Nat) (addr : Nat) (upset : Option Nat) : Except Nat Bytes × Work :=
  let real := expandBlock b window (part.getD 0)
  -- the cycles it waited for input stripes are a free value (log 29)
  let stall := w.draw
  let w := (stall.2.count Reg.XPD_STALL_CYC (stall.1 % 2 ^ 20) 0 inst).count Reg.XPD_BLOCKS 1 0 inst
  let first : Except Nat Bytes := match upset, real with
    | some k, .ok _ => .error k
    | _, r => r
  match first with
  | .ok img => (.ok img, w)
  | .error k =>
    let w := w.count (failCounter k) 1 0 inst
    let retry := w.flag Reg.XPD_RETRY_EN && decide (3 ≤ k) && w.spareFree inst
    let w := if retry then w.count Reg.XPD_BLOCKS 1 0 (spareOf inst) else w
    match retry, real with
    | true, .ok img =>
      let w := w.count Reg.XPD_MISMATCH 1 0 inst
      let w := w.report { code := 0x4502, page := 0x29, part := part, arg := addr, detail := k + inst * 256 }
      let n := numN inst w.n.cp.mismatches + 1
      let w := { w with n.cp.mismatches := insertN inst n w.n.cp.mismatches }
      (.ok img, if w.get Reg.XPD_FAULT_LIMIT ≤ n then w.retireExpander inst else w)
    | again, _ =>
      (.error k, if again then w.count (failCounter (match real with | .error j => j | .ok _ => k)) 1 0 (spareOf inst) else w)

/-- A block that an instance could not expand is damaged (R225); `addr` names its first byte in the capture (R237). -/
def Work.decodeOn (w : Work) (inst : Nat) (b : Bytes) (window : Nat) (part : Option Nat) (addr : Nat) (upset : Option Nat) : Option Bytes × Work :=
  let r := w.decodeTry inst b window part addr upset
  match r.1 with
  | .ok img => (some img, r.2)
  | .error k => (none, (r.2.count Reg.XPD_DAMAGED).capture { code := 0x4501, page := 0x29, part := part, arg := addr, detail := k + inst * 256 })

/-- The instance that decodes a stored block (R211, R225): the expander of the channel that holds its first stripe, or the PCIe-ingress
expander for tier 2, that of the stack for a copy packed in HBM; none for a block whose channel is not in service. -/
def Work.blockExpander (w : Work) (l : Loc) (b : Blk) : Option Nat :=
  match l with
  | .ddr _ => (w.stripeChannel b.die (b.unit * 256)).map fun ch => w.expanderOf (8 + ch)
  | .host _ => some (w.expanderOf 22)
  | .packed _ => some (w.expanderOf (b.unit / 16 / slotFrames))
  | .hbm _ => none

/-- Block `i` of a course, `b` as it is stored, decoded on an instance; a tier-2 block that is damaged is read once more over PCIe and
decoded again (R226). -/
def Work.decodeStored (w : Work) (inst : Nat) (c : Course) (i : Nat) (b : Blk) (upset : Option Nat) : Option Bytes × Work :=
  let bytes := w.blkBytes c.loc b
  let r := w.decodeOn inst bytes (c.imageLen i) (some c.part) (c.loc.addrOf b) upset
  if c.loc.tier ≠ 2 then r
  else
    let fetch := fun w : Work => w.hostFetch 0 (some c.part) (w.blkKey c.loc b - hostKey 0) b.len true
    let w := fetch r.2
    match r.1 with
    | some img => (some img, w)
    | none =>
      let q := (fetch w).decodeTry inst bytes (c.imageLen i) (some c.part) (c.loc.addrOf b) none
      (q.1.toOption, q.2)

/-- Where each block of a streamed or loaded layer begins: on 256-byte boundaries from the first (R233). -/
def blockAddrs : Nat → List Bytes → List Nat
  | _, [] => []
  | a, b :: bs => a :: blockAddrs (alignUp (a + max (BlkHead.read b).stored 1) 256) bs

/-- The windows of a layer's blocks (R223, R234): the directory gives the length of the whole image, so the last block is to hold what the
others leave of it, and no other may hold more than is left (DESIGN CHOICE, log 132: the directory does not divide the image). -/
def weightWindows : Nat → List Bytes → List Nat
  | _, [] => []
  | left, [_] => [left]
  | left, b :: bs =>
    let n := min (BlkHead.read b).exp left
    n :: weightWindows (left - n) bs

/-- A layer's blocks as they lie in memory, each beginning on a 256-byte boundary (R233). -/
def WLayer.stored (l : WLayer) : Bytes := (l.packed.map fun b => b ++ List.replicate (alignUp b.length 256 - b.length) 0).flatten

/-- The address of a layer's first block: in the streamed-weight part where it is kept there (R179), else in the package. -/
def WLayer.home (l : WLayer) : Nat := match l.kept with
  | some o => sysAddr 6 o
  | none => l.addr

/-- Bytes of a layer's image. -/
def WLayer.imageLen (l : WLayer) : Nat := l.h * l.d * l.c + 2 * (l.h * l.d)

end Sys2Proof.Machine
end

