-- ==== Sys2Proof/Machine/Spill.lean ====
section
/-!
DEFINITION. Sys2Proof/Machine/Spill.lean: the spill and prefetch engine (R26, R70 to R76), moves (R62 to R64), errors and
retirement (R81 to R86). Commands SPL_TICK_DECISION, HEAT_DECAY, MOVE_COPY_DONE, MOVE_COMMIT, TAIL_PAGE_COPY_DONE,
HBM_UNCORRECTABLE_ERROR, DDR_UNCORRECTABLE_ERROR, SYSTEM_AREA_ERROR, SCRUB_CORRECTED, TAKE_OFFLINE.
-/

namespace Sys2Proof.Machine

/-! ## Courses as the engine ranks them -/

/-- Sessions and layers whose last run is in a course: it is their tail course. -/
def Work.tailOf (w : Work) (ci : Nat) : List (Nat × Layer) :=
  (w.n.pg.sessions.map fun e =>
    (e.2.layers.filter fun l => (l.runs.getLast?.map fun r : Run => r.course) = some ci).map fun l => (e.1, l)).flatten

/-- The last tick in which a session appended anything. -/
def Session.lastAppend (s : Session) : Option Tick :=
  s.layers.foldl (fun m l => match m with
    | none => some l.lastAppend
    | some t => if Tick.earlier t l.lastAppend then some l.lastAppend else some t) none

/-- The course is a tail course inside SPL_TAIL_IDLE (R64). -/
def Work.tailBusy (w : Work) (ci : Nat) : Bool :=
  (w.tailOf ci).any fun e => match (w.session e.1).bind Session.lastAppend with
    | some t => ticksTo t w.now < w.get Reg.SPL_TAIL_IDLE
    | none => false

/-- Position of a course's first page. -/
def Course.pos (c : Course) : Nat := ((c.pages.head?).map (·.firstPos)).getD 0

/-- The order in which spill takes courses (R72, R121): private before shared; cold ones by LAST_TOUCH, oldest first, then the
rest by heat, lowest first; ties: higher layer first, later course first. Of cold courses with one LAST_TOUCH the cooler goes first, of others
with one heat the one touched longer ago (DESIGN CHOICE, log 148: neither rule orders them). -/
def Work.spillKey (w : Work) (e : Nat × Course) : List Nat :=
  let c := e.2
  let cold := decide (c.heat < w.get Reg.SPL_COLD)
  let fresh := 2 ^ 31 - w.age c.lastTouch
  [if 1 < c.refs then 1 else 0, if cold then 0 else 1, if cold then fresh else c.heat, if cold then c.heat else fresh,
   255 - c.layer, 2 ^ 32 - c.pos, e.1]

/-- A course may be moved from a tier for space: not pinned, no busy tail, not moving, nothing landing or restoring on it, and a copy only
once it holds something. -/
def Work.movable (w : Work) (e : Nat × Course) : Bool :=
  !w.pinned e.1 && !w.tailBusy e.1 && (w.moveOf e.1).isNone && !e.2.pages.isEmpty && !(w.n.st.dying.contains e.1) &&
  !(w.n.pg.install.flatten.any fun r => r.course = e.1) && !(w.n.mi.restores.any fun r => r.1 = e.1) &&
  !(e.2.copy && (e.2.loc.blks.isEmpty && (e.2.loc.tier ≠ 0 || (e.2.pages.head?).all fun p => p.landed = 0)))

/-- The courses of a partition that may be spilled from a tier, in the order of R72. -/
def Work.victims (w : Work) (p tier : Nat) : List (Nat × Course) :=
  sortKey w.spillKey (w.n.st.courses.filter fun e => e.2.part = p && e.2.loc.tier = tier && w.movable e)

/-- HBM bytes that a spill reads: every page extent (R76, R219). -/
def Course.spillBytes (c : Course) : Nat := 2 ^ c.k * c.extent

/-- Bytes of the whole slots of a course (R76). -/
def Work.slotsBytes (w : Work) (c : Course) : Nat := w.courseFrames c * 4096

/-- Stored bytes of a course at rest. -/
def Loc.storedBytes (l : Loc) : Nat := (l.blks.map (·.len)).foldl (· + ·) 0

/-- The most tier-1 bytes that a course can come to: its blocks stored passthrough (R215). -/
def Course.passBytes (c : Course) : Nat :=
  ((List.range c.blocks).map fun i => alignUp (alignUp (32 + c.imageLen i) 16) 256).foldl (· + ·) 0

/-! ## Starting moves -/

/-- Begin a move to a destination (R62); it runs in the next tick (R74). -/
def Work.startMove (w : Work) (ci : Nat) (cls : MoveClass) (dst : Loc) : Work :=
  let m : Move := { course := ci, cls := cls, dst := dst, checked := none, pinnedSheets := 0, blksDone := [],
                    started := w.now + 1, tries := 0 }
  { w with n.st.moves := insertN (freshKey 0 w.n.st.moves) m w.n.st.moves }

/-- Watermarks of a partition and tier in bytes (R78). -/
def Work.lowMark (w : Work) (p tier : Nat) : Nat := w.get Reg.SPL_LOW 0 (p + 64 * tier) * 2 ^ 24
def Work.targetMark (w : Work) (p tier : Nat) : Nat := w.get Reg.SPL_TARGET 0 (p + 64 * tier) * 2 ^ 24

/-- What the engine has still to start in this decision: the view, the bytes its grant still covers, and what it needs. -/
structure Plan where
  w : Work
  left : Int
  need : Int
  host : Int

/-- Spill a course of HBM to tier 1, if the grant, the need and tier 1 have room (R71, R80). -/
def Plan.spill (cls : MoveClass) (p : Plan) (e : Nat × Course) : Plan :=
  if p.left ≤ 0 ∨ p.need ≤ 0 then p
  else match e.2.loc with
    | .packed bs =>
      -- a copy packed in HBM goes as it is stored (R211)
      let r := if (Loc.ddr bs).ddrBytes ≤ p.w.tierFree e.2.part 1 then p.w.placeStored e.2.k bs else (none, p.w)
      match r.1 with
      | some to_ => { p with w := r.2.startMove e.1 cls (.ddr to_), left := p.left - e.2.loc.storedBytes
                             need := p.need - p.w.locFrames e.2 e.2.loc * 4096 }
      | none => p
    | _ =>
      if e.2.passBytes ≤ p.w.tierFree e.2.part 1 then
        { p with w := p.w.startMove e.1 cls (.ddr []), left := p.left - e.2.spillBytes, need := p.need - p.w.slotsBytes e.2 }
      else p

/-- Copy a tier-1 course to tier 2 in its stored form (R69, R71 class 5); where tier 2 has no room, by the partition's quota or in the
window, SPL_STAT shows HOST_FULL (R80). -/
def Plan.lower (p : Plan) (e : Nat × Course) : Plan :=
  let bytes := e.2.loc.storedBytes
  if p.left ≤ 0 ∨ p.need ≤ 0 then p
  else
    let r := if e.2.loc.ddrBytes ≤ p.w.tierFree e.2.part 2 then p.w.placeAll Work.placeHost e.2.loc.blks else (none, p.w)
    match r.1 with
    | some bs => { p with w := r.2.startMove e.1 .lowerSpill (.host bs), left := p.left - bytes, need := p.need - e.2.loc.ddrBytes }
    | none => { p with w := p.w.setFlag Reg.SPL_HOST_FULL true }

/-- Promote a course to HBM while the partition's free HBM stays above LOW after it (R73); else lift a tier-2 course to
tier 1. Moves to or from tier 2 stay within SPL_RATE_HOST (R76), and the window is read only while it is enabled (R68). -/
def Plan.promote (cls : MoveClass) (p : Plan) (ci : Nat) : Plan :=
  match p.w.course ci with
  | none => p
  | some c =>
    let w := p.w
    let bytes := w.slotsBytes c
    let fromHost := c.loc.tier = 2
    if c.loc.tier = 0 ∨ p.left ≤ 0 ∨ (w.moveOf ci).isSome ∨ (fromHost ∧ (p.host ≤ 0 ∨ !w.flag Reg.SPL_HOST_TIER_EN)) then p
    else
      let host' := if fromHost then p.host - c.loc.storedBytes else p.host
      let room := bytes + w.lowMark c.part 0 < w.hbmFree c.part * 4096 ∧ w.courseFrames c ≤ w.generalFree
      let r := if room then w.tryStacks c.slot (w.courseFrames c) 8 else (none, w)
      match r.1 with
      | some f =>
        { p with w := (r.2.zero (frameAddr f) bytes).startMove ci cls (.hbm f), left := p.left - bytes, host := host' }
      | none =>
        if fromHost ∧ c.loc.storedBytes ≤ w.tierFree c.part 1 then
          let b := w.placeStored c.k c.loc.blks
          match b.1 with
          | some bs => { p with w := b.2.startMove ci cls (.ddr bs), left := p.left - c.loc.storedBytes, host := host' }
          | none => p
        else p

/-! ## Demand -/

/-- Slot bytes of the spills of a class and partition in flight. -/
def Work.spilling (w : Work) (cls : MoveClass) (p : Nat) : Nat :=
  w.n.st.moves.foldl (fun n m => match w.course m.2.course with
    | some c => if m.2.cls = cls ∧ c.part = p then n + w.slotsBytes c else n
    | none => n) 0

/-- HBM bytes of a class's moves that are started and not yet checked. -/
def Work.inFlight (w : Work) (cls : MoveClass) : Nat :=
  w.n.st.moves.foldl (fun n m => match w.course m.2.course with
    | some c =>
      if m.2.cls = cls ∧ m.2.checked.isNone then
        n + (if c.loc.tier = 0 then c.spillBytes else if m.2.dst.tier = 0 then w.slotsBytes c else c.loc.storedBytes)
      else n
    | none => n) 0

/-- Partitions that hold space. -/
def Work.heldParts (w : Work) : List Nat := (List.range 64).filter fun p => w.partState p != 0

/-- Which watermarks are being defended (R71, R78): from below LOW until TARGET is reached. -/
def Work.defend (w : Work) : Work :=
  let d := (w.heldParts.map fun p => ([0, 1].filter fun t =>
    let free := w.tierFree p t
    free < w.lowMark p t || (w.n.st.defending.contains (p, t) && free < w.targetMark p t)).map fun t => (p, t)).flatten
  let short := w.heldParts.any fun p => w.tierFree p 1 < w.lowMark p 1
  ({ w with n.st.defending := d }).setFlag Reg.SPL_DDR_SHORT short

/-- Tier-1 bytes of a partition's lower-tier spills in flight. -/
def Work.lowering (w : Work) (p : Nat) : Nat :=
  w.n.st.moves.foldl (fun n m => match w.course m.2.course with
    | some c => if m.2.cls = .lowerSpill ∧ c.part = p then n + c.loc.ddrBytes else n
    | none => n) 0

/-- Demand of the defences by partition (R71 classes 1, 2, 5), less what their moves in flight will free. Class 5 goes on to TARGET, as
class 2 does (DESIGN CHOICE, log 126: R71 gives class 5 no end). -/
def Work.needs (w : Work) (cls : MoveClass) : List (Nat × Nat) :=
  let l : List (Nat × Nat) := match cls with
    | .reserveDefence => w.n.st.reserveDrawn.map fun e => (e.1, e.2 * 4096 - w.spilling cls e.1)
    | .watermarkDefence => (w.n.st.defending.filter (·.2 = 0)).map fun e =>
        (e.1, w.targetMark e.1 0 - w.tierFree e.1 0 - w.spilling cls e.1 - w.spilling .reserveDefence e.1)
    | .lowerSpill => (w.n.st.defending.filter (·.2 = 1)).map fun e =>
        (e.1, w.targetMark e.1 1 - w.tierFree e.1 1 - w.lowering e.1)
    | _ => []
  l.filter fun e => 0 < e.2

/-- Promotion requests still open, earliest deadline first (R71 class 3). -/
def Work.wanted (w : Work) : List PfReq :=
  sortKey (fun r : PfReq => [(r.deadline - w.now + BitVec.ofNat 48 (2 ^ 47)).toNat]) (w.n.st.prefetch.filter fun r =>
    match w.course r.course with
    | some c => c.loc.tier != 0
    | none => false)

/-- Hot courses of tiers 1 and 2, hottest first; ties: lower layer, earlier course (R71 class 4, R121). -/
def Work.hot (w : Work) : List (Nat × Course) :=
  sortKey (fun e : Nat × Course => [65535 - e.2.heat, e.2.layer, e.2.pos, e.1]) (w.n.st.courses.filter fun e =>
    e.2.loc.tier != 0 && !e.2.copy && w.get Reg.SPL_PROMOTE ≤ e.2.heat && (w.moveOf e.1).isNone && !(w.n.st.dying.contains e.1))

/-- Frames in use on a stack. -/
def Work.stackUsed (w : Work) (s : Nat) : Nat :=
  w.usedSpans.foldl (fun n u => if u.1 / slotFrames = s then n + u.2 else n) 0

/-- The fullest and the emptiest serving stack, and the frames by which they differ beyond 2 % of a slot area (R71 class 6). -/
def Work.imbalance (w : Work) : Nat × Nat × Nat :=
  match w.servingStacks with
  | [] => (0, 0, 0)
  | a :: r =>
    let full := r.foldl (fun m s => if w.stackUsed m < w.stackUsed s then s else m) a
    let low := r.foldl (fun m s => if w.stackUsed s < w.stackUsed m then s else m) a
    (full, low, w.stackUsed full - w.stackUsed low - slotFrames * 2 / 100)

/-- HBM bytes a class needs to meet its goal (R74). -/
def Work.demand (w : Work) (cls : MoveClass) : Nat :=
  let sum := fun l : List (Nat × Nat) => l.foldl (fun n e => n + e.2) 0
  let toHbm := fun l : List Nat => l.foldl (fun n ci => match w.course ci with
    | some c => if (w.moveOf ci).isSome then n else n + w.slotsBytes c
    | none => n) 0
  match cls with
  | .reserveDefence | .watermarkDefence => if w.flag Reg.SPL_SPILL_EN then sum (w.needs cls) + w.inFlight cls else 0
  | .lowerSpill =>
    if w.flag Reg.SPL_SPILL_EN ∧ w.flag Reg.SPL_HOST_TIER_EN then sum (w.needs cls) + w.inFlight cls else 0
  | .prefetch => toHbm (w.wanted.map (·.course)) + w.inFlight cls
  | .heat => if w.flag Reg.SPL_PROMOTE_EN then toHbm (w.hot.map (·.1)) + w.inFlight cls else 0
  | .rebalance => if w.flag Reg.SPL_REBAL_EN then ceilDiv w.imbalance.2.2 2 * 4096 + w.inFlight cls else 0

/-- The partition that event 0x4305 names (R75): the first whose reserve or watermark is being defended, or else, while the defence's last
moves still run, the first of which one runs. -/
def Work.firstHeld (w : Work) (cls : MoveClass) : Nat :=
  let running := (w.n.st.moves.filter fun m => m.2.cls = cls && m.2.checked.isNone).filterMap fun m => (w.course m.2.course).map (·.part)
  (((match cls with
    | .reserveDefence => w.n.st.reserveDrawn.map (·.1)
    | _ => (w.n.st.defending.filter (·.2 = 0)).map (·.1)) ++ running : List Nat).head?).getD 0

/-- MAX and MIN of a class in bytes. Class 5 stays within SPL_RATE_SPILL and SPL_RATE_HOST both (R76; DEDUCED, log 18); its MIN is that of
SPL_RATE_HOST (DESIGN CHOICE, log 126: the register table names it under both). -/
def Work.rates (w : Work) (cls : MoveClass) : Nat × Nat :=
  match cls with
  | .reserveDefence | .watermarkDefence => (w.get Reg.SPL_MAX_110 * 1024, w.get Reg.SPL_MIN_110 * 1024)
  | .prefetch | .heat => (w.get Reg.SPL_MAX_114 * 1024, w.get Reg.SPL_MIN_114 * 1024)
  | .lowerSpill => (min (w.get Reg.SPL_MAX_110) (w.get Reg.SPL_MAX_11C) * 1024, w.get Reg.SPL_MIN_11C * 1024)
  | .rebalance => (w.get Reg.SPL_MAX_118 * 1024, w.get Reg.SPL_MIN_118 * 1024)

/-- Joules per HBM byte of a class, from the activity weights of die 0 (R74; DESIGN CHOICE, log 18): reads and writes of HBM,
DDR5 and PCIe transfers of 64 B. -/
def Work.joules (w : Work) (cls : MoveClass) : Rat :=
  let x := fun i => w.weightOf 0 i
  let pj : Nat := match cls with
    | .reserveDefence | .watermarkDefence => x 13 + x 21
    | .prefetch | .heat => x 17 + x 21
    | .lowerSpill => x 21 + x 47
    | .rebalance => x 13 + x 17
  (pj : Rat) / (16 * 64 * 1000000000000 : Nat)

/-- The six classes in the order of R71. -/
def moveClasses : List MoveClass := [.reserveDefence, .watermarkDefence, .prefetch, .heat, .lowerSpill, .rebalance]

/-- One class's grant (R74, R75): from its demand, its last grant, and the bytes and joules left. -/
def Work.grantOf (w : Work) (cls : MoveClass) (last want avail : Nat) (energy : Rat) : Nat :=
  if want = 0 then 0
  else
    let r := w.rates cls
    let target := max (min want r.1) (min r.2 r.1)
    let up := if cls = .prefetch then r.1 else last + w.get Reg.SPL_STEP_UP * r.1 / 256
    let dn := last - w.get Reg.SPL_STEP_DOWN * r.1 / 256
    let g := min (max target dn) up
    let j := w.joules cls
    let g := min g avail
    let g := if j = 0 then g else min g (floorNat (energy / j))
    max g (min r.2 avail)

/-- The headroom of R426 in joules. -/
def Work.headroom (w : Work) : Rat :=
  let g : Rat := (w.acting Reg.PWR_GUARD : Rat) / 1000
  max 0 (w.capInUse * (1 - g) - w.n.pw.est) * ((w.periodPs : Nat) : Rat) / 1000000000000

/-! ## Moving courses off failing space -/

/-- The course in HBM whose block holds a frame, and the page that the frame lies in. -/
def Work.courseAtFrame (w : Work) (f : Nat) : Option (Nat × Course × Nat) :=
  w.n.st.courses.findSome? fun e => match e.2.loc with
    | .hbm g => if g ≤ f ∧ f < g + w.courseFrames e.2 then some (e.1, e.2, (f - g) / 2 ^ w.slotZ e.2.part) else none
    | _ => none

/-- The copy packed in HBM, and its block, that holds a frame. -/
def Work.packedAt (w : Work) (f : Nat) : Option (Nat × Course × Nat) :=
  w.n.st.courses.findSome? fun e => match e.2.loc with
    | .packed bs => (bs.findIdx? fun b => decide (b.unit / 16 ≤ f ∧ f < b.unit / 16 + b.frames)).map fun i => (e.1, e.2, i)
    | _ => none

/-- Block indexes of a course in tier 1 that a test picks. -/
def Loc.ddrHits (l : Loc) (hit : Blk → Bool) : List Nat :=
  match l with
  | .ddr bs => (bs.zipIdx.filter fun e => hit e.1).map (·.2)
  | _ => []

/-- A block lies on grain `g` of a die. -/
def Blk.onGrain (b : Blk) (die g : Nat) : Bool := b.die = die && b.unit < (g + 1) * 16 && g * 16 < b.unit + b.units

/-- The die and grain of a key of `ceLog`. -/
def grainOf (key : Nat) : Nat × Nat := ((key - 2 ^ 40) / 2 ^ 36, (key - 2 ^ 40) % 2 ^ 36)

/-- Move a course into other frames of HBM, if it is not moving already and there is room (R83). R83 says only that the course is first moved:
that it goes to HBM, in the class of rebalance or from tier 1 of promotion by heat, and outside the grants, is the model's (DESIGN CHOICE,
log 148). -/
def Work.moveAside (w : Work) (e : Nat × Course) : Work :=
  let len := w.courseFrames e.2
  let inside := e.2.loc.tier = 0
  if (w.moveOf e.1).isSome ∨ w.n.st.dying.contains e.1 ∨ w.generalFree < len ∨ (!inside ∧ w.hbmFree e.2.part < len) then w
  else
    let r := w.tryStacks e.2.slot len 8
    match r.1 with
    | some f => (r.2.zero (frameAddr f) (len * 4096)).startMove e.1 (if inside then .rebalance else .heat) (.hbm f)
    | none => w

/-- The courses on every frame and grain that awaits its retirement are moved off it (R83); what cannot move now is tried again at the
next decision. -/
def Work.evacuate (w : Work) : Work :=
  w.n.st.retiring.foldl (fun w k =>
    if k < 2 ^ 40 then
      match (w.courseAtFrame k).orElse fun _ => w.packedAt k with
      | some (ci, c, _) => w.moveAside (ci, c)
      | none => w
    else
      (w.n.st.courses.filter fun e => !(e.2.loc.ddrHits fun b => b.onGrain (grainOf k).1 (grainOf k).2).isEmpty).foldl Work.moveAside w) w

/-! ## The decision -/

/-- Start the movements of a class within what its grant leaves (R74). A rebalance takes the courses of the fullest stack in the order of a
spill (DESIGN CHOICE, log 148: R71 names none). -/
def Work.schedule (w : Work) (cls : MoveClass) (grant : Nat) : Work :=
  let left : Int := (grant : Int) - w.inFlight cls
  let hostUsed := w.n.st.moves.foldl (fun n m => match w.course m.2.course with
    | some c => if m.2.checked.isNone ∧ c.loc.tier = 2 then n + c.loc.storedBytes else n
    | none => n) 0
  let host : Int := (w.get Reg.SPL_MAX_11C * 1024 : Nat) - hostUsed
  let overParts := fun (step : Plan → Nat × Course → Plan) (tier : Nat) =>
    ((w.needs cls).foldl (fun (p : Plan) e =>
      (p.w.victims e.1 tier).foldl step { p with need := e.2 }) { w := w, left := left, need := 0, host := host }).w
  match cls with
  | .reserveDefence | .watermarkDefence => if w.flag Reg.SPL_SPILL_EN then overParts (Plan.spill cls) 0 else w
  | .lowerSpill =>
    if w.flag Reg.SPL_SPILL_EN ∧ w.flag Reg.SPL_HOST_TIER_EN then overParts Plan.lower 1 else w
  | .prefetch => ((w.wanted.map (·.course)).foldl (Plan.promote cls) { w := w, left := left, need := 0, host := host }).w
  | .heat =>
    if w.flag Reg.SPL_PROMOTE_EN then
      ((w.hot.map (·.1)).foldl (Plan.promote cls) { w := w, left := left, need := 0, host := host }).w
    else w
  | .rebalance =>
    let im := w.imbalance
    if !w.flag Reg.SPL_REBAL_EN ∨ im.2.2 = 0 then w
    else
      let cands := sortKey w.spillKey (w.n.st.courses.filter fun e =>
        (match e.2.loc with | .hbm f => decide (f / slotFrames = im.1) | _ => false) && w.movable e)
      (cands.foldl (fun (p : Plan) e =>
        let len := p.w.courseFrames e.2
        if 0 < p.left ∧ 0 < p.need ∧ len ≤ p.w.generalFree then
          let r := p.w.blockIn im.2.1 len
          match r.1 with
          | some f => { p with w := r.2.startMove e.1 .rebalance (.hbm f), left := p.left - e.2.spillBytes, need := p.need - len }
          | none => p
        else p) { w := w, left := left, need := (ceilDiv im.2.2 2 : Nat), host := host }).w

/-- `SPL_TICK_DECISION` (R26, R70 to R76): grants of the six classes for tick t+1, BOUND_HELD, and the moves they start. -/
def execSplTickDecision (s : State) : Host.Outcome State Fault Refusal :=
  run s fun w =>
    let w := { w with n.st.prefetch := w.wanted }
    let w := (w.set Reg.SPL_HOST_FULL 0).defend
    let floor := fun pct : Nat => 2048 * (w.periodAt (w.now + 1) * 125) * pct / 100 * w.servingStacks.length
    let avail := floor (w.get Reg.CST_BULK_FLOOR) + (floor (w.get Reg.CST_MIRROR_FLOOR) - w.n.st.mirrorReserved)
    let wants : List Nat := moveClasses.map w.demand
    let decided := moveClasses.zipIdx.foldl (fun (acc : List Nat × Nat × Rat) e =>
      let g := w.grantOf e.1 (atD w.n.st.grants e.2 0) (atD wants e.2 0) acc.2.1 acc.2.2
      (acc.1 ++ [g], acc.2.1 - g, acc.2.2 - (g : Rat) * w.joules e.1)) ([], avail, w.headroom)
    let grants : List Nat := decided.1
    let w := { w with n.st.grants := grants }
    -- a bound holds over a watermark (R75)
    let heldAt := fun i : Nat => decide (atD grants i 0 < atD wants i 0)
    let held : Bool := heldAt 0 || heldAt 1
    let was : Bool := w.n.st.boundHeldBefore
    let w := ({ w with n.st.boundHeldBefore := held }).setFlag Reg.SPL_BOUND_HELD held
    let w : Work := if held && !was then
        let p := w.firstHeld (if heldAt 0 then .reserveDefence else .watermarkDefence)
        w.report { code := 0x4305, page := 0x26, part := some p, detail := p }
      else w
    moveClasses.zipIdx.foldl (fun w e => w.schedule e.1 (atD grants e.2 0)) w.evacuate

/-- `HEAT_DECAY` (R70): once 2^DECAY_SHIFT ticks have passed since the last halving (log 127), every heat is halved, rounding down. -/
def execHeatDecay (s : State) : Host.Outcome State Fault Refusal :=
  run s fun w =>
    if ticksTo w.n.st.lastDecay w.now < 2 ^ w.get Reg.SPL_DECAY_SHIFT then w
    else { w with n.st.courses := w.n.st.courses.map fun e => (e.1, { e.2 with heat := e.2.heat / 2 }), n.st.lastDecay := w.now }

/-! ## Retirement and loss -/

/-- Retire a frame (R83): it is never used again until reset. Bit 0 of the detail: by CE limit; bit 1: by UE. -/
def Work.retireFrame (w : Work) (f why : Nat) : Work :=
  if w.n.st.retiredFrames.contains f then w
  else
    let s := f / slotFrames
    let w := { w with n.st.retiredFrames := f :: w.n.st.retiredFrames }
    let w := w.set Reg.HBM_RETIRED (w.get Reg.HBM_RETIRED s + 1) s
    w.report { code := 0x4306, page := 0x10 + s, arg := frameAddr f, detail := why }

/-- Retire a 4 KiB grain of a die's tier-1 space (R83); whether its row needs hard repair and is listed for the next training (R86) is free
(log 120). -/
def Work.retireGrain (w : Work) (die g why : Nat) : Work :=
  if w.n.st.retiredGrains.contains (die, g) then w
  else
    let ch := (w.stripeChannel die (g * 4096)).getD (6 * die)
    let w := { w with n.st.retiredGrains := (die, g) :: w.n.st.retiredGrains }
    let w := w.set Reg.DDR_RETIRED (w.get Reg.DDR_RETIRED ch + 1) ch
    let d := w.draw
    let rows := numN ch d.2.ppr + d.1 % 2
    let w := ({ d.2 with ppr := insertN ch rows d.2.ppr }).set Reg.DDR_PPR_PENDING (min 255 rows) ch
    w.report { code := 0x4306, page := 0x18 + ch, arg := g * 4096, detail := why }

/-- Frames and grains at their CE limit whose course has moved are retired (R83). -/
def Work.retireFreed (w : Work) : Work :=
  w.n.st.retiring.foldl (fun w k =>
    if k < 2 ^ 40 then
      if spanFree w.usedSpans k 1 then
        ({ w with n.st.retiring := w.n.st.retiring.filter (· != k) }).retireFrame k 1
      else w
    else
      let (die, g) := grainOf k
      if spanFree (w.ddrSpans die) (g * 16) 16 then
        ({ w with n.st.retiring := w.n.st.retiring.filter (· != k) }).retireGrain die g 1
      else w) w

/-- Every page that lies on a retired frame or grain is lost or has moved, so that its row may be repaired (R86). -/
def Work.rowLeft (w : Work) (key : Nat) : Bool :=
  if key < 2 ^ 40 then
    match w.courseAtFrame key with
    | some (_, c, pi) => ((c.pages[pi]?).map (·.lost)).getD true
    | none => true
  else w.n.st.courses.all fun e => (e.2.loc.ddrHits fun b => b.onGrain (grainOf key).1 (grainOf key).2).all fun i =>
    (blockPagesOf e.2.k i).all fun p => ((e.2.pages[p]?).map (·.lost)).getD true

/-- DDR5 soft post-package repair in service (R86): of each channel with SPPR_EN, the rows of its retired grains that every page has left. -/
def Work.softRepair (w : Work) : Work :=
  let keys := (w.n.st.retiredGrains.filter fun g => match w.stripeChannel g.1 (g.2 * 4096) with
    | some ch => w.flag Reg.DDR_SPPR_EN ch && w.flag Reg.GLB_MEM_REPAIR_EN
    | none => false).map fun g => 2 ^ 40 + g.1 * 2 ^ 36 + g.2
  { w with n.st.repaired := w.n.st.repaired ++ keys.filter fun k => w.rowLeft k && !w.n.st.repaired.contains k }

/-- Frames of page slot `pi` of a course in HBM. -/
def Work.pageFrames (w : Work) (c : Course) (pi : Nat) : List Nat :=
  match c.loc with
  | .hbm f => (List.range (2 ^ w.slotZ c.part)).map (f + pi * 2 ^ w.slotZ c.part + ·)
  | _ => []

/-- Tiles that read a move's destination read its source again from now on: a frame of HBM, or a tier-1 block to be read through, on a slot
of the die that holds it (R24); a tier-2 page is left out (R37). The sheet in which the destination fails does so too (DESIGN CHOICE,
log 145: R63 says that the move starts again elsewhere, and of the tiles that read it nothing). -/
def Work.tilesToSource (w : Work) (ci : Nat) (c : Course) : Work :=
  let go := fun s => w.readTiles s ci c.k c.loc (·.fromDst)
  { w with n.qa.cur := go w.n.qa.cur, n.qa.next := go w.n.qa.next }

/-- An uncorrectable error on the source of a course's move abandons it (R63): tiles that read its copy read the source again. -/
def Work.dropMove (w : Work) (ci : Nat) (c : Course) : Work :=
  match w.moveOf ci with
  | some (mi, _) => (w.abandonMove mi).tilesToSource ci c
  | none => w

/-- A page in HBM is lost (R85): its slot is retired. -/
def Work.pageUe (w : Work) (ci pi : Nat) : Work :=
  match w.course ci with
  | none => w
  | some c =>
    let w := (w.pageFrames c pi).foldl (fun w f => w.retireFrame f 2) (w.dropMove ci c)
    -- a page that has not been started leaves the course closed for new pages
    if c.pages.length ≤ pi then w.modCourse ci fun c => { c with tail := false } else w.losePages ci [pi]

/-- A compressed block is lost: half the course, or all of it when k = 0 (R85). -/
def Work.blockUe (w : Work) (ci blk : Nat) : Work :=
  match w.course ci with
  | none => w
  | some c => (w.dropMove ci c).losePages ci ((blockPagesOf c.k blk).filter (· < c.pages.length))

/-- The tier-1 space of stored blocks is retired, grain by grain (R83). -/
def Work.retireBlks (w : Work) (bs : List Blk) : Work :=
  bs.foldl (fun w b =>
    (List.range (ceilDiv (b.unit + b.units) 16 - b.unit / 16)).foldl (fun w i => w.retireGrain b.die (b.unit / 16 + i) 2) w) w

/-- A stored block of a course is damaged (R226): it is handled as an uncorrectable error of its tier is, its tier-1 space retired (R408). -/
def Work.blockDamaged (w : Work) (ci blk : Nat) : Work :=
  match (w.course ci).map fun c : Course => c.loc with
  | some (.ddr bs) => (w.retireBlks (bs[blk]?).toList).blockUe ci blk
  | _ => w.blockUe ci blk

/-- Pages of a course in HBM whose copy fails a CRC (R94). -/
def Work.badPages (w : Work) (c : Course) : List Nat :=
  (List.range c.pages.length).filter fun i => match c.pages[i]? with
    | some p => 0 < p.landed && !p.lost && !pageCrcOk (w.pageBytes c i)
    | none => false

/-- A CRC mismatch is an uncorrectable error on the page (R94, event 0x4007). -/
def Work.crcLoss (w : Work) (ci pi : Nat) : Work :=
  match w.course ci with
  | none => w
  | some c =>
    let b := match w.pageExtent c pi with | .ok e => e | .error _ => []
    (w.capture { code := 0x4007, page := 0x25, part := some c.part, arg := w.pageWhere c pi, detail := crcFails b }).pageUe ci pi

/-! ## Moves -/

/-- Change a move, if it is there. -/
def Work.modMove (w : Work) (mi : Nat) (f : Move → Move) : Work := { w with n.st.moves := modifyN mi f w.n.st.moves }

/-- The destination space of a move is retired (R63). -/
def Work.retireDst (w : Work) (c : Course) (dst : Loc) : Work :=
  match dst with
  | .hbm f => (List.range (w.courseFrames c)).foldl (fun w i => w.retireFrame (f + i) 2) w
  | .ddr bs => w.retireBlks bs
  | .packed _ | .host _ => w

/-- A move whose destination failed starts again elsewhere (R63): of the same kind, with nothing copied. -/
def Work.restartMove (w : Work) (mi : Nat) : Work :=
  match lookupN mi w.n.st.moves with
  | none => w
  | some m =>
    match w.course m.course with
    | none => w.abandonMove mi
    | some c =>
      let w := (w.abandonMove mi).tilesToSource m.course c
      let again := fun (dst : Loc) (w : Work) =>
        { w with n.st.moves := insertN mi { m with dst := dst, checked := none, blksDone := [], tries := m.tries + 1
                                                   pinnedSheets := 0 } w.n.st.moves }
      match m.dst with
      | .hbm f =>
        let len := w.courseFrames c
        let r := if m.cls = .rebalance ∧ w.stackReady (f / slotFrames) then w.blockIn (f / slotFrames) len else w.tryStacks c.slot len 8
        match r.1 with
        | some g => again (.hbm g) (r.2.zero (frameAddr g) (len * 4096))
        | none => w
      | .ddr _ =>
        if c.loc.tier = 0 then again (.ddr []) w
        else
          let r := w.placeStored c.k c.loc.blks
          match r.1 with
          | some bs => again (.ddr bs) r.2
          | none => w
      | .packed _ => w
      | .host _ =>
        let r := w.placeAll Work.placeHost c.loc.blks
        match r.1 with
        | some bs => again (.host bs) r.2
        | none => w

/-- The destination of a move failed (R63): its space is retired, and the move starts again elsewhere. -/
def Work.moveAgain (w : Work) (mi : Nat) : Work :=
  match lookupN mi w.n.st.moves with
  | none => w
  | some m => (match w.course m.course with
    | some c => w.retireDst c m.dst
    | none => w).restartMove mi

/-- Bytes moved in this tick, for SPL_MOVED. -/
def Work.countMoved (w : Work) (c : Course) (m : Move) : Work :=
  if m.dst.tier = 0 ∧ c.loc.tier = 0 then w
  else if m.dst.tier < c.loc.tier then
    { w with n.st.movedPromote := w.n.st.movedPromote + (if m.dst.tier = 0 then w.slotsBytes c else c.loc.storedBytes) }
  else { w with n.st.movedSpill := w.n.st.movedSpill + (if c.loc.tier = 0 then c.spillBytes else c.loc.storedBytes) }

/-- Copy the stored blocks of a partition's course to their new places; those bound for tier 2 cross PCIe. -/
def Work.copyBlocks (w : Work) (part : Nat) (src dst : Loc) : Work :=
  (src.blks.zip dst.blks).foldl (fun w p =>
    let w := w.store (w.blkKey dst p.2) (w.blkBytes src p.1)
    if dst.tier = 2 then (w.emit (.request true 0 true (w.blkKey dst p.2 - hostKey 0) p.1.len)).pcieOut (some part) p.1.len else w) w

/-- Pages of block `i` of a course whose extents in an expanded image fail a CRC (R94). -/
def Course.imageBad (c : Course) (i : Nat) (img : Bytes) : List Nat :=
  ((blockPagesOf c.k i).zipIdx.filter fun e => match c.pages[e.1]? with
    | some p => 0 < p.landed && !p.lost && !pageCrcOk (sliceAt img (e.2 * c.extent) c.extent)
    | none => false).map (·.1)

/-- The stored blocks of a course that is copied as stored, each checked on the expander of its channel or of PCIe (R94, R211, R224): those
that are damaged, and the pages of the others that fail a CRC. -/
def Work.badBlocks (w : Work) (c : Course) : (List Nat × List Nat) × Work :=
  c.loc.blks.zipIdx.foldl (fun a e =>
    let r := a.2.decodeStored ((a.2.blockExpander c.loc e.1).getD (a.2.expanderOf 8)) c e.2 e.1 none
    (match r.1 with
      | some img => (a.1.1, a.1.2 ++ c.imageBad e.2 img)
      | none => (a.1.1 ++ [e.2], a.1.2), r.2)) (([], []), w)

/-- What a check of a course's stored blocks found is lost (R94, R226). -/
def Work.loseFound (w : Work) (ci : Nat) (bad : List Nat × List Nat) : Work :=
  bad.2.foldl (fun w p => w.crcLoss ci p) (bad.1.foldl (fun w b => w.blockDamaged ci b) w)

/-- The destination of a move is written and checked: from the next sheet on, admission reads a checked HBM copy (R40). -/
def Work.moveChecked (w : Work) (mi : Nat) (c : Course) (m : Move) : Work :=
  (w.modMove mi fun m => { m with checked := some w.now }).countMoved c m

/-- Moves into HBM whose destination holds a frame. -/
def Work.movesAtFrame (w : Work) (f : Nat) : List Nat :=
  (w.n.st.moves.filter fun m => match m.2.dst, w.course m.2.course with
    | .hbm g, some c => g ≤ f && f < g + w.courseFrames c
    | _, _ => false).map (·.1)

/-- A page of a move's checked destination fails under the running sheet: the sheet leaves that page out (R41). -/
def Work.leaveOutAt (w : Work) (mi f : Nat) : Work :=
  match lookupN mi w.n.st.moves with
  | none => w
  | some m =>
    match m.dst, w.course m.course with
    | .hbm g, some c =>
      let pi := (f - g) / 2 ^ w.slotZ c.part
      { w with n.qa.cur := { w.n.qa.cur with tiles := w.n.qa.cur.tiles.map fun t : Nat × Tile =>
          if t.2.course = m.course && t.2.fromDst && t.2.pages.contains pi && !t.2.lostPages.contains pi then
            (t.1, { t.2 with lostPages := t.2.lostPages ++ [pi] }) else t } }
    | _, _ => w

/-- An uncorrectable error on a test row, in the firmware data of the stack that is walked (R433): the walk ends for the tick, and the 4 KiB
that hold the row are retired (R83). -/
def Work.testRowUe (w : Work) (st addr : Nat) : Work :=
  let row := addr / 4096 * 4096
  let w := (w.set Reg.HBM_WALK 0 st)
  let w := { w with n.pw.walking := none }
  if w.n.pw.testRows.contains row then w
  else
    let w := { w with n.pw.testRows := row :: w.n.pw.testRows }
    (w.set Reg.HBM_RETIRED (w.get Reg.HBM_RETIRED st + 1) st).report { code := 0x4306, page := 0x10 + st, arg := row, detail := 2 }

/-- An uncorrectable error at an address of the HBM range (R81, R83, R85): counted and captured; in the system area the node reports the part
and fences itself; elsewhere the frame is retired, and the page in it is lost, or the move whose destination it is starts again. -/
def Work.hbmError (w : Work) (addr : Nat) : Work :=
  let st := addr / stackBytes
  let w := w.count Reg.HBM_UE_CNT 1 st
  let w := (w.capture { code := 0x4005, page := 0x10 + st, arg := addr, detail := st + bitsOf (addr % stackBytes) 8 6 * 256 }).isr (0x10 + st) 16
  match addrFrame addr with
  | none =>
    if w.n.pw.walking = some st ∧ sysPartOf addr = some 8 then w.testRowUe st addr
    else (w.capture { code := 0x4008, page := 0x24, arg := addr, detail := (sysPartOf addr).getD 8 }).fenceSelf
  | some f =>
    match w.movesAtFrame f with
    | m :: _ => ((w.retireFrame f 2).leaveOutAt m f).moveAgain m
    | [] =>
      match w.courseAtFrame f with
      | some (ci, _, pi) => (w.retireFrame f 2).pageUe ci pi
      | none =>
        match w.packedAt f with
        | some (ci, _, blk) => (w.retireFrame f 2).blockUe ci blk
        | none => w.retireFrame f 2

/-- Every block of tier 1 that a test picks is lost; a move into such a block starts again. -/
def Work.loseDdr (w : Work) (hit : Blk → Bool) : Work :=
  let again := (w.n.st.moves.filter fun m => !(m.2.dst.ddrHits hit).isEmpty).map (·.1)
  let w := w.n.st.courses.foldl (fun w e => (e.2.loc.ddrHits hit).foldl (fun w b => w.blockUe e.1 b) w) w
  again.foldl (fun w m => w.moveAgain m) w

/-- An uncorrectable error on a stripe of a die's tier-1 space (R81, R83, R85). -/
def Work.ddrError (w : Work) (die addr : Nat) : Work :=
  match w.stripeChannel die addr with
  | none => w
  | some ch =>
    let w := w.count Reg.DDR_UE_CNT 1 ch
    let w := (w.capture { code := 0x4006, page := 0x18 + ch, arg := addr, detail := ch }).isr (0x18 + ch) 16
    let w := w.retireGrain die (addr / 4096) 2
    w.loseDdr fun b => b.die = die && b.unit ≤ addr / 256 && addr / 256 < b.unit + b.units

/-- An uncorrectable error on the destination of a move (R63, R81): it is met at a free place of that destination. One on the way to the
host window meets no memory of the node's. -/
def Work.moveDstError (w : Work) (mv : Nat) (c : Course) (m : Move) : Work :=
  match m.dst with
  | .hbm f =>
    let k := w.pick (w.courseFrames c)
    k.2.hbmError (frameAddr (f + k.1))
  | .ddr bs =>
    let k := w.pick bs.length
    match bs[k.1]? with
    | some b =>
      let u := k.2.pick b.units
      u.2.ddrError b.die ((b.unit + u.1) * 256)
    | none => k.2.restartMove mv
  | .packed _ | .host _ => w.restartMove mv

/-- `MOVE_COPY_DONE` (R62, R63, R69, R81): the copy is checked, or ends in an uncorrectable error at a free place of one side. A move whose
blocks have not all been emitted or expanded is not yet copied. -/
def execMoveCopyDone (mv : Nat) (res : CopyResult) (s : State) : Host.Outcome State Fault Refusal :=
  run s fun w =>
    match lookupN mv w.n.st.moves with
    | none => w
    | some m =>
      match w.course m.course with
      | none => w.abandonMove mv
      | some c =>
        -- moves to and from the host tier wait while the window cannot be used (R68, R333)
        if m.checked.isSome ∨ (w.windowOff && (c.loc.tier = 2 || m.dst.tier = 2)) then w
        else match res with
        | .destError => w.moveDstError mv c m
        | .sourceError =>
          match c.loc with
          | .hbm f =>
            let k := w.pick (w.courseFrames c)
            (k.2.abandonMove mv).hbmError (frameAddr (f + k.1))
          | .ddr bs =>
            let k := w.pick bs.length
            match bs[k.1]? with
            | some b =>
              let u := k.2.pick b.units
              (u.2.abandonMove mv).ddrError b.die ((b.unit + u.1) * 256)
            | none => k.2.abandonMove mv
          | .packed bs =>
            let k := w.pick bs.length
            match bs[k.1]? with
            | some b =>
              let f := k.2.pick b.frames
              (f.2.abandonMove mv).hbmError (frameAddr (b.unit / 16 + f.1))
            | none => k.2.abandonMove mv
          | .host bs =>
            let w := w.abandonMove mv
            let a := w.get Reg.SPL_BASE_HI * 2 ^ 32 + w.get Reg.SPL_BASE_LO * 2 ^ 30 + ((bs.head?).map c.loc.addrOf).getD 0
            let d := w.readsFailed 2
            let w := d.2.capture { code := 0x4009, page := 0x76, part := some c.part, arg := a / 256 % 2 ^ 32, detail := d.1 }
            w.losePages m.course (List.range c.pages.length)
        | .checked =>
          let all := (List.range c.blocks).all fun i => m.blksDone.contains i
          match c.loc, m.dst with
          | .hbm f, .hbm g =>
            match w.badPages c with
            | [] =>
              let w := w.store (frameAddr g) (w.bytes (frameAddr f) (w.slotsBytes c))
              w.moveChecked mv c m
            | bad => bad.foldl (fun w p => w.crcLoss m.course p) (w.abandonMove mv)
          | .hbm _, _ => if all then w.moveChecked mv c m else w
          | _, .hbm _ => if all then w.moveChecked mv c m else w
          | .host _, .ddr _ => if all then (w.copyBlocks c.part c.loc m.dst).moveChecked mv c m else w
          | _, _ =>
            let q := w.badBlocks c
            if q.1 = ([], []) then (q.2.copyBlocks c.part c.loc m.dst).moveChecked mv c m
            else (q.2.abandonMove mv).loseFound m.course q.1

/-- A sheet reads the source of a course's move. -/
def Sheet.readsSource (s : Sheet) (ci : Nat) : Bool := s.state != .closed && s.tiles.any fun t => t.2.course = ci && !t.2.fromDst

/-- What holds back the commit of a move (R62, R63): a frozen sheet that reads the source, and for a spill or rebalance also the sheet that
is still being admitted; a promotion or lift commits before that sheet freezes. -/
def Work.sourcePinned (w : Work) (ci : Nat) (raises : Bool) : Bool :=
  w.n.qa.cur.readsSource ci || (!raises && w.n.qa.next.readsSource ci)

/-- The tiles of the sheet being built that a promotion's or lift's commit meets read the new copy (R63), in HBM or through tier 1. -/
def Work.tilesToCopy (w : Work) (ci k : Nat) (dst : Loc) : Work :=
  { w with n.qa.next := w.readTiles w.n.qa.next ci k dst (!·.fromDst) }

/-- Commit a move (R62): the course record is rewritten in one write and the source space freed. -/
def Work.commitMove (w : Work) (mi : Nat) (m : Move) (c : Course) : Work :=
  let src := c.loc
  let w := { w with n.st.moves := eraseN mi w.n.st.moves
                    n.st.prefetch := w.n.st.prefetch.filter fun r => !(m.dst.tier = 0 && r.course = m.course) }
  let w := if src.tier = 0 then w else w.tilesToCopy m.course c.k m.dst
  let w := w.setCourse m.course { c with loc := m.dst, fromReserve := c.fromReserve && m.dst.tier = 0 }
  -- headers rewritten while the copy ran (R40, R94) are written again in the copy
  let w := if m.dst.tier = 0 then
      (List.range c.pages.length).foldl (fun w i => match c.pages[i]? with
        | some p => if 0 < p.landed then w.writeHeader m.course i else w
        | none => w) w
    else w
  (if m.dst.tier = 0 then w else w.freeLoc c src).retireFreed

/-- `MOVE_COMMIT` (R62, R63): a checked move commits once no sheet holds it back. -/
def execMoveCommit (mv : Nat) (s : State) : Host.Outcome State Fault Refusal :=
  run s fun w =>
    match lookupN mv w.n.st.moves with
    | none => w
    | some m =>
      match w.course m.course with
      | none => w.abandonMove mv
      | some c => if m.checked.isSome ∧ ¬ w.sourcePinned m.course (m.dst.tier < c.loc.tier) then w.commitMove mv m c else w

/-! ## The copy of a spilled tail page -/

/-- Note a course, a page with its rows, or a run for the understudy (R379, R380). -/
def Work.noteCourse (w : Work) (ci action : Nat) : Work :=
  match w.course ci with
  | some c => w.metaChange c.part (courseRec ci c.k action c.layer (decide (1 < c.refs)))
  | none => w

/-- Note a page. -/
def Work.notePage (w : Work) (ci pi : Nat) : Work :=
  match w.course ci with
  | some c => match c.pages[pi]? with
    | some p => w.metaChange c.part (pageRec ci pi p)
    | none => w
  | none => w

/-- Note the rows `row` to `row + n - 1` of a page, with their bytes. -/
def Work.noteRows (w : Work) (ci pi row : Nat) (rows : List Bytes) : Work :=
  match w.course ci with
  | some c => match c.pages[pi]? with
    | some p => w.change c.part { meta_ := [], run := some (rowRun ci pi row p.fmt (p.firstPos + row) p.rowBytes rows) }
    | none => w
  | none => w

/-- Rows of a page extent. -/
def extentRows (ext : Bytes) (rowBytes n : Nat) : List Bytes := (List.range n).map fun r => sliceAt ext (64 + r * rowBytes) rowBytes

/-- The extent of a page read from wherever its course lies (R64): in HBM its bytes, else out of its block, which the block's expander
decodes; none when that is damaged. -/
def Work.readPage (w : Work) (c : Course) (p : Nat) (upset : Option Nat) : Option Bytes × Work :=
  let i := c.blockOf p
  match c.loc.blks[i]? with
  | none => ((w.pageExtent c p).toOption, w)
  | some b =>
    let r := w.decodeStored ((w.blockExpander c.loc b).getD (w.expanderOf 8)) c i b upset
    (r.1.map fun img => sliceAt img ((p - (blockPagesOf c.k i).headD 0) * c.extent) c.extent, r.2)

/-- `TAIL_PAGE_COPY_DONE` (R64): the part-filled last page of a spilled tail course lands as the first page of its new course;
the layer's run of the spilled course ends before it. -/
def execTailPageCopyDone (rd_ : TailRead) (s : State) : Host.Outcome State Fault Refusal :=
  run s fun w =>
    match lookupN rd_.copy w.n.st.tailCopies with
    | none => w
    | some t =>
      -- a tier-2 block waits while the window cannot be used (R68, R333)
      if w.windowOff && (w.course t.srcCourse).any fun c => c.loc.tier = 2 then w else
      let w := { w with n.st.tailCopies := eraseN rd_.copy w.n.st.tailCopies }
      match w.course t.srcCourse, w.course t.dst, w.session t.session with
      | some c, some d, some se =>
        let read := w.readPage c t.srcPage rd_.upset
        let w := read.2
        match c.pages[t.srcPage]?, read.1 with
        | some p, some ext =>
          if !pageCrcOk ext then
            (w.capture { code := 0x4007, page := 0x25, part := some c.part, arg := w.pageWhere c t.srcPage
                         detail := crcFails ext }).freeCourse t.dst |>.losePages t.srcCourse [t.srcPage]
          else
            let np : Page := { p with handle := BitVec.ofNat 32 d.base, flags := if t.fromReserve then 4 else 0, landed := p.counted
                                      installTick := BitVec.ofNat 32 w.now32, blockId := 0 }
            let rows := sliceAt ext 64 (p.counted * p.rowBytes)
            let w := w.setCourse t.dst { d with pages := [np] }
            let a := match d.loc with | .hbm f => frameAddr f | _ => 0
            let w := (w.store (a + 64) rows).writeHeader t.dst 0
            let l := atD se.layers t.layer { runs := [], aim := none, rows := 0, jumpTo := none, lastAppend := 0 }
            let runs := (l.runs.map fun r : Run => if r.course = t.srcCourse then { r with count := min r.count (t.srcPage - r.first) } else r)
            let kept := runs.filter fun r => 0 < r.count
            let cut := (l.runs.zip runs).filter fun e => e.1 != e.2
            let gone := runs.any fun r => r.course = t.srcCourse && r.count = 0
            let run : Run := { course := t.dst, first := 0, count := 1 }
            let w := w.setSession t.session { se with layers := se.layers.set t.layer { l with runs := kept ++ [run] }, slots := se.slots + 1 }
            let w := ((w.noteCourse t.dst 1).notePage t.dst 0).noteRows t.dst 0 0 (extentRows ext p.rowBytes p.counted)
            let w := cut.foldl (fun w e => w.metaChange c.part (runRec t.layer e.2 se.cid)) (w.metaChange c.part (runRec t.layer run se.cid))
            if gone then w.dropRef t.srcCourse else w
        | _, _ => (w.freeCourse t.dst).blockDamaged t.srcCourse (c.blockOf t.srcPage)
      | _, some _, _ => w.freeCourse t.dst
      | _, _, _ => w

/-! ## Errors -/

/-- `HBM_UNCORRECTABLE_ERROR` (R81, R83, R85): counted, captured, the frame retired; the page it lay in is lost. -/
def execHbmUncorrectableError (addr : Nat) (s : State) : Host.Outcome State Fault Refusal :=
  run s fun w => if inHbm addr then w.hbmError addr else w

/-- `SYSTEM_AREA_ERROR` (R85): an uncorrectable error at a byte of a stack that lies in the system area; the node reports it
and fences itself. -/
def execSystemAreaError (stack off : Nat) (s : State) : Host.Outcome State Fault Refusal :=
  run s fun w =>
    let addr := stack * stackBytes + off
    if (sysPartOf addr).isSome then w.hbmError addr else w

/-- `DDR_UNCORRECTABLE_ERROR` (R67, R83, R85): one stripe, or a channel that fails in service. -/
def execDdrUncorrectableError (loss : DdrLoss) (s : State) : Host.Outcome State Fault Refusal :=
  run s fun w =>
    match loss with
    | .stripe die addr => w.ddrError die addr
    | .channel ch =>
      if 12 ≤ ch ∨ ¬ w.flag Reg.DDR_IN_STRIPE ch ∨ ¬ w.flag Reg.DDR_TRAINED ch then w
      else
        let die := ch / 6
        let w := w.set Reg.DDR_TRAINED 0 ch
        let w := w.count Reg.DDR_UE_CNT 1 ch
        let w := ((w.capture { code := 0x4307, page := 0x18 + ch, detail := 0x80 + ch }).isr (0x18 + ch) 16)
        let w := (w.setReady (0x18 + ch) false).setEnable (0x18 + ch) false
        let chans := w.stripeChannels die
        w.loseDdr fun b => b.die = die &&
          (List.range (min b.units chans.length)).any fun j => atD chans ((b.unit + j) % max chans.length 1) 99 = ch

/-- Milliseconds since reset. -/
def Work.ms (w : Work) : Nat := w.ps / 1000000000

/-- A corrected error at a frame or grain (R83): those inside the window count; whether the limit is reached. -/
def Work.countCe (w : Work) (key limit hours : Nat) : Bool × Work :=
  let old := ((lookupN key w.n.st.ceLog).getD []).filter fun t => w.ms < t + hours * 3600000
  let l := old ++ [w.ms]
  (decide (limit ≤ l.length), { w with n.st.ceLog := insertN key l w.n.st.ceLog })

/-- `SCRUB_CORRECTED` (R82, R83): counted, written back corrected; at CE_LIMIT in the window the frame or grain is retired,
once its course has moved. -/
def execScrubCorrected (loc : ScrubAt) (s : State) : Host.Outcome State Fault Refusal :=
  run s fun w =>
    match loc with
    | .hbm addr =>
      if !inHbm addr then w
      else
        let st := addr / stackBytes
        let w := w.count Reg.HBM_CE_CNT 1 st
        match addrFrame addr with
        | none => w
        | some f =>
          let r := w.countCe f (w.get Reg.HBM_CE_LIMIT st) (w.get Reg.HBM_WINDOW_H st)
          if !r.1 ∨ r.2.n.st.retiring.contains f ∨ r.2.n.st.retiredFrames.contains f then r.2
          else
            ({ r.2 with n.st.retiring := f :: r.2.n.st.retiring } : Work).evacuate.retireFreed
    | .ddr die addr =>
      match w.stripeChannel die addr with
      | none => w
      | some ch =>
        let w := w.count Reg.DDR_CE_CNT 1 ch
        let g := addr / 4096
        let key := 2 ^ 40 + die * 2 ^ 36 + g
        let r := w.countCe key (w.get Reg.DDR_CE_LIMIT ch) (w.get Reg.DDR_WINDOW_H ch)
        if !r.1 ∨ r.2.n.st.retiring.contains key ∨ r.2.n.st.retiredGrains.contains (die, g) then r.2
        else
          ({ r.2 with n.st.retiring := key :: r.2.n.st.retiring } : Work).evacuate.retireFreed

/-- A stack goes out of service (R85): its pages are handled as uncorrectable and nothing new is placed in it. -/
def Work.stackOut (w : Work) (st : Nat) : Work :=
  let ready := w.get Reg.CST_READY
  let w := w.set Reg.CST_READY (ready - (if bitOf ready st then 2 ^ st else 0))
  let w := w.set Reg.CST_OFFLINE (w.get Reg.CST_OFFLINE ||| 2 ^ st)
  let w := ((w.set Reg.HBM_OFFLINE 1 st).set Reg.HBM_IN_SERVICE 0 st).setEnable (0x10 + st) false
  let w := w.set Reg.CST_FRAMES (slotFrames * w.servingStacks.length)
  let w := w.capture { code := 0x4307, page := 0x10 + st, detail := st }
  let w := w.n.st.courses.foldl (fun w e => match e.2.loc with
    | .hbm f => if f / slotFrames = st then
        (w.modCourse e.1 fun c => { c with tail := false }).losePages e.1 (List.range e.2.pages.length) else w
    | .packed bs => bs.zipIdx.foldl (fun w b => if b.1.unit / 16 / slotFrames = st then w.blockUe e.1 b.2 else w) w
    | _ => w) w
  -- moves into the stack start again elsewhere (R63), and the running sheet leaves out what it read there
  let again := w.n.st.moves.filter fun m => match m.2.dst with | .hbm f => f / slotFrames = st | _ => false
  again.foldl (fun w m =>
    let lose := fun t : Nat × Tile => if t.2.course = m.2.course && t.2.fromDst then (t.1, { t.2 with lostPages := t.2.pages }) else t
    ({ w with n.qa.cur := { w.n.qa.cur with tiles := w.n.qa.cur.tiles.map lose } } : Work).restartMove m.1) w

/-- `TAKE_OFFLINE` (R85, HBM_CTRL): the operator removes a stack; until reset. -/
def execTakeOffline (wr : RegWr) (s : State) : Host.Outcome State Fault Refusal :=
  run s fun w => w.regAction wr .HBM [0x104] fun w st _ =>
    if wrote1 wr Reg.HBM_TAKE_OFFLINE ∧ ¬ w.flag Reg.HBM_TAKE_OFFLINE st then
      (w.set Reg.HBM_TAKE_OFFLINE 1 st).stackOut st
    else w

end Sys2Proof.Machine
end

