-- ==== Sys2Proof/Machine/Compress.lean ====
section
/-!
DEFINITION. Sys2Proof/Machine/Compress.lean: compressors and expanders at work (R219 to R226, R236). Commands BLOCK_DECODE_DONE,
XPD_RETIRE; COMPRESSOR_BLOCK_EMITTED stands in Mirror.lean, beside the copies that it also serves.
-/

namespace Sys2Proof.Machine

/-! ## Compressors -/

/-- The FAULTED bit of a die's compressor. -/
def cmpFaulted (die : Nat) : Fld := if die = 0 then Reg.CMP_FAULTED0 else Reg.CMP_FAULTED1

/-- The die whose compressor serves a course in HBM: the die that holds it (R211), or the other while that one is faulted
(R221). -/
def Work.compressorOf (w : Work) (c : Course) : Option Nat :=
  match c.loc with
  | .hbm f =>
    let d := f / slotFrames / 4
    if !w.flag (cmpFaulted d) then some d else if !w.flag (cmpFaulted (1 - d)) then some (1 - d) else none
  | _ => none

/-- The course that a die's compressor holds. -/
def Work.cmpRun (w : Work) (die : Nat) : Option CmpRun := (w.n.cp.runs[die]?).bind id

/-- Put a course into a die's compressor, or take it out. -/
def Work.setRun (w : Work) (die : Nat) (r : Option CmpRun) : Work := { w with n.cp.runs := w.n.cp.runs.set die r }

/-- Moves whose courses a die's compressor serves on their way to tier 1, and which are not yet checked, in the order of R71 (R222): by
class, and in a class as they were scheduled. -/
def Work.compressing (w : Work) (die : Nat) : List Nat :=
  let mine := w.n.st.moves.filter fun m => m.2.checked.isNone && m.2.dst.tier = 1 && (match w.course m.2.course with
    | some c => w.compressorOf c = some die
    | none => false)
  (sortKey (fun m : Nat × Move => [moveClasses.findIdx (· = m.2.cls), m.1]) mine).map (·.1)

/-- The symbol counts of a course, over all its images. -/
def CmpRun.counts (r : CmpRun) : List Nat :=
  (r.imgs.map fun i => symCounts r.w8 (imageSyms r.w8 i)).foldl (fun a c => (a.zip c).map fun e => e.1 + e.2)
    (List.replicate (if r.w8 then 256 else 16) 0)

/-- The first pass over a course (R219, R220, R237): its images go into the buffer, and the ratio decides whether its blocks are coded. -/
def Work.firstRun (w : Work) (job : CmpJob) (part k : Nat) (w8 : Bool) (imgs : List Bytes) : CmpRun :=
  let ratio := firstPass w8 imgs
  { job := job, part := part, k := k, w8 := w8, imgs := imgs, ratio := ratio
    coded := w.flag Reg.CMP_CODE_EN && decide (w.get Reg.CMP_PT_RATIO ≤ ratio)
    limit := w.get Reg.CMP_FAULT_LIMIT, table := [], emitted := [] }

/-- The first pass over a course in HBM. -/
def Work.courseRun (w : Work) (job : CmpJob) (c : Course) : CmpRun :=
  w.firstRun job c.part c.k (w.rowFmt c.fmt).w8 ((List.range c.blocks).map (w.courseImage c))

/-- A block expands to its image in the buffer, as the inline verify decoder finds it (R221). -/
def CmpRun.verifies (r : CmpRun) (i : Nat) (b : Bytes) : Bool :=
  let h := BlkHead.read b
  let pages := blockPagesOf r.k i
  let img := atD r.imgs i []
  decide (h.kind = 0 ∧ h.items = pages.length ∧ h.first = pages.headD 0) &&
    (match expandBlock b img.length r.part with | .ok x => decide (x = img) | .error _ => false)

/-- The form that a compressor gives a block (R219, R220): the symbol width of the row format; passthrough for a course below the ratio,
else coded with one table for the whole course whose total of code bits is the least that a table allows. -/
def CmpRun.form (r : CmpRun) (b : Bytes) : Bool :=
  let h := BlkHead.read b
  let t := sliceAt b 32 h.tableLen
  let lens := codeLens h.w8 t
  h.w8 == r.w8 && h.pt == !r.coded &&
  (h.pt || ((r.table.isEmpty || decide (t = r.table)) && (lens.zip r.counts).all (fun e => e.2 = 0 || 0 < e.1) &&
    decide (codedBits lens r.counts = codedBits (bestLens r.counts) r.counts)))

/-- The passthrough block that takes the place of block `i` (R221). -/
def CmpRun.passthrough (r : CmpRun) (i : Nat) : Bytes :=
  let pages := blockPagesOf r.k i
  passBlock r.w8 0 pages.length (pages.headD 0) r.part (atD r.imgs i [])

/-- A block has been emitted: the next one is to use its table. -/
def CmpRun.emit (r : CmpRun) (b : Bytes) : CmpRun :=
  let h := BlkHead.read b
  { r with emitted := r.emitted ++ [b], table := if h.pt then r.table else sliceAt b 32 h.tableLen }

/-- A block failed its inline verification (R221): counted, and at FAULT_LIMIT in succession the compressor is faulted and its
moves restart on the other die's. Whether the compressor goes on. -/
def Work.verifyFailed (w : Work) (die limit : Nat) : Bool × Work :=
  let serving := w.compressing die
  let n := atD w.n.cp.fails die 0 + 1
  let w := { w with n.cp.fails := w.n.cp.fails.set die n }
  let w := w.count Reg.CMP_VERIFY_FAIL
  let w := w.report { code := 0x4503, page := 0x28, detail := die }
  if limit ≤ n then
    let w := (w.set (cmpFaulted die) 1).setRun die none
    let w := w.report { code := 0x4106, page := 0x28, detail := die }
    (false, serving.foldl (fun w m => w.modMove m fun m => { m with dst := .ddr [], blksDone := [] }) w)
  else (true, w)

/-- The emission of block `i` of a course on a die (R221): a block that verifies goes out; one that fails goes out again as passthrough, or
not at all when its failure faults the compressor. The run with what went out. -/
def Work.emitBlock (w : Work) (die : Nat) (r : CmpRun) (i : Nat) (b : Bytes) (good : Bool) : Option (CmpRun × Bytes) × Work :=
  if good then (some (r.emit b, b), { w with n.cp.fails := w.n.cp.fails.set die 0 })
  else
    let v := w.verifyFailed die r.limit
    let p := r.passthrough i
    (if v.1 then some (r.emit p, p) else none, v.2)

/-- The counts of a block that left a compressor (CMP counters). -/
def Work.countBlock (w : Work) (b : Bytes) : Work :=
  let h := BlkHead.read b
  let w := w.count (if h.pt then Reg.CMP_BLOCKS_PT else Reg.CMP_BLOCKS_CODED)
  (w.count Reg.CMP_IN_KIB (h.exp / 1024)).count Reg.CMP_OUT_KIB (b.length / 1024)

/-- A first pass shows its ratio (CMP_STAT.LAST_RATIO). -/
def Work.showRatio (w : Work) (r : CmpRun) : Work := w.set Reg.CMP_LAST_RATIO (min r.ratio 255)

/-- Rows of a sequence of row runs; none when it is not one. -/
def runRows : Nat → Bytes → Option Nat
  | 0, b => if b.isEmpty then some 0 else none
  | fuel + 1, b =>
    if b.isEmpty then some 0
    else
      let n := fieldAt b 6 1
      let len := alignUp (16 + n * fieldAt b 0xC 2) 16
      if b.length < len ∨ n = 0 then none else (runRows fuel (b.drop len)).map (· + n)

/-- Row runs of a batch: those of a course freed later in the same batch go with it. -/
def Batch.runs (b : Batch) : List Bytes :=
  let freed := fun (ci i : Nat) => (b.changes.drop i).any fun c =>
    decide (fieldAt c.meta_ 0 1 = 2 ∧ fieldAt c.meta_ 9 1 = 2 ∧ fieldAt c.meta_ 4 4 = ci)
  b.changes.zipIdx.filterMap fun e => match e.1.run with
    | some r => if freed (fieldAt r 0 4) e.2 then none else some r
    | none => none

/-- The compressor of a mirror stream's row runs, which no rule ties to a die: die 0's, or die 1's while that is faulted (DESIGN CHOICE,
log 132). -/
def Work.rowsDie (w : Work) : Option Nat := [0, 1].find? fun d => !w.flag (cmpFaulted d)

/-- The die whose compressor the next batch of a stream needs (R222); none when it needs none. -/
def Work.streamDie (w : Work) (s : Stream) : Option Nat :=
  if !w.flag Reg.MIR_EN ∨ s.state = .off ∨ s.state = .unavailable ∨ s.state = .behind then none
  else match s.batches.find? fun b => !b.sent with
    | some b => if b.runs.isEmpty then none else w.rowsDie
    | none => match s.toSeed with
      | ci :: _ => (w.course ci).bind w.compressorOf
      | [] => none

/-- The copy of a course that a stream holds, of the running generation or the one before (R385). -/
def InStream.copyOf (s : InStream) (ci : Nat) : Option CopyCourse :=
  (s.courses.find? fun c => c.index = ci && c.seeded).orElse fun _ => s.oldCourses.find? fun c => c.index = ci && c.seeded

/-- The course record of the copy that a RESTORE asks for, with its index. -/
def Work.replyCopy (w : Work) (q : RestoreReply) : Option (Nat × Course) :=
  ((w.n.mi.inStreams.find? fun s => s.src = q.src && s.part = q.part).bind fun s => (s.copyOf q.course).bind (·.course)).bind fun i =>
    (w.course i).map fun c => (i, c)

/-- The next batch of a stream waits for a die's compressor. -/
def Work.streamWaits (w : Work) (die : Nat) : Bool := w.n.mi.streams.any fun s => w.streamDie s = some die

/-- Work that a die's compressor serves before spill (R222): a stream's next batch, or the course of a RESTORE. -/
def Work.mirrorWaits (w : Work) (die : Nat) : Bool :=
  w.streamWaits die || w.n.mi.replies.any fun q => ((w.replyCopy q.2).bind fun c => w.compressorOf c.2) = some die

/-- The die in whose tier-1 space block `i` of a course goes (R66). -/
def Work.blockDie (w : Work) (c : Course) (i : Nat) : Nat :=
  if c.k = 0 then w.emptierDie else i

/-- A block of a move lands in tier 1 (R229, R231). -/
def Work.landBlock (w : Work) (mv : Nat) (c : Course) (i : Nat) (b : Bytes) : Work :=
  match w.placeDdr (w.blockDie c i) b.length (fieldAt b 1 1) with
  | (some x, w) =>
    let w := w.store (ddrKey x.die (x.unit * 256)) b
    let w := w.modMove mv fun m => { m with dst := .ddr (m.dst.blks ++ [x]), blksDone := m.blksDone ++ [i] }
    let w := w.countBlock b
    if i + 1 = c.blocks then w.count Reg.CMP_COURSES else w
  | (none, w) => w.abandonMove mv

/-- The next block of a spilled course (R219 to R222). The first begins when the die's compressor holds no course, no mirror work waits for
it, and no other course is before this one; a page that fails a CRC ends the move (R94). -/
def Work.emitSpill (w : Work) (die mv blk : Nat) (bytes : Bytes) (corrupt : Bool) : Work :=
  match lookupN mv w.n.st.moves with
  | none => w
  | some m =>
    match w.course m.course with
    | none => w
    | some c =>
      if w.compressorOf c ≠ some die ∨ m.dst.tier ≠ 1 ∨ m.checked.isSome ∨ blk ≠ m.dst.blks.length ∨ c.blocks ≤ blk then w
      else
        let first := decide (blk = 0)
        let bad := if first then w.badPages c else []
        let held := w.cmpRun die
        let turn := if first then held.isNone && !w.mirrorWaits die && (w.compressing die).head? = some mv
                    else (held.map (·.job)) = some (.spill mv)
        let r := if first then w.courseRun (.spill mv) c else held.getD (w.courseRun (.spill mv) c)
        if !turn then w
        else if !bad.isEmpty then bad.foldl (fun w p => w.crcLoss m.course p) ((w.abandonMove mv).count Reg.CMP_ABANDONED)
        else if !corrupt ∧ r.verifies blk bytes ∧ !r.form bytes then w
        else
          let w := if first then w.showRatio r else w
          let x := w.emitBlock die r blk bytes (!corrupt && r.verifies blk bytes)
          match x.1 with
          | none => x.2
          | some (r, b) =>
            let w := (x.2.setRun die (some r)).landBlock mv c blk b
            if blk + 1 = c.blocks ∧ (w.moveOf m.course).isSome then w.setRun die none else w

/-! ## Expanders -/

/-- Expanded pages go into the slots of a destination in HBM, and their CRCs are checked (R226). The pages that fail. -/
def Work.installImage (w : Work) (c : Course) (frame blk : Nat) (img : Bytes) : List Nat × Work :=
  (blockPagesOf c.k blk).zipIdx.foldl (fun acc e =>
    let ext := sliceAt img (e.2 * c.extent) c.extent
    (acc.1, acc.2.store (acc.2.pageAddrAt c.part frame e.1) ext)) (c.imageBad blk img, w)

/-- The sheets' tiles that read a block through. -/
def Work.markTiles (w : Work) (ci : Nat) (f : Tile → Tile) : Work :=
  let g := fun s : Sheet => { s with tiles := s.tiles.map fun t =>
    (if t.2.course = ci && t.2.tier1 then (t.1, f t.2) else t : Nat × Tile) }
  { w with n.qa.cur := g w.n.qa.cur, n.qa.next := g w.n.qa.next }

/-- The sheet that a decoded segment of a streamed layer is for (R180, R236): the one being built once it has admitted the layer, else the
running one. -/
def Work.segmentDone (w : Work) (die layer blk : Nat) : Work :=
  let k := (die, layer, blk)
  if w.n.qa.budget.streamed.contains (die, layer) && !w.n.cl.decodedNext.contains k then
    { w with n.cl.decodedNext := w.n.cl.decodedNext ++ [k] }
  else if w.n.cl.decoded.contains k then w
  else { w with n.cl.decoded := w.n.cl.decoded ++ [k] }

/-- A block of a promotion or lift has been decoded (R211, R226): into the destination's slots, or checked only. -/
def Work.decodeMove (w : Work) (inst mv blk : Nat) (upset : Option Nat) : Work :=
  match lookupN mv w.n.st.moves with
  | none => w
  | some m =>
    match w.course m.course with
    | none => w
    | some c =>
      if m.blksDone.contains blk ∨ m.checked.isSome ∨ (w.windowOff && c.loc.tier = 2) then w
      else match c.loc.blks[blk]? with
        | none => w
        | some b =>
          if w.blockExpander c.loc b ≠ some inst then w
          else
            let r := w.decodeStored inst c blk b upset
            let w := r.2
            match r.1 with
            | none => (w.abandonMove mv).blockDamaged m.course blk
            | some img =>
              match m.dst with
              | .hbm f =>
                let q := w.installImage c f blk img
                match q.1 with
                | [] => q.2.modMove mv fun m => { m with blksDone := m.blksDone ++ [blk] }
                | bad => bad.foldl (fun w p => w.crcLoss m.course p) (q.2.abandonMove mv)
              | _ => match c.imageBad blk img with
                | [] => w.modMove mv fun m => { m with blksDone := m.blksDone ++ [blk] }
                | bad => bad.foldl (fun w p => w.crcLoss m.course p) (w.abandonMove mv)

/-- A block read through for a sheet has been decoded (R226, R232). -/
def Work.decodeThrough (w : Work) (inst ci blk : Nat) (upset : Option Nat) : Work :=
  match w.course ci with
  | none => w
  | some c =>
    match c.loc, c.loc.blks[blk]? with
    | .ddr _, some b =>
      if w.blockExpander c.loc b ≠ some inst then w
      else
        let r := w.decodeStored inst c blk b upset
        match r.1 with
        | some _ => r.2.markTiles ci fun t => { t with expanded := if t.expanded.contains blk then t.expanded else t.expanded ++ [blk] }
        | none => r.2.blockDamaged ci blk
    | _, _ => w

/-- A segment of a streamed layer has been decoded on a die's weight path (R180, R223, R226, R236). -/
def Work.decodeSegment (w : Work) (inst die layer blk : Nat) (upset : Option Nat) : Work :=
  match w.n.cl.weights.find? fun l => l.layer = layer with
  | none => w
  | some l =>
    match l.packed[blk]? with
    | none => w
    | some b =>
      if !l.streamed die ∨ w.weightExpander die ≠ some inst then w
      else
        let r := w.decodeOn inst b (atD (weightWindows l.imageLen l.packed) blk 0) none (atD (blockAddrs l.home l.packed) blk 0) upset
        if r.1.isSome then r.2.segmentDone die layer blk else r.2.layerLost die layer

/-- `BLOCK_DECODE_DONE` (R180, R211, R223 to R226, R232): the expander of a block has decoded it for a promotion or lift, for a sheet that
reads it through, or as a segment of a streamed layer; `upset` is the check that a fault of the instance made the decode fail. -/
def execBlockDecodeDone (inst : Nat) (job : DecodeJob) (upset : Option Nat) (s : State) : Host.Outcome State Fault Refusal :=
  run s fun w =>
    if 25 ≤ inst ∨ ¬ w.flag Reg.XPD_ACTIVE 0 inst then w
    else
      match job with
      | .move mv blk => w.decodeMove inst mv blk upset
      | .readThrough ci blk => w.decodeThrough inst ci blk upset
      | .weights die layer blk => w.decodeSegment inst die layer blk upset

/-- `XPD_RETIRE` (XPD_STAT.RETIRE, R225): the operator retires the selected instance. -/
def execXpdRetire (wr : RegWr) (s : State) : Host.Outcome State Fault Refusal :=
  run s fun w => w.regAction wr .XPD [0x108] fun w _ inst =>
    if wrote1 wr Reg.XPD_RETIRE then w.retireExpander inst else w

end Sys2Proof.Machine
end

