-- ==== Sys2Proof/Machine/Keystone.lean ====
section
/-!
DEFINITION. Sys2Proof/Machine/Keystone.lean: the Keystone engine (R126 to R138, R517): banks, searches, parity, insertion and
removal of entries, and what a lookup of each table answers. Commands PARITY_SCAN, KEYSTONE_BANK_REBUILT.
-/

namespace Sys2Proof.Machine

/-! ## Banks -/

/-- The table codes of R129. -/
abbrev tblPrefix : Nat := 1
abbrev tblSession : Nat := 2
abbrev tblConn : Nat := 3
abbrev tblRkey : Nat := 4

/-- A physical bank. -/
def Work.ksBank (w : Work) (b : Nat) : KsBank := atD w.n.ks.banks b { entries := [] }

/-- Store a bank's entries. -/
def Work.setKsBank (w : Work) (b : Nat) (f : List (Nat × KsEntry) → List (Nat × KsEntry)) : Work :=
  { w with n.ks.banks := w.n.ks.banks.modify b fun k => { entries := f k.entries } }

/-- Units of an entry of a bank (R127). -/
def Work.ksUnits (w : Work) (b : Nat) : Nat := 2 ^ w.get Reg.KEY_WIDTH 0 b

/-- Even parity over the low `n` bits of a number: the bit that makes the count of ones even. -/
def evenParity (n v : Nat) : Nat := ((List.range n).filter v.testBit).length % 2

/-- The metadata word of a unit (R126): PRIO, VALID, WIDTH and PARITY; SPARE is zero. -/
def unitMeta (prio width key : Nat) : Nat :=
  let m := prio % 256 + 256 + width % 4 * 512
  m + evenParity 76 (key % 2 ^ 64 + m * 2 ^ 64) * 2048

/-- The parity of a unit holds (R126): PARITY agrees with the key bits and the metadata bits other than itself. -/
def unitParityOk (u : Nat × Nat) : Bool := evenParity 80 (u.1 % 2 ^ 64 + u.2 % 2 ^ 16 * 2 ^ 64) = 0

/-- A sound entry of a bank of a width (R127): every unit carries the same PRIO, VALID and WIDTH. -/
def KsEntry.make (width prio : Nat) (key : List Nat) (result : Nat) : KsEntry :=
  { units := (key.take (2 ^ width)).map fun k => (k, unitMeta prio width k), result := result }

/-- What the units of an entry hold (R126, R137). -/
def KsEntry.key (e : KsEntry) : List Nat := e.units.map (·.1)
def KsEntry.valid (e : KsEntry) : Bool := e.units.all fun u => bitOf u.2 8
def KsEntry.prio (e : KsEntry) : Nat := ((e.units.head?).map (·.2 % 256)).getD 0
def KsEntry.parityOk (e : KsEntry) : Bool := e.units.all unitParityOk

/-- One bit of an entry flips. -/
def KsEntry.flip (e : KsEntry) (unit bit : Nat) : KsEntry :=
  { e with units := e.units.modify unit fun u => if bit < 64 then (u.1 ^^^ 2 ^ bit, u.2) else (u.1, u.2 ^^^ 2 ^ (bit - 64)) }

/-- Free entries of a bank. -/
def Work.ksFree (w : Work) (b : Nat) : Nat := 16384 / w.ksUnits b - (w.ksBank b).entries.length

/-- The banks of a table, ascending; those of the prefix table belong to one partition (R129, R130). -/
def Work.ksBanks (w : Work) (table part : Nat) : List Nat :=
  (List.range 66).filter fun b => w.get Reg.KEY_TABLE 0 b = table && !w.flag Reg.KEY_SPARE 0 b &&
    (table != tblPrefix || w.get Reg.KEY_OWNER 0 b = part)

/-- The key of a session, and of a remote key (R129). -/
def sessKey (part : Nat) (cid : Nat) : List Nat := [cid, part]
def rkeyKey (part index : Nat) : List Nat := [index % 2 ^ 24 + part * 2 ^ 24]

/-! ## Searches -/

/-- The winning entry of a search. -/
structure KsHit where
  bank : Nat
  idx : Nat
  prio : Nat
  result : Nat
  parityOk : Bool
  deriving DecidableEq, Repr

/-- A search of one table (R128): the highest priority below the ceiling wins, then the lowest bank, then the lowest index. A
bank being rebuilt answers nothing (R48). -/
def Work.ksSearch (w : Work) (table part : Nat) (key : List Nat) (ceiling : Option Nat) : Option KsHit :=
  let banks := (w.ksBanks table part).filter fun b => !w.flag Reg.KEY_REBUILDING 0 b
  let hits := (banks.map fun b =>
    let u := w.ksUnits b
    ((w.ksBank b).entries.filter fun e => e.2.valid && e.2.key = key.take u && (match ceiling with | some c => decide (e.2.prio < c) | none => true)).map
      fun e => { bank := b, idx := e.1, prio := e.2.prio, result := e.2.result, parityOk := e.2.parityOk : KsHit }).flatten
  hits.foldl (fun (best : Option KsHit) h => match best with
    | some x => if x.prio < h.prio then some h else best
    | none => some h) none

/-- Full key units of a tree record in a prefix bank (R129). -/
def prefixKey (blockId parentId : Nat) (tokens : List Nat) : List Nat :=
  [blockId, parentId, atD tokens 0 0 + atD tokens 1 0 * 2 ^ 32, atD tokens 2 0 + atD tokens 3 0 * 2 ^ 32]

/-- The key and result that the record naming an entry gives it (R137, R138); none when no record names it. -/
def Work.ksRecord (w : Work) (bank idx : Nat) : Option (List Nat × Nat) :=
  let t := w.get Reg.KEY_TABLE 0 bank
  if t = tblPrefix then
    (w.n.ks.tree.find? fun e => e.2.bank = bank && e.2.idx = idx && !e.2.lost && !e.2.dying).map fun e =>
      (prefixKey e.2.blockId e.2.parentId e.2.tokens, e.1)
  else if t = tblSession then
    (w.n.pg.sessions.find? fun e => e.2.ksBank = some bank && e.2.ksIdx = idx).map fun e => (sessKey e.2.part e.2.cid.toNat, e.1)
  else if t = tblConn then
    (w.n.tp.conns.find? fun e => e.2.hot && e.2.ksAt = some (bank, idx)).map fun e => ([e.1], e.2.slot)
  else if t = tblRkey then
    (w.n.tp.regions.find? fun e => e.2.ksBank = bank && e.2.ksIdx = idx).map fun e =>
      (rkeyKey e.2.part (e.1 % 2 ^ 24), e.1)
  else none

/-- The priority at which an entry is written again: that of a unit whose parity holds, else KEY_PRIO.NORMAL, and in a prefix bank one
below the other entries of its key (DESIGN CHOICE, log 131: no record holds a priority). -/
def Work.prioAgain (w : Work) (bank idx : Nat) (e : KsEntry) (key : List Nat) : Nat :=
  match e.units.find? unitParityOk with
  | some u => u.2 % 256
  | none =>
    let part := w.get Reg.KEY_OWNER 0 bank
    let others := if w.get Reg.KEY_TABLE 0 bank = tblPrefix ∧ w.ksUnits bank = 1 then
        ((w.ksBanks tblPrefix part).map fun b => (w.ksBank b).entries.filter fun x => (b != bank || x.1 != idx) && x.2.key = key.take 1).flatten
      else []
    others.foldl (fun n x => min n (x.2.prio - 1)) (w.get Reg.KEY_NORMAL)

/-- Write an entry again at its place from the record that names it, or remove it (R135, R137, R138). -/
def Work.ksRewrite (w : Work) (bank idx : Nat) : Work :=
  match lookupN idx (w.ksBank bank).entries with
  | none => w
  | some e =>
    match w.ksRecord bank idx with
    | some (key, res) =>
      w.setKsBank bank (insertN idx (KsEntry.make (w.get Reg.KEY_WIDTH 0 bank) (w.prioAgain bank idx e key) key res))
    | none => w.setKsBank bank (eraseN idx)

/-- A parity error found in a bank (R137). -/
def Work.ksParity (w : Work) (bank : Nat) : Work :=
  (w.count Reg.KEY_PAR_ERR 1 0 bank).count Reg.KEY_FALSE_SOFT

/-- A soft-error hit of the prefix table: the entry is written again and logged (R135). -/
def Work.ksSoft (w : Work) (bank idx : Nat) : Work :=
  (w.ksRewrite bank idx).log { code := 0x4401, page := 0x27, detail := bank + idx * 2 ^ 16 }

/-- A lookup of the session, connection or remote-key table (R134, R137): a hit is used only when its record agrees; an entry
with a parity error is written again and the table searched once more. The entry of a second parity error is counted and not written again
in that lookup (DESIGN CHOICE, log 131: R137 says only how the lookup ends). -/
def Work.ksLookup (w : Work) (table : Nat) (key : List Nat) (agrees : Nat → Bool) : Option Nat × Work :=
  let settle := fun (w : Work) (h : KsHit) =>
    if agrees h.result then (some h.result, w.count Reg.KEY_HITS) else (none, w)
  let w := w.count Reg.KEY_SEARCHES
  match w.ksSearch table 0 key none with
  | none => (none, w)
  | some h =>
    if h.parityOk then settle w h
    else
      let w := ((w.ksParity h.bank).ksRewrite h.bank h.idx).count Reg.KEY_SEARCHES
      match w.ksSearch table 0 key none with
      | none => (none, w)
      | some h => if h.parityOk then settle w h else (none, w.ksParity h.bank)

/-- The session of a partition and CID, as Keystone and then its record give it (R101, R134). While a session bank is being
rebuilt a miss is answered from the records, so that a CID stays unique (DEDUCED from R48, log 23). -/
def Work.sessionByCid (w : Work) (part : Nat) (cid : Nat) : Option Nat × Work :=
  let r := w.ksLookup tblSession (sessKey part cid) fun i => match w.session i with
    | some s => s.part = part && s.cid.toNat = cid
    | none => false
  if r.1.isNone ∧ (w.ksBanks tblSession 0).any fun b => w.flag Reg.KEY_REBUILDING 0 b then
    ((w.n.pg.sessions.find? fun e => e.2.part = part && e.2.cid.toNat = cid && e.2.ksBank.isSome).map (·.1), r.2)
  else r

/-! ## Entries -/

/-- The bank with the most free entries, the lower on a tie; none when none has any. -/
def Work.ksRoomiest (w : Work) (banks : List Nat) : Option Nat :=
  let best := (banks.map fun b => w.ksFree b).foldl max 0
  if best = 0 then none else banks.find? fun b => w.ksFree b = best

/-- The lowest free index of a bank: a multiple of its width (R127). The spec does not say which free place an entry takes (DESIGN
CHOICE, log 131). -/
def Work.ksFreeIndex (w : Work) (bank : Nat) : Nat :=
  let l := (w.ksBank bank).entries
  (((List.range (l.length + 1)).map (· * w.ksUnits bank)).find? fun i => (lookupN i l).isNone).getD 0

/-- Write an entry at the lowest free index of a bank; answers the index. -/
def Work.ksWrite (w : Work) (bank : Nat) (key : List Nat) (prio result : Nat) : Nat × Work :=
  let i := w.ksFreeIndex bank
  (i, w.setKsBank bank (insertN i (KsEntry.make (w.get Reg.KEY_WIDTH 0 bank) prio key result)))

/-- A new entry of a node table (R517), at priority NORMAL; none when the table is full. -/
def Work.ksInsert (w : Work) (table : Nat) (key : List Nat) (result : Nat) : Option (Nat × Nat) × Work :=
  match w.ksRoomiest (w.ksBanks table 0) with
  | none => (none, w)
  | some b =>
    let r := w.ksWrite b key (w.get Reg.KEY_NORMAL) result
    (some (b, r.1), r.2)

/-- Invalidate an entry. -/
def Work.ksErase (w : Work) (bank idx : Nat) : Work := w.setKsBank bank (eraseN idx)

/-- Remove the entry of the connection table that a connection's context names (R138). -/
def Work.ksEraseConn (w : Work) (id : Nat) : Work :=
  match (lookupN id w.n.tp.conns).bind (·.ksAt) with
  | some (b, i) =>
    let w := w.ksErase b i
    { w with n.tp.conns := modifyN id (fun c => { c with ksAt := none }) w.n.tp.conns }
  | none => w

/-- A hot context gets its entry of the connection table, in place of the one it named (R138, R276). -/
def Work.ksInsertConn (w : Work) (id slot : Nat) : Work :=
  let e := (w.ksEraseConn id).ksInsert tblConn [id] slot
  { e.2 with n.tp.conns := modifyN id (fun c => { c with ksAt := e.1 }) e.2.n.tp.conns }

/-! ## Commands -/

/-- Every VALID entry of a bank is parity-checked (R138): one that fails is written again from its record, or removed when no record
names it. -/
def Work.scanBank (w : Work) (b : Nat) : Work :=
  ((w.ksBank b).entries.filter fun e => e.2.valid && !e.2.parityOk).foldl (fun w e => (w.ksParity b).ksRewrite b e.1) w

/-- A bit of a bank's units flips: a soft error of the entry that holds the unit. -/
def Work.upset (w : Work) (e : Nat × Nat × Nat) : Work :=
  let u := w.ksUnits e.1
  w.setKsBank e.1 (modifyN (e.2.1 / u * u) fun x => x.flip (e.2.1 % u) e.2.2)

/-- The banks are scanned while SCAN_EN is set (R138). -/
def Work.scanKeys (w : Work) : Work := if w.flag Reg.KEY_SCAN_EN then (List.range 66).foldl Work.scanBank w else w

/-- Soft errors strike: which ones is a free value (log 131). -/
def Work.keyUpsets (w : Work) : Work :=
  (Config.keyUpsets w.n.fresh).foldl Work.upset { w with n.fresh := w.n.fresh + 1 }

/-- `PARITY_SCAN` (R138): a scan. The table has no command for a soft error, so those that strike before the next scan come with this one
(DESIGN CHOICE, log 131). -/
def execParityScan (s : State) : Host.Outcome State Fault Refusal :=
  run s fun w => w.scanKeys.keyUpsets

/-- `KEYSTONE_BANK_REBUILT` (R48): the entries of a retired bank stand on the spare, and REBUILDING clears. -/
def execKeystoneBankRebuilt (bank : Nat) (s : State) : Host.Outcome State Fault Refusal :=
  run s fun w => if w.flag Reg.KEY_REBUILDING 0 bank then w.set Reg.KEY_REBUILDING 0 0 bank else w

end Sys2Proof.Machine
end

