-- ==== Sys2Proof/Machine/Prefix.lean ====
section
/-!
DEFINITION. Sys2Proof/Machine/Prefix.lean: blocks, tree records and the prefix operations (R123 to R125, R134 to R136, R139 to
R155). Commands MATCH, PUBLISH, RETRACT, PIN, UNPIN, PREFIX_OP_START, PREFIX_OP_COMPLETE.
-/

namespace Sys2Proof.Machine

open Sys2Proof.Crypto (sha3)

/-! ## Blocks -/

/-- The block ID of a block (R124). -/
def blockIdOf (parent : Nat) (tokens : List Nat) : Nat :=
  let d := sha3 (leBytes 8 parent ++ (tokens.map (leBytes 4)).flatten)
  let v := leVal (d.take 8)
  if v = 0 then 1 else v

/-- The page of a layer that begins at a position: its course and index. -/
def Work.pageAtPos (w : Work) (l : Layer) (pos : Nat) : Option (Nat × Nat) :=
  l.runs.findSome? fun r => match w.course r.course with
    | some c => ((List.range r.count).map (r.first + ·)).findSome? fun i =>
        match c.pages[i]? with
        | some p => if p.firstPos = pos ∧ 0 < p.counted then some (r.course, i) else none
        | none => none
    | none => none

/-- Change a tree record. -/
def Work.modTree (w : Work) (i : Nat) (f : TreeRec → TreeRec) : Work := { w with n.ks.tree := modifyN i f w.n.ks.tree }

/-! ## Verification (R134, R135) -/

/-- One block of a request: its ID, parent ID, tokens and position. -/
structure BlockReq where
  id : Nat
  parent : Nat
  tokens : List Nat
  pos : Nat
  deriving DecidableEq, Repr

/-- The full keys agree (R125). -/
def TreeRec.isBlock (r : TreeRec) (b : BlockReq) (fmt layers : Nat) : Bool :=
  r.blockId = b.id && r.parentId = b.parent && r.tokens = b.tokens && r.firstPos = b.pos && r.fmt = fmt && r.layers = layers

/-- Bytes that the running operation reads of records or writes of headers (R144). -/
def Work.prefixMoves (w : Work) (bytes : Nat) : Work := { w with n.ks.moved := w.n.ks.moved + bytes }

/-- Verify one block: up to `fuel` searches, the ceiling and whether a soft-error hit was seen (R135). -/
def Work.verifyFrom (w : Work) (part fmt layers : Nat) (b : BlockReq) : Nat → Option Nat → Bool → Option Nat × Work
  | 0, _, _ => (none, w)
  | fuel + 1, ceiling, soft =>
    let w := w.count Reg.KEY_SEARCHES
    match w.ksSearch tblPrefix part (prefixKey b.id b.parent b.tokens) ceiling with
    | none => (none, w)
    | some h =>
      let agrees := match w.treeRec h.result with
        | some r => r.blockId = b.id
        | none => false
      let w := w.prefixMoves 128
      if !h.parityOk ∨ !agrees then
        let w := if h.parityOk then w.count Reg.KEY_FALSE_SOFT else w.ksParity h.bank
        let w := w.ksSoft h.bank h.idx
        if soft then (none, w) else w.verifyFrom part fmt layers b fuel ceiling true
      else match w.treeRec h.result with
        | some r =>
          if r.isBlock b fmt layers ∧ !r.dying then (some h.result, w.count Reg.KEY_HITS)
          else
            let w := (w.count Reg.KEY_FALSE_COLLIDE).log
              { code := 0x4402, page := 0x27, arg := b.id / 2 ^ 32, detail := b.id % 2 ^ 32, part := some part }
            w.verifyFrom part fmt layers b fuel (some h.prio) soft
        | none => (none, w)

/-- Verify one block in a partition's prefix banks. -/
def Work.verifyBlock (w : Work) (part fmt layers : Nat) (b : BlockReq) : Option Nat × Work :=
  w.verifyFrom part fmt layers b 5 none false

/-! ## Requests (R142) -/

/-- Field widths of the prefix descriptor, and of one block entry. -/
def prefixFields : List Nat := [1, 1, 1, 1, 4, 8, 4, 4, 4, 4, 8]
def blockFields : List Nat := 8 :: List.replicate 16 4

/-- The code of an operation. -/
def PfxKind.op : PfxKind → Nat
  | .match_ => 0x10 | .publish => 0x11 | .retract => 0x12 | .pin => 0x13 | .unpin => 0x14

/-- MATCH and PUBLISH name a session. -/
def PfxKind.named : PfxKind → Bool
  | .match_ | .publish => true
  | _ => false

/-- The block entries of a payload. -/
def prefixEntries (src : Src) (b : Bytes) (count : Nat) : List (Nat × List Nat) :=
  (List.range count).map fun i =>
    let e := srcBytes src blockFields (sliceAt b (64 + 72 * i) 72)
    (fieldAt e 0 8, (List.range 16).map fun t => fieldAt e (8 + 4 * t) 4)

/-- The blocks an operation names, in order (R142). -/
def PfxOp.blocks (o : PfxOp) : List BlockReq :=
  o.entries.mapIdx fun i e =>
    { id := e.1, parent := if i = 0 then o.parentId else ((o.entries[i - 1]?).map (·.1)).getD 0, tokens := e.2, pos := o.firstPos + 16 * i }

/-- R145: the checks of the request itself. PFLAGS bit 0 is a reserved bit of an operation other than MATCH (DESIGN CHOICE, log 131: R142
names JUMP without saying so). -/
def prefixFormOk (kind : PfxKind) (m : Bytes) (len : Nat) (s : Option Session) : Bool :=
  let count := fieldAt m 0x14 4
  decide (fieldAt m 0x10 4 % 16 = 0) && decide (1 ≤ count ∧ count ≤ 4096) && decide (len = 64 + 72 * count) &&
  decide (fieldAt m 3 1 = 0) && zeroAt m 0x28 24 &&
  (if kind = .match_ then decide (fieldAt m 0x1C 4 < 2) else decide (fieldAt m 0x1C 4 = 0)) &&
  (match s with
   | some s => decide (fieldAt m 1 1 = s.fmt ∧ fieldAt m 2 1 = s.layers.length)
   | none => decide (fieldAt m 4 4 = 0 ∧ fieldAt m 8 8 = 0))

/-- The session of a request that must be served (R100, R105, R394). -/
def Work.serveSession (w : Work) (part handle : Nat) (cid : Option Nat) : Except Nat (Nat × Session) := do
  let (i, s) ← w.findSession part handle cid
  match s.state.refusal with
  | some st => throw st
  | none => match w.ownCheck s with
    | some st => throw st
    | none => pure (i, s)

/-- A partition that cannot share a prefix, or a node that does not (R130, R154). -/
def Work.noSharing (w : Work) (kind : PfxKind) (part : Nat) : Bool :=
  w.nodeState = 1 || (kind.named && (!w.actFlag Reg.KEY_PFX_EN || (w.ksBanks tblPrefix part).isEmpty))

/-- A session has rows in staging (R146). -/
def Work.stagedAny (w : Work) (i : Nat) : Bool := w.n.pg.staged.any fun g => g.session = i

/-- A session has a row in staging for a page of a block (R149). -/
def Work.stagedAt (w : Work) (i pos : Nat) : Bool :=
  w.n.pg.staged.any fun g => g.session = i && decide (g.firstPos < pos + 16 ∧ pos < g.firstPos + g.count)

/-- Pages of a block in every layer, all of whose 16 rows are counted (R149). -/
def Work.blockPages (w : Work) (s : Session) (pos : Nat) : Option (List (Nat × Nat)) :=
  s.layers.mapM fun l => match w.pageAtPos l pos with
    | some (ci, pi) => match (w.course ci).bind fun c => c.pages[pi]? with
      | some p => if p.counted = 16 ∧ !p.lost then some (ci, pi) else none
      | none => none
    | none => none

/-- The checks made when an operation starts (R130, R146, R149): a status that ends it at once, or none. -/
def Work.prefixStartCheck (w : Work) (o : PfxOp) : Option Nat :=
  if w.noSharing o.kind o.part then some stOK
  else match o.kind with
    | .match_ => match w.session o.session with
      | none => some stNoSession
      | some s =>
        let es := s.layers.mapIdx fun li l => w.nextPos o.session li l
        let e := es.headD 0
        if !(es.all (· = e)) then some stInternal
        else if (!o.jump ∧ o.firstPos ≠ e) ∨ (o.jump ∧ o.firstPos < e) then some stInternal
        else if w.stagedAny o.session then some stExhausted
        else none
    | .publish => match w.session o.session with
      | none => some stNoSession
      | some s =>
        if o.blocks.any fun b => w.stagedAt o.session b.pos || (w.blockPages s b.pos).isNone then some stInternal else none
    | _ => none

/-- Show how many operations wait. -/
def Work.showWaiting (w : Work) : Work := w.set Reg.KEY_PFX_WAITING w.n.ks.waiting.length

/-- The status with which an operation ends because its session was closed, lost or struck meanwhile (R155); none while the
session is Open under the handle the request gave. -/
def Work.prefixGone (w : Work) (o : PfxOp) : Option Nat :=
  if !o.kind.named then none
  else match w.session o.session with
    | none => some stNoSession
    | some s => if handleOf o.session s.gen = o.handle then s.state.refusal else some stNoSession

/-- Blocks of an operation in the tree, counted from the first (R143). -/
def Work.presentCount (w : Work) (o : PfxOp) : Nat :=
  (o.blocks.takeWhile fun b => w.n.ks.tree.any fun e =>
    e.2.part = o.part && e.2.isBlock b o.fmt o.layers && !e.2.dying && !e.2.lost).length

/-- Start an operation (R144): it runs, or ends at once when its checks end it. A RETRACT, PIN or UNPIN in Rehearsal counts the blocks
that are in the tree (R143, R154). A MATCH with JUMP that ends OK with 0 here (R130, R154) leaves the next position where it was (DESIGN
CHOICE, log 146: R147 speaks of a MATCH that runs). -/
def Work.startPrefix (w : Work) (o : PfxOp) : Work :=
  let w := w.settle opFields
  match (w.prefixGone o).orElse fun _ => w.prefixStartCheck o with
  | some st => w.complete o.src o.tag st (if st = stOK ∧ !o.kind.named then w.presentCount o else 0) 0
  | none => { w with n.ks.running := some o, n.ks.moved := 0, n.ks.paid := 0 }

/-- A prefix request arrives (R142 to R145): refused at once, started, or put behind those that wait. -/
def Work.takePrefix (w : Work) (kind : PfxKind) (src : Src) (part : Nat) (b : Bytes) : Work :=
  let m := srcBytes src prefixFields b
  if fieldAt m 0 1 ≠ kind.op then w
  else
    let tag := fieldAt m 0x18 4
    let end_ := fun st => w.complete src tag st 0 0
    if w.isDark then end_ stFenced
    else if !w.live part then end_ stStruck
    else
      let named : Except Nat (Option (Nat × Session)) :=
        if kind.named then (w.serveSession part (fieldAt m 4 4) (some (fieldAt m 8 8))).map some else .ok none
      match named with
      | .error st => end_ st
      | .ok s =>
        if !prefixFormOk kind m b.length (s.map (·.2)) then end_ stInternal
        else if 256 ≤ w.n.ks.waiting.length then end_ stOverBudget
        else
          let o : PfxOp :=
            { kind := kind, src := src, part := part, session := (s.map (·.1)).getD 0, handle := fieldAt m 4 4
              fmt := fieldAt m 1 1, layers := fieldAt m 2 1, firstPos := fieldAt m 0x10 4, jump := bitOf (fieldAt m 0x1C 4) 0
              parentId := fieldAt m 0x20 8, tag := tag, entries := prefixEntries src b (fieldAt m 0x14 4), arrival := w.arrivalTick src }
          let w := w.arrive src
          if w.n.ks.running.isNone ∧ w.n.ks.waiting.isEmpty then w.startPrefix o
          else ({ w with n.ks.waiting := w.n.ks.waiting ++ [o] }).showWaiting

/-- A prefix request of a source. -/
def Work.prefixRequest (w : Work) (kind : PfxKind) (src : Src) (b : Bytes) : Work :=
  match w.partOf src with
  | some part => w.srcActs src 3 b fun w => w.takePrefix kind src part b
  | none => w

/-! ## What the operations do -/

/-- Add a run of one page to a layer, joined to the last run where it continues it (R98, R147). -/
def addPage (runs : List Run) (ci pi : Nat) : List Run :=
  match runs.getLast? with
  | some r => if r.course = ci ∧ r.first + r.count = pi then runs.dropLast ++ [{ r with count := r.count + 1 }]
              else runs ++ [{ course := ci, first := pi, count := 1 }]
  | none => [{ course := ci, first := pi, count := 1 }]

/-- A session takes a reference on a course it did not name (R140). -/
def Work.addRef (w : Work) (ci : Nat) : Work := w.modCourse ci fun c => { c with refs := c.refs + 1 }

/-- The courses a session names, each once. -/
def Session.courses (s : Session) : List Nat := ((s.layers.map fun l => l.runs.map (·.course)).flatten).dedup

/-- Attach one matched block to a session (R147). -/
def Work.attachBlock (w : Work) (si ti : Nat) : Work :=
  match w.session si, w.treeRec ti with
  | some s, some r =>
    let pages := r.handles.map fun h => w.pageOfHandle r.part h.toNat
    let w := w.prefixMoves (4 * r.layers)
    let had := s.courses
    let layers := s.layers.mapIdx fun i l => match (pages[i]?).bind id with
      | some (ci, pi) => { l with runs := addPage l.runs ci pi, rows := l.rows + 16 }
      | none => l
    let s := { s with layers := layers }
    let w := w.setSession si s
    let w := (s.courses.filter fun c => !(had.contains c)).foldl Work.addRef w
    w.modTree ti fun r => { r with matches_ := min (r.matches_ + 1) (2 ^ 32 - 1), lastMatch := BitVec.ofNat 32 w.now32 }
  | _, _ => w

/-- Verify the blocks of an operation in order, as far as they verify. -/
def Work.verifyRun (w : Work) (o : PfxOp) : List BlockReq → List Nat × Work
  | [] => ([], w)
  | b :: bs =>
    let r := w.verifyBlock o.part o.fmt o.layers b
    match r.1 with
    | none => ([], r.2)
    | some i =>
      let rest := r.2.verifyRun o bs
      (i :: rest.1, rest.2)

/-- MATCH (R146, R147). -/
def Work.doMatch (w : Work) (o : PfxOp) : Work :=
  let r := w.verifyRun o o.blocks
  let n := r.1.length
  let old := (w.session o.session).elim [] fun s => s.layers.map (·.runs)
  let w := r.1.foldl (fun w t => w.attachBlock o.session t) r.2
  let w := w.modSession o.session fun s => { s with layers := s.layers.map fun l => { l with jumpTo := some (o.firstPos + 16 * n) } }
  -- queries that arrived earlier keep the rows they had (R147)
  let hold := fun e : Nat × Query => if e.2.session = o.session && !e.2.desc.noLocal then (e.1, { e.2 with fixedVis := true }) else e
  let w := { w with n.qa.next := { w.n.qa.next with queries := w.n.qa.next.queries.map hold } }
  let w := w.count Reg.KEY_MATCHED n
  let w := match w.session o.session with
    | some s => s.layers.zipIdx.foldl (fun (w : Work) (e : Layer × Nat) => w.noteRuns s.part e.2 (atD old e.2 []) e.1.runs s.cid) w
    | none => w
  w.complete o.src o.tag stOK n 0

/-- Remove an indexed block from the tree (R152 steps 1 to 5). -/
def Work.retractRec (w : Work) (ti : Nat) : Work :=
  match w.treeRec ti with
  | none => w
  | some r =>
    let w := (w.modTree ti fun r => { r with dying := true }).noteTree ti 2
    let w := if r.lost then w else w.ksErase r.bank r.idx
    let w := match r.parentRec with
      | some p => w.modTree p fun x => { x with children := x.children - 1 }
      | none => w
    let courses := (r.handles.filterMap fun h => (w.pageOfHandle r.part h.toNat).map (·.1)).dedup
    let w := courses.foldl Work.dropRef w
    { w with n.ks.tree := eraseN ti w.n.ks.tree }

/-- The idle leaf of a partition with the oldest LAST_MATCH (R150), of equal ones the one with the lowest record index (DESIGN CHOICE,
log 131). -/
def Work.idleLeaf (w : Work) (part : Nat) : Option Nat :=
  let idle := w.n.ks.tree.filter fun e => e.2.part = part && !e.2.pinned && e.2.children = 0 && !e.2.dying &&
    w.acting Reg.KEY_IDLE < w.age e.2.lastMatch
  let top := (idle.map fun e => w.age e.2.lastMatch).foldl max 0
  (idle.find? fun e => w.age e.2.lastMatch = top).map (·.1)

/-- The priority a new prefix entry takes (R136); none when the key may not be indexed. Where a partition has prefix banks of several
widths, the rule of each width is held to all of them, and the chain's priority is taken whatever bank the entry goes to; below priority 0
there is none, and the entry takes 0 (DESIGN CHOICE, log 146). -/
def Work.prefixPrio (w : Work) (part : Nat) (key : List Nat) : Option Nat :=
  let banks := w.ksBanks tblPrefix part
  let wide := banks.filter fun b => 1 < w.ksUnits b
  let present := fun b => (w.ksBank b).entries.filter fun e => e.2.key = key.take (w.ksUnits b)
  if wide.any fun b => !(present b).isEmpty then none
  else
    let same := (((banks.filter fun b => w.ksUnits b = 1).map present).flatten).map (·.2.prio)
    if same.isEmpty then some (w.acting Reg.KEY_NORMAL)
    else if w.acting Reg.KEY_CHAIN_MAX ≤ same.length then none
    else some (same.foldl min (same.headD 0) - 1)

/-- A place for a new prefix entry, after reclaiming one idle leaf if need be (R149, R150). -/
def Work.prefixRoom (w : Work) (part : Nat) : Option Nat × Work :=
  match w.ksRoomiest (w.ksBanks tblPrefix part) with
  | some b => (some b, w)
  | none =>
    if !w.actFlag Reg.KEY_RECLAIM_EN then (none, w)
    else match w.idleLeaf part with
      | some t =>
        let w := (w.retractRec t).count Reg.KEY_RECLAIMED
        (w.ksRoomiest (w.ksBanks tblPrefix part), w)
      | none => (none, w)

/-- The parent's record of a block: among the records that meet the four conditions, the one whose entry wins the search
(R149). -/
def Work.parentOf (w : Work) (o : PfxOp) (b : BlockReq) : Option Nat :=
  let fit := w.n.ks.tree.filter fun e => e.2.part = o.part && e.2.blockId = b.parent && e.2.firstPos + 16 = b.pos &&
    e.2.fmt = o.fmt && e.2.layers = o.layers && !e.2.dying && !e.2.lost
  let prio := fun e : Nat × TreeRec => match lookupN e.2.idx (w.ksBank e.2.bank).entries with
    | some k => k.prio
    | none => 0
  let better := fun (a b : Nat × TreeRec) => prio b < prio a || (prio b = prio a &&
    (a.2.bank < b.2.bank || (a.2.bank = b.2.bank && a.2.idx < b.2.idx)))
  (fit.foldl (fun (best : Option (Nat × TreeRec)) e => match best with
    | some x => if better e x then some e else best
    | none => some e) none).map (·.1)

/-- Index one block of a session (R149): none when it cannot be indexed. -/
def Work.indexBlock (w : Work) (o : PfxOp) (b : BlockReq) : Bool × Work :=
  let fail := fun w : Work => (false, (w.count Reg.KEY_NOT_INDEXED).log
    { code := 0x4403, page := 0x27, part := some o.part, arg := b.id, detail := o.part })
  match (w.session o.session).bind fun s => w.blockPages s b.pos with
  | none => fail w
  | some pages =>
    let key := prefixKey b.id b.parent b.tokens
    match w.prefixPrio o.part key with
    | none => fail w
    | some _ =>
      let room := w.prefixRoom o.part
      let w := room.2
      match room.1, w.prefixPrio o.part key with
      | some bank, some prio =>
        let t := freshKey 0 w.n.ks.tree
        let e := w.ksWrite bank key prio t
        let w := e.2
        let parent := w.parentOf o b
        let handles := pages.map fun q => match w.course q.1 with
          | some c => BitVec.ofNat 32 (c.base + q.2)
          | none => 0
        let r : TreeRec :=
          { blockId := b.id, parentId := b.parent, tokens := b.tokens, firstPos := b.pos, fmt := o.fmt, layers := o.layers
            part := o.part, pinned := false, dying := false, lost := false, children := 0, matches_ := 0
            lastMatch := BitVec.ofNat 32 w.now32, bank := bank, idx := e.1, parentRec := parent, handles := handles }
        let w := { w with n.ks.tree := insertN t r w.n.ks.tree }
        let w := match parent with
          | some p => w.modTree p fun x => { x with children := x.children + 1 }
          | none => w
        let w := ((pages.map (·.1)).dedup).foldl Work.addRef w
        let w := (w.prefixMoves (64 * pages.length))
        let w := pages.foldl (fun w q =>
          (w.modPage q.1 q.2 fun p => { p with flags := p.flags ||| 1, blockId := BitVec.ofNat 64 b.id }).writeHeader q.1 q.2) w
        let w := pages.foldl (fun w q => match (w.course q.1).bind fun c => c.pages[q.2]? with
          | some p => w.metaChange o.part (pageRec q.1 q.2 p)
          | none => w) w
        (true, (w.noteTree t 1).count Reg.KEY_PUBLISHED)
      | _, _ => fail w

/-- PUBLISH the blocks from the first on (R149); answers how many were newly indexed. -/
def Work.publishFrom (w : Work) (o : PfxOp) : List BlockReq → Nat × Work
  | [] => (0, w)
  | b :: bs =>
    if blockIdOf b.parent b.tokens ≠ b.id then (0, w)
    else
      let r := w.verifyBlock o.part o.fmt o.layers b
      match r.1 with
      | some _ => r.2.publishFrom o bs
      | none =>
        let x := r.2.indexBlock o b
        if x.1 then
          let rest := x.2.publishFrom o bs
          (rest.1 + 1, rest.2)
        else (0, x.2)

/-- RETRACT, PIN and UNPIN from the first entry on (R152). -/
def Work.eachBlock (w : Work) (o : PfxOp) : List BlockReq → Work
  | [] => w
  | b :: bs =>
    let r := w.verifyBlock o.part o.fmt o.layers b
    match r.1 with
    | none => r.2
    | some t =>
      let w := r.2
      match o.kind with
      | .retract =>
        if ((w.treeRec t).map (·.children)).getD 0 ≠ 0 then w else (w.retractRec t).eachBlock o bs
      | .pin => ((w.modTree t fun r => { r with pinned := true }).noteTree t 3).eachBlock o bs
      | _ => ((w.modTree t fun r => { r with pinned := false }).noteTree t 4).eachBlock o bs

/-- Carry out an operation and complete it (R143, R147, R149, R152, R155). -/
def Work.finishPrefix (w : Work) (o : PfxOp) : Work :=
  match w.prefixGone o with
  | some st => w.complete o.src o.tag st 0 0
  | none => match o.kind with
    | .match_ => w.doMatch o
    | .publish =>
      let r := w.publishFrom o o.blocks
      r.2.complete o.src o.tag stOK (r.2.presentCount o % 2 ^ 16 + r.1 % 2 ^ 16 * 2 ^ 16) 0
    | _ =>
      let w := w.eachBlock o o.blocks
      w.complete o.src o.tag stOK (w.presentCount o) 0

/-! ## Commands -/

/-- `MATCH` (R142 to R148). -/
def execMatchPrefix (src : Src) (payload : Bytes) (s : State) : Host.Outcome State Fault Refusal :=
  run s fun w => w.prefixRequest .match_ src payload

/-- `PUBLISH` (R149). -/
def execPublishBlocks (src : Src) (payload : Bytes) (s : State) : Host.Outcome State Fault Refusal :=
  run s fun w => w.prefixRequest .publish src payload

/-- `RETRACT` (R152). -/
def execRetractBlocks (src : Src) (payload : Bytes) (s : State) : Host.Outcome State Fault Refusal :=
  run s fun w => w.prefixRequest .retract src payload

/-- `PIN` (R152). -/
def execPinBlocks (src : Src) (payload : Bytes) (s : State) : Host.Outcome State Fault Refusal :=
  run s fun w => w.prefixRequest .pin src payload

/-- `UNPIN` (R152). -/
def execUnpinBlocks (src : Src) (payload : Bytes) (s : State) : Host.Outcome State Fault Refusal :=
  run s fun w => w.prefixRequest .unpin src payload

/-- `PREFIX_OP_START` (R144): the next waiting operation starts once none runs. -/
def execPrefixOpStart (s : State) : Host.Outcome State Fault Refusal :=
  run s fun w =>
    match w.n.ks.running, w.n.ks.waiting with
    | none, o :: rest => (({ w with n.ks.waiting := rest }).showWaiting).startPrefix o
    | _, _ => w

/-- The work of the running operation done, before its bytes are charged. -/
def Work.prefixDone (w : Work) (o : PfxOp) : Work := ({ w with n.ks.running := none, n.ks.moved := 0 }).finishPrefix o

/-- Room for the bytes of the running operation (R144): the lendable shares left unused in this tick, and then the session pool. -/
def Work.prefixShares (w : Work) (need : Nat) : Nat × Nat :=
  let b := w.n.qa.budget
  let lend := min need w.n.ks.lendable
  (lend, min (need - lend) (w.poolBase + b.poolExtra - b.poolUsed))

/-- Charge bytes of prefix work to the two shares. -/
def Work.prefixCharge (w : Work) (x : Nat × Nat) : Work :=
  let b := w.n.qa.budget
  let w := { w with n.ks.lendable := w.n.ks.lendable - x.1, n.qa.budget := { b with poolUsed := b.poolUsed + x.2 } }
  if x.2 = 0 then w else w.showPool

/-- Bytes of the running operation that are still to be charged once it is done. -/
def Work.prefixNeed (w : Work) (o : PfxOp) : Nat := (w.prefixDone o).n.ks.moved - w.n.ks.paid

/-- `PREFIX_OP_COMPLETE` (R143, R144, R147, R149, R152): the running operation finishes its work and completes, or goes on in a later
tick when the shares of this one have no room for its reads and writes. -/
def execPrefixOpComplete (s : State) : Host.Outcome State Fault Refusal :=
  run s fun w =>
    match w.n.ks.running with
    | some o =>
      let need := w.prefixNeed o
      let x := w.prefixShares need
      if x.1 + x.2 < need then { w.prefixCharge x with n.ks.paid := w.n.ks.paid + x.1 + x.2 }
      else ((w.prefixDone o).prefixCharge x).settle opFields
    | none => w

end Sys2Proof.Machine
end

