-- ==== Sys2Proof/Machine/Home.lean ====
section
/-!
DEFINITION. Sys2Proof/Machine/Home.lean: ownership records (R390 to R393): where a slice's record lies, its 32 bytes, and the
record operation that probes a bucket and changes one entry by CAS. What an outcome does to a session stands in
Ownership.lean.
-/

namespace Sys2Proof.Machine

open Sys2Proof.Crypto (sha3 crc32c ascii)

/-- Where the record of a slice lies: the home's node, the remote key of its table, the bucket (R390). -/
structure HomeAt where
  node : Nat
  key : Nat
  bucket : Nat
  deriving DecidableEq, Repr

/-- R390; none while the home set is empty. -/
def Work.homeOf (w : Work) (part : Nat) (cid : DWord) (origin : Nat) : Option HomeAt :=
  let n := w.get Reg.MIR_HOME_COUNT
  if n = 0 then none
  else
    let d := sha3 (ascii "KZ8640 home" ++ leBytes 1 part ++ leBytes 8 cid.toNat)
    let i := leVal (d.take 8) % n
    let i := if w.get Reg.MIR_HOME_NODE 0 i = origin then (i + 1) % n else i
    some { node := w.get Reg.MIR_HOME_NODE 0 i, key := w.get Reg.MIR_HOME_KEY 0 i,
           bucket := (leVal (sliceAt d 8 8) + origin) % 2 ^ w.get Reg.MIR_HOME_LOG2 }

/-- An ownership record (R391). -/
structure OwnRec where
  cid : Nat
  origin : Nat
  owner : Nat
  understudy : Nat
  part : Nat
  state : Nat
  epoch : Nat
  tick : Nat
  lastOwner : Nat
  deriving DecidableEq, Repr

/-- Its 32 bytes, CHECK computed. -/
def OwnRec.bytes (r : OwnRec) : Bytes :=
  let b := leBytes 8 r.cid ++ leBytes 2 r.origin ++ leBytes 2 r.owner ++ leBytes 2 r.understudy ++ leBytes 1 r.part ++
    leBytes 1 r.state ++ leBytes 4 r.epoch ++ leBytes 4 r.tick ++ leBytes 2 r.lastOwner ++ [0, 0]
  b ++ leBytes 4 (crc32c b).toNat

/-- Read a record. -/
def OwnRec.read (b : Bytes) : OwnRec where
  cid := fieldAt b 0 8
  origin := fieldAt b 8 2
  owner := fieldAt b 0xA 2
  understudy := fieldAt b 0xC 2
  part := fieldAt b 0xE 1 % 64
  state := fieldAt b 0xF 1
  epoch := fieldAt b 0x10 4
  tick := fieldAt b 0x14 4
  lastOwner := fieldAt b 0x18 2

/-- An entry is Empty. -/
def emptyEntry (b : Bytes) : Bool := b.all (· = 0)

/-- An entry's CHECK agrees. -/
def entryOk (b : Bytes) : Bool := emptyEntry b || decide (fieldAt b 0x1C 4 = (crc32c (b.take 0x1C)).toNat)

/-- The run of a record operation of a session. -/
def Work.homeRun (w : Work) (si : Nat) : Option HomeRun := w.n.mi.homeOps.find? fun h => h.session = si

/-- Replace a run. -/
def Work.setHomeRun (w : Work) (r : HomeRun) : Work :=
  { w with n.mi.homeOps := w.n.mi.homeOps.map fun h => if h.session = r.session then r else h }

/-- End a run. -/
def Work.endHomeRun (w : Work) (si : Nat) : Work :=
  { w with n.mi.homeOps := w.n.mi.homeOps.filter fun h => h.session != si }

/-- A probe's COMPARE: STATE 0xFF, which no record holds (R393). -/
def probeCompare : Bytes := leBytes 15 0 ++ [0xFF] ++ leBytes 16 0

/-- The CAS a run makes next: entry of the bucket, COMPARE and SWAP. -/
def HomeRun.nextCas (r : HomeRun) (swap : Bytes) : Nat × Bytes × Bytes :=
  match r.casAt with
  | some (e, cmp) => (e, cmp, swap)
  | none => (r.found.length, probeCompare, leBytes 32 0)

/-- The entry of a bucket that an operation acts on: its own record, else the first Empty one (R393). -/
def HomeRun.entry (r : HomeRun) : Option Nat :=
  match r.found.findIdx? fun b => !emptyEntry b && (let o := OwnRec.read b
      decide (o.cid = r.cid.toNat) && decide (o.part = r.part) && decide (o.origin = r.origin)) with
  | some i => some i
  | none => r.found.findIdx? emptyEntry

/-- The record that an operation would write over the one found (R392, R393, R400, R401, R407); none when it expects another.
`mine` is the session's OWN_EPOCH, `under` the node to name as UNDERSTUDY. -/
def Work.homeChange (w : Work) (r : HomeRun) (found : Bytes) (mine under : Nat) : Option Bytes :=
  let me := w.nodeId
  let o := OwnRec.read found
  let owned := !emptyEntry found && decide (o.state = 1)
  let next := fun x : OwnRec => some ({ x with epoch := o.epoch + 1, tick := w.now32 }).bytes
  match r.op with
  | .claim | .reconcile =>
    if emptyEntry found then
      some ({ cid := r.cid.toNat, origin := r.origin, owner := me, understudy := 0xFFFF, part := r.part, state := 1
              epoch := mine + 1, tick := w.now32, lastOwner := 0xFFFF : OwnRec }).bytes
    else none
  | .release => if owned ∧ o.owner = me ∧ o.epoch = mine then some (leBytes 32 0) else none
  | .setUnderstudy => if owned ∧ o.owner = me ∧ o.epoch = mine then next { o with understudy := under } else none
  | .takeover x => if owned ∧ o.owner = x then next { o with owner := me, understudy := under, lastOwner := o.owner } else none
  | .declareLost x => if owned ∧ o.owner = x then next { o with state := 2, lastOwner := o.owner } else none

/-- Runs of slices that are being taken over, or declared Lost, and runs that release a record, have keys above every session's index. -/
abbrev takingKey : Nat := 2 ^ 18
abbrev releaseKey : Nat := 2 ^ 20

/-- OWN_EPOCH that a run expects in the record it changes, given the record found, and the node it names as UNDERSTUDY. -/
def Work.runEpoch (w : Work) (r : HomeRun) (found : Bytes) : Nat :=
  if releaseKey ≤ r.session then r.epoch
  else if takingKey ≤ r.session then (OwnRec.read found).epoch
  else ((w.session r.session).map (·.ownEpoch)).getD 0
def Work.runUnder (w : Work) (r : HomeRun) : Nat := match r.op with
  | .setUnderstudy => w.get Reg.MIR_UNDERSTUDY
  | _ => 0xFFFF

/-- What a run would write over the record found; none when it expects another. -/
def Work.runChange (w : Work) (r : HomeRun) (found : Bytes) : Option Bytes := w.homeChange r found (w.runEpoch r found) (w.runUnder r)

/-- The SWAP of the CAS that a run makes next (R393). -/
def Work.runSwap (w : Work) (r : HomeRun) : Bytes := match r.casAt with
  | some (_, cmp) => (w.runChange r cmp).getD (leBytes 32 0)
  | none => leBytes 32 0

/-- Send the next CAS of a run on the service connection to its home (R375, R393); a run whose home has no service connection,
or is this node itself, waits for the tick boundary (log 25). -/
def Work.sendHome (w : Work) (si : Nat) : Work :=
  match w.homeRun si with
  | none => w
  | some r =>
    match w.homeOf r.part r.cid r.origin with
    | none => w
    | some h =>
      if h.node = w.nodeId then w
      else match w.serviceConn h.node with
        | none => w
        | some c =>
          let (e, cmp, swp) := r.nextCas (w.runSwap r)
          let target := h.key % 2 ^ 24 * 2 ^ 40 + h.key / 2 ^ 24 * 2 ^ 32 + (h.bucket * 4 + e) * 32
          (w.sendMsg c 0xA target (cmp ++ swp) (.homeCas si)).2

/-- Begin a record operation for a slice: a first probe is sent. -/
def Work.startHome (w : Work) (op : HomeOp) (si part : Nat) (cid : DWord) (origin : Nat) : Work :=
  let r : HomeRun := { op := op, session := si, part := part, cid := cid, origin := origin, attempt := 1, found := []
                       casAt := none, started := w.now, startedPs := w.ps }
  let w := { w with n.mi.homeOps := (w.n.mi.homeOps.filter fun h : HomeRun => h.session != si) ++ [r] }
  w.sendHome si

/-- Begin to release the record of a session that closes (R392): the run does not depend on the session's record, which may be freed first. -/
def Work.startRelease (w : Work) (part : Nat) (cid : DWord) (origin epoch : Nat) : Work :=
  let keys := w.n.mi.homeOps.map (·.session)
  let si := keys.foldl (fun m k => max m (k + 1)) releaseKey
  let r : HomeRun := { op := .release, session := si, part := part, cid := cid, origin := origin, attempt := 1, found := []
                       casAt := none, started := w.now, startedPs := w.ps, epoch := epoch }
  ({ w with n.mi.homeOps := w.n.mi.homeOps ++ [r] } : Work).sendHome si

end Sys2Proof.Machine
end

