-- ==== Sys2Proof/Machine/Sessions.lean ====
section
/-!
DEFINITION. Sys2Proof/Machine/Sessions.lean: sessions (R95, R99 to R105, R117 to R120): opening, forking and closing. Commands
PGM_FMT_VALID, OPEN, FORK, FORK_COPIES_LANDED, CLOSE, SESSION_CLOSE_COMPLETE.
-/

namespace Sys2Proof.Machine

/-! ## Formats -/

/-- `PGM_FMT_VALID` (R88, R164): a write of PGM_FMT_A; it takes effect whole, or is ignored and captured. -/
def execPgmFmtValid (wr : RegWr) (s : State) : Host.Outcome State Fault Refusal :=
  run s fun w => w.regAction wr .PGM [0x114] fun w _ _ => w

/-- A format may be used by a session of a partition (R90, R103): valid, its codebook loaded, its rows fitting the slot. -/
def Work.formatOk (w : Work) (part fmt : Nat) : Bool :=
  let f := w.rowFmt fmt
  decide (fmt < 64) && w.flag Reg.PGM_VALID 0 fmt && w.flag Reg.CL_VALID 0 f.cb &&
    decide (f.rowBytes ≤ (w.slotBytes part - 64) / 16)

/-! ## Session records -/

/-- Sessions the node may hold (R103, R459). -/
def Work.sessionCap (w : Work) : Nat := if w.nodeState = 1 then 65536 else 262144

/-- No record is to be had: the node's or the partition's limit is reached (R103). -/
def Work.sessionsFull (w : Work) (part : Nat) : Bool :=
  w.sessionCap ≤ w.n.pg.sessions.length ||
    w.get Reg.PGM_SESS_MAX 0 part ≤ (w.n.pg.sessions.filter fun e => e.2.part = part).length

/-- A free session index: a free choice (log 4). -/
def Work.freeIndex (w : Work) : Nat × Work :=
  let c := Config.choose w.n.fresh
  let free := decide (c < 2 ^ 18) && (w.session c).isNone
  (if free then c else freshKey 0 w.n.pg.sessions, { w with n.fresh := if free then w.n.fresh + 1 else w.n.fresh })

/-- The generation a free index takes (R100): never one that would make the handle 0xFFFF_FFFF. -/
def Work.genOf (w : Work) (i : Nat) : Nat :=
  let g := numN i w.n.pg.gens % 2 ^ 14
  if handleOf i g = 0xFFFFFFFF then 0 else g

/-- An empty layer of a session. -/
def Layer.empty : Layer := { runs := [], aim := none, rows := 0, jumpTo := none, lastAppend := 0 }

/-- Make a session record and its Keystone entry (R101, R104, R517); none when the session table is full (R132). -/
def Work.makeSession (w : Work) (part fmt layers : Nat) (cid : Nat) (hint : Nat) (src : Src) (tag : Nat) : Option (Nat × Session) × Work :=
  let fi := w.freeIndex
  let i := fi.1
  let ks := fi.2.ksInsert tblSession (sessKey part cid) i
  match ks.1 with
  | none => (none, w)
  | some (bank, idx) =>
    let w := ks.2
    let s : Session :=
      { gen := w.genOf i, state := .open, part := part, fmt := fmt, layers := List.replicate layers Layer.empty
        cid := BitVec.ofNat 64 cid, parentCid := 0, forkPos := 0, openTick := BitVec.ofNat 32 w.now32, slots := 0
        ownEpoch := 0, origin := w.nodeId, hint := hint, ksBank := some bank, ksIdx := idx, own := .own, orphan := false
        lastQuery := none, interval := none, waiting := some (src, tag), waitTick := w.now }
    (some (i, s), w.setSession i s)

/-- Free a session record (R100, R105): its index's generation has advanced. -/
def Work.freeSession (w : Work) (i : Nat) : Work :=
  match w.session i with
  | none => w
  | some s =>
    let w := match s.ksBank with
      | some b => w.ksErase b s.ksIdx
      | none => w
    { w with n.pg.sessions := eraseN i w.n.pg.sessions, n.pg.chains := w.n.pg.chains.filter (·.1 / 128 != i), n.pg.gens := insertN i ((s.gen + 1) % 2 ^ 14) w.n.pg.gens }

/-- Pages of a layer in position order: course, page index and record. -/
def Work.layerPages (w : Work) (l : Layer) : List (Nat × Nat × Page) :=
  (l.runs.map fun r => match w.course r.course with
    | some c => ((List.range r.count).map (r.first + ·)).filterMap fun p => (c.pages[p]?).map fun q => (r.course, p, q)
    | none => []).flatten

/-- A session takes effect for its requester: the waiting OPEN or FORK completes with its handle. -/
def Work.sessionReady (w : Work) (i : Nat) : Work :=
  match w.session i with
  | none => w
  | some s =>
    let h := handleOf i s.gen
    -- a child that names a lost page which is not being restored goes from Open on to Lost (DESIGN CHOICE, log 129)
    let lost := decide (s.state = .forming) && s.layers.any fun l => (w.layerPages l).any fun q =>
      q.2.2.lost && !(w.n.mi.restores.any fun r => r.1 = q.1)
    let w := w.setSession i { s with state := if lost then .lost else if s.state = .forming then .open else s.state, waiting := none }
    let w := if s.state = .forming then w.count Reg.PGM_FORKS else w
    let w := w.metaChange s.part (sessionRec s (if lost then 3 else 1))
    let w := match w.streamOf s.part with
      | some (t : Stream) => if t.state = StreamState.off ∨ t.state = StreamState.unavailable then w else w.setStream { t with unseeded := (t.unseeded.filter (· != s.cid)) ++ [s.cid] }
      | none => w
    let w := s.layers.zipIdx.foldl (fun w (e : Layer × Nat) =>
      e.1.runs.foldl (fun w r => w.metaChange s.part (runRec e.2 r s.cid)) w) w
    let w := match s.waiting with
      | some (src, tag) => w.complete src tag stOK h 0 (some h)
      | none => w
    w.meter s.part 15 1

/-- Refuse a session request, counting PAGE_EXHAUSTED (PGM_EXHAUSTED). -/
def Work.refuseSession (w : Work) (src : Src) (tag status : Nat) : Work :=
  (if status = stExhausted then w.count Reg.PGM_EXHAUSTED else w).complete src tag status 0 0

/-- A request for session control: its descriptor in memory form, its partition, and the checks every one begins with. -/
def Work.sessionRequest (w : Work) (src : Src) (desc : Bytes) (op : Nat) (act : Work → Nat → Bytes → Nat → Work) : Work :=
  match w.partOf src with
  | none => w
  | some part =>
    let m := srcBytes src sessionFields desc
    if fieldAt m 0 1 ≠ op then w
    else w.srcActs src 3 desc fun w =>
      let tag := fieldAt m 0x18 4
      if w.isDark then w.refuseSession src tag stFenced
      else if !w.live part then w.refuseSession src tag stStruck
      else if desc.length ≠ 64 ∨ ¬ zeroAt m 3 1 ∨ ¬ zeroAt m 0x1C 36 then w.refuseSession src tag stInternal
      else act w part m tag

/-! ## OPEN -/

/-- OPEN of a CID that is open already (R103): the existing handle, when the format and layers agree. -/
def Work.openExisting (w : Work) (src : Src) (tag i fmt layers : Nat) : Work :=
  match w.session i with
  | none => w
  | some s =>
    match (s.state.refusal).orElse fun _ => w.ownCheck s with
    | some st => w.refuseSession src tag st
    | none =>
      if s.fmt = fmt ∧ s.layers.length = layers then
        let h := handleOf i s.gen
        -- an OPEN completed OK, as the box office counts it (R478)
        (w.meter s.part 15 1).complete src tag stOK h 0 (some h)
      else w.refuseSession src tag stInternal

/-- An OPEN from its source (R103). Fields of the descriptor that belong to other operations are refused with INTERNAL when they are not zero,
and a cause for INTERNAL is tested before one for PAGE_EXHAUSTED (DESIGN CHOICE, log 129: R102 and R103 say neither). -/
def Work.openOp (w : Work) (src : Src) (desc : Bytes) : Work :=
  w.sessionRequest src desc 1 fun w part m tag =>
    let fmt := fieldAt m 1 1
    let layers := fieldAt m 2 1
    let cid := fieldAt m 8 8
    let found := w.sessionByCid part cid
    let w := found.2
    match found.1 with
    | some i => w.openExisting src tag i fmt layers
    | none =>
      if fieldAt m 4 4 ≠ 0 ∨ fieldAt m 0x14 4 ≠ 0 ∨ ¬ w.formatOk part fmt ∨ layers < 1 ∨ 120 < layers then
        w.refuseSession src tag stInternal
      else if w.sessionsFull part then w.refuseSession src tag stExhausted
      else
        let made := w.makeSession part fmt layers cid (fieldAt m 0x10 4) src tag
        match made.1 with
        | none => w.refuseSession src tag stExhausted
        | some (i, s) =>
          let w := made.2
          if w.mirrored part then
            ((w.setSession i { s with own := .claiming }).arrive src).startHome .claim i part s.cid w.nodeId
          else w.sessionReady i

/-- `OPEN` (R103, R132, R392): a new session, or the existing one of its CID. -/
def execOpenSession (src : Src) (desc : Bytes) (s : State) : Host.Outcome State Fault Refusal :=
  run s fun w => w.openOp src desc

/-! ## FORK -/

/-- Rows of a page that a child forked at `pos` keeps (R117). -/
def Page.keeps (p : Page) (pos : Nat) : Nat := min p.counted (pos - p.firstPos)

/-- What a fork makes of one page of a layer: the child's layer, the courses shared, and the copies. -/
structure Forking where
  w : Work
  layer : Layer
  shared : List Nat
  copies : List ForkCopy

/-- Share a full page with the child, or take a slot for its copy (R112, R117); none when no slot is found. -/
def Forking.page (f : Forking) (part child childHandle li pos : Nat) (q : Nat × Nat × Page) : Option Forking :=
  let keep := q.2.2.keeps pos
  if keep = 0 then some f
  else if keep = 16 then
    some { f with layer := { f.layer with runs := addPage f.layer.runs q.1 q.2.1, rows := f.layer.rows + 16 }, shared := f.shared ++ [q.1] }
  else
    let aim := f.w.get Reg.PGM_K_FIRST
    let a := f.w.allocCourse part child childHandle li aim true true
    match a.1 with
    | none => none
    | some (ci, _) =>
      some { w := a.2, shared := f.shared
             layer := { f.layer with runs := addPage f.layer.runs ci 0, rows := f.layer.rows + keep, aim := some aim }
             copies := f.copies ++ [{ child := child, srcCourse := q.1, srcPage := q.2.1, rows := keep, dst := ci }] }

/-- Rows of a layer staged below a position (R118). -/
def Work.stagedBelow (w : Work) (si pos : Nat) : Bool :=
  w.n.pg.staged.any fun g => g.session = si && g.firstPos < pos

/-- The child of a FORK (R117): its layers, shares and copies; none when a slot or a record is wanting. -/
def Work.forkChild (w : Work) (part : Nat) (p : Session) (cid pos : Nat) (src : Src) (tag : Nat) : Option Nat × Work :=
  let made := w.makeSession part p.fmt p.layers.length cid 0 src tag
  match made.1 with
  | none => (none, w)
  | some (i, s) =>
    let h := handleOf i s.gen
    let step := fun (acc : Option (Work × List Layer × List Nat × List ForkCopy)) (e : Layer × Nat) => match acc with
      | none => none
      | some (w, ls, sh, cs) =>
        let f0 : Forking := { w := w, layer := Layer.empty, shared := [], copies := [] }
        ((w.layerPages e.1).foldl (fun (f : Option Forking) q => f.bind fun f => f.page part i h e.2 pos q) (some f0)).map
          fun f => (f.w, ls ++ [f.layer], sh ++ f.shared, cs ++ f.copies)
    match p.layers.zipIdx.foldl step (some (made.2, [], [], [])) with
    | none => (none, w)
    | some (w, layers, shared, copies) =>
      let w := w.setSession i { s with state := .forming, layers := layers, parentCid := p.cid, forkPos := pos, slots := copies.length }
      let w := shared.dedup.foldl Work.addRef w
      (some i, { w with n.pg.forkCopies := w.n.pg.forkCopies ++ copies })

/-- A FORK from its source (R117). Where the CID is open and no slot or session is left too, it ends INTERNAL (DESIGN CHOICE, log 129: R118
gives no order). -/
def Work.forkOp (w : Work) (src : Src) (desc : Bytes) : Work :=
  w.sessionRequest src desc 2 fun w part m tag =>
    let cid := fieldAt m 8 8
    let pos := fieldAt m 0x14 4
    if !w.flag Reg.PGM_FORK_EN then w.refuseSession src tag stInternal
    else match w.serveSession part (fieldAt m 4 4) none with
      | .error st => w.refuseSession src tag st
      | .ok (pi, p) =>
        if fieldAt m 1 1 ≠ 0 ∨ fieldAt m 2 1 ≠ 0 ∨ fieldAt m 0x10 4 ≠ 0 then w.refuseSession src tag stInternal
        else if w.prefixPending pi then w.refuseSession src tag stOverBudget
        else
          let found := w.sessionByCid part cid
          let w := found.2
          if found.1.isSome then w.refuseSession src tag stInternal
          else if w.stagedBelow pi pos ∨ w.sessionsFull part then w.refuseSession src tag stExhausted
          else
            let made := w.forkChild part p cid pos src tag
            match made.1 with
            | none => w.refuseSession src tag stExhausted
            | some i =>
              let w := made.2.arrive src
              if w.mirrored part then
                (w.modSession i fun c => { c with own := .claiming }).startHome .claim i part (BitVec.ofNat 64 cid) w.nodeId
              else w

/-- `FORK` (R117 to R119, R147, R392): a child of the parent's rows below FORK_POS. -/
def execForkSession (src : Src) (desc : Bytes) (s : State) : Host.Outcome State Fault Refusal :=
  run s fun w => w.forkOp src desc

/-- Land one fork copy (R94, R117): its source page is read, out of its block through that block's expander where it lies in tier 1 or 2, its
CRCs checked, the rows below FORK_POS written, FLAGS bit 1 set. A damaged source page is lost, and so is the child's. -/
def Work.landCopy (w : Work) (k : ForkCopy) : Work :=
  match w.course k.srcCourse, w.course k.dst, w.session k.child with
  | some c, some d, some s =>
    match c.pages[k.srcPage]? with
    | none => w
    | some p =>
      let np : Page :=
        { p with handle := BitVec.ofNat 32 d.base, counted := k.rows, landed := k.rows, creator := BitVec.ofNat 32 (handleOf k.child s.gen)
                 cid := s.cid, flags := 2 + (if d.fromReserve then 4 else 0), installTick := BitVec.ofNat 32 w.now32, blockId := 0, lost := false }
      let w := w.setCourse k.dst { d with pages := [np] }
      let a := match d.loc with | .hbm f => frameAddr f | _ => 0
      let read := w.readPage c k.srcPage none
      let w := read.2
      match read.1 with
      | some ext =>
        if !p.lost ∧ pageCrcOk ext then
          let rows := sliceAt ext 64 (k.rows * p.rowBytes)
          let w := (w.store (a + 64) rows).writeHeader k.dst 0
          ((w.noteCourse k.dst 1).notePage k.dst 0).noteRows k.dst 0 0 (extentRows ext p.rowBytes k.rows)
        else (if p.lost then w else w.crcLoss k.srcCourse k.srcPage).losePages k.dst [0]
      | none => (w.blockDamaged k.srcCourse (c.blockOf k.srcPage)).losePages k.dst [0]
  | _, _, _ => w

/-- `FORK_COPIES_LANDED` (R105): the copies stand; the child is Open and the FORK completes OK, once its record is claimed
where the partition is mirrored (R392). Copies whose source rows have not landed cannot have been made, nor those whose source lies in tier
2 while the host window cannot be used (R68, R333). -/
def execForkCopiesLanded (child : Nat) (s : State) : Host.Outcome State Fault Refusal :=
  run s fun w =>
    match w.session child with
    | none => w
    | some c =>
      let mine := w.n.pg.forkCopies.filter fun k => k.child = child
      let wet := mine.any fun k => match (w.course k.srcCourse).bind fun c => c.pages[k.srcPage]? with
        | some p => decide (p.landed < k.rows)
        | none => false
      let shut := w.windowOff && mine.any fun k => (w.course k.srcCourse).any fun c => c.loc.tier = 2
      if c.state ≠ .forming ∨ wet ∨ shut then w
      else
        let w := mine.foldl Work.landCopy w
        let w := ({ w with n.pg.forkCopies := w.n.pg.forkCopies.filter fun k => k.child != child } : Work).freeDying
        if c.own = .claiming then w else w.sessionReady child

/-! ## CLOSE -/

/-- Complete and drop the staged APPENDs of a session (R114, R120). -/
def Work.dropStaged (w : Work) (pick : Staged → Bool) (status : Nat) : Work :=
  (w.n.pg.staged.filter pick).foldl (fun w g =>
    let w := { w with n.pg.staged := w.n.pg.staged.erase g }
    let h := match w.session g.session with | some s => handleOf g.session s.gen | none => g.session
    let w := w.report { code := 0x4304, page := 0x25, part := some g.part, status := status, arg := h, detail := status }
    let w := if status = stExhausted then w.count Reg.PGM_EXHAUSTED else if status = stInternal then w.count Reg.PGM_GAP_FAIL else w
    w.complete g.src g.tag status 0 0) w

/-- Drop everything a session holds: its copies in flight, its references, its Keystone entry (R120). -/
def Work.dropHoldings (w : Work) (i : Nat) : Work :=
  match w.session i with
  | none => w
  | some s =>
    let w := { w with n.pg.forkCopies := w.n.pg.forkCopies.filter fun k => k.child != i }
    let w := (w.n.st.tailCopies.filter fun t => t.2.session = i).foldl (fun w t =>
      ({ w with n.st.tailCopies := eraseN t.1 w.n.st.tailCopies }).freeCourse t.2.dst) w
    let w := match s.ksBank with
      | some b => w.ksErase b s.ksIdx
      | none => w
    let w := w.setSession i { s with layers := s.layers.map fun l => { l with runs := [] }, ksBank := none }
    s.courses.foldl Work.dropRef w

/-- Begin to close a session (R105, R120): the generation advances, staged APPENDs end, its holdings go. -/
def Work.beginClose (w : Work) (i : Nat) (waiting : Option (Src × Nat)) : Work :=
  match w.session i with
  | none => w
  | some s =>
    let w := w.dropStaged (fun g => g.session = i) stNoSession
    let w := w.setSession i { s with state := .closing, gen := (s.gen + 1) % 2 ^ 14, waiting := waiting, waitTick := w.now }
    let w := w.metaChange s.part (sessionRec s 2)
    let w := w.dropHoldings i
    let w := w.endHomeRun i
    if w.mirrored s.part ∧ s.own = .own then w.startRelease s.part s.cid s.origin s.ownEpoch else w

/-- A CLOSE from its source (R120). -/
def Work.closeOp (w : Work) (src : Src) (desc : Bytes) : Work :=
  w.sessionRequest src desc 3 fun w part m tag =>
    match w.findSession part (fieldAt m 4 4) (some (fieldAt m 8 8)) with
    | .error st => w.refuseSession src tag st
    | .ok (i, s) =>
      let other := fieldAt m 1 1 ≠ 0 ∨ fieldAt m 2 1 ≠ 0 ∨ fieldAt m 0x10 4 ≠ 0 ∨ fieldAt m 0x14 4 ≠ 0
      match s.state with
      | .open | .lost =>
        match w.ownCheck s with
        | some st => w.refuseSession src tag st
        | none => if other then w.refuseSession src tag stInternal else (w.arrive src).beginClose i (some (src, tag))
      | st => w.refuseSession src tag ((st.refusal).getD stNoSession)

/-- `CLOSE` (R120, R392): a session that is Open or Lost begins to close. -/
def execCloseSession (src : Src) (desc : Bytes) (s : State) : Host.Outcome State Fault Refusal :=
  run s fun w => w.closeOp src desc

/-- `SESSION_CLOSE_COMPLETE` (R105, R120): once no open sheet attends the session, its record is freed and the CLOSE completes. -/
def execSessionCloseComplete (idx : Nat) (s : State) : Host.Outcome State Fault Refusal :=
  run s fun w =>
    match w.session idx with
    | none => w
    | some s =>
      let attended := w.openSheets.any fun t => t.queries.any fun q => !q.2.desc.noLocal && q.2.session = idx
      if s.state ≠ .closing ∨ attended then w
      else
        let w := { w with n.pg.sessions := eraseN idx w.n.pg.sessions, n.pg.chains := w.n.pg.chains.filter (·.1 / 128 != idx), n.pg.gens := insertN idx s.gen w.n.pg.gens }
        match s.waiting with
        | some (src, tag) => w.complete src tag stOK 0 0
        | none => w

end Sys2Proof.Machine
end

