-- ==== Sys2Proof/Machine/Append.lean ====
section
/-!
DEFINITION. Sys2Proof/Machine/Append.lean: the append path (R95, R106 to R116, R64, R166, R378): checks, positions, growth,
staging and the install engines. Commands APPEND, ROW_LANDED, RETRY_PASS.
-/

namespace Sys2Proof.Machine

/-! ## Growth (R95, R96, R99, R112) -/

/-- The die of a frame. -/
def frameDie (f : Nat) : Nat := f / slotFrames / 4

/-- The die that holds a course in HBM. -/
def Course.die (c : Course) : Nat := match c.loc with | .hbm f => frameDie f | _ => 0

/-- The aim of a layer's next course (R95). -/
def Work.nextAim (w : Work) (s : Session) (l : Layer) : Nat :=
  let top := w.get Reg.PGM_K_MAX
  match l.aim with
  | some a => min (a + 1) top
  | none =>
    if s.hint = 0 then w.get Reg.PGM_K_FIRST
    else min top (((List.range 33).find? fun k => ceilDiv s.hint 16 ≤ 2 ^ k).getD top)

/-- The last page of a layer. -/
def Work.lastPage (w : Work) (l : Layer) : Option (Nat × Nat × Course × Page) :=
  match l.runs.getLast? with
  | none => none
  | some r => match w.course r.course with
    | none => none
    | some c => (c.pages[r.first + r.count - 1]?).map fun p => (r.course, r.first + r.count - 1, c, p)

/-- Another session's run includes a page (R99). -/
def Work.pageShared (w : Work) (si ci pi : Nat) : Bool :=
  w.n.pg.sessions.any fun e => e.1 != si && e.2.names ci [pi]

/-- The part-filled last page of a layer, when a row at `fp` continues it. -/
def Work.openPage (w : Work) (si : Nat) (s : Session) (l : Layer) (fp : Nat) : Option (Nat × Nat × Course × Page) :=
  match w.lastPage l with
  | some (ci, pi, c, p) =>
    if p.counted < 16 ∧ p.firstPos + p.counted = fp ∧ p.creator.toNat = handleOf si s.gen ∧ ¬ w.pageShared si ci pi then some (ci, pi, c, p)
    else none
  | none => none

/-- The layer's last course lies in tier 1 or 2 with a part-filled last page that the row continues (R64). -/
def Work.spilledTail (w : Work) (si : Nat) (s : Session) (l : Layer) (fp : Nat) : Option (Nat × Nat) :=
  match w.openPage si s l fp with
  | some (ci, pi, c, _) => match c.loc with
    | .hbm _ => none
    | _ => some (ci, pi)
  | none => none

/-- Rows of an APPEND that go to one page: course, page, first row, first index in the APPEND, count; FIRST_POS of a new page. -/
structure Seg where
  course : Nat
  page : Nat
  row : Nat
  from_ : Nat
  take : Nat
  fresh : Option Nat
  deriving DecidableEq, Repr

/-- What placing rows has come to. -/
structure Placed where
  w : Work
  segs : List Seg
  reserve : Bool
  aim : Option Nat

/-- Find pages for the rows from `i` on, each of a new page (R95, R96, R112); none when a slot is wanting. `cur` is the course in
which new pages may be started, and its next page. A course taken from the device reserve leaves the layer's aim as it was (DESIGN CHOICE,
log 129: R95 and R112 do not say). -/
def Work.newPages (si li : Nat) (s : Session) (fp n : Nat) : Nat → Nat → Option (Nat × Nat) → Placed → Option Placed
  | 0, _, _, p => some p
  | fuel + 1, i, cur, p =>
    if n ≤ i then some p
    else
      let take := min 16 (n - i)
      match cur with
      | some (ci, pi) =>
        if ((p.w.course ci).map fun c => decide (pi < 2 ^ c.k)).getD false then
          let seg : Seg := { course := ci, page := pi, row := 0, from_ := i, take := take, fresh := some (fp + i) }
          Work.newPages si li s fp n fuel (i + take) (some (ci, pi + 1)) { p with segs := p.segs ++ [seg] }
        else Work.newPages si li s fp n fuel i none p
      | none =>
        let aim := p.w.nextAim s { Layer.empty with aim := p.aim }
        let a := p.w.allocCourse s.part si (handleOf si s.gen) li aim true true
        match a.1 with
        | none => none
        | some (ci, res) =>
          Work.newPages si li s fp n fuel i (some (ci, 0))
            { p with w := a.2, reserve := p.reserve || res, aim := if res then p.aim else some aim }

/-- Find pages for `n` rows at `fp` of a layer. -/
def Work.placeRows (w : Work) (si li : Nat) (s : Session) (l : Layer) (fp n : Nat) : Option Placed :=
  let p0 : Placed := { w := w, segs := [], reserve := false, aim := l.aim }
  let tail := w.openPage si s l fp
  let head := match tail with
    | some (_, _, _, p) => min (16 - p.counted) n
    | none => 0
  let p0 := match tail with
    | some (ci, pi, _, p) => { p0 with segs := [{ course := ci, page := pi, row := p.counted, from_ := 0, take := head, fresh := none }] }
    | none => p0
  let cur := match w.lastPage l with
    | some (ci, pi, c, _) =>
      (match c.loc with
       | .hbm _ => if c.refs ≤ 1 ∧ c.session = some si ∧ c.tail then some (ci, max (pi + 1) c.pages.length) else none
       | _ => none)
    | none => none
  Work.newPages si li s fp n (2 * n + 2) head cur p0

/-- Rows of the segments that fall on a die. -/
def Placed.onDie (p : Placed) (d : Nat) : Nat :=
  (p.segs.filter fun g => ((p.w.course g.course).map Course.die).getD 0 = d).foldl (fun n g => n + g.take) 0

/-- The install point of a tick in ps after its start (R110). -/
def Work.installPoint (w : Work) : Nat := 50000 + (w.periodPs - 290000) / 2

/-- The last row lands before the install point of the next tick, on each engine it uses (R110); `at_` is ps into the tick. -/
def Work.landsInTime (w : Work) (p : Placed) (at_ : Nat) : Bool :=
  [0, 1].all fun d =>
    let n := p.onDie d
    n = 0 || at_ + ((atD w.n.pg.install d []).length + n) * 625 < w.periodPs + w.installPoint

/-- An APPEND for a course being spilled, or copied elsewhere in HBM, cancels the move (R63; for a course that is rebalanced or moved aside
within HBM, of which the table says nothing, DESIGN CHOICE, log 148). -/
def Work.cancelSpill (w : Work) (ci : Nat) : Work :=
  match w.moveOf ci with
  | some (mi, m) =>
    if m.cls = .prefetch ∨ m.cls = .heat then w
    else w.abandonMove mi
  | none => w

/-- Put rows on the pages found for them: they are counted (R109), queued at the install engines (R110), heated (R70) and
carried to the understudy (R377). Answers the handle of the last page. -/
def Work.countRows (p : Placed) (si li : Nat) (rows : List Bytes) (done : Option (Src × Nat × Nat)) : Nat × Work :=
  match p.w.session si with
  | none => (0, p.w)
  | some s =>
    let n := rows.length
    let f := p.w.rowFmt s.fmt
    let handle := match p.segs.getLast? with
      | some g => ((p.w.course g.course).map fun c => c.base + g.page).getD 0
      | none => 0
    let last := p.segs.length - 1
    let w := p.segs.zipIdx.foldl (fun w (e : Seg × Nat) =>
      let g := e.1
      match w.course g.course with
      | none => w
      | some c =>
        let w := w.cancelSpill g.course
        let w := match g.fresh with
          | some pos =>
            let pg : Page :=
              { blankPage (c.base + g.page) with
                layer := li, firstPos := pos, fmt := s.fmt, rowBytes := f.rowBytes, cid := s.cid
                creator := BitVec.ofNat 32 (handleOf si s.gen), flags := if c.fromReserve then 4 else 0 }
            let w := if g.page = 0 then w.noteCourse g.course 1 else w
            w.modCourse g.course fun c => { c with pages := c.pages ++ [pg] }
          | none => w
        let w := w.modPage g.course g.page fun q => { q with counted := q.counted + g.take }
        let mine := (rows.drop g.from_).take g.take
        let d := c.die
        let q : List InstallRow := mine.mapIdx fun i b =>
          { course := g.course, page := g.page, row := g.row + i, bytes := b
            done := if e.2 = last ∧ i + 1 = mine.length then done.map fun x => (x.1, x.2.1, x.2.2, n, BitVec.ofNat 32 handle) else none }
        let w := { w with n.pg.install := w.n.pg.install.modify d fun l => l ++ q }
        ((w.notePage g.course g.page).noteRows g.course g.page g.row mine).heatAppend g.course) p.w
    let fresh := p.segs.filter fun g => g.fresh.isSome
    let s := (w.session si).getD s
    let l := atD s.layers li Layer.empty
    let runs := fresh.foldl (fun r g => addPage r g.course g.page) l.runs
    let had := l.runs
    let l := { l with runs := runs, aim := p.aim, rows := l.rows + n, lastAppend := w.now }
    let w := w.setSession si { s with layers := s.layers.set li l, slots := s.slots + fresh.length }
    let w := w.noteRuns s.part li had runs s.cid
    (handle, (w.count Reg.PGM_ROWS_IN n).meter s.part 6 n)

/-! ## Staging (R113 to R116) -/

/-- The copy of a spilled tail page is begun where a slot is found for it (R64). -/
def Work.beginTailCopy (w : Work) (si li : Nat) (s : Session) (l : Layer) (ci pi : Nat) : Work :=
  if w.n.st.tailCopies.any fun t => t.2.session = si && t.2.layer = li then w
  else
    let a := w.allocCourse s.part si (handleOf si s.gen) li (w.nextAim s l) true true
    match a.1 with
    | none => w
    | some (dst, res) =>
      let t : TailCopy := { session := si, layer := li, srcCourse := ci, srcPage := pi, dst := dst, fromReserve := res }
      let w := { a.2 with n.st.tailCopies := insertN (freshKey 0 w.n.st.tailCopies) t w.n.st.tailCopies }
      if res then w
      else w.modSession si fun s => { s with layers := s.layers.modify li fun x => { x with aim := some (w.nextAim s l) } }

/-- Staging can take the rows of an APPEND (R113). -/
def Work.canStage (w : Work) (part n : Nat) : Bool :=
  w.stagedRows none + n ≤ w.get Reg.PGM_CAP && w.stagedRows (some part) + n ≤ 64 * w.get Reg.PGM_STAGE_MAX 0 part

/-- Stage an APPEND: logged and counted (R114). -/
def Work.stage (w : Work) (g : Staged) : Work :=
  let h := match w.session g.session with | some s => handleOf g.session s.gen | none => 0
  (({ w with n.pg.staged := w.n.pg.staged ++ [g] }).count Reg.PGM_STAGED_CNT).report
    { code := 0x4303, page := 0x25, part := some g.part, arg := h, detail := g.layer }

/-! ## APPEND (R106, R109) -/

/-- The rows of an APPEND, packed, if R162 lets every one of them land. -/
def Work.packRows (w : Work) (src : Src) (fmt : Nat) (raw : Bool) (count rowLen : Nat) (b : Bytes) : Option (List Bytes) :=
  let f := w.rowFmt fmt
  (List.range count).mapM fun i =>
    let r := sliceAt b (32 + i * rowLen) rowLen
    if raw then
      let v := match src with
        | .conn _ _ => swapAll 2 r
        | .queue _ _ => r
      w.quantise f ((List.range (f.c + f.p)).map fun c => fieldAt v (2 * c) 2)
    else if f.packedOk r then some r else none

/-- A charge on the session-write share (R43, R190), or none when the pool has no room. -/
def Work.chargePool (w : Work) (bytes : Nat) : Option Work :=
  let b := w.n.qa.budget
  if w.poolBase + b.poolExtra < b.poolUsed + bytes then none
  else some ({ w with n.qa.budget := { b with poolUsed := b.poolUsed + bytes } })

/-- The session-write charge of an APPEND (R190), or none when the pool or the mirror budget (R378) has no room. -/
def Work.chargeAppend (w : Work) (part bytes packed : Nat) : Option Work :=
  let mir := w.mirrored part
  let rows := w.n.mi.rowsThisTick + packed
  if mir ∧ w.get Reg.MIR_KIB * 1024 < rows then none
  else (w.chargePool bytes).map fun w => if mir then { w with n.mi.rowsThisTick := rows } else w

/-- A course of the layer is being restored from the understudy (R386). -/
def Work.restoring (w : Work) (l : Layer) : Bool := l.runs.any fun r => w.n.mi.restores.any fun x => x.1 = r.course

/-- Checks 5 and 6 and the acceptance of an APPEND (R107, R109, R112 to R115); none when it is refused, with the status. The completion of
one whose rows are all skipped carries handle 0 (DESIGN CHOICE, log 129: R111 names the last page written, and there is none). -/
def Work.acceptAppend (w : Work) (src : Src) (tag si li : Nat) (s : Session) (l : Layer) (jump raw : Bool) (first e : Nat)
    (rows : List Bytes) (at_ : Nat) : Except Nat Work :=
  let skip := min rows.length (e - first)
  let fp := first + skip
  let mine := rows.drop skip
  let n := mine.length
  let skipped := fun w : Work => if skip = 0 then w else w.count Reg.PGM_ROWS_SKIPPED skip
  let stage := fun (w : Work) (why : StageWhy) =>
    if w.canStage s.part n then
      let g : Staged :=
        { src := src, session := si, part := s.part, layer := li, jump := jump, raw := raw, count := n, firstPos := fp
          rows := mine, tag := tag, retries := 0, arrival := w.now, why := why }
      Except.ok (skipped ((w.stage g).arrive src))
    else .error stExhausted
  -- behind a staged APPEND, or a course of the layer is being restored (R115, R386)
  let behind := !(w.stagedOf si li).isEmpty || w.restoring l
  let gap := decide (e < first) && !jump
  if n = 0 then .ok ((skipped w).complete src tag stOK 0 0)
  else if gap then stage w .gap
  else if behind then stage w .behind
  else match w.spilledTail si s l fp with
    | some (ci, pi) => match stage w .tailCopy with
      | .ok w => .ok (w.beginTailCopy si li s l ci pi)
      | .error st => .error st
    | none => match w.placeRows si li s l fp n with
      | none => if w.flag Reg.PGM_STAGE_EN then stage w .noSlot else .error stExhausted
      | some p =>
        if !w.landsInTime p at_ then .error stOverBudget
        else
          let st := if p.reserve then stReserve else stOK
          .ok (skipped ((Work.countRows p si li mine (some (src, tag, st))).2.arrive src))

/-- An APPEND arrives (R109). R90 refuses a format that no longer fits the partition's slots at OPEN only: a session opened before SLOT_SIZE
was lowered appends without a further test (DESIGN CHOICE, log 129). -/
def Work.takeAppend (w : Work) (src : Src) (part : Nat) (b : Bytes) (at_ : Nat) : Work :=
  let m := srcBytes src appendFields (b.take 32)
  let tag := fieldAt m 0x18 4
  let refuse := fun (w : Work) st => w.refuseSession src tag st
  if w.isDark then refuse w stFenced
  else if !w.live part then refuse w stStruck
  else if !w.flag Reg.PGM_APPEND_EN then refuse w stInternal
  else match w.findSession part (fieldAt m 0 4) (some (fieldAt m 0x10 8)) with
    | .error st => refuse w st
    | .ok (si, s) =>
      match (s.state.refusal).orElse fun _ => w.ownCheck s with
      | some st => refuse w st
      | none =>
        let li := fieldAt m 4 1
        let form := fieldAt m 5 1
        let raw := !bitOf form 0
        let jump := bitOf form 1
        let count := fieldAt m 6 2
        let first := fieldAt m 8 4
        let rowLen := fieldAt m 0xC 4
        let f := w.rowFmt s.fmt
        let l := atD s.layers li Layer.empty
        let e := w.nextPos si li l
        let want := if raw then 2 * (f.c + f.p) else f.rowBytes
        let shape := decide (li < s.layers.length ∧ form < 4 ∧ 1 ≤ count ∧ count ≤ 4096 ∧ rowLen = want) && zeroAt m 0x1C 4 &&
          decide (b.length = 32 + count * rowLen) && !(jump && decide (e < first ∧ first % 16 ≠ 0))
        if !shape then refuse w stInternal
        else match w.packRows src s.fmt raw count rowLen b with
          | none => refuse w stInternal
          | some rows =>
            if w.prefixPending si then refuse w stOverBudget
            else
              let skip := min count (e - first)
              let n := count - skip
              let fp := first + skip
              let pages := if n = 0 then 0 else (fp + n - 1) / 16 - fp / 16 + 1
              match w.chargeAppend part (rowLen * count + 64 * pages) (n * f.rowBytes) with
              | none => refuse w stOverBudget
              | some w' =>
                match w'.acceptAppend src tag si li s l jump raw first e rows at_ with
                | .ok w => w
                | .error st => refuse w st

/-- `APPEND` (R106 to R116): rows of one layer are taken, staged or refused, all or nothing. -/
def execAppendRows (src : Src) (payload : Bytes) (at_ : Nat) (s : State) : Host.Outcome State Fault Refusal :=
  run s fun w =>
    match w.partOf src with
    | some part => w.srcActs src 6 payload fun w => w.asArrived src fun w => w.takeAppend src part payload at_
    | none => w

/-! ## Landing (R94, R110) -/

/-- `ROW_LANDED` (R94, R110, R111): the first row on a die's install engine lands: its bytes, then the whole header; the last
row of an APPEND queues its completion. -/
def execRowLanded (die : Nat) (s : State) : Host.Outcome State Fault Refusal :=
  run s fun w =>
    match atD w.n.pg.install die [] with
    | [] => w
    | r :: rest =>
      let w := { w with n.pg.install := w.n.pg.install.set die rest }
      let w := match w.course r.course with
        | none => w
        | some c =>
          match w.pageAddr c r.page, c.pages[r.page]? with
          | some a, some p =>
            let w := w.store (a + 64 + r.row * p.rowBytes) r.bytes
            let w := w.modPage r.course r.page fun q =>
              { q with landed := max q.landed (r.row + 1), installTick := BitVec.ofNat 32 w.now32 }
            w.writeHeader r.course r.page
          | _, _ => w
      match r.done with
      | some (src, tag, st, n, h) => w.complete src tag st n h.toNat
      | none => w

/-! ## The retry pass (R114, R115) -/

/-- A staged APPEND is still held for an open gap (R107). A JUMP taken while its FIRST_POS was at or below E, and no multiple of 16, may find
E below FIRST_POS once an APPEND before it has failed: no page may begin there (R92), and it is held as one without JUMP is (DESIGN CHOICE,
log 129: check 3 is past, and R114 names no outcome). -/
def Work.gapHeld (w : Work) (g : Staged) : Bool :=
  match w.session g.session with
  | some s => w.baseE (atD s.layers g.layer Layer.empty) < g.firstPos && (!g.jump || g.firstPos % 16 != 0)
  | none => false

/-- Try one staged APPEND: whether it installed. -/
def Work.tryStaged (w : Work) (g : Staged) : Bool × Work :=
  match w.session g.session with
  | none => (false, w)
  | some s =>
    let l := atD s.layers g.layer Layer.empty
    let e := w.baseE l
    let skip := min g.count (e - g.firstPos)
    let fp := g.firstPos + skip
    let rows := g.rows.drop skip
    let out := fun w : Work =>
      let w := { w with n.pg.staged := w.n.pg.staged.erase g }
      if skip = 0 then w else w.count Reg.PGM_ROWS_SKIPPED skip
    if rows.isEmpty then (true, (out w).complete g.src g.tag stOK 0 0)
    else if w.restoring l then (false, w)
    else match w.spilledTail g.session s l fp with
      | some (ci, pi) => (false, w.beginTailCopy g.session g.layer s l ci pi)
      | none => match w.placeRows g.session g.layer s l fp rows.length with
        | none => (false, w)
        | some p =>
          if !w.landsInTime p (w.periodPs - 60000) then (false, w)
          else
            let copied := g.why = .tailCopy && (match w.lastPage l with
              | some (_, _, c, _) => c.fromReserve
              | none => false)
            let st := if p.reserve || copied then stReserve else stOK
            let r := Work.countRows p g.session g.layer rows none
            (true, (out r.2).complete g.src g.tag st rows.length r.1)

/-- The pass over one layer's staged APPENDs (R114): those held for a gap are passed over, and tried once more after any
installs; the first other failure ends the pass for the layer. -/
def Work.layerPass : Nat → Work → List Staged → List Staged → Work
  | 0, w, _, _ => w
  | _, w, [], _ => w
  | fuel + 1, w, g :: rest, held =>
    if w.gapHeld g then Work.layerPass fuel w rest (held ++ [g])
    else
      let r := w.tryStaged g
      if r.1 then Work.layerPass fuel r.2 (held ++ rest) [] else r.2

/-- The APPENDs of a layer that have had their last retry end, and those behind one that ends in PAGE_EXHAUSTED (R114, R115). -/
def Work.layerEnd (w : Work) (l : List Staged) : Work :=
  (l.foldl (fun (a : Bool × Work) g =>
    let w := a.2
    if !(w.n.pg.staged.contains g) then a
    else if a.1 then (true, w.dropStaged (· = g) stExhausted)
    else if g.retries < w.get Reg.PGM_RETRIES then a
    else if w.gapHeld g then (false, w.dropStaged (· = g) stInternal)
    else (true, w.dropStaged (· = g) stExhausted)) (false, w)).2

/-- `RETRY_PASS` (R114, R115): every staged APPEND is given one retry, layer by layer, in order of arrival. Layers and sessions take their
turns in the order of their first staged APPEND (DESIGN CHOICE, log 129: R114 orders only within a layer). -/
def execRetryPass (s : State) : Host.Outcome State Fault Refusal :=
  run s fun w =>
    let all := w.n.pg.staged.map fun g => { g with retries := g.retries + 1 }
    let w := { w with n.pg.staged := all }
    let keys := (all.map fun g => (g.session, g.layer)).dedup
    keys.foldl (fun w k =>
      let mine := all.filter fun g => g.session = k.1 && g.layer = k.2
      match (w.session k.1).bind fun s => s.state.refusal with
      | some st => w.dropStaged (fun g => g.session = k.1 && g.layer = k.2) st
      | none =>
        let n := mine.length
        (Work.layerPass ((n + 1) * (n + 1)) w mine []).layerEnd mine) w

end Sys2Proof.Machine
end

