-- ==== Sys2Proof/Machine/Clusters.lean ====
section
/-!
DEFINITION. Sys2Proof/Machine/Clusters.lean: spares and faults of clusters, Keystone banks and control cores (R48 to R51, R494),
codebooks (R163, R164), and weight packages (R178, R179, R233 to R236). Commands SPARE_MAP_WRITE, CLUSTER_SWAP_EFFECT,
CLUSTER_FAULT, CLUSTER_BUFFER_UE, CONTROL_CORE_FAULT, CODEBOOK_VALID, WEIGHT_LOAD, WEIGHT_LOAD_DONE.
-/

namespace Sys2Proof.Machine

open Sys2Proof.Crypto (sha3 sha3v bytes32)

/-! ## The spare map -/

/-- The two cluster fields and the two Keystone fields of GLB_SPARE_MAP_LO. -/
def clSpareFld (i : Nat) : Fld := if i = 0 then Reg.GLB_CL_SPARE_A else Reg.GLB_CL_SPARE_B
def keySpareFld (i : Nat) : Fld := if i = 0 then Reg.GLB_KEY_SPARE_A else Reg.GLB_KEY_SPARE_B

/-- A cluster holds a slot and is in service. -/
def Work.clusterActive (w : Work) (c : Nat) : Bool := w.flag Reg.CL_ACTIVE c && w.get Reg.CL_SLOT c != 31

/-- Give the slot of one cluster to another (R50): the first leaves service, the second enters it. -/
def Work.moveSlot (w : Work) (from_ dest : Nat) : Work :=
  let slot := w.get Reg.CL_SLOT from_
  let w := ((w.set Reg.CL_SLOT 31 from_).set Reg.CL_ACTIVE 0 from_)
  let w := ((w.set Reg.CL_SLOT slot dest).set Reg.CL_ACTIVE 1 dest).set Reg.CL_SPARE 0 dest
  let w := (w.setEnable (0x30 + from_) false).setEnable (0x30 + dest) true
  ((w.setReady (0x30 + from_) false).setReady (0x30 + dest) true).setSpareInUse (0x30 + dest) true

/-- A Keystone bank is retired and its spare takes its place (R48, R131): the spare has its configuration at once, and answers
once its entries are rebuilt. -/
def Work.retireBank (w : Work) (field retire spare : Nat) : Work :=
  let entries := (w.ksBank retire).entries
  let w := ((w.set Reg.KEY_TABLE (w.get Reg.KEY_TABLE 0 retire) 0 spare).set Reg.KEY_WIDTH (w.get Reg.KEY_WIDTH 0 retire) 0 spare).set
    Reg.KEY_OWNER (w.get Reg.KEY_OWNER 0 retire) 0 spare
  let w := (w.setKsBank spare fun _ => entries).setKsBank retire fun _ => []
  let w := (w.set Reg.KEY_SPARE 0 0 spare).set Reg.KEY_REBUILDING 1 0 spare
  let w := ((w.set Reg.KEY_SPARE 1 0 retire).set Reg.KEY_TABLE 0 0 retire).set Reg.KEY_REBUILDING 0 0 retire
  let w := { w with
    n.pg.sessions := w.n.pg.sessions.map fun (e : Nat × Session) => if e.2.ksBank = some retire then (e.1, { e.2 with ksBank := some spare }) else e
    n.ks.tree := w.n.ks.tree.map fun (e : Nat × TreeRec) => if e.2.bank = retire then (e.1, { e.2 with bank := spare }) else e
    n.tp.conns := w.n.tp.conns.map fun (e : Nat × Conn) =>
      (e.1, { e.2 with ksAt := e.2.ksAt.map fun (a : Nat × Nat) => if a.1 = retire then (spare, a.2) else a })
    n.tp.regions := w.n.tp.regions.map fun (e : Nat × Region) => if e.2.ksBank = retire then (e.1, { e.2 with ksBank := spare }) else e }
  let w := (w.set (keySpareFld field) retire).setSpareInUse 0x27 true
  (w.log { code := 0x4103, page := 0x27, detail := retire }).extendFree 5

/-- What a write of GLB_SPARE_MAP_LO asks: for each of the four fields it changes, the index of the field, the unit named and the
unit the field names now. -/
def spareAsks (new old : Fld → Nat) (flds : Nat → Fld) : List (Nat × Nat × Nat) :=
  ([0, 1].filter fun i => new (flds i) != old (flds i)).map fun i => (i, new (flds i), old (flds i))

/-- A written field may be obeyed (R49): the unit named is active, and the one it would activate is neither bad nor faulted
(the latter DEDUCED from R50, log 27). -/
def Work.spareAskOk (w : Work) (cluster : Bool) (ask : Nat × Nat × Nat) : Bool :=
  if cluster then w.clusterActive ask.2.1 && !w.flag Reg.CL_FAULTED ask.2.1 && !w.flag Reg.CL_BAD ask.2.2 && !w.flag Reg.CL_FAULTED ask.2.2
  else !w.flag Reg.KEY_SPARE 0 ask.2.1 && !w.flag Reg.KEY_BAD 0 ask.2.1 && !w.flag Reg.KEY_BAD 0 ask.2.2

/-- `SPARE_MAP_WRITE` (R48, R49, R50, R131, R494): each field written with an active unit retires it and activates the unit the
field named; a cluster swap waits for the freeze of sheet t + 2. -/
def execSpareMapWrite (wr : RegWr) (s : State) : Host.Outcome State Fault Refusal :=
  run s fun w =>
    if !w.addresses wr .GLB [0x140] ∨ wr.fn ≠ .pf then w
    else
      let refuse := fun code => w.capture { code := code, page := 0, arg := wr.off, detail := wr.data.toNat }
      let old := fun f : Fld => w.get f
      let new := fun f : Fld => if fieldEnabled wr f then w.merged wr 0 0 f else old f
      let cls := spareAsks new old clSpareFld
      let keys := spareAsks new old keySpareFld
      let twice := new Reg.GLB_CL_SPARE_A = new Reg.GLB_CL_SPARE_B ∨ new Reg.GLB_KEY_SPARE_A = new Reg.GLB_KEY_SPARE_B
      if 25 < new Reg.GLB_CL_SPARE_A ∨ 25 < new Reg.GLB_CL_SPARE_B ∨ 65 < new Reg.GLB_KEY_SPARE_A ∨ 65 < new Reg.GLB_KEY_SPARE_B then
        refuse 0x4001
      else if !w.n.cl.swaps.isEmpty ∨ (List.range 66).any (fun b => w.flag Reg.KEY_REBUILDING 0 b) then refuse 0x4003
      else if twice ∨ cls.any (fun a => !w.spareAskOk true a) ∨ keys.any (fun a => !w.spareAskOk false a) then refuse 0x4104
      else
        let pend := cls.map fun a =>
          ({ field := a.1, retire := a.2.1, activate := a.2.2, effect := w.now + 2 } : PendSwap)
        let w := { w with n.cl.swaps := pend }
        keys.foldl (fun w a => w.retireBank a.1 a.2.1 a.2.2) w

/-- `CLUSTER_SWAP_EFFECT` (R50): a swap written in tick t takes effect at the freeze of sheet t + 2. -/
def execClusterSwapEffect (s : State) : Host.Outcome State Fault Refusal :=
  run s fun w =>
    let due := w.n.cl.swaps.filter fun p => w.reached p.effect
    let w := { w with n.cl.swaps := w.n.cl.swaps.filter fun p => !w.reached p.effect }
    due.foldl (fun w p =>
      let w := (w.moveSlot p.retire p.activate).set Reg.CL_SPARE 1 p.retire
      let w := w.set (clSpareFld p.field) p.retire
      (w.log { code := 0x4101, page := 0, detail := p.retire + p.activate * 256 }).extendFree 5) w

/-! ## Cluster faults -/

/-- A held spare that can take a faulted cluster's slot: the unit of a cluster field, on the faulted cluster's die, since operand fetch is
die-local (R24; DEDUCED, log 125), neither bad nor faulted nor already taken. Of two, field A's goes first (DESIGN CHOICE, log 125: R50
names none). -/
def Work.freeSpareCluster (w : Work) (faulted : Nat) : Option Nat :=
  ([0, 1].map fun i => w.get (clSpareFld i)).find? fun c =>
    decide (c / 13 = faulted / 13) && w.flag Reg.CL_SPARE c && !w.flag Reg.CL_BAD c && !w.flag Reg.CL_FAULTED c &&
      !(w.n.cl.faultSwaps.any fun f => f.2 = c)

/-- A cluster is marked FAULTED (R50, R51, R494): a free spare takes its slot from the next freeze; with none the node runs with
the clusters it has. A written swap whose spare is gone is dropped. -/
def Work.faultCluster (w : Work) (c cause bufOff : Nat) : Work :=
  if w.flag Reg.CL_FAULTED c then w
  else
    let w := ((w.set Reg.CL_FAULTED 1 c).isr (0x30 + c) 16).setEnable (0x30 + c) false
    let w := w.report { code := 0x4102, page := 0x30 + c, arg := 0xF000000000 + c * 0x800000 + bufOff, detail := cause }
    if !w.clusterActive c then w
    else
      let own := w.n.cl.swaps.find? fun p => p.retire = c
      let spare := w.freeSpareCluster c
      match spare with
      | none =>
        let w := w.set Reg.CL_ACTIVE 0 c
        let left := ((List.range 26).filter fun k => w.flag Reg.CL_ACTIVE k).length
        w.report { code := 0x410A, page := 0, detail := left }
      | some sp =>
        let w := { w with n.cl.faultSwaps := w.n.cl.faultSwaps ++ [(c, sp)] }
        let gone := fun p : PendSwap => decide (p.activate = sp) || own = some p
        let dropped := w.n.cl.swaps.filter gone
        let w := { w with n.cl.swaps := w.n.cl.swaps.filter fun p => !gone p }
        dropped.foldl (fun w p => w.capture { code := 0x4104, page := 0, arg := 0x140, detail := p.retire }) w

/-- Spares take the slots of faulted clusters at the freeze (R50) and stage the sheet's tiles of those slots again;
GLB_SPARE_MAP_LO then names the faulted unit. -/
def Work.faultSwapsTake (w : Work) : Work :=
  let w := w.n.cl.faultSwaps.foldl (fun w f =>
    let field := if w.get Reg.GLB_CL_SPARE_A = f.2 then 0 else 1
    let slot := w.get Reg.CL_SLOT f.1
    let w := w.count Reg.CL_RESTAGED (w.n.qa.next.tiles.filter fun t => t.2.slot = slot).length f.2
    let w := (w.moveSlot f.1 f.2).set (clSpareFld field) f.1
    (w.log { code := 0x4101, page := 0, detail := f.1 + f.2 * 256 }).extendFree 5) w
  { w with n.cl.faultSwaps := [] }

/-- `CLUSTER_FAULT` (R50, R51). -/
def execClusterFault (cluster cause bufOff : Nat) (s : State) : Host.Outcome State Fault Refusal :=
  run s fun w => if cluster < 26 then w.faultCluster cluster cause bufOff else w

/-- `CLUSTER_BUFFER_UE` (R175 and the table of events during cluster work): a hit tile is staged again if that can be done in
time, else its pages are left out; a hit row state drops the query's result of that slot; FAULT_LIMIT of them in a sheet mark
the cluster FAULTED. -/
def execClusterBufferUe (cluster bufOff : Nat) (hit : BufHit) (s : State) : Host.Outcome State Fault Refusal :=
  run s fun w =>
    if 26 ≤ cluster then w
    else
      let w := w.count Reg.CL_BUF_UE 1 cluster
      let w := { w with n.cl.ueInSheet := bumpN cluster 1 w.n.cl.ueInSheet }
      let w := match hit with
        | .tile t again =>
          if again then w.count Reg.CL_RESTAGED 1 cluster
          else
            let c := w.n.qa.cur
            { w with n.qa.cur := { c with tiles := modifyN t (fun x => { x with lostPages := (x.lostPages ++ x.pages).dedup }) c.tiles } }
        | .rowState q => w.modQuery q fun q =>
            { q with dropped := (q.dropped ++ [w.get Reg.CL_SLOT cluster]).dedup, spoiled := true }
      if w.get Reg.CL_FAULT_LIMIT cluster ≤ numN cluster w.n.cl.ueInSheet then w.faultCluster cluster 1 bufOff else w

/-- `CONTROL_CORE_FAULT` (R494): a held spare core is engaged and logged, and the map shows it no longer held. Of two held, CORE_SPARE_A's
is engaged first (DESIGN CHOICE, log 125: R48 and R494 name none). -/
def execControlCoreFault (core : Nat) (s : State) : Host.Outcome State Fault Refusal :=
  run s fun w =>
    let a := w.get Reg.GLB_CORE_SPARE_A
    let b := w.get Reg.GLB_CORE_SPARE_B
    if core = a ∨ core = b ∨ 5 < core then w
    else
      let running := w.get Reg.GLB_RUNNING
      let w := (w.set Reg.GLB_RUNNING (running &&& (63 - 2 ^ core))).set Reg.GLB_FAULTED (w.get Reg.GLB_FAULTED ||| 2 ^ core)
      let engage := fun (w : Work) (f : Fld) (c : Nat) =>
        let w := (w.set f 7).set Reg.GLB_RUNNING (w.get Reg.GLB_RUNNING ||| 2 ^ c)
        ((w.report { code := 0x4108, page := 0, detail := c }).setSpareInUse 0 true).extendFree 5
      if a < 6 then engage w Reg.GLB_CORE_SPARE_A a
      else if b < 6 then engage w Reg.GLB_CORE_SPARE_B b
      else w

/-! ## Codebooks -/

/-- `CODEBOOK_VALID` (R163, R164, R368): VALID is set only for entries that R163 allows; the largest magnitude and the largest gap
are recorded, and slot 3 is extended with the codebook's digest. -/
def execCodebookValid (wr : RegWr) (s : State) : Host.Outcome State Fault Refusal :=
  run s fun w => w.regAction wr .CL [0x18C] fun w _ cb =>
    if fieldEnabled wr Reg.CL_VALID ∧ w.flag Reg.CL_VALID 0 cb then
      let vals := w.cbVals cb
      let gaps := (vals.zip (vals.drop 1)).map fun p => p.2 - p.1
      let w := w.set Reg.CL_M (e4m3.round (maxRat (vals.map absRat))).1 0 cb
      let w := w.set Reg.CL_DELTA (e4m3.round (maxRat gaps)).1 0 cb
      let bs : Bytes := (List.range (w.cbSize cb)).map fun k => BitVec.ofNat 8 (w.cbEntry cb k)
      w.extendMeas 3 (sha3v bs)
    else w

/-! ## Weight packages -/

/-- `WEIGHT_LOAD` (R179): LOAD begins a load of the package at CL_WS_ADDR; while BUSY it is ignored and captured. -/
def execWeightLoad (wr : RegWr) (s : State) : Host.Outcome State Fault Refusal :=
  run s fun w => w.regAction wr .CL [0x190] fun w _ _ =>
    if wrote1 wr Reg.CL_LOAD then ((w.set Reg.CL_BUSY 1).set Reg.CL_DONE 0).set Reg.CL_FAIL 0 else w

/-- Cut the blocks of a layer out of a package: `n` blocks, each on a 256-byte boundary. -/
def cutBlocks (pkg : Bytes) : Nat → Nat → List Bytes
  | 0, _ => []
  | n + 1, off =>
    let b := pkg.drop off
    let h := BlkHead.read b
    b.take h.stored :: cutBlocks pkg n (alignUp (off + max h.stored 1) 256)

/-- The image of a layer's blocks, of `len` bytes by the directory, or the reason code of a check that fails (R223, R234). -/
def blocksImage (len : Nat) (bs : List Bytes) : Except Nat Bytes :=
  ((bs.zip (weightWindows len bs)).mapM fun e =>
    let h := BlkHead.read e.1
    if h.kind ≠ 2 ∨ ¬ h.w8 then Except.error 1 else expandBlock e.1 e.2 0).map List.flatten

/-- Format of a weight element. -/
def elemFmt (elem : Nat) : Fmt := if elem = 0 then e4m3 else e5m2

/-- Every weight and scale of a layer's image is finite (R162). -/
def imageFinite (elem e c : Nat) (img : Bytes) : Bool :=
  (img.take (e * c)).all (fun b => !(elemFmt elem).special b.toNat) &&
    (List.range e).all fun i => !binary16.special (fieldAt img (e * c + 2 * i) 2)

/-- Read and check directory entry `i` of a package (R178, R233, R235), with the blocks it names. -/
def Work.weightEntry (w : Work) (addr : Nat) (pkg : Bytes) (i prev : Nat) : Option WLayer :=
  let d := sliceAt pkg (64 + 32 * i) 32
  let layer := fieldAt d 0 1
  let elem := fieldAt d 1 1
  let dd := fieldAt d 2 2
  let h := fieldAt d 4 2
  let c := fieldAt d 6 2
  let off := fieldAt d 8 8
  let e := h * dd
  let formats := (w.n.pg.sessions.filter fun s => layer < s.2.layers.length).map fun s => (w.rowFmt s.2.fmt).c
  let bs := cutBlocks pkg (fieldAt d 0x10 4) off
  let shape := decide (d.length = 32 ∧ layer < 120 ∧ (i = 0 ∨ prev < layer) ∧ elem < 2 ∧ dd % 32 = 0 ∧ 32 ≤ dd ∧ dd ≤ 256 ∧ 1 ≤ h ∧
    fieldAt d 0x14 4 = e * c + 2 * e ∧ off % 256 = 0) && zeroAt d 0x18 8 && formats.all (· = c)
  if shape then
    some { layer := layer, elem := elem, d := dd, h := h, c := c, packedLen := (bs.map List.length).foldl (· + ·) 0
           at0 := none, at1 := none, addr := addr + off, packed := bs }
  else none

/-- Read directory entries in order; the index of the first that fails, if one does. -/
def Work.weightEntries (w : Work) (addr : Nat) (pkg : Bytes) : Nat → Nat → Nat → Except Nat (List WLayer)
  | 0, _, _ => .ok []
  | n + 1, i, prev =>
    match w.weightEntry addr pkg i prev with
    | none => .error i
    | some l => (w.weightEntries addr pkg n (i + 1) l.layer).map (l :: ·)

/-- A layer's blocks expand to its image, and the image holds finite values (R162, R234, R235). -/
def WLayer.good (l : WLayer) : Bool :=
  match blocksImage l.imageLen l.packed with
  | .ok img => decide (img.length = l.h * l.d * l.c + 2 * (l.h * l.d)) && imageFinite l.elem (l.h * l.d) l.c img
  | .error _ => false

/-- The layers of a package, every directory entry and then every block checked (R235); else the entry that fails. -/
def Work.weightLayers (w : Work) (addr : Nat) (pkg : Bytes) (n i prev : Nat) : Except Nat (List WLayer) :=
  match w.weightEntries addr pkg n i prev with
  | .error j => .error j
  | .ok ls =>
    match ls.findIdx? fun l => !l.good with
    | some j => .error (i + j)
    | none => .ok ls

/-- The weight path of each die expands or checks the blocks of a layer in order, up to one that fails (R179, R235, R236). -/
def Work.decodeLayer (w : Work) (l : WLayer) : Work :=
  let bs := l.packed.zip ((weightWindows l.imageLen l.packed).zip (blockAddrs l.addr l.packed))
  ([0, 1].filterMap w.weightExpander).foldl (fun w inst =>
    (bs.foldl (fun (a : Bool × Work) b =>
      if !a.1 then a
      else
        let r := a.2.decodeOn inst b.1 b.2.1 none b.2.2 none
        (r.1.isSome, r.2)) (true, w)).2) w

/-- The blocks of a package are expanded or checked, layer by layer, up to a layer that fails. -/
def Work.decodePackage (w : Work) (ls : List WLayer) : Work :=
  (ls.foldl (fun (a : Bool × Work) l => if a.1 then (l.good, a.2.decodeLayer l) else a) (true, w)).2

/-- Place layers in a die's 64 MiB store in layer order until one does not fit (R12, R179). -/
def placeStore : List WLayer → Nat → List (Option Nat)
  | [], _ => []
  | l :: ls, used =>
    if used + l.imageLen ≤ 2 ^ 26 then some used :: placeStore ls (used + l.imageLen) else none :: ls.map fun _ => none

/-- The layers that a die of those in use cannot hold are kept packed in the streamed-weight part of the system area, one after another from an
offset (R58, R179). -/
def keepStreamed (streamed : WLayer → Bool) : List WLayer → Nat → List WLayer
  | [], _ => []
  | l :: ls, o =>
    if streamed l then { l with kept := some o } :: keepStreamed streamed ls (o + l.stored.length)
    else { l with kept := none } :: keepStreamed streamed ls o

/-- Where a new set's streamed layers begin: behind those of the set in force where the part's 2 GiB allow, else at its start (DESIGN CHOICE,
log 149). -/
def Work.keepFrom (w : Work) (ls : List WLayer) : Nat :=
  let stop : Nat := w.n.cl.weights.foldl (fun m l => match l.kept with
    | some o => max m (o + l.stored.length)
    | none => m) 0
  let need : Nat := (ls.filter fun l => l.at0.isNone).foldl (fun n l => n + l.stored.length) 0
  if stop + need ≤ 2 ^ 31 then stop else 0

/-- The layers of a set in the stores of the dies (R12, R179): in Rehearsal die 0's only (R459). -/
def Work.placeLayers (w : Work) (ls : List WLayer) : List WLayer :=
  let p := placeStore ls 0
  let both := w.nodeState != 1
  let ls : List WLayer := ls.mapIdx fun i l => { l with at0 := (p[i]?).bind id, at1 := if both then (p[i]?).bind id else none }
  keepStreamed (fun l => l.at0.isNone) ls (w.keepFrom ls)

/-- RES0, RES1, STREAMED and FREE_KIB of a set. -/
def Work.showStores (w : Work) (ls : List WLayer) : Work :=
  let res := fun f : WLayer → Option Nat => (ls.filter fun l => (f l).isSome).length
  let used := fun f : WLayer → Option Nat => ((ls.filter fun l => (f l).isSome).map WLayer.imageLen).foldl (· + ·) 0
  let w := (w.set Reg.CL_RES0 (res (·.at0))).set Reg.CL_RES1 (res (·.at1))
  (w.set Reg.CL_STREAMED (ls.filter fun l => l.at0.isNone).length).set Reg.CL_FREE_KIB ((2 ^ 26 - max (used (·.at0)) (used (·.at1))) / 1024)

/-- Die 1's store is filled as die 0's is when Rehearsal ends (DESIGN CHOICE, log 149). -/
def Work.fillStore (w : Work) : Work :=
  let both := fun ls : List WLayer => ls.map fun l => { l with at1 := l.at0 }
  let w := { w with n.cl.weights := both w.n.cl.weights, n.cl.pendingWeights := w.n.cl.pendingWeights.map both }
  match w.n.cl.pendingWeights, w.n.cl.weights with
  | some ls, _ => w.showStores ls
  | none, [] => w
  | none, ls => w.showStores ls

/-- Check a package header (R233, R235): its total length, when it is one. -/
def packageLen (w : Work) (addr : Nat) : Option Nat :=
  let h := w.bytes addr 64
  let total := fieldAt h 8 8
  let n := fieldAt h 5 1
  if fieldAt h 0 4 = 0x57474B50 ∧ fieldAt h 4 1 = 1 ∧ 1 ≤ n ∧ n ≤ 120 ∧ fieldAt h 6 2 = 0 ∧ zeroAt h 0x30 16 = true ∧
      64 + 32 * n ≤ total ∧ addr + total ≤ 8 * stackBytes then
    if sha3 (w.bytes (addr + 64) (total - 64)) = sliceAt h 0x10 32 then some total else none
  else none

/-- `WEIGHT_LOAD_DONE` (R179, R235, R368): the package is verified; a good one is the set from the next freeze, a bad one changes
nothing. -/
def execWeightLoadDone (s : State) : Host.Outcome State Fault Refusal :=
  run s fun w =>
    if !w.flag Reg.CL_BUSY then w
    else
      let addr := w.get Reg.CL_ADDR_LO + w.get Reg.CL_ADDR_HI * 2 ^ 32
      let w := w.set Reg.CL_BUSY 0
      let fail := fun (w : Work) entry => (w.set Reg.CL_FAIL 1).report { code := 0x4505, page := 0x30, arg := addr, detail := entry }
      match packageLen w addr with
      | none => fail (w.nameSpan 0x30 addr 64) 0xFFFF
      | some total =>
        let pkg := w.bytes addr total
        let v := w
        let w := match w.weightEntries addr pkg (fieldAt pkg 5 1) 0 0 with
          | .ok ls => w.decodePackage ls
          | .error _ => w
        match v.weightLayers addr pkg (fieldAt pkg 5 1) 0 0 with
        | .error i => fail w i
        | .ok ls =>
          let ls := w.placeLayers ls
          let w := { w with n.cl.pendingWeights := some ls }
          let w := (w.set Reg.CL_DONE 1).showStores ls
          w.extendMeas 3 (sha3v pkg)

/-- A pending weight set takes effect at a freeze (R179). -/
def Work.weightsTake (w : Work) : Work :=
  match w.n.cl.pendingWeights with
  | none => w
  | some ls => (({ w with n.cl.weights := ls, n.cl.pendingWeights := none, n.cl.unavailable := [], n.cl.decodedNext := [] }).streamCheck 0).streamCheck 1

/-- The image of a layer: its weights and row scales (R234). -/
def WLayer.image (l : WLayer) : Bytes :=
  match blocksImage l.imageLen l.packed with
  | .ok img => img
  | .error _ => []

end Sys2Proof.Machine
end

