-- ==== Sys2Proof/Machine/Attend.lean ====
section
/-!
DEFINITION. Sys2Proof/Machine/Attend.lean: the arithmetic of a pass (R158 to R161, R169 to R172, R175, R178, R180). Command
CLUSTER_PASS.
-/

namespace Sys2Proof.Machine

/-! ## Rows and queries as numbers -/

/-- A visible token: its row taken apart, the codebook values of its codes, and in expand mode its key (R160). -/
structure Token where
  row : RowParts
  vals : List Rat
  key : List Rat

/-- A query row: its values, the values the arrays use, and the factor that the rescale restores (R170). -/
structure QRow where
  orig : List Rat
  arr : List Rat
  restore : Rat

/-- Exact sum of products. -/
def dot (a b : List Rat) : Rat := (a.zip b).foldl (fun s p => s + p.1 * p.2) 0

/-- A list cut into groups of `n`. -/
def groupsOf {α : Type} (n : Nat) (l : List α) : List (List α) :=
  (List.range (ceilDiv l.length n)).map fun g => (l.drop (g * n)).take n

/-- Round to a multiple of a power of two, ties to even. -/
def roundTo (k : Int) (r : Rat) : Rat := (if r < 0 then -(rne (-r / pow2 k) : Rat) else rne (r / pow2 k)) * pow2 k

/-- A query row: BF16 rows are aligned (R170), E4M3 rows used unchanged. -/
def QRow.make (bf : Bool) (x : List Rat) : QRow :=
  if !bf then { orig := x, arr := x, restore := 1 }
  else
    let top := maxRat (x.map absRat)
    let e := if top = 0 then 0 else log2Floor top - 7
    { orig := x, arr := x.map fun v => roundTo (-17) (v * pow2 (-e)), restore := pow2 e }

/-- The values of one head of a query's payload. -/
def Query.headRow (q : Query) (values h : Nat) : QRow :=
  let sz := if q.desc.qbf16 then 2 else 1
  QRow.make q.desc.qbf16 ((List.range values).map fun i =>
    let c := fieldAt q.payload ((h * values + i) * sz) sz
    if q.desc.qbf16 then bf16.val c else e4m3.val c)

/-! ## Scores (R169 to R171, step 1) -/

/-- The group rescale: an exact sum in FP32, by its scale, by the restored factor. -/
def rescale (sum scale restore : Rat) : StateM Nat Word := do
  let a ← f32of sum
  let b ← f32of (f32val a * scale)
  f32of (f32val b * restore)

/-- Add rescaled groups, then products, to a running FP32 sum in order. -/
def addGroups (s : Word) (restore : Rat) (gs : List (Rat × Rat)) : StateM Nat Word :=
  gs.foldlM (fun s g => do fadd s (← rescale g.1 g.2 restore)) s

/-- Add FP32 products to a running sum in order. -/
def addProducts (s : Word) (ps : List (Rat × Rat)) : StateM Nat Word :=
  ps.foldlM (fun s p => do fadd s (← f32of (p.1 * p.2))) s

/-- The score of a token for a query row. -/
def tokenScore (f : RowFmt) (exp : Bool) (sigma : Word) (q : QRow) (t : Token) : StateM Nat Word := do
  let n := if exp then t.key.length else f.c
  let latent := q.arr.take n
  let groups := if exp then ((groupsOf f.g latent).zip (groupsOf f.g t.key)).map fun p => (dot p.1 p.2, (1 : Rat))
    else (((groupsOf f.g latent).zip (groupsOf f.g t.vals)).zip t.row.scales).map fun p => (dot p.1.1 p.1.2, binary16.val p.2)
  let s ← addGroups 0 q.restore groups
  let pos := if f.form = 1 ∨ f.form = 2 then
      [(dot (q.arr.drop n) (t.row.pos.map fun k : Int => (k : Rat)), binary16.val t.row.posScale)] else []
  let s ← addGroups s q.restore pos
  let s ← if exp then pure s else addProducts s (t.row.outs.map fun o => (atD q.orig o.1 0, bf16.val o.2))
  let s ← addProducts s ((q.orig.drop n).zip (t.row.posBf.map bf16.val))
  fmul sigma s

/-- The key of a token for head `h` of an expanded layer (R160, R180): group sums rescaled, outlier terms, the weight row's
scale, each element in BF16. -/
def tokenKey (f : RowFmt) (l : WLayer) (img : Bytes) (h : Nat) (row : RowParts) (vals : List Rat) : StateM Nat (List Rat) :=
  (List.range l.d).mapM fun i => do
    let e := h * l.d + i
    let wts := (List.range l.c).map fun c => (elemFmt l.elem).val (fieldAt img (e * l.c + c) 1)
    let scale := binary16.val (fieldAt img (l.h * l.d * l.c + 2 * e) 2)
    let groups := (((groupsOf f.g wts).zip (groupsOf f.g vals)).zip row.scales).map fun p => (dot p.1.1 p.1.2, binary16.val p.2)
    let s ← addGroups 0 1 groups
    let s ← addProducts s (row.outs.map fun o => (atD wts o.1 0, bf16.val o.2))
    let k ← f32of (f32val s * scale)
    let r := bf16.round (f32val k)
    if r.2 then modify (· + 1)
    pure (bf16.val r.1)

/-! ## A tile for one head (R171) -/

/-- Add neighbours. -/
def addPairs : List Word → StateM Nat (List Word)
  | a :: b :: r => do
    let s ← fadd a b
    let t ← addPairs r
    pure (s :: t)
  | l => pure l

/-- A sum as a balanced tree (DEDUCED from the γ of the running sum, log 28). -/
def treeSum : Nat → List Word → StateM Nat Word
  | 0, l => pure (l.headD 0)
  | n + 1, l => do treeSum n (← addPairs l)

/-- A softmax weight rounded for array B (step 3). -/
def roundWeight (pvBf : Bool) (r : Rat) : Rat :=
  if pvBf then roundTo (-17) (bf16.val (bf16.round r).1) else e4m3.val (e4m3.round r).1

/-- Steps 3 and 4 for one group: the tile sums of its channels, in FP32 and with the group's power of two taken out. -/
def groupSums (f : RowFmt) (pvBf : Bool) (seen : List (Token × Word)) (g : Nat) : StateM Nat (List Word) :=
  let raw := seen.map fun t => f32val t.2 * binary16.val (atD t.1.row.scales g 0)
  let top := maxRat (raw.map absRat)
  if top = 0 then pure (List.replicate f.g 0)
  else
    let b := 7 - log2Floor top
    let ws := raw.map fun r => roundWeight pvBf (r * pow2 b)
    (List.range f.g).mapM fun i => do
      let s ← f32of (dot ws (seen.map fun t => atD t.1.vals (g * f.g + i) 0))
      f32of (f32val s * pow2 (-b))

/-- One tile for one head: tokens by position in the tile, none where masked (R159). -/
def tileStep (f : RowFmt) (exp pvBf : Bool) (sigma : Word) (q : QRow) (toks : List (Option Token)) (st : RowState) :
    StateM Nat RowState := do
  if toks.all (·.isNone) then pure st
  else
    let ss : List (Option Word) ← toks.mapM fun (t : Option Token) => (match t with
      | some x => do pure (some (← tokenScore f exp sigma q x))
      | none => pure none : StateM Nat (Option Word))
    let live := ss.filterMap id
    let mu := live.foldl fmax (live.headD 0)
    let m := if st.started then fmax st.m mu else mu
    let a ← if st.started then (do fexp (← fadd st.m (fneg m))) else pure 0
    let ps : List Word ← ss.mapM fun (s : Option Word) => (match s with
      | some x => do fexp (← fadd x (fneg m))
      | none => pure 0 : StateM Nat Word)
    let l ← fadd (← fmul a st.l) (← treeSum 7 ps)
    let seen : List (Token × Word) := (toks.zip ps).filterMap fun (e : Option Token × Word) => e.1.map fun t => (t, e.2)
    let sums := (← (List.range (f.c / f.g)).mapM (groupSums f pvBf seen)).flatten
    let o ← (st.o.zip sums).mapM fun p => do fadd (← fmul a p.1) p.2
    let o ← seen.foldlM (fun o t => t.1.row.outs.foldlM (fun (o : List Word) e => do
      let x ← fadd (atD o e.1 0) (← f32of (f32val t.2 * bf16.val e.2))
      pure (o.set e.1 x)) o) o
    pure { started := true, m := m, l := l, o := o }

/-! ## A pass -/

/-- The rows of a tile that a query sees, by position in the tile; the pages left out are masked. -/
def Work.tileRows (w : Work) (t : Tile) (vis : List (Nat × Nat)) : List (Option Bytes) :=
  match w.course t.course with
  | none => []
  | some c =>
    let c := if t.fromDst then (match w.moveOf t.course with
      | some (_, m) => { c with loc := m.dst }
      | none => c) else c
    (List.range 8).flatMap fun i =>
      let p := 8 * t.j + i
      let n := if t.lostPages.contains p then 0 else numN p vis
      let ext : Bytes := if n = 0 then [] else match w.pageExtent c p with
        | .ok b => b
        | .error _ => []
      (List.range 16).map fun r => if r < n then some (sliceAt ext (64 + r * c.rowBytes) c.rowBytes) else none

/-- The rows that a query sees on a tile have landed, and a read-through tile's blocks have been expanded (R110, R213). -/
def Work.tileReady (w : Work) (t : Tile) (vis : List (Nat × Nat)) : Bool :=
  match w.course t.course with
  | none => false
  | some c => vis.all fun v => t.lostPages.contains v.1 ||
      (decide (v.2 ≤ ((c.pages[v.1]?).map (·.landed)).getD 0) && (!t.tier1 || t.expanded.contains (c.blockOf v.1)))

/-- Heads in one row block of a query. -/
def Query.blockHeads (q : Query) (hb : Nat) : List Nat :=
  if q.expanded then [hb] else (List.range 32).map (hb * 32 + ·) |>.filter (· < q.desc.heads)

/-- An item of a pass stands: the slot holds the tile, the query runs and names it, the head block exists, and that head block
has not attended the tile. -/
def Work.passItem (w : Work) (slot : Nat) (x : PassItem) : Option (Query × Tile × QTile) :=
  match lookupN x.query w.n.qa.cur.queries, lookupN x.tile w.n.qa.cur.tiles with
  | some q, some t =>
    match q.tiles.find? fun m => m.tile = x.tile with
    | some m =>
      if t.slot = slot && q.phase = .running && decide (x.headBlock < q.headBlocks) && w.tileReady t m.vis &&
          !(q.rbs.any fun r => r.headBlock = x.headBlock && r.done.contains x.tile) && !q.dropped.contains slot then
        some (q, t, m) else none
    | none => none
  | _, _ => none

/-- Put a query's row block of `n` rows into the first of the array row blocks of its tile (and, for an expanded layer, its head) that
still has room among its 32 rows. -/
def packBlock (key : Nat × Nat) (n : Nat) : List ((Nat × Nat) × Nat) → List ((Nat × Nat) × Nat)
  | [] => [(key, n)]
  | (k, used) :: r => if k = key ∧ used + n ≤ 32 then (k, used + n) :: r else (k, used) :: packBlock key n r

/-- Row blocks that a pass needs: rows of queries share one only on the same tile, and for an expanded layer the same head, and no
row block of a query is split over two (R169, R178). The command's order is the order in which they are laid out. -/
def passBlocks (items : List (PassItem × Query × Tile × QTile)) : Nat :=
  (items.foldl (fun l e => packBlock (e.1.tile, if e.2.1.expanded then e.1.headBlock + 1 else 0)
    (e.2.1.blockHeads e.1.headBlock).length l) []).length

/-- The values of a codebook as the tables of a cluster hold it (R165). -/
def Work.tableVals (w : Work) (c cb : Nat) : List Rat :=
  ((lookupN cb ((lookupN c w.n.cl.books).getD [])).getD []).map e4m3.val

/-- The tile's keys for a head have been formed on the slot for this sheet (R180). -/
def Work.keysFormed (w : Work) (slot tile headBlock : Nat) : Bool :=
  w.n.qa.cur.queries.any fun e => e.2.expanded && e.2.rbs.any fun r => r.slot = slot && r.headBlock = headBlock && r.done.contains tile

/-- The tokens of a tile's rows, with the keys of an expanded layer's head; the count is of the saturations of the keys. -/
def tokensOf (f : RowFmt) (cb : List Rat) (layer : Option WLayer) (img : Bytes) (head : Nat) (rows : List (Option Bytes)) :
    StateM Nat (List (Option Token)) :=
  rows.mapM fun (b : Option Bytes) => (match b with
    | none => pure none
    | some b => do
      let r := f.read b
      let vals := r.codes.map fun k => atD cb k 0
      let key ← match layer with
        | some l => tokenKey f l img head r vals
        | none => pure []
      pure (some { row := r, vals := vals, key := key }) : StateM Nat (Option Token))

/-- The rows of a tile that some query of the sheet sees, by page. -/
def Work.tileVis (w : Work) (tile : Nat) : List (Nat × Nat) :=
  w.n.qa.cur.queries.foldl (fun l e => e.2.tiles.foldl (fun l m =>
    if m.tile = tile then m.vis.foldl (fun l v => insertN v.1 (max v.2 (numN v.1 l)) l) l else l) l) []

/-- The state of an item's row block on a slot, as it stands. -/
def Query.stateOf (q : Query) (slot : Nat) (x : PassItem) : RbState :=
  (q.rbs.find? fun r => r.slot = slot && r.rb = x.rb && r.headBlock = x.headBlock).getD
    { slot := slot, rb := x.rb, headBlock := x.headBlock, done := []
      st := (q.blockHeads x.headBlock).map fun _ => RowState.empty q.channels }

/-- Run one item on cluster `c`: the states of its row block's heads over the tile. Its saturations are counted, those of the keys once
for the tile and head, when the first row block attends it (R161, R180). -/
def Work.runItem (w : Work) (slot c : Nat) (x : PassItem) (q : Query) (t : Tile) (m : QTile) : Work × Nat :=
  let f := w.rowFmt q.fmt
  let layer := if q.expanded then w.n.cl.weights.find? fun l => l.layer = q.desc.layer else none
  let img := (layer.map WLayer.image).getD []
  let cb := w.tableVals c f.cb
  let values := (match layer with | some l => l.d | none => f.c) + f.p
  let rows := w.tileRows t m.vis
  let old := q.stateOf slot x
  let keySats := match layer with
    | some _ => if w.keysFormed slot x.tile x.headBlock then 0
      else ((tokensOf f cb layer img x.headBlock (w.tileRows t (w.tileVis x.tile))).run 0).2
    | none => 0
  let toks := ((tokensOf f cb layer img x.headBlock rows).run 0).1
  let work : StateM Nat (List RowState) :=
    ((q.blockHeads x.headBlock).zip old.st).mapM fun e =>
      tileStep f layer.isSome w.n.cl.pvBf16 q.desc.sigma (q.headRow values e.1) toks e.2
  let res := work.run 0
  let new := { old with done := old.done ++ [x.tile], st := res.1 }
  let rest := q.rbs.filter fun r => !(r.slot = slot && r.rb = x.rb && r.headBlock = x.headBlock)
  (w.modQuery x.query fun q => { q with rbs := rest ++ [new] }, res.2 + keySats)

/-- Cycles of a pass with what it brings along: key expansion of tiles new to the slot (R180), and a state swap when a row block
enters the arrays after the sheet's first pass (R172). -/
def Work.passCost (w : Work) (slot : Nat) (items : List (PassItem × Query × Tile × QTile)) : Nat :=
  match items with
  | [] => 0
  | (_, q, _, _) :: _ =>
    let f := w.rowFmt q.fmt
    let layer := if q.expanded then w.n.cl.weights.find? fun l => l.layer = q.desc.layer else none
    let before := fun t => w.n.qa.cur.queries.any fun e => e.2.expanded && e.2.rbs.any fun r => r.slot = slot && r.done.contains t
    let newTiles := if layer.isSome then ((items.map fun e => e.1.tile).dedup.filter fun t => !before t).length else 0
    let held := lookupN slot w.n.cl.inArrays
    let enters := match held with
      | some l => items.any fun e => !(l.contains (e.1.query, e.1.rb, e.1.headBlock))
      | none => false
    f.passCycles w.n.cl.pvBf16 q.desc.qbf16 layer + newTiles * ((layer.map f.expandCycles).getD 0) + (if enters then f.swapCycles else 0)

/-- Full-rate cycles that a pass of `cost` cycles takes at the rate permitted now. -/
def Work.passTime (w : Work) (cost : Nat) : Rat := (cost * 256 : Nat) / (w.arrayRate : Rat)

/-- Full-rate cycles of the compute window that a cluster has used (R175). -/
def Work.spentOn (w : Work) (c : Nat) : Rat := (lookupN c w.n.cl.spent).getD 0

/-- A pass of `cost` cycles on cluster `c` can finish before the compute cutoff (R175). -/
def Work.inTime (w : Work) (c cost : Nat) : Bool :=
  w.arrayRate != 0 && decide (w.spentOn c + w.passTime cost ≤ (w.nCyc : Rat))

/-- The segments of a streamed layer have been decoded for the running sheet on a cluster's die (R180, R236). -/
def Work.segmentsReady (w : Work) (c layer : Nat) : Bool :=
  match w.n.cl.weights.find? fun l => l.layer = layer with
  | none => true
  | some l => !l.streamed (c / 13) || (List.range l.packed.length).all fun b => w.n.cl.decoded.contains (c / 13, layer, b)

/-- `CLUSTER_PASS` (R158 to R161, R169 to R172, R175, R180): up to four row blocks of one format and query precision attend their
tiles. A pass that the cluster cannot finish before the cutoff is not started. -/
def execClusterPass (slot : Nat) (work : List PassItem) (s : State) : Host.Outcome State Fault Refusal :=
  run s fun w =>
    match w.physOf slot, work.mapM fun x => (w.passItem slot x).map fun y => (x, y) with
    | some c, some items =>
      let q0 := (items.map fun e => e.2.1).head?
      let same := items.all fun e => q0.any fun q => q.fmt = e.2.1.fmt && q.desc.qbf16 = e.2.1.desc.qbf16 && q.expanded = e.2.1.expanded &&
        (!q.expanded || q.desc.layer = e.2.1.desc.layer)
      let distinct := decide (work.map fun x => (x.query, x.rb, x.headBlock)).Nodup &&
        decide (work.map fun x => (x.query, x.tile, x.headBlock)).Nodup
      let cost := w.passCost slot items
      if items.isEmpty || !same || !distinct || decide (4 < passBlocks items) || w.flag Reg.CL_FAULTED c ||
          w.n.qa.cur.state != .running || !w.inTime c cost || (items.any fun e => e.2.1.expanded && !w.segmentsReady c e.2.1.desc.layer) then w
      else
        let r := items.foldl (fun (a : Work × Nat) e =>
          match lookupN e.1.query a.1.n.qa.cur.queries with
          | some q =>
            let b := a.1.runItem slot c e.1 q e.2.2.1 e.2.2.2
            (b.1, a.2 + b.2)
          | none => a) (w, 0)
        let w := (r.1.count Reg.CL_PASSES 1 c).count Reg.CL_SAT_CNT r.2 c
        let old := items.map fun e => (e.1.query, e.2.1.stateOf slot e.1)
        let w := { w with n.cl.busy := bumpN c cost w.n.cl.busy
                          n.cl.lastPass := insertN c { slot := slot, start := w.spentOn c, old := old } w.n.cl.lastPass
                          n.cl.spent := insertN c (w.spentOn c + w.passTime cost) w.n.cl.spent
                          n.cl.inArrays := insertN slot (work.map fun x : PassItem => (x.query, x.rb, x.headBlock)) w.n.cl.inArrays }
        let w := (work.map (·.query)).dedup.foldl (fun w k =>
          match lookupN k w.n.qa.cur.queries with
          | some q => if q.slotDone w.n.qa.cur.tiles slot then w.offerResult k slot else w
          | none => w) w
        w.drainEarly
    | _, _ => w

end Sys2Proof.Machine
end

