-- ==== Sys2Proof/Machine/Fec.lean ====
section
/-!
DEFINITION. Sys2Proof/Machine/Fec.lean: the line code of the Askius link (R241, R242): the Reed-Solomon code RS(544,514) over
GF(2^10), the slots of a codeword, and the alignment blocks of R245. R241 names the code of IEEE 802.3; its field
(x^10 + x^3 + 1), its generator (roots 1, x to x^29) and its symbol order (first symbol, highest power) are taken from there
(PRESUMED, log 133). A symbol is a number below 1,024; a polynomial lists its coefficients from the constant up.
-/

namespace Sys2Proof.Machine

open Sys2Proof.Crypto (beVal beBytes)

/-! ## The field GF(2^10) -/

/-- Multiply by x: x^10 is x^3 + 1. -/
def gfTwice (a : Nat) : Nat := if a < 512 then 2 * a else (2 * a - 1024) ^^^ 9

/-- The product of two symbols, one bit of the second at a time. -/
def gfMul (a b : Nat) : Nat :=
  if a = 0 ∨ b = 0 then 0
  else ((List.range 10).foldl (fun (r : Nat × Nat) i => (if b.testBit i then r.1 ^^^ r.2 else r.1, gfTwice r.2)) (0, a)).1

/-- x to the n. -/
def gfExp (n : Nat) : Nat := (List.range (n % 1023)).foldl (fun a _ => gfTwice a) 1

/-- The inverse: a to the 1,022nd, which is a^2 · a^4 · … · a^512. -/
def gfInv (a : Nat) : Nat :=
  ((List.range 9).foldl (fun (r : Nat × Nat) _ => let s := gfMul r.2 r.2; (gfMul r.1 s, s)) (1, a)).1

/-- The sum of two polynomials. -/
def polyAdd : List Nat → List Nat → List Nat
  | [], q => q
  | p, [] => p
  | a :: p, b :: q => (a ^^^ b) :: polyAdd p q

/-- A polynomial times a symbol, and its value at one. -/
def polyScale (c : Nat) (p : List Nat) : List Nat := p.map (gfMul c)
def polyAt (p : List Nat) (x : Nat) : Nat := p.foldr (fun a v => a ^^^ gfMul x v) 0

/-! ## RS(544,514) (R241) -/

/-- The generator polynomial, of degree 30. -/
def rsGenerator : List Nat := (List.range 30).foldl (fun g i => polyAdd (0 :: g) (polyScale (gfExp i) g)) [1]

/-- The 30 parity symbols of 514 data symbols: the rest of the division by the generator, highest power first. -/
def rsParity (data : List Nat) : List Nat :=
  let g := (rsGenerator.take 30).reverse
  data.foldl (fun rest s =>
    let lead := s ^^^ rest.headD 0
    if lead = 0 then rest.drop 1 ++ [0] else polyAdd (rest.drop 1 ++ [0]) (polyScale lead g)) (List.replicate 30 0)

/-- A codeword: the data, then the parity. -/
def rsEncode (data : List Nat) : List Nat := data ++ rsParity data

/-- The syndromes of a received word: its values at the roots of the generator. -/
def rsSyndromes (word : List Nat) : List Nat :=
  (List.range 30).map fun i => let x := gfExp i; word.foldl (fun v s => gfMul v x ^^^ s) 0

/-- The search for the shortest recurrence of the syndromes: locator, the locator before its last growth with the discrepancy
that made it grow, its length, and the steps since. -/
structure Locator where
  now : List Nat
  before : List Nat
  lead : Nat
  len : Nat
  gap : Nat

/-- One syndrome more. -/
def Locator.next (syn : List Nat) (l : Locator) (n : Nat) : Locator :=
  let d := (List.range (l.len + 1)).foldl (fun v i => v ^^^ gfMul (atD l.now i 0) (atD syn (n - i) 0)) 0
  if d = 0 then { l with gap := l.gap + 1 }
  else
    let grown := polyAdd l.now (List.replicate l.gap 0 ++ polyScale (gfMul d (gfInv l.lead)) l.before)
    if 2 * l.len ≤ n then { now := grown, before := l.now, lead := d, len := n + 1 - l.len, gap := 1 }
    else { l with now := grown, gap := l.gap + 1 }

/-- The errors of a received word, by place and value, when at most 15 symbols explain its syndromes. -/
def rsErrors (word : List Nat) : Option (List (Nat × Nat)) :=
  let syn := rsSyndromes word
  let l := (List.range 30).foldl (Locator.next syn) { now := [1], before := [1], lead := 1, len := 0, gap := 1 }
  if 15 < l.len then none
  else
    let value := (List.range 30).map fun n => (List.range (n + 1)).foldl (fun v i => v ^^^ gfMul (atD l.now i 0) (atD syn (n - i) 0)) 0
    let slope := l.now.mapIdx fun i c => if i % 2 = 1 then c else 0
    let found := (List.range 544).filterMap fun place =>
      let x := gfExp (543 - place)
      let y := gfInv x
      if polyAt l.now y = 0 then some (place, gfMul x (gfMul (polyAt value y) (gfInv (polyAt (slope.drop 1) y)))) else none
    if found.length = l.len then some found else none

/-- The data of a received word, with the places that were corrected; none if it cannot be corrected (R241, R247): what comes out
is a codeword that differs in at most 15 symbols. -/
def rsDecode (word : List Nat) : Option (List Nat × List Nat) :=
  let whole := fun w : List Nat => rsParity (w.take 514) == w.drop 514
  if whole word then some (word.take 514, [])
  else match rsErrors word with
    | none => none
    | some es =>
      let mended := es.foldl (fun w e => w.modify e.1 (· ^^^ e.2)) word
      if whole mended then some (mended.take 514, es.map (·.1)) else none

/-! ## Slots (R242) -/

/-- A slot as a number: its tag, then its flit, most significant bit first. -/
def slotValue (s : Slot) : Nat := s.tag % 4 * 2 ^ 512 + beVal (padTo 64 s.flit)

/-- The data symbols of ten slots. -/
def slotSymbols (slots : List Slot) : List Nat :=
  let v := slots.foldl (fun v s => v * 2 ^ 514 + slotValue s) 0
  (List.range 514).map fun i => v / 1024 ^ (513 - i) % 1024

/-- The ten slots of 514 data symbols. -/
def symbolSlots (data : List Nat) : List Slot :=
  let v := data.foldl (fun v s => v * 1024 + s) 0
  (List.range 10).map fun k =>
    let x := v / 2 ^ (514 * (9 - k)) % 2 ^ 514
    { tag := x / 2 ^ 512, flit := beBytes 64 (x % 2 ^ 512) }

/-- The symbols of a codeword by logical lane: symbol i on lane i mod n. -/
def laneSymbols (n : Nat) (word : List Nat) : LaneWord :=
  (List.range n).map fun l => (List.range (544 / n)).map fun i => atD word (i * n + l) 0

/-- A codeword from its logical lanes; none if a lane lacks its share or holds what is no symbol. -/
def wordOfLanes (lanes : LaneWord) : Option (List Nat) :=
  let n := lanes.length
  if lanes.all fun l => l.length = 544 / n && l.all (· < 1024) then
    some ((List.range 544).map fun i => atD (atD lanes (i % n) []) (i / n) 0)
  else none

/-- A control flit in its slot, and an idle slot. -/
def ctrlSlot (bs : Bytes) : Slot := { tag := 3, flit := padTo 64 bs }
def idleSlot : Slot := { tag := 0, flit := List.replicate 64 0 }

/-- The flits that follow in a unit: its slots are tagged 10; control and idle slots may fall between; a slot tagged 01 ends it. -/
def nextFlits : List Slot → List Bytes
  | [] => []
  | s :: r => if s.tag = 1 then [] else if s.tag = 2 then s.flit :: nextFlits r else nextFlits r

/-! ## Alignment blocks (R245) -/

/-- The block carries the pattern. -/
def blockSound (b : AlignBlock) : Bool := b.pattern = Config.alignPattern % 2 ^ 64

/-- The lane of the receiver on which each of some logical lanes arrives, if the blocks show all of them within 80 ns of each
other (R245, R252). -/
def deskew (lanes : List Nat) (seen : List (Option (AlignBlock × Int))) : Option (List (Nat × Nat)) :=
  let at_ := fun l : Nat => seen.findIdx? fun e => match e with
    | some (b, _) => blockSound b && b.logical = some l
    | none => false
  let when_ := lanes.filterMap fun l => (at_ l).bind fun i => (seen[i]?).join.map (·.2)
  let near := when_.all fun a => when_.all fun b => decide (a - b ≤ 80000)
  if near then (lanes.mapM fun l => (at_ l).map fun i => (l, i)) else none

end Sys2Proof.Machine
end

