-- ==== Sys2Proof/Machine/Links.lean ====
section
/-!
DEFINITION. Sys2Proof/Machine/Links.lean: the Askius link (R238 to R259, R268) and lane margins (R432). Commands LP_ENABLE,
LP_RETRAIN, FORCE_SWAP, LANE_SIGNAL_DETECT, LANES_CONVERGED, TRAIN_TIMEOUT, LANES_DESKEWED, HELLO_TIMER, HELLO_TIMEOUT,
HARD_LANE_FAILURE, ALIGNMENT_ROUND, SWAP_REQ, SWAP_ACK, LINK_UNIT_RECEIVED, CODEWORD_UNCORRECTABLE, CREDIT, LANE_SCAN.
-/

namespace Sys2Proof.Machine

open Sys2Proof.Crypto (crc32c beVal beBytes)

/-! ## Halves -/

/-- A half of a port (R240); an undivided port is half A. -/
def Work.half (w : Work) (p h : Nat) : Half := atD w.n.lk.halves (2 * p + h) (Half.reset p h)

/-- Change a half. -/
def Work.modHalf (w : Work) (p h : Nat) (f : Half → Half) : Work :=
  { w with n.lk.halves := w.n.lk.halves.modify (2 * p + h) f }

/-- The register field of a half's state (R252). -/
def stateFld (h : Nat) : Fld := if h = 0 then Reg.LP_STATE_A else Reg.LP_STATE_B

/-- State of a half: 0 Disabled, 1 Detect, 2 Train, 3 Align, 4 Hello, 5 Up, 6 Recover, 7 isolated. -/
def Work.portState (w : Work) (p h : Nat) : Nat := w.get (stateFld h) p

/-- The half exists: A always, B on a split port. -/
def Work.hasHalf (w : Work) (p h : Nat) : Bool := decide (p < 32) && (h = 0 || (h = 1 && w.flag Reg.LP_SPLIT p))

/-- The halves of a port. -/
def Work.halvesOf (w : Work) (p : Nat) : List Nat := if w.flag Reg.LP_SPLIT p then [0, 1] else [0]

/-- The half is Up or in Recover. -/
def Work.portLive (w : Work) (p h : Nat) : Bool := w.portState p h = 5 || w.portState p h = 6

/-- The half that carries a logical lane. -/
def Work.laneHalf (w : Work) (p lane : Nat) : Nat := if w.flag Reg.LP_SPLIT p ∧ 4 ≤ lane then 1 else 0

/-- Move a half to a state: DOWN gains when it leaves Up or Recover (R491); packets queued on a half that leaves Up are lost
(spec/11, events). -/
def Work.setPort (w : Work) (p h v : Nat) : Work :=
  let live := w.portLive p h
  let w := if w.portState p h = 5 ∧ v ≠ 5 then
    { w with n.sc.portQ := eraseN (2 * p + h) w.n.sc.portQ, n.sc.portDeficit := w.n.sc.portDeficit.filter fun d => d.1 / 4 != 2 * p + h } else w
  let w := w.set (stateFld h) v p
  let w := if v ≤ 1 then w.modHalf p h fun x => { x with dark := [] } else w
  let w := if live ∧ v ≠ 5 ∧ v ≠ 6 then w.isr (0x50 + p) 16 else w
  w.setReady (0x50 + p) (w.portLive p 0 || w.portLive p 1)

/-- Flits of a class buffer (R256). -/
def Work.fullCredits (w : Work) (p c : Nat) : Nat := (if c = 0 then 256 else 2048) / (if w.flag Reg.LP_SPLIT p then 2 else 1)

/-! ## Control flits -/

/-- The logical lanes of a half (R240). -/
def Work.lanesOf (w : Work) (p h : Nat) : List Nat := (List.range 8).filter fun l => w.laneHalf p l = h

/-- The physical lane on which a half sends a logical lane (R239, R249). -/
def Half.sendLane (x : Half) (l : Nat) : Nat := if x.txSpare = some l then 8 else l

/-- The logical lane that arrives on a physical lane of a port; none on a free spare and on a lane that the spare replaces (R249). -/
def Work.logicalOf (w : Work) (p lane : Nat) : Option Nat :=
  (List.range 8).find? fun l => atD (w.half p (w.laneHalf p l)).order l 9 = lane

/-- The codewords that carry some slots (R241, R242): ten slots to each, the last filled with idle slots, each with its parity, and each as
the symbols that the nine physical lanes of the port carry. -/
def Work.codewords (w : Work) (p h : Nat) (slots : List Slot) : List LaneWord :=
  let lanes := w.lanesOf p h
  let x := w.half p h
  (List.range (ceilDiv slots.length 10)).map fun k =>
    let ten := (slots ++ List.replicate 9 idleSlot).drop (10 * k) |>.take 10
    let share := laneSymbols lanes.length (rsEncode (slotSymbols ten))
    (List.range 9).map fun wire => match lanes.findIdx? fun l => x.sendLane l = wire with
      | some i => atD share i []
      | none => []

/-- Send slots on a half. -/
def Work.sendSlots (w : Work) (p h : Nat) (slots : List Slot) : Work := w.emit (.linkSlots p h slots (w.codewords p h slots))

/-- Send a control flit in a slot of its own (R242; control flits need no credit, R256). -/
def Work.ctrlFlit (w : Work) (p h : Nat) (bs : Bytes) : Work := w.sendSlots p h [ctrlSlot bs]

/-- Big-endian field of a flit. -/
def beAt (b : Bytes) (off n : Nat) : Nat := beVal (sliceAt b off n)

/-- A control flit of a TYPE this chapter does not define is counted and ignored (R255). -/
def Work.flitCheck (w : Work) (p : Nat) (flit : Bytes) (type : Nat) (act : Work → Work) : Work :=
  let t := fieldAt flit 0 1
  if t = 0 ∨ 5 < t then w.count Reg.LP_CTRL_BAD 1 p
  else if t = type ∧ flit.length = 64 then act w
  else w

/-- A HELLO without its TICK_NOW (R255). -/
def Work.helloBody (w : Work) (p h : Nat) : Bytes :=
  let bit := fun (f : Bool) (v : Nat) => if f then v else 0
  let master := w.actFlag Reg.TICK_MASTER
  let tick := w.get Reg.TICK_LOCK + bit master 4 + bit (w.flag Reg.TICK_SRC_IN) 8 + (if master then 0 else w.get Reg.TICK_HOPS * 16)
  beBytes 1 1 ++ beBytes 1 1 ++ beBytes 2 w.nodeId ++ beBytes 4 (w.get Reg.GLB_FABRIC_ID) ++
    beBytes 1 (p + h * 32 + bit (w.flag Reg.LP_SPLIT p) 64) ++ beBytes 1 w.nodeState ++ beBytes 1 tick ++
    beBytes 1 (w.get Reg.LP_RATE64 p + bit (w.get Reg.LP_SPARE_FOR p != 15) 2) ++ beBytes 2 (w.get Reg.TICK_PERIOD) ++ beBytes 2 0

/-- Send HELLO on a half. -/
def Work.sendHello (w : Work) (p h : Nat) : Work :=
  let body := w.helloBody p h
  (w.modHalf p h fun x => { x with helloSent := body }).ctrlFlit p h (body ++ beBytes 8 w.now.toNat)

/-- Send HELLO on the half if a field has changed since the last (R255). -/
def Work.helloIfChanged (w : Work) (p h : Nat) : Work :=
  if (w.portLive p h || w.portState p h = 4 || w.portState p h = 7) && (w.half p h).helloSent != w.helloBody p h then w.sendHello p h
  else w

/-- Send a CREDIT flit (R257, R258). -/
def Work.sendCredit (w : Work) (p h : Nat) : Work :=
  let x := w.half p h
  w.ctrlFlit p h (beBytes 1 2 ++ beBytes 3 0 ++ (x.freed.map fun v => beBytes 2 (v % 65536)).flatten ++
    (x.sent.map fun v => beBytes 2 (v % 65536)).flatten)

/-! ## Training -/

/-- The operator has written NODE_ID and FABRIC_ID and has set LOCK (R452); NODE_ID is 0xFFFF until it is written. -/
def Work.idsGiven (w : Work) : Bool := w.flag Reg.GLB_IDS_LOCKED && w.nodeId != 0xFFFF && w.n.bo.fabricSet

/-- The port may train now: enabled, the identity given, and REH or full service reached (R254, R452). -/
def Work.mayTrain (w : Work) (p : Nat) : Bool :=
  w.flag Reg.LP_EN p && w.idsGiven && (w.flag Reg.LP_REH p || w.flag Reg.GLB_EVER_FULL)

/-- The lane rate of a port that starts or retrains: 64 Gbit/s until the node first enters Full (R238, R452). -/
def Work.setRate (w : Work) (p : Nat) : Work := w.set Reg.LP_RATE64 (if w.flag Reg.GLB_EVER_FULL then 0 else 1) p

/-- A half that waits Disabled begins to detect signal (R252, R254). -/
def Work.startPort (w : Work) (p : Nat) : Work :=
  if !w.mayTrain p then w
  else (w.halvesOf p).foldl (fun w h =>
    if w.portState p h = 0 then (w.setRate p).setPort p h 1 else w) w

/-- Show whether any port runs on its spare lane. -/
def Work.showLaneSpare (w : Work) (p : Nat) : Work :=
  let w := w.setSpareInUse (0x50 + p) (w.get Reg.LP_SPARE_FOR p != 15)
  w.setFlag Reg.GLB_LANE_SPARE_ANY ((List.range 32).any fun q => w.get Reg.LP_SPARE_FOR q != 15)

/-- Retrain a port (R251, R252): the spare is released, credits cleared, markers valid again. -/
def Work.retrain (w : Work) (p : Nat) : Work :=
  let w := ((w.set Reg.LP_SPARE_FOR 15 p).set Reg.LP_SPARE_HALF 0 p).set Reg.LP_MARK_BAD 0 p
  let w := (w.showLaneSpare p).setRate p
  (w.halvesOf p).foldl (fun w h =>
    let w := w.modHalf p h fun x =>
      { x with swap := none, order := List.range 8, txSpare := none, failed := false, avail := [0, 0, 0, 0], rxQ := [] }
    if w.mayTrain p || w.portState p h != 0 then w.setPort p h 1 else w) w

/-- A half goes down to Detect (R251, R252, R508): an event, with the units in flight lost. Cause 3 is a lost SERDESCLK; the
spec numbers no other cause, which is a free value of 0 to 2 (log 29). -/
def Work.dropPort (w : Work) (p h : Nat) (cause : Option Nat) : Work :=
  let (c, w) := match cause with
    | some c => (c, w)
    | none => let d := w.draw; (d.1 % 3, d.2)
  let peer := (w.half p h).peerNode
  let w := (w.modHalf p h fun x => { x with swap := none, rxQ := [] }).setPort p h 1
  w.report { code := 0x4702, page := 0x50 + p, arg := peer, detail := p + h * 32 + c * 64 }

/-- A half enters Up (R252, R258, R260): credits full, markers start. -/
def Work.enterUp (w : Work) (p h : Nat) : Work :=
  let full := (List.range 4).map (w.fullCredits p)
  let z := [0, 0, 0, 0]
  let w := w.modHalf p h fun x => { x with avail := full, sent := z, freedSeen := z, freed := z, rxCount := z, rxQ := []
                                           mark := none, prevMark := none, markSeen := true, missed := 0
                                           swap := none, failed := false }
  w.setPort p h 5

/-- In Full state a die's Rehearsal ports retrain at full rate, one at a time, each once every other port of the die that may train is
Up or has failed training (R254). -/
def Work.rehRetrain (w : Work) (die : Nat) : Work :=
  let ports := (List.range 16).map (die * 16 + ·)
  let slow := ports.filter fun p => w.flag Reg.LP_REH p && w.flag Reg.LP_RATE64 p
  let settled := fun p => !w.mayTrain p || (w.halvesOf p).all fun h => w.portState p h = 5 || (w.half p h).failed
  match slow.find? fun p => ports.all fun q => q = p || settled q with
  | some p => if w.isFull then w.retrain p else w
  | none => w

/-! ## The spare lane -/

/-- The spare lane of a port is free and no swap is under way. -/
def Work.laneSpareFree (w : Work) (p : Nat) : Bool :=
  w.get Reg.LP_SPARE_FOR p = 15 && (w.half p 0).swap.isNone && (w.half p 1).swap.isNone

/-- The receiver asks for a swap of a logical lane (R248 to R251); `must` marks the requests that find no spare to be a failure:
a hard one, and one that the operator forces. -/
def Work.askSwap (w : Work) (p lane : Nat) (hard must : Bool) : Work :=
  let h := w.laneHalf p lane
  if !w.portLive p h then w
  else if w.laneSpareFree p then
    if w.flag Reg.GLB_LANE_SPARE_EN then
      let w := w.modHalf p h fun x => { x with swap := some { lane := lane, hard := hard, atRound := none, tx := false } }
      let w := w.ctrlFlit p h (beBytes 1 4 ++ beBytes 1 lane ++ beBytes 1 h)
      if hard then w.setPort p h 6 else w
    else if hard then w.dropPort p h none else w
  else if must then w.dropPort p h none else w

/-- A swap begins at its round (R249, R251): the spare carries the lane, or the swap is abandoned if the spare does not converge. -/
def Work.takeSwap (w : Work) (p h : Nat) (sw : LaneSwap) (spareOk : Bool) : Work :=
  let w := w.modHalf p h fun x => { x with swap := none }
  if !spareOk then
    let w := w.log { code := 0x4703, page := 0x50 + p, detail := p }
    if sw.hard && !sw.tx then w.dropPort p h none else w
  else
    let w := w.modHalf p h fun x =>
      if sw.tx then { x with txSpare := some sw.lane } else { x with order := x.order.set sw.lane 8 }
    let w := ((w.set Reg.LP_SPARE_FOR sw.lane p).set Reg.LP_SPARE_HALF h p).count Reg.LP_SWAPS 1 p
    let w := (w.showLaneSpare p).isr (0x50 + p) 17
    let w := w.log { code := 0x4107, page := 0x50 + p, detail := p + h * 256 + sw.lane * 512 + (if sw.hard then 4096 else 0) }
    if !sw.tx ∧ w.portState p h = 6 then w.setPort p h 5 else w

/-! ## Commands of LP_CTRL (R240, R251, R252, R268) -/

/-- A write of LP_CTRL with all it asks. -/
def Work.lpCtrlWrite (w : Work) (wr : RegWr) : Work :=
  let was := w.flag Reg.LP_EN (w.instOf wr)
  w.regAction wr .LP [0x100] fun w p _ =>
    let on := w.flag Reg.LP_EN p
    let idle := fun x : Half => { x with swap := none, failed := false }
    let w := if was && !on then (((w.modHalf p 0 idle).modHalf p 1 idle).setPort p 0 0).setPort p 1 0 else w
    let w := if on then w.startPort p else w
    let w := if wrote1 wr Reg.LP_RETRAIN then w.retrain p else w
    if wrote1 wr Reg.LP_FORCE_SWAP then w.askSwap p (w.get Reg.LP_SWAP_LANE p) false true else w

/-- `LP_ENABLE` (R252): EN set takes the port to Detect, EN cleared to Disabled. A write of SWAP_LANE alone lands here too. -/
def execLpEnable (wr : RegWr) (s : State) : Host.Outcome State Fault Refusal :=
  run s fun w => if fieldEnabled wr Reg.LP_EN || fieldEnabled wr Reg.LP_SWAP_LANE then w.lpCtrlWrite wr else w

/-- `LP_RETRAIN` (R251, R252). -/
def execLpRetrain (wr : RegWr) (s : State) : Host.Outcome State Fault Refusal :=
  run s fun w => if wrote1 wr Reg.LP_RETRAIN then w.lpCtrlWrite wr else w

/-- `FORCE_SWAP` (R248, R251). -/
def execForceSwap (wr : RegWr) (s : State) : Host.Outcome State Fault Refusal :=
  run s fun w => if wrote1 wr Reg.LP_FORCE_SWAP then w.lpCtrlWrite wr else w

/-! ## Training events (R239, R252) -/

/-- `LANE_SIGNAL_DETECT`: signal on 8 of 9 lanes, or 4 of a half's 5, with the port's reference clock present. A training begins; one
that follows a training without convergence was counted when that ended (R252, R268; DEDUCED, log 82). -/
def execLaneSignalDetect (port half lanes : Nat) (s : State) : Host.Outcome State Fault Refusal :=
  run s fun w =>
    let need := if w.flag Reg.LP_SPLIT port then 4 else 8
    if w.hasHalf port half && w.portState port half = 1 && decide (need ≤ lanes) && w.mayTrain port &&
        atD w.n.bo.serdesClk (port / 8) false then
      (if (w.half port half).failed then w else w.count Reg.LP_RETRAINS 1 port).setPort port half 2
    else w

/-- `LANES_CONVERGED`: the spare replaces the one lane that did not converge, if the spare is free. -/
def execLanesConverged (port half : Nat) (failed : Option Nat) (s : State) : Host.Outcome State Fault Refusal :=
  run s fun w =>
    if !w.hasHalf port half || w.portState port half != 2 then w
    else match failed with
      | none => w.setPort port half 3
      | some l =>
        let w := w.modHalf port half fun x => { x with dark := [l] }
        if l = 8 ∧ w.get Reg.LP_SPARE_FOR port = 15 then w.setPort port half 3
        else if l = w.get Reg.LP_SPARE_FOR port then w.setPort port half 3
        else if l < 8 ∧ w.laneHalf port l = half ∧ w.laneSpareFree port then
          let w := (w.set Reg.LP_SPARE_FOR l port).set Reg.LP_SPARE_HALF half port
          (w.showLaneSpare port).setPort port half 3
        else w

/-- `TRAIN_TIMEOUT`: counted, and back to Detect. -/
def execTrainTimeout (port half : Nat) (s : State) : Host.Outcome State Fault Refusal :=
  run s fun w =>
    if w.hasHalf port half && w.portState port half = 2 then
      let w := (w.modHalf port half fun x => { x with failed := true }).count Reg.LP_RETRAINS 1 port
      (w.setPort port half 1).rehRetrain (port / 16)
    else w

/-- `LANES_DESKEWED` (R245, R252): every lane of the half has shown its alignment block, within 80 ns of each other; the half takes their
order, sends HELLO and waits for the peer's. -/
def execLanesDeskewed (port : Nat) (seen : SeenBlocks) (s : State) : Host.Outcome State Fault Refusal :=
  run s fun w =>
    let half := seen.half
    match deskew (w.lanesOf port half) seen.lanes with
    | some order =>
      if w.hasHalf port half && w.portState port half = 3 then
        let w := w.modHalf port half fun x => { x with order := order.foldl (fun l e => l.set e.1 e.2) x.order }
        (w.setPort port half 4).sendHello port half
      else w
    | none => w

/-- `HELLO_TIMER` (R255): every 1 ms a half in Hello, isolated, Up or Recover sends HELLO. -/
def execHelloTimer (port half : Nat) (s : State) : Host.Outcome State Fault Refusal :=
  run s fun w => if w.hasHalf port half && decide (4 ≤ w.portState port half) then w.sendHello port half else w

/-- `HELLO_TIMEOUT` (R252): no HELLO for 4 ms. -/
def execHelloTimeout (port half : Nat) (s : State) : Host.Outcome State Fault Refusal :=
  run s fun w => if w.hasHalf port half && w.portLive port half then w.dropPort port half none else w

/-! ## Lanes in service -/

/-- `HARD_LANE_FAILURE` (R248, R250, R251): the failed physical lane; one that carries no data changes nothing. -/
def execHardLaneFailure (port lane : Nat) (s : State) : Host.Outcome State Fault Refusal :=
  run s fun w =>
    match w.logicalOf port lane with
    | some l =>
      if port < 32 then
        let h := w.laneHalf port l
        (w.modHalf port h fun x => { x with dark := if x.dark.contains lane then x.dark else x.dark ++ [lane] }).askSwap port l true true
      else w
    | none => w

/-- The lane for which a receiver asks a soft swap after an alignment period (R248). -/
def Work.softSwap (w : Work) (p : Nat) (x : Half) (corrected : List Nat) : Option Nat :=
  let by_ser := (List.range 8).find? fun l => w.get Reg.LP_SER_LIMIT p ≤ atD corrected l 0 && w.laneHalf p l = x.half
  let worst := (List.range 8).find? fun l => decide (x.uncorr < 2 * atD x.uncorrLane l 0)
  let by_uc := if w.get Reg.LP_UC_LIMIT p ≤ x.uncorr then worst else none
  by_ser.orElse fun _ => by_uc

/-- The round counter that a half's blocks carry; one more than the last if none is sound (log 133). -/
def Work.roundOf (w : Work) (p h : Nat) (blocks : List AlignBlock) : Nat :=
  match blocks.find? fun b => blockSound b && (w.lanesOf p h).any fun l => b.logical = some l with
  | some b => b.round % 256
  | none => ((w.half p h).round + 1) % 256

/-- The blocks that a half sends in a round (R245): one on each of its lanes, and the free spare's own with half A's. -/
def Work.blocksOf (w : Work) (p h : Nat) : List AlignBlock :=
  let x := w.half p h
  let block := fun (l : Option Nat) (lane : Nat) =>
    ({ pattern := Config.alignPattern % 2 ^ 64, logical := l, physical := lane, port := p, half := h, round := x.txRound } : AlignBlock)
  let free := h = 0 ∧ (w.halvesOf p).all fun k => (w.half p k).txSpare.isNone
  ((w.lanesOf p h).map fun l => block (some l) (x.sendLane l)) ++ if free then [block none 8] else []

/-- An alignment period ends (R432): what it corrected joins the last 10 s. -/
def Work.endPeriod (w : Work) (p h good : Nat) (corrected : List Nat) : Work :=
  w.modHalf p h fun x =>
    { x with periods := (x.periods.filter fun e => w.ps < e.1 + 10 ^ 13) ++ [(w.ps, good, corrected.take 8)] }

/-- `ALIGNMENT_ROUND` (R245, R248, R249): a half whose lanes are not idle reads and sends blocks; on one in service the period's errors are
counted and assessed, and a swap named for this round begins, at the receiver by the counter received and at the transmitter by the one
sent. How many codewords held the corrected symbols is a free value within what the symbols allow (log 30). -/
def execAlignmentRound (port half : Nat) (blocks : List AlignBlock) (corrected : List Nat) (spareOk : Bool) (s : State) :
    Host.Outcome State Fault Refusal :=
  run s fun w =>
    let x := w.half port half
    let round := w.roundOf port half blocks
    let sent := (x.txRound + 1) % 256
    if !w.hasHalf port half || w.portState port half = 0 then w
    else if !w.portLive port half then
      let w := w.modHalf port half fun x => { x with round := round, txRound := sent }
      w.emit (.alignBlocks port half (w.blocksOf port half))
    else
      let total := (corrected.take 9).foldl (· + ·) 0
      let w := w.count Reg.LP_CW_RX (16383 - x.uncorr) port
      let lo := ceilDiv total 15
      let hi := min total (16383 - x.uncorr)
      let d := w.draw
      let w := (d.2.count Reg.LP_SYM_CORRECTED total port).count Reg.LP_CW_CORRECTED (lo + d.1 % (hi + 1 - lo)) port
      let w := (w.endPeriod port half (16383 - x.uncorr) corrected).modHalf port half fun x =>
        { x with round := round, txRound := sent, uncorr := 0, uncorrLane := List.replicate 9 0 }
      let w := match x.swap with
        | some sw => if sw.atRound = some (if sw.tx then sent else round) then w.takeSwap port half sw spareOk else w
        | none => w
      let w := w.emit (.alignBlocks port half (w.blocksOf port half))
      if w.laneSpareFree port ∧ w.portState port half = 5 then
        match w.softSwap port x corrected with
        | some l => w.askSwap port l false false
        | none => w
      else w

/-- `SWAP_REQ` (R249, R251): the transmitter answers with the next round, or fails for want of a spare. -/
def execSwapReq (port half : Nat) (flit : Bytes) (s : State) : Host.Outcome State Fault Refusal :=
  run s fun w =>
    if !w.hasHalf port half || !w.portLive port half then w
    else w.flitCheck port flit 4 fun w =>
      let lane := fieldAt flit 1 1
      let x := w.half port half
      let again := match x.swap with
        | some sw => sw.tx && sw.lane = lane
        | none => false
      if 8 ≤ lane ∨ w.laneHalf port lane ≠ half then w
      else if w.laneSpareFree port || again then
        let next := (x.txRound + 1) % 256
        let w := w.modHalf port half fun x => { x with swap := some { lane := lane, hard := false, atRound := some next, tx := true } }
        w.ctrlFlit port half (beBytes 1 5 ++ beBytes 1 lane ++ beBytes 1 half ++ beBytes 1 next)
      else w.dropPort port half none

/-- `SWAP_ACK` (R249): the receiver takes the lane from the spare at the named round. -/
def execSwapAck (port half : Nat) (flit : Bytes) (s : State) : Host.Outcome State Fault Refusal :=
  run s fun w =>
    if !w.hasHalf port half || !w.portLive port half then w
    else w.flitCheck port flit 5 fun w => w.modHalf port half fun x =>
      match x.swap with
      | some sw => if !sw.tx ∧ sw.lane = fieldAt flit 1 1 then { x with swap := some { sw with atRound := some (fieldAt flit 3 1) } } else x
      | none => x

/-! ## Units and credits -/

/-- Flits of a unit that carries a packet (R243). -/
def unitFlits (packet : Bytes) : Nat := ceilDiv (packet.length + 8) 64

/-- A unit as bytes: prefix, packet, CRC, padding (R243). -/
def unitBytes (cls : Nat) (packet : Bytes) : Bytes :=
  let b := beBytes 4 (packet.length + cls * 8192) ++ packet
  padTo 64 (b ++ beBytes 4 (crc32c b).toNat)

/-- Take a unit apart: its class and packet, or none when R243 drops it. -/
def unitOf (b : Bytes) : Option (Nat × Bytes) :=
  let v := beAt b 0 4
  let len := v % 8192
  if v / 32768 = 0 ∧ 1 ≤ len ∧ len ≤ 4208 ∧ b.length = ceilDiv (len + 8) 64 * 64 ∧
      beAt b (4 + len) 4 = (crc32c (b.take (4 + len))).toNat then some (v / 8192, sliceAt b 4 len)
  else none

/-- The slots of a unit (R242, R243): the first flit tagged 01, the others 10. -/
def unitSlots (cls : Nat) (packet : Bytes) : List Slot :=
  let b := unitBytes cls packet
  (List.range (b.length / 64)).map fun i => { tag := if i = 0 then 1 else 2, flit := sliceAt b (64 * i) 64 }

/-- The codeword that a half takes from the nine physical lanes of its port (R242, R249); none if a lane brings no symbols. -/
def Work.rxWord (w : Work) (p h : Nat) (lanes : LaneWord) : Option (List Nat) :=
  wordOfLanes ((w.lanesOf p h).map fun l => atD lanes (atD (w.half p h).order l 9) [])

/-- The slots of a codeword received, corrected where the code can (R241). -/
def Work.rxSlots (w : Work) (p h : Nat) (lanes : LaneWord) : Option (List Slot) :=
  ((w.rxWord p h lanes).bind rsDecode).map fun d => symbolSlots d.1

/-- Add to one of four counts. -/
def addAt (c n : Nat) (l : List Nat) : List Nat := l.modify c (· + n)

/-- What stands in the slots from a unit's first on (R243): a packet with its class, or a unit that is dropped: it is not sound, or its
first slot is tagged 10 with no unit in progress. None where no unit begins. -/
def unitIn (slots : List Slot) : Option (Option (Nat × Bytes)) :=
  match slots with
  | [] => none
  | s :: r =>
    if s.tag = 1 then some (unitOf (s.flit ++ (nextFlits r).flatten)) else if s.tag = 2 then some none else none

/-- `LINK_UNIT_RECEIVED` (R243, R257): a sound unit's packet enters the receive buffer; any other is dropped and counted. A unit with a
flit in a codeword that cannot be corrected is counted with that codeword (R247). -/
def execLinkUnitReceived (port half : Nat) (words : List LaneWord) (first : Nat) (s : State) : Host.Outcome State Fault Refusal :=
  run s fun w =>
    if !w.hasHalf port half || w.portState port half != 5 then w
    else match (words.mapM (w.rxSlots port half)).bind fun l => unitIn (l.flatten.drop first) with
      | some (some (c, pkt)) => w.modHalf port half fun x =>
          { x with rxQ := x.rxQ ++ [(c, pkt)], rxCount := addAt c (unitFlits pkt) x.rxCount }
      | some none => w.count Reg.LP_UNITS_DROPPED 1 port
      | none => w

/-- A received packet leaves its buffer: its flits are freed and the peer is told (R257). -/
def Work.freeRx (w : Work) (p h : Nat) (pkt : Bytes) : Work :=
  match (w.half p h).rxQ.find? fun e => e.2 = pkt with
  | some e =>
    let w := w.modHalf p h fun x => { x with rxQ := x.rxQ.erase e, freed := addAt e.1 (unitFlits pkt) x.freed }
    if w.portLive p h then w.sendCredit p h else w
  | none => w

/-- The codeword has its symbols and more than 15 of them are wrong (R241). -/
def Work.uncorrectable (w : Work) (p h : Nat) (lanes : LaneWord) : Bool :=
  match w.rxWord p h lanes with
  | some word => (rsDecode word).isNone
  | none => false

/-- `CODEWORD_UNCORRECTABLE` (R247): discarded whole with every unit that has a flit in it, at most one in each of its ten slots. -/
def execCodewordUncorrectable (port half : Nat) (word : BadWord) (units : Nat) (s : State) : Host.Outcome State Fault Refusal :=
  run s fun w =>
    if !w.hasHalf port half || !w.portLive port half || !w.uncorrectable port half word.lanes then w
    else
      let units := min 10 units
      let w := ((w.count Reg.LP_CW_RX 1 port).count Reg.LP_CW_UNCORR 1 port).count Reg.LP_UNITS_DROPPED units port
      w.modHalf port half fun x => { x with uncorr := x.uncorr + 1, uncorrLane := addAt word.worst 1 x.uncorrLane }

/-- Difference of two counts modulo 2^16. -/
def countDiff (a b : Nat) : Nat := (a % 65536 + 65536 - b % 65536) % 65536

/-- `CREDIT` (R257, R258): freed flits return; flits lost on the way are freed and the received count set to SENT. -/
def execCreditFlit (port half : Nat) (flit : Bytes) (s : State) : Host.Outcome State Fault Refusal :=
  run s fun w =>
    if !w.hasHalf port half || !w.portLive port half then w
    else w.flitCheck port flit 2 fun w =>
      let x := w.half port half
      let freedIn := (List.range 4).map fun c => beAt flit (4 + 2 * c) 2
      let sentIn := (List.range 4).map fun c => beAt flit (12 + 2 * c) 2
      let lost := (List.range 4).map fun c => countDiff (atD sentIn c 0) (atD x.rxCount c 0)
      let w := w.modHalf port half fun x =>
        { x with avail := x.avail.mapIdx fun c v => v + countDiff (atD freedIn c 0) (atD x.freedSeen c 0)
                 freedSeen := freedIn, freed := x.freed.mapIdx fun c v => v + atD lost c 0, rxCount := sentIn }
      if lost.any (· != 0) then w.sendCredit port half else w

/-! ## Margins (R432) -/

/-- The symbols corrected on a logical lane over the last 10 s, and the symbols that it brought in the codewords that could be decoded. -/
def Work.serOf (w : Work) (p l : Nat) : Nat × Nat :=
  let h := w.laneHalf p l
  let now := (w.half p h).periods.filter fun e => w.ps < e.1 + 10 ^ 13
  let share := 544 / (w.lanesOf p h).length
  (now.foldl (fun v e => v + atD e.2.2 l 0) 0, now.foldl (fun v e => v + e.2.1 * share) 0)

/-- −100 × log₁₀ of c errors in n symbols, rounded down. -/
def berFloor (c n : Nat) : Nat := ((List.range 1200).takeWhile fun v => decide (10 ^ (v + 1) * c ^ 100 ≤ n ^ 100)).length

/-- BER_CL of a physical lane (R432): from the corrected symbols of the logical lane that it carries; 0 where none was measured. The spec
does not say how the figure is rounded: a free value of the two next to it (log 149). -/
def Work.berCl (w : Work) (p lane : Nat) : Nat × Work :=
  let (c, n) := match w.logicalOf p lane with
    | some l => w.serOf p l
    | none => (0, 0)
  let v := berFloor c n
  if c = 0 then (0, w) else if 10 ^ v * c ^ 100 = n ^ 100 then (v, w) else let d := w.draw; (v + d.1 % 2, d.2)

/-- `LANE_SCAN`: the eye of a physical lane; an active lane below a threshold is logged and asks for a swap (R248), a spare below it is
flagged, whichever lane of the port is selected. The error rate is the node's own figure, not the command's. -/
def execLaneScan (port lane v h _berCl : Nat) (s : State) : Host.Outcome State Fault Refusal :=
  run s fun w =>
    if 32 ≤ port ∨ 8 < lane ∨ ¬ w.flag Reg.MAR_LANE_EN then w
    else
      let i := port * 16 + lane
      let b := w.berCl port lane
      let w := ((b.2.set Reg.MAR_V v 0 i).set Reg.MAR_H h 0 i).set Reg.MAR_BER_CL b.1 0 i
      let weak := decide (v < w.get Reg.MAR_V_MV_104 ∨ h < w.get Reg.MAR_H_UI)
      match w.logicalOf port lane with
      | none =>
        if lane = 8 then (List.range 9).foldl (fun w l => w.setFlag Reg.MAR_SPARE_WEAK weak 0 (port * 16 + l)) w else w
      | some l =>
        if !weak then w
        else
          let w := (w.count Reg.MAR_LANE_EVENTS).log { code := 0x4704, page := 4, detail := port + lane * 32 }
          if w.laneSpareFree port then w.askSwap port l false false else w

end Sys2Proof.Machine
end

