-- ==== Sys2Proof/Machine/Copies.lean ====
section
/-!
DEFINITION. Sys2Proof/Machine/Copies.lean: mirror batches on the wire (R379, R380), what an understudy makes of them (R381 to
R383, R385), and how a copy becomes a session of its own at a takeover (R401 to R403).
-/

namespace Sys2Proof.Machine

open Sys2Proof.Crypto (beVal)

/-! ## Batches on the wire -/

/-- Field widths of the first 128 bytes of a tree record (R139). -/
def treeWidths : List Nat := [8, 8] ++ List.replicate 16 4 ++ [4, 1, 1, 2, 4, 4, 4, 4, 4] ++ List.replicate 20 1

/-- Field widths of a metadata record of a type and length (R379): every multi-byte field of it converts (R19). -/
def recWidths (type len : Nat) : List Nat :=
  [1, 1, 2] ++
  (if type = 1 then [1, 1, 1, 1, 8, 8, 4, 4, 4]
   else if type = 2 then [4, 1, 1, 1, 1, 4]
   else if type = 3 then [4, 1, 1, 1, 1, 4, 8, 8]
   else if type = 4 then [1, 1, 2, 8, 4]
   else if type = 5 then List.replicate 12 1 ++ treeWidths ++ (List.replicate ((len - 144) / 8) [4, 1, 1, 1, 1]).flatten
   else if type = 6 then [1, 1, 1, 1, 8, 4] ++ List.replicate 12 1 ++ List.replicate ((len - 32) / 4) 4
   else if type = 7 then [4, 4, 2, 2]
   else if type = 8 then [4, 8]
   else [])

/-- Cut a sequence of records apart, in memory form; `big` says that it comes from the wire. -/
def cutRecs (big : Bool) : Nat → Bytes → List Bytes
  | 0, _ => []
  | fuel + 1, b =>
    if b.length < 16 then []
    else
      let len := if big then beVal (sliceAt b 2 2) else fieldAt b 2 2
      if len < 16 ∨ len % 16 ≠ 0 then []
      else
        let r := b.take len
        (if big then swapFields (recWidths (fieldAt r 0 1) len) r else r) :: cutRecs big fuel (b.drop len)

/-- A record in wire form. -/
def recToWire (r : Bytes) : Bytes := swapFields (recWidths (fieldAt r 0 1) r.length) r

/-- Field widths of the batch header. -/
def batchFields : List Nat := [1, 1, 1, 1, 2, 2, 8, 4, 4, 4, 4, 4, 4, 4]

/-- A batch header (R379). -/
structure BatchHead where
  part : Nat
  flags : Nat
  src : Nat
  msgs : Nat
  tick : Nat
  gen : Nat
  seq : Nat
  firstMsn : Nat
  bytes : Nat
  records : Nat
  metaLen : Nat
  rows : Nat
  deriving DecidableEq, Repr

/-- The payload of a metadata message, in wire form, over records in memory form. -/
def BatchHead.message (h : BatchHead) (recs : List Bytes) : Bytes :=
  swapFields batchFields ([1#8] ++ leBytes 1 h.part ++ leBytes 1 h.flags ++ [0] ++ leBytes 2 h.src ++ leBytes 2 h.msgs ++
    leBytes 8 h.tick ++ leBytes 4 h.gen ++ leBytes 4 h.seq ++ leBytes 4 h.firstMsn ++ leBytes 4 h.bytes ++
    leBytes 4 h.records ++ leBytes 4 h.metaLen ++ leBytes 4 h.rows ++ List.replicate 20 0) ++ (recs.map recToWire).flatten

/-- Read a header from the wire; none when it is malformed. -/
def BatchHead.read (b : Bytes) : Option BatchHead :=
  let m := swapFields batchFields (b.take 64)
  let h : BatchHead :=
    { part := fieldAt m 1 1, flags := fieldAt m 2 1, src := fieldAt m 4 2, msgs := fieldAt m 6 2, tick := fieldAt m 8 8
      gen := fieldAt m 0x10 4, seq := fieldAt m 0x14 4, firstMsn := fieldAt m 0x18 4, bytes := fieldAt m 0x1C 4
      records := fieldAt m 0x20 4, metaLen := fieldAt m 0x24 4, rows := fieldAt m 0x28 4 }
  let recs := cutRecs true (b.length / 16) (b.drop 64)
  if b.length = 64 + h.metaLen ∧ fieldAt m 0 1 = 1 ∧ h.flags < 16 ∧ h.part < 64 ∧ h.msgs ≤ 255 ∧ h.tick < 2 ^ 48 ∧
     h.firstMsn < 2 ^ 24 ∧ zeroAt m 3 1 ∧ zeroAt m 0x2C 20 ∧ recs.length = h.records ∧
     (recs.map (·.length)).foldl (· + ·) 0 = h.metaLen then some h else none

/-- The blocks of a data message's payload, each with its offset; none when the lengths do not fit. -/
def batchBlocks : Nat → Nat → Bytes → Option (List (Nat × Bytes))
  | 0, _, b => if b.isEmpty then some [] else none
  | fuel + 1, off, b =>
    if b.isEmpty then some []
    else
      let n := (BlkHead.read b).stored
      if n < 32 ∨ b.length < n then none
      else (batchBlocks fuel (off + n) (b.drop n)).map fun r => (off, b.take n) :: r

/-! ## What the records of a stream say -/

/-- A course that a stream names for the first time. -/
def CopyCourse.fresh (ci : Nat) (seeded : Bool) : CopyCourse :=
  { index := ci, k := 0, layer := 0, shared := false, seeded := seeded, course := none, taken := false, freed := false, early := [] }

/-- The entry of an owner's course index in the running generation. -/
def InStream.entry (s : InStream) (ci : Nat) : Option CopyCourse := s.courses.find? fun c => c.index = ci

/-- Change the entry of a course, made (not yet seeded) if it is not there. -/
def InStream.course (s : InStream) (ci : Nat) (f : CopyCourse → CopyCourse) : InStream :=
  if s.courses.any fun c => c.index = ci then { s with courses := s.courses.map fun c => if c.index = ci then f c else c }
  else { s with courses := s.courses ++ [f (CopyCourse.fresh ci false)] }

/-- Change a slice. -/
def InStream.slice (s : InStream) (cid : Nat) (f : CopySlice → CopySlice) : InStream :=
  { s with slices := s.slices.map fun x => if x.cid.toNat = cid then f x else x }

/-- What one metadata record says of the stream's slices, courses and tree (R379); `seed` says a seed batch. The index of a course that has
been freed stands for the same copy until it is allocated again (R383). -/
def InStream.learn (s : InStream) (seed : Bool) (r : Bytes) : InStream :=
  let ci := fieldAt r 4 4
  match fieldAt r 0 1 with
  | 1 =>
    let cid := fieldAt r 8 8
    let new := fun x : CopySlice =>
      { x with fmt := fieldAt r 5 1, layers := fieldAt r 6 1, parentCid := BitVec.ofNat 64 (fieldAt r 0x10 8)
               forkPos := fieldAt r 0x18 4, ownEpoch := fieldAt r 0x1C 4, openTick := fieldAt r 0x20 4, state := fieldAt r 4 1 }
    if fieldAt r 4 1 = 2 then { s with slices := s.slices.filter fun x => x.cid.toNat != cid }
    else if s.slices.any fun x => x.cid.toNat = cid then s.slice cid new
    else { s with slices := s.slices ++ [new { cid := BitVec.ofNat 64 cid, fmt := 0, layers := 0, parentCid := 0, forkPos := 0
                                               ownEpoch := 0, openTick := 0, state := 0, runs := [], committed := none }] }
  | 2 =>
    if fieldAt r 9 1 = 2 then s.course ci fun c => { c with freed := true }
    else s.course ci fun c =>
      { (if seed then c else CopyCourse.fresh ci true) with k := fieldAt r 8 1, layer := fieldAt r 0xA 1, shared := bitOf (fieldAt r 0xB 1) 0 }
  | 4 =>
    let li := fieldAt r 4 1
    let run : Run := { course := fieldAt r 0x10 4, first := fieldAt r 5 1, count := fieldAt r 6 2 }
    s.slice (fieldAt r 8 8) fun x =>
      { x with runs := (x.runs.filter fun e => !(e.1 = li && e.2.course = run.course && e.2.first = run.first)) ++
                         (if run.count = 0 then [] else [(li, run)]) }
  | 5 =>
    let t := r.drop 0x10
    let same := fun x : Bytes => decide ((x.drop 0x10).take 0x10 = t.take 0x10)
    match fieldAt r 4 1 with
    | 1 => { s with trees := (s.trees.filter fun x => !same x) ++ [r] }
    | 2 => { s with trees := s.trees.filter fun x => !same x }
    | _ => { s with trees := s.trees.map fun x => if same x then r else x }
  | 6 =>
    let n := fieldAt r 4 1
    s.slice (fieldAt r 8 8) fun x => { x with committed := some ((List.range n).map fun i => fieldAt r (0x20 + 4 * i) 4) }
  | _ => s

/-- A slice's copy is whole: every course its runs name is seeded (R385). -/
def InStream.whole (s : InStream) (x : CopySlice) : Bool :=
  x.runs.all fun e => s.courses.any fun c => c.index = e.2.course && c.seeded

/-- Copies of the previous generation go as their slices are seeded in the new one, or at the last seed batch, and its tree records with
that (R385). -/
def InStream.forget (s : InStream) (all : Bool) : InStream :=
  let keep := s.oldSlices.filter fun x => !all && !(s.slices.any fun y => y.cid = x.cid && s.whole y)
  { s with oldSlices := keep, oldTrees := if all then [] else s.oldTrees
           oldCourses := s.oldCourses.filter fun c => keep.any fun x => x.runs.any fun e => e.2.course = c.index }

/-- A new generation begins (R385): what was held whole of the running one is kept, slice by slice, until it is seeded again. -/
def InStream.renew (s : InStream) (gen : Nat) : InStream :=
  let whole := s.slices.filter s.whole
  let kept := s.oldSlices.filter fun x => !(whole.any fun y => y.cid = x.cid)
  let named := fun (l : List CopySlice) (c : CopyCourse) => l.any fun x => x.runs.any fun e => e.2.course = c.index
  let mine := s.courses.filter (named whole)
  { s with gen := gen, nextSeq := 0, pendingMeta := [], outcomes := [], courses := [], slices := [], trees := [], oldSlices := whole ++ kept
           oldCourses := mine ++ (s.oldCourses.filter fun c => named kept c && !(mine.any fun d => d.index = c.index))
           oldTrees := s.oldTrees ++ s.trees }

/-- The row format of a copy course: that of a slice whose runs name it, else of a prefix block that has a page in it. -/
def InStream.copyFmt (s : InStream) (ci : Nat) : Option Nat :=
  (((s.slices ++ s.oldSlices).find? fun (x : CopySlice) => x.runs.any fun e => e.2.course = ci).map (·.fmt)).orElse fun _ =>
    ((s.trees ++ s.oldTrees).find? fun r => (List.range (fieldAt r 0x65 1)).any fun l => fieldAt r (0x90 + 8 * l) 4 = ci).map fun r => fieldAt r 0x64 1

/-- The last run of a slice's layer lies in a course. -/
def InStream.lastIn (s : InStream) (ci : Nat) : Bool :=
  (s.slices ++ s.oldSlices).any fun x => (List.range x.layers).any fun li =>
    (((x.runs.filter fun e => e.1 = li).getLast?).map fun e => e.2.course) = some ci

/-- The copy of a slice is discarded (R399): its courses go with it, but for those that another slice's runs name. -/
def InStream.discard (s : InStream) (cid : DWord) : InStream :=
  let cut := fun (xs : List CopySlice) (cs : List CopyCourse) =>
    let named := fun (f : CopySlice → Bool) (c : CopyCourse) => xs.any fun x => f x && x.runs.any fun e => e.2.course = c.index
    (xs.filter (·.cid != cid), cs.filter fun c => !(named (·.cid = cid) c) || named (·.cid != cid) c)
  let a := cut s.slices s.courses
  let b := cut s.oldSlices s.oldCourses
  { s with slices := a.1, courses := a.2, oldSlices := b.1, oldCourses := b.2 }

/-! ## The copies in this node's store (R376, R383) -/

/-- A stream received. -/
def Work.inStream (w : Work) (src part : Nat) : Option InStream := w.n.mi.inStreams.find? fun s => s.src = src && s.part = part

/-- Put a stream received. -/
def Work.setIn (w : Work) (s : InStream) : Work :=
  { w with n.mi.inStreams := (w.n.mi.inStreams.filter fun t => !(t.src = s.src && t.part = s.part)) ++ [s] }

/-- A copy course is given up: its space and its handles are freed, unless it is a session's by now. -/
def Work.dropCopy (w : Work) (src part : Nat) (c : CopyCourse) : Work :=
  match c.course with
  | some i => if c.taken then w else (w.dropRun (.copy src part c.index)).freeCourse i
  | none => w

/-- Put a stream as it stands after a change: the copies that it no longer holds are freed. -/
def Work.putIn (w : Work) (s : InStream) : Work :=
  let was := match w.inStream s.src s.part with
    | some o => o.courses ++ o.oldCourses
    | none => []
  let held := (s.courses ++ s.oldCourses).filterMap (·.course)
  (was.filter fun c => c.course.any fun i => !held.contains i).foldl (fun w c => w.dropCopy s.src s.part c) (w.setIn s)

/-- A stream received ends: its copies are freed. -/
def Work.dropIn (w : Work) (s : InStream) : Work :=
  let w := (s.courses ++ s.oldCourses).foldl (fun w c => w.dropCopy s.src s.part c) w
  { w with n.mi.inStreams := w.n.mi.inStreams.filter fun t => !(t.src = s.src && t.part = s.part) }

/-- A course record for a copy (R376), of a partition of this node: it holds no space yet. -/
def Work.newCopy (w : Work) (part : Nat) (e : CopyCourse) : Nat × Work :=
  let h := w.takeHandles part e.k
  let i := freshKey 0 h.2.n.st.courses
  let c : Course := { part := part, k := e.k, slot := e.index, tail := false, heat := 0, lastTouch := BitVec.ofNat 32 h.2.now32
                      loc := .ddr [], session := none, creator := 0, layer := e.layer, refs := if e.shared then 2 else 1
                      fromReserve := false, base := h.1, pages := [], heatTick := none, copy := true }
  let leaf := (part, h.1 / 2 ^ 16)
  let w := h.2.setCourse i c
  (i, if w.n.st.leaves.contains leaf then w else { w with n.st.leaves := w.n.st.leaves ++ [leaf] })

/-- Change a page of a course's record, with the pages before it that it does not hold yet. -/
def Course.withPage (c : Course) (pi : Nat) (f : Page → Page) : Course :=
  if 2 ^ c.k ≤ pi then c
  else
    let blanks := (List.range (pi + 1 - c.pages.length)).map fun j => blankPage (c.base + c.pages.length + j)
    { c with pages := (c.pages ++ blanks).modify pi f }

/-- What a page's header says goes into its record (R93); its handle is this node's. -/
def Page.noted (p : Page) (e : Bytes) : Page :=
  let n := max p.landed (fieldAt e 4 1)
  { p with fmt := fieldAt e 2 1, layer := fieldAt e 3 1, counted := n, landed := n, flags := fieldAt e 5 1, rowBytes := fieldAt e 6 2
           creator := BitVec.ofNat 32 (fieldAt e 8 4), cid := BitVec.ofNat 64 (fieldAt e 0x10 8), firstPos := fieldAt e 0x18 4
           installTick := BitVec.ofNat 32 (fieldAt e 0x1C 4), blockId := BitVec.ofNat 64 (fieldAt e 0x20 8) }

/-- The extents of a KIND 0 image that hold a page, each with its page number. -/
def imagePages (first items : Nat) (img : Bytes) : List (Nat × Bytes) :=
  let len := img.length / max items 1
  ((List.range items).map fun j => (first + j, sliceAt img (j * len) len)).filter fun e => fieldAt e.2 0 1 = 1

/-- A copy course as it stands open in HBM (R383): one that lies compressed is expanded into free frames (R96), and what is damaged of it is
lost. None when there is no room for it, or while the host window cannot be read. -/
def Work.openCopy (w : Work) (i : Nat) : Option Work :=
  match w.course i with
  | none => none
  | some c =>
    match c.loc with
    | .hbm _ => some w
    | l =>
      let len := w.courseFrames c
      if (l.tier = 2 && w.windowOff) ∨ min (w.hbmFree c.part) w.generalFree < len then none
      else
        let r := w.tryStacks c.slot len 8
        match r.1 with
        | none => none
        | some f =>
          let w := r.2.zero (frameAddr f) (len * 4096)
          let w := match w.moveOf i with
            | some (mi, _) => w.abandonMove mi
            | none => w
          let q := l.blks.zipIdx.foldl (fun (a : (List Nat × List Nat) × Work) e =>
            let d := a.2.decodeStored ((a.2.blockExpander l e.1).getD (a.2.expanderOf 8)) c e.2 e.1 none
            match d.1 with
            | none => ((a.1.1 ++ [e.2], a.1.2), d.2)
            | some img =>
              let g := d.2.installImage c f e.2 img
              ((a.1.1, a.1.2 ++ g.1), g.2)) (([], []), w)
          some ((q.2.loseFound i q.1).modCourse i fun c => { c with loc := .hbm f })

/-- The rows of one row-run entry (R380) are written at their index into a copy course open in HBM (R381). -/
def Work.copyRows (w : Work) (i : Nat) (e : Bytes) : Option Work :=
  (w.openCopy i).map fun w =>
    match w.course i with
    | some c => match c.loc with
      | .hbm f =>
        let pi := fieldAt e 4 1
        let row := fieldAt e 5 1
        let n := min (fieldAt e 6 1) (16 - row)
        let rb := fieldAt e 0xC 2
        let c := { c with lastTouch := BitVec.ofNat 32 w.now32 }.withPage pi fun p =>
          { p with layer := c.layer, fmt := fieldAt e 7 1, rowBytes := rb, firstPos := fieldAt e 8 4 - row
                   counted := max p.counted (row + n), landed := max p.landed (row + n) }
        if c.pages.length ≤ pi then w
        else ((w.setCourse i c).store (w.pageAddrAt c.part f pi + 64 + row * rb) (sliceAt e 16 (n * rb))).writeHeader i pi
      | _ => w
    | none => w

/-- A received KIND 0 block merged into a copy course open in HBM: rows are written at their index. -/
def Work.copyImage (w : Work) (i first items : Nat) (img : Bytes) : Option Work :=
  (w.openCopy i).map fun w => (imagePages first items img).foldl (fun w e =>
    match w.course i with
    | some c => match c.loc with
      | .hbm f =>
        let c := c.withPage e.1 fun p => p.noted e.2
        if c.pages.length ≤ e.1 then w
        else ((w.setCourse i c).store (w.pageAddrAt c.part f e.1 + 64) (sliceAt e.2 64 (fieldAt e.2 4 1 * fieldAt e.2 6 2))).writeHeader i e.1
      | _ => w
    | none => w) w

/-- A received block goes where the copy's stored blocks lie: tier 1 (R66), or frames of HBM while HBM_COPY is set (R211, R376); none when
the partition's quota or the node has no room. -/
def Work.placeReceived (w : Work) (c : Course) (blk : Nat) (b : Bytes) : Option (Blk × Loc) × Work :=
  let packed := match c.loc with
    | .packed _ => true
    | l => l.blks.isEmpty && w.flag Reg.MIR_HBM_COPY 0 c.part
  if packed then
    let n := ceilDiv b.length 4096
    let r := if min (w.hbmFree c.part) w.generalFree < n then (none, w) else w.tryStacks c.slot n 8
    (r.1.map fun f => let x : Blk := { die := f / slotFrames / 4, unit := f * 16, len := b.length, mode := fieldAt b 1 1 }
                      (x, .packed (c.loc.blks ++ [x])), r.2)
  else
    let die := if c.k = 0 then w.emptierDie else blk
    let r := if w.tierFree c.part 1 < alignUp b.length 256 then (none, w) else w.placeDdr die b.length (fieldAt b 1 1)
    (r.1.map fun x => (x, .ddr (c.loc.blks ++ [x])), r.2)

/-- A KIND 0 block for a copy course, with its image (R383, R385): stored as received while the copy is a sequence of stored blocks that it
goes on with, else merged with the rows in HBM. None when there is no room for it. -/
def Work.copyBlock (w : Work) (i : Nat) (b img : Bytes) : Option Work :=
  match w.course i with
  | none => none
  | some c =>
    let h := BlkHead.read b
    let blk := if h.first = 0 then 0 else 1
    let goesOn := (match c.loc with
      | .packed _ | .ddr _ => true
      | _ => false) && c.loc.blks.length = blk && (w.moveOf i).isNone
    if !goesOn then w.copyImage i h.first h.items img
    else
      let r := w.placeReceived c blk b
      r.1.map fun x =>
        let c := (imagePages h.first h.items img).foldl (fun (c : Course) e => c.withPage e.1 fun p => p.noted e.2) c
        let w := (r.2.setCourse i { c with loc := x.2 })
        w.store (w.blkKey x.2 x.1) b

/-! ## Batches applied (R381) -/

/-- A block of a batch: the course that its record names, its bytes as received, and its image. -/
structure BatchBlock where
  course : Nat
  stored : Bytes
  img : Bytes
  deriving DecidableEq, Repr

/-- Change an entry of a stream received. -/
def Work.modEntry (w : Work) (src part ci : Nat) (f : CopyCourse → CopyCourse) : Work :=
  match w.inStream src part with
  | some s => w.setIn (s.course ci f)
  | none => w

/-- The course record of a copy, made with its COURSE record. -/
def Work.makeCopy (w : Work) (src part ci : Nat) : Work :=
  match (w.inStream src part).bind fun s => s.entry ci with
  | some e =>
    if e.course.isSome then w
    else
      let r := w.newCopy part e
      r.2.modEntry src part ci fun c => { c with course := some r.1 }
  | none => w

/-- A row-run entry acts (R381, R385): on a course that is not yet seeded it is held. -/
def Work.takeRun (w : Work) (src part : Nat) (e : Bytes) : Option Work :=
  let ci := fieldAt e 0 4
  match (w.inStream src part).bind fun s => s.entry ci with
  | some c =>
    match c.seeded, c.course with
    | true, some i => w.copyRows i e
    | _, _ => some (w.modEntry src part ci fun c => { c with early := c.early ++ [e] })
  | none => some (w.modEntry src part ci fun c => { c with early := [e] })

/-- The row-run entries of a KIND 1 image (R380). -/
def cutRows : Nat → Bytes → List Bytes
  | 0, _ => []
  | fuel + 1, b =>
    if b.length < 16 then []
    else
      let n := alignUp (16 + fieldAt b 6 1 * fieldAt b 0xC 2) 16
      b.take n :: cutRows fuel (b.drop n)

/-- One metadata record of a batch acts on the copies (R379, R381, R383); none when the partition has no room for it. A PAGE record of a
course not yet seeded says nothing that its seed does not. -/
def Work.copyRecord (src part : Nat) (seed : Bool) (blocks : List BatchBlock) (w : Work) (r : Bytes) : Option Work :=
  let ci := fieldAt r 4 4
  match w.inStream src part with
  | none => some w
  | some s =>
    match fieldAt r 0 1 with
    | 2 =>
      let w := w.putIn (s.learn seed r)
      some (if fieldAt r 9 1 = 2 then w else w.makeCopy src part ci)
    | 3 => match (s.entry ci).bind (·.course) with
      | some i =>
        let pi := fieldAt r 8 1
        some ((w.modCourse i fun c => c.withPage pi fun p =>
          { p with layer := fieldAt r 9 1, flags := fieldAt r 0xA 1, firstPos := fieldAt r 0xC 4
                   cid := BitVec.ofNat 64 (fieldAt r 0x10 8), blockId := BitVec.ofNat 64 (fieldAt r 0x18 8) }).writeHeader i pi)
      | none => some w
    | 7 => match blocks[fieldAt r 8 4]? with
      | none => some w
      | some b =>
        if b.course = 0xFFFFFFFF then (cutRows (b.img.length / 16 + 1) b.img).foldl (fun w e => w.bind fun w => w.takeRun src part e) (some w)
        else match (s.entry b.course).bind (·.course) with
          | some i => w.copyBlock i b.stored b.img
          | none => some w
    | _ => some (w.putIn (s.learn seed r))

/-- The courses that a seed batch carries are seeded by it, and the row runs that came before it act (R385). -/
def Work.seedsTaken (src part : Nat) (recs : List Bytes) (w : Work) : Option Work :=
  let cis := (recs.filter fun r => fieldAt r 0 1 = 2 && fieldAt r 9 1 != 2).map fun r => fieldAt r 4 4
  cis.foldl (fun w ci => w.bind fun w =>
    let early := (((w.inStream src part).bind fun s => s.entry ci).map (·.early)).getD []
    early.foldl (fun w e => w.bind fun w => w.takeRun src part e)
      (some (w.modEntry src part ci fun c => { c with seeded := true, early := [] }))) (some w)

/-- Apply a batch whole (R381): its records in order, each BLOCK record with its block; none when the partition's quotas cannot hold what it
adds (R374). -/
def Work.applyAll (w : Work) (src part : Nat) (h : BatchHead) (recs : List Bytes) (blocks : List BatchBlock) : Option Work :=
  let seed := bitOf h.flags 0
  -- a BLOCK record names its block by its place among those of the batch
  let numbered := recs.foldl (fun (a : List Bytes × Nat) r =>
    if fieldAt r 0 1 = 7 then (a.1 ++ [r.take 8 ++ leBytes 4 a.2 ++ r.drop 12], a.2 + 1) else (a.1 ++ [r], a.2)) ([], 0)
  let w := numbered.1.foldl (fun w r => w.bind fun w => w.copyRecord src part seed blocks r) (some w)
  let w := if seed then w.bind (Work.seedsTaken src part recs) else w
  w.map fun w => match w.inStream src part with
    | some s => w.putIn (s.forget (bitOf h.flags 1))
    | none => w

/-- Copies that the owner has freed and no run of the stream names are given up. -/
def InStream.thrift (s : InStream) : InStream :=
  { s with courses := s.courses.filter fun c => !c.freed || s.slices.any fun x => x.runs.any fun e => e.2.course = c.index }

/-- Apply a batch if the partition's quotas hold what it adds (R374, R381). A copy that the owner has freed stays, compressed, until its index
is allocated again or its space is needed here (DESIGN CHOICE, log 132: R383 gives it no end). -/
def Work.applyIn (w : Work) (s : InStream) (h : BatchHead) (recs : List Bytes) (blocks : List BatchBlock) : Option Work :=
  ((w.setIn s).applyAll s.src s.part h recs blocks).orElse fun _ =>
    ((w.setIn s).putIn s.thrift).applyAll s.src s.part h recs blocks

/-! ## A copy becomes a session (R401, R402) -/

/-- The pages that a slice's layer keeps below its committed extent (R402), in order: copy course, page, rows kept. -/
def Work.keptPages (w : Work) (s : InStream) (x : CopySlice) (li ec : Nat) : List (Nat × Nat × Nat) :=
  let pages := ((x.runs.filter fun e => e.1 = li).map fun e => (List.range e.2.count).filterMap fun j =>
    (s.entry e.2.course).bind fun c => (c.course.bind w.course).bind fun r =>
      (r.pages[e.2.first + j]?).map fun p => (p.firstPos, c.index, e.2.first + j)).flatten
  (sortKey (fun e : Nat × Nat × Nat => [e.1]) pages).filterMap fun e =>
    if e.1 < ec then some (e.2.1, e.2.2, min 16 (ec - e.1)) else none

/-- A page of a copy is shared: indexed, or named by another slice (R402). -/
def Work.sharedPage (w : Work) (s : InStream) (x : CopySlice) (ci pi : Nat) : Bool :=
  ((((s.entry ci).bind (·.course)).bind w.course).bind fun c => c.pages[pi]?).any (fun p => bitOf p.flags 0) ||
  s.slices.any fun y => y.cid != x.cid && y.runs.any fun e => e.2.course = ci && e.2.first ≤ pi && pi < e.2.first + e.2.count

/-- The frame at which a course in HBM begins. -/
def Work.frameOf (w : Work) (ci : Nat) : Nat := match (w.course ci).map (fun c : Course => c.loc) with
  | some (Loc.hbm f) => f
  | _ => 0

/-- A copy course becomes a course of sessions of this node (R401 step 2): it is opened in HBM, and its pages bear this node's handles. None
when there is no room for it. -/
def Work.adoptCopy (w : Work) (i si handle : Nat) (x : CopySlice) : Option Work :=
  (w.openCopy i).map fun w =>
    let w := w.modCourse i fun c =>
      { c with copy := false, session := some si, creator := handle, refs := 1
               pages := c.pages.mapIdx fun j p => { p with handle := BitVec.ofNat 32 (c.base + j), creator := BitVec.ofNat 32 handle
                                                           flags := p.flags % 4, fmt := x.fmt, installTick := BitVec.ofNat 32 w.now32 } }
    (List.range (((w.course i).map (·.pages.length)).getD 0)).foldl (fun w j =>
      if (((w.course i).bind fun c => c.pages[j]?).map (·.landed)).getD 0 = 0 then w else w.writeHeader i j) w

/-- What a takeover has made of a slice so far. -/
structure Taking where
  w : Work
  s : InStream
  layer : Layer
  used : List Nat

/-- Take one page of a slice into its session: its course is adopted if it is not yet, a shared page that holds the extent is copied into a
private page (R402). None when there is no room, or the page is damaged. -/
def Taking.page (t : Taking) (si handle : Nat) (x : CopySlice) (li : Nat) (e : Nat × Nat × Nat) : Option Taking :=
  match t.s.entry e.1 with
  | none => none
  | some c => match c.course with
    | none => none
    | some ci =>
      match (if c.taken then some t.w else t.w.adoptCopy ci si handle x) with
      | none => none
      | some w =>
        let s := t.s.course e.1 fun d => { d with taken := true }
        match (w.course ci).bind fun r => r.pages[e.2.1]? with
        | none => none
        | some p =>
          let keep := min e.2.2 p.counted
          let add := fun (t : Taking) cj pj n =>
            { t with layer := { t.layer with runs := addPage t.layer.runs cj pj, rows := t.layer.rows + n }
                     used := if cj ∈ t.used then t.used else t.used ++ [cj] }
          let t := { t with w := w, s := s }
          if p.lost then none
          else if p.counted ≤ e.2.2 then some (add t ci e.2.1 keep)
          else if w.sharedPage s x e.1 e.2.1 then
            let a := w.allocCourse s.part si handle li (w.get Reg.PGM_K_FIRST) true true
            match a.1, (a.1.bind fun r => a.2.course r.1) with
            | some (cj, _), some d =>
              let rows := w.bytes (w.pageAddrAt s.part (w.frameOf ci) e.2.1 + 64) (keep * p.rowBytes)
              let np : Page := { p with handle := BitVec.ofNat 32 d.base, counted := keep, landed := keep, flags := 2
                                        creator := BitVec.ofNat 32 handle, cid := x.cid, blockId := 0 }
              let w := a.2.setCourse cj { d with pages := [np] }
              some (add { t with w := (w.store (w.pageAddrAt s.part (w.frameOf cj) 0 + 64) rows).writeHeader cj 0 } cj 0 keep)
            | _, _ => none
          else
            -- rows at and above the extent are zeroed and ROWS falls
            let at_ := w.pageAddrAt s.part (w.frameOf ci) e.2.1
            let w := w.zero (at_ + 64 + keep * p.rowBytes) ((16 - keep) * p.rowBytes)
            let w := (w.modPage ci e.2.1 fun p => { p with counted := keep, landed := keep }).writeHeader ci e.2.1
            some (add { t with w := w } ci e.2.1 keep)

/-- The private pages of an adopted course that a slice does not keep are zeroed and are free slots of it again (R402); `keep` and `shared`
say which pages stay. -/
def Work.trimCourse (w : Work) (ci : Nat) (stays : Nat → Bool) : Work :=
  match w.course ci with
  | none => w
  | some c =>
    let gone := (List.range c.pages.length).filter fun i => !stays i
    let last := ((List.range c.pages.length).filter stays).foldl (fun n i => max n (i + 1)) 0
    let w := gone.foldl (fun w i => w.zero (w.pageAddrAt c.part (w.frameOf ci) i) (w.slotBytes c.part)) w
    let pages := (c.pages.mapIdx fun i p => if stays i then p else blankPage (c.base + i)).take last
    w.setCourse ci { c with pages := pages, tail := decide (pages.length < 2 ^ c.k) }

/-- The generation of a stream that holds a slice whole: the running one, else the one before it (R385), in the place of the running one. -/
def InStream.holding (s : InStream) (cid : DWord) : InStream :=
  if s.slices.any fun x => x.cid = cid && s.whole x then s
  else { s with slices := s.oldSlices, courses := s.oldCourses }

/-- A slice of a stream received that can be taken over (R401, R407): one whose copy is whole. -/
def InStream.held (s : InStream) (cid : DWord) : Option CopySlice := (s.holding cid).slices.find? fun x => x.cid = cid && (s.holding cid).whole x

/-- A slice taken over is mirrored in its turn (R377, R385): its courses are to be seeded. -/
def Work.seedTaken (w : Work) (part si : Nat) (used : List Nat) : Work :=
  match w.streamOf part, w.session si with
  | some t, some se =>
    if t.state = .off ∨ t.state = .unavailable then w
    else
      let w := w.setStream { t with unseeded := t.unseeded ++ [se.cid], toSeed := t.toSeed ++ used.filter fun ci => !(t.toSeed.contains ci) }
      let w := w.metaChange part (sessionRec se 1)
      se.layers.zipIdx.foldl (fun w l => l.1.runs.foldl (fun w r => w.metaChange part (runRec l.2 r se.cid)) w) w
  | _, _ => w

/-- The copy of a slice becomes a session, truncated (R401 steps 1 and 2, R402): its index, or none when it cannot be held. -/
def Work.takeSlice (w : Work) (src part : Nat) (cid : DWord) (origin epoch : Nat) : Option Nat × Work :=
  match w.inStream src part with
  | none => (none, w)
  | some s0 =>
    let s := s0.holding cid
    let old := !(s0.slices.any fun x => x.cid = cid && s0.whole x)
    match s0.held cid with
    | none => (none, w)
    | some x =>
      let ecs := x.committed.getD []
      let made := w.makeSession part x.fmt x.layers cid.toNat 0 (.queue 0 0) 0
      match made.1 with
      | none => (none, w)
      | some (si, se) =>
        let h := handleOf si se.gen
        let step := fun (acc : Option (Taking × List Layer)) li => acc.bind fun a =>
          let t0 : Taking := { a.1 with layer := Layer.empty }
          (((a.1.w.keptPages s x li (atD ecs li 0)).foldl (fun (t : Option Taking) e => t.bind fun t => t.page si h x li e) (some t0))).map
            fun t => (t, a.2 ++ [t.layer])
        match (List.range x.layers).foldl step (some ({ w := made.2, s := s, layer := Layer.empty, used := [] }, [])) with
        | none => (none, w)
        | some (t, layers) =>
          let s1 := if old then { s0 with oldCourses := t.s.courses } else { s0 with courses := t.s.courses }
          let w := t.w.setIn s1
          let w := w.setSession si
            { se with layers := layers, parentCid := x.parentCid, forkPos := x.forkPos, ownEpoch := epoch, origin := origin, own := .own
                      openTick := BitVec.ofNat 32 x.openTick, waiting := none
                      slots := layers.foldl (fun n l => l.runs.foldl (fun n r => n + r.count) n) 0 }
          -- a course that this slice adopts bears its reference already; one that another has adopted gains one
          let fresh := t.used.filter fun ci => !(w.n.pg.sessions.any fun e => e.1 != si && e.2.layers.any fun l => l.runs.any fun r => r.course = ci)
          let w := (t.used.filter fun ci => !(fresh.contains ci)).foldl Work.addRef w
          let w := fresh.foldl (fun w ci =>
            let kept := fun j => layers.any fun l => l.runs.any fun r => r.course = ci && r.first ≤ j && j < r.first + r.count
            let index := ((t.s.courses.find? fun c => c.course = some ci).map (·.index)).getD 0xFFFFFFFF
            w.trimCourse ci fun j => kept j || w.sharedPage s x index j) w
          (some si, w.seedTaken part si t.used)

/-- A prefix block received as a TREE record is indexed again over the courses that were taken (R401 step 3). -/
def Work.takeTree (w : Work) (s : InStream) (r : Bytes) : Work :=
  let t := r.drop 0x10
  let layers := fieldAt t 0x55 1
  let toks := (List.range 16).map fun i => fieldAt t (0x10 + 4 * i) 4
  let pages := (List.range layers).map fun l =>
    let e := r.drop (0x90 + 8 * l)
    ((s.courses ++ s.oldCourses).find? fun c => c.index = fieldAt e 0 4 && c.taken).bind fun c =>
      c.course.bind fun ci => (w.course ci).bind fun real => (real.pages[fieldAt e 4 1]?).bind fun p =>
        if p.counted = 16 then some (ci, fieldAt e 4 1, real.base + fieldAt e 4 1) else none
  if pages.any (·.isNone) then w
  else
    let ps := pages.filterMap id
    let key := prefixKey (fieldAt t 0 8) (fieldAt t 8 8) toks
    match w.prefixPrio s.part key, w.ksRoomiest (w.ksBanks tblPrefix s.part) with
    | some prio, some bank =>
      let i := freshKey 0 w.n.ks.tree
      let e := w.ksWrite bank key prio i
      let w := e.2
      let parent := (w.n.ks.tree.find? fun x => x.2.part = s.part && x.2.blockId = fieldAt t 8 8 && x.2.firstPos + 16 = fieldAt t 0x50 4
        && x.2.fmt = fieldAt t 0x54 1 && x.2.layers = layers && !x.2.dying && !x.2.lost).map (·.1)
      let rec_ : TreeRec :=
        { blockId := fieldAt t 0 8, parentId := fieldAt t 8 8, tokens := toks, firstPos := fieldAt t 0x50 4, fmt := fieldAt t 0x54 1
          layers := layers, part := s.part, pinned := bitOf (fieldAt t 0x56 2) 6, dying := false, lost := false, children := 0
          matches_ := fieldAt t 0x5C 4, lastMatch := BitVec.ofNat 32 w.now32, bank := bank, idx := e.1, parentRec := parent
          handles := ps.map fun p => BitVec.ofNat 32 p.2.2 }
      let w := { w with n.ks.tree := insertN i rec_ w.n.ks.tree }
      let w := match parent with
        | some p => w.modTree p fun x => { x with children := x.children + 1 }
        | none => w
      (((ps.map (·.1)).dedup).foldl Work.addRef w).noteTree i 1
    | _, _ => w

/-- One entry of the takeover list (R401): CID, the former owner's node ID, partition, outcome 1 taken, 2 dropped, 3 lost, and
4 bytes of zero (DESIGN CHOICE, log 34: the list's form is not given). -/
def takenEntry (cid : DWord) (former part outcome : Nat) : Bytes :=
  leBytes 8 cid.toNat ++ leBytes 2 former ++ leBytes 1 part ++ leBytes 1 outcome ++ leBytes 4 0

end Sys2Proof.Machine
end

