-- ==== Sys2Proof/Machine/Ownership.lean ====
section
/-!
DEFINITION. Sys2Proof/Machine/Ownership.lean: what the outcome of a record operation does (R392, R393, R400, R401, R404 to
R407), the operations on this node's own home table, and what ends a claim or a lease. Commands HOME_WAIT_EXPIRED,
LEASE_EXPIRED, ORPHAN_TIMEOUT.
-/

namespace Sys2Proof.Machine

/-- What a record operation came to (R393). -/
inductive HomeEnd where
  | done (new : Bytes)
  | full
  | busy
  | decided (found : Bytes)
  deriving DecidableEq, Repr

/-- A new session whose claim failed is freed, and its OPEN or FORK completes (R392). -/
def Work.dropNew (w : Work) (si status : Nat) : Work :=
  match w.session si with
  | none => w
  | some s =>
    let w := w.metaChange s.part (sessionRec s 2)
    let w := ((w.endHomeRun si).dropHoldings si).freeSession si
    match s.waiting with
    | some (src, tag) => w.refuseSession src tag status
    | none => w

/-- A run begins again: it waits for the tick boundary to send its first probe (log 25). -/
def Work.restartHome (w : Work) (si : Nat) : Work :=
  match w.homeRun si with
  | some r => w.setHomeRun { r with attempt := 1, found := [], casAt := none }
  | none => w

/-- Begin to reconcile a session (R400): it is unconfirmed until the probe returns. An orphan stays one until ADOPT or DISCARD (R405). -/
def Work.reconcile (w : Work) (si : Nat) : Work :=
  match w.session si with
  | none => w
  | some s =>
    if (w.homeRun si).any (·.op = .reconcile) then w
    else if !w.mirrored s.part ∨ s.state = .closing ∨ s.state = .forming ∨ s.own = .claiming ∨ s.orphan then w
    else ((w.setSession si { s with own := .unconfirmed }).startHome .reconcile si s.part s.cid s.origin)

/-- The list of a takeover gains an entry; when no takeover is left running it is ready (R401). -/
def Work.takenOne (w : Work) (cid : DWord) (former part outcome : Nat) : Work :=
  let w := { w with n.mi.takenList := w.n.mi.takenList ++ takenEntry cid former part outcome }
  if w.n.mi.homeOps.any fun r => takingKey ≤ r.session && r.session < releaseKey then w
  else
    -- the tree records received are rebuilt (R401 step 3), and the streams' copies go
    let taken := w.n.mi.inStreams.filter (·.stopped)
    let trees := fun s : InStream => s.oldTrees.filter (fun r => !s.trees.contains r) ++ s.trees
    let w := taken.foldl (fun w s => (trees s).foldl (fun w r => w.takeTree s r) w) w
    let w := taken.foldl Work.dropIn w
    w.log { code := 0x5002, page := 0x74, detail := w.n.mi.takenList.length / 16 }

/-- The end of a run for a slice that is being taken over or declared Lost. -/
def Work.takeoverEnd (w : Work) (r : HomeRun) (former : Nat) (e : HomeEnd) : Work :=
  let w := w.endHomeRun r.session
  let lost := fun (w : Work) =>
    ((w.count Reg.MIR_DECLARED_LOST).log { code := 0x4A03, page := 0x74, part := some r.part, arg := r.cid.toNat, detail := r.part }).takenOne
      r.cid former r.part 3
  match r.op, e with
  | .takeover _, .done new =>
    let committed := (w.inStream former r.part).bind fun s => (s.held r.cid).bind (·.committed)
    if committed.isNone then
      -- no COMMIT was ever recorded: the record goes back to Empty (R401 step 2)
      { w with n.mi.homeOps := w.n.mi.homeOps ++ [{ r with op := .release, attempt := 1, found := [], casAt := none }] }
    else
      let t := w.takeSlice former r.part r.cid r.origin (OwnRec.read new).epoch
      match t.1 with
      | some _ =>
        let w := (t.2.count Reg.MIR_TAKEN).log { code := 0x4A02, page := 0x74, part := some r.part, arg := r.cid.toNat, detail := former }
        w.takenOne r.cid former r.part 1
      | none =>
        { w with n.mi.homeOps := w.n.mi.homeOps ++
            [{ r with op := .declareLost w.nodeId, attempt := 1, found := [], casAt := none }] }
  | .release, _ => w.takenOne r.cid former r.part 2
  | _, .done _ => lost w
  | _, _ => w.takenOne r.cid former r.part 3

/-- The node a takeover's key belongs to, as its list names it. -/
def Work.formerOf (w : Work) (r : HomeRun) : Nat :=
  match r.op with
  | .takeover x => x
  | _ => ((w.n.mi.inStreams.find? fun s => s.stopped && s.part = r.part && (s.slices ++ s.oldSlices).any fun x => x.cid = r.cid).map (·.src)).getD 0xFFFF

/-- A run has ended (R392, R400, R401). -/
def Work.homeEnd (w : Work) (r : HomeRun) (e : HomeEnd) : Work :=
  let si := r.session
  let w := match r.op, e with
    | .reconcile, .decided _ => w
    | _, .decided _ => w.count Reg.MIR_CAS_LOST
    | _, _ => w
  if takingKey ≤ si then
    match e with
    | .busy => w.restartHome si
    | _ => if releaseKey ≤ si then w.endHomeRun si else w.takeoverEnd r (w.formerOf r) e
  else match w.session si with
    | none => w.endHomeRun si
    | some s =>
      match r.op, e with
      | _, .busy => w.restartHome si
      | .claim, .done new =>
        let w := (w.endHomeRun si).setSession si { s with own := .own, ownEpoch := (OwnRec.read new).epoch }
        if w.n.pg.forkCopies.any fun k => k.child = si then w else w.sessionReady si
      | .claim, .full => w.dropNew si stMirror
      | .claim, .decided f =>
        if (OwnRec.read f).state = 1 ∧ (OwnRec.read f).owner ≠ w.nodeId then w.dropNew si stNotOwner else w.restartHome si
      | .setUnderstudy, .done new => (w.endHomeRun si).setSession si { s with ownEpoch := (OwnRec.read new).epoch }
      | .setUnderstudy, .decided _ => (w.endHomeRun si).reconcile si
      | .reconcile, .done new =>
        (w.endHomeRun si).setSession si { s with own := .own, orphan := false, ownEpoch := (OwnRec.read new).epoch }
      | .reconcile, .decided f =>
        let o := OwnRec.read f
        let w := w.endHomeRun si
        if o.state = 1 ∧ o.owner = w.nodeId then
          if o.epoch = s.ownEpoch then w.setSession si { s with own := .own, orphan := false } else w
        else w.setSession si { s with own := .foreign o.owner }
      | _, _ => w.endHomeRun si

/-- An answer to a CAS of a run: the 32 bytes found (R393). -/
def Work.homeAnswer (w : Work) (si : Nat) (found : Bytes) : Work :=
  match w.homeRun si with
  | none => w
  | some r =>
    match r.casAt with
    | none =>
      if !entryOk found then
        let home := ((w.homeOf r.part r.cid r.origin).map (·.node)).getD 0xFFFF
        (w.report { code := 0x4A04, page := 0x74, part := some r.part, arg := r.cid.toNat, detail := home }).restartHome si
      else
        let r := { r with found := r.found ++ [found], startedPs := w.ps }
        if r.found.length < 4 then (w.setHomeRun r).sendHome si
        else match r.entry with
          | none => w.homeEnd r .full
          | some i =>
            let f := atD r.found i []
            let o := OwnRec.read f
            -- an understudy takes only the slices whose record names it; the others become Lost (R401, R403, R407)
            let own := match r.op with
              | .takeover x =>
                let held : Bool := ((w.inStream x r.part).bind fun s => s.held r.cid).isSome
                let isOpen : Bool := w.n.pg.sessions.any fun e => e.2.part = r.part && e.2.cid = r.cid && e.2.state != .closing
                if decide (o.understudy = w.nodeId) && held && !isOpen then r else { r with op := .declareLost x }
              | _ => r
            match w.runChange own f with
            | none => w.homeEnd own (.decided f)
            | some _ => (w.setHomeRun { own with casAt := some (i, f) }).sendHome si
    | some (_, cmp) =>
      if found = cmp then
        w.homeEnd r (.done (w.runSwap r))
      else if r.attempt < 4 then
        (w.setHomeRun { r with attempt := r.attempt + 1, found := [], casAt := none }).sendHome si
      else w.homeEnd r .busy

/-- A CAS that was refused: the record cannot be read; the run begins again at a boundary. -/
def Work.homeFailed (w : Work) (si : Nat) : Work := w.restartHome si

/-- A CAS of a run is on its way. -/
def Work.homeInFlight (w : Work) (si : Nat) : Bool := w.n.tp.outMsgs.any fun m => m.2.purpose = .homeCas si

/-- The CAS of a run on this node's own home table (R390, R391); none while there is no table here. -/
def Work.homeLocal (w : Work) : Nat → Nat → Work
  | 0, _ => w
  | fuel + 1, si =>
    match w.homeRun si with
    | none => w
    | some r =>
      match w.homeOf r.part r.cid r.origin with
      | none => w
      | some h =>
        if h.node ≠ w.nodeId then w
        else match w.n.mi.homeTable.bind fun k => lookupN k w.n.tp.regions with
          | none => w
          | some reg =>
            let (e, cmp, swp) := r.nextCas (w.runSwap r)
            let a := reg.base + (h.bucket * 4 + e) * 32
            let found := w.bytes a 32
            let w := if found = cmp then w.store a swp else w
            (w.homeAnswer si found).homeLocal fuel si

/-- At a tick boundary, runs that wait are tried again (log 25). -/
def Work.homeKick (w : Work) : Work :=
  (w.n.mi.homeOps.map (·.session)).foldl (fun w si => if w.homeInFlight si then w else (w.sendHome si).homeLocal 24 si) w

/-- `HOME_WAIT_EXPIRED` (R392): a claim that has not succeeded within HOME_WAIT ticks ends with MIRROR_UNAVAILABLE. -/
def execHomeWaitExpired (session : Nat) (s : State) : Host.Outcome State Fault Refusal :=
  run s fun w =>
    match w.session session with
    | some x =>
      if x.own = .claiming ∧ w.get Reg.MIR_HOME_WAIT ≤ ticksTo x.waitTick w.now then w.dropNew session stMirror else w
    | none => w

/-- The lease has ended (R397): the node holds none, and fences itself. -/
def Work.endLease (w : Work) : Work :=
  (({ w with n.mi.leaseEndPs := none }).set Reg.MIR_VALID 0).fenceSelf

/-- `LEASE_EXPIRED` (R397, R456, R463): the lease has run out; the node enters Dark. -/
def execLeaseExpired (s : State) : Host.Outcome State Fault Refusal :=
  run s fun w =>
    match w.n.mi.leaseEndPs with
    | none => w
    | some e => if w.ps + w.periodPs < e then w else (w.report { code := 0x4B01, page := 0x74, detail := w.get Reg.MIR_FE }).endLease

/-- `ORPHAN_TIMEOUT` (R405): a slice whose record has not been read for MIR_ORPHAN.MS is orphaned, whatever the operation on it that waits;
that ends, and nothing but ADOPT or DISCARD ends the state. -/
def execOrphanTimeout (session : Nat) (s : State) : Host.Outcome State Fault Refusal :=
  run s fun w =>
    match w.session session, w.homeRun session with
    | some x, some r =>
      if x.own ≠ .claiming ∧ !x.orphan ∧ w.get Reg.MIR_MS * 1000000000 ≤ w.ps - r.startedPs then
        let w := (w.endHomeRun session).setSession session { x with orphan := true }
        (w.report { code := 0x4A01, page := 0x74, part := some x.part, arg := x.cid.toNat, detail := x.part }).isr 0x74 17
      else w
    | _, _ => w

end Sys2Proof.Machine
end

