-- ==== Sys2Proof/Machine/Mirror.lean ====
section
/-!
DEFINITION. Sys2Proof/Machine/Mirror.lean: the owner's mirror streams (R373 to R386), restores (R386) and COMMIT (R387, R388),
and what an understudy answers (R381, R382). Commands MIRROR_ENABLE, MIRROR_BATCH_SEND, MIRROR, SLICE_SEEDED,
MIRROR_ACK_LATE, MIRROR_STREAM_LOST, MIRROR_RESEED_TIMER, RESTORE_FETCH_SEND, COMMIT, COMMIT_WAIT_EXPIRED, COMPRESSOR_BLOCK_EMITTED.
-/

namespace Sys2Proof.Machine

/-! ## Streams -/

/-- The node's understudy, and the service connection to it (R373, R375). -/
def Work.understudy (w : Work) : Nat := w.get Reg.MIR_UNDERSTUDY
def Work.understudyConn (w : Work) : Option Nat := w.serviceConn w.understudy

/-- Put a stream, made if it is not there; STREAM_GEN stays with the record. -/
def Work.putStream (w : Work) (s : Stream) : Work :=
  if (w.streamOf s.part).isSome then w.setStream s else { w with n.mi.streams := w.n.mi.streams ++ [s] }

/-- A restore is given up: the loss is final (R386). -/
def Work.restoreFailed (w : Work) (ci : Nat) : Work :=
  let w := { w with n.mi.restores := w.n.mi.restores.filter fun r => r.1 != ci }
  match w.course ci with
  | none => w
  | some c =>
    let pages := (List.range c.pages.length).filter fun i => match c.pages[i]? with | some p => p.lost | none => false
    let w := w.report { code := 0x4903, page := 0x74, part := some c.part, arg := ci, detail := c.part }
    (w.loseSessions ci pages).loseTree c.part (pages.map fun p => c.base + p)

/-- The restores of a partition are given up. -/
def Work.restoresFailed (w : Work) (p : Nat) : Work :=
  (w.n.mi.restores.map (·.1)).foldl (fun w ci => if ((w.course ci).map fun c => decide (c.part = p)).getD false then w.restoreFailed ci else w) w

/-- Waiting COMMITs of a partition end with MIRROR_UNAVAILABLE (R384, R388). -/
def Work.commitsFailed (w : Work) (p : Nat) : Work :=
  match w.streamOf p with
  | none => w
  | some s =>
    s.waits.foldl (fun w c => (w.count Reg.MIR_COMMITS_FAILED).complete c.src c.tag stMirror 0 0) (w.setStream { s with waits := [] })

/-- A stream becomes Unavailable (R384): held batches are freed, waiting COMMITs and restores end. -/
def Work.streamLost (w : Work) (p : Nat) : Work :=
  let w := (w.commitsFailed p).restoresFailed p
  match w.streamOf p with
  | none => w
  | some s =>
    let w := w.setStream { s with state := .unavailable, batches := [], open_ := [], toSeed := [], seeding := [], since := w.ps }
    let w := w.count Reg.MIR_UNAVAILABLE
    (w.report { code := 0x4902, page := 0x74, part := some p, arg := w.understudy, detail := p }).isr 0x74 16

/-- A partition's sessions, hottest first by summed course heat (R385). -/
def Work.seedOrder (w : Work) (p : Nat) : List (Nat × Session) :=
  sortKey (fun e : Nat × Session => [2 ^ 40 - ((e.2.courses.map fun ci => ((w.course ci).map (·.heat)).getD 0).foldl (· + ·) 0), e.1])
    (w.n.pg.sessions.filter fun e => e.2.part = p)

/-- STATE of a session's SESSION record (R379). -/
def Session.mirrorState (s : Session) : Nat := match s.state with
  | .closing | .struck => 2
  | .lost => 3
  | .open | .forming => 1

/-- The first seed batch of a generation (R385): the SESSION records of every session, and with each its RUN records, from which the
understudy knows the courses of a slice, its last COMMIT and the COMMITs that wait. -/
def Work.firstSeed (w : Work) (ss : List (Nat × Session)) (waits : List CommitWait) : List Bytes :=
  (ss.map fun e => sessionRec e.2 e.2.mirrorState) ++
  ((ss.map fun e => (e.2.layers.zipIdx.map fun l => l.1.runs.map fun r => runRec l.2 r e.2.cid).flatten ++
    (if e.2.commit.isEmpty then [] else [e.2.commit])).flatten) ++
  (waits.map (·.record)).filter fun r => !r.isEmpty

/-- Seeding begins (R384, R385): STREAM_GEN rises, the SESSION records go first. A COMMIT that waits goes with them (R388). -/
def Work.startSeeding (w : Work) (p : Nat) : Work :=
  let old := w.streamOf p
  let gen := match old with | some s => (s.gen + 1) % 2 ^ 32 | none => 1
  let ss := w.seedOrder p
  let named := (ss.map fun e => e.2.courses).flatten.dedup
  let rest := (w.n.st.courses.filter fun e => e.2.part = p && !e.2.copy && !e.2.pages.isEmpty && !(named.contains e.1)).map (·.1)
  let waits := (old.map (·.waits)).getD []
  let first : Batch :=
    { tick := w.now, seq := 0, changes := (w.firstSeed ss waits).map fun r => { meta_ := r, run := none }
      sent := false, flags := 1, courses := [], fetch := none, data := [], recs := [], rows := 0, firstMsn := 0, resent := false }
  let s : Stream :=
    { part := p, state := .seeding, before := .seeding, gen := gen, seq := 0, open_ := [], batches := [first], acked := none
      unseeded := (ss.filter fun e => e.2.mirrorState != 2).map fun e => e.2.cid, toSeed := named ++ rest, seeding := []
      waits := waits.map fun c => { c with batch := some w.now }
      since := w.ps, lastAck := w.ps }
  w.putStream s

/-- A seed batch that carries records only, to be sent after what waits. -/
def Work.seedDoneBatch (w : Work) : Batch :=
  { tick := w.now, seq := 0, changes := [], sent := false, flags := 3, courses := [], fetch := none, data := [], recs := []
    rows := 0, firstMsn := 0, resent := false }

/-- Every slice seeded: a batch with SEED_DONE, and the stream is Streaming (R384). -/
def Work.seedsDone (w : Work) (p : Nat) : Work :=
  match w.streamOf p with
  | none => w
  | some s =>
    if s.state = .seeding ∧ s.unseeded.isEmpty ∧ s.toSeed.isEmpty ∧ s.seeding.isEmpty then
      w.setStream { s with state := .streaming, before := .streaming, batches := s.batches ++ [w.seedDoneBatch] }
    else w

/-- A stream whose service connection has gone is Unavailable (R375). -/
def Work.streamCheckConn (w : Work) (p : Nat) : Work :=
  match w.streamOf p with
  | some s => if s.state = .off ∨ s.state = .unavailable ∨ w.understudyConn.isSome then w else w.streamLost p
  | none => w

/-- Every stream is looked at so. -/
def Work.streamsCheckConn (w : Work) : Work := (w.n.mi.streams.map (·.part)).foldl Work.streamCheckConn w

/-- A partition's stream starts, or stays Unavailable for want of a service connection (R375, R384). -/
def Work.startStream (w : Work) (p : Nat) : Work :=
  if !w.mirrored p then w
  else
    let w := w.startSeeding p
    if w.understudyConn.isSome then w.seedsDone p else w.streamLost p

/-- A partition's stream ends (R384): MIRROR cleared or MIR_PAIR changed. The record stays, Off, with its STREAM_GEN. -/
def Work.endStream (w : Work) (p : Nat) : Work :=
  let w := (w.commitsFailed p).restoresFailed p
  match w.streamOf p with
  | none => w
  | some s => w.setStream { s with state := .off, batches := [], open_ := [], toSeed := [], seeding := [], unseeded := [], since := w.ps }

/-- `MIRROR_ENABLE` (R373, R374, R384, R406): a write of MIR_PAIR or MIR_PCFG. -/
def execMirrorEnable (wr : RegWr) (s : State) : Host.Outcome State Fault Refusal :=
  run s fun w =>
    let under := w.understudy
    w.regAction wr .MIR [0x104, 0x124] fun w _ idx =>
      if wr.off % 0x1000 = 0x104 then
        if w.understudy = under then w
        else ((List.range 64).filter fun p => w.flag Reg.MIR_MIRROR 0 p).foldl (fun w p => (w.endStream p).startStream p) w
      else
        let live := ((w.streamOf idx).map fun s : Stream => decide (s.state ≠ StreamState.off)).getD false
        if w.flag Reg.MIR_MIRROR 0 idx then (if live then w else w.startStream idx) else (if live then w.endStream idx else w)

/-! ## Batches -/

/-- The images of the KIND 1 blocks of a batch (R380): each covers the number of row runs that the compressor took for it; none unless they
cover all. -/
def cutRuns : List Bytes → List Nat → Option (List Bytes)
  | [], [] => some []
  | _, [] => none
  | rs, n :: ns => if n = 0 ∨ rs.length < n then none else (cutRuns (rs.drop n) ns).map ((rs.take n).flatten :: ·)

/-- Rows of an image of row runs. -/
def imageRows (img : Bytes) : Nat := (runRows (img.length / 16 + 1) img).getD 0

/-- A KIND 1 block verifies against its image (R221, R380). The spec gives its width, table and ratio no rule, so any block that expands to
the image will do. -/
def rowsVerify (part : Nat) (img b : Bytes) : Bool :=
  let h := BlkHead.read b
  decide (h.kind = 1 ∧ h.items = imageRows img) && (match expandBlock b img.length part with | .ok x => decide (x = img) | .error _ => false)

/-- The KIND 1 blocks of a batch as the compressor of a die emits them (R221); none when a failure faults it. -/
def Work.emitRows (w : Work) (die part : Nat) : List (Bytes × Bytes) → Option (List Bytes) × Work
  | [] => (some [], w)
  | (img, b) :: rest =>
    let good := rowsVerify part img b
    let v := if good then (true, { w with n.cp.fails := w.n.cp.fails.set die 0 }) else w.verifyFailed die (w.get Reg.CMP_FAULT_LIMIT)
    if !v.1 then (none, v.2)
    else
      let out := if good then b else passBlock false 1 (imageRows img) 0 part img
      let r := (v.2.countBlock out).emitRows die part rest
      (r.1.map (out :: ·), r.2)

/-- The blocks of a course as the compressor of a die emits them in one go (R219 to R221); none when a failure faults it. -/
def Work.emitCourse (w : Work) (die : Nat) : CmpRun → Nat → List Bytes → Option (List Bytes) × Work
  | _, _, [] => (some [], w)
  | r, i, b :: rest =>
    let x := w.emitBlock die r i b (r.verifies i b)
    match x.1 with
    | none => (none, x.2)
    | some (r, out) =>
      let y := (x.2.countBlock out).emitCourse die r (i + 1) rest
      (y.1.map (out :: ·), y.2)

/-- Blocks that a compressor may emit for a course: one for each image, each that verifies in the form of R219 and R220. -/
def CmpRun.allowed : CmpRun → Nat → List Bytes → Bool
  | r, i, [] => decide (i = r.imgs.length)
  | r, i, b :: rest => decide (i < r.imgs.length) && (if r.verifies i b then r.form b && (r.emit b).allowed (i + 1) rest else r.allowed (i + 1) rest)

/-- Blocks packed into data messages, in order, none longer than a message may be (R279); each block with its message and offset. -/
def packBlocks : List Bytes → List Bytes × List (Nat × Nat)
  | bs => bs.foldl (fun acc b =>
      match acc.1.getLast? with
      | some m =>
        if m.length + b.length ≤ 2129920 then (acc.1.dropLast ++ [m ++ b], acc.2 ++ [(acc.1.length - 1, m.length)])
        else (acc.1 ++ [b], acc.2 ++ [(acc.1.length, 0)])
      | none => ([b], [(0, 0)])) ([], [])

/-- The metadata message of a sent batch. -/
def Work.batchMessage (w : Work) (s : Stream) (b : Batch) : Bytes :=
  let recs := cutRecs false (b.recs.length / 16) b.recs
  let h : BatchHead :=
    { part := s.part, flags := b.flags, src := w.nodeId, msgs := b.data.length, tick := b.tick.toNat, gen := s.gen, seq := b.seq
      firstMsn := b.firstMsn, bytes := (b.data.map (·.length)).foldl (· + ·) 0, records := recs.length, metaLen := b.recs.length, rows := b.rows }
  h.message recs

/-- Put the messages of a batch on the service connection, data messages first (R379); none when it cannot be sent. -/
def Work.putBatch (w : Work) (s : Stream) (b : Batch) (withData : Bool) : Option (Batch × Work) :=
  match w.understudyConn with
  | none => none
  | some c =>
    let first := ((w.connOf c).map fun x => x.txMsn % 2 ^ 24).getD 0
    let b := if withData then { b with firstMsn := first } else b
    let go := fun (acc : Bool × Work) (d : Bytes) =>
      let r := acc.2.sendMsg c 7 0 d (.mirrorData s.part s.gen b.seq) true
      (acc.1 && r.1.isSome, r.2)
    let r := if withData then b.data.foldl go (true, w) else (true, w)
    let m := r.2.sendMsg c 7 0 (r.2.batchMessage s b) (.mirrorBatch s.part s.gen b.seq)
    if r.1 ∧ m.1.isSome then some (b, m.2) else none

/-- Send a batch for the first time, or make the stream Unavailable when it cannot be sent. -/
def Work.sendBatch (w : Work) (s : Stream) (b : Batch) (blocks : List Bytes) (kind0 : List Nat) (rows : Nat) : Work :=
  let packed := packBlocks blocks
  let blkRecs := packed.2.zipIdx.map fun e =>
    metaRec 7 (leBytes 4 (atD kind0 e.2 0xFFFFFFFF) ++ leBytes 4 e.1.2 ++ leBytes 2 e.1.1 ++ leBytes 2 0)
  let recs := ((b.changes.map (·.meta_)).filter fun m => !m.isEmpty) ++ blkRecs
  let b := { b with sent := true, seq := s.seq, data := packed.1, recs := recs.flatten, rows := rows }
  if 255 < packed.1.length then w
  else match w.putBatch s b true with
    | none => w.streamLost s.part
    | some (b, w) =>
      let w := w.setStream { s with seq := s.seq + 1, batches := (s.batches.filter (·.sent)) ++ [b] ++ (s.batches.filter fun x => !x.sent).drop 1 }
      (w.count Reg.MIR_BATCHES_SENT).meter s.part 13 (b.data.foldl (fun n d => n + d.length) (64 + b.recs.length))

/-- The records that go with a course's seed blocks (R385): itself, its pages, the runs that name it, and the tree records whose
last course this is. -/
def Work.seedRecords (w : Work) (s : Stream) (ci : Nat) (c : Course) : List Bytes :=
  let runs := (w.n.pg.sessions.filter fun e => e.2.part = s.part).map fun e =>
    (e.2.layers.zipIdx.map fun l => (l.1.runs.filter fun r => r.course = ci).map fun r => runRec l.2 r e.2.cid).flatten
  let pending := s.toSeed.drop 1
  let trees := w.n.ks.tree.filterMap fun e =>
    let cs := e.2.handles.map fun h => w.pageOfHandle e.2.part h.toNat
    if e.2.part = s.part ∧ !e.2.lost ∧ cs.any (fun q => (q.map (·.1)) = some ci) ∧
       cs.all (fun q => match q with | some x => !(pending.contains x.1) | none => false) then
      some (metaRec 5 ([1] ++ List.replicate 11 0 ++ treeBytes e.2 ++
        (cs.map fun q => match q with
          | some x => leBytes 4 x.1 ++ leBytes 1 x.2 ++ leBytes 3 0
          | none => leBytes 8 0).flatten))
    else none
  [courseRec ci c.k 1 c.layer (decide (1 < c.refs))] ++ (c.pages.mapIdx fun i p => pageRec ci i p) ++ runs.flatten ++ trees

/-- A batch of an ordinary tick leaves (R377 to R380): with no row it needs no compressor; else its blocks are those of the compressor that
serves row runs, which holds no other course (R222). -/
def Work.sendRows (w : Work) (st : Stream) (b : Batch) (blocks : List (Nat × Bytes)) : Work :=
  if b.runs.isEmpty then if blocks.isEmpty then w.sendBatch st b [] [] 0 else w
  else match w.rowsDie, cutRuns b.runs (blocks.map (·.1)) with
    | some die, some imgs =>
      if (w.cmpRun die).isSome then w
      else
        let r := w.emitRows die st.part (imgs.zip (blocks.map (·.2)))
        match r.1 with
        | some out => r.2.sendBatch st b out [] ((imgs.map imageRows).foldl (· + ·) 0)
        | none => r.2
    | _, _ => w

/-- The next course of a seeding stream leaves as a seed batch (R385): through the compressor of its die from HBM, else as it is stored
(R211), after a check of its blocks and their pages (R94), from tier 2 once the host window can be read (R68, R333). A course with a lost page
is not seeded: its sessions are Lost, or it is being restored (DESIGN CHOICE, log 132). -/
def Work.sendSeed (w : Work) (st : Stream) (ci : Nat) (rest : List Nat) (blocks : List Bytes) : Work :=
  match w.course ci with
  | none => w.setStream { st with toSeed := rest }
  | some c =>
    let send := fun (w : Work) (out : List Bytes) =>
      let b : Batch :=
        { w.seedDoneBatch with flags := 1, courses := [ci], changes := (w.seedRecords st ci c).map fun r => { meta_ := r, run := none } }
      w.sendBatch { st with toSeed := rest, seeding := st.seeding ++ [ci], batches := st.batches ++ [b] } b out (out.map fun _ => ci) 0
    if c.pages.any (·.lost) then w.setStream { st with toSeed := rest }
    else match c.loc with
    | .hbm _ =>
      let bad := w.badPages c
      if !bad.isEmpty then bad.foldl (fun w p => w.crcLoss ci p) (w.setStream { st with toSeed := rest })
      else match w.compressorOf c with
        | none => w
        | some die =>
          let r := w.courseRun (.spill 0) c
          if (w.cmpRun die).isSome ∨ !r.allowed 0 blocks then w
          else
            let x := (w.showRatio r).emitCourse die r 0 blocks
            match x.1 with
            | some out => send (x.2.count Reg.CMP_COURSES) out
            | none => x.2
    | l =>
      if (l.tier = 2 && w.windowOff) ∨ blocks ≠ l.blks.map (fun b => w.blkBytes l b) then w
      else
        let q := w.badBlocks c
        if q.1 = ([], []) then send q.2 blocks else (q.2.setStream { st with toSeed := rest }).loseFound ci q.1

/-- `MIRROR_BATCH_SEND` (R222, R377 to R380, R385): the oldest batch not sent leaves with the blocks its compressor made of its rows; while
seeding and with none waiting, the next course leaves as a seed batch. Blocks that no compressor could have made of it leave nothing done, and
in Behind nothing leaves (R384). -/
def execMirrorBatchSend (part : Nat) (blocks : List (Nat × Bytes)) (s : State) : Host.Outcome State Fault Refusal :=
  run s fun w =>
    let w := w.streamCheckConn part
    match w.streamOf part with
    | none => w
    | some st =>
      if !w.flag Reg.MIR_EN ∨ st.state = .off ∨ st.state = .unavailable ∨ st.state = .behind then w
      else match st.batches.find? fun b => !b.sent with
        | some b => w.sendRows st b blocks
        | none =>
          match st.toSeed with
          | [] => w
          | ci :: rest => w.sendSeed st ci rest (blocks.map (·.2))

/-! ## COMMIT -/

/-- A session's slice is seeded in the running generation (R385, R388). -/
def Stream.seededSession (s : Stream) (x : Session) : Bool :=
  !(s.unseeded.contains x.cid) && x.courses.all fun ci => !(s.toSeed.contains ci) && !(s.seeding.contains ci)

/-- The batch of tick `t`, and every earlier one, is acknowledged. -/
def Work.ackedThrough (w : Work) (s : Stream) (t : Tick) : Bool :=
  t != w.now && s.batches.all fun b => Tick.earlier t b.tick

/-- COMMITs whose batch is acknowledged and whose slice is seeded complete OK (R388); the session keeps the record of its last one. -/
def Work.commitsDone (w : Work) (p : Nat) : Work :=
  match w.streamOf p with
  | none => w
  | some s =>
    if s.state = .off ∨ s.state = .unavailable then w
    else
      let ready := s.waits.filter fun c => (c.batch.any fun t => w.ackedThrough s t) &&
        ((w.session c.session).map fun x => s.seededSession x).getD true
      ready.foldl (fun w c => ((w.modSession c.session fun x => { x with commit := c.record }).count Reg.MIR_COMMITS_OK).complete c.src c.tag stOK 0 0)
        (w.setStream { s with waits := s.waits.filter fun c => !(ready.contains c) })

/-- The session of a COMMIT, by checks 1 and 2 of R109; R388 has the ownership check follow check 3. -/
def Work.openSession (w : Work) (part handle cid : Nat) : Except Nat (Nat × Session) := do
  let (i, s) ← w.findSession part handle (some cid)
  match s.state.refusal with
  | some st => throw st
  | none => pure (i, s)

/-- A COMMIT from its source (R387, R388). -/
def Work.commitOp (w : Work) (src : Src) (desc : Bytes) : Work :=
    match w.partOf src with
    | none => w
    | some part => w.srcActs src 8 desc fun w =>
        let m := srcBytes src [4, 4, 8, 4, 4, 8] desc
        let tag := fieldAt m 0x10 4
        let fail := fun (w : Work) st => (w.count Reg.MIR_COMMITS_FAILED).complete src tag st 0 0
        if !w.live part then fail w stStruck
        else if w.isDark then fail w stFenced
        else match w.openSession part (fieldAt m 0 4) (fieldAt m 8 8) with
          | .error st => fail w st
          | .ok (si, x) =>
            if desc.length ≠ 32 ∨ ¬ zeroAt m 4 4 ∨ ¬ zeroAt m 0x18 8 then fail w stInternal
            else if (w.ownCheck x).isSome then fail w ((w.ownCheck x).getD stStale)
            else
            let w := w.streamCheckConn part
            match w.streamOf part with
              | none => fail w stMirror
              | some st =>
                if !w.mirrored part ∨ st.state = .off then fail w stMirror
                else
                  let es := x.layers.map w.baseE
                  let rec_ := metaRec 6 (leBytes 1 es.length ++ leBytes 3 0 ++ leBytes 8 x.cid.toNat ++ leBytes 4 (fieldAt m 0x14 4) ++
                    List.replicate 12 0 ++ (es.map (leBytes 4)).flatten)
                  let w := (w.arrive src).metaChange part rec_
                  match w.streamOf part with
                  | some st =>
                    -- while the stream is Unavailable no batch carries the record: the next seeding does
                    let c : CommitWait := { src := src, tag := tag, session := si, arrival := w.now, record := rec_
                                            batch := if st.state = .unavailable then none else some w.now }
                    w.setStream { st with waits := st.waits ++ [c] }
                  | none => w

/-- `COMMIT` (R387, R388): the checks of an APPEND, then it waits for its tick's batch. -/
def execCommitOp (src : Src) (desc : Bytes) (s : State) : Host.Outcome State Fault Refusal :=
  run s fun w => w.commitOp src desc

/-- `COMMIT_WAIT_EXPIRED` (R388): a COMMIT that has waited COMMIT_WAIT ticks ends with MIRROR_UNAVAILABLE. -/
def execCommitWaitExpired (src : Src) (s : State) : Host.Outcome State Fault Refusal :=
  run s fun w =>
    match w.n.mi.streams.find? fun t => t.waits.any fun c => c.src = src with
    | none => w
    | some t =>
      match t.waits.find? fun c => c.src = src with
      | none => w
      | some c =>
        if ticksTo c.arrival w.now < w.get Reg.MIR_COMMIT_WAIT then w
        else ((w.setStream { t with waits := t.waits.filter fun d => d.src != src }).count Reg.MIR_COMMITS_FAILED).complete src c.tag stMirror 0 0

/-! ## Acknowledgements -/

/-- Send a batch's messages again (R226, R382); nothing is sent while MIR_CTRL.EN is 0. -/
def Work.resendBatch (w : Work) (s : Stream) (b : Batch) (withData : Bool) : Work :=
  if !w.flag Reg.MIR_EN then w
  else match w.putBatch s b withData with
  | none => w.streamLost s.part
  | some (b', w) => w.setStream { s with batches := s.batches.map fun x => if x.seq = b.seq ∧ x.sent then b' else x }

/-- The outcome of a batch's metadata message (R381, R382, R384). -/
def Work.batchOutcome (w : Work) (part gen seq status : Nat) : Work :=
  match w.streamOf part with
  | none => w
  | some s =>
    if s.gen ≠ gen ∨ s.state = .off ∨ s.state = .unavailable then w
    else match s.batches.find? fun b => b.sent && b.seq = seq with
      | none => w
      | some b =>
        if status = stOK then
          let s := { s with batches := s.batches.filter (· != b), acked := some b.tick, lastAck := w.ps
                            seeding := s.seeding.filter fun c => !(b.courses.contains c) }
          let s := if s.state = .behind ∧ s.batches.all (fun x => !x.sent) then { s with state := s.before } else s
          let w := (w.setStream s).set Reg.MIR_TICK (b.tick.toNat % 2 ^ 32) 0 part
          let w := if bitOf b.flags 1 then w.report { code := 0x4904, page := 0x74, part := some part, arg := w.understudy, detail := gen } else w
          (w.seedsDone part).commitsDone part
        else if status = stDuplicate then w.resendBatch s b false
        else if status = stCorrupt ∧ !b.resent then
          -- the sender checks its source's CRCs again, and otherwise resends once (R226)
          let bad := (b.courses.map fun ci => match w.course ci with
            | some c => (match c.loc with | .hbm _ => (w.badPages c).map fun p => (ci, p) | _ => [])
            | none => []).flatten
          let s := { s with batches := s.batches.map fun x => if x = b then { b with resent := true } else x }
          let w := bad.foldl (fun w e => w.crcLoss e.1 e.2) w
          if bad.isEmpty then w.resendBatch s { b with resent := true } true else w.streamLost part
        else w.streamLost part

/-- `SLICE_SEEDED` (R385, R406): all courses of the next slice are seeded; the understudy's node ID goes into its record, and with the last
slice the stream is Streaming. A slice counts as seeded once the one before it stands in its record. -/
def execSliceSeeded (part : Nat) (cid : DWord) (s : State) : Host.Outcome State Fault Refusal :=
  run s fun w =>
    match w.streamOf part with
    | none => w
    | some st =>
      if st.state = .off ∨ st.state = .unavailable ∨ !(st.unseeded.contains cid) then w
      else match w.n.pg.sessions.find? fun e => e.2.part = part && e.2.cid = cid && e.2.mirrorState != 2 with
        | none => (w.setStream { st with unseeded := st.unseeded.filter (· != cid) }).seedsDone part
        | some (si, x) =>
          let before := st.unseeded.head? != some cid || w.n.mi.homeOps.any fun r => r.op = .setUnderstudy && r.part = part
          let st := { st with unseeded := st.unseeded.filter (· != cid) }
          -- the SESSION record has been acknowledged: the generation's first batch is no longer held
          if before ∨ !st.seededSession x ∨ (st.batches.any fun b => b.seq = 0 && b.courses.isEmpty && bitOf b.flags 0 && !bitOf b.flags 1) then w
          else
            let w := w.setStream st
            let w := if x.own = .own then w.startHome .setUnderstudy si part cid x.origin else w
            (w.seedsDone part).commitsDone part

/-- `MIRROR_ACK_LATE` (R384): the acknowledgement of batch t is absent at the end of tick t + 1 + ACK_GRACE. A stream that is no longer
Streaming makes the losses under restore final (R386). -/
def execMirrorAckLate (part : Nat) (s : State) : Host.Outcome State Fault Refusal :=
  run s fun w =>
    let w := w.streamCheckConn part
    match w.streamOf part with
    | none => w
    | some st =>
      let late := st.batches.any fun b => w.get Reg.MIR_ACK_GRACE + 1 < ticksTo b.tick w.now && Tick.earlier b.tick w.now
      if (st.state = .seeding ∨ st.state = .streaming) ∧ late then
        let w := w.setStream { st with state := .behind, before := st.state, since := w.ps }
        ((w.count Reg.MIR_BEHIND).report { code := 0x4901, page := 0x74, part := some part, arg := w.understudy, detail := part }).restoresFailed part
      else w

/-- Bytes of the batches that are held (R384). -/
def Stream.held (s : Stream) : Nat :=
  (s.batches.map fun b => if b.sent then (b.data.map (·.length)).foldl (· + ·) 0 + b.recs.length + 64
    else (b.changes.map fun c => c.meta_.length + ((c.run.map (·.length)).getD 0)).foldl (· + ·) 64).foldl (· + ·) 0

/-- `MIRROR_STREAM_LOST` (R384): in Behind, the held batches exceed MIR_BACKLOG, or LOST_MS have passed with no acknowledgement. -/
def execMirrorStreamLost (part : Nat) (s : State) : Host.Outcome State Fault Refusal :=
  run s fun w =>
    match w.streamOf part with
    | none => w
    | some st =>
      if st.state = .behind ∧ (w.get Reg.MIR_MIB * 2 ^ 20 < st.held ∨ w.get Reg.MIR_LOST_MS * 1000000000 ≤ w.ps - max st.lastAck st.since) then
        w.streamLost part
      else w

/-- `MIRROR_RESEED_TIMER` (R384): LOST_MS after a stream became Unavailable it is seeded again, given a service connection. -/
def execMirrorReseedTimer (part : Nat) (s : State) : Host.Outcome State Fault Refusal :=
  run s fun w =>
    match w.streamOf part with
    | none => w
    | some st =>
      if st.state = .unavailable ∧ w.mirrored part ∧ w.get Reg.MIR_LOST_MS * 1000000000 ≤ w.ps - st.since ∧ w.understudyConn.isSome then
        (w.startSeeding part).seedsDone part
      else w

/-! ## Restores (R386) -/

/-- `RESTORE_FETCH_SEND` (R386): every batch up to the tick of the loss is acknowledged; a FETCH batch names the course. A stream that is not
Streaming makes the loss final. -/
def execRestoreFetchSend (course : Nat) (s : State) : Host.Outcome State Fault Refusal :=
  run s fun w =>
    match w.n.mi.restores.find? fun r => r.1 = course, w.course course with
    | some (_, t), some c =>
      let w := w.streamCheckConn c.part
      match w.streamOf c.part with
      | none => w.restoreFailed course
      | some st =>
        if st.state ≠ .streaming then w.restoreFailed course
        else if !w.flag Reg.MIR_EN ∨ !w.ackedThrough st t ∨ st.batches.any (fun b => b.fetch = some course || !b.sent) then w
        else
          let b : Batch :=
            { w.seedDoneBatch with flags := 4, fetch := some course
                                   changes := [{ meta_ := metaRec 8 (leBytes 4 course ++ leBytes 8 0), run := none }] }
          w.sendBatch { st with batches := st.batches ++ [b] } b [] [] 0
    | some _, none => { w with n.mi.restores := w.n.mi.restores.filter fun r => r.1 != course }
    | none, _ => w

/-- A RESTORE batch (R386): the course's PAGE records and its blocks. -/
def Work.sendRestore (w : Work) (q : RestoreReply) (pages : List Page) (blocks : List Bytes) : Work :=
  let offs := blocks.zipIdx.map fun (e : Bytes × Nat) => metaRec 7 (leBytes 4 q.course ++
    leBytes 4 (((blocks.take e.2).map List.length).foldl (· + ·) 0) ++ leBytes 2 0 ++ leBytes 2 0)
  let recs := metaRec 8 (leBytes 4 q.course ++ leBytes 8 0) :: (pages.mapIdx fun i p => pageRec q.course i p) ++ offs
  let first := ((w.connOf q.conn).map fun x => x.txMsn % 2 ^ 24).getD 0
  let data := blocks.flatten
  let w := if data.isEmpty then w else (w.sendMsg q.conn 7 0 data (.mirrorData q.part q.gen q.seq) true).2
  let head : BatchHead :=
    { part := q.part, flags := 8, src := w.nodeId, msgs := if data.isEmpty then 0 else 1, tick := q.tick, gen := q.gen, seq := q.seq
      firstMsn := first, bytes := data.length, records := recs.length, metaLen := (recs.map (·.length)).foldl (· + ·) 0, rows := 0 }
  (w.sendMsg q.conn 7 0 (head.message recs) (.restoreReply q)).2

/-- The RESTOREs that need no compressor leave (R386): of a copy that this node does not hold whole a batch without blocks (DESIGN CHOICE,
log 35); of one that lies compressed the blocks as stored (R211), checked first (R94), from tier 2 once the host window can be read (R68,
R333). Nothing leaves while MIR_CTRL.EN is 0. -/
def Work.sendReplies (w : Work) : Work :=
  if !w.flag Reg.MIR_EN then w
  else w.n.mi.replies.foldl (fun w e =>
    let gone := fun w : Work => { w with n.mi.replies := eraseN e.1 w.n.mi.replies }
    match w.replyCopy e.2 with
    | none => (gone w).sendRestore e.2 [] []
    | some (i, c) => match c.loc with
      | .hbm _ => w
      | l =>
        if l.tier = 2 && w.windowOff then w
        else
          let q := (gone w).badBlocks c
          if q.1 = ([], []) && !c.pages.any (·.lost) then q.2.sendRestore e.2 c.pages (l.blks.map fun b => w.blkBytes l b)
          else (q.2.loseFound i q.1).sendRestore e.2 [] []) w

/-- The understudy owes a RESTORE. -/
def Work.owe (w : Work) (q : RestoreReply) : Work :=
  ({ w with n.mi.replies := insertN (freshKey 0 w.n.mi.replies) q w.n.mi.replies } : Work).sendReplies

/-- The end of a RESTORE batch at the understudy (R226): one found damaged is sent once more, unless its source fails a page CRC, which is
handled as an uncorrectable error of the copy; after that the course is one that the understudy does not hold. -/
def Work.restoreEnded (w : Work) (q : RestoreReply) (status : Nat) : Work :=
  if status ≠ stCorrupt then w
  else
    let bad := match w.replyCopy q with
      | some (i, c) => (match c.loc with | .hbm _ => w.badPages c | _ => []).map fun p => (i, p)
      | none => []
    if q.resent then w.sendRestore q [] [] else (bad.foldl (fun w e => w.crcLoss e.1 e.2) w).owe { q with resent := true }

/-- The owner's course of a copy is full (R383): its last slot holds a page, complete or followed by another course of its layer; one that the
owner has freed will gain no row either. -/
def InStream.copyFull (s : InStream) (e : CopyCourse) (c : Course) : Bool :=
  e.freed || (decide (c.pages.length = 2 ^ c.k) && ((c.pages.getLast?).any (fun p => p.counted = 16) || !s.lastIn e.index))

/-- A copy course may go to tier 1 (R376, R383): the owner's is full, HBM_COPY is clear, it stands open in HBM with rows and is moving nowhere,
and tier 1 has room for its passthrough form. -/
def Work.copyShuts (w : Work) (s : InStream) (e : CopyCourse) (i : Nat) (c : Course) : Bool :=
  s.copyFull e c && !e.taken && e.seeded && c.loc.tier = 0 && c.loc.blks.isEmpty && w.movable (i, c) &&
    !w.flag Reg.MIR_HBM_COPY 0 s.part && decide (c.passBytes ≤ w.tierFree s.part 1)

/-- The course of a job of the understudy, with its index; none when there is no such work. -/
def Work.jobCourse (w : Work) (job : CmpJob) : Option (Nat × Course) :=
  match job with
  | .spill _ => none
  | .copy src part ci => (w.inStream src part).bind fun s => (s.copyOf ci).bind fun e => e.course.bind fun i => (w.course i).bind fun c =>
      if w.copyShuts s e i c then some (i, c) else none
  | .reply n => (lookupN n w.n.mi.replies).bind fun q => (w.replyCopy q).bind fun c => if c.2.pages.any (·.lost) then none else some c

/-- A job of the understudy has all its blocks: a copy's go to tier 1, a RESTORE's leave. -/
def Work.jobDone (w : Work) (r : CmpRun) : Work :=
  match w.jobCourse r.job with
  | none => w
  | some (i, c) => match r.job with
    | .spill _ => w
    | .copy _ _ _ =>
      let q := w.placeStored c.k (r.emitted.map fun b => { die := 0, unit := 0, len := b.length, mode := fieldAt b 1 1 })
      match q.1 with
      | none => w
      | some bs =>
        let w := (bs.zip r.emitted).foldl (fun w e => w.store (ddrKey e.1.die (e.1.unit * 256)) e.2) q.2
        ((w.setCourse i { c with loc := .ddr bs }).freeLoc c c.loc).retireFreed
    | .reply n => match lookupN n w.n.mi.replies with
      | some q => ({ w with n.mi.replies := eraseN n w.n.mi.replies }).sendRestore q c.pages r.emitted
      | none => w

/-- A job's turn to begin on a die (R222): a RESTORE's course after the mirror streams, a copy bound for tier 1 after these and every spill
(DESIGN CHOICE, log 132: R222 does not name it). -/
def Work.jobTurn (w : Work) (die : Nat) (job : CmpJob) : Bool :=
  match job with
  | .spill _ => false
  | .copy _ _ _ => !w.mirrorWaits die && (w.compressing die).isEmpty
  | .reply _ => w.flag Reg.MIR_EN && !w.streamWaits die

/-- The next block of a copy course, for tier 1 or for a RESTORE batch (R210, R211, R219 to R222, R383, R386): the first begins when the
compressor of its die holds no course and its turn has come; a page that fails a CRC is lost (R94). -/
def Work.emitJob (w : Work) (die : Nat) (job : CmpJob) (blk : Nat) (bytes : Bytes) (corrupt : Bool) : Work :=
  match w.jobCourse job with
  | none => if blk = 0 then w else w.dropRun job
  | some (i, c) =>
    let held := w.cmpRun die
    let bad := if blk = 0 then w.badPages c else []
    let cur := if blk = 0 then (if held.isNone && w.jobTurn die job then some (w.courseRun job c) else none)
      else held.filter fun r => r.job = job && r.emitted.length = blk
    match cur with
    | none => w
    | some r =>
      if w.compressorOf c ≠ some die ∨ r.imgs.length ≤ blk ∨ (bad.isEmpty ∧ !corrupt ∧ r.verifies blk bytes ∧ !r.form bytes) then w
      else if !bad.isEmpty then (bad.foldl (fun w p => w.crcLoss i p) w).sendReplies
      else
        let w := if blk = 0 then w.showRatio r else w
        let x := w.emitBlock die r blk bytes (!corrupt && r.verifies blk bytes)
        match x.1 with
        | none => x.2
        | some (r, b) =>
          let w := x.2.countBlock b
          if blk + 1 = r.imgs.length then ((w.count Reg.CMP_COURSES).setRun die none).jobDone r else w.setRun die (some r)

/-- `COMPRESSOR_BLOCK_EMITTED` (R219 to R222): the next block of a course under compression, as the die's compressor emitted it; it is decoded
inline and compared with its source, and one that fails is emitted again as passthrough. A block that verifies is one that the compressor
could have emitted, or the command leaves nothing done. -/
def execCompressorBlockEmitted (die : Nat) (job : CmpJob) (blk : Nat) (bytes : Bytes) (corrupt : Bool) (s : State) :
    Host.Outcome State Fault Refusal :=
  run s fun w => match job with
    | .spill mv => w.emitSpill die mv blk bytes corrupt
    | _ => w.emitJob die job blk bytes corrupt

/-- A course restored from the images of its blocks (R386): new frames, the handles unchanged; none when there is no room or the
copy does not hold what was counted. -/
def Work.restoreCourse (w : Work) (ci : Nat) (imgs : List Bytes) : Option Work :=
  match w.course ci with
  | none => none
  | some c =>
    let len := w.courseFrames c
    let moved := match c.loc with | .hbm _ => 0 | _ => len
    let ext := c.extent
    let pageImg := fun i => sliceAt (atD imgs (c.blockOf i) []) ((i - (blockPagesOf c.k (c.blockOf i)).headD 0) * ext) ext
    let full := (List.range c.pages.length).all fun i => match c.pages[i]? with
      | some p => p.landed ≤ fieldAt (pageImg i) 4 1 && (p.landed = 0 || pageCrcOk (pageImg i))
      | none => true
    if !full ∨ min (w.hbmFree c.part) w.generalFree < moved ∨ w.generalFree < len then none
    else
      let r := w.tryStacks (c.creator % 2 ^ 18 + c.layer) len 8
      match r.1 with
      | none => none
      | some f =>
        let w := r.2.zero (frameAddr f) (len * 4096)
        let w := w.setCourse ci { c with loc := .hbm f, fromReserve := false, pages := c.pages.map fun p => { p with lost := false } }
        let w := (List.range c.pages.length).foldl (fun w i => match c.pages[i]? with
          | some p =>
            if p.landed = 0 then w
            else (w.store (w.pageAddrAt c.part f i + 64) (sliceAt (pageImg i) 64 (p.landed * p.rowBytes))).writeHeader ci i
          | none => w) w
        some (w.count Reg.MIR_RESTORES)

/-- The blocks of a RESTORE batch, decoded, at the owner. -/
def Work.takeRestore (w : Work) (recs : List Bytes) (blocks : List BatchBlock) : Work :=
  match recs.find? fun r => fieldAt r 0 1 = 8 with
  | none => w
  | some f =>
    let ci := fieldAt f 4 4
    if !(w.n.mi.restores.any fun r => r.1 = ci) then w
    else
      let imgs := (blocks.filter fun b => b.course = ci).map (·.img)
      match (if imgs.isEmpty then none else w.restoreCourse ci imgs) with
      | some w => { w with n.mi.restores := w.n.mi.restores.filter fun r => r.1 != ci }
      | none => w.restoreFailed ci

/-! ## The understudy's end -/

/-- MIR_SRC names a node (R373). -/
def Work.mirSource (w : Work) (node : Nat) : Bool :=
  node != 0xFFFF && (w.get Reg.MIR_SRC_A_108 = node || w.get Reg.MIR_SRC_B_108 = node || w.get Reg.MIR_SRC_A_10C = node ||
    w.get Reg.MIR_SRC_B_10C = node)

/-- The data messages that a batch names, once all have come (R379, R381). -/
def Work.batchData (w : Work) (conn : Nat) (h : BatchHead) : Option (List DataIn) :=
  (List.range h.msgs).mapM fun i => w.n.mi.dataIn.find? fun d => d.conn = conn && d.msn = (h.firstMsn + i) % 2 ^ 24

/-- The window of a block that a batch names (R223): for a course, that of its copy's k and its slice's row format, or of this node's own
course record for a RESTORE batch. Where no slice and no prefix block names the course yet, it is that of the row format in use that fits;
no record gives the length of row runs, and there the window is what the header says (DESIGN CHOICE, log 132). -/
def Work.batchWindow (w : Work) (s : Option InStream) (ci : Nat) (h : BlkHead) : Nat :=
  let blk := if h.first = 0 then 0 else 1
  match s with
  | none => ((w.course ci).map fun c => c.imageLen blk).getD 0
  | some s =>
    if ci = 0xFFFFFFFF then h.exp
    else
      let k := ((s.entry ci).map (·.k)).getD 0
      let len := fun fmt => (blockPagesOf k blk).length * (64 + 16 * (w.rowFmt fmt).rowBytes)
      match s.copyFmt ci with
      | some fmt => len fmt
      | none => (((List.range 16).filter fun f => w.flag Reg.PGM_VALID 0 f).map len).find? (· = h.exp) |>.getD 0

/-- What the link-ingress expander finds of the blocks of a batch: those that passed, in the order of the BLOCK records, and the data messages
that are damaged. -/
structure Ingress where
  blocks : List BatchBlock
  damaged : List Nat

/-- One block of a batch, named by its BLOCK record, on the link-ingress expander of the die whose port it came on, a free choice (log 73),
with the window and the partition of its record (R223, R224, R292). A block of a KIND that its record does not allow fails check 2, and the
pages of one that passes are checked under R94 (R226). -/
def Work.ingressBlock (w : Work) (s : Option InStream) (part : Nat) (data : List Bytes) (r : Bytes) : Option BatchBlock × Work :=
  let ci := fieldAt r 4 4
  let b := (atD data (fieldAt r 0xC 2) []).drop (fieldAt r 8 4)
  let h := BlkHead.read b
  let b := b.take h.stored
  let die := w.pick 2
  -- where in the receive buffers the block stands is a free value
  let at_ := die.2.draw
  let inst := at_.2.expanderOf (20 + die.1)
  let kind := if ci = 0xFFFFFFFF then 1 else 0
  let x := at_.2.decodeOn inst b (if h.kind = kind then w.batchWindow s ci h else h.exp + 1) (some part) (at_.1 % (8 * stackBytes)) none
  match x.1 with
  | none => (none, x.2)
  | some img =>
    if kind = 1 ∨ (imagePages h.first h.items img).all fun e => pageCrcOk (e.2) then (some { course := ci, stored := b, img := img }, x.2)
    else (none, (x.2.count Reg.XPD_DAMAGED).capture { code := 0x4007, page := 0x25, part := some part, arg := at_.1 % (8 * stackBytes), detail := 2 })

/-- The blocks of a batch go through the link-ingress expanders (R292). A data message that holds more or less than its blocks is damaged. -/
def Work.ingress (w : Work) (s : Option InStream) (part : Nat) (recs data : List Bytes) : Ingress × Work :=
  let mine := recs.filter fun r => fieldAt r 0 1 = 7
  let went := mine.foldl (fun (a : Ingress × Work) r =>
    let x := a.2.ingressBlock s part data r
    match x.1 with
    | some b => ({ a.1 with blocks := a.1.blocks ++ [b] }, x.2)
    | none => ({ a.1 with damaged := a.1.damaged ++ [fieldAt r 0xC 2] }, x.2)) ({ blocks := [], damaged := [] }, w)
  let ragged := (List.range data.length).filter fun i =>
    ((mine.filter fun r => fieldAt r 0xC 2 = i).map fun r => (BlkHead.read ((atD data i []).drop (fieldAt r 8 4))).stored).foldl (· + ·) 0 !=
      (atD data i []).length
  ({ went.1 with damaged := went.1.damaged ++ ragged }, went.2)

/-- The data messages of a batch complete (R292), each damaged one with CORRUPT_STREAM, or all with the status of a batch that is refused; they
are used up. -/
def Work.endData (w : Work) (data : List DataIn) (status : Nat) (damaged : List Nat) : Work :=
  data.zipIdx.foldl (fun w e =>
    ({ w with n.mi.dataIn := w.n.mi.dataIn.filter fun d => !(d.conn = e.1.conn && d.msn = e.1.msn) } : Work).completeMsg e.1.conn e.1.msn 0
      (if damaged.contains e.2 then stCorrupt else status) 0 0) w

/-- A batch is refused (R381, R396). -/
def Work.refuseBatch (w : Work) (conn msn : Nat) (b : Bytes) (status : Nat) : Work :=
  let data := ((BatchHead.read b).bind fun h => w.batchData conn h).getD []
  (w.endData data status []).completeMsg conn msn 0 status 0 0

/-- The sender of a batch has been fenced since it came (R381, R396). -/
def Work.staleConn (w : Work) (conn : Nat) : Bool := (w.connOf conn).any w.staleSender

/-- A metadata message no longer waits for its turn. -/
def InStream.turned (s : InStream) (conn msn : Nat) : InStream :=
  { s with pendingMeta := s.pendingMeta.filter fun e => !(e.1 = conn && e.2.1 = msn) }

/-- One batch of a stream acts and is answered (R381). A FETCH is answered with a RESTORE as well (R386). -/
def Work.actBatch (w : Work) (s : InStream) (conn msn : Nat) (b : Bytes) (h : BatchHead) (data : List DataIn) : Work :=
  let s := s.turned conn msn
  let recs := cutRecs true (b.length / 16) (b.drop 64)
  let known := recs.foldl (fun s r => s.learn (bitOf h.flags 0) r) s
  let g := (w.setIn s).ingress (some known) h.part recs (data.map (·.bytes))
  let w := g.2.endData data stOK g.1.damaged
  let finish := fun (w : Work) (s : InStream) status =>
    (w.setIn { s with nextSeq := s.nextSeq + 1, outcomes := ((h.seq, status) :: s.outcomes).take 64 }).completeMsg conn msn 0 status 0 0
  if !g.1.damaged.isEmpty then w.completeMsg conn msn 0 stCorrupt 0 0
  else if bitOf h.flags 2 then
    let ci := ((recs.find? fun r => fieldAt r 0 1 = 8).map fun r => fieldAt r 4 4).getD 0xFFFFFFFF
    (finish w s stOK).owe { conn := conn, src := s.src, part := s.part, tick := h.tick, gen := h.gen, seq := h.seq, course := ci }
  else match w.applyIn s h recs g.1.blocks with
    | none => finish w s stMirror
    | some w =>
      let w := (w.count Reg.MIR_BATCHES_APPLIED).meter s.part 13 (data.foldl (fun n d => n + d.bytes.length) b.length)
      finish w ((w.inStream s.src s.part).getD s) stOK

/-- A batch waits while a copy that it may have to open lies in tier 2 and the host window cannot be read (R68, R333). -/
def Work.batchWaits (w : Work) (s : InStream) (b : Bytes) : Bool :=
  w.windowOff && (cutRecs true (b.length / 16) (b.drop 64)).any (fun r => fieldAt r 0 1 = 7) &&
    s.courses.any fun c => ((c.course.bind w.course).map fun x : Course => x.loc.tier) = some 2

/-- Batches of a stream act in BATCH_SEQ order (R381); those of a sender that has been fenced meanwhile do not. -/
def Work.drainIn (w : Work) (src part : Nat) : Nat → Work
  | 0 => w
  | fuel + 1 =>
    match w.inStream src part with
    | none => w
    | some s =>
      match s.pendingMeta.find? fun e => w.staleConn e.1 with
      | some e =>
        (((w.setIn (s.turned e.1 e.2.1)).count Reg.MIR_STALE_REFUSED).refuseBatch e.1 e.2.1 e.2.2 stStale).drainIn src part fuel
      | none =>
        match s.pendingMeta.findSome? fun e => (BatchHead.read e.2.2).bind fun h => if h.seq = s.nextSeq then some (e, h) else none with
        | none => w
        | some (e, h) =>
          match w.batchData e.1 h with
          | none => w
          | some d => if w.batchWaits s e.2.2 then w else (w.actBatch s e.1 e.2.1 e.2.2 h d).drainIn src part fuel

/-- A metadata message of another node's stream, its data messages at hand (R381, R382): refused, answered again, or taken for its turn. -/
def Work.takeMeta (w : Work) (conn msn peer : Nat) (b : Bytes) (h : BatchHead) : Work :=
  let refuse := fun (w : Work) => w.refuseBatch conn msn b stMirror
  if !w.mirSource peer ∨ !w.live h.part ∨ h.src ≠ peer then refuse w
  else
    let new : InStream :=
      { src := peer, part := h.part, gen := h.gen, nextSeq := 0, pendingMeta := [], outcomes := [], courses := [], slices := [], oldCourses := []
        oldSlices := [], trees := [], stopped := false }
    let s := match w.inStream peer h.part with
      | none => new
      | some s => if s.gen < h.gen ∧ !s.stopped then s.renew h.gen else s
    if s.stopped ∨ h.gen < s.gen then refuse w
    else if h.seq < s.nextSeq then w.refuseBatch conn msn b ((lookupN h.seq s.outcomes).getD stMirror)
    else
      -- what still waits of the generation before is answered as a batch older than those kept
      let late := match w.inStream peer h.part with
        | some o => if o.gen < h.gen then o.pendingMeta else []
        | none => []
      let w := late.foldl (fun w e => w.refuseBatch e.1 e.2.1 e.2.2 stMirror) w
      (w.putIn { s with pendingMeta := s.pendingMeta ++ [(conn, msn, b)] }).drainIn peer h.part (s.pendingMeta.length + 2)

/-- The first metadata message that waits for its data messages and has them. -/
def Work.readyMeta (w : Work) : Option ((Nat × Nat × Bytes) × BatchHead × List DataIn) :=
  w.n.mi.metaIn.findSome? fun e => (BatchHead.read e.2.2).bind fun h => (w.batchData e.1 h).map fun d => (e, h, d)

/-- Metadata messages whose data messages have all come go on (R381): a RESTORE acts at the owner (R386), and another batch takes its turn. -/
def Work.drainMeta : Nat → Work → Work
  | 0, w => w
  | fuel + 1, w =>
    match w.readyMeta with
    | none => w
    | some (e, h, d) =>
      let w := { w with n.mi.metaIn := w.n.mi.metaIn.filter fun x => !(x.1 = e.1 && x.2.1 = e.2.1) }
      Work.drainMeta fuel <|
        if w.staleConn e.1 then (w.count Reg.MIR_STALE_REFUSED).refuseBatch e.1 e.2.1 e.2.2 stStale
        else if bitOf h.flags 3 then
          let recs := cutRecs true (e.2.2.length / 16) (e.2.2.drop 64)
          let g := w.ingress none h.part recs (d.map (·.bytes))
          let w := g.2.endData d stOK g.1.damaged
          if g.1.damaged.isEmpty then (w.completeMsg e.1 e.2.1 0 stOK 0 0).takeRestore recs g.1.blocks
          else w.completeMsg e.1 e.2.1 0 stCorrupt 0 0
        else match w.connOf e.1 with
          | some c => w.takeMeta e.1 e.2.1 c.peerNode e.2.2 h
          | none => w

/-- What waits at a mirror's receiving end goes on as far as it can (R381, R386). -/
def Work.mirrorGoesOn (w : Work) : Work :=
  let w := Work.drainMeta (w.n.mi.metaIn.length + 1) w
  (w.n.mi.inStreams.foldl (fun w s => w.drainIn s.src s.part (s.pendingMeta.length + 1)) w).sendReplies

/-- `MIRROR` (R379, R381 to R383, R386, R413): a data or a metadata message is complete. Only connections of partition 0 carry them
(R375), and none is accepted while MIR_CTRL.EN is 0. A data message is one whose packets bear CMPR (R279); its blocks are decoded once the
batch that names them acts, whose records give their windows (R223). `head` and `body` are the message's bytes, cut anywhere. -/
def execMirrorOp (conn msn : Nat) (head body : Bytes) (s : State) : Host.Outcome State Fault Refusal :=
  run s fun w =>
    let bytes := head ++ body
    match w.connOf conn with
    | none => w
    | some c =>
      w.srcActs (.conn conn msn) 7 bytes fun w => w.unlessDark conn msn 0 fun w =>
        if c.part ≠ 0 ∨ !w.flag Reg.MIR_EN ∨ !(w.mirSource c.peerNode || c.peerNode = w.understudy) then w.completeMsg conn msn 0 stMirror 0 0
        else if (w.inMsg conn msn).any (·.cmpr) then
          ({ w.arrive (.conn conn msn) with n.mi.dataIn := w.n.mi.dataIn ++ [{ conn := conn, msn := msn, bytes := bytes }] } : Work).mirrorGoesOn
        else match BatchHead.read bytes with
          | none => w.completeMsg conn msn 0 stInternal 0 0
          | some _ => ({ w.arrive (.conn conn msn) with n.mi.metaIn := w.n.mi.metaIn ++ [(conn, msn, bytes)] } : Work).mirrorGoesOn

end Sys2Proof.Machine
end

