-- ==== Sys2Proof/Machine/Finish.lean ====
section
/-!
DEFINITION. Sys2Proof/Machine/Finish.lean: an outbound message completes at its initiator (R285): what its sender does with the
status, the peer's AUX words and, for READ and CAS, the bytes of the RESPONSE, which for a host entry have been placed (R290).
-/

namespace Sys2Proof.Machine

/-- Slices of a partition are to be reconciled (R400). -/
def Work.reconcileSoon (w : Work) (keep : Nat × Session → Bool) : Work :=
  let new := (w.n.pg.sessions.filter fun e => keep e && !(w.n.mi.recon.contains e.1)).map (·.1)
  { w with n.mi.recon := w.n.mi.recon ++ new }

/-- The partition entry of the security table. -/
def Work.secPart (w : Work) (p : Nat) : Option Part := w.n.se.parts.find? fun q => q.id = p

/-- Change a partition's entry. -/
def Work.modPart (w : Work) (p : Nat) (f : Part → Part) : Work :=
  { w with n.se.parts := w.n.se.parts.map fun q : Part => if q.id = p then f q else q }

/-- Change the progress of a partition's strike. -/
def Work.modStrike (w : Work) (p : Nat) (f : StrikeRun → StrikeRun) : Work :=
  w.modPart p fun q => { q with strike := q.strike.map f }

/-- The sessions of this node that one of its own messages is about (R400): those of a stream's partition, that of a record operation, and for
a partial those of its connection's partition. -/
def Work.about (w : Work) (m : OutMsg) (x : Nat × Session) : Bool :=
  match m.purpose with
  | .mirrorBatch p _ _ | .mirrorData p _ _ => w.mirrored x.2.part && x.2.part = p
  | .homeCas si => x.1 = si
  | .partialSend => w.mirrored x.2.part && (w.connOf m.conn).any fun c => c.part = x.2.part
  | _ => false

/-- An outbound message completes (R285) with a status, the peer's AUX words and the bytes of its RESPONSE, if any; its operation
record is freed, and its purpose is served. -/
def Work.finishMsg (w : Work) (k status aux0 aux1 : Nat) (data : Option Bytes) : Work :=
  match lookupN k w.n.tp.outMsgs with
  | none => w
  | some m =>
    let w := w.dropMsg k
    -- NOT_OWNER or STALE_EPOCH on a message about a slice makes its owner reconcile (R400)
    let w := if status = stStale ∨ status = stNotOwner then w.reconcileSoon (w.about m) else w
    match m.purpose with
    | .hostMsg q e =>
      w.completeEntry q e status aux0 aux1
    | .mirrorBatch part gen seq => w.batchOutcome part gen seq status
    | .restoreReply q => w.restoreEnded q status
    | .homeCas si =>
      match data with
      | some b => w.homeAnswer si b
      | none => w.homeFailed si
    | .strike p =>
      w.modStrike p fun r => { r with noticesOpen := r.noticesOpen.filter (· != k)
                                      noticesLost := r.noticesLost + if status = 0 then 0 else 1 }
    | _ => w

/-- Every outbound message of a connection completes with one status; RESPONSEs end with it. -/
def Work.finishAll (w : Work) (conn status : Nat) : Work :=
  ((w.n.tp.outMsgs.filter fun m => m.2.conn = conn).map (·.1)).foldl (fun w k => w.finishMsg k status 0 0 none) w

end Sys2Proof.Machine
end

