-- ==== Sys2Proof/Machine/Shape.lean ====
section
/-!
DEFINITION. Sys2Proof/Machine/Shape.lean: token buckets (R342 to R344) and the ingress meters (R345 to R348): refilling, admission,
charging and colouring. Commands SHAPER_RECONFIGURE, METER_RECONFIGURE.
-/

namespace Sys2Proof.Machine

/-! ## Buckets -/

/-- A bucket refilled to a time (R342, R346): `rate` in 8 MB/s units, which are 8 bytes a microsecond, up to `burst` units of
256 bytes; parts of a byte are kept in millionths. Time passes at tick boundaries (DESIGN CHOICE, log 36). -/
def Bucket.at (b : Bucket) (rate burst now : Nat) : Bucket :=
  let gain := (now - b.asOf) * rate * 8 + b.frac
  let t := b.tokens + (gain / 1000000 : Nat)
  if (burst * 256 : Int) ≤ t then { tokens := burst * 256, frac := 0, asOf := now }
  else { tokens := t, frac := gain % 1000000, asOf := now }

/-- A bucket that starts full. -/
def Bucket.full (burst now : Nat) : Bucket := { tokens := burst * 256, frac := 0, asOf := now }

/-! ## Shapers -/

/-- The code of a shaper: level (0 subscriber, 1 service, 2 port half) and index. -/
abbrev shaperAt (level idx : Nat) : Nat := level * 2 ^ 16 + idx

/-- A shaper's bucket now; one never reset holds no tokens. -/
def Work.shaper (w : Work) (code : Nat) : Bucket :=
  ((lookupN code w.n.sc.shapers).getD { tokens := 0, frac := 0, asOf := 0 }).at (w.get Reg.SCH_RATE 0 code) (w.get Reg.SCH_BURST 0 code) w.ps

/-- A shaper admits a held packet of a length (R342); one that is not in force admits everything. -/
def Work.admits (w : Work) (code len : Nat) : Bool :=
  !w.flag Reg.SCH_SHAPE_EN 0 code || (len : Int) ≤ (w.shaper code).tokens

/-- Charge a packet's bytes to a shaper in force (R342): the tokens stop at −2^31. -/
def Work.charge (w : Work) (code len : Nat) : Work :=
  if !w.flag Reg.SCH_SHAPE_EN 0 code then w
  else
    let b := w.shaper code
    let t : Int := max (b.tokens - len) (-2 ^ 31)
    let w := { w with n.sc.shapers := insertN code { b with tokens := t } w.n.sc.shapers }
    if 0 ≤ b.tokens ∧ t < 0 then w.count Reg.SCH_NEG_TOKENS else w

/-- `SHAPER_RECONFIGURE` (R343, R344): a write of RATE or BURST, or one that sets SHAPE_EN, resets the shaper's tokens. -/
def execShaperReconfigure (wr : RegWr) (s : State) : Host.Outcome State Fault Refusal :=
  run s fun w =>
    let was := w.flag Reg.SCH_SHAPE_EN 0 (w.sel wr.fn .SCH 0x118)
    let ctrl := w.addresses wr .SCH [0x118]
    w.regAction wr .SCH [0x118, 0x11C, 0x120] fun w _ code =>
      if wr.be = 0 ∨ (ctrl ∧ (was ∨ !w.flag Reg.SCH_SHAPE_EN 0 code)) then w
      else
        let b : Bucket := if w.flag Reg.SCH_RESET_FULL 0 code then Bucket.full (w.get Reg.SCH_BURST 0 code) w.ps
          else { tokens := 0, frac := 0, asOf := w.ps }
        { w with n.sc.shapers := insertN code b w.n.sc.shapers }

/-! ## Meters -/

/-- A meter's state; both buckets of one never written are full (R346). -/
def Work.meterOf (w : Work) (i : Nat) : MeterState :=
  match lookupN i w.n.sc.meters with
  | some m => { m with tc := m.tc.at (w.get Reg.POL_CIR 0 i) (w.get Reg.POL_CBS 0 i) w.ps
                       tp := m.tp.at (w.get Reg.POL_PIR 0 i) (w.get Reg.POL_PBS 0 i) w.ps }
  | none => { tc := Bucket.full (w.get Reg.POL_CBS 0 i) w.ps, tp := Bucket.full (w.get Reg.POL_PBS 0 i) w.ps
              greenFrac := 0, yellowFrac := 0 }

/-- A packet's colour. -/
inductive Colour where
  | green | yellow | red
  deriving DecidableEq, Repr

/-- Colour a packet of `len` bytes under a meter (R346); a meter not in force, or POL_CTRL.EN at 0, colours it green and counts
nothing. -/
def Work.colour (w : Work) (i len : Nat) : Colour × Work :=
  if !w.flag Reg.POL_EN ∨ !w.flag Reg.POL_M_EN 0 i then (.green, w)
  else
    let m := w.meterOf i
    let put := fun (w : Work) (m : MeterState) => { w with n.sc.meters := insertN i m w.n.sc.meters }
    if m.tp.tokens - len < 0 then (.red, put w m)
    else if m.tc.tokens - len < 0 then
      let k := kibCount m.yellowFrac len
      (.yellow, (put w { m with tp := { m.tp with tokens := m.tp.tokens - len }, yellowFrac := k.2 }).count Reg.POL_YELLOW_KIB k.1 0 i)
    else
      let k := kibCount m.greenFrac len
      (.green, (put w { m with tp := { m.tp with tokens := m.tp.tokens - len }, tc := { m.tc with tokens := m.tc.tokens - len }
                               greenFrac := k.2 }).count Reg.POL_GREEN_KIB k.1 0 i)

/-- `METER_RECONFIGURE` (R346): an accepted write to a meter's rates or sizes sets both buckets full. -/
def execMeterReconfigure (wr : RegWr) (s : State) : Host.Outcome State Fault Refusal :=
  run s fun w => w.regAction wr .POL [0x108, 0x10C, 0x110, 0x114] fun w _ i =>
    if wr.be = 0 then w
    else
      let m := w.meterOf i
      { w with n.sc.meters := insertN i { m with tc := Bucket.full (w.get Reg.POL_CBS 0 i) w.ps
                                                 tp := Bucket.full (w.get Reg.POL_PBS 0 i) w.ps } w.n.sc.meters }

end Sys2Proof.Machine
end

