-- ==== Sys2Proof/Machine/Packets.lean ====
section
/-!
DEFINITION. Sys2Proof/Machine/Packets.lean: Askius packets (R278, R279, R301, R302), ports for a packet (R286, R287), contexts
(R273 to R277), and a connection that breaks (R272).
-/

namespace Sys2Proof.Machine

open Sys2Proof.Crypto (beVal beBytes gcmSeal gcmOpen)

/-! ## Headers -/

/-- The packet header's fields (R278). -/
structure PktHead where
  op : Nat
  flags : Nat
  hops : Nat
  dst : Nat
  srcNode : Nat
  dstNode : Nat
  epoch : Nat
  psn : Nat
  low : Nat
  msn : Nat
  index : Nat
  target : Nat
  deriving DecidableEq, Repr

/-- The 32 bytes of a header, big-endian (R278). -/
def PktHead.bytes (h : PktHead) : Bytes :=
  beBytes 1 h.op ++ beBytes 1 h.flags ++ beBytes 1 (16 + h.hops) ++ beBytes 3 h.dst ++ beBytes 2 h.srcNode ++
  beBytes 2 h.dstNode ++ beBytes 2 h.epoch ++ beBytes 3 h.psn ++ beBytes 3 h.low ++ beBytes 3 h.msn ++ [0] ++
  beBytes 2 h.index ++ beBytes 8 h.target

/-- The header a packet begins with. -/
def PktHead.read (b : Bytes) : PktHead where
  op := beAt b 0 1
  flags := beAt b 1 1
  hops := beAt b 2 1 % 16
  dst := beAt b 3 3
  srcNode := beAt b 6 2
  dstNode := beAt b 8 2
  epoch := beAt b 0xA 2
  psn := beAt b 0xC 3
  low := beAt b 0xF 3
  msn := beAt b 0x12 3
  index := beAt b 0x16 2
  target := beAt b 0x18 8

abbrev PktHead.last (h : PktHead) : Bool := bitOf h.flags 0
abbrev PktHead.ackReq (h : PktHead) : Bool := bitOf h.flags 1

/-- The longest message of an operation (R279); 0 for a reserved OP. -/
def longest (op : Nat) : Nat :=
  if op = 1 ∨ op = 6 ∨ op = 7 ∨ op = 0xE then 2129920
  else if op = 2 then 8
  else if op = 3 then 294976
  else if op = 4 then 280640
  else if op = 5 then 264224
  else if op = 8 ∨ op = 9 ∨ op = 0xF then 4160
  else if op = 0xA then 64
  else if op = 0xD then 1028
  else 0

/-- A packet's header is valid (R278, R279, check 2 of R289). The bits of TARGET that the OP does not use are reserved (DEDUCED,
log 37). -/
def headerOk (b : Bytes) : Bool :=
  let h := PktHead.read b
  let len := b.length - 48
  decide (48 ≤ b.length) && decide (b.length ≤ 4208) && decide (beAt b 2 1 / 16 = 1) && decide (h.flags < 16) &&
  decide (h.dst < 2 ^ 20) && decide (beAt b 0x15 1 = 0) && decide (h.index < 512) && decide (longest h.op != 0) &&
  (!bitOf h.flags 3 || decide (h.op = 7)) && (h.last || decide (h.op = 0xF) || decide (len = pktMax)) &&
  decide (h.index * pktMax + len ≤ longest h.op) &&
  (if h.op = 1 ∨ h.op = 2 ∨ h.op = 0xA then true else if h.op = 3 then decide (h.target < 2 ^ 20) else decide (h.target = 0)) &&
  (h.op != 0xF || (decide (h.low = 0) && decide (h.msn = 0) && decide (h.index = 0)))

/-! ## Encryption -/

/-- The 12-byte nonce (R302). -/
def pktNonce (dst srcNode dstNode epoch ext : Nat) (ack : Bool) : Bytes :=
  beBytes 4 (dst * 2 ^ 12 + (if dstNode < srcNode then 2 ^ 11 else 0) + (if ack then 2 ^ 10 else 0)) ++
  beBytes 2 epoch ++ beBytes 6 ext

/-- The additional data: the header with its hop count zero (R301). -/
def pktAad (head : Bytes) : Bytes := head.take 2 ++ [((head[2]?).getD 0) &&& 0xF0#8] ++ head.drop 3

/-- Seal a packet: header, ciphertext, tag. -/
def sealPkt (key : BitVec 256) (h : PktHead) (ext : Nat) (payload : Bytes) : Bytes :=
  let head := h.bytes
  let r := gcmSeal key (pktNonce h.dst h.srcNode h.dstNode h.epoch ext (h.op = 0xF)) (pktAad head) payload
  head ++ r.1 ++ r.2

/-- Open a packet: its payload when the tag verifies. -/
def openPkt (key : BitVec 256) (b : Bytes) (ext : Nat) : Option Bytes :=
  let h := PktHead.read b
  gcmOpen key (pktNonce h.dst h.srcNode h.dstNode h.epoch ext (h.op = 0xF)) (pktAad (b.take 32))
    ((b.take (b.length - 16)).drop 32) (b.drop (b.length - 16))

/-- The value nearest a base whose low 24 bits are given (R281). -/
def extend24 (base low : Nat) : Nat :=
  let d := (low + 2 ^ 24 - base % 2 ^ 24) % 2 ^ 24
  if d < 2 ^ 23 ∨ base + d < 2 ^ 24 then base + d else base + d - 2 ^ 24

/-! ## Ports -/

/-- Key of a port half's transmit queues; 64 holds packets that no port can carry yet. -/
abbrev limbo : Nat := 64

/-- The halves of a port mask that are Up (R286, R288). -/
def Work.upHalves (w : Work) (mask : Nat) : List Nat :=
  (List.range 64).filter fun k => bitOf mask (k / 2) && w.hasHalf (k / 2) (k % 2) && w.portState (k / 2) (k % 2) = 5

/-- Halves usable for a packet of a connection, by the route to its peer and its PORT_MASK (R286). -/
def Work.usable (w : Work) (c : Conn) : List Nat :=
  w.upHalves (w.route c.peerNode &&& (if c.portMask = 0 then 2 ^ 32 - 1 else c.portMask))

/-- The transmit queue of a half. -/
def Work.txQueue (w : Work) (k : Nat) : List TxUnit := (lookupN k w.n.sc.portQ).getD []

/-- Lanes times relative lane rate of a half. -/
def Work.halfRate (w : Work) (k : Nat) : Nat :=
  (if w.flag Reg.LP_SPLIT (k / 2) then 4 else 8) * (if w.flag Reg.LP_RATE64 (k / 2) then 1 else 2)

/-- The half whose queue for a class drains soonest at its lane rate; ties go to the lowest port, then half A (R286). -/
def Work.soonest (w : Work) (cls : Nat) (ks : List Nat) : Option Nat :=
  let load := fun k => ((w.txQueue k).filter fun u => u.cls = cls).foldl (fun n u => n + u.bytes.length) 0
  ks.foldl (fun best k => match best with
    | none => some k
    | some b => if load k * w.halfRate b < load b * w.halfRate k then some k else best) none

/-- Put a packet on a half's queue of its class, or, with no usable half, among those that wait (R286; DESIGN CHOICE, log 38);
`arrived` is a transit packet's arrival port. -/
def Work.enqueue (w : Work) (k : Option Nat) (cls : Nat) (pkt : Bytes) (arrived : Option Nat := none) : Work :=
  let key := k.getD limbo
  { w with n.sc.portQ := insertN key (w.txQueue key ++ [{ cls := cls, bytes := pkt, arrived := arrived }]) w.n.sc.portQ }

/-- The route mask of a transit packet: never back on its arrival port unless that is the route's only port (R287). -/
def Work.transitMask (w : Work) (dstNode port : Nat) : Nat :=
  let route := w.route dstNode
  if route = 2 ^ port then route else route &&& (2 ^ 32 - 1 - 2 ^ port)

/-- A transit packet (R287): a hop less, forwarded in its own class, never back on its arrival port unless that is the route's
only port. -/
def Work.transit (w : Work) (port cls : Nat) (pkt : Bytes) : Work :=
  let h := PktHead.read pkt
  if h.hops = 0 then w.count Reg.FAB_HOP_EXPIRED
  else
    let out := pkt.set 2 (BitVec.ofNat 8 (beAt pkt 2 1 - 1))
    (w.count Reg.FAB_TRANSIT).enqueue (w.soonest cls (w.upHalves (w.transitMask h.dstNode port))) cls out (some port)

/-! ## Contexts -/

/-- An operation record of a connection is in use (R303). -/
def Work.hasRecord (w : Work) (id : Nat) : Bool :=
  (w.n.tp.outMsgs.any fun m => m.2.conn = id && m.2.started && !m.2.resp) || w.n.tp.inMsgs.any fun m => m.conn = id

/-- Operation records in use (FAB_OPS.IN_USE). -/
def Work.opsInUse (w : Work) : Nat :=
  (w.n.tp.outMsgs.filter fun m => m.2.started && !m.2.resp).length + w.n.tp.inMsgs.length

/-- A context is pinned hot (R275). -/
def Work.ctxPinned (w : Work) (id : Nat) (c : Conn) : Bool :=
  c.hot && (w.hasRecord id || !c.unacked.isEmpty || !c.heldPkts.isEmpty || c.prevKey.isSome || c.state = .removing ||
    decide (w.get Reg.CNX_ENTRIES ≤ id) || !w.flag Reg.CNX_SPILL_EN)

/-- Change a connection, if it is installed. -/
def Work.modConn (w : Work) (id : Nat) (f : Conn → Conn) : Work := { w with n.tp.conns := modifyN id f w.n.tp.conns }

/-- A use of a context, for the order of R276. -/
def Work.useCtx (w : Work) (id : Nat) : Work :=
  { w.modConn id fun c => { c with lastUsed := w.n.tp.useSeq + 1 } with n.tp.useSeq := w.n.tp.useSeq + 1 }

/-- The lowest of the 16,384 hot slots that is free. -/
def Work.freeHotSlot (w : Work) : Option Nat :=
  let used := (w.n.tp.conns.filter fun c => c.2.hot).map fun c => c.2.slot
  if 16384 ≤ used.length then none else (List.range (used.length + 1)).find? fun s => !(used.contains s)

/-- Address of a connection's entry in the host-memory table (R274). -/
def Work.ctxAddr (w : Work) (id : Nat) : Nat :=
  w.get Reg.CNX_BASE_LO * 2 ^ 21 + w.get Reg.CNX_BASE_HI * 2 ^ 32 + id * 2048

/-- A bitmap of 4,096 bits, bit `i` at weight `i`. -/
def bitmap (has : Nat → Bool) : Bytes :=
  (List.range 512).map fun b => BitVec.ofNat 8 ((List.range 8).foldl (fun v j => v + if has (8 * b + j) then 2 ^ j else 0) 0)

/-- A context as bytes (R273): the connection record of 256 bytes, then the window record of 1,024, the PSN bitmap and the MSN bitmap. The spec
gives their sizes and what they hold, not the places of the fields (DESIGN CHOICE, log 134). -/
def Conn.context (c : Conn) : Bytes :=
  let n := leBytes
  let key := fun k : Option (BitVec 256) => n 1 (if k.isSome then 1 else 0) ++ n 32 ((k.getD 0).toNat)
  let record := n 1 c.part ++ n 2 c.peerNode ++ n 3 c.peerConn ++ n 2 c.subscriber ++ n 4 c.portMask ++ n 1 (if c.rkeyOk then 1 else 0) ++
    n 1 (match c.state with | .active => 1 | .broken => 2 | .removing => 3) ++ n 2 c.epoch ++ key (some c.key) ++ key c.prevKey ++
    n 6 c.rekeyTick.toNat ++ n 6 c.txPsn ++ n 3 c.txMsn ++ n 6 c.txAckSeq ++ n 6 c.rxBase ++ n 6 c.rxAckSeq ++ n 3 c.msnLow
  padTo 256 record ++ bitmap (fun i => c.rxSeen.contains (c.rxBase + i)) ++
    bitmap fun i => c.msnDone.contains ((c.msnLow + i) % 2 ^ 24)

/-- The table entry of a context (R274): 2,048 bytes, the nonce, the context encrypted under the context key, and the tag over it and the
connection ID. -/
def ctxEntry (key : BitVec 256) (id : Nat) (nonce plain : Bytes) : Bytes :=
  let r := gcmSeal key nonce (leBytes 4 id) plain
  padTo 2048 (nonce ++ r.1 ++ r.2)

/-- A table entry is authentic (R272, R274): it opens under the context key, for its connection, to the context that was written. -/
def Work.ctxAuthentic (w : Work) (id : Nat) (c : Conn) (entry : Bytes) : Bool :=
  gcmOpen w.n.tp.ctxKey (sliceAt entry 0 12) (leBytes 4 id) (sliceAt entry 12 1280) (sliceAt entry 1292 16) = some c.context

/-- Evict the least recently used unpinned hot context to its table entry (R276), under a fresh nonce. One that owes an ACK, or
for which a message or a RESPONSE waits to be sent, is fetched again for it (R277, R283). -/
def Work.evict (w : Work) : Option Work :=
  let free := w.n.tp.conns.filter fun c => c.2.hot && !w.ctxPinned c.1 c.2
  match free.foldl (fun (best : Option (Nat × Conn)) c => match best with
    | some b => if c.2.lastUsed < b.2.lastUsed then some c else best
    | none => some c) none with
  | none => none
  | some v =>
    let r := w.randomBytes 12
    let entry := ctxEntry w.n.tp.ctxKey v.1 r.1 v.2.context
    let w := ((r.2.hostStore 0 (r.2.ctxAddr v.1) entry true).pcieOut none 2048).ksEraseConn v.1
    let needed := w.n.tp.outMsgs.any fun m => m.2.conn = v.1
    some ((w.modConn v.1 fun c => { c with hot := false, fetching := c.ackDue || needed }).count Reg.CNX_EVICTIONS)

/-- A hot slot is had (R276): a free one, or the one an eviction frees; none when every hot context is pinned. -/
def Work.takeHotSlot (w : Work) : Option (Nat × Work) :=
  match w.freeHotSlot with
  | some s => some (s, w)
  | none =>
    if !w.n.bo.busMaster then none
    else match w.evict with
      | some w => w.freeHotSlot.map fun s => (s, w)
      | none => none

/-! ## Keys and states -/

/-- Overwrite the keys of a connection with values that no one holds (R360 step 3, R362). -/
def Work.destroyKeys (w : Work) (id : Nat) : Work :=
  let k := Config.random w.n.fresh
  let w := { w with n.fresh := w.n.fresh + 1 }
  w.modConn id fun c => { c with key := BitVec.ofNat 256 k, prevKey := none }

/-- An installed connection is made Broken (R272, R362): its event is written, and its outbound messages complete, with INTERNAL or as a
strike notice says. -/
def Work.breakNow (w : Work) (id : Nat) (c : Conn) (status : Nat) : Work :=
  let w := w.modConn id fun c => { c with state := .broken, unacked := [], records := [], ackDue := false, ackWanted := false }
  -- mirror messages that wait for their batch came on it
  let gone := fun s : InStream => { s with pendingMeta := s.pendingMeta.filter fun e => e.1 != id }
  let w := { w with n.mi.dataIn := w.n.mi.dataIn.filter fun d => d.conn != id, n.mi.metaIn := w.n.mi.metaIn.filter fun e => e.1 != id
                    n.mi.inStreams := w.n.mi.inStreams.map gone }
  let w := if c.state = .broken then w else w.count Reg.FAB_BROKEN
  (w.report { code := 0x4801, page := 0x70, part := some c.part, arg := c.peerNode, detail := id }).finishAll id status

/-- An Active connection goes Broken (R272); in another state its messages complete alone. -/
def Work.breakConn (w : Work) (id status : Nat) : Work :=
  match w.connOf id with
  | none => w
  | some c => if c.state ≠ .active then w.finishAll id status else w.breakNow id c status

/-- The partition's connection keys have been destroyed by its strike (R360 step 3). -/
def Work.keysGone (w : Work) (p : Nat) : Bool :=
  match w.secPart p with
  | some q => match q.strike with
    | some r => r.keysAt.isSome
    | none => false
  | none => false

end Sys2Proof.Machine
end

