-- ==== Sys2Proof/Machine/Receive.lean ====
section
/-!
DEFINITION. Sys2Proof/Machine/Receive.lean: the receive checks and placement (R289 to R294), remote access (R295 to R299), FENCE and
NOTICE (R280, R300, R395), acknowledgement and its timers (R283 to R285). Commands PACKET_RECEIVED, WRITE, READ, CAS,
RESPONSE, SEND_HOST_QUEUE, FENCE, NOTICE, ACK, ACK_DELAY_EXPIRED, REORDER_EXPIRED, RTO_EXPIRED, PROBE_EXPIRED.
-/

namespace Sys2Proof.Machine

/-! ## Receive buffers -/

/-- Bytes of the link and PCIe receive buffers, with append staging (R58); in Rehearsal the parts of stacks 0 and 1 only (R459). -/
def Work.rxBytes (w : Work) : Nat := if w.nodeState = 1 then 2 * 2 ^ 30 else 8 * 2 ^ 30

/-- An operation whose packets go to a receive extent (R290). -/
def usesExtent (op : Nat) : Bool := op != 1 && op != 2 && op != 0xA && op != 0xE

/-- Bytes free for receive extents (R291, R320, R347): extents are as long as their OP's longest message; a host payload on its way out
takes its own length. -/
def Work.rxFree (w : Work) : Nat :=
  w.rxBytes - (w.n.tp.inMsgs.foldl (fun n m => n + if usesExtent m.op then longest m.op else 0) 0) -
    (w.n.tp.outMsgs.foldl (fun n m => n + m.2.extent) 0) -
    (w.n.pg.staged.foldl (fun n g => n + (g.rows.foldl (fun n r => n + r.length) 0)) 0)

/-! ## Messages -/

/-- Store an inbound message. -/
def Work.setInMsg (w : Work) (m : InMsg) : Work :=
  if (w.inMsg m.conn m.msn).isSome then
    { w with n.tp.inMsgs := w.n.tp.inMsgs.map fun x => if x.conn = m.conn && x.msn = m.msn then m else x }
  else { w with n.tp.inMsgs := w.n.tp.inMsgs ++ [m] }

/-- A message of which nothing has been placed. -/
def InMsg.fresh (conn msn op target : Nat) : InMsg :=
  { conn := conn, msn := msn, op := op, parts := [], count := none, target := target, cmpr := false, complete := false
    behindFence := false, tick := 0, acted := false }

/-- A packet placed (R290, R292): its INDEX is marked, and LAST fixes the packet count. -/
def InMsg.placed (m : InMsg) (index : Nat) (last : Bool) (payload : Bytes) : InMsg :=
  { m with parts := insertN index payload m.parts, count := if last then some (index + 1) else m.count }

/-- Every packet of a message has been placed (R292). -/
def InMsg.whole (m : InMsg) : Bool :=
  match m.count with
  | some n => (List.range n).all fun i => (lookupN i m.parts).isSome
  | none => false

/-- A packet of a done message (R294): a DUPLICATE record, and nothing else. -/
def Work.duplicate (w : Work) (id msn : Nat) : Work :=
  (w.modConn id fun c => { c with records := c.records ++ [{ msn := msn, status := stDuplicate, tag := 0, aux0 := 0, aux1 := 0 }]
                                  ackDue := true }).count Reg.FAB_DUPLICATE

/-- The sender list of a query of which some packets are in hand, by INDEX (R183): the list, when they hold all of it. -/
def sendersOf (d : QDesc) (parts : List (Nat × Bytes)) : List Nat :=
  let list := if d.collect then alignUp (2 * d.expect) 4 else 0
  let from_ := 64 + d.payLen - list
  let held := (List.range list).all fun i => ((lookupN ((from_ + i) / pktMax) parts).map fun b => decide ((from_ + i) % pktMax < b.length)).getD false
  let byte := fun a => (((lookupN (a / pktMax) parts).getD [])[a % pktMax]?).getD 0
  if list = 0 ∨ d.payLen < list ∨ !held then []
  else (List.range d.expect).map fun i => Sys2Proof.Crypto.beVal [byte (from_ + 2 * i), byte (from_ + 2 * i + 1)]

/-- A packet dropped by its meter ends its message with POLICED (R348); a policed ATTEND is answered under R187, as far as the packets in
hand, the dropped one among them, tell whom: `parts` are those. -/
def Work.police (w : Work) (id : Nat) (c : Conn) (h : PktHead) (parts : List (Nat × Bytes)) : Work :=
  let w := w.count Reg.POL_POLICED_MSGS
  let first := (lookupN 0 parts).getD []
  if h.op = 4 ∧ 64 ≤ first.length then
    let d := QDesc.read (swapFields queryFields (first.take 64))
    w.refuseQuery (.conn id h.msn) c.part d (sendersOf d parts) stPoliced
  else (if h.op = 4 then w.meter c.part 2 1 else w).completeMsg id h.msn (wireTag h.op h.target first) stPoliced 0 0

/-- SEND of service 0 names an operation of R102 or R142. -/
def sessionOp (v : Nat) : Bool := (1 ≤ v && v ≤ 3) || (0x10 ≤ v && v ≤ 0x14)

/-- A message is complete (R292): it may act, or waits behind a FENCE (R300); a service or session operation that is reserved
completes with INTERNAL, and on a Dark node with FENCED (R288). -/
def Work.arrived (w : Work) (c : Conn) (m : InMsg) : Work :=
  let others := w.n.tp.inMsgs.filter fun x => !(x.conn = m.conn && x.msn = m.msn)
  let whole := { m with complete := true, behindFence := m.op != 9 && w.fencedBelow m.conn c m.msn, tick := w.now }
  let w := { w with n.tp.inMsgs := others ++ [whole] }
  if m.op = 3 ∧ (2 < m.target % 256 ∨ (m.target % 256 = 0 ∧ !sessionOp (fieldAt m.bytes 0 1))) then
    w.completeMsg m.conn m.msn (wireTag m.op m.target m.bytes) (if w.isDark then stFenced else stInternal) 0 0
  else w

/-- Checks 8 to 11 of R289 for an authenticated packet, the PSN of which `rec` records (check 7). A packet dropped for want of a
record or an extent is not recorded, so that retransmission recovers it (R291, R303). WRITE, READ and CAS are checked and
placed by their own commands. -/
def Work.message (w : Work) (id : Nat) (c : Conn) (h : PktHead) (payload : Bytes) (len : Nat) (rcd : Work → Work) : Work :=
  if h.op = 0xE then rcd w
  else if c.msnIsDone h.msn then (rcd w).duplicate id h.msn
  else if 4096 ≤ c.msnAhead h.msn then (rcd w).count Reg.FAB_OUT_OF_WINDOW
  else
    let old := w.inMsg id h.msn
    let drop : Bool := match old with
      | some m => m.complete || m.op != h.op || (lookupN h.index m.parts).isSome
      | none => false
    if drop then rcd w
    else
      let sub := (w.subscriber c).1
      let meter := sub * 8 + opService h.op h.target
      let col := w.colour meter len
      let w := col.2
      let first := if h.index = 0 then payload else ((old.bind fun m => lookupN 0 m.parts).getD [])
      let yellowOk : Bool := decide (w.get Reg.POL_YELLOW_PCT * w.rxBytes ≤ w.rxFree * 100)
      if col.1 = .red then ((rcd w).count Reg.POL_RED_DROP 1 0 meter).police id c h (insertN h.index payload ((old.map (·.parts)).getD []))
      else if decide (col.1 = .yellow) && !yellowOk then ((rcd w).count Reg.POL_YELLOW_DROP 1 0 meter).police id c h (insertN h.index payload ((old.map (·.parts)).getD []))
      else if w.staleSender c && !(h.op = 9 && !payload.isEmpty) then
        ((rcd w).count Reg.MIR_STALE_REFUSED).completeMsg id h.msn (wireTag h.op h.target first) stStale 0 0
      else if old.isNone && !w.live c.part then (rcd w).completeMsg id h.msn (wireTag h.op h.target first) stStruck 0 0
      else if old.isNone && decide (16384 ≤ w.opsInUse) then w.count Reg.FAB_OPS_FULL
      else if old.isNone && usesExtent h.op && decide (w.rxFree < longest h.op) then w.count Reg.FAB_NO_EXTENT
      else
        let m := old.getD (InMsg.fresh id h.msn h.op h.target)
        let w := rcd w
        if !usesExtent h.op then w.setInMsg m
        else
          let m := { m.placed h.index h.last payload with
            target := if h.index = 0 then h.target else m.target
            cmpr := bitOf h.flags 3 }
          if m.whole then w.arrived c m else w.setInMsg m

/-- Record a data packet's PSN and schedule its acknowledgement (check 7, R282, R283). -/
def Work.recordPsn (w : Work) (id base psn : Nat) (ackReq : Bool) : Work :=
  w.modConn id fun c =>
    let seen := (psn :: c.rxSeen).filter fun p => base ≤ p
    let nb := (List.range (seen.length + 1)).find? (fun k => !(seen.contains (base + k))) |>.map (base + ·) |>.getD base
    { c with rxBase := nb, rxSeen := seen.filter fun p => nb ≤ p, ackWanted := true, ackDue := c.ackDue || ackReq }

/-- Check 6 (R272, R301): the plaintext under the key of the packet's epoch, or what the failure counts. -/
def Work.unseal (w : Work) (c : Conn) (pkt : Bytes) (ext : Nat) : Except Work Bytes :=
  let h := PktHead.read pkt
  let fail := fun (w : Work) => w.count Reg.FAB_AUTH_FAIL
  if w.keysGone c.part then
    .error (((fail w).count Reg.PART_AUTH_DROPS).modStrike c.part fun r => { r with authDrops := r.authDrops + 1 })
  else
    let key := if h.epoch = c.epoch then some c.key else if (h.epoch + 1) % 65536 = c.epoch then c.prevKey else none
    match key with
    | none => .error (w.count Reg.FAB_EPOCH_UNKNOWN)
    | some k => match openPkt k pkt ext with
      | some p => .ok p
      | none => .error (fail w)

/-- Checks 4 to 11 for a packet of a connection whose context is hot (R289). -/
def Work.takePacket (w : Work) (id : Nat) (pkt : Bytes) : Work :=
  let h := PktHead.read pkt
  match w.connOf id with
  | none => w.count Reg.FAB_NO_CONN
  | some c =>
    if h.srcNode ≠ c.peerNode ∨ c.state = .broken then w.count Reg.FAB_NO_CONN
    else
      let w := w.useCtx id
      let passed := fun (w : Work) => (w.count Reg.FAB_RX_PKTS).meter c.part 12 pkt.length
      if h.op = 0xF then
        let ext := extend24 c.rxAckSeq h.psn
        if ext + 2 ^ 23 < c.rxAckSeq then w
        else match w.unseal c pkt ext with
          | .error w => w
          | .ok _ => (passed w).modConn id fun c => { c with rxAckSeq := max c.rxAckSeq ext }
      else
        let ext := extend24 c.rxBase h.psn
        let base := max c.rxBase (extend24 c.rxBase h.low)
        if ext < base ∨ c.rxSeen.contains ext then w.count Reg.FAB_DUP_PKT
        else if base + 4096 ≤ ext then w.count Reg.FAB_OUT_OF_WINDOW
        else match w.unseal c pkt ext with
          | .error w => w
          | .ok p => (passed w).message id c h p pkt.length fun w => w.recordPsn id base ext h.ackReq

/-- Hold a packet during the fetch of its connection's context (R277): a cold connection's, one whose search missed (R134), or a later one
of either. -/
def Work.holdPacket (w : Work) (id port half : Nat) (c : Conn) (pkt : Bytes) : Work :=
  let total := w.n.tp.conns.foldl (fun n e => n + e.2.heldPkts.length) 0
  if w.get Reg.CNX_PER_CONN ≤ c.heldPkts.length ∨ w.get Reg.CNX_TOTAL ≤ total then
    (w.modConn id fun c => { c with fetching := true }).count Reg.CNX_HOLD_DROPS
  else w.modConn id fun c => { c with fetching := true, heldPkts := c.heldPkts ++ [(port, half, pkt)] }

/-- `PACKET_RECEIVED` (R289): an Askius packet passes the receive checks and is forwarded, placed and recorded, or dropped. -/
def execPacketReceived (port half : Nat) (packet : Bytes) (s : State) : Host.Outcome State Fault Refusal :=
  run s fun w =>
    let h := PktHead.read packet
    let cls := match (w.half port half).rxQ.find? fun e => e.2 = packet with
      | some e => e.1
      | none => opClass h.op h.target
    let w := w.freeRx port half packet
    if !w.flag Reg.FAB_EN then w
    else if !headerOk packet then w.count Reg.FAB_HDR_BAD
    else if h.dstNode ≠ w.nodeId then w.transit port cls packet
    else
      let r := w.ksLookup tblConn [h.dst] fun slot => match w.connOf h.dst with
        | some c => c.hot && c.slot = slot
        | none => false
      match w.connOf h.dst with
      | none => r.2.count Reg.FAB_NO_CONN
      | some c => if c.hot ∧ r.1.isSome ∧ !c.fetching then r.2.takePacket h.dst packet else r.2.holdPacket h.dst port half c packet

/-! ## Remote access -/

/-- What R297 says of an access: the status of the first check that fails, or the region. -/
def Work.accessCheck (w : Work) (c : Conn) (op target from_ len : Nat) : Except Nat Region × Work :=
  let idx := target / 2 ^ 40 % 2 ^ 24
  let key := c.part * 2 ^ 24 + idx
  let r := w.ksLookup tblRkey (rkeyKey c.part idx) fun k => k = key && (lookupN k w.n.tp.regions).isSome
  (regionCheck c op target from_ len (r.1.bind fun k => lookupN k w.n.tp.regions), r.2)

/-- An access that fails R297 ends its message with the status (R298). -/
def Work.violation (w : Work) (id msn target st : Nat) : Work := (w.violated id target st).completeMsg id msn 0 st 0 0

/-- A WRITE, READ or CAS packet of a message that is not done, complete or placed already; its sender is not fenced (R396), and a message
that had begun before a strike of its partition goes on (R360 step 2). -/
def Work.accessPart (w : Work) (op : Nat) (pkt : MsgPart) (act : Conn → InMsg → Work) : Work :=
  match w.connOf pkt.conn with
  | none => w
  | some c =>
    let m := (w.inMsg pkt.conn pkt.msn).getD (InMsg.fresh pkt.conn pkt.msn op pkt.target)
    if c.state = .broken ∨ c.msnIsDone pkt.msn ∨ m.op ≠ op ∨ m.complete ∨ (lookupN pkt.index m.parts).isSome then w
    else if w.staleSender c then (w.count Reg.MIR_STALE_REFUSED).completeMsg pkt.conn pkt.msn 0 stStale 0 0
    else if (w.inMsg pkt.conn pkt.msn).isNone && !w.live c.part then w.completeMsg pkt.conn pkt.msn 0 stStruck 0 0
    else act c { m with target := pkt.target }

/-- A WRITE, READ or CAS is complete (R292): it acts in its turn, and not before a FENCE that it waits behind has acted (R300). -/
def Work.remoteWhole (w : Work) (c : Conn) (m : InMsg) : Work :=
  let others := w.n.tp.inMsgs.filter fun x => !(x.conn = m.conn && x.msn = m.msn)
  let whole := { m with complete := true, behindFence := w.fencedBelow m.conn c m.msn, tick := w.now }
  ({ w with n.tp.inMsgs := others ++ [whole] } : Work).msgsGoOn

/-- `WRITE` (R290, R297, R298): one packet is checked and placed in its region. A Dark node places nothing (R288). -/
def execWriteOp (pkt : MsgPart) (s : State) : Host.Outcome State Fault Refusal :=
  run s fun w => w.accessPart 1 pkt fun c m =>
    let from_ := pkt.index * pktMax
    let m := m.placed pkt.index pkt.last pkt.payload
    if w.isDark ∧ m.whole then w.remoteWhole c m
    else
      let r := w.accessCheck c 1 pkt.target from_ pkt.payload.length
      match r.1 with
      | .error st => r.2.violation pkt.conn pkt.msn pkt.target st
      | .ok g =>
        let w := if r.2.isDark then r.2 else r.2.store (g.base + pkt.target % 2 ^ 32 + from_) pkt.payload
        if m.whole then w.remoteWhole c m else w.setInMsg m

/-- `READ` (R297, R299): the access is checked, and a RESPONSE with the bytes is queued; a Dark node answers FENCED, whatever it asks
(R288). -/
def execReadOp (pkt : MsgPart) (s : State) : Host.Outcome State Fault Refusal :=
  run s fun w => w.accessPart 2 pkt fun c m =>
    let n := fieldAt pkt.payload 0 4
    if w.isDark then w.remoteWhole c (m.placed 0 true pkt.payload)
    else if pkt.payload.length ≠ 8 ∨ !zeroAt pkt.payload 4 4 ∨ n = 0 ∨ 2129920 < n then w.completeMsg pkt.conn pkt.msn 0 stInternal 0 0
    else
      let r := w.accessCheck c 2 pkt.target 0 n
      match r.1 with
      | .error st => r.2.violation pkt.conn pkt.msn pkt.target st
      | .ok _ => r.2.remoteWhole c (m.placed 0 true pkt.payload)

/-- `CAS` (R297, R299): COMPARE is compared with the 32 bytes at the offset, and SWAP written when they are equal; the RESPONSE
carries the bytes found. -/
def execCasOp (pkt : MsgPart) (s : State) : Host.Outcome State Fault Refusal :=
  run s fun w => w.accessPart 0xA pkt fun c m =>
    if pkt.payload.length ≠ 64 then w.completeMsg pkt.conn pkt.msn 0 stInternal 0 0
    else
      let r := w.accessCheck c 0xA pkt.target 0 32
      match r.1 with
      | .error st => r.2.violation pkt.conn pkt.msn pkt.target st
      | .ok _ => r.2.remoteWhole c (m.placed 0 true pkt.payload)

/-! ## Other operations -/

/-- `SEND_HOST_QUEUE` (R322): a SEND of service 1 fills the oldest receive buffer posted on the queue it names. -/
def execSendHostQueue (conn msn queue : Nat) (bytes : Bytes) (s : State) : Host.Outcome State Fault Refusal :=
  run s fun w => w.msgActs conn msn false fun w c =>
    if w.queuePart queue ≠ some c.part then w.completeMsg conn msn 0 stInternal 0 0
    else match (w.queueOf queue).recvs with
      | [] => w.completeMsg conn msn 0 stOverBudget 0 0
      | h :: _ =>
        if h.resLen < bytes.length then w.completeMsg conn msn 0 stInternal 0 0
        else
          let w := w.resultStore queue h bytes
          (w.completeEntry queue h.idx stOK bytes.length c.peerNode 8).completeMsg conn msn 0 stOK 0 0

/-- `FENCE` (R300, R395): an empty FENCE acts once every message of its connection below it is done; a presentation raises
PRESENTED of its sender at once (DEDUCED, log 39). -/
def execFenceOp (conn msn : Nat) (bytes : Bytes) (s : State) : Host.Outcome State Fault Refusal :=
  run s fun w => w.msgActs conn msn true (fun w c =>
    if bytes.isEmpty then
      let m := { InMsg.fresh conn msn 9 0 with parts := [(0, [])], count := some 1, complete := true, behindFence := true }
      (w.setInMsg m).msgsGoOn
    else if bytes.length = 16 ∧ fieldAt bytes 0 1 = 1 ∧ beAt bytes 2 2 = c.peerNode ∧ zeroAt bytes 1 1 ∧ zeroAt bytes 8 8 then
      (w.presentFence bytes).completeMsg conn msn 0 stOK 0 0
    else w.completeMsg conn msn 0 stInternal 0 0) (!bytes.isEmpty)

/-- `NOTICE` (R280, R326): refusals of queries that this node's hosts sent by MSG go to the partition's notice queue, each with
its QUERY_ID and the connection (DEDUCED, log 40). -/
def execNoticeOp (conn msn : Nat) (bytes : Bytes) (s : State) : Host.Outcome State Fault Refusal :=
  run s fun w => w.msgActs conn msn false fun w c =>
    let n := beAt bytes 0 4
    if bytes.length ≠ 4 + 16 * n then w.completeMsg conn msn 0 stInternal 0 0
    else
      let w := (List.range n).foldl (fun w i =>
        let r := sliceAt bytes (4 + 16 * i) 16
        w.partNotice c.part (beAt r 4 4) conn (beAt r 0 1)) w
      w.completeMsg conn msn 0 stOK 0 0

/-! ## The initiator -/

/-- An outbound message of a connection that has been started and awaits its answer, by MSN. -/
def Work.outMsg (w : Work) (conn msn : Nat) : Option (Nat × OutMsg) :=
  w.n.tp.outMsgs.find? fun m => m.2.conn = conn && !m.2.resp && m.2.started && m.2.msn = msn % 2 ^ 24

/-- Change an outbound message. -/
def Work.modOut (w : Work) (k : Nat) (f : OutMsg → OutMsg) : Work := { w with n.tp.outMsgs := modifyN k f w.n.tp.outMsgs }

/-- Bytes that a READ or CAS asks for. -/
def OutMsg.wanted (m : OutMsg) : Nat := if m.op = 2 then fieldAt m.payload 0 4 else 32

/-- A RESPONSE packet is placed at its destination, INDEX × 4,160 on (R290), as far as what was asked for goes: a host entry's result
buffer; what the node's own messages read stays in their operation record. -/
def Work.placeResponse (w : Work) (m : OutMsg) (pkt : MsgPart) : Work :=
  match m.purpose with
  | .hostMsg q e => match (w.queueOf q).entryOf e with
    | some h => w.resultStore q h (pkt.payload.take (m.wanted - pkt.index * pktMax)) (pkt.index * pktMax)
    | none => w
  | _ => w

/-- `RESPONSE` (R285, R289, R290): a packet of the answer to a READ or CAS is placed; with the last one the message completes. -/
def execResponseOp (pkt : MsgPart) (s : State) : Host.Outcome State Fault Refusal :=
  run s fun w =>
    match w.connOf pkt.conn with
    | none => w
    | some c =>
      if c.state = .broken then w
      else match w.outMsg pkt.conn pkt.msn with
        | none => w.count Reg.FAB_LATE_RECORD
        | some (k, m) =>
          if !(m.op = 2 ∨ m.op = 0xA) ∨ (lookupN pkt.index m.got).isSome then w
          else
            let w := w.placeResponse m pkt
            let got := insertN pkt.index pkt.payload m.got
            let n := if pkt.last then some (pkt.index + 1) else m.gotCount
            match n with
            | some n =>
              if (List.range n).all fun i => (lookupN i got).isSome then
                let data := ((List.range n).map fun i => (lookupN i got).getD []).flatten
                w.finishMsg k stOK 0 0 (some (data.take m.wanted))
              else w.modOut k fun m => { m with got := got, gotCount := some n }
            | none => w.modOut k fun m => { m with got := got }

/-- Packets of an outbound message (R279). -/
def OutMsg.packets (m : OutMsg) : Nat :=
  match m.purpose with
  | .readResponse _ len => packetCount len
  | _ => packetCount m.payload.length

/-- A packet has been acknowledged: its message knows it, and a RESPONSE all of whose packets are acknowledged ends. -/
def Work.packetAcked (w : Work) (id : Nat) (x : Sent) : Work :=
  match w.n.tp.outMsgs.find? fun m => m.2.conn = id && m.2.resp = x.resp && m.2.msn = x.msn && m.2.started with
  | none => w
  | some (k, m) =>
    let m := { m with acked := if m.acked.contains x.index then m.acked else m.acked ++ [x.index] }
    if m.resp ∧ m.acked.length = m.packets then w.dropMsg k else w.modOut k fun _ => m

/-- An acknowledgement's fields: the window base and the SACK bits, as packets sent. -/
def ackCovers (c : Conn) (b : Bytes) (psn : Nat) : Bool :=
  let cum := extend24 c.txPsn (beAt b 0 3)
  let sb := extend24 c.txPsn (beAt b 4 3)
  let i := psn - sb
  decide (psn < cum) || (decide (sb ≤ psn) && decide (i < 512) && bitOf (beAt b (8 + i / 8) 1) (7 - i % 8))

/-- `ACK` (R283 to R285): packets are acknowledged; those sent before an acknowledged one are overtaken; completion records end
their messages, and a record of a message that has ended is counted. -/
def execAckOp (conn : Nat) (bytes : Bytes) (s : State) : Host.Outcome State Fault Refusal :=
  run s fun w =>
    match w.connOf conn with
    | none => w
    | some c =>
      let n := beAt bytes 0x48 2
      if c.state = .broken ∨ bytes.length ≠ 80 + 16 * n ∨ 250 < n then w
      else
        let now := c.unacked.filter fun x => ackCovers c bytes x.psn
        let top := now.foldl (fun t x => max t x.psn) 0
        let rest := (c.unacked.filter fun x => !ackCovers c bytes x.psn).map fun x : Sent =>
          if x.psn < top then { x with overtaken := true } else x
        let w := w.modConn conn fun c => { c with unacked := rest }
        let w := now.foldl (fun w x => w.packetAcked conn x) w
        (List.range n).foldl (fun w i =>
          let r := sliceAt bytes (80 + 16 * i) 16
          match w.outMsg conn (beAt r 0 3) with
          | some (k, _) => w.finishMsg k (beAt r 3 1) (beAt r 8 4) (beAt r 12 4) none
          | none => w.count Reg.FAB_LATE_RECORD) w

/-- `ACK_DELAY_EXPIRED` (R283): packets have waited FAB_ACK.DELAY for their acknowledgement; an ACK is due, for which a
cold context is fetched (R277). -/
def execAckDelayExpired (conn : Nat) (s : State) : Host.Outcome State Fault Refusal :=
  run s fun w => w.modConn conn fun c => if c.ackWanted then { c with ackDue := true, fetching := c.fetching || !c.hot } else c

/-- FAB_RETX.LIMIT as a sent packet meets it: a write acts on packets sent after it (R304). -/
def Work.sendLimit (w : Work) (id psn : Nat) : Nat := w.actingFor Reg.FAB_LIMIT (packetUnit id psn)

/-- A packet is deemed lost (R284): it is no longer awaited and is sent again on another port; one sent LIMIT times breaks the
connection (R272). A probe deemed lost is sent again as one. -/
def Work.lost (w : Work) (id : Nat) (x : Sent) : Work :=
  let w := w.modConn id fun c => { c with unacked := c.unacked.filter (·.psn != x.psn) }
  if x.sends ≠ 0 ∧ w.sendLimit id x.psn ≤ x.sends then w.breakConn id stInternal
  else match w.n.tp.outMsgs.find? fun m => m.2.conn = id && m.2.resp = x.resp && m.2.msn = x.msn && m.2.started with
    | none => w
    | some (k, _) => w.modOut k fun m => { m with resend := m.resend ++ [(x.index, x.port, x.sends)] }

/-- `REORDER_EXPIRED` (R284): a packet sent after this one was acknowledged FAB_RETX.REORDER ago. -/
def execReorderExpired (conn psn : Nat) (s : State) : Host.Outcome State Fault Refusal :=
  run s fun w =>
    match (w.connOf conn).bind fun c => c.unacked.find? fun x => x.psn = psn && x.overtaken with
    | some x => w.lost conn x
    | none => w

/-- `RTO_EXPIRED` (R284): FAB_RETX.RTO has passed since the packet was sent. -/
def execRtoExpired (conn psn : Nat) (s : State) : Host.Outcome State Fault Refusal :=
  run s fun w =>
    match (w.connOf conn).bind fun c => c.unacked.find? fun x => x.psn = psn with
    | some x => w.lost conn x
    | none => w

/-- `PROBE_EXPIRED` (R285): every packet of a message has been acknowledged and its record has not come: its LAST packet is sent
again as a probe, which does not count toward LIMIT. -/
def execProbeExpired (conn msn : Nat) (s : State) : Host.Outcome State Fault Refusal :=
  run s fun w =>
    match w.outMsg conn msn with
    | some (k, m) =>
      if m.acked.length = m.packets ∧ m.resend.isEmpty then
        w.modOut k fun m => { m with resend := [(m.packets - 1, limbo, 0)] }
      else w
    | none => w

end Sys2Proof.Machine
end

