-- ==== Sys2Proof/Machine/Conns.lean ====
section
/-!
DEFINITION. Sys2Proof/Machine/Conns.lean: connections (R269 to R277) and remote-key regions (R295, R296). Commands INSTALL, REKEY,
REMOVE, REKEY_OVERLAP_EXPIRED, CONNECTION_FREED, CONTEXT_FETCH_DONE, REGION_CREATE, ADVANCE, DESTROY, REGION_DRAIN_DONE.
-/

namespace Sys2Proof.Machine

open Sys2Proof.Crypto (beBytes keyUnwrap)

/-- Descriptors of connections and regions travel on host queues of a partition only (R270, R295): the queue's partition and the
entry, which has started and not arrived. -/
def Work.control (w : Work) (src : Src) (act : Work → Nat → Work) : Work :=
  match src with
  | .conn _ _ => w
  | .queue q _ =>
    match w.queuePart q with
    | some p => if w.srcOk src then act w p else w
    | none => w

/-- A fence presentation (R395) on a connection. -/
def Work.present (w : Work) (conn : Nat) : Work :=
  (w.sendMsg conn 9 0 (beBytes 1 1 ++ [0] ++ beBytes 2 w.nodeId ++ beBytes 4 (w.get Reg.MIR_FE) ++ List.replicate 8 0) .fencePresent).2

/-- A key wrap that fails (R271): its count and event. -/
def Work.unwrapFailed (w : Work) (p conn : Nat) : Work :=
  (w.count Reg.SEC_UNWRAP_FAIL).report { code := 0x4E03, page := 8, part := some p, detail := p + conn * 2 ^ 8 }

/-- The partition's key. -/
def Work.partKey (w : Work) (p : Nat) : Option (BitVec 256) := (w.secPart p).bind (·.key)

/-- A wrapped key under the partition key (R271). -/
def Work.unwrapFor (w : Work) (p : Nat) (b : Bytes) : Option (BitVec 256) := (w.partKey p).bind fun k => keyUnwrap k b

/-- Fields of a connection-control descriptor (R270) that INSTALL checks. -/
def Work.connDescOk (w : Work) (p : Nat) (d : Bytes) : Bool :=
  let id := fieldAt d 4 4
  let base := w.get Reg.CNX_BASE 0 p
  decide (d.length = 128) && decide (base ≤ id) && decide (id < base + w.get Reg.CNX_COUNT 0 p) && decide (id < 2 ^ 20) &&
  (w.connOf id).isNone && decide (fieldAt d 2 2 ≠ w.nodeId) && decide (fieldAt d 2 2 ≠ 0xFFFF) && decide (fieldAt d 1 1 < 2) &&
  decide (fieldAt d 8 4 < 2 ^ 20) && decide (fieldAt d 0xE 2 < 2 ^ 12) && zeroAt d 0x40 64

/-- An INSTALL from its queue (R271). -/
def Work.installOp (w : Work) (src : Src) (desc : Bytes) : Work :=
  w.control src fun w p =>
    let tag := fieldAt desc 0x10 4
    let id := fieldAt desc 4 4
    let answer := fun (w : Work) st => w.complete src tag st 0 0
    if fieldAt desc 0 1 ≠ 1 then w
    else if !w.live p then answer w stStruck
    else if !w.connDescOk p desc then answer w stInternal
    else match w.takeHotSlot with
      | none => answer w stOverBudget
      | some (slot, v) =>
        let e := v.ksInsert tblConn [id] slot
        if e.1.isNone then answer w stOverBudget
        else match w.unwrapFor p (sliceAt desc 0x18 40) with
          | none => answer (w.unwrapFailed p id) stAuthFail
          | some key =>
            let c : Conn :=
              { part := p, peerNode := fieldAt desc 2 2, peerConn := fieldAt desc 8 4, subscriber := fieldAt desc 0xE 2
                portMask := fieldAt desc 0x14 4, rkeyOk := bitOf (fieldAt desc 1 1) 0, state := .active
                epoch := fieldAt desc 0xC 2, key := key, prevKey := none, hot := true, slot := slot
                lastUsed := e.2.n.tp.useSeq + 1, removeTick := 0, rekeyTick := 0, txPsn := 0, txMsn := 0, txAckSeq := 0
                unacked := [], rxBase := 0, rxSeen := [], rxAckSeq := 0, ackDue := false, ackWanted := false, records := []
                msnLow := 0, msnDone := [], fetching := false, heldPkts := [], noticeTick := none, ksAt := e.1 }
            let w := e.2
            let w := { w with n.tp.conns := insertN id c w.n.tp.conns, n.tp.useSeq := w.n.tp.useSeq + 1 }
            let w := if w.serviceConn c.peerNode = some id then w.present id else w
            answer w stOK

/-- `INSTALL` (R271, R272, R395): a connection is installed hot, with its Keystone entry; a service connection presents the fence
epoch. -/
def execInstallConn (src : Src) (desc : Bytes) (s : State) : Host.Outcome State Fault Refusal :=
  run s fun w => w.installOp src desc

/-- A REKEY from its queue (R272). -/
def Work.rekeyOp (w : Work) (src : Src) (desc : Bytes) : Work :=
  w.control src fun w p =>
    let tag := fieldAt desc 0x10 4
    let id := fieldAt desc 4 4
    let answer := fun (w : Work) st => w.complete src tag st 0 0
    if fieldAt desc 0 1 ≠ 2 then w
    else if !w.live p then answer w stStruck
    else match w.connOf id with
      | none => answer w stInternal
      | some c =>
        if desc.length ≠ 128 ∨ c.part ≠ p ∨ c.state ≠ .active ∨ fieldAt desc 0xC 2 ≠ (c.epoch + 1) % 65536 ∨ !zeroAt desc 0x40 64 then
          answer w stInternal
        else
          if !c.hot then w.modConn id fun c => { c with fetching := true }
          else match w.unwrapFor p (sliceAt desc 0x18 40) with
            | none => answer (w.unwrapFailed p id) stAuthFail
            | some key =>
              answer ((w.useCtx id).modConn id fun c => { c with prevKey := some c.key, key := key, epoch := (c.epoch + 1) % 65536, rekeyTick := w.now }) stOK

/-- `REKEY` (R272): the next epoch's key; the previous one is kept for the overlap. On a cold connection it waits for the fetch of the
context (R276, R277). -/
def execRekeyConn (src : Src) (desc : Bytes) (s : State) : Host.Outcome State Fault Refusal :=
  run s fun w => w.rekeyOp src desc

/-- `REKEY_OVERLAP_EXPIRED` (R272): the previous key is destroyed. -/
def execRekeyOverlapExpired (conn : Nat) (s : State) : Host.Outcome State Fault Refusal :=
  run s fun w => w.modConn conn fun c =>
    if c.prevKey.isSome ∧ w.get Reg.FAB_OVERLAP ≤ ticksTo c.rekeyTick w.now then { c with prevKey := none } else c

/-- A REMOVE from its queue (R272). -/
def Work.removeOp (w : Work) (src : Src) (desc : Bytes) : Work :=
  w.control src fun w p =>
    let tag := fieldAt desc 0x10 4
    let id := fieldAt desc 4 4
    let answer := fun (w : Work) st => w.complete src tag st 0 0
    if fieldAt desc 0 1 ≠ 3 then w
    else if !w.live p then answer w stStruck
    else match w.connOf id with
      | none => answer w stInternal
      | some c =>
        if desc.length ≠ 128 ∨ c.part ≠ p ∨ c.state = .removing ∨ !zeroAt desc 0x40 64 then answer w stInternal
        else answer (w.modConn id fun c => { c with state := .removing, removeTick := w.now }) stOK

/-- `REMOVE` (R272): the connection is Removing; new submissions on it are refused. -/
def execRemoveConn (src : Src) (desc : Bytes) (s : State) : Host.Outcome State Fault Refusal :=
  run s fun w => w.removeOp src desc

/-- Forget a connection (R272, R363): its messages complete to nothing more, its Keystone entry and table entry go. -/
def Work.dropConn (w : Work) (id : Nat) : Work :=
  let w := w.ksEraseConn id
  let w := if id < w.get Reg.CNX_ENTRIES then w.hostStore 0 (w.ctxAddr id) (List.replicate 2048 0) true else w
  ({ w with n.tp.conns := eraseN id w.n.tp.conns, n.tp.notices := eraseN id w.n.tp.notices
            n.tp.inMsgs := w.n.tp.inMsgs.filter fun m => m.conn != id
            n.tp.outMsgs := w.n.tp.outMsgs.filter fun m => m.2.conn != id } : Work).msgsGoOn

/-- `CONNECTION_FREED` (R272): no operation record is left, or 64 ticks have passed; what remains completes INTERNAL. -/
def execConnectionFreed (conn : Nat) (s : State) : Host.Outcome State Fault Refusal :=
  run s fun w =>
    match w.connOf conn with
    | none => w
    | some c =>
      if c.state ≠ .removing ∨ (w.hasRecord conn && decide (ticksTo c.removeTick w.now < 64)) then w
      else (w.finishAll conn stInternal).dropConn conn

/-- The packets held for a connection go on, in order, once its context is hot and found (R277). -/
def Work.runHeld (w : Work) (conn : Nat) (c : Conn) : Work :=
  let w := (w.modConn conn fun c => { c with fetching := false, heldPkts := [] }).useCtx conn
  c.heldPkts.foldl (fun w e => w.takePacket conn e.2.2) w

/-- `CONTEXT_FETCH_DONE` (R276, R277): the table entry read makes a cold context hot again, evicting one if no slot is free, and its held
packets go on; or the entry fails authentication and the connection is Broken. It waits while every hot context is pinned, and
while Bus Master Enable is 0 (R333). Where a hot context's search missed, the context on chip stands and its Keystone entry is
written again (DESIGN CHOICE, log 23). -/
def execContextFetchDone (conn : Nat) (entry : Bytes) (s : State) : Host.Outcome State Fault Refusal :=
  run s fun w =>
    match w.connOf conn with
    | none => w
    | some c =>
      if !c.fetching ∨ !w.n.bo.busMaster then w
      else if c.hot then
        let w := (w.count Reg.CNX_FETCHES).hostFetch 0 none (w.ctxAddr conn) 2048 true
        (w.ksInsertConn conn c.slot).runHeld conn c
      else match w.takeHotSlot with
        | none => w
        | some (slot, w) =>
          let w := (w.count Reg.CNX_FETCHES).hostFetch 0 none (w.ctxAddr conn) 2048 true
          if !w.ctxAuthentic conn c entry then
            let w := (w.count Reg.CNX_CTX_FAIL).report { code := 0x4803, page := 0x71, part := some c.part, detail := conn }
            let w := (w.modConn conn fun c => { c with fetching := false, heldPkts := [] }).breakConn conn stInternal
            w.count Reg.FAB_NO_CONN c.heldPkts.length
          else
            ((w.modConn conn fun c => { c with hot := true, slot := slot }).ksInsertConn conn slot).runHeld conn c

/-! ## Regions -/

/-- The key of a region by its partition and index. -/
abbrev regionKey (p idx : Nat) : Nat := p * 2 ^ 24 + idx % 2 ^ 24

/-- Region `idx` of no partition is in use: the lowest free remote-key entry (R296). -/
def Work.freeRegion (w : Work) : Nat :=
  let used := w.n.tp.regions.map fun e => e.1 % 2 ^ 24
  ((List.range (used.length + 1)).find? fun i => !(used.contains i)).getD 0

/-- Make a region (R295, R296): its record and its Keystone entry; none when no entry is free. -/
def Work.makeRegion (w : Work) (p base len perm : Nat) : Option (Nat × Work) :=
  let idx := w.freeRegion
  let e := w.ksInsert tblRkey (rkeyKey p idx) (regionKey p idx)
  match e.1 with
  | none => none
  | some (bank, ki) =>
    let r : Region := { part := p, base := base, len := len, perm := perm, gen := 0, ksBank := bank, ksIdx := ki, draining := none }
    let w := e.2
    some (idx, { w with n.tp.regions := insertN (regionKey p idx) r w.n.tp.regions })

/-- A span may be a region of a partition (R295). -/
def Work.spanOk (w : Work) (p base len : Nat) : Bool :=
  decide (base % 256 = 0) && decide (len % 256 = 0) && decide (256 ≤ len) && decide (len < 2 ^ 32) && inHbm base && w.inAllotment p base len

/-- A CREATE from its queue (R296). -/
def Work.createOp (w : Work) (src : Src) (desc : Bytes) : Work :=
  w.control src fun w p =>
    let tag := fieldAt desc 0x14 4
    let base := fieldAt desc 8 8
    let len := fieldAt desc 0x10 4
    if fieldAt desc 0 1 ≠ 0x10 then w
    else if !w.live p then w.complete src tag stStruck 0 0
    else if desc.length ≠ 32 ∨ 7 < fieldAt desc 1 1 ∨ !zeroAt desc 2 2 ∨ !zeroAt desc 0x18 8 ∨ !w.spanOk p base len then
      (w.nameSpan 0x70 base len).complete src tag stInternal 0 0
    else match w.makeRegion p base len (fieldAt desc 1 1) with
      | none => w.complete src tag stOverBudget 0 0
      | some (idx, w) => w.complete src tag stOK idx 0

/-- `REGION_CREATE` (R295, R296): a span of the partition's buffer allotment is exported under a new remote key. -/
def execRegionCreate (src : Src) (desc : Bytes) (s : State) : Host.Outcome State Fault Refusal :=
  run s fun w => w.createOp src desc

/-- ADVANCE and DESTROY begin (R296): the key must name a region of the partition, at its generation. -/
def Work.regionDrain (w : Work) (src : Src) (p : Nat) (desc : Bytes) (destroy : Bool) : Work :=
  let tag := fieldAt desc 0x14 4
  let key := fieldAt desc 4 4
  if !w.live p then w.complete src tag stStruck 0 0
  else if desc.length ≠ 32 ∨ !zeroAt desc 2 2 ∨ !zeroAt desc 0x18 8 then w.complete src tag stInternal 0 0
  else match lookupN (regionKey p key) w.n.tp.regions with
    | none => w.complete src tag stViolKey 0 0
    | some r =>
      if r.gen ≠ key / 2 ^ 24 then w.complete src tag stViolGen 0 0
      else if r.draining.isSome then w.complete src tag stInternal 0 0
      else
        let r := { r with draining := some (destroy, src, tag), gen := if destroy then r.gen else (r.gen + 1) % 256 }
        ({ w with n.tp.regions := insertN (regionKey p key) r w.n.tp.regions }).arrive src

/-- `ADVANCE` (R296): the region's generation rises by one, modulo 256. -/
def execRegionAdvance (src : Src) (desc : Bytes) (s : State) : Host.Outcome State Fault Refusal :=
  run s fun w => w.control src fun w p => if fieldAt desc 0 1 ≠ 0x11 then w else w.regionDrain src p desc false

/-- `DESTROY` (R296): the region's entry goes once what is being placed has landed. -/
def execRegionDestroy (src : Src) (desc : Bytes) (s : State) : Host.Outcome State Fault Refusal :=
  run s fun w => w.control src fun w p => if fieldAt desc 0 1 ≠ 0x12 then w else w.regionDrain src p desc true

/-- `REGION_DRAIN_DONE` (R296): every packet being placed into the region has landed; ADVANCE or DESTROY completes. -/
def execRegionDrainDone (part index : Nat) (s : State) : Host.Outcome State Fault Refusal :=
  run s fun w =>
    match lookupN (regionKey part index) w.n.tp.regions with
    | none => w
    | some r =>
      match r.draining with
      | none => w
      | some (destroy, src, tag) =>
        let w := if destroy then
            { w.ksErase r.ksBank r.ksIdx with n.tp.regions := eraseN (regionKey part index) w.n.tp.regions }
          else { w with n.tp.regions := insertN (regionKey part index) { r with draining := none } w.n.tp.regions }
        w.complete src tag stOK 0 0

end Sys2Proof.Machine
end

