-- ==== Sys2Proof/Machine/Sched.lean ====
section
/-!
DEFINITION. Sys2Proof/Machine/Sched.lean: the egress scheduler (R335 to R341): the next packet to be formed, sealed and sprayed
(R281 to R286, R301, R302), and the port level. Commands SCHEDULER_DECISION, PORT_UNIT_START.
-/

namespace Sys2Proof.Machine

open Sys2Proof.Crypto (beBytes)

/-! ## Weighted round robin (R339) -/

/-- An entity that has an eligible packet: its number, its weight and its next packet's length. -/
structure Entrant where
  id : Nat
  weight : Nat
  len : Nat
  deriving DecidableEq, Repr

/-- The entrants served now, with their quanta in bytes: those of weight zero only when no other has an eligible packet. -/
def quanta (quantum : Nat) (es : List Entrant) : List (Entrant × Nat) :=
  if es.any fun e => e.weight != 0 then (es.filter fun e => e.weight != 0).map fun e => (e, e.weight * quantum * 256)
  else es.map fun e => (e, quantum * 256)

/-- The entrant after `turn` in the round. -/
def afterTurn (turn : Nat) (es : List (Entrant × Nat)) : Option (Entrant × Nat) :=
  (es.find? fun e => turn < e.1.id).orElse fun _ => es.head?

/-- Turns pass until an entrant's deficit covers its next packet. -/
def passTurns (es : List (Entrant × Nat)) : Nat → List (Nat × Nat) → Nat → Option (Nat × List (Nat × Nat))
  | 0, _, _ => none
  | fuel + 1, ds, turn =>
    match afterTurn turn es with
    | none => none
    | some (e, q) =>
      let ds := bumpN e.id q ds
      if e.len ≤ numN e.id ds then some (e.id, ds) else passTurns es fuel ds e.id

/-- One decision of a weighted round robin: who sends, and the deficits, its packet's bytes taken. The entrants rise by number;
an entity with no eligible packet has deficit zero. -/
def roundRobin (quantum : Nat) (es : List Entrant) (ds : List (Nat × Nat)) (turn : Nat) : Option (Nat × List (Nat × Nat)) :=
  let ds := ds.filter fun d => es.any fun e => e.id = d.1
  let qs := quanta quantum es
  let take := fun (r : Nat × List (Nat × Nat)) =>
    let len := ((es.find? fun e => e.id = r.1).map (·.len)).getD 0
    (r.1, insertN r.1 (numN r.1 r.2 - len) r.2)
  match qs.find? fun e => e.1.id = turn && decide (e.1.len ≤ numN turn ds) with
  | some e => some (take (e.1.id, ds))
  | none => (passTurns qs (qs.length * 18 + 1) ds turn).map take

/-! ## Candidates -/

/-- A packet that could be formed: the connection, its message (none for an ACK), the INDEX of a packet to send again with the half
it was lost on and how often it was sent, its subscriber, service and length. -/
structure Cand where
  conn : Nat
  msg : Option Nat
  again : Option (Nat × Nat × Nat)
  sub : Nat
  misfiled : Bool
  svc : Nat
  len : Nat
  deriving DecidableEq, Repr

/-- Bytes of a message's payload. -/
def OutMsg.len (m : OutMsg) : Nat :=
  match m.purpose with
  | .readResponse _ n => n
  | _ => m.payload.length

/-- Payload bytes of packet `i` of a message. -/
def OutMsg.chunk (m : OutMsg) (i : Nat) : Nat := min pktMax (m.len - i * pktMax)

/-- The lowest extended PSN that a connection still awaits (R278). -/
def Conn.lowPsn (c : Conn) : Nat := c.unacked.foldl (fun n x => min n x.psn) c.txPsn

/-- A connection may send (R272, R277, R282): Active or Removing, hot, and its window of 4,096 PSNs not full. -/
def Conn.maySend (c : Conn) : Bool := c.state != .broken && c.hot && decide (c.txPsn - c.lowPsn < 4096)

/-- A message that has not been started may start now (R293, R303, R395): a record is free, the MSN window is open, and no fence
presentation of its connection waits before it. -/
def Work.mayStart (w : Work) (k : Nat) (m : OutMsg) : Bool :=
  let same := w.n.tp.outMsgs.filter fun x => x.2.conn = m.conn && !x.2.resp
  let oldest := (same.head?).map fun x => x.2.msn
  m.resp || (decide (w.opsInUse < 16384 - w.get Reg.FAB_IN_RESERVE) &&
    (match oldest with | some o => decide ((m.msn + 2 ^ 24 - o) % 2 ^ 24 < 4096) | none => true) &&
    (m.purpose = .fencePresent || same.all fun x => x.1 = k || x.2.started || x.2.purpose != .fencePresent))

/-- The candidates, oldest message first, an ACK after every message of its service. A message stays with the subscriber whose queue it
joined: it waits unformed while that one is disabled (R352). -/
def Work.candidates (w : Work) : List Cand :=
  let msgs := w.n.tp.outMsgs.filterMap fun e =>
    match w.connOf e.2.conn with
    | none => none
    | some c =>
      let sub := e.2.sub.getD (w.subscriber c)
      let base : Cand := { conn := e.2.conn, msg := some e.1, again := none, sub := sub.1, misfiled := sub.2, svc := e.2.service, len := 0 }
      if !c.maySend then none
      else match e.2.resend with
        | r :: _ => some { base with again := some r, len := 48 + e.2.chunk r.1 }
        | [] =>
          if e.2.next < e.2.packets ∧ (e.2.started ∨ w.mayStart e.1 e.2) then some { base with len := 48 + e.2.chunk e.2.next } else none
  let acks := w.n.tp.conns.filterMap fun e =>
    if e.2.ackDue ∧ e.2.state ≠ .broken ∧ e.2.hot then
      let sub := w.subscriber e.2
      some { conn := e.1, msg := none, again := none, sub := sub.1, misfiled := sub.2, svc := 3
             len := 48 + 80 + 16 * min 250 e.2.records.length : Cand }
    else none
  (acks ++ msgs).filter fun c => w.flag Reg.SCH_EN_114 0 c.sub &&
    (w.flag Reg.SCH_EN_100 || c.svc = 0 || c.svc = 1 || c.svc = 3)

/-- A shaper lets the packets that it holds pass (R342): while its tokens are below the length of one of them, all of them wait. -/
def Work.passes (w : Work) (code : Nat) (held : List Cand) : Bool := held.all fun c => w.admits code c.len

/-- The shapers that hold a candidate let it pass (R342). -/
def Work.admitted (w : Work) (all : List Cand) (c : Cand) : Bool :=
  let svc := w.passes (shaperAt 1 (c.sub * 8 + c.svc)) (all.filter fun x => x.sub = c.sub && x.svc = c.svc)
  if c.svc = 2 ∨ c.svc = 3 then true
  else if c.svc < 2 then svc
  else svc && w.passes (shaperAt 0 c.sub) (all.filter fun x => x.sub = c.sub && decide (4 ≤ x.svc))

/-- The candidates that are eligible (R338). -/
def Work.eligible (w : Work) : List Cand :=
  let all := w.candidates
  all.filter (w.admitted all)

/-- The next packet of a service of a subscriber: retransmissions and probes first, then the oldest message (R338). -/
def nextOf (cs : List Cand) (sub svc : Nat) : Option Cand :=
  let mine := cs.filter fun c => c.sub = sub && c.svc = svc
  (mine.find? fun c => c.again.isSome).orElse fun _ => mine.head?

/-- The service a subscriber would serve next, with the service level's state. -/
def Work.nextService (w : Work) (cs : List Cand) (sub : Nat) : Option (Cand × List (Nat × Nat) × Nat) :=
  let es := ((List.range 6).map (· + 2)).filterMap fun svc => (nextOf cs sub svc).map fun c =>
    { id := svc, weight := w.get Reg.SCH_WEIGHT 0 (shaperAt 1 (sub * 8 + svc)), len := c.len : Entrant }
  let ds := (w.n.sc.svcDeficit.filter fun d => d.1 / 8 = sub).map fun d => (d.1 % 8, d.2)
  match roundRobin (w.get Reg.SCH_QUANTUM) es ds (numN sub w.n.sc.svcTurn) with
  | none => none
  | some (svc, ds) => (nextOf cs sub svc).map fun c => (c, ds, svc)

/-- The decision of R338: the packet to be formed, and the round robin's state after it. Of services 0 and 1 the oldest message's packet
goes first. -/
def Work.decide_ (w : Work) (cs : List Cand) : Option (Cand × Work) :=
  let strict := fun svc => cs.find? fun c => c.svc = svc
  match (strict 0).orElse fun _ => strict 1 with
  | some c => some (c, w.count Reg.SCH_STRICT)
  | none =>
    let subs := (cs.foldl (fun l c => insertN c.sub () l) []).map (·.1)
    let choice := subs.filterMap fun s => (w.nextService cs s).map fun r => (s, r)
    let es := choice.map fun r => { id := r.1, weight := w.get Reg.SCH_WEIGHT 0 (shaperAt 0 r.1), len := r.2.1.len : Entrant }
    match roundRobin (w.get Reg.SCH_QUANTUM) es w.n.sc.subDeficit w.n.sc.subTurn with
    | none => none
    | some (s, ds) =>
      match lookupN s choice with
      | none => none
      | some (c, svcDs, svc) =>
        let others := w.n.sc.svcDeficit.filter fun d => d.1 / 8 != s
        some (c, { w with n.sc.subDeficit := ds, n.sc.subTurn := s, n.sc.svcTurn := insertN s svc w.n.sc.svcTurn
                          n.sc.svcDeficit := svcDs.foldl (fun l d => insertN (s * 8 + d.1) d.2 l) others })

/-- Subscribers and services with no eligible packet have a deficit of zero (R339). -/
def Work.dropDeficits (w : Work) (cs : List Cand) : Work :=
  { w with n.sc.subDeficit := w.n.sc.subDeficit.filter fun d => cs.any fun c => c.sub = d.1 && decide (2 ≤ c.svc)
           n.sc.svcDeficit := w.n.sc.svcDeficit.filter fun d => cs.any fun c => c.sub * 8 + c.svc = d.1 }

/-! ## Forming -/

/-- Counts and charges of a packet formed (R342, R478, FAB and SCH counters). -/
def Work.sentBytes (w : Work) (part sub svc len : Nat) : Work :=
  ((((w.count Reg.FAB_TX_PKTS).meter part 11 len).charge (shaperAt 0 sub) len).charge (shaperAt 1 (sub * 8 + svc)) len)

/-- The half for a packet of a connection, other than the port it was lost on wherever another is usable (R284, R286). -/
def Work.halfFor (w : Work) (c : Conn) (cls : Nat) (lostOn : Option Nat) : Option Nat :=
  let ks := w.usable c
  let ks := match lostOn with
    | some l => let other := ks.filter fun k => k / 2 != l / 2
                if other.isEmpty then ks else other
    | none => ks
  w.soonest cls ks

/-- The route mask to a message's peer is 0 (R286): it completes with INTERNAL at once, a RESPONSE ends. -/
def Work.noRoute (w : Work) (k : Nat) (m : OutMsg) : Work := if m.resp then w.dropMsg k else w.finishMsg k stInternal 0 0 none

/-- Form a packet of a message (R278, R284, R299, R301): its PSN is new, and it is awaited. ACK_REQ is the sender's own choice, a free
value (log 32). -/
def Work.formMsg (w : Work) (d : Cand) (c : Conn) (k : Nat) (m : OutMsg) : Work :=
  let i := (d.again.map (·.1)).getD m.next
  let psn := c.txPsn
  if 2 ^ 47 ≤ psn then w.breakConn d.conn stInternal
  else if w.route c.peerNode = 0 then w.noRoute k m
  else
    let r := (w.useCtx d.conn).draw
    let w := r.2
    let payload := match m.purpose with
      | .readResponse a _ => w.bytes (a + i * pktMax) (m.chunk i)
      | _ => sliceAt m.payload (i * pktMax) pktMax
    let last := decide (i + 1 = m.packets)
    let h : PktHead :=
      { op := m.op, flags := (if last then 1 else 0) + r.1 % 2 * 2 + (if m.resp then 4 else 0) + (if m.cmpr then 8 else 0)
        hops := w.get Reg.FAB_HOP_LIMIT, dst := c.peerConn, srcNode := w.nodeId, dstNode := c.peerNode, epoch := c.epoch
        psn := psn % 2 ^ 24, low := c.lowPsn % 2 ^ 24, msn := m.msn, index := i, target := m.target }
    let half := w.halfFor c m.cls (d.again.map (·.2.1))
    let sends := match d.again with
      | some (_, _, n) => if n = 0 then 0 else n + 1
      | none => 1
    let x : Sent := { psn := psn, msn := m.msn, index := i, last := last, resp := m.resp, sends := sends, port := half.getD limbo
                      overtaken := false }
    let w := (w.enqueue half m.cls (sealPkt c.key h psn payload)).modConn d.conn fun c =>
      { c with txPsn := psn + 1, unacked := c.unacked ++ [x] }
    let w := w.modOut k fun m => { m with started := true, next := if d.again.isNone then m.next + 1 else m.next
                                          resend := if d.again.isNone then m.resend else m.resend.drop 1 }
    let w := if last && half.isSome then w.msgLeft k else w
    match d.again with
    | some (_, p, n) =>
      -- a probe that was deemed lost is one of the packets sent again too (FAB_RETX)
      let w := if n = 0 then w.count Reg.FAB_PROBES else w
      if n = 0 ∧ p = limbo then w else w.count Reg.FAB_RETX
    | none => w

/-- The SACK bits of a connection from its window base: bit `i` counted from bit 7 of the first byte. -/
def Conn.sack (c : Conn) : Bytes :=
  (List.range 64).map fun b => BitVec.ofNat 8
    ((List.range 8).foldl (fun v j => v * 2 + if c.rxSeen.contains (c.rxBase + b * 8 + j) then 1 else 0) 0)

/-- The bytes of a completion record on the wire. -/
def CmplRec.wire (r : CmplRec) : Bytes := beBytes 3 r.msn ++ beBytes 1 r.status ++ beBytes 4 r.tag ++ beBytes 4 r.aux0 ++ beBytes 4 r.aux1

/-- Form a connection's ACK (R283): up to 250 records, sent twice on two ports where ACK_TWICE asks for it. -/
def Work.formAck (w : Work) (d : Cand) (c : Conn) : Work :=
  let recs := c.records.take 250
  let body := beBytes 3 (c.rxBase % 2 ^ 24) ++ [0] ++ beBytes 3 (c.rxBase % 2 ^ 24) ++ [0] ++ c.sack ++ beBytes 2 recs.length ++
    List.replicate 6 0 ++ (recs.map CmplRec.wire).flatten
  let h : PktHead :=
    { op := 0xF, flags := 0, hops := w.get Reg.FAB_HOP_LIMIT, dst := c.peerConn, srcNode := w.nodeId, dstNode := c.peerNode
      epoch := c.epoch, psn := c.txAckSeq % 2 ^ 24, low := 0, msn := 0, index := 0, target := 0 }
  let pkt := sealPkt c.key h c.txAckSeq body
  let ks := w.usable c
  let first := w.soonest 1 ks
  let second := if w.flag Reg.FAB_ACK_TWICE && !recs.isEmpty then
      w.soonest 1 (ks.filter fun k => some (k / 2) != first.map (· / 2)) else none
  let w := w.enqueue first 1 pkt
  let w := match second with
    | some k =>
      let w := (w.enqueue (some k) 1 pkt).sentBytes c.part d.sub 3 pkt.length
      if d.misfiled then w.count Reg.SCH_MISFILED else w
    | none => w
  let more := decide (250 < c.records.length)
  (w.useCtx d.conn).modConn d.conn fun c => { c with txAckSeq := c.txAckSeq + 1, records := c.records.drop 250, ackDue := more, ackWanted := more }

/-- The connection of this node that sent a packet, by its header. -/
def Work.senderOf (w : Work) (h : PktHead) : Option (Nat × Conn) :=
  w.n.tp.conns.find? fun e => h.srcNode = w.nodeId && e.2.peerNode = h.dstNode && e.2.peerConn = h.dst

/-- The data packet of this node that a header is of: its connection, and what is kept of it while it is not acknowledged. ACKs have a
sequence of their own (R281). -/
def Work.sentOf (w : Work) (h : PktHead) : Option (Nat × Sent) :=
  if h.op = 0xF then none
  else (w.senderOf h).bind fun e => (e.2.unacked.find? fun x => x.psn % 2 ^ 24 = h.psn).map fun x => (e.1, x)

/-- The outbound message of a packet sent. -/
def Work.msgOf (w : Work) (id : Nat) (x : Sent) : Option (Nat × OutMsg) :=
  w.n.tp.outMsgs.find? fun m => m.2.conn = id && m.2.msn = x.msn && m.2.resp = x.resp

/-- A packet of this node that waited goes on a port: it is awaited there (R284), and with a message's last packet the message has
left (R35). -/
def Work.placedOn (w : Work) (k : Nat) (h : PktHead) : Work :=
  match w.sentOf h with
  | none => w
  | some (id, x) =>
    let w := w.modConn id fun c => { c with unacked := c.unacked.map fun y => if y.psn = x.psn then { y with port := k } else y }
    match w.msgOf id x, x.last with
    | some m, true => w.msgLeft m.1
    | _, _ => w

/-- A packet of this node waits and the route mask has become 0: its message completes (R286). -/
def Work.unrouted (w : Work) (h : PktHead) : Work :=
  match (w.sentOf h).bind fun s => w.msgOf s.1 s.2 with
  | some (k, m) => w.noRoute k m
  | none => w

/-- Packets that no port could carry go to a port that now can (R286, R287). -/
def Work.placeWaiting (w : Work) : Work :=
  let wait := w.txQueue limbo
  let w := { w with n.sc.portQ := eraseN limbo w.n.sc.portQ }
  wait.foldl (fun w u =>
    let h := PktHead.read u.bytes
    let mask := match u.arrived, w.senderOf h with
      | some p, _ => w.transitMask h.dstNode p
      | none, some e => w.route h.dstNode &&& (if e.2.portMask = 0 then 2 ^ 32 - 1 else e.2.portMask)
      | none, none => w.route h.dstNode
    let k := w.soonest u.cls (w.upHalves mask)
    if u.arrived.isNone ∧ w.route h.dstNode = 0 then w.unrouted h
    else
      let w := w.enqueue k u.cls u.bytes u.arrived
      match k, u.arrived with
      | some k, none => w.placedOn k h
      | _, _ => w) w

/-- `SCHEDULER_DECISION` (R338): the next packet is chosen, formed, sealed and put on a port's transmit queue. -/
def execSchedulerDecision (s : State) : Host.Outcome State Fault Refusal :=
  run s fun w =>
    if !w.flag Reg.FAB_EN then w
    else
      let w := w.placeWaiting
      let cs := w.eligible
      let w := if cs.length < w.candidates.length then w.count Reg.SCH_SHAPED_WAIT else w
      match (w.dropDeficits cs).decide_ cs with
      | none => w.dropDeficits cs
      | some (d, w) =>
        match w.connOf d.conn with
        | none => w
        | some c =>
          let w := (w.count Reg.SCH_DECISIONS).sentBytes c.part d.sub d.svc d.len
          let w := if d.misfiled then w.count Reg.SCH_MISFILED else w
          let w := match d.msg with
            | none => w.formAck d c
            | some k => match lookupN k w.n.tp.outMsgs with
              | some m => w.formMsg d c k m
              | none => w
          w.dropDeficits w.eligible

/-! ## The port level -/

/-- `PORT_UNIT_START` (R257, R340, R342): the port's next unit starts: class 0 first, then the round robin of classes 1 to 3, as
credits and the port's shaper allow. -/
def execPortUnitStart (port half : Nat) (s : State) : Host.Outcome State Fault Refusal :=
  run s fun w =>
    if !w.flag Reg.FAB_EN || !w.hasHalf port half || w.portState port half != 5 then w
    else
      let k := 2 * port + half
      let q := w.txQueue k
      let x := w.half port half
      let shp := shaperAt 2 k
      let first := fun (c : Nat) => q.find? fun u => u.cls = c
      -- while the tokens are below the length of a packet that the shaper holds, every packet that it holds waits (R342)
      let passes := [1, 2, 3].all fun c => (first c).all fun u => w.admits shp u.bytes.length
      let head := fun (c : Nat) => (first c).bind fun u =>
        if unitFlits u.bytes ≤ atD x.avail c 0 ∧ (c = 0 ∨ passes) then some u else none
      let es := [1, 2, 3].filterMap fun c => (head c).map fun u =>
        { id := c, weight := w.get (if c = 1 then Reg.SCH_W1 else if c = 2 then Reg.SCH_W2 else Reg.SCH_W3) 0 shp
          len := u.bytes.length : Entrant }
      let ds := [1, 2, 3].filterMap fun c => (lookupN (k * 4 + c) w.n.sc.portDeficit).map fun v => (c, v)
      let w := { w with n.sc.portDeficit := w.n.sc.portDeficit.filter fun d => d.1 / 4 != k || es.any fun e => e.id = d.1 % 4 }
      let pick : Option (TxUnit × Work) := match head 0 with
        | some u => some (u, w)
        | none => match roundRobin (w.get Reg.SCH_QUANTUM) es ds (numN k w.n.sc.portTurn) with
          | none => none
          | some (c, ds) => (head c).map fun u =>
              let others := w.n.sc.portDeficit.filter fun d => d.1 / 4 != k
              (u, { w with n.sc.portTurn := insertN k c w.n.sc.portTurn
                           n.sc.portDeficit := ds.foldl (fun l d => insertN (k * 4 + d.1) d.2 l) others })
      match pick with
      | none => w
      | some (u, w) =>
        let n := unitFlits u.bytes
        let w := (w.charge shp u.bytes.length).sendSlots port half (unitSlots u.cls u.bytes)
        let w := { w with n.sc.portQ := insertN k (q.erase u) w.n.sc.portQ }
        let left := (w.txQueue k).any fun v => v.cls = u.cls
        let w := { w with n.sc.portDeficit := w.n.sc.portDeficit.filter fun d => left || d.1 != k * 4 + u.cls }
        (w.modHalf port half fun x => { x with avail := x.avail.modify u.cls (· - n), sent := addAt u.cls n x.sent }).sendCredit port half

end Sys2Proof.Machine
end

