-- ==== Sys2Proof/Machine/SysArea.lean ====
section
/-!
DEFINITION. Sys2Proof/Machine/SysArea.lean: the records that the node keeps in the system area, as partition 0 reads them through
BAR4: course records and the handle map (R60), page tables (R98), the course reference table (R99), session records (R104), tree
records (R139) and streamed layers (R179). The spec gives each its form and its part of R58's table; where in that part each lies is the model's choice (log 130).
-/

namespace Sys2Proof.Machine

/-! ## Records -/

/-- The session whose own course it is: its creator, or with one reference the session that names it (R99). -/
def Work.courseOwner (w : Work) (ci : Nat) (c : Course) : Nat :=
  if 1 < c.refs then 0xFFFFFFFF
  else match w.n.pg.sessions.find? fun e => e.2.layers.any fun l => l.runs.any fun r => r.course = ci with
    | some e => handleOf e.1 e.2.gen
    | none => c.creator

/-- Blocks A and B of a compressed course (R60): in tier 1 those of die 0 and die 1, else the first and the second. -/
def Loc.blockA : Loc → Option Blk
  | .ddr bs => bs.find? fun b => b.die = 0
  | l => l.blks[0]?
def Loc.blockB : Loc → Option Blk
  | .ddr bs => bs.find? fun b => b.die = 1
  | l => l.blks[1]?

/-- TIER_K, LOC_A and LOC_B of a course record (R60); a copy packed in HBM gives the frames of its blocks (DESIGN CHOICE, log 130). -/
def Work.courseTierK (w : Work) (ci : Nat) (c : Course) : Nat :=
  (if (w.moveOf ci).isSome then 3 else c.loc.tier) + c.k * 4 + (if (w.tailOf ci).isEmpty then 0 else 64) + (if 1 < c.refs then 128 else 0) +
    c.part % 64 * 2 ^ 8 + c.heat * 2 ^ 16
def Work.courseLocs (w : Work) (ci : Nat) (c : Course) : Nat × Nat :=
  let at_ := fun (b : Option Blk) (f : Blk → Nat) => (b.map f).getD 0
  match w.moveOf ci, c.loc with
  | some (mi, _), _ => (mi % 2 ^ 16, 0)
  | none, .hbm f => (f, 0)
  | none, .packed _ => (at_ c.loc.blockA fun b => b.unit / 16, at_ c.loc.blockB fun b => b.unit / 16)
  | none, _ => (at_ c.loc.blockA (·.unit), at_ c.loc.blockB (·.unit))

/-- The block summary of a compressed course, 16 bytes (R231). -/
def Loc.summary (l : Loc) : Bytes :=
  let at_ := fun (b : Option Blk) (f : Blk → Nat) => (b.map f).getD 0
  leBytes 4 (at_ l.blockA (·.len)) ++ leBytes 4 (at_ l.blockB (·.len)) ++ leBytes 1 (at_ l.blockA (·.mode)) ++ leBytes 1 (at_ l.blockB (·.mode)) ++
    List.replicate 6 0

/-- A course record, 32 bytes (R60). -/
def Work.courseRecord (w : Work) (ci : Nat) (c : Course) : Bytes :=
  let l := w.courseLocs ci c
  leBytes 4 (w.courseTierK ci c) ++ leBytes 4 c.lastTouch.toNat ++ leBytes 8 l.1 ++ leBytes 8 l.2 ++ leBytes 4 (w.courseOwner ci c) ++
    leBytes 2 (c.pages.filter fun p => 0 < p.counted).length ++ leBytes 2 0

/-- A page-table entry for a run, and the link to the next block (R98). -/
def Run.entry (r : Run) : Bytes := leBytes 8 (r.course % 2 ^ 32 + r.first * 2 ^ 32 + r.count * 2 ^ 40 + 2 ^ 62)
def linkEntry (next : Nat) : Bytes := leBytes 8 (next % 2 ^ 32 + 2 * 2 ^ 62)

/-- Block `j` of a layer's page table, 256 bytes (R98): 31 runs and a link, or in the last block up to 32 runs; unused entries are zero. -/
def tableBlock (runs : List Run) (chain : List Nat) (j : Nat) : Bytes :=
  let mine := (runs.drop (31 * j)).take (if j + 1 = chain.length then 32 else 31)
  let b := (mine.map Run.entry).flatten ++ (match chain[j + 1]? with | some n => linkEntry n | none => [])
  b ++ List.replicate (256 - b.length) 0

/-- The state code of a session record (R105). -/
def SessState.code : SessState → Nat
  | .open => 1
  | .closing => 2
  | .lost => 3
  | .struck => 4
  | .forming => 5

/-- A session record, 1,024 bytes (R104). -/
def Work.sessionRecord (w : Work) (i : Nat) (s : Session) : Bytes :=
  let staged := w.n.pg.staged.filter fun g => g.session = i
  let shared := s.courses.any fun ci => ((w.course ci).map fun c => decide (1 < c.refs)).getD false
  let head := leBytes 4 (handleOf i s.gen) ++
    leBytes 4 (s.state.code + s.part * 2 ^ 4 + s.fmt * 2 ^ 10 + s.layers.length * 2 ^ 16 + (if staged.isEmpty then 0 else 2 ^ 23) +
      (if shared then 2 ^ 24 else 0)) ++
    leBytes 8 s.cid.toNat ++ leBytes 8 s.parentCid.toNat ++ leBytes 4 s.forkPos ++ leBytes 4 s.openTick.toNat ++ leBytes 4 s.slots ++
    leBytes 4 (staged.foldl (fun n g => n + g.count) 0) ++ leBytes 4 s.ownEpoch
  head ++ List.replicate 20 0 ++ ((List.range 120).map fun li =>
    let chain := (lookupN (i * 128 + li) w.n.pg.chains).getD []
    leBytes 4 ((chain.head?).getD 0xFFFFFFFF) ++ leBytes 4 (((s.layers[li]?).map (·.rows)).getD 0)).flatten

/-- A tree record, 640 bytes (R139). -/
def treeRecord (r : TreeRec) : Bytes :=
  let b := treeBytes r ++ (r.handles.map fun h => leBytes 4 h.toNat).flatten
  b ++ List.replicate (640 - b.length) 0

/-- An entry of a leaf of the handle map (R60): the course record's index and the page's index in the course, 4 bytes each. -/
def Work.leafEntry (w : Work) (part handle : Nat) : Option Bytes :=
  (w.pageOfHandle part handle).map fun x => leBytes 4 x.1 ++ leBytes 4 x.2

/-! ## Places -/

/-- First bytes, within the first part, of the course records, the reference table, the block summaries, the page-table blocks and the
leaves of the handle map (log 130). -/
def courseArea : Nat := 0
def refArea : Nat := 2 ^ 30
def summaryArea : Nat := 5 * 2 ^ 28
def tableArea : Nat := 3 * 2 ^ 29
def leafArea : Nat := 5 * 2 ^ 29

/-- The page-table block of an index: its layer's runs, chain and place in it. -/
def Work.blockOfTable (w : Work) (b : Nat) : Option (List Run × List Nat × Nat) :=
  (w.n.pg.chains.find? fun e => e.2.contains b).bind fun e =>
    ((w.session (e.1 / 128)).bind fun s => s.layers[e.1 % 128]?).map fun l => (l.runs, e.2, e.2.idxOf b)

/-- The course records of a struck partition have been scrubbed (R363). -/
def Work.chipScrubbed (w : Work) (p : Nat) : Bool := w.n.se.parts.any fun q => q.id = p && q.strike.any (·.chipDone)

/-- The record of the first part that holds an offset, and the offset in it. -/
def Work.pagerRecord (w : Work) (o : Nat) : Option (Bytes × Nat) :=
  if o < refArea then (w.course (o / 32)).map fun c =>
    (if w.chipScrubbed c.part then List.replicate 32 0 else w.courseRecord (o / 32) c, o % 32)
  else if o < summaryArea then (w.course ((o - refArea) / 4)).map fun c =>
    (leBytes 4 (if w.chipScrubbed c.part then 0 else c.refs), o % 4)
  else if o < tableArea then ((w.course ((o - summaryArea) / 16)).filter fun c => !c.loc.blks.isEmpty).map fun c =>
    (if w.chipScrubbed c.part then List.replicate 16 0 else c.loc.summary, o % 16)
  else if o < leafArea then (w.blockOfTable ((o - tableArea) / 256)).map fun x => (tableBlock x.1 x.2.1 x.2.2, o % 256)
  else
    let at_ := o - leafArea
    (w.n.st.leaves[at_ / 2 ^ 19]?).bind fun l => (w.leafEntry l.1 (l.2 * 2 ^ 16 + at_ % 2 ^ 19 / 8)).map fun b => (b, at_ % 8)

/-- What the node keeps at a byte of the system area, where the spec gives the record there its form. -/
def Work.sysByte (w : Work) (a : Nat) : Option Byte :=
  let rec_ : Option (Bytes × Nat) := match sysPartOf a with
    | some 0 => w.pagerRecord (sysOffset 0 a)
    | some 1 => (w.session (sysOffset 1 a / 1024)).map fun s => (w.sessionRecord (sysOffset 1 a / 1024) s, sysOffset 1 a % 1024)
    | some 2 => (w.treeRec (sysOffset 2 a / 640)).map fun r => (treeRecord r, sysOffset 2 a % 640)
    | some 6 => (w.n.cl.weights ++ w.n.cl.pendingWeights.getD []).findSome? fun l => l.kept.bind fun o =>
        let at_ := sysOffset 6 a
        if o ≤ at_ ∧ at_ < o + l.stored.length then some (l.stored, at_ - o) else none
    | _ => none
  rec_.bind fun r => r.1[r.2]?

end Sys2Proof.Machine
end

