-- ==== Sys2Proof/Machine/Host.lean ====
section
/-!
DEFINITION. Sys2Proof/Machine/Host.lean: the host interface (R305 to R333): queue pairs, their mailbox and doorbells, submission
entries, function-level reset, bus mastering and the BAR4 window.
-/

namespace Sys2Proof.Machine

/-! ## The mailbox (R312, R313) -/

/-- Answer a mailbox command of a function (R313): STATUS, DETAIL and SEQ, then READY. -/
def Work.mailAnswer (w : Work) (fn status detail seq : Nat) : Work :=
  let w := w.set Reg.QUE_STATUS status 0 fn
  let w := w.set Reg.QUE_DETAIL detail 0 fn
  let w := w.set Reg.QUE_SEQ_108 seq 0 fn
  w.set Reg.QUE_READY 1 0 fn

/-- A mailbox command of one operation (R312, R313): ignored and counted while an earlier one runs; refused with detail code 4 for
a queue outside the function's partition (log 41). -/
def Work.mailbox (w : Work) (wr : RegWr) (op : Nat) (act : Work → Nat → Nat → Nat → Work) : Work :=
  let fn := fnNum wr.fn
  if w.addresses wr .QUE [0x104] ∧ w.merged wr 0 fn Reg.QUE_OP ≠ op then w
  else w.regAction wr .QUE [0x104] fun w inst idx =>
    let q := w.merged wr inst idx Reg.QUE_QUEUE_104
    let seq := w.merged wr inst idx Reg.QUE_SEQ_104
    if !w.flag Reg.QUE_READY 0 fn then w.count Reg.QUE_CMD_BUSY
    else
      let w := w.set Reg.QUE_READY 0 0 fn
      if w.queuePart q ≠ some fn then w.mailAnswer fn stInternal 4 seq else act w fn q seq

/-- `ENABLE` (R311, R312): a Disabled queue of a live partition whose CQ is at least as large as its SQ starts from zero, with PHASE
1; LAST_HANDLE is kept. -/
def execQueueEnable (wr : RegWr) (s : State) : Host.Outcome State Fault Refusal :=
  run s fun w => w.mailbox wr 1 fun w fn q seq =>
    let x := w.queueOf q
    if x.state ≠ .disabled ∨ !w.live fn ∨ w.get Reg.QCFG_CQ_LOG2 q < w.get Reg.QCFG_SQ_LOG2 q then w.mailAnswer fn stInternal 1 seq
    else
      let x := { x with state := .enabled, tail := 0, fetch := 0, cqHead := 0, cqProd := 0, unconsumed := 0, phase := true
                        count := 0, failCount := 0, seq := 0, entries := [], recvs := [], unsignalled := 0, ending := none }
      (w.setQueue q x).mailAnswer fn stOK 0 seq

/-- A queue stops starting entries (R312): those fetched and not started are dropped. -/
def Queue.stopped (x : Queue) : Queue := { x with entries := x.entries.filter (·.started) }

/-- `DISABLE` (R312): no further fetch; the result is given once the started entries have completed. -/
def execQueueDisable (wr : RegWr) (s : State) : Host.Outcome State Fault Refusal :=
  run s fun w => w.mailbox wr 2 fun w fn q seq =>
    let x := w.queueOf q
    if x.state ≠ .enabled then w.mailAnswer fn stInternal 0 seq
    else w.setQueue q { x.stopped with state := .draining, ending := some (2, seq) }

/-- Reset a queue that is not Disabled (R312): started entries finish unreported, posted RECVs are withdrawn. -/
def Queue.reset (x : Queue) : Queue :=
  if x.state = .disabled then x
  else { x with state := .draining, recvs := []
                entries := x.stopped.entries.map fun h : HEntry => { h with suppressed := true } }

/-- `RESET` (R312): the result is given once the started entries have finished; a Disabled queue is Disabled already. -/
def execQueueReset (wr : RegWr) (s : State) : Host.Outcome State Fault Refusal :=
  run s fun w => w.mailbox wr 3 fun w fn q seq =>
    let x := w.queueOf q
    if x.state = .disabled then w.mailAnswer fn stOK 0 seq
    else w.setQueue q { x.reset with ending := some (3, seq) }

/-- `QUEUE_DRAINED` (R312): the last started entry of a Draining queue has finished, posted RECVs among them; it is Disabled and the mailbox
answers. -/
def execQueueDrained (q : Nat) (s : State) : Host.Outcome State Fault Refusal :=
  run s fun w =>
    let x := w.queueOf q
    if x.state ≠ .draining ∨ !x.entries.isEmpty ∨ !x.recvs.isEmpty then w
    else
      let w := w.setQueue q { x with state := .disabled, ending := none }
      match x.ending, w.queuePart q with
      | some (_, seq), some p => w.mailAnswer p stOK 0 seq
      | _, _ => w

/-! ## Doorbells (R309, R314, R315) -/

/-- A doorbell write through a function: foreign queues are ignored and counted (R309). -/
def Work.doorbell (w : Work) (fn : Fn) (q : Nat) (act : Work → Work) : Work :=
  if 4096 ≤ q ∨ !w.fnExists fn then w
  else if w.queuePart q = some (fnNum fn) then act w
  else w.count Reg.QUE_FOREIGN

/-- A doorbell value that is captured (R314, R315). -/
def Work.badDoorbell (w : Work) (fn : Fn) (q off value : Nat) : Work :=
  w.capture { code := 0x4001, page := 0x77, part := some (fnNum fn), arg := q * 0x1000 + off, detail := value }

/-- `SQ_TAIL` (R314): the entries up to the new tail may be fetched. -/
def execSqTail (fn : Fn) (q value : Nat) (s : State) : Host.Outcome State Fault Refusal :=
  run s fun w => w.doorbell fn q fun w =>
    let x := w.queueOf q
    let size := 2 ^ w.get Reg.QCFG_SQ_LOG2 q
    if size ≤ value then w.badDoorbell fn q 0 value
    else if value = x.tail then w.count Reg.QUE_DB_NOP
    else if (value + size - x.fetch) % size < (x.tail + size - x.fetch) % size then w.count Reg.QUE_DB_BAD
    else w.setQueue q { x with tail := value }

/-- `CQ_HEAD` (R315): the host consumes completion entries; entries that waited for a CQ slot may start (R317). -/
def execCqHead (fn : Fn) (q value : Nat) (s : State) : Host.Outcome State Fault Refusal :=
  run s fun w => w.doorbell fn q fun w =>
    let x := w.queueOf q
    let size := 2 ^ w.get Reg.QCFG_CQ_LOG2 q
    let adv := (value + size - x.cqHead) % size
    if size ≤ value then (w.count Reg.QUE_HEAD_BAD).badDoorbell fn q 4 value
    else if value = x.cqHead then w.count Reg.QUE_HEAD_NOP
    else if x.unconsumed < adv then (w.count Reg.QUE_HEAD_BAD).badDoorbell fn q 4 value
    else
      let w := w.setQueue q { x with cqHead := value, unconsumed := x.unconsumed - adv }
      Work.startEntries (w.unstarted + 1) w

/-! ## Fetching entries (R318, R323, R324) -/

/-- The largest payload (R318). -/
def payMax : Nat := 2129920

/-- The operations that MSG sends (R320). -/
def msgOps : List Nat := [1, 2, 3, 4, 6, 8, 9, 0xA]

/-- PAY_LEN lies within the limits of the opcode (R318, R323; DEDUCED, log 140): a descriptor of fixed length is that long, and
what travels as a message is no longer than its OP's longest. -/
def HEntry.payOk (h : HEntry) : Bool :=
  match h.opcode with
  | 1 => decide (64 ≤ h.payLen ∧ h.payLen ≤ longest 3)
  | 2 => decide (64 ≤ h.payLen ∧ h.payLen ≤ longest 4)
  | 3 => decide (32 ≤ h.payLen)
  | 4 => decide (h.payLen = 128)
  | 5 => decide (h.payLen = 32)
  | 6 => if h.msgOp = 2 ∨ h.msgOp = 0xA then decide (h.payLen = longest h.msgOp) else decide (h.payLen ≤ longest h.msgOp)
  | 8 | 9 => decide (h.payLen = 0)
  | _ => true

/-- The detail code of the first check of R323 that an entry fails at fetch, 0 for none; `b` is the entry. -/
def Work.entryFault (w : Work) (p : Nat) (b : Bytes) (h : HEntry) : Nat :=
  let payCs := bitOf h.sflags 2
  let resCs := bitOf h.sflags 3
  let noRes := h.opcode = 1 ∨ h.opcode = 3 ∨ h.opcode = 4 ∨ h.opcode = 5 ∨ h.opcode = 9 ∨
    (h.opcode = 6 ∧ h.msgOp ≠ 2 ∧ h.msgOp ≠ 0xA)
  if h.opcode < 1 ∨ 9 < h.opcode ∨ 32 ≤ h.sflags ∨ bitsOf (fieldAt b 2 2) 12 3 ≠ 0 ∨ !zeroAt b 0xE 2 ∨ 2 ^ 20 ≤ fieldAt b 0x1C 4 ∨
      !zeroAt b 0x2D 3 ∨ !zeroAt b 0x38 8 ∨ payMax < h.payLen ∨ !h.payOk ∨ (noRes ∧ h.resLen ≠ 0) ∨
      (h.opcode = 6 ∧ h.msgOp ∉ msgOps) ∨ (h.opcode ≠ 6 ∧ h.target ≠ 0) ∨ (h.opcode = 7 ∧ payCs = resCs) ∨
      (bitOf h.sflags 1 ∧ 3 < h.opcode) then 1
  else if (h.waitEn ∧ w.queuePart h.waitQ ≠ some p) ∨
      (h.opcode = 6 ∧ (h.conn < w.get Reg.CNX_BASE 0 p ∨ w.get Reg.CNX_BASE 0 p + w.get Reg.CNX_COUNT 0 p ≤ h.conn)) then 4
  else if (h.opcode = 7 ∧ h.resLen < h.payLen) ∨ (h.opcode = 6 ∧ h.msgOp = 0xA ∧ h.resLen < 32) then 5
  else if (payCs ∧ h.payLen ≠ 0 ∧ !w.inAllotment p h.payAddr h.payLen) ∨ (resCs ∧ h.resLen ≠ 0 ∧ !w.inAllotment p h.resAddr h.resLen) then 6
  else 0

/-- Read a submission entry. -/
def HEntry.read (b : Bytes) (idx sqIndex seq : Nat) (now : Tick) : HEntry :=
  let wait := fieldAt b 2 2
  { idx := idx, sqIndex := sqIndex, seq := seq, opcode := fieldAt b 0 1, sflags := fieldAt b 1 1, waitEn := bitOf wait 15
    waitQ := wait % 2 ^ 12, waitCount := fieldAt b 8 4, waitTicks := fieldAt b 0xC 2, tag := fieldAt b 4 4
    payAddr := fieldAt b 0x10 8, payLen := fieldAt b 0x18 4, conn := fieldAt b 0x1C 4 % 2 ^ 20, resAddr := fieldAt b 0x20 8
    resLen := fieldAt b 0x28 4, msgOp := fieldAt b 0x2C 1, target := fieldAt b 0x30 8, started := false, arrived := false
    suppressed := false, fetchTick := now, fail := 0, handle := none }

/-- An SQ entry read ends in an error (R312): the queue stops in Error; the AER bits of the event are free. -/
def Work.queueError (w : Work) (q p : Nat) : Work :=
  let x := w.queueOf q
  let w := (w.setQueue q { x with state := .error }).count Reg.PCI_UE_CNT
  let w := (w.isr 0x77 16).isr (0x100 + p) 16
  let v := w.draw
  let t := v.2.readsFailed 1
  t.2.report { code := 0x400A, page := 0x76, part := some p, detail := v.1 % 2 ^ 32 }

/-- `SQ_ENTRY_FETCHED` (R312, R323, R324): one entry of an enabled queue is read, or its read failed; entries then start as far as
they may. Fetching pauses while MAX_STARTED entries are started. -/
def execSqEntryFetched (q : Nat) (entry : Option Bytes) (s : State) : Host.Outcome State Fault Refusal :=
  run s fun w =>
    let x := w.queueOf q
    match w.queuePart q with
    | none => w
    | some p =>
      if x.state ≠ .enabled ∨ x.fetch = x.tail ∨ !w.n.bo.busMaster ∨ w.get Reg.QUE_MAX_STARTED ≤ w.startedEntries then w
      else match entry with
        | none => w.queueError q p
        | some b =>
          if b.length ≠ 64 then w
          else
            let at_ := w.qcfg64 q Reg.QCFG_SQ_BASE_LO Reg.QCFG_SQ_BASE_HI + x.fetch * 64
            let w := (w.count Reg.QUE_FETCHED).hostFetch (partFn p) (some p) at_ 64
            let idx := ((x.entries ++ x.recvs).foldl (fun m (h : HEntry) => max m (h.idx + 1)) 0)
            let h := HEntry.read b idx x.fetch x.seq w.now
            let h := { h with fail := w.entryFault p b h }
            let w := if h.fail = 6 then
                (let v := if bitOf h.sflags 2 then w.nameSpan 0x77 h.payAddr h.payLen else w
                 if bitOf h.sflags 3 then v.nameSpan 0x77 h.resAddr h.resLen else v)
              else w
            let w := w.setQueue q { x with fetch := (x.fetch + 1) % 2 ^ w.get Reg.QCFG_SQ_LOG2 q, seq := (x.seq + 1) % 2 ^ 32
                                           entries := x.entries ++ [h] }
            Work.startEntries (w.unstarted + 1) w

/-! ## Entries that act (R318 to R322, R329) -/

/-- Write the substituted handle into the fetched copy of a descriptor (R329). -/
def HEntry.subst (h : HEntry) (b : Bytes) : Bytes :=
  match h.handle with
  | none => b
  | some v =>
    let off := if h.opcode = 3 then 0 else 4
    b.take off ++ (leBytes 4 v).take (b.length - off) ++ b.drop (off + 4)

/-- A started entry of one opcode whose payload has been read (R319, R323): from the partition's buffer allotment, or the host's
memory, where a read that failed twice ends the entry with detail code 2. -/
def Work.hostEntry (w : Work) (q e opcode : Nat) (payload : Option Bytes) (act : Work → HEntry → Nat → Bytes → Work) : Work :=
  match (w.queueOf q).entryOf e, w.queuePart q with
  | some h, some p =>
    if !h.started ∨ h.arrived ∨ h.opcode ≠ opcode then w
    else if bitOf h.sflags 2 ∨ h.payLen = 0 then act w h p (h.subst (w.bytes h.payAddr h.payLen))
    else if !w.n.bo.busMaster then w
    else match payload with
      | none => (w.readsFailed 2).2.completeEntry q e stInternal 0 2
      | some b => if b.length ≠ h.payLen then w else act (w.hostFetch (partFn p) (some p) h.payAddr b.length) h p (h.subst b)
  | _, _ => w

/-- An entry that fails a check once its payload is known (R323). -/
def Work.entryFails (w : Work) (q e detail : Nat) : Work := w.completeEntry q e stInternal 0 detail

/-- `HOST_SESSION` (R318, R319, R329): the session or prefix operation that the descriptor names. -/
def execHostSession (q entry : Nat) (payload : Option Bytes) (s : State) : Host.Outcome State Fault Refusal :=
  run s fun w => w.hostEntry q entry 1 payload fun w _ _ b =>
    let src := Src.queue q entry
    match fieldAt b 0 1 with
    | 1 => w.openOp src b
    | 2 => w.forkOp src b
    | 3 => w.closeOp src b
    | 0x10 => w.prefixRequest .match_ src b
    | 0x11 => w.prefixRequest .publish src b
    | 0x12 => w.prefixRequest .retract src b
    | 0x13 => w.prefixRequest .pin src b
    | 0x14 => w.prefixRequest .unpin src b
    | _ => w.entryFails q entry 0

/-- `HOST_ATTEND` (R33, R319, R325): a query from a queue; its result buffer must hold the largest record. -/
def execHostAttend (q entry : Nat) (payload : Option Bytes) (at_ : Nat) (s : State) : Host.Outcome State Fault Refusal :=
  run s fun w => w.hostEntry q entry 2 payload fun w h p b =>
    let d := QDesc.read b
    let need := match w.queryShape p d with
      | some sh => partialLen d.heads sh.channels d.fp8 + 16
      | none => 0
    if d.dest = 0xFFFF ∧ h.resLen < need then w.entryFails q entry 5
    else w.attend (.queue q entry) p b (w.sheetOffNs + (at_ : Rat) / 1000)

/-- `HOST_APPEND` (R109, R319): rows from a queue. -/
def execHostAppend (q entry : Nat) (payload : Option Bytes) (at_ : Nat) (s : State) : Host.Outcome State Fault Refusal :=
  run s fun w => w.hostEntry q entry 3 payload fun w _ p b => w.takeAppend (.queue q entry) p b at_

/-- `HOST_CONN` (R270): a connection-control descriptor. -/
def execHostConn (q entry : Nat) (payload : Option Bytes) (s : State) : Host.Outcome State Fault Refusal :=
  run s fun w => w.hostEntry q entry 4 payload fun w _ _ b =>
    let src := Src.queue q entry
    match fieldAt b 0 1 with
    | 1 => w.installOp src b
    | 2 => w.rekeyOp src b
    | 3 => w.removeOp src b
    | _ => w.entryFails q entry 0

/-- `HOST_REGION` (R295): a region-control descriptor. -/
def execHostRegion (q entry : Nat) (payload : Option Bytes) (s : State) : Host.Outcome State Fault Refusal :=
  run s fun w => w.hostEntry q entry 5 payload fun w _ _ b =>
    let src := Src.queue q entry
    match fieldAt b 0 1 with
    | 0x10 => w.createOp src b
    | 0x11 => w.control src fun w p => w.regionDrain src p b false
    | 0x12 => w.control src fun w p => w.regionDrain src p b true
    | _ => w.entryFails q entry 0

/-- The body of an Askius message in wire form, from its memory form (R18, R19, R318). -/
def msgWire (op target : Nat) (b : Bytes) : Bytes :=
  if op = 3 then
    if target % 256 = 2 then
      swapFields noticeFields (b.take 64) ++ swapFields ((List.replicate ((b.length - 64) / 16) entryFields).flatten) (b.drop 64)
    else if target % 256 ≠ 0 then b
    else if fieldAt b 0 1 < 0x10 then swapFields sessionFields b
    else
      let n := b.length / 72
      swapFields prefixFields (b.take 64) ++ swapFields ((List.replicate n blockFields).flatten) (b.drop 64)
  else if op = 4 then
    let d := QDesc.read b
    let list := if d.collect then alignUp (2 * d.expect) 4 else 0
    let pay := b.drop 64
    let cut := pay.length - list
    swapFields queryFields (b.take 64) ++ (if d.qbf16 then swapAll 2 (pay.take cut) else pay.take cut) ++ swapAll 2 (pay.drop cut)
  else if op = 6 then
    let rows := b.drop 32
    swapFields appendFields (b.take 32) ++ (if bitOf (fieldAt b 5 1) 0 then rows else swapAll 2 rows)
  else if op = 8 then swapFields [4, 4, 8, 4, 4, 8] b
  else if op = 9 then swapFields [1, 1, 2, 4, 8] b
  else b

/-- `MSG` (R320): one Askius message on a connection of the partition; the entry completes when the message does (R285). A payload from
host memory waits until the receive extents have room for it (DESIGN CHOICE, log 138: the spec names no refusal). -/
def execHostMsg (q entry : Nat) (payload : Option Bytes) (s : State) : Host.Outcome State Fault Refusal :=
  run s fun w => w.hostEntry q entry 6 payload fun w h p b =>
    match w.connOf h.conn with
    | none => w.entryFails q entry 0
    | some c =>
      if c.part ≠ p then w.entryFails q entry 4
      else if h.msgOp = 2 ∧ h.resLen < fieldAt b 0 4 then w.entryFails q entry 5
      else
        let copied := if bitOf h.sflags 2 then 0 else b.length
        if w.rxFree < copied then w
        else match w.sendMsg h.conn h.msgOp h.target (msgWire h.msgOp h.target b) (.hostMsg q entry) with
          | (none, _) => w.entryFails q entry 0
          | (some k, v) => (v.modOut k fun m => { m with extent := copied }).arrive (.queue q entry)

/-- `COPY` (R321): bytes between host memory and the partition's buffer allotment, charged to the session-write share; it waits while
that has no room (DESIGN CHOICE, log 138: the spec names no refusal). -/
def execHostCopy (q entry : Nat) (payload : Option Bytes) (s : State) : Host.Outcome State Fault Refusal :=
  run s fun w => w.hostEntry q entry 7 payload fun w h _ b =>
    match w.chargePool b.length with
    | some w => (w.resultStore q h b).completeEntry q entry stOK b.length 0
    | none => w

/-- `RECV` (R322): a receive buffer is posted; a queue holds at most 256. -/
def execHostRecv (q entry : Nat) (s : State) : Host.Outcome State Fault Refusal :=
  run s fun w => w.hostEntry q entry 8 none fun w h _ _ =>
    let x := w.queueOf q
    if 256 ≤ x.recvs.length then w
    else if h.suppressed then w.setQueue q { x with entries := x.entries.filter (·.idx != entry) }
    else
      let w := w.setQueue q { x with entries := x.entries.filter (·.idx != entry), recvs := x.recvs ++ [h] }
      Work.startEntries (w.unstarted + 1) w

/-- `NOP` (R318): completes OK. -/
def execHostNop (q entry : Nat) (s : State) : Host.Outcome State Fault Refusal :=
  run s fun w => w.hostEntry q entry 9 none fun w _ _ _ => w.completeEntry q entry stOK 0 0

/-- `WAIT_TICKS_EXPIRED` (R327): an entry that has waited WAIT_TICKS whole ticks without starting completes INTERNAL with detail
code 3, once the CQ has a slot for it. -/
def execWaitTicksExpired (q entry : Nat) (s : State) : Host.Outcome State Fault Refusal :=
  run s fun w =>
    let x := w.queueOf q
    match x.entryOf entry with
    | none => w
    | some h =>
      if h.started ∨ h.waitTicks = 0 ∨ ticksTo h.fetchTick w.now ≤ h.waitTicks ∨ 2 ^ w.get Reg.QCFG_CQ_LOG2 q ≤ x.reserved then w
      else (w.count Reg.QUE_WAIT_EXPIRED).entryFails q entry 3

/-- `COAL_NS_EXPIRED` (R331): COAL_NS after the first unsignalled completion entry, the vector is signalled. -/
def execCoalNsExpired (q : Nat) (s : State) : Host.Outcome State Fault Refusal :=
  run s fun w =>
    if w.flag Reg.QCFG_IRQ_EN q ∧ w.get Reg.QCFG_COAL_NS q ≠ 0 ∧ (w.queueOf q).unsignalled ≠ 0 then w.queueSignal q else w

/-! ## Functions (R306, R332, R333) -/

/-- Reset a function's own part (R332): its queues, its BAR4 base and its MSI-X table. -/
def Work.resetFunction (w : Work) (fn : Nat) (mine : Nat → Bool) : Work :=
  let w := w.n.hq.queues.foldl (fun w e => if mine e.1 then w.setQueue e.1 e.2.reset else w) w
  let w := (w.set Reg.PCI_BASE_LO 0 0 fn).set Reg.PCI_BASE_HI 0 0 fn
  { w with n.hq.msix := eraseN fn w.n.hq.msix }

/-- A configuration request (R446): none arrives while the link is down, and until firmware runs each is answered with Configuration Request
Retry Status and changes nothing. -/
def Work.configRequest (w : Work) (act : Work → Work) : Work :=
  if !w.flag Reg.PCI_UP then w else if w.flag Reg.GLB_FW_RUNNING then act w else w.emit .configRetry

/-- `FLR` (R332): a virtual function resets its partition's queues; the physical function every queue, and VF Enable is cleared. -/
def execFunctionReset (fn : Fn) (s : State) : Host.Outcome State Fault Refusal :=
  run s fun w => w.configRequest fun w =>
    match fn with
    | .vf p => w.resetFunction p fun q => w.queuePart q = some p
    | .pf =>
      -- the virtual functions vanish with VF Enable, and lose their own parts
      let gone := (List.range w.n.bo.vfEnabled).map (· + 1)
      let w := gone.foldl (fun w p => w.resetFunction p fun _ => false) (w.resetFunction 0 fun _ => true)
      { (w.set Reg.PCI_VFS 0) with n.bo.vfEnabled := 0 }

/-- What was held back while Bus Master Enable was 0 goes out, oldest first (R333). -/
def Work.flushHeld (w : Work) : Work :=
  let held := w.n.hq.heldOut
  held.foldl (fun w (o : HostOut) => match o with
    | .write fn relaxed a bs => w.hostStore fn a bs relaxed
    | .msix fn v => w.msixSend fn v) { w with n.hq.heldOut := [] }

/-- `BUS_MASTER_ENABLE_CHANGE` (R333): while it is 0 the node initiates no PCIe request. -/
def execBusMasterEnableChange (on : Bool) (s : State) : Host.Outcome State Fault Refusal :=
  run s fun w => w.configRequest fun w =>
    let w := { (w.setFlag Reg.PCI_BME on) with n.bo.busMaster := on }
    if on then w.flushHeld else w

/-! ## BAR4 (R310) -/

/-- The central-store address of a BAR4 offset. -/
def Work.bar4Addr (w : Work) (fn : Fn) (off : Nat) : Nat :=
  w.get Reg.PCI_BASE_LO 0 (fnNum fn) * 2 ^ 30 + w.get Reg.PCI_BASE_HI 0 (fnNum fn) * 2 ^ 32 + off

/-- A span lies in page slots of a partition's courses in HBM. -/
def Work.inOwnSlots (w : Work) (p a len : Nat) : Bool :=
  w.n.st.courses.any fun e => match e.2.loc with
    | .hbm f => e.2.part = p && frameAddr f ≤ a && a + len ≤ frameAddr f + 2 ^ e.2.k * w.slotBytes p
    | _ => false

/-- A refused BAR4 access: counted, and one event for each function and tick. -/
def Work.bar4Refused (w : Work) (fn : Fn) (a : Nat) : Work :=
  let w := w.count Reg.PCI_BAR4_REFUSED
  let n := fnNum fn
  if n ∈ w.n.hq.bar4Logged then w
  else
    let w := w.report { code := 0x4E06, page := 0x76, part := some n, arg := a, detail := n }
    { w with n.hq.bar4Logged := n :: w.n.hq.bar4Logged }

/-- What a span of HBM reads as: slot areas, the prompt-book ring and the usage statements hold what was written; the rest of the
system area holds the node's own records, whose other bytes are free (log 42). -/
def Work.hbmRead (w : Work) (a len : Nat) : Bytes × Work :=
  let o := a % stackBytes
  let slots := decide (o + len ≤ slotFrames * 4096)
  let ring := decide (ringBase ≤ a ∧ a + len ≤ statementBase + 0x2000000)
  if slots || ring then (w.bytes a len, w)
  else
    let v := w.draw
    ((List.range len).map fun i => (w.sysByte (a + i)).getD (BitVec.ofNat 8 (v.1 / 256 ^ i)), v.2)

/-- Pages of courses in HBM whose slot a span meets: course and page. -/
def Work.pagesMet (w : Work) (a len : Nat) : List (Nat × Nat) :=
  (w.n.st.courses.map fun e => ((List.range e.2.pages.length).filter fun i => match w.pageAddr e.2 i with
    | some b => decide (b < a + len ∧ a < b + w.slotBytes e.2.part)
    | none => false).map fun i => (e.1, i)).flatten

/-- An export through BAR4 checks the CRCs of every page that it meets (R94): those that fail are lost, and the read ends as one that met an
uncorrectable error. -/
def Work.exportCheck (w : Work) (a len : Nat) : Bool × Work :=
  let bad := (w.pagesMet a len).filter fun x => match w.course x.1 with
    | some c => (w.badPages c).contains x.2
    | none => false
  (bad.isEmpty, bad.foldl (fun w x => w.crcLoss x.1 x.2) w)

/-- BAR4 traffic uses the bulk share, below every other use of it (R310, R71): what it takes is no longer lent (log 136). -/
def Work.bulkUsed (w : Work) (len : Nat) : Work := { w with n.ks.lendable := w.n.ks.lendable - len }

/-- `BAR4_READ` (R310): the physical function reads any HBM address, a virtual function its partition's buffer allotment and its
courses' page slots; a refused read returns zeros, and an uncorrectable error or a page whose CRC fails (R94) a Completer Abort. -/
def execBar4Read (fn : Fn) (off len : Nat) (uncorrectable : Bool) (s : State) : Host.Outcome State Fault Refusal :=
  run s fun w =>
    let a := w.bar4Addr fn off
    let p := fnNum fn
    if 2 ^ 30 < off + len then w
    else if !w.fnExists fn then w.emit (.barData p none)
    else
      let ok := match fn with
        | .pf => inHbm a && inHbm (a + len - 1)
        | .vf _ => w.live p && (w.inAllotment p a len || w.inOwnSlots p a len)
      if !ok then (w.bar4Refused fn a).emit (.barData p (some (List.replicate len 0)))
      else if uncorrectable then (w.bulkUsed len).emit (.barData p none)
      else
        let c := (w.bulkUsed len).exportCheck a len
        if !c.1 then c.2.emit (.barData p none)
        else
          let r := c.2.hbmRead a len
          r.2.emit (.barData p (some r.1))

/-- `BAR4_WRITE` (R310): only into the buffer allotment of the function's partition; a refused write is dropped. -/
def execBar4Write (fn : Fn) (off : Nat) (bytes : Bytes) (s : State) : Host.Outcome State Fault Refusal :=
  run s fun w =>
    let a := w.bar4Addr fn off
    let p := fnNum fn
    if 2 ^ 30 < off + bytes.length ∨ !w.fnExists fn then w
    else if w.live p ∧ w.inAllotment p a bytes.length then (w.bulkUsed bytes.length).store a bytes
    else w.bar4Refused fn a

end Sys2Proof.Machine
end

