-- ==== Sys2Proof/Machine/BoxOffice.lean ====
section
/-!
DEFINITION. Sys2Proof/Machine/BoxOffice.lean: the box office (R478 to R483): counters charged by time, usage statements, the final
statement of a strike. Commands USAGE_SAMPLE, USAGE_STATEMENT_CLOSE.
-/

namespace Sys2Proof.Machine

open Sys2Proof.Crypto (sha3 ascii bytes32)

/-- Sign under the device identity key (R359, R370, R480): 2,420 bytes, free beyond what verification says of them (log 43). -/
def Work.sign (w : Work) (msg ctx : Bytes) : Bytes × Work :=
  (((Config.dikSign w.n.fresh msg ctx) ++ List.replicate 2420 0).take 2420, { w with n.fresh := w.n.fresh + 1 })

/-- The box office of a partition from its CREATE (R478, R480): counters zero, statements numbered from 0. -/
def Work.openMeter (w : Work) (p : Nat) : Work :=
  let m : Meter16 := { part := p, cnt := List.replicate 16 0, prev := List.replicate 16 0, number := 0, from_ := w.now, digest := 0
                       kept := [], final := none, fenced := false }
  { w with n.mt.meters := (w.n.mt.meters.filter fun x => x.part != p) ++ [m] }

/-- Change a partition's box office. -/
def Work.modMeter (w : Work) (p : Nat) (f : Meter16 → Meter16) : Work :=
  { w with n.mt.meters := w.n.mt.meters.map fun m => if m.part = p then f m else m }

/-- Add to counter `i`. -/
def Meter16.gain (m : Meter16) (i by_ : Nat) : Meter16 := { m with cnt := m.cnt.set i ((atD m.cnt i 0 + by_) % 2 ^ 64) }

/-- Charge a tier's bytes held for `n` ticks to counter `i` (R479): KiB-ticks, with what is less than one carried on. -/
def Meter16.held (m : Meter16) (i rest bytes n : Nat) : Nat × Meter16 :=
  let b := rest + bytes * n
  (b % 1024, m.gain i (b / 1024))

/-- `USAGE_SAMPLE` (R479): at a tick that MTR_SAMPLE divides, the holdings of every partition are charged for the interval: the frames of its
courses, its stored bytes, its sessions. -/
def execUsageSample (s : State) : Host.Outcome State Fault Refusal :=
  run s fun w =>
    let n := w.get Reg.MTR_SAMPLE
    if !w.flag Reg.MTR_EN ∨ w.now.toNat % n ≠ 0 ∨ w.n.mt.lastSample = some w.now then w
    else
      let charge := fun (m : Meter16) =>
        let p := m.part
        let open_ := (w.n.pg.sessions.filter fun e => e.2.part = p).length
        let d := (m.gain 7 (w.hbmHeld p * n)).held 8 m.ddrRest (w.tierUsed p Loc.ddrBytes) n
        let h := d.2.held 9 m.hostRest (w.tierUsed p Loc.hostBytes) n
        { h.2.gain 10 (open_ * n) with ddrRest := d.1, hostRest := h.1 }
      { w with n.mt.meters := w.n.mt.meters.map fun m => if (m.final).isNone then charge m else m
               n.mt.lastSample := some w.now }

/-- The bytes of a usage statement before its signature (R480). -/
def Work.statementBody (w : Work) (m : Meter16) (final : Option Nat) : Bytes :=
  let deltas := (List.range 16).map fun i => leBytes 8 ((atD m.cnt i 0 + 2 ^ 64 - atD m.prev i 0) % 2 ^ 64)
  leBytes 4 0x54534255 ++ leBytes 2 1 ++ leBytes 1 m.part ++ leBytes 1 (if final.isSome then 1 else 0) ++ leBytes 4 m.number ++
  leBytes 4 (final.getD 0) ++ leBytes 16 Config.deviceId.toNat ++ leBytes 2 w.nodeId ++ leBytes 2 0 ++
  leBytes 4 (w.get Reg.MTR_SAMPLE) ++ leBytes 8 m.from_.toNat ++ leBytes 8 w.now.toNat ++ bytes32 m.digest ++ leBytes 8 0 ++
  deltas.flatten

/-- Close a statement of a partition (R480, R482): signed, numbered, chained by digest, kept in its slot; `final` is the STRIKE_ID of
the statement that a strike closes. Answers the first 8 bytes of its digest. -/
def Work.closeStatement (w : Work) (p : Nat) (final : Option Nat) : Bytes × Work :=
  match w.n.mt.meters.find? fun m => m.part = p with
  | none => (List.replicate 8 0, w)
  | some m =>
    let body := w.statementBody m final
    let s := w.sign body (ascii "KZ8640 usage")
    let bs := body ++ s.1
    let keep := w.get Reg.MTR_KEEP
    -- a partition has sixteen slots, the most that MTR_KEEP keeps
    let d := sha3 bs
    let w := s.2.store (statementBase + (p * 16 + m.number % 16) * 4096) bs
    let w := w.modMeter p fun m =>
      { m with prev := m.cnt, number := m.number + 1, from_ := w.now, digest := BitVec.ofNat 256 (leVal d)
               kept := (m.kept ++ [(m.number, bs)]).filter fun e => m.number < e.1 + keep
               final := if final.isSome then some (m.number, bs) else m.final }
    (d.take 8, w.count Reg.MTR_CLOSED)

/-- `USAGE_STATEMENT_CLOSE` (R480, R482): at a boundary that the period in force divides, a statement is closed for each Live
partition; a change of period takes effect after it. -/
def execUsageStatementClose (s : State) : Host.Outcome State Fault Refusal :=
  run s fun w =>
    if !w.flag Reg.MTR_EN ∨ w.now.toNat % w.n.mt.period ≠ 0 ∨ w.n.mt.lastClose = some w.now then w
    else
      let parts := (w.n.mt.meters.filter fun m => w.live m.part && !m.fenced && (m.final).isNone).map (·.part)
      let w := parts.foldl (fun w p => (w.closeStatement p none).2) w
      { w with n.mt.period := w.get Reg.MTR_PERIOD, n.mt.lastClose := some w.now }

end Sys2Proof.Machine
end

