-- ==== Sys2Proof/Machine/Frames.lean ====
section
/-!
DEFINITION. Sys2Proof/Machine/Frames.lean: management frames (R466 to R471): their header, encryption, replay rule, class bits and
responses.
-/

namespace Sys2Proof.Machine

open Sys2Proof.Crypto (beBytes gcmSeal gcmOpen)

/-- A request that has passed R467 to R469, with what its response needs. -/
structure MgReq where
  port : Nat
  mac : Nat
  type : Nat
  flags : Nat
  seq : Nat
  offset : Nat
  body : Bytes
  clear : Bool
  key : BitVec 256
  epoch : Nat
  deriving DecidableEq, Repr

/-- The 96-bit nonce of R467: requester MAC, direction (1 for a response), port, SEQ. -/
def mgNonce (mac dir port seq : Nat) : Bytes := beBytes 6 mac ++ beBytes 1 dir ++ beBytes 1 port ++ beBytes 4 seq

/-- Send what a port sends to a requester. -/
def Work.mgSend (w : Work) (port mac : Nat) (payload : Bytes) : Work :=
  (w.count Reg.MG_TX_FRAMES 1 port).emit (.mgmt port mac payload)

/-- Respond to a request (R466, R467, R469, R471): the response is kept with the requester's SEQ. -/
def Work.mgRespond (w : Work) (r : MgReq) (status : Nat) (body : Bytes) : Work :=
  let hdr := leBytes 1 1 ++ leBytes 1 r.type ++ leBytes 1 (if r.clear then 3 else 1) ++ leBytes 1 status ++ leBytes 4 r.seq ++
    leBytes 2 w.nodeId ++ leBytes 2 body.length ++ leBytes 4 r.offset ++ leBytes 8 w.now.toNat ++ leBytes 2 r.epoch ++ leBytes 6 0
  let sealed := gcmSeal r.key (mgNonce r.mac 1 r.port r.seq) hdr body
  let payload := if r.clear then hdr ++ body else hdr ++ sealed.1 ++ sealed.2
  let keep := fun q : Requester => if q.port = r.port ∧ q.mac = r.mac ∧ q.seq = r.seq then { q with resp := payload } else q
  let w := { w with n.mt.requesters := w.n.mt.requesters.map keep }
  (if status = 0 then w else w.count Reg.MG_REFUSED 1 r.port).mgSend r.port r.mac payload

/-- The replay rule and the class bit (R469, R470): sixteen requesters of a port are tracked, the latest heard first. -/
def Work.mgTake (w : Work) (r : MgReq) (cls : Fld) (act : Work → MgReq → Work) : Work :=
  let mine := fun q : Requester => decide (q.port = r.port) && decide (q.mac = r.mac)
  let fresh := fun (w : Work) =>
    let others := w.n.mt.requesters.filter fun q => !mine q
    let here := others.filter fun q => q.port = r.port
    let there := others.filter fun q => q.port != r.port
    let w := { w with n.mt.requesters := { port := r.port, mac := r.mac, seq := r.seq, resp := [] } :: (here.take 15 ++ there) }
    if w.flag cls r.port then act w r else w.mgRespond r stInternal []
  match w.n.mt.requesters.find? mine with
  | none => fresh w
  | some q =>
    if r.seq < q.seq then w.count Reg.MG_REPLAYS 1 r.port
    else if r.seq = q.seq then (if q.resp.isEmpty then w else w.mgSend r.port r.mac q.resp)
    else fresh w

/-- The frame is as R466 sets out: its length agrees with LEN, and its fixed and reserved fields hold what a request has. -/
def frameOk (p : Bytes) : Bool :=
  let flags := fieldAt p 2 1
  let len := fieldAt p 0xA 2
  decide (32 ≤ p.length) && decide (p.length = 32 + len + (if bitOf flags 1 then 0 else 16)) && decide (len ≤ 1452) &&
    decide (fieldAt p 0 1 = 1) && !bitOf flags 0 && decide (flags < 8) && decide (fieldAt p 3 1 = 0) &&
    decide (fieldAt p 0x10 8 = 0) && decide (fieldAt p 0x1A 6 = 0)

/-- The order codes of R470. -/
def orderTypes : List Nat :=
  [1, 2, 3, 0x10, 0x11, 0x12, 0x13, 0x14, 0x15, 0x16, 0x17, 0x18, 0x20, 0x21, 0x22, 0x23, 0x24, 0x25, 0x30, 0x31, 0x32]

/-- A management frame of an order (R466 to R470), with the class bit it needs. Before the first MK, and in recovery mode, only the
port that MGT_SEL names takes clear frames, of the orders that R468 and R474 allow; afterwards no frame is clear. A frame of another order's
TYPE is not this order's. One of a TYPE that R470 does not list, or too short to hold one, passes the same tests and counts, whichever
order's command brings it; if it passes them all it is answered INTERNAL, as a field out of range is (DEDUCED, log 149). -/
def Work.mgOrder (w : Work) (f : Frame) (type : Nat) (cls : Fld) (act : Work → MgReq → Work) : Work :=
  let p := f.payload
  let here := fieldAt p 1 1
  if 2 ≤ f.port ∨ !(w.flag Reg.MG_LINK_UP f.port && w.flag Reg.MG_EN f.port) ∨ (here ≠ type ∧ here ∈ orderTypes) then w
  else
    let act := if here = type then act else fun w r => w.mgRespond r stInternal []
    let w := w.count Reg.MG_RX_FRAMES 1 f.port
    if !frameOk p then w.count Reg.MG_BAD_FRAMES 1 f.port
    else
      let clear := bitOf (fieldAt p 2 1) 1
      let nid := fieldAt p 8 2
      let mine := nid = w.nodeId ∨ (nid = 0xFFFF ∧ !w.flag Reg.GLB_IDS_LOCKED)
      let epoch := w.get Reg.MG_MK_EPOCH f.port
      let bad := w.count Reg.MG_AUTH_FAIL 1 f.port
      let body := (p.drop 32).take (fieldAt p 0xA 2)
      let req : MgReq := { port := f.port, mac := f.mac, type := here, flags := fieldAt p 2 1, seq := fieldAt p 4 4
                           offset := fieldAt p 0xC 4, body := body, clear := clear, key := 0, epoch := epoch }
      match w.n.mt.key with
      | none =>
        let allowed := here = 1 ∨ here = (if w.n.bo.recovery then 0x30 else 2)
        if !clear ∨ ¬allowed ∨ f.port ≠ w.get Reg.GLB_MGT_SEL then w
        else if ¬mine ∨ fieldAt p 0x18 2 ≠ epoch then bad
        else w.mgTake req cls act
      | some k =>
        if clear ∨ ¬mine ∨ fieldAt p 0x18 2 ≠ epoch then bad
        else match gcmOpen k (mgNonce f.mac 0 f.port req.seq) (p.take 32) body (p.drop (32 + body.length)) with
          | none => bad
          | some pt => w.mgTake { req with body := pt, key := k } cls act

end Sys2Proof.Machine
end

