-- ==== Sys2Proof/Machine/Security.lean ====
section
/-!
DEFINITION. Sys2Proof/Machine/Security.lean: keys (R359), the fused SVN (R367), measurements (R368), attestation (R370) and the
creation of partitions (R354 to R358). Commands CREATE, INSTALL_KEY, FKEK_WRITE, FKEK_LOCK, SVN_COMMIT, EXT_GO, ATT_GO,
ATTEST_REPORT_WRITTEN.
-/

namespace Sys2Proof.Machine

open Sys2Proof.Crypto (sha3 ascii bytes32 kcv keyUnwrap)

/-! ## Partitions -/

/-- The state of a partition changes (R357); its entry is made when there is none. -/
def Work.setPart (w : Work) (p code : Nat) (f : Part → Part) : Work :=
  let w := (if p = 0 then w else w.set Reg.PP_STATE code p).setReady (0x100 + p) (p = 0 || code = 1)
  let blank : Part := { id := p, state := .free, created := false, createTick := 0, key := none, allotTop := none, allotLen := 0
                        strikes := 0, strike := none, record := List.replicate 64 0 }
  let st : PState := match code with | 0 => .free | 1 => .live | 2 => .striking | _ => .scrubbing
  let q := f { (w.secPart p).getD blank with state := st }
  let others := w.n.se.parts.filter fun x => x.id != p
  { w with n.se.parts := others ++ [q] }

/-- The result of a PART command (R313, R358): READY falls and rises again, which raises the PART page's CMD bit. -/
def Work.partAnswer (w : Work) (status detail seq : Nat) : Work :=
  let w := w.set Reg.PART_STATUS status
  let w := w.set Reg.PART_DETAIL detail
  let w := w.set Reg.PART_SEQ_108 seq
  (w.set Reg.PART_READY 1).isr 0x75 16

/-- A PART command of one operation: the partition and its SEQ. -/
def Work.partCommand (w : Work) (wr : RegWr) (op : Nat) (act : Work → Nat → Nat → Work) : Work :=
  if w.addresses wr .PART [0x104] ∧ w.merged wr 0 0 Reg.PART_OP ≠ op then w
  else w.regAction wr .PART [0x104] fun w inst idx =>
    act w (w.merged wr inst idx Reg.PART_PART) (w.merged wr inst idx Reg.PART_SEQ_104)

/-- The lowest run of free top blocks of a stack that holds an allotment (R356): its first node frame. -/
def Work.allotRun (w : Work) (stack units : Nat) : Option Nat :=
  let used := w.usedSpans
  let lo := stack * slotFrames
  let len := units * 1024
  let starts := 0 :: used.map fun u => alignUp (u.1 + u.2 - lo) 1024
  let free := starts.filter fun o => o + len ≤ slotFrames && spanFree used (lo + o) len
  match free with
  | [] => none
  | o :: os => some (lo + os.foldl min o)

/-- The ranges, the cluster share and the subscribers named for a partition pass their own blocks' rules (R358 check 4: R304, R309, R336,
R349). -/
def Work.sharesOk (w : Work) (p : Nat) : Bool :=
  let lo := w.get Reg.SCH_MIN 0 p
  !w.rangeClash p (w.get Reg.QUE_BASE 0 p) (w.get Reg.QUE_COUNT 0 p) Reg.QUE_BASE Reg.QUE_COUNT &&
    !w.rangeClash p (w.get Reg.CNX_BASE 0 p) (w.get Reg.CNX_COUNT 0 p) Reg.CNX_BASE Reg.CNX_COUNT &&
    decide (w.get Reg.QUE_BASE 0 p + w.get Reg.QUE_COUNT 0 p ≤ 4096 ∧ w.get Reg.CNX_BASE 0 p + w.get Reg.CNX_COUNT 0 p ≤ 2 ^ 20) &&
    decide (lo ≤ w.get Reg.SCH_MAX 0 p ∧ ((List.range 64).map fun q => w.get Reg.SCH_MIN 0 q).foldl (· + ·) 0 ≤ 1024)

/-- `CREATE` (R354 to R358, R78): the checks in order; the allotment is taken, the watermarks set, the counters opened. -/
def execPartCreate (wr : RegWr) (s : State) : Host.Outcome State Fault Refusal :=
  run s fun w => w.partCommand wr 1 fun w p seq =>
    let queues := (List.range (w.get Reg.QUE_COUNT 0 p)).map (w.get Reg.QUE_BASE 0 p + ·)
    let free := if p = 0 then !((w.secPart 0).map (·.created)).getD false else w.partState p = 0 && queues.all w.queueIdle
    let units := w.get Reg.PP_ALLOT_MIB p
    let stack := w.get Reg.PP_ALLOT_STACK p
    let quota := fun t => w.get (if t = 0 then Reg.PP_HBM_QUOTA else if t = 1 then Reg.PP_DDR_QUOTA else Reg.PP_HOST_QUOTA) p
    if 2 ≤ w.partState p then w.partAnswer stStruck 0 seq
    else if !free then w.partAnswer stInternal 1 seq
    else if !w.quotasFit p (quota 0) (quota 1) (quota 2) then w.partAnswer stOverBudget 2 seq
    else if units < 1 ∨ 1024 < units ∨ !w.servingStacks.contains stack then w.partAnswer stOverBudget 3 seq
    else match w.allotRun stack units with
      | none => w.partAnswer stOverBudget 3 seq
      | some top =>
        if !w.sharesOk p then w.partAnswer stInternal 4 seq
        else
          let w := w.setPart p 1 fun q =>
            { q with created := true, createTick := BitVec.ofNat 32 w.now32, key := if p = 0 then q.key else none, allotTop := some top, allotLen := units * 2 ^ 22 }
          let base := frameAddr top
          let w := (w.set Reg.PP_ALLOT_BASE_LO base p).set Reg.PP_ALLOT_BASE_HI (base / 2 ^ 32) p
          -- partition 0 has been Live from reset: its CREATE applies quotas and allotment and keeps a key installed before (R357)
          let w := if p = 0 then w else w.set Reg.PP_KEY_SET 0 p
          let w := (List.range 3).foldl (fun w t =>
            (w.set Reg.SPL_LOW (quota t / 32) 0 (p + 64 * t)).set Reg.SPL_TARGET (quota t / 16) 0 (p + 64 * t)) w
          ((w.openMeter p).extendFree 4).partAnswer stOK 0 seq

/-! ## Keys -/

/-- The 32-bit words of consecutive registers, little-endian bytes in order. -/
def Work.words (w : Work) (fs : List Fld) (inst : Nat := 0) : Bytes := (fs.map fun f => leBytes 4 (w.get f inst)).flatten

/-- Write-only registers read as zero once used. -/
def Work.clearWords (w : Work) (fs : List Fld) (inst : Nat := 0) : Work := fs.foldl (fun w f => w.set f 0 inst) w

/-- PK_WRAP0 to PK_WRAP9 and FKEK0 to FKEK7. -/
def wrapFlds : List Fld := [Reg.PP_PK_WRAP0, Reg.PP_PK_WRAP1, Reg.PP_PK_WRAP2, Reg.PP_PK_WRAP3, Reg.PP_PK_WRAP4, Reg.PP_PK_WRAP5,
  Reg.PP_PK_WRAP6, Reg.PP_PK_WRAP7, Reg.PP_PK_WRAP8, Reg.PP_PK_WRAP9]
def fkekFlds : List Fld := [Reg.SEC_FKEK0, Reg.SEC_FKEK1, Reg.SEC_FKEK2, Reg.SEC_FKEK3, Reg.SEC_FKEK4, Reg.SEC_FKEK5,
  Reg.SEC_FKEK6, Reg.SEC_FKEK7]

/-- `INSTALL_KEY` (R357 to R359): the wrapped key of the partition's page is unwrapped under the FKEK and installed, or refused. -/
def execInstallKey (wr : RegWr) (s : State) : Host.Outcome State Fault Refusal :=
  run s fun w => w.partCommand wr 3 fun w p seq =>
    if 2 ≤ w.partState p then w.partAnswer stStruck 0 seq
    else match w.partState p, w.n.se.fkek with
      | 1, some fkek =>
        let wrapped := w.words wrapFlds p
        let w := w.clearWords wrapFlds p
        match keyUnwrap fkek wrapped with
        | none => (w.unwrapFailed p 0).partAnswer stAuthFail 0 seq
        | some k =>
          let w := w.setPart p 1 fun q => { q with key := some k }
          let v := leVal (kcv k)
          let w := (w.set Reg.PP_PK_KCV_LO v p).set Reg.PP_PK_KCV_HI (v / 2 ^ 32) p
          ((w.set Reg.PP_KEY_SET 1 p).extendFree 4).partAnswer stOK 0 seq
      | _, _ => w.partAnswer stInternal 0 seq

/-- `FKEK_WRITE` (R359, R369): one word of the FKEK; the key takes effect when the last word is written. -/
def execFkekWrite (wr : RegWr) (s : State) : Host.Outcome State Fault Refusal :=
  run s fun w =>
    let last := w.addresses wr .SEC [0x12C]
    w.regAction wr .SEC [0x110, 0x114, 0x118, 0x11C, 0x120, 0x124, 0x128, 0x12C] fun w _ _ =>
      if !last ∨ wr.be = 0 then w
      else
        let k := BitVec.ofNat 256 (leVal (w.words fkekFlds))
        let v := leVal (kcv k)
        let w := (w.clearWords fkekFlds).set Reg.SEC_FKEK_SET 1
        let w := (w.set Reg.SEC_FKEK_KCV_LO v).set Reg.SEC_FKEK_KCV_HI (v / 2 ^ 32)
        let w := w.log { code := 0x4E02, page := 8, detail := v % 2 ^ 32 }
        ({ w with n.se.fkek := some k }).extendFree 4

/-- A write of SEC_CTRL (R359, R367): FKEK_LOCK holds until reset; SVN_COMMIT raises the fused SVN to the running image's. -/
def Work.secCtrl (w : Work) (wr : RegWr) : Work :=
  w.regAction wr .SEC [0x104] fun w _ _ =>
    let w := if wrote1 wr Reg.SEC_FKEK_LOCK then w.set Reg.SEC_FKEK_LOCK 1 else w
    if wrote1 wr Reg.SEC_SVN_COMMIT then
      let v := max w.svn (w.get Reg.SEC_SVN_IMAGE)
      ({ w with svn := v }).log { code := 0x4E05, page := 8, detail := v }
    else w

/-- `FKEK_LOCK` (R359). -/
def execFkekLock (wr : RegWr) (s : State) : Host.Outcome State Fault Refusal := run s fun w => w.secCtrl wr

/-- `SVN_COMMIT` (R367): the fused SVN never falls. -/
def execSvnCommit (wr : RegWr) (s : State) : Host.Outcome State Fault Refusal := run s fun w => w.secCtrl wr

/-! ## Measurements and attestation -/

/-- ATT_EXT_DATA0 to 7, ATT_NONCE0 to 7 and the partition page's ATT_NONCE0 to 7. -/
def extFlds : List Fld := [Reg.ATT_EXT_DATA0, Reg.ATT_EXT_DATA1, Reg.ATT_EXT_DATA2, Reg.ATT_EXT_DATA3, Reg.ATT_EXT_DATA4,
  Reg.ATT_EXT_DATA5, Reg.ATT_EXT_DATA6, Reg.ATT_EXT_DATA7]
def attNonce : List Fld := [Reg.ATT_NONCE0, Reg.ATT_NONCE1, Reg.ATT_NONCE2, Reg.ATT_NONCE3, Reg.ATT_NONCE4, Reg.ATT_NONCE5,
  Reg.ATT_NONCE6, Reg.ATT_NONCE7]
def ppNonce : List Fld := [Reg.PP_ATT_NONCE0, Reg.PP_ATT_NONCE1, Reg.PP_ATT_NONCE2, Reg.PP_ATT_NONCE3, Reg.PP_ATT_NONCE4,
  Reg.PP_ATT_NONCE5, Reg.PP_ATT_NONCE6, Reg.PP_ATT_NONCE7]

/-- `EXT_GO` (R368): slot 6 or 7 is extended with the digest in ATT_EXT_DATA. -/
def execExtGo (wr : RegWr) (s : State) : Host.Outcome State Fault Refusal :=
  run s fun w => w.regAction wr .ATT [0x108] fun w _ _ =>
    if wrote1 wr Reg.ATT_EXT_GO then
      w.extendMeas (6 + w.get Reg.ATT_EXT_SLOT) (BitVec.ofNat 256 (leVal (w.words extFlds)))
    else w

/-- A report or certificate is being written, for a function or for a management port (R370, R471). -/
def Work.attRunning (w : Work) : Bool := w.n.se.attBusy.isSome || w.n.mt.reports.any fun r => r.bytes.isNone

/-- A request for a report or certificate (R370): ignored and counted while one is running, FAIL for an address outside the
requester's allotment. -/
def Work.attRequest (w : Work) (r : AttReq) (ready fail : Work → Bool → Work) : Work :=
  if w.attRunning then w.count Reg.ATT_BUSY_REFUSED
  else
    let len := if r.cert then 3764 else if r.scope1 then 2996 else 7028
    let w := ready w false
    if !w.inAllotment (fnNum r.fn) r.addr len then fail (w.nameSpan 9 r.addr len) true
    else { (fail w false) with n.se.attBusy := some r }

/-- `ATT_GO` (R370, R372): the physical function's request, or a function's own through its partition page (written `.vf 0` for
page 0). -/
def execAttGo (wr : RegWr) (s : State) : Host.Outcome State Fault Refusal :=
  run s fun w =>
    if w.addresses wr .ATT [0x188] then
      w.regAction wr .ATT [0x188] fun w _ _ =>
        if !wrote1 wr Reg.ATT_GO then w
        else
          let r : AttReq := { fn := .pf, scope1 := w.flag Reg.ATT_SCOPE, part := w.get Reg.ATT_PART, cert := w.flag Reg.ATT_CERT
                              addr := w.get Reg.ATT_ADDR_LO + w.get Reg.ATT_ADDR_HI * 2 ^ 32, nonce := w.words attNonce }
          w.attRequest r (fun w b => w.setFlag Reg.ATT_READY b) fun w b => w.setFlag Reg.ATT_FAIL b
    else w.regAction wr .PP [0x198] fun w p _ =>
      if !wrote1 wr Reg.PP_ATT_GO then w
      else
        let r : AttReq := { fn := .vf p, scope1 := true, part := p, cert := w.flag Reg.PP_CERT p
                            addr := w.get Reg.PP_ATT_ADDR_LO p + w.get Reg.PP_ATT_ADDR_HI p * 2 ^ 32, nonce := w.words ppNonce p }
        w.attRequest r (fun w b => w.setFlag Reg.PP_ATT_READY b p) fun w b => w.setFlag Reg.PP_ATT_FAIL b p

/-- A partition entry of a report (R370). -/
def Work.partEntry (w : Work) (p : Nat) : Bytes :=
  let q := w.secPart p
  let banks := ((List.range 66).filter fun b => w.get Reg.KEY_TABLE 0 b = 1 && w.get Reg.KEY_OWNER 0 b = p && !w.flag Reg.KEY_SPARE 0 b).length
  leBytes 1 p ++ leBytes 1 (w.partState p) ++ leBytes 1 (w.get Reg.PGM_SLOT_SIZE 0 p + 4 * w.get Reg.PP_KEY_SET p) ++ leBytes 1 banks ++
  leBytes 4 ((q.map fun q : Part => q.createTick.toNat).getD 0) ++
  leBytes 8 (if w.flag Reg.PP_KEY_SET p then w.get Reg.PP_PK_KCV_LO p + w.get Reg.PP_PK_KCV_HI p * 2 ^ 32 else 0) ++
  leBytes 4 (w.get Reg.PP_HBM_QUOTA p) ++ leBytes 4 (w.get Reg.PP_DDR_QUOTA p) ++ leBytes 4 (w.get Reg.PP_HOST_QUOTA p) ++
  leBytes 4 (w.get Reg.PP_ALLOT_MIB p) ++ leBytes 8 (w.get Reg.PP_ALLOT_BASE_LO p + w.get Reg.PP_ALLOT_BASE_HI p * 2 ^ 32) ++
  leBytes 4 (w.get Reg.QUE_BASE 0 p + w.get Reg.QUE_COUNT 0 p * 2 ^ 16) ++
  leBytes 8 (w.get Reg.CNX_BASE 0 p + w.get Reg.CNX_COUNT 0 p * 2 ^ 32) ++
  leBytes 4 (w.get Reg.SCH_MIN 0 p + w.get Reg.SCH_MAX 0 p * 2 ^ 16) ++
  leBytes 4 ((q.map (·.strikes)).getD 0) ++ leBytes 4 0

/-- An attestation report (R370), signed. `fn` is the requesting function. -/
def Work.report370 (w : Work) (fn : Nat) (scope1 : Bool) (part : Nat) (nonce : Bytes) : Bytes × Work :=
  let entries := (List.range 64).map w.partEntry
  let shown := if scope1 then [w.partEntry part] else entries
  let len := 512 + 64 * shown.length + 2420
  let image := (if w.n.bo.running = some 1 then 1 else 0) + 2 * w.get Reg.GLB_FW_FALLBACK + 4 * w.get Reg.SEC_KEY_INDEX
  let body := leBytes 4 0x52415A4B ++ leBytes 2 1 ++ leBytes 1 (if scope1 then 1 else 0) ++ leBytes 1 fn ++ leBytes 4 len ++
    leBytes 4 0 ++ (nonce ++ List.replicate 32 0).take 32 ++ leBytes 8 w.now.toNat ++ leBytes 16 Config.deviceId.toNat ++
    leBytes 2 w.nodeId ++ leBytes 2 0 ++ leBytes 4 (w.get Reg.GLB_FABRIC_ID) ++ sha3 Config.dikPublic ++ leBytes 1 image ++
    leBytes 1 w.svn ++ leBytes 1 (w.get Reg.SEC_SVN_IMAGE) ++ leBytes 1 (w.get Reg.SEC_DEBUG + 4 * w.get Reg.SEC_PROD) ++
    leBytes 1 w.nodeState ++ leBytes 1 (w.get Reg.SEC_REVOKED) ++ leBytes 2 0 ++ bytes32 w.n.se.imgDigestA ++
    bytes32 w.n.se.imgDigestB ++ (w.n.se.meas.map bytes32).flatten ++
    leBytes 8 (w.get Reg.SEC_FKEK_KCV_LO + w.get Reg.SEC_FKEK_KCV_HI * 2 ^ 32) ++ sha3 entries.flatten ++
    leBytes 1 shown.length ++ List.replicate 31 0 ++ shown.flatten
  let s := w.sign body (ascii "KZ8640 attestation")
  (body ++ s.1, s.2.count Reg.ATT_REPORTS)

/-- The device certificate (R370), 3,764 bytes: DEVICE_ID, the DIK public key, the issuer key index and 15 reserved bytes, and the
device-CA's signature over them. -/
def certificate : Bytes :=
  leBytes 16 Config.deviceId.toNat ++ (Config.dikPublic ++ List.replicate 1312 0).take 1312 ++ [Config.issuerKey] ++ List.replicate 15 0 ++
    (Config.caSignature ++ List.replicate 2420 0).take 2420

/-- The bytes of a kept report from an offset, as a response carries them (R473): the total length, then up to 1,408 bytes. -/
def reportPiece (b : Bytes) (off : Nat) : Bytes := leBytes 4 b.length ++ (b.drop off).take 1408

/-- The report that a management port asked for is written: it is kept for the port, and its request answered (R473). -/
def Work.portReport (w : Work) (k : KeptReport) : Work :=
  let d := if k.cert then (certificate, w) else w.report370 0 k.scope1 k.part k.nonce
  let w := d.2
  let w := { w with n.mt.reports := w.n.mt.reports.map fun x : KeptReport => if x = k then { k with ask := none, bytes := some d.1 } else x }
  match k.ask with
  | none => w
  | some a =>
    w.mgRespond { port := k.port, mac := a.mac, type := 0x21, flags := 0, seq := a.seq, offset := 0, body := [], clear := false
                  key := a.key, epoch := a.epoch } stOK (reportPiece d.1 0)

/-- `ATTEST_REPORT_WRITTEN` (R370, R473): the report or certificate stands at its address; then READY is set and GEN counts. One for
a management port is kept for it, and its request is answered. -/
def execAttestReportWritten (s : State) : Host.Outcome State Fault Refusal :=
  run s fun w =>
    match w.n.se.attBusy with
    | none =>
      match w.n.mt.reports.find? fun r => r.bytes.isNone with
      | some k => w.portReport k
      | none => w
    | some r =>
      let d := if r.cert then (certificate, w) else w.report370 (fnNum r.fn) r.scope1 r.part r.nonce
      let w := { (d.2.store r.addr d.1) with n.se.attBusy := none }
      match r.fn with
      | .vf p => ((w.set Reg.PP_ATT_READY 1 p).set Reg.PP_ATT_GEN (w.get Reg.PP_ATT_GEN p + 1) p).isr (0x100 + p) 17
      | .pf => (w.set Reg.ATT_READY 1).set Reg.ATT_GEN (w.get Reg.ATT_GEN + 1)

end Sys2Proof.Machine
end

