-- ==== Sys2Proof/Machine/Strike.lean ====
section
/-!
DEFINITION. Sys2Proof/Machine/Strike.lean: the strike of a partition (R357, R360 to R364, R482). Commands STRIKE, STRIKE_DRAIN_END,
SCRUB_COMPLETE, STRIKE_PUBLISH, STRIKE_NOTICE.
-/

namespace Sys2Proof.Machine

open Sys2Proof.Crypto (beBytes)

/-! ## The fence (R360, step 1) -/

/-- A fetched entry of a struck partition's queue ends PARTITION_STRUCK; where the CQ has no slot left for it (R317), its completion is not
written and counted as suppressed (DESIGN CHOICE, log 137). -/
def Work.strikeEntry (w : Work) (q : Nat) (h : HEntry) : Work :=
  let x := w.queueOf q
  if x.reserved < 2 ^ w.get Reg.QCFG_CQ_LOG2 q then w.endEntry q h.idx stStruck 0 0 0 none
  else (w.setQueue q { x with entries := x.entries.filter (·.idx != h.idx) }).count Reg.QUE_SUPPRESSED

/-- A queue of the struck partition (R312): fetched entries not started complete PARTITION_STRUCK, posted RECVs are withdrawn, and
the queue is Disabled; started entries finish in the drain. -/
def Work.strikeQueue (w : Work) (q : Nat) : Work :=
  let x := w.queueOf q
  if x.state = .disabled then w
  else
    let w := w.setQueue q { x with recvs := [], state := .error }
    let w := (x.entries.filter fun h => !h.started).foldl (fun w (h : HEntry) => w.strikeEntry q h) w
    let y := w.queueOf q
    let w := w.setQueue q { y with state := .disabled, ending := none }
    match x.ending, w.queuePart q with
    | some (_, seq), some p => w.mailAnswer p stOK 0 seq
    | _, _ => w

/-- Requests of a session that wait for their completion end with a status. -/
def Work.endWaiting (w : Work) (i status : Nat) : Work :=
  match w.session i with
  | none => w
  | some s =>
    let w := w.setSession i { s with waiting := none, state := .struck, own := .own }
    match s.waiting with
    | some (src, tag) => w.complete src tag status 0 0
    | none => w

/-- Sessions of a struck partition (R105, R120): staged APPENDs, waiting requests and COMMITs end PARTITION_STRUCK. -/
def Work.strikeSessions (w : Work) (p : Nat) : Work :=
  let w := w.dropStaged (fun g => g.part = p) stStruck
  let mine := (w.n.pg.sessions.filter fun e => e.2.part = p).map (·.1)
  let w := { w with n.mi.homeOps := w.n.mi.homeOps.filter fun h => h.part != p
                    n.mi.recon := w.n.mi.recon.filter fun i => !(mine.contains i)
                    n.pg.forkCopies := w.n.pg.forkCopies.filter fun k => !(mine.contains k.child) }
  let w := mine.foldl (fun w i => w.endWaiting i stStruck) w
  match w.streamOf p with
  | none => w
  | some t =>
    let w := w.setStream { t with waits := [] }
    (t.waits.foldl (fun w (c : CommitWait) => (w.count Reg.MIR_COMMITS_FAILED).complete c.src c.tag stStruck 0 0) w).endStream p

/-- Prefix operations of a struck partition end PARTITION_STRUCK (chapter 4's events). -/
def Work.strikePrefix (w : Work) (p : Nat) : Work :=
  let all := (match w.n.ks.running with | some o => [o] | none => []) ++ w.n.ks.waiting
  let mine := all.filter fun o => o.part = p
  let w := { w with n.ks.running := if (w.n.ks.running.map fun (o : PfxOp) => decide (o.part = p)).getD false then none else w.n.ks.running
                    n.ks.waiting := w.n.ks.waiting.filter fun o => o.part != p }
  let w := if w.n.ks.running.isNone then w.settle opFields else w
  (mine.foldl (fun w (o : PfxOp) => w.complete o.src o.tag stStruck 0 0) w).showWaiting

/-- Queries, groups and held partials of a struck partition (R40, R208's events): the Open sheet's queries are answered and
unpinned; open groups close with header-only results; held partials are discarded. -/
def Work.strikeQueries (w : Work) (p : Nat) : Work :=
  let w := w.answerSheet w.n.qa.next (fun q => q.part = p && !q.desc.collect) stStruck
  let theirs := fun t : Nat × Tile => ((w.course t.2.course).map fun c => decide (c.part = p)).getD false
  let w := { w with n.qa.next := { w.n.qa.next with queries := w.n.qa.next.queries.filter fun q => q.2.part != p
                                                    tiles := w.n.qa.next.tiles.filter fun t => !theirs t } }
  let open_ := w.n.qa.groups.filter fun g : Group => g.part = p && !g.closed
  let w := open_.foldl (fun w (g : Group) => w.closeGroup g (w.bareRec 0 stStruck g.desc (g.sheet.toNat % 2 ^ 32) g.fmtC)) w
  let held := w.n.qa.held.filter fun h => h.2.part = p
  let w := { w with n.qa.held := w.n.qa.held.filter fun h => h.2.part != p
                    n.qa.credits := w.n.qa.credits.filter fun c => c.1 != p
                    n.qa.early := w.n.qa.early.filter fun e => e.2.part != p }
  w.count Reg.MRG_DISCARDED held.length

/-- The queues of a struck partition's subscribers are flushed (R352, R360): a message of its connections that holds no operation record
completes with PARTITION_STRUCK, a RESPONSE of which nothing has been sent ends. The partials of its running queries leave all the same. -/
def Work.flushQueues (w : Work) (p : Nat) : Work :=
  let mine := w.n.tp.outMsgs.filter fun m => !m.2.started && (match m.2.purpose with | .partialDue .. | .partialSend => false | _ => true) &&
    (w.connOf m.2.conn).any fun c => c.part = p
  mine.foldl (fun w m => if m.2.resp then w.dropMsg m.1 else w.finishMsg m.1 stStruck 0 0 none) w

/-- `STRIKE` (R357, R358, R360): the fence. New work of the partition is refused from now on, its uncommitted moves are abandoned,
its mirror stream stops; the command ends OK. -/
def execPartStrike (wr : RegWr) (s : State) : Host.Outcome State Fault Refusal :=
  run s fun w => w.partCommand wr 2 fun w p seq =>
    if 2 ≤ w.partState p then w.partAnswer stStruck 0 seq
    else if p = 0 ∨ w.partState p = 0 then w.partAnswer stInternal 0 seq
    else
      let id := w.n.se.strikeCount + 1
      let r : StrikeRun :=
        { strikeId := id, fence := w.now, keysAt := none, cut := false, suppressed := 0, authDrops := 0, noticesSent := 0
          noticesOpen := [], noticesLost := 0, scrubEnd := none, scrubKib := 0, frames := 0, ddrKib := 0, hostKib := 0
          sessions := (w.n.pg.sessions.filter fun e => e.2.part = p).length
          conns := (w.n.tp.conns.filter fun c => c.2.part = p).length }
      let w := { w with n.se.strikeCount := id }
      let w := w.setPart p 2 fun q => { q with strikes := q.strikes + 1, strike := some r }
      let w := (w.set Reg.PP_STRIKES (w.get Reg.PP_STRIKES p + 1) p).set Reg.PP_LAST_STRIKE id p
      let w := (w.log { code := 0x4E07, page := 0x75, part := some p, detail := p + id * 2 ^ 8 }).isr (0x100 + p) 18
      let w := w.modMeter p fun m => { m with fenced := true }
      let w := (((w.strikeQueries p).strikePrefix p).strikeSessions p).flushQueues p
      let w := (w.n.hq.queues.map (·.1)).foldl (fun w q => if w.queuePart q = some p then w.strikeQueue q else w) w
      let moves := w.n.st.moves.filter fun m => ((w.course m.2.course).map fun c => decide (c.part = p)).getD false
      let w := moves.foldl (fun w m => w.abandonMove m.1) w
      let w := { w with n.st.prefetch := w.n.st.prefetch.filter fun f => !(((w.course f.course).map fun (c : Course) => decide (c.part = p)).getD false) }
      (w.extendFree 4).partAnswer stOK 0 seq

/-! ## Drain, keys, notices (R360, steps 2 to 4) -/

/-- A connection of a partition. -/
def Work.connIn (w : Work) (id p : Nat) : Bool := ((w.connOf id).map fun c : Conn => decide (c.part = p)).getD false

/-- Started host entries of a partition, those that wait for a message of their own aside (they count as that message). -/
def Work.openEntries (w : Work) (p : Nat) : Nat :=
  w.n.hq.queues.foldl (fun n e => if w.queuePart e.1 = some p then
    n + (e.2.entries.filter fun h => h.started && !(h.opcode = 6 && h.arrived)).length else n) 0

/-- A write to host memory that a partition's function holds back. -/
def HostOut.writesFor (p : Nat) : HostOut → Bool
  | .write fn _ _ _ => fn = p
  | .msix _ _ => false

/-- Transfers of a partition under way (R360, step 2): a write to host memory that Bus Master Enable holds back is one. -/
def Work.openTransfers (w : Work) (p : Nat) : Nat :=
  w.openEntries p + (w.n.tp.outMsgs.filter fun m => w.connIn m.2.conn p && m.2.started).length +
    (w.n.tp.inMsgs.filter fun m => w.connIn m.conn p).length + (w.n.hq.heldOut.filter fun o => o.writesFor p).length

/-- A packet that this node formed for a connection of a partition. -/
def Work.sentFor (w : Work) (p : Nat) (u : TxUnit) : Bool :=
  let h := PktHead.read u.bytes
  u.arrived.isNone && decide (h.srcNode = w.nodeId) &&
    w.n.tp.conns.any fun c => c.2.part = p && c.2.peerConn = h.dst && c.2.peerNode = h.dstNode

/-- What is still open completes to nothing: no further packet is sent, no further host write is made, and a report of the partition's
function still being written is placed nowhere (it is no transfer that the drain waits for: DESIGN CHOICE, log 137). -/
def Work.cutDrain (w : Work) (p : Nat) : Work :=
  let w : Work := { w with n.sc.portQ := w.n.sc.portQ.map fun e => (e.1, e.2.filter fun u => !w.sentFor p u)
                           n.hq.heldOut := w.n.hq.heldOut.filter fun o => !o.writesFor p
                           n.se.attBusy := if (w.n.se.attBusy.map (·.fn)) = some (.vf p) then none else w.n.se.attBusy }
  let w := w.n.hq.queues.foldl (fun w e => if w.queuePart e.1 = some p then w.setQueue e.1 { e.2 with entries := [] } else w) w
  { w with n.tp.outMsgs := w.n.tp.outMsgs.filter fun m => !w.connIn m.2.conn p
           n.tp.inMsgs := w.n.tp.inMsgs.filter fun m => !w.connIn m.conn p
           n.tp.notices := w.n.tp.notices.filter fun m => !w.connIn m.1 p
           n.tp.conns := w.n.tp.conns.map fun e => if e.2.part = p then
             (e.1, { e.2 with unacked := [], records := [], ackDue := false, ackWanted := false }) else e }

/-- Home nodes of a partition's slices, with the CIDs of each (R360, R390); none for a partition that is not mirrored. -/
def Work.homesOf (w : Work) (p : Nat) : List (Nat × Nat) :=
  if !w.mirrored p then []
  else (w.n.pg.sessions.filter fun e => e.2.part = p).filterMap fun e =>
    (w.homeOf p e.2.cid e.2.origin).map fun h => (h.node, e.2.cid.toNat)

/-- Entries of a strike notice, in wire form. -/
def noticeEntry (kind value : Nat) : Bytes := beBytes 8 value ++ beBytes 1 kind ++ List.replicate 7 0

/-- The messages of a notice for one node (R361): its entries in pieces of at most 16,384. -/
def Work.noticeBodies (w : Work) (p id role : Nat) (fence : Tick) (entries : List Bytes) : List Bytes :=
  let n := max 1 (ceilDiv entries.length 16384)
  (List.range n).map fun i =>
    let mine := (entries.drop (i * 16384)).take 16384
    beBytes 1 1 ++ beBytes 1 1 ++ beBytes 2 w.nodeId ++ beBytes 1 p ++ beBytes 1 role ++ List.replicate 2 0 ++ beBytes 4 id ++
    beBytes 4 mine.length ++ beBytes 8 fence.toNat ++ beBytes 2 (i + if i + 1 = n then 2 ^ 15 else 0) ++ List.replicate 38 0 ++
    mine.flatten

/-- The partition-0 connection to a node that a strike notice goes on (R361): the lowest Active one (DEDUCED, log 147: R361 asks for no
RKEY_OK, and does not say which of several). -/
def Work.noticeConn (w : Work) (node : Nat) : Option Nat :=
  (w.n.tp.conns.find? fun c => c.2.part = 0 && c.2.peerNode = node && c.2.state = .active).map (·.1)

/-- Send one notice message on the partition-0 connection to its node; with none it counts as undelivered (R361). -/
def Work.sendNotice (w : Work) (p node : Nat) (body : Bytes) : Work :=
  let lost := fun (w : Work) => (w.count Reg.PART_NOTICES_UNDELIVERED).modStrike p fun r => { r with noticesLost := r.noticesLost + 1 }
  match w.noticeConn node with
  | none => lost w
  | some c => match w.sendMsg c 3 2 body (.strike p) with
    | (none, w) => lost w
    | (some k, w) => (w.count Reg.PART_NOTICES_SENT).modStrike p fun r =>
        { r with noticesSent := r.noticesSent + 1, noticesOpen := r.noticesOpen ++ [k] }

/-- Addresses of the entries of this node's home table (R391). -/
def Work.homeTableEntries (w : Work) : List Nat :=
  match w.n.mi.homeTable.bind fun k => lookupN k w.n.tp.regions with
  | some g => (List.range (g.len / 32)).map fun i => g.base + i * 32
  | none => []

/-- Clear the record of a slice that a node owned (R362): whether there was one. -/
def Work.clearOwned (w : Work) (part cid owner : Nat) : Bool × Work :=
  match w.homeTableEntries.find? fun a =>
      let b := w.bytes a 32
      !emptyEntry b && (let o := OwnRec.read b; decide (o.cid = cid) && decide (o.part = part) && decide (o.owner = owner)) with
  | some a => (true, w.store a (leBytes 32 0))
  | none => (false, w)

/-- The notices of a strike (R360, step 4; R361): one for each node concerned, with every role it has. -/
def Work.notifyStrike (w : Work) (p : Nat) (r : StrikeRun) : Work :=
  let mine := w.n.tp.conns.filter fun c => c.2.part = p
  let homes := w.homesOf p
  let under := if w.mirrored p then [w.get Reg.MIR_UNDERSTUDY] else []
  let nodes := ((mine.map fun c => c.2.peerNode) ++ under ++ homes.map (·.1)).dedup
  nodes.foldl (fun w n =>
    let peers := mine.filter fun c => c.2.peerNode = n
    let cids := homes.filter fun h => h.1 = n
    if n = w.nodeId then cids.foldl (fun w h => (w.clearOwned p h.2 w.nodeId).2) w
    else
      let role := (if peers.isEmpty then 0 else 1) + (if under.contains n then 2 else 0) + (if cids.isEmpty then 0 else 4)
      let es := (peers.map fun c => noticeEntry 1 c.2.peerConn) ++ cids.map fun h => noticeEntry 2 h.2
      (w.noticeBodies p r.strikeId role r.fence es).foldl (fun w b => w.sendNotice p n b) w) w

/-- `STRIKE_DRAIN_END` (R360, steps 2 to 4): at the first tick boundary with no transfer left, or 64 ticks after the fence; what is
open completes to nothing, the keys are destroyed, the notices enqueued, and the scrub begins. -/
def execStrikeDrainEnd (part : Nat) (s : State) : Host.Outcome State Fault Refusal :=
  run s fun w =>
    match (w.secPart part).bind (·.strike) with
    | none => w
    | some r =>
      let left := w.openTransfers part
      let ticks := ticksTo r.fence w.now
      if w.partState part ≠ 2 ∨ ticks = 0 ∨ (left ≠ 0 ∧ ticks < 64) then w
      else
        let w := (w.cutDrain part).count Reg.PART_SUPPRESSED left
        let w := (w.n.tp.conns.filter fun c => c.2.part = part).foldl (fun w c => w.destroyKeys c.1) w
        let r2 : StrikeRun := { r with keysAt := some w.now, suppressed := left, cut := decide (left ≠ 0) }
        let w := w.setPart part 3 fun q => { q with key := none, strike := some r2 }
        w.notifyStrike part r

/-! ## Scrubbing (R363) -/

/-- Zero the frames of a course in HBM, retired ones aside: how many were zeroed. -/
def Work.zeroFrames (w : Work) (f n : Nat) : Nat × Work :=
  let fs := (List.range n).map (f + ·)
  let out := w.n.st.retiredFrames
  if fs.any fun x => out.contains x then
    let good := fs.filter fun x => !(out.contains x)
    (good.length, good.foldl (fun w x => w.zero (frameAddr x) 4096) w)
  else (n, w.zero (frameAddr f) (n * 4096))

/-- Zero a block, retired grains aside: how many of its units were zeroed. -/
def Work.zeroBlk (w : Work) (l : Loc) (b : Blk) : Nat × Work :=
  let out := fun u => l.tier = 1 && w.n.st.retiredGrains.contains (b.die, u / 16)
  let us := (List.range b.units).map (b.unit + ·)
  if us.any out then
    let good := us.filter fun u => !out u
    (good.length, good.foldl (fun w u => w.zero (ddrKey b.die (u * 256)) 256) w)
  else (b.units, w.zero (w.blkKey l b) (b.units * 256))

/-- KiB that the scrub of a course takes of the shared budget: its frames, or its tier-1 blocks. -/
def Work.scrubCost (w : Work) (c : Course) : Nat :=
  match c.loc with
  | .hbm _ | .packed _ => w.locFrames c c.loc * 4
  | .ddr bs => ceilDiv (bs.foldl (fun n b => n + b.units * 256) 0) 1024
  | .host _ => 0

/-- Scrub one course (R363): its bytes are zeroed and its space returns to its free list. -/
def Work.scrubCourse (w : Work) (p ci : Nat) : Work :=
  match w.course ci with
  | none => w
  | some c =>
    let w := match c.loc with
      | .hbm _ | .packed _ =>
        let z := (w.frameSpans c c.loc).foldl (fun (a : Nat × Work) (u : Nat × Nat) => let z := a.2.zeroFrames u.1 u.2; (a.1 + z.1, z.2)) (0, w)
        z.2.modStrike p fun r => { r with frames := r.frames + z.1 }
      | l =>
        let z := l.blks.foldl (fun (a : Nat × Work) (b : Blk) => let z := a.2.zeroBlk l b; (a.1 + z.1, z.2)) (0, w)
        let w := z.2
        let kib := ceilDiv (z.1 * 256) 1024
        w.modStrike p fun r => if l.tier = 1 then { r with ddrKib := r.ddrKib + kib } else { r with hostKib := r.hostKib + kib }
    w.freeCourse ci

/-! ## The scrub, tick by tick (R363) -/

/-- The next course of a partition to scrub in a tier; one that an open sheet still pins waits. -/
def Work.nextScrub (w : Work) (p tier : Nat) : Option (Nat × Course) :=
  w.n.st.courses.find? fun e => e.2.part = p && e.2.loc.tier = tier && !w.pinned e.1

/-- Zero `n` frames of a partition's allotment, from its first: each returns to the free list. -/
def Work.scrubAllot (w : Work) (p f n : Nat) : Work :=
  let z := w.zeroFrames f n
  let w := z.2.modStrike p fun r => { r with frames := r.frames + z.1 }
  w.modPart p fun q => { q with allotTop := if q.allotLen ≤ n * 4096 then none else some (f + n), allotLen := q.allotLen - n * 4096 }

/-- Scrub page slots of HBM, then the allotment, then tier-1 blocks, as far as the bandwidth granted reaches. -/
def Work.scrubSome (p : Nat) : Nat → Work → Work
  | 0, w => w
  | fuel + 1, w =>
    match w.secPart p, (w.secPart p).bind (·.strike) with
    | some q, some r =>
      let course := fun (ci : Nat) (c : Course) =>
        let cost := w.scrubCost c
        if r.scrubKib < cost then w
        else Work.scrubSome p fuel ((w.modStrike p fun r => { r with scrubKib := r.scrubKib - cost }).scrubCourse p ci)
      match w.nextScrub p 0, q.allotTop with
      | some (ci, c), _ => course ci c
      | none, some f =>
        let n := min (q.allotLen / 4096) (r.scrubKib / 4)
        if n = 0 then w
        else Work.scrubSome p fuel ((w.modStrike p fun r => { r with scrubKib := r.scrubKib - 4 * n }).scrubAllot p f n)
      | none, none =>
        match w.nextScrub p 1 with
        | some (ci, c) => course ci c
        | none => w
    | _, _ => w

/-- Bytes that moves to and from tier 2 take of SPL_RATE_HOST. -/
def Work.hostMoving (w : Work) : Nat :=
  w.n.st.moves.foldl (fun n m => match w.course m.2.course with
    | some c => if m.2.checked.isNone ∧ (c.loc.tier = 2 ∨ m.2.dst.tier = 2) then n + c.loc.storedBytes else n
    | none => n) 0

/-- Zero tier-2 courses over PCIe, as far as SPL_RATE_HOST reaches. -/
def Work.scrubHost (p : Nat) : Nat → Work → Work
  | 0, w => w
  | fuel + 1, w =>
    match w.nextScrub p 2, (w.secPart p).bind (·.strike) with
    | some (ci, c), some r =>
      let cost := c.loc.hostBytes
      if r.hostCredit < cost then w
      else
        let w := w.modStrike p fun r => { r with hostCredit := r.hostCredit - cost }
        let w := c.loc.blks.foldl (fun w b =>
          (w.emit (.request true 0 true (w.blkKey c.loc b - hostKey 0) (b.units * 256))).pcieOut (some p) (b.units * 256)) w
        Work.scrubHost p fuel (w.scrubCourse p ci)
    | _, _ => w

/-- Put the fields of a block that some test picks back to their reset values: field, instance, selection. -/
def Work.resetBlock (w : Work) (b : Block) (pick : Fld → Nat → Nat → Bool) : Work :=
  ((w.rw.map (·.1)) ++ w.regs.map (·.1)).foldl (fun w k =>
    let page := k / 2 ^ 37
    let off := k / 32 % 2 ^ 12
    let idx := k / 2 ^ 17 % 2 ^ 20
    if page < b.page then w
    else match b.flds.find? fun f => f.off = off && f.lo = k % 32 with
      | some f => if pick f (page - b.page) idx then w.set f (f.resetAt (page - b.page) idx) (page - b.page) idx else w
      | none => w) w

/-- The copies that this node holds as understudy in a partition go (R374: they are courses of that partition); the batches that wait are
answered MIRROR_UNAVAILABLE (R381). -/
def Work.dropCopies (w : Work) (p : Nat) : Work :=
  let mine := w.n.mi.inStreams.filter fun s => s.part = p
  let w := (mine.map (·.pendingMeta)).flatten.foldl (fun w e => w.refuseBatch e.1 e.2.1 e.2.2 stMirror) w
  { w with n.mi.inStreams := w.n.mi.inStreams.filter fun s => s.part != p, n.mi.replies := w.n.mi.replies.filter fun r => r.2.part != p }

/-- The on-chip and system-area state of a struck partition (R363's table). -/
def Work.scrubChip (w : Work) (p : Nat) : Work :=
  let w := w.dropCopies p
  -- Keystone: prefix banks, session and remote-key entries; tree and session records
  let banks := (List.range 66).filter fun b => w.get Reg.KEY_TABLE 0 b = 1 && w.get Reg.KEY_OWNER 0 b = p
  let w := banks.foldl (fun w b => (w.setKsBank b fun _ => []).set Reg.KEY_OWNER 0 0 b) w
  let w := { w with n.ks.tree := w.n.ks.tree.filter fun t => t.2.part != p, n.st.leaves := w.n.st.leaves.filter fun l => l.1 != p }
  let w := ((w.n.pg.sessions.filter fun e => e.2.part = p).map (·.1)).foldl Work.freeSession w
  let w := { w with n.pg.quiet := w.n.pg.quiet.filter fun q => q.part != p, n.st.reserveDrawn := eraseN p w.n.st.reserveDrawn
                    n.st.tailCopies := w.n.st.tailCopies.filter fun t => ((w.course t.2.dst).map fun (c : Course) => decide (c.part ≠ p)).getD false
                    n.pg.install := w.n.pg.install.map fun (l : List InstallRow) => l.filter fun (r : InstallRow) => ((w.course r.course).map fun (c : Course) => decide (c.part ≠ p)).getD false
                    n.qa.groups := w.n.qa.groups.filter fun g : Group => g.part != p
                    n.mi.streams := w.n.mi.streams.filter fun t => t.part != p }
  -- connections and regions
  let w := ((w.n.tp.conns.filter fun c => c.2.part = p).map (·.1)).foldl Work.dropConn w
  let regions := w.n.tp.regions.filter fun g => g.2.part = p
  let w := regions.foldl (fun w g => w.ksErase g.2.ksBank g.2.ksIdx) w
  let w := { w with n.tp.regions := w.n.tp.regions.filter fun g => g.2.part != p }
  -- queue configuration, subscribers, shapers and meters, page-manager limits and watermarks
  let base := w.get Reg.QUE_BASE 0 p
  let count := w.get Reg.QUE_COUNT 0 p
  let owned := fun sub => w.get Reg.SCH_PART_114 0 sub = p && p != 0
  let subOf := fun idx => if idx / 2 ^ 16 = 0 then idx % 2 ^ 16 else idx % 2 ^ 16 / 8
  let w := w.resetBlock .QCFG fun _ inst _ => base ≤ inst && inst < base + count
  let w := { w with n.hq.queues := w.n.hq.queues.filter fun e => !(base ≤ e.1 && e.1 < base + count)
                    n.sc.shapers := w.n.sc.shapers.filter fun e => !(e.1 / 2 ^ 16 < 2 && owned (subOf e.1))
                    n.sc.meters := w.n.sc.meters.filter fun e => !owned (e.1 / 8) }
  let w := w.resetBlock .SCH fun f inst idx => inst = 0 && f != Reg.SCH_PART_114 && decide (0x114 ≤ f.off) && decide (f.off ≤ 0x128) &&
    decide (idx / 2 ^ 16 < 2) && owned (subOf idx)
  let w := w.resetBlock .POL fun f inst idx => inst = 0 && decide (0x108 ≤ f.off) && decide (f.off ≤ 0x118) && owned (idx / 8)
  let w := w.resetBlock .PGM fun f inst idx => inst = 0 && f.off = 0x124 && idx = p
  w.resetBlock .SPL fun f inst idx => inst = 0 && f.off = 0x154 && idx % 64 = p

/-- No open sheet holds a query of a partition. -/
def Work.sheetsLeft (w : Work) (p : Nat) : Bool := !(w.openSheets.any fun s => s.queries.any fun q => q.2.part = p)

/-- A tick of the scrub of one partition: the on-chip and system-area state first, once its sheets have ended; then storage. Of HBM and tier 1,
PART_SCRUB.RATE KiB, within `spare` bytes: what the tick that ended left of the floors of R43, lent and granted both. Tier 2 in the
class of SPL_RATE_HOST, after its other moves, while the window can be used. The bytes left of `spare`. -/
def Work.scrubPart (w : Work) (p spare : Nat) : Nat × Work :=
  let chip := w.chipScrubbed p
  if !chip && !w.sheetsLeft p then (spare, w)
  else
    let w := if chip then w else (w.scrubChip p).modStrike p fun r => { r with chipDone := true }
    let some_ := (w.nextScrub p 0).isSome || (w.nextScrub p 1).isSome || ((w.secPart p).bind (·.allotTop)).isSome
    let kib := if some_ then min (w.get Reg.PART_SCRUB_RATE) (spare / 1024) else 0
    let fuel := w.n.st.courses.length + 2
    let w := Work.scrubSome p fuel (w.modStrike p fun r => { r with scrubKib := r.scrubKib + kib })
    let host := if (w.nextScrub p 2).isSome && !w.windowOff then w.get Reg.SPL_MAX_11C * 1024 - w.hostMoving else 0
    (spare - kib * 1024, Work.scrubHost p (if w.windowOff then 0 else fuel) (w.modStrike p fun r => { r with hostCredit := r.hostCredit + host }))

/-- A tick of every scrub under way, in the order of the partitions' IDs (DESIGN CHOICE, log 44: R363 speaks of one). -/
def Work.scrubTick (w : Work) (spare : Nat) : Work :=
  let under := fun p => ((w.secPart p).map fun q => q.state = .scrubbing && (q.strike.map fun r => r.scrubEnd.isNone).getD false).getD false
  (((List.range 64).filter under).foldl (fun (a : Nat × Work) p => a.2.scrubPart p a.1) (spare, w)).2

/-- Everything of a partition has been zeroed: its on-chip state, its courses in every tier, its allotment. -/
def Work.scrubbed (w : Work) (p : Nat) : Bool :=
  w.chipScrubbed p && !(w.n.st.courses.any fun e => e.2.part = p) && ((w.secPart p).bind (·.allotTop)).isNone

/-- `SCRUB_COMPLETE` (R363): the scrub ends, once everything of the partition has been zeroed. -/
def execScrubComplete (part : Nat) (s : State) : Host.Outcome State Fault Refusal :=
  run s fun w =>
    match (w.secPart part).bind (·.strike) with
    | some r => if w.partState part ≠ 3 ∨ r.scrubEnd.isSome ∨ !w.scrubbed part then w else w.modStrike part fun r => { r with scrubEnd := some w.now }
    | none => w

/-! ## Publishing (R360 step 6, R364, R411) -/

/-- The strike record. -/
def StrikeRun.bytes (r : StrikeRun) (p lost : Nat) (digest : Bytes) : Bytes :=
  let keys := r.keysAt.getD r.fence
  leBytes 1 p ++ leBytes 1 ((if r.cut then 1 else 0) + if lost = 0 then 0 else 2) ++ leBytes 2 0 ++ leBytes 4 r.strikeId ++
  leBytes 8 r.fence.toNat ++ leBytes 4 (ticksTo r.fence keys) ++ leBytes 4 (ticksTo keys (r.scrubEnd.getD keys)) ++
  leBytes 4 r.suppressed ++ leBytes 4 r.authDrops ++ leBytes 2 r.noticesSent ++ leBytes 2 lost ++ leBytes 4 r.frames ++
  leBytes 4 r.ddrKib ++ leBytes 4 r.hostKib ++ leBytes 4 r.sessions ++ leBytes 4 r.conns ++ digest

/-- Write a pair of prompt-book entries that hold 64 bytes, at an even index (R411). -/
def Work.logPair (w : Work) (b : Bytes) : Work :=
  let w := if w.n.logSeq % 2 = 1 then w.log { code := 0x5000, page := 0xFF } else w
  (w.logRaw (b.take 32)).logRaw (b.drop 32)

/-- `STRIKE_PUBLISH` (R360, R364, R482): the scrub has ended and every notice has completed or gone 64 ticks; the final statement is
closed, the record published, and the partition is Free, its page fields other than the quotas reset. -/
def execStrikePublish (part : Nat) (s : State) : Host.Outcome State Fault Refusal :=
  run s fun w =>
    match (w.secPart part).bind (·.strike) with
    | none => w
    | some r =>
      let late := decide (64 ≤ ticksTo (r.keysAt.getD w.now) w.now)
      if w.partState part ≠ 3 ∨ r.scrubEnd.isNone ∨ (!r.noticesOpen.isEmpty ∧ !late) then w
      else
        let lost := r.noticesLost + r.noticesOpen.length
        let w := w.count Reg.PART_NOTICES_UNDELIVERED r.noticesOpen.length
        let w := { w with n.tp.outMsgs := w.n.tp.outMsgs.map fun (m : Nat × OutMsg) => if r.noticesOpen.contains m.1 then (m.1, { m.2 with purpose := .notice }) else m }
        let st := w.closeStatement part (some r.strikeId)
        let b := r.bytes part lost st.1
        let w := (st.2.logPair b).modMeter part fun m => { m with cnt := List.replicate 16 0, prev := List.replicate 16 0, ddrRest := 0, hostRest := 0 }
        let keep := [Reg.PP_HBM_QUOTA, Reg.PP_DDR_QUOTA, Reg.PP_HOST_QUOTA, Reg.PP_STRIKES, Reg.PP_LAST_STRIKE]
        let w := w.resetBlock .PP fun f inst _ => inst = part && !(keep.contains f)
        w.setPart part 0 fun q => { q with record := b, strike := none, created := false, createTick := 0, key := none }

/-! ## Notices received (R362) -/

/-- Act on one entry of a notice; one that names nothing of the sender is ignored and counted. -/
def Work.noticeAct (w : Work) (src part role : Nat) (e : Bytes) : Work :=
  let value := fieldAt e 0 8
  let ignore := w.count Reg.PART_NOTICES_IGNORED
  match fieldAt e 8 1 with
  | 1 =>
    let id := value % 2 ^ 20
    match w.connOf id with
    | none => ignore
    | some c =>
      if c.peerNode ≠ src then ignore else ((w.destroyKeys id).breakNow id c stStruck).partNotice c.part 0 id stStruck
  | 2 =>
    if !bitOf role 2 then ignore
    else
      let r := w.clearOwned part value src
      if r.1 then r.2 else ignore
  | _ => ignore

/-- `STRIKE_NOTICE` (R361, R362): a SEND of service 2, on a partition-0 connection only. -/
def execStrikeNotice (conn msn : Nat) (bytes : Bytes) (s : State) : Host.Outcome State Fault Refusal :=
  run s fun w => w.msgActs conn msn true fun w c =>
    let h := swapFields noticeFields (bytes.take 64)
    let n := fieldAt h 0xC 4
    if c.part ≠ 0 ∨ bytes.length ≠ 64 + 16 * n ∨ fieldAt h 0 1 ≠ 1 ∨ fieldAt h 1 1 ≠ 1 ∨ 16384 < n then
      w.completeMsg conn msn 0 stInternal 0 0
    else
      let w := w.count Reg.PART_NOTICES_RECEIVED
      let src := fieldAt h 2 2
      let part := fieldAt h 4 1
      let role := fieldAt h 5 1
      let w := if bitOf role 1 then (w.n.mi.inStreams.filter fun t => t.src = src && t.part = part).foldl (fun w t =>
          (t.pendingMeta.foldl (fun w e => w.refuseBatch e.1 e.2.1 e.2.2 stMirror) w).dropIn t) w else w
      let es := (List.range n).map fun i => swapFields entryFields (sliceAt bytes (64 + 16 * i) 16)
      (es.foldl (fun w e => w.noticeAct src part role e) w).completeMsg conn msn 0 stOK 0 0

end Sys2Proof.Machine
end

