-- ==== Sys2Proof/Machine/Reads.lean ====
section
/-!
DEFINITION. Sys2Proof/Machine/Reads.lean: BAR0 reads (R484 to R486, R488 to R496): what is stored, and the read-only fields that
mirror structured state. Command LATCHING_REGISTER_READ.
-/

namespace Sys2Proof.Machine

/-! ## Fields that mirror state -/

/-- The counter of the box office that MTR_VALUE shows (R478, R483). -/
def Work.meterValue (w : Work) (p i : Nat) : Nat :=
  match w.n.mt.meters.find? (fun m => m.part = p) with
  | some m => atD m.cnt i 0
  | none => 0

/-- The prompt-book entry that LOG_READ_SEQ names, if it is in SRAM (R412). -/
def Work.logAt (w : Work) (seq : Nat) : Option LogEntry := w.n.log.find? fun e => e.seq % 2 ^ 32 = seq % 2 ^ 32

/-- A word with bit `i` set where `p i` holds. -/
def bitsWhere (n : Nat) (p : Nat → Bool) : Nat := (List.range n).foldl (fun m i => if p i then m + 2 ^ i else m) 0

/-- The number of a condition. -/
def flagNat (b : Bool) : Nat := if b then 1 else 0

/-- The lease that is left, in ms rounded up (R397). -/
def Work.leaseLeft (w : Work) : Nat :=
  match w.n.mi.leaseEndPs with
  | some e => ceilDiv (e - w.ps) 1000000000
  | none => 0

/-- Rehearsal ready and full ready (R455). -/
def Work.rehReady (w : Work) : Bool :=
  let ddr := fun d => (List.range 6).any fun c => w.flag Reg.DDR_IN_STRIPE (6 * d + c)
  w.flag Reg.GLB_IDS_LOCKED && (w.flag Reg.MG_LINK_UP 0 || w.flag Reg.MG_LINK_UP 1) &&
    (w.flag Reg.PCI_UP || w.flag Reg.GLB_NO_HOST) && w.flag Reg.GLB_D2D_UP &&
    2 ≤ (w.readyStacks.filter (· < 4)).length && ddr 0 && ddr 1 && w.flag Reg.GLB_SELFTEST_REH
def Work.fullReady (w : Work) : Bool :=
  w.rehReady && w.get Reg.GLB_HBM_DONE = 255 && 2 ≤ (w.readyStacks.filter (4 ≤ ·)).length && w.flag Reg.GLB_SELFTEST_FULL

/-- GLB: bring-up and spares (R48, R455, R464, R494). -/
def Work.derivedGlb (w : Work) (f : Fld) : Option Nat :=
  if f = Reg.GLB_MS then some (w.ps / 1000000000)
  else if f = Reg.GLB_WDOG_LEFT_MS then some (ceilDiv (w.n.bo.wdogAt - w.ps) 1000000000)
  else if f = Reg.GLB_REH_READY then some (flagNat w.rehReady)
  else if f = Reg.GLB_FULL_READY then some (flagNat w.fullReady)
  else if f = Reg.GLB_LEASE then some (w.get Reg.MIR_VALID)
  else if f = Reg.GLB_FENCE_ORDER then some (flagNat w.n.mi.fenceOrdered)
  else if f = Reg.GLB_PROMOTING then some (flagNat w.n.bo.promoteAt.isSome)
  else if f = Reg.GLB_MGA_UP then some (w.get Reg.MG_LINK_UP 0)
  else if f = Reg.GLB_MGB_UP then some (w.get Reg.MG_LINK_UP 1)
  else if f = Reg.GLB_MGT_BOTH then some (w.get Reg.MG_LINK_UP 0 * w.get Reg.MG_LINK_UP 1)
  else if f = Reg.GLB_PCIE_UP then some (w.get Reg.PCI_UP)
  else if f = Reg.GLB_XPD_SPARE0 then some (flagNat (w.n.cp.standIn.any fun e => e.2 = 23))
  else if f = Reg.GLB_XPD_SPARE1 then some (flagNat (w.n.cp.standIn.any fun e => e.2 = 24))
  else none

/-- PGM, CL, KEY, SPL, HBM, CMP, XPD, QAD, MRG: the store, the sessions and the arithmetic. -/
def Work.derivedStore (w : Work) (b : Block) (inst idx : Nat) (f : Fld) : Option Nat :=
  match b with
  | .PGM =>
    if f = Reg.PGM_ROW_BYTES then some (w.rowFmt idx).rowBytes
    else if f = Reg.PGM_IN_USE then some (flagNat (w.fmtInUse idx))
    else if f = Reg.PGM_SESS_OPEN then some (w.n.pg.sessions.filter fun e => e.2.part = idx).length
    else if f = Reg.PGM_STAGED_64 then some (ceilDiv (w.stagedRows (some idx)) 64)
    else if f = Reg.PGM_SESSIONS then some w.n.pg.sessions.length
    else if f = Reg.PGM_STAGED then some (w.stagedRows none)
    else none
  | .CL =>
    if f = Reg.CL_IN_USE then some (flagNat (w.cbInUse idx))
    else if f = Reg.CL_N_CYC then some w.nCyc
    else if f = Reg.CL_PASS_CYC then
      some (if w.flag Reg.PGM_VALID 0 (idx / 2) then w.passCycles (w.rowFmt (idx / 2)) (idx % 2 = 1) none else 0)
    else if f = Reg.CL_SWAP_CYC then some (w.rowFmt (idx / 2)).swapCycles
    else none
  | .KEY =>
    let free := fun t => ((List.range 66).filter fun b => w.get Reg.KEY_TABLE 0 b = t && !w.flag Reg.KEY_SPARE 0 b).foldl
      (fun n b => n + (16384 / 2 ^ w.get Reg.KEY_WIDTH 0 b - (atD w.n.ks.banks b { entries := [] }).entries.length)) 0
    if f = Reg.KEY_ENTRIES then some ((atD w.n.ks.banks idx { entries := [] }).entries.filter fun e => e.2.valid).length
    else if f = Reg.KEY_PFX_FREE then some (free 1) else if f = Reg.KEY_SESS_FREE then some (free 2)
    else if f = Reg.KEY_CONN_FREE then some (free 3) else if f = Reg.KEY_RKEY_FREE then some (free 4)
    else if f = Reg.KEY_PFX_WAITING then some w.n.ks.waiting.length
    else none
  | .SPL => if f = Reg.SPL_WM_FREE then some (w.tierFree (idx % 64) (idx / 64) / 2 ^ 24) else none
  | .HBM => if f = Reg.HBM_RD_BYTES then some (numN inst w.n.st.rdBytes / 64) else none
  | .CMP =>
    let busy := fun d => ((w.n.cp.runs[d]?).bind id).isSome
    if f = Reg.CMP_BUSY0 then some (flagNat (busy 0)) else if f = Reg.CMP_BUSY1 then some (flagNat (busy 1)) else none
  | .XPD =>
    -- which instance decodes, and when within the tick, is free while some block waits for an expander (log 46)
    let waits := (w.n.st.moves.any fun m => m.2.dst.tier = 0 && m.2.checked.isNone) ||
      (decide (w.n.qa.cur.state = .running) && w.n.qa.cur.tiles.any fun t => t.2.tier1)
    if f = Reg.XPD_BUSY then some (if waits && w.flag Reg.XPD_ACTIVE 0 idx then Config.freeValue w.n.fresh % 2 else 0) else none
  | .QAD =>
    if f = Reg.QAD_BYTES_114 then some (floorNat (w.stackRate * w.nextSheetNs))
    else if f = Reg.QAD_BYTES_118 then some (floorNat (w.rtRate * w.nextSheetNs))
    else none
  | .MRG => if f = Reg.MRG_BUSY then some (bitsWhere 24 fun s => !((lookupN s w.n.qa.ports).getD []).isEmpty) else none
  | _ => none

/-- FAB, CNX, SCH, MIR: the fabric. -/
def Work.derivedFabric (w : Work) (b : Block) (idx : Nat) (f : Fld) : Option Nat :=
  match b with
  | .FAB => if f = Reg.FAB_IN_USE then some w.opsInUse else none
  | .CNX =>
    let hot := w.n.tp.conns.filter fun c => c.2.hot
    let c := w.connOf idx
    let of := fun (g : Conn → Nat) => (c.map g).getD 0
    if f = Reg.CNX_HOT then some hot.length
    else if f = Reg.CNX_PINNED then some (hot.filter fun c => w.ctxPinned c.1 c.2).length
    else if f = Reg.CNX_INSTALLED then some w.n.tp.conns.length
    else if f = Reg.CNX_STATE then some (of fun c => match c.state with | .active => 1 | .broken => 2 | .removing => 3)
    else if f = Reg.CNX_IS_HOT then some (of fun c => flagNat c.hot)
    else if f = Reg.CNX_IS_PINNED then some (of fun c => flagNat (w.ctxPinned idx c))
    else if f = Reg.CNX_OVERLAP then some (of fun c => flagNat c.prevKey.isSome)
    else if f = Reg.CNX_PART_134 then some (of (·.part))
    else if f = Reg.CNX_PEER then some (of (·.peerNode))
    else if f = Reg.CNX_EPOCH then some (of (·.epoch))
    else if f = Reg.CNX_OPEN_MSGS then
      some ((w.n.tp.outMsgs.filter fun m => m.2.conn = idx && m.2.started && !m.2.resp).length +
        (w.n.tp.inMsgs.filter fun m => m.conn = idx).length)
    else none
  | .SCH => if f = Reg.SCH_TOKENS then some (toField 32 (w.shaper idx).tokens) else none
  | .MIR =>
    let t := w.streamOf idx
    if f = Reg.MIR_STREAM then
      some ((t.map fun (t : Stream) => match t.state with | .off => 0 | .seeding => 1 | .streaming => 2 | .behind => 3 | .unavailable => 4).getD 0)
    else if f = Reg.MIR_UNSEEDED then some ((t.map fun (t : Stream) => t.unseeded.length).getD 0)
    else if f = Reg.MIR_LEFT_MS then some w.leaseLeft
    else if f = Reg.MIR_ORPHANED then some (w.n.pg.sessions.filter fun e => e.2.orphan).length
    else if f = Reg.MIR_UNCONFIRMED then some (w.n.pg.sessions.filter fun e => e.2.own = .unconfirmed).length
    else none
  | _ => none

/-- QCFG, DB, QUE, PART, PP, ATT, SEC, MTR, LOG, MG: the host, the partitions and the operator. -/
def Work.derivedHost (w : Work) (fn : Fn) (b : Block) (inst idx : Nat) (f : Fld) : Option Nat :=
  match b with
  | .QCFG =>
    let q := w.queueOf inst
    if f = Reg.QCFG_EN then some (match q.state with | .enabled | .draining => 1 | _ => 0)
    else if f = Reg.QCFG_STATE then some (match q.state with | .disabled => 0 | .enabled => 1 | .draining => 2 | .error => 3)
    else if f = Reg.QCFG_PARTITION then some ((w.queuePart inst).getD 0xFF)
    else if f = Reg.QCFG_COUNT then some q.count
    else if f = Reg.QCFG_FAIL_COUNT then some q.failCount
    else if f = Reg.QCFG_LAST_HANDLE then some q.lastHandle
    else if f = Reg.QCFG_SEQ then some q.seq
    else if f = Reg.QCFG_FETCH then some q.fetch
    else if f = Reg.QCFG_RECV_POSTED then some q.recvs.length
    else none
  | .QUE => if f.off = 0x108 ∧ f ≠ Reg.QUE_READY ∧ !w.flag Reg.QUE_READY 0 (fnNum fn) then some 0 else none
  | .PART =>
    if f.off = 0x108 ∧ f ≠ Reg.PART_READY ∧ !w.flag Reg.PART_READY then some 0
    else if f = Reg.PART_LIVE_LO then some (bitsWhere 32 fun p => w.partState p = 1)
    else if f = Reg.PART_LIVE_HI then some (bitsWhere 32 fun p => w.partState (32 + p) = 1)
    else if f = Reg.PART_STRUCK_LO then some (bitsWhere 32 fun p => decide (2 ≤ w.partState p))
    else if f = Reg.PART_STRUCK_HI then some (bitsWhere 32 fun p => decide (2 ≤ w.partState (32 + p)))
    else if 0x140 ≤ f.off ∧ f.off ≤ 0x17C then
      some (((w.secPart idx).map fun q : Part => fieldAt q.record (f.off - 0x140) 4).getD 0)
    else none
  | .PP =>
    if f = Reg.PP_STATE then some (w.partState inst)
    else if f = Reg.PP_HBM_USED then some (ceilDiv (w.hbmUsed inst) 4096)
    else if f = Reg.PP_DDR_USED then some (ceilDiv (w.tierUsed inst Loc.ddrBytes) (2 ^ 24))
    else if f = Reg.PP_HOST_USED then some (ceilDiv (w.tierUsed inst Loc.hostBytes) (2 ^ 24))
    else none
  | .ATT => if 0x140 ≤ f.off ∧ f.off ≤ 0x15C then some (bitsOf (atD w.n.se.meas idx 0).toNat ((f.off - 0x140) * 8) 32) else none
  | .SEC => if f = Reg.SEC_SVN_FUSE then some w.svn else none
  | .LOG =>
    if f = Reg.LOG_RING_BASE_LO then some (ringBase % 2 ^ 32) else if f = Reg.LOG_RING_BASE_HI then some (ringBase / 2 ^ 32)
    else if f = Reg.LOG_READ_VALID then some (flagNat (w.logAt (w.get Reg.LOG_READ_SEQ)).isSome)
    else if 0x140 ≤ f.off ∧ f.off ≤ 0x15C then
      some (match w.logAt (w.get Reg.LOG_READ_SEQ) with
        | some e => leVal ((e.bytes.drop (f.off - 0x140)).take 4)
        | none => 0)
    else none
  | .MTR =>
    if f = Reg.MTR_STMT_BASE_LO then some (statementBase % 2 ^ 32)
    else if f = Reg.MTR_STMT_BASE_HI then some (statementBase / 2 ^ 32)
    else if f = Reg.MTR_STMT_NUMBER then
      some (match w.n.mt.meters.find? (fun m => m.part = idx) with | some m => m.number | none => 0)
    else none
  | .MG =>
    if f = Reg.MG_SOURCES then some (w.n.mt.requesters.filter fun r => r.port = inst).length
    else if f = Reg.MG_MK_SET then some (flagNat w.n.mt.key.isSome)
    else if f = Reg.MG_RECOVERY then some (flagNat (w.n.bo.recovery && decide (w.get Reg.GLB_MGT_SEL = inst)))
    else if f = Reg.MG_MK_EPOCH then some (w.get Reg.MG_MK_EPOCH)
    else none
  | _ => none

/-- The value of a read-only field that mirrors structured state; none for a field that stores its value. -/
def Work.derived (w : Work) (fn : Fn) (b : Block) (inst idx : Nat) (f : Fld) : Option Nat :=
  if f.acc ≠ .ro then none
  else match b with
  | .GLB => w.derivedGlb f
  | .TICK => if f = Reg.TICK_NOW_LO then some w.now32 else if f = Reg.TICK_NOW_HI then some w.n.tk.latchHi else none
  | .PGM | .CL | .KEY | .SPL | .HBM | .CMP | .XPD | .QAD | .MRG => w.derivedStore b inst idx f
  | .FAB | .CNX | .SCH | .MIR => w.derivedFabric b idx f
  | _ => w.derivedHost fn b inst idx f

/-- BLK_STAT.BUSY (R490): the block holds work in progress (DESIGN CHOICE, log 46: which state counts as work). -/
def Work.busyBlock (w : Work) (b : Block) (inst : Nat) : Bool :=
  match b with
  | .PGM => !w.n.pg.staged.isEmpty || w.n.pg.install.any (!·.isEmpty) || !w.n.pg.forkCopies.isEmpty
  | .SPL | .CMP | .XPD => !w.n.st.moves.isEmpty
  | .KEY => w.n.ks.running.isSome || !w.n.ks.waiting.isEmpty
  | .CL => 0 < numN inst w.n.cl.busy
  | .MRG => w.n.qa.groups.any (!·.closed) || !w.n.qa.held.isEmpty
  | .QAD => !w.n.qa.cur.queries.isEmpty || !w.n.qa.next.queries.isEmpty
  | .FAB => !w.n.tp.outMsgs.isEmpty || !w.n.tp.inMsgs.isEmpty
  | .CNX => w.n.tp.conns.any fun c => c.2.fetching
  | .SCH => w.n.sc.portQ.any fun q => !q.2.isEmpty
  | .MIR => !w.n.mi.homeOps.isEmpty || w.n.mi.streams.any fun s => !s.batches.isEmpty
  | .PART => w.n.se.parts.any fun p => p.strike.isSome
  | .PP => w.partState inst = 2 || w.partState inst = 3
  | .QUE => w.n.hq.queues.any fun q => !q.2.entries.isEmpty
  | .ATT => w.n.se.attBusy.isSome
  | .CAL => w.n.pw.calNew.isSome
  | .MG => w.n.mt.stream.any fun s => s.port = inst
  | _ => false

/-! ## Reads -/

/-- The pages of the block index (R488). -/
def listedPages : List Nat := (List.range 0x78).filter fun p => (pageBlock p).isSome

/-- A page asserts while BLK_ISR and BLK_IER meet (R492). -/
def Work.asserts (w : Work) (page : Nat) : Bool := w.get Reg.BLK_ISR page &&& w.get Reg.BLK_IER page != 0

/-- The value a field reads as: what is stored, or for a field that mirrors structured state, its value there. -/
def Work.readField (w : Work) (fn : Fn) (b : Block) (inst idx : Nat) (f : Fld) : Nat :=
  match f.acc with
  | .wo => 0
  | .w1s => if f.lo = 31 ∨ (b = .GLB ∧ f.off = 0x10C) ∨ b = .SEC ∨ f = Reg.HBM_TAKE_OFFLINE then w.get f inst idx else 0
  | _ => match w.derived fn b inst idx f with
    | some v => v % 2 ^ f.width
    | none =>
      if f.acc = .rs then
        match lookupN (b.pageOf inst) w.n.frozen with
        | some held => (lookupN (f.key inst idx) held).getD 0
        | none => w.get f inst idx
      else w.get f inst idx

/-- A 32-bit register word, as a function reads it. -/
def Work.readReg (w : Work) (fn : Fn) (b : Block) (inst off : Nat) : Nat :=
  let idx := w.sel fn b off
  (regFields b off).foldl (fun v f => v + w.readField fn b (storeInst b inst off) idx f * 2 ^ f.lo) 0

/-- A common register of a page (R488 to R491). A VF's QUE and PCI views show only BLK_ID and BLK_REV (R496). -/
def Work.readCommon (w : Work) (page off : Nat) (view : Bool) : Nat :=
  match pageBlock page with
  | none => 0
  | some (b, inst) =>
    if off = 0 then b.type * 2 ^ 16 + (if b = .CL ∨ b = .HBM ∨ b = .DDR ∨ b = .LP ∨ b = .PP ∨ b = .MG then inst else 0) * 2 ^ 8 + 1
    else if off = 4 then Config.silicon.toNat
    else if view then 0
    else if off = 8 then b.count
    else if off = 0x10 then
      w.get Reg.BLK_READY page + (if w.busyBlock b inst then 2 else 0) + 4 * w.get Reg.BLK_ERROR page +
        8 * w.get Reg.BLK_SPARE_IN_USE page
    else if off = 0xC then w.get Reg.BLK_ENABLE page + 4 * w.get Reg.BLK_FREEZE page
    else if off = 0x30 then
      match lookupN page w.n.frozen with
      | some held => (lookupN (Reg.BLK_ERR_CNT.key page 0) held).getD 0
      | none => w.get Reg.BLK_ERR_CNT page
    else if off = 0x1C then 0
    else (regFields .BLK off).foldl (fun v f => v + w.get f page * 2 ^ f.lo) 0

/-- GLB aggregation registers (R492): pending pages, errors, partition pages and vectors. -/
def Work.readAggregate (w : Work) (off : Nat) : Option Nat :=
  if 0x180 ≤ off ∧ off ≤ 0x18C then
    let k := (off - 0x180) / 4 * 32
    some (bitsWhere 32 fun i => (pageBlock (k + i)).isSome && w.asserts (k + i))
  else if 0x190 ≤ off ∧ off ≤ 0x19C then
    let k := (off - 0x190) / 4 * 32
    some (bitsWhere 32 fun i => (pageBlock (k + i)).isSome && w.flag Reg.BLK_ERROR (k + i))
  else if off = 0x1A0 ∨ off = 0x1A4 then
    let k := (off - 0x1A0) / 4 * 32
    some (bitsWhere 32 fun i => w.asserts (0x100 + k + i))
  else if off = 0x1A8 ∨ off = 0x1AC then
    let k := (off - 0x1A8) / 4 * 32
    some (bitsWhere 32 fun i => (0x100 :: listedPages).any fun p => pageVector p = (0, k + i) && w.asserts p)
  else none

/-- A read of an aligned register: the value and the view after its read effects (R484, R268, MTR VALUE_LO). -/
def Work.busRead (w : Work) (fn : Fn) (off : Nat) : Nat × Work :=
  if off % 4 ≠ 0 then (0, w.count Reg.GLB_BAD_ACCESS)
  else
    match w.locate fn off with
    | .reg b inst o =>
      if o < 0x100 ∧ b ≠ .QCFG then
        (w.readCommon (b.pageOf inst) o (match fn with | .vf _ => b != .PP | .pf => false), w)
      else if b = .GLB then
        match w.readAggregate o with
        | some v => (v, w)
        | none => (w.readReg fn b inst o, w)
      else if b = .TICK ∧ o = 0x118 then
        (w.now32, { w with n.tk.latchHi := w.now.toNat / 2 ^ 32 })
      else if b = .MTR ∧ o = 0x118 then
        let v := w.meterValue (w.get Reg.MTR_PSEL) (w.get Reg.MTR_CNT_SEL)
        (v % 2 ^ 32, w.set Reg.MTR_VALUE_HI (v / 2 ^ 32 % 2 ^ 32))
      else (w.readReg fn b inst o, w)
    | .msixTable d => (w.msixDword (fnNum fn) d, w)
    | .msixPba d =>
      (bitsWhere 32 fun i => (d * 32 + i) ∈ (w.msixOf (fnNum fn)).pending, w)
    | .unmapped => (0, w.count Reg.GLB_BAD_ACCESS)
    | _ => (0, w)


/-- A read of a doorbell page in BAR2 (R309): of a queue of the function's partition the tail, the head and the two counts; zero of
any other queue, beyond them, and through a function that does not exist (R306). -/
def Work.doorbellRead (w : Work) (fn : Fn) (off : Nat) : Nat :=
  let q := off / 0x1000
  let x := w.queueOf q
  if !w.fnExists fn ∨ 4096 ≤ q ∨ w.queuePart q ≠ some (fnNum fn) then 0
  else
    match off % 0x1000 with
    | 0 => x.tail
    | 4 => x.cqHead
    | 8 => x.count
    | 0xC => x.failCount
    | _ => 0

/-- A 32-bit read through BAR0, or of the doorbell pages through BAR2. -/
def Work.readWord (w : Work) (fn : Fn) (place : ReadAt) : Nat × Work :=
  match place with
  | .reg off => w.busRead fn off
  | .doorbell off => (w.doorbellRead fn off, w)

/-- The offset that a read names. -/
def readOff : ReadAt → Nat
  | .reg off | .doorbell off => off

/-- The place at another offset. -/
def readTo (place : ReadAt) (off : Nat) : ReadAt :=
  match place with
  | .reg _ => .reg off
  | .doorbell _ => .doorbell off

/-- `LATCHING_REGISTER_READ` (R484 to R486, R268, R309, R483): a BAR0 read with its effects, or a read of a doorbell page; a 64-bit read is
two 32-bit reads, lower address first. The data goes out to the function. -/
def execLatchingRegisterRead (fn : Fn) (place : ReadAt) (len : Nat) (s : State) : Host.Outcome State Fault Refusal :=
  run s fun w =>
    let off := readOff place
    if len = 8 ∧ off % 4 = 0 then
      let r := w.readWord fn place
      let r2 := r.2.readWord fn (readTo place (off + 4))
      r2.2.emit (.barData (fnNum fn) (some (leBytes 4 r.1 ++ leBytes 4 r2.1)))
    else if off % 4 + len ≤ 4 ∧ (len = 4 ∨ len < 4) ∧ 0 < len then
      let r := w.readWord fn (readTo place (off / 4 * 4))
      r.2.emit (.barData (fnNum fn) (some ((leBytes 4 r.1).drop (off % 4) |>.take len)))
    else (w.count Reg.GLB_BAD_ACCESS).emit (.barData (fnNum fn) (some (List.replicate len 0)))

end Sys2Proof.Machine
end

