-- ==== Sys2Proof/Machine/BringUp.lean ====
section
/-!
DEFINITION. Sys2Proof/Machine/BringUp.lean: power, resets, the boot ROM, training, self-test, node states and promotion (spec/15),
and the events at the balls (spec/18). Commands PWRGOOD_RISE, PWRGOOD_FALL, THERMTRIP, SYSCLK_LOST, WARM_RESET, PERST,
PERST_RELEASE, PCIE_LINK_TRAINED, PCIE_REFCLK_LOST, PCIE_REFCLK_RETURN, SRIOV_VF_ENABLE, SERDESCLK_LOST, SERDESCLK_RETURN,
BOOT_IMAGE_VERIFIED, D2D_TRAINED, DDR_TRAINING_DONE, HBM_ROUND_DONE, SELFTEST_DONE, READY_REACHED, PROMOTION_BOUNDARY,
GLB_ID_LOCK, MANAGEMENT_LINK_CHANGE, WATCHDOG_WARNING, WATCHDOG_EXPIRED, WATCHDOG_WARM_RESET.
-/

namespace Sys2Proof.Machine

open Sys2Proof.Crypto (sha3 sha3v ascii bytes32)

/-! ## Resets (R444) -/

/-- The write lands in memory that no reset of the node touches: the host's, or the flash. -/
def MemOp.outside : MemOp → Bool
  | .put a _ => decide (2 ^ 64 * 3 ≤ a)
  | .clear lo _ => decide (2 ^ 64 * 3 ≤ lo)

/-- Everything the node holds returns to its reset value (R444). What is not the node's own stays: host memory, the flash, the
levels at the balls, and what has left the node; so do the fused SVN (R367) and the list of DDR5 rows to be repaired at the next training
(R86). -/
def Work.wipe (w : Work) : Work :=
  let b := w.n.bo
  let bo := { BringUp.reset with perst := b.perst, perstHeld := !b.perst, pcieClk := b.pcieClk, serdesClk := b.serdesClk }
  { n := { Node.reset with out := w.n.out, fresh := w.n.fresh, bo := bo }, regs := [], rw := [], mem := w.mem.afterReset
    wr := w.wr.filter MemOp.outside, wiped := true, svn := w.svn, ppr := w.ppr }

/-- Registers that a warm reset leaves (R444, R464): the straps, and GLB_RESET_CAUSE. -/
def warmKept : List Fld :=
  [Reg.GLB_BOOT_SEL, Reg.GLB_MGT_SEL, Reg.GLB_WARM_REG, Reg.GLB_WARM_MGMT, Reg.GLB_WATCHDOG, Reg.GLB_RECOVERY, Reg.GLB_WARM_COUNT]

/-- A warm reset (R444, R464): the straps are not sampled again; GLB_RESET_CAUSE survives, gains the cause and counts, and the last
reset is no longer a power-on (a cause bit stays until a power-on reset: DEDUCED, log 60). -/
def Work.warmReset (w : Work) (cause : Fld) : Work :=
  let w' := warmKept.foldl (fun v f => v.set f (w.get f)) w.wipe
  ((w'.set Reg.GLB_POWER_ON 0).set cause 1).count Reg.GLB_WARM_COUNT

/-- `PWRGOOD_RISE` (R442, R456, R510): a rise that follows a loss of power samples the straps and starts the boot ROM; the rise
that ends an ignored pulse does nothing. -/
def execPwrgoodRise (bootSel : Nat) (mgtSel testMode : Bool) (s : State) : Host.Outcome State Fault Refusal :=
  runAlways s fun w =>
    if w.n.bo.on then w
    else ((w.wipe.set Reg.GLB_BOOT_SEL (bootSel % 4)).setFlag Reg.GLB_MGT_SEL mgtSel).setFlag Reg.GLB_TEST_MODE testMode

/-- `PWRGOOD_FALL` (R441, R456, R510): a low pulse shorter than 1 µs is ignored; a longer one is a power-loss reset, to Off. -/
def execPwrgoodFall (ns : Nat) (s : State) : Host.Outcome State Fault Refusal :=
  runAlways s fun w => if ns < 1000 then w else { w.wipe with n.bo.on := false }

/-- The node stops every clock and holds no state until PWRGOOD next rises (R431, R508). -/
def Work.stopClocks (w : Work) (trip : Bool) : Work :=
  { w.wipe with n.bo.on := w.n.bo.on, n.bo.stopped := true, n.bo.thermtrip := trip }

/-- `THERMTRIP` (R431): the comparator drives THERMTRIP_N low, which stays low until PWRGOOD falls, and stops every clock. -/
def execThermtrip (s : State) : Host.Outcome State Fault Refusal :=
  runAlways s fun w => if w.n.bo.on && !w.n.bo.thermtrip then (w.stopClocks true).emit .thermtrip else w

/-- `SYSCLK_LOST` (R508). -/
def execSysclkLost (s : State) : Host.Outcome State Fault Refusal :=
  runAlways s fun w => if w.n.bo.on && !w.n.bo.stopped then w.stopClocks false else w

/-- `WARM_RESET` (R464): GLB_RESET.WARM with its confirm value in the same write. -/
def execWarmReset (wr : RegWr) (s : State) : Host.Outcome State Fault Refusal :=
  run s fun w => w.regAction wr .GLB [0x114] fun w _ _ =>
    if wrote1 wr Reg.GLB_WARM then w.warmReset Reg.GLB_WARM_REG else w.set Reg.GLB_CONFIRM 0

/-! ## PCIe (R446, R508) -/

/-- The PCIe endpoint is reset as PERST# resets it (R446): every function's queues, BAR and MSI-X state, and the link. -/
def Work.resetPcie (w : Work) : Work :=
  let w := (List.range 64).foldl (fun w f => w.resetFunction f fun _ => f = 0) w
  let w := [Reg.PCI_UP, Reg.PCI_SPEED, Reg.PCI_WIDTH, Reg.PCI_DEGRADED, Reg.PCI_VFS, Reg.PCI_BME].foldl (fun w f => w.set f 0) w
  { (w.setReady 0x76 false) with n.bo.vfEnabled := 0, n.bo.busMaster := false, n.hq.heldOut := [] }

/-- `PERST` (R446). -/
def execPerstAssert (s : State) : Host.Outcome State Fault Refusal :=
  run s fun w => { w.resetPcie with n.bo.perst := true, n.bo.perstHeld := false }

/-- `PERST_RELEASE` (R446): held internally until the boot ROM stage has ended. -/
def execPerstRelease (s : State) : Host.Outcome State Fault Refusal :=
  run s fun w => { w with n.bo.perst := false, n.bo.perstHeld := !w.n.bo.romDone }

/-- `PCIE_LINK_TRAINED` (R305, R446): the link is up, as a generation (1 to 5) and a width; below generation 5 ×8 it is degraded. -/
def execPcieLinkTrained (speed width : Nat) (s : State) : Host.Outcome State Fault Refusal :=
  run s fun w =>
    if w.n.bo.perst || w.n.bo.perstHeld || !w.n.bo.pcieClk || !w.n.bo.romDone || w.n.bo.recovery then w
    else
      let w := ((w.set Reg.PCI_UP 1).set Reg.PCI_SPEED speed).set Reg.PCI_WIDTH width
      (w.setFlag Reg.PCI_DEGRADED (speed < 5 || width < 8)).setReady 0x76 true

/-- `PCIE_REFCLK_LOST` (R508): the link goes down and the node serves as while PERST# is asserted. -/
def execPcieRefclkLost (s : State) : Host.Outcome State Fault Refusal :=
  run s fun w => { w.resetPcie with n.bo.pcieClk := false }

/-- `PCIE_REFCLK_RETURN` (R508): the link may train again. -/
def execPcieRefclkReturn (s : State) : Host.Outcome State Fault Refusal :=
  run s fun w => { w with n.bo.pcieClk := true }

/-- `SRIOV_VF_ENABLE` (R305, R306): functions 1 to `num` exist, `num` 0 while VF Enable is clear; a function that ceases to exist
loses its own part, as an FLR of it would (PRESUMED, log 61). -/
def execSriovVfEnable (num : Nat) (s : State) : Host.Outcome State Fault Refusal :=
  run s fun w => w.configRequest fun w =>
    if 63 < num then w
    else
      let gone := (List.range 64).filter fun p => num < p && p ≤ w.n.bo.vfEnabled
      let w := gone.foldl (fun w p => w.resetFunction p fun q => w.queuePart q = some p) w
      { (w.set Reg.PCI_VFS num) with n.bo.vfEnabled := num }

/-! ## SerDes clocks (R508) -/

/-- `SERDESCLK_LOST` (R508): the eight ports it serves leave Up for Detect, logged with cause 3; a port that was training falls
back to Detect. -/
def execSerdesclkLost (clk : Nat) (s : State) : Host.Outcome State Fault Refusal :=
  run s fun w =>
    if 4 ≤ clk then w
    else
      let w := { w with n.bo.serdesClk := w.n.bo.serdesClk.set clk false }
      ((List.range 8).map (8 * clk + ·)).foldl (fun w p => (w.halvesOf p).foldl (fun w h =>
        if w.portLive p h then w.dropPort p h (some 3)
        else if 2 ≤ w.portState p h then w.setPort p h 1
        else w) w) w

/-- `SERDESCLK_RETURN` (R508): the ports train again under R252. -/
def execSerdesclkReturn (clk : Nat) (s : State) : Host.Outcome State Fault Refusal :=
  run s fun w => { w with n.bo.serdesClk := w.n.bo.serdesClk.set clk true }

/-! ## The boot ROM (R365 to R369, R447, R448) -/

/-- Flash offset of image A or B (R447), and of the debug token (R475). -/
def imageFlash (image : Nat) : Nat := if image = 0 then 0 else 0x02100000
def tokenFlash : Nat := 0x04210000

/-- The check of R366 that an image in flash fails, 1 to 5; none when it passes. -/
def Work.imageFails (w : Work) (image : Nat) : Option Nat :=
  let base := flashKey (imageFlash image)
  let h := w.bytes base 4096
  let zero := fun off len => (sliceAt h off len).all (· = 0)
  let key := fieldAt h 7 1
  let pub := sliceAt h 0x40 1312
  if fieldAt h 0 4 ≠ 0x4D574B5A ∨ fieldAt h 4 2 ≠ 1 ∨ !(zero 0xC 4 && zero 0x38 8 && zero 0xED4 300) ∨
      33554432 < fieldAt h 8 4 then some 1
  else if 4 ≤ key ∨ bitOf (w.get Reg.SEC_REVOKED) key ∨ sha3v pub ≠ Config.vendorKeyDigest key then some 2
  else if fieldAt h 6 1 < w.svn then some 3
  else if !Config.mldsaVerify pub (h.take 0x560) (ascii "KZ8640 firmware") (sliceAt h 0x560 2420) then some 4
  else if sha3 (w.bytes (base + 4096) (fieldAt h 8 4)) ≠ sliceAt h 0x10 32 then some 5
  else none

/-- The image digest (R365). -/
def Work.imageDigest (w : Work) (image : Nat) : BitVec 256 := sha3v (w.bytes (flashKey (imageFlash image)) 0x560)

/-- The vendor key index of the debug token in flash, if the boot ROM accepts it (R369, R475): fields of the 64 signed bytes at
offsets 0, 4 and 20 (DESIGN CHOICE, log 62). The key is the one of that index that the image header carries. -/
def Work.debugToken (w : Work) (pub : Bytes) : Option Nat :=
  let t := w.bytes (flashKey tokenFlash) 2484
  let key := fieldAt t 20 1
  if fieldAt t 0 4 = 0x4B544744 ∧ fieldAt t 4 16 = Config.deviceId.toNat ∧ key < 4 ∧ !bitOf (w.get Reg.SEC_REVOKED) key ∧
      sha3v pub = Config.vendorKeyDigest key ∧ Config.mldsaVerify pub (t.take 64) (ascii "KZ8640 debug") (t.drop 64) then some key
  else none

/-- The image that the boot ROM verifies next (R366, R447): the preferred one, then the other unless BOOT_SEL[1] is 1. -/
def Work.nextImage (w : Work) : Option Nat :=
  let sel := w.get Reg.GLB_BOOT_SEL
  let pref := sel % 2
  if w.n.bo.running.isSome || w.n.bo.recovery then none
  else if !w.n.bo.imgFailed.contains pref then some pref
  else if sel < 2 && !w.n.bo.imgFailed.contains (1 - pref) then some (1 - pref)
  else none

/-- The pages whose blocks are in service once firmware runs: all but those that training, self-test or a link brings in. -/
def firmwarePages : List Nat :=
  [0, 1, 2, 3, 4, 5, 6, 7, 8, 9, 10, 11] ++ (List.range 6).map (0x24 + ·) ++ [0x4A, 0x4B] ++ (List.range 32).map (0x50 + ·) ++
    (List.range 8).map (0x70 + ·) ++ (List.range 64).map (0x100 + ·)
def firmwareReady : List Nat :=
  [0, 1, 2, 3, 4, 5, 8, 9, 10, 11, 0x25, 0x26, 0x27, 0x28, 0x29, 0x4A, 0x4B, 0x70, 0x71, 0x72, 0x73, 0x74, 0x75, 0x77, 0x100]

/-- The boot ROM stage begins its measurements (R368): slot 0, once. -/
def Work.measureRom (w : Work) : Work :=
  if w.n.bo.romDone then w
  else
    let w := w.extendMeas 0 (sha3v Config.romIdentity)
    { (w.extendMeas 0 (sha3v Config.fuseSummary)) with n.bo.romDone := true, n.bo.perstHeld := false }

/-- The image runs on the control cores (R447, R48): slot 1, the registers that name it, the watchdog (R445), and the debug token
(R369). -/
def Work.startFirmware (w : Work) (image : Nat) : Work :=
  let h := w.bytes (flashKey (imageFlash image)) 4096
  let pref := w.get Reg.GLB_BOOT_SEL % 2
  let cores := ((List.range 6).filter fun c => c != w.get Reg.GLB_CORE_SPARE_A && c != w.get Reg.GLB_CORE_SPARE_B).foldl
    (fun m c => m + 2 ^ c) 0
  let d := w.imageDigest image
  let other := if (w.imageFails (1 - image)).isNone then w.imageDigest (1 - image) else 0
  let w := w.extendMeas 1 d
  -- the context key of this boot (R274)
  let w := { w with n.tp.ctxKey := BitVec.ofNat 256 (Config.random w.n.fresh), n.fresh := w.n.fresh + 1 }
  let w := { w with n.bo.running := some image, n.bo.wdogAt := w.ps + 100000000000, n.pw.nextEst := w.ps + 2000000
                    n.se.imgDigestA := if image = 0 then d else other, n.se.imgDigestB := if image = 0 then other else d }
  let w := ((w.set Reg.GLB_FW_RUNNING 1).set Reg.GLB_RUNNING cores).set Reg.GLB_WDOG_ARMED 1
  let w := (w.set Reg.GLB_FW_IMAGE image).setFlag Reg.GLB_FW_FALLBACK (image != pref)
  let w := (w.set Reg.SEC_SVN_IMAGE (fieldAt h 6 1)).set Reg.SEC_KEY_INDEX (fieldAt h 7 1)
  let w := firmwarePages.foldl (fun w p => w.setEnable p true) w
  let w := firmwareReady.foldl (fun w p => w.setReady p true) w
  let w := if image = pref then w else w.log { code := 0x4109, page := 0, detail := image }
  match w.debugToken (sliceAt h 0x40 1312) with
  | none => w
  | some k => ((w.set Reg.SEC_DEBUG 1).log { code := 0x4E04, page := 8, detail := k }).extendFree 5

/-- `BOOT_IMAGE_VERIFIED` (R366, R447, R448): the boot ROM has verified an image, and starts it, or turns to the other image, or
to recovery mode. -/
def execBootImageVerified (image : Nat) (s : State) : Host.Outcome State Fault Refusal :=
  run s fun w =>
    if w.nextImage ≠ some image then w
    else
      let w := w.measureRom
      match w.imageFails image with
      | none => w.startFirmware image
      | some k =>
        let w := { w with n.bo.imgFailed := image :: w.n.bo.imgFailed }
        let w := w.count (if image = 0 then Reg.SEC_BOOT_FAIL_A else Reg.SEC_BOOT_FAIL_B)
        let w := w.log { code := 0x4E01, page := 0xFF, detail := image + 2 * k }
        if w.nextImage.isSome then w else { w with n.bo.recovery := true }

/-! ## Training (R449 to R451) -/

/-- The frames and the reserve of the stacks that serve (R57, R79, R459). -/
def Work.showFrames (w : Work) : Work :=
  let n := w.servingStacks.length
  (w.set Reg.CST_FRAMES (slotFrames * n)).set Reg.CST_RESERVE (slotFrames / 64 * n)

/-- `D2D_TRAINED` (R437, R438, R449, R450): the die-to-die connection is up, the calibration set is loaded and measured, and the
first round of HBM training begins; or the node stays Dark. -/
def execD2dTrained (ok : Bool) (s : State) : Host.Outcome State Fault Refusal :=
  run s fun w =>
    if !w.flag Reg.GLB_FW_RUNNING || w.flag Reg.GLB_D2D_UP || w.flag Reg.GLB_D2D_FAIL then w
    else if !ok then
      (w.set Reg.GLB_D2D_FAIL 1).report { code := 0x400B, page := 0x24, status := stInternal, detail := w.get Reg.CST_CRC_CNT }
    else
      let w := ((w.set Reg.CST_UP 1).set Reg.GLB_D2D_UP 1).setReady 0x24 true
      let w := w.loadCal
      let d := match w.n.pw.cal with
        | some c => sha3v c
        | none => sha3v (List.replicate 32 0)
      (w.extendMeas 2 d).set Reg.GLB_HBM_ROUND 1

/-- `DDR_TRAINING_DONE` (R67, R86, R451): the channels that trained form the stripes; pending hard repairs have been made. -/
def execDdrTrainingDone (chans : List DdrChan) (s : State) : Host.Outcome State Fault Refusal :=
  run s fun w =>
    if !w.flag Reg.GLB_D2D_UP || w.flag Reg.GLB_DDR_DONE then w
    else
      let w := (List.range 12).foldl (fun w c =>
        match chans[c]? with
        | none => w
        | some d =>
          let ok := d.trained && 0 < d.modules
          let w := ((w.set Reg.DDR_MODULES d.modules c).set Reg.DDR_MOD_GIB d.gib c).set Reg.DDR_SPEED 64 c
          let w := (w.setFlag Reg.DDR_TRAINED ok c).setFlag Reg.DDR_IN_STRIPE ok c
          let w := (w.setEnable (0x18 + c) ok).setReady (0x18 + c) ok
          -- the rows listed for hard repair are repaired now, or stay listed (R86)
          let w := if w.flag Reg.DDR_HPPR_AT_BOOT c then { w with ppr := eraseN c w.ppr } else w
          let w := w.set Reg.DDR_PPR_PENDING (min 255 (numN c w.ppr)) c
          if !ok && 0 < d.modules then w.report { code := 0x4307, page := 0x18 + c, detail := 0x80 + c } else w) w
      w.set Reg.GLB_DDR_DONE 1

/-- The stacks of an HBM training round (R451). -/
def roundStacks (r : Nat) : List Nat := if r = 1 then [0, 1] else if r = 2 then [2, 3, 4] else if r = 3 then [5, 6, 7] else []

/-- `HBM_ROUND_DONE` (R451, R455): every stack of the round has trained or failed; a failed one is left out of service. After the
last round a die 1 with fewer than two stacks is logged. -/
def execHbmRoundDone (failed : List Nat) (s : State) : Host.Outcome State Fault Refusal :=
  run s fun w =>
    let r := w.get Reg.GLB_HBM_ROUND
    let w := (roundStacks r).foldl (fun w st =>
      let w := w.set Reg.GLB_HBM_DONE (w.get Reg.GLB_HBM_DONE ||| 2 ^ st)
      if failed.contains st then
        { (w.report { code := 0x4307, page := 0x10 + st, detail := st }) with n.bo.hbmFailed := w.n.bo.hbmFailed ++ [st] }
      else
        let d := w.draw
        -- the repair rows that a stack has left are the part's (log 120)
        let w := d.2.set Reg.HBM_REPAIR_FREE (d.1 % 256) st
        let w := (w.set Reg.HBM_TRAINED 1 st).set Reg.HBM_IN_SERVICE 1 st
        let w := w.set Reg.CST_READY (w.get Reg.CST_READY ||| 2 ^ st)
        (w.setEnable (0x10 + st) true).setReady (0x10 + st) true) w
    if r = 0 then w
    else
      let w := (w.set Reg.GLB_HBM_ROUND (if r = 3 then 0 else r + 1)).showFrames
      if r = 3 ∧ (w.readyStacks.filter (4 ≤ ·)).length < 2 then
        w.report { code := 0x4307, page := 0x24, status := stInternal, detail := (w.readyStacks.filter (4 ≤ ·)).length }
      else w

/-! ## Self-test (R453) -/

/-- A cluster fails self-test (R49 to R51): a spare of its die that did not itself fail takes its slot, as in service (log 125); with none its
slot is not served. -/
def Work.replaceCluster (w : Work) (bad : List BadUnit) (c : Nat) : Work :=
  let slot := w.get Reg.CL_SLOT c
  let w := ((w.set Reg.CL_FAULTED 1 c).isr (0x30 + c) 16).report { code := 0x4102, page := 0x30 + c, arg := 0xF000000000 + c * 0x800000, detail := 2 }
  if slot = 31 then w
  else
    match [0, 1].find? (fun i => let sp := w.get (clSpareFld i)
        decide (sp / 13 = c / 13) && w.flag Reg.CL_SPARE sp && !w.flag Reg.CL_BAD sp && !w.flag Reg.CL_FAULTED sp &&
          !bad.contains (.cluster sp)) with
    | none => (w.set Reg.CL_SLOT 31 c).report { code := 0x410A, page := 0, detail := ((List.range 26).filter fun k => w.get Reg.CL_SLOT k != 31).length - 1 }
    | some i =>
      let sp := w.get (clSpareFld i)
      let w := ((w.set Reg.CL_SLOT 31 c).set Reg.CL_SLOT slot sp).set Reg.CL_SPARE 0 sp
      let w := (w.set (clSpareFld i) c).setSpareInUse (0x30 + sp) true
      (w.log { code := 0x4101, page := 0, detail := c + sp * 256 }).extendFree 5

/-- A Keystone bank fails self-test (R48, R49, R51): a spare takes its place at once, as no entry is held yet. -/
def Work.replaceBank (w : Work) (bad : List BadUnit) (b : Nat) : Work :=
  if w.flag Reg.KEY_SPARE 0 b then w
  else
    match [0, 1].find? (fun i => let sp := w.get (keySpareFld i)
        w.flag Reg.KEY_SPARE 0 sp && !w.flag Reg.KEY_BAD 0 sp && !bad.contains (.bank sp)) with
    | none => w.set Reg.KEY_TABLE 0 0 b
    | some i => let sp := w.get (keySpareFld i); (w.retireBank i b sp).set Reg.KEY_REBUILDING 0 0 sp

/-- Replace the units that failed. -/
def Work.replaceBad (w : Work) (bad : List BadUnit) : Work :=
  bad.foldl (fun w u => match u with
    | .cluster c => if c < 26 then w.replaceCluster bad c else w
    | .bank b => if b < 66 then w.replaceBank bad b else w) w

/-- Clusters in the order of their logical slots. -/
def Work.bySlot (w : Work) (p : Nat → Bool) : List Nat :=
  ((List.range 24).filterMap fun slot => (List.range 26).find? fun c => w.get Reg.CL_SLOT c = slot && p c && !w.flag Reg.CL_FAULTED c)

/-- A cluster enters service. -/
def Work.activate (w : Work) (c : Nat) : Work := ((w.set Reg.CL_ACTIVE 1 c).setEnable (0x30 + c) true).setReady (0x30 + c) true

/-- `SELFTEST_DONE` (R453): the rehearsal part brings in the four clusters of die 0 with the lowest slots, at half clock; the full
part tests the rest, which serve from Full. -/
def execSelftestDone (part : TestPart) (bad : List BadUnit) (s : State) : Host.Outcome State Fault Refusal :=
  run s fun w =>
    match part with
    | .rehearsal =>
      if w.flag Reg.GLB_SELFTEST_REH || !w.flag Reg.GLB_DDR_DONE || (w.readyStacks.filter (· < 4)).length < 2 then w
      else
        let w := w.replaceBad bad
        let four := (w.bySlot (· < 13)).take 4
        let w := four.foldl (fun w c => (w.activate c).set Reg.CL_HALF_CLOCK 1 c) w
        w.set Reg.GLB_SELFTEST_REH 1
    | .full =>
      if w.flag Reg.GLB_SELFTEST_FULL || w.get Reg.GLB_HBM_DONE ≠ 255 then w
      else
        let w := w.replaceBad bad
        let rest := w.bySlot fun c => !w.flag Reg.CL_ACTIVE c
        { (w.set Reg.GLB_SELFTEST_FULL 1) with n.bo.passed := rest }

/-! ## Node states (R455 to R463) -/

/-- The node enters full service (R456, R462): every cluster that passed, full clock, every READY stack, and the ports that were
held; then the REH ports retrain under R254. -/
def Work.enterFull (w : Work) : Work :=
  let w := (w.n.bo.passed.filter fun c => !w.flag Reg.CL_FAULTED c).foldl (fun w c => w.activate c) w
  let w := (List.range 26).foldl (fun w c => w.set Reg.CL_HALF_CLOCK 0 c) { w with n.bo.passed := [], n.bo.promoteAt := none }
  let w := ((w.set Reg.GLB_PROMOTING 0).setNodeState 2).cappedBoundary.showFrames.fillStore
  let w := (List.range 32).foldl (fun w p => w.startPort p) w
  (w.rehRetrain 0).rehRetrain 1

/-- Every slice of a mirrored partition is to be reconciled (R400), and is unconfirmed until its probe returns. -/
def Work.reconcileAll (w : Work) : Work :=
  let w := w.reconcileSoon fun s => w.mirrored s.2.part
  let unconfirm := fun s : Session => if w.mirrored s.part && s.own = .own then { s with own := .unconfirmed } else s
  { w with n.pg.sessions := w.n.pg.sessions.map fun (e : Nat × Session) => (e.1, unconfirm e.2) }

/-- The node leaves Dark for Rehearsal (1) or full service (2), its first sheet at the next boundary of that service (R456, R458). -/
def Work.leaveDark (w : Work) (v : Nat) : Work :=
  let w := if v = 1 then (w.setNodeState 1).showFrames else w.enterFull
  let k := w.repTicks
  let first : Tick := w.now + BitVec.ofNat 48 (k - w.now.toNat % k)
  let w := w.reconcileAll
  let w := { w with n.qa.next := Sheet.empty first .open, n.qa.budget := Budget.empty }
  (List.range 32).foldl (fun w p => w.startPort p) w

/-- The transition of R456 that readiness and a lease allow now: out of Dark, or the naming of a promotion boundary, which is the
first boundary of the rehearsal tick after the next (R462). -/
def Work.advance (w : Work) : Work :=
  if !w.flag Reg.MIR_VALID || w.n.mi.fenced then w
  else if w.isDark then
    if w.fullReady then w.leaveDark 2
    else if w.rehReady && w.flag Reg.GLB_REH_EN && !w.flag Reg.GLB_EVER_FULL then w.leaveDark 1
    else w
  else if w.nodeState = 1 && w.fullReady && w.n.bo.promoteAt.isNone then
    let k := w.repTicks
    { (w.set Reg.GLB_PROMOTING 1) with n.bo.promoteAt := some (BitVec.ofNat 48 ((w.now.toNat / k + 2) * k)) }
  else w

/-- `READY_REACHED` (R456). -/
def execReadyReached (s : State) : Host.Outcome State Fault Refusal :=
  run s fun w =>
    let w := (w.setFlag Reg.GLB_REH_READY w.rehReady).setFlag Reg.GLB_FULL_READY w.fullReady
    w.advance

/-- `PROMOTION_BOUNDARY` (R462): at boundary P the node leaves rehearsal. -/
def execPromotionBoundary (s : State) : Host.Outcome State Fault Refusal :=
  run s fun w => if w.nodeState = 1 && w.pastPromotion then w.enterFull else w

/-- The IDs are locked and the ports are released (R452). -/
def Work.lockIds (w : Work) : Work :=
  let w := (w.set Reg.GLB_LOCK 1).set Reg.GLB_IDS_LOCKED 1
  (List.range 32).foldl (fun w p => w.startPort p) w

/-- `GLB_ID_LOCK` (R452, R464). -/
def execGlbIdLock (wr : RegWr) (s : State) : Host.Outcome State Fault Refusal :=
  run s fun w => w.regAction wr .GLB [0x10C] fun w _ _ => if wrote1 wr Reg.GLB_LOCK then w.lockIds else w

/-- `MANAGEMENT_LINK_CHANGE` (R448, R449, R465): a port's link comes up once firmware has trained the die-to-die connection, loaded the
calibration set and started training (or has failed to), the port that MGT_SEL names first unless it is not enabled; in recovery mode only
that port. -/
def execManagementLinkChange (port : Nat) (up : Bool) (s : State) : Host.Outcome State Fault Refusal :=
  run s fun w =>
    let named := decide (w.get Reg.GLB_MGT_SEL = port)
    let begun := w.flag Reg.GLB_FW_RUNNING && (w.flag Reg.GLB_D2D_UP || w.flag Reg.GLB_D2D_FAIL)
    let turn := named || w.n.bo.mgtFirst || !w.flag Reg.MG_EN (w.get Reg.GLB_MGT_SEL)
    let may := (begun && turn) || (w.n.bo.recovery && named)
    if 2 ≤ port ∨ (up ∧ !(may && w.flag Reg.MG_EN port)) then w
    else { (w.setFlag Reg.MG_LINK_UP up port).setReady (6 + port) up with n.bo.mgtFirst := w.n.bo.mgtFirst || (named && up) }

/-! ## The watchdog (R445) -/

/-- `WATCHDOG_WARNING` (R491): less than 10 ms are left. -/
def execWatchdogWarning (s : State) : Host.Outcome State Fault Refusal :=
  run s fun w =>
    if !w.flag Reg.GLB_WDOG_ARMED then w
    else { (w.isr 0 17) with n.bo.wdogWarned := true, n.bo.wdogAt := min w.n.bo.wdogAt (w.ps + 10000000000) }

/-- `WATCHDOG_EXPIRED` (R445): Dark at once, and a warm reset 10 ms later. -/
def execWatchdogExpired (core : Nat) (s : State) : Host.Outcome State Fault Refusal :=
  run s fun w =>
    if !w.flag Reg.GLB_WDOG_ARMED then w
    else
      let w := w.report { code := 0x400C, page := 0, detail := core }
      let w := w.set Reg.GLB_WDOG_ARMED 0
      { w.fenceSelf with n.bo.warmAt := some (w.ps + 10000000000), n.bo.wdogAt := w.ps }

/-- `WATCHDOG_WARM_RESET` (R445): ten milliseconds have passed. -/
def execWatchdogWarmReset (s : State) : Host.Outcome State Fault Refusal :=
  run s fun w =>
    match w.n.bo.warmAt with
    | none => w
    | some t => if w.ps + w.periodPs < t then w else w.warmReset Reg.GLB_WATCHDOG

end Sys2Proof.Machine
end

