-- ==== Sys2Proof/Machine/Management.lean ====
section
/-!
DEFINITION. Sys2Proof/Machine/Management.lean: the orders of the management ports (R466 to R475): status, keys, identity, budget,
lease, fence, takeover (R397 to R405), reset, and the chunked reads and writes.
-/

namespace Sys2Proof.Machine

open Sys2Proof.Crypto (bytes32 kcv keyUnwrap)

/-! ## Status and keys -/

/-- Degrees Celsius, rounded to the nearest below, of the hottest of some sensors (1/8 °C), as one byte. -/
def hotByte (l : List Int) : Bytes := leBytes 1 (hottest l / 8).toNat

/-- A word of the register map as the physical function reads it. -/
def Work.word (w : Work) (b : Block) (off : Nat) : Nat := w.readReg .pf b 0 off

/-- The status block (R471); in recovery mode only bytes 0x0C, the node ID, and 0x0E are given. -/
def Work.statusBlock (w : Work) : Bytes :=
  let bits := (if w.n.mt.key.isSome then 1 else 0) + (if w.n.bo.recovery then 2 else 0) + 4 * w.get Reg.MG_LINK_UP 0 + 8 * w.get Reg.MG_LINK_UP 1
  if w.n.bo.recovery then leBytes 12 0 ++ leBytes 2 w.nodeId ++ leBytes 1 bits ++ leBytes 49 0
  else
    leBytes 4 (w.word .GLB 0x100) ++ leBytes 4 (w.word .GLB 0x104) ++ leBytes 4 (w.word .GLB 0x118) ++ leBytes 2 w.nodeId ++
    leBytes 1 bits ++ [0] ++ leBytes 4 (w.get Reg.GLB_FABRIC_ID) ++ leBytes 8 (w.now.toNat + w.get Reg.TICK_LOCK * 2 ^ 48) ++
    leBytes 4 (w.get Reg.MIR_FE) ++ leBytes 2 w.leaseLeft ++ leBytes 2 (w.get Reg.PWR_EFF_W) ++ leBytes 2 (w.get Reg.PWR_EST) ++
    hotByte (w.n.pw.temps.take 32) ++ hotByte (w.n.pw.temps.drop 32) ++ leBytes 4 (w.ps / 1000000000) ++
    leBytes 4 (w.get Reg.LOG_NEWEST) ++ leBytes 16 0

/-- The status block that the second I3C bus offers is refreshed every 1 ms, once firmware runs (R477). The target ignores every write, so a
transfer on that bus changes nothing of the node. -/
def Work.bmcRefresh (w : Work) : Work :=
  if w.ps < w.n.mt.bmcAt ∨ !w.flag Reg.GLB_FW_RUNNING then w
  else { w with n.mt.bmcBlock := w.statusBlock, n.mt.bmcAt := w.ps + 1000000000 }

/-- `STATUS` (R468, R471, R474). -/
def execStatusOrder (f : Frame) (s : State) : Host.Outcome State Fault Refusal :=
  run s fun w => w.mgOrder f 1 Reg.MG_R fun w r =>
    if r.body.isEmpty then w.mgRespond r stOK w.statusBlock else w.mgRespond r stInternal []

/-- A management key takes effect (R468): its check value, and an event with the epoch. -/
def Work.setMk (w : Work) (page : Nat) (k : BitVec 256) (raise : Bool) : Work :=
  let e := (w.get Reg.MG_MK_EPOCH 0 + (if raise then 1 else 0)) % 2 ^ 16
  let v := leVal (kcv k)
  let w := (w.set Reg.MG_MK_EPOCH e 0).set Reg.MG_MK_EPOCH e 1
  let w := (w.set Reg.MG_MK_KCV_LO v).set Reg.MG_MK_KCV_HI (v / 2 ^ 32)
  ({ w with n.mt.key := some k }).log { code := 0x4F01, page := page, detail := e }

/-- `SET_MK` (R468): the first key in clear, a later one wrapped under the key in force; the response goes under the old key. The
first key leaves the epoch, a later one raises it by one. -/
def execSetMk (f : Frame) (s : State) : Host.Outcome State Fault Refusal :=
  run s fun w => w.mgOrder f 2 Reg.MG_W fun w r =>
    let new := match w.n.mt.key with
      | none => if r.body.length = 32 then some (BitVec.ofNat 256 (leVal r.body)) else none
      | some mk => if r.body.length = 40 then keyUnwrap mk r.body else none
    match new with
    | none => w.mgRespond r stInternal []
    | some k => (w.setMk (6 + r.port) k w.n.mt.key.isSome).mgRespond r stOK []

/-- MGA_MK0 to MGA_MK7. -/
def mkFlds : List Fld := [Reg.MG_MK0, Reg.MG_MK1, Reg.MG_MK2, Reg.MG_MK3, Reg.MG_MK4, Reg.MG_MK5, Reg.MG_MK6, Reg.MG_MK7]

/-- `MK_WRITE` (R468, R483): the physical function writes MK; it applies on MGA_MK7 and raises the epoch. -/
def execMkWrite (wr : RegWr) (s : State) : Host.Outcome State Fault Refusal :=
  run s fun w =>
    let last := w.addresses wr .MG [0x19C]
    w.regAction wr .MG [0x180, 0x184, 0x188, 0x18C, 0x190, 0x194, 0x198, 0x19C] fun w _ _ =>
      if !last ∨ wr.be = 0 then w
      else (w.clearWords mkFlds).setMk 6 (BitVec.ofNat 256 (leVal (w.words mkFlds))) true

/-- `SET_IDS` (R452, R464): NODE_ID, FABRIC_ID and LOCK. -/
def execSetIds (f : Frame) (s : State) : Host.Outcome State Fault Refusal :=
  run s fun w => w.mgOrder f 3 Reg.MG_W fun w r =>
    let node := fieldAt r.body 0 2
    let lock := fieldAt r.body 6 1
    if r.body.length ≠ 7 ∨ 1 < lock ∨ w.flag Reg.GLB_IDS_LOCKED then w.mgRespond r stInternal []
    else if node = 0xFFFF then
      (w.capture { code := 0x4001, page := 0, arg := 0x10C, detail := 0xFFFF }).mgRespond r stInternal []
    else
      let w := { (w.set Reg.GLB_NODE_ID node).set Reg.GLB_FABRIC_ID (fieldAt r.body 2 4) with n.bo.fabricSet := true }
      (if lock = 1 then w.lockIds else w).mgRespond r stOK []

/-- `BUDGET` (R415, R471). -/
def execBudgetOrder (f : Frame) (s : State) : Host.Outcome State Fault Refusal :=
  run s fun w => w.mgOrder f 0x10 Reg.MG_B fun w r =>
    let b := PowerBudget.read r.body
    let v := w.budgetVerdict b
    let w := w.takeBudget b
    w.mgRespond r (if v = 0 then stOK else if v = 2 then stStale else stInternal)
      (leBytes 4 (w.get Reg.PWR_EFF_W + w.get Reg.PWR_A_P * 2 ^ 16))

/-! ## Leases and fencing (R397 to R399) -/

/-- An order of R399 that was obeyed is logged. -/
def Work.obeyed (w : Work) (r : MgReq) (arg : Nat) : Work := w.log { code := 0x5001, page := 6 + r.port, arg := arg, detail := r.type }

/-- The nodes with which this node has a service connection (R375). -/
def Work.servicePeers (w : Work) : List Nat := ((w.n.tp.conns.filter fun c => c.2.part = 0).map (·.2.peerNode)).dedup

/-- A lease of a length is accepted at an epoch (R397, R456): a higher epoch becomes FE, is presented on every service connection
(R395), starts reconciliation (R400), and ends a FENCE order. -/
def Work.takeLease (w : Work) (epoch ms : Nat) : Work :=
  let higher := w.get Reg.MIR_FE < epoch
  let w := (w.set Reg.MIR_VALID 1).set Reg.MIR_LEN_MS ms
  let w := { w with n.mi.leaseEndPs := some (w.ps + ms * 1000000000) }
  let w :=
    if higher then
      let w := (w.set Reg.MIR_FE epoch).log { code := 0x4B04, page := 0x74, detail := epoch }
      let w := w.servicePeers.foldl (fun w x => ((w.serviceConn x).map w.present).getD w) w
      { w.reconcileAll with n.mi.fenceOrdered := false, n.mi.fenced := false }
    else w
  w.advance

/-- `LEASE` (R397, R456, R471). -/
def execLeaseOrder (f : Frame) (s : State) : Host.Outcome State Fault Refusal :=
  run s fun w => w.mgOrder f 0x11 Reg.MG_C fun w r =>
    let epoch := fieldAt r.body 0 4
    let ms := fieldAt r.body 4 2
    let answer := fun (w : Work) (st : Nat) => w.mgRespond r st (leBytes 4 (w.get Reg.MIR_FE) ++ leBytes 2 w.leaseLeft)
    if r.body.length ≠ 6 ∨ ms < 100 ∨ 5000 < ms then w.mgRespond r stInternal []
    else if epoch < w.get Reg.MIR_FE then
      answer ((w.count Reg.MIR_LEASE_IGNORED).log { code := 0x4B03, page := 0x74, detail := epoch }) stStale
    else answer ((w.takeLease epoch ms).obeyed r epoch) stOK

/-- `FENCE` (R397, R399): Dark at once, until a LEASE of a higher epoch; the response goes once the node is Dark. -/
def execFenceOrder (f : Frame) (s : State) : Host.Outcome State Fault Refusal :=
  run s fun w => w.mgOrder f 0x12 Reg.MG_C fun w r =>
    if !r.body.isEmpty then w.mgRespond r stInternal []
    else
      let w := w.log { code := 0x4B02, page := 0x74, arg := r.mac / 2 ^ 16 % 2 ^ 32, detail := r.port }
      ({ w.fenceSelf with n.mi.fenceOrdered := true }).mgRespond r stOK []

/-- `FENCE_MIN` (R395, R399, R471): raises a node's FENCE_MIN; a lower value is refused. -/
def execFenceMinOrder (f : Frame) (s : State) : Host.Outcome State Fault Refusal :=
  run s fun w => w.mgOrder f 0x13 Reg.MG_C fun w r =>
    let node := fieldAt r.body 0 2
    let epoch := fieldAt r.body 2 4
    if r.body.length ≠ 6 then w.mgRespond r stInternal []
    else if epoch < w.get Reg.MIR_FENCE_MIN 0 node then w.mgRespond r stStale []
    else ((w.set Reg.MIR_FENCE_MIN epoch 0 node).obeyed r node).mgRespond r stOK []

/-! ## Takeover, reconciliation, orphans (R399 to R405) -/

/-- The takeover of a node's slices begins (R401): its streams stop, the batches that are incomplete are discarded, and a record
operation starts for every slice held, in the order in which the slices became known (DESIGN CHOICE, log 57). -/
def Work.takeover (w : Work) (x : Nat) : Work :=
  let mine := w.n.mi.inStreams.filter fun s : InStream => s.src = x && !s.stopped
  let w := (mine.map (·.pendingMeta)).flatten.foldl (fun w e => w.refuseBatch e.1 e.2.1 e.2.2 stMirror) w
  let stop := fun s : InStream => if s.src = x then { s with stopped := true, pendingMeta := [] } else s
  let from_ := fun conn : Nat => (w.connOf conn).any fun c => c.peerNode = x
  let w := ((w.n.mi.metaIn.filter fun e => from_ e.1).foldl (fun w e =>
    ({ w with n.mi.metaIn := w.n.mi.metaIn.filter fun y => !(y.1 = e.1 && y.2.1 = e.2.1) } : Work).completeMsg e.1 e.2.1 0 stMirror 0 0) w).endData
      (w.n.mi.dataIn.filter fun d => from_ d.conn) stMirror []
  let w := { w with n.mi.inStreams := w.n.mi.inStreams.map stop, n.mi.takenList := [] }
  let slices := (mine.map fun s : InStream =>
    (s.slices ++ s.oldSlices.filter fun y => !(s.slices.any fun z => z.cid = y.cid)).map fun y : CopySlice => (s.part, y.cid)).flatten
  if slices.isEmpty then
    (mine.foldl Work.dropIn w).log { code := 0x5002, page := 0x74, detail := 0 }
  else
    (slices.zip (List.range slices.length)).foldl (fun w e => w.startHome (.takeover x) (takingKey + e.2) e.1.1 e.1.2 x) w

/-- `TAKEOVER` (R399, R401): refused unless this node's own FENCE_MIN for the node is at least the epoch. -/
def execTakeoverOrder (f : Frame) (s : State) : Host.Outcome State Fault Refusal :=
  run s fun w => w.mgOrder f 0x14 Reg.MG_C fun w r =>
    let node := fieldAt r.body 0 2
    let epoch := fieldAt r.body 2 4
    if r.body.length ≠ 6 then w.mgRespond r stInternal []
    else if w.get Reg.MIR_FENCE_MIN 0 node < epoch then w.mgRespond r stStale []
    else ((w.obeyed r node).mgRespond r stOK []).takeover node

/-- `RECONCILE` (R399, R400). -/
def execReconcileOrder (f : Frame) (s : State) : Host.Outcome State Fault Refusal :=
  run s fun w => w.mgOrder f 0x15 Reg.MG_C fun w r =>
    if !r.body.isEmpty then w.mgRespond r stInternal []
    else ((w.reconcileAll).obeyed r 0).mgRespond r stOK []

/-- An order that names a slice: partition and CID. -/
def Work.sliceOrder (w : Work) (r : MgReq) (act : Work → Nat → DWord → Option Work) : Work :=
  let cid : DWord := BitVec.ofNat 64 (fieldAt r.body 1 8)
  if r.body.length ≠ 9 then w.mgRespond r stInternal []
  else match act w (fieldAt r.body 0 1) cid with
    | none => w.mgRespond r stInternal []
    | some w => (w.obeyed r cid.toNat).mgRespond r stOK []

/-- `ADOPT` (R399, R405): an orphaned slice is claimed at its home as now computed. -/
def execAdoptOrder (f : Frame) (s : State) : Host.Outcome State Fault Refusal :=
  run s fun w => w.mgOrder f 0x16 Reg.MG_C fun w r => w.sliceOrder r fun w p cid =>
    (w.n.pg.sessions.find? fun e => e.2.part = p && e.2.cid = cid && e.2.orphan).map fun e =>
      (w.setSession e.1 { e.2 with orphan := false }).reconcile e.1

/-- `DISCARD` (R399, R405): the session or the copy of a slice is freed; its record stays as it stands. -/
def execDiscardOrder (f : Frame) (s : State) : Host.Outcome State Fault Refusal :=
  run s fun w => w.mgOrder f 0x17 Reg.MG_C fun w r => w.sliceOrder r fun w p cid =>
    match w.n.pg.sessions.find? fun e => e.2.part = p && e.2.cid = cid with
    | some e => some (((w.endHomeRun e.1).dropHoldings e.1).freeSession e.1)
    | none =>
      let has := fun s : InStream => s.part = p && (s.slices ++ s.oldSlices).any fun y => y.cid = cid
      if !w.n.mi.inStreams.any has then none
      else
        some ((w.n.mi.inStreams.filter has).foldl (fun w s => w.putIn (s.discard cid)) w)

/-- `RESET` (R464, R470): answered, then a warm reset. -/
def execResetOrder (f : Frame) (s : State) : Host.Outcome State Fault Refusal :=
  run s fun w => w.mgOrder f 0x18 Reg.MG_C fun w r =>
    if r.body.length ≠ 2 ∨ fieldAt r.body 0 2 ≠ 0xB007 then w.mgRespond r stInternal []
    else (w.mgRespond r stOK []).warmReset Reg.GLB_WARM_MGMT

/-! ## Reads (R472, R473) -/

/-- `READ_REG` (R472): the registers in request order, with the effects of their reads. -/
def execReadReg (f : Frame) (s : State) : Host.Outcome State Fault Refusal :=
  run s fun w => w.mgOrder f 0x20 Reg.MG_R fun w r =>
    let n := fieldAt r.body 0 4
    let offs := (List.range n).map fun i => fieldAt r.body (4 + 4 * i) 4
    if n < 1 ∨ 256 < n ∨ r.body.length ≠ 4 + 4 * n ∨ offs.any fun o => o % 4 != 0 then w.mgRespond r stInternal []
    else
      let d := offs.foldl (fun (acc : Bytes × Work) o => let v := acc.2.busRead .pf o; (acc.1 ++ leBytes 4 v.1, v.2)) ([], w)
      d.2.mgRespond r stOK d.1

/-- `ATTEST` (R370, R473, R471): a nonce that differs from the port's kept one, at OFFSET 0, generates a report or certificate,
answered once it is written; any other returns bytes of the kept report. OVER_BUDGET while one is being written. -/
def execAttestOrder (f : Frame) (s : State) : Host.Outcome State Fault Refusal :=
  run s fun w => w.mgOrder f 0x21 Reg.MG_R fun w r =>
    let nonce := r.body.take 32
    let scope := fieldAt r.body 32 1
    let part := fieldAt r.body 33 1
    let cert := fieldAt r.body 34 1
    let kept := w.n.mt.reports.find? fun k => k.port = r.port
    if r.body.length ≠ 35 ∨ 1 < scope ∨ 63 < part ∨ 1 < cert then w.mgRespond r stInternal []
    else if w.attRunning then w.mgRespond r stOverBudget []
    else if r.offset = 0 ∧ (kept.map (·.nonce)) ≠ some nonce then
      let k : KeptReport := { port := r.port, nonce := nonce, scope1 := scope = 1, part := part, cert := cert = 1
                              ask := some { mac := r.mac, seq := r.seq, key := r.key, epoch := r.epoch }, bytes := none }
      { w with n.mt.reports := (w.n.mt.reports.filter fun x => x.port != r.port) ++ [k] }
    else match kept.bind (·.bytes) with
      | none => w.mgRespond r stInternal []
      | some b => w.mgRespond r stOK (reportPiece b r.offset)

/-- `CAL_READ` (R436, R473): 1,024 bytes of the flash region as stored. -/
def execCalRead (f : Frame) (s : State) : Host.Outcome State Fault Refusal :=
  run s fun w => w.mgOrder f 0x22 Reg.MG_R fun w r =>
    if !r.body.isEmpty ∨ 65536 < r.offset + 1024 then w.mgRespond r stInternal []
    else w.mgRespond r stOK (w.bytes (flashKey (calFlash + r.offset)) 1024)

/-- A prompt-book entry that is still held, in SRAM or in the ring (R410); entries written before stack 0 was in service are not in the
ring. -/
def Work.bookEntry (w : Work) (seq : Nat) : Option Bytes :=
  match w.n.log.find? fun e => e.seq = seq with
  | some e => some e.bytes
  | none =>
    if w.n.logSeq ≤ seq ∨ seq + 2097152 < w.n.logSeq ∨ !w.flag Reg.HBM_IN_SERVICE 0 then none
    else
      let b := w.bytes (ringBase + seq % 2097152 * 32) 32
      if b.all (· = 0) then none else some b

/-- The entry that a SEQ of 32 bits names, counted from reset: the newest that bears it, or one to come. -/
def Work.bookSeq (w : Work) (seq : Nat) : Nat :=
  let back := (w.n.logSeq % 2 ^ 32 + 2 ^ 32 - seq) % 2 ^ 32
  if back ≤ w.n.logSeq then w.n.logSeq - back else seq

/-- The oldest entry still held (R473). -/
def Work.oldestEntry (w : Work) : Nat :=
  let n := min w.n.logSeq 2097152
  (((List.range n).map (w.n.logSeq - n + ·)).find? fun s => (w.bookEntry s).isSome).getD w.n.logSeq

/-- `LOG_READ` (R412, R473): entries from a SEQ, or from the oldest still held. -/
def execLogRead (f : Frame) (s : State) : Host.Outcome State Fault Refusal :=
  run s fun w => w.mgOrder f 0x23 Reg.MG_R fun w r =>
    let seq := fieldAt r.body 0 4
    let n := fieldAt r.body 4 1
    if r.body.length ≠ 5 ∨ n < 1 ∨ 44 < n then w.mgRespond r stInternal []
    else
      let seq := w.bookSeq seq
      let first := if seq < w.n.logSeq ∧ (w.bookEntry seq).isNone then w.oldestEntry else seq
      w.mgRespond r stOK (leBytes 4 first ++ ((List.range n).filterMap fun i => w.bookEntry (first + i)).flatten)

/-- `USAGE` (R470, R481, R482): up to 1,408 bytes of a kept statement from OFFSET. -/
def execUsageOrder (f : Frame) (s : State) : Host.Outcome State Fault Refusal :=
  run s fun w => w.mgOrder f 0x24 Reg.MG_R fun w r =>
    let p := fieldAt r.body 0 1
    let n := fieldAt r.body 1 4
    let stmt : Option Bytes := (w.n.mt.meters.find? fun m => m.part = p).bind fun m : Meter16 =>
      (((m.kept ++ m.final.toList).map (·.2)).find? fun b => fieldAt b 8 4 = n)
    match (if r.body.length = 5 then stmt else none) with
    | none => w.mgRespond r stInternal []
    | some b => w.mgRespond r stOK ((b.drop r.offset).take 1408)

/-- `TAKEN_LIST` (R401, R470): up to 1,408 bytes of the last takeover list from OFFSET. -/
def execTakenListOrder (f : Frame) (s : State) : Host.Outcome State Fault Refusal :=
  run s fun w => w.mgOrder f 0x25 Reg.MG_R fun w r =>
    if r.body.isEmpty then w.mgRespond r stOK ((w.n.mi.takenList.drop r.offset).take 1408) else w.mgRespond r stInternal []

/-! ## Chunked writes (R474, R475) -/

/-- The stream that is open, unless it has been idle for 10 s (R474). -/
def Work.openStream (w : Work) : Option ChunkStream := w.n.mt.stream.filter fun t => w.ps < t.last + 10000000000000

/-- A chunk of a write of one kind: it continues the open stream, or opens one at OFFSET 0 (R474); OVER_BUDGET where it does not
continue the stream that is open. -/
def Work.chunk (w : Work) (r : MgReq) (image : Nat) (data : Bytes) (act : Work → ChunkStream → Work) : Work :=
  let next : ChunkStream := { port := r.port, mac := r.mac, image := image, next := r.offset + data.length, last := w.ps, token := [] }
  match w.openStream with
  | some t =>
    if t.port = r.port ∧ t.mac = r.mac ∧ t.image = image ∧ t.next = r.offset then act w { next with token := t.token ++ data }
    else w.mgRespond r stOverBudget []
  | none => if r.offset = 0 then act w { next with token := data } else w.mgRespond r stInternal []

/-- `IMAGE_WRITE` (R448, R474): a chunk of an image; the last one has the image verified under R366. In recovery mode an image that
verifies brings a warm reset. -/
def execImageWrite (f : Frame) (s : State) : Host.Outcome State Fault Refusal :=
  run s fun w => w.mgOrder f 0x30 Reg.MG_W fun w r =>
    let image := fieldAt r.body 0 1
    let data := r.body.drop 1
    if 1 < image ∨ data.isEmpty ∨ 1024 < data.length ∨ 0x02100000 < r.offset + data.length then w.mgRespond r stInternal []
    else if w.n.bo.running = some image ∧ w.n.bo.imgFailed.contains (1 - image) then w.mgRespond r stInternal []
    else w.chunk r image data fun w t =>
      let w := w.store (flashKey (imageFlash image + r.offset)) data
      if !bitOf r.flags 2 then { w with n.mt.stream := some { t with token := [] } }.mgRespond r stOK []
      else
        let ok := (w.imageFails image).isNone
        let w := ({ w with n.mt.stream := none }).log { code := 0x4F02, page := 6 + r.port, detail := image + (if ok then 2 else 0) }
        let w := w.mgRespond r (if ok then stOK else stInternal) []
        if ok && w.n.bo.recovery then w.warmReset Reg.GLB_RECOVERY else w

/-- `IMAGE_STREAM_IDLE` (R474): a stream idle for 10 s is abandoned. -/
def execImageStreamIdle (s : State) : Host.Outcome State Fault Refusal :=
  run s fun w =>
    match w.n.mt.stream with
    | none => w
    | some t => if w.ps + w.periodPs < t.last + 10000000000000 then w else { w with n.mt.stream := none }

/-- `DEBUG_TOKEN` (R475): a chunk of a token; the flash is programmed on the last one. -/
def execDebugToken (f : Frame) (s : State) : Host.Outcome State Fault Refusal :=
  run s fun w => w.mgOrder f 0x31 Reg.MG_W fun w r =>
    if r.body.isEmpty ∨ 1024 < r.body.length ∨ 4096 < r.offset + r.body.length then w.mgRespond r stInternal []
    else w.chunk r 2 r.body fun w t =>
      if !bitOf r.flags 2 then { w with n.mt.stream := some t }.mgRespond r stOK []
      else
        let w := (w.zero (flashKey tokenFlash) 4096).store (flashKey tokenFlash) t.token
        { w with n.mt.stream := none }.mgRespond r stOK []

/-- `DEBUG_CLEAR` (R475): the token is erased. -/
def execDebugClear (f : Frame) (s : State) : Host.Outcome State Fault Refusal :=
  run s fun w => w.mgOrder f 0x32 Reg.MG_W fun w r =>
    if r.body.isEmpty then (w.zero (flashKey tokenFlash) 4096).mgRespond r stOK [] else w.mgRespond r stInternal []

end Sys2Proof.Machine
end

