-- ==== Sys2Proof/Machine/TickSync.lean ====
section
/-!
DEFINITION. Sys2Proof/Machine/TickSync.lean: HELLO and the fabric's time (R28 to R32, R252, R260 to R268). Commands HELLO,
TICK_MARK, TICK_SOURCE_LOST, TICK_SWITCH_WRITE, PERIOD_SWITCH, TICK_LOAD, TICK_IN_EDGE, TICK_IN_LOST.
-/

namespace Sys2Proof.Machine

open Sys2Proof.Crypto (beVal beBytes)

/-! ## Sources (R262, R263) -/

/-- TICK_STAT.LOCK changes. -/
def Work.setLock (w : Work) (v : Nat) : Work :=
  let w := if v = 2 then { w with n.tk.lockedOnce := true } else w
  if w.get Reg.TICK_LOCK = v then w else (w.set Reg.TICK_LOCK v).isr 1 16

/-- A peer's TICK byte says locked or master, and how many hops. -/
def Half.peerLocked (x : Half) : Bool := x.peerTick % 4 = 2 || bitOf x.peerTick 2
def Half.peerHops (x : Half) : Nat := if bitOf x.peerTick 2 then 0 else bitsOf x.peerTick 4 3

/-- Ports that may be the source, but for hops, less one that has just been lost. -/
def Work.tickPorts (w : Work) (but : Option (Nat × Nat)) : List (Nat × Nat) :=
  (List.range 32).flatMap fun p => ((w.halvesOf p).filter fun h =>
    let x := w.half p h
    w.portState p h = 5 && w.flag Reg.LP_TICK_ELIG p && !w.flag Reg.LP_MARK_BAD p && x.peerLocked && decide (x.missed < 4) &&
      but != some (p, h)).map fun h => (p, h)

/-- TICK_IN may be the source (R263). -/
def Work.tickInOk (w : Work) : Bool := w.flag Reg.GLB_TICK_FALLBACK_EN && w.n.tk.inValid

/-- SRC_IN and TICK_SRC read the same. -/
def Work.setSrcIn (w : Work) (b : Bool) : Work := (w.setFlag Reg.TICK_SRC_IN b).setFlag Reg.GLB_TICK_SRC b

/-- No port is marked as the source. -/
def Work.clearSrcPort (w : Work) : Work :=
  if w.flag Reg.TICK_SRC_IN then w else w.set Reg.LP_TICK_SRC 0 (w.get Reg.TICK_SRC_PORT)

/-- The source a node would take: the fewest peer hops, then the lowest port, then half A; TICK_IN after the ports, or before
them when SRC_PREF is 1 (R262, R263). -/
def Work.bestSource (w : Work) (but : Option (Nat × Nat)) : Option (Option (Nat × Nat)) :=
  let ports := (w.tickPorts but).filter fun e => decide ((w.half e.1 e.2).peerHops ≤ 5)
  let best := (List.range 6).findSome? fun n => ports.find? fun e => (w.half e.1 e.2).peerHops = n
  let tin : Option (Option (Nat × Nat)) := if w.tickInOk then some none else none
  let byPort : Option (Option (Nat × Nat)) := best.map some
  if w.actFlag Reg.TICK_SRC_PREF then tin.orElse fun _ => byPort else byPort.orElse fun _ => tin

/-- Take a source, or find none within six hops; answers whether one was taken. -/
def Work.takeSource (w : Work) (but : Option (Nat × Nat)) : Bool × Work :=
  match w.bestSource but with
  | some (some (p, h)) =>
    let w := ((w.set Reg.TICK_SRC_PORT p).set Reg.TICK_SRC_HALF h).set Reg.TICK_HOPS ((w.half p h).peerHops + 1)
    (true, (((w.setSrcIn false).set Reg.LP_TICK_SRC 1 p).set Reg.TICK_OUT_OF_BUDGET 0).setLock 1)
  | some none => (true, (((w.setSrcIn true).set Reg.TICK_HOPS 1).set Reg.TICK_OUT_OF_BUDGET 0).setLock 1)
  | none =>
    if w.flag Reg.TICK_OUT_OF_BUDGET then (false, w)
    else
      let hops := (w.tickPorts but).map fun e => (w.half e.1 e.2).peerHops
      (false, (w.set Reg.TICK_OUT_OF_BUDGET 1).report { code := 0x4603, page := 1, detail := hops.foldl min 7 })

/-- A node that is no master and has no source looks for one (R262). -/
def Work.seekSource (w : Work) : Work :=
  if w.actFlag Reg.TICK_MASTER ∨ w.get Reg.TICK_LOCK ≠ 0 then w else (w.takeSource none).2

/-- The half is this node's source. -/
def Work.isSource (w : Work) (p h : Nat) : Bool :=
  !w.actFlag Reg.TICK_MASTER && w.get Reg.TICK_LOCK != 0 && !w.flag Reg.TICK_SRC_IN && w.get Reg.TICK_SRC_PORT = p &&
    w.get Reg.TICK_SRC_HALF = h

/-- The source is lost (R263, R32): the next one, or holdover. -/
def Work.loseSource (w : Work) : Work :=
  let but := if w.flag Reg.TICK_SRC_IN then none else some (w.get Reg.TICK_SRC_PORT, w.get Reg.TICK_SRC_HALF)
  let w := { w.clearSrcPort with n.tk.due := 0 }
  let r := w.takeSource but
  if r.1 then
    let w := r.2
    let src := if w.flag Reg.TICK_SRC_IN then 64 else w.get Reg.TICK_SRC_PORT + 32 * w.get Reg.TICK_SRC_HALF
    (w.count Reg.TICK_SRC_CHANGES).log { code := 0x4602, page := 1, detail := src }
  else ((r.2.setSrcIn false).set Reg.TICK_HOPS 7).setLock 0 |>.report { code := 0x4604, page := 1 }

/-- A source in Full state that reports another time or period (R264). -/
def Work.badSource (w : Work) (p peerNow : Nat) : Work :=
  let w := w.set Reg.LP_MARK_BAD 1 p
  (w.report { code := 0x4606, page := 1, status := stInternal, arg := p, detail := peerNow % 2 ^ 32 }).loseSource

/-! ## HELLO (R252, R255, R262, R264) -/

/-- `HELLO`. -/
def execHelloFlit (port half : Nat) (flit : Bytes) (s : State) : Host.Outcome State Fault Refusal :=
  run s fun w =>
    let st := w.portState port half
    if !w.hasHalf port half || decide (st < 4) then w
    else w.flitCheck port flit 1 fun w =>
      let node := beAt flit 2 2
      let tick := beAt flit 0xA 1
      let period := beAt flit 0xC 2 % 1024
      let peerNow := beAt flit 0x10 8 % 2 ^ 48
      let w := w.modHalf port half fun x =>
        { x with peerNode := node, peerTick := tick, peerPeriod := period }
      let w := ((w.set Reg.LP_NODE node port).set Reg.LP_PORT (beAt flit 8 1) port).set Reg.LP_STATE (beAt flit 9 1 % 8) port
      let w := w.set Reg.LP_TICK (tick % 32) port
      let w := if w.actFlag Reg.TICK_MASTER ∧ bitOf tick 2 then w.report { code := 0x4605, page := 1, arg := node } else w
      let same := decide (beAt flit 4 4 = w.get Reg.GLB_FABRIC_ID ∧ period = w.get Reg.TICK_PERIOD)
      let w :=
        if st = 4 ∨ st = 7 then
          if same then (w.enterUp port half).rehRetrain (port / 16)
          else if st = 4 then
            (w.setPort port half 7).report { code := 0x4701, page := 0x50 + port, arg := node, detail := port + half * 32 }
          else w
        else if w.isFull && w.isSource port half && period != w.get Reg.TICK_PERIOD then w.badSource port peerNow
        else w
      w.seekSource

/-! ## Markers (R260, R261, R264, R265) -/

/-- Number the running tick anew (R264, R266): the sheets follow. -/
def Work.setNow (w : Work) (t : Tick) : Work :=
  { w with n.tk.now := t, n.qa.cur := { w.n.qa.cur with tick := t }, n.qa.next := { w.n.qa.next with tick := t + BitVec.ofNat 48 (w.repTicks - t.toNat % w.repTicks) } }

/-- Record a measured offset (R31, R261): the register, the largest of the last 1,024 ticks, and in Full state the event beyond
25 ns. `seen` is how many boundaries ago it held, so what has been slewed since is no longer due. -/
def Work.setOffset (w : Work) (th : Int) (seen : Nat) : Work :=
  let since := if seen = 0 then w.n.tk.slew else w.n.tk.slew + w.n.tk.prevSlew
  let mx := match w.n.tk.thetaMax with
    | a :: r => max a th.natAbs :: r
    | [] => [th.natAbs]
  let w := { w with n.tk.due := th - since, n.tk.thetaMax := mx }
  let w := (w.set Reg.TICK_OFFSET (toField 16 th)).set Reg.TICK_OFFSET_MAX (min 65535 (mx.foldl max 0))
  if w.isFull ∧ 400 < th.natAbs then
    ((w.count Reg.TICK_BUDGET_EVENTS).isr 1 17).log { code := 0x4601, page := 1, detail := toField 32 th }
  else w

/-- A first lock steps the boundary, and the period to the source port's (R264): no offset is left. Edges of TICK_IN are seen from the
boundary, so the last one moves against it. -/
def Work.stepBoundary (w : Work) (th : Int) : Work :=
  let w := { w with n.tk.due := 0, n.tk.upPs := ((w.ps : Int) - th * 125 / 2).toNat, n.tk.inLast := w.n.tk.inLast.map (· + th * 125 / 2) }
  let period := (w.half (w.get Reg.TICK_SRC_PORT) (w.get Reg.TICK_SRC_HALF)).peerPeriod
  let w := if w.flag Reg.TICK_SRC_IN ∨ period < 4 ∨ 512 < period then w else w.set Reg.TICK_PERIOD period
  (w.set Reg.TICK_OFFSET 0).setLock 2

/-- An offset measured while acquiring or locked: in Dark and Rehearsal a first lock steps; else the node slews, and is locked
once it is within 25 ns (DESIGN CHOICE, log 31). -/
def Work.applyOffset (w : Work) (th : Int) (seen : Nat) : Work :=
  if w.get Reg.TICK_LOCK = 1 ∧ ¬ w.isFull ∧ ¬ w.n.tk.lockedOnce then w.stepBoundary th
  else
    let w := w.setOffset th seen
    if th.natAbs ≤ 400 then w.setLock 2 else w

/-- θ and the one-way delay, in 1/16 ns, from the markers of one tick (R261); SCLK cycles are 10 units. -/
def theta (dU aD dD aU alpha : Int) : Int := (((aU - dD) - (aD - dU)) * 10 + alpha) / 2
def oneWay (dU aD dD aU : Int) : Int := ((aD - dU) + (aU - dD)) * 10 / 2

/-- A marker of the source: tick number, offset, and a period change to pass on. -/
def Work.followMark (w : Work) (p h : Nat) (flit : Bytes) : Work :=
  let x := w.half p h
  let tick : Tick := BitVec.ofNat 48 (beAt flit 2 6)
  let w := w.set Reg.TICK_HOPS (min 7 (x.peerHops + 1))
  if tick ≠ w.now ∧ w.isFull then w.badSource p (beAt flit 2 6)
  else
    let w := if tick ≠ w.now ∧ w.get Reg.TICK_LOCK = 1 ∧ ¬ w.n.tk.lockedOnce then w.setNow tick else w
    let k := beAt flit 0xE 6
    let mine := (x.mark.toList ++ x.prevMark.toList).find? fun m => m.tick = k
    let w : Work := match mine with
      | some m =>
        let dD : Int := (beAt flit 0x14 4 % 2 ^ 24 : Nat)
        let aU := ofField 24 (beAt flit 0x18 4 % 2 ^ 24)
        let alpha := ofField 16 (w.get Reg.LP_ASYM p)
        let w := w.set Reg.LP_DELAY (toField 24 (oneWay m.depart m.arrive dD aU)) p
        w.applyOffset (theta m.depart m.arrive dD aU alpha) (ticksTo (BitVec.ofNat 48 k) w.now)
      | none => w
    let nx := beAt flit 0x1C 2
    if bitOf nx 15 ∧ w.get Reg.TICK_LOCK = 2 then
      let at_ := beAt flit 0x20 6
      let w := { w with n.tk.pending := true, n.tk.nextPeriod := nx % 1024, n.tk.switchAt := BitVec.ofNat 48 at_ }
      ((w.set Reg.TICK_NEXT (nx % 1024)).set Reg.TICK_SWITCH_LO (at_ % 2 ^ 32)).set Reg.TICK_SWITCH_HI (at_ / 2 ^ 32) |>.set
        Reg.TICK_PENDING 1
    else w

/-- `TICK_MARK` (R260 to R265): a peer's marker with its arrival in SCLK cycles from this node's boundary. -/
def execTickMark (port half : Nat) (flit : Bytes) (arrive : Int) (s : State) : Host.Outcome State Fault Refusal :=
  run s fun w =>
    if !w.hasHalf port half || w.portState port half != 5 then w
    else w.flitCheck port flit 3 fun w =>
      let fl := beAt flit 1 1
      let m : Mark := { tick := beAt flit 2 6, depart := beAt flit 8 4 % 2 ^ 24, arrive := arrive }
      let w := w.modHalf port half fun x =>
        let byte := (if bitOf fl 0 then (if bitOf x.peerTick 2 then 4 else 2) else 0) + (if bitOf x.peerTick 3 then 8 else 0) +
          bitsOf fl 1 3 * 16
        { x with prevMark := x.mark, mark := some m, markSeen := true, missed := 0, peerTick := byte }
      let w := w.seekSource
      if w.isSource port half then w.followMark port half flit else w

/-- `TICK_SOURCE_LOST` (R263): four markers missing, the port no longer Up or in Recover, or ticks that do not follow. -/
def execTickSourceLost (why : SourceLoss) (s : State) : Host.Outcome State Fault Refusal :=
  run s fun w =>
    let p := w.get Reg.TICK_SRC_PORT
    let h := w.get Reg.TICK_SRC_HALF
    let x := w.half p h
    let lost := match why with
      | .missing => decide (4 ≤ x.missed)
      | .portDown => !w.portLive p h
      | .discontinuous => (match x.prevMark, x.mark with
        | some a, some b => decide ((a.tick + 1) % 2 ^ 48 ≠ b.tick)
        | _, _ => false)
    if w.isSource p h && lost then w.loseSource else w

/-! ## Period and number -/

/-- `TICK_SWITCH_WRITE` (R265): on the master, at least 1,024 ticks ahead. -/
def execTickSwitchWrite (wr : RegWr) (s : State) : Host.Outcome State Fault Refusal :=
  run s fun w => w.regAction wr .TICK [0x110] fun w _ _ =>
    if !fieldEnabled wr Reg.TICK_SWITCH_HI then w else
    let at_ := w.get Reg.TICK_SWITCH_LO + w.get Reg.TICK_SWITCH_HI * 2 ^ 32
    let w := { w with n.tk.pending := true, n.tk.nextPeriod := w.get Reg.TICK_NEXT, n.tk.switchAt := BitVec.ofNat 48 at_ }
    w.set Reg.TICK_PENDING 1

/-- `PERIOD_SWITCH` (R265): at the boundary of SWITCH_AT. -/
def execPeriodSwitch (s : State) : Host.Outcome State Fault Refusal :=
  run s fun w =>
    if w.n.tk.pending && w.reached w.n.tk.switchAt then
      let p := w.n.tk.nextPeriod
      let w := { w with n.tk.pending := false }
      ((w.set Reg.TICK_PERIOD p).set Reg.TICK_PENDING 0).log { code := 0x4607, page := 1, detail := p }
    else w

/-- `TICK_LOAD` (R266): the number of the running tick, before any lock. -/
def execTickLoad (wr : RegWr) (s : State) : Host.Outcome State Fault Refusal :=
  run s fun w => w.regAction wr .TICK [0x134] fun w _ _ =>
    if !fieldEnabled wr Reg.TICK_LOAD_HI then w else
    let t := w.get Reg.TICK_LOAD_LO + w.get Reg.TICK_LOAD_HI * 2 ^ 32
    w.setNow (BitVec.ofNat 48 t)

/-! ## TICK_IN (R266) -/

/-- The time of an edge from the start of the running tick, by its distance from the boundary nearest to it: that start, or the boundary to
come. -/
def Work.inEdgeAt (w : Work) (dev : Int) : Int := if dev < 0 then w.tickPs + dev else dev

/-- The periods since the last edge that have passed by some time, each up to half a period beyond its expected edge. -/
def Work.inDue (w : Work) (t : Int) : Nat :=
  match w.n.tk.inLast with
  | some l => ((t - l - w.periodPs / 2) / w.periodPs).toNat
  | none => 0

/-- How far an edge is from the expected time, a whole number of periods from the last. -/
def Work.inOff (w : Work) (t : Int) : Nat :=
  match w.n.tk.inLast with
  | some l => (t - l - (w.inDue t + 1) * w.periodPs).natAbs
  | none => 0

/-- The edges missing by some time are counted with those ignored. -/
def Work.inMissed (w : Work) (t : Int) : Work :=
  let due := w.inDue t
  if due ≤ w.n.tk.inGap then w
  else { w with n.tk.inBad := w.n.tk.inBad + (due - w.n.tk.inGap), n.tk.inGap := due, n.tk.inGood := 0 }

/-- Four edges ignored or missing in a row make TICK_IN lost. -/
def Work.tickInGone (w : Work) : Work :=
  if w.n.tk.inLast.isNone ∨ w.n.tk.inBad < 4 then w
  else
    let w := { w with n.tk.inValid := false, n.tk.inGood := 0, n.tk.inBad := 0, n.tk.inGap := 0, n.tk.inLast := none }
    if !w.actFlag Reg.TICK_MASTER && w.get Reg.TICK_LOCK != 0 && w.flag Reg.TICK_SRC_IN then w.loseSource else w

/-- `TICK_IN_EDGE`: an edge, in ps from this node's boundary nearest to it. -/
def execTickInEdge (dev : Int) (s : State) : Host.Outcome State Fault Refusal :=
  run s fun w =>
    let t := w.inEdgeAt dev
    let w := (w.inMissed t).tickInGone
    let off := w.inOff t
    let due := w.inDue t
    if 50000 < off then
      { w.count Reg.TICK_IN_IGNORED with n.tk.inBad := w.n.tk.inBad + 1, n.tk.inGap := max w.n.tk.inGap (due + 1), n.tk.inGood := 0 }
    else
      let good := if due = 0 ∧ off ≤ 1000 then w.n.tk.inGood + 1 else 1
      let w := { w with n.tk.inLast := some t, n.tk.inBad := 0, n.tk.inGap := 0, n.tk.inGood := good,
                        n.tk.inValid := w.n.tk.inValid || decide (16 ≤ good) }
      let w := w.seekSource
      if !w.actFlag Reg.TICK_MASTER && w.get Reg.TICK_LOCK != 0 && w.flag Reg.TICK_SRC_IN then
        w.applyOffset (-(dev * 16 / 1000 + ofField 16 (w.acting Reg.TICK_IN_ADJ))) 0
      else w

/-- `TICK_IN_LOST`: four edges in a row ignored or missing. -/
def execTickInLost (s : State) : Host.Outcome State Fault Refusal :=
  run s fun w => w.tickInGone

end Sys2Proof.Machine
end

