-- ==== Sys2Proof/Machine/Boundary.lean ====
section
/-!
DEFINITION. Sys2Proof/Machine/Boundary.lean: a tick boundary and its fixed work (R28 to R31, R34, R38, R40, R45, R70, R204, R260,
R267, R377, R400, R422, R427, R433, R458). Command TICK_BOUNDARY.
-/

namespace Sys2Proof.Machine

open Sys2Proof.Crypto (beBytes)

/-! ## Time (R28, R31) -/

/-- The next tick begins: TICK_NOW advances, and at most 2 ns of what is due are slewed in it (R28, R31). -/
def Work.advanceTick (w : Work) : Work :=
  let s : Int := max (-32) (min 32 w.n.tk.due)
  let mx := (0 :: w.n.tk.thetaMax).take 1024
  let w := { w with n.tk.inLast := w.n.tk.inLast.map (· - (w.tickPs : Int)), n.tk.upPs := w.n.tk.upPs + w.tickPs, n.tk.now := w.n.tk.now + 1, n.tk.prevSlew := w.n.tk.slew, n.tk.slew := s
                    n.tk.due := w.n.tk.due - s, n.tk.thetaMax := mx }
  w.set Reg.TICK_OFFSET_MAX (min 65535 (mx.foldl max 0))

/-! ## The sheet that closes (R40, R70) -/

/-- A tile has been attended by some query of the sheet. -/
def Sheet.attended (s : Sheet) (t : Nat) : Bool := s.queries.any fun q => q.2.rbs.any fun r => r.done.contains t

/-- Courses attended on a sheet gain heat once (R70). -/
def Work.heatSheet (w : Work) (s : Sheet) (stamp : Word) : Work :=
  (((s.tiles.filter fun t => s.attended t.1).map fun t => t.2.course).dedup).foldl (fun w ci =>
    w.modCourse ci fun c => c.heated (w.get Reg.SPL_ATTEND_INC) stamp) w

/-- A spill whose source the closing sheet has pinned counts one more; at three in a row it is abandoned (R40). -/
def Work.spillsPinned (w : Work) (s : Sheet) : Work :=
  w.n.st.moves.foldl (fun w e =>
    match w.course e.2.course with
    | some c =>
      if e.2.dst.tier ≤ c.loc.tier then w
      else if !(s.tiles.any fun t => t.2.course = e.2.course && !t.2.fromDst) then w.modMove e.1 fun m => { m with pinnedSheets := 0 }
      else if 3 ≤ e.2.pinnedSheets + 1 then w.abandonMove e.1
      else w.modMove e.1 fun m => { m with pinnedSheets := m.pinnedSheets + 1 }
    | none => w) w

/-- The sheet of the tick that ends closes (R40): its pages are unpinned and what waited for them is freed. -/
def Work.closeSheet (w : Work) (stamp : Word) : Work :=
  let s := w.n.qa.cur
  let w := w.heatSheet s stamp
  let w := (List.range 26).foldl (fun w c => w.set Reg.CL_BUSY_CYC (min 65535 (numN c w.n.cl.busy)) c) w
  let w := { w with n.qa.cur := s.shut, n.qa.ports := [], n.qa.resultsHeld := [], n.cl.busy := [], n.cl.spent := [], n.cl.ueInSheet := []
                    n.cl.inArrays := [], n.cl.lastPass := [] }
  (w.spillsPinned s).freeDying

/-! ## The sheet that freezes (R34, R50) -/

/-- The sheet being built freezes and runs; the next one opens (R34, R40). `ns` is the length of the sheet that ends. -/
def Work.freezeSheet (w : Work) (ns : Nat) : Work :=
  let w := w.settleSheet.faultSwapsTake.weightsTake
  let w := { w with n.cl.pvBf16 := w.flag Reg.CL_PV_BF16, n.cl.decoded := w.n.cl.decodedNext, n.cl.decodedNext := [] }
  let s := w.n.qa.next
  let tiles := s.tiles.map fun t : Nat × Tile => (t.1, w.tileAtFreeze t.2)
  let seen := s.queries.foldl (fun (a : List (Nat × Tile) × List (Nat × Query)) q =>
    let r := w.seenRows (a.2 ++ s.queries.filter fun x => x.1 != q.1 && (lookupN x.1 a.2).isNone) a.1 q.2
    (r.1, a.2 ++ [(q.1, r.2)])) (tiles, [])
  let tiles := seen.1
  let queries := seen.2
  let sheet : Sheet := { tick := w.now, state := .running, queries := queries, tiles := tiles }
  let b := w.n.qa.budget
  let open_ := Sheet.empty (w.now + BitVec.ofNat 48 w.repTicks) .open
  let w := ({ w with n.qa.cur := sheet, n.qa.next := open_, n.qa.budget := b.carried ns, n.qa.lastBudget := b }).loadBooks
  let w := if b.lent then w else w.set Reg.CST_LENT 0
  let w := b.partCost.foldl (fun w e => w.set Reg.SCH_USED 0 0 e.1) w
  let w := w.showPool.set Reg.QAD_LAST_QUERIES (min 8191 queries.length)
  let w := w.set Reg.QAD_LAST_TILES (min 65535 tiles.length)
  queries.foldl (fun w q => w.sendCredits q.2) w

/-- Sheets at a boundary: none while Dark; in Rehearsal one in every rehearsal tick (R458). -/
def Work.sheetBoundary (w : Work) (ns : Nat) (stamp : Word) : Work :=
  if w.isDark then
    let w := (w.closeSheet stamp).settle sheetFields
    { w with n.qa.budget := Budget.empty, n.qa.lastBudget := Budget.empty, n.qa.next := { w.n.qa.next.shut with tick := w.now + 1 } }
  else if w.now.toNat % w.repTicks = 0 then (w.closeSheet stamp).freezeSheet ns
  else w

/-! ## Margins (R45, R86, R433) -/

/-- A walk tick: the stack's next pseudo-channel is walked; its margins are free values. One below the threshold is counted, and
re-centred when that is enabled. No listed code logs it (R498). -/
def Work.walkPseudo (w : Work) (s : Nat) : Work :=
  let pc := atD w.n.pw.walkPc s 0
  let a := w.draw
  let b := a.2.draw
  let c := b.2.draw
  let (tl, tr, v) := (a.1 % 256, b.1 % 256, c.1 % 256)
  let i := s * 64 + pc
  let w := { c.2 with n.pw.walkPc := c.2.n.pw.walkPc.set s ((pc + 1) % 64) }
  let w := ((w.set Reg.MAR_T_LEFT tl 0 i).set Reg.MAR_T_RIGHT tr 0 i).set Reg.MAR_V_MV_124 v 0 i
  if tl < w.get Reg.MAR_T_MIN ∨ tr < w.get Reg.MAR_T_MIN ∨ v < w.get Reg.MAR_V_MIN then
    let w := w.count Reg.MAR_HBM_EVENTS
    if w.flag Reg.MAR_RECENTRE_EN then w.count Reg.MAR_RECENTRES else w
  else w

/-- Row repair in a stack's walk tick (R86): of the retired frames that every page has left and whose row is not yet repaired, a free number
is repaired, as far as the repair rows go (log 120). -/
def Work.rowRepair (w : Work) (s : Nat) : Work :=
  let ready := w.n.st.retiredFrames.filter fun f => f / slotFrames = s && !w.n.st.repaired.contains f && w.rowLeft f
  if w.flag Reg.HBM_HARD_REPAIR_EN s && w.flag Reg.GLB_MEM_REPAIR_EN && !ready.isEmpty then
    let d := w.draw
    let left := w.get Reg.HBM_REPAIR_FREE s
    let n := min (d.1 % (min left ready.length + 1)) (255 - w.get Reg.HBM_REPAIR_USED s)
    let w := { d.2 with n.st.repaired := d.2.n.st.repaired ++ ready.take n }
    let w := (w.set Reg.HBM_REPAIR_USED (w.get Reg.HBM_REPAIR_USED s + n) s).set Reg.HBM_REPAIR_FREE (left - n) s
    w.setFlag Reg.HBM_REPAIRING (n != 0) s
  else w

/-- The margin walk of the tick that begins. -/
def Work.marginWalk (w : Work) : Work :=
  let on := fun s => w.flag Reg.MAR_HBM_EN && w.stackReady s && decide (walkStack w.now = some s)
  let w := (List.range 8).foldl (fun w s => (w.setFlag Reg.HBM_WALK (on s) s).set Reg.HBM_REPAIRING 0 s) w
  let w := { w with n.pw.walking := (List.range 8).find? on }
  match w.n.pw.walking with
  | some s => (w.walkPseudo s).rowRepair s
  | none => w

/-! ## Loads of the tick that ended -/

/-- Bytes that a stack has read, the die-to-die loads, the longest merge drain and what the mirror engine reserves: measured
quantities the spec gives no number for, free within their bounds (log 47). -/
def Work.tickLoads (w : Work) : Work :=
  let w := (w.set Reg.SPL_MOVED_SPILL (min 65535 (w.n.st.movedSpill / 1024))).set Reg.SPL_MOVED_PROMOTE
    (min 65535 (w.n.st.movedPromote / 1024))
  let w := { w with n.st.movedSpill := 0, n.st.movedPromote := 0, n.st.rdBytes := [] }
  let w := w.readyStacks.foldl (fun w s =>
    let d := w.draw
    { d.2 with n.st.rdBytes := insertN s (d.1 % (2048 * w.periodNs + 1)) d.2.n.st.rdBytes }) w
  let w : Work := if w.flag Reg.CST_UP then
      let a := w.draw
      let b := a.2.draw
      (b.2.set Reg.CST_LOAD_01 (a.1 % 1001)).set Reg.CST_LOAD_10 (b.1 % 1001)
    else (w.set Reg.CST_LOAD_01 0).set Reg.CST_LOAD_10 0
  -- errors corrected in the cluster buffers and on PCIe: no command stands for one (log 47)
  let ce := w.draw
  let w := (List.range 26).foldl (fun w c => w.count Reg.CL_BUF_CE (ce.1 / 256 ^ c % 256) c) ce.2
  let w := w.count Reg.PCI_CE_CNT (ce.1 / 256 ^ 26 % 256)
  let w : Work := if w.isDark then w else
    let d := w.draw
    d.2.set Reg.MRG_DRAIN_MAX (d.1 % 181)
  if (w.n.mi.streams.any fun s => s.state = .seeding || s.state = .streaming || s.state = .behind) || !w.n.mi.inStreams.isEmpty then
    let d := w.draw
    let floor := 2048 * (w.periodAt (w.now + 1) * 125) * w.get Reg.CST_MIRROR_FLOOR / 100 * w.servingStacks.length
    { d.2 with n.st.mirrorReserved := d.1 % (floor + 1) }
  else { w with n.st.mirrorReserved := 0 }

/-! ## Links and outputs (R255, R260, R263, R267) -/

/-- SCLK cycles (1.6 GHz) within which a marker leaves after its boundary (R260): the first codeword that starts then is at most one
codeword away, of 5.3125 ns at full rate on eight lanes, and an alignment round in its place takes as long again. -/
def Work.markSpan (w : Work) (p : Nat) : Nat :=
  17 * (if w.flag Reg.LP_RATE64 p then 2 else 1) * (if w.flag Reg.LP_SPLIT p then 2 else 1)

/-- The TICK_MARK flit of a half (R260); its departure is a free value within the codeword's time. -/
def Work.sendMark (w : Work) (p h : Nat) : Work :=
  let d := w.draw
  let w := d.2
  let x := w.half p h
  let master := w.actFlag Reg.TICK_MASTER
  let hops := if master then 0 else w.get Reg.TICK_HOPS
  let fl := (if master || w.get Reg.TICK_LOCK = 2 then 1 else 0) + hops * 2
  let e := x.mark.getD { tick := 0, depart := 0, arrive := 0 }
  let nx := if w.n.tk.pending then w.n.tk.nextPeriod + 2 ^ 15 else w.get Reg.TICK_PERIOD
  w.ctrlFlit p h (beBytes 1 3 ++ beBytes 1 fl ++ beBytes 6 w.now.toNat ++ beBytes 4 (d.1 % w.markSpan p) ++ beBytes 2 0 ++ beBytes 6 e.tick ++
    beBytes 4 e.depart ++ beBytes 4 (toField 24 e.arrive) ++ beBytes 2 nx ++ beBytes 2 0 ++
    beBytes 6 (if w.n.tk.pending then w.n.tk.switchAt.toNat else 0))

/-- A marker that has not come to a half Up or in Recover is missed (R250, R263), every Up half sends one (R260), and a changed HELLO
follows (R255). -/
def Work.markPorts (w : Work) : Work :=
  (List.range 32).foldl (fun w p => (w.halvesOf p).foldl (fun w h =>
    let w : Work := if w.portLive p h then
        let x := w.half p h
        let w := if x.markSeen then w else w.count Reg.LP_MARKS_MISSED 1 p
        let w := w.modHalf p h fun x : Half => { x with markSeen := false, missed := if x.markSeen then x.missed else x.missed + 1 }
        if w.portState p h = 5 then w.sendMark p h else w
      else w
    w.helloIfChanged p h) w) w

/-- TICK_OUT (R267), with OUT_ADJ in ps. -/
def Work.tickOut (w : Work) : Work :=
  if w.actFlag Reg.TICK_OUT_EN && w.n.tk.lockedOnce then w.emit (.tickOut (ofField 16 (w.acting Reg.TICK_OUT_ADJ) * 125 / 2)) else w

/-- TICK_CTRL.MASTER as a boundary finds it (R262, R268): a master has no hops and no source; a node that is one no longer has none. -/
def Work.masterBoundary (w : Work) : Work :=
  if w.actFlag Reg.TICK_MASTER then
    let w := { w.clearSrcPort.setSrcIn false with n.tk.due := 0 }
    ((w.set Reg.TICK_HOPS 0).set Reg.TICK_OUT_OF_BUDGET 0).setLock 0
  else if w.get Reg.TICK_HOPS = 0 then w.set Reg.TICK_HOPS 7
  else w

/-! ## Mirroring and ownership (R377, R400) -/

/-- The batch of the tick that ended closes (R377); one with no change is not sent. -/
def Work.closeBatches (w : Work) (t : Tick) : Work :=
  let shut := fun s : Stream =>
    if s.open_.isEmpty then s
    else
      let b : Batch := { tick := t, seq := 0, changes := s.open_, sent := false, flags := 0, courses := [], fetch := none, data := []
                         recs := [], rows := 0, firstMsn := 0, resent := false }
      { s with open_ := [], batches := s.batches ++ [b] }
  { w with n.mi.streams := w.n.mi.streams.map shut, n.mi.rowsThisTick := 0 }

/-- Slices that wait to be reconciled are probed, at most MIR_RECON.RATE probes, four to a slice (R393, R400). -/
def Work.reconcileSome (w : Work) : Work :=
  if w.isDark then w
  else
    let n := max 1 (w.get Reg.MIR_RATE / 4)
    let now := w.n.mi.recon.take n
    now.foldl (fun w i => w.reconcile i) { w with n.mi.recon := w.n.mi.recon.drop n }

/-- A foreign session is freed with its copies once nothing attends it (R400). -/
def Work.freeForeign (w : Work) : Work :=
  w.n.pg.sessions.foldl (fun w e =>
    match e.2.own with
    | .foreign owner =>
      if w.openSheets.any fun t => t.queries.any fun q => !q.2.desc.noLocal && q.2.session = e.1 then w
      else
        let w := w.dropStaged (fun g => g.session = e.1) stNotOwner
        let w := w.metaChange e.2.part (sessionRec e.2 2)
        let w := (w.dropHoldings e.1).freeSession e.1
        let w := w.log { code := 0x4A05, page := 0x74, part := some e.2.part, arg := e.2.cid.toNat, detail := owner }
        match e.2.waiting with
        | some (src, tag) => w.complete src tag stNotOwner 0 0
        | none => w
    | _ => w) w

/-! ## The boundary -/

/-- What was written for the next boundary acts (R209, R268); packets no longer awaited need no old LIMIT (R304). -/
def Work.settleTick (w : Work) : Work :=
  let w := w.settle tickFields
  let live := fun a : Acting => w.n.tp.conns.any fun c => c.2.unacked.any fun x => packetUnit c.1 x.psn = a.unit
  { w with n.acting := w.n.acting.filter fun a => a.key != Reg.FAB_LIMIT.key 0 0 || live a }

/-- The floors of the tick that begins, less what its engines have reserved of them, are lent to prefix work (R43, R144). -/
def Work.lendTick (w : Work) (reserved : Nat) : Work :=
  let floors := 2048 * w.periodNs * (w.get Reg.CST_BULK_FLOOR + w.get Reg.CST_MIRROR_FLOOR) / 100 * w.servingStacks.length
  { w with n.ks.lendable := floors - reserved }

/-- Firmware renews the watchdog while the node runs (R445; DESIGN CHOICE, log 104: at every boundary until a warning). -/
def Work.renewWatchdog (w : Work) : Work :=
  if w.flag Reg.GLB_WDOG_ARMED && !w.n.bo.wdogWarned then { w with n.bo.wdogAt := w.ps + 100000000000 } else w

/-- `TICK_BOUNDARY` (R28): TICK_NOW advances; sheets close and freeze; the allowances, the node's Full or Capped state and the
margin walk follow; markers, notices and batches of the tick that ended leave. -/
def execTickBoundary (s : State) : Host.Outcome State Fault Refusal :=
  run s fun w =>
    let ns := w.sheetNs
    let stamp := BitVec.ofNat 32 w.now32
    let last := w.now
    let tickPs := w.tickPs
    let reserved := w.reservedBytes
    let spare := w.n.ks.lendable
    let w := ((w.settleTick.streamsCheckConn.closeBatches last).advanceTick.inMissed 0).tickInGone
    let w := (w.powerBoundary tickPs).cappedBoundary
    let w := (w.sheetBoundary ns stamp).retireFreed.softRepair
    let w := (w.lendTick reserved).tickLoads.marginWalk
    let w := w.masterBoundary.markPorts.tickOut.flushNotices
    let w := { w with n.hq.bar4Logged := [] }
    let w := w.reconcileSome.homeKick.freeForeign.mirrorGoesOn
    (w.scrubTick spare).renewWatchdog.bmcRefresh

end Sys2Proof.Machine
end

