-- ==== Sys2Proof/Machine/Clamps.lean ====
section
/-!
DEFINITION. Sys2Proof/Machine/Clamps.lean: the power estimate and what a clamp in the middle of a tick does to running passes (R418, R421 to
R425, R429, R430). Command POWER_ESTIMATE.
-/

namespace Sys2Proof.Machine

/-! ## Running passes (R425, R430) -/

/-- A result that has not left the cluster's slot: no segment of it has been folded or is complete at the merge unit. -/
def Query.resultHeld (q : Query) (slot : Nat) : Bool := !q.folded.contains slot && (lookupN slot q.results).isNone

/-- A pass that cannot finish before the cutoff leaves its row blocks as they were, and takes back the results that it would have
completed. -/
def Work.undoPass (w : Work) (x : RunPass) : Work :=
  if !(x.old.all fun e => (lookupN e.1 w.n.qa.cur.queries).all fun q => q.resultHeld x.slot) then w
  else
    let w := x.old.foldl (fun w e => w.modQuery e.1 fun q =>
      { q with rbs := (q.rbs.filter fun r => !(r.slot = x.slot && r.rb = e.2.rb && r.headBlock = e.2.headBlock)) ++ [e.2] }) w
    let others := fun l : List (Nat × Nat) => l.filter fun r => !(x.old.map (·.1)).contains r.1
    let w := w.setResultPort x.slot (others (w.portOf x.slot)) (others (w.heldResults x.slot))
    if w.n.qa.cur.state = .draining then { w with n.qa.cur := w.n.qa.cur.reopen } else w

/-- The time of the compute window that has passed at an instant, in cycles at full rate: the window begins 50 ns after the sheet's freeze
(R42). -/
def Work.windowCycles (w : Work) (at_ : Nat) : Rat := ((at_ - w.ps - 50000 : Nat) : Rat) * w.aclk / 10000

/-- The array rate has fallen in the middle of the tick from `was` (R425, R430): what is left of each running pass takes longer in
proportion; one that would end after the cutoff is not finished (R41). -/
def Work.slowPasses (w : Work) (was at_ : Nat) : Work :=
  let now := w.arrayRate
  if was ≤ now ∨ w.n.qa.cur.cutoff ∨ w.n.qa.cur.state = .closed then w
  else w.n.cl.lastPass.foldl (fun w e =>
    let stop := w.spentOn e.1
    let here := max e.2.start (w.windowCycles at_)
    if stop ≤ here then w
    else
      let late := here + (stop - here) * was / now
      if now = 0 ∨ (w.nCyc : Rat) < late then
        ({ w with n.cl.lastPass := eraseN e.1 w.n.cl.lastPass, n.cl.spent := insertN e.1 (w.nCyc : Rat) w.n.cl.spent }).undoPass e.2
      else { w with n.cl.spent := insertN e.1 late w.n.cl.spent }) w

/-! ## The estimate -/

/-- `POWER_ESTIMATE` (R418, R421 to R425, R429, R430): the counters of both dies over the window just ended and the 32 die
readings (1/8 °C, as the sensors give them). Runs from the moment firmware starts (R424). -/
def execPowerEstimate (counts0 counts1 : List Nat) (temps : List Int) (s : State) : Host.Outcome State Fault Refusal :=
  run s fun w =>
    if !w.flag Reg.GLB_FW_RUNNING then w
    else
      let counts := fun d i => if d = 0 then atD counts0 i 0 else atD counts1 i 0
      let w := (List.range 96).foldl (fun w i =>
        w.set Reg.PWR_COUNT (min (counts (i / 48) (i % 48)) 65535) 0 (i / 48 * 64 + i % 48)) w
      let at_ := w.estAt
      let temps := w.trimTemps (temps.take 32 ++ List.replicate (32 - temps.length) 0)
      let w := { w with n.pw.temps := temps ++ w.n.pw.temps.drop 32 }
      let w := (List.range 32).foldl (fun w i => w.set Reg.THM_TEMP (toField 12 (atD temps i 0)) 0 i) w
      let w := w.set Reg.THM_MAX0 (toField 8 (hottest (temps.take 16) / 8))
      let w := w.set Reg.THM_MAX1 (toField 8 (hottest (temps.drop 16) / 8))
      let w := w.settle estimateFields
      let g := w.n.pw.gain
      let dyn := g * w.dynamicPower counts
      let stat := g * w.staticPower
      let est := dyn + stat
      let cap := w.capInUse
      let w := { w with n.pw.est := est, n.pw.dyn := dyn, n.pw.stat := stat,
                        n.pw.window := w.n.pw.window ++ [est], n.pw.nextEst := w.estAt + 2000000 }
      let w := w.set Reg.PWR_EST (min (floorNat (est * 4)) 8191)
      let w :=
        if w.flag Reg.PWR_DECIDED then w
        else
          let a := w.get Reg.PWR_A_P
          let t := w.targetAllow
          let c := w.clampsNext
          let w := w.set Reg.PWR_A_NEXT (min (max t (a - w.slopeNow)) (a + w.slopeNow))
          let w := w.set Reg.PWR_DECIDED 1
          { w with n.pw.ctNext := c.1, n.pw.chNext := c.2 }
      let w := match w.n.pw.descent with
        | some d =>
          let d := { d with k := d.k + 1 }
          { w with n.pw.descent := if d.p0 - d.dW * d.k ≤ d.cap then none else some d }
        | none => w
      let rate := w.arrayRate
      let w := (w.emergency cap).critical
      (w.slowPasses rate at_).showCap.showAllow

end Sys2Proof.Machine
end

