-- ==== Sys2Proof/Machine/Common.lean ====
section
/-!
DEFINITION. Sys2Proof/Machine/Common.lean: commands of the common part of every page (spec/17): SOFT_RESET, FREEZE,
BLK_ISR_CLEAR, BLK_ISET, BLK_IER_WRITE, HOLDOFF_EXPIRED, MSIX_UNMASK.
-/

namespace Sys2Proof.Machine

/-- The bits of BLK_ISR that are not reserved in a page (R491). -/
def isrMask (page : Nat) : Nat :=
  let own :=
    if page = 0 ∨ page = 1 ∨ page = 2 ∨ page = 3 ∨ page = 0x74 ∨ (0x50 ≤ page ∧ page ≤ 0x6F) then 3
    else if page = 5 ∨ page = 0x0B ∨ (0x10 ≤ page ∧ page ≤ 0x23) ∨ page = 0x26 ∨ (0x30 ≤ page ∧ page ≤ 0x49) ∨
      page = 0x75 ∨ page = 0x77 then 1
    else if 0x100 ≤ page then 7 else 0
  15 + own * 2 ^ 16

/-- Run a write of a common register: what it does to the page, given the enabled data bits. -/
def Work.commonWrite (w : Work) (wr : RegWr) (off : Nat) (pfToo : Bool) (act : Work → Nat → Nat → Nat → Work) : Work :=
  match w.commonAt wr.fn wr.off with
  | some (page, o) =>
    if o = off ∧ (ownsCommon wr.fn page ∨ (pfToo ∧ wr.fn = .pf)) then
      let mask := beMask wr.be
      act w page (wr.data.toNat &&& mask) mask
    else w
  | none => if wr.off % 4 ≠ 0 then w.count Reg.GLB_BAD_ACCESS else w

/-- `SOFT_RESET` (R489, R495, R499): clears the page's BLK_ISR, capture and RS counters; a FREEZE written with it counts. -/
def execSoftReset (wr : RegWr) (s : State) : Host.Outcome State Fault Refusal :=
  run s fun w => w.commonWrite wr 0xC true fun w page d mask =>
    let w := if bitOf d 1 then w.softResetPage page else w
    if bitOf mask 2 ∧ ownsCommon wr.fn page then w.freezePage page (bitOf d 2) else w

/-- `FREEZE` (R489): the page's RS counters read as frozen, or their current values become visible. -/
def execFreezeWrite (wr : RegWr) (s : State) : Host.Outcome State Fault Refusal :=
  run s fun w => w.commonWrite wr 0xC false fun w page d mask =>
    let w := if bitOf d 1 then w.softResetPage page else w
    if bitOf mask 2 then w.freezePage page (bitOf d 2) else w

/-- `BLK_ISR_CLEAR` (R490, R493): W1C; clearing ERR_CAP releases and re-arms the capture. -/
def execBlkIsrClear (wr : RegWr) (s : State) : Host.Outcome State Fault Refusal :=
  run s fun w => w.commonWrite wr 0x14 false fun w page d _ =>
    let v := w.get Reg.BLK_ISR page
    let w := w.set Reg.BLK_ISR (v &&& (2 ^ 32 - 1 - d)) page
    if bitOf d 0 then w.set Reg.BLK_ERROR 0 page else w

/-- `BLK_ISET` (R491, R492): each 1 sets its ISR bit, which is a gain if the bit was clear. -/
def execBlkIset (wr : RegWr) (s : State) : Host.Outcome State Fault Refusal :=
  run s fun w => w.commonWrite wr 0x1C false fun w page d _ =>
    (List.range 32).foldl (fun w i => if bitOf (d &&& isrMask page) i then w.isr page i else w) w

/-- `BLK_IER_WRITE` (R492): enabling a bit that is already set is a gain of the vector. -/
def execBlkIerWrite (wr : RegWr) (s : State) : Host.Outcome State Fault Refusal :=
  run s fun w => w.commonWrite wr 0x18 false fun w page d mask =>
    let old := w.get Reg.BLK_IER page
    let new := mergeBits old d mask &&& isrMask page
    let isr := w.get Reg.BLK_ISR page
    let w := w.set Reg.BLK_IER new page
    if (List.range 32).any fun i => bitOf new i && !bitOf old i && bitOf isr i then
      let pv := pageVector page
      w.signal pv.1 pv.2
    else w

/-- `HOLDOFF_EXPIRED` (R492): the merged gains of a vector leave as one message, which starts a new interval; with none
waiting the interval ends. -/
def execHoldoffExpired (fn : Fn) (vector : Nat) (s : State) : Host.Outcome State Fault Refusal :=
  run s fun w =>
    match w.n.holdoffs.find? (fun h => h.fn = fnNum fn ∧ h.vec = vector) with
    | none => w
    | some h =>
      let w := { w with n.holdoffs := w.n.holdoffs.filter fun h => !(h.fn = fnNum fn && h.vec = vector) }
      if h.waiting then w.signal (fnNum fn) vector else w

/-- Write a dword of a function's MSI-X table; unmasking an entry whose pending bit is set sends the message
(R492), once the bus is mastered (R333). Entries 1 to 63 of a virtual function stay masked (R330). -/
def Work.msixWrite (w : Work) (fn dword v : Nat) : Work :=
  let m := w.msixOf fn
  let dflt := if dword % 4 = 3 then 1 else 0
  let fixed := fn ≠ 0 ∧ 1 ≤ dword / 4 ∧ dword / 4 ≤ 63
  let v := if dword % 4 = 3 then (if fixed then 1 else v % 2) else v
  let t := if v = dflt then eraseN dword m.table else insertN dword v m.table
  let w := { w with n.hq.msix := insertN fn { m with table := t } w.n.hq.msix }
  let vec := dword / 4
  if dword % 4 = 3 ∧ v % 2 = 0 ∧ vec ∈ m.pending then
    let w := { w with n.hq.msix := insertN fn { (w.msixOf fn) with pending := m.pending.filter (· != vec) } w.n.hq.msix }
    if w.n.bo.busMaster then w.emit (.msix fn vec) else { w with n.hq.heldOut := w.n.hq.heldOut ++ [.msix fn vec] }
  else w

/-- `MSIX_UNMASK` (R492): the entry's vector control is cleared, and a held message is sent. -/
def execMsixUnmask (fn : Fn) (vector : Nat) (s : State) : Host.Outcome State Fault Refusal :=
  run s fun w => if vector < 2048 then w.msixWrite (fnNum fn) (vector * 4 + 3) 0 else w

end Sys2Proof.Machine
end

