-- ==== Sys2Proof/Machine/RegisterWrite.lean ====
section
/-!
DEFINITION. Sys2Proof/Machine/RegisterWrite.lean: a BAR0 write of a register with no behaviour of its own (R516, R487), of the
MSI-X table (R330), and of MIR_CTRL.HOME_EN (R391). Command REGISTER_WRITE.
-/

namespace Sys2Proof.Machine

/-- Registers whose writes start an action, and are therefore other commands. -/
def ownedRegisters : List (Block × Nat) :=
  [(.GLB, 0x10C), (.GLB, 0x114), (.GLB, 0x140), (.CL, 0x18C), (.CL, 0x190), (.XPD, 0x108), (.QUE, 0x104), (.LP, 0x100),
   (.MG, 0x180), (.MG, 0x184), (.MG, 0x188), (.MG, 0x18C), (.MG, 0x190), (.MG, 0x194), (.MG, 0x198), (.MG, 0x19C),
   (.MIR, 0x104), (.MIR, 0x124), (.CAL, 0x110), (.PART, 0x104), (.SEC, 0x104), (.SEC, 0x110), (.SEC, 0x114), (.SEC, 0x118),
   (.SEC, 0x11C), (.SEC, 0x120), (.SEC, 0x124), (.SEC, 0x128), (.SEC, 0x12C), (.ATT, 0x108), (.ATT, 0x188), (.PP, 0x198),
   (.PGM, 0x114), (.SCH, 0x118), (.SCH, 0x11C), (.SCH, 0x120), (.POL, 0x108), (.POL, 0x10C), (.POL, 0x110), (.POL, 0x114),
   (.HBM, 0x104), (.TICK, 0x110), (.TICK, 0x134)]

/-- Lock bits (R487): W1S, and nothing else begins with them. -/
def lockFields : List Fld := [Reg.SPL_LOCK, Reg.CNX_LOCK, Reg.PWR_LOCK]

/-- The home table (R391): a zeroed region of partition 0's buffer allotment with READ and CAS permission, where firmware puts it.
With no room there is none. -/
def Work.makeHome (w : Work) : Work :=
  let len := 128 * 2 ^ w.get Reg.MIR_HOME_LOG2
  let lo := w.get Reg.PP_ALLOT_BASE_LO 0 + w.get Reg.PP_ALLOT_BASE_HI 0 * 2 ^ 32
  match w.n.se.parts.find? fun q => q.id = 0 with
  | some q =>
    if q.allotTop.isNone || decide (q.allotLen < len) then w
    else
      let d := w.pick ((q.allotLen - len) / 256 + 1)
      let base := lo + d.1 * 256
      match d.2.makeRegion 0 base len 5 with
      | some (idx, w) => ({ w.zero base len with n.mi.homeTable := some (regionKey 0 idx) }).set Reg.MIR_HOME_RKEY idx
      | none => w
  | none => w

/-- HOME_EN is cleared: the table goes (DESIGN CHOICE, log 58: the spec says only when it is made). -/
def Work.dropHome (w : Work) : Work :=
  match w.n.mi.homeTable with
  | some k =>
    let w := match lookupN k w.n.tp.regions with
      | some r => { w.ksErase r.ksBank r.ksIdx with n.tp.regions := eraseN k w.n.tp.regions }
      | none => w
    ({ w with n.mi.homeTable := none }).set Reg.MIR_HOME_RKEY 0
  | none => w

/-- The old values of what was written go on acting where the spec says so: until the next boundary, admission or estimate; for
the running prefix operation and for packets already sent (R156, R209, R268, R304, R353, R440). A course under compression keeps what its
first pass found (R237). -/
def Work.keepOld (w old : Work) (b : Block) (inst off idx : Nat) : Work :=
  (regFields b off).foldl (fun w f =>
    let i := storeInst b inst off
    let v := old.get f i idx
    if w.get f i idx = v then w
    else if f ∈ sheetFields then (w.keep f 0 i idx v).keep f runningUnit i idx v
    else if f ∈ tickFields ++ estimateFields ∨ (f ∈ opFields ∧ w.n.ks.running.isSome) then w.keep f 0 i idx v
    else if f = Reg.FAB_LIMIT then
      w.n.tp.conns.foldl (fun w c => c.2.unacked.foldl (fun w x => w.keep f (packetUnit c.1 x.psn) i idx v) w) w
    else w) w

/-- A queue's VECTOR follows its place in its partition's range (R334): the reset value is set with the range (DEDUCED,
log 141). -/
def Work.rangeSet (w old : Work) (p : Nat) : Work :=
  let base := w.get Reg.QUE_BASE 0 p
  let n := w.get Reg.QUE_COUNT 0 p
  if old.get Reg.QUE_BASE 0 p = base ∧ old.get Reg.QUE_COUNT 0 p = n then w
  else (List.range n).foldl (fun w i => w.set Reg.QCFG_VECTOR (64 + i % 1984) (base + i)) w

/-- What an accepted plain write brings with it. -/
def Work.afterWrite (w : Work) (wr : RegWr) (b : Block) (off : Nat) : Work :=
  let w := (lockFields.filter fun f => f.blk = b && f.off = off && wrote1 wr f).foldl (fun w f => w.set f 1) w
  let w := if b = .PWR then w.capChange else w
  let w := if b = .GLB ∧ fieldEnabled wr Reg.GLB_FABRIC_ID ∧ off = 0x110 then { w with n.bo.fabricSet := true } else w
  if b = .MIR ∧ off = 0x100 then
    if w.flag Reg.MIR_HOME_EN then (if w.n.mi.homeTable.isNone then w.makeHome else w) else w.dropHome
  else w

/-- `REGISTER_WRITE` (R516): accepted whole, or ignored, counted or captured. A write that another command carries out changes
nothing here. -/
def execRegisterWrite (wr : RegWr) (s : State) : Host.Outcome State Fault Refusal :=
  run s fun w =>
    match w.locate wr.fn wr.off with
    | .msixTable d =>
      if wr.off % 4 ≠ 0 then w.count Reg.GLB_BAD_ACCESS
      else w.msixWrite (fnNum wr.fn) d (mergeBits (w.msixDword (fnNum wr.fn) d) wr.data.toNat (beMask wr.be))
    | .reg b _ off =>
      -- a mailbox write that names no command is ignored and captured (R334, R372)
      let none_ := fun (f : Fld) sel => w.merged wr 0 sel f < 1 ∨ 3 < w.merged wr 0 sel f
      let noCommand := off = 0x104 ∧ (b = .QUE ∧ none_ Reg.QUE_OP (fnNum wr.fn) ∨ b = .PART ∧ none_ Reg.PART_OP 0)
      if wr.off % 4 = 0 ∧ (b, off) ∈ ownedRegisters ∧ ¬ noCommand then w
      else
        let r := w.busWrite wr
        match r.at_ with
        | some (b, inst, off, idx) =>
          let v := (r.w.keepOld w b inst off idx).afterWrite wr b off
          if b = .QUE ∧ off = 0x114 then v.rangeSet w idx else v
        | none => r.w
    | _ => (w.busWrite wr).w

end Sys2Proof.Machine
end

