-- ==== Sys2Proof/Machine/Dispatch.lean ====
section
/-!
DEFINITION. Sys2Proof/Machine/Dispatch.lean: one arm per command.
-/

namespace Sys2Proof.Machine

def exec (i : Instr) (s : State) : Host.Outcome State Fault Refusal :=
  match i with
  | .tickBoundary => Sys2Proof.Machine.execTickBoundary s
  | .computeCutoff => Sys2Proof.Machine.execComputeCutoff s
  | .egressPhase => Sys2Proof.Machine.execEgressPhase s
  | .retryPass => Sys2Proof.Machine.execRetryPass s
  | .lendPoint => Sys2Proof.Machine.execLendPoint s
  | .splTickDecision => Sys2Proof.Machine.execSplTickDecision s
  | .heatDecay => Sys2Proof.Machine.execHeatDecay s
  | .moveCopyDone mv res => Sys2Proof.Machine.execMoveCopyDone mv res s
  | .moveCommit mv => Sys2Proof.Machine.execMoveCommit mv s
  | .tailPageCopyDone read => Sys2Proof.Machine.execTailPageCopyDone read s
  | .hbmUncorrectableError addr => Sys2Proof.Machine.execHbmUncorrectableError addr s
  | .ddrUncorrectableError loss => Sys2Proof.Machine.execDdrUncorrectableError loss s
  | .systemAreaError stack off => Sys2Proof.Machine.execSystemAreaError stack off s
  | .scrubCorrected loc => Sys2Proof.Machine.execScrubCorrected loc s
  | .takeOffline w => Sys2Proof.Machine.execTakeOffline w s
  | .pgmFmtValid w => Sys2Proof.Machine.execPgmFmtValid w s
  | .openSession src desc => Sys2Proof.Machine.execOpenSession src desc s
  | .forkSession src desc => Sys2Proof.Machine.execForkSession src desc s
  | .forkCopiesLanded child => Sys2Proof.Machine.execForkCopiesLanded child s
  | .closeSession src desc => Sys2Proof.Machine.execCloseSession src desc s
  | .sessionCloseComplete idx => Sys2Proof.Machine.execSessionCloseComplete idx s
  | .appendRows src payload at_ => Sys2Proof.Machine.execAppendRows src payload at_ s
  | .rowLanded die => Sys2Proof.Machine.execRowLanded die s
  | .matchPrefix src payload => Sys2Proof.Machine.execMatchPrefix src payload s
  | .publishBlocks src payload => Sys2Proof.Machine.execPublishBlocks src payload s
  | .retractBlocks src payload => Sys2Proof.Machine.execRetractBlocks src payload s
  | .pinBlocks src payload => Sys2Proof.Machine.execPinBlocks src payload s
  | .unpinBlocks src payload => Sys2Proof.Machine.execUnpinBlocks src payload s
  | .prefixOpStart => Sys2Proof.Machine.execPrefixOpStart s
  | .prefixOpComplete => Sys2Proof.Machine.execPrefixOpComplete s
  | .parityScan => Sys2Proof.Machine.execParityScan s
  | .keystoneBankRebuilt bank => Sys2Proof.Machine.execKeystoneBankRebuilt bank s
  | .spareMapWrite w => Sys2Proof.Machine.execSpareMapWrite w s
  | .clusterSwapEffect => Sys2Proof.Machine.execClusterSwapEffect s
  | .clusterFault cluster cause bufOff => Sys2Proof.Machine.execClusterFault cluster cause bufOff s
  | .clusterBufferUe cluster bufOff hit => Sys2Proof.Machine.execClusterBufferUe cluster bufOff hit s
  | .controlCoreFault core => Sys2Proof.Machine.execControlCoreFault core s
  | .clusterPass slot work => Sys2Proof.Machine.execClusterPass slot work s
  | .resultPortTransfer slot => Sys2Proof.Machine.execResultPortTransfer slot s
  | .codebookValid w => Sys2Proof.Machine.execCodebookValid w s
  | .weightLoad w => Sys2Proof.Machine.execWeightLoad w s
  | .weightLoadDone => Sys2Proof.Machine.execWeightLoadDone s
  | .attend src payload at_ => Sys2Proof.Machine.execAttend src payload at_ s
  | .partialRecord msg record => Sys2Proof.Machine.execPartialRecord msg record s
  | .creditRecord msg record => Sys2Proof.Machine.execCreditRecord msg record s
  | .cancelRecord msg record => Sys2Proof.Machine.execCancelRecord msg record s
  | .collectorDeadline part group => Sys2Proof.Machine.execCollectorDeadline part group s
  | .creditWaitExpired held => Sys2Proof.Machine.execCreditWaitExpired held s
  | .earlyWaitExpired early => Sys2Proof.Machine.execEarlyWaitExpired early s
  | .compressorBlockEmitted die job blk bytes corrupt => Sys2Proof.Machine.execCompressorBlockEmitted die job blk bytes corrupt s
  | .blockDecodeDone inst job upset => Sys2Proof.Machine.execBlockDecodeDone inst job upset s
  | .xpdRetire w => Sys2Proof.Machine.execXpdRetire w s
  | .lpEnable w => Sys2Proof.Machine.execLpEnable w s
  | .lpRetrain w => Sys2Proof.Machine.execLpRetrain w s
  | .forceSwap w => Sys2Proof.Machine.execForceSwap w s
  | .laneSignalDetect port half lanes => Sys2Proof.Machine.execLaneSignalDetect port half lanes s
  | .lanesConverged port half failed => Sys2Proof.Machine.execLanesConverged port half failed s
  | .trainTimeout port half => Sys2Proof.Machine.execTrainTimeout port half s
  | .lanesDeskewed port seen => Sys2Proof.Machine.execLanesDeskewed port seen s
  | .helloFlit port half flit => Sys2Proof.Machine.execHelloFlit port half flit s
  | .helloTimer port half => Sys2Proof.Machine.execHelloTimer port half s
  | .helloTimeout port half => Sys2Proof.Machine.execHelloTimeout port half s
  | .hardLaneFailure port lane => Sys2Proof.Machine.execHardLaneFailure port lane s
  | .alignmentRound port half blocks corrected spareOk => Sys2Proof.Machine.execAlignmentRound port half blocks corrected spareOk s
  | .swapReq port half flit => Sys2Proof.Machine.execSwapReq port half flit s
  | .swapAck port half flit => Sys2Proof.Machine.execSwapAck port half flit s
  | .linkUnitReceived port half words first => Sys2Proof.Machine.execLinkUnitReceived port half words first s
  | .codewordUncorrectable port half word units => Sys2Proof.Machine.execCodewordUncorrectable port half word units s
  | .creditFlit port half flit => Sys2Proof.Machine.execCreditFlit port half flit s
  | .tickMark port half flit arrive => Sys2Proof.Machine.execTickMark port half flit arrive s
  | .tickSourceLost why => Sys2Proof.Machine.execTickSourceLost why s
  | .tickSwitchWrite w => Sys2Proof.Machine.execTickSwitchWrite w s
  | .periodSwitch => Sys2Proof.Machine.execPeriodSwitch s
  | .tickLoad w => Sys2Proof.Machine.execTickLoad w s
  | .tickInEdge dev => Sys2Proof.Machine.execTickInEdge dev s
  | .tickInLost => Sys2Proof.Machine.execTickInLost s
  | .installConn src desc => Sys2Proof.Machine.execInstallConn src desc s
  | .rekeyConn src desc => Sys2Proof.Machine.execRekeyConn src desc s
  | .removeConn src desc => Sys2Proof.Machine.execRemoveConn src desc s
  | .rekeyOverlapExpired conn => Sys2Proof.Machine.execRekeyOverlapExpired conn s
  | .connectionFreed conn => Sys2Proof.Machine.execConnectionFreed conn s
  | .contextFetchDone conn entry => Sys2Proof.Machine.execContextFetchDone conn entry s
  | .packetReceived port half packet => Sys2Proof.Machine.execPacketReceived port half packet s
  | .writeOp pkt => Sys2Proof.Machine.execWriteOp pkt s
  | .readOp pkt => Sys2Proof.Machine.execReadOp pkt s
  | .casOp pkt => Sys2Proof.Machine.execCasOp pkt s
  | .sendHostQueue conn msn queue bytes => Sys2Proof.Machine.execSendHostQueue conn msn queue bytes s
  | .strikeNotice conn msn bytes => Sys2Proof.Machine.execStrikeNotice conn msn bytes s
  | .fenceOp conn msn bytes => Sys2Proof.Machine.execFenceOp conn msn bytes s
  | .noticeOp conn msn bytes => Sys2Proof.Machine.execNoticeOp conn msn bytes s
  | .responseOp pkt => Sys2Proof.Machine.execResponseOp pkt s
  | .ackOp conn bytes => Sys2Proof.Machine.execAckOp conn bytes s
  | .ackDelayExpired conn => Sys2Proof.Machine.execAckDelayExpired conn s
  | .reorderExpired conn psn => Sys2Proof.Machine.execReorderExpired conn psn s
  | .rtoExpired conn psn => Sys2Proof.Machine.execRtoExpired conn psn s
  | .probeExpired conn msn => Sys2Proof.Machine.execProbeExpired conn msn s
  | .regionCreate src desc => Sys2Proof.Machine.execRegionCreate src desc s
  | .regionAdvance src desc => Sys2Proof.Machine.execRegionAdvance src desc s
  | .regionDestroy src desc => Sys2Proof.Machine.execRegionDestroy src desc s
  | .regionDrainDone part index => Sys2Proof.Machine.execRegionDrainDone part index s
  | .schedulerDecision => Sys2Proof.Machine.execSchedulerDecision s
  | .portUnitStart port half => Sys2Proof.Machine.execPortUnitStart port half s
  | .shaperReconfigure w => Sys2Proof.Machine.execShaperReconfigure w s
  | .meterReconfigure w => Sys2Proof.Machine.execMeterReconfigure w s
  | .queueEnable w => Sys2Proof.Machine.execQueueEnable w s
  | .queueDisable w => Sys2Proof.Machine.execQueueDisable w s
  | .queueReset w => Sys2Proof.Machine.execQueueReset w s
  | .queueDrained q => Sys2Proof.Machine.execQueueDrained q s
  | .sqTail fn q value => Sys2Proof.Machine.execSqTail fn q value s
  | .cqHead fn q value => Sys2Proof.Machine.execCqHead fn q value s
  | .sqEntryFetched q entry => Sys2Proof.Machine.execSqEntryFetched q entry s
  | .hostSession q entry payload => Sys2Proof.Machine.execHostSession q entry payload s
  | .hostAttend q entry payload at_ => Sys2Proof.Machine.execHostAttend q entry payload at_ s
  | .hostAppend q entry payload at_ => Sys2Proof.Machine.execHostAppend q entry payload at_ s
  | .hostConn q entry payload => Sys2Proof.Machine.execHostConn q entry payload s
  | .hostRegion q entry payload => Sys2Proof.Machine.execHostRegion q entry payload s
  | .hostMsg q entry payload => Sys2Proof.Machine.execHostMsg q entry payload s
  | .hostCopy q entry payload => Sys2Proof.Machine.execHostCopy q entry payload s
  | .hostRecv q entry => Sys2Proof.Machine.execHostRecv q entry s
  | .hostNop q entry => Sys2Proof.Machine.execHostNop q entry s
  | .waitTicksExpired q entry => Sys2Proof.Machine.execWaitTicksExpired q entry s
  | .coalNsExpired q => Sys2Proof.Machine.execCoalNsExpired q s
  | .functionReset fn => Sys2Proof.Machine.execFunctionReset fn s
  | .perstAssert => Sys2Proof.Machine.execPerstAssert s
  | .busMasterEnableChange on => Sys2Proof.Machine.execBusMasterEnableChange on s
  | .bar4Read fn off len uncorrectable => Sys2Proof.Machine.execBar4Read fn off len uncorrectable s
  | .bar4Write fn off bytes => Sys2Proof.Machine.execBar4Write fn off bytes s
  | .partCreate w => Sys2Proof.Machine.execPartCreate w s
  | .partStrike w => Sys2Proof.Machine.execPartStrike w s
  | .installKey w => Sys2Proof.Machine.execInstallKey w s
  | .strikeDrainEnd part => Sys2Proof.Machine.execStrikeDrainEnd part s
  | .scrubComplete part => Sys2Proof.Machine.execScrubComplete part s
  | .strikePublish part => Sys2Proof.Machine.execStrikePublish part s
  | .fkekWrite w => Sys2Proof.Machine.execFkekWrite w s
  | .fkekLock w => Sys2Proof.Machine.execFkekLock w s
  | .svnCommit w => Sys2Proof.Machine.execSvnCommit w s
  | .extGo w => Sys2Proof.Machine.execExtGo w s
  | .attGo w => Sys2Proof.Machine.execAttGo w s
  | .attestReportWritten => Sys2Proof.Machine.execAttestReportWritten s
  | .mirrorEnable w => Sys2Proof.Machine.execMirrorEnable w s
  | .mirrorBatchSend part blocks => Sys2Proof.Machine.execMirrorBatchSend part blocks s
  | .mirrorOp conn msn head body => Sys2Proof.Machine.execMirrorOp conn msn head body s
  | .sliceSeeded part cid => Sys2Proof.Machine.execSliceSeeded part cid s
  | .mirrorAckLate part => Sys2Proof.Machine.execMirrorAckLate part s
  | .mirrorStreamLost part => Sys2Proof.Machine.execMirrorStreamLost part s
  | .mirrorReseedTimer part => Sys2Proof.Machine.execMirrorReseedTimer part s
  | .restoreFetchSend course => Sys2Proof.Machine.execRestoreFetchSend course s
  | .commitOp src desc => Sys2Proof.Machine.execCommitOp src desc s
  | .commitWaitExpired src => Sys2Proof.Machine.execCommitWaitExpired src s
  | .homeWaitExpired session => Sys2Proof.Machine.execHomeWaitExpired session s
  | .leaseExpired => Sys2Proof.Machine.execLeaseExpired s
  | .orphanTimeout session => Sys2Proof.Machine.execOrphanTimeout session s
  | .powerEstimate counts0 counts1 temps => Sys2Proof.Machine.execPowerEstimate counts0 counts1 temps s
  | .telemetryTrim readings => Sys2Proof.Machine.execTelemetryTrim readings s
  | .hbmTempRead temps => Sys2Proof.Machine.execHbmTempRead temps s
  | .droopTrip sense => Sys2Proof.Machine.execDroopTrip sense s
  | .thermtrip => Sys2Proof.Machine.execThermtrip s
  | .laneScan port lane v h berCl => Sys2Proof.Machine.execLaneScan port lane v h berCl s
  | .opticalRead port half reading => Sys2Proof.Machine.execOpticalRead port half reading s
  | .calWrite w => Sys2Proof.Machine.execCalWrite w s
  | .calWriteDone programmed => Sys2Proof.Machine.execCalWriteDone programmed s
  | .budgetOrder f => Sys2Proof.Machine.execBudgetOrder f s
  | .budgetExpired => Sys2Proof.Machine.execBudgetExpired s
  | .pwrgoodRise bootSel mgtSel testMode => Sys2Proof.Machine.execPwrgoodRise bootSel mgtSel testMode s
  | .pwrgoodFall ns => Sys2Proof.Machine.execPwrgoodFall ns s
  | .bootImageVerified image => Sys2Proof.Machine.execBootImageVerified image s
  | .d2dTrained ok => Sys2Proof.Machine.execD2dTrained ok s
  | .ddrTrainingDone chans => Sys2Proof.Machine.execDdrTrainingDone chans s
  | .hbmRoundDone failed => Sys2Proof.Machine.execHbmRoundDone failed s
  | .selftestDone part bad => Sys2Proof.Machine.execSelftestDone part bad s
  | .readyReached => Sys2Proof.Machine.execReadyReached s
  | .promotionBoundary => Sys2Proof.Machine.execPromotionBoundary s
  | .glbIdLock w => Sys2Proof.Machine.execGlbIdLock w s
  | .warmReset w => Sys2Proof.Machine.execWarmReset w s
  | .watchdogExpired core => Sys2Proof.Machine.execWatchdogExpired core s
  | .serdesclkLost clk => Sys2Proof.Machine.execSerdesclkLost clk s
  | .pcieRefclkLost => Sys2Proof.Machine.execPcieRefclkLost s
  | .sysclkLost => Sys2Proof.Machine.execSysclkLost s
  | .d2dDegraded lost => Sys2Proof.Machine.execD2dDegraded lost s
  | .statusOrder f => Sys2Proof.Machine.execStatusOrder f s
  | .setMk f => Sys2Proof.Machine.execSetMk f s
  | .setIds f => Sys2Proof.Machine.execSetIds f s
  | .leaseOrder f => Sys2Proof.Machine.execLeaseOrder f s
  | .fenceOrder f => Sys2Proof.Machine.execFenceOrder f s
  | .fenceMinOrder f => Sys2Proof.Machine.execFenceMinOrder f s
  | .takeoverOrder f => Sys2Proof.Machine.execTakeoverOrder f s
  | .reconcileOrder f => Sys2Proof.Machine.execReconcileOrder f s
  | .adoptOrder f => Sys2Proof.Machine.execAdoptOrder f s
  | .discardOrder f => Sys2Proof.Machine.execDiscardOrder f s
  | .resetOrder f => Sys2Proof.Machine.execResetOrder f s
  | .readReg f => Sys2Proof.Machine.execReadReg f s
  | .attestOrder f => Sys2Proof.Machine.execAttestOrder f s
  | .calRead f => Sys2Proof.Machine.execCalRead f s
  | .logRead f => Sys2Proof.Machine.execLogRead f s
  | .usageOrder f => Sys2Proof.Machine.execUsageOrder f s
  | .takenListOrder f => Sys2Proof.Machine.execTakenListOrder f s
  | .imageWrite f => Sys2Proof.Machine.execImageWrite f s
  | .imageStreamIdle => Sys2Proof.Machine.execImageStreamIdle s
  | .debugToken f => Sys2Proof.Machine.execDebugToken f s
  | .debugClear f => Sys2Proof.Machine.execDebugClear f s
  | .mkWrite w => Sys2Proof.Machine.execMkWrite w s
  | .usageSample => Sys2Proof.Machine.execUsageSample s
  | .usageStatementClose => Sys2Proof.Machine.execUsageStatementClose s
  | .softReset w => Sys2Proof.Machine.execSoftReset w s
  | .freezeWrite w => Sys2Proof.Machine.execFreezeWrite w s
  | .blkIsrClear w => Sys2Proof.Machine.execBlkIsrClear w s
  | .blkIset w => Sys2Proof.Machine.execBlkIset w s
  | .blkIerWrite w => Sys2Proof.Machine.execBlkIerWrite w s
  | .holdoffExpired fn vector => Sys2Proof.Machine.execHoldoffExpired fn vector s
  | .registerWrite w => Sys2Proof.Machine.execRegisterWrite w s
  | .managementLinkChange port up => Sys2Proof.Machine.execManagementLinkChange port up s
  | .perstRelease => Sys2Proof.Machine.execPerstRelease s
  | .pcieLinkTrained speed width => Sys2Proof.Machine.execPcieLinkTrained speed width s
  | .serdesclkReturn clk => Sys2Proof.Machine.execSerdesclkReturn clk s
  | .pcieRefclkReturn => Sys2Proof.Machine.execPcieRefclkReturn s
  | .droopRelease die cycles => Sys2Proof.Machine.execDroopRelease die cycles s
  | .watchdogWarning => Sys2Proof.Machine.execWatchdogWarning s
  | .watchdogWarmReset => Sys2Proof.Machine.execWatchdogWarmReset s
  | .latchingRegisterRead fn place len => Sys2Proof.Machine.execLatchingRegisterRead fn place len s
  | .msixUnmask fn vector => Sys2Proof.Machine.execMsixUnmask fn vector s
  | .sriovVfEnable num => Sys2Proof.Machine.execSriovVfEnable num s

end Sys2Proof.Machine
end

