-- ==== Sys2Proof/Safety.lean ====
section
/-!
DEFINITION. Sys2Proof/Safety.lean: what counts as a safe state and a safe run, and what a state shows, in the terms the statements
use.
-/

namespace Sys2Proof.Safety

open Sys2Proof.Machine
open Sys2Proof.Crypto (gcmSeal gcmOpen)

/-- The register file and the memory are in their canonical forms. -/
abbrev Canonical (s : State) : Prop := RegFile.wf s.regs = true ∧ Mem.wf s.mem = true

/-- A step from `s` keeps what must hold of every state and never lowers the fused SVN (R367). -/
def StepSafe (s : State) : Prop :=
  ∀ t, step s = .next t → Canonical s → Canonical t ∧ s.svnFuse ≤ t.svnFuse

/-! ## What a state shows -/

/-- The value of a register field in a state. -/
def rd (s : State) (f : Fld) (inst : Nat := 0) (idx : Nat := 0) : Nat := s.view.get f inst idx

/-- The byte at a key of memory in a state. -/
def byteAt (s : State) (a : Nat) : Byte := s.mem.get a

/-- A key lies outside the 64 MiB prompt-book ring (R410). -/
abbrev outsideRing (a : Nat) : Prop := a < ringBase ∨ ringBase + 2 ^ 26 ≤ a

/-- The newest completion record that waits on a connection (R285). -/
def lastRecord (s : State) (id : Nat) : Option CmplRec := (lookupN id s.node.tp.conns).bind fun c => c.records.getLast?

/-- Nothing but message `msn` of connection `id` acts when that one completes (R300): no ordering FENCE waits on the connection, none elsewhere
may act, and no remote access waits for its turn. A fence presentation carries bytes and waits for nothing (R395). -/
abbrev quietMsgs (s : State) (id msn : Nat) : Prop :=
  ∀ m ∈ s.node.tp.inMsgs, ¬ (m.conn = id ∧ m.msn = msn) →
    (m.op = 9 → m.conn = id → m.behindFence = false ∧ (m.complete = true → m.bytes ≠ [])) ∧
    (m.op = 9 → m.behindFence = true → (s.view.connOf m.conn).any (fun c => c.msnLow = m.msn) = false) ∧
    (remoteOp m.op = true → m.mayAct = false)

/-- Nothing else acts when a request of a source does; a host entry's arrival lets nothing act. -/
abbrev quietSrc (s : State) (src : Src) : Prop :=
  match src with
  | .conn id msn => quietMsgs s id msn
  | .queue _ _ => True

/-- The Keystone search for a connection ends in a verified hit (R134, R137). -/
abbrev ConnFound (s : State) (id : Nat) (c : Conn) : Prop :=
  (s.view.ksLookup tblConn [id] fun slot => c.hot && decide (c.slot = slot)).1.isSome = true

/-- The shared write takes a register write: it lands on a block's register at an offset, on an instance and a selection
(R484, R516). -/
abbrev Lands (s : State) (wr : RegWr) (b : Block) (off inst idx : Nat) : Prop :=
  s.view.addresses wr b [off] = true ∧ (s.view.busWrite wr).at_ = some (b, inst, off, idx)

/-- A session request of a source reaches its operation `op` for partition `p`, with its descriptor `m` in memory form (R102). -/
abbrev SessionAsks (s : State) (src : Src) (desc : Bytes) (op p : Nat) (m : Bytes) : Prop :=
  s.view.partOf src = some p ∧ m = srcBytes src sessionFields desc ∧ s.view.srcOk src = true ∧ s.view.staleSrc src = false ∧ fieldAt m 0 1 = op ∧
  s.view.live p = true ∧ s.view.isDark = false ∧ desc.length = 64 ∧ zeroAt m 3 1 = true ∧ zeroAt m 0x1C 36 = true

/-- A handle names session `si`, with record `se`, of partition `p`; the node may serve it (R100, R394). -/
abbrev NamesSession (s : State) (p handle si : Nat) (se : Session) : Prop :=
  si = handle % 2 ^ 18 ∧ s.view.session si = some se ∧ se.gen = handle / 2 ^ 18 ∧ se.part = p ∧ handle ≠ 0xFFFFFFFF ∧
  s.view.ownCheck se = none

/-- An APPEND of a source is well formed and passes its first checks (R106, R109): its descriptor `m` in memory form, an Open
session `si` of partition `p`, layer `li` of it, and the packed rows. -/
abbrev AppendAsks (s : State) (src : Src) (b : Bytes) (p : Nat) (m : Bytes) (si : Nat) (se : Session) (li : Nat) (l : Layer)
    (rows : List Bytes) : Prop :=
  s.view.partOf src = some p ∧ m = srcBytes src appendFields (b.take 32) ∧ s.view.srcOk src = true ∧ s.view.staleSrc src = false ∧ s.view.live p = true ∧
  s.view.isDark = false ∧ rd s Reg.PGM_APPEND_EN = 1 ∧ NamesSession s p (fieldAt m 0 4) si se ∧
  se.cid.toNat = fieldAt m 0x10 8 ∧ se.state = .open ∧ li = fieldAt m 4 1 ∧ li < se.layers.length ∧
  l = atD se.layers li Layer.empty ∧ fieldAt m 5 1 < 4 ∧ 1 ≤ rows.length ∧ rows.length ≤ 4096 ∧ fieldAt m 6 2 = rows.length ∧
  fieldAt m 0xC 4 = (if bitOf (fieldAt m 5 1) 0 then (s.view.rowFmt se.fmt).rowBytes
    else 2 * ((s.view.rowFmt se.fmt).c + (s.view.rowFmt se.fmt).p)) ∧
  zeroAt m 0x1C 4 = true ∧ b.length = 32 + rows.length * fieldAt m 0xC 4 ∧
  (bitOf (fieldAt m 5 1) 1 = true → s.view.nextPos si li l < fieldAt m 8 4 → fieldAt m 8 4 % 16 = 0) ∧
  s.view.packRows src se.fmt (!bitOf (fieldAt m 5 1) 0) rows.length (fieldAt m 0xC 4) b = some rows ∧
  s.view.prefixPending si = false

/-- A prefix request of a source reaches its operation (R142, R145): its descriptor `m` in memory form, and the Open session it
names, where its kind names one. -/
abbrev PrefixAsks (s : State) (kind : PfxKind) (src : Src) (b : Bytes) (p : Nat) (m : Bytes) (se : Option (Nat × Session)) : Prop :=
  s.view.partOf src = some p ∧ m = srcBytes src prefixFields b ∧ s.view.srcOk src = true ∧ s.view.staleSrc src = false ∧ fieldAt m 0 1 = kind.op ∧
  s.view.live p = true ∧ s.view.isDark = false ∧ se.isSome = kind.named ∧
  (∀ x ∈ se, NamesSession s p (fieldAt m 4 4) x.1 x.2 ∧ x.2.cid.toNat = fieldAt m 8 8 ∧ x.2.state = .open) ∧
  prefixFormOk kind m b.length (se.map (·.2)) = true ∧ s.node.ks.waiting.length < 256

/-- The operation that a prefix request asks for (R142). -/
def askedPrefix (s : State) (kind : PfxKind) (src : Src) (b : Bytes) (p : Nat) (m : Bytes) (se : Option (Nat × Session)) : PfxOp :=
  { kind := kind, src := src, part := p, session := (se.map (·.1)).getD 0, handle := fieldAt m 4 4, fmt := fieldAt m 1 1
    layers := fieldAt m 2 1, firstPos := fieldAt m 0x10 4, jump := bitOf (fieldAt m 0x1C 4) 0, parentId := fieldAt m 0x20 8
    tag := fieldAt m 0x18 4, entries := prefixEntries src b (fieldAt m 0x14 4), arrival := s.view.arrivalTick src }

/-- What a field of GLB_SPARE_MAP_LO would hold after a write. -/
def spareWish (s : State) (wr : RegWr) (f : Fld) : Nat := if fieldEnabled wr f then s.view.merged wr 0 0 f else rd s f

/-- A write of GLB_SPARE_MAP_LO that the node obeys (R48, R49). -/
abbrev SpareWriteOk (s : State) (wr : RegWr) : Prop :=
  s.view.addresses wr .GLB [0x140] = true ∧ wr.fn = .pf ∧ spareWish s wr Reg.GLB_CL_SPARE_A ≤ 25 ∧ spareWish s wr Reg.GLB_CL_SPARE_B ≤ 25 ∧
  spareWish s wr Reg.GLB_KEY_SPARE_A ≤ 65 ∧ spareWish s wr Reg.GLB_KEY_SPARE_B ≤ 65 ∧ s.node.cl.swaps = [] ∧
  (∀ b : Nat, b < 66 → rd s Reg.KEY_REBUILDING 0 b = 0) ∧
  spareWish s wr Reg.GLB_CL_SPARE_A ≠ spareWish s wr Reg.GLB_CL_SPARE_B ∧
  spareWish s wr Reg.GLB_KEY_SPARE_A ≠ spareWish s wr Reg.GLB_KEY_SPARE_B ∧
  (∀ a ∈ spareAsks (spareWish s wr) (rd s ·) clSpareFld, s.view.spareAskOk true a = true) ∧
  (∀ a ∈ spareAsks (spareWish s wr) (rd s ·) keySpareFld, s.view.spareAskOk false a = true)

/-- A pass of some row blocks on a slot, held by cluster `c`, may start and ends in time (R169, R172, R175). -/
abbrev PassStarts (s : State) (slot : Nat) (work : List PassItem) (items : List (PassItem × Query × Tile × QTile)) (c : Nat) : Prop :=
  s.view.physOf slot = some c ∧ (work.mapM fun x => (s.view.passItem slot x).map fun y => (x, y)) = some items ∧ work ≠ [] ∧
  (∀ a ∈ items, ∀ b ∈ items, a.2.1.fmt = b.2.1.fmt ∧ a.2.1.desc.qbf16 = b.2.1.desc.qbf16 ∧ a.2.1.expanded = b.2.1.expanded ∧
    (a.2.1.expanded = true → a.2.1.desc.layer = b.2.1.desc.layer)) ∧
  (work.map fun x => (x.query, x.rb, x.headBlock)).Nodup ∧ (work.map fun x => (x.query, x.tile, x.headBlock)).Nodup ∧
  passBlocks items ≤ 4 ∧ rd s Reg.CL_FAULTED c = 0 ∧ s.node.qa.cur.state = .running ∧
  (∀ a ∈ items, a.2.1.expanded = true → s.view.segmentsReady c a.2.1.desc.layer = true) ∧
  s.view.inTime c (s.view.passCost slot items) = true

/-- The body of SWAP_REQ for a lane of a half (R249). -/
def swapAsk (lane half : Nat) : Bytes := Sys2Proof.Crypto.beBytes 1 4 ++ Sys2Proof.Crypto.beBytes 1 lane ++ Sys2Proof.Crypto.beBytes 1 half

/-- The first unit of a class that waits on a port half, if credits and the port's shaper let it start: every unit that the shaper holds
waits while one of them must (R257, R340, R342). -/
def portHead (s : State) (port half c : Nat) : Option TxUnit :=
  let first := fun (c : Nat) => (s.view.txQueue (2 * port + half)).find? fun u => u.cls = c
  (first c).bind fun u =>
    if unitFlits u.bytes ≤ atD (s.view.half port half).avail c 0 ∧
        (c = 0 ∨ [1, 2, 3].all fun k => (first k).all fun v => s.view.admits (shaperAt 2 (2 * port + half)) v.bytes.length) then
      some u else none

/-- The class that the round robin of a port half serves next (R340). -/
def portTurnOf (s : State) (port half : Nat) : Option Nat :=
  let k := 2 * port + half
  (roundRobin (rd s Reg.SCH_QUANTUM)
    ([1, 2, 3].filterMap fun c => (portHead s port half c).map fun u =>
      { id := c, weight := rd s (if c = 1 then Reg.SCH_W1 else if c = 2 then Reg.SCH_W2 else Reg.SCH_W3) 0 (shaperAt 2 k)
        len := u.bytes.length : Entrant })
    ([1, 2, 3].filterMap fun c => (lookupN (k * 4 + c) s.node.sc.portDeficit).map fun v => (c, v))
    (numN k s.node.sc.portTurn)).map (·.1)

/-- The packet that the scheduler forms next (R338). -/
def nextPacket (s : State) : Option Cand :=
  let w := s.view.placeWaiting
  ((w.dropDeficits w.eligible).decide_ w.eligible).map (·.1)

/-- A counter field has grown by `n`, as a counter does: it stops at its greatest value (R499). -/
abbrev Counted (s t : State) (f : Fld) (n : Nat := 1) (inst : Nat := 0) (idx : Nat := 0) : Prop :=
  rd t f inst idx = min (rd s f inst idx + n) (2 ^ f.width - 1)

/-- A connection or region descriptor on a host queue reaches its operation `op` for partition `p` (R270, R295). -/
abbrev ControlAsks (s : State) (q e p : Nat) (desc : Bytes) (op : Nat) : Prop :=
  s.view.queuePart q = some p ∧ s.view.srcOk (.queue q e) = true ∧ fieldAt desc 0 1 = op ∧ s.view.live p = true

/-- A started host entry `h` of partition `p` with an opcode, not yet taken in (R318, R324). -/
abbrev EntryRuns (s : State) (q e op p : Nat) (h : HEntry) : Prop :=
  s.view.queuePart q = some p ∧ (s.view.queueOf q).entryOf e = some h ∧ h.started = true ∧ h.arrived = false ∧ h.opcode = op

/-- The payload of a host entry is at hand: `b`, from the buffer allotment, or read from the host, the handle written in (R319,
R329). -/
abbrev PayloadIs (s : State) (h : HEntry) (payload : Option Bytes) (b : Bytes) : Prop :=
  ((bitOf h.sflags 2 = true ∨ h.payLen = 0) ∧ b = h.subst (s.view.bytes h.payAddr h.payLen)) ∨
  (bitOf h.sflags 2 = false ∧ h.payLen ≠ 0 ∧ s.node.bo.busMaster = true ∧ (payload.getD []).length = h.payLen ∧ payload.isSome ∧
    b = h.subst (payload.getD []))

/-- A whole message of connection `c`, of a live partition, may act (R292, R360). -/
abbrev MsgHere (s : State) (conn msn : Nat) (c : Conn) : Prop :=
  s.view.connOf conn = some c ∧ s.view.srcOk (.conn conn msn) = true ∧ s.view.live c.part = true

/-- It may act, and its sender is not fenced (R396). -/
abbrev MsgRuns (s : State) (conn msn : Nat) (c : Conn) : Prop := MsgHere s conn msn c ∧ s.view.staleSender c = false

/-- A whole message of OP PARTIAL of connection `conn` may act (R288, R292, R360): it carries record `r`, of a kind, for partition `p`. -/
abbrev RecordActs (s : State) (conn msn kind : Nat) (b : Bytes) (p : Nat) (r : PartialRec) : Prop :=
  (s.view.connOf conn).map (·.part) = some p ∧ s.view.srcOk (.conn conn msn) = true ∧ s.view.staleSrc (.conn conn msn) = false ∧
  s.view.isDark = false ∧ s.view.live p = true ∧
  PartialRec.read b = some r ∧ r.kind = kind

/-- A packet of a remote access may be placed, and its message acts as soon as it is whole (R289, R294, R300): its message `m` is neither
done nor whole, nor its packet there, its sender is not fenced (R396), and no other message of the node waits to act. -/
abbrev AccessRuns (s : State) (op : Nat) (pkt : MsgPart) (c : Conn) (m : InMsg) : Prop :=
  s.view.staleSender c = false ∧ quietMsgs s pkt.conn pkt.msn ∧
  (∀ x ∈ s.node.tp.inMsgs, ¬ (x.conn = pkt.conn ∧ x.msn = pkt.msn) → x.mayAct = false) ∧
  s.view.connOf pkt.conn = some c ∧ c.state ≠ .broken ∧ c.msnIsDone pkt.msn = false ∧
  m = (s.view.inMsg pkt.conn pkt.msn).getD (InMsg.fresh pkt.conn pkt.msn op pkt.target) ∧ m.op = op ∧ m.complete = false ∧
  lookupN pkt.index m.parts = none

/-- A packet for this node on a hot connection that its search finds (R134, R289, checks 1 to 4): its header `h`, the connection `c`. -/
abbrev PacketFor (s : State) (pkt : Bytes) (h : PktHead) (c : Conn) : Prop :=
  h = PktHead.read pkt ∧ headerOk pkt = true ∧ h.dstNode = s.view.nodeId ∧ s.view.connOf h.dst = some c ∧ c.hot = true ∧ c.fetching = false ∧
  ConnFound s h.dst c ∧ h.srcNode = c.peerNode ∧ c.state ≠ .broken

/-- The key of a packet's epoch (R272, R302). -/
def keyOf (c : Conn) (epoch : Nat) : Option (BitVec 256) :=
  if epoch = c.epoch then some c.key else if (epoch + 1) % 65536 = c.epoch then c.prevKey else none

/-- The node as an entry finds it once its payload has been read: bytes read from the host are counted (R319, PCI_RD_KIB). -/
def payloadRead (s : State) (p : Nat) (h : HEntry) : Work :=
  if bitOf h.sflags 2 ∨ h.payLen = 0 then s.view else s.view.hostFetch (partFn p) (some p) h.payAddr h.payLen

/-- The command that a host entry's descriptor `b` names (R318, R319), for an entry that carries another command's descriptor. -/
def hostCommand (h : HEntry) (q e : Nat) (b : Bytes) (at_ : Nat) : Option Instr :=
  let src := Src.queue q e
  match h.opcode, fieldAt b 0 1 with
  | 1, 1 => some (.openSession src b)
  | 1, 2 => some (.forkSession src b)
  | 1, 3 => some (.closeSession src b)
  | 1, 0x10 => some (.matchPrefix src b)
  | 1, 0x11 => some (.publishBlocks src b)
  | 1, 0x12 => some (.retractBlocks src b)
  | 1, 0x13 => some (.pinBlocks src b)
  | 1, 0x14 => some (.unpinBlocks src b)
  | 2, _ => some (.attend src b at_)
  | 3, _ => some (.appendRows src b at_)
  | 4, 1 => some (.installConn src b)
  | 4, 2 => some (.rekeyConn src b)
  | 4, 3 => some (.removeConn src b)
  | 5, 0x10 => some (.regionCreate src b)
  | 5, 0x11 => some (.regionAdvance src b)
  | 5, 0x12 => some (.regionDestroy src b)
  | _, _ => none

/-- A host entry's result buffer is large enough for the query's partial, where it is to be written there (R325). -/
abbrev ResultFits (s : State) (p : Nat) (h : HEntry) (b : Bytes) : Prop :=
  (QDesc.read b).dest ≠ 0xFFFF ∨
  ((s.view.queryShape p (QDesc.read b)).map fun sh => partialLen (QDesc.read b).heads sh.channels (QDesc.read b).fp8 + 16).getD 0 ≤ h.resLen

/-- The compressor of a die is to emit block `blk` of move `mv` next (R211, R219, R222): move `m` of course `c`, and the run `r` over it, new
with its first block. -/
abbrev SpillRuns (s : State) (die mv blk : Nat) (m : Move) (c : Course) (r : CmpRun) : Prop :=
  lookupN mv s.node.st.moves = some m ∧ s.view.course m.course = some c ∧ s.view.compressorOf c = some die ∧ m.dst.tier = 1 ∧
  m.checked = none ∧ blk = m.dst.blks.length ∧ blk < c.blocks ∧
  (blk = 0 → r = s.view.courseRun (.spill mv) c ∧ s.view.cmpRun die = none ∧ s.view.mirrorWaits die = false ∧
    (s.view.compressing die).head? = some mv ∧ s.view.badPages c = []) ∧
  (blk ≠ 0 → s.view.cmpRun die = some r ∧ r.job = .spill mv)

/-! ## Management orders -/

/-- The request that a management frame brings, when it passes the checks of R466 to R470: its form, node, epoch and class bit, a SEQ
above the requester's last, and, but for the clear frames before the first MK and in recovery mode, its authentication. -/
def requestOf (s : State) (f : Frame) (type : Nat) (cls : Fld) : Option MgReq :=
  let p := f.payload
  let clear := bitOf (fieldAt p 2 1) 1
  let nid := fieldAt p 8 2
  let body := (p.drop 32).take (fieldAt p 0xA 2)
  let seq := fieldAt p 4 4
  if f.port < 2 ∧ rd s Reg.MG_LINK_UP f.port ≠ 0 ∧ rd s Reg.MG_EN f.port ≠ 0 ∧ fieldAt p 1 1 = type ∧ frameOk p = true ∧
      (nid = s.view.nodeId ∨ (nid = 0xFFFF ∧ rd s Reg.GLB_IDS_LOCKED = 0)) ∧ fieldAt p 0x18 2 = rd s Reg.MG_MK_EPOCH f.port ∧
      rd s cls f.port ≠ 0 ∧ (∀ q ∈ s.node.mt.requesters, q.port = f.port → q.mac = f.mac → q.seq < seq) then
    let req : MgReq := { port := f.port, mac := f.mac, type := type, flags := fieldAt p 2 1, seq := seq, offset := fieldAt p 0xC 4
                         body := body, clear := clear, key := 0, epoch := rd s Reg.MG_MK_EPOCH f.port }
    match s.node.mt.key with
    | none => if clear ∧ (type = 1 ∨ type = (if s.node.bo.recovery then 0x30 else 2)) ∧ f.port = rd s Reg.GLB_MGT_SEL then some req else none
    | some k => if clear then none else
        (gcmOpen k (mgNonce f.mac 0 f.port seq) (p.take 32) body (p.drop (32 + body.length))).map fun pt => { req with body := pt, key := k }
  else none

/-- The node as an order finds it: its frame counted, its requester noted as the latest heard of its port (R469). -/
def orderWork (s : State) (r : MgReq) : Work :=
  let w := s.view.count Reg.MG_RX_FRAMES 1 r.port
  let others := s.node.mt.requesters.filter fun q => !(decide (q.port = r.port) && decide (q.mac = r.mac))
  { w with n.mt.requesters := { port := r.port, mac := r.mac, seq := r.seq, resp := [] } ::
      ((others.filter fun q => q.port = r.port).take 15 ++ others.filter fun q => q.port != r.port) }

/-- The frame that answers a request (R466, R467, R471), for a node ID and the tick at which it is sent. -/
def reply (node : Nat) (now : Tick) (r : MgReq) (status : Nat) (body : Bytes) : Out :=
  let hdr := leBytes 1 1 ++ leBytes 1 r.type ++ leBytes 1 (if r.clear then 3 else 1) ++ leBytes 1 status ++ leBytes 4 r.seq ++
    leBytes 2 node ++ leBytes 2 body.length ++ leBytes 4 r.offset ++ leBytes 8 now.toNat ++ leBytes 2 r.epoch ++ leBytes 6 0
  let sealed := gcmSeal r.key (mgNonce r.mac 1 r.port r.seq) hdr body
  .mgmt r.port r.mac (if r.clear then hdr ++ body else hdr ++ sealed.1 ++ sealed.2)

/-- A request is answered with a status and a body. -/
abbrev Answered (s t : State) (r : MgReq) (status : Nat) (body : Bytes) : Prop :=
  reply s.view.nodeId s.node.tk.now r status body ∈ t.node.out

/-- The input power that a regulator of the PMBus list answered (R419), in 1/4 W; none where it did not. -/
def pmbOf (rs : List PmbReading) (e : Nat) : Option Nat := (rs.find? fun r => r.entry = e).bind (·.power)

/-- A command that can reset the node: power, the clock, the thermal trip, a warm reset, and the last chunk of an image in recovery
mode (R444, R446, R474). -/
def resetsNode : Instr → Bool
  | .imageWrite .. | .resetOrder .. | .warmReset .. | .watchdogWarmReset | .pwrgoodRise .. | .pwrgoodFall ..
  | .thermtrip | .sysclkLost => true
  | _ => false

/-- A command that can move the tick's state: the boundary, its sources, a change of its period, and a read that latches NOW_HI. -/
def movesTick : Instr → Bool
  | .tickBoundary | .periodSwitch | .helloFlit .. | .tickMark .. | .tickSourceLost .. | .tickLoad ..
  | .latchingRegisterRead .. | .tickSwitchWrite .. | .tickInLost | .tickInEdge .. | .readReg .. => true
  | _ => false

/-- A command that stores nothing in the node's memory, save the prompt book's own entries (R410). -/
def storesNothing : Instr → Bool
  | .computeCutoff | .lendPoint | .heatDecay | .pgmFmtValid .. | .parityScan ..
  | .keystoneBankRebuilt .. | .spareMapWrite .. | .clusterSwapEffect | .clusterFault .. | .clusterBufferUe ..
  | .controlCoreFault .. | .clusterPass .. | .resultPortTransfer .. | .codebookValid .. | .weightLoad ..
  | .weightLoadDone | .creditWaitExpired .. | .earlyWaitExpired .. | .xpdRetire .. | .lpEnable .. | .lpRetrain ..
  | .forceSwap .. | .laneSignalDetect .. | .lanesConverged .. | .trainTimeout .. | .lanesDeskewed .. | .helloFlit ..
  | .helloTimer .. | .helloTimeout .. | .hardLaneFailure .. | .alignmentRound .. | .swapReq .. | .swapAck ..
  | .linkUnitReceived .. | .codewordUncorrectable .. | .creditFlit .. | .tickMark .. | .tickSourceLost ..
  | .tickSwitchWrite .. | .periodSwitch | .tickLoad .. | .tickInEdge .. | .tickInLost | .rekeyOverlapExpired ..
  | .ackDelayExpired .. | .probeExpired .. | .portUnitStart .. | .shaperReconfigure .. | .meterReconfigure ..
  | .queueEnable .. | .queueDisable .. | .queueReset .. | .queueDrained .. | .sqTail .. | .coalNsExpired ..
  | .functionReset .. | .perstAssert | .bar4Read .. | .partCreate .. | .installKey .. | .fkekWrite .. | .fkekLock ..
  | .svnCommit .. | .extGo .. | .attGo .. | .mirrorAckLate .. | .mirrorReseedTimer .. | .orphanTimeout ..
  | .powerEstimate .. | .telemetryTrim .. | .hbmTempRead .. | .droopTrip .. | .laneScan .. | .opticalRead ..
  | .budgetOrder .. | .budgetExpired | .bootImageVerified .. | .d2dTrained .. | .ddrTrainingDone .. | .hbmRoundDone ..
  | .selftestDone .. | .readyReached | .promotionBoundary | .glbIdLock .. | .serdesclkLost .. | .pcieRefclkLost
  | .d2dDegraded .. | .statusOrder .. | .setMk .. | .setIds .. | .leaseOrder .. | .fenceMinOrder ..
  | .reconcileOrder .. | .adoptOrder .. | .discardOrder .. | .readReg .. | .attestOrder .. | .calRead .. | .logRead ..
  | .usageOrder .. | .takenListOrder .. | .imageStreamIdle | .mkWrite .. | .usageSample | .softReset ..
  | .freezeWrite .. | .blkIsrClear .. | .blkIset .. | .blkIerWrite .. | .holdoffExpired .. | .managementLinkChange ..
  | .perstRelease | .pcieLinkTrained .. | .serdesclkReturn .. | .pcieRefclkReturn | .droopRelease .. | .watchdogWarning
  | .latchingRegisterRead .. | .msixUnmask .. | .sriovVfEnable .. => true
  | _ => false

/-- What reads of BAR0 through the physical function return, in order, each after the effects of those before it, and the view that
they leave (R472). -/
def readsInOrder (w : Work) : List Nat → List Nat × Work
  | [] => ([], w)
  | o :: os => let v := w.busRead .pf o
    let r := readsInOrder v.2 os
    (v.1 :: r.1, r.2)

/-- What a reset leaves of the node (R444): every structure at its reset value; what has left the node, the free values drawn, and
the levels at the balls are not the node's. -/
def resetNode (s : State) : Node :=
  { Node.reset with
    out := s.node.out, fresh := s.node.fresh
    bo := { BringUp.reset with perst := s.node.bo.perst, perstHeld := !s.node.bo.perst, pcieClk := s.node.bo.pcieClk
                               serdesClk := s.node.bo.serdesClk } }

/-- Floor bytes of the sheet being built that the engines' reservations leave unused (R192). -/
def unusedFloors (s : State) : Nat := s.view.sheetStacks.length * s.view.floorBytes - s.view.reservedBytes

/-- A request has been answered at its source (R283, R315): its completion record waits on its connection, or its entry has left the
queue. -/
abbrev AnsweredTo (t : State) (src : Src) (tag status aux0 aux1 : Nat) : Prop :=
  match src with
  | .conn id msn => ∃ c ∈ lookupN id t.node.tp.conns,
      ({ msn := msn, status := status, tag := tag, aux0 := aux0, aux1 := aux1 } : CmplRec) ∈ c.records
  | .queue q e => (t.view.queueOf q).entryOf e = none

/-- The node as it decides a request of a source: as of the request's arrival (R36, R109, R292). -/
def asSeen (s : State) (src : Src) : Work :=
  if s.view.late src then s.view.asOf (s.view.arrivalTick src) else s.view

/-- Results that cluster `c` has left unfinished at the cutoff: one for each query and slot (R42). -/
def cutOff (s : State) (c : Nat) : Nat :=
  (s.node.qa.cur.queries.flatMap fun e => (e.2.slots s.node.qa.cur.tiles).filter fun sl =>
    !e.2.slotDone s.node.qa.cur.tiles sl && decide (s.view.physOf sl = some c)).length

/-- The status of a query's partial (R193). -/
def partialStatus (q : Query) (done : Nat) : Nat :=
  if q.status ≠ 0 then q.status else if q.spoiled ∨ done < q.pagesNamed then stIncomplete else stOK

/-- The node as the running prefix operation does its work. -/
def prefixFrom (s : State) : Work := { s.view with n.ks.running := none, n.ks.moved := 0 }

end Sys2Proof.Safety
end

