-- ==== Sys2Proof/Certificates/Slice0/Obligations.lean ====
section
/-!
DEFINITION. Sys2Proof/Certificates/Slice0/Obligations.lean: what is stated of the machine, from the rules of spec/. Each docstring
names the rules; `Canonical s` says that the register file and memory of a state have their one form, which every step keeps.
-/

open Sys2Proof Sys2Proof.Machine Sys2Proof.Safety

/-- A step takes the command at the front of the queue and runs it with the queue's rest: the form of a block's step. -/
def Obligations.StepRunsTheCommandInFront : Prop :=
  ∀ (c : Instr) (rest : List Instr) (s : State), s.pending = c :: rest → step s = exec c { s with pending := rest }

/-- The model's choice (log 11): a step on an empty queue changes nothing. -/
def Obligations.EmptyQueueIdles : Prop :=
  ∀ s : State, s.pending = [] → step s = .next s

/-- No command stops; none touches the waiting queue; the fused SVN never falls (R367). -/
def Obligations.EveryCommandEndsAndKeepsTheQueue : Prop :=
  ∀ (c : Instr) (s : State), ∃ t, exec c s = .next t ∧ t.pending = s.pending ∧ s.svnFuse ≤ t.svnFuse

/-- The invariant of the two sparse stores: registers (spec/17) by key, memory (spec/02) by address, each in one canonical form. -/
def Obligations.StepsKeepTheCanonicalForms : Prop :=
  ∀ s t : State, Canonical s → step s = .next t → Canonical t

/-- What a power-on reset leaves (R27, R359, R441, R442, R456, R468, and the reset column of spec/17). -/
def Obligations.ResetIsAsTheSpecGivesIt : Prop :=
  Canonical State.reset ∧ State.reset.pending = [] ∧ rd State.reset Reg.GLB_NODE_STATE = 0 ∧ rd State.reset Reg.TICK_PERIOD = 8 ∧
      rd State.reset Reg.GLB_POWER_ON = 1 ∧ State.reset.node.pg.sessions = [] ∧ State.reset.node.tp.conns = [] ∧
      State.reset.node.tp.regions = [] ∧ State.reset.node.mi.streams = [] ∧ State.reset.node.se.fkek = none ∧
      State.reset.node.mt.key = none ∧ State.reset.node.bo.perst = true ∧ State.reset.node.bo.romDone = false ∧ State.reset.alive = true

/-- A node that does not answer (R431, R442, R456, R508) is changed by its power and clock pins alone (log 113). -/
def Obligations.SilentNodeIgnoresCommands : Prop :=
  ∀ (c : Instr) (s : State), s.alive = false → (∀ b m k, c ≠ .pwrgoodRise b m k) → (∀ ns, c ≠ .pwrgoodFall ns) →
      c ≠ .thermtrip → c ≠ .sysclkLost → exec c s = .next s

/-- R431, R441, R442, R444, R456, R508, R510: exactly the next state, so each clause is its own frame. -/
def Obligations.PowerPinsResetTheNode : Prop :=
  (∀ (s : State) (ns : Nat), ns < 1000 →
      exec (.pwrgoodFall ns) s = .next s) ∧
  (∀ (s : State) (ns : Nat), 1000 ≤ ns →
      exec (.pwrgoodFall ns) s = .next { s with node := { resetNode s with bo := { (resetNode s).bo with on := false } }, regs := [], mem := s.mem.afterReset }) ∧
  (∀ (s : State) (b : Nat) (m tm : Bool), s.node.bo.on = true →
      exec (.pwrgoodRise b m tm) s = .next s) ∧
  (∀ (s : State) (b : Nat) (m tm : Bool), s.node.bo.on = false →
      ∃ t, exec (.pwrgoodRise b m tm) s = .next t ∧
        t.node = resetNode s ∧
        t.mem = s.mem.afterReset ∧
        t.svnFuse = s.svnFuse ∧
        t.pending = s.pending ∧
        rd t Reg.GLB_BOOT_SEL = b % 4 ∧
        rd t Reg.GLB_MGT_SEL = m.toNat ∧
        rd t Reg.GLB_TEST_MODE = tm.toNat ∧
        rd t Reg.GLB_NODE_STATE = 0 ∧
        rd t Reg.GLB_POWER_ON = 1) ∧
  (∀ (s : State), s.node.bo.on = true →
      s.node.bo.thermtrip = false →
      exec .thermtrip s = .next { s with node := { resetNode s with bo := { (resetNode s).bo with stopped := true, thermtrip := true }, out := s.node.out ++ [Out.thermtrip] }, regs := [], mem := s.mem.afterReset }) ∧
  (∀ (s : State), s.node.bo.on = true →
      s.node.bo.stopped = false →
      exec .sysclkLost s = .next { s with node := { resetNode s with bo := { (resetNode s).bo with stopped := true } }, regs := [], mem := s.mem.afterReset })

/-- R399, R444, R445, R464; GLB_RESET_CAUSE of spec/15 and spec/17. -/
def Obligations.WatchdogAndWarmResets : Prop :=
  (∀ (s : State) (wr : RegWr) (inst idx : Nat), s.alive = true →
      Canonical s →
      Lands s wr .GLB 0x114 inst idx →
      wrote1 wr Reg.GLB_WARM = true →
      ∃ t, exec (.warmReset wr) s = .next t ∧
        t.node = resetNode s ∧
        t.mem = s.mem.afterReset ∧
        t.svnFuse = s.svnFuse ∧
        rd t Reg.GLB_WARM_REG = 1 ∧
        rd t Reg.GLB_POWER_ON = 0 ∧
        rd t Reg.GLB_BOOT_SEL = rd s Reg.GLB_BOOT_SEL % 4 ∧
        rd t Reg.GLB_MGT_SEL = rd s Reg.GLB_MGT_SEL % 2 ∧
        rd t Reg.GLB_WARM_COUNT = min (rd s Reg.GLB_WARM_COUNT % 256 + 1) 255 ∧
        rd t Reg.GLB_NODE_STATE = 0) ∧
  (∀ (s : State) (at_ : Nat), s.alive = true →
      Canonical s →
      s.node.bo.warmAt = some at_ →
      at_ ≤ s.node.tk.upPs + s.view.periodPs →
      ∃ t, exec .watchdogWarmReset s = .next t ∧
        t.node = resetNode s ∧
        t.mem = s.mem.afterReset ∧
        t.svnFuse = s.svnFuse ∧
        rd t Reg.GLB_WATCHDOG = 1 ∧
        rd t Reg.GLB_POWER_ON = 0 ∧
        rd t Reg.GLB_WARM_COUNT = min (rd s Reg.GLB_WARM_COUNT % 256 + 1) 255) ∧
  (∀ (s : State), s.alive = true →
      rd s Reg.GLB_WDOG_ARMED = 1 →
      ∃ t, exec .watchdogWarning s = .next t ∧
        t.node.bo.wdogWarned = true ∧
        t.node.bo.wdogAt = min s.node.bo.wdogAt (s.node.tk.upPs + 10000000000) ∧
        t.mem = s.mem) ∧
  (∀ (s : State) (core : Nat), s.alive = true →
      Canonical s →
      rd s Reg.GLB_WDOG_ARMED = 1 →
      ∃ t, exec (.watchdogExpired core) s = .next t ∧
        t.node.mi.fenced = true ∧
        rd t Reg.GLB_NODE_STATE = 0 ∧
        rd t Reg.GLB_WDOG_ARMED = 0 ∧
        t.node.bo.warmAt = some (s.node.tk.upPs + 10000000000) ∧
        t.node.tk = s.node.tk)

/-- R365 to R367, R447 to R453, R455. -/
def Obligations.BringUpTakesEachStage : Prop :=
  (∀ (s : State) (image : Nat), s.alive = true →
      Canonical s →
      s.view.nextImage = some image →
      ∃ t, exec (.bootImageVerified image) s = .next t ∧
        t.node.bo.romDone = true ∧
        (s.view.imageFails image = none → t.node.bo.running = some image ∧ rd t Reg.GLB_FW_RUNNING = 1 ∧ rd t Reg.GLB_WDOG_ARMED = 1) ∧
        (s.view.imageFails image ≠ none → t.node.bo.imgFailed = image :: s.node.bo.imgFailed ∧ t.node.bo.running = none ∧
      t.node.bo.recovery = decide (t.view.nextImage = none)) ∧
        t.node.tk = s.node.tk) ∧
  (∀ (s : State), s.alive = true →
      Canonical s →
      rd s Reg.GLB_FW_RUNNING = 1 →
      rd s Reg.GLB_D2D_UP = 0 →
      rd s Reg.GLB_D2D_FAIL = 0 →
      ∃ t, exec (.d2dTrained true) s = .next t ∧
        rd t Reg.CST_UP = 1 ∧
        rd t Reg.GLB_D2D_UP = 1 ∧
        rd t Reg.GLB_HBM_ROUND = 1) ∧
  (∀ (s : State), s.alive = true →
      Canonical s →
      rd s Reg.GLB_FW_RUNNING = 1 →
      rd s Reg.GLB_D2D_UP = 0 →
      rd s Reg.GLB_D2D_FAIL = 0 →
      ∃ t, exec (.d2dTrained false) s = .next t ∧
        rd t Reg.GLB_D2D_FAIL = 1 ∧
        rd t Reg.GLB_D2D_UP = 0) ∧
  (∀ (s : State) (chans : List DdrChan), s.alive = true →
      Canonical s →
      rd s Reg.GLB_D2D_UP = 1 →
      rd s Reg.GLB_DDR_DONE = 0 →
      ∃ t, exec (.ddrTrainingDone chans) s = .next t ∧
        rd t Reg.GLB_DDR_DONE = 1 ∧
        (∀ c : Nat, c < 12 → ∀ d ∈ chans[c]?, rd t Reg.DDR_TRAINED c = (d.trained && decide (0 < d.modules)).toNat)) ∧
  (∀ (s : State) (failed : List Nat), s.alive = true →
      Canonical s →
      1 ≤ rd s Reg.GLB_HBM_ROUND ∧ rd s Reg.GLB_HBM_ROUND ≤ 3 →
      ∃ t, exec (.hbmRoundDone failed) s = .next t ∧
        (rd t Reg.GLB_HBM_ROUND = (if rd s Reg.GLB_HBM_ROUND = 3 then 0 else rd s Reg.GLB_HBM_ROUND + 1)) ∧
        (∀ st ∈ roundStacks (rd s Reg.GLB_HBM_ROUND), st ∉ failed → rd t Reg.HBM_TRAINED st = 1 ∧ rd t Reg.HBM_IN_SERVICE st = 1) ∧
        (∀ st ∈ roundStacks (rd s Reg.GLB_HBM_ROUND), st ∈ failed → st ∈ t.node.bo.hbmFailed)) ∧
  (∀ (s : State) (bad : List BadUnit), s.alive = true →
      Canonical s →
      rd s Reg.GLB_SELFTEST_REH = 0 →
      rd s Reg.GLB_DDR_DONE = 1 →
      2 ≤ (s.view.readyStacks.filter (· < 4)).length →
      ∃ t, exec (.selftestDone .rehearsal bad) s = .next t ∧
        rd t Reg.GLB_SELFTEST_REH = 1) ∧
  (∀ (s : State) (bad : List BadUnit), s.alive = true →
      Canonical s →
      rd s Reg.GLB_SELFTEST_FULL = 0 →
      rd s Reg.GLB_HBM_DONE = 255 →
      ∃ t, exec (.selftestDone .full bad) s = .next t ∧
        rd t Reg.GLB_SELFTEST_FULL = 1 ∧
        (∀ c ∈ t.node.bo.passed, rd t Reg.CL_ACTIVE c = 0 ∧ rd t Reg.CL_FAULTED c = 0))

/-- R448, R449, R452, R456, R458, R462, R465. -/
def Obligations.NodeStatesAreEnteredAndLinksComeUp : Prop :=
  (∀ (s : State), s.alive = true →
      Canonical s →
      ∃ t, exec .readyReached s = .next t ∧
        rd t Reg.GLB_REH_READY = s.view.rehReady.toNat ∧
        rd t Reg.GLB_FULL_READY = s.view.fullReady.toNat ∧
        (rd s Reg.GLB_NODE_STATE = 0 → rd s Reg.MIR_VALID = 1 → s.node.mi.fenced = false → s.view.fullReady = true →
      rd t Reg.GLB_NODE_STATE = 2 ∨ rd t Reg.GLB_NODE_STATE = 3) ∧
        (rd s Reg.GLB_NODE_STATE = 0 → rd s Reg.MIR_VALID = 1 → s.node.mi.fenced = false → s.view.fullReady = false →
      s.view.rehReady = true → rd s Reg.GLB_REH_EN = 1 → rd s Reg.GLB_EVER_FULL = 0 → rd t Reg.GLB_NODE_STATE = 1) ∧
        (rd s Reg.GLB_NODE_STATE = 0 → (rd s Reg.MIR_VALID = 0 ∨ s.node.mi.fenced = true) → rd t Reg.GLB_NODE_STATE = 0)) ∧
  (∀ (s : State), s.alive = true →
      Canonical s →
      rd s Reg.GLB_NODE_STATE = 1 →
      s.view.pastPromotion = true →
      ∃ t, exec .promotionBoundary s = .next t ∧
        (rd t Reg.GLB_NODE_STATE = 2 ∨ rd t Reg.GLB_NODE_STATE = 3) ∧
        rd t Reg.GLB_PROMOTING = 0 ∧
        t.node.bo.promoteAt = none ∧
        (∀ c : Nat, c < 26 → rd t Reg.CL_HALF_CLOCK c = 0)) ∧
  (∀ (s : State) (wr : RegWr) (inst idx : Nat), s.alive = true →
      Canonical s →
      Lands s wr .GLB 0x10C inst idx →
      wrote1 wr Reg.GLB_LOCK = true →
      ∃ t, exec (.glbIdLock wr) s = .next t ∧
        rd t Reg.GLB_IDS_LOCKED = 1 ∧
        rd t Reg.GLB_LOCK = 1) ∧
  (∀ (s : State) (port : Nat), s.alive = true →
      Canonical s →
      port < 2 →
      rd s Reg.GLB_FW_RUNNING = 1 ∧ rd s Reg.GLB_D2D_UP = 1 →
      rd s Reg.MG_EN port = 1 →
      (port = rd s Reg.GLB_MGT_SEL ∨ s.node.bo.mgtFirst = true) →
      ∃ t, exec (.managementLinkChange port true) s = .next t ∧
        rd t Reg.MG_LINK_UP port = 1 ∧
        (port = rd s Reg.GLB_MGT_SEL → t.node.bo.mgtFirst = true) ∧
        t.mem = s.mem) ∧
  (∀ (s : State) (port : Nat), s.alive = true →
      rd s Reg.GLB_D2D_UP = 0 ∧ rd s Reg.GLB_D2D_FAIL = 0 ∧ s.node.bo.recovery = false →
      exec (.managementLinkChange port true) s = .next s) ∧
  (∀ (s : State) (port : Nat), s.alive = true →
      Canonical s →
      port < 2 →
      ∃ t, exec (.managementLinkChange port false) s = .next t ∧
        rd t Reg.MG_LINK_UP port = 0 ∧
        t.mem = s.mem)

/-- R305, R306, R332, R333, R446, R508. -/
def Obligations.PcieAndClockPinsChangeTheirState : Prop :=
  (∀ (s : State), s.alive = true →
      Canonical s →
      ∃ t, exec .perstAssert s = .next t ∧
        t.node.bo.perst = true ∧
        t.node.bo.perstHeld = false ∧
        t.node.bo.busMaster = false ∧
        t.node.bo.vfEnabled = 0 ∧
        t.node.hq.heldOut = [] ∧
        rd t Reg.PCI_UP = 0 ∧
        t.mem = s.mem) ∧
  (∀ (s : State), s.alive = true →
      exec .perstRelease s = .next { s with node := { s.node with bo := { s.node.bo with perst := false, perstHeld := !s.node.bo.romDone } } }) ∧
  (∀ (s : State), s.alive = true →
      Canonical s →
      ∃ t, exec .pcieRefclkLost s = .next t ∧
        t.node.bo.pcieClk = false ∧
        t.node.bo.busMaster = false ∧
        t.node.bo.vfEnabled = 0 ∧
        rd t Reg.PCI_UP = 0 ∧
        t.mem = s.mem) ∧
  (∀ (s : State), s.alive = true →
      exec .pcieRefclkReturn s = .next { s with node := { s.node with bo := { s.node.bo with pcieClk := true } } }) ∧
  (∀ (s : State) (speed width : Nat), s.alive = true →
      Canonical s →
      s.node.bo.perst = false →
      s.node.bo.perstHeld = false →
      s.node.bo.pcieClk = true →
      s.node.bo.romDone = true →
      s.node.bo.recovery = false →
      ∃ t, exec (.pcieLinkTrained speed width) s = .next t ∧
        rd t Reg.PCI_UP = 1 ∧
        rd t Reg.PCI_SPEED = speed % 2 ^ Reg.PCI_SPEED.width ∧
        rd t Reg.PCI_WIDTH = width % 2 ^ Reg.PCI_WIDTH.width ∧
        rd t Reg.PCI_DEGRADED = (decide (speed < 5) || decide (width < 8)).toNat ∧
        t.mem = s.mem) ∧
  (∀ (s : State) (clk : Nat), s.alive = true →
      Canonical s →
      clk < 4 →
      ∃ t, exec (.serdesclkLost clk) s = .next t ∧
        t.node.bo.serdesClk = s.node.bo.serdesClk.set clk false ∧
        (∀ p, clk * 8 ≤ p → p < clk * 8 + 8 → ∀ h ∈ s.view.halvesOf p, rd t (stateFld h) p ≤ 1)) ∧
  (∀ (s : State) (clk : Nat), s.alive = true →
      exec (.serdesclkReturn clk) s = .next { s with node := { s.node with bo := { s.node.bo with serdesClk := s.node.bo.serdesClk.set clk true } } }) ∧
  (∀ (s : State) (on : Bool) (num : Nat) (fn : Fn) (c : Instr), s.alive = true →
      rd s Reg.PCI_UP = 1 ∧ rd s Reg.GLB_FW_RUNNING = 0 →
      c = .busMasterEnableChange on ∨ c = .sriovVfEnable num ∨ c = .functionReset fn →
      exec c s = .next { s with node := { s.node with out := s.node.out ++ [.configRetry] } }) ∧
  (∀ (s : State) (on : Bool), s.alive = true →
      Canonical s →
      rd s Reg.PCI_UP = 1 ∧ rd s Reg.GLB_FW_RUNNING = 1 →
      ∃ t, exec (.busMasterEnableChange on) s = .next t ∧
        t.node.bo.busMaster = on ∧
        rd t Reg.PCI_BME = on.toNat ∧
        t.node.bo.vfEnabled = s.node.bo.vfEnabled) ∧
  (∀ (s : State) (num : Nat), s.alive = true →
      Canonical s →
      rd s Reg.PCI_UP = 1 ∧ rd s Reg.GLB_FW_RUNNING = 1 →
      num < 64 →
      ∃ t, exec (.sriovVfEnable num) s = .next t ∧
        t.node.bo.vfEnabled = num ∧
        rd t Reg.PCI_VFS = num ∧
        t.mem = s.mem) ∧
  (∀ (s : State), s.alive = true →
      Canonical s →
      rd s Reg.PCI_UP = 1 ∧ rd s Reg.GLB_FW_RUNNING = 1 →
      ∃ t, exec (.functionReset .pf) s = .next t ∧
        t.node.bo.vfEnabled = 0 ∧
        rd t Reg.PCI_VFS = 0 ∧
        t.mem = s.mem ∧
        (∀ q, (t.view.queueOf q).state = .disabled ∨ (t.view.queueOf q).state = .draining)) ∧
  (∀ (s : State) (p : Nat), s.alive = true →
      Canonical s →
      rd s Reg.PCI_UP = 1 ∧ rd s Reg.GLB_FW_RUNNING = 1 →
      ∃ t, exec (.functionReset (.vf p)) s = .next t ∧
        lookupN p t.node.hq.msix = none ∧
        rd t Reg.PCI_BASE_LO 0 p = 0 ∧
        t.node.bo = s.node.bo ∧
        t.mem = s.mem)

/-- R28; R34 and R40 in full service. -/
def Obligations.TickBoundaryAdvancesTheTickAndFreezesTheSheet : Prop :=
  ∀ (s : State), s.alive = true →
      ∃ t, exec .tickBoundary s = .next t ∧
        t.node.tk.now = s.node.tk.now + 1 ∧
        (rd s Reg.GLB_NODE_STATE = 2 ∨ rd s Reg.GLB_NODE_STATE = 3 →
      t.node.qa.cur.tick = s.node.tk.now + 1 ∧ t.node.qa.cur.state = SheetState.running ∧
      (∀ e ∈ s.node.qa.next.tiles, e.1 ∈ t.node.qa.cur.tiles.map (·.1)) ∧
      t.node.qa.cur.queries.map (·.1) = s.node.qa.next.queries.map (·.1) ∧
      t.node.qa.next.state = SheetState.open ∧ t.node.qa.next.tiles = [] ∧ t.node.qa.next.queries = [])

/-- R35, R40, R42, R176, R192, R193, R195, R198. -/
def Obligations.SheetPhasesStopDrainAndLend : Prop :=
  (∀ (s : State), s.alive = true →
      Canonical s →
      s.node.qa.cur.state = SheetState.running →
      ∃ t, exec .computeCutoff s = .next t ∧
        t.node.qa.cur.state = SheetState.draining ∧
        (∀ q ∈ t.node.qa.cur.queries, q.2.phase ≠ QPhase.running) ∧
        (∀ (k : Nat) (q : Query), lookupN k s.node.qa.cur.queries = some q → ∀ sl ∈ q.slots s.node.qa.cur.tiles,
      sl ∈ q.folded ∨ sl ∈ q.dropped ∨ (lookupN sl q.results).isSome ∨ (t.view.portOf sl ++ t.view.heldResults sl).any (fun e => e.1 = k) = true) ∧
        (∀ c : Nat, 0 < cutOff s c → Counted s t Reg.CL_CUTOFF (cutOff s c) c) ∧
        t.node.qa.cur.tick = s.node.qa.cur.tick ∧
        t.node.qa.next = s.node.qa.next ∧
        t.mem = s.mem) ∧
  (∀ (s : State), s.alive = true →
      s.node.qa.cur.state = SheetState.draining →
      (s.node.qa.cur.queries.map (·.1)).Nodup →
      ∃ t, exec .egressPhase s = .next t ∧
        (∀ q ∈ t.node.qa.cur.queries, q.2.phase = QPhase.left) ∧
        (∀ e ∈ s.node.qa.cur.queries, e.2.phase ≠ QPhase.left → ∃ x ∈ t.node.qa.cur.queries, x.1 = e.1 ∧ ∃ r, x.2.record = some r ∧
      r.queryId = e.2.desc.queryId ∧ r.pagesNamed = e.2.pagesNamed ∧ r.pagesDone = e.2.pagesDone s.node.qa.cur.tiles ∧
      r.status = partialStatus e.2 (e.2.pagesDone s.node.qa.cur.tiles)) ∧
        (t.node.qa.cur.state = SheetState.draining ∨ t.node.qa.cur.state = SheetState.closed) ∧
        t.node.qa.ports = [] ∧
        t.node.qa.resultsHeld = [] ∧
        t.node.qa.next = s.node.qa.next) ∧
  (∀ (s : State), s.alive = true →
      Canonical s →
      s.node.qa.budget.lent = false →
      rd s Reg.QAD_LEND_EN = 1 →
      ∃ t, exec .lendPoint s = .next t ∧
        t.node.qa.budget.lent = true ∧
        t.node.qa.budget.poolExtra = s.node.qa.budget.poolExtra + unusedFloors s * s.view.acting Reg.QAD_SESSION_PCT / 100 ∧
        rd t Reg.CST_LENT = unusedFloors s / 1024 % 2 ^ Reg.CST_LENT.width ∧
        (∃ u : List Nat, u.length = s.view.sheetStacks.length ∧ u.sum = unusedFloors s ∧ (∀ x ∈ u, x ≤ s.view.floorBytes) ∧
      ∀ (i st x : Nat) (h : Rat), s.view.sheetStacks[i]? = some st → u[i]? = some x → s.node.qa.budget.hHbm[st]? = some h → s.view.stackRate ≠ 0 →
      t.node.qa.budget.hHbm[st]? = some (max (s.view.clampPoint (s.view.acting Reg.QAD_POINT) : Rat) (h - max 0 ((x : Rat) -
        ((unusedFloors s * s.view.acting Reg.QAD_SESSION_PCT / 100 : Nat) : Rat) / (max s.view.sheetStacks.length 1 : Nat)) / s.view.stackRate))) ∧
        t.mem = s.mem ∧
        t.node.st = s.node.st)

/-- R107, R111, R114. -/
def Obligations.RetryPassGivesEveryStagedAppendOneRetry : Prop :=
  (∀ (s : State), s.alive = true →
      ∃ t, exec .retryPass s = .next t ∧
        (∀ g ∈ t.node.pg.staged, g.retries < rd s Reg.PGM_RETRIES ∧ ∃ g0 ∈ s.node.pg.staged, g = { g0 with retries := g0.retries + 1 })) ∧
  (∀ (s : State) (g : Staged) (se : Session) (l : Layer) (p : Placed), s.alive = true →
      s.node.pg.staged = [g] →
      s.view.session g.session = some se →
      se.state = .open →
      l = atD se.layers g.layer Layer.empty →
      g.layer < se.layers.length →
      g.firstPos = s.view.baseE l ∧ g.rows ≠ [] ∧ g.count = g.rows.length →
      (s.view.partOf g.src).isSome = true →
      s.view.restoring l = false →
      s.view.spilledTail g.session se l g.firstPos = none →
      s.view.placeRows g.session g.layer se l g.firstPos g.rows.length = some p →
      s.view.landsInTime p (s.view.periodPs - 60000) = true →
      ∃ t, exec .retryPass s = .next t ∧
        t.node.pg.staged = [] ∧
        ((t.view.session g.session).map (fun x => (atD x.layers g.layer Layer.empty).rows) = some (l.rows + g.rows.length)) ∧
        (∃ st h, (st = stOK ∨ st = stReserve) ∧ AnsweredTo t g.src g.tag st g.rows.length h)) ∧
  (∀ (s : State) (g : Staged) (se : Session), s.alive = true →
      s.node.pg.staged = [g] →
      s.view.session g.session = some se →
      se.state = .open →
      s.view.gapHeld g = true →
      (s.view.partOf g.src).isSome = true →
      rd s Reg.PGM_RETRIES ≤ g.retries + 1 →
      ∃ t, exec .retryPass s = .next t ∧
        t.node.pg.staged = [] ∧
        t.node.pg.install = s.node.pg.install ∧
        AnsweredTo t g.src g.tag stInternal 0 0)

/-- R70, R74. -/
def Obligations.GrantsStayWithinTheFloorsAndHeatHalves : Prop :=
  (∀ (s : State), s.alive = true →
      ∃ t, exec .splTickDecision s = .next t ∧
        t.node.st.grants.length = 6 ∧
        t.node.st.grants.sum ≤ 2048 * (s.view.periodAt (s.node.tk.now + 1) * 125) * rd s Reg.CST_BULK_FLOOR / 100 * s.view.servingStacks.length +
      (2048 * (s.view.periodAt (s.node.tk.now + 1) * 125) * rd s Reg.CST_MIRROR_FLOOR / 100 * s.view.servingStacks.length - s.node.st.mirrorReserved) ∧
        t.node.tk = s.node.tk) ∧
  (∀ (s : State), s.alive = true →
      2 ^ rd s Reg.SPL_DECAY_SHIFT ≤ ticksTo s.node.st.lastDecay s.node.tk.now →
      exec .heatDecay s = .next { s with node := { s.node with st := { s.node.st with courses := s.node.st.courses.map fun e => (e.1, { e.2 with heat := e.2.heat / 2 })
                                                                                      lastDecay := s.node.tk.now } } }) ∧
  (∀ (s : State), s.alive = true →
      ticksTo s.node.st.lastDecay s.node.tk.now < 2 ^ rd s Reg.SPL_DECAY_SHIFT →
      exec .heatDecay s = .next s)

/-- R62 to R64. -/
def Obligations.MovesCopyThenCommit : Prop :=
  (∀ (s : State) (mv : Nat) (m : Move) (c : Course) (f g : Nat), s.alive = true →
      Canonical s →
      lookupN mv s.node.st.moves = some m →
      s.view.course m.course = some c →
      m.checked = none →
      c.loc = Loc.hbm f →
      m.dst = Loc.hbm g →
      s.view.badPages c = [] →
      ∃ t, exec (.moveCopyDone mv .checked) s = .next t ∧
        lookupN mv t.node.st.moves = some { m with checked := some s.node.tk.now } ∧
        (∀ i < s.view.slotsBytes c, byteAt t (frameAddr g + i) = byteAt s (frameAddr f + i)) ∧
        (∀ a, a < frameAddr g ∨ frameAddr g + s.view.slotsBytes c ≤ a → byteAt t a = byteAt s a)) ∧
  (∀ (s : State) (mv : Nat) (m : Move) (c : Course), s.alive = true →
      lookupN mv s.node.st.moves = some m →
      s.view.course m.course = some c →
      m.checked ≠ none →
      s.view.sourcePinned m.course (decide (m.dst.tier < c.loc.tier)) = false →
      ∃ t, exec (.moveCommit mv) s = .next t ∧
        lookupN mv t.node.st.moves = none ∧
        (t.view.course m.course).map (·.loc) = some m.dst ∧
        t.node.tk = s.node.tk) ∧
  (∀ (s : State) (copy : Nat) (upset : Option Nat) (x : TailCopy), s.alive = true →
      lookupN copy s.node.st.tailCopies = some x →
      (∀ c ∈ s.view.course x.srcCourse, c.loc.tier = 2 → s.view.windowOff = false) →
      ∃ t, exec (.tailPageCopyDone ⟨copy, upset⟩) s = .next t ∧
        lookupN copy t.node.st.tailCopies = none ∧
        (∀ (c d : Course) (se : Session) (p : Page) (ext : Bytes), s.view.course x.srcCourse = some c → s.view.course x.dst = some d →
      s.view.session x.session = some se → x.layer < se.layers.length → c.pages[x.srcPage]? = some p →
      (({ s.view with n.st.tailCopies := eraseN copy s.node.st.tailCopies } : Work).readPage c x.srcPage upset).1 = some ext → pageCrcOk ext = true →
      (t.view.session x.session).map (fun y => (atD y.layers x.layer Layer.empty).runs.getLast?) =
      some (some { course := x.dst, first := 0, count := 1 })))

/-- R82, R83, R85. -/
def Obligations.MemoryErrorsAreCountedAndRetire : Prop :=
  (∀ (s : State) (addr : Nat), s.alive = true →
      Canonical s →
      inHbm addr = true →
      ∃ t, exec (.hbmUncorrectableError addr) s = .next t ∧
        rd t Reg.HBM_UE_CNT (addr / stackBytes) = min (rd s Reg.HBM_UE_CNT (addr / stackBytes) + 1) (2 ^ Reg.HBM_UE_CNT.width - 1) ∧
        (∀ f ∈ addrFrame addr, f ∈ t.node.st.retiredFrames) ∧
        t.node.tk = s.node.tk) ∧
  (∀ (s : State) (die addr ch : Nat), s.alive = true →
      Canonical s →
      s.view.stripeChannel die addr = some ch →
      ∃ t, exec (.ddrUncorrectableError (.stripe die addr)) s = .next t ∧
        rd t Reg.DDR_UE_CNT ch = min (rd s Reg.DDR_UE_CNT ch + 1) (2 ^ Reg.DDR_UE_CNT.width - 1) ∧
        (die, addr / 4096) ∈ t.node.st.retiredGrains ∧
        t.node.tk = s.node.tk) ∧
  (∀ (s : State) (ch : Nat), s.alive = true →
      Canonical s →
      ch < 12 →
      rd s Reg.DDR_IN_STRIPE ch = 1 →
      rd s Reg.DDR_TRAINED ch = 1 →
      ∃ t, exec (.ddrUncorrectableError (.channel ch)) s = .next t ∧
        rd t Reg.DDR_TRAINED ch = 0 ∧
        rd t Reg.DDR_UE_CNT ch = min (rd s Reg.DDR_UE_CNT ch + 1) (2 ^ Reg.DDR_UE_CNT.width - 1) ∧
        t.node.tk = s.node.tk) ∧
  (∀ (s : State) (stack off addr : Nat), s.alive = true →
      Canonical s →
      addr = stack * stackBytes + off →
      (sysPartOf addr).isSome = true →
      s.node.pw.walking ≠ some (addr / stackBytes) ∨ sysPartOf addr ≠ some 8 →
      ∃ t, exec (.systemAreaError stack off) s = .next t ∧
        Counted s t Reg.HBM_UE_CNT 1 (addr / stackBytes) ∧
        t.node.mi.fenced = true ∧
        rd t Reg.GLB_NODE_STATE = 0 ∧
        t.node.tk = s.node.tk) ∧
  (∀ (s : State) (addr : Nat), s.alive = true →
      Canonical s →
      inHbm addr = true →
      ∃ t, exec (.scrubCorrected (.hbm addr)) s = .next t ∧
        rd t Reg.HBM_CE_CNT (addr / stackBytes) = min (rd s Reg.HBM_CE_CNT (addr / stackBytes) + 1) (2 ^ Reg.HBM_CE_CNT.width - 1) ∧
        (∀ f ∈ addrFrame addr, ((lookupN f t.node.st.ceLog).getD []).getLast? = some s.view.ms)) ∧
  (∀ (s : State) (die addr ch : Nat), s.alive = true →
      Canonical s →
      s.view.stripeChannel die addr = some ch →
      ∃ t, exec (.scrubCorrected (.ddr die addr)) s = .next t ∧
        rd t Reg.DDR_CE_CNT ch = min (rd s Reg.DDR_CE_CNT ch + 1) (2 ^ Reg.DDR_CE_CNT.width - 1) ∧
        ((lookupN (2 ^ 40 + die * 2 ^ 36 + addr / 4096) t.node.st.ceLog).getD []).getLast? = some s.view.ms) ∧
  (∀ (s : State) (wr : RegWr) (st idx : Nat), s.alive = true →
      Canonical s →
      Lands s wr .HBM 0x104 st idx →
      wrote1 wr Reg.HBM_TAKE_OFFLINE = true →
      rd s Reg.HBM_TAKE_OFFLINE st = 0 →
      ∃ t, exec (.takeOffline wr) s = .next t ∧
        rd t Reg.HBM_TAKE_OFFLINE st = 1 ∧
        rd t Reg.HBM_OFFLINE st = 1 ∧
        rd t Reg.HBM_IN_SERVICE st = 0 ∧
        bitOf (rd t Reg.CST_READY) st = false ∧
        t.node.tk = s.node.tk)

/-- R101 to R105, R117, R120, R392. -/
def Obligations.SessionsOpenForkAndClose : Prop :=
  (∀ (s : State) (src : Src) (desc m : Bytes) (p : Nat), s.alive = true →
      SessionAsks s src desc 1 p m →
      (s.view.sessionByCid p (fieldAt m 8 8)).1 = none →
      fieldAt m 4 4 = 0 ∧ fieldAt m 0x14 4 = 0 ∧ 1 ≤ fieldAt m 2 1 ∧ fieldAt m 2 1 ≤ 120 →
      s.view.formatOk p (fieldAt m 1 1) = true →
      s.view.sessionsFull p = false →
      (s.view.sessionByCid p (fieldAt m 8 8)).2.ksRoomiest (s.view.ksBanks tblSession 0) ≠ none →
      ∃ t, exec (.openSession src desc) s = .next t ∧
        (∃ e ∈ t.node.pg.sessions, s.view.session e.1 = none ∧ e.2.cid = BitVec.ofNat 64 (fieldAt m 8 8) ∧ e.2.part = p ∧
      e.2.fmt = fieldAt m 1 1 ∧ e.2.layers = List.replicate (fieldAt m 2 1) Layer.empty ∧ e.2.state = SessState.open ∧
      e.2.own = (if s.view.mirrored p then OwnState.claiming else OwnState.own) ∧ e.2.ksBank ≠ none ∧
      (s.view.mirrored p = true → e.2.waiting = some (src, fieldAt m 0x18 4)) ∧
      (s.view.mirrored p = false → e.2.waiting = none ∧ AnsweredTo t src (fieldAt m 0x18 4) stOK (handleOf e.1 e.2.gen) 0)) ∧
        t.node.st = s.node.st) ∧
  (∀ (s : State) (src : Src) (desc m : Bytes) (p pi : Nat) (par : Session), s.alive = true →
      SessionAsks s src desc 2 p m →
      rd s Reg.PGM_FORK_EN = 1 →
      NamesSession s p (fieldAt m 4 4) pi par →
      par.state = .open →
      fieldAt m 1 1 = 0 ∧ fieldAt m 2 1 = 0 ∧ fieldAt m 0x10 4 = 0 →
      s.view.prefixPending pi = false →
      (s.view.sessionByCid p (fieldAt m 8 8)).1 = none →
      s.view.stagedBelow pi (fieldAt m 0x14 4) = false →
      s.view.sessionsFull p = false →
      ((s.view.sessionByCid p (fieldAt m 8 8)).2.forkChild p par (fieldAt m 8 8) (fieldAt m 0x14 4) src (fieldAt m 0x18 4)).1 ≠ none →
      ∃ t, exec (.forkSession src desc) s = .next t ∧
        (∃ e ∈ t.node.pg.sessions, s.view.session e.1 = none ∧ e.2.cid = BitVec.ofNat 64 (fieldAt m 8 8) ∧ e.2.parentCid = par.cid ∧
      e.2.forkPos = fieldAt m 0x14 4 ∧ e.2.fmt = par.fmt ∧ e.2.layers.length = par.layers.length ∧ e.2.part = p ∧
      e.2.state = SessState.forming ∧ e.2.own = (if s.view.mirrored p then OwnState.claiming else OwnState.own) ∧
      e.2.waiting = some (src, fieldAt m 0x18 4) ∧
      (∀ (i : Nat) (l : Layer), par.layers[i]? = some l → ∀ q ∈ s.view.layerPages l,
        (q.2.2.keeps (fieldAt m 0x14 4) = 16 →
          (∃ r ∈ (atD e.2.layers i Layer.empty).runs, r.course = q.1 ∧ r.first ≤ q.2.1 ∧ q.2.1 < r.first + r.count) ∧
          (t.view.course q.1).map (·.refs) = (s.view.course q.1).map (·.refs + 1)) ∧
        (0 < q.2.2.keeps (fieldAt m 0x14 4) → q.2.2.keeps (fieldAt m 0x14 4) ≠ 16 → ∃ k ∈ t.node.pg.forkCopies, k.child = e.1 ∧
          k.srcCourse = q.1 ∧ k.srcPage = q.2.1 ∧ k.rows = q.2.2.keeps (fieldAt m 0x14 4)))) ∧
        t.view.session pi = some par) ∧
  (∀ (s : State) (child : Nat) (c : Session), s.alive = true →
      s.view.session child = some c →
      c.state = .forming →
      c.own = .own →
      (∀ k ∈ s.node.pg.forkCopies, k.child = child → ∀ x ∈ s.view.course k.srcCourse, ∀ q ∈ x.pages[k.srcPage]?, k.rows ≤ q.landed) →
      (∀ k ∈ s.node.pg.forkCopies, k.child = child → ∀ x ∈ s.view.course k.srcCourse, x.loc.tier = 2 → s.view.windowOff = false) →
      ∃ t, exec (.forkCopiesLanded child) s = .next t ∧
        (∀ k ∈ t.node.pg.forkCopies, k.child ≠ child) ∧
        (∃ x, t.view.session child = some x ∧ x.waiting = none ∧ x.layers = c.layers ∧
      x.state = (if x.layers.any (fun l => (t.view.layerPages l).any fun q => q.2.2.lost && !(t.node.mi.restores.any fun r => r.1 = q.1))
        then SessState.lost else SessState.open)) ∧
        (∀ (src : Src) (tag : Nat), c.waiting = some (src, tag) → (s.view.partOf src).isSome = true →
      AnsweredTo t src tag stOK (handleOf child c.gen) 0) ∧
        (∀ (k : ForkCopy) (x d : Course) (q : Page) (ext : Bytes) (f i : Nat), s.node.pg.forkCopies = [k] → k.child = child →
      s.view.course k.srcCourse = some x → s.view.course k.dst = some d → x.pages[k.srcPage]? = some q → q.lost = false →
      (s.view.readPage x k.srcPage none).1 = some ext → pageCrcOk ext = true → d.loc = .hbm f → i < k.rows * q.rowBytes → 64 + i < ext.length →
      frameAddr f + 64 + i < 8 * stackBytes → some (byteAt t (frameAddr f + 64 + i)) = ext[64 + i]?)) ∧
  (∀ (s : State) (src : Src) (desc m : Bytes) (p si : Nat) (se : Session), s.alive = true →
      SessionAsks s src desc 3 p m →
      NamesSession s p (fieldAt m 4 4) si se →
      se.cid.toNat = fieldAt m 8 8 →
      (se.state = .open ∨ se.state = .lost) →
      fieldAt m 1 1 = 0 ∧ fieldAt m 2 1 = 0 ∧ fieldAt m 0x10 4 = 0 ∧ fieldAt m 0x14 4 = 0 →
      ∃ t, exec (.closeSession src desc) s = .next t ∧
        ((t.view.session si).map (fun x => (x.state, x.gen, x.waiting)) = some (SessState.closing, (se.gen + 1) % 2 ^ 14, some (src, fieldAt m 0x18 4))) ∧
        (∀ x ∈ t.view.session si, x.ksBank = none ∧ ∀ l ∈ x.layers, l.runs = []) ∧
        (∀ k ∈ t.node.pg.forkCopies, k.child ≠ si)) ∧
  (∀ (s : State) (idx : Nat) (se : Session), s.alive = true →
      s.view.session idx = some se →
      se.state = .closing →
      (∀ x ∈ s.view.openSheets, ∀ q ∈ x.queries, q.2.desc.noLocal = true ∨ q.2.session ≠ idx) →
      ∃ t, exec (.sessionCloseComplete idx) s = .next t ∧
        t.view.session idx = none ∧
        lookupN idx t.node.pg.gens = some se.gen ∧
        (∀ (src : Src) (tag : Nat), se.waiting = some (src, tag) → (s.view.partOf src).isSome = true → AnsweredTo t src tag stOK 0 0) ∧
        t.node.st = s.node.st)

/-- R106 to R116, R94, R110. -/
def Obligations.AppendsCountStageAndLandRows : Prop :=
  (∀ (s : State) (src : Src) (b m : Bytes) (p si li at_ ci pi f : Nat) (se : Session) (l : Layer) (rows : List Bytes) (c : Course) (pg : Page), s.alive = true →
      AppendAsks s src b p m si se li l rows →
      s.view.nextPos si li l = fieldAt m 8 4 →
      ((asSeen s src).chargeAppend p (fieldAt m 0xC 4 * rows.length + 64 * ((fieldAt m 8 4 + rows.length - 1) / 16 - fieldAt m 8 4 / 16 + 1)) (rows.length * (s.view.rowFmt se.fmt).rowBytes)).isSome = true →
      s.view.stagedOf si li = [] →
      s.view.restoring l = false →
      s.view.openPage si se l (fieldAt m 8 4) = some (ci, pi, c, pg) →
      c.loc = .hbm f →
      c.die < 2 ∧ s.node.pg.install.length = 2 →
      pg.counted + rows.length ≤ 16 →
      at_ + ((atD s.node.pg.install c.die []).length + rows.length) * 625 < (asSeen s src).periodPs + (asSeen s src).installPoint →
      ∃ t, exec (.appendRows src b at_) s = .next t ∧
        (((t.view.course ci).bind fun x => x.pages[pi]?).map (·.counted) = some (pg.counted + rows.length)) ∧
        ((t.view.session si).map (fun x => (atD x.layers li Layer.empty).rows) = some (l.rows + rows.length)) ∧
        (atD t.node.pg.install c.die []).map (·.bytes) = (atD s.node.pg.install c.die []).map (·.bytes) ++ rows ∧
        t.node.pg.staged = s.node.pg.staged) ∧
  (∀ (s : State) (src : Src) (b m : Bytes) (p si li at_ : Nat) (se : Session) (l : Layer) (rows : List Bytes), s.alive = true →
      AppendAsks s src b p m si se li l rows →
      s.view.nextPos si li l < fieldAt m 8 4 →
      bitOf (fieldAt m 5 1) 1 = false →
      ((asSeen s src).chargeAppend p (fieldAt m 0xC 4 * rows.length + 64 * ((fieldAt m 8 4 + rows.length - 1) / 16 - fieldAt m 8 4 / 16 + 1)) (rows.length * (s.view.rowFmt se.fmt).rowBytes)).isSome = true →
      s.view.canStage p rows.length = true →
      ∃ t, exec (.appendRows src b at_) s = .next t ∧
        (t.node.pg.staged.map (fun g => (g.session, g.firstPos, g.rows)) = s.node.pg.staged.map (fun g => (g.session, g.firstPos, g.rows)) ++ [(si, fieldAt m 8 4, rows)]) ∧
        (t.node.pg.staged.getLast?.map (fun g => (g.why, g.retries)) = some (StageWhy.gap, 0)) ∧
        t.node.pg.sessions = s.node.pg.sessions ∧
        t.node.st = s.node.st) ∧
  (∀ (s : State) (die : Nat) (r : InstallRow) (rest : List InstallRow), s.alive = true →
      Canonical s →
      die < s.node.pg.install.length →
      atD s.node.pg.install die [] = r :: rest →
      ∃ t, exec (.rowLanded die) s = .next t ∧
        atD t.node.pg.install die [] = rest ∧
        (∀ (c : Course) (p : Page) (a : Nat), s.view.course r.course = some c → c.pages[r.page]? = some p → s.view.pageAddr c r.page = some a →
      (t.view.course r.course).bind (fun x => (x.pages[r.page]?).map (·.landed)) = some (max p.landed (r.row + 1)) ∧
      (r.done = none → ∀ i < r.bytes.length, some (byteAt t (a + 64 + r.row * p.rowBytes + i)) = r.bytes[i]?)) ∧
        t.node.pg.sessions = s.node.pg.sessions)

/-- R142 to R149, R152, R154, R155. -/
def Obligations.PrefixRequestsWaitStartAndTakeEffect : Prop :=
  (∀ (s : State) (kind : PfxKind) (i : Instr) (src : Src) (b m : Bytes) (p : Nat) (se : Option (Nat × Session)), s.alive = true →
      (kind, i) ∈ [(PfxKind.match_, Instr.matchPrefix src b), (.publish, .publishBlocks src b), (.retract, .retractBlocks src b), (.pin, .pinBlocks src b), (.unpin, .unpinBlocks src b)] →
      PrefixAsks s kind src b p m se →
      quietSrc s src →
      ∃ t, exec i s = .next t ∧
        (s.node.ks.running = none ∧ s.node.ks.waiting = [] → (s.view.settle opFields).prefixStartCheck (askedPrefix s kind src b p m se) = none →
      t.node.ks.running = some (askedPrefix s kind src b p m se) ∧ t.node.ks.waiting = [] ∧ t.mem = s.mem) ∧
        (s.node.ks.running = none ∧ s.node.ks.waiting = [] → ∀ st, (s.view.settle opFields).prefixStartCheck (askedPrefix s kind src b p m se) = some st →
      t.node.ks.running = none ∧ AnsweredTo t src (fieldAt m 0x18 4) st
        (if st = stOK ∧ kind.named = false then s.view.presentCount (askedPrefix s kind src b p m se) else 0) 0) ∧
        (¬ (s.node.ks.running = none ∧ s.node.ks.waiting = []) → t.node.ks.running = s.node.ks.running ∧
      t.node.ks.waiting = s.node.ks.waiting ++ [askedPrefix s kind src b p m se] ∧ t.mem = s.mem) ∧
        t.node.ks.tree = s.node.ks.tree ∧
        t.node.pg = s.node.pg) ∧
  (∀ (s : State) (o : PfxOp) (rest : List PfxOp), s.alive = true →
      Canonical s →
      s.node.ks.running = none →
      s.node.ks.waiting = o :: rest →
      s.view.prefixGone o = none →
      (s.view.settle opFields).prefixStartCheck o = none →
      ∃ t, exec .prefixOpStart s = .next t ∧
        t.node.ks.running = some o ∧
        t.node.ks.waiting = rest ∧
        t.node.ks.moved = 0 ∧
        t.node.ks.paid = 0 ∧
        rd t Reg.KEY_PFX_WAITING = rest.length % 2 ^ Reg.KEY_PFX_WAITING.width ∧
        t.node.pg = s.node.pg ∧
        t.mem = s.mem) ∧
  (∀ (s : State) (o : PfxOp), s.alive = true →
      s.node.ks.running = some o →
      s.view.prefixGone o = none →
      s.view.prefixNeed o ≤ (s.view.prefixShares (s.view.prefixNeed o)).1 + (s.view.prefixShares (s.view.prefixNeed o)).2 →
      ∃ t, exec .prefixOpComplete s = .next t ∧
        t.node.ks.running = none ∧
        t.node.ks.waiting = s.node.ks.waiting ∧
        ((s.view.partOf o.src).isSome = true → ∃ r, AnsweredTo t o.src o.tag stOK r 0) ∧
        (o.kind = .match_ → (∀ x ∈ t.view.session o.session, ∀ l ∈ x.layers,
      l.jumpTo = some (o.firstPos + 16 * ((prefixFrom s).verifyRun o o.blocks).1.length)) ∧
      ((s.view.partOf o.src).isSome = true → AnsweredTo t o.src o.tag stOK ((prefixFrom s).verifyRun o o.blocks).1.length 0)) ∧
        (∀ (b : BlockReq) (ti : Nat), o.blocks = [b] → ((prefixFrom s).verifyBlock o.part o.fmt o.layers b).1 = some ti →
      (o.kind = .match_ → (t.view.treeRec ti).map (·.matches_) = (s.view.treeRec ti).map (fun r => min (r.matches_ + 1) (2 ^ 32 - 1))) ∧
      (o.kind = .pin → (t.view.treeRec ti).map (·.pinned) = some true) ∧ (o.kind = .unpin → (t.view.treeRec ti).map (·.pinned) = some false) ∧
      (o.kind = .retract → ((s.view.treeRec ti).map (·.children)).getD 0 = 0 → t.view.treeRec ti = none)) ∧
        (∀ b : BlockReq, o.blocks = [b] → o.kind = .publish → blockIdOf b.parent b.tokens = b.id →
      ((prefixFrom s).verifyBlock o.part o.fmt o.layers b).1 = none → (((prefixFrom s).verifyBlock o.part o.fmt o.layers b).2.indexBlock o b).1 = true →
      ∃ e ∈ t.node.ks.tree, e.2.blockId = b.id ∧ e.2.part = o.part ∧ e.2.firstPos = b.pos ∧ e.2.pinned = false)) ∧
  (∀ (s : State) (o : PfxOp), s.alive = true →
      s.node.ks.running = some o →
      (s.view.prefixShares (s.view.prefixNeed o)).1 + (s.view.prefixShares (s.view.prefixNeed o)).2 < s.view.prefixNeed o →
      ∃ t, exec .prefixOpComplete s = .next t ∧
        t.node.ks.running = some o ∧
        t.node.ks.paid = s.node.ks.paid + (s.view.prefixShares (s.view.prefixNeed o)).1 + (s.view.prefixShares (s.view.prefixNeed o)).2 ∧
        t.node.ks.lendable = s.node.ks.lendable - (s.view.prefixShares (s.view.prefixNeed o)).1 ∧
        t.node.qa.budget.poolUsed = s.node.qa.budget.poolUsed + (s.view.prefixShares (s.view.prefixNeed o)).2 ∧
        t.node.ks.tree = s.node.ks.tree ∧
        t.node.pg = s.node.pg ∧
        t.mem = s.mem)

/-- R48, R126, R138. That soft errors strike with a scan is the model's choice, and which ones is a free value (log 131). -/
def Obligations.KeystoneScansAndRebuilds : Prop :=
  (∀ (s : State), s.alive = true →
      rd s Reg.KEY_SCAN_EN = 1 →
      ∃ t, exec .parityScan s = .next t ∧
        (∀ b : Nat, b < 66 → ∀ i : Nat, ∀ e ∈ lookupN i (s.view.scanKeys.ksBank b).entries, e.valid = true → e.parityOk = true) ∧
        t.node.ks.banks = ((Config.keyUpsets s.node.fresh).foldl Work.upset s.view.scanKeys).n.ks.banks ∧
        t.node.ks.tree = s.node.ks.tree ∧
        t.node.pg = s.node.pg ∧
        t.mem = s.mem) ∧
  (∀ (s : State), s.alive = true →
      rd s Reg.KEY_SCAN_EN = 0 →
      ∃ t, exec .parityScan s = .next t ∧
        t.node.ks.banks = ((Config.keyUpsets s.node.fresh).foldl Work.upset s.view).n.ks.banks ∧
        t.regs = s.regs ∧
        t.node.ks.tree = s.node.ks.tree ∧
        t.node.pg = s.node.pg ∧
        t.mem = s.mem) ∧
  (∀ (s : State) (bank : Nat), s.alive = true →
      Canonical s →
      rd s Reg.KEY_REBUILDING 0 bank = 1 →
      ∃ t, exec (.keystoneBankRebuilt bank) s = .next t ∧
        rd t Reg.KEY_REBUILDING 0 bank = 0 ∧
        t.node = s.node ∧
        t.mem = s.mem)

/-- R48 to R51, R131, R494. -/
def Obligations.SparesTakeThePlaceOfWhatIsRetired : Prop :=
  (∀ (s : State) (wr : RegWr), s.alive = true →
      Canonical s →
      SpareWriteOk s wr →
      s.node.ks.banks.length = 66 →
      ∃ t, exec (.spareMapWrite wr) s = .next t ∧
        (t.node.cl.swaps = (spareAsks (spareWish s wr) (rd s ·) clSpareFld).map
      (fun a => { field := a.1, retire := a.2.1, activate := a.2.2, effect := s.node.tk.now + 2 : PendSwap })) ∧
        (∀ a : Nat × Nat × Nat, spareAsks (spareWish s wr) (rd s ·) keySpareFld = [a] → a.2.2 ≤ 65 →
      rd t Reg.KEY_TABLE 0 a.2.2 = rd s Reg.KEY_TABLE 0 a.2.1 % 2 ^ Reg.KEY_TABLE.width ∧
      (t.view.ksBank a.2.2).entries = (s.view.ksBank a.2.1).entries ∧ rd t Reg.KEY_REBUILDING 0 a.2.2 = 1 ∧
      rd t Reg.KEY_SPARE 0 a.2.1 = 1 ∧ rd t (keySpareFld a.1) = a.2.1) ∧
        t.node.st = s.node.st) ∧
  (∀ (s : State) (p : PendSwap), s.alive = true →
      Canonical s →
      s.node.cl.swaps = [p] →
      s.view.reached p.effect = true →
      p.retire < 26 ∧ p.activate < 26 ∧ p.retire ≠ p.activate →
      ∃ t, exec .clusterSwapEffect s = .next t ∧
        t.node.cl.swaps = [] ∧
        rd t Reg.CL_SLOT p.activate = rd s Reg.CL_SLOT p.retire % 2 ^ Reg.CL_SLOT.width ∧
        rd t Reg.CL_ACTIVE p.activate = 1 ∧
        rd t Reg.CL_ACTIVE p.retire = 0 ∧
        rd t Reg.CL_SPARE p.retire = 1 ∧
        rd t (clSpareFld p.field) = p.retire) ∧
  (∀ (s : State) (cluster cause bufOff : Nat), s.alive = true →
      Canonical s →
      cluster < 26 →
      rd s Reg.CL_FAULTED cluster = 0 →
      ∃ t, exec (.clusterFault cluster cause bufOff) s = .next t ∧
        rd t Reg.CL_FAULTED cluster = 1 ∧
        rd t Reg.BLK_ENABLE (0x30 + cluster) = 0 ∧
        (rd s Reg.BLK_ISR (0x30 + cluster) % 2 = 0 → rd t Reg.BLK_ERR_CAP0 (0x30 + cluster) = 0x4102 ∧
      rd t Reg.BLK_ERR_CAP2 (0x30 + cluster) = (0xF000000000 + cluster * 0x800000 + bufOff) / 256 % 2 ^ 32 ∧
      rd t Reg.BLK_ERR_CAP3 (0x30 + cluster) = cause % 2 ^ 32) ∧
        (s.view.clusterActive cluster = true → s.view.freeSpareCluster cluster = none → rd t Reg.CL_ACTIVE cluster = 0) ∧
        (∀ sp ∈ s.view.freeSpareCluster cluster, s.view.clusterActive cluster = true → sp ≠ cluster → t.node.cl.faultSwaps = s.node.cl.faultSwaps ++ [(cluster, sp)]) ∧
        t.node.qa = s.node.qa) ∧
  (∀ (s : State) (cluster bufOff tile : Nat) (again : Bool), s.alive = true →
      Canonical s →
      cluster < 26 →
      ∃ t, exec (.clusterBufferUe cluster bufOff (.tile tile again)) s = .next t ∧
        rd t Reg.CL_BUF_UE cluster = min (rd s Reg.CL_BUF_UE cluster + 1) (2 ^ Reg.CL_BUF_UE.width - 1) ∧
        numN cluster t.node.cl.ueInSheet = numN cluster s.node.cl.ueInSheet + 1 ∧
        (again = true → rd t Reg.CL_RESTAGED cluster = min (rd s Reg.CL_RESTAGED cluster + 1) (2 ^ Reg.CL_RESTAGED.width - 1)) ∧
        (again = false → (lookupN tile t.node.qa.cur.tiles).map (·.lostPages) =
      (lookupN tile s.node.qa.cur.tiles).map (fun x => (x.lostPages ++ x.pages).dedup)) ∧
        (rd s Reg.CL_FAULT_LIMIT cluster ≤ numN cluster s.node.cl.ueInSheet + 1 → rd t Reg.CL_FAULTED cluster ≠ 0)) ∧
  (∀ (s : State) (cluster bufOff k : Nat) (q : Query), s.alive = true →
      cluster < 26 →
      lookupN k s.node.qa.cur.queries = some q →
      ∃ t, exec (.clusterBufferUe cluster bufOff (.rowState k)) s = .next t ∧
        ((lookupN k t.node.qa.cur.queries).map (fun x => (x.spoiled, x.dropped)) = some (true, (q.dropped ++ [rd s Reg.CL_SLOT cluster]).dedup)) ∧
        numN cluster t.node.cl.ueInSheet = numN cluster s.node.cl.ueInSheet + 1) ∧
  (∀ (s : State) (core : Nat), s.alive = true →
      Canonical s →
      core ≤ 5 →
      core ≠ rd s Reg.GLB_CORE_SPARE_A ∧ core ≠ rd s Reg.GLB_CORE_SPARE_B →
      ∃ t, exec (.controlCoreFault core) s = .next t ∧
        bitOf (rd t Reg.GLB_FAULTED) core = true ∧
        bitOf (rd t Reg.GLB_RUNNING) core = false ∧
        (rd s Reg.GLB_CORE_SPARE_A < 6 → rd t Reg.GLB_CORE_SPARE_A = 7 ∧ bitOf (rd t Reg.GLB_RUNNING) (rd s Reg.GLB_CORE_SPARE_A) = true) ∧
        (6 ≤ rd s Reg.GLB_CORE_SPARE_A → rd s Reg.GLB_CORE_SPARE_B < 6 → rd t Reg.GLB_CORE_SPARE_B = 7 ∧ bitOf (rd t Reg.GLB_RUNNING) (rd s Reg.GLB_CORE_SPARE_B) = true))

/-- R88, R163, R164, R178, R179, R233 to R235, R368. -/
def Obligations.CodebooksFormatsAndWeightsTakeForce : Prop :=
  (∀ (s : State) (wr : RegWr) (inst idx : Nat), s.alive = true →
      Canonical s →
      Lands s wr .PGM 0x114 inst idx →
      ∃ t, exec (.pgmFmtValid wr) s = .next t ∧
        (∀ f ∈ regFields .PGM 0x114, fieldEnabled wr f = true → f.acc = .rw → rd t f (storeInst .PGM inst 0x114) idx = s.view.merged wr inst idx f) ∧
        t.node.pg = s.node.pg) ∧
  (∀ (s : State) (wr : RegWr) (inst cb : Nat), s.alive = true →
      Canonical s →
      Lands s wr .CL 0x18C inst cb →
      fieldEnabled wr Reg.CL_VALID = true →
      (s.view.busWrite wr).w.get Reg.CL_VALID 0 cb = 1 →
      ∃ t, exec (.codebookValid wr) s = .next t ∧
        rd t Reg.CL_VALID 0 cb = 1 ∧
        rd t Reg.CL_M 0 cb = (e4m3.round (maxRat ((t.view.cbVals cb).map absRat))).1 % 2 ^ Reg.CL_M.width ∧
        (t.node.se.meas = s.node.se.meas.modify 3 (fun m => Sys2Proof.Crypto.sha3v (Sys2Proof.Crypto.bytes32 m ++ Sys2Proof.Crypto.bytes32
      (Sys2Proof.Crypto.sha3v ((List.range (t.view.cbSize cb)).map fun k => BitVec.ofNat 8 (t.view.cbEntry cb k))))))) ∧
  (∀ (s : State) (wr : RegWr) (inst idx : Nat), s.alive = true →
      Canonical s →
      Lands s wr .CL 0x190 inst idx →
      wrote1 wr Reg.CL_LOAD = true →
      ∃ t, exec (.weightLoad wr) s = .next t ∧
        rd t Reg.CL_BUSY = 1 ∧
        rd t Reg.CL_DONE = 0 ∧
        rd t Reg.CL_FAIL = 0 ∧
        t.node = s.node ∧
        t.mem = s.mem) ∧
  (∀ (s : State), s.alive = true →
      Canonical s →
      rd s Reg.CL_BUSY = 1 →
      packageLen s.view (rd s Reg.CL_ADDR_LO + rd s Reg.CL_ADDR_HI * 2 ^ 32) = none →
      ∃ t, exec .weightLoadDone s = .next t ∧
        rd t Reg.CL_BUSY = 0 ∧
        rd t Reg.CL_FAIL = 1 ∧
        t.node.cl = s.node.cl) ∧
  (∀ (s : State), s.alive = true →
      Canonical s →
      rd s Reg.CL_BUSY = 1 →
      ∃ t, exec .weightLoadDone s = .next t ∧
        rd t Reg.CL_BUSY = 0 ∧
        (∀ (a len : Nat) (ls : List WLayer), a = rd s Reg.CL_ADDR_LO + rd s Reg.CL_ADDR_HI * 2 ^ 32 → packageLen s.view a = some len →
      s.view.weightLayers a (s.view.bytes a len) (fieldAt (s.view.bytes a len) 5 1) 0 0 = .ok ls →
      rd t Reg.CL_DONE = 1 ∧ (t.node.cl.pendingWeights.getD []).map (fun l => (l.layer, l.h, l.d, l.c, l.packed)) =
      ls.map (fun l => (l.layer, l.h, l.d, l.c, l.packed)) ∧ t.node.cl.weights = s.node.cl.weights))

/-- R36, R169, R172, R175, R185 to R194, R195 to R197, R204. -/
def Obligations.QueriesAreAdmittedPassedAndMerged : Prop :=
  (∀ (s : State) (v : Work) (src : Src) (b m : Bytes) (at_ p : Nat) (d : QDesc) (x : Option (Nat × Session)), s.alive = true →
      Canonical s →
      v = asSeen s src →
      s.view.partOf src = some p →
      s.view.srcOk src = true ∧ s.view.staleSrc src = false →
      (m = (match src with | .conn _ _ => swapFields queryFields (b.take 64) | .queue _ _ => b.take 64) ++ b.drop 64) →
      d = QDesc.read m →
      v.descOk p d m (v.queryShape p d) (queryPayload src d m).1 (queryPayload src d m).2 = true →
      v.queryChecks p d = .ok x →
      ((v.queryShape p d).any (fun sh => (v.enlist src p d x sh (queryPayload src d m).1 (queryPayload src d m).2 b.length (v.sheetOffNs + (at_ : Rat) / 1000)).isOk) = true) →
      ∃ t, exec (.attend src b at_) s = .next t ∧
        rd t Reg.QAD_ADMITTED = min (rd s Reg.QAD_ADMITTED + 1) (2 ^ Reg.QAD_ADMITTED.width - 1) ∧
        t.node.qa.nextQuery = s.node.qa.nextQuery + 1 ∧
        (s.view.late src = false →
      (lookupN s.node.qa.nextQuery t.node.qa.next.queries).map (fun q => (q.src, q.part, q.desc.queryId, q.sheet, q.phase)) =
      some (src, p, d.queryId, s.node.qa.next.tick, QPhase.running) ∧ t.node.qa.cur = s.node.qa.cur) ∧
        (s.view.late src = true →
      (lookupN s.node.qa.nextQuery t.node.qa.cur.queries).map (fun q => (q.src, q.part, q.desc.queryId, q.sheet, q.phase)) =
      some (src, p, d.queryId, s.node.qa.cur.tick, QPhase.running) ∧ t.node.qa.next = s.node.qa.next) ∧
        (d.collect = true → ∃ g ∈ t.node.qa.groups, g.part = p ∧ g.group = d.group ∧
      ((∀ e ∈ s.node.qa.early, ¬ (e.2.part = p ∧ e.2.prec.group = d.group)) → g.closed = false)) ∧
        ((∃ id msn, src = .conn id msn) ∨ d.dest ≠ 0xFFFF → AnsweredTo t src d.tag stOK d.queryId 0)) ∧
  (∀ (s : State) (slot : Nat) (work : List PassItem) (items : List (PassItem × Query × Tile × QTile)) (c : Nat), s.alive = true →
      Canonical s →
      PassStarts s slot work items c →
      ∃ t, exec (.clusterPass slot work) s = .next t ∧
        rd t Reg.CL_PASSES c = min (rd s Reg.CL_PASSES c + 1) (2 ^ Reg.CL_PASSES.width - 1) ∧
        numN c t.node.cl.busy = numN c s.node.cl.busy + s.view.passCost slot items ∧
        t.view.spentOn c = s.view.spentOn c + s.view.passTime (s.view.passCost slot items) ∧
        (∀ x ∈ work, ∀ q ∈ lookupN x.query t.node.qa.cur.queries, ∃ r ∈ q.rbs, r.slot = slot ∧ r.rb = x.rb ∧ r.headBlock = x.headBlock ∧ x.tile ∈ r.done) ∧
        t.node.qa.next = s.node.qa.next ∧
        t.mem = s.mem) ∧
  (∀ (s : State) (slot k left : Nat) (rest : List (Nat × Nat)), s.alive = true →
      s.view.portOf slot = (k, left) :: rest →
      left ≠ 0 →
      ∃ t, exec (.resultPortTransfer slot) s = .next t ∧
        (s.view.heldResults slot = [] → t.view.portOf slot = rest ∧ t.view.heldResults slot = []) ∧
        (∀ (j n : Nat) (hs : List (Nat × Nat)), s.view.heldResults slot = (j, n) :: hs → rest.length = 1 →
      t.view.portOf slot = rest ++ [(j, n - 1)] ∧ t.view.heldResults slot = (if n ≤ 1 then hs else (j, n - 1) :: hs)) ∧
        t.node.qa.cur = s.node.qa.cur ∧
        t.node.qa.next = s.node.qa.next ∧
        t.regs = s.regs ∧
        t.mem = s.mem) ∧
  (∀ (s : State) (slot k : Nat) (rest : List (Nat × Nat)) (q : Query), s.alive = true →
      Canonical s →
      s.view.portOf slot = (k, 0) :: rest →
      lookupN k s.node.qa.cur.queries = some q →
      slot ∉ q.dropped ∧ slot ∉ q.folded →
      ∃ t, exec (.resultPortTransfer slot) s = .next t ∧
        (s.view.heldResults slot = [] → t.view.portOf slot = rest) ∧
        rd t Reg.MRG_RESULTS = min (rd s Reg.MRG_RESULTS + 1) (2 ^ Reg.MRG_RESULTS.width - 1) ∧
        (∀ x ∈ lookupN k t.node.qa.cur.queries, slot ∈ x.folded ∨ (lookupN slot x.results).isSome = true) ∧
        t.node.qa.next = s.node.qa.next ∧
        t.mem = s.mem)

/-- R201 to R207, R285. That a record's message completes OK is DEDUCED (log 135). -/
def Obligations.CollectorsTakePartialsCreditsAndCancels : Prop :=
  (∀ (s : State) (conn msn p : Nat) (b : Bytes) (r : PartialRec) (g : Group), s.alive = true →
      Canonical s →
      RecordActs s conn msn 0 b p r →
      (s.node.qa.groups.find? (fun x : Group => x.part = p && x.group = r.group) = some g) →
      g.closed = false →
      r.srcNode ∈ g.senders →
      (∀ i ∈ g.inputs, i.1 ≠ r.srcNode) →
      r.level < g.desc.level →
      (r.headerOnly = true ∨ (r.heads = g.desc.heads ∧ r.channels = g.fmtC)) →
      ∃ t, exec (.partialRecord ⟨conn, msn⟩ b) s = .next t ∧
        rd t Reg.MRG_PARTIALS_IN = min (rd s Reg.MRG_PARTIALS_IN + 1) (2 ^ Reg.MRG_PARTIALS_IN.width - 1) ∧
        (g.inputs.length + 1 < g.desc.expect ∨ (g.needOwn = true ∧ g.own = none) → ∃ x ∈ t.node.qa.groups, x.part = p ∧ x.group = r.group ∧ x.closed = false ∧ lookupN r.srcNode x.inputs = some r) ∧
        (g.desc.expect ≤ g.inputs.length + 1 → (g.needOwn = false ∨ g.own ≠ none) → ∀ x ∈ t.node.qa.groups, x.part = p → x.group = r.group → x.closed = true) ∧
        AnsweredTo t (.conn conn msn) 0 stOK 0 0 ∧
        t.node.qa.cur = s.node.qa.cur) ∧
  (∀ (s : State) (conn msn p : Nat) (b : Bytes) (r : PartialRec), s.alive = true →
      RecordActs s conn msn 1 b p r →
      ∃ t, exec (.creditRecord ⟨conn, msn⟩ b) s = .next t ∧
        t.node.qa.credits = s.node.qa.credits ++ [(p, r.group)] ∧
        AnsweredTo t (.conn conn msn) 0 stOK 0 0 ∧
        t.node.qa.groups = s.node.qa.groups) ∧
  (∀ (s : State) (conn msn p : Nat) (b : Bytes) (r : PartialRec), s.alive = true →
      RecordActs s conn msn 2 b p r →
      ∃ t, exec (.cancelRecord ⟨conn, msn⟩ b) s = .next t ∧
        (∀ e ∈ t.node.qa.held, ¬ (e.2.part = p ∧ e.2.prec.group = r.group)) ∧
        (p, r.group) ∉ t.node.qa.credits ∧
        (∀ e ∈ t.node.qa.cur.queries ++ t.node.qa.next.queries, e.2.part = p → e.2.desc.group = r.group → e.2.desc.dest ≠ 0xFFFF → e.2.phase = QPhase.left) ∧
        (∀ g ∈ t.node.qa.groups, g.part = p → g.group = r.group → g.desc.dest ≠ 0xFFFF → g.closed = true) ∧
        (∀ g ∈ s.node.qa.groups, ¬ (g.part = p ∧ g.group = r.group ∧ g.desc.dest ≠ 0xFFFF) → g ∈ t.node.qa.groups) ∧
        AnsweredTo t (.conn conn msn) 0 stOK 0 0) ∧
  (∀ (s : State) (p group : Nat) (g : Group), s.alive = true →
      Canonical s →
      (s.node.qa.groups.find? (fun x : Group => x.part = p && x.group = group && !x.closed) = some g) →
      (1 + g.desc.level) * s.view.repTicks ≤ ticksTo g.sheet s.node.tk.now + 1 ∧ ticksTo g.sheet s.node.tk.now < 2 ^ 47 →
      ∃ t, exec (.collectorDeadline p group) s = .next t ∧
        rd t Reg.MRG_MISSING = min (rd s Reg.MRG_MISSING + (g.desc.expect - g.inputs.length)) (2 ^ Reg.MRG_MISSING.width - 1) ∧
        (∀ x ∈ t.node.qa.groups, x.part = p → x.group = group → x.closed = true) ∧
        t.node.qa.cur = s.node.qa.cur) ∧
  (∀ (s : State) (k : Nat) (x : Held), s.alive = true →
      Canonical s →
      lookupN k s.node.qa.held = some x →
      s.view.reached (x.sheet + BitVec.ofNat 48 (s.view.acting Reg.MRG_CREDIT_WAIT * s.view.repTicks)) = true →
      (x.part, x.prec.group) ∉ s.node.qa.credits →
      ∃ t, exec (.creditWaitExpired k) s = .next t ∧
        t.node.qa.held = eraseN k s.node.qa.held ∧
        rd t Reg.MRG_DISCARDED = min (rd s Reg.MRG_DISCARDED + 1) (2 ^ Reg.MRG_DISCARDED.width - 1) ∧
        t.node.qa.groups = s.node.qa.groups ∧
        t.mem = s.mem) ∧
  (∀ (s : State) (k : Nat) (x : Held), s.alive = true →
      lookupN k s.node.qa.held = some x →
      (x.part, x.prec.group) ∈ s.node.qa.credits →
      exec (.creditWaitExpired k) s = .next s) ∧
  (∀ (s : State) (k : Nat) (x : Early), s.alive = true →
      Canonical s →
      lookupN k s.node.qa.early = some x →
      s.view.reached (x.arrived + BitVec.ofNat 48 (s.view.acting Reg.MRG_EARLY_WAIT * s.view.repTicks)) = true →
      ∃ t, exec (.earlyWaitExpired k) s = .next t ∧
        t.node.qa.early = eraseN k s.node.qa.early ∧
        rd t Reg.MRG_REJECTED = min (rd s Reg.MRG_REJECTED + 1) (2 ^ Reg.MRG_REJECTED.width - 1) ∧
        t.node.qa.groups = s.node.qa.groups)

/-- R219 to R226, R229, R231. -/
def Obligations.CompressorsEmitAndExpandersDecode : Prop :=
  (∀ (s : State) (die mv blk : Nat) (bs : Bytes) (m : Move) (c : Course) (r : CmpRun), s.alive = true →
      Canonical s →
      SpillRuns s die mv blk m c r →
      r.verifies blk bs = true ∧ r.form bs = true →
      ∃ t, exec (.compressorBlockEmitted die (.spill mv) blk bs false) s = .next t ∧
        atD t.node.cp.fails die 0 = 0 ∧
        (∀ x : Blk, (s.view.placeDdr (s.view.blockDie c blk) bs.length (fieldAt bs 1 1)).1 = some x →
      lookupN mv t.node.st.moves = some { m with dst := .ddr (m.dst.blks ++ [x]), blksDone := m.blksDone ++ [blk] } ∧
      (die < s.node.cp.runs.length → t.view.cmpRun die = (if blk + 1 = c.blocks then none else some (r.emit bs))) ∧
      ∀ i : Nat, i < bs.length → some (byteAt t (ddrKey x.die (x.unit * 256) + i)) = bs[i]?) ∧
        ((s.view.placeDdr (s.view.blockDie c blk) bs.length (fieldAt bs 1 1)).1 = none → lookupN mv t.node.st.moves = none)) ∧
  (∀ (s : State) (die mv blk : Nat) (bs : Bytes) (m : Move) (c : Course) (r : CmpRun), s.alive = true →
      Canonical s →
      SpillRuns s die mv blk m c r →
      die < s.node.cp.fails.length →
      ∃ t, exec (.compressorBlockEmitted die (.spill mv) blk bs true) s = .next t ∧
        atD t.node.cp.fails die 0 = atD s.node.cp.fails die 0 + 1 ∧
        Counted s t Reg.CMP_VERIFY_FAIL ∧
        (r.limit ≤ atD s.node.cp.fails die 0 + 1 → rd t (cmpFaulted die) = 1 ∧ t.view.cmpRun die = none) ∧
        (atD s.node.cp.fails die 0 + 1 < r.limit → ∀ x : Blk,
      (s.view.placeDdr (s.view.blockDie c blk) (r.passthrough blk).length (fieldAt (r.passthrough blk) 1 1)).1 = some x →
      lookupN mv t.node.st.moves = some { m with dst := .ddr (m.dst.blks ++ [x]), blksDone := m.blksDone ++ [blk] })) ∧
  (∀ (s : State) (inst mv blk f : Nat) (m : Move) (c : Course) (b : Blk) (img : Bytes), s.alive = true →
      Canonical s →
      inst < 25 →
      rd s Reg.XPD_ACTIVE 0 inst = 1 →
      lookupN mv s.node.st.moves = some m →
      s.view.course m.course = some c →
      blk ∉ m.blksDone ∧ m.checked = none ∧ m.dst = .hbm f →
      (c.loc.tier = 2 → s.view.windowOff = false) →
      c.loc.blks[blk]? = some b →
      s.view.blockExpander c.loc b = some inst →
      expandBlock (s.view.blkBytes c.loc b) (c.imageLen blk) c.part = .ok img →
      ∃ t, exec (.blockDecodeDone inst (.move mv blk) none) s = .next t ∧
        rd t Reg.XPD_BLOCKS 0 inst = min (rd s Reg.XPD_BLOCKS 0 inst + 1) (2 ^ Reg.XPD_BLOCKS.width - 1) ∧
        ((s.view.installImage c f blk img).1 = [] → lookupN mv t.node.st.moves = some { m with blksDone := m.blksDone ++ [blk] }) ∧
        ((s.view.installImage c f blk img).1 = [] → c.extent ≤ s.view.slotBytes c.part → ∀ e ∈ (blockPagesOf c.k blk).zipIdx, ∀ i : Nat, i < c.extent → e.2 * c.extent + i < img.length →
      some (byteAt t (s.view.pageAddrAt c.part f e.1 + i)) = img[e.2 * c.extent + i]?)) ∧
  (∀ (s : State) (inst ci blk : Nat) (bs : List Blk) (c : Course) (b : Blk) (img : Bytes), s.alive = true →
      Canonical s →
      inst < 25 →
      rd s Reg.XPD_ACTIVE 0 inst = 1 →
      s.view.course ci = some c →
      c.loc = .ddr bs →
      bs[blk]? = some b →
      s.view.blockExpander c.loc b = some inst →
      expandBlock (s.view.blkBytes c.loc b) (c.imageLen blk) c.part = .ok img →
      ∃ t, exec (.blockDecodeDone inst (.readThrough ci blk) none) s = .next t ∧
        rd t Reg.XPD_BLOCKS 0 inst = min (rd s Reg.XPD_BLOCKS 0 inst + 1) (2 ^ Reg.XPD_BLOCKS.width - 1) ∧
        (∀ x ∈ t.node.qa.cur.tiles ++ t.node.qa.next.tiles, x.2.course = ci → x.2.tier1 = true → blk ∈ x.2.expanded) ∧
        t.node.st = s.node.st ∧
        t.mem = s.mem) ∧
  (∀ (s : State) (inst die layer blk window : Nat) (l : WLayer) (b img : Bytes), s.alive = true →
      Canonical s →
      inst < 25 →
      rd s Reg.XPD_ACTIVE 0 inst = 1 →
      (s.node.cl.weights.find? (fun l => l.layer = layer) = some l) →
      l.packed[blk]? = some b →
      l.streamed die = true →
      s.view.weightExpander die = some inst →
      (weightWindows l.imageLen l.packed)[blk]? = some window →
      expandBlock b window 0 = .ok img →
      ∃ t, exec (.blockDecodeDone inst (.weights die layer blk) none) s = .next t ∧
        Counted s t Reg.XPD_BLOCKS 1 0 inst ∧
        (die, layer, blk) ∈ t.node.cl.decoded ++ t.node.cl.decodedNext ∧
        t.node.st = s.node.st ∧
        t.mem = s.mem) ∧
  (∀ (s : State) (wr : RegWr) (inst idx : Nat), s.alive = true →
      Canonical s →
      Lands s wr .XPD 0x108 inst idx →
      wrote1 wr Reg.XPD_RETIRE = true →
      idx < 25 →
      rd s Reg.XPD_ACTIVE 0 idx = 1 →
      ∃ t, exec (.xpdRetire wr) s = .next t ∧
        rd t Reg.XPD_ACTIVE 0 idx = 0 ∧
        rd t Reg.XPD_FAULTED 0 idx = 1 ∧
        (s.view.spareFree idx = true → lookupN idx t.node.cp.standIn = some (spareOf idx) ∧ rd t Reg.XPD_STANDS_FOR 0 (spareOf idx) = idx) ∧
        t.node.st = s.node.st)

/-- R239, R240, R251 to R255, R264. -/
def Obligations.PortsTrainAndComeUp : Prop :=
  (∀ (s : State) (wr : RegWr) (p idx : Nat), s.alive = true →
      Canonical s →
      Lands s wr .LP 0x100 p idx →
      p < 32 →
      fieldEnabled wr Reg.LP_EN = true →
      ∃ t, exec (.lpEnable wr) s = .next t ∧
        rd t Reg.LP_EN p = (s.view.busWrite wr).w.get Reg.LP_EN p ∧
        (rd t Reg.LP_EN p = 0 → rd s Reg.LP_EN p = 1 → rd t Reg.LP_STATE_A p = 0 ∧ rd t Reg.LP_STATE_B p = 0) ∧
        ((s.view.busWrite wr).w.mayTrain p = true → rd s Reg.LP_STATE_A p = 0 → rd t Reg.LP_STATE_A p = 1)) ∧
  (∀ (s : State) (wr : RegWr) (p idx : Nat), s.alive = true →
      Canonical s →
      Lands s wr .LP 0x100 p idx →
      p < 32 →
      wrote1 wr Reg.LP_RETRAIN = true →
      ∃ t, exec (.lpRetrain wr) s = .next t ∧
        rd t Reg.LP_SPARE_FOR p = 15 ∧
        rd t Reg.LP_MARK_BAD p = 0 ∧
        ((s.view.busWrite wr).w.mayTrain p = true → ∀ h ∈ t.view.halvesOf p, rd t (stateFld h) p = 1)) ∧
  (∀ (s : State) (p half lanes : Nat), s.alive = true →
      Canonical s →
      s.view.hasHalf p half = true →
      s.view.portState p half = 1 →
      ((if rd s Reg.LP_SPLIT p ≠ 0 then 4 else 8) ≤ lanes) →
      s.view.mayTrain p = true →
      atD s.node.bo.serdesClk (p / 8) false = true →
      ∃ t, exec (.laneSignalDetect p half lanes) s = .next t ∧
        rd t (stateFld half) p = 2 ∧
        ((s.view.half p half).failed = false → Counted s t Reg.LP_RETRAINS 1 p) ∧
        ((s.view.half p half).failed = true → rd t Reg.LP_RETRAINS p = rd s Reg.LP_RETRAINS p) ∧
        t.node.lk = s.node.lk ∧
        t.mem = s.mem) ∧
  (∀ (s : State) (p half : Nat) (failed : Option Nat), s.alive = true →
      Canonical s →
      s.view.hasHalf p half = true →
      s.view.portState p half = 2 →
      (∀ l ∈ failed, l < 8 ∧ s.view.laneHalf p l = half ∧ s.view.laneSpareFree p = true) →
      ∃ t, exec (.lanesConverged p half failed) s = .next t ∧
        rd t (stateFld half) p = 3 ∧
        (∀ l ∈ failed, rd t Reg.LP_SPARE_FOR p = l) ∧
        (failed = none → t.node.lk = s.node.lk) ∧
        (∀ l ∈ failed, t.node.lk = (s.view.modHalf p half fun x => { x with dark := [l] }).n.lk) ∧
        t.mem = s.mem) ∧
  (∀ (s : State) (p half : Nat), s.alive = true →
      Canonical s →
      s.view.hasHalf p half = true →
      s.view.portState p half = 2 →
      ∃ t, exec (.trainTimeout p half) s = .next t ∧
        rd t (stateFld half) p = 1 ∧
        rd t Reg.LP_RETRAINS p = min (rd s Reg.LP_RETRAINS p + 1) (2 ^ Reg.LP_RETRAINS.width - 1) ∧
        t.mem = s.mem) ∧
  (∀ (s : State) (p half : Nat) (seen : List (Option (AlignBlock × Int))) (order : List (Nat × Nat)), s.alive = true →
      Canonical s →
      s.node.lk.halves.length = 64 →
      s.view.hasHalf p half = true →
      s.view.portState p half = 3 →
      deskew (s.view.lanesOf p half) seen = some order →
      ∃ t, exec (.lanesDeskewed p ⟨half, seen⟩) s = .next t ∧
        rd t (stateFld half) p = 4 ∧
        (t.view.half p half).order = order.foldl (fun l e => l.set e.1 e.2) (s.view.half p half).order ∧
        (∀ f : Slot, f = ctrlSlot (t.view.helloBody p half ++ Sys2Proof.Crypto.beBytes 8 s.node.tk.now.toNat) →
      t.node.out.getLast? = some (.linkSlots p half [f] (t.view.codewords p half [f]))) ∧
        t.mem = s.mem) ∧
  (∀ (s : State) (p half : Nat), s.alive = true →
      s.view.hasHalf p half = true →
      4 ≤ s.view.portState p half →
      ∃ t, exec (.helloTimer p half) s = .next t ∧
        (∀ f : Slot, f = ctrlSlot (s.view.helloBody p half ++ Sys2Proof.Crypto.beBytes 8 s.node.tk.now.toNat) →
      t.node.out = s.node.out ++ [.linkSlots p half [f] (s.view.codewords p half [f])]) ∧
        t.regs = s.regs ∧
        t.mem = s.mem ∧
        t.node.tk = s.node.tk) ∧
  (∀ (s : State) (p half : Nat) (flit : Bytes), s.alive = true →
      Canonical s →
      s.node.lk.halves.length = 64 →
      s.view.hasHalf p half = true →
      4 ≤ s.view.portState p half →
      flit.length = 64 ∧ fieldAt flit 0 1 = 1 →
      ∃ t, exec (.helloFlit p half flit) s = .next t ∧
        (t.view.half p half).peerNode = beAt flit 2 2 ∧
        rd t Reg.LP_NODE p = beAt flit 2 2 % 2 ^ Reg.LP_NODE.width ∧
        (beAt flit 4 4 = rd s Reg.GLB_FABRIC_ID → beAt flit 0xC 2 % 1024 = rd s Reg.TICK_PERIOD → s.view.portState p half = 4 →
      (s.view.isFull = false ∨ rd s Reg.LP_REH p = 0) → rd t (stateFld half) p = 5) ∧
        (¬ (beAt flit 4 4 = rd s Reg.GLB_FABRIC_ID ∧ beAt flit 0xC 2 % 1024 = rd s Reg.TICK_PERIOD) → s.view.portState p half = 4 →
      rd t (stateFld half) p = 7)) ∧
  (∀ (s : State) (p half : Nat), s.alive = true →
      Canonical s →
      s.node.lk.halves.length = 64 →
      s.view.hasHalf p half = true →
      s.view.portLive p half = true →
      ∃ t, exec (.helloTimeout p half) s = .next t ∧
        rd t (stateFld half) p = 1 ∧
        (t.view.half p half).swap = none ∧
        (t.view.half p half).rxQ = [])

/-- R245, R248 to R251, R432. -/
def Obligations.LanesSwapToTheSpare : Prop :=
  (∀ (s : State) (wr : RegWr) (p idx lane h : Nat), s.alive = true →
      Canonical s →
      s.node.lk.halves.length = 64 →
      Lands s wr .LP 0x100 p idx →
      p < 32 →
      wrote1 wr Reg.LP_FORCE_SWAP = true ∧ wrote1 wr Reg.LP_RETRAIN = false →
      (s.view.busWrite wr).w.get Reg.LP_EN p = 1 →
      lane = (s.view.busWrite wr).w.get Reg.LP_SWAP_LANE p →
      h = (s.view.busWrite wr).w.laneHalf p lane →
      s.view.portLive p h = true →
      s.view.laneSpareFree p = true →
      rd s Reg.GLB_LANE_SPARE_EN = 1 →
      ∃ t, exec (.forceSwap wr) s = .next t ∧
        (t.view.half p h).swap = some { lane := lane, hard := false, atRound := none, tx := false } ∧
        t.node.out.getLast? = some (.linkSlots p h [ctrlSlot (swapAsk lane h)] (t.view.codewords p h [ctrlSlot (swapAsk lane h)]))) ∧
  (∀ (s : State) (p lane l h : Nat), s.alive = true →
      Canonical s →
      s.node.lk.halves.length = 64 →
      p < 32 →
      s.view.logicalOf p lane = some l →
      h = s.view.laneHalf p l →
      s.view.portLive p h = true →
      ∃ t, exec (.hardLaneFailure p lane) s = .next t ∧
        (s.view.laneSpareFree p = true → rd s Reg.GLB_LANE_SPARE_EN = 1 →
      rd t (stateFld h) p = 6 ∧ (t.view.half p h).swap = some { lane := l, hard := true, atRound := none, tx := false }) ∧
        ((s.view.laneSpareFree p = false ∨ rd s Reg.GLB_LANE_SPARE_EN = 0) → rd t (stateFld h) p = 1)) ∧
  (∀ (s : State) (p half : Nat) (blocks : List AlignBlock) (corrected : List Nat) (spareOk : Bool), s.alive = true →
      Canonical s →
      s.node.lk.halves.length = 64 →
      s.view.hasHalf p half = true →
      s.view.portLive p half = true →
      ∃ t, exec (.alignmentRound p half blocks corrected spareOk) s = .next t ∧
        (t.view.half p half).round = s.view.roundOf p half blocks ∧
        (t.view.half p half).txRound = ((s.view.half p half).txRound + 1) % 256 ∧
        (t.view.half p half).uncorr = 0 ∧
        Counted s t Reg.LP_CW_RX (16383 - (s.view.half p half).uncorr) p ∧
        Counted s t Reg.LP_SYM_CORRECTED ((corrected.take 9).foldl (· + ·) 0) p ∧
        (∃ bs, Out.alignBlocks p half bs ∈ t.node.out ∧ (∀ b ∈ bs, b.pattern = Config.alignPattern % 2 ^ 64 ∧ b.port = p ∧ b.half = half ∧
      b.round = ((s.view.half p half).txRound + 1) % 256) ∧ ∀ l ∈ s.view.lanesOf p half, ∃ b ∈ bs, b.logical = some l) ∧
        (∀ sw ∈ (s.view.half p half).swap, sw.atRound = some (if sw.tx then ((s.view.half p half).txRound + 1) % 256 else s.view.roundOf p half blocks) →
      spareOk = true → sw.lane < 8 → rd t Reg.LP_SPARE_FOR p = sw.lane ∧ Counted s t Reg.LP_SWAPS 1 p ∧ (t.view.half p half).swap = none)) ∧
  (∀ (s : State) (p half : Nat) (flit : Bytes), s.alive = true →
      Canonical s →
      s.node.lk.halves.length = 64 →
      s.view.hasHalf p half = true →
      s.view.portLive p half = true →
      flit.length = 64 ∧ fieldAt flit 0 1 = 4 →
      fieldAt flit 1 1 < 8 ∧ s.view.laneHalf p (fieldAt flit 1 1) = half →
      s.view.laneSpareFree p = true →
      ∃ t, exec (.swapReq p half flit) s = .next t ∧
        (t.view.half p half).swap = some { lane := fieldAt flit 1 1, hard := false, atRound := some (((s.view.half p half).txRound + 1) % 256), tx := true } ∧
        (∀ f : Slot, f = ctrlSlot (Sys2Proof.Crypto.beBytes 1 5 ++ Sys2Proof.Crypto.beBytes 1 (fieldAt flit 1 1) ++
      Sys2Proof.Crypto.beBytes 1 half ++ Sys2Proof.Crypto.beBytes 1 (((s.view.half p half).txRound + 1) % 256)) →
      t.node.out = s.node.out ++ [.linkSlots p half [f] (t.view.codewords p half [f])]) ∧
        t.regs = s.regs ∧
        t.mem = s.mem) ∧
  (∀ (s : State) (p half : Nat) (flit : Bytes) (sw : LaneSwap), s.alive = true →
      s.node.lk.halves.length = 64 →
      s.view.hasHalf p half = true →
      s.view.portLive p half = true →
      flit.length = 64 ∧ fieldAt flit 0 1 = 5 →
      (s.view.half p half).swap = some sw →
      sw.tx = false ∧ sw.lane = fieldAt flit 1 1 →
      ∃ t, exec (.swapAck p half flit) s = .next t ∧
        (t.view.half p half).swap = some { sw with atRound := some (fieldAt flit 3 1) } ∧
        t.regs = s.regs ∧
        t.mem = s.mem ∧
        t.node.out = s.node.out) ∧
  (∀ (s : State) (p lane v h ber : Nat), s.alive = true →
      Canonical s →
      p < 32 ∧ lane ≤ 8 →
      rd s Reg.MAR_LANE_EN = 1 →
      ∃ t, exec (.laneScan p lane v h ber) s = .next t ∧
        rd t Reg.MAR_V 0 (p * 16 + lane) = v % 2 ^ Reg.MAR_V.width ∧
        rd t Reg.MAR_H 0 (p * 16 + lane) = h % 2 ^ Reg.MAR_H.width ∧
        rd t Reg.MAR_BER_CL 0 (p * 16 + lane) = (s.view.berCl p lane).1 % 2 ^ Reg.MAR_BER_CL.width ∧
        (v < rd s Reg.MAR_V_MV_104 ∨ h < rd s Reg.MAR_H_UI → s.view.logicalOf p lane ≠ none →
      rd t Reg.MAR_LANE_EVENTS = min (rd s Reg.MAR_LANE_EVENTS + 1) (2 ^ Reg.MAR_LANE_EVENTS.width - 1)) ∧
        (lane = 8 → s.view.logicalOf p 8 = none → ∀ l : Nat, l < 9 →
      rd t Reg.MAR_SPARE_WEAK 0 (p * 16 + l) = if v < rd s Reg.MAR_V_MV_104 ∨ h < rd s Reg.MAR_H_UI then 1 else 0)) ∧
  (∀ (s : State) (p half : Nat) (blocks : List AlignBlock) (corrected : List Nat) (spareOk : Bool), s.alive = true →
      Canonical s →
      s.node.lk.halves.length = 64 →
      s.view.hasHalf p half = true →
      s.view.portLive p half = false ∧ s.view.portState p half ≠ 0 →
      ∃ t, exec (.alignmentRound p half blocks corrected spareOk) s = .next t ∧
        (t.view.half p half).round = s.view.roundOf p half blocks ∧
        (t.view.half p half).txRound = ((s.view.half p half).txRound + 1) % 256 ∧
        t.node.out = s.node.out ++ [.alignBlocks p half (t.view.blocksOf p half)] ∧
        t.regs = s.regs ∧
        t.mem = s.mem)

/-- R243, R247, R256 to R258, R340, R342. -/
def Obligations.LinkUnitsAndCreditsAreCounted : Prop :=
  (∀ (s : State) (p half first c : Nat) (words : List LaneWord) (slots : List (List Slot)) (pkt : Bytes), s.alive = true →
      s.node.lk.halves.length = 64 →
      s.view.hasHalf p half = true →
      s.view.portState p half = 5 →
      words.mapM (s.view.rxSlots p half) = some slots →
      unitIn (slots.flatten.drop first) = some (some (c, pkt)) →
      ∃ t, exec (.linkUnitReceived p half words first) s = .next t ∧
        (t.view.half p half).rxQ = (s.view.half p half).rxQ ++ [(c, pkt)] ∧
        (t.view.half p half).rxCount = addAt c (unitFlits pkt) (s.view.half p half).rxCount ∧
        t.regs = s.regs ∧
        t.mem = s.mem) ∧
  (∀ (s : State) (p half first : Nat) (words : List LaneWord) (slots : List (List Slot)), s.alive = true →
      Canonical s →
      s.view.hasHalf p half = true →
      s.view.portState p half = 5 →
      words.mapM (s.view.rxSlots p half) = some slots →
      unitIn (slots.flatten.drop first) = some none →
      ∃ t, exec (.linkUnitReceived p half words first) s = .next t ∧
        Counted s t Reg.LP_UNITS_DROPPED 1 p ∧
        t.node = s.node ∧
        t.mem = s.mem) ∧
  (∀ (s : State) (p half lane units : Nat) (word : LaneWord), s.alive = true →
      Canonical s →
      s.node.lk.halves.length = 64 →
      s.view.hasHalf p half = true →
      s.view.portLive p half = true →
      s.view.uncorrectable p half word = true →
      ∃ t, exec (.codewordUncorrectable p half ⟨word, lane⟩ units) s = .next t ∧
        Counted s t Reg.LP_CW_RX 1 p ∧
        Counted s t Reg.LP_CW_UNCORR 1 p ∧
        Counted s t Reg.LP_UNITS_DROPPED (min 10 units) p ∧
        (t.view.half p half).uncorr = (s.view.half p half).uncorr + 1 ∧
        (t.view.half p half).rxQ = (s.view.half p half).rxQ ∧
        t.mem = s.mem) ∧
  (∀ (s : State) (p half : Nat) (flit : Bytes), s.alive = true →
      s.node.lk.halves.length = 64 →
      s.view.hasHalf p half = true →
      s.view.portLive p half = true →
      flit.length = 64 ∧ fieldAt flit 0 1 = 2 →
      (s.view.half p half).avail.length = 4 ∧ (s.view.half p half).freed.length = 4 →
      ∃ t, exec (.creditFlit p half flit) s = .next t ∧
        (∀ c : Nat, c < 4 → atD (t.view.half p half).avail c 0 = atD (s.view.half p half).avail c 0 + countDiff (beAt flit (4 + 2 * c) 2) (atD (s.view.half p half).freedSeen c 0)) ∧
        (∀ c : Nat, c < 4 → atD (t.view.half p half).rxCount c 0 = beAt flit (12 + 2 * c) 2) ∧
        (∀ c : Nat, c < 4 → atD (t.view.half p half).freed c 0 = atD (s.view.half p half).freed c 0 + countDiff (beAt flit (12 + 2 * c) 2) (atD (s.view.half p half).rxCount c 0)) ∧
        t.regs = s.regs ∧
        t.mem = s.mem) ∧
  (∀ (s : State) (p half : Nat) (u : TxUnit), s.alive = true →
      s.node.lk.halves.length = 64 →
      rd s Reg.FAB_EN = 1 →
      s.view.hasHalf p half = true →
      s.view.portState p half = 5 →
      (portHead s p half 0 = some u ∨ (portHead s p half 0 = none ∧ portTurnOf s p half = some u.cls ∧ portHead s p half u.cls = some u)) →
      ∃ t, exec (.portUnitStart p half) s = .next t ∧
        t.node.out.take (s.node.out.length + 1) = s.node.out ++ [.linkSlots p half (unitSlots u.cls u.bytes) (t.view.codewords p half (unitSlots u.cls u.bytes))] ∧
        t.view.txQueue (2 * p + half) = (s.view.txQueue (2 * p + half)).erase u ∧
        (t.view.half p half).sent = addAt u.cls (unitFlits u.bytes) (s.view.half p half).sent ∧
        (t.view.half p half).avail = (s.view.half p half).avail.modify u.cls (· - unitFlits u.bytes) ∧
        t.mem = s.mem)

/-- R260 to R266. -/
def Obligations.TheTickFollowsItsSource : Prop :=
  (∀ (s : State) (p half : Nat) (flit : Bytes) (arrive : Int) (m : Mark), s.alive = true →
      Canonical s →
      s.node.lk.halves.length = 64 →
      s.view.hasHalf p half = true →
      s.view.portState p half = 5 →
      flit.length = 64 ∧ fieldAt flit 0 1 = 3 →
      m = { tick := beAt flit 2 6, depart := beAt flit 8 4 % 2 ^ 24, arrive := arrive } →
      ∃ t, exec (.tickMark p half flit arrive) s = .next t ∧
        (t.view.half p half).mark = some m ∧
        (t.view.half p half).prevMark = (s.view.half p half).mark ∧
        (t.view.half p half).missed = 0 ∧
        (∀ x ∈ (m :: (s.view.half p half).mark.toList).find? (fun x : Mark => x.tick = beAt flit 0xE 6), s.view.isSource p half = true →
      rd s Reg.TICK_LOCK = 2 → BitVec.ofNat 48 m.tick = s.node.tk.now →
      rd t Reg.TICK_OFFSET = toField 16 (theta x.depart x.arrive (beAt flit 0x14 4 % 2 ^ 24 : Nat) (ofField 24 (beAt flit 0x18 4 % 2 ^ 24)) (ofField 16 (rd s Reg.LP_ASYM p))) % 2 ^ 16)) ∧
  (∀ (s : State) (p half : Nat) (why : SourceLoss), s.alive = true →
      Canonical s →
      p = rd s Reg.TICK_SRC_PORT ∧ half = rd s Reg.TICK_SRC_HALF →
      s.view.isSource p half = true →
      ((why = .missing ∧ 4 ≤ (s.view.half p half).missed) ∨ (why = .portDown ∧ s.view.portLive p half = false) ∨ (why = .discontinuous ∧ ∃ a ∈ (s.view.half p half).prevMark, ∃ b ∈ (s.view.half p half).mark, (a.tick + 1) % 2 ^ 48 ≠ b.tick)) →
      ∃ t, exec (.tickSourceLost why) s = .next t ∧
        t.node.tk.due = 0 ∧
        (s.view.bestSource (some (p, half)) ≠ none → rd t Reg.TICK_LOCK = 1) ∧
        (s.view.bestSource (some (p, half)) = none → rd t Reg.TICK_LOCK = 0 ∧ rd t Reg.TICK_HOPS = 7)) ∧
  (∀ (s : State) (wr : RegWr) (inst idx : Nat), s.alive = true →
      Canonical s →
      Lands s wr .TICK 0x110 inst idx →
      ∃ t, exec (.tickSwitchWrite wr) s = .next t ∧
        (fieldEnabled wr Reg.TICK_SWITCH_HI = true → rd t Reg.TICK_PENDING = 1 ∧
      t.node.tk = { s.node.tk with pending := true, nextPeriod := rd t Reg.TICK_NEXT, switchAt := BitVec.ofNat 48 (rd t Reg.TICK_SWITCH_LO + rd t Reg.TICK_SWITCH_HI * 2 ^ 32) }) ∧
        (fieldEnabled wr Reg.TICK_SWITCH_HI = false → t.node.tk = s.node.tk) ∧
        t.mem = s.mem) ∧
  (∀ (s : State), s.alive = true →
      Canonical s →
      s.node.tk.pending = true →
      s.view.reached s.node.tk.switchAt = true →
      ∃ t, exec .periodSwitch s = .next t ∧
        rd t Reg.TICK_PERIOD = s.node.tk.nextPeriod % 2 ^ Reg.TICK_PERIOD.width ∧
        rd t Reg.TICK_PENDING = 0 ∧
        t.node.tk = { s.node.tk with pending := false }) ∧
  (∀ (s : State) (wr : RegWr) (inst idx : Nat), s.alive = true →
      Canonical s →
      Lands s wr .TICK 0x134 inst idx →
      ∃ t, exec (.tickLoad wr) s = .next t ∧
        (fieldEnabled wr Reg.TICK_LOAD_HI = true → t.node.tk.now = BitVec.ofNat 48 (rd t Reg.TICK_LOAD_LO + rd t Reg.TICK_LOAD_HI * 2 ^ 32) ∧
      t.node.qa.cur.tick = t.node.tk.now) ∧
        (fieldEnabled wr Reg.TICK_LOAD_HI = false → t.node.tk.now = s.node.tk.now) ∧
        t.node.st = s.node.st ∧
        t.mem = s.mem) ∧
  (∀ (s : State) (dev : Int), s.alive = true →
      Canonical s →
      ∃ t, exec (.tickInEdge dev) s = .next t ∧
        (s.view.inDue (s.view.inEdgeAt dev) ≤ s.node.tk.inGap → s.node.tk.inLast = none ∨ s.node.tk.inBad < 4 →
      (s.view.inOff (s.view.inEdgeAt dev) ≤ 50000 → t.node.tk.inBad = 0 ∧ t.node.tk.inLast ≠ none ∧
        (s.view.isFull = true ∨ s.node.tk.lockedOnce = true → t.node.tk.inLast = some (s.view.inEdgeAt dev))) ∧
      (50000 < s.view.inOff (s.view.inEdgeAt dev) → t.node.tk.inLast = s.node.tk.inLast ∧ t.node.tk.inBad = s.node.tk.inBad + 1 ∧
        rd t Reg.TICK_IN_IGNORED = min (rd s Reg.TICK_IN_IGNORED + 1) (2 ^ Reg.TICK_IN_IGNORED.width - 1))) ∧
        (s.node.tk.inLast ≠ none → 4 + s.node.tk.inGap ≤ s.node.tk.inBad + s.view.inDue (s.view.inEdgeAt dev) →
      s.node.tk.inGap ≤ s.view.inDue (s.view.inEdgeAt dev) → t.node.tk.inValid = false ∧ t.node.tk.inGood = 1)) ∧
  (∀ (s : State), s.alive = true →
      Canonical s →
      s.node.tk.inLast ≠ none ∧ 4 ≤ s.node.tk.inBad →
      ∃ t, exec .tickInLost s = .next t ∧
        t.node.tk.inValid = false ∧
        t.node.tk.inLast = none ∧
        t.node.tk.inGood = 0 ∧
        t.node.tk.now = s.node.tk.now) ∧
  (∀ (s : State), s.alive = true →
      s.node.tk.inLast = none ∨ s.node.tk.inBad < 4 →
      exec .tickInLost s = .next s)

/-- R269 to R277. -/
def Obligations.ConnectionsAreInstalledRekeyedAndRemoved : Prop :=
  (∀ (s : State) (q e p id slot : Nat) (desc : Bytes), s.alive = true →
      Canonical s →
      ControlAsks s q e p desc 1 →
      id = fieldAt desc 4 4 →
      s.view.connDescOk p desc = true →
      s.view.freeHotSlot = some slot →
      (s.view.ksInsert tblConn [id] slot).1 ≠ none →
      ∃ t, exec (.installConn (.queue q e) desc) s = .next t ∧
        (t.view.queueOf q).entryOf e = none ∧
        (∀ key ∈ s.view.unwrapFor p (sliceAt desc 0x18 40), ∃ c ∈ lookupN id t.node.tp.conns, c.part = p ∧ c.peerNode = fieldAt desc 2 2 ∧
      c.peerConn = fieldAt desc 8 4 ∧ c.subscriber = fieldAt desc 0xE 2 ∧ c.epoch = fieldAt desc 0xC 2 ∧ c.key = key ∧ c.prevKey = none ∧
      c.state = ConnState.active ∧ c.hot = true ∧ c.slot = slot ∧ c.txPsn = 0 ∧ c.unacked = [] ∧ c.rxBase = 0 ∧ c.msnLow = 0 ∧ c.records = []) ∧
        (s.view.unwrapFor p (sliceAt desc 0x18 40) = none → t.node.tp = s.node.tp ∧ Counted s t Reg.SEC_UNWRAP_FAIL)) ∧
  (∀ (s : State) (q e p id : Nat) (desc : Bytes) (c : Conn), s.alive = true →
      ControlAsks s q e p desc 2 →
      id = fieldAt desc 4 4 →
      s.view.connOf id = some c →
      desc.length = 128 ∧ zeroAt desc 0x40 64 = true →
      c.part = p ∧ c.state = .active ∧ c.hot = true →
      fieldAt desc 0xC 2 = (c.epoch + 1) % 65536 →
      ∃ t, exec (.rekeyConn (.queue q e) desc) s = .next t ∧
        (t.view.queueOf q).entryOf e = none ∧
        (∀ key ∈ s.view.unwrapFor p (sliceAt desc 0x18 40), lookupN id t.node.tp.conns =
      some { c with prevKey := some c.key, key := key, epoch := (c.epoch + 1) % 65536, rekeyTick := s.node.tk.now, lastUsed := s.node.tp.useSeq + 1 }) ∧
        (s.view.unwrapFor p (sliceAt desc 0x18 40) = none → t.node.tp = s.node.tp)) ∧
  (∀ (s : State) (q e p id : Nat) (desc : Bytes) (c : Conn), s.alive = true →
      ControlAsks s q e p desc 2 →
      id = fieldAt desc 4 4 →
      s.view.connOf id = some c →
      desc.length = 128 ∧ zeroAt desc 0x40 64 = true →
      c.part = p ∧ c.state = .active ∧ c.hot = false →
      fieldAt desc 0xC 2 = (c.epoch + 1) % 65536 →
      ∃ t, exec (.rekeyConn (.queue q e) desc) s = .next t ∧
        lookupN id t.node.tp.conns = some { c with fetching := true } ∧
        t.node.hq = s.node.hq ∧
        t.regs = s.regs ∧
        t.mem = s.mem) ∧
  (∀ (s : State) (conn : Nat) (c : Conn), s.alive = true →
      lookupN conn s.node.tp.conns = some c →
      c.prevKey ≠ none →
      rd s Reg.FAB_OVERLAP ≤ ticksTo c.rekeyTick s.node.tk.now →
      ∃ t, exec (.rekeyOverlapExpired conn) s = .next t ∧
        lookupN conn t.node.tp.conns = some { c with prevKey := none } ∧
        (∀ k : Nat, k ≠ conn → lookupN k t.node.tp.conns = lookupN k s.node.tp.conns) ∧
        t.regs = s.regs ∧
        t.mem = s.mem) ∧
  (∀ (s : State) (q e p id : Nat) (desc : Bytes) (c : Conn), s.alive = true →
      ControlAsks s q e p desc 3 →
      id = fieldAt desc 4 4 →
      s.view.connOf id = some c →
      desc.length = 128 ∧ zeroAt desc 0x40 64 = true →
      c.part = p ∧ c.state ≠ .removing →
      ∃ t, exec (.removeConn (.queue q e) desc) s = .next t ∧
        (t.view.queueOf q).entryOf e = none ∧
        lookupN id t.node.tp.conns = some { c with state := .removing, removeTick := s.node.tk.now } ∧
        (∀ k : Nat, k ≠ id → lookupN k t.node.tp.conns = lookupN k s.node.tp.conns)) ∧
  (∀ (s : State) (conn : Nat) (c : Conn), s.alive = true →
      lookupN conn s.node.tp.conns = some c →
      c.state = .removing →
      (s.view.hasRecord conn = false ∨ 64 ≤ ticksTo c.removeTick s.node.tk.now) →
      ∃ t, exec (.connectionFreed conn) s = .next t ∧
        lookupN conn t.node.tp.conns = none ∧
        (∀ m ∈ t.node.tp.outMsgs, m.2.conn ≠ conn) ∧
        (∀ m ∈ t.node.tp.inMsgs, m.conn ≠ conn)) ∧
  (∀ (s : State) (conn slot : Nat) (entry : Bytes) (c : Conn), s.alive = true →
      Canonical s →
      lookupN conn s.node.tp.conns = some c →
      c.hot = false ∧ c.fetching = true →
      s.node.bo.busMaster = true →
      s.view.freeHotSlot = some slot →
      s.view.ctxAuthentic conn c entry = true →
      ∃ t, exec (.contextFetchDone conn entry) s = .next t ∧
        (∃ w : Work, t = s.close (c.heldPkts.foldl (fun w e => w.takePacket conn e.2.2) w) ∧
      lookupN conn w.n.tp.conns = some { c with hot := true, slot := slot, fetching := false, heldPkts := [], lastUsed := s.node.tp.useSeq + 1, ksAt := ((s.view.ksEraseConn conn).ksInsert tblConn [conn] slot).1 } ∧
      w.get Reg.CNX_FETCHES = min (rd s Reg.CNX_FETCHES + 1) (2 ^ Reg.CNX_FETCHES.width - 1))) ∧
  (∀ (s : State) (conn slot : Nat) (entry : Bytes) (c : Conn), s.alive = true →
      Canonical s →
      lookupN conn s.node.tp.conns = some c →
      c.hot = false ∧ c.fetching = true →
      c.state = .active →
      s.node.bo.busMaster = true →
      s.view.freeHotSlot = some slot →
      s.view.ctxAuthentic conn c entry = false →
      (∀ m ∈ s.node.tp.outMsgs, m.2.conn ≠ conn) →
      ∃ t, exec (.contextFetchDone conn entry) s = .next t ∧
        lookupN conn t.node.tp.conns = some { c with state := .broken, fetching := false, heldPkts := [], unacked := [], records := [], ackDue := false, ackWanted := false } ∧
        Counted s t Reg.CNX_CTX_FAIL ∧
        Counted s t Reg.FAB_BROKEN ∧
        Counted s t Reg.FAB_NO_CONN c.heldPkts.length) ∧
  (∀ (s : State) (conn : Nat) (entry : Bytes) (c : Conn), s.alive = true →
      lookupN conn s.node.tp.conns = some c →
      c.hot = true ∧ c.fetching = true →
      s.node.bo.busMaster = true →
      ∃ t, exec (.contextFetchDone conn entry) s = .next t ∧
        (∃ w : Work, t = s.close (c.heldPkts.foldl (fun w e => w.takePacket conn e.2.2) w) ∧
      lookupN conn w.n.tp.conns = some { c with fetching := false, heldPkts := [], lastUsed := s.node.tp.useSeq + 1, ksAt := ((s.view.ksEraseConn conn).ksInsert tblConn [conn] c.slot).1 }))

/-- R295, R296. -/
def Obligations.RegionsFollowTheirRemoteKeys : Prop :=
  (∀ (s : State) (q e p bank ki : Nat) (desc : Bytes), s.alive = true →
      ControlAsks s q e p desc 0x10 →
      desc.length = 32 ∧ fieldAt desc 1 1 ≤ 7 ∧ zeroAt desc 2 2 = true ∧ zeroAt desc 0x18 8 = true →
      s.view.spanOk p (fieldAt desc 8 8) (fieldAt desc 0x10 4) = true →
      (s.view.ksInsert tblRkey (rkeyKey p s.view.freeRegion) (regionKey p s.view.freeRegion)).1 = some (bank, ki) →
      ∃ t, exec (.regionCreate (.queue q e) desc) s = .next t ∧
        lookupN (regionKey p s.view.freeRegion) t.node.tp.regions = some { part := p, base := fieldAt desc 8 8, len := fieldAt desc 0x10 4, perm := fieldAt desc 1 1, gen := 0, ksBank := bank, ksIdx := ki, draining := none } ∧
        (t.view.queueOf q).entryOf e = none ∧
        t.node.tp.conns = s.node.tp.conns) ∧
  (∀ (s : State) (q e p : Nat) (desc : Bytes) (r : Region), s.alive = true →
      ControlAsks s q e p desc 0x11 →
      desc.length = 32 ∧ zeroAt desc 2 2 = true ∧ zeroAt desc 0x18 8 = true →
      lookupN (regionKey p (fieldAt desc 4 4)) s.node.tp.regions = some r →
      r.gen = fieldAt desc 4 4 / 2 ^ 24 ∧ r.draining = none →
      ∃ t, exec (.regionAdvance (.queue q e) desc) s = .next t ∧
        lookupN (regionKey p (fieldAt desc 4 4)) t.node.tp.regions = some { r with gen := (r.gen + 1) % 256, draining := some (false, .queue q e, fieldAt desc 0x14 4) } ∧
        ((t.view.queueOf q).entryOf e).map (·.arrived) = some true ∧
        t.regs = s.regs ∧
        t.mem = s.mem) ∧
  (∀ (s : State) (q e p : Nat) (desc : Bytes) (r : Region), s.alive = true →
      ControlAsks s q e p desc 0x12 →
      desc.length = 32 ∧ zeroAt desc 2 2 = true ∧ zeroAt desc 0x18 8 = true →
      lookupN (regionKey p (fieldAt desc 4 4)) s.node.tp.regions = some r →
      r.gen = fieldAt desc 4 4 / 2 ^ 24 ∧ r.draining = none →
      ∃ t, exec (.regionDestroy (.queue q e) desc) s = .next t ∧
        lookupN (regionKey p (fieldAt desc 4 4)) t.node.tp.regions = some { r with draining := some (true, .queue q e, fieldAt desc 0x14 4) } ∧
        ((t.view.queueOf q).entryOf e).map (·.arrived) = some true ∧
        t.regs = s.regs ∧
        t.mem = s.mem) ∧
  (∀ (s : State) (part index : Nat) (r : Region) (q e tag : Nat) (destroy : Bool), s.alive = true →
      lookupN (regionKey part index) s.node.tp.regions = some r →
      r.draining = some (destroy, .queue q e, tag) →
      ∃ t, exec (.regionDrainDone part index) s = .next t ∧
        (lookupN (regionKey part index) t.node.tp.regions = if destroy then none else some { r with draining := none }) ∧
        (t.view.queueOf q).entryOf e = none ∧
        t.node.tp.conns = s.node.tp.conns)

/-- R272, R277, R282, R287, R289 to R292, R301. -/
def Obligations.PacketsAreCheckedForwardedAndTaken : Prop :=
  (∀ (s : State) (port half : Nat) (pkt : Bytes), s.alive = true →
      Canonical s →
      rd s Reg.FAB_EN = 1 →
      headerOk pkt = false →
      ∃ t, exec (.packetReceived port half pkt) s = .next t ∧
        Counted s t Reg.FAB_HDR_BAD ∧
        t.node.tp = s.node.tp ∧
        t.node.sc = s.node.sc ∧
        t.mem = s.mem) ∧
  (∀ (s : State) (port half : Nat) (pkt : Bytes), s.alive = true →
      Canonical s →
      rd s Reg.FAB_EN = 1 →
      headerOk pkt = true ∧ (PktHead.read pkt).dstNode ≠ s.view.nodeId →
      ∃ t, exec (.packetReceived port half pkt) s = .next t ∧
        ((PktHead.read pkt).hops = 0 → Counted s t Reg.FAB_HOP_EXPIRED ∧ t.node.sc = s.node.sc) ∧
        ((PktHead.read pkt).hops ≠ 0 → Counted s t Reg.FAB_TRANSIT ∧
      ∃ k cls : Nat, t.view.txQueue k = s.view.txQueue k ++ [{ cls := cls, bytes := pkt.set 2 (BitVec.ofNat 8 (beAt pkt 2 1 - 1)), arrived := some port }]) ∧
        t.node.tp = s.node.tp ∧
        t.mem = s.mem) ∧
  (∀ (s : State) (port half : Nat) (pkt : Bytes), s.alive = true →
      Canonical s →
      rd s Reg.FAB_EN = 1 →
      headerOk pkt = true ∧ (PktHead.read pkt).dstNode = s.view.nodeId →
      s.view.connOf (PktHead.read pkt).dst = none →
      ∃ t, exec (.packetReceived port half pkt) s = .next t ∧
        Counted s t Reg.FAB_NO_CONN ∧
        t.node.tp = s.node.tp) ∧
  (∀ (s : State) (port half : Nat) (pkt : Bytes) (h : PktHead) (c : Conn), s.alive = true →
      rd s Reg.FAB_EN = 1 →
      h = PktHead.read pkt ∧ headerOk pkt = true ∧ h.dstNode = s.view.nodeId →
      s.view.connOf h.dst = some c ∧ (c.hot = false ∨ c.fetching = true ∨ ¬ ConnFound s h.dst c) →
      c.heldPkts.length < rd s Reg.CNX_PER_CONN →
      (s.node.tp.conns.foldl (fun n e => n + e.2.heldPkts.length) 0 < rd s Reg.CNX_TOTAL) →
      ∃ t, exec (.packetReceived port half pkt) s = .next t ∧
        lookupN h.dst t.node.tp.conns = some { c with fetching := true, heldPkts := c.heldPkts ++ [(port, half, pkt)] } ∧
        t.node.tp.inMsgs = s.node.tp.inMsgs) ∧
  (∀ (s : State) (port half ext : Nat) (pkt : Bytes) (h : PktHead) (c : Conn) (k : BitVec 256), s.alive = true →
      Canonical s →
      rd s Reg.FAB_EN = 1 →
      PacketFor s pkt h c →
      h.op = 0xF →
      keyOf c h.epoch = some k →
      ext = extend24 c.rxAckSeq h.psn ∧ c.rxAckSeq ≤ ext + 2 ^ 23 →
      s.view.keysGone c.part = false →
      ∃ t, exec (.packetReceived port half pkt) s = .next t ∧
        ((openPkt k pkt ext).isSome → Counted s t Reg.FAB_RX_PKTS ∧
      lookupN h.dst t.node.tp.conns = some { c with rxAckSeq := max c.rxAckSeq ext, lastUsed := s.node.tp.useSeq + 1 }) ∧
        (openPkt k pkt ext = none → Counted s t Reg.FAB_AUTH_FAIL ∧ lookupN h.dst t.node.tp.conns = some { c with lastUsed := s.node.tp.useSeq + 1 })) ∧
  (∀ (s : State) (port half ext base : Nat) (pkt : Bytes) (h : PktHead) (c : Conn) (key : Option (BitVec 256)), s.alive = true →
      Canonical s →
      rd s Reg.FAB_EN = 1 →
      PacketFor s pkt h c →
      h.op ≠ 0xF →
      ext = extend24 c.rxBase h.psn ∧ base = max c.rxBase (extend24 c.rxBase h.low) →
      base ≤ ext ∧ ext < base + 4096 ∧ ext ∉ c.rxSeen →
      s.view.keysGone c.part = false →
      key = keyOf c h.epoch →
      ((key.bind fun k => openPkt k pkt ext) = none) →
      ∃ t, exec (.packetReceived port half pkt) s = .next t ∧
        lookupN h.dst t.node.tp.conns = some { c with lastUsed := s.node.tp.useSeq + 1 } ∧
        t.node.tp.inMsgs = s.node.tp.inMsgs ∧
        (key = none → Counted s t Reg.FAB_EPOCH_UNKNOWN) ∧
        (key ≠ none → Counted s t Reg.FAB_AUTH_FAIL)) ∧
  (∀ (s : State) (port half ext base : Nat) (pkt : Bytes) (h : PktHead) (c : Conn) (k : BitVec 256), s.alive = true →
      Canonical s →
      rd s Reg.FAB_EN = 1 ∧ rd s Reg.POL_EN = 0 →
      PacketFor s pkt h c →
      usesExtent h.op = true ∧ h.op ≠ 0xF ∧ ¬ (h.op = 3 ∧ h.target % 256 ≠ 1) →
      h.index = 0 ∧ h.last = true →
      ext = extend24 c.rxBase h.psn ∧ base = max c.rxBase (extend24 c.rxBase h.low) →
      base ≤ ext ∧ ext < base + 4096 ∧ ext ∉ c.rxSeen →
      s.view.keysGone c.part = false ∧ s.view.live c.part = true →
      c.msnIsDone h.msn = false ∧ c.msnAhead h.msn < 4096 →
      s.view.inMsg h.dst h.msn = none →
      rd s Reg.MIR_FENCE_MIN 0 c.peerNode ≤ rd s Reg.MIR_PRESENTED 0 c.peerNode →
      s.view.opsInUse < 16384 ∧ longest h.op ≤ s.view.rxFree →
      quietMsgs s h.dst h.msn →
      keyOf c h.epoch = some k →
      ∃ t, exec (.packetReceived port half pkt) s = .next t ∧
        (∀ p ∈ openPkt k pkt ext,
      t.view.inMsg h.dst h.msn = some { conn := h.dst, msn := h.msn, op := h.op, parts := [(0, p)], count := some 1, target := h.target, cmpr := bitOf h.flags 3, complete := true, behindFence := false, tick := s.node.tk.now, acted := false } ∧
      Counted s t Reg.FAB_RX_PKTS ∧ ∃ x ∈ lookupN h.dst t.node.tp.conns, (ext < x.rxBase ∨ ext ∈ x.rxSeen) ∧ x.ackWanted = true))

/-- R283 to R285, R272. -/
def Obligations.AcknowledgementsEndPacketsAndMessages : Prop :=
  (∀ (s : State) (conn : Nat) (bytes : Bytes) (c : Conn), s.alive = true →
      lookupN conn s.node.tp.conns = some c →
      c.state ≠ .broken →
      bytes.length = 80 ∧ beAt bytes 0x48 2 = 0 →
      ∃ t, exec (.ackOp conn bytes) s = .next t ∧
        (∃ x ∈ lookupN conn t.node.tp.conns, x = { c with unacked := x.unacked } ∧
      x.unacked.map (·.psn) = (c.unacked.filter fun y => !ackCovers c bytes y.psn).map (·.psn) ∧
      ∀ y ∈ x.unacked, (∃ z ∈ c.unacked, ackCovers c bytes z.psn = true ∧ y.psn < z.psn) → y.overtaken = true) ∧
        t.regs = s.regs ∧
        t.mem = s.mem) ∧
  (∀ (s : State) (conn k : Nat) (bytes : Bytes) (c : Conn) (m : OutMsg), s.alive = true →
      lookupN conn s.node.tp.conns = some c →
      c.state ≠ .broken →
      bytes.length = 96 ∧ beAt bytes 0x48 2 = 1 →
      c.unacked = [] →
      s.view.outMsg conn (beAt bytes 80 3) = some (k, m) →
      (m.purpose = .notice ∨ m.purpose = .fencePresent ∨ m.purpose = .partialSend) →
      ∃ t, exec (.ackOp conn bytes) s = .next t ∧
        (t.node.tp.outMsgs = s.node.tp.outMsgs.filter fun x => x.1 ≠ k) ∧
        t.node.tp.conns = s.node.tp.conns ∧
        t.regs = s.regs ∧
        t.mem = s.mem) ∧
  (∀ (s : State) (conn : Nat) (c : Conn), s.alive = true →
      lookupN conn s.node.tp.conns = some c →
      c.ackWanted = true →
      ∃ t, exec (.ackDelayExpired conn) s = .next t ∧
        lookupN conn t.node.tp.conns = some { c with ackDue := true, fetching := c.fetching || !c.hot } ∧
        t.regs = s.regs ∧
        t.mem = s.mem) ∧
  (∀ (s : State) (i : Instr) (conn psn k : Nat) (c : Conn) (x : Sent) (m : OutMsg), s.alive = true →
      lookupN conn s.node.tp.conns = some c →
      ((i = .reorderExpired conn psn ∧ x.overtaken = true ∧ c.unacked.find? (fun y => y.psn = psn && y.overtaken) = some x) ∨ (i = .rtoExpired conn psn ∧ c.unacked.find? (fun y => y.psn = psn) = some x)) →
      (x.sends = 0 ∨ x.sends < s.view.sendLimit conn x.psn) →
      ((s.node.tp.outMsgs.find? fun m => m.2.conn = conn && m.2.resp = x.resp && m.2.msn = x.msn && m.2.started) = some (k, m)) →
      ∃ t, exec i s = .next t ∧
        (lookupN conn t.node.tp.conns = some { c with unacked := c.unacked.filter fun y => y.psn ≠ psn }) ∧
        (lookupN k t.node.tp.outMsgs = (lookupN k s.node.tp.outMsgs).map fun y => { y with resend := y.resend ++ [(x.index, x.port, x.sends)] }) ∧
        t.regs = s.regs ∧
        t.mem = s.mem) ∧
  (∀ (s : State) (conn psn : Nat) (c : Conn) (x : Sent), s.alive = true →
      Canonical s →
      lookupN conn s.node.tp.conns = some c →
      c.state = .active →
      (c.unacked.find? (fun y => y.psn = psn) = some x) →
      x.sends ≠ 0 ∧ s.view.sendLimit conn x.psn ≤ x.sends →
      (∀ m ∈ s.node.tp.outMsgs, m.2.conn = conn → m.2.purpose = .notice) →
      ∃ t, exec (.rtoExpired conn psn) s = .next t ∧
        lookupN conn t.node.tp.conns = some { c with state := .broken, unacked := [], records := [], ackDue := false, ackWanted := false } ∧
        (∀ m ∈ t.node.tp.outMsgs, m.2.conn ≠ conn) ∧
        Counted s t Reg.FAB_BROKEN) ∧
  (∀ (s : State) (conn msn k : Nat) (m : OutMsg), s.alive = true →
      s.view.outMsg conn msn = some (k, m) →
      m.acked.length = m.packets ∧ m.resend = [] →
      ∃ t, exec (.probeExpired conn msn) s = .next t ∧
        (lookupN k t.node.tp.outMsgs = (lookupN k s.node.tp.outMsgs).map fun y => { y with resend := [(m.packets - 1, 64, 0)] }) ∧
        t.node.tp.conns = s.node.tp.conns ∧
        t.regs = s.regs ∧
        t.mem = s.mem) ∧
  (∀ (s : State) (pkt : MsgPart) (k q e : Nat) (c : Conn) (m : OutMsg), s.alive = true →
      s.view.connOf pkt.conn = some c ∧ c.state ≠ .broken →
      s.view.outMsg pkt.conn pkt.msn = some (k, m) →
      lookupN k s.node.tp.outMsgs = some m →
      (m.op = 2 ∨ m.op = 0xA) →
      m.got = [] ∧ pkt.index = 0 ∧ pkt.last = true →
      m.purpose = .hostMsg q e →
      ∃ t, exec (.responseOp pkt) s = .next t ∧
        (t.node.tp.outMsgs = s.node.tp.outMsgs.filter fun x => x.1 ≠ k) ∧
        t.node.tp.conns = s.node.tp.conns ∧
        (t.view.queueOf q).entryOf e = none) ∧
  (∀ (s : State) (pkt : MsgPart) (k q e : Nat) (c : Conn) (m : OutMsg) (h : HEntry), s.alive = true →
      Canonical s →
      s.view.connOf pkt.conn = some c ∧ c.state ≠ .broken →
      s.view.outMsg pkt.conn pkt.msn = some (k, m) →
      lookupN k s.node.tp.outMsgs = some m →
      (m.op = 2 ∨ m.op = 0xA) →
      lookupN pkt.index m.got = none ∧ m.gotCount = none ∧ pkt.last = false →
      m.purpose = .hostMsg q e ∧ (s.view.queueOf q).entryOf e = some h ∧ h.suppressed = false ∧ bitOf h.sflags 3 = true →
      ∃ t, exec (.responseOp pkt) s = .next t ∧
        (∀ i : Nat, i < pkt.payload.length → pkt.index * pktMax + i < m.wanted →
      byteAt t (h.resAddr + pkt.index * pktMax + i) = atD pkt.payload i 0) ∧
        lookupN k t.node.tp.outMsgs = some { m with got := insertN pkt.index pkt.payload m.got } ∧
        t.node.tp.conns = s.node.tp.conns ∧
        t.regs = s.regs) ∧
  (∀ (s : State) (pkt : MsgPart) (c : Conn), s.alive = true →
      Canonical s →
      s.view.connOf pkt.conn = some c ∧ c.state ≠ .broken →
      s.view.outMsg pkt.conn pkt.msn = none →
      ∃ t, exec (.responseOp pkt) s = .next t ∧
        Counted s t Reg.FAB_LATE_RECORD ∧
        t.node = s.node ∧
        t.mem = s.mem)

/-- R290, R293, R297 to R299. No ordering FENCE waits on the connection. -/
def Obligations.RemoteAccessActsOnItsRegion : Prop :=
  (∀ (s : State) (pkt : MsgPart) (c : Conn) (m : InMsg) (g : Region) (a0 : Nat), s.alive = true →
      Canonical s →
      AccessRuns s 1 pkt c m →
      s.view.live c.part = true ∧ s.view.isDark = false →
      (s.view.accessCheck c 1 pkt.target (pkt.index * pktMax) pkt.payload.length).1 = .ok g →
      a0 = g.base + pkt.target % 2 ^ 32 + pkt.index * pktMax →
      ∃ t, exec (.writeOp pkt) s = .next t ∧
        (∀ i : Nat, i < pkt.payload.length → outsideRing (a0 + i) → byteAt t (a0 + i) = atD pkt.payload i 0) ∧
        (∀ a : Nat, outsideRing a → (a < a0 ∨ a0 + pkt.payload.length ≤ a) → byteAt t a = byteAt s a) ∧
        ((m.placed pkt.index pkt.last pkt.payload).whole = true → lastRecord t pkt.conn = some { msn := pkt.msn, status := stOK, tag := 0, aux0 := 0, aux1 := 0 } ∧ t.view.inMsg pkt.conn pkt.msn = none) ∧
        ((m.placed pkt.index pkt.last pkt.payload).whole = false → (t.view.inMsg pkt.conn pkt.msn).map (·.parts) = some (insertN pkt.index pkt.payload m.parts))) ∧
  (∀ (s : State) (pkt : MsgPart) (c : Conn) (m : InMsg) (g : Region), s.alive = true →
      AccessRuns s 2 pkt c m →
      s.view.live c.part = true ∧ s.view.isDark = false →
      pkt.payload.length = 8 ∧ zeroAt pkt.payload 4 4 = true ∧ 0 < fieldAt pkt.payload 0 4 ∧ fieldAt pkt.payload 0 4 ≤ 2129920 →
      (s.view.accessCheck c 2 pkt.target 0 (fieldAt pkt.payload 0 4)).1 = .ok g →
      ∃ t, exec (.readOp pkt) s = .next t ∧
        ((t.node.tp.outMsgs.getLast?).map (fun x => (x.1, x.2.conn, x.2.op, x.2.resp, x.2.msn, x.2.purpose)) =
      some (s.node.tp.nextOut, pkt.conn, 0xE, true, pkt.msn, Purpose.readResponse (g.base + pkt.target % 2 ^ 32) (fieldAt pkt.payload 0 4))) ∧
        t.view.inMsg pkt.conn pkt.msn = none ∧
        (∀ a : Nat, outsideRing a → byteAt t a = byteAt s a)) ∧
  (∀ (s : State) (pkt : MsgPart) (c : Conn) (m : InMsg) (g : Region) (a0 : Nat), s.alive = true →
      Canonical s →
      AccessRuns s 0xA pkt c m →
      s.view.live c.part = true →
      pkt.payload.length = 64 →
      (s.view.accessCheck c 0xA pkt.target 0 32).1 = .ok g →
      a0 = g.base + pkt.target % 2 ^ 32 ∧ outsideRing a0 ∧ outsideRing (a0 + 31) →
      ∃ t, exec (.casOp pkt) s = .next t ∧
        (s.view.bytes a0 32 = sliceAt pkt.payload 0 32 → t.view.bytes a0 32 = sliceAt pkt.payload 32 32) ∧
        (s.view.bytes a0 32 ≠ sliceAt pkt.payload 0 32 → t.view.bytes a0 32 = s.view.bytes a0 32) ∧
        (∀ a : Nat, outsideRing a → (a < a0 ∨ a0 + 32 ≤ a) → byteAt t a = byteAt s a) ∧
        ((t.node.tp.outMsgs.getLast?).map (fun x => (x.2.conn, x.2.op, x.2.resp, x.2.msn, x.2.payload)) = some (pkt.conn, 0xE, true, pkt.msn, s.view.bytes a0 32)) ∧
        t.view.inMsg pkt.conn pkt.msn = none) ∧
  (∀ (s : State) (pkt : MsgPart) (c : Conn) (m : InMsg) (st : Nat), s.alive = true →
      Canonical s →
      AccessRuns s 1 pkt c m →
      s.view.live c.part = true ∧ s.view.isDark = false →
      (s.view.accessCheck c 1 pkt.target (pkt.index * pktMax) pkt.payload.length).1 = .error st →
      ∃ t, exec (.writeOp pkt) s = .next t ∧
        lastRecord t pkt.conn = some { msn := pkt.msn, status := st, tag := 0, aux0 := 0, aux1 := 0 } ∧
        (st = stViolGen → Counted s t Reg.FAB_VIOL_GEN) ∧
        (st = stViolKey → Counted s t Reg.FAB_VIOL_KEY) ∧
        (∀ a : Nat, a < 2 ^ 64 → outsideRing a → byteAt t a = byteAt s a))

/-- R280, R300, R322, R326, R361, R362, R379 to R382, R395. -/
def Obligations.MessagesActAtTheirReceiver : Prop :=
  (∀ (s : State) (conn msn q : Nat) (bytes : Bytes) (c : Conn) (h : HEntry) (rest : List HEntry), s.alive = true →
      MsgRuns s conn msn c →
      s.view.isDark = false →
      s.view.queuePart q = some c.part →
      (s.view.queueOf q).recvs = h :: rest →
      bytes.length ≤ h.resLen →
      quietMsgs s conn msn →
      ∃ t, exec (.sendHostQueue conn msn q bytes) s = .next t ∧
        lastRecord t conn = some { msn := msn, status := stOK, tag := 0, aux0 := 0, aux1 := 0 } ∧
        (∀ x ∈ (t.view.queueOf q).recvs, x.idx ≠ h.idx)) ∧
  (∀ (s : State) (conn msn : Nat) (c : Conn), s.alive = true →
      MsgRuns s conn msn c →
      (∀ m ∈ s.node.tp.inMsgs, m.conn = conn → m.msn = msn) →
      quietMsgs s conn msn →
      ∃ t, exec (.fenceOp conn msn []) s = .next t ∧
        (msn = c.msnLow → lastRecord t conn = some { msn := msn, status := stOK, tag := 0, aux0 := 0, aux1 := 0 } ∧ (∀ m ∈ t.node.tp.inMsgs, m.conn ≠ conn)) ∧
        (msn ≠ c.msnLow → t.view.inMsg conn msn = some { conn := conn, msn := msn, op := 9, parts := [(0, [])], count := some 1, target := 0, cmpr := false, complete := true, behindFence := true, tick := 0, acted := false }) ∧
        t.regs = s.regs ∧
        t.mem = s.mem) ∧
  (∀ (s : State) (conn msn : Nat) (bytes : Bytes) (c : Conn), s.alive = true →
      Canonical s →
      MsgHere s conn msn c →
      bytes.length = 16 ∧ fieldAt bytes 0 1 = 1 ∧ beAt bytes 2 2 = c.peerNode ∧ zeroAt bytes 1 1 = true ∧ zeroAt bytes 8 8 = true →
      quietMsgs s conn msn →
      ∃ t, exec (.fenceOp conn msn bytes) s = .next t ∧
        rd t Reg.MIR_PRESENTED 0 c.peerNode = max (rd s Reg.MIR_PRESENTED 0 c.peerNode) (beAt bytes 4 4) % 2 ^ Reg.MIR_PRESENTED.width ∧
        lastRecord t conn = some { msn := msn, status := stOK, tag := 0, aux0 := 0, aux1 := 0 } ∧
        t.mem = s.mem) ∧
  (∀ (s : State) (conn msn : Nat) (bytes : Bytes) (c : Conn), s.alive = true →
      Canonical s →
      MsgRuns s conn msn c →
      s.view.isDark = false →
      bytes.length = 4 + 16 * beAt bytes 0 4 →
      rd s Reg.QUE_EN 0 c.part = 0 →
      quietMsgs s conn msn →
      ∃ t, exec (.noticeOp conn msn bytes) s = .next t ∧
        Counted s t Reg.QUE_NOTICE_LOST (beAt bytes 0 4) ∧
        lastRecord t conn = some { msn := msn, status := stOK, tag := 0, aux0 := 0, aux1 := 0 } ∧
        t.node.hq = s.node.hq ∧
        t.mem = s.mem) ∧
  (∀ (s : State) (conn msn q : Nat) (bytes : Bytes) (c : Conn), s.alive = true →
      MsgRuns s conn msn c →
      s.view.isDark = false →
      bytes.length = 20 ∧ beAt bytes 0 4 = 1 →
      rd s Reg.QUE_EN 0 c.part = 1 ∧ q = rd s Reg.QUE_QUEUE_10C 0 c.part →
      (s.view.queueOf q).state = .enabled ∧ (s.view.queueOf q).reserved < 2 ^ rd s Reg.QCFG_CQ_LOG2 q →
      quietMsgs s conn msn →
      ∃ t, exec (.noticeOp conn msn bytes) s = .next t ∧
        (t.view.queueOf q).unconsumed = (s.view.queueOf q).unconsumed + 1 ∧
        (t.view.queueOf q).cqProd = ((s.view.queueOf q).cqProd + 1) % 2 ^ rd s Reg.QCFG_CQ_LOG2 q ∧
        lastRecord t conn = some { msn := msn, status := stOK, tag := 0, aux0 := 0, aux1 := 0 }) ∧
  (∀ (s : State) (conn msn : Nat) (bytes m : Bytes) (c : Conn), s.alive = true →
      Canonical s →
      MsgRuns s conn msn c →
      c.part = 0 →
      m = swapFields noticeFields (bytes.take 64) →
      bytes.length = 64 ∧ fieldAt m 0xC 4 = 0 ∧ fieldAt m 0 1 = 1 ∧ fieldAt m 1 1 = 1 →
      quietMsgs s conn msn →
      ∃ t, exec (.strikeNotice conn msn bytes) s = .next t ∧
        Counted s t Reg.PART_NOTICES_RECEIVED ∧
        lastRecord t conn = some { msn := msn, status := stOK, tag := 0, aux0 := 0, aux1 := 0 } ∧
        (bitOf (fieldAt m 5 1) 1 = true → ∀ x ∈ t.node.mi.inStreams, ¬ (x.src = fieldAt m 2 2 ∧ x.part = fieldAt m 4 1)) ∧
        (bitOf (fieldAt m 5 1) 1 = false → t.node.mi = s.node.mi)) ∧
  (∀ (s : State) (conn msn id : Nat) (bytes m : Bytes) (c x : Conn), s.alive = true →
      MsgRuns s conn msn c →
      c.part = 0 →
      m = swapFields noticeFields (bytes.take 64) →
      bytes.length = 80 ∧ fieldAt m 0xC 4 = 1 ∧ fieldAt m 0 1 = 1 ∧ fieldAt m 1 1 = 1 →
      beAt bytes 72 1 = 1 ∧ id = beAt bytes 64 8 % 2 ^ 20 ∧ id ≠ conn →
      s.view.connOf id = some x ∧ x.peerNode = fieldAt m 2 2 ∧ x.state = .active →
      (∀ o ∈ s.node.tp.outMsgs, o.2.conn ≠ id) →
      quietMsgs s conn msn →
      ∃ t, exec (.strikeNotice conn msn bytes) s = .next t ∧
        lookupN id t.node.tp.conns = some { x with state := .broken, key := BitVec.ofNat 256 (Config.random s.node.fresh), prevKey := none, unacked := [], records := [], ackDue := false, ackWanted := false } ∧
        lastRecord t conn = some { msn := msn, status := stOK, tag := 0, aux0 := 0, aux1 := 0 }) ∧
  (∀ (s : State) (conn msn : Nat) (bytes head body : Bytes) (c : Conn), s.alive = true →
      bytes = head ++ body →
      MsgRuns s conn msn c →
      s.view.isDark = false →
      c.part = 0 ∧ s.view.mirSource c.peerNode = true ∧ rd s Reg.MIR_EN = 1 →
      s.node.mi.inStreams = [] ∧ s.node.mi.metaIn = [] ∧ s.node.mi.replies = [] →
      (s.view.inMsg conn msn).any (·.cmpr) = true →
      quietMsgs s conn msn →
      ∃ t, exec (.mirrorOp conn msn head body) s = .next t ∧
        t.node.mi = { s.node.mi with dataIn := s.node.mi.dataIn ++ [{ conn := conn, msn := msn, bytes := bytes }] } ∧
        (t.view.inMsg conn msn).map (·.acted) = some true ∧
        t.node.tp.conns = s.node.tp.conns ∧
        t.node.st = s.node.st ∧
        t.node.pg = s.node.pg ∧
        t.mem = s.mem) ∧
  (∀ (s : State) (conn msn : Nat) (bytes head body : Bytes) (c : Conn) (h : BatchHead), s.alive = true →
      bytes = head ++ body →
      MsgRuns s conn msn c →
      s.view.isDark = false →
      c.part = 0 ∧ s.view.mirSource c.peerNode = true ∧ rd s Reg.MIR_EN = 1 →
      BatchHead.read bytes = some h →
      h.flags = 0 ∧ h.seq = 0 ∧ h.msgs = 0 ∧ h.src = c.peerNode →
      (∀ r ∈ cutRecs true (bytes.length / 16) (bytes.drop 64), fieldAt r 0 1 ≠ 7) →
      s.view.live h.part = true →
      (∀ x ∈ s.view.inStream c.peerNode h.part, x.stopped = false ∧ x.gen < h.gen) →
      s.node.mi.metaIn = [] ∧ s.node.mi.replies = [] ∧ (∀ x ∈ s.node.mi.inStreams, x.pendingMeta = []) →
      (s.view.inMsg conn msn).any (·.cmpr) = false →
      quietMsgs s conn msn →
      ∃ t, exec (.mirrorOp conn msn head body) s = .next t ∧
        ((t.view.inStream c.peerNode h.part).map (fun x => (x.gen, x.nextSeq, x.stopped)) = some (h.gen, 1, false)) ∧
        (∃ r ∈ lastRecord t conn, r.msn = msn ∧ (r.status = stOK ∨ r.status = stMirror)))

/-- R278, R281, R283, R338, R343, R344, R346. -/
def Obligations.TheSchedulerFormsTheNextPacket : Prop :=
  (∀ (s : State) (d : Cand) (c : Conn) (k : Nat) (m : OutMsg) (w : Work), s.alive = true →
      Canonical s →
      rd s Reg.FAB_EN = 1 →
      nextPacket s = some d →
      w = s.view.placeWaiting ∧ w.connOf d.conn = some c →
      d.msg = some k ∧ lookupN k w.n.tp.outMsgs = some m →
      c.txPsn < 2 ^ 47 ∧ w.route c.peerNode ≠ 0 →
      ∃ t, exec .schedulerDecision s = .next t ∧
        (∃ x : Conn, lookupN d.conn t.node.tp.conns = some x ∧ x.txPsn = c.txPsn + 1 ∧
      ∃ y ∈ x.unacked.getLast?, y.psn = c.txPsn ∧ y.msn = m.msn ∧ y.resp = m.resp ∧ y.index = (d.again.map (·.1)).getD m.next ∧ y.overtaken = false ∧
      x = { c with txPsn := c.txPsn + 1, unacked := c.unacked ++ [y], lastUsed := w.n.tp.useSeq + 1 }) ∧
        ((lookupN k t.node.tp.outMsgs).map (fun y => (y.started, y.next)) = some (true, if d.again = none then m.next + 1 else m.next)) ∧
        Counted s t Reg.SCH_DECISIONS ∧
        Counted s t Reg.FAB_TX_PKTS ∧
        t.mem = s.mem) ∧
  (∀ (s : State) (d : Cand) (c : Conn) (w : Work), s.alive = true →
      Canonical s →
      rd s Reg.FAB_EN = 1 →
      nextPacket s = some d →
      w = s.view.placeWaiting ∧ w.connOf d.conn = some c →
      d.msg = none →
      ∃ t, exec .schedulerDecision s = .next t ∧
        lookupN d.conn t.node.tp.conns = some { c with txAckSeq := c.txAckSeq + 1, records := c.records.drop 250, ackDue := decide (250 < c.records.length), ackWanted := decide (250 < c.records.length), lastUsed := w.n.tp.useSeq + 1 } ∧
        t.node.tp.outMsgs = w.n.tp.outMsgs ∧
        Counted s t Reg.SCH_DECISIONS ∧
        t.mem = s.mem) ∧
  (∀ (s : State) (d : Cand) (c : Conn) (k : Nat) (m : OutMsg) (w : Work), s.alive = true →
      Canonical s →
      rd s Reg.FAB_EN = 1 →
      nextPacket s = some d →
      w = s.view.placeWaiting ∧ w.connOf d.conn = some c →
      d.msg = some k ∧ lookupN k w.n.tp.outMsgs = some m →
      c.txPsn < 2 ^ 47 ∧ w.route c.peerNode = 0 →
      (m.resp = true ∨ ∃ q e, m.purpose = .hostMsg q e) →
      ∃ t, exec .schedulerDecision s = .next t ∧
        lookupN k t.node.tp.outMsgs = none ∧
        t.node.tp.conns = w.n.tp.conns ∧
        (∀ q e : Nat, m.resp = false → m.purpose = .hostMsg q e → (t.view.queueOf q).entryOf e = none)) ∧
  (∀ (s : State) (wr : RegWr) (off inst code : Nat), s.alive = true →
      Canonical s →
      Lands s wr .SCH off inst code →
      wr.be ≠ 0 →
      (off = 0x11C ∨ off = 0x120 ∨ (off = 0x118 ∧ rd s Reg.SCH_SHAPE_EN 0 (s.view.sel wr.fn .SCH 0x118) = 0 ∧ (s.view.busWrite wr).w.get Reg.SCH_SHAPE_EN 0 code ≠ 0)) →
      ∃ t, exec (.shaperReconfigure wr) s = .next t ∧
        (lookupN code t.node.sc.shapers = some (if rd t Reg.SCH_RESET_FULL 0 code ≠ 0 then Bucket.full (rd t Reg.SCH_BURST 0 code) s.node.tk.upPs else { tokens := 0, frac := 0, asOf := s.node.tk.upPs })) ∧
        t.node.sc.meters = s.node.sc.meters ∧
        t.mem = s.mem) ∧
  (∀ (s : State) (wr : RegWr) (off inst i : Nat), s.alive = true →
      Canonical s →
      Lands s wr .POL off inst i →
      wr.be ≠ 0 →
      (off = 0x108 ∨ off = 0x10C ∨ off = 0x110 ∨ off = 0x114) →
      ∃ t, exec (.meterReconfigure wr) s = .next t ∧
        ((lookupN i t.node.sc.meters).map (fun m => (m.tc, m.tp)) = some (Bucket.full (rd t Reg.POL_CBS 0 i) s.node.tk.upPs, Bucket.full (rd t Reg.POL_PBS 0 i) s.node.tk.upPs)) ∧
        t.node.sc.shapers = s.node.sc.shapers ∧
        t.mem = s.mem)

/-- R309, R311 to R315, R331. -/
def Obligations.QueuesObeyTheirMailboxAndDoorbells : Prop :=
  (∀ (s : State) (wr : RegWr) (inst idx q seq fn : Nat), s.alive = true →
      Canonical s →
      Lands s wr .QUE 0x104 inst idx →
      fn = fnNum wr.fn →
      s.view.merged wr 0 fn Reg.QUE_OP = 1 →
      q = (s.view.busWrite wr).w.merged wr inst idx Reg.QUE_QUEUE_104 ∧ seq = (s.view.busWrite wr).w.merged wr inst idx Reg.QUE_SEQ_104 →
      rd s Reg.QUE_READY 0 fn ≠ 0 ∧ s.view.queuePart q = some fn →
      (s.view.queueOf q).state = .disabled ∧ s.view.live fn = true →
      rd s Reg.QCFG_SQ_LOG2 q ≤ rd s Reg.QCFG_CQ_LOG2 q →
      ∃ t, exec (.queueEnable wr) s = .next t ∧
        t.view.queueOf q = { state := .enabled, tail := 0, fetch := 0, cqHead := 0, cqProd := 0, unconsumed := 0, phase := true, count := 0, failCount := 0, lastHandle := (s.view.queueOf q).lastHandle, seq := 0, entries := [], recvs := [], unsignalled := 0, ending := none } ∧
        rd t Reg.QUE_READY 0 fn = 1 ∧ rd t Reg.QUE_STATUS 0 fn = stOK ∧ rd t Reg.QUE_SEQ_108 0 fn = seq % 2 ^ Reg.QUE_SEQ_108.width ∧
        t.mem = s.mem) ∧
  (∀ (s : State) (wr : RegWr) (inst idx q seq fn : Nat), s.alive = true →
      Canonical s →
      Lands s wr .QUE 0x104 inst idx →
      fn = fnNum wr.fn →
      s.view.merged wr 0 fn Reg.QUE_OP = 2 →
      q = (s.view.busWrite wr).w.merged wr inst idx Reg.QUE_QUEUE_104 ∧ seq = (s.view.busWrite wr).w.merged wr inst idx Reg.QUE_SEQ_104 →
      rd s Reg.QUE_READY 0 fn ≠ 0 ∧ s.view.queuePart q = some fn →
      (s.view.queueOf q).state = .enabled →
      ∃ t, exec (.queueDisable wr) s = .next t ∧
        (t.view.queueOf q = { s.view.queueOf q with state := .draining, ending := some (2, seq), entries := (s.view.queueOf q).entries.filter fun h => h.started }) ∧
        rd t Reg.QUE_READY 0 fn = 0 ∧
        t.mem = s.mem) ∧
  (∀ (s : State) (wr : RegWr) (inst idx q seq fn : Nat), s.alive = true →
      Canonical s →
      Lands s wr .QUE 0x104 inst idx →
      fn = fnNum wr.fn →
      s.view.merged wr 0 fn Reg.QUE_OP = 3 →
      q = (s.view.busWrite wr).w.merged wr inst idx Reg.QUE_QUEUE_104 ∧ seq = (s.view.busWrite wr).w.merged wr inst idx Reg.QUE_SEQ_104 →
      rd s Reg.QUE_READY 0 fn ≠ 0 ∧ s.view.queuePart q = some fn →
      ∃ t, exec (.queueReset wr) s = .next t ∧
        ((s.view.queueOf q).state ≠ .disabled → (t.view.queueOf q).state = .draining ∧ (t.view.queueOf q).recvs = [] ∧ (t.view.queueOf q).ending = some (3, seq) ∧
      ((t.view.queueOf q).entries.all fun h => h.started && h.suppressed) = true ∧ rd t Reg.QUE_READY 0 fn = 0) ∧
        ((s.view.queueOf q).state = .disabled → t.view.queueOf q = s.view.queueOf q ∧ rd t Reg.QUE_READY 0 fn = 1 ∧ rd t Reg.QUE_STATUS 0 fn = stOK) ∧
        t.mem = s.mem) ∧
  (∀ (s : State) (q op seq p : Nat), s.alive = true →
      Canonical s →
      (s.view.queueOf q).state = .draining ∧ (s.view.queueOf q).entries = [] ∧ (s.view.queueOf q).recvs = [] →
      (s.view.queueOf q).ending = some (op, seq) ∧ s.view.queuePart q = some p →
      ∃ t, exec (.queueDrained q) s = .next t ∧
        t.view.queueOf q = { s.view.queueOf q with state := .disabled, recvs := [], ending := none } ∧
        rd t Reg.QUE_READY 0 p = 1 ∧ rd t Reg.QUE_STATUS 0 p = stOK ∧ rd t Reg.QUE_SEQ_108 0 p = seq % 2 ^ Reg.QUE_SEQ_108.width ∧
        t.mem = s.mem) ∧
  (∀ (s : State) (fn : Fn) (q value size : Nat), s.alive = true →
      s.view.fnExists fn = true ∧ q < 4096 ∧ s.view.queuePart q = some (fnNum fn) →
      size = 2 ^ rd s Reg.QCFG_SQ_LOG2 q ∧ value < size ∧ value ≠ (s.view.queueOf q).tail →
      ((s.view.queueOf q).tail + size - (s.view.queueOf q).fetch) % size ≤ (value + size - (s.view.queueOf q).fetch) % size →
      ∃ t, exec (.sqTail fn q value) s = .next t ∧
        t.view.queueOf q = { s.view.queueOf q with tail := value } ∧
        (∀ k : Nat, k < 4096 → k ≠ q → lookupN k t.node.hq.queues = lookupN k s.node.hq.queues) ∧
        t.regs = s.regs ∧
        t.mem = s.mem) ∧
  (∀ (s : State) (fn : Fn) (q value size : Nat), s.alive = true →
      s.view.fnExists fn = true ∧ q < 4096 ∧ s.view.queuePart q = some (fnNum fn) →
      size = 2 ^ rd s Reg.QCFG_CQ_LOG2 q ∧ value < size ∧ value ≠ (s.view.queueOf q).cqHead →
      (value + size - (s.view.queueOf q).cqHead) % size ≤ (s.view.queueOf q).unconsumed →
      ∃ t, exec (.cqHead fn q value) s = .next t ∧
        (t.view.queueOf q).cqHead = value ∧
        (s.view.unstarted = 0 → t.view.queueOf q = { s.view.queueOf q with cqHead := value, unconsumed := (s.view.queueOf q).unconsumed - (value + size - (s.view.queueOf q).cqHead) % size } ∧ t.regs = s.regs ∧ t.mem = s.mem)) ∧
  (∀ (s : State) (fn : Fn) (q value : Nat), s.alive = true →
      Canonical s →
      s.view.fnExists fn = true ∧ q < 4096 ∧ s.view.queuePart q ≠ some (fnNum fn) →
      ∃ t, exec (.sqTail fn q value) s = .next t ∧
        Counted s t Reg.QUE_FOREIGN ∧
        t.node = s.node ∧
        t.mem = s.mem) ∧
  (∀ (s : State) (q : Nat), s.alive = true →
      rd s Reg.QCFG_IRQ_EN q ≠ 0 ∧ rd s Reg.QCFG_COAL_NS q ≠ 0 ∧ (s.view.queueOf q).unsignalled ≠ 0 →
      ∃ t, exec (.coalNsExpired q) s = .next t ∧
        t.view.queueOf q = { s.view.queueOf q with unsignalled := 0 } ∧
        t.regs = s.regs ∧
        t.mem = s.mem)

/-- R312, R318 to R325, R327. -/
def Obligations.HostEntriesAreFetchedAndAct : Prop :=
  (∀ (s : State) (q p : Nat) (b : Bytes), s.alive = true →
      Canonical s →
      s.view.queuePart q = some p →
      (s.view.queueOf q).state = .enabled ∧ (s.view.queueOf q).fetch ≠ (s.view.queueOf q).tail →
      s.node.bo.busMaster = true ∧ s.view.startedEntries < rd s Reg.QUE_MAX_STARTED →
      b.length = 64 →
      s.view.entryFault p b (HEntry.read b 0 0 0 0) = 0 →
      ∃ t, exec (.sqEntryFetched q (some b)) s = .next t ∧
        (t.view.queueOf q).fetch = ((s.view.queueOf q).fetch + 1) % 2 ^ rd s Reg.QCFG_SQ_LOG2 q ∧
        (t.view.queueOf q).seq = ((s.view.queueOf q).seq + 1) % 2 ^ 32 ∧
        (∃ h ∈ (t.view.queueOf q).entries, h.sqIndex = (s.view.queueOf q).fetch ∧ h.opcode = fieldAt b 0 1 ∧ h.tag = fieldAt b 4 4 ∧ h.payAddr = fieldAt b 0x10 8 ∧ h.resAddr = fieldAt b 0x20 8 ∧ h.fail = 0 ∧ h.arrived = false) ∧
        Counted s t Reg.QUE_FETCHED) ∧
  (∀ (s : State) (q p : Nat), s.alive = true →
      Canonical s →
      s.view.queuePart q = some p →
      (s.view.queueOf q).state = .enabled ∧ (s.view.queueOf q).fetch ≠ (s.view.queueOf q).tail →
      s.node.bo.busMaster = true ∧ s.view.startedEntries < rd s Reg.QUE_MAX_STARTED →
      ∃ t, exec (.sqEntryFetched q none) s = .next t ∧
        t.view.queueOf q = { s.view.queueOf q with state := .error } ∧
        Counted s t Reg.PCI_UE_CNT) ∧
  (∀ (s : State) (q e : Nat) (h : HEntry), s.alive = true →
      Canonical s →
      (s.view.queueOf q).entryOf e = some h →
      h.started = false ∧ h.waitTicks ≠ 0 ∧ h.waitTicks < ticksTo h.fetchTick s.node.tk.now →
      (s.view.queueOf q).reserved < 2 ^ rd s Reg.QCFG_CQ_LOG2 q →
      ∃ t, exec (.waitTicksExpired q e) s = .next t ∧
        (t.view.queueOf q).entryOf e = none ∧
        Counted s t Reg.QUE_WAIT_EXPIRED) ∧
  (∀ (s : State) (i c : Instr) (q e p at_ : Nat) (payload : Option Bytes) (h : HEntry) (b : Bytes), s.alive = true →
      EntryRuns s q e h.opcode p h →
      (bitOf h.sflags 2 = true ∨ h.payLen = 0) →
      b = h.subst (s.view.bytes h.payAddr h.payLen) →
      ((h.opcode = 1 ∧ i = .hostSession q e payload) ∨ (h.opcode = 2 ∧ i = .hostAttend q e payload at_ ∧ ResultFits s p h b) ∨ (h.opcode = 3 ∧ i = .hostAppend q e payload at_) ∨ (h.opcode = 4 ∧ i = .hostConn q e payload) ∨ (h.opcode = 5 ∧ i = .hostRegion q e payload)) →
      hostCommand h q e b at_ = some c →
      ∃ t, exec i s = .next t ∧
        exec c s = .next t) ∧
  (∀ (s : State) (q e p at_ : Nat) (payload : Option Bytes) (h : HEntry) (b : Bytes), s.alive = true →
      EntryRuns s q e 2 p h →
      PayloadIs s h payload b →
      ResultFits s p h b →
      ∃ t, exec (.hostAttend q e payload at_) s = .next t ∧
        t = s.close ((payloadRead s p h).attend (.queue q e) p b (s.view.sheetOffNs + (at_ : Rat) / 1000))) ∧
  (∀ (s : State) (q e p at_ : Nat) (payload : Option Bytes) (h : HEntry) (b : Bytes), s.alive = true →
      EntryRuns s q e 3 p h →
      PayloadIs s h payload b →
      ∃ t, exec (.hostAppend q e payload at_) s = .next t ∧
        t = s.close ((payloadRead s p h).takeAppend (.queue q e) p b at_)) ∧
  (∀ (s : State) (q e p : Nat) (payload : Option Bytes) (h : HEntry) (b : Bytes), s.alive = true →
      EntryRuns s q e 1 p h →
      PayloadIs s h payload b →
      ∃ t, exec (.hostSession q e payload) s = .next t ∧
        (fieldAt b 0 1 = 1 → t = s.close ((payloadRead s p h).openOp (.queue q e) b)) ∧
        (fieldAt b 0 1 = 2 → t = s.close ((payloadRead s p h).forkOp (.queue q e) b)) ∧
        (fieldAt b 0 1 = 3 → t = s.close ((payloadRead s p h).closeOp (.queue q e) b)) ∧
        (∀ k ∈ [PfxKind.match_, .publish, .retract, .pin, .unpin], fieldAt b 0 1 = k.op → t = s.close ((payloadRead s p h).prefixRequest k (.queue q e) b))) ∧
  (∀ (s : State) (q e p : Nat) (payload : Option Bytes) (h : HEntry) (b : Bytes), s.alive = true →
      EntryRuns s q e 4 p h →
      PayloadIs s h payload b →
      ∃ t, exec (.hostConn q e payload) s = .next t ∧
        (fieldAt b 0 1 = 1 → t = s.close ((payloadRead s p h).installOp (.queue q e) b)) ∧
        (fieldAt b 0 1 = 2 → t = s.close ((payloadRead s p h).rekeyOp (.queue q e) b)) ∧
        (fieldAt b 0 1 = 3 → t = s.close ((payloadRead s p h).removeOp (.queue q e) b)) ∧
        (fieldAt b 0 1 = 0 ∨ 3 < fieldAt b 0 1 → (t.view.queueOf q).entryOf e = none)) ∧
  (∀ (s : State) (q e p : Nat) (payload : Option Bytes) (h : HEntry) (b : Bytes), s.alive = true →
      EntryRuns s q e 5 p h →
      PayloadIs s h payload b →
      ∃ t, exec (.hostRegion q e payload) s = .next t ∧
        (fieldAt b 0 1 = 0x10 → t = s.close ((payloadRead s p h).createOp (.queue q e) b)) ∧
        (fieldAt b 0 1 = 0x11 → t = s.close ((payloadRead s p h).regionDrain (.queue q e) p b false)) ∧
        (fieldAt b 0 1 = 0x12 → t = s.close ((payloadRead s p h).regionDrain (.queue q e) p b true))) ∧
  (∀ (s : State) (q e p : Nat) (payload : Option Bytes) (h : HEntry) (b : Bytes) (c : Conn), s.alive = true →
      EntryRuns s q e 6 p h →
      PayloadIs s h payload b →
      s.view.connOf h.conn = some c →
      c.part = p ∧ c.state = .active ∧ s.view.route c.peerNode ≠ 0 →
      (h.msgOp = 2 → fieldAt b 0 4 ≤ h.resLen) →
      (bitOf h.sflags 2 = false → b.length ≤ s.view.rxFree) →
      ∃ t, exec (.hostMsg q e payload) s = .next t ∧
        (∃ x ∈ t.node.tp.outMsgs.getLast?, x.1 = s.node.tp.nextOut ∧ x.2.conn = h.conn ∧ x.2.op = h.msgOp ∧ x.2.target = h.target ∧
      x.2.msn = c.txMsn % 2 ^ 24 ∧ x.2.payload = msgWire h.msgOp h.target b ∧ x.2.purpose = Purpose.hostMsg q e ∧
      x.2.extent = (if bitOf h.sflags 2 then 0 else b.length)) ∧
        t.node.tp.outMsgs.dropLast = s.node.tp.outMsgs ∧
        lookupN h.conn t.node.tp.conns = some { c with txMsn := c.txMsn + 1, fetching := c.fetching || !c.hot } ∧
        ((t.view.queueOf q).entryOf e).map (·.arrived) = some true ∧
        t.mem = s.mem) ∧
  (∀ (s : State) (q e p : Nat) (payload : Option Bytes) (h : HEntry) (b : Bytes), s.alive = true →
      Canonical s →
      EntryRuns s q e 7 p h →
      PayloadIs s h payload b →
      h.suppressed = false →
      ((payloadRead s p h).chargePool b.length).isSome = true →
      ∃ t, exec (.hostCopy q e payload) s = .next t ∧
        t.node.qa.budget.poolUsed = s.node.qa.budget.poolUsed + b.length ∧
        (t.view.queueOf q).entryOf e = none ∧
        (bitOf h.sflags 3 = true → ∀ i : Nat, i < b.length → h.resAddr + i < 2 ^ 64 → byteAt t (h.resAddr + i) = atD b i 0) ∧
        (bitOf h.sflags 3 = true → ∀ a : Nat, a < 2 ^ 64 → (a < h.resAddr ∨ h.resAddr + b.length ≤ a) → byteAt t a = byteAt s a) ∧
        (bitOf h.sflags 3 = false → ∀ a : Nat, a < 2 ^ 64 → byteAt t a = byteAt s a)) ∧
  (∀ (s : State) (q e p : Nat) (h : HEntry), s.alive = true →
      EntryRuns s q e 8 p h →
      (bitOf h.sflags 2 = true ∨ h.payLen = 0) →
      (s.view.queueOf q).recvs.length < 256 ∧ h.suppressed = false →
      ∃ t, exec (.hostRecv q e) s = .next t ∧
        h ∈ (t.view.queueOf q).recvs ∧
        (t.view.queueOf q).entryOf e = none) ∧
  (∀ (s : State) (q e p : Nat) (h : HEntry), s.alive = true →
      EntryRuns s q e 9 p h →
      (bitOf h.sflags 2 = true ∨ h.payLen = 0) →
      h.suppressed = false →
      ∃ t, exec (.hostNop q e) s = .next t ∧
        (t.view.queueOf q).entryOf e = none ∧
        (t.view.queueOf q).count = ((s.view.queueOf q).count + 1) % 2 ^ 32 ∧
        (t.view.queueOf q).lastHandle = (s.view.queueOf q).lastHandle)

/-- R310. -/
def Obligations.TheBar4WindowReadsAndWritesMemory : Prop :=
  (∀ (s : State) (fn : Fn) (off len a : Nat), s.alive = true →
      s.view.fnExists fn = true ∧ off + len ≤ 2 ^ 30 →
      a = s.view.bar4Addr fn off →
      ((fn = .pf ∧ inHbm a = true ∧ inHbm (a + len - 1) = true) ∨ (s.view.live (fnNum fn) = true ∧ fn ≠ .pf ∧ s.view.inAllotment (fnNum fn) a len = true)) →
      a % stackBytes + len ≤ slotFrames * 4096 →
      (s.view.exportCheck a len).1 = true →
      exec (.bar4Read fn off len false) s = .next { s with node := { s.node with
        out := s.node.out ++ [.barData (fnNum fn) (some (s.view.bytes a len))], ks.lendable := s.node.ks.lendable - len } }) ∧
  (∀ (s : State) (off len a : Nat), s.alive = true →
      off + len ≤ 2 ^ 30 →
      a = s.view.bar4Addr .pf off →
      inHbm a = true ∧ inHbm (a + len - 1) = true →
      (s.view.exportCheck a len).1 = false →
      ∃ t, exec (.bar4Read .pf off len false) s = .next t ∧
        t.node.out.getLast? = some (.barData 0 none)) ∧
  (∀ (s : State) (off len a : Nat), s.alive = true →
      off + len ≤ 2 ^ 30 →
      a = s.view.bar4Addr .pf off →
      inHbm a = true ∧ inHbm (a + len - 1) = true →
      slotFrames * 4096 < a % stackBytes + len ∧ a + len ≤ ringBase →
      (s.view.exportCheck a len).1 = true →
      ∃ t, exec (.bar4Read .pf off len false) s = .next t ∧
        (∃ b : Bytes, t.node.out = s.node.out ++ [.barData 0 (some b)] ∧ b.length = len ∧ ∀ i : Nat, i < len → ∀ v ∈ s.view.sysByte (a + i), b[i]? = some v) ∧
        t.regs = s.regs ∧
        t.mem = s.mem) ∧
  (∀ (s : State) (off len : Nat), s.alive = true →
      off + len ≤ 2 ^ 30 →
      inHbm (s.view.bar4Addr .pf off) = true ∧ inHbm (s.view.bar4Addr .pf off + len - 1) = true →
      exec (.bar4Read .pf off len true) s = .next { s with node := { s.node with out := s.node.out ++ [.barData 0 none], ks.lendable := s.node.ks.lendable - len } }) ∧
  (∀ (s : State) (p off len : Nat) (u : Bool), s.alive = true →
      Canonical s →
      s.view.fnExists (.vf p) = true ∧ off + len ≤ 2 ^ 30 →
      s.view.live p = false →
      ∃ t, exec (.bar4Read (.vf p) off len u) s = .next t ∧
        t.node.out.getLast? = some (.barData p (some (List.replicate len 0))) ∧
        Counted s t Reg.PCI_BAR4_REFUSED) ∧
  (∀ (s : State) (fn : Fn) (off : Nat) (bytes : Bytes), s.alive = true →
      s.view.fnExists fn = true ∧ off + bytes.length ≤ 2 ^ 30 →
      s.view.live (fnNum fn) = true ∧ s.view.inAllotment (fnNum fn) (s.view.bar4Addr fn off) bytes.length = true →
      exec (.bar4Write fn off bytes) s = .next { s with mem := Mem.putAll s.mem (s.view.bar4Addr fn off) bytes, node.ks.lendable := s.node.ks.lendable - bytes.length }) ∧
  (∀ (s : State) (fn : Fn) (off : Nat) (bytes : Bytes), s.alive = true →
      Canonical s →
      s.view.fnExists fn = true ∧ off + bytes.length ≤ 2 ^ 30 →
      ¬ (s.view.live (fnNum fn) = true ∧ s.view.inAllotment (fnNum fn) (s.view.bar4Addr fn off) bytes.length = true) →
      ∃ t, exec (.bar4Write fn off bytes) s = .next t ∧
        Counted s t Reg.PCI_BAR4_REFUSED ∧
        (∀ a : Nat, outsideRing a → byteAt t a = byteAt s a))

/-- R354 to R359, R478. -/
def Obligations.PartitionsAreCreatedAndKeyed : Prop :=
  (∀ (s : State) (wr : RegWr) (inst idx p seq top : Nat) (v : Work), s.alive = true →
      Canonical s →
      Lands s wr .PART 0x104 inst idx →
      v = (s.view.busWrite wr).w →
      s.view.merged wr 0 0 Reg.PART_OP = 1 →
      p = v.merged wr inst idx Reg.PART_PART ∧ seq = v.merged wr inst idx Reg.PART_SEQ_104 →
      (if p = 0 then ((s.view.secPart 0).map (·.created)).getD false = false else s.view.partState p = 0) →
      (p ≠ 0 → ∀ q : Nat, q < rd s Reg.QUE_COUNT 0 p → s.view.queueIdle (rd s Reg.QUE_BASE 0 p + q) = true) →
      v.quotasFit p (rd s Reg.PP_HBM_QUOTA p) (rd s Reg.PP_DDR_QUOTA p) (rd s Reg.PP_HOST_QUOTA p) = true →
      1 ≤ rd s Reg.PP_ALLOT_MIB p ∧ rd s Reg.PP_ALLOT_MIB p ≤ 1024 ∧ s.view.servingStacks.contains (rd s Reg.PP_ALLOT_STACK p) = true →
      v.allotRun (rd s Reg.PP_ALLOT_STACK p) (rd s Reg.PP_ALLOT_MIB p) = some top ∧ v.sharesOk p = true →
      ∃ t, exec (.partCreate wr) s = .next t ∧
        (p ≠ 0 → rd t Reg.PP_STATE p = 1) ∧
        (∃ x ∈ t.view.secPart p, x.state = PState.live ∧ x.created = true ∧ x.createTick = BitVec.ofNat 32 s.view.now32 ∧ x.key = (if p = 0 then (s.view.secPart 0).bind (·.key) else none) ∧ x.allotTop = some top ∧ x.allotLen = rd s Reg.PP_ALLOT_MIB p * 2 ^ 22) ∧
        rd t Reg.PP_ALLOT_BASE_LO p = frameAddr top % 2 ^ 32 ∧ (rd t Reg.PP_KEY_SET p = if p = 0 then rd s Reg.PP_KEY_SET p else 0) ∧
        rd t Reg.PART_STATUS = stOK ∧ rd t Reg.PART_READY = 1 ∧ rd t Reg.PART_SEQ_108 = seq % 2 ^ Reg.PART_SEQ_108.width ∧
        (∃ m ∈ t.node.mt.meters, m.part = p ∧ m.cnt = List.replicate 16 0 ∧ m.number = 0 ∧ m.from_ = s.node.tk.now) ∧
        t.node.tp = s.node.tp ∧
        t.node.pg = s.node.pg) ∧
  (∀ (s : State) (wr : RegWr) (inst idx p seq : Nat) (v : Work) (fkek : BitVec 256), s.alive = true →
      Canonical s →
      Lands s wr .PART 0x104 inst idx →
      v = (s.view.busWrite wr).w →
      s.view.merged wr 0 0 Reg.PART_OP = 3 →
      p = v.merged wr inst idx Reg.PART_PART ∧ seq = v.merged wr inst idx Reg.PART_SEQ_104 →
      s.view.live p = true ∧ s.node.se.fkek = some fkek →
      ∃ t, exec (.installKey wr) s = .next t ∧
        (∀ key ∈ Sys2Proof.Crypto.keyUnwrap fkek (v.words wrapFlds p), (t.view.secPart p).map (·.key) = some (some key) ∧ rd t Reg.PP_KEY_SET p = 1 ∧ rd t Reg.PART_STATUS = stOK) ∧
        (Sys2Proof.Crypto.keyUnwrap fkek (v.words wrapFlds p) = none → rd t Reg.PART_STATUS = stAuthFail ∧ Counted s t Reg.SEC_UNWRAP_FAIL ∧ t.node.se = s.node.se) ∧
        (∀ f ∈ wrapFlds, rd t f p = 0) ∧
        rd t Reg.PART_READY = 1)

/-- R357, R360, R363, R364. -/
def Obligations.AStrikeFencesDrainsScrubsAndPublishes : Prop :=
  (∀ (s : State) (wr : RegWr) (inst idx p seq : Nat) (v : Work), s.alive = true →
      Canonical s →
      Lands s wr .PART 0x104 inst idx →
      v = (s.view.busWrite wr).w →
      s.view.merged wr 0 0 Reg.PART_OP = 2 →
      p = v.merged wr inst idx Reg.PART_PART ∧ seq = v.merged wr inst idx Reg.PART_SEQ_104 →
      p ≠ 0 ∧ s.view.live p = true →
      ∃ t, exec (.partStrike wr) s = .next t ∧
        rd t Reg.PP_STATE p = 2 ∧
        t.node.se.strikeCount = s.node.se.strikeCount + 1 ∧
        (∃ x ∈ t.view.secPart p, x.state = PState.striking ∧ (x.strike.map fun r => (r.strikeId, r.fence, r.keysAt)) = some (s.node.se.strikeCount + 1, s.node.tk.now, none)) ∧
        (∀ i : Nat, ∀ x ∈ t.view.session i, x.part = p → x.state = SessState.struck) ∧
        rd t Reg.PART_STATUS = stOK ∧ rd t Reg.PART_READY = 1 ∧ rd t Reg.PART_SEQ_108 = seq % 2 ^ Reg.PART_SEQ_108.width) ∧
  (∀ (s : State) (p : Nat) (r : StrikeRun), s.alive = true →
      Canonical s →
      (s.view.secPart p).bind (·.strike) = some r →
      rd s Reg.PP_STATE p = 2 ∧ p ≠ 0 →
      (ticksTo r.fence s.node.tk.now ≠ 0 ∧ (s.view.openTransfers p = 0 ∨ 64 ≤ ticksTo r.fence s.node.tk.now)) →
      ∃ t, exec (.strikeDrainEnd p) s = .next t ∧
        rd t Reg.PP_STATE p = 3 ∧
        (t.view.secPart p).map (·.key) = some none ∧
        (((t.view.secPart p).bind (·.strike)).map (fun x => (x.keysAt, x.suppressed, x.cut)) = some (some s.node.tk.now, s.view.openTransfers p, decide (s.view.openTransfers p ≠ 0))) ∧
        (∀ i : Nat, ∀ x ∈ lookupN i t.node.tp.conns, x.part = p → x.unacked = [] ∧ x.records = [] ∧ x.prevKey = none)) ∧
  (∀ (s : State) (p : Nat) (q : Part) (r : StrikeRun), s.alive = true →
      Canonical s →
      s.view.secPart p = some q ∧ q.strike = some r →
      rd s Reg.PP_STATE p = 3 ∧ p ≠ 0 ∧ r.scrubEnd = none →
      s.view.scrubbed p = true →
      ∃ t, exec (.scrubComplete p) s = .next t ∧
        (∀ e ∈ t.node.st.courses, e.2.part ≠ p) ∧
        (t.view.secPart p).map (·.allotTop) = some none ∧
        (t.view.secPart p).bind (·.strike) = some { r with scrubEnd := some s.node.tk.now } ∧
        rd t Reg.PP_STATE p = 3 ∧
        t.node.st = s.node.st ∧
        t.mem = s.mem) ∧
  (∀ (s : State) (p : Nat), s.alive = true →
      s.view.scrubbed p = false →
      exec (.scrubComplete p) s = .next s) ∧
  (∀ (w : Work) (p : Nat),
      (∀ e ∈ (w.scrubChip p).n.tp.conns, e.2.part ≠ p) ∧
        (∀ e ∈ (w.scrubChip p).n.tp.regions, e.2.part ≠ p)) ∧
  (∀ (w : Work) (p ci f : Nat) (c : Course),
      w.course ci = some c ∧ c.loc = .hbm f →
      w.n.st.retiredFrames = [] →
      (w.scrubCourse p ci).course ci = none ∧
        (∀ a : Nat, frameAddr f ≤ a → a < frameAddr f + w.courseFrames c * 4096 → (w.scrubCourse p ci).byte a = 0)) ∧
  (∀ (s : State) (p : Nat) (r : StrikeRun), s.alive = true →
      Canonical s →
      (s.view.secPart p).bind (·.strike) = some r →
      rd s Reg.PP_STATE p = 3 ∧ p ≠ 0 ∧ r.scrubEnd ≠ none →
      (r.noticesOpen = [] ∨ 64 ≤ ticksTo (r.keysAt.getD s.node.tk.now) s.node.tk.now) →
      ∃ t, exec (.strikePublish p) s = .next t ∧
        rd t Reg.PP_STATE p = 0 ∧
        (∃ x ∈ t.view.secPart p, x.state = PState.free ∧ x.created = false ∧ x.strike = none ∧ x.key = none ∧ x.record.take 1 = [BitVec.ofNat 8 p] ∧ fieldAt x.record 4 4 = r.strikeId % 2 ^ 32 ∧ fieldAt x.record 8 8 = r.fence.toNat) ∧
        rd t Reg.PP_HBM_QUOTA p = rd s Reg.PP_HBM_QUOTA p ∧ rd t Reg.PP_DDR_QUOTA p = rd s Reg.PP_DDR_QUOTA p ∧ rd t Reg.PP_HOST_QUOTA p = rd s Reg.PP_HOST_QUOTA p)

/-- R359, R367, R368, R370. -/
def Obligations.KeysCountersAndReportsOfTheNode : Prop :=
  (∀ (s : State) (wr : RegWr) (inst idx : Nat) (v : Work), s.alive = true →
      Canonical s →
      Lands s wr .SEC 0x12C inst idx →
      v = (s.view.busWrite wr).w →
      wr.be ≠ 0 →
      ∃ t, exec (.fkekWrite wr) s = .next t ∧
        t.node.se.fkek = some (BitVec.ofNat 256 (leVal (v.words fkekFlds))) ∧
        rd t Reg.SEC_FKEK_SET = 1 ∧
        (∀ f ∈ fkekFlds, rd t f = 0) ∧
        t.node.tp = s.node.tp) ∧
  (∀ (s : State) (wr : RegWr) (inst idx off : Nat), s.alive = true →
      Canonical s →
      off ∈ [0x110, 0x114, 0x118, 0x11C, 0x120, 0x124, 0x128] →
      Lands s wr .SEC off inst idx →
      ∃ t, exec (.fkekWrite wr) s = .next t ∧
        t.node = s.node ∧
        t.mem = s.mem ∧
        (∀ f ∈ fkekFlds, f.off = off → rd t f = s.view.merged wr 0 0 f) ∧
        (∀ f ∈ fkekFlds, f.off ≠ off → rd t f = rd s f)) ∧
  (∀ (s : State) (wr : RegWr) (inst idx : Nat), s.alive = true →
      Canonical s →
      Lands s wr .SEC 0x104 inst idx →
      wrote1 wr Reg.SEC_FKEK_LOCK = true →
      ∃ t, exec (.fkekLock wr) s = .next t ∧
        rd t Reg.SEC_FKEK_LOCK = 1 ∧
        t.node.se = s.node.se) ∧
  (∀ (s : State) (wr : RegWr) (inst idx : Nat), s.alive = true →
      Canonical s →
      Lands s wr .SEC 0x104 inst idx →
      wrote1 wr Reg.SEC_SVN_COMMIT = true →
      ∃ t, exec (.svnCommit wr) s = .next t ∧
        t.svnFuse = max s.svnFuse (rd s Reg.SEC_SVN_IMAGE) ∧
        t.node.se = s.node.se) ∧
  (∀ (s : State) (wr : RegWr) (inst idx : Nat) (v : Work), s.alive = true →
      Canonical s →
      Lands s wr .ATT 0x108 inst idx →
      v = (s.view.busWrite wr).w →
      wrote1 wr Reg.ATT_EXT_GO = true →
      ∃ t, exec (.extGo wr) s = .next t ∧
        (t.node.se = { s.node.se with meas := s.node.se.meas.modify (6 + rd t Reg.ATT_EXT_SLOT) fun m => Sys2Proof.Crypto.sha3v (Sys2Proof.Crypto.bytes32 m ++ Sys2Proof.Crypto.bytes32 (BitVec.ofNat 256 (leVal (v.words extFlds)))) }) ∧
        t.mem = s.mem) ∧
  (∀ (s : State) (wr : RegWr) (inst idx addr : Nat), s.alive = true →
      Canonical s →
      Lands s wr .ATT 0x188 inst idx →
      wrote1 wr Reg.ATT_GO = true →
      s.view.attRunning = false →
      addr = rd s Reg.ATT_ADDR_LO + rd s Reg.ATT_ADDR_HI * 2 ^ 32 →
      s.view.inAllotment 0 addr 7028 = true →
      ∃ t, exec (.attGo wr) s = .next t ∧
        (∃ r ∈ t.node.se.attBusy, r.fn = .pf ∧ r.addr = addr ∧ r.nonce = s.view.words attNonce ∧ r.part = rd t Reg.ATT_PART ∧ (r.cert = true ↔ rd t Reg.ATT_CERT ≠ 0) ∧ (r.scope1 = true ↔ rd t Reg.ATT_SCOPE ≠ 0)) ∧
        rd t Reg.ATT_READY = 0 ∧ rd t Reg.ATT_FAIL = 0 ∧
        t.mem = s.mem) ∧
  (∀ (s : State) (wr : RegWr) (p idx addr : Nat), s.alive = true →
      Canonical s →
      Lands s wr .PP 0x198 p idx →
      wrote1 wr Reg.PP_ATT_GO = true →
      s.view.attRunning = false →
      addr = rd s Reg.PP_ATT_ADDR_LO p + rd s Reg.PP_ATT_ADDR_HI p * 2 ^ 32 →
      s.view.inAllotment p addr 3764 = true →
      ∃ t, exec (.attGo wr) s = .next t ∧
        (∃ r ∈ t.node.se.attBusy, r.fn = .vf p ∧ r.addr = addr ∧ r.nonce = s.view.words ppNonce p ∧ r.part = p ∧ r.scope1 = true) ∧
        rd t Reg.PP_ATT_READY p = 0 ∧ rd t Reg.PP_ATT_FAIL p = 0 ∧
        t.mem = s.mem) ∧
  (∀ (s : State) (r : AttReq), s.alive = true →
      Canonical s →
      s.node.se.attBusy = some r →
      r.cert = false →
      ∃ t, exec .attestReportWritten s = .next t ∧
        (∃ b : Bytes, t.mem = Mem.putAll s.mem r.addr b ∧ b.length = 512 + 64 * (if r.scope1 then 1 else 64) + 2420 ∧ fieldAt b 0 4 = 0x52415A4B ∧
      sliceAt b 0x10 32 = (r.nonce ++ List.replicate 32 0).take 32 ∧ fieldAt b 0x30 8 = s.node.tk.now.toNat) ∧
        t.node.se.attBusy = none ∧
        (r.fn = .pf → rd t Reg.ATT_READY = 1 ∧ rd t Reg.ATT_GEN = (rd s Reg.ATT_GEN + 1) % 2 ^ Reg.ATT_GEN.width) ∧
        (∀ p : Nat, r.fn = .vf p → rd t Reg.PP_ATT_READY p = 1 ∧ rd t Reg.PP_ATT_GEN p = (rd s Reg.PP_ATT_GEN p + 1) % 2 ^ Reg.PP_ATT_GEN.width))

/-- R452, R464, R466 to R468, R471. -/
def Obligations.StatusKeysAndIdentityOrders : Prop :=
  (∀ (s : State) (f : Frame) (r : MgReq), s.alive = true →
      Canonical s →
      requestOf s f 1 Reg.MG_R = some r →
      r.body = [] →
      ∃ t, exec (.statusOrder f) s = .next t ∧
        (orderWork s r).statusBlock.length = 64 ∧
        fieldAt (orderWork s r).statusBlock 0xC 2 = rd s Reg.GLB_NODE_ID % 2 ^ 16 ∧
        Answered s t r stOK (orderWork s r).statusBlock ∧
        t.mem = s.mem ∧
        t.node.bo = s.node.bo) ∧
  (∀ (s : State) (f : Frame) (r : MgReq), s.alive = true →
      Canonical s →
      requestOf s f 2 Reg.MG_W = some r →
      s.node.mt.key = none ∧ r.body.length = 32 →
      ∃ t, exec (.setMk f) s = .next t ∧
        t.node.mt.key = some (BitVec.ofNat 256 (leVal r.body)) ∧
        rd t Reg.MG_MK_EPOCH 0 = rd s Reg.MG_MK_EPOCH 0 % 2 ^ 16 ∧ rd t Reg.MG_MK_EPOCH 1 = rd t Reg.MG_MK_EPOCH 0 ∧
        rd t Reg.MG_MK_KCV_LO = leVal (Sys2Proof.Crypto.kcv (BitVec.ofNat 256 (leVal r.body))) % 2 ^ 32 ∧
        rd t Reg.MG_MK_KCV_HI = leVal (Sys2Proof.Crypto.kcv (BitVec.ofNat 256 (leVal r.body))) / 2 ^ 32 % 2 ^ 32 ∧
        Answered s t r stOK []) ∧
  (∀ (s : State) (f : Frame) (r : MgReq) (mk : BitVec 256), s.alive = true →
      Canonical s →
      requestOf s f 2 Reg.MG_W = some r →
      s.node.mt.key = some mk ∧ r.body.length = 40 →
      ∃ t, exec (.setMk f) s = .next t ∧
        (∀ k ∈ Sys2Proof.Crypto.keyUnwrap mk r.body, t.node.mt.key = some k ∧ rd t Reg.MG_MK_EPOCH 0 = (rd s Reg.MG_MK_EPOCH 0 + 1) % 2 ^ 16 ∧ rd t Reg.MG_MK_EPOCH 1 = rd t Reg.MG_MK_EPOCH 0 ∧ Answered s t r stOK []) ∧
        (Sys2Proof.Crypto.keyUnwrap mk r.body = none → t.node.mt.key = some mk ∧ rd t Reg.MG_MK_EPOCH 0 = rd s Reg.MG_MK_EPOCH 0 ∧ Answered s t r stInternal [])) ∧
  (∀ (s : State) (wr : RegWr) (inst idx : Nat) (v : Work), s.alive = true →
      Canonical s →
      Lands s wr .MG 0x19C inst idx →
      v = (s.view.busWrite wr).w →
      wr.be ≠ 0 →
      ∃ t, exec (.mkWrite wr) s = .next t ∧
        t.node.mt = { s.node.mt with key := some (BitVec.ofNat 256 (leVal (v.words mkFlds))) } ∧
        rd t Reg.MG_MK_EPOCH 0 = (rd s Reg.MG_MK_EPOCH 0 + 1) % 2 ^ 16 ∧ rd t Reg.MG_MK_EPOCH 1 = rd t Reg.MG_MK_EPOCH 0 ∧
        (∀ x ∈ mkFlds, rd t x = 0)) ∧
  (∀ (s : State) (wr : RegWr) (inst idx off : Nat), s.alive = true →
      Canonical s →
      off ∈ [0x180, 0x184, 0x188, 0x18C, 0x190, 0x194, 0x198] →
      Lands s wr .MG off inst idx →
      ∃ t, exec (.mkWrite wr) s = .next t ∧
        t.node = s.node ∧
        t.mem = s.mem ∧
        (∀ x ∈ mkFlds, x.off = off → rd t x = s.view.merged wr 0 0 x) ∧
        (∀ x ∈ mkFlds, x.off ≠ off → rd t x = rd s x)) ∧
  (∀ (s : State) (f : Frame) (r : MgReq), s.alive = true →
      Canonical s →
      requestOf s f 3 Reg.MG_W = some r →
      r.body.length = 7 ∧ fieldAt r.body 6 1 ≤ 1 ∧ rd s Reg.GLB_IDS_LOCKED = 0 ∧ fieldAt r.body 0 2 ≠ 0xFFFF →
      ∃ t, exec (.setIds f) s = .next t ∧
        rd t Reg.GLB_NODE_ID = fieldAt r.body 0 2 ∧ rd t Reg.GLB_FABRIC_ID = fieldAt r.body 2 4 ∧
        rd t Reg.GLB_IDS_LOCKED = fieldAt r.body 6 1 ∧
        reply (fieldAt r.body 0 2) s.node.tk.now r stOK [] ∈ t.node.out ∧
        (fieldAt r.body 6 1 = 0 → t.node.lk = s.node.lk ∧ t.mem = s.mem)) ∧
  (∀ (s : State) (f : Frame) (r : MgReq), s.alive = true →
      Canonical s →
      requestOf s f 3 Reg.MG_W = some r →
      r.body.length = 7 ∧ fieldAt r.body 6 1 ≤ 1 →
      (rd s Reg.GLB_IDS_LOCKED ≠ 0 ∨ fieldAt r.body 0 2 = 0xFFFF) →
      ∃ t, exec (.setIds f) s = .next t ∧
        rd t Reg.GLB_NODE_ID = rd s Reg.GLB_NODE_ID ∧ rd t Reg.GLB_FABRIC_ID = rd s Reg.GLB_FABRIC_ID ∧ rd t Reg.GLB_IDS_LOCKED = rd s Reg.GLB_IDS_LOCKED ∧
        Answered s t r stInternal [] ∧
        (rd s Reg.GLB_IDS_LOCKED = 0 → Counted s t Reg.BLK_ERR_CNT))

/-- R395, R397, R399, R415, R416, R471. -/
def Obligations.BudgetLeaseAndFenceOrders : Prop :=
  (∀ (s : State) (f : Frame) (r : MgReq) (b : PowerBudget), s.alive = true →
      Canonical s →
      requestOf s f 0x10 Reg.MG_B = some r →
      b = PowerBudget.read r.body →
      b.ok = true ∧ 1 ≤ ticksTo s.node.tk.now (BitVec.ofNat 48 b.valid) ∧ ticksTo s.node.tk.now (BitVec.ofNat 48 b.valid) ≤ 2 ^ 32 →
      (s.node.pw.anyBudget = true → 1 ≤ (b.seq + 2 ^ 32 - rd s Reg.PWR_SEQ) % 2 ^ 32 ∧ (b.seq + 2 ^ 32 - rd s Reg.PWR_SEQ) % 2 ^ 32 < 2 ^ 31) →
      ∃ t, exec (.budgetOrder f) s = .next t ∧
        rd t Reg.PWR_SEQ = b.seq ∧ rd t Reg.PWR_CAP_W = b.capW ∧ rd t Reg.PWR_VALID = 1 ∧
        rd t Reg.PWR_VALID_LO + 2 ^ 32 * rd t Reg.PWR_VALID_HI = b.valid ∧
        t.node.pw.ramp = b.ramp ∧ t.node.pw.anyBudget = true ∧ t.node.pw.expired = false ∧
        Counted s t Reg.PWR_BUDGETS ∧
        Answered s t r stOK (leBytes 4 (rd t Reg.PWR_EFF_W + rd t Reg.PWR_A_P * 2 ^ 16)) ∧
        t.node.mi = s.node.mi) ∧
  (∀ (s : State) (f : Frame) (r : MgReq) (b : PowerBudget), s.alive = true →
      Canonical s →
      requestOf s f 0x10 Reg.MG_B = some r →
      b = PowerBudget.read r.body →
      (b.ok = false ∨ ticksTo s.node.tk.now (BitVec.ofNat 48 b.valid) = 0 ∨ 2 ^ 32 < ticksTo s.node.tk.now (BitVec.ofNat 48 b.valid)) →
      ∃ t, exec (.budgetOrder f) s = .next t ∧
        t.node.pw = s.node.pw ∧
        Counted s t Reg.PWR_REFUSED ∧
        Answered s t r stInternal (leBytes 4 (rd s Reg.PWR_EFF_W + rd s Reg.PWR_A_P * 2 ^ 16)) ∧
        rd t Reg.PWR_SEQ = rd s Reg.PWR_SEQ ∧ rd t Reg.PWR_CAP_W = rd s Reg.PWR_CAP_W ∧ rd t Reg.PWR_VALID = rd s Reg.PWR_VALID) ∧
  (∀ (s : State) (f : Frame) (r : MgReq) (b : PowerBudget), s.alive = true →
      Canonical s →
      requestOf s f 0x10 Reg.MG_B = some r →
      b = PowerBudget.read r.body →
      b.ok = true ∧ 1 ≤ ticksTo s.node.tk.now (BitVec.ofNat 48 b.valid) ∧ ticksTo s.node.tk.now (BitVec.ofNat 48 b.valid) ≤ 2 ^ 32 →
      s.node.pw.anyBudget = true ∧ ¬ (1 ≤ (b.seq + 2 ^ 32 - rd s Reg.PWR_SEQ) % 2 ^ 32 ∧ (b.seq + 2 ^ 32 - rd s Reg.PWR_SEQ) % 2 ^ 32 < 2 ^ 31) →
      ∃ t, exec (.budgetOrder f) s = .next t ∧
        t.node.pw = s.node.pw ∧
        Counted s t Reg.PWR_REFUSED ∧
        Answered s t r stStale (leBytes 4 (rd s Reg.PWR_EFF_W + rd s Reg.PWR_A_P * 2 ^ 16))) ∧
  (∀ (s : State) (f : Frame) (r : MgReq) (epoch ms : Nat), s.alive = true →
      Canonical s →
      requestOf s f 0x11 Reg.MG_C = some r →
      r.body.length = 6 ∧ epoch = fieldAt r.body 0 4 ∧ ms = fieldAt r.body 4 2 ∧ 100 ≤ ms ∧ ms ≤ 5000 →
      rd s Reg.MIR_FE ≤ epoch →
      ∃ t, exec (.leaseOrder f) s = .next t ∧
        rd t Reg.MIR_VALID = 1 ∧ rd t Reg.MIR_LEN_MS = ms ∧ rd t Reg.MIR_FE = epoch ∧
        t.node.mi.leaseEndPs = some (s.node.tk.upPs + ms * 1000000000) ∧
        (rd s Reg.MIR_FE < epoch → t.node.mi.fenceOrdered = false ∧ t.node.mi.fenced = false) ∧
        (rd s Reg.MIR_FE = epoch → t.node.mi.fenceOrdered = s.node.mi.fenceOrdered ∧ t.node.mi.fenced = s.node.mi.fenced) ∧
        (rd s Reg.MIR_FE = epoch → s.node.mi.fenced = true → rd t Reg.GLB_NODE_STATE = rd s Reg.GLB_NODE_STATE) ∧
        Answered s t r stOK (leBytes 4 epoch ++ leBytes 2 ms)) ∧
  (∀ (s : State) (f : Frame) (r : MgReq) (epoch ms : Nat), s.alive = true →
      Canonical s →
      requestOf s f 0x11 Reg.MG_C = some r →
      r.body.length = 6 ∧ epoch = fieldAt r.body 0 4 ∧ ms = fieldAt r.body 4 2 ∧ 100 ≤ ms ∧ ms ≤ 5000 →
      epoch < rd s Reg.MIR_FE →
      ∃ t, exec (.leaseOrder f) s = .next t ∧
        t.node.mi = s.node.mi ∧
        t.node.bo = s.node.bo ∧
        rd t Reg.MIR_FE = rd s Reg.MIR_FE ∧ rd t Reg.MIR_VALID = rd s Reg.MIR_VALID ∧
        Counted s t Reg.MIR_LEASE_IGNORED ∧
        Answered s t r stStale (leBytes 4 (rd s Reg.MIR_FE) ++ leBytes 2 s.view.leaseLeft)) ∧
  (∀ (s : State) (f : Frame) (r : MgReq), s.alive = true →
      Canonical s →
      requestOf s f 0x12 Reg.MG_C = some r →
      r.body = [] →
      ∃ t, exec (.fenceOrder f) s = .next t ∧
        rd t Reg.GLB_NODE_STATE = 0 ∧
        t.node.mi.fenced = true ∧ t.node.mi.fenceOrdered = true ∧
        (t.node.bo.promoteAt = none ∨ rd s Reg.GLB_NODE_STATE = 0) ∧
        Answered s t r stOK [] ∧
        rd t Reg.MIR_FE = rd s Reg.MIR_FE) ∧
  (∀ (s : State) (f : Frame) (r : MgReq) (node epoch : Nat), s.alive = true →
      Canonical s →
      requestOf s f 0x13 Reg.MG_C = some r →
      r.body.length = 6 ∧ node = fieldAt r.body 0 2 ∧ epoch = fieldAt r.body 2 4 →
      ∃ t, exec (.fenceMinOrder f) s = .next t ∧
        (rd t Reg.MIR_FENCE_MIN 0 node = if epoch < rd s Reg.MIR_FENCE_MIN 0 node then rd s Reg.MIR_FENCE_MIN 0 node else epoch) ∧
        (Answered s t r (if epoch < rd s Reg.MIR_FENCE_MIN 0 node then stStale else stOK) []) ∧
        (∀ other : Nat, other ≠ node → other < 2 ^ 16 → rd t Reg.MIR_FENCE_MIN 0 other = rd s Reg.MIR_FENCE_MIN 0 other) ∧
        t.node.mi = s.node.mi ∧
        t.node.pg = s.node.pg)

/-- R399 to R401, R405, R444, R464, R470. -/
def Obligations.TakeoverOrphanAndResetOrders : Prop :=
  (∀ (s : State) (f : Frame) (r : MgReq) (node : Nat), s.alive = true →
      Canonical s →
      requestOf s f 0x14 Reg.MG_C = some r →
      r.body.length = 6 ∧ node = fieldAt r.body 0 2 ∧ fieldAt r.body 2 4 ≤ rd s Reg.MIR_FENCE_MIN 0 node →
      ∃ t, exec (.takeoverOrder f) s = .next t ∧
        Answered s t r stOK [] ∧
        (∀ x ∈ t.node.mi.inStreams, x.src = node → x.stopped = true ∧ x.pendingMeta = []) ∧
        (∀ x ∈ s.node.mi.inStreams, x.src = node → x.stopped = false → ∀ y ∈ x.slices, ∃ h ∈ t.node.mi.homeOps, h.op = HomeOp.takeover node ∧ h.part = x.part ∧ h.cid = y.cid) ∧
        t.node.pg = s.node.pg) ∧
  (∀ (s : State) (f : Frame) (r : MgReq) (node : Nat), s.alive = true →
      Canonical s →
      requestOf s f 0x14 Reg.MG_C = some r →
      r.body.length = 6 ∧ node = fieldAt r.body 0 2 ∧ rd s Reg.MIR_FENCE_MIN 0 node < fieldAt r.body 2 4 →
      ∃ t, exec (.takeoverOrder f) s = .next t ∧
        Answered s t r stStale [] ∧
        t.node.mi = s.node.mi ∧ t.node.tp = s.node.tp ∧ t.node.pg = s.node.pg) ∧
  (∀ (s : State) (f : Frame) (r : MgReq), s.alive = true →
      Canonical s →
      requestOf s f 0x15 Reg.MG_C = some r →
      r.body = [] →
      ∃ t, exec (.reconcileOrder f) s = .next t ∧
        Answered s t r stOK [] ∧
        (∀ e ∈ t.node.pg.sessions, s.view.mirrored e.2.part = true → e.2.own ≠ OwnState.own) ∧
        (∀ e ∈ s.node.pg.sessions, s.view.mirrored e.2.part = true → e.1 ∈ t.node.mi.recon) ∧
        t.node.st = s.node.st) ∧
  (∀ (s : State) (f : Frame) (r : MgReq) (p si : Nat) (cid : DWord) (se : Session), s.alive = true →
      Canonical s →
      requestOf s f 0x16 Reg.MG_C = some r →
      r.body.length = 9 ∧ p = fieldAt r.body 0 1 ∧ cid.toNat = fieldAt r.body 1 8 →
      ((s.node.pg.sessions.find? fun e => e.2.part = p && e.2.cid = cid && e.2.orphan) = some (si, se) ∧ s.view.session si = some se) →
      s.view.mirrored p = true ∧ se.state = .open ∧ se.own ≠ .claiming →
      (s.view.homeRun si).any (fun h => h.op = .reconcile) = false →
      ∃ t, exec (.adoptOrder f) s = .next t ∧
        Answered s t r stOK [] ∧
        t.view.session si = some { se with own := .unconfirmed, orphan := false } ∧
        (∃ h ∈ t.node.mi.homeOps, h.op = HomeOp.reconcile ∧ h.session = si ∧ h.part = p ∧ h.cid = cid)) ∧
  (∀ (s : State) (f : Frame) (r : MgReq) (p : Nat) (cid : DWord), s.alive = true →
      Canonical s →
      requestOf s f 0x16 Reg.MG_C = some r →
      r.body.length = 9 ∧ p = fieldAt r.body 0 1 ∧ cid.toNat = fieldAt r.body 1 8 →
      (∀ e ∈ s.node.pg.sessions, e.2.part = p → e.2.cid = cid → e.2.orphan = false) →
      ∃ t, exec (.adoptOrder f) s = .next t ∧
        Answered s t r stInternal [] ∧
        t.node.pg = s.node.pg ∧ t.node.mi = s.node.mi) ∧
  (∀ (s : State) (f : Frame) (r : MgReq) (p si : Nat) (cid : DWord) (se : Session), s.alive = true →
      Canonical s →
      requestOf s f 0x17 Reg.MG_C = some r →
      r.body.length = 9 ∧ p = fieldAt r.body 0 1 ∧ cid.toNat = fieldAt r.body 1 8 →
      ((s.node.pg.sessions.find? fun e => e.2.part = p && e.2.cid = cid) = some (si, se) ∧ s.view.session si = some se) →
      ∃ t, exec (.discardOrder f) s = .next t ∧
        Answered s t r stOK [] ∧
        t.view.session si = none ∧
        (∀ h ∈ t.node.mi.homeOps, h.session ≠ si) ∧
        lookupN si t.node.pg.gens = some ((se.gen + 1) % 2 ^ 14) ∧
        t.node.mi.inStreams = s.node.mi.inStreams) ∧
  (∀ (s : State) (f : Frame) (r : MgReq) (p : Nat) (cid : DWord), s.alive = true →
      Canonical s →
      requestOf s f 0x17 Reg.MG_C = some r →
      r.body.length = 9 ∧ p = fieldAt r.body 0 1 ∧ cid.toNat = fieldAt r.body 1 8 →
      (∀ e ∈ s.node.pg.sessions, e.2.part = p → e.2.cid ≠ cid) →
      (∃ x ∈ s.node.mi.inStreams, x.part = p ∧ ∃ y ∈ x.slices ++ x.oldSlices, y.cid = cid) →
      ∃ t, exec (.discardOrder f) s = .next t ∧
        Answered s t r stOK [] ∧
        (∀ x ∈ t.node.mi.inStreams, x.part = p → ∀ y ∈ x.slices ++ x.oldSlices, y.cid ≠ cid) ∧
        t.node.pg = s.node.pg) ∧
  (∀ (s : State) (f : Frame) (r : MgReq) (p : Nat) (cid : DWord), s.alive = true →
      Canonical s →
      requestOf s f 0x17 Reg.MG_C = some r →
      r.body.length = 9 ∧ p = fieldAt r.body 0 1 ∧ cid.toNat = fieldAt r.body 1 8 →
      (∀ e ∈ s.node.pg.sessions, e.2.part = p → e.2.cid ≠ cid) →
      (∀ x ∈ s.node.mi.inStreams, x.part = p → ∀ y ∈ x.slices ++ x.oldSlices, y.cid ≠ cid) →
      ∃ t, exec (.discardOrder f) s = .next t ∧
        Answered s t r stInternal [] ∧
        t.node.pg = s.node.pg ∧ t.node.mi = s.node.mi) ∧
  (∀ (s : State) (f : Frame) (r : MgReq), s.alive = true →
      Canonical s →
      requestOf s f 0x18 Reg.MG_C = some r →
      r.body = leBytes 2 0xB007 →
      ∃ t, exec (.resetOrder f) s = .next t ∧
        Answered s t r stOK [] ∧
        t.node = { resetNode s with out := t.node.out } ∧
        t.mem = s.mem.afterReset ∧ t.svnFuse = s.svnFuse ∧
        rd t Reg.GLB_WARM_MGMT = 1 ∧ rd t Reg.GLB_POWER_ON = 0 ∧ rd t Reg.GLB_NODE_STATE = 0 ∧
        rd t Reg.GLB_WARM_COUNT = min (rd s Reg.GLB_WARM_COUNT % 256 + 1) 255) ∧
  (∀ (s : State) (f : Frame) (r : MgReq), s.alive = true →
      Canonical s →
      requestOf s f 0x18 Reg.MG_C = some r →
      r.body ≠ leBytes 2 0xB007 →
      ∃ t, exec (.resetOrder f) s = .next t ∧
        Answered s t r stInternal [] ∧
        t.mem = s.mem ∧ t.node.bo = s.node.bo ∧ t.node.st = s.node.st)

/-- R370, R401, R412, R436, R470, R472, R473, R482. -/
def Obligations.ManagementReads : Prop :=
  (∀ (s : State) (f : Frame) (r : MgReq) (o : Nat), s.alive = true →
      Canonical s →
      requestOf s f 0x20 Reg.MG_R = some r →
      r.body = leBytes 4 1 ++ leBytes 4 o ∧ o % 4 = 0 ∧ o < 2 ^ 32 →
      ∃ t, exec (.readReg f) s = .next t ∧
        Answered s t r stOK (leBytes 4 ((orderWork s r).busRead .pf o).1) ∧
        t.node.st = s.node.st ∧ t.node.pg = s.node.pg ∧ t.node.tp = s.node.tp ∧
        t.mem = s.mem) ∧
  (∀ (s : State) (f : Frame) (r : MgReq) (offs : List Nat), s.alive = true →
      Canonical s →
      requestOf s f 0x20 Reg.MG_R = some r →
      (r.body = leBytes 4 offs.length ++ (offs.map (leBytes 4)).flatten ∧ (∀ o ∈ offs, o < 2 ^ 32) ∧ 1 ≤ offs.length ∧ offs.length ≤ 256) →
      (∃ o ∈ offs, o % 4 ≠ 0) →
      ∃ t, exec (.readReg f) s = .next t ∧
        Answered s t r stInternal [] ∧
        t.mem = s.mem) ∧
  (∀ (s : State) (f : Frame) (r : MgReq), s.alive = true →
      Canonical s →
      requestOf s f 0x21 Reg.MG_R = some r →
      r.body.length = 35 ∧ fieldAt r.body 32 1 ≤ 1 ∧ fieldAt r.body 33 1 ≤ 63 ∧ fieldAt r.body 34 1 ≤ 1 →
      s.view.attRunning = false ∧ r.offset = 0 →
      (∀ k ∈ s.node.mt.reports, k.port = r.port → k.nonce ≠ r.body.take 32) →
      ∃ t, exec (.attestOrder f) s = .next t ∧
        (∃ k ∈ t.node.mt.reports, k.port = r.port ∧ k.nonce = r.body.take 32 ∧ k.part = fieldAt r.body 33 1 ∧ (k.scope1 = true ↔ fieldAt r.body 32 1 = 1) ∧ (k.cert = true ↔ fieldAt r.body 34 1 = 1) ∧ k.bytes = none) ∧
        t.view.attRunning = true ∧
        t.mem = s.mem) ∧
  (∀ (s : State) (f : Frame) (r : MgReq), s.alive = true →
      Canonical s →
      requestOf s f 0x21 Reg.MG_R = some r →
      r.body.length = 35 ∧ fieldAt r.body 32 1 ≤ 1 ∧ fieldAt r.body 33 1 ≤ 63 ∧ fieldAt r.body 34 1 ≤ 1 →
      s.view.attRunning = true →
      ∃ t, exec (.attestOrder f) s = .next t ∧
        Answered s t r stOverBudget [] ∧
        t.node.mt.reports = s.node.mt.reports) ∧
  (∀ (s : State) (f : Frame) (r : MgReq) (k : KeptReport) (b : Bytes), s.alive = true →
      Canonical s →
      requestOf s f 0x21 Reg.MG_R = some r →
      r.body.length = 35 ∧ fieldAt r.body 32 1 ≤ 1 ∧ fieldAt r.body 33 1 ≤ 63 ∧ fieldAt r.body 34 1 ≤ 1 →
      s.view.attRunning = false →
      ((s.node.mt.reports.find? fun k => k.port = r.port) = some k ∧ k.bytes = some b ∧ (r.offset ≠ 0 ∨ k.nonce = r.body.take 32)) →
      ∃ t, exec (.attestOrder f) s = .next t ∧
        Answered s t r stOK (leBytes 4 b.length ++ (b.drop r.offset).take 1408) ∧
        t.node.mt.reports = s.node.mt.reports) ∧
  (∀ (s : State) (f : Frame) (r : MgReq), s.alive = true →
      Canonical s →
      requestOf s f 0x22 Reg.MG_R = some r →
      r.body = [] ∧ r.offset + 1024 ≤ 65536 →
      ∃ t, exec (.calRead f) s = .next t ∧
        Answered s t r stOK (s.view.bytes (flashKey (calFlash + r.offset)) 1024) ∧
        t.mem = s.mem) ∧
  (∀ (s : State) (f : Frame) (r : MgReq) (seq : Nat) (e : LogEntry), s.alive = true →
      Canonical s →
      requestOf s f 0x23 Reg.MG_R = some r →
      r.body = leBytes 4 seq ++ [1] ∧ seq < 2 ^ 32 ∧ (s.node.log.find? fun e => e.seq = s.view.bookSeq seq) = some e →
      ∃ t, exec (.logRead f) s = .next t ∧
        Answered s t r stOK (leBytes 4 seq ++ e.bytes) ∧
        t.node.log = s.node.log ∧ t.mem = s.mem) ∧
  (∀ (s : State) (f : Frame) (r : MgReq) (m : Meter16) (b : Bytes), s.alive = true →
      Canonical s →
      requestOf s f 0x24 Reg.MG_R = some r →
      (r.body.length = 5 ∧ (s.node.mt.meters.find? fun m => m.part = fieldAt r.body 0 1) = some m) →
      ((((m.kept ++ m.final.toList).map (·.2)).find? fun b => fieldAt b 8 4 = fieldAt r.body 1 4) = some b) →
      ∃ t, exec (.usageOrder f) s = .next t ∧
        Answered s t r stOK ((b.drop r.offset).take 1408) ∧
        t.node.mt.meters = s.node.mt.meters ∧ t.mem = s.mem) ∧
  (∀ (s : State) (f : Frame) (r : MgReq), s.alive = true →
      Canonical s →
      requestOf s f 0x25 Reg.MG_R = some r →
      r.body = [] →
      ∃ t, exec (.takenListOrder f) s = .next t ∧
        Answered s t r stOK ((s.node.mi.takenList.drop r.offset).take 1408) ∧
        t.node.mi = s.node.mi ∧ t.mem = s.mem)

/-- R366, R448, R471, R474, R475. -/
def Obligations.ChunkedWritesFillTheFlash : Prop :=
  (∀ (s : State) (f : Frame) (r : MgReq) (image : Nat), s.alive = true →
      Canonical s →
      requestOf s f 0x30 Reg.MG_W = some r →
      image = fieldAt r.body 0 1 ∧ image ≤ 1 ∧ 2 ≤ r.body.length ∧ r.body.length ≤ 1025 ∧ r.offset + r.body.length - 1 ≤ 0x02100000 →
      ¬ (s.node.bo.running = some image ∧ (1 - image) ∈ s.node.bo.imgFailed) →
      bitOf r.flags 2 = false →
      ((s.node.mt.stream = none ∧ r.offset = 0) ∨ ∃ x ∈ s.node.mt.stream, s.node.tk.upPs < x.last + 10000000000000 ∧ x.port = r.port ∧ x.mac = r.mac ∧ x.image = image ∧ x.next = r.offset) →
      ∃ t, exec (.imageWrite f) s = .next t ∧
        t.mem = Mem.putAll s.mem (flashKey (imageFlash image + r.offset)) (r.body.drop 1) ∧
        (∃ x ∈ t.node.mt.stream, x.port = r.port ∧ x.mac = r.mac ∧ x.image = image ∧ x.next = r.offset + r.body.length - 1 ∧ x.last = s.node.tk.upPs) ∧
        Answered s t r stOK [] ∧
        t.node.bo = s.node.bo) ∧
  (∀ (s : State) (f : Frame) (r : MgReq) (image : Nat), s.alive = true →
      Canonical s →
      requestOf s f 0x30 Reg.MG_W = some r →
      image = fieldAt r.body 0 1 ∧ image ≤ 1 ∧ 2 ≤ r.body.length ∧ r.body.length ≤ 1025 ∧ r.offset + r.body.length - 1 ≤ 0x02100000 →
      ¬ (s.node.bo.running = some image ∧ (1 - image) ∈ s.node.bo.imgFailed) →
      bitOf r.flags 2 = true ∧ s.node.bo.recovery = false →
      ((s.node.mt.stream = none ∧ r.offset = 0) ∨ ∃ x ∈ s.node.mt.stream, s.node.tk.upPs < x.last + 10000000000000 ∧ x.port = r.port ∧ x.mac = r.mac ∧ x.image = image ∧ x.next = r.offset) →
      ∃ t, exec (.imageWrite f) s = .next t ∧
        t.node.mt.stream = none ∧
        (Answered s t r (if ((orderWork s r).store (flashKey (imageFlash image + r.offset)) (r.body.drop 1)).imageFails image = none then stOK else stInternal) []) ∧
        (∀ i : Nat, i < r.body.length - 1 → byteAt t (flashKey (imageFlash image + r.offset) + i) = Sys2Proof.Crypto.at0 r.body (i + 1))) ∧
  (∀ (s : State) (f : Frame) (r : MgReq) (image : Nat) (x : ChunkStream), s.alive = true →
      Canonical s →
      requestOf s f 0x30 Reg.MG_W = some r →
      image = fieldAt r.body 0 1 ∧ image ≤ 1 ∧ 2 ≤ r.body.length ∧ r.body.length ≤ 1025 ∧ r.offset + r.body.length - 1 ≤ 0x02100000 →
      ¬ (s.node.bo.running = some image ∧ (1 - image) ∈ s.node.bo.imgFailed) →
      s.node.mt.stream = some x ∧ s.node.tk.upPs < x.last + 10000000000000 ∧ ¬ (x.port = r.port ∧ x.mac = r.mac ∧ x.image = image ∧ x.next = r.offset) →
      ∃ t, exec (.imageWrite f) s = .next t ∧
        Answered s t r stOverBudget [] ∧
        t.mem = s.mem ∧ t.node.mt.stream = s.node.mt.stream) ∧
  (∀ (s : State) (x : ChunkStream), s.alive = true →
      s.node.mt.stream = some x →
      x.last + 10000000000000 ≤ s.node.tk.upPs + s.view.periodPs →
      exec .imageStreamIdle s = .next { s with node := { s.node with mt := { s.node.mt with stream := none } } }) ∧
  (∀ (s : State) (f : Frame) (r : MgReq), s.alive = true →
      Canonical s →
      requestOf s f 0x31 Reg.MG_W = some r →
      r.body ≠ [] ∧ r.body.length ≤ 1024 ∧ r.offset = 0 ∧ s.node.mt.stream = none →
      ∃ t, exec (.debugToken f) s = .next t ∧
        Answered s t r stOK [] ∧
        (bitOf r.flags 2 = false → t.mem = s.mem ∧ ∃ x ∈ t.node.mt.stream, x.image = 2 ∧ x.token = r.body ∧ x.next = r.body.length ∧ x.port = r.port ∧ x.mac = r.mac) ∧
        (bitOf r.flags 2 = true → t.mem = Mem.putAll (s.mem.clear (flashKey tokenFlash) 4096) (flashKey tokenFlash) r.body ∧ t.node.mt.stream = none)) ∧
  (∀ (s : State) (f : Frame) (r : MgReq), s.alive = true →
      Canonical s →
      requestOf s f 0x32 Reg.MG_W = some r →
      r.body = [] →
      ∃ t, exec (.debugClear f) s = .next t ∧
        Answered s t r stOK [] ∧
        t.mem = s.mem.clear (flashKey tokenFlash) 4096 ∧
        t.node.mt.stream = s.node.mt.stream)

/-- R416, R418, R421 to R425, R428 to R430. -/
def Obligations.PowerEstimatesMoveTheAllowances : Prop :=
  (∀ (s : State) (c0 c1 : List Nat) (temps : List Int), s.alive = true →
      Canonical s →
      rd s Reg.GLB_FW_RUNNING ≠ 0 ∧ temps.length = 32 →
      rd s Reg.PWR_A_P ≤ 1024 ∧ rd s Reg.THM_C_T ≤ 1024 ∧ rd s Reg.THM_C_H ≤ 1024 →
      ∃ t, exec (.powerEstimate c0 c1 temps) s = .next t ∧
        t.node.pw.temps = s.view.trimTemps temps ++ s.node.pw.temps.drop 32 ∧
        (t.node.pw.dyn = s.node.pw.gain * s.view.dynamicPower (fun d i => if d = 0 then atD c0 i 0 else atD c1 i 0)) ∧
        t.node.pw.stat = s.node.pw.gain * t.view.staticPower ∧
        t.node.pw.est = t.node.pw.dyn + t.node.pw.stat ∧ t.node.pw.window = s.node.pw.window ++ [t.node.pw.est] ∧
        rd t Reg.PWR_EST = min (floorNat (t.node.pw.est * 4)) 8191 ∧
        t.node.pw.nextEst = s.view.estAt + 2000000 ∧ t.node.pw.gain = s.node.pw.gain ∧
        rd t Reg.PWR_DECIDED ≠ 0 ∧
        (rd s Reg.PWR_EMERG_EN = 0 → rd s Reg.PWR_DECIDED = 0 → rd t Reg.PWR_A_NEXT = min (max t.view.targetAllow (rd s Reg.PWR_A_P - (s.view.settle estimateFields).slopeNow)) (rd s Reg.PWR_A_P + (s.view.settle estimateFields).slopeNow)) ∧
        (rd s Reg.PWR_EMERG_EN = 0 → rd t Reg.PWR_A_P = rd s Reg.PWR_A_P) ∧
        (rd s Reg.PWR_EMERG_EN ≠ 0 → s.view.capInUse * (1000 + rd s Reg.PWR_OVER) / 1000 < t.node.pw.est → rd t Reg.PWR_A_P = rd s Reg.PWR_A_P - 4 * (s.view.settle estimateFields).slopeNow ∧ Counted s t Reg.PWR_EMERG) ∧
        ((∃ x ∈ s.view.trimTemps temps, 840 ≤ x) → rd t Reg.THM_CRITICAL = 1 ∧ rd t Reg.THM_C_T = rd s Reg.THM_C_T - 4 * rd s Reg.THM_STEP ∧ rd t Reg.THM_C_H = rd s Reg.THM_C_H - 4 * rd s Reg.THM_STEP) ∧
        ((∀ x ∈ s.view.trimTemps temps, x < 840) → rd t Reg.THM_CRITICAL = 0 ∧ rd t Reg.THM_C_T = rd s Reg.THM_C_T ∧ rd t Reg.THM_C_H = rd s Reg.THM_C_H) ∧
        t.node.st = s.node.st ∧ t.node.tp = s.node.tp) ∧
  (∀ (s : State) (temps : List Int), s.alive = true →
      Canonical s →
      temps.length = 8 →
      ∃ t, exec (.hbmTempRead temps) s = .next t ∧
        t.node.pw.temps = s.node.pw.temps.take 32 ++ temps ∧
        (∀ i : Nat, i < 8 → rd t Reg.THM_TEMP 0 (32 + i) = toField 12 (atD temps i 0)) ∧
        rd t Reg.THM_MAX_HBM = toField 8 (hottest temps / 8) ∧
        t.mem = s.mem) ∧
  (∀ (s : State) (x : DroopSense), s.alive = true →
      x.die < 2 ∧ x.sensor < 16 ∧ atD s.node.pw.tripped x.die false = false →
      (x.mv : Int) < s.view.droopAt x.die x.sensor →
      exec (.droopTrip x) s = .next { s with node := { s.node with out := s.node.out ++ [.stretch x.die true], pw := { s.node.pw with
        tripped := s.node.pw.tripped.set x.die true, tripNew := s.node.pw.tripNew.set x.die true, tripSpent := s.node.pw.tripSpent.set x.die 0 } } }) ∧
  (∀ (s : State) (x : DroopSense), s.alive = true →
      (atD s.node.pw.tripped x.die false = true ∨ s.view.droopAt x.die x.sensor ≤ (x.mv : Int)) →
      exec (.droopTrip x) s = .next s) ∧
  (∀ (s : State) (die cycles : Nat), s.alive = true →
      Canonical s →
      die < 2 ∧ atD s.node.pw.tripped die false = true ∧ 64 ≤ cycles ∧ die < s.node.pw.stretched.length →
      ∃ t, exec (.droopRelease die cycles) s = .next t ∧
        atD t.node.pw.tripped die false = false ∧
        atD t.node.pw.stretched die 0 = atD s.node.pw.stretched die 0 + (cycles - atD s.node.pw.tripSpent die 0) ∧
        (Counted s t (if die = 0 then Reg.PWR_STRETCH0 else Reg.PWR_STRETCH1) cycles) ∧
        t.node.out = s.node.out ++ [.stretch die false]) ∧
  (∀ (s : State), s.alive = true →
      Canonical s →
      rd s Reg.PWR_VALID ≠ 0 ∧ Tick.earlier s.view.validTick s.node.tk.now = true →
      ∃ t, exec .budgetExpired s = .next t ∧
        rd t Reg.PWR_VALID = 0 ∧ t.node.pw.expired = true ∧
        Counted s t Reg.PWR_EXPIRED ∧
        rd t Reg.PWR_SEQ = rd s Reg.PWR_SEQ ∧ rd t Reg.PWR_CAP_W = rd s Reg.PWR_CAP_W ∧
        bitOf (rd t Reg.BLK_ISR 2) 16 = true)

/-- R419, R427, R434, R435, R437, R439. -/
def Obligations.TrimsMarginsAndCalibrationAreTaken : Prop :=
  (∀ (s : State) (rs : List PmbReading) (listed : List Nat) (total mean : Rat), s.alive = true →
      Canonical s →
      rd s Reg.GLB_FW_RUNNING ≠ 0 ∧ rd s Reg.PWR_TRIM_EN ≠ 0 →
      (listed = (List.range 16).filter (fun e => s.view.flag Reg.MG_PMB_PRESENT 0 e) ∧ listed ≠ []) →
      (∀ e ∈ listed, (pmbOf rs e).isSome = true) →
      (total = listed.foldl (fun t e => t + ((pmbOf rs e).getD 0 : Rat) * s.view.telCorr e) 0) →
      mean = s.node.pw.window.foldl (· + ·) 0 / (s.node.pw.window.length : Rat) ∧ 0 < mean →
      ∃ t, exec (.telemetryTrim rs) s = .next t ∧
        t.node.pw.gain = min (5 / 4) (max (3 / 4) (s.node.pw.gain * (1 + (total / 4 / mean - 1) / 4))) ∧
        t.node.pw.trimFails = 0 ∧ t.node.pw.window = [] ∧
        rd t Reg.PWR_TEL = min (floorNat total) 8191 ∧
        Counted s t Reg.MG_PMB_FAIL (listed.filter fun e => ((rs.find? fun r => r.entry = e).bind (·.volts)).isNone).length ∧
        rd t Reg.PWR_GAIN = floorNat (t.node.pw.gain * 16384) % 2 ^ 16) ∧
  (∀ (s : State) (rs : List PmbReading) (e : Nat), s.alive = true →
      Canonical s →
      rd s Reg.GLB_FW_RUNNING ≠ 0 →
      e < 16 ∧ s.view.flag Reg.MG_PMB_PRESENT 0 e = true ∧ pmbOf rs e = none →
      ∃ t, exec (.telemetryTrim rs) s = .next t ∧
        t.node.pw.gain = s.node.pw.gain ∧ rd t Reg.PWR_GAIN = rd s Reg.PWR_GAIN ∧
        t.node.pw.trimFails = s.node.pw.trimFails + 1 ∧ t.node.pw.window = [] ∧
        Counted s t Reg.PWR_TEL_FAIL) ∧
  (∀ (s : State) (port half i : Nat) (x : Option (Int × Int)), s.alive = true →
      Canonical s →
      port < 32 ∧ half < 2 ∧ i = port * 2 + half ∧ rd s Reg.MAR_OPT_EN ≠ 0 ∧ rd s Reg.MG_OPT_PRESENT 0 i ≠ 0 →
      ∃ t, exec (.opticalRead port half x) s = .next t ∧
        (rd t Reg.MAR_TX 0 i = ((x.map fun y => toField 16 y.1).getD 0x8000) ∧ rd t Reg.MAR_RX 0 i = ((x.map fun y => toField 16 y.2).getD 0x8000)) ∧
        (x.isNone = true → Counted s t Reg.MAR_OPT_FAIL) ∧
        (x.isSome = true → rd t Reg.MAR_OPT_FAIL = rd s Reg.MAR_OPT_FAIL) ∧
        t.node = s.node ∧ t.mem = s.mem) ∧
  (∀ (s : State) (lost : Bool), s.alive = true →
      Canonical s →
      ∃ t, exec (.d2dDegraded lost) s = .next t ∧
        rd t Reg.CST_DEGRADED = 1 ∧
        (lost = true → rd t Reg.CST_UP = 0 ∧ rd t Reg.GLB_D2D_UP = 0) ∧
        (lost = false → rd t Reg.CST_UP = rd s Reg.CST_UP ∧ rd t Reg.GLB_D2D_UP = rd s Reg.GLB_D2D_UP) ∧
        Counted s t Reg.BLK_ERR_CNT 1 0x24 ∧
        t.node.st = s.node.st) ∧
  (∀ (s : State) (wr : RegWr) (src : Nat), s.alive = true →
      Canonical s →
      s.view.addresses wr .CAL [0x110] = true ∧ wr.fn = .pf ∧ wrote1 wr Reg.CAL_WRITE = true ∧ bitsOf (wr.data.toNat &&& beMask wr.be) 16 16 = 0xCA1B →
      rd s Reg.CAL_WRITING = 0 →
      src = rd s Reg.CAL_SRC_LO + rd s Reg.CAL_SRC_HI * 2 ^ 32 →
      ∃ t, exec (.calWrite wr) s = .next t ∧
        Counted s t Reg.CAL_WRITES ∧
        (s.view.inAllotment 0 src 65536 = true → calCheck (s.view.bytes src 65536) = none → rd t Reg.CAL_WRITING = 1 ∧ rd t Reg.CAL_WRITE_FAIL = 0 ∧ t.mem = s.mem.clear (flashKey calFlash) 65536 ∧ t.node.pw = { s.node.pw with calNew := some (s.view.bytes src 65536) }) ∧
        (s.view.inAllotment 0 src 65536 = false ∨ calCheck (s.view.bytes src 65536) ≠ none → rd t Reg.CAL_WRITING = 0 ∧ rd t Reg.CAL_WRITE_FAIL = 1 ∧ t.node.pw = s.node.pw)) ∧
  (∀ (s : State) (c : Bytes) (ok : Bool), s.alive = true →
      Canonical s →
      s.node.pw.calNew = some c →
      ∃ t, exec (.calWriteDone ok) s = .next t ∧
        rd t Reg.CAL_WRITING = 0 ∧ t.node.pw.calNew = none ∧
        (ok = true → rd t Reg.CAL_PENDING = 1 ∧ rd t Reg.CAL_WRITE_FAIL = 0) ∧
        (ok = true → ∀ i : Nat, i < c.length → byteAt t (flashKey calFlash + i) = Sys2Proof.Crypto.at0 c i) ∧
        (ok = false → rd t Reg.CAL_WRITE_FAIL = 1 ∧ rd t Reg.CAL_PENDING = rd s Reg.CAL_PENDING) ∧
        bitOf (rd t Reg.BLK_ISR 5) 16 = true)

/-- R478 to R482. -/
def Obligations.UsageIsSampledAndStated : Prop :=
  (∀ (s : State) (n : Nat) (m : Meter16), s.alive = true →
      n = rd s Reg.MTR_SAMPLE ∧ rd s Reg.MTR_EN ≠ 0 ∧ s.node.tk.now.toNat % n = 0 ∧ s.node.mt.lastSample ≠ some s.node.tk.now →
      m ∈ s.node.mt.meters ∧ m.final = none ∧ m.cnt.length = 16 →
      ∃ t, exec .usageSample s = .next t ∧
        (∃ x ∈ t.node.mt.meters, x.part = m.part ∧ x.number = m.number ∧ x.prev = m.prev ∧ atD x.cnt 7 0 = (atD m.cnt 7 0 + s.view.hbmHeld m.part * n) % 2 ^ 64 ∧ atD x.cnt 8 0 = (atD m.cnt 8 0 + (m.ddrRest + s.view.tierUsed m.part Loc.ddrBytes * n) / 1024) % 2 ^ 64 ∧ x.ddrRest = (m.ddrRest + s.view.tierUsed m.part Loc.ddrBytes * n) % 1024 ∧ atD x.cnt 9 0 = (atD m.cnt 9 0 + (m.hostRest + s.view.tierUsed m.part Loc.hostBytes * n) / 1024) % 2 ^ 64 ∧ x.hostRest = (m.hostRest + s.view.tierUsed m.part Loc.hostBytes * n) % 1024 ∧ atD x.cnt 10 0 = (atD m.cnt 10 0 + (s.node.pg.sessions.filter fun e => e.2.part = m.part).length * n) % 2 ^ 64 ∧ (∀ i : Nat, i < 16 → i ∉ [7, 8, 9, 10] → atD x.cnt i 0 = atD m.cnt i 0)) ∧
        t.node.mt.lastSample = some s.node.tk.now ∧
        t.mem = s.mem ∧ t.regs = s.regs) ∧
  (∀ (s : State) (n : Nat), s.alive = true →
      n = rd s Reg.MTR_SAMPLE →
      (s.node.tk.now.toNat % n ≠ 0 ∨ rd s Reg.MTR_EN = 0 ∨ s.node.mt.lastSample = some s.node.tk.now) →
      exec .usageSample s = .next s) ∧
  (∀ (s : State) (m : Meter16) (keep : Nat), s.alive = true →
      Canonical s →
      rd s Reg.MTR_EN ≠ 0 ∧ s.node.tk.now.toNat % s.node.mt.period = 0 ∧ s.node.mt.lastClose ≠ some s.node.tk.now →
      keep = rd s Reg.MTR_KEEP ∧ 1 ≤ keep ∧ keep ≤ 16 →
      (s.node.mt.meters.map (·.part)).Nodup ∧ m ∈ s.node.mt.meters ∧ m.fenced = false ∧ m.final = none ∧ s.view.live m.part = true →
      ∃ t, exec .usageStatementClose s = .next t ∧
        (∃ x ∈ t.node.mt.meters, x.part = m.part ∧ x.number = m.number + 1 ∧ x.prev = m.cnt ∧ x.cnt = m.cnt ∧ x.from_ = s.node.tk.now ∧ x.final = none ∧
      ∃ b : Bytes, (m.number, b) ∈ x.kept ∧ b.length = 2644 ∧ b.take 224 = s.view.statementBody m none ∧ x.digest = Sys2Proof.Crypto.sha3v b ∧
      ∀ i : Nat, i < 2644 → byteAt t (statementBase + (m.part * 16 + m.number % 16) * 4096 + i) = Sys2Proof.Crypto.at0 b i) ∧
        t.node.mt.period = rd s Reg.MTR_PERIOD ∧ t.node.mt.lastClose = some s.node.tk.now ∧
        t.node.st = s.node.st) ∧
  (∀ (s : State) (m : Meter16), (s.view.statementBody m none).length = 224 ∧ fieldAt (s.view.statementBody m none) 0 4 = 0x54534255 ∧ fieldAt (s.view.statementBody m none) 6 1 = m.part % 256 ∧ fieldAt (s.view.statementBody m none) 8 4 = m.number % 2 ^ 32 ∧ fieldAt (s.view.statementBody m none) 0x30 8 = s.node.tk.now.toNat)

/-- R489 to R493, R495. -/
def Obligations.TheCommonPartOfEveryPage : Prop :=
  (∀ (s : State) (wr : RegWr) (page : Nat), s.alive = true →
      Canonical s →
      (s.view.commonAt wr.fn wr.off = some (page, 0xC) ∧ (ownsCommon wr.fn page = true ∨ wr.fn = .pf) ∧ bitOf (wr.data.toNat &&& beMask wr.be) 1 = true) →
      ∃ t, exec (.softReset wr) s = .next t ∧
        (∀ x ∈ [Reg.BLK_ISR, Reg.BLK_ERR_CAP0, Reg.BLK_ERR_CAP1, Reg.BLK_ERR_CAP2, Reg.BLK_ERR_CAP3, Reg.BLK_ERROR], rd t x page = 0) ∧
        (∀ x ∈ pageCounters page, ∀ j : Nat, j < 2 ^ 20 → rd t x.1 x.2 j = 0) ∧
        (∀ x ∈ pageBlock page, ∀ f ∈ x.1.flds, f.acc = .rw → ∀ j : Nat, j < 2 ^ 20 → rd t f x.2 j = rd s f x.2 j) ∧
        { t.node with frozen := s.node.frozen } = s.node ∧ t.mem = s.mem) ∧
  (∀ (s : State) (wr : RegWr) (page : Nat), s.alive = true →
      Canonical s →
      s.view.commonAt wr.fn wr.off = some (page, 0xC) ∧ ownsCommon wr.fn page = true ∧ bitOf (wr.data.toNat &&& beMask wr.be) 1 = false ∧ bitOf (beMask wr.be) 2 = true →
      rd s Reg.BLK_FREEZE page ≤ 1 →
      ∃ t, exec (.freezeWrite wr) s = .next t ∧
        (rd t Reg.BLK_FREEZE page = if bitOf wr.data.toNat 2 then 1 else 0) ∧
        (bitOf wr.data.toNat 2 = true → rd s Reg.BLK_FREEZE page = 0 → lookupN page t.node.frozen = some (((pageCounters page).map fun x => s.view.counterKeys x.1 x.2).flatten)) ∧
        (bitOf wr.data.toNat 2 = false → rd s Reg.BLK_FREEZE page = 1 → lookupN page t.node.frozen = none) ∧
        (∀ x ∈ pageCounters page, ∀ j : Nat, rd t x.1 x.2 j = rd s x.1 x.2 j) ∧
        { t.node with frozen := s.node.frozen } = s.node ∧ t.mem = s.mem) ∧
  (∀ (s : State) (wr : RegWr) (page : Nat), s.alive = true →
      Canonical s →
      s.view.commonAt wr.fn wr.off = some (page, 0x14) ∧ ownsCommon wr.fn page = true →
      ∃ t, exec (.blkIsrClear wr) s = .next t ∧
        (∀ i : Nat, i < 32 → bitOf (rd t Reg.BLK_ISR page) i = (bitOf (rd s Reg.BLK_ISR page) i && !bitOf (wr.data.toNat &&& beMask wr.be) i)) ∧
        (bitOf (wr.data.toNat &&& beMask wr.be) 0 = true → rd t Reg.BLK_ERROR page = 0) ∧
        (bitOf (wr.data.toNat &&& beMask wr.be) 0 = false → rd t Reg.BLK_ERROR page = rd s Reg.BLK_ERROR page) ∧
        t.node = s.node ∧ t.mem = s.mem) ∧
  (∀ (s : State) (wr : RegWr) (page : Nat), s.alive = true →
      Canonical s →
      s.view.commonAt wr.fn wr.off = some (page, 0x1C) ∧ ownsCommon wr.fn page = true →
      ∃ t, exec (.blkIset wr) s = .next t ∧
        (∀ i : Nat, i < 32 → bitOf (rd t Reg.BLK_ISR page) i = (bitOf (rd s Reg.BLK_ISR page) i || bitOf (wr.data.toNat &&& beMask wr.be &&& isrMask page) i)) ∧
        rd t Reg.BLK_IER page = rd s Reg.BLK_IER page ∧
        t.mem = s.mem) ∧
  (∀ (s : State) (wr : RegWr) (page i : Nat), s.alive = true →
      Canonical s →
      s.view.commonAt wr.fn wr.off = some (page, 0x18) ∧ ownsCommon wr.fn page = true →
      i < 32 ∧ bitOf (mergeBits (rd s Reg.BLK_IER page) (wr.data.toNat &&& beMask wr.be) (beMask wr.be) &&& isrMask page) i = true ∧ bitOf (rd s Reg.BLK_IER page) i = false ∧ bitOf (rd s Reg.BLK_ISR page) i = true →
      (s.view.msixMasked (pageVector page).1 (pageVector page).2 = false ∧ s.node.bo.busMaster = true ∧ (∀ h ∈ s.node.holdoffs, ¬ (h.fn = (pageVector page).1 ∧ h.vec = (pageVector page).2))) →
      ∃ t, exec (.blkIerWrite wr) s = .next t ∧
        rd t Reg.BLK_IER page = mergeBits (rd s Reg.BLK_IER page) (wr.data.toNat &&& beMask wr.be) (beMask wr.be) &&& isrMask page ∧
        t.node.out = s.node.out ++ [.msix (pageVector page).1 (pageVector page).2] ∧
        (rd s Reg.GLB_HOLDOFF_NS ≠ 0 → ∃ h ∈ t.node.holdoffs, h.fn = (pageVector page).1 ∧ h.vec = (pageVector page).2 ∧ h.waiting = false ∧ h.last = s.node.tk.upPs)) ∧
  (∀ (s : State) (wr : RegWr) (page : Nat), s.alive = true →
      Canonical s →
      s.view.commonAt wr.fn wr.off = some (page, 0x18) ∧ ownsCommon wr.fn page = true →
      rd s Reg.BLK_ISR page = 0 →
      ∃ t, exec (.blkIerWrite wr) s = .next t ∧
        rd t Reg.BLK_IER page = mergeBits (rd s Reg.BLK_IER page) (wr.data.toNat &&& beMask wr.be) (beMask wr.be) &&& isrMask page ∧
        t.node = s.node ∧ t.mem = s.mem) ∧
  (∀ (s : State) (fn : Fn) (vec : Nat), s.alive = true →
      (∀ h ∈ s.node.holdoffs, h.fn = fnNum fn → h.vec = vec → h.waiting = false) →
      exec (.holdoffExpired fn vec) s = .next { s with node := { s.node with holdoffs := s.node.holdoffs.filter fun h => !(h.fn = fnNum fn && h.vec = vec) } }) ∧
  (∀ (s : State) (fn : Fn) (vec : Nat) (h : Holdoff), s.alive = true →
      (s.node.holdoffs.find? (fun h => h.fn = fnNum fn ∧ h.vec = vec) = some h ∧ h.waiting = true) →
      s.view.msixMasked (fnNum fn) vec = false ∧ s.node.bo.busMaster = true ∧ rd s Reg.GLB_HOLDOFF_NS ≠ 0 →
      ∃ t, exec (.holdoffExpired fn vec) s = .next t ∧
        t.node.out = s.node.out ++ [.msix (fnNum fn) vec] ∧
        (∃ h ∈ t.node.holdoffs, h.fn = fnNum fn ∧ h.vec = vec ∧ h.waiting = false ∧ h.last = s.node.tk.upPs) ∧
        t.regs = s.regs) ∧
  (∀ (s : State) (fn : Fn) (vec : Nat), s.alive = true →
      vec < 2048 ∧ (fnNum fn = 0 ∨ vec = 0 ∨ 63 < vec) →
      ∃ t, exec (.msixUnmask fn vec) s = .next t ∧
        t.view.msixMasked (fnNum fn) vec = false ∧
        (vec ∈ (s.view.msixOf (fnNum fn)).pending → s.node.bo.busMaster = true → t.node.out = s.node.out ++ [.msix (fnNum fn) vec] ∧ vec ∉ (t.view.msixOf (fnNum fn)).pending) ∧
        (vec ∉ (s.view.msixOf (fnNum fn)).pending → t.node.out = s.node.out) ∧
        t.regs = s.regs ∧ t.mem = s.mem) ∧
  (∀ (s : State) (part vec : Nat), s.alive = true →
      1 ≤ vec ∧ vec ≤ 63 →
      s.view.msixMasked (fnNum (.vf part)) vec = true →
      ∃ t, exec (.msixUnmask (.vf part) vec) s = .next t ∧
        t.view.msixMasked (fnNum (.vf part)) vec = true ∧
        (t.view.msixOf (fnNum (.vf part))).pending = (s.view.msixOf (fnNum (.vf part))).pending ∧
        t.node.out = s.node.out ∧
        t.regs = s.regs ∧ t.mem = s.mem)

/-- R209, R268, R330, R353, R440, R484 to R487, R516. -/
def Obligations.RegisterWritesAreWholeOrIgnored : Prop :=
  (∀ (s : State) (wr : RegWr) (b : Block) (inst off idx : Nat) (f : Fld), s.alive = true →
      Canonical s →
      (s.view.locate wr.fn wr.off = .reg b inst off ∧ wr.off % 4 = 0 ∧ (b, off) ∉ ownedRegisters ∧ (0x100 ≤ off ∨ b = .QCFG)) →
      idx = s.view.sel wr.fn b off ∧ s.view.refuse wr b inst idx off = none →
      (f ∈ regFields b off ∧ (f.acc = .rw ∨ f.acc = .rwl ∨ f.acc = .wo)) →
      ∃ t, exec (.registerWrite wr) s = .next t ∧
        (rd t f (storeInst b inst off) idx = if fieldEnabled wr f then s.view.merged wr inst idx f else rd s f (storeInst b inst off) idx) ∧
        (b ≠ .PWR → b ≠ .MIR → t.node = { s.node with acting := t.node.acting } ∧ t.mem = s.mem) ∧
        (f ∈ tickFields ++ sheetFields ++ estimateFields → t.view.acting f (storeInst b inst off) idx = s.view.acting f (storeInst b inst off) idx)) ∧
  (∀ (s : State) (wr : RegWr) (b : Block) (inst off idx code page : Nat), s.alive = true →
      Canonical s →
      (s.view.locate wr.fn wr.off = .reg b inst off ∧ wr.off % 4 = 0 ∧ (b, off) ∉ ownedRegisters ∧ (0x100 ≤ off ∨ b = .QCFG)) →
      idx = s.view.sel wr.fn b off ∧ s.view.refuse wr b inst idx off = some code ∧ page = capturePage wr.fn b inst off →
      ∃ t, exec (.registerWrite wr) s = .next t ∧
        (∀ f ∈ regFields b off, f.acc = .rw ∨ f.acc = .rwl ∨ f.acc = .wo → rd t f (storeInst b inst off) idx = rd s f (storeInst b inst off) idx) ∧
        Counted s t Reg.BLK_ERR_CNT 1 page ∧
        (bitOf (rd s Reg.BLK_ISR page) 0 = false → rd t Reg.BLK_ERR_CAP0 page % 2 ^ 16 = code ∧ rd t Reg.BLK_ERR_CAP2 page = wr.off % 2 ^ 32 ∧ rd t Reg.BLK_ERR_CAP3 page = wr.data.toNat ∧ bitOf (rd t Reg.BLK_ISR page) 0 = true) ∧
        (bitOf (rd s Reg.BLK_ISR page) 0 = true → rd t Reg.BLK_ERR_CAP0 page = rd s Reg.BLK_ERR_CAP0 page ∧ bitOf (rd t Reg.BLK_ISR page) 1 = true) ∧
        t.node.pw = s.node.pw ∧ t.node.tp = s.node.tp) ∧
  (∀ (s : State) (wr : RegWr) (b : Block) (inst off : Nat), s.alive = true →
      s.view.locate wr.fn wr.off = .reg b inst off ∧ wr.off % 4 = 0 ∧ 0x100 ≤ off ∧ b ≠ .PWR ∧ b ≠ .MIR →
      (∀ f ∈ regFields b off, fieldEnabled wr f = true → f.acc = .ro ∨ f.acc = .rs) →
      exec (.registerWrite wr) s = .next s) ∧
  (∀ (s : State) (wr : RegWr) (b : Block) (inst off : Nat), s.alive = true →
      s.view.locate wr.fn wr.off = .reg b inst off ∧ wr.off % 4 = 0 ∧ (b, off) ∈ ownedRegisters →
      (b = .QUE → off = 0x104 → s.view.merged wr 0 (fnNum wr.fn) Reg.QUE_OP ∈ [1, 2, 3]) →
      (b = .PART → off = 0x104 → s.view.merged wr 0 0 Reg.PART_OP ∈ [1, 2, 3]) →
      exec (.registerWrite wr) s = .next s) ∧
  (∀ (s : State) (wr : RegWr) (inst page : Nat), s.alive = true →
      Canonical s →
      s.view.locate wr.fn wr.off = .reg .QUE inst 0x104 ∧ wr.off % 4 = 0 ∧ s.view.merged wr 0 (fnNum wr.fn) Reg.QUE_OP ∉ [1, 2, 3] →
      (∃ f ∈ regFields .QUE 0x104, fieldEnabled wr f = true) ∧ page = capturePage wr.fn .QUE inst 0x104 →
      ∃ t, exec (.registerWrite wr) s = .next t ∧
        Counted s t Reg.BLK_ERR_CNT 1 page ∧
        (∀ f ∈ regFields .QUE 0x104, rd t f 0 (fnNum wr.fn) = rd s f 0 (fnNum wr.fn)) ∧
        t.node.hq.queues = s.node.hq.queues) ∧
  (∀ (s : State) (wr : RegWr) (inst page : Nat), s.alive = true →
      Canonical s →
      s.view.locate wr.fn wr.off = .reg .PART inst 0x104 ∧ wr.off % 4 = 0 ∧ s.view.merged wr 0 0 Reg.PART_OP ∉ [1, 2, 3] →
      (∃ f ∈ regFields .PART 0x104, fieldEnabled wr f = true) ∧ page = capturePage wr.fn .PART inst 0x104 →
      ∃ t, exec (.registerWrite wr) s = .next t ∧
        Counted s t Reg.BLK_ERR_CNT 1 page ∧
        (∀ f ∈ regFields .PART 0x104, rd t f = rd s f) ∧
        t.node.se = s.node.se) ∧
  (∀ (s : State) (wr : RegWr), s.alive = true →
      Canonical s →
      wr.off % 4 ≠ 0 →
      ∃ t, exec (.registerWrite wr) s = .next t ∧
        Counted s t Reg.GLB_BAD_ACCESS ∧
        t.node = s.node ∧ t.mem = s.mem) ∧
  (∀ (s : State) (wr : RegWr) (d : Nat), s.alive = true →
      s.view.locate wr.fn wr.off = .msixTable d ∧ wr.off % 4 = 0 ∧ d % 4 ≠ 3 →
      ∃ t, exec (.registerWrite wr) s = .next t ∧
        t.view.msixDword (fnNum wr.fn) d = mergeBits (s.view.msixDword (fnNum wr.fn) d) wr.data.toNat (beMask wr.be) ∧
        t.regs = s.regs ∧ t.mem = s.mem ∧ t.node.out = s.node.out) ∧
  (∀ (s : State) (fn : Fn) (off : Nat), s.alive = true →
      off % 4 = 0 →
      ∃ t, exec (.latchingRegisterRead fn (.reg off) 4) s = .next t ∧
        t.node.out = s.node.out ++ [.barData (fnNum fn) (some (leBytes 4 (s.view.busRead fn off).1))] ∧
        t.mem = s.mem ∧
        { t.node with out := s.node.out, tk := s.node.tk } = s.node) ∧
  (∀ (s : State), s.alive = true →
      ∃ t, exec (.latchingRegisterRead .pf (.reg 0x1118) 8) s = .next t ∧
        t.node.out = s.node.out ++ [.barData 0 (some (leBytes 8 s.node.tk.now.toNat))] ∧
        t.node.tk = { s.node.tk with latchHi := s.node.tk.now.toNat / 2 ^ 32 } ∧
        t.regs = s.regs ∧ t.mem = s.mem) ∧
  (∀ (s : State) (fn : Fn) (place : ReadAt) (off len : Nat), s.alive = true →
      Canonical s →
      off = readOff place →
      off % 4 ≠ 0 ∧ 4 < off % 4 + len →
      ∃ t, exec (.latchingRegisterRead fn place len) s = .next t ∧
        Counted s t Reg.GLB_BAD_ACCESS ∧
        t.node.out = s.node.out ++ [.barData (fnNum fn) (some (List.replicate len 0))] ∧
        t.mem = s.mem) ∧
  (∀ (s : State) (fn : Fn) (q i : Nat), s.alive = true →
      i < 1024 →
      exec (.latchingRegisterRead fn (.doorbell (q * 0x1000 + i * 4)) 4) s =
        .next { s with node := { s.node with out := s.node.out ++ [.barData (fnNum fn) (some (leBytes 4
          (if s.view.fnExists fn = true ∧ q < 4096 ∧ s.view.queuePart q = some (fnNum fn) then
            [(s.view.queueOf q).tail, (s.view.queueOf q).cqHead, (s.view.queueOf q).count, (s.view.queueOf q).failCount].getD i 0
           else 0)))] } })

/-- R373 to R375, R377 to R380, R384, R385, R406. -/
def Obligations.MirrorStreamsAreSeededSentAndLost : Prop :=
  (∀ (s : State) (wr : RegWr) (inst p : Nat) (v : Work), s.alive = true →
      Canonical s →
      Lands s wr .MIR 0x124 inst p →
      v = (s.view.busWrite wr).w →
      v.flag Reg.MIR_MIRROR 0 p = true ∧ v.get Reg.MIR_UNDERSTUDY ≠ 0xFFFF ∧ v.understudyConn.isSome = true →
      (∀ x ∈ s.view.streamOf p, x.state = .off) →
      ∃ t, exec (.mirrorEnable wr) s = .next t ∧
        (∃ x ∈ t.view.streamOf p, (x.state = .seeding ∨ x.state = .streaming) ∧ x.seq = 0 ∧ x.gen = (((s.view.streamOf p).map (fun y => (y.gen + 1) % 2 ^ 32)).getD 1) ∧ x.unseeded = ((s.view.seedOrder p).filter fun e => e.2.mirrorState ≠ 2).map (fun e => e.2.cid) ∧ (x.unseeded ≠ [] → x.state = .seeding)) ∧
        t.node.pg = s.node.pg ∧ t.node.st = s.node.st) ∧
  (∀ (s : State) (wr : RegWr) (inst p : Nat) (v : Work), s.alive = true →
      Canonical s →
      Lands s wr .MIR 0x124 inst p →
      v = (s.view.busWrite wr).w →
      v.flag Reg.MIR_MIRROR 0 p = true ∧ v.get Reg.MIR_UNDERSTUDY ≠ 0xFFFF ∧ v.understudyConn = none →
      (∀ x ∈ s.view.streamOf p, x.state = .off) →
      ∃ t, exec (.mirrorEnable wr) s = .next t ∧
        (∃ x ∈ t.view.streamOf p, x.state = .unavailable ∧ x.batches = []) ∧
        Counted s t Reg.MIR_UNAVAILABLE) ∧
  (∀ (s : State) (wr : RegWr) (inst p : Nat) (st : Stream), s.alive = true →
      Canonical s →
      Lands s wr .MIR 0x124 inst p →
      (s.view.busWrite wr).w.flag Reg.MIR_MIRROR 0 p = false →
      s.view.streamOf p = some st ∧ st.state ≠ .off →
      ∃ t, exec (.mirrorEnable wr) s = .next t ∧
        (∃ x ∈ t.view.streamOf p, x.state = .off ∧ x.gen = st.gen ∧ x.batches = [] ∧ x.unseeded = [] ∧ x.waits = [])) ∧
  (∀ (s : State) (wr : RegWr) (inst idx p new : Nat), s.alive = true →
      Canonical s →
      Lands s wr .MIR 0x104 inst idx →
      new = s.view.merged wr 0 0 Reg.MIR_UNDERSTUDY ∧ new ≠ rd s Reg.MIR_UNDERSTUDY ∧ new ≠ 0xFFFF →
      p < 64 ∧ rd s Reg.MIR_MIRROR 0 p ≠ 0 →
      ∃ t, exec (.mirrorEnable wr) s = .next t ∧
        rd t Reg.MIR_UNDERSTUDY = new ∧
        (∃ x ∈ t.view.streamOf p, (x.state = .seeding ∨ x.state = .streaming ∨ x.state = .unavailable) ∧ x.gen = (((s.view.streamOf p).map (fun y => (y.gen + 1) % 2 ^ 32)).getD 1) ∧ x.waits = [])) ∧
  (∀ (s : State) (p rows c : Nat) (blocks : List (Nat × Bytes)) (imgs : List Bytes) (st : Stream) (b : Batch) (cn : Conn), s.alive = true →
      Canonical s →
      s.view.streamOf p = some st ∧ rd s Reg.MIR_EN ≠ 0 ∧ st.state ≠ .off ∧ st.state ≠ .unavailable ∧ st.state ≠ .behind →
      ((st.batches.find? fun x => !x.sent) = some b ∧ rows = (imgs.map imageRows).sum ∧ (packBlocks (blocks.map (·.2))).1.length ≤ 255) →
      ((b.runs = [] ∧ blocks = [] ∧ imgs = []) ∨
       (b.runs ≠ [] ∧ cutRuns b.runs (blocks.map (·.1)) = some imgs ∧ ∃ die, s.view.rowsDie = some die ∧ s.view.cmpRun die = none ∧
        ∀ x ∈ imgs.zip (blocks.map (·.2)), rowsVerify p x.1 x.2 = true)) →
      s.view.understudyConn = some c ∧ s.view.connOf c = some cn ∧ cn.state = .active ∧ s.view.route cn.peerNode ≠ 0 →
      ∃ t, exec (.mirrorBatchSend p blocks) s = .next t ∧
        Counted s t Reg.MIR_BATCHES_SENT ∧
        (∃ x ∈ t.view.streamOf p, x.seq = st.seq + 1 ∧ ∃ y ∈ x.batches, y.sent = true ∧ y.seq = st.seq ∧ y.tick = b.tick ∧ y.rows = rows ∧ y.data = (packBlocks (blocks.map (·.2))).1) ∧
        t.node.tp.outMsgs.length = s.node.tp.outMsgs.length + (packBlocks (blocks.map (·.2))).1.length + 1 ∧
        (∃ m ∈ t.node.tp.outMsgs.getLast?, m.2.conn = c ∧ m.2.op = 7 ∧ m.2.cmpr = false ∧ m.2.purpose = .mirrorBatch p st.gen st.seq)) ∧
  (∀ (s : State) (p ci c : Nat) (rest : List Nat) (blocks : List (Nat × Bytes)) (out : List Bytes) (st : Stream) (x : Course) (cn : Conn), s.alive = true →
      Canonical s →
      s.view.streamOf p = some st ∧ rd s Reg.MIR_EN ≠ 0 ∧ st.state ≠ .off ∧ st.state ≠ .unavailable ∧ st.state ≠ .behind →
      ((∀ b ∈ st.batches, b.sent = true) ∧ st.toSeed = ci :: rest ∧ s.view.course ci = some x) →
      ((match x.loc with
        | .hbm _ => s.view.badPages x = [] ∧ ∃ die, s.view.compressorOf x = some die ∧ s.view.cmpRun die = none ∧
            (s.view.courseRun (.spill 0) x).allowed 0 (blocks.map (·.2)) = true ∧
            ((s.view.showRatio (s.view.courseRun (.spill 0) x)).emitCourse die (s.view.courseRun (.spill 0) x) 0 (blocks.map (·.2))).1 = some out
        | l => blocks.map (·.2) = l.blks.map (s.view.blkBytes l) ∧ out = blocks.map (·.2)) ∧
       (packBlocks out).1.length ≤ 255) →
      s.view.understudyConn = some c ∧ s.view.connOf c = some cn ∧ cn.state = .active ∧ s.view.route cn.peerNode ≠ 0 →
      ∃ t, exec (.mirrorBatchSend p blocks) s = .next t ∧
        Counted s t Reg.MIR_BATCHES_SENT ∧
        (∃ y ∈ t.view.streamOf p, y.seq = st.seq + 1 ∧ y.toSeed = rest ∧ y.seeding = st.seeding ++ [ci] ∧ ∃ z ∈ y.batches, z.sent = true ∧ z.courses = [ci] ∧ z.flags = 1 ∧ z.seq = st.seq ∧ z.data = (packBlocks out).1)) ∧
  (∀ (s : State) (p si : Nat) (cid : DWord) (st : Stream) (x : Session), s.alive = true →
      Canonical s →
      s.view.streamOf p = some st ∧ st.state ≠ .off ∧ st.state ≠ .unavailable ∧ st.unseeded.head? = some cid →
      (∀ r ∈ s.node.mi.homeOps, r.op = .setUnderstudy → r.part ≠ p) →
      ((s.node.pg.sessions.find? fun e => e.2.part = p && e.2.cid = cid && e.2.mirrorState != 2) = some (si, x)) →
      { st with unseeded := st.unseeded.filter (· != cid) }.seededSession x = true →
      (∀ b ∈ st.batches, b.seq = 0 → b.courses = [] → bitOf b.flags 0 = true → bitOf b.flags 1 = true) →
      ∃ t, exec (.sliceSeeded p cid) s = .next t ∧
        (∃ y ∈ t.view.streamOf p, y.unseeded = st.unseeded.filter (· != cid) ∧ (y.unseeded = [] → st.toSeed = [] → st.seeding = [] → st.state = .seeding → y.state = .streaming)) ∧
        (x.own = .own → ∃ h ∈ t.node.mi.homeOps, h.session = si ∧ h.op = HomeOp.setUnderstudy ∧ h.cid = cid)) ∧
  (∀ (s : State) (p : Nat) (st : Stream) (b : Batch), s.alive = true →
      Canonical s →
      (s.view.streamOf p = some st ∧ (st.state = .seeding ∨ st.state = .streaming) ∧ b ∈ st.batches) →
      s.view.understudyConn.isSome = true →
      Tick.earlier b.tick s.node.tk.now = true ∧ rd s Reg.MIR_ACK_GRACE + 1 < ticksTo b.tick s.node.tk.now →
      ∃ t, exec (.mirrorAckLate p) s = .next t ∧
        (∃ x ∈ t.view.streamOf p, x.state = .behind ∧ x.before = st.state ∧ x.batches = st.batches ∧ x.since = s.node.tk.upPs) ∧
        Counted s t Reg.MIR_BEHIND) ∧
  (∀ (s : State) (p : Nat) (st : Stream), s.alive = true →
      Canonical s →
      s.view.streamOf p = some st ∧ st.state = .behind →
      (rd s Reg.MIR_MIB * 2 ^ 20 < st.held ∨ rd s Reg.MIR_LOST_MS * 1000000000 ≤ s.node.tk.upPs - max st.lastAck st.since) →
      ∃ t, exec (.mirrorStreamLost p) s = .next t ∧
        (∃ x ∈ t.view.streamOf p, x.state = .unavailable ∧ x.batches = [] ∧ x.waits = [] ∧ x.gen = st.gen) ∧
        Counted s t Reg.MIR_UNAVAILABLE ∧
        bitOf (rd t Reg.BLK_ISR 0x74) 16 = true) ∧
  (∀ (s : State) (p : Nat) (st : Stream), s.alive = true →
      Canonical s →
      s.view.streamOf p = some st ∧ st.state = .unavailable ∧ s.view.mirrored p = true ∧ s.view.understudyConn.isSome = true →
      rd s Reg.MIR_LOST_MS * 1000000000 ≤ s.node.tk.upPs - st.since →
      ∃ t, exec (.mirrorReseedTimer p) s = .next t ∧
        (∃ x ∈ t.view.streamOf p, (x.state = .seeding ∨ x.state = .streaming) ∧ x.gen = (st.gen + 1) % 2 ^ 32 ∧ x.seq = 0) ∧
        t.node.pg = s.node.pg)

/-- R386 to R388, R392, R397, R405, R456. -/
def Obligations.CommitsRestoresAndOwnershipTimers : Prop :=
  (∀ (s : State) (src : Src) (desc m : Bytes) (p si : Nat) (se : Session) (st : Stream), s.alive = true →
      s.view.partOf src = some p ∧ m = srcBytes src [4, 4, 8, 4, 4, 8] desc ∧ s.view.srcOk src = true ∧ s.view.staleSrc src = false ∧ s.view.live p = true ∧ s.view.isDark = false →
      quietSrc s src →
      NamesSession s p (fieldAt m 0 4) si se ∧ se.cid.toNat = fieldAt m 8 8 ∧ se.state = .open →
      desc.length = 32 ∧ zeroAt m 4 4 = true ∧ zeroAt m 0x18 8 = true →
      s.view.streamOf p = some st ∧ st.state ≠ .off ∧ s.view.mirrored p = true ∧ (st.state = .unavailable ∨ s.view.understudyConn.isSome = true) →
      ∃ t, exec (.commitOp src desc) s = .next t ∧
        (∃ x ∈ t.view.streamOf p, ∃ b : Bytes, fieldAt b 0 1 = 6 ∧ fieldAt b 8 8 = se.cid.toNat ∧
      x.waits = st.waits ++ [⟨src, fieldAt m 0x10 4, si, s.node.tk.now, b, if st.state = .unavailable then none else some s.node.tk.now⟩] ∧
      (st.state ≠ .unavailable → x.open_.length = st.open_.length + 1 ∧ x.open_.getLast?.map (·.meta_) = some b) ∧ (st.state = .unavailable → x.open_ = st.open_)) ∧
        t.node.pg = s.node.pg ∧ t.node.tp.conns = s.node.tp.conns ∧ t.mem = s.mem) ∧
  (∀ (s : State) (id msn : Nat) (desc m : Bytes) (p si : Nat) (se : Session), s.alive = true →
      Canonical s →
      s.view.partOf (.conn id msn) = some p ∧ m = srcBytes (.conn id msn) [4, 4, 8, 4, 4, 8] desc ∧ s.view.srcOk (.conn id msn) = true ∧ s.view.staleSrc (.conn id msn) = false ∧ s.view.live p = true ∧ s.view.isDark = false →
      NamesSession s p (fieldAt m 0 4) si se ∧ se.cid.toNat = fieldAt m 8 8 ∧ se.state = .open →
      desc.length = 32 ∧ zeroAt m 4 4 = true ∧ zeroAt m 0x18 8 = true →
      ((∀ st ∈ s.view.streamOf p, st.state = .off) ∧ quietMsgs s id msn) →
      ∃ t, exec (.commitOp (.conn id msn) desc) s = .next t ∧
        (∃ r ∈ lastRecord t id, r.msn = msn ∧ r.status = stMirror ∧ r.tag = fieldAt m 0x10 4) ∧
        Counted s t Reg.MIR_COMMITS_FAILED) ∧
  (∀ (s : State) (id msn : Nat) (st : Stream) (c : CommitWait) (cn : Conn), s.alive = true →
      Canonical s →
      (s.node.mi.streams.find? (fun x => x.waits.any fun y => y.src = .conn id msn) = some st ∧ st.waits.find? (fun y => y.src = .conn id msn) = some c) →
      rd s Reg.MIR_COMMIT_WAIT ≤ ticksTo c.arrival s.node.tk.now →
      s.view.connOf id = some cn ∧ cn.msnIsDone msn = false ∧ quietMsgs s id msn →
      ∃ t, exec (.commitWaitExpired (.conn id msn)) s = .next t ∧
        (∃ r ∈ lastRecord t id, r.msn = msn ∧ r.status = stMirror ∧ r.tag = c.tag) ∧
        Counted s t Reg.MIR_COMMITS_FAILED ∧
        (∀ x ∈ t.node.mi.streams, x.part = st.part → ∀ y ∈ x.waits, y.src ≠ .conn id msn)) ∧
  (∀ (s : State) (ci c : Nat) (t0 : Tick) (x : Course) (st : Stream) (cn : Conn), s.alive = true →
      Canonical s →
      ((s.node.mi.restores.find? fun r => r.1 = ci) = some (ci, t0) ∧ s.view.course ci = some x) →
      s.view.streamOf x.part = some st ∧ st.state = .streaming ∧ rd s Reg.MIR_EN ≠ 0 →
      (s.view.ackedThrough st t0 = true ∧ (∀ b ∈ st.batches, b.sent = true ∧ b.fetch ≠ some ci)) →
      s.view.understudyConn = some c ∧ s.view.connOf c = some cn ∧ cn.state = .active ∧ s.view.route cn.peerNode ≠ 0 →
      ∃ t, exec (.restoreFetchSend ci) s = .next t ∧
        Counted s t Reg.MIR_BATCHES_SENT ∧
        (∃ y ∈ t.view.streamOf x.part, y.seq = st.seq + 1 ∧ ∃ z ∈ y.batches, z.sent = true ∧ z.fetch = some ci ∧ z.flags = 4 ∧ z.data = []) ∧
        t.node.mi.restores = s.node.mi.restores ∧ t.node.st = s.node.st) ∧
  (∀ (s : State) (si id msn tag : Nat) (x : Session) (cn : Conn), s.alive = true →
      Canonical s →
      s.view.session si = some x ∧ x.own = .claiming ∧ x.waiting = some (.conn id msn, tag) →
      rd s Reg.MIR_HOME_WAIT ≤ ticksTo x.waitTick s.node.tk.now →
      s.view.connOf id = some cn ∧ cn.msnIsDone msn = false ∧ quietMsgs s id msn →
      ∃ t, exec (.homeWaitExpired si) s = .next t ∧
        t.view.session si = none ∧
        (∃ r ∈ lastRecord t id, r.msn = msn ∧ r.status = stMirror ∧ r.tag = tag) ∧
        (∀ h ∈ t.node.mi.homeOps, h.session ≠ si)) ∧
  (∀ (s : State) (e : Nat), s.alive = true →
      Canonical s →
      s.node.mi.leaseEndPs = some e ∧ e ≤ s.node.tk.upPs + s.view.periodPs →
      ∃ t, exec .leaseExpired s = .next t ∧
        rd t Reg.MIR_VALID = 0 ∧ rd t Reg.GLB_NODE_STATE = 0 ∧
        t.node.mi.leaseEndPs = none ∧ t.node.mi.fenced = true ∧
        rd t Reg.MIR_FE = rd s Reg.MIR_FE) ∧
  (∀ (s : State) (e : Nat), s.alive = true →
      s.node.mi.leaseEndPs = some e ∧ s.node.tk.upPs + s.view.periodPs < e →
      exec .leaseExpired s = .next s) ∧
  (∀ (s : State) (si : Nat) (x : Session) (r : HomeRun), s.alive = true →
      Canonical s →
      s.view.session si = some x ∧ s.view.homeRun si = some r ∧ x.own ≠ .claiming ∧ x.orphan = false →
      rd s Reg.MIR_MS * 1000000000 ≤ s.node.tk.upPs - r.startedPs →
      ∃ t, exec (.orphanTimeout si) s = .next t ∧
        t.view.session si = some { x with orphan := true } ∧
        t.node.st = s.node.st ∧ t.node.mi = { s.node.mi with homeOps := s.node.mi.homeOps.filter fun h => h.session ≠ si } ∧
        bitOf (rd t Reg.BLK_ISR 0x74) 17 = true)

/-- R367. A write of SEC_CTRL may carry FKEK_LOCK and SVN_COMMIT at once, so both commands are named. -/
def Obligations.FusedSvnOnlyRises : Prop :=
  (∀ (c : Instr) (s t : State), exec c s = .next t → s.svnFuse ≤ t.svnFuse) ∧
  (∀ (c : Instr) (s t : State), exec c s = .next t → t.svnFuse ≠ s.svnFuse →
      ∃ (wr : RegWr) (inst idx : Nat), (c = .svnCommit wr ∨ c = .fkekLock wr) ∧ wr.fn = .pf ∧ Lands s wr .SEC 0x104 inst idx ∧
      wrote1 wr Reg.SEC_SVN_COMMIT = true ∧ t.svnFuse = rd s Reg.SEC_SVN_IMAGE) ∧
  (∀ (s : State) (wr : RegWr) (inst idx : Nat), s.alive = true →
      Lands s wr .SEC 0x104 inst idx →
      wrote1 wr Reg.SEC_SVN_COMMIT = true →
      s.svnFuse ≤ rd s Reg.SEC_SVN_IMAGE →
      ∃ t, exec (.svnCommit wr) s = .next t ∧
        t.svnFuse = rd s Reg.SEC_SVN_IMAGE) ∧
  (∀ (s : State) (image : Nat), s.alive = true →
      s.view.nextImage = some image →
      fieldAt (s.view.bytes (flashKey (imageFlash image)) 4096) 6 1 < s.svnFuse →
      ∃ t, exec (.bootImageVerified image) s = .next t ∧
        t.node.bo.running = none ∧
        image ∈ t.node.bo.imgFailed ∧
        t.svnFuse = s.svnFuse)

/-- R472. That the table has 1 to 256 offsets is R470's. -/
def Obligations.ReadRegReadsAsBar0Does : Prop :=
  (∀ (s : State) (f : Frame) (r : MgReq) (offs : List Nat), s.alive = true →
      Canonical s →
      requestOf s f 0x20 Reg.MG_R = some r →
      r.body = leBytes 4 offs.length ++ (offs.map (leBytes 4)).flatten ∧ 1 ≤ offs.length ∧ offs.length ≤ 256 →
      (∀ o ∈ offs, o < 2 ^ 32 ∧ o % 4 = 0) →
      ∃ t, exec (.readReg f) s = .next t ∧
        Answered s t r stOK ((readsInOrder (orderWork s r) offs).1.map (leBytes 4)).flatten ∧
        (0x1118 ∈ offs → t.node.tk.latchHi = s.node.tk.now.toNat / 2 ^ 32) ∧
        (0x1118 ∉ offs → t.node.tk = s.node.tk) ∧
        t.node.pg = s.node.pg ∧ t.node.st = s.node.st ∧ t.node.tp = s.node.tp ∧
        t.mem = s.mem) ∧
  (∀ (s : State) (f : Frame) (r : MgReq) (offs : List Nat), s.alive = true →
      Canonical s →
      requestOf s f 0x20 Reg.MG_R = some r →
      r.body = leBytes 4 offs.length ++ (offs.map (leBytes 4)).flatten ∧ 1 ≤ offs.length ∧ offs.length ≤ 256 →
      ((∀ o ∈ offs, o < 2 ^ 32) ∧ ∃ o ∈ offs, o % 4 ≠ 0) →
      ∃ t, exec (.readReg f) s = .next t ∧
        Answered s t r stInternal [] ∧
        t.node.tk = s.node.tk ∧
        t.mem = s.mem) ∧
  (∀ (w : Work) (b : Block) (inst o off : Nat), o % 4 = 0 → w.locate .pf o = .reg b inst off → (0x100 ≤ off ∨ b = .QCFG) →
      regFields b off ≠ [] → (∀ x ∈ regFields b off, x.acc = .wo) → (w.busRead .pf o).1 = 0)

/-- R343, with what a capture holds as R490 and R497 have it. -/
def Obligations.SmallBurstsAreRefused : Prop :=
  (∀ (s : State) (wr : RegWr), s.alive = true →
      Canonical s →
      s.view.addresses wr .SCH [0x120] = true →
      fieldEnabled wr Reg.SCH_BURST = true ∧ s.view.merged wr 0 (s.view.sel wr.fn .SCH 0x120) Reg.SCH_BURST < 17 →
      rd s Reg.BLK_ISR 0x72 % 2 = 0 →
      ∃ t, exec (.shaperReconfigure wr) s = .next t ∧
        (∀ i : Nat, rd t Reg.SCH_BURST 0 i = rd s Reg.SCH_BURST 0 i) ∧
        t.node.sc = s.node.sc ∧
        Counted s t Reg.BLK_ERR_CNT 1 0x72 ∧
        rd t Reg.BLK_ERR_CAP0 0x72 = 0x4001 ∧ rd t Reg.BLK_ERR_CAP2 0x72 = wr.off ∧ rd t Reg.BLK_ERR_CAP3 0x72 = wr.data.toNat ∧
        (∀ a : Nat, outsideRing a → byteAt t a = byteAt s a)) ∧
  (∀ (s : State) (wr : RegWr), s.alive = true →
      Canonical s →
      s.view.addresses wr .SCH [0x120] = true →
      fieldEnabled wr Reg.SCH_BURST = true ∧ s.view.merged wr 0 (s.view.sel wr.fn .SCH 0x120) Reg.SCH_BURST < 17 →
      rd s Reg.BLK_ISR 0x72 % 2 = 1 →
      ∃ t, exec (.shaperReconfigure wr) s = .next t ∧
        (∀ i : Nat, rd t Reg.SCH_BURST 0 i = rd s Reg.SCH_BURST 0 i) ∧
        t.node.sc = s.node.sc ∧
        Counted s t Reg.BLK_ERR_CNT 1 0x72 ∧
        rd t Reg.BLK_ERR_CAP0 0x72 = rd s Reg.BLK_ERR_CAP0 0x72) ∧
  (∀ (s : State) (wr : RegWr) (v : Nat), s.alive = true →
      Canonical s →
      s.view.addresses wr .SCH [0x120] = true →
      fieldEnabled wr Reg.SCH_BURST = true ∧ v = s.view.merged wr 0 (s.view.sel wr.fn .SCH 0x120) Reg.SCH_BURST ∧ 17 ≤ v →
      ∃ t, exec (.shaperReconfigure wr) s = .next t ∧
        rd t Reg.SCH_BURST 0 (s.view.sel wr.fn .SCH 0x120) = v ∧
        t.mem = s.mem)

/-- R25, R268, R359, R348, R462, R489. -/
def Obligations.OnlyTheirOwnCommandsMoveTheTickAndTheKeys : Prop :=
  (∀ (c : Instr) (s t : State), exec c s = .next t → resetsNode c = false → movesTick c = false → t.node.tk = s.node.tk) ∧
  (∀ (c : Instr) (s t : State), exec c s = .next t → resetsNode c = false → t.node.se.fkek ≠ s.node.se.fkek → ∃ wr, c = .fkekWrite wr) ∧
  (∀ (c : Instr) (s t : State), exec c s = .next t → resetsNode c = false → t.node.mt.key ≠ s.node.mt.key →
      (∃ f, c = .setMk f) ∨ ∃ wr, c = .mkWrite wr) ∧
  (∀ (c : Instr) (s t : State), exec c s = .next t → resetsNode c = false → t.node.se.strikeCount ≠ s.node.se.strikeCount →
      ∃ wr, c = .partStrike wr) ∧
  (∀ (c : Instr) (s t : State), exec c s = .next t → resetsNode c = false → t.node.frozen ≠ s.node.frozen →
      ∃ wr, c = .freezeWrite wr ∨ c = .softReset wr)

/-- R58, R410: only the prompt book's own entries reach memory. -/
def Obligations.CommandsThatStoreNothingLeaveMemory : Prop :=
  ∀ (c : Instr) (s t : State) (a : Nat), storesNothing c = true → exec c s = .next t → outsideRing a → byteAt t a = byteAt s a
end

