-- ==== Sys2Proof/Laws/Crypto.lean ====
section
/-!
SUPPORT. Sys2Proof/Laws/Crypto.lean: AES-256-GCM decryption undoes its encryption.
-/

namespace Sys2Proof.Crypto

/-- Lengths of an XOR. -/
@[simp] theorem xorB_length (a b : Bytes) : (xorB a b).length = a.length := by simp [xorB]

/-- XOR with the same bytes twice changes nothing. -/
theorem xorB_xorB (a b : Bytes) : xorB (xorB a b) b = a := by
  apply List.ext_getElem (by simp)
  intro i h1 h2
  simp [xorB, List.getElem_append]

/-- The counter mode keeps the length of what its blocks cover. -/
theorem ctr_length (rks : List Bytes) (iv : Bytes) : ∀ (k c : Nat) (bs : Bytes), bs.length ≤ 16 * k → (ctr rks iv k c bs).length = bs.length
  | 0, _, bs, h => by simp_all [ctr]
  | k + 1, c, bs, h => by
    have := ctr_length rks iv k (c + 1) (bs.drop 16) (by simp; omega)
    simp [ctr, this]; omega

/-- The counter mode undoes itself. -/
theorem ctr_ctr (rks : List Bytes) (iv : Bytes) : ∀ (k c : Nat) (bs : Bytes), bs.length ≤ 16 * k →
    ctr rks iv k c (ctr rks iv k c bs) = bs
  | 0, _, bs, h => by simp_all [ctr]
  | k + 1, c, bs, h => by
    have ih := ctr_ctr rks iv k (c + 1) (bs.drop 16) (by simp; omega)
    simp only [ctr]
    by_cases hb : 16 ≤ bs.length
    · rw [List.take_left' (by simp; omega), List.drop_left' (by simp; omega), ih, xorB_xorB, List.take_append_drop]
    · have hd : bs.drop 16 = [] := List.drop_eq_nil_of_le (by omega)
      have hn : ctr rks iv k (c + 1) [] = [] := List.eq_nil_of_length_eq_zero (by simpa using ctr_length rks iv k (c + 1) [] (by simp))
      rw [hd, hn, List.append_nil, List.take_of_length_le (by simp), List.drop_eq_nil_of_le (by simp), hn, List.append_nil, xorB_xorB,
        List.take_of_length_le (by omega)]

/-- A block count covers the length it is counted from. -/
theorem le_ceilDiv_mul (n : Nat) : n ≤ 16 * ceilDiv n 16 := by unfold ceilDiv; omega

/-- The ciphertext is as long as the plaintext. -/
@[simp] theorem gcmSeal_length (key : BitVec 256) (nonce aad pt : Bytes) : (gcmSeal key nonce aad pt).1.length = pt.length :=
  ctr_length _ _ _ _ _ (le_ceilDiv_mul _)

/-- A tag has 16 bytes. -/
@[simp] theorem gcmSeal_tag_length (key : BitVec 256) (nonce aad pt : Bytes) : (gcmSeal key nonce aad pt).2.length = 16 := by
  have leLen : ∀ n v, (leBytes n v).length = n := by
    intro n
    induction n with
    | zero => intro v; rfl
    | succ n ih => intro v; simp [leBytes, ih]
  simp [gcmSeal, gcmTag, beBytes, leLen]

/-- What was encrypted decrypts to itself, under the same key, nonce and additional data. -/
theorem gcmOpen_gcmSeal (key : BitVec 256) (nonce aad pt : Bytes) :
    gcmOpen key nonce aad (gcmSeal key nonce aad pt).1 (gcmSeal key nonce aad pt).2 = some pt := by
  have hl := gcmSeal_length key nonce aad pt
  simp only [gcmSeal] at hl ⊢
  simp only [gcmOpen, hl, if_true]
  rw [ctr_ctr _ _ _ _ _ (le_ceilDiv_mul _)]

end Sys2Proof.Crypto
end

