-- ==== Sys2Proof/Laws/Context.lean ====
section
/-!
SUPPORT. Sys2Proof/Laws/Context.lean: a connection's context in its table entry (R273, R274): its size, the entry that opens to it, and one
that does not.
-/

namespace Sys2Proof.Laws

open Sys2Proof.Machine Sys2Proof.Crypto

@[simp] theorem leBytes_length (n v : Nat) : (leBytes n v).length = n := by
  induction n generalizing v with
  | zero => rfl
  | succ n ih => simp [leBytes, ih]

/-- A context has 1,280 bytes (R273). -/
@[simp] theorem context_length (c : Conn) : c.context.length = 1280 := by
  simp [Conn.context, padTo, bitmap]

/-- An entry written for a context is authentic for it (R272, R274). -/
theorem ctxAuthentic_ctxEntry (w : Work) (id : Nat) (c : Conn) (nonce : Bytes) (h : nonce.length = 12) :
    w.ctxAuthentic id c (ctxEntry w.n.tp.ctxKey id nonce c.context) = true := by
  have hc := gcmSeal_length w.n.tp.ctxKey nonce (leBytes 4 id) c.context
  have ht := gcmSeal_tag_length w.n.tp.ctxKey nonce (leBytes 4 id) c.context
  have ho := gcmOpen_gcmSeal w.n.tp.ctxKey nonce (leBytes 4 id) c.context
  revert hc ht ho
  unfold Work.ctxAuthentic ctxEntry
  dsimp only
  generalize gcmSeal w.n.tp.ctxKey nonce (leBytes 4 id) c.context = r
  intro hc ht ho
  rw [context_length] at hc
  have h1 : sliceAt (padTo 2048 (nonce ++ r.1 ++ r.2)) 0 12 = nonce := by
    simp [sliceAt, padTo, h]
  have h2 : sliceAt (padTo 2048 (nonce ++ r.1 ++ r.2)) 12 1280 = r.1 := by
    rw [sliceAt, padTo, List.append_assoc, List.append_assoc, List.drop_left' h, List.take_left' hc]
  have h3 : sliceAt (padTo 2048 (nonce ++ r.1 ++ r.2)) 1292 16 = r.2 := by
    rw [sliceAt, padTo, List.append_assoc, List.drop_left' (by rw [List.length_append, h, hc]), List.take_left' ht]
  rw [h1, h2, h3]
  simpa using ho

/-- An entry that holds no tag is not authentic. -/
theorem ctxAuthentic_nil (w : Work) (id : Nat) (c : Conn) : w.ctxAuthentic id c [] = false := by
  have ht : ∀ rks nonce aad ct, gcmTag rks nonce aad ct ≠ [] := by
    intro rks nonce aad ct h
    have := congrArg List.length h
    simp [gcmTag, beBytes] at this
  simp [Work.ctxAuthentic, sliceAt, gcmOpen, ht]

end Sys2Proof.Laws
end

