-- ==== Sys2Proof/Laws/Memory.lean ====
section
/-!
SUPPORT. Sys2Proof/Laws/Memory.lean: memory and the register file: what a read finds after a write, and that every write keeps
the canonical form.
-/

namespace Sys2Proof.Laws

open Sys2Proof.Machine

/-! ## The canonical form -/

/-- Canonical memory: addresses strictly rise and no byte is zero. -/
theorem mem_wf_iff (m : Mem) : Mem.wf m = true ↔ m.Pairwise (fun c d => c.1 < d.1) ∧ ∀ c ∈ m, c.2 ≠ 0 := by
  induction m with
  | nil => simp [Mem.wf]
  | cons c r ih =>
    cases r with
    | nil => simp [Mem.wf]
    | cons d r =>
      simp only [Mem.wf, Bool.and_eq_true, decide_eq_true_eq, bne_iff_ne, ne_eq, ih, List.pairwise_cons, List.mem_cons,
        forall_eq_or_imp]
      constructor
      · rintro ⟨⟨h1, h2⟩, ⟨h3, h4⟩, h5, h6⟩
        exact ⟨⟨⟨h1, fun e he => h1.trans (h3 e he)⟩, h3, h4⟩, h2, h5, h6⟩
      · rintro ⟨⟨⟨h1, _⟩, h3, h4⟩, h2, h5, h6⟩
        exact ⟨⟨h1, h2⟩, ⟨h3, h4⟩, h5, h6⟩

/-- A canonical register file: keys strictly rise. -/
theorem regs_wf_iff (r : RegFile) : RegFile.wf r = true ↔ r.Pairwise (fun c d => c.1 < d.1) := by
  induction r with
  | nil => simp [RegFile.wf]
  | cons c r ih =>
    obtain ⟨a, u⟩ := c
    cases r with
    | nil => simp [RegFile.wf]
    | cons d r =>
      obtain ⟨b, v⟩ := d
      simp only [RegFile.wf, Bool.and_eq_true, decide_eq_true_eq, ih, List.pairwise_cons, List.mem_cons, forall_eq_or_imp]
      constructor
      · rintro ⟨h1, h3, h4⟩
        exact ⟨⟨h1, fun e he => h1.trans (h3 e he)⟩, h3, h4⟩
      · rintro ⟨⟨h1, _⟩, h3, h4⟩
        exact ⟨h1, h3, h4⟩

theorem mem_put_mem {m : Mem} {a : Nat} {b : Byte} {c : Host.Cell} (h : c ∈ Mem.put m a b) :
    (c = (a, b) ∧ b ≠ 0) ∨ c ∈ m := by
  induction m with
  | nil =>
    simp only [Mem.put] at h
    split at h <;> simp_all
  | cons d r ih =>
    obtain ⟨k, u⟩ := d
    simp only [Mem.put] at h
    split at h
    · split at h
      · exact .inr (List.mem_cons_of_mem _ h)
      · rcases List.mem_cons.1 h with h | h
        · exact .inl ⟨h, by assumption⟩
        · exact .inr (List.mem_cons_of_mem _ h)
    · split at h
      · split at h
        · exact .inr h
        · rcases List.mem_cons.1 h with h | h
          · exact .inl ⟨h, by assumption⟩
          · exact .inr h
      · rcases List.mem_cons.1 h with h | h
        · exact .inr (h ▸ List.mem_cons_self)
        · rcases ih h with h | h
          · exact .inl h
          · exact .inr (List.mem_cons_of_mem _ h)

/-- Writing a byte keeps the canonical form. -/
theorem mem_wf_put {m : Mem} (a : Nat) (b : Byte) (h : Mem.wf m = true) : Mem.wf (Mem.put m a b) = true := by
  rw [mem_wf_iff] at *
  refine ⟨?_, fun c hc => ?_⟩
  · obtain ⟨hp, -⟩ := h
    induction m with
    | nil => simp only [Mem.put]; split <;> simp
    | cons d r ih =>
      obtain ⟨k, u⟩ := d
      have hr := List.pairwise_cons.1 hp
      simp only [Mem.put]
      split
      · subst_vars
        split
        · exact hr.2
        · exact List.pairwise_cons.2 ⟨hr.1, hr.2⟩
      · split
        · split
          · exact hp
          · refine List.pairwise_cons.2 ⟨fun e he => ?_, hp⟩
            rcases List.mem_cons.1 he with rfl | he
            · assumption
            · exact lt_trans (by assumption) (hr.1 e he)
        · refine List.pairwise_cons.2 ⟨fun e he => ?_, ih hr.2⟩
          rcases mem_put_mem he with ⟨rfl, -⟩ | he
          · simp only; omega
          · exact hr.1 e he
  · rcases mem_put_mem hc with ⟨rfl, hb⟩ | hm
    · exact hb
    · exact h.2 c hm

theorem mem_wf_putAll {m : Mem} (a : Nat) (bs : Bytes) (h : Mem.wf m = true) : Mem.wf (Mem.putAll m a bs) = true := by
  induction bs generalizing m a with
  | nil => exact h
  | cons b bs ih => exact ih _ (mem_wf_put a b h)

theorem mem_wf_filter {m : Mem} (p : Host.Cell → Bool) (h : Mem.wf m = true) : Mem.wf (m.filter p) = true := by
  rw [mem_wf_iff] at *
  exact ⟨h.1.filter p, fun c hc => h.2 c (List.mem_of_mem_filter hc)⟩

/-- Zeroing a range keeps the canonical form. -/
theorem mem_wf_clear {m : Mem} (lo len : Nat) (h : Mem.wf m = true) : Mem.wf (Mem.clear m lo len) = true :=
  mem_wf_filter _ h

theorem mem_wf_apply {m : Mem} (o : MemOp) (h : Mem.wf m = true) : Mem.wf (Mem.apply m o) = true := by
  cases o with
  | put a bs => exact mem_wf_putAll a bs h
  | clear lo len => exact mem_wf_clear lo len h

theorem mem_wf_foldl {m : Mem} (l : List MemOp) (h : Mem.wf m = true) : Mem.wf (l.foldl Mem.apply m) = true := by
  induction l generalizing m with
  | nil => exact h
  | cons o l ih => exact ih (mem_wf_apply o h)

/-! ## Reads after writes -/

theorem mem_get_absent {m : Mem} {a : Nat} (h : ∀ c ∈ m, a < c.1) : Mem.get m a = 0 := by
  cases m with
  | nil => rfl
  | cons c r =>
    have hc := h c List.mem_cons_self
    simp only [Mem.get]
    rw [if_neg (by omega), if_pos hc]

/-- A read of the address written gives the byte written; every other address reads as before. -/
theorem mem_get_put {m : Mem} (hw : Mem.wf m = true) (a : Nat) (b : Byte) (x : Nat) :
    Mem.get (Mem.put m a b) x = if x = a then b else Mem.get m x := by
  rw [mem_wf_iff] at hw
  obtain ⟨hp, -⟩ := hw
  induction m with
  | nil =>
    simp only [Mem.put]
    split
    · rename_i h0; simp [Mem.get, h0]
    · simp only [Mem.get]; grind
  | cons d r ih =>
    obtain ⟨k, u⟩ := d
    have hr := List.pairwise_cons.1 hp
    have ih := ih hr.2
    have low : ∀ y, y ≤ k → Mem.get r y = 0 := fun y hy => mem_get_absent fun c hc => lt_of_le_of_lt hy (hr.1 c hc)
    simp only [Mem.put]
    split
    · subst_vars
      split
      · subst_vars
        have := low x
        simp only [Mem.get]; grind
      · simp only [Mem.get]; grind
    · split
      · split
        · subst_vars
          simp only [Mem.get]; grind
        · simp only [Mem.get]; grind
      · simp only [Mem.get, ih]; grind

theorem mem_get_putAll {m : Mem} (hw : Mem.wf m = true) (a : Nat) (bs : Bytes) (x : Nat) :
    Mem.get (Mem.putAll m a bs) x = if a ≤ x ∧ x < a + bs.length then bs.getD (x - a) 0 else Mem.get m x := by
  induction bs generalizing m a with
  | nil => simp [Mem.putAll]
  | cons b bs ih =>
    rw [Mem.putAll, ih (mem_wf_put a b hw), mem_get_put hw]
    by_cases h1 : a + 1 ≤ x ∧ x < a + 1 + bs.length
    · have h2 : a ≤ x ∧ x < a + (b :: bs).length := by simp; omega
      have h3 : x - a = (x - (a + 1)) + 1 := by omega
      rw [if_pos h1, if_pos h2, h3, List.getD_cons_succ]
    · rw [if_neg h1]
      by_cases h4 : x = a
      · subst h4; simp
      · rw [if_neg h4, if_neg (by simp only [List.length_cons]; omega)]

theorem mem_get_clear {m : Mem} (hw : Mem.wf m = true) (lo len x : Nat) :
    Mem.get (Mem.clear m lo len) x = if lo ≤ x ∧ x < lo + len then 0 else Mem.get m x := by
  rw [mem_wf_iff] at hw
  obtain ⟨hp, -⟩ := hw
  induction m with
  | nil => simp [Mem.clear, Mem.get]
  | cons d r ih =>
    obtain ⟨k, u⟩ := d
    have hr := List.pairwise_cons.1 hp
    have ih := ih hr.2
    simp only [Mem.clear] at ih
    have low : ∀ y, y ≤ k → Mem.get r y = 0 := fun y hy => mem_get_absent fun c hc => lt_of_le_of_lt hy (hr.1 c hc)
    simp only [Mem.clear, List.filter_cons, Bool.or_eq_true, decide_eq_true_eq]
    split
    · simp only [Mem.get, ih]; grind
    · rw [ih]; simp only [Mem.get]; grind

/-! ## The register file -/

theorem find_absent {r : RegFile} {x : Nat} (h : ∀ c ∈ r, x < c.1) : RegFile.find r x = none := by
  cases r with
  | nil => rfl
  | cons c r =>
    have hc := h c List.mem_cons_self
    simp only [RegFile.find]
    rw [if_neg (by omega), if_pos hc]

theorem put_mem {r : RegFile} {x v d : Nat} {c : Nat × Nat} (h : c ∈ RegFile.put r x v d) : c = (x, v) ∨ c ∈ r := by
  induction r with
  | nil =>
    simp only [RegFile.put] at h
    split at h <;> simp_all
  | cons e r ih =>
    obtain ⟨k, u⟩ := e
    simp only [RegFile.put] at h
    grind

/-- Writing a register keeps the keys strictly rising. -/
theorem regs_wf_put {r : RegFile} (x v d : Nat) (h : RegFile.wf r = true) : RegFile.wf (RegFile.put r x v d) = true := by
  rw [regs_wf_iff] at *
  induction r with
  | nil => simp only [RegFile.put]; split <;> simp
  | cons e r ih =>
    obtain ⟨k, u⟩ := e
    have hr := List.pairwise_cons.1 h
    simp only [RegFile.put]
    split
    · subst_vars
      split
      · exact hr.2
      · exact List.pairwise_cons.2 ⟨hr.1, hr.2⟩
    · split
      · split
        · exact h
        · refine List.pairwise_cons.2 ⟨fun e he => ?_, h⟩
          rcases List.mem_cons.1 he with rfl | he
          · assumption
          · exact lt_trans (by assumption) (hr.1 e he)
      · refine List.pairwise_cons.2 ⟨fun e he => ?_, ih hr.2⟩
        rcases put_mem he with rfl | he
        · simp only; omega
        · exact hr.1 e he

theorem regs_wf_foldl {r : RegFile} (l : List (Nat × Nat × Nat)) (h : RegFile.wf r = true) :
    RegFile.wf (l.foldl (fun r e => RegFile.put r e.1 e.2.1 e.2.2) r) = true := by
  induction l generalizing r with
  | nil => exact h
  | cons e l ih => exact ih (regs_wf_put _ _ _ h)

/-- A lookup of the key written finds the value written, or nothing where that is the reset value; every other key is as
before. -/
theorem find_put {r : RegFile} (hw : RegFile.wf r = true) (x v d y : Nat) :
    RegFile.find (RegFile.put r x v d) y = if y = x then (if v = d then none else some v) else RegFile.find r y := by
  rw [regs_wf_iff] at hw
  induction r with
  | nil => simp only [RegFile.put]; split <;> simp only [RegFile.find] <;> grind
  | cons e r ih =>
    obtain ⟨k, u⟩ := e
    have hr := List.pairwise_cons.1 hw
    have ih := ih hr.2
    have low : ∀ z, z ≤ k → RegFile.find r z = none := fun z hz => find_absent fun c hc => lt_of_le_of_lt hz (hr.1 c hc)
    simp only [RegFile.put]
    split
    · subst_vars
      split
      · have := low y
        simp only [RegFile.find]; grind
      · simp only [RegFile.find]; grind
    · split
      · split
        · simp only [RegFile.find]; grind
        · simp only [RegFile.find]; grind
      · simp only [RegFile.find, ih]; grind

/-- After writes have landed, a key holds what the newest write to it said, else what it held. -/
theorem find_foldl {r : RegFile} (hw : RegFile.wf r = true) (l : List (Nat × Nat × Nat)) (y : Nat) :
    RegFile.find (l.reverse.foldl (fun r e => RegFile.put r e.1 e.2.1 e.2.2) r) y =
      match l.find? (fun e => e.1 = y) with
      | some e => if e.2.1 = e.2.2 then none else some e.2.1
      | none => RegFile.find r y := by
  induction l with
  | nil => rfl
  | cons e l ih =>
    rw [List.reverse_cons, List.foldl_append, List.foldl_cons, List.foldl_nil, find_put (regs_wf_foldl _ hw), ih, List.find?_cons]
    by_cases h : e.1 = y
    · simp [h]
    · simp [h, Ne.symm h]

end Sys2Proof.Laws
end

