-- ==== Sys2Proof/Laws/Orders.lean ====
section
/-!
SUPPORT. Sys2Proof/Laws/Orders.lean: a management order that is well formed, addressed to the node and encrypted under the key in
force is the request that its header and body say (R466 to R470).
-/

namespace Sys2Proof.Laws

open Sys2Proof.Machine Sys2Proof.Safety
open Sys2Proof.Crypto (gcmSeal gcmSeal_length gcmSeal_tag_length gcmOpen_gcmSeal)

/-- A field that lies in the first of two byte strings. -/
theorem fieldAt_append (a b : Bytes) (off n : Nat) (h : off + n ≤ a.length) : fieldAt (a ++ b) off n = fieldAt a off n := by
  unfold fieldAt
  rw [List.drop_append_of_le_length (by omega), List.take_append_of_le_length (by rw [List.length_drop]; omega)]

/-- The header fields of R466 that a request under a key has, for a class of a node. -/
abbrev HeaderOk (s : State) (f : Frame) (hdr body : Bytes) (type : Nat) (cls : Fld) : Prop :=
  hdr.length = 32 ∧ fieldAt hdr 0xA 2 = body.length ∧ body.length ≤ 1452 ∧ fieldAt hdr 0 1 = 1 ∧ fieldAt hdr 1 1 = type ∧
  (fieldAt hdr 2 1 = 0 ∨ fieldAt hdr 2 1 = 4) ∧ fieldAt hdr 3 1 = 0 ∧ fieldAt hdr 0x10 8 = 0 ∧ fieldAt hdr 0x1A 6 = 0 ∧
  f.port < 2 ∧ rd s Reg.MG_LINK_UP f.port ≠ 0 ∧ rd s Reg.MG_EN f.port ≠ 0 ∧
  (fieldAt hdr 8 2 = s.view.nodeId ∨ (fieldAt hdr 8 2 = 0xFFFF ∧ rd s Reg.GLB_IDS_LOCKED = 0)) ∧
  fieldAt hdr 0x18 2 = rd s Reg.MG_MK_EPOCH f.port ∧ rd s cls f.port ≠ 0 ∧
  (∀ q ∈ s.node.mt.requesters, q.port = f.port → q.mac = f.mac → q.seq < fieldAt hdr 4 4)

/-- A frame encrypted under the key in force, with such a header, is an order. -/
theorem requestOf_sealed {s : State} {f : Frame} {type : Nat} {cls : Fld} {k : BitVec 256} {hdr body : Bytes}
    (hp : f.payload = hdr ++ ((gcmSeal k (mgNonce f.mac 0 f.port (fieldAt hdr 4 4)) hdr body).1 ++
      (gcmSeal k (mgNonce f.mac 0 f.port (fieldAt hdr 4 4)) hdr body).2))
    (hk : s.node.mt.key = some k) (ok : HeaderOk s f hdr body type cls) :
    requestOf s f type cls = some (MgReq.mk f.port f.mac type (fieldAt hdr 2 1) (fieldAt hdr 4 4) (fieldAt hdr 0xC 4) body false k (rd s Reg.MG_MK_EPOCH f.port)) := by
  obtain ⟨hl, h1, h2, h3, h4, h5, h6, h7, h8, h9, h10, h11, h12, h13, h14, h15⟩ := ok
  have hlen := gcmSeal_length k (mgNonce f.mac 0 f.port (fieldAt hdr 4 4)) hdr body
  have htag := gcmSeal_tag_length k (mgNonce f.mac 0 f.port (fieldAt hdr 4 4)) hdr body
  have hopen := gcmOpen_gcmSeal k (mgNonce f.mac 0 f.port (fieldAt hdr 4 4)) hdr body
  generalize gcmSeal k (mgNonce f.mac 0 f.port (fieldAt hdr 4 4)) hdr body = sl at *
  have fa : ∀ off n, off + n ≤ 32 → fieldAt f.payload off n = fieldAt hdr off n := fun off n h => by
    rw [hp]; exact fieldAt_append _ _ _ _ (by omega)
  have ht : f.payload.take 32 = hdr := by rw [hp]; exact List.take_left' hl
  have hd : f.payload.drop 32 = sl.1 ++ sl.2 := by rw [hp]; exact List.drop_left' hl
  have hb : (f.payload.drop 32).take body.length = sl.1 := by rw [hd]; exact List.take_left' hlen
  have hg : f.payload.drop (32 + sl.1.length) = sl.2 := by
    rw [← List.drop_drop, hd]; exact List.drop_left' rfl
  have hL : f.payload.length = 32 + body.length + 16 := by rw [hp]; simp [hl, hlen, htag]; omega
  have bit0 : bitOf (fieldAt hdr 2 1) 0 = false := by rcases h5 with h | h <;> rw [h] <;> decide
  have bit1 : bitOf (fieldAt hdr 2 1) 1 = false := by rcases h5 with h | h <;> rw [h] <;> decide
  have low : fieldAt hdr 2 1 < 8 := by omega
  have hf : frameOk f.payload = true := by
    simp [frameOk, fa, h1, h3, h6, h7, h8, bit0, bit1, low, hL, h2]
    omega
  unfold requestOf
  simp only [fa 2 1 (by omega), fa 8 2 (by omega), fa 0xA 2 (by omega), fa 4 4 (by omega), fa 1 1 (by omega), fa 0x18 2 (by omega),
    fa 0xC 4 (by omega), h1, hb, ht, hg, hf, bit1, hk, hopen]
  rw [if_pos ⟨h9, h10, h11, h4, trivial, h12, h13, h14, h15⟩]
  rfl

end Sys2Proof.Laws
end

