-- ==== Sys2Proof/WellFormed.lean ====
section
/-!
DEFINITION. Sys2Proof/WellFormed.lean: the ranges that the spec gives the operands of a command. A command outside them
names nothing of the node; `exec` leaves the node as it is for such a name, so no statement needs this as a hypothesis.
-/

namespace Sys2Proof

/-- A source names a connection (20-bit ID, R269) or one of 4,096 queues (R309). -/
def Src.wf : Src → Bool
  | .conn id _ => id < 2 ^ 20
  | .queue q _ => q < 4096

/-- A function: the physical function or VF 1 to 63 (R306). -/
def Fn.wf : Fn → Bool
  | .pf => true
  | .vf p => 1 ≤ p && p < 64

/-- A register write is aligned and lands in the 8 MiB of BAR0 (R308). -/
def RegWr.wf (w : RegWr) : Bool := w.fn.wf && w.off % 4 = 0 && w.off < 0x800000

/-- A half of one of 32 ports (R239). -/
def halfWf (port half : Nat) : Bool := port < 32 && half < 2

/-- A management frame: port A or B, a 48-bit MAC address (R466). -/
def Frame.wf (f : Frame) : Bool := f.port < 2 && f.mac < 2 ^ 48

/-- The operands of a command are in range. -/
def WellFormed : Instr → Bool
  | .openSession src d | .forkSession src d | .closeSession src d | .installConn src d | .rekeyConn src d
  | .removeConn src d | .regionCreate src d | .regionAdvance src d | .regionDestroy src d | .commitOp src d =>
    src.wf && d.length ≤ 1024
  | .appendRows src _ _ | .matchPrefix src _ | .publishBlocks src _ | .retractBlocks src _ | .pinBlocks src _
  | .unpinBlocks src _ | .attend src _ _ | .commitWaitExpired src => src.wf
  | .laneSignalDetect p h _ | .lanesConverged p h _ | .trainTimeout p h | .helloTimer p h
  | .helloTimeout p h | .codewordUncorrectable p h _ _ | .portUnitStart p h | .opticalRead p h _
  | .alignmentRound p h _ _ _ | .linkUnitReceived p h _ _ | .packetReceived p h _ => halfWf p h
  | .helloFlit p h f | .swapReq p h f | .swapAck p h f | .creditFlit p h f | .tickMark p h f _ =>
    halfWf p h && f.length = 64
  | .lanesDeskewed p x => halfWf p x.half
  | .hardLaneFailure p l => p < 32 && l < 9
  | .laneScan p l _ _ _ => p < 32 && l < 9
  | .budgetOrder f | .statusOrder f | .setMk f | .setIds f | .leaseOrder f | .fenceOrder f | .fenceMinOrder f
  | .takeoverOrder f | .reconcileOrder f | .adoptOrder f | .discardOrder f | .resetOrder f | .readReg f
  | .attestOrder f | .calRead f | .logRead f | .usageOrder f | .takenListOrder f | .imageWrite f | .debugToken f
  | .debugClear f => f.wf
  | .takeOffline w | .pgmFmtValid w | .spareMapWrite w | .codebookValid w | .weightLoad w | .xpdRetire w | .lpEnable w
  | .lpRetrain w | .forceSwap w | .tickSwitchWrite w | .tickLoad w | .shaperReconfigure w | .meterReconfigure w
  | .queueEnable w | .queueDisable w | .queueReset w | .partCreate w | .partStrike w | .installKey w | .fkekWrite w
  | .fkekLock w | .svnCommit w | .extGo w | .attGo w | .mirrorEnable w | .calWrite w | .glbIdLock w | .warmReset w
  | .mkWrite w | .softReset w | .freezeWrite w | .blkIsrClear w | .blkIset w | .blkIerWrite w | .registerWrite w => w.wf
  | .sqTail fn q _ | .cqHead fn q _ => fn.wf && q < 4096
  | .functionReset fn | .bar4Read fn _ _ _ | .bar4Write fn _ _ | .holdoffExpired fn _ | .latchingRegisterRead fn _ _
  | .msixUnmask fn _ => fn.wf
  | .clusterFault c _ _ | .clusterBufferUe c _ _ => c < 26
  | .keystoneBankRebuilt b => b < 66
  | .controlCoreFault c => c < 6
  | .droopTrip x => x.die < 2 && x.sensor < 16
  | .droopRelease d _ | .rowLanded d => d < 2
  | .managementLinkChange p _ => p < 2
  | .serdesclkLost c | .serdesclkReturn c => c < 4
  | .strikeDrainEnd p | .scrubComplete p | .strikePublish p | .mirrorBatchSend p _ | .sliceSeeded p _ | .mirrorAckLate p
  | .mirrorStreamLost p | .mirrorReseedTimer p | .regionDrainDone p _ | .collectorDeadline p _ => p < 64
  | _ => true

end Sys2Proof
end

