-- ==== Sys2Proof/Laws/PerInstr.lean ====
section
/-!
SUPPORT. Sys2Proof/Laws/PerInstr.lean: for each command, what being well formed says of the request source, the register write and the
management frame that it carries.
-/

namespace Sys2Proof.Laws.Carried

/-- The request source of a command. -/
def sourceOf : Instr → Option Src
  | .openSession x _ | .forkSession x _ | .closeSession x _ | .appendRows x _ _ | .matchPrefix x _
  | .publishBlocks x _ | .retractBlocks x _ | .pinBlocks x _ | .unpinBlocks x _ | .attend x _ _ | .installConn x _
  | .rekeyConn x _ | .removeConn x _ | .regionCreate x _ | .regionAdvance x _ | .regionDestroy x _ | .commitOp x _
  | .commitWaitExpired x => some x
  | _ => none

/-- The register write of a command. -/
def writeOf : Instr → Option RegWr
  | .takeOffline x | .pgmFmtValid x | .spareMapWrite x | .codebookValid x | .weightLoad x | .xpdRetire x
  | .lpEnable x | .lpRetrain x | .forceSwap x | .tickSwitchWrite x | .tickLoad x | .shaperReconfigure x
  | .meterReconfigure x | .queueEnable x | .queueDisable x | .queueReset x | .partCreate x | .partStrike x
  | .installKey x | .fkekWrite x | .fkekLock x | .svnCommit x | .extGo x | .attGo x | .mirrorEnable x | .calWrite x
  | .glbIdLock x | .warmReset x | .mkWrite x | .softReset x | .freezeWrite x | .blkIsrClear x | .blkIset x
  | .blkIerWrite x | .registerWrite x => some x
  | _ => none

/-- The management frame of a command. -/
def frameOf : Instr → Option Frame
  | .budgetOrder x | .statusOrder x | .setMk x | .setIds x | .leaseOrder x | .fenceOrder x | .fenceMinOrder x
  | .takeoverOrder x | .reconcileOrder x | .adoptOrder x | .discardOrder x | .resetOrder x | .readReg x
  | .attestOrder x | .calRead x | .logRead x | .usageOrder x | .takenListOrder x | .imageWrite x | .debugToken x
  | .debugClear x => some x
  | _ => none

/-- A well-formed command carries a source, a write and a frame in range. -/
def Statement (i : Instr) : Prop :=
  WellFormed i = true → (∀ x ∈ sourceOf i, x.wf = true) ∧ (∀ x ∈ writeOf i, x.wf = true) ∧ ∀ x ∈ frameOf i, x.wf = true

theorem of_none {i : Instr} (hs : sourceOf i = none) (hw : writeOf i = none) (hf : frameOf i = none) : Statement i :=
  fun _ => by simp [hs, hw, hf]

theorem of_source {i : Instr} (x : Src) (hs : sourceOf i = some x) (hw : writeOf i = none) (hf : frameOf i = none)
    (h : WellFormed i = true → x.wf = true) : Statement i :=
  fun w => by simpa [hs, hw, hf] using h w

theorem of_write {i : Instr} (x : RegWr) (hs : sourceOf i = none) (hw : writeOf i = some x) (hf : frameOf i = none)
    (h : WellFormed i = true → x.wf = true) : Statement i :=
  fun w => by simpa [hs, hw, hf] using h w

theorem of_frame {i : Instr} (x : Frame) (hs : sourceOf i = none) (hw : writeOf i = none) (hf : frameOf i = some x)
    (h : WellFormed i = true → x.wf = true) : Statement i :=
  fun w => by simpa [hs, hw, hf] using h w

theorem tickBoundary : Statement .tickBoundary := of_none rfl rfl rfl
theorem computeCutoff : Statement .computeCutoff := of_none rfl rfl rfl
theorem egressPhase : Statement .egressPhase := of_none rfl rfl rfl
theorem retryPass : Statement .retryPass := of_none rfl rfl rfl
theorem lendPoint : Statement .lendPoint := of_none rfl rfl rfl
theorem splTickDecision : Statement .splTickDecision := of_none rfl rfl rfl
theorem heatDecay : Statement .heatDecay := of_none rfl rfl rfl
theorem moveCopyDone (mv : Nat) (res : CopyResult) : Statement (.moveCopyDone mv res) := of_none rfl rfl rfl
theorem moveCommit (mv : Nat) : Statement (.moveCommit mv) := of_none rfl rfl rfl
theorem tailPageCopyDone (read : TailRead) : Statement (.tailPageCopyDone read) := of_none rfl rfl rfl
theorem hbmUncorrectableError (addr : Nat) : Statement (.hbmUncorrectableError addr) := of_none rfl rfl rfl
theorem ddrUncorrectableError (loss : DdrLoss) : Statement (.ddrUncorrectableError loss) := of_none rfl rfl rfl
theorem systemAreaError (stack off : Nat) : Statement (.systemAreaError stack off) := of_none rfl rfl rfl
theorem scrubCorrected (loc : ScrubAt) : Statement (.scrubCorrected loc) := of_none rfl rfl rfl
theorem takeOffline (w : RegWr) : Statement (.takeOffline w) := of_write w rfl rfl rfl id
theorem pgmFmtValid (w : RegWr) : Statement (.pgmFmtValid w) := of_write w rfl rfl rfl id
theorem openSession (src : Src) (desc : Bytes) : Statement (.openSession src desc) := of_source src rfl rfl rfl fun h => (Bool.and_eq_true_iff.mp h).1
theorem forkSession (src : Src) (desc : Bytes) : Statement (.forkSession src desc) := of_source src rfl rfl rfl fun h => (Bool.and_eq_true_iff.mp h).1
theorem forkCopiesLanded (child : Nat) : Statement (.forkCopiesLanded child) := of_none rfl rfl rfl
theorem closeSession (src : Src) (desc : Bytes) : Statement (.closeSession src desc) := of_source src rfl rfl rfl fun h => (Bool.and_eq_true_iff.mp h).1
theorem sessionCloseComplete (idx : Nat) : Statement (.sessionCloseComplete idx) := of_none rfl rfl rfl
theorem appendRows (src : Src) (payload : Bytes) (at_ : Nat) : Statement (.appendRows src payload at_) := of_source src rfl rfl rfl id
theorem rowLanded (die : Nat) : Statement (.rowLanded die) := of_none rfl rfl rfl
theorem matchPrefix (src : Src) (payload : Bytes) : Statement (.matchPrefix src payload) := of_source src rfl rfl rfl id
theorem publishBlocks (src : Src) (payload : Bytes) : Statement (.publishBlocks src payload) := of_source src rfl rfl rfl id
theorem retractBlocks (src : Src) (payload : Bytes) : Statement (.retractBlocks src payload) := of_source src rfl rfl rfl id
theorem pinBlocks (src : Src) (payload : Bytes) : Statement (.pinBlocks src payload) := of_source src rfl rfl rfl id
theorem unpinBlocks (src : Src) (payload : Bytes) : Statement (.unpinBlocks src payload) := of_source src rfl rfl rfl id
theorem prefixOpStart : Statement .prefixOpStart := of_none rfl rfl rfl
theorem prefixOpComplete : Statement .prefixOpComplete := of_none rfl rfl rfl
theorem parityScan : Statement .parityScan := of_none rfl rfl rfl
theorem keystoneBankRebuilt (bank : Nat) : Statement (.keystoneBankRebuilt bank) := of_none rfl rfl rfl
theorem spareMapWrite (w : RegWr) : Statement (.spareMapWrite w) := of_write w rfl rfl rfl id
theorem clusterSwapEffect : Statement .clusterSwapEffect := of_none rfl rfl rfl
theorem clusterFault (cluster : Nat) (cause : Nat) (bufOff : Nat) : Statement (.clusterFault cluster cause bufOff) := of_none rfl rfl rfl
theorem clusterBufferUe (cluster : Nat) (bufOff : Nat) (hit : BufHit) : Statement (.clusterBufferUe cluster bufOff hit) := of_none rfl rfl rfl
theorem controlCoreFault (core : Nat) : Statement (.controlCoreFault core) := of_none rfl rfl rfl
theorem clusterPass (slot : Nat) (work : List PassItem) : Statement (.clusterPass slot work) := of_none rfl rfl rfl
theorem resultPortTransfer (slot : Nat) : Statement (.resultPortTransfer slot) := of_none rfl rfl rfl
theorem codebookValid (w : RegWr) : Statement (.codebookValid w) := of_write w rfl rfl rfl id
theorem weightLoad (w : RegWr) : Statement (.weightLoad w) := of_write w rfl rfl rfl id
theorem weightLoadDone : Statement .weightLoadDone := of_none rfl rfl rfl
theorem attend (src : Src) (payload : Bytes) (at_ : Nat) : Statement (.attend src payload at_) := of_source src rfl rfl rfl id
theorem partialRecord (msg : MsgRef) (record : Bytes) : Statement (.partialRecord msg record) := of_none rfl rfl rfl
theorem creditRecord (msg : MsgRef) (record : Bytes) : Statement (.creditRecord msg record) := of_none rfl rfl rfl
theorem cancelRecord (msg : MsgRef) (record : Bytes) : Statement (.cancelRecord msg record) := of_none rfl rfl rfl
theorem collectorDeadline (part : Nat) (group : Nat) : Statement (.collectorDeadline part group) := of_none rfl rfl rfl
theorem creditWaitExpired (held : Nat) : Statement (.creditWaitExpired held) := of_none rfl rfl rfl
theorem earlyWaitExpired (early : Nat) : Statement (.earlyWaitExpired early) := of_none rfl rfl rfl
theorem compressorBlockEmitted (die : Nat) (job : CmpJob) (blk : Nat) (bytes : Bytes) (corrupt : Bool) : Statement (.compressorBlockEmitted die job blk bytes corrupt) := of_none rfl rfl rfl
theorem blockDecodeDone (inst : Nat) (job : DecodeJob) (upset : Option Nat) : Statement (.blockDecodeDone inst job upset) := of_none rfl rfl rfl
theorem xpdRetire (w : RegWr) : Statement (.xpdRetire w) := of_write w rfl rfl rfl id
theorem lpEnable (w : RegWr) : Statement (.lpEnable w) := of_write w rfl rfl rfl id
theorem lpRetrain (w : RegWr) : Statement (.lpRetrain w) := of_write w rfl rfl rfl id
theorem forceSwap (w : RegWr) : Statement (.forceSwap w) := of_write w rfl rfl rfl id
theorem laneSignalDetect (port : Nat) (half : Nat) (lanes : Nat) : Statement (.laneSignalDetect port half lanes) := of_none rfl rfl rfl
theorem lanesConverged (port : Nat) (half : Nat) (failed : Option Nat) : Statement (.lanesConverged port half failed) := of_none rfl rfl rfl
theorem trainTimeout (port : Nat) (half : Nat) : Statement (.trainTimeout port half) := of_none rfl rfl rfl
theorem lanesDeskewed (port : Nat) (seen : SeenBlocks) : Statement (.lanesDeskewed port seen) := of_none rfl rfl rfl
theorem helloFlit (port : Nat) (half : Nat) (flit : Bytes) : Statement (.helloFlit port half flit) := of_none rfl rfl rfl
theorem helloTimer (port : Nat) (half : Nat) : Statement (.helloTimer port half) := of_none rfl rfl rfl
theorem helloTimeout (port : Nat) (half : Nat) : Statement (.helloTimeout port half) := of_none rfl rfl rfl
theorem hardLaneFailure (port : Nat) (lane : Nat) : Statement (.hardLaneFailure port lane) := of_none rfl rfl rfl
theorem alignmentRound (port : Nat) (half : Nat) (blocks : List AlignBlock) (corrected : List Nat) (spareOk : Bool) : Statement (.alignmentRound port half blocks corrected spareOk) := of_none rfl rfl rfl
theorem swapReq (port : Nat) (half : Nat) (flit : Bytes) : Statement (.swapReq port half flit) := of_none rfl rfl rfl
theorem swapAck (port : Nat) (half : Nat) (flit : Bytes) : Statement (.swapAck port half flit) := of_none rfl rfl rfl
theorem linkUnitReceived (port : Nat) (half : Nat) (words : List LaneWord) (first : Nat) : Statement (.linkUnitReceived port half words first) := of_none rfl rfl rfl
theorem codewordUncorrectable (port : Nat) (half : Nat) (word : BadWord) (units : Nat) : Statement (.codewordUncorrectable port half word units) := of_none rfl rfl rfl
theorem creditFlit (port : Nat) (half : Nat) (flit : Bytes) : Statement (.creditFlit port half flit) := of_none rfl rfl rfl
theorem tickMark (port : Nat) (half : Nat) (flit : Bytes) (arrive : Int) : Statement (.tickMark port half flit arrive) := of_none rfl rfl rfl
theorem tickSourceLost (why : SourceLoss) : Statement (.tickSourceLost why) := of_none rfl rfl rfl
theorem tickSwitchWrite (w : RegWr) : Statement (.tickSwitchWrite w) := of_write w rfl rfl rfl id
theorem periodSwitch : Statement .periodSwitch := of_none rfl rfl rfl
theorem tickLoad (w : RegWr) : Statement (.tickLoad w) := of_write w rfl rfl rfl id
theorem tickInEdge (dev : Int) : Statement (.tickInEdge dev) := of_none rfl rfl rfl
theorem tickInLost : Statement .tickInLost := of_none rfl rfl rfl
theorem installConn (src : Src) (desc : Bytes) : Statement (.installConn src desc) := of_source src rfl rfl rfl fun h => (Bool.and_eq_true_iff.mp h).1
theorem rekeyConn (src : Src) (desc : Bytes) : Statement (.rekeyConn src desc) := of_source src rfl rfl rfl fun h => (Bool.and_eq_true_iff.mp h).1
theorem removeConn (src : Src) (desc : Bytes) : Statement (.removeConn src desc) := of_source src rfl rfl rfl fun h => (Bool.and_eq_true_iff.mp h).1
theorem rekeyOverlapExpired (conn : Nat) : Statement (.rekeyOverlapExpired conn) := of_none rfl rfl rfl
theorem connectionFreed (conn : Nat) : Statement (.connectionFreed conn) := of_none rfl rfl rfl
theorem contextFetchDone (conn : Nat) (entry : Bytes) : Statement (.contextFetchDone conn entry) := of_none rfl rfl rfl
theorem packetReceived (port : Nat) (half : Nat) (packet : Bytes) : Statement (.packetReceived port half packet) := of_none rfl rfl rfl
theorem writeOp (pkt : MsgPart) : Statement (.writeOp pkt) := of_none rfl rfl rfl
theorem readOp (pkt : MsgPart) : Statement (.readOp pkt) := of_none rfl rfl rfl
theorem casOp (pkt : MsgPart) : Statement (.casOp pkt) := of_none rfl rfl rfl
theorem sendHostQueue (conn : Nat) (msn : Nat) (queue : Nat) (bytes : Bytes) : Statement (.sendHostQueue conn msn queue bytes) := of_none rfl rfl rfl
theorem strikeNotice (conn : Nat) (msn : Nat) (bytes : Bytes) : Statement (.strikeNotice conn msn bytes) := of_none rfl rfl rfl
theorem fenceOp (conn : Nat) (msn : Nat) (bytes : Bytes) : Statement (.fenceOp conn msn bytes) := of_none rfl rfl rfl
theorem noticeOp (conn : Nat) (msn : Nat) (bytes : Bytes) : Statement (.noticeOp conn msn bytes) := of_none rfl rfl rfl
theorem responseOp (pkt : MsgPart) : Statement (.responseOp pkt) := of_none rfl rfl rfl
theorem ackOp (conn : Nat) (bytes : Bytes) : Statement (.ackOp conn bytes) := of_none rfl rfl rfl
theorem ackDelayExpired (conn : Nat) : Statement (.ackDelayExpired conn) := of_none rfl rfl rfl
theorem reorderExpired (conn : Nat) (psn : Nat) : Statement (.reorderExpired conn psn) := of_none rfl rfl rfl
theorem rtoExpired (conn : Nat) (psn : Nat) : Statement (.rtoExpired conn psn) := of_none rfl rfl rfl
theorem probeExpired (conn : Nat) (msn : Nat) : Statement (.probeExpired conn msn) := of_none rfl rfl rfl
theorem regionCreate (src : Src) (desc : Bytes) : Statement (.regionCreate src desc) := of_source src rfl rfl rfl fun h => (Bool.and_eq_true_iff.mp h).1
theorem regionAdvance (src : Src) (desc : Bytes) : Statement (.regionAdvance src desc) := of_source src rfl rfl rfl fun h => (Bool.and_eq_true_iff.mp h).1
theorem regionDestroy (src : Src) (desc : Bytes) : Statement (.regionDestroy src desc) := of_source src rfl rfl rfl fun h => (Bool.and_eq_true_iff.mp h).1
theorem regionDrainDone (part : Nat) (index : Nat) : Statement (.regionDrainDone part index) := of_none rfl rfl rfl
theorem schedulerDecision : Statement .schedulerDecision := of_none rfl rfl rfl
theorem portUnitStart (port : Nat) (half : Nat) : Statement (.portUnitStart port half) := of_none rfl rfl rfl
theorem shaperReconfigure (w : RegWr) : Statement (.shaperReconfigure w) := of_write w rfl rfl rfl id
theorem meterReconfigure (w : RegWr) : Statement (.meterReconfigure w) := of_write w rfl rfl rfl id
theorem queueEnable (w : RegWr) : Statement (.queueEnable w) := of_write w rfl rfl rfl id
theorem queueDisable (w : RegWr) : Statement (.queueDisable w) := of_write w rfl rfl rfl id
theorem queueReset (w : RegWr) : Statement (.queueReset w) := of_write w rfl rfl rfl id
theorem queueDrained (q : Nat) : Statement (.queueDrained q) := of_none rfl rfl rfl
theorem sqTail (fn : Fn) (q : Nat) (value : Nat) : Statement (.sqTail fn q value) := of_none rfl rfl rfl
theorem cqHead (fn : Fn) (q : Nat) (value : Nat) : Statement (.cqHead fn q value) := of_none rfl rfl rfl
theorem sqEntryFetched (q : Nat) (entry : Option Bytes) : Statement (.sqEntryFetched q entry) := of_none rfl rfl rfl
theorem hostSession (q : Nat) (entry : Nat) (payload : Option Bytes) : Statement (.hostSession q entry payload) := of_none rfl rfl rfl
theorem hostAttend (q : Nat) (entry : Nat) (payload : Option Bytes) (at_ : Nat) : Statement (.hostAttend q entry payload at_) := of_none rfl rfl rfl
theorem hostAppend (q : Nat) (entry : Nat) (payload : Option Bytes) (at_ : Nat) : Statement (.hostAppend q entry payload at_) := of_none rfl rfl rfl
theorem hostConn (q : Nat) (entry : Nat) (payload : Option Bytes) : Statement (.hostConn q entry payload) := of_none rfl rfl rfl
theorem hostRegion (q : Nat) (entry : Nat) (payload : Option Bytes) : Statement (.hostRegion q entry payload) := of_none rfl rfl rfl
theorem hostMsg (q : Nat) (entry : Nat) (payload : Option Bytes) : Statement (.hostMsg q entry payload) := of_none rfl rfl rfl
theorem hostCopy (q : Nat) (entry : Nat) (payload : Option Bytes) : Statement (.hostCopy q entry payload) := of_none rfl rfl rfl
theorem hostRecv (q : Nat) (entry : Nat) : Statement (.hostRecv q entry) := of_none rfl rfl rfl
theorem hostNop (q : Nat) (entry : Nat) : Statement (.hostNop q entry) := of_none rfl rfl rfl
theorem waitTicksExpired (q : Nat) (entry : Nat) : Statement (.waitTicksExpired q entry) := of_none rfl rfl rfl
theorem coalNsExpired (q : Nat) : Statement (.coalNsExpired q) := of_none rfl rfl rfl
theorem functionReset (fn : Fn) : Statement (.functionReset fn) := of_none rfl rfl rfl
theorem perstAssert : Statement .perstAssert := of_none rfl rfl rfl
theorem busMasterEnableChange (on : Bool) : Statement (.busMasterEnableChange on) := of_none rfl rfl rfl
theorem bar4Read (fn : Fn) (off : Nat) (len : Nat) (uncorrectable : Bool) : Statement (.bar4Read fn off len uncorrectable) := of_none rfl rfl rfl
theorem bar4Write (fn : Fn) (off : Nat) (bytes : Bytes) : Statement (.bar4Write fn off bytes) := of_none rfl rfl rfl
theorem partCreate (w : RegWr) : Statement (.partCreate w) := of_write w rfl rfl rfl id
theorem partStrike (w : RegWr) : Statement (.partStrike w) := of_write w rfl rfl rfl id
theorem installKey (w : RegWr) : Statement (.installKey w) := of_write w rfl rfl rfl id
theorem strikeDrainEnd (part : Nat) : Statement (.strikeDrainEnd part) := of_none rfl rfl rfl
theorem scrubComplete (part : Nat) : Statement (.scrubComplete part) := of_none rfl rfl rfl
theorem strikePublish (part : Nat) : Statement (.strikePublish part) := of_none rfl rfl rfl
theorem fkekWrite (w : RegWr) : Statement (.fkekWrite w) := of_write w rfl rfl rfl id
theorem fkekLock (w : RegWr) : Statement (.fkekLock w) := of_write w rfl rfl rfl id
theorem svnCommit (w : RegWr) : Statement (.svnCommit w) := of_write w rfl rfl rfl id
theorem extGo (w : RegWr) : Statement (.extGo w) := of_write w rfl rfl rfl id
theorem attGo (w : RegWr) : Statement (.attGo w) := of_write w rfl rfl rfl id
theorem attestReportWritten : Statement .attestReportWritten := of_none rfl rfl rfl
theorem mirrorEnable (w : RegWr) : Statement (.mirrorEnable w) := of_write w rfl rfl rfl id
theorem mirrorBatchSend (part : Nat) (blocks : List (Nat × Bytes)) : Statement (.mirrorBatchSend part blocks) := of_none rfl rfl rfl
theorem mirrorOp (conn : Nat) (msn : Nat) (head body : Bytes) : Statement (.mirrorOp conn msn head body) := of_none rfl rfl rfl
theorem sliceSeeded (part : Nat) (cid : DWord) : Statement (.sliceSeeded part cid) := of_none rfl rfl rfl
theorem mirrorAckLate (part : Nat) : Statement (.mirrorAckLate part) := of_none rfl rfl rfl
theorem mirrorStreamLost (part : Nat) : Statement (.mirrorStreamLost part) := of_none rfl rfl rfl
theorem mirrorReseedTimer (part : Nat) : Statement (.mirrorReseedTimer part) := of_none rfl rfl rfl
theorem restoreFetchSend (course : Nat) : Statement (.restoreFetchSend course) := of_none rfl rfl rfl
theorem commitOp (src : Src) (desc : Bytes) : Statement (.commitOp src desc) := of_source src rfl rfl rfl fun h => (Bool.and_eq_true_iff.mp h).1
theorem commitWaitExpired (src : Src) : Statement (.commitWaitExpired src) := of_source src rfl rfl rfl id
theorem homeWaitExpired (session : Nat) : Statement (.homeWaitExpired session) := of_none rfl rfl rfl
theorem leaseExpired : Statement .leaseExpired := of_none rfl rfl rfl
theorem orphanTimeout (session : Nat) : Statement (.orphanTimeout session) := of_none rfl rfl rfl
theorem powerEstimate (counts0 : List Nat) (counts1 : List Nat) (temps : List Int) : Statement (.powerEstimate counts0 counts1 temps) := of_none rfl rfl rfl
theorem telemetryTrim (readings : List PmbReading) : Statement (.telemetryTrim readings) := of_none rfl rfl rfl
theorem hbmTempRead (temps : List Int) : Statement (.hbmTempRead temps) := of_none rfl rfl rfl
theorem droopTrip (sense : DroopSense) : Statement (.droopTrip sense) := of_none rfl rfl rfl
theorem thermtrip : Statement .thermtrip := of_none rfl rfl rfl
theorem laneScan (port : Nat) (lane : Nat) (v : Nat) (h : Nat) (berCl : Nat) : Statement (.laneScan port lane v h berCl) := of_none rfl rfl rfl
theorem opticalRead (port : Nat) (half : Nat) (reading : Option (Int × Int)) : Statement (.opticalRead port half reading) := of_none rfl rfl rfl
theorem calWrite (w : RegWr) : Statement (.calWrite w) := of_write w rfl rfl rfl id
theorem calWriteDone (programmed : Bool) : Statement (.calWriteDone programmed) := of_none rfl rfl rfl
theorem budgetOrder (f : Frame) : Statement (.budgetOrder f) := of_frame f rfl rfl rfl id
theorem budgetExpired : Statement .budgetExpired := of_none rfl rfl rfl
theorem pwrgoodRise (bootSel : Nat) (mgtSel : Bool) (testMode : Bool) : Statement (.pwrgoodRise bootSel mgtSel testMode) := of_none rfl rfl rfl
theorem pwrgoodFall (ns : Nat) : Statement (.pwrgoodFall ns) := of_none rfl rfl rfl
theorem bootImageVerified (image : Nat) : Statement (.bootImageVerified image) := of_none rfl rfl rfl
theorem d2dTrained (ok : Bool) : Statement (.d2dTrained ok) := of_none rfl rfl rfl
theorem ddrTrainingDone (chans : List DdrChan) : Statement (.ddrTrainingDone chans) := of_none rfl rfl rfl
theorem hbmRoundDone (failed : List Nat) : Statement (.hbmRoundDone failed) := of_none rfl rfl rfl
theorem selftestDone (part : TestPart) (bad : List BadUnit) : Statement (.selftestDone part bad) := of_none rfl rfl rfl
theorem readyReached : Statement .readyReached := of_none rfl rfl rfl
theorem promotionBoundary : Statement .promotionBoundary := of_none rfl rfl rfl
theorem glbIdLock (w : RegWr) : Statement (.glbIdLock w) := of_write w rfl rfl rfl id
theorem warmReset (w : RegWr) : Statement (.warmReset w) := of_write w rfl rfl rfl id
theorem watchdogExpired (core : Nat) : Statement (.watchdogExpired core) := of_none rfl rfl rfl
theorem serdesclkLost (clk : Nat) : Statement (.serdesclkLost clk) := of_none rfl rfl rfl
theorem pcieRefclkLost : Statement .pcieRefclkLost := of_none rfl rfl rfl
theorem sysclkLost : Statement .sysclkLost := of_none rfl rfl rfl
theorem d2dDegraded (lost : Bool) : Statement (.d2dDegraded lost) := of_none rfl rfl rfl
theorem statusOrder (f : Frame) : Statement (.statusOrder f) := of_frame f rfl rfl rfl id
theorem setMk (f : Frame) : Statement (.setMk f) := of_frame f rfl rfl rfl id
theorem setIds (f : Frame) : Statement (.setIds f) := of_frame f rfl rfl rfl id
theorem leaseOrder (f : Frame) : Statement (.leaseOrder f) := of_frame f rfl rfl rfl id
theorem fenceOrder (f : Frame) : Statement (.fenceOrder f) := of_frame f rfl rfl rfl id
theorem fenceMinOrder (f : Frame) : Statement (.fenceMinOrder f) := of_frame f rfl rfl rfl id
theorem takeoverOrder (f : Frame) : Statement (.takeoverOrder f) := of_frame f rfl rfl rfl id
theorem reconcileOrder (f : Frame) : Statement (.reconcileOrder f) := of_frame f rfl rfl rfl id
theorem adoptOrder (f : Frame) : Statement (.adoptOrder f) := of_frame f rfl rfl rfl id
theorem discardOrder (f : Frame) : Statement (.discardOrder f) := of_frame f rfl rfl rfl id
theorem resetOrder (f : Frame) : Statement (.resetOrder f) := of_frame f rfl rfl rfl id
theorem readReg (f : Frame) : Statement (.readReg f) := of_frame f rfl rfl rfl id
theorem attestOrder (f : Frame) : Statement (.attestOrder f) := of_frame f rfl rfl rfl id
theorem calRead (f : Frame) : Statement (.calRead f) := of_frame f rfl rfl rfl id
theorem logRead (f : Frame) : Statement (.logRead f) := of_frame f rfl rfl rfl id
theorem usageOrder (f : Frame) : Statement (.usageOrder f) := of_frame f rfl rfl rfl id
theorem takenListOrder (f : Frame) : Statement (.takenListOrder f) := of_frame f rfl rfl rfl id
theorem imageWrite (f : Frame) : Statement (.imageWrite f) := of_frame f rfl rfl rfl id
theorem imageStreamIdle : Statement .imageStreamIdle := of_none rfl rfl rfl
theorem debugToken (f : Frame) : Statement (.debugToken f) := of_frame f rfl rfl rfl id
theorem debugClear (f : Frame) : Statement (.debugClear f) := of_frame f rfl rfl rfl id
theorem mkWrite (w : RegWr) : Statement (.mkWrite w) := of_write w rfl rfl rfl id
theorem usageSample : Statement .usageSample := of_none rfl rfl rfl
theorem usageStatementClose : Statement .usageStatementClose := of_none rfl rfl rfl
theorem softReset (w : RegWr) : Statement (.softReset w) := of_write w rfl rfl rfl id
theorem freezeWrite (w : RegWr) : Statement (.freezeWrite w) := of_write w rfl rfl rfl id
theorem blkIsrClear (w : RegWr) : Statement (.blkIsrClear w) := of_write w rfl rfl rfl id
theorem blkIset (w : RegWr) : Statement (.blkIset w) := of_write w rfl rfl rfl id
theorem blkIerWrite (w : RegWr) : Statement (.blkIerWrite w) := of_write w rfl rfl rfl id
theorem holdoffExpired (fn : Fn) (vector : Nat) : Statement (.holdoffExpired fn vector) := of_none rfl rfl rfl
theorem registerWrite (w : RegWr) : Statement (.registerWrite w) := of_write w rfl rfl rfl id
theorem managementLinkChange (port : Nat) (up : Bool) : Statement (.managementLinkChange port up) := of_none rfl rfl rfl
theorem perstRelease : Statement .perstRelease := of_none rfl rfl rfl
theorem pcieLinkTrained (speed : Nat) (width : Nat) : Statement (.pcieLinkTrained speed width) := of_none rfl rfl rfl
theorem serdesclkReturn (clk : Nat) : Statement (.serdesclkReturn clk) := of_none rfl rfl rfl
theorem pcieRefclkReturn : Statement .pcieRefclkReturn := of_none rfl rfl rfl
theorem droopRelease (die : Nat) (cycles : Nat) : Statement (.droopRelease die cycles) := of_none rfl rfl rfl
theorem watchdogWarning : Statement .watchdogWarning := of_none rfl rfl rfl
theorem watchdogWarmReset : Statement .watchdogWarmReset := of_none rfl rfl rfl
theorem latchingRegisterRead (fn : Fn) (place : ReadAt) (len : Nat) : Statement (.latchingRegisterRead fn place len) := of_none rfl rfl rfl
theorem msixUnmask (fn : Fn) (vector : Nat) : Statement (.msixUnmask fn vector) := of_none rfl rfl rfl
theorem sriovVfEnable (num : Nat) : Statement (.sriovVfEnable num) := of_none rfl rfl rfl

end Sys2Proof.Laws.Carried
end

