-- ==== Sys2Proof/Laws/State.lean ====
section
/-!
SUPPORT. Sys2Proof/Laws/State.lean: one lemma per field and update of the state and of a command's view, and what a state shows
once a command's writes have landed.
-/

namespace Sys2Proof.Laws

open Sys2Proof.Machine Sys2Proof.Safety

/-! ## The view of a state -/

@[simp] theorem view_n (s : State) : s.view.n = s.node := rfl
@[simp] theorem view_regs (s : State) : s.view.regs = s.regs := rfl
@[simp] theorem view_rw (s : State) : s.view.rw = [] := rfl
@[simp] theorem view_mem (s : State) : s.view.mem = s.mem := rfl
@[simp] theorem view_wr (s : State) : s.view.wr = [] := rfl
@[simp] theorem view_wiped (s : State) : s.view.wiped = false := rfl
@[simp] theorem view_svn (s : State) : s.view.svn = s.svnFuse := rfl
@[simp] theorem view_ppr (s : State) : s.view.ppr = s.pprRows := rfl

/-! ## The end of a command -/

@[simp] theorem close_node (s : State) (w : Work) : (s.close w).node = w.n := rfl
@[simp] theorem close_pending (s : State) (w : Work) : (s.close w).pending = s.pending := rfl
@[simp] theorem close_svnFuse (s : State) (w : Work) : (s.close w).svnFuse = max s.svnFuse w.svn := rfl
@[simp] theorem close_pprRows (s : State) (w : Work) : (s.close w).pprRows = w.ppr := rfl

theorem close_regs (s : State) (w : Work) : (s.close w).regs =
    w.rw.reverse.foldl (fun r e => RegFile.put r e.1 e.2.1 e.2.2) (if w.wiped then [] else s.regs) := rfl

theorem close_mem (s : State) (w : Work) : (s.close w).mem =
    w.wr.reverse.foldl Mem.apply (if w.wiped then s.mem.afterReset else s.mem) := rfl

/-- A command that wrote nothing leaves memory as it was. -/
theorem close_mem_quiet (s : State) (w : Work) (h : w.wr = []) (hw : w.wiped = false) : (s.close w).mem = s.mem := by
  simp [close_mem, h, hw]

/-! ## Updates of a view -/

section
variable (w : Work) (f : Fld) (v i j : Nat) (b : Bool)

@[simp] theorem set_n : (w.set f v i j).n = w.n := rfl
@[simp] theorem set_regs : (w.set f v i j).regs = w.regs := rfl
@[simp] theorem set_mem : (w.set f v i j).mem = w.mem := rfl
@[simp] theorem set_wr : (w.set f v i j).wr = w.wr := rfl
@[simp] theorem set_wiped : (w.set f v i j).wiped = w.wiped := rfl
@[simp] theorem set_svn : (w.set f v i j).svn = w.svn := rfl
@[simp] theorem set_ppr : (w.set f v i j).ppr = w.ppr := rfl
theorem set_rw : (w.set f v i j).rw = (f.key i j, v % 2 ^ f.width, f.resetAt i j) :: w.rw := rfl

@[simp] theorem setFlag_n : (w.setFlag f b i j).n = w.n := rfl
@[simp] theorem setFlag_regs : (w.setFlag f b i j).regs = w.regs := rfl
@[simp] theorem setFlag_mem : (w.setFlag f b i j).mem = w.mem := rfl
@[simp] theorem setFlag_wr : (w.setFlag f b i j).wr = w.wr := rfl
@[simp] theorem setFlag_wiped : (w.setFlag f b i j).wiped = w.wiped := rfl
@[simp] theorem setFlag_svn : (w.setFlag f b i j).svn = w.svn := rfl
@[simp] theorem setFlag_ppr : (w.setFlag f b i j).ppr = w.ppr := rfl

@[simp] theorem count_n : (w.count f v i j).n = w.n := rfl
@[simp] theorem count_regs : (w.count f v i j).regs = w.regs := rfl
@[simp] theorem count_mem : (w.count f v i j).mem = w.mem := rfl
@[simp] theorem count_wr : (w.count f v i j).wr = w.wr := rfl
@[simp] theorem count_wiped : (w.count f v i j).wiped = w.wiped := rfl
@[simp] theorem count_svn : (w.count f v i j).svn = w.svn := rfl
@[simp] theorem count_ppr : (w.count f v i j).ppr = w.ppr := rfl
end

section
variable (w : Work) (a len : Nat) (bs : Bytes) (o : Out)

@[simp] theorem store_n : (w.store a bs).n = w.n := rfl
@[simp] theorem store_regs : (w.store a bs).regs = w.regs := rfl
@[simp] theorem store_rw : (w.store a bs).rw = w.rw := rfl
@[simp] theorem store_mem : (w.store a bs).mem = w.mem := rfl
@[simp] theorem store_wr : (w.store a bs).wr = .put a bs :: w.wr := rfl
@[simp] theorem store_wiped : (w.store a bs).wiped = w.wiped := rfl
@[simp] theorem store_svn : (w.store a bs).svn = w.svn := rfl
@[simp] theorem store_ppr : (w.store a bs).ppr = w.ppr := rfl

@[simp] theorem zero_n : (w.zero a len).n = w.n := rfl
@[simp] theorem zero_regs : (w.zero a len).regs = w.regs := rfl
@[simp] theorem zero_rw : (w.zero a len).rw = w.rw := rfl
@[simp] theorem zero_mem : (w.zero a len).mem = w.mem := rfl
@[simp] theorem zero_wr : (w.zero a len).wr = .clear a len :: w.wr := rfl
@[simp] theorem zero_wiped : (w.zero a len).wiped = w.wiped := rfl
@[simp] theorem zero_svn : (w.zero a len).svn = w.svn := rfl
@[simp] theorem zero_ppr : (w.zero a len).ppr = w.ppr := rfl

@[simp] theorem emit_regs : (w.emit o).regs = w.regs := rfl
@[simp] theorem emit_rw : (w.emit o).rw = w.rw := rfl
@[simp] theorem emit_mem : (w.emit o).mem = w.mem := rfl
@[simp] theorem emit_wr : (w.emit o).wr = w.wr := rfl
@[simp] theorem emit_wiped : (w.emit o).wiped = w.wiped := rfl
@[simp] theorem emit_svn : (w.emit o).svn = w.svn := rfl
@[simp] theorem emit_ppr : (w.emit o).ppr = w.ppr := rfl
@[simp] theorem emit_n : (w.emit o).n = { w.n with out := w.n.out ++ [o] } := rfl
end

/-! ## Running -/

/-- A command on a node that answers ends with its writes landed. -/
theorem run_alive {s : State} (f : Work → Work) (h : s.alive = true) : run s f = .next (s.close (f s.view)) := by
  simp [run, h]

/-- A node that does not answer leaves the command without effect. -/
theorem run_dead {s : State} (f : Work → Work) (h : s.alive = false) : run s f = .next s := by
  simp [run, h]

/-- The end of a command keeps the canonical forms. -/
theorem canonical_close {s : State} (w : Work) (h : Canonical s) : Canonical (s.close w) := by
  refine ⟨regs_wf_foldl _ ?_, mem_wf_foldl _ ?_⟩
  · split
    · rfl
    · exact h.1
  · split
    · exact mem_wf_filter _ h.2
    · exact h.2

/-- However a shared run ends, the canonical forms, the waiting commands and the fused SVN are kept. -/
theorem run_keeps {s t : State} (f : Work → Work) (h : run s f = .next t) (hc : Canonical s) :
    Canonical t ∧ t.pending = s.pending ∧ s.svnFuse ≤ t.svnFuse := by
  unfold run at h
  split at h <;> cases h
  · exact ⟨canonical_close _ hc, rfl, Nat.le_max_left _ _⟩
  · exact ⟨hc, rfl, le_rfl⟩

theorem runAlways_keeps {s t : State} (f : Work → Work) (h : runAlways s f = .next t) (hc : Canonical s) :
    Canonical t ∧ t.pending = s.pending ∧ s.svnFuse ≤ t.svnFuse := by
  cases h
  exact ⟨canonical_close _ hc, rfl, Nat.le_max_left _ _⟩

/-! ## Register fields after a command -/

/-- What a field shows once a command's writes have landed: the newest write to it, else what it showed. -/
theorem rd_close {s : State} (hs : RegFile.wf s.regs = true) (w : Work) (hw : w.wiped = false) (f : Fld) (i j : Nat) :
    rd (s.close w) f i j =
      match w.rw.find? (fun e => e.1 = f.key i j) with
      | some e => if e.2.1 = e.2.2 then f.resetAt i j else e.2.1
      | none => rd s f i j := by
  simp only [rd, Work.get, Work.raw, view_rw, view_regs, List.find?_nil, close_regs, hw, Bool.false_eq_true, if_false,
    find_foldl hs]
  cases w.rw.find? (fun e => decide (e.1 = f.key i j)) with
  | none => rfl
  | some e => simp only; split <;> simp

/-- The newest write of a view to a field gives it a value. -/
def Shows (w : Work) (f : Fld) (v i j : Nat) : Prop :=
  w.rw.find? (fun e => e.1 = f.key i j) = some (f.key i j, v, f.resetAt i j)

theorem shows_set (w : Work) (f : Fld) (v i j : Nat) : Shows (w.set f v i j) f (v % 2 ^ f.width) i j := by
  simp [Shows, set_rw]

theorem shows_setFlag (w : Work) (f : Fld) (b : Bool) (i j : Nat) (h : 0 < f.width) :
    Shows (w.setFlag f b i j) f (if b then 1 else 0) i j := by
  have := shows_set w f (if b then 1 else 0) i j
  have h2 : 1 < 2 ^ f.width := Nat.one_lt_two_pow (by omega)
  rw [Nat.mod_eq_of_lt (by split <;> omega)] at this
  exact this

theorem shows_count (w : Work) (f : Fld) (by_ i j : Nat) :
    Shows (w.count f by_ i j) f (min (w.get f i j + by_) (2 ^ f.width - 1)) i j := by
  have := shows_set w f (min (w.get f i j + by_) (2 ^ f.width - 1)) i j
  rwa [Nat.mod_eq_of_lt (by have := Nat.two_pow_pos f.width; omega)] at this

theorem Shows.set {w : Work} {f : Fld} {v i j : Nat} (h : Shows w f v i j) (g : Fld) (u a b : Nat)
    (hk : g.key a b ≠ f.key i j) : Shows (w.set g u a b) f v i j := by
  unfold Shows at *
  rw [set_rw, List.find?_cons_of_neg]
  · exact h
  · simpa only [decide_eq_true_eq] using hk

/-- A write that the view shows is what the field shows afterwards. -/
theorem Shows.rd {s : State} (hs : RegFile.wf s.regs = true) {w : Work} {f : Fld} {v i j : Nat} (h : Shows w f v i j) :
    rd (s.close w) f i j = v := by
  have hb : RegFile.wf (if w.wiped then ([] : RegFile) else s.regs) = true := by split <;> first | rfl | exact hs
  unfold Shows at h
  simp only [Sys2Proof.Safety.rd, Work.get, Work.raw, view_rw, view_regs, List.find?_nil, close_regs, find_foldl hb]
  rw [h]
  simp only
  split
  · rename_i hv; simp [hv]
  · simp

end Sys2Proof.Laws
end

