-- ==== Sys2Proof/Laws/Reports.lean ====
section
/-!
SUPPORT. Sys2Proof/Laws/Reports.lean: everything that the reporting operations can do (interrupt bits, messages to the host, the
prompt book, error captures): one lemma for each, that it only reports.
-/

namespace Sys2Proof.Laws

open Sys2Proof.Machine Sys2Proof.Safety

/-- The key of a register that no reporting operation writes: at an offset from 0x100 up, and not on the prompt book's page. -/
def Plain (k : Nat) : Prop := 0x100 ≤ k / 32 % 4096 ∧ k / 2 ^ 37 ≠ 0xB

/-- `w'` is `w` with reports made: message and log queues, common parts of pages, LOG registers, and prompt-book entries in the
ring. -/
structure Reports (w w' : Work) : Prop where
  n : w'.n = { w.n with hq := w'.n.hq, holdoffs := w'.n.holdoffs, log := w'.n.log, logSeq := w'.n.logSeq, out := w'.n.out }
  hq : w'.n.hq = { w.n.hq with msix := w'.n.hq.msix, heldOut := w'.n.hq.heldOut }
  regs : w'.regs = w.regs
  mem : w'.mem = w.mem
  wiped : w'.wiped = w.wiped
  svn : w'.svn = w.svn
  rw_ : ∀ k, Plain k → w'.rw.find? (fun e => e.1 = k) = w.rw.find? (fun e => e.1 = k)
  wr : ∃ l, w'.wr = l ++ w.wr ∧ ∀ o ∈ l, ∃ a bs, o = .put a bs ∧ ringBase ≤ a ∧ a + bs.length ≤ ringBase + 2 ^ 26

theorem Reports.refl (w : Work) : Reports w w :=
  ⟨rfl, rfl, rfl, rfl, rfl, rfl, fun _ _ => rfl, [], rfl, by simp⟩

theorem Reports.trans {a b c : Work} (h : Reports a b) (g : Reports b c) : Reports a c := by
  obtain ⟨l, hl, hl'⟩ := h.wr
  obtain ⟨m, hm, hm'⟩ := g.wr
  refine ⟨?_, ?_, g.regs.trans h.regs, g.mem.trans h.mem, g.wiped.trans h.wiped, g.svn.trans h.svn,
    fun k hk => (g.rw_ k hk).trans (h.rw_ k hk), m ++ l, by rw [hm, hl, List.append_assoc], ?_⟩
  · rw [g.n, h.n]
  · rw [g.hq, h.hq]
  · intro o ho
    rcases List.mem_append.1 ho with ho | ho
    · exact hm' o ho
    · exact hl' o ho

/-- A write to a register of a common part or of the prompt book's page reports. -/
theorem reports_set (w : Work) (f : Fld) (v i j : Nat) (h : ¬ Plain (f.key i j)) : Reports w (w.set f v i j) := by
  refine ⟨rfl, rfl, rfl, rfl, rfl, rfl, fun k hk => ?_, [], rfl, by simp⟩
  rw [set_rw, List.find?_cons_of_neg]
  simp only [decide_eq_true_eq]
  rintro rfl; exact h hk

theorem key_off (f : Fld) (i j : Nat) (h1 : f.off < 4096) (h2 : f.lo < 32) : f.key i j / 32 % 4096 = f.off := by
  unfold Fld.key; omega

theorem key_page (f : Fld) (i : Nat) (h1 : f.off < 4096) (h2 : f.lo < 32) : f.key i 0 / 2 ^ 37 = f.blk.page + i := by
  unfold Fld.key; omega

theorem common_key (f : Fld) (i j : Nat) (h1 : f.off < 0x100) (h2 : f.lo < 32) : ¬ Plain (f.key i j) := by
  unfold Plain; rw [key_off f i j (by omega) h2]; omega

theorem log_key (f : Fld) (h : f.blk = .LOG) (h1 : f.off < 4096) (h2 : f.lo < 32) : ¬ Plain (f.key 0 0) := by
  unfold Plain; rw [key_page f 0 h1 h2, h]; simp [Block.page]

theorem reports_msixSend (w : Work) (fn vec : Nat) : Reports w (w.msixSend fn vec) := by
  unfold Work.msixSend
  split
  · exact ⟨rfl, rfl, rfl, rfl, rfl, rfl, fun _ _ => rfl, [], rfl, by simp⟩
  · split
    · exact ⟨rfl, rfl, rfl, rfl, rfl, rfl, fun _ _ => rfl, [], rfl, by simp⟩
    · exact ⟨rfl, rfl, rfl, rfl, rfl, rfl, fun _ _ => rfl, [], rfl, by simp⟩

theorem reports_holdoffs (w : Work) (l : List Holdoff) : Reports w { w with n.holdoffs := l } :=
  ⟨rfl, rfl, rfl, rfl, rfl, rfl, fun _ _ => rfl, [], rfl, by simp⟩

theorem reports_signal (w : Work) (fn vec : Nat) : Reports w (w.signal fn vec) := by
  unfold Work.signal
  split
  · exact reports_holdoffs _ _
  · simp only
    split
    · exact reports_msixSend _ _ _
    · exact (reports_msixSend _ _ _).trans (reports_holdoffs _ _)

/-- Setting an interrupt bit reports (R491, R492). -/
theorem reports_isr (w : Work) (page bit : Nat) : Reports w (w.isr page bit) := by
  unfold Work.isr
  simp only
  split
  · exact Reports.refl w
  · have h := (reports_set w Reg.BLK_ISR (w.get Reg.BLK_ISR page + 2 ^ bit) page 0 (common_key _ _ _ (by decide) (by decide))).trans
      (reports_set _ Reg.BLK_TICK (w.set Reg.BLK_ISR (w.get Reg.BLK_ISR page + 2 ^ bit) page).now32 page 0
        (common_key _ _ _ (by decide) (by decide)))
    split
    · exact h.trans (reports_signal _ _ _)
    · exact h

theorem reports_count (w : Work) (f : Fld) (v i j : Nat) (h : ¬ Plain (f.key i j)) : Reports w (w.count f v i j) :=
  reports_set w f _ i j h

theorem reports_logStore (w : Work) (i : Nat) (bs : Bytes) (hi : i < 2097152) (hb : bs.length = 32) :
    Reports w (w.store (ringBase + i * 32) bs) :=
  ⟨rfl, rfl, rfl, rfl, rfl, rfl, fun _ _ => rfl, [.put (ringBase + i * 32) bs], rfl, by
    intro o ho
    rw [List.mem_singleton] at ho
    exact ⟨_, _, ho, by omega, by omega⟩⟩

theorem logBytes_length (e : Ev) (t : Tick) (s : Nat) : (logBytes e t s).length = 32 := by
  simp [logBytes, leBytes]

theorem Reports.thenSet {a w : Work} (h : Reports a w) (f : Fld) (v i j : Nat) (hk : ¬ Plain (f.key i j)) :
    Reports a (w.set f v i j) := h.trans (reports_set w f v i j hk)

theorem Reports.thenCount {a w : Work} (h : Reports a w) (f : Fld) (v i j : Nat) (hk : ¬ Plain (f.key i j)) :
    Reports a (w.count f v i j) := h.trans (reports_count w f v i j hk)

theorem reports_logRaw (w : Work) (bs : Bytes) (hb : bs.length = 32) : Reports w (w.logRaw bs) := by
  have k : ∀ f : Fld, f.blk = .LOG ∧ f.off < 4096 ∧ f.lo < 32 → ¬ Plain (f.key 0 0) := fun f h => log_key f h.1 h.2.1 h.2.2
  have h0 : Reports w { w with n.log := (({ seq := w.n.logSeq, bytes := bs } : LogEntry) :: w.n.log).take 4096
                               n.logSeq := w.n.logSeq + 1 } :=
    ⟨rfl, rfl, rfl, rfl, rfl, rfl, fun _ _ => rfl, [], rfl, by simp⟩
  have h1 := ((h0.thenSet Reg.LOG_NEWEST w.n.logSeq 0 0 (k _ (by decide))).thenSet Reg.LOG_OLDEST_SRAM
    (w.n.logSeq + 1 - 4096) 0 0 (k _ (by decide))).thenSet Reg.LOG_OLDEST_RING (w.n.logSeq + 1 - 2097152) 0 0 (k _ (by decide))
  unfold Work.logRaw
  simp only
  have h2 := fun (x : Work) (h : Reports w x) =>
    (h.thenSet Reg.LOG_RING_NEXT ((w.n.logSeq % 2097152 + 1) % 2097152) 0 0 (k _ (by decide))).thenCount Reg.LOG_WRITTEN 1 0 0
      (k _ (by decide))
  have h3 := fun (x : Work) (h : Reports w x) => h.thenCount Reg.LOG_RING_WRAPS 1 0 0 (k _ (by decide))
  split <;> split
  · exact h3 _ (h2 _ (h1.trans (reports_logStore _ _ _ (Nat.mod_lt _ (by decide)) hb)))
  · exact h3 _ (h2 _ h1)
  · exact h2 _ (h1.trans (reports_logStore _ _ _ (Nat.mod_lt _ (by decide)) hb))
  · exact h2 _ h1

/-- Logging an event reports (R410, R412). -/
theorem reports_log (w : Work) (e : Ev) : Reports w (w.log e) := by
  unfold Work.log
  simp only
  have h := reports_logRaw w (logBytes e w.now (w.n.logSeq % 2 ^ 32)) (logBytes_length _ _ _)
  split
  · exact h.trans (reports_isr _ _ _)
  · exact h

/-- Capturing an error reports (R490, R497). -/
theorem reports_capture (w : Work) (e : Ev) : Reports w (w.capture e) := by
  have k : ∀ (f : Fld) (i : Nat), f.off < 0x100 ∧ f.lo < 32 → ¬ Plain (f.key i 0) := fun f i h => common_key f i 0 h.1 h.2
  have h0 := reports_count w Reg.BLK_ERR_CNT 1 e.page 0 (k _ _ (by decide))
  unfold Work.capture
  simp only
  split
  · have h1 := h0.trans (reports_isr (w.count Reg.BLK_ERR_CNT 1 e.page) e.page 1)
    split
    · exact h1.trans (reports_log _ _)
    · exact h1
  · exact (((((((h0.thenSet _ _ _ _ (k Reg.BLK_ERR_CAP0 _ (by decide))).thenSet _ _ _ _ (k Reg.BLK_ERR_CAP1 _ (by decide))).thenSet
      _ _ _ _ (k Reg.BLK_ERR_CAP2 _ (by decide))).thenSet _ _ _ _ (k Reg.BLK_ERR_CAP3 _ (by decide))).thenSet
      _ _ _ _ (k Reg.BLK_ERROR _ (by decide))).trans (reports_isr _ _ _)).trans (reports_log _ _))

theorem reports_report (w : Work) (e : Ev) : Reports w (w.report e) := by
  unfold Work.report
  split
  · exact reports_capture _ _
  · exact reports_log _ _

theorem reports_setFlag (w : Work) (f : Fld) (b : Bool) (i j : Nat) (h : ¬ Plain (f.key i j)) : Reports w (w.setFlag f b i j) :=
  reports_set w f _ i j h

theorem reports_setReady (w : Work) (page : Nat) (b : Bool) : Reports w (w.setReady page b) := by
  unfold Work.setReady
  split
  · exact Reports.refl w
  · exact (reports_setFlag _ _ _ _ _ (common_key _ _ _ (by decide) (by decide))).trans (reports_isr _ _ _)

theorem reports_setEnable (w : Work) (page : Nat) (b : Bool) : Reports w (w.setEnable page b) := by
  unfold Work.setEnable
  split
  · exact Reports.refl w
  · exact (reports_setFlag _ _ _ _ _ (common_key _ _ _ (by decide) (by decide))).trans (reports_isr _ _ _)

theorem reports_setSpareInUse (w : Work) (page : Nat) (b : Bool) : Reports w (w.setSpareInUse page b) := by
  unfold Work.setSpareInUse
  split
  · exact Reports.refl w
  · exact (reports_setFlag _ _ _ _ _ (common_key _ _ _ (by decide) (by decide))).trans (reports_isr _ _ _)

/-! ## What a report leaves of a field -/

/-- A field that no report writes shows after it what the view showed. -/
theorem Reports.shows {w w' : Work} (h : Reports w w') {f : Fld} {v i j : Nat} (hp : Plain (f.key i j)) (hs : Shows w f v i j) :
    Shows w' f v i j := by
  unfold Shows at *; rw [h.rw_ _ hp]; exact hs

theorem Reports.get {w w' : Work} (h : Reports w w') {f : Fld} {i j : Nat} (hp : Plain (f.key i j)) :
    w'.get f i j = w.get f i j := by
  unfold Work.get Work.raw; rw [h.rw_ _ hp, h.regs]

end Sys2Proof.Laws
end

