-- ==== Sys2Proof/Laws/ReportFields.lean ====
section
/-!
SUPPORT. Sys2Proof/Laws/ReportFields.lean: the fields of the node and of the view that a report leaves, one lemma for each operation
and field.
-/

namespace Sys2Proof.Laws

open Sys2Proof.Machine

theorem Reports.n_tk {w w2 : Work} (h : Reports w w2) : w2.n.tk = w.n.tk := by rw [h.n]
theorem Reports.n_st {w w2 : Work} (h : Reports w w2) : w2.n.st = w.n.st := by rw [h.n]
theorem Reports.n_pg {w w2 : Work} (h : Reports w w2) : w2.n.pg = w.n.pg := by rw [h.n]
theorem Reports.n_ks {w w2 : Work} (h : Reports w w2) : w2.n.ks = w.n.ks := by rw [h.n]
theorem Reports.n_cl {w w2 : Work} (h : Reports w w2) : w2.n.cl = w.n.cl := by rw [h.n]
theorem Reports.n_qa {w w2 : Work} (h : Reports w w2) : w2.n.qa = w.n.qa := by rw [h.n]
theorem Reports.n_cp {w w2 : Work} (h : Reports w w2) : w2.n.cp = w.n.cp := by rw [h.n]
theorem Reports.n_lk {w w2 : Work} (h : Reports w w2) : w2.n.lk = w.n.lk := by rw [h.n]
theorem Reports.n_tp {w w2 : Work} (h : Reports w w2) : w2.n.tp = w.n.tp := by rw [h.n]
theorem Reports.n_sc {w w2 : Work} (h : Reports w w2) : w2.n.sc = w.n.sc := by rw [h.n]
theorem Reports.n_se {w w2 : Work} (h : Reports w w2) : w2.n.se = w.n.se := by rw [h.n]
theorem Reports.n_mi {w w2 : Work} (h : Reports w w2) : w2.n.mi = w.n.mi := by rw [h.n]
theorem Reports.n_pw {w w2 : Work} (h : Reports w w2) : w2.n.pw = w.n.pw := by rw [h.n]
theorem Reports.n_bo {w w2 : Work} (h : Reports w w2) : w2.n.bo = w.n.bo := by rw [h.n]
theorem Reports.n_mt {w w2 : Work} (h : Reports w w2) : w2.n.mt = w.n.mt := by rw [h.n]
theorem Reports.n_frozen {w w2 : Work} (h : Reports w w2) : w2.n.frozen = w.n.frozen := by rw [h.n]
theorem Reports.n_fresh {w w2 : Work} (h : Reports w w2) : w2.n.fresh = w.n.fresh := by rw [h.n]
theorem Reports.hq_queues {w w2 : Work} (h : Reports w w2) : w2.n.hq.queues = w.n.hq.queues := by rw [h.hq]
theorem Reports.hq_bar4Logged {w w2 : Work} (h : Reports w w2) : w2.n.hq.bar4Logged = w.n.hq.bar4Logged := by rw [h.hq]
theorem Reports.hq_rdFrac {w w2 : Work} (h : Reports w w2) : w2.n.hq.rdFrac = w.n.hq.rdFrac := by rw [h.hq]
theorem Reports.hq_wrFrac {w w2 : Work} (h : Reports w w2) : w2.n.hq.wrFrac = w.n.hq.wrFrac := by rw [h.hq]

section
variable (w : Work) (fn vec : Nat)
@[simp] theorem msixSend_tk : (w.msixSend fn vec).n.tk = w.n.tk := (reports_msixSend w fn vec).n_tk
@[simp] theorem msixSend_st : (w.msixSend fn vec).n.st = w.n.st := (reports_msixSend w fn vec).n_st
@[simp] theorem msixSend_pg : (w.msixSend fn vec).n.pg = w.n.pg := (reports_msixSend w fn vec).n_pg
@[simp] theorem msixSend_ks : (w.msixSend fn vec).n.ks = w.n.ks := (reports_msixSend w fn vec).n_ks
@[simp] theorem msixSend_cl : (w.msixSend fn vec).n.cl = w.n.cl := (reports_msixSend w fn vec).n_cl
@[simp] theorem msixSend_qa : (w.msixSend fn vec).n.qa = w.n.qa := (reports_msixSend w fn vec).n_qa
@[simp] theorem msixSend_cp : (w.msixSend fn vec).n.cp = w.n.cp := (reports_msixSend w fn vec).n_cp
@[simp] theorem msixSend_lk : (w.msixSend fn vec).n.lk = w.n.lk := (reports_msixSend w fn vec).n_lk
@[simp] theorem msixSend_tp : (w.msixSend fn vec).n.tp = w.n.tp := (reports_msixSend w fn vec).n_tp
@[simp] theorem msixSend_sc : (w.msixSend fn vec).n.sc = w.n.sc := (reports_msixSend w fn vec).n_sc
@[simp] theorem msixSend_se : (w.msixSend fn vec).n.se = w.n.se := (reports_msixSend w fn vec).n_se
@[simp] theorem msixSend_mi : (w.msixSend fn vec).n.mi = w.n.mi := (reports_msixSend w fn vec).n_mi
@[simp] theorem msixSend_pw : (w.msixSend fn vec).n.pw = w.n.pw := (reports_msixSend w fn vec).n_pw
@[simp] theorem msixSend_bo : (w.msixSend fn vec).n.bo = w.n.bo := (reports_msixSend w fn vec).n_bo
@[simp] theorem msixSend_mt : (w.msixSend fn vec).n.mt = w.n.mt := (reports_msixSend w fn vec).n_mt
@[simp] theorem msixSend_frozen : (w.msixSend fn vec).n.frozen = w.n.frozen := (reports_msixSend w fn vec).n_frozen
@[simp] theorem msixSend_fresh : (w.msixSend fn vec).n.fresh = w.n.fresh := (reports_msixSend w fn vec).n_fresh
@[simp] theorem msixSend_queues : (w.msixSend fn vec).n.hq.queues = w.n.hq.queues := (reports_msixSend w fn vec).hq_queues
@[simp] theorem msixSend_bar4Logged : (w.msixSend fn vec).n.hq.bar4Logged = w.n.hq.bar4Logged := (reports_msixSend w fn vec).hq_bar4Logged
@[simp] theorem msixSend_rdFrac : (w.msixSend fn vec).n.hq.rdFrac = w.n.hq.rdFrac := (reports_msixSend w fn vec).hq_rdFrac
@[simp] theorem msixSend_wrFrac : (w.msixSend fn vec).n.hq.wrFrac = w.n.hq.wrFrac := (reports_msixSend w fn vec).hq_wrFrac
@[simp] theorem msixSend_regs : (w.msixSend fn vec).regs = w.regs := (reports_msixSend w fn vec).regs
@[simp] theorem msixSend_mem : (w.msixSend fn vec).mem = w.mem := (reports_msixSend w fn vec).mem
@[simp] theorem msixSend_wiped : (w.msixSend fn vec).wiped = w.wiped := (reports_msixSend w fn vec).wiped
@[simp] theorem msixSend_svn : (w.msixSend fn vec).svn = w.svn := (reports_msixSend w fn vec).svn
end

section
variable (w : Work) (fn vec : Nat)
@[simp] theorem signal_tk : (w.signal fn vec).n.tk = w.n.tk := (reports_signal w fn vec).n_tk
@[simp] theorem signal_st : (w.signal fn vec).n.st = w.n.st := (reports_signal w fn vec).n_st
@[simp] theorem signal_pg : (w.signal fn vec).n.pg = w.n.pg := (reports_signal w fn vec).n_pg
@[simp] theorem signal_ks : (w.signal fn vec).n.ks = w.n.ks := (reports_signal w fn vec).n_ks
@[simp] theorem signal_cl : (w.signal fn vec).n.cl = w.n.cl := (reports_signal w fn vec).n_cl
@[simp] theorem signal_qa : (w.signal fn vec).n.qa = w.n.qa := (reports_signal w fn vec).n_qa
@[simp] theorem signal_cp : (w.signal fn vec).n.cp = w.n.cp := (reports_signal w fn vec).n_cp
@[simp] theorem signal_lk : (w.signal fn vec).n.lk = w.n.lk := (reports_signal w fn vec).n_lk
@[simp] theorem signal_tp : (w.signal fn vec).n.tp = w.n.tp := (reports_signal w fn vec).n_tp
@[simp] theorem signal_sc : (w.signal fn vec).n.sc = w.n.sc := (reports_signal w fn vec).n_sc
@[simp] theorem signal_se : (w.signal fn vec).n.se = w.n.se := (reports_signal w fn vec).n_se
@[simp] theorem signal_mi : (w.signal fn vec).n.mi = w.n.mi := (reports_signal w fn vec).n_mi
@[simp] theorem signal_pw : (w.signal fn vec).n.pw = w.n.pw := (reports_signal w fn vec).n_pw
@[simp] theorem signal_bo : (w.signal fn vec).n.bo = w.n.bo := (reports_signal w fn vec).n_bo
@[simp] theorem signal_mt : (w.signal fn vec).n.mt = w.n.mt := (reports_signal w fn vec).n_mt
@[simp] theorem signal_frozen : (w.signal fn vec).n.frozen = w.n.frozen := (reports_signal w fn vec).n_frozen
@[simp] theorem signal_fresh : (w.signal fn vec).n.fresh = w.n.fresh := (reports_signal w fn vec).n_fresh
@[simp] theorem signal_queues : (w.signal fn vec).n.hq.queues = w.n.hq.queues := (reports_signal w fn vec).hq_queues
@[simp] theorem signal_bar4Logged : (w.signal fn vec).n.hq.bar4Logged = w.n.hq.bar4Logged := (reports_signal w fn vec).hq_bar4Logged
@[simp] theorem signal_rdFrac : (w.signal fn vec).n.hq.rdFrac = w.n.hq.rdFrac := (reports_signal w fn vec).hq_rdFrac
@[simp] theorem signal_wrFrac : (w.signal fn vec).n.hq.wrFrac = w.n.hq.wrFrac := (reports_signal w fn vec).hq_wrFrac
@[simp] theorem signal_regs : (w.signal fn vec).regs = w.regs := (reports_signal w fn vec).regs
@[simp] theorem signal_mem : (w.signal fn vec).mem = w.mem := (reports_signal w fn vec).mem
@[simp] theorem signal_wiped : (w.signal fn vec).wiped = w.wiped := (reports_signal w fn vec).wiped
@[simp] theorem signal_svn : (w.signal fn vec).svn = w.svn := (reports_signal w fn vec).svn
end

section
variable (w : Work) (page bit : Nat)
@[simp] theorem isr_tk : (w.isr page bit).n.tk = w.n.tk := (reports_isr w page bit).n_tk
@[simp] theorem isr_st : (w.isr page bit).n.st = w.n.st := (reports_isr w page bit).n_st
@[simp] theorem isr_pg : (w.isr page bit).n.pg = w.n.pg := (reports_isr w page bit).n_pg
@[simp] theorem isr_ks : (w.isr page bit).n.ks = w.n.ks := (reports_isr w page bit).n_ks
@[simp] theorem isr_cl : (w.isr page bit).n.cl = w.n.cl := (reports_isr w page bit).n_cl
@[simp] theorem isr_qa : (w.isr page bit).n.qa = w.n.qa := (reports_isr w page bit).n_qa
@[simp] theorem isr_cp : (w.isr page bit).n.cp = w.n.cp := (reports_isr w page bit).n_cp
@[simp] theorem isr_lk : (w.isr page bit).n.lk = w.n.lk := (reports_isr w page bit).n_lk
@[simp] theorem isr_tp : (w.isr page bit).n.tp = w.n.tp := (reports_isr w page bit).n_tp
@[simp] theorem isr_sc : (w.isr page bit).n.sc = w.n.sc := (reports_isr w page bit).n_sc
@[simp] theorem isr_se : (w.isr page bit).n.se = w.n.se := (reports_isr w page bit).n_se
@[simp] theorem isr_mi : (w.isr page bit).n.mi = w.n.mi := (reports_isr w page bit).n_mi
@[simp] theorem isr_pw : (w.isr page bit).n.pw = w.n.pw := (reports_isr w page bit).n_pw
@[simp] theorem isr_bo : (w.isr page bit).n.bo = w.n.bo := (reports_isr w page bit).n_bo
@[simp] theorem isr_mt : (w.isr page bit).n.mt = w.n.mt := (reports_isr w page bit).n_mt
@[simp] theorem isr_frozen : (w.isr page bit).n.frozen = w.n.frozen := (reports_isr w page bit).n_frozen
@[simp] theorem isr_fresh : (w.isr page bit).n.fresh = w.n.fresh := (reports_isr w page bit).n_fresh
@[simp] theorem isr_queues : (w.isr page bit).n.hq.queues = w.n.hq.queues := (reports_isr w page bit).hq_queues
@[simp] theorem isr_bar4Logged : (w.isr page bit).n.hq.bar4Logged = w.n.hq.bar4Logged := (reports_isr w page bit).hq_bar4Logged
@[simp] theorem isr_rdFrac : (w.isr page bit).n.hq.rdFrac = w.n.hq.rdFrac := (reports_isr w page bit).hq_rdFrac
@[simp] theorem isr_wrFrac : (w.isr page bit).n.hq.wrFrac = w.n.hq.wrFrac := (reports_isr w page bit).hq_wrFrac
@[simp] theorem isr_regs : (w.isr page bit).regs = w.regs := (reports_isr w page bit).regs
@[simp] theorem isr_mem : (w.isr page bit).mem = w.mem := (reports_isr w page bit).mem
@[simp] theorem isr_wiped : (w.isr page bit).wiped = w.wiped := (reports_isr w page bit).wiped
@[simp] theorem isr_svn : (w.isr page bit).svn = w.svn := (reports_isr w page bit).svn
end

section
variable (w : Work) (e : Ev)
@[simp] theorem log_tk : (w.log e).n.tk = w.n.tk := (reports_log w e).n_tk
@[simp] theorem log_st : (w.log e).n.st = w.n.st := (reports_log w e).n_st
@[simp] theorem log_pg : (w.log e).n.pg = w.n.pg := (reports_log w e).n_pg
@[simp] theorem log_ks : (w.log e).n.ks = w.n.ks := (reports_log w e).n_ks
@[simp] theorem log_cl : (w.log e).n.cl = w.n.cl := (reports_log w e).n_cl
@[simp] theorem log_qa : (w.log e).n.qa = w.n.qa := (reports_log w e).n_qa
@[simp] theorem log_cp : (w.log e).n.cp = w.n.cp := (reports_log w e).n_cp
@[simp] theorem log_lk : (w.log e).n.lk = w.n.lk := (reports_log w e).n_lk
@[simp] theorem log_tp : (w.log e).n.tp = w.n.tp := (reports_log w e).n_tp
@[simp] theorem log_sc : (w.log e).n.sc = w.n.sc := (reports_log w e).n_sc
@[simp] theorem log_se : (w.log e).n.se = w.n.se := (reports_log w e).n_se
@[simp] theorem log_mi : (w.log e).n.mi = w.n.mi := (reports_log w e).n_mi
@[simp] theorem log_pw : (w.log e).n.pw = w.n.pw := (reports_log w e).n_pw
@[simp] theorem log_bo : (w.log e).n.bo = w.n.bo := (reports_log w e).n_bo
@[simp] theorem log_mt : (w.log e).n.mt = w.n.mt := (reports_log w e).n_mt
@[simp] theorem log_frozen : (w.log e).n.frozen = w.n.frozen := (reports_log w e).n_frozen
@[simp] theorem log_fresh : (w.log e).n.fresh = w.n.fresh := (reports_log w e).n_fresh
@[simp] theorem log_queues : (w.log e).n.hq.queues = w.n.hq.queues := (reports_log w e).hq_queues
@[simp] theorem log_bar4Logged : (w.log e).n.hq.bar4Logged = w.n.hq.bar4Logged := (reports_log w e).hq_bar4Logged
@[simp] theorem log_rdFrac : (w.log e).n.hq.rdFrac = w.n.hq.rdFrac := (reports_log w e).hq_rdFrac
@[simp] theorem log_wrFrac : (w.log e).n.hq.wrFrac = w.n.hq.wrFrac := (reports_log w e).hq_wrFrac
@[simp] theorem log_regs : (w.log e).regs = w.regs := (reports_log w e).regs
@[simp] theorem log_mem : (w.log e).mem = w.mem := (reports_log w e).mem
@[simp] theorem log_wiped : (w.log e).wiped = w.wiped := (reports_log w e).wiped
@[simp] theorem log_svn : (w.log e).svn = w.svn := (reports_log w e).svn
end

section
variable (w : Work) (e : Ev)
@[simp] theorem capture_tk : (w.capture e).n.tk = w.n.tk := (reports_capture w e).n_tk
@[simp] theorem capture_st : (w.capture e).n.st = w.n.st := (reports_capture w e).n_st
@[simp] theorem capture_pg : (w.capture e).n.pg = w.n.pg := (reports_capture w e).n_pg
@[simp] theorem capture_ks : (w.capture e).n.ks = w.n.ks := (reports_capture w e).n_ks
@[simp] theorem capture_cl : (w.capture e).n.cl = w.n.cl := (reports_capture w e).n_cl
@[simp] theorem capture_qa : (w.capture e).n.qa = w.n.qa := (reports_capture w e).n_qa
@[simp] theorem capture_cp : (w.capture e).n.cp = w.n.cp := (reports_capture w e).n_cp
@[simp] theorem capture_lk : (w.capture e).n.lk = w.n.lk := (reports_capture w e).n_lk
@[simp] theorem capture_tp : (w.capture e).n.tp = w.n.tp := (reports_capture w e).n_tp
@[simp] theorem capture_sc : (w.capture e).n.sc = w.n.sc := (reports_capture w e).n_sc
@[simp] theorem capture_se : (w.capture e).n.se = w.n.se := (reports_capture w e).n_se
@[simp] theorem capture_mi : (w.capture e).n.mi = w.n.mi := (reports_capture w e).n_mi
@[simp] theorem capture_pw : (w.capture e).n.pw = w.n.pw := (reports_capture w e).n_pw
@[simp] theorem capture_bo : (w.capture e).n.bo = w.n.bo := (reports_capture w e).n_bo
@[simp] theorem capture_mt : (w.capture e).n.mt = w.n.mt := (reports_capture w e).n_mt
@[simp] theorem capture_frozen : (w.capture e).n.frozen = w.n.frozen := (reports_capture w e).n_frozen
@[simp] theorem capture_fresh : (w.capture e).n.fresh = w.n.fresh := (reports_capture w e).n_fresh
@[simp] theorem capture_queues : (w.capture e).n.hq.queues = w.n.hq.queues := (reports_capture w e).hq_queues
@[simp] theorem capture_bar4Logged : (w.capture e).n.hq.bar4Logged = w.n.hq.bar4Logged := (reports_capture w e).hq_bar4Logged
@[simp] theorem capture_rdFrac : (w.capture e).n.hq.rdFrac = w.n.hq.rdFrac := (reports_capture w e).hq_rdFrac
@[simp] theorem capture_wrFrac : (w.capture e).n.hq.wrFrac = w.n.hq.wrFrac := (reports_capture w e).hq_wrFrac
@[simp] theorem capture_regs : (w.capture e).regs = w.regs := (reports_capture w e).regs
@[simp] theorem capture_mem : (w.capture e).mem = w.mem := (reports_capture w e).mem
@[simp] theorem capture_wiped : (w.capture e).wiped = w.wiped := (reports_capture w e).wiped
@[simp] theorem capture_svn : (w.capture e).svn = w.svn := (reports_capture w e).svn
end

section
variable (w : Work) (e : Ev)
@[simp] theorem report_tk : (w.report e).n.tk = w.n.tk := (reports_report w e).n_tk
@[simp] theorem report_st : (w.report e).n.st = w.n.st := (reports_report w e).n_st
@[simp] theorem report_pg : (w.report e).n.pg = w.n.pg := (reports_report w e).n_pg
@[simp] theorem report_ks : (w.report e).n.ks = w.n.ks := (reports_report w e).n_ks
@[simp] theorem report_cl : (w.report e).n.cl = w.n.cl := (reports_report w e).n_cl
@[simp] theorem report_qa : (w.report e).n.qa = w.n.qa := (reports_report w e).n_qa
@[simp] theorem report_cp : (w.report e).n.cp = w.n.cp := (reports_report w e).n_cp
@[simp] theorem report_lk : (w.report e).n.lk = w.n.lk := (reports_report w e).n_lk
@[simp] theorem report_tp : (w.report e).n.tp = w.n.tp := (reports_report w e).n_tp
@[simp] theorem report_sc : (w.report e).n.sc = w.n.sc := (reports_report w e).n_sc
@[simp] theorem report_se : (w.report e).n.se = w.n.se := (reports_report w e).n_se
@[simp] theorem report_mi : (w.report e).n.mi = w.n.mi := (reports_report w e).n_mi
@[simp] theorem report_pw : (w.report e).n.pw = w.n.pw := (reports_report w e).n_pw
@[simp] theorem report_bo : (w.report e).n.bo = w.n.bo := (reports_report w e).n_bo
@[simp] theorem report_mt : (w.report e).n.mt = w.n.mt := (reports_report w e).n_mt
@[simp] theorem report_frozen : (w.report e).n.frozen = w.n.frozen := (reports_report w e).n_frozen
@[simp] theorem report_fresh : (w.report e).n.fresh = w.n.fresh := (reports_report w e).n_fresh
@[simp] theorem report_queues : (w.report e).n.hq.queues = w.n.hq.queues := (reports_report w e).hq_queues
@[simp] theorem report_bar4Logged : (w.report e).n.hq.bar4Logged = w.n.hq.bar4Logged := (reports_report w e).hq_bar4Logged
@[simp] theorem report_rdFrac : (w.report e).n.hq.rdFrac = w.n.hq.rdFrac := (reports_report w e).hq_rdFrac
@[simp] theorem report_wrFrac : (w.report e).n.hq.wrFrac = w.n.hq.wrFrac := (reports_report w e).hq_wrFrac
@[simp] theorem report_regs : (w.report e).regs = w.regs := (reports_report w e).regs
@[simp] theorem report_mem : (w.report e).mem = w.mem := (reports_report w e).mem
@[simp] theorem report_wiped : (w.report e).wiped = w.wiped := (reports_report w e).wiped
@[simp] theorem report_svn : (w.report e).svn = w.svn := (reports_report w e).svn
end

section
variable (w : Work) (page : Nat) (b : Bool)
@[simp] theorem setReady_tk : (w.setReady page b).n.tk = w.n.tk := (reports_setReady w page b).n_tk
@[simp] theorem setReady_st : (w.setReady page b).n.st = w.n.st := (reports_setReady w page b).n_st
@[simp] theorem setReady_pg : (w.setReady page b).n.pg = w.n.pg := (reports_setReady w page b).n_pg
@[simp] theorem setReady_ks : (w.setReady page b).n.ks = w.n.ks := (reports_setReady w page b).n_ks
@[simp] theorem setReady_cl : (w.setReady page b).n.cl = w.n.cl := (reports_setReady w page b).n_cl
@[simp] theorem setReady_qa : (w.setReady page b).n.qa = w.n.qa := (reports_setReady w page b).n_qa
@[simp] theorem setReady_cp : (w.setReady page b).n.cp = w.n.cp := (reports_setReady w page b).n_cp
@[simp] theorem setReady_lk : (w.setReady page b).n.lk = w.n.lk := (reports_setReady w page b).n_lk
@[simp] theorem setReady_tp : (w.setReady page b).n.tp = w.n.tp := (reports_setReady w page b).n_tp
@[simp] theorem setReady_sc : (w.setReady page b).n.sc = w.n.sc := (reports_setReady w page b).n_sc
@[simp] theorem setReady_se : (w.setReady page b).n.se = w.n.se := (reports_setReady w page b).n_se
@[simp] theorem setReady_mi : (w.setReady page b).n.mi = w.n.mi := (reports_setReady w page b).n_mi
@[simp] theorem setReady_pw : (w.setReady page b).n.pw = w.n.pw := (reports_setReady w page b).n_pw
@[simp] theorem setReady_bo : (w.setReady page b).n.bo = w.n.bo := (reports_setReady w page b).n_bo
@[simp] theorem setReady_mt : (w.setReady page b).n.mt = w.n.mt := (reports_setReady w page b).n_mt
@[simp] theorem setReady_frozen : (w.setReady page b).n.frozen = w.n.frozen := (reports_setReady w page b).n_frozen
@[simp] theorem setReady_fresh : (w.setReady page b).n.fresh = w.n.fresh := (reports_setReady w page b).n_fresh
@[simp] theorem setReady_queues : (w.setReady page b).n.hq.queues = w.n.hq.queues := (reports_setReady w page b).hq_queues
@[simp] theorem setReady_bar4Logged : (w.setReady page b).n.hq.bar4Logged = w.n.hq.bar4Logged := (reports_setReady w page b).hq_bar4Logged
@[simp] theorem setReady_rdFrac : (w.setReady page b).n.hq.rdFrac = w.n.hq.rdFrac := (reports_setReady w page b).hq_rdFrac
@[simp] theorem setReady_wrFrac : (w.setReady page b).n.hq.wrFrac = w.n.hq.wrFrac := (reports_setReady w page b).hq_wrFrac
@[simp] theorem setReady_regs : (w.setReady page b).regs = w.regs := (reports_setReady w page b).regs
@[simp] theorem setReady_mem : (w.setReady page b).mem = w.mem := (reports_setReady w page b).mem
@[simp] theorem setReady_wiped : (w.setReady page b).wiped = w.wiped := (reports_setReady w page b).wiped
@[simp] theorem setReady_svn : (w.setReady page b).svn = w.svn := (reports_setReady w page b).svn
end

section
variable (w : Work) (page : Nat) (b : Bool)
@[simp] theorem setEnable_tk : (w.setEnable page b).n.tk = w.n.tk := (reports_setEnable w page b).n_tk
@[simp] theorem setEnable_st : (w.setEnable page b).n.st = w.n.st := (reports_setEnable w page b).n_st
@[simp] theorem setEnable_pg : (w.setEnable page b).n.pg = w.n.pg := (reports_setEnable w page b).n_pg
@[simp] theorem setEnable_ks : (w.setEnable page b).n.ks = w.n.ks := (reports_setEnable w page b).n_ks
@[simp] theorem setEnable_cl : (w.setEnable page b).n.cl = w.n.cl := (reports_setEnable w page b).n_cl
@[simp] theorem setEnable_qa : (w.setEnable page b).n.qa = w.n.qa := (reports_setEnable w page b).n_qa
@[simp] theorem setEnable_cp : (w.setEnable page b).n.cp = w.n.cp := (reports_setEnable w page b).n_cp
@[simp] theorem setEnable_lk : (w.setEnable page b).n.lk = w.n.lk := (reports_setEnable w page b).n_lk
@[simp] theorem setEnable_tp : (w.setEnable page b).n.tp = w.n.tp := (reports_setEnable w page b).n_tp
@[simp] theorem setEnable_sc : (w.setEnable page b).n.sc = w.n.sc := (reports_setEnable w page b).n_sc
@[simp] theorem setEnable_se : (w.setEnable page b).n.se = w.n.se := (reports_setEnable w page b).n_se
@[simp] theorem setEnable_mi : (w.setEnable page b).n.mi = w.n.mi := (reports_setEnable w page b).n_mi
@[simp] theorem setEnable_pw : (w.setEnable page b).n.pw = w.n.pw := (reports_setEnable w page b).n_pw
@[simp] theorem setEnable_bo : (w.setEnable page b).n.bo = w.n.bo := (reports_setEnable w page b).n_bo
@[simp] theorem setEnable_mt : (w.setEnable page b).n.mt = w.n.mt := (reports_setEnable w page b).n_mt
@[simp] theorem setEnable_frozen : (w.setEnable page b).n.frozen = w.n.frozen := (reports_setEnable w page b).n_frozen
@[simp] theorem setEnable_fresh : (w.setEnable page b).n.fresh = w.n.fresh := (reports_setEnable w page b).n_fresh
@[simp] theorem setEnable_queues : (w.setEnable page b).n.hq.queues = w.n.hq.queues := (reports_setEnable w page b).hq_queues
@[simp] theorem setEnable_bar4Logged : (w.setEnable page b).n.hq.bar4Logged = w.n.hq.bar4Logged := (reports_setEnable w page b).hq_bar4Logged
@[simp] theorem setEnable_rdFrac : (w.setEnable page b).n.hq.rdFrac = w.n.hq.rdFrac := (reports_setEnable w page b).hq_rdFrac
@[simp] theorem setEnable_wrFrac : (w.setEnable page b).n.hq.wrFrac = w.n.hq.wrFrac := (reports_setEnable w page b).hq_wrFrac
@[simp] theorem setEnable_regs : (w.setEnable page b).regs = w.regs := (reports_setEnable w page b).regs
@[simp] theorem setEnable_mem : (w.setEnable page b).mem = w.mem := (reports_setEnable w page b).mem
@[simp] theorem setEnable_wiped : (w.setEnable page b).wiped = w.wiped := (reports_setEnable w page b).wiped
@[simp] theorem setEnable_svn : (w.setEnable page b).svn = w.svn := (reports_setEnable w page b).svn
end

section
variable (w : Work) (page : Nat) (b : Bool)
@[simp] theorem setSpareInUse_tk : (w.setSpareInUse page b).n.tk = w.n.tk := (reports_setSpareInUse w page b).n_tk
@[simp] theorem setSpareInUse_st : (w.setSpareInUse page b).n.st = w.n.st := (reports_setSpareInUse w page b).n_st
@[simp] theorem setSpareInUse_pg : (w.setSpareInUse page b).n.pg = w.n.pg := (reports_setSpareInUse w page b).n_pg
@[simp] theorem setSpareInUse_ks : (w.setSpareInUse page b).n.ks = w.n.ks := (reports_setSpareInUse w page b).n_ks
@[simp] theorem setSpareInUse_cl : (w.setSpareInUse page b).n.cl = w.n.cl := (reports_setSpareInUse w page b).n_cl
@[simp] theorem setSpareInUse_qa : (w.setSpareInUse page b).n.qa = w.n.qa := (reports_setSpareInUse w page b).n_qa
@[simp] theorem setSpareInUse_cp : (w.setSpareInUse page b).n.cp = w.n.cp := (reports_setSpareInUse w page b).n_cp
@[simp] theorem setSpareInUse_lk : (w.setSpareInUse page b).n.lk = w.n.lk := (reports_setSpareInUse w page b).n_lk
@[simp] theorem setSpareInUse_tp : (w.setSpareInUse page b).n.tp = w.n.tp := (reports_setSpareInUse w page b).n_tp
@[simp] theorem setSpareInUse_sc : (w.setSpareInUse page b).n.sc = w.n.sc := (reports_setSpareInUse w page b).n_sc
@[simp] theorem setSpareInUse_se : (w.setSpareInUse page b).n.se = w.n.se := (reports_setSpareInUse w page b).n_se
@[simp] theorem setSpareInUse_mi : (w.setSpareInUse page b).n.mi = w.n.mi := (reports_setSpareInUse w page b).n_mi
@[simp] theorem setSpareInUse_pw : (w.setSpareInUse page b).n.pw = w.n.pw := (reports_setSpareInUse w page b).n_pw
@[simp] theorem setSpareInUse_bo : (w.setSpareInUse page b).n.bo = w.n.bo := (reports_setSpareInUse w page b).n_bo
@[simp] theorem setSpareInUse_mt : (w.setSpareInUse page b).n.mt = w.n.mt := (reports_setSpareInUse w page b).n_mt
@[simp] theorem setSpareInUse_frozen : (w.setSpareInUse page b).n.frozen = w.n.frozen := (reports_setSpareInUse w page b).n_frozen
@[simp] theorem setSpareInUse_fresh : (w.setSpareInUse page b).n.fresh = w.n.fresh := (reports_setSpareInUse w page b).n_fresh
@[simp] theorem setSpareInUse_queues : (w.setSpareInUse page b).n.hq.queues = w.n.hq.queues := (reports_setSpareInUse w page b).hq_queues
@[simp] theorem setSpareInUse_bar4Logged : (w.setSpareInUse page b).n.hq.bar4Logged = w.n.hq.bar4Logged := (reports_setSpareInUse w page b).hq_bar4Logged
@[simp] theorem setSpareInUse_rdFrac : (w.setSpareInUse page b).n.hq.rdFrac = w.n.hq.rdFrac := (reports_setSpareInUse w page b).hq_rdFrac
@[simp] theorem setSpareInUse_wrFrac : (w.setSpareInUse page b).n.hq.wrFrac = w.n.hq.wrFrac := (reports_setSpareInUse w page b).hq_wrFrac
@[simp] theorem setSpareInUse_regs : (w.setSpareInUse page b).regs = w.regs := (reports_setSpareInUse w page b).regs
@[simp] theorem setSpareInUse_mem : (w.setSpareInUse page b).mem = w.mem := (reports_setSpareInUse w page b).mem
@[simp] theorem setSpareInUse_wiped : (w.setSpareInUse page b).wiped = w.wiped := (reports_setSpareInUse w page b).wiped
@[simp] theorem setSpareInUse_svn : (w.setSpareInUse page b).svn = w.svn := (reports_setSpareInUse w page b).svn
end

end Sys2Proof.Laws
end

