-- ==== Sys2Proof/Laws/Updates.lean ====
section
/-!
SUPPORT. Sys2Proof/Laws/Updates.lean: the updates of one structure of the node that the meanings share: what each does to the node, and
that it writes no register and no memory.
-/

namespace Sys2Proof.Laws

open Sys2Proof.Machine

section
variable (w : Work)

@[simp] theorem setCourse_n (i : Nat) (c : Course) : (w.setCourse i c).n = { w.n with st.courses := insertN i c w.n.st.courses } := rfl
@[simp] theorem setCourse_regs (i : Nat) (c : Course) : (w.setCourse i c).regs = w.regs := rfl
@[simp] theorem setCourse_rw (i : Nat) (c : Course) : (w.setCourse i c).rw = w.rw := rfl
@[simp] theorem setCourse_mem (i : Nat) (c : Course) : (w.setCourse i c).mem = w.mem := rfl
@[simp] theorem setCourse_wr (i : Nat) (c : Course) : (w.setCourse i c).wr = w.wr := rfl
@[simp] theorem setCourse_wiped (i : Nat) (c : Course) : (w.setCourse i c).wiped = w.wiped := rfl
@[simp] theorem setCourse_svn (i : Nat) (c : Course) : (w.setCourse i c).svn = w.svn := rfl
@[simp] theorem setCourse_ppr (i : Nat) (c : Course) : (w.setCourse i c).ppr = w.ppr := rfl

@[simp] theorem modCourse_n (i : Nat) (f : Course → Course) : (w.modCourse i f).n = { w.n with st.courses := modifyN i f w.n.st.courses } := rfl
@[simp] theorem modCourse_regs (i : Nat) (f : Course → Course) : (w.modCourse i f).regs = w.regs := rfl
@[simp] theorem modCourse_rw (i : Nat) (f : Course → Course) : (w.modCourse i f).rw = w.rw := rfl
@[simp] theorem modCourse_mem (i : Nat) (f : Course → Course) : (w.modCourse i f).mem = w.mem := rfl
@[simp] theorem modCourse_wr (i : Nat) (f : Course → Course) : (w.modCourse i f).wr = w.wr := rfl
@[simp] theorem modCourse_wiped (i : Nat) (f : Course → Course) : (w.modCourse i f).wiped = w.wiped := rfl
@[simp] theorem modCourse_svn (i : Nat) (f : Course → Course) : (w.modCourse i f).svn = w.svn := rfl
@[simp] theorem modCourse_ppr (i : Nat) (f : Course → Course) : (w.modCourse i f).ppr = w.ppr := rfl

@[simp] theorem modMove_n (i : Nat) (f : Move → Move) : (w.modMove i f).n = { w.n with st.moves := modifyN i f w.n.st.moves } := rfl
@[simp] theorem modMove_regs (i : Nat) (f : Move → Move) : (w.modMove i f).regs = w.regs := rfl
@[simp] theorem modMove_rw (i : Nat) (f : Move → Move) : (w.modMove i f).rw = w.rw := rfl
@[simp] theorem modMove_mem (i : Nat) (f : Move → Move) : (w.modMove i f).mem = w.mem := rfl
@[simp] theorem modMove_wr (i : Nat) (f : Move → Move) : (w.modMove i f).wr = w.wr := rfl
@[simp] theorem modMove_wiped (i : Nat) (f : Move → Move) : (w.modMove i f).wiped = w.wiped := rfl
@[simp] theorem modMove_svn (i : Nat) (f : Move → Move) : (w.modMove i f).svn = w.svn := rfl
@[simp] theorem modMove_ppr (i : Nat) (f : Move → Move) : (w.modMove i f).ppr = w.ppr := rfl

@[simp] theorem modTree_n (i : Nat) (f : TreeRec → TreeRec) : (w.modTree i f).n = { w.n with ks.tree := modifyN i f w.n.ks.tree } := rfl
@[simp] theorem modTree_regs (i : Nat) (f : TreeRec → TreeRec) : (w.modTree i f).regs = w.regs := rfl
@[simp] theorem modTree_rw (i : Nat) (f : TreeRec → TreeRec) : (w.modTree i f).rw = w.rw := rfl
@[simp] theorem modTree_mem (i : Nat) (f : TreeRec → TreeRec) : (w.modTree i f).mem = w.mem := rfl
@[simp] theorem modTree_wr (i : Nat) (f : TreeRec → TreeRec) : (w.modTree i f).wr = w.wr := rfl
@[simp] theorem modTree_wiped (i : Nat) (f : TreeRec → TreeRec) : (w.modTree i f).wiped = w.wiped := rfl
@[simp] theorem modTree_svn (i : Nat) (f : TreeRec → TreeRec) : (w.modTree i f).svn = w.svn := rfl
@[simp] theorem modTree_ppr (i : Nat) (f : TreeRec → TreeRec) : (w.modTree i f).ppr = w.ppr := rfl

@[simp] theorem setKsBank_n (b : Nat) (f : List (Nat × KsEntry) → List (Nat × KsEntry)) : (w.setKsBank b f).n = { w.n with ks.banks := w.n.ks.banks.modify b fun k => { entries := f k.entries } } := rfl
@[simp] theorem setKsBank_regs (b : Nat) (f : List (Nat × KsEntry) → List (Nat × KsEntry)) : (w.setKsBank b f).regs = w.regs := rfl
@[simp] theorem setKsBank_rw (b : Nat) (f : List (Nat × KsEntry) → List (Nat × KsEntry)) : (w.setKsBank b f).rw = w.rw := rfl
@[simp] theorem setKsBank_mem (b : Nat) (f : List (Nat × KsEntry) → List (Nat × KsEntry)) : (w.setKsBank b f).mem = w.mem := rfl
@[simp] theorem setKsBank_wr (b : Nat) (f : List (Nat × KsEntry) → List (Nat × KsEntry)) : (w.setKsBank b f).wr = w.wr := rfl
@[simp] theorem setKsBank_wiped (b : Nat) (f : List (Nat × KsEntry) → List (Nat × KsEntry)) : (w.setKsBank b f).wiped = w.wiped := rfl
@[simp] theorem setKsBank_svn (b : Nat) (f : List (Nat × KsEntry) → List (Nat × KsEntry)) : (w.setKsBank b f).svn = w.svn := rfl
@[simp] theorem setKsBank_ppr (b : Nat) (f : List (Nat × KsEntry) → List (Nat × KsEntry)) : (w.setKsBank b f).ppr = w.ppr := rfl

@[simp] theorem modQuery_n (k : Nat) (f : Query → Query) : (w.modQuery k f).n = { w.n with qa.cur.queries := modifyN k f w.n.qa.cur.queries } := rfl
@[simp] theorem modQuery_regs (k : Nat) (f : Query → Query) : (w.modQuery k f).regs = w.regs := rfl
@[simp] theorem modQuery_rw (k : Nat) (f : Query → Query) : (w.modQuery k f).rw = w.rw := rfl
@[simp] theorem modQuery_mem (k : Nat) (f : Query → Query) : (w.modQuery k f).mem = w.mem := rfl
@[simp] theorem modQuery_wr (k : Nat) (f : Query → Query) : (w.modQuery k f).wr = w.wr := rfl
@[simp] theorem modQuery_wiped (k : Nat) (f : Query → Query) : (w.modQuery k f).wiped = w.wiped := rfl
@[simp] theorem modQuery_svn (k : Nat) (f : Query → Query) : (w.modQuery k f).svn = w.svn := rfl
@[simp] theorem modQuery_ppr (k : Nat) (f : Query → Query) : (w.modQuery k f).ppr = w.ppr := rfl

@[simp] theorem setRun_n (die : Nat) (r : Option CmpRun) : (w.setRun die r).n = { w.n with cp.runs := w.n.cp.runs.set die r } := rfl
@[simp] theorem setRun_regs (die : Nat) (r : Option CmpRun) : (w.setRun die r).regs = w.regs := rfl
@[simp] theorem setRun_rw (die : Nat) (r : Option CmpRun) : (w.setRun die r).rw = w.rw := rfl
@[simp] theorem setRun_mem (die : Nat) (r : Option CmpRun) : (w.setRun die r).mem = w.mem := rfl
@[simp] theorem setRun_wr (die : Nat) (r : Option CmpRun) : (w.setRun die r).wr = w.wr := rfl
@[simp] theorem setRun_wiped (die : Nat) (r : Option CmpRun) : (w.setRun die r).wiped = w.wiped := rfl
@[simp] theorem setRun_svn (die : Nat) (r : Option CmpRun) : (w.setRun die r).svn = w.svn := rfl
@[simp] theorem setRun_ppr (die : Nat) (r : Option CmpRun) : (w.setRun die r).ppr = w.ppr := rfl

@[simp] theorem modHalf_n (p h : Nat) (f : Half → Half) : (w.modHalf p h f).n = { w.n with lk.halves := w.n.lk.halves.modify (2 * p + h) f } := rfl
@[simp] theorem modHalf_regs (p h : Nat) (f : Half → Half) : (w.modHalf p h f).regs = w.regs := rfl
@[simp] theorem modHalf_rw (p h : Nat) (f : Half → Half) : (w.modHalf p h f).rw = w.rw := rfl
@[simp] theorem modHalf_mem (p h : Nat) (f : Half → Half) : (w.modHalf p h f).mem = w.mem := rfl
@[simp] theorem modHalf_wr (p h : Nat) (f : Half → Half) : (w.modHalf p h f).wr = w.wr := rfl
@[simp] theorem modHalf_wiped (p h : Nat) (f : Half → Half) : (w.modHalf p h f).wiped = w.wiped := rfl
@[simp] theorem modHalf_svn (p h : Nat) (f : Half → Half) : (w.modHalf p h f).svn = w.svn := rfl
@[simp] theorem modHalf_ppr (p h : Nat) (f : Half → Half) : (w.modHalf p h f).ppr = w.ppr := rfl

@[simp] theorem modConn_n (id : Nat) (f : Conn → Conn) : (w.modConn id f).n = { w.n with tp.conns := modifyN id f w.n.tp.conns } := rfl
@[simp] theorem modConn_regs (id : Nat) (f : Conn → Conn) : (w.modConn id f).regs = w.regs := rfl
@[simp] theorem modConn_rw (id : Nat) (f : Conn → Conn) : (w.modConn id f).rw = w.rw := rfl
@[simp] theorem modConn_mem (id : Nat) (f : Conn → Conn) : (w.modConn id f).mem = w.mem := rfl
@[simp] theorem modConn_wr (id : Nat) (f : Conn → Conn) : (w.modConn id f).wr = w.wr := rfl
@[simp] theorem modConn_wiped (id : Nat) (f : Conn → Conn) : (w.modConn id f).wiped = w.wiped := rfl
@[simp] theorem modConn_svn (id : Nat) (f : Conn → Conn) : (w.modConn id f).svn = w.svn := rfl
@[simp] theorem modConn_ppr (id : Nat) (f : Conn → Conn) : (w.modConn id f).ppr = w.ppr := rfl

@[simp] theorem modOut_n (k : Nat) (f : OutMsg → OutMsg) : (w.modOut k f).n = { w.n with tp.outMsgs := modifyN k f w.n.tp.outMsgs } := rfl
@[simp] theorem modOut_regs (k : Nat) (f : OutMsg → OutMsg) : (w.modOut k f).regs = w.regs := rfl
@[simp] theorem modOut_rw (k : Nat) (f : OutMsg → OutMsg) : (w.modOut k f).rw = w.rw := rfl
@[simp] theorem modOut_mem (k : Nat) (f : OutMsg → OutMsg) : (w.modOut k f).mem = w.mem := rfl
@[simp] theorem modOut_wr (k : Nat) (f : OutMsg → OutMsg) : (w.modOut k f).wr = w.wr := rfl
@[simp] theorem modOut_wiped (k : Nat) (f : OutMsg → OutMsg) : (w.modOut k f).wiped = w.wiped := rfl
@[simp] theorem modOut_svn (k : Nat) (f : OutMsg → OutMsg) : (w.modOut k f).svn = w.svn := rfl
@[simp] theorem modOut_ppr (k : Nat) (f : OutMsg → OutMsg) : (w.modOut k f).ppr = w.ppr := rfl

@[simp] theorem setQueue_n (q : Nat) (x : Queue) : (w.setQueue q x).n = { w.n with hq.queues := insertN q x w.n.hq.queues } := rfl
@[simp] theorem setQueue_regs (q : Nat) (x : Queue) : (w.setQueue q x).regs = w.regs := rfl
@[simp] theorem setQueue_rw (q : Nat) (x : Queue) : (w.setQueue q x).rw = w.rw := rfl
@[simp] theorem setQueue_mem (q : Nat) (x : Queue) : (w.setQueue q x).mem = w.mem := rfl
@[simp] theorem setQueue_wr (q : Nat) (x : Queue) : (w.setQueue q x).wr = w.wr := rfl
@[simp] theorem setQueue_wiped (q : Nat) (x : Queue) : (w.setQueue q x).wiped = w.wiped := rfl
@[simp] theorem setQueue_svn (q : Nat) (x : Queue) : (w.setQueue q x).svn = w.svn := rfl
@[simp] theorem setQueue_ppr (q : Nat) (x : Queue) : (w.setQueue q x).ppr = w.ppr := rfl

@[simp] theorem modPart_n (p : Nat) (f : Part → Part) : (w.modPart p f).n = { w.n with se.parts := w.n.se.parts.map fun q : Part => if q.id = p then f q else q } := rfl
@[simp] theorem modPart_regs (p : Nat) (f : Part → Part) : (w.modPart p f).regs = w.regs := rfl
@[simp] theorem modPart_rw (p : Nat) (f : Part → Part) : (w.modPart p f).rw = w.rw := rfl
@[simp] theorem modPart_mem (p : Nat) (f : Part → Part) : (w.modPart p f).mem = w.mem := rfl
@[simp] theorem modPart_wr (p : Nat) (f : Part → Part) : (w.modPart p f).wr = w.wr := rfl
@[simp] theorem modPart_wiped (p : Nat) (f : Part → Part) : (w.modPart p f).wiped = w.wiped := rfl
@[simp] theorem modPart_svn (p : Nat) (f : Part → Part) : (w.modPart p f).svn = w.svn := rfl
@[simp] theorem modPart_ppr (p : Nat) (f : Part → Part) : (w.modPart p f).ppr = w.ppr := rfl

@[simp] theorem setStream_n (x : Stream) : (w.setStream x).n = { w.n with mi.streams := w.n.mi.streams.map fun t => if t.part = x.part then x else t } := rfl
@[simp] theorem setStream_regs (x : Stream) : (w.setStream x).regs = w.regs := rfl
@[simp] theorem setStream_rw (x : Stream) : (w.setStream x).rw = w.rw := rfl
@[simp] theorem setStream_mem (x : Stream) : (w.setStream x).mem = w.mem := rfl
@[simp] theorem setStream_wr (x : Stream) : (w.setStream x).wr = w.wr := rfl
@[simp] theorem setStream_wiped (x : Stream) : (w.setStream x).wiped = w.wiped := rfl
@[simp] theorem setStream_svn (x : Stream) : (w.setStream x).svn = w.svn := rfl
@[simp] theorem setStream_ppr (x : Stream) : (w.setStream x).ppr = w.ppr := rfl

@[simp] theorem setIn_n (x : InStream) : (w.setIn x).n = { w.n with mi.inStreams := (w.n.mi.inStreams.filter fun t => !(t.src = x.src && t.part = x.part)) ++ [x] } := rfl
@[simp] theorem setIn_regs (x : InStream) : (w.setIn x).regs = w.regs := rfl
@[simp] theorem setIn_rw (x : InStream) : (w.setIn x).rw = w.rw := rfl
@[simp] theorem setIn_mem (x : InStream) : (w.setIn x).mem = w.mem := rfl
@[simp] theorem setIn_wr (x : InStream) : (w.setIn x).wr = w.wr := rfl
@[simp] theorem setIn_wiped (x : InStream) : (w.setIn x).wiped = w.wiped := rfl
@[simp] theorem setIn_svn (x : InStream) : (w.setIn x).svn = w.svn := rfl
@[simp] theorem setIn_ppr (x : InStream) : (w.setIn x).ppr = w.ppr := rfl

@[simp] theorem setHomeRun_n (r : HomeRun) : (w.setHomeRun r).n = { w.n with mi.homeOps := w.n.mi.homeOps.map fun h => if h.session = r.session then r else h } := rfl
@[simp] theorem setHomeRun_regs (r : HomeRun) : (w.setHomeRun r).regs = w.regs := rfl
@[simp] theorem setHomeRun_rw (r : HomeRun) : (w.setHomeRun r).rw = w.rw := rfl
@[simp] theorem setHomeRun_mem (r : HomeRun) : (w.setHomeRun r).mem = w.mem := rfl
@[simp] theorem setHomeRun_wr (r : HomeRun) : (w.setHomeRun r).wr = w.wr := rfl
@[simp] theorem setHomeRun_wiped (r : HomeRun) : (w.setHomeRun r).wiped = w.wiped := rfl
@[simp] theorem setHomeRun_svn (r : HomeRun) : (w.setHomeRun r).svn = w.svn := rfl
@[simp] theorem setHomeRun_ppr (r : HomeRun) : (w.setHomeRun r).ppr = w.ppr := rfl

@[simp] theorem modStrike_n (p : Nat) (f : StrikeRun → StrikeRun) : (w.modStrike p f).n = (w.modPart p fun q => { q with strike := q.strike.map f }).n := rfl
@[simp] theorem modStrike_regs (p : Nat) (f : StrikeRun → StrikeRun) : (w.modStrike p f).regs = w.regs := rfl
@[simp] theorem modStrike_rw (p : Nat) (f : StrikeRun → StrikeRun) : (w.modStrike p f).rw = w.rw := rfl
@[simp] theorem modStrike_mem (p : Nat) (f : StrikeRun → StrikeRun) : (w.modStrike p f).mem = w.mem := rfl
@[simp] theorem modStrike_wr (p : Nat) (f : StrikeRun → StrikeRun) : (w.modStrike p f).wr = w.wr := rfl
@[simp] theorem modStrike_wiped (p : Nat) (f : StrikeRun → StrikeRun) : (w.modStrike p f).wiped = w.wiped := rfl
@[simp] theorem modStrike_svn (p : Nat) (f : StrikeRun → StrikeRun) : (w.modStrike p f).svn = w.svn := rfl
@[simp] theorem modStrike_ppr (p : Nat) (f : StrikeRun → StrikeRun) : (w.modStrike p f).ppr = w.ppr := rfl

@[simp] theorem modMeter_n (p : Nat) (f : Meter16 → Meter16) : (w.modMeter p f).n = { w.n with mt.meters := w.n.mt.meters.map fun m => if m.part = p then f m else m } := rfl
@[simp] theorem modMeter_regs (p : Nat) (f : Meter16 → Meter16) : (w.modMeter p f).regs = w.regs := rfl
@[simp] theorem modMeter_rw (p : Nat) (f : Meter16 → Meter16) : (w.modMeter p f).rw = w.rw := rfl
@[simp] theorem modMeter_mem (p : Nat) (f : Meter16 → Meter16) : (w.modMeter p f).mem = w.mem := rfl
@[simp] theorem modMeter_wr (p : Nat) (f : Meter16 → Meter16) : (w.modMeter p f).wr = w.wr := rfl
@[simp] theorem modMeter_wiped (p : Nat) (f : Meter16 → Meter16) : (w.modMeter p f).wiped = w.wiped := rfl
@[simp] theorem modMeter_svn (p : Nat) (f : Meter16 → Meter16) : (w.modMeter p f).svn = w.svn := rfl
@[simp] theorem modMeter_ppr (p : Nat) (f : Meter16 → Meter16) : (w.modMeter p f).ppr = w.ppr := rfl

@[simp] theorem modSession_n (i : Nat) (f : Session → Session) : (w.modSession i f).n = { w.n with pg.sessions := modifyN i f w.n.pg.sessions } := rfl
@[simp] theorem modSession_regs (i : Nat) (f : Session → Session) : (w.modSession i f).regs = w.regs := rfl
@[simp] theorem modSession_rw (i : Nat) (f : Session → Session) : (w.modSession i f).rw = w.rw := rfl
@[simp] theorem modSession_mem (i : Nat) (f : Session → Session) : (w.modSession i f).mem = w.mem := rfl
@[simp] theorem modSession_wr (i : Nat) (f : Session → Session) : (w.modSession i f).wr = w.wr := rfl
@[simp] theorem modSession_wiped (i : Nat) (f : Session → Session) : (w.modSession i f).wiped = w.wiped := rfl
@[simp] theorem modSession_svn (i : Nat) (f : Session → Session) : (w.modSession i f).svn = w.svn := rfl
@[simp] theorem modSession_ppr (i : Nat) (f : Session → Session) : (w.modSession i f).ppr = w.ppr := rfl

/-- A use of a context changes nothing but the order of use (R276). -/
@[simp] theorem useCtx_n (id : Nat) : (w.useCtx id).n = { (w.modConn id fun c => { c with lastUsed := w.n.tp.useSeq + 1 }).n with tp.useSeq := w.n.tp.useSeq + 1 } := rfl
@[simp] theorem useCtx_regs (id : Nat) : (w.useCtx id).regs = w.regs := rfl
@[simp] theorem useCtx_rw (id : Nat) : (w.useCtx id).rw = w.rw := rfl
@[simp] theorem useCtx_mem (id : Nat) : (w.useCtx id).mem = w.mem := rfl
@[simp] theorem useCtx_wr (id : Nat) : (w.useCtx id).wr = w.wr := rfl
@[simp] theorem useCtx_wiped (id : Nat) : (w.useCtx id).wiped = w.wiped := rfl
@[simp] theorem useCtx_svn (id : Nat) : (w.useCtx id).svn = w.svn := rfl
@[simp] theorem useCtx_ppr (id : Nat) : (w.useCtx id).ppr = w.ppr := rfl

end

end Sys2Proof.Laws
end

