-- ==== Sys2Proof/Tests/Slice0.lean ====
section
/-!
SUPPORT. Sys2Proof/Tests/Slice0.lean: small states, for each clause of a statement that has hypotheses a named witness that they hold
together somewhere, the ill-formed commands that WellFormed refuses, and the worked examples of spec/.
-/

set_option linter.all false
set_option maxRecDepth 200000

open Sys2Proof Sys2Proof.Machine Sys2Proof.Safety

namespace Sys2Proof.Tests

/-! ## States -/

def up : State := State.reset
def down : State := { up with node := { up.node with bo := { up.node.bo with on := false } } }
def reg (s : State) (f : Fld) (v : Nat) (i j : Nat := 0) : State :=
  { s with regs := RegFile.put s.regs (f.key i j) v (f.resetAt i j) }
def pciUp : State := reg (reg up Reg.PCI_UP 1) Reg.GLB_FW_RUNNING 1
def pf (off data : Nat) : RegWr := ⟨.pf, off, 15, BitVec.ofNat 32 data⟩

def stacked : State :=
  [0, 1, 2, 3, 4, 5, 6, 7].foldl (fun s i => reg (reg s Reg.HBM_TRAINED 1 i) Reg.HBM_IN_SERVICE 1 i) (reg up Reg.CST_READY 255)
def rehTested : State := reg stacked Reg.GLB_DDR_DONE 1
def promoting : State :=
  { reg up Reg.GLB_NODE_STATE 1 with node := { up.node with bo := { up.node.bo with promoteAt := some 0 } } }

def full : State := reg stacked Reg.GLB_NODE_STATE 2
def ddrUp : State := [0, 1, 2].foldl (fun s c => reg (reg (reg (reg s Reg.DDR_TRAINED 1 c) Reg.DDR_IN_STRIPE 1 c) Reg.DDR_MODULES 2 c) Reg.DDR_MOD_GIB 64 c) full
def qd : QDesc := { qbf16 := false, fp8 := false, collect := false, noLocal := false, layer := 0, heads := 1, session := 0, cid := 0, sigma := 0, queryId := 7, group := 0, dest := 0xFFFF, expect := 0, reply := 0, level := 0, payLen := 0, tag := 9 }
def query : Query := { src := .queue 5 0, part := 1, desc := qd, arrival := 0, sheet := 1, session := 0, fmt := 0, channels := 0, expanded := false, payload := [], senders := [], tiles := [], pagesNamed := 0, rbs := [], results := [], folded := [], acc := [], dropped := [], spoiled := false, fixedVis := false, status := 0, phase := .running, record := none }
def withCur (s : State) (c : Sheet) : State := { s with node := { s.node with qa := { s.node.qa with cur := c } } }
def runningSheet : State := withCur full { tick := 1, state := .running, queries := [(1, query)], tiles := [] }
def drainingSheet : State := withCur full { tick := 1, state := .draining, queries := [(1, { query with phase := .stopped })], tiles := [] }
def theSession : Session := { gen := 1, state := .open, part := 1, fmt := 0, layers := [Layer.empty], cid := 77, parentCid := 0, forkPos := 0, openTick := 0, slots := 0, ownEpoch := 0, origin := 0, hint := 0, ksBank := none, ksIdx := 0, own := .own, orphan := false, lastQuery := none, interval := none, waiting := none, waitTick := 0 }
def withPg (s : State) (p : Pager) : State := { s with node := { s.node with pg := p } }
def withSt (s : State) (p : Store) : State := { s with node := { s.node with st := p } }
def sessioned : State := withPg full { full.node.pg with sessions := [(0, theSession)] }
def gap : Staged := { src := .queue 5 0, session := 0, part := 1, layer := 0, jump := false, raw := false, count := 1, firstPos := 9, rows := [[]], tag := 3, retries := 2, arrival := 0, why := .gap }
def stagedGap : State := withPg sessioned { sessioned.node.pg with staged := [gap, { gap with retries := 7, tag := 4 }] }
def theCourse : Course := { part := 1, k := 0, slot := 4096, tail := false, heat := 9, lastTouch := 0, loc := .hbm 7, session := some 0, creator := 0, layer := 0, refs := 1, fromReserve := false, base := 1, pages := [], heatTick := none }
def theMove : Move := { course := 2, cls := .rebalance, dst := .hbm 99, checked := none, pinnedSheets := 0, blksDone := [], started := 0, tries := 0 }
def oneCourse : State := withSt sessioned { sessioned.node.st with courses := [(2, theCourse)] }
def moving : State := { withSt oneCourse { oneCourse.node.st with moves := [(3, theMove)] } with mem := [(7 * 4096 + 5, 17)] }
def movedAndChecked : State := withSt oneCourse { oneCourse.node.st with moves := [(3, { theMove with checked := some 1 })] }
def theTailCopy : TailCopy := { session := 0, layer := 0, srcCourse := 2, srcPage := 0, dst := 4, fromReserve := false }
def tailCopying : State := withSt oneCourse { oneCourse.node.st with tailCopies := [(0, theTailCopy)] }

def withTp (s : State) (p : Transport) : State := { s with node := { s.node with tp := p } }
def theConn : Conn := { part := 1, peerNode := 9, peerConn := 1, subscriber := 0, portMask := 1, rkeyOk := true, state := .active, epoch := 1, key := 0, prevKey := none, hot := true, slot := 0, lastUsed := 0, removeTick := 0, rekeyTick := 0, txPsn := 0, txMsn := 0, txAckSeq := 0, unacked := [], rxBase := 0, rxSeen := [], rxAckSeq := 0, ackDue := false, ackWanted := false, records := [], msnLow := 5, msnDone := [], fetching := false, heldPkts := [], noticeTick := none }
def connected : State := reg (withTp full { full.node.tp with conns := [(3, theConn)] }) Reg.PP_STATE 1 1
def tabled : State := reg connected Reg.KEY_TABLE 2 0 4
def wire (widths : List Nat) (b : Bytes) : Bytes := swapFields widths b
def sessDesc (op fmt layers handle cid hint pos tag : Nat) : Bytes :=
  leBytes 1 op ++ leBytes 1 fmt ++ leBytes 1 layers ++ [0] ++ leBytes 4 handle ++ leBytes 8 cid ++ leBytes 4 hint ++ leBytes 4 pos ++ leBytes 4 tag ++ List.replicate 36 0
def openable : State := reg (reg (reg tabled Reg.PGM_VALID 1 0 0) Reg.CL_VALID 1 0 0) Reg.PGM_SESS_MAX 8 0 1
def fullPage : Page := { layer := 0, firstPos := 0, counted := 16, landed := 16, flags := 0, fmt := 0, rowBytes := 64, creator := 0x40000, cid := 77, handle := 1, installTick := 0, blockId := 0, lost := false }
def partPage : Page := { fullPage with counted := 5, landed := 5 }
def pagedBy (s : State) (p : Page) : State :=
  withPg (withSt s { s.node.st with courses := [(2, { theCourse with pages := [p] })] })
    { s.node.pg with sessions := [(0, { theSession with layers := [{ Layer.empty with runs := [⟨2, 0, 1⟩], rows := p.counted }] })] }
def forkable : State := pagedBy (reg openable Reg.PGM_FORK_EN 1) fullPage
def closing : State := withPg full { full.node.pg with sessions := [(0, { theSession with state := .closing, gen := 2 })] }
def formingOne : State := withPg full { full.node.pg with sessions := [(1, { theSession with state := .forming })] }

def appDesc (handle layer form count first rowLen cid tag : Nat) : Bytes :=
  leBytes 4 handle ++ leBytes 1 layer ++ leBytes 1 form ++ leBytes 2 count ++ leBytes 4 first ++ leBytes 4 rowLen ++ leBytes 8 cid ++ leBytes 4 tag ++ leBytes 4 0
def appendMem : Bytes := appDesc 0x40000 0 1 1 5 18 77 7
def appendWire : Bytes := wire appendFields appendMem ++ List.replicate 18 0
def appendGapMem : Bytes := appDesc 0x40000 0 1 1 9 18 77 7
def appendGapWire : Bytes := wire appendFields appendGapMem ++ List.replicate 18 0
def appPage : Page := { partPage with rowBytes := 18 }
def appendable : State := pagedBy (reg (reg (reg (reg (reg openable Reg.PGM_LATENT 32 0 0) Reg.PGM_GROUP 0 0 0) Reg.PGM_STAGE_MAX 4 0 1) Reg.PGM_APPEND_EN 1) Reg.QAD_SESSION_PCT 50) appPage
def appendSession : Session := { theSession with layers := [{ Layer.empty with runs := [⟨2, 0, 1⟩], rows := 5 }] }
def landing : State := withPg (pagedBy openable appPage) { (pagedBy openable appPage).node.pg with install := [[⟨2, 0, 4, List.replicate 18 3, none⟩], []] }

def withKs (s : State) (p : Keystone) : State := { s with node := { s.node with ks := p } }
def pfxDesc (op fmt layers handle cid pos count tag jump parent : Nat) : Bytes :=
  leBytes 1 op ++ leBytes 1 fmt ++ leBytes 1 layers ++ [0] ++ leBytes 4 handle ++ leBytes 8 cid ++ leBytes 4 pos ++ leBytes 4 count ++ leBytes 4 tag ++ leBytes 4 jump ++ leBytes 8 parent ++ List.replicate 24 0
def matchMem : Bytes := pfxDesc 0x10 0 1 0x40000 77 16 1 7 0 0 ++ List.replicate 72 0
def pinMem : Bytes := pfxDesc 0x13 0 1 0 0 0 1 7 0 0 ++ List.replicate 72 0
def matchWire : Bytes := wire prefixFields (matchMem.take 64) ++ List.replicate 72 0
def pinWire : Bytes := wire prefixFields (pinMem.take 64) ++ List.replicate 72 0
def shareable : State := reg (reg (reg forkable Reg.KEY_PFX_EN 1) Reg.KEY_TABLE 1 0 6) Reg.KEY_OWNER 1 0 6
def theAsked : PfxOp := askedPrefix shareable .match_ (.conn 3 5) matchWire 1 matchMem (some (0, { theSession with layers := [{ Layer.empty with runs := [⟨2, 0, 1⟩], rows := 16 }] }))
def pfxWaiting : State := withKs shareable { shareable.node.ks with waiting := [theAsked] }
def pfxRunning : State := withKs shareable { shareable.node.ks with running := some theAsked }
def badEntry : State := reg (withKs shareable { shareable.node.ks with banks := shareable.node.ks.banks.set 5 { entries := [(3, (KsEntry.make 0 1 [1] 1).flip 0 0)] } }) Reg.KEY_SCAN_EN 1

def withCl (s : State) (p : Clusters) : State := { s with node := { s.node with cl := p } }
def withQa (s : State) (p : Admission) : State := { s with node := { s.node with qa := p } }
def active : State := (List.range 26).foldl (fun s c => if c % 13 = 12 then s else reg s Reg.CL_ACTIVE 1 c) full
def theSwap : PendSwap := { field := 0, retire := 7, activate := 12, effect := 0 }
def swapDue : State := withCl active { active.node.cl with swaps := [theSwap] }
def theTile : Tile := { course := 2, j := 0, pages := [0], fmt := 0, slot := 3, rows := 16, tier1 := false, fromDst := false, lostPages := [], expanded := [] }
def sheetQuery : Query := { query with tiles := [⟨4, [(0, 5)]⟩], pagesNamed := 1, acc := [⟨false, 0, 0, []⟩] }
def attending : State :=
  let s := pagedBy (reg (reg (reg (reg active Reg.PWR_A_P 1024) Reg.THM_C_T 1024) Reg.PGM_LATENT 32 0 0) Reg.PGM_GROUP 0 0 0) { partPage with rowBytes := 18 }
  withCur s { tick := 1, state := .running, queries := [(1, sheetQuery)], tiles := [(4, theTile)] }
def portFull : State := withQa attending { attending.node.qa with ports := [(3, [(1, 2)])] }
def portLast : State := withQa attending { attending.node.qa with ports := [(3, [(1, 0)])] }
def cbReady : State :=
  reg (reg (reg (reg (reg full Reg.CL_ENTRIES 0x84858687 0 128) Reg.CL_ENTRIES 0x00818283 0 129) Reg.CL_ENTRIES 0x04030201 0 130)
    Reg.CL_ENTRIES 0x08070605 0 131) Reg.CL_CB 2

def queryable : State := withPg (reg (reg (reg (reg (reg openable Reg.PGM_LATENT 32 0 0) Reg.PGM_GROUP 0 0 0) Reg.QAD_ADMIT_EN 1) Reg.QAD_SESSION_PCT 50) Reg.MRG_COLLECT_EN 1) { openable.node.pg with sessions := [(0, theSession)] }
def attendMem : Bytes :=
  [1, 0, 0, 1] ++ leBytes 4 0x40000 ++ leBytes 8 77 ++ leBytes 4 0x3F800000 ++ leBytes 4 5 ++ leBytes 4 6 ++ leBytes 2 0xFFFF ++ leBytes 2 0 ++
  leBytes 4 3 ++ leBytes 4 0 ++ leBytes 4 32 ++ leBytes 4 7 ++ List.replicate 16 0 ++ List.replicate 32 0
def attendWire : Bytes := wire queryFields (attendMem.take 64) ++ List.replicate 32 0
def theRecord (kind : Nat) : PartialRec := { kind := kind, status := 2, fp8 := false, headerOnly := true, level := 0, heads := 1, group := 6, queryId := 5, srcNode := 9, channels := 32, pagesDone := 0, pagesNamed := 4, tick := 1, merged := 1, missing := 0, vec := [] }
def partialBytes (kind : Nat) : Bytes := (theRecord kind).bytes true
def theGroup : Group := { part := 1, group := 6, desc := { qd with collect := true, level := 1, expect := 2, group := 6 }, src := .conn 3 5, arrival := 0, sheet := 1, fmtC := 32, senders := [9, 10], inputs := [], own := none, needOwn := false, closed := false }
def theHeld : Held := { part := 1, prec := theRecord 0, dest := 9, sheet := 1, src := .conn 3 5, desc := qd }
def theEarly : Early := { part := 1, conn := 3, prec := theRecord 0, arrived := 0 }
def collecting : State := withQa connected { connected.node.qa with groups := [theGroup], held := [(2, theHeld)], early := [(1, theEarly)], credits := [(1, 6)] }
def collectingLate : State := { collecting with node := { collecting.node with tk := { collecting.node.tk with now := 5000 } } }

def spillMove : Move := { theMove with dst := .ddr [] }
def spilling : State := withSt (withSt ddrUp { ddrUp.node.st with courses := [(2, theCourse)] }) { ddrUp.node.st with courses := [(2, theCourse)], moves := [(3, spillMove)] }
def zeroBlock : Bytes := passBlock false 0 1 0 1 (List.replicate 64 0)
def theBlk : Blk := { die := 0, unit := 0, len := 96, mode := 1 }
def ddrCourse : Course := { theCourse with loc := .ddr [theBlk] }
def expanding : State := [0, 23].foldl (fun s i => reg s Reg.XPD_ACTIVE 1 0 i) ddrUp
def lifting : State :=
  { withCur (withSt expanding { expanding.node.st with courses := [(2, ddrCourse)], moves := [(3, theMove)] })
      { tick := 1, state := .running, queries := [], tiles := [(4, { theTile with tier1 := true })] } with
    mem := Mem.putAll [] (ddrKey 0 0) zeroBlock }

def linked : State :=
  let s := reg (reg (reg full Reg.GLB_IDS_LOCKED 1) Reg.GLB_EVER_FULL 1) Reg.GLB_NODE_ID 4
  { s with node := { s.node with bo := { s.node.bo with fabricSet := true } } }
def withHalf (s : State) (i : Nat) (f : Half → Half) : State := { s with node := { s.node with lk := { halves := s.node.lk.halves.modify i f } } }
def swapping : State := withHalf (reg linked Reg.LP_STATE_A 5 2) 4 fun x => { x with swap := some ⟨3, true, some 8, false⟩ }
def sending (c : Nat) : State :=
  let s := withHalf (reg (reg linked Reg.LP_STATE_A 5 2) Reg.FAB_EN 1) 4 fun x => { x with avail := [9, 9, 9, 9] }
  { s with node := { s.node with sc := { s.node.sc with portQ := [(4, [⟨c, [1, 2, 3], none⟩])] } } }
def following : State :=
  withHalf (reg (reg (reg (reg (reg (reg linked Reg.LP_STATE_A 5 2) Reg.TICK_LOCK 2) Reg.TICK_SRC_PORT 2) Reg.LP_TICK_ELIG 1 2) Reg.LP_TICK_ELIG 1 9) Reg.LP_STATE_A 5 9) 18
    fun x => { x with peerTick := 6 }

def hent (op sflags len : Nat) : HEntry := { idx := 0, sqIndex := 0, seq := 0, opcode := op, sflags := sflags, waitEn := false, waitQ := 0, waitCount := 0, waitTicks := 0, tag := 9, payAddr := 0x1000, payLen := len, conn := 3, resAddr := 0x2000, resLen := 64, msgOp := 1, target := 0, started := true, arrived := false, suppressed := false, fetchTick := 0, fail := 0, handle := none }
def theQueue (h : HEntry) : Queue := { state := .enabled, tail := 1, fetch := 1, cqHead := 0, cqProd := 0, unconsumed := 0, phase := true, count := 0, failCount := 0, lastHandle := 0, seq := 1, entries := [h], recvs := [], unsignalled := 0, ending := none }
def withHq (s : State) (p : HostIf) : State := { s with node := { s.node with hq := p } }
def withQ (s : State) (q : Queue) : State :=
  withHq (reg (reg (reg (reg s Reg.QUE_BASE 4 0 1) Reg.QUE_COUNT 4 0 1) Reg.QCFG_SQ_LOG2 4 5) Reg.QCFG_CQ_LOG2 4 5) { s.node.hq with queues := [(5, q)] }
def busOn (s : State) : State := { s with node := { s.node with bo := { s.node.bo with busMaster := true } } }
def queued (op sflags len : Nat) : State := withQ (reg (reg (reg tabled Reg.KEY_TABLE 3 0 1) Reg.CNX_BASE 0 0 1) Reg.CNX_COUNT 16 0 1) (theQueue (hent op sflags len))
def connDesc (op id epoch : Nat) : Bytes :=
  [BitVec.ofNat 8 op, 0] ++ leBytes 2 9 ++ leBytes 4 id ++ leBytes 4 77 ++ leBytes 2 epoch ++ leBytes 2 0 ++ leBytes 4 5 ++ leBytes 4 1 ++ List.replicate 104 0
def regionDesc (op perm key base len : Nat) : Bytes :=
  [BitVec.ofNat 8 op, BitVec.ofNat 8 perm, 0, 0] ++ leBytes 4 key ++ leBytes 8 base ++ leBytes 4 len ++ leBytes 4 5 ++ List.replicate 8 0
def withSe (s : State) (p : Security) : State := { s with node := { s.node with se := p } }
def thePart : Part := { id := 1, state := .live, created := true, createTick := 0, key := none, allotTop := some 0, allotLen := 65536, strikes := 0, strike := none, record := [] }
def allotted (s : State) : State := withSe s { s.node.se with parts := [thePart] }
def theRegion : Region := { part := 1, base := 4096, len := 4096, perm := 7, gen := 2, ksBank := 5, ksIdx := 0, draining := none }
def exported (s : State) : State :=
  let s := reg s Reg.KEY_TABLE 4 0 5
  withKs (withTp s { s.node.tp with regions := [(2 ^ 24 + 6, theRegion)] })
    { s.node.ks with banks := s.node.ks.banks.set 5 { entries := [(0, KsEntry.make 0 0 (rkeyKey 1 6) (2 ^ 24 + 6))] } }
def setConn (s : State) (c : Conn) : State := withTp s { s.node.tp with conns := [(3, c)] }

/-- The Keystone entry of connection 3, whose hot context is in slot 0. -/
def found (s : State) : State :=
  withKs (reg s Reg.KEY_TABLE 3 0 1) { s.node.ks with banks := s.node.ks.banks.set 1 { entries := [(0, KsEntry.make 0 0 [3] 0)] } }
def fabOn (s : State) : State := reg (reg (reg (reg (found s) Reg.FAB_EN 1) Reg.PP_STATE 1 1) Reg.GLB_NODE_ID 4) Reg.POL_EN 0
def aPkt (op flags dst src dstN epoch psn low msn index target len : Nat) : Bytes :=
  (PktHead.bytes { op := op, flags := flags, hops := 7, dst := dst, srcNode := src, dstNode := dstN, epoch := epoch, psn := psn, low := low, msn := msn, index := index, target := target }) ++ List.replicate (len + 16) 0
def onHalf (s : State) (pkt : Bytes) : State := withHalf s 4 fun x => { x with rxQ := [(2, pkt)] }
def aSent (psn : Nat) : Sent := { psn := psn, msn := 4, index := 0, last := true, resp := false, sends := 1, port := 4, overtaken := true }
def aOut (purpose : Purpose) : OutMsg := { conn := 3, op := 1, resp := false, msn := 4, service := 6, cls := 3, target := 0, payload := [1, 2], cmpr := false, next := 1, resend := [], acked := [0], started := true, purpose := purpose, extent := 0, got := [], gotCount := none }
def awaiting (m : OutMsg) : State :=
  let s := setConn connected { theConn with unacked := [aSent 2, aSent 3], txPsn := 4, txMsn := 5 }
  withTp s { s.node.tp with outMsgs := [(7, m)], nextOut := 8 }
def accessed : State := exported connected
def aPart (msn : Nat) (last : Bool) (off : Nat) (payload : Bytes) : MsgPart := { conn := 3, msn := msn, index := 0, last := last, target := 6 * 2 ^ 40 + 2 * 2 ^ 32 + off, payload := payload }
def posted : State := withQ connected { theQueue (hent 9 0 0) with entries := [], recvs := [{ hent 8 8 0 with idx := 4 }] }
def ackBytes (cum : Nat) (recs : List Bytes) : Bytes :=
  (leBytes 3 cum).reverse ++ [0] ++ (leBytes 3 cum).reverse ++ [0] ++ List.replicate 64 0 ++ (leBytes 2 recs.length).reverse ++ List.replicate 6 0 ++ recs.flatten
def recBytes (msn status : Nat) : Bytes := (leBytes 3 msn).reverse ++ [BitVec.ofNat 8 status] ++ List.replicate 12 0

def theConn0 : Conn := { theConn with part := 0, rkeyOk := true, msnLow := 6 }
def served : State := reg (reg (withTp full { full.node.tp with conns := [(2, theConn0), (3, theConn)] }) Reg.PP_STATE 1 1) Reg.GLB_NODE_ID 4
def strikeBody (role : Nat) (es : List Bytes) : Bytes :=
  [1, 1] ++ (leBytes 2 9).reverse ++ [1, BitVec.ofNat 8 role, 0, 0] ++ (leBytes 4 5).reverse ++ (leBytes 4 es.length).reverse ++ (leBytes 8 0).reverse ++ List.replicate 40 0 ++ es.flatten
def anInStream : InStream := { src := 9, part := 1, gen := 1, nextSeq := 0, pendingMeta := [], outcomes := [], courses := [], slices := [], oldCourses := [], oldSlices := [], trees := [], stopped := false }
def withMi (s : State) (p : Mirror) : State := { s with node := { s.node with mi := p } }
def standby : State := reg (reg (reg served Reg.MIR_EN 1) Reg.MIR_SRC_A_108 9) Reg.PP_STATE 1 1
def aBatch : Bytes := BatchHead.message { part := 1, flags := 0, src := 9, msgs := 0, tick := 0, gen := 4, seq := 0, firstMsn := 0, bytes := 0, records := 0, metaLen := 0, rows := 0 } []
def notified : State := reg (reg (withQ connected { theQueue (hent 9 0 0) with entries := [] }) Reg.QUE_EN 1 0 1) Reg.QUE_QUEUE_10C 5 0 1
def schedulable (c : Conn) : State := reg (reg (reg (fabOn (setConn connected c)) Reg.SCH_EN_114 1 0 0) Reg.SCH_PART_114 1 0 0) Reg.SCH_EN_100 1
def routed (s : State) : State := reg s Reg.FAB_PORTS 4 0 9
def sendable : State :=
  let s := routed (schedulable theConn)
  withTp s { s.node.tp with outMsgs := [(7, { aOut .notice with acked := [], next := 0, started := false, msn := 0 })], nextOut := 8 }

def unroutable : State :=
  let s := schedulable theConn
  withTp s { s.node.tp with outMsgs := [(7, { aOut (.hostMsg 5 0) with acked := [], next := 0, started := false, msn := 0 })], nextOut := 8 }

def mailed (q : Queue) : State := reg (reg (withQ full q) Reg.QUE_BASE 4 0 0) Reg.QUE_COUNT 4 0 0
def emptyQueue (st : QState) : Queue := { theQueue (hent 9 0 0) with state := st, entries := [] }
def mail (op q seq : Nat) : RegWr := pf 0x77104 (op + q * 256 + seq * 2 ^ 20)
def nopEntry : Bytes := [9, 0, 0, 0] ++ leBytes 4 77 ++ List.replicate 56 0
def fetching : State := busOn (withQ full { emptyQueue .enabled with tail := 2 })
def waitingEntry : State :=
  let s := withQ full (theQueue { hent 9 0 0 with started := false, waitEn := true, waitTicks := 3 })
  { s with node := { s.node with tk := { s.node.tk with now := 9 } } }
def hostMem (s : State) (a : Nat) (b : Bytes) : State := { s with mem := Mem.putAll s.mem a b }

def cmd (op p seq : Nat) : RegWr := pf 0x75104 (op + p * 256 + seq * 65536)
def creatable : State := reg full Reg.PP_ALLOT_MIB 4 2
def aStrike : StrikeRun := { strikeId := 1, fence := 0, keysAt := none, cut := false, suppressed := 0, authDrops := 0, noticesSent := 0, noticesOpen := [], noticesLost := 0, scrubEnd := none, scrubKib := 0, frames := 0, ddrKib := 0, hostKib := 0, sessions := 1, conns := 1 }
def struck (code : Nat) (st : PState) (r : StrikeRun) : State :=
  let s := reg oneCourse Reg.PP_STATE code 1
  let s := withTp s { s.node.tp with conns := [(3, { theConn with prevKey := some 5, unacked := [aSent 2] })] }
  let s := { s with node := { s.node with tk := { s.node.tk with now := 9 } } }
  withSe s { s.node.se with parts := [{ thePart with state := st, key := some 7, strike := some r, allotTop := none, allotLen := 0 }] }
def scrubbing : State := hostMem (struck 3 .scrubbing { aStrike with keysAt := some 4 }) 28672 [1, 2, 3]
def scrubDone : State := withSt (struck 3 .scrubbing { aStrike with keysAt := some 4, chipDone := true }) Store.reset
def publishing : State := reg (withPg (withSt (withTp (struck 3 .scrubbing { aStrike with keysAt := some 4, scrubEnd := some 6 }) Transport.reset) Store.reset) Pager.reset) Reg.PP_HBM_QUOTA 5 1
def keyed : State := { reg (allotted full) Reg.PP_STATE 1 1 with node := { (reg (allotted full) Reg.PP_STATE 1 1).node with se := { (reg (allotted full) Reg.PP_STATE 1 1).node.se with fkek := some 5 } } }
def zeroAlloted : State := withSe full { full.node.se with parts := [{ thePart with id := 0 }] }
def anAtt : AttReq := { fn := .pf, scope1 := false, part := 0, cert := false, addr := 4096, nonce := List.replicate 32 1 }
def attesting (r : AttReq) : State := withSe full { full.node.se with attBusy := some r }

def orderHdr (s : State) (type flags off : Nat) (body : Bytes) : Bytes :=
  [1, BitVec.ofNat 8 type, BitVec.ofNat 8 flags, 0] ++ leBytes 4 9 ++ leBytes 2 s.view.nodeId ++ leBytes 2 body.length ++ leBytes 4 off ++
    List.replicate 8 0 ++ leBytes 2 (rd s Reg.MG_MK_EPOCH) ++ List.replicate 6 0
def asks (s : State) (type flags off : Nat) (body : Bytes) : Frame :=
  let c := Sys2Proof.Crypto.gcmSeal 5 (mgNonce 7 0 0 (fieldAt (orderHdr s type flags off body) 4 4)) (orderHdr s type flags off body) body
  { port := 0, mac := 7, payload := orderHdr s type flags off body ++ (c.1 ++ c.2) }
def asked (s : State) (type flags off : Nat) (body : Bytes) : MgReq :=
  MgReq.mk 0 7 type (fieldAt (orderHdr s type flags off body) 2 1) (fieldAt (orderHdr s type flags off body) 4 4)
    (fieldAt (orderHdr s type flags off body) 0xC 4) body false 5 (rd s Reg.MG_MK_EPOCH 0)
theorem request_read {s : State} {type flags off : Nat} {body : Bytes} {cls : Fld} (hk : s.node.mt.key = some 5)
    (ok : Sys2Proof.Laws.HeaderOk s (asks s type flags off body) (orderHdr s type flags off body) body type cls) :
    requestOf s (asks s type flags off body) type cls = some (asked s type flags off body) :=
  Sys2Proof.Laws.requestOf_sealed rfl hk ok
def withMt (s : State) (p : Mgmt) : State := { s with node := { s.node with mt := p } }
def managed (s : State) : State :=
  let s := reg s Reg.MG_LINK_UP 1
  withMt s { s.node.mt with key := some 5 }
def clearAsk (s : State) (type : Nat) (body : Bytes) : Frame := { port := 0, mac := 7, payload := orderHdr s type 2 0 body ++ body }
def clearAsked (s : State) (type : Nat) (body : Bytes) : MgReq := MgReq.mk 0 7 type 2 9 0 body true 0 (rd s Reg.MG_MK_EPOCH)

def budgeted : State := { managed full with node := { (managed full).node with pw := { (managed full).node.pw with anyBudget := true } } }

def aSlice : CopySlice := { cid := 77, fmt := 0, layers := 1, parentCid := 0, forkPos := 0, ownEpoch := 1, openTick := 0, state := 1, runs := [], committed := some [] }
def takenFrom : State := reg (withMi (managed full) { (managed full).node.mi with inStreams := [{ anInStream with slices := [aSlice], pendingMeta := [(3, 9, [])] }] }) Reg.MIR_FENCE_MIN 7 0 9
def mirroredOne : State := reg (reg (managed sessioned) Reg.MIR_MIRROR 1 0 1) Reg.MIR_UNDERSTUDY 9
def orphaned : State := withPg mirroredOne { mirroredOne.node.pg with sessions := [(0, { theSession with own := .unconfirmed, orphan := true })] }
def aReport : KeptReport := { port := 0, nonce := List.replicate 32 1, scope1 := false, part := 1, cert := false, ask := none, bytes := some [1, 2, 3] }
def reported : State := withMt (managed full) { (managed full).node.mt with reports := [aReport] }
def loggedOne : State := { managed full with node := { (managed full).node with log := [{ seq := 0, bytes := [1, 2] }], logSeq := 1 } }
def aMeter : Meter16 := { part := 1, cnt := [], prev := [], number := 4, from_ := 0, digest := 0, kept := [(0, List.replicate 8 1 ++ [3, 0, 0, 0])], final := none, fenced := false }
def metered : State := withMt (managed full) { (managed full).node.mt with meters := [aMeter] }
def aStream : ChunkStream := { port := 1, mac := 7, image := 1, next := 0, last := 0, token := [] }
def streaming : State := withMt (managed full) { (managed full).node.mt with stream := some aStream }

def trimming : State := { reg (reg full Reg.GLB_FW_RUNNING 1) Reg.MG_PMB_PRESENT 1 0 3 with node := { full.node with pw := { full.node.pw with window := [100] } } }
def metering : State := withMt (reg full Reg.PP_STATE 1 1) { full.node.mt with meters := [{ aMeter with cnt := List.replicate 16 5 }] }

def errored : State := reg (reg (reg (reg full Reg.BLK_ISR 1 2) Reg.BLK_ERROR 1 2) Reg.PWR_EMERG 7) Reg.BLK_ERR_CNT 3 2
def unmasked (s : State) : State := { s with node := { s.node with bo := { s.node.bo with busMaster := true }, hq := { s.node.hq with msix := (List.range 4).map fun v => (0, { table := [(3, 0), (7, 0), (11, 0), (15, 0)], pending := [] }) } } }

def mirroring : State :=
  let s := reg (reg (reg (reg served Reg.FAB_PORTS 15 0 9) Reg.MIR_UNDERSTUDY 9) Reg.MIR_PART 1) Reg.GLB_NODE_ID 4
  withPg s { s.node.pg with sessions := [(0, theSession)] }
def unpaired : State := reg (reg (reg full Reg.MIR_UNDERSTUDY 9) Reg.MIR_PART 1) Reg.PP_STATE 1 1
def aBatchOut : Batch := { tick := 0, seq := 0, changes := [], sent := false, flags := 0, courses := [], fetch := none, data := [], recs := [], rows := 0, firstMsn := 0, resent := false }
def anyStream : Stream := { part := 1, state := .streaming, before := .streaming, gen := 4, seq := 7, open_ := [], batches := [aBatchOut], acked := none, unseeded := [], toSeed := [], seeding := [], waits := [], since := 0, lastAck := 0 }
def withStream (st : Stream) : State := withMi (reg mirroring Reg.MIR_MIRROR 1 0 1) { mirroring.node.mi with streams := [st] }
def seedingCourse : State :=
  let s := withStream { anyStream with batches := [], toSeed := [2] }
  withSt s { s.node.st with courses := [(2, { theCourse with loc := .ddr [] })] }
def seeded : State := withStream { anyStream with batches := [], unseeded := [77] }
def late (s : State) : State := { s with node := { s.node with tk := { s.node.tk with now := 99, upPs := 200000000000000 } } }
def commitMem : Bytes := leBytes 4 0x40000 ++ leBytes 4 0 ++ leBytes 8 77 ++ leBytes 4 9 ++ leBytes 4 5 ++ leBytes 8 0
def committable : State := reg (reg (withStream anyStream) Reg.KEY_TABLE 2 0 4) Reg.CNX_COUNT 16 0 1
def committable0 : State := withMi committable Mirror.reset
def waitingCommit : State := { withStream { anyStream with waits := [⟨.conn 3 5, 9, 0, 0, [], some 0⟩] } with node := { (withStream { anyStream with waits := [⟨.conn 3 5, 9, 0, 0, [], some 0⟩] }).node with tk := { full.node.tk with now := 5000 } } }
def restoring : State :=
  let s := withStream { anyStream with batches := [] }
  let s := withSt s { s.node.st with courses := [(2, theCourse)] }
  withMi s { s.node.mi with restores := [(2, 3)] }
def claimingOne : State :=
  let s := late mirroring
  withPg s { s.node.pg with sessions := [(0, { theSession with own := .claiming, waiting := some (.conn 3 5, 9) })] }
def aRun : HomeRun := { op := .reconcile, session := 0, part := 1, cid := 77, origin := 0, attempt := 1, found := [], casAt := none, started := 0, startedPs := 0 }
def orphaning : State :=
  let s := late mirroring
  let s := withPg s { s.node.pg with sessions := [(0, { theSession with own := .unconfirmed })] }
  withMi s { s.node.mi with homeOps := [aRun] }

/-- The worked example after R423: 800 W, 410 W static and 640 W dynamic at A_P 1,024, a guard of 2 %. -/
def capped : State :=
  let s := reg (reg (reg (reg full Reg.PWR_CAP_W 800) Reg.PWR_VALID 1) Reg.PWR_A_P 1024) Reg.PWR_GUARD 20
  let s := reg s Reg.PWR_LIMIT_W 1200
  { s with node := { s.node with pw := { s.node.pw with stat := 410, dyn := 640 } } }

/-- The worked example after R498: cluster 7 has shown three buffer errors in the sheet. -/
def thirdError : State := withCl active { active.node.cl with ueInSheet := [(7, 3)] }

def dueOne : Staged := { gap with src := .conn 3 5, firstPos := 5, rows := [List.replicate 18 3], retries := 0 }
def stagedDue : State := withPg appendable { appendable.node.pg with staged := [dueOne] }
def outOfRetries : Staged := { gap with src := .conn 3 5, retries := 7 }
def stagedOut : State := withPg connected { connected.node.pg with sessions := [(0, theSession)], staged := [outOfRetries] }
def pinned : PfxOp := { theAsked with kind := .pin }
def theTree : TreeRec := { blockId := 0, parentId := 0, tokens := List.replicate 16 0, firstPos := 16, fmt := 0, layers := 1, part := 1, pinned := false, dying := false, lost := false, children := 0, matches_ := 0, lastMatch := 0, bank := 6, idx := 0, parentRec := none, handles := [] }
/-- A PIN that finds its block, in a tick with nothing left to lend and the session pool used up. -/
def pfxShort : State :=
  let s := withKs shareable { shareable.node.ks with running := some pinned, tree := [(0, theTree)], lendable := 0, banks := shareable.node.ks.banks.set 6 { entries := [(0, KsEntry.make 1 1 [0, 0] 0)] } }
  withQa s { s.node.qa with budget := { s.node.qa.budget with poolUsed := s.view.poolBase } }
def weightBlock : Bytes := passBlock true 2 0 0 0 (List.replicate 4 0)
def theWeights : WLayer := { layer := 0, elem := 0, d := 1, h := 1, c := 2, packedLen := weightBlock.length, at0 := none, at1 := none, addr := 4096, packed := [weightBlock] }
def streamedOne : State := withCl expanding { expanding.node.cl with weights := [theWeights] }
/-- One codeword whose last slot begins a unit, and one whose last slot goes on with none begun. -/
def unitAt9 : List Slot := List.replicate 9 idleSlot ++ unitSlots 1 [7, 8, 9]
def strayAt9 : List Slot := List.replicate 9 idleSlot ++ [{ tag := 2, flit := List.replicate 64 0 }]
def onLanes (word : List Nat) : LaneWord := laneSymbols 8 word ++ [[]]
/-- Sixteen symbol errors, one more than the code corrects. -/
def sixteenErrors : LaneWord := onLanes (List.replicate 528 0 ++ List.replicate 16 1)
def linkUp : State := reg linked Reg.LP_STATE_A 5 2
def shownBlock (l : Nat) : AlignBlock := ⟨Config.alignPattern % 2 ^ 64, some l, l, 2, 0, 0⟩
def shown : List (Option (AlignBlock × Int)) := [0, 1, 2, 3, 4, 5, 6, 7].map fun l => some (shownBlock l, 0)
theorem shownBlock_sound (l : Nat) : blockSound (shownBlock l) = true := by simp [blockSound, shownBlock]
theorem shownBlock_logical (l : Nat) : (shownBlock l).logical = some l := rfl
theorem deskew_shown : deskew [0, 1, 2, 3, 4, 5, 6, 7] shown = some [(0, 0), (1, 1), (2, 2), (3, 3), (4, 4), (5, 5), (6, 6), (7, 7)] := by
  simp [deskew, shown, shownBlock_sound, shownBlock_logical, List.findIdx?_cons]
def coldConn : Conn := { theConn with hot := false }
def fetchedConn : Conn := { theConn with hot := false, fetching := true, heldPkts := [(2, 0, [])] }
def fetchingOne : State := busOn (setConn connected fetchedConn)
def mirroredData : State := withTp standby { standby.node.tp with inMsgs := [{ InMsg.fresh 2 6 7 0 with complete := true, cmpr := true }] }
def sysWindow : State := reg (reg full Reg.PCI_BASE_LO 3) Reg.PCI_BASE_HI 18
/-- One row run of one row of 32 bytes, and the block that a compressor may make of it. -/
def aRunBytes : Bytes := leBytes 4 2 ++ [0, 0, 1, 0] ++ leBytes 4 0 ++ leBytes 2 32 ++ leBytes 2 0 ++ List.replicate 32 5
def rowBlock : Bytes := passBlock false 1 1 0 1 aRunBytes
def rowBatch : Batch := { aBatchOut with changes := [{ meta_ := [], run := some aRunBytes }] }
def rowStream : Stream := { anyStream with batches := [rowBatch] }

/-! ## Ill-formed commands, one for each check -/

theorem test_wf_source : WellFormed (.matchPrefix (.conn (2 ^ 20) 0) []) = false := by decide
theorem test_wf_source_queue : WellFormed (.commitWaitExpired (.queue 4096 0)) = false := by decide
theorem test_wf_descriptor : WellFormed (.openSession (.queue 0 0) (List.replicate 1025 0)) = false := by decide
theorem test_wf_half : WellFormed (.lanesDeskewed 3 ⟨2, []⟩) = false := by decide
theorem test_wf_port : WellFormed (.helloTimer 32 0) = false := by decide
theorem test_wf_flit : WellFormed (.creditFlit 0 0 [1, 2, 3]) = false := by decide
theorem test_wf_lane : WellFormed (.hardLaneFailure 3 9) = false := by decide
theorem test_wf_frame_port : WellFormed (.statusOrder ⟨2, 7, []⟩) = false := by decide
theorem test_wf_frame_mac : WellFormed (.statusOrder ⟨0, 2 ^ 48, []⟩) = false := by decide
theorem test_wf_write_offset : WellFormed (.registerWrite ⟨.pf, 0x800000, 15, 0⟩) = false := by decide
theorem test_wf_write_aligned : WellFormed (.registerWrite ⟨.pf, 0x1002, 15, 0⟩) = false := by decide
theorem test_wf_function : WellFormed (.functionReset (.vf 64)) = false := by decide
theorem test_wf_function_zero : WellFormed (.functionReset (.vf 0)) = false := by decide
theorem test_wf_queue : WellFormed (.sqTail .pf 4096 0) = false := by decide
theorem test_wf_cluster : WellFormed (.clusterFault 26 0 0) = false := by decide
theorem test_wf_bank : WellFormed (.keystoneBankRebuilt 66) = false := by decide
theorem test_wf_core : WellFormed (.controlCoreFault 6) = false := by decide
theorem test_wf_die : WellFormed (.droopTrip ⟨2, 0, 700⟩) = false := by decide
theorem test_wf_management_port : WellFormed (.managementLinkChange 2 true) = false := by decide
theorem test_wf_clock : WellFormed (.serdesclkLost 4) = false := by decide
theorem test_wf_partition : WellFormed (.scrubComplete 64) = false := by decide
theorem test_wf_accepts : WellFormed (.registerWrite ⟨.vf 63, 0x1104, 15, 0⟩) = true := by decide

/-! ## The worked examples of the spec -/

/-- spec/02, after R57: 0x5A_1234_5600 lies in node frame 89,465,669, which begins at 0x5A_1234_5000. -/
theorem test_frame_of_address : addrFrame 0x5A12345600 = some 89465669 ∧ frameAddr 89465669 = 0x5A12345000 := by decide

/-- spec/03, after R89: a row of L48-384 takes 234 bytes; its scales begin at 192, outliers at 204, positions at 220. -/
theorem test_row_bytes : RowFmt.rowBytes ⟨384, false, 64, 4, 32, 1, 0, 7⟩ = 234 ∧ RowFmt.scaleOff ⟨384, false, 64, 4, 32, 1, 0, 7⟩ = 192 ∧
    RowFmt.outOff ⟨384, false, 64, 4, 32, 1, 0, 7⟩ = 204 ∧ RowFmt.posOff ⟨384, false, 64, 4, 32, 1, 0, 7⟩ = 220 := by decide

/-- spec/05, after R163: every codebook entry of the example is exact in E4M3. -/
theorem test_codebook_exact : [1, 3 / 4, 9 / 16, 7 / 16, 5 / 16, 13 / 64, 3 / 32, 5 / 64, 11 / 64, 9 / 32, 13 / 32, 9 / 16, 7 / 8].all
    (fun r : Rat => decide (e4m3.val (e4m3.round r).1 = r)) = true := by decide +kernel

/-- spec/06, after R202: node 5's outputs as scaled FP8. -/
theorem test_fp8_partial : (headOf true { started := true, m := 0x40000000#32, l := 0x40400000#32, o := [0x3FC00000#32, 0xBF400000#32, 0x40400000#32, 0x3E800000#32] }).elems =
      [0x6C, 0xE4, 0x74, 0x58] ∧
    (headOf true { started := true, m := 0x40000000#32, l := 0x40400000#32, o := [0x3FC00000#32, 0xBF400000#32, 0x40400000#32, 0x3E800000#32] }).vscale = 0x3C800000#32 := by
  decide +kernel

/-- spec/06, after R202: the fold of the three nodes' states, in BF16 (1.59375, 0.9960938, 0.7382813, 1.953125). -/
theorem test_fold_order : (((do
      let a ← foldState { started := true, m := 0x40000000#32, l := 0x40400000#32, o := [0x3FC00000#32, 0xBF400000#32, 0x40400000#32, 0x3E800000#32] }
        { started := true, m := 0x40400000#32, l := 0x3FC00000#32, o := [0x3F000000#32, 0x3F800000#32, 0xBF000000#32, 0x40000000#32] }
      foldState a { started := true, m := 0x3F800000#32, l := 0x40A00000#32, o := [0x40800000#32, 0x40000000#32, 0x3F800000#32, 0xBF800000#32] } : StateM Nat RowState).run 0).1.o.map
        fun x => (bf16.round (f32val x)).1) = [0x3FCC, 0x3F7F, 0x3F3D, 0x3FFA] := by
  decide +kernel

/-- spec/07, after R218: the code lengths and the codes of the example's table. -/
theorem test_code_lengths : codeLens false [0x53, 0x45, 0x55, 0x24, 0x43, 0x54, 0x55, 0x66] = [3, 5, 5, 4, 5, 5, 4, 2, 3, 4, 4, 5, 5, 5, 6, 6] := by
  decide
theorem test_canonical_codes : (codesOf [3, 5, 5, 4, 5, 5, 4, 2, 3, 4, 4, 5, 5, 5, 6, 6]).filter (fun c => c.2.2 ∈ [0, 1, 3, 7, 14, 15]) =
    [(2, 0, 7), (3, 2, 0), (4, 8, 3), (5, 24, 1), (6, 62, 14), (6, 63, 15)] := by
  decide

/-- spec/08, after R264: θ is 16 cycles (10 ns) and the delay 320 cycles (200 ns), in 1/16 ns. -/
theorem test_tick_offset : theta 8 312 4 340 0 = 160 ∧ oneWay 8 312 4 340 = 3200 := by decide

/-- spec/09, after R302: the nonce of the example, and the PSN that the receiver reconstructs. -/
theorem test_nonce : pktNonce 0x04C21 0x0112 0x00A3 3 0x0102ABCD false = [0x04, 0xC2, 0x18, 0, 0, 3, 0, 0, 0x01, 0x02, 0xAB, 0xCD] := by decide
theorem test_extended_psn : extend24 0x0102A000 0x02ABCD = 0x0102ABCD := by decide

/-- spec/14, after R423: a cap of 800 W, 410 W static, 640 W dynamic and a guard of 2 % give a target of 598. -/
theorem test_target_allowance : (capped.view.targetAllow) = 598 := by decide +kernel

/-- spec/17, after R498: cluster 7's fourth buffer error of a sheet, at buffer offset 0x1_2340. -/
theorem test_cluster_capture : (match exec (.clusterBufferUe 7 0x12340 (.tile 4 false)) thirdError with
    | .next t => (rd t Reg.BLK_ERR_CAP0 0x37, rd t Reg.BLK_ERR_CAP2 0x37, rd t Reg.BLK_ERR_CAP3 0x37, rd t Reg.BLK_ENABLE 0x37, rd t Reg.BLK_ISR 0x37)
    | _ => (0, 0, 0, 9, 0)) = (0x4102, 0xF0038123, 1, 0, 0x10009) := by
  decide

/-! ## Single commands -/

/-- R262: the tick steps by one at the boundary; the step runs the command in front and keeps the rest. -/
theorem test_boundary_counts : (match step { full with pending := [.tickBoundary, .heatDecay] } with
    | .next t => (t.node.tk.now, t.pending)
    | _ => (0, [])) = (1#48, [Instr.heatDecay]) := by decide

/-- R446: a fall of PWRGOOD shorter than 1 µs is ignored. -/
theorem test_short_power_fall : (match exec (.pwrgoodFall 999) full with | .next t => decide (t = full) | _ => false) = true := by decide

/-- R343: a BURST of 16 units is ignored, one of 17 is taken. -/
theorem test_burst_floor : (match exec (.shaperReconfigure (pf 0x72120 16)) full, exec (.shaperReconfigure (pf 0x72120 18)) full with
    | .next t, .next u => (rd t Reg.SCH_BURST, rd u Reg.SCH_BURST) | _, _ => (0, 0)) = (17, 18) := by decide

/-- R489, R490: writing 1 to ERR_CAP re-arms the capture, and no other bit of BLK_ISR. -/
theorem test_isr_clear : (match exec (.blkIsrClear (pf 0x2014 1)) (reg errored Reg.BLK_ISR 7 2) with
    | .next t => (rd t Reg.BLK_ISR 2, rd t Reg.BLK_ERROR 2) | _ => (0, 9)) = (6, 0) := by decide

/-! ## Witnesses -/

theorem witness_StepRunsTheCommandInFront : ∃ (c : Instr) (rest : List Instr) (s : State), s.pending = c :: rest :=
  ⟨.heatDecay, [.lendPoint], { full with pending := [.heatDecay, .lendPoint] }, by decide⟩

theorem witness_EmptyQueueIdles : ∃ s : State, s.pending = [] := ⟨full, by decide⟩

theorem witness_StepsKeepTheCanonicalForms : ∃ s t : State, Canonical s ∧ step s = .next t ∧ t ≠ s :=
  ⟨{ full with pending := [.svnCommit (pf 0x8104 2)] }, _, by decide, rfl, by decide⟩

theorem witness_SilentNodeIgnoresCommands : ∃ (c : Instr) (s : State), s.alive = false ∧ (∀ b m k, c ≠ .pwrgoodRise b m k) ∧ (∀ ns, c ≠ .pwrgoodFall ns) ∧ c ≠ .thermtrip ∧ c ≠ .sysclkLost :=
  ⟨.heatDecay, { full with node := { full.node with bo := { full.node.bo with stopped := true } } }, by decide, by simp, by simp, by decide, by decide⟩

theorem witness_PowerPinsResetTheNode_1 : ∃ (s : State) (ns : Nat), ns < 1000 :=
  ⟨up, 999, by decide⟩

theorem witness_PowerPinsResetTheNode_2 : ∃ (s : State) (ns : Nat), 1000 ≤ ns :=
  ⟨up, 1000, by decide⟩

theorem witness_PowerPinsResetTheNode_3 : ∃ (s : State) (b : Nat) (m : Bool) (tm : Bool), s.node.bo.on = true :=
  ⟨up, 1, true, false, by decide⟩

theorem witness_PowerPinsResetTheNode_4 : ∃ (s : State) (b : Nat) (m : Bool) (tm : Bool), s.node.bo.on = false :=
  ⟨down, 3, true, false, by decide⟩

theorem witness_PowerPinsResetTheNode_5 : ∃ (s : State), s.node.bo.on = true ∧ s.node.bo.thermtrip = false :=
  ⟨up, by decide⟩

theorem witness_PowerPinsResetTheNode_6 : ∃ (s : State), s.node.bo.on = true ∧ s.node.bo.stopped = false :=
  ⟨up, by decide⟩

theorem witness_WatchdogAndWarmResets_1 : ∃ (s : State) (wr : RegWr) (inst : Nat) (idx : Nat), s.alive = true ∧ Canonical s ∧ Lands s wr .GLB 0x114 inst idx ∧ wrote1 wr Reg.GLB_WARM = true :=
  ⟨up, pf 0x114 0xB0070001, 0, 0, by decide⟩

theorem witness_WatchdogAndWarmResets_2 : ∃ (s : State) (at_ : Nat), s.alive = true ∧ Canonical s ∧ s.node.bo.warmAt = some at_ ∧ at_ ≤ s.node.tk.upPs + s.view.periodPs :=
  ⟨{ up with node := { up.node with bo := { up.node.bo with warmAt := some 5 } } }, 5, by decide⟩

theorem witness_WatchdogAndWarmResets_3 : ∃ (s : State), s.alive = true ∧ rd s Reg.GLB_WDOG_ARMED = 1 :=
  ⟨reg up Reg.GLB_WDOG_ARMED 1, by decide⟩

theorem witness_WatchdogAndWarmResets_4 : ∃ (s : State) (core : Nat), s.alive = true ∧ Canonical s ∧ rd s Reg.GLB_WDOG_ARMED = 1 :=
  ⟨reg up Reg.GLB_WDOG_ARMED 1, 2, by decide⟩

theorem witness_BringUpTakesEachStage_1 : ∃ (s : State) (image : Nat), s.alive = true ∧ Canonical s ∧ s.view.nextImage = some image :=
  ⟨up, 0, by decide⟩

theorem witness_BringUpTakesEachStage_2 : ∃ (s : State), s.alive = true ∧ Canonical s ∧ rd s Reg.GLB_FW_RUNNING = 1 ∧ rd s Reg.GLB_D2D_UP = 0 ∧ rd s Reg.GLB_D2D_FAIL = 0 :=
  ⟨reg up Reg.GLB_FW_RUNNING 1, by decide⟩

theorem witness_BringUpTakesEachStage_3 : ∃ (s : State), s.alive = true ∧ Canonical s ∧ rd s Reg.GLB_FW_RUNNING = 1 ∧ rd s Reg.GLB_D2D_UP = 0 ∧ rd s Reg.GLB_D2D_FAIL = 0 :=
  ⟨reg up Reg.GLB_FW_RUNNING 1, by decide⟩

theorem witness_BringUpTakesEachStage_4 : ∃ (s : State) (chans : List DdrChan), s.alive = true ∧ Canonical s ∧ rd s Reg.GLB_D2D_UP = 1 ∧ rd s Reg.GLB_DDR_DONE = 0 :=
  ⟨reg up Reg.GLB_D2D_UP 1, [⟨2, 64, true⟩, ⟨0, 0, false⟩, ⟨2, 64, false⟩], by decide⟩

theorem witness_BringUpTakesEachStage_5 : ∃ (s : State) (failed : List Nat), s.alive = true ∧ Canonical s ∧ 1 ≤ rd s Reg.GLB_HBM_ROUND ∧ rd s Reg.GLB_HBM_ROUND ≤ 3 :=
  ⟨reg up Reg.GLB_HBM_ROUND 1, [1], by decide⟩

theorem witness_BringUpTakesEachStage_6 : ∃ (s : State) (bad : List BadUnit), s.alive = true ∧ Canonical s ∧ rd s Reg.GLB_SELFTEST_REH = 0 ∧ rd s Reg.GLB_DDR_DONE = 1 ∧ 2 ≤ (s.view.readyStacks.filter (· < 4)).length :=
  ⟨rehTested, [], by decide⟩

theorem witness_BringUpTakesEachStage_7 : ∃ (s : State) (bad : List BadUnit), s.alive = true ∧ Canonical s ∧ rd s Reg.GLB_SELFTEST_FULL = 0 ∧ rd s Reg.GLB_HBM_DONE = 255 :=
  ⟨reg (reg up Reg.GLB_SELFTEST_REH 1) Reg.GLB_HBM_DONE 255, [], by decide⟩

theorem witness_NodeStatesAreEnteredAndLinksComeUp_1 : ∃ (s : State), s.alive = true ∧ Canonical s :=
  ⟨up, by decide⟩

theorem witness_NodeStatesAreEnteredAndLinksComeUp_2 : ∃ (s : State), s.alive = true ∧ Canonical s ∧ rd s Reg.GLB_NODE_STATE = 1 ∧ s.view.pastPromotion = true :=
  ⟨promoting, by decide⟩

theorem witness_NodeStatesAreEnteredAndLinksComeUp_3 : ∃ (s : State) (wr : RegWr) (inst : Nat) (idx : Nat), s.alive = true ∧ Canonical s ∧ Lands s wr .GLB 0x10C inst idx ∧ wrote1 wr Reg.GLB_LOCK = true :=
  ⟨up, pf 0x10C 0x80000005, 0, 0, by decide⟩

theorem witness_NodeStatesAreEnteredAndLinksComeUp_4 : ∃ (s : State) (port : Nat), s.alive = true ∧ Canonical s ∧ port < 2 ∧ rd s Reg.GLB_FW_RUNNING = 1 ∧ rd s Reg.GLB_D2D_UP = 1 ∧ rd s Reg.MG_EN port = 1 ∧ (port = rd s Reg.GLB_MGT_SEL ∨ s.node.bo.mgtFirst = true) :=
  ⟨{ reg (reg (reg up Reg.GLB_FW_RUNNING 1) Reg.GLB_D2D_UP 1) Reg.MG_EN 1 1 with node := { up.node with bo := { up.node.bo with mgtFirst := true } } }, 1, by decide⟩

theorem witness_NodeStatesAreEnteredAndLinksComeUp_5 : ∃ (s : State) (port : Nat), s.alive = true ∧ rd s Reg.GLB_D2D_UP = 0 ∧ rd s Reg.GLB_D2D_FAIL = 0 ∧ s.node.bo.recovery = false :=
  ⟨up, 0, by decide⟩

theorem witness_NodeStatesAreEnteredAndLinksComeUp_6 : ∃ (s : State) (port : Nat), s.alive = true ∧ Canonical s ∧ port < 2 :=
  ⟨reg up Reg.MG_LINK_UP 1 0, 0, by decide⟩

theorem witness_PcieAndClockPinsChangeTheirState_1 : ∃ (s : State), s.alive = true ∧ Canonical s :=
  ⟨up, by decide⟩

theorem witness_PcieAndClockPinsChangeTheirState_2 : ∃ (s : State), s.alive = true :=
  ⟨up, by decide⟩

theorem witness_PcieAndClockPinsChangeTheirState_3 : ∃ (s : State), s.alive = true ∧ Canonical s :=
  ⟨up, by decide⟩

theorem witness_PcieAndClockPinsChangeTheirState_4 : ∃ (s : State), s.alive = true :=
  ⟨up, by decide⟩

theorem witness_PcieAndClockPinsChangeTheirState_5 : ∃ (s : State) (speed : Nat) (width : Nat), s.alive = true ∧ Canonical s ∧ s.node.bo.perst = false ∧ s.node.bo.perstHeld = false ∧ s.node.bo.pcieClk = true ∧ s.node.bo.romDone = true ∧ s.node.bo.recovery = false :=
  ⟨{ up with node := { up.node with bo := { up.node.bo with perst := false, romDone := true } } }, 4, 8, by decide⟩

theorem witness_PcieAndClockPinsChangeTheirState_6 : ∃ (s : State) (clk : Nat), s.alive = true ∧ Canonical s ∧ clk < 4 :=
  ⟨reg up Reg.LP_STATE_A 5 9, 1, by decide⟩

theorem witness_PcieAndClockPinsChangeTheirState_7 : ∃ (s : State) (clk : Nat), s.alive = true :=
  ⟨up, 3, by decide⟩

theorem witness_PcieAndClockPinsChangeTheirState_8 : ∃ (s : State) (on : Bool) (num : Nat) (fn : Fn) (c : Instr), s.alive = true ∧ rd s Reg.PCI_UP = 1 ∧ rd s Reg.GLB_FW_RUNNING = 0 ∧ c = .busMasterEnableChange on ∨ c = .sriovVfEnable num ∨ c = .functionReset fn :=
  ⟨reg (reg up Reg.PCI_UP 1) Reg.GLB_FW_RUNNING 0, true, 3, .pf, .functionReset .pf, by decide⟩

theorem witness_PcieAndClockPinsChangeTheirState_9 : ∃ (s : State) (on : Bool), s.alive = true ∧ Canonical s ∧ rd s Reg.PCI_UP = 1 ∧ rd s Reg.GLB_FW_RUNNING = 1 :=
  ⟨pciUp, true, by decide⟩

theorem witness_PcieAndClockPinsChangeTheirState_10 : ∃ (s : State) (num : Nat), s.alive = true ∧ Canonical s ∧ rd s Reg.PCI_UP = 1 ∧ rd s Reg.GLB_FW_RUNNING = 1 ∧ num < 64 :=
  ⟨pciUp, 63, by decide⟩

theorem witness_PcieAndClockPinsChangeTheirState_11 : ∃ (s : State), s.alive = true ∧ Canonical s ∧ rd s Reg.PCI_UP = 1 ∧ rd s Reg.GLB_FW_RUNNING = 1 :=
  ⟨pciUp, by decide⟩

theorem witness_PcieAndClockPinsChangeTheirState_12 : ∃ (s : State) (p : Nat), s.alive = true ∧ Canonical s ∧ rd s Reg.PCI_UP = 1 ∧ rd s Reg.GLB_FW_RUNNING = 1 :=
  ⟨pciUp, 7, by decide⟩

theorem witness_TickBoundaryAdvancesTheTickAndFreezesTheSheet : ∃ (s : State), s.alive = true :=
  ⟨full, by decide⟩

theorem witness_SheetPhasesStopDrainAndLend_1 : ∃ (s : State), s.alive = true ∧ Canonical s ∧ s.node.qa.cur.state = SheetState.running :=
  ⟨runningSheet, by decide⟩

theorem witness_SheetPhasesStopDrainAndLend_2 : ∃ (s : State), s.alive = true ∧ s.node.qa.cur.state = SheetState.draining ∧ (s.node.qa.cur.queries.map (·.1)).Nodup :=
  ⟨drainingSheet, by decide⟩

theorem witness_SheetPhasesStopDrainAndLend_3 : ∃ (s : State), s.alive = true ∧ Canonical s ∧ s.node.qa.budget.lent = false ∧ rd s Reg.QAD_LEND_EN = 1 :=
  ⟨reg full Reg.QAD_LEND_EN 1, by decide⟩

theorem witness_RetryPassGivesEveryStagedAppendOneRetry_1 : ∃ (s : State), s.alive = true :=
  ⟨stagedGap, by decide⟩

theorem witness_RetryPassGivesEveryStagedAppendOneRetry_2 : ∃ (s : State) (g : Staged) (se : Session) (l : Layer) (p : Placed), s.alive = true ∧ s.node.pg.staged = [g] ∧ s.view.session g.session = some se ∧ se.state = .open ∧ l = atD se.layers g.layer Layer.empty ∧ g.layer < se.layers.length ∧ g.firstPos = s.view.baseE l ∧ g.rows ≠ [] ∧ g.count = g.rows.length ∧ (s.view.partOf g.src).isSome = true ∧ s.view.restoring l = false ∧ s.view.spilledTail g.session se l g.firstPos = none ∧ s.view.placeRows g.session g.layer se l g.firstPos g.rows.length = some p ∧ s.view.landsInTime p (s.view.periodPs - 60000) = true :=
  ⟨stagedDue, dueOne, appendSession, atD appendSession.layers 0 Layer.empty, (stagedDue.view.placeRows 0 0 appendSession (atD appendSession.layers 0 Layer.empty) 5 1).getD ⟨up.view, [], false, none⟩, by decide, by decide, by decide, by decide, by decide, by decide, by decide, by decide, by decide, by decide, by decide, by decide, rfl, by decide⟩

theorem witness_RetryPassGivesEveryStagedAppendOneRetry_3 : ∃ (s : State) (g : Staged) (se : Session), s.alive = true ∧ s.node.pg.staged = [g] ∧ s.view.session g.session = some se ∧ se.state = .open ∧ s.view.gapHeld g = true ∧ (s.view.partOf g.src).isSome = true ∧ rd s Reg.PGM_RETRIES ≤ g.retries + 1 :=
  ⟨stagedOut, outOfRetries, theSession, by decide⟩

theorem witness_GrantsStayWithinTheFloorsAndHeatHalves_1_a : ∃ (s : State), s.alive = true :=
  ⟨full, by decide⟩

theorem witness_GrantsStayWithinTheFloorsAndHeatHalves_1_b : ∃ (s : State), s.alive = true :=
  ⟨oneCourse, by decide⟩

theorem witness_GrantsStayWithinTheFloorsAndHeatHalves_2 : ∃ (s : State), s.alive = true ∧ 2 ^ rd s Reg.SPL_DECAY_SHIFT ≤ ticksTo s.node.st.lastDecay s.node.tk.now :=
  ⟨reg (late oneCourse) Reg.SPL_DECAY_SHIFT 6, by decide⟩

theorem witness_GrantsStayWithinTheFloorsAndHeatHalves_3 : ∃ (s : State), s.alive = true ∧ ticksTo s.node.st.lastDecay s.node.tk.now < 2 ^ rd s Reg.SPL_DECAY_SHIFT :=
  ⟨oneCourse, by decide⟩

theorem witness_MovesCopyThenCommit_1 : ∃ (s : State) (mv : Nat) (m : Move) (c : Course) (f : Nat) (g : Nat), s.alive = true ∧ Canonical s ∧ lookupN mv s.node.st.moves = some m ∧ s.view.course m.course = some c ∧ m.checked = none ∧ c.loc = Loc.hbm f ∧ m.dst = Loc.hbm g ∧ s.view.badPages c = [] :=
  ⟨moving, 3, theMove, theCourse, 7, 99, by decide⟩

theorem witness_MovesCopyThenCommit_2 : ∃ (s : State) (mv : Nat) (m : Move) (c : Course), s.alive = true ∧ lookupN mv s.node.st.moves = some m ∧ s.view.course m.course = some c ∧ m.checked ≠ none ∧ s.view.sourcePinned m.course (decide (m.dst.tier < c.loc.tier)) = false :=
  ⟨movedAndChecked, 3, { theMove with checked := some 1 }, theCourse, by decide⟩

theorem witness_MovesCopyThenCommit_3 : ∃ (s : State) (copy : Nat) (upset : Option Nat) (x : TailCopy), s.alive = true ∧ lookupN copy s.node.st.tailCopies = some x ∧ (∀ c ∈ s.view.course x.srcCourse, c.loc.tier = 2 → s.view.windowOff = false) :=
  ⟨tailCopying, 0, some 1, theTailCopy, by decide⟩

theorem witness_MemoryErrorsAreCountedAndRetire_1 : ∃ (s : State) (addr : Nat), s.alive = true ∧ Canonical s ∧ inHbm addr = true :=
  ⟨full, 0x1234, by decide⟩

theorem witness_MemoryErrorsAreCountedAndRetire_2 : ∃ (s : State) (die : Nat) (addr : Nat) (ch : Nat), s.alive = true ∧ Canonical s ∧ s.view.stripeChannel die addr = some ch :=
  ⟨ddrUp, 0, 0x2000, 2, by decide⟩

theorem witness_MemoryErrorsAreCountedAndRetire_3 : ∃ (s : State) (ch : Nat), s.alive = true ∧ Canonical s ∧ ch < 12 ∧ rd s Reg.DDR_IN_STRIPE ch = 1 ∧ rd s Reg.DDR_TRAINED ch = 1 :=
  ⟨ddrUp, 0, by decide⟩

theorem witness_MemoryErrorsAreCountedAndRetire_4 : ∃ (s : State) (stack : Nat) (off : Nat) (addr : Nat), s.alive = true ∧ Canonical s ∧ addr = stack * stackBytes + off ∧ (sysPartOf addr).isSome = true ∧ s.node.pw.walking ≠ some (addr / stackBytes) ∨ sysPartOf addr ≠ some 8 :=
  ⟨full, 0, ringBase, ringBase, by decide⟩

theorem witness_MemoryErrorsAreCountedAndRetire_5 : ∃ (s : State) (addr : Nat), s.alive = true ∧ Canonical s ∧ inHbm addr = true :=
  ⟨full, 0x1234, by decide⟩

theorem witness_MemoryErrorsAreCountedAndRetire_6 : ∃ (s : State) (die : Nat) (addr : Nat) (ch : Nat), s.alive = true ∧ Canonical s ∧ s.view.stripeChannel die addr = some ch :=
  ⟨ddrUp, 0, 0x2000, 2, by decide⟩

theorem witness_MemoryErrorsAreCountedAndRetire_7 : ∃ (s : State) (wr : RegWr) (st : Nat) (idx : Nat), s.alive = true ∧ Canonical s ∧ Lands s wr .HBM 0x104 st idx ∧ wrote1 wr Reg.HBM_TAKE_OFFLINE = true ∧ rd s Reg.HBM_TAKE_OFFLINE st = 0 :=
  ⟨full, pf 0x12104 0x4, 2, 0, by decide⟩

theorem witness_SessionsOpenForkAndClose_1 : ∃ (s : State) (src : Src) (desc : Bytes) (m : Bytes) (p : Nat), s.alive = true ∧ SessionAsks s src desc 1 p m ∧ (s.view.sessionByCid p (fieldAt m 8 8)).1 = none ∧ fieldAt m 4 4 = 0 ∧ fieldAt m 0x14 4 = 0 ∧ 1 ≤ fieldAt m 2 1 ∧ fieldAt m 2 1 ≤ 120 ∧ s.view.formatOk p (fieldAt m 1 1) = true ∧ s.view.sessionsFull p = false ∧ (s.view.sessionByCid p (fieldAt m 8 8)).2.ksRoomiest (s.view.ksBanks tblSession 0) ≠ none :=
  ⟨openable, .conn 3 5, wire sessionFields (sessDesc 1 0 4 0 99 0 0 7), sessDesc 1 0 4 0 99 0 0 7, 1, by decide⟩

theorem witness_SessionsOpenForkAndClose_2 : ∃ (s : State) (src : Src) (desc : Bytes) (m : Bytes) (p : Nat) (pi : Nat) (par : Session), s.alive = true ∧ SessionAsks s src desc 2 p m ∧ rd s Reg.PGM_FORK_EN = 1 ∧ NamesSession s p (fieldAt m 4 4) pi par ∧ par.state = .open ∧ fieldAt m 1 1 = 0 ∧ fieldAt m 2 1 = 0 ∧ fieldAt m 0x10 4 = 0 ∧ s.view.prefixPending pi = false ∧ (s.view.sessionByCid p (fieldAt m 8 8)).1 = none ∧ s.view.stagedBelow pi (fieldAt m 0x14 4) = false ∧ s.view.sessionsFull p = false ∧ ((s.view.sessionByCid p (fieldAt m 8 8)).2.forkChild p par (fieldAt m 8 8) (fieldAt m 0x14 4) src (fieldAt m 0x18 4)).1 ≠ none :=
  ⟨forkable, .conn 3 5, wire sessionFields (sessDesc 2 0 0 0x40000 99 0 16 7), sessDesc 2 0 0 0x40000 99 0 16 7, 1, 0, { theSession with layers := [{ Layer.empty with runs := [⟨2, 0, 1⟩], rows := 16 }] }, by decide⟩

theorem witness_SessionsOpenForkAndClose_3 : ∃ (s : State) (child : Nat) (c : Session), s.alive = true ∧ s.view.session child = some c ∧ c.state = .forming ∧ c.own = .own ∧ (∀ k ∈ s.node.pg.forkCopies, k.child = child → ∀ x ∈ s.view.course k.srcCourse, ∀ q ∈ x.pages[k.srcPage]?, k.rows ≤ q.landed) ∧ (∀ k ∈ s.node.pg.forkCopies, k.child = child → ∀ x ∈ s.view.course k.srcCourse, x.loc.tier = 2 → s.view.windowOff = false) :=
  ⟨formingOne, 1, { theSession with state := .forming }, by decide⟩

theorem witness_SessionsOpenForkAndClose_4 : ∃ (s : State) (src : Src) (desc : Bytes) (m : Bytes) (p : Nat) (si : Nat) (se : Session), s.alive = true ∧ SessionAsks s src desc 3 p m ∧ NamesSession s p (fieldAt m 4 4) si se ∧ se.cid.toNat = fieldAt m 8 8 ∧ (se.state = .open ∨ se.state = .lost) ∧ fieldAt m 1 1 = 0 ∧ fieldAt m 2 1 = 0 ∧ fieldAt m 0x10 4 = 0 ∧ fieldAt m 0x14 4 = 0 :=
  ⟨forkable, .conn 3 5, wire sessionFields (sessDesc 3 0 0 0x40000 77 0 0 7), sessDesc 3 0 0 0x40000 77 0 0 7, 1, 0, { theSession with layers := [{ Layer.empty with runs := [⟨2, 0, 1⟩], rows := 16 }] }, by decide⟩

theorem witness_SessionsOpenForkAndClose_5 : ∃ (s : State) (idx : Nat) (se : Session), s.alive = true ∧ s.view.session idx = some se ∧ se.state = .closing ∧ (∀ x ∈ s.view.openSheets, ∀ q ∈ x.queries, q.2.desc.noLocal = true ∨ q.2.session ≠ idx) :=
  ⟨closing, 0, { theSession with state := .closing, gen := 2 }, by decide⟩

theorem witness_AppendsCountStageAndLandRows_1 : ∃ (s : State) (src : Src) (b : Bytes) (m : Bytes) (p : Nat) (si : Nat) (li : Nat) (at_ : Nat) (ci : Nat) (pi : Nat) (f : Nat) (se : Session) (l : Layer) (rows : List Bytes) (c : Course) (pg : Page), s.alive = true ∧ AppendAsks s src b p m si se li l rows ∧ s.view.nextPos si li l = fieldAt m 8 4 ∧ ((asSeen s src).chargeAppend p (fieldAt m 0xC 4 * rows.length + 64 * ((fieldAt m 8 4 + rows.length - 1) / 16 - fieldAt m 8 4 / 16 + 1)) (rows.length * (s.view.rowFmt se.fmt).rowBytes)).isSome = true ∧ s.view.stagedOf si li = [] ∧ s.view.restoring l = false ∧ s.view.openPage si se l (fieldAt m 8 4) = some (ci, pi, c, pg) ∧ c.loc = .hbm f ∧ c.die < 2 ∧ s.node.pg.install.length = 2 ∧ pg.counted + rows.length ≤ 16 ∧ at_ + ((atD s.node.pg.install c.die []).length + rows.length) * 625 < (asSeen s src).periodPs + (asSeen s src).installPoint :=
  ⟨appendable, .conn 3 5, appendWire, appendMem, 1, 0, 0, 0, 2, 0, 7, appendSession, atD appendSession.layers 0 Layer.empty, [List.replicate 18 0], { theCourse with pages := [appPage] }, appPage, by decide⟩

theorem witness_AppendsCountStageAndLandRows_2 : ∃ (s : State) (src : Src) (b : Bytes) (m : Bytes) (p : Nat) (si : Nat) (li : Nat) (at_ : Nat) (se : Session) (l : Layer) (rows : List Bytes), s.alive = true ∧ AppendAsks s src b p m si se li l rows ∧ s.view.nextPos si li l < fieldAt m 8 4 ∧ bitOf (fieldAt m 5 1) 1 = false ∧ ((asSeen s src).chargeAppend p (fieldAt m 0xC 4 * rows.length + 64 * ((fieldAt m 8 4 + rows.length - 1) / 16 - fieldAt m 8 4 / 16 + 1)) (rows.length * (s.view.rowFmt se.fmt).rowBytes)).isSome = true ∧ s.view.canStage p rows.length = true :=
  ⟨appendable, .conn 3 5, appendGapWire, appendGapMem, 1, 0, 0, 0, appendSession, atD appendSession.layers 0 Layer.empty, [List.replicate 18 0], by decide⟩

theorem witness_AppendsCountStageAndLandRows_3 : ∃ (s : State) (die : Nat) (r : InstallRow) (rest : List InstallRow), s.alive = true ∧ Canonical s ∧ die < s.node.pg.install.length ∧ atD s.node.pg.install die [] = r :: rest :=
  ⟨landing, 0, ⟨2, 0, 4, List.replicate 18 3, none⟩, [], by decide⟩

theorem witness_PrefixRequestsWaitStartAndTakeEffect_1_a : ∃ (s : State) (kind : PfxKind) (i : Instr) (src : Src) (b : Bytes) (m : Bytes) (p : Nat) (se : Option (Nat × Session)), s.alive = true ∧ (kind, i) ∈ [(PfxKind.match_, Instr.matchPrefix src b), (.publish, .publishBlocks src b), (.retract, .retractBlocks src b), (.pin, .pinBlocks src b), (.unpin, .unpinBlocks src b)] ∧ PrefixAsks s kind src b p m se ∧ quietSrc s src :=
  ⟨shareable, .match_, .matchPrefix (.conn 3 5) matchWire, .conn 3 5, matchWire, matchMem, 1, some (0, { theSession with layers := [{ Layer.empty with runs := [⟨2, 0, 1⟩], rows := 16 }] }), by decide⟩

theorem witness_PrefixRequestsWaitStartAndTakeEffect_1_b : ∃ (s : State) (kind : PfxKind) (i : Instr) (src : Src) (b : Bytes) (m : Bytes) (p : Nat) (se : Option (Nat × Session)), s.alive = true ∧ (kind, i) ∈ [(PfxKind.match_, Instr.matchPrefix src b), (.publish, .publishBlocks src b), (.retract, .retractBlocks src b), (.pin, .pinBlocks src b), (.unpin, .unpinBlocks src b)] ∧ PrefixAsks s kind src b p m se ∧ quietSrc s src :=
  ⟨pfxRunning, .pin, .pinBlocks (.conn 3 5) pinWire, .conn 3 5, pinWire, pinMem, 1, none, by decide⟩

theorem witness_PrefixRequestsWaitStartAndTakeEffect_2 : ∃ (s : State) (o : PfxOp) (rest : List PfxOp), s.alive = true ∧ Canonical s ∧ s.node.ks.running = none ∧ s.node.ks.waiting = o :: rest ∧ s.view.prefixGone o = none ∧ (s.view.settle opFields).prefixStartCheck o = none :=
  ⟨pfxWaiting, theAsked, [], by decide⟩

theorem witness_PrefixRequestsWaitStartAndTakeEffect_3 : ∃ (s : State) (o : PfxOp), s.alive = true ∧ s.node.ks.running = some o ∧ s.view.prefixGone o = none ∧ s.view.prefixNeed o ≤ (s.view.prefixShares (s.view.prefixNeed o)).1 + (s.view.prefixShares (s.view.prefixNeed o)).2 :=
  ⟨pfxRunning, theAsked, by decide⟩

theorem witness_PrefixRequestsWaitStartAndTakeEffect_4 : ∃ (s : State) (o : PfxOp), s.alive = true ∧ s.node.ks.running = some o ∧ (s.view.prefixShares (s.view.prefixNeed o)).1 + (s.view.prefixShares (s.view.prefixNeed o)).2 < s.view.prefixNeed o :=
  ⟨pfxShort, pinned, by decide⟩

theorem witness_KeystoneScansAndRebuilds_1 : ∃ (s : State), s.alive = true ∧ rd s Reg.KEY_SCAN_EN = 1 :=
  ⟨badEntry, by decide⟩

theorem witness_KeystoneScansAndRebuilds_2 : ∃ (s : State), s.alive = true ∧ rd s Reg.KEY_SCAN_EN = 0 :=
  ⟨reg badEntry Reg.KEY_SCAN_EN 0, by decide⟩

theorem witness_KeystoneScansAndRebuilds_3 : ∃ (s : State) (bank : Nat), s.alive = true ∧ Canonical s ∧ rd s Reg.KEY_REBUILDING 0 bank = 1 :=
  ⟨reg full Reg.KEY_REBUILDING 1 0 9, 9, by decide⟩

theorem witness_SparesTakeThePlaceOfWhatIsRetired_1 : ∃ (s : State) (wr : RegWr), s.alive = true ∧ Canonical s ∧ SpareWriteOk s wr ∧ s.node.ks.banks.length = 66 :=
  ⟨active, ⟨.pf, 0x140, 15, BitVec.ofNat 32 (3 + 25 * 32 + 9 * 1024 + 65 * 2 ^ 17)⟩, by decide⟩

theorem witness_SparesTakeThePlaceOfWhatIsRetired_2 : ∃ (s : State) (p : PendSwap), s.alive = true ∧ Canonical s ∧ s.node.cl.swaps = [p] ∧ s.view.reached p.effect = true ∧ p.retire < 26 ∧ p.activate < 26 ∧ p.retire ≠ p.activate :=
  ⟨swapDue, theSwap, by decide⟩

theorem witness_SparesTakeThePlaceOfWhatIsRetired_3 : ∃ (s : State) (cluster : Nat) (cause : Nat) (bufOff : Nat), s.alive = true ∧ Canonical s ∧ cluster < 26 ∧ rd s Reg.CL_FAULTED cluster = 0 :=
  ⟨active, 7, 1, 0x381230, by decide⟩

theorem witness_SparesTakeThePlaceOfWhatIsRetired_4 : ∃ (s : State) (cluster : Nat) (bufOff : Nat) (tile : Nat) (again : Bool), s.alive = true ∧ Canonical s ∧ cluster < 26 :=
  ⟨attending, 3, 64, 4, false, by decide⟩

theorem witness_SparesTakeThePlaceOfWhatIsRetired_5 : ∃ (s : State) (cluster : Nat) (bufOff : Nat) (k : Nat) (q : Query), s.alive = true ∧ cluster < 26 ∧ lookupN k s.node.qa.cur.queries = some q :=
  ⟨attending, 3, 64, 1, sheetQuery, by decide⟩

theorem witness_SparesTakeThePlaceOfWhatIsRetired_6 : ∃ (s : State) (core : Nat), s.alive = true ∧ Canonical s ∧ core ≤ 5 ∧ core ≠ rd s Reg.GLB_CORE_SPARE_A ∧ core ≠ rd s Reg.GLB_CORE_SPARE_B :=
  ⟨full, 1, by decide⟩

theorem witness_CodebooksFormatsAndWeightsTakeForce_1 : ∃ (s : State) (wr : RegWr) (inst : Nat) (idx : Nat), s.alive = true ∧ Canonical s ∧ Lands s wr .PGM 0x114 inst idx :=
  ⟨tabled, pf 0x25114 0x00000020, 0, 0, by decide⟩

theorem witness_CodebooksFormatsAndWeightsTakeForce_2 : ∃ (s : State) (wr : RegWr) (inst : Nat) (cb : Nat), s.alive = true ∧ Canonical s ∧ Lands s wr .CL 0x18C inst cb ∧ fieldEnabled wr Reg.CL_VALID = true ∧ (s.view.busWrite wr).w.get Reg.CL_VALID 0 cb = 1 :=
  ⟨cbReady, pf 0x3018C 1, 0, 2, by decide⟩

theorem witness_CodebooksFormatsAndWeightsTakeForce_3 : ∃ (s : State) (wr : RegWr) (inst : Nat) (idx : Nat), s.alive = true ∧ Canonical s ∧ Lands s wr .CL 0x190 inst idx ∧ wrote1 wr Reg.CL_LOAD = true :=
  ⟨full, pf 0x30190 1, 0, 0, by decide⟩

theorem witness_CodebooksFormatsAndWeightsTakeForce_4 : ∃ (s : State), s.alive = true ∧ Canonical s ∧ rd s Reg.CL_BUSY = 1 ∧ packageLen s.view (rd s Reg.CL_ADDR_LO + rd s Reg.CL_ADDR_HI * 2 ^ 32) = none :=
  ⟨reg full Reg.CL_BUSY 1, by decide⟩

theorem witness_CodebooksFormatsAndWeightsTakeForce_5 : ∃ (s : State), s.alive = true ∧ Canonical s ∧ rd s Reg.CL_BUSY = 1 :=
  ⟨reg full Reg.CL_BUSY 1, by decide⟩

theorem witness_QueriesAreAdmittedPassedAndMerged_1 : ∃ (s : State) (v : Work) (src : Src) (b : Bytes) (m : Bytes) (at_ : Nat) (p : Nat) (d : QDesc) (x : Option (Nat × Session)), s.alive = true ∧ Canonical s ∧ v = asSeen s src ∧ s.view.partOf src = some p ∧ s.view.srcOk src = true ∧ s.view.staleSrc src = false ∧ (m = (match src with | .conn _ _ => swapFields queryFields (b.take 64) | .queue _ _ => b.take 64) ++ b.drop 64) ∧ d = QDesc.read m ∧ v.descOk p d m (v.queryShape p d) (queryPayload src d m).1 (queryPayload src d m).2 = true ∧ v.queryChecks p d = .ok x ∧ ((v.queryShape p d).any (fun sh => (v.enlist src p d x sh (queryPayload src d m).1 (queryPayload src d m).2 b.length (v.sheetOffNs + (at_ : Rat) / 1000)).isOk) = true) :=
  ⟨queryable, asSeen queryable (.conn 3 5), .conn 3 5, attendWire, attendMem, 0, 1, QDesc.read attendMem, some (0, theSession), by decide⟩

theorem witness_QueriesAreAdmittedPassedAndMerged_2 : ∃ (s : State) (slot : Nat) (work : List PassItem) (items : List (PassItem × Query × Tile × QTile)) (c : Nat), s.alive = true ∧ Canonical s ∧ PassStarts s slot work items c :=
  ⟨attending, 3, [⟨1, 0, 0, 4⟩], [(⟨1, 0, 0, 4⟩, sheetQuery, theTile, ⟨4, [(0, 5)]⟩)], 3, by decide +kernel⟩

theorem witness_QueriesAreAdmittedPassedAndMerged_3 : ∃ (s : State) (slot : Nat) (k : Nat) (left : Nat) (rest : List (Nat × Nat)), s.alive = true ∧ s.view.portOf slot = (k, left) :: rest ∧ left ≠ 0 :=
  ⟨portFull, 3, 1, 2, [], by decide⟩

theorem witness_QueriesAreAdmittedPassedAndMerged_4 : ∃ (s : State) (slot : Nat) (k : Nat) (rest : List (Nat × Nat)) (q : Query), s.alive = true ∧ Canonical s ∧ s.view.portOf slot = (k, 0) :: rest ∧ lookupN k s.node.qa.cur.queries = some q ∧ slot ∉ q.dropped ∧ slot ∉ q.folded :=
  ⟨portLast, 3, 1, [], sheetQuery, by decide⟩

theorem witness_CollectorsTakePartialsCreditsAndCancels_1 : ∃ (s : State) (conn : Nat) (msn : Nat) (p : Nat) (b : Bytes) (r : PartialRec) (g : Group), s.alive = true ∧ Canonical s ∧ RecordActs s conn msn 0 b p r ∧ (s.node.qa.groups.find? (fun x : Group => x.part = p && x.group = r.group) = some g) ∧ g.closed = false ∧ r.srcNode ∈ g.senders ∧ (∀ i ∈ g.inputs, i.1 ≠ r.srcNode) ∧ r.level < g.desc.level ∧ (r.headerOnly = true ∨ (r.heads = g.desc.heads ∧ r.channels = g.fmtC)) :=
  ⟨collecting, 3, 5, 1, partialBytes 0, theRecord 0, theGroup, by decide⟩

theorem witness_CollectorsTakePartialsCreditsAndCancels_2 : ∃ (s : State) (conn : Nat) (msn : Nat) (p : Nat) (b : Bytes) (r : PartialRec), s.alive = true ∧ RecordActs s conn msn 1 b p r :=
  ⟨collecting, 3, 5, 1, partialBytes 1, theRecord 1, by decide⟩

theorem witness_CollectorsTakePartialsCreditsAndCancels_3 : ∃ (s : State) (conn : Nat) (msn : Nat) (p : Nat) (b : Bytes) (r : PartialRec), s.alive = true ∧ RecordActs s conn msn 2 b p r :=
  ⟨collecting, 3, 5, 1, partialBytes 2, theRecord 2, by decide⟩

theorem witness_CollectorsTakePartialsCreditsAndCancels_4 : ∃ (s : State) (p : Nat) (group : Nat) (g : Group), s.alive = true ∧ Canonical s ∧ (s.node.qa.groups.find? (fun x : Group => x.part = p && x.group = group && !x.closed) = some g) ∧ (1 + g.desc.level) * s.view.repTicks ≤ ticksTo g.sheet s.node.tk.now + 1 ∧ ticksTo g.sheet s.node.tk.now < 2 ^ 47 :=
  ⟨collectingLate, 1, 6, theGroup, by decide⟩

theorem witness_CollectorsTakePartialsCreditsAndCancels_5 : ∃ (s : State) (k : Nat) (x : Held), s.alive = true ∧ Canonical s ∧ lookupN k s.node.qa.held = some x ∧ s.view.reached (x.sheet + BitVec.ofNat 48 (s.view.acting Reg.MRG_CREDIT_WAIT * s.view.repTicks)) = true ∧ (x.part, x.prec.group) ∉ s.node.qa.credits :=
  ⟨withQa collectingLate { collectingLate.node.qa with credits := [] }, 2, theHeld, by decide⟩

theorem witness_CollectorsTakePartialsCreditsAndCancels_6 : ∃ (s : State) (k : Nat) (x : Held), s.alive = true ∧ lookupN k s.node.qa.held = some x ∧ (x.part, x.prec.group) ∈ s.node.qa.credits :=
  ⟨collectingLate, 2, theHeld, by decide⟩

theorem witness_CollectorsTakePartialsCreditsAndCancels_7 : ∃ (s : State) (k : Nat) (x : Early), s.alive = true ∧ Canonical s ∧ lookupN k s.node.qa.early = some x ∧ s.view.reached (x.arrived + BitVec.ofNat 48 (s.view.acting Reg.MRG_EARLY_WAIT * s.view.repTicks)) = true :=
  ⟨collectingLate, 1, theEarly, by decide⟩

theorem witness_CompressorsEmitAndExpandersDecode_1 : ∃ (s : State) (die : Nat) (mv : Nat) (blk : Nat) (bs : Bytes) (m : Move) (c : Course) (r : CmpRun), s.alive = true ∧ Canonical s ∧ SpillRuns s die mv blk m c r ∧ r.verifies blk bs = true ∧ r.form bs = true :=
  ⟨spilling, 0, 3, 0, zeroBlock, spillMove, theCourse, spilling.view.courseRun (.spill 3) theCourse, by decide⟩

theorem witness_CompressorsEmitAndExpandersDecode_2 : ∃ (s : State) (die : Nat) (mv : Nat) (blk : Nat) (bs : Bytes) (m : Move) (c : Course) (r : CmpRun), s.alive = true ∧ Canonical s ∧ SpillRuns s die mv blk m c r ∧ die < s.node.cp.fails.length :=
  ⟨spilling, 0, 3, 0, [], spillMove, theCourse, spilling.view.courseRun (.spill 3) theCourse, by decide⟩

theorem witness_CompressorsEmitAndExpandersDecode_3 : ∃ (s : State) (inst : Nat) (mv : Nat) (blk : Nat) (f : Nat) (m : Move) (c : Course) (b : Blk) (img : Bytes), s.alive = true ∧ Canonical s ∧ inst < 25 ∧ rd s Reg.XPD_ACTIVE 0 inst = 1 ∧ lookupN mv s.node.st.moves = some m ∧ s.view.course m.course = some c ∧ blk ∉ m.blksDone ∧ m.checked = none ∧ m.dst = .hbm f ∧ (c.loc.tier = 2 → s.view.windowOff = false) ∧ c.loc.blks[blk]? = some b ∧ s.view.blockExpander c.loc b = some inst ∧ expandBlock (s.view.blkBytes c.loc b) (c.imageLen blk) c.part = .ok img :=
  ⟨lifting, 8, 3, 0, 99, theMove, ddrCourse, theBlk, List.replicate 64 0, by decide⟩

theorem witness_CompressorsEmitAndExpandersDecode_4 : ∃ (s : State) (inst : Nat) (ci : Nat) (blk : Nat) (bs : List Blk) (c : Course) (b : Blk) (img : Bytes), s.alive = true ∧ Canonical s ∧ inst < 25 ∧ rd s Reg.XPD_ACTIVE 0 inst = 1 ∧ s.view.course ci = some c ∧ c.loc = .ddr bs ∧ bs[blk]? = some b ∧ s.view.blockExpander c.loc b = some inst ∧ expandBlock (s.view.blkBytes c.loc b) (c.imageLen blk) c.part = .ok img :=
  ⟨lifting, 8, 2, 0, [theBlk], ddrCourse, theBlk, List.replicate 64 0, by decide⟩

theorem witness_CompressorsEmitAndExpandersDecode_5 : ∃ (s : State) (inst : Nat) (die : Nat) (layer : Nat) (blk : Nat) (window : Nat) (l : WLayer) (b : Bytes) (img : Bytes), s.alive = true ∧ Canonical s ∧ inst < 25 ∧ rd s Reg.XPD_ACTIVE 0 inst = 1 ∧ (s.node.cl.weights.find? (fun l => l.layer = layer) = some l) ∧ l.packed[blk]? = some b ∧ l.streamed die = true ∧ s.view.weightExpander die = some inst ∧ (weightWindows l.imageLen l.packed)[blk]? = some window ∧ expandBlock b window 0 = .ok img :=
  ⟨streamedOne, 23, 0, 0, 0, 4, theWeights, weightBlock, List.replicate 4 0, by decide⟩

theorem witness_CompressorsEmitAndExpandersDecode_6 : ∃ (s : State) (wr : RegWr) (inst : Nat) (idx : Nat), s.alive = true ∧ Canonical s ∧ Lands s wr .XPD 0x108 inst idx ∧ wrote1 wr Reg.XPD_RETIRE = true ∧ idx < 25 ∧ rd s Reg.XPD_ACTIVE 0 idx = 1 :=
  ⟨expanding, pf 0x29108 0x400, 0, 0, by decide⟩

theorem witness_PortsTrainAndComeUp_1 : ∃ (s : State) (wr : RegWr) (p : Nat) (idx : Nat), s.alive = true ∧ Canonical s ∧ Lands s wr .LP 0x100 p idx ∧ p < 32 ∧ fieldEnabled wr Reg.LP_EN = true :=
  ⟨reg full Reg.GLB_IDS_LOCKED 1, pf 0x52100 0x5, 2, 0, by decide⟩

theorem witness_PortsTrainAndComeUp_2 : ∃ (s : State) (wr : RegWr) (p : Nat) (idx : Nat), s.alive = true ∧ Canonical s ∧ Lands s wr .LP 0x100 p idx ∧ p < 32 ∧ wrote1 wr Reg.LP_RETRAIN = true :=
  ⟨reg linked Reg.LP_SPARE_FOR 3 2, pf 0x52100 0x15, 2, 0, by decide⟩

theorem witness_PortsTrainAndComeUp_3 : ∃ (s : State) (p : Nat) (half : Nat) (lanes : Nat), s.alive = true ∧ Canonical s ∧ s.view.hasHalf p half = true ∧ s.view.portState p half = 1 ∧ ((if rd s Reg.LP_SPLIT p ≠ 0 then 4 else 8) ≤ lanes) ∧ s.view.mayTrain p = true ∧ atD s.node.bo.serdesClk (p / 8) false = true :=
  ⟨reg linked Reg.LP_STATE_A 1 2, 2, 0, 8, by decide⟩

theorem witness_PortsTrainAndComeUp_4 : ∃ (s : State) (p : Nat) (half : Nat) (failed : Option Nat), s.alive = true ∧ Canonical s ∧ s.view.hasHalf p half = true ∧ s.view.portState p half = 2 ∧ (∀ l ∈ failed, l < 8 ∧ s.view.laneHalf p l = half ∧ s.view.laneSpareFree p = true) :=
  ⟨reg linked Reg.LP_STATE_A 2 2, 2, 0, some 6, by decide⟩

theorem witness_PortsTrainAndComeUp_5 : ∃ (s : State) (p : Nat) (half : Nat), s.alive = true ∧ Canonical s ∧ s.view.hasHalf p half = true ∧ s.view.portState p half = 2 :=
  ⟨reg linked Reg.LP_STATE_A 2 2, 2, 0, by decide⟩

theorem witness_PortsTrainAndComeUp_6 : ∃ (s : State) (p : Nat) (half : Nat) (seen : List (Option (AlignBlock × Int))) (order : List (Nat × Nat)), s.alive = true ∧ Canonical s ∧ s.node.lk.halves.length = 64 ∧ s.view.hasHalf p half = true ∧ s.view.portState p half = 3 ∧ deskew (s.view.lanesOf p half) seen = some order :=
  ⟨reg linked Reg.LP_STATE_A 3 2, 2, 0, shown, [(0, 0), (1, 1), (2, 2), (3, 3), (4, 4), (5, 5), (6, 6), (7, 7)], by decide, by decide, by decide, by decide, by decide, deskew_shown⟩

theorem witness_PortsTrainAndComeUp_7 : ∃ (s : State) (p : Nat) (half : Nat), s.alive = true ∧ s.view.hasHalf p half = true ∧ 4 ≤ s.view.portState p half :=
  ⟨reg linked Reg.LP_STATE_A 5 2, 2, 0, by decide⟩

theorem witness_PortsTrainAndComeUp_8 : ∃ (s : State) (p : Nat) (half : Nat) (flit : Bytes), s.alive = true ∧ Canonical s ∧ s.node.lk.halves.length = 64 ∧ s.view.hasHalf p half = true ∧ 4 ≤ s.view.portState p half ∧ flit.length = 64 ∧ fieldAt flit 0 1 = 1 :=
  ⟨reg linked Reg.LP_STATE_A 4 9, 9, 0, [1, 1, 0, 4, 0, 0, 0, 0, 9, 2, 6, 0, 0, 8] ++ List.replicate 50 0, by decide⟩

theorem witness_PortsTrainAndComeUp_9 : ∃ (s : State) (p : Nat) (half : Nat), s.alive = true ∧ Canonical s ∧ s.node.lk.halves.length = 64 ∧ s.view.hasHalf p half = true ∧ s.view.portLive p half = true :=
  ⟨reg linked Reg.LP_STATE_A 5 2, 2, 0, by decide⟩

theorem witness_LanesSwapToTheSpare_1 : ∃ (s : State) (wr : RegWr) (p : Nat) (idx : Nat) (lane : Nat) (h : Nat), s.alive = true ∧ Canonical s ∧ s.node.lk.halves.length = 64 ∧ Lands s wr .LP 0x100 p idx ∧ p < 32 ∧ wrote1 wr Reg.LP_FORCE_SWAP = true ∧ wrote1 wr Reg.LP_RETRAIN = false ∧ (s.view.busWrite wr).w.get Reg.LP_EN p = 1 ∧ lane = (s.view.busWrite wr).w.get Reg.LP_SWAP_LANE p ∧ h = (s.view.busWrite wr).w.laneHalf p lane ∧ s.view.portLive p h = true ∧ s.view.laneSpareFree p = true ∧ rd s Reg.GLB_LANE_SPARE_EN = 1 :=
  ⟨reg linked Reg.LP_STATE_A 5 2, pf 0x52100 0x165, 2, 0, 5, 0, by decide⟩

theorem witness_LanesSwapToTheSpare_2_a : ∃ (s : State) (p : Nat) (lane : Nat) (l : Nat) (h : Nat), s.alive = true ∧ Canonical s ∧ s.node.lk.halves.length = 64 ∧ p < 32 ∧ s.view.logicalOf p lane = some l ∧ h = s.view.laneHalf p l ∧ s.view.portLive p h = true :=
  ⟨reg linked Reg.LP_STATE_A 5 2, 2, 3, 3, 0, by decide⟩

theorem witness_LanesSwapToTheSpare_2_b : ∃ (s : State) (p : Nat) (lane : Nat) (l : Nat) (h : Nat), s.alive = true ∧ Canonical s ∧ s.node.lk.halves.length = 64 ∧ p < 32 ∧ s.view.logicalOf p lane = some l ∧ h = s.view.laneHalf p l ∧ s.view.portLive p h = true :=
  ⟨withHalf (reg (reg linked Reg.LP_STATE_A 5 2) Reg.LP_SPARE_FOR 4 2) 4 fun x => { x with order := x.order.set 4 8 }, 2, 8, 4, 0, by decide⟩

theorem witness_LanesSwapToTheSpare_3 : ∃ (s : State) (p : Nat) (half : Nat) (blocks : List AlignBlock) (corrected : List Nat) (spareOk : Bool), s.alive = true ∧ Canonical s ∧ s.node.lk.halves.length = 64 ∧ s.view.hasHalf p half = true ∧ s.view.portLive p half = true :=
  ⟨swapping, 2, 0, [⟨0, some 0, 0, 2, 0, 8⟩], [1, 2, 3], true, by decide⟩

theorem witness_LanesSwapToTheSpare_4 : ∃ (s : State) (p : Nat) (half : Nat) (flit : Bytes), s.alive = true ∧ Canonical s ∧ s.node.lk.halves.length = 64 ∧ s.view.hasHalf p half = true ∧ s.view.portLive p half = true ∧ flit.length = 64 ∧ fieldAt flit 0 1 = 4 ∧ fieldAt flit 1 1 < 8 ∧ s.view.laneHalf p (fieldAt flit 1 1) = half ∧ s.view.laneSpareFree p = true :=
  ⟨reg linked Reg.LP_STATE_A 5 2, 2, 0, [4, 3] ++ List.replicate 62 0, by decide⟩

theorem witness_LanesSwapToTheSpare_5 : ∃ (s : State) (p : Nat) (half : Nat) (flit : Bytes) (sw : LaneSwap), s.alive = true ∧ s.node.lk.halves.length = 64 ∧ s.view.hasHalf p half = true ∧ s.view.portLive p half = true ∧ flit.length = 64 ∧ fieldAt flit 0 1 = 5 ∧ (s.view.half p half).swap = some sw ∧ sw.tx = false ∧ sw.lane = fieldAt flit 1 1 :=
  ⟨swapping, 2, 0, [5, 3, 0, 9] ++ List.replicate 60 0, ⟨3, true, some 8, false⟩, by decide⟩

theorem witness_LanesSwapToTheSpare_6 : ∃ (s : State) (p : Nat) (lane : Nat) (v : Nat) (h : Nat) (ber : Nat), s.alive = true ∧ Canonical s ∧ p < 32 ∧ lane ≤ 8 ∧ rd s Reg.MAR_LANE_EN = 1 :=
  ⟨reg linked Reg.MAR_LANE_EN 1, 2, 7, 0, 0, 3, by decide⟩

theorem witness_LanesSwapToTheSpare_7 : ∃ (s : State) (p : Nat) (half : Nat) (blocks : List AlignBlock) (corrected : List Nat) (spareOk : Bool), s.alive = true ∧ Canonical s ∧ s.node.lk.halves.length = 64 ∧ s.view.hasHalf p half = true ∧ s.view.portLive p half = false ∧ s.view.portState p half ≠ 0 :=
  ⟨reg linked Reg.LP_STATE_A 3 2, 2, 0, [], [], true, by decide⟩

theorem witness_LinkUnitsAndCreditsAreCounted_1 : ∃ (s : State) (p : Nat) (half : Nat) (first : Nat) (c : Nat) (words : List LaneWord) (slots : List (List Slot)) (pkt : Bytes), s.alive = true ∧ s.node.lk.halves.length = 64 ∧ s.view.hasHalf p half = true ∧ s.view.portState p half = 5 ∧ words.mapM (s.view.rxSlots p half) = some slots ∧ unitIn (slots.flatten.drop first) = some (some (c, pkt)) :=
  ⟨linkUp, 2, 0, 9, 1, [onLanes (rsEncode (slotSymbols unitAt9))], [unitAt9], [7, 8, 9], by decide +kernel⟩

theorem witness_LinkUnitsAndCreditsAreCounted_2 : ∃ (s : State) (p : Nat) (half : Nat) (first : Nat) (words : List LaneWord) (slots : List (List Slot)), s.alive = true ∧ Canonical s ∧ s.view.hasHalf p half = true ∧ s.view.portState p half = 5 ∧ words.mapM (s.view.rxSlots p half) = some slots ∧ unitIn (slots.flatten.drop first) = some none :=
  ⟨linkUp, 2, 0, 9, [onLanes (rsEncode (slotSymbols strayAt9))], [strayAt9], by decide +kernel⟩

theorem witness_LinkUnitsAndCreditsAreCounted_3 : ∃ (s : State) (p : Nat) (half : Nat) (lane : Nat) (units : Nat) (word : LaneWord), s.alive = true ∧ Canonical s ∧ s.node.lk.halves.length = 64 ∧ s.view.hasHalf p half = true ∧ s.view.portLive p half = true ∧ s.view.uncorrectable p half word = true :=
  ⟨linkUp, 2, 0, 3, 10, sixteenErrors, by decide +kernel⟩

theorem witness_LinkUnitsAndCreditsAreCounted_4 : ∃ (s : State) (p : Nat) (half : Nat) (flit : Bytes), s.alive = true ∧ s.node.lk.halves.length = 64 ∧ s.view.hasHalf p half = true ∧ s.view.portLive p half = true ∧ flit.length = 64 ∧ fieldAt flit 0 1 = 2 ∧ (s.view.half p half).avail.length = 4 ∧ (s.view.half p half).freed.length = 4 :=
  ⟨reg linked Reg.LP_STATE_A 5 2, 2, 0, [2, 0, 0, 0, 0, 3, 0, 0, 0, 0, 0, 0, 0, 5] ++ List.replicate 50 0, by decide⟩

theorem witness_LinkUnitsAndCreditsAreCounted_5_a : ∃ (s : State) (p : Nat) (half : Nat) (u : TxUnit), s.alive = true ∧ s.node.lk.halves.length = 64 ∧ rd s Reg.FAB_EN = 1 ∧ s.view.hasHalf p half = true ∧ s.view.portState p half = 5 ∧ (portHead s p half 0 = some u ∨ (portHead s p half 0 = none ∧ portTurnOf s p half = some u.cls ∧ portHead s p half u.cls = some u)) :=
  ⟨sending 0, 2, 0, ⟨0, [1, 2, 3], none⟩, by decide⟩

theorem witness_LinkUnitsAndCreditsAreCounted_5_b : ∃ (s : State) (p : Nat) (half : Nat) (u : TxUnit), s.alive = true ∧ s.node.lk.halves.length = 64 ∧ rd s Reg.FAB_EN = 1 ∧ s.view.hasHalf p half = true ∧ s.view.portState p half = 5 ∧ (portHead s p half 0 = some u ∨ (portHead s p half 0 = none ∧ portTurnOf s p half = some u.cls ∧ portHead s p half u.cls = some u)) :=
  ⟨sending 2, 2, 0, ⟨2, [1, 2, 3], none⟩, by decide⟩

theorem witness_TheTickFollowsItsSource_1 : ∃ (s : State) (p : Nat) (half : Nat) (flit : Bytes) (arrive : Int) (m : Mark), s.alive = true ∧ Canonical s ∧ s.node.lk.halves.length = 64 ∧ s.view.hasHalf p half = true ∧ s.view.portState p half = 5 ∧ flit.length = 64 ∧ fieldAt flit 0 1 = 3 ∧ m = { tick := beAt flit 2 6, depart := beAt flit 8 4 % 2 ^ 24, arrive := arrive } :=
  ⟨following, 2, 0, [3, 1, 0, 0, 0, 0, 0, 0, 0, 0, 0, 4, 0, 0, 0, 0, 0, 0, 0, 0, 0, 0, 0, 9, 0, 0, 0, 8] ++ List.replicate 36 0, 12, ⟨0, 4, 12⟩, by decide⟩

theorem witness_TheTickFollowsItsSource_2 : ∃ (s : State) (p : Nat) (half : Nat) (why : SourceLoss), s.alive = true ∧ Canonical s ∧ p = rd s Reg.TICK_SRC_PORT ∧ half = rd s Reg.TICK_SRC_HALF ∧ s.view.isSource p half = true ∧ ((why = .missing ∧ 4 ≤ (s.view.half p half).missed) ∨ (why = .portDown ∧ s.view.portLive p half = false) ∨ (why = .discontinuous ∧ ∃ a ∈ (s.view.half p half).prevMark, ∃ b ∈ (s.view.half p half).mark, (a.tick + 1) % 2 ^ 48 ≠ b.tick)) :=
  ⟨reg following Reg.LP_STATE_A 1 2, 2, 0, .portDown, by decide⟩

theorem witness_TheTickFollowsItsSource_3 : ∃ (s : State) (wr : RegWr) (inst : Nat) (idx : Nat), s.alive = true ∧ Canonical s ∧ Lands s wr .TICK 0x110 inst idx :=
  ⟨reg (reg (reg full Reg.TICK_MASTER 1) Reg.TICK_SWITCH_LO 5000) Reg.TICK_NEXT 16, pf 0x1110 0, 0, 0, by decide⟩

theorem witness_TheTickFollowsItsSource_4 : ∃ (s : State), s.alive = true ∧ Canonical s ∧ s.node.tk.pending = true ∧ s.view.reached s.node.tk.switchAt = true :=
  ⟨{ full with node := { full.node with tk := { full.node.tk with pending := true, nextPeriod := 16 } } }, by decide⟩

theorem witness_TheTickFollowsItsSource_5 : ∃ (s : State) (wr : RegWr) (inst : Nat) (idx : Nat), s.alive = true ∧ Canonical s ∧ Lands s wr .TICK 0x134 inst idx :=
  ⟨reg up Reg.TICK_LOAD_LO 77, pf 0x1134 1, 0, 0, by decide⟩

theorem witness_TheTickFollowsItsSource_6_a : ∃ (s : State) (dev : Int), s.alive = true ∧ Canonical s :=
  ⟨full, 100, by decide⟩

theorem witness_TheTickFollowsItsSource_6_b : ∃ (s : State) (dev : Int), s.alive = true ∧ Canonical s :=
  ⟨{ full with node := { full.node with tk := { full.node.tk with inLast := some 0 } } }, 50001, by decide⟩

theorem witness_TheTickFollowsItsSource_7 : ∃ (s : State), s.alive = true ∧ Canonical s ∧ s.node.tk.inLast ≠ none ∧ 4 ≤ s.node.tk.inBad :=
  ⟨{ full with node := { full.node with tk := { full.node.tk with inLast := some 0, inBad := 4 } } }, by decide⟩

theorem witness_TheTickFollowsItsSource_8 : ∃ (s : State), s.alive = true ∧ (s.node.tk.inLast = none ∨ s.node.tk.inBad < 4) :=
  ⟨full, by decide⟩

theorem witness_ConnectionsAreInstalledRekeyedAndRemoved_1 : ∃ (s : State) (q : Nat) (e : Nat) (p : Nat) (id : Nat) (slot : Nat) (desc : Bytes), s.alive = true ∧ Canonical s ∧ ControlAsks s q e p desc 1 ∧ id = fieldAt desc 4 4 ∧ s.view.connDescOk p desc = true ∧ s.view.freeHotSlot = some slot ∧ (s.view.ksInsert tblConn [id] slot).1 ≠ none :=
  ⟨queued 4 0 0, 5, 0, 1, 8, 1, connDesc 1 8 4, by decide⟩

theorem witness_ConnectionsAreInstalledRekeyedAndRemoved_2 : ∃ (s : State) (q : Nat) (e : Nat) (p : Nat) (id : Nat) (desc : Bytes) (c : Conn), s.alive = true ∧ ControlAsks s q e p desc 2 ∧ id = fieldAt desc 4 4 ∧ s.view.connOf id = some c ∧ desc.length = 128 ∧ zeroAt desc 0x40 64 = true ∧ c.part = p ∧ c.state = .active ∧ c.hot = true ∧ fieldAt desc 0xC 2 = (c.epoch + 1) % 65536 :=
  ⟨queued 4 0 0, 5, 0, 1, 3, connDesc 2 3 2, theConn, by decide⟩

theorem witness_ConnectionsAreInstalledRekeyedAndRemoved_3 : ∃ (s : State) (q : Nat) (e : Nat) (p : Nat) (id : Nat) (desc : Bytes) (c : Conn), s.alive = true ∧ ControlAsks s q e p desc 2 ∧ id = fieldAt desc 4 4 ∧ s.view.connOf id = some c ∧ desc.length = 128 ∧ zeroAt desc 0x40 64 = true ∧ c.part = p ∧ c.state = .active ∧ c.hot = false ∧ fieldAt desc 0xC 2 = (c.epoch + 1) % 65536 :=
  ⟨setConn (queued 4 0 0) coldConn, 5, 0, 1, 3, connDesc 2 3 2, coldConn, by decide⟩

theorem witness_ConnectionsAreInstalledRekeyedAndRemoved_4 : ∃ (s : State) (conn : Nat) (c : Conn), s.alive = true ∧ lookupN conn s.node.tp.conns = some c ∧ c.prevKey ≠ none ∧ rd s Reg.FAB_OVERLAP ≤ ticksTo c.rekeyTick s.node.tk.now :=
  ⟨{ setConn connected { theConn with prevKey := some 5 } with node := { (setConn connected { theConn with prevKey := some 5 }).node with tk := { connected.node.tk with now := 4000000 } } }, 3, { theConn with prevKey := some 5 }, by decide⟩

theorem witness_ConnectionsAreInstalledRekeyedAndRemoved_5 : ∃ (s : State) (q : Nat) (e : Nat) (p : Nat) (id : Nat) (desc : Bytes) (c : Conn), s.alive = true ∧ ControlAsks s q e p desc 3 ∧ id = fieldAt desc 4 4 ∧ s.view.connOf id = some c ∧ desc.length = 128 ∧ zeroAt desc 0x40 64 = true ∧ c.part = p ∧ c.state ≠ .removing :=
  ⟨queued 4 0 0, 5, 0, 1, 3, connDesc 3 3 1, theConn, by decide⟩

theorem witness_ConnectionsAreInstalledRekeyedAndRemoved_6 : ∃ (s : State) (conn : Nat) (c : Conn), s.alive = true ∧ lookupN conn s.node.tp.conns = some c ∧ c.state = .removing ∧ (s.view.hasRecord conn = false ∨ 64 ≤ ticksTo c.removeTick s.node.tk.now) :=
  ⟨setConn connected { theConn with state := .removing }, 3, { theConn with state := .removing }, by decide⟩

theorem witness_ConnectionsAreInstalledRekeyedAndRemoved_7 : ∃ (s : State) (conn : Nat) (slot : Nat) (entry : Bytes) (c : Conn), s.alive = true ∧ Canonical s ∧ lookupN conn s.node.tp.conns = some c ∧ c.hot = false ∧ c.fetching = true ∧ s.node.bo.busMaster = true ∧ s.view.freeHotSlot = some slot ∧ s.view.ctxAuthentic conn c entry = true :=
  ⟨fetchingOne, 3, 0, ctxEntry fetchingOne.view.n.tp.ctxKey 3 (List.replicate 12 7) fetchedConn.context, fetchedConn, by decide, by decide, by decide, by decide, by decide, by decide, by decide, Sys2Proof.Laws.ctxAuthentic_ctxEntry _ 3 fetchedConn _ (by decide)⟩

theorem witness_ConnectionsAreInstalledRekeyedAndRemoved_8 : ∃ (s : State) (conn : Nat) (slot : Nat) (entry : Bytes) (c : Conn), s.alive = true ∧ Canonical s ∧ lookupN conn s.node.tp.conns = some c ∧ c.hot = false ∧ c.fetching = true ∧ c.state = .active ∧ s.node.bo.busMaster = true ∧ s.view.freeHotSlot = some slot ∧ s.view.ctxAuthentic conn c entry = false ∧ (∀ m ∈ s.node.tp.outMsgs, m.2.conn ≠ conn) :=
  ⟨fetchingOne, 3, 0, [], fetchedConn, by decide, by decide, by decide, by decide, by decide, by decide, by decide, by decide, Sys2Proof.Laws.ctxAuthentic_nil _ 3 fetchedConn, by decide⟩

theorem witness_ConnectionsAreInstalledRekeyedAndRemoved_9 : ∃ (s : State) (conn : Nat) (entry : Bytes) (c : Conn), s.alive = true ∧ lookupN conn s.node.tp.conns = some c ∧ c.hot = true ∧ c.fetching = true ∧ s.node.bo.busMaster = true :=
  ⟨busOn (setConn connected { theConn with fetching := true }), 3, [], { theConn with fetching := true }, by decide⟩

theorem witness_RegionsFollowTheirRemoteKeys_1 : ∃ (s : State) (q : Nat) (e : Nat) (p : Nat) (bank : Nat) (ki : Nat) (desc : Bytes), s.alive = true ∧ ControlAsks s q e p desc 0x10 ∧ desc.length = 32 ∧ fieldAt desc 1 1 ≤ 7 ∧ zeroAt desc 2 2 = true ∧ zeroAt desc 0x18 8 = true ∧ s.view.spanOk p (fieldAt desc 8 8) (fieldAt desc 0x10 4) = true ∧ (s.view.ksInsert tblRkey (rkeyKey p s.view.freeRegion) (regionKey p s.view.freeRegion)).1 = some (bank, ki) :=
  ⟨reg (allotted (queued 5 0 0)) Reg.KEY_TABLE 4 0 5, 5, 0, 1, 17, 0, regionDesc 0x10 7 0 4096 4096, by decide⟩

theorem witness_RegionsFollowTheirRemoteKeys_2 : ∃ (s : State) (q : Nat) (e : Nat) (p : Nat) (desc : Bytes) (r : Region), s.alive = true ∧ ControlAsks s q e p desc 0x11 ∧ desc.length = 32 ∧ zeroAt desc 2 2 = true ∧ zeroAt desc 0x18 8 = true ∧ lookupN (regionKey p (fieldAt desc 4 4)) s.node.tp.regions = some r ∧ r.gen = fieldAt desc 4 4 / 2 ^ 24 ∧ r.draining = none :=
  ⟨exported (queued 5 0 0), 5, 0, 1, regionDesc 0x11 0 0x2000006 0 0, theRegion, by decide⟩

theorem witness_RegionsFollowTheirRemoteKeys_3 : ∃ (s : State) (q : Nat) (e : Nat) (p : Nat) (desc : Bytes) (r : Region), s.alive = true ∧ ControlAsks s q e p desc 0x12 ∧ desc.length = 32 ∧ zeroAt desc 2 2 = true ∧ zeroAt desc 0x18 8 = true ∧ lookupN (regionKey p (fieldAt desc 4 4)) s.node.tp.regions = some r ∧ r.gen = fieldAt desc 4 4 / 2 ^ 24 ∧ r.draining = none :=
  ⟨exported (queued 5 0 0), 5, 0, 1, regionDesc 0x12 0 0x2000006 0 0, theRegion, by decide⟩

theorem witness_RegionsFollowTheirRemoteKeys_4_a : ∃ (s : State) (part : Nat) (index : Nat) (r : Region) (q : Nat) (e : Nat) (tag : Nat) (destroy : Bool), s.alive = true ∧ lookupN (regionKey part index) s.node.tp.regions = some r ∧ r.draining = some (destroy, .queue q e, tag) :=
  ⟨withTp (exported (queued 5 0 0)) { (exported (queued 5 0 0)).node.tp with regions := [(2 ^ 24 + 6, { theRegion with draining := some (true, .queue 5 0, 5) })] }, 1, 6, { theRegion with draining := some (true, .queue 5 0, 5) }, 5, 0, 5, true, by decide⟩

theorem witness_RegionsFollowTheirRemoteKeys_4_b : ∃ (s : State) (part : Nat) (index : Nat) (r : Region) (q : Nat) (e : Nat) (tag : Nat) (destroy : Bool), s.alive = true ∧ lookupN (regionKey part index) s.node.tp.regions = some r ∧ r.draining = some (destroy, .queue q e, tag) :=
  ⟨withTp (exported (queued 5 0 0)) { (exported (queued 5 0 0)).node.tp with regions := [(2 ^ 24 + 6, { theRegion with draining := some (false, .queue 5 0, 5) })] }, 1, 6, { theRegion with draining := some (false, .queue 5 0, 5) }, 5, 0, 5, false, by decide⟩

theorem witness_PacketsAreCheckedForwardedAndTaken_1 : ∃ (s : State) (port : Nat) (half : Nat) (pkt : Bytes), s.alive = true ∧ Canonical s ∧ rd s Reg.FAB_EN = 1 ∧ headerOk pkt = false :=
  ⟨onHalf (fabOn connected) [1, 2], 2, 0, [1, 2], by decide⟩

theorem witness_PacketsAreCheckedForwardedAndTaken_2 : ∃ (s : State) (port : Nat) (half : Nat) (pkt : Bytes), s.alive = true ∧ Canonical s ∧ rd s Reg.FAB_EN = 1 ∧ headerOk pkt = true ∧ (PktHead.read pkt).dstNode ≠ s.view.nodeId :=
  ⟨fabOn connected, 2, 0, aPkt 1 1 3 9 5 1 0 0 0 0 0 4, by decide⟩

theorem witness_PacketsAreCheckedForwardedAndTaken_3 : ∃ (s : State) (port : Nat) (half : Nat) (pkt : Bytes), s.alive = true ∧ Canonical s ∧ rd s Reg.FAB_EN = 1 ∧ headerOk pkt = true ∧ (PktHead.read pkt).dstNode = s.view.nodeId ∧ s.view.connOf (PktHead.read pkt).dst = none :=
  ⟨fabOn connected, 2, 0, aPkt 1 1 7 9 4 1 0 0 0 0 0 4, by decide⟩

theorem witness_PacketsAreCheckedForwardedAndTaken_4_a : ∃ (s : State) (port : Nat) (half : Nat) (pkt : Bytes) (h : PktHead) (c : Conn), s.alive = true ∧ rd s Reg.FAB_EN = 1 ∧ h = PktHead.read pkt ∧ headerOk pkt = true ∧ h.dstNode = s.view.nodeId ∧ s.view.connOf h.dst = some c ∧ (c.hot = false ∨ c.fetching = true ∨ ¬ ConnFound s h.dst c) ∧ c.heldPkts.length < rd s Reg.CNX_PER_CONN ∧ (s.node.tp.conns.foldl (fun n e => n + e.2.heldPkts.length) 0 < rd s Reg.CNX_TOTAL) :=
  ⟨fabOn (setConn connected { theConn with hot := false }), 2, 0, aPkt 1 1 3 9 4 1 0 0 0 0 0 4, PktHead.read (aPkt 1 1 3 9 4 1 0 0 0 0 0 4), { theConn with hot := false }, by decide⟩

theorem witness_PacketsAreCheckedForwardedAndTaken_4_b : ∃ (s : State) (port : Nat) (half : Nat) (pkt : Bytes) (h : PktHead) (c : Conn), s.alive = true ∧ rd s Reg.FAB_EN = 1 ∧ h = PktHead.read pkt ∧ headerOk pkt = true ∧ h.dstNode = s.view.nodeId ∧ s.view.connOf h.dst = some c ∧ (c.hot = false ∨ c.fetching = true ∨ ¬ ConnFound s h.dst c) ∧ c.heldPkts.length < rd s Reg.CNX_PER_CONN ∧ (s.node.tp.conns.foldl (fun n e => n + e.2.heldPkts.length) 0 < rd s Reg.CNX_TOTAL) :=
  ⟨withKs (fabOn connected) full.node.ks, 2, 0, aPkt 1 1 3 9 4 1 0 0 0 0 0 4, PktHead.read (aPkt 1 1 3 9 4 1 0 0 0 0 0 4), theConn, by decide⟩

theorem witness_PacketsAreCheckedForwardedAndTaken_5 : ∃ (s : State) (port : Nat) (half : Nat) (ext : Nat) (pkt : Bytes) (h : PktHead) (c : Conn) (k : BitVec 256), s.alive = true ∧ Canonical s ∧ rd s Reg.FAB_EN = 1 ∧ PacketFor s pkt h c ∧ h.op = 0xF ∧ keyOf c h.epoch = some k ∧ ext = extend24 c.rxAckSeq h.psn ∧ c.rxAckSeq ≤ ext + 2 ^ 23 ∧ s.view.keysGone c.part = false :=
  ⟨fabOn connected, 2, 0, 9, aPkt 15 0 3 9 4 1 9 0 0 0 0 80, PktHead.read (aPkt 15 0 3 9 4 1 9 0 0 0 0 80), theConn, 0, by decide⟩

theorem witness_PacketsAreCheckedForwardedAndTaken_6 : ∃ (s : State) (port : Nat) (half : Nat) (ext : Nat) (base : Nat) (pkt : Bytes) (h : PktHead) (c : Conn) (key : Option (BitVec 256)), s.alive = true ∧ Canonical s ∧ rd s Reg.FAB_EN = 1 ∧ PacketFor s pkt h c ∧ h.op ≠ 0xF ∧ ext = extend24 c.rxBase h.psn ∧ base = max c.rxBase (extend24 c.rxBase h.low) ∧ base ≤ ext ∧ ext < base + 4096 ∧ ext ∉ c.rxSeen ∧ s.view.keysGone c.part = false ∧ key = keyOf c h.epoch ∧ ((key.bind fun k => openPkt k pkt ext) = none) :=
  ⟨fabOn connected, 2, 0, 9, 0, aPkt 3 1 3 9 4 8 9 0 0 0 1 4, PktHead.read (aPkt 3 1 3 9 4 8 9 0 0 0 1 4), theConn, none, by decide⟩

theorem witness_PacketsAreCheckedForwardedAndTaken_7 : ∃ (s : State) (port : Nat) (half : Nat) (ext : Nat) (base : Nat) (pkt : Bytes) (h : PktHead) (c : Conn) (k : BitVec 256), s.alive = true ∧ Canonical s ∧ rd s Reg.FAB_EN = 1 ∧ rd s Reg.POL_EN = 0 ∧ PacketFor s pkt h c ∧ usesExtent h.op = true ∧ h.op ≠ 0xF ∧ ¬ (h.op = 3 ∧ h.target % 256 ≠ 1) ∧ h.index = 0 ∧ h.last = true ∧ ext = extend24 c.rxBase h.psn ∧ base = max c.rxBase (extend24 c.rxBase h.low) ∧ base ≤ ext ∧ ext < base + 4096 ∧ ext ∉ c.rxSeen ∧ s.view.keysGone c.part = false ∧ s.view.live c.part = true ∧ c.msnIsDone h.msn = false ∧ c.msnAhead h.msn < 4096 ∧ s.view.inMsg h.dst h.msn = none ∧ rd s Reg.MIR_FENCE_MIN 0 c.peerNode ≤ rd s Reg.MIR_PRESENTED 0 c.peerNode ∧ s.view.opsInUse < 16384 ∧ longest h.op ≤ s.view.rxFree ∧ quietMsgs s h.dst h.msn ∧ keyOf c h.epoch = some k :=
  ⟨fabOn connected, 2, 0, 9, 0, aPkt 3 1 3 9 4 1 9 0 6 0 1 4, PktHead.read (aPkt 3 1 3 9 4 1 9 0 6 0 1 4), theConn, 0, by (repeat' apply And.intro) <;> decide⟩

theorem witness_AcknowledgementsEndPacketsAndMessages_1 : ∃ (s : State) (conn : Nat) (bytes : Bytes) (c : Conn), s.alive = true ∧ lookupN conn s.node.tp.conns = some c ∧ c.state ≠ .broken ∧ bytes.length = 80 ∧ beAt bytes 0x48 2 = 0 :=
  ⟨awaiting (aOut .notice), 3, ackBytes 3 [], { theConn with unacked := [aSent 2, aSent 3], txPsn := 4, txMsn := 5 }, by decide⟩

theorem witness_AcknowledgementsEndPacketsAndMessages_2_a : ∃ (s : State) (conn : Nat) (k : Nat) (bytes : Bytes) (c : Conn) (m : OutMsg), s.alive = true ∧ lookupN conn s.node.tp.conns = some c ∧ c.state ≠ .broken ∧ bytes.length = 96 ∧ beAt bytes 0x48 2 = 1 ∧ c.unacked = [] ∧ s.view.outMsg conn (beAt bytes 80 3) = some (k, m) ∧ (m.purpose = .notice ∨ m.purpose = .fencePresent ∨ m.purpose = .partialSend) :=
  ⟨setConn (awaiting (aOut .notice)) theConn, 3, 7, ackBytes 3 [recBytes 4 0], theConn, aOut .notice, by decide⟩

theorem witness_AcknowledgementsEndPacketsAndMessages_2_b : ∃ (s : State) (conn : Nat) (k : Nat) (bytes : Bytes) (c : Conn) (m : OutMsg), s.alive = true ∧ lookupN conn s.node.tp.conns = some c ∧ c.state ≠ .broken ∧ bytes.length = 96 ∧ beAt bytes 0x48 2 = 1 ∧ c.unacked = [] ∧ s.view.outMsg conn (beAt bytes 80 3) = some (k, m) ∧ (m.purpose = .notice ∨ m.purpose = .fencePresent ∨ m.purpose = .partialSend) :=
  ⟨setConn (awaiting (aOut .partialSend)) theConn, 3, 7, ackBytes 3 [recBytes 4 0], theConn, aOut .partialSend, by decide⟩

theorem witness_AcknowledgementsEndPacketsAndMessages_3 : ∃ (s : State) (conn : Nat) (c : Conn), s.alive = true ∧ lookupN conn s.node.tp.conns = some c ∧ c.ackWanted = true :=
  ⟨setConn connected { theConn with ackWanted := true }, 3, { theConn with ackWanted := true }, by decide⟩

theorem witness_AcknowledgementsEndPacketsAndMessages_4_a : ∃ (s : State) (i : Instr) (conn : Nat) (psn : Nat) (k : Nat) (c : Conn) (x : Sent) (m : OutMsg), s.alive = true ∧ lookupN conn s.node.tp.conns = some c ∧ ((i = .reorderExpired conn psn ∧ x.overtaken = true ∧ c.unacked.find? (fun y => y.psn = psn && y.overtaken) = some x) ∨ (i = .rtoExpired conn psn ∧ c.unacked.find? (fun y => y.psn = psn) = some x)) ∧ (x.sends = 0 ∨ x.sends < s.view.sendLimit conn x.psn) ∧ ((s.node.tp.outMsgs.find? fun m => m.2.conn = conn && m.2.resp = x.resp && m.2.msn = x.msn && m.2.started) = some (k, m)) :=
  ⟨awaiting (aOut .notice), .reorderExpired 3 2, 3, 2, 7, { theConn with unacked := [aSent 2, aSent 3], txPsn := 4, txMsn := 5 }, aSent 2, aOut .notice, by decide⟩

theorem witness_AcknowledgementsEndPacketsAndMessages_4_b : ∃ (s : State) (i : Instr) (conn : Nat) (psn : Nat) (k : Nat) (c : Conn) (x : Sent) (m : OutMsg), s.alive = true ∧ lookupN conn s.node.tp.conns = some c ∧ ((i = .reorderExpired conn psn ∧ x.overtaken = true ∧ c.unacked.find? (fun y => y.psn = psn && y.overtaken) = some x) ∨ (i = .rtoExpired conn psn ∧ c.unacked.find? (fun y => y.psn = psn) = some x)) ∧ (x.sends = 0 ∨ x.sends < s.view.sendLimit conn x.psn) ∧ ((s.node.tp.outMsgs.find? fun m => m.2.conn = conn && m.2.resp = x.resp && m.2.msn = x.msn && m.2.started) = some (k, m)) :=
  ⟨awaiting (aOut .notice), .rtoExpired 3 3, 3, 3, 7, { theConn with unacked := [aSent 2, aSent 3], txPsn := 4, txMsn := 5 }, aSent 3, aOut .notice, by decide⟩

theorem witness_AcknowledgementsEndPacketsAndMessages_5 : ∃ (s : State) (conn : Nat) (psn : Nat) (c : Conn) (x : Sent), s.alive = true ∧ Canonical s ∧ lookupN conn s.node.tp.conns = some c ∧ c.state = .active ∧ (c.unacked.find? (fun y => y.psn = psn) = some x) ∧ x.sends ≠ 0 ∧ s.view.sendLimit conn x.psn ≤ x.sends ∧ (∀ m ∈ s.node.tp.outMsgs, m.2.conn = conn → m.2.purpose = .notice) :=
  ⟨setConn (awaiting (aOut .notice)) { theConn with unacked := [{ aSent 2 with sends := 99 }] }, 3, 2, { theConn with unacked := [{ aSent 2 with sends := 99 }] }, { aSent 2 with sends := 99 }, by decide⟩

theorem witness_AcknowledgementsEndPacketsAndMessages_6 : ∃ (s : State) (conn : Nat) (msn : Nat) (k : Nat) (m : OutMsg), s.alive = true ∧ s.view.outMsg conn msn = some (k, m) ∧ m.acked.length = m.packets ∧ m.resend = [] :=
  ⟨awaiting (aOut .notice), 3, 4, 7, aOut .notice, by decide⟩

theorem witness_AcknowledgementsEndPacketsAndMessages_7 : ∃ (s : State) (pkt : MsgPart) (k : Nat) (q : Nat) (e : Nat) (c : Conn) (m : OutMsg), s.alive = true ∧ s.view.connOf pkt.conn = some c ∧ c.state ≠ .broken ∧ s.view.outMsg pkt.conn pkt.msn = some (k, m) ∧ lookupN k s.node.tp.outMsgs = some m ∧ (m.op = 2 ∨ m.op = 0xA) ∧ m.got = [] ∧ pkt.index = 0 ∧ pkt.last = true ∧ m.purpose = .hostMsg q e :=
  ⟨withTp (queued 6 0 0) { (queued 6 0 0).node.tp with outMsgs := [(7, { aOut (.hostMsg 5 0) with op := 10 })] }, aPart 4 true 0 (List.replicate 32 1), 7, 5, 0, theConn, { aOut (.hostMsg 5 0) with op := 10 }, by decide⟩

theorem witness_AcknowledgementsEndPacketsAndMessages_8 : ∃ (s : State) (pkt : MsgPart) (k : Nat) (q : Nat) (e : Nat) (c : Conn) (m : OutMsg) (h : HEntry), s.alive = true ∧ Canonical s ∧ s.view.connOf pkt.conn = some c ∧ c.state ≠ .broken ∧ s.view.outMsg pkt.conn pkt.msn = some (k, m) ∧ lookupN k s.node.tp.outMsgs = some m ∧ (m.op = 2 ∨ m.op = 0xA) ∧ lookupN pkt.index m.got = none ∧ m.gotCount = none ∧ pkt.last = false ∧ m.purpose = .hostMsg q e ∧ (s.view.queueOf q).entryOf e = some h ∧ h.suppressed = false ∧ bitOf h.sflags 3 = true :=
  ⟨withTp (queued 6 8 0) { (queued 6 8 0).node.tp with outMsgs := [(7, { aOut (.hostMsg 5 0) with op := 10 })] }, aPart 4 false 0 [1, 2], 7, 5, 0, theConn, { aOut (.hostMsg 5 0) with op := 10 }, hent 6 8 0, by decide⟩

theorem witness_AcknowledgementsEndPacketsAndMessages_9 : ∃ (s : State) (pkt : MsgPart) (c : Conn), s.alive = true ∧ Canonical s ∧ s.view.connOf pkt.conn = some c ∧ c.state ≠ .broken ∧ s.view.outMsg pkt.conn pkt.msn = none :=
  ⟨connected, aPart 4 true 0 [], theConn, by decide⟩

theorem witness_RemoteAccessActsOnItsRegion_1_a : ∃ (s : State) (pkt : MsgPart) (c : Conn) (m : InMsg) (g : Region) (a0 : Nat), s.alive = true ∧ Canonical s ∧ AccessRuns s 1 pkt c m ∧ s.view.live c.part = true ∧ s.view.isDark = false ∧ (s.view.accessCheck c 1 pkt.target (pkt.index * pktMax) pkt.payload.length).1 = .ok g ∧ a0 = g.base + pkt.target % 2 ^ 32 + pkt.index * pktMax :=
  ⟨accessed, aPart 6 true 256 [7, 8, 9], theConn, { InMsg.fresh 3 6 1 (6 * 2 ^ 40 + 2 * 2 ^ 32 + 256) with target := 6 * 2 ^ 40 + 2 * 2 ^ 32 + 256 }, theRegion, 4352, by decide⟩

theorem witness_RemoteAccessActsOnItsRegion_1_b : ∃ (s : State) (pkt : MsgPart) (c : Conn) (m : InMsg) (g : Region) (a0 : Nat), s.alive = true ∧ Canonical s ∧ AccessRuns s 1 pkt c m ∧ s.view.live c.part = true ∧ s.view.isDark = false ∧ (s.view.accessCheck c 1 pkt.target (pkt.index * pktMax) pkt.payload.length).1 = .ok g ∧ a0 = g.base + pkt.target % 2 ^ 32 + pkt.index * pktMax :=
  ⟨accessed, aPart 6 false 256 [7, 8, 9], theConn, { InMsg.fresh 3 6 1 (6 * 2 ^ 40 + 2 * 2 ^ 32 + 256) with target := 6 * 2 ^ 40 + 2 * 2 ^ 32 + 256 }, theRegion, 4352, by decide⟩

theorem witness_RemoteAccessActsOnItsRegion_2 : ∃ (s : State) (pkt : MsgPart) (c : Conn) (m : InMsg) (g : Region), s.alive = true ∧ AccessRuns s 2 pkt c m ∧ s.view.live c.part = true ∧ s.view.isDark = false ∧ pkt.payload.length = 8 ∧ zeroAt pkt.payload 4 4 = true ∧ 0 < fieldAt pkt.payload 0 4 ∧ fieldAt pkt.payload 0 4 ≤ 2129920 ∧ (s.view.accessCheck c 2 pkt.target 0 (fieldAt pkt.payload 0 4)).1 = .ok g :=
  ⟨accessed, aPart 6 true 256 (leBytes 4 9 ++ leBytes 4 0), theConn, { InMsg.fresh 3 6 2 (6 * 2 ^ 40 + 2 * 2 ^ 32 + 256) with target := 6 * 2 ^ 40 + 2 * 2 ^ 32 + 256 }, theRegion, by decide⟩

theorem witness_RemoteAccessActsOnItsRegion_3_a : ∃ (s : State) (pkt : MsgPart) (c : Conn) (m : InMsg) (g : Region) (a0 : Nat), s.alive = true ∧ Canonical s ∧ AccessRuns s 0xA pkt c m ∧ s.view.live c.part = true ∧ pkt.payload.length = 64 ∧ (s.view.accessCheck c 0xA pkt.target 0 32).1 = .ok g ∧ a0 = g.base + pkt.target % 2 ^ 32 ∧ outsideRing a0 ∧ outsideRing (a0 + 31) :=
  ⟨accessed, aPart 6 true 256 (List.replicate 32 0 ++ List.replicate 32 7), theConn, { InMsg.fresh 3 6 10 (6 * 2 ^ 40 + 2 * 2 ^ 32 + 256) with target := 6 * 2 ^ 40 + 2 * 2 ^ 32 + 256 }, theRegion, 4352, by decide⟩

theorem witness_RemoteAccessActsOnItsRegion_3_b : ∃ (s : State) (pkt : MsgPart) (c : Conn) (m : InMsg) (g : Region) (a0 : Nat), s.alive = true ∧ Canonical s ∧ AccessRuns s 0xA pkt c m ∧ s.view.live c.part = true ∧ pkt.payload.length = 64 ∧ (s.view.accessCheck c 0xA pkt.target 0 32).1 = .ok g ∧ a0 = g.base + pkt.target % 2 ^ 32 ∧ outsideRing a0 ∧ outsideRing (a0 + 31) :=
  ⟨accessed, aPart 6 true 256 (List.replicate 32 1 ++ List.replicate 32 7), theConn, { InMsg.fresh 3 6 10 (6 * 2 ^ 40 + 2 * 2 ^ 32 + 256) with target := 6 * 2 ^ 40 + 2 * 2 ^ 32 + 256 }, theRegion, 4352, by decide⟩

theorem witness_RemoteAccessActsOnItsRegion_4_a : ∃ (s : State) (pkt : MsgPart) (c : Conn) (m : InMsg) (st : Nat), s.alive = true ∧ Canonical s ∧ AccessRuns s 1 pkt c m ∧ s.view.live c.part = true ∧ s.view.isDark = false ∧ (s.view.accessCheck c 1 pkt.target (pkt.index * pktMax) pkt.payload.length).1 = .error st :=
  ⟨accessed, { aPart 6 true 256 [7] with target := 6 * 2 ^ 40 + 3 * 2 ^ 32 }, theConn, { InMsg.fresh 3 6 1 0 with target := 6 * 2 ^ 40 + 3 * 2 ^ 32 }, stViolGen, by decide⟩

theorem witness_RemoteAccessActsOnItsRegion_4_b : ∃ (s : State) (pkt : MsgPart) (c : Conn) (m : InMsg) (st : Nat), s.alive = true ∧ Canonical s ∧ AccessRuns s 1 pkt c m ∧ s.view.live c.part = true ∧ s.view.isDark = false ∧ (s.view.accessCheck c 1 pkt.target (pkt.index * pktMax) pkt.payload.length).1 = .error st :=
  ⟨accessed, aPart 6 true 4095 [7, 8], theConn, { InMsg.fresh 3 6 1 0 with target := 6 * 2 ^ 40 + 2 * 2 ^ 32 + 4095 }, stViolKey, by decide⟩

theorem witness_MessagesActAtTheirReceiver_1 : ∃ (s : State) (conn : Nat) (msn : Nat) (q : Nat) (bytes : Bytes) (c : Conn) (h : HEntry) (rest : List HEntry), s.alive = true ∧ MsgRuns s conn msn c ∧ s.view.isDark = false ∧ s.view.queuePart q = some c.part ∧ (s.view.queueOf q).recvs = h :: rest ∧ bytes.length ≤ h.resLen ∧ quietMsgs s conn msn :=
  ⟨posted, 3, 6, 5, [1, 2, 3], theConn, { hent 8 8 0 with idx := 4 }, [], by decide⟩

theorem witness_MessagesActAtTheirReceiver_2_a : ∃ (s : State) (conn : Nat) (msn : Nat) (c : Conn), s.alive = true ∧ MsgRuns s conn msn c ∧ (∀ m ∈ s.node.tp.inMsgs, m.conn = conn → m.msn = msn) ∧ quietMsgs s conn msn :=
  ⟨connected, 3, 5, theConn, by decide⟩

theorem witness_MessagesActAtTheirReceiver_2_b : ∃ (s : State) (conn : Nat) (msn : Nat) (c : Conn), s.alive = true ∧ MsgRuns s conn msn c ∧ (∀ m ∈ s.node.tp.inMsgs, m.conn = conn → m.msn = msn) ∧ quietMsgs s conn msn :=
  ⟨connected, 3, 6, theConn, by decide⟩

theorem witness_MessagesActAtTheirReceiver_3 : ∃ (s : State) (conn : Nat) (msn : Nat) (bytes : Bytes) (c : Conn), s.alive = true ∧ Canonical s ∧ MsgHere s conn msn c ∧ bytes.length = 16 ∧ fieldAt bytes 0 1 = 1 ∧ beAt bytes 2 2 = c.peerNode ∧ zeroAt bytes 1 1 = true ∧ zeroAt bytes 8 8 = true ∧ quietMsgs s conn msn :=
  ⟨connected, 3, 6, [1, 0, 0, 9, 0, 0, 0, 5, 0, 0, 0, 0, 0, 0, 0, 0], theConn, by decide⟩

theorem witness_MessagesActAtTheirReceiver_4 : ∃ (s : State) (conn : Nat) (msn : Nat) (bytes : Bytes) (c : Conn), s.alive = true ∧ Canonical s ∧ MsgRuns s conn msn c ∧ s.view.isDark = false ∧ bytes.length = 4 + 16 * beAt bytes 0 4 ∧ rd s Reg.QUE_EN 0 c.part = 0 ∧ quietMsgs s conn msn :=
  ⟨connected, 3, 6, [0, 0, 0, 1] ++ List.replicate 16 0, theConn, by decide⟩

theorem witness_MessagesActAtTheirReceiver_5 : ∃ (s : State) (conn : Nat) (msn : Nat) (q : Nat) (bytes : Bytes) (c : Conn), s.alive = true ∧ MsgRuns s conn msn c ∧ s.view.isDark = false ∧ bytes.length = 20 ∧ beAt bytes 0 4 = 1 ∧ rd s Reg.QUE_EN 0 c.part = 1 ∧ q = rd s Reg.QUE_QUEUE_10C 0 c.part ∧ (s.view.queueOf q).state = .enabled ∧ (s.view.queueOf q).reserved < 2 ^ rd s Reg.QCFG_CQ_LOG2 q ∧ quietMsgs s conn msn :=
  ⟨notified, 3, 6, 5, [0, 0, 0, 1] ++ List.replicate 16 0, theConn, by decide⟩

theorem witness_MessagesActAtTheirReceiver_6 : ∃ (s : State) (conn : Nat) (msn : Nat) (bytes : Bytes) (m : Bytes) (c : Conn), s.alive = true ∧ Canonical s ∧ MsgRuns s conn msn c ∧ c.part = 0 ∧ m = swapFields noticeFields (bytes.take 64) ∧ bytes.length = 64 ∧ fieldAt m 0xC 4 = 0 ∧ fieldAt m 0 1 = 1 ∧ fieldAt m 1 1 = 1 ∧ quietMsgs s conn msn :=
  ⟨withMi served { served.node.mi with inStreams := [anInStream] }, 2, 6, strikeBody 2 [], swapFields noticeFields (strikeBody 2 []), theConn0, by decide⟩

theorem witness_MessagesActAtTheirReceiver_7 : ∃ (s : State) (conn : Nat) (msn : Nat) (id : Nat) (bytes : Bytes) (m : Bytes) (c : Conn) (x : Conn), s.alive = true ∧ MsgRuns s conn msn c ∧ c.part = 0 ∧ m = swapFields noticeFields (bytes.take 64) ∧ bytes.length = 80 ∧ fieldAt m 0xC 4 = 1 ∧ fieldAt m 0 1 = 1 ∧ fieldAt m 1 1 = 1 ∧ beAt bytes 72 1 = 1 ∧ id = beAt bytes 64 8 % 2 ^ 20 ∧ id ≠ conn ∧ s.view.connOf id = some x ∧ x.peerNode = fieldAt m 2 2 ∧ x.state = .active ∧ (∀ o ∈ s.node.tp.outMsgs, o.2.conn ≠ id) ∧ quietMsgs s conn msn :=
  ⟨served, 2, 6, 3, strikeBody 1 [[0, 0, 0, 0, 0, 0, 0, 3, 1] ++ List.replicate 7 0], swapFields noticeFields ((strikeBody 1 [[0, 0, 0, 0, 0, 0, 0, 3, 1] ++ List.replicate 7 0]).take 64), theConn0, theConn, by decide⟩

theorem witness_MessagesActAtTheirReceiver_8 : ∃ (s : State) (conn : Nat) (msn : Nat) (bytes : Bytes) (head : Bytes) (body : Bytes) (c : Conn), s.alive = true ∧ bytes = head ++ body ∧ MsgRuns s conn msn c ∧ s.view.isDark = false ∧ c.part = 0 ∧ s.view.mirSource c.peerNode = true ∧ rd s Reg.MIR_EN = 1 ∧ s.node.mi.inStreams = [] ∧ s.node.mi.metaIn = [] ∧ s.node.mi.replies = [] ∧ (s.view.inMsg conn msn).any (·.cmpr) = true ∧ quietMsgs s conn msn :=
  ⟨mirroredData, 2, 6, zeroBlock, [], zeroBlock, theConn0, by decide⟩

theorem witness_MessagesActAtTheirReceiver_9 : ∃ (s : State) (conn : Nat) (msn : Nat) (bytes : Bytes) (head : Bytes) (body : Bytes) (c : Conn) (h : BatchHead), s.alive = true ∧ bytes = head ++ body ∧ MsgRuns s conn msn c ∧ s.view.isDark = false ∧ c.part = 0 ∧ s.view.mirSource c.peerNode = true ∧ rd s Reg.MIR_EN = 1 ∧ BatchHead.read bytes = some h ∧ h.flags = 0 ∧ h.seq = 0 ∧ h.msgs = 0 ∧ h.src = c.peerNode ∧ (∀ r ∈ cutRecs true (bytes.length / 16) (bytes.drop 64), fieldAt r 0 1 ≠ 7) ∧ s.view.live h.part = true ∧ (∀ x ∈ s.view.inStream c.peerNode h.part, x.stopped = false ∧ x.gen < h.gen) ∧ s.node.mi.metaIn = [] ∧ s.node.mi.replies = [] ∧ (∀ x ∈ s.node.mi.inStreams, x.pendingMeta = []) ∧ (s.view.inMsg conn msn).any (·.cmpr) = false ∧ quietMsgs s conn msn :=
  ⟨standby, 2, 6, aBatch, aBatch, [], theConn0, { part := 1, flags := 0, src := 9, msgs := 0, tick := 0, gen := 4, seq := 0, firstMsn := 0, bytes := 0, records := 0, metaLen := 0, rows := 0 }, by decide⟩

theorem witness_TheSchedulerFormsTheNextPacket_1 : ∃ (s : State) (d : Cand) (c : Conn) (k : Nat) (m : OutMsg) (w : Work), s.alive = true ∧ Canonical s ∧ rd s Reg.FAB_EN = 1 ∧ nextPacket s = some d ∧ w = s.view.placeWaiting ∧ w.connOf d.conn = some c ∧ d.msg = some k ∧ lookupN k w.n.tp.outMsgs = some m ∧ c.txPsn < 2 ^ 47 ∧ w.route c.peerNode ≠ 0 :=
  ⟨sendable, { conn := 3, msg := some 7, again := none, sub := 0, misfiled := false, svc := 6, len := 50 }, theConn, 7, { aOut .notice with acked := [], next := 0, started := false, msn := 0 }, sendable.view.placeWaiting, by decide, by decide, by decide, by decide, rfl, by decide⟩

theorem witness_TheSchedulerFormsTheNextPacket_2 : ∃ (s : State) (d : Cand) (c : Conn) (w : Work), s.alive = true ∧ Canonical s ∧ rd s Reg.FAB_EN = 1 ∧ nextPacket s = some d ∧ w = s.view.placeWaiting ∧ w.connOf d.conn = some c ∧ d.msg = none :=
  ⟨schedulable { theConn with ackDue := true }, { conn := 3, msg := none, again := none, sub := 0, misfiled := false, svc := 3, len := 128 }, { theConn with ackDue := true }, (schedulable { theConn with ackDue := true }).view.placeWaiting, by decide, by decide, by decide, by decide, rfl, by decide⟩

theorem witness_TheSchedulerFormsTheNextPacket_3 : ∃ (s : State) (d : Cand) (c : Conn) (k : Nat) (m : OutMsg) (w : Work), s.alive = true ∧ Canonical s ∧ rd s Reg.FAB_EN = 1 ∧ nextPacket s = some d ∧ w = s.view.placeWaiting ∧ w.connOf d.conn = some c ∧ d.msg = some k ∧ lookupN k w.n.tp.outMsgs = some m ∧ c.txPsn < 2 ^ 47 ∧ w.route c.peerNode = 0 ∧ (m.resp = true ∨ ∃ q e, m.purpose = .hostMsg q e) :=
  ⟨unroutable, { conn := 3, msg := some 7, again := none, sub := 0, misfiled := false, svc := 6, len := 50 }, theConn, 7, { aOut (.hostMsg 5 0) with acked := [], next := 0, started := false, msn := 0 }, unroutable.view.placeWaiting, by decide, by decide, by decide, by decide, rfl, by decide, by decide, by decide, by decide, by decide, .inr ⟨5, 0, rfl⟩⟩

theorem witness_TheSchedulerFormsTheNextPacket_4 : ∃ (s : State) (wr : RegWr) (off : Nat) (inst : Nat) (code : Nat), s.alive = true ∧ Canonical s ∧ Lands s wr .SCH off inst code ∧ wr.be ≠ 0 ∧ (off = 0x11C ∨ off = 0x120 ∨ (off = 0x118 ∧ rd s Reg.SCH_SHAPE_EN 0 (s.view.sel wr.fn .SCH 0x118) = 0 ∧ (s.view.busWrite wr).w.get Reg.SCH_SHAPE_EN 0 code ≠ 0)) :=
  ⟨full, pf 0x7211C 8, 0x11C, 0, 0, by decide⟩

theorem witness_TheSchedulerFormsTheNextPacket_5 : ∃ (s : State) (wr : RegWr) (off : Nat) (inst : Nat) (i : Nat), s.alive = true ∧ Canonical s ∧ Lands s wr .POL off inst i ∧ wr.be ≠ 0 ∧ (off = 0x108 ∨ off = 0x10C ∨ off = 0x110 ∨ off = 0x114) :=
  ⟨full, pf 0x7310C 100, 0x10C, 0, 0, by decide⟩

theorem witness_QueuesObeyTheirMailboxAndDoorbells_1 : ∃ (s : State) (wr : RegWr) (inst : Nat) (idx : Nat) (q : Nat) (seq : Nat) (fn : Nat), s.alive = true ∧ Canonical s ∧ Lands s wr .QUE 0x104 inst idx ∧ fn = fnNum wr.fn ∧ s.view.merged wr 0 fn Reg.QUE_OP = 1 ∧ q = (s.view.busWrite wr).w.merged wr inst idx Reg.QUE_QUEUE_104 ∧ seq = (s.view.busWrite wr).w.merged wr inst idx Reg.QUE_SEQ_104 ∧ rd s Reg.QUE_READY 0 fn ≠ 0 ∧ s.view.queuePart q = some fn ∧ (s.view.queueOf q).state = .disabled ∧ s.view.live fn = true ∧ rd s Reg.QCFG_SQ_LOG2 q ≤ rd s Reg.QCFG_CQ_LOG2 q :=
  ⟨mailed { emptyQueue .disabled with lastHandle := 9 }, mail 1 5 3, 0, 0, 5, 3, 0, by decide⟩

theorem witness_QueuesObeyTheirMailboxAndDoorbells_2 : ∃ (s : State) (wr : RegWr) (inst : Nat) (idx : Nat) (q : Nat) (seq : Nat) (fn : Nat), s.alive = true ∧ Canonical s ∧ Lands s wr .QUE 0x104 inst idx ∧ fn = fnNum wr.fn ∧ s.view.merged wr 0 fn Reg.QUE_OP = 2 ∧ q = (s.view.busWrite wr).w.merged wr inst idx Reg.QUE_QUEUE_104 ∧ seq = (s.view.busWrite wr).w.merged wr inst idx Reg.QUE_SEQ_104 ∧ rd s Reg.QUE_READY 0 fn ≠ 0 ∧ s.view.queuePart q = some fn ∧ (s.view.queueOf q).state = .enabled :=
  ⟨mailed (theQueue (hent 9 0 0)), mail 2 5 3, 0, 0, 5, 3, 0, by decide⟩

theorem witness_QueuesObeyTheirMailboxAndDoorbells_3_a : ∃ (s : State) (wr : RegWr) (inst : Nat) (idx : Nat) (q : Nat) (seq : Nat) (fn : Nat), s.alive = true ∧ Canonical s ∧ Lands s wr .QUE 0x104 inst idx ∧ fn = fnNum wr.fn ∧ s.view.merged wr 0 fn Reg.QUE_OP = 3 ∧ q = (s.view.busWrite wr).w.merged wr inst idx Reg.QUE_QUEUE_104 ∧ seq = (s.view.busWrite wr).w.merged wr inst idx Reg.QUE_SEQ_104 ∧ rd s Reg.QUE_READY 0 fn ≠ 0 ∧ s.view.queuePart q = some fn :=
  ⟨mailed (theQueue (hent 9 0 0)), mail 3 5 3, 0, 0, 5, 3, 0, by decide⟩

theorem witness_QueuesObeyTheirMailboxAndDoorbells_3_b : ∃ (s : State) (wr : RegWr) (inst : Nat) (idx : Nat) (q : Nat) (seq : Nat) (fn : Nat), s.alive = true ∧ Canonical s ∧ Lands s wr .QUE 0x104 inst idx ∧ fn = fnNum wr.fn ∧ s.view.merged wr 0 fn Reg.QUE_OP = 3 ∧ q = (s.view.busWrite wr).w.merged wr inst idx Reg.QUE_QUEUE_104 ∧ seq = (s.view.busWrite wr).w.merged wr inst idx Reg.QUE_SEQ_104 ∧ rd s Reg.QUE_READY 0 fn ≠ 0 ∧ s.view.queuePart q = some fn :=
  ⟨mailed (emptyQueue .disabled), mail 3 5 3, 0, 0, 5, 3, 0, by decide⟩

theorem witness_QueuesObeyTheirMailboxAndDoorbells_4 : ∃ (s : State) (q : Nat) (op : Nat) (seq : Nat) (p : Nat), s.alive = true ∧ Canonical s ∧ (s.view.queueOf q).state = .draining ∧ (s.view.queueOf q).entries = [] ∧ (s.view.queueOf q).recvs = [] ∧ (s.view.queueOf q).ending = some (op, seq) ∧ s.view.queuePart q = some p :=
  ⟨mailed { emptyQueue .draining with ending := some (2, 3) }, 5, 2, 3, 0, by decide⟩

theorem witness_QueuesObeyTheirMailboxAndDoorbells_5 : ∃ (s : State) (fn : Fn) (q : Nat) (value : Nat) (size : Nat), s.alive = true ∧ s.view.fnExists fn = true ∧ q < 4096 ∧ s.view.queuePart q = some (fnNum fn) ∧ size = 2 ^ rd s Reg.QCFG_SQ_LOG2 q ∧ value < size ∧ value ≠ (s.view.queueOf q).tail ∧ ((s.view.queueOf q).tail + size - (s.view.queueOf q).fetch) % size ≤ (value + size - (s.view.queueOf q).fetch) % size :=
  ⟨mailed (emptyQueue .enabled), .pf, 5, 3, 16, by decide⟩

theorem witness_QueuesObeyTheirMailboxAndDoorbells_6 : ∃ (s : State) (fn : Fn) (q : Nat) (value : Nat) (size : Nat), s.alive = true ∧ s.view.fnExists fn = true ∧ q < 4096 ∧ s.view.queuePart q = some (fnNum fn) ∧ size = 2 ^ rd s Reg.QCFG_CQ_LOG2 q ∧ value < size ∧ value ≠ (s.view.queueOf q).cqHead ∧ (value + size - (s.view.queueOf q).cqHead) % size ≤ (s.view.queueOf q).unconsumed :=
  ⟨mailed { emptyQueue .enabled with unconsumed := 4 }, .pf, 5, 3, 16, by decide⟩

theorem witness_QueuesObeyTheirMailboxAndDoorbells_7 : ∃ (s : State) (fn : Fn) (q : Nat) (value : Nat), s.alive = true ∧ Canonical s ∧ s.view.fnExists fn = true ∧ q < 4096 ∧ s.view.queuePart q ≠ some (fnNum fn) :=
  ⟨mailed (emptyQueue .enabled), .pf, 900, 3, by decide⟩

theorem witness_QueuesObeyTheirMailboxAndDoorbells_8 : ∃ (s : State) (q : Nat), s.alive = true ∧ rd s Reg.QCFG_IRQ_EN q ≠ 0 ∧ rd s Reg.QCFG_COAL_NS q ≠ 0 ∧ (s.view.queueOf q).unsignalled ≠ 0 :=
  ⟨reg (reg (mailed { emptyQueue .enabled with unsignalled := 4 }) Reg.QCFG_IRQ_EN 1 5) Reg.QCFG_COAL_NS 100 5, 5, by decide⟩

theorem witness_HostEntriesAreFetchedAndAct_1 : ∃ (s : State) (q : Nat) (p : Nat) (b : Bytes), s.alive = true ∧ Canonical s ∧ s.view.queuePart q = some p ∧ (s.view.queueOf q).state = .enabled ∧ (s.view.queueOf q).fetch ≠ (s.view.queueOf q).tail ∧ s.node.bo.busMaster = true ∧ s.view.startedEntries < rd s Reg.QUE_MAX_STARTED ∧ b.length = 64 ∧ s.view.entryFault p b (HEntry.read b 0 0 0 0) = 0 :=
  ⟨fetching, 5, 1, nopEntry, by decide⟩

theorem witness_HostEntriesAreFetchedAndAct_2 : ∃ (s : State) (q : Nat) (p : Nat), s.alive = true ∧ Canonical s ∧ s.view.queuePart q = some p ∧ (s.view.queueOf q).state = .enabled ∧ (s.view.queueOf q).fetch ≠ (s.view.queueOf q).tail ∧ s.node.bo.busMaster = true ∧ s.view.startedEntries < rd s Reg.QUE_MAX_STARTED :=
  ⟨fetching, 5, 1, by decide⟩

theorem witness_HostEntriesAreFetchedAndAct_3 : ∃ (s : State) (q : Nat) (e : Nat) (h : HEntry), s.alive = true ∧ Canonical s ∧ (s.view.queueOf q).entryOf e = some h ∧ h.started = false ∧ h.waitTicks ≠ 0 ∧ h.waitTicks < ticksTo h.fetchTick s.node.tk.now ∧ (s.view.queueOf q).reserved < 2 ^ rd s Reg.QCFG_CQ_LOG2 q :=
  ⟨waitingEntry, 5, 0, { hent 9 0 0 with started := false, waitEn := true, waitTicks := 3 }, by decide⟩

theorem witness_HostEntriesAreFetchedAndAct_4 : ∃ (s : State) (i : Instr) (c : Instr) (q : Nat) (e : Nat) (p : Nat) (at_ : Nat) (payload : Option Bytes) (h : HEntry) (b : Bytes), s.alive = true ∧ EntryRuns s q e h.opcode p h ∧ (bitOf h.sflags 2 = true ∨ h.payLen = 0) ∧ b = h.subst (s.view.bytes h.payAddr h.payLen) ∧ ((h.opcode = 1 ∧ i = .hostSession q e payload) ∨ (h.opcode = 2 ∧ i = .hostAttend q e payload at_ ∧ ResultFits s p h b) ∨ (h.opcode = 3 ∧ i = .hostAppend q e payload at_) ∨ (h.opcode = 4 ∧ i = .hostConn q e payload) ∨ (h.opcode = 5 ∧ i = .hostRegion q e payload)) ∧ hostCommand h q e b at_ = some c :=
  ⟨hostMem (queued 1 4 64) 0x1000 [3], .hostSession 5 0 none, .closeSession (.queue 5 0) ((hent 1 4 64).subst ((hostMem (queued 1 4 64) 0x1000 [3]).view.bytes 0x1000 64)), 5, 0, 1, 0, none, hent 1 4 64, (hent 1 4 64).subst ((hostMem (queued 1 4 64) 0x1000 [3]).view.bytes 0x1000 64), by decide⟩

theorem witness_HostEntriesAreFetchedAndAct_5 : ∃ (s : State) (q : Nat) (e : Nat) (p : Nat) (at_ : Nat) (payload : Option Bytes) (h : HEntry) (b : Bytes), s.alive = true ∧ EntryRuns s q e 2 p h ∧ PayloadIs s h payload b ∧ ResultFits s p h b :=
  ⟨queued 2 4 64, 5, 0, 1, 0, none, hent 2 4 64, (hent 2 4 64).subst ((queued 2 4 64).view.bytes 0x1000 64), by decide⟩

theorem witness_HostEntriesAreFetchedAndAct_6 : ∃ (s : State) (q : Nat) (e : Nat) (p : Nat) (at_ : Nat) (payload : Option Bytes) (h : HEntry) (b : Bytes), s.alive = true ∧ EntryRuns s q e 3 p h ∧ PayloadIs s h payload b :=
  ⟨busOn (queued 3 0 2), 5, 0, 1, 0, some [1, 2], hent 3 0 2, [1, 2], by decide⟩

theorem witness_HostEntriesAreFetchedAndAct_7_a : ∃ (s : State) (q : Nat) (e : Nat) (p : Nat) (payload : Option Bytes) (h : HEntry) (b : Bytes), s.alive = true ∧ EntryRuns s q e 1 p h ∧ PayloadIs s h payload b :=
  ⟨busOn (queued 1 0 2), 5, 0, 1, some [1, 2], hent 1 0 2, [1, 2], by decide⟩

theorem witness_HostEntriesAreFetchedAndAct_7_b : ∃ (s : State) (q : Nat) (e : Nat) (p : Nat) (payload : Option Bytes) (h : HEntry) (b : Bytes), s.alive = true ∧ EntryRuns s q e 1 p h ∧ PayloadIs s h payload b :=
  ⟨busOn (queued 1 0 2), 5, 0, 1, some [19, 2], hent 1 0 2, [19, 2], by decide⟩

theorem witness_HostEntriesAreFetchedAndAct_8_a : ∃ (s : State) (q : Nat) (e : Nat) (p : Nat) (payload : Option Bytes) (h : HEntry) (b : Bytes), s.alive = true ∧ EntryRuns s q e 4 p h ∧ PayloadIs s h payload b :=
  ⟨busOn (queued 4 0 2), 5, 0, 1, some [7, 2], hent 4 0 2, [7, 2], by decide⟩

theorem witness_HostEntriesAreFetchedAndAct_8_b : ∃ (s : State) (q : Nat) (e : Nat) (p : Nat) (payload : Option Bytes) (h : HEntry) (b : Bytes), s.alive = true ∧ EntryRuns s q e 4 p h ∧ PayloadIs s h payload b :=
  ⟨busOn (queued 4 0 128), 5, 0, 1, some (connDesc 3 3 1), hent 4 0 128, connDesc 3 3 1, by decide⟩

theorem witness_HostEntriesAreFetchedAndAct_9 : ∃ (s : State) (q : Nat) (e : Nat) (p : Nat) (payload : Option Bytes) (h : HEntry) (b : Bytes), s.alive = true ∧ EntryRuns s q e 5 p h ∧ PayloadIs s h payload b :=
  ⟨busOn (exported (queued 5 0 32)), 5, 0, 1, some (regionDesc 0x11 0 0x2000006 0 0), hent 5 0 32, regionDesc 0x11 0 0x2000006 0 0, by decide⟩

theorem witness_HostEntriesAreFetchedAndAct_10 : ∃ (s : State) (q : Nat) (e : Nat) (p : Nat) (payload : Option Bytes) (h : HEntry) (b : Bytes) (c : Conn), s.alive = true ∧ EntryRuns s q e 6 p h ∧ PayloadIs s h payload b ∧ s.view.connOf h.conn = some c ∧ c.part = p ∧ c.state = .active ∧ s.view.route c.peerNode ≠ 0 ∧ (h.msgOp = 2 → fieldAt b 0 4 ≤ h.resLen) ∧ (bitOf h.sflags 2 = false → b.length ≤ s.view.rxFree) :=
  ⟨reg (busOn (queued 6 0 2)) Reg.FAB_PORTS 4 0 9, 5, 0, 1, some [1, 2], hent 6 0 2, [1, 2], theConn, by decide⟩

theorem witness_HostEntriesAreFetchedAndAct_11_a : ∃ (s : State) (q : Nat) (e : Nat) (p : Nat) (payload : Option Bytes) (h : HEntry) (b : Bytes), s.alive = true ∧ Canonical s ∧ EntryRuns s q e 7 p h ∧ PayloadIs s h payload b ∧ h.suppressed = false ∧ ((payloadRead s p h).chargePool b.length).isSome = true :=
  ⟨reg (busOn (queued 7 8 2)) Reg.QAD_SESSION_PCT 50, 5, 0, 1, some [1, 2], hent 7 8 2, [1, 2], by decide⟩

theorem witness_HostEntriesAreFetchedAndAct_11_b : ∃ (s : State) (q : Nat) (e : Nat) (p : Nat) (payload : Option Bytes) (h : HEntry) (b : Bytes), s.alive = true ∧ Canonical s ∧ EntryRuns s q e 7 p h ∧ PayloadIs s h payload b ∧ h.suppressed = false ∧ ((payloadRead s p h).chargePool b.length).isSome = true :=
  ⟨reg (queued 7 4 2) Reg.QAD_SESSION_PCT 50, 5, 0, 1, none, hent 7 4 2, [0, 0], by decide⟩

theorem witness_HostEntriesAreFetchedAndAct_12 : ∃ (s : State) (q : Nat) (e : Nat) (p : Nat) (h : HEntry), s.alive = true ∧ EntryRuns s q e 8 p h ∧ (bitOf h.sflags 2 = true ∨ h.payLen = 0) ∧ (s.view.queueOf q).recvs.length < 256 ∧ h.suppressed = false :=
  ⟨queued 8 8 0, 5, 0, 1, hent 8 8 0, by decide⟩

theorem witness_HostEntriesAreFetchedAndAct_13 : ∃ (s : State) (q : Nat) (e : Nat) (p : Nat) (h : HEntry), s.alive = true ∧ EntryRuns s q e 9 p h ∧ (bitOf h.sflags 2 = true ∨ h.payLen = 0) ∧ h.suppressed = false :=
  ⟨queued 9 0 0, 5, 0, 1, hent 9 0 0, by decide⟩

theorem witness_TheBar4WindowReadsAndWritesMemory_1 : ∃ (s : State) (fn : Fn) (off : Nat) (len : Nat) (a : Nat), s.alive = true ∧ s.view.fnExists fn = true ∧ off + len ≤ 2 ^ 30 ∧ a = s.view.bar4Addr fn off ∧ ((fn = .pf ∧ inHbm a = true ∧ inHbm (a + len - 1) = true) ∨ (s.view.live (fnNum fn) = true ∧ fn ≠ .pf ∧ s.view.inAllotment (fnNum fn) a len = true)) ∧ a % stackBytes + len ≤ slotFrames * 4096 ∧ (s.view.exportCheck a len).1 = true :=
  ⟨hostMem full 8 [7], .pf, 8, 4, 8, by decide⟩

theorem witness_TheBar4WindowReadsAndWritesMemory_2 : ∃ (s : State) (off : Nat) (len : Nat) (a : Nat), s.alive = true ∧ off + len ≤ 2 ^ 30 ∧ a = s.view.bar4Addr .pf off ∧ inHbm a = true ∧ inHbm (a + len - 1) = true ∧ (s.view.exportCheck a len).1 = false :=
  ⟨pagedBy full partPage, 7 * 4096, 4, 7 * 4096, by decide⟩

theorem witness_TheBar4WindowReadsAndWritesMemory_3 : ∃ (s : State) (off : Nat) (len : Nat) (a : Nat), s.alive = true ∧ off + len ≤ 2 ^ 30 ∧ a = s.view.bar4Addr .pf off ∧ inHbm a = true ∧ inHbm (a + len - 1) = true ∧ slotFrames * 4096 < a % stackBytes + len ∧ a + len ≤ ringBase ∧ (s.view.exportCheck a len).1 = true :=
  ⟨sysWindow, 0x10000000, 32, slotFrames * 4096, by decide⟩

theorem witness_TheBar4WindowReadsAndWritesMemory_4 : ∃ (s : State) (off : Nat) (len : Nat), s.alive = true ∧ off + len ≤ 2 ^ 30 ∧ inHbm (s.view.bar4Addr .pf off) = true ∧ inHbm (s.view.bar4Addr .pf off + len - 1) = true :=
  ⟨full, 8, 4, by decide⟩

theorem witness_TheBar4WindowReadsAndWritesMemory_5 : ∃ (s : State) (p : Nat) (off : Nat) (len : Nat) (u : Bool), s.alive = true ∧ Canonical s ∧ s.view.fnExists (.vf p) = true ∧ off + len ≤ 2 ^ 30 ∧ s.view.live p = false :=
  ⟨{ full with node := { full.node with bo := { full.node.bo with vfEnabled := 2 } } }, 1, 8, 4, false, by decide⟩

theorem witness_TheBar4WindowReadsAndWritesMemory_6 : ∃ (s : State) (fn : Fn) (off : Nat) (bytes : Bytes), s.alive = true ∧ s.view.fnExists fn = true ∧ off + bytes.length ≤ 2 ^ 30 ∧ s.view.live (fnNum fn) = true ∧ s.view.inAllotment (fnNum fn) (s.view.bar4Addr fn off) bytes.length = true :=
  ⟨reg (allotted { full with node := { full.node with bo := { full.node.bo with vfEnabled := 2 } } }) Reg.PP_STATE 1 1, .vf 1, 8, [1, 2], by decide⟩

theorem witness_TheBar4WindowReadsAndWritesMemory_7 : ∃ (s : State) (fn : Fn) (off : Nat) (bytes : Bytes), s.alive = true ∧ Canonical s ∧ s.view.fnExists fn = true ∧ off + bytes.length ≤ 2 ^ 30 ∧ ¬ (s.view.live (fnNum fn) = true ∧ s.view.inAllotment (fnNum fn) (s.view.bar4Addr fn off) bytes.length = true) :=
  ⟨full, .pf, 8, [1, 2], by decide⟩

theorem witness_PartitionsAreCreatedAndKeyed_1 : ∃ (s : State) (wr : RegWr) (inst : Nat) (idx : Nat) (p : Nat) (seq : Nat) (top : Nat) (v : Work), s.alive = true ∧ Canonical s ∧ Lands s wr .PART 0x104 inst idx ∧ v = (s.view.busWrite wr).w ∧ s.view.merged wr 0 0 Reg.PART_OP = 1 ∧ p = v.merged wr inst idx Reg.PART_PART ∧ seq = v.merged wr inst idx Reg.PART_SEQ_104 ∧ (if p = 0 then ((s.view.secPart 0).map (·.created)).getD false = false else s.view.partState p = 0) ∧ (p ≠ 0 → ∀ q : Nat, q < rd s Reg.QUE_COUNT 0 p → s.view.queueIdle (rd s Reg.QUE_BASE 0 p + q) = true) ∧ v.quotasFit p (rd s Reg.PP_HBM_QUOTA p) (rd s Reg.PP_DDR_QUOTA p) (rd s Reg.PP_HOST_QUOTA p) = true ∧ 1 ≤ rd s Reg.PP_ALLOT_MIB p ∧ rd s Reg.PP_ALLOT_MIB p ≤ 1024 ∧ s.view.servingStacks.contains (rd s Reg.PP_ALLOT_STACK p) = true ∧ v.allotRun (rd s Reg.PP_ALLOT_STACK p) (rd s Reg.PP_ALLOT_MIB p) = some top ∧ v.sharesOk p = true :=
  ⟨creatable, cmd 1 2 9, 0, 0, 2, 9, 0, (creatable.view.busWrite (cmd 1 2 9)).w, by decide⟩

theorem witness_PartitionsAreCreatedAndKeyed_2 : ∃ (s : State) (wr : RegWr) (inst : Nat) (idx : Nat) (p : Nat) (seq : Nat) (v : Work) (fkek : BitVec 256), s.alive = true ∧ Canonical s ∧ Lands s wr .PART 0x104 inst idx ∧ v = (s.view.busWrite wr).w ∧ s.view.merged wr 0 0 Reg.PART_OP = 3 ∧ p = v.merged wr inst idx Reg.PART_PART ∧ seq = v.merged wr inst idx Reg.PART_SEQ_104 ∧ s.view.live p = true ∧ s.node.se.fkek = some fkek :=
  ⟨keyed, cmd 3 1 9, 0, 0, 1, 9, (keyed.view.busWrite (cmd 3 1 9)).w, 5, by decide⟩

theorem witness_AStrikeFencesDrainsScrubsAndPublishes_1 : ∃ (s : State) (wr : RegWr) (inst : Nat) (idx : Nat) (p : Nat) (seq : Nat) (v : Work), s.alive = true ∧ Canonical s ∧ Lands s wr .PART 0x104 inst idx ∧ v = (s.view.busWrite wr).w ∧ s.view.merged wr 0 0 Reg.PART_OP = 2 ∧ p = v.merged wr inst idx Reg.PART_PART ∧ seq = v.merged wr inst idx Reg.PART_SEQ_104 ∧ p ≠ 0 ∧ s.view.live p = true :=
  ⟨reg oneCourse Reg.PP_STATE 1 1, cmd 2 1 9, 0, 0, 1, 9, ((reg oneCourse Reg.PP_STATE 1 1).view.busWrite (cmd 2 1 9)).w, by decide⟩

theorem witness_AStrikeFencesDrainsScrubsAndPublishes_2 : ∃ (s : State) (p : Nat) (r : StrikeRun), s.alive = true ∧ Canonical s ∧ (s.view.secPart p).bind (·.strike) = some r ∧ rd s Reg.PP_STATE p = 2 ∧ p ≠ 0 ∧ ticksTo r.fence s.node.tk.now ≠ 0 ∧ (s.view.openTransfers p = 0 ∨ 64 ≤ ticksTo r.fence s.node.tk.now) :=
  ⟨struck 2 .striking aStrike, 1, aStrike, by decide⟩

theorem witness_AStrikeFencesDrainsScrubsAndPublishes_3 : ∃ (s : State) (p : Nat) (q : Part) (r : StrikeRun), s.alive = true ∧ Canonical s ∧ s.view.secPart p = some q ∧ q.strike = some r ∧ rd s Reg.PP_STATE p = 3 ∧ p ≠ 0 ∧ r.scrubEnd = none ∧ s.view.scrubbed p = true :=
  ⟨scrubDone, 1, { thePart with state := .scrubbing, key := some 7, strike := some { aStrike with keysAt := some 4, chipDone := true }, allotTop := none, allotLen := 0 }, { aStrike with keysAt := some 4, chipDone := true }, by decide⟩

theorem witness_AStrikeFencesDrainsScrubsAndPublishes_4 : ∃ (s : State) (p : Nat), s.alive = true ∧ s.view.scrubbed p = false :=
  ⟨scrubbing, 1, by decide⟩

theorem witness_AStrikeFencesDrainsScrubsAndPublishes_6 : ∃ (w : Work) (p : Nat) (ci : Nat) (f : Nat) (c : Course), w.course ci = some c ∧ c.loc = .hbm f ∧ w.n.st.retiredFrames = [] :=
  ⟨scrubbing.view, 1, 2, 7, theCourse, by decide⟩

theorem witness_AStrikeFencesDrainsScrubsAndPublishes_7 : ∃ (s : State) (p : Nat) (r : StrikeRun), s.alive = true ∧ Canonical s ∧ (s.view.secPart p).bind (·.strike) = some r ∧ rd s Reg.PP_STATE p = 3 ∧ p ≠ 0 ∧ r.scrubEnd ≠ none ∧ (r.noticesOpen = [] ∨ 64 ≤ ticksTo (r.keysAt.getD s.node.tk.now) s.node.tk.now) :=
  ⟨publishing, 1, { aStrike with keysAt := some 4, scrubEnd := some 6 }, by decide⟩

theorem witness_KeysCountersAndReportsOfTheNode_1 : ∃ (s : State) (wr : RegWr) (inst : Nat) (idx : Nat) (v : Work), s.alive = true ∧ Canonical s ∧ Lands s wr .SEC 0x12C inst idx ∧ v = (s.view.busWrite wr).w ∧ wr.be ≠ 0 :=
  ⟨reg full Reg.SEC_FKEK0 7, pf 0x812C 9, 0, 0, ((reg full Reg.SEC_FKEK0 7).view.busWrite (pf 0x812C 9)).w, by decide⟩

theorem witness_KeysCountersAndReportsOfTheNode_2 : ∃ (s : State) (wr : RegWr) (inst : Nat) (idx : Nat) (off : Nat), s.alive = true ∧ Canonical s ∧ off ∈ [0x110, 0x114, 0x118, 0x11C, 0x120, 0x124, 0x128] ∧ Lands s wr .SEC off inst idx :=
  ⟨full, pf 0x8114 9, 0, 0, 0x114, by decide⟩

theorem witness_KeysCountersAndReportsOfTheNode_3 : ∃ (s : State) (wr : RegWr) (inst : Nat) (idx : Nat), s.alive = true ∧ Canonical s ∧ Lands s wr .SEC 0x104 inst idx ∧ wrote1 wr Reg.SEC_FKEK_LOCK = true :=
  ⟨full, pf 0x8104 1, 0, 0, by decide⟩

theorem witness_KeysCountersAndReportsOfTheNode_4 : ∃ (s : State) (wr : RegWr) (inst : Nat) (idx : Nat), s.alive = true ∧ Canonical s ∧ Lands s wr .SEC 0x104 inst idx ∧ wrote1 wr Reg.SEC_SVN_COMMIT = true :=
  ⟨reg full Reg.SEC_SVN_IMAGE 4, pf 0x8104 2, 0, 0, by decide⟩

theorem witness_KeysCountersAndReportsOfTheNode_5 : ∃ (s : State) (wr : RegWr) (inst : Nat) (idx : Nat) (v : Work), s.alive = true ∧ Canonical s ∧ Lands s wr .ATT 0x108 inst idx ∧ v = (s.view.busWrite wr).w ∧ wrote1 wr Reg.ATT_EXT_GO = true :=
  ⟨reg full Reg.ATT_EXT_DATA0 7, pf 0x9108 3, 0, 0, ((reg full Reg.ATT_EXT_DATA0 7).view.busWrite (pf 0x9108 3)).w, by decide⟩

theorem witness_KeysCountersAndReportsOfTheNode_6 : ∃ (s : State) (wr : RegWr) (inst : Nat) (idx : Nat) (addr : Nat), s.alive = true ∧ Canonical s ∧ Lands s wr .ATT 0x188 inst idx ∧ wrote1 wr Reg.ATT_GO = true ∧ s.view.attRunning = false ∧ addr = rd s Reg.ATT_ADDR_LO + rd s Reg.ATT_ADDR_HI * 2 ^ 32 ∧ s.view.inAllotment 0 addr 7028 = true :=
  ⟨zeroAlloted, pf 0x9188 1, 0, 0, 0, by decide⟩

theorem witness_KeysCountersAndReportsOfTheNode_7 : ∃ (s : State) (wr : RegWr) (p : Nat) (idx : Nat) (addr : Nat), s.alive = true ∧ Canonical s ∧ Lands s wr .PP 0x198 p idx ∧ wrote1 wr Reg.PP_ATT_GO = true ∧ s.view.attRunning = false ∧ addr = rd s Reg.PP_ATT_ADDR_LO p + rd s Reg.PP_ATT_ADDR_HI p * 2 ^ 32 ∧ s.view.inAllotment p addr 3764 = true :=
  ⟨reg (allotted { full with node := { full.node with bo := { full.node.bo with vfEnabled := 2 } } }) Reg.PP_STATE 1 1, ⟨.vf 1, 0x198, 15, 1⟩, 1, 0, 0, by decide⟩

theorem witness_KeysCountersAndReportsOfTheNode_8 : ∃ (s : State) (r : AttReq), s.alive = true ∧ Canonical s ∧ s.node.se.attBusy = some r ∧ r.cert = false :=
  ⟨attesting anAtt, anAtt, by decide⟩

theorem witness_StatusKeysAndIdentityOrders_1 : ∃ (s : State) (f : Frame) (r : MgReq), s.alive = true ∧ Canonical s ∧ requestOf s f 1 Reg.MG_R = some r ∧ r.body = [] :=
  ⟨managed full, asks (managed full) 1 0 0 [], asked (managed full) 1 0 0 [], by decide, by decide, request_read rfl (by decide), rfl⟩

theorem witness_StatusKeysAndIdentityOrders_2 : ∃ (s : State) (f : Frame) (r : MgReq), s.alive = true ∧ Canonical s ∧ requestOf s f 2 Reg.MG_W = some r ∧ s.node.mt.key = none ∧ r.body.length = 32 :=
  ⟨reg full Reg.MG_LINK_UP 1, clearAsk (reg full Reg.MG_LINK_UP 1) 2 (List.replicate 32 3), clearAsked (reg full Reg.MG_LINK_UP 1) 2 (List.replicate 32 3), by decide⟩

theorem witness_StatusKeysAndIdentityOrders_3 : ∃ (s : State) (f : Frame) (r : MgReq) (mk : BitVec 256), s.alive = true ∧ Canonical s ∧ requestOf s f 2 Reg.MG_W = some r ∧ s.node.mt.key = some mk ∧ r.body.length = 40 :=
  ⟨managed full, asks (managed full) 2 0 0 (List.replicate 40 3), asked (managed full) 2 0 0 (List.replicate 40 3), 5, by decide, by decide, request_read rfl (by decide), rfl, by decide⟩

theorem witness_StatusKeysAndIdentityOrders_4 : ∃ (s : State) (wr : RegWr) (inst : Nat) (idx : Nat) (v : Work), s.alive = true ∧ Canonical s ∧ Lands s wr .MG 0x19C inst idx ∧ v = (s.view.busWrite wr).w ∧ wr.be ≠ 0 :=
  ⟨reg full Reg.MG_MK0 7, pf 0x619C 9, 0, 0, ((reg full Reg.MG_MK0 7).view.busWrite (pf 0x619C 9)).w, by decide⟩

theorem witness_StatusKeysAndIdentityOrders_5 : ∃ (s : State) (wr : RegWr) (inst : Nat) (idx : Nat) (off : Nat), s.alive = true ∧ Canonical s ∧ off ∈ [0x180, 0x184, 0x188, 0x18C, 0x190, 0x194, 0x198] ∧ Lands s wr .MG off inst idx :=
  ⟨full, pf 0x6184 9, 0, 0, 0x184, by decide⟩

theorem witness_StatusKeysAndIdentityOrders_6_a : ∃ (s : State) (f : Frame) (r : MgReq), s.alive = true ∧ Canonical s ∧ requestOf s f 3 Reg.MG_W = some r ∧ r.body.length = 7 ∧ fieldAt r.body 6 1 ≤ 1 ∧ rd s Reg.GLB_IDS_LOCKED = 0 ∧ fieldAt r.body 0 2 ≠ 0xFFFF :=
  ⟨managed full, asks (managed full) 3 0 0 [4, 0, 1, 0, 0, 0, 0], asked (managed full) 3 0 0 [4, 0, 1, 0, 0, 0, 0], by decide, by decide, request_read rfl (by decide), by decide⟩

theorem witness_StatusKeysAndIdentityOrders_6_b : ∃ (s : State) (f : Frame) (r : MgReq), s.alive = true ∧ Canonical s ∧ requestOf s f 3 Reg.MG_W = some r ∧ r.body.length = 7 ∧ fieldAt r.body 6 1 ≤ 1 ∧ rd s Reg.GLB_IDS_LOCKED = 0 ∧ fieldAt r.body 0 2 ≠ 0xFFFF :=
  ⟨managed full, asks (managed full) 3 0 0 [4, 0, 1, 0, 0, 0, 1], asked (managed full) 3 0 0 [4, 0, 1, 0, 0, 0, 1], by decide, by decide, request_read rfl (by decide), by decide⟩

theorem witness_StatusKeysAndIdentityOrders_7 : ∃ (s : State) (f : Frame) (r : MgReq), s.alive = true ∧ Canonical s ∧ requestOf s f 3 Reg.MG_W = some r ∧ r.body.length = 7 ∧ fieldAt r.body 6 1 ≤ 1 ∧ (rd s Reg.GLB_IDS_LOCKED ≠ 0 ∨ fieldAt r.body 0 2 = 0xFFFF) :=
  ⟨managed full, asks (managed full) 3 0 0 [255, 255, 1, 0, 0, 0, 0], asked (managed full) 3 0 0 [255, 255, 1, 0, 0, 0, 0], by decide, by decide, request_read rfl (by decide), by decide, by decide⟩

theorem witness_BudgetLeaseAndFenceOrders_1 : ∃ (s : State) (f : Frame) (r : MgReq) (b : PowerBudget), s.alive = true ∧ Canonical s ∧ requestOf s f 0x10 Reg.MG_B = some r ∧ b = PowerBudget.read r.body ∧ b.ok = true ∧ 1 ≤ ticksTo s.node.tk.now (BitVec.ofNat 48 b.valid) ∧ ticksTo s.node.tk.now (BitVec.ofNat 48 b.valid) ≤ 2 ^ 32 ∧ (s.node.pw.anyBudget = true → 1 ≤ (b.seq + 2 ^ 32 - rd s Reg.PWR_SEQ) % 2 ^ 32 ∧ (b.seq + 2 ^ 32 - rd s Reg.PWR_SEQ) % 2 ^ 32 < 2 ^ 31) :=
  ⟨managed full, asks (managed full) 0x10 0 0 (leBytes 4 3 ++ leBytes 2 800 ++ leBytes 2 64 ++ leBytes 8 5 ++ List.replicate 16 0), asked (managed full) 0x10 0 0 (leBytes 4 3 ++ leBytes 2 800 ++ leBytes 2 64 ++ leBytes 8 5 ++ List.replicate 16 0), PowerBudget.read (leBytes 4 3 ++ leBytes 2 800 ++ leBytes 2 64 ++ leBytes 8 5 ++ List.replicate 16 0), by decide, by decide, request_read rfl (by decide), by decide, by decide, by decide⟩

theorem witness_BudgetLeaseAndFenceOrders_2 : ∃ (s : State) (f : Frame) (r : MgReq) (b : PowerBudget), s.alive = true ∧ Canonical s ∧ requestOf s f 0x10 Reg.MG_B = some r ∧ b = PowerBudget.read r.body ∧ (b.ok = false ∨ ticksTo s.node.tk.now (BitVec.ofNat 48 b.valid) = 0 ∨ 2 ^ 32 < ticksTo s.node.tk.now (BitVec.ofNat 48 b.valid)) :=
  ⟨managed full, asks (managed full) 0x10 0 0 [], asked (managed full) 0x10 0 0 [], PowerBudget.read [], by decide, by decide, request_read rfl (by decide), by decide, by decide⟩

theorem witness_BudgetLeaseAndFenceOrders_3 : ∃ (s : State) (f : Frame) (r : MgReq) (b : PowerBudget), s.alive = true ∧ Canonical s ∧ requestOf s f 0x10 Reg.MG_B = some r ∧ b = PowerBudget.read r.body ∧ b.ok = true ∧ 1 ≤ ticksTo s.node.tk.now (BitVec.ofNat 48 b.valid) ∧ ticksTo s.node.tk.now (BitVec.ofNat 48 b.valid) ≤ 2 ^ 32 ∧ s.node.pw.anyBudget = true ∧ ¬ (1 ≤ (b.seq + 2 ^ 32 - rd s Reg.PWR_SEQ) % 2 ^ 32 ∧ (b.seq + 2 ^ 32 - rd s Reg.PWR_SEQ) % 2 ^ 32 < 2 ^ 31) :=
  ⟨budgeted, asks budgeted 0x10 0 0 (leBytes 4 0 ++ leBytes 2 800 ++ leBytes 2 64 ++ leBytes 8 5 ++ List.replicate 16 0), asked budgeted 0x10 0 0 (leBytes 4 0 ++ leBytes 2 800 ++ leBytes 2 64 ++ leBytes 8 5 ++ List.replicate 16 0), PowerBudget.read (leBytes 4 0 ++ leBytes 2 800 ++ leBytes 2 64 ++ leBytes 8 5 ++ List.replicate 16 0), by decide, by decide, request_read rfl (by decide), by decide, by decide, by decide⟩

theorem witness_BudgetLeaseAndFenceOrders_4_a : ∃ (s : State) (f : Frame) (r : MgReq) (epoch : Nat) (ms : Nat), s.alive = true ∧ Canonical s ∧ requestOf s f 0x11 Reg.MG_C = some r ∧ r.body.length = 6 ∧ epoch = fieldAt r.body 0 4 ∧ ms = fieldAt r.body 4 2 ∧ 100 ≤ ms ∧ ms ≤ 5000 ∧ rd s Reg.MIR_FE ≤ epoch :=
  ⟨managed full, asks (managed full) 0x11 0 0 [5, 0, 0, 0, 244, 1], asked (managed full) 0x11 0 0 [5, 0, 0, 0, 244, 1], 5, 500, by decide, by decide, request_read rfl (by decide), by decide, by decide⟩

theorem witness_BudgetLeaseAndFenceOrders_4_b : ∃ (s : State) (f : Frame) (r : MgReq) (epoch : Nat) (ms : Nat), s.alive = true ∧ Canonical s ∧ requestOf s f 0x11 Reg.MG_C = some r ∧ r.body.length = 6 ∧ epoch = fieldAt r.body 0 4 ∧ ms = fieldAt r.body 4 2 ∧ 100 ≤ ms ∧ ms ≤ 5000 ∧ rd s Reg.MIR_FE ≤ epoch :=
  ⟨managed full, asks (managed full) 0x11 0 0 [0, 0, 0, 0, 100, 0], asked (managed full) 0x11 0 0 [0, 0, 0, 0, 100, 0], 0, 100, by decide, by decide, request_read rfl (by decide), by decide, by decide⟩

theorem witness_BudgetLeaseAndFenceOrders_5 : ∃ (s : State) (f : Frame) (r : MgReq) (epoch : Nat) (ms : Nat), s.alive = true ∧ Canonical s ∧ requestOf s f 0x11 Reg.MG_C = some r ∧ r.body.length = 6 ∧ epoch = fieldAt r.body 0 4 ∧ ms = fieldAt r.body 4 2 ∧ 100 ≤ ms ∧ ms ≤ 5000 ∧ epoch < rd s Reg.MIR_FE :=
  ⟨managed (reg full Reg.MIR_FE 9), asks (managed (reg full Reg.MIR_FE 9)) 0x11 0 0 [5, 0, 0, 0, 244, 1], asked (managed (reg full Reg.MIR_FE 9)) 0x11 0 0 [5, 0, 0, 0, 244, 1], 5, 500, by decide, by decide, request_read rfl (by decide), by decide, by decide⟩

theorem witness_BudgetLeaseAndFenceOrders_6 : ∃ (s : State) (f : Frame) (r : MgReq), s.alive = true ∧ Canonical s ∧ requestOf s f 0x12 Reg.MG_C = some r ∧ r.body = [] :=
  ⟨managed full, asks (managed full) 0x12 0 0 [], asked (managed full) 0x12 0 0 [], by decide, by decide, request_read rfl (by decide), rfl⟩

theorem witness_BudgetLeaseAndFenceOrders_7 : ∃ (s : State) (f : Frame) (r : MgReq) (node : Nat) (epoch : Nat), s.alive = true ∧ Canonical s ∧ requestOf s f 0x13 Reg.MG_C = some r ∧ r.body.length = 6 ∧ node = fieldAt r.body 0 2 ∧ epoch = fieldAt r.body 2 4 :=
  ⟨managed full, asks (managed full) 0x13 0 0 [9, 0, 5, 0, 0, 0], asked (managed full) 0x13 0 0 [9, 0, 5, 0, 0, 0], 9, 5, by decide, by decide, request_read rfl (by decide), by decide⟩

theorem witness_TakeoverOrphanAndResetOrders_1 : ∃ (s : State) (f : Frame) (r : MgReq) (node : Nat), s.alive = true ∧ Canonical s ∧ requestOf s f 0x14 Reg.MG_C = some r ∧ r.body.length = 6 ∧ node = fieldAt r.body 0 2 ∧ fieldAt r.body 2 4 ≤ rd s Reg.MIR_FENCE_MIN 0 node :=
  ⟨takenFrom, asks takenFrom 0x14 0 0 [9, 0, 5, 0, 0, 0], asked takenFrom 0x14 0 0 [9, 0, 5, 0, 0, 0], 9, by decide, by decide, request_read rfl (by decide), by decide⟩

theorem witness_TakeoverOrphanAndResetOrders_2 : ∃ (s : State) (f : Frame) (r : MgReq) (node : Nat), s.alive = true ∧ Canonical s ∧ requestOf s f 0x14 Reg.MG_C = some r ∧ r.body.length = 6 ∧ node = fieldAt r.body 0 2 ∧ rd s Reg.MIR_FENCE_MIN 0 node < fieldAt r.body 2 4 :=
  ⟨managed full, asks (managed full) 0x14 0 0 [9, 0, 5, 0, 0, 0], asked (managed full) 0x14 0 0 [9, 0, 5, 0, 0, 0], 9, by decide, by decide, request_read rfl (by decide), by decide⟩

theorem witness_TakeoverOrphanAndResetOrders_3 : ∃ (s : State) (f : Frame) (r : MgReq), s.alive = true ∧ Canonical s ∧ requestOf s f 0x15 Reg.MG_C = some r ∧ r.body = [] :=
  ⟨mirroredOne, asks mirroredOne 0x15 0 0 [], asked mirroredOne 0x15 0 0 [], by decide, by decide, request_read rfl (by decide), rfl⟩

theorem witness_TakeoverOrphanAndResetOrders_4 : ∃ (s : State) (f : Frame) (r : MgReq) (p : Nat) (si : Nat) (cid : DWord) (se : Session), s.alive = true ∧ Canonical s ∧ requestOf s f 0x16 Reg.MG_C = some r ∧ r.body.length = 9 ∧ p = fieldAt r.body 0 1 ∧ cid.toNat = fieldAt r.body 1 8 ∧ (s.node.pg.sessions.find? fun e => e.2.part = p && e.2.cid = cid && e.2.orphan) = some (si, se) ∧ s.view.session si = some se ∧ s.view.mirrored p = true ∧ se.state = .open ∧ se.own ≠ .claiming ∧ (s.view.homeRun si).any (fun h => h.op = .reconcile) = false :=
  ⟨orphaned, asks orphaned 0x16 0 0 ([1] ++ leBytes 8 77), asked orphaned 0x16 0 0 ([1] ++ leBytes 8 77), 1, 0, 77, { theSession with own := .unconfirmed, orphan := true }, by decide, by decide, request_read rfl (by decide), by decide, by decide, by decide⟩

theorem witness_TakeoverOrphanAndResetOrders_5 : ∃ (s : State) (f : Frame) (r : MgReq) (p : Nat) (cid : DWord), s.alive = true ∧ Canonical s ∧ requestOf s f 0x16 Reg.MG_C = some r ∧ r.body.length = 9 ∧ p = fieldAt r.body 0 1 ∧ cid.toNat = fieldAt r.body 1 8 ∧ (∀ e ∈ s.node.pg.sessions, e.2.part = p → e.2.cid = cid → e.2.orphan = false) :=
  ⟨managed full, asks (managed full) 0x16 0 0 ([1] ++ leBytes 8 77), asked (managed full) 0x16 0 0 ([1] ++ leBytes 8 77), 1, 77, by decide, by decide, request_read rfl (by decide), by decide, by decide⟩

theorem witness_TakeoverOrphanAndResetOrders_6 : ∃ (s : State) (f : Frame) (r : MgReq) (p : Nat) (si : Nat) (cid : DWord) (se : Session), s.alive = true ∧ Canonical s ∧ requestOf s f 0x17 Reg.MG_C = some r ∧ r.body.length = 9 ∧ p = fieldAt r.body 0 1 ∧ cid.toNat = fieldAt r.body 1 8 ∧ (s.node.pg.sessions.find? fun e => e.2.part = p && e.2.cid = cid) = some (si, se) ∧ s.view.session si = some se :=
  ⟨orphaned, asks orphaned 0x17 0 0 ([1] ++ leBytes 8 77), asked orphaned 0x17 0 0 ([1] ++ leBytes 8 77), 1, 0, 77, { theSession with own := .unconfirmed, orphan := true }, by decide, by decide, request_read rfl (by decide), by decide, by decide⟩

theorem witness_TakeoverOrphanAndResetOrders_7 : ∃ (s : State) (f : Frame) (r : MgReq) (p : Nat) (cid : DWord), s.alive = true ∧ Canonical s ∧ requestOf s f 0x17 Reg.MG_C = some r ∧ r.body.length = 9 ∧ p = fieldAt r.body 0 1 ∧ cid.toNat = fieldAt r.body 1 8 ∧ (∀ e ∈ s.node.pg.sessions, e.2.part = p → e.2.cid ≠ cid) ∧ (∃ x ∈ s.node.mi.inStreams, x.part = p ∧ ∃ y ∈ x.slices ++ x.oldSlices, y.cid = cid) :=
  ⟨takenFrom, asks takenFrom 0x17 0 0 ([1] ++ leBytes 8 77), asked takenFrom 0x17 0 0 ([1] ++ leBytes 8 77), 1, 77, by decide, by decide, request_read rfl (by decide), by decide, by decide, by decide⟩

theorem witness_TakeoverOrphanAndResetOrders_8 : ∃ (s : State) (f : Frame) (r : MgReq) (p : Nat) (cid : DWord), s.alive = true ∧ Canonical s ∧ requestOf s f 0x17 Reg.MG_C = some r ∧ r.body.length = 9 ∧ p = fieldAt r.body 0 1 ∧ cid.toNat = fieldAt r.body 1 8 ∧ (∀ e ∈ s.node.pg.sessions, e.2.part = p → e.2.cid ≠ cid) ∧ (∀ x ∈ s.node.mi.inStreams, x.part = p → ∀ y ∈ x.slices ++ x.oldSlices, y.cid ≠ cid) :=
  ⟨managed full, asks (managed full) 0x17 0 0 ([1] ++ leBytes 8 77), asked (managed full) 0x17 0 0 ([1] ++ leBytes 8 77), 1, 77, by decide, by decide, request_read rfl (by decide), by decide, by decide, by decide⟩

theorem witness_TakeoverOrphanAndResetOrders_9 : ∃ (s : State) (f : Frame) (r : MgReq), s.alive = true ∧ Canonical s ∧ requestOf s f 0x18 Reg.MG_C = some r ∧ r.body = leBytes 2 0xB007 :=
  ⟨managed full, asks (managed full) 0x18 0 0 (leBytes 2 0xB007), asked (managed full) 0x18 0 0 (leBytes 2 0xB007), by decide, by decide, request_read rfl (by decide), by decide⟩

theorem witness_TakeoverOrphanAndResetOrders_10 : ∃ (s : State) (f : Frame) (r : MgReq), s.alive = true ∧ Canonical s ∧ requestOf s f 0x18 Reg.MG_C = some r ∧ r.body ≠ leBytes 2 0xB007 :=
  ⟨managed full, asks (managed full) 0x18 0 0 [], asked (managed full) 0x18 0 0 [], by decide, by decide, request_read rfl (by decide), by decide⟩

theorem witness_ManagementReads_1 : ∃ (s : State) (f : Frame) (r : MgReq) (o : Nat), s.alive = true ∧ Canonical s ∧ requestOf s f 0x20 Reg.MG_R = some r ∧ r.body = leBytes 4 1 ++ leBytes 4 o ∧ o % 4 = 0 ∧ o < 2 ^ 32 :=
  ⟨managed full, asks (managed full) 0x20 0 0 (leBytes 4 1 ++ leBytes 4 0x100), asked (managed full) 0x20 0 0 (leBytes 4 1 ++ leBytes 4 0x100), 0x100, by decide, by decide, request_read rfl (by decide), by decide⟩

theorem witness_ManagementReads_2 : ∃ (s : State) (f : Frame) (r : MgReq) (offs : List Nat), s.alive = true ∧ Canonical s ∧ requestOf s f 0x20 Reg.MG_R = some r ∧ r.body = leBytes 4 offs.length ++ (offs.map (leBytes 4)).flatten ∧ (∀ o ∈ offs, o < 2 ^ 32) ∧ 1 ≤ offs.length ∧ offs.length ≤ 256 ∧ (∃ o ∈ offs, o % 4 ≠ 0) :=
  ⟨managed full, asks (managed full) 0x20 0 0 (leBytes 4 2 ++ leBytes 4 0x100 ++ leBytes 4 0x102), asked (managed full) 0x20 0 0 (leBytes 4 2 ++ leBytes 4 0x100 ++ leBytes 4 0x102), [0x100, 0x102], by decide, by decide, request_read rfl (by decide), by decide, by decide⟩

theorem witness_ManagementReads_3 : ∃ (s : State) (f : Frame) (r : MgReq), s.alive = true ∧ Canonical s ∧ requestOf s f 0x21 Reg.MG_R = some r ∧ r.body.length = 35 ∧ fieldAt r.body 32 1 ≤ 1 ∧ fieldAt r.body 33 1 ≤ 63 ∧ fieldAt r.body 34 1 ≤ 1 ∧ s.view.attRunning = false ∧ r.offset = 0 ∧ (∀ k ∈ s.node.mt.reports, k.port = r.port → k.nonce ≠ r.body.take 32) :=
  ⟨managed full, asks (managed full) 0x21 0 0 (List.replicate 32 1 ++ [0, 1, 0]), asked (managed full) 0x21 0 0 (List.replicate 32 1 ++ [0, 1, 0]), by decide, by decide, request_read rfl (by decide), by decide, by decide, by decide⟩

theorem witness_ManagementReads_4 : ∃ (s : State) (f : Frame) (r : MgReq), s.alive = true ∧ Canonical s ∧ requestOf s f 0x21 Reg.MG_R = some r ∧ r.body.length = 35 ∧ fieldAt r.body 32 1 ≤ 1 ∧ fieldAt r.body 33 1 ≤ 63 ∧ fieldAt r.body 34 1 ≤ 1 ∧ s.view.attRunning = true :=
  ⟨managed (attesting anAtt), asks (managed (attesting anAtt)) 0x21 0 0 (List.replicate 32 1 ++ [0, 1, 0]), asked (managed (attesting anAtt)) 0x21 0 0 (List.replicate 32 1 ++ [0, 1, 0]), by decide, by decide, request_read rfl (by decide), by decide, by decide⟩

theorem witness_ManagementReads_5 : ∃ (s : State) (f : Frame) (r : MgReq) (k : KeptReport) (b : Bytes), s.alive = true ∧ Canonical s ∧ requestOf s f 0x21 Reg.MG_R = some r ∧ r.body.length = 35 ∧ fieldAt r.body 32 1 ≤ 1 ∧ fieldAt r.body 33 1 ≤ 63 ∧ fieldAt r.body 34 1 ≤ 1 ∧ s.view.attRunning = false ∧ (s.node.mt.reports.find? fun k => k.port = r.port) = some k ∧ k.bytes = some b ∧ (r.offset ≠ 0 ∨ k.nonce = r.body.take 32) :=
  ⟨reported, asks reported 0x21 0 0 (List.replicate 32 1 ++ [0, 1, 0]), asked reported 0x21 0 0 (List.replicate 32 1 ++ [0, 1, 0]), aReport, [1, 2, 3], by decide, by decide, request_read rfl (by decide), by decide, by decide, by decide⟩

theorem witness_ManagementReads_6 : ∃ (s : State) (f : Frame) (r : MgReq), s.alive = true ∧ Canonical s ∧ requestOf s f 0x22 Reg.MG_R = some r ∧ r.body = [] ∧ r.offset + 1024 ≤ 65536 :=
  ⟨managed full, asks (managed full) 0x22 0 1024 [], asked (managed full) 0x22 0 1024 [], by decide, by decide, request_read rfl (by decide), by decide⟩

theorem witness_ManagementReads_7 : ∃ (s : State) (f : Frame) (r : MgReq) (seq : Nat) (e : LogEntry), s.alive = true ∧ Canonical s ∧ requestOf s f 0x23 Reg.MG_R = some r ∧ r.body = leBytes 4 seq ++ [1] ∧ seq < 2 ^ 32 ∧ (s.node.log.find? fun e => e.seq = s.view.bookSeq seq) = some e :=
  ⟨loggedOne, asks loggedOne 0x23 0 0 (leBytes 4 0 ++ [1]), asked loggedOne 0x23 0 0 (leBytes 4 0 ++ [1]), 0, { seq := 0, bytes := [1, 2] }, by decide, by decide, request_read rfl (by decide), by decide⟩

theorem witness_ManagementReads_8 : ∃ (s : State) (f : Frame) (r : MgReq) (m : Meter16) (b : Bytes), s.alive = true ∧ Canonical s ∧ requestOf s f 0x24 Reg.MG_R = some r ∧ r.body.length = 5 ∧ (s.node.mt.meters.find? fun m => m.part = fieldAt r.body 0 1) = some m ∧ ((((m.kept ++ m.final.toList).map (·.2)).find? fun b => fieldAt b 8 4 = fieldAt r.body 1 4) = some b) :=
  ⟨metered, asks metered 0x24 0 0 [1, 3, 0, 0, 0], asked metered 0x24 0 0 [1, 3, 0, 0, 0], aMeter, List.replicate 8 1 ++ [3, 0, 0, 0], by decide, by decide, request_read rfl (by decide), by decide, by decide⟩

theorem witness_ManagementReads_9 : ∃ (s : State) (f : Frame) (r : MgReq), s.alive = true ∧ Canonical s ∧ requestOf s f 0x25 Reg.MG_R = some r ∧ r.body = [] :=
  ⟨managed full, asks (managed full) 0x25 0 0 [], asked (managed full) 0x25 0 0 [], by decide, by decide, request_read rfl (by decide), rfl⟩

theorem witness_ChunkedWritesFillTheFlash_1 : ∃ (s : State) (f : Frame) (r : MgReq) (image : Nat), s.alive = true ∧ Canonical s ∧ requestOf s f 0x30 Reg.MG_W = some r ∧ image = fieldAt r.body 0 1 ∧ image ≤ 1 ∧ 2 ≤ r.body.length ∧ r.body.length ≤ 1025 ∧ r.offset + r.body.length - 1 ≤ 0x02100000 ∧ ¬ (s.node.bo.running = some image ∧ (1 - image) ∈ s.node.bo.imgFailed) ∧ bitOf r.flags 2 = false ∧ ((s.node.mt.stream = none ∧ r.offset = 0) ∨ ∃ x ∈ s.node.mt.stream, s.node.tk.upPs < x.last + 10000000000000 ∧ x.port = r.port ∧ x.mac = r.mac ∧ x.image = image ∧ x.next = r.offset) :=
  ⟨managed full, asks (managed full) 0x30 0 0 [1, 7, 8], asked (managed full) 0x30 0 0 [1, 7, 8], 1, by decide, by decide, request_read rfl (by decide), by decide, by decide, by decide, by decide⟩

theorem witness_ChunkedWritesFillTheFlash_2 : ∃ (s : State) (f : Frame) (r : MgReq) (image : Nat), s.alive = true ∧ Canonical s ∧ requestOf s f 0x30 Reg.MG_W = some r ∧ image = fieldAt r.body 0 1 ∧ image ≤ 1 ∧ 2 ≤ r.body.length ∧ r.body.length ≤ 1025 ∧ r.offset + r.body.length - 1 ≤ 0x02100000 ∧ ¬ (s.node.bo.running = some image ∧ (1 - image) ∈ s.node.bo.imgFailed) ∧ bitOf r.flags 2 = true ∧ s.node.bo.recovery = false ∧ ((s.node.mt.stream = none ∧ r.offset = 0) ∨ ∃ x ∈ s.node.mt.stream, s.node.tk.upPs < x.last + 10000000000000 ∧ x.port = r.port ∧ x.mac = r.mac ∧ x.image = image ∧ x.next = r.offset) :=
  ⟨managed full, asks (managed full) 0x30 4 0 [1, 7, 8], asked (managed full) 0x30 4 0 [1, 7, 8], 1, by decide, by decide, request_read rfl (by decide), by decide, by decide, by decide, by decide⟩

theorem witness_ChunkedWritesFillTheFlash_3 : ∃ (s : State) (f : Frame) (r : MgReq) (image : Nat) (x : ChunkStream), s.alive = true ∧ Canonical s ∧ requestOf s f 0x30 Reg.MG_W = some r ∧ image = fieldAt r.body 0 1 ∧ image ≤ 1 ∧ 2 ≤ r.body.length ∧ r.body.length ≤ 1025 ∧ r.offset + r.body.length - 1 ≤ 0x02100000 ∧ ¬ (s.node.bo.running = some image ∧ (1 - image) ∈ s.node.bo.imgFailed) ∧ s.node.mt.stream = some x ∧ s.node.tk.upPs < x.last + 10000000000000 ∧ ¬ (x.port = r.port ∧ x.mac = r.mac ∧ x.image = image ∧ x.next = r.offset) :=
  ⟨streaming, asks streaming 0x30 0 0 [1, 7, 8], asked streaming 0x30 0 0 [1, 7, 8], 1, aStream, by decide, by decide, request_read rfl (by decide), by decide, by decide, by decide⟩

theorem witness_ChunkedWritesFillTheFlash_4 : ∃ (s : State) (x : ChunkStream), s.alive = true ∧ s.node.mt.stream = some x ∧ x.last + 10000000000000 ≤ s.node.tk.upPs + s.view.periodPs :=
  ⟨{ streaming with node := { streaming.node with tk := { streaming.node.tk with upPs := 20000000000000 } } }, aStream, by decide⟩

theorem witness_ChunkedWritesFillTheFlash_5_a : ∃ (s : State) (f : Frame) (r : MgReq), s.alive = true ∧ Canonical s ∧ requestOf s f 0x31 Reg.MG_W = some r ∧ r.body ≠ [] ∧ r.body.length ≤ 1024 ∧ r.offset = 0 ∧ s.node.mt.stream = none :=
  ⟨managed full, asks (managed full) 0x31 4 0 [7, 8], asked (managed full) 0x31 4 0 [7, 8], by decide, by decide, request_read rfl (by decide), by decide⟩

theorem witness_ChunkedWritesFillTheFlash_5_b : ∃ (s : State) (f : Frame) (r : MgReq), s.alive = true ∧ Canonical s ∧ requestOf s f 0x31 Reg.MG_W = some r ∧ r.body ≠ [] ∧ r.body.length ≤ 1024 ∧ r.offset = 0 ∧ s.node.mt.stream = none :=
  ⟨managed full, asks (managed full) 0x31 0 0 [7, 8], asked (managed full) 0x31 0 0 [7, 8], by decide, by decide, request_read rfl (by decide), by decide⟩

theorem witness_ChunkedWritesFillTheFlash_6 : ∃ (s : State) (f : Frame) (r : MgReq), s.alive = true ∧ Canonical s ∧ requestOf s f 0x32 Reg.MG_W = some r ∧ r.body = [] :=
  ⟨managed full, asks (managed full) 0x32 0 0 [], asked (managed full) 0x32 0 0 [], by decide, by decide, request_read rfl (by decide), rfl⟩

theorem witness_PowerEstimatesMoveTheAllowances_1_a : ∃ (s : State) (c0 : List Nat) (c1 : List Nat) (temps : List Int), s.alive = true ∧ Canonical s ∧ rd s Reg.GLB_FW_RUNNING ≠ 0 ∧ temps.length = 32 ∧ rd s Reg.PWR_A_P ≤ 1024 ∧ rd s Reg.THM_C_T ≤ 1024 ∧ rd s Reg.THM_C_H ≤ 1024 :=
  ⟨reg full Reg.GLB_FW_RUNNING 1, [], [7], List.replicate 32 400, by decide⟩

theorem witness_PowerEstimatesMoveTheAllowances_1_b : ∃ (s : State) (c0 : List Nat) (c1 : List Nat) (temps : List Int), s.alive = true ∧ Canonical s ∧ rd s Reg.GLB_FW_RUNNING ≠ 0 ∧ temps.length = 32 ∧ rd s Reg.PWR_A_P ≤ 1024 ∧ rd s Reg.THM_C_T ≤ 1024 ∧ rd s Reg.THM_C_H ≤ 1024 :=
  ⟨reg (reg full Reg.GLB_FW_RUNNING 1) Reg.PWR_EMERG_EN 0, [], [7], List.replicate 32 840, by decide⟩

theorem witness_PowerEstimatesMoveTheAllowances_2 : ∃ (s : State) (temps : List Int), s.alive = true ∧ Canonical s ∧ temps.length = 8 :=
  ⟨full, [1, 2, 3, 4, 5, 6, 7, -8], by decide⟩

theorem witness_PowerEstimatesMoveTheAllowances_3 : ∃ (s : State) (x : DroopSense), s.alive = true ∧ x.die < 2 ∧ x.sensor < 16 ∧ atD s.node.pw.tripped x.die false = false ∧ (x.mv : Int) < s.view.droopAt x.die x.sensor :=
  ⟨full, ⟨1, 3, 500⟩, by decide⟩

theorem witness_PowerEstimatesMoveTheAllowances_4 : ∃ (s : State) (x : DroopSense), s.alive = true ∧ (atD s.node.pw.tripped x.die false = true ∨ s.view.droopAt x.die x.sensor ≤ (x.mv : Int)) :=
  ⟨{ full with node := { full.node with pw := { full.node.pw with tripped := [true, false] } } }, ⟨0, 3, 500⟩, by decide⟩

theorem witness_PowerEstimatesMoveTheAllowances_5 : ∃ (s : State) (die : Nat) (cycles : Nat), s.alive = true ∧ Canonical s ∧ die < 2 ∧ atD s.node.pw.tripped die false = true ∧ 64 ≤ cycles ∧ die < s.node.pw.stretched.length :=
  ⟨{ full with node := { full.node with pw := { full.node.pw with tripped := [true, false] } } }, 0, 64, by decide⟩

theorem witness_PowerEstimatesMoveTheAllowances_6 : ∃ (s : State), s.alive = true ∧ Canonical s ∧ rd s Reg.PWR_VALID ≠ 0 ∧ Tick.earlier s.view.validTick s.node.tk.now = true :=
  ⟨{ reg full Reg.PWR_VALID 1 with node := { full.node with tk := { full.node.tk with now := 9 } } }, by decide⟩

theorem witness_TrimsMarginsAndCalibrationAreTaken_1 : ∃ (s : State) (rs : List PmbReading) (listed : List Nat) (total : Rat) (mean : Rat), s.alive = true ∧ Canonical s ∧ rd s Reg.GLB_FW_RUNNING ≠ 0 ∧ rd s Reg.PWR_TRIM_EN ≠ 0 ∧ listed = (List.range 16).filter (fun e => s.view.flag Reg.MG_PMB_PRESENT 0 e) ∧ listed ≠ [] ∧ (∀ e ∈ listed, (pmbOf rs e).isSome = true) ∧ (total = listed.foldl (fun t e => t + ((pmbOf rs e).getD 0 : Rat) * s.view.telCorr e) 0) ∧ mean = s.node.pw.window.foldl (· + ·) 0 / (s.node.pw.window.length : Rat) ∧ 0 < mean :=
  ⟨trimming, [⟨3, some 400, some (750, 740)⟩], [3], 400, 100, by decide, by decide, by decide, by decide, by decide, by decide, by decide, (by show (400 : Rat) = 0 + ((400 : Nat) : Rat) * 1; norm_num), (by show (100 : Rat) = List.foldl (· + ·) 0 [100] / (([100] : List Rat).length : Rat); norm_num), by norm_num⟩

theorem witness_TrimsMarginsAndCalibrationAreTaken_2 : ∃ (s : State) (rs : List PmbReading) (e : Nat), s.alive = true ∧ Canonical s ∧ rd s Reg.GLB_FW_RUNNING ≠ 0 ∧ e < 16 ∧ s.view.flag Reg.MG_PMB_PRESENT 0 e = true ∧ pmbOf rs e = none :=
  ⟨trimming, [⟨3, none, none⟩], 3, by decide⟩

theorem witness_TrimsMarginsAndCalibrationAreTaken_3_a : ∃ (s : State) (port : Nat) (half : Nat) (i : Nat) (x : Option (Int × Int)), s.alive = true ∧ Canonical s ∧ port < 32 ∧ half < 2 ∧ i = port * 2 + half ∧ rd s Reg.MAR_OPT_EN ≠ 0 ∧ rd s Reg.MG_OPT_PRESENT 0 i ≠ 0 :=
  ⟨reg full Reg.MG_OPT_PRESENT 1 0 5, 2, 1, 5, some (-300, 250), by decide⟩

theorem witness_TrimsMarginsAndCalibrationAreTaken_3_b : ∃ (s : State) (port : Nat) (half : Nat) (i : Nat) (x : Option (Int × Int)), s.alive = true ∧ Canonical s ∧ port < 32 ∧ half < 2 ∧ i = port * 2 + half ∧ rd s Reg.MAR_OPT_EN ≠ 0 ∧ rd s Reg.MG_OPT_PRESENT 0 i ≠ 0 :=
  ⟨reg full Reg.MG_OPT_PRESENT 1 0 5, 2, 1, 5, none, by decide⟩

theorem witness_TrimsMarginsAndCalibrationAreTaken_4_a : ∃ (s : State) (lost : Bool), s.alive = true ∧ Canonical s :=
  ⟨full, true, by decide⟩

theorem witness_TrimsMarginsAndCalibrationAreTaken_4_b : ∃ (s : State) (lost : Bool), s.alive = true ∧ Canonical s :=
  ⟨full, false, by decide⟩

theorem witness_TrimsMarginsAndCalibrationAreTaken_5 : ∃ (s : State) (wr : RegWr) (src : Nat), s.alive = true ∧ Canonical s ∧ s.view.addresses wr .CAL [0x110] = true ∧ wr.fn = .pf ∧ wrote1 wr Reg.CAL_WRITE = true ∧ bitsOf (wr.data.toNat &&& beMask wr.be) 16 16 = 0xCA1B ∧ rd s Reg.CAL_WRITING = 0 ∧ src = rd s Reg.CAL_SRC_LO + rd s Reg.CAL_SRC_HI * 2 ^ 32 :=
  ⟨full, pf 0x5110 0xCA1B0001, 0, by decide⟩

theorem witness_TrimsMarginsAndCalibrationAreTaken_6_a : ∃ (s : State) (c : Bytes) (ok : Bool), s.alive = true ∧ Canonical s ∧ s.node.pw.calNew = some c :=
  ⟨{ full with node := { full.node with pw := { full.node.pw with calNew := some [1, 2] } } }, [1, 2], true, by decide⟩

theorem witness_TrimsMarginsAndCalibrationAreTaken_6_b : ∃ (s : State) (c : Bytes) (ok : Bool), s.alive = true ∧ Canonical s ∧ s.node.pw.calNew = some c :=
  ⟨{ full with node := { full.node with pw := { full.node.pw with calNew := some [1, 2] } } }, [1, 2], false, by decide⟩

theorem witness_UsageIsSampledAndStated_1 : ∃ (s : State) (n : Nat) (m : Meter16), s.alive = true ∧ n = rd s Reg.MTR_SAMPLE ∧ rd s Reg.MTR_EN ≠ 0 ∧ s.node.tk.now.toNat % n = 0 ∧ s.node.mt.lastSample ≠ some s.node.tk.now ∧ m ∈ s.node.mt.meters ∧ m.final = none ∧ m.cnt.length = 16 :=
  ⟨metering, 1024, { aMeter with cnt := List.replicate 16 5 }, by decide⟩

theorem witness_UsageIsSampledAndStated_2 : ∃ (s : State) (n : Nat), s.alive = true ∧ n = rd s Reg.MTR_SAMPLE ∧ (s.node.tk.now.toNat % n ≠ 0 ∨ rd s Reg.MTR_EN = 0 ∨ s.node.mt.lastSample = some s.node.tk.now) :=
  ⟨{ metering with node := { metering.node with tk := { metering.node.tk with now := 5 } } }, 1024, by decide⟩

theorem witness_UsageIsSampledAndStated_3 : ∃ (s : State) (m : Meter16) (keep : Nat), s.alive = true ∧ Canonical s ∧ rd s Reg.MTR_EN ≠ 0 ∧ s.node.tk.now.toNat % s.node.mt.period = 0 ∧ s.node.mt.lastClose ≠ some s.node.tk.now ∧ keep = rd s Reg.MTR_KEEP ∧ 1 ≤ keep ∧ keep ≤ 16 ∧ (s.node.mt.meters.map (·.part)).Nodup ∧ m ∈ s.node.mt.meters ∧ m.fenced = false ∧ m.final = none ∧ s.view.live m.part = true :=
  ⟨metering, { aMeter with cnt := List.replicate 16 5 }, rd metering Reg.MTR_KEEP, by decide⟩

theorem witness_TheCommonPartOfEveryPage_1_a : ∃ (s : State) (wr : RegWr) (page : Nat), s.alive = true ∧ Canonical s ∧ s.view.commonAt wr.fn wr.off = some (page, 0xC) ∧ (ownsCommon wr.fn page = true ∨ wr.fn = .pf) ∧ bitOf (wr.data.toNat &&& beMask wr.be) 1 = true :=
  ⟨errored, pf 0x200C 2, 2, by decide⟩

theorem witness_TheCommonPartOfEveryPage_1_b : ∃ (s : State) (wr : RegWr) (page : Nat), s.alive = true ∧ Canonical s ∧ s.view.commonAt wr.fn wr.off = some (page, 0xC) ∧ (ownsCommon wr.fn page = true ∨ wr.fn = .pf) ∧ bitOf (wr.data.toNat &&& beMask wr.be) 1 = true :=
  ⟨errored, pf 0x10300C 2, 0x103, by decide⟩

theorem witness_TheCommonPartOfEveryPage_2 : ∃ (s : State) (wr : RegWr) (page : Nat), s.alive = true ∧ Canonical s ∧ s.view.commonAt wr.fn wr.off = some (page, 0xC) ∧ ownsCommon wr.fn page = true ∧ bitOf (wr.data.toNat &&& beMask wr.be) 1 = false ∧ bitOf (beMask wr.be) 2 = true ∧ rd s Reg.BLK_FREEZE page ≤ 1 :=
  ⟨errored, pf 0x200C 4, 2, by decide⟩

theorem witness_TheCommonPartOfEveryPage_3 : ∃ (s : State) (wr : RegWr) (page : Nat), s.alive = true ∧ Canonical s ∧ s.view.commonAt wr.fn wr.off = some (page, 0x14) ∧ ownsCommon wr.fn page = true :=
  ⟨errored, pf 0x2014 1, 2, by decide⟩

theorem witness_TheCommonPartOfEveryPage_4 : ∃ (s : State) (wr : RegWr) (page : Nat), s.alive = true ∧ Canonical s ∧ s.view.commonAt wr.fn wr.off = some (page, 0x1C) ∧ ownsCommon wr.fn page = true :=
  ⟨errored, pf 0x201C 12, 2, by decide⟩

theorem witness_TheCommonPartOfEveryPage_5 : ∃ (s : State) (wr : RegWr) (page : Nat) (i : Nat), s.alive = true ∧ Canonical s ∧ s.view.commonAt wr.fn wr.off = some (page, 0x18) ∧ ownsCommon wr.fn page = true ∧ i < 32 ∧ bitOf (mergeBits (rd s Reg.BLK_IER page) (wr.data.toNat &&& beMask wr.be) (beMask wr.be) &&& isrMask page) i = true ∧ bitOf (rd s Reg.BLK_IER page) i = false ∧ bitOf (rd s Reg.BLK_ISR page) i = true ∧ s.view.msixMasked (pageVector page).1 (pageVector page).2 = false ∧ s.node.bo.busMaster = true ∧ (∀ h ∈ s.node.holdoffs, ¬ (h.fn = (pageVector page).1 ∧ h.vec = (pageVector page).2)) :=
  ⟨unmasked errored, pf 0x2018 1, 2, 0, by decide⟩

theorem witness_TheCommonPartOfEveryPage_6 : ∃ (s : State) (wr : RegWr) (page : Nat), s.alive = true ∧ Canonical s ∧ s.view.commonAt wr.fn wr.off = some (page, 0x18) ∧ ownsCommon wr.fn page = true ∧ rd s Reg.BLK_ISR page = 0 :=
  ⟨full, pf 0x2018 1, 2, by decide⟩

theorem witness_TheCommonPartOfEveryPage_7 : ∃ (s : State) (fn : Fn) (vec : Nat), s.alive = true ∧ (∀ h ∈ s.node.holdoffs, h.fn = fnNum fn → h.vec = vec → h.waiting = false) :=
  ⟨full, .pf, 3, by decide⟩

theorem witness_TheCommonPartOfEveryPage_8 : ∃ (s : State) (fn : Fn) (vec : Nat) (h : Holdoff), s.alive = true ∧ s.node.holdoffs.find? (fun h => h.fn = fnNum fn ∧ h.vec = vec) = some h ∧ h.waiting = true ∧ s.view.msixMasked (fnNum fn) vec = false ∧ s.node.bo.busMaster = true ∧ rd s Reg.GLB_HOLDOFF_NS ≠ 0 :=
  ⟨{ reg (unmasked full) Reg.GLB_HOLDOFF_NS 9 with node := { (unmasked full).node with holdoffs := [⟨0, 2, 0, true⟩] } }, .pf, 2, ⟨0, 2, 0, true⟩, by decide⟩

theorem witness_TheCommonPartOfEveryPage_9_a : ∃ (s : State) (fn : Fn) (vec : Nat), s.alive = true ∧ vec < 2048 ∧ (fnNum fn = 0 ∨ vec = 0 ∨ 63 < vec) :=
  ⟨full, .pf, 2, by decide⟩

theorem witness_TheCommonPartOfEveryPage_9_b : ∃ (s : State) (fn : Fn) (vec : Nat), s.alive = true ∧ vec < 2048 ∧ (fnNum fn = 0 ∨ vec = 0 ∨ 63 < vec) :=
  ⟨full, .vf 1, 64, by decide⟩

theorem witness_TheCommonPartOfEveryPage_10 : ∃ (s : State) (part : Nat) (vec : Nat), s.alive = true ∧ 1 ≤ vec ∧ vec ≤ 63 ∧ s.view.msixMasked (fnNum (.vf part)) vec = true :=
  ⟨full, 1, 63, by decide⟩

theorem witness_RegisterWritesAreWholeOrIgnored_1_a : ∃ (s : State) (wr : RegWr) (b : Block) (inst : Nat) (off : Nat) (idx : Nat) (f : Fld), s.alive = true ∧ Canonical s ∧ s.view.locate wr.fn wr.off = .reg b inst off ∧ wr.off % 4 = 0 ∧ (b, off) ∉ ownedRegisters ∧ (0x100 ≤ off ∨ b = .QCFG) ∧ idx = s.view.sel wr.fn b off ∧ s.view.refuse wr b inst idx off = none ∧ f ∈ regFields b off ∧ (f.acc = .rw ∨ f.acc = .rwl ∨ f.acc = .wo) :=
  ⟨full, pf 0x210C 3287070, .PWR, 0, 0x10C, 0, Reg.PWR_SLOPE, by decide⟩

theorem witness_RegisterWritesAreWholeOrIgnored_1_b : ∃ (s : State) (wr : RegWr) (b : Block) (inst : Nat) (off : Nat) (idx : Nat) (f : Fld), s.alive = true ∧ Canonical s ∧ s.view.locate wr.fn wr.off = .reg b inst off ∧ wr.off % 4 = 0 ∧ (b, off) ∉ ownedRegisters ∧ (0x100 ≤ off ∨ b = .QCFG) ∧ idx = s.view.sel wr.fn b off ∧ s.view.refuse wr b inst idx off = none ∧ f ∈ regFields b off ∧ (f.acc = .rw ∨ f.acc = .rwl ∨ f.acc = .wo) :=
  ⟨full, pf 0x4104 9, .MAR, 0, 0x104, 0, Reg.MAR_H_UI, by decide⟩

theorem witness_RegisterWritesAreWholeOrIgnored_2_a : ∃ (s : State) (wr : RegWr) (b : Block) (inst : Nat) (off : Nat) (idx : Nat) (code : Nat) (page : Nat), s.alive = true ∧ Canonical s ∧ s.view.locate wr.fn wr.off = .reg b inst off ∧ wr.off % 4 = 0 ∧ (b, off) ∉ ownedRegisters ∧ (0x100 ≤ off ∨ b = .QCFG) ∧ idx = s.view.sel wr.fn b off ∧ s.view.refuse wr b inst idx off = some code ∧ page = capturePage wr.fn b inst off :=
  ⟨full, pf 0x210C 3, .PWR, 0, 0x10C, 0, 0x4001, 2, by decide⟩

theorem witness_RegisterWritesAreWholeOrIgnored_2_b : ∃ (s : State) (wr : RegWr) (b : Block) (inst : Nat) (off : Nat) (idx : Nat) (code : Nat) (page : Nat), s.alive = true ∧ Canonical s ∧ s.view.locate wr.fn wr.off = .reg b inst off ∧ wr.off % 4 = 0 ∧ (b, off) ∉ ownedRegisters ∧ (0x100 ≤ off ∨ b = .QCFG) ∧ idx = s.view.sel wr.fn b off ∧ s.view.refuse wr b inst idx off = some code ∧ page = capturePage wr.fn b inst off :=
  ⟨errored, pf 0x210C 3, .PWR, 0, 0x10C, 0, 0x4001, 2, by decide⟩

theorem witness_RegisterWritesAreWholeOrIgnored_3 : ∃ (s : State) (wr : RegWr) (b : Block) (inst : Nat) (off : Nat), s.alive = true ∧ s.view.locate wr.fn wr.off = .reg b inst off ∧ wr.off % 4 = 0 ∧ 0x100 ≤ off ∧ b ≠ .PWR ∧ b ≠ .MIR ∧ (∀ f ∈ regFields b off, fieldEnabled wr f = true → f.acc = .ro ∨ f.acc = .rs) :=
  ⟨full, pf 0x104 7, .GLB, 0, 0x104, by decide⟩

theorem witness_RegisterWritesAreWholeOrIgnored_4_a : ∃ (s : State) (wr : RegWr) (b : Block) (inst : Nat) (off : Nat), s.alive = true ∧ s.view.locate wr.fn wr.off = .reg b inst off ∧ wr.off % 4 = 0 ∧ (b, off) ∈ ownedRegisters ∧ (b = .QUE → off = 0x104 → s.view.merged wr 0 (fnNum wr.fn) Reg.QUE_OP ∈ [1, 2, 3]) ∧ (b = .PART → off = 0x104 → s.view.merged wr 0 0 Reg.PART_OP ∈ [1, 2, 3]) :=
  ⟨full, pf 0x114 0xB0070001, .GLB, 0, 0x114, by decide⟩

theorem witness_RegisterWritesAreWholeOrIgnored_4_b : ∃ (s : State) (wr : RegWr) (b : Block) (inst : Nat) (off : Nat), s.alive = true ∧ s.view.locate wr.fn wr.off = .reg b inst off ∧ wr.off % 4 = 0 ∧ (b, off) ∈ ownedRegisters ∧ (b = .QUE → off = 0x104 → s.view.merged wr 0 (fnNum wr.fn) Reg.QUE_OP ∈ [1, 2, 3]) ∧ (b = .PART → off = 0x104 → s.view.merged wr 0 0 Reg.PART_OP ∈ [1, 2, 3]) :=
  ⟨full, mail 3 5 1, .QUE, 0, 0x104, by decide⟩

theorem witness_RegisterWritesAreWholeOrIgnored_5_a : ∃ (s : State) (wr : RegWr) (inst : Nat) (page : Nat), s.alive = true ∧ Canonical s ∧ s.view.locate wr.fn wr.off = .reg .QUE inst 0x104 ∧ wr.off % 4 = 0 ∧ s.view.merged wr 0 (fnNum wr.fn) Reg.QUE_OP ∉ [1, 2, 3] ∧ (∃ f ∈ regFields .QUE 0x104, fieldEnabled wr f = true) ∧ page = capturePage wr.fn .QUE inst 0x104 :=
  ⟨full, mail 4 5 1, 0, 0x77, by decide⟩

theorem witness_RegisterWritesAreWholeOrIgnored_5_b : ∃ (s : State) (wr : RegWr) (inst : Nat) (page : Nat), s.alive = true ∧ Canonical s ∧ s.view.locate wr.fn wr.off = .reg .QUE inst 0x104 ∧ wr.off % 4 = 0 ∧ s.view.merged wr 0 (fnNum wr.fn) Reg.QUE_OP ∉ [1, 2, 3] ∧ (∃ f ∈ regFields .QUE 0x104, fieldEnabled wr f = true) ∧ page = capturePage wr.fn .QUE inst 0x104 :=
  ⟨full, mail 0 5 1, 0, 0x77, by decide⟩

theorem witness_RegisterWritesAreWholeOrIgnored_6 : ∃ (s : State) (wr : RegWr) (inst : Nat) (page : Nat), s.alive = true ∧ Canonical s ∧ s.view.locate wr.fn wr.off = .reg .PART inst 0x104 ∧ wr.off % 4 = 0 ∧ s.view.merged wr 0 0 Reg.PART_OP ∉ [1, 2, 3] ∧ (∃ f ∈ regFields .PART 0x104, fieldEnabled wr f = true) ∧ page = capturePage wr.fn .PART inst 0x104 :=
  ⟨full, cmd 4 1 7, 0, capturePage .pf .PART 0 0x104, by decide, by decide, by decide, by decide, by decide, ⟨Reg.PART_OP, by decide⟩, rfl⟩

theorem witness_RegisterWritesAreWholeOrIgnored_7 : ∃ (s : State) (wr : RegWr), s.alive = true ∧ Canonical s ∧ wr.off % 4 ≠ 0 :=
  ⟨full, pf 0x2102 1, by decide⟩

theorem witness_RegisterWritesAreWholeOrIgnored_8 : ∃ (s : State) (wr : RegWr) (d : Nat), s.alive = true ∧ s.view.locate wr.fn wr.off = .msixTable d ∧ wr.off % 4 = 0 ∧ d % 4 ≠ 3 :=
  ⟨full, pf 0x400008 9, 2, by decide⟩

theorem witness_RegisterWritesAreWholeOrIgnored_9 : ∃ (s : State) (fn : Fn) (off : Nat), s.alive = true ∧ off % 4 = 0 :=
  ⟨full, .pf, 0x2104, by decide⟩

theorem witness_RegisterWritesAreWholeOrIgnored_10 : ∃ (s : State), s.alive = true :=
  ⟨{ full with node := { full.node with tk := { full.node.tk with now := 0x700000009 } } }, by decide⟩

theorem witness_RegisterWritesAreWholeOrIgnored_11 : ∃ (s : State) (fn : Fn) (place : ReadAt) (off : Nat) (len : Nat), s.alive = true ∧ Canonical s ∧ off = readOff place ∧ off % 4 ≠ 0 ∧ 4 < off % 4 + len :=
  ⟨full, .pf, .reg 0x2102, 0x2102, 4, by decide⟩

theorem witness_RegisterWritesAreWholeOrIgnored_12 : ∃ (s : State) (fn : Fn) (q : Nat) (i : Nat), s.alive = true ∧ i < 1024 :=
  ⟨queued 4 0 0, .vf 1, 5, 3, by decide⟩

theorem witness_MirrorStreamsAreSeededSentAndLost_1 : ∃ (s : State) (wr : RegWr) (inst : Nat) (p : Nat) (v : Work), s.alive = true ∧ Canonical s ∧ Lands s wr .MIR 0x124 inst p ∧ v = (s.view.busWrite wr).w ∧ v.flag Reg.MIR_MIRROR 0 p = true ∧ v.get Reg.MIR_UNDERSTUDY ≠ 0xFFFF ∧ v.understudyConn.isSome = true ∧ (∀ x ∈ s.view.streamOf p, x.state = .off) :=
  ⟨mirroring, pf 0x74124 1, 0, 1, (mirroring.view.busWrite (pf 0x74124 1)).w, by decide⟩

theorem witness_MirrorStreamsAreSeededSentAndLost_2 : ∃ (s : State) (wr : RegWr) (inst : Nat) (p : Nat) (v : Work), s.alive = true ∧ Canonical s ∧ Lands s wr .MIR 0x124 inst p ∧ v = (s.view.busWrite wr).w ∧ v.flag Reg.MIR_MIRROR 0 p = true ∧ v.get Reg.MIR_UNDERSTUDY ≠ 0xFFFF ∧ v.understudyConn = none ∧ (∀ x ∈ s.view.streamOf p, x.state = .off) :=
  ⟨unpaired, pf 0x74124 1, 0, 1, (unpaired.view.busWrite (pf 0x74124 1)).w, by decide⟩

theorem witness_MirrorStreamsAreSeededSentAndLost_3 : ∃ (s : State) (wr : RegWr) (inst : Nat) (p : Nat) (st : Stream), s.alive = true ∧ Canonical s ∧ Lands s wr .MIR 0x124 inst p ∧ (s.view.busWrite wr).w.flag Reg.MIR_MIRROR 0 p = false ∧ s.view.streamOf p = some st ∧ st.state ≠ .off :=
  ⟨withStream anyStream, pf 0x74124 0, 0, 1, anyStream, by decide⟩

theorem witness_MirrorStreamsAreSeededSentAndLost_4 : ∃ (s : State) (wr : RegWr) (inst : Nat) (idx : Nat) (p : Nat) (new : Nat), s.alive = true ∧ Canonical s ∧ Lands s wr .MIR 0x104 inst idx ∧ new = s.view.merged wr 0 0 Reg.MIR_UNDERSTUDY ∧ new ≠ rd s Reg.MIR_UNDERSTUDY ∧ new ≠ 0xFFFF ∧ p < 64 ∧ rd s Reg.MIR_MIRROR 0 p ≠ 0 :=
  ⟨withStream anyStream, pf 0x74104 8, 0, 0, 1, 8, by decide⟩

theorem witness_MirrorStreamsAreSeededSentAndLost_5_a : ∃ (s : State) (p : Nat) (rows : Nat) (c : Nat) (blocks : List (Nat × Bytes)) (imgs : List Bytes) (st : Stream) (b : Batch) (cn : Conn), s.alive = true ∧ Canonical s ∧ s.view.streamOf p = some st ∧ rd s Reg.MIR_EN ≠ 0 ∧ st.state ≠ .off ∧ st.state ≠ .unavailable ∧ st.state ≠ .behind ∧ (st.batches.find? fun x => !x.sent) = some b ∧ rows = (imgs.map imageRows).sum ∧ (packBlocks (blocks.map (·.2))).1.length ≤ 255 ∧ ((b.runs = [] ∧ blocks = [] ∧ imgs = []) ∨ (b.runs ≠ [] ∧ cutRuns b.runs (blocks.map (·.1)) = some imgs ∧ ∃ die, s.view.rowsDie = some die ∧ s.view.cmpRun die = none ∧ ∀ x ∈ imgs.zip (blocks.map (·.2)), rowsVerify p x.1 x.2 = true)) ∧ s.view.understudyConn = some c ∧ s.view.connOf c = some cn ∧ cn.state = .active ∧ s.view.route cn.peerNode ≠ 0 :=
  ⟨withStream anyStream, 1, 0, 2, [], [], anyStream, aBatchOut, theConn0, by decide⟩

theorem witness_MirrorStreamsAreSeededSentAndLost_5_b : ∃ (s : State) (p : Nat) (rows : Nat) (c : Nat) (blocks : List (Nat × Bytes)) (imgs : List Bytes) (st : Stream) (b : Batch) (cn : Conn), s.alive = true ∧ Canonical s ∧ s.view.streamOf p = some st ∧ rd s Reg.MIR_EN ≠ 0 ∧ st.state ≠ .off ∧ st.state ≠ .unavailable ∧ st.state ≠ .behind ∧ (st.batches.find? fun x => !x.sent) = some b ∧ rows = (imgs.map imageRows).sum ∧ (packBlocks (blocks.map (·.2))).1.length ≤ 255 ∧ ((b.runs = [] ∧ blocks = [] ∧ imgs = []) ∨ (b.runs ≠ [] ∧ cutRuns b.runs (blocks.map (·.1)) = some imgs ∧ ∃ die, s.view.rowsDie = some die ∧ s.view.cmpRun die = none ∧ ∀ x ∈ imgs.zip (blocks.map (·.2)), rowsVerify p x.1 x.2 = true)) ∧ s.view.understudyConn = some c ∧ s.view.connOf c = some cn ∧ cn.state = .active ∧ s.view.route cn.peerNode ≠ 0 :=
  ⟨withStream rowStream, 1, 1, 2, [(1, rowBlock)], [aRunBytes], rowStream, rowBatch, theConn0, by decide, by decide, by decide, by decide, by decide, by decide, by decide, by decide, by decide, by decide, .inr ⟨by decide, by decide, 0, by decide⟩, by decide⟩

theorem witness_MirrorStreamsAreSeededSentAndLost_6 : ∃ (s : State) (p : Nat) (ci : Nat) (c : Nat) (rest : List Nat) (blocks : List (Nat × Bytes)) (out : List Bytes) (st : Stream) (x : Course) (cn : Conn), s.alive = true ∧ Canonical s ∧ s.view.streamOf p = some st ∧ rd s Reg.MIR_EN ≠ 0 ∧ st.state ≠ .off ∧ st.state ≠ .unavailable ∧ st.state ≠ .behind ∧ (∀ b ∈ st.batches, b.sent = true) ∧ st.toSeed = ci :: rest ∧ s.view.course ci = some x ∧ (match x.loc with | .hbm _ => s.view.badPages x = [] ∧ ∃ die, s.view.compressorOf x = some die ∧ s.view.cmpRun die = none ∧ (s.view.courseRun (.spill 0) x).allowed 0 (blocks.map (·.2)) = true ∧ ((s.view.showRatio (s.view.courseRun (.spill 0) x)).emitCourse die (s.view.courseRun (.spill 0) x) 0 (blocks.map (·.2))).1 = some out | l => blocks.map (·.2) = l.blks.map (s.view.blkBytes l) ∧ out = blocks.map (·.2)) ∧ (packBlocks out).1.length ≤ 255 ∧ s.view.understudyConn = some c ∧ s.view.connOf c = some cn ∧ cn.state = .active ∧ s.view.route cn.peerNode ≠ 0 :=
  ⟨seedingCourse, 1, 2, 2, [], [], [], { anyStream with batches := [], toSeed := [2] }, { theCourse with loc := .ddr [] }, theConn0, by decide⟩

theorem witness_MirrorStreamsAreSeededSentAndLost_7 : ∃ (s : State) (p : Nat) (si : Nat) (cid : DWord) (st : Stream) (x : Session), s.alive = true ∧ Canonical s ∧ s.view.streamOf p = some st ∧ st.state ≠ .off ∧ st.state ≠ .unavailable ∧ st.unseeded.head? = some cid ∧ (∀ r ∈ s.node.mi.homeOps, r.op = .setUnderstudy → r.part ≠ p) ∧ ((s.node.pg.sessions.find? fun e => e.2.part = p && e.2.cid = cid && e.2.mirrorState != 2) = some (si, x)) ∧ { st with unseeded := st.unseeded.filter (· != cid) }.seededSession x = true ∧ (∀ b ∈ st.batches, b.seq = 0 → b.courses = [] → bitOf b.flags 0 = true → bitOf b.flags 1 = true) :=
  ⟨seeded, 1, 0, 77, { anyStream with batches := [], unseeded := [77] }, theSession, by decide⟩

theorem witness_MirrorStreamsAreSeededSentAndLost_8 : ∃ (s : State) (p : Nat) (st : Stream) (b : Batch), s.alive = true ∧ Canonical s ∧ s.view.streamOf p = some st ∧ (st.state = .seeding ∨ st.state = .streaming) ∧ b ∈ st.batches ∧ s.view.understudyConn.isSome = true ∧ Tick.earlier b.tick s.node.tk.now = true ∧ rd s Reg.MIR_ACK_GRACE + 1 < ticksTo b.tick s.node.tk.now :=
  ⟨late (withStream anyStream), 1, anyStream, aBatchOut, by decide⟩

theorem witness_MirrorStreamsAreSeededSentAndLost_9 : ∃ (s : State) (p : Nat) (st : Stream), s.alive = true ∧ Canonical s ∧ s.view.streamOf p = some st ∧ st.state = .behind ∧ (rd s Reg.MIR_MIB * 2 ^ 20 < st.held ∨ rd s Reg.MIR_LOST_MS * 1000000000 ≤ s.node.tk.upPs - max st.lastAck st.since) :=
  ⟨late (withStream { anyStream with state := .behind }), 1, { anyStream with state := .behind }, by decide⟩

theorem witness_MirrorStreamsAreSeededSentAndLost_10 : ∃ (s : State) (p : Nat) (st : Stream), s.alive = true ∧ Canonical s ∧ s.view.streamOf p = some st ∧ st.state = .unavailable ∧ s.view.mirrored p = true ∧ s.view.understudyConn.isSome = true ∧ rd s Reg.MIR_LOST_MS * 1000000000 ≤ s.node.tk.upPs - st.since :=
  ⟨late (withStream { anyStream with state := .unavailable }), 1, { anyStream with state := .unavailable }, by decide⟩

theorem witness_CommitsRestoresAndOwnershipTimers_1 : ∃ (s : State) (src : Src) (desc : Bytes) (m : Bytes) (p : Nat) (si : Nat) (se : Session) (st : Stream), s.alive = true ∧ s.view.partOf src = some p ∧ m = srcBytes src [4, 4, 8, 4, 4, 8] desc ∧ s.view.srcOk src = true ∧ s.view.staleSrc src = false ∧ s.view.live p = true ∧ s.view.isDark = false ∧ quietSrc s src ∧ NamesSession s p (fieldAt m 0 4) si se ∧ se.cid.toNat = fieldAt m 8 8 ∧ se.state = .open ∧ desc.length = 32 ∧ zeroAt m 4 4 = true ∧ zeroAt m 0x18 8 = true ∧ s.view.streamOf p = some st ∧ st.state ≠ .off ∧ s.view.mirrored p = true ∧ (st.state = .unavailable ∨ s.view.understudyConn.isSome = true) :=
  ⟨committable, .conn 3 5, wire [4, 4, 8, 4, 4, 8] commitMem, commitMem, 1, 0, theSession, anyStream, by decide⟩

theorem witness_CommitsRestoresAndOwnershipTimers_2 : ∃ (s : State) (id : Nat) (msn : Nat) (desc : Bytes) (m : Bytes) (p : Nat) (si : Nat) (se : Session), s.alive = true ∧ Canonical s ∧ s.view.partOf (.conn id msn) = some p ∧ m = srcBytes (.conn id msn) [4, 4, 8, 4, 4, 8] desc ∧ s.view.srcOk (.conn id msn) = true ∧ s.view.staleSrc (.conn id msn) = false ∧ s.view.live p = true ∧ s.view.isDark = false ∧ NamesSession s p (fieldAt m 0 4) si se ∧ se.cid.toNat = fieldAt m 8 8 ∧ se.state = .open ∧ desc.length = 32 ∧ zeroAt m 4 4 = true ∧ zeroAt m 0x18 8 = true ∧ (∀ st ∈ s.view.streamOf p, st.state = .off) ∧ quietMsgs s id msn :=
  ⟨committable0, 3, 5, wire [4, 4, 8, 4, 4, 8] commitMem, commitMem, 1, 0, theSession, by decide⟩

theorem witness_CommitsRestoresAndOwnershipTimers_3 : ∃ (s : State) (id : Nat) (msn : Nat) (st : Stream) (c : CommitWait) (cn : Conn), s.alive = true ∧ Canonical s ∧ s.node.mi.streams.find? (fun x => x.waits.any fun y => y.src = .conn id msn) = some st ∧ st.waits.find? (fun y => y.src = .conn id msn) = some c ∧ rd s Reg.MIR_COMMIT_WAIT ≤ ticksTo c.arrival s.node.tk.now ∧ s.view.connOf id = some cn ∧ cn.msnIsDone msn = false ∧ quietMsgs s id msn :=
  ⟨waitingCommit, 3, 5, { anyStream with waits := [⟨.conn 3 5, 9, 0, 0, [], some 0⟩] }, ⟨.conn 3 5, 9, 0, 0, [], some 0⟩, theConn, by decide⟩

theorem witness_CommitsRestoresAndOwnershipTimers_4 : ∃ (s : State) (ci : Nat) (c : Nat) (t0 : Tick) (x : Course) (st : Stream) (cn : Conn), s.alive = true ∧ Canonical s ∧ (s.node.mi.restores.find? fun r => r.1 = ci) = some (ci, t0) ∧ s.view.course ci = some x ∧ s.view.streamOf x.part = some st ∧ st.state = .streaming ∧ rd s Reg.MIR_EN ≠ 0 ∧ s.view.ackedThrough st t0 = true ∧ (∀ b ∈ st.batches, b.sent = true ∧ b.fetch ≠ some ci) ∧ s.view.understudyConn = some c ∧ s.view.connOf c = some cn ∧ cn.state = .active ∧ s.view.route cn.peerNode ≠ 0 :=
  ⟨restoring, 2, 2, 3, theCourse, { anyStream with batches := [] }, theConn0, by decide⟩

theorem witness_CommitsRestoresAndOwnershipTimers_5 : ∃ (s : State) (si : Nat) (id : Nat) (msn : Nat) (tag : Nat) (x : Session) (cn : Conn), s.alive = true ∧ Canonical s ∧ s.view.session si = some x ∧ x.own = .claiming ∧ x.waiting = some (.conn id msn, tag) ∧ rd s Reg.MIR_HOME_WAIT ≤ ticksTo x.waitTick s.node.tk.now ∧ s.view.connOf id = some cn ∧ cn.msnIsDone msn = false ∧ quietMsgs s id msn :=
  ⟨claimingOne, 0, 3, 5, 9, { theSession with own := .claiming, waiting := some (.conn 3 5, 9) }, theConn, by decide⟩

theorem witness_CommitsRestoresAndOwnershipTimers_6 : ∃ (s : State) (e : Nat), s.alive = true ∧ Canonical s ∧ s.node.mi.leaseEndPs = some e ∧ e ≤ s.node.tk.upPs + s.view.periodPs :=
  ⟨withMi full { full.node.mi with leaseEndPs := some 5 }, 5, by decide⟩

theorem witness_CommitsRestoresAndOwnershipTimers_7 : ∃ (s : State) (e : Nat), s.alive = true ∧ s.node.mi.leaseEndPs = some e ∧ s.node.tk.upPs + s.view.periodPs < e :=
  ⟨withMi full { full.node.mi with leaseEndPs := some 50000000 }, 50000000, by decide⟩

theorem witness_CommitsRestoresAndOwnershipTimers_8 : ∃ (s : State) (si : Nat) (x : Session) (r : HomeRun), s.alive = true ∧ Canonical s ∧ s.view.session si = some x ∧ s.view.homeRun si = some r ∧ x.own ≠ .claiming ∧ x.orphan = false ∧ rd s Reg.MIR_MS * 1000000000 ≤ s.node.tk.upPs - r.startedPs :=
  ⟨orphaning, 0, { theSession with own := .unconfirmed }, aRun, by decide⟩

theorem witness_FusedSvnOnlyRises_1 : ∃ (c : Instr) (s : State) (t : State), exec c s = .next t :=
  ⟨.heatDecay, full, _, rfl⟩

theorem witness_FusedSvnOnlyRises_2 : ∃ (c : Instr) (s t : State), exec c s = .next t ∧ t.svnFuse ≠ s.svnFuse :=
  ⟨.svnCommit (pf 0x8104 2), reg full Reg.SEC_SVN_IMAGE 4, _, rfl, by decide⟩

theorem witness_FusedSvnOnlyRises_3 : ∃ (s : State) (wr : RegWr) (inst : Nat) (idx : Nat), s.alive = true ∧ Lands s wr .SEC 0x104 inst idx ∧ wrote1 wr Reg.SEC_SVN_COMMIT = true ∧ s.svnFuse ≤ rd s Reg.SEC_SVN_IMAGE :=
  ⟨reg full Reg.SEC_SVN_IMAGE 4, pf 0x8104 2, 0, 0, by decide⟩

theorem witness_FusedSvnOnlyRises_4 : ∃ (s : State) (image : Nat), s.alive = true ∧ s.view.nextImage = some image ∧ fieldAt (s.view.bytes (flashKey (imageFlash image)) 4096) 6 1 < s.svnFuse :=
  ⟨{ up with svnFuse := 1 }, 0, by decide⟩

theorem witness_ReadRegReadsAsBar0Does_1 : ∃ (s : State) (f : Frame) (r : MgReq) (offs : List Nat), s.alive = true ∧ Canonical s ∧ requestOf s f 0x20 Reg.MG_R = some r ∧ r.body = leBytes 4 offs.length ++ (offs.map (leBytes 4)).flatten ∧ 1 ≤ offs.length ∧ offs.length ≤ 256 ∧ (∀ o ∈ offs, o < 2 ^ 32 ∧ o % 4 = 0) :=
  ⟨{ managed full with node := { (managed full).node with tk := { (managed full).node.tk with now := 0x700000009 } } }, asks { managed full with node := { (managed full).node with tk := { (managed full).node.tk with now := 0x700000009 } } } 0x20 0 0 (leBytes 4 2 ++ leBytes 4 0x1118 ++ leBytes 4 0x111C), asked { managed full with node := { (managed full).node with tk := { (managed full).node.tk with now := 0x700000009 } } } 0x20 0 0 (leBytes 4 2 ++ leBytes 4 0x1118 ++ leBytes 4 0x111C), [0x1118, 0x111C], by decide, by decide, request_read rfl (by decide), by decide, by decide⟩

theorem witness_ReadRegReadsAsBar0Does_2 : ∃ (s : State) (f : Frame) (r : MgReq) (offs : List Nat), s.alive = true ∧ Canonical s ∧ requestOf s f 0x20 Reg.MG_R = some r ∧ r.body = leBytes 4 offs.length ++ (offs.map (leBytes 4)).flatten ∧ 1 ≤ offs.length ∧ offs.length ≤ 256 ∧ ((∀ o ∈ offs, o < 2 ^ 32) ∧ ∃ o ∈ offs, o % 4 ≠ 0) :=
  ⟨managed full, asks (managed full) 0x20 0 0 (leBytes 4 2 ++ leBytes 4 0x1118 ++ leBytes 4 0x1119), asked (managed full) 0x20 0 0 (leBytes 4 2 ++ leBytes 4 0x1118 ++ leBytes 4 0x1119), [0x1118, 0x1119], by decide, by decide, request_read rfl (by decide), by decide, by decide⟩

theorem witness_ReadRegReadsAsBar0Does_3 : ∃ (w : Work) (b : Block) (inst o off : Nat), o % 4 = 0 ∧ w.locate .pf o = .reg b inst off ∧
    (0x100 ≤ off ∨ b = .QCFG) ∧ regFields b off ≠ [] ∧ ∀ x ∈ regFields b off, x.acc = .wo :=
  ⟨full.view, .SEC, 0, 0x8110, 0x110, by decide⟩

theorem witness_SmallBurstsAreRefused_1 : ∃ (s : State) (wr : RegWr), s.alive = true ∧ Canonical s ∧ s.view.addresses wr .SCH [0x120] = true ∧ fieldEnabled wr Reg.SCH_BURST = true ∧ s.view.merged wr 0 (s.view.sel wr.fn .SCH 0x120) Reg.SCH_BURST < 17 ∧ rd s Reg.BLK_ISR 0x72 % 2 = 0 :=
  ⟨full, pf 0x72120 16, by decide⟩

theorem witness_SmallBurstsAreRefused_2 : ∃ (s : State) (wr : RegWr), s.alive = true ∧ Canonical s ∧ s.view.addresses wr .SCH [0x120] = true ∧ fieldEnabled wr Reg.SCH_BURST = true ∧ s.view.merged wr 0 (s.view.sel wr.fn .SCH 0x120) Reg.SCH_BURST < 17 ∧ rd s Reg.BLK_ISR 0x72 % 2 = 1 :=
  ⟨reg full Reg.BLK_ISR 1 0x72, pf 0x72120 16, by decide⟩

theorem witness_SmallBurstsAreRefused_3 : ∃ (s : State) (wr : RegWr) (v : Nat), s.alive = true ∧ Canonical s ∧ s.view.addresses wr .SCH [0x120] = true ∧ fieldEnabled wr Reg.SCH_BURST = true ∧ v = s.view.merged wr 0 (s.view.sel wr.fn .SCH 0x120) Reg.SCH_BURST ∧ 17 ≤ v :=
  ⟨full, pf 0x72120 17, 17, by decide⟩

theorem witness_OnlyTheirOwnCommandsMoveTheTickAndTheKeys_1 : ∃ (c : Instr) (s t : State), exec c s = .next t ∧ resetsNode c = false ∧
    movesTick c = false ∧ t ≠ s :=
  ⟨.svnCommit (pf 0x8104 2), full, _, rfl, by decide, by decide, by decide⟩

theorem witness_OnlyTheirOwnCommandsMoveTheTickAndTheKeys_5 : ∃ (c : Instr) (s t : State), exec c s = .next t ∧ resetsNode c = false ∧
    t.node.frozen ≠ s.node.frozen :=
  ⟨.freezeWrite (pf 0x200C 4), errored, _, rfl, by decide, by decide⟩

theorem witness_OnlyTheirOwnCommandsMoveTheTickAndTheKeys_2 : ∃ (c : Instr) (s t : State), exec c s = .next t ∧ resetsNode c = false ∧
    t.node.se.fkek ≠ s.node.se.fkek :=
  ⟨.fkekWrite (pf 0x812C 9), full, _, rfl, by decide, by decide⟩

theorem witness_OnlyTheirOwnCommandsMoveTheTickAndTheKeys_3 : ∃ (c : Instr) (s t : State), exec c s = .next t ∧ resetsNode c = false ∧
    t.node.mt.key ≠ s.node.mt.key :=
  ⟨.mkWrite (pf 0x619C 9), full, _, rfl, by decide, by decide⟩

theorem witness_OnlyTheirOwnCommandsMoveTheTickAndTheKeys_4 : ∃ (c : Instr) (s t : State), exec c s = .next t ∧ resetsNode c = false ∧
    t.node.se.strikeCount ≠ s.node.se.strikeCount :=
  ⟨.partStrike (cmd 2 1 9), reg oneCourse Reg.PP_STATE 1 1, _, rfl, by decide, by decide⟩

theorem witness_CommandsThatStoreNothingLeaveMemory : ∃ (c : Instr) (s t : State) (a : Nat), storesNothing c = true ∧ exec c s = .next t ∧
    outsideRing a ∧ byteAt s a ≠ 0 :=
  ⟨.svnCommit (pf 0x8104 2), hostMem full 28672 [1, 2, 3], _, 28672, by decide, rfl, by decide, by decide⟩

end Sys2Proof.Tests
end

section
/-!
SUPPORT. What a report leaves at each register key and in memory, and what an error capture holds (R490, R497).
-/

namespace Sys2Proof.Laws

open Sys2Proof.Machine Sys2Proof.Safety

/-! ## Register keys that an operation leaves -/

/-- `b` has written at a key just what `a` has. -/
def SameAt (k : Nat) (a b : Work) : Prop := b.rw.find? (fun e => e.1 = k) = a.rw.find? (fun e => e.1 = k)

theorem SameAt.refl (k : Nat) (w : Work) : SameAt k w w := rfl

theorem SameAt.trans {k : Nat} {a b c : Work} (h : SameAt k a b) (g : SameAt k b c) : SameAt k a c := Eq.trans g h

theorem SameAt.shows {f : Fld} {v i j : Nat} {a b : Work} (h : SameAt (f.key i j) a b) (hs : Shows a f v i j) : Shows b f v i j :=
  Eq.trans h hs

theorem Reports.sameAt {a b : Work} (h : Reports a b) {k : Nat} (hk : Plain k) : SameAt k a b := h.rw_ k hk

/-- A field that a command has not written shows afterwards what it showed before. -/
theorem SameAt.rd {s : State} (hs : RegFile.wf s.regs = true) {w : Work} (hw : w.wiped = false) {f : Fld} {i j : Nat}
    (h : SameAt (f.key i j) s.view w) : rd (s.close w) f i j = rd s f i j := by
  have hn : w.rw.find? (fun e => e.1 = f.key i j) = none := h
  rw [rd_close hs w hw, hn]

/-- A field that `b` has not written since `a` reads in both alike. -/
theorem SameAt.get {a b : Work} {f : Fld} {i j : Nat} (h : SameAt (f.key i j) a b) (hr : b.regs = a.regs) :
    b.get f i j = a.get f i j := by
  unfold SameAt at h
  unfold Work.get Work.raw
  rw [h, hr]

/-- Fields at different offsets of their pages have different keys, whatever their page and selection. -/
theorem key_ne_of_off {f g : Fld} (i j a b : Nat) (hf : f.off < 4096 ∧ f.lo < 32) (hg : g.off < 4096 ∧ g.lo < 32)
    (h : g.off ≠ f.off) : g.key a b ≠ f.key i j := by
  intro e
  have := key_off g a b hg.1 hg.2
  rw [e, key_off f i j hf.1 hf.2] at this
  exact h this.symm

theorem sameAt_set (w : Work) (f : Fld) (v i j : Nat) {k : Nat} (h : f.key i j ≠ k) : SameAt k w (w.set f v i j) := by
  unfold SameAt
  rw [set_rw, List.find?_cons_of_neg]
  simpa only [decide_eq_true_eq] using h

theorem SameAt.set {k : Nat} {a w : Work} (h : SameAt k a w) (f : Fld) (v i j : Nat) (hk : f.key i j ≠ k) :
    SameAt k a (w.set f v i j) := h.trans (sameAt_set w f v i j hk)

theorem SameAt.count {k : Nat} {a w : Work} (h : SameAt k a w) (f : Fld) (v i j : Nat) (hk : f.key i j ≠ k) :
    SameAt k a (w.count f v i j) := h.set f _ i j hk

theorem SameAt.store {k : Nat} {a w : Work} (h : SameAt k a w) (x : Nat) (bs : Bytes) : SameAt k a (w.store x bs) := h

theorem SameAt.ite {k : Nat} {a b c : Work} {p : Prop} [Decidable p] (hb : SameAt k a b) (hc : SameAt k a c) :
    SameAt k a (if p then b else c) := by
  split
  · exact hb
  · exact hc

/-- A signal writes no register (R492). -/
theorem sameAt_signal (k : Nat) (w : Work) (fn vec : Nat) : SameAt k w (w.signal fn vec) := by
  have hm : SameAt k w (w.msixSend fn vec) := by
    unfold Work.msixSend
    exact SameAt.ite rfl (SameAt.ite rfl rfl)
  unfold Work.signal
  split
  · rfl
  · exact SameAt.ite hm hm

/-- Setting an interrupt bit of a page writes its BLK_ISR and BLK_TICK alone (R491). -/
theorem sameAt_isr (w : Work) (page bit : Nat) {k : Nat} (hi : Reg.BLK_ISR.key page 0 ≠ k) (ht : Reg.BLK_TICK.key page 0 ≠ k) :
    SameAt k w (w.isr page bit) := by
  unfold Work.isr
  simp only
  split
  · exact SameAt.refl k w
  · have h := ((SameAt.refl k w).set Reg.BLK_ISR (w.get Reg.BLK_ISR page + 2 ^ bit) page 0 hi).set Reg.BLK_TICK
      (w.set Reg.BLK_ISR (w.get Reg.BLK_ISR page + 2 ^ bit) page).now32 page 0 ht
    split
    · exact h.trans (sameAt_signal k _ _ _)
    · exact h

/-- The prompt book writes registers of its own page alone (R410). -/
theorem sameAt_logRaw (w : Work) (bs : Bytes) {k : Nat} (hk : k / 2 ^ 37 ≠ 0xB) : SameAt k w (w.logRaw bs) := by
  have ne : ∀ f : Fld, f.blk = .LOG ∧ f.off < 4096 ∧ f.lo < 32 → f.key 0 0 ≠ k := by
    rintro f ⟨hb, ho, hl⟩ rfl
    rw [key_page f 0 ho hl, hb] at hk
    exact hk rfl
  have begun : ∀ x : Work, SameAt k w x → SameAt k w (((x.set Reg.LOG_NEWEST w.n.logSeq).set Reg.LOG_OLDEST_SRAM
      (w.n.logSeq + 1 - 4096)).set Reg.LOG_OLDEST_RING (w.n.logSeq + 1 - 2097152)) := fun x h =>
    ((h.set _ _ _ _ (ne _ (by decide))).set _ _ _ _ (ne _ (by decide))).set _ _ _ _ (ne _ (by decide))
  have ended : ∀ x : Work, SameAt k w x → SameAt k w (((if x.flag Reg.HBM_IN_SERVICE 0 then
      x.store (ringBase + w.n.logSeq % 2097152 * 32) bs else x).set Reg.LOG_RING_NEXT
      ((w.n.logSeq % 2097152 + 1) % 2097152)).count Reg.LOG_WRITTEN) := fun x h =>
    (((h.store _ _).ite h).set _ _ _ _ (ne _ (by decide))).count _ _ _ _ (ne _ (by decide))
  unfold Work.logRaw
  simp only
  split
  · refine SameAt.count ?_ _ _ _ _ (ne _ (by decide))
    exact ended _ (begun _ rfl)
  · exact ended _ (begun _ rfl)

/-- Logging an event leaves every register off the prompt book's page (R410, R412). -/
theorem sameAt_log (w : Work) (e : Ev) {k : Nat} (hk : k / 2 ^ 37 ≠ 0xB) : SameAt k w (w.log e) := by
  have ne : ∀ f : Fld, f.blk = .BLK ∧ f.off < 4096 ∧ f.lo < 32 → f.key 0xB 0 ≠ k := by
    rintro f ⟨hb, ho, hl⟩ rfl
    rw [key_page f _ ho hl, hb] at hk
    exact hk rfl
  have h := sameAt_logRaw w (logBytes e w.now (w.n.logSeq % 2 ^ 32)) hk
  unfold Work.log
  simp only
  exact SameAt.ite (h.trans (sameAt_isr _ _ _ (ne _ (by decide)) (ne _ (by decide)))) h

/-! ## Error captures -/

/-- A field of a page's capture or error counter: no interrupt bit and no prompt-book register. -/
abbrev CapFld (f : Fld) : Prop := f.blk = .BLK ∧ 0x20 ≤ f.off ∧ f.off < 0x38 ∧ f.lo < 32

theorem CapFld.key_ne {f g : Fld} (hf : CapFld f) (page : Nat) (hg : g.off < 4096 ∧ g.lo < 32) (h : g.off ≠ f.off) :
    g.key page 0 ≠ f.key page 0 := by
  obtain ⟨-, -, hhi, hl⟩ := hf
  exact key_ne_of_off _ _ _ _ ⟨by omega, hl⟩ hg h

/-- Interrupt bits leave the captures and error counters of their page. -/
theorem CapFld.isr {f : Fld} (hf : CapFld f) (w : Work) (page bit : Nat) : SameAt (f.key page 0) w (w.isr page bit) := by
  obtain ⟨-, hlo, hhi, -⟩ := id hf
  refine sameAt_isr w page bit (hf.key_ne page (by decide) ?_) (hf.key_ne page (by decide) ?_)
  · exact fun h : 0x14 = f.off => by omega
  · exact fun h : 0x38 = f.off => by omega

/-- The prompt book leaves the captures and error counters of every page but its own. -/
theorem CapFld.log {f : Fld} (hf : CapFld f) (w : Work) (e : Ev) {page : Nat} (hp : page ≠ 0xB) :
    SameAt (f.key page 0) w (w.log e) := by
  obtain ⟨hb, -, hhi, hl⟩ := hf
  refine sameAt_log w e ?_
  rw [key_page f page (by omega) hl, hb]
  simpa [Block.page] using hp

/-- Counting an error leaves the BLK_ISR by which its capture is armed (R490). -/
theorem count_isr_get (w : Work) (v page : Nat) : (w.count Reg.BLK_ERR_CNT v page).get Reg.BLK_ISR page = w.get Reg.BLK_ISR page := by
  refine SameAt.get ?_ rfl
  exact (SameAt.refl _ w).count _ _ _ _ (key_ne_of_off _ _ _ _ (by decide) (by decide) (by decide))

/-- The end of a capture, once it is filled: ERROR, the interrupt bit and the prompt book leave what it holds. -/
theorem CapFld.filled {f : Fld} (hf : CapFld f) (w : Work) (e : Ev) {page : Nat} (hp : page ≠ 0xB) :
    SameAt (f.key page 0) w (((w.set Reg.BLK_ERROR 1 page).isr page 0).log e) := by
  obtain ⟨-, hlo, -, -⟩ := id hf
  have he : SameAt (f.key page 0) w (w.set Reg.BLK_ERROR 1 page) :=
    (SameAt.refl _ w).set _ _ _ _ (hf.key_ne page (by decide) fun h : 0x10 = f.off => by omega)
  exact (he.trans (hf.isr _ page 0)).trans (hf.log _ _ hp)

/-- Every captured error is counted (R490). -/
theorem capture_counts (w : Work) (e : Ev) (hp : e.page ≠ 0xB) :
    Shows (w.capture e) Reg.BLK_ERR_CNT (min (w.get Reg.BLK_ERR_CNT e.page + 1) (2 ^ 32 - 1)) e.page 0 := by
  have hf : CapFld Reg.BLK_ERR_CNT := by decide
  have h := shows_count w Reg.BLK_ERR_CNT 1 e.page 0
  unfold Work.capture
  simp only
  split
  · have h1 := (hf.isr _ e.page 1).shows h
    split
    · exact (hf.log _ _ hp).shows h1
    · exact h1
  · have k := fun g => hf.key_ne (g := g) e.page
    exact (hf.filled _ _ hp).shows ((((h.set _ _ _ _ (k _ (by decide) (by decide))).set _ _ _ _ (k _ (by decide) (by decide))).set
      _ _ _ _ (k _ (by decide) (by decide))).set _ _ _ _ (k _ (by decide) (by decide)))

/-- A capture that is armed takes the code, the argument and the detail of a node's own error (R490). -/
theorem capture_armed (w : Work) (e : Ev) (hp : e.page ≠ 0xB) (hpart : e.part = none) (haddr : addressCode e.code = false)
    (ha : bitOf (w.get Reg.BLK_ISR e.page) 0 = false) :
    Shows (w.capture e) Reg.BLK_ERR_CAP0 ((e.code + e.status % 256 * 2 ^ 16) % 2 ^ 32) e.page 0 ∧
    Shows (w.capture e) Reg.BLK_ERR_CAP2 (e.arg % 2 ^ 32) e.page 0 ∧
    Shows (w.capture e) Reg.BLK_ERR_CAP3 (e.detail % 2 ^ 32) e.page 0 := by
  have ne : ∀ f g : Fld, CapFld f → g.off < 4096 ∧ g.lo < 32 → g.off ≠ f.off → g.key e.page 0 ≠ f.key e.page 0 :=
    fun f g hf => hf.key_ne e.page
  unfold Work.capture
  simp only [count_isr_get, ha, hpart, haddr, Bool.false_eq_true, if_false, Nat.add_zero]
  refine ⟨?_, ?_, ?_⟩
  · refine (CapFld.filled (by decide) _ _ hp).shows ?_
    exact (((shows_set _ _ _ _ _).set _ _ _ _ (ne _ _ (by decide) (by decide) (by decide))).set
      _ _ _ _ (ne _ _ (by decide) (by decide) (by decide))).set _ _ _ _ (ne _ _ (by decide) (by decide) (by decide))
  · refine (CapFld.filled (by decide) _ _ hp).shows ?_
    exact (shows_set _ _ _ _ _).set _ _ _ _ (ne _ _ (by decide) (by decide) (by decide))
  · exact (CapFld.filled (by decide) _ _ hp).shows (shows_set _ _ _ _ _)

/-- A capture that is taken keeps what it holds; the error is only counted (R490). -/
theorem capture_taken (w : Work) (e : Ev) (hp : e.page ≠ 0xB) (ht : bitOf (w.get Reg.BLK_ISR e.page) 0 = true) {f : Fld} (hf : CapFld f)
    (hc : Reg.BLK_ERR_CNT.off ≠ f.off) : SameAt (f.key e.page 0) w (w.capture e) := by
  have h := ((SameAt.refl _ w).count Reg.BLK_ERR_CNT 1 e.page 0 (hf.key_ne e.page (by decide) hc)).trans (hf.isr _ e.page 1)
  unfold Work.capture
  simp only [count_isr_get, ht, if_true]
  exact (h.trans (hf.log _ _ hp)).ite h

/-! ## Memory after a report -/

/-- Stores that stay in the prompt book's ring leave every byte outside it. -/
theorem mem_get_foldl_ring {m : Mem} (hw : Mem.wf m = true) {l : List MemOp}
    (hl : ∀ o ∈ l, ∃ a bs, o = .put a bs ∧ ringBase ≤ a ∧ a + bs.length ≤ ringBase + 2 ^ 26) {x : Nat} (hx : outsideRing x) :
    Mem.get (l.foldl Mem.apply m) x = Mem.get m x := by
  induction l generalizing m with
  | nil => rfl
  | cons o l ih =>
    obtain ⟨a, bs, rfl, hlo, hhi⟩ := hl o List.mem_cons_self
    rw [List.foldl_cons, ih (mem_wf_apply _ hw) fun o ho => hl o (List.mem_cons_of_mem _ ho), Mem.apply, mem_get_putAll hw,
      if_neg (by omega)]

/-- A command that only reports leaves every byte outside the prompt book's ring (R410). -/
theorem Reports.byteAt {s : State} {w : Work} (h : Reports s.view w) (hc : Canonical s) {x : Nat} (hx : outsideRing x) :
    byteAt (s.close w) x = byteAt s x := by
  obtain ⟨l, hl, hput⟩ := h.wr
  have hm : (s.close w).mem = l.reverse.foldl Mem.apply s.mem := by
    simp [close_mem, h.wiped, hl]
  rw [Safety.byteAt, hm]
  exact mem_get_foldl_ring hc.2 (fun o ho => hput o (List.mem_reverse.1 ho)) hx

end Sys2Proof.Laws
end

section
/-!
What the shared write does with a write of SCH_SHP_BURST (R343, R516), and the obligation on small bursts.
-/

namespace Sys2Proof.Scheduling

open Sys2Proof.Machine Sys2Proof.Safety Sys2Proof.Laws

/-! ## Where a write lands on the shaper's registers -/

theorem pageBlock_sch {p i : Nat} (h : pageBlock p = some (.SCH, i)) : p = 0x72 ∧ i = 0 := by
  simp only [pageBlock, ite_eq_iff, Option.some.injEq, Prod.mk.injEq, reduceCtorEq, false_and, and_false, false_or, or_false,
    true_and] at h
  omega

/-- Only the physical function reaches the scheduler's page, which is page 0x72 (R488). -/
theorem locate_sch {w : Work} {fn : Fn} {off inst o : Nat} (h : w.locate fn off = .reg .SCH inst o) :
    fn = .pf ∧ inst = 0 ∧ off = 0x72000 + o := by
  unfold Work.locate at h
  cases fn with
  | vf p => simp only at h; split_ifs at h <;> cases h
  | pf =>
    simp only at h
    split_ifs at h <;> try cases h
    split at h
    · rename_i hb
      split_ifs at h
      cases h
      obtain ⟨hp, hi⟩ := pageBlock_sch hb
      exact ⟨rfl, hi, by omega⟩
    · cases h

/-- A write that addresses a register of the scheduler comes through the physical function, at that register's BAR0 offset (R488). -/
theorem addresses_sch {w : Work} {wr : RegWr} {o : Nat} (h : w.addresses wr .SCH [o] = true) :
    wr.fn = .pf ∧ wr.off = 0x72000 + o ∧ wr.off % 4 = 0 ∧ w.locate .pf wr.off = .reg .SCH 0 o := by
  unfold Work.addresses at h
  split at h
  · rename_i b inst o' hl
    simp only [List.mem_singleton, Bool.and_eq_true, decide_eq_true_eq] at h
    obtain ⟨⟨h4, rfl⟩, rfl⟩ := h
    obtain ⟨hf, rfl, ho⟩ := locate_sch hl
    exact ⟨hf, ho, h4, hf ▸ hl⟩
  · cases h

/-! ## A write of a shaper's BURST -/

theorem regFields_burst : regFields .SCH 0x120 = [Reg.SCH_BURST] := by decide

theorem merged_lt (w : Work) (wr : RegWr) (inst idx : Nat) (f : Fld) : w.merged wr inst idx f < 2 ^ f.width :=
  Nat.mod_lt _ (Nat.two_pow_pos _)

/-- The range of BURST is all that the shared write asks of one (R343, R516). -/
theorem refuse_burst {w : Work} {wr : RegWr} (idx : Nat) (hf : wr.fn = .pf) (he : fieldEnabled wr Reg.SCH_BURST = true) :
    w.refuse wr .SCH 0 idx 0x120 = if w.merged wr 0 idx Reg.SCH_BURST < 17 then some 0x4001 else none := by
  have hmax : ¬ 16777215 < w.merged wr 0 idx Reg.SCH_BURST := by
    have : w.merged wr 0 idx Reg.SCH_BURST < 2 ^ 24 := merged_lt w wr 0 idx Reg.SCH_BURST
    omega
  have hacc : Reg.SCH_BURST.acc = .rw := rfl
  have hlo : Reg.SCH_BURST.vmin = 17 := rfl
  have hhi : Reg.SCH_BURST.vmax = 16777215 := rfl
  simp [Work.refuse, roToVf, fnMayWrite, Work.forbidden, regFields_burst, hf, he, hacc, hlo, hhi, hmax]

/-- What the scheduler's page reports of a refused BURST (R490, R497). -/
def burstRefusal (wr : RegWr) : Ev := { code := 0x4001, page := 0x72, arg := wr.off, detail := wr.data.toNat }

theorem burstRefusal_page (wr : RegWr) : (burstRefusal wr).page ≠ 0xB := by simp [burstRefusal]

/-- A smaller BURST is ignored and captured (R343). -/
theorem busWrite_small_burst {w : Work} {wr : RegWr} (ha : w.addresses wr .SCH [0x120] = true)
    (he : fieldEnabled wr Reg.SCH_BURST = true) (hv : w.merged wr 0 (w.sel wr.fn .SCH 0x120) Reg.SCH_BURST < 17) :
    w.busWrite wr = ⟨w.capture (burstRefusal wr), none⟩ := by
  obtain ⟨hf, -, h4, hl⟩ := addresses_sch ha
  have hpage : capturePage .pf .SCH 0 0x120 = 0x72 := rfl
  rw [hf] at hv
  simp [Work.busWrite, h4, hf, hl, refuse_burst _ hf he, hv, hpage, burstRefusal]

/-- A BURST of 17 units or more is taken (R343). -/
theorem busWrite_burst {w : Work} {wr : RegWr} (ha : w.addresses wr .SCH [0x120] = true)
    (he : fieldEnabled wr Reg.SCH_BURST = true) (hv : 17 ≤ w.merged wr 0 (w.sel wr.fn .SCH 0x120) Reg.SCH_BURST) :
    w.busWrite wr = ⟨w.set Reg.SCH_BURST (w.merged wr 0 (w.sel wr.fn .SCH 0x120) Reg.SCH_BURST) 0 (w.sel wr.fn .SCH 0x120),
      some (.SCH, 0, 0x120, w.sel wr.fn .SCH 0x120)⟩ := by
  obtain ⟨hf, -, h4, hl⟩ := addresses_sch ha
  have hacc : Reg.SCH_BURST.acc = .rw := rfl
  rw [hf] at hv ⊢
  simp [Work.busWrite, h4, hf, hl, refuse_burst _ hf he, Nat.not_lt.2 hv, Work.writeFields, regFields_burst, hacc, he, storeInst]

theorem addresses_shaper {w : Work} {wr : RegWr} (ha : w.addresses wr .SCH [0x120] = true) :
    w.addresses wr .SCH [0x118, 0x11C, 0x120] = true := by
  obtain ⟨hf, -, h4, hl⟩ := addresses_sch ha
  simp [Work.addresses, hf, hl, h4]

/-- SHAPER_RECONFIGURE with a smaller BURST does nothing but the capture. -/
theorem exec_small_burst {s : State} {wr : RegWr} (hs : s.alive = true) (ha : s.view.addresses wr .SCH [0x120] = true)
    (he : fieldEnabled wr Reg.SCH_BURST = true) (hv : s.view.merged wr 0 (s.view.sel wr.fn .SCH 0x120) Reg.SCH_BURST < 17) :
    exec (.shaperReconfigure wr) s = .next (s.close (s.view.capture (burstRefusal wr))) := by
  change execShaperReconfigure wr s = _
  simp only [execShaperReconfigure, run_alive _ hs, Work.regAction, addresses_shaper ha, busWrite_small_burst ha he hv, if_true]

/-- SHAPER_RECONFIGURE with a BURST in range writes it and stores nothing. -/
theorem exec_burst {s : State} {wr : RegWr} (hs : s.alive = true) (ha : s.view.addresses wr .SCH [0x120] = true)
    (he : fieldEnabled wr Reg.SCH_BURST = true) (hv : 17 ≤ s.view.merged wr 0 (s.view.sel wr.fn .SCH 0x120) Reg.SCH_BURST) :
    ∃ w, exec (.shaperReconfigure wr) s = .next (s.close w) ∧ w.wr = [] ∧ w.wiped = false ∧
      Shows w Reg.SCH_BURST (s.view.merged wr 0 (s.view.sel wr.fn .SCH 0x120) Reg.SCH_BURST) 0 (s.view.sel wr.fn .SCH 0x120) := by
  have hset := shows_set s.view Reg.SCH_BURST (s.view.merged wr 0 (s.view.sel wr.fn .SCH 0x120) Reg.SCH_BURST) 0
    (s.view.sel wr.fn .SCH 0x120)
  rw [Nat.mod_eq_of_lt (merged_lt ..)] at hset
  change ∃ w, execShaperReconfigure wr s = _ ∧ _
  simp only [execShaperReconfigure, run_alive _ hs, Work.regAction, addresses_shaper ha, busWrite_burst ha he hv, if_true]
  refine ⟨_, rfl, ?_⟩
  split
  · exact ⟨rfl, rfl, hset⟩
  · exact ⟨rfl, rfl, hset⟩

/-! ## The obligation -/

/-- No report writes a BURST, of any shaper (R342). -/
theorem plain_burst (i : Nat) : Plain (Reg.SCH_BURST.key 0 i) := by
  refine ⟨by rw [key_off _ _ _ (by decide) (by decide)]; decide, ?_⟩
  simp only [Fld.key, Reg.SCH_BURST, Block.page]
  omega

/-- A refused BURST is counted; no BURST, no shaper's tokens and no byte of memory outside the prompt book's ring changes (R343). -/
theorem burstRefusal_leaves {s : State} (hc : Canonical s) (wr : RegWr) :
    (∀ i : Nat, rd (s.close (s.view.capture (burstRefusal wr))) Reg.SCH_BURST 0 i = rd s Reg.SCH_BURST 0 i) ∧
    (s.close (s.view.capture (burstRefusal wr))).node.sc = s.node.sc ∧
    Counted s (s.close (s.view.capture (burstRefusal wr))) Reg.BLK_ERR_CNT 1 0x72 ∧
    ∀ a : Nat, outsideRing a → byteAt (s.close (s.view.capture (burstRefusal wr))) a = byteAt s a := by
  have hr := reports_capture s.view (burstRefusal wr)
  have hcnt := capture_counts s.view (burstRefusal wr) (burstRefusal_page wr)
  exact ⟨fun i => (hr.sameAt (plain_burst i)).rd hc.1 hr.wiped, hr.n_sc, hcnt.rd hc.1, fun a ha => hr.byteAt hc ha⟩

theorem bitOf_zero (v : Nat) : bitOf v 0 = decide (v % 2 = 1) := by simp [bitOf]

/-- Settles O58: the shared write refuses a smaller BURST by its range, so that SHAPER_RECONFIGURE is that one capture; one in range is
written before the shaper's tokens are reset. -/
theorem smallBurstsAreRefused : Obligations.SmallBurstsAreRefused := by
  unfold Obligations.SmallBurstsAreRefused
  refine ⟨?_, ?_, ?_⟩
  · rintro s wr hs hc ha ⟨he, hv⟩ hi
    obtain ⟨hburst, hsc, hcnt, hmem⟩ := burstRefusal_leaves hc wr
    have harmed : bitOf (s.view.get Reg.BLK_ISR 0x72) 0 = false := by
      have hi0 : s.view.get Reg.BLK_ISR 0x72 % 2 = 0 := hi
      simp [bitOf_zero, hi0]
    obtain ⟨h0, h2, h3⟩ := capture_armed s.view (burstRefusal wr) (burstRefusal_page wr) rfl rfl harmed
    obtain ⟨-, hoff, -, -⟩ := addresses_sch ha
    refine ⟨_, exec_small_burst hs ha he hv, hburst, hsc, hcnt, ?_, ?_, ?_, hmem⟩
    · exact (h0.rd hc.1).trans (by simp [burstRefusal])
    · exact (h2.rd hc.1).trans (Nat.mod_eq_of_lt (by simp only [burstRefusal]; omega))
    · exact (h3.rd hc.1).trans (Nat.mod_eq_of_lt wr.data.isLt)
  · rintro s wr hs hc ha ⟨he, hv⟩ hi
    obtain ⟨hburst, hsc, hcnt, -⟩ := burstRefusal_leaves hc wr
    have hr := reports_capture s.view (burstRefusal wr)
    have hkeep := capture_taken s.view (burstRefusal wr) (burstRefusal_page wr) ((bitOf_zero _).trans (decide_eq_true hi))
      (f := Reg.BLK_ERR_CAP0) (by decide) (by decide)
    exact ⟨_, exec_small_burst hs ha he hv, hburst, hsc, hcnt, hkeep.rd hc.1 hr.wiped⟩
  · rintro s wr v hs hc ha ⟨he, rfl, hv⟩
    obtain ⟨w, hx, hwr, hwiped, hshow⟩ := exec_burst hs ha he hv
    exact ⟨_, hx, hshow.rd hc.1, close_mem_quiet s w hwr hwiped⟩

end Sys2Proof.Scheduling
end

section
/-!
The fused SVN (R367). Every function of the model but the write of SEC_CTRL leaves it: first what keeping it means, then a rule for each
function, in the model's order, then one for each command, and last the obligation.

A fact `SameSvn` stands where a rule asks for a continuation's own fact: it is a definition, which a proof compares by its arguments and
does not evaluate.
-/

namespace Sys2Proof.FusedSvn
open Sys2Proof.Machine Sys2Proof.Safety Sys2Proof.Laws

/-- `w'` holds the same fused SVN as `w`. -/
def SameSvn (w w' : Work) : Prop := w'.svn = w.svn

@[simp] theorem sameSvn_iff (w w' : Work) : SameSvn w w' ↔ w'.svn = w.svn := ⟨id, id⟩

@[simp] theorem svn_ite (c : Prop) [Decidable c] (a b : Work) : (if c then a else b).svn = if c then a.svn else b.svn :=
  apply_ite ..

@[simp] theorem snd_ite {α β : Type} (c : Prop) [Decidable c] (a b : α × β) : (if c then a else b).2 = if c then a.2 else b.2 :=
  apply_ite ..

theorem svn_of_ite {c : Prop} [Decidable c] {a b : Work} {n : Nat} (ha : a.svn = n) (hb : b.svn = n) :
    (if c then a else b).svn = n := by
  split <;> assumption

/-- What every step of a fold keeps, the fold keeps. -/
theorem foldl_keeps {α β : Type} (m : β → Nat) {f : β → α → β} (h : ∀ b x, m (f b x) = m b) (l : List α) (b : β) :
    m (l.foldl f b) = m b := by
  induction l generalizing b with
  | nil => rfl
  | cons x l ih => exact (ih _).trans (h _ _)

/-- The same of a fold that may stop with `none`. -/
theorem foldl_option_keeps {α β : Type} (m : β → Nat) {f : Option β → α → Option β} (hn : ∀ x, f none x = none)
    (h : ∀ b x c, f (some b) x = some c → m c = m b) {l : List α} {b c : β} (hl : l.foldl f (some b) = some c) :
    m c = m b := by
  induction l generalizing b with
  | nil => cases hl; rfl
  | cons x l ih =>
    rw [List.foldl_cons] at hl
    cases hx : f (some b) x with
    | none => cases (hx ▸ hl).symm.trans (List.foldl_fixed' hn l)
    | some d => exact (ih (hx ▸ hl)).trans (h _ _ _ hx)

theorem foldl_bind_keeps {α β : Type} (m : β → Nat) {f : β → α → Option β} (h : ∀ b x c, f b x = some c → m c = m b)
    {l : List α} {b c : β} (hl : l.foldl (fun o x => o.bind (f · x)) (some b) = some c) : m c = m b :=
  foldl_option_keeps m (fun _ => rfl) h hl

@[simp] theorem foldl_svn {α : Type} {f : Work → α → Work} (h : ∀ w x, SameSvn w (f w x)) (l : List α) (w : Work) :
    (l.foldl f w).svn = w.svn :=
  foldl_keeps Work.svn h l w

@[simp] theorem snd_foldl_svn {α β : Type} {f : β × Work → α → β × Work} (h : ∀ a x, SameSvn a.2 (f a x).2) (l : List α)
    (a : β × Work) : (l.foldl f a).2.svn = a.2.svn :=
  foldl_keeps (fun a : β × Work => a.2.svn) h l a

theorem SameSvn.trans {w v u : Work} (h : SameSvn w v) (h' : SameSvn v u) : SameSvn w u := Eq.trans h' h

theorem sameSvn_of_ite {c : Prop} [Decidable c] {w a b : Work} (ha : SameSvn w a) (hb : SameSvn w b) :
    SameSvn w (if c then a else b) := svn_of_ite ha hb

theorem sameSvn_set (w : Work) (f v i j) : SameSvn w (w.set f v i j) := set_svn ..

theorem sameSvn_foldl {α : Type} {f : Work → α → Work} (h : ∀ w x, SameSvn w (f w x)) (l : List α) (w : Work) :
    SameSvn w (l.foldl f w) := foldl_svn h l w

end Sys2Proof.FusedSvn

end

section
/-!
The functions of the model that leave the fused SVN, file by file.

`(rfl)` stands in brackets so that `simp` rewrites with the lemma and does not let the kernel unfold the function. Where a proof names an
intermediate state by `obtain`, it makes the state opaque for the same reason: a case split with the state in sight would evaluate it.
-/

namespace Sys2Proof.FusedSvn

open Sys2Proof.Machine Sys2Proof.Safety Sys2Proof.Laws

variable (w : Work)

/-! ## Work.lean -/

@[simp] theorem draw_svn : (w.draw).2.svn = w.svn := (rfl)
@[simp] theorem pick_svn (count) : (w.pick count).2.svn = w.svn := (rfl)
@[simp] theorem randomBytes_svn (len) : (w.randomBytes len).2.svn = w.svn := (rfl)

/-! ## Regs.lean -/

@[simp] theorem keep_svn (f unit inst idx old) : (w.keep f unit inst idx old).svn = w.svn := by simp [Work.keep]
@[simp] theorem settle_svn (fs) : (w.settle fs).svn = w.svn := (rfl)
@[simp] theorem settleSheet_svn : (w.settleSheet).svn = w.svn := (rfl)
@[simp] theorem actRunning_svn : (w.actRunning).svn = w.svn := (rfl)

/-! ## Ops.lean -/

@[simp] theorem logRaw_svn (bs) : (w.logRaw bs).svn = w.svn := by simp [Work.logRaw]
@[simp] theorem nameSpan_svn (page a len) : (w.nameSpan page a len).svn = w.svn := by simp [Work.nameSpan]
@[simp] theorem setNodeState_svn (v) : (w.setNodeState v).svn = w.svn := by simp [Work.setNodeState]

/-! ## Changes.lean -/

@[simp] theorem change_svn (p c) : (w.change p c).svn = w.svn := by unfold Work.change; split <;> simp
@[simp] theorem metaChange_svn (p b) : (w.metaChange p b).svn = w.svn := by simp [Work.metaChange]
@[simp] theorem noteRuns_svn (p li old runs cid) : (w.noteRuns p li old runs cid).svn = w.svn := by simp [Work.noteRuns]

/-! ## Bus.lean -/

@[simp] theorem writeFields_svn (wr b inst idx off) : (w.writeFields wr b inst idx off).svn = w.svn := by
  grind [Work.writeFields, foldl_svn, sameSvn_iff, set_svn]
@[simp] theorem busWrite_svn (wr) : (w.busWrite wr).w.svn = w.svn := by simp only [Work.busWrite]; (repeat' split) <;> simp
@[simp] theorem regAction_svn (wr b offs) {act} (h : ∀ w i j, SameSvn w (act w i j)) : (w.regAction wr b offs act).svn = w.svn := by
  grind [Work.regAction, sameSvn_iff, busWrite_svn]
@[simp] theorem clearCounter_svn (f inst) : (w.clearCounter f inst).svn = w.svn := (rfl)
@[simp] theorem softResetPage_svn (page) : (w.softResetPage page).svn = w.svn := by simp [Work.softResetPage]
@[simp] theorem freezePage_svn (page on) : (w.freezePage page on).svn = w.svn := by simp [Work.freezePage]

/-! ## Complete.lean -/

@[simp] theorem meter_svn (p counter by_) : (w.meter p counter by_).svn = w.svn := by simp [Work.meter]
@[simp] theorem pcieOut_svn (p len) : (w.pcieOut p len).svn = w.svn := by unfold Work.pcieOut; split <;> simp
@[simp] theorem pcieIn_svn (p len) : (w.pcieIn p len).svn = w.svn := by unfold Work.pcieIn; split <;> simp
@[simp] theorem readsFailed_svn (n) : (w.readsFailed n).2.svn = w.svn := (rfl)
@[simp] theorem hostStore_svn (fn addr bs relaxed) : (w.hostStore fn addr bs relaxed).svn = w.svn := by simp [Work.hostStore]
@[simp] theorem hostFetch_svn (fn p addr len relaxed) : (w.hostFetch fn p addr len relaxed).svn = w.svn := by simp [Work.hostFetch]
@[simp] theorem resultStore_svn (q h bs off) : (w.resultStore q h bs off).svn = w.svn := by simp [Work.resultStore]
@[simp] theorem queueSignal_svn (q) : (w.queueSignal q).svn = w.svn := by simp only [Work.queueSignal]; split <;> simp
@[simp] theorem cqProduce_svn (q tag aux0 aux1 sqIndex status flags irq) :
    (w.cqProduce q tag aux0 aux1 sqIndex status flags irq).svn = w.svn := by
  simp [Work.cqProduce]
@[simp] theorem cqNotice_svn (q aux0 aux1 status) : (w.cqNotice q aux0 aux1 status).svn = w.svn := by simp [Work.cqNotice]
@[simp] theorem partNotice_svn (p aux0 aux1 status) : (w.partNotice p aux0 aux1 status).svn = w.svn := by simp [Work.partNotice]
@[simp] theorem endEntry_svn (q e status aux0 aux1 flags handle) : (w.endEntry q e status aux0 aux1 flags handle).svn = w.svn := by
  simp only [Work.endEntry]
  split <;> simp
@[simp] theorem startEntries_svn (fuel) : (Work.startEntries fuel w).svn = w.svn := by
  induction fuel generalizing w <;> grind [Work.startEntries, endEntry_svn, setQueue_svn]
@[simp] theorem completeEntry_svn (q e status aux0 aux1 flags handle) :
    (w.completeEntry q e status aux0 aux1 flags handle).svn = w.svn := by
  simp [Work.completeEntry]
@[simp] theorem sendResponse_svn (conn msn op payload purpose) : (w.sendResponse conn msn op payload purpose).svn = w.svn := (rfl)
@[simp] theorem recordDone_svn (id msn r) : (w.recordDone id msn r).svn = w.svn := by unfold Work.recordDone; split <;> simp
@[simp] theorem violated_svn (id target st) : (w.violated id target st).svn = w.svn := by unfold Work.violated; split <;> simp
@[simp] theorem remoteAct_svn (c m) : (w.remoteAct c m).svn = w.svn := by simp only [Work.remoteAct]; (repeat' split) <;> simp
@[simp] theorem presentFence_svn (b) : (w.presentFence b).svn = w.svn := by simp [Work.presentFence]
@[simp] theorem releaseFenced_svn (id) : (w.releaseFenced id).svn = w.svn := by unfold Work.releaseFenced; split <;> simp
@[simp] theorem settleMsgs_svn (fuel) : (Work.settleMsgs fuel w).svn = w.svn := by
  induction fuel generalizing w <;> grind [Work.settleMsgs, releaseFenced_svn, recordDone_svn, remoteAct_svn]
@[simp] theorem msgsGoOn_svn : (w.msgsGoOn).svn = w.svn := by simp [Work.msgsGoOn]
@[simp] theorem completeMsg_svn (id msn tag status aux0 aux1) : (w.completeMsg id msn tag status aux0 aux1).svn = w.svn := by
  simp [Work.completeMsg]
@[simp] theorem complete_svn (src tag status aux0 aux1 handle) : (w.complete src tag status aux0 aux1 handle).svn = w.svn := by
  unfold Work.complete; split <;> simp
@[simp] theorem srcActs_svn (src op bytes) {act} (h : ∀ w, SameSvn w (act w)) : (w.srcActs src op bytes act).svn = w.svn := by
  grind [Work.srcActs, sameSvn_iff, complete_svn, count_svn]
@[simp] theorem arrive_svn (src) : (w.arrive src).svn = w.svn := by unfold Work.arrive; split <;> simp

/-! ## Power.lean -/

@[simp] theorem noteCapped_svn : (w.noteCapped).svn = w.svn := by simp [Work.noteCapped]
@[simp] theorem showCap_svn : (w.showCap).svn = w.svn := (rfl)
@[simp] theorem capChange_svn : (w.capChange).svn = w.svn := by simp [Work.capChange]
@[simp] theorem showAllow_svn : (w.showAllow).svn = w.svn := (rfl)
@[simp] theorem takeBudget_svn (b) : (w.takeBudget b).svn = w.svn := by simp only [Work.takeBudget]; (repeat' split) <;> simp
@[simp] theorem setClamps_svn (ct ch) : (w.setClamps ct ch).svn = w.svn := by simp [Work.setClamps]
@[simp] theorem critical_svn : (w.critical).svn = w.svn := by simp [Work.critical]
@[simp] theorem emergency_svn (cap) : (w.emergency cap).svn = w.svn := by simp [Work.emergency]
@[simp] theorem stretchTick_svn (die cycles) : (w.stretchTick die cycles).svn = w.svn := by simp [Work.stretchTick]
@[simp] theorem powerBoundary_svn (tickPs) : (w.powerBoundary tickPs).svn = w.svn := by simp [Work.powerBoundary]
@[simp] theorem cappedBoundary_svn : (w.cappedBoundary).svn = w.svn := by simp [Work.cappedBoundary]
@[simp] theorem railRead_svn (e mv low) : (w.railRead e mv low).svn = w.svn := by simp [Work.railRead]
-- Unfolded as a function: compared at `w.loadCal`, the two sides would have the kernel check all 64 KiB of the area.
@[simp] theorem loadCal_svn : w.loadCal.svn = w.svn := by
  have hd : Work.loadCal = Work.loadCal := rfl
  conv_rhs at hd => delta Work.loadCal
  rw [← sameSvn_iff, hd]
  beta_reduce
  extract_lets +onlyGivenNames c
  cases calCheck c with
  | none => simp
  | some k => simp
@[simp] theorem calWriteEnd_svn (fail) : (w.calWriteEnd fail).svn = w.svn := by simp [Work.calWriteEnd]

/-! ## Store.lean -/

@[simp] theorem writeHeader_svn (ci pi) : (w.writeHeader ci pi).svn = w.svn := by unfold Work.writeHeader; (repeat' split) <;> simp
@[simp] theorem modPage_svn (ci pi f) : (w.modPage ci pi f).svn = w.svn := (rfl)
@[simp] theorem blockIn_svn (stack len) : (w.blockIn stack len).2.svn = w.svn := by simp [Work.blockIn]
@[simp] theorem reserveCheck_svn : (w.reserveCheck).svn = w.svn := by simp [Work.reserveCheck]
@[simp] theorem framesFreed_svn (p n) : (w.framesFreed p n).svn = w.svn := by simp [Work.framesFreed]
@[simp] theorem takeHandles_svn (p k) : (w.takeHandles p k).2.svn = w.svn := by simp [Work.takeHandles]
@[simp] theorem newCourse_svn (part k frame sess sessHandle layer slot fromReserve) :
    (w.newCourse part k frame sess sessHandle layer slot fromReserve).2.svn = w.svn := by
  simp [Work.newCourse]
@[simp] theorem tryStacks_svn (start len j) : (w.tryStacks start len j).2.svn = w.svn := by
  induction j with
  | zero => rfl
  | succ j ih => simp only [Work.tryStacks]; (repeat' split) <;> simp [ih]
@[simp] theorem allocPool_svn (part start k) : (w.allocPool part start k).2.svn = w.svn := by
  induction k <;> grind [Work.allocPool, tryStacks_svn]
@[simp] theorem allocReserve_svn (part start) : (w.allocReserve part start).2.svn = w.svn := by
  simp only [Work.allocReserve]
  (repeat' split) <;> simp
@[simp] theorem allocCourse_svn (part sessIdx sessHandle layer aim pool reserve) :
    (w.allocCourse part sessIdx sessHandle layer aim pool reserve).2.svn = w.svn := by
  simp only [Work.allocCourse]
  (repeat' split) <;> simp
@[simp] theorem spanIn_svn (used size n fit) : (w.spanIn used size n fit).2.svn = w.svn := by simp [Work.spanIn]
@[simp] theorem placeDdr_svn (die len mode) : (w.placeDdr die len mode).2.svn = w.svn := by
  simp only [Work.placeDdr]
  split <;> simp
@[simp] theorem placeHost_svn (held b) : (w.placeHost held b).2.svn = w.svn := by simp [Work.placeHost]
@[simp] theorem placeAll_svn {place} (h : ∀ w l b, SameSvn w (place w l b).2) (bs) : (w.placeAll place bs).2.svn = w.svn := by
  simp only [Work.placeAll]
  exact snd_foldl_svn (fun a b => by grind [sameSvn_iff]) bs (some [], w)
@[simp] theorem placeStored_svn (k bs) : (w.placeStored k bs).2.svn = w.svn := by simp only [Work.placeStored]; split <;> simp
@[simp] theorem dropRun_svn (job) : (w.dropRun job).svn = w.svn := by simp [Work.dropRun]
@[simp] theorem freeLoc_svn (c l) : (w.freeLoc c l).svn = w.svn := by simp [Work.freeLoc]
@[simp] theorem freeCourse_svn (ci) : (w.freeCourse ci).svn = w.svn := by unfold Work.freeCourse; (repeat' split) <;> simp
@[simp] theorem dropRef_svn (ci) : (w.dropRef ci).svn = w.svn := by unfold Work.dropRef; split <;> simp
@[simp] theorem abandonMove_svn (mi) : (w.abandonMove mi).svn = w.svn := by simp [Work.abandonMove]
@[simp] theorem heatAppend_svn (ci) : (w.heatAppend ci).svn = w.svn := (rfl)

/-! ## Messages.lean -/

@[simp] theorem sendMsg_svn (conn op target payload purpose cmpr) :
    (w.sendMsg conn op target payload purpose cmpr).2.svn = w.svn := by
  unfold Work.sendMsg; split <;> simp
@[simp] theorem dropMsg_svn (k) : (w.dropMsg k).svn = w.svn := (rfl)
@[simp] theorem flushNotice_svn (conn) : (w.flushNotice conn).svn = w.svn := by unfold Work.flushNotice; split <;> simp
@[simp] theorem addNotice_svn (conn rec) : (w.addNotice conn rec).svn = w.svn := by simp [Work.addNotice]
@[simp] theorem flushNotices_svn : (w.flushNotices).svn = w.svn := by simp [Work.flushNotices]
@[simp] theorem fitChains_svn (i s) : (w.fitChains i s).svn = w.svn := (rfl)
@[simp] theorem setSession_svn (i s) : (w.setSession i s).svn = w.svn := (rfl)
@[simp] theorem loseSessions_svn (ci pages) : (w.loseSessions ci pages).svn = w.svn := by simp [Work.loseSessions]
@[simp] theorem noteTree_svn (i action) : (w.noteTree i action).svn = w.svn := by unfold Work.noteTree; split <;> simp
@[simp] theorem loseTree_svn (part handles) : (w.loseTree part handles).svn = w.svn := by simp [Work.loseTree]
@[simp] theorem copyLost_svn (ci) : (w.copyLost ci).svn = w.svn := (rfl)
@[simp] theorem losePages_svn (ci pages) : (w.losePages ci pages).svn = w.svn := by
  simp only [Work.losePages]
  (repeat' split) <;> simp

/-! ## Budget.lean -/

@[simp] theorem showPool_svn : (w.showPool).svn = w.svn := (rfl)
@[simp] theorem showBudget_svn (part) : (w.showBudget part).svn = w.svn := (rfl)

/-! ## Groups.lean -/

@[simp] theorem recordTo_svn (part node r purpose) : (w.recordTo part node r purpose).2.svn = w.svn := by
  unfold Work.recordTo; split <;> simp
@[simp] theorem hostResult_svn (q e r) : (w.hostResult q e r).svn = w.svn := by simp only [Work.hostResult]; split <;> simp
@[simp] theorem deliver_svn (src d r purpose) : (w.deliver src d r purpose).svn = w.svn := by unfold Work.deliver; split <;> simp
@[simp] theorem rejectPartial_svn (part r) : (w.rejectPartial part r).svn = w.svn := by simp [Work.rejectPartial]
@[simp] theorem joinGroup_svn (part r) : (w.joinGroup part r).svn = w.svn := by unfold Work.joinGroup; split <;> simp
@[simp] theorem showOpen_svn : (w.showOpen).svn = w.svn := (rfl)
@[simp] theorem sendToDest_svn (src part d r sheet purpose) : (w.sendToDest src part d r sheet purpose).svn = w.svn := by
  simp [Work.sendToDest]
@[simp] theorem sendPartial_svn (src part d r sheet purpose) : (w.sendPartial src part d r sheet purpose).svn = w.svn := by
  simp [Work.sendPartial]
@[simp] theorem closeGroup_svn (g r) : (w.closeGroup g r).svn = w.svn := by simp [Work.closeGroup]
@[simp] theorem groupCheck_svn (part group) : (w.groupCheck part group).svn = w.svn := by unfold Work.groupCheck; split <;> simp

/-! ## Sight.lean -/

@[simp] theorem loadBooks_svn : (w.loadBooks).svn = w.svn := (rfl)
@[simp] theorem sendCredits_svn (q) : (w.sendCredits q).svn = w.svn := by simp [Work.sendCredits]
@[simp] theorem asOf_svn (arr) : (w.asOf arr).svn = w.svn := (rfl)
@[simp] theorem rejoin_svn (v w : Work) : (v.rejoin w).svn = v.svn := by simp only [Work.rejoin]; split <;> simp
@[simp] theorem asArrived_svn (src) {act} (h : ∀ w, SameSvn w (act w)) : (w.asArrived src act).svn = w.svn := by
  grind [Work.asArrived, sameSvn_iff, rejoin_svn, asOf_svn]

/-! ## Query.lean -/

@[simp] theorem refuseQuery_svn (src part d senders status) : (w.refuseQuery src part d senders status).svn = w.svn := by
  unfold Work.refuseQuery; split <;> simp
@[simp] theorem wantPromotion_svn (ci deadline) : (w.wantPromotion ci deadline).svn = w.svn := by simp [Work.wantPromotion]
@[simp] theorem prefetchNext_svn (si layer) : (w.prefetchNext si layer).svn = w.svn := by
  grind [Work.prefetchNext, foldl_svn, sameSvn_iff, setSession_svn, wantPromotion_svn]
@[simp] theorem overBudget_svn (c) : (w.overBudget c).svn = w.svn := (rfl)
@[simp] theorem countRestaged_svn (heads tiles fresh) : (w.countRestaged heads tiles fresh).svn = w.svn := by
  grind [Work.countRestaged, foldl_svn, sameSvn_iff, count_svn]
theorem enlist_svn (src part d s sh heads senders bytes a) {v} (h : w.enlist src part d s sh heads senders bytes a = .ok v) :
    v.svn = w.svn := by
  simp only [Work.enlist] at h
  grind [foldl_svn, sameSvn_iff, countRestaged_svn, log_svn, count_svn, meter_svn]
@[simp] theorem openGroup_svn (src part d sh senders) : (w.openGroup src part d sh senders).svn = w.svn := by simp [Work.openGroup]
@[simp] theorem attend_svn (src part b a) : (w.attend src part b a).svn = w.svn := by
  unfold Work.attend
  dsimp only
  refine svn_of_ite (by simp) (svn_of_ite (by simp) ?_)
  split
  · simp
  · split
    · simp
    · split
      · simp
      · have hv := enlist_svn (h := by assumption)
        rw [← hv]
        cases src <;> (repeat' split) <;> simp
@[simp] theorem reserveOn_svn (floor left rest) : (w.reserveOn floor left rest).2.svn = w.svn := (rfl)
@[simp] theorem unusedOn_svn (floor n left) : (w.unusedOn floor n left).2.svn = w.svn := by
  induction n generalizing w left <;> grind [Work.unusedOn, reserveOn_svn]

/-! ## Merge.lean -/

@[simp] theorem takeResult_svn (k slot) : (w.takeResult k slot).svn = w.svn := by
  simp only [Work.takeResult]
  (repeat' split) <;> simp
@[simp] theorem setResultPort_svn (slot bufs held) : (w.setResultPort slot bufs held).svn = w.svn := (rfl)
@[simp] theorem offerResult_svn (k slot) : (w.offerResult k slot).svn = w.svn := by unfold Work.offerResult; split <;> simp
@[simp] theorem partialLeft_svn (part sheet status) : (w.partialLeft part sheet status).svn = w.svn := by simp [Work.partialLeft]
@[simp] theorem noteIncomplete_svn (part r) : (w.noteIncomplete part r).svn = w.svn := by simp [Work.noteIncomplete]
@[simp] theorem egress_svn (q r) : (w.egress q r).svn = w.svn := by unfold Work.egress; (repeat' split) <;> simp
@[simp] theorem drainEarly_svn : (w.drainEarly).svn = w.svn := by simp [Work.drainEarly]
@[simp] theorem drainPorts_svn : (w.drainPorts).svn = w.svn := by simp [Work.drainPorts]
@[simp] theorem sendHeld_svn : (w.sendHeld).svn = w.svn := by simp [Work.sendHeld]
@[simp] theorem freeDying_svn : (w.freeDying).svn = w.svn := by simp [Work.freeDying]
@[simp] theorem closeLeft_svn : (w.closeLeft).svn = w.svn := by simp [Work.closeLeft]
@[simp] theorem msgLeft_svn (k) : (w.msgLeft k).svn = w.svn := by unfold Work.msgLeft; split <;> simp
@[simp] theorem msgActs_svn (conn msn class0 presents) {act} (h : ∀ w c, SameSvn w (act w c)) :
    (w.msgActs conn msn class0 act presents).svn = w.svn := by
  grind [Work.msgActs, sameSvn_iff, completeMsg_svn, count_svn]
@[simp] theorem beforeGroup_svn (conn part r) : (w.beforeGroup conn part r).svn = w.svn := by simp [Work.beforeGroup]
@[simp] theorem takePartial_svn (conn part r) : (w.takePartial conn part r).svn = w.svn := by
  unfold Work.takePartial; split <;> simp
@[simp] theorem recordActs_svn (conn msn kind record) {act} (h : ∀ w p r, SameSvn w (act w p r)) :
    (w.recordActs conn msn kind record act).svn = w.svn := by
  grind [Work.recordActs, sameSvn_iff, msgActs_svn, completeMsg_svn]
@[simp] theorem discardGroup_svn (part group) : (w.discardGroup part group).svn = w.svn := (rfl)
@[simp] theorem answerQuery_svn (q status) : (w.answerQuery q status).svn = w.svn := by simp [Work.answerQuery]
@[simp] theorem answerSheet_svn (sheet pick status) : (w.answerSheet sheet pick status).svn = w.svn := by simp [Work.answerSheet]

/-! ## Fence.lean -/

@[simp] theorem enterDark_svn : (w.enterDark).svn = w.svn := by simp [Work.enterDark]
@[simp] theorem fenceSelf_svn : (w.fenceSelf).svn = w.svn := by simp [Work.fenceSelf]
@[simp] theorem unlessDark_svn (conn msn tag) {act} (h : ∀ w, SameSvn w (act w)) : (w.unlessDark conn msn tag act).svn = w.svn := by
  grind [Work.unlessDark, sameSvn_iff, completeMsg_svn]

/-! ## Expand.lean -/

@[simp] theorem extendMeas_svn (slot d) : (w.extendMeas slot d).svn = w.svn := (rfl)
@[simp] theorem extendFree_svn (slot) : (w.extendFree slot).svn = w.svn := (rfl)
@[simp] theorem layerLost_svn (die layer) : (w.layerLost die layer).svn = w.svn := by simp [Work.layerLost]
@[simp] theorem streamCheck_svn (die) : (w.streamCheck die).svn = w.svn := by simp [Work.streamCheck]
@[simp] theorem retireExpander_svn (inst) : (w.retireExpander inst).svn = w.svn := by simp [Work.retireExpander]
/-- The same said of a pair's counters. -/
def SameSnd {α : Type} (w : Work) (p : α × Work) : Prop := SameSvn w p.2
theorem sameSnd_mk {α : Type} {v : Work} (a : α) (h : SameSvn w v) : SameSnd w (a, v) := h
/-- A case split on an answer, with the answer's two continuations opaque. -/
theorem except_elim {γ : Type} {P : γ → Prop} {x : Except Nat Bytes} {f : Bytes → γ} {g : Nat → γ} (hf : ∀ b, P (f b))
    (hg : ∀ k, P (g k)) : P (match x with | .ok b => f b | .error k => g k) := by
  cases x with
  | ok b => exact hf b
  | error k => exact hg k
theorem decodeTry_same (inst b window part addr upset) : SameSnd w (w.decodeTry inst b window part addr upset) := by
  unfold Work.decodeTry
  extract_lets real stall v first
  have hv : SameSvn w v := by simp only [v, stall]; rw [sameSvn_iff, count_svn, count_svn, draw_svn]
  obtain ⟨x, hx⟩ : ∃ x, x = v := ⟨v, rfl⟩
  obtain ⟨f, hf⟩ : ∃ f, f = first := ⟨first, rfl⟩
  obtain ⟨r, hr⟩ : ∃ r, r = real := ⟨real, rfl⟩
  rw [← hf, ← hr, ← hx]
  rw [← hx] at hv
  clear hx hf hr first real v stall
  refine except_elim (P := SameSnd w) (fun img => sameSnd_mk _ _ hv) (fun k => ?_)
  extract_lets +onlyGivenNames u retry y
  have hy : SameSvn w y := by
    simp only [y]
    rw [sameSvn_iff]
    exact svn_of_ite (by rw [count_svn, count_svn, hv]) (by rw [count_svn, hv])
  obtain ⟨b, hb⟩ : ∃ r, r = retry := ⟨retry, rfl⟩
  obtain ⟨z, hz⟩ : ∃ r, r = y := ⟨y, rfl⟩
  rw [← hb, ← hz]
  rw [← hz] at hy
  clear hz hb
  cases b with
  | false => exact sameSnd_mk _ _ ((sameSvn_iff _ _).2 (svn_of_ite ((count_svn ..).trans hy) hy))
  | true =>
    cases r with
    | ok img =>
      refine sameSnd_mk _ _ ((sameSvn_iff _ _).2 ?_)
      exact svn_of_ite ((retireExpander_svn ..).trans ((report_svn ..).trans ((count_svn ..).trans hy)))
        ((report_svn ..).trans ((count_svn ..).trans hy))
    | error j => exact sameSnd_mk _ _ ((sameSvn_iff _ _).2 (svn_of_ite ((count_svn ..).trans hy) hy))
@[simp] theorem decodeTry_svn (inst b window part addr upset) : (w.decodeTry inst b window part addr upset).2.svn = w.svn :=
  decodeTry_same ..
@[simp] theorem decodeOn_svn (inst b window part addr upset) : (w.decodeOn inst b window part addr upset).2.svn = w.svn := by
  simp only [Work.decodeOn]
  split <;> simp
@[simp] theorem decodeStored_svn (inst c i b upset) : (w.decodeStored inst c i b upset).2.svn = w.svn := by
  simp only [Work.decodeStored]
  (repeat' split) <;> simp

/-! ## Spill.lean -/

@[simp] theorem startMove_svn (ci cls dst) : (w.startMove ci cls dst).svn = w.svn := (rfl)
@[simp] theorem spill_svn (cls p e) : (Plan.spill cls p e).w.svn = p.w.svn := by simp only [Plan.spill]; (repeat' split) <;> simp
@[simp] theorem lower_svn (p e) : (Plan.lower p e).w.svn = p.w.svn := by simp only [Plan.lower]; (repeat' split) <;> simp
@[simp] theorem promote_svn (cls p ci) : (Plan.promote cls p ci).w.svn = p.w.svn := by
  simp only [Plan.promote]
  (repeat' split) <;> simp
@[simp] theorem defend_svn : (w.defend).svn = w.svn := by grind [Work.defend, setFlag_svn, log_svn]
@[simp] theorem moveAside_svn (e) : (w.moveAside e).svn = w.svn := by simp only [Work.moveAside]; (repeat' split) <;> simp
@[simp] theorem evacuate_svn : (w.evacuate).svn = w.svn := by grind [Work.evacuate, foldl_svn, sameSvn_iff, moveAside_svn]
/-- Spilling or lowering partition by partition (R71). -/
theorem foldl_plans_svn {step : Plan → Nat × Course → Plan} (h : ∀ p e, (step p e).w.svn = p.w.svn) (tier : Nat)
    (l : List (Nat × Nat)) (p : Plan) :
    (l.foldl (fun (p : Plan) e => (p.w.victims e.1 tier).foldl step { p with need := e.2 }) p).w.svn = p.w.svn :=
  foldl_keeps (fun p : Plan => p.w.svn) (fun p e => (foldl_keeps (fun p : Plan => p.w.svn) h _ _ :
    (List.foldl step { p with need := e.2 } (p.w.victims e.1 tier)).w.svn = _)) l p
@[simp] theorem schedule_svn (cls grant) : (w.schedule cls grant).svn = w.svn := by
  cases cls
  case reserveDefence => simp only [Work.schedule]; split <;> simp [foldl_plans_svn]
  case watermarkDefence => simp only [Work.schedule]; split <;> simp [foldl_plans_svn]
  case lowerSpill => simp only [Work.schedule]; split <;> simp [foldl_plans_svn]
  case prefetch => exact foldl_keeps (fun p : Plan => p.w.svn) (promote_svn _) _ _
  case heat =>
    simp only [Work.schedule]
    split
    · exact foldl_keeps (fun p : Plan => p.w.svn) (promote_svn _) _ _
    · rfl
  case rebalance =>
    simp only [Work.schedule]
    split
    · rfl
    · refine foldl_keeps (fun p : Plan => p.w.svn) (fun p e => ?_) _ _
      split
      · split <;> simp
      · rfl
@[simp] theorem retireFrame_svn (f why) : (w.retireFrame f why).svn = w.svn := by simp [Work.retireFrame]
@[simp] theorem retireGrain_svn (die g why) : (w.retireGrain die g why).svn = w.svn := by simp [Work.retireGrain]
@[simp] theorem retireFreed_svn : (w.retireFreed).svn = w.svn := by simp [Work.retireFreed]
@[simp] theorem softRepair_svn : (w.softRepair).svn = w.svn := (rfl)
@[simp] theorem tilesToSource_svn (ci c) : (w.tilesToSource ci c).svn = w.svn := (rfl)
@[simp] theorem dropMove_svn (ci c) : (w.dropMove ci c).svn = w.svn := by unfold Work.dropMove; split <;> simp
@[simp] theorem pageUe_svn (ci pi) : (w.pageUe ci pi).svn = w.svn := by unfold Work.pageUe; split <;> simp
@[simp] theorem blockUe_svn (ci blk) : (w.blockUe ci blk).svn = w.svn := by unfold Work.blockUe; split <;> simp
@[simp] theorem retireBlks_svn (bs) : (w.retireBlks bs).svn = w.svn := by simp [Work.retireBlks]
@[simp] theorem blockDamaged_svn (ci blk) : (w.blockDamaged ci blk).svn = w.svn := by unfold Work.blockDamaged; split <;> simp
@[simp] theorem crcLoss_svn (ci pi) : (w.crcLoss ci pi).svn = w.svn := by unfold Work.crcLoss; split <;> simp
@[simp] theorem retireDst_svn (c dst) : (w.retireDst c dst).svn = w.svn := by unfold Work.retireDst; split <;> simp
@[simp] theorem restartMove_svn (mi) : (w.restartMove mi).svn = w.svn := by simp [Work.restartMove]; (repeat' split) <;> simp
@[simp] theorem moveAgain_svn (mi) : (w.moveAgain mi).svn = w.svn := by unfold Work.moveAgain; (repeat' split) <;> simp
@[simp] theorem countMoved_svn (c m) : (w.countMoved c m).svn = w.svn := by simp [Work.countMoved]
@[simp] theorem copyBlocks_svn (part src dst) : (w.copyBlocks part src dst).svn = w.svn := by simp [Work.copyBlocks]
@[simp] theorem badBlocks_svn (c) : (w.badBlocks c).2.svn = w.svn := by simp [Work.badBlocks]
@[simp] theorem loseFound_svn (ci bad) : (w.loseFound ci bad).svn = w.svn := by simp [Work.loseFound]
@[simp] theorem moveChecked_svn (mi c m) : (w.moveChecked mi c m).svn = w.svn := by simp [Work.moveChecked]
@[simp] theorem leaveOutAt_svn (mi f) : (w.leaveOutAt mi f).svn = w.svn := by unfold Work.leaveOutAt; (repeat' split) <;> simp
@[simp] theorem testRowUe_svn (st addr) : (w.testRowUe st addr).svn = w.svn := by simp [Work.testRowUe]
@[simp] theorem hbmError_svn (addr) : (w.hbmError addr).svn = w.svn := by
  rw [← sameSvn_iff]
  unfold Work.hbmError
  extract_lets st v u
  have hu : SameSvn w u := by
    simp only [u, v]
    rw [sameSvn_iff, isr_svn, capture_svn, count_svn]
  obtain ⟨x, hx⟩ : ∃ x, x = u := ⟨u, rfl⟩
  rw [← hx] at hu ⊢
  rw [sameSvn_iff] at hu
  cases addrFrame addr with
  | none => dsimp only; split <;> simp [hu]
  | some f => dsimp only; (repeat' split) <;> simp [hu]
@[simp] theorem loseDdr_svn (hit) : (w.loseDdr hit).svn = w.svn := by simp [Work.loseDdr]
@[simp] theorem ddrError_svn (die addr) : (w.ddrError die addr).svn = w.svn := by simp only [Work.ddrError]; split <;> simp
@[simp] theorem moveDstError_svn (mv c m) : (w.moveDstError mv c m).svn = w.svn := by
  simp only [Work.moveDstError]
  (repeat' split) <;> simp
@[simp] theorem tilesToCopy_svn (ci k dst) : (w.tilesToCopy ci k dst).svn = w.svn := (rfl)
@[simp] theorem commitMove_svn (mi m c) : (w.commitMove mi m c).svn = w.svn := by
  grind [Work.commitMove, foldl_svn, sameSvn_iff, log_svn, tilesToCopy_svn, setCourse_svn, writeHeader_svn, retireFreed_svn,
    freeLoc_svn]
@[simp] theorem noteCourse_svn (ci action) : (w.noteCourse ci action).svn = w.svn := by unfold Work.noteCourse; split <;> simp
@[simp] theorem notePage_svn (ci pi) : (w.notePage ci pi).svn = w.svn := by unfold Work.notePage; (repeat' split) <;> simp
@[simp] theorem noteRows_svn (ci pi row rows) : (w.noteRows ci pi row rows).svn = w.svn := by
  unfold Work.noteRows; (repeat' split) <;> simp
@[simp] theorem readPage_svn (c p upset) : (w.readPage c p upset).2.svn = w.svn := by simp only [Work.readPage]; split <;> simp
@[simp] theorem countCe_svn (key limit hours) : (w.countCe key limit hours).2.svn = w.svn := (rfl)
@[simp] theorem stackOut_svn (st) : (w.stackOut st).svn = w.svn := by
  grind [Work.stackOut, foldl_svn, sameSvn_iff, set_svn, setEnable_svn, capture_svn, losePages_svn, modCourse_svn, blockUe_svn,
    restartMove_svn, log_svn]

/-! ## Compress.lean -/

@[simp] theorem verifyFailed_svn (die limit) : (w.verifyFailed die limit).2.svn = w.svn := by simp [Work.verifyFailed]
@[simp] theorem emitBlock_svn (die r i b good) : (w.emitBlock die r i b good).2.svn = w.svn := by simp [Work.emitBlock]
@[simp] theorem countBlock_svn (b) : (w.countBlock b).svn = w.svn := (rfl)
@[simp] theorem showRatio_svn (r) : (w.showRatio r).svn = w.svn := (rfl)
@[simp] theorem landBlock_svn (mv c i b) : (w.landBlock mv c i b).svn = w.svn := by
  grind [Work.landBlock, placeDdr_svn, store_svn, modMove_svn, countBlock_svn, count_svn, abandonMove_svn]
@[simp] theorem emitSpill_svn (die mv blk bytes corrupt) : (w.emitSpill die mv blk bytes corrupt).svn = w.svn := by
  simp only [Work.emitSpill]
  (repeat' split) <;> simp
@[simp] theorem installImage_svn (c frame blk img) : (w.installImage c frame blk img).2.svn = w.svn := by simp [Work.installImage]
@[simp] theorem markTiles_svn (ci f) : (w.markTiles ci f).svn = w.svn := (rfl)
@[simp] theorem segmentDone_svn (die layer blk) : (w.segmentDone die layer blk).svn = w.svn := by simp [Work.segmentDone]
@[simp] theorem decodeMove_svn (inst mv blk upset) : (w.decodeMove inst mv blk upset).svn = w.svn := by
  simp only [Work.decodeMove]
  (repeat' split) <;> simp
@[simp] theorem decodeThrough_svn (inst ci blk upset) : (w.decodeThrough inst ci blk upset).svn = w.svn := by
  simp only [Work.decodeThrough]
  (repeat' split) <;> simp
@[simp] theorem decodeSegment_svn (inst die layer blk upset) : (w.decodeSegment inst die layer blk upset).svn = w.svn := by
  unfold Work.decodeSegment; (repeat' split) <;> simp

/-! ## Keystone.lean -/

@[simp] theorem ksRewrite_svn (bank idx) : (w.ksRewrite bank idx).svn = w.svn := by unfold Work.ksRewrite; (repeat' split) <;> simp
@[simp] theorem ksParity_svn (bank) : (w.ksParity bank).svn = w.svn := (rfl)
@[simp] theorem ksSoft_svn (bank idx) : (w.ksSoft bank idx).svn = w.svn := by simp [Work.ksSoft]
@[simp] theorem ksLookup_svn (table key agrees) : (w.ksLookup table key agrees).2.svn = w.svn := by
  unfold Work.ksLookup
  grind [count_svn, ksRewrite_svn, ksParity_svn]
@[simp] theorem sessionByCid_svn (part cid) : (w.sessionByCid part cid).2.svn = w.svn := by simp [Work.sessionByCid]
@[simp] theorem ksWrite_svn (bank key prio result) : (w.ksWrite bank key prio result).2.svn = w.svn := (rfl)
@[simp] theorem ksInsert_svn (table key result) : (w.ksInsert table key result).2.svn = w.svn := by
  unfold Work.ksInsert; split <;> simp
@[simp] theorem ksErase_svn (bank idx) : (w.ksErase bank idx).svn = w.svn := (rfl)
@[simp] theorem ksEraseConn_svn (id) : (w.ksEraseConn id).svn = w.svn := by unfold Work.ksEraseConn; split <;> simp
@[simp] theorem ksInsertConn_svn (id slot) : (w.ksInsertConn id slot).svn = w.svn := by simp [Work.ksInsertConn]
@[simp] theorem scanBank_svn (b) : (w.scanBank b).svn = w.svn := by simp [Work.scanBank]
@[simp] theorem upset_svn (e) : (w.upset e).svn = w.svn := (rfl)
@[simp] theorem scanKeys_svn : (w.scanKeys).svn = w.svn := by simp [Work.scanKeys]
@[simp] theorem keyUpsets_svn : (w.keyUpsets).svn = w.svn := by simp [Work.keyUpsets]

/-! ## Prefix.lean -/

@[simp] theorem prefixMoves_svn (bytes) : (w.prefixMoves bytes).svn = w.svn := (rfl)
theorem verifyFrom_succ (part fmt layers b fuel ceiling soft) : w.verifyFrom part fmt layers b (fuel + 1) ceiling soft =
    let w := w.count Reg.KEY_SEARCHES
    match w.ksSearch tblPrefix part (prefixKey b.id b.parent b.tokens) ceiling with
    | none => (none, w)
    | some h =>
      let agrees := match w.treeRec h.result with
        | some r => r.blockId = b.id
        | none => false
      let w := w.prefixMoves 128
      if !h.parityOk ∨ !agrees then
        let w := if h.parityOk then w.count Reg.KEY_FALSE_SOFT else w.ksParity h.bank
        let w := w.ksSoft h.bank h.idx
        if soft then (none, w) else w.verifyFrom part fmt layers b fuel ceiling true
      else match w.treeRec h.result with
        | some r =>
          if r.isBlock b fmt layers ∧ !r.dying then (some h.result, w.count Reg.KEY_HITS)
          else
            let w := (w.count Reg.KEY_FALSE_COLLIDE).log
              { code := 0x4402, page := 0x27, arg := b.id / 2 ^ 32, detail := b.id % 2 ^ 32, part := some part }
            w.verifyFrom part fmt layers b fuel (some h.prio) soft
        | none => (none, w) := by rfl
@[simp] theorem verifyFrom_svn (part fmt layers b fuel ceiling soft) :
    (w.verifyFrom part fmt layers b fuel ceiling soft).2.svn = w.svn := by
  induction fuel generalizing w ceiling soft with
  | zero => rfl
  | succ n ih => grind [verifyFrom_succ, count_svn, prefixMoves_svn, ksParity_svn, ksSoft_svn, log_svn]
@[simp] theorem verifyBlock_svn (part fmt layers b) : (w.verifyBlock part fmt layers b).2.svn = w.svn := by simp [Work.verifyBlock]
@[simp] theorem showWaiting_svn : (w.showWaiting).svn = w.svn := (rfl)
@[simp] theorem startPrefix_svn (o) : (w.startPrefix o).svn = w.svn := by simp only [Work.startPrefix]; split <;> simp
@[simp] theorem takePrefix_svn (kind src part b) : (w.takePrefix kind src part b).svn = w.svn := by
  simp only [Work.takePrefix]
  (repeat' split) <;> simp
@[simp] theorem prefixRequest_svn (kind src b) : (w.prefixRequest kind src b).svn = w.svn := by
  simp only [Work.prefixRequest]
  split <;> simp
@[simp] theorem addRef_svn (ci) : (w.addRef ci).svn = w.svn := (rfl)
@[simp] theorem attachBlock_svn (si ti) : (w.attachBlock si ti).svn = w.svn := by unfold Work.attachBlock; split <;> simp
theorem verifyRun_cons (o b bs) : w.verifyRun o (b :: bs) =
    let r := w.verifyBlock o.part o.fmt o.layers b
    match r.1 with
    | none => ([], r.2)
    | some i => (i :: (r.2.verifyRun o bs).1, (r.2.verifyRun o bs).2) := by rfl
@[simp] theorem verifyRun_svn (o bs) : (w.verifyRun o bs).2.svn = w.svn := by
  induction bs generalizing w with
  | nil => rfl
  | cons b bs ih => grind [verifyRun_cons, verifyBlock_svn]
@[simp] theorem doMatch_svn (o) : (w.doMatch o).svn = w.svn := by simp only [Work.doMatch]; split <;> simp
@[simp] theorem retractRec_svn (ti) : (w.retractRec ti).svn = w.svn := by unfold Work.retractRec; (repeat' split) <;> simp
@[simp] theorem prefixRoom_svn (part) : (w.prefixRoom part).2.svn = w.svn := by unfold Work.prefixRoom; (repeat' split) <;> simp
@[simp] theorem indexBlock_svn (o b) : (w.indexBlock o b).2.svn = w.svn := by
  simp only [Work.indexBlock]
  split
  · simp
  · split
    · simp
    · split <;> simp
      rw [foldl_svn]
      · simp; split <;> simp
      · simp; intros; split <;> simp
theorem publishFrom_cons (o b bs) : w.publishFrom o (b :: bs) =
    if blockIdOf b.parent b.tokens ≠ b.id then (0, w)
    else
      let r := w.verifyBlock o.part o.fmt o.layers b
      match r.1 with
      | some _ => r.2.publishFrom o bs
      | none =>
        let x := r.2.indexBlock o b
        if x.1 then ((x.2.publishFrom o bs).1 + 1, (x.2.publishFrom o bs).2) else (0, x.2) := by rfl
@[simp] theorem publishFrom_svn (o bs) : (w.publishFrom o bs).2.svn = w.svn := by
  induction bs generalizing w with
  | nil => rfl
  | cons b bs ih => grind [publishFrom_cons, verifyBlock_svn, indexBlock_svn]
theorem eachBlock_cons (o b bs) : w.eachBlock o (b :: bs) =
    let r := w.verifyBlock o.part o.fmt o.layers b
    match r.1 with
    | none => r.2
    | some t =>
      match o.kind with
      | .retract =>
        if ((r.2.treeRec t).map (·.children)).getD 0 ≠ 0 then r.2 else (r.2.retractRec t).eachBlock o bs
      | .pin => ((r.2.modTree t fun x => { x with pinned := true }).noteTree t 3).eachBlock o bs
      | _ => ((r.2.modTree t fun x => { x with pinned := false }).noteTree t 4).eachBlock o bs := by rfl
@[simp] theorem eachBlock_svn (o bs) : (w.eachBlock o bs).svn = w.svn := by
  induction bs generalizing w with
  | nil => rfl
  | cons b bs ih => grind [eachBlock_cons, verifyBlock_svn, retractRec_svn, noteTree_svn, modTree_svn]
@[simp] theorem finishPrefix_svn (o) : (w.finishPrefix o).svn = w.svn := by simp only [Work.finishPrefix]; (repeat' split) <;> simp
@[simp] theorem prefixDone_svn (o) : (w.prefixDone o).svn = w.svn := by simp [Work.prefixDone]
@[simp] theorem prefixCharge_svn (x) : (w.prefixCharge x).svn = w.svn := by simp [Work.prefixCharge]

/-! ## Home.lean -/

@[simp] theorem endHomeRun_svn (si) : (w.endHomeRun si).svn = w.svn := (rfl)
@[simp] theorem sendHome_svn (si) : (w.sendHome si).svn = w.svn := by unfold Work.sendHome; (repeat' split) <;> simp
@[simp] theorem startHome_svn (op si part cid origin) : (w.startHome op si part cid origin).svn = w.svn := by simp [Work.startHome]
@[simp] theorem startRelease_svn (part cid origin epoch) : (w.startRelease part cid origin epoch).svn = w.svn := by
  simp [Work.startRelease]

/-! ## Sessions.lean -/

@[simp] theorem freeIndex_svn : (w.freeIndex).2.svn = w.svn := (rfl)
@[simp] theorem makeSession_svn (part fmt layers cid hint src tag) :
    (w.makeSession part fmt layers cid hint src tag).2.svn = w.svn := by
  simp only [Work.makeSession]
  split <;> simp
@[simp] theorem freeSession_svn (i) : (w.freeSession i).svn = w.svn := by unfold Work.freeSession; (repeat' split) <;> simp
@[simp] theorem sessionReady_svn (i) : (w.sessionReady i).svn = w.svn := by simp only [Work.sessionReady]; (repeat' split) <;> simp
@[simp] theorem refuseSession_svn (src tag status) : (w.refuseSession src tag status).svn = w.svn := by simp [Work.refuseSession]
@[simp] theorem sessionRequest_svn (src desc op) {act} (h : ∀ w p m t, SameSvn w (act w p m t)) :
    (w.sessionRequest src desc op act).svn = w.svn := by
  grind [Work.sessionRequest, sameSvn_iff, srcActs_svn, refuseSession_svn]
@[simp] theorem openExisting_svn (src tag i fmt layers) : (w.openExisting src tag i fmt layers).svn = w.svn := by
  unfold Work.openExisting; (repeat' split) <;> simp
@[simp] theorem openOp_svn (src desc) : (w.openOp src desc).svn = w.svn := by
  grind [Work.openOp, sameSvn_iff, sessionRequest_svn, sessionByCid_svn, openExisting_svn, refuseSession_svn, makeSession_svn,
    startHome_svn, arrive_svn, setSession_svn, sessionReady_svn]
theorem forkPage_svn {f : Forking} {part child childHandle li pos q g} (h : f.page part child childHandle li pos q = some g) :
    g.w.svn = f.w.svn := by grind [Forking.page, allocCourse_svn]
@[simp] theorem forkChild_svn (part p cid pos src tag) : (w.forkChild part p cid pos src tag).2.svn = w.svn := by
  simp only [Work.forkChild]
  split
  · rfl
  · split
    · rfl
    next h =>
      have hk := foldl_option_keeps (fun a : Work × List Layer × List Nat × List ForkCopy => a.1.svn) (fun _ => rfl)
        (fun b x c hc => by
          obtain ⟨y, hy, rfl⟩ := Option.map_eq_some_iff.1 hc
          exact foldl_bind_keeps (fun f : Forking => f.w.svn) (fun _ _ _ hf => forkPage_svn hf) hy) h
      simpa using hk
@[simp] theorem forkOp_svn (src desc) : (w.forkOp src desc).svn = w.svn := by
  grind [Work.forkOp, sameSvn_iff, sessionRequest_svn, refuseSession_svn, sessionByCid_svn, forkChild_svn, arrive_svn,
    startHome_svn, modSession_svn]
@[simp] theorem landCopy_svn (k) : (w.landCopy k).svn = w.svn := by simp only [Work.landCopy]; (repeat' split) <;> simp
@[simp] theorem dropStaged_svn (pick status) : (w.dropStaged pick status).svn = w.svn := by simp [Work.dropStaged]
@[simp] theorem dropHoldings_svn (i) : (w.dropHoldings i).svn = w.svn := by unfold Work.dropHoldings; (repeat' split) <;> simp
@[simp] theorem beginClose_svn (i waiting) : (w.beginClose i waiting).svn = w.svn := by unfold Work.beginClose; split <;> simp
@[simp] theorem closeOp_svn (src desc) : (w.closeOp src desc).svn = w.svn := by
  grind [Work.closeOp, sameSvn_iff, sessionRequest_svn, refuseSession_svn, beginClose_svn, arrive_svn]

/-! ## Append.lean -/

theorem newPages_svn {si li s fp n fuel i cur p q} (h : Work.newPages si li s fp n fuel i cur p = some q) : q.w.svn = p.w.svn := by
  induction fuel generalizing i cur p <;> grind [Work.newPages, allocCourse_svn]
theorem placeRows_svn {si li s l fp n p} (h : w.placeRows si li s l fp n = some p) : p.w.svn = w.svn := by
  unfold Work.placeRows at h
  rw [newPages_svn h]
  dsimp only
  split <;> rfl
@[simp] theorem cancelSpill_svn (ci) : (w.cancelSpill ci).svn = w.svn := by unfold Work.cancelSpill; split <;> simp
@[simp] theorem countRows_svn (p si li rows done) : (Work.countRows p si li rows done).2.svn = p.w.svn := by
  simp only [Work.countRows]
  split
  · rfl
  · simp
    rw [foldl_svn]
    intro w e
    simp only [sameSvn_iff]
    (repeat' split) <;> simp
@[simp] theorem beginTailCopy_svn (si li s l ci pi) : (w.beginTailCopy si li s l ci pi).svn = w.svn := by
  simp only [Work.beginTailCopy]
  (repeat' split) <;> simp
@[simp] theorem stage_svn (g) : (w.stage g).svn = w.svn := by simp [Work.stage]
theorem chargePool_svn (bytes) {v} (h : w.chargePool bytes = some v) : v.svn = w.svn := by grind [Work.chargePool, log_svn]
theorem chargeAppend_svn (part bytes packed) {v} (h : w.chargeAppend part bytes packed = some v) : v.svn = w.svn := by
  simp only [Work.chargeAppend, Option.map_eq_some_iff, Option.ite_none_left_eq_some] at h
  obtain ⟨-, x, hx, rfl⟩ := h
  grind [chargePool_svn]
theorem acceptAppend_svn (src tag si li s l jump raw first e rows at_) {v} (h :
    w.acceptAppend src tag si li s l jump raw first e rows at_ = .ok v) : v.svn = w.svn := by
  grind [Work.acceptAppend, count_svn, arrive_svn, stage_svn, complete_svn, beginTailCopy_svn, placeRows_svn, countRows_svn]
@[simp] theorem takeAppend_svn (src part b at_) : (w.takeAppend src part b at_).svn = w.svn := by
  simp only [Work.takeAppend]
  refine svn_of_ite (refuseSession_svn ..) (svn_of_ite (refuseSession_svn ..) (svn_of_ite (refuseSession_svn ..) ?_))
  split
  · simp
  · split
    · simp
    · refine svn_of_ite (refuseSession_svn ..) ?_
      split
      · simp
      · refine svn_of_ite (refuseSession_svn ..) ?_
        split
        · simp
        next hc =>
          split
          next ha => exact (acceptAppend_svn (h := ha)).trans (chargeAppend_svn (h := hc))
          · simp
@[simp] theorem tryStaged_svn (g) : (w.tryStaged g).2.svn = w.svn := by
  grind [Work.tryStaged, log_svn, count_svn, complete_svn, beginTailCopy_svn, placeRows_svn, countRows_svn]
@[simp] theorem layerPass_svn (fuel l held) : (Work.layerPass fuel w l held).svn = w.svn := by
  induction fuel generalizing w l held with
  | zero => rfl
  | succ n ih =>
    cases l with
    | nil => rfl
    | cons g l => grind [Work.layerPass, tryStaged_svn]
@[simp] theorem layerEnd_svn (l) : (w.layerEnd l).svn = w.svn := by simp [Work.layerEnd]

/-! ## Clusters.lean -/

@[simp] theorem moveSlot_svn (from_ dest) : (w.moveSlot from_ dest).svn = w.svn := by simp [Work.moveSlot]
@[simp] theorem retireBank_svn (field retire spare) : (w.retireBank field retire spare).svn = w.svn := by simp [Work.retireBank]
@[simp] theorem faultCluster_svn (c cause bufOff) : (w.faultCluster c cause bufOff).svn = w.svn := by
  simp only [Work.faultCluster]
  (repeat' split) <;> simp
@[simp] theorem faultSwapsTake_svn : (w.faultSwapsTake).svn = w.svn := by
  grind [Work.faultSwapsTake, foldl_svn, sameSvn_iff, count_svn, set_svn, moveSlot_svn, extendFree_svn, log_svn]
@[simp] theorem decodeLayer_svn (l) : (w.decodeLayer l).svn = w.svn := by simp [Work.decodeLayer]
@[simp] theorem decodePackage_svn (ls) : (w.decodePackage ls).svn = w.svn := by simp [Work.decodePackage]
@[simp] theorem showStores_svn (ls) : (w.showStores ls).svn = w.svn := (rfl)
@[simp] theorem fillStore_svn : (w.fillStore).svn = w.svn := by simp only [Work.fillStore]; split <;> simp
@[simp] theorem weightsTake_svn : (w.weightsTake).svn = w.svn := by unfold Work.weightsTake; split <;> simp

/-! ## Attend.lean -/

@[simp] theorem runItem_svn (slot c x q t m) : (w.runItem slot c x q t m).1.svn = w.svn := (rfl)

/-! ## Links.lean -/

@[simp] theorem setPort_svn (p h v) : (w.setPort p h v).svn = w.svn := by simp [Work.setPort]
@[simp] theorem sendSlots_svn (p h slots) : (w.sendSlots p h slots).svn = w.svn := (rfl)
@[simp] theorem ctrlFlit_svn (p h bs) : (w.ctrlFlit p h bs).svn = w.svn := (rfl)
@[simp] theorem flitCheck_svn (p flit type) {act} (h : ∀ w, SameSvn w (act w)) : (w.flitCheck p flit type act).svn = w.svn := by
  grind [Work.flitCheck, sameSvn_iff, count_svn]
@[simp] theorem sendHello_svn (p h) : (w.sendHello p h).svn = w.svn := (rfl)
@[simp] theorem helloIfChanged_svn (p h) : (w.helloIfChanged p h).svn = w.svn := by simp [Work.helloIfChanged]
@[simp] theorem sendCredit_svn (p h) : (w.sendCredit p h).svn = w.svn := (rfl)
@[simp] theorem setRate_svn (p) : (w.setRate p).svn = w.svn := (rfl)
@[simp] theorem startPort_svn (p) : (w.startPort p).svn = w.svn := by simp [Work.startPort]
@[simp] theorem showLaneSpare_svn (p) : (w.showLaneSpare p).svn = w.svn := by simp [Work.showLaneSpare]
@[simp] theorem retrain_svn (p) : (w.retrain p).svn = w.svn := by simp [Work.retrain]
@[simp] theorem dropPort_svn (p h cause) : (w.dropPort p h cause).svn = w.svn := by simp only [Work.dropPort]; split <;> simp
@[simp] theorem enterUp_svn (p h) : (w.enterUp p h).svn = w.svn := by simp [Work.enterUp]
@[simp] theorem rehRetrain_svn (die) : (w.rehRetrain die).svn = w.svn := by simp only [Work.rehRetrain]; split <;> simp
@[simp] theorem askSwap_svn (p lane hard must) : (w.askSwap p lane hard must).svn = w.svn := by simp [Work.askSwap]
@[simp] theorem takeSwap_svn (p h sw spareOk) : (w.takeSwap p h sw spareOk).svn = w.svn := by simp [Work.takeSwap]
@[simp] theorem lpCtrlWrite_svn (wr) : (w.lpCtrlWrite wr).svn = w.svn := by simp only [Work.lpCtrlWrite]; split <;> simp
@[simp] theorem endPeriod_svn (p h good corrected) : (w.endPeriod p h good corrected).svn = w.svn := (rfl)
@[simp] theorem freeRx_svn (p h pkt) : (w.freeRx p h pkt).svn = w.svn := by unfold Work.freeRx; split <;> simp
@[simp] theorem berCl_svn (p lane) : (w.berCl p lane).2.svn = w.svn := by simp [Work.berCl]

/-! ## Copies.lean -/

@[simp] theorem dropCopy_svn (src part c) : (w.dropCopy src part c).svn = w.svn := by unfold Work.dropCopy; split <;> simp
@[simp] theorem putIn_svn (s) : (w.putIn s).svn = w.svn := by simp [Work.putIn]
@[simp] theorem dropIn_svn (s) : (w.dropIn s).svn = w.svn := by simp [Work.dropIn]
@[simp] theorem newCopy_svn (part e) : (w.newCopy part e).2.svn = w.svn := by simp [Work.newCopy]
theorem openCopy_svn (i) {v} (h : w.openCopy i = some v) : v.svn = w.svn := by
  simp only [Work.openCopy] at h
  (repeat' split at h) <;> cases h
  · rfl
  all_goals
  rw [modCourse_svn, loseFound_svn, snd_foldl_svn]
  · simp
  · intro a e; simp; split <;> simp
theorem copyRows_svn (i e) {v} (h : w.copyRows i e = some v) : v.svn = w.svn := by
  obtain ⟨x, hx, rfl⟩ := Option.map_eq_some_iff.1 h
  grind [openCopy_svn, setCourse_svn, store_svn, writeHeader_svn]
theorem copyImage_svn (i first items img) {v} (h : w.copyImage i first items img = some v) : v.svn = w.svn := by
  obtain ⟨x, hx, rfl⟩ := Option.map_eq_some_iff.1 h
  rw [foldl_svn, openCopy_svn w _ hx]
  grind [sameSvn_iff, setCourse_svn, store_svn, writeHeader_svn]
@[simp] theorem placeReceived_svn (c blk b) : (w.placeReceived c blk b).2.svn = w.svn := by
  simp only [Work.placeReceived]
  split <;> simp
theorem copyBlock_svn (i b img) {v} (h : w.copyBlock i b img = some v) : v.svn = w.svn := by
  simp only [Work.copyBlock] at h
  grind [copyImage_svn, placeReceived_svn, setCourse_svn, store_svn, Option.map_eq_some_iff]
@[simp] theorem modEntry_svn (src part ci f) : (w.modEntry src part ci f).svn = w.svn := by unfold Work.modEntry; split <;> simp
@[simp] theorem makeCopy_svn (src part ci) : (w.makeCopy src part ci).svn = w.svn := by unfold Work.makeCopy; split <;> simp
theorem takeRun_svn (src part e) {v} (h : w.takeRun src part e = some v) : v.svn = w.svn := by
  grind [Work.takeRun, copyRows_svn, modEntry_svn]
theorem copyRecord_svn {src part seed blocks r v} (h : Work.copyRecord src part seed blocks w r = some v) : v.svn = w.svn := by
  unfold Work.copyRecord at h
  dsimp only at h
  split at h
  · grind
  · split at h
    · grind [putIn_svn, makeCopy_svn]
    · grind [modCourse_svn, writeHeader_svn]
    · split at h
      · grind
      · split at h
        · exact foldl_bind_keeps (f := fun w e => w.takeRun src part e) Work.svn (fun w e v hv => takeRun_svn w _ _ _ hv) h
        · grind [copyBlock_svn]
    · grind [putIn_svn]
theorem seedsTaken_svn {src part recs v} (h : Work.seedsTaken src part recs w = some v) : v.svn = w.svn := by
  refine foldl_bind_keeps Work.svn (fun w ci v hv => ?_) h
  have : v.svn = _ := foldl_bind_keeps (f := fun w e => w.takeRun src part e) Work.svn (fun w e v hv => takeRun_svn w _ _ _ hv) hv
  simpa using this
theorem applyAll_svn (src part h recs blocks) {v} (hv : w.applyAll src part h recs blocks = some v) : v.svn = w.svn := by
  unfold Work.applyAll at hv
  dsimp only at hv
  obtain ⟨x, hx, rfl⟩ := Option.map_eq_some_iff.1 hv
  have : x.svn = w.svn := by
    split at hx
    · obtain ⟨y, hy, hyx⟩ := Option.bind_eq_some_iff.1 hx
      rw [seedsTaken_svn y hyx]
      exact foldl_bind_keeps (f := fun w e => w.copyRecord src part _ blocks e) Work.svn (fun w e v hv => copyRecord_svn w hv) hy
    · exact foldl_bind_keeps (f := fun w e => w.copyRecord src part _ blocks e) Work.svn (fun w e v hv => copyRecord_svn w hv) hx
  grind [putIn_svn]
theorem applyIn_svn (s h recs blocks) {v} (hv : w.applyIn s h recs blocks = some v) : v.svn = w.svn := by
  unfold Work.applyIn at hv
  cases hw : (w.setIn s).applyAll s.src s.part h recs blocks with
  | none => rw [hw] at hv; simpa using applyAll_svn _ _ _ _ _ _ hv
  | some x => rw [hw] at hv; cases hv; simpa using applyAll_svn _ _ _ _ _ _ hw
theorem adoptCopy_svn (i si handle x) {v} (h : w.adoptCopy i si handle x = some v) : v.svn = w.svn := by
  obtain ⟨x, hx, rfl⟩ := Option.map_eq_some_iff.1 h
  grind [openCopy_svn, modCourse_svn, foldl_svn, sameSvn_iff, writeHeader_svn]
theorem takePage_svn {t : Taking} {si handle x li e u} (h : t.page si handle x li e = some u) : u.w.svn = t.w.svn := by
  simp only [Taking.page] at h
  (repeat' split at h) <;> grind [foldl_svn, sameSvn_iff, adoptCopy_svn, allocCourse_svn, setCourse_svn, writeHeader_svn,
    store_svn, zero_svn, modPage_svn]
@[simp] theorem trimCourse_svn (ci stays) : (w.trimCourse ci stays).svn = w.svn := by unfold Work.trimCourse; split <;> simp
@[simp] theorem seedTaken_svn (part si used) : (w.seedTaken part si used).svn = w.svn := by unfold Work.seedTaken; split <;> simp
@[simp] theorem takeSlice_svn (src part cid origin epoch) : (w.takeSlice src part cid origin epoch).2.svn = w.svn := by
  simp only [Work.takeSlice]
  split
  · rfl
  · split
    · rfl
    · split
      · rfl
      · split
        · rfl
        next h =>
          have hk := foldl_option_keeps (fun a : Taking × List Layer => a.1.w.svn) (fun _ => rfl) (fun b x c hc => by
            obtain ⟨y, hy, rfl⟩ := Option.map_eq_some_iff.1 hc
            have : y.w.svn = _ := foldl_bind_keeps (fun f : Taking => f.w.svn) (fun _ _ _ hf => takePage_svn hf) hy
            exact this) h
          simpa using hk
@[simp] theorem takeTree_svn (s r) : (w.takeTree s r).svn = w.svn := by simp only [Work.takeTree]; (repeat' split) <;> simp

/-! ## Ownership.lean -/

@[simp] theorem dropNew_svn (si status) : (w.dropNew si status).svn = w.svn := by unfold Work.dropNew; (repeat' split) <;> simp
@[simp] theorem restartHome_svn (si) : (w.restartHome si).svn = w.svn := by unfold Work.restartHome; split <;> simp
@[simp] theorem reconcile_svn (si) : (w.reconcile si).svn = w.svn := by unfold Work.reconcile; split <;> simp
@[simp] theorem takenOne_svn (cid former part outcome) : (w.takenOne cid former part outcome).svn = w.svn := by simp [Work.takenOne]
@[simp] theorem takeoverEnd_svn (r former e) : (w.takeoverEnd r former e).svn = w.svn := by
  simp only [Work.takeoverEnd]
  (repeat' split) <;> simp
@[simp] theorem homeEnd_svn (r e) : (w.homeEnd r e).svn = w.svn := by simp only [Work.homeEnd]; (repeat' split) <;> simp
@[simp] theorem homeAnswer_svn (si found) : (w.homeAnswer si found).svn = w.svn := by
  simp only [Work.homeAnswer]
  (repeat' split) <;> simp
@[simp] theorem homeFailed_svn (si) : (w.homeFailed si).svn = w.svn := by simp [Work.homeFailed]
@[simp] theorem homeLocal_svn (fuel si) : (w.homeLocal fuel si).svn = w.svn := by
  induction fuel generalizing w si <;> grind [Work.homeLocal, store_svn, homeAnswer_svn]
@[simp] theorem homeKick_svn : (w.homeKick).svn = w.svn := by simp [Work.homeKick]
@[simp] theorem endLease_svn : (w.endLease).svn = w.svn := by simp [Work.endLease]

/-! ## Mirror.lean -/

@[simp] theorem putStream_svn (s) : (w.putStream s).svn = w.svn := by simp [Work.putStream]
@[simp] theorem restoreFailed_svn (ci) : (w.restoreFailed ci).svn = w.svn := by simp only [Work.restoreFailed]; split <;> simp
@[simp] theorem restoresFailed_svn (p) : (w.restoresFailed p).svn = w.svn := by simp [Work.restoresFailed]
@[simp] theorem commitsFailed_svn (p) : (w.commitsFailed p).svn = w.svn := by unfold Work.commitsFailed; split <;> simp
@[simp] theorem streamLost_svn (p) : (w.streamLost p).svn = w.svn := by simp only [Work.streamLost]; split <;> simp
@[simp] theorem startSeeding_svn (p) : (w.startSeeding p).svn = w.svn := by simp [Work.startSeeding]
@[simp] theorem seedsDone_svn (p) : (w.seedsDone p).svn = w.svn := by unfold Work.seedsDone; split <;> simp
@[simp] theorem streamCheckConn_svn (p) : (w.streamCheckConn p).svn = w.svn := by unfold Work.streamCheckConn; split <;> simp
@[simp] theorem streamsCheckConn_svn : (w.streamsCheckConn).svn = w.svn := by simp [Work.streamsCheckConn]
@[simp] theorem startStream_svn (p) : (w.startStream p).svn = w.svn := by simp [Work.startStream]
@[simp] theorem endStream_svn (p) : (w.endStream p).svn = w.svn := by simp only [Work.endStream]; split <;> simp
@[simp] theorem emitRows_svn (die part l) : (w.emitRows die part l).2.svn = w.svn := by
  induction l generalizing w <;> grind [Work.emitRows, verifyFailed_svn, countBlock_svn]
@[simp] theorem emitCourse_svn (die r i l) : (w.emitCourse die r i l).2.svn = w.svn := by
  induction l generalizing w r i <;> grind [Work.emitCourse, emitBlock_svn, countBlock_svn]
theorem putBatch_svn (s b d) {x v} (h : w.putBatch s b d = some (x, v)) : v.svn = w.svn := by
  grind [Work.putBatch, snd_foldl_svn, sameSvn_iff, sendMsg_svn]
@[simp] theorem sendBatch_svn (s b blocks kind0 rows) : (w.sendBatch s b blocks kind0 rows).svn = w.svn := by
  grind [Work.sendBatch, putBatch_svn, streamLost_svn, setStream_svn, count_svn, meter_svn]
@[simp] theorem sendRows_svn (st b blocks) : (w.sendRows st b blocks).svn = w.svn := by
  simp only [Work.sendRows]
  (repeat' split) <;> simp
@[simp] theorem sendSeed_svn (st ci rest blocks) : (w.sendSeed st ci rest blocks).svn = w.svn := by
  simp only [Work.sendSeed]
  (repeat' split) <;> simp
@[simp] theorem commitsDone_svn (p) : (w.commitsDone p).svn = w.svn := by unfold Work.commitsDone; split <;> simp
@[simp] theorem commitOp_svn (src desc) : (w.commitOp src desc).svn = w.svn := by
  unfold Work.commitOp
  split
  · rfl
  · refine srcActs_svn _ _ _ _ fun w => ?_
    grind [sameSvn_iff, count_svn, complete_svn, streamCheckConn_svn, metaChange_svn, arrive_svn, setStream_svn]
@[simp] theorem resendBatch_svn (s b d) : (w.resendBatch s b d).svn = w.svn := by
  grind [Work.resendBatch, putBatch_svn, streamLost_svn, setStream_svn]
@[simp] theorem batchOutcome_svn (part gen seq status) : (w.batchOutcome part gen seq status).svn = w.svn := by
  unfold Work.batchOutcome; (repeat' split) <;> simp
@[simp] theorem sendRestore_svn (q pages blocks) : (w.sendRestore q pages blocks).svn = w.svn := by simp [Work.sendRestore]
@[simp] theorem sendReplies_svn : (w.sendReplies).svn = w.svn := by
  grind [Work.sendReplies, foldl_svn, sameSvn_iff, log_svn, sendRestore_svn, badBlocks_svn, loseFound_svn]
@[simp] theorem owe_svn (q) : (w.owe q).svn = w.svn := by simp [Work.owe]
@[simp] theorem restoreEnded_svn (q status) : (w.restoreEnded q status).svn = w.svn := by simp [Work.restoreEnded]
@[simp] theorem jobDone_svn (r) : (w.jobDone r).svn = w.svn := by simp only [Work.jobDone]; (repeat' split) <;> simp
@[simp] theorem emitJob_svn (die job blk bytes corrupt) : (w.emitJob die job blk bytes corrupt).svn = w.svn := by
  grind [Work.emitJob, foldl_svn, sameSvn_iff, dropRun_svn, sendReplies_svn, crcLoss_svn, showRatio_svn, emitBlock_svn,
    countBlock_svn, jobDone_svn, setRun_svn, count_svn]
theorem restoreCourse_svn (ci imgs) {v} (h : w.restoreCourse ci imgs = some v) : v.svn = w.svn := by
  simp only [Work.restoreCourse] at h
  grind [foldl_svn, sameSvn_iff, tryStacks_svn, zero_svn, setCourse_svn, writeHeader_svn, store_svn, count_svn]
@[simp] theorem takeRestore_svn (recs blocks) : (w.takeRestore recs blocks).svn = w.svn := by
  grind [Work.takeRestore, restoreCourse_svn, log_svn, restoreFailed_svn]
@[simp] theorem ingressBlock_svn (s part data r) : (w.ingressBlock s part data r).2.svn = w.svn := by
  unfold Work.ingressBlock
  extract_lets ci b h b die at_ inst kind x
  have hx : x.2.svn = w.svn := by simp [x, at_, die]
  split <;> simp [hx]
@[simp] theorem ingress_svn (s part recs data) : (w.ingress s part recs data).2.svn = w.svn := by
  simp only [Work.ingress]
  rw [snd_foldl_svn]
  intro a r
  simp only [sameSvn_iff]
  split <;> simp
@[simp] theorem endData_svn (data status damaged) : (w.endData data status damaged).svn = w.svn := by simp [Work.endData]
@[simp] theorem refuseBatch_svn (conn msn b status) : (w.refuseBatch conn msn b status).svn = w.svn := by simp [Work.refuseBatch]
@[simp] theorem actBatch_svn (s conn msn b h data) : (w.actBatch s conn msn b h data).svn = w.svn := by
  grind [Work.actBatch, ingress_svn, setIn_svn, endData_svn, completeMsg_svn, owe_svn, applyIn_svn, meter_svn, count_svn]
@[simp] theorem drainIn_svn (src part fuel) : (w.drainIn src part fuel).svn = w.svn := by
  induction fuel generalizing w with
  | zero => rfl
  | succ n ih =>
    simp only [Work.drainIn]
    (repeat' split) <;> simp [ih]
@[simp] theorem takeMeta_svn (conn msn peer b h) : (w.takeMeta conn msn peer b h).svn = w.svn := by
  simp only [Work.takeMeta]
  split <;> simp
@[simp] theorem drainMeta_svn (fuel) : (Work.drainMeta fuel w).svn = w.svn := by
  induction fuel generalizing w <;>
    grind [Work.drainMeta, count_svn, refuseBatch_svn, ingress_svn, endData_svn, completeMsg_svn, takeRestore_svn, takeMeta_svn]
@[simp] theorem mirrorGoesOn_svn : (w.mirrorGoesOn).svn = w.svn := by simp [Work.mirrorGoesOn]

/-! ## Finish.lean -/

@[simp] theorem reconcileSoon_svn (keep) : (w.reconcileSoon keep).svn = w.svn := (rfl)
@[simp] theorem finishMsg_svn (k status aux0 aux1 data) : (w.finishMsg k status aux0 aux1 data).svn = w.svn := by
  unfold Work.finishMsg; (repeat' split) <;> simp
@[simp] theorem finishAll_svn (conn status) : (w.finishAll conn status).svn = w.svn := by simp [Work.finishAll]

/-! ## Shape.lean -/

@[simp] theorem charge_svn (code len) : (w.charge code len).svn = w.svn := by simp [Work.charge]
@[simp] theorem colour_svn (i len) : (w.colour i len).2.svn = w.svn := by simp [Work.colour]

/-! ## Packets.lean -/

@[simp] theorem enqueue_svn (k cls pkt arrived) : (w.enqueue k cls pkt arrived).svn = w.svn := (rfl)
@[simp] theorem transit_svn (port cls pkt) : (w.transit port cls pkt).svn = w.svn := by simp [Work.transit]
theorem evict_svn {v} (h : w.evict = some v) : v.svn = w.svn := by
  grind [Work.evict, randomBytes_svn, ksEraseConn_svn, pcieOut_svn, hostStore_svn, count_svn, modConn_svn]
theorem takeHotSlot_svn {x v} (h : w.takeHotSlot = some (x, v)) : v.svn = w.svn := by
  grind [Work.takeHotSlot, evict_svn, Option.map_eq_some_iff]
@[simp] theorem destroyKeys_svn (id) : (w.destroyKeys id).svn = w.svn := (rfl)
@[simp] theorem breakNow_svn (id c status) : (w.breakNow id c status).svn = w.svn := by simp [Work.breakNow]
@[simp] theorem breakConn_svn (id status) : (w.breakConn id status).svn = w.svn := by unfold Work.breakConn; split <;> simp

/-! ## Receive.lean -/

@[simp] theorem setInMsg_svn (m) : (w.setInMsg m).svn = w.svn := by simp [Work.setInMsg]
@[simp] theorem duplicate_svn (id msn) : (w.duplicate id msn).svn = w.svn := (rfl)
@[simp] theorem police_svn (id c h parts) : (w.police id c h parts).svn = w.svn := by simp [Work.police]
@[simp] theorem arrived_svn (c m) : (w.arrived c m).svn = w.svn := by simp [Work.arrived]
@[simp] theorem message_svn (id c h payload len) {rcd} (hr : ∀ w, SameSvn w (rcd w)) :
    (w.message id c h payload len rcd).svn = w.svn := by
  simp only [sameSvn_iff] at hr
  simp [Work.message, hr]
@[simp] theorem recordPsn_svn (id base psn ackReq) : (w.recordPsn id base psn ackReq).svn = w.svn := (rfl)
theorem unseal_svn {c pkt ext v} (h : w.unseal c pkt ext = .error v) : v.svn = w.svn := by
  grind [Work.unseal, count_svn, modStrike_svn]
@[simp] theorem takePacket_svn (id pkt) : (w.takePacket id pkt).svn = w.svn := by
  unfold Work.takePacket
  dsimp only
  split
  · simp
  · split
    · simp
    · split
      · split
        · simp
        · split
          · grind [unseal_svn, useCtx_svn]
          · simp
      · split
        · simp
        · split
          · simp
          · split
            · grind [unseal_svn, useCtx_svn]
            · simp
@[simp] theorem holdPacket_svn (id port half c pkt) : (w.holdPacket id port half c pkt).svn = w.svn := by simp [Work.holdPacket]
@[simp] theorem accessCheck_svn (c op target from_ len) : (w.accessCheck c op target from_ len).2.svn = w.svn := by
  simp [Work.accessCheck]
@[simp] theorem violation_svn (id msn target st) : (w.violation id msn target st).svn = w.svn := by simp [Work.violation]
@[simp] theorem accessPart_svn (op pkt) {act} (h : ∀ c m, SameSvn w (act c m)) : (w.accessPart op pkt act).svn = w.svn := by
  grind [Work.accessPart, sameSvn_iff, complete_svn, completeMsg_svn, count_svn]
@[simp] theorem remoteWhole_svn (c m) : (w.remoteWhole c m).svn = w.svn := by simp [Work.remoteWhole]
@[simp] theorem placeResponse_svn (m pkt) : (w.placeResponse m pkt).svn = w.svn := by
  unfold Work.placeResponse; (repeat' split) <;> simp
@[simp] theorem packetAcked_svn (id x) : (w.packetAcked id x).svn = w.svn := by unfold Work.packetAcked; split <;> simp
@[simp] theorem lost_svn (id x) : (w.lost id x).svn = w.svn := by simp only [Work.lost]; (repeat' split) <;> simp

/-! ## Conns.lean -/

@[simp] theorem control_svn (src) {act} (h : ∀ w p, SameSvn w (act w p)) : (w.control src act).svn = w.svn := by
  cases src <;> grind [Work.control, sameSvn_iff]
@[simp] theorem present_svn (conn) : (w.present conn).svn = w.svn := by simp [Work.present]
@[simp] theorem unwrapFailed_svn (p conn) : (w.unwrapFailed p conn).svn = w.svn := by simp [Work.unwrapFailed]
@[simp] theorem installOp_svn (src desc) : (w.installOp src desc).svn = w.svn := by
  simp only [Work.installOp]
  refine control_svn _ _ fun w p => ?_
  grind [sameSvn_iff, complete_svn, takeHotSlot_svn, ksInsert_svn, unwrapFailed_svn, present_svn]
@[simp] theorem rekeyOp_svn (src desc) : (w.rekeyOp src desc).svn = w.svn := by
  grind [Work.rekeyOp, sameSvn_iff, control_svn, complete_svn, modConn_svn, unwrapFailed_svn, useCtx_svn]
@[simp] theorem removeOp_svn (src desc) : (w.removeOp src desc).svn = w.svn := by
  grind [Work.removeOp, sameSvn_iff, control_svn, complete_svn, modConn_svn]
@[simp] theorem dropConn_svn (id) : (w.dropConn id).svn = w.svn := by
  grind [Work.dropConn, ksEraseConn_svn, hostStore_svn, msgsGoOn_svn, log_svn]
@[simp] theorem runHeld_svn (conn c) : (w.runHeld conn c).svn = w.svn := by simp [Work.runHeld]
theorem makeRegion_svn (p base len perm) {x v} (h : w.makeRegion p base len perm = some (x, v)) : v.svn = w.svn := by
  grind [Work.makeRegion, ksInsert_svn, log_svn]
@[simp] theorem createOp_svn (src desc) : (w.createOp src desc).svn = w.svn := by
  simp only [Work.createOp]
  refine control_svn _ _ fun w p => ?_
  grind [sameSvn_iff, complete_svn, nameSpan_svn, makeRegion_svn]
@[simp] theorem regionDrain_svn (src p desc destroy) : (w.regionDrain src p desc destroy).svn = w.svn := by
  simp only [Work.regionDrain]
  (repeat' split) <;> simp

/-! ## Sched.lean -/

theorem schedDecide_svn (cs) {x v} (h : w.decide_ cs = some (x, v)) : v.svn = w.svn := by grind [Work.decide_, count_svn, log_svn]
@[simp] theorem dropDeficits_svn (cs) : (w.dropDeficits cs).svn = w.svn := (rfl)
@[simp] theorem sentBytes_svn (part sub svc len) : (w.sentBytes part sub svc len).svn = w.svn := by simp [Work.sentBytes]
@[simp] theorem noRoute_svn (k m) : (w.noRoute k m).svn = w.svn := by simp [Work.noRoute]
@[simp] theorem formMsg_svn (d c k m) : (w.formMsg d c k m).svn = w.svn := by
  grind [Work.formMsg, breakConn_svn, noRoute_svn, draw_svn, useCtx_svn, modConn_svn, enqueue_svn, modOut_svn, msgLeft_svn,
    count_svn]
@[simp] theorem formAck_svn (d c) : (w.formAck d c).svn = w.svn := by simp only [Work.formAck]; split <;> simp
@[simp] theorem placedOn_svn (k h) : (w.placedOn k h).svn = w.svn := by simp only [Work.placedOn]; (repeat' split) <;> simp
@[simp] theorem unrouted_svn (h) : (w.unrouted h).svn = w.svn := by unfold Work.unrouted; split <;> simp
@[simp] theorem placeWaiting_svn : (w.placeWaiting).svn = w.svn := by
  grind [Work.placeWaiting, foldl_svn, sameSvn_iff, log_svn, arrived_svn, unrouted_svn, enqueue_svn, placedOn_svn]

/-! ## Host.lean -/

@[simp] theorem mailAnswer_svn (fn status detail seq) : (w.mailAnswer fn status detail seq).svn = w.svn := (rfl)
@[simp] theorem mailbox_svn (wr op) {act} (h : ∀ w f q s, SameSvn w (act w f q s)) : (w.mailbox wr op act).svn = w.svn := by
  grind [Work.mailbox, sameSvn_iff, regAction_svn, count_svn, set_svn, mailAnswer_svn]
@[simp] theorem doorbell_svn (fn q) {act} (h : ∀ w, SameSvn w (act w)) : (w.doorbell fn q act).svn = w.svn := by
  grind [Work.doorbell, sameSvn_iff, count_svn]
@[simp] theorem badDoorbell_svn (fn q off value) : (w.badDoorbell fn q off value).svn = w.svn := by simp [Work.badDoorbell]
@[simp] theorem queueError_svn (q p) : (w.queueError q p).svn = w.svn := by simp [Work.queueError]
@[simp] theorem hostEntry_svn (q e opcode payload) {act} (h : ∀ w x p b, SameSvn w (act w x p b)) :
    (w.hostEntry q e opcode payload act).svn = w.svn := by
  grind [Work.hostEntry, sameSvn_iff, arrived_svn, completeEntry_svn, readsFailed_svn, hostFetch_svn]
@[simp] theorem entryFails_svn (q e detail) : (w.entryFails q e detail).svn = w.svn := by simp [Work.entryFails]
@[simp] theorem resetFunction_svn (fn mine) : (w.resetFunction fn mine).svn = w.svn := by simp [Work.resetFunction]
@[simp] theorem configRequest_svn {act} (h : ∀ w, SameSvn w (act w)) : (w.configRequest act).svn = w.svn := by
  grind [Work.configRequest, sameSvn_iff, emit_svn]
@[simp] theorem flushHeld_svn : (w.flushHeld).svn = w.svn := by
  grind [Work.flushHeld, foldl_svn, sameSvn_iff, hostStore_svn, msixSend_svn, log_svn]
@[simp] theorem bar4Refused_svn (fn a) : (w.bar4Refused fn a).svn = w.svn := by simp [Work.bar4Refused]
@[simp] theorem hbmRead_svn (a len) : (w.hbmRead a len).2.svn = w.svn := by simp [Work.hbmRead]
@[simp] theorem exportCheck_svn (a len) : (w.exportCheck a len).2.svn = w.svn := by simp [Work.exportCheck]
@[simp] theorem bulkUsed_svn (len) : (w.bulkUsed len).svn = w.svn := (rfl)

/-! ## BoxOffice.lean -/

@[simp] theorem sign_svn (msg ctx) : (w.sign msg ctx).2.svn = w.svn := (rfl)
@[simp] theorem openMeter_svn (p) : (w.openMeter p).svn = w.svn := (rfl)
@[simp] theorem closeStatement_svn (p final) : (w.closeStatement p final).2.svn = w.svn := by
  unfold Work.closeStatement; split <;> simp

/-! ## Frames.lean -/

@[simp] theorem mgSend_svn (port mac payload) : (w.mgSend port mac payload).svn = w.svn := (rfl)
@[simp] theorem mgRespond_svn (r status body) : (w.mgRespond r status body).svn = w.svn := by simp [Work.mgRespond]
@[simp] theorem mgTake_svn (r cls) {act} (h : ∀ w r, SameSvn w (act w r)) : (w.mgTake r cls act).svn = w.svn := by
  grind [Work.mgTake, sameSvn_iff, log_svn, mgRespond_svn, count_svn, mgSend_svn]
@[simp] theorem mgOrder_svn (f type cls) {act} (h : ∀ w r, SameSvn w (act w r)) : (w.mgOrder f type cls act).svn = w.svn := by
  grind [Work.mgOrder, sameSvn_iff, mgRespond_svn, count_svn, mgTake_svn]

/-! ## Security.lean -/

@[simp] theorem setPart_svn (p code f) : (w.setPart p code f).svn = w.svn := by simp [Work.setPart]
@[simp] theorem partAnswer_svn (status detail seq) : (w.partAnswer status detail seq).svn = w.svn := by simp [Work.partAnswer]
@[simp] theorem partCommand_svn (wr op) {act} (h : ∀ w p s, SameSvn w (act w p s)) : (w.partCommand wr op act).svn = w.svn := by
  grind [Work.partCommand, regAction_svn]
@[simp] theorem clearWords_svn (fs inst) : (w.clearWords fs inst).svn = w.svn := by simp [Work.clearWords]
@[simp] theorem attRequest_svn (r) {ready fail} (hr : ∀ w b, SameSvn w (ready w b)) (hf : ∀ w b, SameSvn w (fail w b)) :
    (w.attRequest r ready fail).svn = w.svn := by grind [Work.attRequest, sameSvn_iff, count_svn, nameSpan_svn, log_svn]
@[simp] theorem report370_svn (fn scope1 part nonce) : (w.report370 fn scope1 part nonce).2.svn = w.svn := (rfl)
@[simp] theorem portReport_svn (k) : (w.portReport k).svn = w.svn := by unfold Work.portReport; (repeat' split) <;> simp

/-! ## Strike.lean -/

@[simp] theorem strikeEntry_svn (q h) : (w.strikeEntry q h).svn = w.svn := by simp [Work.strikeEntry]
@[simp] theorem strikeQueue_svn (q) : (w.strikeQueue q).svn = w.svn := by simp only [Work.strikeQueue]; (repeat' split) <;> simp
@[simp] theorem endWaiting_svn (i status) : (w.endWaiting i status).svn = w.svn := by
  unfold Work.endWaiting; (repeat' split) <;> simp
@[simp] theorem strikeSessions_svn (p) : (w.strikeSessions p).svn = w.svn := by simp only [Work.strikeSessions]; split <;> simp
@[simp] theorem strikePrefix_svn (p) : (w.strikePrefix p).svn = w.svn := by simp [Work.strikePrefix]
@[simp] theorem strikeQueries_svn (p) : (w.strikeQueries p).svn = w.svn := by simp [Work.strikeQueries]
@[simp] theorem flushQueues_svn (p) : (w.flushQueues p).svn = w.svn := by simp [Work.flushQueues]
@[simp] theorem cutDrain_svn (p) : (w.cutDrain p).svn = w.svn := by simp [Work.cutDrain]
@[simp] theorem sendNotice_svn (p node body) : (w.sendNotice p node body).svn = w.svn := by
  grind [Work.sendNotice, modStrike_svn, count_svn, sendMsg_svn]
@[simp] theorem clearOwned_svn (part cid owner) : (w.clearOwned part cid owner).2.svn = w.svn := by
  unfold Work.clearOwned; split <;> simp
@[simp] theorem notifyStrike_svn (p r) : (w.notifyStrike p r).svn = w.svn := by simp [Work.notifyStrike]
@[simp] theorem zeroFrames_svn (f n) : (w.zeroFrames f n).2.svn = w.svn := by simp [Work.zeroFrames]
@[simp] theorem zeroBlk_svn (l b) : (w.zeroBlk l b).2.svn = w.svn := by simp [Work.zeroBlk]
@[simp] theorem scrubCourse_svn (p ci) : (w.scrubCourse p ci).svn = w.svn := by unfold Work.scrubCourse; (repeat' split) <;> simp
@[simp] theorem scrubAllot_svn (p f n) : (w.scrubAllot p f n).svn = w.svn := by simp [Work.scrubAllot]
@[simp] theorem scrubSome_svn (p fuel) : (Work.scrubSome p fuel w).svn = w.svn := by
  induction fuel generalizing w <;> grind [Work.scrubSome, modStrike_svn, scrubCourse_svn, scrubAllot_svn]
@[simp] theorem scrubHost_svn (p fuel) : (Work.scrubHost p fuel w).svn = w.svn := by
  induction fuel generalizing w <;> grind [Work.scrubHost, modStrike_svn, scrubCourse_svn, foldl_svn, sameSvn_iff, emit_svn,
    pcieOut_svn]
@[simp] theorem resetBlock_svn (b pick) : (w.resetBlock b pick).svn = w.svn := by
  grind [Work.resetBlock, foldl_svn, sameSvn_iff, set_svn]
@[simp] theorem dropCopies_svn (p) : (w.dropCopies p).svn = w.svn := by simp [Work.dropCopies]
@[simp] theorem scrubChip_svn (p) : (w.scrubChip p).svn = w.svn := by simp [Work.scrubChip]
@[simp] theorem scrubPart_svn (p spare) : (w.scrubPart p spare).2.svn = w.svn := by simp only [Work.scrubPart]; split <;> simp
@[simp] theorem scrubTick_svn (spare) : (w.scrubTick spare).svn = w.svn := by simp [Work.scrubTick]
@[simp] theorem logPair_svn (b) : (w.logPair b).svn = w.svn := by simp [Work.logPair]
@[simp] theorem noticeAct_svn (src part role e) : (w.noticeAct src part role e).svn = w.svn := by
  simp only [Work.noticeAct]
  (repeat' split) <;> simp

/-! ## Reads.lean -/

@[simp] theorem busRead_svn (fn off) : (w.busRead fn off).2.svn = w.svn := by unfold Work.busRead; (repeat' split) <;> simp
@[simp] theorem readWord_svn (fn place) : (w.readWord fn place).2.svn = w.svn := by unfold Work.readWord; split <;> simp

/-! ## BringUp.lean -/

@[simp] theorem wipe_svn : (w.wipe).svn = w.svn := (rfl)
@[simp] theorem warmReset_svn (cause) : (w.warmReset cause).svn = w.svn := (rfl)
@[simp] theorem stopClocks_svn (trip) : (w.stopClocks trip).svn = w.svn := (rfl)
@[simp] theorem resetPcie_svn : (w.resetPcie).svn = w.svn := by simp [Work.resetPcie]
@[simp] theorem measureRom_svn : (w.measureRom).svn = w.svn := by simp [Work.measureRom]
@[simp] theorem startFirmware_svn (image) : (w.startFirmware image).svn = w.svn := by
  unfold Work.startFirmware
  dsimp only
  split <;> simp
@[simp] theorem showFrames_svn : (w.showFrames).svn = w.svn := (rfl)
@[simp] theorem replaceCluster_svn (bad c) : (w.replaceCluster bad c).svn = w.svn := by
  simp only [Work.replaceCluster]
  (repeat' split) <;> simp
@[simp] theorem replaceBank_svn (bad b) : (w.replaceBank bad b).svn = w.svn := by grind [Work.replaceBank, set_svn, retireBank_svn]
@[simp] theorem replaceBad_svn (bad) : (w.replaceBad bad).svn = w.svn := by
  grind [Work.replaceBad, foldl_svn, sameSvn_iff, replaceCluster_svn, replaceBank_svn]
@[simp] theorem activate_svn (c) : (w.activate c).svn = w.svn := by simp [Work.activate]
@[simp] theorem enterFull_svn : (w.enterFull).svn = w.svn := by simp [Work.enterFull]
@[simp] theorem reconcileAll_svn : (w.reconcileAll).svn = w.svn := (rfl)
@[simp] theorem leaveDark_svn (v) : (w.leaveDark v).svn = w.svn := by simp [Work.leaveDark]
@[simp] theorem advance_svn : (w.advance).svn = w.svn := by simp [Work.advance]
@[simp] theorem lockIds_svn : (w.lockIds).svn = w.svn := by simp [Work.lockIds]

/-! ## Management.lean -/

@[simp] theorem bmcRefresh_svn : (w.bmcRefresh).svn = w.svn := by simp [Work.bmcRefresh]
@[simp] theorem setMk_svn (page k raise) : (w.setMk page k raise).svn = w.svn := by simp [Work.setMk]
@[simp] theorem obeyed_svn (r arg) : (w.obeyed r arg).svn = w.svn := by simp [Work.obeyed]
@[simp] theorem takeLease_svn (epoch ms) : (w.takeLease epoch ms).svn = w.svn := by
  simp only [Work.takeLease]
  split <;> simp
  rw [foldl_svn] <;> simp
  intro w x
  cases w.serviceConn x <;> simp
@[simp] theorem takeover_svn (x) : (w.takeover x).svn = w.svn := by simp [Work.takeover]
@[simp] theorem sliceOrder_svn (r) {act} (h : ∀ w n c v, act w n c = some v → v.svn = w.svn) :
    (w.sliceOrder r act).svn = w.svn := by
  grind [Work.sliceOrder, mgRespond_svn, obeyed_svn]
@[simp] theorem chunk_svn (r image data) {act} (h : ∀ w t, SameSvn w (act w t)) : (w.chunk r image data act).svn = w.svn := by
  grind [Work.chunk, sameSvn_iff, mgRespond_svn]

/-! ## TickSync.lean -/

@[simp] theorem setLock_svn (v) : (w.setLock v).svn = w.svn := by simp [Work.setLock]
@[simp] theorem setSrcIn_svn (b) : (w.setSrcIn b).svn = w.svn := (rfl)
@[simp] theorem clearSrcPort_svn : (w.clearSrcPort).svn = w.svn := by simp [Work.clearSrcPort]
@[simp] theorem takeSource_svn (but) : (w.takeSource but).2.svn = w.svn := by unfold Work.takeSource; split <;> simp
@[simp] theorem seekSource_svn : (w.seekSource).svn = w.svn := by simp [Work.seekSource]
@[simp] theorem loseSource_svn : (w.loseSource).svn = w.svn := by simp [Work.loseSource]
@[simp] theorem badSource_svn (p peerNow) : (w.badSource p peerNow).svn = w.svn := by simp [Work.badSource]
@[simp] theorem setNow_svn (t) : (w.setNow t).svn = w.svn := (rfl)
@[simp] theorem setOffset_svn (th seen) : (w.setOffset th seen).svn = w.svn := by simp [Work.setOffset]
@[simp] theorem stepBoundary_svn (th) : (w.stepBoundary th).svn = w.svn := by simp [Work.stepBoundary]
@[simp] theorem applyOffset_svn (th seen) : (w.applyOffset th seen).svn = w.svn := by simp [Work.applyOffset]
@[simp] theorem followMark_svn (p h flit) : (w.followMark p h flit).svn = w.svn := by
  grind [Work.followMark, set_svn, badSource_svn, setNow_svn, arrive_svn, applyOffset_svn, log_svn]
@[simp] theorem inMissed_svn (t) : (w.inMissed t).svn = w.svn := by simp [Work.inMissed]
@[simp] theorem tickInGone_svn : (w.tickInGone).svn = w.svn := by simp [Work.tickInGone]

/-! ## Boundary.lean -/

@[simp] theorem advanceTick_svn : (w.advanceTick).svn = w.svn := (rfl)
@[simp] theorem heatSheet_svn (s stamp) : (w.heatSheet s stamp).svn = w.svn := by simp [Work.heatSheet]
@[simp] theorem spillsPinned_svn (s) : (w.spillsPinned s).svn = w.svn := by
  grind [Work.spillsPinned, foldl_svn, sameSvn_iff, modMove_svn, abandonMove_svn]
@[simp] theorem closeSheet_svn (stamp) : (w.closeSheet stamp).svn = w.svn := by simp [Work.closeSheet]
@[simp] theorem freezeSheet_svn (ns) : (w.freezeSheet ns).svn = w.svn := by simp [Work.freezeSheet]
@[simp] theorem sheetBoundary_svn (ns stamp) : (w.sheetBoundary ns stamp).svn = w.svn := by simp [Work.sheetBoundary]
@[simp] theorem walkPseudo_svn (s) : (w.walkPseudo s).svn = w.svn := by simp [Work.walkPseudo]
@[simp] theorem rowRepair_svn (s) : (w.rowRepair s).svn = w.svn := by simp [Work.rowRepair]
@[simp] theorem marginWalk_svn : (w.marginWalk).svn = w.svn := by simp only [Work.marginWalk]; split <;> simp
@[simp] theorem tickLoads_svn : (w.tickLoads).svn = w.svn := by simp [Work.tickLoads]
@[simp] theorem sendMark_svn (p h) : (w.sendMark p h).svn = w.svn := (rfl)
@[simp] theorem markPorts_svn : (w.markPorts).svn = w.svn := by simp [Work.markPorts]
@[simp] theorem tickOut_svn : (w.tickOut).svn = w.svn := by simp [Work.tickOut]
@[simp] theorem masterBoundary_svn : (w.masterBoundary).svn = w.svn := by simp [Work.masterBoundary]
@[simp] theorem closeBatches_svn (t) : (w.closeBatches t).svn = w.svn := (rfl)
@[simp] theorem reconcileSome_svn : (w.reconcileSome).svn = w.svn := by simp [Work.reconcileSome]
@[simp] theorem freeForeign_svn : (w.freeForeign).svn = w.svn := by
  grind [Work.freeForeign, foldl_svn, sameSvn_iff, dropStaged_svn, metaChange_svn, freeSession_svn, dropHoldings_svn, log_svn,
    complete_svn]
@[simp] theorem settleTick_svn : (w.settleTick).svn = w.svn := (rfl)
@[simp] theorem lendTick_svn (reserved) : (w.lendTick reserved).svn = w.svn := (rfl)
@[simp] theorem renewWatchdog_svn : (w.renewWatchdog).svn = w.svn := by simp [Work.renewWatchdog]

/-! ## Clamps.lean -/

@[simp] theorem undoPass_svn (x) : (w.undoPass x).svn = w.svn := by simp [Work.undoPass]
@[simp] theorem slowPasses_svn (was at_) : (w.slowPasses was at_).svn = w.svn := by simp [Work.slowPasses]

/-! ## Common.lean -/

@[simp] theorem commonWrite_svn (wr off pfToo) {act} (h : ∀ w p v m, SameSvn w (act w p v m)) :
    (w.commonWrite wr off pfToo act).svn = w.svn := by
  grind [Work.commonWrite, sameSvn_iff, count_svn]
@[simp] theorem msixWrite_svn (fn dword v) : (w.msixWrite fn dword v).svn = w.svn := by simp [Work.msixWrite]

/-! ## RegisterWrite.lean -/

@[simp] theorem makeHome_svn : w.makeHome.svn = w.svn := by
  grind [Work.makeHome, pick_svn, makeRegion_svn, set_svn, zero_svn]
@[simp] theorem dropHome_svn : (w.dropHome).svn = w.svn := by unfold Work.dropHome; (repeat' split) <;> simp
@[simp] theorem keepOld_svn (old b inst off idx) : (w.keepOld old b inst off idx).svn = w.svn := by
  grind [Work.keepOld, foldl_svn, sameSvn_iff, keep_svn]
@[simp] theorem rangeSet_svn (old p) : (w.rangeSet old p).svn = w.svn := by simp [Work.rangeSet]
@[simp] theorem afterWrite_svn (wr b off) : (w.afterWrite wr b off).svn = w.svn := by simp [Work.afterWrite]

end Sys2Proof.FusedSvn
end
section
/-! What the commands leave of the fused SVN. -/

namespace Sys2Proof.FusedSvn

open Sys2Proof.Machine Sys2Proof.Safety Sys2Proof.Laws

/-- The command leaves the fused SVN. -/
def KeepsSvn (x : State → Host.Outcome State Fault Refusal) : Prop := ∀ s t, x s = .next t → t.svnFuse = s.svnFuse

theorem close_sameSvn {s : State} {w : Work} (h : SameSvn s.view w) : (s.close w).svnFuse = s.svnFuse := by
  rw [close_svnFuse, show w.svn = s.svnFuse from h, max_self]

theorem keepsSvn_runAlways {f : Work → Work} (hf : ∀ w, SameSvn w (f w)) : KeepsSvn fun s => runAlways s f := by
  rintro s t h
  cases h
  exact close_sameSvn (hf _)

theorem keepsSvn_run {f : Work → Work} (hf : ∀ w, SameSvn w (f w)) : KeepsSvn fun s => run s f := by
  intro s t h
  cases ha : s.alive with
  | true => exact keepsSvn_runAlways hf s t ((run_alive f ha).symm.trans h)
  | false => cases (run_dead f ha).symm.trans h; rfl

theorem execBudgetExpired_keepsSvn : KeepsSvn execBudgetExpired := keepsSvn_run fun w => by simp
theorem execTelemetryTrim_keepsSvn (readings) : KeepsSvn (execTelemetryTrim readings) :=
  keepsSvn_run fun w => by grind [sameSvn_iff, foldl_svn, set_svn, log_svn, railRead_svn, count_svn]
theorem execHbmTempRead_keepsSvn (temps) : KeepsSvn (execHbmTempRead temps) := keepsSvn_run fun w => by simp
theorem execDroopTrip_keepsSvn (sense) : KeepsSvn (execDroopTrip sense) := keepsSvn_run fun w => by simp
theorem execDroopRelease_keepsSvn (die cycles) : KeepsSvn (execDroopRelease die cycles) := keepsSvn_run fun w => by simp
theorem execD2dDegraded_keepsSvn (lost) : KeepsSvn (execD2dDegraded lost) := keepsSvn_run fun w => by simp
theorem execOpticalRead_keepsSvn (port half reading) : KeepsSvn (execOpticalRead port half reading) :=
  keepsSvn_run fun w => by split <;> simp
theorem execCalWrite_keepsSvn (wr) : KeepsSvn (execCalWrite wr) := keepsSvn_run fun w => by simp
theorem execCalWriteDone_keepsSvn (programmed) : KeepsSvn (execCalWriteDone programmed) := keepsSvn_run fun w => by split <;> simp
theorem execAttend_keepsSvn (src payload at_) : KeepsSvn (execAttend src payload at_) := keepsSvn_run fun w => by split <;> simp
theorem execLendPoint_keepsSvn : KeepsSvn execLendPoint := keepsSvn_run fun w => by simp
theorem execResultPortTransfer_keepsSvn (slot) : KeepsSvn (execResultPortTransfer slot) := keepsSvn_run fun w => by split <;> simp
theorem execComputeCutoff_keepsSvn : KeepsSvn execComputeCutoff :=
  keepsSvn_run fun w => by grind [sameSvn_iff, foldl_svn, offerResult_svn, count_svn, log_svn]
theorem execEgressPhase_keepsSvn : KeepsSvn execEgressPhase := keepsSvn_run fun w => by simp
theorem execPartialRecord_keepsSvn (msg record) : KeepsSvn (execPartialRecord msg record) := keepsSvn_run fun w => by simp
theorem execCreditRecord_keepsSvn (msg record) : KeepsSvn (execCreditRecord msg record) := keepsSvn_run fun w => by simp
theorem execCancelRecord_keepsSvn (msg record) : KeepsSvn (execCancelRecord msg record) := keepsSvn_run fun w => by simp
theorem execCollectorDeadline_keepsSvn (part group) : KeepsSvn (execCollectorDeadline part group) :=
  keepsSvn_run fun w => by split <;> simp
theorem execCreditWaitExpired_keepsSvn (held) : KeepsSvn (execCreditWaitExpired held) := keepsSvn_run fun w => by split <;> simp
theorem execEarlyWaitExpired_keepsSvn (early) : KeepsSvn (execEarlyWaitExpired early) := keepsSvn_run fun w => by split <;> simp
theorem execSplTickDecision_keepsSvn : KeepsSvn execSplTickDecision :=
  keepsSvn_run fun w => by
    extract_lets +onlyGivenNames n st u v
    have hv : SameSvn w v := by
      simp only [v, u]
      rw [sameSvn_iff, defend_svn, set_svn]
    obtain ⟨v', ev⟩ : ∃ v', v' = v := ⟨v, rfl⟩
    rw [← ev] at hv ⊢
    clear ev v
    extract_lets floor avail wants decided grants n1 st1 x heldAt held was n2 st2 y p z
    have hx : SameSvn w x := hv
    have hy : SameSvn w y := by
      simp only [y]
      rw [sameSvn_iff, setFlag_svn]
      exact hx
    have hz : SameSvn w z := sameSvn_of_ite (hy.trans (report_svn ..)) hy
    exact (hz.trans (evacuate_svn ..)).trans (sameSvn_foldl (fun w e => schedule_svn ..) _ _)
theorem execHeatDecay_keepsSvn : KeepsSvn execHeatDecay := keepsSvn_run fun w => by simp
theorem execMoveCopyDone_keepsSvn (mv res) : KeepsSvn (execMoveCopyDone mv res) :=
  keepsSvn_run fun w => by simp only [sameSvn_iff]; (repeat' split) <;> simp
theorem execMoveCommit_keepsSvn (mv) : KeepsSvn (execMoveCommit mv) := keepsSvn_run fun w => by (repeat' split) <;> simp
theorem execTailPageCopyDone_keepsSvn (read) : KeepsSvn (execTailPageCopyDone read) :=
  keepsSvn_run fun w => by simp only [sameSvn_iff]; (repeat' split) <;> simp
theorem execHbmUncorrectableError_keepsSvn (addr) : KeepsSvn (execHbmUncorrectableError addr) := keepsSvn_run fun w => by simp
theorem execSystemAreaError_keepsSvn (stack off) : KeepsSvn (execSystemAreaError stack off) :=
  keepsSvn_run fun w => by simp only [sameSvn_iff]; split <;> simp
theorem execDdrUncorrectableError_keepsSvn (loss) : KeepsSvn (execDdrUncorrectableError loss) :=
  keepsSvn_run fun w => by split <;> simp
theorem execScrubCorrected_keepsSvn (loc) : KeepsSvn (execScrubCorrected loc) := keepsSvn_run fun w => by (repeat' split) <;> simp
theorem execTakeOffline_keepsSvn (wr) : KeepsSvn (execTakeOffline wr) := keepsSvn_run fun w => by simp
theorem execBlockDecodeDone_keepsSvn (inst job upset) : KeepsSvn (execBlockDecodeDone inst job upset) :=
  keepsSvn_run fun w => by (repeat' split) <;> simp
theorem execXpdRetire_keepsSvn (wr) : KeepsSvn (execXpdRetire wr) := keepsSvn_run fun w => by simp
theorem execParityScan_keepsSvn : KeepsSvn execParityScan := keepsSvn_run fun w => by simp
theorem execKeystoneBankRebuilt_keepsSvn (bank) : KeepsSvn (execKeystoneBankRebuilt bank) := keepsSvn_run fun w => by simp
theorem execMatchPrefix_keepsSvn (src payload) : KeepsSvn (execMatchPrefix src payload) :=
  keepsSvn_run fun _ => prefixRequest_svn ..
theorem execPublishBlocks_keepsSvn (src payload) : KeepsSvn (execPublishBlocks src payload) :=
  keepsSvn_run fun _ => prefixRequest_svn ..
theorem execRetractBlocks_keepsSvn (src payload) : KeepsSvn (execRetractBlocks src payload) :=
  keepsSvn_run fun _ => prefixRequest_svn ..
theorem execPinBlocks_keepsSvn (src payload) : KeepsSvn (execPinBlocks src payload) := keepsSvn_run fun _ => prefixRequest_svn ..
theorem execUnpinBlocks_keepsSvn (src payload) : KeepsSvn (execUnpinBlocks src payload) :=
  keepsSvn_run fun _ => prefixRequest_svn ..
theorem execPrefixOpStart_keepsSvn : KeepsSvn execPrefixOpStart := keepsSvn_run fun w => by split <;> simp
theorem execPrefixOpComplete_keepsSvn : KeepsSvn execPrefixOpComplete := keepsSvn_run fun w => by split <;> simp
theorem execPgmFmtValid_keepsSvn (wr) : KeepsSvn (execPgmFmtValid wr) := keepsSvn_run fun w => by simp
theorem execOpenSession_keepsSvn (src desc) : KeepsSvn (execOpenSession src desc) := keepsSvn_run fun _ => openOp_svn ..
theorem execForkSession_keepsSvn (src desc) : KeepsSvn (execForkSession src desc) := keepsSvn_run fun _ => forkOp_svn ..
theorem execForkCopiesLanded_keepsSvn (child) : KeepsSvn (execForkCopiesLanded child) := keepsSvn_run fun w => by split <;> simp
theorem execCloseSession_keepsSvn (src desc) : KeepsSvn (execCloseSession src desc) := keepsSvn_run fun _ => closeOp_svn ..
theorem execSessionCloseComplete_keepsSvn (idx) : KeepsSvn (execSessionCloseComplete idx) :=
  keepsSvn_run fun w => by (repeat' split) <;> simp
theorem execAppendRows_keepsSvn (src payload at_) : KeepsSvn (execAppendRows src payload at_) :=
  keepsSvn_run fun w => by split <;> simp
theorem execRowLanded_keepsSvn (die) : KeepsSvn (execRowLanded die) :=
  keepsSvn_run fun w => by simp only [sameSvn_iff]; (repeat' split) <;> simp
theorem execRetryPass_keepsSvn : KeepsSvn execRetryPass :=
  keepsSvn_run fun w => by grind [sameSvn_iff, foldl_svn, layerPass_svn, layerEnd_svn, dropStaged_svn, log_svn, count_svn]
theorem execSpareMapWrite_keepsSvn (wr) : KeepsSvn (execSpareMapWrite wr) := keepsSvn_run fun w => by simp
theorem execClusterSwapEffect_keepsSvn : KeepsSvn execClusterSwapEffect :=
  keepsSvn_run fun w => by grind [sameSvn_iff, foldl_svn, log_svn, extendFree_svn, activate_svn, moveSlot_svn, set_svn]
theorem execClusterFault_keepsSvn (cluster cause bufOff) : KeepsSvn (execClusterFault cluster cause bufOff) :=
  keepsSvn_run fun w => by simp
theorem execClusterBufferUe_keepsSvn (cluster bufOff hit) : KeepsSvn (execClusterBufferUe cluster bufOff hit) :=
  keepsSvn_run fun w => by simp only [sameSvn_iff]; (repeat' split) <;> simp
theorem execControlCoreFault_keepsSvn (core) : KeepsSvn (execControlCoreFault core) := keepsSvn_run fun w => by simp
theorem execCodebookValid_keepsSvn (wr) : KeepsSvn (execCodebookValid wr) := keepsSvn_run fun w => by simp
theorem execWeightLoad_keepsSvn (wr) : KeepsSvn (execWeightLoad wr) := keepsSvn_run fun w => by simp
theorem execWeightLoadDone_keepsSvn : KeepsSvn execWeightLoadDone :=
  keepsSvn_run fun w => by grind [sameSvn_iff, extendMeas_svn, showStores_svn, log_svn, decodePackage_svn, nameSpan_svn,
    report_svn, set_svn]
theorem execClusterPass_keepsSvn (slot work) : KeepsSvn (execClusterPass slot work) :=
  keepsSvn_run fun w => by
    split
    · dsimp only
      split
      · rfl
      · simp
        rw [foldl_svn]
        · simp
          rw [foldl_keeps (fun a : Work × Nat => a.1.svn)]
          intro b x
          split <;> simp
        · intro w k
          (repeat' split) <;> simp
    · rfl
theorem execLpEnable_keepsSvn (wr) : KeepsSvn (execLpEnable wr) := keepsSvn_run fun w => by simp
theorem execLpRetrain_keepsSvn (wr) : KeepsSvn (execLpRetrain wr) := keepsSvn_run fun w => by simp
theorem execForceSwap_keepsSvn (wr) : KeepsSvn (execForceSwap wr) := keepsSvn_run fun w => by simp
theorem execLaneSignalDetect_keepsSvn (port half lanes) : KeepsSvn (execLaneSignalDetect port half lanes) :=
  keepsSvn_run fun w => by simp
theorem execLanesConverged_keepsSvn (port half failed) : KeepsSvn (execLanesConverged port half failed) :=
  keepsSvn_run fun w => by (repeat' split) <;> simp
theorem execTrainTimeout_keepsSvn (port half) : KeepsSvn (execTrainTimeout port half) := keepsSvn_run fun w => by simp
theorem execLanesDeskewed_keepsSvn (port seen) : KeepsSvn (execLanesDeskewed port seen) :=
  keepsSvn_run fun w => by simp only [sameSvn_iff]; split <;> simp
theorem execHelloTimer_keepsSvn (port half) : KeepsSvn (execHelloTimer port half) := keepsSvn_run fun w => by simp
theorem execHelloTimeout_keepsSvn (port half) : KeepsSvn (execHelloTimeout port half) := keepsSvn_run fun w => by simp
theorem execHardLaneFailure_keepsSvn (port lane) : KeepsSvn (execHardLaneFailure port lane) :=
  keepsSvn_run fun w => by split <;> simp
theorem execAlignmentRound_keepsSvn (port half blocks corrected spareOk) : KeepsSvn (execAlignmentRound port half blocks corrected spareOk) :=
  keepsSvn_run fun w => by grind [sameSvn_iff, askSwap_svn, takeSwap_svn, endPeriod_svn, draw_svn, count_svn, emit_svn, modHalf_svn]
theorem execSwapReq_keepsSvn (port half flit) : KeepsSvn (execSwapReq port half flit) := keepsSvn_run fun w => by simp
theorem execSwapAck_keepsSvn (port half flit) : KeepsSvn (execSwapAck port half flit) := keepsSvn_run fun w => by simp
theorem execLinkUnitReceived_keepsSvn (port half words first) : KeepsSvn (execLinkUnitReceived port half words first) :=
  keepsSvn_run fun w => by (repeat' split) <;> simp
theorem execCodewordUncorrectable_keepsSvn (port half word units) : KeepsSvn (execCodewordUncorrectable port half word units) :=
  keepsSvn_run fun w => by simp
theorem execCreditFlit_keepsSvn (port half flit) : KeepsSvn (execCreditFlit port half flit) := keepsSvn_run fun w => by simp
theorem execLaneScan_keepsSvn (port lane v h berCl) : KeepsSvn (execLaneScan port lane v h berCl) :=
  keepsSvn_run fun w => by simp only [sameSvn_iff]; (repeat' split) <;> simp
theorem execHomeWaitExpired_keepsSvn (session) : KeepsSvn (execHomeWaitExpired session) := keepsSvn_run fun w => by split <;> simp
theorem execLeaseExpired_keepsSvn : KeepsSvn execLeaseExpired := keepsSvn_run fun w => by split <;> simp
theorem execOrphanTimeout_keepsSvn (session) : KeepsSvn (execOrphanTimeout session) := keepsSvn_run fun w => by split <;> simp
theorem execMirrorEnable_keepsSvn (wr) : KeepsSvn (execMirrorEnable wr) := keepsSvn_run fun w => by simp
theorem execMirrorBatchSend_keepsSvn (part blocks) : KeepsSvn (execMirrorBatchSend part blocks) :=
  keepsSvn_run fun w => by simp only [sameSvn_iff]; (repeat' split) <;> simp
theorem execCommitOp_keepsSvn (src desc) : KeepsSvn (execCommitOp src desc) := keepsSvn_run fun _ => commitOp_svn ..
theorem execCommitWaitExpired_keepsSvn (src) : KeepsSvn (execCommitWaitExpired src) :=
  keepsSvn_run fun w => by (repeat' split) <;> simp
theorem execSliceSeeded_keepsSvn (part cid) : KeepsSvn (execSliceSeeded part cid) :=
  keepsSvn_run fun w => by (repeat' split) <;> simp
theorem execMirrorAckLate_keepsSvn (part) : KeepsSvn (execMirrorAckLate part) :=
  keepsSvn_run fun w => by simp only [sameSvn_iff]; split <;> simp
theorem execMirrorStreamLost_keepsSvn (part) : KeepsSvn (execMirrorStreamLost part) := keepsSvn_run fun w => by split <;> simp
theorem execMirrorReseedTimer_keepsSvn (part) : KeepsSvn (execMirrorReseedTimer part) := keepsSvn_run fun w => by split <;> simp
theorem execRestoreFetchSend_keepsSvn (course) : KeepsSvn (execRestoreFetchSend course) :=
  keepsSvn_run fun w => by simp only [sameSvn_iff]; (repeat' split) <;> simp
theorem execCompressorBlockEmitted_keepsSvn (die job blk bytes corrupt) : KeepsSvn (execCompressorBlockEmitted die job blk bytes corrupt) :=
  keepsSvn_run fun w => by split <;> simp
theorem execMirrorOp_keepsSvn (conn msn head body) : KeepsSvn (execMirrorOp conn msn head body) :=
  keepsSvn_run fun w => by simp only [sameSvn_iff]; (repeat' split) <;> simp
theorem execShaperReconfigure_keepsSvn (wr) : KeepsSvn (execShaperReconfigure wr) := keepsSvn_run fun w => by simp
theorem execMeterReconfigure_keepsSvn (wr) : KeepsSvn (execMeterReconfigure wr) := keepsSvn_run fun w => by simp
theorem execPacketReceived_keepsSvn (port half packet) : KeepsSvn (execPacketReceived port half packet) :=
  keepsSvn_run fun w => by simp only [sameSvn_iff]; (repeat' split) <;> simp
theorem execWriteOp_keepsSvn (pkt) : KeepsSvn (execWriteOp pkt) :=
  keepsSvn_run fun w => accessPart_svn w _ _ fun c m => by simp only [sameSvn_iff]; (repeat' split) <;> simp
theorem execReadOp_keepsSvn (pkt) : KeepsSvn (execReadOp pkt) :=
  keepsSvn_run fun w => accessPart_svn w _ _ fun c m => by simp only [sameSvn_iff]; (repeat' split) <;> simp
theorem execCasOp_keepsSvn (pkt) : KeepsSvn (execCasOp pkt) :=
  keepsSvn_run fun w => accessPart_svn w _ _ fun c m => by simp only [sameSvn_iff]; (repeat' split) <;> simp
theorem execSendHostQueue_keepsSvn (conn msn queue bytes) : KeepsSvn (execSendHostQueue conn msn queue bytes) :=
  keepsSvn_run fun w => msgActs_svn w _ _ _ _ fun w c => by (repeat' split) <;> simp
theorem execFenceOp_keepsSvn (conn msn bytes) : KeepsSvn (execFenceOp conn msn bytes) := keepsSvn_run fun w => by simp
theorem execNoticeOp_keepsSvn (conn msn bytes) : KeepsSvn (execNoticeOp conn msn bytes) := keepsSvn_run fun w => by simp
theorem execResponseOp_keepsSvn (pkt) : KeepsSvn (execResponseOp pkt) :=
  keepsSvn_run fun w => by simp only [sameSvn_iff]; (repeat' split) <;> simp
theorem execAckOp_keepsSvn (conn bytes) : KeepsSvn (execAckOp conn bytes) :=
  keepsSvn_run fun w => by grind [sameSvn_iff, foldl_svn, count_svn, finishMsg_svn, packetAcked_svn, modConn_svn]
theorem execAckDelayExpired_keepsSvn (conn) : KeepsSvn (execAckDelayExpired conn) := keepsSvn_run fun _ => modConn_svn ..
theorem execReorderExpired_keepsSvn (conn psn) : KeepsSvn (execReorderExpired conn psn) := keepsSvn_run fun w => by split <;> simp
theorem execRtoExpired_keepsSvn (conn psn) : KeepsSvn (execRtoExpired conn psn) := keepsSvn_run fun w => by split <;> simp
theorem execProbeExpired_keepsSvn (conn msn) : KeepsSvn (execProbeExpired conn msn) := keepsSvn_run fun w => by split <;> simp
theorem execInstallConn_keepsSvn (src desc) : KeepsSvn (execInstallConn src desc) := keepsSvn_run fun _ => installOp_svn ..
theorem execRekeyConn_keepsSvn (src desc) : KeepsSvn (execRekeyConn src desc) := keepsSvn_run fun _ => rekeyOp_svn ..
theorem execRekeyOverlapExpired_keepsSvn (conn) : KeepsSvn (execRekeyOverlapExpired conn) := keepsSvn_run fun _ => modConn_svn ..
theorem execRemoveConn_keepsSvn (src desc) : KeepsSvn (execRemoveConn src desc) := keepsSvn_run fun _ => removeOp_svn ..
theorem execConnectionFreed_keepsSvn (conn) : KeepsSvn (execConnectionFreed conn) := keepsSvn_run fun w => by split <;> simp
theorem execContextFetchDone_keepsSvn (conn entry) : KeepsSvn (execContextFetchDone conn entry) :=
  keepsSvn_run fun w => by grind [sameSvn_iff, modConn_svn, breakConn_svn, report_svn, takeHotSlot_svn, ksInsertConn_svn,
    runHeld_svn, count_svn, hostFetch_svn]
theorem execRegionCreate_keepsSvn (src desc) : KeepsSvn (execRegionCreate src desc) := keepsSvn_run fun _ => createOp_svn ..
theorem execRegionAdvance_keepsSvn (src desc) : KeepsSvn (execRegionAdvance src desc) := keepsSvn_run fun w => by simp
theorem execRegionDestroy_keepsSvn (src desc) : KeepsSvn (execRegionDestroy src desc) := keepsSvn_run fun w => by simp
theorem execRegionDrainDone_keepsSvn (part index) : KeepsSvn (execRegionDrainDone part index) :=
  keepsSvn_run fun w => by (repeat' split) <;> simp
theorem execSchedulerDecision_keepsSvn : KeepsSvn execSchedulerDecision :=
  keepsSvn_run fun w => by
    split
    · rfl
    · dsimp only
      split
      · simp
      next hd =>
        have hd := schedDecide_svn (h := hd)
        simp at hd
        simp only [sameSvn_iff]
        split
        · exact hd
        · simp
          (repeat' split) <;> simp [hd]
theorem execPortUnitStart_keepsSvn (port half) : KeepsSvn (execPortUnitStart port half) :=
  keepsSvn_run fun w => by
    split
    · rfl
    · extract_lets +onlyGivenNames k q x shp first passes head
      obtain ⟨head', eh⟩ : ∃ h, h = head := ⟨head, rfl⟩
      rw [← eh]
      clear eh head passes first
      extract_lets +onlyGivenNames es ds n sc v
      have hv : SameSvn w v := rfl
      obtain ⟨v', ev⟩ : ∃ v', v' = v := ⟨v, rfl⟩
      obtain ⟨rr, er⟩ : ∃ r, r = roundRobin (v'.get Reg.SCH_QUANTUM) es ds (numN k v'.n.sc.portTurn) := ⟨_, rfl⟩
      rw [← ev] at hv ⊢
      extract_lets +onlyGivenNames others n1 sc1 pick

      have hp : ∀ r ∈ pick, SameSvn w r.2 := by
        simp only [pick]
        rw [← er]
        cases head' 0 with
        | some u => rintro r ⟨⟩; exact hv
        | none =>
          cases rr with
          | none => rintro r ⟨⟩
          | some c =>
            intro r hr
            obtain ⟨u, -, rfl⟩ := Option.map_eq_some_iff.1 hr
            exact hv
      obtain ⟨p, ep⟩ : ∃ p, p = pick := ⟨pick, rfl⟩
      rw [← ep] at hp ⊢
      clear ep pick er ev v
      cases p with
      | none => exact hv
      | some r =>
        have hr := hp r rfl
        obtain ⟨u, x⟩ := r
        rw [sameSvn_iff] at hr ⊢
        simpa using hr
theorem execQueueEnable_keepsSvn (wr) : KeepsSvn (execQueueEnable wr) := keepsSvn_run fun w => by simp
theorem execQueueDisable_keepsSvn (wr) : KeepsSvn (execQueueDisable wr) := keepsSvn_run fun w => by simp
theorem execQueueReset_keepsSvn (wr) : KeepsSvn (execQueueReset wr) := keepsSvn_run fun w => by simp
theorem execQueueDrained_keepsSvn (q) : KeepsSvn (execQueueDrained q) :=
  keepsSvn_run fun w => by simp only [sameSvn_iff]; (repeat' split) <;> simp
theorem execSqTail_keepsSvn (fn q value) : KeepsSvn (execSqTail fn q value) := keepsSvn_run fun w => by simp
theorem execCqHead_keepsSvn (fn q value) : KeepsSvn (execCqHead fn q value) := keepsSvn_run fun w => by simp
theorem execSqEntryFetched_keepsSvn (q entry) : KeepsSvn (execSqEntryFetched q entry) :=
  keepsSvn_run fun w => by (repeat' split) <;> simp
theorem execHostSession_keepsSvn (q entry payload) : KeepsSvn (execHostSession q entry payload) :=
  keepsSvn_run fun w => hostEntry_svn w _ _ _ _ fun w x p b => by split <;> simp
theorem execHostAttend_keepsSvn (q entry payload at_) : KeepsSvn (execHostAttend q entry payload at_) :=
  keepsSvn_run fun w => by simp
theorem execHostAppend_keepsSvn (q entry payload at_) : KeepsSvn (execHostAppend q entry payload at_) :=
  keepsSvn_run fun w => by simp
theorem execHostConn_keepsSvn (q entry payload) : KeepsSvn (execHostConn q entry payload) :=
  keepsSvn_run fun w => hostEntry_svn w _ _ _ _ fun w x p b => by split <;> simp
theorem execHostRegion_keepsSvn (q entry payload) : KeepsSvn (execHostRegion q entry payload) :=
  keepsSvn_run fun w => hostEntry_svn w _ _ _ _ fun w x p b => by split <;> simp
theorem execHostMsg_keepsSvn (q entry payload) : KeepsSvn (execHostMsg q entry payload) :=
  keepsSvn_run fun w => hostEntry_svn w _ _ _ _ fun w x p b => by grind [sameSvn_iff, modOut_svn, arrive_svn, sendMsg_svn,
    entryFails_svn, hostEntry_svn]
theorem execHostCopy_keepsSvn (q entry payload) : KeepsSvn (execHostCopy q entry payload) :=
  keepsSvn_run fun w => hostEntry_svn w _ _ _ _ fun w x p b => by grind [sameSvn_iff, resultStore_svn, completeEntry_svn,
    chargePool_svn, hostEntry_svn]
theorem execHostRecv_keepsSvn (q entry) : KeepsSvn (execHostRecv q entry) := keepsSvn_run fun w => by simp
theorem execHostNop_keepsSvn (q entry) : KeepsSvn (execHostNop q entry) := keepsSvn_run fun w => by simp
theorem execWaitTicksExpired_keepsSvn (q entry) : KeepsSvn (execWaitTicksExpired q entry) :=
  keepsSvn_run fun w => by simp only [sameSvn_iff]; split <;> simp
theorem execCoalNsExpired_keepsSvn (q) : KeepsSvn (execCoalNsExpired q) := keepsSvn_run fun w => by simp
theorem execFunctionReset_keepsSvn (fn) : KeepsSvn (execFunctionReset fn) := keepsSvn_run fun w => by split <;> simp
theorem execBusMasterEnableChange_keepsSvn (on) : KeepsSvn (execBusMasterEnableChange on) := keepsSvn_run fun w => by simp
theorem execBar4Read_keepsSvn (fn off len uncorrectable) : KeepsSvn (execBar4Read fn off len uncorrectable) :=
  keepsSvn_run fun w => by grind [sameSvn_iff, hbmRead_svn, exportCheck_svn, bulkUsed_svn, bar4Refused_svn, emit_svn]
theorem execBar4Write_keepsSvn (fn off bytes) : KeepsSvn (execBar4Write fn off bytes) := keepsSvn_run fun w => by simp
theorem execUsageSample_keepsSvn : KeepsSvn execUsageSample := keepsSvn_run fun w => by simp
theorem execUsageStatementClose_keepsSvn : KeepsSvn execUsageStatementClose := keepsSvn_run fun w => by simp
theorem execPartCreate_keepsSvn (wr) : KeepsSvn (execPartCreate wr) :=
  keepsSvn_run fun w => partCommand_svn w _ _ fun w p s => by
    simp only [sameSvn_iff]
    refine svn_of_ite (by simp) (svn_of_ite (by simp) (svn_of_ite (by simp) (svn_of_ite (by simp) ?_)))
    split
    · simp
    · exact svn_of_ite (by simp) (by simp)
theorem execInstallKey_keepsSvn (wr) : KeepsSvn (execInstallKey wr) :=
  keepsSvn_run fun w => partCommand_svn w _ _ fun w p s => by
    split
    · simp
    split
    · extract_lets wrapped u
      have hu : SameSvn w u := by simp only [u]; rw [sameSvn_iff, clearWords_svn]
      split
      · exact hu.trans (by rw [sameSvn_iff, partAnswer_svn, unwrapFailed_svn])
      · extract_lets k v x
        have hx : SameSvn u x := by
          simp only [x, k]
          rw [sameSvn_iff, set_svn, set_svn, setPart_svn]
        exact (hu.trans hx).trans (by rw [sameSvn_iff, partAnswer_svn, extendFree_svn, set_svn])
    · simp
theorem execFkekWrite_keepsSvn (wr) : KeepsSvn (execFkekWrite wr) := keepsSvn_run fun w => by simp
theorem execExtGo_keepsSvn (wr) : KeepsSvn (execExtGo wr) := keepsSvn_run fun w => by simp
theorem execAttGo_keepsSvn (wr) : KeepsSvn (execAttGo wr) := keepsSvn_run fun w => by simp
theorem execAttestReportWritten_keepsSvn : KeepsSvn execAttestReportWritten :=
  keepsSvn_run fun w => by simp only [sameSvn_iff]; (repeat' split) <;> simp
theorem execPartStrike_keepsSvn (wr) : KeepsSvn (execPartStrike wr) := keepsSvn_run fun w => by simp
theorem execStrikeDrainEnd_keepsSvn (part) : KeepsSvn (execStrikeDrainEnd part) := keepsSvn_run fun w => by split <;> simp
theorem execScrubComplete_keepsSvn (part) : KeepsSvn (execScrubComplete part) := keepsSvn_run fun w => by split <;> simp
theorem execStrikePublish_keepsSvn (part) : KeepsSvn (execStrikePublish part) := keepsSvn_run fun w => by split <;> simp
theorem execStrikeNotice_keepsSvn (conn msn bytes) : KeepsSvn (execStrikeNotice conn msn bytes) :=
  keepsSvn_run fun w => msgActs_svn w _ _ _ _ fun w c => by simp
theorem execLatchingRegisterRead_keepsSvn (fn place len) : KeepsSvn (execLatchingRegisterRead fn place len) :=
  keepsSvn_run fun w => by simp
theorem execPwrgoodRise_keepsSvn (bootSel mgtSel testMode) : KeepsSvn (execPwrgoodRise bootSel mgtSel testMode) :=
  keepsSvn_runAlways fun w => by simp
theorem execPwrgoodFall_keepsSvn (ns) : KeepsSvn (execPwrgoodFall ns) := keepsSvn_runAlways fun w => by simp
theorem execThermtrip_keepsSvn : KeepsSvn execThermtrip := keepsSvn_runAlways fun w => by simp
theorem execSysclkLost_keepsSvn : KeepsSvn execSysclkLost := keepsSvn_runAlways fun w => by simp
theorem execWarmReset_keepsSvn (wr) : KeepsSvn (execWarmReset wr) := keepsSvn_run fun w => by simp
theorem execPerstAssert_keepsSvn : KeepsSvn execPerstAssert := keepsSvn_run fun w => by simp
theorem execPerstRelease_keepsSvn : KeepsSvn execPerstRelease := keepsSvn_run fun w => by simp
theorem execPcieLinkTrained_keepsSvn (speed width) : KeepsSvn (execPcieLinkTrained speed width) := keepsSvn_run fun w => by simp
theorem execPcieRefclkLost_keepsSvn : KeepsSvn execPcieRefclkLost := keepsSvn_run fun w => by simp
theorem execPcieRefclkReturn_keepsSvn : KeepsSvn execPcieRefclkReturn := keepsSvn_run fun w => by simp
theorem execSriovVfEnable_keepsSvn (num) : KeepsSvn (execSriovVfEnable num) := keepsSvn_run fun w => by simp
theorem execSerdesclkLost_keepsSvn (clk) : KeepsSvn (execSerdesclkLost clk) := keepsSvn_run fun w => by simp
theorem execSerdesclkReturn_keepsSvn (clk) : KeepsSvn (execSerdesclkReturn clk) := keepsSvn_run fun w => by simp
theorem execBootImageVerified_keepsSvn (image) : KeepsSvn (execBootImageVerified image) :=
  keepsSvn_run fun w => by simp only [sameSvn_iff]; (repeat' split) <;> simp
theorem execD2dTrained_keepsSvn (ok) : KeepsSvn (execD2dTrained ok) :=
  keepsSvn_run fun w => by
    split
    · rfl
    · split
      · simp
      · extract_lets u v d
        have hv : SameSvn w v := by
          simp only [v, u]
          rw [sameSvn_iff, loadCal_svn, setReady_svn, set_svn, set_svn]
        exact (hv.trans (extendMeas_svn ..)).trans (sameSvn_set ..)
theorem sameSvn_ppr (w : Work) (p) : SameSvn w { w with ppr := p } := rfl
theorem execDdrTrainingDone_keepsSvn (chans) : KeepsSvn (execDdrTrainingDone chans) :=
  keepsSvn_run fun w => by
    split
    · rfl
    · extract_lets +onlyGivenNames v
      refine SameSvn.trans (sameSvn_foldl (fun w i => ?_) _ _) (sameSvn_set ..)
      split
      · rfl
      · extract_lets +onlyGivenNames ok a b c
        have hc : SameSvn w c := by
          simp only [c, b, a]
          rw [sameSvn_iff, setReady_svn, setEnable_svn, setFlag_svn, setFlag_svn, set_svn, set_svn, set_svn]
        obtain ⟨v', ev⟩ : ∃ v', v' = c := ⟨c, rfl⟩
        rw [← ev] at hc ⊢
        clear ev c
        extract_lets d e
        have he : SameSvn w e := by
          simp only [e, d]
          exact (sameSvn_of_ite (hc.trans (sameSvn_ppr ..)) hc).trans (sameSvn_set ..)
        exact sameSvn_of_ite (he.trans (report_svn ..)) he
theorem execHbmRoundDone_keepsSvn (failed) : KeepsSvn (execHbmRoundDone failed) := keepsSvn_run fun w => by simp
theorem execSelftestDone_keepsSvn (part bad) : KeepsSvn (execSelftestDone part bad) :=
  keepsSvn_run fun w => by grind [sameSvn_iff, foldl_svn, log_svn, activate_svn, set_svn, replaceBad_svn]
theorem execReadyReached_keepsSvn : KeepsSvn execReadyReached := keepsSvn_run fun w => by simp
theorem execPromotionBoundary_keepsSvn : KeepsSvn execPromotionBoundary := keepsSvn_run fun w => by simp
theorem execGlbIdLock_keepsSvn (wr) : KeepsSvn (execGlbIdLock wr) := keepsSvn_run fun w => by simp
theorem execManagementLinkChange_keepsSvn (port up) : KeepsSvn (execManagementLinkChange port up) := keepsSvn_run fun w => by simp
theorem execWatchdogWarning_keepsSvn : KeepsSvn execWatchdogWarning := keepsSvn_run fun w => by simp
theorem execWatchdogExpired_keepsSvn (core) : KeepsSvn (execWatchdogExpired core) := keepsSvn_run fun w => by simp
theorem execWatchdogWarmReset_keepsSvn : KeepsSvn execWatchdogWarmReset := keepsSvn_run fun w => by split <;> simp
theorem execStatusOrder_keepsSvn (f) : KeepsSvn (execStatusOrder f) := keepsSvn_run fun w => by simp
theorem execSetMk_keepsSvn (f) : KeepsSvn (execSetMk f) :=
  keepsSvn_run fun w => mgOrder_svn w _ _ _ fun w r => by simp only [sameSvn_iff]; split <;> simp
theorem execMkWrite_keepsSvn (wr) : KeepsSvn (execMkWrite wr) := keepsSvn_run fun w => by simp
theorem execSetIds_keepsSvn (f) : KeepsSvn (execSetIds f) := keepsSvn_run fun w => by simp
theorem execBudgetOrder_keepsSvn (f) : KeepsSvn (execBudgetOrder f) := keepsSvn_run fun w => by simp
theorem execLeaseOrder_keepsSvn (f) : KeepsSvn (execLeaseOrder f) := keepsSvn_run fun w => by simp
theorem execFenceOrder_keepsSvn (f) : KeepsSvn (execFenceOrder f) := keepsSvn_run fun w => by simp
theorem execFenceMinOrder_keepsSvn (f) : KeepsSvn (execFenceMinOrder f) := keepsSvn_run fun w => by simp
theorem execTakeoverOrder_keepsSvn (f) : KeepsSvn (execTakeoverOrder f) := keepsSvn_run fun w => by simp
theorem execReconcileOrder_keepsSvn (f) : KeepsSvn (execReconcileOrder f) := keepsSvn_run fun w => by simp
theorem execAdoptOrder_keepsSvn (f) : KeepsSvn (execAdoptOrder f) :=
  keepsSvn_run fun w => mgOrder_svn w _ _ _ fun w r => sliceOrder_svn w _ fun w n c v h => by
    obtain ⟨x, -, rfl⟩ := Option.map_eq_some_iff.1 h
    simp
theorem execDiscardOrder_keepsSvn (f) : KeepsSvn (execDiscardOrder f) :=
  keepsSvn_run fun w => mgOrder_svn w _ _ _ fun w r => by grind [sameSvn_iff, foldl_svn, putIn_svn, endHomeRun_svn,
    dropHoldings_svn, freeSession_svn, sliceOrder_svn, mgOrder_svn]
theorem execResetOrder_keepsSvn (f) : KeepsSvn (execResetOrder f) := keepsSvn_run fun w => by simp
theorem execReadReg_keepsSvn (f) : KeepsSvn (execReadReg f) := keepsSvn_run fun w => by simp
theorem execAttestOrder_keepsSvn (f) : KeepsSvn (execAttestOrder f) :=
  keepsSvn_run fun w => mgOrder_svn w _ _ _ fun w r => by simp only [sameSvn_iff]; (repeat' split) <;> simp
theorem execCalRead_keepsSvn (f) : KeepsSvn (execCalRead f) := keepsSvn_run fun w => by simp
theorem execLogRead_keepsSvn (f) : KeepsSvn (execLogRead f) := keepsSvn_run fun w => by simp
theorem execUsageOrder_keepsSvn (f) : KeepsSvn (execUsageOrder f) :=
  keepsSvn_run fun w => mgOrder_svn w _ _ _ fun w r => by simp only [sameSvn_iff]; split <;> simp
theorem execTakenListOrder_keepsSvn (f) : KeepsSvn (execTakenListOrder f) := keepsSvn_run fun w => by simp
theorem execImageWrite_keepsSvn (f) : KeepsSvn (execImageWrite f) := keepsSvn_run fun w => by simp
theorem execImageStreamIdle_keepsSvn : KeepsSvn execImageStreamIdle := keepsSvn_run fun w => by split <;> simp
theorem execDebugToken_keepsSvn (f) : KeepsSvn (execDebugToken f) := keepsSvn_run fun w => by simp
theorem execDebugClear_keepsSvn (f) : KeepsSvn (execDebugClear f) := keepsSvn_run fun w => by simp
theorem execHelloFlit_keepsSvn (port half flit) : KeepsSvn (execHelloFlit port half flit) := keepsSvn_run fun w => by simp
theorem execTickMark_keepsSvn (port half flit arrive) : KeepsSvn (execTickMark port half flit arrive) :=
  keepsSvn_run fun w => by simp
theorem execTickSourceLost_keepsSvn (why) : KeepsSvn (execTickSourceLost why) := keepsSvn_run fun w => by simp
theorem execTickSwitchWrite_keepsSvn (wr) : KeepsSvn (execTickSwitchWrite wr) := keepsSvn_run fun w => by simp
theorem execPeriodSwitch_keepsSvn : KeepsSvn execPeriodSwitch := keepsSvn_run fun w => by simp
theorem execTickLoad_keepsSvn (wr) : KeepsSvn (execTickLoad wr) := keepsSvn_run fun w => by simp
theorem execTickInEdge_keepsSvn (dev) : KeepsSvn (execTickInEdge dev) := keepsSvn_run fun w => by simp
theorem execTickInLost_keepsSvn : KeepsSvn execTickInLost := keepsSvn_run fun _ => tickInGone_svn ..
theorem execTickBoundary_keepsSvn : KeepsSvn execTickBoundary := keepsSvn_run fun w => by simp
theorem execPowerEstimate_keepsSvn (counts0 counts1 temps) : KeepsSvn (execPowerEstimate counts0 counts1 temps) :=
  keepsSvn_run fun w => by simp only [sameSvn_iff]; (repeat' split) <;> simp
theorem execSoftReset_keepsSvn (wr) : KeepsSvn (execSoftReset wr) := keepsSvn_run fun w => by simp
theorem execFreezeWrite_keepsSvn (wr) : KeepsSvn (execFreezeWrite wr) := keepsSvn_run fun w => by simp
theorem execBlkIsrClear_keepsSvn (wr) : KeepsSvn (execBlkIsrClear wr) := keepsSvn_run fun w => by simp
theorem execBlkIset_keepsSvn (wr) : KeepsSvn (execBlkIset wr) := keepsSvn_run fun w => by simp
theorem execBlkIerWrite_keepsSvn (wr) : KeepsSvn (execBlkIerWrite wr) := keepsSvn_run fun w => by simp
theorem execHoldoffExpired_keepsSvn (fn vector) : KeepsSvn (execHoldoffExpired fn vector) := keepsSvn_run fun w => by split <;> simp
theorem execMsixUnmask_keepsSvn (fn vector) : KeepsSvn (execMsixUnmask fn vector) := keepsSvn_run fun w => by simp
theorem execRegisterWrite_keepsSvn (wr) : KeepsSvn (execRegisterWrite wr) :=
  keepsSvn_run fun w => by simp only [sameSvn_iff]; (repeat' split) <;> simp

/-- Every command but the two that a write of SEC_CTRL may carry leaves the fused SVN. -/
theorem exec_keepsSvn {c : Instr} (hc : ¬ ∃ wr, c = .svnCommit wr ∨ c = .fkekLock wr) : KeepsSvn (exec c) := by
  intro s t h
  cases c with
  | tickBoundary => exact execTickBoundary_keepsSvn s t h
  | computeCutoff => exact execComputeCutoff_keepsSvn s t h
  | egressPhase => exact execEgressPhase_keepsSvn s t h
  | retryPass => exact execRetryPass_keepsSvn s t h
  | lendPoint => exact execLendPoint_keepsSvn s t h
  | splTickDecision => exact execSplTickDecision_keepsSvn s t h
  | heatDecay => exact execHeatDecay_keepsSvn s t h
  | moveCopyDone => exact execMoveCopyDone_keepsSvn _ _ s t h
  | moveCommit => exact execMoveCommit_keepsSvn _ s t h
  | tailPageCopyDone => exact execTailPageCopyDone_keepsSvn _ s t h
  | hbmUncorrectableError => exact execHbmUncorrectableError_keepsSvn _ s t h
  | ddrUncorrectableError => exact execDdrUncorrectableError_keepsSvn _ s t h
  | systemAreaError => exact execSystemAreaError_keepsSvn _ _ s t h
  | scrubCorrected => exact execScrubCorrected_keepsSvn _ s t h
  | takeOffline => exact execTakeOffline_keepsSvn _ s t h
  | pgmFmtValid => exact execPgmFmtValid_keepsSvn _ s t h
  | openSession => exact execOpenSession_keepsSvn _ _ s t h
  | forkSession => exact execForkSession_keepsSvn _ _ s t h
  | forkCopiesLanded => exact execForkCopiesLanded_keepsSvn _ s t h
  | closeSession => exact execCloseSession_keepsSvn _ _ s t h
  | sessionCloseComplete => exact execSessionCloseComplete_keepsSvn _ s t h
  | appendRows => exact execAppendRows_keepsSvn _ _ _ s t h
  | rowLanded => exact execRowLanded_keepsSvn _ s t h
  | matchPrefix => exact execMatchPrefix_keepsSvn _ _ s t h
  | publishBlocks => exact execPublishBlocks_keepsSvn _ _ s t h
  | retractBlocks => exact execRetractBlocks_keepsSvn _ _ s t h
  | pinBlocks => exact execPinBlocks_keepsSvn _ _ s t h
  | unpinBlocks => exact execUnpinBlocks_keepsSvn _ _ s t h
  | prefixOpStart => exact execPrefixOpStart_keepsSvn s t h
  | prefixOpComplete => exact execPrefixOpComplete_keepsSvn s t h
  | parityScan => exact execParityScan_keepsSvn s t h
  | keystoneBankRebuilt => exact execKeystoneBankRebuilt_keepsSvn _ s t h
  | spareMapWrite => exact execSpareMapWrite_keepsSvn _ s t h
  | clusterSwapEffect => exact execClusterSwapEffect_keepsSvn s t h
  | clusterFault => exact execClusterFault_keepsSvn _ _ _ s t h
  | clusterBufferUe => exact execClusterBufferUe_keepsSvn _ _ _ s t h
  | controlCoreFault => exact execControlCoreFault_keepsSvn _ s t h
  | clusterPass => exact execClusterPass_keepsSvn _ _ s t h
  | resultPortTransfer => exact execResultPortTransfer_keepsSvn _ s t h
  | codebookValid => exact execCodebookValid_keepsSvn _ s t h
  | weightLoad => exact execWeightLoad_keepsSvn _ s t h
  | weightLoadDone => exact execWeightLoadDone_keepsSvn s t h
  | attend => exact execAttend_keepsSvn _ _ _ s t h
  | partialRecord => exact execPartialRecord_keepsSvn _ _ s t h
  | creditRecord => exact execCreditRecord_keepsSvn _ _ s t h
  | cancelRecord => exact execCancelRecord_keepsSvn _ _ s t h
  | collectorDeadline => exact execCollectorDeadline_keepsSvn _ _ s t h
  | creditWaitExpired => exact execCreditWaitExpired_keepsSvn _ s t h
  | earlyWaitExpired => exact execEarlyWaitExpired_keepsSvn _ s t h
  | compressorBlockEmitted => exact execCompressorBlockEmitted_keepsSvn _ _ _ _ _ s t h
  | blockDecodeDone => exact execBlockDecodeDone_keepsSvn _ _ _ s t h
  | xpdRetire => exact execXpdRetire_keepsSvn _ s t h
  | lpEnable => exact execLpEnable_keepsSvn _ s t h
  | lpRetrain => exact execLpRetrain_keepsSvn _ s t h
  | forceSwap => exact execForceSwap_keepsSvn _ s t h
  | laneSignalDetect => exact execLaneSignalDetect_keepsSvn _ _ _ s t h
  | lanesConverged => exact execLanesConverged_keepsSvn _ _ _ s t h
  | trainTimeout => exact execTrainTimeout_keepsSvn _ _ s t h
  | lanesDeskewed => exact execLanesDeskewed_keepsSvn _ _ s t h
  | helloFlit => exact execHelloFlit_keepsSvn _ _ _ s t h
  | helloTimer => exact execHelloTimer_keepsSvn _ _ s t h
  | helloTimeout => exact execHelloTimeout_keepsSvn _ _ s t h
  | hardLaneFailure => exact execHardLaneFailure_keepsSvn _ _ s t h
  | alignmentRound => exact execAlignmentRound_keepsSvn _ _ _ _ _ s t h
  | swapReq => exact execSwapReq_keepsSvn _ _ _ s t h
  | swapAck => exact execSwapAck_keepsSvn _ _ _ s t h
  | linkUnitReceived => exact execLinkUnitReceived_keepsSvn _ _ _ _ s t h
  | codewordUncorrectable => exact execCodewordUncorrectable_keepsSvn _ _ _ _ s t h
  | creditFlit => exact execCreditFlit_keepsSvn _ _ _ s t h
  | tickMark => exact execTickMark_keepsSvn _ _ _ _ s t h
  | tickSourceLost => exact execTickSourceLost_keepsSvn _ s t h
  | tickSwitchWrite => exact execTickSwitchWrite_keepsSvn _ s t h
  | periodSwitch => exact execPeriodSwitch_keepsSvn s t h
  | tickLoad => exact execTickLoad_keepsSvn _ s t h
  | tickInEdge => exact execTickInEdge_keepsSvn _ s t h
  | tickInLost => exact execTickInLost_keepsSvn s t h
  | installConn => exact execInstallConn_keepsSvn _ _ s t h
  | rekeyConn => exact execRekeyConn_keepsSvn _ _ s t h
  | removeConn => exact execRemoveConn_keepsSvn _ _ s t h
  | rekeyOverlapExpired => exact execRekeyOverlapExpired_keepsSvn _ s t h
  | connectionFreed => exact execConnectionFreed_keepsSvn _ s t h
  | contextFetchDone => exact execContextFetchDone_keepsSvn _ _ s t h
  | packetReceived => exact execPacketReceived_keepsSvn _ _ _ s t h
  | writeOp => exact execWriteOp_keepsSvn _ s t h
  | readOp => exact execReadOp_keepsSvn _ s t h
  | casOp => exact execCasOp_keepsSvn _ s t h
  | sendHostQueue => exact execSendHostQueue_keepsSvn _ _ _ _ s t h
  | strikeNotice => exact execStrikeNotice_keepsSvn _ _ _ s t h
  | fenceOp => exact execFenceOp_keepsSvn _ _ _ s t h
  | noticeOp => exact execNoticeOp_keepsSvn _ _ _ s t h
  | responseOp => exact execResponseOp_keepsSvn _ s t h
  | ackOp => exact execAckOp_keepsSvn _ _ s t h
  | ackDelayExpired => exact execAckDelayExpired_keepsSvn _ s t h
  | reorderExpired => exact execReorderExpired_keepsSvn _ _ s t h
  | rtoExpired => exact execRtoExpired_keepsSvn _ _ s t h
  | probeExpired => exact execProbeExpired_keepsSvn _ _ s t h
  | regionCreate => exact execRegionCreate_keepsSvn _ _ s t h
  | regionAdvance => exact execRegionAdvance_keepsSvn _ _ s t h
  | regionDestroy => exact execRegionDestroy_keepsSvn _ _ s t h
  | regionDrainDone => exact execRegionDrainDone_keepsSvn _ _ s t h
  | schedulerDecision => exact execSchedulerDecision_keepsSvn s t h
  | portUnitStart => exact execPortUnitStart_keepsSvn _ _ s t h
  | shaperReconfigure => exact execShaperReconfigure_keepsSvn _ s t h
  | meterReconfigure => exact execMeterReconfigure_keepsSvn _ s t h
  | queueEnable => exact execQueueEnable_keepsSvn _ s t h
  | queueDisable => exact execQueueDisable_keepsSvn _ s t h
  | queueReset => exact execQueueReset_keepsSvn _ s t h
  | queueDrained => exact execQueueDrained_keepsSvn _ s t h
  | sqTail => exact execSqTail_keepsSvn _ _ _ s t h
  | cqHead => exact execCqHead_keepsSvn _ _ _ s t h
  | sqEntryFetched => exact execSqEntryFetched_keepsSvn _ _ s t h
  | hostSession => exact execHostSession_keepsSvn _ _ _ s t h
  | hostAttend => exact execHostAttend_keepsSvn _ _ _ _ s t h
  | hostAppend => exact execHostAppend_keepsSvn _ _ _ _ s t h
  | hostConn => exact execHostConn_keepsSvn _ _ _ s t h
  | hostRegion => exact execHostRegion_keepsSvn _ _ _ s t h
  | hostMsg => exact execHostMsg_keepsSvn _ _ _ s t h
  | hostCopy => exact execHostCopy_keepsSvn _ _ _ s t h
  | hostRecv => exact execHostRecv_keepsSvn _ _ s t h
  | hostNop => exact execHostNop_keepsSvn _ _ s t h
  | waitTicksExpired => exact execWaitTicksExpired_keepsSvn _ _ s t h
  | coalNsExpired => exact execCoalNsExpired_keepsSvn _ s t h
  | functionReset => exact execFunctionReset_keepsSvn _ s t h
  | perstAssert => exact execPerstAssert_keepsSvn s t h
  | busMasterEnableChange => exact execBusMasterEnableChange_keepsSvn _ s t h
  | bar4Read => exact execBar4Read_keepsSvn _ _ _ _ s t h
  | bar4Write => exact execBar4Write_keepsSvn _ _ _ s t h
  | partCreate => exact execPartCreate_keepsSvn _ s t h
  | partStrike => exact execPartStrike_keepsSvn _ s t h
  | installKey => exact execInstallKey_keepsSvn _ s t h
  | strikeDrainEnd => exact execStrikeDrainEnd_keepsSvn _ s t h
  | scrubComplete => exact execScrubComplete_keepsSvn _ s t h
  | strikePublish => exact execStrikePublish_keepsSvn _ s t h
  | fkekWrite => exact execFkekWrite_keepsSvn _ s t h
  | fkekLock wr => exact absurd ⟨wr, .inr rfl⟩ hc
  | svnCommit wr => exact absurd ⟨wr, .inl rfl⟩ hc
  | extGo => exact execExtGo_keepsSvn _ s t h
  | attGo => exact execAttGo_keepsSvn _ s t h
  | attestReportWritten => exact execAttestReportWritten_keepsSvn s t h
  | mirrorEnable => exact execMirrorEnable_keepsSvn _ s t h
  | mirrorBatchSend => exact execMirrorBatchSend_keepsSvn _ _ s t h
  | mirrorOp => exact execMirrorOp_keepsSvn _ _ _ _ s t h
  | sliceSeeded => exact execSliceSeeded_keepsSvn _ _ s t h
  | mirrorAckLate => exact execMirrorAckLate_keepsSvn _ s t h
  | mirrorStreamLost => exact execMirrorStreamLost_keepsSvn _ s t h
  | mirrorReseedTimer => exact execMirrorReseedTimer_keepsSvn _ s t h
  | restoreFetchSend => exact execRestoreFetchSend_keepsSvn _ s t h
  | commitOp => exact execCommitOp_keepsSvn _ _ s t h
  | commitWaitExpired => exact execCommitWaitExpired_keepsSvn _ s t h
  | homeWaitExpired => exact execHomeWaitExpired_keepsSvn _ s t h
  | leaseExpired => exact execLeaseExpired_keepsSvn s t h
  | orphanTimeout => exact execOrphanTimeout_keepsSvn _ s t h
  | powerEstimate => exact execPowerEstimate_keepsSvn _ _ _ s t h
  | telemetryTrim => exact execTelemetryTrim_keepsSvn _ s t h
  | hbmTempRead => exact execHbmTempRead_keepsSvn _ s t h
  | droopTrip => exact execDroopTrip_keepsSvn _ s t h
  | thermtrip => exact execThermtrip_keepsSvn s t h
  | laneScan port lane v x berCl => exact execLaneScan_keepsSvn port lane v x berCl s t h
  | opticalRead => exact execOpticalRead_keepsSvn _ _ _ s t h
  | calWrite => exact execCalWrite_keepsSvn _ s t h
  | calWriteDone => exact execCalWriteDone_keepsSvn _ s t h
  | budgetOrder => exact execBudgetOrder_keepsSvn _ s t h
  | budgetExpired => exact execBudgetExpired_keepsSvn s t h
  | pwrgoodRise => exact execPwrgoodRise_keepsSvn _ _ _ s t h
  | pwrgoodFall => exact execPwrgoodFall_keepsSvn _ s t h
  | bootImageVerified image => exact execBootImageVerified_keepsSvn image s t h
  | d2dTrained => exact execD2dTrained_keepsSvn _ s t h
  | ddrTrainingDone => exact execDdrTrainingDone_keepsSvn _ s t h
  | hbmRoundDone => exact execHbmRoundDone_keepsSvn _ s t h
  | selftestDone => exact execSelftestDone_keepsSvn _ _ s t h
  | readyReached => exact execReadyReached_keepsSvn s t h
  | promotionBoundary => exact execPromotionBoundary_keepsSvn s t h
  | glbIdLock => exact execGlbIdLock_keepsSvn _ s t h
  | warmReset => exact execWarmReset_keepsSvn _ s t h
  | watchdogExpired => exact execWatchdogExpired_keepsSvn _ s t h
  | serdesclkLost => exact execSerdesclkLost_keepsSvn _ s t h
  | pcieRefclkLost => exact execPcieRefclkLost_keepsSvn s t h
  | sysclkLost => exact execSysclkLost_keepsSvn s t h
  | d2dDegraded => exact execD2dDegraded_keepsSvn _ s t h
  | statusOrder => exact execStatusOrder_keepsSvn _ s t h
  | setMk => exact execSetMk_keepsSvn _ s t h
  | setIds => exact execSetIds_keepsSvn _ s t h
  | leaseOrder => exact execLeaseOrder_keepsSvn _ s t h
  | fenceOrder => exact execFenceOrder_keepsSvn _ s t h
  | fenceMinOrder => exact execFenceMinOrder_keepsSvn _ s t h
  | takeoverOrder => exact execTakeoverOrder_keepsSvn _ s t h
  | reconcileOrder => exact execReconcileOrder_keepsSvn _ s t h
  | adoptOrder => exact execAdoptOrder_keepsSvn _ s t h
  | discardOrder => exact execDiscardOrder_keepsSvn _ s t h
  | resetOrder => exact execResetOrder_keepsSvn _ s t h
  | readReg => exact execReadReg_keepsSvn _ s t h
  | attestOrder => exact execAttestOrder_keepsSvn _ s t h
  | calRead => exact execCalRead_keepsSvn _ s t h
  | logRead => exact execLogRead_keepsSvn _ s t h
  | usageOrder => exact execUsageOrder_keepsSvn _ s t h
  | takenListOrder => exact execTakenListOrder_keepsSvn _ s t h
  | imageWrite => exact execImageWrite_keepsSvn _ s t h
  | imageStreamIdle => exact execImageStreamIdle_keepsSvn s t h
  | debugToken => exact execDebugToken_keepsSvn _ s t h
  | debugClear => exact execDebugClear_keepsSvn _ s t h
  | mkWrite => exact execMkWrite_keepsSvn _ s t h
  | usageSample => exact execUsageSample_keepsSvn s t h
  | usageStatementClose => exact execUsageStatementClose_keepsSvn s t h
  | softReset => exact execSoftReset_keepsSvn _ s t h
  | freezeWrite => exact execFreezeWrite_keepsSvn _ s t h
  | blkIsrClear => exact execBlkIsrClear_keepsSvn _ s t h
  | blkIset => exact execBlkIset_keepsSvn _ s t h
  | blkIerWrite => exact execBlkIerWrite_keepsSvn _ s t h
  | holdoffExpired => exact execHoldoffExpired_keepsSvn _ _ s t h
  | registerWrite => exact execRegisterWrite_keepsSvn _ s t h
  | managementLinkChange => exact execManagementLinkChange_keepsSvn _ _ s t h
  | perstRelease => exact execPerstRelease_keepsSvn s t h
  | pcieLinkTrained => exact execPcieLinkTrained_keepsSvn _ _ s t h
  | serdesclkReturn => exact execSerdesclkReturn_keepsSvn _ s t h
  | pcieRefclkReturn => exact execPcieRefclkReturn_keepsSvn s t h
  | droopRelease => exact execDroopRelease_keepsSvn _ _ s t h
  | watchdogWarning => exact execWatchdogWarning_keepsSvn s t h
  | watchdogWarmReset => exact execWatchdogWarmReset_keepsSvn s t h
  | latchingRegisterRead => exact execLatchingRegisterRead_keepsSvn _ _ _ s t h
  | msixUnmask => exact execMsixUnmask_keepsSvn _ _ s t h
  | sriovVfEnable => exact execSriovVfEnable_keepsSvn _ s t h

end Sys2Proof.FusedSvn
end

section
/-! The write of SEC_CTRL and the boot ROM, and the obligation on the fused SVN. -/

namespace Sys2Proof.FusedSvn

open Sys2Proof.Machine Sys2Proof.Safety Sys2Proof.Laws

/-! ## A write of SEC_CTRL -/

theorem pageBlock_sec {p i : Nat} (h : pageBlock p = some (.SEC, i)) : i = 0 := by
  simp only [pageBlock, ite_eq_iff, Option.some.injEq, Prod.mk.injEq, reduceCtorEq, false_and, and_false, false_or, or_false,
    true_and] at h
  omega

/-- Only the physical function reaches the security page (R488). -/
theorem locate_sec {w : Work} {fn : Fn} {off inst o : Nat} (h : w.locate fn off = .reg .SEC inst o) : fn = .pf ∧ inst = 0 := by
  unfold Work.locate at h
  cases fn with
  | vf p => simp only at h; split_ifs at h <;> cases h
  | pf =>
    simp only at h
    split_ifs at h <;> try cases h
    split at h
    · rename_i hb
      split_ifs at h
      cases h
      exact ⟨rfl, pageBlock_sec hb⟩
    · cases h

theorem addresses_sec {w : Work} {wr : RegWr} {o : Nat} (h : w.addresses wr .SEC [o] = true) :
    wr.fn = .pf ∧ wr.off % 4 = 0 ∧ w.locate .pf wr.off = .reg .SEC 0 o := by
  unfold Work.addresses at h
  split at h
  · rename_i b inst o' hl
    simp only [List.mem_singleton, Bool.and_eq_true, decide_eq_true_eq] at h
    obtain ⟨⟨h4, rfl⟩, rfl⟩ := h
    obtain ⟨hf, rfl⟩ := locate_sec hl
    exact ⟨hf, h4, hf ▸ hl⟩
  · cases h

theorem regFields_secCtrl : regFields .SEC 0x104 = [Reg.SEC_FKEK_LOCK, Reg.SEC_SVN_COMMIT] := by decide

/-- Both bits of SEC_CTRL are set by a written 1 and are no stored field, so the shared write refuses and writes nothing (R516). -/
theorem busWrite_secCtrl {w : Work} {wr : RegWr} (ha : w.addresses wr .SEC [0x104] = true) :
    w.busWrite wr = ⟨w, some (.SEC, 0, 0x104, 0)⟩ := by
  obtain ⟨hf, h4, hl⟩ := addresses_sec ha
  have hlock : Reg.SEC_FKEK_LOCK.acc = .w1s := rfl
  have hcommit : Reg.SEC_SVN_COMMIT.acc = .w1s := rfl
  have hr : w.refuse wr .SEC 0 0 0x104 = none := by
    simp [Work.refuse, roToVf, fnMayWrite, Work.forbidden, regFields_secCtrl, hf, hlock, hcommit, List.any_filter]
  simp [Work.busWrite, h4, hf, hl, Work.sel, hr, Work.writeFields, regFields_secCtrl, hlock, hcommit]

/-- Locking the FKEK leaves the running image's SVN. -/
theorem lock_svnImage (w : Work) : (w.set Reg.SEC_FKEK_LOCK 1).get Reg.SEC_SVN_IMAGE = w.get Reg.SEC_SVN_IMAGE :=
  SameAt.get (sameAt_set _ _ _ _ _ (key_ne_of_off 0 0 0 0 (by decide) (by decide) (by decide))) rfl

/-- SVN_COMMIT alone raises the fused SVN, to the running image's (R367). -/
theorem secCtrl_svn (w : Work) (wr : RegWr) : (w.secCtrl wr).svn =
    if w.addresses wr .SEC [0x104] = true ∧ wrote1 wr Reg.SEC_SVN_COMMIT = true then max w.svn (w.get Reg.SEC_SVN_IMAGE) else w.svn := by
  unfold Work.secCtrl Work.regAction
  cases ha : w.addresses wr .SEC [0x104] with
  | false => simp
  | true =>
    rw [if_pos rfl, busWrite_secCtrl ha]
    cases wrote1 wr Reg.SEC_SVN_COMMIT <;> cases wrote1 wr Reg.SEC_FKEK_LOCK <;> simp [lock_svnImage]

theorem run_svnFuse {s t : State} {f : Work → Work} (h : run s f = .next t) :
    t.svnFuse = if s.alive = true then max s.svnFuse (f s.view).svn else s.svnFuse := by
  cases ha : s.alive with
  | true => cases (run_alive f ha).symm.trans h; rfl
  | false => cases (run_dead f ha).symm.trans h; rfl

/-- What a write of SEC_CTRL makes of the fused SVN: the two commands that it may carry are one function of the model. -/
theorem svnFuse_secCtrl {s t : State} {wr : RegWr} (h : run s (fun w => w.secCtrl wr) = .next t) :
    t.svnFuse = if s.alive = true ∧ s.view.addresses wr .SEC [0x104] = true ∧ wrote1 wr Reg.SEC_SVN_COMMIT = true then
      max s.svnFuse (rd s Reg.SEC_SVN_IMAGE) else s.svnFuse := by
  have hv : s.view.svn = s.svnFuse := rfl
  rw [run_svnFuse h, secCtrl_svn, hv, Safety.rd]
  split_ifs <;> simp_all

theorem exec_secCtrl {c : Instr} {wr : RegWr} (hc : c = .svnCommit wr ∨ c = .fkekLock wr) (s : State) :
    exec c s = run s fun w => w.secCtrl wr := by
  obtain rfl | rfl := hc <;> rfl

/-! ## An image of a lower SVN -/

theorem imageFails_of_low_svn {w : Work} {image : Nat} (h : fieldAt (w.bytes (flashKey (imageFlash image)) 4096) 6 1 < w.svn) :
    ∃ k, w.imageFails image = some k := by
  unfold Work.imageFails
  simp only [h, if_true]
  split_ifs <;> exact ⟨_, rfl⟩

theorem measureRom_bytes (w : Work) (a len : Nat) : w.measureRom.bytes a len = w.bytes a len := by
  unfold Work.measureRom
  split <;> rfl

theorem measureRom_running (w : Work) : w.measureRom.n.bo.running = w.n.bo.running := by
  unfold Work.measureRom
  split <;> rfl

theorem running_of_nextImage {w : Work} {image : Nat} (h : w.nextImage = some image) : w.n.bo.running = none := by
  unfold Work.nextImage at h
  simp only at h
  split_ifs at h with h1 <;> simp_all

/-- The boot ROM's verdict on an image that fails: it is marked failed, and no image runs (R459). -/
theorem bootFailed_bo (w : Work) (image : Nat) (f : Fld) (e : Ev) :
    (({ w with n.bo.imgFailed := image :: w.n.bo.imgFailed }.count f).log e).n.bo = { w.n.bo with imgFailed := image :: w.n.bo.imgFailed } :=
  (reports_log _ e).n_bo

theorem orRecovery_bo {w : Work} {image : Nat} {c : Prop} [Decidable c] (hr : w.n.bo.running = none)
    (hi : image ∈ w.n.bo.imgFailed) : (if c then w else { w with n.bo.recovery := true }).n.bo.running = none ∧
    image ∈ (if c then w else { w with n.bo.recovery := true }).n.bo.imgFailed := by
  split <;> exact ⟨hr, hi⟩

theorem exec_lowImage {s : State} {image : Nat} (hs : s.alive = true) (hn : s.view.nextImage = some image)
    (hl : fieldAt (s.view.bytes (flashKey (imageFlash image)) 4096) 6 1 < s.svnFuse) :
    ∃ t, exec (.bootImageVerified image) s = .next t ∧ t.node.bo.running = none ∧ image ∈ t.node.bo.imgFailed := by
  have hrun : s.view.measureRom.n.bo.running = none := (measureRom_running _).trans (running_of_nextImage hn)
  obtain ⟨k, hk⟩ : ∃ k, s.view.measureRom.imageFails image = some k :=
    imageFails_of_low_svn (by rw [measureRom_bytes, measureRom_svn]; exact hl)
  change ∃ t, execBootImageVerified image s = _ ∧ _
  rw [execBootImageVerified, run_alive _ hs]
  refine ⟨_, rfl, ?_⟩
  rw [close_node, if_neg (not_not.2 hn)]
  simp only [hk]
  exact orRecovery_bo (by rw [bootFailed_bo, hrun]) (by rw [bootFailed_bo]; exact List.mem_cons_self)

/-! ## The obligation -/

/-- Settles O56: every command but a write of SEC_CTRL leaves the fused SVN, and that write raises it to the running image's. -/
theorem fusedSvnOnlyRises : Obligations.FusedSvnOnlyRises := by
  unfold Obligations.FusedSvnOnlyRises
  refine ⟨fun c s t h => ?_, fun c s t h hne => ?_, fun s wr inst idx hs hl hw hle => ?_, fun s image hs hn hl => ?_⟩
  · by_cases hc : ∃ wr, c = .svnCommit wr ∨ c = .fkekLock wr
    · obtain ⟨wr, hc⟩ := hc
      rw [svnFuse_secCtrl ((exec_secCtrl hc s).symm.trans h)]
      split_ifs
      · exact le_max_left ..
      · exact le_rfl
    · exact (exec_keepsSvn hc s t h).ge
  · by_cases hc : ∃ wr, c = .svnCommit wr ∨ c = .fkekLock wr
    · obtain ⟨wr, hc⟩ := hc
      have ht := svnFuse_secCtrl ((exec_secCtrl hc s).symm.trans h)
      split_ifs at ht with hcond
      · obtain ⟨-, ha, hw⟩ := hcond
        exact ⟨wr, 0, 0, hc, (addresses_sec ha).1, ⟨ha, by rw [busWrite_secCtrl ha]⟩, hw, by omega⟩
      · exact absurd ht hne
    · exact absurd (exec_keepsSvn hc s t h) hne
  · refine ⟨_, (exec_secCtrl (.inl rfl) s).trans (run_alive _ hs), ?_⟩
    rw [svnFuse_secCtrl (run_alive _ hs), if_pos ⟨hs, hl.1, hw⟩, max_eq_right hle]
  · obtain ⟨t, ht, hrun, hfail⟩ := exec_lowImage hs hn hl
    exact ⟨t, ht, hrun, hfail, execBootImageVerified_keepsSvn image s t ht⟩

end Sys2Proof.FusedSvn
end

section
/-!
READ_REG (R472): how a request body names its offsets, what a management order does before its own part and with its answer, what reads
of BAR0 through the physical function leave, and the obligation on READ_REG.
-/

namespace Sys2Proof.RegisterReads

open Sys2Proof.Machine Sys2Proof.Safety Sys2Proof.Laws

/-! ## Words of a request body (R18) -/

theorem leVal_leBytes (n v : Nat) : leVal (leBytes n v) = v % 256 ^ n := by
  induction n generalizing v with
  | zero => simp [leBytes, leVal, Nat.mod_one]
  | succ n ih =>
    have hb : (BitVec.ofNat 8 v).toNat = v % 256 := BitVec.toNat_ofNat v 8
    rw [leBytes, leVal, ih, hb, pow_succ', Nat.mod_mul]

theorem fieldAt_append_right (a b : Bytes) (off n : Nat) : fieldAt (a ++ b) (a.length + off) n = fieldAt b off n := by
  rw [fieldAt, fieldAt, List.drop_length_add_append]

/-- The first word of a body. -/
theorem fieldAt_leBytes_append {v : Nat} (hv : v < 2 ^ 32) (b : Bytes) : fieldAt (leBytes 4 v ++ b) 0 4 = v := by
  rw [fieldAt_append _ _ _ _ (by simp), fieldAt, List.drop_zero, List.take_of_length_le (by simp), leVal_leBytes]
  exact Nat.mod_eq_of_lt hv

theorem words_length (vs : List Nat) : ((vs.map (leBytes 4)).flatten).length = 4 * vs.length := by
  induction vs with
  | nil => rfl
  | cons v vs ih => simp [ih, Nat.mul_add, Nat.add_comm]

/-- Words laid one after another are read back in order. -/
theorem map_fieldAt_words {vs : List Nat} (hv : ∀ v ∈ vs, v < 2 ^ 32) :
    (List.range vs.length).map (fun i => fieldAt (vs.map (leBytes 4)).flatten (4 * i) 4) = vs := by
  induction vs with
  | nil => rfl
  | cons v vs ih =>
    have hrest : ∀ i, fieldAt (leBytes 4 v ++ (vs.map (leBytes 4)).flatten) (4 * (i + 1)) 4 =
        fieldAt (vs.map (leBytes 4)).flatten (4 * i) 4 := fun i => by
      rw [Nat.mul_add, Nat.add_comm]
      simpa using fieldAt_append_right (leBytes 4 v) (vs.map (leBytes 4)).flatten (4 * i) 4
    simp only [List.map_cons, List.flatten_cons, List.length_cons, List.range_succ_eq_map, List.map_map, Function.comp_def,
      Nat.succ_eq_add_one, hrest, ih fun u hu => hv u (List.mem_cons_of_mem _ hu), Nat.mul_zero,
      fieldAt_leBytes_append (hv v List.mem_cons_self)]

/-! ## An order that passes its checks (R466 to R470) -/

/-- Counting in a field leaves every field at another offset. -/
theorem count_get_of_off (w : Work) {f g : Fld} (v i j a b : Nat) (hf : f.off < 4096 ∧ f.lo < 32) (hg : g.off < 4096 ∧ g.lo < 32)
    (h : f.off ≠ g.off) : (w.count f v i j).get g a b = w.get g a b :=
  ((SameAt.refl _ w).count f v i j (key_ne_of_off _ _ _ _ hg hf h)).get rfl

/-- A field at another offset than the count of frames received. -/
abbrev NotFrameCount (g : Fld) : Prop := (g.off < 4096 ∧ g.lo < 32) ∧ Reg.MG_RX_FRAMES.off ≠ g.off

theorem countFrame_get (w : Work) {g : Fld} (p a : Nat) (hg : NotFrameCount g) :
    (w.count Reg.MG_RX_FRAMES 1 p).get g a = w.get g a :=
  count_get_of_off w _ _ _ _ _ (by decide) hg.1 hg.2

/-- The requester of `r` noted as the latest heard of its port (R469). -/
def heard (w : Work) (r : MgReq) : Work :=
  let others := w.n.mt.requesters.filter fun q => !(decide (q.port = r.port) && decide (q.mac = r.mac))
  { w with n.mt.requesters := { port := r.port, mac := r.mac, seq := r.seq, resp := [] } ::
      ((others.filter fun q => q.port = r.port).take 15 ++ others.filter fun q => q.port != r.port) }

theorem orderWork_eq (s : State) (r : MgReq) : orderWork s r = heard (s.view.count Reg.MG_RX_FRAMES 1 r.port) r := rfl

@[simp] theorem heard_get (w : Work) (r : MgReq) (f : Fld) (i j : Nat) : (heard w r).get f i j = w.get f i j := rfl

/-- A SEQ above the requester's last, with the class bit set, is acted on (R469, R470). -/
theorem mgTake_heard {w : Work} {r : MgReq} {cls : Fld} (hcls : w.get cls r.port ≠ 0)
    (hseq : ∀ q ∈ w.n.mt.requesters, q.port = r.port → q.mac = r.mac → q.seq < r.seq) (act : Work → MgReq → Work) :
    w.mgTake r cls act = act (heard w r) r := by
  have hfresh : (if (heard w r).flag cls r.port then act (heard w r) r else (heard w r).mgRespond r stInternal []) =
      act (heard w r) r := if_pos (by simp [Work.flag, hcls])
  unfold Work.mgTake
  simp only
  split
  · exact hfresh
  · rename_i q hq
    have hmine := List.find?_some hq
    simp only [Bool.and_eq_true, decide_eq_true_eq] at hmine
    have hlt := hseq q (List.mem_of_find?_eq_some hq) hmine.1 hmine.2
    rw [if_neg (by omega), if_neg (by omega)]
    exact hfresh

/-- What passes the checks of R466 to R470 is acted on as the request it is, its frame counted and its requester noted. -/
theorem mgOrder_of_requestOf {s : State} {f : Frame} {type : Nat} {cls : Fld} {r : MgReq} (h : requestOf s f type cls = some r)
    (hg : NotFrameCount cls) (act : Work → MgReq → Work) :
    s.view.mgOrder f type cls act = act (orderWork s r) r := by
  unfold requestOf at h
  simp only at h
  split at h
  case isFalse => cases h
  case isTrue hok =>
  obtain ⟨hport, hup, hen, htype, hframe, hnid, hepoch, hcls, hseq⟩ := hok
  have hup' : s.view.flag Reg.MG_LINK_UP f.port = true := bne_iff_ne.2 hup
  have hen' : s.view.flag Reg.MG_EN f.port = true := bne_iff_ne.2 hen
  have hget : ∀ (g : Fld) (a : Nat), NotFrameCount g →
      (s.view.count Reg.MG_RX_FRAMES 1 f.port).get g a = rd s g a := fun g a => countFrame_get s.view f.port a
  have hmine : fieldAt f.payload 8 2 = s.view.nodeId ∨
      (fieldAt f.payload 8 2 = 0xFFFF ∧ (!(s.view.count Reg.MG_RX_FRAMES 1 f.port).flag Reg.GLB_IDS_LOCKED) = true) := by
    simpa [Work.flag, hget Reg.GLB_IDS_LOCKED 0 (by decide)] using hnid
  have hn : (s.view.count Reg.MG_RX_FRAMES 1 f.port).n = s.node := rfl
  have hid : (s.view.count Reg.MG_RX_FRAMES 1 f.port).nodeId = s.view.nodeId := hget Reg.GLB_NODE_ID 0 (by decide)
  have take := fun (r' : MgReq) (hp : r'.port = f.port) (hm : r'.mac = f.mac) (hs : r'.seq = fieldAt f.payload 4 4) =>
    mgTake_heard (w := s.view.count Reg.MG_RX_FRAMES 1 f.port) (r := r') (cls := cls) (by rw [hp, hget _ _ hg]; exact hcls)
      (by rw [hp, hm, hs]; exact hseq) act
  unfold Work.mgOrder
  simp only [htype, hup', hen', hframe, hid, hmine, hepoch, hn, hget Reg.MG_MK_EPOCH f.port (by decide),
    hget Reg.GLB_MGT_SEL 0 (by decide), Nat.not_le.2 hport, Bool.and_self, Bool.not_true, Bool.false_eq_true, ne_eq, not_true, false_and,
    or_self, or_false, if_true, if_false, orderWork_eq]
  cases hk : s.node.mt.key with
  | none =>
    simp only [hk, Option.ite_none_right_eq_some, Option.some.injEq] at h
    obtain ⟨⟨hclear, hallowed, hsel⟩, rfl⟩ := h
    simp only [hclear, hallowed, eq_true hsel, Bool.not_true, Bool.false_eq_true, not_true, or_self, if_false]
    exact take _ rfl rfl rfl
  | some k =>
    simp only [hk, Option.ite_none_left_eq_some, Option.map_eq_some_iff] at h
    obtain ⟨hclear, pt, hpt, rfl⟩ := h
    simp only [hpt, hclear]
    exact take _ rfl rfl rfl

/-! ## The answer (R466, R471) -/

/-- Of the node an answer changes what the management ports keep, and it is sent. -/
theorem mgRespond_n (w : Work) (r : MgReq) (status : Nat) (body : Bytes) :
    (w.mgRespond r status body).n =
      { w.n with mt := (w.mgRespond r status body).n.mt, out := w.n.out ++ [reply w.nodeId w.now r status body] } := by
  simp only [Work.mgRespond, Work.mgSend, emit_n, count_n, apply_ite Work.n, ite_self]
  rfl

@[simp] theorem mgRespond_wr (w : Work) (r : MgReq) (status : Nat) (body : Bytes) : (w.mgRespond r status body).wr = w.wr := by
  simp only [Work.mgRespond, Work.mgSend, emit_wr, count_wr, apply_ite Work.wr, ite_self]

@[simp] theorem mgRespond_wiped (w : Work) (r : MgReq) (status : Nat) (body : Bytes) :
    (w.mgRespond r status body).wiped = w.wiped := by
  simp only [Work.mgRespond, Work.mgSend, emit_wiped, count_wiped, apply_ite Work.wiped, ite_self]

/-! ## What a read of BAR0 leaves (R268, R484, R486) -/

theorem pageBlock_tick {p i : Nat} (h : pageBlock p = some (.TICK, i)) : p = 1 ∧ i = 0 := by
  simp only [pageBlock, ite_eq_iff, Option.some.injEq, Prod.mk.injEq, reduceCtorEq, false_and, and_false, false_or, or_false,
    true_and] at h
  omega

/-- The tick's page is page 1 (R488). -/
theorem locate_tick {w : Work} {off inst o : Nat} (h : w.locate .pf off = .reg .TICK inst o) : off = 0x1000 + o := by
  unfold Work.locate at h
  simp only at h
  split_ifs at h <;> try cases h
  split at h
  · rename_i hb
    split_ifs at h
    cases h
    obtain ⟨hp, -⟩ := pageBlock_tick hb
    omega
  · cases h

/-- A read of NOW_LO latches NOW_HI (R268). -/
theorem busRead_nowLo (w : Work) : w.busRead .pf 0x1118 = (w.now32, { w with n.tk.latchHi := w.now.toNat / 2 ^ 32 }) := rfl

/-- What another read than that of NOW_LO can leave: nothing changed, a bad access counted, or the high half of a meter's value kept. -/
theorem busRead_other (w : Work) {off : Nat} (h : off ≠ 0x1118) :
    (w.busRead .pf off).2 = w ∨ (w.busRead .pf off).2 = w.count Reg.GLB_BAD_ACCESS ∨
      ∃ v, (w.busRead .pf off).2 = w.set Reg.MTR_VALUE_HI v := by
  unfold Work.busRead
  split
  · exact .inr (.inl rfl)
  · split
    next b inst o hl =>
      split
      · exact .inl rfl
      · split
        · split <;> exact .inl rfl
        · split
          next ht =>
            obtain ⟨rfl, rfl⟩ := ht
            exact absurd (locate_tick hl) h
          next =>
            split
            · exact .inr (.inr ⟨_, rfl⟩)
            · exact .inl rfl
    · exact .inl rfl
    · exact .inl rfl
    · exact .inr (.inl rfl)
    · exact .inl rfl

/-- What no read's effect changes, no read changes. -/
theorem busRead_keeps {α : Type} {m : Work → α} (hcount : ∀ w, m (w.count Reg.GLB_BAD_ACCESS) = m w)
    (hset : ∀ w v, m (w.set Reg.MTR_VALUE_HI v) = m w) (hlatch : ∀ (w : Work) (v : Nat), m { w with n.tk.latchHi := v } = m w)
    (w : Work) (off : Nat) : m (w.busRead .pf off).2 = m w := by
  by_cases h : off = 0x1118
  · subst h; exact hlatch _ _
  · rcases busRead_other w h with h | h | ⟨v, h⟩ <;> rw [h]
    · exact hcount w
    · exact hset w v

/-- The node with NOW_HI latched (R268). -/
def latchNow (n : Node) : Node := { n with tk.latchHi := n.tk.now.toNat / 2 ^ 32 }

theorem latchNow_latchNow (n : Node) : latchNow (latchNow n) = latchNow n := rfl

theorem busRead_n (w : Work) (off : Nat) : (w.busRead .pf off).2.n = if off = 0x1118 then latchNow w.n else w.n := by
  split
  · subst off; rfl
  · rcases busRead_other w ‹_› with h | h | ⟨v, h⟩ <;> rw [h] <;> rfl

/-! ## Reads in order (R472) -/

theorem readsInOrder_keeps {α : Type} {m : Work → α} (h : ∀ w off, m (w.busRead .pf off).2 = m w) (w : Work) (offs : List Nat) :
    m (readsInOrder w offs).2 = m w := by
  induction offs generalizing w with
  | nil => rfl
  | cons o os ih => exact (ih _).trans (h w o)

@[simp] theorem readsInOrder_wr (w : Work) (offs : List Nat) : (readsInOrder w offs).2.wr = w.wr :=
  readsInOrder_keeps (busRead_keeps (fun _ => rfl) (fun _ _ => rfl) fun _ _ => rfl) w offs

@[simp] theorem readsInOrder_wiped (w : Work) (offs : List Nat) : (readsInOrder w offs).2.wiped = w.wiped :=
  readsInOrder_keeps (busRead_keeps (fun _ => rfl) (fun _ _ => rfl) fun _ _ => rfl) w offs

@[simp] theorem readsInOrder_now (w : Work) (offs : List Nat) : (readsInOrder w offs).2.now = w.now :=
  readsInOrder_keeps (m := Work.now) (busRead_keeps (fun _ => rfl) (fun _ _ => rfl) fun _ _ => rfl) w offs

@[simp] theorem readsInOrder_nodeId (w : Work) (offs : List Nat) : (readsInOrder w offs).2.nodeId = w.nodeId := by
  refine readsInOrder_keeps (busRead_keeps (fun w => ?_) (fun w v => ?_) fun _ _ => rfl) w offs
  · exact count_get_of_off w _ _ _ _ _ (by decide) (by decide) (by decide)
  · exact ((SameAt.refl _ w).set _ v 0 0 (key_ne_of_off _ _ _ _ (by decide) (by decide) (by decide))).get rfl

/-- Of the node reads change NOW_HI's latch alone, and that where NOW_LO is among them (R268). -/
theorem readsInOrder_n (w : Work) (offs : List Nat) :
    (readsInOrder w offs).2.n = if 0x1118 ∈ offs then latchNow w.n else w.n := by
  induction offs generalizing w with
  | nil => rfl
  | cons o os ih =>
    rw [readsInOrder, ih, busRead_n]
    by_cases ho : o = 0x1118
    · simp [ho, latchNow_latchNow]
    · simp [ho, Ne.symm ho]

/-- READ_REG's pass over its offsets gathers the words of those reads. -/
theorem foldl_busRead (offs : List Nat) (b : Bytes) (w : Work) :
    offs.foldl (fun (acc : Bytes × Work) o => let v := acc.2.busRead .pf o; (acc.1 ++ leBytes 4 v.1, v.2)) (b, w) =
      (b ++ ((readsInOrder w offs).1.map (leBytes 4)).flatten, (readsInOrder w offs).2) := by
  induction offs generalizing b w with
  | nil => simp [readsInOrder]
  | cons o os ih =>
    rw [List.foldl_cons]
    refine (ih _ _).trans ?_
    simp [readsInOrder]

/-! ## READ_REG (R472) -/

@[simp] theorem orderWork_wr (s : State) (r : MgReq) : (orderWork s r).wr = [] := rfl
@[simp] theorem orderWork_wiped (s : State) (r : MgReq) : (orderWork s r).wiped = false := rfl
theorem orderWork_nodeId (s : State) (r : MgReq) : (orderWork s r).nodeId = s.view.nodeId := by
  rw [orderWork_eq]
  exact (heard_get ..).trans (countFrame_get s.view r.port 0 (by decide))

/-- A READ_REG whose body names 1 to 256 offsets: refused where one is misaligned, else answered with what their reads return. -/
theorem exec_readReg {s : State} {f : Frame} {r : MgReq} {offs : List Nat} (hs : s.alive = true)
    (hreq : requestOf s f 0x20 Reg.MG_R = some r) (hbody : r.body = leBytes 4 offs.length ++ (offs.map (leBytes 4)).flatten)
    (hmin : 1 ≤ offs.length) (hmax : offs.length ≤ 256) (hlt : ∀ o ∈ offs, o < 2 ^ 32) :
    exec (.readReg f) s = .next (s.close (
      if ∃ o ∈ offs, o % 4 ≠ 0 then (orderWork s r).mgRespond r stInternal []
      else (readsInOrder (orderWork s r) offs).2.mgRespond r stOK ((readsInOrder (orderWork s r) offs).1.map (leBytes 4)).flatten)) := by
  have hn : fieldAt r.body 0 4 = offs.length := by rw [hbody]; exact fieldAt_leBytes_append (by omega) _
  have hoffs : (List.range offs.length).map (fun i => fieldAt r.body (4 + 4 * i) 4) = offs := by
    have hword : ∀ i, fieldAt r.body (4 + 4 * i) 4 = fieldAt (offs.map (leBytes 4)).flatten (4 * i) 4 := fun i => by
      rw [hbody]
      simpa using fieldAt_append_right (leBytes 4 offs.length) (offs.map (leBytes 4)).flatten (4 * i) 4
    simpa only [hword] using map_fieldAt_words hlt
  have hlen : r.body.length = 4 + 4 * offs.length := by rw [hbody, List.length_append, leBytes_length, words_length]
  change execReadReg f s = _
  rw [execReadReg, run_alive _ hs, mgOrder_of_requestOf hreq (by decide)]
  simp only [hn, hoffs, hlen, foldl_busRead, List.nil_append]
  congr 2
  refine if_congr ?_ rfl rfl
  simp [Nat.not_lt.2 hmax, Nat.ne_of_gt hmin]

/-! ## Write-only registers (R472) -/

theorem readReg_wo (w : Work) (fn : Fn) (b : Block) (inst off : Nat) (h : ∀ x ∈ regFields b off, x.acc = .wo) :
    w.readReg fn b inst off = 0 := by
  unfold Work.readReg
  refine List.foldlRecOn (motive := (· = 0)) _ _ rfl fun v hv x hx => ?_
  simp [hv, Work.readField, h x hx]

/-- No field of a GLB aggregation register is write-only (R492). -/
theorem aggregate_not_wo : ∀ x ∈ Block.GLB.flds, 0x180 ≤ x.off → x.off ≤ 0x1AC → x.acc ≠ .wo := by decide

theorem readAggregate_of_wo (w : Work) {off : Nat} (hne : regFields .GLB off ≠ []) (h : ∀ x ∈ regFields .GLB off, x.acc = .wo) :
    w.readAggregate off = none := by
  obtain ⟨x, hx⟩ := List.exists_mem_of_ne_nil _ hne
  have hmem := List.mem_filter.1 hx
  have hoff : x.off = off := by simpa using hmem.2
  have hout : ¬ (0x180 ≤ off ∧ off ≤ 0x1AC) := fun ⟨hlo, hhi⟩ =>
    aggregate_not_wo x hmem.1 (hoff ▸ hlo) (hoff ▸ hhi) (h x hx)
  unfold Work.readAggregate
  rw [if_neg (by omega), if_neg (by omega), if_neg (by omega), if_neg (by omega)]

/-- A write-only register reads zero (R472). -/
theorem busRead_wo {w : Work} {b : Block} {inst o off : Nat} (h4 : o % 4 = 0) (hl : w.locate .pf o = .reg b inst off)
    (hpage : 0x100 ≤ off ∨ b = .QCFG) (hne : regFields b off ≠ []) (hwo : ∀ x ∈ regFields b off, x.acc = .wo) :
    (w.busRead .pf o).1 = 0 := by
  have hcommon : ¬ (off < 0x100 ∧ b ≠ .QCFG) := by rintro ⟨h, hq⟩; exact hpage.elim (by omega) hq
  have htick : ¬ (b = .TICK ∧ off = 0x118) := by rintro ⟨rfl, rfl⟩; revert hwo; decide
  have hmeter : ¬ (b = .MTR ∧ off = 0x118) := by rintro ⟨rfl, rfl⟩; revert hwo; decide
  have hzero := readReg_wo w .pf b inst off hwo
  unfold Work.busRead
  simp only [h4, ne_eq, not_true, if_false, hl, hcommon, htick, hmeter]
  split
  · rename_i hb
    subst hb
    rw [readAggregate_of_wo w hne hwo]
    exact hzero
  · exact hzero

/-! ## The obligation -/

/-- An order's answer goes out at the tick and from the node that its command found (R466). -/
theorem answered_mgRespond {s : State} {w : Work} (r : MgReq) (status : Nat) (body : Bytes) (hid : w.nodeId = s.view.nodeId)
    (hnow : w.now = s.node.tk.now) : Answered s (s.close (w.mgRespond r status body)) r status body := by
  rw [Answered, close_node, mgRespond_n, hid, hnow]
  exact List.mem_append_right _ (List.mem_singleton_self _)

/-- An answer without a store before it leaves memory. -/
theorem close_mgRespond_mem {s : State} {w : Work} (r : MgReq) (status : Nat) (body : Bytes) (hwr : w.wr = []) (hwiped : w.wiped = false) :
    (s.close (w.mgRespond r status body)).mem = s.mem :=
  close_mem_quiet s _ (by rw [mgRespond_wr, hwr]) (by rw [mgRespond_wiped, hwiped])

/-- Settles O57: READ_REG is its reads of BAR0 in request order and one answer, and of the node those reads change NOW_HI's latch alone. -/
theorem readRegReadsAsBar0Does : Obligations.ReadRegReadsAsBar0Does := by
  unfold Obligations.ReadRegReadsAsBar0Does
  refine ⟨?_, ?_, fun w b inst o off h4 hl hpage hne hwo => busRead_wo h4 hl hpage hne hwo⟩
  · rintro s f r offs hs - hreq ⟨hbody, hmin, hmax⟩ hoffs
    have hx := exec_readReg hs hreq hbody hmin hmax fun o ho => (hoffs o ho).1
    rw [if_neg (by rintro ⟨o, ho, h4⟩; exact h4 (hoffs o ho).2)] at hx
    refine ⟨_, hx, answered_mgRespond r _ _ (by rw [readsInOrder_nodeId, orderWork_nodeId]) (by rw [readsInOrder_now]; rfl), ?_⟩
    rw [close_mgRespond_mem r _ _ (by simp) (by simp), close_node, mgRespond_n, readsInOrder_n]
    split
    next h => exact ⟨fun _ => rfl, fun hn => absurd h hn, rfl, rfl, rfl, rfl⟩
    next h => exact ⟨fun hn => absurd hn h, fun _ => rfl, rfl, rfl, rfl, rfl⟩
  · rintro s f r offs hs - hreq ⟨hbody, hmin, hmax⟩ ⟨hlt, hmis⟩
    have hx := exec_readReg hs hreq hbody hmin hmax hlt
    rw [if_pos hmis] at hx
    refine ⟨_, hx, answered_mgRespond r _ _ (orderWork_nodeId s r) rfl, ?_, close_mgRespond_mem r _ _ rfl rfl⟩
    rw [close_node, mgRespond_n]
    rfl

end Sys2Proof.RegisterReads
end

section
/-!
Every command is one meaning over a command's view: run on a node that answers, or, for the four power and clock pins, on any node. So what
the end of a command keeps, every command keeps.
-/

namespace Sys2Proof.Steps

open Sys2Proof.Machine Sys2Proof.Safety Sys2Proof.Laws

/-- The power and clock pins, which act on a node that does not answer too (R441, R431, R508). -/
def powerPin : Instr → Bool
  | .pwrgoodRise .. | .pwrgoodFall .. | .thermtrip | .sysclkLost => true
  | _ => false

theorem exec_eq_run {c : Instr} (hc : powerPin c = false) : ∃ f, ∀ s, exec c s = run s f := by
  cases c
  case pwrgoodRise | pwrgoodFall | thermtrip | sysclkLost => cases hc
  all_goals exact ⟨_, fun s => by simp only [exec]; rfl⟩

theorem exec_eq_runAlways {c : Instr} (hc : powerPin c = true) : ∃ f, ∀ s, exec c s = runAlways s f := by
  cases c
  case pwrgoodRise | pwrgoodFall | thermtrip | sysclkLost => exact ⟨_, fun s => by simp only [exec]; rfl⟩
  all_goals cases hc

/-- A command ends with the writes of its meaning landed, or leaves the state. -/
theorem exec_eq_close_or (c : Instr) (s : State) : (∃ w, exec c s = .next (s.close w)) ∨ exec c s = .next s := by
  cases hc : powerPin c with
  | true => obtain ⟨f, hf⟩ := exec_eq_runAlways hc; exact .inl ⟨_, hf s⟩
  | false =>
    obtain ⟨f, hf⟩ := exec_eq_run hc
    cases ha : s.alive with
    | true => exact .inl ⟨_, (hf s).trans (run_alive f ha)⟩
    | false => exact .inr ((hf s).trans (run_dead f ha))

/-- Settles O1: the step's own equation. -/
theorem stepRunsTheCommandInFront : Obligations.StepRunsTheCommandInFront := by
  unfold Obligations.StepRunsTheCommandInFront
  intro c rest s h
  simp only [step, h]

/-- Settles O2: the step's own equation. -/
theorem emptyQueueIdles : Obligations.EmptyQueueIdles := by
  unfold Obligations.EmptyQueueIdles
  intro s h
  simp only [step, h]

/-- Settles O3: the end of a command keeps the queue and takes the greater SVN. -/
theorem everyCommandEndsAndKeepsTheQueue : Obligations.EveryCommandEndsAndKeepsTheQueue := by
  unfold Obligations.EveryCommandEndsAndKeepsTheQueue
  intro c s
  rcases exec_eq_close_or c s with ⟨w, h⟩ | h
  · exact ⟨_, h, rfl, Nat.le_max_left ..⟩
  · exact ⟨s, h, rfl, le_rfl⟩

theorem exec_canonical {c : Instr} {s t : State} (hc : Canonical s) (h : exec c s = .next t) : Canonical t := by
  rcases exec_eq_close_or c s with ⟨w, hw⟩ | hs
  · cases hw.symm.trans h; exact canonical_close w hc
  · cases hs.symm.trans h; exact hc

/-- Settles O4: a step is its command's end, which lands every write in the canonical stores. -/
theorem stepsKeepTheCanonicalForms : Obligations.StepsKeepTheCanonicalForms := by
  unfold Obligations.StepsKeepTheCanonicalForms
  intro s t hc h
  cases hq : s.pending with
  | nil => cases (emptyQueueIdles s hq).symm.trans h; exact hc
  | cons c rest =>
    have hs : Canonical { s with pending := rest } := hc
    exact exec_canonical hs ((stepRunsTheCommandInFront c rest s hq).symm.trans h)

/-- Settles O6: on a node that does not answer the shared run leaves the state. -/
theorem silentNodeIgnoresCommands : Obligations.SilentNodeIgnoresCommands := by
  unfold Obligations.SilentNodeIgnoresCommands
  intro c s ha hrise hfall htherm hclk
  have hc : powerPin c = false := by
    cases c
    case pwrgoodRise b m k => exact absurd rfl (hrise b m k)
    case pwrgoodFall ns => exact absurd rfl (hfall ns)
    case thermtrip => exact absurd rfl htherm
    case sysclkLost => exact absurd rfl hclk
    all_goals rfl
  obtain ⟨f, hf⟩ := exec_eq_run hc
  exact (hf s).trans (run_dead f ha)

end Sys2Proof.Steps
end

section
/-!
What a reset leaves of the node, and the obligations on the reset state and on the power and clock pins.
-/

namespace Sys2Proof.Resets

open Sys2Proof.Machine Sys2Proof.Safety Sys2Proof.Laws Sys2Proof.Steps

/-! ## A view that has been reset -/

/-- The node was reset, and of memory nothing has been written since but host memory and the flash (R444). -/
structure Wiped (w : Work) : Prop where
  wiped : w.wiped = true
  wr : w.wr = []

theorem Wiped.mem {w : Work} (h : Wiped w) (s : State) : (s.close w).mem = s.mem.afterReset := by
  rw [close_mem, h.wiped, h.wr]; rfl

theorem wipe_wiped (w : Work) (h : w.wr = []) : Wiped w.wipe := ⟨rfl, by simp [Work.wipe, h]⟩

theorem Wiped.set {w : Work} (h : Wiped w) (f : Fld) (v i j : Nat) : Wiped (w.set f v i j) := ⟨h.1, h.2⟩

/-- After a reset a field shows the newest write to it, from any state. -/
theorem Wiped.rd_shows {s : State} {w : Work} (h : Wiped w) {f : Fld} {v i j : Nat} (hs : Shows w f v i j) :
    rd (s.close w) f i j = v := by
  have hb : rd (s.close w) f i j = rd (({ s with regs := [] } : State).close w) f i j := by
    simp only [rd, Work.get, Work.raw, view_rw, view_regs, close_regs, h.wiped, if_true]
  rw [hb]
  exact hs.rd rfl

/-- After a reset a field that has not been written since shows its reset value. -/
theorem Wiped.rd_reset {s : State} {w : Work} (h : Wiped w) {f : Fld} {i j : Nat}
    (hn : w.rw.find? (fun e => e.1 = f.key i j) = none) : rd (s.close w) f i j = f.resetAt i j := by
  have hf := find_foldl (r := []) rfl w.rw (f.key i j)
  rw [hn] at hf
  simp only [rd, Work.get, Work.raw, view_rw, view_regs, List.find?_nil, close_regs, h.wiped, if_true, hf]
  rfl

theorem wipe_node (s : State) : s.view.wipe.n = resetNode s := rfl

/-! ## The obligations -/

/-- Settles O5: the reset state, evaluated. -/
theorem resetIsAsTheSpecGivesIt : Obligations.ResetIsAsTheSpecGivesIt := by
  unfold Obligations.ResetIsAsTheSpecGivesIt
  exact ⟨⟨rfl, rfl⟩, rfl, rfl, rfl, rfl, rfl, rfl, rfl, rfl, rfl, rfl, rfl, rfl, rfl⟩

theorem exec_pwrgoodFall (s : State) (ns : Nat) : exec (.pwrgoodFall ns) s = execPwrgoodFall ns s := by simp only [exec]
theorem exec_pwrgoodRise (s : State) (b : Nat) (m tm : Bool) : exec (.pwrgoodRise b m tm) s = execPwrgoodRise b m tm s := by simp only [exec]
theorem exec_thermtrip (s : State) : exec .thermtrip s = execThermtrip s := by simp only [exec]
theorem exec_sysclkLost (s : State) : exec .sysclkLost s = execSysclkLost s := by simp only [exec]

theorem close_view (s : State) : s.close s.view = s := by
  have h : max s.svnFuse s.svnFuse = s.svnFuse := max_self _
  simp only [State.close, view_n, view_rw, view_wr, view_wiped, view_svn, view_ppr, List.reverse_nil, List.foldl_nil, h]
  rfl

/-- A reset, closed: every register at its reset value, memory as a reset leaves it. -/
theorem close_wipe (s : State) (n : Node) :
    s.close { s.view.wipe with n := n } = { s with node := n, regs := [], mem := s.mem.afterReset } := by
  simp [State.close, Work.wipe]

/-- A node that is on stays on when its clocks stop (R431, R508). -/
theorem stopClocks_n (s : State) (trip : Bool) (h : s.node.bo.on = true) : (s.view.stopClocks trip).n =
    { resetNode s with bo := { (resetNode s).bo with stopped := true, thermtrip := trip } } := by
  simp only [Work.stopClocks, view_n, h]
  rfl

theorem straps_ne : Reg.GLB_BOOT_SEL.key 0 0 ≠ Reg.GLB_MGT_SEL.key 0 0 ∧ Reg.GLB_BOOT_SEL.key 0 0 ≠ Reg.GLB_TEST_MODE.key 0 0 ∧
    Reg.GLB_MGT_SEL.key 0 0 ≠ Reg.GLB_TEST_MODE.key 0 0 := by decide

/-- After a power-on reset nothing but the straps is written (R442, R456). -/
theorem straps_only (w : Work) (b : Nat) (m tm : Bool) {k : Nat} (h1 : Reg.GLB_BOOT_SEL.key 0 0 ≠ k)
    (h2 : Reg.GLB_MGT_SEL.key 0 0 ≠ k) (h3 : Reg.GLB_TEST_MODE.key 0 0 ≠ k) :
    (((w.wipe.set Reg.GLB_BOOT_SEL (b % 4)).setFlag Reg.GLB_MGT_SEL m).setFlag Reg.GLB_TEST_MODE tm).rw.find? (fun e => e.1 = k) =
      none :=
  (((SameAt.refl k w.wipe).set _ _ _ _ h1).set _ _ _ _ h2).set _ _ _ _ h3

/-- Settles O7: each pin is its reset of the view, written out. -/
theorem powerPinsResetTheNode : Obligations.PowerPinsResetTheNode := by
  unfold Obligations.PowerPinsResetTheNode
  refine ⟨fun s ns h => ?_, fun s ns h => ?_, fun s b m tm h => ?_, fun s b m tm h => ?_, fun s hon hth => ?_, fun s hon hst => ?_⟩
  · rw [exec_pwrgoodFall, execPwrgoodFall, runAlways, if_pos h, close_view]
  · rw [exec_pwrgoodFall, execPwrgoodFall, runAlways, if_neg (Nat.not_lt.2 h)]
    exact congrArg _ (close_wipe s _)
  · rw [exec_pwrgoodRise, execPwrgoodRise, runAlways, if_pos (show s.view.n.bo.on = true from h), close_view]
  · have hw := ((wipe_wiped s.view rfl).set Reg.GLB_BOOT_SEL (b % 4) 0 0)
    have hw := (hw.set Reg.GLB_MGT_SEL (if m then 1 else 0) 0 0).set Reg.GLB_TEST_MODE (if tm then 1 else 0) 0 0
    refine ⟨_, ?_, rfl, hw.mem s, max_self _, rfl, hw.rd_shows ?_, hw.rd_shows ?_, hw.rd_shows ?_, hw.rd_reset ?_, hw.rd_reset ?_⟩
    · rw [exec_pwrgoodRise, execPwrgoodRise, runAlways, if_neg (show ¬ s.view.n.bo.on = true by simp [h])]; rfl
    · have h1 := shows_set s.view.wipe Reg.GLB_BOOT_SEL (b % 4) 0 0
      rw [show b % 4 % 2 ^ Reg.GLB_BOOT_SEL.width = b % 4 from Nat.mod_eq_of_lt (Nat.mod_lt _ (by decide))] at h1
      exact (h1.set _ _ _ _ straps_ne.1.symm).set _ _ _ _ straps_ne.2.1.symm
    · have h1 := shows_setFlag (s.view.wipe.set Reg.GLB_BOOT_SEL (b % 4)) Reg.GLB_MGT_SEL m 0 0 (by decide)
      rw [show (if m then 1 else 0) = m.toNat by cases m <;> rfl] at h1
      exact h1.set _ _ _ _ straps_ne.2.2.symm
    · have h1 := shows_setFlag ((s.view.wipe.set Reg.GLB_BOOT_SEL (b % 4)).setFlag Reg.GLB_MGT_SEL m) Reg.GLB_TEST_MODE tm 0 0 (by decide)
      rwa [show (if tm then 1 else 0) = tm.toNat by cases tm <;> rfl] at h1
    · exact straps_only s.view b m tm (by decide) (by decide) (by decide)
    · exact straps_only s.view b m tm (by decide) (by decide) (by decide)
  · rw [exec_thermtrip, execThermtrip, runAlways, if_pos (by simp [hon, hth])]
    exact congrArg _ ((close_wipe s ((s.view.stopClocks true).emit .thermtrip).n).trans (by rw [emit_n, stopClocks_n s true hon]; rfl))
  · rw [exec_sysclkLost, execSysclkLost, runAlways, if_pos (by simp [hon, hst])]
    exact congrArg _ ((close_wipe s (s.view.stopClocks false).n).trans (by rw [stopClocks_n s false hon]; rfl))

end Sys2Proof.Resets
end

section
/-!
What a command keeps of the tick, the keys, the strike count, the frozen counters and the sheets: the part of a command's view that a
measure shows, and what the shared operations do to it. Flags say whether the tick, the sheets and their tiles are shown too: each function is
proved once, at the flags that it meets.
-/

namespace Sys2Proof.Frame

open Sys2Proof.Machine Sys2Proof.Safety Sys2Proof.Laws

/-- What a frozen sheet keeps to its end and an open one until it freezes (R34, R40): the running sheet's tick and state, which queries
are on it, and the same of the sheet being built. -/
def sheets (a : Admission) :=
  (a.cur.tick, a.cur.state, a.cur.queries.map (·.1), a.next.tick, a.next.state, a.next.queries.map (·.1))

/-- Which tiles the two sheets hold. -/
def tileKeys (a : Admission) := (a.cur.tiles.map (·.1), a.next.tiles.map (·.1))

/-- Which of the FKEK, the management key, the strike count and the frozen counters a measure shows. -/
structure Keys where
  fkek : Bool
  mgmt : Bool
  strikes : Bool
  frozen : Bool

/-- A value, where it is shown. -/
def shown {α : Type} (b : Bool) (x : α) : Option α := if b then some x else none

/-- With `T` the tick, with `Q` the sheets, with `K` their tiles, and what `E` shows. -/
def kept (T Q K : Bool) (E : Keys) (w : Work) :=
  (shown T w.n.tk, shown Q (sheets w.n.qa), shown K (tileKeys w.n.qa), shown E.fkek w.n.se.fkek, shown E.mgmt w.n.mt.key,
    shown E.strikes w.n.se.strikeCount, shown E.frozen w.n.frozen)

/-- `w'` keeps what the measure shows of `w`. -/
def Same (T Q K : Bool) (E : Keys) (w w' : Work) : Prop := kept T Q K E w' = kept T Q K E w

@[simp] theorem same_iff {T Q K : Bool} {E : Keys} (w w' : Work) : Same T Q K E w w' ↔ kept T Q K E w' = kept T Q K E w := ⟨id, id⟩

/-! ## Updates of what the measure does not show -/

section
variable {T Q K : Bool} {E : Keys} (w : Work) (st : Store) (pg : Pager) (ks : Keystone) (cl : Clusters) (qa : Admission) (cp : Compress) (lk : Links)
  (tp : Transport) (hq : HostIf) (sc : Sched) (mi : Mirror) (pw : Power) (bo : BringUp) (holdoffs : List Holdoff) (log : List LogEntry)
  (logSeq : Nat) (out : List Out) (acting : List Acting) (fresh : Nat) (regs : RegFile) (rw : List (Nat × Nat × Nat)) (mem : Mem)
  (wr : List MemOp) (wiped : Bool) (svn : Nat) (ppr : List (Nat × Nat)) (parts : List Part) (meas : List (BitVec 256))
  (attBusy : Option AttReq) (digA digB : BitVec 256) (requesters : List Requester) (stream : Option ChunkStream)
  (reports : List KeptReport) (meters : List Meter16) (period : Nat) (lastSample lastClose : Option Tick) (bmcBlock : Bytes) (bmcAt : Nat)
  (tk : TickBox) (budget lastBudget : Budget) (nextQuery : Nat) (groups : List Group) (held : List (Nat × Held))
  (early : List (Nat × Early)) (credits : List (Nat × Nat)) (ports resultsHeld : List (Nat × List (Nat × Nat)))

@[simp ↓] theorem kept_update : kept T Q K E { w with
    n := { w.n with st := st, pg := pg, ks := ks, cl := cl, cp := cp, lk := lk, tp := tp, hq := hq, sc := sc, mi := mi
                    pw := pw, bo := bo, holdoffs := holdoffs, log := log, logSeq := logSeq, out := out, acting := acting, fresh := fresh }
    regs := regs, rw := rw, mem := mem, wr := wr, wiped := wiped, svn := svn, ppr := ppr } = kept T Q K E w := rfl

@[simp ↓] theorem kept_update_se : kept T Q K E { w with
    n := { w.n with st := st, pg := pg, ks := ks, cl := cl, cp := cp, lk := lk, tp := tp, hq := hq, sc := sc, mi := mi
                    pw := pw, bo := bo, holdoffs := holdoffs, log := log, logSeq := logSeq, out := out, acting := acting, fresh := fresh
                    se := { w.n.se with parts := parts, meas := meas, attBusy := attBusy, imgDigestA := digA, imgDigestB := digB } }
    regs := regs, rw := rw, mem := mem, wr := wr, wiped := wiped, svn := svn, ppr := ppr } = kept T Q K E w := rfl

@[simp ↓] theorem kept_update_mt : kept T Q K E { w with
    n := { w.n with st := st, pg := pg, ks := ks, cl := cl, cp := cp, lk := lk, tp := tp, hq := hq, sc := sc, mi := mi
                    pw := pw, bo := bo, holdoffs := holdoffs, log := log, logSeq := logSeq, out := out, acting := acting, fresh := fresh
                    mt := { w.n.mt with requesters := requesters, stream := stream, reports := reports, meters := meters, period := period
                                        lastSample := lastSample, lastClose := lastClose, bmcBlock := bmcBlock, bmcAt := bmcAt } }
    regs := regs, rw := rw, mem := mem, wr := wr, wiped := wiped, svn := svn, ppr := ppr } = kept T Q K E w := rfl

/-- With the sheets not shown, they may change. -/
@[simp ↓] theorem kept_update_qa : kept T false false E { w with
    n := { w.n with st := st, pg := pg, ks := ks, cl := cl, qa := qa, cp := cp, lk := lk, tp := tp, hq := hq, sc := sc, mi := mi
                    pw := pw, bo := bo, holdoffs := holdoffs, log := log, logSeq := logSeq, out := out, acting := acting, fresh := fresh }
    regs := regs, rw := rw, mem := mem, wr := wr, wiped := wiped, svn := svn, ppr := ppr } = kept T false false E w := rfl

/-- Of admission, all but the two sheets may change. -/
@[simp ↓] theorem kept_update_budget : kept T Q K E { w with
    n := { w.n with st := st, pg := pg, ks := ks, cl := cl, cp := cp, lk := lk, tp := tp, hq := hq, sc := sc, mi := mi
                    pw := pw, bo := bo, holdoffs := holdoffs, log := log, logSeq := logSeq, out := out, acting := acting, fresh := fresh
                    qa := { w.n.qa with budget := budget, lastBudget := lastBudget, nextQuery := nextQuery, groups := groups
                                        held := held, early := early, credits := credits, ports := ports, resultsHeld := resultsHeld } }
    regs := regs, rw := rw, mem := mem, wr := wr, wiped := wiped, svn := svn, ppr := ppr } = kept T Q K E w := rfl

/-- With the tick not shown, it may move. -/
@[simp ↓] theorem kept_update_tk : kept false Q K E { w with
    n := { w.n with tk := tk, st := st, pg := pg, ks := ks, cl := cl, cp := cp, lk := lk, tp := tp, hq := hq, sc := sc, mi := mi
                    pw := pw, bo := bo, holdoffs := holdoffs, log := log, logSeq := logSeq, out := out, acting := acting, fresh := fresh }
    regs := regs, rw := rw, mem := mem, wr := wr, wiped := wiped, svn := svn, ppr := ppr } = kept false Q K E w := rfl

theorem kept_update_fkek (hE : E.fkek = false) (k) : kept T Q K E { w with n.se.fkek := k } = kept T Q K E w := by simp [kept, shown, hE]
theorem kept_update_mk (hE : E.mgmt = false) (k) : kept T Q K E { w with n.mt.key := k } = kept T Q K E w := by simp [kept, shown, hE]
theorem kept_update_strikes (hE : E.strikes = false) (n) : kept T Q K E { w with n.se.strikeCount := n } = kept T Q K E w := by
  simp [kept, shown, hE]
theorem kept_update_frozen (hE : E.frozen = false) (l) : kept T Q K E { w with n.frozen := l } = kept T Q K E w := by simp [kept, shown, hE]
end

/-! ## Choices and folds -/

section
variable {T Q K : Bool} {E : Keys} (w : Work)

@[simp ↓] theorem kept_ite (c : Prop) [Decidable c] (a b : Work) : kept T Q K E (if c then a else b) = if c then kept T Q K E a else kept T Q K E b :=
  apply_ite ..

@[simp] theorem snd_ite {α β : Type} (c : Prop) [Decidable c] (a b : α × β) : (if c then a else b).2 = if c then a.2 else b.2 :=
  apply_ite ..

theorem kept_of_ite {c : Prop} [Decidable c] {a b v : Work} (ha : kept T Q K E a = kept T Q K E v) (hb : kept T Q K E b = kept T Q K E v) :
    kept T Q K E (if c then a else b) = kept T Q K E v := by
  split <;> assumption

/-- What every step of a fold keeps, the fold keeps. -/
theorem foldl_keeps {α β γ : Type} (m : β → γ) {f : β → α → β} (h : ∀ b x, m (f b x) = m b) (l : List α) (b : β) :
    m (l.foldl f b) = m b := by
  induction l generalizing b with
  | nil => rfl
  | cons x l ih => exact (ih _).trans (h _ _)

/-- The same of a fold that may stop with `none`. -/
theorem foldl_option_keeps {α β γ : Type} (m : β → γ) {f : Option β → α → Option β} (hn : ∀ x, f none x = none)
    (h : ∀ b x c, f (some b) x = some c → m c = m b) {l : List α} {b c : β} (hl : l.foldl f (some b) = some c) :
    m c = m b := by
  induction l generalizing b with
  | nil => cases hl; rfl
  | cons x l ih =>
    rw [List.foldl_cons] at hl
    cases hx : f (some b) x with
    | none => cases (hx ▸ hl).symm.trans (List.foldl_fixed' hn l)
    | some d => exact (ih (hx ▸ hl)).trans (h _ _ _ hx)

theorem foldl_bind_keeps {α β γ : Type} (m : β → γ) {f : β → α → Option β} (h : ∀ b x c, f b x = some c → m c = m b)
    {l : List α} {b c : β} (hl : l.foldl (fun o x => o.bind (f · x)) (some b) = some c) : m c = m b :=
  foldl_option_keeps m (fun _ => rfl) h hl

@[simp ↓] theorem foldl_kept {α : Type} {f : Work → α → Work} (h : ∀ w x, Same T Q K E w (f w x)) (l : List α) (w : Work) :
    kept T Q K E (l.foldl f w) = kept T Q K E w :=
  foldl_keeps (kept T Q K E) h l w

@[simp ↓] theorem snd_foldl_kept {α β : Type} {f : β × Work → α → β × Work} (h : ∀ a x, Same T Q K E a.2 (f a x).2) (l : List α)
    (a : β × Work) : kept T Q K E (l.foldl f a).2 = kept T Q K E a.2 :=
  foldl_keeps (fun a : β × Work => kept T Q K E a.2) h l a

theorem Same.trans {w v u : Work} (h : Same T Q K E w v) (h' : Same T Q K E v u) : Same T Q K E w u := Eq.trans h' h

theorem same_of_ite {c : Prop} [Decidable c] {w a b : Work} (ha : Same T Q K E w a) (hb : Same T Q K E w b) :
    Same T Q K E w (if c then a else b) := kept_of_ite ha hb

/-! ## Shared operations -/

@[simp ↓] theorem set_kept (f v i j) : kept T Q K E (w.set f v i j) = kept T Q K E w := (rfl)
@[simp ↓] theorem setFlag_kept (f b i j) : kept T Q K E (w.setFlag f b i j) = kept T Q K E w := (rfl)
@[simp ↓] theorem count_kept (f v i j) : kept T Q K E (w.count f v i j) = kept T Q K E w := (rfl)
@[simp ↓] theorem emit_kept (o) : kept T Q K E (w.emit o) = kept T Q K E w := (rfl)
@[simp ↓] theorem store_kept (a bs) : kept T Q K E (w.store a bs) = kept T Q K E w := (rfl)
@[simp ↓] theorem zero_kept (a len) : kept T Q K E (w.zero a len) = kept T Q K E w := (rfl)
@[simp ↓] theorem setCourse_kept (i c) : kept T Q K E (w.setCourse i c) = kept T Q K E w := (rfl)
@[simp ↓] theorem modCourse_kept (i f) : kept T Q K E (w.modCourse i f) = kept T Q K E w := (rfl)
@[simp ↓] theorem modMove_kept (i f) : kept T Q K E (w.modMove i f) = kept T Q K E w := (rfl)
@[simp ↓] theorem modTree_kept (i f) : kept T Q K E (w.modTree i f) = kept T Q K E w := (rfl)
@[simp ↓] theorem setKsBank_kept (b f) : kept T Q K E (w.setKsBank b f) = kept T Q K E w := (rfl)
@[simp] theorem modifyN_keys {α : Type} (k : Nat) (f : α → α) (l : List (Nat × α)) : (modifyN k f l).map (·.1) = l.map (·.1) := by
  simp only [modifyN, List.map_map]
  exact List.map_congr_left fun e _ => by simp only [Function.comp]; split <;> rfl

/-- Changing entries of the sheets' lists in all but their keys keeps the sheets. -/
theorem kept_of_sheets {qa : Admission} (h : sheets qa = sheets w.n.qa) (hk : tileKeys qa = tileKeys w.n.qa) :
    kept T Q K E { w with n.qa := qa } = kept T Q K E w := by
  simp only [kept, h, hk]

theorem map_keys {α : Type} {f : Nat × α → Nat × α} (h : ∀ t, (f t).1 = t.1) (l : List (Nat × α)) :
    (l.map f).map (·.1) = l.map (·.1) := by
  rw [List.map_map]
  exact List.map_congr_left fun t _ => h t

@[simp ↓] theorem modQuery_kept (k f) : kept T Q K E (w.modQuery k f) = kept T Q K E w := kept_of_sheets w (by simp [sheets]) rfl
@[simp ↓] theorem setRun_kept (die r) : kept T Q K E (w.setRun die r) = kept T Q K E w := (rfl)
@[simp ↓] theorem modHalf_kept (p h f) : kept T Q K E (w.modHalf p h f) = kept T Q K E w := (rfl)
@[simp ↓] theorem modConn_kept (id f) : kept T Q K E (w.modConn id f) = kept T Q K E w := (rfl)
@[simp ↓] theorem modOut_kept (k f) : kept T Q K E (w.modOut k f) = kept T Q K E w := (rfl)
@[simp ↓] theorem setQueue_kept (i x) : kept T Q K E (w.setQueue i x) = kept T Q K E w := (rfl)
@[simp ↓] theorem modPart_kept (p f) : kept T Q K E (w.modPart p f) = kept T Q K E w := (rfl)
@[simp ↓] theorem setStream_kept (x) : kept T Q K E (w.setStream x) = kept T Q K E w := (rfl)
@[simp ↓] theorem setIn_kept (x) : kept T Q K E (w.setIn x) = kept T Q K E w := (rfl)
@[simp ↓] theorem setHomeRun_kept (r) : kept T Q K E (w.setHomeRun r) = kept T Q K E w := (rfl)
@[simp ↓] theorem modStrike_kept (p f) : kept T Q K E (w.modStrike p f) = kept T Q K E w := (rfl)
@[simp ↓] theorem modMeter_kept (p f) : kept T Q K E (w.modMeter p f) = kept T Q K E w := (rfl)
@[simp ↓] theorem modSession_kept (i f) : kept T Q K E (w.modSession i f) = kept T Q K E w := (rfl)
@[simp ↓] theorem useCtx_kept (id) : kept T Q K E (w.useCtx id) = kept T Q K E w := (rfl)

/-! ## Reports -/

theorem reports_kept {w v : Work} (h : Reports w v) : kept T Q K E v = kept T Q K E w := by
  simp only [kept, h.n_tk, h.n_se, h.n_mt, h.n_frozen, h.n_qa]

@[simp ↓] theorem msixSend_kept (fn vec) : kept T Q K E (w.msixSend fn vec) = kept T Q K E w := reports_kept (reports_msixSend ..)
@[simp ↓] theorem signal_kept (fn vec) : kept T Q K E (w.signal fn vec) = kept T Q K E w := reports_kept (reports_signal ..)
@[simp ↓] theorem isr_kept (page bit) : kept T Q K E (w.isr page bit) = kept T Q K E w := reports_kept (reports_isr ..)
@[simp ↓] theorem log_kept (e) : kept T Q K E (w.log e) = kept T Q K E w := reports_kept (reports_log ..)
@[simp ↓] theorem capture_kept (e) : kept T Q K E (w.capture e) = kept T Q K E w := reports_kept (reports_capture ..)
@[simp ↓] theorem report_kept (e) : kept T Q K E (w.report e) = kept T Q K E w := reports_kept (reports_report ..)
@[simp ↓] theorem setReady_kept (page b) : kept T Q K E (w.setReady page b) = kept T Q K E w := reports_kept (reports_setReady ..)
@[simp ↓] theorem setEnable_kept (page b) : kept T Q K E (w.setEnable page b) = kept T Q K E w := reports_kept (reports_setEnable ..)
@[simp ↓] theorem setSpareInUse_kept (page b) : kept T Q K E (w.setSpareInUse page b) = kept T Q K E w :=
  reports_kept (reports_setSpareInUse ..)

theorem same_set (f v i j) : Same T Q K E w (w.set f v i j) := set_kept ..

theorem same_foldl {α : Type} {f : Work → α → Work} (h : ∀ w x, Same T Q K E w (f w x)) (l : List α) (w : Work) :
    Same T Q K E w (l.foldl f w) := foldl_kept h l w

end

end Sys2Proof.Frame
end


section
namespace Sys2Proof.Frame

open Sys2Proof.Machine Sys2Proof.Safety Sys2Proof.Laws

variable {T Q K : Bool} {E : Keys} (w : Work)

/-! ## Work.lean -/
@[simp ↓] theorem draw_kept : kept T Q K E (w.draw).2 = kept T Q K E w := (rfl)
@[simp ↓] theorem pick_kept (count) : kept T Q K E (w.pick count).2 = kept T Q K E w := (rfl)
@[simp ↓] theorem randomBytes_kept (len) : kept T Q K E (w.randomBytes len).2 = kept T Q K E w := (rfl)
/-! ## Regs.lean -/
@[simp ↓] theorem keep_kept (f unit inst idx old) : kept T Q K E (w.keep f unit inst idx old) = kept T Q K E w := by simp [Work.keep]
@[simp ↓] theorem settle_kept (fs) : kept T Q K E (w.settle fs) = kept T Q K E w := (rfl)
@[simp ↓] theorem settleSheet_kept : kept T Q K E (w.settleSheet) = kept T Q K E w := (rfl)
@[simp ↓] theorem actRunning_kept : kept T Q K E (w.actRunning) = kept T Q K E w := (rfl)
/-! ## Ops.lean -/
@[simp ↓] theorem logRaw_kept (bs) : kept T Q K E (w.logRaw bs) = kept T Q K E w := by simp [Work.logRaw]
@[simp ↓] theorem nameSpan_kept (page a len) : kept T Q K E (w.nameSpan page a len) = kept T Q K E w := by simp [Work.nameSpan]
@[simp ↓] theorem setNodeState_kept (v) : kept T Q K E (w.setNodeState v) = kept T Q K E w := by simp [Work.setNodeState]
/-! ## Changes.lean -/
@[simp ↓] theorem change_kept (p c) : kept T Q K E (w.change p c) = kept T Q K E w := by unfold Work.change; split <;> simp
@[simp ↓] theorem metaChange_kept (p b) : kept T Q K E (w.metaChange p b) = kept T Q K E w := by simp [Work.metaChange]
@[simp ↓] theorem noteRuns_kept (p li old runs cid) : kept T Q K E (w.noteRuns p li old runs cid) = kept T Q K E w := by simp [Work.noteRuns]
/-! ## Bus.lean -/
@[simp ↓] theorem writeFields_kept (wr b inst idx off) : kept T Q K E (w.writeFields wr b inst idx off) = kept T Q K E w := by
  grind [Work.writeFields, foldl_kept, same_iff, set_kept]
@[simp ↓] theorem busWrite_kept (wr) : kept T Q K E (w.busWrite wr).w = kept T Q K E w := by simp only [Work.busWrite]; (repeat' split) <;> simp
@[simp ↓] theorem regAction_kept (wr b offs) {act} (h : ∀ w i j, Same T Q K E w (act w i j)) : kept T Q K E (w.regAction wr b offs act) = kept T Q K E w := by
  grind [Work.regAction, same_iff, busWrite_kept]
@[simp ↓] theorem clearCounter_kept (f inst) : kept T Q K E (w.clearCounter f inst) = kept T Q K E w := (rfl)
@[simp ↓] theorem softResetPage_kept (page) : kept T Q K E (w.softResetPage page) = kept T Q K E w := by simp [Work.softResetPage]
@[simp ↓] theorem freezePage_kept (hE : E.frozen = false) (page on) : kept T Q K E (w.freezePage page on) = kept T Q K E w := by
  unfold Work.freezePage
  refine kept_of_ite rfl ?_
  extract_lets v held
  exact kept_of_ite ((kept_update_frozen _ hE ..).trans (setFlag_kept ..)) ((kept_update_frozen _ hE ..).trans (setFlag_kept ..))
/-! ## Complete.lean -/
@[simp ↓] theorem meter_kept (p counter by_) : kept T Q K E (w.meter p counter by_) = kept T Q K E w := by simp [Work.meter]
@[simp ↓] theorem pcieOut_kept (p len) : kept T Q K E (w.pcieOut p len) = kept T Q K E w := by unfold Work.pcieOut; split <;> simp
@[simp ↓] theorem pcieIn_kept (p len) : kept T Q K E (w.pcieIn p len) = kept T Q K E w := by unfold Work.pcieIn; split <;> simp
@[simp ↓] theorem readsFailed_kept (n) : kept T Q K E (w.readsFailed n).2 = kept T Q K E w := (rfl)
@[simp ↓] theorem hostStore_kept (fn addr bs relaxed) : kept T Q K E (w.hostStore fn addr bs relaxed) = kept T Q K E w := by simp [Work.hostStore]
@[simp ↓] theorem hostFetch_kept (fn p addr len relaxed) : kept T Q K E (w.hostFetch fn p addr len relaxed) = kept T Q K E w := by simp [Work.hostFetch]
@[simp ↓] theorem resultStore_kept (q h bs off) : kept T Q K E (w.resultStore q h bs off) = kept T Q K E w := by simp [Work.resultStore]
@[simp ↓] theorem queueSignal_kept (q) : kept T Q K E (w.queueSignal q) = kept T Q K E w := by simp only [Work.queueSignal]; split <;> simp
@[simp ↓] theorem cqProduce_kept (q tag aux0 aux1 sqIndex status flags irq) :
    kept T Q K E (w.cqProduce q tag aux0 aux1 sqIndex status flags irq) = kept T Q K E w := by
  simp [Work.cqProduce]
@[simp ↓] theorem cqNotice_kept (q aux0 aux1 status) : kept T Q K E (w.cqNotice q aux0 aux1 status) = kept T Q K E w := by simp [Work.cqNotice]
@[simp ↓] theorem partNotice_kept (p aux0 aux1 status) : kept T Q K E (w.partNotice p aux0 aux1 status) = kept T Q K E w := by simp [Work.partNotice]
@[simp ↓] theorem endEntry_kept (q e status aux0 aux1 flags handle) : kept T Q K E (w.endEntry q e status aux0 aux1 flags handle) = kept T Q K E w := by
  simp only [Work.endEntry]
  split <;> simp
@[simp ↓] theorem startEntries_kept (fuel) : kept T Q K E (Work.startEntries fuel w) = kept T Q K E w := by
  induction fuel generalizing w <;> grind [Work.startEntries, endEntry_kept, setQueue_kept]
@[simp ↓] theorem completeEntry_kept (q e status aux0 aux1 flags handle) :
    kept T Q K E (w.completeEntry q e status aux0 aux1 flags handle) = kept T Q K E w := by
  simp [Work.completeEntry]
@[simp ↓] theorem sendResponse_kept (conn msn op payload purpose) : kept T Q K E (w.sendResponse conn msn op payload purpose) = kept T Q K E w := (rfl)
@[simp ↓] theorem recordDone_kept (id msn r) : kept T Q K E (w.recordDone id msn r) = kept T Q K E w := by unfold Work.recordDone; split <;> simp
@[simp ↓] theorem violated_kept (id target st) : kept T Q K E (w.violated id target st) = kept T Q K E w := by unfold Work.violated; split <;> simp
@[simp ↓] theorem remoteAct_kept (c m) : kept T Q K E (w.remoteAct c m) = kept T Q K E w := by simp only [Work.remoteAct]; (repeat' split) <;> simp
@[simp ↓] theorem presentFence_kept (b) : kept T Q K E (w.presentFence b) = kept T Q K E w := by simp [Work.presentFence]
@[simp ↓] theorem releaseFenced_kept (id) : kept T Q K E (w.releaseFenced id) = kept T Q K E w := by unfold Work.releaseFenced; split <;> simp
@[simp ↓] theorem settleMsgs_kept (fuel) : kept T Q K E (Work.settleMsgs fuel w) = kept T Q K E w := by
  induction fuel generalizing w <;> grind [Work.settleMsgs, releaseFenced_kept, recordDone_kept, remoteAct_kept]
@[simp ↓] theorem msgsGoOn_kept : kept T Q K E (w.msgsGoOn) = kept T Q K E w := by simp [Work.msgsGoOn]
@[simp ↓] theorem completeMsg_kept (id msn tag status aux0 aux1) : kept T Q K E (w.completeMsg id msn tag status aux0 aux1) = kept T Q K E w := by
  simp [Work.completeMsg]
@[simp ↓] theorem complete_kept (src tag status aux0 aux1 handle) : kept T Q K E (w.complete src tag status aux0 aux1 handle) = kept T Q K E w := by
  unfold Work.complete; split <;> simp
@[simp ↓] theorem srcActs_kept (src op bytes) {act} (h : ∀ w, Same T Q K E w (act w)) : kept T Q K E (w.srcActs src op bytes act) = kept T Q K E w := by
  grind [Work.srcActs, same_iff, complete_kept, count_kept]
@[simp ↓] theorem arrive_kept (src) : kept T Q K E (w.arrive src) = kept T Q K E w := by unfold Work.arrive; split <;> simp
/-! ## Power.lean -/
@[simp ↓] theorem noteCapped_kept : kept T Q K E (w.noteCapped) = kept T Q K E w := by simp [Work.noteCapped]
@[simp ↓] theorem showCap_kept : kept T Q K E (w.showCap) = kept T Q K E w := (rfl)
@[simp ↓] theorem capChange_kept : kept T Q K E (w.capChange) = kept T Q K E w := by simp [Work.capChange]
@[simp ↓] theorem showAllow_kept : kept T Q K E (w.showAllow) = kept T Q K E w := (rfl)
@[simp ↓] theorem takeBudget_kept (b) : kept T Q K E (w.takeBudget b) = kept T Q K E w := by simp only [Work.takeBudget]; (repeat' split) <;> simp
@[simp ↓] theorem setClamps_kept (ct ch) : kept T Q K E (w.setClamps ct ch) = kept T Q K E w := by simp [Work.setClamps]
@[simp ↓] theorem critical_kept : kept T Q K E (w.critical) = kept T Q K E w := by simp [Work.critical]
@[simp ↓] theorem emergency_kept (cap) : kept T Q K E (w.emergency cap) = kept T Q K E w := by simp [Work.emergency]
@[simp ↓] theorem stretchTick_kept (die cycles) : kept T Q K E (w.stretchTick die cycles) = kept T Q K E w := by simp [Work.stretchTick]
@[simp ↓] theorem powerBoundary_kept (tickPs) : kept T Q K E (w.powerBoundary tickPs) = kept T Q K E w := by simp [Work.powerBoundary]
@[simp ↓] theorem cappedBoundary_kept : kept T Q K E (w.cappedBoundary) = kept T Q K E w := by simp [Work.cappedBoundary]
@[simp ↓] theorem railRead_kept (e mv low) : kept T Q K E (w.railRead e mv low) = kept T Q K E w := by simp [Work.railRead]
-- Unfolded as a function: compared at `w.loadCal`, the two sides would have the kernel check all 64 KiB of the area.
@[simp ↓] theorem loadCal_kept : kept T Q K E w.loadCal = kept T Q K E w := by
  have hd : Work.loadCal = Work.loadCal := rfl
  conv_rhs at hd => delta Work.loadCal
  rw [← same_iff, hd]
  beta_reduce
  extract_lets +onlyGivenNames c
  cases calCheck c with
  | none => simp
  | some k => simp
@[simp ↓] theorem calWriteEnd_kept (fail) : kept T Q K E (w.calWriteEnd fail) = kept T Q K E w := by simp [Work.calWriteEnd]
/-! ## Store.lean -/
@[simp ↓] theorem writeHeader_kept (ci pi) : kept T Q K E (w.writeHeader ci pi) = kept T Q K E w := by unfold Work.writeHeader; (repeat' split) <;> simp
@[simp ↓] theorem modPage_kept (ci pi f) : kept T Q K E (w.modPage ci pi f) = kept T Q K E w := (rfl)
@[simp ↓] theorem blockIn_kept (stack len) : kept T Q K E (w.blockIn stack len).2 = kept T Q K E w := by simp [Work.blockIn]
@[simp ↓] theorem reserveCheck_kept : kept T Q K E (w.reserveCheck) = kept T Q K E w := by simp [Work.reserveCheck]
@[simp ↓] theorem framesFreed_kept (p n) : kept T Q K E (w.framesFreed p n) = kept T Q K E w := by simp [Work.framesFreed]
@[simp ↓] theorem takeHandles_kept (p k) : kept T Q K E (w.takeHandles p k).2 = kept T Q K E w := by simp [Work.takeHandles]
@[simp ↓] theorem newCourse_kept (part k frame sess sessHandle layer slot fromReserve) :
    kept T Q K E (w.newCourse part k frame sess sessHandle layer slot fromReserve).2 = kept T Q K E w := by
  simp [Work.newCourse]
@[simp ↓] theorem tryStacks_kept (start len j) : kept T Q K E (w.tryStacks start len j).2 = kept T Q K E w := by
  induction j with
  | zero => rfl
  | succ j ih => simp only [Work.tryStacks]; (repeat' split) <;> simp [ih]
@[simp ↓] theorem allocPool_kept (part start k) : kept T Q K E (w.allocPool part start k).2 = kept T Q K E w := by
  induction k <;> grind [Work.allocPool, tryStacks_kept]
@[simp ↓] theorem allocReserve_kept (part start) : kept T Q K E (w.allocReserve part start).2 = kept T Q K E w := by
  simp only [Work.allocReserve]
  (repeat' split) <;> simp
@[simp ↓] theorem allocCourse_kept (part sessIdx sessHandle layer aim pool reserve) :
    kept T Q K E (w.allocCourse part sessIdx sessHandle layer aim pool reserve).2 = kept T Q K E w := by
  simp only [Work.allocCourse]
  (repeat' split) <;> simp
@[simp ↓] theorem spanIn_kept (used size n fit) : kept T Q K E (w.spanIn used size n fit).2 = kept T Q K E w := by simp [Work.spanIn]
@[simp ↓] theorem placeDdr_kept (die len mode) : kept T Q K E (w.placeDdr die len mode).2 = kept T Q K E w := by
  simp only [Work.placeDdr]
  split <;> simp
@[simp ↓] theorem placeHost_kept (held b) : kept T Q K E (w.placeHost held b).2 = kept T Q K E w := by simp [Work.placeHost]
@[simp ↓] theorem placeAll_kept {place} (h : ∀ w l b, Same T Q K E w (place w l b).2) (bs) : kept T Q K E (w.placeAll place bs).2 = kept T Q K E w := by
  simp only [Work.placeAll]
  exact snd_foldl_kept (fun a b => by grind [same_iff]) bs (some [], w)
@[simp ↓] theorem placeStored_kept (k bs) : kept T Q K E (w.placeStored k bs).2 = kept T Q K E w := by simp only [Work.placeStored]; split <;> simp
@[simp ↓] theorem dropRun_kept (job) : kept T Q K E (w.dropRun job) = kept T Q K E w := by simp [Work.dropRun]
@[simp ↓] theorem freeLoc_kept (c l) : kept T Q K E (w.freeLoc c l) = kept T Q K E w := by simp [Work.freeLoc]
@[simp ↓] theorem freeCourse_kept (ci) : kept T Q K E (w.freeCourse ci) = kept T Q K E w := by unfold Work.freeCourse; (repeat' split) <;> simp
@[simp ↓] theorem dropRef_kept (ci) : kept T Q K E (w.dropRef ci) = kept T Q K E w := by unfold Work.dropRef; split <;> simp
@[simp ↓] theorem abandonMove_kept (mi) : kept T Q K E (w.abandonMove mi) = kept T Q K E w := by simp [Work.abandonMove]
@[simp ↓] theorem heatAppend_kept (ci) : kept T Q K E (w.heatAppend ci) = kept T Q K E w := (rfl)
/-! ## Messages.lean -/
@[simp ↓] theorem sendMsg_kept (conn op target payload purpose cmpr) :
    kept T Q K E (w.sendMsg conn op target payload purpose cmpr).2 = kept T Q K E w := by
  unfold Work.sendMsg; split <;> simp
@[simp ↓] theorem dropMsg_kept (k) : kept T Q K E (w.dropMsg k) = kept T Q K E w := (rfl)
@[simp ↓] theorem flushNotice_kept (conn) : kept T Q K E (w.flushNotice conn) = kept T Q K E w := by unfold Work.flushNotice; split <;> simp
@[simp ↓] theorem addNotice_kept (conn rec) : kept T Q K E (w.addNotice conn rec) = kept T Q K E w := by simp [Work.addNotice]
@[simp ↓] theorem flushNotices_kept : kept T Q K E (w.flushNotices) = kept T Q K E w := by simp [Work.flushNotices]
@[simp ↓] theorem fitChains_kept (i s) : kept T Q K E (w.fitChains i s) = kept T Q K E w := (rfl)
@[simp ↓] theorem setSession_kept (i s) : kept T Q K E (w.setSession i s) = kept T Q K E w := (rfl)
@[simp ↓] theorem loseSessions_kept (ci pages) : kept T Q K E (w.loseSessions ci pages) = kept T Q K E w := by simp [Work.loseSessions]
@[simp ↓] theorem noteTree_kept (i action) : kept T Q K E (w.noteTree i action) = kept T Q K E w := by unfold Work.noteTree; split <;> simp
@[simp ↓] theorem loseTree_kept (part handles) : kept T Q K E (w.loseTree part handles) = kept T Q K E w := by simp [Work.loseTree]
@[simp ↓] theorem copyLost_kept (ci) : kept T Q K E (w.copyLost ci) = kept T Q K E w := (rfl)
@[simp ↓] theorem losePages_kept (ci pages) : kept T Q K E (w.losePages ci pages) = kept T Q K E w := by
  unfold Work.losePages
  split
  · rfl
  · extract_lets +onlyGivenNames a lose _ _ b c d s _ _ e
    have hk (x : Sheet) : (lose x).tiles.map (·.1) = x.tiles.map (·.1) := map_keys (fun t => by split <;> rfl) _
    have hb : kept T Q K E b = kept T Q K E w := (kept_of_sheets a (qa := b.n.qa) rfl (Prod.ext (hk a.n.qa.cur) (hk a.n.qa.next))).trans (setCourse_kept ..)
    have hc : kept T Q K E c = kept T Q K E w := by simp only [c]; split <;> simp [hb]
    have hd : kept T Q K E d = kept T Q K E w := by simp [d, hc]
    have he : kept T Q K E e = kept T Q K E w := kept_of_ite ((report_kept ..).trans hd) hd
    refine kept_of_ite ((copyLost_kept ..).trans hc) (kept_of_ite (kept_of_ite hd ?_) ((loseSessions_kept ..).trans he))
    exact (kept_update ..).trans hd
/-! ## Budget.lean -/
@[simp ↓] theorem showPool_kept : kept T Q K E (w.showPool) = kept T Q K E w := (rfl)
@[simp ↓] theorem showBudget_kept (part) : kept T Q K E (w.showBudget part) = kept T Q K E w := (rfl)
/-! ## Groups.lean -/
@[simp ↓] theorem recordTo_kept (part node r purpose) : kept T Q K E (w.recordTo part node r purpose).2 = kept T Q K E w := by
  unfold Work.recordTo; split <;> simp
@[simp ↓] theorem hostResult_kept (q e r) : kept T Q K E (w.hostResult q e r) = kept T Q K E w := by simp only [Work.hostResult]; split <;> simp
@[simp ↓] theorem deliver_kept (src d r purpose) : kept T Q K E (w.deliver src d r purpose) = kept T Q K E w := by unfold Work.deliver; split <;> simp
@[simp ↓] theorem rejectPartial_kept (part r) : kept T Q K E (w.rejectPartial part r) = kept T Q K E w := by simp [Work.rejectPartial]
@[simp ↓] theorem joinGroup_kept (part r) : kept T Q K E (w.joinGroup part r) = kept T Q K E w := by unfold Work.joinGroup; split <;> simp
@[simp ↓] theorem showOpen_kept : kept T Q K E (w.showOpen) = kept T Q K E w := (rfl)
@[simp ↓] theorem sendToDest_kept (src part d r sheet purpose) : kept T Q K E (w.sendToDest src part d r sheet purpose) = kept T Q K E w := by
  simp [Work.sendToDest]
@[simp ↓] theorem sendPartial_kept (src part d r sheet purpose) : kept T Q K E (w.sendPartial src part d r sheet purpose) = kept T Q K E w := by
  simp [Work.sendPartial]
@[simp ↓] theorem closeGroup_kept (g r) : kept T Q K E (w.closeGroup g r) = kept T Q K E w := by simp [Work.closeGroup]
@[simp ↓] theorem groupCheck_kept (part group) : kept T Q K E (w.groupCheck part group) = kept T Q K E w := by unfold Work.groupCheck; split <;> simp
/-! ## Sight.lean -/
@[simp ↓] theorem loadBooks_kept : kept T Q K E (w.loadBooks) = kept T Q K E w := (rfl)
@[simp ↓] theorem sendCredits_kept (q) : kept T Q K E (w.sendCredits q) = kept T Q K E w := by simp [Work.sendCredits]
@[simp ↓] theorem asOf_kept (arr) : kept false false false E (w.asOf arr) = kept false false false E w := (rfl)
@[simp ↓] theorem rejoin_kept (v w : Work) : kept T false false E (v.rejoin w) = kept T false false E { v with n.tk.now := w.n.tk.now } := by
  unfold Work.rejoin
  extract_lets
  refine (foldl_kept (fun w q => by simp) _ _).trans ?_
  rw [set_kept, set_kept]
  refine (foldl_kept (fun w q => by simp) _ _).trans ?_
  exact (loadBooks_kept ..).trans rfl
@[simp ↓] theorem asArrived_kept (src) {act} (h : ∀ w, Same T false false E w (act w)) :
    kept T false false E (w.asArrived src act) = kept T false false E w := by
  unfold Work.asArrived
  split
  · have ha : kept T false false E (act (w.asOf (w.arrivalTick src))) = kept T false false E (w.asOf (w.arrivalTick src)) := h _
    rw [rejoin_kept]
    generalize act (w.asOf (w.arrivalTick src)) = v at ha ⊢
    simp only [kept, Prod.mk.injEq] at ha ⊢
    obtain ⟨htk, -, -, hf, hm, hs, hz⟩ := ha
    refine ⟨?_, rfl, rfl, hf, hm, hs, hz⟩
    cases T with
    | false => rfl
    | true => exact congrArg (Option.map fun t : TickBox => { t with now := w.n.tk.now }) htk
  · exact h w
/-! ## Query.lean -/
@[simp ↓] theorem refuseQuery_kept (src part d senders status) : kept T Q K E (w.refuseQuery src part d senders status) = kept T Q K E w := by
  unfold Work.refuseQuery; split <;> simp
@[simp ↓] theorem wantPromotion_kept (ci deadline) : kept T Q K E (w.wantPromotion ci deadline) = kept T Q K E w := by simp [Work.wantPromotion]
@[simp ↓] theorem prefetchNext_kept (si layer) : kept T Q K E (w.prefetchNext si layer) = kept T Q K E w := by
  grind [Work.prefetchNext, foldl_kept, same_iff, setSession_kept, wantPromotion_kept]
@[simp ↓] theorem overBudget_kept (c) : kept T Q K E (w.overBudget c) = kept T Q K E w := (rfl)
@[simp ↓] theorem countRestaged_kept (heads tiles fresh) : kept T Q K E (w.countRestaged heads tiles fresh) = kept T Q K E w := by
  grind [Work.countRestaged, foldl_kept, same_iff, count_kept]
theorem enlist_kept (src part d s sh heads senders bytes a) {v} (h : w.enlist src part d s sh heads senders bytes a = .ok v) :
    kept T false false E v = kept T false false E w := by
  unfold Work.enlist at h
  extract_lets _ _ _ _ _ _ _ _ _ _ _ _ res at h
  clear_value res
  split at h
  · cases h
  · split at h
    · cases h
    · cases h
      simp
@[simp ↓] theorem openGroup_kept (src part d sh senders) : kept T Q K E (w.openGroup src part d sh senders) = kept T Q K E w := by simp [Work.openGroup]
@[simp ↓] theorem attend_kept (src part b a) : kept T false false E (w.attend src part b a) = kept T false false E w := by
  unfold Work.attend
  extract_lets +onlyGivenNames _ d sh
  split
  extract_lets +onlyGivenNames refuse
  have hr (st) : kept T false false E (refuse st) = kept T false false E w := by simp [refuse]
  clear_value refuse sh
  refine kept_of_ite (hr _) (kept_of_ite (hr _) ?_)
  split
  · exact hr _
  · split
    · exact hr _
    · split
      · simp
      next v h =>
        have hv := enlist_kept (T := T) (E := E) (h := h)
        extract_lets +onlyGivenNames x y z
        have hz : kept T false false E z = kept T false false E w := by
          simp only [z, y, x]
          split <;> simp [hv]
        clear_value z
        split
        · rw [complete_kept, hz]
        · split
          · rw [arrive_kept, hz]
          · rw [complete_kept, hz]
@[simp ↓] theorem reserveOn_kept (floor left rest) : kept T Q K E (w.reserveOn floor left rest).2 = kept T Q K E w := (rfl)
@[simp ↓] theorem unusedOn_kept (floor n left) : kept T Q K E (w.unusedOn floor n left).2 = kept T Q K E w := by
  induction n generalizing w left <;> grind [Work.unusedOn, reserveOn_kept]
/-! ## Merge.lean -/
@[simp ↓] theorem takeResult_kept (k slot) : kept T Q K E (w.takeResult k slot) = kept T Q K E w := by
  simp only [Work.takeResult]
  (repeat' split) <;> simp
@[simp ↓] theorem setResultPort_kept (slot bufs held) : kept T Q K E (w.setResultPort slot bufs held) = kept T Q K E w := (rfl)
@[simp ↓] theorem offerResult_kept (k slot) : kept T Q K E (w.offerResult k slot) = kept T Q K E w := by unfold Work.offerResult; split <;> simp
@[simp ↓] theorem partialLeft_kept (part sheet status) : kept T Q K E (w.partialLeft part sheet status) = kept T Q K E w := by simp [Work.partialLeft]
@[simp ↓] theorem noteIncomplete_kept (part r) : kept T Q K E (w.noteIncomplete part r) = kept T Q K E w := by simp [Work.noteIncomplete]
@[simp ↓] theorem egress_kept (q r) : kept T Q K E (w.egress q r) = kept T Q K E w := by unfold Work.egress; (repeat' split) <;> simp
@[simp ↓] theorem drainEarly_kept : kept T false false E (w.drainEarly) = kept T false false E w := by simp [Work.drainEarly]
@[simp ↓] theorem drainPorts_kept : kept T Q K E (w.drainPorts) = kept T Q K E w := by simp [Work.drainPorts]
@[simp ↓] theorem sendHeld_kept : kept T Q K E (w.sendHeld) = kept T Q K E w := by simp [Work.sendHeld]
@[simp ↓] theorem freeDying_kept : kept T Q K E (w.freeDying) = kept T Q K E w := by simp [Work.freeDying]
@[simp ↓] theorem closeLeft_kept : kept T false false E (w.closeLeft) = kept T false false E w := by simp [Work.closeLeft]
@[simp ↓] theorem msgLeft_kept (k) : kept T false false E (w.msgLeft k) = kept T false false E w := by unfold Work.msgLeft; split <;> simp
@[simp ↓] theorem msgActs_kept (conn msn class0 presents) {act} (h : ∀ w c, Same T Q K E w (act w c)) :
    kept T Q K E (w.msgActs conn msn class0 act presents) = kept T Q K E w := by
  grind [Work.msgActs, same_iff, completeMsg_kept, count_kept]
@[simp ↓] theorem beforeGroup_kept (conn part r) : kept T Q K E (w.beforeGroup conn part r) = kept T Q K E w := by simp [Work.beforeGroup]
@[simp ↓] theorem takePartial_kept (conn part r) : kept T Q K E (w.takePartial conn part r) = kept T Q K E w := by
  unfold Work.takePartial; split <;> simp
@[simp ↓] theorem recordActs_kept (conn msn kind record) {act} (h : ∀ w p r, Same T Q K E w (act w p r)) :
    kept T Q K E (w.recordActs conn msn kind record act) = kept T Q K E w := by
  grind [Work.recordActs, same_iff, msgActs_kept, completeMsg_kept]
@[simp ↓] theorem discardGroup_kept (part group) : kept T false false E (w.discardGroup part group) = kept T false false E w := (rfl)
@[simp ↓] theorem answerQuery_kept (q status) : kept T Q K E (w.answerQuery q status) = kept T Q K E w := by simp [Work.answerQuery]
@[simp ↓] theorem answerSheet_kept (sheet pick status) : kept T Q K E (w.answerSheet sheet pick status) = kept T Q K E w := by simp [Work.answerSheet]
/-! ## Fence.lean -/
@[simp ↓] theorem enterDark_kept : kept T false false E (w.enterDark) = kept T false false E w := by simp [Work.enterDark]
@[simp ↓] theorem fenceSelf_kept : kept T false false E (w.fenceSelf) = kept T false false E w := by simp [Work.fenceSelf]
@[simp ↓] theorem unlessDark_kept (conn msn tag) {act} (h : ∀ w, Same T Q K E w (act w)) : kept T Q K E (w.unlessDark conn msn tag act) = kept T Q K E w := by
  grind [Work.unlessDark, same_iff, completeMsg_kept]
/-! ## Expand.lean -/
@[simp ↓] theorem extendMeas_kept (slot d) : kept T Q K E (w.extendMeas slot d) = kept T Q K E w := (rfl)
@[simp ↓] theorem extendFree_kept (slot) : kept T Q K E (w.extendFree slot) = kept T Q K E w := (rfl)
@[simp ↓] theorem layerLost_kept (die layer) : kept T Q K E (w.layerLost die layer) = kept T Q K E w := by
  unfold Work.layerLost
  extract_lets +onlyGivenNames leave
  have hk (s : Sheet) : (leave s).tiles.map (·.1) = s.tiles.map (·.1) := map_keys (fun t => by dsimp only; rw [apply_ite Prod.fst, ite_self]) _
  refine kept_of_ite rfl ((report_kept ..).trans ?_)
  exact (kept_of_sheets { w with n.cl.unavailable := w.n.cl.unavailable ++ [(die, layer)] }
    (qa := { w.n.qa with cur := leave w.n.qa.cur, next := leave w.n.qa.next }) rfl (Prod.ext (hk _) (hk _))).trans rfl
@[simp ↓] theorem streamCheck_kept (die) : kept T Q K E (w.streamCheck die) = kept T Q K E w := by simp [Work.streamCheck]
@[simp ↓] theorem retireExpander_kept (inst) : kept T Q K E (w.retireExpander inst) = kept T Q K E w := by simp [Work.retireExpander]
/-- The same said of a pair's counters. -/
def SameSnd (T Q K : Bool) (E : Keys) {α : Type} (w : Work) (p : α × Work) : Prop := Same T Q K E w p.2
theorem sameSnd_mk {α : Type} {v : Work} (a : α) (h : Same T Q K E w v) : SameSnd T Q K E w (a, v) := h
/-- A case split on an answer, with the answer's two continuations opaque. -/
theorem except_elim {γ : Type} {P : γ → Prop} {x : Except Nat Bytes} {f : Bytes → γ} {g : Nat → γ} (hf : ∀ b, P (f b))
    (hg : ∀ k, P (g k)) : P (match x with | .ok b => f b | .error k => g k) := by
  cases x with
  | ok b => exact hf b
  | error k => exact hg k
theorem decodeTry_same (inst b window part addr upset) : SameSnd T Q K E w (w.decodeTry inst b window part addr upset) := by
  unfold Work.decodeTry
  extract_lets real stall v first
  have hv : Same T Q K E w v := by simp only [v, stall]; rw [same_iff, count_kept, count_kept, draw_kept]
  obtain ⟨x, hx⟩ : ∃ x, x = v := ⟨v, rfl⟩
  obtain ⟨f, hf⟩ : ∃ f, f = first := ⟨first, rfl⟩
  obtain ⟨r, hr⟩ : ∃ r, r = real := ⟨real, rfl⟩
  rw [← hf, ← hr, ← hx]
  rw [← hx] at hv
  clear hx hf hr first real v stall
  refine except_elim (P := SameSnd T Q K E w) (fun img => sameSnd_mk _ _ hv) (fun k => ?_)
  extract_lets +onlyGivenNames u retry y
  have hy : Same T Q K E w y := by
    simp only [y]
    rw [same_iff]
    exact kept_of_ite (by rw [count_kept, count_kept, hv]) (by rw [count_kept, hv])
  obtain ⟨b, hb⟩ : ∃ r, r = retry := ⟨retry, rfl⟩
  obtain ⟨z, hz⟩ : ∃ r, r = y := ⟨y, rfl⟩
  rw [← hb, ← hz]
  rw [← hz] at hy
  clear hz hb
  cases b with
  | false => exact sameSnd_mk _ _ ((same_iff _ _).2 (kept_of_ite ((count_kept ..).trans hy) hy))
  | true =>
    cases r with
    | ok img =>
      refine sameSnd_mk _ _ ((same_iff _ _).2 ?_)
      exact kept_of_ite ((retireExpander_kept ..).trans ((report_kept ..).trans ((count_kept ..).trans hy)))
        ((report_kept ..).trans ((count_kept ..).trans hy))
    | error j => exact sameSnd_mk _ _ ((same_iff _ _).2 (kept_of_ite ((count_kept ..).trans hy) hy))
@[simp ↓] theorem decodeTry_kept (inst b window part addr upset) : kept T Q K E (w.decodeTry inst b window part addr upset).2 = kept T Q K E w :=
  decodeTry_same ..
@[simp ↓] theorem decodeOn_kept (inst b window part addr upset) : kept T Q K E (w.decodeOn inst b window part addr upset).2 = kept T Q K E w := by
  simp only [Work.decodeOn]
  split <;> simp
@[simp ↓] theorem decodeStored_kept (inst c i b upset) : kept T Q K E (w.decodeStored inst c i b upset).2 = kept T Q K E w := by
  simp only [Work.decodeStored]
  (repeat' split) <;> simp
/-! ## Spill.lean -/
@[simp ↓] theorem startMove_kept (ci cls dst) : kept T Q K E (w.startMove ci cls dst) = kept T Q K E w := (rfl)
@[simp ↓] theorem spill_kept (cls p e) : kept T Q K E (Plan.spill cls p e).w = kept T Q K E p.w := by simp only [Plan.spill]; (repeat' split) <;> simp
@[simp ↓] theorem lower_kept (p e) : kept T Q K E (Plan.lower p e).w = kept T Q K E p.w := by simp only [Plan.lower]; (repeat' split) <;> simp
@[simp ↓] theorem promote_kept (cls p ci) : kept T Q K E (Plan.promote cls p ci).w = kept T Q K E p.w := by
  simp only [Plan.promote]
  (repeat' split) <;> simp
@[simp ↓] theorem defend_kept : kept T Q K E (w.defend) = kept T Q K E w := by
  rw [Work.defend, setFlag_kept, kept_update]
@[simp ↓] theorem moveAside_kept (e) : kept T Q K E (w.moveAside e) = kept T Q K E w := by simp only [Work.moveAside]; (repeat' split) <;> simp
@[simp ↓] theorem evacuate_kept : kept T Q K E (w.evacuate) = kept T Q K E w := by grind [Work.evacuate, foldl_kept, same_iff, moveAside_kept]
/-- Spilling or lowering partition by partition (R71). -/
theorem foldl_plans_kept {step : Plan → Nat × Course → Plan} (h : ∀ p e, kept T Q K E (step p e).w = kept T Q K E p.w) (tier : Nat)
    (l : List (Nat × Nat)) (p : Plan) :
    kept T Q K E (l.foldl (fun (p : Plan) e => (p.w.victims e.1 tier).foldl step { p with need := e.2 }) p).w = kept T Q K E p.w :=
  foldl_keeps (fun p : Plan => kept T Q K E p.w) (fun p e => (foldl_keeps (fun p : Plan => kept T Q K E p.w) h _ _ :
    kept T Q K E (List.foldl step { p with need := e.2 } (p.w.victims e.1 tier)).w = _)) l p
@[simp ↓] theorem schedule_kept (cls grant) : kept T Q K E (w.schedule cls grant) = kept T Q K E w := by
  cases cls
  case reserveDefence => simp only [Work.schedule]; split <;> simp [foldl_plans_kept]
  case watermarkDefence => simp only [Work.schedule]; split <;> simp [foldl_plans_kept]
  case lowerSpill => simp only [Work.schedule]; split <;> simp [foldl_plans_kept]
  case prefetch => exact foldl_keeps (fun p : Plan => kept T Q K E p.w) (promote_kept _) _ _
  case heat =>
    simp only [Work.schedule]
    split
    · exact foldl_keeps (fun p : Plan => kept T Q K E p.w) (promote_kept _) _ _
    · rfl
  case rebalance =>
    simp only [Work.schedule]
    split
    · rfl
    · refine foldl_keeps (fun p : Plan => kept T Q K E p.w) (fun p e => ?_) _ _
      split
      · split <;> simp
      · rfl
@[simp ↓] theorem retireFrame_kept (f why) : kept T Q K E (w.retireFrame f why) = kept T Q K E w := by simp [Work.retireFrame]
@[simp ↓] theorem retireGrain_kept (die g why) : kept T Q K E (w.retireGrain die g why) = kept T Q K E w := by
  unfold Work.retireGrain
  extract_lets +onlyGivenNames ch _ _ a b d rows e c
  have hc : kept T Q K E c = kept T Q K E d.2 := (set_kept ..).trans (kept_update ..)
  refine kept_of_ite rfl ?_
  rw [report_kept, hc, draw_kept, set_kept, kept_update]
@[simp ↓] theorem retireFreed_kept : kept T Q K E (w.retireFreed) = kept T Q K E w := by simp [Work.retireFreed]
@[simp ↓] theorem softRepair_kept : kept T Q K E (w.softRepair) = kept T Q K E w := (rfl)
/-- Of a sheet, what stays while its tiles are read from somewhere else (R41): its tick, its state and its queries. -/
def sheetHead (s : Sheet) := (s.tick, s.state, s.queries.map (·.1))

theorem seat_head (s k die f) : sheetHead (w.seat s k die f) = sheetHead s := by
  unfold Work.seat
  split
  · rfl
  · extract_lets +onlyGivenNames v
    split
    · rfl
    · extract_lets
      split <;> rfl

theorem cutTile_head (s : Sheet) (k stay) : sheetHead (s.cutTile k stay).1 = sheetHead s := by
  unfold Sheet.cutTile
  extract_lets
  split
  · rfl
  · simp [sheetHead]

theorem readTiles_head (s ci k loc pick) : sheetHead (w.readTiles s ci k loc pick) = sheetHead s := by
  unfold Work.readTiles
  extract_lets +onlyGivenNames ended mine
  clear_value mine
  split
  · exact foldl_keeps sheetHead (fun s t => seat_head ..) _ _
  · refine foldl_keeps sheetHead (fun s t => ?_) _ _
    extract_lets +onlyGivenNames through first
    split
    · rfl
    · rw [apply_ite sheetHead, apply_ite sheetHead]
      extract_lets +onlyGivenNames c
      have hc : sheetHead c.1 = sheetHead s := cutTile_head ..
      rw [seat_head, seat_head, seat_head, seat_head, hc, ite_self, ite_self]
  · rfl
  · rfl

theorem sheets_of_heads {qa : Admission} {v n : Sheet} (hv : sheetHead v = sheetHead qa.cur) (hn : sheetHead n = sheetHead qa.next) :
    sheets { qa with cur := v, next := n } = sheets qa := by
  simp only [sheetHead, Prod.mk.injEq] at hv hn
  simp only [sheets, hv, hn]

@[simp ↓] theorem tilesToSource_kept (ci c) : kept T Q false E (w.tilesToSource ci c) = kept T Q false E w := by
  have hs : sheets (w.tilesToSource ci c).n.qa = sheets w.n.qa := sheets_of_heads (readTiles_head ..) (readTiles_head ..)
  simp only [kept, hs]
  rfl
@[simp ↓] theorem dropMove_kept (ci c) : kept T Q false E (w.dropMove ci c) = kept T Q false E w := by unfold Work.dropMove; split <;> simp
@[simp ↓] theorem pageUe_kept (ci pi) : kept T Q false E (w.pageUe ci pi) = kept T Q false E w := by unfold Work.pageUe; split <;> simp
@[simp ↓] theorem blockUe_kept (ci blk) : kept T Q false E (w.blockUe ci blk) = kept T Q false E w := by unfold Work.blockUe; split <;> simp
@[simp ↓] theorem retireBlks_kept (bs) : kept T Q K E (w.retireBlks bs) = kept T Q K E w := by simp [Work.retireBlks]
@[simp ↓] theorem blockDamaged_kept (ci blk) : kept T Q false E (w.blockDamaged ci blk) = kept T Q false E w := by unfold Work.blockDamaged; split <;> simp
@[simp ↓] theorem crcLoss_kept (ci pi) : kept T Q false E (w.crcLoss ci pi) = kept T Q false E w := by unfold Work.crcLoss; split <;> simp
@[simp ↓] theorem retireDst_kept (c dst) : kept T Q K E (w.retireDst c dst) = kept T Q K E w := by unfold Work.retireDst; split <;> simp
@[simp ↓] theorem restartMove_kept (mi) : kept T Q false E (w.restartMove mi) = kept T Q false E w := by
  unfold Work.restartMove
  split
  · rfl
  · split
    · exact abandonMove_kept ..
    · extract_lets +onlyGivenNames x again
      have hx : kept T Q false E x = kept T Q false E w := (tilesToSource_kept ..).trans (abandonMove_kept ..)
      have ha (d v) : kept T Q false E (again d v) = kept T Q false E v := rfl
      clear_value x again
      split
      · extract_lets +onlyGivenNames len r
        have hr : kept T Q false E r.2 = kept T Q false E x := by simp only [r]; split <;> simp
        clear_value r
        split
        · rw [ha, zero_kept, hr, hx]
        · exact hx
      · refine kept_of_ite ((ha ..).trans hx) ?_
        extract_lets
        split
        · rw [ha, placeStored_kept, hx]
        · exact hx
      · exact hx
      · extract_lets +onlyGivenNames r
        have hr : kept T Q false E r.2 = kept T Q false E x := placeAll_kept _ (fun w l b => by simp) _
        clear_value r
        split
        · rw [ha, hr, hx]
        · exact hx
@[simp ↓] theorem moveAgain_kept (mi) : kept T Q false E (w.moveAgain mi) = kept T Q false E w := by unfold Work.moveAgain; (repeat' split) <;> simp
@[simp ↓] theorem countMoved_kept (c m) : kept T Q K E (w.countMoved c m) = kept T Q K E w := by simp [Work.countMoved]
@[simp ↓] theorem copyBlocks_kept (part src dst) : kept T Q K E (w.copyBlocks part src dst) = kept T Q K E w := by simp [Work.copyBlocks]
@[simp ↓] theorem badBlocks_kept (c) : kept T Q K E (w.badBlocks c).2 = kept T Q K E w := by simp [Work.badBlocks]
@[simp ↓] theorem loseFound_kept (ci bad) : kept T Q false E (w.loseFound ci bad) = kept T Q false E w := by simp [Work.loseFound]
@[simp ↓] theorem moveChecked_kept (mi c m) : kept T Q K E (w.moveChecked mi c m) = kept T Q K E w := by simp [Work.moveChecked]
@[simp ↓] theorem leaveOutAt_kept (mi f) : kept T Q K E (w.leaveOutAt mi f) = kept T Q K E w := by
  unfold Work.leaveOutAt
  split
  · rfl
  · split
    · exact kept_of_sheets w rfl (Prod.ext (map_keys (fun t => by split <;> rfl) _) rfl)
    · rfl
@[simp ↓] theorem testRowUe_kept (st addr) : kept T Q K E (w.testRowUe st addr) = kept T Q K E w := by simp [Work.testRowUe]
@[simp ↓] theorem hbmError_kept (addr) : kept T false false E (w.hbmError addr) = kept T false false E w := by
  rw [← same_iff]
  unfold Work.hbmError
  extract_lets st v u
  have hu : Same T false false E w u := by
    simp only [u, v]
    rw [same_iff, isr_kept, capture_kept, count_kept]
  obtain ⟨x, hx⟩ : ∃ x, x = u := ⟨u, rfl⟩
  rw [← hx] at hu ⊢
  rw [same_iff] at hu
  cases addrFrame addr with
  | none => dsimp only; split <;> simp [hu]
  | some f => dsimp only; (repeat' split) <;> simp [hu]
@[simp ↓] theorem loseDdr_kept (hit) : kept T Q false E (w.loseDdr hit) = kept T Q false E w := by simp [Work.loseDdr]
@[simp ↓] theorem ddrError_kept (die addr) : kept T Q false E (w.ddrError die addr) = kept T Q false E w := by simp only [Work.ddrError]; split <;> simp
@[simp ↓] theorem moveDstError_kept (mv c m) : kept T false false E (w.moveDstError mv c m) = kept T false false E w := by
  simp only [Work.moveDstError]
  (repeat' split) <;> simp
@[simp ↓] theorem tilesToCopy_kept (ci k dst) : kept T Q false E (w.tilesToCopy ci k dst) = kept T Q false E w := by
  have hs : sheets (w.tilesToCopy ci k dst).n.qa = sheets w.n.qa := sheets_of_heads rfl (readTiles_head ..)
  simp only [kept, hs]
  rfl
@[simp ↓] theorem commitMove_kept (mi m c) : kept T Q false E (w.commitMove mi m c) = kept T Q false E w := by
  unfold Work.commitMove
  extract_lets +onlyGivenNames src _ _ v x y z
  have hx : kept T Q false E x = kept T Q false E w := kept_of_ite rfl (tilesToCopy_kept ..)
  have hy : kept T Q false E y = kept T Q false E w := (setCourse_kept ..).trans hx
  have hz : kept T Q false E z = kept T Q false E w := by
    refine kept_of_ite ((foldl_kept (fun w i => ?_) _ _).trans hy) hy
    split
    · exact kept_of_ite (writeHeader_kept ..) rfl
    · rfl
  rw [retireFreed_kept]
  exact kept_of_ite hz ((freeLoc_kept ..).trans hz)
@[simp ↓] theorem noteCourse_kept (ci action) : kept T Q K E (w.noteCourse ci action) = kept T Q K E w := by unfold Work.noteCourse; split <;> simp
@[simp ↓] theorem notePage_kept (ci pi) : kept T Q K E (w.notePage ci pi) = kept T Q K E w := by unfold Work.notePage; (repeat' split) <;> simp
@[simp ↓] theorem noteRows_kept (ci pi row rows) : kept T Q K E (w.noteRows ci pi row rows) = kept T Q K E w := by
  unfold Work.noteRows; (repeat' split) <;> simp
@[simp ↓] theorem readPage_kept (c p upset) : kept T Q K E (w.readPage c p upset).2 = kept T Q K E w := by simp only [Work.readPage]; split <;> simp
@[simp ↓] theorem countCe_kept (key limit hours) : kept T Q K E (w.countCe key limit hours).2 = kept T Q K E w := (rfl)
@[simp ↓] theorem stackOut_kept (st) : kept T Q false E (w.stackOut st) = kept T Q false E w := by
  unfold Work.stackOut
  extract_lets +onlyGivenNames ready a b c d e f again
  have he : kept T Q false E e = kept T Q false E w :=
    (capture_kept ..).trans ((set_kept ..).trans ((setEnable_kept ..).trans ((set_kept ..).trans ((set_kept ..).trans (set_kept ..)))))
  have hf : kept T Q false E f = kept T Q false E w := by
    refine (foldl_kept (fun w x => ?_) _ _).trans he
    split
    · exact same_of_ite ((losePages_kept ..).trans (modCourse_kept ..)) rfl
    · exact foldl_kept (fun w b => same_of_ite (blockUe_kept ..) rfl) _ _
    · rfl
  refine (foldl_kept (fun w m => ?_) _ _).trans hf
  exact (restartMove_kept ..).trans rfl
/-! ## Compress.lean -/
@[simp ↓] theorem verifyFailed_kept (die limit) : kept T Q K E (w.verifyFailed die limit).2 = kept T Q K E w := by simp [Work.verifyFailed]
@[simp ↓] theorem emitBlock_kept (die r i b good) : kept T Q K E (w.emitBlock die r i b good).2 = kept T Q K E w := by simp [Work.emitBlock]
@[simp ↓] theorem countBlock_kept (b) : kept T Q K E (w.countBlock b) = kept T Q K E w := (rfl)
@[simp ↓] theorem showRatio_kept (r) : kept T Q K E (w.showRatio r) = kept T Q K E w := (rfl)
@[simp ↓] theorem landBlock_kept (mv c i b) : kept T Q K E (w.landBlock mv c i b) = kept T Q K E w := by
  grind [Work.landBlock, placeDdr_kept, store_kept, modMove_kept, countBlock_kept, count_kept, abandonMove_kept]
@[simp ↓] theorem emitSpill_kept (die mv blk bytes corrupt) : kept T Q false E (w.emitSpill die mv blk bytes corrupt) = kept T Q false E w := by
  unfold Work.emitSpill
  split
  · rfl
  · split
    · rfl
    · refine kept_of_ite rfl ?_
      extract_lets +onlyGivenNames first bad held turn r a b
      refine kept_of_ite rfl (kept_of_ite ?_ (kept_of_ite rfl ?_))
      · refine (foldl_kept (fun w p => by simp) _ _).trans ?_
        rw [count_kept, abandonMove_kept]
      · have hb : kept T Q false E b.2 = kept T Q false E w := by
          simp only [b, a]
          rw [emitBlock_kept]
          exact kept_of_ite (showRatio_kept ..) rfl
        clear_value b
        split
        · exact hb
        · extract_lets +onlyGivenNames c
          have hc : kept T Q false E c = kept T Q false E w := by
            simp only [c]
            rw [landBlock_kept, setRun_kept, hb]
          exact kept_of_ite ((setRun_kept ..).trans hc) hc
@[simp ↓] theorem installImage_kept (c frame blk img) : kept T Q K E (w.installImage c frame blk img).2 = kept T Q K E w := by simp [Work.installImage]
@[simp ↓] theorem markTiles_kept (ci f) : kept T Q K E (w.markTiles ci f) = kept T Q K E w :=
  kept_of_sheets w rfl (Prod.ext (map_keys (fun t => by split <;> rfl) _) (map_keys (fun t => by split <;> rfl) _))
@[simp ↓] theorem segmentDone_kept (die layer blk) : kept T Q K E (w.segmentDone die layer blk) = kept T Q K E w := by simp [Work.segmentDone]
@[simp ↓] theorem decodeMove_kept (inst mv blk upset) : kept T Q false E (w.decodeMove inst mv blk upset) = kept T Q false E w := by
  simp only [Work.decodeMove]
  (repeat' split) <;> simp
@[simp ↓] theorem decodeThrough_kept (inst ci blk upset) : kept T Q false E (w.decodeThrough inst ci blk upset) = kept T Q false E w := by
  simp only [Work.decodeThrough]
  (repeat' split) <;> simp
@[simp ↓] theorem decodeSegment_kept (inst die layer blk upset) : kept T Q K E (w.decodeSegment inst die layer blk upset) = kept T Q K E w := by
  unfold Work.decodeSegment; (repeat' split) <;> simp
/-! ## Keystone.lean -/
@[simp ↓] theorem ksRewrite_kept (bank idx) : kept T Q K E (w.ksRewrite bank idx) = kept T Q K E w := by unfold Work.ksRewrite; (repeat' split) <;> simp
@[simp ↓] theorem ksParity_kept (bank) : kept T Q K E (w.ksParity bank) = kept T Q K E w := (rfl)
@[simp ↓] theorem ksSoft_kept (bank idx) : kept T Q K E (w.ksSoft bank idx) = kept T Q K E w := by simp [Work.ksSoft]
@[simp ↓] theorem ksLookup_kept (table key agrees) : kept T Q K E (w.ksLookup table key agrees).2 = kept T Q K E w := by
  unfold Work.ksLookup
  dsimp only
  (repeat' split) <;> simp
@[simp ↓] theorem sessionByCid_kept (part cid) : kept T Q K E (w.sessionByCid part cid).2 = kept T Q K E w := by simp [Work.sessionByCid]
@[simp ↓] theorem ksWrite_kept (bank key prio result) : kept T Q K E (w.ksWrite bank key prio result).2 = kept T Q K E w := (rfl)
@[simp ↓] theorem ksInsert_kept (table key result) : kept T Q K E (w.ksInsert table key result).2 = kept T Q K E w := by
  unfold Work.ksInsert; split <;> simp
@[simp ↓] theorem ksErase_kept (bank idx) : kept T Q K E (w.ksErase bank idx) = kept T Q K E w := (rfl)
@[simp ↓] theorem ksEraseConn_kept (id) : kept T Q K E (w.ksEraseConn id) = kept T Q K E w := by unfold Work.ksEraseConn; split <;> simp
@[simp ↓] theorem ksInsertConn_kept (id slot) : kept T Q K E (w.ksInsertConn id slot) = kept T Q K E w := by simp [Work.ksInsertConn]
@[simp ↓] theorem scanBank_kept (b) : kept T Q K E (w.scanBank b) = kept T Q K E w := by simp [Work.scanBank]
@[simp ↓] theorem upset_kept (e) : kept T Q K E (w.upset e) = kept T Q K E w := (rfl)
@[simp ↓] theorem scanKeys_kept : kept T Q K E (w.scanKeys) = kept T Q K E w := by simp [Work.scanKeys]
@[simp ↓] theorem keyUpsets_kept : kept T Q K E (w.keyUpsets) = kept T Q K E w := by simp [Work.keyUpsets]
/-! ## Prefix.lean -/
@[simp ↓] theorem prefixMoves_kept (bytes) : kept T Q K E (w.prefixMoves bytes) = kept T Q K E w := (rfl)
theorem verifyFrom_succ (part fmt layers b fuel ceiling soft) : w.verifyFrom part fmt layers b (fuel + 1) ceiling soft =
    let w := w.count Reg.KEY_SEARCHES
    match w.ksSearch tblPrefix part (prefixKey b.id b.parent b.tokens) ceiling with
    | none => (none, w)
    | some h =>
      let agrees := match w.treeRec h.result with
        | some r => r.blockId = b.id
        | none => false
      let w := w.prefixMoves 128
      if !h.parityOk ∨ !agrees then
        let w := if h.parityOk then w.count Reg.KEY_FALSE_SOFT else w.ksParity h.bank
        let w := w.ksSoft h.bank h.idx
        if soft then (none, w) else w.verifyFrom part fmt layers b fuel ceiling true
      else match w.treeRec h.result with
        | some r =>
          if r.isBlock b fmt layers ∧ !r.dying then (some h.result, w.count Reg.KEY_HITS)
          else
            let w := (w.count Reg.KEY_FALSE_COLLIDE).log
              { code := 0x4402, page := 0x27, arg := b.id / 2 ^ 32, detail := b.id % 2 ^ 32, part := some part }
            w.verifyFrom part fmt layers b fuel (some h.prio) soft
        | none => (none, w) := by rfl
@[simp ↓] theorem verifyFrom_kept (part fmt layers b fuel ceiling soft) :
    kept T Q K E (w.verifyFrom part fmt layers b fuel ceiling soft).2 = kept T Q K E w := by
  induction fuel generalizing w ceiling soft with
  | zero => rfl
  | succ n ih =>
    rw [verifyFrom_succ]
    extract_lets +onlyGivenNames v
    have hv : kept T Q K E v = kept T Q K E w := count_kept ..
    clear_value v
    split
    · exact hv
    next h _ =>
      extract_lets +onlyGivenNames agrees u x y
      have hu : kept T Q K E u = kept T Q K E w := (prefixMoves_kept ..).trans hv
      have hy : kept T Q K E y = kept T Q K E w := by
        simp only [y, x]
        exact (ksSoft_kept ..).trans (kept_of_ite ((count_kept ..).trans hu) ((ksParity_kept ..).trans hu))
      clear_value u y
      split
      · split
        · exact hy
        · rw [ih, hy]
      · split
        · split
          · exact (count_kept ..).trans hu
          · rw [ih, log_kept, count_kept, hu]
        · exact hu
@[simp ↓] theorem verifyBlock_kept (part fmt layers b) : kept T Q K E (w.verifyBlock part fmt layers b).2 = kept T Q K E w := by simp [Work.verifyBlock]
@[simp ↓] theorem showWaiting_kept : kept T Q K E (w.showWaiting) = kept T Q K E w := (rfl)
@[simp ↓] theorem startPrefix_kept (o) : kept T Q K E (w.startPrefix o) = kept T Q K E w := by simp only [Work.startPrefix]; split <;> simp
@[simp ↓] theorem takePrefix_kept (kind src part b) : kept T Q K E (w.takePrefix kind src part b) = kept T Q K E w := by
  simp only [Work.takePrefix]
  (repeat' split) <;> simp
@[simp ↓] theorem prefixRequest_kept (kind src b) : kept T Q K E (w.prefixRequest kind src b) = kept T Q K E w := by
  simp only [Work.prefixRequest]
  split <;> simp
@[simp ↓] theorem addRef_kept (ci) : kept T Q K E (w.addRef ci) = kept T Q K E w := (rfl)
@[simp ↓] theorem attachBlock_kept (si ti) : kept T Q K E (w.attachBlock si ti) = kept T Q K E w := by unfold Work.attachBlock; split <;> simp
theorem verifyRun_cons (o b bs) : w.verifyRun o (b :: bs) =
    let r := w.verifyBlock o.part o.fmt o.layers b
    match r.1 with
    | none => ([], r.2)
    | some i => (i :: (r.2.verifyRun o bs).1, (r.2.verifyRun o bs).2) := by rfl
@[simp ↓] theorem verifyRun_kept (o bs) : kept T Q K E (w.verifyRun o bs).2 = kept T Q K E w := by
  induction bs generalizing w with
  | nil => rfl
  | cons b bs ih => grind [verifyRun_cons, verifyBlock_kept]
@[simp ↓] theorem doMatch_kept (o) : kept T false false E (w.doMatch o) = kept T false false E w := by simp only [Work.doMatch]; split <;> simp
@[simp ↓] theorem retractRec_kept (ti) : kept T Q K E (w.retractRec ti) = kept T Q K E w := by unfold Work.retractRec; (repeat' split) <;> simp
@[simp ↓] theorem prefixRoom_kept (part) : kept T Q K E (w.prefixRoom part).2 = kept T Q K E w := by unfold Work.prefixRoom; (repeat' split) <;> simp
@[simp ↓] theorem indexBlock_kept (o b) : kept T Q K E (w.indexBlock o b).2 = kept T Q K E w := by
  simp only [Work.indexBlock]
  split
  · simp
  · split
    · simp
    · split <;> simp
      rw [foldl_kept]
      · simp; split <;> simp
      · simp; intros; split <;> simp
theorem publishFrom_cons (o b bs) : w.publishFrom o (b :: bs) =
    if blockIdOf b.parent b.tokens ≠ b.id then (0, w)
    else
      let r := w.verifyBlock o.part o.fmt o.layers b
      match r.1 with
      | some _ => r.2.publishFrom o bs
      | none =>
        let x := r.2.indexBlock o b
        if x.1 then ((x.2.publishFrom o bs).1 + 1, (x.2.publishFrom o bs).2) else (0, x.2) := by rfl
@[simp ↓] theorem publishFrom_kept (o bs) : kept T Q K E (w.publishFrom o bs).2 = kept T Q K E w := by
  induction bs generalizing w with
  | nil => rfl
  | cons b bs ih => grind [publishFrom_cons, verifyBlock_kept, indexBlock_kept]
theorem eachBlock_cons (o b bs) : w.eachBlock o (b :: bs) =
    let r := w.verifyBlock o.part o.fmt o.layers b
    match r.1 with
    | none => r.2
    | some t =>
      match o.kind with
      | .retract =>
        if ((r.2.treeRec t).map (·.children)).getD 0 ≠ 0 then r.2 else (r.2.retractRec t).eachBlock o bs
      | .pin => ((r.2.modTree t fun x => { x with pinned := true }).noteTree t 3).eachBlock o bs
      | _ => ((r.2.modTree t fun x => { x with pinned := false }).noteTree t 4).eachBlock o bs := by rfl
@[simp ↓] theorem eachBlock_kept (o bs) : kept T Q K E (w.eachBlock o bs) = kept T Q K E w := by
  induction bs generalizing w with
  | nil => rfl
  | cons b bs ih => grind [eachBlock_cons, verifyBlock_kept, retractRec_kept, noteTree_kept, modTree_kept]
@[simp ↓] theorem finishPrefix_kept (o) : kept T false false E (w.finishPrefix o) = kept T false false E w := by simp only [Work.finishPrefix]; (repeat' split) <;> simp
@[simp ↓] theorem prefixDone_kept (o) : kept T false false E (w.prefixDone o) = kept T false false E w := by simp [Work.prefixDone]
@[simp ↓] theorem prefixCharge_kept (x) : kept T Q K E (w.prefixCharge x) = kept T Q K E w := by simp [Work.prefixCharge]
/-! ## Home.lean -/
@[simp ↓] theorem endHomeRun_kept (si) : kept T Q K E (w.endHomeRun si) = kept T Q K E w := (rfl)
@[simp ↓] theorem sendHome_kept (si) : kept T Q K E (w.sendHome si) = kept T Q K E w := by unfold Work.sendHome; (repeat' split) <;> simp
@[simp ↓] theorem startHome_kept (op si part cid origin) : kept T Q K E (w.startHome op si part cid origin) = kept T Q K E w := by simp [Work.startHome]
@[simp ↓] theorem startRelease_kept (part cid origin epoch) : kept T Q K E (w.startRelease part cid origin epoch) = kept T Q K E w := by
  simp [Work.startRelease]
/-! ## Sessions.lean -/
@[simp ↓] theorem freeIndex_kept : kept T Q K E (w.freeIndex).2 = kept T Q K E w := (rfl)
@[simp ↓] theorem makeSession_kept (part fmt layers cid hint src tag) :
    kept T Q K E (w.makeSession part fmt layers cid hint src tag).2 = kept T Q K E w := by
  simp only [Work.makeSession]
  split <;> simp
@[simp ↓] theorem freeSession_kept (i) : kept T Q K E (w.freeSession i) = kept T Q K E w := by unfold Work.freeSession; (repeat' split) <;> simp
@[simp ↓] theorem sessionReady_kept (i) : kept T Q K E (w.sessionReady i) = kept T Q K E w := by simp only [Work.sessionReady]; (repeat' split) <;> simp
@[simp ↓] theorem refuseSession_kept (src tag status) : kept T Q K E (w.refuseSession src tag status) = kept T Q K E w := by simp [Work.refuseSession]
@[simp ↓] theorem sessionRequest_kept (src desc op) {act} (h : ∀ w p m t, Same T Q K E w (act w p m t)) :
    kept T Q K E (w.sessionRequest src desc op act) = kept T Q K E w := by
  grind [Work.sessionRequest, same_iff, srcActs_kept, refuseSession_kept]
@[simp ↓] theorem openExisting_kept (src tag i fmt layers) : kept T Q K E (w.openExisting src tag i fmt layers) = kept T Q K E w := by
  unfold Work.openExisting; (repeat' split) <;> simp
@[simp ↓] theorem openOp_kept (src desc) : kept T Q K E (w.openOp src desc) = kept T Q K E w := by
  unfold Work.openOp
  refine sessionRequest_kept _ _ _ _ fun w part m tag => ?_
  extract_lets +onlyGivenNames fmt layers cid found v made
  have hv : kept T Q K E v = kept T Q K E w := sessionByCid_kept ..
  clear_value v
  rw [same_iff]
  split
  · rw [openExisting_kept, hv]
  · refine kept_of_ite ((refuseSession_kept ..).trans hv) (kept_of_ite ((refuseSession_kept ..).trans hv) ?_)
    split
    · rw [refuseSession_kept, hv]
    · rename_i i s _
      extract_lets +onlyGivenNames x
      have hx : kept T Q K E x = kept T Q K E w := (makeSession_kept ..).trans hv
      clear_value x
      refine kept_of_ite ?_ ((sessionReady_kept ..).trans hx)
      rw [startHome_kept, arrive_kept, setSession_kept, hx]
theorem forkPage_kept {f : Forking} {part child childHandle li pos q g} (h : f.page part child childHandle li pos q = some g) :
    kept T Q K E g.w = kept T Q K E f.w := by grind [Forking.page, allocCourse_kept]
@[simp ↓] theorem forkChild_kept (part p cid pos src tag) : kept T Q K E (w.forkChild part p cid pos src tag).2 = kept T Q K E w := by
  simp only [Work.forkChild]
  split
  · rfl
  · split
    · rfl
    next h =>
      have hk := foldl_option_keeps (fun a : Work × List Layer × List Nat × List ForkCopy => kept T Q K E a.1) (fun _ => rfl)
        (fun b x c hc => by
          obtain ⟨y, hy, rfl⟩ := Option.map_eq_some_iff.1 hc
          exact foldl_bind_keeps (fun f : Forking => kept T Q K E f.w) (fun _ _ _ hf => forkPage_kept hf) hy) h
      simpa using hk
@[simp ↓] theorem forkOp_kept (src desc) : kept T Q K E (w.forkOp src desc) = kept T Q K E w := by
  unfold Work.forkOp
  refine sessionRequest_kept _ _ _ _ fun w part m tag => ?_
  rw [same_iff]
  extract_lets +onlyGivenNames cid pos
  refine kept_of_ite (refuseSession_kept ..) ?_
  split
  · exact refuseSession_kept ..
  · refine kept_of_ite (refuseSession_kept ..) (kept_of_ite (refuseSession_kept ..) ?_)
    extract_lets +onlyGivenNames found v
    have hv : kept T Q K E found.2 = kept T Q K E w := sessionByCid_kept ..
    refine kept_of_ite ((refuseSession_kept ..).trans hv) (kept_of_ite ((refuseSession_kept ..).trans hv) ?_)
    extract_lets +onlyGivenNames made
    split
    · rw [refuseSession_kept, hv]
    · extract_lets +onlyGivenNames x
      have hx : kept T Q K E x = kept T Q K E w := ((arrive_kept ..).trans (forkChild_kept ..)).trans hv
      clear_value x
      refine kept_of_ite ?_ hx
      rw [startHome_kept, modSession_kept, hx]
@[simp ↓] theorem landCopy_kept (k) : kept T Q false E (w.landCopy k) = kept T Q false E w := by simp only [Work.landCopy]; (repeat' split) <;> simp
@[simp ↓] theorem dropStaged_kept (pick status) : kept T Q K E (w.dropStaged pick status) = kept T Q K E w := by simp [Work.dropStaged]
@[simp ↓] theorem dropHoldings_kept (i) : kept T Q K E (w.dropHoldings i) = kept T Q K E w := by unfold Work.dropHoldings; (repeat' split) <;> simp
@[simp ↓] theorem beginClose_kept (i waiting) : kept T Q K E (w.beginClose i waiting) = kept T Q K E w := by unfold Work.beginClose; split <;> simp
@[simp ↓] theorem closeOp_kept (src desc) : kept T Q K E (w.closeOp src desc) = kept T Q K E w := by
  grind [Work.closeOp, same_iff, sessionRequest_kept, refuseSession_kept, beginClose_kept, arrive_kept]
/-! ## Append.lean -/
theorem newPages_kept {si li s fp n fuel i cur p q} (h : Work.newPages si li s fp n fuel i cur p = some q) : kept T Q K E q.w = kept T Q K E p.w := by
  induction fuel generalizing i cur p <;> grind [Work.newPages, allocCourse_kept]
theorem placeRows_kept {si li s l fp n p} (h : w.placeRows si li s l fp n = some p) : kept T Q K E p.w = kept T Q K E w := by
  unfold Work.placeRows at h
  rw [newPages_kept h]
  dsimp only
  split <;> rfl
@[simp ↓] theorem cancelSpill_kept (ci) : kept T Q K E (w.cancelSpill ci) = kept T Q K E w := by unfold Work.cancelSpill; split <;> simp
@[simp ↓] theorem countRows_kept (p si li rows done) : kept T Q K E (Work.countRows p si li rows done).2 = kept T Q K E p.w := by
  simp only [Work.countRows]
  split
  · rfl
  · simp
    rw [foldl_kept]
    intro w e
    simp only [same_iff]
    (repeat' split) <;> simp
@[simp ↓] theorem beginTailCopy_kept (si li s l ci pi) : kept T Q K E (w.beginTailCopy si li s l ci pi) = kept T Q K E w := by
  simp only [Work.beginTailCopy]
  (repeat' split) <;> simp
@[simp ↓] theorem stage_kept (g) : kept T Q K E (w.stage g) = kept T Q K E w := by simp [Work.stage]
theorem chargePool_kept (bytes) {v} (h : w.chargePool bytes = some v) : kept T Q K E v = kept T Q K E w := by
  unfold Work.chargePool at h
  extract_lets at h
  split at h
  · cases h
  · cases h
    exact kept_update_budget ..
theorem chargeAppend_kept (part bytes packed) {v} (h : w.chargeAppend part bytes packed = some v) : kept T Q K E v = kept T Q K E w := by
  simp only [Work.chargeAppend, Option.map_eq_some_iff, Option.ite_none_left_eq_some] at h
  obtain ⟨-, x, hx, rfl⟩ := h
  exact kept_of_ite ((kept_update ..).trans (chargePool_kept (h := hx))) (chargePool_kept (h := hx))
theorem acceptAppend_kept (src tag si li s l jump raw first e rows at_) {v} (h :
    w.acceptAppend src tag si li s l jump raw first e rows at_ = .ok v) : kept T Q K E v = kept T Q K E w := by
  unfold Work.acceptAppend at h
  extract_lets skip fp mine n skipped stage behind gap st at h
  have hsk (w : Work) : kept T Q K E (skipped w) = kept T Q K E w := kept_of_ite rfl (count_kept ..)
  have hst {w : Work} {why v} (h : stage w why = .ok v) : kept T Q K E v = kept T Q K E w := by
    simp only [stage] at h
    split at h
    · cases h
      rw [hsk, arrive_kept, stage_kept]
    · cases h
  clear_value stage skipped
  split at h
  · cases h
    rw [complete_kept, hsk]
  split at h
  · exact hst h
  split at h
  · exact hst h
  split at h
  · split at h
    · cases h
      rename_i v hv
      exact (beginTailCopy_kept ..).trans (hst hv)
    · cases h
  · split at h
    · split at h
      · exact hst h
      · cases h
    · split at h
      · cases h
      · cases h
        rename_i p hp _
        rw [hsk, arrive_kept, countRows_kept, placeRows_kept (h := hp)]
@[simp ↓] theorem takeAppend_kept (src part b at_) : kept T Q K E (w.takeAppend src part b at_) = kept T Q K E w := by
  simp only [Work.takeAppend]
  refine kept_of_ite (refuseSession_kept ..) (kept_of_ite (refuseSession_kept ..) (kept_of_ite (refuseSession_kept ..) ?_))
  split
  · simp
  · split
    · simp
    · refine kept_of_ite (refuseSession_kept ..) ?_
      split
      · simp
      · refine kept_of_ite (refuseSession_kept ..) ?_
        split
        · simp
        next hc =>
          split
          next ha => exact (acceptAppend_kept (h := ha)).trans (chargeAppend_kept (h := hc))
          · simp
@[simp ↓] theorem tryStaged_kept (g) : kept T Q K E (w.tryStaged g).2 = kept T Q K E w := by
  unfold Work.tryStaged
  split
  · rfl
  · extract_lets +onlyGivenNames l e skip fp rows out
    have ho (w : Work) : kept T Q K E (out w) = kept T Q K E w := kept_of_ite rfl (count_kept ..)
    clear_value out
    split
    · exact (complete_kept ..).trans (ho _)
    · split
      · rfl
      · split
        · exact beginTailCopy_kept ..
        · split
          · rfl
          · split
            · rfl
            · rename_i p hp _
              exact ((complete_kept ..).trans (ho _)).trans ((countRows_kept ..).trans (placeRows_kept (h := hp)))
@[simp ↓] theorem layerPass_kept (fuel l held) : kept T Q K E (Work.layerPass fuel w l held) = kept T Q K E w := by
  induction fuel generalizing w l held with
  | zero => rfl
  | succ n ih =>
    cases l with
    | nil => rfl
    | cons g l => grind [Work.layerPass, tryStaged_kept]
@[simp ↓] theorem layerEnd_kept (l) : kept T Q K E (w.layerEnd l) = kept T Q K E w := by simp [Work.layerEnd]
/-! ## Clusters.lean -/
@[simp ↓] theorem moveSlot_kept (from_ dest) : kept T Q K E (w.moveSlot from_ dest) = kept T Q K E w := by simp [Work.moveSlot]
@[simp ↓] theorem retireBank_kept (field retire spare) : kept T Q K E (w.retireBank field retire spare) = kept T Q K E w := by simp [Work.retireBank]
@[simp ↓] theorem faultCluster_kept (c cause bufOff) : kept T Q K E (w.faultCluster c cause bufOff) = kept T Q K E w := by
  simp only [Work.faultCluster]
  (repeat' split) <;> simp
@[simp ↓] theorem faultSwapsTake_kept : kept T Q K E (w.faultSwapsTake) = kept T Q K E w := by
  simp only [Work.faultSwapsTake]
  (repeat' split) <;> simp
@[simp ↓] theorem decodeLayer_kept (l) : kept T Q K E (w.decodeLayer l) = kept T Q K E w := by simp [Work.decodeLayer]
@[simp ↓] theorem decodePackage_kept (ls) : kept T Q K E (w.decodePackage ls) = kept T Q K E w := by simp [Work.decodePackage]
@[simp ↓] theorem showStores_kept (ls) : kept T Q K E (w.showStores ls) = kept T Q K E w := (rfl)
@[simp ↓] theorem fillStore_kept : kept T Q K E (w.fillStore) = kept T Q K E w := by simp only [Work.fillStore]; split <;> simp
@[simp ↓] theorem weightsTake_kept : kept T Q K E (w.weightsTake) = kept T Q K E w := by unfold Work.weightsTake; split <;> simp
/-! ## Attend.lean -/
@[simp ↓] theorem runItem_kept (slot c x q t m) : kept T Q K E (w.runItem slot c x q t m).1 = kept T Q K E w := by
  unfold Work.runItem
  exact modQuery_kept ..
/-! ## Links.lean -/
@[simp ↓] theorem setPort_kept (p h v) : kept T Q K E (w.setPort p h v) = kept T Q K E w := by simp [Work.setPort]
@[simp ↓] theorem sendSlots_kept (p h slots) : kept T Q K E (w.sendSlots p h slots) = kept T Q K E w := (rfl)
@[simp ↓] theorem ctrlFlit_kept (p h bs) : kept T Q K E (w.ctrlFlit p h bs) = kept T Q K E w := (rfl)
@[simp ↓] theorem flitCheck_kept (p flit type) {act} (h : ∀ w, Same T Q K E w (act w)) : kept T Q K E (w.flitCheck p flit type act) = kept T Q K E w := by
  grind [Work.flitCheck, same_iff, count_kept]
@[simp ↓] theorem sendHello_kept (p h) : kept T Q K E (w.sendHello p h) = kept T Q K E w := (rfl)
@[simp ↓] theorem helloIfChanged_kept (p h) : kept T Q K E (w.helloIfChanged p h) = kept T Q K E w := by simp [Work.helloIfChanged]
@[simp ↓] theorem sendCredit_kept (p h) : kept T Q K E (w.sendCredit p h) = kept T Q K E w := (rfl)
@[simp ↓] theorem setRate_kept (p) : kept T Q K E (w.setRate p) = kept T Q K E w := (rfl)
@[simp ↓] theorem startPort_kept (p) : kept T Q K E (w.startPort p) = kept T Q K E w := by simp [Work.startPort]
@[simp ↓] theorem showLaneSpare_kept (p) : kept T Q K E (w.showLaneSpare p) = kept T Q K E w := by simp [Work.showLaneSpare]
@[simp ↓] theorem retrain_kept (p) : kept T Q K E (w.retrain p) = kept T Q K E w := by simp [Work.retrain]
@[simp ↓] theorem dropPort_kept (p h cause) : kept T Q K E (w.dropPort p h cause) = kept T Q K E w := by simp only [Work.dropPort]; split <;> simp
@[simp ↓] theorem enterUp_kept (p h) : kept T Q K E (w.enterUp p h) = kept T Q K E w := by simp [Work.enterUp]
@[simp ↓] theorem rehRetrain_kept (die) : kept T Q K E (w.rehRetrain die) = kept T Q K E w := by simp only [Work.rehRetrain]; split <;> simp
@[simp ↓] theorem askSwap_kept (p lane hard must) : kept T Q K E (w.askSwap p lane hard must) = kept T Q K E w := by simp [Work.askSwap]
@[simp ↓] theorem takeSwap_kept (p h sw spareOk) : kept T Q K E (w.takeSwap p h sw spareOk) = kept T Q K E w := by simp [Work.takeSwap]
@[simp ↓] theorem lpCtrlWrite_kept (wr) : kept T Q K E (w.lpCtrlWrite wr) = kept T Q K E w := by simp only [Work.lpCtrlWrite]; split <;> simp
@[simp ↓] theorem endPeriod_kept (p h good corrected) : kept T Q K E (w.endPeriod p h good corrected) = kept T Q K E w := (rfl)
@[simp ↓] theorem freeRx_kept (p h pkt) : kept T Q K E (w.freeRx p h pkt) = kept T Q K E w := by unfold Work.freeRx; split <;> simp
@[simp ↓] theorem berCl_kept (p lane) : kept T Q K E (w.berCl p lane).2 = kept T Q K E w := by simp [Work.berCl]
/-! ## Copies.lean -/
@[simp ↓] theorem dropCopy_kept (src part c) : kept T Q K E (w.dropCopy src part c) = kept T Q K E w := by unfold Work.dropCopy; split <;> simp
@[simp ↓] theorem putIn_kept (s) : kept T Q K E (w.putIn s) = kept T Q K E w := by simp [Work.putIn]
@[simp ↓] theorem dropIn_kept (s) : kept T Q K E (w.dropIn s) = kept T Q K E w := by simp [Work.dropIn]
@[simp ↓] theorem newCopy_kept (part e) : kept T Q K E (w.newCopy part e).2 = kept T Q K E w := by simp [Work.newCopy]
theorem openCopy_kept (i) {v} (h : w.openCopy i = some v) : kept T Q false E v = kept T Q false E w := by
  simp only [Work.openCopy] at h
  (repeat' split at h) <;> cases h
  · rfl
  all_goals
  rw [modCourse_kept, loseFound_kept, snd_foldl_kept]
  · simp
  · intro a e; simp; split <;> simp
theorem copyRows_kept (i e) {v} (h : w.copyRows i e = some v) : kept T Q false E v = kept T Q false E w := by
  obtain ⟨x, hx, rfl⟩ := Option.map_eq_some_iff.1 h
  grind [openCopy_kept, setCourse_kept, store_kept, writeHeader_kept]
theorem copyImage_kept (i first items img) {v} (h : w.copyImage i first items img = some v) : kept T Q false E v = kept T Q false E w := by
  obtain ⟨x, hx, rfl⟩ := Option.map_eq_some_iff.1 h
  rw [foldl_kept, openCopy_kept w _ hx]
  grind [same_iff, setCourse_kept, store_kept, writeHeader_kept]
@[simp ↓] theorem placeReceived_kept (c blk b) : kept T Q K E (w.placeReceived c blk b).2 = kept T Q K E w := by
  simp only [Work.placeReceived]
  split <;> simp
theorem copyBlock_kept (i b img) {v} (h : w.copyBlock i b img = some v) : kept T Q false E v = kept T Q false E w := by
  simp only [Work.copyBlock] at h
  grind [copyImage_kept, placeReceived_kept, setCourse_kept, store_kept, Option.map_eq_some_iff]
@[simp ↓] theorem modEntry_kept (src part ci f) : kept T Q K E (w.modEntry src part ci f) = kept T Q K E w := by unfold Work.modEntry; split <;> simp
@[simp ↓] theorem makeCopy_kept (src part ci) : kept T Q K E (w.makeCopy src part ci) = kept T Q K E w := by unfold Work.makeCopy; split <;> simp
theorem takeRun_kept (src part e) {v} (h : w.takeRun src part e = some v) : kept T Q false E v = kept T Q false E w := by
  grind [Work.takeRun, copyRows_kept, modEntry_kept]
theorem copyRecord_kept {src part seed blocks r v} (h : Work.copyRecord src part seed blocks w r = some v) : kept T Q false E v = kept T Q false E w := by
  unfold Work.copyRecord at h
  dsimp only at h
  split at h
  · grind
  · split at h
    · grind [putIn_kept, makeCopy_kept]
    · grind [modCourse_kept, writeHeader_kept]
    · split at h
      · grind
      · split at h
        · exact foldl_bind_keeps (f := fun w e => w.takeRun src part e) (kept T Q false E) (fun w e v hv => takeRun_kept w _ _ _ hv) h
        · grind [copyBlock_kept]
    · grind [putIn_kept]
theorem seedsTaken_kept {src part recs v} (h : Work.seedsTaken src part recs w = some v) : kept T Q false E v = kept T Q false E w := by
  refine foldl_bind_keeps (kept T Q false E) (fun w ci v hv => ?_) h
  have : kept T Q false E v = _ := foldl_bind_keeps (f := fun w e => w.takeRun src part e) (kept T Q false E) (fun w e v hv => takeRun_kept w _ _ _ hv) hv
  simpa using this
theorem applyAll_kept (src part h recs blocks) {v} (hv : w.applyAll src part h recs blocks = some v) : kept T Q false E v = kept T Q false E w := by
  unfold Work.applyAll at hv
  dsimp only at hv
  obtain ⟨x, hx, rfl⟩ := Option.map_eq_some_iff.1 hv
  have : kept T Q false E x = kept T Q false E w := by
    split at hx
    · obtain ⟨y, hy, hyx⟩ := Option.bind_eq_some_iff.1 hx
      rw [seedsTaken_kept y hyx]
      exact foldl_bind_keeps (f := fun w e => w.copyRecord src part _ blocks e) (kept T Q false E) (fun w e v hv => copyRecord_kept w hv) hy
    · exact foldl_bind_keeps (f := fun w e => w.copyRecord src part _ blocks e) (kept T Q false E) (fun w e v hv => copyRecord_kept w hv) hx
  grind [putIn_kept]
theorem applyIn_kept (s h recs blocks) {v} (hv : w.applyIn s h recs blocks = some v) : kept T Q false E v = kept T Q false E w := by
  unfold Work.applyIn at hv
  cases hw : (w.setIn s).applyAll s.src s.part h recs blocks with
  | none => rw [hw] at hv; simpa using applyAll_kept _ _ _ _ _ _ hv
  | some x => rw [hw] at hv; cases hv; simpa using applyAll_kept _ _ _ _ _ _ hw
theorem adoptCopy_kept (i si handle x) {v} (h : w.adoptCopy i si handle x = some v) : kept T Q false E v = kept T Q false E w := by
  obtain ⟨x, hx, rfl⟩ := Option.map_eq_some_iff.1 h
  grind [openCopy_kept, modCourse_kept, foldl_kept, same_iff, writeHeader_kept]
theorem takePage_kept {t : Taking} {si handle x li e u} (h : t.page si handle x li e = some u) : kept T Q false E u.w = kept T Q false E t.w := by
  unfold Taking.page at h
  split at h
  · cases h
  · split at h
    · cases h
    · split at h
      · cases h
      next v hv =>
        have hw : kept T Q false E v = kept T Q false E t.w := by
          split at hv
          · cases hv; rfl
          · exact adoptCopy_kept (h := hv)
        extract_lets +onlyGivenNames s at h
        split at h
        · cases h
        · extract_lets +onlyGivenNames keep add t' at h
          have ha (t : Taking) (a b c) : (add t a b c).w = t.w := rfl
          clear_value add
          split at h
          · cases h
          · split at h
            · cases h
              rw [ha]
              exact hw
            · split at h
              · extract_lets a at h
                split at h
                · cases h
                  rw [ha]
                  refine (writeHeader_kept ..).trans ((store_kept ..).trans ((setCourse_kept ..).trans ?_))
                  exact (allocCourse_kept ..).trans hw
                · cases h
              · cases h
                rw [ha]
                exact (writeHeader_kept ..).trans ((modPage_kept ..).trans ((zero_kept ..).trans hw))
@[simp ↓] theorem trimCourse_kept (ci stays) : kept T Q K E (w.trimCourse ci stays) = kept T Q K E w := by unfold Work.trimCourse; split <;> simp
@[simp ↓] theorem seedTaken_kept (part si used) : kept T Q K E (w.seedTaken part si used) = kept T Q K E w := by unfold Work.seedTaken; split <;> simp
@[simp ↓] theorem takeSlice_kept (src part cid origin epoch) :
    kept T Q false E (w.takeSlice src part cid origin epoch).2 = kept T Q false E w := by
  unfold Work.takeSlice
  split
  · rfl
  · extract_lets +onlyGivenNames s old
    split
    · rfl
    · extract_lets +onlyGivenNames ecs made
      have hm : kept T Q false E made.2 = kept T Q false E w := makeSession_kept ..
      clear_value made
      split
      · rfl
      · extract_lets +onlyGivenNames h step
        split
        · rfl
        next si se _ _ t layers h =>
          have hk := foldl_option_keeps (fun a : Taking × List Layer => kept T Q false E a.1.w) (fun _ => rfl) (fun b x c hc => by
            obtain ⟨y, hy, rfl⟩ := Option.map_eq_some_iff.1 hc
            have : kept T Q false E y.w = _ := foldl_bind_keeps (fun f : Taking => kept T Q false E f.w) (fun _ _ _ hf => takePage_kept hf) hy
            exact this) h
          extract_lets +onlyGivenNames s1 v u fresh y z
          have hv : kept T Q false E u = kept T Q false E w := (setSession_kept ..).trans ((setIn_kept ..).trans (hk.trans hm))
          have hy : kept T Q false E y = kept T Q false E w := (foldl_kept (fun w ci => by simp) _ _).trans hv
          have hz : kept T Q false E z = kept T Q false E w := (foldl_kept (fun w ci => by simp) _ _).trans hy
          exact (seedTaken_kept ..).trans hz
@[simp ↓] theorem takeTree_kept (s r) : kept T Q K E (w.takeTree s r) = kept T Q K E w := by simp only [Work.takeTree]; (repeat' split) <;> simp
/-! ## Ownership.lean -/
@[simp ↓] theorem dropNew_kept (si status) : kept T Q K E (w.dropNew si status) = kept T Q K E w := by unfold Work.dropNew; (repeat' split) <;> simp
@[simp ↓] theorem restartHome_kept (si) : kept T Q K E (w.restartHome si) = kept T Q K E w := by unfold Work.restartHome; split <;> simp
@[simp ↓] theorem reconcile_kept (si) : kept T Q K E (w.reconcile si) = kept T Q K E w := by unfold Work.reconcile; split <;> simp
@[simp ↓] theorem takenOne_kept (cid former part outcome) : kept T Q K E (w.takenOne cid former part outcome) = kept T Q K E w := by simp [Work.takenOne]
@[simp ↓] theorem takeoverEnd_kept (r former e) : kept T Q false E (w.takeoverEnd r former e) = kept T Q false E w := by
  simp only [Work.takeoverEnd]
  (repeat' split) <;> simp
@[simp ↓] theorem homeEnd_kept (r e) : kept T Q false E (w.homeEnd r e) = kept T Q false E w := by simp only [Work.homeEnd]; (repeat' split) <;> simp
@[simp ↓] theorem homeAnswer_kept (si found) : kept T Q false E (w.homeAnswer si found) = kept T Q false E w := by
  simp only [Work.homeAnswer]
  (repeat' split) <;> simp
@[simp ↓] theorem homeFailed_kept (si) : kept T Q K E (w.homeFailed si) = kept T Q K E w := by simp [Work.homeFailed]
@[simp ↓] theorem homeLocal_kept (fuel si) : kept T Q false E (w.homeLocal fuel si) = kept T Q false E w := by
  induction fuel generalizing w si with
  | zero => rfl
  | succ n ih =>
    unfold Work.homeLocal
    split
    · rfl
    · split
      · rfl
      · split
        · rfl
        · split
          · rfl
          · split
            extract_lets
            rw [ih, homeAnswer_kept]
            exact kept_of_ite (store_kept ..) rfl
@[simp ↓] theorem homeKick_kept : kept T Q false E (w.homeKick) = kept T Q false E w := by simp [Work.homeKick]
@[simp ↓] theorem endLease_kept : kept T false false E (w.endLease) = kept T false false E w := by simp [Work.endLease]
/-! ## Mirror.lean -/
@[simp ↓] theorem putStream_kept (s) : kept T Q K E (w.putStream s) = kept T Q K E w := by simp [Work.putStream]
@[simp ↓] theorem restoreFailed_kept (ci) : kept T Q K E (w.restoreFailed ci) = kept T Q K E w := by simp only [Work.restoreFailed]; split <;> simp
@[simp ↓] theorem restoresFailed_kept (p) : kept T Q K E (w.restoresFailed p) = kept T Q K E w := by simp [Work.restoresFailed]
@[simp ↓] theorem commitsFailed_kept (p) : kept T Q K E (w.commitsFailed p) = kept T Q K E w := by unfold Work.commitsFailed; split <;> simp
@[simp ↓] theorem streamLost_kept (p) : kept T Q K E (w.streamLost p) = kept T Q K E w := by simp only [Work.streamLost]; split <;> simp
@[simp ↓] theorem startSeeding_kept (p) : kept T Q K E (w.startSeeding p) = kept T Q K E w := by simp [Work.startSeeding]
@[simp ↓] theorem seedsDone_kept (p) : kept T Q K E (w.seedsDone p) = kept T Q K E w := by unfold Work.seedsDone; split <;> simp
@[simp ↓] theorem streamCheckConn_kept (p) : kept T Q K E (w.streamCheckConn p) = kept T Q K E w := by unfold Work.streamCheckConn; split <;> simp
@[simp ↓] theorem streamsCheckConn_kept : kept T Q K E (w.streamsCheckConn) = kept T Q K E w := by simp [Work.streamsCheckConn]
@[simp ↓] theorem startStream_kept (p) : kept T Q K E (w.startStream p) = kept T Q K E w := by simp [Work.startStream]
@[simp ↓] theorem endStream_kept (p) : kept T Q K E (w.endStream p) = kept T Q K E w := by simp only [Work.endStream]; split <;> simp
@[simp ↓] theorem emitRows_kept (die part l) : kept T Q K E (w.emitRows die part l).2 = kept T Q K E w := by
  induction l generalizing w with
  | nil => rfl
  | cons e l ih =>
    obtain ⟨img, b⟩ := e
    unfold Work.emitRows
    extract_lets +onlyGivenNames good _ _ v
    have hv : kept T Q K E v.2 = kept T Q K E w := by
      simp only [v]
      split
      · rfl
      · exact verifyFailed_kept ..
    clear_value v
    split
    · exact hv
    · exact (ih _).trans ((countBlock_kept ..).trans hv)
@[simp ↓] theorem emitCourse_kept (die r i l) : kept T Q K E (w.emitCourse die r i l).2 = kept T Q K E w := by
  induction l generalizing w r i <;> grind [Work.emitCourse, emitBlock_kept, countBlock_kept]
theorem putBatch_kept (s b d) {x v} (h : w.putBatch s b d = some (x, v)) : kept T Q K E v = kept T Q K E w := by
  grind [Work.putBatch, snd_foldl_kept, same_iff, sendMsg_kept]
@[simp ↓] theorem sendBatch_kept (s b blocks kind0 rows) : kept T Q K E (w.sendBatch s b blocks kind0 rows) = kept T Q K E w := by
  grind [Work.sendBatch, putBatch_kept, streamLost_kept, setStream_kept, count_kept, meter_kept]
@[simp ↓] theorem sendRows_kept (st b blocks) : kept T Q K E (w.sendRows st b blocks) = kept T Q K E w := by
  simp only [Work.sendRows]
  (repeat' split) <;> simp
@[simp ↓] theorem sendSeed_kept (st ci rest blocks) : kept T Q false E (w.sendSeed st ci rest blocks) = kept T Q false E w := by
  simp only [Work.sendSeed]
  (repeat' split) <;> simp
@[simp ↓] theorem commitsDone_kept (p) : kept T Q K E (w.commitsDone p) = kept T Q K E w := by unfold Work.commitsDone; split <;> simp
@[simp ↓] theorem commitOp_kept (src desc) : kept T Q K E (w.commitOp src desc) = kept T Q K E w := by
  unfold Work.commitOp
  split
  · rfl
  next part _ =>
    refine srcActs_kept _ _ _ _ fun w => ?_
    rw [same_iff]
    extract_lets +onlyGivenNames m tag fail
    have hf (v : Work) (st) : kept T Q K E (fail v st) = kept T Q K E v := (complete_kept ..).trans (count_kept ..)
    clear_value fail
    refine kept_of_ite (hf ..) (kept_of_ite (hf ..) ?_)
    split
    · exact hf ..
    · refine kept_of_ite (hf ..) (kept_of_ite (hf ..) ?_)
      extract_lets +onlyGivenNames v
      have hv : kept T Q K E v = kept T Q K E w := streamCheckConn_kept ..
      clear_value v
      split
      · exact (hf ..).trans hv
      · refine kept_of_ite ((hf ..).trans hv) ?_
        extract_lets +onlyGivenNames es rec_ u
        have hu : kept T Q K E u = kept T Q K E w := ((metaChange_kept ..).trans (arrive_kept ..)).trans hv
        clear_value u
        split
        · exact (setStream_kept ..).trans hu
        · exact hu
@[simp ↓] theorem resendBatch_kept (s b d) : kept T Q K E (w.resendBatch s b d) = kept T Q K E w := by
  grind [Work.resendBatch, putBatch_kept, streamLost_kept, setStream_kept]
@[simp ↓] theorem batchOutcome_kept (part gen seq status) : kept T Q false E (w.batchOutcome part gen seq status) = kept T Q false E w := by
  unfold Work.batchOutcome; (repeat' split) <;> simp
@[simp ↓] theorem sendRestore_kept (q pages blocks) : kept T Q K E (w.sendRestore q pages blocks) = kept T Q K E w := by simp [Work.sendRestore]
@[simp ↓] theorem sendReplies_kept : kept T Q false E (w.sendReplies) = kept T Q false E w := by
  unfold Work.sendReplies
  refine kept_of_ite rfl (foldl_kept (fun w e => ?_) _ _)
  rw [same_iff]
  extract_lets +onlyGivenNames gone
  have hg (v : Work) : kept T Q false E (gone v) = kept T Q false E v := rfl
  clear_value gone
  split
  · exact (sendRestore_kept ..).trans (hg _)
  · split
    · rfl
    · refine kept_of_ite rfl ?_
      extract_lets q
      have hq : kept T Q false E q.2 = kept T Q false E w := (badBlocks_kept ..).trans (hg _)
      clear_value q
      exact kept_of_ite ((sendRestore_kept ..).trans hq) ((sendRestore_kept ..).trans ((loseFound_kept ..).trans hq))
@[simp ↓] theorem owe_kept (q) : kept T Q false E (w.owe q) = kept T Q false E w := by simp [Work.owe]
@[simp ↓] theorem restoreEnded_kept (q status) : kept T Q false E (w.restoreEnded q status) = kept T Q false E w := by simp [Work.restoreEnded]
@[simp ↓] theorem jobDone_kept (r) : kept T Q K E (w.jobDone r) = kept T Q K E w := by simp only [Work.jobDone]; (repeat' split) <;> simp
@[simp ↓] theorem emitJob_kept (die job blk bytes corrupt) : kept T Q false E (w.emitJob die job blk bytes corrupt) = kept T Q false E w := by
  simp only [Work.emitJob]
  (repeat' split) <;> simp
theorem restoreCourse_kept (ci imgs) {v} (h : w.restoreCourse ci imgs = some v) : kept T Q K E v = kept T Q K E w := by
  unfold Work.restoreCourse at h
  split at h
  · cases h
  · rename_i c _
    extract_lets +onlyGivenNames len moved ext pageImg full at h
    split at h
    · cases h
    · extract_lets +onlyGivenNames r at h
      have hr : kept T Q K E r.2 = kept T Q K E w := tryStacks_kept ..
      clear_value r pageImg
      split at h
      · cases h
      · cases h
        refine (count_kept ..).trans ((foldl_kept (fun w i => ?_) _ _).trans ((setCourse_kept ..).trans ((zero_kept ..).trans hr)))
        split
        · exact kept_of_ite rfl ((writeHeader_kept ..).trans (store_kept ..))
        · rfl
@[simp ↓] theorem takeRestore_kept (recs blocks) : kept T Q K E (w.takeRestore recs blocks) = kept T Q K E w := by
  unfold Work.takeRestore
  split
  · rfl
  · extract_lets ci imgs
    refine kept_of_ite rfl ?_
    split
    next v hv =>
      split at hv
      · cases hv
      · exact (kept_update ..).trans (restoreCourse_kept (h := hv))
    · exact restoreFailed_kept ..
@[simp ↓] theorem ingressBlock_kept (s part data r) : kept T Q K E (w.ingressBlock s part data r).2 = kept T Q K E w := by
  unfold Work.ingressBlock
  extract_lets ci b h b die at_ inst kind x
  have hx : kept T Q K E x.2 = kept T Q K E w := by simp [x, at_, die]
  split <;> simp [hx]
@[simp ↓] theorem ingress_kept (s part recs data) : kept T Q K E (w.ingress s part recs data).2 = kept T Q K E w := by
  simp only [Work.ingress]
  rw [snd_foldl_kept]
  intro a r
  simp only [same_iff]
  split <;> simp
@[simp ↓] theorem endData_kept (data status damaged) : kept T Q K E (w.endData data status damaged) = kept T Q K E w := by simp [Work.endData]
@[simp ↓] theorem refuseBatch_kept (conn msn b status) : kept T Q K E (w.refuseBatch conn msn b status) = kept T Q K E w := by simp [Work.refuseBatch]
@[simp ↓] theorem actBatch_kept (s conn msn b h data) : kept T Q false E (w.actBatch s conn msn b h data) = kept T Q false E w := by
  unfold Work.actBatch
  extract_lets s' recs known g x finish ci y z
  have hx : kept T Q false E x = kept T Q false E w := ((endData_kept ..).trans (ingress_kept ..)).trans (setIn_kept ..)
  have hf (v : Work) (s st) : kept T Q false E (finish v s st) = kept T Q false E v := (completeMsg_kept ..).trans (setIn_kept ..)
  clear_value x finish
  refine kept_of_ite ((completeMsg_kept ..).trans hx) (kept_of_ite ((owe_kept ..).trans ((hf ..).trans hx)) ?_)
  split
  · exact (hf ..).trans hx
  next v hv =>
    exact (hf ..).trans (((meter_kept ..).trans (count_kept ..)).trans ((applyIn_kept (hv := hv)).trans hx))
@[simp ↓] theorem drainIn_kept (src part fuel) : kept T Q false E (w.drainIn src part fuel) = kept T Q false E w := by
  induction fuel generalizing w with
  | zero => rfl
  | succ n ih =>
    simp only [Work.drainIn]
    (repeat' split) <;> simp [ih]
@[simp ↓] theorem takeMeta_kept (conn msn peer b h) : kept T Q false E (w.takeMeta conn msn peer b h) = kept T Q false E w := by
  simp only [Work.takeMeta]
  split <;> simp
@[simp ↓] theorem drainMeta_kept (fuel) : kept T Q false E (Work.drainMeta fuel w) = kept T Q false E w := by
  induction fuel generalizing w with
  | zero => rfl
  | succ n ih =>
    unfold Work.drainMeta
    split
    · rfl
    · extract_lets _ _ v recs g x
      have hv : kept T Q false E v = kept T Q false E w := rfl
      clear_value v
      have hx : kept T Q false E x = kept T Q false E w := ((endData_kept ..).trans (ingress_kept ..)).trans hv
      clear_value x
      rw [ih]
      refine kept_of_ite (((refuseBatch_kept ..).trans (count_kept ..)).trans hv) (kept_of_ite ?_ ?_)
      · exact kept_of_ite ((takeRestore_kept ..).trans ((completeMsg_kept ..).trans hx)) ((completeMsg_kept ..).trans hx)
      · split
        · exact (takeMeta_kept ..).trans hv
        · exact hv
@[simp ↓] theorem mirrorGoesOn_kept : kept T Q false E (w.mirrorGoesOn) = kept T Q false E w := by simp [Work.mirrorGoesOn]
/-! ## Finish.lean -/
@[simp ↓] theorem reconcileSoon_kept (keep) : kept T Q K E (w.reconcileSoon keep) = kept T Q K E w := (rfl)
@[simp ↓] theorem finishMsg_kept (k status aux0 aux1 data) : kept T Q false E (w.finishMsg k status aux0 aux1 data) = kept T Q false E w := by
  unfold Work.finishMsg; (repeat' split) <;> simp
@[simp ↓] theorem finishAll_kept (conn status) : kept T Q false E (w.finishAll conn status) = kept T Q false E w := by simp [Work.finishAll]
/-! ## Shape.lean -/
@[simp ↓] theorem charge_kept (code len) : kept T Q K E (w.charge code len) = kept T Q K E w := by simp [Work.charge]
@[simp ↓] theorem colour_kept (i len) : kept T Q K E (w.colour i len).2 = kept T Q K E w := by simp [Work.colour]
/-! ## Packets.lean -/
@[simp ↓] theorem enqueue_kept (k cls pkt arrived) : kept T Q K E (w.enqueue k cls pkt arrived) = kept T Q K E w := (rfl)
@[simp ↓] theorem transit_kept (port cls pkt) : kept T Q K E (w.transit port cls pkt) = kept T Q K E w := by simp [Work.transit]
theorem evict_kept {v} (h : w.evict = some v) : kept T Q K E v = kept T Q K E w := by
  unfold Work.evict at h
  extract_lets free at h
  split at h
  · cases h
  · cases h
    rw [count_kept, modConn_kept, ksEraseConn_kept, pcieOut_kept, hostStore_kept, randomBytes_kept]
theorem takeHotSlot_kept {x v} (h : w.takeHotSlot = some (x, v)) : kept T Q K E v = kept T Q K E w := by
  grind [Work.takeHotSlot, evict_kept, Option.map_eq_some_iff]
@[simp ↓] theorem destroyKeys_kept (id) : kept T Q K E (w.destroyKeys id) = kept T Q K E w := (rfl)
@[simp ↓] theorem breakNow_kept (id c status) : kept T Q false E (w.breakNow id c status) = kept T Q false E w := by simp [Work.breakNow]
@[simp ↓] theorem breakConn_kept (id status) : kept T Q false E (w.breakConn id status) = kept T Q false E w := by unfold Work.breakConn; split <;> simp
/-! ## Receive.lean -/
@[simp ↓] theorem setInMsg_kept (m) : kept T Q K E (w.setInMsg m) = kept T Q K E w := by simp [Work.setInMsg]
@[simp ↓] theorem duplicate_kept (id msn) : kept T Q K E (w.duplicate id msn) = kept T Q K E w := (rfl)
@[simp ↓] theorem police_kept (id c h parts) : kept T Q K E (w.police id c h parts) = kept T Q K E w := by simp [Work.police]
@[simp ↓] theorem arrived_kept (c m) : kept T Q K E (w.arrived c m) = kept T Q K E w := by simp [Work.arrived]
@[simp ↓] theorem message_kept (id c h payload len) {rcd} (hr : ∀ w, Same T Q K E w (rcd w)) :
    kept T Q K E (w.message id c h payload len rcd) = kept T Q K E w := by
  simp only [same_iff] at hr
  simp [Work.message, hr]
@[simp ↓] theorem recordPsn_kept (id base psn ackReq) : kept T Q K E (w.recordPsn id base psn ackReq) = kept T Q K E w := (rfl)
theorem unseal_kept {c pkt ext v} (h : w.unseal c pkt ext = .error v) : kept T Q K E v = kept T Q K E w := by
  grind [Work.unseal, count_kept, modStrike_kept]
@[simp ↓] theorem takePacket_kept (id pkt) : kept T Q K E (w.takePacket id pkt) = kept T Q K E w := by
  unfold Work.takePacket
  extract_lets +onlyGivenNames h
  split
  · exact count_kept ..
  next c _ =>
    refine kept_of_ite (count_kept ..) ?_
    extract_lets +onlyGivenNames v passed
    have hv : kept T Q K E v = kept T Q K E w := useCtx_kept ..
    have hp (w : Work) : kept T Q K E (passed w) = kept T Q K E w := (meter_kept ..).trans (count_kept ..)
    clear_value v passed
    refine kept_of_ite ?_ ?_
    · extract_lets +onlyGivenNames ext
      refine kept_of_ite hv ?_
      split
      next hu => exact (unseal_kept (h := hu)).trans hv
      · exact (modConn_kept ..).trans ((hp _).trans hv)
    · extract_lets +onlyGivenNames ext base
      refine kept_of_ite ((count_kept ..).trans hv) (kept_of_ite ((count_kept ..).trans hv) ?_)
      split
      next hu => exact (unseal_kept (h := hu)).trans hv
      · exact (message_kept _ _ _ _ _ _ fun w => by simp).trans ((hp _).trans hv)
@[simp ↓] theorem holdPacket_kept (id port half c pkt) : kept T Q K E (w.holdPacket id port half c pkt) = kept T Q K E w := by simp [Work.holdPacket]
@[simp ↓] theorem accessCheck_kept (c op target from_ len) : kept T Q K E (w.accessCheck c op target from_ len).2 = kept T Q K E w := by
  simp [Work.accessCheck]
@[simp ↓] theorem violation_kept (id msn target st) : kept T Q K E (w.violation id msn target st) = kept T Q K E w := by simp [Work.violation]
@[simp ↓] theorem accessPart_kept (op pkt) {act} (h : ∀ c m, Same T Q K E w (act c m)) : kept T Q K E (w.accessPart op pkt act) = kept T Q K E w := by
  grind [Work.accessPart, same_iff, complete_kept, completeMsg_kept, count_kept]
@[simp ↓] theorem remoteWhole_kept (c m) : kept T Q K E (w.remoteWhole c m) = kept T Q K E w := by simp [Work.remoteWhole]
@[simp ↓] theorem placeResponse_kept (m pkt) : kept T Q K E (w.placeResponse m pkt) = kept T Q K E w := by
  unfold Work.placeResponse; (repeat' split) <;> simp
@[simp ↓] theorem packetAcked_kept (id x) : kept T Q K E (w.packetAcked id x) = kept T Q K E w := by unfold Work.packetAcked; split <;> simp
@[simp ↓] theorem lost_kept (id x) : kept T Q false E (w.lost id x) = kept T Q false E w := by simp only [Work.lost]; (repeat' split) <;> simp
/-! ## Conns.lean -/
@[simp ↓] theorem control_kept (src) {act} (h : ∀ w p, Same T Q K E w (act w p)) : kept T Q K E (w.control src act) = kept T Q K E w := by
  cases src <;> grind [Work.control, same_iff]
@[simp ↓] theorem present_kept (conn) : kept T Q K E (w.present conn) = kept T Q K E w := by simp [Work.present]
@[simp ↓] theorem unwrapFailed_kept (p conn) : kept T Q K E (w.unwrapFailed p conn) = kept T Q K E w := by simp [Work.unwrapFailed]
@[simp ↓] theorem installOp_kept (src desc) : kept T Q K E (w.installOp src desc) = kept T Q K E w := by
  unfold Work.installOp
  refine control_kept _ _ fun w p => ?_
  rw [same_iff]
  extract_lets +onlyGivenNames tag id answer
  have ha (v : Work) (st) : kept T Q K E (answer v st) = kept T Q K E v := complete_kept ..
  clear_value answer
  refine kept_of_ite rfl (kept_of_ite (ha ..) (kept_of_ite (ha ..) ?_))
  split
  · exact ha ..
  next slot v hs =>
    have hv : kept T Q K E v = kept T Q K E w := takeHotSlot_kept (h := hs)
    extract_lets +onlyGivenNames e
    have he : kept T Q K E e.2 = kept T Q K E w := (ksInsert_kept ..).trans hv
    refine kept_of_ite (ha ..) ?_
    split
    · exact (ha ..).trans (unwrapFailed_kept ..)
    · refine (ha ..).trans ?_
      exact kept_of_ite ((present_kept ..).trans ((kept_update ..).trans he)) ((kept_update ..).trans he)
@[simp ↓] theorem rekeyOp_kept (src desc) : kept T Q K E (w.rekeyOp src desc) = kept T Q K E w := by
  unfold Work.rekeyOp
  refine control_kept _ _ fun w p => ?_
  rw [same_iff]
  extract_lets +onlyGivenNames tag id answer
  have ha (v : Work) (st) : kept T Q K E (answer v st) = kept T Q K E v := complete_kept ..
  clear_value answer
  refine kept_of_ite rfl (kept_of_ite (ha ..) ?_)
  split
  · exact ha ..
  · refine kept_of_ite (ha ..) (kept_of_ite (modConn_kept ..) ?_)
    split
    · exact (ha ..).trans (unwrapFailed_kept ..)
    · exact (ha ..).trans ((modConn_kept ..).trans (useCtx_kept ..))
@[simp ↓] theorem removeOp_kept (src desc) : kept T Q K E (w.removeOp src desc) = kept T Q K E w := by
  grind [Work.removeOp, same_iff, control_kept, complete_kept, modConn_kept]
@[simp ↓] theorem dropConn_kept (id) : kept T Q K E (w.dropConn id) = kept T Q K E w := by
  simp only [Work.dropConn]
  (repeat' split) <;> simp
@[simp ↓] theorem runHeld_kept (conn c) : kept T Q K E (w.runHeld conn c) = kept T Q K E w := by simp [Work.runHeld]
theorem makeRegion_kept (p base len perm) {x v} (h : w.makeRegion p base len perm = some (x, v)) : kept T Q K E v = kept T Q K E w := by
  unfold Work.makeRegion at h
  extract_lets idx e at h
  have he : kept T Q K E e.2 = kept T Q K E w := ksInsert_kept ..
  clear_value e
  split at h
  · cases h
  · obtain ⟨-, rfl⟩ := Prod.mk.inj (Option.some.inj h)
    exact (kept_update ..).trans he
@[simp ↓] theorem createOp_kept (src desc) : kept T Q K E (w.createOp src desc) = kept T Q K E w := by
  simp only [Work.createOp]
  refine control_kept _ _ fun w p => ?_
  grind [same_iff, complete_kept, nameSpan_kept, makeRegion_kept]
@[simp ↓] theorem regionDrain_kept (src p desc destroy) : kept T Q K E (w.regionDrain src p desc destroy) = kept T Q K E w := by
  simp only [Work.regionDrain]
  (repeat' split) <;> simp
/-! ## Sched.lean -/
theorem schedDecide_kept (cs) {x v} (h : w.decide_ cs = some (x, v)) : kept T Q K E v = kept T Q K E w := by
  unfold Work.decide_ at h
  extract_lets +onlyGivenNames strict at h
  split at h
  · cases h
    exact count_kept ..
  · extract_lets +onlyGivenNames subs choice es at h
    split at h
    · cases h
    · split at h
      · cases h
      · cases h
        exact kept_update ..
@[simp ↓] theorem dropDeficits_kept (cs) : kept T Q K E (w.dropDeficits cs) = kept T Q K E w := (rfl)
@[simp ↓] theorem sentBytes_kept (part sub svc len) : kept T Q K E (w.sentBytes part sub svc len) = kept T Q K E w := by simp [Work.sentBytes]
@[simp ↓] theorem noRoute_kept (k m) : kept T Q false E (w.noRoute k m) = kept T Q false E w := by simp [Work.noRoute]
@[simp ↓] theorem formMsg_kept (d c k m) : kept T false false E (w.formMsg d c k m) = kept T false false E w := by
  unfold Work.formMsg
  extract_lets +onlyGivenNames i psn
  refine kept_of_ite (breakConn_kept ..) (kept_of_ite (noRoute_kept ..) ?_)
  extract_lets +onlyGivenNames r a payload last h half sends x b c e
  have hb : kept T false false E b = kept T false false E w :=
    (modConn_kept ..).trans ((enqueue_kept ..).trans ((draw_kept ..).trans (useCtx_kept ..)))
  have hc : kept T false false E c = kept T false false E w := (modOut_kept ..).trans hb
  have he : kept T false false E e = kept T false false E w := kept_of_ite ((msgLeft_kept ..).trans hc) hc
  clear_value e
  split
  · extract_lets u
    have hu : kept T false false E u = kept T false false E w := kept_of_ite ((count_kept ..).trans he) he
    exact kept_of_ite hu ((count_kept ..).trans hu)
  · exact he
@[simp ↓] theorem formAck_kept (d c) : kept T Q K E (w.formAck d c) = kept T Q K E w := by simp only [Work.formAck]; split <;> simp
@[simp ↓] theorem placedOn_kept (k h) : kept T false false E (w.placedOn k h) = kept T false false E w := by simp only [Work.placedOn]; (repeat' split) <;> simp
@[simp ↓] theorem unrouted_kept (h) : kept T Q false E (w.unrouted h) = kept T Q false E w := by unfold Work.unrouted; split <;> simp
@[simp ↓] theorem placeWaiting_kept : kept T false false E (w.placeWaiting) = kept T false false E w := by
  unfold Work.placeWaiting
  extract_lets wait
  refine (foldl_kept (fun w u => ?_) _ _).trans (kept_update ..)
  rw [same_iff]
  extract_lets h mask k v
  refine kept_of_ite (unrouted_kept ..) ?_
  have hv : kept T false false E v = kept T false false E w := enqueue_kept ..
  clear_value v
  split
  · exact (placedOn_kept ..).trans hv
  · exact hv
/-! ## Host.lean -/
@[simp ↓] theorem mailAnswer_kept (fn status detail seq) : kept T Q K E (w.mailAnswer fn status detail seq) = kept T Q K E w := (rfl)
@[simp ↓] theorem mailbox_kept (wr op) {act} (h : ∀ w f q s, Same T Q K E w (act w f q s)) : kept T Q K E (w.mailbox wr op act) = kept T Q K E w := by
  grind [Work.mailbox, same_iff, regAction_kept, count_kept, set_kept, mailAnswer_kept]
@[simp ↓] theorem doorbell_kept (fn q) {act} (h : ∀ w, Same T Q K E w (act w)) : kept T Q K E (w.doorbell fn q act) = kept T Q K E w := by
  grind [Work.doorbell, same_iff, count_kept]
@[simp ↓] theorem badDoorbell_kept (fn q off value) : kept T Q K E (w.badDoorbell fn q off value) = kept T Q K E w := by simp [Work.badDoorbell]
@[simp ↓] theorem queueError_kept (q p) : kept T Q K E (w.queueError q p) = kept T Q K E w := by simp [Work.queueError]
@[simp ↓] theorem hostEntry_kept (q e opcode payload) {act} (h : ∀ w x p b, Same T Q K E w (act w x p b)) :
    kept T Q K E (w.hostEntry q e opcode payload act) = kept T Q K E w := by
  grind [Work.hostEntry, same_iff, arrived_kept, completeEntry_kept, readsFailed_kept, hostFetch_kept]
@[simp ↓] theorem entryFails_kept (q e detail) : kept T Q K E (w.entryFails q e detail) = kept T Q K E w := by simp [Work.entryFails]
@[simp ↓] theorem resetFunction_kept (fn mine) : kept T Q K E (w.resetFunction fn mine) = kept T Q K E w := by simp [Work.resetFunction]
@[simp ↓] theorem configRequest_kept {act} (h : ∀ w, Same T Q K E w (act w)) : kept T Q K E (w.configRequest act) = kept T Q K E w := by
  grind [Work.configRequest, same_iff, emit_kept]
@[simp ↓] theorem flushHeld_kept : kept T Q K E (w.flushHeld) = kept T Q K E w := by
  unfold Work.flushHeld
  extract_lets held
  refine (foldl_kept (fun w o => ?_) _ _).trans (kept_update ..)
  split
  · exact hostStore_kept ..
  · exact msixSend_kept ..
@[simp ↓] theorem bar4Refused_kept (fn a) : kept T Q K E (w.bar4Refused fn a) = kept T Q K E w := by simp [Work.bar4Refused]
@[simp ↓] theorem hbmRead_kept (a len) : kept T Q K E (w.hbmRead a len).2 = kept T Q K E w := by simp [Work.hbmRead]
@[simp ↓] theorem exportCheck_kept (a len) : kept T Q false E (w.exportCheck a len).2 = kept T Q false E w := by simp [Work.exportCheck]
@[simp ↓] theorem bulkUsed_kept (len) : kept T Q K E (w.bulkUsed len) = kept T Q K E w := (rfl)
/-! ## BoxOffice.lean -/
@[simp ↓] theorem sign_kept (msg ctx) : kept T Q K E (w.sign msg ctx).2 = kept T Q K E w := (rfl)
@[simp ↓] theorem openMeter_kept (p) : kept T Q K E (w.openMeter p) = kept T Q K E w := (rfl)
@[simp ↓] theorem closeStatement_kept (p final) : kept T Q K E (w.closeStatement p final).2 = kept T Q K E w := by
  unfold Work.closeStatement; split <;> simp
/-! ## Frames.lean -/
@[simp ↓] theorem mgSend_kept (port mac payload) : kept T Q K E (w.mgSend port mac payload) = kept T Q K E w := (rfl)
@[simp ↓] theorem mgRespond_kept (r status body) : kept T Q K E (w.mgRespond r status body) = kept T Q K E w := by simp [Work.mgRespond]
@[simp ↓] theorem mgTake_kept (r cls) {act} (h : ∀ w r, Same T Q K E w (act w r)) : kept T Q K E (w.mgTake r cls act) = kept T Q K E w := by
  unfold Work.mgTake
  extract_lets mine fresh
  have hf (v : Work) : kept T Q K E (fresh v) = kept T Q K E v := by
    exact kept_of_ite (Eq.trans (h ..) (kept_update_mt ..)) ((mgRespond_kept ..).trans (kept_update_mt ..))
  clear_value fresh
  split
  · exact hf _
  · exact kept_of_ite (count_kept ..) (kept_of_ite (kept_of_ite rfl (mgSend_kept ..)) (hf _))
@[simp ↓] theorem mgOrder_kept (f type cls) {act} (h : ∀ w r, Same T Q K E w (act w r)) : kept T Q K E (w.mgOrder f type cls act) = kept T Q K E w := by
  grind [Work.mgOrder, same_iff, mgRespond_kept, count_kept, mgTake_kept]
/-! ## Security.lean -/
@[simp ↓] theorem setPart_kept (p code f) : kept T Q K E (w.setPart p code f) = kept T Q K E w := by
  unfold Work.setPart
  extract_lets +onlyGivenNames v blank st q others
  have hv : kept T Q K E v = kept T Q K E w := (setReady_kept ..).trans (kept_of_ite rfl (set_kept ..))
  clear_value q others
  exact (kept_update_se ..).trans hv
@[simp ↓] theorem partAnswer_kept (status detail seq) : kept T Q K E (w.partAnswer status detail seq) = kept T Q K E w := by simp [Work.partAnswer]
@[simp ↓] theorem partCommand_kept (wr op) {act} (h : ∀ w p s, Same T Q K E w (act w p s)) : kept T Q K E (w.partCommand wr op act) = kept T Q K E w := by
  grind [Work.partCommand, regAction_kept]
@[simp ↓] theorem clearWords_kept (fs inst) : kept T Q K E (w.clearWords fs inst) = kept T Q K E w := by simp [Work.clearWords]
@[simp ↓] theorem attRequest_kept (r) {ready fail} (hr : ∀ w b, Same T Q K E w (ready w b)) (hf : ∀ w b, Same T Q K E w (fail w b)) :
    kept T Q K E (w.attRequest r ready fail) = kept T Q K E w := by
  unfold Work.attRequest
  extract_lets len v
  have hv : kept T Q K E v = kept T Q K E w := hr ..
  clear_value v
  refine kept_of_ite (count_kept ..) (kept_of_ite (Eq.trans (hf ..) ((nameSpan_kept ..).trans hv)) ?_)
  exact (kept_update_se ..).trans (Eq.trans (hf ..) hv)
@[simp ↓] theorem report370_kept (fn scope1 part nonce) : kept T Q K E (w.report370 fn scope1 part nonce).2 = kept T Q K E w := (rfl)
@[simp ↓] theorem portReport_kept (k) : kept T Q K E (w.portReport k) = kept T Q K E w := by unfold Work.portReport; (repeat' split) <;> simp
/-! ## Strike.lean -/
@[simp ↓] theorem strikeEntry_kept (q h) : kept T Q K E (w.strikeEntry q h) = kept T Q K E w := by simp [Work.strikeEntry]
@[simp ↓] theorem strikeQueue_kept (q) : kept T Q K E (w.strikeQueue q) = kept T Q K E w := by simp only [Work.strikeQueue]; (repeat' split) <;> simp
@[simp ↓] theorem endWaiting_kept (i status) : kept T Q K E (w.endWaiting i status) = kept T Q K E w := by
  unfold Work.endWaiting; (repeat' split) <;> simp
@[simp ↓] theorem strikeSessions_kept (p) : kept T Q K E (w.strikeSessions p) = kept T Q K E w := by simp only [Work.strikeSessions]; split <;> simp
@[simp ↓] theorem strikePrefix_kept (p) : kept T Q K E (w.strikePrefix p) = kept T Q K E w := by simp [Work.strikePrefix]
@[simp ↓] theorem strikeQueries_kept (p) : kept T false false E (w.strikeQueries p) = kept T false false E w := by simp [Work.strikeQueries]
@[simp ↓] theorem flushQueues_kept (p) : kept T Q false E (w.flushQueues p) = kept T Q false E w := by simp [Work.flushQueues]
@[simp ↓] theorem cutDrain_kept (p) : kept T Q K E (w.cutDrain p) = kept T Q K E w := by simp [Work.cutDrain]
@[simp ↓] theorem sendNotice_kept (p node body) : kept T Q K E (w.sendNotice p node body) = kept T Q K E w := by
  grind [Work.sendNotice, modStrike_kept, count_kept, sendMsg_kept]
@[simp ↓] theorem clearOwned_kept (part cid owner) : kept T Q K E (w.clearOwned part cid owner).2 = kept T Q K E w := by
  unfold Work.clearOwned; split <;> simp
@[simp ↓] theorem notifyStrike_kept (p r) : kept T Q K E (w.notifyStrike p r) = kept T Q K E w := by simp [Work.notifyStrike]
@[simp ↓] theorem zeroFrames_kept (f n) : kept T Q K E (w.zeroFrames f n).2 = kept T Q K E w := by simp [Work.zeroFrames]
@[simp ↓] theorem zeroBlk_kept (l b) : kept T Q K E (w.zeroBlk l b).2 = kept T Q K E w := by simp [Work.zeroBlk]
@[simp ↓] theorem scrubCourse_kept (p ci) : kept T Q K E (w.scrubCourse p ci) = kept T Q K E w := by unfold Work.scrubCourse; (repeat' split) <;> simp
@[simp ↓] theorem scrubAllot_kept (p f n) : kept T Q K E (w.scrubAllot p f n) = kept T Q K E w := by simp [Work.scrubAllot]
@[simp ↓] theorem scrubSome_kept (p fuel) : kept T Q K E (Work.scrubSome p fuel w) = kept T Q K E w := by
  induction fuel generalizing w with
  | zero => rfl
  | succ n ih =>
    unfold Work.scrubSome
    split
    · extract_lets course
      have hc (ci c) : kept T Q K E (course ci c) = kept T Q K E w :=
        kept_of_ite rfl ((ih _).trans ((scrubCourse_kept ..).trans (modStrike_kept ..)))
      clear_value course
      split
      · exact hc ..
      · exact kept_of_ite rfl ((ih _).trans ((scrubAllot_kept ..).trans (modStrike_kept ..)))
      · split
        · exact hc ..
        · rfl
    · rfl
@[simp ↓] theorem scrubHost_kept (p fuel) : kept T Q K E (Work.scrubHost p fuel w) = kept T Q K E w := by
  induction fuel generalizing w with
  | zero => rfl
  | succ n ih =>
    unfold Work.scrubHost
    split
    · extract_lets cost a b
      have hb : kept T Q K E b = kept T Q K E w := (foldl_kept (fun w b => (pcieOut_kept ..).trans (emit_kept ..)) _ _).trans (modStrike_kept ..)
      exact kept_of_ite rfl ((ih _).trans ((scrubCourse_kept ..).trans hb))
    · rfl
@[simp ↓] theorem resetBlock_kept (b pick) : kept T Q K E (w.resetBlock b pick) = kept T Q K E w := by
  grind [Work.resetBlock, foldl_kept, same_iff, set_kept]
@[simp ↓] theorem dropCopies_kept (p) : kept T Q K E (w.dropCopies p) = kept T Q K E w := by simp [Work.dropCopies]
@[simp ↓] theorem scrubChip_kept (p) : kept T Q K E (w.scrubChip p) = kept T Q K E w := by simp [Work.scrubChip]
@[simp ↓] theorem scrubPart_kept (p spare) : kept T Q K E (w.scrubPart p spare).2 = kept T Q K E w := by simp only [Work.scrubPart]; split <;> simp
@[simp ↓] theorem scrubTick_kept (spare) : kept T Q K E (w.scrubTick spare) = kept T Q K E w := by simp [Work.scrubTick]
@[simp ↓] theorem logPair_kept (b) : kept T Q K E (w.logPair b) = kept T Q K E w := by simp [Work.logPair]
@[simp ↓] theorem noticeAct_kept (src part role e) : kept T Q false E (w.noticeAct src part role e) = kept T Q false E w := by
  simp only [Work.noticeAct]
  (repeat' split) <;> simp
/-! ## Reads.lean -/
@[simp ↓] theorem busRead_kept (fn off) : kept false Q K E (w.busRead fn off).2 = kept false Q K E w := by unfold Work.busRead; (repeat' split) <;> simp
@[simp ↓] theorem readWord_kept (fn place) : kept false Q K E (w.readWord fn place).2 = kept false Q K E w := by unfold Work.readWord; split <;> simp
/-! ## BringUp.lean -/
@[simp ↓] theorem resetPcie_kept : kept T Q K E (w.resetPcie) = kept T Q K E w := by simp [Work.resetPcie]
@[simp ↓] theorem measureRom_kept : kept T Q K E (w.measureRom) = kept T Q K E w := by
  unfold Work.measureRom
  refine kept_of_ite rfl ((kept_update ..).trans ((extendMeas_kept ..).trans (extendMeas_kept ..)))
@[simp ↓] theorem startFirmware_kept (image) : kept T Q K E (w.startFirmware image) = kept T Q K E w := by
  unfold Work.startFirmware
  dsimp only
  split <;> simp
@[simp ↓] theorem showFrames_kept : kept T Q K E (w.showFrames) = kept T Q K E w := (rfl)
@[simp ↓] theorem replaceCluster_kept (bad c) : kept T Q K E (w.replaceCluster bad c) = kept T Q K E w := by
  simp only [Work.replaceCluster]
  (repeat' split) <;> simp
@[simp ↓] theorem replaceBank_kept (bad b) : kept T Q K E (w.replaceBank bad b) = kept T Q K E w := by grind [Work.replaceBank, set_kept, retireBank_kept]
@[simp ↓] theorem replaceBad_kept (bad) : kept T Q K E (w.replaceBad bad) = kept T Q K E w := by
  grind [Work.replaceBad, foldl_kept, same_iff, replaceCluster_kept, replaceBank_kept]
@[simp ↓] theorem activate_kept (c) : kept T Q K E (w.activate c) = kept T Q K E w := by simp [Work.activate]
@[simp ↓] theorem enterFull_kept : kept T Q K E (w.enterFull) = kept T Q K E w := by simp [Work.enterFull]
@[simp ↓] theorem reconcileAll_kept : kept T Q K E (w.reconcileAll) = kept T Q K E w := (rfl)
@[simp ↓] theorem leaveDark_kept (v) : kept T false false E (w.leaveDark v) = kept T false false E w := by simp [Work.leaveDark]
@[simp ↓] theorem advance_kept : kept T false false E (w.advance) = kept T false false E w := by simp [Work.advance]
@[simp ↓] theorem lockIds_kept : kept T Q K E (w.lockIds) = kept T Q K E w := by simp [Work.lockIds]
/-! ## Management.lean -/
@[simp ↓] theorem bmcRefresh_kept : kept T Q K E (w.bmcRefresh) = kept T Q K E w := by simp [Work.bmcRefresh]
@[simp ↓] theorem setMk_kept (hE : E.mgmt = false) (page k raise) : kept T Q K E (w.setMk page k raise) = kept T Q K E w := by
  unfold Work.setMk
  extract_lets e v a b
  exact (log_kept ..).trans ((kept_update_mk _ hE ..).trans ((set_kept ..).trans ((set_kept ..).trans ((set_kept ..).trans (set_kept ..)))))
@[simp ↓] theorem obeyed_kept (r arg) : kept T Q K E (w.obeyed r arg) = kept T Q K E w := by simp [Work.obeyed]
@[simp ↓] theorem takeLease_kept (epoch ms) : kept T false false E (w.takeLease epoch ms) = kept T false false E w := by
  simp only [Work.takeLease]
  split <;> simp
  rw [foldl_kept] <;> simp
  intro w x
  cases w.serviceConn x <;> simp
@[simp ↓] theorem takeover_kept (x) : kept T Q K E (w.takeover x) = kept T Q K E w := by simp [Work.takeover]
@[simp ↓] theorem sliceOrder_kept (r) {act} (h : ∀ w n c v, act w n c = some v → kept T Q K E v = kept T Q K E w) :
    kept T Q K E (w.sliceOrder r act) = kept T Q K E w := by
  grind [Work.sliceOrder, mgRespond_kept, obeyed_kept]
@[simp ↓] theorem chunk_kept (r image data) {act} (h : ∀ w t, Same T Q K E w (act w t)) : kept T Q K E (w.chunk r image data act) = kept T Q K E w := by
  grind [Work.chunk, same_iff, mgRespond_kept]
/-! ## TickSync.lean -/
@[simp ↓] theorem setLock_kept (v) : kept false Q K E (w.setLock v) = kept false Q K E w := by simp [Work.setLock]
@[simp ↓] theorem setSrcIn_kept (b) : kept T Q K E (w.setSrcIn b) = kept T Q K E w := (rfl)
@[simp ↓] theorem clearSrcPort_kept : kept T Q K E (w.clearSrcPort) = kept T Q K E w := by simp [Work.clearSrcPort]
@[simp ↓] theorem takeSource_kept (but) : kept false Q K E (w.takeSource but).2 = kept false Q K E w := by unfold Work.takeSource; split <;> simp
@[simp ↓] theorem seekSource_kept : kept false Q K E (w.seekSource) = kept false Q K E w := by simp [Work.seekSource]
@[simp ↓] theorem loseSource_kept : kept false Q K E (w.loseSource) = kept false Q K E w := by simp [Work.loseSource]
@[simp ↓] theorem badSource_kept (p peerNow) : kept false Q K E (w.badSource p peerNow) = kept false Q K E w := by simp [Work.badSource]
@[simp ↓] theorem setNow_kept (t) : kept false false false E (w.setNow t) = kept false false false E w := (rfl)
@[simp ↓] theorem setOffset_kept (th seen) : kept false Q K E (w.setOffset th seen) = kept false Q K E w := by simp [Work.setOffset]
@[simp ↓] theorem stepBoundary_kept (th) : kept false Q K E (w.stepBoundary th) = kept false Q K E w := by simp [Work.stepBoundary]
@[simp ↓] theorem applyOffset_kept (th seen) : kept false Q K E (w.applyOffset th seen) = kept false Q K E w := by simp [Work.applyOffset]
@[simp ↓] theorem followMark_kept (p h flit) : kept false false false E (w.followMark p h flit) = kept false false false E w := by
  unfold Work.followMark
  extract_lets +onlyGivenNames x tick v
  have hv : kept false false false E v = kept false false false E w := set_kept ..
  clear_value v
  refine kept_of_ite ((badSource_kept ..).trans hv) ?_
  extract_lets +onlyGivenNames u
  have hu : kept false false false E u = kept false false false E w := kept_of_ite ((setNow_kept ..).trans hv) hv
  clear_value u
  extract_lets +onlyGivenNames k mine _ _ _ y nx
  clear_value mine
  have hy : kept false false false E y = kept false false false E w := by
    simp only [y]
    split
    · exact (applyOffset_kept ..).trans ((set_kept ..).trans hu)
    · exact hu
  refine kept_of_ite ?_ hy
  exact (set_kept ..).trans ((set_kept ..).trans ((set_kept ..).trans ((set_kept ..).trans ((kept_update_tk ..).trans hy))))
@[simp ↓] theorem inMissed_kept (t) : kept false Q K E (w.inMissed t) = kept false Q K E w := by simp [Work.inMissed]
@[simp ↓] theorem tickInGone_kept : kept false Q K E (w.tickInGone) = kept false Q K E w := by simp [Work.tickInGone]
/-! ## Boundary.lean -/
@[simp ↓] theorem advanceTick_kept : kept false Q K E (w.advanceTick) = kept false Q K E w := (rfl)
@[simp ↓] theorem heatSheet_kept (s stamp) : kept T Q K E (w.heatSheet s stamp) = kept T Q K E w := by simp [Work.heatSheet]
@[simp ↓] theorem spillsPinned_kept (s) : kept T Q K E (w.spillsPinned s) = kept T Q K E w := by
  grind [Work.spillsPinned, foldl_kept, same_iff, modMove_kept, abandonMove_kept]
@[simp ↓] theorem closeSheet_kept (stamp) : kept T false false E (w.closeSheet stamp) = kept T false false E w := by simp [Work.closeSheet]
@[simp ↓] theorem freezeSheet_kept (ns) : kept T false false E (w.freezeSheet ns) = kept T false false E w := by simp [Work.freezeSheet]
@[simp ↓] theorem sheetBoundary_kept (ns stamp) : kept T false false E (w.sheetBoundary ns stamp) = kept T false false E w := by simp [Work.sheetBoundary]
@[simp ↓] theorem walkPseudo_kept (s) : kept T Q K E (w.walkPseudo s) = kept T Q K E w := by simp [Work.walkPseudo]
@[simp ↓] theorem rowRepair_kept (s) : kept T Q K E (w.rowRepair s) = kept T Q K E w := by simp [Work.rowRepair]
@[simp ↓] theorem marginWalk_kept : kept T Q K E (w.marginWalk) = kept T Q K E w := by simp only [Work.marginWalk]; split <;> simp
@[simp ↓] theorem tickLoads_kept : kept T Q K E (w.tickLoads) = kept T Q K E w := by simp [Work.tickLoads]
@[simp ↓] theorem sendMark_kept (p h) : kept T Q K E (w.sendMark p h) = kept T Q K E w := (rfl)
@[simp ↓] theorem markPorts_kept : kept T Q K E (w.markPorts) = kept T Q K E w := by simp [Work.markPorts]
@[simp ↓] theorem tickOut_kept : kept T Q K E (w.tickOut) = kept T Q K E w := by simp [Work.tickOut]
@[simp ↓] theorem masterBoundary_kept : kept false Q K E (w.masterBoundary) = kept false Q K E w := by simp [Work.masterBoundary]
@[simp ↓] theorem closeBatches_kept (t) : kept T Q K E (w.closeBatches t) = kept T Q K E w := (rfl)
@[simp ↓] theorem reconcileSome_kept : kept T Q K E (w.reconcileSome) = kept T Q K E w := by simp [Work.reconcileSome]
@[simp ↓] theorem freeForeign_kept : kept T Q K E (w.freeForeign) = kept T Q K E w := by
  unfold Work.freeForeign
  refine foldl_kept (fun w e => ?_) _ _
  split
  · refine same_of_ite rfl ?_
    rw [same_iff]
    extract_lets a b c d
    have hd : kept T Q K E d = kept T Q K E w :=
      (log_kept ..).trans ((freeSession_kept ..).trans ((dropHoldings_kept ..).trans ((metaChange_kept ..).trans (dropStaged_kept ..))))
    clear_value d
    split
    · exact (complete_kept ..).trans hd
    · exact hd
  · rfl
@[simp ↓] theorem settleTick_kept : kept T Q K E (w.settleTick) = kept T Q K E w := (rfl)
@[simp ↓] theorem lendTick_kept (reserved) : kept T Q K E (w.lendTick reserved) = kept T Q K E w := (rfl)
@[simp ↓] theorem renewWatchdog_kept : kept T Q K E (w.renewWatchdog) = kept T Q K E w := by simp [Work.renewWatchdog]
/-! ## Clamps.lean -/
@[simp ↓] theorem undoPass_kept (x) : kept T false false E (w.undoPass x) = kept T false false E w := by simp [Work.undoPass]
@[simp ↓] theorem slowPasses_kept (was at_) : kept T false false E (w.slowPasses was at_) = kept T false false E w := by simp [Work.slowPasses]
/-! ## Common.lean -/
@[simp ↓] theorem commonWrite_kept (wr off pfToo) {act} (h : ∀ w p v m, Same T Q K E w (act w p v m)) :
    kept T Q K E (w.commonWrite wr off pfToo act) = kept T Q K E w := by
  grind [Work.commonWrite, same_iff, count_kept]
@[simp ↓] theorem msixWrite_kept (fn dword v) : kept T Q K E (w.msixWrite fn dword v) = kept T Q K E w := by simp [Work.msixWrite]
/-! ## RegisterWrite.lean -/
@[simp ↓] theorem makeHome_kept : kept T Q K E w.makeHome = kept T Q K E w := by
  unfold Work.makeHome
  extract_lets len lo
  split
  · refine kept_of_ite rfl ?_
    extract_lets +onlyGivenNames d base
    split
    next hv => exact (set_kept ..).trans ((kept_update ..).trans ((zero_kept ..).trans ((makeRegion_kept (h := hv)).trans (pick_kept ..))))
    · rfl
  · rfl
@[simp ↓] theorem dropHome_kept : kept T Q K E (w.dropHome) = kept T Q K E w := by unfold Work.dropHome; (repeat' split) <;> simp
@[simp ↓] theorem keepOld_kept (old b inst off idx) : kept T Q K E (w.keepOld old b inst off idx) = kept T Q K E w := by
  grind [Work.keepOld, foldl_kept, same_iff, keep_kept]
@[simp ↓] theorem rangeSet_kept (old p) : kept T Q K E (w.rangeSet old p) = kept T Q K E w := by simp [Work.rangeSet]
@[simp ↓] theorem afterWrite_kept (wr b off) : kept T Q K E (w.afterWrite wr b off) = kept T Q K E w := by simp [Work.afterWrite]
end Sys2Proof.Frame
end


section
/-! What the commands leave of the tick, the keys, the strike count and the frozen counters. -/

namespace Sys2Proof.Frame

open Sys2Proof.Machine Sys2Proof.Safety Sys2Proof.Laws

/-- The command keeps what the measure shows of the node. -/
def Keeps (T : Bool) (E : Keys) (x : State → Host.Outcome State Fault Refusal) : Prop :=
  ∀ s t, x s = .next t → kept T false false E t.view = kept T false false E s.view

variable {T : Bool} {E : Keys}

theorem keeps_run {f : Work → Work} (hf : ∀ w, Same T false false E w (f w)) : Keeps T E fun s => run s f := by
  intro s t h
  cases ha : s.alive with
  | true => cases (run_alive f ha).symm.trans h; exact hf s.view
  | false => cases (run_dead f ha).symm.trans h; rfl

theorem execBudgetExpired_keeps : Keeps T E execBudgetExpired := keeps_run fun w => by simp
theorem execTelemetryTrim_keeps (readings) : Keeps T E (execTelemetryTrim readings) :=
  keeps_run fun w => by
    rw [same_iff]
    refine kept_of_ite rfl ?_
    extract_lets +onlyGivenNames listed powerOf voltsOf failed u v window
    have hv : kept T false false E v = kept T false false E w := by
      refine (foldl_kept (fun w e => ?_) _ _).trans (count_kept ..)
      split
      · exact railRead_kept ..
      · rfl
    clear_value v failed listed window
    split
    · exact kept_of_ite ((log_kept ..).trans ((count_kept ..).trans ((kept_update ..).trans hv)))
        ((count_kept ..).trans ((kept_update ..).trans hv))
    · exact kept_of_ite ((set_kept ..).trans ((kept_update ..).trans ((set_kept ..).trans ((kept_update ..).trans hv))))
        ((set_kept ..).trans ((kept_update ..).trans hv))
theorem execHbmTempRead_keeps (temps) : Keeps T E (execHbmTempRead temps) := keeps_run fun w => by simp
theorem execDroopTrip_keeps (sense) : Keeps T E (execDroopTrip sense) := keeps_run fun w => by simp
theorem execDroopRelease_keeps (die cycles) : Keeps T E (execDroopRelease die cycles) := keeps_run fun w => by simp
theorem execD2dDegraded_keeps (lost) : Keeps T E (execD2dDegraded lost) := keeps_run fun w => by simp
theorem execOpticalRead_keeps (port half reading) : Keeps T E (execOpticalRead port half reading) :=
  keeps_run fun w => by split <;> simp
theorem execCalWrite_keeps (wr) : Keeps T E (execCalWrite wr) := keeps_run fun w => by simp
theorem execCalWriteDone_keeps (programmed) : Keeps T E (execCalWriteDone programmed) := keeps_run fun w => by split <;> simp
theorem execAttend_keeps (src payload at_) : Keeps T E (execAttend src payload at_) := keeps_run fun w => by split <;> simp
theorem execLendPoint_keeps : Keeps T E execLendPoint := keeps_run fun w => by simp
theorem execResultPortTransfer_keeps (slot) : Keeps T E (execResultPortTransfer slot) := keeps_run fun w => by split <;> simp
theorem execComputeCutoff_keeps : Keeps T E execComputeCutoff :=
  keeps_run fun w => by
    rw [same_iff]
    extract_lets sheet
    refine kept_of_ite (kept_update_qa ..) ((kept_update_qa ..).trans ?_)
    refine foldl_kept (fun w e => foldl_kept (fun w sl => ?_) _ _) _ _
    refine (offerResult_kept ..).trans (kept_of_ite rfl ?_)
    split
    · exact count_kept ..
    · rfl
theorem execEgressPhase_keeps : Keeps T E execEgressPhase := keeps_run fun w => by simp
theorem execPartialRecord_keeps (msg record) : Keeps T E (execPartialRecord msg record) := keeps_run fun w => by simp
theorem execCreditRecord_keeps (msg record) : Keeps T E (execCreditRecord msg record) := keeps_run fun w => by simp
theorem execCancelRecord_keeps (msg record) : Keeps T E (execCancelRecord msg record) := keeps_run fun w => by simp
theorem execCollectorDeadline_keeps (part group) : Keeps T E (execCollectorDeadline part group) :=
  keeps_run fun w => by split <;> simp
theorem execCreditWaitExpired_keeps (held) : Keeps T E (execCreditWaitExpired held) := keeps_run fun w => by split <;> simp
theorem execEarlyWaitExpired_keeps (early) : Keeps T E (execEarlyWaitExpired early) := keeps_run fun w => by split <;> simp
theorem execSplTickDecision_keeps : Keeps T E execSplTickDecision :=
  keeps_run fun w => by
    extract_lets +onlyGivenNames n st u v
    have hv : kept T false false E v = kept T false false E w := (defend_kept ..).trans ((set_kept ..).trans (kept_update ..))
    clear_value v
    extract_lets floor avail wants decided grants n1 st1 x heldAt held was n2 st2 y p z
    have hy : kept T false false E y = kept T false false E w := (setFlag_kept ..).trans ((kept_update ..).trans ((kept_update ..).trans hv))
    have hz : kept T false false E z = kept T false false E w := kept_of_ite ((report_kept ..).trans hy) hy
    exact (foldl_kept (fun w e => schedule_kept ..) _ _).trans ((evacuate_kept ..).trans hz)
theorem execHeatDecay_keeps : Keeps T E execHeatDecay := keeps_run fun w => by simp
theorem execMoveCopyDone_keeps (mv res) : Keeps T E (execMoveCopyDone mv res) :=
  keeps_run fun w => by simp only [same_iff]; (repeat' split) <;> simp
theorem execMoveCommit_keeps (mv) : Keeps T E (execMoveCommit mv) := keeps_run fun w => by (repeat' split) <;> simp
theorem execTailPageCopyDone_keeps (read) : Keeps T E (execTailPageCopyDone read) :=
  keeps_run fun w => by simp only [same_iff]; (repeat' split) <;> simp
theorem execHbmUncorrectableError_keeps (addr) : Keeps T E (execHbmUncorrectableError addr) := keeps_run fun w => by simp
theorem execSystemAreaError_keeps (stack off) : Keeps T E (execSystemAreaError stack off) :=
  keeps_run fun w => by simp only [same_iff]; split <;> simp
theorem execDdrUncorrectableError_keeps (loss) : Keeps T E (execDdrUncorrectableError loss) :=
  keeps_run fun w => by split <;> simp
theorem execScrubCorrected_keeps (loc) : Keeps T E (execScrubCorrected loc) := keeps_run fun w => by (repeat' split) <;> simp
theorem execTakeOffline_keeps (wr) : Keeps T E (execTakeOffline wr) := keeps_run fun w => by simp
theorem execBlockDecodeDone_keeps (inst job upset) : Keeps T E (execBlockDecodeDone inst job upset) :=
  keeps_run fun w => by (repeat' split) <;> simp
theorem execXpdRetire_keeps (wr) : Keeps T E (execXpdRetire wr) := keeps_run fun w => by simp
theorem execParityScan_keeps : Keeps T E execParityScan := keeps_run fun w => by simp
theorem execKeystoneBankRebuilt_keeps (bank) : Keeps T E (execKeystoneBankRebuilt bank) := keeps_run fun w => by simp
theorem execMatchPrefix_keeps (src payload) : Keeps T E (execMatchPrefix src payload) :=
  keeps_run fun _ => prefixRequest_kept ..
theorem execPublishBlocks_keeps (src payload) : Keeps T E (execPublishBlocks src payload) :=
  keeps_run fun _ => prefixRequest_kept ..
theorem execRetractBlocks_keeps (src payload) : Keeps T E (execRetractBlocks src payload) :=
  keeps_run fun _ => prefixRequest_kept ..
theorem execPinBlocks_keeps (src payload) : Keeps T E (execPinBlocks src payload) := keeps_run fun _ => prefixRequest_kept ..
theorem execUnpinBlocks_keeps (src payload) : Keeps T E (execUnpinBlocks src payload) :=
  keeps_run fun _ => prefixRequest_kept ..
theorem execPrefixOpStart_keeps : Keeps T E execPrefixOpStart := keeps_run fun w => by split <;> simp
theorem execPrefixOpComplete_keeps : Keeps T E execPrefixOpComplete := keeps_run fun w => by split <;> simp
theorem execPgmFmtValid_keeps (wr) : Keeps T E (execPgmFmtValid wr) := keeps_run fun w => by simp
theorem execOpenSession_keeps (src desc) : Keeps T E (execOpenSession src desc) := keeps_run fun _ => openOp_kept ..
theorem execForkSession_keeps (src desc) : Keeps T E (execForkSession src desc) := keeps_run fun _ => forkOp_kept ..
theorem execForkCopiesLanded_keeps (child) : Keeps T E (execForkCopiesLanded child) := keeps_run fun w => by split <;> simp
theorem execCloseSession_keeps (src desc) : Keeps T E (execCloseSession src desc) := keeps_run fun _ => closeOp_kept ..
theorem execSessionCloseComplete_keeps (idx) : Keeps T E (execSessionCloseComplete idx) :=
  keeps_run fun w => by (repeat' split) <;> simp
theorem execAppendRows_keeps (src payload at_) : Keeps T E (execAppendRows src payload at_) :=
  keeps_run fun w => by split <;> simp
theorem execRowLanded_keeps (die) : Keeps T E (execRowLanded die) :=
  keeps_run fun w => by simp only [same_iff]; (repeat' split) <;> simp
theorem execRetryPass_keeps : Keeps T E execRetryPass :=
  keeps_run fun w => by
    extract_lets all n st v keys
    refine (foldl_kept (fun w k => ?_) _ _).trans (kept_update ..)
    extract_lets mine
    split
    · exact dropStaged_kept ..
    · exact (layerEnd_kept ..).trans (layerPass_kept ..)
theorem execSpareMapWrite_keeps (wr) : Keeps T E (execSpareMapWrite wr) := keeps_run fun w => by simp
theorem execClusterSwapEffect_keeps : Keeps T E execClusterSwapEffect :=
  keeps_run fun w => by
    refine (foldl_kept (fun w p => ?_) _ _).trans (kept_update ..)
    exact (extendFree_kept ..).trans ((log_kept ..).trans ((set_kept ..).trans ((set_kept ..).trans (moveSlot_kept ..))))
theorem execClusterFault_keeps (cluster cause bufOff) : Keeps T E (execClusterFault cluster cause bufOff) :=
  keeps_run fun w => by simp
theorem execClusterBufferUe_keeps (cluster bufOff hit) : Keeps T E (execClusterBufferUe cluster bufOff hit) :=
  keeps_run fun w => by simp only [same_iff]; (repeat' split) <;> simp
theorem execControlCoreFault_keeps (core) : Keeps T E (execControlCoreFault core) := keeps_run fun w => by simp
theorem execCodebookValid_keeps (wr) : Keeps T E (execCodebookValid wr) := keeps_run fun w => by simp
theorem execWeightLoad_keeps (wr) : Keeps T E (execWeightLoad wr) := keeps_run fun w => by simp
theorem execWeightLoadDone_keeps : Keeps T E execWeightLoadDone :=
  keeps_run fun w => by
    rw [same_iff]
    refine kept_of_ite rfl ?_
    extract_lets +onlyGivenNames addr u fail
    have hu : kept T false false E u = kept T false false E w := set_kept ..
    have hf (w : Work) (e) : kept T false false E (fail w e) = kept T false false E w := (report_kept ..).trans (set_kept ..)
    clear_value u fail
    split
    · exact (hf ..).trans ((nameSpan_kept ..).trans hu)
    · extract_lets +onlyGivenNames pkg v x
      have hx : kept T false false E x = kept T false false E w := by
        simp only [x]
        split
        · exact (decodePackage_kept ..).trans hu
        · exact hu
      clear_value x
      split
      · exact (hf ..).trans hx
      · exact (extendMeas_kept ..).trans ((showStores_kept ..).trans ((set_kept ..).trans ((kept_update ..).trans hx)))
theorem execClusterPass_keeps (slot work) : Keeps T E (execClusterPass slot work) :=
  keeps_run fun w => by
    split
    · dsimp only
      split
      · rfl
      · simp
        rw [foldl_kept]
        · simp
          rw [foldl_keeps (fun a : Work × Nat => kept T false false E a.1)]
          intro b x
          split <;> simp
        · intro w k
          (repeat' split) <;> simp
    · rfl
theorem execLpEnable_keeps (wr) : Keeps T E (execLpEnable wr) := keeps_run fun w => by simp
theorem execLpRetrain_keeps (wr) : Keeps T E (execLpRetrain wr) := keeps_run fun w => by simp
theorem execForceSwap_keeps (wr) : Keeps T E (execForceSwap wr) := keeps_run fun w => by simp
theorem execLaneSignalDetect_keeps (port half lanes) : Keeps T E (execLaneSignalDetect port half lanes) :=
  keeps_run fun w => by simp
theorem execLanesConverged_keeps (port half failed) : Keeps T E (execLanesConverged port half failed) :=
  keeps_run fun w => by (repeat' split) <;> simp
theorem execTrainTimeout_keeps (port half) : Keeps T E (execTrainTimeout port half) := keeps_run fun w => by simp
theorem execLanesDeskewed_keeps (port seen) : Keeps T E (execLanesDeskewed port seen) :=
  keeps_run fun w => by simp only [same_iff]; split <;> simp
theorem execHelloTimer_keeps (port half) : Keeps T E (execHelloTimer port half) := keeps_run fun w => by simp
theorem execHelloTimeout_keeps (port half) : Keeps T E (execHelloTimeout port half) := keeps_run fun w => by simp
theorem execHardLaneFailure_keeps (port lane) : Keeps T E (execHardLaneFailure port lane) :=
  keeps_run fun w => by split <;> simp
theorem execAlignmentRound_keeps (port half blocks corrected spareOk) :
    Keeps T E (execAlignmentRound port half blocks corrected spareOk) :=
  keeps_run fun w => by
    rw [same_iff]
    extract_lets +onlyGivenNames x round sent
    refine kept_of_ite rfl (kept_of_ite ((emit_kept ..).trans (modHalf_kept ..)) ?_)
    extract_lets +onlyGivenNames total a lo hi d b c e f
    have ha : kept T false false E c = kept T false false E w :=
      (modHalf_kept ..).trans ((endPeriod_kept ..).trans ((count_kept ..).trans ((count_kept ..).trans ((draw_kept ..).trans (count_kept ..)))))
    have he : kept T false false E e = kept T false false E w := by
      simp only [e]
      split
      · exact kept_of_ite ((takeSwap_kept ..).trans ha) ha
      · exact ha
    have hf : kept T false false E f = kept T false false E w := (emit_kept ..).trans he
    refine kept_of_ite ?_ hf
    split
    · exact (askSwap_kept ..).trans hf
    · exact hf
theorem execSwapReq_keeps (port half flit) : Keeps T E (execSwapReq port half flit) := keeps_run fun w => by simp
theorem execSwapAck_keeps (port half flit) : Keeps T E (execSwapAck port half flit) := keeps_run fun w => by simp
theorem execLinkUnitReceived_keeps (port half words first) : Keeps T E (execLinkUnitReceived port half words first) :=
  keeps_run fun w => by (repeat' split) <;> simp
theorem execCodewordUncorrectable_keeps (port half word units) : Keeps T E (execCodewordUncorrectable port half word units) :=
  keeps_run fun w => by simp
theorem execCreditFlit_keeps (port half flit) : Keeps T E (execCreditFlit port half flit) := keeps_run fun w => by simp
theorem execLaneScan_keeps (port lane v h berCl) : Keeps T E (execLaneScan port lane v h berCl) :=
  keeps_run fun w => by simp only [same_iff]; (repeat' split) <;> simp
theorem execHomeWaitExpired_keeps (session) : Keeps T E (execHomeWaitExpired session) := keeps_run fun w => by split <;> simp
theorem execLeaseExpired_keeps : Keeps T E execLeaseExpired := keeps_run fun w => by split <;> simp
theorem execOrphanTimeout_keeps (session) : Keeps T E (execOrphanTimeout session) := keeps_run fun w => by split <;> simp
theorem execMirrorEnable_keeps (wr) : Keeps T E (execMirrorEnable wr) := keeps_run fun w => by simp
theorem execMirrorBatchSend_keeps (part blocks) : Keeps T E (execMirrorBatchSend part blocks) :=
  keeps_run fun w => by simp only [same_iff]; (repeat' split) <;> simp
theorem execCommitOp_keeps (src desc) : Keeps T E (execCommitOp src desc) := keeps_run fun _ => commitOp_kept ..
theorem execCommitWaitExpired_keeps (src) : Keeps T E (execCommitWaitExpired src) :=
  keeps_run fun w => by (repeat' split) <;> simp
theorem execSliceSeeded_keeps (part cid) : Keeps T E (execSliceSeeded part cid) :=
  keeps_run fun w => by (repeat' split) <;> simp
theorem execMirrorAckLate_keeps (part) : Keeps T E (execMirrorAckLate part) :=
  keeps_run fun w => by simp only [same_iff]; split <;> simp
theorem execMirrorStreamLost_keeps (part) : Keeps T E (execMirrorStreamLost part) := keeps_run fun w => by split <;> simp
theorem execMirrorReseedTimer_keeps (part) : Keeps T E (execMirrorReseedTimer part) := keeps_run fun w => by split <;> simp
theorem execRestoreFetchSend_keeps (course) : Keeps T E (execRestoreFetchSend course) :=
  keeps_run fun w => by simp only [same_iff]; (repeat' split) <;> simp
theorem execCompressorBlockEmitted_keeps (die job blk bytes corrupt) : Keeps T E (execCompressorBlockEmitted die job blk bytes corrupt) :=
  keeps_run fun w => by split <;> simp
theorem execMirrorOp_keeps (conn msn head body) : Keeps T E (execMirrorOp conn msn head body) :=
  keeps_run fun w => by simp only [same_iff]; (repeat' split) <;> simp
theorem execShaperReconfigure_keeps (wr) : Keeps T E (execShaperReconfigure wr) := keeps_run fun w => by simp
theorem execMeterReconfigure_keeps (wr) : Keeps T E (execMeterReconfigure wr) := keeps_run fun w => by simp
theorem execPacketReceived_keeps (port half packet) : Keeps T E (execPacketReceived port half packet) :=
  keeps_run fun w => by simp only [same_iff]; (repeat' split) <;> simp
theorem execWriteOp_keeps (pkt) : Keeps T E (execWriteOp pkt) :=
  keeps_run fun w => accessPart_kept w _ _ fun c m => by simp only [same_iff]; (repeat' split) <;> simp
theorem execReadOp_keeps (pkt) : Keeps T E (execReadOp pkt) :=
  keeps_run fun w => accessPart_kept w _ _ fun c m => by simp only [same_iff]; (repeat' split) <;> simp
theorem execCasOp_keeps (pkt) : Keeps T E (execCasOp pkt) :=
  keeps_run fun w => accessPart_kept w _ _ fun c m => by simp only [same_iff]; (repeat' split) <;> simp
theorem execSendHostQueue_keeps (conn msn queue bytes) : Keeps T E (execSendHostQueue conn msn queue bytes) :=
  keeps_run fun w => msgActs_kept w _ _ _ _ fun w c => by (repeat' split) <;> simp
theorem execFenceOp_keeps (conn msn bytes) : Keeps T E (execFenceOp conn msn bytes) := keeps_run fun w => by simp
theorem execNoticeOp_keeps (conn msn bytes) : Keeps T E (execNoticeOp conn msn bytes) := keeps_run fun w => by simp
theorem execResponseOp_keeps (pkt) : Keeps T E (execResponseOp pkt) :=
  keeps_run fun w => by simp only [same_iff]; (repeat' split) <;> simp
theorem execAckOp_keeps (conn bytes) : Keeps T E (execAckOp conn bytes) :=
  keeps_run fun w => by grind [same_iff, foldl_kept, count_kept, finishMsg_kept, packetAcked_kept, modConn_kept]
theorem execAckDelayExpired_keeps (conn) : Keeps T E (execAckDelayExpired conn) := keeps_run fun _ => modConn_kept ..
theorem execReorderExpired_keeps (conn psn) : Keeps T E (execReorderExpired conn psn) := keeps_run fun w => by split <;> simp
theorem execRtoExpired_keeps (conn psn) : Keeps T E (execRtoExpired conn psn) := keeps_run fun w => by split <;> simp
theorem execProbeExpired_keeps (conn msn) : Keeps T E (execProbeExpired conn msn) := keeps_run fun w => by split <;> simp
theorem execInstallConn_keeps (src desc) : Keeps T E (execInstallConn src desc) := keeps_run fun _ => installOp_kept ..
theorem execRekeyConn_keeps (src desc) : Keeps T E (execRekeyConn src desc) := keeps_run fun _ => rekeyOp_kept ..
theorem execRekeyOverlapExpired_keeps (conn) : Keeps T E (execRekeyOverlapExpired conn) := keeps_run fun _ => modConn_kept ..
theorem execRemoveConn_keeps (src desc) : Keeps T E (execRemoveConn src desc) := keeps_run fun _ => removeOp_kept ..
theorem execConnectionFreed_keeps (conn) : Keeps T E (execConnectionFreed conn) := keeps_run fun w => by split <;> simp
theorem execContextFetchDone_keeps (conn entry) : Keeps T E (execContextFetchDone conn entry) :=
  keeps_run fun w => by
    rw [same_iff]
    split
    · rfl
    · refine kept_of_ite rfl (kept_of_ite ?_ ?_)
      · exact (runHeld_kept ..).trans ((ksInsertConn_kept ..).trans ((hostFetch_kept ..).trans (count_kept ..)))
      · split
        · rfl
        next hs =>
          extract_lets +onlyGivenNames v
          have hv : kept T false false E v = kept T false false E w :=
            (hostFetch_kept ..).trans ((count_kept ..).trans (takeHotSlot_kept (h := hs)))
          clear_value v
          refine kept_of_ite ?_ ((runHeld_kept ..).trans ((ksInsertConn_kept ..).trans ((modConn_kept ..).trans hv)))
          exact (count_kept ..).trans ((breakConn_kept ..).trans ((modConn_kept ..).trans ((report_kept ..).trans ((count_kept ..).trans hv))))
theorem execRegionCreate_keeps (src desc) : Keeps T E (execRegionCreate src desc) := keeps_run fun _ => createOp_kept ..
theorem execRegionAdvance_keeps (src desc) : Keeps T E (execRegionAdvance src desc) := keeps_run fun w => by simp
theorem execRegionDestroy_keeps (src desc) : Keeps T E (execRegionDestroy src desc) := keeps_run fun w => by simp
theorem execRegionDrainDone_keeps (part index) : Keeps T E (execRegionDrainDone part index) :=
  keeps_run fun w => by (repeat' split) <;> simp
theorem execSchedulerDecision_keeps : Keeps T E execSchedulerDecision :=
  keeps_run fun w => by
    rw [same_iff]
    refine kept_of_ite rfl ?_
    extract_lets +onlyGivenNames u cs v
    have hv : kept T false false E v = kept T false false E w := kept_of_ite ((count_kept ..).trans (placeWaiting_kept ..)) (placeWaiting_kept ..)
    clear_value v
    split
    · exact (dropDeficits_kept ..).trans hv
    next x hd =>
      have hx : kept T false false E x = kept T false false E w := (schedDecide_kept (h := hd)).trans ((dropDeficits_kept ..).trans hv)
      split
      · exact hx
      · extract_lets a b c
        have hb : kept T false false E b = kept T false false E w := by
          have ha : kept T false false E a = kept T false false E w := (sentBytes_kept ..).trans ((count_kept ..).trans hx)
          exact kept_of_ite ((count_kept ..).trans ha) ha
        refine (dropDeficits_kept ..).trans ?_
        simp only [c]
        split
        · exact (formAck_kept ..).trans hb
        · split
          · exact (formMsg_kept ..).trans hb
          · exact hb
theorem execPortUnitStart_keeps (port half) : Keeps T E (execPortUnitStart port half) :=
  keeps_run fun w => by
    split
    · rfl
    · extract_lets +onlyGivenNames k q x shp first passes head
      obtain ⟨head', eh⟩ : ∃ h, h = head := ⟨head, rfl⟩
      rw [← eh]
      clear eh head passes first
      extract_lets +onlyGivenNames es ds n sc v
      have hv : Same T false false E w v := rfl
      obtain ⟨v', ev⟩ : ∃ v', v' = v := ⟨v, rfl⟩
      obtain ⟨rr, er⟩ : ∃ r, r = roundRobin (v'.get Reg.SCH_QUANTUM) es ds (numN k v'.n.sc.portTurn) := ⟨_, rfl⟩
      rw [← ev] at hv ⊢
      extract_lets +onlyGivenNames others n1 sc1 pick

      have hp : ∀ r ∈ pick, Same T false false E w r.2 := by
        simp only [pick]
        rw [← er]
        cases head' 0 with
        | some u => rintro r ⟨⟩; exact hv
        | none =>
          cases rr with
          | none => rintro r ⟨⟩
          | some c =>
            intro r hr
            obtain ⟨u, -, rfl⟩ := Option.map_eq_some_iff.1 hr
            exact hv
      obtain ⟨p, ep⟩ : ∃ p, p = pick := ⟨pick, rfl⟩
      rw [← ep] at hp ⊢
      clear ep pick er ev v
      cases p with
      | none => exact hv
      | some r =>
        have hr := hp r rfl
        obtain ⟨u, x⟩ := r
        rw [same_iff] at hr ⊢
        simpa using hr
theorem execQueueEnable_keeps (wr) : Keeps T E (execQueueEnable wr) := keeps_run fun w => by simp
theorem execQueueDisable_keeps (wr) : Keeps T E (execQueueDisable wr) := keeps_run fun w => by simp
theorem execQueueReset_keeps (wr) : Keeps T E (execQueueReset wr) := keeps_run fun w => by simp
theorem execQueueDrained_keeps (q) : Keeps T E (execQueueDrained q) :=
  keeps_run fun w => by simp only [same_iff]; (repeat' split) <;> simp
theorem execSqTail_keeps (fn q value) : Keeps T E (execSqTail fn q value) := keeps_run fun w => by simp
theorem execCqHead_keeps (fn q value) : Keeps T E (execCqHead fn q value) := keeps_run fun w => by simp
theorem execSqEntryFetched_keeps (q entry) : Keeps T E (execSqEntryFetched q entry) :=
  keeps_run fun w => by (repeat' split) <;> simp
theorem execHostSession_keeps (q entry payload) : Keeps T E (execHostSession q entry payload) :=
  keeps_run fun w => hostEntry_kept w _ _ _ _ fun w x p b => by split <;> simp
theorem execHostAttend_keeps (q entry payload at_) : Keeps T E (execHostAttend q entry payload at_) :=
  keeps_run fun w => by simp
theorem execHostAppend_keeps (q entry payload at_) : Keeps T E (execHostAppend q entry payload at_) :=
  keeps_run fun w => by simp
theorem execHostConn_keeps (q entry payload) : Keeps T E (execHostConn q entry payload) :=
  keeps_run fun w => hostEntry_kept w _ _ _ _ fun w x p b => by split <;> simp
theorem execHostRegion_keeps (q entry payload) : Keeps T E (execHostRegion q entry payload) :=
  keeps_run fun w => hostEntry_kept w _ _ _ _ fun w x p b => by split <;> simp
theorem execHostMsg_keeps (q entry payload) : Keeps T E (execHostMsg q entry payload) :=
  keeps_run fun w => hostEntry_kept w _ _ _ _ fun w x p b => by grind [same_iff, modOut_kept, arrive_kept, sendMsg_kept,
    entryFails_kept, hostEntry_kept]
theorem execHostCopy_keeps (q entry payload) : Keeps T E (execHostCopy q entry payload) :=
  keeps_run fun w => hostEntry_kept w _ _ _ _ fun w x p b => by grind [same_iff, resultStore_kept, completeEntry_kept,
    chargePool_kept, hostEntry_kept]
theorem execHostRecv_keeps (q entry) : Keeps T E (execHostRecv q entry) := keeps_run fun w => by simp
theorem execHostNop_keeps (q entry) : Keeps T E (execHostNop q entry) := keeps_run fun w => by simp
theorem execWaitTicksExpired_keeps (q entry) : Keeps T E (execWaitTicksExpired q entry) :=
  keeps_run fun w => by simp only [same_iff]; split <;> simp
theorem execCoalNsExpired_keeps (q) : Keeps T E (execCoalNsExpired q) := keeps_run fun w => by simp
theorem execFunctionReset_keeps (fn) : Keeps T E (execFunctionReset fn) := keeps_run fun w => by split <;> simp
theorem execBusMasterEnableChange_keeps (on) : Keeps T E (execBusMasterEnableChange on) := keeps_run fun w => by simp
theorem execBar4Read_keeps (fn off len uncorrectable) : Keeps T E (execBar4Read fn off len uncorrectable) :=
  keeps_run fun w => by grind [same_iff, hbmRead_kept, exportCheck_kept, bulkUsed_kept, bar4Refused_kept, emit_kept]
theorem execBar4Write_keeps (fn off bytes) : Keeps T E (execBar4Write fn off bytes) := keeps_run fun w => by simp
theorem execUsageSample_keeps : Keeps T E execUsageSample := keeps_run fun w => by simp
theorem execUsageStatementClose_keeps : Keeps T E execUsageStatementClose := keeps_run fun w => by simp
theorem execPartCreate_keeps (wr) : Keeps T E (execPartCreate wr) :=
  keeps_run fun w => partCommand_kept w _ _ fun w p s => by
    simp only [same_iff]
    refine kept_of_ite (by simp) (kept_of_ite (by simp) (kept_of_ite (by simp) (kept_of_ite (by simp) ?_)))
    split
    · simp
    · exact kept_of_ite (by simp) (by simp)
theorem execInstallKey_keeps (wr) : Keeps T E (execInstallKey wr) :=
  keeps_run fun w => partCommand_kept w _ _ fun w p s => by
    split
    · simp
    split
    · extract_lets wrapped u
      have hu : Same T false false E w u := by simp only [u]; rw [same_iff, clearWords_kept]
      split
      · exact hu.trans (by rw [same_iff, partAnswer_kept, unwrapFailed_kept])
      · extract_lets k v x
        have hx : Same T false false E u x := by
          simp only [x, k]
          rw [same_iff, set_kept, set_kept, setPart_kept]
        exact (hu.trans hx).trans (by rw [same_iff, partAnswer_kept, extendFree_kept, set_kept])
    · simp
theorem execFkekWrite_keeps (hE : E.fkek = false) (wr) : Keeps T E (execFkekWrite wr) :=
  keeps_run fun w => regAction_kept w _ _ _ fun w i j => by
    rw [same_iff]
    refine kept_of_ite rfl ((extendFree_kept ..).trans ((kept_update_fkek _ hE ..).trans ((log_kept ..).trans ((set_kept ..).trans ?_))))
    exact (set_kept ..).trans ((set_kept ..).trans (clearWords_kept ..))
theorem execExtGo_keeps (wr) : Keeps T E (execExtGo wr) := keeps_run fun w => by simp
theorem execAttGo_keeps (wr) : Keeps T E (execAttGo wr) := keeps_run fun w => by simp
theorem execAttestReportWritten_keeps : Keeps T E execAttestReportWritten :=
  keeps_run fun w => by simp only [same_iff]; (repeat' split) <;> simp
theorem execPartStrike_keeps (hE : E.strikes = false) (wr) : Keeps T E (execPartStrike wr) :=
  keeps_run fun w => partCommand_kept w _ _ fun w p s => by
    rw [same_iff]
    refine kept_of_ite (partAnswer_kept ..) (kept_of_ite (partAnswer_kept ..) ?_)
    extract_lets id r
    refine (partAnswer_kept ..).trans ((extendFree_kept ..).trans ((kept_update ..).trans ?_))
    refine (foldl_kept (fun w m => abandonMove_kept ..) _ _).trans ?_
    refine (foldl_kept (fun w q => same_of_ite (strikeQueue_kept ..) rfl) _ _).trans ?_
    refine (flushQueues_kept ..).trans ((strikeSessions_kept ..).trans ((strikePrefix_kept ..).trans ((strikeQueries_kept ..).trans ?_)))
    refine (modMeter_kept ..).trans ((isr_kept ..).trans ((log_kept ..).trans ((set_kept ..).trans ((set_kept ..).trans ?_))))
    exact (setPart_kept ..).trans (kept_update_strikes _ hE ..)
theorem execStrikeDrainEnd_keeps (part) : Keeps T E (execStrikeDrainEnd part) := keeps_run fun w => by split <;> simp
theorem execScrubComplete_keeps (part) : Keeps T E (execScrubComplete part) := keeps_run fun w => by split <;> simp
theorem execStrikePublish_keeps (part) : Keeps T E (execStrikePublish part) := keeps_run fun w => by split <;> simp
theorem execStrikeNotice_keeps (conn msn bytes) : Keeps T E (execStrikeNotice conn msn bytes) :=
  keeps_run fun w => msgActs_kept w _ _ _ _ fun w c => by simp
theorem execLatchingRegisterRead_keeps (fn place len) : Keeps false E (execLatchingRegisterRead fn place len) :=
  keeps_run fun w => by simp
theorem execPerstAssert_keeps : Keeps T E execPerstAssert := keeps_run fun w => by simp
theorem execPerstRelease_keeps : Keeps T E execPerstRelease := keeps_run fun w => by simp
theorem execPcieLinkTrained_keeps (speed width) : Keeps T E (execPcieLinkTrained speed width) := keeps_run fun w => by simp
theorem execPcieRefclkLost_keeps : Keeps T E execPcieRefclkLost := keeps_run fun w => by simp
theorem execPcieRefclkReturn_keeps : Keeps T E execPcieRefclkReturn := keeps_run fun w => by simp
theorem execSriovVfEnable_keeps (num) : Keeps T E (execSriovVfEnable num) := keeps_run fun w => by simp
theorem execSerdesclkLost_keeps (clk) : Keeps T E (execSerdesclkLost clk) := keeps_run fun w => by simp
theorem execSerdesclkReturn_keeps (clk) : Keeps T E (execSerdesclkReturn clk) := keeps_run fun w => by simp
theorem execBootImageVerified_keeps (image) : Keeps T E (execBootImageVerified image) :=
  keeps_run fun w => by simp only [same_iff]; (repeat' split) <;> simp
theorem execD2dTrained_keeps (ok) : Keeps T E (execD2dTrained ok) :=
  keeps_run fun w => by
    split
    · rfl
    · split
      · simp
      · extract_lets u v d
        have hv : Same T false false E w v := by
          simp only [v, u]
          rw [same_iff, loadCal_kept, setReady_kept, set_kept, set_kept]
        exact (hv.trans (extendMeas_kept ..)).trans (same_set ..)
theorem same_ppr (w : Work) (p) : Same T false false E w { w with ppr := p } := rfl
theorem execDdrTrainingDone_keeps (chans) : Keeps T E (execDdrTrainingDone chans) :=
  keeps_run fun w => by
    split
    · rfl
    · extract_lets +onlyGivenNames v
      refine Same.trans (same_foldl (fun w i => ?_) _ _) (same_set ..)
      split
      · rfl
      · extract_lets +onlyGivenNames ok a b c
        have hc : Same T false false E w c := by
          simp only [c, b, a]
          rw [same_iff, setReady_kept, setEnable_kept, setFlag_kept, setFlag_kept, set_kept, set_kept, set_kept]
        obtain ⟨v', ev⟩ : ∃ v', v' = c := ⟨c, rfl⟩
        rw [← ev] at hc ⊢
        clear ev c
        extract_lets d e
        have he : Same T false false E w e := by
          simp only [e, d]
          exact (same_of_ite (hc.trans (same_ppr ..)) hc).trans (same_set ..)
        exact same_of_ite (he.trans (report_kept ..)) he
theorem execHbmRoundDone_keeps (failed) : Keeps T E (execHbmRoundDone failed) := keeps_run fun w => by simp
theorem execSelftestDone_keeps (part bad) : Keeps T E (execSelftestDone part bad) :=
  keeps_run fun w => by
    rw [same_iff]
    split
    · refine kept_of_ite rfl ((set_kept ..).trans ((foldl_kept (fun w c => ?_) _ _).trans (replaceBad_kept ..)))
      exact (set_kept ..).trans (activate_kept ..)
    · exact kept_of_ite rfl ((kept_update ..).trans ((set_kept ..).trans (replaceBad_kept ..)))
theorem execReadyReached_keeps : Keeps T E execReadyReached := keeps_run fun w => by simp
theorem execPromotionBoundary_keeps : Keeps T E execPromotionBoundary := keeps_run fun w => by simp
theorem execGlbIdLock_keeps (wr) : Keeps T E (execGlbIdLock wr) := keeps_run fun w => by simp
theorem execManagementLinkChange_keeps (port up) : Keeps T E (execManagementLinkChange port up) :=
  keeps_run fun w => by
    rw [same_iff]
    extract_lets +onlyGivenNames named begun turn may
    exact kept_of_ite rfl ((kept_update ..).trans ((setReady_kept ..).trans (setFlag_kept ..)))
theorem execWatchdogWarning_keeps : Keeps T E execWatchdogWarning := keeps_run fun w => by simp
theorem execWatchdogExpired_keeps (core) : Keeps T E (execWatchdogExpired core) := keeps_run fun w => by simp
theorem execStatusOrder_keeps (f) : Keeps T E (execStatusOrder f) := keeps_run fun w => by simp
theorem execSetMk_keeps (hE : E.mgmt = false) (f) : Keeps T E (execSetMk f) :=
  keeps_run fun w => mgOrder_kept w _ _ _ fun w r => by
    rw [same_iff]
    extract_lets new
    clear_value new
    split
    · exact mgRespond_kept ..
    · exact (mgRespond_kept ..).trans (setMk_kept _ hE ..)
theorem execMkWrite_keeps (hE : E.mgmt = false) (wr) : Keeps T E (execMkWrite wr) :=
  keeps_run fun w => regAction_kept w _ _ _ fun w i j => kept_of_ite rfl ((setMk_kept _ hE ..).trans (clearWords_kept ..))
theorem execSetIds_keeps (f) : Keeps T E (execSetIds f) := keeps_run fun w => by simp
theorem execBudgetOrder_keeps (f) : Keeps T E (execBudgetOrder f) := keeps_run fun w => by simp
theorem execLeaseOrder_keeps (f) : Keeps T E (execLeaseOrder f) := keeps_run fun w => by simp
theorem execFenceOrder_keeps (f) : Keeps T E (execFenceOrder f) := keeps_run fun w => by simp
theorem execFenceMinOrder_keeps (f) : Keeps T E (execFenceMinOrder f) := keeps_run fun w => by simp
theorem execTakeoverOrder_keeps (f) : Keeps T E (execTakeoverOrder f) := keeps_run fun w => by simp
theorem execReconcileOrder_keeps (f) : Keeps T E (execReconcileOrder f) := keeps_run fun w => by simp
theorem execAdoptOrder_keeps (f) : Keeps T E (execAdoptOrder f) :=
  keeps_run fun w => mgOrder_kept w _ _ _ fun w r => sliceOrder_kept w _ fun w n c v h => by
    obtain ⟨x, -, rfl⟩ := Option.map_eq_some_iff.1 h
    simp
theorem execDiscardOrder_keeps (f) : Keeps T E (execDiscardOrder f) :=
  keeps_run fun w => mgOrder_kept w _ _ _ fun w r => by grind [same_iff, foldl_kept, putIn_kept, endHomeRun_kept,
    dropHoldings_kept, freeSession_kept, sliceOrder_kept, mgOrder_kept]
theorem execReadReg_keeps (f) : Keeps false E (execReadReg f) := keeps_run fun w => by simp
theorem execAttestOrder_keeps (f) : Keeps T E (execAttestOrder f) :=
  keeps_run fun w => mgOrder_kept w _ _ _ fun w r => by simp only [same_iff]; (repeat' split) <;> simp
theorem execCalRead_keeps (f) : Keeps T E (execCalRead f) := keeps_run fun w => by simp
theorem execLogRead_keeps (f) : Keeps T E (execLogRead f) := keeps_run fun w => by simp
theorem execUsageOrder_keeps (f) : Keeps T E (execUsageOrder f) :=
  keeps_run fun w => mgOrder_kept w _ _ _ fun w r => by simp only [same_iff]; split <;> simp
theorem execTakenListOrder_keeps (f) : Keeps T E (execTakenListOrder f) := keeps_run fun w => by simp
theorem execImageStreamIdle_keeps : Keeps T E execImageStreamIdle := keeps_run fun w => by split <;> simp
theorem execDebugToken_keeps (f) : Keeps T E (execDebugToken f) := keeps_run fun w => by simp
theorem execDebugClear_keeps (f) : Keeps T E (execDebugClear f) := keeps_run fun w => by simp
theorem execHelloFlit_keeps (port half flit) : Keeps false E (execHelloFlit port half flit) := keeps_run fun w => by simp
theorem execTickMark_keeps (port half flit arrive) : Keeps false E (execTickMark port half flit arrive) :=
  keeps_run fun w => by simp
theorem execTickSourceLost_keeps (why) : Keeps false E (execTickSourceLost why) := keeps_run fun w => by simp
theorem execTickSwitchWrite_keeps (wr) : Keeps false E (execTickSwitchWrite wr) := keeps_run fun w => by simp
theorem execPeriodSwitch_keeps : Keeps false E execPeriodSwitch := keeps_run fun w => by simp
theorem execTickLoad_keeps (wr) : Keeps false E (execTickLoad wr) := keeps_run fun w => by simp
theorem execTickInEdge_keeps (dev) : Keeps false E (execTickInEdge dev) := keeps_run fun w => by simp
theorem execTickInLost_keeps : Keeps false E execTickInLost := keeps_run fun _ => tickInGone_kept ..
theorem execTickBoundary_keeps : Keeps false E execTickBoundary := keeps_run fun w => by simp
theorem execPowerEstimate_keeps (counts0 counts1 temps) : Keeps T E (execPowerEstimate counts0 counts1 temps) :=
  keeps_run fun w => by simp only [same_iff]; (repeat' split) <;> simp
theorem execSoftReset_keeps (hE : E.frozen = false) (wr) : Keeps T E (execSoftReset wr) :=
  keeps_run fun w => commonWrite_kept w _ _ _ fun w p d m => by
    have hv : kept T false false E (if bitOf d 1 then w.softResetPage p else w) = kept T false false E w :=
      kept_of_ite (softResetPage_kept ..) rfl
    exact kept_of_ite ((freezePage_kept _ hE ..).trans hv) hv
theorem execFreezeWrite_keeps (hE : E.frozen = false) (wr) : Keeps T E (execFreezeWrite wr) :=
  keeps_run fun w => commonWrite_kept w _ _ _ fun w p d m => by
    have hv : kept T false false E (if bitOf d 1 then w.softResetPage p else w) = kept T false false E w :=
      kept_of_ite (softResetPage_kept ..) rfl
    exact kept_of_ite ((freezePage_kept _ hE ..).trans hv) hv
theorem execBlkIsrClear_keeps (wr) : Keeps T E (execBlkIsrClear wr) := keeps_run fun w => by simp
theorem execBlkIset_keeps (wr) : Keeps T E (execBlkIset wr) := keeps_run fun w => by simp
theorem execBlkIerWrite_keeps (wr) : Keeps T E (execBlkIerWrite wr) := keeps_run fun w => by simp
theorem execHoldoffExpired_keeps (fn vector) : Keeps T E (execHoldoffExpired fn vector) := keeps_run fun w => by split <;> simp
theorem execMsixUnmask_keeps (fn vector) : Keeps T E (execMsixUnmask fn vector) := keeps_run fun w => by simp
theorem execRegisterWrite_keeps (wr) : Keeps T E (execRegisterWrite wr) :=
  keeps_run fun w => by simp only [same_iff]; (repeat' split) <;> simp
theorem secCtrl_kept (w : Work) (wr) : kept T false false E (w.secCtrl wr) = kept T false false E w := by
  refine regAction_kept w _ _ _ fun w i j => ?_
  rw [same_iff]
  extract_lets u v
  have hu : kept T false false E u = kept T false false E w := kept_of_ite (set_kept ..) rfl
  exact kept_of_ite ((log_kept ..).trans ((kept_update ..).trans hu)) hu
theorem execFkekLock_keeps (wr) : Keeps T E (execFkekLock wr) := keeps_run fun w => secCtrl_kept w wr
theorem execSvnCommit_keeps (wr) : Keeps T E (execSvnCommit wr) := keeps_run fun w => secCtrl_kept w wr

end Sys2Proof.Frame
end


section
namespace Sys2Proof.Frame

open Sys2Proof.Machine Sys2Proof.Safety Sys2Proof.Laws

/-- Every command that resets no node keeps what the measure shows, the tick unless it is one of the tick's, and each of the keys, the
strike count and the frozen counters unless it is a command of theirs. -/
theorem exec_keeps {T : Bool} {E : Keys} {c : Instr} (hr : resetsNode c = false) (hT : movesTick c = true → T = false)
    (hf : (∃ wr, c = .fkekWrite wr) → E.fkek = false) (hm : ((∃ f, c = .setMk f) ∨ ∃ wr, c = .mkWrite wr) → E.mgmt = false)
    (hs : (∃ wr, c = .partStrike wr) → E.strikes = false)
    (hz : (∃ wr, c = .freezeWrite wr ∨ c = .softReset wr) → E.frozen = false) : Keeps T E (exec c) := by
  intro s t h
  cases c with
  | imageWrite => cases hr
  | resetOrder => cases hr
  | warmReset => cases hr
  | watchdogWarmReset => cases hr
  | pwrgoodRise => cases hr
  | pwrgoodFall => cases hr
  | thermtrip => cases hr
  | sysclkLost => cases hr
  | tickBoundary => cases hT rfl; exact execTickBoundary_keeps s t h
  | computeCutoff => exact execComputeCutoff_keeps s t h
  | egressPhase => exact execEgressPhase_keeps s t h
  | retryPass => exact execRetryPass_keeps s t h
  | lendPoint => exact execLendPoint_keeps s t h
  | splTickDecision => exact execSplTickDecision_keeps s t h
  | heatDecay => exact execHeatDecay_keeps s t h
  | moveCopyDone => exact execMoveCopyDone_keeps _ _ s t h
  | moveCommit => exact execMoveCommit_keeps _ s t h
  | tailPageCopyDone => exact execTailPageCopyDone_keeps _ s t h
  | hbmUncorrectableError => exact execHbmUncorrectableError_keeps _ s t h
  | ddrUncorrectableError => exact execDdrUncorrectableError_keeps _ s t h
  | systemAreaError => exact execSystemAreaError_keeps _ _ s t h
  | scrubCorrected => exact execScrubCorrected_keeps _ s t h
  | takeOffline => exact execTakeOffline_keeps _ s t h
  | pgmFmtValid => exact execPgmFmtValid_keeps _ s t h
  | openSession => exact execOpenSession_keeps _ _ s t h
  | forkSession => exact execForkSession_keeps _ _ s t h
  | forkCopiesLanded => exact execForkCopiesLanded_keeps _ s t h
  | closeSession => exact execCloseSession_keeps _ _ s t h
  | sessionCloseComplete => exact execSessionCloseComplete_keeps _ s t h
  | appendRows => exact execAppendRows_keeps _ _ _ s t h
  | rowLanded => exact execRowLanded_keeps _ s t h
  | matchPrefix => exact execMatchPrefix_keeps _ _ s t h
  | publishBlocks => exact execPublishBlocks_keeps _ _ s t h
  | retractBlocks => exact execRetractBlocks_keeps _ _ s t h
  | pinBlocks => exact execPinBlocks_keeps _ _ s t h
  | unpinBlocks => exact execUnpinBlocks_keeps _ _ s t h
  | prefixOpStart => exact execPrefixOpStart_keeps s t h
  | prefixOpComplete => exact execPrefixOpComplete_keeps s t h
  | parityScan => exact execParityScan_keeps s t h
  | keystoneBankRebuilt => exact execKeystoneBankRebuilt_keeps _ s t h
  | spareMapWrite => exact execSpareMapWrite_keeps _ s t h
  | clusterSwapEffect => exact execClusterSwapEffect_keeps s t h
  | clusterFault => exact execClusterFault_keeps _ _ _ s t h
  | clusterBufferUe => exact execClusterBufferUe_keeps _ _ _ s t h
  | controlCoreFault => exact execControlCoreFault_keeps _ s t h
  | clusterPass => exact execClusterPass_keeps _ _ s t h
  | resultPortTransfer => exact execResultPortTransfer_keeps _ s t h
  | codebookValid => exact execCodebookValid_keeps _ s t h
  | weightLoad => exact execWeightLoad_keeps _ s t h
  | weightLoadDone => exact execWeightLoadDone_keeps s t h
  | attend => exact execAttend_keeps _ _ _ s t h
  | partialRecord => exact execPartialRecord_keeps _ _ s t h
  | creditRecord => exact execCreditRecord_keeps _ _ s t h
  | cancelRecord => exact execCancelRecord_keeps _ _ s t h
  | collectorDeadline => exact execCollectorDeadline_keeps _ _ s t h
  | creditWaitExpired => exact execCreditWaitExpired_keeps _ s t h
  | earlyWaitExpired => exact execEarlyWaitExpired_keeps _ s t h
  | compressorBlockEmitted => exact execCompressorBlockEmitted_keeps _ _ _ _ _ s t h
  | blockDecodeDone => exact execBlockDecodeDone_keeps _ _ _ s t h
  | xpdRetire => exact execXpdRetire_keeps _ s t h
  | lpEnable => exact execLpEnable_keeps _ s t h
  | lpRetrain => exact execLpRetrain_keeps _ s t h
  | forceSwap => exact execForceSwap_keeps _ s t h
  | laneSignalDetect => exact execLaneSignalDetect_keeps _ _ _ s t h
  | lanesConverged => exact execLanesConverged_keeps _ _ _ s t h
  | trainTimeout => exact execTrainTimeout_keeps _ _ s t h
  | lanesDeskewed => exact execLanesDeskewed_keeps _ _ s t h
  | helloFlit => cases hT rfl; exact execHelloFlit_keeps _ _ _ s t h
  | helloTimer => exact execHelloTimer_keeps _ _ s t h
  | helloTimeout => exact execHelloTimeout_keeps _ _ s t h
  | hardLaneFailure => exact execHardLaneFailure_keeps _ _ s t h
  | alignmentRound => exact execAlignmentRound_keeps _ _ _ _ _ s t h
  | swapReq => exact execSwapReq_keeps _ _ _ s t h
  | swapAck => exact execSwapAck_keeps _ _ _ s t h
  | linkUnitReceived => exact execLinkUnitReceived_keeps _ _ _ _ s t h
  | codewordUncorrectable => exact execCodewordUncorrectable_keeps _ _ _ _ s t h
  | creditFlit => exact execCreditFlit_keeps _ _ _ s t h
  | tickMark => cases hT rfl; exact execTickMark_keeps _ _ _ _ s t h
  | tickSourceLost => cases hT rfl; exact execTickSourceLost_keeps _ s t h
  | tickSwitchWrite => cases hT rfl; exact execTickSwitchWrite_keeps _ s t h
  | periodSwitch => cases hT rfl; exact execPeriodSwitch_keeps s t h
  | tickLoad => cases hT rfl; exact execTickLoad_keeps _ s t h
  | tickInEdge => cases hT rfl; exact execTickInEdge_keeps _ s t h
  | tickInLost => cases hT rfl; exact execTickInLost_keeps s t h
  | installConn => exact execInstallConn_keeps _ _ s t h
  | rekeyConn => exact execRekeyConn_keeps _ _ s t h
  | removeConn => exact execRemoveConn_keeps _ _ s t h
  | rekeyOverlapExpired => exact execRekeyOverlapExpired_keeps _ s t h
  | connectionFreed => exact execConnectionFreed_keeps _ s t h
  | contextFetchDone => exact execContextFetchDone_keeps _ _ s t h
  | packetReceived => exact execPacketReceived_keeps _ _ _ s t h
  | writeOp => exact execWriteOp_keeps _ s t h
  | readOp => exact execReadOp_keeps _ s t h
  | casOp => exact execCasOp_keeps _ s t h
  | sendHostQueue => exact execSendHostQueue_keeps _ _ _ _ s t h
  | strikeNotice => exact execStrikeNotice_keeps _ _ _ s t h
  | fenceOp => exact execFenceOp_keeps _ _ _ s t h
  | noticeOp => exact execNoticeOp_keeps _ _ _ s t h
  | responseOp => exact execResponseOp_keeps _ s t h
  | ackOp => exact execAckOp_keeps _ _ s t h
  | ackDelayExpired => exact execAckDelayExpired_keeps _ s t h
  | reorderExpired => exact execReorderExpired_keeps _ _ s t h
  | rtoExpired => exact execRtoExpired_keeps _ _ s t h
  | probeExpired => exact execProbeExpired_keeps _ _ s t h
  | regionCreate => exact execRegionCreate_keeps _ _ s t h
  | regionAdvance => exact execRegionAdvance_keeps _ _ s t h
  | regionDestroy => exact execRegionDestroy_keeps _ _ s t h
  | regionDrainDone => exact execRegionDrainDone_keeps _ _ s t h
  | schedulerDecision => exact execSchedulerDecision_keeps s t h
  | portUnitStart => exact execPortUnitStart_keeps _ _ s t h
  | shaperReconfigure => exact execShaperReconfigure_keeps _ s t h
  | meterReconfigure => exact execMeterReconfigure_keeps _ s t h
  | queueEnable => exact execQueueEnable_keeps _ s t h
  | queueDisable => exact execQueueDisable_keeps _ s t h
  | queueReset => exact execQueueReset_keeps _ s t h
  | queueDrained => exact execQueueDrained_keeps _ s t h
  | sqTail => exact execSqTail_keeps _ _ _ s t h
  | cqHead => exact execCqHead_keeps _ _ _ s t h
  | sqEntryFetched => exact execSqEntryFetched_keeps _ _ s t h
  | hostSession => exact execHostSession_keeps _ _ _ s t h
  | hostAttend => exact execHostAttend_keeps _ _ _ _ s t h
  | hostAppend => exact execHostAppend_keeps _ _ _ _ s t h
  | hostConn => exact execHostConn_keeps _ _ _ s t h
  | hostRegion => exact execHostRegion_keeps _ _ _ s t h
  | hostMsg => exact execHostMsg_keeps _ _ _ s t h
  | hostCopy => exact execHostCopy_keeps _ _ _ s t h
  | hostRecv => exact execHostRecv_keeps _ _ s t h
  | hostNop => exact execHostNop_keeps _ _ s t h
  | waitTicksExpired => exact execWaitTicksExpired_keeps _ _ s t h
  | coalNsExpired => exact execCoalNsExpired_keeps _ s t h
  | functionReset => exact execFunctionReset_keeps _ s t h
  | perstAssert => exact execPerstAssert_keeps s t h
  | busMasterEnableChange => exact execBusMasterEnableChange_keeps _ s t h
  | bar4Read => exact execBar4Read_keeps _ _ _ _ s t h
  | bar4Write => exact execBar4Write_keeps _ _ _ s t h
  | partCreate => exact execPartCreate_keeps _ s t h
  | partStrike => exact execPartStrike_keeps (hs ⟨_, rfl⟩) _ s t h
  | installKey => exact execInstallKey_keeps _ s t h
  | strikeDrainEnd => exact execStrikeDrainEnd_keeps _ s t h
  | scrubComplete => exact execScrubComplete_keeps _ s t h
  | strikePublish => exact execStrikePublish_keeps _ s t h
  | fkekWrite => exact execFkekWrite_keeps (hf ⟨_, rfl⟩) _ s t h
  | fkekLock => exact execFkekLock_keeps _ s t h
  | svnCommit => exact execSvnCommit_keeps _ s t h
  | extGo => exact execExtGo_keeps _ s t h
  | attGo => exact execAttGo_keeps _ s t h
  | attestReportWritten => exact execAttestReportWritten_keeps s t h
  | mirrorEnable => exact execMirrorEnable_keeps _ s t h
  | mirrorBatchSend => exact execMirrorBatchSend_keeps _ _ s t h
  | mirrorOp => exact execMirrorOp_keeps _ _ _ _ s t h
  | sliceSeeded => exact execSliceSeeded_keeps _ _ s t h
  | mirrorAckLate => exact execMirrorAckLate_keeps _ s t h
  | mirrorStreamLost => exact execMirrorStreamLost_keeps _ s t h
  | mirrorReseedTimer => exact execMirrorReseedTimer_keeps _ s t h
  | restoreFetchSend => exact execRestoreFetchSend_keeps _ s t h
  | commitOp => exact execCommitOp_keeps _ _ s t h
  | commitWaitExpired => exact execCommitWaitExpired_keeps _ s t h
  | homeWaitExpired => exact execHomeWaitExpired_keeps _ s t h
  | leaseExpired => exact execLeaseExpired_keeps s t h
  | orphanTimeout => exact execOrphanTimeout_keeps _ s t h
  | powerEstimate => exact execPowerEstimate_keeps _ _ _ s t h
  | telemetryTrim => exact execTelemetryTrim_keeps _ s t h
  | hbmTempRead => exact execHbmTempRead_keeps _ s t h
  | droopTrip => exact execDroopTrip_keeps _ s t h
  | laneScan port lane v x berCl => exact execLaneScan_keeps port lane v x berCl s t h
  | opticalRead => exact execOpticalRead_keeps _ _ _ s t h
  | calWrite => exact execCalWrite_keeps _ s t h
  | calWriteDone => exact execCalWriteDone_keeps _ s t h
  | budgetOrder => exact execBudgetOrder_keeps _ s t h
  | budgetExpired => exact execBudgetExpired_keeps s t h
  | bootImageVerified image => exact execBootImageVerified_keeps image s t h
  | d2dTrained => exact execD2dTrained_keeps _ s t h
  | ddrTrainingDone => exact execDdrTrainingDone_keeps _ s t h
  | hbmRoundDone => exact execHbmRoundDone_keeps _ s t h
  | selftestDone => exact execSelftestDone_keeps _ _ s t h
  | readyReached => exact execReadyReached_keeps s t h
  | promotionBoundary => exact execPromotionBoundary_keeps s t h
  | glbIdLock => exact execGlbIdLock_keeps _ s t h
  | watchdogExpired => exact execWatchdogExpired_keeps _ s t h
  | serdesclkLost => exact execSerdesclkLost_keeps _ s t h
  | pcieRefclkLost => exact execPcieRefclkLost_keeps s t h
  | d2dDegraded => exact execD2dDegraded_keeps _ s t h
  | statusOrder => exact execStatusOrder_keeps _ s t h
  | setMk => exact execSetMk_keeps (hm (.inl ⟨_, rfl⟩)) _ s t h
  | setIds => exact execSetIds_keeps _ s t h
  | leaseOrder => exact execLeaseOrder_keeps _ s t h
  | fenceOrder => exact execFenceOrder_keeps _ s t h
  | fenceMinOrder => exact execFenceMinOrder_keeps _ s t h
  | takeoverOrder => exact execTakeoverOrder_keeps _ s t h
  | reconcileOrder => exact execReconcileOrder_keeps _ s t h
  | adoptOrder => exact execAdoptOrder_keeps _ s t h
  | discardOrder => exact execDiscardOrder_keeps _ s t h
  | readReg => cases hT rfl; exact execReadReg_keeps _ s t h
  | attestOrder => exact execAttestOrder_keeps _ s t h
  | calRead => exact execCalRead_keeps _ s t h
  | logRead => exact execLogRead_keeps _ s t h
  | usageOrder => exact execUsageOrder_keeps _ s t h
  | takenListOrder => exact execTakenListOrder_keeps _ s t h
  | imageStreamIdle => exact execImageStreamIdle_keeps s t h
  | debugToken => exact execDebugToken_keeps _ s t h
  | debugClear => exact execDebugClear_keeps _ s t h
  | mkWrite => exact execMkWrite_keeps (hm (.inr ⟨_, rfl⟩)) _ s t h
  | usageSample => exact execUsageSample_keeps s t h
  | usageStatementClose => exact execUsageStatementClose_keeps s t h
  | softReset => exact execSoftReset_keeps (hz ⟨_, .inr rfl⟩) _ s t h
  | freezeWrite => exact execFreezeWrite_keeps (hz ⟨_, .inl rfl⟩) _ s t h
  | blkIsrClear => exact execBlkIsrClear_keeps _ s t h
  | blkIset => exact execBlkIset_keeps _ s t h
  | blkIerWrite => exact execBlkIerWrite_keeps _ s t h
  | holdoffExpired => exact execHoldoffExpired_keeps _ _ s t h
  | registerWrite => exact execRegisterWrite_keeps _ s t h
  | managementLinkChange => exact execManagementLinkChange_keeps _ _ s t h
  | perstRelease => exact execPerstRelease_keeps s t h
  | pcieLinkTrained => exact execPcieLinkTrained_keeps _ _ s t h
  | serdesclkReturn => exact execSerdesclkReturn_keeps _ s t h
  | pcieRefclkReturn => exact execPcieRefclkReturn_keeps s t h
  | droopRelease => exact execDroopRelease_keeps _ _ s t h
  | watchdogWarning => exact execWatchdogWarning_keeps s t h
  | latchingRegisterRead => cases hT rfl; exact execLatchingRegisterRead_keeps _ _ _ s t h
  | msixUnmask => exact execMsixUnmask_keeps _ _ s t h
  | sriovVfEnable => exact execSriovVfEnable_keeps _ s t h

/-- With only the tick shown, what is kept is the tick. -/
theorem tick_of_kept {E : Keys} {w w' : Work} (h : kept true false false E w' = kept true false false E w) : w'.n.tk = w.n.tk :=
  Option.some.inj (congrArg Prod.fst h)

/-- What is shown is kept. -/
theorem shown_of_kept {T : Bool} {E : Keys} {w w' : Work} (h : kept T false false E w' = kept T false false E w) :
    shown E.fkek w'.n.se.fkek = shown E.fkek w.n.se.fkek ∧ shown E.mgmt w'.n.mt.key = shown E.mgmt w.n.mt.key ∧
      shown E.strikes w'.n.se.strikeCount = shown E.strikes w.n.se.strikeCount ∧ shown E.frozen w'.n.frozen = shown E.frozen w.n.frozen := by
  simp only [kept, Prod.mk.injEq] at h
  obtain ⟨-, -, -, hf, hm, hs, hz⟩ := h
  exact ⟨hf, hm, hs, hz⟩

/-- Settles O59: each clause is what every other command keeps, at the measure that shows the one thing. -/
theorem onlyTheirOwnCommandsMoveTheTickAndTheKeys : Obligations.OnlyTheirOwnCommandsMoveTheTickAndTheKeys := by
  unfold Obligations.OnlyTheirOwnCommandsMoveTheTickAndTheKeys
  refine ⟨fun c s t h hr ht => ?_, fun c s t h hr hne => ?_, fun c s t h hr hne => ?_, fun c s t h hr hne => ?_, fun c s t h hr hne => ?_⟩
  · have hk : Keeps true ⟨false, false, false, false⟩ (exec c) :=
      exec_keeps hr (fun h => absurd h (by simp [ht])) (fun _ => rfl) (fun _ => rfl) (fun _ => rfl) (fun _ => rfl)
    exact tick_of_kept (hk s t h)
  · by_contra hc
    have hk : Keeps false ⟨true, false, false, false⟩ (exec c) :=
      exec_keeps hr (fun _ => rfl) (fun h => absurd h hc) (fun _ => rfl) (fun _ => rfl) (fun _ => rfl)
    exact hne (Option.some.inj (shown_of_kept (hk s t h)).1)
  · by_contra hc
    have hk : Keeps false ⟨false, true, false, false⟩ (exec c) :=
      exec_keeps hr (fun _ => rfl) (fun _ => rfl) (fun h => absurd h hc) (fun _ => rfl) (fun _ => rfl)
    exact hne (Option.some.inj (shown_of_kept (hk s t h)).2.1)
  · by_contra hc
    have hk : Keeps false ⟨false, false, true, false⟩ (exec c) :=
      exec_keeps hr (fun _ => rfl) (fun _ => rfl) (fun _ => rfl) (fun h => absurd h hc) (fun _ => rfl)
    exact hne (Option.some.inj (shown_of_kept (hk s t h)).2.2.1)
  · by_contra hc
    have hk : Keeps false ⟨false, false, false, true⟩ (exec c) :=
      exec_keeps hr (fun _ => rfl) (fun _ => rfl) (fun _ => rfl) (fun _ => rfl) (fun h => absurd h hc)
    exact hne (Option.some.inj (shown_of_kept (hk s t h)).2.2.2)

end Sys2Proof.Frame
end

section
/-!
A command of the list that stores nothing may end a host request, whose completion entry goes to the host's memory: MIRROR_ACK_LATE finds
that the understudy's service connection is gone, the stream ends, and its waiting commits end MIRROR_UNAVAILABLE (R315, R385).
-/

namespace Sys2Proof.Steps

open Sys2Proof.Machine Sys2Proof.Safety Sys2Proof.Laws Sys2Proof.Tests

/-- A stream with no service connection to its understudy, and a commit of host queue 5 that waits for it. -/
def commitWaits : State :=
  let s := busOn (queued 1 0 0)
  withMi s { s.node.mi with streams := [{ anyStream with batches := [], waits := [⟨.queue 5 0, 9, 0, 0, [], none⟩] }] }

/-- The first byte of the completion entry: the commit's tag. -/
theorem commitWaits_entry : (match exec (.mirrorAckLate 1) commitWaits with | .next t => byteAt t (hostKey 0) | _ => 0) = 9 := by decide

/-- Refutes O60: MIRROR_ACK_LATE ends a waiting commit of a host queue, whose completion entry is written to host memory (R316, R385). -/
theorem not_commandsThatStoreNothingLeaveMemory : ¬ Obligations.CommandsThatStoreNothingLeaveMemory := by
  unfold Obligations.CommandsThatStoreNothingLeaveMemory
  intro h
  obtain ⟨t, ht, -⟩ := everyCommandEndsAndKeepsTheQueue (.mirrorAckLate 1) commitWaits
  have hsame : byteAt t (hostKey 0) = byteAt commitWaits (hostKey 0) := h _ _ t _ rfl ht (.inr (by decide))
  have hentry := commitWaits_entry
  rw [ht] at hentry
  exact absurd (hentry.symm.trans hsame) (by decide)

end Sys2Proof.Steps
end

section
/-!
What a command keeps of the registers of bring-up and of the node's state: the keys of page 0 that only resets, bring-up and the orders of
the management ports write, and the memory writes, the bring-up state and the fence. Flags say whether NODE_STATE, the bring-up state with the
fence, and the memory writes are shown too.
-/

namespace Sys2Proof.Wide

open Sys2Proof.Machine Sys2Proof.Safety Sys2Proof.Laws Sys2Proof.Frame

/-- The key of a register of page 0 that holds the node's stage: GLB_BRINGUP to GLB_STRAPS, and GLB_CORE. -/
def Stage (k : Nat) : Prop := k / 2 ^ 37 = 0 ∧ (0x104 ≤ k / 32 % 4096 ∧ k / 32 % 4096 < 0x140 ∨ k / 32 % 4096 = 0x148)

/-- The key of GLB_STATE's fields. -/
def StateKey (k : Nat) : Prop := k / 2 ^ 37 = 0 ∧ k / 32 % 4096 = 0x100

/-- What the view has written at the keys of a class. -/
def written (C : Nat → Prop) (w : Work) : {k // C k} → Option (Nat × Nat × Nat) := fun k => w.rw.find? fun e => e.1 = k.1

/-- With `N` the node's state, with `B` the bring-up state and the fence, with `M` the memory writes. -/
def wide (N B M : Bool) (w : Work) :=
  (w.regs, w.wiped, written Stage w, shown N (written StateKey w), shown B (w.n.bo, w.n.mi.fenced), shown M w.wr)

/-- `w'` keeps what the measure shows of `w`. -/
def SameW (N B M : Bool) (w w' : Work) : Prop := wide N B M w' = wide N B M w

@[simp] theorem sameW_iff {N B M : Bool} (w w' : Work) : SameW N B M w w' ↔ wide N B M w' = wide N B M w := ⟨id, id⟩

/-- A field off the registers of the node's stage and state. -/
def Aside (f : Fld) : Bool :=
  decide (f.off < 4096 ∧ f.lo < 32 ∧ (f.blk.page ≠ 0 ∨ f.off < 0x100 ∨ 0x140 ≤ f.off ∧ f.off ≠ 0x148))

theorem aside_not_key {f : Fld} (h : Aside f) (i j : Nat) : ¬ Stage (f.key i j) ∧ ¬ StateKey (f.key i j) := by
  obtain ⟨ho, hl, hp⟩ := of_decide_eq_true h
  have hk := key_off f i j ho hl
  have hq : f.blk.page ≠ 0 → f.key i j / 2 ^ 37 ≠ 0 := by unfold Fld.key; omega
  refine ⟨?_, ?_⟩
  · rintro ⟨h0, h1⟩; rw [hk] at h1; have := mt hq (not_not.2 h0); omega
  · rintro ⟨h0, h1⟩; rw [hk] at h1; have := mt hq (not_not.2 h0); omega

theorem written_set {C : Nat → Prop} (w : Work) (f : Fld) (v i j : Nat) (h : ¬ C (f.key i j)) :
    written C (w.set f v i j) = written C w := by
  funext k
  exact sameAt_set w f v i j fun e => h (e ▸ k.2)


/-! ## What the measure says of a key, and of the rest of the view -/

section
variable {N B M : Bool} {a b : Work}

theorem SameW.trans {c : Work} (h : SameW N B M a b) (g : SameW N B M b c) : SameW N B M a c := Eq.trans g h

theorem SameW.regs (h : SameW N B M a b) : b.regs = a.regs := congrArg (·.1) h

theorem SameW.wiped (h : SameW N B M a b) : b.wiped = a.wiped := congrArg (·.2.1) h

theorem SameW.sameAt (h : SameW N B M a b) {k : Nat} (hk : Stage k) : SameAt k a b :=
  congrFun (congrArg (·.2.2.1) h : written Stage b = written Stage a) ⟨k, hk⟩

theorem SameW.sameAt_state (h : SameW true B M a b) {k : Nat} (hk : StateKey k) : SameAt k a b :=
  congrFun (Option.some.inj (congrArg (·.2.2.2.1) h) : written StateKey b = written StateKey a) ⟨k, hk⟩

theorem SameW.bo (h : SameW N true M a b) : b.n.bo = a.n.bo ∧ b.n.mi.fenced = a.n.mi.fenced :=
  Prod.ext_iff.1 (Option.some.inj (congrArg (·.2.2.2.2.1) h))

theorem SameW.wr (h : SameW N B true a b) : b.wr = a.wr := Option.some.inj (congrArg (·.2.2.2.2.2) h)

/-- With the node's stage not written, its registers read alike. -/
theorem SameW.get (h : SameW N B M a b) {f : Fld} {i j : Nat} (hk : Stage (f.key i j)) : b.get f i j = a.get f i j :=
  (h.sameAt hk).get h.regs

theorem SameW.get_state (h : SameW true B M a b) {f : Fld} {i j : Nat} (hk : StateKey (f.key i j)) : b.get f i j = a.get f i j :=
  (h.sameAt_state hk).get h.regs

theorem SameW.rd {s : State} (hs : RegFile.wf s.regs = true) {w : Work} (h : SameW N B M s.view w) {f : Fld} {i j : Nat}
    (hk : Stage (f.key i j)) : Safety.rd (s.close w) f i j = Safety.rd s f i j :=
  (h.sameAt hk).rd hs h.wiped

theorem SameW.rd_state {s : State} (hs : RegFile.wf s.regs = true) {w : Work} (h : SameW true B M s.view w) {f : Fld} {i j : Nat}
    (hk : StateKey (f.key i j)) : Safety.rd (s.close w) f i j = Safety.rd s f i j :=
  (h.sameAt_state hk).rd hs h.wiped
end

/-! ## Updates, choices and folds -/

section
variable {N B M : Bool} (w : Work)

@[simp ↓] theorem wide_update (n : Node) (mem : Mem) (svn : Nat) (ppr : List (Nat × Nat)) :
    wide N false M { w with n := n, mem := mem, svn := svn, ppr := ppr } = wide N false M w := rfl

@[simp ↓] theorem wide_update_wr (n : Node) (mem : Mem) (wr : List MemOp) (svn : Nat) (ppr : List (Nat × Nat)) :
    wide N false false { w with n := n, mem := mem, wr := wr, svn := svn, ppr := ppr } = wide N false false w := rfl

section
variable (tk : TickBox) (st : Store) (pg : Pager) (ks : Keystone) (cl : Clusters) (qa : Admission) (cp : Compress) (lk : Links)
  (tp : Transport) (hq : HostIf) (sc : Sched) (se : Security) (pw : Power) (mt : Mgmt) (holdoffs : List Holdoff)
  (frozen : List (Nat × List (Nat × Nat))) (log : List LogEntry) (logSeq : Nat) (out : List Out) (acting : List Acting) (fresh : Nat)
  (mem : Mem) (svn : Nat) (ppr : List (Nat × Nat)) (streams : List Stream) (inStreams : List InStream) (homeOps : List HomeRun)
  (rows : Nat) (restores : List (Nat × Tick)) (lease : Option Nat) (ordered : Bool) (recon : List Nat) (taken : Bytes)
  (dataIn : List DataIn) (metaIn : List (Nat × Nat × Bytes)) (replies : List (Nat × RestoreReply)) (table : Option Nat)

@[simp ↓] theorem wide_update_n : wide N B M { w with
    n := { tk := tk, st := st, pg := pg, ks := ks, cl := cl, qa := qa, cp := cp, lk := lk, tp := tp, hq := hq, sc := sc, se := se
           mi := { streams := streams, inStreams := inStreams, homeOps := homeOps, rowsThisTick := rows, restores := restores
                   leaseEndPs := lease, fenceOrdered := ordered, fenced := w.n.mi.fenced, recon := recon, takenList := taken
                   dataIn := dataIn, metaIn := metaIn, replies := replies, homeTable := table }
           pw := pw, bo := w.n.bo, mt := mt, holdoffs := holdoffs, frozen := frozen, log := log, logSeq := logSeq, out := out
           acting := acting, fresh := fresh }
    mem := mem, svn := svn, ppr := ppr } = wide N B M w := rfl

@[simp ↓] theorem wide_update_node : wide N B M { w with
    n := { tk := tk, st := st, pg := pg, ks := ks, cl := cl, qa := qa, cp := cp, lk := lk, tp := tp, hq := hq, sc := sc, se := se
           mi := w.n.mi, pw := pw, bo := w.n.bo, mt := mt, holdoffs := holdoffs, frozen := frozen, log := log, logSeq := logSeq
           out := out, acting := acting, fresh := fresh }
    mem := mem, svn := svn, ppr := ppr } = wide N B M w := rfl
end

@[simp ↓] theorem wide_ite (c : Prop) [Decidable c] (a b : Work) :
    wide N B M (if c then a else b) = if c then wide N B M a else wide N B M b := apply_ite ..

theorem wide_of_ite {c : Prop} [Decidable c] {a b v : Work} (ha : wide N B M a = wide N B M v) (hb : wide N B M b = wide N B M v) :
    wide N B M (if c then a else b) = wide N B M v := by
  split <;> assumption

@[simp ↓] theorem foldl_wide {α : Type} {f : Work → α → Work} (h : ∀ w x, SameW N B M w (f w x)) (l : List α) (w : Work) :
    wide N B M (l.foldl f w) = wide N B M w :=
  foldl_keeps (wide N B M) h l w

@[simp ↓] theorem snd_foldl_wide {α β : Type} {f : β × Work → α → β × Work} (h : ∀ a x, SameW N B M a.2 (f a x).2) (l : List α)
    (a : β × Work) : wide N B M (l.foldl f a).2 = wide N B M a.2 :=
  foldl_keeps (fun a : β × Work => wide N B M a.2) h l a

/-! ## Shared operations -/

@[simp ↓] theorem set_wide (f v i j) (h : Aside f) : wide N B M (w.set f v i j) = wide N B M w := by
  have hn := aside_not_key h i j
  simp only [wide, written_set _ _ _ _ _ hn.1, written_set _ _ _ _ _ hn.2, set_regs, set_wiped, set_n, set_wr]

/-- A field of GLB_STATE. -/
def StateFld (f : Fld) : Bool := decide (f.off = 0x100 ∧ f.lo < 32)

@[simp ↓] theorem set_state_wide (f v i j) (h : StateFld f) : wide false B M (w.set f v i j) = wide false B M w := by
  obtain ⟨ho, hl⟩ := of_decide_eq_true h
  have hk := key_off f i j (by omega) hl
  have hn : ¬ Stage (f.key i j) := by unfold Stage; omega
  simp [wide, shown, written_set _ _ _ _ _ hn]

@[simp ↓] theorem setFlag_wide (f b i j) (h : Aside f) : wide N B M (w.setFlag f b i j) = wide N B M w := set_wide w f _ i j h
@[simp ↓] theorem count_wide (f v i j) (h : Aside f) : wide N B M (w.count f v i j) = wide N B M w := set_wide w f _ i j h
@[simp ↓] theorem store_wide (a bs) : wide N B false (w.store a bs) = wide N B false w := rfl
@[simp ↓] theorem zero_wide (a len) : wide N B false (w.zero a len) = wide N B false w := rfl

theorem aside_stateFld (h : Nat) : Aside (stateFld h) := by
  unfold stateFld
  split <;> decide

theorem Stage.plain {k : Nat} (h : Stage k) : Plain k := by unfold Stage at h; unfold Plain; omega
theorem StateKey.plain {k : Nat} (h : StateKey k) : Plain k := by unfold StateKey at h; unfold Plain; omega

theorem aside_of_all {l : List Fld} {d : Fld} (h : (d :: l).all Aside = true) (i : Nat) : Aside (atD l i d) := by
  rw [List.all_eq_true] at h
  unfold atD
  cases hl : l[i]? with
  | none => exact h _ List.mem_cons_self
  | some f => exact h _ (List.mem_cons_of_mem _ (List.mem_of_getElem? hl))

theorem aside_clSpareFld (i : Nat) : Aside (clSpareFld i) := by
  unfold clSpareFld
  split <;> decide

theorem aside_keySpareFld (i : Nat) : Aside (keySpareFld i) := by
  unfold keySpareFld
  split <;> decide

theorem reports_wide {w v : Work} (h : Reports w v) : wide N B false v = wide N B false w := by
  have hs : written Stage v = written Stage w := funext fun k => h.sameAt k.2.plain
  have hn : written StateKey v = written StateKey w := funext fun k => h.sameAt k.2.plain
  simp only [wide, h.regs, h.wiped, hs, hn, h.n_bo, h.n_mi]
  rfl

theorem reports_wide_wr {w v : Work} (h : Reports w v) (hw : v.wr = w.wr) : wide N B M v = wide N B M w := by
  have hs : written Stage v = written Stage w := funext fun k => h.sameAt k.2.plain
  have hn : written StateKey v = written StateKey w := funext fun k => h.sameAt k.2.plain
  simp only [wide, h.regs, h.wiped, hs, hn, h.n_bo, h.n_mi, hw]

@[simp] theorem msixSend_wr (fn vec) : (w.msixSend fn vec).wr = w.wr := by
  unfold Work.msixSend
  split
  · rfl
  · split <;> rfl

@[simp] theorem signal_wr (fn vec) : (w.signal fn vec).wr = w.wr := by
  simp only [Work.signal]
  split
  · rfl
  · split <;> simp

@[simp] theorem isr_wr (page bit) : (w.isr page bit).wr = w.wr := by
  simp only [Work.isr]
  split
  · rfl
  · split <;> simp

@[simp] theorem setReady_wr (page b) : (w.setReady page b).wr = w.wr := by unfold Work.setReady; split <;> simp
@[simp] theorem setEnable_wr (page b) : (w.setEnable page b).wr = w.wr := by unfold Work.setEnable; split <;> simp
@[simp] theorem setSpareInUse_wr (page b) : (w.setSpareInUse page b).wr = w.wr := by unfold Work.setSpareInUse; split <;> simp

@[simp ↓] theorem msixSend_wide (fn vec) : wide N B M (w.msixSend fn vec) = wide N B M w := reports_wide_wr (reports_msixSend ..) (by simp)
@[simp ↓] theorem signal_wide (fn vec) : wide N B M (w.signal fn vec) = wide N B M w := reports_wide_wr (reports_signal ..) (by simp)
@[simp ↓] theorem isr_wide (page bit) : wide N B M (w.isr page bit) = wide N B M w := reports_wide_wr (reports_isr ..) (by simp)
@[simp ↓] theorem setReady_wide (page b) : wide N B M (w.setReady page b) = wide N B M w := reports_wide_wr (reports_setReady ..) (by simp)
@[simp ↓] theorem setEnable_wide (page b) : wide N B M (w.setEnable page b) = wide N B M w := reports_wide_wr (reports_setEnable ..) (by simp)
@[simp ↓] theorem setSpareInUse_wide (page b) : wide N B M (w.setSpareInUse page b) = wide N B M w :=
  reports_wide_wr (reports_setSpareInUse ..) (by simp)
@[simp ↓] theorem log_wide (e) : wide N B false (w.log e) = wide N B false w := reports_wide (reports_log ..)
@[simp ↓] theorem capture_wide (e) : wide N B false (w.capture e) = wide N B false w := reports_wide (reports_capture ..)
@[simp ↓] theorem report_wide (e) : wide N B false (w.report e) = wide N B false w := reports_wide (reports_report ..)

@[simp ↓] theorem emit_wide (o) : wide N B M (w.emit o) = wide N B M w := (rfl)
@[simp ↓] theorem setKsBank_wide (b f) : wide N B M (w.setKsBank b f) = wide N B M w := (rfl)
@[simp ↓] theorem modHalf_wide (p h f) : wide N B M (w.modHalf p h f) = wide N B M w := (rfl)
@[simp ↓] theorem setQueue_wide (i x) : wide N B M (w.setQueue i x) = wide N B M w := (rfl)
@[simp ↓] theorem setStream_wide (x) : wide N B M (w.setStream x) = wide N B M w := (rfl)
@[simp ↓] theorem draw_wide : wide N B M (w.draw).2 = wide N B M w := (rfl)
@[simp ↓] theorem pick_wide (count) : wide N B M (w.pick count).2 = wide N B M w := (rfl)

@[simp ↓] theorem setNodeState_wide (v) : wide false B M (w.setNodeState v) = wide false B M w := by
  simp only [Work.setNodeState]
  simp +decide
@[simp ↓] theorem change_wide (p c) : wide N B M (w.change p c) = wide N B M w := by unfold Work.change; split <;> simp +decide
@[simp ↓] theorem metaChange_wide (p b) : wide N B M (w.metaChange p b) = wide N B M w := by simp +decide [Work.metaChange]
@[simp ↓] theorem meter_wide (p counter by_) : wide N B M (w.meter p counter by_) = wide N B M w := by simp +decide [Work.meter]
@[simp ↓] theorem pcieOut_wide (p len) : wide N B M (w.pcieOut p len) = wide N B M w := by unfold Work.pcieOut; split <;> simp +decide
@[simp ↓] theorem hostStore_wide (fn addr bs relaxed) : wide N B false (w.hostStore fn addr bs relaxed) = wide N B false w := by
  simp only [Work.hostStore]
  simp +decide
@[simp ↓] theorem resultStore_wide (q h bs off) : wide N B false (w.resultStore q h bs off) = wide N B false w := by
  simp only [Work.resultStore]
  simp +decide
@[simp ↓] theorem queueSignal_wide (q) : wide N B M (w.queueSignal q) = wide N B M w := by simp only [Work.queueSignal]; split <;> simp +decide
@[simp ↓] theorem cqProduce_wide (q tag aux0 aux1 sqIndex status flags irq) :
    wide N B false (w.cqProduce q tag aux0 aux1 sqIndex status flags irq) = wide N B false w := by
  simp only [Work.cqProduce]
  simp +decide
@[simp ↓] theorem endEntry_wide (q e status aux0 aux1 flags handle) : wide N B false (w.endEntry q e status aux0 aux1 flags handle) = wide N B false w := by
  simp only [Work.endEntry]
  split <;> simp +decide
@[simp ↓] theorem startEntries_wide (fuel) : wide N B false (Work.startEntries fuel w) = wide N B false w := by
  induction fuel generalizing w <;> grind [Work.startEntries, endEntry_wide, setQueue_wide]
@[simp ↓] theorem completeEntry_wide (q e status aux0 aux1 flags handle) :
    wide N B false (w.completeEntry q e status aux0 aux1 flags handle) = wide N B false w := by
  simp only [Work.completeEntry]
  simp +decide
@[simp ↓] theorem noteCapped_wide : wide N B M (w.noteCapped) = wide N B M w := by simp +decide [Work.noteCapped]
@[simp ↓] theorem showCap_wide : wide N B M (w.showCap) = wide N B M w := by simp +decide [Work.showCap]
@[simp ↓] theorem capChange_wide : wide N B M (w.capChange) = wide N B M w := by simp +decide [Work.capChange]
@[simp ↓] theorem cappedBoundary_wide : wide false B false (w.cappedBoundary) = wide false B false w := by
  simp only [Work.cappedBoundary]
  simp +decide
@[simp ↓] theorem loadCal_wide : wide N B false w.loadCal = wide N B false w := by
  have hd : Work.loadCal = Work.loadCal := rfl
  conv_rhs at hd => delta Work.loadCal
  rw [← sameW_iff, hd]
  beta_reduce
  extract_lets +onlyGivenNames c
  have hdig : ∀ i, Aside (atD [Reg.CAL_DIGEST0, Reg.CAL_DIGEST1, Reg.CAL_DIGEST2, Reg.CAL_DIGEST3, Reg.CAL_DIGEST4, Reg.CAL_DIGEST5,
        Reg.CAL_DIGEST6, Reg.CAL_DIGEST7] i Reg.CAL_DIGEST0) := aside_of_all (by decide)
  have hmiss : ∀ k : Nat, Aside (if k = 0 then Reg.CAL_MISSING else if k = 1 then Reg.CAL_FOREIGN else Reg.CAL_DIGEST_BAD) := fun k => by
    split
    · rfl
    · split <;> rfl
  cases calCheck c with
  | none => simp +decide [hdig]
  | some k => simp +decide [hmiss]
@[simp ↓] theorem reserveCheck_wide : wide N B false (w.reserveCheck) = wide N B false w := by
  simp only [Work.reserveCheck]
  simp +decide
@[simp ↓] theorem framesFreed_wide (p n) : wide N B false (w.framesFreed p n) = wide N B false w := by
  simp only [Work.framesFreed]
  simp +decide
@[simp ↓] theorem spanIn_wide (used size n fit) : wide N B M (w.spanIn used size n fit).2 = wide N B M w := by simp +decide [Work.spanIn]
@[simp ↓] theorem placeDdr_wide (die len mode) : wide N B M (w.placeDdr die len mode).2 = wide N B M w := by
  simp only [Work.placeDdr]
  split <;> simp +decide
@[simp ↓] theorem placeAll_wide {place} (h : ∀ w l b, SameW N B M w (place w l b).2) (bs) : wide N B M (w.placeAll place bs).2 = wide N B M w := by
  simp only [Work.placeAll]
  exact snd_foldl_wide (fun a b => by grind [sameW_iff]) bs (some [], w)
@[simp ↓] theorem placeStored_wide (k bs) : wide N B M (w.placeStored k bs).2 = wide N B M w := by simp only [Work.placeStored]; split <;> simp +decide
@[simp ↓] theorem dropRun_wide (job) : wide N B M (w.dropRun job) = wide N B M w := by simp +decide [Work.dropRun]
@[simp ↓] theorem freeLoc_wide (c l) : wide N B false (w.freeLoc c l) = wide N B false w := by
  simp only [Work.freeLoc]
  simp +decide
@[simp ↓] theorem freeCourse_wide (ci) : wide N B false (w.freeCourse ci) = wide N B false w := by unfold Work.freeCourse; (repeat' split) <;> simp +decide
@[simp ↓] theorem sendMsg_wide (conn op target payload purpose cmpr) :
    wide N B M (w.sendMsg conn op target payload purpose cmpr).2 = wide N B M w := by
  unfold Work.sendMsg; split <;> simp +decide
@[simp ↓] theorem recordTo_wide (part node r purpose) : wide N B M (w.recordTo part node r purpose).2 = wide N B M w := by
  unfold Work.recordTo; split <;> simp +decide
@[simp ↓] theorem hostResult_wide (q e r) : wide N B false (w.hostResult q e r) = wide N B false w := by simp only [Work.hostResult]; split <;> simp +decide
@[simp ↓] theorem deliver_wide (src d r purpose) : wide N B false (w.deliver src d r purpose) = wide N B false w := by unfold Work.deliver; split <;> simp +decide
@[simp ↓] theorem showOpen_wide : wide N B M (w.showOpen) = wide N B M w := by simp +decide [Work.showOpen]
@[simp ↓] theorem sendToDest_wide (src part d r sheet purpose) : wide N B false (w.sendToDest src part d r sheet purpose) = wide N B false w := by
  simp only [Work.sendToDest]
  simp +decide
@[simp ↓] theorem sendPartial_wide (src part d r sheet purpose) : wide N B false (w.sendPartial src part d r sheet purpose) = wide N B false w := by
  simp only [Work.sendPartial]
  simp +decide
@[simp ↓] theorem freeDying_wide : wide N B false (w.freeDying) = wide N B false w := by
  simp only [Work.freeDying]
  simp +decide
@[simp ↓] theorem answerQuery_wide (q status) : wide N B false (w.answerQuery q status) = wide N B false w := by
  simp only [Work.answerQuery]
  simp +decide
@[simp ↓] theorem answerSheet_wide (sheet pick status) : wide N B false (w.answerSheet sheet pick status) = wide N B false w := by
  simp only [Work.answerSheet]
  simp +decide
@[simp ↓] theorem enterDark_wide : wide false false false (w.enterDark) = wide false false false w := by
  simp only [Work.enterDark]
  simp +decide
@[simp ↓] theorem fenceSelf_wide : wide false false false (w.fenceSelf) = wide false false false w := by
  simp only [Work.fenceSelf]
  simp +decide
@[simp ↓] theorem extendMeas_wide (slot d) : wide N B M (w.extendMeas slot d) = wide N B M w := (rfl)
@[simp ↓] theorem extendFree_wide (slot) : wide N B M (w.extendFree slot) = wide N B M w := (rfl)
@[simp ↓] theorem startMove_wide (ci cls dst) : wide N B M (w.startMove ci cls dst) = wide N B M w := (rfl)
@[simp ↓] theorem spill_wide (cls p e) : wide N B M (Plan.spill cls p e).w = wide N B M p.w := by simp only [Plan.spill]; (repeat' split) <;> simp +decide
@[simp ↓] theorem retireBank_wide (field retire spare) : wide N B false (w.retireBank field retire spare) = wide N B false w := by
  simp only [Work.retireBank]
  simp +decide [aside_keySpareFld]
@[simp ↓] theorem showStores_wide (ls) : wide N B M (w.showStores ls) = wide N B M w := by simp +decide [Work.showStores]
@[simp ↓] theorem fillStore_wide : wide N B M (w.fillStore) = wide N B M w := by simp only [Work.fillStore]; split <;> simp +decide
@[simp ↓] theorem setPort_wide (p h v) : wide N B M (w.setPort p h v) = wide N B M w := by
  simp only [Work.setPort]
  simp +decide [aside_stateFld]
@[simp ↓] theorem setRate_wide (p) : wide N B M (w.setRate p) = wide N B M w := by simp +decide [Work.setRate]
@[simp ↓] theorem startPort_wide (p) : wide N B M (w.startPort p) = wide N B M w := by
  simp only [Work.startPort]
  simp +decide
@[simp ↓] theorem showLaneSpare_wide (p) : wide N B M (w.showLaneSpare p) = wide N B M w := by simp +decide [Work.showLaneSpare]
@[simp ↓] theorem retrain_wide (p) : wide N B M (w.retrain p) = wide N B M w := by
  simp only [Work.retrain]
  simp +decide
@[simp ↓] theorem dropPort_wide (p h cause) : wide N B false (w.dropPort p h cause) = wide N B false w := by simp only [Work.dropPort]; split <;> simp +decide
@[simp ↓] theorem rehRetrain_wide (die) : wide N B M (w.rehRetrain die) = wide N B M w := by simp only [Work.rehRetrain]; split <;> simp +decide
@[simp ↓] theorem reconcileSoon_wide (keep) : wide N B M (w.reconcileSoon keep) = wide N B M w := (rfl)
@[simp ↓] theorem resetFunction_wide (fn mine) : wide N B M (w.resetFunction fn mine) = wide N B M w := by
  simp only [Work.resetFunction]
  simp +decide
@[simp ↓] theorem configRequest_wide {act} (h : ∀ w, SameW N B M w (act w)) : wide N B M (w.configRequest act) = wide N B M w := by
  grind [Work.configRequest, sameW_iff, emit_wide]
@[simp ↓] theorem resetPcie_wide : wide N false M (w.resetPcie) = wide N false M w := by
  simp only [Work.resetPcie]
  simp +decide
@[simp ↓] theorem measureRom_wide : wide N false M (w.measureRom) = wide N false M w := by
  unfold Work.measureRom
  refine wide_of_ite rfl ((wide_update ..).trans ((extendMeas_wide ..).trans (extendMeas_wide ..)))

@[simp ↓] theorem showFrames_wide : wide N B M (w.showFrames) = wide N B M w := by simp +decide [Work.showFrames]
@[simp ↓] theorem replaceCluster_wide (bad c) : wide N B false (w.replaceCluster bad c) = wide N B false w := by
  simp only [Work.replaceCluster]
  (repeat' split) <;> simp +decide [aside_clSpareFld]
@[simp ↓] theorem replaceBank_wide (bad b) : wide N B false (w.replaceBank bad b) = wide N B false w := by
  unfold Work.replaceBank
  simp only
  (repeat' split) <;> simp +decide
@[simp ↓] theorem replaceBad_wide (bad) : wide false false false (w.replaceBad bad) = wide false false false w := by
  unfold Work.replaceBad
  refine foldl_wide (fun w u => ?_) bad w
  cases u with
  | cluster c => simp only [sameW_iff]; split <;> simp
  | bank b => simp only [sameW_iff]; split <;> simp
@[simp ↓] theorem activate_wide (c) : wide N B M (w.activate c) = wide N B M w := by simp +decide [Work.activate]
@[simp ↓] theorem enterFull_wide : wide false false false (w.enterFull) = wide false false false w := by
  simp only [Work.enterFull]
  simp +decide
@[simp ↓] theorem reconcileAll_wide : wide N B M (w.reconcileAll) = wide N B M w := (rfl)
@[simp ↓] theorem leaveDark_wide (v) : wide false false false (w.leaveDark v) = wide false false false w := by
  simp only [Work.leaveDark]
  simp +decide
@[simp ↓] theorem advance_wide : wide false false false (w.advance) = wide false false false w := by
  simp only [Work.advance]
  simp +decide

end
end Sys2Proof.Wide
end

section
/-!
A register write that the shared write takes (R484, R516): what it leaves, and the action that follows it. What a field shows once a
command has ended, from what the command's view reads.
-/

namespace Sys2Proof.Writes

open Sys2Proof.Machine Sys2Proof.Safety Sys2Proof.Laws Sys2Proof.Steps

/-- A write that lands was taken whole: its block, instance, offset and selection, and the fields it wrote. -/
theorem busWrite_taken {w : Work} {wr : RegWr} {b : Block} {inst off idx : Nat} (h : (w.busWrite wr).at_ = some (b, inst, off, idx)) :
    wr.off % 4 = 0 ∧ w.locate wr.fn wr.off = .reg b inst off ∧ idx = w.sel wr.fn b off ∧ w.refuse wr b inst idx off = none ∧
      w.busWrite wr = ⟨w.writeFields wr b inst idx off, some (b, inst, off, idx)⟩ := by
  by_cases h4 : wr.off % 4 = 0
  · simp only [Work.busWrite, h4, ne_eq, not_true_eq_false, if_false] at h ⊢
    cases hl : w.locate wr.fn wr.off with
    | reg c i o =>
      by_cases hc : o < 0x100 ∧ c ≠ .QCFG
      · simp only [hl, hc] at h; simp at h
      · simp only [hl, if_neg hc] at h ⊢
        cases hr : w.refuse wr c i (w.sel wr.fn c o) o with
        | some code => simp only [hr] at h; cases h
        | none =>
          simp only [hr, Option.some.injEq, Prod.mk.injEq] at h ⊢
          obtain ⟨rfl, rfl, rfl, rfl⟩ := h
          exact ⟨trivial, rfl, rfl, hr, rfl⟩
    | _ => simp only [hl] at h; cases h
  · simp only [Work.busWrite, ne_eq, h4, not_false_eq_true, if_true] at h
    cases h

/-- The action of a command on a register follows a write that lands on it. -/
theorem regAction_lands {s : State} {wr : RegWr} {b : Block} {off inst idx : Nat} (h : Lands s wr b off inst idx)
    (act : Work → Nat → Nat → Work) {offs : List Nat} (ho : s.view.addresses wr b offs = true) :
    s.view.regAction wr b offs act = act (s.view.writeFields wr b inst idx off) inst idx := by
  obtain ⟨-, -, -, -, hb⟩ := busWrite_taken h.2
  simp only [Work.regAction, ho, if_true, hb]

section
variable (w : Work) (wr : RegWr) (b : Block) (inst idx off : Nat)

theorem writeFields_keeps {α : Type} (m : Work → α) (h : ∀ (w : Work) f v i j, m (w.set f v i j) = m w) :
    m (w.writeFields wr b inst idx off) = m w := by
  refine Frame.foldl_keeps m (fun w f => ?_) _ _
  have hs : m (if fieldEnabled wr f then w.set f (w.merged wr inst idx f) (storeInst b inst off) idx else w) = m w := by
    split
    · exact h ..
    · rfl
  simp only
  cases f.acc <;> first | exact hs | rfl

@[simp] theorem writeFields_n : (w.writeFields wr b inst idx off).n = w.n := writeFields_keeps w wr b inst idx off (·.n) fun _ _ _ _ _ => rfl
@[simp] theorem writeFields_regs : (w.writeFields wr b inst idx off).regs = w.regs :=
  writeFields_keeps w wr b inst idx off (·.regs) fun _ _ _ _ _ => rfl
@[simp] theorem writeFields_wr : (w.writeFields wr b inst idx off).wr = w.wr :=
  writeFields_keeps w wr b inst idx off (·.wr) fun _ _ _ _ _ => rfl
@[simp] theorem writeFields_mem : (w.writeFields wr b inst idx off).mem = w.mem :=
  writeFields_keeps w wr b inst idx off (·.mem) fun _ _ _ _ _ => rfl
@[simp] theorem writeFields_wiped : (w.writeFields wr b inst idx off).wiped = w.wiped :=
  writeFields_keeps w wr b inst idx off (·.wiped) fun _ _ _ _ _ => rfl
@[simp] theorem writeFields_ppr : (w.writeFields wr b inst idx off).ppr = w.ppr :=
  writeFields_keeps w wr b inst idx off (·.ppr) fun _ _ _ _ _ => rfl

/-- The fields of a register are written, at its own offset: a key elsewhere is left. -/
theorem sameAt_writeFields {k : Nat} (h : ∀ f ∈ regFields b off, ∀ v : Work, f.key (storeInst b inst off) idx ≠ k ∨ f.acc ∉ [Acc.rw, .rwl, .wo]) :
    SameAt k w (w.writeFields wr b inst idx off) := by
  unfold Work.writeFields
  suffices ∀ (l : List Fld) (v : Work), (∀ f ∈ l, f.key (storeInst b inst off) idx ≠ k ∨ f.acc ∉ [Acc.rw, .rwl, .wo]) → SameAt k w v →
      SameAt k w (l.foldl _ v) from this _ w (fun f hf => h f hf w) (SameAt.refl k w)
  intro l
  induction l with
  | nil => exact fun v _ hv => hv
  | cons f l ih =>
    intro v hl hv
    rw [List.foldl_cons]
    refine ih _ (fun g hg => hl g (List.mem_cons_of_mem _ hg)) ?_
    rcases hl f List.mem_cons_self with hk | ha
    · have hs := SameAt.ite (p := fieldEnabled wr f = true) (hv.set f (v.merged wr inst idx f) _ _ hk) hv
      simp only
      cases f.acc <;> first | exact hv | exact hs
    · simp only
      cases hacc : f.acc <;> first | exact hv | (rw [hacc] at ha; simp at ha)

end

end Sys2Proof.Writes
end

section
/-!
The node's stage: how Dark is entered, what a warm reset leaves, and the obligations on the watchdog and warm resets.
-/

namespace Sys2Proof.Stages

open Sys2Proof.Machine Sys2Proof.Safety Sys2Proof.Laws Sys2Proof.Steps Sys2Proof.Resets Sys2Proof.Wide Sys2Proof.Writes

/-! ## Entering Dark (R456) -/

theorem stateKey_nodeState : StateKey (Reg.GLB_NODE_STATE.key 0 0) := by unfold StateKey; decide

/-- NODE_STATE takes the value set, or shows it already. -/
theorem setNodeState_shows (w : Work) {v : Nat} (hv : v < 8) (h : w.nodeState ≠ v) : Shows (w.setNodeState v) Reg.GLB_NODE_STATE v 0 0 := by
  have hs := shows_set w Reg.GLB_NODE_STATE v 0 0
  rw [Nat.mod_eq_of_lt (show v < 2 ^ Reg.GLB_NODE_STATE.width from hv)] at hs
  have hi : Shows ((w.set Reg.GLB_NODE_STATE v).isr 0 16) Reg.GLB_NODE_STATE v 0 0 :=
    (sameAt_isr _ 0 16 (by decide) (by decide)).shows hs
  unfold Work.setNodeState
  rw [if_neg h]
  simp only
  split
  · exact hi.set _ _ _ _ (by decide)
  · exact hi

/-- A node that enters Dark was Dark, and nothing changes, or shows Dark. -/
theorem enterDark_shows (w : Work) : w.isDark = true ∧ w.enterDark = w ∨ Shows w.enterDark Reg.GLB_NODE_STATE 0 0 0 := by
  by_cases hd : w.isDark = true
  · exact .inl ⟨hd, by rw [Work.enterDark, if_pos hd]⟩
  refine .inr ?_
  have hne : w.nodeState ≠ 0 := by simpa [Work.isDark] using hd
  rw [Work.enterDark, if_neg hd]
  extract_lets +onlyGivenNames _ _ _ a b c d cur running _ _ e
  have ha : SameAt (Reg.GLB_NODE_STATE.key 0 0) w (a.set Reg.GLB_PROMOTING 0) := (SameAt.refl _ w).trans (sameAt_set a _ _ _ _ (by decide))
  have hb : SameW true true false (a.set Reg.GLB_PROMOTING 0) b := by simp only [b, sameW_iff]; exact showOpen_wide _
  have hc : SameW true true false b c := by simp only [c, sameW_iff]; exact answerSheet_wide ..
  have hd' : SameW true true false c d := by
    simp only [d, sameW_iff]
    split
    · exact answerSheet_wide ..
    · rfl
  have he : SameW true true false d e := by simp only [e, sameW_iff]; exact wide_update_node ..
  have hr : e.regs = w.regs := ((hb.trans hc).trans (hd'.trans he)).regs
  have hs : SameAt (Reg.GLB_NODE_STATE.key 0 0) w e := ha.trans (((hb.trans hc).trans (hd'.trans he)).sameAt_state stateKey_nodeState)
  have hg : e.nodeState ≠ 0 := by rw [Work.nodeState, hs.get hr]; exact hne
  have hf : SameW true true false (e.setNodeState 0) (e.setNodeState 0).freeDying := by rw [sameW_iff]; exact freeDying_wide _
  exact (hf.sameAt_state stateKey_nodeState).shows (setNodeState_shows e (by decide) hg)

/-- A node shows Dark once it has entered Dark, whatever it does besides that leaves its state. -/
theorem rd_nodeState_enterDark {s : State} (hc : Canonical s) {v w : Work} (hv : SameAt (Reg.GLB_NODE_STATE.key 0 0) s.view v)
    (hr : v.regs = s.regs) (hw : SameAt (Reg.GLB_NODE_STATE.key 0 0) v.enterDark w) (hwiped : w.wiped = false) :
    rd (s.close w) Reg.GLB_NODE_STATE = 0 := by
  rcases enterDark_shows v with ⟨hd, he⟩ | hs
  · rw [he] at hw
    rw [(hv.trans hw).rd hc.1 hwiped]
    have hg : v.get Reg.GLB_NODE_STATE = 0 := of_decide_eq_true hd
    rw [hv.get hr] at hg
    exact hg
  · exact (hw.shows hs).rd hc.1

/-- A command that is none of the tick's own leaves the tick's state. -/
theorem tick_stays {c : Instr} {s t : State} (h : exec c s = .next t) (hr : resetsNode c = false) (ht : movesTick c = false) :
    t.node.tk = s.node.tk :=
  Frame.onlyTheirOwnCommandsMoveTheTickAndTheKeys.1 c s t h hr ht

/-! ## Warm resets (R444, R464) -/

/-- The cause bits of GLB_RESET_CAUSE. -/
def causes : List Fld := [Reg.GLB_WARM_REG, Reg.GLB_WARM_MGMT, Reg.GLB_WATCHDOG, Reg.GLB_RECOVERY]

theorem warmReset_eq (w : Work) (cause : Fld) : w.warmReset cause =
    (((((((((w.wipe.set Reg.GLB_BOOT_SEL (w.get Reg.GLB_BOOT_SEL)).set Reg.GLB_MGT_SEL (w.get Reg.GLB_MGT_SEL)).set Reg.GLB_WARM_REG
      (w.get Reg.GLB_WARM_REG)).set Reg.GLB_WARM_MGMT (w.get Reg.GLB_WARM_MGMT)).set Reg.GLB_WATCHDOG (w.get Reg.GLB_WATCHDOG)).set
      Reg.GLB_RECOVERY (w.get Reg.GLB_RECOVERY)).set Reg.GLB_WARM_COUNT (w.get Reg.GLB_WARM_COUNT)).set Reg.GLB_POWER_ON 0).set cause
      1).count Reg.GLB_WARM_COUNT := rfl

theorem get_of_shows {w : Work} {f : Fld} {v i j : Nat} (h : Shows w f v i j) : w.get f i j = v := by
  unfold Shows at h
  simp [Work.get, Work.raw, h]

/-- What a node shows after a warm reset from a view that has stored nothing. -/
theorem warmReset_shows {s : State} (w : Work) (hw : w.wr = []) {cause : Fld} (hcause : cause ∈ causes) :
    (s.close (w.warmReset cause)).mem = s.mem.afterReset ∧
    rd (s.close (w.warmReset cause)) cause = 1 ∧
    rd (s.close (w.warmReset cause)) Reg.GLB_POWER_ON = 0 ∧
    rd (s.close (w.warmReset cause)) Reg.GLB_BOOT_SEL = w.get Reg.GLB_BOOT_SEL % 4 ∧
    rd (s.close (w.warmReset cause)) Reg.GLB_MGT_SEL = w.get Reg.GLB_MGT_SEL % 2 ∧
    rd (s.close (w.warmReset cause)) Reg.GLB_WARM_COUNT = min (w.get Reg.GLB_WARM_COUNT % 256 + 1) 255 ∧
    rd (s.close (w.warmReset cause)) Reg.GLB_NODE_STATE = 0 := by
  have hk : ∀ g ∈ [Reg.GLB_POWER_ON, Reg.GLB_BOOT_SEL, Reg.GLB_MGT_SEL, Reg.GLB_WARM_COUNT, Reg.GLB_NODE_STATE],
      cause.key 0 0 ≠ g.key 0 0 ∧ g.key 0 0 ≠ cause.key 0 0 ∧ cause.width = 1 := by
    have : ∀ c ∈ causes, ∀ g ∈ [Reg.GLB_POWER_ON, Reg.GLB_BOOT_SEL, Reg.GLB_MGT_SEL, Reg.GLB_WARM_COUNT, Reg.GLB_NODE_STATE],
        c.key 0 0 ≠ g.key 0 0 ∧ g.key 0 0 ≠ c.key 0 0 ∧ c.width = 1 := by decide
    exact this cause hcause
  have hwid : cause.width = 1 := (hk Reg.GLB_POWER_ON (by decide)).2.2
  have hne : ∀ g ∈ [Reg.GLB_POWER_ON, Reg.GLB_BOOT_SEL, Reg.GLB_MGT_SEL, Reg.GLB_WARM_COUNT, Reg.GLB_NODE_STATE],
      cause.key 0 0 ≠ g.key 0 0 := fun g hg => (hk g hg).1
  have hwiped : Wiped (w.warmReset cause) := by
    rw [warmReset_eq]
    iterate 10 refine Wiped.set ?_ _ _ _ _
    exact wipe_wiped w hw
  rw [warmReset_eq] at hwiped ⊢
  refine ⟨hwiped.mem s, hwiped.rd_shows ?_, hwiped.rd_shows ?_, hwiped.rd_shows ?_, hwiped.rd_shows ?_, hwiped.rd_shows ?_,
    hwiped.rd_reset ?_⟩
  · have hs : ∀ u : Work, Shows (u.set cause 1) cause 1 0 0 := fun u => by
      have := shows_set u cause 1 0 0
      rwa [hwid] at this
    exact (hs _).set _ _ _ _ (hk Reg.GLB_WARM_COUNT (by decide)).2.1
  · refine Shows.set (Shows.set ?_ _ _ _ _ (hne _ (by decide))) _ _ _ _ (by decide)
    exact shows_set _ _ _ _ _
  · refine Shows.set (Shows.set ?_ _ _ _ _ (hne _ (by decide))) _ _ _ _ (by decide)
    iterate 7 refine Shows.set ?_ _ _ _ _ (by decide)
    exact shows_set _ _ _ _ _
  · refine Shows.set (Shows.set ?_ _ _ _ _ (hne _ (by decide))) _ _ _ _ (by decide)
    iterate 6 refine Shows.set ?_ _ _ _ _ (by decide)
    exact shows_set _ _ _ _ _
  · have hc : ∀ u : Work, Shows u Reg.GLB_WARM_COUNT (w.get Reg.GLB_WARM_COUNT % 256) 0 0 →
        Shows ((u.set cause 1).count Reg.GLB_WARM_COUNT) Reg.GLB_WARM_COUNT (min (w.get Reg.GLB_WARM_COUNT % 256 + 1) 255) 0 0 :=
      fun u hu => by
        have hs := shows_count (u.set cause 1) Reg.GLB_WARM_COUNT 1 0 0
        rwa [get_of_shows (hu.set _ _ _ _ (hne _ (by decide)))] at hs
    refine hc _ (Shows.set ?_ _ _ _ _ (by decide))
    exact shows_set _ _ _ _ _
  · change SameAt (Reg.GLB_NODE_STATE.key 0 0) w.wipe _
    refine SameAt.count (SameAt.set ?_ _ _ _ _ (hne Reg.GLB_NODE_STATE (by decide))) _ _ _ _ (by decide)
    iterate 8 refine SameAt.set ?_ _ _ _ _ (by decide)
    exact SameAt.refl _ w.wipe

theorem exec_warmReset (s : State) (wr : RegWr) : exec (.warmReset wr) s = execWarmReset wr s := by simp only [exec]
theorem exec_watchdogWarmReset (s : State) : exec .watchdogWarmReset s = execWatchdogWarmReset s := by simp only [exec]
theorem exec_watchdogWarning (s : State) : exec .watchdogWarning s = execWatchdogWarning s := by simp only [exec]
theorem exec_watchdogExpired (s : State) (core : Nat) : exec (.watchdogExpired core) s = execWatchdogExpired core s := by simp only [exec]

/-- A field of GLB_STRAPS or GLB_RESET_CAUSE is none of GLB_RESET's, so a write that asks for a warm reset leaves it. -/
theorem writeFields_reset_get (w : Work) (wr : RegWr) (inst idx : Nat) {g : Fld} (hg : g.off < 4096 ∧ g.lo < 32) (h : g.off ≠ 0x114) :
    (w.writeFields wr .GLB inst idx 0x114).get g = w.get g := by
  refine SameAt.get (sameAt_writeFields _ _ _ _ _ _ fun f hf _ => .inl ?_) (writeFields_regs ..)
  have hf' : ∀ f ∈ regFields .GLB 0x114, (f.off < 4096 ∧ f.lo < 32) ∧ f.off = 0x114 := by decide
  obtain ⟨hb, ho⟩ := hf' f hf
  exact key_ne_of_off _ _ _ _ hg hb (ho ▸ h.symm)

theorem flag_of_rd {s : State} {f : Fld} {i j v : Nat} (h : rd s f i j = v) (hv : v ≠ 0) : s.view.flag f i j = true := by
  have : s.view.get f i j = v := h
  simp [Work.flag, this, hv]

/-- Settles O8: a warm reset from what the shared write leaves or from the view; the warning's record; the expiry's fence. -/
theorem watchdogAndWarmResets : Obligations.WatchdogAndWarmResets := by
  unfold Obligations.WatchdogAndWarmResets
  refine ⟨fun s wr inst idx ha hc hl hw => ?_, fun s at_ ha hc hat hle => ?_, fun s ha harm => ?_, fun s core ha hc harm => ?_⟩
  · obtain ⟨hm, hcause, hp, hb, hg, hn, hs⟩ :=
      warmReset_shows (s := s) (s.view.writeFields wr .GLB inst idx 0x114) (writeFields_wr ..) (cause := Reg.GLB_WARM_REG) (by decide)
    rw [writeFields_reset_get _ _ _ _ (by decide) (by decide)] at hb hg hn
    refine ⟨_, ?_, ?_, hm, ?_, hcause, hp, hb, hg, hn, hs⟩
    · rw [exec_warmReset, execWarmReset, run_alive _ ha, regAction_lands hl _ hl.1, if_pos hw]
    · change ((s.view.writeFields wr .GLB inst idx 0x114).warmReset Reg.GLB_WARM_REG).n = resetNode s
      rw [warmReset_eq]
      simp only [count_n, set_n, Work.wipe, writeFields_n]
      rfl
    · change max s.svnFuse (s.view.writeFields wr .GLB inst idx 0x114).svn = s.svnFuse
      rw [writeFields_keeps s.view wr .GLB inst idx 0x114 (·.svn) fun _ _ _ _ _ => rfl]
      exact max_self _
  · obtain ⟨hm, hcause, hp, hb, hg, hn, hs⟩ := warmReset_shows (s := s) s.view rfl (cause := Reg.GLB_WATCHDOG) (by decide)
    refine ⟨_, ?_, rfl, hm, max_self _, hcause, hp, hn⟩
    rw [exec_watchdogWarmReset, execWatchdogWarmReset, run_alive _ ha]
    have h : s.view.n.bo.warmAt = some at_ := hat
    simp only [h]
    have hn : ¬ s.view.ps + s.view.periodPs < at_ := Nat.not_lt.2 hle
    rw [if_neg hn]
  · let n := { (s.view.isr 0 17) with
      n.bo.wdogWarned := true, n.bo.wdogAt := min s.view.n.bo.wdogAt (s.view.ps + 10000000000) }
    refine ⟨s.close n, ?_, rfl, rfl, close_mem_quiet s n (isr_wr _ _ _) (isr_wiped _ _ _)⟩
    rw [exec_watchdogWarning, execWatchdogWarning, run_alive _ ha]
    simp only [flag_of_rd harm (by decide)]
    rfl
  · obtain ⟨r, hr⟩ : ∃ r, r = s.view.report { code := 0x400C, page := 0, detail := core } := ⟨_, rfl⟩
    have hrw : SameW true true false s.view r := by rw [hr, sameW_iff]; exact report_wide ..
    have htk : r.n.tk = s.node.tk := hr ▸ report_tk ..
    have hfs : SameW false false false (r.set Reg.GLB_WDOG_ARMED 0) (r.set Reg.GLB_WDOG_ARMED 0).fenceSelf := fenceSelf_wide _
    have he : exec (.watchdogExpired core) s = .next (s.close { (r.set Reg.GLB_WDOG_ARMED 0).fenceSelf with
        n.bo.warmAt := some ((r.set Reg.GLB_WDOG_ARMED 0).ps + 10000000000), n.bo.wdogAt := (r.set Reg.GLB_WDOG_ARMED 0).ps }) := by
      rw [exec_watchdogExpired, execWatchdogExpired, run_alive _ ha, hr]
      simp only [flag_of_rd harm (by decide)]
      rfl
    have harmed : Shows (r.set Reg.GLB_WDOG_ARMED 0).fenceSelf Reg.GLB_WDOG_ARMED 0 0 0 :=
      (hfs.sameAt (by unfold Stage; decide)).shows (shows_set ..)
    refine ⟨_, he, rfl, rd_nodeState_enterDark hc (v := r.set Reg.GLB_WDOG_ARMED 0) ?_ hrw.regs ?_ (hfs.wiped.trans hrw.wiped),
      Shows.rd hc.1 harmed, ?_, tick_stays he rfl rfl⟩
    · exact (hrw.sameAt_state stateKey_nodeState).set _ _ _ _ (by decide)
    · exact SameAt.refl ..
    · rw [close_node]
      simp only [Work.ps, set_n, htk]

end Sys2Proof.Stages
end

section
/-!
The node's entry into service (R456, R458, R462): what READY_REACHED, PROMOTION_BOUNDARY, GLB_ID_LOCK and MANAGEMENT_LINK_CHANGE show.
-/

namespace Sys2Proof.Entering

open Sys2Proof.Machine Sys2Proof.Safety Sys2Proof.Laws Sys2Proof.Steps Sys2Proof.Wide Sys2Proof.Writes Sys2Proof.Stages

/-! ## Fields apart -/

/-- Two fields that differ in offset or lowest bit: their keys differ on every page and selection. -/
def Apart (f g : Fld) : Bool := decide ((f.off < 4096 ∧ f.lo < 32) ∧ (g.off < 4096 ∧ g.lo < 32) ∧ ¬ (f.off = g.off ∧ f.lo = g.lo))

theorem key_ne_of_apart {f g : Fld} (h : Apart f g) (i j a b : Nat) : f.key i j ≠ g.key a b := by
  obtain ⟨hf, hg, hn⟩ := of_decide_eq_true h
  unfold Fld.key
  omega

theorem get_set_apart (w : Work) {f g : Fld} (h : Apart f g) (v i j a b : Nat) : (w.set f v i j).get g a b = w.get g a b :=
  (sameAt_set w f v i j (key_ne_of_apart h i j a b)).get rfl

theorem get_setFlag_apart (w : Work) {f g : Fld} (h : Apart f g) (v : Bool) (i j a b : Nat) :
    (w.setFlag f v i j).get g a b = w.get g a b := get_set_apart w h _ i j a b

theorem flag_setFlag_apart (w : Work) {f g : Fld} (h : Apart f g) (v : Bool) (i j a b : Nat) :
    (w.setFlag f v i j).flag g a b = w.flag g a b := by rw [Work.flag, get_setFlag_apart w h, Work.flag]

theorem shows_flag (w : Work) (f : Fld) (b : Bool) (i j : Nat) (h : 0 < f.width) : Shows (w.setFlag f b i j) f b.toNat i j := by
  have hs := shows_setFlag w f b i j h
  cases b <;> exact hs

/-! ## Half clocks of the clusters -/

/-- The key of a cluster's HALF_CLOCK. -/
def ClockKey (k : Nat) : Prop := k / 2 ^ 37 < 0x4A ∧ 0x30 ≤ k / 2 ^ 37 ∧ k % 2 ^ 17 = 0x104 * 32 + 14

theorem ClockKey.plain {k : Nat} (h : ClockKey k) : Plain k := by unfold ClockKey at h; unfold Plain; omega

/-- A field at another place of its page, or of a page past the clusters'. -/
def OffClocks (f : Fld) : Bool := decide (f.off < 4096 ∧ f.lo < 32 ∧ (f.off ≠ 0x104 ∨ f.lo ≠ 14 ∨ 0x4A ≤ f.blk.page))

theorem offClocks_not_key {f : Fld} (h : OffClocks f) (i j : Nat) : ¬ ClockKey (f.key i j) := by
  obtain ⟨ho, hl, hp⟩ := of_decide_eq_true h
  unfold ClockKey Fld.key
  omega

/-- What a view has written of the clusters' half clocks. -/
def clocks (w : Work) := written ClockKey w

section
variable (w : Work)

@[simp ↓] theorem set_clocks (f v i j) (h : OffClocks f) : clocks (w.set f v i j) = clocks w := written_set w f v i j (offClocks_not_key h i j)
@[simp ↓] theorem setFlag_clocks (f b i j) (h : OffClocks f) : clocks (w.setFlag f b i j) = clocks w := set_clocks w f _ i j h

theorem reports_clocks {w v : Work} (h : Reports w v) : clocks v = clocks w := funext fun k => h.sameAt k.2.plain

@[simp ↓] theorem isr_clocks (page bit) : clocks (w.isr page bit) = clocks w := reports_clocks (reports_isr ..)
@[simp ↓] theorem log_clocks (e) : clocks (w.log e) = clocks w := reports_clocks (reports_log ..)
@[simp ↓] theorem setReady_clocks (page b) : clocks (w.setReady page b) = clocks w := reports_clocks (reports_setReady ..)
@[simp ↓] theorem setSpareInUse_clocks (page b) : clocks (w.setSpareInUse page b) = clocks w := reports_clocks (reports_setSpareInUse ..)
@[simp ↓] theorem clocks_ite (c : Prop) [Decidable c] (a b : Work) : clocks (if c then a else b) = if c then clocks a else clocks b :=
  apply_ite ..
@[simp ↓] theorem clocks_update (n : Node) (mem : Mem) (svn : Nat) : clocks { w with n := n, mem := mem, svn := svn } = clocks w := rfl
@[simp ↓] theorem foldl_clocks {α : Type} {f : Work → α → Work} (h : ∀ w x, clocks (f w x) = clocks w) (l : List α) (w : Work) :
    clocks (l.foldl f w) = clocks w := Frame.foldl_keeps clocks h l w

theorem offClocks_stateFld (h : Nat) : OffClocks (stateFld h) := by
  unfold stateFld
  split <;> decide

@[simp ↓] theorem setNodeState_clocks (v) : clocks (w.setNodeState v) = clocks w := by
  simp only [Work.setNodeState]
  simp +decide
@[simp ↓] theorem cappedBoundary_clocks : clocks w.cappedBoundary = clocks w := by
  simp only [Work.cappedBoundary]
  simp +decide
@[simp ↓] theorem showFrames_clocks : clocks w.showFrames = clocks w := by simp +decide [Work.showFrames]
@[simp ↓] theorem fillStore_clocks : clocks w.fillStore = clocks w := by
  simp only [Work.fillStore, Work.showStores]
  split <;> simp +decide
@[simp ↓] theorem setRate_clocks (p) : clocks (w.setRate p) = clocks w := by simp +decide [Work.setRate]
@[simp ↓] theorem modHalf_clocks (p h f) : clocks (w.modHalf p h f) = clocks w := rfl
@[simp ↓] theorem setPort_clocks (p h v) : clocks (w.setPort p h v) = clocks w := by
  simp only [Work.setPort]
  simp +decide [offClocks_stateFld]
@[simp ↓] theorem startPort_clocks (p) : clocks (w.startPort p) = clocks w := by
  simp only [Work.startPort]
  simp +decide
@[simp ↓] theorem retrain_clocks (p) : clocks (w.retrain p) = clocks w := by
  simp only [Work.retrain, Work.showLaneSpare]
  simp +decide
@[simp ↓] theorem rehRetrain_clocks (die) : clocks (w.rehRetrain die) = clocks w := by
  simp only [Work.rehRetrain]
  split <;> simp +decide
end

/-! ## Entering service -/

/-- NODE_STATE as a view has last written it, 2 or 3. -/
def InService (w : Work) : Prop := Shows w Reg.GLB_NODE_STATE 2 0 0 ∨ Shows w Reg.GLB_NODE_STATE 3 0 0

theorem InService.keep {B M : Bool} {a b : Work} (h : InService a) (g : SameW true B M a b) : InService b :=
  h.imp (g.sameAt_state stateKey_nodeState).shows (g.sameAt_state stateKey_nodeState).shows

theorem InService.rd {s : State} (hc : Canonical s) {w : Work} (h : InService w) :
    Safety.rd (s.close w) Reg.GLB_NODE_STATE = 2 ∨ Safety.rd (s.close w) Reg.GLB_NODE_STATE = 3 :=
  h.imp (·.rd hc.1) (·.rd hc.1)

theorem setNodeState_inService (w : Work) (h : w.nodeState ≠ 2) : InService (w.setNodeState 2) := .inl (setNodeState_shows w (by decide) h)

/-- Setting the node's state writes NODE_STATE and EVER_FULL, and reports. -/
theorem sameAt_setNodeState (w : Work) (v : Nat) {k : Nat} (hn : Reg.GLB_NODE_STATE.key 0 0 ≠ k) (he : Reg.GLB_EVER_FULL.key 0 0 ≠ k)
    (hp : Plain k) : SameAt k w (w.setNodeState v) := by
  have h := (sameAt_set w Reg.GLB_NODE_STATE v 0 0 hn).trans ((reports_isr _ 0 16).sameAt hp)
  unfold Work.setNodeState
  exact SameAt.ite (SameAt.refl k w) (SameAt.ite (h.set _ _ _ _ he) h)

/-- So does the Capped rule. -/
theorem sameAt_cappedBoundary (w : Work) {k : Nat} (hn : Reg.GLB_NODE_STATE.key 0 0 ≠ k) (he : Reg.GLB_EVER_FULL.key 0 0 ≠ k)
    (hp : Plain k) : SameAt k w w.cappedBoundary := by
  unfold Work.cappedBoundary
  extract_lets +onlyGivenNames c _ _ v held
  have hv : SameAt k w v := SameAt.ite (SameAt.refl k w) (SameAt.refl k w)
  have h : ∀ n e, SameAt k w ((v.setNodeState n).log e) := fun n e =>
    hv.trans ((sameAt_setNodeState v n hn he hp).trans ((reports_log _ e).sameAt hp))
  exact SameAt.ite (h ..) (SameAt.ite (h ..) hv)

/-- The Capped rule moves a node in service between its two states. -/
theorem cappedBoundary_inService {w : Work} (h : InService w) : InService w.cappedBoundary := by
  unfold Work.cappedBoundary
  extract_lets +onlyGivenNames c _ _ v held
  have hv : SameW true true true w v := by
    simp only [v, sameW_iff]
    split
    · exact wide_update_node ..
    · rfl
  have hi : InService v := h.keep hv
  have keep : ∀ {u : Work} (e : Ev), InService u → InService (u.log e) := fun e hu =>
    hu.keep (B := true) (M := false) (by rw [sameW_iff]; exact log_wide ..)
  split_ifs with h2 h3
  · exact keep _ (.inr (setNodeState_shows v (by decide) (by rw [h2.1]; decide)))
  · exact keep _ (.inl (setNodeState_shows v (by decide) (by rw [h3.1]; decide)))
  · exact hi

/-- The part of `enterFull` before the node's state is set: clusters and half clocks. -/
def clocked (w : Work) : Work :=
  let v := (w.n.bo.passed.filter fun c => !w.flag Reg.CL_FAULTED c).foldl (fun w c => w.activate c) w
  (List.range 26).foldl (fun w c => w.set Reg.CL_HALF_CLOCK 0 c) { v with n.bo.passed := [], n.bo.promoteAt := none }

/-- The part after it: the ports. -/
def portsStarted (w : Work) : Work := (((List.range 32).foldl (fun w p => w.startPort p) w).rehRetrain 0).rehRetrain 1

theorem enterFull_eq (w : Work) : w.enterFull =
    portsStarted (((clocked w).set Reg.GLB_PROMOTING 0).setNodeState 2).cappedBoundary.showFrames.fillStore := rfl

theorem clocked_wide (w : Work) : SameW true false true w (clocked w) := by
  simp only [clocked, sameW_iff]
  simp +decide

theorem portsStarted_wide (w : Work) : SameW true true true w (portsStarted w) := by simp [portsStarted]

theorem portsStarted_clocks (w : Work) : clocks (portsStarted w) = clocks w := by simp [portsStarted]

theorem foldl_setClock_shows (l : List Nat) (w : Work) {c : Nat} (hc : c ∈ l ∨ Shows w Reg.CL_HALF_CLOCK 0 c 0) :
    Shows (l.foldl (fun w c => w.set Reg.CL_HALF_CLOCK 0 c) w) Reg.CL_HALF_CLOCK 0 c 0 := by
  induction l generalizing w with
  | nil => exact hc.resolve_left (by simp)
  | cons d l ih =>
    rw [List.foldl_cons]
    refine ih _ ?_
    by_cases hd : d = c
    · exact .inr (hd ▸ shows_set w Reg.CL_HALF_CLOCK 0 d 0)
    · rcases hc with hc | hc
      · exact .inl ((List.mem_cons.1 hc).resolve_left fun h => hd h.symm)
      · refine .inr (hc.set _ _ _ _ ?_)
        simp only [Fld.key]
        omega

theorem clockKey_half {c : Nat} (h : c < 26) : ClockKey (Reg.CL_HALF_CLOCK.key c 0) := by
  have : Reg.CL_HALF_CLOCK.key c 0 = (((0x30 + c) * 2 ^ 20 + 0) * 2 ^ 12 + 0x104) * 32 + 14 := rfl
  unfold ClockKey
  omega

/-- What a node that was not in Full shows and holds once it has entered full service. -/
theorem enterFull_shows (w : Work) (h : w.nodeState ≠ 2) :
    InService w.enterFull ∧ Shows w.enterFull Reg.GLB_PROMOTING 0 0 0 ∧ w.enterFull.n.bo.promoteAt = none ∧
      ∀ c, c < 26 → Shows w.enterFull Reg.CL_HALF_CLOCK 0 c 0 := by
  rw [enterFull_eq]
  obtain ⟨a, ha⟩ : ∃ a, a = clocked w := ⟨_, rfl⟩
  have hne : (a.set Reg.GLB_PROMOTING 0).nodeState ≠ 2 := by
    rw [Work.nodeState, get_set_apart _ (by decide), ha, (clocked_wide w).get_state stateKey_nodeState]
    exact h
  have hbo : a.n.bo.promoteAt = none := by
    have : ∀ (l : List Nat) (v : Work), (l.foldl (fun w c => w.set Reg.CL_HALF_CLOCK 0 c) v).n = v.n := fun l v =>
      Frame.foldl_keeps (fun w : Work => w.n) (f := fun w c => w.set Reg.CL_HALF_CLOCK 0 c) (fun _ _ => rfl) l v
    rw [ha, clocked, this]
  have hcl : ∀ c, c < 26 → Shows a Reg.CL_HALF_CLOCK 0 c 0 := fun c hc => ha ▸ foldl_setClock_shows _ _ (.inl (List.mem_range.2 hc))
  rw [← ha]
  clear ha
  have hpk : Plain (Reg.GLB_PROMOTING.key 0 0) := StateKey.plain (by unfold StateKey; decide)
  have hclocks : ∀ {u v : Work}, clocks v = clocks u → ∀ c, c < 26 → Shows u Reg.CL_HALF_CLOCK 0 c 0 → Shows v Reg.CL_HALF_CLOCK 0 c 0 :=
    fun h c hc hs => SameAt.shows (congrFun h ⟨_, clockKey_half hc⟩) hs
  obtain ⟨b, hb⟩ : ∃ b, b = (a.set Reg.GLB_PROMOTING 0).setNodeState 2 := ⟨_, rfl⟩
  have hbb : SameW false true true (a.set Reg.GLB_PROMOTING 0) b := hb ▸ setNodeState_wide ..
  have hbo' : b.n.bo.promoteAt = none := hbb.bo.1 ▸ hbo
  have hbi : InService b.cappedBoundary := cappedBoundary_inService (hb ▸ setNodeState_inService _ hne)
  have hbp : Shows b.cappedBoundary Reg.GLB_PROMOTING 0 0 0 :=
    (sameAt_cappedBoundary b (by decide) (by decide) hpk).shows
      ((hb ▸ sameAt_setNodeState _ 2 (by decide) (by decide) hpk : SameAt _ _ b).shows (shows_set ..))
  have hbc : clocks b.cappedBoundary = clocks a := by rw [cappedBoundary_clocks, hb, setNodeState_clocks, set_clocks _ _ _ _ _ (by decide)]
  have hcb : SameW false true false b b.cappedBoundary := cappedBoundary_wide b
  have hrest : SameW true true true b.cappedBoundary (portsStarted b.cappedBoundary.showFrames.fillStore) :=
    SameW.trans (by simp) (portsStarted_wide _)
  rw [← hb]
  refine ⟨hbi.keep hrest, (hrest.sameAt_state (by unfold StateKey; decide)).shows hbp, ?_, fun c hc => hclocks ?_ c hc (hcl c hc)⟩
  · rw [hrest.bo.1, hcb.bo.1, hbo']
  · rw [portsStarted_clocks, fillStore_clocks, showFrames_clocks, hbc]

/-- The part of `leaveDark` after the state is entered: the first sheet, the slices to reconcile, the ports. -/
def opened (u : Work) : Work :=
  let k := u.repTicks
  let first : Tick := u.now + BitVec.ofNat 48 (k - u.now.toNat % k)
  let w := u.reconcileAll
  let w := { w with n.qa.next := Sheet.empty first .open, n.qa.budget := Budget.empty }
  (List.range 32).foldl (fun w p => w.startPort p) w

theorem leaveDark_eq (w : Work) (v : Nat) : w.leaveDark v = opened (if v = 1 then (w.setNodeState 1).showFrames else w.enterFull) := rfl

theorem opened_wide (u : Work) : SameW true true true u (opened u) := by
  simp only [opened, sameW_iff]
  rw [foldl_wide fun w x => by simp]
  exact (wide_update_node ..).trans (reconcileAll_wide u)

/-- Leaving Dark shows the state entered (R456, R458). -/
theorem leaveDark_shows (w : Work) (h : w.nodeState = 0) :
    InService (w.leaveDark 2) ∧ Shows (w.leaveDark 1) Reg.GLB_NODE_STATE 1 0 0 := by
  rw [leaveDark_eq, leaveDark_eq, if_neg (by decide), if_pos rfl]
  constructor
  · exact (enterFull_shows w (by rw [h]; decide)).1.keep (opened_wide _)
  · have hs : SameW true true true (w.setNodeState 1) (w.setNodeState 1).showFrames := by simp
    exact ((hs.trans (opened_wide _)).sameAt_state stateKey_nodeState).shows (setNodeState_shows w (by decide) (by rw [h]; decide))

/-! ## The obligation -/

theorem exec_readyReached (s : State) : exec .readyReached s = execReadyReached s := by simp only [exec]
theorem exec_promotionBoundary (s : State) : exec .promotionBoundary s = execPromotionBoundary s := by simp only [exec]
theorem exec_glbIdLock (s : State) (wr : RegWr) : exec (.glbIdLock wr) s = execGlbIdLock wr s := by simp only [exec]
theorem exec_managementLinkChange (s : State) (port : Nat) (up : Bool) :
    exec (.managementLinkChange port up) s = execManagementLinkChange port up s := by simp only [exec]

/-- READY_REACHED's view with the two readiness bits shown. -/
def readyShown (w : Work) : Work := (w.setFlag Reg.GLB_REH_READY w.rehReady).setFlag Reg.GLB_FULL_READY w.fullReady

/-- A field off the two readiness bits. -/
theorem readyShown_get (w : Work) {g : Fld} (h : Apart Reg.GLB_REH_READY g && Apart Reg.GLB_FULL_READY g) (i j : Nat) :
    (readyShown w).get g i j = w.get g i j := by
  rw [Bool.and_eq_true] at h
  rw [readyShown, get_setFlag_apart _ h.2, get_setFlag_apart _ h.1]

theorem readyShown_flag (w : Work) {g : Fld} (h : Apart Reg.GLB_REH_READY g && Apart Reg.GLB_FULL_READY g) (i j : Nat) :
    (readyShown w).flag g i j = w.flag g i j := by rw [Work.flag, readyShown_get w h, Work.flag]

theorem readyShown_readyStacks (w : Work) : (readyShown w).readyStacks = w.readyStacks := by
  have h : (readyShown w).stackReady = w.stackReady := funext fun st => by
    rw [Work.stackReady, readyShown_get w (by decide), Work.stackReady]
  rw [Work.readyStacks, h, Work.readyStacks]

theorem readyShown_rehReady (w : Work) : (readyShown w).rehReady = w.rehReady := by
  simp +decide only [Work.rehReady, readyShown_readyStacks, readyShown_flag]

theorem readyShown_fullReady (w : Work) : (readyShown w).fullReady = w.fullReady := by
  simp +decide only [Work.fullReady, readyShown_rehReady, readyShown_readyStacks, readyShown_flag, readyShown_get]

theorem flag_eq {s : State} {f : Fld} {i j v : Nat} (h : rd s f i j = v) : s.view.flag f i j = (v != 0) := by
  rw [Work.flag, show s.view.get f i j = v from h]

/-- A management port's link may come up (R448, R449, R465). -/
def linkMay (w : Work) (port : Nat) : Bool :=
  ((w.flag Reg.GLB_FW_RUNNING && (w.flag Reg.GLB_D2D_UP || w.flag Reg.GLB_D2D_FAIL)) &&
    (decide (w.get Reg.GLB_MGT_SEL = port) || w.n.bo.mgtFirst || !w.flag Reg.MG_EN (w.get Reg.GLB_MGT_SEL)) ||
    w.n.bo.recovery && decide (w.get Reg.GLB_MGT_SEL = port)) && w.flag Reg.MG_EN port

/-- A management port's link has changed. -/
def linked (w : Work) (port : Nat) (up : Bool) : Work :=
  { (w.setFlag Reg.MG_LINK_UP up port).setReady (6 + port) up with
    n.bo.mgtFirst := w.n.bo.mgtFirst || (decide (w.get Reg.GLB_MGT_SEL = port) && up) }

theorem exec_linkChange (s : State) {port : Nat} {up : Bool} (ha : s.alive = true) : exec (.managementLinkChange port up) s =
    .next (s.close (if 2 ≤ port ∨ (up = true ∧ (!linkMay s.view port) = true) then s.view else linked s.view port up)) := by
  rw [exec_managementLinkChange, execManagementLinkChange, run_alive _ ha]
  rfl

/-- A view whose node alone changes has written the same registers. -/
theorem rw_update (w : Work) (n : Node) : ({ w with n := n } : Work).rw = w.rw := rfl

theorem linked_rw (w : Work) (port : Nat) (up : Bool) :
    (linked w port up).rw = ((w.setFlag Reg.MG_LINK_UP up port).setReady (6 + port) up).rw :=
  rw_update ..

theorem plain_linkUp {port : Nat} (hp : port < 2) : Plain (Reg.MG_LINK_UP.key port 0) := by
  have : Reg.MG_LINK_UP.key port 0 = (((6 + port) * 2 ^ 20 + 0) * 2 ^ 12 + 0x104) * 32 + 0 := rfl
  unfold Plain
  omega

theorem linked_shows {s : State} (hc : Canonical s) {port : Nat} (hp : port < 2) (up : Bool) :
    rd (s.close (linked s.view port up)) Reg.MG_LINK_UP port = up.toNat := by
  have h : Shows ((s.view.setFlag Reg.MG_LINK_UP up port).setReady (6 + port) up) Reg.MG_LINK_UP up.toNat port 0 :=
    (reports_setReady (s.view.setFlag Reg.MG_LINK_UP up port) (6 + port) up).shows (plain_linkUp hp) (shows_flag _ _ _ _ _ (by decide))
  rw [Shows, ← linked_rw] at h
  exact Shows.rd hc.1 h

theorem linked_mem (s : State) (port : Nat) (up : Bool) : (s.close (linked s.view port up)).mem = s.mem :=
  close_mem_quiet s _ (by simp [linked]) (by simp [linked])

/-- Settles O10. -/
theorem nodeStatesAreEnteredAndLinksComeUp : Obligations.NodeStatesAreEnteredAndLinksComeUp := by
  unfold Obligations.NodeStatesAreEnteredAndLinksComeUp
  refine ⟨fun s ha hc => ?_, fun s ha hc h1 hp => ?_, fun s wr inst idx ha hc hl hw => ?_, fun s port ha hc hp hb hen hturn => ?_,
    fun s port ha hb => ?_, fun s port ha hc hp => ?_⟩
  · have hadv : SameW false false false (readyShown s.view) (readyShown s.view).advance := advance_wide _
    have hstage : ∀ {f : Fld} {v : Nat}, Stage (f.key 0 0) → Shows (readyShown s.view) f v 0 0 →
        rd (s.close (readyShown s.view).advance) f = v := fun hk hs => ((hadv.sameAt hk).shows hs).rd hc.1
    have hns : (readyShown s.view).nodeState = rd s Reg.GLB_NODE_STATE := readyShown_get s.view (by decide) 0 0
    have hv : ∀ {v}, rd s Reg.MIR_VALID = v → (readyShown s.view).flag Reg.MIR_VALID = (v != 0) := fun h =>
      (readyShown_flag s.view (by decide) 0 0).trans (flag_eq h)
    refine ⟨_, ?_, hstage (by unfold Stage; decide) ?_, hstage (by unfold Stage; decide) ?_, fun h0 hval hf hr => ?_,
      fun h0 hval hf hnr hr hen hef => ?_, fun h0 hor => ?_⟩
    · rw [exec_readyReached, execReadyReached, run_alive _ ha]
      rfl
    · exact (shows_flag _ _ _ 0 0 (by decide)).set _ _ _ _ (by decide)
    · exact shows_flag _ _ _ 0 0 (by decide)
    · have hfen : (readyShown s.view).n.mi.fenced = false := hf
      refine InService.rd hc ?_
      rw [Work.advance, hv hval, hfen, Work.isDark, hns, h0, readyShown_fullReady, hr]
      exact (leaveDark_shows _ (hns.trans h0)).1
    · have hfen : (readyShown s.view).n.mi.fenced = false := hf
      have h1 : Shows (readyShown s.view).advance Reg.GLB_NODE_STATE 1 0 0 := by
        rw [Work.advance, hv hval, hfen, Work.isDark, hns, h0, readyShown_fullReady, hnr, readyShown_rehReady, hr,
          readyShown_flag _ (by decide), flag_eq hen, readyShown_flag _ (by decide), flag_eq hef]
        exact (leaveDark_shows _ (hns.trans h0)).2
      exact h1.rd hc.1
    · have hstay : (readyShown s.view).advance = readyShown s.view := by
        rw [Work.advance]
        refine if_pos ?_
        rcases hor with h | h
        · rw [hv h]; rfl
        · rw [show (readyShown s.view).n.mi.fenced = true from h]; simp
      rw [hstay]
      refine (SameAt.rd hc.1 rfl (SameAt.set (SameAt.set (SameAt.refl _ _) _ _ _ _ ?_) _ _ _ _ ?_)).trans h0 <;> decide
  · have hns : s.view.nodeState = 1 := h1
    obtain ⟨hi, hpr, hat, hcl⟩ := enterFull_shows s.view (by rw [hns]; decide)
    have he : exec .promotionBoundary s = .next (s.close s.view.enterFull) := by
      rw [exec_promotionBoundary, execPromotionBoundary, run_alive _ ha]
      simp [hns, hp]
    exact ⟨_, he, hi.rd hc, hpr.rd hc.1, by rw [close_node, hat], fun c hcc => (hcl c hcc).rd hc.1⟩
  · have hports : SameW true true true (((s.view.writeFields wr .GLB inst idx 0x10C).set Reg.GLB_LOCK 1).set Reg.GLB_IDS_LOCKED 1)
        (s.view.writeFields wr .GLB inst idx 0x10C).lockIds := by
      rw [sameW_iff, Work.lockIds, foldl_wide fun w x => by simp]
    refine ⟨_, ?_, ((hports.sameAt (by unfold Stage; decide)).shows (shows_set _ _ _ 0 0)).rd hc.1,
      ((hports.sameAt (by unfold Stage; decide)).shows (Shows.set (shows_set _ _ _ 0 0) _ _ _ _ (by decide))).rd hc.1⟩
    rw [exec_glbIdLock, execGlbIdLock, run_alive _ ha, regAction_lands hl _ hl.1, if_pos hw]
  · have hmay : linkMay s.view port = true := by
      have ht : (decide (s.view.get Reg.GLB_MGT_SEL = port) || s.view.n.bo.mgtFirst) = true := by
        rcases hturn with h | h
        · simp [show s.view.get Reg.GLB_MGT_SEL = port from h.symm]
        · simp [h]
      rw [linkMay, flag_eq hb.1, flag_eq hb.2, flag_eq hen, ht]
      rfl
    have he : exec (.managementLinkChange port true) s = .next (s.close (linked s.view port true)) := by
      rw [exec_linkChange s ha, if_neg (by rw [hmay]; simpa using hp)]
    refine ⟨_, he, linked_shows hc hp true, fun h => ?_, linked_mem s port true⟩
    have hg : s.view.get Reg.GLB_MGT_SEL = port := h.symm
    change (s.view.n.bo.mgtFirst || (decide (s.view.get Reg.GLB_MGT_SEL = port) && true)) = true
    simp [hg]
  · have hmay : linkMay s.view port = false := by
      rw [linkMay, flag_eq hb.1, flag_eq hb.2.1, show s.view.n.bo.recovery = false from hb.2.2]
      simp
    rw [exec_linkChange s ha, if_pos (.inr ⟨rfl, by rw [hmay]; rfl⟩), Resets.close_view]
  · have he : exec (.managementLinkChange port false) s = .next (s.close (linked s.view port false)) := by
      rw [exec_linkChange s ha, if_neg (by simpa using hp)]
    exact ⟨_, he, linked_shows hc hp false, linked_mem s port false⟩

end Sys2Proof.Entering
end

section
/-!
The numbered lists of the node: what a lookup finds after an insertion, a change, an erasure or a filter.
-/

namespace Sys2Proof.Assoc

open Sys2Proof.Machine

variable {α : Type} (k j : Nat) (v : α) (f : α → α) (l : List (Nat × α))

@[simp] theorem lookupN_nil : lookupN k ([] : List (Nat × α)) = none := rfl

theorem lookupN_cons (e : Nat × α) : lookupN k (e :: l) = if e.1 = k then some e.2 else lookupN k l := by
  unfold lookupN
  by_cases h : e.1 = k <;> simp [h]

@[simp] theorem lookupN_insertN : lookupN k (insertN k v l) = some v := by
  induction l with
  | nil => simp [insertN, lookupN]
  | cons e l ih =>
    unfold insertN
    split_ifs with h1 h2
    · simp [lookupN]
    · simp [lookupN]
    · rw [lookupN_cons, if_neg h1, ih]

theorem lookupN_insertN_ne {k j : Nat} (h : j ≠ k) : lookupN j (insertN k v l) = lookupN j l := by
  induction l with
  | nil => simp [insertN, lookupN, h.symm]
  | cons e l ih =>
    unfold insertN
    split_ifs with h1 h2
    · rw [lookupN_cons, lookupN_cons, if_neg (Ne.symm h), if_neg (by omega)]
    · rw [lookupN_cons, if_neg (Ne.symm h)]
    · rw [lookupN_cons, lookupN_cons, ih]

@[simp] theorem lookupN_eraseN : lookupN k (eraseN k l) = none := by
  induction l with
  | nil => rfl
  | cons e l ih =>
    unfold eraseN at *
    by_cases h : e.1 = k
    · simpa [h] using ih
    · rw [List.filter_cons_of_pos (by simpa using h), lookupN_cons, if_neg h, ih]

theorem lookupN_eraseN_ne {k j : Nat} (h : j ≠ k) : lookupN j (eraseN k l) = lookupN j l := by
  induction l with
  | nil => rfl
  | cons e l ih =>
    unfold eraseN at *
    by_cases hk : e.1 = k
    · rw [List.filter_cons_of_neg (by simpa using hk), ih, lookupN_cons, if_neg (by omega)]
    · rw [List.filter_cons_of_pos (by simpa using hk), lookupN_cons, lookupN_cons, ih]

@[simp] theorem lookupN_modifyN : lookupN k (modifyN k f l) = (lookupN k l).map f := by
  induction l with
  | nil => rfl
  | cons e l ih =>
    unfold modifyN at *
    rw [List.map_cons, lookupN_cons, lookupN_cons]
    by_cases h : e.1 = k <;> simp [h, ih]

theorem lookupN_modifyN_ne {k j : Nat} (h : j ≠ k) : lookupN j (modifyN k f l) = lookupN j l := by
  induction l with
  | nil => rfl
  | cons e l ih =>
    unfold modifyN at *
    rw [List.map_cons, lookupN_cons, lookupN_cons, ih]
    by_cases hk : e.1 = k
    · simp [hk, Ne.symm h]
    · simp [hk]

/-- What a lookup finds stands in the list. -/
theorem mem_of_lookupN {l : List (Nat × α)} {k : Nat} {v : α} (h : lookupN k l = some v) : (k, v) ∈ l := by
  unfold lookupN at h
  obtain ⟨e, he, rfl⟩ := Option.map_eq_some_iff.1 h
  have hk : e.1 = k := by simpa using List.find?_some he
  exact hk ▸ List.mem_of_find?_eq_some he

end Sys2Proof.Assoc
end

section
/-!
PCIe, its functions and the clocks at the balls (R305, R306, R332, R333, R446, R508): the obligation on their events.
-/

namespace Sys2Proof.Functions

open Sys2Proof.Machine Sys2Proof.Safety Sys2Proof.Laws Sys2Proof.Steps Sys2Proof.Wide Sys2Proof.Entering Sys2Proof.Assoc

/-! ## A function's reset -/

theorem fold_reset_queues (mine : Nat → Bool) (l : List (Nat × Queue)) (w : Work) :
    (l.foldl (fun w e => if mine e.1 then w.setQueue e.1 e.2.reset else w) w).n.hq.queues =
      l.foldl (fun qs e => if mine e.1 then insertN e.1 e.2.reset qs else qs) w.n.hq.queues := by
  induction l generalizing w with
  | nil => rfl
  | cons e l ih => rw [List.foldl_cons, List.foldl_cons, ih]; split <;> rfl

/-- A queue that has been reset is Disabled or Draining. -/
theorem reset_state (x : Queue) : x.reset.state = .disabled ∨ x.reset.state = .draining := by
  unfold Queue.reset
  split_ifs with h
  · exact .inl h
  · exact .inr rfl

/-- Once every queue of a list has been reset, no queue of the list is Enabled or in Error. -/
theorem fold_reset_state (l qs : List (Nat × Queue)) (q : Nat)
    (h : q ∈ l.map (·.1) ∨ ∀ x, lookupN q qs = some x → x.state = .disabled ∨ x.state = .draining) :
    ∀ x, lookupN q (l.foldl (fun qs e => insertN e.1 e.2.reset qs) qs) = some x → x.state = .disabled ∨ x.state = .draining := by
  induction l generalizing qs with
  | nil => exact h.resolve_left (by simp)
  | cons e l ih =>
    rw [List.foldl_cons]
    refine ih _ ?_
    by_cases he : e.1 = q
    · refine .inr fun x hx => ?_
      rw [he, lookupN_insertN] at hx
      exact Option.some.inj hx ▸ reset_state e.2
    · rcases h with h | h
      · rw [List.map_cons, List.mem_cons] at h
        exact .inl (h.resolve_left (Ne.symm he))
      · refine .inr fun x hx => ?_
        rw [lookupN_insertN_ne _ _ (Ne.symm he)] at hx
        exact h x hx

section
variable (w : Work) (fn : Nat) (mine : Nat → Bool)

theorem resetFunction_queues : (w.resetFunction fn mine).n.hq.queues =
    w.n.hq.queues.foldl (fun qs e => if mine e.1 then insertN e.1 e.2.reset qs else qs) w.n.hq.queues :=
  fold_reset_queues mine w.n.hq.queues w

@[simp] theorem resetFunction_bo : (w.resetFunction fn mine).n.bo = w.n.bo :=
  Frame.foldl_keeps (fun w : Work => w.n.bo) (f := fun w (e : Nat × Queue) => if mine e.1 then w.setQueue e.1 e.2.reset else w)
    (fun w e => by split <;> rfl) w.n.hq.queues w

end

/-- The virtual functions' own parts leave the queues. -/
theorem fold_resetFunction_queues (l : List Nat) (w : Work) :
    (l.foldl (fun w p => w.resetFunction p fun _ => false) w).n.hq.queues = w.n.hq.queues :=
  Frame.foldl_keeps (fun w : Work => w.n.hq.queues) (f := fun w p => w.resetFunction p fun _ => false)
    (fun w p => by
      rw [resetFunction_queues]
      exact Frame.foldl_keeps id (f := fun qs (e : Nat × Queue) => if false = true then insertN e.1 e.2.reset qs else qs)
        (fun _ _ => rfl) w.n.hq.queues w.n.hq.queues) l w

/-! ## The obligation -/

theorem exec_perstAssert (s : State) : exec .perstAssert s = execPerstAssert s := by simp only [exec]
theorem exec_perstRelease (s : State) : exec .perstRelease s = execPerstRelease s := by simp only [exec]
theorem exec_pcieRefclkLost (s : State) : exec .pcieRefclkLost s = execPcieRefclkLost s := by simp only [exec]
theorem exec_pcieRefclkReturn (s : State) : exec .pcieRefclkReturn s = execPcieRefclkReturn s := by simp only [exec]
theorem exec_pcieLinkTrained (s : State) (a b : Nat) : exec (.pcieLinkTrained a b) s = execPcieLinkTrained a b s := by simp only [exec]
theorem exec_serdesclkLost (s : State) (a : Nat) : exec (.serdesclkLost a) s = execSerdesclkLost a s := by simp only [exec]
theorem exec_serdesclkReturn (s : State) (a : Nat) : exec (.serdesclkReturn a) s = execSerdesclkReturn a s := by simp only [exec]
theorem exec_busMaster (s : State) (on : Bool) : exec (.busMasterEnableChange on) s = execBusMasterEnableChange on s := by simp only [exec]
theorem exec_sriov (s : State) (n : Nat) : exec (.sriovVfEnable n) s = execSriovVfEnable n s := by simp only [exec]
theorem exec_functionReset (s : State) (fn : Fn) : exec (.functionReset fn) s = execFunctionReset fn s := by simp only [exec]

theorem Shows.of_update {w : Work} {f : Fld} {v i j : Nat} (h : Shows w f v i j) (n : Node) : Shows { w with n := n } f v i j := h

/-- The endpoint's part of the node but for the registers of the link: every function reset. -/
def functionsReset (w : Work) : Work := (List.range 64).foldl (fun w f => w.resetFunction f fun _ => f = 0) w

/-- Every function reset and the link's registers cleared. -/
def linkCleared (w : Work) : Work :=
  ((((((functionsReset w).set Reg.PCI_UP 0).set Reg.PCI_SPEED 0).set Reg.PCI_WIDTH 0).set Reg.PCI_DEGRADED 0).set Reg.PCI_VFS 0).set
    Reg.PCI_BME 0

theorem resetPcie_eq (w : Work) : w.resetPcie =
    { ((linkCleared w).setReady 0x76 false) with n.bo.vfEnabled := 0, n.bo.busMaster := false, n.hq.heldOut := [] } := by
  simp only [Work.resetPcie, List.foldl, linkCleared, functionsReset]

/-- After a reset of the endpoint PCI_UP shows 0. -/
theorem resetPcie_shows (w : Work) : Shows w.resetPcie Reg.PCI_UP 0 0 0 := by
  have hs : Shows (linkCleared w) Reg.PCI_UP 0 0 0 := by
    unfold linkCleared
    iterate 5 refine Shows.set ?_ _ _ _ _ (by decide)
    exact shows_set (functionsReset w) Reg.PCI_UP 0 0 0
  rw [resetPcie_eq]
  exact Shows.of_update ((reports_setReady _ 0x76 false).shows (by unfold Plain; decide) hs) _

theorem resetPcie_n (w : Work) : w.resetPcie.n.bo.vfEnabled = 0 ∧ w.resetPcie.n.bo.busMaster = false ∧ w.resetPcie.n.hq.heldOut = [] := by
  rw [resetPcie_eq]
  exact ⟨rfl, rfl, rfl⟩

/-- An update of the node leaves the memory writes and no reset of it. -/
theorem close_mem_of_same {s : State} {w : Work} {N B : Bool} (h : SameW N B true s.view w) (n : Node) :
    (s.close { w with n := n }).mem = s.mem := close_mem_quiet s _ h.wr h.wiped

theorem resetPcie_same (w : Work) : SameW true false true w w.resetPcie := by simp

/-! ## The SerDes clock -/

/-- A half's state as it was, in a state that a clock's loss leaves, or 1. -/
def Idle (s : State) (p h : Nat) (w : Work) : Prop :=
  Shows w (stateFld h) 1 p 0 ∨ SameAt ((stateFld h).key p 0) s.view w ∧ rd s (stateFld h) p ≤ 1

theorem Idle.rd {s : State} (hc : Canonical s) {p h : Nat} {w : Work} (hi : Idle s p h w) (hw : w.wiped = false) :
    Safety.rd (s.close w) (stateFld h) p ≤ 1 := by
  rcases hi with hi | ⟨hi, hle⟩
  · rw [hi.rd hc.1]
  · rw [hi.rd hc.1 hw]
    exact hle

theorem Idle.keep {s : State} {p h : Nat} {a b : Work} (hi : Idle s p h a) (hk : SameAt ((stateFld h).key p 0) a b) : Idle s p h b :=
  hi.imp hk.shows (And.imp_left fun g => g.trans hk)

/-- What one element of a list brings about, and every element keeps, holds after the fold. -/
theorem foldl_reaches {α β : Type} {f : β → α → β} {I P : β → Prop} {x : α} (hI : ∀ b y, I b → I (f b y)) (hP : ∀ b y, I b → P b → P (f b y))
    (hx : ∀ b, I b → P (f b x)) (l : List α) (b : β) (hb : I b) (h : x ∈ l ∨ P b) : P (l.foldl f b) := by
  induction l generalizing b with
  | nil => exact h.resolve_left (by simp)
  | cons y l ih =>
    refine ih (f b y) (hI b y hb) ?_
    rcases h with h | h
    · rcases List.mem_cons.1 h with rfl | h
      · exact .inr (hx b hb)
      · exact .inl h
    · exact .inr (hP b y hb h)

theorem foldl_invariant {α β : Type} {f : β → α → β} {I : β → Prop} (hI : ∀ b y, I b → I (f b y)) (l : List α) (b : β) (hb : I b) :
    I (l.foldl f b) := by
  induction l generalizing b with
  | nil => exact hb
  | cons y l ih => exact ih _ (hI b y hb)

theorem stateFld_low (h : Nat) : (stateFld h).off = 0x104 ∧ (stateFld h).lo < 32 ∧ (stateFld h).width = 3 ∧ (stateFld h).blk = .LP := by
  unfold stateFld
  split <;> decide

theorem plain_stateFld (p h : Nat) : Plain ((stateFld h).key p 0) := by
  obtain ⟨ho, hl, -, hb⟩ := stateFld_low h
  have hp := key_page (stateFld h) p (by omega) hl
  rw [hb, show Block.page .LP = 0x50 from rfl] at hp
  unfold Plain
  rw [key_off _ _ _ (by omega) hl, hp]
  omega

/-- A half's state is set, and what the port's page reports; nothing else is written. -/
theorem sameAt_setPort (w : Work) (p h v : Nat) {k : Nat} (hk : (stateFld h).key p 0 ≠ k) (hp : Plain k) : SameAt k w (w.setPort p h v) := by
  unfold Work.setPort
  extract_lets +onlyGivenNames live _ _ a b c d
  have ha : SameAt k w a := SameAt.ite (SameAt.refl k w) (SameAt.refl k w)
  have hc : SameAt k w c := SameAt.ite (ha.set _ _ _ _ hk) (ha.set _ _ _ _ hk)
  have hd : SameAt k w d := SameAt.ite (hc.trans ((reports_isr _ _ _).sameAt hp)) hc
  exact hd.trans ((reports_setReady _ _ _).sameAt hp)

theorem shows_setPort (w : Work) (p h : Nat) : Shows (w.setPort p h 1) (stateFld h) 1 p 0 := by
  unfold Work.setPort
  extract_lets +onlyGivenNames live _ _ a b c d
  have hb : Shows b (stateFld h) 1 p 0 := by
    have hs := shows_set a (stateFld h) 1 p 0
    rwa [(stateFld_low h).2.2.1] at hs
  have hc : Shows c (stateFld h) 1 p 0 := SameAt.shows (SameAt.ite (SameAt.refl _ b) (SameAt.refl _ b)) hb
  have hd : Shows d (stateFld h) 1 p 0 :=
    SameAt.shows (SameAt.ite ((reports_isr _ _ _).sameAt (plain_stateFld p h)) (SameAt.refl _ c)) hc
  exact (reports_setReady _ _ _).shows (plain_stateFld p h) hd

/-- A half falls back to Detect when its clock is lost. -/
def fall (w : Work) (p h : Nat) : Work :=
  if w.portLive p h then w.dropPort p h (some 3) else if 2 ≤ w.portState p h then w.setPort p h 1 else w

theorem sameAt_fall (w : Work) (p h : Nat) {k : Nat} (hk : (stateFld h).key p 0 ≠ k) (hp : Plain k) : SameAt k w (fall w p h) := by
  unfold fall
  refine SameAt.ite ?_ (SameAt.ite (sameAt_setPort w p h 1 hk hp) (SameAt.refl k w))
  exact (sameAt_setPort (w.modHalf p h fun x => { x with swap := none, rxQ := [] }) p h 1 hk hp).trans ((reports_report _ _).sameAt hp)

theorem fall_wide (w : Work) (p h : Nat) : SameW true true false w (fall w p h) := by simp [fall]

theorem fall_idle {s : State} {w : Work} {p h : Nat} (hr : w.regs = s.regs)
    (hw : Idle s p h w ∨ SameAt ((stateFld h).key p 0) s.view w) : Idle s p h (fall w p h) := by
  unfold fall
  split_ifs with h1 h2
  · exact .inl ((reports_report _ _).shows (plain_stateFld p h) (shows_setPort _ p h))
  · exact .inl (shows_setPort w p h)
  · refine hw.elim id fun hs => .inr ⟨hs, ?_⟩
    have : w.get (stateFld h) p = rd s (stateFld h) p := hs.get hr
    rw [← this]
    exact Nat.lt_succ_iff.1 (Nat.not_le.1 h2)

theorem stateKey_ne {p h q g : Nat} (hn : ¬ (q = p ∧ stateFld g = stateFld h)) : (stateFld g).key q 0 ≠ (stateFld h).key p 0 := by
  obtain ⟨ho, hl, -, hb⟩ := stateFld_low h
  obtain ⟨ho', hl', -, hb'⟩ := stateFld_low g
  intro e
  simp only [Fld.key, ho, ho', hb, hb'] at e
  refine hn ⟨by omega, ?_⟩
  have : (stateFld g).lo = (stateFld h).lo := by omega
  revert this
  unfold stateFld
  split <;> split <;> decide

/-- What holds of a half's state all along the fold: as at the start, or idle. -/
def Along (s : State) (p h : Nat) (w : Work) : Prop :=
  w.regs = s.regs ∧ (∀ q, SameAt (Reg.LP_SPLIT.key q 0) s.view w) ∧ (Idle s p h w ∨ SameAt ((stateFld h).key p 0) s.view w)

theorem fall_along {s : State} {p h : Nat} {w : Work} (q g : Nat) (ha : Along s p h w) : Along s p h (fall w q g) := by
  obtain ⟨hr, hs, hi⟩ := ha
  refine ⟨(fall_wide w q g).regs.trans hr, fun x => (hs x).trans (sameAt_fall w q g ?_ ?_), ?_⟩
  · obtain ⟨ho, hl, -, -⟩ := stateFld_low g
    exact key_ne_of_off _ _ _ _ (by decide) ⟨by omega, hl⟩ (by rw [ho]; decide)
  · have hp := key_page Reg.LP_SPLIT x (by decide) (by decide)
    rw [show Reg.LP_SPLIT.blk.page = 0x50 from rfl] at hp
    unfold Plain
    rw [key_off _ _ _ (by decide) (by decide), hp, show Reg.LP_SPLIT.off = 0x100 from rfl]
    omega
  · by_cases hn : q = p ∧ stateFld g = stateFld h
    · obtain ⟨rfl, hg⟩ := hn
      refine .inl ?_
      have := fall_idle (p := q) (h := g) hr (by unfold Idle at hi ⊢; rwa [hg])
      unfold Idle at this ⊢
      rwa [hg] at this
    · have hk := sameAt_fall w q g (stateKey_ne hn) (plain_stateFld p h)
      exact hi.imp (·.keep hk) (·.trans hk)

theorem fall_keeps_idle {s : State} {p h : Nat} {w : Work} (q g : Nat) (ha : Along s p h w) (hi : Idle s p h w) : Idle s p h (fall w q g) := by
  by_cases hn : q = p ∧ stateFld g = stateFld h
  · obtain ⟨rfl, hg⟩ := hn
    have := fall_idle (p := q) (h := g) ha.1 (.inl (by unfold Idle at hi ⊢; rwa [hg]))
    unfold Idle at this ⊢
    rwa [hg] at this
  · exact hi.keep (sameAt_fall w q g (stateKey_ne hn) (plain_stateFld p h))

/-- The halves of a port fall. -/
def fallPort (w : Work) (p : Nat) : Work := (w.halvesOf p).foldl (fun w h => fall w p h) w

theorem halvesOf_along {s : State} {p h : Nat} {w : Work} (ha : Along s p h w) (q : Nat) : w.halvesOf q = s.view.halvesOf q := by
  have : w.get Reg.LP_SPLIT q = s.view.get Reg.LP_SPLIT q := (ha.2.1 q).get ha.1
  rw [Work.halvesOf, Work.flag, this, Work.halvesOf, Work.flag]

theorem serdesLost_idle {s : State} (n : Node) {p h : Nat} (ports : List Nat) (hp : p ∈ ports) (hh : h ∈ s.view.halvesOf p) :
    Idle s p h (ports.foldl fallPort { s.view with n := n }) := by
  have hin : ∀ (w : Work) q, Along s p h w → Along s p h (fallPort w q) := fun w q ha =>
    foldl_invariant (fun b g hb => fall_along q g hb) _ w ha
  refine foldl_reaches (I := Along s p h) (x := p) hin (fun w q ha hi => ?_) (fun w ha => ?_) ports _
    ⟨rfl, fun _ => SameAt.refl _ _, .inr (SameAt.refl _ _)⟩ (.inl hp)
  · exact (foldl_invariant (I := fun w => Along s p h w ∧ Idle s p h w)
      (fun b g hb => ⟨fall_along q g hb.1, fall_keeps_idle q g hb.1 hb.2⟩) _ w ⟨ha, hi⟩).2
  · exact foldl_reaches (I := Along s p h) (x := h) (fun b g hb => fall_along p g hb) (fun b g hb hi => fall_keeps_idle p g hb hi)
      (fun b hb => fall_idle hb.1 hb.2.2) _ w ha (.inl (halvesOf_along ha p ▸ hh))

/-! ## Bus Master Enable (R333) -/

/-- What the endpoint's Bus Master Enable bit sends leaves the bit and the endpoint's enables. -/
theorem flushHeld_keeps {k : Nat} (w : Work) : SameAt k w w.flushHeld ∧ w.flushHeld.n.bo = w.n.bo := by
  unfold Work.flushHeld
  refine foldl_invariant (I := fun v : Work => SameAt k w v ∧ v.n.bo = w.n.bo) (fun v o hv => ?_) _ _ ⟨SameAt.refl _ _, rfl⟩
  cases o with
  | write fn relaxed a bs =>
    simp only [Work.hostStore]
    split <;> exact hv
  | msix fn x =>
    have hs : SameAt k v (v.msixSend fn x) := by
      unfold Work.msixSend
      exact SameAt.ite rfl (SameAt.ite rfl rfl)
    exact ⟨hv.1.trans hs, (msixSend_bo v fn x).trans hv.2⟩

theorem configRequest_up {w : Work} (hu : w.flag Reg.PCI_UP = true) (hf : w.flag Reg.GLB_FW_RUNNING = true) (act : Work → Work) :
    w.configRequest act = act w := by
  rw [Work.configRequest, hu, hf]
  rfl

/-- A command that changes the node alone leaves the rest of the state. -/
theorem close_update (s : State) (n : Node) : s.close { s.view with n := n } = { s with node := n } := by
  simp [State.close]

theorem fallPorts_wide (l : List Nat) (w : Work) : SameW true true false w (l.foldl fallPort w) := by
  rw [sameW_iff]
  exact foldl_wide (fun w p => foldl_wide (fun w h => fall_wide w p h) _ _) l w

theorem serdesclkLost_falls (s : State) (clk : Nat) (ha : s.alive = true) (hc : Canonical s) (hclk : clk < 4) :
    ∃ t, exec (.serdesclkLost clk) s = .next t ∧ t.node.bo.serdesClk = s.node.bo.serdesClk.set clk false ∧
      ∀ p, clk * 8 ≤ p → p < clk * 8 + 8 → ∀ h ∈ s.view.halvesOf p, rd t (stateFld h) p ≤ 1 := by
  obtain ⟨n, hn⟩ : ∃ n, n = { s.node with bo := { s.node.bo with serdesClk := s.node.bo.serdesClk.set clk false } } := ⟨_, rfl⟩
  obtain ⟨l, hl⟩ : ∃ l, l = (List.range 8).map (8 * clk + ·) := ⟨_, rfl⟩
  have he : exec (.serdesclkLost clk) s = .next (s.close (l.foldl fallPort { s.view with n := n })) := by
    rw [exec_serdesclkLost, execSerdesclkLost, run_alive _ ha, hl, hn]
    simp only [if_neg (Nat.not_le.2 hclk)]
    rfl
  have hsame := fallPorts_wide l { s.view with n := n }
  have hbo : (l.foldl fallPort { s.view with n := n }).n.bo = n.bo := hsame.bo.1
  refine ⟨_, he, ?_, fun p hlo hhi h hh => ?_⟩
  · rw [close_node, hbo, hn]
  · refine (serdesLost_idle n l ?_ hh).rd hc hsame.wiped
    rw [hl]
    exact List.mem_map.2 ⟨p - 8 * clk, List.mem_range.2 (by omega), by omega⟩

theorem pcieLinkTrained_shows (s : State) (speed width : Nat) (ha : s.alive = true) (hc : Canonical s) (h1 : s.node.bo.perst = false)
    (h2 : s.node.bo.perstHeld = false) (h3 : s.node.bo.pcieClk = true) (h4 : s.node.bo.romDone = true)
    (h5 : s.node.bo.recovery = false) :
    ∃ t, exec (.pcieLinkTrained speed width) s = .next t ∧ rd t Reg.PCI_UP = 1 ∧ rd t Reg.PCI_SPEED = speed % 2 ^ Reg.PCI_SPEED.width ∧
      rd t Reg.PCI_WIDTH = width % 2 ^ Reg.PCI_WIDTH.width ∧
      rd t Reg.PCI_DEGRADED = (decide (speed < 5) || decide (width < 8)).toNat ∧ t.mem = s.mem := by
  obtain ⟨v, hv⟩ : ∃ v, v = (((s.view.set Reg.PCI_UP 1).set Reg.PCI_SPEED speed).set Reg.PCI_WIDTH width).setFlag Reg.PCI_DEGRADED
    (speed < 5 || width < 8) := ⟨_, rfl⟩
  have hvw : SameW true true true s.view v := by rw [hv]; simp +decide
  have he : exec (.pcieLinkTrained speed width) s = .next (s.close (v.setReady 0x76 true)) := by
    rw [exec_pcieLinkTrained, execPcieLinkTrained, run_alive _ ha, hv]
    simp only [view_n, h1, h2, h3, h4, h5]
    rfl
  have hk : ∀ {f : Fld} {x : Nat}, Plain (f.key 0 0) → Shows v f x 0 0 → rd (s.close (v.setReady 0x76 true)) f = x := fun hp hs =>
    ((reports_setReady v 0x76 true).shows hp hs).rd hc.1
  refine ⟨_, he, hk (by unfold Plain; decide) ?_, hk (by unfold Plain; decide) ?_, hk (by unfold Plain; decide) ?_,
    hk (by unfold Plain; decide) ?_, close_mem_quiet s _ ((setReady_wr ..).trans hvw.wr) ((setReady_wiped ..).trans hvw.wiped)⟩
  · rw [hv]
    exact (((shows_set _ _ _ 0 0).set _ _ _ _ (by decide)).set _ _ _ _ (by decide)).set _ _ _ _ (by decide)
  · rw [hv]
    exact ((shows_set _ _ _ 0 0).set _ _ _ _ (by decide)).set _ _ _ _ (by decide)
  · rw [hv]
    exact (shows_set _ _ _ 0 0).set _ _ _ _ (by decide)
  · rw [hv]
    exact shows_flag _ _ _ 0 0 (by decide)

theorem busMaster_shows (s : State) (on : Bool) (ha : s.alive = true) (hc : Canonical s)
    (hb : rd s Reg.PCI_UP = 1 ∧ rd s Reg.GLB_FW_RUNNING = 1) :
    ∃ t, exec (.busMasterEnableChange on) s = .next t ∧ t.node.bo.busMaster = on ∧ rd t Reg.PCI_BME = on.toNat ∧
      t.node.bo.vfEnabled = s.node.bo.vfEnabled := by
  obtain ⟨u, hu⟩ : ∃ u, u = ({ (s.view.setFlag Reg.PCI_BME on) with n.bo.busMaster := on } : Work) := ⟨_, rfl⟩
  have he : exec (.busMasterEnableChange on) s = .next (s.close (if on then u.flushHeld else u)) := by
    rw [exec_busMaster, execBusMasterEnableChange, run_alive _ ha, configRequest_up (flag_eq hb.1) (flag_eq hb.2), hu]
  have hs : Shows u Reg.PCI_BME on.toNat 0 0 := hu ▸ Shows.of_update (shows_flag _ _ _ 0 0 (by decide)) _
  have hbo : u.n.bo = { s.node.bo with busMaster := on } := hu ▸ rfl
  obtain ⟨hk, hn⟩ := flushHeld_keeps (k := Reg.PCI_BME.key 0 0) u
  have hbo' : (if on then u.flushHeld else u).n.bo = { s.node.bo with busMaster := on } := by
    split
    · rw [hn, hbo]
    · exact hbo
  refine ⟨_, he, ?_, (SameAt.shows (SameAt.ite hk (SameAt.refl _ u)) hs).rd hc.1, ?_⟩
  · rw [close_node, hbo']
  · rw [close_node, hbo']

theorem sriovVfEnable_shows (s : State) (num : Nat) (ha : s.alive = true) (hc : Canonical s)
    (hb : rd s Reg.PCI_UP = 1 ∧ rd s Reg.GLB_FW_RUNNING = 1) (hn : num < 64) :
    ∃ t, exec (.sriovVfEnable num) s = .next t ∧ t.node.bo.vfEnabled = num ∧ rd t Reg.PCI_VFS = num ∧ t.mem = s.mem := by
  obtain ⟨v, hv⟩ : ∃ v, v = ((List.range 64).filter fun p => num < p && p ≤ s.view.n.bo.vfEnabled).foldl
    (fun w p => w.resetFunction p fun q => w.queuePart q = some p) s.view := ⟨_, rfl⟩
  have hvw : SameW true true true s.view v := by rw [hv]; simp
  have he : exec (.sriovVfEnable num) s = .next (s.close { (v.set Reg.PCI_VFS num) with n.bo.vfEnabled := num }) := by
    rw [exec_sriov, execSriovVfEnable, run_alive _ ha, configRequest_up (flag_eq hb.1) (flag_eq hb.2), if_neg (by omega), hv]
  have hs := shows_set v Reg.PCI_VFS num 0 0
  rw [Nat.mod_eq_of_lt (show num < 2 ^ Reg.PCI_VFS.width from hn)] at hs
  exact ⟨_, he, rfl, Shows.rd hc.1 (Shows.of_update hs _), close_mem_quiet s _ hvw.wr hvw.wiped⟩

theorem functionReset_pf (s : State) (ha : s.alive = true) (hc : Canonical s) (hb : rd s Reg.PCI_UP = 1 ∧ rd s Reg.GLB_FW_RUNNING = 1) :
    ∃ t, exec (.functionReset .pf) s = .next t ∧ t.node.bo.vfEnabled = 0 ∧ rd t Reg.PCI_VFS = 0 ∧ t.mem = s.mem ∧
      ∀ q, (t.view.queueOf q).state = .disabled ∨ (t.view.queueOf q).state = .draining := by
  obtain ⟨v, hv⟩ : ∃ v, v = ((List.range s.view.n.bo.vfEnabled).map (· + 1)).foldl (fun w p => w.resetFunction p fun _ => false)
    (s.view.resetFunction 0 fun _ => true) := ⟨_, rfl⟩
  have hvw : SameW true true true s.view v := by rw [hv]; simp
  have he : exec (.functionReset .pf) s = .next (s.close { (v.set Reg.PCI_VFS 0) with n.bo.vfEnabled := 0 }) := by
    rw [exec_functionReset, execFunctionReset, run_alive _ ha, configRequest_up (flag_eq hb.1) (flag_eq hb.2), hv]
  have hq : v.n.hq.queues = s.node.hq.queues.foldl (fun qs e => insertN e.1 e.2.reset qs) s.node.hq.queues := by
    rw [hv, fold_resetFunction_queues, resetFunction_queues]
    rfl
  refine ⟨_, he, rfl, Shows.rd hc.1 (Shows.of_update (shows_set v Reg.PCI_VFS 0 0 0) _), close_mem_quiet s _ hvw.wr hvw.wiped, fun q => ?_⟩
  have hl : ∀ x, lookupN q v.n.hq.queues = some x → x.state = .disabled ∨ x.state = .draining := by
    rw [hq]
    refine fold_reset_state _ _ q ?_
    by_cases hm : q ∈ s.node.hq.queues.map (·.1)
    · exact .inl hm
    · exact .inr fun x hx => absurd (List.mem_map.2 ⟨_, mem_of_lookupN hx, rfl⟩) hm
  change ((lookupN q v.n.hq.queues).getD _).state = .disabled ∨ ((lookupN q v.n.hq.queues).getD _).state = .draining
  cases hx : lookupN q v.n.hq.queues with
  | none => exact .inl rfl
  | some x => exact hl x hx

theorem functionReset_vf (s : State) (p : Nat) (ha : s.alive = true) (hc : Canonical s)
    (hb : rd s Reg.PCI_UP = 1 ∧ rd s Reg.GLB_FW_RUNNING = 1) :
    ∃ t, exec (.functionReset (.vf p)) s = .next t ∧ lookupN p t.node.hq.msix = none ∧ rd t Reg.PCI_BASE_LO 0 p = 0 ∧
      t.node.bo = s.node.bo ∧ t.mem = s.mem := by
  have he : exec (.functionReset (.vf p)) s =
      .next (s.close (s.view.resetFunction p fun q => s.view.queuePart q = some p)) := by
    rw [exec_functionReset, execFunctionReset, run_alive _ ha, configRequest_up (flag_eq hb.1) (flag_eq hb.2)]
  have hvw : SameW true true true s.view (s.view.resetFunction p fun q => s.view.queuePart q = some p) := by simp
  refine ⟨_, he, lookupN_eraseN .., ?_, hvw.bo.1, close_mem_quiet s _ hvw.wr hvw.wiped⟩
  have hs : ∀ u : Work, Shows ((u.set Reg.PCI_BASE_LO 0 0 p).set Reg.PCI_BASE_HI 0 0 p) Reg.PCI_BASE_LO 0 0 p := fun u =>
    (shows_set u Reg.PCI_BASE_LO 0 0 p).set _ _ _ _ (key_ne_of_off _ _ _ _ (by decide) (by decide) (by decide))
  exact Shows.rd hc.1 (Shows.of_update (hs _) _)

/-- Settles O11. -/
theorem pcieAndClockPinsChangeTheirState : Obligations.PcieAndClockPinsChangeTheirState := by
  unfold Obligations.PcieAndClockPinsChangeTheirState
  refine ⟨fun s ha hc => ?_, fun s ha => ?_, fun s ha hc => ?_, fun s ha => ?_, fun s speed width ha hc h1 h2 h3 h4 h5 => ?_,
    fun s clk ha hc hclk => ?_, fun s clk ha => ?_, fun s on num fn c ha hb hor => ?_, fun s on ha hc hb => ?_, fun s num ha hc hb hn => ?_,
    fun s ha hc hb => ?_, fun s p ha hc hb => ?_⟩
  · have he : exec .perstAssert s = .next (s.close { s.view.resetPcie with n.bo.perst := true, n.bo.perstHeld := false }) := by
      rw [exec_perstAssert, execPerstAssert, run_alive _ ha]
    obtain ⟨hv, hb, ho⟩ := resetPcie_n s.view
    refine ⟨_, he, rfl, rfl, ?_, ?_, ?_, Shows.rd hc.1 (Shows.of_update (resetPcie_shows s.view) _), close_mem_of_same (resetPcie_same s.view) _⟩
    · rw [close_node, hb]
    · rw [close_node, hv]
    · rw [close_node, ho]
  · rw [exec_perstRelease, execPerstRelease, run_alive _ ha, close_update]
    rfl
  · have he : exec .pcieRefclkLost s = .next (s.close { s.view.resetPcie with n.bo.pcieClk := false }) := by
      rw [exec_pcieRefclkLost, execPcieRefclkLost, run_alive _ ha]
    obtain ⟨hv, hb, ho⟩ := resetPcie_n s.view
    refine ⟨_, he, rfl, ?_, ?_, Shows.rd hc.1 (Shows.of_update (resetPcie_shows s.view) _), close_mem_of_same (resetPcie_same s.view) _⟩
    · rw [close_node, hb]
    · rw [close_node, hv]
  · rw [exec_pcieRefclkReturn, execPcieRefclkReturn, run_alive _ ha, close_update]
    rfl
  · exact pcieLinkTrained_shows s speed width ha hc h1 h2 h3 h4 h5
  · exact serdesclkLost_falls s clk ha hc hclk
  · rw [exec_serdesclkReturn, execSerdesclkReturn, run_alive _ ha, close_update]
    rfl
  · have hu : s.view.flag Reg.PCI_UP = true := flag_eq hb.1
    have hf : s.view.flag Reg.GLB_FW_RUNNING = false := flag_eq hb.2
    have hq : ∀ act, s.close (s.view.configRequest act) = { s with node := { s.node with out := s.node.out ++ [.configRetry] } } := fun act => by
      rw [Work.configRequest, hu, hf]
      exact close_update s _
    rcases hor with rfl | rfl | rfl
    · rw [exec_busMaster, execBusMasterEnableChange, run_alive _ ha, hq]
    · rw [exec_sriov, execSriovVfEnable, run_alive _ ha, hq]
    · rw [exec_functionReset, execFunctionReset, run_alive _ ha, hq]
  · exact busMaster_shows s on ha hc hb
  · exact sriovVfEnable_shows s num ha hc hb hn
  · exact functionReset_pf s ha hc hb
  · exact functionReset_vf s p ha hc hb

end Sys2Proof.Functions
end

section
/-!
Bring-up (R365 to R367, R447 to R453, R455): what each of its commands shows and leaves.
-/

namespace Sys2Proof.Training

open Sys2Proof.Machine Sys2Proof.Safety Sys2Proof.Laws Sys2Proof.Steps Sys2Proof.Wide Sys2Proof.Writes Sys2Proof.Stages Sys2Proof.Entering
open Sys2Proof.Functions

theorem exec_bootImageVerified (s : State) (i : Nat) : exec (.bootImageVerified i) s = execBootImageVerified i s := by simp only [exec]
theorem exec_d2dTrained (s : State) (ok : Bool) : exec (.d2dTrained ok) s = execD2dTrained ok s := by simp only [exec]
theorem exec_ddrTrainingDone (s : State) (l) : exec (.ddrTrainingDone l) s = execDdrTrainingDone l s := by simp only [exec]
theorem exec_hbmRoundDone (s : State) (l) : exec (.hbmRoundDone l) s = execHbmRoundDone l s := by simp only [exec]
theorem exec_selftestDone (s : State) (p) (l) : exec (.selftestDone p l) s = execSelftestDone p l s := by simp only [exec]

/-! ## What a view that reads zero shows -/

/-- A field whose reset value is zero and that the view reads as zero shows zero. -/
theorem rd_zero_of_get {s : State} (hc : Canonical s) {w : Work} (hr : w.regs = s.regs) (hw : w.wiped = false) {f : Fld} {i j : Nat}
    (hf : f.resetAt i j = 0) (hg : w.get f i j = 0) : rd (s.close w) f i j = 0 := by
  rw [rd_close hc.1 w hw]
  unfold Work.get Work.raw at hg
  cases he : w.rw.find? (fun e => e.1 = f.key i j) with
  | none =>
    rw [he, hr] at hg
    exact hg
  | some e =>
    rw [he] at hg
    simp only
    split
    · exact hf
    · exact hg

theorem get_update (w : Work) (n : Node) (f : Fld) (i j : Nat) : ({ w with n := n } : Work).get f i j = w.get f i j := rfl

theorem rd_zero_of_update {s : State} (hc : Canonical s) {w : Work} (hr : w.regs = s.regs) (hw : w.wiped = false) {f : Fld} {i j : Nat}
    (hf : f.resetAt i j = 0) (hg : w.get f i j = 0) (n : Node) : rd (s.close { w with n := n }) f i j = 0 :=
  rd_zero_of_get hc hr hw hf hg

/-! ## The self-test (R453) -/

theorem selftest_rehearsal (s : State) (bad : List BadUnit) (ha : s.alive = true) (hc : Canonical s) (h0 : rd s Reg.GLB_SELFTEST_REH = 0)
    (hd : rd s Reg.GLB_DDR_DONE = 1) (hst : 2 ≤ (s.view.readyStacks.filter (· < 4)).length) :
    ∃ t, exec (.selftestDone .rehearsal bad) s = .next t ∧ rd t Reg.GLB_SELFTEST_REH = 1 := by
  refine ⟨s.close (((((s.view.replaceBad bad).bySlot (· < 13)).take 4).foldl (fun w c => (w.activate c).set Reg.CL_HALF_CLOCK 1 c)
    (s.view.replaceBad bad)).set Reg.GLB_SELFTEST_REH 1), ?_, Shows.rd hc.1 (shows_set _ _ _ _ _)⟩
  rw [exec_selftestDone, execSelftestDone, run_alive _ ha]
  simp only [flag_eq h0, flag_eq hd, Nat.not_lt.2 hst, decide_false]
  rfl

theorem bySlot_mem {w : Work} {p : Nat → Bool} {c : Nat} (h : c ∈ w.bySlot p) : p c = true ∧ w.flag Reg.CL_FAULTED c = false := by
  unfold Work.bySlot at h
  obtain ⟨slot, -, hf⟩ := List.mem_filterMap.1 h
  have := List.find?_some hf
  simp only [Bool.and_eq_true, Bool.not_eq_true'] at this
  exact ⟨this.1.2, this.2⟩

theorem get_of_flag {w : Work} {f : Fld} {i j : Nat} (h : w.flag f i j = false) : w.get f i j = 0 := by
  simpa [Work.flag] using h

theorem selftest_full (s : State) (bad : List BadUnit) (ha : s.alive = true) (hc : Canonical s) (h0 : rd s Reg.GLB_SELFTEST_FULL = 0)
    (hd : rd s Reg.GLB_HBM_DONE = 255) :
    ∃ t, exec (.selftestDone .full bad) s = .next t ∧ rd t Reg.GLB_SELFTEST_FULL = 1 ∧
      ∀ c ∈ t.node.bo.passed, rd t Reg.CL_ACTIVE c = 0 ∧ rd t Reg.CL_FAULTED c = 0 := by
  obtain ⟨v, hv⟩ : ∃ v, v = s.view.replaceBad bad := ⟨_, rfl⟩
  have hvw : SameW false false false s.view v := hv ▸ replaceBad_wide ..
  have he : exec (.selftestDone .full bad) s = .next (s.close { (v.set Reg.GLB_SELFTEST_FULL 1) with
      n.bo.passed := v.bySlot fun c => !v.flag Reg.CL_ACTIVE c }) := by
    rw [exec_selftestDone, execSelftestDone, run_alive _ ha, hv]
    simp only [flag_eq h0, show s.view.get Reg.GLB_HBM_DONE = 255 from hd]
    rfl
  refine ⟨_, he, Shows.rd hc.1 (Shows.of_update (shows_set v _ _ _ _) _), fun c hm => ?_⟩
  obtain ⟨hact, hflt⟩ := bySlot_mem (show c ∈ v.bySlot fun c => !v.flag Reg.CL_ACTIVE c from hm)
  have hz : ∀ f : Fld, f.resetAt c 0 = 0 → Apart Reg.GLB_SELFTEST_FULL f → v.get f c = 0 →
      rd (s.close { (v.set Reg.GLB_SELFTEST_FULL 1) with n.bo.passed := v.bySlot fun c => !v.flag Reg.CL_ACTIVE c }) f c = 0 := fun f hf ha hg =>
    rd_zero_of_update hc ((set_regs ..).trans hvw.regs) ((set_wiped ..).trans hvw.wiped) hf ((get_set_apart v ha 1 0 0 c 0).trans hg) _
  exact ⟨hz _ rfl (by decide) (get_of_flag (by simpa using hact)), hz _ rfl (by decide) (get_of_flag hflt)⟩

/-! ## The boot ROM (R366, R447) -/

theorem imageFails_update (w : Work) (n : Node) (i : Nat) : ({ w with n := n } : Work).imageFails i = w.imageFails i := rfl

theorem measureRom_imageFails (w : Work) (i : Nat) : w.measureRom.imageFails i = w.imageFails i := by
  unfold Work.measureRom
  split
  · rfl
  · exact imageFails_update w _ i

theorem measureRom_bo (w : Work) : w.measureRom.n.bo.romDone = true ∧ w.measureRom.n.bo.imgFailed = w.n.bo.imgFailed ∧
    w.measureRom.n.bo.running = w.n.bo.running ∧ w.measureRom.n.bo.recovery = w.n.bo.recovery := by
  unfold Work.measureRom
  split_ifs with h
  · exact ⟨h, rfl, rfl, rfl⟩
  · exact ⟨rfl, rfl, rfl, rfl⟩

/-- The registers that name the image that runs, and what follows them in `startFirmware`. -/
theorem startFirmware_shows (w : Work) (image : Nat) : (w.startFirmware image).n.bo.running = some image ∧
    (w.startFirmware image).n.bo.romDone = w.n.bo.romDone ∧ Shows (w.startFirmware image) Reg.GLB_FW_RUNNING 1 0 0 ∧
    Shows (w.startFirmware image) Reg.GLB_WDOG_ARMED 1 0 0 := by
  unfold Work.startFirmware
  extract_lets +onlyGivenNames h pref cores d other w8 _ _ w7 _ _ _ _ w6 w5 w4 w3 w2 w1 w0
  have hbo : w5.n.bo.running = some image ∧ w5.n.bo.romDone = w.n.bo.romDone := ⟨rfl, rfl⟩
  have hrun : Shows w5 Reg.GLB_FW_RUNNING 1 0 0 := ((shows_set w6 _ _ _ _).set _ _ _ _ (by decide)).set _ _ _ _ (by decide)
  have harm : Shows w5 Reg.GLB_WDOG_ARMED 1 0 0 := shows_set _ _ _ _ _
  have h4 : SameW true true false w5 w4 := by simp +decide [w4]
  have h3 : SameW true true false w4 w3 := by simp +decide [w3]
  have h2 : SameW true true false w3 w2 := by simp [w2]
  have h1 : SameW true true false w2 w1 := by simp [w1]
  have h0 : SameW true true false w1 w0 := by simp [w0]
  clear_value w0 w1 w2 w3 w4 w5 w6
  have hs : SameW true true false w5 w0 := (((h4.trans h3).trans h2).trans h1).trans h0
  have hall : ∀ z, SameW true true false w0 z → z.n.bo.running = some image ∧ z.n.bo.romDone = w.n.bo.romDone ∧
      Shows z Reg.GLB_FW_RUNNING 1 0 0 ∧ Shows z Reg.GLB_WDOG_ARMED 1 0 0 := fun z hz => by
    have h := hs.trans hz
    exact ⟨by rw [h.bo.1]; exact hbo.1, by rw [h.bo.1]; exact hbo.2, (h.sameAt (by unfold Stage; decide)).shows hrun,
      (h.sameAt (by unfold Stage; decide)).shows harm⟩
  split
  · exact hall _ rfl
  · exact hall _ (by simp +decide)

/-- What the boot ROM does with an image that fails (R447, R459). -/
def bootFailed (w : Work) (image k : Nat) : Work :=
  (({ w with n.bo.imgFailed := image :: w.n.bo.imgFailed } : Work).count (if image = 0 then Reg.SEC_BOOT_FAIL_A else Reg.SEC_BOOT_FAIL_B)).log
    { code := 0x4E01, page := 0xFF, detail := image + 2 * k }

theorem exec_boot {s : State} {image : Nat} (ha : s.alive = true) (hn : s.view.nextImage = some image) :
    exec (.bootImageVerified image) s = .next (s.close (match s.view.imageFails image with
      | none => s.view.measureRom.startFirmware image
      | some k => if (bootFailed s.view.measureRom image k).nextImage.isSome then bootFailed s.view.measureRom image k else
          { bootFailed s.view.measureRom image k with n.bo.recovery := true })) := by
  rw [exec_bootImageVerified, execBootImageVerified, run_alive _ ha, if_neg (not_not.2 hn)]
  simp only [measureRom_imageFails]
  generalize s.view.measureRom = m
  cases s.view.imageFails image with
  | none => rfl
  | some k => rfl

theorem bootFailed_n (w : Work) (image k : Nat) : (bootFailed w image k).n.bo = { w.n.bo with imgFailed := image :: w.n.bo.imgFailed } := by
  unfold bootFailed
  exact (reports_log _ _).n_bo

theorem bootFailed_wide (w : Work) (image k : Nat) : SameW true false false w (bootFailed w image k) := by
  have h : Aside (if image = 0 then Reg.SEC_BOOT_FAIL_A else Reg.SEC_BOOT_FAIL_B) := by split <;> decide
  simp only [bootFailed, sameW_iff]
  simp [h]

theorem nextImage_none_of_recovery {w : Work} (h : w.n.bo.recovery = true) : w.nextImage = none := by
  simp [Work.nextImage, h]

theorem nextImage_some {w : Work} {i : Nat} (h : w.nextImage = some i) : w.n.bo.running = none ∧ w.n.bo.recovery = false := by
  unfold Work.nextImage at h
  simp only at h
  split_ifs at h with h1 <;> simp_all

/-- The image that the boot ROM turns to next depends on the straps and the bring-up state alone. -/
theorem nextImage_congr {a b : Work} (hb : a.n.bo = b.n.bo) (hg : a.get Reg.GLB_BOOT_SEL = b.get Reg.GLB_BOOT_SEL) : a.nextImage = b.nextImage := by
  simp only [Work.nextImage, hb, hg]

theorem bootImage_takes (s : State) (image : Nat) (ha : s.alive = true) (hc : Canonical s) (hn : s.view.nextImage = some image) :
    ∃ t, exec (.bootImageVerified image) s = .next t ∧ t.node.bo.romDone = true ∧
      (s.view.imageFails image = none → t.node.bo.running = some image ∧ rd t Reg.GLB_FW_RUNNING = 1 ∧ rd t Reg.GLB_WDOG_ARMED = 1) ∧
      (s.view.imageFails image ≠ none → t.node.bo.imgFailed = image :: s.node.bo.imgFailed ∧ t.node.bo.running = none ∧
        t.node.bo.recovery = decide (t.view.nextImage = none)) ∧
      t.node.tk = s.node.tk := by
  obtain ⟨hrom, hif, hru, hre⟩ := measureRom_bo s.view
  obtain ⟨hrun, hrec⟩ := nextImage_some hn
  have he := exec_boot ha hn
  have htk := tick_stays he rfl rfl
  refine ⟨_, he, ?_, fun hok => ?_, fun hbad => ?_, htk⟩
  · clear htk
    cases hf : s.view.imageFails image with
    | none => rw [close_node, (startFirmware_shows _ _).2.1, hrom]
    | some k =>
      simp only
      split <;> simp only [close_node, bootFailed_n, hrom]
  · rw [hok]
    obtain ⟨h1, -, h3, h4⟩ := startFirmware_shows s.view.measureRom image
    exact ⟨by rw [close_node, h1], h3.rd hc.1, h4.rd hc.1⟩
  · obtain ⟨k, hk⟩ := Option.ne_none_iff_exists'.1 hbad
    rw [hk]
    obtain ⟨v, hv⟩ : ∃ v, v = bootFailed s.view.measureRom image k := ⟨_, rfl⟩
    have hbo : v.n.bo = { s.view.measureRom.n.bo with imgFailed := image :: s.node.bo.imgFailed } := by
      rw [hv, bootFailed_n, hif]
      rfl
    have hvw : SameW true false false s.view v := by
      rw [hv]
      exact SameW.trans (by simp) (bootFailed_wide _ _ _)
    have hboot : rd (s.close v) Reg.GLB_BOOT_SEL = v.get Reg.GLB_BOOT_SEL := by
      rw [hvw.rd hc.1 (by unfold Stage; decide), hvw.get (by unfold Stage; decide)]
      rfl
    simp only [← hv]
    split_ifs with hs
    · refine ⟨by rw [close_node, hbo], by rw [close_node, hbo]; exact hru.trans hrun, ?_⟩
      have hnx : (s.close v).view.nextImage = v.nextImage := nextImage_congr rfl hboot
      rw [hnx, close_node, hbo]
      obtain ⟨j, hj⟩ := Option.isSome_iff_exists.1 hs
      rw [hj]
      exact hre.trans hrec
    · refine ⟨by rw [close_node, hbo], by rw [close_node, hbo]; exact hru.trans hrun, ?_⟩
      rw [nextImage_none_of_recovery (w := (s.close { v with n.bo.recovery := true }).view) rfl]
      rfl

/-! ## The die-to-die connection (R449, R450) -/

/-- A field whose keys are none of CST_UP's. -/
def NotUp (f : Fld) : Bool := decide (f.blk.page ≠ 0x24 ∧ f.blk.page < 0x24 ∧ f.off < 4096 ∧ f.lo < 32)

/-- What a view has written of CST_UP. -/
def linkUp (w : Work) := w.rw.find? fun e => e.1 = Reg.CST_UP.key 0 0

section
variable (w : Work)

theorem notUp_key {f : Fld} (h : NotUp f) (j : Nat) (hj : j < 2 ^ 20) : f.key 0 j ≠ Reg.CST_UP.key 0 0 := by
  obtain ⟨hp, hlt, ho, hl⟩ := of_decide_eq_true h
  have : Reg.CST_UP.key 0 0 = (((0x24 + 0) * 2 ^ 20 + 0) * 2 ^ 12 + 0x120) * 32 + 0 := rfl
  rw [this]
  unfold Fld.key
  omega

@[simp ↓] theorem set_linkUp (f v j) (h : NotUp f) (hj : j < 2 ^ 20) : linkUp (w.set f v 0 j) = linkUp w :=
  sameAt_set w f v 0 j (notUp_key h j hj)
@[simp ↓] theorem setFlag_linkUp (f b j) (h : NotUp f) (hj : j < 2 ^ 20) : linkUp (w.setFlag f b 0 j) = linkUp w :=
  set_linkUp w f _ j h hj
@[simp ↓] theorem log_linkUp (e) : linkUp (w.log e) = linkUp w := (reports_log w e).sameAt (by unfold Plain; decide)
@[simp ↓] theorem linkUp_update (n : Node) (mem : Mem) (svn : Nat) : linkUp { w with n := n, mem := mem, svn := svn } = linkUp w := rfl
@[simp ↓] theorem linkUp_ite (c : Prop) [Decidable c] (a b : Work) : linkUp (if c then a else b) = if c then linkUp a else linkUp b :=
  apply_ite ..

theorem weights_linkUp (l : List Nat) (hl : ∀ i ∈ l, i < 96) :
    linkUp (l.foldl (fun w i => w.set Reg.PWR_WEIGHT (w.weightOf (i / 48) (i % 48)) 0 (i / 48 * 64 + i % 48)) w) = linkUp w := by
  induction l generalizing w with
  | nil => rfl
  | cons i l ih =>
    rw [List.foldl_cons, ih _ fun j hj => hl j (List.mem_cons_of_mem _ hj)]
    have := hl i List.mem_cons_self
    exact set_linkUp w _ _ _ (by decide) (by omega)

theorem capChange_linkUp : linkUp w.capChange = linkUp w := by
  simp only [Work.capChange, Work.showCap, Work.noteCapped]
  simp +decide

theorem notUp_of_all {l : List Fld} {d : Fld} (h : (d :: l).all NotUp = true) (i : Nat) : NotUp (atD l i d) := by
  rw [List.all_eq_true] at h
  unfold atD
  cases hl : l[i]? with
  | none => exact h _ List.mem_cons_self
  | some f => exact h _ (List.mem_cons_of_mem _ (List.mem_of_getElem? hl))

/-- The calibration set's load leaves the connection's state. -/
theorem loadCal_linkUp : linkUp w.loadCal = linkUp w := by
  have hd : Work.loadCal = Work.loadCal := rfl
  conv_rhs at hd => delta Work.loadCal
  have hdig : ∀ i, NotUp (atD [Reg.CAL_DIGEST0, Reg.CAL_DIGEST1, Reg.CAL_DIGEST2, Reg.CAL_DIGEST3, Reg.CAL_DIGEST4, Reg.CAL_DIGEST5,
      Reg.CAL_DIGEST6, Reg.CAL_DIGEST7] i Reg.CAL_DIGEST0) := notUp_of_all (by decide)
  have hmiss : ∀ k : Nat, NotUp (if k = 0 then Reg.CAL_MISSING else if k = 1 then Reg.CAL_FOREIGN else Reg.CAL_DIGEST_BAD) := fun k => by
    split
    · rfl
    · split <;> rfl
  have hfold : ∀ (g : Work → Nat → Nat) (l : List Nat) (w : Work), linkUp (l.foldl (fun w i =>
      w.set (atD [Reg.CAL_DIGEST0, Reg.CAL_DIGEST1, Reg.CAL_DIGEST2, Reg.CAL_DIGEST3, Reg.CAL_DIGEST4, Reg.CAL_DIGEST5, Reg.CAL_DIGEST6,
        Reg.CAL_DIGEST7] i Reg.CAL_DIGEST0) (g w i)) w) = linkUp w := fun g l w =>
    Frame.foldl_keeps linkUp (fun w i => set_linkUp w _ _ 0 (hdig i) (by decide)) l w
  have h96 : ∀ i ∈ List.range 96, i < 96 := fun i hi => List.mem_range.1 hi
  rw [hd]
  beta_reduce
  extract_lets +onlyGivenNames c
  cases calCheck c with
  | none =>
    simp only
    rw [weights_linkUp _ _ h96, hfold]
    simp +decide
  | some k =>
    simp only
    rw [capChange_linkUp, log_linkUp, weights_linkUp _ _ h96]
    simp +decide [hmiss]
end

/-- The digest of the calibration set loaded (R437). -/
def calDigest (w : Work) : BitVec 256 :=
  match w.n.pw.cal with
  | some c => Sys2Proof.Crypto.sha3v c
  | none => Sys2Proof.Crypto.sha3v (List.replicate 32 0)

theorem d2dTrained_up (s : State) (ha : s.alive = true) (hc : Canonical s) (hf : rd s Reg.GLB_FW_RUNNING = 1)
    (hu : rd s Reg.GLB_D2D_UP = 0) (hx : rd s Reg.GLB_D2D_FAIL = 0) :
    ∃ t, exec (.d2dTrained true) s = .next t ∧ rd t Reg.CST_UP = 1 ∧ rd t Reg.GLB_D2D_UP = 1 ∧ rd t Reg.GLB_HBM_ROUND = 1 := by
  obtain ⟨v, hv⟩ : ∃ v, v = ((s.view.set Reg.CST_UP 1).set Reg.GLB_D2D_UP 1).setReady 0x24 true := ⟨_, rfl⟩
  obtain ⟨z, hz⟩ : ∃ z, z = v.loadCal := ⟨_, rfl⟩
  have he : exec (.d2dTrained true) s = .next (s.close ((z.extendMeas 2 (calDigest z)).set Reg.GLB_HBM_ROUND 1)) := by
    rw [hz]
    rw [exec_d2dTrained, execD2dTrained, run_alive _ ha, hv]
    have hif : (!s.view.flag Reg.GLB_FW_RUNNING || s.view.flag Reg.GLB_D2D_UP || s.view.flag Reg.GLB_D2D_FAIL) = false := by
      rw [flag_eq hf, flag_eq hu, flag_eq hx]
      rfl
    simp only [hif, Bool.false_eq_true, if_false, Bool.not_true]
    generalize Work.loadCal (((s.view.set Reg.CST_UP 1).set Reg.GLB_D2D_UP 1).setReady 0x24 true) = y
    rfl
  have hup : Shows v Reg.CST_UP 1 0 0 := by
    rw [hv]
    exact (reports_setReady _ _ _).shows (by unfold Plain; decide) ((shows_set s.view Reg.CST_UP 1 0 0).set _ _ _ _ (by decide))
  have hd2d : Shows v Reg.GLB_D2D_UP 1 0 0 := by
    rw [hv]
    exact (reports_setReady _ _ _).shows (by unfold Plain; decide) (shows_set _ _ _ _ _)
  have hload : SameW true true false v z := hz ▸ loadCal_wide v
  have h1 : Shows (z.extendMeas 2 (calDigest z)) Reg.CST_UP 1 0 0 := SameAt.shows (a := v) (b := z) (hz ▸ loadCal_linkUp v) hup
  have h2 : Shows (z.extendMeas 2 (calDigest z)) Reg.GLB_D2D_UP 1 0 0 := (hload.sameAt (by unfold Stage; decide)).shows hd2d
  exact ⟨_, he, (h1.set _ _ _ _ (by decide)).rd hc.1, (h2.set _ _ _ _ (by decide)).rd hc.1, (shows_set _ _ _ _ _).rd hc.1⟩

theorem d2dTrained_fails (s : State) (ha : s.alive = true) (hc : Canonical s) (hf : rd s Reg.GLB_FW_RUNNING = 1)
    (hu : rd s Reg.GLB_D2D_UP = 0) (hx : rd s Reg.GLB_D2D_FAIL = 0) :
    ∃ t, exec (.d2dTrained false) s = .next t ∧ rd t Reg.GLB_D2D_FAIL = 1 ∧ rd t Reg.GLB_D2D_UP = 0 := by
  obtain ⟨e, he'⟩ : ∃ e : Ev, e = { code := 0x400B, page := 0x24, status := stInternal, detail := s.view.get Reg.CST_CRC_CNT } := ⟨_, rfl⟩
  have he : exec (.d2dTrained false) s = .next (s.close ((s.view.set Reg.GLB_D2D_FAIL 1).report e)) := by
    rw [he']
    rw [exec_d2dTrained, execD2dTrained, run_alive _ ha]
    simp only [flag_eq hf, flag_eq hu, flag_eq hx]
    rfl
  have hr := reports_report (s.view.set Reg.GLB_D2D_FAIL 1) e
  have hs : SameAt (Reg.GLB_D2D_UP.key 0 0) s.view ((s.view.set Reg.GLB_D2D_FAIL 1).report e) :=
    (sameAt_set _ _ _ _ _ (by decide)).trans (hr.sameAt (by unfold Plain; decide))
  exact ⟨_, he, (hr.shows (by unfold Plain; decide) (shows_set _ _ _ _ _)).rd hc.1, (hs.rd hc.1 hr.wiped).trans hu⟩

/-! ## DDR5 training (R451) -/

/-- What DDR training makes of one channel. -/
def channelTrained (w : Work) (c : Nat) (d : DdrChan) : Work :=
  let ok := d.trained && 0 < d.modules
  let w := ((w.set Reg.DDR_MODULES d.modules c).set Reg.DDR_MOD_GIB d.gib c).set Reg.DDR_SPEED 64 c
  let w := (w.setFlag Reg.DDR_TRAINED ok c).setFlag Reg.DDR_IN_STRIPE ok c
  let w := (w.setEnable (0x18 + c) ok).setReady (0x18 + c) ok
  let w := if w.flag Reg.DDR_HPPR_AT_BOOT c then { w with ppr := eraseN c w.ppr } else w
  let w := w.set Reg.DDR_PPR_PENDING (min 255 (numN c w.ppr)) c
  if !ok && 0 < d.modules then w.report { code := 0x4307, page := 0x18 + c, detail := 0x80 + c } else w

theorem key_ne_of_inst {f g : Fld} (hb : f.blk = g.blk) {a b : Nat} (h : a ≠ b) (hf : f.off < 4096 ∧ f.lo < 32) (hg : g.off < 4096 ∧ g.lo < 32) :
    f.key a 0 ≠ g.key b 0 := by
  unfold Fld.key
  rw [hb]
  omega

theorem plain_ddr {f : Fld} (hb : f.blk = .DDR) (hf : 0x100 ≤ f.off ∧ f.off < 4096 ∧ f.lo < 32) (c : Nat) : Plain (f.key c 0) := by
  have hp := key_page f c hf.2.1 hf.2.2
  rw [hb, show Block.page .DDR = 0x18 from rfl] at hp
  unfold Plain
  rw [key_off _ _ _ hf.2.1 hf.2.2, hp]
  omega

theorem sameAt_ppr (k : Nat) (w : Work) (l : List (Nat × Nat)) : SameAt k w { w with ppr := l } := rfl

/-- The channel shows whether it trained; every other channel's bit is left. -/
theorem channelTrained_shows (w : Work) (c : Nat) (d : DdrChan) :
    Shows (channelTrained w c d) Reg.DDR_TRAINED (d.trained && decide (0 < d.modules)).toNat c 0 ∧
      ∀ b, b ≠ c → SameAt (Reg.DDR_TRAINED.key b 0) w (channelTrained w c d) := by
  unfold channelTrained
  extract_lets +onlyGivenNames ok w1 w2 w3 w4 w5
  have hpl : ∀ b, Plain (Reg.DDR_TRAINED.key b 0) := fun b => plain_ddr rfl (by decide) b
  have h2 : Shows w2 Reg.DDR_TRAINED ok.toNat c 0 := (shows_flag w1 _ _ c 0 (by decide)).set _ _ _ _ (key_ne_of_apart (by decide) _ _ _ _)
  have h23 : ∀ {k}, Plain k → SameAt k w2 w3 := fun hk => ((reports_setEnable ..).sameAt hk).trans ((reports_setReady ..).sameAt hk)
  have h34 : ∀ {k}, SameAt k w3 w4 := SameAt.ite (sameAt_ppr _ w3 _) (SameAt.refl _ w3)
  have hend : ∀ {k}, Plain k → SameAt k w5
      (if (!ok && decide (0 < d.modules)) = true then w5.report { code := 0x4307, page := 0x18 + c, detail := 0x80 + c } else w5) := fun hk =>
    SameAt.ite ((reports_report ..).sameAt hk) (SameAt.refl _ _)
  refine ⟨?_, fun b hb => ?_⟩
  · have h5 : Shows w5 Reg.DDR_TRAINED ok.toNat c 0 := (h34.shows ((h23 (hpl c)).shows h2)).set _ _ _ _ (key_ne_of_apart (by decide) _ _ _ _)
    exact (hend (hpl c)).shows h5
  · have hne : ∀ f : Fld, f.blk = .DDR → f.off < 4096 ∧ f.lo < 32 → f.key c 0 ≠ Reg.DDR_TRAINED.key b 0 := fun f hf ho =>
      key_ne_of_inst hf (Ne.symm hb) ho (by decide)
    have h1 : SameAt (Reg.DDR_TRAINED.key b 0) w w1 :=
      (((SameAt.refl _ w).set _ _ _ _ (hne _ rfl (by decide))).set _ _ _ _ (hne _ rfl (by decide))).set _ _ _ _ (hne _ rfl (by decide))
    have h12 : SameAt (Reg.DDR_TRAINED.key b 0) w1 w2 :=
      ((SameAt.refl _ w1).set _ _ _ _ (hne _ rfl (by decide))).set _ _ _ _ (hne _ rfl (by decide))
    have h45 : SameAt (Reg.DDR_TRAINED.key b 0) w4 w5 := sameAt_set _ _ _ _ _ (hne _ rfl (by decide))
    exact ((h1.trans h12).trans ((h23 (hpl b)).trans h34)).trans (h45.trans (hend (hpl b)))

/-- A channel of the list, if it is there. -/
def channelDone (chans : List DdrChan) (w : Work) (c : Nat) : Work :=
  match chans[c]? with
  | none => w
  | some d => channelTrained w c d

theorem exec_ddr {s : State} (chans : List DdrChan) (ha : s.alive = true) (hu : rd s Reg.GLB_D2D_UP = 1) (hd : rd s Reg.GLB_DDR_DONE = 0) :
    exec (.ddrTrainingDone chans) s = .next (s.close (((List.range 12).foldl (channelDone chans) s.view).set Reg.GLB_DDR_DONE 1)) := by
  rw [exec_ddrTrainingDone, execDdrTrainingDone, run_alive _ ha]
  simp only [flag_eq hu, flag_eq hd]
  rfl

theorem channels_show (chans : List DdrChan) {c : Nat} {d : DdrChan} (hd : chans[c]? = some d) (l : List Nat) (w : Work)
    (h : c ∈ l ∨ Shows w Reg.DDR_TRAINED (d.trained && decide (0 < d.modules)).toNat c 0) :
    Shows (l.foldl (channelDone chans) w) Reg.DDR_TRAINED (d.trained && decide (0 < d.modules)).toNat c 0 := by
  refine foldl_reaches (I := fun _ => True) (P := fun w => Shows w Reg.DDR_TRAINED (d.trained && decide (0 < d.modules)).toNat c 0) (x := c)
    (fun _ _ _ => trivial) (fun w b _ hs => ?_) (fun w _ => ?_) l w trivial h
  · unfold channelDone
    cases hb : chans[b]? with
    | none => exact hs
    | some e =>
      by_cases hbc : c = b
      · subst hbc
        cases hd.symm.trans hb
        exact (channelTrained_shows w c d).1
      · exact ((channelTrained_shows w b e).2 c hbc).shows hs
  · unfold channelDone
    rw [hd]
    exact (channelTrained_shows w c d).1

theorem ddrTraining_shows (s : State) (chans : List DdrChan) (ha : s.alive = true) (hc : Canonical s) (hu : rd s Reg.GLB_D2D_UP = 1)
    (hd : rd s Reg.GLB_DDR_DONE = 0) :
    ∃ t, exec (.ddrTrainingDone chans) s = .next t ∧ rd t Reg.GLB_DDR_DONE = 1 ∧
      ∀ c : Nat, c < 12 → ∀ d ∈ chans[c]?, rd t Reg.DDR_TRAINED c = (d.trained && decide (0 < d.modules)).toNat := by
  refine ⟨_, exec_ddr chans ha hu hd, (shows_set _ _ _ _ _).rd hc.1, fun c hlt d hm => ?_⟩
  have hs := channels_show chans (show chans[c]? = some d from hm) (List.range 12) s.view (.inl (List.mem_range.2 hlt))
  exact (hs.set _ _ _ _ (key_ne_of_apart (by decide) _ _ _ _)).rd hc.1

/-! ## HBM training (R451, R455) -/

/-- A stack that trained takes up service. -/
def stackTakesService (w : Work) (r st : Nat) : Work :=
  let w := w.set Reg.HBM_REPAIR_FREE r st
  let w := (w.set Reg.HBM_TRAINED 1 st).set Reg.HBM_IN_SERVICE 1 st
  let w := w.set Reg.CST_READY (w.get Reg.CST_READY ||| 2 ^ st)
  (w.setEnable (0x10 + st) true).setReady (0x10 + st) true

/-- What an HBM round makes of one stack. -/
def stackTrained (failed : List Nat) (w : Work) (st : Nat) : Work :=
  let w := w.set Reg.GLB_HBM_DONE (w.get Reg.GLB_HBM_DONE ||| 2 ^ st)
  if failed.contains st then
    { (w.report { code := 0x4307, page := 0x10 + st, detail := st }) with n.bo.hbmFailed := w.n.bo.hbmFailed ++ [st] }
  else
    stackTakesService w.draw.2 (w.draw.1 % 256) st

/-- Both bits of a stack in service. -/
def Serves (w : Work) (st : Nat) : Prop := Shows w Reg.HBM_TRAINED 1 st 0 ∧ Shows w Reg.HBM_IN_SERVICE 1 st 0

theorem plain_hbm {f : Fld} (hb : f.blk = .HBM) (hf : 0x100 ≤ f.off ∧ f.off < 4096 ∧ f.lo < 32) (c : Nat) : Plain (f.key c 0) := by
  have hp := key_page f c hf.2.1 hf.2.2
  rw [hb, show Block.page .HBM = 0x10 from rfl] at hp
  unfold Plain
  rw [key_off _ _ _ hf.2.1 hf.2.2, hp]
  omega

/-- A field of another place of its page. -/
theorem Serves.set {w : Work} {st : Nat} (h : Serves w st) (g : Fld) (v i j : Nat)
    (hg : (Apart g Reg.HBM_TRAINED && Apart g Reg.HBM_IN_SERVICE) = true) : Serves (w.set g v i j) st := by
  rw [Bool.and_eq_true] at hg
  exact ⟨h.1.set _ _ _ _ (key_ne_of_apart hg.1 _ _ _ _), h.2.set _ _ _ _ (key_ne_of_apart hg.2 _ _ _ _)⟩

theorem Serves.reports {w v : Work} {st : Nat} (h : Serves w st) (hr : Reports w v) : Serves v st :=
  ⟨hr.shows (plain_hbm rfl (by decide) st) h.1, hr.shows (plain_hbm rfl (by decide) st) h.2⟩

theorem Serves.update {w : Work} {st : Nat} (h : Serves w st) (n : Node) : Serves { w with n := n } st := h

theorem Serves.draw {w : Work} {st : Nat} (h : Serves w st) : Serves w.draw.2 st := h

theorem failed_update (w : Work) (l : List Nat) : ({ w with n.bo.hbmFailed := l } : Work).n.bo.hbmFailed = l := rfl

theorem Serves.trains {w : Work} {st : Nat} (h : Serves w st) (b : Nat) :
    Serves ((w.set Reg.HBM_TRAINED 1 b).set Reg.HBM_IN_SERVICE 1 b) st := by
  by_cases hb : b = st
  · subst hb
    exact ⟨(shows_set _ _ _ _ _).set _ _ _ _ (key_ne_of_apart (by decide) _ _ _ _), shows_set _ _ _ _ _⟩
  · have ht : ∀ g : Fld, g.blk = .HBM → g.off < 4096 ∧ g.lo < 32 → g.key b 0 ≠ Reg.HBM_TRAINED.key st 0 := fun g hg ho =>
      key_ne_of_inst hg hb ho (by decide)
    have hs : ∀ g : Fld, g.blk = .HBM → g.off < 4096 ∧ g.lo < 32 → g.key b 0 ≠ Reg.HBM_IN_SERVICE.key st 0 := fun g hg ho =>
      key_ne_of_inst hg hb ho (by decide)
    exact ⟨(h.1.set _ _ _ _ (ht _ rfl (by decide))).set _ _ _ _ (ht _ rfl (by decide)),
      (h.2.set _ _ _ _ (hs _ rfl (by decide))).set _ _ _ _ (hs _ rfl (by decide))⟩

theorem Serves.takesService {w : Work} {st : Nat} (h : Serves w st) (r b : Nat) : Serves (stackTakesService w r b) st := by
  unfold stackTakesService
  extract_lets u v x
  have hx : Serves x st := ((h.set Reg.HBM_REPAIR_FREE r b 0 (by decide)).trains b).set _ _ _ _ (by decide)
  clear_value x
  exact (hx.reports (reports_setEnable ..)).reports (reports_setReady ..)

theorem stackTakesService_serves (w : Work) (r st : Nat) : Serves (stackTakesService w r st) st := by
  have ht : ∀ u : Work, Serves ((u.set Reg.HBM_TRAINED 1 st).set Reg.HBM_IN_SERVICE 1 st) st := fun u =>
    ⟨(shows_set _ _ _ _ _).set _ _ _ _ (key_ne_of_apart (by decide) _ _ _ _), shows_set _ _ _ _ _⟩
  exact ((Serves.set (ht _) _ _ _ _ (by decide)).reports (reports_setEnable ..)).reports (reports_setReady ..)

theorem stackTakesService_bo (w : Work) (r st : Nat) : (stackTakesService w r st).n.bo = w.n.bo := by
  unfold stackTakesService
  extract_lets u v x
  have hx : x.n.bo = w.n.bo := rfl
  clear_value x
  rw [setReady_bo, setEnable_bo, hx]

/-- A stack that serves goes on serving, whatever the round makes of the others. -/
theorem stackTrained_serves (failed : List Nat) {w : Work} {st : Nat} (b : Nat) (h : Serves w st) : Serves (stackTrained failed w b) st := by
  unfold stackTrained
  extract_lets u
  have hu : Serves u st := h.set _ _ _ _ (by decide)
  clear_value u
  split_ifs
  · exact Serves.update (hu.reports (reports_report ..)) _
  · exact hu.draw.takesService _ b

theorem stackTrained_trains (failed : List Nat) (w : Work) {st : Nat} (h : st ∉ failed) : Serves (stackTrained failed w st) st := by
  unfold stackTrained
  rw [if_neg (by simpa using h)]
  exact stackTakesService_serves ..

theorem draw_bo (w : Work) : w.draw.2.n.bo = w.n.bo := rfl

theorem stackTrained_failed (failed : List Nat) (w : Work) (b : Nat) : (stackTrained failed w b).n.bo.hbmFailed =
    if failed.contains b then w.n.bo.hbmFailed ++ [b] else w.n.bo.hbmFailed := by
  unfold stackTrained
  extract_lets u
  have hu : u.n.bo = w.n.bo := rfl
  clear_value u
  split_ifs
  · rw [failed_update, hu]
  · rw [stackTakesService_bo, draw_bo, hu]

/-- The end of a round (R451, R455). -/
def roundEnded (w : Work) (r : Nat) : Work :=
  if r = 0 then w
  else
    let w := (w.set Reg.GLB_HBM_ROUND (if r = 3 then 0 else r + 1)).showFrames
    if r = 3 ∧ (w.readyStacks.filter (4 ≤ ·)).length < 2 then
      w.report { code := 0x4307, page := 0x24, status := stInternal, detail := (w.readyStacks.filter (4 ≤ ·)).length }
    else w

theorem exec_hbm {s : State} (failed : List Nat) (ha : s.alive = true) : exec (.hbmRoundDone failed) s =
    .next (s.close (roundEnded ((roundStacks (rd s Reg.GLB_HBM_ROUND)).foldl (stackTrained failed) s.view) (rd s Reg.GLB_HBM_ROUND))) := by
  rw [exec_hbmRoundDone, execHbmRoundDone, run_alive _ ha]
  rfl

theorem roundEnded_shows (w : Work) (r : Nat) (hr : 1 ≤ r ∧ r ≤ 3) :
    Shows (roundEnded w r) Reg.GLB_HBM_ROUND (if r = 3 then 0 else r + 1) 0 0 ∧ (∀ st, Serves w st → Serves (roundEnded w r) st) ∧
      (roundEnded w r).n.bo = w.n.bo := by
  unfold roundEnded
  rw [if_neg (by omega)]
  extract_lets +onlyGivenNames u
  have hu : Shows u Reg.GLB_HBM_ROUND (if r = 3 then 0 else r + 1) 0 0 := by
    have hs := shows_set w Reg.GLB_HBM_ROUND (if r = 3 then 0 else r + 1) 0 0
    rw [Nat.mod_eq_of_lt (show (if r = 3 then 0 else r + 1) < 2 ^ Reg.GLB_HBM_ROUND.width from by
      change _ < 4
      split <;> omega)] at hs
    exact (hs.set Reg.CST_FRAMES _ 0 0 (by decide)).set Reg.CST_RESERVE _ 0 0 (by decide)
  have hserve : ∀ st, Serves w st → Serves u st := fun st h =>
    Serves.set (Serves.set (Serves.set h Reg.GLB_HBM_ROUND _ 0 0 (by decide)) Reg.CST_FRAMES _ 0 0 (by decide)) Reg.CST_RESERVE _ 0 0 (by decide)
  have hbo : u.n.bo = w.n.bo := rfl
  clear_value u
  split
  · exact ⟨(reports_report _ _).shows (by unfold Plain; decide) hu, fun st h => (hserve st h).reports (reports_report ..),
      (reports_report _ _).n_bo.trans hbo⟩
  · exact ⟨hu, hserve, hbo⟩

theorem hbmRound_shows (s : State) (failed : List Nat) (ha : s.alive = true) (hc : Canonical s)
    (hr : 1 ≤ rd s Reg.GLB_HBM_ROUND ∧ rd s Reg.GLB_HBM_ROUND ≤ 3) :
    ∃ t, exec (.hbmRoundDone failed) s = .next t ∧
      (rd t Reg.GLB_HBM_ROUND = (if rd s Reg.GLB_HBM_ROUND = 3 then 0 else rd s Reg.GLB_HBM_ROUND + 1)) ∧
      (∀ st ∈ roundStacks (rd s Reg.GLB_HBM_ROUND), st ∉ failed → rd t Reg.HBM_TRAINED st = 1 ∧ rd t Reg.HBM_IN_SERVICE st = 1) ∧
      (∀ st ∈ roundStacks (rd s Reg.GLB_HBM_ROUND), st ∈ failed → st ∈ t.node.bo.hbmFailed) := by
  obtain ⟨v, hv⟩ : ∃ v, v = (roundStacks (rd s Reg.GLB_HBM_ROUND)).foldl (stackTrained failed) s.view := ⟨_, rfl⟩
  obtain ⟨hround, hserve, hbo⟩ := roundEnded_shows v _ hr
  have he := exec_hbm failed ha
  rw [← hv] at he
  refine ⟨_, he, hround.rd hc.1, fun st hm hf => ?_, fun st hm hf => ?_⟩
  · have hs : Serves v st := hv ▸ foldl_reaches (I := fun _ => True) (P := fun w => Serves w st) (x := st) (fun _ _ _ => trivial)
      (fun w b _ h => stackTrained_serves failed b h) (fun w _ => stackTrained_trains failed w hf) _ s.view trivial (.inl hm)
    exact ⟨(hserve st hs).1.rd hc.1, (hserve st hs).2.rd hc.1⟩
  · rw [close_node, hbo]
    have hin : st ∈ v.n.bo.hbmFailed := hv ▸ foldl_reaches (I := fun _ => True) (P := fun w => st ∈ w.n.bo.hbmFailed) (x := st)
      (fun _ _ _ => trivial)
      (fun w b _ h => by rw [stackTrained_failed]; split <;> simp [h]) (fun w _ => by rw [stackTrained_failed, if_pos (by simpa using hf)]; simp)
      _ s.view trivial (.inl hm)
    exact hin

/-- Settles O9: one clause for each command of bring-up. -/
theorem bringUpTakesEachStage : Obligations.BringUpTakesEachStage := by
  unfold Obligations.BringUpTakesEachStage
  exact ⟨bootImage_takes, d2dTrained_up, d2dTrained_fails, ddrTraining_shows, hbmRound_shows, selftest_rehearsal, selftest_full⟩

end Sys2Proof.Training
end

section
/-!
The Keystone's scans and rebuilds: what a scan makes of a bank's entries.
-/

namespace Sys2Proof.Keystone

open Sys2Proof.Machine Sys2Proof.Safety Sys2Proof.Laws Sys2Proof.Frame Sys2Proof.Assoc Sys2Proof.Entering Sys2Proof.Functions

/-! ## Parity (R126) -/

theorem evenParity_split (n v : Nat) : evenParity (n + 1) v = (evenParity n v + if v.testBit n then 1 else 0) % 2 := by
  unfold evenParity
  rw [List.range_succ, List.filter_append, List.length_append]
  by_cases h : v.testBit n <;> simp [h]

theorem evenParity_of_eq {n v u : Nat} (h : ∀ i < n, v.testBit i = u.testBit i) : evenParity n v = evenParity n u := by
  unfold evenParity
  congr 2
  exact List.filter_congr fun i hi => h i (List.mem_range.1 hi)

/-- A number with one bit more, above all of its own. -/
theorem evenParity_addBit {n v p : Nat} (hv : v < 2 ^ n) (hp : p < 2) (k : Nat) :
    evenParity (n + 1 + k) (v + p * 2 ^ n) = (evenParity n v + p) % 2 := by
  induction k with
  | zero =>
    rw [Nat.add_zero, evenParity_split, evenParity_of_eq (u := v)]
    · congr 2
      rw [show v + p * 2 ^ n = 2 ^ n * p + v by ring, Nat.testBit_two_pow_mul_add _ hv, if_neg (lt_irrefl n), Nat.sub_self]
      interval_cases p <;> rfl
    · intro i hi
      rw [show v + p * 2 ^ n = 2 ^ n * p + v by ring, Nat.testBit_two_pow_mul_add _ hv, if_pos hi]
  | succ k ih =>
    rw [← Nat.add_assoc, evenParity_split, ih, Nat.testBit_lt_two_pow, if_neg (by simp), Nat.add_zero, Nat.mod_mod]
    calc v + p * 2 ^ n < 2 ^ n + 1 * 2 ^ n := by
          have := Nat.mul_le_mul_right (2 ^ n) (show p ≤ 1 by omega)
          omega
      _ = 2 ^ (n + 1) := by ring
      _ ≤ 2 ^ (n + 1 + k) := Nat.pow_le_pow_right (by decide) (by omega)

theorem evenParity_lt (n v : Nat) : evenParity n v < 2 := Nat.mod_lt _ (by decide)

/-- The metadata that a unit is written with agrees with its key. -/
theorem unitParityOk_unitMeta (k prio width : Nat) : unitParityOk (k, unitMeta prio width k) = true := by
  unfold unitParityOk unitMeta
  extract_lets m
  have hm : m < 2048 := by omega
  have hv : k % 2 ^ 64 + m * 2 ^ 64 < 2 ^ 75 := by omega
  have hp := evenParity_lt 76 (k % 2 ^ 64 + m * 2 ^ 64)
  have h76 : evenParity 76 (k % 2 ^ 64 + m * 2 ^ 64) = evenParity 75 (k % 2 ^ 64 + m * 2 ^ 64) % 2 := by
    simpa using evenParity_addBit hv (p := 0) (by decide) 0
  have h80 := evenParity_addBit hv hp 4
  have he : k % 2 ^ 64 + (m + evenParity 76 (k % 2 ^ 64 + m * 2 ^ 64) * 2048) % 2 ^ 16 * 2 ^ 64 =
      k % 2 ^ 64 + m * 2 ^ 64 + evenParity 76 (k % 2 ^ 64 + m * 2 ^ 64) * 2 ^ 75 := by
    generalize evenParity 76 (k % 2 ^ 64 + m * 2 ^ 64) = p at hp
    omega
  simp only [he, decide_eq_true_eq]
  rw [show (80 : Nat) = 75 + 1 + 4 from rfl, h80]
  omega

/-- An entry is written with sound parity. -/
theorem parityOk_make (width prio : Nat) (key : List Nat) (result : Nat) : (KsEntry.make width prio key result).parityOk = true := by
  unfold KsEntry.parityOk KsEntry.make
  rw [List.all_eq_true]
  intro u hu
  obtain ⟨k, -, rfl⟩ := List.mem_map.1 (List.mem_of_mem_take (List.map_take ▸ hu))
  exact unitParityOk_unitMeta ..

/-! ## What a scan leaves (R138) -/

/-- The entry is not a valid one with a parity error. -/
def Sound (e : KsEntry) : Prop := e.valid = true → e.parityOk = true

theorem ksBank_setKsBank (w : Work) (b c : Nat) (f : List (Nat × KsEntry) → List (Nat × KsEntry)) :
    (w.setKsBank b f).ksBank c = if b = c ∧ c < w.n.ks.banks.length then { entries := f (w.ksBank c).entries } else w.ksBank c := by
  unfold Work.setKsBank Work.ksBank atD
  simp only [List.getElem?_modify]
  by_cases hc : c < w.n.ks.banks.length
  · by_cases hb : b = c <;> simp [hb, hc]
  · simp [hc]

/-- The entry of a bank at an index, if it is there, is sound. -/
def SoundAt (w : Work) (b i : Nat) : Prop := ∀ e ∈ lookupN i (w.ksBank b).entries, Sound e

theorem ksBank_count (w : Work) (f : Fld) (x i j b : Nat) : (w.count f x i j).ksBank b = w.ksBank b := rfl

theorem soundAt_setKsBank {w : Work} {b i : Nat} {f : List (Nat × KsEntry) → List (Nat × KsEntry)} (c j : Nat)
    (hf : ∀ l, (∀ k ≠ i, lookupN k (f l) = lookupN k l) ∧ ∀ e ∈ lookupN i (f l), Sound e)
    (h : SoundAt w c j ∨ c = b ∧ j = i ∧ lookupN i (w.ksBank b).entries ≠ none) : SoundAt (w.setKsBank b f) c j := by
  intro e he
  rw [ksBank_setKsBank] at he
  split_ifs at he with hb
  · obtain ⟨rfl, -⟩ := hb
    by_cases hj : j = i
    · subst hj
      exact (hf _).2 e he
    · exact (h.resolve_right (by tauto)) e (by rwa [(hf _).1 j hj] at he)
  · rcases h with h | ⟨rfl, rfl, hn⟩
    · exact h e he
    · refine absurd ?_ hn
      unfold Work.ksBank atD
      rw [List.getElem?_eq_none (by omega)]
      rfl

/-- An entry that is written again, or removed, is sound. -/
theorem soundAt_ksRewrite (w : Work) (b i c j : Nat) (h : SoundAt w c j ∨ c = b ∧ j = i) : SoundAt (w.ksRewrite b i) c j := by
  unfold Work.ksRewrite
  cases he : lookupN i (w.ksBank b).entries with
  | none =>
    rcases h with h | ⟨rfl, rfl⟩
    · exact h
    · intro e hm
      rw [he] at hm
      cases hm
  | some e =>
    have hn : SoundAt w c j ∨ c = b ∧ j = i ∧ lookupN i (w.ksBank b).entries ≠ none := h.imp_right fun ⟨hc, hj⟩ => ⟨hc, hj, by simp [he]⟩
    dsimp only
    cases w.ksRecord b i with
    | none =>
      refine soundAt_setKsBank c j (fun l => ⟨fun k hk => lookupN_eraseN_ne _ hk, fun e he => ?_⟩) hn
      rw [lookupN_eraseN] at he
      cases he
    | some r =>
      refine soundAt_setKsBank c j (fun l => ⟨fun k hk => lookupN_insertN_ne _ _ hk, fun e he _ => ?_⟩) hn
      rw [lookupN_insertN] at he
      cases he
      exact parityOk_make ..

/-- Entries of a bank written again one after the other. -/
theorem soundAt_rewrites (b c j : Nat) (l : List (Nat × KsEntry)) (w : Work) (h : SoundAt w c j ∨ c = b ∧ ∃ e, (j, e) ∈ l) :
    SoundAt (l.foldl (fun w e => (w.ksParity b).ksRewrite b e.1) w) c j := by
  induction l generalizing w with
  | nil => exact h.resolve_right (by simp)
  | cons y l ih =>
    refine ih _ ?_
    rcases h with h | ⟨rfl, e, he⟩
    · exact .inl (soundAt_ksRewrite (w.ksParity b) _ _ _ _ (.inl h))
    · rcases List.mem_cons.1 he with rfl | he
      · exact .inl (soundAt_ksRewrite (w.ksParity c) _ _ _ _ (.inr ⟨rfl, rfl⟩))
      · exact .inr ⟨rfl, e, he⟩

theorem soundAt_scanBank (w : Work) (b c j : Nat) (h : SoundAt w c j ∨ b = c) : SoundAt (w.scanBank b) c j := by
  refine soundAt_rewrites b c j _ w ?_
  by_cases hs : SoundAt w c j
  · exact .inl hs
  · obtain rfl := h.resolve_left hs
    refine .inr ⟨rfl, ?_⟩
    unfold SoundAt Sound at hs
    push Not at hs
    obtain ⟨e, he, hv, hp⟩ := hs
    exact ⟨e, List.mem_filter.2 ⟨mem_of_lookupN he, by simp [hv, hp]⟩⟩

theorem soundAt_scanKeys (w : Work) {b : Nat} (i : Nat) (hb : b < 66) (he : w.flag Reg.KEY_SCAN_EN = true) : SoundAt w.scanKeys b i := by
  unfold Work.scanKeys
  rw [if_pos he]
  exact foldl_reaches (f := Work.scanBank) (I := fun _ => True) (P := fun w => SoundAt w b i) (x := b) (fun _ _ _ => trivial)
    (fun w y _ hw => soundAt_scanBank _ _ _ _ (.inl hw)) (fun w _ => soundAt_scanBank _ _ _ _ (.inr rfl)) _ w trivial (.inl (List.mem_range.2 hb))

/-! ## What a scan and the soft errors leave alone -/

/-- What scans and soft errors do not touch. -/
def besideBanks (w : Work) := ({ w.n with ks.banks := [] }, w.wr, w.wiped)

theorem ksRewrite_beside (w : Work) (b i : Nat) : besideBanks (w.ksRewrite b i) = besideBanks w := by
  unfold Work.ksRewrite
  cases lookupN i (w.ksBank b).entries with
  | none => rfl
  | some e => cases hr : w.ksRecord b i <;> simp only <;> rfl

theorem scanBank_beside (w : Work) (b : Nat) : besideBanks (w.scanBank b) = besideBanks w := by
  unfold Work.scanBank
  refine foldl_keeps besideBanks (f := fun (w : Work) (e : Nat × KsEntry) => (w.ksParity b).ksRewrite b e.1) (fun w e => ?_) _ _
  exact ksRewrite_beside (w.ksParity b) b e.1

theorem scanKeys_beside (w : Work) : besideBanks w.scanKeys = besideBanks w := by
  unfold Work.scanKeys
  split_ifs
  · exact foldl_keeps besideBanks (f := Work.scanBank) scanBank_beside _ _
  · rfl

/-- Soft errors strike the keys alone, whatever values were drawn before. -/
theorem upsets_fresh (l : List (Nat × Nat × Nat)) (w : Work) (k : Nat) :
    l.foldl Work.upset { w with n.fresh := k } = { l.foldl Work.upset w with n.fresh := k } := by
  induction l generalizing w with
  | nil => rfl
  | cons e l ih => exact ih (w.upset e)

theorem upsets_beside (l : List (Nat × Nat × Nat)) (w : Work) : besideBanks (l.foldl Work.upset w) = besideBanks w :=
  foldl_keeps besideBanks (f := Work.upset) (fun _ _ => rfl) l w

theorem upsets_rw (l : List (Nat × Nat × Nat)) (w : Work) : (l.foldl Work.upset w).rw = w.rw :=
  foldl_keeps Work.rw (f := Work.upset) (fun _ _ => rfl) l w

theorem exec_parityScan (s : State) : exec .parityScan s = execParityScan s := by simp only [exec]
theorem exec_keystoneBankRebuilt (b : Nat) (s : State) : exec (.keystoneBankRebuilt b) s = execKeystoneBankRebuilt b s := by simp only [exec]

theorem scanKeys_off {s : State} (h : rd s Reg.KEY_SCAN_EN = 0) : s.view.scanKeys = s.view := by
  unfold Work.scanKeys
  rw [flag_eq h]
  rfl

/-- A scan with the soft errors that come with it. -/
theorem parityScan_shows (s : State) (ha : s.alive = true) : ∃ t, exec .parityScan s = .next t ∧
    t.node.ks.banks = ((Config.keyUpsets s.node.fresh).foldl Work.upset s.view.scanKeys).n.ks.banks ∧
    t.node.ks.tree = s.node.ks.tree ∧ t.node.pg = s.node.pg ∧ t.mem = s.mem ∧ (rd s Reg.KEY_SCAN_EN = 0 → t.regs = s.regs) := by
  have hb := scanKeys_beside s.view
  have hk : s.view.scanKeys.keyUpsets =
      { (Config.keyUpsets s.node.fresh).foldl Work.upset s.view.scanKeys with n.fresh := s.view.scanKeys.n.fresh + 1 } := by
    have hf : s.view.scanKeys.n.fresh = s.node.fresh := congrArg (·.1.fresh) hb
    unfold Work.keyUpsets
    rw [hf]
    exact upsets_fresh _ _ _
  refine ⟨_, by rw [exec_parityScan, execParityScan, run_alive _ ha, hk], ?_⟩
  have hu := upsets_beside (Config.keyUpsets s.node.fresh) s.view.scanKeys
  rw [hb] at hu
  refine ⟨rfl, congrArg (·.1.ks.tree) hu, congrArg (·.1.pg) hu, close_mem_quiet s _ (congrArg (·.2.1) hu) (congrArg (·.2.2) hu), fun h0 => ?_⟩
  rw [close_regs]
  have hw : ((Config.keyUpsets s.node.fresh).foldl Work.upset s.view.scanKeys).rw = [] := by rw [upsets_rw, scanKeys_off h0]; rfl
  have hz := congrArg (·.2.2) hu
  dsimp only [besideBanks] at hz ⊢
  rw [hw, hz]
  rfl

/-- Settles O21: a scan makes each faulty entry sound or removes it, one after the other, and soundness of the others stays. -/
theorem keystoneScansAndRebuilds : Obligations.KeystoneScansAndRebuilds := by
  unfold Obligations.KeystoneScansAndRebuilds
  refine ⟨fun s ha hs => ?_, fun s ha hs => ?_, fun s b ha hc hb => ?_⟩
  · obtain ⟨t, ht, hk, htree, hpg, hm, -⟩ := parityScan_shows s ha
    exact ⟨t, ht, fun b hb i => soundAt_scanKeys _ i hb (by rw [flag_eq hs]; rfl), hk, htree, hpg, hm⟩
  · obtain ⟨t, ht, hk, htree, hpg, hm, hr⟩ := parityScan_shows s ha
    exact ⟨t, ht, scanKeys_off hs ▸ hk, hr hs, htree, hpg, hm⟩
  · refine ⟨s.close (s.view.set Reg.KEY_REBUILDING 0 0 b), ?_, ?_, rfl, rfl⟩
    · rw [exec_keystoneBankRebuilt, execKeystoneBankRebuilt, run_alive _ ha, if_pos (by rw [flag_eq hb]; rfl)]
    · exact (shows_set _ _ _ _ _).rd hc.1

end Sys2Proof.Keystone
end

section
/-!
The spill decision and the decay of heat: the grants of the six classes, and that what the decision starts leaves them alone.
-/

namespace Sys2Proof.Spilling

open Sys2Proof.Machine Sys2Proof.Safety Sys2Proof.Laws Sys2Proof.Frame Sys2Proof.Training Sys2Proof.Stages Sys2Proof.Entering Sys2Proof.Functions

/-! ## The grants stay while moves are started -/

/-- The grants of the six classes. -/
def grants (w : Work) : List Nat := w.n.st.grants

section
variable (w : Work)

@[simp] theorem blockIn_grants (stack len) : grants (w.blockIn stack len).2 = grants w := by
  unfold Work.blockIn
  extract_lets
  split <;> rfl

@[simp] theorem tryStacks_grants (start len j) : grants (w.tryStacks start len j).2 = grants w := by
  induction j with
  | zero => rfl
  | succ j ih =>
    simp only [Work.tryStacks]
    (repeat' split) <;> simp [ih]

@[simp] theorem spanIn_grants (used size n fit) : grants (w.spanIn used size n fit).2 = grants w := by
  unfold Work.spanIn
  extract_lets
  split <;> rfl

@[simp] theorem placeDdr_grants (die len mode) : grants (w.placeDdr die len mode).2 = grants w := by
  simp only [Work.placeDdr]
  split
  · exact spanIn_grants ..
  · exact spanIn_grants ..

@[simp] theorem placeHost_grants (held b) : grants (w.placeHost held b).2 = grants w := spanIn_grants ..

theorem placeAll_grants {place} (h : ∀ w l b, grants (place w l b).2 = grants w) (bs) : grants (w.placeAll place bs).2 = grants w := by
  unfold Work.placeAll
  refine foldl_keeps (fun a : Option (List Blk) × Work => grants a.2) (fun a b => ?_) bs (some [], w)
  dsimp only
  split
  · rfl
  · split
    · exact h ..
    · rfl

@[simp] theorem placeStored_grants (k bs) : grants (w.placeStored k bs).2 = grants w := placeAll_grants w (fun _ _ _ => placeDdr_grants ..) bs

@[simp] theorem zero_grants (lo len) : grants (w.zero lo len) = grants w := rfl
@[simp] theorem setFlag_grants (f b i j) : grants (w.setFlag f b i j) = grants w := rfl
@[simp] theorem startMove_grants (ci cls dst) : grants (w.startMove ci cls dst) = grants w := rfl

theorem spill_grants (cls p e) : grants (Plan.spill cls p e).w = grants p.w := by
  simp only [Plan.spill]
  (repeat' split) <;> simp

theorem lower_grants (p e) : grants (Plan.lower p e).w = grants p.w := by
  simp only [Plan.lower]
  (repeat' split) <;> simp [placeAll_grants]

theorem promote_grants (cls p ci) : grants (Plan.promote cls p ci).w = grants p.w := by
  simp only [Plan.promote]
  (repeat' split) <;> simp

theorem moveAside_grants (e) : grants (w.moveAside e) = grants w := by
  simp only [Work.moveAside]
  (repeat' split) <;> simp

theorem moveAsides_grants (l : List (Nat × Course)) : grants (l.foldl Work.moveAside w) = grants w :=
  foldl_keeps grants (f := Work.moveAside) moveAside_grants l w

/-- What the decision does for one retiring frame or grain (R78). -/
def evacuateOne (w : Work) (k : Nat) : Work :=
  if k < 2 ^ 40 then
    match (w.courseAtFrame k).orElse fun _ => w.packedAt k with
    | some (ci, c, _) => w.moveAside (ci, c)
    | none => w
  else
    (w.n.st.courses.filter fun e => !(e.2.loc.ddrHits fun b => b.onGrain (grainOf k).1 (grainOf k).2).isEmpty).foldl Work.moveAside w

theorem evacuateOne_grants (k : Nat) : grants (evacuateOne w k) = grants w := by
  unfold evacuateOne
  by_cases h : k < 2 ^ 40
  · rw [if_pos h]
    split
    · exact moveAside_grants ..
    · rfl
  · rw [if_neg h]
    exact moveAsides_grants ..

theorem evacuate_grants : grants w.evacuate = grants w :=
  foldl_keeps grants (f := evacuateOne) evacuateOne_grants _ _

theorem plans_grants {step : Plan → Nat × Course → Plan} (h : ∀ p e, grants (step p e).w = grants p.w) (tier : Nat)
    (l : List (Nat × Nat)) (p : Plan) :
    grants (l.foldl (fun (p : Plan) e => (p.w.victims e.1 tier).foldl step { p with need := e.2 }) p).w = grants p.w :=
  foldl_keeps (fun p : Plan => grants p.w) (fun p e => (foldl_keeps (fun p : Plan => grants p.w) h _ _ :
    grants (List.foldl step { p with need := e.2 } (p.w.victims e.1 tier)).w = _)) l p

theorem schedule_grants (cls grant) : grants (w.schedule cls grant) = grants w := by
  cases cls
  case reserveDefence =>
    simp only [Work.schedule]
    split
    · rw [plans_grants (spill_grants _)]
    · rfl
  case watermarkDefence =>
    simp only [Work.schedule]
    split
    · rw [plans_grants (spill_grants _)]
    · rfl
  case lowerSpill =>
    simp only [Work.schedule]
    split
    · rw [plans_grants lower_grants]
    · rfl
  case prefetch => exact foldl_keeps (fun p : Plan => grants p.w) (promote_grants _) _ _
  case heat =>
    simp only [Work.schedule]
    split
    · exact foldl_keeps (fun p : Plan => grants p.w) (promote_grants _) _ _
    · rfl
  case rebalance =>
    simp only [Work.schedule]
    split
    · rfl
    · refine foldl_keeps (fun p : Plan => grants p.w) (fun p e => ?_) _ _
      split
      · split
        · rw [startMove_grants, blockIn_grants]
        · rfl
      · rfl

end

/-! ## What the decision grants (R71 to R73) -/

theorem grantOf_le (w : Work) (cls : MoveClass) (last want avail : Nat) (energy : Rat) : w.grantOf cls last want avail energy ≤ avail := by
  unfold Work.grantOf
  split
  · exact Nat.zero_le _
  · extract_lets r target up dn g j g' g''
    have h' : g' ≤ avail := min_le_right _ _
    have h'' : g'' ≤ avail := by
      simp only [g'']
      split
      · exact h'
      · exact (min_le_left _ _).trans h'
    exact max_le h'' (min_le_right _ _)

/-- One class after the other takes its grant from what is left (R72). -/
def decideOne (w : Work) (wants : List Nat) (acc : List Nat × Nat × Rat) (e : MoveClass × Nat) : List Nat × Nat × Rat :=
  let g := w.grantOf e.1 (atD w.n.st.grants e.2 0) (atD wants e.2 0) acc.2.1 acc.2.2
  (acc.1 ++ [g], acc.2.1 - g, acc.2.2 - (g : Rat) * w.joules e.1)

theorem decideOne_within (w : Work) (wants : List Nat) (acc : List Nat × Nat × Rat) (e : MoveClass × Nat) :
    (decideOne w wants acc e).1.length = acc.1.length + 1 ∧
      (decideOne w wants acc e).1.sum + (decideOne w wants acc e).2.1 = acc.1.sum + acc.2.1 := by
  have hg := grantOf_le w e.1 (atD w.n.st.grants e.2 0) (atD wants e.2 0) acc.2.1 acc.2.2
  unfold decideOne
  generalize w.grantOf e.1 (atD w.n.st.grants e.2 0) (atD wants e.2 0) acc.2.1 acc.2.2 = g at hg
  simp only [List.length_append, List.sum_append, List.length_singleton, List.sum_singleton, true_and]
  omega

theorem decided_within (w : Work) (wants : List Nat) (l : List (MoveClass × Nat)) (acc : List Nat × Nat × Rat) :
    (l.foldl (decideOne w wants) acc).1.length = acc.1.length + l.length ∧
      (l.foldl (decideOne w wants) acc).1.sum + (l.foldl (decideOne w wants) acc).2.1 = acc.1.sum + acc.2.1 := by
  induction l generalizing acc with
  | nil => simp
  | cons e l ih =>
    obtain ⟨h1, h2⟩ := ih (decideOne w wants acc e)
    obtain ⟨g1, g2⟩ := decideOne_within w wants acc e
    rw [List.foldl_cons, List.length_cons]
    omega

/-- What a class of floors gives in a tick (R72). -/
def floorBytes (w : Work) (pct : Nat) : Nat := 2048 * (w.periodAt (w.now + 1) * 125) * pct / 100 * w.servingStacks.length

/-- What the six classes share. -/
def available (w : Work) : Nat :=
  floorBytes w (w.get Reg.CST_BULK_FLOOR) + (floorBytes w (w.get Reg.CST_MIRROR_FLOOR) - w.n.st.mirrorReserved)

/-- The decision's grants, before it starts what they allow. -/
def decided (w : Work) : List Nat := (moveClasses.zipIdx.foldl (decideOne w (moveClasses.map w.demand)) ([], available w, w.headroom)).1

theorem decided_length (w : Work) : (decided w).length = 6 := (decided_within w _ _ _).1

theorem decided_sum (w : Work) : (decided w).sum ≤ available w := by
  have h := (decided_within w (moveClasses.map w.demand) moveClasses.zipIdx ([], available w, w.headroom)).2
  rw [List.sum_nil, Nat.zero_add] at h
  exact Nat.le.intro h

theorem get_defend (w : Work) (f : Fld) (i j : Nat) (hf : Apart Reg.SPL_DDR_SHORT f = true) : w.defend.get f i j = w.get f i j :=
  by
  unfold Work.defend
  rw [get_setFlag_apart _ hf, get_update]


theorem exec_splTickDecision (s : State) : exec .splTickDecision s = execSplTickDecision s := by simp only [exec]
theorem exec_heatDecay (s : State) : exec .heatDecay s = execHeatDecay s := by simp only [exec]

/-- What the decision sees: the prefetches still wanted, the marks that are under defence. -/
def ready (w : Work) : Work :=
  let w := { w with n.st.prefetch := w.wanted }
  (w.set Reg.SPL_HOST_FULL 0).defend

theorem get_ready (w : Work) (f : Fld) (i j : Nat) (hf : (Apart Reg.SPL_DDR_SHORT f && Apart Reg.SPL_HOST_FULL f) = true) :
    (ready w).get f i j = w.get f i j := by
  rw [Bool.and_eq_true] at hf
  unfold ready
  extract_lets u
  rw [get_defend _ _ _ _ hf.1, get_set_apart _ hf.2]
  rfl

/-- A bound that holds over a watermark is shown, and reported when it is new (R75). -/
def heldShown (w : Work) (wants given : List Nat) : Work :=
  let heldAt := fun i : Nat => decide (atD given i 0 < atD wants i 0)
  let held : Bool := heldAt 0 || heldAt 1
  let was : Bool := w.n.st.boundHeldBefore
  let w := ({ w with n.st.boundHeldBefore := held }).setFlag Reg.SPL_BOUND_HELD held
  if held && !was then
    let p := w.firstHeld (if heldAt 0 then .reserveDefence else .watermarkDefence)
    w.report { code := 0x4305, page := 0x26, part := some p, detail := p }
  else w

theorem heldShown_grants (w : Work) (wants given : List Nat) : grants (heldShown w wants given) = grants w := by
  unfold heldShown
  extract_lets +onlyGivenNames heldAt held was _ _ v
  have hv : grants v = grants w := rfl
  clear_value v
  split
  · exact (congrArg Store.grants (reports_report ..).n_st).trans hv
  · exact hv

/-- What the decision starts, and reports, after it has decided. -/
def started (w : Work) (wants given : List Nat) : Work :=
  moveClasses.zipIdx.foldl (fun w e => w.schedule e.1 (atD given e.2 0)) (heldShown { w with n.st.grants := given } wants given).evacuate

theorem started_grants (w : Work) (wants given : List Nat) : grants (started w wants given) = given := by
  unfold started
  rw [foldl_keeps grants (fun w e => schedule_grants ..), evacuate_grants, heldShown_grants]
  rfl

theorem exec_decision (s : State) (ha : s.alive = true) : exec .splTickDecision s =
    .next (s.close (started (ready s.view) (moveClasses.map (ready s.view).demand) (decided (ready s.view)))) := by
  rw [exec_splTickDecision, execSplTickDecision, run_alive _ ha]
  rfl

theorem available_ready (s : State) : available (ready s.view) = available s.view := by
  have hg : ∀ f : Fld, (Apart Reg.SPL_DDR_SHORT f && Apart Reg.SPL_HOST_FULL f) = true → @Work.get (ready s.view) f = @Work.get s.view f := fun f hf =>
    funext fun i => funext fun j => get_ready s.view f i j hf
  have hb := hg Reg.CST_BULK_FLOOR (by decide)
  have hm := hg Reg.CST_MIRROR_FLOOR (by decide)
  have hp : (ready s.view).periodAt = s.view.periodAt := by
    funext t
    unfold Work.periodAt
    rw [hg Reg.TICK_PERIOD (by decide)]
    rfl
  have hs : (ready s.view).servingStacks = s.view.servingStacks := by
    have hr : (ready s.view).readyStacks = s.view.readyStacks := by
      unfold Work.readyStacks Work.stackReady
      rw [hg Reg.CST_READY (by decide)]
    unfold Work.servingStacks Work.nodeState
    rw [hr, hg Reg.GLB_NODE_STATE (by decide)]
  unfold available floorBytes
  rw [hb, hm, hp, hs]
  rfl

theorem heatDecay_due (s : State) (ha : s.alive = true) (h : 2 ^ rd s Reg.SPL_DECAY_SHIFT ≤ ticksTo s.node.st.lastDecay s.node.tk.now) :
    exec .heatDecay s = .next { s with node := { s.node with st := { s.node.st with
      courses := s.node.st.courses.map fun e => (e.1, { e.2 with heat := e.2.heat / 2 })
      lastDecay := s.node.tk.now } } } := by
  have hn : ¬ ticksTo s.view.n.st.lastDecay s.view.now < 2 ^ s.view.get Reg.SPL_DECAY_SHIFT := Nat.not_lt.2 h
  rw [exec_heatDecay, execHeatDecay, run_alive _ ha, if_neg hn, close_update]
  rfl

theorem heatDecay_early (s : State) (ha : s.alive = true) (h : ticksTo s.node.st.lastDecay s.node.tk.now < 2 ^ rd s Reg.SPL_DECAY_SHIFT) :
    exec .heatDecay s = .next s := by
  have hn : ticksTo s.view.n.st.lastDecay s.view.now < 2 ^ s.view.get Reg.SPL_DECAY_SHIFT := h
  rw [exec_heatDecay, execHeatDecay, run_alive _ ha, if_pos hn, Resets.close_view]

/-- Settles O15: each class takes its grant from what the classes before it left. -/
theorem grantsStayWithinTheFloorsAndHeatHalves : Obligations.GrantsStayWithinTheFloorsAndHeatHalves := by
  unfold Obligations.GrantsStayWithinTheFloorsAndHeatHalves
  refine ⟨fun s ha => ?_, heatDecay_due, heatDecay_early⟩
  have hg := started_grants (ready s.view) (moveClasses.map (ready s.view).demand) (decided (ready s.view))
  have he := exec_decision s ha
  generalize started (ready s.view) (moveClasses.map (ready s.view).demand) (decided (ready s.view)) = v at hg he
  have hv : (s.close v).node.st.grants = decided (ready s.view) := hg
  refine ⟨_, he, ?_, ?_, tick_stays he rfl rfl⟩
  · rw [hv]
    exact decided_length _
  · rw [hv]
    exact (decided_sum _).trans_eq (available_ready s)

end Sys2Proof.Spilling
end

section
/-!
What a function leaves of the registers: all but the fields it names and those that a report writes.
-/

namespace Sys2Proof.Fields

open Sys2Proof.Machine Sys2Proof.Safety Sys2Proof.Laws Sys2Proof.Entering

/-- The registers of a view but for the fields of a list and for what reports write. -/
def fields (F : List Fld) (w : Work) :=
  (w.regs, w.wiped, fun k : {k // Plain k ∧ ∀ f ∈ F, ∀ i j, f.key i j ≠ k} => w.rw.find? fun e => e.1 = k.1)

section
variable {F : List Fld} (w : Work)

@[simp] theorem fields_set (f v i j) (h : f ∈ F) : fields F (w.set f v i j) = fields F w := by
  unfold fields
  rw [set_regs, set_wiped]
  exact congrArg (fun x => (w.regs, w.wiped, x)) (funext fun k => sameAt_set w f v i j (k.2.2 f h i j))

@[simp] theorem fields_setFlag (f b i j) (h : f ∈ F) : fields F (w.setFlag f b i j) = fields F w := fields_set w f _ i j h

@[simp] theorem fields_count (f v i j) (h : f ∈ F) : fields F (w.count f v i j) = fields F w := fields_set w f _ i j h

theorem fields_of_reports {w v : Work} (h : Reports w v) : fields F v = fields F w := by
  unfold fields
  rw [h.regs, h.wiped]
  exact congrArg (fun x => (w.regs, w.wiped, x)) (funext fun k => h.rw_ k.1 k.2.1)

@[simp] theorem fields_report (e) : fields F (w.report e) = fields F w := fields_of_reports (reports_report w e)
@[simp] theorem fields_log (e) : fields F (w.log e) = fields F w := fields_of_reports (reports_log w e)
@[simp] theorem fields_capture (e) : fields F (w.capture e) = fields F w := fields_of_reports (reports_capture w e)
@[simp] theorem fields_isr (p b) : fields F (w.isr p b) = fields F w := fields_of_reports (reports_isr w p b)
@[simp] theorem fields_signal (f v) : fields F (w.signal f v) = fields F w := fields_of_reports (reports_signal w f v)
@[simp] theorem fields_setReady (p b) : fields F (w.setReady p b) = fields F w := fields_of_reports (reports_setReady w p b)
@[simp] theorem fields_setEnable (p b) : fields F (w.setEnable p b) = fields F w := fields_of_reports (reports_setEnable w p b)
@[simp] theorem fields_setSpareInUse (p b) : fields F (w.setSpareInUse p b) = fields F w := fields_of_reports (reports_setSpareInUse w p b)

@[simp] theorem fields_update (n mem wr svn ppr) :
    fields F { n := n, regs := w.regs, rw := w.rw, mem := mem, wr := wr, wiped := w.wiped, svn := svn, ppr := ppr } = fields F w := rfl

@[simp] theorem fields_store (a bs) : fields F (w.store a bs) = fields F w := rfl
@[simp] theorem fields_zero (a len) : fields F (w.zero a len) = fields F w := rfl
@[simp] theorem fields_emit (o) : fields F (w.emit o) = fields F w := rfl
@[simp] theorem fields_draw : fields F w.draw.2 = fields F w := rfl

@[simp] theorem fields_ite (c : Prop) [Decidable c] (a b : Work) : fields F (if c then a else b) = if c then fields F a else fields F b :=
  apply_ite ..

theorem fields_of_ite {c : Prop} [Decidable c] {a b v : Work} (ha : fields F a = fields F v) (hb : fields F b = fields F v) :
    fields F (if c then a else b) = fields F v := by
  split
  · exact ha
  · exact hb

end

/-! ## What is left -/

/-- A field apart from those of a list, on a page above the prompt book's. -/
def Clear (F : List Fld) (g : Fld) : Bool := F.all (Apart · g) && decide (0x100 ≤ g.off ∧ g.off < 4096 ∧ g.lo < 32 ∧ 0xB < g.blk.page)

/-- The same of a field of a page with one instance and no selection. -/
def Clear0 (F : List Fld) (g : Fld) : Bool := F.all (Apart · g) && decide (0x100 ≤ g.off ∧ g.off < 4096 ∧ g.lo < 32 ∧ g.blk.page ≠ 0xB)

theorem apart_all {F : List Fld} {g : Fld} (h : F.all (Apart · g) = true) (i j : Nat) : ∀ f ∈ F, ∀ a b, f.key a b ≠ g.key i j :=
  fun _ hf a b => key_ne_of_apart (List.all_eq_true.1 h _ hf) a b i j

theorem plain_high {g : Fld} (h : 0x100 ≤ g.off ∧ g.off < 4096 ∧ g.lo < 32 ∧ 0xB < g.blk.page) (i j : Nat) : Plain (g.key i j) := by
  obtain ⟨h1, ho, hl, hp⟩ := h
  refine ⟨by rw [key_off g i j ho hl]; exact h1, ?_⟩
  unfold Fld.key
  omega

theorem fields_sameAt {F : List Fld} {w v : Work} (h : fields F v = fields F w) {g : Fld} {i j : Nat} (hg : F.all (Apart · g) = true)
    (hp : Plain (g.key i j)) : SameAt (g.key i j) w v :=
  congrFun (congrArg (fun x : _ × _ × ({k // Plain k ∧ ∀ f ∈ F, ∀ i j, f.key i j ≠ k} → _) => x.2.2) h) ⟨_, hp, apart_all hg i j⟩

theorem fields_regs {F : List Fld} {w v : Work} (h : fields F v = fields F w) : v.regs = w.regs := congrArg (·.1) h

theorem fields_wiped {F : List Fld} {w v : Work} (h : fields F v = fields F w) : v.wiped = w.wiped := congrArg (·.2.1) h

section
variable {F : List Fld} {g : Fld} {w v : Work} (h : fields F v = fields F w)
include h

theorem sameAt_of_fields (hg : Clear F g = true) (i j : Nat) : SameAt (g.key i j) w v := by
  unfold Clear at hg
  rw [Bool.and_eq_true, decide_eq_true_eq] at hg
  exact fields_sameAt h hg.1 (plain_high hg.2 i j)

theorem sameAt_of_fields0 (hg : Clear0 F g = true) : SameAt (g.key 0 0) w v := by
  unfold Clear0 at hg
  rw [Bool.and_eq_true, decide_eq_true_eq] at hg
  obtain ⟨ha, h1, h2, h3, h4⟩ := hg
  exact fields_sameAt h ha ⟨by rw [key_off g 0 0 h2 h3]; exact h1, by rw [key_page g 0 h2 h3]; exact h4⟩

theorem get_of_fields (hg : Clear F g = true) (i j : Nat) : v.get g i j = w.get g i j := (sameAt_of_fields h hg i j).get (fields_regs h)

theorem get_of_fields0 (hg : Clear0 F g = true) : v.get g = w.get g := (sameAt_of_fields0 h hg).get (fields_regs h)

theorem shows_of_fields (hg : Clear F g = true) {x i j : Nat} (hs : Shows w g x i j) : Shows v g x i j := (sameAt_of_fields h hg i j).shows hs

theorem shows_of_fields0 (hg : Clear0 F g = true) {x : Nat} (hs : Shows w g x 0 0) : Shows v g x 0 0 := (sameAt_of_fields0 h hg).shows hs

end

section
variable {F : List Fld} {g : Fld} {s : State} {w : Work} (hc : Canonical s) (h : fields F w = fields F s.view)
include hc h

theorem rd_of_fields (hg : Clear F g = true) (i j : Nat) : rd (s.close w) g i j = rd s g i j :=
  (sameAt_of_fields h hg i j).rd hc.1 (fields_wiped h)

theorem rd_of_fields0 (hg : Clear0 F g = true) : rd (s.close w) g = rd s g := (sameAt_of_fields0 h hg).rd hc.1 (fields_wiped h)

end

/-! ## What a field will read -/

/-- A field reads a value once the command has ended: the view shows it, or has not written the field, which had it. -/
def Reads (s : State) (w : Work) (f : Fld) (v i j : Nat) : Prop := Shows w f v i j ∨ SameAt (f.key i j) s.view w ∧ Sys2Proof.Safety.rd s f i j = v

theorem Reads.rd {s : State} (hc : Canonical s) {w : Work} {f : Fld} {v i j : Nat} (h : Reads s w f v i j) (hw : w.wiped = false) :
    Sys2Proof.Safety.rd (s.close w) f i j = v := by
  rcases h with h | ⟨h, hv⟩
  · exact h.rd hc.1
  · rw [h.rd hc.1 hw, hv]

theorem Reads.keep {s : State} {a b : Work} {f : Fld} {v i j : Nat} (h : Reads s a f v i j) (k : SameAt (f.key i j) a b) : Reads s b f v i j :=
  h.imp k.shows fun ⟨g, hv⟩ => ⟨g.trans k, hv⟩

/-- A field that the view has not written reads what the view gets. -/
theorem reads_of_get {s : State} {w : Work} {f : Fld} {v i j : Nat} (h : SameAt (f.key i j) s.view w) (hr : w.regs = s.regs)
    (hg : w.get f i j = v) : Reads s w f v i j := .inr ⟨h, (h.get hr).symm.trans hg⟩

/-- A field's newest write, if it has one, names the field's own reset value. -/
def Faithful (w : Work) (f : Fld) (i j : Nat) : Prop := ∀ e ∈ w.rw.find? (fun e => e.1 = f.key i j), e.2.2 = f.resetAt i j

/-- What a view gets of a field is what the field reads when the command ends there. -/
theorem Faithful.rd {s : State} (hc : Canonical s) {w : Work} {f : Fld} {i j : Nat} (h : Faithful w f i j) (hr : w.regs = s.regs)
    (hw : w.wiped = false) : Sys2Proof.Safety.rd (s.close w) f i j = w.get f i j := by
  rw [rd_close hc.1 w hw]
  unfold Faithful at h
  unfold Work.get Work.raw
  cases he : w.rw.find? (fun e => e.1 = f.key i j) with
  | none =>
    rw [hr]
    rfl
  | some e =>
    have := h e (by rw [he]; rfl)
    simp only
    split
    · rw [‹e.2.1 = e.2.2›, this]
    · rfl

theorem faithful_view (s : State) (f : Fld) (i j : Nat) : Faithful s.view f i j := by
  intro e he
  cases he

theorem Faithful.set {w : Work} {f : Fld} {i j : Nat} (h : Faithful w f i j) (g : Fld) (v a b : Nat)
    (hg : g.key a b = f.key i j → g.resetAt a b = f.resetAt i j) : Faithful (w.set g v a b) f i j := by
  intro e he
  rw [set_rw] at he
  by_cases hk : g.key a b = f.key i j
  · rw [List.find?_cons_of_pos (by simpa using hk)] at he
    cases he
    exact hg hk
  · rw [List.find?_cons_of_neg (by simpa using hk)] at he
    exact h e he

theorem Faithful.keep {a b : Work} {f : Fld} {i j : Nat} (h : Faithful a f i j) (k : SameAt (f.key i j) a b) : Faithful b f i j := by
  unfold Faithful SameAt at *
  rw [k]
  exact h

theorem resetAt_const {f : Fld} (h : f.rule = .const) (i j a b : Nat) : f.resetAt i j = f.resetAt a b := by
  unfold Fld.resetAt
  rw [h]

/-- The fields of a register's write, none of them another field of the same place. -/
theorem faithful_writeFields {w : Work} {f : Fld} {i j : Nat} (h : Faithful w f i j) (wr : RegWr) (b : Block) (inst idx off : Nat)
    (hF : ∀ g ∈ regFields b off, Apart g f = true ∨ g = f ∧ f.rule = .const) : Faithful (w.writeFields wr b inst idx off) f i j := by
  unfold Work.writeFields
  suffices ∀ (l : List Fld) (v : Work), (∀ g ∈ l, Apart g f = true ∨ g = f ∧ f.rule = .const) → Faithful v f i j → Faithful (l.foldl _ v) f i j from
    this _ w hF h
  intro l
  induction l with
  | nil => exact fun v _ hv => hv
  | cons g l ih =>
    intro v hl hv
    rw [List.foldl_cons]
    refine ih _ (fun x hx => hl x (List.mem_cons_of_mem _ hx)) ?_
    have hset : ∀ x, Faithful (v.set g x (storeInst b inst off) idx) f i j := fun x => hv.set g x _ _ fun hk => by
      rcases hl g List.mem_cons_self with ha | ⟨rfl, hr⟩
      · exact absurd hk (key_ne_of_apart ha _ _ _ _)
      · exact resetAt_const hr _ _ _ _
    have hs : Faithful (if fieldEnabled wr g then v.set g (v.merged wr inst idx g) (storeInst b inst off) idx else v) f i j := by
      split
      · exact hset _
      · exact hv
    simp only
    cases g.acc <;> first | exact hs | exact hv

end Sys2Proof.Fields
end

section
/-!
The fabric's time: what taking, losing and following a source leaves of the tick's state and of the registers (R261 to R266).
-/

namespace Sys2Proof.TickSource

open Sys2Proof.Machine Sys2Proof.Safety Sys2Proof.Laws Sys2Proof.Writes Sys2Proof.Stages Sys2Proof.Entering Sys2Proof.Functions Sys2Proof.Fields

/-! ## The fields that a source's rules write, and the node's parts that they leave -/

/-- The fields that taking or losing a source writes. -/
def sourceFlds : List Fld :=
  [Reg.TICK_LOCK, Reg.TICK_SRC_IN, Reg.GLB_TICK_SRC, Reg.LP_TICK_SRC, Reg.TICK_SRC_PORT, Reg.TICK_SRC_HALF, Reg.TICK_HOPS,
   Reg.TICK_OUT_OF_BUDGET, Reg.TICK_SRC_CHANGES]

/-- With those that following its markers writes. -/
def followFlds : List Fld :=
  sourceFlds ++ [Reg.LP_MARK_BAD, Reg.TICK_OFFSET, Reg.TICK_OFFSET_MAX, Reg.TICK_BUDGET_EVENTS, Reg.TICK_PERIOD, Reg.LP_DELAY, Reg.TICK_NEXT,
    Reg.TICK_SWITCH_LO, Reg.TICK_SWITCH_HI, Reg.TICK_PENDING]

/-- The links and the values that still act, which the tick's rules leave. -/
def links (w : Work) := (w.n.lk, w.n.acting)

theorem links_reports {w v : Work} (h : Reports w v) : links v = links w := by
  unfold links
  rw [h.n]

section
variable (w : Work) (f : Fld) (v i j : Nat) (b : Bool) (e : Ev)

@[simp] theorem links_set : links (w.set f v i j) = links w := rfl
@[simp] theorem links_setFlag : links (w.setFlag f b i j) = links w := rfl
@[simp] theorem links_count : links (w.count f v i j) = links w := rfl
@[simp] theorem links_report : links (w.report e) = links w := links_reports (reports_report ..)
@[simp] theorem links_log : links (w.log e) = links w := links_reports (reports_log ..)
@[simp] theorem links_isr : links (w.isr i j) = links w := links_reports (reports_isr ..)
@[simp] theorem links_ite (c : Prop) [Decidable c] (a b : Work) : links (if c then a else b) = if c then links a else links b := apply_ite ..

@[simp ↓] theorem links_update (tk : TickBox) (qa : Admission) (regs : RegFile) (rw : List (Nat × Nat × Nat)) (mem : Mem) (wr : List MemOp)
    (wiped : Bool) (svn : Nat) (ppr : List (Nat × Nat)) :
    links { w with n := { w.n with tk := tk, qa := qa }, regs := regs, rw := rw, mem := mem, wr := wr, wiped := wiped, svn := svn, ppr := ppr } =
      links w := rfl

end

section
variable {F : List Fld} (w : Work)

theorem fields_setLock (v) (h : Reg.TICK_LOCK ∈ F) : fields F (w.setLock v) = fields F w := by
  simp only [Work.setLock]
  split
  · split
    · rfl
    · rw [fields_isr, fields_set _ _ _ _ _ h]
      rfl
  · split
    · rfl
    · rw [fields_isr, fields_set _ _ _ _ _ h]

theorem fields_setSrcIn (b) (h : [Reg.TICK_SRC_IN, Reg.GLB_TICK_SRC] ⊆ F) : fields F (w.setSrcIn b) = fields F w := by
  rw [Work.setSrcIn, fields_setFlag _ _ _ _ _ (h (by decide)), fields_setFlag _ _ _ _ _ (h (by decide))]

theorem fields_clearSrcPort (h : Reg.LP_TICK_SRC ∈ F) : fields F w.clearSrcPort = fields F w := by
  unfold Work.clearSrcPort
  split
  · rfl
  · rw [fields_set _ _ _ _ _ h]

theorem fields_takeSource (but) (h : sourceFlds ⊆ F) : fields F (w.takeSource but).2 = fields F w := by
  have hs : ∀ (w : Work) (f v i j), f ∈ sourceFlds → fields F (w.set f v i j) = fields F w := fun w f v i j hf => fields_set _ _ _ _ _ (h hf)
  have hi : [Reg.TICK_SRC_IN, Reg.GLB_TICK_SRC] ⊆ F := fun f hf => h ((show [Reg.TICK_SRC_IN, Reg.GLB_TICK_SRC] ⊆ sourceFlds by decide) hf)
  simp only [Work.takeSource]
  split
  · rw [fields_setLock _ _ (h (by decide)), hs _ _ _ _ _ (by decide), hs _ _ _ _ _ (by decide), fields_setSrcIn _ _ hi,
      hs _ _ _ _ _ (by decide), hs _ _ _ _ _ (by decide), hs _ _ _ _ _ (by decide)]
  · rw [fields_setLock _ _ (h (by decide)), hs _ _ _ _ _ (by decide), hs _ _ _ _ _ (by decide), fields_setSrcIn _ _ hi]
  · split
    · rfl
    · rw [fields_report, hs _ _ _ _ _ (by decide)]

theorem fields_seekSource (h : sourceFlds ⊆ F) : fields F w.seekSource = fields F w := by
  unfold Work.seekSource
  split
  · rfl
  · exact fields_takeSource _ _ h

/-- A source lost, before another is looked for. -/
def unsourced (w : Work) : Work := { w.clearSrcPort with n.tk.due := 0 }

theorem clearSrcPort_n : w.clearSrcPort.n = w.n := by
  unfold Work.clearSrcPort
  split
  · rfl
  · rfl

theorem unsourced_n : (unsourced w).n = { w.n with tk.due := 0 } := by
  simp only [unsourced, clearSrcPort_n]

/-- The source before the loss. -/
def lostSource (w : Work) : Option (Nat × Nat) :=
  if w.flag Reg.TICK_SRC_IN then none else some (w.get Reg.TICK_SRC_PORT, w.get Reg.TICK_SRC_HALF)

/-- What the loss of a source ends in: the next source, or holdover (R263, R32). -/
def resourced (r : Bool × Work) : Work :=
  if r.1 then
    let w := r.2
    let src := if w.flag Reg.TICK_SRC_IN then 64 else w.get Reg.TICK_SRC_PORT + 32 * w.get Reg.TICK_SRC_HALF
    (w.count Reg.TICK_SRC_CHANGES).log { code := 0x4602, page := 1, detail := src }
  else ((r.2.setSrcIn false).set Reg.TICK_HOPS 7).setLock 0 |>.report { code := 0x4604, page := 1 }

theorem loseSource_eq : w.loseSource = resourced ((unsourced w).takeSource (lostSource w)) := rfl

theorem fields_resourced (r : Bool × Work) (h : sourceFlds ⊆ F) : fields F (resourced r) = fields F r.2 := by
  have hi : [Reg.TICK_SRC_IN, Reg.GLB_TICK_SRC] ⊆ F := fun f hf => h ((show [Reg.TICK_SRC_IN, Reg.GLB_TICK_SRC] ⊆ sourceFlds by decide) hf)
  simp only [resourced]
  split
  · rw [fields_log, fields_count _ _ _ _ _ (h (by decide))]
  · rw [fields_report, fields_setLock _ _ (h (by decide)), fields_set _ _ _ _ _ (h (by decide)), fields_setSrcIn _ _ hi]

theorem fields_loseSource (h : sourceFlds ⊆ F) : fields F w.loseSource = fields F w := by
  rw [loseSource_eq, fields_resourced _ h, fields_takeSource _ _ h]
  exact fields_clearSrcPort w (h (by decide))

/-- A lock that is not the second stage leaves the tick's state. -/
theorem setLock_tk {v : Nat} (h : v ≠ 2) : (w.setLock v).n.tk = w.n.tk := by
  simp only [Work.setLock, if_neg h]
  split
  · rfl
  · rw [isr_tk, set_n]

theorem setLock_tk_two : (w.setLock 2).n.tk = { w.n.tk with lockedOnce := true } := by
  simp only [Work.setLock, if_true]
  split
  · rfl
  · rw [isr_tk, set_n]

theorem setLock_links (v : Nat) : links (w.setLock v) = links w := by
  simp only [Work.setLock]
  split
  · split
    · rfl
    · rw [links_reports (reports_isr ..)]
      rfl
  · split
    · rfl
    · rw [links_reports (reports_isr ..)]
      rfl

theorem takeSource_tk (but) : (w.takeSource but).2.n.tk = w.n.tk := by
  simp only [Work.takeSource]
  split
  · exact setLock_tk _ (by decide)
  · exact setLock_tk _ (by decide)
  · split
    · rfl
    · rw [report_tk, set_n]

theorem takeSource_links (but) : links (w.takeSource but).2 = links w := by
  simp only [Work.takeSource]
  split
  · exact setLock_links ..
  · exact setLock_links ..
  · split
    · rfl
    · rw [links_reports (reports_report ..)]
      rfl

theorem seekSource_tk : w.seekSource.n.tk = w.n.tk := by
  unfold Work.seekSource
  split
  · rfl
  · exact takeSource_tk ..

theorem seekSource_links : links w.seekSource = links w := by
  unfold Work.seekSource
  split
  · rfl
  · exact takeSource_links ..

theorem resourced_tk (r : Bool × Work) : (resourced r).n.tk = r.2.n.tk := by
  simp only [resourced]
  split
  · rw [log_tk, count_n]
  · rw [report_tk, setLock_tk _ (by decide)]
    rfl

theorem resourced_links (r : Bool × Work) : links (resourced r) = links r.2 := by
  simp only [resourced]
  split
  · rw [links_reports (reports_log ..)]
    rfl
  · rw [links_reports (reports_report ..), setLock_links]
    rfl

theorem loseSource_tk : w.loseSource.n.tk = { w.n.tk with due := 0 } := by
  rw [loseSource_eq, resourced_tk, takeSource_tk, unsourced_n]

theorem loseSource_links : links w.loseSource = links w := by
  rw [loseSource_eq, resourced_links, takeSource_links, links, unsourced_n]
  rfl

end

/-! ## What shows after a source is taken or lost -/

theorem setLock_reads {s : State} {w : Work} (hs : SameAt (Reg.TICK_LOCK.key 0 0) s.view w) (hr : w.regs = s.regs) {v : Nat} (hv : v < 4) :
    Reads s (w.setLock v) Reg.TICK_LOCK v 0 0 := by
  have hset : ∀ u : Work, Reads s ((u.set Reg.TICK_LOCK v).isr 1 16) Reg.TICK_LOCK v 0 0 := fun u => by
    refine .inl ((reports_isr ..).shows (by unfold Plain; decide) ?_)
    have := shows_set u Reg.TICK_LOCK v 0 0
    rwa [Nat.mod_eq_of_lt (by exact hv)] at this
  simp only [Work.setLock]
  split
  · split
    · exact reads_of_get hs hr (by assumption)
    · exact hset _
  · split
    · exact reads_of_get hs hr (by assumption)
    · exact hset _

/-- What a taken source shows. -/
theorem takeSource_reads {s : State} {w : Work} (hs : SameAt (Reg.TICK_LOCK.key 0 0) s.view w) (hr : w.regs = s.regs) (but)
    (h : w.bestSource but ≠ none) : (w.takeSource but).1 = true ∧ Reads s (w.takeSource but).2 Reg.TICK_LOCK 1 0 0 := by
  have hk : ∀ u : Work, fields sourceFlds.tail u = fields sourceFlds.tail w → SameAt (Reg.TICK_LOCK.key 0 0) s.view u := fun u hu =>
    hs.trans (sameAt_of_fields0 hu (by decide))
  simp only [Work.takeSource]
  split
  · refine ⟨rfl, ?_⟩
    dsimp only
    refine setLock_reads ?_ ?_ (by decide)
    · exact hk _ (by simp +decide [fields_setSrcIn])
    · exact hr
  · refine ⟨rfl, ?_⟩
    dsimp only
    refine setLock_reads ?_ ?_ (by decide)
    · exact hk _ (by simp +decide [fields_setSrcIn])
    · exact hr
  · contradiction

theorem takeSource_none (w : Work) (but) (h : w.bestSource but = none) : (w.takeSource but).1 = false := by
  simp only [Work.takeSource, h]
  split <;> rfl

theorem takeSource_none_sameAt {s : State} {w : Work} (hs : SameAt (Reg.TICK_LOCK.key 0 0) s.view w) (but) (h : w.bestSource but = none) :
    SameAt (Reg.TICK_LOCK.key 0 0) s.view (w.takeSource but).2 := by
  simp only [Work.takeSource, h]
  split
  · exact hs
  · exact (hs.set _ _ _ _ (by decide)).trans ((reports_report ..).sameAt (by unfold Plain; decide))

/-! ## Following a marker -/

theorem fields_badSource {F : List Fld} (w : Work) (p now) (h : sourceFlds ⊆ F) (g : Reg.LP_MARK_BAD ∈ F) : fields F (w.badSource p now) = fields F w := by
  simp only [Work.badSource]
  rw [fields_loseSource _ h, fields_report, fields_set _ _ _ _ _ g]

theorem badSource_links (w : Work) (p now) : links (w.badSource p now) = links w := by
  simp only [Work.badSource]
  rw [loseSource_links, links_reports (reports_report ..)]
  rfl

@[simp] theorem setOffset_links (w : Work) (th : Int) (seen : Nat) : links (w.setOffset th seen) = links w := by simp [Work.setOffset]

@[simp] theorem fields_setOffset (w : Work) (th : Int) (seen : Nat) : fields followFlds (w.setOffset th seen) = fields followFlds w := by
  simp +decide [Work.setOffset]

@[simp] theorem stepBoundary_links (w : Work) (th : Int) : links (w.stepBoundary th) = links w := by simp [Work.stepBoundary, setLock_links]
@[simp] theorem fields_stepBoundary (w : Work) (th : Int) : fields followFlds (w.stepBoundary th) = fields followFlds w := by
  simp +decide [Work.stepBoundary, fields_setLock]
@[simp] theorem applyOffset_links (w : Work) (th : Int) (seen : Nat) : links (w.applyOffset th seen) = links w := by
  simp [Work.applyOffset, setLock_links]
@[simp] theorem fields_applyOffset (w : Work) (th : Int) (seen : Nat) : fields followFlds (w.applyOffset th seen) = fields followFlds w := by
  simp +decide [Work.applyOffset, fields_setLock]

/-- A marker's tick, that differs from the running one, numbers it on a first lock (R264). -/
def numbered (w : Work) (tick : Tick) : Work :=
  if tick ≠ w.now ∧ w.get Reg.TICK_LOCK = 1 ∧ ¬ w.n.tk.lockedOnce then w.setNow tick else w

/-- The offset that a marker's answer gives (R261). -/
def measured (w : Work) (x : Half) (p : Nat) (flit : Bytes) : Work :=
  match (x.mark.toList ++ x.prevMark.toList).find? fun m => m.tick = beAt flit 0xE 6 with
  | some m =>
    let dD : Int := (beAt flit 0x14 4 % 2 ^ 24 : Nat)
    let aU := ofField 24 (beAt flit 0x18 4 % 2 ^ 24)
    let alpha := ofField 16 (w.get Reg.LP_ASYM p)
    let w := w.set Reg.LP_DELAY (toField 24 (oneWay m.depart m.arrive dD aU)) p
    w.applyOffset (theta m.depart m.arrive dD aU alpha) (ticksTo (BitVec.ofNat 48 (beAt flit 0xE 6)) w.now)
  | none => w

/-- A period change to pass on (R265). -/
def switchTaken (w : Work) (flit : Bytes) : Work :=
  let nx := beAt flit 0x1C 2
  if bitOf nx 15 ∧ w.get Reg.TICK_LOCK = 2 then
    let at_ := beAt flit 0x20 6
    let w := { w with n.tk.pending := true, n.tk.nextPeriod := nx % 1024, n.tk.switchAt := BitVec.ofNat 48 at_ }
    ((w.set Reg.TICK_NEXT (nx % 1024)).set Reg.TICK_SWITCH_LO (at_ % 2 ^ 32)).set Reg.TICK_SWITCH_HI (at_ / 2 ^ 32) |>.set
      Reg.TICK_PENDING 1
  else w

/-- The hops that a source's half gives. -/
def hopped (w : Work) (x : Half) : Work := w.set Reg.TICK_HOPS (min 7 (x.peerHops + 1))

theorem followMark_eq (w : Work) (p h : Nat) (flit : Bytes) : w.followMark p h flit =
    if BitVec.ofNat 48 (beAt flit 2 6) ≠ (hopped w (w.half p h)).now ∧ (hopped w (w.half p h)).isFull then
      (hopped w (w.half p h)).badSource p (beAt flit 2 6)
    else switchTaken (measured (numbered (hopped w (w.half p h)) (BitVec.ofNat 48 (beAt flit 2 6))) (w.half p h) p flit) flit := rfl

@[simp] theorem numbered_links (w : Work) (tick : Tick) : links (numbered w tick) = links w := by simp [numbered, Work.setNow]

@[simp] theorem measured_links (w : Work) (x : Half) (p : Nat) (flit : Bytes) : links (measured w x p flit) = links w := by
  unfold measured
  split <;> simp

@[simp] theorem switchTaken_links (w : Work) (flit : Bytes) : links (switchTaken w flit) = links w := by simp [switchTaken]

theorem followMark_links (w : Work) (p h : Nat) (flit : Bytes) : links (w.followMark p h flit) = links w := by
  rw [followMark_eq]
  split
  · rw [badSource_links]
    rfl
  · simp [hopped]

theorem half_of_links {a b : Work} (h : links a = links b) (p g : Nat) : a.half p g = b.half p g := by
  have hk : a.n.lk = b.n.lk := congrArg (·.1) h
  unfold Work.half
  rw [hk]

theorem isSource_of_same {a b : Work} (hl : links a = links b) {F : List Fld} (hf : fields F a = fields F b)
    (hF : (Clear0 F Reg.TICK_LOCK && Clear0 F Reg.TICK_SRC_IN && Clear0 F Reg.TICK_SRC_PORT && Clear0 F Reg.TICK_SRC_HALF &&
      Clear0 F Reg.TICK_MASTER) = true) (p h : Nat) : a.isSource p h = b.isSource p h := by
  simp only [Bool.and_eq_true] at hF
  obtain ⟨⟨⟨⟨h1, h2⟩, h3⟩, h4⟩, h5⟩ := hF
  have ha : a.n.acting = b.n.acting := congrArg (·.2) hl
  unfold Work.isSource Work.actFlag Work.acting Work.actingFor Work.flag
  rw [get_of_fields0 hf h1, get_of_fields0 hf h2, get_of_fields0 hf h3, get_of_fields0 hf h4, get_of_fields0 hf h5, ha]

theorem setOffset_shows (w : Work) (th : Int) (seen : Nat) : Shows (w.setOffset th seen) Reg.TICK_OFFSET (toField 16 th % 2 ^ 16) 0 0 := by
  have hp : Plain (Reg.TICK_OFFSET.key 0 0) := by unfold Plain; decide
  have hs : ∀ (u : Work) (v : Nat), Shows ((u.set Reg.TICK_OFFSET (toField 16 th)).set Reg.TICK_OFFSET_MAX v) Reg.TICK_OFFSET (toField 16 th % 2 ^ 16) 0 0 :=
    fun u v => (shows_set ..).set _ _ _ _ (by decide)
  unfold Work.setOffset
  extract_lets +onlyGivenNames since mx
  simp only
  split
  · exact (reports_log ..).shows hp ((reports_isr ..).shows hp (Shows.set (hs ..) _ _ _ _ (by decide)))
  · exact hs ..

theorem applyOffset_shows (w : Work) (th : Int) (seen : Nat) (h : w.get Reg.TICK_LOCK = 2) :
    Shows (w.applyOffset th seen) Reg.TICK_OFFSET (toField 16 th % 2 ^ 16) 0 0 := by
  unfold Work.applyOffset
  rw [if_neg (by rw [h]; simp)]
  simp only
  split
  · exact shows_of_fields0 (F := [Reg.TICK_LOCK]) (fields_setLock _ _ (by decide)) (by decide) (setOffset_shows ..)
  · exact setOffset_shows ..

theorem followMark_offset (w : Work) (p h : Nat) (flit : Bytes) (m : Mark) (hl : w.get Reg.TICK_LOCK = 2)
    (hn : BitVec.ofNat 48 (beAt flit 2 6) = w.now)
    (hm : (((w.half p h).mark.toList ++ (w.half p h).prevMark.toList).find? fun m => m.tick = beAt flit 0xE 6) = some m) :
    Shows (w.followMark p h flit) Reg.TICK_OFFSET (toField 16 (theta m.depart m.arrive (beAt flit 0x14 4 % 2 ^ 24 : Nat)
      (ofField 24 (beAt flit 0x18 4 % 2 ^ 24)) (ofField 16 (w.get Reg.LP_ASYM p))) % 2 ^ 16) 0 0 := by
  have hnow : (hopped w (w.half p h)).now = w.now := rfl
  have hlock : (hopped w (w.half p h)).get Reg.TICK_LOCK = 2 := (get_set_apart w (by decide) _ _ _ _ _).trans hl
  have hasym : (hopped w (w.half p h)).get Reg.LP_ASYM p = w.get Reg.LP_ASYM p := get_set_apart w (by decide) _ _ _ _ _
  have hnum : numbered (hopped w (w.half p h)) (BitVec.ofNat 48 (beAt flit 2 6)) = hopped w (w.half p h) := by
    unfold numbered
    rw [if_neg (by rw [hlock]; simp)]
  rw [followMark_eq, if_neg (by rw [hnow]; simp [hn]), hnum]
  generalize hopped w (w.half p h) = u at hlock hasym
  have hmeas : Shows (measured u (w.half p h) p flit) Reg.TICK_OFFSET (toField 16 (theta m.depart m.arrive (beAt flit 0x14 4 % 2 ^ 24 : Nat)
      (ofField 24 (beAt flit 0x18 4 % 2 ^ 24)) (ofField 16 (w.get Reg.LP_ASYM p))) % 2 ^ 16) 0 0 := by
    unfold measured
    rw [hm, ← hasym]
    exact applyOffset_shows _ _ _ ((get_set_apart u (by decide) _ _ _ _ _).trans hlock)
  unfold switchTaken
  extract_lets nx
  split
  · exact (((Shows.of_update hmeas _).set _ _ _ _ (by decide)).set _ _ _ _ (by decide) |>.set _ _ _ _ (by decide)).set _ _ _ _ (by decide)
  · exact hmeas

/-! ## The commands -/

theorem exec_tickMark (s : State) (p h : Nat) (flit : Bytes) (a : Int) : exec (.tickMark p h flit a) s = execTickMark p h flit a s := by simp only [exec]
theorem exec_tickSourceLost (s : State) (why : SourceLoss) : exec (.tickSourceLost why) s = execTickSourceLost why s := by simp only [exec]
theorem exec_tickSwitchWrite (s : State) (wr : RegWr) : exec (.tickSwitchWrite wr) s = execTickSwitchWrite wr s := by simp only [exec]
theorem exec_periodSwitch (s : State) : exec .periodSwitch s = execPeriodSwitch s := by simp only [exec]
theorem exec_tickLoad (s : State) (wr : RegWr) : exec (.tickLoad wr) s = execTickLoad wr s := by simp only [exec]
theorem exec_tickInEdge (s : State) (dev : Int) : exec (.tickInEdge dev) s = execTickInEdge dev s := by simp only [exec]
theorem exec_tickInLost (s : State) : exec .tickInLost s = execTickInLost s := by simp only [exec]

/-- A half that has taken a marker (R260, R262). -/
def Half.marked (m : Mark) (fl : Nat) (x : Half) : Half :=
  let byte := (if bitOf fl 0 then (if bitOf x.peerTick 2 then 4 else 2) else 0) + (if bitOf x.peerTick 3 then 8 else 0) + bitsOf fl 1 3 * 16
  { x with prevMark := x.mark, mark := some m, markSeen := true, missed := 0, peerTick := byte }

theorem flitCheck_good (w : Work) (p : Nat) {flit : Bytes} {type : Nat} (h : flit.length = 64 ∧ fieldAt flit 0 1 = type)
    (ht : 1 ≤ type ∧ type ≤ 5) (act : Work → Work) : w.flitCheck p flit type act = act w := by
  unfold Work.flitCheck
  extract_lets t
  have ht' : t = type := h.2
  rw [if_neg (by omega), if_pos ⟨ht', h.1⟩]

theorem half_modHalf (w : Work) {p h : Nat} (f : Half → Half) (hl : 2 * p + h < w.n.lk.halves.length) :
    (w.modHalf p h f).half p h = f (w.half p h) := by
  unfold Work.half Work.modHalf atD
  simp [List.getElem?_modify, List.getElem?_eq_getElem hl]

theorem hasHalf_lt {w : Work} {p h : Nat} (hh : w.hasHalf p h = true) : p < 32 ∧ h < 2 := by
  unfold Work.hasHalf at hh
  rw [Bool.and_eq_true, decide_eq_true_eq, Bool.or_eq_true, decide_eq_true_eq, Bool.and_eq_true, decide_eq_true_eq] at hh
  omega

/-- A marker's effect on its half, and on the offset of a locked node. -/
theorem tickMark_shows (s : State) (p half : Nat) (flit : Bytes) (arrive : Int) (m : Mark) (ha : s.alive = true) (hc : Canonical s)
    (hlen : s.node.lk.halves.length = 64) (hh : s.view.hasHalf p half = true) (hst : s.view.portState p half = 5)
    (hf : flit.length = 64 ∧ fieldAt flit 0 1 = 3) (hm : m = { tick := beAt flit 2 6, depart := beAt flit 8 4 % 2 ^ 24, arrive := arrive }) :
    ∃ t, exec (.tickMark p half flit arrive) s = .next t ∧
        (t.view.half p half).mark = some m ∧ (t.view.half p half).prevMark = (s.view.half p half).mark ∧ (t.view.half p half).missed = 0 ∧
        (∀ x ∈ (m :: (s.view.half p half).mark.toList).find? (fun x : Mark => x.tick = beAt flit 0xE 6), s.view.isSource p half = true →
      rd s Reg.TICK_LOCK = 2 → BitVec.ofNat 48 m.tick = s.node.tk.now →
      rd t Reg.TICK_OFFSET = toField 16 (theta x.depart x.arrive (beAt flit 0x14 4 % 2 ^ 24 : Nat) (ofField 24 (beAt flit 0x18 4 % 2 ^ 24)) (ofField 16 (rd s Reg.LP_ASYM p))) % 2 ^ 16) := by
  obtain ⟨v, hv⟩ : ∃ v, v = s.view.modHalf p half (Half.marked m (beAt flit 1 1)) := ⟨_, rfl⟩
  have he : exec (.tickMark p half flit arrive) s =
      .next (s.close (if v.seekSource.isSource p half then v.seekSource.followMark p half flit else v.seekSource)) := by
    rw [exec_tickMark, execTickMark, run_alive _ ha, if_neg (by simp [hh, hst]), flitCheck_good _ _ hf (by decide), hv, hm]
    rfl
  have hb := hasHalf_lt hh
  have hhalf : v.half p half = Half.marked m (beAt flit 1 1) (s.view.half p half) := by
    rw [hv]
    exact half_modHalf _ _ (by rw [view_n, hlen]; omega)
  have hend : ∀ u, links u = links v → (s.close u).view.half p half = Half.marked m (beAt flit 1 1) (s.view.half p half) := fun u hu =>
    (half_of_links (b := v) hu p half).trans hhalf
  have hlinks : links (if v.seekSource.isSource p half then v.seekSource.followMark p half flit else v.seekSource) = links v := by
    split
    · rw [followMark_links, seekSource_links]
    · exact seekSource_links v
  refine ⟨_, he, ?_, ?_, ?_, fun x hx hs hl hn => ?_⟩
  · rw [hend _ hlinks]
    rfl
  · rw [hend _ hlinks]
    rfl
  · rw [hend _ hlinks]
    rfl
  · have hseek : v.seekSource = v := by
      unfold Work.seekSource
      have : v.get Reg.TICK_LOCK = 2 := by
        rw [hv]
        exact hl
      rw [if_pos (.inr (by rw [this]; decide))]
    have hsrc : v.isSource p half = true := by
      rw [hv]
      exact hs
    rw [hseek, if_pos hsrc]
    have hmark : (((v.half p half).mark.toList ++ (v.half p half).prevMark.toList).find? fun m => m.tick = beAt flit 0xE 6) = some x := by
      rw [hhalf]
      exact hx
    have hfol := followMark_offset v p half flit x (by rw [hv]; exact hl) (by rw [hv]; rw [hm] at hn; exact hn) hmark
    rw [hfol.rd hc.1, hv]
    rfl

/-! ## A source that is lost -/

theorem fields_unsourced (w : Work) : fields [Reg.LP_TICK_SRC] (unsourced w) = fields [Reg.LP_TICK_SRC] w :=
  fields_clearSrcPort w (by decide)

theorem clear_stateFld (h : Nat) : Clear [Reg.LP_TICK_SRC] (stateFld h) = true := by
  unfold stateFld
  split <;> decide

/-- What a node would take next does not rest on the mark of the port that is lost. -/
theorem bestSource_unsourced (w : Work) (but : Option (Nat × Nat)) : (unsourced w).bestSource but = w.bestSource but := by
  have hf := fields_unsourced w
  have hn := unsourced_n w
  generalize unsourced w = u at hf hn
  have hlk : u.n.lk = w.n.lk := by rw [hn]
  have hac : u.n.acting = w.n.acting := by rw [hn]
  have hin : u.n.tk.inValid = w.n.tk.inValid := by rw [hn]
  have hsplit := fun i => get_of_fields hf (g := Reg.LP_SPLIT) (by decide) i 0
  have helig := fun i => get_of_fields hf (g := Reg.LP_TICK_ELIG) (by decide) i 0
  have hbad := fun i => get_of_fields hf (g := Reg.LP_MARK_BAD) (by decide) i 0
  have hstate := fun h i => get_of_fields hf (clear_stateFld h) i 0
  have hfall := get_of_fields0 hf (g := Reg.GLB_TICK_FALLBACK_EN) (by decide)
  have hpref := get_of_fields0 hf (g := Reg.TICK_SRC_PREF) (by decide)
  unfold Work.bestSource Work.tickPorts Work.tickInOk Work.halvesOf Work.portState Work.half Work.actFlag Work.acting Work.actingFor Work.flag
  simp only [hsplit, helig, hbad, hstate, hfall, hpref, hlk, hac, hin]

/-- The loss of a source: the next one, or holdover. -/
theorem loseSource_shows {s : State} (hc : Canonical s) : (s.close s.view.loseSource).node.tk.due = 0 ∧
    (s.view.bestSource (lostSource s.view) ≠ none → rd (s.close s.view.loseSource) Reg.TICK_LOCK = 1) ∧
    (s.view.bestSource (lostSource s.view) = none →
      rd (s.close s.view.loseSource) Reg.TICK_LOCK = 0 ∧ rd (s.close s.view.loseSource) Reg.TICK_HOPS = 7) := by
  have hp : ∀ f : Fld, f ∈ sourceFlds → f.blk = .TICK → Plain (f.key 0 0) := by
    unfold Plain
    decide
  have hw : s.view.loseSource.wiped = false := fields_wiped (fields_loseSource (F := sourceFlds) s.view fun _ h => h)
  have hu : SameAt (Reg.TICK_LOCK.key 0 0) s.view (unsourced s.view) := sameAt_of_fields0 (fields_unsourced s.view) (by decide)
  have hr : (unsourced s.view).regs = s.regs := fields_regs (fields_unsourced s.view)
  have hb := bestSource_unsourced s.view (lostSource s.view)
  rw [loseSource_eq] at *
  refine ⟨?_, fun h => ?_, fun h => ?_⟩
  · rw [close_node, resourced_tk, takeSource_tk, unsourced_n]
  · obtain ⟨h1, h2⟩ := takeSource_reads hu hr (lostSource s.view) (hb ▸ h)
    refine Reads.rd hc ?_ hw
    simp only [resourced, h1, if_true]
    exact (h2.keep ((SameAt.refl _ _).count _ _ _ _ (by decide))).keep ((reports_log ..).sameAt (hp _ (by decide) rfl))
  · have h1 := takeSource_none (unsourced s.view) (lostSource s.view) (hb.trans h)
    have h2 := takeSource_none_sameAt hu (lostSource s.view) (hb.trans h)
    have h3 : (((unsourced s.view).takeSource (lostSource s.view)).2).regs = s.regs :=
      (fields_regs (fields_takeSource (F := sourceFlds) _ _ fun _ h => h)).trans hr
    generalize (unsourced s.view).takeSource (lostSource s.view) = r at *
    have hs : SameAt (Reg.TICK_LOCK.key 0 0) s.view ((r.2.setSrcIn false).set Reg.TICK_HOPS 7) :=
      ((h2.set _ _ _ _ (by decide)).set _ _ _ _ (by decide)).set _ _ _ _ (by decide)
    simp only [resourced, h1, Bool.false_eq_true, if_false]
    constructor
    · refine Reads.rd hc ((setLock_reads hs h3 (by decide)).keep ((reports_report ..).sameAt (hp _ (by decide) rfl))) ?_
      simpa [resourced, h1] using hw
    · refine Shows.rd hc.1 ((reports_report ..).shows (hp _ (by decide) rfl) ?_)
      exact shows_of_fields0 (F := [Reg.TICK_LOCK]) (fields_setLock _ _ (by decide)) (by decide) (shows_set ..)

theorem tickSourceLost_shows (s : State) (p half : Nat) (why : SourceLoss) (ha : s.alive = true) (hc : Canonical s)
    (hp : p = rd s Reg.TICK_SRC_PORT ∧ half = rd s Reg.TICK_SRC_HALF) (hs : s.view.isSource p half = true)
    (hy : (why = .missing ∧ 4 ≤ (s.view.half p half).missed) ∨ (why = .portDown ∧ s.view.portLive p half = false) ∨
      (why = .discontinuous ∧ ∃ a ∈ (s.view.half p half).prevMark, ∃ b ∈ (s.view.half p half).mark, (a.tick + 1) % 2 ^ 48 ≠ b.tick)) :
    ∃ t, exec (.tickSourceLost why) s = .next t ∧ t.node.tk.due = 0 ∧
        (s.view.bestSource (some (p, half)) ≠ none → rd t Reg.TICK_LOCK = 1) ∧
        (s.view.bestSource (some (p, half)) = none → rd t Reg.TICK_LOCK = 0 ∧ rd t Reg.TICK_HOPS = 7) := by
  obtain ⟨rfl, rfl⟩ := hp
  have hl : lostSource s.view = some (rd s Reg.TICK_SRC_PORT, rd s Reg.TICK_SRC_HALF) := by
    have hin : s.view.flag Reg.TICK_SRC_IN = false := by
      unfold Work.isSource at hs
      simp only [Bool.and_eq_true, Bool.not_eq_true'] at hs
      exact hs.1.1.2
    unfold lostSource
    rw [hin]
    rfl
  have he : exec (.tickSourceLost why) s = .next (s.close s.view.loseSource) := by
    rw [exec_tickSourceLost, execTickSourceLost, run_alive _ ha]
    change Host.Outcome.next (s.close (if s.view.isSource (rd s Reg.TICK_SRC_PORT) (rd s Reg.TICK_SRC_HALF) && _ then _ else _)) = _
    rw [hs, Bool.true_and, if_pos]
    rcases hy with ⟨rfl, h⟩ | ⟨rfl, h⟩ | ⟨rfl, a, hpm, b, hm, h⟩
    · exact decide_eq_true h
    · change (!s.view.portLive (rd s Reg.TICK_SRC_PORT) (rd s Reg.TICK_SRC_HALF)) = true
      rw [h]
      rfl
    · change (match (s.view.half (rd s Reg.TICK_SRC_PORT) (rd s Reg.TICK_SRC_HALF)).prevMark, (s.view.half (rd s Reg.TICK_SRC_PORT) (rd s Reg.TICK_SRC_HALF)).mark with
        | some a, some b => decide ((a.tick + 1) % 2 ^ 48 ≠ b.tick)
        | _, _ => false) = true
      rw [Option.mem_def.1 hpm, Option.mem_def.1 hm]
      exact decide_eq_true h
  have h := loseSource_shows hc
  rw [hl] at h
  exact ⟨_, he, h⟩

/-! ## Period and number -/

/-- The registers of the period switch and of the tick's number hold what they show. -/
theorem faithful_tick (s : State) (wr : RegWr) (inst idx off : Nat) {f : Fld} (hoff : off = 0x110 ∨ off = 0x134)
    (hf : f ∈ [Reg.TICK_NEXT, Reg.TICK_SWITCH_LO, Reg.TICK_SWITCH_HI, Reg.TICK_LOAD_LO, Reg.TICK_LOAD_HI]) :
    Faithful (s.view.writeFields wr .TICK inst idx off) f 0 0 := by
  refine faithful_writeFields (faithful_view _ _ _ _) _ _ _ _ _ ?_
  rcases hoff with rfl | rfl
  · revert f
    decide
  · revert f
    decide

/-- A period switch that is written becomes pending (R265). -/
def switchPending (w : Work) : Work :=
  let at_ := w.get Reg.TICK_SWITCH_LO + w.get Reg.TICK_SWITCH_HI * 2 ^ 32
  let w := { w with n.tk.pending := true, n.tk.nextPeriod := w.get Reg.TICK_NEXT, n.tk.switchAt := BitVec.ofNat 48 at_ }
  w.set Reg.TICK_PENDING 1

theorem switchPending_tk (w : Work) : (switchPending w).n.tk = { w.n.tk with
    pending := true, nextPeriod := w.get Reg.TICK_NEXT
    switchAt := BitVec.ofNat 48 (w.get Reg.TICK_SWITCH_LO + w.get Reg.TICK_SWITCH_HI * 2 ^ 32) } := rfl

theorem exec_switch {s : State} {wr : RegWr} {inst idx : Nat} (ha : s.alive = true) (hl : Lands s wr .TICK 0x110 inst idx) :
    exec (.tickSwitchWrite wr) s = .next (s.close (if !fieldEnabled wr Reg.TICK_SWITCH_HI then s.view.writeFields wr .TICK inst idx 0x110
      else switchPending (s.view.writeFields wr .TICK inst idx 0x110))) := by
  rw [exec_tickSwitchWrite, execTickSwitchWrite, run_alive _ ha, regAction_lands hl _ hl.1]
  rfl

theorem tickSwitchWrite_shows (s : State) (wr : RegWr) (inst idx : Nat) (ha : s.alive = true) (hc : Canonical s) (hl : Lands s wr .TICK 0x110 inst idx) :
    ∃ t, exec (.tickSwitchWrite wr) s = .next t ∧
        (fieldEnabled wr Reg.TICK_SWITCH_HI = true → rd t Reg.TICK_PENDING = 1 ∧
      t.node.tk = { s.node.tk with pending := true, nextPeriod := rd t Reg.TICK_NEXT, switchAt := BitVec.ofNat 48 (rd t Reg.TICK_SWITCH_LO + rd t Reg.TICK_SWITCH_HI * 2 ^ 32) }) ∧
        (fieldEnabled wr Reg.TICK_SWITCH_HI = false → t.node.tk = s.node.tk) ∧
        t.mem = s.mem := by
  have hfaith := fun {f} => faithful_tick s wr inst idx 0x110 (f := f) (.inl rfl)
  have hn := writeFields_n s.view wr .TICK inst idx 0x110
  have hr := writeFields_regs s.view wr .TICK inst idx 0x110
  have hwr := writeFields_wr s.view wr .TICK inst idx 0x110
  have hwi := writeFields_wiped s.view wr .TICK inst idx 0x110
  have he := exec_switch ha hl
  generalize s.view.writeFields wr .TICK inst idx 0x110 = v at *
  cases hen : fieldEnabled wr Reg.TICK_SWITCH_HI with
  | false =>
    simp only [hen, Bool.not_true, Bool.not_false, Bool.false_eq_true, if_true, if_false] at he
    exact ⟨_, he, nofun, fun _ => congrArg Node.tk hn, close_mem_quiet s v hwr hwi⟩
  | true =>
    simp only [hen, Bool.not_true, Bool.not_false, Bool.false_eq_true, if_true, if_false] at he
    have hread : ∀ f ∈ [Reg.TICK_NEXT, Reg.TICK_SWITCH_LO, Reg.TICK_SWITCH_HI], rd (s.close (switchPending v)) f = v.get f := fun f hf => by
      have hap : Apart Reg.TICK_PENDING f = true := by
        revert f
        decide
      have hin : f ∈ [Reg.TICK_NEXT, Reg.TICK_SWITCH_LO, Reg.TICK_SWITCH_HI, Reg.TICK_LOAD_LO, Reg.TICK_LOAD_HI] := by
        revert f
        decide
      have hs : SameAt (f.key 0 0) v (switchPending v) := sameAt_set _ _ _ _ _ (key_ne_of_apart hap _ _ _ _)
      exact ((hfaith hin).keep hs |>.rd hc hr hwi).trans (hs.get rfl)
    refine ⟨_, he, fun _ => ⟨(shows_set _ _ _ _ _).rd hc.1, ?_⟩, nofun, close_mem_quiet s _ hwr hwi⟩
    rw [hread Reg.TICK_NEXT (by decide), hread Reg.TICK_SWITCH_LO (by decide), hread Reg.TICK_SWITCH_HI (by decide)]
    exact (switchPending_tk v).trans (by rw [hn]; rfl)

theorem periodSwitch_shows (s : State) (ha : s.alive = true) (hc : Canonical s) (hp : s.node.tk.pending = true)
    (hr : s.view.reached s.node.tk.switchAt = true) :
    ∃ t, exec .periodSwitch s = .next t ∧ rd t Reg.TICK_PERIOD = s.node.tk.nextPeriod % 2 ^ Reg.TICK_PERIOD.width ∧
      rd t Reg.TICK_PENDING = 0 ∧ t.node.tk = { s.node.tk with pending := false } := by
  obtain ⟨v, hv⟩ : ∃ v : Work, v = { s.view with n.tk.pending := false } := ⟨_, rfl⟩
  have htk : v.n.tk = { s.node.tk with pending := false } := by rw [hv]; rfl
  have he : exec .periodSwitch s = .next (s.close (((v.set Reg.TICK_PERIOD s.node.tk.nextPeriod).set Reg.TICK_PENDING 0).log
      { code := 0x4607, page := 1, detail := s.node.tk.nextPeriod })) := by
    rw [exec_periodSwitch, execPeriodSwitch, run_alive _ ha, if_pos (by rw [Bool.and_eq_true]; exact ⟨hp, hr⟩), hv]
    rfl
  refine ⟨_, he, ?_, ?_, ?_⟩
  · exact Shows.rd hc.1 ((reports_log ..).shows (f := Reg.TICK_PERIOD) (by unfold Plain; decide) ((shows_set _ _ _ _ _).set _ _ _ _ (by decide)))
  · exact Shows.rd hc.1 ((reports_log ..).shows (f := Reg.TICK_PENDING) (by unfold Plain; decide) (shows_set _ _ _ _ _))
  · rw [close_node, log_tk, set_n, set_n, htk]

/-- The tick that a number is loaded into, and what the load leaves. -/
theorem setNow_shows (w : Work) (x : Tick) : (w.setNow x).n.tk.now = x ∧ (w.setNow x).n.qa.cur.tick = x ∧ (w.setNow x).n.st = w.n.st ∧
    (w.setNow x).wr = w.wr ∧ (w.setNow x).wiped = w.wiped ∧ (w.setNow x).regs = w.regs ∧ (w.setNow x).rw = w.rw :=
  ⟨rfl, rfl, rfl, rfl, rfl, rfl, rfl⟩

theorem exec_load {s : State} {wr : RegWr} {inst idx : Nat} (ha : s.alive = true) (hl : Lands s wr .TICK 0x134 inst idx) :
    exec (.tickLoad wr) s = .next (s.close (if !fieldEnabled wr Reg.TICK_LOAD_HI then s.view.writeFields wr .TICK inst idx 0x134
      else (s.view.writeFields wr .TICK inst idx 0x134).setNow (BitVec.ofNat 48
        ((s.view.writeFields wr .TICK inst idx 0x134).get Reg.TICK_LOAD_LO + (s.view.writeFields wr .TICK inst idx 0x134).get Reg.TICK_LOAD_HI * 2 ^ 32)))) := by
  rw [exec_tickLoad, execTickLoad, run_alive _ ha, regAction_lands hl _ hl.1]

theorem tickLoad_shows (s : State) (wr : RegWr) (inst idx : Nat) (ha : s.alive = true) (hc : Canonical s) (hl : Lands s wr .TICK 0x134 inst idx) :
    ∃ t, exec (.tickLoad wr) s = .next t ∧
        (fieldEnabled wr Reg.TICK_LOAD_HI = true → t.node.tk.now = BitVec.ofNat 48 (rd t Reg.TICK_LOAD_LO + rd t Reg.TICK_LOAD_HI * 2 ^ 32) ∧
      t.node.qa.cur.tick = t.node.tk.now) ∧
        (fieldEnabled wr Reg.TICK_LOAD_HI = false → t.node.tk.now = s.node.tk.now) ∧ t.node.st = s.node.st ∧ t.mem = s.mem := by
  have hfaith := fun {f} => faithful_tick s wr inst idx 0x134 (f := f) (.inr rfl)
  have hn := writeFields_n s.view wr .TICK inst idx 0x134
  have hr := writeFields_regs s.view wr .TICK inst idx 0x134
  have hwr := writeFields_wr s.view wr .TICK inst idx 0x134
  have hwi := writeFields_wiped s.view wr .TICK inst idx 0x134
  have he := exec_load ha hl
  generalize s.view.writeFields wr .TICK inst idx 0x134 = v at *
  cases hen : fieldEnabled wr Reg.TICK_LOAD_HI with
  | false =>
    simp only [hen, Bool.not_true, Bool.not_false, Bool.false_eq_true, if_true, if_false] at he
    exact ⟨_, he, nofun, fun _ => congrArg (·.tk.now) hn, congrArg Node.st hn, close_mem_quiet s v hwr hwi⟩
  | true =>
    simp only [hen, Bool.not_true, Bool.not_false, Bool.false_eq_true, if_true, if_false] at he
    obtain ⟨x, hx⟩ : ∃ x, x = BitVec.ofNat 48 (v.get Reg.TICK_LOAD_LO + v.get Reg.TICK_LOAD_HI * 2 ^ 32) := ⟨_, rfl⟩
    rw [← hx] at he
    obtain ⟨hnow, hcur, hst, hwr', hwi', hr', hrw⟩ := setNow_shows v x
    generalize v.setNow x = u at *
    have hread : ∀ f ∈ [Reg.TICK_LOAD_LO, Reg.TICK_LOAD_HI], rd (s.close u) f = v.get f := fun f hf => by
      have hin : f ∈ [Reg.TICK_NEXT, Reg.TICK_SWITCH_LO, Reg.TICK_SWITCH_HI, Reg.TICK_LOAD_LO, Reg.TICK_LOAD_HI] := by
        revert f
        decide
      have hs : SameAt (f.key 0 0) v u := congrArg (List.find? fun e : Nat × Nat × Nat => e.1 = f.key 0 0) hrw
      exact ((hfaith hin).keep hs |>.rd hc (hr'.trans hr) (hwi'.trans hwi)).trans (hs.get hr')
    refine ⟨_, he, fun _ => ⟨?_, hcur.trans hnow.symm⟩, nofun, hst.trans (congrArg Node.st hn), close_mem_quiet s _ (hwr'.trans hwr) (hwi'.trans hwi)⟩
    rw [hread Reg.TICK_LOAD_LO (by decide), hread Reg.TICK_LOAD_HI (by decide), ← hx]
    exact hnow

/-! ## TICK_IN (R266) -/

/-- What the edges of TICK_IN have come to, but for when the last was. -/
def edges (w : Work) := (w.n.tk.inGood, w.n.tk.inBad, w.n.tk.inValid, w.n.tk.inGap)

section
variable (w : Work)

theorem edges_of_tk {a b : Work} (h : a.n.tk = b.n.tk) : edges a = edges b := by
  unfold edges
  rw [h]

/-- With the time of the last one. -/
def inState (w : Work) := (edges w, w.n.tk.inLast)

theorem inState_of_tk {a b : Work} (h : a.n.tk = b.n.tk) : inState a = inState b := by
  unfold inState edges
  rw [h]

@[simp] theorem inState_set (f v i j) : inState (w.set f v i j) = inState w := rfl
@[simp] theorem inState_count (f v i j) : inState (w.count f v i j) = inState w := rfl
@[simp] theorem inState_log (e) : inState (w.log e) = inState w := inState_of_tk (log_tk ..)
@[simp] theorem inState_isr (p b) : inState (w.isr p b) = inState w := inState_of_tk (isr_tk ..)
@[simp] theorem inState_ite (c : Prop) [Decidable c] (a b : Work) : inState (if c then a else b) = if c then inState a else inState b := apply_ite ..
@[simp ↓] theorem inState_update (due : Int) (mx : List Nat) (lockedOnce : Bool) :
    inState { w with n.tk := { w.n.tk with due := due, thetaMax := mx, lockedOnce := lockedOnce } } = inState w := rfl

@[simp] theorem setOffset_inState (th : Int) (seen : Nat) : inState (w.setOffset th seen) = inState w := by simp [Work.setOffset]
@[simp] theorem setLock_inState (v : Nat) : inState (w.setLock v) = inState w := by simp [Work.setLock]

theorem stepBoundary_in (th : Int) : edges (w.stepBoundary th) = edges w ∧ ((w.stepBoundary th).n.tk.inLast = none → w.n.tk.inLast = none) := by
  have h : inState (w.stepBoundary th) = (edges w, w.n.tk.inLast.map (· + th * 125 / 2)) := by
    simp only [Work.stepBoundary, setLock_inState, inState_set]
    split <;> rfl
  refine ⟨congrArg (·.1) h, fun hn => ?_⟩
  have h2 : (w.stepBoundary th).n.tk.inLast = w.n.tk.inLast.map (· + th * 125 / 2) := congrArg (·.2) h
  rw [hn] at h2
  exact Option.map_eq_none_iff.1 h2.symm

/-- An offset that is applied leaves the edges, and the time of the last one unless it steps the boundary. -/
theorem applyOffset_in (th : Int) (seen : Nat) : edges (w.applyOffset th seen) = edges w ∧
    ((w.applyOffset th seen).n.tk.inLast = none → w.n.tk.inLast = none) ∧
    (w.isFull = true ∨ w.n.tk.lockedOnce = true → (w.applyOffset th seen).n.tk.inLast = w.n.tk.inLast) := by
  by_cases hstep : w.get Reg.TICK_LOCK = 1 ∧ ¬ w.isFull = true ∧ ¬ w.n.tk.lockedOnce = true
  · obtain ⟨h1, h2⟩ := stepBoundary_in w th
    unfold Work.applyOffset
    rw [if_pos hstep]
    exact ⟨h1, h2, by tauto⟩
  · have h : inState (w.applyOffset th seen) = inState w := by
      simp only [Work.applyOffset, if_neg hstep]
      simp
    have hl : (w.applyOffset th seen).n.tk.inLast = w.n.tk.inLast := congrArg (·.2) h
    exact ⟨congrArg (·.1) h, fun hn => hl ▸ hn, fun _ => hl⟩

end

/-- An edge in its time is taken. -/
def edgeTaken (w : Work) (t : Int) (good : Nat) : Work :=
  { w with n.tk.inLast := some t, n.tk.inBad := 0, n.tk.inGap := 0, n.tk.inGood := good, n.tk.inValid := w.n.tk.inValid || decide (16 ≤ good) }

/-- The offset of TICK_IN, where it is the source. -/
def edgeFollowed (w : Work) (dev : Int) : Work :=
  if !w.actFlag Reg.TICK_MASTER && w.get Reg.TICK_LOCK != 0 && w.flag Reg.TICK_SRC_IN then
    w.applyOffset (-(dev * 16 / 1000 + ofField 16 (w.acting Reg.TICK_IN_ADJ))) 0
  else w

/-- An edge out of its time is counted and ignored. -/
def edgeIgnored (w : Work) (due : Nat) : Work :=
  { w.count Reg.TICK_IN_IGNORED with n.tk.inBad := w.n.tk.inBad + 1, n.tk.inGap := max w.n.tk.inGap (due + 1), n.tk.inGood := 0 }

/-- An edge, after what is missing has been counted. -/
def edgeMet (w : Work) (t dev : Int) : Work :=
  if 50000 < w.inOff t then edgeIgnored w (w.inDue t)
  else edgeFollowed (edgeTaken w t (if w.inDue t = 0 ∧ w.inOff t ≤ 1000 then w.n.tk.inGood + 1 else 1)).seekSource dev

theorem exec_edge {s : State} (dev : Int) (ha : s.alive = true) : exec (.tickInEdge dev) s =
    .next (s.close (edgeMet (s.view.inMissed (s.view.inEdgeAt dev)).tickInGone (s.view.inEdgeAt dev) dev)) := by
  rw [exec_tickInEdge, execTickInEdge, run_alive _ ha]
  rfl

theorem edgeFollowed_in (w : Work) (dev : Int) : edges (edgeFollowed w dev) = edges w ∧
    ((edgeFollowed w dev).n.tk.inLast = none → w.n.tk.inLast = none) ∧
    (w.isFull = true ∨ w.n.tk.lockedOnce = true → (edgeFollowed w dev).n.tk.inLast = w.n.tk.inLast) := by
  unfold edgeFollowed
  split
  · exact applyOffset_in ..
  · exact ⟨rfl, id, fun _ => rfl⟩

theorem isFull_seekSource (w : Work) : w.seekSource.isFull = w.isFull := by
  have hf : fields sourceFlds w.seekSource = fields sourceFlds w := fields_seekSource w fun _ h => h
  unfold Work.isFull Work.nodeState
  rw [get_of_fields0 hf (by decide)]

/-- An edge that is taken: what of it stands when its offset has been applied. -/
theorem edgeTaken_in (w : Work) (t dev : Int) (good : Nat) :
    edges (edgeFollowed (edgeTaken w t good).seekSource dev) = (good, 0, w.n.tk.inValid || decide (16 ≤ good), 0) ∧
    (edgeFollowed (edgeTaken w t good).seekSource dev).n.tk.inLast ≠ none ∧
    (w.isFull = true ∨ w.n.tk.lockedOnce = true → (edgeFollowed (edgeTaken w t good).seekSource dev).n.tk.inLast = some t) := by
  obtain ⟨h1, h2, h3⟩ := edgeFollowed_in (edgeTaken w t good).seekSource dev
  have htk := seekSource_tk (edgeTaken w t good)
  have hfull := isFull_seekSource (edgeTaken w t good)
  rw [htk] at h2 h3
  rw [hfull] at h3
  exact ⟨h1.trans (edges_of_tk htk), fun h => absurd (h2 h) nofun, h3⟩

theorem inMissed_within {w : Work} {t : Int} (h : w.inDue t ≤ w.n.tk.inGap) : w.inMissed t = w := by
  unfold Work.inMissed
  exact if_pos h

theorem tickInGone_few {w : Work} (h : w.n.tk.inLast = none ∨ w.n.tk.inBad < 4) : w.tickInGone = w := by
  unfold Work.tickInGone
  exact if_pos (h.imp_left fun g => by rw [g]; rfl)

/-- Four edges ignored or missing leave TICK_IN with no good edge. -/
theorem tickInGone_many {w : Work} (hl : w.n.tk.inLast ≠ none) (hb : 4 ≤ w.n.tk.inBad) :
    edges w.tickInGone = (0, 0, false, 0) ∧ w.tickInGone.n.tk.inLast = none ∧ w.tickInGone.n.tk.now = w.n.tk.now := by
  unfold Work.tickInGone
  have hn : ¬ (w.n.tk.inLast.isNone = true ∨ w.n.tk.inBad < 4) := by
    rw [Option.isNone_iff_eq_none]
    exact not_or.2 ⟨hl, Nat.not_lt.2 hb⟩
  rw [if_neg hn]
  simp only
  split
  · unfold edges
    rw [loseSource_tk]
    exact ⟨rfl, rfl, rfl⟩
  · exact ⟨rfl, rfl, rfl⟩

/-- An edge that comes with none missing: taken in its time, else counted and ignored. -/
theorem edge_within {s : State} {dev : Int} (hc : Canonical s) (h : edgeMet (s.view.inMissed (s.view.inEdgeAt dev)).tickInGone (s.view.inEdgeAt dev) dev =
      edgeMet s.view (s.view.inEdgeAt dev) dev) (u : Work) (hu : u = edgeMet (s.view.inMissed (s.view.inEdgeAt dev)).tickInGone (s.view.inEdgeAt dev) dev) :
    (s.view.inOff (s.view.inEdgeAt dev) ≤ 50000 → u.n.tk.inBad = 0 ∧ u.n.tk.inLast ≠ none ∧
        (s.view.isFull = true ∨ s.node.tk.lockedOnce = true → u.n.tk.inLast = some (s.view.inEdgeAt dev))) ∧
      (50000 < s.view.inOff (s.view.inEdgeAt dev) → u.n.tk.inLast = s.node.tk.inLast ∧ u.n.tk.inBad = s.node.tk.inBad + 1 ∧
        rd (s.close u) Reg.TICK_IN_IGNORED = min (rd s Reg.TICK_IN_IGNORED + 1) (2 ^ Reg.TICK_IN_IGNORED.width - 1)) := by
  rw [hu, h]
  unfold edgeMet
  constructor
  · intro hin
    rw [if_neg (Nat.not_lt.2 hin)]
    obtain ⟨h1, h2, h3⟩ := edgeTaken_in s.view (s.view.inEdgeAt dev) dev
      (if s.view.inDue (s.view.inEdgeAt dev) = 0 ∧ s.view.inOff (s.view.inEdgeAt dev) ≤ 1000 then s.view.n.tk.inGood + 1 else 1)
    exact ⟨congrArg (·.2.1) h1, h2, h3⟩
  · intro hout
    rw [if_pos hout]
    refine ⟨rfl, rfl, ?_⟩
    exact Shows.rd hc.1 (Shows.of_update (shows_count s.view Reg.TICK_IN_IGNORED 1 0 0) _)

/-- An edge before which four were ignored or missing is the first good one. -/
theorem edge_after_loss {s : State} {dev : Int} (hl : s.node.tk.inLast ≠ none)
    (hb : 4 + s.node.tk.inGap ≤ s.node.tk.inBad + s.view.inDue (s.view.inEdgeAt dev)) (hg : s.node.tk.inGap ≤ s.view.inDue (s.view.inEdgeAt dev)) :
    edges (edgeMet (s.view.inMissed (s.view.inEdgeAt dev)).tickInGone (s.view.inEdgeAt dev) dev) = (1, 0, false, 0) := by
  have hm : (s.view.inMissed (s.view.inEdgeAt dev)).n.tk.inLast ≠ none ∧ 4 ≤ (s.view.inMissed (s.view.inEdgeAt dev)).n.tk.inBad := by
    unfold Work.inMissed
    simp only
    split
    · exact ⟨hl, by simp only [view_n] at *; omega⟩
    · refine ⟨hl, ?_⟩
      simp only [view_n] at *
      omega
  obtain ⟨he, hn, -⟩ := tickInGone_many hm.1 hm.2
  generalize (s.view.inMissed (s.view.inEdgeAt dev)).tickInGone = w at he hn
  generalize s.view.inEdgeAt dev = t
  have hoff : w.inOff t = 0 := by
    unfold Work.inOff
    rw [hn]
  have hdue : w.inDue t = 0 := by
    unfold Work.inDue
    rw [hn]
  have hgood : w.n.tk.inGood = 0 := congrArg (·.1) he
  have hvalid : w.n.tk.inValid = false := congrArg (·.2.2.1) he
  unfold edgeMet
  rw [hoff, hdue, hgood, if_neg (by decide), (edgeTaken_in ..).1, hvalid]
  rfl

theorem tickInEdge_shows (s : State) (dev : Int) (ha : s.alive = true) (hc : Canonical s) : ∃ t, exec (.tickInEdge dev) s = .next t ∧
        (s.view.inDue (s.view.inEdgeAt dev) ≤ s.node.tk.inGap → s.node.tk.inLast = none ∨ s.node.tk.inBad < 4 →
      (s.view.inOff (s.view.inEdgeAt dev) ≤ 50000 → t.node.tk.inBad = 0 ∧ t.node.tk.inLast ≠ none ∧
        (s.view.isFull = true ∨ s.node.tk.lockedOnce = true → t.node.tk.inLast = some (s.view.inEdgeAt dev))) ∧
      (50000 < s.view.inOff (s.view.inEdgeAt dev) → t.node.tk.inLast = s.node.tk.inLast ∧ t.node.tk.inBad = s.node.tk.inBad + 1 ∧
        rd t Reg.TICK_IN_IGNORED = min (rd s Reg.TICK_IN_IGNORED + 1) (2 ^ Reg.TICK_IN_IGNORED.width - 1))) ∧
        (s.node.tk.inLast ≠ none → 4 + s.node.tk.inGap ≤ s.node.tk.inBad + s.view.inDue (s.view.inEdgeAt dev) →
      s.node.tk.inGap ≤ s.view.inDue (s.view.inEdgeAt dev) → t.node.tk.inValid = false ∧ t.node.tk.inGood = 1) := by
  have hin := fun h => edge_within (dev := dev) hc h
  have hgone := fun h1 h2 h3 => edge_after_loss (s := s) (dev := dev) h1 h2 h3
  refine ⟨_, exec_edge dev ha, fun hd hf => ?_, fun hl hb hg => ?_⟩
  · exact hin (by rw [inMissed_within hd, tickInGone_few hf]) _ rfl
  · have := hgone hl hb hg
    exact ⟨congrArg (·.2.2.1) this, congrArg (·.1) this⟩

theorem tickInLost_many (s : State) (ha : s.alive = true) (h : s.node.tk.inLast ≠ none ∧ 4 ≤ s.node.tk.inBad) :
    ∃ t, exec .tickInLost s = .next t ∧ t.node.tk.inValid = false ∧ t.node.tk.inLast = none ∧ t.node.tk.inGood = 0 ∧
      t.node.tk.now = s.node.tk.now := by
  obtain ⟨he, hn, hnow⟩ := tickInGone_many (w := s.view) h.1 h.2
  have hx : exec .tickInLost s = .next (s.close s.view.tickInGone) := by rw [exec_tickInLost, execTickInLost, run_alive _ ha]
  generalize s.view.tickInGone = u at he hn hnow hx
  exact ⟨_, hx, congrArg (·.2.2.1) he, hn, congrArg (·.1) he, hnow⟩

theorem tickInLost_few (s : State) (ha : s.alive = true) (h : s.node.tk.inLast = none ∨ s.node.tk.inBad < 4) : exec .tickInLost s = .next s := by
  rw [exec_tickInLost, execTickInLost, run_alive _ ha, tickInGone_few h, Resets.close_view]

/-- Settles O30: a marker by what following it writes last, a loss by what the node takes next, an edge by what is missing before it. -/
theorem theTickFollowsItsSource : Obligations.TheTickFollowsItsSource := by
  unfold Obligations.TheTickFollowsItsSource
  exact ⟨tickMark_shows, tickSourceLost_shows, tickSwitchWrite_shows, periodSwitch_shows, tickLoad_shows, tickInEdge_shows,
    fun s ha _ h => tickInLost_many s ha h, tickInLost_few⟩

end Sys2Proof.TickSource
end

section
/-!
An order whose frame passes the checks of R466 to R470 is its action, and what an answer leaves of the node.
-/

namespace Sys2Proof.Orders

open Sys2Proof.Machine Sys2Proof.Safety Sys2Proof.Laws Sys2Proof.Resets Sys2Proof.RegisterReads

/-- The command of an order, on a node that answers, for a frame that brings request `r`, is the order's action on the node that heard it. -/
theorem run_order {s : State} {f : Frame} {type : Nat} {cls : Fld} {r : MgReq} (hs : s.alive = true) (hreq : requestOf s f type cls = some r)
    (hg : NotFrameCount cls) (act : Work → MgReq → Work) :
    run s (fun w => w.mgOrder f type cls act) = .next (s.close (act (orderWork s r) r)) := by
  rw [run_alive _ hs, mgOrder_of_requestOf hreq hg]

/-! ## The pieces of the node that an answer leaves -/

theorem mgRespond_field {α : Type} (g : Node → α) (hg : ∀ (n : Node) (mt : Mgmt) (out : List Out), g { n with mt := mt, out := out } = g n)
    (w : Work) (r : MgReq) (status : Nat) (body : Bytes) : g (w.mgRespond r status body).n = g w.n := by
  rw [mgRespond_n]
  exact hg _ _ _

end Sys2Proof.Orders
end

section
/-!
The window BAR4 onto the store (R310).
-/

namespace Sys2Proof.Window

open Sys2Proof.Machine Sys2Proof.Safety Sys2Proof.Laws Sys2Proof.Resets

theorem exec_bar4Read (s : State) (fn : Fn) (off len : Nat) (u : Bool) : exec (.bar4Read fn off len u) s = execBar4Read fn off len u s := by
  simp only [exec]
theorem exec_bar4Write (s : State) (fn : Fn) (off : Nat) (b : Bytes) : exec (.bar4Write fn off b) s = execBar4Write fn off b s := by
  simp only [exec]

/-- The accesses that a function may read (R310). -/
def readable (w : Work) (fn : Fn) (a len : Nat) : Bool :=
  match fn with
  | .pf => inHbm a && inHbm (a + len - 1)
  | .vf _ => w.live (fnNum fn) && (w.inAllotment (fnNum fn) a len || w.inOwnSlots (fnNum fn) a len)

/-- A span read, and what the read does to the node. -/
def spanRead (w : Work) (fn : Fn) (a len : Nat) : Work :=
  let c := (w.bulkUsed len).exportCheck a len
  if !c.1 then c.2.emit (.barData (fnNum fn) none)
  else (c.2.hbmRead a len).2.emit (.barData (fnNum fn) (some (c.2.hbmRead a len).1))

section
variable {s : State} {fn : Fn} {off len : Nat} {u : Bool} (ha : s.alive = true) (hx : s.view.fnExists fn = true) (hl : off + len ≤ 2 ^ 30)
include ha hx hl

theorem read_refused (h : readable s.view fn (s.view.bar4Addr fn off) len = false) : exec (.bar4Read fn off len u) s =
    .next (s.close ((s.view.bar4Refused fn (s.view.bar4Addr fn off)).emit (.barData (fnNum fn) (some (List.replicate len 0))))) := by
  rw [exec_bar4Read, execBar4Read, run_alive _ ha]
  simp only [Nat.not_lt.2 hl, if_false, hx, Bool.not_true, Bool.false_eq_true]
  rw [if_pos (by rw [Bool.not_eq_true']; exact h)]

theorem read_taken (h : readable s.view fn (s.view.bar4Addr fn off) len = true) : exec (.bar4Read fn off len u) s =
    .next (s.close (if u then (s.view.bulkUsed len).emit (.barData (fnNum fn) none) else spanRead s.view fn (s.view.bar4Addr fn off) len)) := by
  rw [exec_bar4Read, execBar4Read, run_alive _ ha]
  simp only [Nat.not_lt.2 hl, if_false, hx, Bool.not_true, Bool.false_eq_true]
  rw [if_neg (by rw [Bool.not_eq_true', Bool.not_eq_false]; exact h)]
  rfl

end

/-! ## What is checked and read does not depend on what is lent -/

theorem exportCheck_bulkUsed (w : Work) (n a len : Nat) : ((w.bulkUsed n).exportCheck a len).1 = (w.exportCheck a len).1 := rfl

theorem exportCheck_good {w : Work} {a len : Nat} (h : (w.exportCheck a len).1 = true) : (w.exportCheck a len).2 = w := by
  unfold Work.exportCheck at *
  simp only [List.isEmpty_iff] at h
  simp only [h, List.foldl_nil]

theorem spanRead_good {w : Work} {fn : Fn} {a len : Nat} (h : (w.exportCheck a len).1 = true) :
    spanRead w fn a len = ((w.bulkUsed len).hbmRead a len).2.emit (.barData (fnNum fn) (some ((w.bulkUsed len).hbmRead a len).1)) := by
  rw [← exportCheck_bulkUsed w len] at h
  unfold spanRead
  simp only [h, exportCheck_good h, Bool.not_true, Bool.false_eq_true, if_false]

theorem spanRead_bad {w : Work} {fn : Fn} {a len : Nat} (h : (w.exportCheck a len).1 = false) :
    ∃ v : Work, spanRead w fn a len = v.emit (.barData (fnNum fn) none) := by
  rw [← exportCheck_bulkUsed w len] at h
  unfold spanRead
  simp only [h, Bool.not_false, if_true]
  exact ⟨_, rfl⟩

theorem hbmRead_slots {w : Work} {a len : Nat} (h : a % stackBytes + len ≤ slotFrames * 4096) : w.hbmRead a len = (w.bytes a len, w) := by
  unfold Work.hbmRead
  simp only [h, decide_true, Bool.true_or, if_true]

/-- A span of the system area gives the node's own records (R310). -/
theorem hbmRead_system {w : Work} {a len : Nat} (h : slotFrames * 4096 < a % stackBytes + len) (hr : a + len ≤ ringBase) :
    (w.hbmRead a len).1.length = len ∧ (∀ i < len, ∀ v ∈ w.sysByte (a + i), (w.hbmRead a len).1[i]? = some v) ∧
    ∃ n, (w.hbmRead a len).2 = { w with n.fresh := n } := by
  have h1 : decide (a % stackBytes + len ≤ slotFrames * 4096) = false := decide_eq_false (Nat.not_le.2 h)
  unfold Work.hbmRead
  simp only [h1, Bool.false_or]
  split
  · have h0 : len = 0 := by simp at *; omega
    subst h0
    exact ⟨rfl, fun i hi => absurd hi (Nat.not_lt_zero i), w.n.fresh, rfl⟩
  · refine ⟨by simp, fun i hi v hv => ?_, w.n.fresh + 1, rfl⟩
    rw [List.getElem?_map, List.getElem?_range hi, Option.map_some, Option.mem_def.1 hv, Option.getD_some]

theorem sysByte_bulkUsed (w : Work) (n a : Nat) : (w.bulkUsed n).sysByte a = w.sysByte a := rfl

theorem close_of_n (s : State) (n : Node) : s.close { s.view with n := n } = { s with node := n } := by
  have h : max s.svnFuse s.svnFuse = s.svnFuse := max_self _
  simp only [State.close, view_rw, view_wr, view_wiped, view_svn, view_ppr, List.reverse_nil, List.foldl_nil, h]
  rfl

theorem close_store (s : State) (n : Node) (a : Nat) (bs : Bytes) :
    s.close (({ s.view with n := n } : Work).store a bs) = { s with node := n, mem := Mem.putAll s.mem a bs } := by
  have h : max s.svnFuse s.svnFuse = s.svnFuse := max_self _
  simp only [State.close, store_n, store_rw, store_wr, store_wiped, store_svn, store_ppr, view_rw, view_wr, view_wiped, view_svn, view_ppr,
    List.reverse_nil, List.foldl_nil, List.reverse_cons, List.nil_append, List.foldl_cons, h]
  rfl

/-! ## A refusal is counted -/

/-- A report after a count leaves the counter's new value. -/
theorem counted_reports {s : State} (hc : Canonical s) {f : Fld} {w : Work} (hp : Plain (f.key 0 0)) (h : Reports (s.view.count f) w) :
    Counted s (s.close w) f := (h.shows hp (shows_count _ f 1 0 0)).rd hc.1

theorem plain_refused : Plain (Reg.PCI_BAR4_REFUSED.key 0 0) := by unfold Plain; decide

theorem reports_bar4Refused (w : Work) (fn : Fn) (a : Nat) : ∃ v, Reports (w.count Reg.PCI_BAR4_REFUSED) v ∧
    ∃ l, w.bar4Refused fn a = { v with n.hq.bar4Logged := l } := by
  unfold Work.bar4Refused
  simp only
  split
  · exact ⟨_, Reports.refl _, _, rfl⟩
  · exact ⟨_, reports_report _ _, _, rfl⟩

theorem bar4Refused_counted {s : State} (hc : Canonical s) (fn : Fn) (a : Nat) (n : Work → Node) :
    Counted s (s.close { s.view.bar4Refused fn a with n := n (s.view.bar4Refused fn a) }) Reg.PCI_BAR4_REFUSED := by
  obtain ⟨v, hv, l, he⟩ := reports_bar4Refused s.view fn a
  rw [he]
  exact (hv.shows plain_refused (shows_count _ Reg.PCI_BAR4_REFUSED 1 0 0)).rd hc.1

/-- Reports store nothing outside the prompt book's ring, whatever registers were set before them. -/
theorem byteAt_of_reports {s : State} (hc : Canonical s) {u v : Work} (hu : u.wr = []) (hw : u.wiped = false) (h : Reports u v) (n : Node) {x : Nat}
    (hx : outsideRing x) : byteAt (s.close { v with n := n }) x = byteAt s x := by
  obtain ⟨l, hl, hput⟩ := h.wr
  have hm : (s.close { v with n := n }).mem = l.reverse.foldl Mem.apply s.mem := by
    simp [close_mem, h.wiped, hl, hu, hw]
  rw [Safety.byteAt, hm]
  exact mem_get_foldl_ring hc.2 (fun o ho => hput o (List.mem_reverse.1 ho)) hx

/-- A refused access stores nothing outside the prompt book's ring. -/
theorem bar4Refused_byteAt {s : State} (hc : Canonical s) (fn : Fn) (a : Nat) {x : Nat} (hx : outsideRing x) :
    byteAt (s.close (s.view.bar4Refused fn a)) x = byteAt s x := by
  obtain ⟨v, hv, l, he⟩ := reports_bar4Refused s.view fn a
  rw [he]
  exact byteAt_of_reports hc rfl rfl hv _ hx

/-! ## The window -/

section
variable (s : State)

theorem read_good (fn : Fn) (off len : Nat) (ha : s.alive = true) (hx : s.view.fnExists fn = true) (hl : off + len ≤ 2 ^ 30)
    (hr : readable s.view fn (s.view.bar4Addr fn off) len = true) (hs : s.view.bar4Addr fn off % stackBytes + len ≤ slotFrames * 4096)
    (hg : (s.view.exportCheck (s.view.bar4Addr fn off) len).1 = true) :
    exec (.bar4Read fn off len false) s = .next { s with node := { s.node with
      out := s.node.out ++ [.barData (fnNum fn) (some (s.view.bytes (s.view.bar4Addr fn off) len))], ks.lendable := s.node.ks.lendable - len } } := by
  rw [read_taken ha hx hl hr, if_neg Bool.false_ne_true, spanRead_good hg, hbmRead_slots hs]
  exact congrArg _ (close_of_n s _)

theorem readable_of {fn : Fn} {a len : Nat} (hr : (fn = .pf ∧ inHbm a = true ∧ inHbm (a + len - 1) = true) ∨
    (s.view.live (fnNum fn) = true ∧ fn ≠ .pf ∧ s.view.inAllotment (fnNum fn) a len = true)) : readable s.view fn a len = true := by
  rcases hr with ⟨rfl, h1, h2⟩ | ⟨h1, h2, h3⟩
  · simp [readable, h1, h2]
  · cases fn with
    | pf => exact absurd rfl h2
    | vf p => simp [readable, h1, h3]

theorem read_bad (off len : Nat) (ha : s.alive = true) (hl : off + len ≤ 2 ^ 30) (hr : readable s.view .pf (s.view.bar4Addr .pf off) len = true)
    (hg : (s.view.exportCheck (s.view.bar4Addr .pf off) len).1 = false) :
    ∃ t, exec (.bar4Read .pf off len false) s = .next t ∧ t.node.out.getLast? = some (.barData 0 none) := by
  rw [read_taken ha rfl hl hr, if_neg Bool.false_ne_true]
  obtain ⟨v, hv⟩ := spanRead_bad (fn := .pf) hg
  rw [hv]
  exact ⟨_, rfl, List.getLast?_concat⟩

theorem read_system (off len : Nat) (ha : s.alive = true) (hl : off + len ≤ 2 ^ 30) (hr : readable s.view .pf (s.view.bar4Addr .pf off) len = true)
    (hs : slotFrames * 4096 < s.view.bar4Addr .pf off % stackBytes + len) (hb : s.view.bar4Addr .pf off + len ≤ ringBase)
    (hg : (s.view.exportCheck (s.view.bar4Addr .pf off) len).1 = true) :
    ∃ t, exec (.bar4Read .pf off len false) s = .next t ∧
      (∃ b : Bytes, t.node.out = s.node.out ++ [.barData 0 (some b)] ∧ b.length = len ∧
        ∀ i : Nat, i < len → ∀ v ∈ s.view.sysByte (s.view.bar4Addr .pf off + i), b[i]? = some v) ∧
      t.regs = s.regs ∧ t.mem = s.mem := by
  rw [read_taken ha rfl hl hr, if_neg Bool.false_ne_true, spanRead_good hg]
  obtain ⟨hlen, hbytes, n, hn⟩ := hbmRead_system (w := s.view.bulkUsed len) hs hb
  rw [hn]
  generalize (Work.hbmRead _ _ _).1 = b at hlen hbytes ⊢
  exact ⟨_, rfl, ⟨b, rfl, hlen, fun i hi v hv => hbytes i hi v ((sysByte_bulkUsed ..).symm ▸ hv)⟩, rfl, rfl⟩

theorem read_uncorrectable (off len : Nat) (ha : s.alive = true) (hl : off + len ≤ 2 ^ 30)
    (hr : readable s.view .pf (s.view.bar4Addr .pf off) len = true) : exec (.bar4Read .pf off len true) s =
      .next { s with node := { s.node with out := s.node.out ++ [.barData 0 none], ks.lendable := s.node.ks.lendable - len } } := by
  rw [read_taken ha rfl hl hr, if_pos rfl]
  exact congrArg _ (close_of_n s _)

theorem read_out (p off len : Nat) (u : Bool) (ha : s.alive = true) (hc : Canonical s) (hx : s.view.fnExists (.vf p) = true)
    (hl : off + len ≤ 2 ^ 30) (hp : s.view.live p = false) : ∃ t, exec (.bar4Read (.vf p) off len u) s = .next t ∧
      t.node.out.getLast? = some (.barData p (some (List.replicate len 0))) ∧ Counted s t Reg.PCI_BAR4_REFUSED := by
  rw [read_refused ha hx hl (by simp [readable, fnNum, hp])]
  exact ⟨_, rfl, List.getLast?_concat, bar4Refused_counted hc _ _ fun w => { w.n with out := w.n.out ++ [_] }⟩

theorem write_taken (fn : Fn) (off : Nat) (b : Bytes) (ha : s.alive = true) (hx : s.view.fnExists fn = true) (hl : off + b.length ≤ 2 ^ 30)
    (hp : s.view.live (fnNum fn) = true ∧ s.view.inAllotment (fnNum fn) (s.view.bar4Addr fn off) b.length = true) :
    exec (.bar4Write fn off b) s = .next { s with mem := Mem.putAll s.mem (s.view.bar4Addr fn off) b, node.ks.lendable := s.node.ks.lendable - b.length } := by
  rw [exec_bar4Write, execBar4Write, run_alive _ ha]
  simp only [Nat.not_lt.2 hl, hx, Bool.not_true, Bool.false_eq_true, or_self, if_false, hp, and_self, if_true]
  exact congrArg _ (close_store s _ _ b)

theorem write_refused (fn : Fn) (off : Nat) (b : Bytes) (ha : s.alive = true) (hc : Canonical s) (hx : s.view.fnExists fn = true)
    (hl : off + b.length ≤ 2 ^ 30)
    (hn : ¬ (s.view.live (fnNum fn) = true ∧ s.view.inAllotment (fnNum fn) (s.view.bar4Addr fn off) b.length = true)) :
    ∃ t, exec (.bar4Write fn off b) s = .next t ∧ Counted s t Reg.PCI_BAR4_REFUSED ∧ ∀ a : Nat, outsideRing a → byteAt t a = byteAt s a := by
  rw [exec_bar4Write, execBar4Write, run_alive _ ha]
  simp only [Nat.not_lt.2 hl, hx, Bool.not_true, Bool.false_eq_true, or_self, if_false]
  rw [if_neg hn]
  exact ⟨_, rfl, bar4Refused_counted hc fn _ Work.n, fun x hx => bar4Refused_byteAt hc fn _ hx⟩

end

/-- Settles O40, clause by clause. -/
theorem theBar4WindowReadsAndWritesMemory : Obligations.TheBar4WindowReadsAndWritesMemory := by
  unfold Obligations.TheBar4WindowReadsAndWritesMemory
  refine ⟨fun s fn off len a ha ⟨hx, hl⟩ he hr hs hg => ?_, fun s off len a ha hl he hr hg => ?_, fun s off len a ha hl he hr hs hg => ?_,
    fun s off len ha hl hr => read_uncorrectable s off len ha hl (readable_of s (.inl ⟨rfl, hr⟩)),
    fun s p off len u ha hc ⟨hx, hl⟩ hp => read_out s p off len u ha hc hx hl hp,
    fun s fn off b ha ⟨hx, hl⟩ hp => write_taken s fn off b ha hx hl hp,
    fun s fn off b ha hc ⟨hx, hl⟩ hn => write_refused s fn off b ha hc hx hl hn⟩
  · subst he
    exact read_good s fn off len ha hx hl (readable_of s hr) hs hg
  · subst he
    exact read_bad s off len ha hl (readable_of s (.inl ⟨rfl, hr⟩)) hg
  · subst he
    exact read_system s off len ha hl (readable_of s (.inl ⟨rfl, hr⟩)) hs.1 hs.2 hg

end Sys2Proof.Window
end

section
/-!
The box office: what a sample charges, and the statements that a close signs, numbers and stores (R478 to R482).
-/

namespace Sys2Proof.Usage

open Sys2Proof.Machine Sys2Proof.Safety Sys2Proof.Laws Sys2Proof.Resets Sys2Proof.Entering
open Sys2Proof.Crypto (bytes32 sha3 sha3v ascii at0)

theorem exec_sample (s : State) : exec .usageSample s = execUsageSample s := by simp only [exec]
theorem exec_close (s : State) : exec .usageStatementClose s = execUsageStatementClose s := by simp only [exec]

/-! ## Counters -/

theorem gain_same (m : Meter16) (i b : Nat) (h : i < m.cnt.length) : atD (m.gain i b).cnt i 0 = (atD m.cnt i 0 + b) % 2 ^ 64 := by
  simp [Meter16.gain, atD, h]

theorem gain_other (m : Meter16) {i j : Nat} (b : Nat) (h : i ≠ j) : atD (m.gain i b).cnt j 0 = atD m.cnt j 0 := by
  simp [Meter16.gain, atD, h]

@[simp] theorem gain_length (m : Meter16) (i b : Nat) : (m.gain i b).cnt.length = m.cnt.length := by simp [Meter16.gain]

/-- What a sample makes of a partition's counters (R479). -/
def charged (w : Work) (n : Nat) (m : Meter16) : Meter16 :=
  let d := (m.gain 7 (w.hbmHeld m.part * n)).held 8 m.ddrRest (w.tierUsed m.part Loc.ddrBytes) n
  let h := d.2.held 9 m.hostRest (w.tierUsed m.part Loc.hostBytes) n
  { h.2.gain 10 ((w.n.pg.sessions.filter fun e => e.2.part = m.part).length * n) with ddrRest := d.1, hostRest := h.1 }

theorem charged_cnt (w : Work) (n : Nat) (m : Meter16) : (charged w n m).cnt =
    ((((m.gain 7 (w.hbmHeld m.part * n)).gain 8 ((m.ddrRest + w.tierUsed m.part Loc.ddrBytes * n) / 1024)).gain 9
      ((m.hostRest + w.tierUsed m.part Loc.hostBytes * n) / 1024)).gain 10
      ((w.n.pg.sessions.filter fun e => e.2.part = m.part).length * n)).cnt := rfl

theorem exec_sample_off {s : State} (ha : s.alive = true) (h : s.node.tk.now.toNat % rd s Reg.MTR_SAMPLE ≠ 0 ∨ rd s Reg.MTR_EN = 0 ∨
    s.node.mt.lastSample = some s.node.tk.now) : exec .usageSample s = .next s := by
  rw [exec_sample, execUsageSample, run_alive _ ha]
  dsimp only
  rw [if_pos, close_view]
  rcases h with h | h | h
  · exact .inr (.inl h)
  · exact .inl (by rw [flag_eq h]; rfl)
  · exact .inr (.inr h)

theorem exec_sample_on {s : State} (ha : s.alive = true) (h : rd s Reg.MTR_EN ≠ 0 ∧ s.node.tk.now.toNat % rd s Reg.MTR_SAMPLE = 0 ∧
    s.node.mt.lastSample ≠ some s.node.tk.now) : exec .usageSample s = .next (s.close { s.view with
      n.mt.meters := s.node.mt.meters.map fun m => if (m.final).isNone then charged s.view (rd s Reg.MTR_SAMPLE) m else m
      n.mt.lastSample := some s.node.tk.now }) := by
  rw [exec_sample, execUsageSample, run_alive _ ha]
  dsimp only
  rw [if_neg]
  · rfl
  · rintro (he | hn | hl)
    · rw [flag_eq (rfl : rd s Reg.MTR_EN = _)] at he
      exact h.1 (by simpa using he)
    · exact hn h.2.1
    · exact h.2.2 hl

/-! ## A statement -/

/-- The field that ends a string of bytes. -/
theorem fieldAt_end (a : Bytes) {off : Nat} (n v : Nat) (h : off = a.length) : fieldAt (a ++ leBytes n v) off n = v % 256 ^ n := by
  subst h
  rw [fieldAt, List.drop_left, List.take_of_length_le (by simp), RegisterReads.leVal_leBytes]

theorem body_length (w : Work) (m : Meter16) (f : Option Nat) : (w.statementBody m f).length = 224 := by
  simp [Work.statementBody, bytes32, List.length_flatten, Function.comp_def]

theorem body_fields (w : Work) (m : Meter16) : fieldAt (w.statementBody m none) 0 4 = 0x54534255 ∧
    fieldAt (w.statementBody m none) 6 1 = m.part % 256 ∧ fieldAt (w.statementBody m none) 8 4 = m.number % 2 ^ 32 ∧
    fieldAt (w.statementBody m none) 0x30 8 = w.now.toNat := by
  unfold Work.statementBody
  dsimp only
  refine ⟨?_, ?_, ?_, ?_⟩
  · iterate 14 rw [fieldAt_append _ _ _ _ (by simp only [List.length_append, leBytes_length, bytes32]; omega)]
    exact fieldAt_end [] 4 _ rfl
  · iterate 12 rw [fieldAt_append _ _ _ _ (by simp only [List.length_append, leBytes_length, bytes32]; omega)]
    exact fieldAt_end _ 1 _ (by simp only [List.length_append, leBytes_length])
  · iterate 10 rw [fieldAt_append _ _ _ _ (by simp only [List.length_append, leBytes_length, bytes32]; omega)]
    exact fieldAt_end _ 4 _ (by simp only [List.length_append, leBytes_length])
  · iterate 3 rw [fieldAt_append _ _ _ _ (by simp only [List.length_append, leBytes_length, bytes32]; omega)]
    rw [fieldAt_end _ 8 _ (by simp only [List.length_append, leBytes_length]), Nat.mod_eq_of_lt (by have := w.now.isLt; omega)]

theorem sign_length (w : Work) (msg ctx : Bytes) : (w.sign msg ctx).1.length = 2420 := by
  unfold Work.sign
  rw [List.length_take, List.length_append, List.length_replicate]
  omega

/-- The slot of a statement in memory (R480). -/
def slotOf (p number : Nat) : Nat := statementBase + (p * 16 + number % 16) * 4096

/-- What is kept of a partition once statement `bs` has been closed (R480, R482). -/
def stated (w : Work) (keep : Nat) (bs : Bytes) (m : Meter16) : Meter16 :=
  { m with prev := m.cnt, number := m.number + 1, from_ := w.now, digest := BitVec.ofNat 256 (leVal (sha3 bs))
           kept := (m.kept ++ [(m.number, bs)]).filter fun e => m.number < e.1 + keep }

/-- The signed statement of a partition. -/
def signed (w : Work) (m : Meter16) : Bytes := w.statementBody m none ++ (w.sign (w.statementBody m none) (ascii "KZ8640 usage")).1

theorem signed_length (w : Work) (m : Meter16) : (signed w m).length = 2644 := by
  rw [signed, List.length_append, body_length, sign_length]

theorem signed_body (w : Work) (m : Meter16) : (signed w m).take 224 = w.statementBody m none := List.take_left' (body_length w m none)

theorem closeStatement_none {w : Work} {p : Nat} (h : w.n.mt.meters.find? (fun m => m.part = p) = none) : (w.closeStatement p none).2 = w := by
  unfold Work.closeStatement
  rw [h]

theorem closeStatement_some {w : Work} {p : Nat} {m : Meter16} (h : w.n.mt.meters.find? (fun m => m.part = p) = some m) :
    (w.closeStatement p none).2 = ((({ w with n.fresh := w.n.fresh + 1 } : Work).store (slotOf p m.number) (signed w m)).modMeter p
      (stated w (w.get Reg.MTR_KEEP) (signed w m))).count Reg.MTR_CLOSED := by
  unfold Work.closeStatement
  rw [h]
  rfl

/-! ## Closing the statements of one boundary -/

/-- The node whose statements are being closed: its time, and the registers a statement reads. -/
structure Closing (s : State) (w : Work) : Prop where
  tk : w.n.tk = s.node.tk
  st : w.n.st = s.node.st
  fields : Fields.fields [Reg.MTR_CLOSED] w = Fields.fields [Reg.MTR_CLOSED] s.view

theorem Closing.view (s : State) : Closing s s.view := ⟨rfl, rfl, rfl⟩

theorem Closing.step {s : State} {w : Work} (h : Closing s w) (p : Nat) : Closing s (w.closeStatement p none).2 := by
  cases hm : w.n.mt.meters.find? (fun m => m.part = p) with
  | none => rwa [closeStatement_none hm]
  | some m =>
    rw [closeStatement_some hm]
    exact ⟨h.tk, h.st, (Fields.fields_count _ _ _ _ _ (by simp)).trans h.fields⟩

theorem Closing.body {s : State} {w : Work} (h : Closing s w) (m : Meter16) : w.statementBody m none = s.view.statementBody m none := by
  have hn : w.nodeId = s.view.nodeId := Fields.get_of_fields0 h.fields (by decide)
  have hs : w.get Reg.MTR_SAMPLE = s.view.get Reg.MTR_SAMPLE := Fields.get_of_fields0 h.fields (by decide)
  unfold Work.statementBody
  rw [hn, hs]
  unfold Work.now
  rw [h.tk]
  rfl

theorem find_modMeter (w : Work) (p q : Nat) (f : Meter16 → Meter16) (hf : ∀ m, (f m).part = m.part) :
    (w.modMeter p f).n.mt.meters.find? (fun m => m.part = q) =
      (w.n.mt.meters.find? (fun m => m.part = q)).map fun m => if m.part = p then f m else m := by
  have hp : ((fun m : Meter16 => decide (m.part = q)) ∘ fun m => if m.part = p then f m else m) = fun m => decide (m.part = q) := by
    funext m
    rw [Function.comp_apply, apply_ite Meter16.part, hf, ite_self]
  unfold Work.modMeter
  rw [List.find?_map, hp]

theorem find_closeStatement (w : Work) {p q : Nat} {m : Meter16} (h : w.n.mt.meters.find? (fun m => m.part = p) = some m) :
    (w.closeStatement p none).2.n.mt.meters.find? (fun m => m.part = q) =
      (w.n.mt.meters.find? (fun m => m.part = q)).map fun x => if x.part = p then stated w (w.get Reg.MTR_KEEP) (signed w m) x else x := by
  rw [closeStatement_some h, count_n]
  exact find_modMeter _ p q _ fun _ => rfl

/-- A store is read back from its place, and leaves every other byte. -/
theorem byteAt_store {s : State} (hc : Canonical s) (w : Work) (a : Nat) (bs : Bytes) (x : Nat) :
    byteAt (s.close (w.store a bs)) x = if a ≤ x ∧ x < a + bs.length then bs.getD (x - a) 0 else byteAt (s.close w) x := by
  have hm : (s.close (w.store a bs)).mem = Mem.putAll (s.close w).mem a bs := by
    simp only [close_mem, store_wr, store_wiped, List.reverse_cons, List.foldl_append, List.foldl_cons, List.foldl_nil]
    rfl
  rw [byteAt, hm]
  exact mem_get_putAll (canonical_close w hc).2 a bs x

theorem byteAt_closeStatement {s : State} (hc : Canonical s) (w : Work) {p : Nat} {m : Meter16}
    (h : w.n.mt.meters.find? (fun m => m.part = p) = some m) (x : Nat) : byteAt (s.close (w.closeStatement p none).2) x =
      if slotOf p m.number ≤ x ∧ x < slotOf p m.number + 2644 then (signed w m).getD (x - slotOf p m.number) 0 else byteAt (s.close w) x := by
  rw [closeStatement_some h, ← signed_length w m]
  generalize slotOf p m.number = a
  exact byteAt_store hc w a _ x

theorem slots_apart {p q : Nat} (h : p ≠ q) (m n i : Nat) (hi : i < 2644) : ¬ (slotOf p m ≤ slotOf q n + i ∧ slotOf q n + i < slotOf p m + 2644) := by
  unfold slotOf
  omega

/-- A partition's statement has been closed, and stands in its slot. -/
def Stated (s : State) (m : Meter16) (w : Work) : Prop := ∃ b : Bytes,
  w.n.mt.meters.find? (fun y => y.part = m.part) = some (stated s.view (rd s Reg.MTR_KEEP) b m) ∧ b.length = 2644 ∧
  b.take 224 = s.view.statementBody m none ∧ ∀ i < 2644, byteAt (s.close w) (slotOf m.part m.number + i) = at0 b i

section
variable {s : State} (hc : Canonical s) {w : Work} {m : Meter16}
include hc

theorem Stated.step (h : Stated s m w) {p : Nat} (hp : p ≠ m.part) : Stated s m (w.closeStatement p none).2 := by
  cases hm : w.n.mt.meters.find? (fun m => m.part = p) with
  | none => rwa [closeStatement_none hm]
  | some x =>
    obtain ⟨b, hf, hl, hb, hy⟩ := h
    refine ⟨b, ?_, hl, hb, fun i hi => ?_⟩
    · rw [find_closeStatement w hm, hf, Option.map_some, if_neg]
      exact fun e => hp e.symm
    · rw [byteAt_closeStatement hc w hm, if_neg (slots_apart hp _ _ _ hi)]
      exact hy i hi

omit hc in
theorem find_step (h : w.n.mt.meters.find? (fun x => x.part = m.part) = some m) {p : Nat} (hp : p ≠ m.part) :
    (w.closeStatement p none).2.n.mt.meters.find? (fun x => x.part = m.part) = some m := by
  cases hm : w.n.mt.meters.find? (fun m => m.part = p) with
  | none => rwa [closeStatement_none hm]
  | some x =>
    rw [find_closeStatement w hm, h, Option.map_some, if_neg]
    exact fun e => hp e.symm

theorem stated_of_close (hg : Closing s w) (h : w.n.mt.meters.find? (fun x => x.part = m.part) = some m) :
    Stated s m (w.closeStatement m.part none).2 := by
  refine ⟨signed w m, ?_, signed_length w m, (signed_body w m).trans (hg.body m), fun i hi => ?_⟩
  · have hk : w.get Reg.MTR_KEEP = rd s Reg.MTR_KEEP := Fields.get_of_fields0 hg.fields (by decide)
    rw [find_closeStatement w h, h, Option.map_some, if_pos rfl, hk]
    unfold stated Work.now
    rw [hg.tk]
    rfl
  · rw [byteAt_closeStatement hc w h, if_pos (by omega), Nat.add_sub_cancel_left]
    simp [at0]

theorem closing_foldl (l : List Nat) (h : Closing s w) : Closing s (l.foldl (fun w p => (w.closeStatement p none).2) w) := by
  induction l generalizing w with
  | nil => exact h
  | cons p l ih => exact ih (h.step p)

theorem stated_foldl (l : List Nat) (hm : m.part ∉ l) (h : Stated s m w) : Stated s m (l.foldl (fun w p => (w.closeStatement p none).2) w) := by
  induction l generalizing w with
  | nil => exact h
  | cons p l ih =>
    rw [List.mem_cons, not_or] at hm
    exact ih hm.2 (h.step hc (Ne.symm hm.1))

/-- Every partition that the list names once has its statement closed. -/
theorem statements_stated (l : List Nat) (hn : l.Nodup) (hm : m.part ∈ l) (hg : Closing s w)
    (h : w.n.mt.meters.find? (fun x => x.part = m.part) = some m) : Stated s m (l.foldl (fun w p => (w.closeStatement p none).2) w) := by
  induction l generalizing w with
  | nil => cases hm
  | cons p l ih =>
    rw [List.nodup_cons] at hn
    by_cases hp : p = m.part
    · subst hp
      exact stated_foldl hc l hn.1 (stated_of_close hc hg h)
    · exact ih hn.2 ((List.mem_cons.1 hm).resolve_left (Ne.symm hp)) (hg.step p) (find_step h hp)

end

/-- The partitions whose statements a boundary closes (R480, R482). -/
def closing (w : Work) : List Nat := (w.n.mt.meters.filter fun m => w.live m.part && !m.fenced && (m.final).isNone).map (·.part)

theorem exec_close_on {s : State} (ha : s.alive = true) (h : rd s Reg.MTR_EN ≠ 0 ∧ s.node.tk.now.toNat % s.node.mt.period = 0 ∧
    s.node.mt.lastClose ≠ some s.node.tk.now) : exec .usageStatementClose s = .next (s.close
      { (closing s.view).foldl (fun w p => (w.closeStatement p none).2) s.view with
        n.mt.period := ((closing s.view).foldl (fun w p => (w.closeStatement p none).2) s.view).get Reg.MTR_PERIOD
        n.mt.lastClose := some ((closing s.view).foldl (fun w p => (w.closeStatement p none).2) s.view).now }) := by
  rw [exec_close, execUsageStatementClose, run_alive _ ha]
  dsimp only
  rw [if_neg]
  · rfl
  · rintro (he | hn | hl)
    · rw [flag_eq (rfl : rd s Reg.MTR_EN = _)] at he
      exact h.1 (by simpa using he)
    · exact hn h.2.1
    · exact h.2.2 hl

theorem find_of_nodup {l : List Meter16} (hn : (l.map (·.part)).Nodup) {m : Meter16} (hm : m ∈ l) : l.find? (fun x => x.part = m.part) = some m := by
  induction l with
  | nil => cases hm
  | cons y l ih =>
    rw [List.map_cons, List.nodup_cons] at hn
    rcases List.mem_cons.1 hm with rfl | hm
    · exact List.find?_cons_of_pos (by simp)
    · rw [List.find?_cons_of_neg]
      · exact ih hn.2 hm
      · rw [decide_eq_true_eq]
        exact fun e => hn.1 (e ▸ List.mem_map_of_mem hm)

/-- A close names, signs, chains and stores the statement of each Live partition. -/
theorem closed_shows {s : State} (hc : Canonical s) (ha : s.alive = true) (m : Meter16) (keep : Nat)
    (h : rd s Reg.MTR_EN ≠ 0 ∧ s.node.tk.now.toNat % s.node.mt.period = 0 ∧ s.node.mt.lastClose ≠ some s.node.tk.now)
    (hk : keep = rd s Reg.MTR_KEEP ∧ 1 ≤ keep ∧ keep ≤ 16) (hn : (s.node.mt.meters.map (·.part)).Nodup)
    (hm : m ∈ s.node.mt.meters) (hf : m.fenced = false) (hx : m.final = none) (hl : s.view.live m.part = true) :
    ∃ t, exec .usageStatementClose s = .next t ∧
      (∃ x ∈ t.node.mt.meters, x.part = m.part ∧ x.number = m.number + 1 ∧ x.prev = m.cnt ∧ x.cnt = m.cnt ∧ x.from_ = s.node.tk.now ∧ x.final = none ∧
        ∃ b : Bytes, (m.number, b) ∈ x.kept ∧ b.length = 2644 ∧ b.take 224 = s.view.statementBody m none ∧ x.digest = sha3v b ∧
        ∀ i : Nat, i < 2644 → byteAt t (slotOf m.part m.number + i) = at0 b i) ∧
      t.node.mt.period = rd s Reg.MTR_PERIOD ∧ t.node.mt.lastClose = some s.node.tk.now ∧ t.node.st = s.node.st := by
  have hmem : m.part ∈ closing s.view := List.mem_map_of_mem (List.mem_filter.2 ⟨hm, by simp [hl, hf, hx]⟩)
  have hnd : (closing s.view).Nodup := hn.sublist (List.filter_sublist.map _)
  have hg := closing_foldl hc (closing s.view) (Closing.view s)
  obtain ⟨b, hfind, hlen, hbody, hbytes⟩ := statements_stated hc _ hnd hmem (Closing.view s) (find_of_nodup hn hm)
  refine ⟨_, exec_close_on ha h, ⟨_, List.mem_of_find?_eq_some hfind, rfl, rfl, rfl, rfl, rfl, hx, b, ?_, hlen, hbody, rfl, hbytes⟩,
    Fields.get_of_fields0 hg.fields (by decide), congrArg (fun x : TickBox => some x.now) hg.tk, hg.st⟩
  refine List.mem_filter.2 ⟨List.mem_append_right _ List.mem_cons_self, ?_⟩
  rw [decide_eq_true_eq]
  omega

/-- Settles O51, clause by clause. -/
theorem usageIsSampledAndStated : Obligations.UsageIsSampledAndStated := by
  unfold Obligations.UsageIsSampledAndStated
  refine ⟨fun s n m ha ⟨hn, h1, h2, h3⟩ ⟨hm, hf, hl⟩ => ?_, fun s n ha hn h => ?_, fun s m keep ha hc h hk ⟨hn, hm, hf, hx, hl⟩ =>
    closed_shows hc ha m keep h hk hn hm hf hx hl, fun s m => ⟨body_length _ _ _, body_fields s.view m⟩⟩
  · subst hn
    refine ⟨_, exec_sample_on ha ⟨h1, h2, h3⟩, ⟨charged s.view (rd s Reg.MTR_SAMPLE) m, ?_, rfl, rfl, rfl, ?_, ?_, rfl, ?_, rfl, ?_, fun i hi hne => ?_⟩,
      rfl, rfl, rfl⟩
    · exact List.mem_map.2 ⟨m, hm, by simp [hf]⟩
    all_goals rw [charged_cnt]
    · rw [gain_other _ _ (by omega), gain_other _ _ (by omega), gain_other _ _ (by omega), gain_same _ _ _ (by omega)]
    · rw [gain_other _ _ (by omega), gain_other _ _ (by omega), gain_same _ _ _ (by simp [hl]), gain_other _ _ (by omega)]
    · rw [gain_other _ _ (by omega), gain_same _ _ _ (by simp [hl]), gain_other _ _ (by omega), gain_other _ _ (by omega)]
    · rw [gain_same _ _ _ (by simp [hl]), gain_other _ _ (by omega), gain_other _ _ (by omega), gain_other _ _ (by omega)]
      rfl
    · simp only [List.mem_cons, List.not_mem_nil, or_false, not_or] at hne
      rw [gain_other _ _ (by omega), gain_other _ _ (by omega), gain_other _ _ (by omega), gain_other _ _ (by omega)]
  · subst hn
    exact exec_sample_off ha h

end Sys2Proof.Usage
end

section
/-!
Host queues: their mailbox (R312, R313), their doorbells (R314, R315) and their signals (R331).
-/

namespace Sys2Proof.Queues

open Sys2Proof.Machine Sys2Proof.Safety Sys2Proof.Laws Sys2Proof.Resets Sys2Proof.Entering Sys2Proof.Writes Sys2Proof.Fields Sys2Proof.Assoc
open Sys2Proof.Stages (get_of_shows)

theorem exec_enable (s : State) (wr : RegWr) : exec (.queueEnable wr) s = execQueueEnable wr s := by simp only [exec]
theorem exec_disable (s : State) (wr : RegWr) : exec (.queueDisable wr) s = execQueueDisable wr s := by simp only [exec]
theorem exec_reset (s : State) (wr : RegWr) : exec (.queueReset wr) s = execQueueReset wr s := by simp only [exec]
theorem exec_drained (s : State) (q : Nat) : exec (.queueDrained q) s = execQueueDrained q s := by simp only [exec]
theorem exec_sqTail (s : State) (fn : Fn) (q v : Nat) : exec (.sqTail fn q v) s = execSqTail fn q v s := by simp only [exec]
theorem exec_cqHead (s : State) (fn : Fn) (q v : Nat) : exec (.cqHead fn q v) s = execCqHead fn q v s := by simp only [exec]
theorem exec_coal (s : State) (q : Nat) : exec (.coalNsExpired q) s = execCoalNsExpired q s := by simp only [exec]

/-! ## A queue set is the queue read -/

@[simp] theorem queueOf_setQueue (w : Work) (q : Nat) (x : Queue) : (w.setQueue q x).queueOf q = x := by
  simp [Work.queueOf, Work.setQueue]

theorem queueOf_setQueue_ne (w : Work) {q p : Nat} (x : Queue) (h : p ≠ q) : (w.setQueue q x).queueOf p = w.queueOf p := by
  simp [Work.queueOf, Work.setQueue, lookupN_insertN_ne _ _ h]

theorem queueOf_of_queues {w v : Work} (h : v.n.hq.queues = w.n.hq.queues) (q : Nat) : v.queueOf q = w.queueOf q := by
  unfold Work.queueOf
  rw [h]

/-! ## The mailbox -/

/-- The fields that the shared write of a register writes. -/
theorem fields_writeFields {F : List Fld} (w : Work) (wr : RegWr) (b : Block) (inst idx off : Nat) (h : regFields b off ⊆ F) :
    fields F (w.writeFields wr b inst idx off) = fields F w := by
  unfold Work.writeFields
  suffices ∀ (l : List Fld) (v : Work), l ⊆ F → fields F v = fields F w → fields F (l.foldl _ v) = fields F w from this _ w h rfl
  intro l
  induction l with
  | nil => exact fun v _ hv => hv
  | cons f l ih =>
    intro v hl hv
    rw [List.foldl_cons]
    refine ih _ (fun g hg => hl (List.mem_cons_of_mem _ hg)) (Eq.trans ?_ hv)
    have hs : fields F (if fieldEnabled wr f then v.set f (v.merged wr inst idx f) (storeInst b inst off) idx else v) = fields F v :=
      fields_of_ite (fields_set v f _ _ _ (hl List.mem_cons_self)) rfl
    simp only
    cases f.acc <;> first | exact hs | rfl

/-- The fields of the mailbox's command register, and its READY. -/
def mailFlds : List Fld := [Reg.QUE_OP, Reg.QUE_SEQ_104, Reg.QUE_QUEUE_104, Reg.QUE_READY]

/-- The fields that a mailbox command writes. -/
def answerFlds : List Fld := [Reg.QUE_STATUS, Reg.QUE_DETAIL, Reg.QUE_SEQ_108] ++ mailFlds

/-- The node as a mailbox command finds it: the command register written, READY 0. -/
def mailTaken (s : State) (wr : RegWr) (inst idx fn : Nat) : Work := (s.view.writeFields wr .QUE inst idx 0x104).set Reg.QUE_READY 0 0 fn

theorem regFields_mail : regFields .QUE 0x104 ⊆ mailFlds := by decide

section
variable {s : State} {wr : RegWr} {inst idx fn : Nat}

theorem mailTaken_n : (mailTaken s wr inst idx fn).n = s.node := writeFields_n ..

theorem mailTaken_fields : fields mailFlds (mailTaken s wr inst idx fn) = fields mailFlds s.view := by
  rw [mailTaken, fields_set _ _ _ _ _ (by decide)]
  exact fields_writeFields _ _ _ _ _ _ regFields_mail

theorem mailTaken_wr : (mailTaken s wr inst idx fn).wr = [] := writeFields_wr s.view ..
theorem mailTaken_wiped : (mailTaken s wr inst idx fn).wiped = false := writeFields_wiped s.view ..

theorem mailTaken_get {g : Fld} (h : Clear mailFlds g = true) (i j : Nat) : (mailTaken s wr inst idx fn).get g i j = rd s g i j :=
  get_of_fields mailTaken_fields h i j

/-- The registers of the queues' own pages too. -/
theorem mailTaken_get_apart {g : Fld} (h : mailFlds.all (Apart · g) = true) (i j : Nat) : (mailTaken s wr inst idx fn).get g i j = rd s g i j := by
  have hk := apart_all h i j
  have h1 : SameAt (g.key i j) s.view (s.view.writeFields wr .QUE inst idx 0x104) :=
    sameAt_writeFields s.view wr .QUE inst idx 0x104 fun f hf _ => .inl (hk f (regFields_mail hf) _ _)
  exact (h1.set Reg.QUE_READY 0 0 fn (hk _ (by decide) _ _)).get (writeFields_regs s.view wr .QUE inst idx 0x104)

theorem ready_taken (n : Node) : Shows { mailTaken s wr inst idx fn with n := n } Reg.QUE_READY 0 0 fn := shows_set ..

theorem queuePart_of_get {w v : Work} (h : ∀ p, v.get Reg.QUE_BASE 0 p = w.get Reg.QUE_BASE 0 p ∧ v.get Reg.QUE_COUNT 0 p = w.get Reg.QUE_COUNT 0 p)
    (q : Nat) : v.queuePart q = w.queuePart q := by
  unfold Work.queuePart
  simp only [h]

theorem mailTaken_queuePart (q : Nat) : (mailTaken s wr inst idx fn).queuePart q = s.view.queuePart q :=
  queuePart_of_get (fun p => ⟨mailTaken_get (by decide) 0 p, mailTaken_get (by decide) 0 p⟩) q

theorem mailTaken_queueOf (q : Nat) : (mailTaken s wr inst idx fn).queueOf q = s.view.queueOf q := by
  unfold Work.queueOf
  rw [mailTaken_n]
  rfl

/-- A mailbox command that its function may give acts on its queue. -/
theorem mailbox_acts {op : Nat} (act : Work → Nat → Nat → Nat → Work) (hl : Lands s wr .QUE 0x104 inst idx) (hfn : fn = fnNum wr.fn)
    (hop : s.view.merged wr 0 fn Reg.QUE_OP = op) {q seq : Nat} (hq : q = (s.view.busWrite wr).w.merged wr inst idx Reg.QUE_QUEUE_104)
    (hs : seq = (s.view.busWrite wr).w.merged wr inst idx Reg.QUE_SEQ_104) (hr : rd s Reg.QUE_READY 0 fn ≠ 0)
    (hp : s.view.queuePart q = some fn) : s.view.mailbox wr op act = act (mailTaken s wr inst idx fn) fn q seq := by
  have hw : (s.view.busWrite wr).w = s.view.writeFields wr .QUE inst idx 0x104 := by
    obtain ⟨-, -, -, -, hb⟩ := busWrite_taken hl.2
    rw [hb]
  have hready : (s.view.writeFields wr .QUE inst idx 0x104).flag Reg.QUE_READY 0 fn = true := by
    have h : (s.view.writeFields wr .QUE inst idx 0x104).get Reg.QUE_READY 0 fn = rd s Reg.QUE_READY 0 fn :=
      get_of_fields (fields_writeFields (F := [Reg.QUE_OP, Reg.QUE_SEQ_104, Reg.QUE_QUEUE_104]) s.view _ _ _ _ _ (by decide)) (by decide) 0 fn
    rw [Work.flag, h, bne_iff_ne]
    exact hr
  have hpart : ((s.view.writeFields wr .QUE inst idx 0x104).set Reg.QUE_READY 0 0 fn).queuePart q = some fn := (mailTaken_queuePart q).trans hp
  rw [hw] at hq hs
  unfold Work.mailbox
  dsimp only
  rw [← hfn, if_neg (by simp [hop]), regAction_lands hl _ hl.1, ← hq, ← hs, hready]
  simp only [Bool.not_true, Bool.false_eq_true, if_false, hpart, ne_eq, not_true_eq_false]
  rfl

end

/-- What an answer of the mailbox shows. -/
theorem mailAnswer_shows {s : State} (hc : Canonical s) (w : Work) (fn st d seq : Nat) :
    rd (s.close (w.mailAnswer fn st d seq)) Reg.QUE_READY 0 fn = 1 ∧ rd (s.close (w.mailAnswer fn st d seq)) Reg.QUE_STATUS 0 fn = st % 2 ^ 8 ∧
    rd (s.close (w.mailAnswer fn st d seq)) Reg.QUE_SEQ_108 0 fn = seq % 2 ^ Reg.QUE_SEQ_108.width := by
  unfold Work.mailAnswer
  refine ⟨(shows_set _ _ _ _ _).rd hc.1, ((((shows_set _ _ _ _ _).set _ _ _ _ ?_).set _ _ _ _ ?_).set _ _ _ _ ?_).rd hc.1,
    ((shows_set _ _ _ _ _).set _ _ _ _ ?_).rd hc.1⟩ <;> exact key_ne_of_apart (by decide) _ _ _ _

@[simp] theorem mailAnswer_n (w : Work) (fn st d seq : Nat) : (w.mailAnswer fn st d seq).n = w.n := rfl
@[simp] theorem mailAnswer_wr (w : Work) (fn st d seq : Nat) : (w.mailAnswer fn st d seq).wr = w.wr := rfl
@[simp] theorem mailAnswer_wiped (w : Work) (fn st d seq : Nat) : (w.mailAnswer fn st d seq).wiped = w.wiped := rfl

section
variable {s : State} {wr : RegWr} {inst idx q seq fn : Nat} (ha : s.alive = true) (hl : Lands s wr .QUE 0x104 inst idx) (hfn : fn = fnNum wr.fn)
  (hq : q = (s.view.busWrite wr).w.merged wr inst idx Reg.QUE_QUEUE_104) (hs : seq = (s.view.busWrite wr).w.merged wr inst idx Reg.QUE_SEQ_104)
  (hr : rd s Reg.QUE_READY 0 fn ≠ 0) (hp : s.view.queuePart q = some fn)
include ha hl hfn hq hs hr hp

theorem enable_run (hop : s.view.merged wr 0 fn Reg.QUE_OP = 1) (hx : (s.view.queueOf q).state = .disabled) (hv : s.view.live fn = true)
    (hsz : rd s Reg.QCFG_SQ_LOG2 q ≤ rd s Reg.QCFG_CQ_LOG2 q) : exec (.queueEnable wr) s = .next (s.close
      (((mailTaken s wr inst idx fn).setQueue q { s.view.queueOf q with
        state := .enabled, tail := 0, fetch := 0, cqHead := 0, cqProd := 0, unconsumed := 0, phase := true
        count := 0, failCount := 0, seq := 0, entries := [], recvs := [], unsignalled := 0, ending := none }).mailAnswer fn stOK 0 seq)) := by
  have hlive : (mailTaken s wr inst idx fn).live fn = true := by
    rw [← hv]
    unfold Work.live Work.partState
    rw [mailTaken_get (by decide)]
    rfl
  rw [exec_enable, execQueueEnable, run_alive _ ha, mailbox_acts _ hl hfn hop hq hs hr hp]
  simp only [mailTaken_queueOf, hx, hlive, mailTaken_get_apart (show mailFlds.all (Apart · Reg.QCFG_SQ_LOG2) = true by decide),
    mailTaken_get_apart (show mailFlds.all (Apart · Reg.QCFG_CQ_LOG2) = true by decide), ne_eq, not_true_eq_false, Bool.not_true, Bool.false_eq_true,
    Nat.not_lt.2 hsz, or_self, if_false]

theorem disable_run (hop : s.view.merged wr 0 fn Reg.QUE_OP = 2) (hx : (s.view.queueOf q).state = .enabled) :
    exec (.queueDisable wr) s = .next (s.close ((mailTaken s wr inst idx fn).setQueue q
      { (s.view.queueOf q).stopped with state := .draining, ending := some (2, seq) })) := by
  rw [exec_disable, execQueueDisable, run_alive _ ha, mailbox_acts _ hl hfn hop hq hs hr hp]
  simp only [mailTaken_queueOf, hx, ne_eq, not_true_eq_false, if_false]

theorem reset_run (hop : s.view.merged wr 0 fn Reg.QUE_OP = 3) : exec (.queueReset wr) s = .next (s.close
    (if (s.view.queueOf q).state = .disabled then (mailTaken s wr inst idx fn).mailAnswer fn stOK 0 seq
     else (mailTaken s wr inst idx fn).setQueue q { (s.view.queueOf q).reset with ending := some (3, seq) })) := by
  rw [exec_reset, execQueueReset, run_alive _ ha, mailbox_acts _ hl hfn hop hq hs hr hp]
  simp only [mailTaken_queueOf]

end

theorem drained_run {s : State} {q op seq p : Nat} (ha : s.alive = true) (hx : (s.view.queueOf q).state = .draining)
    (he : (s.view.queueOf q).entries = []) (hr : (s.view.queueOf q).recvs = []) (hg : (s.view.queueOf q).ending = some (op, seq))
    (hp : s.view.queuePart q = some p) : exec (.queueDrained q) s = .next (s.close
      ((s.view.setQueue q { s.view.queueOf q with state := .disabled, ending := none }).mailAnswer p stOK 0 seq)) := by
  have hp' : ∀ x, (s.view.setQueue q x).queuePart q = some p := fun _ => hp
  rw [exec_drained, execQueueDrained, run_alive _ ha]
  simp only [hx, he, hr, hg, hp', ne_eq, not_true_eq_false, List.isEmpty_nil, Bool.not_true, Bool.false_eq_true, or_self, if_false]

/-! ## Doorbells and the signal -/

theorem doorbell_own {w : Work} {fn : Fn} {q : Nat} (act : Work → Work) (h : w.fnExists fn = true ∧ q < 4096 ∧ w.queuePart q = some (fnNum fn)) :
    w.doorbell fn q act = act w := by
  obtain ⟨hx, hq, hp⟩ := h
  unfold Work.doorbell
  rw [if_neg (by simp [hx, hq]), if_pos hp]

theorem doorbell_foreign {w : Work} {fn : Fn} {q : Nat} (act : Work → Work) (h : w.fnExists fn = true ∧ q < 4096 ∧ w.queuePart q ≠ some (fnNum fn)) :
    w.doorbell fn q act = w.count Reg.QUE_FOREIGN := by
  obtain ⟨hx, hq, hp⟩ := h
  unfold Work.doorbell
  rw [if_neg (by simp [hx, hq]), if_neg hp]

theorem sqTail_run {s : State} {fn : Fn} {q value : Nat} (ha : s.alive = true)
    (h : s.view.fnExists fn = true ∧ q < 4096 ∧ s.view.queuePart q = some (fnNum fn))
    (hv : value < 2 ^ rd s Reg.QCFG_SQ_LOG2 q) (ht : value ≠ (s.view.queueOf q).tail)
    (hn : ((s.view.queueOf q).tail + 2 ^ rd s Reg.QCFG_SQ_LOG2 q - (s.view.queueOf q).fetch) % 2 ^ rd s Reg.QCFG_SQ_LOG2 q ≤
      (value + 2 ^ rd s Reg.QCFG_SQ_LOG2 q - (s.view.queueOf q).fetch) % 2 ^ rd s Reg.QCFG_SQ_LOG2 q) :
    exec (.sqTail fn q value) s = .next (s.close (s.view.setQueue q { s.view.queueOf q with tail := value })) := by
  rw [exec_sqTail, execSqTail, run_alive _ ha, doorbell_own _ h]
  unfold rd at hv hn
  dsimp only
  rw [if_neg (Nat.not_le.2 hv), if_neg ht, if_neg (Nat.not_lt.2 hn)]

/-- The queue whose host has consumed completion entries. -/
def consumed (s : State) (q value : Nat) : Queue :=
  { s.view.queueOf q with
    cqHead := value
    unconsumed := (s.view.queueOf q).unconsumed - (value + 2 ^ rd s Reg.QCFG_CQ_LOG2 q - (s.view.queueOf q).cqHead) % 2 ^ rd s Reg.QCFG_CQ_LOG2 q }

theorem cqHead_run {s : State} {fn : Fn} {q value : Nat} (ha : s.alive = true)
    (h : s.view.fnExists fn = true ∧ q < 4096 ∧ s.view.queuePart q = some (fnNum fn))
    (hv : value < 2 ^ rd s Reg.QCFG_CQ_LOG2 q) (ht : value ≠ (s.view.queueOf q).cqHead)
    (hn : (value + 2 ^ rd s Reg.QCFG_CQ_LOG2 q - (s.view.queueOf q).cqHead) % 2 ^ rd s Reg.QCFG_CQ_LOG2 q ≤ (s.view.queueOf q).unconsumed) :
    exec (.cqHead fn q value) s = .next (s.close (Work.startEntries ((s.view.setQueue q (consumed s q value)).unstarted + 1)
      (s.view.setQueue q (consumed s q value)))) := by
  rw [exec_cqHead, execCqHead, run_alive _ ha, doorbell_own _ h]
  unfold rd at hv hn
  dsimp only
  rw [if_neg (Nat.not_le.2 hv), if_neg ht, if_neg (Nat.not_lt.2 hn)]
  rfl

/-- The head of a completion queue (R315). -/
def headOf (q : Nat) (w : Work) : Nat := (w.queueOf q).cqHead

theorem headOf_setQueue (q : Nat) (w : Work) {p : Nat} {x : Queue} (h : x.cqHead = (w.queueOf p).cqHead) : headOf q (w.setQueue p x) = headOf q w := by
  unfold headOf
  by_cases hq : q = p
  · rw [hq, queueOf_setQueue, h]
  · rw [queueOf_setQueue_ne w x hq]

theorem headOf_of_queues (q : Nat) {w v : Work} (h : v.n.hq.queues = w.n.hq.queues) : headOf q v = headOf q w :=
  congrArg Queue.cqHead (queueOf_of_queues h q)

@[simp] theorem msixSend_queues (w : Work) (fn v : Nat) : (w.msixSend fn v).n.hq.queues = w.n.hq.queues := by
  unfold Work.msixSend
  dsimp only
  split
  · rfl
  · split <;> rfl

theorem queueSignal_headOf (q : Nat) (w : Work) (p : Nat) : headOf q (w.queueSignal p) = headOf q w := by
  unfold Work.queueSignal
  dsimp only
  split
  · exact (headOf_of_queues q (msixSend_queues ..)).trans (headOf_setQueue q w rfl)
  · exact headOf_setQueue q w rfl

@[simp] theorem hostStore_queues (w : Work) (fn a : Nat) (b : Bytes) (r : Bool) : (w.hostStore fn a b r).n.hq.queues = w.n.hq.queues := by
  unfold Work.hostStore
  split <;> rfl

@[simp] theorem pcieOut_queues (w : Work) (p : Option Nat) (len : Nat) : (w.pcieOut p len).n.hq.queues = w.n.hq.queues := by
  unfold Work.pcieOut
  dsimp only
  split
  · unfold Work.meter
    split <;> rfl
  · rfl

/-- A completion entry written to its queue, and the queue past it (R315, R316). -/
def cqPut (w : Work) (q : Nat) (bs : Bytes) : Work :=
  ((w.hostStore (w.queueFn q) (w.qcfg64 q Reg.QCFG_CQ_BASE_LO Reg.QCFG_CQ_BASE_HI + (w.queueOf q).cqProd * 16) bs).pcieOut (w.queuePart q) 16).setQueue q
    { w.queueOf q with
      cqProd := ((w.queueOf q).cqProd + 1) % 2 ^ w.get Reg.QCFG_CQ_LOG2 q
      phase := xor (w.queueOf q).phase (decide ((w.queueOf q).cqProd + 1 = 2 ^ w.get Reg.QCFG_CQ_LOG2 q))
      unconsumed := (w.queueOf q).unconsumed + 1, unsignalled := (w.queueOf q).unsignalled + 1 }

theorem cqProduce_eq (w : Work) (q tag a0 a1 si st fl : Nat) (irq : Bool) : ∃ bs, w.cqProduce q tag a0 a1 si st fl irq =
    if irq then (cqPut w q bs).queueSignal q
    else if (cqPut w q bs).flag Reg.QCFG_IRQ_EN q ∧ (cqPut w q bs).get Reg.QCFG_COAL_COUNT q ≤ (w.queueOf q).unsignalled + 1 then
      (cqPut w q bs).queueSignal q
    else cqPut w q bs := ⟨_, rfl⟩

theorem cqPut_headOf (q : Nat) (w : Work) (p : Nat) (bs : Bytes) : headOf q (cqPut w p bs) = headOf q w := by
  unfold cqPut
  generalize w.qcfg64 p Reg.QCFG_CQ_BASE_LO Reg.QCFG_CQ_BASE_HI + (w.queueOf p).cqProd * 16 = a
  have hv := (pcieOut_queues (w.hostStore (w.queueFn p) a bs) (w.queuePart p) 16).trans (hostStore_queues w (w.queueFn p) a bs false)
  refine (headOf_setQueue q _ ?_).trans (headOf_of_queues q hv)
  exact (congrArg Queue.cqHead (queueOf_of_queues hv p)).symm

theorem cqProduce_headOf (q : Nat) (w : Work) (p tag a0 a1 si st fl : Nat) (irq : Bool) :
    headOf q (w.cqProduce p tag a0 a1 si st fl irq) = headOf q w := by
  obtain ⟨bs, h⟩ := cqProduce_eq w p tag a0 a1 si st fl irq
  rw [h, apply_ite (headOf q), apply_ite (headOf q), queueSignal_headOf, cqPut_headOf, ite_self, ite_self]

theorem endEntry_headOf (q : Nat) (w : Work) (p e st a0 a1 fl : Nat) (hd : Option Nat) : headOf q (w.endEntry p e st a0 a1 fl hd) = headOf q w := by
  unfold Work.endEntry
  dsimp only
  split
  · rfl
  · split
    · exact headOf_setQueue q w rfl
    · rw [cqProduce_headOf]
      refine headOf_setQueue q w ?_
      (repeat' split) <;> rfl

theorem startEntries_headOf (q fuel : Nat) (w : Work) : headOf q (Work.startEntries fuel w) = headOf q w := by
  induction fuel generalizing w with
  | zero => rfl
  | succ fuel ih =>
    rw [Work.startEntries]
    split
    · rfl
    · split
      · exact (ih _).trans (endEntry_headOf q w ..)
      · exact (ih _).trans (headOf_setQueue q w rfl)

/-! ## Nothing starts where everything has started -/

theorem unstarted_eq_zero (l : List (Nat × Queue)) (n : Nat) :
    l.foldl (fun n e => n + (e.2.entries.filter fun h => !h.started).length) n = 0 ↔ n = 0 ∧ ∀ e ∈ l, ∀ h ∈ e.2.entries, h.started = true := by
  induction l generalizing n with
  | nil => simp
  | cons e l ih =>
    rw [List.foldl_cons, ih, Nat.add_eq_zero_iff, List.length_eq_zero_iff, List.filter_eq_nil_iff]
    simp [and_assoc]

theorem mem_insertN {α : Type} {k : Nat} {v : α} {l : List (Nat × α)} {e : Nat × α} (h : e ∈ insertN k v l) : e = (k, v) ∨ e ∈ l := by
  induction l with
  | nil => exact .inl (List.mem_singleton.1 h)
  | cons d l ih =>
    unfold insertN at h
    split_ifs at h
    · exact (List.mem_cons.1 h).imp_right (List.mem_cons_of_mem _)
    · exact List.mem_cons.1 h
    · rcases List.mem_cons.1 h with rfl | h
      · exact .inr List.mem_cons_self
      · exact (ih h).imp_right (List.mem_cons_of_mem _)

theorem queueOf_entries_started {w : Work} (h : ∀ e ∈ w.n.hq.queues, ∀ x ∈ e.2.entries, x.started = true) (q : Nat) :
    ∀ x ∈ (w.queueOf q).entries, x.started = true := by
  unfold Work.queueOf
  cases hq : lookupN q w.n.hq.queues with
  | none => exact fun x hx => by cases hx
  | some y => exact h _ (mem_of_lookupN hq)

theorem startEntries_none {w : Work} (h : ∀ e ∈ w.n.hq.queues, ∀ x ∈ e.2.entries, x.started = true) (fuel : Nat) : Work.startEntries fuel w = w := by
  cases fuel with
  | zero => rfl
  | succ fuel =>
    have hn : w.nextStart = none := by
      unfold Work.nextStart
      rw [List.findSome?_eq_none_iff]
      intro e he
      have hf : e.2.entries.find? (fun x => !x.started) = none := List.find?_eq_none.2 fun x hx => by simp [h e he x hx]
      rw [hf]
    rw [Work.startEntries, hn]

theorem cqHead_quiet {s : State} (q value fuel : Nat) (h : s.view.unstarted = 0) :
    Work.startEntries fuel (s.view.setQueue q (consumed s q value)) = s.view.setQueue q (consumed s q value) := by
  have hs := ((unstarted_eq_zero s.view.n.hq.queues 0).1 h).2
  refine startEntries_none (fun e he => ?_) fuel
  rcases mem_insertN he with rfl | he
  · exact queueOf_entries_started hs q
  · exact hs e he

theorem msixSend_still (w : Work) (fn v : Nat) : (w.msixSend fn v).rw = w.rw ∧ (w.msixSend fn v).wr = w.wr ∧ (w.msixSend fn v).wiped = w.wiped := by
  unfold Work.msixSend
  dsimp only
  split
  · exact ⟨rfl, rfl, rfl⟩
  · split <;> exact ⟨rfl, rfl, rfl⟩

theorem queueSignal_shows (w : Work) (q : Nat) : (w.queueSignal q).queueOf q = { w.queueOf q with unsignalled := 0 } ∧
    (w.queueSignal q).rw = w.rw ∧ (w.queueSignal q).wr = w.wr ∧ (w.queueSignal q).wiped = w.wiped := by
  unfold Work.queueSignal
  dsimp only
  split
  · exact ⟨(queueOf_of_queues (msixSend_queues ..) q).trans (queueOf_setQueue ..), msixSend_still ..⟩
  · exact ⟨queueOf_setQueue .., rfl, rfl, rfl⟩

theorem close_regs_quiet (s : State) (w : Work) (h : w.rw = []) (hw : w.wiped = false) : (s.close w).regs = s.regs := by
  simp [close_regs, h, hw]

/-- Settles O38, clause by clause. -/
theorem queuesObeyTheirMailboxAndDoorbells : Obligations.QueuesObeyTheirMailboxAndDoorbells := by
  unfold Obligations.QueuesObeyTheirMailboxAndDoorbells
  refine ⟨fun s wr inst idx q seq fn ha hc hl hfn hop ⟨hq, hs⟩ ⟨hr, hp⟩ ⟨hx, hv⟩ hsz => ?_,
    fun s wr inst idx q seq fn ha hc hl hfn hop ⟨hq, hs⟩ ⟨hr, hp⟩ hx => ?_,
    fun s wr inst idx q seq fn ha hc hl hfn hop ⟨hq, hs⟩ ⟨hr, hp⟩ => ?_,
    fun s q op seq p ha hc ⟨hx, he, hr⟩ ⟨hg, hp⟩ => ?_,
    fun s fn q value size ha h ⟨hsz, hv, ht⟩ hn => ?_, fun s fn q value size ha h ⟨hsz, hv, ht⟩ hn => ?_,
    fun s fn q value ha hc h => ?_, fun s q ha ⟨h1, h2, h3⟩ => ?_⟩
  · refine ⟨_, enable_run ha hl hfn hq hs hr hp hop hx hv hsz, queueOf_setQueue .., ?_⟩
    obtain ⟨h1, h2, h3⟩ := mailAnswer_shows hc ((mailTaken s wr inst idx fn).setQueue q _) fn stOK 0 seq
    exact ⟨h1, h2, h3, close_mem_quiet s _ (mailTaken_wr (fn := fn)) (mailTaken_wiped (fn := fn))⟩
  · exact ⟨_, disable_run ha hl hfn hq hs hr hp hop hx, queueOf_setQueue .., (ready_taken _).rd hc.1,
      close_mem_quiet s _ (mailTaken_wr (fn := fn)) (mailTaken_wiped (fn := fn))⟩
  · refine ⟨_, reset_run ha hl hfn hq hs hr hp hop, ?_⟩
    by_cases hd : (s.view.queueOf q).state = .disabled
    · rw [if_pos hd]
      obtain ⟨h1, h2, -⟩ := mailAnswer_shows hc (mailTaken s wr inst idx fn) fn stOK 0 seq
      exact ⟨fun h => absurd hd h, fun _ => ⟨mailTaken_queueOf (fn := fn) q, h1, h2⟩, close_mem_quiet s _ (mailTaken_wr (fn := fn)) (mailTaken_wiped (fn := fn))⟩
    · rw [if_neg hd]
      refine ⟨fun _ => ?_, fun h => absurd h hd, close_mem_quiet s _ (mailTaken_wr (fn := fn)) (mailTaken_wiped (fn := fn))⟩
      have hq' : (s.close ((mailTaken s wr inst idx fn).setQueue q { (s.view.queueOf q).reset with ending := some (3, seq) })).view.queueOf q =
        { (s.view.queueOf q).reset with ending := some (3, seq) } := queueOf_setQueue ..
      rw [hq']
      unfold Queue.reset
      rw [if_neg hd]
      refine ⟨rfl, rfl, rfl, ?_, (ready_taken _).rd hc.1⟩
      simp [Queue.stopped]
  · refine ⟨_, drained_run ha hx he hr hg hp, ?_, ?_⟩
    · refine (queueOf_setQueue ..).trans ?_
      rw [← hr]
    · obtain ⟨h1, h2, h3⟩ := mailAnswer_shows hc (s.view.setQueue q { s.view.queueOf q with state := .disabled, ending := none }) p stOK 0 seq
      exact ⟨h1, h2, h3, rfl⟩
  · subst hsz
    exact ⟨_, sqTail_run ha h hv ht hn, queueOf_setQueue .., fun k _ hk => lookupN_insertN_ne _ _ hk, rfl, rfl⟩
  · subst hsz
    refine ⟨_, cqHead_run ha h hv ht hn, ?_, fun h0 => ?_⟩
    · exact (startEntries_headOf q _ _).trans (congrArg Queue.cqHead (queueOf_setQueue ..))
    · rw [cqHead_quiet q value _ h0]
      exact ⟨queueOf_setQueue .., rfl, rfl⟩
  · rw [exec_sqTail, execSqTail, run_alive _ ha, doorbell_foreign _ h]
    exact ⟨_, rfl, (shows_count _ _ _ _ _).rd hc.1, rfl, rfl⟩
  · obtain ⟨hq, hrw, hwr, hwi⟩ := queueSignal_shows s.view q
    refine ⟨s.close (s.view.queueSignal q), ?_, hq, close_regs_quiet s _ hrw hwi, close_mem_quiet s _ hwr hwi⟩
    rw [exec_coal, execCoalNsExpired, run_alive _ ha, if_pos ⟨by rw [flag_eq rfl]; simpa using h1, h2, h3⟩]

end Sys2Proof.Queues
end

section
/-!
The end of a host entry (R312, R315, R324): what it leaves of the node, and that the entry is gone from its queue.
-/

namespace Sys2Proof.Entries

open Sys2Proof.Machine Sys2Proof.Safety Sys2Proof.Laws Sys2Proof.Queues Sys2Proof.Fields Sys2Proof.Assoc

/-- The node but for its host queues, what it meters, and what has left it. -/
def inner (w : Work) : Node := { w.n with hq := Node.reset.hq, mt := Node.reset.mt, out := [] }

/-- The registers that the end of a host entry writes. -/
def entryFlds : List Fld := [Reg.PCI_WR_KIB, Reg.QUE_SUPPRESSED]

section
variable (w : Work) {F : List Fld}

@[simp] theorem inner_set (f v i j) : inner (w.set f v i j) = inner w := rfl
@[simp] theorem inner_count (f v i j) : inner (w.count f v i j) = inner w := rfl
@[simp] theorem inner_setQueue (q x) : inner (w.setQueue q x) = inner w := rfl

theorem inner_hostStore (fn a b r) : inner (w.hostStore fn a b r) = inner w := by
  unfold Work.hostStore
  split <;> rfl

theorem inner_meter (p c b) : inner (w.meter p c b) = inner w := by
  unfold Work.meter
  split <;> rfl

theorem inner_pcieOut (p len) : inner (w.pcieOut p len) = inner w := by
  unfold Work.pcieOut
  dsimp only
  split
  · exact inner_meter ..
  · rfl

theorem inner_msixSend (fn v) : inner (w.msixSend fn v) = inner w := by
  unfold Work.msixSend
  dsimp only
  split
  · rfl
  · split <;> rfl

theorem inner_queueSignal (q) : inner (w.queueSignal q) = inner w := by
  unfold Work.queueSignal
  dsimp only
  split
  · exact inner_msixSend ..
  · rfl

theorem inner_cqPut (q bs) : inner (cqPut w q bs) = inner w := (inner_pcieOut ..).trans (inner_hostStore ..)

theorem inner_cqProduce (q tag a0 a1 si st fl irq) : inner (w.cqProduce q tag a0 a1 si st fl irq) = inner w := by
  obtain ⟨bs, h⟩ := cqProduce_eq w q tag a0 a1 si st fl irq
  rw [h, apply_ite inner, apply_ite inner, inner_queueSignal, inner_cqPut, ite_self, ite_self]

theorem inner_endEntry (q e st a0 a1 fl hd) : inner (w.endEntry q e st a0 a1 fl hd) = inner w := by
  unfold Work.endEntry
  dsimp only
  split
  · rfl
  · split
    · rfl
    · exact inner_cqProduce ..

theorem inner_startEntries (fuel) : inner (Work.startEntries fuel w) = inner w := by
  induction fuel generalizing w with
  | zero => rfl
  | succ fuel ih =>
    rw [Work.startEntries]
    split
    · rfl
    · split
      · exact (ih _).trans (inner_endEntry ..)
      · exact ih _

theorem inner_completeEntry (q e st a0 a1 fl hd) : inner (w.completeEntry q e st a0 a1 fl hd) = inner w :=
  (inner_startEntries ..).trans (inner_endEntry ..)

end

/-! ## Registers -/

section
variable (w : Work) {F : List Fld} (hF : entryFlds ⊆ F)
include hF

theorem fields_hostStore (fn a b r) : fields F (w.hostStore fn a b r) = fields F w := by
  unfold Work.hostStore
  split <;> rfl

theorem fields_pcieOut (p len) : fields F (w.pcieOut p len) = fields F w := by
  have h : fields F (w.count Reg.PCI_WR_KIB (kibCount w.n.hq.wrFrac len).1) = fields F w := fields_count _ _ _ _ _ (hF (by decide))
  unfold Work.pcieOut
  dsimp only
  split
  · unfold Work.meter
    split <;> exact h
  · exact h

theorem fields_queueSignal (q) : fields F (w.queueSignal q) = fields F w := by
  have h : ∀ (v : Work) fn vec, fields F (v.msixSend fn vec) = fields F v := by
    intro v fn vec
    unfold Work.msixSend
    dsimp only
    split
    · rfl
    · split <;> rfl
  unfold Work.queueSignal
  dsimp only
  split
  · exact h _ _ _
  · rfl

theorem fields_cqProduce (q tag a0 a1 si st fl irq) : fields F (w.cqProduce q tag a0 a1 si st fl irq) = fields F w := by
  have hp : ∀ bs, fields F (cqPut w q bs) = fields F w := fun bs => (fields_pcieOut _ hF ..).trans (fields_hostStore _ hF ..)
  obtain ⟨bs, h⟩ := cqProduce_eq w q tag a0 a1 si st fl irq
  rw [h, fields_ite, fields_ite, fields_queueSignal _ hF, hp, ite_self, ite_self]

theorem fields_endEntry (q e st a0 a1 fl hd) : fields F (w.endEntry q e st a0 a1 fl hd) = fields F w := by
  unfold Work.endEntry
  dsimp only
  split
  · rfl
  · split
    · exact fields_count _ _ _ _ _ (hF (by decide))
    · exact fields_cqProduce _ hF ..

theorem fields_startEntries (fuel) : fields F (Work.startEntries fuel w) = fields F w := by
  induction fuel generalizing w with
  | zero => rfl
  | succ fuel ih =>
    rw [Work.startEntries]
    split
    · rfl
    · split
      · exact (ih _).trans (fields_endEntry _ hF ..)
      · exact ih _

theorem fields_completeEntry (q e st a0 a1 fl hd) : fields F (w.completeEntry q e st a0 a1 fl hd) = fields F w :=
  (fields_startEntries _ hF ..).trans (fields_endEntry _ hF ..)

end

/-! ## The entry is gone -/

/-- A queue holds no entry of an index. -/
def Gone (q e : Nat) (w : Work) : Prop := ∀ h ∈ (w.queueOf q).entries, h.idx ≠ e

section
variable {q e : Nat} {w : Work}

theorem Gone.entryOf (h : Gone q e w) : (w.queueOf q).entryOf e = none := List.find?_eq_none.2 fun x hx => by simpa using h x hx

theorem gone_of_entryOf (h : (w.queueOf q).entryOf e = none) : Gone q e w := fun x hx => by simpa using List.find?_eq_none.1 h x hx

theorem Gone.setQueue (h : Gone q e w) {v : Work} (hv : v.n.hq.queues = w.n.hq.queues) (p : Nat) {x : Queue}
    (hx : p = q → ∀ y ∈ x.entries, y.idx ≠ e) : Gone q e (v.setQueue p x) := by
  unfold Gone
  by_cases hp : q = p
  · rw [hp, queueOf_setQueue]
    exact hx hp.symm
  · rw [queueOf_setQueue_ne _ _ hp, queueOf_of_queues hv]
    exact h

theorem Gone.of_queues (h : Gone q e w) {v : Work} (hv : v.n.hq.queues = w.n.hq.queues) : Gone q e v := by
  unfold Gone
  rw [queueOf_of_queues hv]
  exact h

theorem Gone.queueSignal (h : Gone q e w) (p : Nat) : Gone q e (w.queueSignal p) := by
  have hs : Gone q e (w.setQueue p { w.queueOf p with unsignalled := 0 }) := h.setQueue rfl p fun hp y hy => h y (hp ▸ hy)
  unfold Work.queueSignal
  dsimp only
  split
  · exact hs.of_queues (Queues.msixSend_queues ..)
  · exact hs

theorem Gone.cqProduce (h : Gone q e w) (p tag a0 a1 si st fl : Nat) (irq : Bool) : Gone q e (w.cqProduce p tag a0 a1 si st fl irq) := by
  obtain ⟨bs, hb⟩ := cqProduce_eq w p tag a0 a1 si st fl irq
  have hp : Gone q e (cqPut w p bs) :=
    h.setQueue ((pcieOut_queues _ _ _).trans (hostStore_queues w _ _ _ _)) p fun hp y hy => h y (hp ▸ hy)
  rw [hb]
  split
  · exact hp.queueSignal p
  · split
    · exact hp.queueSignal p
    · exact hp

theorem Gone.endEntry (h : Gone q e w) (p d st a0 a1 fl : Nat) (hd : Option Nat) : Gone q e (w.endEntry p d st a0 a1 fl hd) := by
  have hf : ∀ x : Queue, x.entries = (w.queueOf p).entries.filter (·.idx != d) → Gone q e (w.setQueue p x) :=
    fun x hx => h.setQueue rfl p fun hp y hy => h y (hp ▸ (List.mem_filter.1 (hx ▸ hy)).1)
  unfold Work.endEntry
  dsimp only
  split
  · exact h
  · split
    · exact hf _ rfl
    · refine Gone.cqProduce (hf _ ?_) _ _ _ _ _ _ _ _
      (repeat' split) <;> rfl

theorem Gone.startEntries (h : Gone q e w) (fuel : Nat) : Gone q e (Work.startEntries fuel w) := by
  induction fuel generalizing w with
  | zero => exact h
  | succ fuel ih =>
    rw [Work.startEntries]
    split
    · exact h
    · split
      · exact ih (h.endEntry _ _ _ _ _ _ _)
      · refine ih (h.setQueue rfl _ fun hp y hy => ?_)
        obtain ⟨z, hz, rfl⟩ := List.mem_map.1 hy
        have := h z (hp ▸ hz)
        split <;> exact this

/-- The end of an entry takes it off its queue. -/
theorem endEntry_gone (w : Work) (q e st a0 a1 fl : Nat) (hd : Option Nat) : Gone q e (w.endEntry q e st a0 a1 fl hd) := by
  have hf : ∀ x : Queue, x.entries = (w.queueOf q).entries.filter (·.idx != e) → Gone q e (w.setQueue q x) := by
    intro x hx y hy
    rw [queueOf_setQueue, hx] at hy
    simpa using (List.mem_filter.1 hy).2
  unfold Work.endEntry
  dsimp only
  split
  next hn =>
    intro y hy
    simpa using List.find?_eq_none.1 hn y (List.mem_append_left _ hy)
  · split
    · exact hf _ rfl
    · refine Gone.cqProduce (hf _ ?_) _ _ _ _ _ _ _ _
      (repeat' split) <;> rfl

theorem completeEntry_gone (w : Work) (q e st a0 a1 fl : Nat) (hd : Option Nat) : Gone q e (w.completeEntry q e st a0 a1 fl hd) :=
  (endEntry_gone w q e st a0 a1 fl hd).startEntries _

end

end Sys2Proof.Entries
end

section
/-!
Remote-key regions: CREATE, ADVANCE, DESTROY and the end of a drain (R295, R296), of entries of a host queue.
-/

namespace Sys2Proof.Regions

open Sys2Proof.Machine Sys2Proof.Safety Sys2Proof.Laws Sys2Proof.Queues Sys2Proof.Entries Sys2Proof.Assoc

theorem exec_create (s : State) (src : Src) (d : Bytes) : exec (.regionCreate src d) s = execRegionCreate src d s := by simp only [exec]
theorem exec_advance (s : State) (src : Src) (d : Bytes) : exec (.regionAdvance src d) s = execRegionAdvance src d s := by simp only [exec]
theorem exec_destroy (s : State) (src : Src) (d : Bytes) : exec (.regionDestroy src d) s = execRegionDestroy src d s := by simp only [exec]
theorem exec_drainDone (s : State) (p i : Nat) : exec (.regionDrainDone p i) s = execRegionDrainDone p i s := by simp only [exec]

/-! ## Control descriptors on a queue -/

theorem control_queue {w : Work} {q e p : Nat} (act : Work → Nat → Work) (hp : w.queuePart q = some p) (hs : w.srcOk (.queue q e) = true) :
    w.control (.queue q e) act = act w p := by
  unfold Work.control
  simp only [hp, hs, if_true]

theorem entryOf_of_srcOk {w : Work} {q e : Nat} (h : w.srcOk (.queue q e) = true) : ∃ x, (w.queueOf q).entryOf e = some x := by
  unfold Work.srcOk at h
  dsimp only at h
  cases hx : (w.queueOf q).entryOf e with
  | none => rw [hx] at h; cases h
  | some x => exact ⟨x, rfl⟩

/-- An entry that leaves its queue's waiting set has arrived. -/
theorem arrive_arrived {w : Work} {q e : Nat} (h : ∃ x, (w.queueOf q).entryOf e = some x) :
    (((w.arrive (.queue q e)).queueOf q).entryOf e).map (·.arrived) = some true := by
  obtain ⟨x, hx⟩ := h
  have hi : ((fun h : HEntry => decide (h.idx = e)) ∘ fun h => if h.idx = e then { h with arrived := true } else h) =
      fun h => decide (h.idx = e) := by
    funext h
    rw [Function.comp_apply, apply_ite HEntry.idx, ite_self]
  have he : x.idx = e := by simpa using List.find?_some hx
  unfold Work.arrive
  dsimp only
  rw [queueOf_setQueue]
  unfold Queue.entryOf at *
  dsimp only
  rw [List.find?_map, hi, hx, Option.map_some, Option.map_some, if_pos he]

/-! ## Drains -/

/-- The node with other regions. -/
def withRegions (w : Work) (l : List (Nat × Region)) : Work := { w with n.tp.regions := l }

/-- A region that begins to drain for an entry. -/
def draining (r : Region) (destroy : Bool) (src : Src) (tag : Nat) : Region :=
  { r with draining := some (destroy, src, tag), gen := if destroy then r.gen else (r.gen + 1) % 256 }

theorem regionDrain_takes {w : Work} {p : Nat} (src : Src) {desc : Bytes} (destroy : Bool) {r : Region} (hp : w.live p = true)
    (hd : desc.length = 32 ∧ zeroAt desc 2 2 = true ∧ zeroAt desc 0x18 8 = true)
    (hr : lookupN (regionKey p (fieldAt desc 4 4)) w.n.tp.regions = some r) (hg : r.gen = fieldAt desc 4 4 / 2 ^ 24 ∧ r.draining = none) :
    w.regionDrain src p desc destroy = (withRegions w (insertN (regionKey p (fieldAt desc 4 4))
      (draining r destroy src (fieldAt desc 0x14 4)) w.n.tp.regions)).arrive src := by
  obtain ⟨h1, h2, h3⟩ := hd
  obtain ⟨g1, g2⟩ := hg
  unfold Work.regionDrain
  simp only [hp, h1, h2, h3, hr, g1, g2, ne_eq, not_true_eq_false, Bool.not_true, Bool.false_eq_true, or_self, if_false, Option.isSome_none, draining]
  rfl

section
variable {s : State} {q e p : Nat} {desc : Bytes} {r : Region} (ha : s.alive = true)
  (hd : desc.length = 32 ∧ zeroAt desc 2 2 = true ∧ zeroAt desc 0x18 8 = true)
  (hr : lookupN (regionKey p (fieldAt desc 4 4)) s.node.tp.regions = some r) (hg : r.gen = fieldAt desc 4 4 / 2 ^ 24 ∧ r.draining = none)
include ha hd hr hg

theorem advance_run (hc : ControlAsks s q e p desc 0x11) : exec (.regionAdvance (.queue q e) desc) s = .next (s.close
    ((withRegions s.view (insertN (regionKey p (fieldAt desc 4 4)) (draining r false (.queue q e) (fieldAt desc 0x14 4)) s.node.tp.regions)).arrive
      (.queue q e))) := by
  obtain ⟨hp, hs, ho, hl⟩ := hc
  rw [exec_advance, execRegionAdvance, run_alive _ ha, control_queue _ hp hs, if_neg (by simp [ho]), regionDrain_takes _ _ hl hd hr hg]
  rfl

theorem destroy_run (hc : ControlAsks s q e p desc 0x12) : exec (.regionDestroy (.queue q e) desc) s = .next (s.close
    ((withRegions s.view (insertN (regionKey p (fieldAt desc 4 4)) (draining r true (.queue q e) (fieldAt desc 0x14 4)) s.node.tp.regions)).arrive
      (.queue q e))) := by
  obtain ⟨hp, hs, ho, hl⟩ := hc
  rw [exec_destroy, execRegionDestroy, run_alive _ ha, control_queue _ hp hs, if_neg (by simp [ho]), regionDrain_takes _ _ hl hd hr hg]
  rfl

end

/-! ## Keystone entries leave the transport -/

theorem ksErase_tp (w : Work) (b i : Nat) : (w.ksErase b i).n.tp = w.n.tp := rfl

theorem ksInsert_tp (w : Work) (t : Nat) (k : List Nat) (r : Nat) : (w.ksInsert t k r).2.n.tp = w.n.tp := by
  unfold Work.ksInsert
  split <;> rfl

theorem completeEntry_tp (w : Work) (q e st a0 a1 fl : Nat) (hd : Option Nat) : (w.completeEntry q e st a0 a1 fl hd).n.tp = w.n.tp := by
  have h := congrArg Node.tp (inner_completeEntry w q e st a0 a1 fl hd)
  exact h

theorem create_run {s : State} {q e p bank ki : Nat} {desc : Bytes} (ha : s.alive = true) (hc : ControlAsks s q e p desc 0x10)
    (hd : desc.length = 32 ∧ fieldAt desc 1 1 ≤ 7 ∧ zeroAt desc 2 2 = true ∧ zeroAt desc 0x18 8 = true)
    (hs : s.view.spanOk p (fieldAt desc 8 8) (fieldAt desc 0x10 4) = true)
    (hk : (s.view.ksInsert tblRkey (rkeyKey p s.view.freeRegion) (regionKey p s.view.freeRegion)).1 = some (bank, ki)) :
    ∃ w : Work, w.n.tp = (withRegions s.view (insertN (regionKey p s.view.freeRegion)
        { part := p, base := fieldAt desc 8 8, len := fieldAt desc 0x10 4, perm := fieldAt desc 1 1, gen := 0, ksBank := bank, ksIdx := ki, draining := none }
        s.node.tp.regions)).n.tp ∧
      exec (.regionCreate (.queue q e) desc) s = .next (s.close (w.completeEntry q e stOK s.view.freeRegion 0 0 none)) := by
  obtain ⟨hp, ho, hop, hl⟩ := hc
  obtain ⟨h1, h2, h3, h4⟩ := hd
  have ht := ksInsert_tp s.view tblRkey (rkeyKey p s.view.freeRegion) (regionKey p s.view.freeRegion)
  rw [exec_create, execRegionCreate, run_alive _ ha, Work.createOp, control_queue _ hp ho]
  simp only [hop, hl, h1, h3, h4, hs, Nat.not_lt.2 h2, ne_eq, not_true_eq_false, Bool.not_true, Bool.false_eq_true, or_self, if_false]
  unfold Work.makeRegion
  simp only [hk]
  refine ⟨_, ?_, rfl⟩
  simp only [ht]
  rfl

/-- Settles O32, clause by clause. -/
theorem regionsFollowTheirRemoteKeys : Obligations.RegionsFollowTheirRemoteKeys := by
  unfold Obligations.RegionsFollowTheirRemoteKeys
  refine ⟨fun s q e p bank ki desc ha hc hd hs hk => ?_, fun s q e p desc r ha hc hd hr hg => ?_, fun s q e p desc r ha hc hd hr hg => ?_,
    fun s part index r q e tag destroy ha hr hg => ?_⟩
  · obtain ⟨w, hw, hx⟩ := create_run ha hc hd hs hk
    have ht := (completeEntry_tp w q e stOK s.view.freeRegion 0 0 none).trans hw
    have hn := congrArg Transport.conns ht
    exact ⟨_, hx, (congrArg (fun t : Transport => lookupN _ t.regions) ht).trans (lookupN_insertN ..), (completeEntry_gone _ _ _ _ _ _ _ _).entryOf,
      hn⟩
  · exact ⟨_, advance_run ha hd hr hg hc, lookupN_insertN .., arrive_arrived (entryOf_of_srcOk hc.2.1), rfl, rfl⟩
  · exact ⟨_, destroy_run ha hd hr hg hc, lookupN_insertN .., arrive_arrived (entryOf_of_srcOk hc.2.1), rfl, rfl⟩
  · have hx : ∃ w : Work, w.n.tp = (withRegions s.view (if destroy then eraseN (regionKey part index) s.node.tp.regions
          else insertN (regionKey part index) { r with draining := none } s.node.tp.regions)).n.tp ∧
        exec (.regionDrainDone part index) s = .next (s.close (w.completeEntry q e stOK 0 0 0 none)) := by
      have hr' : lookupN (regionKey part index) s.view.n.tp.regions = some r := hr
      rw [exec_drainDone, execRegionDrainDone, run_alive _ ha]
      simp only [hr', hg]
      cases destroy with
      | false => exact ⟨_, rfl, rfl⟩
      | true =>
        refine ⟨_, ?_, rfl⟩
        simp only [if_true, ksErase_tp]
        rfl
    obtain ⟨w, hw, hx⟩ := hx
    have ht := (completeEntry_tp w q e stOK 0 0 0 none).trans hw
    have hn := congrArg Transport.conns ht
    refine ⟨_, hx, (congrArg (fun t : Transport => lookupN _ t.regions) ht).trans ?_, (completeEntry_gone _ _ _ _ _ _ _ _).entryOf, hn⟩
    cases destroy with
    | false => exact lookupN_insertN ..
    | true => exact lookupN_eraseN ..

end Sys2Proof.Regions
end

section
/-!
What the node takes in of its regulators, its optical engines, its die-to-die connection and its calibration set (R419, R427, R434 to R439).
-/

namespace Sys2Proof.Trims

open Sys2Proof.Machine Sys2Proof.Safety Sys2Proof.Laws Sys2Proof.Resets Sys2Proof.Entering Sys2Proof.Fields

theorem exec_trim (s : State) (rs : List PmbReading) : exec (.telemetryTrim rs) s = execTelemetryTrim rs s := by simp only [exec]
theorem exec_optical (s : State) (p h : Nat) (x : Option (Int × Int)) : exec (.opticalRead p h x) s = execOpticalRead p h x s := by simp only [exec]
theorem exec_degraded (s : State) (lost : Bool) : exec (.d2dDegraded lost) s = execD2dDegraded lost s := by simp only [exec]
theorem exec_calWrite (s : State) (wr : RegWr) : exec (.calWrite wr) s = execCalWrite wr s := by simp only [exec]
theorem exec_calDone (s : State) (ok : Bool) : exec (.calWriteDone ok) s = execCalWriteDone ok s := by simp only [exec]

theorem flag_of_ne {s : State} {f : Fld} {i j : Nat} (h : rd s f i j ≠ 0) : s.view.flag f i j = true := by
  rw [flag_eq rfl]
  exact bne_iff_ne.2 h

theorem flag_of_zero {s : State} {f : Fld} {i j : Nat} (h : rd s f i j = 0) : s.view.flag f i j = false := by
  rw [flag_eq h]
  rfl

/-! ## Regulators -/

/-- The fields that the rails' readings set. -/
def railFlds : List Fld := [Reg.MAR_MV, Reg.MAR_MIN_MV, Reg.MAR_SUP_EVENTS]

theorem railRead_fields (w : Work) (e mv low : Nat) : fields railFlds (w.railRead e mv low) = fields railFlds w := by
  unfold Work.railRead
  simp +decide [railFlds]

theorem railRead_n (w : Work) (e mv low : Nat) : (w.railRead e mv low).n = w.n := by
  unfold Work.railRead
  dsimp only
  split <;> rfl

/-- The voltage that a reading of an entry brings. -/
def voltsOf (rs : List PmbReading) (e : Nat) : Option (Nat × Nat) := (rs.find? fun r => r.entry = e).bind (·.volts)

/-- The rails of the listed regulators recorded. -/
def rails (w : Work) (rs : List PmbReading) (listed : List Nat) : Work :=
  listed.foldl (fun w e => match voltsOf rs e with | some (mv, low) => w.railRead e mv low | none => w) w

theorem rails_fields (w : Work) (rs : List PmbReading) (l : List Nat) : fields railFlds (rails w rs l) = fields railFlds w :=
  Frame.foldl_keeps (fields railFlds) (fun w e => by split; exact railRead_fields ..; rfl) l w

theorem rails_n (w : Work) (rs : List PmbReading) (l : List Nat) : (rails w rs l).n = w.n :=
  Frame.foldl_keeps (·.n) (fun w e => by split; exact railRead_n ..; rfl) l w

/-- The regulators that the PMBus list names. -/
def listedOf (w : Work) : List Nat := (List.range 16).filter fun e => w.flag Reg.MG_PMB_PRESENT 0 e

/-- The node once the failures are counted and the rails recorded. -/
def railed (w : Work) (rs : List PmbReading) : Work :=
  { rails (w.count Reg.MG_PMB_FAIL (((listedOf w).filter fun e => (pmbOf rs e).isNone).length +
      ((listedOf w).filter fun e => (voltsOf rs e).isNone).length)) rs (listedOf w) with n.pw.window := [] }

/-- The node after a trim that misses entry `e` of the list (R419). -/
def missed (w : Work) (rs : List PmbReading) (e : Nat) : Work :=
  let v := ({ railed w rs with n.pw.trimFails := (railed w rs).n.pw.trimFails + 1 } : Work).count Reg.PWR_TEL_FAIL
  if (railed w rs).n.pw.trimFails + 1 = 3 then v.log { code := 0x4C04, page := 2, detail := e / 8 * 256 + e } else v

/-- The power that the listed regulators report, in 1/4 W (R436). -/
def totalOf (w : Work) (rs : List PmbReading) (listed : List Nat) : Rat :=
  listed.foldl (fun t e => t + ((pmbOf rs e).getD 0 : Rat) * w.telCorr e) 0

/-- The mean of the estimates of a window. -/
def meanOf (l : List Rat) : Rat := l.foldl (fun a b => a + b) 0 / (l.length : Rat)

/-- The gain, moved a quarter of the way (R434). -/
def newGain (g total mean : Rat) : Rat := min (5 / 4) (max (3 / 4) (g * (1 + (total / 4 / mean - 1) / 4)))

/-- The node once the whole list has answered. -/
def summed (w : Work) (rs : List PmbReading) : Work :=
  ({ railed w rs with n.pw.trimFails := 0 } : Work).set Reg.PWR_TEL (min (floorNat (totalOf (railed w rs) rs (listedOf w))) 8191)

/-- The node with its gain trimmed. -/
def gained (w : Work) (g : Rat) : Work := ({ w with n.pw.gain := g } : Work).set Reg.PWR_GAIN (floorNat (g * 16384))

theorem exec_trim_eq {s : State} (rs : List PmbReading) (ha : s.alive = true) (hf : rd s Reg.GLB_FW_RUNNING ≠ 0) :
    exec (.telemetryTrim rs) s = .next (s.close (match (listedOf s.view).filter fun e => (pmbOf rs e).isNone with
      | e :: _ => missed s.view rs e
      | [] => if (summed s.view rs).flag Reg.PWR_TRIM_EN && decide ((0 : Rat) < meanOf s.node.pw.window) && !(listedOf s.view).isEmpty then
          gained (summed s.view rs) (newGain (summed s.view rs).n.pw.gain (totalOf (railed s.view rs) rs (listedOf s.view)) (meanOf s.node.pw.window))
        else summed s.view rs)) := by
  have hw : (rails (s.view.count Reg.MG_PMB_FAIL (((listedOf s.view).filter fun e => (pmbOf rs e).isNone).length +
      ((listedOf s.view).filter fun e => (voltsOf rs e).isNone).length)) rs (listedOf s.view)).n.pw.window = s.node.pw.window :=
    congrArg (fun n : Node => n.pw.window) (rails_n ..)
  rw [exec_trim, execTelemetryTrim, run_alive _ ha, flag_of_ne hf, ← hw]
  rfl

/-- The registers that a trim writes besides the rails'. -/
def trimFlds : List Fld := railFlds ++ [Reg.MG_PMB_FAIL]

theorem fields_weaken {F G : List Fld} {w v : Work} (hFG : F ⊆ G) (h : fields F v = fields F w) : fields G v = fields G w := by
  have hr := fields_regs h
  have hi := fields_wiped h
  unfold fields at h ⊢
  rw [hr, hi]
  refine congrArg (fun x => (w.regs, w.wiped, x)) (funext fun k => ?_)
  exact congrFun (congrArg (fun x : _ × _ × ({k // Plain k ∧ ∀ f ∈ F, ∀ i j, f.key i j ≠ k} → _) => x.2.2) h) ⟨k.1, k.2.1, fun f hf => k.2.2 f (hFG hf)⟩

section
variable (w : Work) (rs : List PmbReading)

theorem railed_n : (railed w rs).n = { w.n with pw := { w.n.pw with window := [] } } := by
  have h := rails_n (w.count Reg.MG_PMB_FAIL (((listedOf w).filter fun e => (pmbOf rs e).isNone).length +
      ((listedOf w).filter fun e => (voltsOf rs e).isNone).length)) rs (listedOf w)
  unfold railed
  dsimp only
  rw [h]
  rfl

theorem railed_fields : fields trimFlds (railed w rs) = fields trimFlds w := by
  have h := fields_weaken (G := trimFlds) (by decide) (rails_fields (w.count Reg.MG_PMB_FAIL (((listedOf w).filter fun e => (pmbOf rs e).isNone).length +
      ((listedOf w).filter fun e => (voltsOf rs e).isNone).length)) rs (listedOf w))
  exact h.trans (fields_count _ _ _ _ _ (by decide))

/-- The failures are counted. -/
theorem railed_fails : Shows (railed w rs) Reg.MG_PMB_FAIL (min (w.get Reg.MG_PMB_FAIL + (((listedOf w).filter fun e => (pmbOf rs e).isNone).length +
    ((listedOf w).filter fun e => (voltsOf rs e).isNone).length)) (2 ^ 32 - 1)) 0 0 :=
  shows_of_fields0 (rails_fields _ _ _) (by decide) (shows_count _ _ _ _ _)

theorem totalOf_railed (l : List Nat) : totalOf (railed w rs) rs l = totalOf w rs l := by
  have h : (railed w rs).telCorr = w.telCorr := by
    funext e
    unfold Work.telCorr
    rw [railed_n]
  unfold totalOf
  rw [h]

end

/-- A trim of a whole list sets the gain. -/
theorem trim_whole {s : State} (rs : List PmbReading) (ha : s.alive = true) (hc : Canonical s) (hf : rd s Reg.GLB_FW_RUNNING ≠ 0)
    (he : rd s Reg.PWR_TRIM_EN ≠ 0) (hl : listedOf s.view ≠ []) (hall : ∀ e ∈ listedOf s.view, (pmbOf rs e).isSome = true)
    (hm : 0 < meanOf s.node.pw.window) : ∃ t, exec (.telemetryTrim rs) s = .next t ∧
      t.node.pw.gain = newGain s.node.pw.gain (totalOf s.view rs (listedOf s.view)) (meanOf s.node.pw.window) ∧
      t.node.pw.trimFails = 0 ∧ t.node.pw.window = [] ∧
      rd t Reg.PWR_TEL = min (floorNat (totalOf s.view rs (listedOf s.view))) 8191 ∧
      Counted s t Reg.MG_PMB_FAIL ((listedOf s.view).filter fun e => (voltsOf rs e).isNone).length ∧
      rd t Reg.PWR_GAIN = floorNat (t.node.pw.gain * 16384) % 2 ^ 16 := by
  have hnone : (listedOf s.view).filter (fun e => (pmbOf rs e).isNone) = [] :=
    List.filter_eq_nil_iff.2 fun e hx => by have := hall e hx; simp only [Option.isNone_eq_false_iff.2 this, Bool.false_eq_true, not_false_eq_true]
  have hfl : (summed s.view rs).flag Reg.PWR_TRIM_EN = true := by
    have h : fields (Reg.PWR_TEL :: trimFlds) (summed s.view rs) = fields (Reg.PWR_TEL :: trimFlds) s.view :=
      (fields_set _ _ _ _ _ (by decide)).trans (fields_weaken (by decide) (railed_fields s.view rs))
    rw [Work.flag, get_of_fields0 h (by decide)]
    exact bne_iff_ne.2 he
  have hn := railed_n s.view rs
  have hx := exec_trim_eq rs ha hf
  have hfail := railed_fails s.view rs
  rw [hnone] at hx hfail
  simp only [hfl, hm, List.isEmpty_eq_false_iff.2 hl, decide_true, Bool.not_false, Bool.and_self, if_true, totalOf_railed] at hx
  have hgn := congrArg (fun n : Node => n.pw.gain) hn
  have hg : (summed s.view rs).n.pw.gain = s.node.pw.gain := hgn
  have hwn := congrArg (fun n : Node => n.pw.window) hn
  rw [hg] at hx
  generalize newGain s.node.pw.gain (totalOf s.view rs (listedOf s.view)) (meanOf s.node.pw.window) = g at hx ⊢
  refine ⟨_, hx, rfl, rfl, hwn, ?_, ?_, (shows_set _ _ _ _ _).rd hc.1⟩
  · have h : Shows (gained (summed s.view rs) g) Reg.PWR_TEL _ 0 0 :=
      (shows_set _ Reg.PWR_TEL (min (floorNat (totalOf (railed s.view rs) rs (listedOf s.view))) 8191) 0 0).set _ _ _ _
        (key_ne_of_apart (by decide) _ _ _ _)
    rw [totalOf_railed, Nat.mod_eq_of_lt (lt_of_le_of_lt (min_le_right _ _) (by decide))] at h
    exact h.rd hc.1
  · have h : Shows (gained (summed s.view rs) g) Reg.MG_PMB_FAIL _ 0 0 := ((show Shows { railed s.view rs with n.pw.trimFails := 0 } Reg.MG_PMB_FAIL _ 0 0 from hfail).set _ _ _ _
        (key_ne_of_apart (by decide) _ _ _ _)).set _ _ _ _ (key_ne_of_apart (by decide) _ _ _ _)
    have hr := h.rd hc.1
    rw [List.length_nil, Nat.zero_add] at hr
    exact hr

/-- A trim that misses an entry holds the gain. -/
theorem trim_missed {s : State} (rs : List PmbReading) (e : Nat) (ha : s.alive = true) (hc : Canonical s) (hf : rd s Reg.GLB_FW_RUNNING ≠ 0)
    (hl : e < 16 ∧ s.view.flag Reg.MG_PMB_PRESENT 0 e = true ∧ pmbOf rs e = none) : ∃ t, exec (.telemetryTrim rs) s = .next t ∧
      t.node.pw.gain = s.node.pw.gain ∧ rd t Reg.PWR_GAIN = rd s Reg.PWR_GAIN ∧ t.node.pw.trimFails = s.node.pw.trimFails + 1 ∧
      t.node.pw.window = [] ∧ Counted s t Reg.PWR_TEL_FAIL := by
  obtain ⟨h16, hp, hn⟩ := hl
  have hmem : e ∈ (listedOf s.view).filter fun e => (pmbOf rs e).isNone :=
    List.mem_filter.2 ⟨List.mem_filter.2 ⟨List.mem_range.2 h16, hp⟩, by rw [hn]; rfl⟩
  have hx := exec_trim_eq rs ha hf
  cases hl : (listedOf s.view).filter fun e => (pmbOf rs e).isNone with
  | nil => rw [hl] at hmem; cases hmem
  | cons d l =>
    rw [hl] at hx
    have hrep : Reports (({ railed s.view rs with n.pw.trimFails := (railed s.view rs).n.pw.trimFails + 1 } : Work).count Reg.PWR_TEL_FAIL)
        (missed s.view rs d) := by
      unfold missed
      dsimp only
      split
      · exact reports_log _ _
      · exact Reports.refl _
    have hpw : (missed s.view rs d).n.pw = { s.node.pw with window := [], trimFails := s.node.pw.trimFails + 1 } := by
      rw [hrep.n_pw, count_n]
      dsimp only
      rw [railed_n]
      rfl
    have hget : (railed s.view rs).get Reg.PWR_TEL_FAIL = rd s Reg.PWR_TEL_FAIL := get_of_fields0 (railed_fields s.view rs) (by decide)
    have hfl : fields (Reg.PWR_TEL_FAIL :: trimFlds) (missed s.view rs d) = fields (Reg.PWR_TEL_FAIL :: trimFlds) s.view :=
      (fields_of_reports hrep).trans ((fields_count _ _ _ _ _ (by decide)).trans (fields_weaken (by decide) (railed_fields s.view rs)))
    refine ⟨_, hx, by rw [close_node, hpw], rd_of_fields0 hc hfl (by decide), by rw [close_node, hpw], by rw [close_node, hpw], ?_⟩
    have h := (hrep.shows (f := Reg.PWR_TEL_FAIL) (by unfold Plain; decide) (shows_count _ Reg.PWR_TEL_FAIL 1 0 0)).rd hc.1
    exact h.trans (congrArg (fun x => min (x + 1) (2 ^ 32 - 1)) hget)

/-! ## Optical engines and the die-to-die connection -/

theorem optical_run {s : State} {port half i : Nat} (x : Option (Int × Int)) (ha : s.alive = true)
    (h : port < 32 ∧ half < 2 ∧ i = port * 2 + half ∧ rd s Reg.MAR_OPT_EN ≠ 0 ∧ rd s Reg.MG_OPT_PRESENT 0 i ≠ 0) :
    exec (.opticalRead port half x) s = .next (s.close (match x with
      | some (tx, rx) => (s.view.set Reg.MAR_TX (toField 16 tx) 0 i).set Reg.MAR_RX (toField 16 rx) 0 i
      | none => ((s.view.set Reg.MAR_TX 0x8000 0 i).set Reg.MAR_RX 0x8000 0 i).count Reg.MAR_OPT_FAIL)) := by
  obtain ⟨hp, hh, rfl, h1, h2⟩ := h
  rw [exec_optical, execOpticalRead, run_alive _ ha]
  exact congrArg (fun w => Host.Outcome.next (s.close w)) (if_pos ⟨hp, hh, flag_of_ne h1, flag_of_ne h2⟩)

theorem toField_lt (v : Int) : toField 16 v % 2 ^ 16 = toField 16 v := by
  unfold toField
  omega

theorem tx_rx_shown (s : State) (hc : Canonical s) (i a b : Nat) (w : Work) (h : w.rw = ((s.view.set Reg.MAR_TX a 0 i).set Reg.MAR_RX b 0 i).rw) :
    rd (s.close w) Reg.MAR_TX 0 i = a % 2 ^ 16 ∧ rd (s.close w) Reg.MAR_RX 0 i = b % 2 ^ 16 := by
  have h1 : Shows ((s.view.set Reg.MAR_TX a 0 i).set Reg.MAR_RX b 0 i) Reg.MAR_TX (a % 2 ^ 16) 0 i :=
    (shows_set _ _ _ _ _).set _ _ _ _ (key_ne_of_apart (by decide) _ _ _ _)
  have h2 : Shows ((s.view.set Reg.MAR_TX a 0 i).set Reg.MAR_RX b 0 i) Reg.MAR_RX (b % 2 ^ 16) 0 i := shows_set _ _ _ _ _
  unfold Shows at h1 h2
  rw [← h] at h1 h2
  exact ⟨Shows.rd hc.1 h1, Shows.rd hc.1 h2⟩

theorem optical_shows {s : State} (port half i : Nat) (x : Option (Int × Int)) (ha : s.alive = true) (hc : Canonical s)
    (h : port < 32 ∧ half < 2 ∧ i = port * 2 + half ∧ rd s Reg.MAR_OPT_EN ≠ 0 ∧ rd s Reg.MG_OPT_PRESENT 0 i ≠ 0) :
    ∃ t, exec (.opticalRead port half x) s = .next t ∧
      (rd t Reg.MAR_TX 0 i = ((x.map fun y => toField 16 y.1).getD 0x8000) ∧ rd t Reg.MAR_RX 0 i = ((x.map fun y => toField 16 y.2).getD 0x8000)) ∧
      (x.isNone = true → Counted s t Reg.MAR_OPT_FAIL) ∧ (x.isSome = true → rd t Reg.MAR_OPT_FAIL = rd s Reg.MAR_OPT_FAIL) ∧
      t.node = s.node ∧ t.mem = s.mem := by
  refine ⟨_, optical_run x ha h, ?_⟩
  have hf : ∀ a b, fields [Reg.MAR_TX, Reg.MAR_RX] ((s.view.set Reg.MAR_TX a 0 i).set Reg.MAR_RX b 0 i) = fields [Reg.MAR_TX, Reg.MAR_RX] s.view :=
    fun a b => (fields_set _ _ _ _ _ (by decide)).trans (fields_set _ _ _ _ _ (by decide))
  cases x with
  | none =>
    dsimp only
    have hs : ∀ f : Fld, Apart Reg.MAR_OPT_FAIL f = true → ∀ v, Shows ((s.view.set Reg.MAR_TX 0x8000 0 i).set Reg.MAR_RX 0x8000 0 i) f v 0 i →
        rd (s.close (((s.view.set Reg.MAR_TX 0x8000 0 i).set Reg.MAR_RX 0x8000 0 i).count Reg.MAR_OPT_FAIL)) f 0 i = v :=
      fun f hp v h => (h.set _ _ _ _ (key_ne_of_apart hp _ _ _ _)).rd hc.1
    have hget : ((s.view.set Reg.MAR_TX 0x8000 0 i).set Reg.MAR_RX 0x8000 0 i).get Reg.MAR_OPT_FAIL = rd s Reg.MAR_OPT_FAIL :=
      get_of_fields0 (hf _ _) (by decide)
    refine ⟨⟨hs _ (by decide) _ ((shows_set _ _ 0x8000 _ _).set _ _ _ _ (key_ne_of_apart (by decide) _ _ _ _)), hs _ (by decide) _ (shows_set _ _ 0x8000 _ _)⟩,
      fun _ => ?_, fun h => (by cases h), rfl, rfl⟩
    exact ((shows_count _ _ _ _ _).rd hc.1).trans (congrArg (fun x => min (x + 1) (2 ^ 32 - 1)) hget)
  | some y =>
    obtain ⟨tx, rx⟩ := y
    dsimp only
    obtain ⟨h1, h2⟩ := tx_rx_shown s hc i (toField 16 tx) (toField 16 rx) _ rfl
    exact ⟨⟨h1.trans (toField_lt tx), h2.trans (toField_lt rx)⟩, fun h => (by cases h), fun _ => rd_of_fields0 hc (hf _ _) (by decide), rfl, rfl⟩

/-- The die-to-die connection marked degraded, or lost. -/
def degraded (w : Work) (lost : Bool) : Work :=
  if lost then ((w.set Reg.CST_DEGRADED 1).set Reg.CST_UP 0).set Reg.GLB_D2D_UP 0 else w.set Reg.CST_DEGRADED 1

theorem noteCapped_rw (w : Work) : w.noteCapped.rw = w.rw ∧ w.noteCapped.regs = w.regs ∧ w.noteCapped.wiped = w.wiped ∧ w.noteCapped.n.st = w.n.st := by
  unfold Work.noteCapped
  split <;> exact ⟨rfl, rfl, rfl, rfl⟩

theorem degraded_shows {s : State} (lost : Bool) (ha : s.alive = true) (hc : Canonical s) : ∃ t, exec (.d2dDegraded lost) s = .next t ∧
    rd t Reg.CST_DEGRADED = 1 ∧ (lost = true → rd t Reg.CST_UP = 0 ∧ rd t Reg.GLB_D2D_UP = 0) ∧
    (lost = false → rd t Reg.CST_UP = rd s Reg.CST_UP ∧ rd t Reg.GLB_D2D_UP = rd s Reg.GLB_D2D_UP) ∧
    Counted s t Reg.BLK_ERR_CNT 1 0x24 ∧ t.node.st = s.node.st := by
  have hrun : exec (.d2dDegraded lost) s = .next (s.close ((degraded s.view lost).noteCapped.capture
      { code := 0x400B, page := 0x24, detail := (degraded s.view lost).get Reg.CST_CRC_CNT })) := by
    rw [exec_degraded, execD2dDegraded, run_alive _ ha]
    rfl
  obtain ⟨hrw, hregs, hwi, hst⟩ := noteCapped_rw (degraded s.view lost)
  generalize (degraded s.view lost).get Reg.CST_CRC_CNT = d at hrun
  have hrep := reports_capture (degraded s.view lost).noteCapped { code := 0x400B, page := 0x24, detail := d }
  have hsh : ∀ {f : Fld} {v : Nat}, Plain (f.key 0 0) → Shows (degraded s.view lost) f v 0 0 →
      rd (s.close ((degraded s.view lost).noteCapped.capture { code := 0x400B, page := 0x24, detail := d })) f = v := by
    intro f v hp h
    unfold Shows at h
    rw [← hrw] at h
    exact (hrep.shows hp h).rd hc.1
  have hsame : ∀ {f : Fld}, Plain (f.key 0 0) → SameAt (f.key 0 0) s.view (degraded s.view lost) →
      rd (s.close ((degraded s.view lost).noteCapped.capture { code := 0x400B, page := 0x24, detail := d })) f = rd s f := by
    intro f hp h
    have hw : (degraded s.view lost).wiped = false := by
      unfold degraded
      split <;> rfl
    refine SameAt.rd hc.1 (hrep.wiped.trans (hwi.trans hw)) ((h.trans ?_).trans (hrep.sameAt hp))
    unfold SameAt
    rw [hrw]
  have hcnt : (degraded s.view lost).noteCapped.get Reg.BLK_ERR_CNT 0x24 = rd s Reg.BLK_ERR_CNT 0x24 := by
    have hne : ∀ f : Fld, Apart f Reg.BLK_ERR_CNT = true → f.key 0 0 ≠ Reg.BLK_ERR_CNT.key 0x24 0 := fun f h => key_ne_of_apart h _ _ _ _
    have h : SameAt (Reg.BLK_ERR_CNT.key 0x24 0) s.view (degraded s.view lost) := by
      have h1 := (SameAt.refl (Reg.BLK_ERR_CNT.key 0x24 0) s.view).set Reg.CST_DEGRADED 1 0 0 (hne _ (by decide))
      unfold degraded
      split
      · exact (h1.set _ _ _ _ (hne _ (by decide))).set _ _ _ _ (hne _ (by decide))
      · exact h1
    have hr : (degraded s.view lost).regs = s.regs := by
      unfold degraded
      split <;> rfl
    have h2 : SameAt (Reg.BLK_ERR_CNT.key 0x24 0) s.view (degraded s.view lost).noteCapped := by
      refine h.trans ?_
      unfold SameAt
      rw [hrw]
    exact h2.get (hregs.trans hr)
  refine ⟨_, hrun, hsh (by unfold Plain; decide) ?_, ?_, ?_, ?_, ?_⟩
  · unfold degraded
    split
    · exact ((shows_set _ _ _ _ _).set _ _ _ _ (key_ne_of_apart (by decide) _ _ _ _)).set _ _ _ _ (key_ne_of_apart (by decide) _ _ _ _)
    · exact shows_set _ _ 1 _ _
  · rintro rfl
    exact ⟨hsh (by unfold Plain; decide) ((shows_set _ _ 0 _ _).set _ _ _ _ (key_ne_of_apart (by decide) _ _ _ _)),
      hsh (by unfold Plain; decide) (shows_set _ _ 0 _ _)⟩
  · rintro rfl
    have h : ∀ f : Fld, Apart Reg.CST_DEGRADED f = true → SameAt (f.key 0 0) s.view (degraded s.view false) :=
      fun f hf => (SameAt.refl _ s.view).set _ _ _ _ (key_ne_of_apart hf _ _ _ _)
    exact ⟨hsame (by unfold Plain; decide) (h _ (by decide)), hsame (by unfold Plain; decide) (h _ (by decide))⟩
  · exact ((capture_counts _ _ (show (0x24 : Nat) ≠ 0xB by decide)).rd hc.1).trans (congrArg (fun x => min (x + 1) (2 ^ 32 - 1)) hcnt)
  · rw [close_node, hrep.n_st, hst]
    unfold degraded
    split <;> rfl

/-! ## Calibration -/

/-- What a report leaves outside the prompt book's ring. -/
theorem byteAt_reported {s : State} (hc : Canonical s) {u v : Work} (h : Reports u v) {x : Nat} (hx : outsideRing x) :
    byteAt (s.close v) x = byteAt (s.close u) x := by
  obtain ⟨l, hl, hput⟩ := h.wr
  have hm : (s.close v).mem = l.reverse.foldl Mem.apply (s.close u).mem := by
    simp only [close_mem, h.wiped, hl, List.reverse_append, List.foldl_append]
  rw [byteAt, hm]
  exact mem_get_foldl_ring (canonical_close u hc).2 (fun o ho => hput o (List.mem_reverse.1 ho)) hx

theorem calWriteEnd_reports (w : Work) (fail : Bool) : Reports (w.setFlag Reg.CAL_WRITE_FAIL fail) (w.calWriteEnd fail) :=
  (reports_log _ _).trans (reports_isr _ _ _)

theorem nameSpan_reports (w : Work) (page a len : Nat) : Reports w (w.nameSpan page a len) := by
  unfold Work.nameSpan
  split
  · exact reports_capture _ _
  · exact Reports.refl w

theorem plain_cal {f : Fld} (h : f.off < 4096 ∧ f.lo < 32 ∧ 0x100 ≤ f.off ∧ f.blk.page ≠ 0xB) : Plain (f.key 0 0) := by
  obtain ⟨ho, hl, h1, hp⟩ := h
  exact ⟨by rw [key_off f 0 0 ho hl]; exact h1, by rw [key_page f 0 ho hl]; exact hp⟩

section
variable {s : State} {wr : RegWr} {src : Nat} (ha : s.alive = true)
  (h : s.view.addresses wr .CAL [0x110] = true ∧ wr.fn = .pf ∧ wrote1 wr Reg.CAL_WRITE = true ∧ bitsOf (wr.data.toNat &&& beMask wr.be) 16 16 = 0xCA1B)
  (hw : rd s Reg.CAL_WRITING = 0) (hs : src = rd s Reg.CAL_SRC_LO + rd s Reg.CAL_SRC_HI * 2 ^ 32)
include ha h hw hs

theorem calWrite_run : exec (.calWrite wr) s = .next (s.close
    (if !s.view.inAllotment 0 src 65536 ∨ (calCheck (s.view.bytes src 65536)).isSome then
      ((s.view.count Reg.CAL_WRITES).nameSpan 5 src 65536).calWriteEnd true
     else { (((s.view.count Reg.CAL_WRITES).set Reg.CAL_WRITING 1).set Reg.CAL_WRITE_FAIL 0).zero (flashKey calFlash) 65536 with
      n.pw.calNew := some (s.view.bytes src 65536) })) := by
  obtain ⟨h1, h2, h3, h4⟩ := h
  have hsrc : src = s.view.get Reg.CAL_SRC_LO + s.view.get Reg.CAL_SRC_HI * 2 ^ 32 := hs
  have hin : ∀ a, (s.view.count Reg.CAL_WRITES).inAllotment 0 a 65536 = s.view.inAllotment 0 a 65536 := by
    intro a
    have hf : fields [Reg.CAL_WRITES] (s.view.count Reg.CAL_WRITES) = fields [Reg.CAL_WRITES] s.view := fields_count _ _ _ _ _ (by decide)
    unfold Work.inAllotment
    rw [get_of_fields hf (by decide), get_of_fields hf (by decide)]
    rfl
  rw [exec_calWrite, execCalWrite, run_alive _ ha]
  simp only [h1, h2, h3, h4, flag_of_zero hw, ← hsrc, hin, Bool.not_true, Bool.false_eq_true, if_false, ne_eq, not_true_eq_false]

theorem calWrite_shows (hc : Canonical s) : ∃ t, exec (.calWrite wr) s = .next t ∧ Counted s t Reg.CAL_WRITES ∧
    (s.view.inAllotment 0 src 65536 = true → calCheck (s.view.bytes src 65536) = none → rd t Reg.CAL_WRITING = 1 ∧ rd t Reg.CAL_WRITE_FAIL = 0 ∧
      t.mem = s.mem.clear (flashKey calFlash) 65536 ∧ t.node.pw = { s.node.pw with calNew := some (s.view.bytes src 65536) }) ∧
    (s.view.inAllotment 0 src 65536 = false ∨ calCheck (s.view.bytes src 65536) ≠ none →
      rd t Reg.CAL_WRITING = 0 ∧ rd t Reg.CAL_WRITE_FAIL = 1 ∧ t.node.pw = s.node.pw) := by
  refine ⟨_, calWrite_run ha h hw hs, ?_⟩
  generalize s.view.bytes src 65536 = c
  generalize flashKey calFlash = a
  have hcount := shows_count s.view Reg.CAL_WRITES 1 0 0
  by_cases hb : (!s.view.inAllotment 0 src 65536) = true ∨ (calCheck c).isSome = true
  · rw [if_pos hb]
    have hr := nameSpan_reports (s.view.count Reg.CAL_WRITES) 5 src 65536
    generalize (s.view.count Reg.CAL_WRITES).nameSpan 5 src 65536 = v at hr ⊢
    have he := calWriteEnd_reports v true
    refine ⟨?_, fun hi hn => ?_, fun _ => ⟨?_, ?_, ?_⟩⟩
    · exact (he.shows (plain_cal (by decide)) ((hr.shows (plain_cal (by decide)) hcount).set _ _ _ _ (key_ne_of_apart (by decide) _ _ _ _))).rd hc.1
    · rw [hi, hn] at hb
      simp at hb
    · have hk : SameAt (Reg.CAL_WRITING.key 0 0) s.view (v.calWriteEnd true) :=
        (((SameAt.refl _ s.view).count Reg.CAL_WRITES 1 0 0 (key_ne_of_apart (by decide) _ _ _ _)).trans (hr.sameAt (plain_cal (by decide)))).trans
          (((SameAt.refl _ v).set _ _ _ _ (key_ne_of_apart (by decide) _ _ _ _)).trans (he.sameAt (plain_cal (by decide))))
      rw [hk.rd hc.1 (he.wiped.trans hr.wiped), hw]
    · exact (he.shows (plain_cal (by decide)) (shows_flag _ _ true _ _ (by decide))).rd hc.1
    · rw [close_node, he.n_pw, setFlag_n, hr.n_pw]
      rfl
  · rw [if_neg hb]
    rw [not_or] at hb
    refine ⟨?_, fun _ _ => ⟨?_, ?_, rfl, rfl⟩, fun hbad => ?_⟩
    · exact Shows.rd hc.1 ((hcount.set Reg.CAL_WRITING 1 0 0 (key_ne_of_apart (by decide) _ _ _ _)).set Reg.CAL_WRITE_FAIL 0 0 0 (key_ne_of_apart (by decide) _ _ _ _))
    · exact Shows.rd hc.1 ((shows_set (s.view.count Reg.CAL_WRITES) Reg.CAL_WRITING 1 0 0).set Reg.CAL_WRITE_FAIL 0 0 0 (key_ne_of_apart (by decide) _ _ _ _))
    · exact Shows.rd hc.1 (shows_set ((s.view.count Reg.CAL_WRITES).set Reg.CAL_WRITING 1) Reg.CAL_WRITE_FAIL 0 0 0)
    · rcases hbad with hbad | hbad
      · exact absurd (by rw [hbad]; rfl) hb.1
      · exact absurd (Option.isSome_iff_ne_none.2 hbad) hb.2

end

/-! ## The end of programming -/

/-- The set that stops being new. -/
def calSettled (w : Work) : Work := { w.set Reg.CAL_WRITING 0 with n.pw.calNew := none }

theorem calDone_run {s : State} {c : Bytes} (ok : Bool) (ha : s.alive = true) (hn : s.node.pw.calNew = some c) :
    exec (.calWriteDone ok) s = .next (s.close (if ok then (((calSettled s.view).store (flashKey calFlash) c).set Reg.CAL_PENDING 1).calWriteEnd false
      else (calSettled s.view).calWriteEnd true)) := by
  have hn' : s.view.n.pw.calNew = some c := hn
  rw [exec_calDone, execCalWriteDone, run_alive _ ha]
  simp only [hn']
  rfl

theorem bitOf_add_pow {v b n : Nat} (hb : b < n) (h : bitOf v b = false) : bitOf ((v + 2 ^ b) % 2 ^ n) b = true := by
  have ht : ∀ x i, bitOf x i = x.testBit i := fun x i => by rw [bitOf, Nat.testBit_eq_decide_div_mod_eq]
  rw [ht] at *
  rw [Nat.testBit_mod_two_pow, decide_eq_true hb, Bool.true_and, Nat.add_comm, Nat.testBit_two_pow_add_eq, h]
  rfl

/-- An interrupt bit that is raised is set (R492). -/
theorem isr_reads {s : State} {w : Work} {page bit : Nat} (hb : bit < 32) (hs : SameAt (Reg.BLK_ISR.key page 0) s.view w) (hr : w.regs = s.regs) :
    ∃ v, Reads s (w.isr page bit) Reg.BLK_ISR v page 0 ∧ bitOf v bit = true := by
  unfold Work.isr
  dsimp only
  by_cases hv : bitOf (w.get Reg.BLK_ISR page) bit = true
  · rw [if_pos hv]
    exact ⟨_, reads_of_get hs hr rfl, hv⟩
  · rw [if_neg hv]
    refine ⟨_, .inl ?_, bitOf_add_pow hb (Bool.eq_false_iff.2 hv)⟩
    have hset : Shows ((w.set Reg.BLK_ISR (w.get Reg.BLK_ISR page + 2 ^ bit) page).set Reg.BLK_TICK
        (w.set Reg.BLK_ISR (w.get Reg.BLK_ISR page + 2 ^ bit) page).now32 page) Reg.BLK_ISR ((w.get Reg.BLK_ISR page + 2 ^ bit) % 2 ^ 32) page 0 :=
      (shows_set _ _ _ _ _).set _ _ _ _ (key_ne_of_apart (by decide) _ _ _ _)
    split
    · exact (sameAt_signal _ _ _ _).shows hset
    · exact hset

theorem calWriteEnd_isr {s : State} (hc : Canonical s) {w : Work} (fail : Bool) (hs : SameAt (Reg.BLK_ISR.key 5 0) s.view w) (hr : w.regs = s.regs)
    (hw : w.wiped = false) : bitOf (rd (s.close (w.calWriteEnd fail)) Reg.BLK_ISR 5) 16 = true := by
  have hrep := reports_log (w.setFlag Reg.CAL_WRITE_FAIL fail) { code := 0x4F04, page := 5, detail := if fail then 1 else 0 }
  have hsame : SameAt (Reg.BLK_ISR.key 5 0) s.view ((w.setFlag Reg.CAL_WRITE_FAIL fail).log { code := 0x4F04, page := 5, detail := if fail then 1 else 0 }) :=
    (hs.set _ _ _ _ (key_ne_of_apart (by decide) _ _ _ _)).trans (sameAt_log _ _ (by decide))
  obtain ⟨v, hv, hb⟩ := isr_reads (bit := 16) (by decide) hsame (hrep.regs.trans hr)
  have hwi : (w.calWriteEnd fail).wiped = false := (calWriteEnd_reports w fail).wiped.trans hw
  rw [← hv.rd hc hwi] at hb
  exact hb

theorem calDone_shows {s : State} {c : Bytes} (ok : Bool) (ha : s.alive = true) (hc : Canonical s) (hn : s.node.pw.calNew = some c) :
    ∃ t, exec (.calWriteDone ok) s = .next t ∧ rd t Reg.CAL_WRITING = 0 ∧ t.node.pw.calNew = none ∧
      (ok = true → rd t Reg.CAL_PENDING = 1 ∧ rd t Reg.CAL_WRITE_FAIL = 0) ∧
      (ok = true → ∀ i : Nat, i < c.length → byteAt t (flashKey calFlash + i) = Sys2Proof.Crypto.at0 c i) ∧
      (ok = false → rd t Reg.CAL_WRITE_FAIL = 1 ∧ rd t Reg.CAL_PENDING = rd s Reg.CAL_PENDING) ∧ bitOf (rd t Reg.BLK_ISR 5) 16 = true := by
  refine ⟨_, calDone_run ok ha hn, ?_⟩
  have hout : ∀ i, outsideRing (flashKey calFlash + i) := fun i => .inr (by unfold flashKey calFlash ringBase; omega)
  generalize flashKey calFlash = a at hout ⊢
  have hw : Shows (calSettled s.view) Reg.CAL_WRITING 0 0 0 := shows_set _ _ _ _ _
  have hk : ∀ f : Fld, Apart Reg.CAL_WRITING f = true → ∀ i, SameAt (f.key i 0) s.view (calSettled s.view) :=
    fun f h i => (SameAt.refl _ s.view).set Reg.CAL_WRITING 0 0 0 (key_ne_of_apart h _ _ _ _)
  cases ok with
  | true =>
    rw [if_pos rfl]
    have he := calWriteEnd_reports (((calSettled s.view).store a c).set Reg.CAL_PENDING 1) false
    have hp : Shows (((calSettled s.view).store a c).set Reg.CAL_PENDING 1) Reg.CAL_PENDING 1 0 0 := shows_set _ _ _ _ _
    refine ⟨?_, ?_, fun _ => ⟨?_, ?_⟩, fun _ i hi => ?_, fun h => (by cases h), ?_⟩
    · exact (he.shows (plain_cal (by decide)) (((show Shows ((calSettled s.view).store a c) Reg.CAL_WRITING 0 0 0 from hw).set _ _ _ _
        (key_ne_of_apart (by decide) _ _ _ _)).set _ _ _ _ (key_ne_of_apart (by decide) _ _ _ _))).rd hc.1
    · rw [close_node, he.n_pw]
      rfl
    · exact (he.shows (plain_cal (by decide)) (hp.set _ _ _ _ (key_ne_of_apart (by decide) _ _ _ _))).rd hc.1
    · exact (he.shows (plain_cal (by decide)) (shows_flag _ _ false _ _ (by decide))).rd hc.1
    · rw [byteAt_reported hc he (hout i)]
      refine (Usage.byteAt_store hc (calSettled s.view) a c (a + i)).trans ?_
      rw [if_pos (by omega), Nat.add_sub_cancel_left]
      simp [Crypto.at0]
    · exact calWriteEnd_isr hc false ((hk _ (by decide) 5).set _ _ _ _ (key_ne_of_apart (by decide) _ _ _ _)) rfl rfl
  | false =>
    rw [if_neg Bool.false_ne_true]
    have he := calWriteEnd_reports (calSettled s.view) true
    refine ⟨?_, ?_, fun h => (by cases h), fun h => (by cases h), fun _ => ⟨?_, ?_⟩, calWriteEnd_isr hc true (hk _ (by decide) 5) rfl rfl⟩
    · exact (he.shows (plain_cal (by decide)) (hw.set _ _ _ _ (key_ne_of_apart (by decide) _ _ _ _))).rd hc.1
    · rw [close_node, he.n_pw]
      rfl
    · exact (he.shows (plain_cal (by decide)) (shows_flag _ _ true _ _ (by decide))).rd hc.1
    · exact (((hk _ (by decide) 0).set _ _ _ _ (key_ne_of_apart (by decide) _ _ _ _)).trans (he.sameAt (plain_cal (by decide)))).rd hc.1 he.wiped

/-- Settles O50, clause by clause. -/
theorem trimsMarginsAndCalibrationAreTaken : Obligations.TrimsMarginsAndCalibrationAreTaken := by
  unfold Obligations.TrimsMarginsAndCalibrationAreTaken
  refine ⟨fun s rs listed total mean ha hc ⟨hf, he⟩ ⟨hl, hne⟩ hall ht ⟨hm, hpos⟩ => ?_, fun s rs e ha hc hf h => trim_missed rs e ha hc hf h,
    fun s port half i x ha hc h => optical_shows port half i x ha hc h, fun s lost ha hc => degraded_shows lost ha hc,
    fun s wr src ha hc h hw hs => calWrite_shows ha h hw hs hc, fun s c ok ha hc hn => calDone_shows ok ha hc hn⟩
  subst hl ht hm
  exact trim_whole rs ha hc hf he hne hall hpos

end Sys2Proof.Trims
end

section
/-!
Management orders that read (R471 to R473, R481) and that write the flash in chunks (R474, R475).
-/

namespace Sys2Proof.Reads

open Sys2Proof.Machine Sys2Proof.Safety Sys2Proof.Laws Sys2Proof.Resets Sys2Proof.RegisterReads Sys2Proof.Orders

theorem exec_attest (s : State) (f : Frame) : exec (.attestOrder f) s = execAttestOrder f s := by simp only [exec]
theorem exec_calRead (s : State) (f : Frame) : exec (.calRead f) s = execCalRead f s := by simp only [exec]
theorem exec_logRead (s : State) (f : Frame) : exec (.logRead f) s = execLogRead f s := by simp only [exec]
theorem exec_usage (s : State) (f : Frame) : exec (.usageOrder f) s = execUsageOrder f s := by simp only [exec]
theorem exec_takenList (s : State) (f : Frame) : exec (.takenListOrder f) s = execTakenListOrder f s := by simp only [exec]

/-! ## What an answer leaves -/

theorem mgRespond_mt (w : Work) (r : MgReq) (st : Nat) (b : Bytes) : ∃ q, (w.mgRespond r st b).n.mt = { w.n.mt with requesters := q } := by
  simp only [Work.mgRespond, Work.mgSend, emit_n, count_n, apply_ite Work.n, ite_self]
  exact ⟨_, rfl⟩

theorem mgRespond_reports (w : Work) (r : MgReq) (st : Nat) (b : Bytes) : (w.mgRespond r st b).n.mt.reports = w.n.mt.reports := by
  obtain ⟨q, h⟩ := mgRespond_mt w r st b
  rw [h]

theorem mgRespond_meters (w : Work) (r : MgReq) (st : Nat) (b : Bytes) : (w.mgRespond r st b).n.mt.meters = w.n.mt.meters := by
  obtain ⟨q, h⟩ := mgRespond_mt w r st b
  rw [h]

theorem mgRespond_stream (w : Work) (r : MgReq) (st : Nat) (b : Bytes) : (w.mgRespond r st b).n.mt.stream = w.n.mt.stream := by
  obtain ⟨q, h⟩ := mgRespond_mt w r st b
  rw [h]

/-- The answer of an order that has not changed the node's identity or its tick. -/
theorem answered_order (s : State) (r : MgReq) (st : Nat) (b : Bytes) : Answered s (s.close ((orderWork s r).mgRespond r st b)) r st b :=
  answered_mgRespond r st b (orderWork_nodeId s r) rfl

theorem order_mem (s : State) (r : MgReq) (st : Nat) (b : Bytes) : (s.close ((orderWork s r).mgRespond r st b)).mem = s.mem :=
  close_mgRespond_mem r st b rfl rfl

/-! ## READ_REG -/

theorem readReg_one {s : State} {f : Frame} {r : MgReq} {o : Nat} (ha : s.alive = true) (hreq : requestOf s f 0x20 Reg.MG_R = some r)
    (hb : r.body = leBytes 4 1 ++ leBytes 4 o ∧ o % 4 = 0 ∧ o < 2 ^ 32) : ∃ t, exec (.readReg f) s = .next t ∧
      Answered s t r stOK (leBytes 4 ((orderWork s r).busRead .pf o).1) ∧ t.node.st = s.node.st ∧ t.node.pg = s.node.pg ∧ t.node.tp = s.node.tp ∧
      t.mem = s.mem := by
  obtain ⟨hb, h4, ho⟩ := hb
  have hx := exec_readReg (offs := [o]) ha hreq (by simpa using hb) (by simp) (by simp) (by simpa using ho)
  rw [if_neg (by simpa using h4)] at hx
  have hone : ((readsInOrder (orderWork s r) [o]).1.map (leBytes 4)).flatten = leBytes 4 ((orderWork s r).busRead .pf o).1 := by
    simp [readsInOrder]
  rw [hone] at hx
  refine ⟨_, hx, answered_mgRespond r _ _ (by rw [readsInOrder_nodeId, orderWork_nodeId]) (by rw [readsInOrder_now]; rfl), ?_⟩
  have hm := close_mgRespond_mem (s := s) (w := (readsInOrder (orderWork s r) [o]).2) r stOK (leBytes 4 ((orderWork s r).busRead .pf o).1) (by simp) (by simp)
  rw [hm, close_node, mgRespond_n, readsInOrder_n]
  split <;> exact ⟨rfl, rfl, rfl, rfl⟩

theorem readReg_misaligned {s : State} {f : Frame} {r : MgReq} {offs : List Nat} (ha : s.alive = true) (hreq : requestOf s f 0x20 Reg.MG_R = some r)
    (hb : r.body = leBytes 4 offs.length ++ (offs.map (leBytes 4)).flatten ∧ (∀ o ∈ offs, o < 2 ^ 32) ∧ 1 ≤ offs.length ∧ offs.length ≤ 256)
    (h4 : ∃ o ∈ offs, o % 4 ≠ 0) : ∃ t, exec (.readReg f) s = .next t ∧ Answered s t r stInternal [] ∧ t.mem = s.mem := by
  obtain ⟨hb, hlt, hmin, hmax⟩ := hb
  have hx := exec_readReg ha hreq hb hmin hmax hlt
  rw [if_pos h4] at hx
  exact ⟨_, hx, answered_order .., order_mem ..⟩

/-! ## ATTEST -/

/-- A well-formed ATTEST (R473). -/
abbrev AttestOk (r : MgReq) : Prop := r.body.length = 35 ∧ fieldAt r.body 32 1 ≤ 1 ∧ fieldAt r.body 33 1 ≤ 63 ∧ fieldAt r.body 34 1 ≤ 1

/-- What an ATTEST does (R473). -/
def attested (w : Work) (r : MgReq) : Work :=
  if w.attRunning then w.mgRespond r stOverBudget []
  else if r.offset = 0 ∧ (w.n.mt.reports.find? fun k => k.port = r.port).map (·.nonce) ≠ some (r.body.take 32) then
    { w with n.mt.reports := (w.n.mt.reports.filter fun x => x.port != r.port) ++
      [{ port := r.port, nonce := r.body.take 32, scope1 := fieldAt r.body 32 1 = 1, part := fieldAt r.body 33 1, cert := fieldAt r.body 34 1 = 1
         ask := some { mac := r.mac, seq := r.seq, key := r.key, epoch := r.epoch }, bytes := none }] }
  else match (w.n.mt.reports.find? fun k => k.port = r.port).bind (·.bytes) with
    | none => w.mgRespond r stInternal []
    | some b => w.mgRespond r stOK (reportPiece b r.offset)

theorem exec_attest_ok {s : State} {f : Frame} {r : MgReq} (ha : s.alive = true) (hreq : requestOf s f 0x21 Reg.MG_R = some r) (hb : AttestOk r) :
    exec (.attestOrder f) s = .next (s.close (attested (orderWork s r) r)) := by
  obtain ⟨h1, h2, h3, h4⟩ := hb
  rw [exec_attest, execAttestOrder, run_order ha hreq (by decide)]
  simp only [h1, Nat.not_lt.2 h2, Nat.not_lt.2 h3, Nat.not_lt.2 h4, ne_eq, not_true_eq_false, or_self, if_false]
  rfl

theorem kept_other {l : List KeptReport} {r : MgReq} (h : ∀ k ∈ l, k.port = r.port → k.nonce ≠ r.body.take 32) :
    (l.find? fun k => k.port = r.port).map (·.nonce) ≠ some (r.body.take 32) := by
  intro he
  obtain ⟨k, hk, hn⟩ := Option.map_eq_some_iff.1 he
  exact h k (List.mem_of_find?_eq_some hk) (by simpa using List.find?_some hk) hn

section
variable {s : State} {f : Frame} {r : MgReq} (ha : s.alive = true)
include ha

theorem attest_new (hreq : requestOf s f 0x21 Reg.MG_R = some r) (hb : AttestOk r) (hi : s.view.attRunning = false) (ho : r.offset = 0)
    (hn : ∀ k ∈ s.node.mt.reports, k.port = r.port → k.nonce ≠ r.body.take 32) : ∃ t, exec (.attestOrder f) s = .next t ∧
      (∃ k ∈ t.node.mt.reports, k.port = r.port ∧ k.nonce = r.body.take 32 ∧ k.part = fieldAt r.body 33 1 ∧
        (k.scope1 = true ↔ fieldAt r.body 32 1 = 1) ∧ (k.cert = true ↔ fieldAt r.body 34 1 = 1) ∧ k.bytes = none) ∧
      t.view.attRunning = true ∧ t.mem = s.mem := by
  have hrun : (orderWork s r).attRunning = false := hi
  have hother : (((orderWork s r).n.mt.reports.find? fun k => k.port = r.port).map (·.nonce)) ≠ some (r.body.take 32) := kept_other hn
  rw [exec_attest_ok ha hreq hb]
  unfold attested
  rw [if_neg (Bool.eq_false_iff.1 hrun), if_pos ⟨ho, hother⟩]
  refine ⟨_, rfl, ⟨_, List.mem_append_right _ List.mem_cons_self, rfl, rfl, rfl, decide_eq_true_iff, decide_eq_true_iff, rfl⟩, ?_, rfl⟩
  unfold Work.attRunning
  rw [Bool.or_eq_true, List.any_eq_true]
  exact .inr ⟨_, List.mem_append_right _ List.mem_cons_self, rfl⟩

theorem attest_running (hreq : requestOf s f 0x21 Reg.MG_R = some r) (hb : AttestOk r) (hi : s.view.attRunning = true) :
    ∃ t, exec (.attestOrder f) s = .next t ∧ Answered s t r stOverBudget [] ∧ t.node.mt.reports = s.node.mt.reports := by
  have hrun : (orderWork s r).attRunning = true := hi
  rw [exec_attest_ok ha hreq hb]
  unfold attested
  rw [if_pos hrun]
  exact ⟨_, rfl, answered_order .., mgRespond_reports ..⟩

theorem attest_kept (hreq : requestOf s f 0x21 Reg.MG_R = some r) (hb : AttestOk r) (hi : s.view.attRunning = false) {k : KeptReport} {b : Bytes}
    (hk : (s.node.mt.reports.find? fun k => k.port = r.port) = some k ∧ k.bytes = some b ∧ (r.offset ≠ 0 ∨ k.nonce = r.body.take 32)) :
    ∃ t, exec (.attestOrder f) s = .next t ∧ Answered s t r stOK (leBytes 4 b.length ++ (b.drop r.offset).take 1408) ∧
      t.node.mt.reports = s.node.mt.reports := by
  obtain ⟨hf, hbytes, hn⟩ := hk
  have hrun : (orderWork s r).attRunning = false := hi
  have hf' : ((orderWork s r).n.mt.reports.find? fun k => k.port = r.port) = some k := hf
  rw [exec_attest_ok ha hreq hb]
  unfold attested
  rw [if_neg (Bool.eq_false_iff.1 hrun), hf', if_neg (by rintro ⟨h0, hne⟩; exact hn.elim (fun h => h h0) fun h => hne (by rw [Option.map_some, h])),
    Option.bind_some, hbytes]
  exact ⟨_, rfl, answered_order .., mgRespond_reports ..⟩

/-! ## The calibration set, the prompt book, statements and the takeover list -/

theorem calRead_answers (hreq : requestOf s f 0x22 Reg.MG_R = some r) (hb : r.body = [] ∧ r.offset + 1024 ≤ 65536) :
    ∃ t, exec (.calRead f) s = .next t ∧ Answered s t r stOK (s.view.bytes (flashKey (calFlash + r.offset)) 1024) ∧ t.mem = s.mem := by
  obtain ⟨hb, ho⟩ := hb
  rw [exec_calRead, execCalRead, run_order ha hreq (by decide)]
  generalize flashKey (calFlash + r.offset) = a
  have hbytes : (orderWork s r).bytes a 1024 = s.view.bytes a 1024 := rfl
  rw [if_neg (by rw [hb]; simp; omega), hbytes]
  exact ⟨_, rfl, answered_order .., order_mem ..⟩

omit ha in
theorem leBytes_mod {n v u : Nat} (h : v % 256 ^ n = u % 256 ^ n) : leBytes n v = leBytes n u := by
  induction n generalizing v u with
  | zero => rfl
  | succ n ih =>
    rw [pow_succ', Nat.mod_mul, Nat.mod_mul] at h
    have h1 : v % 256 = u % 256 := by omega
    have h2 : v / 256 % 256 ^ n = u / 256 % 256 ^ n := by omega
    rw [leBytes, leBytes, ih h2]
    exact congrArg (· :: _) (BitVec.eq_of_toNat_eq (by rw [BitVec.toNat_ofNat, BitVec.toNat_ofNat]; exact h1))

omit ha in
/-- The entry that a SEQ names bears it (R410). -/
theorem bookSeq_mod (w : Work) {seq : Nat} (h : seq < 2 ^ 32) : w.bookSeq seq % 256 ^ 4 = seq % 256 ^ 4 := by
  unfold Work.bookSeq
  dsimp only
  split <;> omega

/-- What a LOG_READ of `n` entries from an entry on answers (R473). -/
def bookPiece (w : Work) (seq n : Nat) : Bytes :=
  let first := if seq < w.n.logSeq ∧ (w.bookEntry seq).isNone then w.oldestEntry else seq
  leBytes 4 first ++ ((List.range n).filterMap fun i => w.bookEntry (first + i)).flatten

omit ha in
theorem bookPiece_one {w : Work} {seq : Nat} {b : Bytes} (h : w.bookEntry seq = some b) : bookPiece w seq 1 = leBytes 4 seq ++ b := by
  have hf : ¬ (seq < w.n.logSeq ∧ (w.bookEntry seq).isNone = true) := by rw [h]; simp
  unfold bookPiece
  dsimp only
  rw [if_neg hf]
  simp [h]

theorem logRead_run (hreq : requestOf s f 0x23 Reg.MG_R = some r) (hlen : r.body.length = 5) (hn : fieldAt r.body 4 1 = 1) :
    exec (.logRead f) s = .next (s.close ((orderWork s r).mgRespond r stOK (bookPiece (orderWork s r) ((orderWork s r).bookSeq (fieldAt r.body 0 4)) 1))) := by
  rw [exec_logRead, execLogRead, run_order ha hreq (by decide)]
  simp only [hlen, hn, ne_eq, not_true_eq_false, false_or, (by omega : ¬ (1 < 1 ∨ 44 < 1)), if_false]
  rfl

omit ha in
theorem bookEntry_held {w : Work} {seq : Nat} {e : LogEntry} (h : (w.n.log.find? fun e => e.seq = seq) = some e) : w.bookEntry seq = some e.bytes := by
  unfold Work.bookEntry
  rw [h]

omit ha in
theorem bookSeq_order (s : State) (r : MgReq) (seq : Nat) : (orderWork s r).bookSeq seq = s.view.bookSeq seq := by
  have hl : (orderWork s r).n.logSeq = s.view.n.logSeq := rfl
  simp only [Work.bookSeq, hl]

theorem logRead_answers (hreq : requestOf s f 0x23 Reg.MG_R = some r) {seq : Nat} {e : LogEntry}
    (hb : r.body = leBytes 4 seq ++ [1] ∧ seq < 2 ^ 32 ∧ (s.node.log.find? fun e => e.seq = s.view.bookSeq seq) = some e) :
    ∃ t, exec (.logRead f) s = .next t ∧ Answered s t r stOK (leBytes 4 seq ++ e.bytes) ∧ t.node.log = s.node.log ∧ t.mem = s.mem := by
  obtain ⟨hb, hs, he⟩ := hb
  have hlen : r.body.length = 5 := by rw [hb, List.length_append, leBytes_length]; rfl
  have hseq : fieldAt r.body 0 4 = seq := by rw [hb]; exact fieldAt_leBytes_append hs _
  have hn : fieldAt r.body 4 1 = 1 := by
    rw [hb]
    exact fieldAt_append_right (leBytes 4 seq) [1] 0 1
  have hentry : (orderWork s r).bookEntry (s.view.bookSeq seq) = some e.bytes := bookEntry_held he
  have hbook := leBytes_mod (bookSeq_mod s.view hs)
  have hlog : ∀ b, ((orderWork s r).mgRespond r stOK b).n.log = s.node.log := fun b => (mgRespond_field (·.log) (fun _ _ _ => rfl) _ _ _ _).trans rfl
  have hx := logRead_run ha hreq hlen hn
  rw [hseq, bookSeq_order, bookPiece_one hentry, hbook] at hx
  exact ⟨_, hx, answered_order .., hlog _, order_mem ..⟩

theorem usage_answers (hreq : requestOf s f 0x24 Reg.MG_R = some r) {m : Meter16} {b : Bytes}
    (hb : r.body.length = 5 ∧ (s.node.mt.meters.find? fun m => m.part = fieldAt r.body 0 1) = some m)
    (hk : (((m.kept ++ m.final.toList).map (·.2)).find? fun b => fieldAt b 8 4 = fieldAt r.body 1 4) = some b) :
    ∃ t, exec (.usageOrder f) s = .next t ∧ Answered s t r stOK ((b.drop r.offset).take 1408) ∧ t.node.mt.meters = s.node.mt.meters ∧
      t.mem = s.mem := by
  obtain ⟨hlen, hm⟩ := hb
  have hm' : ((orderWork s r).n.mt.meters.find? fun m => m.part = fieldAt r.body 0 1) = some m := hm
  rw [exec_usage, execUsageOrder, run_order ha hreq (by decide)]
  simp only [hlen, hm', Option.bind_some, hk, if_true]
  exact ⟨_, rfl, answered_order .., mgRespond_meters .., order_mem ..⟩

theorem takenList_answers (hreq : requestOf s f 0x25 Reg.MG_R = some r) (hb : r.body = []) : ∃ t, exec (.takenListOrder f) s = .next t ∧
    Answered s t r stOK ((s.node.mi.takenList.drop r.offset).take 1408) ∧ t.node.mi = s.node.mi ∧ t.mem = s.mem := by
  have hmi : ∀ b, ((orderWork s r).mgRespond r stOK b).n.mi = s.node.mi := fun b => (mgRespond_field (·.mi) (fun _ _ _ => rfl) _ _ _ _).trans rfl
  rw [exec_takenList, execTakenListOrder, run_order ha hreq (by decide), if_pos (by rw [hb]; rfl)]
  exact ⟨_, rfl, answered_order .., hmi _, order_mem ..⟩

end

/-- Settles O47, read by read. -/
theorem managementReads : Obligations.ManagementReads := by
  unfold Obligations.ManagementReads
  exact ⟨fun s f r o ha hc hreq hb => readReg_one ha hreq hb, fun s f r offs ha hc hreq hb h4 => readReg_misaligned ha hreq hb h4,
    fun s f r ha hc hreq hb ⟨hi, ho⟩ hn => attest_new ha hreq hb hi ho hn, fun s f r ha hc hreq hb hi => attest_running ha hreq hb hi,
    fun s f r k b ha hc hreq hb hi hk => attest_kept ha hreq hb hi hk, fun s f r ha hc hreq hb => calRead_answers ha hreq hb,
    fun s f r seq e ha hc hreq hb => logRead_answers ha hreq hb, fun s f r m b ha hc hreq hb hk => usage_answers ha hreq hb hk,
    fun s f r ha hc hreq hb => takenList_answers ha hreq hb⟩

end Sys2Proof.Reads
end

section
/-!
Orders that write the flash in chunks: images and debug tokens (R448, R474, R475).
-/

namespace Sys2Proof.Chunks

open Sys2Proof.Machine Sys2Proof.Safety Sys2Proof.Laws Sys2Proof.Resets Sys2Proof.RegisterReads Sys2Proof.Orders Sys2Proof.Reads

theorem exec_image (s : State) (f : Frame) : exec (.imageWrite f) s = execImageWrite f s := by simp only [exec]
theorem exec_idle (s : State) : exec .imageStreamIdle s = execImageStreamIdle s := by simp only [exec]
theorem exec_token (s : State) (f : Frame) : exec (.debugToken f) s = execDebugToken f s := by simp only [exec]
theorem exec_clear (s : State) (f : Frame) : exec (.debugClear f) s = execDebugClear f s := by simp only [exec]

theorem nodeId_of_rw {w v : Work} (h : v.rw = w.rw) (hr : v.regs = w.regs) : v.nodeId = w.nodeId := by
  unfold Work.nodeId Work.get Work.raw
  rw [h, hr]

/-- The node as an order finds it: what its answers and its writes rest on. -/
structure Found (s : State) (w : Work) : Prop where
  nodeId : w.nodeId = s.view.nodeId
  tk : w.n.tk = s.node.tk
  bo : w.n.bo = s.node.bo
  stream : w.n.mt.stream = s.node.mt.stream
  wr : w.wr = []
  wiped : w.wiped = false

theorem found_order (s : State) (r : MgReq) : Found s (orderWork s r) := ⟨orderWork_nodeId s r, rfl, rfl, rfl, rfl, rfl⟩

/-- The answer of an order that has set no register. -/
theorem Found.answered {s : State} {w : Work} (h : Found s w) (r : MgReq) (v : Work) (hrw : v.rw = w.rw) (hr : v.regs = w.regs) (hn : v.n.tk = w.n.tk)
    (st : Nat) (b : Bytes) : Answered s (s.close (v.mgRespond r st b)) r st b :=
  answered_mgRespond r st b ((nodeId_of_rw hrw hr).trans h.nodeId) (congrArg TickBox.now (hn.trans h.tk))

/-- What an order has stored when it answers. -/
theorem close_answer_mem {s : State} {v : Work} {r : MgReq} {st : Nat} {b : Bytes} {m : Mem} (hw : v.wiped = false)
    (hm : v.wr.reverse.foldl Mem.apply s.mem = m) : (s.close (v.mgRespond r st b)).mem = m := by
  rw [close_mem, mgRespond_wr, mgRespond_wiped, hw]
  exact hm

/-! ## A chunk -/

/-- What a chunk leaves its stream at (R474). -/
def chunkAt (s : State) (r : MgReq) (image : Nat) (data token : Bytes) : ChunkStream :=
  { port := r.port, mac := r.mac, image := image, next := r.offset + data.length, last := s.node.tk.upPs, token := token }

/-- The stream that a chunk opens or continues. -/
abbrev Continues (s : State) (r : MgReq) (image : Nat) : Prop :=
  (s.node.mt.stream = none ∧ r.offset = 0) ∨ ∃ x ∈ s.node.mt.stream, s.node.tk.upPs < x.last + 10000000000000 ∧ x.port = r.port ∧ x.mac = r.mac ∧
    x.image = image ∧ x.next = r.offset

theorem openStream_order (s : State) (r : MgReq) : (orderWork s r).openStream = s.node.mt.stream.filter fun t => s.node.tk.upPs < t.last + 10000000000000 := rfl

theorem chunk_goes_on {s : State} {r : MgReq} {image : Nat} (data : Bytes) (act : Work → ChunkStream → Work) (h : Continues s r image) :
    ∃ token, (orderWork s r).chunk r image data act = act (orderWork s r) (chunkAt s r image data token) := by
  unfold Work.chunk
  rw [openStream_order]
  rcases h with ⟨hn, h0⟩ | ⟨x, hx, hlt, h1, h2, h3, h4⟩
  · rw [hn]
    exact ⟨data, if_pos h0⟩
  · rw [Option.mem_def.1 hx, Option.filter_some, if_pos (decide_eq_true hlt)]
    exact ⟨x.token ++ data, if_pos ⟨h1, h2, h3, h4⟩⟩

theorem chunk_opens {s : State} {r : MgReq} {image : Nat} (data : Bytes) (act : Work → ChunkStream → Work) (hn : s.node.mt.stream = none) (h0 : r.offset = 0) :
    (orderWork s r).chunk r image data act = act (orderWork s r) (chunkAt s r image data data) := by
  unfold Work.chunk
  rw [openStream_order, hn]
  exact if_pos h0

theorem chunk_refused {s : State} {r : MgReq} {image : Nat} (data : Bytes) (act : Work → ChunkStream → Work) {x : ChunkStream}
    (hx : s.node.mt.stream = some x ∧ s.node.tk.upPs < x.last + 10000000000000 ∧ ¬ (x.port = r.port ∧ x.mac = r.mac ∧ x.image = image ∧ x.next = r.offset)) :
    (orderWork s r).chunk r image data act = (orderWork s r).mgRespond r stOverBudget [] := by
  obtain ⟨hx, hlt, hne⟩ := hx
  unfold Work.chunk
  rw [openStream_order, hx, Option.filter_some, if_pos (decide_eq_true hlt)]
  exact if_neg hne

/-! ## Images -/

/-- A chunk of an image that the node may take (R474). -/
abbrev ImageOk (s : State) (r : MgReq) (image : Nat) : Prop :=
  (image = fieldAt r.body 0 1 ∧ image ≤ 1 ∧ 2 ≤ r.body.length ∧ r.body.length ≤ 1025 ∧ r.offset + r.body.length - 1 ≤ 0x02100000) ∧
  ¬ (s.node.bo.running = some image ∧ (1 - image) ∈ s.node.bo.imgFailed)

/-- The node once a chunk of an image is stored at an address and its stream waits for the next (R474). -/
def chunkStored (w : Work) (r : MgReq) (a : Nat) (t : ChunkStream) : Work :=
  ({ w.store a (r.body.drop 1) with n.mt.stream := some { t with token := [] } } : Work).mgRespond r stOK []

/-- The node once the last chunk of an image is stored and its verification is noted. -/
def chunkLogged (w : Work) (r : MgReq) (a image : Nat) : Work :=
  ({ w.store a (r.body.drop 1) with n.mt.stream := none } : Work).log
    { code := 0x4F02, page := 6 + r.port, detail := image + (if ((w.store a (r.body.drop 1)).imageFails image).isNone then 2 else 0) }

/-- The node once the last chunk of an image is answered. -/
def chunkEnded (w : Work) (r : MgReq) (a image : Nat) : Work :=
  let ok := ((w.store a (r.body.drop 1)).imageFails image).isNone
  let v := (chunkLogged w r a image).mgRespond r (if ok then stOK else stInternal) []
  if ok && v.n.bo.recovery then v.warmReset Reg.GLB_RECOVERY else v

section
variable {s : State} {r : MgReq} {w : Work} (hw : Found s w) (a : Nat)
include hw

theorem chunkStored_shows (t : ChunkStream) : (s.close (chunkStored w r a t)).mem = Mem.putAll s.mem a (r.body.drop 1) ∧
    (s.close (chunkStored w r a t)).node.mt.stream = some { t with token := [] } ∧ Answered s (s.close (chunkStored w r a t)) r stOK [] ∧
    (s.close (chunkStored w r a t)).node.bo = s.node.bo := by
  unfold chunkStored
  refine ⟨close_answer_mem hw.wiped ?_, ?_, hw.answered r _ rfl rfl rfl stOK [], (mgRespond_field (·.bo) (fun _ _ _ => rfl) _ r stOK []).trans hw.bo⟩
  · rw [store_wr, hw.wr]
    rfl
  · rw [close_node, mgRespond_stream]

theorem chunkEnded_shows (hcan : Canonical s) (image : Nat) (hrec : s.node.bo.recovery = false) (hout : ∀ i, outsideRing (a + i)) :
    (s.close (chunkEnded w r a image)).node.mt.stream = none ∧
    Answered s (s.close (chunkEnded w r a image)) r (if (w.store a (r.body.drop 1)).imageFails image = none then stOK else stInternal) [] ∧
    ∀ i : Nat, i < r.body.length - 1 → byteAt (s.close (chunkEnded w r a image)) (a + i) = Sys2Proof.Crypto.at0 r.body (i + 1) := by
  have hrep : Reports ({ w.store a (r.body.drop 1) with n.mt.stream := none } : Work) (chunkLogged w r a image) := reports_log _ _
  have hrecu : (chunkLogged w r a image).n.bo.recovery = false := (congrArg BringUp.recovery (hrep.n_bo.trans hw.bo)).trans hrec
  have hid : (chunkLogged w r a image).nodeId = s.view.nodeId :=
    ((hrep.get (by unfold Plain; decide)).trans (nodeId_of_rw rfl rfl)).trans hw.nodeId
  have hnow : (chunkLogged w r a image).now = s.node.tk.now := congrArg TickBox.now (hrep.n_tk.trans hw.tk)
  have hstream : (chunkLogged w r a image).n.mt.stream = none := congrArg Mgmt.stream hrep.n_mt
  unfold chunkEnded
  generalize (w.store a (r.body.drop 1)).imageFails image = v
  generalize chunkLogged w r a image = u at hrep hrecu hid hnow hstream ⊢
  have hbo : ∀ st, (u.mgRespond r st []).n.bo.recovery = false := fun st =>
    (congrArg BringUp.recovery (mgRespond_field (·.bo) (fun _ _ _ => rfl) u r st [])).trans hrecu
  have hst : (if v.isNone = true then stOK else stInternal) = if v = none then stOK else stInternal := if_congr Option.isNone_iff_eq_none rfl rfl
  simp only [hbo, Bool.and_false, Bool.false_eq_true, if_false, hst]
  generalize (if v = none then stOK else stInternal) = st
  refine ⟨?_, answered_mgRespond r _ [] hid hnow, fun i hi => ?_⟩
  · rw [close_node, mgRespond_stream, hstream]
  · have hm : byteAt (s.close (u.mgRespond r st [])) (a + i) = byteAt (s.close u) (a + i) := by
      unfold byteAt
      rw [close_mem, close_mem, mgRespond_wr, mgRespond_wiped]
    rw [hm, Trims.byteAt_reported hcan hrep (hout i)]
    refine (Usage.byteAt_store hcan w a (r.body.drop 1) (a + i)).trans ?_
    rw [if_pos (by rw [List.length_drop]; omega), Nat.add_sub_cancel_left]
    simp [Crypto.at0, Nat.add_comm]

/-- A token in flash, its stream at an end. -/
theorem token_programmed (token : Bytes) :
    (s.close (({ (w.zero a 4096).store a token with n.mt.stream := none } : Work).mgRespond r stOK [])).mem = Mem.putAll (s.mem.clear a 4096) a token ∧
    (s.close (({ (w.zero a 4096).store a token with n.mt.stream := none } : Work).mgRespond r stOK [])).node.mt.stream = none ∧
    Answered s (s.close (({ (w.zero a 4096).store a token with n.mt.stream := none } : Work).mgRespond r stOK [])) r stOK [] := by
  refine ⟨close_answer_mem hw.wiped ?_, ?_, hw.answered r _ rfl rfl rfl stOK []⟩
  · rw [store_wr, zero_wr, hw.wr]
    rfl
  · rw [close_node, mgRespond_stream]

omit a in
/-- A chunk of a token kept with its stream. -/
theorem token_kept (t : ChunkStream) : (s.close (({ w with n.mt.stream := some t } : Work).mgRespond r stOK [])).mem = s.mem ∧
    (s.close (({ w with n.mt.stream := some t } : Work).mgRespond r stOK [])).node.mt.stream = some t ∧
    Answered s (s.close (({ w with n.mt.stream := some t } : Work).mgRespond r stOK [])) r stOK [] := by
  refine ⟨close_answer_mem hw.wiped ?_, ?_, hw.answered r _ rfl rfl rfl stOK []⟩
  · rw [hw.wr]
    rfl
  · rw [close_node, mgRespond_stream]

theorem token_erased : Answered s (s.close ((w.zero a 4096).mgRespond r stOK [])) r stOK [] ∧
    (s.close ((w.zero a 4096).mgRespond r stOK [])).mem = s.mem.clear a 4096 ∧
    (s.close ((w.zero a 4096).mgRespond r stOK [])).node.mt.stream = s.node.mt.stream := by
  refine ⟨hw.answered r _ rfl rfl rfl stOK [], close_answer_mem hw.wiped ?_, ?_⟩
  · rw [zero_wr, hw.wr]
    rfl
  · rw [close_node, mgRespond_stream]
    exact hw.stream

end

section
variable {s : State} {f : Frame} {r : MgReq} (ha : s.alive = true)
include ha

theorem image_run {image : Nat} (hreq : requestOf s f 0x30 Reg.MG_W = some r) (hok : ImageOk s r image) :
    exec (.imageWrite f) s = .next (s.close ((orderWork s r).chunk r image (r.body.drop 1) fun w t =>
      if !bitOf r.flags 2 then chunkStored w r (flashKey (imageFlash image + r.offset)) t
      else chunkEnded w r (flashKey (imageFlash image + r.offset)) image)) := by
  obtain ⟨⟨rfl, h1, h2, h3, h4⟩, hn⟩ := hok
  have he : (r.body.drop 1).isEmpty = false := by
    rw [List.isEmpty_eq_false_iff, ← List.length_pos_iff, List.length_drop]
    omega
  have hl : ¬ (1 < fieldAt r.body 0 1 ∨ (r.body.drop 1).isEmpty = true ∨ 1024 < (r.body.drop 1).length ∨
      0x02100000 < r.offset + (r.body.drop 1).length) := by
    rw [he, List.length_drop]
    simp only [Bool.false_eq_true, false_or]
    omega
  have hr : ¬ ((orderWork s r).n.bo.running = some (fieldAt r.body 0 1) ∧ (orderWork s r).n.bo.imgFailed.contains (1 - fieldAt r.body 0 1) = true) := by
    rintro ⟨h, hc⟩
    exact hn ⟨h, List.contains_iff_mem.1 hc⟩
  rw [exec_image, execImageWrite, run_order ha hreq (by decide)]
  refine congrArg (fun w => Host.Outcome.next (s.close w)) ((if_neg hl).trans ((if_neg hr).trans ?_))
  generalize flashKey (imageFlash (fieldAt r.body 0 1) + r.offset) = a
  generalize fieldAt r.body 0 1 = image
  generalize orderWork s r = w
  refine congrArg (w.chunk r image (r.body.drop 1)) (funext fun w => funext fun t => ?_)
  refine ite_congr rfl (fun _ => ?_) (fun _ => ?_)
  · rw [chunkStored]
  · rw [chunkEnded, chunkLogged]

theorem image_continues {image : Nat} (hreq : requestOf s f 0x30 Reg.MG_W = some r) (hok : ImageOk s r image) (hf : bitOf r.flags 2 = false)
    (hs : Continues s r image) : ∃ t, exec (.imageWrite f) s = .next t ∧
      t.mem = Mem.putAll s.mem (flashKey (imageFlash image + r.offset)) (r.body.drop 1) ∧
      (∃ x ∈ t.node.mt.stream, x.port = r.port ∧ x.mac = r.mac ∧ x.image = image ∧ x.next = r.offset + r.body.length - 1 ∧ x.last = s.node.tk.upPs) ∧
      Answered s t r stOK [] ∧ t.node.bo = s.node.bo := by
  obtain ⟨token, hc⟩ := chunk_goes_on (r.body.drop 1) _ hs
  have hx := image_run ha hreq hok
  rw [hc, hf, if_pos Bool.not_false] at hx
  obtain ⟨h1, h2, h3, h4⟩ := chunkStored_shows (r := r) (found_order s r) (flashKey (imageFlash image + r.offset)) (chunkAt s r image (r.body.drop 1) token)
  have hn : r.offset + (r.body.drop 1).length = r.offset + r.body.length - 1 := by
    have := hok.1.2.2.1
    rw [List.length_drop, Nat.add_sub_assoc (by omega)]
  exact ⟨_, hx, h1, ⟨_, Option.mem_def.2 h2, rfl, rfl, rfl, hn, rfl⟩, h3, h4⟩

theorem image_ends {image : Nat} (hcan : Canonical s) (hreq : requestOf s f 0x30 Reg.MG_W = some r) (hok : ImageOk s r image)
    (hf : bitOf r.flags 2 = true ∧ s.node.bo.recovery = false) (hs : Continues s r image) : ∃ t, exec (.imageWrite f) s = .next t ∧
      t.node.mt.stream = none ∧
      (Answered s t r (if ((orderWork s r).store (flashKey (imageFlash image + r.offset)) (r.body.drop 1)).imageFails image = none then stOK else stInternal) []) ∧
      (∀ i : Nat, i < r.body.length - 1 → byteAt t (flashKey (imageFlash image + r.offset) + i) = Sys2Proof.Crypto.at0 r.body (i + 1)) := by
  obtain ⟨hf, hrec⟩ := hf
  obtain ⟨token, hc⟩ := chunk_goes_on (r.body.drop 1) _ hs
  have hx := image_run ha hreq hok
  rw [hc, hf, if_neg (by decide)] at hx
  have hout : ∀ i, outsideRing (flashKey (imageFlash image + r.offset) + i) := fun i => .inr (by unfold flashKey ringBase; omega)
  exact ⟨_, hx, chunkEnded_shows (found_order s r) _ hcan image hrec hout⟩

theorem image_busy {image : Nat} (hreq : requestOf s f 0x30 Reg.MG_W = some r) (hok : ImageOk s r image) {x : ChunkStream}
    (hx : s.node.mt.stream = some x ∧ s.node.tk.upPs < x.last + 10000000000000 ∧ ¬ (x.port = r.port ∧ x.mac = r.mac ∧ x.image = image ∧ x.next = r.offset)) :
    ∃ t, exec (.imageWrite f) s = .next t ∧ Answered s t r stOverBudget [] ∧ t.mem = s.mem ∧ t.node.mt.stream = s.node.mt.stream := by
  have h := image_run ha hreq hok
  rw [chunk_refused _ _ hx] at h
  exact ⟨_, h, answered_order .., order_mem .., mgRespond_stream ..⟩

theorem stream_idle {x : ChunkStream} (hx : s.node.mt.stream = some x) (hl : x.last + 10000000000000 ≤ s.node.tk.upPs + s.view.periodPs) :
    exec .imageStreamIdle s = .next { s with node := { s.node with mt := { s.node.mt with stream := none } } } := by
  have hx' : s.view.n.mt.stream = some x := hx
  rw [exec_idle, execImageStreamIdle, run_alive _ ha]
  simp only [hx']
  have hps : ¬ (s.view.ps + s.view.periodPs < x.last + 10000000000000) := Nat.not_lt.2 hl
  rw [if_neg hps]
  exact congrArg _ (Window.close_of_n s _)

/-! ## Tokens -/

theorem token_run (hreq : requestOf s f 0x31 Reg.MG_W = some r)
    (hb : r.body ≠ [] ∧ r.body.length ≤ 1024 ∧ r.offset = 0 ∧ s.node.mt.stream = none) : exec (.debugToken f) s = .next (s.close
      (if !bitOf r.flags 2 then ({ orderWork s r with n.mt.stream := some (chunkAt s r 2 r.body r.body) } : Work).mgRespond r stOK []
       else ({ ((orderWork s r).zero (flashKey tokenFlash) 4096).store (flashKey tokenFlash) r.body with n.mt.stream := none } : Work).mgRespond r stOK [])) := by
  obtain ⟨hne, hlen, h0, hs⟩ := hb
  rw [exec_token, execDebugToken, run_order ha hreq (by decide)]
  rw [if_neg (by rw [List.isEmpty_eq_false_iff.2 hne, h0]; simp only [Bool.false_eq_true, false_or]; omega), chunk_opens _ _ hs h0]
  rfl

theorem token_first (hreq : requestOf s f 0x31 Reg.MG_W = some r)
    (hb : r.body ≠ [] ∧ r.body.length ≤ 1024 ∧ r.offset = 0 ∧ s.node.mt.stream = none) : ∃ t, exec (.debugToken f) s = .next t ∧ Answered s t r stOK [] ∧
      (bitOf r.flags 2 = false → t.mem = s.mem ∧
        ∃ x ∈ t.node.mt.stream, x.image = 2 ∧ x.token = r.body ∧ x.next = r.body.length ∧ x.port = r.port ∧ x.mac = r.mac) ∧
      (bitOf r.flags 2 = true → t.mem = Mem.putAll (s.mem.clear (flashKey tokenFlash) 4096) (flashKey tokenFlash) r.body ∧ t.node.mt.stream = none) := by
  have hx := token_run ha hreq hb
  cases hf : bitOf r.flags 2 with
  | false =>
    rw [hf, if_pos Bool.not_false] at hx
    obtain ⟨h1, h2, h3⟩ := token_kept (r := r) (found_order s r) (chunkAt s r 2 r.body r.body)
    have hn : r.offset + r.body.length = r.body.length := by rw [hb.2.2.1, Nat.zero_add]
    exact ⟨_, hx, h3, fun _ => ⟨h1, _, Option.mem_def.2 h2, rfl, rfl, hn, rfl, rfl⟩, fun h => (by cases h)⟩
  | true =>
    rw [hf, if_neg (by decide)] at hx
    obtain ⟨h1, h2, h3⟩ := token_programmed (r := r) (found_order s r) (flashKey tokenFlash) r.body
    exact ⟨_, hx, h3, fun h => (by cases h), fun _ => ⟨h1, h2⟩⟩

theorem clear_run (hreq : requestOf s f 0x32 Reg.MG_W = some r) (hb : r.body = []) :
    exec (.debugClear f) s = .next (s.close (((orderWork s r).zero (flashKey tokenFlash) 4096).mgRespond r stOK [])) := by
  rw [exec_clear, execDebugClear, run_order ha hreq (by decide), if_pos (by rw [hb]; rfl)]

theorem token_cleared (hreq : requestOf s f 0x32 Reg.MG_W = some r) (hb : r.body = []) : ∃ t, exec (.debugClear f) s = .next t ∧
    Answered s t r stOK [] ∧ t.mem = s.mem.clear (flashKey tokenFlash) 4096 ∧ t.node.mt.stream = s.node.mt.stream :=
  ⟨_, clear_run ha hreq hb, token_erased (found_order s r) _⟩

end

/-- Settles O48, order by order. -/
theorem chunkedWritesFillTheFlash : Obligations.ChunkedWritesFillTheFlash := by
  unfold Obligations.ChunkedWritesFillTheFlash
  exact ⟨fun s f r image ha hc hreq hb hn hf hs => image_continues ha hreq ⟨hb, hn⟩ hf hs,
    fun s f r image ha hc hreq hb hn hf hs => image_ends ha hc hreq ⟨hb, hn⟩ hf hs,
    fun s f r image x ha hc hreq hb hn hx => image_busy ha hreq ⟨hb, hn⟩ hx, fun s x ha hx hl => stream_idle ha hx hl,
    fun s f r ha hc hreq hb => token_first ha hreq hb, fun s f r ha hc hreq hb => token_cleared ha hreq hb⟩

end Sys2Proof.Chunks
end

section
/-!
Units and credits on the links (chapters 08 and 11).
-/

namespace Sys2Proof.Links

open Sys2Proof.Machine Sys2Proof.Safety Sys2Proof.Laws Sys2Proof.Entering Sys2Proof.Fields Sys2Proof.Training Sys2Proof.TickSource
open Sys2Proof.Queues Sys2Proof.Assoc Sys2Proof.Functions

theorem exec_unitReceived (s : State) (p h : Nat) (ws : List LaneWord) (n : Nat) :
    exec (.linkUnitReceived p h ws n) s = execLinkUnitReceived p h ws n s := by simp only [exec]
theorem exec_uncorrectable (s : State) (p h : Nat) (x : BadWord) (n : Nat) :
    exec (.codewordUncorrectable p h x n) s = execCodewordUncorrectable p h x n s := by simp only [exec]
theorem exec_credit (s : State) (p h : Nat) (x : Bytes) : exec (.creditFlit p h x) s = execCreditFlit p h x s := by simp only [exec]
theorem exec_unitStart (s : State) (p h : Nat) : exec (.portUnitStart p h) s = execPortUnitStart p h s := by simp only [exec]

/-! ## Halves of a port -/

theorem modHalf_n (w : Work) (p h : Nat) (f : Half → Half) : (w.modHalf p h f).n = { w.n with lk := { w.n.lk with halves := w.n.lk.halves.modify (2 * p + h) f } } := rfl

/-- A half after a change of it that ends a command. -/
theorem half_close_modHalf (s : State) (w : Work) {p h : Nat} (f : Half → Half) (hh : p < 32 ∧ h < 2) (hl : w.n.lk.halves.length = 64) :
    (s.close (w.modHalf p h f)).view.half p h = f (w.half p h) :=
  half_modHalf w f (by omega)

theorem guard_false {a b : Bool} (ha : a = true) (hb : b = true) : ¬ ((!a || !b) = true) := by
  rw [ha, hb]
  decide

theorem state_ne_false {a : Bool} {v n : Nat} (ha : a = true) (hv : v = n) : ¬ ((!a || v != n) = true) := by
  rw [ha, hv, bne_self_eq_false]
  decide

section
variable {s : State} {p half : Nat} (ha : s.alive = true) (hh : s.view.hasHalf p half = true)
include ha hh

/-! ## Received units -/

theorem unit_run (words : List LaneWord) (first : Nat) {slots : List (List Slot)} (h5 : s.view.portState p half = 5)
    (hm : words.mapM (s.view.rxSlots p half) = some slots) : exec (.linkUnitReceived p half words first) s = .next (s.close
      (match unitIn (slots.flatten.drop first) with
       | some (some (c, pkt)) => s.view.modHalf p half fun x => { x with rxQ := x.rxQ ++ [(c, pkt)], rxCount := addAt c (unitFlits pkt) x.rxCount }
       | some none => s.view.count Reg.LP_UNITS_DROPPED 1 p
       | none => s.view)) := by
  rw [exec_unitReceived, execLinkUnitReceived, run_alive _ ha, if_neg (state_ne_false hh h5), hm]
  rfl

theorem unit_taken (words : List LaneWord) (first c : Nat) (pkt : Bytes) {slots : List (List Slot)} (hl : s.node.lk.halves.length = 64)
    (h5 : s.view.portState p half = 5) (hm : words.mapM (s.view.rxSlots p half) = some slots)
    (hu : unitIn (slots.flatten.drop first) = some (some (c, pkt))) : ∃ t, exec (.linkUnitReceived p half words first) s = .next t ∧
      (t.view.half p half).rxQ = (s.view.half p half).rxQ ++ [(c, pkt)] ∧
      (t.view.half p half).rxCount = addAt c (unitFlits pkt) (s.view.half p half).rxCount ∧ t.regs = s.regs ∧ t.mem = s.mem := by
  have hr := unit_run ha hh words first h5 hm
  rw [hu] at hr
  refine ⟨_, hr, ?_, ?_, close_regs_quiet s _ rfl rfl, close_mem_quiet s _ rfl rfl⟩
  all_goals
    dsimp only
    rw [half_close_modHalf s s.view _ (hasHalf_lt hh) hl]

theorem unit_dropped (words : List LaneWord) (first : Nat) {slots : List (List Slot)} (hc : Canonical s) (h5 : s.view.portState p half = 5)
    (hm : words.mapM (s.view.rxSlots p half) = some slots) (hu : unitIn (slots.flatten.drop first) = some none) :
    ∃ t, exec (.linkUnitReceived p half words first) s = .next t ∧ Counted s t Reg.LP_UNITS_DROPPED 1 p ∧ t.node = s.node ∧ t.mem = s.mem := by
  have hr := unit_run ha hh words first h5 hm
  rw [hu] at hr
  exact ⟨_, hr, (shows_count s.view Reg.LP_UNITS_DROPPED 1 p 0).rd hc.1, rfl, close_mem_quiet s _ rfl rfl⟩

/-! ## Codewords that the code cannot correct -/

/-- The counts of a codeword that the code cannot correct (R247). -/
def wordCounts (w : Work) (p units : Nat) : Work :=
  ((w.count Reg.LP_CW_RX 1 p).count Reg.LP_CW_UNCORR 1 p).count Reg.LP_UNITS_DROPPED (min 10 units) p

theorem uncorrectable_run (lane units : Nat) (word : LaneWord) (h5 : s.view.portLive p half = true) (hu : s.view.uncorrectable p half word = true) :
    exec (.codewordUncorrectable p half ⟨word, lane⟩ units) s = .next (s.close
      ((wordCounts s.view p units).modHalf p half fun x => { x with uncorr := x.uncorr + 1, uncorrLane := addAt lane 1 x.uncorrLane })) := by
  rw [exec_uncorrectable, execCodewordUncorrectable, run_alive _ ha, hh, h5, hu]
  rfl

omit ha hh in
theorem wordCounts_shows (w : Work) (p units : Nat) :
    Shows (wordCounts w p units) Reg.LP_CW_RX (min (w.get Reg.LP_CW_RX p + 1) (2 ^ Reg.LP_CW_RX.width - 1)) p 0 ∧
    Shows (wordCounts w p units) Reg.LP_CW_UNCORR (min (w.get Reg.LP_CW_UNCORR p + 1) (2 ^ Reg.LP_CW_UNCORR.width - 1)) p 0 ∧
    Shows (wordCounts w p units) Reg.LP_UNITS_DROPPED (min (w.get Reg.LP_UNITS_DROPPED p + min 10 units) (2 ^ Reg.LP_UNITS_DROPPED.width - 1)) p 0 := by
  have h2 : (w.count Reg.LP_CW_RX 1 p).get Reg.LP_CW_UNCORR p = w.get Reg.LP_CW_UNCORR p := get_set_apart _ (by decide) _ _ _ _ _
  have h3 : ((w.count Reg.LP_CW_RX 1 p).count Reg.LP_CW_UNCORR 1 p).get Reg.LP_UNITS_DROPPED p = w.get Reg.LP_UNITS_DROPPED p :=
    (get_set_apart _ (by decide) _ _ _ _ _).trans (get_set_apart _ (by decide) _ _ _ _ _)
  refine ⟨?_, ?_, ?_⟩
  · exact ((shows_count w Reg.LP_CW_RX 1 p 0).set _ _ _ _ (key_ne_of_apart (by decide) _ _ _ _)).set _ _ _ _ (key_ne_of_apart (by decide) _ _ _ _)
  · rw [← h2]
    exact (shows_count _ Reg.LP_CW_UNCORR 1 p 0).set _ _ _ _ (key_ne_of_apart (by decide) _ _ _ _)
  · rw [← h3]
    exact shows_count _ Reg.LP_UNITS_DROPPED (min 10 units) p 0

theorem word_uncorrectable (lane units : Nat) (word : LaneWord) (hc : Canonical s) (hl : s.node.lk.halves.length = 64)
    (h5 : s.view.portLive p half = true) (hu : s.view.uncorrectable p half word = true) :
    ∃ t, exec (.codewordUncorrectable p half ⟨word, lane⟩ units) s = .next t ∧
      Counted s t Reg.LP_CW_RX 1 p ∧ Counted s t Reg.LP_CW_UNCORR 1 p ∧ Counted s t Reg.LP_UNITS_DROPPED (min 10 units) p ∧
      (t.view.half p half).uncorr = (s.view.half p half).uncorr + 1 ∧ (t.view.half p half).rxQ = (s.view.half p half).rxQ ∧ t.mem = s.mem := by
  obtain ⟨h1, h2, h3⟩ := wordCounts_shows s.view p units
  refine ⟨_, uncorrectable_run ha hh lane units word h5 hu, Shows.rd hc.1 h1, Shows.rd hc.1 h2, Shows.rd hc.1 h3, ?_, ?_, close_mem_quiet s _ rfl rfl⟩
  all_goals
    rw [half_close_modHalf s (wordCounts s.view p units) _ (hasHalf_lt hh) hl]
    rfl

/-! ## Credits -/

omit ha hh in
theorem sendCredit_quiet (w : Work) (p h : Nat) : (w.sendCredit p h).rw = w.rw ∧ (w.sendCredit p h).wiped = w.wiped ∧ (w.sendCredit p h).wr = w.wr ∧
    (w.sendCredit p h).n.lk = w.n.lk ∧ (w.sendCredit p h).n.sc = w.n.sc ∧ ∃ o, (w.sendCredit p h).n.out = w.n.out ++ [o] :=
  ⟨rfl, rfl, rfl, rfl, rfl, _, rfl⟩

/-- The half once a CREDIT flit is taken (R257). -/
def credited (flit : Bytes) (was x : Half) : Half :=
  let freedIn := (List.range 4).map fun c => beAt flit (4 + 2 * c) 2
  let sentIn := (List.range 4).map fun c => beAt flit (12 + 2 * c) 2
  let lost := (List.range 4).map fun c => countDiff (atD sentIn c 0) (atD was.rxCount c 0)
  { x with avail := x.avail.mapIdx fun c v => v + countDiff (atD freedIn c 0) (atD x.freedSeen c 0)
           freedSeen := freedIn, freed := x.freed.mapIdx fun c v => v + atD lost c 0, rxCount := sentIn }

/-- Whether the flit shows flits lost on the way. -/
def creditLost (flit : Bytes) (was : Half) : Bool :=
  ((List.range 4).map fun c => countDiff (atD ((List.range 4).map fun c => beAt flit (12 + 2 * c) 2) c 0) (atD was.rxCount c 0)).any (· != 0)

theorem credit_run (flit : Bytes) (h5 : s.view.portLive p half = true) (hf : flit.length = 64 ∧ fieldAt flit 0 1 = 2) :
    exec (.creditFlit p half flit) s = .next (s.close
      (if creditLost flit (s.view.half p half) then (s.view.modHalf p half (credited flit (s.view.half p half))).sendCredit p half
       else s.view.modHalf p half (credited flit (s.view.half p half)))) := by
  rw [exec_credit, execCreditFlit, run_alive _ ha, if_neg (guard_false hh h5), flitCheck_good _ _ hf (by decide)]
  rfl

omit ha hh in
theorem atD_map_range (f : Nat → Nat) {c n : Nat} (h : c < n) : atD ((List.range n).map f) c 0 = f c := by
  unfold atD
  rw [List.getElem?_map, List.getElem?_range h]
  rfl

omit ha hh in
theorem atD_mapIdx (f : Nat → Nat → Nat) {l : List Nat} {c : Nat} (h : c < l.length) : atD (l.mapIdx f) c 0 = f c (atD l c 0) := by
  unfold atD
  rw [List.getElem?_mapIdx, List.getElem?_eq_getElem h]
  rfl

theorem credit_taken (flit : Bytes) (hl : s.node.lk.halves.length = 64) (h5 : s.view.portLive p half = true)
    (hf : flit.length = 64 ∧ fieldAt flit 0 1 = 2) (h4 : (s.view.half p half).avail.length = 4 ∧ (s.view.half p half).freed.length = 4) :
    ∃ t, exec (.creditFlit p half flit) s = .next t ∧
      (∀ c : Nat, c < 4 → atD (t.view.half p half).avail c 0 = atD (s.view.half p half).avail c 0 + countDiff (beAt flit (4 + 2 * c) 2) (atD (s.view.half p half).freedSeen c 0)) ∧
      (∀ c : Nat, c < 4 → atD (t.view.half p half).rxCount c 0 = beAt flit (12 + 2 * c) 2) ∧
      (∀ c : Nat, c < 4 → atD (t.view.half p half).freed c 0 = atD (s.view.half p half).freed c 0 + countDiff (beAt flit (12 + 2 * c) 2) (atD (s.view.half p half).rxCount c 0)) ∧
      t.regs = s.regs ∧ t.mem = s.mem := by
  obtain ⟨h4a, h4f⟩ := h4
  have hx := credit_run ha hh flit h5 hf
  generalize hw : (if creditLost flit (s.view.half p half) then (s.view.modHalf p half (credited flit (s.view.half p half))).sendCredit p half
       else s.view.modHalf p half (credited flit (s.view.half p half))) = w at hx
  have hq : w.rw = [] ∧ w.wiped = false ∧ w.wr = [] ∧ w.n.lk = (s.view.modHalf p half (credited flit (s.view.half p half))).n.lk := by
    subst hw
    split
    · exact ⟨rfl, rfl, rfl, rfl⟩
    · exact ⟨rfl, rfl, rfl, rfl⟩
  obtain ⟨hrw, hwi, hwr, hlk⟩ := hq
  have hhalf : (s.close w).view.half p half = credited flit (s.view.half p half) (s.view.half p half) := by
    have h1 : (s.close w).view.half p half = (s.view.modHalf p half (credited flit (s.view.half p half))).half p half :=
      congrArg (fun l : Links => atD l.halves (2 * p + half) (Half.reset p half)) hlk
    rw [h1]
    exact half_modHalf s.view _ (by have := hasHalf_lt hh; have hl' : s.view.n.lk.halves.length = 64 := hl; omega)
  refine ⟨_, hx, ?_, ?_, ?_, close_regs_quiet s _ hrw hwi, close_mem_quiet s _ hwr hwi⟩
  all_goals
    intro c hcl
    rw [hhalf]
  · exact (atD_mapIdx _ (by omega)).trans (by rw [atD_map_range _ hcl])
  · exact atD_map_range _ hcl
  · exact (atD_mapIdx _ (by omega)).trans (by rw [atD_map_range _ hcl, atD_map_range _ hcl])

end

/-! ## Units that leave -/

/-- A unit sent from a half, off its queue, its credits taken (R256 to R258). -/
def unitSent (w : Work) (p h : Nat) (q : List TxUnit) (u : TxUnit) : Work :=
  let k := 2 * p + h
  let w := w.sendSlots p h (unitSlots u.cls u.bytes)
  let w := { w with n.sc.portQ := insertN k (q.erase u) w.n.sc.portQ }
  let left := (w.txQueue k).any fun v => v.cls = u.cls
  let w := { w with n.sc.portDeficit := w.n.sc.portDeficit.filter fun d => left || d.1 != k * 4 + u.cls }
  w.modHalf p h fun x => { x with avail := x.avail.modify u.cls (· - unitFlits u.bytes), sent := addAt u.cls (unitFlits u.bytes) x.sent }

/-- The node once a unit has left a half: charged (R340) and sent. -/
def unitGone (w : Work) (p h : Nat) (q : List TxUnit) (u : TxUnit) : Work := unitSent (w.charge (shaperAt 2 (2 * p + h)) u.bytes.length) p h q u

/-- The node once it has sent a CREDIT too. -/
def unitLeaves (w : Work) (p h : Nat) (q : List TxUnit) (u : TxUnit) : Work := (unitGone w p h q u).sendCredit p h

/-- The node with what the round robin of a half remembers. -/
def turned (w : Work) (deficit : List (Nat × Nat)) (turn : List (Nat × Nat)) : Work :=
  { w with n.sc.portDeficit := deficit, n.sc.portTurn := turn }

theorem unitStart_run {s : State} {p half : Nat} {u : TxUnit} (ha : s.alive = true) (hfab : rd s Reg.FAB_EN = 1)
    (hh : s.view.hasHalf p half = true) (h5 : s.view.portState p half = 5)
    (hu : portHead s p half 0 = some u ∨ (portHead s p half 0 = none ∧ portTurnOf s p half = some u.cls ∧ portHead s p half u.cls = some u)) :
    ∃ d t, exec (.portUnitStart p half) s = .next (s.close (unitLeaves (turned s.view d t) p half (s.view.txQueue (2 * p + half)) u)) := by
  have hf : s.view.flag Reg.FAB_EN = true := (flag_eq hfab).trans (by decide)
  rw [exec_unitStart, execPortUnitStart, run_alive _ ha, if_neg (by rw [hf, hh, h5]; decide)]
  extract_lets k q x shp first passes head es ds n1 n2 w others n3 n4 pick
  have hhead : ∀ c, head c = portHead s p half c := fun _ => rfl
  rcases hu with h0 | ⟨h0, ht, hc⟩
  · have hp : pick = some (u, w) := by
      unfold pick
      rw [hhead, h0]
    rw [hp]
    exact ⟨_, _, rfl⟩
  · unfold portTurnOf at ht
    obtain ⟨⟨c, ds'⟩, hr, hcu⟩ := Option.map_eq_some_iff.1 ht
    have hcu : c = u.cls := hcu
    subst hcu
    have hr' : roundRobin (w.get Reg.SCH_QUANTUM) es ds (numN k w.n.sc.portTurn) = some (u.cls, ds') := hr
    have hp : pick = some (u, turned s.view (ds'.foldl (fun l d => insertN (k * 4 + d.1) d.2 l) (w.n.sc.portDeficit.filter fun d => d.1 / 4 != k))
        (insertN k u.cls w.n.sc.portTurn)) := by
      unfold pick
      rw [hhead, h0, hr']
      dsimp only
      rw [hhead, hc]
      rfl
    rw [hp]
    exact ⟨_, _, rfl⟩

theorem charge_n (w : Work) (code len : Nat) : (w.charge code len).n.lk = w.n.lk ∧ (w.charge code len).n.out = w.n.out ∧
    (w.charge code len).wr = w.wr ∧ (w.charge code len).wiped = w.wiped ∧ (w.charge code len).regs = w.regs ∧
    ((w.charge code len).rw = w.rw ∨ ∃ v, 0 < v ∧ (w.charge code len).rw = (Reg.SCH_NEG_TOKENS.key 0 0, v, 0) :: w.rw) := by
  unfold Work.charge
  split
  · exact ⟨rfl, rfl, rfl, rfl, rfl, .inl rfl⟩
  · dsimp only
    split
    · refine ⟨rfl, rfl, rfl, rfl, rfl, .inr ⟨_, ?_, rfl⟩⟩
      have : 2 ≤ 2 ^ Reg.SCH_NEG_TOKENS.width := by decide
      rw [Nat.mod_eq_of_lt (by omega)]
      omega
    · exact ⟨rfl, rfl, rfl, rfl, rfl, .inl rfl⟩

/-- A register put to a value other than its reset value hides no other, whatever the order of the file. -/
theorem find_put_other (r : RegFile) {x v d y : Nat} (hv : v ≠ d) (hy : y ≠ x) : (RegFile.put r x v d).find y = r.find y := by
  induction r with
  | nil => simp [RegFile.put, RegFile.find, hv, Ne.symm hy]
  | cons e r ih =>
    obtain ⟨k, u⟩ := e
    by_cases hk : k = x
    · simp [RegFile.put, RegFile.find, hk, hv, Ne.symm hy]
    · by_cases hx : x < k
      · simp only [RegFile.put, hk, hx, hv, if_true, if_false, RegFile.find, Ne.symm hy]
        split
        · rw [if_neg (by omega), if_pos (by omega)]
        · rfl
      · simp only [RegFile.put, hk, hx, if_false, RegFile.find, ih]

/-- What depends on a half's lanes of a CREDIT or a unit's codewords. -/
theorem codewords_congr {a b : Work} {p h : Nat} (hs : a.get Reg.LP_SPLIT p = b.get Reg.LP_SPLIT p)
    (hx : (a.half p h).txSpare = (b.half p h).txSpare) (slots : List Slot) : a.codewords p h slots = b.codewords p h slots := by
  have hf : a.flag Reg.LP_SPLIT p = b.flag Reg.LP_SPLIT p := congrArg (· != 0) hs
  have hlane : ∀ l, a.laneHalf p l = b.laneHalf p l := fun l => by
    unfold Work.laneHalf
    rw [hf]
  have hl : a.lanesOf p h = b.lanesOf p h := by simp only [Work.lanesOf, hlane]
  have hsend : (a.half p h).sendLane = (b.half p h).sendLane := funext fun l => by simp only [Half.sendLane, hx]
  simp only [Work.codewords, hl, hsend]

section
variable (w : Work) (p h : Nat) (q : List TxUnit) (u : TxUnit)

theorem unitSent_quiet : (unitSent w p h q u).rw = w.rw ∧ (unitSent w p h q u).wr = w.wr ∧ (unitSent w p h q u).wiped = w.wiped := ⟨rfl, rfl, rfl⟩

theorem unitSent_out : (unitSent w p h q u).n.out = w.n.out ++ [.linkSlots p h (unitSlots u.cls u.bytes) (w.codewords p h (unitSlots u.cls u.bytes))] := rfl

theorem unitSent_half : (unitSent w p h q u).half p h = (w.modHalf p h fun x =>
    { x with avail := x.avail.modify u.cls (· - unitFlits u.bytes), sent := addAt u.cls (unitFlits u.bytes) x.sent }).half p h := rfl

theorem unitSent_portQ : (unitSent w p h q u).n.sc.portQ = insertN (2 * p + h) (q.erase u) w.n.sc.portQ := rfl

theorem unitLeaves_quiet : (unitLeaves w p h q u).rw = (w.charge (shaperAt 2 (2 * p + h)) u.bytes.length).rw ∧
    (unitLeaves w p h q u).wr = (w.charge (shaperAt 2 (2 * p + h)) u.bytes.length).wr ∧
    (unitLeaves w p h q u).wiped = (w.charge (shaperAt 2 (2 * p + h)) u.bytes.length).wiped := by
  obtain ⟨h1, h2, h3⟩ := unitSent_quiet (w.charge (shaperAt 2 (2 * p + h)) u.bytes.length) p h q u
  obtain ⟨c1, c2, c3, -⟩ := sendCredit_quiet (unitGone w p h q u) p h
  exact ⟨c1.trans h1, c3.trans h2, c2.trans h3⟩

theorem unitLeaves_half (hh : p < 32 ∧ h < 2) (hl : w.n.lk.halves.length = 64) : (unitLeaves w p h q u).half p h =
    { w.half p h with avail := (w.half p h).avail.modify u.cls (· - unitFlits u.bytes), sent := addAt u.cls (unitFlits u.bytes) (w.half p h).sent } := by
  have hlk := (charge_n w (shaperAt 2 (2 * p + h)) u.bytes.length).1
  have h1 := half_modHalf (w.charge (shaperAt 2 (2 * p + h)) u.bytes.length) (p := p) (h := h)
    (fun x => { x with avail := x.avail.modify u.cls (· - unitFlits u.bytes), sent := addAt u.cls (unitFlits u.bytes) x.sent })
    (by rw [hlk]; omega)
  have h2 : (w.charge (shaperAt 2 (2 * p + h)) u.bytes.length).half p h = w.half p h := by
    unfold Work.half
    rw [hlk]
  rw [h2] at h1
  obtain ⟨-, -, -, c4, -⟩ := sendCredit_quiet (unitGone w p h q u) p h
  have h3 : (unitLeaves w p h q u).half p h = (unitGone w p h q u).half p h :=
    congrArg (fun l : Links => atD l.halves (2 * p + h) (Half.reset p h)) c4
  exact h3.trans ((unitSent_half _ p h q u).trans h1)

theorem unitLeaves_txQueue : (unitLeaves w p h q u).txQueue (2 * p + h) = q.erase u := by
  obtain ⟨-, -, -, -, c5, -⟩ := sendCredit_quiet (unitGone w p h q u) p h
  have hq : (unitLeaves w p h q u).n.sc.portQ = insertN (2 * p + h) (q.erase u) (w.charge (shaperAt 2 (2 * p + h)) u.bytes.length).n.sc.portQ :=
    (congrArg Sched.portQ c5).trans (unitSent_portQ _ p h q u)
  unfold Work.txQueue
  rw [hq, lookupN_insertN]
  rfl

theorem unitLeaves_out : ∃ o, (unitLeaves w p h q u).n.out = w.n.out ++
    [.linkSlots p h (unitSlots u.cls u.bytes) ((w.charge (shaperAt 2 (2 * p + h)) u.bytes.length).codewords p h (unitSlots u.cls u.bytes)), o] := by
  have ho : (w.charge (shaperAt 2 (2 * p + h)) u.bytes.length).n.out = w.n.out := (charge_n w _ _).2.1
  obtain ⟨-, -, -, -, -, o, hc⟩ := sendCredit_quiet (unitGone w p h q u) p h
  have hg : (unitGone w p h q u).n.out = (w.charge (shaperAt 2 (2 * p + h)) u.bytes.length).n.out ++
      [.linkSlots p h (unitSlots u.cls u.bytes) ((w.charge (shaperAt 2 (2 * p + h)) u.bytes.length).codewords p h (unitSlots u.cls u.bytes))] := unitSent_out _ p h q u
  refine ⟨o, hc.trans ?_⟩
  rw [hg, ho, List.append_assoc]
  rfl

theorem unitLeaves_split (s : State) (hr : w.rw = []) (hs : w.regs = s.regs) (hw : w.wiped = false) :
    (s.close (unitLeaves w p h q u)).view.get Reg.LP_SPLIT p = (w.charge (shaperAt 2 (2 * p + h)) u.bytes.length).get Reg.LP_SPLIT p := by
  have hq := unitLeaves_quiet w p h q u
  obtain ⟨-, -, -, hwi, hreg, hrw⟩ := charge_n w (shaperAt 2 (2 * p + h)) u.bytes.length
  obtain ⟨hq1, -, hq3⟩ := hq
  have hkey : Reg.LP_SPLIT.key p 0 ≠ Reg.SCH_NEG_TOKENS.key 0 0 := key_ne_of_apart (by decide) _ _ _ _
  have hbase : (w.charge (shaperAt 2 (2 * p + h)) u.bytes.length).get Reg.LP_SPLIT p = (s.regs.find (Reg.LP_SPLIT.key p 0)).getD (Reg.LP_SPLIT.resetAt p 0) := by
    unfold Work.get Work.raw
    rcases hrw with hrw | ⟨v, -, hrw⟩
    · rw [hrw, hr, hreg, hs]
      rfl
    · rw [hrw, hr, hreg, hs, List.find?_cons_of_neg (by simpa using Ne.symm hkey)]
      rfl
  have hend : ((s.close (unitLeaves w p h q u)).regs.find (Reg.LP_SPLIT.key p 0)) = s.regs.find (Reg.LP_SPLIT.key p 0) := by
    rw [close_regs, hq1, hq3, hwi, hw]
    rcases hrw with hrw | ⟨v, hv, hrw⟩
    · rw [hrw, hr]
      rfl
    · rw [hrw, hr]
      exact find_put_other s.regs (Nat.pos_iff_ne_zero.1 hv) hkey
  rw [hbase]
  exact congrArg (fun o => o.getD (Reg.LP_SPLIT.resetAt p 0)) hend

end

theorem unit_starts {s : State} {p half : Nat} {u : TxUnit} (ha : s.alive = true) (hl : s.node.lk.halves.length = 64) (hfab : rd s Reg.FAB_EN = 1)
    (hh : s.view.hasHalf p half = true) (h5 : s.view.portState p half = 5)
    (hu : portHead s p half 0 = some u ∨ (portHead s p half 0 = none ∧ portTurnOf s p half = some u.cls ∧ portHead s p half u.cls = some u)) :
    ∃ t, exec (.portUnitStart p half) s = .next t ∧
      t.node.out.take (s.node.out.length + 1) = s.node.out ++ [.linkSlots p half (unitSlots u.cls u.bytes) (t.view.codewords p half (unitSlots u.cls u.bytes))] ∧
      t.view.txQueue (2 * p + half) = (s.view.txQueue (2 * p + half)).erase u ∧
      (t.view.half p half).sent = addAt u.cls (unitFlits u.bytes) (s.view.half p half).sent ∧
      (t.view.half p half).avail = (s.view.half p half).avail.modify u.cls (· - unitFlits u.bytes) ∧ t.mem = s.mem := by
  obtain ⟨d, t, hx⟩ := unitStart_run ha hfab hh h5 hu
  generalize hq : s.view.txQueue (2 * p + half) = q at hx ⊢
  have hhalf := unitLeaves_half (turned s.view d t) p half q u (hasHalf_lt hh) hl
  have hsplit := unitLeaves_split (turned s.view d t) p half q u s rfl rfl rfl
  obtain ⟨o, hout⟩ := unitLeaves_out (turned s.view d t) p half q u
  obtain ⟨-, hwr, hwi⟩ := unitLeaves_quiet (turned s.view d t) p half q u
  obtain ⟨hlk, -, hcwr, hcwi, -, -⟩ := charge_n (turned s.view d t) (shaperAt 2 (2 * p + half)) u.bytes.length
  have hspare : (((turned s.view d t).charge (shaperAt 2 (2 * p + half)) u.bytes.length).half p half).txSpare = (s.view.half p half).txSpare :=
    congrArg (fun l : Links => (atD l.halves (2 * p + half) (Half.reset p half)).txSpare) hlk
  have hcode : ((turned s.view d t).charge (shaperAt 2 (2 * p + half)) u.bytes.length).codewords p half (unitSlots u.cls u.bytes) =
      (s.close (unitLeaves (turned s.view d t) p half q u)).view.codewords p half (unitSlots u.cls u.bytes) :=
    codewords_congr hsplit.symm (hspare.trans (congrArg Half.txSpare hhalf).symm) _
  refine ⟨_, hx, ?_, unitLeaves_txQueue _ p half q u, congrArg Half.sent hhalf, congrArg Half.avail hhalf,
    close_mem_quiet s _ (hwr.trans hcwr) (hwi.trans hcwi)⟩
  rw [close_node, hout, hcode]
  exact List.take_length_add_append 1

/-- Settles O29, one lemma for each flit and for the unit that leaves. -/
theorem linkUnitsAndCreditsAreCounted : Obligations.LinkUnitsAndCreditsAreCounted := by
  unfold Obligations.LinkUnitsAndCreditsAreCounted
  refine ⟨?_, ?_, ?_, ?_, ?_⟩
  · exact fun s p half first c words slots pkt ha hl hh h5 hm hu => unit_taken ha hh words first c pkt hl h5 hm hu
  · exact fun s p half first words slots ha hc hh h5 hm hu => unit_dropped ha hh words first hc h5 hm hu
  · exact fun s p half lane units word ha hc hl hh h5 hu => word_uncorrectable ha hh lane units word hc hl h5 hu
  · exact fun s p half flit ha hl hh h5 hf h4 => credit_taken ha hh flit hl h5 hf h4
  · exact fun s p half u ha hl hfab hh h5 hu => unit_starts ha hl hfab hh h5 hu

end Sys2Proof.Links
end

section
/-!
The state of a port's halves (chapter 08): what a change of state, a swap and a drop leave of the halves and of the registers.
-/

namespace Sys2Proof.Ports

open Sys2Proof.Machine Sys2Proof.Safety Sys2Proof.Laws Sys2Proof.Entering Sys2Proof.Fields Sys2Proof.Training Sys2Proof.TickSource
open Sys2Proof.Functions Sys2Proof.Links

/-! ## What is left of a half -/

section
variable {α : Type} (g : Half → α) (w : Work)

/-- A change of one half that a reading does not see is not seen at any half. -/
theorem reading_modHalf (p h q k : Nat) {f : Half → Half} (hf : ∀ x, g (f x) = g x) : g ((w.modHalf p h f).half q k) = g (w.half q k) := by
  unfold Work.half Work.modHalf atD
  dsimp only
  rw [List.getElem?_modify]
  cases w.n.lk.halves[2 * q + k]? with
  | none => rfl
  | some x =>
    by_cases e : 2 * p + h = 2 * q + k
    · exact (congrArg g (if_pos e)).trans (hf x)
    · exact congrArg g (if_neg e)

theorem reading_of_lk {v : Work} (h : v.n.lk = w.n.lk) (q k : Nat) : g (v.half q k) = g (w.half q k) :=
  congrArg (fun l : Machine.Links => g (atD l.halves (2 * q + k) (Half.reset q k))) h

/-- A change of another half is not seen. -/
theorem half_modHalf_other {p h q k : Nat} (hh : h < 2) (hk : k < 2) (hn : ¬ (p = q ∧ h = k)) (f : Half → Half) : (w.modHalf p h f).half q k = w.half q k := by
  have e : 2 * p + h ≠ 2 * q + k := by omega
  unfold Work.half Work.modHalf atD
  simp [List.getElem?_modify, e]

end

theorem stateFld_mem (h : Nat) : stateFld h ∈ [Reg.LP_STATE_A, Reg.LP_STATE_B] := by
  unfold stateFld
  split
  · exact List.mem_cons_self
  · exact List.mem_cons_of_mem _ List.mem_cons_self

/-! ## A half's state -/

section
variable (w : Work) (p h v : Nat)

/-- A half's state shown, and the transmit queue of a half that leaves Up given up. -/
def stateSet (w : Work) (p h v : Nat) : Work :=
  (if w.portState p h = 5 ∧ v ≠ 5 then
    { w with n.sc.portQ := eraseN (2 * p + h) w.n.sc.portQ, n.sc.portDeficit := w.n.sc.portDeficit.filter fun d => d.1 / 4 != 2 * p + h } else w).set
      (stateFld h) v p

theorem stateSet_lk : (stateSet w p h v).n.lk = w.n.lk := by
  unfold stateSet
  rw [set_n]
  split <;> rfl

theorem fields_stateSet {F : List Fld} (hF : [Reg.LP_STATE_A, Reg.LP_STATE_B] ⊆ F) : fields F (stateSet w p h v) = fields F w := by
  unfold stateSet
  rw [fields_set _ _ _ _ _ (hF (stateFld_mem h))]
  split <;> rfl

theorem stateSet_shows (hv : v < 8) : Shows (stateSet w p h v) (stateFld h) v p 0 := by
  unfold stateSet
  have hs := shows_set (if w.portState p h = 5 ∧ v ≠ 5 then
    { w with n.sc.portQ := eraseN (2 * p + h) w.n.sc.portQ, n.sc.portDeficit := w.n.sc.portDeficit.filter fun d => d.1 / 4 != 2 * p + h } else w)
      (stateFld h) v p 0
  rwa [(stateFld_low h).2.2.1, Nat.mod_eq_of_lt (show v < 2 ^ 3 from hv)] at hs

/-- A half's state set, without what the port's page reports of it. -/
def moved (w : Work) (p h v : Nat) : Work :=
  if v ≤ 1 then (stateSet w p h v).modHalf p h fun x => { x with dark := [] } else stateSet w p h v

theorem setPort_reports : Reports (moved w p h v) (w.setPort p h v) := by
  unfold Work.setPort
  extract_lets +onlyGivenNames live _ _ a b c d
  have hd : Reports c d := by
    unfold d
    split
    · exact reports_isr _ _ _
    · exact Reports.refl _
  exact hd.trans (reports_setReady _ _ _)

theorem fields_moved {F : List Fld} (hF : [Reg.LP_STATE_A, Reg.LP_STATE_B] ⊆ F) : fields F (moved w p h v) = fields F w := by
  unfold moved
  split
  · exact fields_stateSet w p h v hF
  · exact fields_stateSet w p h v hF

theorem moved_shows (hv : v < 8) : Shows (moved w p h v) (stateFld h) v p 0 := by
  unfold moved
  split
  · exact stateSet_shows w p h v hv
  · exact stateSet_shows w p h v hv

theorem moved_lk (hv : 2 ≤ v) : (moved w p h v).n.lk = w.n.lk := by
  unfold moved
  rw [if_neg (by omega), stateSet_lk]

theorem reading_moved {α : Type} (g : Half → α) (hg : ∀ x, g { x with dark := [] } = g x) (q k : Nat) :
    g ((moved w p h v).half q k) = g (w.half q k) := by
  unfold moved
  split
  · exact (reading_modHalf g _ p h q k hg).trans (reading_of_lk g _ (stateSet_lk w p h v) q k)
  · exact reading_of_lk g _ (stateSet_lk w p h v) q k

theorem fields_setPort {F : List Fld} (hF : [Reg.LP_STATE_A, Reg.LP_STATE_B] ⊆ F) : fields F (w.setPort p h v) = fields F w :=
  (fields_of_reports (setPort_reports w p h v)).trans (fields_moved w p h v hF)

theorem setPort_shows (hv : v < 8) : Shows (w.setPort p h v) (stateFld h) v p 0 :=
  (setPort_reports w p h v).shows (plain_stateFld p h) (moved_shows w p h v hv)

theorem setPort_lk (hv : 2 ≤ v) : (w.setPort p h v).n.lk = w.n.lk := (setPort_reports w p h v).n_lk.trans (moved_lk w p h v hv)

theorem reading_setPort {α : Type} (g : Half → α) (hg : ∀ x, g { x with dark := [] } = g x) (q k : Nat) :
    g ((w.setPort p h v).half q k) = g (w.half q k) :=
  (reading_of_lk g _ (setPort_reports w p h v).n_lk q k).trans (reading_moved w p h v g hg q k)

theorem setPort_length : (w.setPort p h v).n.lk.halves.length = w.n.lk.halves.length := by
  rw [(setPort_reports w p h v).n_lk]
  unfold moved
  split
  · rw [Links.modHalf_n]
    dsimp only
    rw [List.length_modify, stateSet_lk]
  · rw [stateSet_lk]

theorem setPort_wr : (w.setPort p h v).wr = w.wr :=
  (show Wide.SameW true true true w (w.setPort p h v) by simp).wr

theorem setPort_regs : (w.setPort p h v).regs = w.regs ∧ (w.setPort p h v).wiped = w.wiped :=
  have hf := fields_setPort w p h v (F := [Reg.LP_STATE_A, Reg.LP_STATE_B]) (List.Subset.refl _)
  ⟨fields_regs hf, fields_wiped hf⟩

/-! ## A half that is dropped -/

/-- A half dropped, without what the port's page and the prompt book report of it. -/
def dropped (w : Work) (p h : Nat) : Work := (w.modHalf p h fun x => { x with swap := none, rxQ := [] }).setPort p h 1

theorem dropPort_reports (c : Option Nat) : ∃ v, v.n.lk = w.n.lk ∧ (∀ F, fields F v = fields F w) ∧ Reports (dropped v p h) (w.dropPort p h c) ∧
    v.rw = w.rw ∧ v.n.sc = w.n.sc := by
  cases c with
  | none => exact ⟨w.draw.2, rfl, fun _ => rfl, reports_report _ _, rfl, rfl⟩
  | some c => exact ⟨w, rfl, fun _ => rfl, reports_report _ _, rfl, rfl⟩

theorem fields_dropPort {F : List Fld} (c : Option Nat) (hF : [Reg.LP_STATE_A, Reg.LP_STATE_B] ⊆ F) : fields F (w.dropPort p h c) = fields F w := by
  obtain ⟨v, -, hv, hr, -⟩ := dropPort_reports w p h c
  exact (fields_of_reports hr).trans ((fields_setPort _ p h 1 hF).trans (hv F))

theorem dropPort_shows (c : Option Nat) : Shows (w.dropPort p h c) (stateFld h) 1 p 0 := by
  obtain ⟨v, -, -, hr, -⟩ := dropPort_reports w p h c
  exact hr.shows (plain_stateFld p h) (setPort_shows _ p h 1 (by decide))

theorem reading_dropPort {α : Type} (c : Option Nat) (g : Half → α) (hd : ∀ x, g { x with dark := [] } = g x)
    (hg : ∀ x, g { x with swap := none, rxQ := [] } = g x) (q k : Nat) : g ((w.dropPort p h c).half q k) = g (w.half q k) := by
  obtain ⟨v, hl, -, hr, -⟩ := dropPort_reports w p h c
  exact (reading_of_lk g _ hr.n_lk q k).trans ((reading_setPort _ p h 1 g hd q k).trans ((reading_modHalf g _ p h q k hg).trans (reading_of_lk g _ hl q k)))

theorem dropPort_empties (c : Option Nat) (hl : 2 * p + h < w.n.lk.halves.length) :
    ((w.dropPort p h c).half p h).swap = none ∧ ((w.dropPort p h c).half p h).rxQ = [] := by
  obtain ⟨v, hv, -, hr, -⟩ := dropPort_reports w p h c
  have hm := half_modHalf v (p := p) (h := h) (fun x => { x with swap := none, rxQ := [] }) (by rw [hv]; exact hl)
  have key : ∀ {α : Type} (g : Half → α), (∀ x, g { x with dark := [] } = g x) →
      g ((w.dropPort p h c).half p h) = g { v.half p h with swap := none, rxQ := [] } := fun g hd =>
    (reading_of_lk g _ hr.n_lk p h).trans ((reading_setPort _ p h 1 g hd p h).trans (congrArg g hm))
  exact ⟨key (·.swap) fun _ => rfl, key (·.rxQ) fun _ => rfl⟩

end

/-! ## Ports that leave Disabled -/

/-- One half of a port that may train leaves Disabled. -/
def startHalf (p : Nat) (w : Work) (h : Nat) : Work := if w.portState p h = 0 then (w.setRate p).setPort p h 1 else w

theorem startPort_eq (w : Work) (p : Nat) : w.startPort p = if !w.mayTrain p then w else (w.halvesOf p).foldl (startHalf p) w := rfl

/-- What a port writes when it starts. -/
def startFlds : List Fld := [Reg.LP_STATE_A, Reg.LP_STATE_B, Reg.LP_RATE64]

theorem fields_startHalf (p : Nat) (w : Work) (h : Nat) : fields startFlds (startHalf p w h) = fields startFlds w := by
  unfold startHalf
  refine fields_of_ite ?_ rfl
  exact (fields_setPort _ p h 1 (by decide)).trans (fields_set w _ _ _ _ (by decide))

theorem fields_startPort (w : Work) (p : Nat) : fields startFlds (w.startPort p) = fields startFlds w := by
  rw [startPort_eq]
  exact fields_of_ite rfl (Frame.foldl_keeps (fields startFlds) (fun v h => fields_startHalf p v h) _ w)

theorem reading_startPort {α : Type} (g : Half → α) (hg : ∀ x, g { x with dark := [] } = g x) (w : Work) (p q k : Nat) :
    g ((w.startPort p).half q k) = g (w.half q k) := by
  rw [startPort_eq]
  split
  · rfl
  · refine Frame.foldl_keeps (fun v => g (v.half q k)) (fun v h => ?_) _ w
    unfold startHalf
    split
    · exact reading_setPort _ p h 1 g hg q k
    · rfl

theorem startPort_length (w : Work) (p : Nat) : (w.startPort p).n.lk.halves.length = w.n.lk.halves.length := by
  rw [startPort_eq]
  split
  · rfl
  · refine Frame.foldl_keeps (fun v => v.n.lk.halves.length) (fun v h => ?_) _ w
    unfold startHalf
    split
    · exact setPort_length _ p h 1
    · rfl

/-- A half that is past Disabled keeps its state when its port starts. -/
theorem sameAt_startPort {w : Work} {p h : Nat} (h0 : w.portState p h ≠ 0) : SameAt ((stateFld h).key p 0) w (w.startPort p) := by
  rw [startPort_eq]
  refine SameAt.ite (SameAt.refl _ w) ?_
  refine (foldl_invariant (I := fun v => SameAt ((stateFld h).key p 0) w v ∧ v.regs = w.regs) (fun v k hv => ?_) _ w ⟨SameAt.refl _ w, rfl⟩).1
  obtain ⟨hs, hr⟩ := hv
  have hstate : v.portState p h = w.portState p h := hs.get hr
  unfold startHalf
  split
  · next hk =>
    have hne : ¬ (p = p ∧ stateFld k = stateFld h) := by
      rintro ⟨-, e⟩
      refine h0 ?_
      rw [← hstate]
      unfold Work.portState at hk ⊢
      rwa [← e]
    have hkey := stateKey_ne hne
    have hrate : SameAt ((stateFld h).key p 0) v (v.setRate p) := by
      refine sameAt_set v Reg.LP_RATE64 _ p 0 ?_
      unfold stateFld
      split
      · exact key_ne_of_apart (by decide) _ _ _ _
      · exact key_ne_of_apart (by decide) _ _ _ _
    exact ⟨hs.trans (hrate.trans (sameAt_setPort _ p k 1 hkey (plain_stateFld p h))), ((setPort_regs _ p k 1).1).trans hr⟩
  · exact ⟨hs, hr⟩

/-! ## A half at the end of a command -/

theorem lt_halves {w : Work} {p h : Nat} (hh : p < 32 ∧ h < 2) (hl : w.n.lk.halves.length = 64) : 2 * p + h < w.n.lk.halves.length := by omega

/-- A field that the view leaves is read the same at the end. -/
theorem get_close {s : State} (hc : Canonical s) {w : Work} {F : List Fld} (h : fields F w = fields F s.view) {g : Fld} (hg : Clear F g = true) (i j : Nat) :
    (s.close w).view.get g i j = s.view.get g i j := rd_of_fields hc h hg i j

theorem get_close0 {s : State} (hc : Canonical s) {w : Work} {F : List Fld} (h : fields F w = fields F s.view) {g : Fld} (hg : Clear0 F g = true) :
    (s.close w).view.get g = s.view.get g := rd_of_fields0 hc h hg

end Sys2Proof.Ports
end

section
/-!
Lane swaps, alignment rounds and eye scans (R245, R248 to R251, R432).
-/

namespace Sys2Proof.Swaps

open Sys2Proof.Machine Sys2Proof.Safety Sys2Proof.Laws Sys2Proof.Entering Sys2Proof.Fields Sys2Proof.Training Sys2Proof.TickSource
open Sys2Proof.Queues Sys2Proof.Writes Sys2Proof.Functions Sys2Proof.Trims Sys2Proof.Links Sys2Proof.Ports Sys2Proof.Stages

theorem exec_force (s : State) (wr : RegWr) : exec (.forceSwap wr) s = execForceSwap wr s := by simp only [exec]
theorem exec_hard (s : State) (p l : Nat) : exec (.hardLaneFailure p l) s = execHardLaneFailure p l s := by simp only [exec]
theorem exec_round (s : State) (p h : Nat) (bs : List AlignBlock) (c : List Nat) (ok : Bool) :
    exec (.alignmentRound p h bs c ok) s = execAlignmentRound p h bs c ok s := by simp only [exec]
theorem exec_req (s : State) (p h : Nat) (x : Bytes) : exec (.swapReq p h x) s = execSwapReq p h x s := by simp only [exec]
theorem exec_ack (s : State) (p h : Nat) (x : Bytes) : exec (.swapAck p h x) s = execSwapAck p h x s := by simp only [exec]
theorem exec_scan (s : State) (p l v h b : Nat) : exec (.laneScan p l v h b) s = execLaneScan p l v h b s := by simp only [exec]

/-! ## A swap asked for -/

/-- A half that has asked its peer for a swap (R249). -/
def swapAsked (w : Work) (p h lane : Nat) (hard : Bool) : Work :=
  (w.modHalf p h fun x => { x with swap := some { lane := lane, hard := hard, atRound := none, tx := false } }).ctrlFlit p h (swapAsk lane h)

theorem askSwap_free {w : Work} {p lane h : Nat} (must : Bool) (hh : h = w.laneHalf p lane) (hl : w.portLive p h = true) (hf : w.laneSpareFree p = true)
    (he : w.flag Reg.GLB_LANE_SPARE_EN = true) : w.askSwap p lane false must = swapAsked w p h lane false := by
  subst hh
  unfold Work.askSwap
  dsimp only
  rw [if_neg (by rw [hl]; decide), if_pos hf, if_pos he, if_neg (by decide), swapAsked, swapAsk]

theorem askSwap_hard {w : Work} {p lane h : Nat} (must : Bool) (hh : h = w.laneHalf p lane) (hl : w.portLive p h = true) (hf : w.laneSpareFree p = true)
    (he : w.flag Reg.GLB_LANE_SPARE_EN = true) : w.askSwap p lane true must = (swapAsked w p h lane true).setPort p h 6 := by
  subst hh
  unfold Work.askSwap
  dsimp only
  rw [if_neg (by rw [hl]; decide), if_pos hf, if_pos he, if_pos rfl, swapAsked, swapAsk]

theorem askSwap_drops {w : Work} {p lane h : Nat} (hh : h = w.laneHalf p lane) (hl : w.portLive p h = true)
    (hf : w.laneSpareFree p = false ∨ w.flag Reg.GLB_LANE_SPARE_EN = false) : w.askSwap p lane true true = w.dropPort p h none := by
  subst hh
  unfold Work.askSwap
  dsimp only
  rw [if_neg (by rw [hl]; decide)]
  by_cases h1 : w.laneSpareFree p = true
  · rw [if_pos h1, if_neg (by rw [hf.resolve_left (by rw [h1]; decide)]; decide), if_pos rfl]
  · rw [if_neg h1, if_pos rfl]

section
variable (w : Work) (p h lane : Nat) (hard : Bool)

theorem swapAsked_half (hl : 2 * p + h < w.n.lk.halves.length) : (swapAsked w p h lane hard).half p h =
    { w.half p h with swap := some { lane := lane, hard := hard, atRound := none, tx := false } } := half_modHalf w _ hl

theorem reading_swapAsked {α : Type} (g : Half → α) (hg : ∀ x s, g { x with swap := s } = g x) (q k : Nat) :
    g ((swapAsked w p h lane hard).half q k) = g (w.half q k) := reading_modHalf g w p h q k fun x => hg x _

theorem swapAsked_out : (swapAsked w p h lane hard).n.out = w.n.out ++
    [.linkSlots p h [ctrlSlot (swapAsk lane h)] ((w.modHalf p h fun x => { x with swap := some { lane := lane, hard := hard, atRound := none, tx := false } }).codewords p h
      [ctrlSlot (swapAsk lane h)])] := rfl

theorem swapAsked_rw : (swapAsked w p h lane hard).rw = w.rw ∧ (swapAsked w p h lane hard).regs = w.regs ∧
    (swapAsked w p h lane hard).wiped = w.wiped ∧ (swapAsked w p h lane hard).wr = w.wr := ⟨rfl, rfl, rfl, rfl⟩

end

/-! ## FORCE_SWAP -/

theorem force_run {s : State} {wr : RegWr} {p idx : Nat} (ha : s.alive = true) (hl : Lands s wr .LP 0x100 p idx)
    (hw : wrote1 wr Reg.LP_FORCE_SWAP = true ∧ wrote1 wr Reg.LP_RETRAIN = false) (he : (s.view.writeFields wr .LP p idx 0x100).get Reg.LP_EN p = 1) :
    exec (.forceSwap wr) s = .next (s.close (((s.view.writeFields wr .LP p idx 0x100).startPort p).askSwap p
      (((s.view.writeFields wr .LP p idx 0x100).startPort p).get Reg.LP_SWAP_LANE p) false true)) := by
  obtain ⟨hf, hr⟩ := hw
  have hon : (s.view.writeFields wr .LP p idx 0x100).flag Reg.LP_EN p = true := by
    unfold Work.flag
    rw [he]
    decide
  rw [exec_force, execForceSwap, run_alive _ ha, if_pos hf]
  unfold Work.lpCtrlWrite
  dsimp only
  rw [regAction_lands hl _ hl.1]
  rw [hon, hr, hf, Bool.not_true, Bool.and_false]
  simp only [Bool.false_eq_true, if_false, if_true]

theorem force_shows (s : State) (wr : RegWr) (p idx lane h : Nat) (ha : s.alive = true) (hc : Canonical s) (hlen : s.node.lk.halves.length = 64)
    (hl : Lands s wr .LP 0x100 p idx) (hp : p < 32) (hw : wrote1 wr Reg.LP_FORCE_SWAP = true ∧ wrote1 wr Reg.LP_RETRAIN = false)
    (he : (s.view.busWrite wr).w.get Reg.LP_EN p = 1) (hlane : lane = (s.view.busWrite wr).w.get Reg.LP_SWAP_LANE p)
    (hh : h = (s.view.busWrite wr).w.laneHalf p lane) (hlive : s.view.portLive p h = true) (hfree : s.view.laneSpareFree p = true)
    (hen : rd s Reg.GLB_LANE_SPARE_EN = 1) : ∃ t, exec (.forceSwap wr) s = .next t ∧
      (t.view.half p h).swap = some { lane := lane, hard := false, atRound := none, tx := false } ∧
      t.node.out.getLast? = some (.linkSlots p h [ctrlSlot (swapAsk lane h)] (t.view.codewords p h [ctrlSlot (swapAsk lane h)])) := by
  obtain ⟨-, -, -, -, hb⟩ := busWrite_taken hl.2
  rw [hb] at he hlane hh
  dsimp only at he hlane hh
  have hx := force_run ha hl hw he
  have hun : (s.view.writeFields wr .LP p idx 0x100).n = s.node := writeFields_n ..
  have hur : (s.view.writeFields wr .LP p idx 0x100).regs = s.regs := writeFields_regs ..
  have huf : fields (regFields .LP 0x100) (s.view.writeFields wr .LP p idx 0x100) = fields (regFields .LP 0x100) s.view :=
    fields_writeFields _ _ _ _ _ _ (List.Subset.refl _)
  have hfaith : Faithful (s.view.writeFields wr .LP p idx 0x100) Reg.LP_SPLIT p 0 := faithful_writeFields (faithful_view _ _ _ _) _ _ _ _ _ (by decide)
  generalize s.view.writeFields wr .LP p idx 0x100 = u at *
  have huw : fields startFlds (u.startPort p) = fields startFlds u := fields_startPort u p
  have hstate : u.portState p h = s.view.portState p h := by
    unfold Work.portState
    rcases List.mem_pair.1 (stateFld_mem h) with e | e
    · rw [e]
      exact get_of_fields huf (by decide) p 0
    · rw [e]
      exact get_of_fields huf (by decide) p 0
  have hst0 : u.portState p h ≠ 0 := by
    intro e
    rw [e] at hstate
    unfold Work.portLive at hlive
    rw [← hstate] at hlive
    exact absurd hlive (by decide)
  have hstate' : (u.startPort p).portState p h = s.view.portState p h :=
    ((sameAt_startPort hst0).get (fields_regs huw)).trans hstate
  have hlive' : (u.startPort p).portLive p h = true := by
    unfold Work.portLive at hlive ⊢
    rwa [hstate']
  have hhalf : ∀ k, ((u.startPort p).half p k).swap = (s.view.half p k).swap := fun k =>
    (reading_startPort (·.swap) (fun _ => rfl) u p p k).trans (reading_of_lk (·.swap) s.view (congrArg Node.lk hun) p k)
  have hfree' : (u.startPort p).laneSpareFree p = true := by
    unfold Work.laneSpareFree at hfree ⊢
    have hg : (u.startPort p).get Reg.LP_SPARE_FOR p = s.view.get Reg.LP_SPARE_FOR p :=
      (get_of_fields huw (by decide) p 0).trans (get_of_fields huf (by decide) p 0)
    rwa [hg, hhalf, hhalf]
  have hen' : (u.startPort p).flag Reg.GLB_LANE_SPARE_EN = true := by
    unfold Work.flag
    rw [show (u.startPort p).get Reg.GLB_LANE_SPARE_EN = rd s Reg.GLB_LANE_SPARE_EN from
      (get_of_fields0 huw (by decide)).trans (get_of_fields0 huf (by decide)), hen]
    decide
  have hsplit : (u.startPort p).get Reg.LP_SPLIT p = u.get Reg.LP_SPLIT p := get_of_fields huw (by decide) p 0
  have hlane' : (u.startPort p).get Reg.LP_SWAP_LANE p = lane := (get_of_fields huw (by decide) p 0).trans hlane.symm
  have hhl : h = (u.startPort p).laneHalf p lane := by
    rw [hh]
    unfold Work.laneHalf Work.flag
    rw [hsplit]
  have hh2 : h < 2 := by
    rw [hh]
    unfold Work.laneHalf
    split <;> decide
  have hlk : 2 * p + h < (u.startPort p).n.lk.halves.length := by
    rw [startPort_length, hun]
    exact lt_halves (w := s.view) ⟨hp, hh2⟩ hlen
  rw [hlane', askSwap_free true hhl hlive' hfree' hen'] at hx
  have hfaith' : Faithful (u.startPort p) Reg.LP_SPLIT p 0 := hfaith.keep (sameAt_of_fields huw (by decide) p 0)
  have hregs : (u.startPort p).regs = s.regs := (fields_regs huw).trans hur
  have hwiped : (u.startPort p).wiped = false := (fields_wiped huw).trans (fields_wiped huf)
  generalize u.startPort p = w at *
  have hend := swapAsked_half w p h lane false hlk
  refine ⟨_, hx, congrArg Half.swap hend, ?_⟩
  have hcode : (s.close (swapAsked w p h lane false)).view.codewords p h [ctrlSlot (swapAsk lane h)] =
      (w.modHalf p h fun x => { x with swap := some { lane := lane, hard := false, atRound := none, tx := false } }).codewords p h [ctrlSlot (swapAsk lane h)] := by
    have hs : (s.close (swapAsked w p h lane false)).view.get Reg.LP_SPLIT p = w.get Reg.LP_SPLIT p :=
      Faithful.rd hc (w := swapAsked w p h lane false) hfaith' hregs hwiped
    exact codewords_congr (h := h) (b := w.modHalf p h fun x => { x with swap := some { lane := lane, hard := false, atRound := none, tx := false } }) hs rfl _
  rw [hcode, close_node, swapAsked_out, List.getLast?_concat]

/-! ## Hard lane failures -/

/-- A half with one physical lane more that is not trained. -/
def darkened (w : Work) (p h lane : Nat) : Work :=
  w.modHalf p h fun x => { x with dark := if x.dark.contains lane then x.dark else x.dark ++ [lane] }

theorem hard_shows (s : State) (p lane l h : Nat) (ha : s.alive = true) (hc : Canonical s) (hlen : s.node.lk.halves.length = 64) (hp : p < 32)
    (hlog : s.view.logicalOf p lane = some l) (hh : h = s.view.laneHalf p l) (hlive : s.view.portLive p h = true) :
    ∃ t, exec (.hardLaneFailure p lane) s = .next t ∧
      (s.view.laneSpareFree p = true → rd s Reg.GLB_LANE_SPARE_EN = 1 →
        rd t (stateFld h) p = 6 ∧ (t.view.half p h).swap = some { lane := l, hard := true, atRound := none, tx := false }) ∧
      ((s.view.laneSpareFree p = false ∨ rd s Reg.GLB_LANE_SPARE_EN = 0) → rd t (stateFld h) p = 1) := by
  have hx : exec (.hardLaneFailure p lane) s = .next (s.close ((darkened s.view p h lane).askSwap p l true true)) := by
    rw [exec_hard, execHardLaneFailure, run_alive _ ha, hlog]
    dsimp only
    rw [if_pos hp, hh]
    rfl
  have hh2 : h < 2 := by
    rw [hh]
    unfold Work.laneHalf
    split <;> decide
  have hfree : (darkened s.view p h lane).laneSpareFree p = s.view.laneSpareFree p := by
    have hs : ∀ k, ((darkened s.view p h lane).half p k).swap = (s.view.half p k).swap := fun k => reading_modHalf (·.swap) s.view p h p k fun _ => rfl
    unfold Work.laneSpareFree
    rw [hs, hs]
    rfl
  have hlen' : 2 * p + h < (darkened s.view p h lane).n.lk.halves.length := by
    unfold darkened
    rw [Links.modHalf_n]
    dsimp only
    rw [List.length_modify]
    exact lt_halves (w := s.view) ⟨hp, hh2⟩ hlen
  have hh' : h = (darkened s.view p h lane).laneHalf p l := hh
  have hlive' : (darkened s.view p h lane).portLive p h = true := hlive
  have hflag : (darkened s.view p h lane).flag Reg.GLB_LANE_SPARE_EN = s.view.flag Reg.GLB_LANE_SPARE_EN := rfl
  generalize darkened s.view p h lane = w at *
  refine ⟨_, hx, fun hf he => ?_, fun hn => ?_⟩
  · rw [askSwap_hard true hh' hlive' (hfree.trans hf) (hflag.trans ((flag_eq he).trans (by decide)))]
    refine ⟨(setPort_shows (swapAsked w p h l true) p h 6 (by decide)).rd hc.1, ?_⟩
    exact (reading_setPort (swapAsked w p h l true) p h 6 (·.swap) (fun _ => rfl) p h).trans (congrArg Half.swap (swapAsked_half w p h l true hlen'))
  · rw [askSwap_drops hh' hlive' (hn.imp hfree.trans fun h0 => hflag.trans (flag_of_zero h0))]
    exact (dropPort_shows w p h none).rd hc.1

/-! ## Swap requests and their answers -/

/-- A half that answers a swap request with its next round (R249). -/
def swapAnswered (w : Work) (p h lane next : Nat) : Work :=
  (w.modHalf p h fun x => { x with swap := some { lane := lane, hard := false, atRound := some next, tx := true } }).ctrlFlit p h
    (Crypto.beBytes 1 5 ++ Crypto.beBytes 1 lane ++ Crypto.beBytes 1 h ++ Crypto.beBytes 1 next)

section
variable {s : State} {p half : Nat} {flit : Bytes} (ha : s.alive = true) (hlen : s.node.lk.halves.length = 64)
  (hh : s.view.hasHalf p half = true) (hlive : s.view.portLive p half = true)
include ha hlen hh hlive

theorem req_shows (hf : flit.length = 64 ∧ fieldAt flit 0 1 = 4) (hl : fieldAt flit 1 1 < 8 ∧ s.view.laneHalf p (fieldAt flit 1 1) = half)
    (hfree : s.view.laneSpareFree p = true) : ∃ t, exec (.swapReq p half flit) s = .next t ∧
      (t.view.half p half).swap = some { lane := fieldAt flit 1 1, hard := false, atRound := some (((s.view.half p half).txRound + 1) % 256), tx := true } ∧
      (∀ f : Slot, f = ctrlSlot (Sys2Proof.Crypto.beBytes 1 5 ++ Sys2Proof.Crypto.beBytes 1 (fieldAt flit 1 1) ++
        Sys2Proof.Crypto.beBytes 1 half ++ Sys2Proof.Crypto.beBytes 1 (((s.view.half p half).txRound + 1) % 256)) →
        t.node.out = s.node.out ++ [.linkSlots p half [f] (t.view.codewords p half [f])]) ∧
      t.regs = s.regs ∧ t.mem = s.mem := by
  have hx : exec (.swapReq p half flit) s =
      .next (s.close (swapAnswered s.view p half (fieldAt flit 1 1) (((s.view.half p half).txRound + 1) % 256))) := by
    rw [exec_req, execSwapReq, run_alive _ ha, if_neg (guard_false hh hlive), flitCheck_good _ _ hf (by decide)]
    dsimp only
    rw [if_neg (by rw [hl.2]; omega), if_pos (by rw [hfree]; rfl), swapAnswered]
  generalize fieldAt flit 1 1 = lane at *
  generalize ((s.view.half p half).txRound + 1) % 256 = next at *
  refine ⟨_, hx, ?_, ?_, close_regs_quiet s _ rfl rfl, close_mem_quiet s _ rfl rfl⟩
  · exact congrArg Half.swap (half_modHalf s.view (p := p) (h := half) (fun x => { x with swap := some { lane := lane, hard := false, atRound := some next, tx := true } })
      (lt_halves (hasHalf_lt hh) hlen))
  · rintro f rfl
    rfl

theorem ack_shows {sw : LaneSwap} (hf : flit.length = 64 ∧ fieldAt flit 0 1 = 5) (hs : (s.view.half p half).swap = some sw)
    (hsw : sw.tx = false ∧ sw.lane = fieldAt flit 1 1) : ∃ t, exec (.swapAck p half flit) s = .next t ∧
      (t.view.half p half).swap = some { sw with atRound := some (fieldAt flit 3 1) } ∧ t.regs = s.regs ∧ t.mem = s.mem ∧ t.node.out = s.node.out := by
  have hx : exec (.swapAck p half flit) s = .next (s.close (s.view.modHalf p half fun x =>
      match x.swap with
      | some sw => if !sw.tx ∧ sw.lane = fieldAt flit 1 1 then { x with swap := some { sw with atRound := some (fieldAt flit 3 1) } } else x
      | none => x)) := by
    rw [exec_ack, execSwapAck, run_alive _ ha]
    exact congrArg (fun w => Host.Outcome.next (s.close w)) ((if_neg (guard_false hh hlive)).trans (flitCheck_good _ _ hf (by decide) _))
  refine ⟨_, hx, ?_, close_regs_quiet s _ rfl rfl, close_mem_quiet s _ rfl rfl, rfl⟩
  have hm := half_close_modHalf s s.view (fun x => match x.swap with
      | some sw => if !sw.tx ∧ sw.lane = fieldAt flit 1 1 then { x with swap := some { sw with atRound := some (fieldAt flit 3 1) } } else x
      | none => x) (hasHalf_lt hh) hlen
  refine (congrArg Half.swap hm).trans ?_
  rw [hs]
  dsimp only
  rw [if_pos ⟨by rw [hsw.1]; rfl, hsw.2⟩]

end

/-! ## Alignment rounds of a half that is not live -/

theorem idleRound_shows {s : State} {p half : Nat} (blocks : List AlignBlock) (corrected : List Nat) (spareOk : Bool) (ha : s.alive = true)
    (hlen : s.node.lk.halves.length = 64) (hh : s.view.hasHalf p half = true) (hst : s.view.portLive p half = false ∧ s.view.portState p half ≠ 0) :
    ∃ t, exec (.alignmentRound p half blocks corrected spareOk) s = .next t ∧
      (t.view.half p half).round = s.view.roundOf p half blocks ∧ (t.view.half p half).txRound = ((s.view.half p half).txRound + 1) % 256 ∧
      t.node.out = s.node.out ++ [.alignBlocks p half (t.view.blocksOf p half)] ∧ t.regs = s.regs ∧ t.mem = s.mem := by
  have hx : exec (.alignmentRound p half blocks corrected spareOk) s = .next (s.close
      ((s.view.modHalf p half fun x => { x with round := s.view.roundOf p half blocks, txRound := ((s.view.half p half).txRound + 1) % 256 }).emit
        (.alignBlocks p half ((s.view.modHalf p half fun x =>
          { x with round := s.view.roundOf p half blocks, txRound := ((s.view.half p half).txRound + 1) % 256 }).blocksOf p half)))) := by
    rw [exec_round, execAlignmentRound, run_alive _ ha]
    dsimp only
    rw [if_neg (by rw [hh]; simpa using hst.2), if_pos (by rw [hst.1]; rfl)]
  have hm := half_modHalf s.view (p := p) (h := half) (fun x => { x with round := s.view.roundOf p half blocks, txRound := ((s.view.half p half).txRound + 1) % 256 })
    (lt_halves (hasHalf_lt hh) hlen)
  exact ⟨_, hx, congrArg Half.round hm, congrArg Half.txRound hm, rfl, close_regs_quiet s _ rfl rfl, close_mem_quiet s _ rfl rfl⟩

/-! ## A swap that is only wished for -/

theorem askSwap_soft (w : Work) (p l : Nat) : w.askSwap p l false false = w ∨ w.askSwap p l false false = swapAsked w p (w.laneHalf p l) l false := by
  by_cases hl : w.portLive p (w.laneHalf p l) = true
  · by_cases hf : w.laneSpareFree p = true
    · by_cases he : w.flag Reg.GLB_LANE_SPARE_EN = true
      · exact .inr (askSwap_free false rfl hl hf he)
      · refine .inl ?_
        unfold Work.askSwap
        dsimp only
        rw [if_neg (by rw [hl]; decide), if_pos hf, if_neg he, if_neg (by decide)]
    · refine .inl ?_
      unfold Work.askSwap
      dsimp only
      rw [if_neg (by rw [hl]; decide), if_neg hf, if_neg (by decide)]
  · refine .inl ?_
    unfold Work.askSwap
    dsimp only
    rw [if_pos (by simpa using hl)]

/-- A wished swap writes no register and no memory, and what else it leaves of the halves. -/
theorem askSwap_soft_rw (w : Work) (p l : Nat) : (w.askSwap p l false false).rw = w.rw ∧ (w.askSwap p l false false).wiped = w.wiped ∧
    (∃ os, (w.askSwap p l false false).n.out = w.n.out ++ os) ∧
    ∀ {α : Type} (g : Half → α), (∀ x s, g { x with swap := s } = g x) → ∀ q k, g ((w.askSwap p l false false).half q k) = g (w.half q k) := by
  rcases askSwap_soft w p l with h | h
  · rw [h]
    exact ⟨rfl, rfl, ⟨[], (List.append_nil _).symm⟩, fun _ _ _ _ => rfl⟩
  · rw [h]
    exact ⟨rfl, rfl, ⟨_, swapAsked_out w p _ l false⟩, fun g hg q k => reading_swapAsked w p _ l false g hg q k⟩

/-! ## Eye scans -/

theorem logicalOf_congr {a b : Work} (p lane : Nat) (hs : a.get Reg.LP_SPLIT p = b.get Reg.LP_SPLIT p) (hl : a.n.lk = b.n.lk) :
    a.logicalOf p lane = b.logicalOf p lane := by
  have hlane : ∀ l, a.laneHalf p l = b.laneHalf p l := fun l => by
    unfold Work.laneHalf Work.flag
    rw [hs]
  have ho : ∀ k, (a.half p k).order = (b.half p k).order := fun k => reading_of_lk (·.order) b hl p k
  simp only [Work.logicalOf, hlane, ho]

/-- An eye recorded (R432). -/
def eyeShown (w : Work) (i v h b : Nat) : Work := ((w.set Reg.MAR_V v 0 i).set Reg.MAR_H h 0 i).set Reg.MAR_BER_CL b 0 i

theorem eyeShown_shows (w : Work) (i v h b : Nat) : Shows (eyeShown w i v h b) Reg.MAR_V (v % 2 ^ Reg.MAR_V.width) 0 i ∧
    Shows (eyeShown w i v h b) Reg.MAR_H (h % 2 ^ Reg.MAR_H.width) 0 i ∧ Shows (eyeShown w i v h b) Reg.MAR_BER_CL (b % 2 ^ Reg.MAR_BER_CL.width) 0 i :=
  ⟨((shows_set w Reg.MAR_V v 0 i).set _ _ _ _ (key_ne_of_apart (by decide) _ _ _ _)).set _ _ _ _ (key_ne_of_apart (by decide) _ _ _ _),
   (shows_set _ Reg.MAR_H h 0 i).set _ _ _ _ (key_ne_of_apart (by decide) _ _ _ _), shows_set _ Reg.MAR_BER_CL b 0 i⟩

/-- The weakness of an idle spare marked for every lane of its port. -/
def spareMarked (w : Work) (p : Nat) (weak : Bool) : Work :=
  (List.range 9).foldl (fun w l => w.setFlag Reg.MAR_SPARE_WEAK weak 0 (p * 16 + l)) w

/-- A weak lane that carries a logical one, counted, and its swap wished for. -/
def weakCounted (w : Work) (p lane l : Nat) : Work :=
  let w := (w.count Reg.MAR_LANE_EVENTS).log { code := 0x4704, page := 4, detail := p + lane * 32 }
  if w.laneSpareFree p then w.askSwap p l false false else w

/-- What follows from a scanned eye. -/
def eyeJudged (w : Work) (p lane : Nat) (weak : Bool) (logical : Option Nat) : Work :=
  match logical with
  | none => if lane = 8 then spareMarked w p weak else w
  | some l => if !weak then w else weakCounted w p lane l

theorem berCl_rw (w : Work) (p lane : Nat) : (w.berCl p lane).2.n.lk = w.n.lk ∧ (w.berCl p lane).2.rw = w.rw ∧ (w.berCl p lane).2.regs = w.regs := by
  unfold Work.berCl
  dsimp only
  split_ifs
  · exact ⟨rfl, rfl, rfl⟩
  · exact ⟨rfl, rfl, rfl⟩
  · exact ⟨rfl, rfl, rfl⟩

theorem berCl_get (w : Work) (p lane : Nat) (f : Fld) : (w.berCl p lane).2.get f = w.get f := by
  obtain ⟨-, hr, hg⟩ := berCl_rw w p lane
  unfold Work.get Work.raw
  rw [hr, hg]

theorem scan_run {s : State} {p lane v h ber : Nat} (ha : s.alive = true) (hp : p < 32 ∧ lane ≤ 8) (hen : rd s Reg.MAR_LANE_EN = 1) :
    exec (.laneScan p lane v h ber) s = .next (s.close (eyeJudged (eyeShown (s.view.berCl p lane).2 (p * 16 + lane) v h (s.view.berCl p lane).1) p lane
      (decide (v < rd s Reg.MAR_V_MV_104 ∨ h < rd s Reg.MAR_H_UI)) (s.view.logicalOf p lane))) := by
  have hf : s.view.flag Reg.MAR_LANE_EN = true := (flag_eq hen).trans (by decide)
  obtain ⟨hlk, hrw, hrg⟩ := berCl_rw s.view p lane
  rw [exec_scan, execLaneScan, run_alive _ ha, if_neg (by rw [hf]; simp; omega)]
  generalize s.view.berCl p lane = b at *
  have hget : ∀ g : Fld, (Apart Reg.MAR_V g && Apart Reg.MAR_H g && Apart Reg.MAR_BER_CL g) = true → ∀ i,
      (eyeShown b.2 (p * 16 + lane) v h b.1).get g i = rd s g i := fun g hg i => by
    rw [Bool.and_eq_true, Bool.and_eq_true] at hg
    obtain ⟨⟨h1, h2⟩, h3⟩ := hg
    refine (get_set_apart _ h3 _ _ _ _ _).trans ((get_set_apart _ h2 _ _ _ _ _).trans ((get_set_apart _ h1 _ _ _ _ _).trans ?_))
    unfold rd Work.get Work.raw
    rw [hrw, hrg]
  have hlog : (eyeShown b.2 (p * 16 + lane) v h b.1).logicalOf p lane = s.view.logicalOf p lane := logicalOf_congr p lane (hget _ (by decide) p) hlk
  have hv : (eyeShown b.2 (p * 16 + lane) v h b.1).get Reg.MAR_V_MV_104 = rd s Reg.MAR_V_MV_104 := hget _ (by decide) 0
  have hh : (eyeShown b.2 (p * 16 + lane) v h b.1).get Reg.MAR_H_UI = rd s Reg.MAR_H_UI := hget _ (by decide) 0
  rw [← hlog, ← hv, ← hh]
  rfl

theorem weakCounted_shows (w : Work) (p lane l : Nat) : Shows (weakCounted w p lane l) Reg.MAR_LANE_EVENTS
    (min (w.get Reg.MAR_LANE_EVENTS + 1) (2 ^ Reg.MAR_LANE_EVENTS.width - 1)) 0 0 := by
  have hl : Shows ((w.count Reg.MAR_LANE_EVENTS).log { code := 0x4704, page := 4, detail := p + lane * 32 }) Reg.MAR_LANE_EVENTS
      (min (w.get Reg.MAR_LANE_EVENTS + 1) (2 ^ Reg.MAR_LANE_EVENTS.width - 1)) 0 0 :=
    (reports_log _ _).shows (by unfold Plain; decide) (shows_count w Reg.MAR_LANE_EVENTS 1 0 0)
  unfold weakCounted
  dsimp only
  split
  · obtain ⟨hr, -⟩ := askSwap_soft_rw ((w.count Reg.MAR_LANE_EVENTS).log { code := 0x4704, page := 4, detail := p + lane * 32 }) p l
    unfold Shows at hl ⊢
    rwa [hr]
  · exact hl

theorem fields_of_rw {F : List Fld} {w v : Work} (hr : v.rw = w.rw) (hw : v.wiped = w.wiped) (hg : v.regs = w.regs) : fields F v = fields F w := by
  unfold fields
  rw [hr, hw, hg]

theorem askSwap_soft_fields (F : List Fld) (w : Work) (p l : Nat) : fields F (w.askSwap p l false false) = fields F w := by
  rcases askSwap_soft w p l with h | h
  · rw [h]
  · rw [h]
    exact fields_of_rw rfl rfl rfl

theorem fields_spareMarked (w : Work) (p : Nat) (weak : Bool) : fields [Reg.MAR_SPARE_WEAK] (spareMarked w p weak) = fields [Reg.MAR_SPARE_WEAK] w :=
  Frame.foldl_keeps (fields [Reg.MAR_SPARE_WEAK]) (fun v l => fields_setFlag v _ _ _ _ (by decide)) _ w

theorem fields_eyeJudged (w : Work) (p lane : Nat) (weak : Bool) (o : Option Nat) :
    fields [Reg.MAR_SPARE_WEAK, Reg.MAR_LANE_EVENTS] (eyeJudged w p lane weak o) = fields [Reg.MAR_SPARE_WEAK, Reg.MAR_LANE_EVENTS] w := by
  cases o with
  | none => exact fields_of_ite (fields_weaken (by decide) (fields_spareMarked w p weak)) rfl
  | some l =>
    refine fields_of_ite rfl ?_
    have hl : fields [Reg.MAR_SPARE_WEAK, Reg.MAR_LANE_EVENTS] ((w.count Reg.MAR_LANE_EVENTS).log { code := 0x4704, page := 4, detail := p + lane * 32 }) =
        fields [Reg.MAR_SPARE_WEAK, Reg.MAR_LANE_EVENTS] w := (fields_log _ _).trans (fields_count w _ _ _ _ (by decide))
    exact fields_of_ite ((askSwap_soft_fields _ _ p l).trans hl) hl

theorem spareMarked_shows (w : Work) (p : Nat) (weak : Bool) {l : Nat} (hl : l < 9) :
    Shows (spareMarked w p weak) Reg.MAR_SPARE_WEAK (if weak then 1 else 0) 0 (p * 16 + l) := by
  have hk : ∀ y, y ≠ l → Reg.MAR_SPARE_WEAK.key 0 (p * 16 + y) ≠ Reg.MAR_SPARE_WEAK.key 0 (p * 16 + l) := fun y hy => by
    unfold Fld.key
    omega
  refine (foldl_reaches (I := fun _ => True) (P := fun v => Shows v Reg.MAR_SPARE_WEAK (if weak then 1 else 0) 0 (p * 16 + l)) (x := l)
    (fun _ _ _ => trivial) (fun v y _ hv => ?_) (fun v _ => shows_setFlag v _ weak 0 _ (by decide)) _ w trivial (.inl (List.mem_range.2 hl)))
  by_cases hy : y = l
  · rw [hy]
    exact shows_setFlag v _ weak 0 _ (by decide)
  · exact hv.set _ _ _ _ (hk y hy)

theorem plain_mar {f : Fld} (hb : f.blk = .MAR) (hf : 0x100 ≤ f.off ∧ f.off < 4096 ∧ f.lo < 32) {i : Nat} (hi : i < 2 ^ 20) : Plain (f.key 0 i) := by
  refine ⟨by rw [key_off f 0 i hf.2.1 hf.2.2]; exact hf.1, ?_⟩
  unfold Fld.key
  rw [hb, show Block.page .MAR = 4 from rfl]
  omega

theorem scan_shows (s : State) (p lane v h ber : Nat) (ha : s.alive = true) (hc : Canonical s) (hp : p < 32 ∧ lane ≤ 8) (hen : rd s Reg.MAR_LANE_EN = 1) :
    ∃ t, exec (.laneScan p lane v h ber) s = .next t ∧
      rd t Reg.MAR_V 0 (p * 16 + lane) = v % 2 ^ Reg.MAR_V.width ∧
      rd t Reg.MAR_H 0 (p * 16 + lane) = h % 2 ^ Reg.MAR_H.width ∧
      rd t Reg.MAR_BER_CL 0 (p * 16 + lane) = (s.view.berCl p lane).1 % 2 ^ Reg.MAR_BER_CL.width ∧
      (v < rd s Reg.MAR_V_MV_104 ∨ h < rd s Reg.MAR_H_UI → s.view.logicalOf p lane ≠ none →
        rd t Reg.MAR_LANE_EVENTS = min (rd s Reg.MAR_LANE_EVENTS + 1) (2 ^ Reg.MAR_LANE_EVENTS.width - 1)) ∧
      (lane = 8 → s.view.logicalOf p 8 = none → ∀ l : Nat, l < 9 →
        rd t Reg.MAR_SPARE_WEAK 0 (p * 16 + l) = if v < rd s Reg.MAR_V_MV_104 ∨ h < rd s Reg.MAR_H_UI then 1 else 0) := by
  have hx := scan_run (ber := ber) (v := v) (h := h) ha hp hen
  have hp' : ∀ f : Fld, f.blk = .MAR → 0x100 ≤ f.off ∧ f.off < 4096 ∧ f.lo < 32 → Plain (f.key 0 (p * 16 + lane)) := fun f hb hf => plain_mar hb hf (by omega)
  obtain ⟨h1, h2, h3⟩ := eyeShown_shows (s.view.berCl p lane).2 (p * 16 + lane) v h (s.view.berCl p lane).1
  have hf := fields_eyeJudged (eyeShown (s.view.berCl p lane).2 (p * 16 + lane) v h (s.view.berCl p lane).1) p lane
      (decide (v < rd s Reg.MAR_V_MV_104 ∨ h < rd s Reg.MAR_H_UI)) (s.view.logicalOf p lane)
  refine ⟨_, hx, ((fields_sameAt hf (by decide) (hp' _ rfl (by decide))).shows h1).rd hc.1,
    ((fields_sameAt hf (by decide) (hp' _ rfl (by decide))).shows h2).rd hc.1, ((fields_sameAt hf (by decide) (hp' _ rfl (by decide))).shows h3).rd hc.1, ?_, ?_⟩
  · intro hweak hlog
    obtain ⟨l, hl⟩ := Option.ne_none_iff_exists'.1 hlog
    rw [hl, decide_eq_true hweak]
    have hev : (eyeShown (s.view.berCl p lane).2 (p * 16 + lane) v h (s.view.berCl p lane).1).get Reg.MAR_LANE_EVENTS = rd s Reg.MAR_LANE_EVENTS :=
      (get_set_apart _ (by decide) _ _ _ _ _).trans ((get_set_apart _ (by decide) _ _ _ _ _).trans ((get_set_apart _ (by decide) _ _ _ _ _).trans
        (berCl_get s.view p lane _)))
    rw [← hev]
    exact (weakCounted_shows _ p lane l).rd hc.1
  · intro h8 hlog l hl
    rw [h8, hlog]
    have hs := (spareMarked_shows (eyeShown (s.view.berCl p 8).2 (p * 16 + 8) v h (s.view.berCl p 8).1) p
      (decide (v < rd s Reg.MAR_V_MV_104 ∨ h < rd s Reg.MAR_H_UI)) hl).rd hc.1
    simp only [decide_eq_true_eq] at hs
    exact hs

/-! ## Alignment rounds of a live half -/

/-- What a round counts (R247, R248): the codewords received, the symbols and the codewords corrected. -/
def roundCounts (w : Work) (p total good : Nat) : Work :=
  let w := w.count Reg.LP_CW_RX good p
  let lo := ceilDiv total 15
  let hi := min total good
  let d := w.draw
  (d.2.count Reg.LP_SYM_CORRECTED total p).count Reg.LP_CW_CORRECTED (lo + d.1 % (hi + 1 - lo)) p

/-- A half in its next round. -/
def nextRound (w : Work) (p h good : Nat) (corrected : List Nat) (round sent : Nat) : Work :=
  (w.endPeriod p h good corrected).modHalf p h fun x => { x with round := round, txRound := sent, uncorr := 0, uncorrLane := List.replicate 9 0 }

/-- A swap taken when its round has come. -/
def swapDue (w : Work) (p h : Nat) (swap : Option LaneSwap) (round sent : Nat) (ok : Bool) : Work :=
  match swap with
  | some sw => if sw.atRound = some (if sw.tx then sent else round) then w.takeSwap p h sw ok else w
  | none => w

/-- The blocks of the round sent. -/
def blocksSent (w : Work) (p h : Nat) : Work := w.emit (.alignBlocks p h (w.blocksOf p h))

/-- A swap wished for when a lane corrects too much. -/
def swapWished (w : Work) (p h : Nat) (x : Half) (corrected : List Nat) : Work :=
  if w.laneSpareFree p ∧ w.portState p h = 5 then
    match w.softSwap p x corrected with
    | some l => w.askSwap p l false false
    | none => w
  else w

section
variable {s : State} {p half : Nat} (blocks : List AlignBlock) (corrected : List Nat) (spareOk : Bool)

theorem round_run (ha : s.alive = true) (hh : s.view.hasHalf p half = true) (hlive : s.view.portLive p half = true) :
    exec (.alignmentRound p half blocks corrected spareOk) s = .next (s.close (swapWished (blocksSent (swapDue (nextRound
      (roundCounts s.view p ((corrected.take 9).foldl (· + ·) 0) (16383 - (s.view.half p half).uncorr)) p half (16383 - (s.view.half p half).uncorr) corrected
        (s.view.roundOf p half blocks) (((s.view.half p half).txRound + 1) % 256)) p half (s.view.half p half).swap (s.view.roundOf p half blocks)
        (((s.view.half p half).txRound + 1) % 256) spareOk) p half) p half (s.view.half p half) corrected)) := by
  have h0 : s.view.portState p half ≠ 0 := by
    unfold Work.portLive at hlive
    intro e
    rw [e] at hlive
    exact absurd hlive (by decide)
  rw [exec_round, execAlignmentRound, run_alive _ ha]
  dsimp only
  rw [if_neg (by rw [hh]; simpa using h0), if_neg (by rw [hlive]; decide)]
  generalize (corrected.take 9).foldl (· + ·) 0 = total
  generalize 16383 - (s.view.half p half).uncorr = good
  generalize ((s.view.half p half).txRound + 1) % 256 = sent
  generalize s.view.roundOf p half blocks = round
  generalize s.view.half p half = x
  rfl

end

section
variable (w : Work) (p h : Nat)

theorem get_of_rw {w v : Work} (hr : v.rw = w.rw) (hg : v.regs = w.regs) (f : Fld) (i j : Nat) : v.get f i j = w.get f i j := by
  unfold Work.get Work.raw
  rw [hr, hg]

theorem counts_show {w v : Work} {p good : Nat} (hr : v.rw = (w.count Reg.LP_CW_RX good p).rw) (hg : v.regs = w.regs) (total c : Nat) :
    Shows ((v.count Reg.LP_SYM_CORRECTED total p).count Reg.LP_CW_CORRECTED c p) Reg.LP_CW_RX (min (w.get Reg.LP_CW_RX p + good) (2 ^ Reg.LP_CW_RX.width - 1)) p 0 ∧
    Shows ((v.count Reg.LP_SYM_CORRECTED total p).count Reg.LP_CW_CORRECTED c p) Reg.LP_SYM_CORRECTED
      (min (w.get Reg.LP_SYM_CORRECTED p + total) (2 ^ Reg.LP_SYM_CORRECTED.width - 1)) p 0 := by
  have hv : Shows v Reg.LP_CW_RX (min (w.get Reg.LP_CW_RX p + good) (2 ^ Reg.LP_CW_RX.width - 1)) p 0 := by
    have := shows_count w Reg.LP_CW_RX good p 0
    unfold Shows at this ⊢
    rwa [hr]
  have hget : v.get Reg.LP_SYM_CORRECTED p = w.get Reg.LP_SYM_CORRECTED p :=
    (get_of_rw hr hg _ p 0).trans (get_set_apart w (by decide) _ _ _ _ _)
  refine ⟨(hv.set _ _ _ _ (key_ne_of_apart (by decide) _ _ _ _)).set _ _ _ _ (key_ne_of_apart (by decide) _ _ _ _), ?_⟩
  rw [← hget]
  exact (shows_count v Reg.LP_SYM_CORRECTED total p 0).set _ _ _ _ (key_ne_of_apart (by decide) _ _ _ _)

theorem roundCounts_shows (total good : Nat) :
    Shows (roundCounts w p total good) Reg.LP_CW_RX (min (w.get Reg.LP_CW_RX p + good) (2 ^ Reg.LP_CW_RX.width - 1)) p 0 ∧
    Shows (roundCounts w p total good) Reg.LP_SYM_CORRECTED (min (w.get Reg.LP_SYM_CORRECTED p + total) (2 ^ Reg.LP_SYM_CORRECTED.width - 1)) p 0 :=
  counts_show (w := w) (v := (w.count Reg.LP_CW_RX good p).draw.2) (p := p) (good := good) rfl rfl total _

theorem fields_roundCounts (total good : Nat) : fields [Reg.LP_CW_RX, Reg.LP_SYM_CORRECTED, Reg.LP_CW_CORRECTED] (roundCounts w p total good) =
    fields [Reg.LP_CW_RX, Reg.LP_SYM_CORRECTED, Reg.LP_CW_CORRECTED] w :=
  (fields_count _ _ _ _ _ (by decide)).trans ((fields_count _ _ _ _ _ (by decide)).trans (fields_count w _ _ _ _ (by decide)))

theorem nextRound_half (good : Nat) (corrected : List Nat) (round sent : Nat) (hl : 2 * p + h < w.n.lk.halves.length) :
    ((nextRound w p h good corrected round sent).half p h).round = round ∧ ((nextRound w p h good corrected round sent).half p h).txRound = sent ∧
    ((nextRound w p h good corrected round sent).half p h).uncorr = 0 ∧
    (nextRound w p h good corrected round sent).n.lk.halves.length = w.n.lk.halves.length := by
  have hlen : (w.endPeriod p h good corrected).n.lk.halves.length = w.n.lk.halves.length := List.length_modify ..
  have hm := half_modHalf (w.endPeriod p h good corrected) (p := p) (h := h)
    (fun x => { x with round := round, txRound := sent, uncorr := 0, uncorrLane := List.replicate 9 0 }) (by rw [hlen]; exact hl)
  exact ⟨congrArg Half.round hm, congrArg Half.txRound hm, congrArg Half.uncorr hm, (List.length_modify ..).trans hlen⟩

/-! ### The swap of the round -/

/-- What a swap that is taken writes of the registers. -/
def swapFlds : List Fld := [Reg.LP_STATE_A, Reg.LP_STATE_B, Reg.LP_SPARE_FOR, Reg.LP_SPARE_HALF, Reg.LP_SWAPS, Reg.GLB_LANE_SPARE_ANY]

theorem showLaneSpare_reports : ∃ v, Reports w v ∧ w.showLaneSpare p = v.setFlag Reg.GLB_LANE_SPARE_ANY ((List.range 32).any fun q => v.get Reg.LP_SPARE_FOR q != 15) :=
  ⟨_, reports_setSpareInUse _ _ _, rfl⟩

theorem showLaneSpare_lk : (w.showLaneSpare p).n.lk = w.n.lk := by
  obtain ⟨v, hr, he⟩ := showLaneSpare_reports w p
  rw [he, setFlag_n, hr.n_lk]

theorem fields_showLaneSpare {F : List Fld} (hF : Reg.GLB_LANE_SPARE_ANY ∈ F) : fields F (w.showLaneSpare p) = fields F w := by
  obtain ⟨v, hr, he⟩ := showLaneSpare_reports w p
  rw [he, fields_setFlag _ _ _ _ _ hF, fields_of_reports hr]

/-- A half whose swap failed. -/
def swapFailed (w : Work) (p h : Nat) (sw : LaneSwap) : Work :=
  let w := (w.modHalf p h fun x => { x with swap := none }).log { code := 0x4703, page := 0x50 + p, detail := p }
  if sw.hard && !sw.tx then w.dropPort p h none else w

/-- A half whose spare carries the lane, without its state. -/
def spareCarries (w : Work) (p h : Nat) (sw : LaneSwap) : Work :=
  let w := (w.modHalf p h fun x => { x with swap := none }).modHalf p h fun x =>
    if sw.tx then { x with txSpare := some sw.lane } else { x with order := x.order.set sw.lane 8 }
  ((w.set Reg.LP_SPARE_FOR sw.lane p).set Reg.LP_SPARE_HALF h p).count Reg.LP_SWAPS 1 p

/-- The reports of a swap that is taken. -/
def swapTold (w : Work) (p h : Nat) (sw : LaneSwap) : Work :=
  ((w.showLaneSpare p).isr (0x50 + p) 17).log
    { code := 0x4107, page := 0x50 + p, detail := p + h * 256 + sw.lane * 512 + (if sw.hard then 4096 else 0) }

theorem takeSwap_eq (sw : LaneSwap) (ok : Bool) : w.takeSwap p h sw ok = if !ok then swapFailed w p h sw else
    if !sw.tx ∧ (swapTold (spareCarries w p h sw) p h sw).portState p h = 6 then (swapTold (spareCarries w p h sw) p h sw).setPort p h 5
    else swapTold (spareCarries w p h sw) p h sw := by
  cases ok <;> rfl

theorem swapTold_lk (sw : LaneSwap) : (swapTold w p h sw).n.lk = w.n.lk :=
  (reports_log _ _).n_lk.trans ((reports_isr _ _ _).n_lk.trans (showLaneSpare_lk w p))

theorem fields_swapTold {F : List Fld} (hF : Reg.GLB_LANE_SPARE_ANY ∈ F) (sw : LaneSwap) : fields F (swapTold w p h sw) = fields F w :=
  (fields_log _ _).trans ((fields_isr _ _ _).trans (fields_showLaneSpare w p hF))

theorem fields_takeSwap {F : List Fld} (hF : swapFlds ⊆ F) (sw : LaneSwap) (ok : Bool) : fields F (w.takeSwap p h sw ok) = fields F w := by
  have hst : [Reg.LP_STATE_A, Reg.LP_STATE_B] ⊆ F := fun _ hx => hF (List.mem_append_left [Reg.LP_SPARE_FOR, Reg.LP_SPARE_HALF, Reg.LP_SWAPS, Reg.GLB_LANE_SPARE_ANY] hx)
  have htold : fields F (swapTold (spareCarries w p h sw) p h sw) = fields F w :=
    (fields_swapTold _ p h (hF (by decide)) sw).trans
      ((fields_count _ _ _ _ _ (hF (by decide))).trans ((fields_set _ _ _ _ _ (hF (by decide))).trans (fields_set _ _ _ _ _ (hF (by decide)))))
  rw [takeSwap_eq]
  refine fields_of_ite ?_ (fields_of_ite ((fields_setPort _ p h 5 hst).trans htold) htold)
  have hlog : fields F ((w.modHalf p h fun x => { x with swap := none }).log { code := 0x4703, page := 0x50 + p, detail := p }) = fields F w := fields_log _ _
  exact fields_of_ite ((fields_dropPort _ p h none hst).trans hlog) hlog

/-- A reading of the halves that no swap moves. -/
def Steady {α : Type} (g : Half → α) : Prop :=
  (∀ x s, g { x with swap := s } = g x) ∧ (∀ x d, g { x with dark := d } = g x) ∧ (∀ x q, g { x with rxQ := q } = g x) ∧
  (∀ x t, g { x with txSpare := t } = g x) ∧ ∀ x o, g { x with order := o } = g x

theorem reading_takeSwap {α : Type} {g : Half → α} (hg : Steady g) (sw : LaneSwap) (ok : Bool) (q k : Nat) :
    g ((w.takeSwap p h sw ok).half q k) = g (w.half q k) := by
  obtain ⟨hs, hd, hq, ht, ho⟩ := hg
  have hnone : g ((w.modHalf p h fun x => { x with swap := none }).half q k) = g (w.half q k) := reading_modHalf g w p h q k fun x => hs x none
  have htold : g ((swapTold (spareCarries w p h sw) p h sw).half q k) = g (w.half q k) := by
    refine (reading_of_lk g _ (swapTold_lk _ p h sw) q k).trans ?_
    refine (reading_modHalf g (w.modHalf p h fun x => { x with swap := none }) p h q k fun x => ?_).trans hnone
    split
    · exact ht x _
    · exact ho x _
  rw [takeSwap_eq]
  split
  · have hlog : g (((w.modHalf p h fun x => { x with swap := none }).log { code := 0x4703, page := 0x50 + p, detail := p }).half q k) = g (w.half q k) :=
      (reading_of_lk g _ (reports_log _ _).n_lk q k).trans hnone
    unfold swapFailed
    dsimp only
    split
    · exact (reading_dropPort _ p h none g (fun x => hd x []) (fun x => (hq { x with swap := none } []).trans (hs x none)) q k).trans hlog
    · exact hlog
  · split
    · exact (reading_setPort _ p h 5 g (fun x => hd x []) q k).trans htold
    · exact htold

theorem takeSwap_shows {sw : LaneSwap} (hlane : sw.lane < 8) (hl : 2 * p + h < w.n.lk.halves.length) :
    Shows (w.takeSwap p h sw true) Reg.LP_SPARE_FOR sw.lane p 0 ∧
    Shows (w.takeSwap p h sw true) Reg.LP_SWAPS (min (w.get Reg.LP_SWAPS p + 1) (2 ^ Reg.LP_SWAPS.width - 1)) p 0 ∧
    ((w.takeSwap p h sw true).half p h).swap = none := by
  have hF : fields [Reg.LP_STATE_A, Reg.LP_STATE_B, Reg.GLB_LANE_SPARE_ANY] (w.takeSwap p h sw true) =
      fields [Reg.LP_STATE_A, Reg.LP_STATE_B, Reg.GLB_LANE_SPARE_ANY] (spareCarries w p h sw) := by
    rw [takeSwap_eq, if_neg (by decide)]
    have ht := fields_swapTold (F := [Reg.LP_STATE_A, Reg.LP_STATE_B, Reg.GLB_LANE_SPARE_ANY]) (spareCarries w p h sw) p h (by decide) sw
    exact fields_of_ite ((fields_setPort _ p h 5 (by decide)).trans ht) ht
  refine ⟨shows_of_fields hF (by decide) ?_, shows_of_fields hF (by decide) ?_, ?_⟩
  · have h1 := shows_set ((w.modHalf p h fun x => { x with swap := none }).modHalf p h fun x =>
      if sw.tx then { x with txSpare := some sw.lane } else { x with order := x.order.set sw.lane 8 }) Reg.LP_SPARE_FOR sw.lane p 0
    rw [Nat.mod_eq_of_lt (show sw.lane < 2 ^ Reg.LP_SPARE_FOR.width from Nat.lt_trans hlane (by decide))] at h1
    exact (h1.set _ _ _ _ (key_ne_of_apart (by decide) _ _ _ _)).set _ _ _ _ (key_ne_of_apart (by decide) _ _ _ _)
  · have hg : ∀ v : Work, ((v.set Reg.LP_SPARE_FOR sw.lane p).set Reg.LP_SPARE_HALF h p).get Reg.LP_SWAPS p = v.get Reg.LP_SWAPS p := fun v =>
      (get_set_apart _ (by decide) _ _ _ _ _).trans (get_set_apart _ (by decide) _ _ _ _ _)
    have hc := shows_count ((((w.modHalf p h fun x => { x with swap := none }).modHalf p h fun x =>
      if sw.tx then { x with txSpare := some sw.lane } else { x with order := x.order.set sw.lane 8 }).set Reg.LP_SPARE_FOR sw.lane p).set Reg.LP_SPARE_HALF h p)
        Reg.LP_SWAPS 1 p 0
    rw [hg] at hc
    exact hc
  · have h1 : ((w.modHalf p h fun x => { x with swap := none }).half p h).swap = none := congrArg Half.swap (half_modHalf w _ hl)
    have h2 : ((spareCarries w p h sw).half p h).swap = none := by
      refine (reading_modHalf (·.swap) (w.modHalf p h fun x => { x with swap := none }) p h p h fun x => ?_).trans h1
      split <;> rfl
    have h3 : ((swapTold (spareCarries w p h sw) p h sw).half p h).swap = none := (reading_of_lk (·.swap) _ (swapTold_lk _ p h sw) p h).trans h2
    rw [takeSwap_eq, if_neg (by decide)]
    split
    · exact (reading_setPort _ p h 5 (·.swap) (fun _ => rfl) p h).trans h3
    · exact h3

/-! ### The blocks of the round -/

theorem blocksOf_shows : (∀ b ∈ w.blocksOf p h, b.pattern = Config.alignPattern % 2 ^ 64 ∧ b.port = p ∧ b.half = h ∧ b.round = (w.half p h).txRound) ∧
    ∀ l ∈ w.lanesOf p h, ∃ b ∈ w.blocksOf p h, b.logical = some l := by
  unfold Work.blocksOf
  refine ⟨fun b hb => ?_, fun l hl => ⟨_, List.mem_append_left _ (List.mem_map_of_mem hl), rfl⟩⟩
  rcases List.mem_append.1 hb with hb | hb
  · obtain ⟨l, -, rfl⟩ := List.mem_map.1 hb
    exact ⟨rfl, rfl, rfl, rfl⟩
  · split at hb
    · rw [List.mem_singleton.1 hb]
      exact ⟨rfl, rfl, rfl, rfl⟩
    · exact absurd hb List.not_mem_nil

theorem swapWished_rw (x : Half) (corrected : List Nat) : (swapWished w p h x corrected).rw = w.rw ∧ (swapWished w p h x corrected).wiped = w.wiped ∧
    (∃ os, (swapWished w p h x corrected).n.out = w.n.out ++ os) ∧
    ∀ {α : Type} (g : Half → α), (∀ x s, g { x with swap := s } = g x) → ∀ q k, g ((swapWished w p h x corrected).half q k) = g (w.half q k) := by
  have hsame : w.rw = w.rw ∧ w.wiped = w.wiped ∧ (∃ os, w.n.out = w.n.out ++ os) ∧
      ∀ {α : Type} (g : Half → α), (∀ x s, g { x with swap := s } = g x) → ∀ q k, g (w.half q k) = g (w.half q k) :=
    ⟨rfl, rfl, ⟨[], (List.append_nil _).symm⟩, fun _ _ _ _ => rfl⟩
  unfold swapWished
  split
  · cases w.softSwap p x corrected with
    | none => exact hsame
    | some l => exact askSwap_soft_rw w p l
  · exact hsame

theorem swapWished_busy (x : Half) (corrected : List Nat) (hb : w.laneSpareFree p = false) : swapWished w p h x corrected = w := by
  unfold swapWished
  rw [if_neg (by rw [hb]; simp)]

end

/-- The counters that a swap leaves. -/
def RoundKept (w v : Work) (p h : Nat) : Prop :=
  fields swapFlds v = fields swapFlds w ∧ (v.half p h).round = (w.half p h).round ∧ (v.half p h).txRound = (w.half p h).txRound ∧
  (v.half p h).uncorr = (w.half p h).uncorr

theorem swapDue_kept (w : Work) (p h : Nat) (swap : Option LaneSwap) (round sent : Nat) (ok : Bool) : RoundKept w (swapDue w p h swap round sent ok) p h := by
  have hrefl : RoundKept w w p h := ⟨rfl, rfl, rfl, rfl⟩
  cases swap with
  | none => exact hrefl
  | some sw =>
    have hif : swapDue w p h (some sw) round sent ok = if sw.atRound = some (if sw.tx then sent else round) then w.takeSwap p h sw ok else w := rfl
    rw [hif]
    by_cases hat : sw.atRound = some (if sw.tx then sent else round)
    · rw [if_pos hat]
      refine ⟨fields_takeSwap w p h (List.Subset.refl _) sw ok, ?_, ?_, ?_⟩
      · exact reading_takeSwap w p h (g := Half.round) ⟨fun _ _ => rfl, fun _ _ => rfl, fun _ _ => rfl, fun _ _ => rfl, fun _ _ => rfl⟩ sw ok p h
      · exact reading_takeSwap w p h (g := Half.txRound) ⟨fun _ _ => rfl, fun _ _ => rfl, fun _ _ => rfl, fun _ _ => rfl, fun _ _ => rfl⟩ sw ok p h
      · exact reading_takeSwap w p h (g := Half.uncorr) ⟨fun _ _ => rfl, fun _ _ => rfl, fun _ _ => rfl, fun _ _ => rfl, fun _ _ => rfl⟩ sw ok p h
    · rw [if_neg hat]
      exact hrefl

theorem roundCounts_lk (w : Work) (p total good : Nat) : (roundCounts w p total good).n.lk = w.n.lk := rfl

theorem nextRound_rw (w : Work) (p h good : Nat) (corrected : List Nat) (round sent : Nat) : (nextRound w p h good corrected round sent).rw = w.rw ∧
    (nextRound w p h good corrected round sent).regs = w.regs ∧ (nextRound w p h good corrected round sent).wiped = w.wiped := ⟨rfl, rfl, rfl⟩

theorem close_lk (s : State) (w : Work) : (s.close w).view.n.lk = w.n.lk := rfl

theorem askSwap_soft_regs (w : Work) (p l : Nat) : (w.askSwap p l false false).regs = w.regs := by
  rcases askSwap_soft w p l with e | e
  · rw [e]
  · rw [e]
    rfl

/-- A round's end: the blocks sent are those that the half gives, and the counters stay. -/
theorem roundEnd_shows (w : Work) (p h : Nat) (x : Half) (corrected : List Nat) (s : State) :
    fields [] (swapWished (blocksSent w p h) p h x corrected) = fields [] w ∧ Out.alignBlocks p h (w.blocksOf p h) ∈ (swapWished (blocksSent w p h) p h x corrected).n.out ∧
    ∀ {α : Type} (g : Half → α), (∀ x s, g { x with swap := s } = g x) →
      g ((s.close (swapWished (blocksSent w p h) p h x corrected)).view.half p h) = g (w.half p h) := by
  obtain ⟨hr, hw, ⟨os, ho⟩, hg⟩ := swapWished_rw (blocksSent w p h) p h x corrected
  refine ⟨?_, ?_, fun g hs => (reading_of_lk g (swapWished (blocksSent w p h) p h x corrected) (close_lk s _) p h).trans ((hg g hs p h).trans (reading_of_lk g w rfl p h))⟩
  · have hregs : (swapWished (blocksSent w p h) p h x corrected).regs = w.regs := by
      unfold swapWished
      split
      · cases (blocksSent w p h).softSwap p x corrected with
        | none => rfl
        | some l => exact askSwap_soft_regs (blocksSent w p h) p l
      · rfl
    exact fields_of_rw hr hw hregs
  · rw [ho]
    exact List.mem_append_left _ (List.mem_append_right _ (List.mem_singleton.2 rfl))

theorem round_shows (s : State) (p half : Nat) (blocks : List AlignBlock) (corrected : List Nat) (spareOk : Bool) (ha : s.alive = true) (hc : Canonical s)
    (hlen : s.node.lk.halves.length = 64) (hh : s.view.hasHalf p half = true) (hlive : s.view.portLive p half = true) :
    ∃ t, exec (.alignmentRound p half blocks corrected spareOk) s = .next t ∧
      (t.view.half p half).round = s.view.roundOf p half blocks ∧
      (t.view.half p half).txRound = ((s.view.half p half).txRound + 1) % 256 ∧
      (t.view.half p half).uncorr = 0 ∧
      Counted s t Reg.LP_CW_RX (16383 - (s.view.half p half).uncorr) p ∧
      Counted s t Reg.LP_SYM_CORRECTED ((corrected.take 9).foldl (· + ·) 0) p ∧
      (∃ bs, Out.alignBlocks p half bs ∈ t.node.out ∧ (∀ b ∈ bs, b.pattern = Config.alignPattern % 2 ^ 64 ∧ b.port = p ∧ b.half = half ∧
        b.round = ((s.view.half p half).txRound + 1) % 256) ∧ ∀ l ∈ s.view.lanesOf p half, ∃ b ∈ bs, b.logical = some l) ∧
      (∀ sw ∈ (s.view.half p half).swap, sw.atRound = some (if sw.tx then ((s.view.half p half).txRound + 1) % 256 else s.view.roundOf p half blocks) →
        spareOk = true → sw.lane < 8 → rd t Reg.LP_SPARE_FOR p = sw.lane ∧ Counted s t Reg.LP_SWAPS 1 p ∧ (t.view.half p half).swap = none) := by
  have hx := round_run blocks corrected spareOk ha hh hlive
  generalize (corrected.take 9).foldl (· + ·) 0 = total at *
  generalize 16383 - (s.view.half p half).uncorr = good at *
  generalize ((s.view.half p half).txRound + 1) % 256 = sent at *
  generalize s.view.roundOf p half blocks = round at *
  generalize hsw : s.view.half p half = x at *
  have hlt : 2 * p + half < (roundCounts s.view p total good).n.lk.halves.length := by
    rw [roundCounts_lk]
    exact lt_halves (w := s.view) (hasHalf_lt hh) hlen
  obtain ⟨c1, c2⟩ := roundCounts_shows s.view p total good
  have cf := fields_roundCounts s.view p total good
  obtain ⟨n1, n2, n3, n4⟩ := nextRound_half (roundCounts s.view p total good) p half good corrected round sent hlt
  have hn := nextRound_rw (roundCounts s.view p total good) p half good corrected round sent
  generalize nextRound (roundCounts s.view p total good) p half good corrected round sent = w at *
  generalize roundCounts s.view p total good = u at *
  obtain ⟨hrw, hrg, hwi⟩ := hn
  have hwf : ∀ F, fields F w = fields F u := fun F => fields_of_rw hrw hwi hrg
  obtain ⟨k1, k2, k3, k4⟩ := swapDue_kept w p half x.swap round sent spareOk
  have hswap : ∀ sw ∈ x.swap, sw.atRound = some (if sw.tx then sent else round) → spareOk = true → sw.lane < 8 →
      Shows (swapDue w p half x.swap round sent spareOk) Reg.LP_SPARE_FOR sw.lane p 0 ∧
      Shows (swapDue w p half x.swap round sent spareOk) Reg.LP_SWAPS (min (w.get Reg.LP_SWAPS p + 1) (2 ^ Reg.LP_SWAPS.width - 1)) p 0 ∧
      ((swapDue w p half x.swap round sent spareOk).half p half).swap = none := fun sw hs hat hok hl => by
    rw [Option.mem_def.1 hs, hok]
    unfold swapDue
    dsimp only
    rw [if_pos hat]
    exact takeSwap_shows w p half hl (by rw [n4]; exact hlt)
  generalize swapDue w p half x.swap round sent spareOk = v at *
  obtain ⟨b1, b2⟩ := blocksOf_shows v p half
  obtain ⟨e1, e2, e3⟩ := roundEnd_shows v p half x corrected s
  have hfld : fields (swapFlds ++ [Reg.LP_CW_RX, Reg.LP_SYM_CORRECTED, Reg.LP_CW_CORRECTED]) v =
      fields (swapFlds ++ [Reg.LP_CW_RX, Reg.LP_SYM_CORRECTED, Reg.LP_CW_CORRECTED]) s.view :=
    (fields_weaken (List.subset_append_left _ _) k1).trans ((hwf _).trans (fields_weaken (List.subset_append_right _ _) cf))
  refine ⟨_, hx, (e3 Half.round fun _ _ => rfl).trans (k2.trans n1), (e3 Half.txRound fun _ _ => rfl).trans (k3.trans n2),
    (e3 Half.uncorr fun _ _ => rfl).trans (k4.trans n3), ?_, ?_, ⟨_, e2, ?_, ?_⟩, ?_⟩
  · exact (shows_of_fields e1 (by decide) (shows_of_fields k1 (by decide) (shows_of_fields (hwf []) (by decide) c1))).rd hc.1
  · exact (shows_of_fields e1 (by decide) (shows_of_fields k1 (by decide) (shows_of_fields (hwf []) (by decide) c2))).rd hc.1
  · intro b hb
    obtain ⟨p1, p2, p3, p4⟩ := b1 b hb
    exact ⟨p1, p2, p3, p4.trans (k3.trans n2)⟩
  · intro l hl
    refine b2 l ?_
    have hsplit : v.get Reg.LP_SPLIT p = s.view.get Reg.LP_SPLIT p := get_of_fields hfld (by decide) p 0
    unfold Work.lanesOf Work.laneHalf Work.flag at hl ⊢
    rwa [hsplit]
  · intro sw hs hat hok hl
    obtain ⟨h1, h2, h3⟩ := hswap sw hs hat hok hl
    have hg : w.get Reg.LP_SWAPS p = rd s Reg.LP_SWAPS p := (get_of_fields (hwf []) (by decide) p 0).trans (get_of_fields cf (by decide) p 0)
    rw [hg] at h2
    have hbusy : (blocksSent v p half).laneSpareFree p = false := by
      unfold Work.laneSpareFree
      have : (blocksSent v p half).get Reg.LP_SPARE_FOR p = sw.lane := get_of_shows h1
      rw [this]
      have : decide (sw.lane = 15) = false := decide_eq_false (by omega)
      rw [this]
      rfl
    have hsame := swapWished_busy (blocksSent v p half) p half x corrected hbusy
    refine ⟨(shows_of_fields e1 (by decide) h1).rd hc.1, (shows_of_fields e1 (by decide) h2).rd hc.1, ?_⟩
    rw [hsame]
    exact (reading_of_lk Half.swap (blocksSent v p half) (close_lk s _) p half).trans ((reading_of_lk Half.swap v rfl p half).trans h3)

/-- Settles O28, one lemma for each event of the lanes and their rounds. -/
theorem lanesSwapToTheSpare : Obligations.LanesSwapToTheSpare := by
  unfold Obligations.LanesSwapToTheSpare
  refine ⟨force_shows, hard_shows, round_shows, ?_, ?_, scan_shows, ?_⟩
  · exact fun s p half flit ha _ hlen hh hlive hf hl hfree => req_shows ha hlen hh hlive hf hl hfree
  · exact fun s p half flit sw ha hlen hh hlive hf hs hsw => ack_shows ha hlen hh hlive hf hs hsw
  · exact fun s p half blocks corrected spareOk ha _ hlen hh hst => idleRound_shows blocks corrected spareOk ha hlen hh hst

end Sys2Proof.Swaps
end

section
/-!
The training of a port: EN and RETRAIN, signal, convergence, deskew and HELLO (R239, R252 to R255).
-/

namespace Sys2Proof.PortTraining

open Sys2Proof.Machine Sys2Proof.Safety Sys2Proof.Laws Sys2Proof.Entering Sys2Proof.Fields Sys2Proof.Training Sys2Proof.TickSource
open Sys2Proof.Queues Sys2Proof.Writes Sys2Proof.Functions Sys2Proof.Trims Sys2Proof.Links Sys2Proof.Ports Sys2Proof.Swaps Sys2Proof.Stages

theorem exec_enable (s : State) (wr : RegWr) : exec (.lpEnable wr) s = execLpEnable wr s := by simp only [exec]
theorem exec_retrain (s : State) (wr : RegWr) : exec (.lpRetrain wr) s = execLpRetrain wr s := by simp only [exec]
theorem exec_signal (s : State) (p h n : Nat) : exec (.laneSignalDetect p h n) s = execLaneSignalDetect p h n s := by simp only [exec]
theorem exec_converged (s : State) (p h : Nat) (o : Option Nat) : exec (.lanesConverged p h o) s = execLanesConverged p h o s := by simp only [exec]
theorem exec_timeout (s : State) (p h : Nat) : exec (.trainTimeout p h) s = execTrainTimeout p h s := by simp only [exec]
theorem exec_deskewed (s : State) (p : Nat) (x : SeenBlocks) : exec (.lanesDeskewed p x) s = execLanesDeskewed p x s := by simp only [exec]
theorem exec_helloTimer (s : State) (p h : Nat) : exec (.helloTimer p h) s = execHelloTimer p h s := by simp only [exec]
theorem exec_helloFlit (s : State) (p h : Nat) (x : Bytes) : exec (.helloFlit p h x) s = execHelloFlit p h x s := by simp only [exec]
theorem exec_helloTimeout (s : State) (p h : Nat) : exec (.helloTimeout p h) s = execHelloTimeout p h s := by simp only [exec]

/-! ## What a retraining writes -/

/-- The fields that EN, RETRAIN and FORCE_SWAP write. -/
def ctrlFlds : List Fld :=
  [Reg.LP_STATE_A, Reg.LP_STATE_B, Reg.LP_RATE64, Reg.LP_SPARE_FOR, Reg.LP_SPARE_HALF, Reg.LP_MARK_BAD, Reg.GLB_LANE_SPARE_ANY]

/-- A port whose spare is released. -/
def released (w : Work) (p : Nat) : Work :=
  ((((w.set Reg.LP_SPARE_FOR 15 p).set Reg.LP_SPARE_HALF 0 p).set Reg.LP_MARK_BAD 0 p).showLaneSpare p).setRate p

/-- One half of a port sent back to Detect. -/
def retrainHalf (p : Nat) (w : Work) (h : Nat) : Work :=
  let w := w.modHalf p h fun x =>
    { x with swap := none, order := List.range 8, txSpare := none, failed := false, avail := [0, 0, 0, 0], rxQ := [] }
  if w.mayTrain p || w.portState p h != 0 then w.setPort p h 1 else w

theorem retrain_eq (w : Work) (p : Nat) : w.retrain p = ((released w p).halvesOf p).foldl (retrainHalf p) (released w p) := rfl

theorem fields_released (w : Work) (p : Nat) : fields ctrlFlds (released w p) = fields ctrlFlds w :=
  (fields_set _ _ _ _ _ (by decide)).trans ((fields_showLaneSpare _ p (by decide)).trans ((fields_set _ _ _ _ _ (by decide)).trans
    ((fields_set _ _ _ _ _ (by decide)).trans (fields_set _ _ _ _ _ (by decide)))))

theorem fields_retrainHalf {F : List Fld} (hF : [Reg.LP_STATE_A, Reg.LP_STATE_B] ⊆ F) (p : Nat) (w : Work) (h : Nat) : fields F (retrainHalf p w h) = fields F w :=
  fields_of_ite (fields_setPort _ p h 1 hF) rfl

theorem fields_retrain (w : Work) (p : Nat) : fields ctrlFlds (w.retrain p) = fields ctrlFlds w := by
  rw [retrain_eq]
  exact (Frame.foldl_keeps (fields ctrlFlds) (fun v h => fields_retrainHalf (by decide) p v h) _ _).trans (fields_released w p)

theorem released_lk (w : Work) (p : Nat) : (released w p).n.lk = w.n.lk := by
  unfold released Work.setRate
  rw [set_n, showLaneSpare_lk, set_n, set_n, set_n]

theorem reading_retrain {α : Type} (g : Half → α) (hd : ∀ x d, g { x with dark := d } = g x)
    (hg : ∀ x, g { x with swap := none, order := List.range 8, txSpare := none, failed := false, avail := [0, 0, 0, 0], rxQ := [] } = g x)
    (w : Work) (p q k : Nat) : g ((w.retrain p).half q k) = g (w.half q k) := by
  rw [retrain_eq]
  refine (Frame.foldl_keeps (fun v : Work => g (v.half q k)) (fun v h => ?_) _ _).trans (reading_of_lk g w (released_lk w p) q k)
  unfold retrainHalf
  dsimp only
  have hm := reading_modHalf g v p h q k hg
  split
  · exact (reading_setPort _ p h 1 g (fun x => hd x []) q k).trans hm
  · exact hm

/-! ## Halves in Detect -/

/-- A half that shows Detect still does when any half is sent to Detect. -/
theorem detect_setPort {w : Work} {p h : Nat} (hs : Shows w (stateFld h) 1 p 0) (q k : Nat) : Shows (w.setPort q k 1) (stateFld h) 1 p 0 := by
  by_cases e : q = p ∧ stateFld k = stateFld h
  · obtain ⟨rfl, e⟩ := e
    rw [← e]
    exact setPort_shows w q k 1 (by decide)
  · exact (sameAt_setPort w q k 1 (stateKey_ne e) (plain_stateFld p h)).shows hs

theorem detect_dropPort {w : Work} {p h : Nat} (hs : Shows w (stateFld h) 1 p 0) (q k : Nat) (c : Option Nat) : Shows (w.dropPort q k c) (stateFld h) 1 p 0 := by
  obtain ⟨v, -, -, hr, hrw, -⟩ := dropPort_reports w q k c
  have hv : Shows (v.modHalf q k fun x => { x with swap := none, rxQ := [] }) (stateFld h) 1 p 0 := by
    unfold Shows at hs ⊢
    rw [← hs]
    exact congrArg (fun l : List (Nat × Nat × Nat) => l.find? fun e => e.1 = (stateFld h).key p 0) hrw
  exact hr.shows (plain_stateFld p h) (detect_setPort hv q k)

theorem detect_retrainHalf {w : Work} {p h : Nat} (hs : Shows w (stateFld h) 1 p 0) (q k : Nat) : Shows (retrainHalf q w k) (stateFld h) 1 p 0 := by
  unfold retrainHalf
  dsimp only
  split
  · exact detect_setPort (w := w.modHalf q k _) hs q k
  · exact hs

/-- A key off the state of a half and off what a release writes. -/
theorem sameAt_released {w : Work} {p q h : Nat} : SameAt ((stateFld h).key p 0) w (released w q) := by
  have hset : ∀ (f : Fld) (v i : Nat) (u : Work), Apart f Reg.LP_STATE_A = true → Apart f Reg.LP_STATE_B = true → SameAt ((stateFld h).key p 0) u (u.set f v i) :=
    fun f v i u ha hb => sameAt_set u f v i 0 (by
      rcases List.mem_pair.1 (stateFld_mem h) with e | e
      · rw [e]
        exact key_ne_of_apart ha _ _ _ _
      · rw [e]
        exact key_ne_of_apart hb _ _ _ _)
  have h3 : SameAt ((stateFld h).key p 0) w (((w.set Reg.LP_SPARE_FOR 15 q).set Reg.LP_SPARE_HALF 0 q).set Reg.LP_MARK_BAD 0 q) :=
    (hset _ _ _ _ (by decide) (by decide)).trans ((hset _ _ _ _ (by decide) (by decide)).trans (hset _ _ _ _ (by decide) (by decide)))
  obtain ⟨v, hr, he⟩ := showLaneSpare_reports (((w.set Reg.LP_SPARE_FOR 15 q).set Reg.LP_SPARE_HALF 0 q).set Reg.LP_MARK_BAD 0 q) q
  have h4 : SameAt ((stateFld h).key p 0) w ((((w.set Reg.LP_SPARE_FOR 15 q).set Reg.LP_SPARE_HALF 0 q).set Reg.LP_MARK_BAD 0 q).showLaneSpare q) := by
    rw [he]
    exact h3.trans ((hr.sameAt (plain_stateFld p h)).trans (hset _ _ 0 _ (by decide) (by decide)))
  exact h4.trans (hset _ _ _ _ (by decide) (by decide))

theorem detect_retrain {w : Work} {p h : Nat} (hs : Shows w (stateFld h) 1 p 0) (q : Nat) : Shows (w.retrain q) (stateFld h) 1 p 0 := by
  rw [retrain_eq]
  exact foldl_invariant (I := fun v => Shows v (stateFld h) 1 p 0) (fun v k hv => detect_retrainHalf hv q k) _ _ (sameAt_released.shows hs)

/-- The retraining of another port leaves a half's state. -/
theorem sameAt_retrain {w : Work} {p q h : Nat} (hq : q ≠ p) : SameAt ((stateFld h).key p 0) w (w.retrain q) := by
  rw [retrain_eq]
  refine foldl_invariant (I := fun v => SameAt ((stateFld h).key p 0) w v) (fun v k hv => ?_) _ _ sameAt_released
  unfold retrainHalf
  dsimp only
  split
  · exact hv.trans (sameAt_setPort _ q k 1 (stateKey_ne fun e => hq e.1) (plain_stateFld p h))
  · exact hv

/-- A die's retraining of its REH ports is none, or that of one REH port of a node in full service. -/
theorem rehRetrain_cases (w : Work) (die : Nat) : w.rehRetrain die = w ∨ w.isFull = true ∧ ∃ q, w.flag Reg.LP_REH q = true ∧ w.rehRetrain die = w.retrain q := by
  unfold Work.rehRetrain
  extract_lets ports slow settled
  cases hs : slow.find? fun p => ports.all fun q => q = p || settled q with
  | none => exact .inl rfl
  | some q =>
    dsimp only
    by_cases hf : w.isFull = true
    · refine .inr ⟨hf, q, ?_, if_pos hf⟩
      have hm := (List.mem_filter.1 (List.mem_of_find?_eq_some hs)).2
      rw [Bool.and_eq_true] at hm
      exact hm.1
    · exact .inl (if_neg hf)

theorem fields_rehRetrain (w : Work) (die : Nat) : fields ctrlFlds (w.rehRetrain die) = fields ctrlFlds w := by
  rcases rehRetrain_cases w die with h | ⟨-, q, -, h⟩
  · rw [h]
  · rw [h]
    exact fields_retrain w q

theorem detect_rehRetrain {w : Work} {p h : Nat} (hs : Shows w (stateFld h) 1 p 0) (die : Nat) : Shows (w.rehRetrain die) (stateFld h) 1 p 0 := by
  rcases rehRetrain_cases w die with e | ⟨-, q, -, e⟩
  · rw [e]
    exact hs
  · rw [e]
    exact detect_retrain hs q

/-! ## Signal, convergence and timeouts -/

/-- The two state fields. -/
abbrev stateFlds : List Fld := [Reg.LP_STATE_A, Reg.LP_STATE_B]

theorem stateFld_apart {f : Fld} (h : Apart f Reg.LP_STATE_A = true ∧ Apart f Reg.LP_STATE_B = true) (p i k q : Nat) : f.key p i ≠ (stateFld k).key q 0 := by
  rcases List.mem_pair.1 (stateFld_mem k) with e | e
  · rw [e]
    exact key_ne_of_apart h.1 _ _ _ _
  · rw [e]
    exact key_ne_of_apart h.2 _ _ _ _

theorem laneSpareFree_modHalf (w : Work) (p h : Nat) {f : Half → Half} (hf : ∀ x, (f x).swap = x.swap) : (w.modHalf p h f).laneSpareFree p = w.laneSpareFree p := by
  have hs : ∀ k, ((w.modHalf p h f).half p k).swap = (w.half p k).swap := fun k => reading_modHalf (·.swap) w p h p k hf
  unfold Work.laneSpareFree
  rw [hs, hs, get_of_rw (w := w) (v := w.modHalf p h f) rfl rfl]

section
variable {s : State} {p half : Nat} (ha : s.alive = true) (hc : Canonical s) (hh : s.view.hasHalf p half = true)
include ha hc hh

theorem signal_shows {lanes : Nat} (h1 : s.view.portState p half = 1) (hn : (if rd s Reg.LP_SPLIT p ≠ 0 then 4 else 8) ≤ lanes)
    (hm : s.view.mayTrain p = true) (hk : atD s.node.bo.serdesClk (p / 8) false = true) :
    ∃ t, exec (.laneSignalDetect p half lanes) s = .next t ∧
      rd t (stateFld half) p = 2 ∧
      ((s.view.half p half).failed = false → Counted s t Reg.LP_RETRAINS 1 p) ∧
      ((s.view.half p half).failed = true → rd t Reg.LP_RETRAINS p = rd s Reg.LP_RETRAINS p) ∧
      t.node.lk = s.node.lk ∧ t.mem = s.mem := by
  have hneed : (if s.view.flag Reg.LP_SPLIT p then 4 else 8) ≤ lanes := by
    by_cases e : rd s Reg.LP_SPLIT p = 0
    · rw [flag_of_zero e]
      simpa [e] using hn
    · rw [flag_of_ne e]
      simpa [e] using hn
  have hx : exec (.laneSignalDetect p half lanes) s = .next (s.close
      ((if (s.view.half p half).failed then s.view else s.view.count Reg.LP_RETRAINS 1 p).setPort p half 2)) := by
    rw [exec_signal, execLaneSignalDetect, run_alive _ ha]
    dsimp only
    rw [if_pos (by rw [hh, h1, hm, decide_eq_true hneed, show atD s.view.n.bo.serdesClk (p / 8) false = true from hk]; rfl)]
  have hlk : (if (s.view.half p half).failed then s.view else s.view.count Reg.LP_RETRAINS 1 p).n.lk = s.node.lk := by split <;> rfl
  have hwr : (if (s.view.half p half).failed then s.view else s.view.count Reg.LP_RETRAINS 1 p).wr = [] := by split <;> rfl
  have hf : fields [Reg.LP_RETRAINS] (if (s.view.half p half).failed then s.view else s.view.count Reg.LP_RETRAINS 1 p) = fields [Reg.LP_RETRAINS] s.view :=
    fields_of_ite rfl (fields_count _ _ _ _ _ (by decide))
  refine ⟨_, hx, (setPort_shows _ p half 2 (by decide)).rd hc.1, fun h => ?_, fun h => ?_, (setPort_lk _ p half 2 (by decide)).trans hlk, ?_⟩
  · rw [h]
    exact (shows_of_fields (fields_setPort (s.view.count Reg.LP_RETRAINS 1 p) p half 2 (List.Subset.refl stateFlds)) (by decide)
      (shows_count s.view Reg.LP_RETRAINS 1 p 0)).rd hc.1
  · rw [h]
    exact rd_of_fields hc (fields_setPort s.view p half 2 (List.Subset.refl stateFlds)) (by decide) p 0
  · exact close_mem_quiet s _ ((setPort_wr _ p half 2).trans hwr) ((setPort_regs _ p half 2).2.trans (fields_wiped hf))

/-- A lane that failed noted, and its place taken by the spare. -/
def spareTaken (w : Work) (p half l : Nat) : Work :=
  (((w.modHalf p half fun x => { x with dark := [l] }).set Reg.LP_SPARE_FOR l p).set Reg.LP_SPARE_HALF half p).showLaneSpare p

theorem converged_shows {failed : Option Nat} (h2 : s.view.portState p half = 2)
    (hf : ∀ l ∈ failed, l < 8 ∧ s.view.laneHalf p l = half ∧ s.view.laneSpareFree p = true) :
    ∃ t, exec (.lanesConverged p half failed) s = .next t ∧ rd t (stateFld half) p = 3 ∧ (∀ l ∈ failed, rd t Reg.LP_SPARE_FOR p = l) ∧
      (failed = none → t.node.lk = s.node.lk) ∧
      (∀ l ∈ failed, t.node.lk = (s.view.modHalf p half fun x => { x with dark := [l] }).n.lk) ∧ t.mem = s.mem := by
  cases failed with
  | none =>
    have hx : exec (.lanesConverged p half none) s = .next (s.close (s.view.setPort p half 3)) := by
      rw [exec_converged, execLanesConverged, run_alive _ ha, if_neg (by rw [hh, h2]; decide)]
    exact ⟨_, hx, (setPort_shows _ p half 3 (by decide)).rd hc.1, fun l hl => absurd hl (by simp), fun _ => setPort_lk _ p half 3 (by decide),
      fun l hl => absurd hl (by simp), close_mem_quiet s _ (setPort_wr _ p half 3) (setPort_regs _ p half 3).2⟩
  | some l =>
    obtain ⟨hl, hlane, hfree⟩ := hf l rfl
    have hw := (laneSpareFree_modHalf s.view p half (f := fun x => { x with dark := [l] }) fun _ => rfl).trans hfree
    have hsp : (s.view.modHalf p half fun x => { x with dark := [l] }).get Reg.LP_SPARE_FOR p = 15 := by
      unfold Work.laneSpareFree at hw
      simp only [Bool.and_eq_true, decide_eq_true_eq, beq_iff_eq] at hw
      exact hw.1.1
    have hx : exec (.lanesConverged p half (some l)) s = .next (s.close ((spareTaken s.view p half l).setPort p half 3)) := by
      rw [exec_converged, execLanesConverged, run_alive _ ha, if_neg (by rw [hh, h2]; decide)]
      dsimp only
      rw [if_neg (by omega), if_neg (by rw [hsp]; omega), if_pos ⟨hl, hlane, hw⟩, spareTaken]
    have hlk : (spareTaken s.view p half l).n.lk = (s.view.modHalf p half fun x => { x with dark := [l] }).n.lk := by
      unfold spareTaken
      rw [showLaneSpare_lk, set_n, set_n]
    have hfl : fields [Reg.GLB_LANE_SPARE_ANY] (spareTaken s.view p half l) =
        fields [Reg.GLB_LANE_SPARE_ANY] (((s.view.modHalf p half fun x => { x with dark := [l] }).set Reg.LP_SPARE_FOR l p).set Reg.LP_SPARE_HALF half p) :=
      fields_showLaneSpare _ p (by decide)
    have hs : Shows (spareTaken s.view p half l) Reg.LP_SPARE_FOR l p 0 := by
      have h1 := shows_set (s.view.modHalf p half fun x => { x with dark := [l] }) Reg.LP_SPARE_FOR l p 0
      rw [Nat.mod_eq_of_lt (show l < 2 ^ Reg.LP_SPARE_FOR.width from Nat.lt_trans hl (by decide))] at h1
      exact shows_of_fields hfl (by decide) (h1.set _ _ _ _ (key_ne_of_apart (by decide) _ _ _ _))
    have hwr : (spareTaken s.view p half l).wr = [] :=
      (show Wide.SameW true true true (((s.view.modHalf p half fun x => { x with dark := [l] }).set Reg.LP_SPARE_FOR l p).set Reg.LP_SPARE_HALF half p)
        (spareTaken s.view p half l) from by unfold spareTaken; simp).wr
    refine ⟨_, hx, (setPort_shows _ p half 3 (by decide)).rd hc.1, fun l' hl' => ?_, fun h => absurd h (by simp), fun l' hl' => ?_, ?_⟩
    · obtain rfl := Option.some.inj hl'
      exact (shows_of_fields (fields_setPort _ p half 3 (List.Subset.refl stateFlds)) (by decide) hs).rd hc.1
    · obtain rfl := Option.some.inj hl'
      rw [close_node, setPort_lk _ p half 3 (by decide)]
      exact hlk
    · exact close_mem_quiet s _ ((setPort_wr _ p half 3).trans hwr) ((setPort_regs _ p half 3).2.trans (fields_wiped hfl))

/-- A half whose training has timed out. -/
def timedOut (w : Work) (p half : Nat) : Work := ((w.modHalf p half fun x => { x with failed := true }).count Reg.LP_RETRAINS 1 p).setPort p half 1

theorem timeout_shows (h2 : s.view.portState p half = 2) : ∃ t, exec (.trainTimeout p half) s = .next t ∧ rd t (stateFld half) p = 1 ∧
    rd t Reg.LP_RETRAINS p = min (rd s Reg.LP_RETRAINS p + 1) (2 ^ Reg.LP_RETRAINS.width - 1) ∧ t.mem = s.mem := by
  have hx : exec (.trainTimeout p half) s = .next (s.close ((timedOut s.view p half).rehRetrain (p / 16))) := by
    rw [exec_timeout, execTrainTimeout, run_alive _ ha, if_pos (by rw [hh, h2]; decide), timedOut]
  have hcount := shows_count (s.view.modHalf p half fun x => { x with failed := true }) Reg.LP_RETRAINS 1 p 0
  have hf := fields_rehRetrain (timedOut s.view p half) (p / 16)
  have hset : fields stateFlds (timedOut s.view p half) = fields stateFlds ((s.view.modHalf p half fun x => { x with failed := true }).count Reg.LP_RETRAINS 1 p) :=
    fields_setPort _ p half 1 (List.Subset.refl _)
  refine ⟨_, hx, (detect_rehRetrain (setPort_shows _ p half 1 (by decide)) _).rd hc.1,
    (shows_of_fields hf (by decide) (shows_of_fields hset (by decide) hcount)).rd hc.1, ?_⟩
  refine close_mem_quiet s _ ?_ ((fields_wiped hf).trans (fields_wiped hset))
  have hwide : Wide.SameW true true true (timedOut s.view p half) ((timedOut s.view p half).rehRetrain (p / 16)) := by simp
  exact hwide.wr.trans ((setPort_wr _ p half 1).trans rfl)

theorem helloTimeout_shows (hlen : s.node.lk.halves.length = 64) (hlive : s.view.portLive p half = true) :
    ∃ t, exec (.helloTimeout p half) s = .next t ∧ rd t (stateFld half) p = 1 ∧ (t.view.half p half).swap = none ∧ (t.view.half p half).rxQ = [] := by
  have hx : exec (.helloTimeout p half) s = .next (s.close (s.view.dropPort p half none)) := by
    rw [exec_helloTimeout, execHelloTimeout, run_alive _ ha, if_pos (by rw [hh, hlive]; rfl)]
  obtain ⟨h1, h2⟩ := dropPort_empties s.view p half none (lt_halves (w := s.view) (hasHalf_lt hh) hlen)
  exact ⟨_, hx, (dropPort_shows s.view p half none).rd hc.1, (reading_of_lk Half.swap _ (close_lk s _) p half).trans h1,
    (reading_of_lk Half.rxQ _ (close_lk s _) p half).trans h2⟩

end

/-! ## HELLO -/

/-- The fields of the node that a HELLO tells. -/
def helloGlb : List Fld :=
  [Reg.TICK_MASTER, Reg.TICK_LOCK, Reg.TICK_SRC_IN, Reg.TICK_HOPS, Reg.GLB_NODE_ID, Reg.GLB_FABRIC_ID, Reg.GLB_NODE_STATE, Reg.TICK_PERIOD]

/-- The fields of the port that a HELLO tells. -/
def helloPort : List Fld := [Reg.LP_SPLIT, Reg.LP_RATE64, Reg.LP_SPARE_FOR]

theorem helloBody_congr {a b : Work} (p h : Nat) (hg : ∀ f ∈ helloGlb, a.get f = b.get f) (hp : ∀ f ∈ helloPort, a.get f p = b.get f p)
    (ha : a.n.acting = b.n.acting) : a.helloBody p h = b.helloBody p h := by
  simp only [helloGlb, helloPort, List.forall_mem_cons, List.not_mem_nil, false_implies, implies_true, and_true] at hg hp
  obtain ⟨g1, g2, g3, g4, g5, g6, g7, g8⟩ := hg
  obtain ⟨p1, p2, p3⟩ := hp
  unfold Work.helloBody Work.actFlag Work.acting Work.actingFor Work.nodeId Work.nodeState Work.flag
  simp only [ha, g1, g2, g3, g4, g5, g6, g7, g8, p1, p2, p3]

/-- A field of the pages below the ports' keeps what it shows when a port's half changes its state. -/
theorem sameAt_below (w : Work) (p h v : Nat) {f : Fld} (hf : 0x100 ≤ f.off ∧ f.off < 4096 ∧ f.lo < 32 ∧ f.blk.page < 0xB) :
    SameAt (f.key 0 0) w (w.setPort p h v) := by
  obtain ⟨h1, h2, h3, h4⟩ := hf
  refine sameAt_setPort w p h v (fun e => ?_) ⟨by rw [key_off f 0 0 h2 h3]; exact h1, by rw [key_page f 0 h2 h3]; omega⟩
  obtain ⟨ho, hl, -, hb⟩ := stateFld_low h
  have e1 := key_page (stateFld h) p (by omega) hl
  rw [e, key_page f 0 h2 h3, hb, show Block.page .LP = 0x50 from rfl] at e1
  omega

theorem helloGlb_low : ∀ f ∈ helloGlb, 0x100 ≤ f.off ∧ f.off < 4096 ∧ f.lo < 32 ∧ f.blk.page < 0xB := by decide

theorem helloPort_clear : ∀ f ∈ helloPort, Clear stateFlds f = true := by decide

/-- The HELLO that a half sends now. -/
abbrev helloSlot (w : Work) (p h : Nat) : Slot := ctrlSlot (w.helloBody p h ++ Crypto.beBytes 8 w.n.tk.now.toNat)

/-- A half that keeps the HELLO it sends. -/
def helloKept (w : Work) (p h : Nat) : Work := w.modHalf p h fun x => { x with helloSent := w.helloBody p h }

theorem sendHello_out (w : Work) (p h : Nat) : (w.sendHello p h).n.out = w.n.out ++ [.linkSlots p h [helloSlot w p h] ((helloKept w p h).codewords p h [helloSlot w p h])] := rfl

theorem sendHello_rw (w : Work) (p h : Nat) : (w.sendHello p h).rw = w.rw ∧ (w.sendHello p h).regs = w.regs ∧ (w.sendHello p h).wiped = w.wiped ∧
    (w.sendHello p h).wr = w.wr ∧ (w.sendHello p h).n.tk = w.n.tk ∧ (w.sendHello p h).n.acting = w.n.acting := ⟨rfl, rfl, rfl, rfl, rfl, rfl⟩

theorem sendHello_lk (w : Work) (p h : Nat) : (w.sendHello p h).n.lk = (helloKept w p h).n.lk := rfl

theorem reading_sendHello {α : Type} (g : Half → α) (hg : ∀ x b, g { x with helloSent := b } = g x) (w : Work) (p h q k : Nat) :
    g ((w.sendHello p h).half q k) = g (w.half q k) :=
  (reading_of_lk g _ (sendHello_lk w p h) q k).trans (reading_modHalf g w p h q k fun x => hg x _)

/-- The codewords of a HELLO are those of the half that sends it. -/
theorem helloKept_codewords (w : Work) (p h : Nat) (l : List Slot) : (helloKept w p h).codewords p h l = w.codewords p h l :=
  codewords_congr (a := helloKept w p h) (b := w) (get_of_rw rfl rfl _ p 0) (reading_modHalf Half.txSpare w p h p h fun _ => rfl) l

/-- A half's state moves neither the values that act nor the tick. -/
theorem setPort_rest (w : Work) (p h v : Nat) : (w.setPort p h v).n.acting = w.n.acting ∧ (w.setPort p h v).n.tk = w.n.tk := by
  have hr := setPort_reports w p h v
  have hs : (stateSet w p h v).n.acting = w.n.acting ∧ (stateSet w p h v).n.tk = w.n.tk := by
    unfold stateSet
    rw [set_n]
    split <;> exact ⟨rfl, rfl⟩
  have hm : (moved w p h v).n.acting = w.n.acting ∧ (moved w p h v).n.tk = w.n.tk := by
    unfold moved
    split
    · exact hs
    · exact hs
  exact ⟨(congrArg (·.2) (links_reports hr)).trans hm.1, hr.n_tk.trans hm.2⟩

theorem helloTimer_shows {s : State} {p half : Nat} (ha : s.alive = true) (hh : s.view.hasHalf p half = true) (h4 : 4 ≤ s.view.portState p half) :
    ∃ t, exec (.helloTimer p half) s = .next t ∧
      (∀ f : Slot, f = ctrlSlot (s.view.helloBody p half ++ Sys2Proof.Crypto.beBytes 8 s.node.tk.now.toNat) →
        t.node.out = s.node.out ++ [.linkSlots p half [f] (s.view.codewords p half [f])]) ∧
      t.regs = s.regs ∧ t.mem = s.mem ∧ t.node.tk = s.node.tk := by
  have hx : exec (.helloTimer p half) s = .next (s.close (s.view.sendHello p half)) := by
    rw [exec_helloTimer, execHelloTimer, run_alive _ ha, if_pos (by rw [hh, decide_eq_true h4]; rfl)]
  obtain ⟨hr, -, hw, hwr, htk, -⟩ := sendHello_rw s.view p half
  refine ⟨_, hx, ?_, close_regs_quiet s _ hr hw, close_mem_quiet s _ hwr hw, htk⟩
  rintro f rfl
  rw [close_node, sendHello_out, helloKept_codewords]
  rfl

theorem deskewed_shows (s : State) (p half : Nat) (seen : List (Option (AlignBlock × Int))) (order : List (Nat × Nat)) (ha : s.alive = true)
    (hc : Canonical s) (hlen : s.node.lk.halves.length = 64) (hh : s.view.hasHalf p half = true) (h3 : s.view.portState p half = 3)
    (hd : deskew (s.view.lanesOf p half) seen = some order) : ∃ t, exec (.lanesDeskewed p ⟨half, seen⟩) s = .next t ∧
      rd t (stateFld half) p = 4 ∧
      (t.view.half p half).order = order.foldl (fun l e => l.set e.1 e.2) (s.view.half p half).order ∧
      (∀ f : Slot, f = ctrlSlot (t.view.helloBody p half ++ Sys2Proof.Crypto.beBytes 8 s.node.tk.now.toNat) →
        t.node.out.getLast? = some (.linkSlots p half [f] (t.view.codewords p half [f]))) ∧
      t.mem = s.mem := by
  have hx : exec (.lanesDeskewed p ⟨half, seen⟩) s = .next (s.close
      (((s.view.modHalf p half fun x => { x with order := order.foldl (fun l e => l.set e.1 e.2) x.order }).setPort p half 4).sendHello p half)) := by
    rw [exec_deskewed, execLanesDeskewed, run_alive _ ha]
    dsimp only
    rw [hd]
    dsimp only
    rw [if_pos (by rw [hh, h3]; decide)]
  have hm := half_modHalf s.view (p := p) (h := half) (fun x => { x with order := order.foldl (fun l e => l.set e.1 e.2) x.order })
    (lt_halves (w := s.view) (hasHalf_lt hh) hlen)
  have hu : fields stateFlds ((s.view.modHalf p half fun x => { x with order := order.foldl (fun l e => l.set e.1 e.2) x.order }).setPort p half 4) =
      fields stateFlds s.view := fields_setPort _ p half 4 (List.Subset.refl _)
  have hrep := setPort_reports (s.view.modHalf p half fun x => { x with order := order.foldl (fun l e => l.set e.1 e.2) x.order }) p half 4
  have hshow := setPort_shows (s.view.modHalf p half fun x => { x with order := order.foldl (fun l e => l.set e.1 e.2) x.order }) p half 4 (by decide)
  have horder := (reading_setPort (s.view.modHalf p half fun x => { x with order := order.foldl (fun l e => l.set e.1 e.2) x.order }) p half 4 Half.order
    (fun _ => rfl) p half).trans (congrArg Half.order hm)
  have hwr := setPort_wr (s.view.modHalf p half fun x => { x with order := order.foldl (fun l e => l.set e.1 e.2) x.order }) p half 4
  have hn : ((s.view.modHalf p half fun x => { x with order := order.foldl (fun l e => l.set e.1 e.2) x.order }).setPort p half 4).n.acting = s.node.acting ∧
      ((s.view.modHalf p half fun x => { x with order := order.foldl (fun l e => l.set e.1 e.2) x.order }).setPort p half 4).n.tk = s.node.tk :=
    setPort_rest _ p half 4
  have hglb : ∀ f ∈ helloGlb, SameAt (f.key 0 0) s.view
      ((s.view.modHalf p half fun x => { x with order := order.foldl (fun l e => l.set e.1 e.2) x.order }).setPort p half 4) :=
    fun f hf => sameAt_below (s.view.modHalf p half fun x => { x with order := order.foldl (fun l e => l.set e.1 e.2) x.order }) p half 4 (helloGlb_low f hf)
  generalize (s.view.modHalf p half fun x => { x with order := order.foldl (fun l e => l.set e.1 e.2) x.order }).setPort p half 4 = u at *
  obtain ⟨hact, htk⟩ := hn
  obtain ⟨hr, hg, hw, hwr', htk', hact'⟩ := sendHello_rw u p half
  have hend : fields stateFlds (u.sendHello p half) = fields stateFlds s.view := (fields_of_rw hr hw hg).trans hu
  have hbody : (s.close (u.sendHello p half)).view.helloBody p half = u.helloBody p half :=
    helloBody_congr p half
      (fun f hf => ((show SameAt (f.key 0 0) s.view (u.sendHello p half) from hglb f hf).rd hc.1 (hw.trans (fields_wiped hu))).trans ((hglb f hf).get (fields_regs hu)).symm)
      (fun f hf => (rd_of_fields hc hend (helloPort_clear f hf) p 0).trans (get_of_fields hu (helloPort_clear f hf) p 0).symm)
      hact'
  refine ⟨_, hx, ?_, ?_, ?_, close_mem_quiet s _ (hwr'.trans hwr) ((hw).trans (fields_wiped hu))⟩
  · exact Shows.rd (w := u.sendHello p half) hc.1 hshow
  · exact (reading_of_lk Half.order _ (close_lk s _) p half).trans ((reading_sendHello Half.order (fun _ _ => rfl) u p half p half).trans horder)
  · rintro f rfl
    have hcode : ∀ l, (s.close (u.sendHello p half)).view.codewords p half l = u.codewords p half l := fun l =>
      codewords_congr ((rd_of_fields hc hend (by decide) p 0).trans (get_of_fields hu (by decide) p 0).symm)
        ((reading_of_lk Half.txSpare _ (close_lk s _) p half).trans (reading_sendHello Half.txSpare (fun _ _ => rfl) u p half p half)) l
    rw [hbody, hcode, close_node, sendHello_out, helloKept_codewords, List.getLast?_concat, ← htk]

/-! ## A HELLO that comes -/

/-- The fields that a received HELLO shows. -/
def heardFlds : List Fld := [Reg.LP_NODE, Reg.LP_PORT, Reg.LP_STATE, Reg.LP_TICK]

/-- What a received HELLO tells of the peer, kept and shown (R255). -/
def heard (w : Work) (p h : Nat) (flit : Bytes) : Work :=
  ((((w.modHalf p h fun x => { x with peerNode := beAt flit 2 2, peerTick := beAt flit 0xA 1, peerPeriod := beAt flit 0xC 2 % 1024 }).set Reg.LP_NODE
    (beAt flit 2 2) p).set Reg.LP_PORT (beAt flit 8 1) p).set Reg.LP_STATE (beAt flit 9 1 % 8) p).set Reg.LP_TICK (beAt flit 0xA 1 % 32) p

/-- Two masters are reported. -/
def masterTold (w : Work) (flit : Bytes) : Work :=
  if w.actFlag Reg.TICK_MASTER ∧ bitOf (beAt flit 0xA 1) 2 then w.report { code := 0x4605, page := 1, arg := beAt flit 2 2 } else w

/-- The peer's fabric and period are this node's. -/
def agrees (w : Work) (flit : Bytes) : Bool := decide (beAt flit 4 4 = w.get Reg.GLB_FABRIC_ID ∧ beAt flit 0xC 2 % 1024 = w.get Reg.TICK_PERIOD)

/-- What a half in state `st` does on a HELLO that agrees, or does not. -/
def helloJudged (w : Work) (p h st : Nat) (flit : Bytes) (same : Bool) : Work :=
  if st = 4 ∨ st = 7 then
    if same then (w.enterUp p h).rehRetrain (p / 16)
    else if st = 4 then (w.setPort p h 7).report { code := 0x4701, page := 0x50 + p, arg := beAt flit 2 2, detail := p + h * 32 }
    else w
  else if w.isFull && w.isSource p h && beAt flit 0xC 2 % 1024 != w.get Reg.TICK_PERIOD then w.badSource p (beAt flit 0x10 8 % 2 ^ 48)
  else w

theorem lk_of_links {a b : Work} (h : links a = links b) : a.n.lk = b.n.lk := congrArg Prod.fst h

section
variable {s : State} {p half : Nat} {flit : Bytes}

theorem helloFlit_run (ha : s.alive = true) (hh : s.view.hasHalf p half = true) (h4 : 4 ≤ s.view.portState p half)
    (hf : flit.length = 64 ∧ fieldAt flit 0 1 = 1) : exec (.helloFlit p half flit) s = .next (s.close
      (helloJudged (masterTold (heard s.view p half flit) flit) p half (s.view.portState p half) flit
        (agrees (masterTold (heard s.view p half flit) flit) flit)).seekSource) := by
  rw [exec_helloFlit, execHelloFlit, run_alive _ ha]
  have hlt : decide (s.view.portState p half < 4) = false := decide_eq_false (Nat.not_lt.2 h4)
  dsimp only
  rw [if_neg (by rw [hh, hlt]; decide), flitCheck_good _ _ hf (by decide)]
  rfl

end

section
variable (w : Work) (p h : Nat) (flit : Bytes)

theorem fields_heard : fields heardFlds (heard w p h flit) = fields heardFlds w :=
  (fields_set _ _ _ _ _ (by decide)).trans ((fields_set _ _ _ _ _ (by decide)).trans ((fields_set _ _ _ _ _ (by decide)).trans (fields_set _ _ _ _ _ (by decide))))

theorem heard_shows : Shows (heard w p h flit) Reg.LP_NODE (beAt flit 2 2 % 2 ^ Reg.LP_NODE.width) p 0 :=
  (((shows_set _ Reg.LP_NODE (beAt flit 2 2) p 0).set _ _ _ _ (key_ne_of_apart (by decide) _ _ _ _)).set _ _ _ _ (key_ne_of_apart (by decide) _ _ _ _)).set _ _ _ _
    (key_ne_of_apart (by decide) _ _ _ _)

theorem heard_lk : (heard w p h flit).n.lk =
    (w.modHalf p h fun x => { x with peerNode := beAt flit 2 2, peerTick := beAt flit 0xA 1, peerPeriod := beAt flit 0xC 2 % 1024 }).n.lk := by
  unfold heard
  rw [set_n, set_n, set_n, set_n]

theorem heard_half (hl : 2 * p + h < w.n.lk.halves.length) : ((heard w p h flit).half p h).peerNode = beAt flit 2 2 :=
  (reading_of_lk Half.peerNode _ (heard_lk w p h flit) p h).trans
    (congrArg Half.peerNode (half_modHalf w (fun x => { x with peerNode := beAt flit 2 2, peerTick := beAt flit 0xA 1, peerPeriod := beAt flit 0xC 2 % 1024 }) hl))

theorem masterTold_reports : Reports w (masterTold w flit) := by
  unfold masterTold
  split
  · exact reports_report _ _
  · exact Reports.refl w

theorem fields_enterUp {F : List Fld} (hF : stateFlds ⊆ F) : fields F (w.enterUp p h) = fields F w := fields_setPort _ p h 5 hF

theorem enterUp_shows : Shows (w.enterUp p h) (stateFld h) 5 p 0 := setPort_shows _ p h 5 (by decide)

theorem enterUp_peer (q k : Nat) : ((w.enterUp p h).half q k).peerNode = (w.half q k).peerNode :=
  (reading_setPort _ p h 5 Half.peerNode (fun _ => rfl) q k).trans (reading_modHalf Half.peerNode w p h q k fun _ => rfl)

/-- What a HELLO's judgement and the search for a source write. -/
def judgedFlds : List Fld := ctrlFlds ++ sourceFlds

theorem fields_helloJudged (st : Nat) (same : Bool) : fields judgedFlds (helloJudged w p h st flit same) = fields judgedFlds w := by
  unfold helloJudged
  split_ifs
  · exact (fields_weaken (by decide) (fields_rehRetrain (w.enterUp p h) (p / 16))).trans (fields_enterUp w p h (by decide))
  · exact (fields_report _ _).trans (fields_setPort w p h 7 (by decide))
  · rfl
  · exact fields_badSource w p _ (by decide) (by decide)
  · rfl

theorem helloJudged_peer (st : Nat) (same : Bool) (q k : Nat) : ((helloJudged w p h st flit same).half q k).peerNode = (w.half q k).peerNode := by
  have hreh : ∀ v : Work, ((v.rehRetrain (p / 16)).half q k).peerNode = (v.half q k).peerNode := fun v => by
    rcases rehRetrain_cases v (p / 16) with e | ⟨-, r, -, e⟩
    · rw [e]
    · rw [e]
      exact reading_retrain Half.peerNode (fun _ _ => rfl) (fun _ => rfl) v r q k
  unfold helloJudged
  split_ifs
  · exact (hreh _).trans (enterUp_peer w p h q k)
  · exact (reading_of_lk Half.peerNode _ (reports_report _ _).n_lk q k).trans (reading_setPort w p h 7 Half.peerNode (fun _ => rfl) q k)
  · rfl
  · exact reading_of_lk Half.peerNode _ (lk_of_links (badSource_links w p _)) q k
  · rfl

/-- A half that comes up stays up where its own port is not retrained. -/
theorem helloJudged_up {hn : w.isFull = false ∨ w.flag Reg.LP_REH p = false} :
    Shows (helloJudged w p h 4 flit true) (stateFld h) 5 p 0 := by
  have hup := enterUp_shows w p h
  have hfull : (w.enterUp p h).isFull = w.isFull := by
    unfold Work.isFull Work.nodeState
    rw [get_of_fields0 (fields_enterUp w p h (List.Subset.refl stateFlds)) (by decide)]
  have hreh : (w.enterUp p h).flag Reg.LP_REH p = w.flag Reg.LP_REH p := by
    unfold Work.flag
    rw [get_of_fields (fields_enterUp w p h (List.Subset.refl stateFlds)) (by decide)]
  unfold helloJudged
  rw [if_pos (.inl rfl), if_pos rfl]
  rcases rehRetrain_cases (w.enterUp p h) (p / 16) with e | ⟨hf, r, hr, e⟩
  · rw [e]
    exact hup
  · rw [e]
    refine (sameAt_retrain fun hrp => ?_).shows hup
    subst hrp
    rcases hn with hn | hn
    · rw [hfull, hn] at hf
      exact absurd hf (by decide)
    · rw [hreh, hn] at hr
      exact absurd hr (by decide)

theorem helloJudged_apart : Shows (helloJudged w p h 4 flit false) (stateFld h) 7 p 0 := by
  unfold helloJudged
  rw [if_pos (.inl rfl), if_neg (by decide), if_pos rfl]
  exact (reports_report _ _).shows (plain_stateFld p h) (setPort_shows w p h 7 (by decide))

end

theorem helloFlit_shows (s : State) (p half : Nat) (flit : Bytes) (ha : s.alive = true) (hc : Canonical s) (hlen : s.node.lk.halves.length = 64)
    (hh : s.view.hasHalf p half = true) (h4 : 4 ≤ s.view.portState p half) (hf : flit.length = 64 ∧ fieldAt flit 0 1 = 1) :
    ∃ t, exec (.helloFlit p half flit) s = .next t ∧
      (t.view.half p half).peerNode = beAt flit 2 2 ∧
      rd t Reg.LP_NODE p = beAt flit 2 2 % 2 ^ Reg.LP_NODE.width ∧
      (beAt flit 4 4 = rd s Reg.GLB_FABRIC_ID → beAt flit 0xC 2 % 1024 = rd s Reg.TICK_PERIOD → s.view.portState p half = 4 →
        (s.view.isFull = false ∨ rd s Reg.LP_REH p = 0) → rd t (stateFld half) p = 5) ∧
      (¬ (beAt flit 4 4 = rd s Reg.GLB_FABRIC_ID ∧ beAt flit 0xC 2 % 1024 = rd s Reg.TICK_PERIOD) → s.view.portState p half = 4 →
        rd t (stateFld half) p = 7) := by
  have hx := helloFlit_run ha hh h4 hf
  have hpeer := heard_half s.view p half flit (lt_halves (w := s.view) (hasHalf_lt hh) hlen)
  have hnode := heard_shows s.view p half flit
  have hfh := fields_heard s.view p half flit
  generalize heard s.view p half flit = u at *
  have hrep := masterTold_reports u flit
  have hpeer' := (reading_of_lk Half.peerNode u hrep.n_lk p half).trans hpeer
  have hfm : fields heardFlds (masterTold u flit) = fields heardFlds s.view := (fields_of_reports hrep).trans hfh
  have hnode' : Shows (masterTold u flit) Reg.LP_NODE (beAt flit 2 2 % 2 ^ Reg.LP_NODE.width) p 0 :=
    shows_of_fields (fields_of_reports (F := []) hrep) (by decide) hnode
  generalize masterTold u flit = v at *
  have hsame : agrees v flit = decide (beAt flit 4 4 = rd s Reg.GLB_FABRIC_ID ∧ beAt flit 0xC 2 % 1024 = rd s Reg.TICK_PERIOD) := by
    unfold agrees
    rw [get_of_fields0 hfm (by decide), get_of_fields0 hfm (by decide)]
    rfl
  have hfj := fields_helloJudged v p half flit (s.view.portState p half) (agrees v flit)
  have hpj := helloJudged_peer v p half flit (s.view.portState p half) (agrees v flit) p half
  have hfs := fields_seekSource (helloJudged v p half (s.view.portState p half) flit (agrees v flit)) (List.Subset.refl sourceFlds)
  have hls := seekSource_links (helloJudged v p half (s.view.portState p half) flit (agrees v flit))
  have hstate : ∀ x, Shows (helloJudged v p half (s.view.portState p half) flit (agrees v flit)) (stateFld half) x p 0 →
      rd (s.close (helloJudged v p half (s.view.portState p half) flit (agrees v flit)).seekSource) (stateFld half) p = x := fun x hs => by
    refine Shows.rd hc.1 (shows_of_fields hfs ?_ hs)
    rcases List.mem_pair.1 (stateFld_mem half) with e | e
    · rw [e]
      decide
    · rw [e]
      decide
  refine ⟨_, hx, ?_, ?_, fun hfab hper hst hn => hstate 5 ?_, fun hne hst => hstate 7 ?_⟩
  · exact (reading_of_lk Half.peerNode _ (close_lk s _) p half).trans
      ((reading_of_lk Half.peerNode _ (lk_of_links hls) p half).trans (hpj.trans hpeer'))
  · exact (shows_of_fields hfs (by decide) (shows_of_fields hfj (by decide) hnode')).rd hc.1
  · rw [hst, hsame, decide_eq_true ⟨hfab, hper⟩]
    refine helloJudged_up v p half flit (hn := hn.imp (fun h => ?_) fun h => ?_)
    · unfold Work.isFull Work.nodeState at h ⊢
      rwa [get_of_fields0 hfm (by decide)]
    · unfold Work.flag
      rw [get_of_fields hfm (by decide), show s.view.get Reg.LP_REH p = 0 from h]
      decide
  · rw [hst, hsame, decide_eq_false hne]
    exact helloJudged_apart v p half flit

/-! ## EN and RETRAIN -/

/-- A port that is disabled. -/
def disabled (w : Work) (p : Nat) : Work :=
  (((w.modHalf p 0 fun x => { x with swap := none, failed := false }).modHalf p 1 fun x => { x with swap := none, failed := false }).setPort p 0 0).setPort p 1 0

/-- A port's EN obeyed. -/
def enObeyed (was : Bool) (p : Nat) (u : Work) : Work :=
  let w := if was && !u.flag Reg.LP_EN p then disabled u p else u
  if u.flag Reg.LP_EN p then w.startPort p else w

/-- RETRAIN obeyed. -/
def retrainObeyed (wr : RegWr) (p : Nat) (w : Work) : Work := if wrote1 wr Reg.LP_RETRAIN then w.retrain p else w

/-- FORCE_SWAP obeyed. -/
def forceObeyed (wr : RegWr) (p : Nat) (w : Work) : Work :=
  if wrote1 wr Reg.LP_FORCE_SWAP then w.askSwap p (w.get Reg.LP_SWAP_LANE p) false true else w

section
variable {s : State} {wr : RegWr} {p idx : Nat} (hl : Lands s wr .LP 0x100 p idx)
include hl

theorem ctrl_eq : s.view.lpCtrlWrite wr =
    forceObeyed wr p (retrainObeyed wr p (enObeyed (s.view.flag Reg.LP_EN p) p (s.view.writeFields wr .LP p idx 0x100))) := by
  obtain ⟨-, hloc, -, -, -⟩ := busWrite_taken hl.2
  have hi : s.view.instOf wr = p := by
    unfold Work.instOf
    rw [hloc]
  unfold Work.lpCtrlWrite
  dsimp only
  rw [regAction_lands hl _ hl.1, hi]
  rfl

theorem enable_run (ha : s.alive = true) (he : fieldEnabled wr Reg.LP_EN = true) : exec (.lpEnable wr) s = .next (s.close
    (forceObeyed wr p (retrainObeyed wr p (enObeyed (s.view.flag Reg.LP_EN p) p (s.view.writeFields wr .LP p idx 0x100))))) := by
  rw [exec_enable, execLpEnable, run_alive _ ha, if_pos (by rw [he]; rfl), ctrl_eq hl]

theorem retrain_run (ha : s.alive = true) (hw : wrote1 wr Reg.LP_RETRAIN = true) : exec (.lpRetrain wr) s = .next (s.close
    (forceObeyed wr p ((enObeyed (s.view.flag Reg.LP_EN p) p (s.view.writeFields wr .LP p idx 0x100)).retrain p))) := by
  rw [exec_retrain, execLpRetrain, run_alive _ ha, if_pos hw, ctrl_eq hl]
  unfold retrainObeyed
  rw [if_pos hw]

end

/-! ### What each part writes -/

theorem askSwap_cases (w : Work) (p l : Nat) : w.askSwap p l false true = w ∨ (w.askSwap p l false true = swapAsked w p (w.laneHalf p l) l false ∨
    w.askSwap p l false true = w.dropPort p (w.laneHalf p l) none) ∧ w.portLive p (w.laneHalf p l) = true := by
  by_cases hl : w.portLive p (w.laneHalf p l) = true
  · by_cases hf : w.laneSpareFree p = true
    · by_cases he : w.flag Reg.GLB_LANE_SPARE_EN = true
      · exact .inr ⟨.inl (askSwap_free true rfl hl hf he), hl⟩
      · refine .inl ?_
        unfold Work.askSwap
        dsimp only
        rw [if_neg (by rw [hl]; decide), if_pos hf, if_neg he, if_neg (by decide)]
    · refine .inr ⟨.inr ?_, hl⟩
      unfold Work.askSwap
      dsimp only
      rw [if_neg (by rw [hl]; decide), if_neg hf, if_pos rfl]
  · refine .inl ?_
    unfold Work.askSwap
    dsimp only
    rw [if_pos (by simpa using hl)]

theorem fields_forceObeyed (wr : RegWr) (p : Nat) (w : Work) : fields ctrlFlds (forceObeyed wr p w) = fields ctrlFlds w := by
  refine fields_of_ite ?_ rfl
  rcases askSwap_cases w p (w.get Reg.LP_SWAP_LANE p) with e | ⟨e | e, -⟩
  · rw [e]
  · rw [e]
    exact fields_of_rw rfl rfl rfl
  · rw [e]
    exact fields_dropPort w p _ none (by decide)

theorem fields_disabled (w : Work) (p : Nat) : fields stateFlds (disabled w p) = fields stateFlds w :=
  (fields_setPort _ p 1 0 (List.Subset.refl _)).trans (fields_setPort _ p 0 0 (List.Subset.refl _))

theorem fields_enObeyed (was : Bool) (p : Nat) (u : Work) : fields ctrlFlds (enObeyed was p u) = fields ctrlFlds u := by
  have hd : fields ctrlFlds (if was && !u.flag Reg.LP_EN p then disabled u p else u) = fields ctrlFlds u :=
    fields_of_ite (fields_weaken (by decide) (fields_disabled u p)) rfl
  exact fields_of_ite ((fields_weaken (by decide) (fields_startPort _ p)).trans hd) hd

theorem fields_retrainObeyed (wr : RegWr) (p : Nat) (w : Work) : fields ctrlFlds (retrainObeyed wr p w) = fields ctrlFlds w :=
  fields_of_ite (fields_retrain w p) rfl

/-- A half in Detect is left in Detect. -/
theorem detect_force {w : Work} {p h : Nat} (hs : Shows w (stateFld h) 1 p 0) (wr : RegWr) : Shows (forceObeyed wr p w) (stateFld h) 1 p 0 := by
  unfold forceObeyed
  split
  · rcases askSwap_cases w p (w.get Reg.LP_SWAP_LANE p) with e | ⟨e | e, -⟩
    · rw [e]
      exact hs
    · rw [e]
      exact hs
    · rw [e]
      exact detect_dropPort hs p _ none
  · exact hs

theorem detect_retrainObeyed {w : Work} {p h : Nat} (hs : Shows w (stateFld h) 1 p 0) (wr : RegWr) : Shows (retrainObeyed wr p w) (stateFld h) 1 p 0 := by
  unfold retrainObeyed
  split
  · exact detect_retrain hs p
  · exact hs

/-! ### A port that is disabled -/

/-- Both halves of a port show Disabled. -/
def BothOff (w : Work) (p : Nat) : Prop := Shows w Reg.LP_STATE_A 0 p 0 ∧ Shows w Reg.LP_STATE_B 0 p 0

theorem disabled_off (w : Work) (p : Nat) : BothOff (disabled w p) p := by
  refine ⟨?_, setPort_shows _ p 1 0 (by decide)⟩
  exact (sameAt_setPort _ p 1 0 (key_ne_of_apart (f := Reg.LP_STATE_B) (g := Reg.LP_STATE_A) (by decide) _ _ _ _) (plain_stateFld p 0)).shows
    (setPort_shows _ p 0 0 (by decide))

theorem BothOff.state {w : Work} {p : Nat} (h : BothOff w p) (k : Nat) : w.portState p k = 0 := by
  unfold Work.portState
  rcases List.mem_pair.1 (stateFld_mem k) with e | e
  · rw [e]
    exact get_of_shows h.1
  · rw [e]
    exact get_of_shows h.2

theorem BothOff.force {w : Work} {p : Nat} (h : BothOff w p) (wr : RegWr) : forceObeyed wr p w = w := by
  unfold forceObeyed
  split
  · rcases askSwap_cases w p (w.get Reg.LP_SWAP_LANE p) with e | ⟨-, e⟩
    · exact e
    · unfold Work.portLive at e
      rw [h.state] at e
      exact absurd e (by decide)
  · rfl

theorem mayTrain_off {w : Work} {p : Nat} (h : w.flag Reg.LP_EN p = false) : w.mayTrain p = false := by
  unfold Work.mayTrain
  rw [h]
  rfl

theorem BothOff.retrain {w : Work} {p : Nat} (h : BothOff w p) (he : w.flag Reg.LP_EN p = false) : BothOff (w.retrain p) p := by
  have hrel : ∀ k, SameAt ((stateFld k).key p 0) w (released w p) := fun _ => sameAt_released
  have hen : (released w p).flag Reg.LP_EN p = false := by
    unfold Work.flag at he ⊢
    rwa [get_of_fields (fields_released w p) (by decide)]
  rw [retrain_eq]
  refine (foldl_invariant (I := fun v => BothOff v p ∧ v.flag Reg.LP_EN p = false) (fun v k hv => ?_) _ _
    ⟨⟨(hrel 0).shows h.1, (hrel 1).shows h.2⟩, hen⟩).1
  obtain ⟨ho, hv⟩ := hv
  have hm : BothOff (v.modHalf p k fun x =>
    { x with swap := none, order := List.range 8, txSpare := none, failed := false, avail := [0, 0, 0, 0], rxQ := [] }) p := ho
  have hve : (v.modHalf p k fun x =>
    { x with swap := none, order := List.range 8, txSpare := none, failed := false, avail := [0, 0, 0, 0], rxQ := [] }).flag Reg.LP_EN p = false := by
    have hget : ∀ f : Half → Half, (v.modHalf p k f).get Reg.LP_EN p = v.get Reg.LP_EN p := fun f => get_of_rw (w := v) (v := v.modHalf p k f) rfl rfl _ p 0
    unfold Work.flag at hv ⊢
    rwa [hget]
  unfold retrainHalf
  dsimp only
  rw [if_neg (by rw [mayTrain_off hve, hm.state]; decide)]
  exact ⟨hm, hve⟩

/-! ### A port that trains -/

/-- A port may train as another view of it says. -/
theorem mayTrain_congr {a b : Work} {p : Nat} (hf : fields ctrlFlds a = fields ctrlFlds b) (hw : Wide.SameW true true true b a) : a.mayTrain p = b.mayTrain p := by
  have hid : a.get Reg.GLB_IDS_LOCKED = b.get Reg.GLB_IDS_LOCKED := hw.get (by unfold Wide.Stage; decide)
  have hnode : a.get Reg.GLB_NODE_ID = b.get Reg.GLB_NODE_ID := hw.get (by unfold Wide.Stage; decide)
  have hfull : a.get Reg.GLB_EVER_FULL = b.get Reg.GLB_EVER_FULL := hw.get_state (by unfold Wide.StateKey; decide)
  have hen : a.get Reg.LP_EN p = b.get Reg.LP_EN p := get_of_fields hf (by decide) p 0
  have hreh : a.get Reg.LP_REH p = b.get Reg.LP_REH p := get_of_fields hf (by decide) p 0
  unfold Work.mayTrain Work.idsGiven Work.nodeId Work.flag
  rw [hen, hreh, hid, hnode, hfull, hw.bo.1]

theorem mayTrain_en {w : Work} {p : Nat} (h : w.mayTrain p = true) : w.flag Reg.LP_EN p = true := by
  unfold Work.mayTrain at h
  simp only [Bool.and_eq_true] at h
  exact h.1.1

theorem stateFld_zero : stateFld 0 = Reg.LP_STATE_A := if_pos rfl

theorem startHalf_detect {w : Work} {p h : Nat} (h0 : w.portState p h = 0) : Shows (startHalf p w h) (stateFld h) 1 p 0 := by
  unfold startHalf
  rw [if_pos h0]
  exact setPort_shows _ p h 1 (by decide)

theorem detect_startHalf {w : Work} {p k : Nat} (hs : Shows w (stateFld k) 1 p 0) (h : Nat) : Shows (startHalf p w h) (stateFld k) 1 p 0 := by
  unfold startHalf
  split
  · refine detect_setPort ?_ p h
    exact (sameAt_set w Reg.LP_RATE64 _ p 0 (stateFld_apart (by decide) _ _ _ _)).shows hs
  · exact hs

theorem zero_mem_halvesOf (w : Work) (p : Nat) : ∃ l, w.halvesOf p = 0 :: l := by
  unfold Work.halvesOf
  split
  · exact ⟨_, rfl⟩
  · exact ⟨_, rfl⟩

/-- Half A of a Disabled port that may train goes to Detect. -/
theorem startPort_detect {w : Work} {p : Nat} (hm : w.mayTrain p = true) (h0 : w.portState p 0 = 0) : Shows (w.startPort p) (stateFld 0) 1 p 0 := by
  obtain ⟨l, hl⟩ := zero_mem_halvesOf w p
  rw [startPort_eq, hm, hl, if_neg (by decide), List.foldl_cons]
  exact foldl_invariant (I := fun v => Shows v (stateFld 0) 1 p 0) (fun v h hv => detect_startHalf hv h) l _ (startHalf_detect h0)

theorem enObeyed_off {u : Work} {p : Nat} (h : u.flag Reg.LP_EN p = false) : enObeyed true p u = disabled u p := by
  unfold enObeyed
  rw [h]
  exact (if_neg Bool.false_ne_true).trans (if_pos rfl)

theorem enObeyed_on {u : Work} {p : Nat} (was : Bool) (h : u.flag Reg.LP_EN p = true) : enObeyed was p u = u.startPort p := by
  unfold enObeyed
  rw [h, Bool.not_true, Bool.and_false]
  exact if_pos rfl

/-- Every half of a port that may train is sent back to Detect. -/
theorem retrain_detect {w : Work} {p h : Nat} (hm : w.mayTrain p = true) (hh : h ∈ w.halvesOf p) : Shows (w.retrain p) (stateFld h) 1 p 0 := by
  have hwide : Wide.SameW true true true w (released w p) := by
    unfold released
    simp +decide
  have hm' : (released w p).mayTrain p = true := (mayTrain_congr (fields_released w p) hwide).trans hm
  have hh' : h ∈ (released w p).halvesOf p := by
    unfold Work.halvesOf Work.flag at hh ⊢
    rwa [get_of_fields (fields_released w p) (by decide)]
  have hmod : ∀ (v : Work) (k : Nat) (f : Half → Half), (v.modHalf p k f).mayTrain p = v.mayTrain p := fun v k f =>
    mayTrain_congr (fields_of_rw (w := v) rfl rfl rfl) rfl
  rw [retrain_eq]
  refine foldl_reaches (I := fun v => v.mayTrain p = true) (P := fun v => Shows v (stateFld h) 1 p 0) (x := h)
    (fun v k hv => ?_) (fun v k _ hs => detect_retrainHalf hs p k) (fun v hv => ?_) _ _ hm' (.inl hh')
  · refine (mayTrain_congr (fields_retrainHalf (by decide) p v k) ?_).trans hv
    unfold retrainHalf
    dsimp only
    split <;> simp
  · unfold retrainHalf
    dsimp only
    rw [if_pos (by rw [hmod, hv]; rfl)]
    exact setPort_shows _ p h 1 (by decide)

theorem released_shows (w : Work) (p : Nat) : Shows (w.retrain p) Reg.LP_SPARE_FOR 15 p 0 ∧ Shows (w.retrain p) Reg.LP_MARK_BAD 0 p 0 := by
  have hf : fields [Reg.LP_STATE_A, Reg.LP_STATE_B, Reg.GLB_LANE_SPARE_ANY, Reg.LP_RATE64] (w.retrain p) =
      fields [Reg.LP_STATE_A, Reg.LP_STATE_B, Reg.GLB_LANE_SPARE_ANY, Reg.LP_RATE64]
        (((w.set Reg.LP_SPARE_FOR 15 p).set Reg.LP_SPARE_HALF 0 p).set Reg.LP_MARK_BAD 0 p) := by
    rw [retrain_eq]
    refine (Frame.foldl_keeps (fields _) (fun v h => fields_retrainHalf (by decide) p v h) _ _).trans ?_
    exact (fields_set _ _ _ _ _ (by decide)).trans (fields_showLaneSpare _ p (by decide))
  refine ⟨shows_of_fields hf (by decide) ?_, shows_of_fields hf (by decide) (shows_set _ Reg.LP_MARK_BAD 0 p 0)⟩
  exact ((shows_set w Reg.LP_SPARE_FOR 15 p 0).set _ _ _ _ (key_ne_of_apart (by decide) _ _ _ _)).set _ _ _ _ (key_ne_of_apart (by decide) _ _ _ _)

theorem fields_forceObeyed' (wr : RegWr) (p : Nat) (w : Work) : fields stateFlds (forceObeyed wr p w) = fields stateFlds w := by
  refine fields_of_ite ?_ rfl
  rcases askSwap_cases w p (w.get Reg.LP_SWAP_LANE p) with e | ⟨e | e, -⟩
  · rw [e]
  · rw [e]
    exact fields_of_rw rfl rfl rfl
  · rw [e]
    exact fields_dropPort w p _ none (List.Subset.refl _)

section
variable {s : State} {wr : RegWr} {p idx : Nat} (ha : s.alive = true) (hc : Canonical s) (hl : Lands s wr .LP 0x100 p idx)
include ha hc hl

theorem enable_shows (he : fieldEnabled wr Reg.LP_EN = true) : ∃ t, exec (.lpEnable wr) s = .next t ∧
    rd t Reg.LP_EN p = (s.view.busWrite wr).w.get Reg.LP_EN p ∧
    (rd t Reg.LP_EN p = 0 → rd s Reg.LP_EN p = 1 → rd t Reg.LP_STATE_A p = 0 ∧ rd t Reg.LP_STATE_B p = 0) ∧
    ((s.view.busWrite wr).w.mayTrain p = true → rd s Reg.LP_STATE_A p = 0 → rd t Reg.LP_STATE_A p = 1) := by
  obtain ⟨-, -, -, -, hb⟩ := busWrite_taken hl.2
  have hx := enable_run hl ha he
  have hur : (s.view.writeFields wr .LP p idx 0x100).regs = s.regs := writeFields_regs ..
  have huw : (s.view.writeFields wr .LP p idx 0x100).wiped = false := writeFields_wiped ..
  have huf : fields (regFields .LP 0x100) (s.view.writeFields wr .LP p idx 0x100) = fields (regFields .LP 0x100) s.view :=
    fields_writeFields _ _ _ _ _ _ (List.Subset.refl _)
  have hfaith : Faithful (s.view.writeFields wr .LP p idx 0x100) Reg.LP_EN p 0 := faithful_writeFields (faithful_view _ _ _ _) _ _ _ _ _ (by decide)
  rw [hb]
  dsimp only
  generalize s.view.writeFields wr .LP p idx 0x100 = u at *
  have hend : fields ctrlFlds (forceObeyed wr p (retrainObeyed wr p (enObeyed (s.view.flag Reg.LP_EN p) p u))) = fields ctrlFlds u :=
    (fields_forceObeyed wr p _).trans ((fields_retrainObeyed wr p _).trans (fields_enObeyed _ p u))
  have hen : rd (s.close (forceObeyed wr p (retrainObeyed wr p (enObeyed (s.view.flag Reg.LP_EN p) p u)))) Reg.LP_EN p = u.get Reg.LP_EN p :=
    (Faithful.rd hc (hfaith.keep (sameAt_of_fields hend (by decide) p 0)) ((fields_regs hend).trans hur) ((fields_wiped hend).trans huw)).trans
      (get_of_fields hend (by decide) p 0)
  refine ⟨_, hx, hen, fun h0 h1 => ?_, fun hm h0 => ?_⟩
  · rw [hen] at h0
    have hoff : u.flag Reg.LP_EN p = false := by
      unfold Work.flag
      rw [h0]
      rfl
    have hwas : s.view.flag Reg.LP_EN p = true := (flag_eq h1).trans (by decide)
    rw [hwas, enObeyed_off hoff]
    have hboth : BothOff (retrainObeyed wr p (disabled u p)) p := by
      unfold retrainObeyed
      split
      · refine (disabled_off u p).retrain ?_
        unfold Work.flag at hoff ⊢
        rwa [get_of_fields (fields_disabled u p) (by decide)]
      · exact disabled_off u p
    rw [hboth.force]
    exact ⟨hboth.1.rd hc.1, hboth.2.rd hc.1⟩
  · have hon := mayTrain_en hm
    have hd := enObeyed_on (s.view.flag Reg.LP_EN p) hon
    have hst : u.portState p 0 = 0 := by
      unfold Work.portState
      rw [stateFld_zero]
      exact (get_of_fields huf (show Clear (regFields .LP 0x100) Reg.LP_STATE_A = true by decide) p 0).trans h0
    rw [hd]
    have hs := (detect_force (detect_retrainObeyed (startPort_detect hm hst) wr) wr).rd hc.1
    rwa [stateFld_zero] at hs

theorem retrain_shows (hw : wrote1 wr Reg.LP_RETRAIN = true) : ∃ t, exec (.lpRetrain wr) s = .next t ∧
    rd t Reg.LP_SPARE_FOR p = 15 ∧ rd t Reg.LP_MARK_BAD p = 0 ∧
    ((s.view.busWrite wr).w.mayTrain p = true → ∀ h ∈ t.view.halvesOf p, rd t (stateFld h) p = 1) := by
  obtain ⟨-, -, -, -, hb⟩ := busWrite_taken hl.2
  have hx := retrain_run hl ha hw
  have hur : (s.view.writeFields wr .LP p idx 0x100).regs = s.regs := writeFields_regs ..
  have huw : (s.view.writeFields wr .LP p idx 0x100).wiped = false := writeFields_wiped ..
  have hfaith : Faithful (s.view.writeFields wr .LP p idx 0x100) Reg.LP_SPLIT p 0 := faithful_writeFields (faithful_view _ _ _ _) _ _ _ _ _ (by decide)
  rw [hb]
  dsimp only
  generalize s.view.writeFields wr .LP p idx 0x100 = u at *
  have hen := fields_enObeyed (s.view.flag Reg.LP_EN p) p u
  have hre := fields_retrain (enObeyed (s.view.flag Reg.LP_EN p) p u) p
  have hend := (fields_forceObeyed wr p ((enObeyed (s.view.flag Reg.LP_EN p) p u).retrain p)).trans (hre.trans hen)
  have hforce : ∀ f ∈ [Reg.LP_SPARE_FOR, Reg.LP_MARK_BAD], SameAt (f.key p 0) ((enObeyed (s.view.flag Reg.LP_EN p) p u).retrain p)
      (forceObeyed wr p ((enObeyed (s.view.flag Reg.LP_EN p) p u).retrain p)) := fun f hf =>
    sameAt_of_fields (fields_forceObeyed' wr p _) ((show ∀ f ∈ [Reg.LP_SPARE_FOR, Reg.LP_MARK_BAD], Clear stateFlds f = true by decide) f hf) p 0
  obtain ⟨h1, h2⟩ := released_shows (enObeyed (s.view.flag Reg.LP_EN p) p u) p
  refine ⟨_, hx, ((hforce _ (by decide)).shows h1).rd hc.1, ((hforce _ (by decide)).shows h2).rd hc.1, fun hm h hh => ?_⟩
  have hon := mayTrain_en hm
  have hd := enObeyed_on (s.view.flag Reg.LP_EN p) hon
  have hwide : Wide.SameW true true true u (u.startPort p) := by simp
  have hm' : (u.startPort p).mayTrain p = true := (mayTrain_congr (hd ▸ hen) hwide).trans hm
  have hsplit : rd (s.close (forceObeyed wr p ((enObeyed (s.view.flag Reg.LP_EN p) p u).retrain p))) Reg.LP_SPLIT p = (u.startPort p).get Reg.LP_SPLIT p :=
    (Faithful.rd hc (hfaith.keep (sameAt_of_fields hend (by decide) p 0)) ((fields_regs hend).trans hur) ((fields_wiped hend).trans huw)).trans
      ((get_of_fields hend (by decide) p 0).trans (get_of_fields (hd ▸ hen : fields ctrlFlds (u.startPort p) = _) (by decide) p 0).symm)
  have hh' : h ∈ (u.startPort p).halvesOf p := by
    unfold Work.halvesOf Work.flag at hh ⊢
    rw [← hsplit]
    exact hh
  rw [hd]
  exact (detect_force (retrain_detect hm' hh') wr).rd hc.1

end

/-- Settles O27, one lemma for each event of a port's training. -/
theorem portsTrainAndComeUp : Obligations.PortsTrainAndComeUp := by
  unfold Obligations.PortsTrainAndComeUp
  refine ⟨?_, ?_, ?_, ?_, ?_, deskewed_shows, ?_, helloFlit_shows, ?_⟩
  · exact fun s wr p idx ha hc hl _ he => enable_shows ha hc hl he
  · exact fun s wr p idx ha hc hl _ hw => retrain_shows ha hc hl hw
  · exact fun s p half lanes ha hc hh h1 hn hm hk => signal_shows ha hc hh h1 hn hm hk
  · exact fun s p half failed ha hc hh h2 hf => converged_shows ha hc hh h2 hf
  · exact fun s p half ha hc hh h2 => timeout_shows ha hc hh h2
  · exact fun s p half ha hh h4 => helloTimer_shows ha hh h4
  · exact fun s p half ha hc hlen hh hlive => helloTimeout_shows ha hc hh hlen hlive

end Sys2Proof.PortTraining
end

section
/-!
Packets received (R134, R137, R277, R289, R302): the checks of the header, transit, packets held for a context, and those taken.
-/

namespace Sys2Proof.Packets

open Sys2Proof.Machine Sys2Proof.Safety Sys2Proof.Laws Sys2Proof.Entering Sys2Proof.Fields Sys2Proof.Training Sys2Proof.TickSource
open Sys2Proof.Queues Sys2Proof.Functions Sys2Proof.Trims Sys2Proof.Links Sys2Proof.Ports Sys2Proof.Swaps Sys2Proof.Stages Sys2Proof.Assoc

theorem exec_packet (s : State) (p h : Nat) (x : Bytes) : exec (.packetReceived p h x) s = execPacketReceived p h x s := by simp only [exec]

/-! ## Keystone searches and the registers that they leave -/

/-- The counters of the Keystone that stand alone. -/
def keyCounters : List Fld := [Reg.KEY_SEARCHES, Reg.KEY_HITS, Reg.KEY_FALSE_SOFT]

/-- A key that no Keystone search writes. -/
def Beside (k : Nat) : Prop := (∀ i j, Reg.KEY_PAR_ERR.key i j ≠ k) ∧ ∀ f ∈ keyCounters, f.key 0 0 ≠ k

/-- The registers of a view but for what a Keystone search writes. -/
def besideKeys (w : Work) := (w.regs, w.wiped, fun k : {k // Beside k} => w.rw.find? fun e => e.1 = k.1)

section
variable {w v : Work} (h : besideKeys v = besideKeys w)
include h

theorem beside_regs : v.regs = w.regs := congrArg (·.1) h
theorem beside_wiped : v.wiped = w.wiped := congrArg (·.2.1) h
theorem beside_sameAt {k : Nat} (hk : Beside k) : SameAt k w v :=
  congrFun (congrArg (fun x : _ × _ × ({k // Beside k} → _) => x.2.2) h) ⟨k, hk⟩
theorem beside_get {f : Fld} {i j : Nat} (hk : Beside (f.key i j)) : v.get f i j = w.get f i j := (beside_sameAt h hk).get (beside_regs h)

end

theorem beside_count (w : Work) {f : Fld} (hf : f ∈ keyCounters) (x : Nat) : besideKeys (w.count f x) = besideKeys w := by
  unfold besideKeys
  rw [count_regs, count_wiped]
  exact congrArg (fun g => (w.regs, w.wiped, g)) (funext fun k => sameAt_set w f _ 0 0 (k.2.2 f hf))

theorem beside_parity (w : Work) (x i j : Nat) : besideKeys (w.count Reg.KEY_PAR_ERR x i j) = besideKeys w := by
  unfold besideKeys
  rw [count_regs, count_wiped]
  exact congrArg (fun g => (w.regs, w.wiped, g)) (funext fun k => sameAt_set w Reg.KEY_PAR_ERR _ i j (k.2.1 i j))

theorem key_lo (f : Fld) (i j : Nat) (h : f.lo < 32) : f.key i j % 32 = f.lo := by
  unfold Fld.key
  omega

theorem keyCounters_page : ∀ g ∈ keyCounters, g.off < 4096 ∧ g.lo < 32 ∧ g.blk.page = 0x27 := by decide

/-- A field of a block of its own page, without an instance or a selection, is beside them. -/
theorem beside_key {f : Fld} (h : f.off < 4096 ∧ f.lo < 32 ∧ f.blk.page ≠ 0x27 ∧ ¬ (f.off = 0x118 ∧ f.lo = 24)) : Beside (f.key 0 0) := by
  obtain ⟨ho, hl, hp, hn⟩ := h
  refine ⟨fun i j e => ?_, fun g hg e => ?_⟩
  · have h1 := key_off Reg.KEY_PAR_ERR i j (by decide) (by decide)
    have h2 := key_lo Reg.KEY_PAR_ERR i j (by decide)
    rw [e, key_off f 0 0 ho hl] at h1
    rw [e, key_lo f 0 0 hl] at h2
    exact hn ⟨h1, h2⟩
  · have hgp := keyCounters_page g hg
    have h1 := key_page g 0 hgp.1 hgp.2.1
    rw [e, key_page f 0 ho hl] at h1
    omega

theorem beside_parityError (w : Work) (b : Nat) : besideKeys (w.ksParity b) = besideKeys w :=
  (beside_count (w.count Reg.KEY_PAR_ERR 1 0 b) (f := Reg.KEY_FALSE_SOFT) (by decide) 1).trans (beside_parity w 1 0 b)

theorem ksRewrite_banks (w : Work) (b i : Nat) : ∃ l, w.ksRewrite b i = { w with n.ks.banks := l } := by
  unfold Work.ksRewrite
  split
  · exact ⟨_, rfl⟩
  · split
    · exact ⟨_, rfl⟩
    · exact ⟨_, rfl⟩

/-- A view with other banks. -/
def OtherBanks (w v : Work) : Prop := besideKeys v = besideKeys w ∧ ∃ l, v.n = { w.n with ks.banks := l }

theorem OtherBanks.refl (w : Work) : OtherBanks w w := ⟨rfl, _, rfl⟩

theorem OtherBanks.trans {a b c : Work} (h : OtherBanks a b) (g : OtherBanks b c) : OtherBanks a c := by
  obtain ⟨h1, l, h2⟩ := h
  obtain ⟨g1, m, g2⟩ := g
  refine ⟨g1.trans h1, m, ?_⟩
  rw [g2, h2]

theorem otherBanks_count (w : Work) {f : Fld} (hf : f ∈ keyCounters) : OtherBanks w (w.count f) := ⟨beside_count w hf 1, _, rfl⟩

theorem otherBanks_parity (w : Work) (b : Nat) : OtherBanks w (w.ksParity b) := ⟨beside_parityError w b, _, rfl⟩

theorem otherBanks_rewrite (w : Work) (b i : Nat) : OtherBanks w (w.ksRewrite b i) := by
  obtain ⟨l, h⟩ := ksRewrite_banks w b i
  rw [h]
  exact ⟨rfl, l, rfl⟩

/-- A search of the Keystone changes its banks and its counters only. -/
theorem ksLookup_banks (w : Work) (t : Nat) (k : List Nat) (a : Nat → Bool) : OtherBanks w (w.ksLookup t k a).2 := by
  have hs := otherBanks_count w (f := Reg.KEY_SEARCHES) (by decide)
  have hsettle : ∀ (v : Work) (x : KsHit), OtherBanks v (if a x.result then (some x.result, v.count Reg.KEY_HITS) else (none, v) : Option Nat × Work).2 := fun v x => by
    split
    · exact otherBanks_count v (by decide)
    · exact OtherBanks.refl v
  unfold Work.ksLookup
  extract_lets settle u
  cases hq : u.ksSearch t 0 k none with
  | none => exact hs
  | some x =>
    dsimp only
    by_cases hx : x.parityOk = true
    · rw [if_pos hx]
      exact hs.trans (hsettle u x)
    · rw [if_neg hx]
      have hv : OtherBanks w (((u.ksParity x.bank).ksRewrite x.bank x.idx).count Reg.KEY_SEARCHES) :=
        hs.trans ((otherBanks_parity u x.bank).trans ((otherBanks_rewrite _ _ _).trans (otherBanks_count _ (by decide))))
      cases hy : (((u.ksParity x.bank).ksRewrite x.bank x.idx).count Reg.KEY_SEARCHES).ksSearch t 0 k none with
      | none => exact hv
      | some y =>
        dsimp only
        by_cases hp : y.parityOk = true
        · rw [if_pos hp]
          exact hv.trans (hsettle _ y)
        · rw [if_neg hp]
          exact hv.trans (otherBanks_parity _ _)

/-! ## Packets off the receive buffer -/

/-- A view with other links and messages sent. -/
def relinked (w : Work) (l : Machine.Links) (o : List Out) : Work := { w with n.lk := l, n.out := o }

theorem freeRx_relinked (w : Work) (p h : Nat) (x : Bytes) : ∃ l o, w.freeRx p h x = relinked w l o := by
  unfold Work.freeRx
  split
  · dsimp only
    split
    · exact ⟨_, _, rfl⟩
    · exact ⟨_, w.n.out, rfl⟩
  · exact ⟨w.n.lk, w.n.out, rfl⟩

theorem ksSearch_relinked (w : Work) (l o t p k c) : (relinked w l o).ksSearch t p k c = w.ksSearch t p k c := rfl

theorem count_relinked (w : Work) (l o f x i j) : (relinked w l o).count f x i j = relinked (w.count f x i j) l o := rfl

theorem ksParity_relinked (w : Work) (l o b) : (relinked w l o).ksParity b = relinked (w.ksParity b) l o := rfl

theorem ksRewrite_relinked (w : Work) (l o b i) : (relinked w l o).ksRewrite b i = relinked (w.ksRewrite b i) l o := by
  have h1 : lookupN i ((relinked w l o).ksBank b).entries = lookupN i (w.ksBank b).entries := rfl
  have h2 : (relinked w l o).ksRecord b i = w.ksRecord b i := rfl
  unfold Work.ksRewrite
  rw [h1, h2]
  cases lookupN i (w.ksBank b).entries with
  | none => rfl
  | some e =>
    cases w.ksRecord b i with
    | none => rfl
    | some r => rfl

/-- A search does not look at the links. -/
theorem ksLookup_relinked (w : Work) (l o t k a) : (relinked w l o).ksLookup t k a = ((w.ksLookup t k a).1, relinked (w.ksLookup t k a).2 l o) := by
  have hsettle : ∀ (v : Work) (x : KsHit), (if a x.result then (some x.result, (relinked v l o).count Reg.KEY_HITS) else (none, relinked v l o) : Option Nat × Work) =
      ((if a x.result then (some x.result, v.count Reg.KEY_HITS) else (none, v) : Option Nat × Work).1,
       relinked (if a x.result then (some x.result, v.count Reg.KEY_HITS) else (none, v) : Option Nat × Work).2 l o) := fun v x => by
    split
    · rfl
    · rfl
  unfold Work.ksLookup
  dsimp only
  rw [count_relinked, ksSearch_relinked]
  cases (w.count Reg.KEY_SEARCHES).ksSearch t 0 k none with
  | none => rfl
  | some x =>
    dsimp only
    by_cases hx : x.parityOk = true
    · rw [if_pos hx, if_pos hx]
      exact hsettle _ x
    · rw [if_neg hx, if_neg hx, ksParity_relinked, ksRewrite_relinked, count_relinked, ksSearch_relinked]
      cases ((((w.count Reg.KEY_SEARCHES).ksParity x.bank).ksRewrite x.bank x.idx).count Reg.KEY_SEARCHES).ksSearch t 0 k none with
      | none => rfl
      | some y =>
        dsimp only
        by_cases hp : y.parityOk = true
        · rw [if_pos hp, if_pos hp]
          exact hsettle _ y
        · rw [if_neg hp, if_neg hp]
          rfl

/-! ## A packet at the node -/

/-- The search for a packet's connection (R134). -/
def connSearch (w : Work) (id : Nat) : Option Nat × Work :=
  w.ksLookup tblConn [id] fun slot => match w.connOf id with
    | some c => c.hot && c.slot = slot
    | none => false

/-- A packet for this node. -/
def packetHere (w : Work) (port half : Nat) (pkt : Bytes) (id : Nat) : Work :=
  match w.connOf id with
  | none => (connSearch w id).2.count Reg.FAB_NO_CONN
  | some c => if c.hot ∧ (connSearch w id).1.isSome ∧ !c.fetching then (connSearch w id).2.takePacket id pkt else (connSearch w id).2.holdPacket id port half c pkt

/-- A packet taken from the receive buffer. -/
def packetIn (w : Work) (port half cls : Nat) (pkt : Bytes) : Work :=
  if !headerOk pkt then w.count Reg.FAB_HDR_BAD
  else if (PktHead.read pkt).dstNode ≠ w.nodeId then w.transit port cls pkt
  else packetHere w port half pkt (PktHead.read pkt).dst

theorem packet_run {s : State} (port half : Nat) (pkt : Bytes) (ha : s.alive = true) (hf : rd s Reg.FAB_EN = 1) :
    ∃ l o cls, exec (.packetReceived port half pkt) s = .next (s.close (packetIn (relinked s.view l o) port half cls pkt)) := by
  obtain ⟨l, o, he⟩ := freeRx_relinked s.view port half pkt
  have hflag : (relinked s.view l o).flag Reg.FAB_EN = true := (flag_eq hf).trans (by decide)
  rw [exec_packet, execPacketReceived, run_alive _ ha]
  dsimp only
  rw [he, if_neg (by rw [hflag]; decide)]
  exact ⟨l, o, _, rfl⟩

/-- A view of the node whose links, messages sent, Keystone banks and their counters may differ. -/
def Same (s : State) (u : Work) : Prop := besideKeys u = besideKeys s.view ∧ ∃ b l o, u.n = { s.node with ks := { s.node.ks with banks := b }, lk := l, out := o }

theorem connOf_relinked (w : Work) (l o id) : (relinked w l o).connOf id = w.connOf id := rfl

theorem connSearch_same (s : State) (l : Machine.Links) (o : List Out) (id : Nat) : Same s (connSearch (relinked s.view l o) id).2 := by
  unfold connSearch
  rw [ksLookup_relinked]
  obtain ⟨h1, b, h2⟩ := ksLookup_banks s.view tblConn [id] fun slot => match (relinked s.view l o).connOf id with
    | some c => c.hot && c.slot = slot
    | none => false
  generalize (s.view.ksLookup tblConn [id] _).2 = v at *
  refine ⟨h1, b, l, o, ?_⟩
  unfold relinked
  dsimp only
  rw [h2]
  rfl

theorem connSearch_found {s : State} (l : Machine.Links) (o : List Out) {id : Nat} {c : Conn} (hc : s.view.connOf id = some c) :
    ((connSearch (relinked s.view l o) id).1.isSome = true) ↔ ConnFound s id c := by
  unfold connSearch
  rw [ksLookup_relinked, connOf_relinked, hc]

section
variable {s : State} {u : Work} (h : Same s u)
include h

theorem Same.tp : u.n.tp = s.node.tp := by
  obtain ⟨-, b, l, o, hn⟩ := h
  rw [hn]

theorem Same.rest : u.n.se = s.node.se ∧ u.n.pg = s.node.pg ∧ u.n.tk = s.node.tk := by
  obtain ⟨-, b, l, o, hn⟩ := h
  rw [hn]
  exact ⟨rfl, rfl, rfl⟩

theorem Same.get {f : Fld} {i j : Nat} (hf : Beside (f.key i j)) : u.get f i j = rd s f i j := beside_get h.1 hf

/-- A counter of the fabric counted last. -/
theorem Same.counted (hc : Canonical s) {f : Fld} (hf : f.off < 4096 ∧ f.lo < 32 ∧ f.blk.page ≠ 0x27 ∧ ¬ (f.off = 0x118 ∧ f.lo = 24)) {w : Work}
    (hw : w.rw = (u.count f).rw) : Counted s (s.close w) f := by
  have hs : Shows w f (min (u.get f + 1) (2 ^ f.width - 1)) 0 0 := by
    have h1 := shows_count u f 1 0 0
    unfold Shows at h1 ⊢
    rw [hw]
    exact h1
  rw [h.get (beside_key hf)] at hs
  exact hs.rd hc.1

end

/-! ## Bad headers, transit and packets of no connection -/

theorem relinked_same (s : State) (l o) : Same s (relinked s.view l o) := ⟨rfl, s.node.ks.banks, l, o, rfl⟩

theorem enqueue_txQueue (w : Work) (o : Option Nat) (cls : Nat) (x : Bytes) (a : Option Nat) :
    ∃ k, (w.enqueue o cls x a).txQueue k = w.txQueue k ++ [{ cls := cls, bytes := x, arrived := a }] := by
  refine ⟨o.getD limbo, ?_⟩
  unfold Work.enqueue Work.txQueue
  dsimp only
  rw [lookupN_insertN]
  rfl

theorem transit_expires (w : Work) (port cls : Nat) (pkt : Bytes) (h : (PktHead.read pkt).hops = 0) : w.transit port cls pkt = w.count Reg.FAB_HOP_EXPIRED := by
  unfold Work.transit
  exact if_pos h

theorem transit_goes (w : Work) (port cls : Nat) (pkt : Bytes) (h : (PktHead.read pkt).hops ≠ 0) :
    (∃ k, (w.transit port cls pkt).txQueue k = w.txQueue k ++ [{ cls := cls, bytes := pkt.set 2 (BitVec.ofNat 8 (beAt pkt 2 1 - 1)), arrived := some port }]) ∧
    (w.transit port cls pkt).rw = (w.count Reg.FAB_TRANSIT).rw ∧ (w.transit port cls pkt).n.tp = w.n.tp ∧
    ((w.transit port cls pkt).wr = w.wr ∧ (w.transit port cls pkt).wiped = w.wiped) := by
  have he : ∃ k, w.transit port cls pkt = (w.count Reg.FAB_TRANSIT).enqueue k cls (pkt.set 2 (BitVec.ofNat 8 (beAt pkt 2 1 - 1))) (some port) := by
    unfold Work.transit
    exact ⟨_, if_neg h⟩
  obtain ⟨k, he⟩ := he
  rw [he]
  exact ⟨enqueue_txQueue (w.count Reg.FAB_TRANSIT) k cls _ _, rfl, rfl, rfl, rfl⟩

theorem header_bad (s : State) (port half : Nat) (pkt : Bytes) (ha : s.alive = true) (hc : Canonical s) (hf : rd s Reg.FAB_EN = 1)
    (hh : headerOk pkt = false) : ∃ t, exec (.packetReceived port half pkt) s = .next t ∧
      Counted s t Reg.FAB_HDR_BAD ∧ t.node.tp = s.node.tp ∧ t.node.sc = s.node.sc ∧ t.mem = s.mem := by
  obtain ⟨l, o, cls, hx⟩ := packet_run port half pkt ha hf
  unfold packetIn at hx
  rw [hh, if_pos (show (!false) = true from rfl)] at hx
  exact ⟨_, hx, (relinked_same s l o).counted hc (by decide) rfl, rfl, rfl, close_mem_quiet s _ rfl rfl⟩

theorem packet_transit (s : State) (port half : Nat) (pkt : Bytes) (ha : s.alive = true) (hc : Canonical s) (hf : rd s Reg.FAB_EN = 1)
    (hh : headerOk pkt = true ∧ (PktHead.read pkt).dstNode ≠ s.view.nodeId) : ∃ t, exec (.packetReceived port half pkt) s = .next t ∧
      ((PktHead.read pkt).hops = 0 → Counted s t Reg.FAB_HOP_EXPIRED ∧ t.node.sc = s.node.sc) ∧
      ((PktHead.read pkt).hops ≠ 0 → Counted s t Reg.FAB_TRANSIT ∧
        ∃ k cls : Nat, t.view.txQueue k = s.view.txQueue k ++ [{ cls := cls, bytes := pkt.set 2 (BitVec.ofNat 8 (beAt pkt 2 1 - 1)), arrived := some port }]) ∧
      t.node.tp = s.node.tp ∧ t.mem = s.mem := by
  obtain ⟨hok, hdst⟩ := hh
  obtain ⟨l, o, cls, hx⟩ := packet_run port half pkt ha hf
  have hs := relinked_same s l o
  have hid : (relinked s.view l o).nodeId = s.view.nodeId := rfl
  unfold packetIn at hx
  rw [hok, if_neg (by decide), hid, if_pos hdst] at hx
  by_cases h0 : (PktHead.read pkt).hops = 0
  · rw [transit_expires (relinked s.view l o) port cls pkt h0] at hx
    exact ⟨_, hx, fun _ => ⟨hs.counted hc (by decide) rfl, rfl⟩, fun hn => absurd h0 hn, rfl, close_mem_quiet s _ rfl rfl⟩
  · obtain ⟨⟨k, hk⟩, hr, htp, hw⟩ := transit_goes (relinked s.view l o) port cls pkt h0
    exact ⟨_, hx, fun h => absurd h h0, fun _ => ⟨hs.counted hc (by decide) hr, k, cls, hk⟩, htp, close_mem_quiet s _ hw.1 hw.2⟩

theorem packet_unconnected (s : State) (port half : Nat) (pkt : Bytes) (ha : s.alive = true) (hc : Canonical s) (hf : rd s Reg.FAB_EN = 1)
    (hh : headerOk pkt = true ∧ (PktHead.read pkt).dstNode = s.view.nodeId) (hn : s.view.connOf (PktHead.read pkt).dst = none) :
    ∃ t, exec (.packetReceived port half pkt) s = .next t ∧ Counted s t Reg.FAB_NO_CONN ∧ t.node.tp = s.node.tp := by
  obtain ⟨l, o, cls, hx⟩ := packet_run port half pkt ha hf
  have hid : (relinked s.view l o).nodeId = s.view.nodeId := rfl
  have hs := connSearch_same s l o (PktHead.read pkt).dst
  unfold packetIn at hx
  rw [hh.1, if_neg (by decide), hid, if_neg (not_not.2 hh.2)] at hx
  unfold packetHere at hx
  rw [connOf_relinked, hn] at hx
  exact ⟨_, hx, hs.counted hc (by decide) rfl, hs.tp⟩

/-! ## Packets for this node -/

section
variable {s : State} (port half : Nat) {pkt : Bytes} {h : PktHead} {c : Conn} (ha : s.alive = true) (hf : rd s Reg.FAB_EN = 1)
  (hh : h = PktHead.read pkt ∧ headerOk pkt = true ∧ h.dstNode = s.view.nodeId) (hc : s.view.connOf h.dst = some c)
include ha hf hh hc

/-- A packet of a connection whose context is not at hand waits for it; one of a connection that is found is taken. -/
theorem here_run : ∃ u, Same s u ∧
    ((c.hot = false ∨ c.fetching = true ∨ ¬ ConnFound s h.dst c) → exec (.packetReceived port half pkt) s = .next (s.close (u.holdPacket h.dst port half c pkt))) ∧
    (c.hot = true → c.fetching = false → ConnFound s h.dst c → exec (.packetReceived port half pkt) s = .next (s.close (u.takePacket h.dst pkt))) := by
  obtain ⟨rfl, hok, hdst⟩ := hh
  obtain ⟨l, o, cls, hx⟩ := packet_run port half pkt ha hf
  have hid : (relinked s.view l o).nodeId = s.view.nodeId := rfl
  have hfound := connSearch_found l o hc
  unfold packetIn at hx
  rw [hok, if_neg (by decide), hid, if_neg (not_not.2 hdst)] at hx
  unfold packetHere at hx
  rw [connOf_relinked, hc] at hx
  dsimp only at hx
  refine ⟨_, connSearch_same s l o (PktHead.read pkt).dst, fun hn => ?_, fun h1 h2 h3 => ?_⟩
  · rw [if_neg] at hx
    · exact hx
    · rintro ⟨h1, h2, h3⟩
      rcases hn with hn | hn | hn
      · rw [hn] at h1
        exact absurd h1 (by decide)
      · rw [hn] at h3
        exact absurd h3 (by decide)
      · exact hn (hfound.1 h2)
  · rw [if_pos ⟨h1, hfound.2 h3, by rw [h2]; rfl⟩] at hx
    exact hx

theorem packet_held (hn : c.hot = false ∨ c.fetching = true ∨ ¬ ConnFound s h.dst c) (hp : c.heldPkts.length < rd s Reg.CNX_PER_CONN)
    (ht : s.node.tp.conns.foldl (fun n e => n + e.2.heldPkts.length) 0 < rd s Reg.CNX_TOTAL) : ∃ t, exec (.packetReceived port half pkt) s = .next t ∧
      lookupN h.dst t.node.tp.conns = some { c with fetching := true, heldPkts := c.heldPkts ++ [(port, half, pkt)] } ∧
      t.node.tp.inMsgs = s.node.tp.inMsgs := by
  obtain ⟨u, hu, hhold, -⟩ := here_run port half ha hf hh hc
  have hx := hhold hn
  unfold Work.holdPacket at hx
  dsimp only at hx
  rw [hu.tp, hu.get (beside_key (by decide)), hu.get (beside_key (by decide)), if_neg (by omega)] at hx
  have hm : u.n.tp.inMsgs = s.node.tp.inMsgs := congrArg Transport.inMsgs hu.tp
  refine ⟨_, hx, ?_, hm⟩
  have hcon : lookupN h.dst s.node.tp.conns = some c := hc
  have := lookupN_modifyN h.dst (fun c : Conn => { c with fetching := true, heldPkts := c.heldPkts ++ [(port, half, pkt)] }) u.n.tp.conns
  rw [hu.tp, hcon] at this
  rw [← hu.tp] at this
  exact this

end

/-! ## Packets that are taken -/

/-- A packet that has passed its checks, counted. -/
def passedPkt (w : Work) (c : Conn) (len : Nat) : Work := (w.count Reg.FAB_RX_PKTS).meter c.part 12 len

/-- A packet opened and taken up, or counted. -/
def unsealed (r : Except Work Bytes) (act : Bytes → Work) : Work :=
  match r with
  | .error w => w
  | .ok p => act p

theorem takePacket_ack {w : Work} {id : Nat} {pkt : Bytes} {c : Conn} (hc : w.connOf id = some c)
    (hp : (PktHead.read pkt).srcNode = c.peerNode ∧ c.state ≠ .broken) (ho : (PktHead.read pkt).op = 0xF)
    (he : c.rxAckSeq ≤ extend24 c.rxAckSeq (PktHead.read pkt).psn + 2 ^ 23) :
    w.takePacket id pkt = unsealed ((w.useCtx id).unseal c pkt (extend24 c.rxAckSeq (PktHead.read pkt).psn)) fun _ =>
      (passedPkt (w.useCtx id) c pkt.length).modConn id fun x => { x with rxAckSeq := max x.rxAckSeq (extend24 c.rxAckSeq (PktHead.read pkt).psn) } := by
  unfold Work.takePacket
  dsimp only
  rw [hc]
  dsimp only
  rw [if_neg (by rw [hp.1]; simp [hp.2]), if_pos ho, if_neg (Nat.not_lt.2 he)]
  rfl

theorem takePacket_data {w : Work} {id base : Nat} {pkt : Bytes} {c : Conn} (hc : w.connOf id = some c)
    (hp : (PktHead.read pkt).srcNode = c.peerNode ∧ c.state ≠ .broken) (ho : (PktHead.read pkt).op ≠ 0xF)
    (hb : base = max c.rxBase (extend24 c.rxBase (PktHead.read pkt).low))
    (he : base ≤ extend24 c.rxBase (PktHead.read pkt).psn ∧ extend24 c.rxBase (PktHead.read pkt).psn < base + 4096 ∧
      extend24 c.rxBase (PktHead.read pkt).psn ∉ c.rxSeen) :
    w.takePacket id pkt = unsealed ((w.useCtx id).unseal c pkt (extend24 c.rxBase (PktHead.read pkt).psn)) fun p =>
      (passedPkt (w.useCtx id) c pkt.length).message id c (PktHead.read pkt) p pkt.length fun v =>
        v.recordPsn id base (extend24 c.rxBase (PktHead.read pkt).psn) (PktHead.read pkt).ackReq := by
  obtain ⟨h1, h2, h3⟩ := he
  have hdup : ¬ (extend24 c.rxBase (PktHead.read pkt).psn < base ∨ c.rxSeen.contains (extend24 c.rxBase (PktHead.read pkt).psn) = true) := by
    rintro (h | h)
    · omega
    · exact h3 (List.contains_iff_mem.1 h)
  subst hb
  unfold Work.takePacket
  dsimp only
  rw [hc]
  dsimp only
  rw [if_neg (by rw [hp.1]; simp [hp.2]), if_neg ho, if_neg hdup, if_neg (by omega)]
  rfl

section
variable {w : Work} {c : Conn} {pkt : Bytes} {ext : Nat} (hk : w.keysGone c.part = false)
include hk

theorem unseal_open {k : BitVec 256} {p : Bytes} (hkey : keyOf c (PktHead.read pkt).epoch = some k) (ho : openPkt k pkt ext = some p) :
    w.unseal c pkt ext = .ok p := by
  unfold keyOf at hkey
  unfold Work.unseal
  dsimp only
  rw [hk, if_neg (by decide), hkey]
  dsimp only
  rw [ho]

theorem unseal_fails {k : BitVec 256} (hkey : keyOf c (PktHead.read pkt).epoch = some k) (ho : openPkt k pkt ext = none) :
    w.unseal c pkt ext = .error (w.count Reg.FAB_AUTH_FAIL) := by
  unfold keyOf at hkey
  unfold Work.unseal
  dsimp only
  rw [hk, if_neg (by decide), hkey]
  dsimp only
  rw [ho]

theorem unseal_unknown (hkey : keyOf c (PktHead.read pkt).epoch = none) : w.unseal c pkt ext = .error (w.count Reg.FAB_EPOCH_UNKNOWN) := by
  unfold keyOf at hkey
  unfold Work.unseal
  dsimp only
  rw [hk, if_neg (by decide), hkey]

end

/-! ### A connection that is used -/

theorem keysGone_congr {w v : Work} (h : v.n.se = w.n.se) (p : Nat) : v.keysGone p = w.keysGone p := by
  unfold Work.keysGone Work.secPart
  rw [h]

theorem useCtx_conn {w : Work} {id : Nat} {c : Conn} (hc : w.connOf id = some c) :
    lookupN id (w.useCtx id).n.tp.conns = some { c with lastUsed := w.n.tp.useSeq + 1 } := by
  have h := lookupN_modifyN id (fun c : Conn => { c with lastUsed := w.n.tp.useSeq + 1 }) w.n.tp.conns
  have hc' : lookupN id w.n.tp.conns = some c := hc
  rw [hc'] at h
  exact h

theorem useCtx_rest (w : Work) (id : Nat) : (w.useCtx id).rw = w.rw ∧ (w.useCtx id).regs = w.regs ∧ (w.useCtx id).wiped = w.wiped ∧ (w.useCtx id).n.se = w.n.se ∧
    (w.useCtx id).n.pg = w.n.pg ∧ (w.useCtx id).n.tk = w.n.tk ∧ (w.useCtx id).n.tp.inMsgs = w.n.tp.inMsgs ∧ (w.useCtx id).n.tp.outMsgs = w.n.tp.outMsgs :=
  ⟨rfl, rfl, rfl, rfl, rfl, rfl, rfl, rfl⟩

theorem meter_rest (w : Work) (p k x : Nat) : (w.meter p k x).rw = w.rw ∧ (w.meter p k x).regs = w.regs ∧ (w.meter p k x).wiped = w.wiped ∧ (w.meter p k x).n.se = w.n.se ∧
    (w.meter p k x).n.pg = w.n.pg ∧ (w.meter p k x).n.tk = w.n.tk ∧ (w.meter p k x).n.tp = w.n.tp := by
  unfold Work.meter
  split
  · exact ⟨rfl, rfl, rfl, rfl, rfl, rfl, rfl⟩
  · exact ⟨rfl, rfl, rfl, rfl, rfl, rfl, rfl⟩

/-- A counter of the fabric counted on a view of the node whose registers nothing else has written. -/
theorem Same.counted_use {s : State} {u : Work} (h : Same s u) (hc : Canonical s) (id : Nat) {f : Fld}
    (hf : f.off < 4096 ∧ f.lo < 32 ∧ f.blk.page ≠ 0x27 ∧ ¬ (f.off = 0x118 ∧ f.lo = 24)) {w : Work} (hw : w.rw = ((u.useCtx id).count f).rw) :
    Counted s (s.close w) f := h.counted hc hf (hw.trans rfl)

section
variable {s : State} (port half : Nat) {pkt : Bytes} {h : PktHead} {c : Conn} (ha : s.alive = true) (hcan : Canonical s) (hf : rd s Reg.FAB_EN = 1)
  (hp : PacketFor s pkt h c) (hk : s.view.keysGone c.part = false)
include ha hcan hf hp hk

theorem packet_ack {ext : Nat} {k : BitVec 256} (ho : h.op = 0xF) (hkey : keyOf c h.epoch = some k) (he : ext = extend24 c.rxAckSeq h.psn ∧ c.rxAckSeq ≤ ext + 2 ^ 23) :
    ∃ t, exec (.packetReceived port half pkt) s = .next t ∧
      ((openPkt k pkt ext).isSome → Counted s t Reg.FAB_RX_PKTS ∧
        lookupN h.dst t.node.tp.conns = some { c with rxAckSeq := max c.rxAckSeq ext, lastUsed := s.node.tp.useSeq + 1 }) ∧
      (openPkt k pkt ext = none → Counted s t Reg.FAB_AUTH_FAIL ∧ lookupN h.dst t.node.tp.conns = some { c with lastUsed := s.node.tp.useSeq + 1 }) := by
  obtain ⟨rfl, hok, hdst, hc, hhot, hfe, hfound, hsrc, hst⟩ := hp
  obtain ⟨rfl, hle⟩ := he
  obtain ⟨u, hu, -, htake⟩ := here_run port half ha hf ⟨rfl, hok, hdst⟩ hc
  have hx := htake hhot hfe hfound
  have huc : u.connOf (PktHead.read pkt).dst = some c := by
    unfold Work.connOf
    rw [hu.tp]
    exact hc
  have hgone : (u.useCtx (PktHead.read pkt).dst).keysGone c.part = false := (keysGone_congr (w := s.view) hu.rest.1 c.part).trans hk
  have hconn := useCtx_conn huc
  rw [hu.tp] at hconn
  rw [takePacket_ack huc ⟨hsrc, hst⟩ ho hle] at hx
  refine ⟨_, hx, fun hs => ?_, fun hn => ?_⟩
  · obtain ⟨p, hp⟩ := Option.isSome_iff_exists.1 hs
    rw [unseal_open hgone hkey hp]
    obtain ⟨m1, -, -, -, -, -, m7⟩ := meter_rest ((u.useCtx (PktHead.read pkt).dst).count Reg.FAB_RX_PKTS) c.part 12 pkt.length
    refine ⟨hu.counted_use hcan (PktHead.read pkt).dst (by decide) m1, ?_⟩
    have hm := lookupN_modifyN (PktHead.read pkt).dst (fun x : Conn => { x with rxAckSeq := max x.rxAckSeq (extend24 c.rxAckSeq (PktHead.read pkt).psn) })
      (u.useCtx (PktHead.read pkt).dst).n.tp.conns
    rw [hconn] at hm
    have hcs : (passedPkt (u.useCtx (PktHead.read pkt).dst) c pkt.length).n.tp.conns = (u.useCtx (PktHead.read pkt).dst).n.tp.conns := congrArg Transport.conns m7
    rw [← hcs] at hm
    exact hm
  · rw [unseal_fails hgone hkey hn]
    exact ⟨hu.counted_use hcan (PktHead.read pkt).dst (by decide) rfl, hconn⟩

theorem packet_unauthentic {ext base : Nat} {key : Option (BitVec 256)} (ho : h.op ≠ 0xF)
    (he : ext = extend24 c.rxBase h.psn ∧ base = max c.rxBase (extend24 c.rxBase h.low)) (hw : base ≤ ext ∧ ext < base + 4096 ∧ ext ∉ c.rxSeen)
    (hkey : key = keyOf c h.epoch) (hn : (key.bind fun k => openPkt k pkt ext) = none) : ∃ t, exec (.packetReceived port half pkt) s = .next t ∧
      lookupN h.dst t.node.tp.conns = some { c with lastUsed := s.node.tp.useSeq + 1 } ∧ t.node.tp.inMsgs = s.node.tp.inMsgs ∧
      (key = none → Counted s t Reg.FAB_EPOCH_UNKNOWN) ∧ (key ≠ none → Counted s t Reg.FAB_AUTH_FAIL) := by
  obtain ⟨rfl, hok, hdst, hc, hhot, hfe, hfound, hsrc, hst⟩ := hp
  obtain ⟨rfl, hb⟩ := he
  obtain ⟨u, hu, -, htake⟩ := here_run port half ha hf ⟨rfl, hok, hdst⟩ hc
  have hx := htake hhot hfe hfound
  have huc : u.connOf (PktHead.read pkt).dst = some c := by
    unfold Work.connOf
    rw [hu.tp]
    exact hc
  have hgone : (u.useCtx (PktHead.read pkt).dst).keysGone c.part = false := (keysGone_congr (w := s.view) hu.rest.1 c.part).trans hk
  have hconn := useCtx_conn huc
  have hmsgs : (u.useCtx (PktHead.read pkt).dst).n.tp.inMsgs = s.node.tp.inMsgs := by
    obtain ⟨-, -, -, -, -, -, hm, -⟩ := useCtx_rest u (PktHead.read pkt).dst
    exact hm.trans (congrArg Transport.inMsgs hu.tp)
  rw [hu.tp] at hconn
  rw [takePacket_data huc ⟨hsrc, hst⟩ ho hb hw] at hx
  cases key with
  | none =>
    rw [unseal_unknown hgone hkey.symm, unsealed] at hx
    refine ⟨_, hx, ?_, ?_, fun _ => hu.counted_use hcan (PktHead.read pkt).dst (by decide) rfl, fun h => absurd rfl h⟩
    · rw [close_node]
      exact hconn
    · rw [close_node]
      exact hmsgs
  | some k =>
    rw [Option.bind_some] at hn
    rw [unseal_fails hgone hkey.symm hn, unsealed] at hx
    have hcount : Counted s (s.close ((u.useCtx (PktHead.read pkt).dst).count Reg.FAB_AUTH_FAIL)) Reg.FAB_AUTH_FAIL :=
      hu.counted_use hcan (PktHead.read pkt).dst (by decide) rfl
    refine ⟨_, hx, ?_, ?_, fun h => absurd h (by simp), fun _ => hcount⟩
    · rw [close_node]
      exact hconn
    · rw [close_node]
      exact hmsgs

end

/-! ## A whole message in one packet -/

/-- A register that neither a search nor the count of a packet writes, by its place on its page. -/
theorem beside_apart {f : Fld} (h : ∀ g ∈ Reg.KEY_PAR_ERR :: keyCounters, Apart g f = true) (i j : Nat) : Beside (f.key i j) :=
  ⟨fun a b => key_ne_of_apart (h _ (by simp)) a b i j, fun g hg => key_ne_of_apart (h g (List.mem_cons_of_mem _ hg)) 0 0 i j⟩

/-- A register that a packet's search and count leave. -/
def Passed (k : Nat) : Prop := Beside k ∧ Reg.FAB_RX_PKTS.key 0 0 ≠ k

theorem passed_apart {f : Fld} (h : ∀ g ∈ Reg.FAB_RX_PKTS :: Reg.KEY_PAR_ERR :: keyCounters, Apart g f = true) (i j : Nat) : Passed (f.key i j) :=
  ⟨beside_apart (fun g hg => h g (List.mem_cons_of_mem _ hg)) i j, key_ne_of_apart (h _ (by simp)) 0 0 i j⟩

/-- The record of a peer's node number, of two bytes, stands on the mirror unit's own page. -/
theorem passed_peer {f : Fld} (h : f.off < 4096 ∧ f.lo < 32 ∧ f.blk.page = 0x74 ∧ f.off ≠ 0x118) {n : Nat} (hn : n < 65536) : Passed (f.key 0 n) := by
  obtain ⟨ho, hl, hp, hoff⟩ := h
  have hk : f.key 0 n = ((0x74 * 2 ^ 20 + n) * 2 ^ 12 + f.off) * 32 + f.lo := by
    unfold Fld.key
    rw [hp]
  rw [hk]
  refine ⟨⟨fun i j e => ?_, fun g hg e => ?_⟩, fun e => ?_⟩
  · have h1 := key_off Reg.KEY_PAR_ERR i j (by decide) (by decide)
    have h2 : Reg.KEY_PAR_ERR.off = 0x118 := rfl
    rw [e] at h1
    omega
  · obtain ⟨g1, g2, g3⟩ := keyCounters_page g hg
    have h1 : g.key 0 0 = ((0x27 * 2 ^ 20 + 0) * 2 ^ 12 + g.off) * 32 + g.lo := by
      unfold Fld.key
      rw [g3]
    omega
  · have h1 : Reg.FAB_RX_PKTS.key 0 0 = ((Reg.FAB_RX_PKTS.blk.page * 2 ^ 20 + 0) * 2 ^ 12 + 0x144) * 32 + 0 := rfl
    have h2 : Reg.FAB_RX_PKTS.blk.page ≠ 0x74 := by decide
    have h3 : Reg.FAB_RX_PKTS.blk.page < 0x400 := by decide
    omega

theorem passed_get {s : State} {u : Work} (hu : Same s u) (id : Nat) (c : Conn) (len : Nat) {f : Fld} {i j : Nat} (hf : Passed (f.key i j)) :
    (passedPkt (u.useCtx id) c len).get f i j = rd s f i j := by
  obtain ⟨hb, hr⟩ := hf
  obtain ⟨m1, m2, -⟩ := meter_rest ((u.useCtx id).count Reg.FAB_RX_PKTS) c.part 12 len
  have hsame : SameAt (f.key i j) u (passedPkt (u.useCtx id) c len) := by
    have h1 : SameAt (f.key i j) u (u.count Reg.FAB_RX_PKTS) := sameAt_set u Reg.FAB_RX_PKTS _ 0 0 hr
    unfold SameAt passedPkt at *
    rw [m1]
    exact h1
  exact (hsame.get (m2.trans (count_regs _ _ _ _ _))).trans (hu.get hb)

/-- The message of one packet. -/
def single (id : Nat) (h : PktHead) (p : Bytes) : InMsg :=
  { conn := id, msn := h.msn, op := h.op, parts := [(0, p)], count := some 1, target := h.target, cmpr := bitOf h.flags 3, complete := false
    behindFence := false, tick := 0, acted := false }

theorem message_single {w : Work} {id : Nat} {c : Conn} {h : PktHead} {p : Bytes} (len : Nat) (rcd : Work → Work) (hop : usesExtent h.op = true)
    (hm : c.msnIsDone h.msn = false ∧ c.msnAhead h.msn < 4096) (hi : w.inMsg id h.msn = none) (hpol : w.flag Reg.POL_EN = false)
    (hs : w.staleSender c = false) (hl : w.live c.part = true) (ho : w.opsInUse < 16384) (hr : longest h.op ≤ w.rxFree) (hx : h.index = 0 ∧ h.last = true) :
    w.message id c h p len rcd = (rcd w).arrived c (single id h p) := by
  obtain ⟨hm1, hm2⟩ := hm
  obtain ⟨hx1, hx2⟩ := hx
  have hE : h.op ≠ 0xE := fun e => by
    rw [e] at hop
    exact absurd hop (by decide)
  have hcol : ∀ i, w.colour i len = (.green, w) := fun i => by
    unfold Work.colour
    exact if_pos (Or.inl (by rw [hpol]; rfl))
  unfold Work.message
  dsimp only
  rw [if_neg hE, if_neg (by rw [hm1]; decide), if_neg (by omega), hi]
  dsimp only
  rw [if_neg (by decide), hcol]
  dsimp only
  rw [if_neg (by decide), if_neg (by simp), if_neg (by rw [hs]; simp), if_neg (by rw [hl]; simp), if_neg (by simp; omega), if_neg (by simp; omega), if_neg (by rw [hop]; decide)]
  rw [hx1, hx2]
  rfl

/-- The message as it is kept once it is whole. -/
def keptMsg (w : Work) (c : Conn) (m : InMsg) : InMsg :=
  { m with complete := true, behindFence := m.op != 9 && w.fencedBelow m.conn c m.msn, tick := w.now }

theorem arrived_kept (w : Work) (c : Conn) {m : InMsg} (h : ¬ (m.op = 3 ∧ m.target % 256 ≠ 1)) :
    w.arrived c m = { w with n.tp.inMsgs := (w.n.tp.inMsgs.filter fun x => !(x.conn = m.conn && x.msn = m.msn)) ++ [keptMsg w c m] } := by
  unfold Work.arrived
  dsimp only
  exact if_neg fun ⟨h1, h2⟩ => h ⟨h1, by omega⟩

theorem fencedBelow_quiet {s : State} {w : Work} {id msn : Nat} (c : Conn) (hm : w.n.tp.inMsgs = s.node.tp.inMsgs) (hq : quietMsgs s id msn) :
    w.fencedBelow id c msn = false := by
  unfold Work.fencedBelow
  rw [hm, List.any_eq_false]
  intro m hin hall
  simp only [Bool.and_eq_true, decide_eq_true_eq, bne_iff_ne, List.isEmpty_iff] at hall
  obtain ⟨⟨⟨⟨⟨hid, h9⟩, hcomp⟩, hemp⟩, hne⟩, -⟩ := hall
  obtain ⟨h1, -, -⟩ := hq m hin fun h => hne h.2
  exact (h1 h9 hid).2 hcomp hemp

/-- What recording a packet number leaves of a connection. -/
def recorded (c : Conn) (base psn : Nat) (ackReq : Bool) : Conn :=
  let seen := (psn :: c.rxSeen).filter fun p => base ≤ p
  let nb := (List.range (seen.length + 1)).find? (fun k => !(seen.contains (base + k))) |>.map (base + ·) |>.getD base
  { c with rxBase := nb, rxSeen := seen.filter fun p => nb ≤ p, ackWanted := true, ackDue := c.ackDue || ackReq }

theorem recorded_seen (c : Conn) {base psn : Nat} (ackReq : Bool) (h : base ≤ psn) :
    (psn < (recorded c base psn ackReq).rxBase ∨ psn ∈ (recorded c base psn ackReq).rxSeen) ∧ (recorded c base psn ackReq).ackWanted = true := by
  refine ⟨(Nat.lt_or_ge psn (recorded c base psn ackReq).rxBase).imp_right fun hge => ?_, rfl⟩
  have hin : psn ∈ (psn :: c.rxSeen).filter fun p => decide (base ≤ p) := List.mem_filter.2 ⟨List.mem_cons_self .., by simpa using h⟩
  exact List.mem_filter.2 ⟨hin, decide_eq_true hge⟩

theorem recordPsn_tp (w : Work) (id base psn : Nat) (ackReq : Bool) :
    w.recordPsn id base psn ackReq = { w with n.tp.conns := modifyN id (fun c => recorded c base psn ackReq) w.n.tp.conns } := rfl

section
variable {s : State} {u : Work} (hu : Same s u) (id : Nat) (c : Conn) (len : Nat)
include hu

/-- What the checks of a message read, on the view of a packet that has passed. -/
theorem passed_reads : (passedPkt (u.useCtx id) c len).n.tp.inMsgs = s.node.tp.inMsgs ∧
    (passedPkt (u.useCtx id) c len).opsInUse = s.view.opsInUse ∧ (passedPkt (u.useCtx id) c len).rxFree = s.view.rxFree ∧
    (passedPkt (u.useCtx id) c len).live c.part = s.view.live c.part ∧ (passedPkt (u.useCtx id) c len).now = s.node.tk.now ∧
    (∀ f i j, Passed (Fld.key f i j) → (passedPkt (u.useCtx id) c len).get f i j = rd s f i j) ∧
    (passedPkt (u.useCtx id) c len).n.tp.conns = (u.useCtx id).n.tp.conns := by
  have hget := fun f i j (hf : Passed (Fld.key f i j)) => passed_get hu id c len hf
  obtain ⟨-, -, -, -, m5, m6, m7⟩ := meter_rest ((u.useCtx id).count Reg.FAB_RX_PKTS) c.part 12 len
  obtain ⟨-, -, -, -, -, -, r7, r8⟩ := useCtx_rest u id
  obtain ⟨-, hpg, htk⟩ := hu.rest
  have hin : (passedPkt (u.useCtx id) c len).n.tp.inMsgs = s.node.tp.inMsgs := (congrArg Transport.inMsgs m7).trans (r7.trans (congrArg Transport.inMsgs hu.tp))
  have hout : (passedPkt (u.useCtx id) c len).n.tp.outMsgs = s.node.tp.outMsgs := (congrArg Transport.outMsgs m7).trans (r8.trans (congrArg Transport.outMsgs hu.tp))
  have hst : (passedPkt (u.useCtx id) c len).nodeState = s.view.nodeState := hget Reg.GLB_NODE_STATE 0 0 (passed_apart (by decide) 0 0)
  have hpg' : (passedPkt (u.useCtx id) c len).n.pg = s.node.pg := m5.trans hpg
  refine ⟨hin, ?_, ?_, ?_, (congrArg TickBox.now m6).trans (congrArg TickBox.now htk), hget, congrArg Transport.conns m7⟩
  · unfold Work.opsInUse
    rw [hin, hout]
    rfl
  · unfold Work.rxFree Work.rxBytes
    rw [hin, hout, hpg', hst]
    rfl
  · unfold Work.live Work.partState
    rw [hget Reg.PP_STATE c.part 0 (passed_apart (by decide) c.part 0)]
    rfl

end

theorem beVal_from (bs : Bytes) (v : Nat) : bs.foldl (fun v b => v * 256 + b.toNat) v < (v + 1) * 256 ^ bs.length := by
  induction bs generalizing v with
  | nil => simp
  | cons b bs ih =>
    have h1 := ih (v * 256 + b.toNat)
    have h2 : v * 256 + b.toNat + 1 ≤ (v + 1) * 256 := by
      have := b.isLt
      omega
    rw [List.foldl_cons, List.length_cons, pow_succ']
    calc _ < (v * 256 + b.toNat + 1) * 256 ^ bs.length := h1
      _ ≤ (v + 1) * 256 * 256 ^ bs.length := Nat.mul_le_mul_right _ h2
      _ = _ := by ring

theorem beAt_lt (b : Bytes) (off n : Nat) : beAt b off n < 256 ^ n := by
  have h := beVal_from (sliceAt b off n) 0
  rw [Nat.zero_add, Nat.one_mul] at h
  exact h.trans_le (Nat.pow_le_pow_right (by decide) (List.length_take_le ..))

theorem srcNode_lt (pkt : Bytes) : (PktHead.read pkt).srcNode < 65536 := beAt_lt pkt 6 2

theorem inMsg_close (s : State) (w : Work) (id msn : Nat) :
    (s.close w).view.inMsg id msn = w.n.tp.inMsgs.find? fun m => m.conn = id && m.msn = msn := by
  show ((s.close w).node.tp.inMsgs.find? _) = _
  rw [close_node]

theorem find_replaced (l : List InMsg) {m : InMsg} {id msn : Nat} (hid : m.conn = id) (hmsn : m.msn = msn) :
    ((l.filter fun x => !(x.conn = id && x.msn = msn)) ++ [m]).find? (fun x => x.conn = id && x.msn = msn) = some m := by
  have hmiss : (l.filter fun x => !(x.conn = id && x.msn = msn)).find? (fun x => x.conn = id && x.msn = msn) = none :=
    List.find?_eq_none.2 fun x hx e => by
      have h1 := (List.mem_filter.1 hx).2
      rw [e] at h1
      exact absurd h1 (by decide)
  rw [List.find?_append, hmiss, Option.none_or, List.find?_cons_of_pos]
  simp [hid, hmsn]

theorem kept_single {w : Work} {c : Conn} {id : Nat} {h : PktHead} (p : Bytes) {now : Tick} (hn : w.now = now) (hf : w.fencedBelow id c h.msn = false) :
    keptMsg w c (single id h p) = { conn := id, msn := h.msn, op := h.op, parts := [(0, p)], count := some 1, target := h.target, cmpr := bitOf h.flags 3
                                    complete := true, behindFence := false, tick := now, acted := false } := by
  unfold keptMsg single
  dsimp only
  rw [hf, hn, Bool.and_false]

section
variable {s : State} (port half : Nat) {pkt : Bytes} {h : PktHead} {c : Conn} (ha : s.alive = true) (hcan : Canonical s) (hf : rd s Reg.FAB_EN = 1 ∧ rd s Reg.POL_EN = 0)
  (hp : PacketFor s pkt h c) (hk : s.view.keysGone c.part = false ∧ s.view.live c.part = true)
include ha hcan hf hp hk

theorem packet_whole {ext base : Nat} {k : BitVec 256} (ho : usesExtent h.op = true ∧ h.op ≠ 0xF ∧ ¬ (h.op = 3 ∧ h.target % 256 ≠ 1)) (hx : h.index = 0 ∧ h.last = true)
    (he : ext = extend24 c.rxBase h.psn ∧ base = max c.rxBase (extend24 c.rxBase h.low)) (hw : base ≤ ext ∧ ext < base + 4096 ∧ ext ∉ c.rxSeen)
    (hm : c.msnIsDone h.msn = false ∧ c.msnAhead h.msn < 4096) (hi : s.view.inMsg h.dst h.msn = none)
    (hmin : rd s Reg.MIR_FENCE_MIN 0 c.peerNode ≤ rd s Reg.MIR_PRESENTED 0 c.peerNode) (hroom : s.view.opsInUse < 16384 ∧ longest h.op ≤ s.view.rxFree)
    (hq : quietMsgs s h.dst h.msn) (hkey : keyOf c h.epoch = some k) : ∃ t, exec (.packetReceived port half pkt) s = .next t ∧
      (∀ p ∈ openPkt k pkt ext,
        t.view.inMsg h.dst h.msn = some { conn := h.dst, msn := h.msn, op := h.op, parts := [(0, p)], count := some 1, target := h.target, cmpr := bitOf h.flags 3, complete := true, behindFence := false, tick := s.node.tk.now, acted := false } ∧
        Counted s t Reg.FAB_RX_PKTS ∧ ∃ x ∈ lookupN h.dst t.node.tp.conns, (ext < x.rxBase ∨ ext ∈ x.rxSeen) ∧ x.ackWanted = true) := by
  obtain ⟨rfl, hok, hdst, hc, hhot, hfe, hfound, hsrc, hst⟩ := hp
  obtain ⟨rfl, hb⟩ := he
  obtain ⟨hfab, hpol⟩ := hf
  obtain ⟨hk1, hk2⟩ := hk
  obtain ⟨ho1, ho2, ho3⟩ := ho
  obtain ⟨hr1, hr2⟩ := hroom
  obtain ⟨u, hu, -, htake⟩ := here_run port half ha hfab ⟨rfl, hok, hdst⟩ hc
  have hrun := htake hhot hfe hfound
  have huc : u.connOf (PktHead.read pkt).dst = some c := by
    unfold Work.connOf
    rw [hu.tp]
    exact hc
  have hgone : (u.useCtx (PktHead.read pkt).dst).keysGone c.part = false := (keysGone_congr (w := s.view) hu.rest.1 c.part).trans hk1
  refine ⟨_, hrun, fun p hp => ?_⟩
  rw [takePacket_data huc ⟨hsrc, hst⟩ ho2 hb hw, unseal_open hgone hkey hp, unsealed]
  obtain ⟨v1, v2, v3, v4, v5, v6, v7⟩ := passed_reads hu (PktHead.read pkt).dst c pkt.length
  have hpeer : c.peerNode < 65536 := hsrc ▸ srcNode_lt pkt
  have hrw : (passedPkt (u.useCtx (PktHead.read pkt).dst) c pkt.length).rw = (u.count Reg.FAB_RX_PKTS).rw := (meter_rest _ _ _ _).1
  have hconn := useCtx_conn huc
  rw [← v7] at hconn
  generalize passedPkt (u.useCtx (PktHead.read pkt).dst) c pkt.length = v at *
  have hpol' : v.flag Reg.POL_EN = false := by
    unfold Work.flag
    rw [(v6 Reg.POL_EN 0 0 (passed_apart (by decide) 0 0)).trans hpol]
    rfl
  have hstale : v.staleSender c = false := by
    unfold Work.staleSender
    rw [v6 Reg.MIR_PRESENTED 0 _ (passed_peer (by decide) hpeer), v6 Reg.MIR_FENCE_MIN 0 _ (passed_peer (by decide) hpeer)]
    exact decide_eq_false (by omega)
  have hnone : v.inMsg (PktHead.read pkt).dst (PktHead.read pkt).msn = none := by
    unfold Work.inMsg
    rw [v1]
    exact hi
  rw [message_single pkt.length _ ho1 hm hnone hpol' hstale (v4.trans hk2) (v2 ▸ hr1) (v3 ▸ hr2) hx, arrived_kept _ c ho3, recordPsn_tp]
  have hlook := lookupN_modifyN (PktHead.read pkt).dst (fun x => recorded x base (extend24 c.rxBase (PktHead.read pkt).psn) (PktHead.read pkt).ackReq) v.n.tp.conns
  rw [hconn] at hlook
  refine ⟨?_, hu.counted hcan (by decide) hrw, _, hlook, recorded_seen _ _ hw.1⟩
  rw [inMsg_close]
  refine (find_replaced v.n.tp.inMsgs (id := (PktHead.read pkt).dst) (msn := (PktHead.read pkt).msn) ?_ ?_).trans (congrArg some (kept_single p v5 (fencedBelow_quiet c v1 hq)))
  · rfl
  · rfl

end

/-- Settles O33: a packet's way through the node is `packet_run` up to its connection's search, which leaves the connections, the messages
and every register beside the Keystone's counters (`Same`), and `here_run` past it. -/
theorem packetsAreCheckedForwardedAndTaken : Obligations.PacketsAreCheckedForwardedAndTaken := by
  unfold Obligations.PacketsAreCheckedForwardedAndTaken
  refine ⟨header_bad, packet_transit, packet_unconnected, ?_, ?_, ?_, ?_⟩
  · intro s port half pkt h c ha hf hh ⟨hc, hn⟩ hp ht
    exact packet_held port half ha hf hh hc hn hp ht
  · intro s port half ext pkt h c k ha hcan hf hp ho hkey he hk
    exact packet_ack port half ha hcan hf hp hk ho hkey he
  · intro s port half ext base pkt h c key ha hcan hf hp ho he hw hk hkey hn
    exact packet_unauthentic port half ha hcan hf hp hk ho he hw hkey hn
  · intro s port half ext base pkt h c k ha hcan hf hp ho hx he hw hk hm hi hmin hroom hq hkey
    exact packet_whole port half ha hcan hf hp hk ho hx he hw hm hi hmin hroom hq hkey

end Sys2Proof.Packets
end

section
/-!
The partition mailbox: CREATE and INSTALL_KEY (R354 to R359).
-/

namespace Sys2Proof.Partitions

open Sys2Proof.Machine Sys2Proof.Safety Sys2Proof.Laws Sys2Proof.Writes Sys2Proof.Entering Sys2Proof.Fields Sys2Proof.Queues Sys2Proof.Training Sys2Proof.Trims

theorem exec_partCreate (s : State) (wr : RegWr) : exec (.partCreate wr) s = execPartCreate wr s := by simp only [exec]
theorem exec_installKey (s : State) (wr : RegWr) : exec (.installKey wr) s = execInstallKey wr s := by simp only [exec]

/-! ## The mailbox -/

/-- The fields of the mailbox's command register. -/
def orderFlds : List Fld := [Reg.PART_OP, Reg.PART_PART, Reg.PART_SEQ_104]

/-- The fields of the mailbox's answer. -/
def replyFlds : List Fld := [Reg.PART_STATUS, Reg.PART_DETAIL, Reg.PART_SEQ_108, Reg.PART_READY]

/-- The node as a command of the mailbox finds it. -/
def ordered (s : State) (wr : RegWr) (inst idx : Nat) : Work := s.view.writeFields wr .PART inst idx 0x104

section
variable {s : State} {wr : RegWr} {inst idx : Nat}

theorem ordered_n : (ordered s wr inst idx).n = s.node := writeFields_n ..

theorem ordered_fields : fields orderFlds (ordered s wr inst idx) = fields orderFlds s.view := fields_writeFields _ _ _ _ _ _ (by decide)

theorem ordered_get {g : Fld} (h : Clear orderFlds g = true) (i j : Nat) : (ordered s wr inst idx).get g i j = rd s g i j := get_of_fields ordered_fields h i j

theorem ordered_wiped : (ordered s wr inst idx).wiped = false := fields_wiped ordered_fields

variable (hl : Lands s wr .PART 0x104 inst idx)
include hl

theorem busWrite_ordered : (s.view.busWrite wr).w = ordered s wr inst idx := by
  obtain ⟨-, -, -, -, hb⟩ := busWrite_taken hl.2
  rw [hb]
  rfl

/-- A command of the mailbox acts on the partition that it names. -/
theorem partCommand_acts {op p seq : Nat} (act : Work → Nat → Nat → Work) (hop : s.view.merged wr 0 0 Reg.PART_OP = op)
    (hp : p = (ordered s wr inst idx).merged wr inst idx Reg.PART_PART ∧ seq = (ordered s wr inst idx).merged wr inst idx Reg.PART_SEQ_104) :
    s.view.partCommand wr op act = act (ordered s wr inst idx) p seq := by
  obtain ⟨h1, h2⟩ := hp
  unfold Work.partCommand
  rw [if_neg fun h => h.2 hop, regAction_lands hl _ hl.1, h1, h2]
  rfl

end

/-! ## The answer -/

theorem fields_partAnswer (w : Work) (st d seq : Nat) : fields replyFlds (w.partAnswer st d seq) = fields replyFlds w := by
  unfold Work.partAnswer
  rw [fields_isr, fields_set _ _ _ _ _ (by decide), fields_set _ _ _ _ _ (by decide), fields_set _ _ _ _ _ (by decide), fields_set _ _ _ _ _ (by decide)]

/-- What an answer leaves of the node: its SE and transport, its pages and its meters. -/
theorem partAnswer_n (w : Work) (st d seq : Nat) : Reports ((((w.set Reg.PART_STATUS st).set Reg.PART_DETAIL d).set Reg.PART_SEQ_108 seq).set Reg.PART_READY 1) (w.partAnswer st d seq) :=
  reports_isr ..

theorem partAnswer_rest (w : Work) (st d seq : Nat) : (w.partAnswer st d seq).n.se = w.n.se ∧ (w.partAnswer st d seq).n.mt = w.n.mt ∧
    (w.partAnswer st d seq).n.tp = w.n.tp ∧ (w.partAnswer st d seq).n.pg = w.n.pg := by
  have h := partAnswer_n w st d seq
  exact ⟨h.n_se, h.n_mt, h.n_tp, h.n_pg⟩

theorem partAnswer_shows {s : State} (hc : Canonical s) (w : Work) (st d seq : Nat) :
    rd (s.close (w.partAnswer st d seq)) Reg.PART_STATUS = st % 2 ^ 8 ∧ rd (s.close (w.partAnswer st d seq)) Reg.PART_READY = 1 ∧
    rd (s.close (w.partAnswer st d seq)) Reg.PART_SEQ_108 = seq % 2 ^ Reg.PART_SEQ_108.width := by
  have hr := partAnswer_n w st d seq
  refine ⟨(hr.shows (plain_high (by decide) 0 0) ((((shows_set w Reg.PART_STATUS st 0 0).set _ _ 0 0 ?_).set _ _ 0 0 ?_).set _ _ 0 0 ?_)).rd hc.1,
    (hr.shows (plain_high (by decide) 0 0) (shows_set _ Reg.PART_READY 1 0 0)).rd hc.1,
    (hr.shows (plain_high (by decide) 0 0) ((shows_set _ Reg.PART_SEQ_108 seq 0 0).set _ _ 0 0 ?_)).rd hc.1⟩
  all_goals exact key_ne_of_apart (by decide) _ _ _ _

/-! ## The entry of a partition -/

/-- The entry that a change of state leaves. -/
def entered (w : Work) (p : Nat) (st : PState) (f : Part → Part) : Part :=
  f { (w.secPart p).getD { id := p, state := .free, created := false, createTick := 0, key := none, allotTop := none, allotLen := 0, strikes := 0
                           strike := none, record := List.replicate 64 0 } with state := st }

theorem secPart_id {w : Work} {p : Nat} {q : Part} (h : w.secPart p = some q) : q.id = p := by simpa using List.find?_some h

theorem secPart_close {s : State} {w v : Work} (h : v.n.se.parts = w.n.se.parts) (p : Nat) : (s.close v).view.secPart p = w.secPart p := by
  show (s.close v).node.se.parts.find? (fun q => q.id = p) = w.n.se.parts.find? fun q => q.id = p
  rw [close_node, h]

theorem entered_id (w : Work) (p : Nat) (st : PState) {f : Part → Part} (hf : ∀ q, (f q).id = q.id) : (entered w p st f).id = p := by
  unfold entered
  rw [hf]
  cases h : w.secPart p with
  | none => rfl
  | some q =>
    have hq := secPart_id h
    exact hq

theorem find_entered {l : List Part} {q : Part} {p : Nat} (h : q.id = p) : ((l.filter fun x => x.id != p) ++ [q]).find? (fun x => x.id = p) = some q := by
  have hmiss : (l.filter fun x => x.id != p).find? (fun x => x.id = p) = none := List.find?_eq_none.2 fun x hx => by simpa using (List.mem_filter.1 hx).2
  rw [List.find?_append, hmiss, Option.none_or, List.find?_cons_of_pos]
  simp [h]

section
variable (w : Work) (p : Nat) (f : Part → Part)

/-- What a partition that becomes Live reports. -/
theorem setPart_reports : ∃ v, Reports (if p = 0 then w else w.set Reg.PP_STATE 1 p) v ∧
    w.setPart p 1 f = { v with n.se.parts := (v.n.se.parts.filter fun x => x.id != p) ++ [entered v p .live f] } :=
  ⟨_, reports_setReady _ (0x100 + p) (p = 0 || 1 = 1), rfl⟩

theorem fields_setPart : fields [Reg.PP_STATE] (w.setPart p 1 f) = fields [Reg.PP_STATE] w := by
  obtain ⟨v, hv, he⟩ := setPart_reports w p f
  rw [he, fields_update, fields_of_reports hv]
  exact fields_of_ite rfl (fields_set _ _ _ _ _ (by decide))

theorem setPart_shows (hp : p ≠ 0) : Shows (w.setPart p 1 f) Reg.PP_STATE 1 p 0 := by
  obtain ⟨v, hv, he⟩ := setPart_reports w p f
  rw [if_neg hp] at hv
  rw [he]
  exact hv.shows (plain_high (by decide) p 0) (shows_set w Reg.PP_STATE 1 p 0)

theorem setPart_secPart (hf : ∀ q, (f q).id = q.id) : (w.setPart p 1 f).secPart p = some (entered w p .live f) := by
  obtain ⟨v, hv, he⟩ := setPart_reports w p f
  have hse : v.n.se = w.n.se := hv.n_se.trans (by split <;> rfl)
  have hent : entered v p .live f = entered w p .live f := by
    unfold entered Work.secPart
    rw [hse]
  rw [he, ← hent]
  exact find_entered (entered_id v p .live hf)

theorem setPart_rest : (w.setPart p 1 f).n.tp = w.n.tp ∧ (w.setPart p 1 f).n.pg = w.n.pg ∧ (w.setPart p 1 f).n.tk = w.n.tk := by
  obtain ⟨v, hv, he⟩ := setPart_reports w p f
  have hn : (if p = 0 then w else w.set Reg.PP_STATE 1 p).n = w.n := by split <;> rfl
  rw [he]
  exact ⟨hv.n_tp.trans (congrArg Node.tp hn), hv.n_pg.trans (congrArg Node.pg hn), hv.n_tk.trans (congrArg Node.tk hn)⟩

end

/-! ## CREATE -/

/-- The entry of a partition that is created. -/
def createdPart (w : Work) (p top units : Nat) (q : Part) : Part :=
  { q with created := true, createTick := BitVec.ofNat 32 w.now32, key := if p = 0 then q.key else none, allotTop := some top, allotLen := units * 2 ^ 22 }

/-- The partition Live, with its allotment shown and, but for partition 0, no key. -/
def createdShown (w : Work) (p top units : Nat) : Work :=
  let w := w.setPart p 1 (createdPart w p top units)
  let w := (w.set Reg.PP_ALLOT_BASE_LO (frameAddr top) p).set Reg.PP_ALLOT_BASE_HI (frameAddr top / 2 ^ 32) p
  if p = 0 then w else w.set Reg.PP_KEY_SET 0 p

/-- The watermarks of its three tiers. -/
def watermarked (quota : Nat → Nat) (p : Nat) (w : Work) : Work :=
  (List.range 3).foldl (fun w t => (w.set Reg.SPL_LOW (quota t / 32) 0 (p + 64 * t)).set Reg.SPL_TARGET (quota t / 16) 0 (p + 64 * t)) w

theorem watermarked_eq (quota : Nat → Nat) (p : Nat) (w : Work) : fields [Reg.SPL_LOW, Reg.SPL_TARGET] (watermarked quota p w) = fields [Reg.SPL_LOW, Reg.SPL_TARGET] w ∧
    (watermarked quota p w).n = w.n := by
  unfold watermarked
  generalize List.range 3 = l
  induction l generalizing w with
  | nil => exact ⟨rfl, rfl⟩
  | cons t l ih =>
    rw [List.foldl_cons]
    obtain ⟨h1, h2⟩ := ih ((w.set Reg.SPL_LOW (quota t / 32) 0 (p + 64 * t)).set Reg.SPL_TARGET (quota t / 16) 0 (p + 64 * t))
    exact ⟨h1.trans ((fields_set _ _ _ _ _ (by decide)).trans (fields_set _ _ _ _ _ (by decide))), h2⟩

/-- The quotas of a partition's tiers. -/
def quotaOf (w : Work) (p t : Nat) : Nat := w.get (if t = 0 then Reg.PP_HBM_QUOTA else if t = 1 then Reg.PP_DDR_QUOTA else Reg.PP_HOST_QUOTA) p

theorem extendFree_rest (w : Work) (k : Nat) : (w.extendFree k).n.se.parts = w.n.se.parts ∧ (w.extendFree k).n.tp = w.n.tp ∧ (w.extendFree k).n.pg = w.n.pg ∧
    (w.extendFree k).n.mt = w.n.mt := ⟨rfl, rfl, rfl, rfl⟩

theorem fields_extendFree (F : List Fld) (w : Work) (k : Nat) : fields F (w.extendFree k) = fields F w := rfl

/-- The meters opened for a partition. -/
def freshMeter (w : Work) (p : Nat) : Meter16 :=
  { part := p, cnt := List.replicate 16 0, prev := List.replicate 16 0, number := 0, from_ := w.now, digest := 0, kept := [], final := none, fenced := false }

theorem openMeter_eq (w : Work) (p : Nat) : w.openMeter p = { w with n.mt.meters := (w.n.mt.meters.filter fun x => x.part != p) ++ [freshMeter w p] } := rfl

/-- What CREATE leaves before its answer. -/
def createdNode (w : Work) (p top units : Nat) : Work := ((watermarked (quotaOf w p) p (createdShown w p top units)).openMeter p).extendFree 4

/-- What CREATE reads of the node, on the view with the command register written. -/
theorem ordered_reads (s : State) (wr : RegWr) (inst idx p : Nat) : (ordered s wr inst idx).partState p = s.view.partState p ∧
    (ordered s wr inst idx).secPart p = s.view.secPart p ∧ (∀ q, (ordered s wr inst idx).queueIdle q = s.view.queueIdle q) ∧
    (ordered s wr inst idx).servingStacks = s.view.servingStacks ∧ (∀ t, quotaOf (ordered s wr inst idx) p t = quotaOf s.view p t) := by
  have hget := fun {g : Fld} (h : Clear orderFlds g = true) i j => ordered_get (s := s) (wr := wr) (inst := inst) (idx := idx) h i j
  have hn := ordered_n (s := s) (wr := wr) (inst := inst) (idx := idx)
  refine ⟨?_, ?_, fun q => ?_, ?_, fun t => ?_⟩
  · unfold Work.partState
    rw [hget (by decide) p 0]
    rfl
  · unfold Work.secPart
    rw [hn]
    rfl
  · unfold Work.queueIdle
    rw [hn]
    rfl
  · unfold Work.servingStacks Work.readyStacks Work.stackReady Work.nodeState
    rw [get_of_fields0 (g := Reg.CST_READY) (ordered_fields (s := s) (wr := wr) (inst := inst) (idx := idx)) (by decide),
      get_of_fields0 (g := Reg.GLB_NODE_STATE) (ordered_fields (s := s) (wr := wr) (inst := inst) (idx := idx)) (by decide)]
  · unfold quotaOf
    split
    · exact hget (by decide) p 0
    · split
      · exact hget (by decide) p 0
      · exact hget (by decide) p 0

section
variable {s : State} {wr : RegWr} {inst idx p seq top : Nat} {v : Work} (ha : s.alive = true) (hl : Lands s wr .PART 0x104 inst idx) (hv : v = (s.view.busWrite wr).w)
  (hp : p = v.merged wr inst idx Reg.PART_PART ∧ seq = v.merged wr inst idx Reg.PART_SEQ_104)
include ha hl hv hp

theorem create_run (hop : s.view.merged wr 0 0 Reg.PART_OP = 1)
    (hfree : if p = 0 then ((s.view.secPart 0).map (·.created)).getD false = false else s.view.partState p = 0)
    (hidle : p ≠ 0 → ∀ q : Nat, q < rd s Reg.QUE_COUNT 0 p → s.view.queueIdle (rd s Reg.QUE_BASE 0 p + q) = true)
    (hfit : v.quotasFit p (rd s Reg.PP_HBM_QUOTA p) (rd s Reg.PP_DDR_QUOTA p) (rd s Reg.PP_HOST_QUOTA p) = true)
    (hunits : 1 ≤ rd s Reg.PP_ALLOT_MIB p ∧ rd s Reg.PP_ALLOT_MIB p ≤ 1024 ∧ s.view.servingStacks.contains (rd s Reg.PP_ALLOT_STACK p) = true)
    (htop : v.allotRun (rd s Reg.PP_ALLOT_STACK p) (rd s Reg.PP_ALLOT_MIB p) = some top ∧ v.sharesOk p = true) :
    exec (.partCreate wr) s = .next (s.close ((createdNode (ordered s wr inst idx) p top (rd s Reg.PP_ALLOT_MIB p)).partAnswer stOK 0 seq)) := by
  rw [busWrite_ordered hl] at hv
  subst hv
  obtain ⟨hu1, hu2, hu3⟩ := hunits
  obtain ⟨ht1, ht2⟩ := htop
  obtain ⟨r1, -, r3, r4, -⟩ := ordered_reads s wr inst idx p
  obtain ⟨-, r2, -⟩ := ordered_reads s wr inst idx 0
  have hmib : (ordered s wr inst idx).get Reg.PP_ALLOT_MIB p = rd s Reg.PP_ALLOT_MIB p := ordered_get (by decide) p 0
  have hst : (ordered s wr inst idx).get Reg.PP_ALLOT_STACK p = rd s Reg.PP_ALLOT_STACK p := ordered_get (by decide) p 0
  have hstruck : ¬ 2 ≤ (ordered s wr inst idx).partState p := by
    rw [r1]
    by_cases h0 : p = 0
    · simp [Work.partState, h0]
    · rw [if_neg h0] at hfree
      omega
  have hf : (if p = 0 then !(((ordered s wr inst idx).secPart 0).map (·.created)).getD false
      else (ordered s wr inst idx).partState p = 0 && ((List.range ((ordered s wr inst idx).get Reg.QUE_COUNT 0 p)).map ((ordered s wr inst idx).get Reg.QUE_BASE 0 p + ·)).all (ordered s wr inst idx).queueIdle) = true := by
    by_cases h0 : p = 0
    · rw [if_pos h0] at hfree ⊢
      rw [r2, hfree]
      rfl
    · rw [if_neg h0] at hfree ⊢
      rw [r1, hfree, ordered_get (g := Reg.QUE_COUNT) (by decide) 0 p, ordered_get (g := Reg.QUE_BASE) (by decide) 0 p]
      refine Bool.and_eq_true_iff.2 ⟨rfl, List.all_eq_true.2 fun q hq => ?_⟩
      obtain ⟨i, hi, rfl⟩ := List.mem_map.1 hq
      rw [r3]
      exact hidle h0 i (List.mem_range.1 hi)
  rw [exec_partCreate, execPartCreate, run_alive _ ha, partCommand_acts hl _ hop hp]
  dsimp only
  rw [if_neg hstruck, hf, if_neg (by decide)]
  have hq : (ordered s wr inst idx).quotasFit p (quotaOf (ordered s wr inst idx) p 0) (quotaOf (ordered s wr inst idx) p 1) (quotaOf (ordered s wr inst idx) p 2) = true := by
    obtain ⟨-, -, -, -, r5⟩ := ordered_reads s wr inst idx p
    rw [r5, r5, r5]
    exact hfit
  have hq' : ¬ (!(ordered s wr inst idx).quotasFit p (quotaOf (ordered s wr inst idx) p 0) (quotaOf (ordered s wr inst idx) p 1) (quotaOf (ordered s wr inst idx) p 2)) = true := by
    rw [hq]
    decide
  refine congrArg (fun w => Host.Outcome.next (s.close w)) ((if_neg hq').trans ?_)
  rw [hmib, hst, r4, if_neg (by rw [hu3]; simp; omega), ht1]
  dsimp only
  rw [ht2, if_neg (by decide)]
  rfl

end

section
variable (w : Work) (p top units : Nat)

theorem createdNode_fields : fields [Reg.SPL_LOW, Reg.SPL_TARGET] (createdNode w p top units) = fields [Reg.SPL_LOW, Reg.SPL_TARGET] (createdShown w p top units) := by
  rw [createdNode, fields_extendFree, openMeter_eq, fields_update]
  exact (watermarked_eq (quotaOf w p) p (createdShown w p top units)).1

theorem createdShown_n : (createdShown w p top units).n = (w.setPart p 1 (createdPart w p top units)).n := by
  unfold createdShown
  dsimp only
  split
  · rfl
  · rfl

theorem createdNode_n : (createdNode w p top units).secPart p = (w.setPart p 1 (createdPart w p top units)).secPart p ∧
    (createdNode w p top units).n.tp = w.n.tp ∧ (createdNode w p top units).n.pg = w.n.pg ∧
    ∃ m ∈ (createdNode w p top units).n.mt.meters, m.part = p ∧ m.cnt = List.replicate 16 0 ∧ m.number = 0 ∧ m.from_ = w.now := by
  obtain ⟨h1, h2, h3⟩ := setPart_rest w p (createdPart w p top units)
  have hn : (watermarked (quotaOf w p) p (createdShown w p top units)).n = (w.setPart p 1 (createdPart w p top units)).n :=
    (watermarked_eq (quotaOf w p) p (createdShown w p top units)).2.trans (createdShown_n w p top units)
  unfold createdNode
  generalize watermarked (quotaOf w p) p (createdShown w p top units) = v at *
  obtain ⟨e1, e2, e3, e4⟩ := extendFree_rest (v.openMeter p) 4
  have hnow : (freshMeter v p).from_ = w.now := congrArg TickBox.now ((congrArg Node.tk hn).trans h3)
  refine ⟨?_, e2.trans ((congrArg Node.tp hn).trans h1), e3.trans ((congrArg Node.pg hn).trans h2), freshMeter v p, ?_, rfl, rfl, rfl, hnow⟩
  · unfold Work.secPart
    rw [e1, ← hn, openMeter_eq]
  · rw [e4, openMeter_eq]
    exact List.mem_append_right _ (List.mem_singleton_self _)

theorem createdShown_state (hp : p ≠ 0) : Shows (createdShown w p top units) Reg.PP_STATE 1 p 0 := by
  have h := setPart_shows w p (createdPart w p top units) hp
  unfold createdShown
  dsimp only
  rw [if_neg hp]
  exact ((h.set _ _ _ _ (key_ne_of_apart (by decide) _ _ _ _)).set _ _ _ _ (key_ne_of_apart (by decide) _ _ _ _)).set _ _ _ _ (key_ne_of_apart (by decide) _ _ _ _)

theorem createdShown_base : Shows (createdShown w p top units) Reg.PP_ALLOT_BASE_LO (frameAddr top % 2 ^ 32) p 0 := by
  have h := (shows_set (w.setPart p 1 (createdPart w p top units)) Reg.PP_ALLOT_BASE_LO (frameAddr top) p 0).set Reg.PP_ALLOT_BASE_HI (frameAddr top / 2 ^ 32) p 0
    (key_ne_of_apart (by decide) _ _ _ _)
  unfold createdShown
  dsimp only
  split
  · exact h
  · exact h.set _ _ _ _ (key_ne_of_apart (by decide) _ _ _ _)

theorem createdShown_noKey (hp : p ≠ 0) : Shows (createdShown w p top units) Reg.PP_KEY_SET 0 p 0 := by
  unfold createdShown
  dsimp only
  rw [if_neg hp]
  exact shows_set _ _ _ _ _

theorem createdShown_fields0 : fields [Reg.PP_STATE, Reg.PP_ALLOT_BASE_LO, Reg.PP_ALLOT_BASE_HI] (createdShown w 0 top units) =
    fields [Reg.PP_STATE, Reg.PP_ALLOT_BASE_LO, Reg.PP_ALLOT_BASE_HI] w := by
  unfold createdShown
  dsimp only
  rw [if_pos rfl, fields_set _ _ _ _ _ (by decide), fields_set _ _ _ _ _ (by decide)]
  exact fields_weaken (by decide) (fields_setPart w 0 (createdPart w 0 top units))

end

theorem createdPart_keeps_id (w : Work) (p top units : Nat) (q : Part) : (createdPart w p top units q).id = q.id := rfl

section
variable {s : State} {w : Work} (hn : w.n = s.node) (p top units : Nat)
include hn

theorem created_now : (entered w p .live (createdPart w p top units)).createTick = BitVec.ofNat 32 s.view.now32 := by
  have h : w.now32 = s.view.now32 := by
    unfold Work.now32 Work.now
    rw [hn]
    rfl
  exact congrArg (BitVec.ofNat 32) h

theorem created_key : (entered w p .live (createdPart w p top units)).key = if p = 0 then (s.view.secPart 0).bind (·.key) else none := by
  have h : w.secPart p = s.view.secPart p := by
    unfold Work.secPart
    rw [hn]
    rfl
  by_cases h0 : p = 0
  · subst h0
    unfold entered createdPart
    rw [h]
    cases s.view.secPart 0 with
    | none => rfl
    | some q => rfl
  · unfold createdPart entered
    rw [if_neg h0]
    exact if_neg h0

end

section
variable (s : State) (w : Work) (p top units seq : Nat) (hc : Canonical s) (hw : fields orderFlds w = fields orderFlds s.view) (hn : w.n = s.node)
include hc hw hn

/-- What CREATE leaves. -/
theorem create_leaves {t : State} (ht : t = s.close ((createdNode w p top units).partAnswer stOK 0 seq)) :
    (p ≠ 0 → rd t Reg.PP_STATE p = 1) ∧ t.view.secPart p = some (entered w p .live (createdPart w p top units)) ∧
    rd t Reg.PP_ALLOT_BASE_LO p = frameAddr top % 2 ^ 32 ∧ (rd t Reg.PP_KEY_SET p = if p = 0 then rd s Reg.PP_KEY_SET p else 0) ∧
    (∃ m ∈ t.node.mt.meters, m.part = p ∧ m.cnt = List.replicate 16 0 ∧ m.number = 0 ∧ m.from_ = s.node.tk.now) ∧
    t.node.tp = s.node.tp ∧ t.node.pg = s.node.pg := by
  obtain ⟨n1, n2, n3, n4⟩ := createdNode_n w p top units
  obtain ⟨hr1, hr2, hr3, hr4⟩ := partAnswer_rest (createdNode w p top units) stOK 0 seq
  have hf : fields (replyFlds ++ [Reg.SPL_LOW, Reg.SPL_TARGET]) ((createdNode w p top units).partAnswer stOK 0 seq) =
      fields (replyFlds ++ [Reg.SPL_LOW, Reg.SPL_TARGET]) (createdShown w p top units) :=
    (fields_weaken (by decide) (fields_partAnswer _ stOK 0 seq)).trans (fields_weaken (by decide) (createdNode_fields w p top units))
  have hsec := setPart_secPart w p (createdPart w p top units) (createdPart_keeps_id w p top units)
  subst ht
  refine ⟨fun h => (shows_of_fields hf (by decide) (createdShown_state w p top units h)).rd hc.1, ?_,
    (shows_of_fields hf (by decide) (createdShown_base w p top units)).rd hc.1, ?_, ?_, ?_, ?_⟩
  · rw [← hsec, ← n1]
    exact secPart_close (congrArg Security.parts hr1) p
  · by_cases h0 : p = 0
    · rw [if_pos h0]
      subst h0
      have hall : fields (orderFlds ++ replyFlds ++ [Reg.SPL_LOW, Reg.SPL_TARGET, Reg.PP_STATE, Reg.PP_ALLOT_BASE_LO, Reg.PP_ALLOT_BASE_HI])
          ((createdNode w 0 top units).partAnswer stOK 0 seq) = fields (orderFlds ++ replyFlds ++ [Reg.SPL_LOW, Reg.SPL_TARGET, Reg.PP_STATE, Reg.PP_ALLOT_BASE_LO, Reg.PP_ALLOT_BASE_HI]) s.view :=
        (fields_weaken (by decide) hf).trans ((fields_weaken (by decide) (createdShown_fields0 w top units)).trans (fields_weaken (by decide) hw))
      exact rd_of_fields hc hall (by decide) 0 0
    · rw [if_neg h0]
      exact (shows_of_fields hf (by decide) (createdShown_noKey w p top units h0)).rd hc.1
  · rw [close_node, hr2]
    obtain ⟨m, hm, h1, h2, h3, h4⟩ := n4
    exact ⟨m, hm, h1, h2, h3, h4.trans (congrArg (fun n : Node => n.tk.now) hn)⟩
  · rw [close_node, hr3]
    exact n2.trans (congrArg Node.tp hn)
  · rw [close_node, hr4]
    exact n3.trans (congrArg Node.pg hn)

end

/-! ## INSTALL_KEY -/

theorem wrapFlds_apart : ∀ f ∈ wrapFlds, ∀ g ∈ wrapFlds, g = f ∨ Apart g f = true := by decide

/-- The words of the wrapped key read zero once they are cleared. -/
theorem clearWords_shows (w : Work) (p : Nat) {f : Fld} (hf : f ∈ wrapFlds) : Shows (w.clearWords wrapFlds p) f 0 p 0 := by
  have hkeep : ∀ (l : List Fld) (v : Work), l ⊆ wrapFlds → Shows v f 0 p 0 → Shows (l.foldl (fun w g => w.set g 0 p) v) f 0 p 0 := by
    intro l
    induction l with
    | nil => exact fun v _ h => h
    | cons g l ih =>
      intro v hl h
      refine ih _ (fun x hx => hl (List.mem_cons_of_mem _ hx)) ?_
      rcases wrapFlds_apart f hf g (hl List.mem_cons_self) with rfl | ha
      · have hs := shows_set v g 0 p 0
        rwa [Nat.zero_mod] at hs
      · exact h.set _ _ _ _ (key_ne_of_apart ha _ _ _ _)
  have hall : ∀ (l : List Fld) (v : Work), l ⊆ wrapFlds → f ∈ l → Shows (l.foldl (fun w g => w.set g 0 p) v) f 0 p 0 := by
    intro l
    induction l with
    | nil => exact fun _ _ h => absurd h (by simp)
    | cons g l ih =>
      intro v hl h
      have hl' : l ⊆ wrapFlds := fun x hx => hl (List.mem_cons_of_mem _ hx)
      rcases List.mem_cons.1 h with rfl | h
      · have hs := shows_set v f 0 p 0
        rw [Nat.zero_mod] at hs
        exact hkeep l _ hl' hs
      · exact ih _ hl' h
  exact hall wrapFlds w (fun _ h => h) hf

theorem clearWords_rest (w : Work) (fs : List Fld) (p : Nat) : fields fs (w.clearWords fs p) = fields fs w ∧ (w.clearWords fs p).n = w.n := by
  unfold Work.clearWords
  suffices ∀ (l : List Fld) (v : Work), l ⊆ fs → fields fs (l.foldl (fun w g => w.set g 0 p) v) = fields fs v ∧ (l.foldl (fun w g => w.set g 0 p) v).n = v.n from
    this fs w fun _ h => h
  intro l
  induction l with
  | nil => exact fun _ _ => ⟨rfl, rfl⟩
  | cons g l ih =>
    intro v hl
    obtain ⟨h1, h2⟩ := ih (v.set g 0 p) fun x hx => hl (List.mem_cons_of_mem _ hx)
    exact ⟨h1.trans (fields_set _ _ _ _ _ (hl List.mem_cons_self)), h2⟩

/-- What an installed key leaves before the answer. -/
def keyed (w : Work) (p : Nat) (k : BitVec 256) : Work :=
  let w := w.setPart p 1 fun q => { q with key := some k }
  let w := (w.set Reg.PP_PK_KCV_LO (leVal (Sys2Proof.Crypto.kcv k)) p).set Reg.PP_PK_KCV_HI (leVal (Sys2Proof.Crypto.kcv k) / 2 ^ 32) p
  (w.set Reg.PP_KEY_SET 1 p).extendFree 4

section
variable {s : State} {wr : RegWr} {inst idx p seq : Nat} {v : Work} {fkek : BitVec 256} (ha : s.alive = true) (hl : Lands s wr .PART 0x104 inst idx)
  (hv : v = (s.view.busWrite wr).w) (hop : s.view.merged wr 0 0 Reg.PART_OP = 3)
  (hp : p = v.merged wr inst idx Reg.PART_PART ∧ seq = v.merged wr inst idx Reg.PART_SEQ_104) (hlive : s.view.live p = true ∧ s.node.se.fkek = some fkek)
include ha hl hv hop hp hlive

theorem installKey_run : v = ordered s wr inst idx ∧
    (∀ k, Sys2Proof.Crypto.keyUnwrap fkek (v.words wrapFlds p) = some k →
      exec (.installKey wr) s = .next (s.close ((keyed (v.clearWords wrapFlds p) p k).partAnswer stOK 0 seq))) ∧
    (Sys2Proof.Crypto.keyUnwrap fkek (v.words wrapFlds p) = none →
      exec (.installKey wr) s = .next (s.close (((v.clearWords wrapFlds p).unwrapFailed p 0).partAnswer stAuthFail 0 seq))) := by
  rw [busWrite_ordered hl] at hv
  subst hv
  obtain ⟨hl1, hl2⟩ := hlive
  obtain ⟨r1, -⟩ := ordered_reads s wr inst idx p
  have h1 : (ordered s wr inst idx).partState p = 1 := r1.trans (of_decide_eq_true hl1)
  have h2 : (ordered s wr inst idx).n.se.fkek = some fkek := (congrArg (fun n : Node => n.se.fkek) ordered_n).trans hl2
  refine ⟨rfl, fun k hk => ?_, fun hk => ?_⟩
  · rw [exec_installKey, execInstallKey, run_alive _ ha, partCommand_acts hl _ hop hp]
    simp only [h1, h2, hk]
    rw [if_neg (by decide), keyed]
  · rw [exec_installKey, execInstallKey, run_alive _ ha, partCommand_acts hl _ hop hp]
    simp only [h1, h2, hk]
    rw [if_neg (by decide)]

end

/-- The fields that an installed key writes. -/
def keyFlds : List Fld := [Reg.PP_STATE, Reg.PP_PK_KCV_LO, Reg.PP_PK_KCV_HI, Reg.PP_KEY_SET]

section
variable (w : Work) (p : Nat) (k : BitVec 256)

theorem keyed_fields : fields keyFlds (keyed w p k) = fields keyFlds w := by
  rw [keyed, fields_extendFree, fields_set _ _ _ _ _ (by decide), fields_set _ _ _ _ _ (by decide), fields_set _ _ _ _ _ (by decide)]
  exact fields_weaken (by decide) (fields_setPart w p _)

theorem keyed_secPart : ((keyed w p k).secPart p).map (·.key) = some (some k) := by
  have h := setPart_secPart w p (fun q => { q with key := some k }) fun _ => rfl
  unfold keyed
  dsimp only
  generalize w.setPart p 1 (fun q => { q with key := some k }) = v at *
  unfold Work.secPart at h ⊢
  rw [(extendFree_rest _ 4).1]
  exact (congrArg (Option.map fun q : Part => q.key) h).trans rfl

theorem keyed_set : Shows (keyed w p k) Reg.PP_KEY_SET 1 p 0 := by
  unfold keyed
  dsimp only
  generalize Work.set (Work.set _ Reg.PP_PK_KCV_LO _ _ _) Reg.PP_PK_KCV_HI _ _ _ = v
  exact shows_of_fields (fields_extendFree [] (v.set Reg.PP_KEY_SET 1 p) 4) (by decide) (shows_set v Reg.PP_KEY_SET 1 p 0)

end

section
variable {s : State} {wr : RegWr} {inst idx p seq : Nat} {w : Work} (hc : Canonical s) (hw : w = (ordered s wr inst idx).clearWords wrapFlds p)
include hc hw

theorem key_installed {t : State} {k : BitVec 256} (ht : t = s.close ((keyed w p k).partAnswer stOK 0 seq)) :
    (t.view.secPart p).map (·.key) = some (some k) ∧ rd t Reg.PP_KEY_SET p = 1 ∧ rd t Reg.PART_STATUS = stOK ∧ (∀ f ∈ wrapFlds, rd t f p = 0) ∧ rd t Reg.PART_READY = 1 := by
  obtain ⟨hr1, -⟩ := partAnswer_rest (keyed w p k) stOK 0 seq
  have hf := fields_partAnswer (keyed w p k) stOK 0 seq
  obtain ⟨a1, a2, -⟩ := partAnswer_shows hc (keyed w p k) stOK 0 seq
  have hwrap : ∀ f ∈ wrapFlds, Clear (replyFlds ++ keyFlds) f = true := by decide
  have hall : fields (replyFlds ++ keyFlds) ((keyed w p k).partAnswer stOK 0 seq) = fields (replyFlds ++ keyFlds) w :=
    (fields_weaken (by decide) hf).trans (fields_weaken (by decide) (keyed_fields w p k))
  subst ht
  refine ⟨?_, (shows_of_fields hf (by decide) (keyed_set w p k)).rd hc.1, a1, fun f hin => ?_, a2⟩
  · rw [← keyed_secPart w p k]
    exact congrArg (Option.map fun q : Part => q.key) (secPart_close (congrArg Security.parts hr1) p)
  · subst hw
    exact (shows_of_fields hall (hwrap f hin) (clearWords_shows _ p hin)).rd hc.1

theorem key_refused {t : State} (ht : t = s.close ((w.unwrapFailed p 0).partAnswer stAuthFail 0 seq)) :
    rd t Reg.PART_STATUS = stAuthFail ∧ Counted s t Reg.SEC_UNWRAP_FAIL ∧ t.node.se = s.node.se ∧ (∀ f ∈ wrapFlds, rd t f p = 0) ∧ rd t Reg.PART_READY = 1 := by
  obtain ⟨hr1, -⟩ := partAnswer_rest (w.unwrapFailed p 0) stAuthFail 0 seq
  have hrep : Reports (w.count Reg.SEC_UNWRAP_FAIL) (w.unwrapFailed p 0) := reports_report ..
  have hf := fields_partAnswer (w.unwrapFailed p 0) stAuthFail 0 seq
  obtain ⟨a1, a2, -⟩ := partAnswer_shows hc (w.unwrapFailed p 0) stAuthFail 0 seq
  have hwrap : ∀ f ∈ wrapFlds, Clear (replyFlds ++ [Reg.SEC_UNWRAP_FAIL]) f = true := by decide
  have hall : fields (replyFlds ++ [Reg.SEC_UNWRAP_FAIL]) ((w.unwrapFailed p 0).partAnswer stAuthFail 0 seq) = fields (replyFlds ++ [Reg.SEC_UNWRAP_FAIL]) w :=
    (fields_weaken (by decide) hf).trans ((fields_of_reports hrep).trans (fields_count _ _ _ _ _ (by decide)))
  obtain ⟨w1, w2⟩ := clearWords_rest (ordered s wr inst idx) wrapFlds p
  have hget : w.get Reg.SEC_UNWRAP_FAIL = rd s Reg.SEC_UNWRAP_FAIL := by
    have h : fields (wrapFlds ++ orderFlds) w = fields (wrapFlds ++ orderFlds) s.view := by
      rw [hw]
      exact (fields_weaken (by decide) w1).trans (fields_weaken (by decide) ordered_fields)
    exact get_of_fields0 h (by decide)
  have hcount : Shows (w.unwrapFailed p 0) Reg.SEC_UNWRAP_FAIL (min (w.get Reg.SEC_UNWRAP_FAIL + 1) (2 ^ 32 - 1)) 0 0 :=
    hrep.shows ((by unfold Plain; decide)) (shows_count w Reg.SEC_UNWRAP_FAIL 1 0 0)
  rw [hget] at hcount
  have hse : w.n.se = s.node.se := by
    rw [hw, w2, ordered_n]
  subst ht
  refine ⟨a1, (shows_of_fields0 hf (by decide) hcount).rd hc.1, ?_, fun f hin => ?_, a2⟩
  · rw [close_node, hr1]
    exact hrep.n_se.trans hse
  · subst hw
    exact (shows_of_fields hall (hwrap f hin) (clearWords_shows _ p hin)).rd hc.1

end

/-- Settles O41: what the mailbox's commands leave is put together from the change of the partition's entry (`setPart_reports`), the registers
that they set besides, and the answer (`partAnswer_shows`), each tied to the fields that it writes. -/
theorem partitionsAreCreatedAndKeyed : Obligations.PartitionsAreCreatedAndKeyed := by
  unfold Obligations.PartitionsAreCreatedAndKeyed
  refine ⟨?_, ?_⟩
  · intro s wr inst idx p seq top v ha hc hl hv hop hp hfree hidle hfit hunits htop
    have hx := create_run ha hl hv hp hop hfree hidle hfit hunits htop
    obtain ⟨r1, r2, r3, r4, r5, r6, r7⟩ := create_leaves s (ordered s wr inst idx) p top (rd s Reg.PP_ALLOT_MIB p) seq hc ordered_fields ordered_n rfl
    obtain ⟨a1, a2, a3⟩ := partAnswer_shows hc (createdNode (ordered s wr inst idx) p top (rd s Reg.PP_ALLOT_MIB p)) stOK 0 seq
    refine ⟨_, hx, r1, ⟨_, r2, rfl, rfl, ?_, ?_, rfl, rfl⟩, r3, r4, a1, a2, a3, r5, r6, r7⟩
    · exact created_now ordered_n p top _
    · exact created_key ordered_n p top _
  · intro s wr inst idx p seq v fkek ha hc hl hv hop hp hlive
    obtain ⟨hord, hok, hno⟩ := installKey_run ha hl hv hop hp hlive
    have hw : v.clearWords wrapFlds p = (ordered s wr inst idx).clearWords wrapFlds p := by rw [hord]
    cases hk : Sys2Proof.Crypto.keyUnwrap fkek (v.words wrapFlds p) with
    | some k =>
      obtain ⟨k1, k2, k3, k4, k5⟩ := key_installed (seq := seq) (k := k) hc hw rfl
      exact ⟨_, hok k hk, fun key h => by cases h; exact ⟨k1, k2, k3⟩, fun h => absurd h (by simp), k4, k5⟩
    | none =>
      obtain ⟨k1, k2, k3, k4, k5⟩ := key_refused (seq := seq) hc hw rfl
      exact ⟨_, hno hk, fun key h => absurd h (by simp), fun _ => ⟨k1, k2, k3⟩, k4, k5⟩

end Sys2Proof.Partitions
end

section
/-!
Spares: the spare map, cluster swaps, faulted clusters and control cores (R48 to R51, R131, R175).
-/

namespace Sys2Proof.Spares

open Sys2Proof.Machine Sys2Proof.Safety Sys2Proof.Laws Sys2Proof.Entering Sys2Proof.Fields Sys2Proof.Training Sys2Proof.Trims Sys2Proof.Functions Sys2Proof.Assoc
open Sys2Proof.Stages
open Sys2Proof.Partitions (extendFree_rest fields_extendFree)

theorem exec_spareMap (s : State) (wr : RegWr) : exec (.spareMapWrite wr) s = execSpareMapWrite wr s := by simp only [exec]
theorem exec_swapEffect (s : State) : exec .clusterSwapEffect s = execClusterSwapEffect s := by simp only [exec]
theorem exec_fault (s : State) (c a o : Nat) : exec (.clusterFault c a o) s = execClusterFault c a o s := by simp only [exec]
theorem exec_bufferUe (s : State) (c o : Nat) (h : BufHit) : exec (.clusterBufferUe c o h) s = execClusterBufferUe c o h s := by simp only [exec]
theorem exec_coreFault (s : State) (c : Nat) : exec (.controlCoreFault c) s = execControlCoreFault c s := by simp only [exec]

/-! ## Slots -/

/-- The fields of the two clusters between which a slot moves. -/
def slotFlds : List Fld := [Reg.CL_SLOT, Reg.CL_ACTIVE, Reg.CL_SPARE]

section
variable (w : Work) {a b : Nat} (hab : a ≠ b)

/-- The registers that a move of a slot sets, before what the clusters' pages show of it. -/
def slotGiven (w : Work) (a b : Nat) : Work :=
  ((((w.set Reg.CL_SLOT 31 a).set Reg.CL_ACTIVE 0 a).set Reg.CL_SLOT (w.get Reg.CL_SLOT a) b).set Reg.CL_ACTIVE 1 b).set Reg.CL_SPARE 0 b

theorem slotGiven_n (a b : Nat) : (slotGiven w a b).n = w.n := by
  unfold slotGiven
  rw [set_n, set_n, set_n, set_n, set_n]

theorem moveSlot_reports (a b : Nat) : Reports (slotGiven w a b) (w.moveSlot a b) :=
  ((((reports_setEnable _ _ _).trans (reports_setEnable _ _ _)).trans (reports_setReady _ _ _)).trans (reports_setReady _ _ _)).trans (reports_setSpareInUse _ _ _)

theorem cl_key_ne {f g : Fld} (hf : f ∈ slotFlds) (hg : g ∈ slotFlds) (h : f ≠ g ∨ a ≠ b) : f.key a 0 ≠ g.key b 0 := by
  have hall : ∀ f ∈ slotFlds, f.blk.page = 0x30 ∧ f.off = 0x104 ∧ f.lo < 32 ∧ ∀ g ∈ slotFlds, f ≠ g → f.lo ≠ g.lo := by decide
  obtain ⟨f1, f2, f3, f4⟩ := hall f hf
  obtain ⟨g1, g2, g3, -⟩ := hall g hg
  have hlo := f4 g hg
  unfold Fld.key
  rw [f1, f2, g1, g2]
  rcases h with h | h
  · have := hlo h
    omega
  · omega

include hab

theorem slotGiven_shows : Shows (slotGiven w a b) Reg.CL_SLOT (w.get Reg.CL_SLOT a % 2 ^ Reg.CL_SLOT.width) b 0 ∧ Shows (slotGiven w a b) Reg.CL_ACTIVE 1 b 0 ∧
    Shows (slotGiven w a b) Reg.CL_ACTIVE 0 a 0 := by
  unfold slotGiven
  have ne := fun {f g : Fld} (hf : f ∈ slotFlds) (hg : g ∈ slotFlds) {x y : Nat} (h : f ≠ g ∨ x ≠ y) => cl_key_ne (a := x) (b := y) hf hg h
  refine ⟨((shows_set _ Reg.CL_SLOT _ b 0).set _ _ _ _ ?_).set _ _ _ _ ?_, (shows_set _ Reg.CL_ACTIVE 1 b 0).set _ _ _ _ ?_,
    (((shows_set _ Reg.CL_ACTIVE 0 a 0).set _ _ _ _ ?_).set _ _ _ _ ?_).set _ _ _ _ ?_⟩
  · exact ne (by decide) (by decide) (.inl (by decide))
  · exact ne (by decide) (by decide) (.inl (by decide))
  · exact ne (by decide) (by decide) (.inl (by decide))
  · exact ne (by decide) (by decide) (.inl (by decide))
  · exact ne (by decide) (by decide) (.inr hab.symm)
  · exact ne (by decide) (by decide) (.inl (by decide))

end

/-! ## A swap that is due -/

/-- What a due swap leaves of the registers. -/
def swapped (w : Work) (p : PendSwap) : Work :=
  ((((w.moveSlot p.retire p.activate).set Reg.CL_SPARE 1 p.retire).set (clSpareFld p.field) p.retire).log { code := 0x4101, page := 0, detail := p.retire + p.activate * 256 }).extendFree 5

theorem clSpareFld_mem (i : Nat) : clSpareFld i ∈ [Reg.GLB_CL_SPARE_A, Reg.GLB_CL_SPARE_B] := by
  unfold clSpareFld
  split
  · simp
  · simp

theorem swap_run {s : State} {p : PendSwap} (ha : s.alive = true) (hs : s.node.cl.swaps = [p]) (hr : s.view.reached p.effect = true) :
    exec .clusterSwapEffect s = .next (s.close (swapped { s.view with n.cl.swaps := [] } p)) := by
  have h1 : (s.node.cl.swaps.filter fun p => s.view.reached p.effect) = [p] := by
    rw [hs]
    simp [hr]
  have h2 : (s.node.cl.swaps.filter fun p => !s.view.reached p.effect) = [] := by
    rw [hs]
    simp [hr]
  rw [exec_swapEffect, execClusterSwapEffect, run_alive _ ha]
  dsimp only
  rw [view_n, h1, h2]
  rfl

theorem plainGlb {f : Fld} (h : f.blk = .GLB ∧ 0x100 ≤ f.off ∧ f.off < 4096 ∧ f.lo < 32) : Plain (f.key 0 0) := by
  obtain ⟨hb, h1, h2, h3⟩ := h
  refine ⟨by rw [key_off f 0 0 h2 h3]; exact h1, ?_⟩
  rw [key_page f 0 h2 h3, hb]
  decide

theorem shows_extendFree {w : Work} {f : Fld} {v i j : Nat} (k : Nat) (h : Shows w f v i j) : Shows (w.extendFree k) f v i j := h

theorem extendFree_node (w : Work) (k : Nat) : (w.extendFree k).n.cl = w.n.cl ∧ (w.extendFree k).n.qa = w.n.qa ∧ (w.extendFree k).n.st = w.n.st ∧ (w.extendFree k).n.ks = w.n.ks :=
  ⟨rfl, rfl, rfl, rfl⟩

/-- A register that a swap sets stays through its report. -/
theorem swapped_shows (w : Work) (p : PendSwap) {f : Fld} {v i : Nat} (hp : Plain (f.key i 0))
    (h : Shows (((w.moveSlot p.retire p.activate).set Reg.CL_SPARE 1 p.retire).set (clSpareFld p.field) p.retire) f v i 0) : Shows (swapped w p) f v i 0 := by
  unfold swapped
  generalize Work.set _ (clSpareFld p.field) _ _ _ = u at *
  exact shows_extendFree 5 ((reports_log u _).shows hp h)

theorem swapped_reads {s : State} (hc : Canonical s) (w : Work) (p : PendSwap) (h : p.retire < 26 ∧ p.retire ≠ p.activate) :
    rd (s.close (swapped w p)) Reg.CL_SLOT p.activate = w.get Reg.CL_SLOT p.retire % 2 ^ Reg.CL_SLOT.width ∧ rd (s.close (swapped w p)) Reg.CL_ACTIVE p.activate = 1 ∧
    rd (s.close (swapped w p)) Reg.CL_ACTIVE p.retire = 0 ∧ rd (s.close (swapped w p)) Reg.CL_SPARE p.retire = 1 ∧
    rd (s.close (swapped w p)) (clSpareFld p.field) = p.retire := by
  obtain ⟨hlt, hne⟩ := h
  obtain ⟨h1, h2, h3⟩ := slotGiven_shows w hne
  have hrep := moveSlot_reports w p.retire p.activate
  have hcl : ∀ f ∈ slotFlds, ∀ i, Plain (f.key i 0) := fun f hf i => by
    have hall : ∀ f ∈ slotFlds, 0x100 ≤ f.off ∧ f.off < 4096 ∧ f.lo < 32 ∧ 0xB < f.blk.page := by decide
    exact plain_high (hall f hf) i 0
  have hglb : ∀ g ∈ [Reg.GLB_CL_SPARE_A, Reg.GLB_CL_SPARE_B], (g.blk = .GLB ∧ 0x100 ≤ g.off ∧ g.off < 4096 ∧ g.lo < 32) ∧ g.width = 5 ∧ ∀ f ∈ slotFlds, Apart g f = true := by decide
  obtain ⟨g1, g2, g3⟩ := hglb _ (clSpareFld_mem p.field)
  have hthen : ∀ f ∈ slotFlds, ∀ v i, (f ≠ Reg.CL_SPARE ∨ i ≠ p.retire) → Shows (slotGiven w p.retire p.activate) f v i 0 → rd (s.close (swapped w p)) f i = v := by
    intro f hf v i hi hs
    refine (swapped_shows w p (hcl f hf i) (((hrep.shows (hcl f hf i) hs).set _ _ _ _ ?_).set _ _ _ _ (key_ne_of_apart (g3 f hf) _ _ _ _))).rd hc.1
    exact cl_key_ne (by decide) hf (hi.imp Ne.symm Ne.symm)
  refine ⟨hthen _ (by decide) _ _ (.inl (by decide)) h1, hthen _ (by decide) _ _ (.inl (by decide)) h2, hthen _ (by decide) _ _ (.inl (by decide)) h3, ?_, ?_⟩
  · exact (swapped_shows w p (hcl _ (by decide) _) ((shows_set _ Reg.CL_SPARE 1 p.retire 0).set _ _ _ _ (key_ne_of_apart (g3 _ (by decide)) _ _ _ _))).rd hc.1
  · have hs := (swapped_shows w p (plainGlb g1) (shows_set _ (clSpareFld p.field) p.retire 0 0)).rd hc.1
    rw [hs, g2]
    omega

theorem swapped_swaps (w : Work) (p : PendSwap) : (swapped w p).n.cl = w.n.cl := by
  have h1 : (w.moveSlot p.retire p.activate).n.cl = w.n.cl := (moveSlot_reports w p.retire p.activate).n_cl.trans (congrArg Node.cl (slotGiven_n w p.retire p.activate))
  unfold swapped
  rw [← h1]
  generalize w.moveSlot p.retire p.activate = v
  generalize hu : Work.set (v.set _ _ _ _) (clSpareFld p.field) _ _ _ = u
  have hcl : u.n.cl = v.n.cl := by
    rw [← hu, set_n, set_n]
  exact (extendFree_node _ 5).1.trans ((reports_log u _).n_cl.trans hcl)

theorem due_swap {s : State} {p : PendSwap} (ha : s.alive = true) (hc : Canonical s) (hs : s.node.cl.swaps = [p]) (hr : s.view.reached p.effect = true)
    (h : p.retire < 26 ∧ p.activate < 26 ∧ p.retire ≠ p.activate) : ∃ t, exec .clusterSwapEffect s = .next t ∧ t.node.cl.swaps = [] ∧
      rd t Reg.CL_SLOT p.activate = rd s Reg.CL_SLOT p.retire % 2 ^ Reg.CL_SLOT.width ∧ rd t Reg.CL_ACTIVE p.activate = 1 ∧ rd t Reg.CL_ACTIVE p.retire = 0 ∧
      rd t Reg.CL_SPARE p.retire = 1 ∧ rd t (clSpareFld p.field) = p.retire := by
  obtain ⟨h1, -, h3⟩ := h
  obtain ⟨r1, r2, r3, r4, r5⟩ := swapped_reads hc { s.view with n.cl.swaps := [] } p ⟨h1, h3⟩
  refine ⟨_, swap_run ha hs hr, ?_, r1, r2, r3, r4, r5⟩
  rw [close_node, swapped_swaps]

/-! ## Control cores -/

theorem bitOf_testBit (v i : Nat) : bitOf v i = v.testBit i := by
  rw [bitOf, Nat.testBit_eq_decide_div_mod_eq]

/-- A core that a spare of field `f` replaces. -/
def coreEngaged (w : Work) (f : Fld) (c : Nat) : Work :=
  ((((w.set f 7).set Reg.GLB_RUNNING ((w.set f 7).get Reg.GLB_RUNNING ||| 2 ^ c)).report { code := 0x4108, page := 0, detail := c }).setSpareInUse 0 true).extendFree 5

/-- A core that has stopped. -/
def coreStopped (w : Work) (core : Nat) : Work :=
  (w.set Reg.GLB_RUNNING (w.get Reg.GLB_RUNNING &&& (63 - 2 ^ core))).set Reg.GLB_FAULTED
    ((w.set Reg.GLB_RUNNING (w.get Reg.GLB_RUNNING &&& (63 - 2 ^ core))).get Reg.GLB_FAULTED ||| 2 ^ core)

section
variable (w : Work) {core : Nat} (h5 : core ≤ 5)

theorem coreStopped_shows : Shows (coreStopped w core) Reg.GLB_RUNNING ((w.get Reg.GLB_RUNNING &&& (63 - 2 ^ core)) % 2 ^ 6) 0 0 ∧
    Shows (coreStopped w core) Reg.GLB_FAULTED ((w.get Reg.GLB_FAULTED ||| 2 ^ core) % 2 ^ 6) 0 0 := by
  unfold coreStopped
  rw [get_set_apart _ (by decide)]
  exact ⟨(shows_set _ Reg.GLB_RUNNING _ 0 0).set _ _ _ _ (key_ne_of_apart (by decide) _ _ _ _), shows_set _ Reg.GLB_FAULTED _ 0 0⟩

include h5

/-- Its bit of FAULTED is set, its bit of RUNNING clear. -/
theorem stopped_bits (v : Nat) : ((v ||| 2 ^ core) % 2 ^ 6).testBit core = true ∧ ((v &&& (63 - 2 ^ core)) % 2 ^ 6).testBit core = false := by
  have h63 : (63 - 2 ^ core).testBit core = false := by
    interval_cases core <;> decide
  rw [Nat.testBit_mod_two_pow, Nat.testBit_mod_two_pow, Nat.testBit_or, Nat.testBit_and, h63, Nat.testBit_two_pow_self, Bool.or_true, Bool.and_true, Bool.and_false, Bool.and_false]
  exact ⟨decide_eq_true (by omega), rfl⟩

end

section
variable (w : Work) {f : Fld} (hf : f = Reg.GLB_CORE_SPARE_A ∨ f = Reg.GLB_CORE_SPARE_B) {c : Nat} (hc : c < 6)
include hf

theorem coreSpare_fld : (f.blk = .GLB ∧ 0x100 ≤ f.off ∧ f.off < 4096 ∧ f.lo < 32) ∧ f.width = 3 ∧ Apart f Reg.GLB_RUNNING = true ∧ Apart Reg.GLB_RUNNING f = true ∧ Apart f Reg.GLB_FAULTED = true := by
  rcases hf with rfl | rfl
  · decide
  · decide

theorem coreEngaged_shows {r v : Nat} (hr : Shows w Reg.GLB_RUNNING r 0 0) (hv : Shows w Reg.GLB_FAULTED v 0 0) :
    Shows (coreEngaged w f c) Reg.GLB_RUNNING ((r ||| 2 ^ c) % 2 ^ 6) 0 0 ∧ Shows (coreEngaged w f c) Reg.GLB_FAULTED v 0 0 ∧ Shows (coreEngaged w f c) f 7 0 0 := by
  obtain ⟨f1, f2, f3, f4, f5⟩ := coreSpare_fld hf
  have hget : (w.set f 7).get Reg.GLB_RUNNING = r := get_of_shows (hr.set _ _ _ _ (key_ne_of_apart f3 _ _ _ _))
  have h7 := shows_set w f 7 0 0
  rw [f2] at h7
  unfold coreEngaged
  rw [hget]
  have h1 := shows_set (w.set f 7) Reg.GLB_RUNNING (r ||| 2 ^ c) 0 0
  have h2 := (hv.set f 7 0 0 (key_ne_of_apart f5 _ _ _ _)).set Reg.GLB_RUNNING (r ||| 2 ^ c) 0 0 (key_ne_of_apart (by decide) _ _ _ _)
  have h3 := h7.set Reg.GLB_RUNNING (r ||| 2 ^ c) 0 0 (key_ne_of_apart f4 _ _ _ _)
  generalize (w.set f 7).set Reg.GLB_RUNNING (r ||| 2 ^ c) = u at *
  have hu := (reports_report u { code := 0x4108, page := 0, detail := c }).trans (reports_setSpareInUse _ 0 true)
  exact ⟨shows_extendFree 5 (hu.shows (plainGlb (by decide)) h1), shows_extendFree 5 (hu.shows (plainGlb (by decide)) h2), shows_extendFree 5 (hu.shows (plainGlb f1) h3)⟩

end

/-- A core that a held spare of field `f` takes the place of. -/
theorem engaged_reads {s : State} (hcan : Canonical s) (w : Work) {core c : Nat} (h5 : core ≤ 5) (hc : c < 6) (hne : core ≠ c) {f : Fld}
    (hf : f = Reg.GLB_CORE_SPARE_A ∨ f = Reg.GLB_CORE_SPARE_B) {t : State} (ht : t = s.close (coreEngaged (coreStopped w core) f c)) :
    bitOf (rd t Reg.GLB_FAULTED) core = true ∧ bitOf (rd t Reg.GLB_RUNNING) core = false ∧ rd t f = 7 ∧ bitOf (rd t Reg.GLB_RUNNING) c = true := by
  obtain ⟨h1, h2⟩ := coreStopped_shows w (core := core)
  obtain ⟨e1, e2, e3⟩ := coreEngaged_shows (coreStopped w core) hf (c := c) h1 h2
  obtain ⟨b1, -⟩ := stopped_bits h5 (w.get Reg.GLB_FAULTED)
  obtain ⟨-, b2⟩ := stopped_bits h5 (w.get Reg.GLB_RUNNING)
  subst ht
  rw [e1.rd hcan.1, e2.rd hcan.1, bitOf_testBit, bitOf_testBit, bitOf_testBit]
  refine ⟨b1, ?_, e3.rd hcan.1, ?_⟩
  · rw [Nat.testBit_mod_two_pow, Nat.testBit_or, b2, Nat.testBit_two_pow_of_ne hne.symm]
    simp
  · rw [Nat.testBit_mod_two_pow, Nat.testBit_or, Nat.testBit_two_pow_self, Bool.or_true, Bool.and_true]
    exact decide_eq_true hc

theorem core_fault (s : State) (core : Nat) (ha : s.alive = true) (hcan : Canonical s) (h5 : core ≤ 5)
    (hne : core ≠ rd s Reg.GLB_CORE_SPARE_A ∧ core ≠ rd s Reg.GLB_CORE_SPARE_B) : ∃ t, exec (.controlCoreFault core) s = .next t ∧
      bitOf (rd t Reg.GLB_FAULTED) core = true ∧ bitOf (rd t Reg.GLB_RUNNING) core = false ∧
      (rd s Reg.GLB_CORE_SPARE_A < 6 → rd t Reg.GLB_CORE_SPARE_A = 7 ∧ bitOf (rd t Reg.GLB_RUNNING) (rd s Reg.GLB_CORE_SPARE_A) = true) ∧
      (6 ≤ rd s Reg.GLB_CORE_SPARE_A → rd s Reg.GLB_CORE_SPARE_B < 6 → rd t Reg.GLB_CORE_SPARE_B = 7 ∧ bitOf (rd t Reg.GLB_RUNNING) (rd s Reg.GLB_CORE_SPARE_B) = true) := by
  obtain ⟨hA, hB⟩ := hne
  have hrun : exec (.controlCoreFault core) s = .next (s.close
      (if rd s Reg.GLB_CORE_SPARE_A < 6 then coreEngaged (coreStopped s.view core) Reg.GLB_CORE_SPARE_A (rd s Reg.GLB_CORE_SPARE_A)
       else if rd s Reg.GLB_CORE_SPARE_B < 6 then coreEngaged (coreStopped s.view core) Reg.GLB_CORE_SPARE_B (rd s Reg.GLB_CORE_SPARE_B) else coreStopped s.view core)) := by
    have hn : ¬ (core = s.view.get Reg.GLB_CORE_SPARE_A ∨ core = s.view.get Reg.GLB_CORE_SPARE_B ∨ 5 < core) := by
      rintro (h | h | h)
      · exact hA h
      · exact hB h
      · omega
    rw [exec_coreFault, execControlCoreFault, run_alive _ ha]
    dsimp only
    rw [if_neg hn]
    rfl
  refine ⟨_, hrun, ?_⟩
  by_cases h1 : rd s Reg.GLB_CORE_SPARE_A < 6
  · rw [if_pos h1]
    obtain ⟨r1, r2, r3, r4⟩ := engaged_reads hcan s.view h5 h1 hA (.inl rfl) rfl
    exact ⟨r1, r2, fun _ => ⟨r3, r4⟩, fun h => absurd h (by omega)⟩
  · rw [if_neg h1]
    by_cases h2 : rd s Reg.GLB_CORE_SPARE_B < 6
    · rw [if_pos h2]
      obtain ⟨r1, r2, r3, r4⟩ := engaged_reads hcan s.view h5 h2 hB (.inr rfl) rfl
      exact ⟨r1, r2, fun h => absurd h h1, fun _ _ => ⟨r3, r4⟩⟩
    · rw [if_neg h2]
      obtain ⟨e1, e2⟩ := coreStopped_shows s.view (core := core)
      obtain ⟨b1, -⟩ := stopped_bits h5 (s.view.get Reg.GLB_FAULTED)
      obtain ⟨-, b2⟩ := stopped_bits h5 (s.view.get Reg.GLB_RUNNING)
      rw [e1.rd hcan.1, e2.rd hcan.1, bitOf_testBit, bitOf_testBit]
      exact ⟨b1, b2, fun h => absurd h h1, fun _ h => absurd h h2⟩

/-! ## Captures of one page and registers of another -/

theorem blk_key_ne {f : Fld} (h : f.blk = .BLK ∧ f.off < 4096 ∧ f.lo < 32) {page k : Nat} (hk : k / 2 ^ 37 ≠ page) : f.key page 0 ≠ k := by
  obtain ⟨hb, ho, hl⟩ := h
  rintro rfl
  rw [key_page f page ho hl, hb] at hk
  exact hk (Nat.zero_add page)

/-- The registers of its page that a capture writes. -/
def capFlds : List Fld := [Reg.BLK_ERR_CNT, Reg.BLK_ERR_CAP0, Reg.BLK_ERR_CAP1, Reg.BLK_ERR_CAP2, Reg.BLK_ERR_CAP3, Reg.BLK_ERROR, Reg.BLK_ISR, Reg.BLK_TICK]

/-- A capture writes those and the prompt book's page alone (R410, R490). -/
theorem sameAt_capture (w : Work) (e : Ev) {k : Nat} (hp : ∀ f ∈ capFlds, f.key e.page 0 ≠ k) (hl : k / 2 ^ 37 ≠ 0xB) : SameAt k w (w.capture e) := by
  have hi : ∀ u b, SameAt k u (Work.isr u e.page b) := fun u b => sameAt_isr u e.page b (hp _ (by decide)) (hp _ (by decide))
  have h0 : SameAt k w (w.count Reg.BLK_ERR_CNT 1 e.page) := (SameAt.refl k w).count _ _ _ _ (hp _ (by decide))
  have hs : ∀ {f : Fld} (v : Nat) {u : Work}, f ∈ capFlds → SameAt k w u → SameAt k w (u.set f v e.page) := fun v _ hf h => h.set _ _ _ _ (hp _ hf)
  unfold Work.capture
  dsimp only
  split
  · have h1 := h0.trans (hi _ 1)
    exact (h1.trans (sameAt_log _ _ hl)).ite h1
  · exact ((hs _ (by decide) (hs _ (by decide) (hs _ (by decide) (hs _ (by decide) (hs _ (by decide) h0))))).trans (hi _ 0)).trans (sameAt_log _ _ hl)

theorem capFlds_page {page k : Nat} (hk : k / 2 ^ 37 ≠ page) : ∀ f ∈ capFlds, f.key page 0 ≠ k := fun f hf =>
  blk_key_ne ((by decide : ∀ f ∈ capFlds, f.blk = .BLK ∧ f.off < 4096 ∧ f.lo < 32) f hf) hk

theorem sameAt_report (w : Work) (e : Ev) {k : Nat} (hp : k / 2 ^ 37 ≠ e.page) (hl : k / 2 ^ 37 ≠ 0xB) : SameAt k w (w.report e) := by
  unfold Work.report
  split
  · exact sameAt_capture w e (capFlds_page hp) hl
  · exact sameAt_log w _ hl

/-- The capture of an address that finds its page armed (R490). -/
theorem capture_address (w : Work) (e : Ev) (hp : e.page ≠ 0xB) (hpart : e.part = none) (haddr : addressCode e.code = true)
    (ha : bitOf (w.get Reg.BLK_ISR e.page) 0 = false) :
    Shows (w.capture e) Reg.BLK_ERR_CAP0 ((e.code + e.status % 256 * 2 ^ 16) % 2 ^ 32) e.page 0 ∧
    Shows (w.capture e) Reg.BLK_ERR_CAP2 (e.arg / 256 % 2 ^ 32) e.page 0 ∧
    Shows (w.capture e) Reg.BLK_ERR_CAP3 (e.detail % 2 ^ 32) e.page 0 := by
  have ne : ∀ f g : Fld, CapFld f → g.off < 4096 ∧ g.lo < 32 → g.off ≠ f.off → g.key e.page 0 ≠ f.key e.page 0 :=
    fun f g hf => hf.key_ne e.page
  unfold Work.capture
  simp only [count_isr_get, ha, hpart, haddr, Bool.false_eq_true, if_false, if_true, Nat.add_zero]
  refine ⟨(CapFld.filled (by decide) _ _ hp).shows ?_, (CapFld.filled (by decide) _ _ hp).shows ?_, (CapFld.filled (by decide) _ _ hp).shows (shows_set _ _ _ _ _)⟩
  · exact (((shows_set _ _ _ _ _).set _ _ _ _ (ne _ _ (by decide) (by decide) (by decide))).set
      _ _ _ _ (ne _ _ (by decide) (by decide) (by decide))).set _ _ _ _ (ne _ _ (by decide) (by decide) (by decide))
  · exact (shows_set _ _ _ _ _).set _ _ _ _ (ne _ _ (by decide) (by decide) (by decide))

/-! ## A faulted cluster -/

/-- A cluster marked faulted and out of service. -/
def marked (w : Work) (c : Nat) : Work := ((w.set Reg.CL_FAULTED 1 c).isr (0x30 + c) 16).setEnable (0x30 + c) false

/-- The report of a fault. -/
def faultEv (c cause bufOff : Nat) : Ev := { code := 0x4102, page := 0x30 + c, arg := 0xF000000000 + c * 0x800000 + bufOff, detail := cause }

/-- A faulted cluster that was in service: its slot has a spare, or none. -/
def slotLeft (w : Work) (c : Nat) : Work :=
  if !w.clusterActive c then w
  else match w.freeSpareCluster c with
    | none => (w.set Reg.CL_ACTIVE 0 c).report { code := 0x410A, page := 0, detail := ((List.range 26).filter fun k => (w.set Reg.CL_ACTIVE 0 c).flag Reg.CL_ACTIVE k).length }
    | some sp =>
      let own := w.n.cl.swaps.find? fun p => p.retire = c
      let gone := fun p : PendSwap => decide (p.activate = sp) || own = some p
      (w.n.cl.swaps.filter gone).foldl (fun w p => w.capture { code := 0x4104, page := 0, arg := 0x140, detail := p.retire })
        { w with n.cl.faultSwaps := w.n.cl.faultSwaps ++ [(c, sp)], n.cl.swaps := w.n.cl.swaps.filter fun p => !gone p }

theorem faultCluster_eq {w : Work} {c : Nat} (h : w.flag Reg.CL_FAULTED c = false) (cause bufOff : Nat) :
    w.faultCluster c cause bufOff = slotLeft ((marked w c).report (faultEv c cause bufOff)) c := by
  unfold Work.faultCluster
  rw [h, if_neg (by decide)]
  rfl

theorem report_fault (w : Work) {c : Nat} (h : c < 26) (cause bufOff : Nat) : w.report (faultEv c cause bufOff) = w.capture (faultEv c cause bufOff) := by
  unfold Work.report
  have h1 : (0x4102 : Nat) ∉ [0x4304, 0x4702, 0x4A01, 0x4A03, 0x4D02] := by decide
  have h2 : 2 ≤ severity 0x4102 := by decide
  have h3 : 0x30 + c < 0x140 := by omega
  exact if_pos ⟨h3, h1, .inl h2⟩

/-- What a slot left behind changes: the pages of the node and of the prompt book, CL_ACTIVE of the cluster, and the swaps. -/
theorem slotLeft_same (w : Work) (c : Nat) {k : Nat} (h0 : k / 2 ^ 37 ≠ 0) (hl : k / 2 ^ 37 ≠ 0xB) (ha : Reg.CL_ACTIVE.key c 0 ≠ k) : SameAt k w (slotLeft w c) := by
  unfold slotLeft
  split
  · rfl
  · split
    · exact ((SameAt.refl k w).set _ _ _ _ ha).trans (sameAt_report _ _ h0 hl)
    · dsimp only
      generalize w.n.cl.swaps.filter (fun p : PendSwap => _ || _) = l
      generalize hv : ({ w with n.cl.faultSwaps := _, n.cl.swaps := _ } : Work) = v
      have hwv : SameAt k w v := by
        rw [← hv]
        rfl
      clear hv
      induction l generalizing v with
      | nil => exact hwv
      | cons p l ih => exact ih _ (hwv.trans (sameAt_capture _ _ (capFlds_page h0) hl))

/-- What it changes of the node's structures: the swaps. -/
theorem slotLeft_n (w : Work) (c : Nat) : (slotLeft w c).n.qa = w.n.qa ∧ (slotLeft w c).n.cl.ueInSheet = w.n.cl.ueInSheet ∧ (slotLeft w c).wiped = w.wiped := by
  unfold slotLeft
  split
  · exact ⟨rfl, rfl, rfl⟩
  · split
    · have hr := reports_report (w.set Reg.CL_ACTIVE 0 c) { code := 0x410A, page := 0, detail := ((List.range 26).filter fun k => (w.set Reg.CL_ACTIVE 0 c).flag Reg.CL_ACTIVE k).length }
      exact ⟨hr.n_qa, congrArg Clusters.ueInSheet hr.n_cl, hr.wiped⟩
    · dsimp only
      generalize w.n.cl.swaps.filter (fun p : PendSwap => _ || _) = l
      generalize hv : ({ w with n.cl.faultSwaps := _, n.cl.swaps := _ } : Work) = v
      have h1 : v.n.qa = w.n.qa ∧ v.n.cl.ueInSheet = w.n.cl.ueInSheet ∧ v.wiped = w.wiped := by
        rw [← hv]
        exact ⟨rfl, rfl, rfl⟩
      clear hv
      induction l generalizing v with
      | nil => exact h1
      | cons p l ih => exact ih _ ⟨(capture_qa ..).trans h1.1, (congrArg Clusters.ueInSheet (capture_cl ..)).trans h1.2.1, (capture_wiped ..).trans h1.2.2⟩

theorem slotLeft_none {w : Work} {c : Nat} (h1 : w.clusterActive c = true) (h2 : w.freeSpareCluster c = none) :
    ∃ e : Ev, e.page = 0 ∧ slotLeft w c = (w.set Reg.CL_ACTIVE 0 c).report e := by
  unfold slotLeft
  rw [h1, if_neg (by decide), h2]
  exact ⟨_, rfl, rfl⟩

theorem slotLeft_some {w : Work} {c sp : Nat} (h1 : w.clusterActive c = true) (h2 : w.freeSpareCluster c = some sp) :
    (slotLeft w c).n.cl.faultSwaps = w.n.cl.faultSwaps ++ [(c, sp)] := by
  unfold slotLeft
  rw [h1, if_neg (by decide), h2]
  dsimp only
  generalize w.n.cl.swaps.filter (fun p : PendSwap => _ || _) = l
  generalize hv : ({ w with n.cl.faultSwaps := _, n.cl.swaps := _ } : Work) = v
  have h : v.n.cl.faultSwaps = w.n.cl.faultSwaps ++ [(c, sp)] := by
    rw [← hv]
  clear hv
  induction l generalizing v with
  | nil => exact h
  | cons p l ih => exact ih _ ((congrArg Clusters.faultSwaps (capture_cl ..)).trans h)

theorem isr_low (w : Work) (page : Nat) {b : Nat} (hb : 0 < b) : bitOf ((w.isr page b).get Reg.BLK_ISR page) 0 = bitOf (w.get Reg.BLK_ISR page) 0 := by
  unfold Work.isr
  dsimp only
  split
  · rfl
  · have hs : Shows ((w.set Reg.BLK_ISR (w.get Reg.BLK_ISR page + 2 ^ b) page).set Reg.BLK_TICK (w.set Reg.BLK_ISR (w.get Reg.BLK_ISR page + 2 ^ b) page).now32 page)
        Reg.BLK_ISR ((w.get Reg.BLK_ISR page + 2 ^ b) % 2 ^ 32) page 0 :=
      (shows_set w Reg.BLK_ISR _ page 0).set _ _ _ _ (key_ne_of_off _ _ _ _ (by decide) (by decide) (by decide))
    have hv : bitOf ((w.get Reg.BLK_ISR page + 2 ^ b) % 2 ^ 32) 0 = bitOf (w.get Reg.BLK_ISR page) 0 := by
      obtain ⟨n, rfl⟩ : ∃ n, b = n + 1 := ⟨b - 1, by omega⟩
      unfold bitOf
      rw [pow_succ]
      congr 2
      omega
    split
    · rw [get_of_shows ((sameAt_signal _ _ _ _).shows hs), hv]
    · rw [get_of_shows hs, hv]

theorem setEnable_armed (w : Work) (page : Nat) (b : Bool) : bitOf ((w.setEnable page b).get Reg.BLK_ISR page) 0 = bitOf (w.get Reg.BLK_ISR page) 0 := by
  unfold Work.setEnable
  split
  · rfl
  · rw [isr_low _ _ (by decide)]
    exact congrArg (bitOf · 0) (get_setFlag_apart w (by decide) b page 0 page 0)

theorem setEnable_off {s : State} {w : Work} {page : Nat} (h : SameAt (Reg.BLK_ENABLE.key page 0) s.view w) (hr : w.regs = s.regs) :
    Reads s (w.setEnable page false) Reg.BLK_ENABLE 0 page 0 := by
  unfold Work.setEnable
  split
  · next hf =>
    refine reads_of_get h hr ?_
    unfold Work.flag at hf
    simpa using hf
  · refine .inl ((sameAt_isr _ page 3 ?_ ?_).shows (shows_setFlag w Reg.BLK_ENABLE false page 0 (by decide)))
    · exact key_ne_of_off _ _ _ _ (by decide) (by decide) (by decide)
    · exact key_ne_of_off _ _ _ _ (by decide) (by decide) (by decide)

section
variable (w : Work) (c : Nat)

theorem marked_reports : Reports (w.set Reg.CL_FAULTED 1 c) (marked w c) := (reports_isr _ _ _).trans (reports_setEnable _ _ _)

theorem marked_shows : Shows (marked w c) Reg.CL_FAULTED 1 c 0 := (marked_reports w c).shows (plain_high (by decide) c 0) (shows_set w Reg.CL_FAULTED 1 c 0)

theorem marked_armed : bitOf ((marked w c).get Reg.BLK_ISR (0x30 + c)) 0 = bitOf (w.get Reg.BLK_ISR (0x30 + c)) 0 := by
  unfold marked
  rw [setEnable_armed, isr_low _ _ (by decide), get_set_apart _ (by decide)]

/-- The report of the fault, and all before it. -/
def faultSeen (w : Work) (c cause bufOff : Nat) : Work := (marked w c).report (faultEv c cause bufOff)

theorem faultSeen_reports (cause bufOff : Nat) : Reports (w.set Reg.CL_FAULTED 1 c) (faultSeen w c cause bufOff) := (marked_reports w c).trans (reports_report _ _)

/-- A plain register but CL_FAULTED of the cluster stays. -/
theorem faultSeen_get (cause bufOff : Nat) {f : Fld} {i j : Nat} (hp : Plain (f.key i j)) (hf : Reg.CL_FAULTED.key c 0 ≠ f.key i j) :
    (faultSeen w c cause bufOff).get f i j = w.get f i j :=
  ((faultSeen_reports w c cause bufOff).get hp).trans ((sameAt_set w _ _ _ _ hf).get (set_regs ..))

theorem faultSeen_shows (cause bufOff : Nat) : Shows (faultSeen w c cause bufOff) Reg.CL_FAULTED 1 c 0 :=
  (faultSeen_reports w c cause bufOff).shows (plain_high (by decide) c 0) (shows_set w Reg.CL_FAULTED 1 c 0)

theorem faultSeen_n (cause bufOff : Nat) : (faultSeen w c cause bufOff).n.cl = w.n.cl ∧ (faultSeen w c cause bufOff).n.qa = w.n.qa :=
  ⟨(faultSeen_reports w c cause bufOff).n_cl, (faultSeen_reports w c cause bufOff).n_qa⟩

theorem faultSeen_active (cause bufOff : Nat) : (faultSeen w c cause bufOff).clusterActive c = w.clusterActive c := by
  unfold Work.clusterActive Work.flag
  rw [faultSeen_get w c cause bufOff (plain_high (by decide) c 0) (key_ne_of_apart (by decide) _ _ _ _),
    faultSeen_get w c cause bufOff (plain_high (by decide) c 0) (key_ne_of_apart (by decide) _ _ _ _)]

end

/-! ### The spare that is free -/

theorem find_but {α : Type} [DecidableEq α] {p q : α → Bool} {y : α} (hq : q y = false) (h : ∀ x, x ≠ y → q x = p x) (l : List α) :
    (l.find? p = none → l.find? q = none) ∧ (∀ x, l.find? p = some x → x ≠ y → l.find? q = some x) := by
  induction l with
  | nil => exact ⟨fun _ => rfl, fun _ h => by cases h⟩
  | cons a l ih =>
    obtain ⟨ih1, ih2⟩ := ih
    by_cases ha : p a = true
    · refine ⟨fun hn => ?_, fun x hx hne => ?_⟩
      · rw [List.find?_cons_of_pos ha] at hn
        cases hn
      · rw [List.find?_cons_of_pos ha] at hx
        cases hx
        rw [List.find?_cons_of_pos ((h _ hne).trans ha)]
    · have hqa : ¬ q a = true := by
        by_cases hay : a = y
        · rw [hay, hq]
          decide
        · rw [h a hay]
          exact ha
      rw [List.find?_cons_of_neg ha, List.find?_cons_of_neg hqa]
      exact ⟨ih1, ih2⟩

theorem freeSpare_after (w : Work) (c cause bufOff : Nat) : (w.freeSpareCluster c = none → (faultSeen w c cause bufOff).freeSpareCluster c = none) ∧
    (∀ sp, w.freeSpareCluster c = some sp → sp ≠ c → (faultSeen w c cause bufOff).freeSpareCluster c = some sp) := by
  have hgl : ∀ i, (faultSeen w c cause bufOff).get (clSpareFld i) = w.get (clSpareFld i) := fun i => by
    have hall : ∀ g ∈ [Reg.GLB_CL_SPARE_A, Reg.GLB_CL_SPARE_B], (g.blk = .GLB ∧ 0x100 ≤ g.off ∧ g.off < 4096 ∧ g.lo < 32) ∧ Apart Reg.CL_FAULTED g = true := by decide
    obtain ⟨h1, h2⟩ := hall _ (clSpareFld_mem i)
    exact faultSeen_get w c cause bufOff (plainGlb h1) (key_ne_of_apart h2 _ _ _ _)
  have hcl : (faultSeen w c cause bufOff).n.cl = w.n.cl := (faultSeen_n w c cause bufOff).1
  unfold Work.freeSpareCluster
  have hl : ([0, 1].map fun i => (faultSeen w c cause bufOff).get (clSpareFld i)) = [0, 1].map fun i => w.get (clSpareFld i) := List.map_congr_left fun i _ => hgl i
  rw [hl, hcl]
  refine find_but (y := c) ?_ (fun x hx => ?_) _
  · have hfl : (faultSeen w c cause bufOff).flag Reg.CL_FAULTED c = true := by
      unfold Work.flag
      rw [get_of_shows (faultSeen_shows w c cause bufOff)]
      rfl
    rw [hfl]
    simp
  · unfold Work.flag
    rw [faultSeen_get w c cause bufOff (plain_high (by decide) x 0) (key_ne_of_apart (by decide) _ _ _ _),
      faultSeen_get w c cause bufOff (plain_high (by decide) x 0) (key_ne_of_apart (by decide) _ _ _ _),
      faultSeen_get w c cause bufOff (plain_high (by decide) x 0) (key_ne_of_inst rfl (fun e => hx e.symm) (by decide) (by decide))]

/-! ### The cluster fault -/

theorem fault_fills (w : Work) {c : Nat} (cause bufOff : Nat) (hc : c < 26) (h : bitOf (w.get Reg.BLK_ISR (0x30 + c)) 0 = false) :
    Shows (w.capture (faultEv c cause bufOff)) Reg.BLK_ERR_CAP0 0x4102 (0x30 + c) 0 ∧
    Shows (w.capture (faultEv c cause bufOff)) Reg.BLK_ERR_CAP2 ((0xF000000000 + c * 0x800000 + bufOff) / 256 % 2 ^ 32) (0x30 + c) 0 ∧
    Shows (w.capture (faultEv c cause bufOff)) Reg.BLK_ERR_CAP3 (cause % 2 ^ 32) (0x30 + c) 0 := by
  have hpg : (faultEv c cause bufOff).page = 0x30 + c := rfl
  have hcode : (faultEv c cause bufOff).code = 0x4102 := rfl
  have hst : (faultEv c cause bufOff).status = 0 := rfl
  have harg : (faultEv c cause bufOff).arg = 0xF000000000 + c * 0x800000 + bufOff := rfl
  have hdet : (faultEv c cause bufOff).detail = cause := rfl
  have hpart : (faultEv c cause bufOff).part = none := rfl
  generalize faultEv c cause bufOff = e at *
  have hall := capture_address w e (by omega) hpart (by rw [hcode]; decide) (by rw [hpg]; exact h)
  rw [hpg, hcode, hst, harg, hdet] at hall
  exact hall

section
variable {s : State} (hcan : Canonical s) {c : Nat} (cause bufOff : Nat) (hc : c < 26)
include hc

/-- A register of the cluster's own page but CL_ACTIVE stays once the fault is seen. -/
theorem slotLeft_own (w : Work) {f : Fld} (hf : f.off < 4096 ∧ f.lo < 32) {i : Nat} (hi : f.blk.page + i = 0x30 + c) (ha : Apart Reg.CL_ACTIVE f = true) :
    SameAt (f.key i 0) w (slotLeft w c) := by
  obtain ⟨ho, hl⟩ := hf
  refine slotLeft_same w c ?_ ?_ (key_ne_of_apart ha _ _ _ _)
  · rw [key_page f i ho hl]
    omega
  · rw [key_page f i ho hl]
    omega

include hcan

theorem fault_shows : rd (s.close (slotLeft (faultSeen s.view c cause bufOff) c)) Reg.CL_FAULTED c = 1 ∧
    rd (s.close (slotLeft (faultSeen s.view c cause bufOff) c)) Reg.BLK_ENABLE (0x30 + c) = 0 := by
  refine ⟨((slotLeft_own hc _ (by decide) rfl (by decide)).shows (faultSeen_shows s.view c cause bufOff)).rd hcan.1, ?_⟩
  have h0 : SameAt (Reg.BLK_ENABLE.key (0x30 + c) 0) s.view (s.view.set Reg.CL_FAULTED 1 c) := sameAt_set _ _ _ _ _ (key_ne_of_apart (by decide) _ _ _ _)
  have h1 : SameAt (Reg.BLK_ENABLE.key (0x30 + c) 0) s.view ((s.view.set Reg.CL_FAULTED 1 c).isr (0x30 + c) 16) :=
    h0.trans (sameAt_isr _ _ _ (key_ne_of_off _ _ _ _ (by decide) (by decide) (by decide)) (key_ne_of_off _ _ _ _ (by decide) (by decide) (by decide)))
  have h2 : Reads s (marked s.view c) Reg.BLK_ENABLE 0 (0x30 + c) 0 := setEnable_off h1 (reports_isr (s.view.set Reg.CL_FAULTED 1 c) (0x30 + c) 16).regs
  have hcap : SameAt (Reg.BLK_ENABLE.key (0x30 + c) 0) (marked s.view c) (faultSeen s.view c cause bufOff) := by
    unfold faultSeen
    rw [report_fault _ hc]
    refine sameAt_capture _ _ (fun f hf => ?_) ?_
    · have hall : ∀ f ∈ capFlds, Apart f Reg.BLK_ENABLE = true := by decide
      exact key_ne_of_apart (hall f hf) _ _ _ _
    · rw [key_page _ _ (by decide) (by decide)]
      show 0 + (0x30 + c) ≠ 0xB
      omega
  have hw : (slotLeft (faultSeen s.view c cause bufOff) c).wiped = false := by
    obtain ⟨-, -, h⟩ := slotLeft_n (faultSeen s.view c cause bufOff) c
    exact h.trans (faultSeen_reports s.view c cause bufOff).wiped
  exact ((h2.keep hcap).keep (slotLeft_own hc _ (by decide) (Nat.zero_add _) (by decide))).rd hcan hw

theorem fault_captured (h : rd s Reg.BLK_ISR (0x30 + c) % 2 = 0) : rd (s.close (slotLeft (faultSeen s.view c cause bufOff) c)) Reg.BLK_ERR_CAP0 (0x30 + c) = 0x4102 ∧
    rd (s.close (slotLeft (faultSeen s.view c cause bufOff) c)) Reg.BLK_ERR_CAP2 (0x30 + c) = (0xF000000000 + c * 0x800000 + bufOff) / 256 % 2 ^ 32 ∧
    rd (s.close (slotLeft (faultSeen s.view c cause bufOff) c)) Reg.BLK_ERR_CAP3 (0x30 + c) = cause % 2 ^ 32 := by
  have harm : bitOf ((marked s.view c).get Reg.BLK_ISR (0x30 + c)) 0 = false := by
    rw [marked_armed]
    have h' : s.view.get Reg.BLK_ISR (0x30 + c) % 2 = 0 := h
    unfold bitOf
    rw [pow_zero, Nat.div_one, h']
    rfl
  obtain ⟨c0, c2, c3⟩ := fault_fills (marked s.view c) cause bufOff hc harm
  have hseen : faultSeen s.view c cause bufOff = (marked s.view c).capture (faultEv c cause bufOff) := report_fault _ hc cause bufOff
  rw [← hseen] at c0 c2 c3
  exact ⟨((slotLeft_own hc _ (by decide) (Nat.zero_add _) (by decide)).shows c0).rd hcan.1,
    ((slotLeft_own hc _ (by decide) (Nat.zero_add _) (by decide)).shows c2).rd hcan.1,
    ((slotLeft_own hc _ (by decide) (Nat.zero_add _) (by decide)).shows c3).rd hcan.1⟩

end

theorem cluster_fault (s : State) (c cause bufOff : Nat) (ha : s.alive = true) (hcan : Canonical s) (hc : c < 26) (hf : rd s Reg.CL_FAULTED c = 0) :
    ∃ t, exec (.clusterFault c cause bufOff) s = .next t ∧ rd t Reg.CL_FAULTED c = 1 ∧ rd t Reg.BLK_ENABLE (0x30 + c) = 0 ∧
      (rd s Reg.BLK_ISR (0x30 + c) % 2 = 0 → rd t Reg.BLK_ERR_CAP0 (0x30 + c) = 0x4102 ∧
        rd t Reg.BLK_ERR_CAP2 (0x30 + c) = (0xF000000000 + c * 0x800000 + bufOff) / 256 % 2 ^ 32 ∧ rd t Reg.BLK_ERR_CAP3 (0x30 + c) = cause % 2 ^ 32) ∧
      (s.view.clusterActive c = true → s.view.freeSpareCluster c = none → rd t Reg.CL_ACTIVE c = 0) ∧
      (∀ sp ∈ s.view.freeSpareCluster c, s.view.clusterActive c = true → sp ≠ c → t.node.cl.faultSwaps = s.node.cl.faultSwaps ++ [(c, sp)]) ∧
      t.node.qa = s.node.qa := by
  have hrun : exec (.clusterFault c cause bufOff) s = .next (s.close (slotLeft (faultSeen s.view c cause bufOff) c)) := by
    rw [exec_fault, execClusterFault, run_alive _ ha]
    rw [if_pos hc, faultCluster_eq (flag_of_zero hf)]
    rfl
  obtain ⟨h1, h2⟩ := fault_shows hcan cause bufOff hc
  obtain ⟨f1, f2⟩ := freeSpare_after s.view c cause bufOff
  obtain ⟨n1, n2⟩ := faultSeen_n s.view c cause bufOff
  refine ⟨_, hrun, h1, h2, fault_captured hcan cause bufOff hc, fun hact hnone => ?_, fun sp hsp hact hne => ?_, ?_⟩
  · obtain ⟨e, he, hleft⟩ := slotLeft_none ((faultSeen_active s.view c cause bufOff).trans hact) (f1 hnone)
    rw [hleft]
    refine ((sameAt_report _ e ?_ ?_).shows (shows_set _ Reg.CL_ACTIVE 0 c 0)).rd hcan.1
    · rw [he, key_page _ _ (by decide) (by decide)]
      show 0x30 + c ≠ 0
      omega
    · rw [key_page _ _ (by decide) (by decide)]
      show 0x30 + c ≠ 0xB
      omega
  · rw [close_node, slotLeft_some ((faultSeen_active s.view c cause bufOff).trans hact) (f2 sp hsp hne), n1]
    rfl
  · rw [close_node, (slotLeft_n _ c).1, n2]
    rfl

/-! ### Errors of a cluster's buffer -/

section
variable (w : Work) {c : Nat} (cause bufOff : Nat)

theorem faultCluster_n : (w.faultCluster c cause bufOff).n.qa = w.n.qa ∧ (w.faultCluster c cause bufOff).n.cl.ueInSheet = w.n.cl.ueInSheet ∧
    (w.faultCluster c cause bufOff).wiped = w.wiped := by
  by_cases hf : w.flag Reg.CL_FAULTED c = true
  · unfold Work.faultCluster
    rw [if_pos hf]
    exact ⟨rfl, rfl, rfl⟩
  · rw [faultCluster_eq (Bool.eq_false_iff.2 hf)]
    have hn := faultSeen_n w c cause bufOff
    have hw := (faultSeen_reports w c cause bufOff).wiped
    unfold faultSeen at hn hw
    generalize (marked w c).report (faultEv c cause bufOff) = v at *
    obtain ⟨h1, h2, h3⟩ := slotLeft_n v c
    exact ⟨h1.trans hn.2, h2.trans (congrArg Clusters.ueInSheet hn.1), h3.trans hw⟩

variable (hc : c < 26)
include hc

/-- The registers of a cluster but CL_FAULTED and CL_ACTIVE stay. -/
theorem faultCluster_same {f : Fld} (hf : f.blk = .CL ∧ 0x100 ≤ f.off ∧ f.off < 4096 ∧ f.lo < 32) (h1 : Apart Reg.CL_FAULTED f = true) (h2 : Apart Reg.CL_ACTIVE f = true) :
    SameAt (f.key c 0) w (w.faultCluster c cause bufOff) := by
  obtain ⟨hb, hlo, hhi, hl⟩ := hf
  by_cases hfl : w.flag Reg.CL_FAULTED c = true
  · unfold Work.faultCluster
    rw [if_pos hfl]
    exact SameAt.refl _ _
  · rw [faultCluster_eq (Bool.eq_false_iff.2 hfl)]
    have hp : f.blk.page = 0x30 := by rw [hb]; rfl
    have hs : SameAt (f.key c 0) w (faultSeen w c cause bufOff) :=
      (sameAt_set w Reg.CL_FAULTED 1 c 0 (key_ne_of_apart h1 _ _ _ _)).trans ((faultSeen_reports w c cause bufOff).sameAt (plain_high ⟨hlo, hhi, hl, by omega⟩ c 0))
    exact hs.trans (slotLeft_own hc _ ⟨hhi, hl⟩ (by rw [hp]) h2)

theorem faultCluster_faults {s : State} (hs : SameAt (Reg.CL_FAULTED.key c 0) s.view w) (hr : w.regs = s.regs) :
    ∃ v, v ≠ 0 ∧ Reads s (w.faultCluster c cause bufOff) Reg.CL_FAULTED v c 0 := by
  by_cases hf : w.flag Reg.CL_FAULTED c = true
  · unfold Work.faultCluster
    rw [if_pos hf]
    unfold Work.flag at hf
    exact ⟨_, bne_iff_ne.1 hf, reads_of_get hs hr rfl⟩
  · rw [faultCluster_eq (Bool.eq_false_iff.2 hf)]
    exact ⟨1, by decide, .inl ((slotLeft_own hc _ (by decide) rfl (by decide)).shows (faultSeen_shows w c cause bufOff))⟩

end

/-- A buffer error, once it is counted. -/
def ueCounted (w : Work) (c : Nat) : Work := { w.count Reg.CL_BUF_UE 1 c with n.cl.ueInSheet := bumpN c 1 w.n.cl.ueInSheet }

/-- What it hits. -/
def ueHit (w : Work) (c : Nat) : BufHit → Work
  | .tile t again => if again then w.count Reg.CL_RESTAGED 1 c
    else { w with n.qa.cur := { w.n.qa.cur with tiles := modifyN t (fun x => { x with lostPages := (x.lostPages ++ x.pages).dedup }) w.n.qa.cur.tiles } }
  | .rowState q => w.modQuery q fun x => { x with dropped := (x.dropped ++ [w.get Reg.CL_SLOT c]).dedup, spoiled := true }

/-- The limit of errors in a sheet. -/
def ueLimited (w : Work) (c bufOff : Nat) : Work := if w.get Reg.CL_FAULT_LIMIT c ≤ numN c w.n.cl.ueInSheet then w.faultCluster c 1 bufOff else w

theorem bufferUe_run {s : State} {c : Nat} (ha : s.alive = true) (hc : c < 26) (bufOff : Nat) (hit : BufHit) :
    exec (.clusterBufferUe c bufOff hit) s = .next (s.close (ueLimited (ueHit (ueCounted s.view c) c hit) c bufOff)) := by
  rw [exec_bufferUe, execClusterBufferUe, run_alive _ ha]
  dsimp only
  rw [if_neg (by omega)]
  cases hit <;> rfl

theorem numN_bumpN (c n : Nat) (l : List (Nat × Nat)) : numN c (bumpN c n l) = numN c l + n := by
  unfold bumpN
  rw [show numN c (insertN c (numN c l + n) l) = ((lookupN c (insertN c (numN c l + n) l)).getD 0) from rfl, lookupN_insertN]
  rfl

theorem ueHit_rest (w : Work) (c : Nat) (hit : BufHit) : (ueHit w c hit).n.cl = w.n.cl ∧ (ueHit w c hit).regs = w.regs ∧ (ueHit w c hit).wiped = w.wiped ∧
    ∀ k, Reg.CL_RESTAGED.key c 0 ≠ k → SameAt k w (ueHit w c hit) := by
  cases hit with
  | tile t again =>
    cases again with
    | true => exact ⟨rfl, rfl, rfl, fun k hk => (SameAt.refl k w).count _ _ _ _ hk⟩
    | false => exact ⟨rfl, rfl, rfl, fun k _ => SameAt.refl k w⟩
  | rowState q => exact ⟨rfl, rfl, rfl, fun k _ => SameAt.refl k w⟩

theorem ueCounted_same (w : Work) (c k : Nat) (hk : Reg.CL_BUF_UE.key c 0 ≠ k) : SameAt k w (ueCounted w c) := (SameAt.refl k w).count Reg.CL_BUF_UE 1 c 0 hk

section
variable (w : Work) {c : Nat} (bufOff : Nat)

theorem ueLimited_n : (ueLimited w c bufOff).n.qa = w.n.qa ∧ (ueLimited w c bufOff).n.cl.ueInSheet = w.n.cl.ueInSheet ∧ (ueLimited w c bufOff).wiped = w.wiped := by
  unfold ueLimited
  split
  · exact faultCluster_n w 1 bufOff
  · exact ⟨rfl, rfl, rfl⟩

theorem ueLimited_same (hc : c < 26) {f : Fld} (hf : f.blk = .CL ∧ 0x100 ≤ f.off ∧ f.off < 4096 ∧ f.lo < 32) (h1 : Apart Reg.CL_FAULTED f = true) (h2 : Apart Reg.CL_ACTIVE f = true) :
    SameAt (f.key c 0) w (ueLimited w c bufOff) := by
  unfold ueLimited
  exact (faultCluster_same w 1 bufOff hc hf h1 h2).ite (SameAt.refl _ _)

end

section
variable {s : State} {c : Nat} (bufOff : Nat) (hit : BufHit)

/-- What every error of a buffer counts in the sheet. -/
theorem ue_inSheet : numN c (ueLimited (ueHit (ueCounted s.view c) c hit) c bufOff).n.cl.ueInSheet = numN c s.node.cl.ueInSheet + 1 := by
  obtain ⟨-, h1, -⟩ := ueLimited_n (ueHit (ueCounted s.view c) c hit) (c := c) bufOff
  obtain ⟨h2, -⟩ := ueHit_rest (ueCounted s.view c) c hit
  rw [h1, h2]
  exact numN_bumpN c 1 s.node.cl.ueInSheet

theorem ue_qa : (ueLimited (ueHit (ueCounted s.view c) c hit) c bufOff).n.qa = (ueHit (ueCounted s.view c) c hit).n.qa := (ueLimited_n _ bufOff).1

theorem ue_wiped : (ueLimited (ueHit (ueCounted s.view c) c hit) c bufOff).wiped = false := by
  obtain ⟨-, -, h1⟩ := ueLimited_n (ueHit (ueCounted s.view c) c hit) (c := c) bufOff
  obtain ⟨-, -, h2, -⟩ := ueHit_rest (ueCounted s.view c) c hit
  exact h1.trans h2

variable (hcan : Canonical s) (hc : c < 26)
include hcan hc

theorem ue_counted : rd (s.close (ueLimited (ueHit (ueCounted s.view c) c hit) c bufOff)) Reg.CL_BUF_UE c = min (rd s Reg.CL_BUF_UE c + 1) (2 ^ Reg.CL_BUF_UE.width - 1) := by
  obtain ⟨-, -, -, h⟩ := ueHit_rest (ueCounted s.view c) c hit
  have h0 : Shows (ueCounted s.view c) Reg.CL_BUF_UE (min (s.view.get Reg.CL_BUF_UE c + 1) (2 ^ 32 - 1)) c 0 := shows_count s.view Reg.CL_BUF_UE 1 c 0
  exact ((ueLimited_same _ bufOff hc (by decide) (by decide) (by decide)).shows ((h _ (key_ne_of_apart (by decide) _ _ _ _)).shows h0)).rd hcan.1

theorem ue_limit (hlim : rd s Reg.CL_FAULT_LIMIT c ≤ numN c s.node.cl.ueInSheet + 1) :
    rd (s.close (ueLimited (ueHit (ueCounted s.view c) c hit) c bufOff)) Reg.CL_FAULTED c ≠ 0 := by
  obtain ⟨h2, h3, h4, h⟩ := ueHit_rest (ueCounted s.view c) c hit
  have hsame : ∀ {f : Fld}, Apart Reg.CL_BUF_UE f = true → Apart Reg.CL_RESTAGED f = true → SameAt (f.key c 0) s.view (ueHit (ueCounted s.view c) c hit) := fun a b =>
    (ueCounted_same s.view c _ (key_ne_of_apart a _ _ _ _)).trans (h _ (key_ne_of_apart b _ _ _ _))
  have hget : (ueHit (ueCounted s.view c) c hit).get Reg.CL_FAULT_LIMIT c = rd s Reg.CL_FAULT_LIMIT c := (hsame (by decide) (by decide)).get h3
  have hnum : numN c (ueHit (ueCounted s.view c) c hit).n.cl.ueInSheet = numN c s.node.cl.ueInSheet + 1 := by
    rw [h2]
    exact numN_bumpN c 1 s.node.cl.ueInSheet
  obtain ⟨v, hv, hr⟩ := faultCluster_faults (ueHit (ueCounted s.view c) c hit) 1 bufOff hc (hsame (by decide) (by decide)) h3
  have hw := ue_wiped (s := s) (c := c) bufOff hit
  unfold ueLimited at hw ⊢
  rw [if_pos (by rw [hget, hnum]; exact hlim)] at hw ⊢
  rw [hr.rd hcan hw]
  exact hv

end

theorem tile_ue (s : State) (c bufOff tile : Nat) (again : Bool) (ha : s.alive = true) (hcan : Canonical s) (hc : c < 26) :
    ∃ t, exec (.clusterBufferUe c bufOff (.tile tile again)) s = .next t ∧
      rd t Reg.CL_BUF_UE c = min (rd s Reg.CL_BUF_UE c + 1) (2 ^ Reg.CL_BUF_UE.width - 1) ∧ numN c t.node.cl.ueInSheet = numN c s.node.cl.ueInSheet + 1 ∧
      (again = true → rd t Reg.CL_RESTAGED c = min (rd s Reg.CL_RESTAGED c + 1) (2 ^ Reg.CL_RESTAGED.width - 1)) ∧
      (again = false → (lookupN tile t.node.qa.cur.tiles).map (·.lostPages) = (lookupN tile s.node.qa.cur.tiles).map (fun x => (x.lostPages ++ x.pages).dedup)) ∧
      (rd s Reg.CL_FAULT_LIMIT c ≤ numN c s.node.cl.ueInSheet + 1 → rd t Reg.CL_FAULTED c ≠ 0) := by
  refine ⟨_, bufferUe_run ha hc bufOff (.tile tile again), ue_counted bufOff _ hcan hc, ?_, ?_, ?_, ue_limit bufOff _ hcan hc⟩
  · rw [close_node]
    exact ue_inSheet bufOff _
  · rintro rfl
    have h0 : Shows (ueHit (ueCounted s.view c) c (.tile tile true)) Reg.CL_RESTAGED (min ((ueCounted s.view c).get Reg.CL_RESTAGED c + 1) (2 ^ 32 - 1)) c 0 :=
      shows_count (ueCounted s.view c) Reg.CL_RESTAGED 1 c 0
    have hget : (ueCounted s.view c).get Reg.CL_RESTAGED c = rd s Reg.CL_RESTAGED c := (ueCounted_same s.view c _ (key_ne_of_apart (by decide) _ _ _ _)).get rfl
    rw [hget] at h0
    exact ((ueLimited_same _ bufOff hc (by decide) (by decide) (by decide)).shows h0).rd hcan.1
  · rintro rfl
    have hmod := lookupN_modifyN tile (fun x : Tile => { x with lostPages := (x.lostPages ++ x.pages).dedup }) s.node.qa.cur.tiles
    rw [close_node, ue_qa]
    refine (congrArg (Option.map fun x : Tile => x.lostPages) hmod).trans ?_
    rw [Option.map_map]
    rfl

theorem rowState_ue (s : State) (c bufOff k : Nat) (q : Query) (ha : s.alive = true) (hc : c < 26) (hq : lookupN k s.node.qa.cur.queries = some q) :
    ∃ t, exec (.clusterBufferUe c bufOff (.rowState k)) s = .next t ∧
      (lookupN k t.node.qa.cur.queries).map (fun x => (x.spoiled, x.dropped)) = some (true, (q.dropped ++ [rd s Reg.CL_SLOT c]).dedup) ∧
      numN c t.node.cl.ueInSheet = numN c s.node.cl.ueInSheet + 1 := by
  refine ⟨_, bufferUe_run ha hc bufOff (.rowState k), ?_, ?_⟩
  · have hget : (ueCounted s.view c).get Reg.CL_SLOT c = rd s Reg.CL_SLOT c := (ueCounted_same s.view c _ (key_ne_of_apart (by decide) _ _ _ _)).get rfl
    have hmod := lookupN_modifyN k (fun x : Query => { x with dropped := (x.dropped ++ [(ueCounted s.view c).get Reg.CL_SLOT c]).dedup, spoiled := true }) s.node.qa.cur.queries
    rw [hq] at hmod
    rw [close_node, ue_qa]
    refine (congrArg (Option.map fun x : Query => (x.spoiled, x.dropped)) hmod).trans ?_
    rw [hget]
    rfl
  · rw [close_node]
    exact ue_inSheet bufOff _

/-! ## The spare map -/

/-- The registers of two banks when the second takes the first's place. -/
def bankRegs (w : Work) (field retire spare : Nat) : Work :=
  ((((((((w.set Reg.KEY_TABLE (w.get Reg.KEY_TABLE 0 retire) 0 spare).set Reg.KEY_WIDTH (w.get Reg.KEY_WIDTH 0 retire) 0 spare).set Reg.KEY_OWNER
    (w.get Reg.KEY_OWNER 0 retire) 0 spare).set Reg.KEY_SPARE 0 0 spare).set Reg.KEY_REBUILDING 1 0 spare).set Reg.KEY_SPARE 1 0 retire).set Reg.KEY_TABLE 0 0 retire).set
    Reg.KEY_REBUILDING 0 0 retire).set (keySpareFld field) retire

/-- The banks' entries. -/
def bankEntries (banks : List KsBank) (retire spare : Nat) : List KsBank :=
  (banks.modify spare fun _ => { entries := (atD banks retire { entries := [] }).entries }).modify retire fun _ => { entries := [] }

/-- What a retired bank leaves, before the spare shows. -/
theorem retireBank_reports (w : Work) (field retire spare : Nat) : ∃ u v, Reports u v ∧ w.retireBank field retire spare = v.extendFree 5 ∧
    u.rw = (bankRegs w field retire spare).rw ∧ u.regs = w.regs ∧ u.n.cl = w.n.cl ∧ u.n.st = w.n.st ∧ u.n.ks.banks = bankEntries w.n.ks.banks retire spare := by
  refine ⟨_, _, (reports_setSpareInUse _ 0x27 true).trans (reports_log _ _), rfl, ?_, ?_, ?_, ?_, ?_⟩
  · rfl
  · rfl
  · rfl
  · rfl
  · rfl

theorem keySpareFld_mem (i : Nat) : keySpareFld i ∈ [Reg.GLB_KEY_SPARE_A, Reg.GLB_KEY_SPARE_B] := by
  unfold keySpareFld
  split
  · simp
  · simp

/-- The fields of a bank that its spare takes over. -/
def bankFlds : List Fld := [Reg.KEY_TABLE, Reg.KEY_WIDTH, Reg.KEY_OWNER, Reg.KEY_SPARE, Reg.KEY_REBUILDING]

theorem bank_key_ne {f g : Fld} (hf : f ∈ bankFlds) (hg : g ∈ bankFlds) {i j : Nat} (h : f ≠ g ∨ i ≠ j) : f.key 0 i ≠ g.key 0 j := by
  have hall : ∀ f ∈ bankFlds, f.blk.page = 0x27 ∧ f.off < 4096 ∧ f.lo < 32 ∧ ∀ g ∈ bankFlds, f ≠ g → ¬ (f.off = g.off ∧ f.lo = g.lo) := by decide
  obtain ⟨f1, f2, f3, f4⟩ := hall f hf
  obtain ⟨g1, g2, g3, -⟩ := hall g hg
  have hne := f4 g hg
  unfold Fld.key
  rw [f1, g1]
  rcases h with h | h
  · have := hne h
    omega
  · omega

section
variable (w : Work) (field : Nat) {a b : Nat} (hab : a ≠ b)

theorem bank_plain {f : Fld} (hf : f ∈ bankFlds) (j : Nat) : Plain (f.key 0 j) := by
  have hall : ∀ f ∈ bankFlds, 0x100 ≤ f.off ∧ f.off < 4096 ∧ f.lo < 32 ∧ 0xB < f.blk.page := by decide
  exact plain_high (hall f hf) 0 j

theorem spareFld_apart : (keySpareFld field).width = 7 ∧ Plain ((keySpareFld field).key 0 0) ∧ ∀ f ∈ bankFlds, Apart (keySpareFld field) f = true := by
  have hall : ∀ g ∈ [Reg.GLB_KEY_SPARE_A, Reg.GLB_KEY_SPARE_B], g.width = 7 ∧ (g.blk = .GLB ∧ 0x100 ≤ g.off ∧ g.off < 4096 ∧ g.lo < 32) ∧ ∀ f ∈ bankFlds, Apart g f = true := by decide
  obtain ⟨h1, h2, h3⟩ := hall _ (keySpareFld_mem field)
  exact ⟨h1, plainGlb h2, h3⟩

include hab

/-- What the two banks' registers show; `a` is retired, `b` its spare. -/
theorem bankRegs_shows : Shows (bankRegs w field a b) Reg.KEY_TABLE (w.get Reg.KEY_TABLE 0 a % 2 ^ Reg.KEY_TABLE.width) 0 b ∧
    Shows (bankRegs w field a b) Reg.KEY_REBUILDING 1 0 b ∧ Shows (bankRegs w field a b) Reg.KEY_SPARE 1 0 a := by
  obtain ⟨-, -, hs⟩ := spareFld_apart field
  have ne := fun {f g : Fld} (hf : f ∈ bankFlds) (hg : g ∈ bankFlds) {x y : Nat} (h : f ≠ g ∨ x ≠ y) => bank_key_ne (i := x) (j := y) hf hg h
  unfold bankRegs
  generalize w.get Reg.KEY_TABLE 0 a = kt
  generalize w.get Reg.KEY_WIDTH 0 a = kw
  generalize w.get Reg.KEY_OWNER 0 a = ko
  refine ⟨((((((((shows_set w Reg.KEY_TABLE kt 0 b).set Reg.KEY_WIDTH kw 0 b ?_).set Reg.KEY_OWNER ko 0 b ?_).set Reg.KEY_SPARE 0 0 b ?_).set Reg.KEY_REBUILDING 1 0 b ?_).set
      Reg.KEY_SPARE 1 0 a ?_).set Reg.KEY_TABLE 0 0 a ?_).set Reg.KEY_REBUILDING 0 0 a ?_).set (keySpareFld field) a 0 0 ?_,
    ((((shows_set _ Reg.KEY_REBUILDING 1 0 b).set Reg.KEY_SPARE 1 0 a ?_).set Reg.KEY_TABLE 0 0 a ?_).set Reg.KEY_REBUILDING 0 0 a ?_).set (keySpareFld field) a 0 0 ?_,
    (((shows_set _ Reg.KEY_SPARE 1 0 a).set Reg.KEY_TABLE 0 0 a ?_).set Reg.KEY_REBUILDING 0 0 a ?_).set (keySpareFld field) a 0 0 ?_⟩
  · exact ne (by decide) (by decide) (.inl (by decide))
  · exact ne (by decide) (by decide) (.inl (by decide))
  · exact ne (by decide) (by decide) (.inl (by decide))
  · exact ne (by decide) (by decide) (.inl (by decide))
  · exact ne (by decide) (by decide) (.inl (by decide))
  · exact ne (by decide) (by decide) (.inr hab)
  · exact ne (by decide) (by decide) (.inl (by decide))
  · exact key_ne_of_apart (hs _ (by decide)) _ _ _ _
  · exact ne (by decide) (by decide) (.inl (by decide))
  · exact ne (by decide) (by decide) (.inl (by decide))
  · exact ne (by decide) (by decide) (.inr hab)
  · exact key_ne_of_apart (hs _ (by decide)) _ _ _ _
  · exact ne (by decide) (by decide) (.inl (by decide))
  · exact ne (by decide) (by decide) (.inl (by decide))
  · exact key_ne_of_apart (hs _ (by decide)) _ _ _ _

theorem bankEntries_spare (banks : List KsBank) (hb : b < banks.length) :
    (atD (bankEntries banks a b) b { entries := [] }).entries = (atD banks a { entries := [] }).entries := by
  unfold bankEntries atD
  rw [List.getElem?_modify, List.getElem?_modify]
  simp [hab, hb]

end

/-- What a retired bank leaves of the clusters and the store. -/
theorem retireBank_n (w : Work) (field a b : Nat) : (w.retireBank field a b).n.cl = w.n.cl ∧ (w.retireBank field a b).n.st = w.n.st := by
  obtain ⟨u, v, hr, he, -, -, hcl, hst, -⟩ := retireBank_reports w field a b
  rw [he]
  exact ⟨hr.n_cl.trans hcl, hr.n_st.trans hst⟩

theorem retireBanks_n (l : List (Nat × Nat × Nat)) (w : Work) : (l.foldl (fun w a => w.retireBank a.1 a.2.1 a.2.2) w).n.cl = w.n.cl ∧
    (l.foldl (fun w a => w.retireBank a.1 a.2.1 a.2.2) w).n.st = w.n.st := by
  induction l generalizing w with
  | nil => exact ⟨rfl, rfl⟩
  | cons a l ih =>
    obtain ⟨h1, h2⟩ := ih (w.retireBank a.1 a.2.1 a.2.2)
    obtain ⟨h3, h4⟩ := retireBank_n w a.1 a.2.1 a.2.2
    exact ⟨h1.trans h3, h2.trans h4⟩

theorem retireBank_reads {s : State} (hc : Canonical s) (w : Work) (field : Nat) {a b : Nat} (hab : a ≠ b) (ha : a ≤ 65) (hb : b < w.n.ks.banks.length) {t : State}
    (ht : t = s.close (w.retireBank field a b)) : rd t Reg.KEY_TABLE 0 b = w.get Reg.KEY_TABLE 0 a % 2 ^ Reg.KEY_TABLE.width ∧
      (t.view.ksBank b).entries = (w.ksBank a).entries ∧ rd t Reg.KEY_REBUILDING 0 b = 1 ∧ rd t Reg.KEY_SPARE 0 a = 1 ∧ rd t (keySpareFld field) = a := by
  obtain ⟨u, v, hr, he, hrw, -, -, -, hks⟩ := retireBank_reports w field a b
  obtain ⟨h1, h2, h3⟩ := bankRegs_shows w field hab
  obtain ⟨hw, hpl, -⟩ := spareFld_apart field
  have h4 : Shows (bankRegs w field a b) (keySpareFld field) (a % 2 ^ (keySpareFld field).width) 0 0 := shows_set _ _ _ _ _
  rw [hw, Nat.mod_eq_of_lt (by omega)] at h4
  have hrd : ∀ {f : Fld} {x j : Nat}, Plain (f.key 0 j) → Shows (bankRegs w field a b) f x 0 j → rd (s.close (v.extendFree 5)) f 0 j = x := by
    intro f x j hp hs
    have hu : Shows u f x 0 j := by
      unfold Shows at hs ⊢
      rw [hrw]
      exact hs
    exact (shows_extendFree 5 (hr.shows hp hu)).rd hc.1
  have hbank : (v.extendFree 5).n.ks.banks = bankEntries w.n.ks.banks a b := by
    obtain ⟨-, -, -, e4⟩ := extendFree_node v 5
    rw [e4, hr.n_ks]
    exact hks
  subst ht
  rw [he]
  refine ⟨hrd (bank_plain (by decide) b) h1, ?_, hrd (bank_plain (by decide) b) h2, hrd (bank_plain (by decide) a) h3, hrd hpl h4⟩
  have hat : (s.close (v.extendFree 5)).view.ksBank b = atD (bankEntries w.n.ks.banks a b) b { entries := [] } := by
    show atD (s.close (v.extendFree 5)).node.ks.banks b { entries := [] } = _
    rw [close_node, hbank]
  rw [hat]
  exact bankEntries_spare hab _ hb

/-- The swaps that a write of the spare map schedules. -/
def scheduled (s : State) (wr : RegWr) : List PendSwap :=
  (spareAsks (spareWish s wr) (rd s ·) clSpareFld).map fun a => { field := a.1, retire := a.2.1, activate := a.2.2, effect := s.node.tk.now + 2 }

/-- The node with its swaps scheduled. -/
def mapWritten (s : State) (wr : RegWr) : Work := { s.view with n.cl.swaps := scheduled s wr }

theorem mapWritten_rest (s : State) (wr : RegWr) : (mapWritten s wr).n.cl.swaps = scheduled s wr ∧ (mapWritten s wr).n.st = s.node.st ∧ (mapWritten s wr).n.ks = s.node.ks ∧
    ∀ f i j, (mapWritten s wr).get f i j = rd s f i j := ⟨rfl, rfl, rfl, fun _ _ _ => rfl⟩

theorem spareMap_run {s : State} {wr : RegWr} (ha : s.alive = true) (hok : SpareWriteOk s wr) : exec (.spareMapWrite wr) s =
    .next (s.close ((spareAsks (spareWish s wr) (rd s ·) keySpareFld).foldl (fun w a => w.retireBank a.1 a.2.1 a.2.2) (mapWritten s wr))) := by
  obtain ⟨h1, h2, h3, h4, h5, h6, h7, h8, h9, h10, h11, h12⟩ := hok
  have hcls : ((spareAsks (spareWish s wr) (rd s ·) clSpareFld).any fun a => !s.view.spareAskOk true a) = false :=
    List.any_eq_false.2 fun a hin => by rw [h11 a hin]; decide
  have hkeys : ((spareAsks (spareWish s wr) (rd s ·) keySpareFld).any fun a => !s.view.spareAskOk false a) = false :=
    List.any_eq_false.2 fun a hin => by rw [h12 a hin]; decide
  have hreb : ((List.range 66).any fun b => s.view.flag Reg.KEY_REBUILDING 0 b) = false :=
    List.any_eq_false.2 fun b hb => by rw [flag_of_zero (h8 b (List.mem_range.1 hb))]; decide
  have hsw : (!s.node.cl.swaps.isEmpty) = false := by rw [h7]; rfl
  rw [exec_spareMap, execSpareMapWrite, run_alive _ ha, if_neg (by rw [h1, h2]; decide)]
  refine congrArg (fun w => Host.Outcome.next (s.close w)) ?_
  refine (if_neg (c := 25 < spareWish s wr Reg.GLB_CL_SPARE_A ∨ 25 < spareWish s wr Reg.GLB_CL_SPARE_B ∨ 65 < spareWish s wr Reg.GLB_KEY_SPARE_A ∨ 65 < spareWish s wr Reg.GLB_KEY_SPARE_B)
    (by omega)).trans ?_
  refine (if_neg (c := (!s.node.cl.swaps.isEmpty) = true ∨ ((List.range 66).any fun b => s.view.flag Reg.KEY_REBUILDING 0 b) = true) (by rw [hreb, hsw]; decide)).trans ?_
  refine (if_neg (c := (spareWish s wr Reg.GLB_CL_SPARE_A = spareWish s wr Reg.GLB_CL_SPARE_B ∨ spareWish s wr Reg.GLB_KEY_SPARE_A = spareWish s wr Reg.GLB_KEY_SPARE_B) ∨
    ((spareAsks (spareWish s wr) (rd s ·) clSpareFld).any fun a => !s.view.spareAskOk true a) = true ∨
    ((spareAsks (spareWish s wr) (rd s ·) keySpareFld).any fun a => !s.view.spareAskOk false a) = true) (by rw [hcls, hkeys]; simp [h9, h10])).trans ?_
  rfl

theorem spareAsks_differ {new old : Fld → Nat} {flds : Nat → Fld} {a : Nat × Nat × Nat} (h : a ∈ spareAsks new old flds) :
    a.2.1 = new (flds a.1) ∧ a.2.2 = old (flds a.1) ∧ a.2.1 ≠ a.2.2 := by
  obtain ⟨i, hi, rfl⟩ := List.mem_map.1 h
  exact ⟨rfl, rfl, bne_iff_ne.1 (List.mem_filter.1 hi).2⟩

theorem spare_map (s : State) (wr : RegWr) (ha : s.alive = true) (hc : Canonical s) (hok : SpareWriteOk s wr) (hlen : s.node.ks.banks.length = 66) :
    ∃ t, exec (.spareMapWrite wr) s = .next t ∧
      t.node.cl.swaps = (spareAsks (spareWish s wr) (rd s ·) clSpareFld).map (fun a => { field := a.1, retire := a.2.1, activate := a.2.2, effect := s.node.tk.now + 2 : PendSwap }) ∧
      (∀ a : Nat × Nat × Nat, spareAsks (spareWish s wr) (rd s ·) keySpareFld = [a] → a.2.2 ≤ 65 →
        rd t Reg.KEY_TABLE 0 a.2.2 = rd s Reg.KEY_TABLE 0 a.2.1 % 2 ^ Reg.KEY_TABLE.width ∧
        (t.view.ksBank a.2.2).entries = (s.view.ksBank a.2.1).entries ∧ rd t Reg.KEY_REBUILDING 0 a.2.2 = 1 ∧
        rd t Reg.KEY_SPARE 0 a.2.1 = 1 ∧ rd t (keySpareFld a.1) = a.2.1) ∧
      t.node.st = s.node.st := by
  have hrun := spareMap_run ha hok
  obtain ⟨-, -, -, -, h5, h6, -⟩ := hok
  obtain ⟨n1, n2⟩ := retireBanks_n (spareAsks (spareWish s wr) (rd s ·) keySpareFld) (mapWritten s wr)
  obtain ⟨m1, m2, m3, m4⟩ := mapWritten_rest s wr
  generalize mapWritten s wr = w at *
  refine ⟨_, hrun, ?_, fun a hone hle => ?_, ?_⟩
  · rw [close_node, n1]
    exact m1
  · obtain ⟨e1, -, hne⟩ := spareAsks_differ (a := a) (by rw [hone]; exact List.mem_singleton_self _)
    have h65 : a.2.1 ≤ 65 := by
      rw [e1]
      rcases List.mem_pair.1 (keySpareFld_mem a.1) with h | h
      · rw [h]
        exact h5
      · rw [h]
        exact h6
    rw [hone, List.foldl_cons, List.foldl_nil]
    have hb : a.2.2 < w.n.ks.banks.length := by
      rw [m3, hlen]
      omega
    obtain ⟨r1, r2, r3, r4, r5⟩ := retireBank_reads hc w a.1 hne h65 hb rfl
    rw [m4] at r1
    have hbank : w.ksBank a.2.1 = s.view.ksBank a.2.1 := by
      unfold Work.ksBank
      rw [m3]
      rfl
    rw [hbank] at r2
    exact ⟨r1, r2, r3, r4, r5⟩
  · rw [close_node, n2]
    exact m2

/-- Settles O22: each event's writes are given by an equation of the model's operation, and what it reports besides (captures, the prompt
book, interrupt bits) writes other registers. -/
theorem sparesTakeThePlaceOfWhatIsRetired : Obligations.SparesTakeThePlaceOfWhatIsRetired := by
  unfold Obligations.SparesTakeThePlaceOfWhatIsRetired
  refine ⟨spare_map, ?_, cluster_fault, tile_ue, rowState_ue, core_fault⟩
  intro s p ha hc hs hr h
  exact due_swap ha hc hs hr h

end Sys2Proof.Spares
end

section
/-!
Formats, codebooks and weights: valid formats and codebooks, the start of a weight load and its end (R88, R163, R164, R178, R179, R233 to R236).
-/

namespace Sys2Proof.Loads

open Sys2Proof.Machine Sys2Proof.Safety Sys2Proof.Laws Sys2Proof.Writes Sys2Proof.Entering Sys2Proof.Fields Sys2Proof.Training Sys2Proof.Trims Sys2Proof.Assoc
open Sys2Proof.Stages Sys2Proof.Queues
open Sys2Proof.Frame (except_elim)

theorem exec_fmt (s : State) (wr : RegWr) : exec (.pgmFmtValid wr) s = execPgmFmtValid wr s := by simp only [exec]
theorem exec_codebook (s : State) (wr : RegWr) : exec (.codebookValid wr) s = execCodebookValid wr s := by simp only [exec]
theorem exec_load (s : State) (wr : RegWr) : exec (.weightLoad wr) s = execWeightLoad wr s := by simp only [exec]
theorem exec_loadDone (s : State) : exec .weightLoadDone s = execWeightLoadDone s := by simp only [exec]

/-! ## What a decode changes -/

/-- The registers that an expander's work writes. -/
def xpdFlds : List Fld := [Reg.XPD_STALL_CYC, Reg.XPD_BLOCKS, Reg.XPD_FAIL_HDR, Reg.XPD_FAIL_TABLE, Reg.XPD_FAIL_PREFIX, Reg.XPD_FAIL_UNDERRUN, Reg.XPD_FAIL_OVERRUN,
  Reg.XPD_FAIL_CRC, Reg.XPD_MISMATCH, Reg.XPD_DAMAGED, Reg.XPD_ACTIVE, Reg.XPD_FAULTED, Reg.XPD_STANDS_FOR, Reg.XPD_SPARE0_FOR, Reg.XPD_SPARE1_FOR]

/-- What a decode leaves: the other registers, the weight set in force and the one that waits. -/
def decoding (w : Work) := (fields xpdFlds w, w.n.cl.weights, w.n.cl.pendingWeights)

section
variable {w v : Work}

theorem decoding_report (h : Reports w v) : decoding v = decoding w := by
  unfold decoding
  rw [fields_of_reports h, h.n_cl]

theorem decoding_set (w : Work) {f : Fld} (hf : f ∈ xpdFlds) (x i j : Nat) : decoding (w.set f x i j) = decoding w := by
  unfold decoding
  rw [fields_set _ _ _ _ _ hf]
  rfl

theorem decoding_count (w : Work) {f : Fld} (hf : f ∈ xpdFlds) (x i j : Nat) : decoding (w.count f x i j) = decoding w := decoding_set w hf _ i j

theorem decoding_ite {c : Prop} [Decidable c] {a b u : Work} (ha : decoding a = decoding u) (hb : decoding b = decoding u) : decoding (if c then a else b) = decoding u := by
  split
  · exact ha
  · exact hb

end

theorem failCounter_mem (k : Nat) : failCounter k ∈ xpdFlds := by
  have hall : ∀ f ∈ [Reg.XPD_FAIL_HDR, Reg.XPD_FAIL_TABLE, Reg.XPD_FAIL_PREFIX, Reg.XPD_FAIL_UNDERRUN, Reg.XPD_FAIL_OVERRUN, Reg.XPD_FAIL_CRC], f ∈ xpdFlds := by decide
  refine hall _ ?_
  unfold failCounter
  split_ifs <;> simp

theorem decoding_layerLost (w : Work) (d l : Nat) : decoding (w.layerLost d l) = decoding w := by
  unfold Work.layerLost
  dsimp only
  refine decoding_ite rfl ?_
  generalize hv : ({ w with n.cl.unavailable := _, n.qa.cur := _, n.qa.next := _ } : Work) = v
  refine (decoding_report (reports_report v _)).trans ?_
  rw [← hv]
  rfl

theorem decoding_streamCheck (w : Work) (d : Nat) : decoding (w.streamCheck d) = decoding w := by
  unfold Work.streamCheck
  refine decoding_ite rfl ?_
  generalize w.n.cl.weights = ls
  induction ls generalizing w with
  | nil => rfl
  | cons l ls ih =>
    rw [List.foldl_cons, ih]
    exact decoding_ite (decoding_layerLost _ _ _) rfl

theorem decoding_extendFree (w : Work) (k : Nat) : decoding (w.extendFree k) = decoding w := rfl

theorem decoding_retire (w : Work) (inst : Nat) : decoding (w.retireExpander inst) = decoding w := by
  unfold Work.retireExpander
  dsimp only
  refine decoding_ite rfl ?_
  rw [decoding_streamCheck]
  have h0 : decoding ((w.set Reg.XPD_ACTIVE 0 0 inst).set Reg.XPD_FAULTED 1 0 inst) = decoding w :=
    (decoding_set _ (by decide) _ _ _).trans (decoding_set _ (by decide) _ _ _)
  refine decoding_ite ?_ h0
  rw [decoding_extendFree]
  refine (decoding_report (reports_setSpareInUse _ _ _)).trans ((decoding_report (reports_report _ _)).trans ?_)
  have hsp : (if spareOf inst = 23 then Reg.XPD_SPARE0_FOR else Reg.XPD_SPARE1_FOR) ∈ xpdFlds := by
    split
    · decide
    · decide
  exact (decoding_set _ hsp _ _ _).trans ((decoding_set _ (by decide) _ _ _).trans h0)

theorem decoding_draw (w : Work) : decoding w.draw.2 = decoding w := rfl

/-- A work and an answer that leave what a decode leaves. -/
def Decoded {α : Type} (w : Work) (p : α × Work) : Prop := decoding p.2 = decoding w

theorem decoded_mk {α : Type} {w v : Work} (a : α) (h : decoding v = decoding w) : Decoded w (a, v) := h

theorem decodeTry_decoded (w : Work) (inst : Nat) (b : Bytes) (window : Nat) (part : Option Nat) (addr : Nat) (upset : Option Nat) :
    Decoded w (w.decodeTry inst b window part addr upset) := by
  unfold Work.decodeTry
  extract_lets real stall v first
  have hv : decoding v = decoding w := by
    simp only [v, stall]
    rw [decoding_count _ (by decide), decoding_count _ (by decide), decoding_draw]
  obtain ⟨x, hx⟩ : ∃ x, x = v := ⟨v, rfl⟩
  obtain ⟨f, hf⟩ : ∃ f, f = first := ⟨first, rfl⟩
  obtain ⟨r, hr⟩ : ∃ r, r = real := ⟨real, rfl⟩
  rw [← hf, ← hr, ← hx]
  rw [← hx] at hv
  clear hx hf hr first real v stall
  refine except_elim (P := Decoded w) (fun img => decoded_mk _ hv) (fun k => ?_)
  extract_lets +onlyGivenNames u retry y
  have hy : decoding y = decoding w := by
    simp only [y]
    exact decoding_ite (by rw [decoding_count _ (by decide), decoding_count _ (failCounter_mem k), hv]) (by rw [decoding_count _ (failCounter_mem k), hv])
  obtain ⟨b, hb⟩ : ∃ r, r = retry := ⟨retry, rfl⟩
  obtain ⟨z, hz⟩ : ∃ r, r = y := ⟨y, rfl⟩
  rw [← hb, ← hz]
  rw [← hz] at hy
  clear hz hb
  cases b with
  | false => exact decoded_mk _ hy
  | true =>
    cases r with
    | error j => exact decoded_mk _ ((decoding_count _ (failCounter_mem j) _ _ _).trans hy)
    | ok img =>
      have h1 : ∀ e l, decoding { (z.count Reg.XPD_MISMATCH 1 0 inst).report e with n.cp.mismatches := l } = decoding w := fun e l =>
        (decoding_report (reports_report _ e)).trans ((decoding_count _ (by decide) _ _ _).trans hy)
      exact decoded_mk _ (decoding_ite ((decoding_retire _ _).trans (h1 _ _)) (h1 _ _))

theorem decoding_decodeTry (w : Work) (inst : Nat) (b : Bytes) (window : Nat) (part : Option Nat) (addr : Nat) (upset : Option Nat) :
    decoding (w.decodeTry inst b window part addr upset).2 = decoding w := decodeTry_decoded ..

theorem decoding_decodeOn (w : Work) (inst : Nat) (b : Bytes) (window : Nat) (part : Option Nat) (addr : Nat) (upset : Option Nat) :
    decoding (w.decodeOn inst b window part addr upset).2 = decoding w := by
  have h := decoding_decodeTry w inst b window part addr upset
  unfold Work.decodeOn
  dsimp only
  generalize w.decodeTry inst b window part addr upset = r at *
  obtain ⟨r1, r2⟩ := r
  cases r1 with
  | ok img => exact h
  | error k => exact (decoding_report (reports_capture _ _)).trans ((decoding_count _ (by decide) _ _ _).trans h)

theorem decoding_decodeLayer (w : Work) (l : WLayer) : decoding (w.decodeLayer l) = decoding w := by
  unfold Work.decodeLayer
  dsimp only
  generalize l.packed.zip _ = bs
  have hblocks : ∀ (inst : Nat) (bs : List (Bytes × Nat × Nat)) (a : Bool × Work), decoding (bs.foldl (fun (a : Bool × Work) b =>
      if !a.1 then a else ((a.2.decodeOn inst b.1 b.2.1 none b.2.2 none).1.isSome, (a.2.decodeOn inst b.1 b.2.1 none b.2.2 none).2)) a).2 = decoding a.2 := by
    intro inst bs
    induction bs with
    | nil => exact fun _ => rfl
    | cons b bs ih =>
      intro a
      rw [List.foldl_cons, ih]
      split
      · rfl
      · exact decoding_decodeOn ..
  generalize List.filterMap _ _ = is
  induction is generalizing w with
  | nil => rfl
  | cons i is ih =>
    rw [List.foldl_cons]
    exact (ih _).trans (hblocks i bs (true, w))

theorem decoding_decodePackage (w : Work) (ls : List WLayer) : decoding (w.decodePackage ls) = decoding w := by
  unfold Work.decodePackage
  suffices ∀ a : Bool × Work, decoding (ls.foldl (fun (a : Bool × Work) l => if a.1 then (l.good, a.2.decodeLayer l) else a) a).2 = decoding a.2 from this (true, w)
  induction ls with
  | nil => exact fun _ => rfl
  | cons l ls ih =>
    intro a
    rw [List.foldl_cons, ih]
    split
    · exact decoding_decodeLayer ..
    · rfl


/-! ## Fields written -/

/-- The write of one field of a register. -/
def fieldWrite (wr : RegWr) (inst i idx : Nat) (w : Work) (f : Fld) : Work :=
  match f.acc with
  | .rw | .rwl => if fieldEnabled wr f then w.set f (w.merged wr inst idx f) i idx else w
  | .wo => if fieldEnabled wr f then w.set f (w.merged wr inst idx f) i idx else w
  | _ => w

theorem fieldWrite_apart (wr : RegWr) (inst i idx : Nat) (w : Work) {f g : Fld} (h : Apart g f = true) : SameAt (f.key i idx) w (fieldWrite wr inst i idx w g) := by
  have hset : SameAt (f.key i idx) w (if fieldEnabled wr g then w.set g (w.merged wr inst idx g) i idx else w) :=
    (sameAt_set w g _ i idx (key_ne_of_apart h _ _ _ _)).ite rfl
  unfold fieldWrite
  cases g.acc <;> first | exact hset | rfl

theorem fieldWrites_apart (wr : RegWr) (inst i idx : Nat) {f : Fld} (l : List Fld) (h : ∀ g ∈ l, Apart g f = true) (w : Work) :
    SameAt (f.key i idx) w (l.foldl (fieldWrite wr inst i idx) w) := by
  induction l generalizing w with
  | nil => rfl
  | cons g l ih =>
    rw [List.foldl_cons]
    exact (fieldWrite_apart wr inst i idx w (h g List.mem_cons_self)).trans (ih (fun x hx => h x (List.mem_cons_of_mem _ hx)) _)

theorem merged_mod (w : Work) (wr : RegWr) (inst idx : Nat) (f : Fld) : w.merged wr inst idx f % 2 ^ f.width = w.merged wr inst idx f :=
  Nat.mod_mod _ _

theorem fieldWrite_shows (wr : RegWr) (inst i idx : Nat) (w : Work) {f : Fld} (ha : f.acc = .rw) (he : fieldEnabled wr f = true) :
    Shows (fieldWrite wr inst i idx w f) f (w.merged wr inst idx f) i idx := by
  unfold fieldWrite
  rw [ha]
  dsimp only
  rw [if_pos he]
  have h := shows_set w f (w.merged wr inst idx f) i idx
  rwa [merged_mod] at h

/-- The fields of a register, apart from one another, are each written once. -/
theorem fieldWrites_shows (wr : RegWr) (inst idx : Nat) (b : Block) (off : Nat) {f : Fld} (hb : f.blk = b ∧ f.off = off) (ha : f.acc = .rw) (he : fieldEnabled wr f = true) {w : Work} :
    ∀ (l : List Fld), l.Pairwise (fun g h => Apart g h = true ∧ Apart h g = true) → f ∈ l → ∀ v : Work, SameAt (f.key (storeInst b inst off) idx) w v → v.regs = w.regs →
      Shows (l.foldl (fieldWrite wr inst (storeInst b inst off) idx) v) f (w.merged wr inst idx f) (storeInst b inst off) idx := by
  intro l
  induction l with
  | nil => exact fun _ h => absurd h (by simp)
  | cons g l ih =>
    intro hp hin v hv hr
    obtain ⟨hg, hl⟩ := List.pairwise_cons.1 hp
    rw [List.foldl_cons]
    rcases List.mem_cons.1 hin with rfl | hin
    · have hm : v.merged wr inst idx f = w.merged wr inst idx f := by
        unfold Work.merged
        rw [hb.1, hb.2, hv.get hr]
      have hs := fieldWrite_shows wr inst (storeInst b inst off) idx v ha he
      rw [hm] at hs
      exact (fieldWrites_apart wr inst _ idx l (fun x hx => (hg x hx).2) _).shows hs
    · refine ih hl hin _ (hv.trans (fieldWrite_apart wr inst _ idx v (hg f hin).1)) ?_
      refine Eq.trans ?_ hr
      unfold fieldWrite
      cases g.acc <;> first | exact apply_ite .. |>.trans (by rw [set_regs, ite_self]) | rfl

theorem writeFields_shows (w : Work) (wr : RegWr) (inst idx : Nat) {b : Block} {off : Nat} (hp : (regFields b off).Pairwise (fun g h => Apart g h = true ∧ Apart h g = true))
    {f : Fld} (hin : f ∈ regFields b off) (hb : f.blk = b) (ha : f.acc = .rw) (he : fieldEnabled wr f = true) :
    Shows (w.writeFields wr b inst idx off) f (w.merged wr inst idx f) (storeInst b inst off) idx := by
  have hoff : f.off = off := by simpa [regFields] using (List.mem_filter.1 hin).2
  exact fieldWrites_shows wr inst idx b off ⟨hb, hoff⟩ ha he _ hp hin w rfl rfl

theorem fmt_written (s : State) (wr : RegWr) (inst idx : Nat) (ha : s.alive = true) (hc : Canonical s) (hl : Lands s wr .PGM 0x114 inst idx) :
    ∃ t, exec (.pgmFmtValid wr) s = .next t ∧
      (∀ f ∈ regFields .PGM 0x114, fieldEnabled wr f = true → f.acc = .rw → rd t f (storeInst .PGM inst 0x114) idx = s.view.merged wr inst idx f) ∧ t.node.pg = s.node.pg := by
  have hrun : exec (.pgmFmtValid wr) s = .next (s.close (s.view.writeFields wr .PGM inst idx 0x114)) := by
    rw [exec_fmt, execPgmFmtValid, run_alive _ ha, regAction_lands hl _ hl.1]
  have hblk : ∀ f ∈ regFields .PGM 0x114, f.blk = .PGM := by decide
  refine ⟨_, hrun, fun f hf he hacc => (writeFields_shows s.view wr inst idx (by decide) hf (hblk f hf) hacc he).rd hc.1, ?_⟩
  rw [close_node, writeFields_n]
  rfl

/-! ## Codebooks -/

/-- The node with a codebook's register written. -/
def codebookWritten (s : State) (wr : RegWr) (inst cb : Nat) : Work := s.view.writeFields wr .CL inst cb 0x18C

/-- The measures of a codebook. -/
def codebookMeasured (w : Work) (cb : Nat) : Work :=
  (w.set Reg.CL_M (e4m3.round (maxRat ((w.cbVals cb).map absRat))).1 0 cb).set Reg.CL_DELTA
    (e4m3.round (maxRat (((w.cbVals cb).zip ((w.cbVals cb).drop 1)).map fun p => p.2 - p.1))).1 0 cb

/-- The bytes of a codebook. -/
def codebookBytes (w : Work) (cb : Nat) : Bytes := (List.range (w.cbSize cb)).map fun k => BitVec.ofNat 8 (w.cbEntry cb k)

theorem codebook_run {s : State} {wr : RegWr} {inst cb : Nat} (ha : s.alive = true) (hl : Lands s wr .CL 0x18C inst cb) (he : fieldEnabled wr Reg.CL_VALID = true)
    (hv : (s.view.busWrite wr).w.get Reg.CL_VALID 0 cb = 1) : (codebookWritten s wr inst cb).get Reg.CL_VALID 0 cb = 1 ∧ exec (.codebookValid wr) s =
      .next (s.close ((codebookMeasured (codebookWritten s wr inst cb) cb).extendMeas 3 (Sys2Proof.Crypto.sha3v (codebookBytes (codebookMeasured (codebookWritten s wr inst cb) cb) cb)))) := by
  obtain ⟨-, -, -, -, hb⟩ := busWrite_taken hl.2
  rw [hb] at hv
  have hflag : (codebookWritten s wr inst cb).flag Reg.CL_VALID 0 cb = true := by
    unfold Work.flag codebookWritten
    rw [hv]
    rfl
  refine ⟨hv, ?_⟩
  rw [exec_codebook, execCodebookValid, run_alive _ ha, regAction_lands hl _ hl.1]
  exact congrArg (fun w => Host.Outcome.next (s.close w)) (if_pos ⟨he, hflag⟩)

/-- A codebook's contents are read from its entries and its size alone. -/
theorem cb_congr {w v : Work} {cb : Nat} (h1 : ∀ k, v.get Reg.CL_ENTRIES 0 k = w.get Reg.CL_ENTRIES 0 k) (h2 : v.get Reg.CL_SIZE256 0 cb = w.get Reg.CL_SIZE256 0 cb) :
    v.cbVals cb = w.cbVals cb ∧ codebookBytes v cb = codebookBytes w cb := by
  have he : ∀ k, v.cbEntry cb k = w.cbEntry cb k := fun k => by
    unfold Work.cbEntry
    rw [h1]
  have hs : v.cbSize cb = w.cbSize cb := by
    unfold Work.cbSize Work.flag
    rw [h2]
  unfold Work.cbVals codebookBytes
  simp only [he, hs]
  exact ⟨trivial, trivial⟩

/-- A field of the written register, or of another, that the measures leave reads what the view gets. -/
theorem codebook_reads {s : State} (hc : Canonical s) {w : Work} (wr : RegWr) (inst : Nat) {cb : Nat} {f : Fld} {j : Nat} (hw : w = (codebookMeasured (codebookWritten s wr inst cb) cb))
    (hr : f.rule = .const) (hF : ∀ g ∈ regFields .CL 0x18C, Apart g f = true ∨ g = f) (hM : Apart Reg.CL_M f = true) (hD : Apart Reg.CL_DELTA f = true) (d : BitVec 256) :
    w.get f 0 j = (codebookWritten s wr inst cb).get f 0 j ∧ rd (s.close (w.extendMeas 3 d)) f 0 j = (codebookWritten s wr inst cb).get f 0 j := by
  have hs : SameAt (f.key 0 j) (codebookWritten s wr inst cb) w := by
    rw [hw]
    exact ((SameAt.refl _ _).set _ _ _ _ (key_ne_of_apart hM _ _ _ _)).set _ _ _ _ (key_ne_of_apart hD _ _ _ _)
  have hregs : w.regs = s.regs := by
    rw [hw]
    exact writeFields_regs s.view wr .CL inst cb 0x18C
  have hwip : w.wiped = false := by
    rw [hw]
    exact writeFields_wiped s.view wr .CL inst cb 0x18C
  have hget : w.get f 0 j = (codebookWritten s wr inst cb).get f 0 j := hs.get (hregs.trans (writeFields_regs s.view wr .CL inst cb 0x18C).symm)
  have hfaith : Faithful w f 0 j :=
    (faithful_writeFields (faithful_view s f 0 j) wr .CL inst cb 0x18C fun g hg => (hF g hg).imp_right fun h => ⟨h, hr⟩).keep hs
  have hfaith' : Faithful (w.extendMeas 3 d) f 0 j := hfaith
  exact ⟨hget, (hfaith'.rd hc hregs hwip).trans hget⟩

theorem codebook_valid (s : State) (wr : RegWr) (inst cb : Nat) (ha : s.alive = true) (hc : Canonical s) (hl : Lands s wr .CL 0x18C inst cb)
    (he : fieldEnabled wr Reg.CL_VALID = true) (hv : (s.view.busWrite wr).w.get Reg.CL_VALID 0 cb = 1) : ∃ t, exec (.codebookValid wr) s = .next t ∧
      rd t Reg.CL_VALID 0 cb = 1 ∧ rd t Reg.CL_M 0 cb = (e4m3.round (maxRat ((t.view.cbVals cb).map absRat))).1 % 2 ^ Reg.CL_M.width ∧
      t.node.se.meas = s.node.se.meas.modify 3 (fun m => Sys2Proof.Crypto.sha3v (Sys2Proof.Crypto.bytes32 m ++ Sys2Proof.Crypto.bytes32
        (Sys2Proof.Crypto.sha3v ((List.range (t.view.cbSize cb)).map fun k => BitVec.ofNat 8 (t.view.cbEntry cb k))))) := by
  obtain ⟨hvalid, hrun⟩ := codebook_run ha hl he hv
  have hreads := fun {f : Fld} {j : Nat} => codebook_reads (s := s) hc wr inst (cb := cb) (f := f) (j := j) rfl
  have hm : Shows (codebookMeasured (codebookWritten s wr inst cb) cb) Reg.CL_M ((e4m3.round (maxRat (((codebookWritten s wr inst cb).cbVals cb).map absRat))).1 % 2 ^ Reg.CL_M.width) 0 cb :=
    (shows_set _ Reg.CL_M _ 0 cb).set _ _ _ _ (key_ne_of_apart (by decide) _ _ _ _)
  have hn : (codebookMeasured (codebookWritten s wr inst cb) cb).n = s.node := (writeFields_n s.view wr .CL inst cb 0x18C).trans rfl
  generalize codebookMeasured (codebookWritten s wr inst cb) cb = w at *
  generalize hd : Sys2Proof.Crypto.sha3v (codebookBytes w cb) = d at *
  have hent : ∀ k, (s.close (w.extendMeas 3 d)).view.get Reg.CL_ENTRIES 0 k = (codebookWritten s wr inst cb).get Reg.CL_ENTRIES 0 k := fun k =>
    (hreads (by decide) (by decide) (by decide) (by decide) d).2
  have hsize : (s.close (w.extendMeas 3 d)).view.get Reg.CL_SIZE256 0 cb = (codebookWritten s wr inst cb).get Reg.CL_SIZE256 0 cb :=
    (hreads (by decide) (by decide) (by decide) (by decide) d).2
  obtain ⟨hvals, hbytes⟩ := cb_congr hent hsize
  have hbytes' : codebookBytes w cb = codebookBytes (codebookWritten s wr inst cb) cb :=
    (cb_congr (fun k => (hreads (f := Reg.CL_ENTRIES) (j := k) (by decide) (by decide) (by decide) (by decide) d).1)
      (hreads (f := Reg.CL_SIZE256) (j := cb) (by decide) (by decide) (by decide) (by decide) d).1).2
  refine ⟨_, hrun, ((hreads (by decide) (by decide) (by decide) (by decide) d).2).trans hvalid, ?_, ?_⟩
  · rw [hvals]
    have hm' : Shows (w.extendMeas 3 d) Reg.CL_M ((e4m3.round (maxRat (((codebookWritten s wr inst cb).cbVals cb).map absRat))).1 % 2 ^ Reg.CL_M.width) 0 cb := hm
    exact hm'.rd hc.1
  · have hmeas : (s.close (w.extendMeas 3 d)).node.se.meas = s.node.se.meas.modify 3 fun m => Sys2Proof.Crypto.sha3v (Sys2Proof.Crypto.bytes32 m ++ Sys2Proof.Crypto.bytes32 d) := by
      rw [close_node, ← hn]
      rfl
    have hdig : d = Sys2Proof.Crypto.sha3v (codebookBytes (s.close (w.extendMeas 3 d)).view cb) := by rw [hbytes, ← hbytes', hd]
    unfold codebookBytes at hdig
    exact hmeas.trans (congrArg (fun x => s.node.se.meas.modify 3 fun m => Sys2Proof.Crypto.sha3v (Sys2Proof.Crypto.bytes32 m ++ Sys2Proof.Crypto.bytes32 x)) hdig)

/-! ## The start of a weight load -/

theorem load_starts (s : State) (wr : RegWr) (inst idx : Nat) (ha : s.alive = true) (hc : Canonical s) (hl : Lands s wr .CL 0x190 inst idx) (hw : wrote1 wr Reg.CL_LOAD = true) :
    ∃ t, exec (.weightLoad wr) s = .next t ∧ rd t Reg.CL_BUSY = 1 ∧ rd t Reg.CL_DONE = 0 ∧ rd t Reg.CL_FAIL = 0 ∧ t.node = s.node ∧ t.mem = s.mem := by
  have hrun : exec (.weightLoad wr) s = .next (s.close ((((s.view.writeFields wr .CL inst idx 0x190).set Reg.CL_BUSY 1).set Reg.CL_DONE 0).set Reg.CL_FAIL 0)) := by
    rw [exec_load, execWeightLoad, run_alive _ ha, regAction_lands hl _ hl.1, if_pos hw]
  have hn := writeFields_n s.view wr .CL inst idx 0x190
  have hwr := writeFields_wr s.view wr .CL inst idx 0x190
  have hwip := writeFields_wiped s.view wr .CL inst idx 0x190
  generalize s.view.writeFields wr .CL inst idx 0x190 = w at *
  refine ⟨_, hrun, (((shows_set w Reg.CL_BUSY 1 0 0).set _ _ _ _ (key_ne_of_apart (by decide) _ _ _ _)).set _ _ _ _ (key_ne_of_apart (by decide) _ _ _ _)).rd hc.1,
    ((shows_set _ Reg.CL_DONE 0 0 0).set _ _ _ _ (key_ne_of_apart (by decide) _ _ _ _)).rd hc.1, (shows_set _ Reg.CL_FAIL 0 0 0).rd hc.1, ?_, close_mem_quiet s _ hwr hwip⟩
  rw [close_node]
  exact hn

/-! ## Its end -/

/-- A load that has ended. -/
def idleLoad (s : State) : Work := s.view.set Reg.CL_BUSY 0

/-- Where the package lies. -/
def packageAddr (s : State) : Nat := rd s Reg.CL_ADDR_LO + rd s Reg.CL_ADDR_HI * 2 ^ 32

/-- A package that fails. -/
def loadFails (w : Work) (addr entry : Nat) : Work := (w.set Reg.CL_FAIL 1).report { code := 0x4505, page := 0x30, arg := addr, detail := entry }

/-- A package that is verified: its layers wait for the freeze. -/
def loadGood (w : Work) (pkg : Bytes) (ls : List WLayer) : Work :=
  ((({ w with n.cl.pendingWeights := some ls } : Work).set Reg.CL_DONE 1).showStores ls).extendMeas 3 (Sys2Proof.Crypto.sha3v pkg)

/-- The decoding of a package's entries. -/
def entriesDecoded (w : Work) (r : Except Nat (List WLayer)) : Work :=
  match r with
  | .ok ls => w.decodePackage ls
  | .error _ => w

/-- The verdict on a package. -/
def loadJudged (w : Work) (addr : Nat) (pkg : Bytes) (r : Except Nat (List WLayer)) : Work :=
  match r with
  | .error i => loadFails w addr i
  | .ok ls => loadGood w pkg (w.placeLayers ls)

/-- The end of a load. -/
def loadEnded (w : Work) (addr : Nat) (r : Option Nat) : Work :=
  match r with
  | none => loadFails (w.nameSpan 0x30 addr 64) addr 0xFFFF
  | some total => loadJudged (entriesDecoded w (w.weightEntries addr (w.bytes addr total) (fieldAt (w.bytes addr total) 5 1) 0 0)) addr (w.bytes addr total)
      (w.weightLayers addr (w.bytes addr total) (fieldAt (w.bytes addr total) 5 1) 0 0)

theorem loadDone_run {s : State} (ha : s.alive = true) (hb : rd s Reg.CL_BUSY = 1) :
    exec .weightLoadDone s = .next (s.close (loadEnded (idleLoad s) (packageAddr s) (packageLen (idleLoad s) (packageAddr s)))) := by
  have hflag : s.view.flag Reg.CL_BUSY = true := (flag_eq hb).trans (by decide)
  rw [exec_loadDone, execWeightLoadDone, run_alive _ ha, hflag, if_neg (by decide)]
  rfl

theorem packageLen_idle (s : State) (a : Nat) : packageLen (idleLoad s) a = packageLen s.view a ∧ ∀ len, (idleLoad s).bytes a len = s.view.bytes a len := ⟨rfl, fun _ => rfl⟩

section
variable {s : State} (hc : Canonical s) {w : Work}
include hc

/-- A load that fails shows it. -/
theorem loadFails_reads (hw : Shows w Reg.CL_BUSY 0 0 0) (addr entry : Nat) : rd (s.close (loadFails w addr entry)) Reg.CL_BUSY = 0 ∧
    rd (s.close (loadFails w addr entry)) Reg.CL_FAIL = 1 := by
  have hr := reports_report (w.set Reg.CL_FAIL 1) { code := 0x4505, page := 0x30, arg := addr, detail := entry }
  exact ⟨(hr.shows (plain_high (by decide) 0 0) (hw.set _ _ _ _ (key_ne_of_apart (by decide) _ _ _ _))).rd hc.1,
    (hr.shows (plain_high (by decide) 0 0) (shows_set w Reg.CL_FAIL 1 0 0)).rd hc.1⟩

end

theorem loadFails_cl (w : Work) (addr entry : Nat) : (loadFails w addr entry).n.cl = w.n.cl :=
  (reports_report (w.set Reg.CL_FAIL 1) { code := 0x4505, page := 0x30, arg := addr, detail := entry }).n_cl

theorem nameSpan_reports (w : Work) (p a len : Nat) : Reports w (w.nameSpan p a len) := by
  unfold Work.nameSpan
  split
  · exact reports_capture _ _
  · exact Reports.refl w

theorem idle_shows (s : State) : Shows (idleLoad s) Reg.CL_BUSY 0 0 0 := shows_set s.view Reg.CL_BUSY 0 0 0

theorem load_refused (s : State) (ha : s.alive = true) (hc : Canonical s) (hb : rd s Reg.CL_BUSY = 1) (hp : packageLen s.view (rd s Reg.CL_ADDR_LO + rd s Reg.CL_ADDR_HI * 2 ^ 32) = none) :
    ∃ t, exec .weightLoadDone s = .next t ∧ rd t Reg.CL_BUSY = 0 ∧ rd t Reg.CL_FAIL = 1 ∧ t.node.cl = s.node.cl := by
  have hrun := loadDone_run ha hb
  have hp' : packageLen (idleLoad s) (packageAddr s) = none := (packageLen_idle s _).1.trans hp
  rw [hp'] at hrun
  have hspan := nameSpan_reports (idleLoad s) 0x30 (packageAddr s) 64
  obtain ⟨h1, h2⟩ := loadFails_reads hc (hspan.shows (plain_high (by decide) 0 0) (idle_shows s)) (packageAddr s) 0xFFFF
  refine ⟨_, hrun, h1, h2, ?_⟩
  rw [close_node]
  exact (loadFails_cl _ _ _).trans hspan.n_cl

/-- What the stores of a set show. -/
def storeFlds : List Fld := [Reg.CL_RES0, Reg.CL_RES1, Reg.CL_STREAMED, Reg.CL_FREE_KIB]

theorem showStores_rest (w : Work) (ls : List WLayer) : fields storeFlds (w.showStores ls) = fields storeFlds w ∧ (w.showStores ls).n = w.n := by
  unfold Work.showStores
  refine ⟨?_, rfl⟩
  rw [fields_set _ _ _ _ _ (by decide), fields_set _ _ _ _ _ (by decide), fields_set _ _ _ _ _ (by decide), fields_set _ _ _ _ _ (by decide)]

theorem extendMeas_rest (w : Work) (k : Nat) (d : BitVec 256) (F : List Fld) : fields F (w.extendMeas k d) = fields F w ∧ (w.extendMeas k d).n.cl = w.n.cl := ⟨rfl, rfl⟩

theorem loadGood_rest (w : Work) (pkg : Bytes) (ls : List WLayer) : fields (Reg.CL_DONE :: storeFlds) (loadGood w pkg ls) = fields (Reg.CL_DONE :: storeFlds) w ∧
    (loadGood w pkg ls).n.cl = { w.n.cl with pendingWeights := some ls } ∧ Shows (loadGood w pkg ls) Reg.CL_DONE 1 0 0 := by
  unfold loadGood
  generalize hv : ({ w with n.cl.pendingWeights := some ls } : Work) = v
  have hcl : v.n.cl = { w.n.cl with pendingWeights := some ls } := by rw [← hv]
  have hf : ∀ F, fields F v = fields F w := fun F => by
    rw [← hv]
    rfl
  obtain ⟨s1, s2⟩ := showStores_rest (v.set Reg.CL_DONE 1) ls
  obtain ⟨e1, e2⟩ := extendMeas_rest ((v.set Reg.CL_DONE 1).showStores ls) 3 (Sys2Proof.Crypto.sha3v pkg) (Reg.CL_DONE :: storeFlds)
  obtain ⟨e3, -⟩ := extendMeas_rest ((v.set Reg.CL_DONE 1).showStores ls) 3 (Sys2Proof.Crypto.sha3v pkg) storeFlds
  refine ⟨e1.trans ((fields_weaken (by decide) s1).trans ((fields_set _ _ _ _ _ (by decide)).trans (hf _))), ?_,
    shows_of_fields (e3.trans s1) (by decide) (shows_set v Reg.CL_DONE 1 0 0)⟩
  rw [e2, s2, set_n, hcl]

theorem decoding_entriesDecoded (w : Work) (r : Except Nat (List WLayer)) : decoding (entriesDecoded w r) = decoding w := by
  cases r with
  | error _ => rfl
  | ok ls => exact decoding_decodePackage w ls

/-- The layers of a set placed in the stores are those of the package. -/
theorem placeLayers_layers (w : Work) (ls : List WLayer) : (w.placeLayers ls).map (fun l => (l.layer, l.h, l.d, l.c, l.packed)) = ls.map fun l => (l.layer, l.h, l.d, l.c, l.packed) := by
  have hkeep : ∀ (f : WLayer → Bool) (ls : List WLayer) (o : Nat), (keepStreamed f ls o).map (fun l => (l.layer, l.h, l.d, l.c, l.packed)) = ls.map fun l => (l.layer, l.h, l.d, l.c, l.packed) := by
    intro f ls
    induction ls with
    | nil => exact fun _ => rfl
    | cons l ls ih =>
      intro o
      unfold keepStreamed
      split
      · rw [List.map_cons, List.map_cons, ih]
      · rw [List.map_cons, List.map_cons, ih]
  unfold Work.placeLayers
  dsimp only
  rw [hkeep]
  exact List.ext_getElem (by simp) fun i _ _ => by simp

section
variable {w v : Work} (hs : v.n.pg.sessions = w.n.pg.sessions) (hf : ∀ i, (v.rowFmt i).c = (w.rowFmt i).c)
include hs hf

theorem weightEntry_congr (a : Nat) (pkg : Bytes) (i prev : Nat) : v.weightEntry a pkg i prev = w.weightEntry a pkg i prev := by
  unfold Work.weightEntry
  simp only [hs, hf]

theorem weightEntries_congr (a : Nat) (pkg : Bytes) (n i prev : Nat) : v.weightEntries a pkg n i prev = w.weightEntries a pkg n i prev := by
  induction n generalizing i prev with
  | zero => rfl
  | succ n ih =>
    unfold Work.weightEntries
    rw [weightEntry_congr hs hf]
    cases w.weightEntry a pkg i prev with
    | none => rfl
    | some l =>
      dsimp only
      rw [ih]

theorem weightLayers_congr (a : Nat) (pkg : Bytes) (n i prev : Nat) : v.weightLayers a pkg n i prev = w.weightLayers a pkg n i prev := by
  unfold Work.weightLayers
  rw [weightEntries_congr hs hf]

end

theorem weightLayers_idle (s : State) (a : Nat) (pkg : Bytes) (n i prev : Nat) : (idleLoad s).weightLayers a pkg n i prev = s.view.weightLayers a pkg n i prev :=
  weightLayers_congr (w := s.view) (v := idleLoad s) rfl (fun j => get_set_apart s.view (f := Reg.CL_BUSY) (g := Reg.PGM_LATENT) (by decide) 0 0 0 0 j) a pkg n i prev

theorem load_done (s : State) (ha : s.alive = true) (hc : Canonical s) (hb : rd s Reg.CL_BUSY = 1) : ∃ t, exec .weightLoadDone s = .next t ∧ rd t Reg.CL_BUSY = 0 ∧
    (∀ (a len : Nat) (ls : List WLayer), a = rd s Reg.CL_ADDR_LO + rd s Reg.CL_ADDR_HI * 2 ^ 32 → packageLen s.view a = some len →
      s.view.weightLayers a (s.view.bytes a len) (fieldAt (s.view.bytes a len) 5 1) 0 0 = .ok ls →
      rd t Reg.CL_DONE = 1 ∧ (t.node.cl.pendingWeights.getD []).map (fun l => (l.layer, l.h, l.d, l.c, l.packed)) =
      ls.map (fun l => (l.layer, l.h, l.d, l.c, l.packed)) ∧ t.node.cl.weights = s.node.cl.weights) := by
  cases hp : packageLen s.view (packageAddr s) with
  | none =>
    obtain ⟨t, ht, h1, -⟩ := load_refused s ha hc hb hp
    refine ⟨t, ht, h1, fun a len ls hA hlen => ?_⟩
    rw [hA] at hlen
    exact absurd (hp.symm.trans hlen) (by simp)
  | some total =>
    have hrun := loadDone_run ha hb
    rw [(packageLen_idle s _).1, hp] at hrun
    unfold loadEnded at hrun
    dsimp only at hrun
    rw [(packageLen_idle s _).2, weightLayers_idle] at hrun
    have hdec := decoding_entriesDecoded (idleLoad s) ((idleLoad s).weightEntries (packageAddr s) (s.view.bytes (packageAddr s) total) (fieldAt (s.view.bytes (packageAddr s) total) 5 1) 0 0)
    generalize entriesDecoded (idleLoad s) _ = w at *
    have hfl : fields xpdFlds w = fields xpdFlds (idleLoad s) := congrArg (fun x => x.1) hdec
    have hwt : w.n.cl.weights = s.node.cl.weights := congrArg (fun x => x.2.1) hdec
    have hbusy : Shows w Reg.CL_BUSY 0 0 0 := shows_of_fields hfl (by decide) (idle_shows s)
    refine ⟨_, hrun, ?_, fun a len ls hA hlen hok => ?_⟩
    · generalize s.view.weightLayers _ _ _ _ _ = r
      cases r with
      | error i => exact (loadFails_reads hc hbusy _ i).1
      | ok ls =>
        obtain ⟨h1, -, -⟩ := loadGood_rest w (s.view.bytes (packageAddr s) total) (w.placeLayers ls)
        exact (shows_of_fields h1 (by decide) hbusy).rd hc.1
    · have hA' : a = packageAddr s := hA
      subst hA'
      have hlt : len = total := Option.some.inj (hlen.symm.trans hp)
      subst hlt
      rw [hok]
      obtain ⟨-, h2, h3⟩ := loadGood_rest w (s.view.bytes (packageAddr s) len) (w.placeLayers ls)
      refine ⟨h3.rd hc.1, ?_, ?_⟩
      · rw [close_node]
        exact (congrArg (fun c : Clusters => (c.pendingWeights.getD []).map fun l => (l.layer, l.h, l.d, l.c, l.packed)) h2).trans (placeLayers_layers w ls)
      · rw [close_node]
        exact (congrArg Clusters.weights h2).trans hwt

/-- Settles O23: a register's write is the fold of its fields' (`fieldWrites_shows`); what a decode leaves (`decoding`) carries the end of a
weight load past the expanders' work. -/
theorem codebooksFormatsAndWeightsTakeForce : Obligations.CodebooksFormatsAndWeightsTakeForce := by
  unfold Obligations.CodebooksFormatsAndWeightsTakeForce
  exact ⟨fmt_written, codebook_valid, load_starts, load_refused, load_done⟩

end Sys2Proof.Loads
end

section
/-!
The end of a message (R283, R285, R300): what it, and the messages that it lets act, leave of the node and of the registers, and that its
completion record waits on its connection.
-/

namespace Sys2Proof.Answers

open Sys2Proof.Machine Sys2Proof.Safety Sys2Proof.Laws Sys2Proof.Fields Sys2Proof.Entries Sys2Proof.Assoc

/-- The node but for its transport, its host queues, what it meters and logs, and what has left it. -/
def outer (w : Work) : Node :=
  { w.n with tp := Node.reset.tp, hq := Node.reset.hq, mt := Node.reset.mt, holdoffs := [], log := [], logSeq := 0, out := [] }

/-- The registers that messages write as they end. -/
def messageFlds : List Fld :=
  entryFlds ++ [Reg.FAB_VIOL_KEY, Reg.FAB_VIOL_GEN, Reg.FAB_NOTICES_SUPPRESSED, Reg.QUE_NOTICE_LOST, Reg.MIR_STALE_REFUSED]

/-- A connection that has had its notice of a tick. -/
def noticed (now : Tick) (c : Conn) : Conn := { c with noticeTick := some now }

/-- A view whose connections are others. -/
def withConns (w : Work) (l : List (Nat × Conn)) : Work := { w with n.tp.conns := l }

/-- What a violation does, if its connection is known: it counts and reports, then counts a notice more or sends one. -/
theorem violated_cases (w : Work) (id target st : Nat) : w.violated id target st = w ∨ ∃ f ∈ [Reg.FAB_VIOL_KEY, Reg.FAB_VIOL_GEN], ∃ e,
    w.violated id target st = ((w.count f 1 0 0).report e).count Reg.FAB_NOTICES_SUPPRESSED ∨
    ∃ p key now, w.violated id target st =
      (withConns ((w.count f 1 0 0).report e) (modifyN id (noticed now) ((w.count f 1 0 0).report e).n.tp.conns)).partNotice p key id st := by
  unfold Work.violated
  cases w.connOf id with
  | none => exact .inl rfl
  | some c =>
    refine .inr ⟨if st = stViolGen then Reg.FAB_VIOL_GEN else Reg.FAB_VIOL_KEY, by split <;> simp,
      { code := 0x4802, page := 0x70, part := some c.part, status := st
        arg := target / 2 ^ 40 % 2 ^ 24 + target / 2 ^ 32 % 256 * 2 ^ 24, detail := id + st * 2 ^ 24 }, ?_⟩
    dsimp only
    generalize (if st = stViolGen then Reg.FAB_VIOL_GEN else Reg.FAB_VIOL_KEY) = f
    generalize Work.report (w.count f) _ = v
    split
    · exact .inl rfl
    · exact .inr ⟨_, _, v.now, rfl⟩

/-! ## What messages leave of the node -/

theorem outer_of_inner {w v : Work} (h : inner v = inner w) : outer v = outer w := by
  have := congrArg (fun n : Node => ({ n with tp := Node.reset.tp, holdoffs := [], log := [], logSeq := 0 } : Node)) h
  exact this

theorem outer_of_reports {w v : Work} (h : Reports w v) : outer v = outer w := by
  unfold outer
  rw [h.n]

section
variable (w : Work)

theorem outer_set (f v i j) : outer (w.set f v i j) = outer w := rfl

theorem outer_count (f v i j) : outer (w.count f v i j) = outer w := rfl

theorem outer_report (e) : outer (w.report e) = outer w := outer_of_reports (reports_report w e)

theorem outer_log (e) : outer (w.log e) = outer w := outer_of_reports (reports_log w e)

theorem outer_recordDone (id msn r) : outer (w.recordDone id msn r) = outer w := by
  unfold Work.recordDone
  split <;> rfl

theorem outer_cqNotice (q a0 a1 st) : outer (w.cqNotice q a0 a1 st) = outer w := by
  unfold Work.cqNotice
  dsimp only
  split
  · rfl
  · exact outer_of_inner (inner_cqProduce ..)

theorem outer_partNotice (p a0 a1 st) : outer (w.partNotice p a0 a1 st) = outer w := by
  unfold Work.partNotice
  split
  · exact outer_cqNotice ..
  · rfl

theorem outer_violated (id target st) : outer (w.violated id target st) = outer w := by
  rcases violated_cases w id target st with h | ⟨f, -, e, h | ⟨p, key, now, h⟩⟩
  · rw [h]
  · rw [h, outer_count, outer_report, outer_count]
  · rw [h, outer_partNotice]
    exact outer_report ..

theorem outer_remoteAct (c m) : outer (w.remoteAct c m) = outer w := by
  unfold Work.remoteAct
  dsimp only
  split
  · exact (outer_recordDone ..).trans (outer_count ..)
  · split
    · exact outer_recordDone ..
    · split
      · exact outer_recordDone ..
      · split
        · exact outer_recordDone ..
        · split
          · exact (outer_recordDone ..).trans (outer_violated ..)
          · refine (outer_recordDone ..).trans ?_
            split
            · rfl
            · split <;> rfl

theorem outer_releaseFenced (id) : outer (w.releaseFenced id) = outer w := by
  unfold Work.releaseFenced
  dsimp only
  split
  · rfl
  · refine Frame.foldl_keeps outer ?_ _ _
    exact fun _ _ => rfl

theorem outer_settleMsgs (fuel) : outer (Work.settleMsgs fuel w) = outer w := by
  induction fuel generalizing w with
  | zero => rfl
  | succ fuel ih =>
    rw [Work.settleMsgs]
    split
    · exact (ih _).trans ((outer_releaseFenced ..).trans (outer_recordDone ..))
    · split
      · exact (ih _).trans (outer_remoteAct ..)
      · rfl

theorem outer_completeMsg (id msn tag st a0 a1) : outer (w.completeMsg id msn tag st a0 a1) = outer w :=
  (outer_settleMsgs ..).trans (outer_recordDone ..)

theorem outer_complete (src tag st a0 a1 hd) : outer (w.complete src tag st a0 a1 hd) = outer w := by
  unfold Work.complete
  split
  · exact outer_completeMsg ..
  · exact outer_of_inner (inner_completeEntry ..)

end

/-! ## What messages leave of the registers -/

/-- The registers of a view but for what reports write and the fields of a list, each on its page's first instance. -/
def besides (F : List Fld) (w : Work) :=
  (w.regs, w.wiped, fun k : {k // Plain k ∧ ∀ f ∈ F, f.key 0 0 ≠ k} => w.rw.find? fun e => e.1 = k.1)

section
variable {F : List Fld} {w v : Work}

theorem fields_of_besides (h : besides F v = besides F w) : fields F v = fields F w := by
  unfold fields
  rw [show v.regs = w.regs from congrArg (·.1) h, show v.wiped = w.wiped from congrArg (·.2.1) h]
  refine congrArg (fun x => (w.regs, w.wiped, x)) (funext fun k => ?_)
  exact congrFun (congrArg (fun x : _ × _ × ({k // Plain k ∧ ∀ f ∈ F, f.key 0 0 ≠ k} → _) => x.2.2) h) ⟨k.1, k.2.1, fun f hf => k.2.2 f hf 0 0⟩

theorem sameAt_of_besides (h : besides F v = besides F w) {k : Nat} (hk : Plain k ∧ ∀ f ∈ F, f.key 0 0 ≠ k) : SameAt k w v :=
  congrFun (congrArg (fun x : _ × _ × ({k // Plain k ∧ ∀ f ∈ F, f.key 0 0 ≠ k} → _) => x.2.2) h) ⟨k, hk⟩

theorem besides_of_reports (h : Reports w v) : besides F v = besides F w := by
  unfold besides
  rw [h.regs, h.wiped]
  exact congrArg (fun x => (w.regs, w.wiped, x)) (funext fun k => h.rw_ k.1 k.2.1)

theorem besides_set (w : Work) {f : Fld} (h : f ∈ F) (v : Nat) : besides F (w.set f v) = besides F w := by
  unfold besides
  rw [set_regs, set_wiped]
  exact congrArg (fun x => (w.regs, w.wiped, x)) (funext fun k => sameAt_set w f v 0 0 (k.2.2 f h))

theorem besides_count (w : Work) {f : Fld} (h : f ∈ F) (n : Nat) : besides F (w.count f n) = besides F w := besides_set w h _

theorem besides_ite {c : Prop} [Decidable c] {a b u : Work} (ha : besides F a = besides F u) (hb : besides F b = besides F u) :
    besides F (if c then a else b) = besides F u := by
  split
  · exact ha
  · exact hb

end

section
variable (w : Work) {F : List Fld} (hF : entryFlds ⊆ F)

theorem besides_hostStore (fn a b r) : besides F (w.hostStore fn a b r) = besides F w := besides_ite rfl rfl

include hF in
theorem besides_pcieOut (p len) : besides F (w.pcieOut p len) = besides F w := by
  have h := besides_count w (hF (by decide : Reg.PCI_WR_KIB ∈ entryFlds)) (kibCount w.n.hq.wrFrac len).1
  unfold Work.pcieOut
  dsimp only
  split
  · unfold Work.meter
    split <;> exact h
  · exact h

theorem besides_queueSignal (q) : besides F (w.queueSignal q) = besides F w := by
  have h : ∀ (v : Work) fn vec, besides F (v.msixSend fn vec) = besides F v := by
    intro v fn vec
    unfold Work.msixSend
    dsimp only
    exact besides_ite rfl (besides_ite rfl rfl)
  unfold Work.queueSignal
  dsimp only
  split
  · exact h _ _ _
  · rfl

include hF

theorem besides_cqProduce (q tag a0 a1 si st fl irq) : besides F (w.cqProduce q tag a0 a1 si st fl irq) = besides F w := by
  have hp : ∀ bs, besides F (Queues.cqPut w q bs) = besides F w := fun bs => (besides_pcieOut _ hF ..).trans (besides_hostStore ..)
  obtain ⟨bs, h⟩ := Queues.cqProduce_eq w q tag a0 a1 si st fl irq
  rw [h]
  exact besides_ite ((besides_queueSignal ..).trans (hp _)) (besides_ite ((besides_queueSignal ..).trans (hp _)) (hp _))

theorem besides_endEntry (q e st a0 a1 fl hd) : besides F (w.endEntry q e st a0 a1 fl hd) = besides F w := by
  unfold Work.endEntry
  dsimp only
  split
  · rfl
  · split
    · exact besides_count _ (hF (by decide)) _
    · exact besides_cqProduce _ hF ..

theorem besides_startEntries (fuel) : besides F (Work.startEntries fuel w) = besides F w := by
  induction fuel generalizing w with
  | zero => rfl
  | succ fuel ih =>
    rw [Work.startEntries]
    split
    · rfl
    · split
      · exact (ih _).trans (besides_endEntry _ hF ..)
      · exact ih _

theorem besides_completeEntry (q e st a0 a1 fl hd) : besides F (w.completeEntry q e st a0 a1 fl hd) = besides F w :=
  (besides_startEntries _ hF ..).trans (besides_endEntry _ hF ..)

end

section
variable (w : Work) {F : List Fld} (hF : messageFlds ⊆ F)
include hF

theorem entryFlds_sub : entryFlds ⊆ F := fun _ h => hF (List.mem_append_left _ h)

theorem besides_messageCount {f : Fld} (hf : f ∈ messageFlds) (n : Nat) : besides F (w.count f n) = besides F w := besides_count _ (hF hf) _

omit hF in
theorem besides_recordDone (id msn r) : besides F (w.recordDone id msn r) = besides F w := by
  unfold Work.recordDone
  split <;> rfl

theorem besides_partNotice (p a0 a1 st) : besides F (w.partNotice p a0 a1 st) = besides F w := by
  unfold Work.partNotice Work.cqNotice
  dsimp only
  split
  · split
    · exact besides_messageCount w hF (by decide) _
    · exact besides_cqProduce _ (entryFlds_sub hF) ..
  · exact besides_messageCount w hF (by decide) _

theorem besides_violated (id target st) : besides F (w.violated id target st) = besides F w := by
  have hv : ∀ f ∈ [Reg.FAB_VIOL_KEY, Reg.FAB_VIOL_GEN], ∀ e, besides F ((w.count f 1 0 0).report e) = besides F w := fun f hf e =>
    (besides_of_reports (reports_report ..)).trans (besides_messageCount _ hF ((by decide : [Reg.FAB_VIOL_KEY, Reg.FAB_VIOL_GEN] ⊆ messageFlds) hf) _)
  rcases violated_cases w id target st with h | ⟨f, hf, e, h | ⟨p, key, now, h⟩⟩
  · rw [h]
  · rw [h, besides_messageCount _ hF (by decide), hv f hf]
  · rw [h, besides_partNotice _ hF]
    exact hv f hf e

theorem besides_remoteAct (c m) : besides F (w.remoteAct c m) = besides F w := by
  unfold Work.remoteAct
  dsimp only
  split
  · exact (besides_recordDone ..).trans (besides_messageCount _ hF (by decide) _)
  · split
    · exact besides_recordDone ..
    · split
      · exact besides_recordDone ..
      · split
        · exact besides_recordDone ..
        · split
          · exact (besides_recordDone ..).trans (besides_violated _ hF ..)
          · refine (besides_recordDone ..).trans ?_
            split
            · rfl
            · split <;> rfl

omit hF in
theorem besides_releaseFenced (id) : besides F (w.releaseFenced id) = besides F w := by
  unfold Work.releaseFenced
  dsimp only
  split
  · rfl
  · refine Frame.foldl_keeps (besides F) ?_ _ _
    exact fun _ _ => rfl

theorem besides_settleMsgs (fuel) : besides F (Work.settleMsgs fuel w) = besides F w := by
  induction fuel generalizing w with
  | zero => rfl
  | succ fuel ih =>
    rw [Work.settleMsgs]
    split
    · exact (ih _).trans ((besides_releaseFenced ..).trans (besides_recordDone ..))
    · split
      · exact (ih _).trans (besides_remoteAct _ hF ..)
      · rfl

theorem besides_completeMsg (id msn tag st a0 a1) : besides F (w.completeMsg id msn tag st a0 a1) = besides F w :=
  (besides_settleMsgs _ hF ..).trans (besides_recordDone ..)

theorem besides_complete (src tag st a0 a1 hd) : besides F (w.complete src tag st a0 a1 hd) = besides F w := by
  unfold Work.complete
  split
  · exact besides_completeMsg _ hF ..
  · exact besides_completeEntry _ (entryFlds_sub hF) ..

end

/-! ## A message's completion record -/

/-- A completion record waits on a connection. -/
def Recorded (id : Nat) (r : CmplRec) (w : Work) : Prop := ∃ c ∈ lookupN id w.n.tp.conns, r ∈ c.records

theorem markDone_records (c : Conn) (msn : Nat) : (c.markDone msn).records = c.records := by
  have ha : ∀ n (c : Conn), (Conn.advance n c).records = c.records := by
    intro n
    induction n with
    | zero => exact fun _ => rfl
    | succ n ih =>
      intro c
      rw [Conn.advance]
      split
      · exact ih _
      · rfl
  unfold Conn.markDone
  split
  · rfl
  · exact ha _ _

section
variable {id : Nat} {r : CmplRec} {w : Work}

theorem Recorded.of_conns (h : Recorded id r w) {v : Work} (hv : v.n.tp.conns = w.n.tp.conns) : Recorded id r v := by
  unfold Recorded
  rw [hv]
  exact h

theorem recorded_insert {c : Conn} (h : r ∈ c.records) {l : List (Nat × Conn)} : ∃ x ∈ lookupN id (insertN id c l), r ∈ x.records :=
  ⟨c, lookupN_insertN .., h⟩

theorem Recorded.recordDone (h : Recorded id r w) (i msn : Nat) (x : Option CmplRec) : Recorded id r (w.recordDone i msn x) := by
  obtain ⟨c, hc, hr⟩ := h
  unfold Work.recordDone
  split
  · exact ⟨c, hc, hr⟩
  next d hd =>
    dsimp only
    by_cases hi : i = id
    · subst hi
      have hdc : d = c := Option.some.inj (hd.symm.trans hc)
      subst hdc
      refine recorded_insert ?_
      have hm := markDone_records d msn
      split
      · exact List.mem_append_left _ (hm ▸ hr)
      · exact hm ▸ hr
    · exact ⟨c, (lookupN_insertN_ne _ _ (Ne.symm hi)).trans hc, hr⟩

theorem recordDone_recorded (h : (w.connOf id).isSome) (msn : Nat) : Recorded id r (w.recordDone id msn (some r)) := by
  obtain ⟨c, hc⟩ := Option.isSome_iff_exists.1 h
  unfold Work.recordDone
  rw [hc]
  exact recorded_insert (List.mem_append_right _ (List.mem_singleton.2 rfl))

end

/-! ## The connections that messages leave -/

/-- What answers leave of a node's connections, whether the message of one is done, and what has been seen of it, aside. -/
theorem conns_of_inner {w v : Work} (h : inner v = inner w) : v.n.tp.conns = w.n.tp.conns := by
  have := congrArg (fun n : Node => n.tp.conns) h
  exact this

theorem conns_of_reports {w v : Work} (h : Reports w v) : v.n.tp.conns = w.n.tp.conns := by rw [h.n]

section
variable {id : Nat} {r : CmplRec} {w : Work}

theorem Recorded.partNotice (h : Recorded id r w) (p a0 a1 st : Nat) : Recorded id r (w.partNotice p a0 a1 st) := by
  refine h.of_conns ?_
  unfold Work.partNotice Work.cqNotice
  dsimp only
  split
  · split
    · rfl
    · exact conns_of_inner (inner_cqProduce ..)
  · rfl

theorem Recorded.modifyN (h : Recorded id r w) (i : Nat) (f : Conn → Conn) (hf : ∀ c, (f c).records = c.records) :
    Recorded id r (withConns w (Machine.modifyN i f w.n.tp.conns)) := by
  obtain ⟨c, hc, hr⟩ := h
  by_cases hi : id = i
  · subst hi
    exact ⟨f c, (lookupN_modifyN ..).trans (Option.mem_def.1 (Option.mem_map_of_mem f hc)), (hf c).symm ▸ hr⟩
  · exact ⟨c, (lookupN_modifyN_ne _ _ hi).trans hc, hr⟩

theorem Recorded.violated (h : Recorded id r w) (i target st : Nat) : Recorded id r (w.violated i target st) := by
  have hr : ∀ (f : Fld) (e : Ev), Recorded id r ((w.count f 1 0 0).report e) := fun f e => h.of_conns (by rw [conns_of_reports (reports_report _ e), count_n])
  rcases violated_cases w i target st with hv | ⟨f, -, e, hv | ⟨p, key, now, hv⟩⟩ <;> rw [hv]
  · exact h
  · exact (hr f e).of_conns rfl
  · exact ((hr f e).modifyN i (noticed now) fun _ => rfl).partNotice _ _ _ _

theorem Recorded.remoteAct (h : Recorded id r w) (c : Conn) (m : InMsg) : Recorded id r (w.remoteAct c m) := by
  unfold Work.remoteAct
  dsimp only
  split
  · exact Recorded.recordDone (w := w.count _ _ _ _) h _ _ _
  · split
    · exact h.recordDone _ _ _
    · split
      · exact h.recordDone _ _ _
      · split
        · exact h.recordDone _ _ _
        · split
          · exact (h.violated _ _ _).recordDone _ _ _
          · refine Recorded.recordDone ?_ _ _ _
            split
            · exact h.of_conns rfl
            · split <;> exact h.of_conns rfl

theorem releaseFenced_conns (w : Work) (i : Nat) : (w.releaseFenced i).n.tp.conns = w.n.tp.conns := by
  unfold Work.releaseFenced
  dsimp only
  split
  · rfl
  · refine Frame.foldl_keeps (fun w : Work => w.n.tp.conns) ?_ _ _
    exact fun _ _ => rfl

theorem Recorded.settleMsgs (h : Recorded id r w) (fuel : Nat) : Recorded id r (Work.settleMsgs fuel w) := by
  induction fuel generalizing w with
  | zero => exact h
  | succ fuel ih =>
    rw [Work.settleMsgs]
    split
    · exact ih ((h.recordDone _ _ _).of_conns (releaseFenced_conns _ _))
    · split
      · exact ih (h.remoteAct _ _)
      · exact h

theorem completeMsg_recorded (h : (w.connOf id).isSome) (msn tag st a0 a1 : Nat) :
    Recorded id { msn := msn, status := st, tag := tag, aux0 := a0, aux1 := a1 } (w.completeMsg id msn tag st a0 a1) :=
  (recordDone_recorded h msn).settleMsgs _

/-- A request that is answered is answered at its source. -/
theorem answeredTo_complete {s : State} (w : Work) (src : Src) (tag st a0 a1 : Nat) (hd : Option Nat)
    (h : ∀ id msn, src = .conn id msn → (w.connOf id).isSome) : AnsweredTo (s.close (w.complete src tag st a0 a1 hd)) src tag st a0 a1 := by
  cases src with
  | conn id msn =>
    obtain ⟨c, hc, hr⟩ := completeMsg_recorded (h id msn rfl) msn tag st a0 a1
    exact ⟨c, hc, hr⟩
  | queue q e => exact (completeEntry_gone w q e st a0 a1 0 hd).entryOf

end

end Sys2Proof.Answers
end

section
/-!
The records of collectors (R201 to R207, R285): partials, credits and cancels, and the ends of what they wait for.
-/

namespace Sys2Proof.Collectors

open Sys2Proof.Machine Sys2Proof.Safety Sys2Proof.Laws Sys2Proof.Fields Sys2Proof.Entries Sys2Proof.Answers Sys2Proof.Assoc Sys2Proof.Entering

/-! ## What a record that leaves changes -/

/-- The sheets and the groups of a view. -/
def gathered (w : Work) := (w.n.qa.cur, w.n.qa.next, w.n.qa.groups)

/-- The registers that records write as they leave. -/
def leaveFlds : List Fld := messageFlds ++ [Reg.MRG_OPEN, Reg.QAD_HELD]

/-- From `w` to `v` the sheets, the groups and the other registers stay, and connection `id` stays known. -/
structure Passes (id : Nat) (w v : Work) : Prop where
  stay : gathered v = gathered w
  fields_ : besides leaveFlds v = besides leaveFlds w
  known : (w.connOf id).isSome → (v.connOf id).isSome

section
variable {id : Nat} {u w v : Work}

theorem Passes.refl : Passes id w w := ⟨rfl, rfl, fun h => h⟩

theorem Passes.trans (h : Passes id u w) (g : Passes id w v) : Passes id u v :=
  ⟨g.stay.trans h.stay, g.fields_.trans h.fields_, fun hk => g.known (h.known hk)⟩

theorem Passes.ite {c : Prop} [Decidable c] {a b : Work} (ha : Passes id w a) (hb : Passes id w b) : Passes id w (if c then a else b) := by
  split
  · exact ha
  · exact hb

theorem connOf_of_conns (h : v.n.tp.conns = w.n.tp.conns) : v.connOf id = w.connOf id := by
  unfold Work.connOf
  rw [h]

theorem gathered_of_outer (h : outer v = outer w) : gathered v = gathered w := by
  have := congrArg (fun n : Node => (n.qa.cur, n.qa.next, n.qa.groups)) h
  exact this

theorem passes_of_inner (h : inner v = inner w) (hf : besides leaveFlds v = besides leaveFlds w) : Passes id w v :=
  ⟨gathered_of_outer (outer_of_inner h), hf, fun hk => by rwa [connOf_of_conns (conns_of_inner h)]⟩

theorem passes_of_reports (h : Reports w v) : Passes id w v :=
  ⟨gathered_of_outer (outer_of_reports h), besides_of_reports h, fun hk => by rwa [connOf_of_conns (conns_of_reports h)]⟩

theorem passes_count (f : Fld) (hf : f ∈ leaveFlds) (n : Nat) : Passes id w (w.count f n) := ⟨rfl, besides_count _ hf _, fun h => h⟩

theorem passes_showOpen : Passes id w w.showOpen := ⟨rfl, besides_set _ (by decide) _, fun h => h⟩

theorem passes_sendMsg (conn op target payload purpose cmpr) : Passes id w (w.sendMsg conn op target payload purpose cmpr).2 := by
  unfold Work.sendMsg
  split
  · exact .refl
  · split
    · exact .refl
    · refine ⟨rfl, rfl, fun h => ?_⟩
      by_cases hi : id = conn
      · subst hi
        exact Option.isSome_of_mem (lookupN_insertN ..)
      · unfold Work.connOf at h ⊢
        exact (congrArg Option.isSome (lookupN_insertN_ne _ _ hi)).trans h

theorem passes_recordTo (part node r purpose) : Passes id w (w.recordTo part node r purpose).2 := by
  unfold Work.recordTo
  split
  · exact passes_sendMsg ..
  · exact .refl

theorem sub_leave : entryFlds ⊆ leaveFlds := by decide

theorem passes_resultStore (q h bs off) : Passes id w (w.resultStore q h bs off) := by
  unfold Work.resultStore
  refine .ite (.ite (passes_count _ (by decide) _) .refl) (.ite ⟨rfl, rfl, fun h => h⟩ ?_)
  exact passes_of_inner ((inner_pcieOut ..).trans (inner_hostStore ..)) ((besides_pcieOut _ sub_leave ..).trans (besides_hostStore ..))

theorem passes_completeEntry (q e st a0 a1 fl hd) : Passes id w (w.completeEntry q e st a0 a1 fl hd) :=
  passes_of_inner (inner_completeEntry ..) (besides_completeEntry _ sub_leave ..)

theorem passes_hostResult (q e r) : Passes id w (w.hostResult q e r) := by
  unfold Work.hostResult
  dsimp only
  split
  · exact .refl
  · exact .ite ((passes_count _ (by decide) _).trans (passes_completeEntry ..))
      (((passes_resultStore ..).trans (passes_resultStore ..)).trans (passes_completeEntry ..))

theorem passes_deliver (src d r purpose) : Passes id w (w.deliver src d r purpose) := by
  unfold Work.deliver
  split
  · exact passes_sendMsg ..
  · exact passes_hostResult ..

theorem passes_log (e) : Passes id w (w.log e) := passes_of_reports (reports_log ..)

theorem passes_sendToDest (src part d r sheet purpose) : Passes id w (w.sendToDest src part d r sheet purpose) := by
  have hc : ∀ l, Passes id w { w with n.qa.credits := l } := fun _ => ⟨rfl, rfl, fun h => h⟩
  have hh : ∀ l, Passes id w { w with n.qa.held := l } := fun _ => ⟨rfl, rfl, fun h => h⟩
  unfold Work.sendToDest
  exact .ite (passes_recordTo ..) (.ite ((hc _).trans (passes_recordTo ..)) ((hh _).trans ((passes_count _ (by decide) _).trans (passes_log _))))

theorem passes_sendPartial (src part d r sheet purpose) : Passes id w (w.sendPartial src part d r sheet purpose) :=
  .ite (passes_sendToDest ..) (passes_deliver ..)

end

/-! ## Groups that close -/

/-- A group, closed and sent if it is open and `part`'s `group`. -/
def closed (part group : Nat) (x : Group) : Group :=
  if x.part = part && x.group = group && !x.closed then { x with closed := true, sent := true, own := none } else x

theorem closed_closed {part group : Nat} {x : Group} (hp : (closed part group x).part = part) (hg : (closed part group x).group = group) :
    (closed part group x).closed = true := by
  unfold closed at *
  split at hp
  · rw [if_pos ‹_›]
  next hn =>
    rw [if_neg hn] at hg ⊢
    simpa [hp, hg] using hn

/-- A view whose groups are others. -/
def withGroups (w : Work) (l : List Group) : Work := { w with n.qa.groups := l }

theorem passes_closeGroup {id : Nat} (w : Work) (g : Group) (r : PartialRec) :
    Passes id (withGroups w (w.n.qa.groups.map (closed g.part g.group))) (w.closeGroup g r) :=
  passes_showOpen.trans (passes_sendPartial ..)

/-! ## Records that arrive -/

theorem exec_partial (m : MsgRef) (b : Bytes) (s : State) : exec (.partialRecord m b) s = execPartialRecord m b s := by simp only [exec]
theorem exec_credit (m : MsgRef) (b : Bytes) (s : State) : exec (.creditRecord m b) s = execCreditRecord m b s := by simp only [exec]
theorem exec_cancel (m : MsgRef) (b : Bytes) (s : State) : exec (.cancelRecord m b) s = execCancelRecord m b s := by simp only [exec]

/-- A record that acts does so, and its message completes OK. -/
theorem record_run {s : State} {conn msn kind p : Nat} {b : Bytes} {r : PartialRec} (ha : s.alive = true) (h : RecordActs s conn msn kind b p r)
    (act : Work → Nat → PartialRec → Work) :
    run s (fun w => w.recordActs conn msn kind b act) = .next (s.close ((act s.view p r).completeMsg conn msn 0 stOK 0 0)) := by
  obtain ⟨hc, hs, hf, hd, hl, hr, hk⟩ := h
  obtain ⟨c, hx, rfl⟩ := Option.map_eq_some_iff.1 hc
  have hst : s.view.staleSender c = false := by
    unfold Work.staleSrc at hf
    dsimp only at hf
    rw [hx] at hf
    exact hf
  rw [run_alive _ ha]
  unfold Work.recordActs Work.msgActs
  simp only [hx, hs, hst, hd, hl, hr, hk, Bool.not_true, Bool.false_and, Bool.false_eq_true, if_false, if_true]

/-- What stands of the sheets, the groups and the registers when a record's message completes. -/
theorem record_ends {s : State} (hc : Canonical s) {base u : Work} {conn msn : Nat} (h : Passes conn base u) {f : Fld} {v : Nat}
    (hf : Plain (f.key 0 0) ∧ ∀ g ∈ leaveFlds, g.key 0 0 ≠ f.key 0 0) (hv : Shows base f v 0 0) :
    rd (s.close (u.completeMsg conn msn 0 stOK 0 0)) f = v :=
  ((sameAt_of_besides ((besides_completeMsg _ (by decide) ..).trans h.fields_) hf).shows hv).rd hc.1

theorem record_gathered {s : State} {base u : Work} {conn msn : Nat} (h : gathered u = gathered base) :
    gathered (s.close (u.completeMsg conn msn 0 stOK 0 0)).view = gathered base :=
  (gathered_of_outer (outer_completeMsg ..)).trans h

theorem record_answered {s : State} {base u : Work} {conn msn : Nat} (h : (base.connOf conn).isSome → (u.connOf conn).isSome)
    (hk : (base.connOf conn).isSome) : AnsweredTo (s.close (u.completeMsg conn msn 0 stOK 0 0)) (.conn conn msn) 0 stOK 0 0 :=
  completeMsg_recorded (h hk) msn 0 stOK 0 0

theorem acts_known {s : State} {conn msn kind p : Nat} {b : Bytes} {r : PartialRec} (h : RecordActs s conn msn kind b p r) :
    (s.view.connOf conn).isSome := Option.isSome_map.symm.trans (Option.isSome_of_mem h.1)

/-! ## Partials -/

/-- An open group of a partition. -/
def isOpen (part group : Nat) (x : Group) : Bool := x.part = part && x.group = group && !x.closed

/-- A group, with a record joined if it is the one open. -/
def joined (part : Nat) (r : PartialRec) (x : Group) : Group :=
  if x.part = part && x.group = r.group && !x.closed then { x with inputs := insertN r.srcNode r x.inputs } else x

theorem joined_open {part : Nat} {r : PartialRec} {x : Group} : isOpen part r.group (joined part r x) = isOpen part r.group x := by
  unfold joined
  split <;> rfl

theorem joined_of_open {part : Nat} {r : PartialRec} {x : Group} (h : isOpen part r.group x = true) :
    joined part r x = { x with inputs := insertN r.srcNode r x.inputs } := if_pos h

theorem find_joined {part : Nat} {r : PartialRec} {l : List Group} {g : Group} (h : l.find? (isOpen part r.group) = some g) :
    (l.map (joined part r)).find? (isOpen part r.group) = some (joined part r g) := by
  rw [List.find?_map]
  have : isOpen part r.group ∘ joined part r = isOpen part r.group := funext fun _ => joined_open
  rw [this, h]
  rfl

/-- The first group of a number is the first that is open, if it is. -/
theorem find_open {part group : Nat} {l : List Group} {g : Group} (h : l.find? (fun x : Group => x.part = part && x.group = group) = some g)
    (ho : g.closed = false) : l.find? (isOpen part group) = some g := by
  obtain ⟨hp, as, bs, hl, hn⟩ := List.find?_eq_some_iff_append.1 h
  refine List.find?_eq_some_iff_append.2 ⟨?_, as, bs, hl, fun a ha => ?_⟩
  · unfold isOpen
    rw [hp, ho]
    rfl
  · have := hn a ha
    unfold isOpen
    rw [Bool.not_eq_true'] at this ⊢
    rw [this]
    rfl

theorem length_insertN_new {α : Type} (k : Nat) (v : α) (l : List (Nat × α)) (h : ∀ e ∈ l, e.1 ≠ k) : (insertN k v l).length = l.length + 1 := by
  induction l with
  | nil => rfl
  | cons e l ih =>
    have h0 := h e (List.mem_cons_self ..)
    have h1 := ih fun x hx => h x (List.mem_cons_of_mem _ hx)
    rw [insertN, if_neg h0]
    split
    · rfl
    · rw [List.length_cons, List.length_cons, h1]

/-- The view of a group that a record has joined. -/
def taken (s : State) (part : Nat) (r : PartialRec) : Work := (withGroups s.view (s.node.qa.groups.map (joined part r))).count Reg.MRG_PARTIALS_IN

section
variable {s : State} {part : Nat} {r : PartialRec} {g : Group} (hg : s.node.qa.groups.find? (isOpen part r.group) = some g)
include hg

theorem join_eq (ht : g.takes r = true) : s.view.joinGroup part r = taken s part r := by
  unfold Work.joinGroup
  have : s.view.n.qa.groups.find? (fun g : Group => g.part = part && g.group = r.group && !g.closed) = some g := hg
  simp only [this, ht, if_true]
  rfl

theorem open_of_find : isOpen part r.group g = true := List.find?_some hg

theorem groupCheck_eq : (taken s part r).groupCheck part r.group =
    if g.desc.expect ≤ (insertN r.srcNode r g.inputs).length ∧ (!g.needOwn || g.own.isSome) then
      (taken s part r).closeGroup (joined part r g) ((taken s part r).mergeGroup (joined part r g)) else taken s part r := by
  have hf : (taken s part r).n.qa.groups.find? (fun g : Group => g.part = part && g.group = r.group && !g.closed) = some (joined part r g) := find_joined hg
  unfold Work.groupCheck
  simp only [hf]
  rw [joined_of_open (open_of_find hg)]

/-- A partial that joins its group: what it leaves standing. -/
theorem takePartial_passes (conn : Nat) (hf : s.node.qa.groups.find? (fun x : Group => x.part = part && x.group = r.group) = some g) (ht : g.takes r = true) :
    Passes conn (if g.desc.expect ≤ (insertN r.srcNode r g.inputs).length ∧ (!g.needOwn || g.own.isSome) then
      withGroups (taken s part r) ((s.node.qa.groups.map (joined part r)).map (closed part r.group)) else taken s part r)
      (s.view.takePartial conn part r) := by
  have ho := open_of_find hg
  have he : s.view.takePartial conn part r = (taken s part r).groupCheck part r.group := by
    have hf' : s.view.n.qa.groups.find? (fun g : Group => g.part = part && g.group = r.group) = some g := hf
    unfold isOpen at ho
    rw [Bool.and_eq_true] at ho
    unfold Work.takePartial
    simp only [hf', ho.2, if_true]
    rw [join_eq hg ht]
  have hpg : (joined part r g).part = part ∧ (joined part r g).group = r.group := by
    rw [joined_of_open ho]
    unfold isOpen at ho
    simp only [Bool.and_eq_true, decide_eq_true_eq] at ho
    exact ho.1
  rw [he, groupCheck_eq hg]
  split
  · have := passes_closeGroup (id := conn) (taken s part r) (joined part r g) ((taken s part r).mergeGroup (joined part r g))
    rw [hpg.1, hpg.2] at this
    exact this
  · exact .refl

end

theorem takes_of {r : PartialRec} {g : Group} (h1 : r.srcNode ∈ g.senders) (h2 : ∀ i ∈ g.inputs, i.1 ≠ r.srcNode) (h3 : r.level < g.desc.level)
    (h4 : r.headerOnly = true ∨ r.heads = g.desc.heads ∧ r.channels = g.fmtC) : g.takes r = true := by
  unfold Group.takes
  have : (g.inputs.any fun i => i.1 = r.srcNode) = false := by
    rw [List.any_eq_false]
    simpa using h2
  rw [this, decide_eq_true h3, List.contains_iff_mem.2 h1]
  simpa using h4

/-- The first clause of O25. -/
theorem partial_joins (s : State) (conn msn p : Nat) (b : Bytes) (r : PartialRec) (g : Group) (ha : s.alive = true) (hc : Canonical s)
    (h : RecordActs s conn msn 0 b p r) (hf : s.node.qa.groups.find? (fun x : Group => x.part = p && x.group = r.group) = some g)
    (hcl : g.closed = false) (h1 : r.srcNode ∈ g.senders) (h2 : ∀ i ∈ g.inputs, i.1 ≠ r.srcNode) (h3 : r.level < g.desc.level)
    (h4 : r.headerOnly = true ∨ r.heads = g.desc.heads ∧ r.channels = g.fmtC) :
    ∃ t, exec (.partialRecord ⟨conn, msn⟩ b) s = .next t ∧
      rd t Reg.MRG_PARTIALS_IN = min (rd s Reg.MRG_PARTIALS_IN + 1) (2 ^ Reg.MRG_PARTIALS_IN.width - 1) ∧
      (g.inputs.length + 1 < g.desc.expect ∨ (g.needOwn = true ∧ g.own = none) → ∃ x ∈ t.node.qa.groups, x.part = p ∧ x.group = r.group ∧
        x.closed = false ∧ lookupN r.srcNode x.inputs = some r) ∧
      (g.desc.expect ≤ g.inputs.length + 1 → (g.needOwn = false ∨ g.own ≠ none) → ∀ x ∈ t.node.qa.groups, x.part = p → x.group = r.group → x.closed = true) ∧
      AnsweredTo t (.conn conn msn) 0 stOK 0 0 ∧
      t.node.qa.cur = s.node.qa.cur := by
  have hg := find_open hf hcl
  have ho := open_of_find hg
  have hp := takePartial_passes hg conn hf (takes_of h1 h2 h3 h4)
  have hs := shows_count (withGroups s.view (s.node.qa.groups.map (joined p r))) Reg.MRG_PARTIALS_IN 1 0 0
  have hk := acts_known h
  rw [length_insertN_new _ _ _ h2] at hp
  rw [exec_partial, execPartialRecord, record_run ha h]
  generalize s.view.takePartial conn p r = u at hp ⊢
  refine ⟨_, rfl, ?_, fun hn => ?_, fun hx hy => ?_, ?_, ?_⟩
  · refine record_ends hc hp ⟨plain_high (by decide) 0 0, by decide⟩ ?_
    split <;> exact hs
  · have hno : ¬ (g.desc.expect ≤ g.inputs.length + 1 ∧ (!g.needOwn || g.own.isSome) = true) := by
      rintro ⟨ha, hb⟩
      rcases hn with hn | ⟨hn, hm⟩
      · omega
      · simp [hn, hm] at hb
    rw [if_neg hno] at hp
    have hgr := congrArg (fun x => x.2.2) (record_gathered (s := s) (conn := conn) (msn := msn) hp.stay)
    refine ⟨joined p r g, ?_, ?_⟩
    · refine (congrArg (joined p r g ∈ ·) hgr).mpr ?_
      exact List.mem_map_of_mem (List.mem_of_find?_eq_some hg)
    · rw [joined_of_open ho]
      unfold isOpen at ho
      simp only [Bool.and_eq_true, decide_eq_true_eq] at ho
      exact ⟨ho.1.1, ho.1.2, hcl, lookupN_insertN ..⟩
  · have hyes : g.desc.expect ≤ g.inputs.length + 1 ∧ (!g.needOwn || g.own.isSome) = true :=
      ⟨hx, by rcases hy with hy | hy <;> simp [hy, Option.isSome_iff_ne_none]⟩
    rw [if_pos hyes] at hp
    have hgr := congrArg (fun x => x.2.2) (record_gathered (s := s) (conn := conn) (msn := msn) hp.stay)
    intro x hx hxp hxg
    obtain ⟨y, -, rfl⟩ := List.mem_map.1 ((congrArg (x ∈ ·) hgr).mp hx)
    exact closed_closed hxp hxg
  · refine record_answered hp.known ?_
    split <;> exact hk
  · refine (congrArg (fun x => x.1) (record_gathered (s := s) (conn := conn) (msn := msn) hp.stay)).trans ?_
    split <;> rfl

/-! ## Credits -/

theorem qa_of_outer {w v : Work} (h : outer v = outer w) : v.n.qa = w.n.qa := by
  have := congrArg Node.qa h
  exact this

/-- A view with other credits. -/
def withCredits (w : Work) (l : List (Nat × Nat)) : Work := { w with n.qa.credits := l }

/-- The second clause of O25. -/
theorem credit_kept (s : State) (conn msn p : Nat) (b : Bytes) (r : PartialRec) (ha : s.alive = true) (h : RecordActs s conn msn 1 b p r) :
    ∃ t, exec (.creditRecord ⟨conn, msn⟩ b) s = .next t ∧
      t.node.qa.credits = s.node.qa.credits ++ [(p, r.group)] ∧
      AnsweredTo t (.conn conn msn) 0 stOK 0 0 ∧
      t.node.qa.groups = s.node.qa.groups := by
  have hq := qa_of_outer (outer_completeMsg (withCredits s.view (s.node.qa.credits ++ [(p, r.group)])) conn msn 0 stOK 0 0)
  have hr := completeMsg_recorded (w := withCredits s.view (s.node.qa.credits ++ [(p, r.group)])) (acts_known h) msn 0 stOK 0 0
  rw [exec_credit, execCreditRecord, record_run ha h]
  change ∃ t, Host.Outcome.next (s.close ((withCredits s.view (s.node.qa.credits ++ [(p, r.group)])).completeMsg conn msn 0 stOK 0 0)) = .next t ∧ _
  generalize (withCredits s.view (s.node.qa.credits ++ [(p, r.group)])).completeMsg conn msn 0 stOK 0 0 = v at hq hr ⊢
  exact ⟨_, rfl, congrArg Admission.credits hq, hr, (congrArg Admission.groups hq :)⟩

/-! ## Cancels -/

/-- A query whose partial a cancel keeps from leaving. -/
def cancelled (part group : Nat) (e : Nat × Query) : Bool :=
  e.2.part = part && e.2.desc.group = group && e.2.desc.dest != 0xFFFF && e.2.phase != .left

/-- A query after a cancel. -/
def afterCancel (part group : Nat) (e : Nat × Query) : Nat × Query :=
  if cancelled part group e then (e.1, { e.2 with phase := .left }) else e

/-- A group that a cancel closes: open, and to send on. -/
def toSendOn (part group : Nat) (g : Group) : Bool := g.part = part && g.group = group && !g.closed && g.desc.dest != 0xFFFF

/-- A group after a cancel. -/
def groupAfterCancel (part group : Nat) (g : Group) : Group :=
  if toSendOn part group g then { g with closed := true, inputs := [], own := none } else g

/-- A cancel leaves nothing held of the group, no credit, its unsent queries left, and its groups that were to send on closed. -/
theorem discardGroup_qa (w : Work) (part group : Nat) : (w.discardGroup part group).n.qa = { w.n.qa with
    held := w.n.qa.held.filter (fun e => !(e.2.part = part && e.2.prec.group = group)), credits := w.n.qa.credits.filter (· != (part, group))
    groups := w.n.qa.groups.map (groupAfterCancel part group)
    cur := { w.n.qa.cur with queries := w.n.qa.cur.queries.map (afterCancel part group) }
    next := { w.n.qa.next with queries := w.n.qa.next.queries.map (afterCancel part group) } } := rfl

theorem afterCancel_left {part group : Nat} {l : List (Nat × Query)} {e : Nat × Query} (h : e ∈ l.map (afterCancel part group)) (hp : e.2.part = part)
    (hg : e.2.desc.group = group) (hd : e.2.desc.dest ≠ 0xFFFF) : e.2.phase = .left := by
  obtain ⟨x, -, rfl⟩ := List.mem_map.1 h
  unfold afterCancel at *
  split at hp
  · rw [if_pos ‹_›]
  next hn =>
    rw [if_neg hn] at hg hd ⊢
    simpa [cancelled, hp, hg, hd] using hn

theorem groupAfterCancel_closed {part group : Nat} {l : List Group} {g : Group} (h : g ∈ l.map (groupAfterCancel part group)) (hp : g.part = part)
    (hg : g.group = group) (hd : g.desc.dest ≠ 0xFFFF) : g.closed = true := by
  obtain ⟨x, -, rfl⟩ := List.mem_map.1 h
  unfold groupAfterCancel at *
  split at hp
  · rw [if_pos ‹_›]
  next hn =>
    rw [if_neg hn] at hg hd ⊢
    simpa [toSendOn, hp, hg, hd] using hn

theorem groupAfterCancel_other {part group : Nat} {g : Group} (h : ¬ (g.part = part ∧ g.group = group ∧ g.desc.dest ≠ 0xFFFF)) :
    groupAfterCancel part group g = g := by
  refine if_neg fun hn => h ?_
  unfold toSendOn at hn
  simp only [Bool.and_eq_true, decide_eq_true_eq, bne_iff_ne] at hn
  exact ⟨hn.1.1.1, hn.1.1.2, hn.2⟩

/-- The third clause of O25. -/
theorem cancel_drops (s : State) (conn msn p : Nat) (b : Bytes) (r : PartialRec) (ha : s.alive = true) (h : RecordActs s conn msn 2 b p r) :
    ∃ t, exec (.cancelRecord ⟨conn, msn⟩ b) s = .next t ∧
      (∀ e ∈ t.node.qa.held, ¬ (e.2.part = p ∧ e.2.prec.group = r.group)) ∧
      (p, r.group) ∉ t.node.qa.credits ∧
      (∀ e ∈ t.node.qa.cur.queries ++ t.node.qa.next.queries, e.2.part = p → e.2.desc.group = r.group → e.2.desc.dest ≠ 0xFFFF → e.2.phase = QPhase.left) ∧
      (∀ g ∈ t.node.qa.groups, g.part = p → g.group = r.group → g.desc.dest ≠ 0xFFFF → g.closed = true) ∧
      (∀ g ∈ s.node.qa.groups, ¬ (g.part = p ∧ g.group = r.group ∧ g.desc.dest ≠ 0xFFFF) → g ∈ t.node.qa.groups) ∧
      AnsweredTo t (.conn conn msn) 0 stOK 0 0 := by
  have hq := (qa_of_outer (outer_completeMsg (s.view.discardGroup p r.group) conn msn 0 stOK 0 0)).trans (discardGroup_qa s.view p r.group)
  have hr := completeMsg_recorded (w := s.view.discardGroup p r.group) (acts_known h) msn 0 stOK 0 0
  rw [exec_cancel, execCancelRecord, record_run ha h]
  generalize (s.view.discardGroup p r.group).completeMsg conn msn 0 stOK 0 0 = v at hq hr
  refine ⟨_, rfl, ?_, ?_, ?_, ?_, ?_, hr⟩
  · intro e he
    rw [show (s.close v).node.qa.held = _ from congrArg Admission.held hq, List.mem_filter] at he
    have := he.2
    rintro ⟨h1, h2⟩
    simp [h1, h2] at this
  · rw [show (s.close v).node.qa.credits = _ from congrArg Admission.credits hq]
    simp
  · intro e he
    rw [show (s.close v).node.qa.cur = _ from congrArg Admission.cur hq, show (s.close v).node.qa.next = _ from congrArg Admission.next hq,
      List.mem_append] at he
    exact fun hp hg hd => he.elim (afterCancel_left · hp hg hd) (afterCancel_left · hp hg hd)
  · intro g hm
    rw [show (s.close v).node.qa.groups = _ from congrArg Admission.groups hq] at hm
    exact groupAfterCancel_closed hm
  · intro g hm hn
    rw [show (s.close v).node.qa.groups = _ from congrArg Admission.groups hq]
    exact List.mem_map.2 ⟨g, hm, groupAfterCancel_other hn⟩

/-! ## The ends of waits -/

theorem exec_deadline (p g : Nat) (s : State) : exec (.collectorDeadline p g) s = execCollectorDeadline p g s := by simp only [exec]
theorem exec_creditWait (k : Nat) (s : State) : exec (.creditWaitExpired k) s = execCreditWaitExpired k s := by simp only [exec]
theorem exec_earlyWait (k : Nat) (s : State) : exec (.earlyWaitExpired k) s = execEarlyWaitExpired k s := by simp only [exec]

/-- The fourth clause of O25. -/
theorem deadline_closes (s : State) (p group : Nat) (g : Group) (ha : s.alive = true) (hc : Canonical s)
    (hf : s.node.qa.groups.find? (fun x : Group => x.part = p && x.group = group && !x.closed) = some g)
    (ht : (1 + g.desc.level) * s.view.repTicks ≤ ticksTo g.sheet s.node.tk.now + 1 ∧ ticksTo g.sheet s.node.tk.now < 2 ^ 47) :
    ∃ t, exec (.collectorDeadline p group) s = .next t ∧
      rd t Reg.MRG_MISSING = min (rd s Reg.MRG_MISSING + (g.desc.expect - g.inputs.length)) (2 ^ Reg.MRG_MISSING.width - 1) ∧
      (∀ x ∈ t.node.qa.groups, x.part = p → x.group = group → x.closed = true) ∧
      t.node.qa.cur = s.node.qa.cur := by
  have hpg : g.part = p ∧ g.group = group := by
    have := List.find?_some hf
    simp only [Bool.and_eq_true, decide_eq_true_eq] at this
    exact this.1
  have hn : ¬ (ticksTo g.sheet s.view.now + 1 < (1 + g.desc.level) * s.view.repTicks ∨ 2 ^ 47 ≤ ticksTo g.sheet s.view.now) :=
    not_or.2 ⟨Nat.not_lt.2 ht.1, Nat.not_le.2 ht.2⟩
  have hs := shows_count s.view Reg.MRG_MISSING (g.desc.expect - g.inputs.length) 0 0
  rw [exec_deadline, execCollectorDeadline, run_alive _ ha]
  have hf' : s.view.n.qa.groups.find? (fun x : Group => x.part = p && x.group = group && !x.closed) = some g := hf
  simp only [hf', hn, if_false]
  have hp : Passes 0 (s.view.count Reg.MRG_MISSING (g.desc.expect - g.inputs.length))
      (if g.desc.expect - g.inputs.length = 0 then s.view.count Reg.MRG_MISSING (g.desc.expect - g.inputs.length)
        else (s.view.count Reg.MRG_MISSING (g.desc.expect - g.inputs.length)).log
          { code := 0x4204, page := 0x4A, part := some p, arg := group, detail := g.desc.expect - g.inputs.length }) := .ite .refl (passes_log _)
  generalize (if g.desc.expect - g.inputs.length = 0 then _ else _ : Work) = u at hp ⊢
  have hcl := passes_closeGroup (id := 0) u g (u.mergeGroup g)
  generalize u.closeGroup g (u.mergeGroup g) = v at hcl
  have hu := congrArg (fun x => x.2.2) hp.stay
  refine ⟨_, rfl, ((sameAt_of_besides (hcl.fields_.trans hp.fields_) ⟨plain_high (by decide) 0 0, by decide⟩).shows hs).rd hc.1, ?_,
    (congrArg (fun x => x.1) hcl.stay).trans (congrArg (fun x => x.1) hp.stay)⟩
  intro x hx
  rw [show (s.close v).node.qa.groups = _ from congrArg (fun x => x.2.2) hcl.stay] at hx
  obtain ⟨y, -, rfl⟩ := List.mem_map.1 hx
  rw [hpg.1, hpg.2]
  exact closed_closed

/-- A view that holds other records. -/
def withHeld (w : Work) (l : List (Nat × Held)) : Work := { w with n.qa.held := l }

def withEarly (w : Work) (l : List (Nat × Early)) : Work := { w with n.qa.early := l }

theorem any_credit {part group : Nat} {l : List (Nat × Nat)} : (l.any fun c => c = (part, group)) = decide ((part, group) ∈ l) := by
  rw [← List.contains_eq_mem]
  induction l with
  | nil => rfl
  | cons c l ih => rw [List.any_cons, List.contains_cons, ih, beq_eq_decide, decide_eq_decide.2 (eq_comm (a := c))]

/-- Settles O25: what records leave standing as they leave (`Passes`) and what messages leave as they end (`Answers`) carry each clause to
its end. -/
theorem collectorsTakePartialsCreditsAndCancels : Obligations.CollectorsTakePartialsCreditsAndCancels := by
  unfold Obligations.CollectorsTakePartialsCreditsAndCancels
  refine ⟨partial_joins, credit_kept, cancel_drops, deadline_closes, fun s k x ha hc hl hr hn => ?_, fun s k x ha hl hm => ?_, fun s k x ha hc hl hr => ?_⟩
  · rw [exec_creditWait, execCreditWaitExpired, run_alive _ ha]
    have hl' : lookupN k s.view.n.qa.held = some x := hl
    have hm : (s.view.n.qa.credits.any fun c => c = (x.part, x.prec.group)) = false := any_credit.trans (decide_eq_false hn)
    simp only [hl', hr, hm, Bool.not_false, Bool.and_self, if_true]
    exact ⟨_, rfl, rfl, (shows_count (withHeld s.view (eraseN k s.node.qa.held)) Reg.MRG_DISCARDED 1 0 0).rd hc.1, rfl, close_mem_quiet s _ rfl rfl⟩
  · rw [exec_creditWait, execCreditWaitExpired, run_alive _ ha]
    have hl' : lookupN k s.view.n.qa.held = some x := hl
    have hm' : (s.view.n.qa.credits.any fun c => c = (x.part, x.prec.group)) = true := any_credit.trans (decide_eq_true hm)
    simp only [hl', hm', Bool.not_true, Bool.and_false, Bool.false_eq_true, if_false]
    rw [Resets.close_view]
  · rw [exec_earlyWait, execEarlyWaitExpired, run_alive _ ha]
    have hl' : lookupN k s.view.n.qa.early = some x := hl
    simp only [hl', hr, if_true]
    have hrep := reports_log ((withEarly s.view (eraseN k s.node.qa.early)).count Reg.MRG_REJECTED)
      { code := 0x4203, page := 0x4A, part := some x.part, arg := x.prec.group, detail := x.prec.srcNode }
    have hq := hrep.n_qa
    refine ⟨_, rfl, (congrArg Admission.early hq :), ?_, (congrArg Admission.groups hq :)⟩
    exact (hrep.shows (plain_high (by decide) 0 0) (shows_count _ Reg.MRG_REJECTED 1 0 0)).rd hc.1

end Sys2Proof.Collectors
end

section
/-!
Connections: INSTALL, REKEY and REMOVE of a host queue's entry, the end of a key's overlap, a connection that is freed, and a context that
has been fetched (R271 to R277).
-/

namespace Sys2Proof.Connections

open Sys2Proof.Machine Sys2Proof.Safety Sys2Proof.Laws Sys2Proof.Entering Sys2Proof.Fields Sys2Proof.Queues Sys2Proof.Entries Sys2Proof.Assoc
  Sys2Proof.Regions Sys2Proof.Packets Sys2Proof.Answers

theorem exec_install (s : State) (src : Src) (d : Bytes) : exec (.installConn src d) s = execInstallConn src d s := by simp only [exec]
theorem exec_rekey (s : State) (src : Src) (d : Bytes) : exec (.rekeyConn src d) s = execRekeyConn src d s := by simp only [exec]
theorem exec_overlap (s : State) (c : Nat) : exec (.rekeyOverlapExpired c) s = execRekeyOverlapExpired c s := by simp only [exec]
theorem exec_remove (s : State) (src : Src) (d : Bytes) : exec (.removeConn src d) s = execRemoveConn src d s := by simp only [exec]
theorem exec_freed (s : State) (c : Nat) : exec (.connectionFreed c) s = execConnectionFreed c s := by simp only [exec]
theorem exec_fetched (s : State) (c : Nat) (e : Bytes) : exec (.contextFetchDone c e) s = execContextFetchDone c e s := by simp only [exec]

theorem takeHotSlot_free {w : Work} {slot : Nat} (h : w.freeHotSlot = some slot) : w.takeHotSlot = some (slot, w) := by
  unfold Work.takeHotSlot
  rw [h]

/-! ## A connection is installed -/

/-- The connection that a descriptor names, with nothing sent. -/
def newConn (w : Work) (p slot : Nat) (desc : Bytes) (key : BitVec 256) (at_ : Option (Nat × Nat)) : Conn :=
  { part := p, peerNode := fieldAt desc 2 2, peerConn := fieldAt desc 8 4, subscriber := fieldAt desc 0xE 2
    portMask := fieldAt desc 0x14 4, rkeyOk := bitOf (fieldAt desc 1 1) 0, state := .active
    epoch := fieldAt desc 0xC 2, key := key, prevKey := none, hot := true, slot := slot
    lastUsed := w.n.tp.useSeq + 1, removeTick := 0, rekeyTick := 0, txPsn := 0, txMsn := 0, txAckSeq := 0
    unacked := [], rxBase := 0, rxSeen := [], rxAckSeq := 0, ackDue := false, ackWanted := false, records := []
    msnLow := 0, msnDone := [], fetching := false, heldPkts := [], noticeTick := none, ksAt := at_ }

/-- The view with a connection more, used now. -/
def withConn (w : Work) (id : Nat) (c : Conn) : Work := { w with n.tp.conns := insertN id c w.n.tp.conns, n.tp.useSeq := w.n.tp.useSeq + 1 }

/-- A service connection presents the fence epoch. -/
def presented (w : Work) (id : Nat) (c : Conn) : Work := if w.serviceConn c.peerNode = some id then w.present id else w

/-- What a message that is queued changes of its connection. -/
theorem present_conn {w : Work} {id : Nat} {c : Conn} (h : lookupN id w.n.tp.conns = some c) :
    ∃ n f, lookupN id (w.present id).n.tp.conns = some { c with txMsn := n, fetching := f } := by
  have hc : w.connOf id = some c := h
  unfold Work.present Work.sendMsg
  simp only [hc]
  split
  · exact ⟨c.txMsn, c.fetching, h⟩
  · exact ⟨_, _, lookupN_insertN ..⟩

theorem presented_conn {w : Work} {id : Nat} {c : Conn} (h : lookupN id w.n.tp.conns = some c) :
    ∃ n f, lookupN id (presented w id c).n.tp.conns = some { c with txMsn := n, fetching := f } := by
  unfold presented
  split
  · exact present_conn h
  · exact ⟨c.txMsn, c.fetching, h⟩

section
variable {s : State} {q e p id slot : Nat} {desc : Bytes} (ha : s.alive = true) (hc : ControlAsks s q e p desc 1) (hid : id = fieldAt desc 4 4)
  (hd : s.view.connDescOk p desc = true) (hs : s.view.freeHotSlot = some slot) (hk : (s.view.ksInsert tblConn [id] slot).1 ≠ none)
include ha hc hid hd hs hk

theorem install_run {key : BitVec 256} (hu : s.view.unwrapFor p (sliceAt desc 0x18 40) = some key) : ∃ u : Work,
    u = (s.view.ksInsert tblConn [id] slot).2 ∧ ∃ c, c = newConn u p slot desc key (s.view.ksInsert tblConn [id] slot).1 ∧
    exec (.installConn (.queue q e) desc) s = .next (s.close ((presented (withConn u id c) id c).completeEntry q e stOK 0 0 0 none)) := by
  obtain ⟨hp, ho, hop, hl⟩ := hc
  subst hid
  refine ⟨_, rfl, _, rfl, ?_⟩
  rw [exec_install, execInstallConn, run_alive _ ha, Work.installOp, control_queue _ hp ho]
  simp only [hop, hl, hd, hu, takeHotSlot_free hs, Option.isNone_eq_false_iff.2 (Option.isSome_iff_ne_none.2 hk), ne_eq, not_true_eq_false,
    Bool.not_true, Bool.false_eq_true, if_false]
  rfl

theorem install_refused (hu : s.view.unwrapFor p (sliceAt desc 0x18 40) = none) :
    exec (.installConn (.queue q e) desc) s = .next (s.close ((s.view.unwrapFailed p id).completeEntry q e stAuthFail 0 0 0 none)) := by
  obtain ⟨hp, ho, hop, hl⟩ := hc
  subst hid
  rw [exec_install, execInstallConn, run_alive _ ha, Work.installOp, control_queue _ hp ho]
  simp only [hop, hl, hd, hu, takeHotSlot_free hs, Option.isNone_eq_false_iff.2 (Option.isSome_iff_ne_none.2 hk), ne_eq, not_true_eq_false,
    Bool.not_true, Bool.false_eq_true, if_false]
  rfl

end

theorem tp_of_reports {w v : Work} (h : Reports w v) : v.n.tp = w.n.tp := by rw [h.n]

/-- A key wrap that fails changes nothing of the transport, and is counted. -/
theorem unwrapFailed_tp (w : Work) (p c : Nat) : (w.unwrapFailed p c).n.tp = w.n.tp :=
  (tp_of_reports (reports_report (w.count Reg.SEC_UNWRAP_FAIL) _) :)

theorem unwrapFailed_counted {s : State} (hc : Canonical s) (p c q e st : Nat) :
    Counted s (s.close ((s.view.unwrapFailed p c).completeEntry q e st 0 0 0 none)) Reg.SEC_UNWRAP_FAIL := by
  have h : Shows (s.view.unwrapFailed p c) Reg.SEC_UNWRAP_FAIL (min (rd s Reg.SEC_UNWRAP_FAIL + 1) (2 ^ Reg.SEC_UNWRAP_FAIL.width - 1)) 0 0 :=
    (reports_report _ _).shows (by unfold Plain; decide) (shows_count s.view Reg.SEC_UNWRAP_FAIL 1 0 0)
  exact (shows_of_fields0 (fields_completeEntry _ (fun _ h => h) q e st 0 0 0 none) (by decide) h).rd hc.1

/-! ## A key is replaced, a connection removed -/

section
variable {s : State} {q e p id : Nat} {desc : Bytes} {c : Conn} (ha : s.alive = true) (hid : id = fieldAt desc 4 4) (hx : s.view.connOf id = some c)
  (hd : desc.length = 128 ∧ zeroAt desc 0x40 64 = true)
include ha hid hx hd

/-- A connection under its next key. -/
def rekeyed (now : Tick) (key : BitVec 256) (c : Conn) : Conn :=
  { c with prevKey := some c.key, key := key, epoch := (c.epoch + 1) % 65536, rekeyTick := now }

theorem rekey_hot (hc : ControlAsks s q e p desc 2) (hs : c.part = p ∧ c.state = .active ∧ c.hot = true)
    (he : fieldAt desc 0xC 2 = (c.epoch + 1) % 65536) {key : BitVec 256} (hu : s.view.unwrapFor p (sliceAt desc 0x18 40) = some key) :
    exec (.rekeyConn (.queue q e) desc) s = .next (s.close
      (((s.view.useCtx id).modConn id (rekeyed s.node.tk.now key)).completeEntry q e stOK 0 0 0 none)) := by
  obtain ⟨hp, ho, hop, hl⟩ := hc
  obtain ⟨hpart, hstate, hhot⟩ := hs
  subst hid
  rw [exec_rekey, execRekeyConn, run_alive _ ha, Work.rekeyOp, control_queue _ hp ho]
  simp only [hop, hl, hd.1, hd.2, hx, hpart, hstate, hhot, he, hu, ne_eq, not_true_eq_false, Bool.not_true, Bool.false_eq_true, or_self, if_false]
  rfl

theorem rekey_refused (hc : ControlAsks s q e p desc 2) (hs : c.part = p ∧ c.state = .active ∧ c.hot = true)
    (he : fieldAt desc 0xC 2 = (c.epoch + 1) % 65536) (hu : s.view.unwrapFor p (sliceAt desc 0x18 40) = none) :
    exec (.rekeyConn (.queue q e) desc) s = .next (s.close ((s.view.unwrapFailed p id).completeEntry q e stAuthFail 0 0 0 none)) := by
  obtain ⟨hp, ho, hop, hl⟩ := hc
  obtain ⟨hpart, hstate, hhot⟩ := hs
  subst hid
  rw [exec_rekey, execRekeyConn, run_alive _ ha, Work.rekeyOp, control_queue _ hp ho]
  simp only [hop, hl, hd.1, hd.2, hx, hpart, hstate, hhot, he, hu, ne_eq, not_true_eq_false, Bool.not_true, Bool.false_eq_true, or_self, if_false]
  rfl

theorem rekey_cold (hc : ControlAsks s q e p desc 2) (hs : c.part = p ∧ c.state = .active ∧ c.hot = false)
    (he : fieldAt desc 0xC 2 = (c.epoch + 1) % 65536) :
    exec (.rekeyConn (.queue q e) desc) s = .next (s.close (s.view.modConn id fun c => { c with fetching := true })) := by
  obtain ⟨hp, ho, hop, hl⟩ := hc
  obtain ⟨hpart, hstate, hhot⟩ := hs
  subst hid
  rw [exec_rekey, execRekeyConn, run_alive _ ha, Work.rekeyOp, control_queue _ hp ho]
  simp only [hop, hl, hd.1, hd.2, hx, hpart, hstate, hhot, he, ne_eq, not_true_eq_false, Bool.not_true, Bool.not_false, Bool.false_eq_true, or_self,
    if_false, if_true]

/-- A connection that is being removed. -/
def removing (now : Tick) (c : Conn) : Conn := { c with state := .removing, removeTick := now }

theorem remove_run (hc : ControlAsks s q e p desc 3) (hs : c.part = p ∧ c.state ≠ .removing) :
    exec (.removeConn (.queue q e) desc) s = .next (s.close ((s.view.modConn id (removing s.node.tk.now)).completeEntry q e stOK 0 0 0 none)) := by
  obtain ⟨hp, ho, hop, hl⟩ := hc
  subst hid
  rw [exec_remove, execRemoveConn, run_alive _ ha, Work.removeOp, control_queue _ hp ho]
  simp only [hop, hl, hd.1, hd.2, hx, hs.1, hs.2, ne_eq, not_true_eq_false, Bool.not_true, Bool.false_eq_true, or_self, if_false]
  rfl

end

theorem modConn_conn {w : Work} {id : Nat} {c : Conn} (h : w.connOf id = some c) (f : Conn → Conn) :
    lookupN id (w.modConn id f).n.tp.conns = some (f c) :=
  (lookupN_modifyN ..).trans (congrArg (Option.map f) h)

theorem modConn_other (w : Work) {id k : Nat} (h : k ≠ id) (f : Conn → Conn) : lookupN k (w.modConn id f).n.tp.conns = lookupN k w.n.tp.conns :=
  lookupN_modifyN_ne _ _ h

theorem completeEntry_conns (w : Work) (q e st a0 a1 : Nat) (k : Nat) :
    lookupN k (w.completeEntry q e st a0 a1 0 none).n.tp.conns = lookupN k w.n.tp.conns :=
  congrArg (fun t : Transport => lookupN k t.conns) (completeEntry_tp ..)

/-! ## A connection that is freed leaves nothing -/

/-- Nothing of the transport is of a connection. -/
def Absent (id : Nat) (t : Transport) : Prop :=
  lookupN id t.conns = none ∧ (∀ m ∈ t.outMsgs, m.2.conn ≠ id) ∧ ∀ m ∈ t.inMsgs, m.conn ≠ id

section
variable {id : Nat} {w : Work}

theorem Absent.insert (h : Absent id w.n.tp) {i : Nat} (hi : i ≠ id) (c : Conn) (p : InMsg → Bool) :
    Absent id { w.n.tp with conns := insertN i c w.n.tp.conns, inMsgs := w.n.tp.inMsgs.filter p } :=
  ⟨(lookupN_insertN_ne _ _ (Ne.symm hi)).trans h.1, h.2.1, fun m hm => h.2.2 m (List.mem_of_mem_filter hm)⟩

theorem Absent.recordDone (h : Absent id w.n.tp) (i msn : Nat) (r : Option CmplRec) : Absent id (w.recordDone i msn r).n.tp := by
  unfold Work.recordDone
  split
  · exact h
  next c hc =>
    have hi : i ≠ id := fun he => by
      rw [he] at hc
      exact absurd (hc.symm.trans h.1) (by simp)
    exact h.insert hi _ _

theorem Absent.modConn (h : Absent id w.n.tp) (i : Nat) (f : Conn → Conn) :
    Absent id { w.n.tp with conns := modifyN i f w.n.tp.conns } := by
  obtain ⟨hc, ho, hi⟩ := h
  refine ⟨?_, ho, hi⟩
  by_cases he : id = i
  · subst he
    exact (lookupN_modifyN ..).trans (congrArg (Option.map f) hc)
  · exact (lookupN_modifyN_ne _ _ he).trans hc

theorem partNotice_tp (w : Work) (p a0 a1 st : Nat) : (w.partNotice p a0 a1 st).n.tp = w.n.tp := by
  unfold Work.partNotice Work.cqNotice
  dsimp only
  split
  · split
    · rfl
    · exact (congrArg Node.tp (inner_cqProduce ..) :)
  · rfl

theorem Absent.violated (h : Absent id w.n.tp) (i target st : Nat) : Absent id (w.violated i target st).n.tp := by
  have hr : ∀ (f : Fld) (e : Ev), ((w.count f 1 0 0).report e).n.tp = w.n.tp := fun f e =>
    (tp_of_reports (reports_report (w.count f) e) :)
  rcases violated_cases w i target st with hv | ⟨f, -, e, hv | ⟨p, key, now, hv⟩⟩ <;> rw [hv]
  · exact h
  · exact (hr f e) ▸ h
  · rw [partNotice_tp]
    exact ((hr f e).symm ▸ h : Absent id ((w.count f 1 0 0).report e).n.tp).modConn i (noticed now)

theorem Absent.respond (h : Absent id w.n.tp) {i : Nat} (hi : i ≠ id) (msn op : Nat) (b : Bytes) (x : Purpose) :
    Absent id (w.sendResponse i msn op b x).n.tp := by
  obtain ⟨hc, ho, hm⟩ := h
  refine ⟨hc, fun m hmem => ?_, hm⟩
  rcases List.mem_append.1 hmem with hmem | hmem
  · exact ho m hmem
  · rw [List.mem_singleton.1 hmem]
    exact hi

theorem Absent.remoteAct (h : Absent id w.n.tp) (c : Conn) {m : InMsg} (hm : m.conn ≠ id) : Absent id (w.remoteAct c m).n.tp := by
  unfold Work.remoteAct
  dsimp only
  split
  · exact Absent.recordDone (w := w.count _ _ _ _) h _ _ _
  · split
    · exact h.recordDone _ _ _
    · split
      · exact h.recordDone _ _ _
      · split
        · exact h.recordDone _ _ _
        · split
          · exact (h.violated _ _ _).recordDone _ _ _
          · refine Absent.recordDone ?_ _ _ _
            split
            · exact h.respond hm _ _ _ _
            · split
              · exact Absent.respond (w := w.store _ _) h hm _ _ _ _
              · exact h.respond hm _ _ _ _

/-- A message let past its fence. -/
def unfenced (i : Nat) (w : Work) (m : InMsg) : Work :=
  { w with n.tp.inMsgs := (w.n.tp.inMsgs.filter fun x => !(x.conn = i && x.msn = m.msn)) ++ [{ m with behindFence := false }] }

theorem Absent.unfenced {i : Nat} (l : List InMsg) (hl : ∀ m ∈ l, m.conn ≠ id) (h : Absent id w.n.tp) : Absent id (l.foldl (unfenced i) w).n.tp := by
  induction l generalizing w with
  | nil => exact h
  | cons m l ih =>
    obtain ⟨hc, ho, hm⟩ := h
    refine ih (fun x hx => hl x (List.mem_cons_of_mem _ hx)) ⟨hc, ho, fun x hx => ?_⟩
    rcases List.mem_append.1 hx with hx | hx
    · exact hm x (List.mem_of_mem_filter hx)
    · rw [List.mem_singleton.1 hx]
      exact hl m List.mem_cons_self

theorem mem_ordered {α : Type} (key : α → Nat) (l : List α) (acc : List (Nat × α)) {x : α}
    (h : x ∈ (l.foldl (fun a m => insertN (key m) m a) acc).map (·.2)) : x ∈ l ∨ x ∈ acc.map (·.2) := by
  induction l generalizing acc with
  | nil => exact .inr h
  | cons m l ih =>
    rcases ih _ h with h | h
    · exact .inl (List.mem_cons_of_mem _ h)
    · obtain ⟨e, he, rfl⟩ := List.mem_map.1 h
      rcases mem_insertN he with rfl | he
      · exact .inl List.mem_cons_self
      · exact .inr (List.mem_map_of_mem he)

theorem Absent.releaseFenced (h : Absent id w.n.tp) (i : Nat) : Absent id (w.releaseFenced i).n.tp := by
  unfold Work.releaseFenced
  split
  · exact h
  · refine h.unfenced _ fun m hm => ?_
    rcases mem_ordered _ _ _ hm with hm | hm
    · exact h.2.2 m (List.mem_of_mem_filter hm)
    · cases hm

theorem Absent.settleMsgs (h : Absent id w.n.tp) (fuel : Nat) : Absent id (Work.settleMsgs fuel w).n.tp := by
  induction fuel generalizing w with
  | zero => exact h
  | succ fuel ih =>
    rw [Work.settleMsgs]
    split
    · exact ih ((h.recordDone _ _ _).releaseFenced _)
    · split
      next c m hr =>
        refine ih (h.remoteAct _ ?_)
        unfold Work.remoteReady at hr
        split at hr
        next x hx =>
          split at hr
          · obtain ⟨y, -, he⟩ := Option.map_eq_some_iff.1 hr
            cases he
            exact h.2.2 _ (List.mem_of_find?_eq_some hx)
          · cases hr
        · cases hr
      · exact h

end

/-- A connection that is dropped is absent. -/
theorem dropConn_absent (w : Work) (id : Nat) : Absent id (w.dropConn id).n.tp := by
  unfold Work.dropConn
  refine Absent.settleMsgs (w := _) ⟨lookupN_eraseN .., fun m hm => ?_, fun m hm => ?_⟩ _
  · simpa using (List.mem_filter.1 hm).2
  · simpa using (List.mem_filter.1 hm).2

theorem freed_run {s : State} {conn : Nat} {c : Conn} (ha : s.alive = true) (hx : lookupN conn s.node.tp.conns = some c) (hs : c.state = .removing)
    (ht : s.view.hasRecord conn = false ∨ 64 ≤ ticksTo c.removeTick s.node.tk.now) :
    exec (.connectionFreed conn) s = .next (s.close ((s.view.finishAll conn stInternal).dropConn conn)) := by
  have hc : s.view.connOf conn = some c := hx
  have hn : ¬ (c.state ≠ .removing ∨ (s.view.hasRecord conn && decide (ticksTo c.removeTick s.view.now < 64)) = true) := by
    rintro (h | h)
    · exact h hs
    · rw [Bool.and_eq_true, decide_eq_true_eq] at h
      rcases ht with ht | ht
      · exact absurd (ht ▸ h.1) (by decide)
      · exact absurd h.2 (Nat.not_lt.2 ht)
  rw [exec_freed, execConnectionFreed, run_alive _ ha]
  simp only [hc, if_neg hn]

/-! ## A context that has been fetched -/

/-- What a bank's entry for a key depends on. -/
theorem ksInsert_congr {w v : Work} (hb : v.n.ks.banks = w.n.ks.banks)
    (hg : ∀ f ∈ [Reg.KEY_TABLE, Reg.KEY_SPARE, Reg.KEY_OWNER, Reg.KEY_WIDTH], ∀ i j, v.get f i j = w.get f i j) (t : Nat) (k : List Nat) (r : Nat) :
    (v.ksInsert t k r).1 = (w.ksInsert t k r).1 := by
  have h1 := hg Reg.KEY_TABLE (by decide)
  have h2 := hg Reg.KEY_SPARE (by decide)
  have h3 := hg Reg.KEY_OWNER (by decide)
  have h4 := hg Reg.KEY_WIDTH (by decide)
  have hbanks : v.ksBanks t 0 = w.ksBanks t 0 := by
    unfold Work.ksBanks Work.flag
    simp only [h1, h2, h3]
  have hfree : v.ksFree = w.ksFree := by
    funext b
    unfold Work.ksFree Work.ksUnits Work.ksBank
    simp only [h4, hb]
  have hroom : v.ksRoomiest = w.ksRoomiest := by
    funext l
    unfold Work.ksRoomiest
    rw [hfree]
  have hidx : v.ksFreeIndex = w.ksFreeIndex := by
    funext b
    unfold Work.ksFreeIndex Work.ksUnits Work.ksBank
    simp only [h4, hb]
  unfold Work.ksInsert
  rw [hbanks, hroom]
  split
  · rfl
  · simp only [Work.ksWrite, hidx]

section
variable (w : Work) (id slot : Nat)

theorem ksEraseConn_rest : (w.ksEraseConn id).rw = w.rw ∧ (w.ksEraseConn id).regs = w.regs ∧ (w.ksEraseConn id).wiped = w.wiped ∧
    (w.ksEraseConn id).n.tp.useSeq = w.n.tp.useSeq ∧ (w.ksEraseConn id).n.tp.outMsgs = w.n.tp.outMsgs := by
  unfold Work.ksEraseConn
  split <;> exact ⟨rfl, rfl, rfl, rfl, rfl⟩

theorem ksInsert_rest (t : Nat) (k : List Nat) (r : Nat) : (w.ksInsert t k r).2.rw = w.rw ∧ (w.ksInsert t k r).2.regs = w.regs ∧
    (w.ksInsert t k r).2.wiped = w.wiped := by
  unfold Work.ksInsert
  split <;> exact ⟨rfl, rfl, rfl⟩

theorem ksInsertConn_rest : (w.ksInsertConn id slot).rw = w.rw ∧ (w.ksInsertConn id slot).regs = w.regs ∧
    (w.ksInsertConn id slot).n.tp.useSeq = w.n.tp.useSeq := by
  obtain ⟨h1, h2, -, h4, -⟩ := ksEraseConn_rest w id
  obtain ⟨g1, g2, -⟩ := ksInsert_rest (w.ksEraseConn id) tblConn [id] slot
  exact ⟨g1.trans h1, g2.trans h2, (congrArg Transport.useSeq (ksInsert_tp ..)).trans h4⟩

end

/-- The connection whose Keystone entry is written again holds its new place. -/
theorem ksInsertConn_conn {w : Work} {id : Nat} {c : Conn} (h : w.connOf id = some c) (slot : Nat) :
    (w.ksInsertConn id slot).connOf id = some { c with ksAt := ((w.ksEraseConn id).ksInsert tblConn [id] slot).1 } := by
  have he : ∃ k, (w.ksEraseConn id).connOf id = some { c with ksAt := k } := by
    have h' : lookupN id w.n.tp.conns = some c := h
    unfold Work.ksEraseConn
    rw [h']
    cases hk : (some c).bind (fun x : Conn => x.ksAt) with
    | none => exact ⟨c.ksAt, h⟩
    | some b => exact ⟨none, (lookupN_modifyN id (fun x : Conn => { x with ksAt := none }) _).trans (congrArg (Option.map _) h')⟩
  obtain ⟨k, he⟩ := he
  unfold Work.ksInsertConn
  refine (lookupN_modifyN id (fun x : Conn => { x with ksAt := ((w.ksEraseConn id).ksInsert tblConn [id] slot).1 }) _).trans ?_
  rw [ksInsert_tp, show lookupN id (w.ksEraseConn id).n.tp.conns = _ from he]
  rfl

/-- The entry of the connection's context is read from the host. -/
def fetchedIn (w : Work) (conn : Nat) : Work := (w.count Reg.CNX_FETCHES).hostFetch 0 none (w.ctxAddr conn) 2048 true

theorem hostFetch_tp (w : Work) (fn a len : Nat) (r : Bool) : (w.hostFetch fn none a len r).n.tp = w.n.tp ∧
    (w.hostFetch fn none a len r).n.ks = w.n.ks := ⟨rfl, rfl⟩

theorem fetchedIn_tp (w : Work) (conn : Nat) : (fetchedIn w conn).n.tp = w.n.tp := (hostFetch_tp ..).1

theorem fetchedIn_ks (w : Work) (conn : Nat) : (fetchedIn w conn).n.ks = w.n.ks := (hostFetch_tp ..).2

theorem modConn_rest (w : Work) (id : Nat) (f : Conn → Conn) : (w.modConn id f).n.ks = w.n.ks ∧ ∀ g i j, (w.modConn id f).get g i j = w.get g i j :=
  ⟨rfl, fun _ _ _ => rfl⟩

theorem fetchedIn_authentic (w : Work) (conn : Nat) (c : Conn) (entry : Bytes) :
    (fetchedIn w conn).ctxAuthentic conn c entry = w.ctxAuthentic conn c entry := by
  unfold Work.ctxAuthentic
  rw [fetchedIn_tp]

/-- The view on which the packets that were held go on. -/
def readyToRun (w : Work) (conn : Nat) : Work := (w.modConn conn fun c => { c with fetching := false, heldPkts := [] }).useCtx conn

/-- A connection whose held packets have gone on. -/
def released (used : Nat) (c : Conn) : Conn := { c with fetching := false, heldPkts := [], lastUsed := used }

theorem readyToRun_rw (w : Work) (conn : Nat) : (readyToRun w conn).rw = w.rw := rfl

theorem modConn_rw (w : Work) (id : Nat) (f : Conn → Conn) : (w.modConn id f).rw = w.rw := rfl

theorem shows_of_rw {w v : Work} (h : v.rw = w.rw) {f : Fld} {x i j : Nat} (hs : Shows w f x i j) : Shows v f x i j := by
  unfold Shows at *
  rw [h, hs]

theorem readyToRun_conn {w : Work} {conn : Nat} {c : Conn} (h : w.connOf conn = some c) :
    lookupN conn (readyToRun w conn).n.tp.conns = some (released (w.n.tp.useSeq + 1) c) :=
  useCtx_conn (modConn_conn h _)

section
variable {s : State} {conn slot : Nat} {entry : Bytes} {c : Conn} (ha : s.alive = true) (hx : lookupN conn s.node.tp.conns = some c)
  (hb : s.node.bo.busMaster = true)
include ha hx hb

theorem fetch_hot (hs : c.hot = true ∧ c.fetching = true) : exec (.contextFetchDone conn entry) s = .next (s.close
    (c.heldPkts.foldl (fun w e => w.takePacket conn e.2.2) (readyToRun ((fetchedIn s.view conn).ksInsertConn conn c.slot) conn))) := by
  have hc : s.view.connOf conn = some c := hx
  have hbm : s.view.n.bo.busMaster = true := hb
  rw [exec_fetched, execContextFetchDone, run_alive _ ha]
  simp only [hc, hs.1, hs.2, hbm, Bool.not_true, Bool.false_eq_true, or_self, if_false, if_true]
  rfl

/-- A connection that is hot again, in a slot. -/
def warmed (slot : Nat) (c : Conn) : Conn := { c with hot := true, slot := slot }

theorem fetch_good (hs : c.hot = false ∧ c.fetching = true) (hf : s.view.freeHotSlot = some slot)
    (hg : s.view.ctxAuthentic conn c entry = true) : exec (.contextFetchDone conn entry) s = .next (s.close
    (c.heldPkts.foldl (fun w e => w.takePacket conn e.2.2)
      (readyToRun (((fetchedIn s.view conn).modConn conn (warmed slot)).ksInsertConn conn slot) conn))) := by
  have hc : s.view.connOf conn = some c := hx
  have hbm : s.view.n.bo.busMaster = true := hb
  have hau := (fetchedIn_authentic s.view conn c entry).trans hg
  rw [exec_fetched, execContextFetchDone, run_alive _ ha]
  unfold fetchedIn at hau
  simp only [hc, hs.1, hs.2, hbm, takeHotSlot_free hf, hau, Bool.not_true, Bool.false_eq_true, or_self, if_false]
  rfl

/-- A context that fails authentication is counted and reported, and the packets held for it leave. -/
def unauthentic (w : Work) (conn : Nat) (c : Conn) : Work :=
  (((fetchedIn w conn).count Reg.CNX_CTX_FAIL).report { code := 0x4803, page := 0x71, part := some c.part, detail := conn }).modConn conn
    fun c => { c with fetching := false, heldPkts := [] }

theorem fetch_bad (hs : c.hot = false ∧ c.fetching = true) (hf : s.view.freeHotSlot = some slot)
    (hg : s.view.ctxAuthentic conn c entry = false) : exec (.contextFetchDone conn entry) s = .next (s.close
    (((unauthentic s.view conn c).breakConn conn stInternal).count Reg.FAB_NO_CONN c.heldPkts.length)) := by
  have hc : s.view.connOf conn = some c := hx
  have hbm : s.view.n.bo.busMaster = true := hb
  have hau := (fetchedIn_authentic s.view conn c entry).trans hg
  rw [exec_fetched, execContextFetchDone, run_alive _ ha]
  unfold fetchedIn at hau
  simp only [hc, hs.1, hs.2, hbm, takeHotSlot_free hf, hau, Bool.not_true, Bool.not_false, Bool.false_eq_true, or_self, if_false, if_true]
  rfl

end

/-! ### What the fetch leaves -/

/-- The counters of a fetch. -/
def fetchFlds : List Fld := [Reg.CNX_FETCHES, Reg.PCI_RD_KIB]

theorem fields_hostFetch (w : Work) (fn a len : Nat) (r : Bool) : fields [Reg.PCI_RD_KIB] (w.hostFetch fn none a len r) = fields [Reg.PCI_RD_KIB] w :=
  fields_count (w.emit _) Reg.PCI_RD_KIB _ 0 0 (by decide)

theorem fields_fetchedIn (w : Work) (conn : Nat) : fields fetchFlds (fetchedIn w conn) = fields fetchFlds w :=
  (Trims.fields_weaken (by decide) (fields_hostFetch ..)).trans (fields_count w _ _ _ _ (by decide))

theorem hostFetch_shows {w : Work} {f : Fld} {v i j : Nat} (h : Shows w f v i j) (hk : Reg.PCI_RD_KIB.key 0 0 ≠ f.key i j) (fn a len : Nat) (r : Bool) :
    Shows (w.hostFetch fn none a len r) f v i j :=
  Shows.set (w := w.emit _) h _ _ _ _ hk

theorem fetchedIn_shows (w : Work) (conn : Nat) :
    Shows (fetchedIn w conn) Reg.CNX_FETCHES (min (w.get Reg.CNX_FETCHES + 1) (2 ^ Reg.CNX_FETCHES.width - 1)) 0 0 :=
  hostFetch_shows (shows_count w Reg.CNX_FETCHES 1 0 0) (by decide) ..

theorem get_of_shows {w : Work} {f : Fld} {v i j : Nat} (h : Shows w f v i j) : w.get f i j = v := by
  unfold Work.get Work.raw
  rw [show w.rw.find? (fun e => e.1 = f.key i j) = _ from h]

theorem ksEraseConn_banks {v w : Work} {id : Nat} (hk : (lookupN id v.n.tp.conns).bind (·.ksAt) = (lookupN id w.n.tp.conns).bind (·.ksAt))
    (hb : v.n.ks = w.n.ks) : (v.ksEraseConn id).n.ks.banks = (w.ksEraseConn id).n.ks.banks := by
  unfold Work.ksEraseConn
  rw [hk]
  split
  · exact congrArg (fun k : Machine.Keystone => k.banks.modify _ _) hb
  · exact congrArg Machine.Keystone.banks hb

/-- What is changed of the connection's context, its Keystone entry apart, is of no account for that entry. -/
theorem ksAt_fetched (s : State) {conn : Nat} {c : Conn} (hx : lookupN conn s.node.tp.conns = some c) (slot : Nat) {f : Conn → Conn}
    (hf : ∀ c, (f c).ksAt = c.ksAt) {v : Work} (hv : v = fetchedIn s.view conn ∧ f = id ∨ v = (fetchedIn s.view conn).modConn conn f) :
    ((v.ksEraseConn conn).ksInsert tblConn [conn] slot).1 = ((s.view.ksEraseConn conn).ksInsert tblConn [conn] slot).1 := by
  have hconns : (lookupN conn v.n.tp.conns).bind (·.ksAt) = (lookupN conn s.view.n.tp.conns).bind (·.ksAt) := by
    have hx' : lookupN conn s.view.n.tp.conns = some c := hx
    rcases hv with ⟨rfl, -⟩ | rfl
    · rw [fetchedIn_tp]
    · rw [modConn_conn (c := c) (by unfold Work.connOf; rw [fetchedIn_tp, hx']) f, hx']
      exact hf c
  have hks : v.n.ks = s.view.n.ks := by
    rcases hv with ⟨rfl, -⟩ | rfl
    · exact fetchedIn_ks ..
    · exact (modConn_rest ..).1.trans (fetchedIn_ks ..)
  refine ksInsert_congr (ksEraseConn_banks hconns hks) (fun g hg i j => ?_) _ _ _
  have hcl : Clear fetchFlds g = true := by
    revert hg g
    decide
  obtain ⟨r1, r2, r3, -⟩ := ksEraseConn_rest v conn
  obtain ⟨q1, q2, q3, -⟩ := ksEraseConn_rest s.view conn
  have hv' : v.get g i j = s.view.get g i j := by
    have := get_of_fields (fields_fetchedIn s.view conn) hcl i j
    rcases hv with ⟨rfl, -⟩ | rfl
    · exact this
    · exact ((modConn_rest ..).2 _ _ _).trans this
  unfold Work.get Work.raw at *
  rw [r1, r2, q1, q2]
  exact hv'

/-! ### A connection that is broken -/

/-- A connection that is broken has nothing to send or to answer. -/
def broken (c : Conn) : Conn := { c with state := .broken, unacked := [], records := [], ackDue := false, ackWanted := false }

/-- A connection's loss, and what waited of it for mirror batches. -/
def brokenOff (w : Work) (id : Nat) : Work :=
  { w.modConn id broken with
    n.mi.dataIn := w.n.mi.dataIn.filter fun d => d.conn != id
    n.mi.metaIn := w.n.mi.metaIn.filter fun e => e.1 != id
    n.mi.inStreams := w.n.mi.inStreams.map fun s : InStream => { s with pendingMeta := s.pendingMeta.filter fun e => e.1 != id } }

/-- An active connection with no message of its own to finish breaks at once. -/
theorem breakConn_quiet {w : Work} {id : Nat} {c : Conn} (hc : w.connOf id = some c) (hs : c.state = .active)
    (hm : ∀ m ∈ w.n.tp.outMsgs, m.2.conn ≠ id) (st : Nat) : w.breakConn id st =
      ((brokenOff w id).count Reg.FAB_BROKEN).report { code := 0x4801, page := 0x70, part := some c.part, arg := c.peerNode, detail := id } := by
  have hq : ∀ v : Work, v.n.tp.outMsgs = w.n.tp.outMsgs → v.finishAll id st = v := by
    intro v hv
    have hnone : v.n.tp.outMsgs.filter (fun m => decide (m.2.conn = id)) = [] :=
      List.filter_eq_nil_iff.2 fun m h => by simpa using hm m (hv ▸ h)
    unfold Work.finishAll
    rw [hnone]
    rfl
  unfold Work.breakConn Work.breakNow
  rw [hc]
  dsimp only
  rw [if_neg (by rw [hs]; decide), if_neg (by rw [hs]; decide)]
  refine hq _ ?_
  rw [tp_of_reports (reports_report _ _)]
  rfl

theorem report_conns (w : Work) (e : Ev) (id : Nat) : lookupN id (w.report e).n.tp.conns = lookupN id w.n.tp.conns := by
  rw [tp_of_reports (reports_report _ _)]

section
variable (w : Work) (conn : Nat) (c : Conn)

theorem unauthentic_conn (hx : w.connOf conn = some c) : (unauthentic w conn c).connOf conn = some { c with fetching := false, heldPkts := [] } := by
  unfold unauthentic
  refine modConn_conn (c := c) ((report_conns _ _ _).trans ?_) _
  exact (congrArg (fun t : Transport => lookupN conn t.conns) (fetchedIn_tp w conn)).trans hx

theorem unauthentic_out : (unauthentic w conn c).n.tp.outMsgs = w.n.tp.outMsgs := by
  have h : ((fetchedIn w conn).count Reg.CNX_CTX_FAIL).n.tp = w.n.tp := fetchedIn_tp w conn
  unfold unauthentic Work.modConn
  dsimp only
  rw [tp_of_reports (reports_report _ _), h]

theorem fields_unauthentic {F : List Fld} (hF : Reg.CNX_CTX_FAIL :: fetchFlds ⊆ F) : fields F (unauthentic w conn c) = fields F w :=
  ((fields_report _ _).trans (fields_count _ _ _ _ _ (hF (by decide)))).trans
    (Trims.fields_weaken (fun _ h => hF (List.mem_cons_of_mem _ h)) (fields_fetchedIn w conn))

end

/-- A connection that breaks is counted and reported. -/
def brokenWith (u : Work) (conn : Nat) (c : Conn) : Work :=
  ((brokenOff u conn).count Reg.FAB_BROKEN).report { code := 0x4801, page := 0x70, part := some c.part, arg := c.peerNode, detail := conn }

section
variable (u : Work) (conn : Nat) (c : Conn)

theorem brokenWith_conn {x : Conn} (hx : u.connOf conn = some x) : lookupN conn (brokenWith u conn c).n.tp.conns = some (broken x) :=
  (report_conns ((brokenOff u conn).count Reg.FAB_BROKEN) _ conn).trans (modConn_conn hx broken)

theorem brokenWith_keeps {f : Fld} {v : Nat} (h : Shows u f v 0 0) (hp : Plain (f.key 0 0)) (hk : Reg.FAB_BROKEN.key 0 0 ≠ f.key 0 0) :
    Shows (brokenWith u conn c) f v 0 0 :=
  (reports_report _ _).shows hp (Shows.set (w := brokenOff u conn) h _ _ _ _ hk)

theorem brokenWith_counts : Shows (brokenWith u conn c) Reg.FAB_BROKEN (min (u.get Reg.FAB_BROKEN + 1) (2 ^ Reg.FAB_BROKEN.width - 1)) 0 0 :=
  (reports_report _ _).shows (plain_high (by decide) 0 0) (shows_count (brokenOff u conn) Reg.FAB_BROKEN 1 0 0)

theorem fields_brokenWith : fields [Reg.FAB_BROKEN] (brokenWith u conn c) = fields [Reg.FAB_BROKEN] u :=
  (fields_report _ _).trans (fields_count (brokenOff u conn) Reg.FAB_BROKEN 1 0 0 (by decide))

theorem unauthentic_shows (w : Work) : Shows (unauthentic w conn c) Reg.CNX_CTX_FAIL
    (min ((fetchedIn w conn).get Reg.CNX_CTX_FAIL + 1) (2 ^ Reg.CNX_CTX_FAIL.width - 1)) 0 0 :=
  (reports_report _ _).shows (plain_high (by decide) 0 0) (shows_count (fetchedIn w conn) Reg.CNX_CTX_FAIL 1 0 0)

end

theorem brokenWith_counted {s : State} (hc : Canonical s) (conn : Nat) (c : Conn) {w : Work}
    (hw : w = (brokenWith (unauthentic s.view conn c) conn c).count Reg.FAB_NO_CONN c.heldPkts.length) :
    Counted s (s.close w) Reg.CNX_CTX_FAIL ∧ Counted s (s.close w) Reg.FAB_BROKEN ∧ Counted s (s.close w) Reg.FAB_NO_CONN c.heldPkts.length := by
  have hu := fields_unauthentic s.view conn c (F := Reg.CNX_CTX_FAIL :: fetchFlds) fun _ h => h
  have hfail := unauthentic_shows conn c s.view
  rw [get_of_fields (fields_fetchedIn s.view conn) (by decide) 0 0] at hfail
  have hbroken := brokenWith_counts (unauthentic s.view conn c) conn c
  rw [get_of_fields hu (by decide) 0 0] at hbroken
  have hlost := shows_count (brokenWith (unauthentic s.view conn c) conn c) Reg.FAB_NO_CONN c.heldPkts.length 0 0
  rw [get_of_fields (fields_brokenWith _ conn c) (by decide) 0 0, get_of_fields hu (by decide) 0 0, ← hw] at hlost
  have hkept := brokenWith_keeps (unauthentic s.view conn c) conn c hfail (plain_high (by decide) 0 0) (by decide)
  subst hw
  exact ⟨(hkept.set _ _ _ _ (by decide)).rd hc.1, (hbroken.set _ _ _ _ (by decide)).rd hc.1, hlost.rd hc.1⟩

/-! ## Clause by clause -/

theorem entry_answered (s : State) (u : Work) (q e st : Nat) : ((s.close (u.completeEntry q e st 0 0 0 none)).view.queueOf q).entryOf e = none :=
  (completeEntry_gone u q e st 0 0 0 none).entryOf

theorem conn_answered (s : State) (u : Work) (q e st k : Nat) {c : Option Conn} (h : lookupN k u.n.tp.conns = c) :
    lookupN k (s.close (u.completeEntry q e st 0 0 0 none)).node.tp.conns = c := (completeEntry_conns u q e st 0 0 k).trans h

theorem tp_answered (s : State) (u : Work) (q e st : Nat) (h : u.n.tp = s.node.tp) :
    (s.close (u.completeEntry q e st 0 0 0 none)).node.tp = s.node.tp := (completeEntry_tp u q e st 0 0 0 none).trans h

/-- What INSTALL leaves of the new connection. -/
theorem install_leaves {s : State} {q e p id slot : Nat} {desc : Bytes} (ha : s.alive = true) (hcan : Canonical s) (hc : ControlAsks s q e p desc 1)
    (hid : id = fieldAt desc 4 4) (hd : s.view.connDescOk p desc = true) (hs : s.view.freeHotSlot = some slot)
    (hk : (s.view.ksInsert tblConn [id] slot).1 ≠ none) : ∃ t, exec (.installConn (.queue q e) desc) s = .next t ∧
      (t.view.queueOf q).entryOf e = none ∧
      (∀ key ∈ s.view.unwrapFor p (sliceAt desc 0x18 40), ∃ u at_ n f,
        lookupN id t.node.tp.conns = some { newConn u p slot desc key at_ with txMsn := n, fetching := f }) ∧
      (s.view.unwrapFor p (sliceAt desc 0x18 40) = none → t.node.tp = s.node.tp ∧ Counted s t Reg.SEC_UNWRAP_FAIL) := by
  generalize hu : s.view.unwrapFor p (sliceAt desc 0x18 40) = o
  cases o with
  | none =>
    refine ⟨_, install_refused ha hc hid hd hs hk hu, entry_answered .., by rintro k ⟨⟩, fun _ => ⟨?_, ?_⟩⟩
    · exact tp_answered s _ q e stAuthFail (unwrapFailed_tp s.view p id)
    · exact unwrapFailed_counted hcan p id q e stAuthFail
  | some key =>
    obtain ⟨u, -, c, rfl, hx⟩ := install_run ha hc hid hd hs hk hu
    obtain ⟨n, f, hp⟩ := presented_conn (w := withConn u id (newConn u p slot desc key _)) (id := id) (lookupN_insertN ..)
    refine ⟨_, hx, entry_answered .., fun k hk => ?_, fun h => by cases h⟩
    cases hk
    exact ⟨u, _, n, f, conn_answered _ _ _ _ _ _ hp⟩

/-- What REKEY leaves of a hot connection. -/
theorem rekey_leaves {s : State} {q e p id : Nat} {desc : Bytes} {c : Conn} (ha : s.alive = true) (hc : ControlAsks s q e p desc 2)
    (hid : id = fieldAt desc 4 4) (hx : s.view.connOf id = some c) (hd : desc.length = 128 ∧ zeroAt desc 0x40 64 = true)
    (hs : c.part = p ∧ c.state = .active ∧ c.hot = true) (he : fieldAt desc 0xC 2 = (c.epoch + 1) % 65536) :
    ∃ t, exec (.rekeyConn (.queue q e) desc) s = .next t ∧ (t.view.queueOf q).entryOf e = none ∧
      (∀ key ∈ s.view.unwrapFor p (sliceAt desc 0x18 40), lookupN id t.node.tp.conns =
        some (rekeyed s.node.tk.now key { c with lastUsed := s.node.tp.useSeq + 1 })) ∧
      (s.view.unwrapFor p (sliceAt desc 0x18 40) = none → t.node.tp = s.node.tp) := by
  generalize hu : s.view.unwrapFor p (sliceAt desc 0x18 40) = o
  cases o with
  | none =>
    refine ⟨_, rekey_refused ha hid hx hd hc hs he hu, entry_answered .., by rintro k ⟨⟩, fun _ => ?_⟩
    exact tp_answered s _ q e stAuthFail (unwrapFailed_tp s.view p id)
  | some key =>
    refine ⟨_, rekey_hot ha hid hx hd hc hs he hu, entry_answered .., fun k hk => ?_, fun h => by cases h⟩
    cases hk
    exact conn_answered _ _ _ _ _ _ (modConn_conn (useCtx_conn hx) _)

/-- The end of the overlap drops the key before. -/
theorem overlap_leaves {s : State} {conn : Nat} {c : Conn} (ha : s.alive = true) (hx : lookupN conn s.node.tp.conns = some c)
    (hk : c.prevKey ≠ none) (ho : rd s Reg.FAB_OVERLAP ≤ ticksTo c.rekeyTick s.node.tk.now) :
    ∃ t, exec (.rekeyOverlapExpired conn) s = .next t ∧ lookupN conn t.node.tp.conns = some { c with prevKey := none } ∧
      (∀ k : Nat, k ≠ conn → lookupN k t.node.tp.conns = lookupN k s.node.tp.conns) ∧ t.regs = s.regs ∧ t.mem = s.mem := by
  rw [exec_overlap, execRekeyOverlapExpired, run_alive _ ha]
  refine ⟨_, rfl, ?_, fun k h => modConn_other _ h _, rfl, rfl⟩
  refine (modConn_conn (w := s.view) hx _).trans (congrArg some ?_)
  exact if_pos ⟨Option.isSome_iff_ne_none.2 hk, ho⟩

/-- A context fetched back whose connection was cold. -/
theorem fetched_cold {s : State} {conn slot : Nat} {entry : Bytes} {c : Conn} (ha : s.alive = true) (hx : lookupN conn s.node.tp.conns = some c)
    (hs : c.hot = false ∧ c.fetching = true) (hb : s.node.bo.busMaster = true) (hf : s.view.freeHotSlot = some slot)
    (hg : s.view.ctxAuthentic conn c entry = true) : ∃ t, exec (.contextFetchDone conn entry) s = .next t ∧
      ∃ w : Work, t = s.close (c.heldPkts.foldl (fun w e => w.takePacket conn e.2.2) w) ∧
        lookupN conn w.n.tp.conns = some (released (s.node.tp.useSeq + 1)
          { warmed slot c with ksAt := ((s.view.ksEraseConn conn).ksInsert tblConn [conn] slot).1 }) ∧
        w.get Reg.CNX_FETCHES = min (rd s Reg.CNX_FETCHES + 1) (2 ^ Reg.CNX_FETCHES.width - 1) := by
  have hin : (fetchedIn s.view conn).connOf conn = some c := (congrArg (fun t : Transport => lookupN conn t.conns) (fetchedIn_tp ..)).trans hx
  have hconn := readyToRun_conn (ksInsertConn_conn (modConn_conn hin (warmed slot)) slot)
  obtain ⟨hrw, hregs, huse⟩ := ksInsertConn_rest ((fetchedIn s.view conn).modConn conn (warmed slot)) conn slot
  have hseq : ((fetchedIn s.view conn).modConn conn (warmed slot)).n.tp.useSeq = s.node.tp.useSeq :=
    (congrArg Transport.useSeq (fetchedIn_tp s.view conn) :)
  rw [ksAt_fetched s hx slot (f := warmed slot) (fun _ => rfl) (.inr rfl), huse, hseq] at hconn
  refine ⟨_, fetch_good ha hx hb hs hf hg, _, rfl, hconn, ?_⟩
  exact get_of_shows (shows_of_rw ((readyToRun_rw ..).trans (hrw.trans (modConn_rw ..))) (fetchedIn_shows s.view conn))

/-- A context fetched for a connection still hot. -/
theorem fetched_hot {s : State} {conn : Nat} {entry : Bytes} {c : Conn} (ha : s.alive = true) (hx : lookupN conn s.node.tp.conns = some c)
    (hs : c.hot = true ∧ c.fetching = true) (hb : s.node.bo.busMaster = true) : ∃ t, exec (.contextFetchDone conn entry) s = .next t ∧
      ∃ w : Work, t = s.close (c.heldPkts.foldl (fun w e => w.takePacket conn e.2.2) w) ∧
        lookupN conn w.n.tp.conns = some (released (s.node.tp.useSeq + 1)
          { c with ksAt := ((s.view.ksEraseConn conn).ksInsert tblConn [conn] c.slot).1 }) := by
  have hin : (fetchedIn s.view conn).connOf conn = some c := (congrArg (fun t : Transport => lookupN conn t.conns) (fetchedIn_tp ..)).trans hx
  have hconn := readyToRun_conn (ksInsertConn_conn hin c.slot)
  obtain ⟨-, -, huse⟩ := ksInsertConn_rest (fetchedIn s.view conn) conn c.slot
  have hseq : (fetchedIn s.view conn).n.tp.useSeq = s.node.tp.useSeq := (congrArg Transport.useSeq (fetchedIn_tp s.view conn) :)
  rw [ksAt_fetched s hx c.slot (f := id) (fun _ => rfl) (.inl ⟨rfl, rfl⟩), huse, hseq] at hconn
  exact ⟨_, fetch_hot ha hx hb hs, _, rfl, hconn⟩

/-- A context that fails authentication. -/
theorem fetched_bad {s : State} {conn slot : Nat} {entry : Bytes} {c : Conn} (ha : s.alive = true) (hcan : Canonical s)
    (hx : lookupN conn s.node.tp.conns = some c) (hs : c.hot = false ∧ c.fetching = true) (ht : c.state = .active) (hb : s.node.bo.busMaster = true)
    (hf : s.view.freeHotSlot = some slot) (hg : s.view.ctxAuthentic conn c entry = false) (hm : ∀ m ∈ s.node.tp.outMsgs, m.2.conn ≠ conn) :
    ∃ t, exec (.contextFetchDone conn entry) s = .next t ∧ lookupN conn t.node.tp.conns = some (broken { c with fetching := false, heldPkts := [] }) ∧
      Counted s t Reg.CNX_CTX_FAIL ∧ Counted s t Reg.FAB_BROKEN ∧ Counted s t Reg.FAB_NO_CONN c.heldPkts.length := by
  have hq := breakConn_quiet (unauthentic_conn s.view conn c hx) ht (by rw [unauthentic_out]; exact hm) stInternal
  have hrun := fetch_bad ha hx hb hs hf hg
  rw [hq] at hrun
  exact ⟨_, hrun, brokenWith_conn (unauthentic s.view conn c) conn c (unauthentic_conn s.view conn c hx), brokenWith_counted hcan conn c rfl⟩

/-- Settles O31, clause by clause. -/
theorem connectionsAreInstalledRekeyedAndRemoved : Obligations.ConnectionsAreInstalledRekeyedAndRemoved := by
  unfold Obligations.ConnectionsAreInstalledRekeyedAndRemoved
  refine ⟨fun s q e p id slot desc ha hcan hc hid hd hs hk => ?_, fun s q e p id desc c ha hc hid hx hd hs he => rekey_leaves ha hc hid hx hd hs he,
    fun s q e p id desc c ha hc hid hx hd hs he => ⟨_, rekey_cold ha hid hx hd hc hs he, modConn_conn hx _, rfl, rfl, rfl⟩,
    fun s conn c ha hx hk ho => overlap_leaves ha hx hk ho,
    fun s q e p id desc c ha hc hid hx hd hs => ⟨_, remove_run ha hid hx hd hc hs, entry_answered .., conn_answered _ _ _ _ _ _ (modConn_conn hx _),
      fun k hk => conn_answered _ _ _ _ _ _ (modConn_other _ hk _)⟩,
    fun s conn c ha hx hs ht => ⟨_, freed_run ha hx hs ht, dropConn_absent _ _⟩,
    fun s conn slot entry c ha _ hx hs hb hf hg => fetched_cold ha hx hs hb hf hg,
    fun s conn slot entry c ha hcan hx hs ht hb hf hg hm => fetched_bad ha hcan hx hs ht hb hf hg hm,
    fun s conn entry c ha hx hs hb => fetched_hot ha hx hs hb⟩
  obtain ⟨t, hx, hgone, hnew, hnot⟩ := install_leaves ha hcan hc hid hd hs hk
  refine ⟨t, hx, hgone, fun key hkey => ?_, hnot⟩
  obtain ⟨u, at_, n, f, hconn⟩ := hnew key hkey
  exact ⟨_, hconn, rfl, rfl, rfl, rfl, rfl, rfl, rfl, rfl, rfl, rfl, rfl, rfl, rfl, rfl, rfl⟩

end Sys2Proof.Connections
end

section
/-!
APPEND, and the rows that land (R107 to R111, R89, R90).
-/

namespace Sys2Proof.Appends

open Sys2Proof.Machine Sys2Proof.Safety Sys2Proof.Laws Sys2Proof.Fields Sys2Proof.Entries Sys2Proof.Assoc Sys2Proof.Answers Sys2Proof.Usage
  Sys2Proof.Resets

theorem exec_append (src : Src) (b : Bytes) (a : Nat) (s : State) : exec (.appendRows src b a) s = execAppendRows src b a s := by simp only [exec]
theorem exec_rowLanded (die : Nat) (s : State) : exec (.rowLanded die) s = execRowLanded die s := by simp only [exec]

/-! ## A row that lands -/

theorem pageHeader_length (part z : Nat) (p : Page) (rows : Bytes) : (pageHeader part z p rows).length = 64 := by
  simp [pageHeader, pageHead]

theorem writeHeader_n (w : Work) (ci pi : Nat) : (w.writeHeader ci pi).n = w.n := by
  unfold Work.writeHeader
  split
  · rfl
  · split <;> rfl

/-- The view without the row in front of a die's engine. -/
def installing (w : Work) (die : Nat) (rest : List InstallRow) : Work := { w with n.pg.install := w.n.pg.install.set die rest }

/-- A page on which a row has landed. -/
def marked (now : Nat) (row : Nat) (q : Page) : Page := { q with landed := max q.landed (row + 1), installTick := BitVec.ofNat 32 now }

/-- The bytes of a row, at its place on its page. -/
def rowPut (w : Work) (p : Page) (a : Nat) (r : InstallRow) : Work :=
  (w.store (a + 64 + r.row * p.rowBytes) r.bytes).modPage r.course r.page (marked w.now32 r.row)

/-- A row stands on its page, and the page's header says so. -/
def rowStored (w : Work) (p : Page) (a : Nat) (r : InstallRow) : Work := (rowPut w p a r).writeHeader r.course r.page

/-- What a row does to its course: nothing if it or its page is gone. -/
def rowLands (w : Work) (r : InstallRow) : Work :=
  match w.course r.course with
  | none => w
  | some c => match w.pageAddr c r.page, c.pages[r.page]? with
    | some a, some p => rowStored w p a r
    | _, _ => w

/-- The message whose last row has landed ends. -/
def rowAnswered (w : Work) : Option (Src × Nat × Nat × Nat × Word) → Work
  | some (src, tag, st, n, h) => w.complete src tag st n h.toNat
  | none => w

theorem rowLanded_run {s : State} {die : Nat} {r : InstallRow} {rest : List InstallRow} (ha : s.alive = true)
    (h : atD s.node.pg.install die [] = r :: rest) :
    exec (.rowLanded die) s = .next (s.close (rowAnswered (rowLands (installing s.view die rest) r) r.done)) := by
  have h' : atD s.view.n.pg.install die [] = r :: rest := h
  rw [exec_rowLanded, execRowLanded, run_alive _ ha]
  simp only [h']
  rfl

theorem rowAnswered_outer (w : Work) (d : Option (Src × Nat × Nat × Nat × Word)) : outer (rowAnswered w d) = outer w := by
  cases d with
  | none => rfl
  | some x => exact outer_complete w x.1 x.2.1 x.2.2.1 x.2.2.2.1 x.2.2.2.2.toNat none

theorem pager_of_outer {v w : Work} (h : outer v = outer w) : v.n.pg = w.n.pg := by
  have := congrArg Node.pg h
  exact this

theorem store_of_outer {v w : Work} (h : outer v = outer w) : v.n.st = w.n.st := by
  have := congrArg Node.st h
  exact this

theorem rowStored_pg (w : Work) (p : Page) (a : Nat) (r : InstallRow) : (rowStored w p a r).n.pg = w.n.pg := by
  unfold rowStored
  rw [writeHeader_n]
  rfl

theorem rowLands_pg (w : Work) (r : InstallRow) : (rowLands w r).n.pg = w.n.pg := by
  unfold rowLands
  split
  · rfl
  · split
    · exact rowStored_pg ..
    · rfl

theorem rowPut_course {w : Work} {c : Course} (r : InstallRow) (hc : w.course r.course = some c) (p : Page) (a : Nat) :
    (rowPut w p a r).course r.course = some { c with pages := c.pages.modify r.page (marked w.now32 r.row) } :=
  (lookupN_modifyN r.course (fun c : Course => { c with pages := c.pages.modify r.page (marked w.now32 r.row) }) _).trans
    (congrArg (Option.map _) hc)

theorem rowStored_landed {w : Work} {c : Course} {p : Page} {a : Nat} {r : InstallRow} (hc : w.course r.course = some c)
    (hp : c.pages[r.page]? = some p) : (lookupN r.course (rowStored w p a r).n.st.courses).bind (fun x => (x.pages[r.page]?).map (·.landed)) =
      some (max p.landed (r.row + 1)) := by
  unfold rowStored
  rw [writeHeader_n, show lookupN r.course (rowPut w p a r).n.st.courses = _ from rowPut_course r hc p a, Option.bind_some]
  dsimp only
  rw [List.getElem?_modify_eq, hp]
  rfl

/-- The header is written below the rows. -/
theorem writeHeader_below {s : State} (hcan : Canonical s) {w : Work} {ci pi : Nat} {c : Course} {a : Nat} (hc : w.course ci = some c)
    (ha : w.pageAddr c pi = some a) {x : Nat} (hx : a + 64 ≤ x) : byteAt (s.close (w.writeHeader ci pi)) x = byteAt (s.close w) x := by
  unfold Work.writeHeader
  rw [hc]
  dsimp only
  rw [ha]
  cases c.pages[pi]? with
  | none => rfl
  | some p => exact (byteAt_store hcan w a _ x).trans (if_neg fun h => by rw [pageHeader_length] at h; omega)

theorem rowStored_bytes {s : State} (hcan : Canonical s) {w : Work} {c : Course} {p : Page} {a : Nat} {r : InstallRow}
    (hc : w.course r.course = some c) (ha : w.pageAddr c r.page = some a) {i : Nat} (hi : i < r.bytes.length) :
    some (byteAt (s.close (rowStored w p a r)) (a + 64 + r.row * p.rowBytes + i)) = r.bytes[i]? := by
  have hb := byteAt_store hcan w (a + 64 + r.row * p.rowBytes) r.bytes (a + 64 + r.row * p.rowBytes + i)
  rw [if_pos ⟨by omega, by omega⟩, Nat.add_sub_cancel_left] at hb
  have hm : byteAt (s.close (rowPut w p a r)) (a + 64 + r.row * p.rowBytes + i) = _ := hb
  unfold rowStored
  rw [writeHeader_below hcan (a := a) (rowPut_course r hc p a) ha (by omega), hm, List.getElem?_eq_getElem hi, List.getD_eq_getElem _ _ hi]

/-- What ROW_LANDED does. -/
theorem rowLanded_leaves {s : State} {die : Nat} {r : InstallRow} {rest : List InstallRow} (ha : s.alive = true) (hcan : Canonical s)
    (hd : die < s.node.pg.install.length) (h : atD s.node.pg.install die [] = r :: rest) : ∃ t, exec (.rowLanded die) s = .next t ∧
      atD t.node.pg.install die [] = rest ∧
      (∀ (c : Course) (p : Page) (a : Nat), s.view.course r.course = some c → c.pages[r.page]? = some p → s.view.pageAddr c r.page = some a →
        (t.view.course r.course).bind (fun x => (x.pages[r.page]?).map (·.landed)) = some (max p.landed (r.row + 1)) ∧
        (r.done = none → ∀ i < r.bytes.length, some (byteAt t (a + 64 + r.row * p.rowBytes + i)) = r.bytes[i]?)) ∧
      t.node.pg.sessions = s.node.pg.sessions := by
  have hout := rowAnswered_outer (rowLands (installing s.view die rest) r) r.done
  have hpg := (pager_of_outer hout).trans (rowLands_pg _ _)
  refine ⟨_, rowLanded_run ha h, ?_, fun c p a hc hp hx => ?_, ?_⟩
  · refine (congrArg (fun g : Pager => atD g.install die []) hpg).trans ?_
    exact (congrArg (·.getD []) (List.getElem?_set_self hd))
  · have hc' : (installing s.view die rest).course r.course = some c := hc
    have hx' : (installing s.view die rest).pageAddr c r.page = some a := hx
    have hl : rowLands (installing s.view die rest) r = rowStored (installing s.view die rest) p a r := by
      unfold rowLands
      rw [hc']
      dsimp only
      rw [hx', hp]
    rw [hl] at hout ⊢
    refine ⟨?_, fun hn => ?_⟩
    · exact (congrArg (fun g : Store => (lookupN r.course g.courses).bind fun x => (x.pages[r.page]?).map (·.landed)) (store_of_outer hout)).trans
        (rowStored_landed hc' hp)
    · rw [hn]
      exact fun i hi => rowStored_bytes hcan hc' hx' hi
  · exact (congrArg Pager.sessions hpg :)

/-! ## An APPEND, as its message saw the node -/

/-- A view whose clock, sheets and budgets, acting values and count of rows are others. -/
def shifted (w : Work) (now : Tick) (qa : Admission) (acting : List Acting) (rows : Nat) : Work :=
  { w with n.tk.now := now, n.qa := qa, n.acting := acting, n.mi.rowsThisTick := rows }

theorem asSeen_shifted (s : State) (src : Src) : ∃ now qa acting, asSeen s src = shifted s.view now qa acting s.node.mi.rowsThisTick := by
  unfold asSeen
  split
  · exact ⟨_, _, _, rfl⟩
  · exact ⟨s.node.tk.now, s.node.qa, s.node.acting, rfl⟩

theorem chargeAppend_shifted {w v : Work} {now : Tick} {qa : Admission} {acting : List Acting} {rows p bytes packed : Nat}
    (h : (shifted w now qa acting rows).chargeAppend p bytes packed = some v) : ∃ qa' rows', v = shifted w now qa' acting rows' := by
  unfold Work.chargeAppend Work.chargePool at h
  dsimp only at h
  split at h
  · cases h
  · obtain ⟨u, hu, rfl⟩ := Option.map_eq_some_iff.1 h
    split at hu
    · cases hu
    · cases hu
      split <;> exact ⟨_, _, rfl⟩

section
variable {s : State} {src : Src} {b m : Bytes} {p si li : Nat} {se : Session} {l : Layer} {rows : List Bytes}
  (h : AppendAsks s src b p m si se li l rows) {now : Tick} {qa : Admission} {acting : List Acting} {k : Nat} {v : Work}
  (hv : v = shifted s.view now qa acting k)
include h hv

theorem findSession_asked : v.findSession p (fieldAt m 0 4) (some (fieldAt m 0x10 8)) = .ok (si, se) := by
  obtain ⟨-, -, -, -, -, -, -, ⟨hsi, hse, hgen, hpart, hne, -⟩, hcid, hstate, -⟩ := h
  have hs : v.session (fieldAt m 0 4 % 2 ^ 18) = some se := by rw [hv, ← hsi]; exact hse
  unfold Work.findSession
  dsimp only
  rw [hs]
  dsimp only
  rw [if_neg (by rw [hstate, hgen, hpart]; simp [hne]), if_pos hcid, ← hsi]

/-- An APPEND that passes its checks and whose budget holds is placed or staged. -/
theorem takeAppend_run (he : s.view.nextPos si li l ≤ fieldAt m 8 4) {w' u : Work}
    (hch : v.chargeAppend p (fieldAt m 0xC 4 * rows.length + 64 * ((fieldAt m 8 4 + rows.length - 1) / 16 - fieldAt m 8 4 / 16 + 1))
      (rows.length * (s.view.rowFmt se.fmt).rowBytes) = some w') {at_ : Nat}
    (hacc : w'.acceptAppend src (fieldAt m 0x18 4) si li se l (bitOf (fieldAt m 5 1) 1) (!bitOf (fieldAt m 5 1) 0) (fieldAt m 8 4)
      (s.view.nextPos si li l) rows at_ = .ok u) : v.takeAppend src p b at_ = u := by
  have hfind := findSession_asked h hv
  obtain ⟨-, hm, -, -, hlive, hdark, hen, ⟨-, -, -, -, -, hown⟩, -, hstate, hli, hlt, hl, hform, h1, hmax, hcount, hlen, hz, hb, hjump, hpack, hpfx⟩ := h
  have hflag : v.flag Reg.PGM_APPEND_EN = true := by
    rw [hv]
    exact (Entering.flag_eq hen : s.view.flag Reg.PGM_APPEND_EN 0 0 = _)
  have hdark' : v.isDark = false := by rw [hv]; exact hdark
  have hlive' : v.live p = true := by rw [hv]; exact hlive
  have hown' : v.ownCheck se = none := by rw [hv]; exact hown
  have hnext : v.nextPos si li l = s.view.nextPos si li l := by rw [hv]; rfl
  have hfmt : v.rowFmt se.fmt = s.view.rowFmt se.fmt := by rw [hv]; rfl
  have hpack' : v.packRows src se.fmt (!bitOf (fieldAt m 5 1) 0) rows.length (fieldAt m 0xC 4) b = some rows := by rw [hv]; exact hpack
  have hpfx' : v.prefixPending si = false := by rw [hv]; exact hpfx
  unfold Work.takeAppend
  dsimp only
  rw [← hm, if_neg (by rw [hdark']; decide), if_neg (by rw [hlive']; decide), if_neg (by rw [hflag]; decide), hfind]
  dsimp only
  rw [show (se.state.refusal.orElse fun _ => v.ownCheck se) = none by rw [hstate, hown']; rfl]
  dsimp only
  subst hl
  subst hli
  have hskip : min rows.length (s.view.nextPos si (fieldAt m 4 1) (atD se.layers (fieldAt m 4 1) Layer.empty) - fieldAt m 8 4) = 0 := by omega
  have hn : rows.length ≠ 0 := by omega
  have hshape : (decide (fieldAt m 4 1 < se.layers.length ∧ fieldAt m 5 1 < 4 ∧ 1 ≤ rows.length ∧ rows.length ≤ 4096 ∧
      fieldAt m 0xC 4 = if (!bitOf (fieldAt m 5 1) 0) = true then 2 * ((s.view.rowFmt se.fmt).c + (s.view.rowFmt se.fmt).p) else (s.view.rowFmt se.fmt).rowBytes) &&
      zeroAt m 0x1C 4 && decide (b.length = 32 + rows.length * fieldAt m 0xC 4) &&
      !(bitOf (fieldAt m 5 1) 1 && decide (s.view.nextPos si (fieldAt m 4 1) (atD se.layers (fieldAt m 4 1) Layer.empty) < fieldAt m 8 4 ∧
        fieldAt m 8 4 % 16 ≠ 0))) = true := by
    simp only [Bool.and_eq_true, decide_eq_true_eq, Bool.not_eq_true', Bool.and_eq_false_iff, decide_eq_false_iff_not]
    refine ⟨⟨⟨⟨hlt, hform, h1, hmax, ?_⟩, hz⟩, hb⟩, ?_⟩
    · rw [hlen]
      cases bitOf (fieldAt m 5 1) 0 <;> rfl
    · cases hj : bitOf (fieldAt m 5 1) 1 with
      | false => exact .inl rfl
      | true => exact .inr fun hx => hx.2 (hjump hj hx.1)
  rw [hnext, hfmt, hcount, hpack', hpfx', hshape, hskip]
  simp only [Bool.not_true, Bool.false_eq_true, if_false, Nat.sub_zero, Nat.add_zero, if_neg hn, hch, hacc]

end

/-! ### What stands when the boundary's view is joined again -/

/-- The pages and the store of a view. -/
def paged (w : Work) := (w.n.pg, w.n.st)

theorem paged_of_outer {v w : Work} (h : outer v = outer w) : paged v = paged w := by
  have := congrArg (fun n : Node => (n.pg, n.st)) h
  exact this

theorem paged_sendMsg (w : Work) (c op t b x y) : paged (w.sendMsg c op t b x y).2 = paged w := by
  unfold Work.sendMsg
  split
  · rfl
  · split <;> rfl

theorem paged_sendCredits (w : Work) (q : Query) : paged (w.sendCredits q) = paged w := by
  unfold Work.sendCredits
  split
  · rfl
  · refine Frame.foldl_keeps paged ?_ _ _
    intro v n
    unfold Work.recordTo
    dsimp only
    split
    · exact paged_sendMsg ..
    · rfl

theorem paged_rejoin (v w : Work) : paged (v.rejoin w) = paged v := by
  unfold Work.rejoin
  dsimp only
  refine (Frame.foldl_keeps paged (fun x (q : Nat × Query) => paged_sendCredits x q.2) _ _).trans ?_
  refine Eq.trans (b := paged _) rfl ((Frame.foldl_keeps paged ?_ _ _).trans rfl)
  exact fun _ _ => rfl

theorem outer_arrive (w : Work) (src : Src) : outer (w.arrive src) = outer w := by
  cases src with
  | conn id msn => exact outer_settleMsgs _ _
  | queue q e => rfl

/-- A request's outcome, as the node stands once it has acted. -/
def joined (s : State) (src : Src) (u : Work) : Work := if s.view.late src then u.rejoin s.view else u

theorem paged_joined (s : State) (src : Src) (u : Work) : paged (joined s src u) = paged u := by
  unfold joined
  split
  · exact paged_rejoin ..
  · rfl

theorem append_run {s : State} {src : Src} {b m : Bytes} {p si li at_ : Nat} {se : Session} {l : Layer} {rows : List Bytes} (ha : s.alive = true)
    (h : AppendAsks s src b p m si se li l rows) {u : Work} (hu : (asSeen s src).takeAppend src p b at_ = u) :
    exec (.appendRows src b at_) s = .next (s.close (joined s src u)) := by
  obtain ⟨hp, -, hs, ht, -⟩ := h
  rw [exec_append, execAppendRows, run_alive _ ha]
  simp only [hp, Work.srcActs, hs, ht, Bool.not_true, Bool.false_eq_true, if_false, Work.asArrived]
  unfold joined
  unfold asSeen at hu
  by_cases hl : s.view.late src = true
  · rw [if_pos hl] at hu ⊢
    rw [if_pos hl, hu]
  · rw [if_neg hl] at hu ⊢
    rw [if_neg hl, hu]

/-! ### A gap is staged -/

/-- An APPEND that waits behind a gap. -/
def gapped (src : Src) (p si li count pos tag : Nat) (jump raw : Bool) (rows : List Bytes) (now : Tick) : Staged :=
  { src := src, session := si, part := p, layer := li, jump := jump, raw := raw, count := count, firstPos := pos
    rows := rows, tag := tag, retries := 0, arrival := now, why := .gap }

theorem acceptAppend_gap {w : Work} {src : Src} {tag si li first e at_ : Nat} {se : Session} {l : Layer} {raw : Bool} {rows : List Bytes}
    (hr : rows ≠ []) (he : e < first) (hc : w.canStage se.part rows.length = true) :
    w.acceptAppend src tag si li se l false raw first e rows at_ =
      .ok ((w.stage (gapped src se.part si li rows.length first tag false raw rows w.now)).arrive src) := by
  have hskip : min rows.length (e - first) = 0 := by omega
  have hn : rows.length ≠ 0 := mt List.length_eq_zero_iff.1 hr
  unfold Work.acceptAppend
  simp only [hskip, List.drop_zero, Nat.add_zero, if_neg hn, he, decide_true, Bool.not_false, Bool.and_self, if_true, hc]
  rfl

theorem stage_paged (w : Work) (g : Staged) : (w.stage g).n.pg = { w.n.pg with staged := w.n.pg.staged ++ [g] } ∧ (w.stage g).n.st = w.n.st := by
  have h : ∀ v : Work, ∀ e, (v.report e).n.pg = v.n.pg ∧ (v.report e).n.st = v.n.st := fun v e => by
    rw [(reports_report v e).n]
    exact ⟨rfl, rfl⟩
  unfold Work.stage
  exact h _ _

/-- What an APPEND that leaves a gap does. -/
theorem append_stages {s : State} {src : Src} {b m : Bytes} {p si li at_ : Nat} {se : Session} {l : Layer} {rows : List Bytes} (ha : s.alive = true)
    (h : AppendAsks s src b p m si se li l rows) (he : s.view.nextPos si li l < fieldAt m 8 4) (hj : bitOf (fieldAt m 5 1) 1 = false)
    (hch : ((asSeen s src).chargeAppend p (fieldAt m 0xC 4 * rows.length + 64 * ((fieldAt m 8 4 + rows.length - 1) / 16 - fieldAt m 8 4 / 16 + 1))
      (rows.length * (s.view.rowFmt se.fmt).rowBytes)).isSome = true) (hc : s.view.canStage p rows.length = true) :
    ∃ t, exec (.appendRows src b at_) s = .next t ∧
      (t.node.pg.staged.map (fun g => (g.session, g.firstPos, g.rows)) =
        s.node.pg.staged.map (fun g => (g.session, g.firstPos, g.rows)) ++ [(si, fieldAt m 8 4, rows)]) ∧
      (t.node.pg.staged.getLast?.map (fun g => (g.why, g.retries)) = some (StageWhy.gap, 0)) ∧
      t.node.pg.sessions = s.node.pg.sessions ∧ t.node.st = s.node.st := by
  obtain ⟨now, qa, acting, hv⟩ := asSeen_shifted s src
  obtain ⟨w', hw'⟩ := Option.isSome_iff_exists.1 hch
  obtain ⟨qa', k, hs⟩ := chargeAppend_shifted (hv ▸ hw')
  have hrows : rows ≠ [] := by
    obtain ⟨-, -, -, -, -, -, -, -, -, -, -, -, -, -, h1, -⟩ := h
    exact fun hr => by rw [hr] at h1; exact absurd h1 (by decide)
  have hpart : se.part = p := by
    obtain ⟨-, -, -, -, -, -, -, ⟨-, -, -, hpart, -⟩, -⟩ := h
    exact hpart
  have hstage : w'.canStage se.part rows.length = true := by rw [hs, hpart]; exact hc
  have hacc := acceptAppend_gap (src := src) (tag := fieldAt m 0x18 4) (si := si) (li := li) (se := se) (l := l) (at_ := at_)
    (raw := !bitOf (fieldAt m 5 1) 0) hrows he hstage
  rw [← hj] at hacc
  have hrun := append_run ha h (takeAppend_run h hv (le_of_lt he) hw' hacc)
  have hpaged := (paged_joined s src _).trans (paged_of_outer (outer_arrive (w'.stage (gapped src se.part si li rows.length (fieldAt m 8 4)
    (fieldAt m 0x18 4) (bitOf (fieldAt m 5 1) 1) (!bitOf (fieldAt m 5 1) 0) rows w'.now)) src))
  obtain ⟨hpg, hst⟩ := Prod.ext_iff.1 hpaged
  obtain ⟨gpg, gst⟩ := stage_paged w' (gapped src se.part si li rows.length (fieldAt m 8 4)
    (fieldAt m 0x18 4) (bitOf (fieldAt m 5 1) 1) (!bitOf (fieldAt m 5 1) 0) rows w'.now)
  have hpager : w'.n.pg = s.node.pg := by rw [hs]; rfl
  have hstore : w'.n.st = s.node.st := by rw [hs]; rfl
  rw [hpager] at gpg
  have hall := hpg.trans gpg
  refine ⟨_, hrun, ?_, ?_, ?_, hst.trans (gst.trans hstore)⟩
  · refine (congrArg (fun g : Pager => g.staged.map fun g => (g.session, g.firstPos, g.rows)) hall).trans ?_
    exact List.map_append
  · refine (congrArg (fun g : Pager => g.staged.getLast?.map fun g => (g.why, g.retries)) hall).trans ?_
    dsimp only
    rw [List.getLast?_concat]
    rfl
  · exact (congrArg Pager.sessions hall :)

/-! ### Rows that continue the last page -/

theorem newPages_placed (si li : Nat) (se : Session) (fp n fuel : Nat) (cur : Option (Nat × Nat)) (q : Placed) :
    Work.newPages si li se fp n (fuel + 1) n cur q = some q := by
  rw [Work.newPages, if_pos (Nat.le_refl n)]

/-- Rows on the last page of a layer, from the first that it does not hold. -/
def onPage (w : Work) (ci pi row n : Nat) (l : Layer) : Placed :=
  { w := w, segs := [{ course := ci, page := pi, row := row, from_ := 0, take := n, fresh := none }], reserve := false, aim := l.aim }

theorem placeRows_open {w : Work} {si li fp n ci pi : Nat} {se : Session} {l : Layer} {c : Course} {pg : Page}
    (ho : w.openPage si se l fp = some (ci, pi, c, pg)) (hn : pg.counted + n ≤ 16) :
    w.placeRows si li se l fp n = some (onPage w ci pi pg.counted n l) := by
  have hm : min (16 - pg.counted) n = n := by omega
  unfold Work.placeRows
  rw [ho]
  dsimp only
  rw [hm]
  exact newPages_placed ..

theorem landsInTime_open {w : Work} {ci pi row n at_ : Nat} {l : Layer} {c : Course} (hc : w.course ci = some c) (hd : c.die < 2)
    (ht : at_ + ((atD w.n.pg.install c.die []).length + n) * 625 < w.periodPs + w.installPoint) : w.landsInTime (onPage w ci pi row n l) at_ = true := by
  have hon : ∀ d, (onPage w ci pi row n l).onDie d = if c.die = d then n else 0 := by
    intro d
    unfold Placed.onDie onPage
    dsimp only
    rw [List.filter_cons, hc, Option.map_some, Option.getD_some]
    by_cases h : c.die = d
    · rw [if_pos (by simpa using h), if_pos h]
      simp
    · rw [if_neg (by simpa using h), if_neg h]
      rfl
  have hdie : ∀ d, (let k := (onPage w ci pi row n l).onDie d
      k = 0 || decide (at_ + ((atD w.n.pg.install d []).length + k) * 625 < w.periodPs + w.installPoint)) = true := by
    intro d
    dsimp only
    rw [hon]
    by_cases h : c.die = d
    · subst h
      rw [if_pos rfl, decide_eq_true ht, Bool.or_true]
    · rw [if_neg h]
      rfl
  unfold Work.landsInTime
  exact List.all_eq_true.2 fun d _ => hdie d

theorem acceptAppend_open {w : Work} {src : Src} {tag si li first at_ ci pi f : Nat} {se : Session} {l : Layer} {jump raw : Bool} {rows : List Bytes}
    {c : Course} {pg : Page} (hr : rows ≠ []) (hstaged : w.stagedOf si li = []) (hres : w.restoring l = false)
    (ho : w.openPage si se l first = some (ci, pi, c, pg)) (hl : c.loc = .hbm f) (hc : w.course ci = some c) (hd : c.die < 2)
    (hn : pg.counted + rows.length ≤ 16)
    (ht : at_ + ((atD w.n.pg.install c.die []).length + rows.length) * 625 < w.periodPs + w.installPoint) :
    w.acceptAppend src tag si li se l jump raw first first rows at_ =
      .ok ((Work.countRows (onPage w ci pi pg.counted rows.length l) si li rows (some (src, tag, stOK))).2.arrive src) := by
  have hlen : rows.length ≠ 0 := mt List.length_eq_zero_iff.1 hr
  have hspill : w.spilledTail si se l first = none := by
    unfold Work.spilledTail
    rw [ho]
    dsimp only
    rw [hl]
  unfold Work.acceptAppend
  simp only [Nat.sub_self, Nat.min_zero, List.drop_zero, Nat.add_zero, if_neg hlen, Nat.lt_irrefl, decide_false, Bool.false_and, Bool.false_eq_true,
    if_false, hstaged, hres, List.isEmpty_nil, Bool.not_true, Bool.or_self, hspill, placeRows_open ho hn, landsInTime_open hc hd ht, if_true]
  rfl

/-- The rows of an APPEND, as a die's engine takes them; the last one ends it. -/
def engineRows (ci pi row n : Nat) (handle : Word) (rows : List Bytes) (done : Option (Src × Nat × Nat)) : List InstallRow :=
  rows.mapIdx fun i b =>
    { course := ci, page := pi, row := row + i, bytes := b
      done := if 0 = 0 ∧ i + 1 = rows.length then done.map fun x => (x.1, x.2.1, x.2.2, n, handle) else none }

/-- Rows counted on a page, and queued at its die's engine. -/
def queued (w : Work) (c : Course) (ci pi n : Nat) (q : List InstallRow) : Work :=
  let v := (w.cancelSpill ci).modPage ci pi fun p => { p with counted := p.counted + n }
  { v with n.pg.install := v.n.pg.install.modify c.die fun l => l ++ q }

/-- What the mirror stream and the heat learn of rows. -/
def noted (w : Work) (ci pi row : Nat) (rows : List Bytes) : Work := ((w.notePage ci pi).noteRows ci pi row rows).heatAppend ci

/-- A session whose layer has rows more. -/
def grown (now : Tick) (li n : Nat) (aim : Option Nat) (s : Session) : Session :=
  { s with layers := s.layers.set li { atD s.layers li Layer.empty with aim := aim, rows := (atD s.layers li Layer.empty).rows + n, lastAppend := now } }

theorem countRows_open {w : Work} {si li ci pi row : Nat} {se : Session} {l : Layer} {rows : List Bytes} {c : Course} (hs : w.session si = some se)
    (hc : w.course ci = some c) (done : Option (Src × Nat × Nat)) : ∃ handle s' v, v = noted (queued w c ci pi rows.length
        (engineRows ci pi row rows.length handle rows done)) ci pi row rows ∧ s' = (v.session si).getD se ∧
      (Work.countRows (onPage w ci pi row rows.length l) si li rows done).2 =
        (((v.setSession si (grown v.now li rows.length l.aim s')).noteRuns s'.part li (atD s'.layers li Layer.empty).runs
          (atD s'.layers li Layer.empty).runs s'.cid).count Reg.PGM_ROWS_IN rows.length).meter s'.part 6 rows.length := by
  unfold Work.countRows onPage
  simp only [hs, hc, List.zipIdx_cons, List.zipIdx_nil, List.foldl_cons, List.foldl_nil, List.drop_zero, List.take_length]
  exact ⟨_, _, _, rfl, rfl, rfl⟩

theorem paged_change (w : Work) (p : Nat) (c : Change) : paged (w.change p c) = paged w := by
  unfold Work.change
  split
  · split <;> rfl
  · rfl

theorem paged_notePage (w : Work) (ci pi : Nat) : paged (w.notePage ci pi) = paged w := by
  unfold Work.notePage
  split
  · split
    · exact paged_change ..
    · rfl
  · rfl

theorem paged_noteRows (w : Work) (ci pi row : Nat) (rows : List Bytes) : paged (w.noteRows ci pi row rows) = paged w := by
  unfold Work.noteRows
  split
  · split
    · exact paged_change ..
    · rfl
  · rfl

theorem paged_noteRuns (w : Work) (p li : Nat) (old runs : List Run) (cid : DWord) : paged (w.noteRuns p li old runs cid) = paged w := by
  unfold Work.noteRuns
  refine Frame.foldl_keeps paged ?_ _ _
  intro v r
  split
  · rfl
  · exact paged_change ..

theorem paged_meter (w : Work) (p k x : Nat) : paged (w.meter p k x) = paged w := by
  unfold Work.meter
  split <;> rfl

theorem cancelSpill_rest (w : Work) (ci : Nat) : (w.cancelSpill ci).n.pg = w.n.pg ∧ (w.cancelSpill ci).n.st.courses = w.n.st.courses := by
  have hd : ∀ (v : Work) job, (v.dropRun job).n.pg = v.n.pg ∧ (v.dropRun job).n.st = v.n.st := fun v job => by
    unfold Work.dropRun
    dsimp only
    split <;> exact ⟨rfl, rfl⟩
  have ha : ∀ mi, (w.abandonMove mi).n.pg = w.n.pg ∧ (w.abandonMove mi).n.st.courses = w.n.st.courses := fun mi => by
    unfold Work.abandonMove
    exact ⟨(hd _ _).1, (congrArg Store.courses (hd { w with n.st.moves := eraseN mi w.n.st.moves } _).2 :)⟩
  unfold Work.cancelSpill
  split
  · split
    · exact ⟨rfl, rfl⟩
    · exact ha _
  · exact ⟨rfl, rfl⟩

section
variable {w : Work} {ci pi n : Nat} {c : Course} (hc : w.course ci = some c) (q : List InstallRow)

theorem queued_pg : (queued w c ci pi n q).n.pg = { w.n.pg with install := w.n.pg.install.modify c.die fun l => l ++ q } := by
  have h : ((w.cancelSpill ci).modPage ci pi fun p => { p with counted := p.counted + n }).n.pg = w.n.pg := (cancelSpill_rest w ci).1
  unfold queued
  dsimp only
  rw [h]

include hc in
theorem queued_course : (queued w c ci pi n q).course ci = some { c with pages := c.pages.modify pi fun p => { p with counted := p.counted + n } } := by
  have h : (w.cancelSpill ci).course ci = some c := (congrArg (lookupN ci) (cancelSpill_rest w ci).2).trans hc
  exact (lookupN_modifyN ci (fun c : Course => { c with pages := c.pages.modify pi fun p => { p with counted := p.counted + n } }) _).trans
    (congrArg (Option.map _) h)

end

theorem modCourse_course (w : Work) (ci : Nat) (f : Course → Course) : (w.modCourse ci f).course ci = (w.course ci).map f := lookupN_modifyN ..

theorem noted_pg (w : Work) (ci pi row : Nat) (rows : List Bytes) : (noted w ci pi row rows).n.pg = w.n.pg :=
  (congrArg Prod.fst ((paged_noteRows (w.notePage ci pi) ci pi row rows).trans (paged_notePage w ci pi)) :)

/-- The heat of a course is of no account for its pages. -/
theorem noted_pages {w : Work} {ci : Nat} {c : Course} (hc : w.course ci = some c) (pi row : Nat) (rows : List Bytes) :
    ((noted w ci pi row rows).course ci).map (·.pages) = some c.pages := by
  have h : ((w.notePage ci pi).noteRows ci pi row rows).course ci = some c :=
    (congrArg (fun x : Pager × Store => lookupN ci x.2.courses) ((paged_noteRows (w.notePage ci pi) ci pi row rows).trans (paged_notePage w ci pi))).trans hc
  unfold noted Work.heatAppend
  rw [modCourse_course, h, Option.map_some, Option.map_some]
  dsimp only
  split <;> rfl

theorem map_bytes_engineRows (ci pi row n : Nat) (handle : Word) (rows : List Bytes) (done : Option (Src × Nat × Nat)) :
    (engineRows ci pi row n handle rows done).map (·.bytes) = rows := by
  unfold engineRows
  refine List.ext_getElem (by simp) fun i h1 h2 => ?_
  rw [List.getElem_map, List.getElem_mapIdx]

/-- What rows that continue the last page of a layer do. -/
theorem countRows_leaves {w : Work} {si li ci pi : Nat} {se : Session} {l : Layer} {rows : List Bytes} {c : Course} {pg : Page}
    (hs : w.session si = some se) (hl : l = atD se.layers li Layer.empty) (hli : li < se.layers.length) (hc : w.course ci = some c)
    (hp : c.pages[pi]? = some pg) (hd : c.die < w.n.pg.install.length) (done : Option (Src × Nat × Nat)) {u : Work}
    (hu : u = (Work.countRows (onPage w ci pi pg.counted rows.length l) si li rows done).2) :
    ((u.course ci).bind fun x => x.pages[pi]?).map (·.counted) = some (pg.counted + rows.length) ∧
    (u.session si).map (fun x => (atD x.layers li Layer.empty).rows) = some (l.rows + rows.length) ∧
    (atD u.n.pg.install c.die []).map (·.bytes) = (atD w.n.pg.install c.die []).map (·.bytes) ++ rows ∧
    u.n.pg.staged = w.n.pg.staged := by
  obtain ⟨handle, s', v, hv, hs', hx⟩ := countRows_open (li := li) (pi := pi) (row := pg.counted) (l := l) (rows := rows) hs hc done
  have hvpg : v.n.pg = _ := (congrArg (fun w : Work => w.n.pg) hv).trans ((noted_pg _ _ _ _ _).trans (queued_pg _))
  have hvs : v.session si = some se := (congrArg (fun g : Pager => lookupN si g.sessions) hvpg).trans hs
  have hs'' : s' = se := by rw [hs', hvs]; rfl
  subst hs''
  have hpaged : paged u = paged (v.setSession si (grown v.now li rows.length l.aim s')) := by
    rw [hu, hx]
    exact (paged_meter ..).trans (paged_noteRuns ..)
  obtain ⟨hpg, hst⟩ := Prod.ext_iff.1 hpaged
  refine ⟨?_, ?_, ?_, ?_⟩
  · have hpages : (v.course ci).map (·.pages) = _ :=
      (congrArg (fun w : Work => (w.course ci).map (·.pages)) hv).trans (noted_pages (queued_course hc _) _ _ _)
    obtain ⟨d, hd, hdp⟩ := Option.map_eq_some_iff.1 hpages
    have hud : u.course ci = some d := (congrArg (fun t : Store => lookupN ci t.courses) hst).trans hd
    rw [hud, Option.bind_some, hdp]
    dsimp only
    rw [List.getElem?_modify_eq, hp]
    rfl
  · have hus : u.session si = some (grown v.now li rows.length l.aim s') :=
      (congrArg (fun g : Pager => lookupN si g.sessions) hpg).trans (lookupN_insertN ..)
    rw [hus, Option.map_some]
    unfold grown
    dsimp only
    rw [← hl]
    unfold atD
    rw [List.getElem?_set_self hli]
    rfl
  · have hin : u.n.pg.install = w.n.pg.install.modify c.die fun l => l ++ engineRows ci pi pg.counted rows.length handle rows done :=
      (congrArg Pager.install hpg).trans (congrArg Pager.install hvpg :)
    rw [hin]
    unfold atD
    rw [List.getElem?_modify_eq, List.getElem?_eq_getElem hd, Option.map_eq_map, Option.map_some, Option.getD_some, Option.getD_some, List.map_append,
      map_bytes_engineRows]
  · exact (congrArg Pager.staged hpg).trans (congrArg Pager.staged hvpg :)

/-- The page that is open is a page of its course. -/
theorem openPage_page {w : Work} {si fp ci pi : Nat} {se : Session} {l : Layer} {c : Course} {pg : Page}
    (h : w.openPage si se l fp = some (ci, pi, c, pg)) : w.course ci = some c ∧ c.pages[pi]? = some pg := by
  have hlast : w.lastPage l = some (ci, pi, c, pg) := by
    unfold Work.openPage at h
    split at h
    next hx =>
      split at h
      · cases h
        exact hx
      · cases h
    · cases h
  unfold Work.lastPage at hlast
  split at hlast
  · cases hlast
  · split at hlast
    · cases hlast
    next hx =>
      obtain ⟨p, hp, he⟩ := Option.map_eq_some_iff.1 hlast
      cases he
      exact ⟨hx, hp⟩

/-- What an APPEND that continues the last page of its layer does. -/
theorem append_counts {s : State} {src : Src} {b m : Bytes} {p si li at_ ci pi f : Nat} {se : Session} {l : Layer} {rows : List Bytes} {c : Course}
    {pg : Page} (ha : s.alive = true) (h : AppendAsks s src b p m si se li l rows) (he : s.view.nextPos si li l = fieldAt m 8 4)
    (hch : ((asSeen s src).chargeAppend p (fieldAt m 0xC 4 * rows.length + 64 * ((fieldAt m 8 4 + rows.length - 1) / 16 - fieldAt m 8 4 / 16 + 1))
      (rows.length * (s.view.rowFmt se.fmt).rowBytes)).isSome = true)
    (hstaged : s.view.stagedOf si li = []) (hres : s.view.restoring l = false) (ho : s.view.openPage si se l (fieldAt m 8 4) = some (ci, pi, c, pg))
    (hl : c.loc = .hbm f) (hd : c.die < 2 ∧ s.node.pg.install.length = 2) (hn : pg.counted + rows.length ≤ 16)
    (ht : at_ + ((atD s.node.pg.install c.die []).length + rows.length) * 625 < (asSeen s src).periodPs + (asSeen s src).installPoint) :
    ∃ t, exec (.appendRows src b at_) s = .next t ∧
      (((t.view.course ci).bind fun x => x.pages[pi]?).map (·.counted) = some (pg.counted + rows.length)) ∧
      ((t.view.session si).map (fun x => (atD x.layers li Layer.empty).rows) = some (l.rows + rows.length)) ∧
      (atD t.node.pg.install c.die []).map (·.bytes) = (atD s.node.pg.install c.die []).map (·.bytes) ++ rows ∧
      t.node.pg.staged = s.node.pg.staged := by
  obtain ⟨now, qa, acting, hv⟩ := asSeen_shifted s src
  obtain ⟨w', hw'⟩ := Option.isSome_iff_exists.1 hch
  obtain ⟨qa', k, hs⟩ := chargeAppend_shifted (hv ▸ hw')
  obtain ⟨hc, hp⟩ := openPage_page ho
  have hrows : rows ≠ [] := by
    obtain ⟨-, -, -, -, -, -, -, -, -, -, -, -, -, -, h1, -⟩ := h
    exact fun hr => by rw [hr] at h1; exact absurd h1 (by decide)
  have hse : s.view.session si = some se ∧ l = atD se.layers li Layer.empty ∧ li < se.layers.length := by
    obtain ⟨-, -, -, -, -, -, -, ⟨-, hx, -⟩, -, -, -, hlt, hl, -⟩ := h
    exact ⟨hx, hl, hlt⟩
  have ht' : at_ + ((atD w'.n.pg.install c.die []).length + rows.length) * 625 < w'.periodPs + w'.installPoint := by
    rw [hv] at ht
    rw [hs]
    exact ht
  have hacc := acceptAppend_open (w := w') (src := src) (tag := fieldAt m 0x18 4) (jump := bitOf (fieldAt m 5 1) 1) (raw := !bitOf (fieldAt m 5 1) 0)
    hrows (by rw [hs]; exact hstaged) (by rw [hs]; exact hres) (by rw [hs]; exact ho) hl (by rw [hs]; exact hc) hd.1 hn ht'
  obtain ⟨hpg, hst⟩ := Prod.ext_iff.1 ((paged_joined s src _).trans (paged_of_outer (outer_arrive (Work.countRows
    (onPage w' ci pi pg.counted rows.length l) si li rows (some (src, fieldAt m 0x18 4, stOK))).2 src)))
  obtain ⟨h1, h2, h3, h4⟩ := countRows_leaves (w := w') (by rw [hs]; exact hse.1) hse.2.1 hse.2.2 (by rw [hs]; exact hc) hp
    (by rw [hs]; exact hd.2.symm ▸ hd.1) (some (src, fieldAt m 0x18 4, stOK)) rfl
  have hpager : w'.n.pg = s.node.pg := by rw [hs]; rfl
  rw [hpager] at h3 h4
  refine ⟨_, append_run ha h (takeAppend_run h hv (le_of_eq he) hw' (by rw [he]; exact hacc)), ?_, ?_, ?_, ?_⟩
  · exact (congrArg (fun t : Store => ((lookupN ci t.courses).bind fun x => x.pages[pi]?).map (·.counted)) hst).trans h1
  · exact (congrArg (fun g : Pager => (lookupN si g.sessions).map fun x => (atD x.layers li Layer.empty).rows) hpg).trans h2
  · exact (congrArg (fun g : Pager => (atD g.install c.die []).map (·.bytes)) hpg).trans h3
  · exact (congrArg Pager.staged hpg).trans h4

/-- Settles O19, clause by clause. -/
theorem appendsCountStageAndLandRows : Obligations.AppendsCountStageAndLandRows := by
  unfold Obligations.AppendsCountStageAndLandRows
  exact ⟨fun s src b m p si li at_ ci pi f se l rows c pg ha h he hch hstaged hres ho hl hd hn ht =>
      append_counts ha h he hch hstaged hres ho hl hd hn ht,
    fun s src b m p si li at_ se l rows ha h he hj hch hc => append_stages ha h he hj hch hc,
    fun s die r rest ha hcan hd h => rowLanded_leaves ha hcan hd h⟩

end Sys2Proof.Appends
end

section
/-!
The retry pass (R114, R115): staged APPENDs that find room, that are given another retry, or that end.
-/

namespace Sys2Proof.Retries

open Sys2Proof.Machine Sys2Proof.Safety Sys2Proof.Laws Sys2Proof.Fields Sys2Proof.Entries Sys2Proof.Assoc Sys2Proof.Answers Sys2Proof.Appends

theorem exec_retry (s : State) : exec .retryPass s = execRetryPass s := by simp only [exec]

/-! ## The staged APPENDs are of no account for where a course is placed -/

/-- A pager whose staged APPENDs are left out. -/
def unstaged (g : Pager) : Pager := { g with staged := [] }

/-- Two views that differ in what reports write, and in the staged APPENDs, at most. -/
structure Alike (a b : Work) : Prop where
  st : a.n.st = b.n.st
  se : a.n.se = b.n.se
  tk : a.n.tk = b.n.tk
  fresh : a.n.fresh = b.n.fresh
  pg : unstaged a.n.pg = unstaged b.n.pg
  regs : a.regs = b.regs
  rw_ : ∀ k, Plain k → a.rw.find? (fun e => e.1 = k) = b.rw.find? (fun e => e.1 = k)

theorem alike_staged (w : Work) (l : List Staged) : Alike { w with n.pg.staged := l } w := ⟨rfl, rfl, rfl, rfl, rfl, rfl, fun _ _ => rfl⟩

namespace Alike

variable {a b : Work} (h : Alike a b)
include h

theorem get {f : Fld} {i j : Nat} (hk : Plain (f.key i j)) : a.get f i j = b.get f i j := by
  unfold Work.get Work.raw
  rw [h.rw_ _ hk, h.regs]

theorem flag {f : Fld} {i j : Nat} (hk : Plain (f.key i j)) : a.flag f i j = b.flag f i j := by
  unfold Work.flag
  rw [h.get hk]

theorem sessions : a.n.pg.sessions = b.n.pg.sessions := by
  have := congrArg Pager.sessions h.pg
  exact this

theorem quiet : a.n.pg.quiet = b.n.pg.quiet := by
  have := congrArg Pager.quiet h.pg
  exact this

theorem install : a.n.pg.install = b.n.pg.install := by
  have := congrArg Pager.install h.pg
  exact this

theorem course (i : Nat) : a.course i = b.course i := by
  unfold Work.course
  rw [h.st]

theorem now : a.now = b.now := by
  unfold Work.now
  rw [h.tk]

theorem reports {a' b' : Work} (ha : Reports a a') (hb : Reports b b') : Alike a' b' := by
  refine ⟨?_, ?_, ?_, ?_, ?_, ?_, fun k hk => by rw [ha.rw_ k hk, hb.rw_ k hk, h.rw_ k hk]⟩
  · rw [ha.n, hb.n]; exact h.st
  · rw [ha.n, hb.n]; exact h.se
  · rw [ha.n, hb.n]; exact h.tk
  · rw [ha.n, hb.n]; exact h.fresh
  · rw [ha.n, hb.n]; exact h.pg
  · rw [ha.regs, hb.regs, h.regs]

theorem set (f : Fld) (v i j : Nat) : Alike (a.set f v i j) (b.set f v i j) := by
  refine ⟨?_, ?_, ?_, ?_, ?_, ?_, fun k hk => ?_⟩
  · simp only [set_n, h.st]
  · simp only [set_n, h.se]
  · simp only [set_n, h.tk]
  · simp only [set_n, h.fresh]
  · simp only [set_n, h.pg]
  · simp only [set_regs, h.regs]
  · rw [set_rw, set_rw]
    by_cases hx : f.key i j = k
    · rw [List.find?_cons_of_pos (by simpa using hx), List.find?_cons_of_pos (by simpa using hx)]
    · rw [List.find?_cons_of_neg (by simpa using hx), List.find?_cons_of_neg (by simpa using hx), h.rw_ k hk]

theorem count {f : Fld} {i j : Nat} (hk : Plain (f.key i j)) (n : Nat) : Alike (a.count f n i j) (b.count f n i j) := by
  unfold Work.count
  rw [h.get hk]
  exact h.set _ _ _ _

theorem ite {a' b' : Work} (h' : Alike a' b') {c d : Prop} [Decidable c] [Decidable d] (hc : c ↔ d) : Alike (if c then a else a') (if d then b else b') := by
  by_cases hx : c
  · rw [if_pos hx, if_pos (hc.1 hx)]
    exact h
  · rw [if_neg hx, if_neg (mt hc.2 hx)]
    exact h'

/-! ### What placing reads -/

theorem slotZ (p : Nat) : a.slotZ p = b.slotZ p := h.get (plain_high (by decide) 0 p)

theorem frameSpans (c : Course) (l : Loc) : a.frameSpans c l = b.frameSpans c l := by
  unfold Work.frameSpans Work.courseFrames
  rw [h.slotZ]

theorem heldSpans : a.heldSpans = b.heldSpans := by
  unfold Work.heldSpans
  simp only [h.frameSpans, h.course, h.st, h.se]

theorem usedSpans : a.usedSpans = b.usedSpans := by
  unfold Work.usedSpans
  rw [h.heldSpans, h.st]

theorem hbmFree (p : Nat) : a.hbmFree p = b.hbmFree p := by
  unfold Work.hbmFree Work.hbmUsed Work.hbmHeld Work.locFrames
  simp only [h.get (f := Reg.PP_HBM_QUOTA) (plain_high (by decide) _ _), h.frameSpans, h.course, h.st, h.se]

theorem servingStacks : a.servingStacks = b.servingStacks := by
  unfold Work.servingStacks Work.readyStacks Work.nodeState
  rw [h.get (f := Reg.GLB_NODE_STATE) (by unfold Plain; decide)]
  have hr : a.stackReady = b.stackReady := by
    funext x
    unfold Work.stackReady
    rw [h.get (plain_high (by decide) 0 0)]
  rw [hr]

theorem generalFree : a.generalFree = b.generalFree := by
  unfold Work.generalFree Work.reserveOut
  simp only [h.servingStacks, h.heldSpans, h.st, h.get (f := Reg.CST_FRAMES) (plain_high (by decide) 0 0),
    h.get (f := Reg.CST_RESERVE) (plain_high (by decide) 0 0)]

theorem reserveFree : a.reserveFree = b.reserveFree := by
  unfold Work.reserveFree Work.reserveOut
  rw [h.st, h.get (f := Reg.CST_RESERVE) (plain_high (by decide) 0 0)]

theorem handlesFree (p base k : Nat) : a.handlesFree p base k = b.handlesFree p base k := by
  unfold Work.handlesFree Work.reached
  rw [h.st, h.quiet, h.now]

/-! ### What placing does -/

/-- A choice that is alike, and leaves the views alike. -/
def Both {α : Type} (x y : α × Work) : Prop := x.1 = y.1 ∧ Alike x.2 y.2

theorem withFresh (n : Nat) : Alike { a with n.fresh := n } { b with n.fresh := n } :=
  ⟨h.st, h.se, h.tk, rfl, h.pg, h.regs, h.rw_⟩

theorem modStore (f : Store → Store) : Alike { a with n.st := f a.n.st } { b with n.st := f b.n.st } :=
  ⟨congrArg f h.st, h.se, h.tk, h.fresh, h.pg, h.regs, h.rw_⟩

theorem blockIn (stack len : Nat) : Both (a.blockIn stack len) (b.blockIn stack len) := by
  unfold Work.blockIn
  dsimp only
  rw [h.usedSpans, h.fresh]
  split
  · exact ⟨rfl, h.withFresh _⟩
  · exact ⟨rfl, h⟩

theorem tryStacks (start len n : Nat) : Both (a.tryStacks start len n) (b.tryStacks start len n) := by
  induction n with
  | zero => exact ⟨rfl, h⟩
  | succ n ih =>
    obtain ⟨hf, hw⟩ := h.blockIn ((start + (7 - n)) % 8) len
    rw [Work.tryStacks, Work.tryStacks]
    dsimp only
    rw [h.servingStacks, hf]
    split
    · split
      · exact ⟨hf, hw⟩
      · exact ih
    · exact ih

theorem allocPool (part start k : Nat) : Both (a.allocPool part start k) (b.allocPool part start k) := by
  induction k with
  | zero =>
    obtain ⟨hf, hw⟩ := h.tryStacks start (2 ^ a.slotZ part) 8
    rw [Work.allocPool, Work.allocPool]
    dsimp only
    rw [h.slotZ] at hf hw ⊢
    rw [h.hbmFree, h.generalFree]
    split
    · exact ⟨congrArg (Option.map fun f => (f, 0)) hf, hw⟩
    · exact ⟨rfl, h⟩
  | succ k ih =>
    obtain ⟨hf, hw⟩ := h.tryStacks start (2 ^ (k + 1 + a.slotZ part)) 8
    rw [Work.allocPool, Work.allocPool]
    dsimp only
    rw [h.slotZ] at hf hw ⊢
    rw [h.hbmFree, h.generalFree, hf]
    split
    · split
      · exact ⟨rfl, hw⟩
      · exact ih
    · exact ih

/-- An event of the reserve is reported, or not. -/
theorem event {a' b' : Work} (h : Alike a' b') {c : Prop} [Decidable c] (e e' : Ev) (n : Nat) :
    Alike (if c then (a'.report e).isr 0x26 n else a') (if c then (b'.report e').isr 0x26 n else b') :=
  (h.reports ((reports_report _ _).trans (reports_isr ..)) ((reports_report _ _).trans (reports_isr ..))).ite h Iff.rfl

theorem reserveCheck : Alike a.reserveCheck b.reserveCheck := by
  have hset : ∀ (x : Nat) (p q : Bool), Alike (((a.setFlag Reg.SPL_RESERVE_LOW p).setFlag Reg.SPL_RESERVE_EMPTY q).set Reg.SPL_RESERVE_FREE x)
      (((b.setFlag Reg.SPL_RESERVE_LOW p).setFlag Reg.SPL_RESERVE_EMPTY q).set Reg.SPL_RESERVE_FREE x) := fun x p q =>
    ((h.set _ _ _ _).set _ _ _ _).set _ _ _ _
  unfold Work.reserveCheck
  dsimp only
  rw [h.reserveFree, h.get (f := Reg.CST_RESERVE) (plain_high (by decide) 0 0), h.get (f := Reg.SPL_RESERVE_EVT) (plain_high (by decide) 0 0),
    h.flag (f := Reg.SPL_RESERVE_LOW) (plain_high (by decide) 0 0), h.flag (f := Reg.SPL_RESERVE_EMPTY) (plain_high (by decide) 0 0)]
  exact h.event (h.event (hset _ _ _) _ _ _) _ _ _

theorem allocReserve (part start : Nat) : Both (a.allocReserve part start) (b.allocReserve part start) := by
  obtain ⟨hf, hw⟩ := h.tryStacks start (2 ^ a.slotZ part) 8
  unfold Work.allocReserve
  dsimp only
  rw [h.slotZ] at hf hw ⊢
  rw [h.reserveFree, h.flag (f := Reg.GLB_PAGE_RESERVE_EN) (by unfold Plain; decide), hf]
  split
  · split
    · exact ⟨rfl, ((hw.modStore fun t => { t with reserveDrawn := bumpN part (2 ^ b.slotZ part) t.reserveDrawn, lastDrew := part }).count
        (f := Reg.PGM_RESERVE_TAKEN) (plain_high (by decide) 0 0) 1).reserveCheck⟩
    · exact ⟨rfl, h⟩
  · exact ⟨rfl, h⟩

theorem takeHandles (p k : Nat) : Both (a.takeHandles p k) (b.takeHandles p k) := by
  unfold Work.takeHandles
  dsimp only
  have hfree : a.handlesFree = b.handlesFree := funext fun p => funext fun x => funext fun k => h.handlesFree p x k
  rw [hfree, h.fresh]
  split
  · exact ⟨rfl, h.withFresh _⟩
  · refine ⟨?_, h⟩
    dsimp only
    rw [h.st, h.quiet]

theorem now32 : a.now32 = b.now32 := by
  unfold Work.now32
  rw [h.now]

end Alike

/-- A store with a course more, and the leaf of the handle map that comes with its first handle. -/
def withCourse (c : Course) (leaf : Nat × Nat) (t : Store) : Store :=
  { t with courses := insertN (freshKey 0 t.courses) c t.courses, leaves := if t.leaves.contains leaf then t.leaves else t.leaves ++ [leaf] }

theorem newCourse_eq (w : Work) (part k frame sess handle layer slot : Nat) (fromReserve : Bool) {v : Work} {base : Nat}
    (hv : w.takeHandles part k = (base, v)) {c : Course}
    (hc : c = { part := part, k := k, slot := slot, tail := true, heat := 0, lastTouch := BitVec.ofNat 32 v.now32, loc := .hbm frame
                session := some sess, creator := handle, layer := layer, refs := 1, fromReserve := fromReserve, base := base, pages := []
                heatTick := none }) :
    w.newCourse part k frame sess handle layer slot fromReserve = (freshKey 0 v.n.st.courses,
      ({ v with n.st := withCourse c (part, base / 2 ^ 16) v.n.st } : Work).zero (frameAddr frame) (2 ^ (k + v.slotZ part) * 4096)) := by
  unfold Work.newCourse
  rw [hv, hc]
  dsimp only
  unfold withCourse
  split
  next hl =>
    rw [if_pos (show v.n.st.leaves.contains (part, base / 2 ^ 16) = true from hl)]
    rfl
  next hl =>
    rw [if_neg (show ¬ v.n.st.leaves.contains (part, base / 2 ^ 16) = true from hl)]
    rfl

namespace Alike

variable {a b : Work} (h : Alike a b)
include h

theorem zero (x y : Nat) : Alike (a.zero x y) (b.zero x y) := ⟨h.st, h.se, h.tk, h.fresh, h.pg, h.regs, h.rw_⟩

/-- A course that is made is alike, and so is what has become of the views. -/
theorem newCourse (part k frame sess handle layer slot : Nat) (fromReserve : Bool) :
    Both (a.newCourse part k frame sess handle layer slot fromReserve) (b.newCourse part k frame sess handle layer slot fromReserve) := by
  obtain ⟨hb, hw⟩ := h.takeHandles part k
  rw [newCourse_eq a part k frame sess handle layer slot fromReserve Prod.mk.eta.symm rfl,
    newCourse_eq b part k frame sess handle layer slot fromReserve Prod.mk.eta.symm rfl]
  rw [hb, hw.now32, hw.slotZ]
  exact ⟨by rw [hw.st], (hw.modStore _).zero _ _⟩

theorem allocCourse (part sess handle layer aim : Nat) (pool reserve : Bool) :
    Both (a.allocCourse part sess handle layer aim pool reserve) (b.allocCourse part sess handle layer aim pool reserve) := by
  have hp : Both (if pool then a.allocPool part (sess + layer) aim else (none, a)) (if pool then b.allocPool part (sess + layer) aim else (none, b)) := by
    split
    · exact h.allocPool _ _ _
    · exact ⟨rfl, h⟩
  obtain ⟨hf, hw⟩ := hp
  obtain ⟨hr, hv⟩ := hw.allocReserve part (sess + layer)
  unfold Work.allocCourse
  dsimp only
  rw [hf]
  cases (if pool = true then b.allocPool part (sess + layer) aim else (none, b)).1 with
  | some x =>
    obtain ⟨hn, hx⟩ := hw.newCourse part x.2 x.1 sess handle layer (sess + layer) false
    exact ⟨by dsimp only; rw [hn], hx⟩
  | none =>
    dsimp only
    split
    · exact ⟨rfl, h⟩
    · rw [hr]
      cases (((if pool = true then b.allocPool part (sess + layer) aim else (none, b)).2).allocReserve part (sess + layer)).1 with
      | none => exact ⟨rfl, h⟩
      | some f =>
        obtain ⟨hn, hx⟩ := hv.newCourse part 0 f sess handle layer (sess + layer) true
        exact ⟨by dsimp only; rw [hn], hx⟩

theorem nextAim (s : Session) (l : Layer) : a.nextAim s l = b.nextAim s l := by
  unfold Work.nextAim
  rw [h.get (f := Reg.PGM_K_MAX) (plain_high (by decide) 0 0), h.get (f := Reg.PGM_K_FIRST) (plain_high (by decide) 0 0)]

theorem lastPage : a.lastPage = b.lastPage := by
  funext l
  unfold Work.lastPage
  simp only [h.course]

theorem openPage : a.openPage = b.openPage := by
  funext si s l fp
  unfold Work.openPage Work.pageShared
  rw [h.lastPage, h.sessions]

end Alike

/-- Two placements that are alike. -/
structure PlacedAlike (p q : Placed) : Prop where
  w : Alike p.w q.w
  segs : p.segs = q.segs
  reserve : p.reserve = q.reserve
  aim : p.aim = q.aim

theorem newPages_alike (si li : Nat) (se : Session) (fp n fuel i : Nat) (cur : Option (Nat × Nat)) {p q : Placed} (h : PlacedAlike p q) :
    Option.Rel PlacedAlike (Work.newPages si li se fp n fuel i cur p) (Work.newPages si li se fp n fuel i cur q) := by
  induction fuel generalizing i cur p q with
  | zero => exact .some h
  | succ fuel ih =>
    obtain ⟨hw, hsegs, hres, haim⟩ := h
    rw [Work.newPages, Work.newPages]
    split
    · exact .some ⟨hw, hsegs, hres, haim⟩
    · cases cur with
      | some x =>
        dsimp only
        rw [hw.course]
        split
        · exact ih _ _ ⟨hw, by dsimp only; rw [hsegs], hres, haim⟩
        · exact ih _ _ ⟨hw, hsegs, hres, haim⟩
      | none =>
        dsimp only
        rw [haim, hw.nextAim]
        obtain ⟨hf, hx⟩ := hw.allocCourse se.part si (handleOf si se.gen) li (q.w.nextAim se { Layer.empty with aim := q.aim }) true true
        rw [hf]
        cases (q.w.allocCourse se.part si (handleOf si se.gen) li (q.w.nextAim se { Layer.empty with aim := q.aim }) true true).1 with
        | none => exact .none
        | some x => exact ih _ _ ⟨hx, hsegs, by dsimp only; rw [hres], by dsimp only⟩

theorem placeRows_alike {a b : Work} (h : Alike a b) (si li : Nat) (se : Session) (l : Layer) (fp n : Nat) :
    Option.Rel PlacedAlike (a.placeRows si li se l fp n) (b.placeRows si li se l fp n) := by
  unfold Work.placeRows
  dsimp only
  rw [h.openPage, h.lastPage]
  refine newPages_alike _ _ _ _ _ _ _ _ ?_
  split
  · exact ⟨h, rfl, rfl, rfl⟩
  · exact ⟨h, rfl, rfl, rfl⟩

theorem landsInTime_alike {a b : Work} (h : Alike a b) {p q : Placed} (hp : PlacedAlike p q) (x : Nat) : a.landsInTime p x = b.landsInTime q x := by
  have hd : p.onDie = q.onDie := by
    funext d
    unfold Placed.onDie
    simp only [hp.w.course, hp.segs]
  unfold Work.landsInTime Work.installPoint Work.periodPs Work.periodAt
  rw [hd, h.install, h.tk, h.get (f := Reg.TICK_PERIOD) (by unfold Plain; decide)]

theorem spilledTail_alike {a b : Work} (h : Alike a b) (si : Nat) (se : Session) (l : Layer) (fp : Nat) :
    a.spilledTail si se l fp = b.spilledTail si se l fp := by
  unfold Work.spilledTail
  rw [h.openPage]

/-! ## What placing and counting leave -/

/-- The registers that staging, placing and counting write. -/
def passFlds : List Fld :=
  messageFlds ++ [Reg.SPL_RESERVE_LOW, Reg.SPL_RESERVE_EMPTY, Reg.SPL_RESERVE_FREE, Reg.PGM_RESERVE_TAKEN, Reg.PGM_ROWS_SKIPPED, Reg.PGM_ROWS_IN,
    Reg.CMP_ABANDONED, Reg.PGM_EXHAUSTED, Reg.PGM_GAP_FAIL]

/-- The pager and the transport of a view, and the registers that a pass does not write. -/
def steady (w : Work) := (w.n.pg, w.n.tp, besides passFlds w)

theorem steady_of {w v : Work} (hpg : v.n.pg = w.n.pg) (htp : v.n.tp = w.n.tp) (hregs : v.regs = w.regs) (hwiped : v.wiped = w.wiped)
    (hrw : v.rw = w.rw) : steady v = steady w := by
  unfold steady besides
  rw [hpg, htp, hregs, hwiped, hrw]

theorem steady_set (w : Work) {f : Fld} (h : f ∈ passFlds) (v : Nat) : steady (w.set f v) = steady w :=
  congrArg₂ Prod.mk (congrArg Node.pg (set_n w f v 0 0))
    (congrArg₂ Prod.mk (congrArg Node.tp (set_n w f v 0 0)) (besides_set w h v))

theorem steady_count (w : Work) {f : Fld} (h : f ∈ passFlds) (v : Nat) : steady (w.count f v) = steady w := steady_set w h _

theorem steady_reports {w v : Work} (h : Reports w v) : steady v = steady w := by
  unfold steady
  rw [besides_of_reports h, h.n]

theorem steady_ite {c : Prop} [Decidable c] {a b u : Work} (ha : steady a = steady u) (hb : steady b = steady u) :
    steady (if c then a else b) = steady u := by
  split
  · exact ha
  · exact hb

section
variable (w : Work)

/-- Choosing a block takes a free choice at most. -/
theorem blockIn_view (stack len : Nat) : (w.blockIn stack len).2 = w ∨ ∃ k, (w.blockIn stack len).2 = { w with n.fresh := k } := by
  unfold Work.blockIn
  extract_lets
  split
  · exact .inr ⟨_, rfl⟩
  · exact .inl rfl

theorem steady_fresh (k : Nat) : steady { w with n.fresh := k } = steady w := steady_of rfl rfl rfl rfl rfl

theorem steady_blockIn (x y) : steady (w.blockIn x y).2 = steady w := by
  obtain h | ⟨k, h⟩ := blockIn_view w x y
  · rw [h]
  · rw [h, steady_fresh]

theorem steady_tryStacks (x y n) : steady (w.tryStacks x y n).2 = steady w := by
  induction n with
  | zero => rfl
  | succ n ih =>
    rw [Work.tryStacks]
    dsimp only
    split
    · split
      · exact steady_blockIn ..
      · exact ih
    · exact ih

theorem steady_allocPool (p x k) : steady (w.allocPool p x k).2 = steady w := by
  induction k with
  | zero =>
    rw [Work.allocPool]
    split
    · exact steady_tryStacks ..
    · rfl
  | succ k ih =>
    rw [Work.allocPool]
    dsimp only
    split
    · split
      · exact steady_tryStacks ..
      · exact ih
    · exact ih

theorem steady_reserveCheck : steady w.reserveCheck = steady w := by
  have hev : ∀ {u : Work} (c : Prop) [Decidable c] (e : Ev) (n : Nat), steady u = steady w → steady (if c then (u.report e).isr 0x26 n else u) = steady w :=
    fun c _ e n hu => steady_ite ((steady_reports ((reports_report _ e).trans (reports_isr ..))).trans hu) hu
  unfold Work.reserveCheck
  dsimp only
  refine hev _ _ _ (hev _ _ _ ?_)
  exact (steady_set _ (by decide) _).trans ((steady_set _ (by decide) _).trans (steady_set _ (by decide) _))

theorem steady_allocReserve (p x) : steady (w.allocReserve p x).2 = steady w := by
  unfold Work.allocReserve
  dsimp only
  split
  · split
    · refine (steady_reserveCheck _).trans ((steady_count _ (by decide) _).trans ?_)
      exact steady_tryStacks w x (2 ^ w.slotZ p) 8
    · rfl
  · rfl

theorem steady_newCourse (p k f s h l x r) : steady (w.newCourse p k f s h l x r).2 = steady w := by
  rw [newCourse_eq w p k f s h l x r Prod.mk.eta.symm rfl]
  have : steady (w.takeHandles p k).2 = steady w := by
    unfold Work.takeHandles
    dsimp only
    split <;> rfl
  exact this

theorem steady_allocCourse (p s h l a pool res) : steady (w.allocCourse p s h l a pool res).2 = steady w := by
  have hp : steady (if pool then w.allocPool p (s + l) a else (none, w)).2 = steady w := by
    split
    · exact steady_allocPool ..
    · rfl
  unfold Work.allocCourse
  dsimp only
  split
  · exact (steady_newCourse ..).trans hp
  · split
    · rfl
    · split
      · exact (steady_newCourse ..).trans ((steady_allocReserve ..).trans hp)
      · rfl

end

theorem steady_newPages (si li : Nat) (se : Session) (fp n fuel i : Nat) (cur : Option (Nat × Nat)) {p q : Placed}
    (h : Work.newPages si li se fp n fuel i cur p = some q) : steady q.w = steady p.w := by
  induction fuel generalizing i cur p with
  | zero => cases h; rfl
  | succ fuel ih =>
    rw [Work.newPages] at h
    split at h
    · cases h; rfl
    · cases cur with
      | some x =>
        dsimp only at h
        split at h
        · exact (ih _ _ h :)
        · exact ih _ _ h
      | none =>
        dsimp only at h
        split at h
        · cases h
        · exact (ih _ _ h).trans (steady_allocCourse ..)

theorem steady_placeRows {w : Work} {si li : Nat} {se : Session} {l : Layer} {fp n : Nat} {q : Placed} (h : w.placeRows si li se l fp n = some q) :
    steady q.w = steady w := by
  unfold Work.placeRows at h
  dsimp only at h
  refine (steady_newPages _ _ _ _ _ _ _ _ h).trans ?_
  split <;> rfl

/-- The staged APPENDs, the sessions and the transport of a view, and the registers that a pass does not write. -/
def queue (w : Work) := (w.n.pg.staged, w.n.pg.sessions, w.n.tp, besides passFlds w)

theorem queue_of {w v : Work} (hs : v.n.pg.staged = w.n.pg.staged) (hse : v.n.pg.sessions = w.n.pg.sessions) (htp : v.n.tp = w.n.tp)
    (hregs : v.regs = w.regs) (hwiped : v.wiped = w.wiped) (hrw : v.rw = w.rw) : queue v = queue w := by
  unfold queue besides
  rw [hs, hse, htp, hregs, hwiped, hrw]

theorem queue_of_steady {w v : Work} (h : steady v = steady w) : queue v = queue w := by
  have := congrArg (fun x : Pager × Transport × _ => (x.1.staged, x.1.sessions, x.2)) h
  exact this

section
variable (w : Work)

theorem queue_modCourse (ci f) : queue (w.modCourse ci f) = queue w := queue_of rfl rfl rfl rfl rfl rfl

theorem queue_install (l) : queue { w with n.pg.install := l } = queue w := queue_of rfl rfl rfl rfl rfl rfl

theorem queue_change (p c) : queue (w.change p c) = queue w := by
  unfold Work.change
  split
  · split
    · rfl
    · exact queue_of rfl rfl rfl rfl rfl rfl
  · rfl

theorem queue_notePage (ci pi) : queue (w.notePage ci pi) = queue w := by
  unfold Work.notePage
  split
  · split
    · exact queue_change ..
    · rfl
  · rfl

theorem queue_noteRows (ci pi row rows) : queue (w.noteRows ci pi row rows) = queue w := by
  unfold Work.noteRows
  split
  · split
    · exact queue_change ..
    · rfl
  · rfl

theorem queue_noteCourse (ci a) : queue (w.noteCourse ci a) = queue w := by
  unfold Work.noteCourse
  split
  · exact queue_change ..
  · rfl

theorem queue_noteRuns (p li old runs cid) : queue (w.noteRuns p li old runs cid) = queue w := by
  unfold Work.noteRuns
  refine Frame.foldl_keeps queue (fun v r => ?_) _ _
  split
  · rfl
  · exact queue_change ..

theorem queue_meter (p k x) : queue (w.meter p k x) = queue w := by
  unfold Work.meter
  split
  · exact queue_of rfl rfl rfl rfl rfl rfl
  · rfl

theorem queue_dropRun (job) : queue (w.dropRun job) = queue w := by
  unfold Work.dropRun
  dsimp only
  split
  · exact (queue_of_steady (steady_count _ (by decide) _)).trans (queue_of rfl rfl rfl rfl rfl rfl)
  · rfl

theorem queue_cancelSpill (ci) : queue (w.cancelSpill ci) = queue w := by
  unfold Work.cancelSpill
  split
  · split
    · rfl
    · exact (queue_dropRun _ _).trans (queue_of rfl rfl rfl rfl rfl rfl)
  · rfl

end

/-- Rows that are counted leave the staged APPENDs, and the session's layer has them. -/
theorem countRows_leaves {p : Placed} {si : Nat} {s : Session} (h : p.w.session si = some s) (li : Nat) (rows : List Bytes)
    (done : Option (Src × Nat × Nat)) : ∃ v l k, queue v = queue p.w ∧ l.rows = (atD s.layers li Layer.empty).rows + rows.length ∧
      queue (Work.countRows p si li rows done).2 = queue (v.setSession si { s with layers := s.layers.set li l, slots := k }) := by
  unfold Work.countRows
  rw [h]
  dsimp only
  generalize hv : List.foldl _ p.w p.segs.zipIdx = v
  replace hv : queue v = queue p.w := by
    rw [← hv]
    refine Frame.foldl_keeps queue (fun u e => ?_) _ _
    split
    · rfl
    · refine (queue_modCourse ..).trans ((queue_noteRows ..).trans ((queue_notePage ..).trans ?_))
      refine (queue_install ..).trans ((queue_modCourse ..).trans (Eq.trans ?_ (queue_cancelSpill u e.1.course)))
      split
      · refine (queue_modCourse ..).trans ?_
        split
        · exact queue_noteCourse ..
        · rfl
      · rfl
  have hs : v.session si = some s := (congrArg (fun x : _ × List (Nat × Session) × _ => lookupN si x.2.1) hv).trans h
  rw [hs, Option.getD_some]
  exact ⟨v, _, _, hv, rfl, (queue_meter ..).trans ((queue_of_steady (steady_count _ (by decide) _)).trans (queue_noteRuns ..))⟩

/-! ## A pass only takes APPENDs out of staging -/

/-- A view with staged APPENDs of another's and no others, and with its registers but for those that a pass writes. -/
structure Fewer (w v : Work) : Prop where
  staged : v.n.pg.staged ⊆ w.n.pg.staged
  regs : besides passFlds v = besides passFlds w

theorem Fewer.refl (w : Work) : Fewer w w := ⟨List.Subset.refl _, rfl⟩

theorem Fewer.trans {u v w : Work} (h : Fewer u v) (h' : Fewer v w) : Fewer u w := ⟨fun _ hx => h.staged (h'.staged hx), h'.regs.trans h.regs⟩

theorem fewer_of_eq {w v : Work} (h : v.n.pg.staged = w.n.pg.staged) (hr : besides passFlds v = besides passFlds w) : Fewer w v :=
  ⟨fun _ hx => h ▸ hx, hr⟩

theorem fewer_of_queue {v w : Work} (h : queue v = queue w) : Fewer w v := by
  obtain ⟨hs, -, -, hr⟩ := (by simpa only [queue, Prod.mk.injEq] using h :
    v.n.pg.staged = w.n.pg.staged ∧ v.n.pg.sessions = w.n.pg.sessions ∧ v.n.tp = w.n.tp ∧ besides passFlds v = besides passFlds w)
  exact fewer_of_eq hs hr

theorem complete_staged (w : Work) (src tag st a0 a1) : (w.complete src tag st a0 a1).n.pg = w.n.pg := pager_of_outer (outer_complete ..)

theorem fewer_complete (w : Work) (src tag st a0 a1) : Fewer w (w.complete src tag st a0 a1) :=
  fewer_of_eq (congrArg Pager.staged (complete_staged ..)) (besides_complete w (by decide) ..)

theorem fewer_erase (w : Work) (g : Staged) : Fewer w { w with n.pg.staged := w.n.pg.staged.erase g } := ⟨List.erase_subset, rfl⟩

/-- Leaving staging with what is counted and answered. -/
def ends (status : Nat) (w : Work) (g : Staged) : Work :=
  let w := { w with n.pg.staged := w.n.pg.staged.erase g }
  let h := match w.session g.session with | some s => handleOf g.session s.gen | none => g.session
  let w := w.report { code := 0x4304, page := 0x25, part := some g.part, status := status, arg := h, detail := status }
  let w := if status = stExhausted then w.count Reg.PGM_EXHAUSTED else if status = stInternal then w.count Reg.PGM_GAP_FAIL else w
  w.complete g.src g.tag status 0 0

theorem dropStaged_eq (w : Work) (pick : Staged → Bool) (status : Nat) :
    w.dropStaged pick status = (w.n.pg.staged.filter pick).foldl (ends status) w := rfl

theorem steady_counted (status : Nat) (w : Work) : steady (if status = stExhausted then w.count Reg.PGM_EXHAUSTED else
    if status = stInternal then w.count Reg.PGM_GAP_FAIL else w) = steady w :=
  steady_ite (steady_count _ (by decide) _) (steady_ite (steady_count _ (by decide) _) rfl)

/-- What is answered when an APPEND leaves staging stands in a view that has lost the APPEND only. -/
theorem ends_eq (status : Nat) (w : Work) (g : Staged) : ∃ v, steady v = steady { w with n.pg.staged := w.n.pg.staged.erase g } ∧
    ends status w g = v.complete g.src g.tag status 0 0 :=
  ⟨_, (steady_counted ..).trans (steady_reports (reports_report ..)), rfl⟩

theorem ends_staged (status : Nat) (w : Work) (g : Staged) : (ends status w g).n.pg.staged = w.n.pg.staged.erase g := by
  obtain ⟨v, hv, he⟩ := ends_eq status w g
  rw [he, complete_staged]
  exact congrArg (fun x : Pager × _ => x.1.staged) hv

theorem ends_fewer (status : Nat) (w : Work) (g : Staged) : Fewer w (ends status w g) := by
  obtain ⟨v, hv, he⟩ := ends_eq status w g
  rw [he]
  exact (fewer_erase w g).trans ((fewer_of_queue (queue_of_steady hv)).trans (fewer_complete ..))

theorem foldl_fewer {α : Type} {f : Work → α → Work} (h : ∀ w a, Fewer w (f w a)) (l : List α) (w : Work) : Fewer w (l.foldl f w) := by
  induction l generalizing w with
  | nil => exact .refl w
  | cons a l ih => exact (h w a).trans (ih _)

theorem dropStaged_fewer (w : Work) (pick status) : Fewer w (w.dropStaged pick status) := by
  rw [dropStaged_eq]
  exact foldl_fewer (ends_fewer status) _ _

theorem dropStaged_gone (w : Work) (pick : Staged → Bool) (status : Nat) {g : Staged} (h : g ∈ (w.dropStaged pick status).n.pg.staged) :
    pick g = false := by
  have hs : (w.dropStaged pick status).n.pg.staged = w.n.pg.staged.diff (w.n.pg.staged.filter pick) := by
    rw [dropStaged_eq, List.diff_eq_foldl]
    exact (List.foldl_hom (fun w : Work => w.n.pg.staged) (fun w g => (ends_staged status w g).symm)).symm
  rw [hs] at h
  by_contra hp
  have hc := List.count_diff g w.n.pg.staged (w.n.pg.staged.filter pick)
  rw [List.count_filter (by simpa using hp), Nat.sub_self] at hc
  exact List.count_eq_zero.1 hc h

theorem beginTailCopy_fewer (w : Work) (si li s l ci pi) : Fewer w (w.beginTailCopy si li s l ci pi) := by
  have ha := steady_allocCourse w s.part si (handleOf si s.gen) li (w.nextAim s l) true true
  unfold Work.beginTailCopy
  generalize w.allocCourse s.part si (handleOf si s.gen) li (w.nextAim s l) true true = a at ha
  obtain ⟨hpg, -, hr⟩ := (by simpa only [steady, Prod.mk.injEq] using ha : a.2.n.pg = w.n.pg ∧ a.2.n.tp = w.n.tp ∧ _)
  split
  · exact .refl w
  · dsimp only
    split
    · exact .refl w
    · split
      · exact fewer_of_eq (congrArg Pager.staged hpg :) hr
      · exact fewer_of_eq (congrArg Pager.staged hpg :) hr

/-- An APPEND out of staging, with the rows that it skips counted. -/
def out (g : Staged) (skip : Nat) (w : Work) : Work :=
  let w := { w with n.pg.staged := w.n.pg.staged.erase g }
  if skip = 0 then w else w.count Reg.PGM_ROWS_SKIPPED skip

theorem out_fewer (g skip w) : Fewer w (out g skip w) := by
  unfold out
  dsimp only
  split
  · exact fewer_erase w g
  · exact (fewer_erase w g).trans (fewer_of_queue (queue_of_steady (steady_count _ (by decide) _)))

theorem fewer_setSession (w si s) : Fewer w (w.setSession si s) := ⟨List.Subset.refl _, rfl⟩

theorem countRows_fewer (p si li rows done) : Fewer p.w (Work.countRows p si li rows done).2 := by
  cases h : p.w.session si with
  | none =>
    unfold Work.countRows
    rw [h]
    exact .refl _
  | some s =>
    obtain ⟨v, l, k, hv, -, hq⟩ := countRows_leaves h li rows done
    exact (fewer_of_queue hv).trans ((fewer_setSession v si _).trans (fewer_of_queue hq))

theorem tryStaged_fewer (w g) : Fewer w (w.tryStaged g).2 := by
  unfold Work.tryStaged
  split
  · exact .refl w
  · dsimp only
    split
    · exact (out_fewer g _ w).trans (fewer_complete ..)
    · split
      · exact .refl w
      · split
        · exact beginTailCopy_fewer ..
        · split
          · exact .refl w
          · next hp =>
            split
            · exact .refl w
            · exact (fewer_of_queue (queue_of_steady (steady_placeRows hp))).trans ((countRows_fewer ..).trans ((out_fewer g _ _).trans (fewer_complete ..)))

theorem layerPass_fewer (fuel : Nat) (w : Work) (l held : List Staged) : Fewer w (Work.layerPass fuel w l held) := by
  induction fuel generalizing w l held with
  | zero => exact .refl w
  | succ fuel ih =>
    cases l with
    | nil => exact .refl w
    | cons g rest =>
      rw [Work.layerPass]
      dsimp only
      split
      · exact ih ..
      · split
        · exact (tryStaged_fewer w g).trans (ih ..)
        · exact tryStaged_fewer w g

/-- What becomes of one APPEND at the end of its layer's pass. -/
def lastTry (a : Bool × Work) (g : Staged) : Bool × Work :=
  let w := a.2
  if !(w.n.pg.staged.contains g) then a
  else if a.1 then (true, w.dropStaged (· = g) stExhausted)
  else if g.retries < w.get Reg.PGM_RETRIES then a
  else if w.gapHeld g then (false, w.dropStaged (· = g) stInternal)
  else (true, w.dropStaged (· = g) stExhausted)

theorem layerEnd_eq (w : Work) (l : List Staged) : w.layerEnd l = (l.foldl lastTry (false, w)).2 := rfl

theorem lastTry_fewer (a g) : Fewer a.2 (lastTry a g).2 := by
  unfold lastTry
  dsimp only
  split
  · exact .refl _
  · split
    · exact dropStaged_fewer ..
    · split
      · exact .refl _
      · split <;> exact dropStaged_fewer ..

theorem lastTry_left {a : Bool × Work} {g : Staged} (h : g ∈ (lastTry a g).2.n.pg.staged) : g.retries < a.2.get Reg.PGM_RETRIES := by
  have hd : ∀ st, g ∉ (a.2.dropStaged (· = g) st).n.pg.staged := fun st hg => by simpa using dropStaged_gone _ _ _ hg
  unfold lastTry at h
  dsimp only at h
  split at h
  · next hc => exact absurd h (by simpa using hc)
  · split at h
    · exact absurd h (hd _)
    · split at h
      · assumption
      · split at h <;> exact absurd h (hd _)

theorem retries_of_fewer {w v : Work} (h : Fewer w v) : v.get Reg.PGM_RETRIES = w.get Reg.PGM_RETRIES :=
  (sameAt_of_besides h.regs (by unfold Plain; decide)).get (congrArg (·.1) h.regs)

theorem foldl_lastTry_fewer (l : List Staged) (a : Bool × Work) : Fewer a.2 (l.foldl lastTry a).2 := by
  induction l generalizing a with
  | nil => exact .refl _
  | cons g l ih => exact (lastTry_fewer a g).trans (ih _)

theorem layerEnd_left {w : Work} {l : List Staged} {g : Staged} (hg : g ∈ l) (h : g ∈ (w.layerEnd l).n.pg.staged) : g.retries < w.get Reg.PGM_RETRIES := by
  rw [layerEnd_eq] at h
  generalize ha : (false, w) = a at h
  have hw : w = a.2 := by rw [← ha]
  rw [hw]
  clear ha hw
  induction l generalizing a with
  | nil => cases hg
  | cons x l ih =>
    rw [List.foldl_cons] at h
    by_cases hx : g = x
    · subst hx
      exact lastTry_left ((foldl_lastTry_fewer l _).staged h)
    · rw [← retries_of_fewer (lastTry_fewer a x)]
      exact ih ((List.mem_cons.1 hg).resolve_left hx) _ h

/-! ## The pass over all layers -/

/-- A staged APPEND that has had one retry more. -/
def retried (g : Staged) : Staged := { g with retries := g.retries + 1 }

/-- The pass's view, in which every staged APPEND has had its retry. -/
def begun (w : Work) : Work := { w with n.pg.staged := w.n.pg.staged.map retried }

/-- The turn of one session's layer. -/
def turn (all : List Staged) (w : Work) (k : Nat × Nat) : Work :=
  let mine := all.filter fun g => g.session = k.1 && g.layer = k.2
  match (w.session k.1).bind fun s => s.state.refusal with
  | some st => w.dropStaged (fun g => g.session = k.1 && g.layer = k.2) st
  | none =>
    let n := mine.length
    (Work.layerPass ((n + 1) * (n + 1)) w mine []).layerEnd mine

theorem retryPass_run {s : State} (ha : s.alive = true) : exec .retryPass s = .next (s.close
    (((s.node.pg.staged.map retried).map fun g => (g.session, g.layer)).dedup.foldl (turn (s.node.pg.staged.map retried)) (begun s.view))) := by
  rw [exec_retry, execRetryPass, run_alive _ ha]
  rfl

theorem turn_fewer (all w k) : Fewer w (turn all w k) := by
  unfold turn
  dsimp only
  split
  · exact dropStaged_fewer ..
  · rw [layerEnd_eq]
    exact (layerPass_fewer ..).trans (foldl_lastTry_fewer _ (false, _))

/-- After its turn a layer has only APPENDs in staging that have another retry. -/
theorem turn_left {all : List Staged} {w : Work} {k : Nat × Nat} {g : Staged} (ha : w.n.pg.staged ⊆ all) (hk : (g.session, g.layer) = k)
    (h : g ∈ (turn all w k).n.pg.staged) : g.retries < w.get Reg.PGM_RETRIES := by
  have hkey : (g.session = k.1 && g.layer = k.2) = true := by simp [← hk]
  have hall : g ∈ all := ha ((turn_fewer all w k).staged h)
  unfold turn at h
  dsimp only at h
  split at h
  · exact absurd (dropStaged_gone _ _ _ h) (by simp [hkey])
  · rw [← retries_of_fewer (layerPass_fewer (((all.filter fun g => g.session = k.1 && g.layer = k.2).length + 1) *
      ((all.filter fun g => g.session = k.1 && g.layer = k.2).length + 1)) w (all.filter fun g => g.session = k.1 && g.layer = k.2) [])]
    exact layerEnd_left (List.mem_filter.2 ⟨hall, hkey⟩) h

theorem turns_left {all : List Staged} (ks : List (Nat × Nat)) {w : Work} {g : Staged} (ha : w.n.pg.staged ⊆ all) (hk : (g.session, g.layer) ∈ ks)
    (h : g ∈ (ks.foldl (turn all) w).n.pg.staged) : g.retries < w.get Reg.PGM_RETRIES := by
  induction ks generalizing w with
  | nil => cases hk
  | cons k ks ih =>
    rw [List.foldl_cons] at h
    by_cases hx : (g.session, g.layer) = k
    · exact turn_left ha hx ((foldl_fewer (turn_fewer all) ks _).staged h)
    · rw [← retries_of_fewer (turn_fewer all w k)]
      exact ih (fun _ hy => ha ((turn_fewer all w k).staged hy)) ((List.mem_cons.1 hk).resolve_left hx) h

theorem retryPass_left {s t : State} (ha : s.alive = true) (ht : exec .retryPass s = .next t) {g : Staged} (h : g ∈ t.node.pg.staged) :
    g.retries < rd s Reg.PGM_RETRIES ∧ ∃ g0 ∈ s.node.pg.staged, g = retried g0 := by
  rw [retryPass_run ha] at ht
  cases ht
  have hg : g ∈ s.node.pg.staged.map retried := (foldl_fewer (turn_fewer _) _ _).staged h
  obtain ⟨g0, h0, rfl⟩ := List.mem_map.1 hg
  refine ⟨?_, g0, h0, rfl⟩
  exact turns_left _ (w := begun s.view) (List.Subset.refl _)
    (List.mem_dedup.2 (List.mem_map_of_mem (f := fun g : Staged => (g.session, g.layer)) hg)) h

/-! ## One staged APPEND -/

section
variable {s : State} {g : Staged} {se : Session} (ha : s.alive = true) (hg : s.node.pg.staged = [g]) (hse : s.view.session g.session = some se)
  (ho : se.state = .open)
include ha hg

/-- The view of a pass over one staged APPEND. -/
def onlyOne (w : Work) (g : Staged) : Work := { w with n.pg.staged := [retried g] }

include hse ho in
theorem retryPass_one : exec .retryPass s = .next (s.close ((Work.layerPass 4 (onlyOne s.view g) [retried g] []).layerEnd [retried g])) := by
  have hb : begun s.view = onlyOne s.view g := by
    unfold begun
    rw [show s.view.n.pg.staged = [g] from hg]
    rfl
  rw [retryPass_run ha, hg, hb]
  have ht : turn [retried g] (onlyOne s.view g) (g.session, g.layer) =
      (Work.layerPass 4 (onlyOne s.view g) [retried g] []).layerEnd [retried g] := by
    unfold turn
    have hf : [retried g].filter (fun x => x.session = g.session && x.layer = g.layer) = [retried g] := by simp [retried]
    have hs : ((onlyOne s.view g).session g.session).bind (fun s => s.state.refusal) = none := by
      rw [show (onlyOne s.view g).session g.session = some se from hse, Option.bind_some, ho]
      rfl
    dsimp only
    rw [hf, hs]
    rfl
  exact congrArg (fun w => Host.Outcome.next (s.close w)) ht

end

theorem gapHeld_retried {w : Work} {g : Staged} : (onlyOne w g).gapHeld (retried g) = w.gapHeld g := rfl

/-- A gap that has had its last retry is answered INTERNAL and leaves staging. -/
theorem layerEnd_gap {w : Work} {g : Staged} (h : w.gapHeld g = true) (hr : w.get Reg.PGM_RETRIES ≤ g.retries + 1) :
    (onlyOne w g).layerEnd [retried g] = ends stInternal (onlyOne w g) (retried g) := by
  rw [layerEnd_eq, List.foldl_cons, List.foldl_nil]
  unfold lastTry
  have hd : (onlyOne w g).dropStaged (· = retried g) stInternal = ends stInternal (onlyOne w g) (retried g) := by
    rw [dropStaged_eq]
    have hf : (onlyOne w g).n.pg.staged.filter (fun x => x = retried g) = [retried g] := by simp [onlyOne]
    rw [hf]
    rfl
  have hc : (onlyOne w g).n.pg.staged.contains (retried g) = true := by simp [onlyOne]
  have hlt : ¬ (retried g).retries < (onlyOne w g).get Reg.PGM_RETRIES := Nat.not_lt.2 hr
  dsimp only
  rw [hc, if_neg (by decide), if_neg (by decide), if_neg hlt, gapHeld_retried, if_pos h, hd]

/-- A connection whose partition is known is known. -/
theorem known_conn {w : Work} {src : Src} (h : (w.partOf src).isSome = true) {id msn : Nat} (hs : src = .conn id msn) : (w.connOf id).isSome := by
  subst hs
  unfold Work.partOf at h
  simpa using h

theorem retryPass_gap {s : State} {g : Staged} {se : Session} (ha : s.alive = true) (hg : s.node.pg.staged = [g])
    (hse : s.view.session g.session = some se) (ho : se.state = .open) (hgap : s.view.gapHeld g = true) (hp : (s.view.partOf g.src).isSome = true)
    (hr : rd s Reg.PGM_RETRIES ≤ g.retries + 1) : ∃ t, exec .retryPass s = .next t ∧ t.node.pg.staged = [] ∧ t.node.pg.install = s.node.pg.install ∧
      AnsweredTo t g.src g.tag stInternal 0 0 := by
  have hl : Work.layerPass 4 (onlyOne s.view g) [retried g] [] = onlyOne s.view g := by
    rw [Work.layerPass, if_pos (show (onlyOne s.view g).gapHeld (retried g) = true from hgap)]
    rfl
  obtain ⟨v, hv, he⟩ := ends_eq stInternal (onlyOne s.view g) (retried g)
  refine ⟨_, retryPass_one ha hg hse ho, ?_⟩
  rw [hl, layerEnd_gap hgap hr, he]
  have hpg := (complete_staged v g.src g.tag stInternal 0 0).trans (congrArg (·.1) hv)
  refine ⟨?_, (congrArg Pager.install hpg :), answeredTo_complete v _ _ _ _ _ _ fun id msn hid => ?_⟩
  · exact (congrArg Pager.staged hpg).trans (List.erase_cons_head ..)
  · have htp : v.n.tp = s.node.tp := (congrArg (·.2.1) hv :)
    rw [show v.connOf id = s.view.connOf id from congrArg (fun x : Transport => lookupN id x.conns) htp]
    exact known_conn hp hid

/-- An APPEND whose rows are counted ends with a status of its own. -/
theorem tryStaged_lands {w : Work} {g : Staged} {se : Session} {l : Layer} {q : Placed} (hse : w.session g.session = some se)
    (hl : l = atD se.layers g.layer Layer.empty) (hpos : g.firstPos = w.baseE l) (hrows : g.rows ≠ []) (hr : w.restoring l = false)
    (hs : w.spilledTail g.session se l g.firstPos = none) (hp : w.placeRows g.session g.layer se l g.firstPos g.rows.length = some q)
    (ht : w.landsInTime q (w.periodPs - 60000) = true) : ∃ st, (st = stOK ∨ st = stReserve) ∧
      w.tryStaged g = (true, (out g 0 (Work.countRows q g.session g.layer g.rows none).2).complete g.src g.tag st g.rows.length
        (Work.countRows q g.session g.layer g.rows none).1) := by
  unfold Work.tryStaged
  rw [hse]
  dsimp only
  rw [← hl, ← hpos, Nat.sub_self, Nat.min_zero, Nat.add_zero, List.drop_zero, if_neg (by simpa using hrows), hr, if_neg (by decide), hs]
  dsimp only
  rw [hp]
  dsimp only
  rw [ht, if_neg (by decide)]
  refine ⟨_, ?_, rfl⟩
  exact (ite_eq_or_eq _ stReserve stOK).symm

theorem retryPass_lands {s : State} {g : Staged} {se : Session} {l : Layer} {p : Placed} (ha : s.alive = true) (hg : s.node.pg.staged = [g])
    (hse : s.view.session g.session = some se) (ho : se.state = .open) (hl : l = atD se.layers g.layer Layer.empty) (hli : g.layer < se.layers.length)
    (hpos : g.firstPos = s.view.baseE l) (hrows : g.rows ≠ []) (hpart : (s.view.partOf g.src).isSome = true) (hr : s.view.restoring l = false)
    (hs : s.view.spilledTail g.session se l g.firstPos = none)
    (hp : s.view.placeRows g.session g.layer se l g.firstPos g.rows.length = some p)
    (ht : s.view.landsInTime p (s.view.periodPs - 60000) = true) : ∃ t, exec .retryPass s = .next t ∧ t.node.pg.staged = [] ∧
      ((t.view.session g.session).map (fun x => (atD x.layers g.layer Layer.empty).rows) = some (l.rows + g.rows.length)) ∧
      (∃ st h, (st = stOK ∨ st = stReserve) ∧ AnsweredTo t g.src g.tag st g.rows.length h) := by
  have halike : Alike (onlyOne s.view g) s.view := alike_staged s.view [retried g]
  have hrel := placeRows_alike halike g.session g.layer se l g.firstPos g.rows.length
  rw [hp] at hrel
  generalize hq : (onlyOne s.view g).placeRows g.session g.layer se l g.firstPos g.rows.length = o at hrel
  cases hrel with
  | some hrel =>
  next q =>
  have hse' : (onlyOne s.view g).session (retried g).session = some se := hse
  have ht' : (onlyOne s.view g).landsInTime q ((onlyOne s.view g).periodPs - 60000) = true := by
    rw [landsInTime_alike halike hrel]
    exact ht
  obtain ⟨st, hst, hrun⟩ := tryStaged_lands (g := retried g) hse' hl hpos hrows hr
    ((spilledTail_alike halike ..).trans hs) hq ht'
  replace hrun : (onlyOne s.view g).tryStaged (retried g) = (true, (out (retried g) 0
    (Work.countRows q g.session g.layer g.rows none).2).complete g.src g.tag st g.rows.length (Work.countRows q g.session g.layer g.rows none).1) := hrun
  have hqs : steady q.w = steady (onlyOne s.view g) := steady_placeRows hq
  have hqse : q.w.session g.session = some se := (congrArg (fun x : Pager × _ => lookupN g.session x.1.sessions) hqs).trans hse
  obtain ⟨v, l', k, hv, hl', hc⟩ := countRows_leaves hqse g.layer g.rows none
  have hpos' : (retried g).firstPos = s.view.baseE l := hpos
  have hgap : (onlyOne s.view g).gapHeld (retried g) = false := by
    unfold Work.gapHeld
    rw [hse']
    dsimp only
    have he : (onlyOne s.view g).baseE (atD se.layers (retried g).layer Layer.empty) = (retried g).firstPos := by
      rw [hpos', hl]
      rfl
    rw [he, decide_eq_false (Nat.lt_irrefl _), Bool.false_and]
  have hcq := hc.trans (show queue _ = (v.n.pg.staged, insertN g.session { se with layers := se.layers.set g.layer l', slots := k } v.n.pg.sessions,
    v.n.tp, besides passFlds v) from rfl)
  have hvq := hv.trans (queue_of_steady hqs)
  have hvs : v.n.pg.staged = [retried g] := (congrArg Prod.fst hvq :)
  have hvt : v.n.tp = s.node.tp := (congrArg (·.2.2.1) hvq :)
  generalize (Work.countRows q g.session g.layer g.rows none) = r at hrun hcq
  have hrs : r.2.n.pg.staged = [retried g] := (congrArg Prod.fst hcq).trans hvs
  have hos : (out (retried g) 0 r.2).n.pg.staged = [] := (congrArg (List.erase · (retried g)) hrs).trans (List.erase_cons_head ..)
  refine ⟨_, retryPass_one ha hg hse ho, ?_⟩
  rw [Work.layerPass, hgap, if_neg (by decide), hrun]
  dsimp only
  rw [if_pos rfl]
  generalize hu : (out (retried g) 0 r.2).complete g.src g.tag st g.rows.length r.1 = u
  have hus : u.n.pg = (out (retried g) 0 r.2).n.pg := hu ▸ complete_staged ..
  have hend : (Work.layerPass 3 u ([] ++ []) []).layerEnd [retried g] = u := by
    rw [layerEnd_eq, List.foldl_cons, List.foldl_nil]
    unfold lastTry
    have hc : u.n.pg.staged.contains (retried g) = false := by
      rw [(congrArg Pager.staged hus).trans hos]
      rfl
    exact congrArg Prod.snd (if_pos (show (!u.n.pg.staged.contains (retried g)) = true from by rw [hc]; rfl))
  rw [hend]
  refine ⟨(congrArg Pager.staged hus).trans hos, ?_, st, r.1, hst, ?_⟩
  · have : u.session g.session = some { se with layers := se.layers.set g.layer l', slots := k } :=
      (congrArg (fun x : Pager => lookupN g.session x.sessions) hus).trans
        ((congrArg (fun x : _ × List (Nat × Session) × _ => lookupN g.session x.2.1) hcq).trans (lookupN_insertN ..))
    refine (congrArg (Option.map _) this).trans ?_
    rw [Option.map_some]
    dsimp only
    unfold atD
    rw [List.getElem?_set_self hli, Option.getD_some, hl', ← hl]
  · rw [← hu]
    refine answeredTo_complete _ _ _ _ _ _ _ fun id msn hid => ?_
    have htp : (out (retried g) 0 r.2).n.tp = s.node.tp := (congrArg (·.2.2.1) hcq :).trans hvt
    rw [show (out (retried g) 0 r.2).connOf id = s.view.connOf id from congrArg (fun x : Transport => lookupN id x.conns) htp]
    exact known_conn hpart hid

/-- Settles O14: staged APPENDs only leave staging in a pass, and a layer's pass ends with those whose retries are not spent. -/
theorem retryPassGivesEveryStagedAppendOneRetry : Obligations.RetryPassGivesEveryStagedAppendOneRetry := by
  unfold Obligations.RetryPassGivesEveryStagedAppendOneRetry
  refine ⟨fun s ha => ?_, ?_, ?_⟩
  · exact ⟨_, retryPass_run ha, fun g hg => retryPass_left ha (retryPass_run ha) hg⟩
  · rintro s g se l p ha hg hse ho hl hli ⟨hpos, hrows, -⟩ hpart hr hs hp ht
    exact retryPass_lands ha hg hse ho hl hli hpos hrows hpart hr hs hp ht
  · rintro s g se ha hg hse ho hgap hp hr
    exact retryPass_gap ha hg hse ho hgap hp hr

end Sys2Proof.Retries
end

section
/-!
Moves (R62 to R64): a checked copy, its commit, and the copy of a tail page.
-/

namespace Sys2Proof.Moves

open Sys2Proof.Loads (xpdFlds failCounter_mem)
open Sys2Proof.Frame (except_elim)
open Sys2Proof.Machine Sys2Proof.Safety Sys2Proof.Laws Sys2Proof.Fields Sys2Proof.Assoc Sys2Proof.Usage Sys2Proof.Appends

theorem exec_copyDone (mv : Nat) (r : CopyResult) (s : State) : exec (.moveCopyDone mv r) s = execMoveCopyDone mv r s := by simp only [exec]
theorem exec_commit (mv : Nat) (s : State) : exec (.moveCommit mv) s = execMoveCommit mv s := by simp only [exec]
theorem exec_tailCopy (r : TailRead) (s : State) : exec (.tailPageCopyDone r) s = execTailPageCopyDone r s := by simp only [exec]

/-! ## A copy that is done -/

/-- The view of a copy from one frame to another. -/
def copied (w : Work) (c : Course) (f g : Nat) : Work := w.store (frameAddr g) (w.bytes (frameAddr f) (w.slotsBytes c))

theorem moveCopyDone_run {s : State} {mv : Nat} {m : Move} {c : Course} {f g : Nat} (ha : s.alive = true) (hm : lookupN mv s.node.st.moves = some m)
    (hc : s.view.course m.course = some c) (hck : m.checked = none) (hf : c.loc = Loc.hbm f) (hg : m.dst = Loc.hbm g) (hb : s.view.badPages c = []) :
    exec (.moveCopyDone mv .checked) s = .next (s.close ((copied s.view c f g).modMove mv fun m => { m with checked := some s.node.tk.now })) := by
  rw [exec_copyDone, execMoveCopyDone, run_alive _ ha, show lookupN mv s.view.n.st.moves = some m from hm]
  dsimp only
  rw [hc]
  dsimp only
  have hno : ¬ (m.checked.isSome = true ∨ (s.view.windowOff && (decide (c.loc.tier = 2) || decide (m.dst.tier = 2))) = true) := by
    rw [hck, hf, hg]
    simp [Loc.tier]
  have htier : m.dst.tier = 0 ∧ c.loc.tier = 0 := by
    rw [hf, hg]
    exact ⟨rfl, rfl⟩
  rw [if_neg hno, hf, hg]
  dsimp only
  rw [hb]
  dsimp only
  unfold Work.moveChecked Work.countMoved
  rw [if_pos htier]
  rfl

theorem bytes_view (s : State) (a len : Nat) : s.view.bytes a len = (List.range len).map fun i => byteAt s (a + i) := rfl

theorem moveCopyDone_copies {s : State} {mv : Nat} {m : Move} {c : Course} {f g : Nat} (ha : s.alive = true) (hcan : Canonical s)
    (hm : lookupN mv s.node.st.moves = some m) (hc : s.view.course m.course = some c) (hck : m.checked = none) (hf : c.loc = Loc.hbm f)
    (hg : m.dst = Loc.hbm g) (hb : s.view.badPages c = []) : ∃ t, exec (.moveCopyDone mv .checked) s = .next t ∧
      lookupN mv t.node.st.moves = some { m with checked := some s.node.tk.now } ∧
      (∀ i < s.view.slotsBytes c, byteAt t (frameAddr g + i) = byteAt s (frameAddr f + i)) ∧
      (∀ a, a < frameAddr g ∨ frameAddr g + s.view.slotsBytes c ≤ a → byteAt t a = byteAt s a) := by
  have hbyte : ∀ x, byteAt (s.close ((copied s.view c f g).modMove mv fun m => { m with checked := some s.node.tk.now })) x =
      if frameAddr g ≤ x ∧ x < frameAddr g + s.view.slotsBytes c then (s.view.bytes (frameAddr f) (s.view.slotsBytes c)).getD (x - frameAddr g) 0
      else byteAt s x := fun x => by
    have hl : (s.view.bytes (frameAddr f) (s.view.slotsBytes c)).length = s.view.slotsBytes c := by
      rw [bytes_view, List.length_map, List.length_range]
    have := byteAt_store hcan s.view (frameAddr g) (s.view.bytes (frameAddr f) (s.view.slotsBytes c)) x
    rw [hl] at this
    exact this
  refine ⟨_, moveCopyDone_run ha hm hc hck hf hg hb, ?_, fun i hi => ?_, fun a h => ?_⟩
  · refine (lookupN_modifyN mv (fun m : Move => { m with checked := some s.node.tk.now }) s.node.st.moves).trans ?_
    rw [hm]
    rfl
  · rw [hbyte, if_pos ⟨by omega, by omega⟩, Nat.add_sub_cancel_left, bytes_view, List.getD_eq_getElem?_getD, List.getElem?_map,
      List.getElem?_range hi]
    rfl
  · rw [hbyte, if_neg (by omega)]

/-! ## A move that is committed -/

/-- The moves and the courses of a view. -/
def lying (w : Work) := (w.n.st.moves, w.n.st.courses)

theorem lying_reports {w v : Work} (h : Reports w v) : lying v = lying w := by
  unfold lying
  rw [h.n]

theorem lying_ite {c : Prop} [Decidable c] {a b u : Work} (ha : lying a = lying u) (hb : lying b = lying u) : lying (if c then a else b) = lying u := by
  split
  · exact ha
  · exact hb

section
variable (w : Work)

theorem lying_set (f v i j) : lying (w.set f v i j) = lying w := by
  unfold lying
  rw [set_n]

theorem lying_reserveCheck : lying w.reserveCheck = lying w := by
  have hev : ∀ {u : Work} (c : Prop) [Decidable c] (e : Ev) (n : Nat), lying u = lying w → lying (if c then (u.report e).isr 0x26 n else u) = lying w :=
    fun c _ e n hu => lying_ite ((lying_reports ((reports_report _ e).trans (reports_isr ..))).trans hu) hu
  unfold Work.reserveCheck
  dsimp only
  exact hev _ _ _ (hev _ _ _ rfl)

theorem lying_freeLoc (c l) : lying (w.freeLoc c l) = lying w := by
  unfold Work.freeLoc
  exact lying_ite rfl (lying_reserveCheck _)

theorem lying_retireFrame (f why) : lying (w.retireFrame f why) = lying w := by
  unfold Work.retireFrame
  exact lying_ite rfl ((lying_reports (reports_report ..)).trans ((lying_set ..).trans rfl))

theorem lying_retireGrain (die g why) : lying (w.retireGrain die g why) = lying w := by
  unfold Work.retireGrain
  exact lying_ite rfl ((lying_reports (reports_report ..)).trans rfl)

theorem lying_retireFreed : lying w.retireFreed = lying w := by
  unfold Work.retireFreed
  refine Frame.foldl_keeps lying (fun v k => ?_) _ _
  refine lying_ite (lying_ite (lying_retireFrame ..) rfl) ?_
  exact lying_ite (lying_retireGrain ..) rfl

theorem lying_headers (ci : Nat) (c : Course) (l : List Nat) : lying (l.foldl (fun w i => match c.pages[i]? with
    | some p => if 0 < p.landed then w.writeHeader ci i else w
    | none => w) w) = lying w := by
  refine Frame.foldl_keeps lying (fun v i => ?_) _ _
  split
  · refine lying_ite ?_ rfl
    unfold lying
    rw [writeHeader_n]
  · rfl

end

theorem lying_commitMove (w : Work) (mv : Nat) (m : Move) (c : Course) :
    lying (w.commitMove mv m c) = (eraseN mv w.n.st.moves,
      insertN m.course { c with loc := m.dst, fromReserve := c.fromReserve && decide (m.dst.tier = 0) } w.n.st.courses) := by
  unfold Work.commitMove
  refine (lying_retireFreed _).trans ((lying_ite rfl (lying_freeLoc ..)).trans ?_)
  refine (lying_ite (lying_headers ..) rfl).trans ?_
  by_cases h : c.loc.tier = 0
  · rw [if_pos h]
    rfl
  · rw [if_neg h]
    rfl

theorem moveCommit_moves {s : State} {mv : Nat} {m : Move} {c : Course} (ha : s.alive = true) (hm : lookupN mv s.node.st.moves = some m)
    (hc : s.view.course m.course = some c) (hck : m.checked ≠ none)
    (hp : s.view.sourcePinned m.course (decide (m.dst.tier < c.loc.tier)) = false) : ∃ t, exec (.moveCommit mv) s = .next t ∧
      lookupN mv t.node.st.moves = none ∧ (t.view.course m.course).map (·.loc) = some m.dst ∧ t.node.tk = s.node.tk := by
  have hrun : exec (.moveCommit mv) s = .next (s.close (s.view.commitMove mv m c)) := by
    rw [exec_commit, execMoveCommit, run_alive _ ha, show lookupN mv s.view.n.st.moves = some m from hm]
    dsimp only
    rw [hc]
    dsimp only
    rw [if_pos ⟨by simpa [Option.isSome_iff_ne_none] using hck, by rw [hp]; decide⟩]
  have hl := lying_commitMove s.view mv m c
  refine ⟨_, hrun, ?_, ?_, Frame.onlyTheirOwnCommandsMoveTheTickAndTheKeys.1 _ _ _ hrun rfl rfl⟩
  · exact (congrArg (fun x : _ × _ => lookupN mv x.1) hl).trans (lookupN_eraseN ..)
  · refine (congrArg (fun x : List (Nat × Move) × List (Nat × Course) => (lookupN m.course x.2).map (·.loc)) hl).trans ?_
    rw [lookupN_insertN]
    rfl

/-! ## The copy of a tail page -/

/-- The copies of tail pages and the sessions of a view. -/
def copying (w : Work) := (w.n.st.tailCopies, w.n.pg.sessions)

theorem copying_reports {w v : Work} (h : Reports w v) : copying v = copying w := by
  unfold copying
  rw [h.n]

theorem copying_ite {c : Prop} [Decidable c] {a b u : Work} (ha : copying a = copying u) (hb : copying b = copying u) :
    copying (if c then a else b) = copying u := by
  split
  · exact ha
  · exact hb

section
variable (w : Work)

theorem copying_set (f v i j) : copying (w.set f v i j) = copying w := by
  unfold copying
  rw [set_n]

theorem copying_count (f v i j) : copying (w.count f v i j) = copying w := copying_set ..

theorem copying_change (p c) : copying (w.change p c) = copying w := by
  unfold Work.change
  split
  · exact copying_ite rfl rfl
  · rfl

theorem copying_noteCourse (ci a) : copying (w.noteCourse ci a) = copying w := by
  unfold Work.noteCourse
  split
  · exact copying_change ..
  · rfl

theorem copying_meter (p k x) : copying (w.meter p k x) = copying w := by
  unfold Work.meter
  exact copying_ite rfl rfl

theorem copying_rdFrac (k) : copying { w with n.hq.rdFrac := k } = copying w := rfl

theorem copying_emit (o) : copying (w.emit o) = copying w := rfl

theorem copying_hostFetch (fn p a len r) : copying (w.hostFetch fn p a len r) = copying w := by
  unfold Work.hostFetch Work.pcieIn
  dsimp only
  split
  · exact (copying_meter ..).trans ((copying_rdFrac ..).trans ((copying_count ..).trans (copying_emit ..)))
  · exact (copying_rdFrac ..).trans ((copying_count ..).trans (copying_emit ..))

theorem copying_layerLost (die layer) : copying (w.layerLost die layer) = copying w := by
  unfold Work.layerLost
  exact copying_ite rfl ((copying_reports (reports_report ..)).trans rfl)

theorem copying_streamCheck (die) : copying (w.streamCheck die) = copying w := by
  unfold Work.streamCheck
  refine copying_ite rfl (Frame.foldl_keeps copying (fun v l => ?_) _ _)
  exact copying_ite (copying_layerLost ..) rfl

theorem copying_extendFree (slot) : copying (w.extendFree slot) = copying w := rfl

theorem copying_retireExpander (inst) : copying (w.retireExpander inst) = copying w := by
  unfold Work.retireExpander
  refine copying_ite rfl ((copying_streamCheck ..).trans (copying_ite ?_ ?_))
  · refine (copying_extendFree ..).trans ((copying_reports (reports_setSpareInUse ..)).trans ((copying_reports (reports_report ..)).trans ?_))
    exact (copying_set ..).trans ((copying_set ..).trans (Eq.trans (b := copying ((w.set Reg.XPD_ACTIVE 0 0 inst).set Reg.XPD_FAULTED 1 0 inst)) rfl
      ((copying_set ..).trans (copying_set ..))))
  · exact (copying_set ..).trans (copying_set ..)

end

/-- An answer with a view that a measure does not tell from another. -/
def Leaves {γ α : Type} (m : Work → γ) (w : Work) (p : α × Work) : Prop := m p.2 = m w

theorem leaves_mk {γ α : Type} {m : Work → γ} {w v : Work} (a : α) (h : m v = m w) : Leaves m w (a, v) := h

section
variable {γ : Type} {m : Work → γ} (hfresh : ∀ w k, m { w with n.fresh := k } = m w)
  (hcount : ∀ w, ∀ f ∈ xpdFlds, ∀ v i j, m (w.count f v i j) = m w) (hreports : ∀ w v, Reports w v → m v = m w)
  (hmis : ∀ w l, m { w with n.cp.mismatches := l } = m w) (hret : ∀ w inst, m (w.retireExpander inst) = m w) (w : Work)
include hfresh hcount hreports hmis hret

/-- What counting, reports and the retiring of an expander leave, a decode leaves. -/
theorem decodeTry_leaves (inst : Nat) (b : Bytes) (window : Nat) (part : Option Nat) (addr : Nat) (upset : Option Nat) :
    Leaves m w (w.decodeTry inst b window part addr upset) := by
  have hite : ∀ {c : Prop} [Decidable c] {a b : Work}, m a = m w → m b = m w → m (if c then a else b) = m w := fun ha hb => by
    split
    · exact ha
    · exact hb
  unfold Work.decodeTry
  extract_lets real stall v first
  have hv : m v = m w := by
    simp only [v, stall]
    rw [hcount _ _ (by decide), hcount _ _ (by decide)]
    exact hfresh w _
  obtain ⟨x, hx⟩ : ∃ x, x = v := ⟨v, rfl⟩
  obtain ⟨f, hf⟩ : ∃ f, f = first := ⟨first, rfl⟩
  obtain ⟨r, hr⟩ : ∃ r, r = real := ⟨real, rfl⟩
  rw [← hf, ← hr, ← hx]
  rw [← hx] at hv
  clear hx hf hr first real v stall
  refine except_elim (P := Leaves m w) (fun img => leaves_mk _ hv) (fun k => ?_)
  extract_lets +onlyGivenNames u retry y
  have hy : m y = m w := by
    simp only [y]
    exact hite (by rw [hcount _ _ (by decide), hcount _ _ (failCounter_mem k), hv]) (by rw [hcount _ _ (failCounter_mem k), hv])
  obtain ⟨b, hb⟩ : ∃ r, r = retry := ⟨retry, rfl⟩
  obtain ⟨z, hz⟩ : ∃ r, r = y := ⟨y, rfl⟩
  rw [← hb, ← hz]
  rw [← hz] at hy
  clear hz hb
  cases b with
  | false => exact leaves_mk _ hy
  | true =>
    cases r with
    | error j => exact leaves_mk _ ((hcount _ _ (failCounter_mem j) ..).trans hy)
    | ok img =>
      have h1 : ∀ e l, m { (z.count Reg.XPD_MISMATCH 1 0 inst).report e with n.cp.mismatches := l } = m w := fun e l =>
        (hmis _ _).trans ((hreports _ _ (reports_report _ e)).trans ((hcount _ _ (by decide) ..).trans hy))
      exact leaves_mk _ (hite ((hret _ _).trans (h1 _ _)) (h1 _ _))

theorem decodeTry_keeps (inst : Nat) (b : Bytes) (window : Nat) (part : Option Nat) (addr : Nat) (upset : Option Nat) :
    m (w.decodeTry inst b window part addr upset).2 = m w := decodeTry_leaves hfresh hcount hreports hmis hret w ..

theorem decodeOn_keeps (inst : Nat) (b : Bytes) (window : Nat) (part : Option Nat) (addr : Nat) (upset : Option Nat) :
    m (w.decodeOn inst b window part addr upset).2 = m w := by
  have h := decodeTry_keeps hfresh hcount hreports hmis hret w inst b window part addr upset
  unfold Work.decodeOn
  dsimp only
  generalize w.decodeTry inst b window part addr upset = r at *
  obtain ⟨r1, r2⟩ := r
  cases r1 with
  | ok img => exact h
  | error k => exact (hreports _ _ (reports_capture ..)).trans ((hcount _ _ (by decide) ..).trans h)

theorem decodeStored_keeps (hfetch : ∀ w fn p a len r, m (w.hostFetch fn p a len r) = m w) (inst : Nat) (c : Course) (i : Nat) (b : Blk)
    (upset : Option Nat) : m (w.decodeStored inst c i b upset).2 = m w := by
  have h := decodeOn_keeps hfresh hcount hreports hmis hret w inst (w.blkBytes c.loc b) (c.imageLen i) (some c.part) (c.loc.addrOf b) upset
  unfold Work.decodeStored
  dsimp only
  generalize w.decodeOn inst (w.blkBytes c.loc b) (c.imageLen i) (some c.part) (c.loc.addrOf b) upset = r at *
  split
  · exact h
  · split
    · exact leaves_mk (m := m) _ ((hfetch ..).trans h)
    · refine leaves_mk (m := m) _ ((decodeTry_keeps hfresh hcount hreports hmis hret ..).trans ((hfetch ..).trans ((hfetch ..).trans h)))

theorem readPage_keeps (hfetch : ∀ w fn p a len r, m (w.hostFetch fn p a len r) = m w) (c : Course) (p : Nat) (upset : Option Nat) :
    m (w.readPage c p upset).2 = m w := by
  unfold Work.readPage
  dsimp only
  split
  · rfl
  · exact decodeStored_keeps hfresh hcount hreports hmis hret _ hfetch ..

end

theorem copying_readPage (w : Work) (c p upset) : copying (w.readPage c p upset).2 = copying w :=
  readPage_keeps (fun _ _ => rfl) (fun w f _ v i j => copying_count w f v i j) (fun _ _ h => copying_reports h) (fun _ _ => rfl) copying_retireExpander w
    copying_hostFetch c p upset

section
variable (w : Work)

theorem copying_dropRun (job) : copying (w.dropRun job) = copying w := by
  unfold Work.dropRun
  dsimp only
  exact copying_ite ((copying_count ..).trans rfl) rfl

theorem copying_reserveCheck : copying w.reserveCheck = copying w := by
  have hev : ∀ {u : Work} (c : Prop) [Decidable c] (e : Ev) (n : Nat), copying u = copying w →
      copying (if c then (u.report e).isr 0x26 n else u) = copying w :=
    fun c _ e n hu => copying_ite ((copying_reports ((reports_report _ e).trans (reports_isr ..))).trans hu) hu
  unfold Work.reserveCheck
  dsimp only
  exact hev _ _ _ (hev _ _ _ ((copying_set ..).trans ((copying_set ..).trans (copying_set ..))))

theorem copying_freeLoc (c l) : copying (w.freeLoc c l) = copying w := by
  unfold Work.freeLoc
  exact copying_ite rfl (copying_reserveCheck _)

theorem copying_freeCourse (ci) : copying (w.freeCourse ci) = copying w := by
  unfold Work.freeCourse
  split
  · rfl
  · next c _ =>
    have h : copying (match w.moveOf ci with | some (mi, _) => w.dropRun (.spill mi) | none => w) = copying w := by
      split
      · exact copying_dropRun ..
      · rfl
    refine (copying_freeLoc ..).trans (copying_ite ?_ ((copying_change ..).trans ?_))
    · exact h
    · exact h

theorem copying_dropRef (ci) : copying (w.dropRef ci) = copying w := by
  unfold Work.dropRef
  split
  · rfl
  · exact copying_ite (copying_ite rfl ((copying_freeCourse ..).trans rfl)) rfl

end

/-! ### What the loss of pages leaves -/

/-- The copies of tail pages of a view. -/
def tails (w : Work) := w.n.st.tailCopies

theorem tails_of_copying {w v : Work} (h : copying v = copying w) : tails v = tails w := congrArg Prod.fst h

theorem tails_ite {c : Prop} [Decidable c] {a b u : Work} (ha : tails a = tails u) (hb : tails b = tails u) : tails (if c then a else b) = tails u := by
  split
  · exact ha
  · exact hb

section
variable (w : Work)

theorem tails_report (e) : tails (w.report e) = tails w := tails_of_copying (copying_reports (reports_report ..))

theorem tails_abandonMove (mi) : tails (w.abandonMove mi) = tails w := (tails_of_copying (copying_dropRun ..)).trans rfl

theorem tails_noteTree (i a) : tails (w.noteTree i a) = tails w := by
  unfold Work.noteTree
  split
  · rfl
  · exact tails_of_copying (copying_change ..)

theorem tails_loseTree (p l) : tails (w.loseTree p l) = tails w := by
  unfold Work.loseTree
  refine Frame.foldl_keeps tails (fun v e => ?_) _ _
  exact tails_ite ((tails_report ..).trans (tails_noteTree ..)) rfl

theorem tails_loseSessions (ci l) : tails (w.loseSessions ci l) = tails w := by
  unfold Work.loseSessions
  exact (Frame.foldl_keeps tails (fun v e => tails_of_copying (copying_change ..)) _ _).trans rfl

theorem tails_losePages (ci l) : tails (w.losePages ci l) = tails w := by
  unfold Work.losePages
  split
  · rfl
  · dsimp only
    have hm : ∀ (v : Work) (o : Option (Nat × Move)), tails v = tails w → tails (match o with | some m => v.abandonMove m.1 | none => v) = tails w := by
      rintro v (_ | m) h
      · exact h
      · exact (tails_abandonMove ..).trans h
    refine tails_ite (hm _ _ rfl) (tails_ite (tails_ite ?_ ?_) ?_)
    · exact (tails_loseTree ..).trans (hm _ _ rfl)
    · exact (tails_loseTree ..).trans (hm _ _ rfl)
    · refine (tails_loseSessions ..).trans (tails_ite ((tails_report ..).trans ?_) ?_)
      · exact (tails_loseTree ..).trans (hm _ _ rfl)
      · exact (tails_loseTree ..).trans (hm _ _ rfl)

theorem tails_dropMove (ci c) : tails (w.dropMove ci c) = tails w := by
  unfold Work.dropMove
  split
  · exact tails_abandonMove ..
  · rfl

theorem tails_blockUe (ci blk) : tails (w.blockUe ci blk) = tails w := by
  unfold Work.blockUe
  split
  · rfl
  · exact (tails_losePages ..).trans (tails_dropMove ..)

theorem tails_retireGrain (die g why) : tails (w.retireGrain die g why) = tails w := by
  unfold Work.retireGrain
  exact tails_ite rfl ((tails_report ..).trans rfl)

theorem tails_retireBlks (bs) : tails (w.retireBlks bs) = tails w := by
  unfold Work.retireBlks
  exact Frame.foldl_keeps tails (fun v b => Frame.foldl_keeps tails (fun u i => tails_retireGrain ..) _ _) _ _

theorem tails_blockDamaged (ci blk) : tails (w.blockDamaged ci blk) = tails w := by
  unfold Work.blockDamaged
  split
  · exact (tails_blockUe ..).trans (tails_retireBlks ..)
  · exact tails_blockUe ..

end

/-! ### The page that was read -/

/-- The page of a copy. -/
def copiedPage (v : Work) (x : TailCopy) (d : Course) (p : Page) : Page :=
  { p with handle := BitVec.ofNat 32 d.base, flags := if x.fromReserve then 4 else 0, landed := p.counted
           installTick := BitVec.ofNat 32 v.now32, blockId := 0 }

/-- The runs of a layer cut before the page that was copied. -/
def cutRuns (x : TailCopy) (l : Layer) : List Run :=
  l.runs.map fun r : Run => if r.course = x.srcCourse then { r with count := min r.count (x.srcPage - r.first) } else r

/-- The run of the copy. -/
def copyRun (x : TailCopy) : Run := { course := x.dst, first := 0, count := 1 }

/-- The session with its layer continued in the copy. -/
def continued (x : TailCopy) (se : Session) : Session :=
  let l := atD se.layers x.layer { runs := [], aim := none, rows := 0, jumpTo := none, lastAppend := 0 }
  { se with layers := se.layers.set x.layer { l with runs := (cutRuns x l).filter (fun r => 0 < r.count) ++ [copyRun x] }, slots := se.slots + 1 }

/-- What a page that was read good does. -/
def tailLands (w : Work) (x : TailCopy) (c d : Course) (se : Session) (p : Page) (ext : Bytes) : Work :=
  let rows := sliceAt ext 64 (p.counted * p.rowBytes)
  let w := w.setCourse x.dst { d with pages := [copiedPage w x d p] }
  let a := match d.loc with | .hbm f => frameAddr f | _ => 0
  let w := (w.store (a + 64) rows).writeHeader x.dst 0
  let l := atD se.layers x.layer { runs := [], aim := none, rows := 0, jumpTo := none, lastAppend := 0 }
  let runs := cutRuns x l
  let cut := (l.runs.zip runs).filter fun e => e.1 != e.2
  let gone := runs.any fun r => r.course = x.srcCourse && r.count = 0
  let w := w.setSession x.session (continued x se)
  let w := ((w.noteCourse x.dst 1).notePage x.dst 0).noteRows x.dst 0 0 (extentRows ext p.rowBytes p.counted)
  let w := cut.foldl (fun w e => w.metaChange c.part (runRec x.layer e.2 se.cid)) (w.metaChange c.part (runRec x.layer (copyRun x) se.cid))
  if gone then w.dropRef x.srcCourse else w

/-- What is done with the page that was read. -/
def tailDone (x : TailCopy) (c d : Course) (se : Session) (read : Option Bytes × Work) : Work :=
  let w := read.2
  match c.pages[x.srcPage]?, read.1 with
  | some p, some ext =>
    if !pageCrcOk ext then
      (w.capture { code := 0x4007, page := 0x25, part := some c.part, arg := w.pageWhere c x.srcPage
                   detail := crcFails ext }).freeCourse x.dst |>.losePages x.srcCourse [x.srcPage]
    else tailLands w x c d se p ext
  | _, _ => (w.freeCourse x.dst).blockDamaged x.srcCourse (c.blockOf x.srcPage)

/-- The end of a copy. -/
def tailEnds (w : Work) (x : TailCopy) (upset : Option Nat) : Work :=
  match w.course x.srcCourse, w.course x.dst, w.session x.session with
  | some c, some d, some se => tailDone x c d se (w.readPage c x.srcPage upset)
  | _, some _, _ => w.freeCourse x.dst
  | _, _, _ => w

/-- The view without the copy. -/
def unlisted (w : Work) (copy : Nat) : Work := { w with n.st.tailCopies := eraseN copy w.n.st.tailCopies }

theorem tailCopy_run {s : State} {copy : Nat} {upset : Option Nat} {x : TailCopy} (ha : s.alive = true)
    (hx : lookupN copy s.node.st.tailCopies = some x) (hw : ∀ c ∈ s.view.course x.srcCourse, c.loc.tier = 2 → s.view.windowOff = false) :
    exec (.tailPageCopyDone ⟨copy, upset⟩) s = .next (s.close (tailEnds (unlisted s.view copy) x upset)) := by
  have hno : ¬ (s.view.windowOff && (s.view.course x.srcCourse).any fun c => decide (c.loc.tier = 2)) = true := by
    rw [Bool.and_eq_true]
    rintro ⟨h1, h2⟩
    cases hc : s.view.course x.srcCourse with
    | none => rw [hc] at h2; cases h2
    | some c =>
      rw [hc] at h2
      rw [hw c hc (by simpa using h2)] at h1
      cases h1
  rw [exec_tailCopy, execTailPageCopyDone, run_alive _ ha]
  dsimp only
  rw [show lookupN copy s.view.n.st.tailCopies = some x from hx]
  dsimp only
  rw [if_neg hno]
  rfl

theorem copying_tailLands (w : Work) (x : TailCopy) (c d : Course) (se : Session) (p : Page) (ext : Bytes) :
    copying (tailLands w x c d se p ext) = (w.n.st.tailCopies, insertN x.session (continued x se) w.n.pg.sessions) := by
  unfold tailLands
  dsimp only
  have hpaged : ∀ {u v : Work}, paged u = paged v → copying u = copying v := fun h =>
    congrArg (fun y : Pager × Store => (y.2.tailCopies, y.1.sessions)) h
  generalize hv : (((w.setCourse x.dst { d with pages := [copiedPage w x d p] }).store _ _).writeHeader x.dst 0) = v
  have hvn : copying v = copying w := by
    rw [← hv]
    unfold copying
    rw [writeHeader_n]
    rfl
  have hs : copying (v.setSession x.session (continued x se)) = (w.n.st.tailCopies, insertN x.session (continued x se) w.n.pg.sessions) :=
    congrArg (fun y : _ × _ => (y.1, insertN x.session (continued x se) y.2)) hvn
  have hnotes : ∀ l : List (Run × Run), copying (l.foldl (fun w e => w.metaChange c.part (runRec x.layer e.2 se.cid))
      (((((v.setSession x.session (continued x se)).noteCourse x.dst 1).notePage x.dst 0).noteRows x.dst 0 0 (extentRows ext p.rowBytes p.counted)).metaChange
        c.part (runRec x.layer (copyRun x) se.cid))) = _ := fun l =>
    (Frame.foldl_keeps copying (fun u e => copying_change ..) _ _).trans ((copying_change ..).trans
      ((hpaged (paged_noteRows ..)).trans ((hpaged (paged_notePage ..)).trans ((copying_noteCourse ..).trans hs))))
  split
  · exact (copying_dropRef ..).trans (hnotes _)
  · exact hnotes _

theorem tails_tailDone {w : Work} {x : TailCopy} {c d : Course} {se : Session} {r : Option Bytes × Work} (h : copying r.2 = copying w) :
    tails (tailDone x c d se r) = tails w := by
  unfold tailDone
  dsimp only
  split
  · split
    · refine (tails_losePages ..).trans ((tails_of_copying (copying_freeCourse ..)).trans ?_)
      exact (tails_of_copying (copying_reports (reports_capture ..))).trans (tails_of_copying h)
    · exact (congrArg Prod.fst (copying_tailLands ..)).trans (tails_of_copying h)
  · exact (tails_blockDamaged ..).trans ((tails_of_copying (copying_freeCourse ..)).trans (tails_of_copying h))

theorem tails_tailEnds (w : Work) (x : TailCopy) (upset : Option Nat) : tails (tailEnds w x upset) = tails w := by
  unfold tailEnds
  split
  · exact tails_tailDone (copying_readPage ..)
  · exact tails_of_copying (copying_freeCourse ..)
  · rfl

/-- A page that is read good continues its layer in the copy. -/
theorem tailEnds_session {w : Work} {x : TailCopy} {upset : Option Nat} {c d : Course} {se : Session} {p : Page} {ext : Bytes}
    (hc : w.course x.srcCourse = some c) (hd : w.course x.dst = some d) (hse : w.session x.session = some se) (hl : x.layer < se.layers.length)
    (hp : c.pages[x.srcPage]? = some p) (hr : (w.readPage c x.srcPage upset).1 = some ext) (hok : pageCrcOk ext = true) :
    ((tailEnds w x upset).session x.session).map (fun y => (atD y.layers x.layer Layer.empty).runs.getLast?) =
      some (some { course := x.dst, first := 0, count := 1 }) := by
  have he : tailEnds w x upset = tailLands (w.readPage c x.srcPage upset).2 x c d se p ext := by
    unfold tailEnds
    rw [hc, hd, hse]
    dsimp only
    unfold tailDone
    rw [hp, hr]
    dsimp only
    rw [hok, if_neg (by decide)]
  have hs : (tailEnds w x upset).session x.session = some (continued x se) := by
    rw [he]
    exact (congrArg (fun y : _ × _ => lookupN x.session y.2) (copying_tailLands ..)).trans (lookupN_insertN ..)
  rw [hs, Option.map_some]
  unfold continued atD
  rw [List.getElem?_set_self hl, Option.getD_some, List.getLast?_concat]
  rfl

/-- Settles O16: a copy is one store, a commit moves one course, and a tail page's copy is its layer's last run. -/
theorem movesCopyThenCommit : Obligations.MovesCopyThenCommit := by
  unfold Obligations.MovesCopyThenCommit
  refine ⟨?_, ?_, ?_⟩
  · rintro s mv m c f g ha hcan hm hc hck hf hg hb
    exact moveCopyDone_copies ha hcan hm hc hck hf hg hb
  · rintro s mv m c ha hm hc hck hp
    exact moveCommit_moves ha hm hc hck hp
  · rintro s copy upset x ha hx hw
    refine ⟨_, tailCopy_run ha hx hw, ?_, ?_⟩
    · exact (congrArg (lookupN copy) (tails_tailEnds (unlisted s.view copy) x upset)).trans (lookupN_eraseN ..)
    · rintro c d se p ext hc hd hse hl hp hr hok
      exact tailEnds_session (w := unlisted s.view copy) hc hd hse hl hp hr hok

end Sys2Proof.Moves
end

section
/-!
Statements that fail, each by a small state that the model runs to the contrary.
-/

namespace Sys2Proof.Refuted

open Sys2Proof.Machine Sys2Proof.Safety Sys2Proof.Laws Sys2Proof.Tests Sys2Proof.Orders

/-- A value of the state that a command ends in. -/
def after {α : Type} (i : Instr) (s : State) (f : State → α) (d : α) : α :=
  match exec i s with
  | .next t => f t
  | _ => d

theorem after_eq {α : Type} {i : Instr} {s t : State} (h : exec i s = .next t) (f : State → α) (d : α) : after i s f d = f t := by
  unfold after
  rw [h]

/-! ## MSI-X (R330) -/

/-- Partition 0 has no virtual function, and its number is that of the physical function, whose entries are not held masked. -/
theorem msixUnmask_vf0 : after (.msixUnmask (.vf 0) 1) up (fun t => t.view.msixMasked (fnNum (.vf 0)) 1) true = false := by decide

/-- Refutes O52: entry 1 of the function that the model numbers as partition 0's is unmasked. -/
theorem not_theCommonPartOfEveryPage : ¬ Obligations.TheCommonPartOfEveryPage := by
  unfold Obligations.TheCommonPartOfEveryPage
  rintro ⟨-, -, -, -, -, -, -, -, -, h⟩
  obtain ⟨t, ht, hm, -⟩ := h up 0 1 (by decide) (by decide) (by decide)
  have := msixUnmask_vf0
  rw [after_eq ht, hm] at this
  cases this

/-! ## The management key's words (R468) -/

/-- A word of the management key that holds more than its 32 bits. -/
def wideWord : State := reg up Reg.MG_MK0 (2 ^ 32)

/-- A write of it with no byte enabled. -/
def noBytes : RegWr := ⟨.pf, 0x6180, 0, 0⟩

/-- Refutes O44: a write with no byte enabled leaves a word as it stands, where the merged value is cut to 32 bits. -/
theorem not_statusKeysAndIdentityOrders : ¬ Obligations.StatusKeysAndIdentityOrders := by
  unfold Obligations.StatusKeysAndIdentityOrders
  rintro ⟨-, -, -, -, h, -⟩
  obtain ⟨t, ht, -, -, hw, -⟩ := h wideWord noBytes 0 0 0x180 (by decide) (by decide) (by decide) (by decide)
  have hm := hw Reg.MG_MK0 (by decide) (by decide)
  have ha : after (.mkWrite noBytes) wideWord (fun t => rd t Reg.MG_MK0) 0 ≠ wideWord.view.merged noBytes 0 0 Reg.MG_MK0 := by decide
  rw [after_eq ht] at ha
  exact ha hm

/-! ## DISCARD of a copied slice (R405) -/

/-- A node that holds, as understudy, the copy of a slice with one course. -/
def copyHeld : State :=
  withSt (withMi (managed full)
    { (managed full).node.mi with inStreams := [{ anInStream with
        slices := [{ aSlice with runs := [(0, { course := 0, first := 0, count := 1 })] }]
        courses := [{ index := 0, k := 0, layer := 0, shared := false, seeded := true, course := some 2, taken := false, freed := false, early := [] }] }] })
    { full.node.st with courses := [(2, { theCourse with session := none, copy := true })] }

/-- The body that names the slice. -/
def sliceNamed : Bytes := [1] ++ leBytes 8 77

/-- What DISCARD does, on the node as it hears the order. -/
def discardHeard (w : Work) (r : MgReq) : Work :=
  w.sliceOrder r fun w p cid =>
    match w.n.pg.sessions.find? fun e => e.2.part = p && e.2.cid = cid with
    | some e => some (((w.endHomeRun e.1).dropHoldings e.1).freeSession e.1)
    | none =>
      let has := fun s : InStream => s.part = p && (s.slices ++ s.oldSlices).any fun y => y.cid = cid
      if !w.n.mi.inStreams.any has then none
      else
        some ((w.n.mi.inStreams.filter has).foldl (fun w s => w.putIn (s.discard cid)) w)

theorem exec_discardOrder (f : Frame) (s : State) : exec (.discardOrder f) s = run s fun w => w.mgOrder f 0x17 Reg.MG_C discardHeard := rfl

/-- The copy's course is freed, and its handle is quiet from now on (R104). -/
theorem discard_quiets :
    (discardHeard (orderWork copyHeld (asked copyHeld 0x17 0 0 sliceNamed)) (asked copyHeld 0x17 0 0 sliceNamed)).n.pg ≠ copyHeld.node.pg := by
  decide

/-- Refutes O46: the courses of a discarded copy are freed, and the handles of freed courses wait in the pager. -/
theorem not_takeoverOrphanAndResetOrders : ¬ Obligations.TakeoverOrphanAndResetOrders := by
  unfold Obligations.TakeoverOrphanAndResetOrders
  rintro ⟨-, -, -, -, -, -, h, -⟩
  have hreq : requestOf copyHeld (asks copyHeld 0x17 0 0 sliceNamed) 0x17 Reg.MG_C = some (asked copyHeld 0x17 0 0 sliceNamed) :=
    request_read rfl (by decide)
  obtain ⟨t, ht, -, -, hpg⟩ := h copyHeld _ _ 1 77 (by decide) (by decide) hreq (by decide) (by decide) (by decide)
  rw [exec_discardOrder, run_order (by decide) hreq (by decide)] at ht
  cases ht
  exact discard_quiets hpg

/-! ## A CAS that acts behind a FORK (R105, R299) -/

/-- A CAS of 32 bytes that waits whole: it compares with the row about to be copied, and swaps it for zeros. -/
def swapping : InMsg :=
  { conn := 3, msn := 6, op := 0xA, parts := [(0, [17] ++ List.replicate 63 0)], count := some 1, target := 0, cmpr := false
    complete := true, behindFence := false, tick := 0, acted := false }

/-- The region that it names is the place of the copy's first row. -/
def copyRegion : Region :=
  { part := 1, base := 9 * 4096 + 64, len := 32, perm := 4, gen := 0, ksBank := 0, ksIdx := 0, draining := none }

/-- The fork's source: a page of one row of one byte. -/
def forkSource : Course := { theCourse with pages := [{ blankPage 1 with counted := 1, landed := 1, rowBytes := 1 }] }

/-- The one copy that the fork makes. -/
def forkOne : ForkCopy := { child := 1, srcCourse := 2, srcPage := 0, rows := 1, dst := 4 }

/-- A forming child whose FORK came on the connection of that CAS; the source's header is zero but for its CRC, its row is one byte. -/
def forking : State :=
  let s := reg (withTp full { full.node.tp with
    conns := [(3, theConn)], inMsgs := [swapping], regions := [(2 ^ 24, copyRegion)] }) Reg.PP_STATE 1 1
  let s := withPg s { s.node.pg with
    sessions := [(1, { theSession with state := .forming, waiting := some (.conn 3 5, 0) })], forkCopies := [forkOne] }
  let s := withSt s { s.node.st with courses := [(2, forkSource), (4, { theCourse with loc := .hbm 9 })] }
  { s with mem := Mem.putAll [] (7 * 4096 + 44) ([92, 61, 43, 104] ++ List.replicate 16 0 ++ [17]) }

/-- The page as the copy reads it. -/
def forkPage : Bytes := ((forking.view.readPage forkSource 0 none).1).getD []

theorem forkPage_crc : pageCrcOk forkPage = true := by decide +kernel

theorem forkPage_row : forkPage[64]? = some 17 := by decide

/-- The row that landed is swapped away. -/
theorem fork_row_swapped : after (.forkCopiesLanded 1) forking (fun t => byteAt t (frameAddr 9 + 64 + 0)) 0 = 0 := by decide +kernel

/-- Refutes O18: the FORK's completion lets a remote access act that waited, and it stores where the copy landed. -/
theorem not_sessionsOpenForkAndClose : ¬ Obligations.SessionsOpenForkAndClose := by
  unfold Obligations.SessionsOpenForkAndClose
  rintro ⟨-, -, h, -⟩
  obtain ⟨t, ht, -, -, -, hrow⟩ := h forking 1 _ (by decide) rfl (by decide) (by decide) (by decide) (by decide)
  have hb := hrow forkOne forkSource { theCourse with loc := .hbm 9 } _ forkPage 9 0 (by decide) (by decide) (by decide) (by decide) rfl (by decide)
    (by decide) forkPage_crc (by decide) (by decide) (by decide) (by decide)
  rw [forkPage_row, ← after_eq ht (fun t => byteAt t (frameAddr 9 + 64 + 0)) 0, fork_row_swapped] at hb
  exact absurd hb (by decide)

/-! ## An ACK on a connection listed twice (R283) -/

/-- A notice on a connection whose list names it twice: nothing is outstanding on the first, a packet is on the second. -/
def twiceListed : State :=
  let s := setConn (awaiting (aOut .notice)) theConn
  withTp s { s.node.tp with conns := [(3, theConn), (3, { theConn with unacked := [aSent 2] })] }

/-- An acknowledgement of the notice with its completion record. -/
def noticeAck : Bytes := ackBytes 3 [recBytes 4 0]

theorem ack_empties_both :
    after (.ackOp 3 noticeAck) twiceListed (fun t => t.node.tp.conns.all (·.2.unacked.isEmpty)) false = true := by decide

theorem twiceListed_outstanding : twiceListed.node.tp.conns.all (·.2.unacked.isEmpty) = false := by decide

/-- Refutes O34: an acknowledgement sets the outstanding packets of both entries to those of the first. -/
theorem not_acknowledgementsEndPacketsAndMessages : ¬ Obligations.AcknowledgementsEndPacketsAndMessages := by
  unfold Obligations.AcknowledgementsEndPacketsAndMessages
  rintro ⟨-, h, -⟩
  obtain ⟨t, ht, -, hconns, -⟩ := h twiceListed 3 7 noticeAck theConn (aOut .notice) (by decide) (by decide) (by decide)
    ⟨by decide, by decide⟩ (by decide) (by decide) (.inl rfl)
  have hall := ack_empties_both
  rw [after_eq ht, hconns, twiceListed_outstanding] at hall
  exact absurd hall (by decide)

/-! ## A NOTICE of no records (R326) -/

/-- A whole message may act, and the count of notices lost stands above what its field holds. -/
def noticeAbove : State := reg connected Reg.QUE_NOTICE_LOST (2 ^ 64)

/-- A NOTICE of no records. -/
def noNotices : Bytes := [0, 0, 0, 0]

theorem noNotices_counts_nothing : after (.noticeOp 3 5 noNotices) noticeAbove (fun t => rd t Reg.QUE_NOTICE_LOST) 0 = 2 ^ 64 := by decide

/-- Refutes O36: a NOTICE of no records leaves the count as it is, and a count above its field's largest value stays there. -/
theorem not_messagesActAtTheirReceiver : ¬ Obligations.MessagesActAtTheirReceiver := by
  unfold Obligations.MessagesActAtTheirReceiver
  rintro ⟨-, -, -, h, -⟩
  obtain ⟨t, ht, hcount, -⟩ := h noticeAbove 3 5 noNotices theConn (by decide) ⟨by decide, by decide⟩ (by decide) (by decide) (by decide)
    (by decide) (by decide)
  have hstays := noNotices_counts_nothing
  rw [after_eq ht, hcount] at hstays
  exact absurd hstays (by decide)

/-! ## An entry fetched for a queue listed twice (R323, R324) -/

/-- The queue that fetches, and behind it another record of the same queue, whose first entry failed its checks at fetch. -/
def fetchingTwice : State :=
  let q := { emptyQueue .enabled with tail := 2 }
  withHq fetching { fetching.node.hq with queues := [(5, q), (5, { q with entries := [{ hent 9 0 0 with fail := 1, started := false }] })] }

/-- The entry fetched has ended under the index of the failed one. -/
theorem fetched_ended : after (.sqEntryFetched 5 (some nopEntry)) fetchingTwice (fun t => (t.view.queueOf 5).entries) [hent 9 0 0] = [] := by decide

/-- Refutes O39: the failed entry of the second record ends the entry fetched, which has the same index. -/
theorem not_hostEntriesAreFetchedAndAct : ¬ Obligations.HostEntriesAreFetchedAndAct := by
  unfold Obligations.HostEntriesAreFetchedAndAct
  rintro ⟨h, -⟩
  obtain ⟨t, ht, -, -, hentry, -⟩ := h fetchingTwice 5 1 nopEntry (by decide) (by decide) (by decide) (by decide) (by decide) (by decide) (by decide)
  have hnone := fetched_ended
  rw [after_eq ht] at hnone
  rw [hnone] at hentry
  simp at hentry

/-! ## A write that enables no byte (R359) -/

/-- A word of the FKEK that stands above what its register holds. -/
def wordAbove : State := reg full Reg.SEC_FKEK1 (2 ^ 32)

/-- A write of that word with no byte enabled. -/
def noByte : RegWr := { pf 0x8114 9 with be := 0 }

theorem noByte_keeps_word : after (.fkekWrite noByte) wordAbove (fun t => rd t Reg.SEC_FKEK1) 0 = 2 ^ 32 := by decide

/-- Refutes O43: a write that enables no byte leaves the register, where the merged value is cut to the field. -/
theorem not_keysCountersAndReportsOfTheNode : ¬ Obligations.KeysCountersAndReportsOfTheNode := by
  unfold Obligations.KeysCountersAndReportsOfTheNode
  rintro ⟨-, h, -⟩
  obtain ⟨t, ht, -, -, hword, -⟩ := h wordAbove noByte 0 0 0x114 (by decide) (by decide) (by decide) (by decide)
  have hstays := noByte_keeps_word
  rw [after_eq ht, hword Reg.SEC_FKEK1 (by decide) rfl] at hstays
  exact absurd hstays (by decide)

/-! ## An estimate on a die at 105 °C (R430) -/

/-- A calibration set whose sensors read as they are and whose static power is zero. -/
def plainCal : Bytes := List.replicate 0x140 0 ++ (List.replicate 32 [0, 0, 0, 0x80]).flatten

/-- Firmware runs, and THM_CRITICAL stands above what its one bit holds. -/
def criticalAbove : State :=
  let s := reg (reg full Reg.GLB_FW_RUNNING 1) Reg.THM_CRITICAL 2
  { s with node := { s.node with pw := { s.node.pw with cal := some plainCal } } }

/-- Every sensor of both dies at 105 °C. -/
def hotDies : List Int := List.replicate 32 840

theorem critical_stays : after (.powerEstimate [] [] hotDies) criticalAbove (fun t => rd t Reg.THM_CRITICAL) 0 = 2 := by decide +kernel

/-- Refutes O49: an estimate on a node already critical leaves the register as it is. -/
theorem not_powerEstimatesMoveTheAllowances : ¬ Obligations.PowerEstimatesMoveTheAllowances := by
  unfold Obligations.PowerEstimatesMoveTheAllowances
  rintro ⟨h, -⟩
  obtain ⟨t, ht, -, -, -, -, -, -, -, -, -, -, -, -, hcritical, -⟩ := h criticalAbove [] [] hotDies (by decide) (by decide +kernel) (by decide) (by decide)
  have hstays := critical_stays
  rw [after_eq ht, (hcritical ⟨840, by decide +kernel, by decide⟩).1] at hstays
  exact absurd hstays (by decide)

/-! ## A virtual function writes its page (R372, R516) -/

/-- A node with one virtual function enabled. -/
def oneVf : State := { full with node := { full.node with bo := { full.node.bo with vfEnabled := 1 } } }

/-- That function writes the state of its own page, which is read-only. -/
def stateWrite : RegWr := { fn := .vf 1, off := 0x100, be := 15, data := 0 }

theorem stateWrite_counted : after (.registerWrite stateWrite) oneVf (fun t => rd t Reg.BLK_ERR_CNT 0x101) 0 = 1 := by decide

theorem oneVf_counted_none : rd oneVf Reg.BLK_ERR_CNT 0x101 = 0 := by decide

/-- Refutes O53: the write of a read-only register of its page by a virtual function is refused and captured, not ignored. -/
theorem not_registerWritesAreWholeOrIgnored : ¬ Obligations.RegisterWritesAreWholeOrIgnored := by
  unfold Obligations.RegisterWritesAreWholeOrIgnored
  rintro ⟨-, -, h, -⟩
  have ht := h oneVf stateWrite .PP 1 0x100 (by decide) (by decide) (by decide)
  have hcounted := stateWrite_counted
  rw [after_eq ht, oneVf_counted_none] at hcounted
  exact absurd hcounted (by decide)

/-! ## A COMMIT whose message is listed twice (R300, R388) -/

/-- The COMMIT's message, whole. -/
def commitMsg : InMsg :=
  { conn := 3, msn := 5, op := 8, parts := [], count := some 1, target := 0, cmpr := false, complete := true, behindFence := false, tick := 0, acted := false }

/-- A node that may commit, its inbound messages naming that message a second time, as a FENCE with nothing below it. -/
def committableTwice : State :=
  withTp committable { committable.node.tp with inMsgs := [commitMsg, { commitMsg with op := 9, behindFence := true }] }

/-- The wire form of the COMMIT. -/
def commitWire : Bytes := wire [4, 4, 8, 4, 4, 8] commitMem

theorem commit_lets_fence_act : after (.commitOp (.conn 3 5) commitWire) committableTwice (fun t => t.node.tp.conns.all (·.2.records.isEmpty)) true = false := by
  decide

/-- Refutes O55: once the COMMIT has arrived the FENCE of the same number acts and leaves its completion record. -/
theorem not_commitsRestoresAndOwnershipTimers : ¬ Obligations.CommitsRestoresAndOwnershipTimers := by
  unfold Obligations.CommitsRestoresAndOwnershipTimers
  rintro ⟨h, -⟩
  obtain ⟨t, ht, -, -, hconns, -⟩ := h committableTwice (.conn 3 5) commitWire commitMem 1 0 theSession anyStream (by decide) (by decide) (by decide)
    (by decide) (by decide) (by decide)
  have hacted := commit_lets_fence_act
  rw [after_eq ht, hconns] at hacted
  exact absurd hacted (by decide)

/-! ## A prefix request whose message is listed twice (R142, R300) -/

/-- A CAS of 32 zero bytes for ones, that waits behind a FENCE. -/
def fencedCas : InMsg :=
  { Refuted.swapping with parts := [(0, List.replicate 32 0 ++ List.replicate 32 1)], behindFence := true }

/-- A node on which a prefix operation runs; the message of a PIN is listed a second time as a FENCE, with that CAS behind it. -/
def pinningTwice : State :=
  let m := { commitMsg with op := 3 }
  withTp pfxRunning { pfxRunning.node.tp with
    inMsgs := [m, { m with op := 9, behindFence := true }, fencedCas], regions := [(2 ^ 24, copyRegion)] }

theorem pin_lets_cas_act : after (.pinBlocks (.conn 3 5) pinWire) pinningTwice (fun t => byteAt t (9 * 4096 + 64)) 0 = 1 := by decide +kernel

theorem pinningTwice_zero : byteAt pinningTwice (9 * 4096 + 64) = 0 := by decide

/-- Refutes O20: once the request has arrived the FENCE of the same number acts, and the CAS behind it stores. -/
theorem not_prefixRequestsWaitStartAndTakeEffect : ¬ Obligations.PrefixRequestsWaitStartAndTakeEffect := by
  unfold Obligations.PrefixRequestsWaitStartAndTakeEffect
  rintro ⟨h, -⟩
  obtain ⟨t, ht, -, -, hwaits, -⟩ := h pinningTwice .pin (.pinBlocks (.conn 3 5) pinWire) (.conn 3 5) pinWire pinMem 1 none (by decide) (by decide)
    (by decide +kernel) (by decide)
  obtain ⟨-, -, hmem⟩ := hwaits (by decide)
  have hswapped := pin_lets_cas_act
  rw [after_eq ht, show byteAt t (9 * 4096 + 64) = byteAt pinningTwice (9 * 4096 + 64) by unfold byteAt; rw [hmem], pinningTwice_zero] at hswapped
  exact absurd hswapped (by decide)

/-! ## A remote access whose message is marked as acted before it is whole (R292, R300) -/

/-- A READ of 9 bytes, none of whose packets has come, that is marked as acted. -/
def actedRead : InMsg := { InMsg.fresh 3 6 2 (6 * 2 ^ 40 + 2 * 2 ^ 32 + 256) with acted := true }

def readingActed : State := withTp accessed { accessed.node.tp with inMsgs := [actedRead] }

/-- The packet that makes it whole. -/
def readPart : MsgPart := aPart 6 true 256 (leBytes 4 9 ++ leBytes 4 0)

theorem actedRead_stays : after (.readOp readPart) readingActed (fun t => (t.view.inMsg readPart.conn readPart.msn).isSome) false = true := by decide +kernel

/-- Refutes O35: a message that is marked as acted does not act once it is whole, and stays. -/
theorem not_remoteAccessActsOnItsRegion : ¬ Obligations.RemoteAccessActsOnItsRegion := by
  unfold Obligations.RemoteAccessActsOnItsRegion
  rintro ⟨-, h, -⟩
  obtain ⟨t, ht, -, hgone, -⟩ := h readingActed readPart theConn { actedRead with target := 6 * 2 ^ 40 + 2 * 2 ^ 32 + 256 } theRegion
    (by decide) (by decide) (by decide) (by decide) (by decide)
  have hstays := actedRead_stays
  rw [after_eq ht, hgone] at hstays
  exact absurd hstays (by decide)

/-! ## A packet that waits for a port and has no route left ends a host entry (R346, R315) -/

/-- The header of a waiting packet of connection 3: its node has no route. -/
def waitingHead : PktHead :=
  { op := 1, flags := 1, hops := 1, dst := 1, srcNode := 4, dstNode := 9, epoch := 1, psn := 0, low := 0, msn := 4, index := 0, target := 0 }

/-- A node with an ACK due, and with a packet of a host entry's message that waits for a port and has no route. -/
def waitingUnrouted : State :=
  let sent : Sent := { psn := 0, msn := 4, index := 0, last := true, resp := false, sends := 1, port := limbo, overtaken := false }
  let s := withQ (busOn (schedulable { theConn with ackDue := true, unacked := [sent], txPsn := 1 })) (theQueue (hent 9 0 0))
  { s with node := { s.node with
    tp := { s.node.tp with outMsgs := [(7, aOut (.hostMsg 5 0))], nextOut := 8 }
    sc := { s.node.sc with portQ := [(limbo, [⟨3, waitingHead.bytes, none⟩])] } } }

/-- The ACK is what the scheduler forms. -/
def ackNext : Cand := { conn := 3, msg := none, again := none, sub := 0, misfiled := false, svc := 3, len := 128 }

theorem unrouted_completes : after .schedulerDecision waitingUnrouted (fun t => byteAt t (hostKey 0)) 0 = 9 := by decide +kernel

theorem waitingUnrouted_zero : byteAt waitingUnrouted (hostKey 0) = 0 := by decide

/-- Refutes O37: before the ACK is formed, the waiting packet's message ends, and its host entry's completion is written to host memory. -/
theorem not_theSchedulerFormsTheNextPacket : ¬ Obligations.TheSchedulerFormsTheNextPacket := by
  unfold Obligations.TheSchedulerFormsTheNextPacket
  rintro ⟨-, h, -⟩
  obtain ⟨c, hc⟩ : ∃ c, waitingUnrouted.view.placeWaiting.connOf 3 = some c := Option.isSome_iff_exists.1 (by decide +kernel)
  obtain ⟨t, ht, -, -, -, hmem⟩ := h waitingUnrouted ackNext c _ (by decide) (by decide +kernel) (by decide) (by decide +kernel) ⟨rfl, hc⟩ rfl
  have hwritten := unrouted_completes
  rw [after_eq ht, show byteAt t (hostKey 0) = byteAt waitingUnrouted (hostKey 0) by unfold byteAt; rw [hmem], waitingUnrouted_zero] at hwritten
  exact absurd hwritten (by decide)

/-! ## A course to be seeded that has lost a page (R385, R386) -/

/-- A course in tier 1, one of whose pages is lost. -/
def lostCourse : Course := { theCourse with loc := .ddr [], pages := [{ blankPage 1 with lost := true }] }

/-- A node whose stream has that course to seed next. -/
def seedingLost : State :=
  { seedingCourse with node := { seedingCourse.node with st := { seedingCourse.node.st with courses := [(2, lostCourse)] } } }

theorem lost_not_sent : after (.mirrorBatchSend 1 []) seedingLost (fun t => rd t Reg.MIR_BATCHES_SENT) 1 = 0 := by decide

theorem seedingLost_none_sent : rd seedingLost Reg.MIR_BATCHES_SENT = 0 := by decide

/-- Refutes O54: a course with a lost page leaves the list of those to be seeded, and no batch is sent for it. -/
theorem not_mirrorStreamsAreSeededSentAndLost : ¬ Obligations.MirrorStreamsAreSeededSentAndLost := by
  unfold Obligations.MirrorStreamsAreSeededSentAndLost
  rintro ⟨-, -, -, -, -, h, -⟩
  obtain ⟨t, ht, hcounted, -⟩ := h seedingLost 1 2 2 [] [] [] { anyStream with batches := [], toSeed := [2] } lostCourse theConn0
    (by decide) (by decide) (by decide) (by decide) ⟨⟨rfl, rfl⟩, by decide⟩ (by decide)
  have hnone := lost_not_sent
  rw [after_eq ht] at hnone
  rw [Counted, hnone, seedingLost_none_sent] at hcounted
  exact absurd hcounted (by decide)

/-! ## A course that reaches the prompt book's ring (R363) -/

/-- A course from the last frame of the slots onwards, as long as 2^21 frames. -/
def farCourse : Course := { theCourse with k := 21, loc := .hbm (slotFrames - 1) }

/-- A node with that course alone, whose partition has drawn on its stack's reserve. -/
def scrubFar : State := reg (withSt full { full.node.st with courses := [(2, farCourse)], reserveDrawn := [(2, 5)] }) Reg.CST_RESERVE 1

theorem zeroFrames_noneRetired (w : Work) (f n : Nat) (h : w.n.st.retiredFrames = []) : w.zeroFrames f n = (n, w.zero (frameAddr f) (n * 4096)) := by
  simp [Work.zeroFrames, h]

/-- The frames of a course in HBM are zeroed at once; then it is freed. -/
theorem scrubCourse_hbm (w : Work) (p ci f : Nat) (c : Course) (hc : w.course ci = some c) (hl : c.loc = .hbm f) (h : w.n.st.retiredFrames = []) :
    w.scrubCourse p ci =
      ((w.zero (frameAddr f) (w.courseFrames c * 4096)).modStrike p fun r => { r with frames := r.frames + (0 + w.courseFrames c) }).freeCourse ci := by
  simp only [Work.scrubCourse, hc, hl, Work.frameSpans, List.foldl_cons, List.foldl_nil, zeroFrames_noneRetired _ _ _ h]

theorem ring_written : (((scrubFar.view.zero (frameAddr (slotFrames - 1)) (scrubFar.view.courseFrames farCourse * 4096)).modStrike 1
    fun r => { r with frames := r.frames + (0 + scrubFar.view.courseFrames farCourse) }).freeCourse 2).byte ringBase ≠ 0 := by decide +kernel

/-- Refutes O42: the frames are zeroed before they are given back, and the event of their return to the reserve is written into the ring. -/
theorem not_aStrikeFencesDrainsScrubsAndPublishes : ¬ Obligations.AStrikeFencesDrainsScrubsAndPublishes := by
  unfold Obligations.AStrikeFencesDrainsScrubsAndPublishes
  rintro ⟨-, -, -, -, -, h, -⟩
  obtain ⟨-, hzero⟩ := h scrubFar.view 1 2 (slotFrames - 1) farCourse ⟨rfl, rfl⟩ rfl
  have hring := hzero ringBase (by decide) (by decide)
  rw [scrubCourse_hbm _ 1 2 (slotFrames - 1) farCourse rfl rfl rfl] at hring
  exact ring_written hring

end Sys2Proof.Refuted
end
